-- ==== Sys2Proof/Word.lean ====
section
/-!
DEFINITION. The word types of the device: the byte, the 32-bit register word, and the three-valued
answer of a timed or gated event. The spec's registers are 32 or 64 bits wide and little-endian (R4, R24).
-/

namespace Sys2Proof

/-- One byte of a buffer, a frame, a manifest image or a memory cell (R4). -/
abbrev Byte := BitVec 8

/-- A 32-bit register word (R24). -/
abbrev Word := BitVec 32

end Sys2Proof
end

