-- ==== Sys2Proof/Machine/Maps.lean ====
section
/-!
DEFINITION. Sparse data in one canonical form: a list of (key, value) pairs with strictly rising keys, in
which no entry equals what an unlisted key reads as. Register fields, tables and memories are all held so.
-/

namespace Sys2Proof.Machine

/-- Sparse data keyed by `Nat`. -/
abbrev SMap (α : Type) := List (Nat × α)

/-- What key `k` reads as; `d` says what an unlisted key reads as. -/
def SMap.get {α : Type} (d : Nat → α) : SMap α → Nat → α
  | [], k => d k
  | (j, v) :: m, k => if j = k then v else SMap.get d m k

/-- Replace or insert the entry of `k`, keeping the keys rising. -/
def SMap.ins {α : Type} (k : Nat) (v : α) : SMap α → SMap α
  | [] => [(k, v)]
  | (j, w) :: m => if k < j then (k, v) :: (j, w) :: m else if j = k then (k, v) :: m else (j, w) :: SMap.ins k v m

/-- Remove the entry of `k`. -/
def SMap.del {α : Type} (k : Nat) (m : SMap α) : SMap α := m.filter fun e => e.1 != k

/-- Write `v` at `k`: the entry goes when `v` is what an unlisted `k` reads as. -/
def SMap.set {α : Type} [DecidableEq α] (d : Nat → α) (m : SMap α) (k : Nat) (v : α) : SMap α :=
  if v = d k then SMap.del k m else SMap.ins k v m

/-- The canonical form: strictly rising keys, no entry equal to its default. -/
abbrev SMap.wf {α : Type} (d : Nat → α) (m : SMap α) : Prop :=
  m.Pairwise (fun a b => a.1 < b.1) ∧ ∀ e ∈ m, e.2 ≠ d e.1

/-- Drop every entry whose key satisfies `p`, so that those keys read their default again. -/
def SMap.clear {α : Type} (p : Nat → Bool) (m : SMap α) : SMap α := m.filter fun e => !p e.1

/-- Change every listed value; one that becomes what an unlisted key reads as goes. -/
def SMap.mapv {α : Type} [DecidableEq α] (d : α) (f : Nat → α → α) (m : SMap α) : SMap α :=
  m.filterMap fun e => if f e.1 e.2 = d then none else some (e.1, f e.1 e.2)

/-- The list with `x` at place `i`, filled up with `d` where it is shorter. -/
def setAt {α : Type} (d : α) (l : List α) (i : Nat) (x : α) : List α := (l ++ List.replicate (i + 1 - l.length) d).set i x

/-- Bits `hi` down to `lo` of `v` (R4). -/
def bits (v hi lo : Nat) : Nat := (v >>> lo) % 2 ^ (hi + 1 - lo)

/-- Bit `i` of `v`. -/
def bit (v i : Nat) : Nat := (v >>> i) % 2

/-- `v` with bits `hi` down to `lo` replaced by the low bits of `x`. -/
def setBits (v hi lo x : Nat) : Nat :=
  v - (bits v hi lo) <<< lo + (x % 2 ^ (hi + 1 - lo)) <<< lo

/-- The signed reading of the low `w` bits of `v`. -/
def toSigned (w v : Nat) : Int :=
  let u := v % 2 ^ w
  if 2 * u < 2 ^ w then (u : Int) else (u : Int) - 2 ^ w

/-- The low `w` bits of the two's complement of `i`. -/
def ofSigned (w : Nat) (i : Int) : Nat := (i % (2 ^ w : Int)).toNat

/-- The little-endian number in a list of bytes (R4). -/
def leNat : List Byte → Nat
  | [] => 0
  | b :: bs => b.toNat + 256 * leNat bs

/-- The low `n` bytes of `v`, little-endian (R4). -/
def leBytes : Nat → Nat → List Byte
  | 0, _ => []
  | n + 1, v => BitVec.ofNat 8 v :: leBytes n (v / 256)

/-- `n` bytes of `bs` from offset `off`, zero bytes past its end. -/
def slice (bs : List Byte) (off n : Nat) : List Byte :=
  let t := (bs.drop off).take n
  t ++ List.replicate (n - t.length) 0

/-- Bits `hi` to `lo` of the little-endian number that starts at byte `off` of `bs`: how the spec's byte
layouts name a field ("0x10 [31:16]"). -/
def fieldAt (bs : List Byte) (off hi lo : Nat) : Nat :=
  bits (leNat (slice bs off (hi / 8 + 1))) hi lo

/-- Rounded-up division. -/
def ceilDiv (a b : Nat) : Nat := (a + b - 1) / b

/-- The smallest `e` with `n ≤ 2 ^ e`, searched below `fuel`. -/
def log2Up (n : Nat) : Nat := if n ≤ 1 then 0 else Nat.log2 (n - 1) + 1

/-- Saturating addition at `top`, for the counters the spec says saturate. -/
def satAdd (top a b : Nat) : Nat := min top (a + b)

/-- Fold an update over the numbers `0 … n - 1` in rising order. -/
def forUpto {σ : Type} (n : Nat) (f : Nat → σ → σ) (s : σ) : σ := (List.range n).foldl (fun t i => f i t) s

end Sys2Proof.Machine
end

