-- ==== Sys2Proof/Machine/Tree.lean ====
section
/-!
DEFINITION. The unit path tree (R5, R8-R12), the page index of every unit (R43), and the header constants that
follow from it: UNIT_ID, UNIT_PATH and the capability links (R29-R33).
-/

namespace Sys2Proof.Machine

/-- The two ordering codes (R2). -/
inductive Variant where
  | m768
  | m384
deriving DecidableEq, Repr

/-- Every unit of the tree (R11). `n` partition, `m` cluster, `j` core, `s` controller, `b` bulk stack, `e` optical
engine, `q` port, `a` laser bay. -/
inductive UnitId where
  | dev | sp0 | hif | epo | dsy | flt | sec | mgt | pwr | thm | clk
  | lb (a : Nat)
  | part (n : Nat)
  | psy (n : Nat)
  | dr (n : Nat)
  | mc (n s : Nat)
  | bu (n s : Nat)
  | bk (n b : Nat)
  | oe (n e : Nat)
  | pt (n e q : Nat)
  | cluster (n m : Nat)
  | core (n m j : Nat)
  | mx (n m j : Nat)
  | vx (n m j : Nat)
  | tm (n m j : Nat)
  | bc (n m j : Nat)
  | sp (n m j : Nat)
  | cc (n m j : Nat)
deriving DecidableEq, Repr

/-- The page mnemonics of R11 and the header-only groups: which register table a page has. -/
inductive Block where
  | headerOnly | hif | epo | serai | flt | sec | mgt | pwr | thm | clk | bay | drv | mcs | bku | blk | opt | evl
  | mxe | vxe | tmv | bkc | spd
deriving DecidableEq, Repr

/-- First page index of a unit (R43). -/
def UnitId.page : UnitId → Nat
  | .dev => 0x2000 | .sp0 => 0x2001 | .hif => 0x2010 | .epo => 0x2018 | .dsy => 0x2020 | .flt => 0x2028
  | .sec => 0x2030 | .mgt => 0x2038 | .pwr => 0x2040 | .thm => 0x2048 | .clk => 0x2050
  | .lb a => 0x2058 + a
  | .part n => 0x800 * n + 0x400
  | .cluster n m => 0x800 * n + 0x401 + m
  | .psy n => 0x800 * n + 0x408
  | .dr n => 0x800 * n + 0x40C
  | .mc n s => 0x800 * n + 0x410 + 8 * s
  | .bu n s => 0x800 * n + 0x414 + 8 * s
  | .bk n b => 0x800 * n + 0x428 + 2 * b
  | .oe n e => 0x800 * n + 0x430 + 8 * e
  | .pt n e q => 0x800 * n + 0x431 + 8 * e + q
  | .core n m j => 0x800 * n + 128 * m + 16 * j
  | .mx n m j => 0x800 * n + 128 * m + 16 * j + 1
  | .vx n m j => 0x800 * n + 128 * m + 16 * j + 2
  | .tm n m j => 0x800 * n + 128 * m + 16 * j + 3
  | .bc n m j => 0x800 * n + 128 * m + 16 * j + 4
  | .sp n m j => 0x800 * n + 128 * m + 16 * j + 5
  | .cc n m j => 0x800 * n + 128 * m + 16 * j + 6

/-- The number of consecutive pages of a unit (R43). -/
def UnitId.pages : UnitId → Nat
  | .hif => 4 | .dsy => 2 | .flt => 2 | .thm => 2 | .psy _ => 3 | .dr _ => 2 | .mc _ _ => 4 | .bk _ _ => 2
  | _ => 1

/-- The unit whose page range holds page index `p`, with the page number inside it (R43, R44). -/
def unitOfPage (p : Nat) : Option (UnitId × Nat) :=
  let o := p % 0x800
  let n := p / 0x800
  if n = 4 then
    if o = 0 then some (.dev, 0) else if o = 1 then some (.sp0, 0)
    else if 0x10 ≤ o ∧ o < 0x14 then some (.hif, o - 0x10) else if o = 0x18 then some (.epo, 0)
    else if 0x20 ≤ o ∧ o < 0x22 then some (.dsy, o - 0x20) else if 0x28 ≤ o ∧ o < 0x2A then some (.flt, o - 0x28)
    else if o = 0x30 then some (.sec, 0) else if o = 0x38 then some (.mgt, 0) else if o = 0x40 then some (.pwr, 0)
    else if 0x48 ≤ o ∧ o < 0x4A then some (.thm, o - 0x48) else if o = 0x50 then some (.clk, 0)
    else if 0x58 ≤ o ∧ o < 0x5C then some (.lb (o - 0x58), 0) else none
  else if n < 4 then
    if o < 0x280 then
      let m := o / 128
      let j := o / 16 % 8
      match o % 16 with
      | 0 => some (.core n m j, 0) | 1 => some (.mx n m j, 0) | 2 => some (.vx n m j, 0) | 3 => some (.tm n m j, 0)
      | 4 => some (.bc n m j, 0) | 5 => some (.sp n m j, 0) | 6 => some (.cc n m j, 0) | _ => none
    else if o = 0x400 then some (.part n, 0)
    else if 0x401 ≤ o ∧ o < 0x406 then some (.cluster n (o - 0x401), 0)
    else if 0x408 ≤ o ∧ o < 0x40B then some (.psy n, o - 0x408)
    else if 0x40C ≤ o ∧ o < 0x40E then some (.dr n, o - 0x40C)
    else if 0x410 ≤ o ∧ o < 0x428 then
      let s := (o - 0x410) / 8
      let r := (o - 0x410) % 8
      if r < 4 then some (.mc n s, r) else if r = 4 then some (.bu n s, 0) else none
    else if 0x428 ≤ o ∧ o < 0x42C then some (.bk n ((o - 0x428) / 2), (o - 0x428) % 2)
    else if 0x430 ≤ o ∧ o < 0x440 then
      let e := (o - 0x430) / 8
      let r := (o - 0x430) % 8
      if r = 0 then some (.oe n e, 0) else if r < 5 then some (.pt n e (r - 1), 0) else none
    else none
  else none

/-- The unit that a page index names, whichever of its pages it is. -/
def unitAt (p : Nat) : Option UnitId := (unitOfPage p).map Prod.fst

/-- The register table of a unit's page (R11). -/
def UnitId.block : UnitId → Block
  | .hif => .hif | .epo => .epo | .dsy | .psy _ => .serai | .flt => .flt | .sec => .sec | .mgt => .mgt | .pwr => .pwr
  | .thm => .thm | .clk => .clk | .lb _ => .bay | .dr _ => .drv | .mc _ _ => .mcs | .bu _ _ => .bku | .bk _ _ => .blk
  | .oe _ _ => .opt | .pt _ _ _ => .evl | .mx _ _ _ => .mxe | .vx _ _ _ => .vxe | .tm _ _ _ => .tmv | .bc _ _ _ => .bkc
  | .sp _ _ _ => .spd
  | .dev | .sp0 | .part _ | .cluster _ _ | .core _ _ _ | .cc _ _ _ => .headerOnly

/-- The class code of a unit (R31). -/
def UnitId.classCode : UnitId → Nat
  | .dev => 0x01 | .sp0 => 0x02 | .part _ => 0x03 | .cluster _ _ => 0x04 | .core _ _ _ => 0x05 | .cc _ _ _ => 0x06
  | .epo => 0x07 | .dr _ => 0x08 | .dsy | .psy _ => 0x09 | .mx _ _ _ => 0x0A | .vx _ _ _ => 0x0B | .sp _ _ _ => 0x0C
  | .tm _ _ _ => 0x0D | .bc _ _ _ => 0x0E | .mc _ _ => 0x0F | .bu _ _ => 0x10 | .bk _ _ => 0x11
  | .oe _ _ | .lb _ => 0x12 | .hif => 0x13 | .flt => 0x14 | .sec => 0x15 | .pwr => 0x16 | .thm => 0x17 | .clk => 0x18
  | .mgt => 0x19 | .pt _ _ _ => 0x1A

/-- The direct members of a group, in rising page order (R11; the order of the walk is the model's, log entry 9). -/
def UnitId.members : UnitId → List UnitId
  | .dev => [.part 0, .part 1, .part 2, .part 3, .sp0]
  | .sp0 => [.hif, .epo, .dsy, .flt, .sec, .mgt, .pwr, .thm, .clk, .lb 0, .lb 1, .lb 2, .lb 3]
  | .part n => (List.range 5).map (.cluster n) ++ [.psy n, .dr n, .mc n 0, .mc n 1, .mc n 2, .bk n 0, .bk n 1, .oe n 0, .oe n 1]
  | .cluster n m => (List.range 8).map (.core n m)
  | .core n m j => [.mx n m j, .vx n m j, .tm n m j, .bc n m j, .sp n m j, .cc n m j]
  | .mc n s => [.bu n s]
  | .oe n e => (List.range 4).map (.pt n e)
  | _ => []

/-- The parent group of a unit; none for `dev` (R11, R32). -/
def UnitId.parent : UnitId → Option UnitId
  | .dev => none
  | .sp0 | .part _ => some .dev
  | .hif | .epo | .dsy | .flt | .sec | .mgt | .pwr | .thm | .clk | .lb _ => some .sp0
  | .psy n | .dr n | .mc n _ | .bk n _ | .oe n _ | .cluster n _ => some (.part n)
  | .bu n s => some (.mc n s)
  | .pt n e _ => some (.oe n e)
  | .core n m _ => some (.cluster n m)
  | .mx n m j | .vx n m j | .tm n m j | .bc n m j | .sp n m j | .cc n m j => some (.core n m j)

/-- The partition that holds a unit, the partition header included; none for `dev` and the spine. -/
def UnitId.partition : UnitId → Option Nat
  | .part n | .psy n | .dr n | .mc n _ | .bu n _ | .bk n _ | .oe n _ | .pt n _ _ | .cluster n _ | .core n _ _
  | .mx n _ _ | .vx n _ _ | .tm n _ _ | .bc n _ _ | .sp n _ _ | .cc n _ _ => some n
  | _ => none

/-- Groups have members (R11, R32). -/
def UnitId.isGroup (u : UnitId) : Bool := !u.members.isEmpty

/-- The units that hold active and previous configuration sets: the memory controllers (15, R354, R355) and
`sp0.mgt` (R515). -/
def UnitId.cfgVersioned : UnitId → Bool
  | .mc _ _ | .mgt => true
  | _ => false

/-- Every unit whose page is not header-only owns one ledger (03, Ledgers). -/
def UnitId.ownsLedger (u : UnitId) : Bool := u.block != .headerOnly

/-- A unit and all units nested in it, outermost first (R13). `fuel` is the depth of the tree: 5. -/
def UnitId.subtree : Nat → UnitId → List UnitId
  | 0, u => [u]
  | f + 1, u => u :: (u.members.flatMap fun v => UnitId.subtree f v)

/-- All units below and including `u`. -/
def UnitId.all (u : UnitId) : List UnitId := UnitId.subtree 5 u

/-- The ASCII bytes of a unit path (R5, R29). -/
def UnitId.path : UnitId → List Nat
  | .dev => [0x64, 0x65, 0x76]
  | .sp0 => [0x73, 0x70, 0x30]
  | .hif => [0x73, 0x70, 0x30, 0x2E, 0x68, 0x69, 0x66]
  | .epo => [0x73, 0x70, 0x30, 0x2E, 0x65, 0x70, 0x6F]
  | .dsy => [0x73, 0x70, 0x30, 0x2E, 0x73, 0x79]
  | .flt => [0x73, 0x70, 0x30, 0x2E, 0x66, 0x6C, 0x74]
  | .sec => [0x73, 0x70, 0x30, 0x2E, 0x73, 0x65, 0x63]
  | .mgt => [0x73, 0x70, 0x30, 0x2E, 0x6D, 0x67, 0x74]
  | .pwr => [0x73, 0x70, 0x30, 0x2E, 0x70, 0x77, 0x72]
  | .thm => [0x73, 0x70, 0x30, 0x2E, 0x74, 0x68, 0x6D]
  | .clk => [0x73, 0x70, 0x30, 0x2E, 0x63, 0x6C, 0x6B]
  | .lb a => [0x73, 0x70, 0x30, 0x2E, 0x6C, 0x62, 0x30 + a]
  | .part n => [0x70, 0x30 + n]
  | .psy n => [0x70, 0x30 + n, 0x2E, 0x73, 0x79]
  | .dr n => [0x70, 0x30 + n, 0x2E, 0x64, 0x72]
  | .mc n s => [0x70, 0x30 + n, 0x2E, 0x6D, 0x63, 0x30 + s]
  | .bu n s => [0x70, 0x30 + n, 0x2E, 0x6D, 0x63, 0x30 + s, 0x2E, 0x62, 0x75]
  | .bk n b => [0x70, 0x30 + n, 0x2E, 0x62, 0x6B, 0x30 + b]
  | .oe n e => [0x70, 0x30 + n, 0x2E, 0x6F, 0x65, 0x30 + e]
  | .pt n e q => [0x70, 0x30 + n, 0x2E, 0x6F, 0x65, 0x30 + e, 0x2E, 0x70, 0x74, 0x30 + q]
  | .cluster n m => [0x70, 0x30 + n, 0x2E, 0x63, 0x30 + m]
  | .core n m j => [0x70, 0x30 + n, 0x2E, 0x63, 0x30 + m, 0x2E, 0x6B, 0x30 + j]
  | .mx n m j => [0x70, 0x30 + n, 0x2E, 0x63, 0x30 + m, 0x2E, 0x6B, 0x30 + j, 0x2E, 0x6D, 0x78]
  | .vx n m j => [0x70, 0x30 + n, 0x2E, 0x63, 0x30 + m, 0x2E, 0x6B, 0x30 + j, 0x2E, 0x76, 0x78]
  | .tm n m j => [0x70, 0x30 + n, 0x2E, 0x63, 0x30 + m, 0x2E, 0x6B, 0x30 + j, 0x2E, 0x74, 0x6D]
  | .bc n m j => [0x70, 0x30 + n, 0x2E, 0x63, 0x30 + m, 0x2E, 0x6B, 0x30 + j, 0x2E, 0x62, 0x63]
  | .sp n m j => [0x70, 0x30 + n, 0x2E, 0x63, 0x30 + m, 0x2E, 0x6B, 0x30 + j, 0x2E, 0x73, 0x70]
  | .cc n m j => [0x70, 0x30 + n, 0x2E, 0x63, 0x30 + m, 0x2E, 0x6B, 0x30 + j, 0x2E, 0x63, 0x63]

/-- The unit after `u` among its parent's members (R32). -/
def UnitId.nextSibling (u : UnitId) : Option UnitId :=
  match u.parent with
  | none => none
  | some g => ((g.members.dropWhile (· != u)).drop 1).head?

/-- A link field of CAPS_1 or CAPS_2: 0x3FFF means none (R32). -/
def linkOf : Option UnitId → Nat
  | none => 0x3FFF
  | some u => u.page

/-- CAPS_3 of each class (R33, R128, R197, R215, R245, R282, R284, R353, R414); 0 where no chapter defines one. -/
def UnitId.caps3 (v : Variant) : UnitId → Nat
  | .dev => match v with
    | .m768 => 64 + 16 * 2 ^ 8 + 16 * 2 ^ 13 + 476 * 2 ^ 18
    | .m384 => 32 + 8 * 2 ^ 8 + 8 * 2 ^ 13 + 380 * 2 ^ 18
  | .core _ _ _ => 4 + 8 * 2 ^ 4 + 24 * 2 ^ 12
  | .psy _ => 64 + 64 * 2 ^ 8 + 32 * 2 ^ 16 + 16 * 2 ^ 24
  | .dsy => 16 + 16 * 2 ^ 8 + 8 * 2 ^ 16 + 4 * 2 ^ 24
  | .mx _ _ _ => 1 + 2 + 4 + 7 * 2 ^ 3
  | .vx _ _ _ => 1 + 2 + 4 + 8 + 16 * 2 ^ 4 + 256 * 2 ^ 12 + 256 * 2 ^ 21
  | .sp _ _ _ => 24 + 11 * 2 ^ 8 + 4 * 2 ^ 12 + 96 * 2 ^ 15 + 16 * 2 ^ 23 + 12 * 2 ^ 28
  | .tm _ _ _ => 1 + 2 + 4 + 64 * 2 ^ 3 + 5 * 2 ^ 10 + 768 * 2 ^ 14
  | .bu _ _ => 16 + 8 * 2 ^ 5 + 2 * 2 ^ 9 + 32 * 2 ^ 11 + 32 * 2 ^ 17 + 32 * 2 ^ 23
  | .bc _ _ _ => 1 + 2 + 4 + 8 + 16 + 8 * 2 ^ 5
  | .mc _ _ => 32 + 48 * 2 ^ 6 + 8 * 2 ^ 12 + 64 * 2 ^ 16 + 32 * 2 ^ 23
  | .pt _ _ _ => 4 + 4 * 2 ^ 3 + 256 * 2 ^ 6 + 256 * 2 ^ 15
  | .oe _ _ => 16 + 18 * 2 ^ 5 + 4 * 2 ^ 10
  | _ => 0

/-- CAPS_0 (R32). -/
def UnitId.caps0 (u : UnitId) : Nat :=
  u.pages + (if u.isGroup then 2 ^ 4 else 0) + (if u.cfgVersioned then 2 ^ 5 else 0) + u.members.length * 2 ^ 16

/-- CAPS_1 (R32). -/
def UnitId.caps1 (u : UnitId) : Nat := linkOf u.members.head? + linkOf u.nextSibling * 2 ^ 16

/-- CAPS_2 (R32). -/
def UnitId.caps2 (u : UnitId) : Nat := linkOf u.parent

/-- A header constant word at byte offset `off` of a unit's first page, when `off` is one of R29-R33. -/
def UnitId.constWord (v : Variant) (u : UnitId) (off : Nat) : Option Nat :=
  if off = 0 then some (u.classCode + 0x2A09 * 2 ^ 16)
  else if off = 4 then some 0x01000100
  else if 8 ≤ off ∧ off < 0x28 then
    let p := (u.path.drop (off - 8)).take 4
    some (p.foldr (fun c a => c + 256 * a) 0)
  else if off = 0x30 then some u.caps0
  else if off = 0x34 then some u.caps1
  else if off = 0x38 then some u.caps2
  else if off = 0x3C then some (u.caps3 v)
  else none

/-- Core number g = 40n + 8m + j (R49). -/
def coreNo (n m j : Nat) : Nat := 40 * n + 8 * m + j

/-- The core header unit of core number `g` (R49). -/
def coreUnit (g : Nat) : UnitId := .core (g / 40) (g / 8 % 5) (g % 8)

/-- Controller of stack D(d) (R9). -/
def mcOf (d : Nat) : UnitId := .mc (d / 3) (d % 3)

/-- Bank-unit global control of stack D(d) (R9). -/
def buOf (d : Nat) : UnitId := .bu (d / 3) (d % 3)

/-- Elviasyn port P as a unit (R9). -/
def portUnit (p : Nat) : UnitId := .pt (p / 8) (p / 4 % 2) (p % 4)

/-- Bulk stack B(b) as a unit (R9). -/
def bulkUnit (b : Nat) : UnitId := .bk (b / 2) (b % 2)

/-- Optical engine E(e) as a unit (R9). -/
def oeUnit (e : Nat) : UnitId := .oe (e / 2) (e % 2)

/-- Core number of an engine or core unit. -/
def UnitId.coreNum : UnitId → Option Nat
  | .core n m j | .mx n m j | .vx n m j | .tm n m j | .bc n m j | .sp n m j | .cc n m j => some (coreNo n m j)
  | _ => none

end Sys2Proof.Machine
end

