-- ==== Sys2Proof/Machine/Regs.lean ====
section
/-!
DEFINITION. Every register field of the common header and of the block pages, with its offset, its bits, its access
code, its reset value and the values it may take, row by row from the register tables of the chapters (R29-R41, R71,
R151, R198, R216, R246, R283, R284, R308, R329, R330, R354-R357, R378, R381, R415-R417, R426, R447, R485, R486,
R506-R508, R523). A constructor of `Fld` is the block's name followed by the field's name.
-/

namespace Sys2Proof.Machine

/-- The access codes of R25. -/
inductive Acc where
  | ro | rw | rwl | w1c | w1s | rc | wo
deriving DecidableEq, Repr

/-- Which values a write may store (R26); any other value is handled as the constructor says. -/
inductive Legal where
  /-- every value of the field's width -/
  | any
  /-- `lo` to `hi`; another value keeps the old value and sets BAD_WRITE -/
  | range (lo hi : Nat)
  /-- up to `hi`; another value is kept as 0 and sets BAD_WRITE (VC_OP, R71) -/
  | elseNop (hi : Nat)
deriving DecidableEq, Repr

/-- A register field. -/
inductive Fld where
  | hdrCtrlSync | hdrCtrlFence | hdrCtrlUnfence | hdrCtrlReset | hdrFenced | hdrOutOfService | hdrErrPending
  | hdrCfgStaged | hdrResult | hdrSkippedPart | hdrResetting | hdrIrqStat | hdrIrqEn | hdrIrqForce | hdrLocked
  | hdrLockViolation | hdrBadWrite | hdrActiveBank | hdrPrevValid | hdrStaged | hdrActiveGen | hdrRollback
  | hdrErrValid | hdrErrOverflow | hdrErrSeverity | hdrErrCode | hdrErrCount | hdrErrEpoch | hdrErrDetail
  | hdrMsEpoch | hdrMsAction | hdrMsArg | hdrMsState | hdrMsDisarm | hdrMsArm
  | epoEpochNow | epoEpochEra | epoEpochAdvance | epoEpochFloor | epoFloorKind | epoFloorId | epoSrc | epoWarnExp
  | epoPeer | epoAdvResult | epoAdvRefused | epoVcRegion | epoVcSlot | epoVcOp | epoVcResult | epoVcGo | epoVcmdStart
  | epoVcmdEnd | epoVcmdBase | epoVsState | epoVsGen | epoVsEpoch | epoLdgSel | epoLdgBase | epoLdgSize | epoLdgGen
  | epoLdgEn | epoLdgWptr | epoLdgRptr | epoLdgDropped
  | seraiHopIndex | seraiHopKind | seraiHopOp | seraiHopStatus | seraiHopGo | seraiHopArg | seraiHopResult0
  | seraiHopResult1 | seraiHwinBase | seraiHwinCount | seraiRwinBase | seraiRwinCount | seraiWdogTimeout
  | seraiWdogAction | seraiWdogEn | seraiWdogFires | seraiHeldNow | seraiHeldPeak | seraiRemoteRejected
  | engEngState | engActiveCtx | engDescDone | engExcNv | engExcOf | engExcUf | engExcNl | engExcSc | engBusyCycles
  | engStallLine | engLsetActive
  | spdSbUsed | spdSbPeak | spdSbClaims | spdSbConflictCyc | spdSbFullCyc | spdSlotEngine | spdSlotTmv
  | spdSlotNarrow | spdSlotIdle | spdNbHits | spdNbMisses | spdDbgHazard | spdSpBase | spdSpNeed
  | tmvStateLd | tmvStateSt | tmvStateGt | tmvDescDone | tmvBytesRead | tmvBytesWritten | tmvClampUnits | tmvPadUnits
  | tmvCoalesced | tmvRetries | tmvTlbMisses | tmvFaults | tmvReqStall | tmvLsetActive
  | bkcEngState | bkcDescDone | bkcUploadBytes | bkcRecordBytes | bkcAdmitWait | bkcFaults | bkcLsetActive
  | bkuHmState | bkuHmReq | bkuHmIdleUs | bkuHostGang | bkuAbChan | bkuAbBank | bkuAbAllCh | bkuAbAllBank | bkuAbTag
  | bkuAbTagEn | bkuAbGo | bkuAbAborted | bkuAbNta | bkuSeqDone | bkuSeqAborted | bkuSteps | bkuWaitSteps | bkuGapNs
  | bkuOpbufUsed | bkuHostDiscard | bkuBuSelChan | bkuBuSelBank | bkuBuView
  | mcsQosMode | mcsAgeCapNs | mcsRecalMs | mcsFrzAutoUs | mcsFrozen | mcsFrzRelease | mcsFrzForce | mcsFailed
  | mcsQosSum | mcsQosCap | mcsRef2x | mcsLatMiss | mcsRefForced | mcsLegWaits | mcsIdleCycleReads | mcsFreezes
  | mcsLinMap | mcsBmpMap | mcsPlaceResult | mcsSideWrites | mcsVetFails | mcsRowops | mcsEntrySkips | mcsLatTarget
  | mcsRate | mcsBurstKib | mcsHard | mcsTokens | mcsServedKib | mcsFrzValid | mcsFrzChan | mcsFrzCause | mcsFrzCount
  | mcsErrBank | mcsErrRow | mcsErrCol | mcsErrDpa | mcsSyndrome | mcsFrzEpoch | mcsHeldRd | mcsHeldWr | mcsFrzRc
  | mcsFrzHm | mcsFrzGang | mcsCmdHist | mcsMr | mcsChState | mcsRecal | mcsChRc | mcsRdQ | mcsWrQ | mcsFreezes1s
  | mcsRefreshes | mcsRecals
  | drvSegOp | drvSegGo | drvSegId | drvSegResult | drvSegState | drvSegBase | drvSegBaseEn | drvSegRec | drvSegPages
  | drvSegFirst | drvSegHeat | drvSegCount | drvSegSrcDpa | drvCatRegion | drvCatSlot | drvCatGen | drvPoolSel
  | drvPoolBase | drvPoolFrames | drvPoolEn | drvHits | drvMisses | drvPromoted | drvBypass | drvEvicted
  | drvFreePages
  | blkBlkState | blkPeAvg | blkPeMax | blkLifeUsed | blkDiesRetired | blkHostBytes | blkMediaBytes | blkReadRetries
  | blkReadPoisoned
  | fltPartState | fltDevService | fltResetGo | fltReadmit | fltAutoReset | fltDrainNs | fltResetsWin | fltEscLimit
  | fltEscWindowS | fltLastSrc | fltLastCode | fltLastEpoch | fltLastRecoveryNs | fltReplayed | fltNotReplayed
  | fltSpineMismatch | fltSpineResync | fltJoined | fltJrnSel | fltJrnState | fltJrnSnap | fltJrnSess | fltJrnTag
  | fltFltPend | fltIntSel | fltCeOde | fltCeSym | fltUe | fltPoisonReads | fltMerges | fltCeThresh | fltCeWindowS
  | fltRowCeThresh | fltRepairAuto | fltRepairs | fltRepairPending | fltScrubPasses | fltReqChan | fltReqBank
  | fltReqRow | fltRepairGo | fltTestMode | fltTestChan | fltTestResult | fltTestChk | fltRawChk | fltRawSyn
  | evlPortState | evlWidth | evlLanesOk | evlDownCause | evlPortEn | evlRetrain | evlMbrEn | evlMbrLeave
  | evlEpochTx | evlSelfAddr | evlSelfValid | evlPartnerAddr | evlPartnerFwd | evlPartnerId | evlTxCrData
  | evlTxCrSig | evlTxCrResp | evlTxCrMgmt | evlDseqTx | evlLanded | evlRttNs | evlBerThresh | evlFlitsTx
  | evlFlitsRx | evlFecCorr | evlFecUncorr | evlReplays | evlRespTimeoutUs | evlPresentUs | evlDeadCount | evlBseqTx
  | evlMgen | evlExpRoot | evlMbrSel | evlMbrState | evlReachHere | evlMbrClear | evlMbrId | evlMisrouted
  | evlBadFrame | evlDupBcast | evlOutstanding | evlReach
  | optFeed0Bay | optFeed1Bay | optFeed0Ok | optFeed1Ok | optFeed0Uw | optFeed1Uw | optLaneFault | optSparesUsed
  | optLane
  | bayCartState | bayPresent | bayLatchClosed | bayPrepare | bayForce | bayCancel | bayBayEn | bayPower | bayCaseC
  | bayHeaterOn | bayHours | bayCartId | bayFedMask
  | hifSessSel | hifSessOp | hifSessResult | hifSessGo | hifSessState | hifSessLink | hifSqLog2 | hifCqLog2
  | hifSqBase | hifCqBase | hifCqTailAddr | hifFlagBase | hifFlagIrq | hifSflagBase | hifSqHead | hifCqTail
  | hifIrqvSel | hifIrqvVec | hifLinkState | hifLinkWidth | hifCtxsCore | hifCtxsCtx | hifCtxsState | hifCtxsSess
  | hifDbDiscard
  | secLcState | secDbgLevel | secKeyValid | secPskValid | secSpdmSessions | secMeasGen | secUnlockAll | secDenied
  | pwrPstate | pwrPstateTgt | pwrPstateReq | pwrPsGo | pwrPsResult | pwrOosEn | pwrPartOos | pwrExitUs | pwrHostStep
  | pwrMgmtStep | pwrThermStep | pwrSupplyStep | pwrEffStep | pwrTargetStep | pwrLimitW | pwrInputW | pwrInputMv
  | pwrInputCa | pwrDuty | pwrBuGap | pwrSubW | pwrEnergyMj
  | thmSensSel | thmTemp | thmSensState | thmRaw | thmNbr | thmSensClear | thmPartSel | thmPartMax | thmPartState
  | thmPartBroken | thmThmAdj | thmTrips | thmTemps
  | clkCoreStep | clkCoreTgt | clkClkMax | clkRefOk | clkTcxoComp | clkPllRecals
  | mgtBootStage | mgtBootResult | mgtStPartFail | mgtStBulkFail | mgtStCartFail | mgtBootMs | mgtFwBank | mgtFwRun
  | mgtFwFallback | mgtFwSel | mgtFwVerA | mgtFwVerB | mgtRepairLogUsed | mgtRepairLogFull | mgtRetStack | mgtRetDie
  | mgtRetGo
deriving DecidableEq, Repr

/-- One row of a register table. `off` is the bit offset of the field inside the unit's pages (eight times the byte
offset plus the low bit); field `i` of an array lies `stride` bits further per index. `sel` is the field that selects
which instance is shown; `view` marks a field computed from the state; `dev` a field held once for the device. -/
structure Row where
  off : Nat
  width : Nat
  acc : Acc
  reset : Nat := 0
  count : Nat := 1
  stride : Nat := 0
  sel : Option Fld := none
  legal : Legal := .any
  set : Bool := false
  dev : Bool := false
  view : Bool := false
deriving DecidableEq, Repr

/-- The table row of every field. -/
def Fld.row : Fld → Row
  | .hdrCtrlSync => { off := 0x40 * 8, width := 1, acc := .w1s, view := true }
  | .hdrCtrlFence => { off := 0x40 * 8 + 1, width := 1, acc := .w1s, view := true }
  | .hdrCtrlUnfence => { off := 0x40 * 8 + 2, width := 1, acc := .w1s, view := true }
  | .hdrCtrlReset => { off := 0x40 * 8 + 3, width := 1, acc := .w1s, view := true }
  | .hdrFenced => { off := 0x44 * 8, width := 1, acc := .ro }
  | .hdrOutOfService => { off := 0x44 * 8 + 1, width := 1, acc := .ro, view := true }
  | .hdrErrPending => { off := 0x44 * 8 + 2, width := 1, acc := .ro, view := true }
  | .hdrCfgStaged => { off := 0x44 * 8 + 3, width := 1, acc := .ro, view := true }
  | .hdrResult => { off := 0x44 * 8 + 4, width := 4, acc := .ro }
  | .hdrSkippedPart => { off := 0x44 * 8 + 8, width := 4, acc := .ro }
  | .hdrResetting => { off := 0x44 * 8 + 12, width := 1, acc := .ro, view := true }
  | .hdrIrqStat => { off := 0x48 * 8, width := 32, acc := .w1c }
  | .hdrIrqEn => { off := 0x4C * 8, width := 32, acc := .rw }
  | .hdrIrqForce => { off := 0x50 * 8, width := 32, acc := .wo }
  | .hdrLocked => { off := 0x54 * 8, width := 1, acc := .w1s }
  | .hdrLockViolation => { off := 0x54 * 8 + 1, width := 1, acc := .w1c }
  | .hdrBadWrite => { off := 0x54 * 8 + 2, width := 1, acc := .w1c }
  | .hdrActiveBank => { off := 0x58 * 8, width := 1, acc := .ro }
  | .hdrPrevValid => { off := 0x58 * 8 + 1, width := 1, acc := .ro }
  | .hdrStaged => { off := 0x58 * 8 + 2, width := 1, acc := .ro }
  | .hdrActiveGen => { off := 0x58 * 8 + 8, width := 8, acc := .ro }
  | .hdrRollback => { off := 0x58 * 8 + 16, width := 1, acc := .w1s }
  | .hdrErrValid => { off := 0x60 * 8, width := 1, acc := .w1c }
  | .hdrErrOverflow => { off := 0x60 * 8 + 1, width := 1, acc := .ro }
  | .hdrErrSeverity => { off := 0x60 * 8 + 4, width := 4, acc := .ro }
  | .hdrErrCode => { off := 0x60 * 8 + 8, width := 8, acc := .ro }
  | .hdrErrCount => { off := 0x60 * 8 + 16, width := 16, acc := .ro }
  | .hdrErrEpoch => { off := 0x64 * 8, width := 32, acc := .ro }
  | .hdrErrDetail => { off := 0x68 * 8, width := 64, acc := .ro }
  | .hdrMsEpoch => { off := 0x70 * 8, width := 32, acc := .rw, count := 4, stride := 64 }
  | .hdrMsAction => { off := 0x70 * 8 + 32, width := 4, acc := .rw, count := 4, stride := 64 }
  | .hdrMsArg => { off := 0x70 * 8 + 40, width := 8, acc := .rw, count := 4, stride := 64 }
  | .hdrMsState => { off := 0x70 * 8 + 48, width := 2, acc := .ro, count := 4, stride := 64 }
  | .hdrMsDisarm => { off := 0x70 * 8 + 62, width := 1, acc := .wo, count := 4, stride := 64 }
  | .hdrMsArm => { off := 0x70 * 8 + 63, width := 1, acc := .wo, count := 4, stride := 64 }
  | .epoEpochNow => { off := 0x100 * 8, width := 32, acc := .ro }
  | .epoEpochEra => { off := 0x104 * 8, width := 16, acc := .ro }
  | .epoEpochAdvance => { off := 0x108 * 8, width := 32, acc := .wo }
  | .epoEpochFloor => { off := 0x10C * 8, width := 32, acc := .ro, view := true }
  | .epoFloorKind => { off := 0x110 * 8, width := 4, acc := .ro, view := true }
  | .epoFloorId => { off := 0x110 * 8 + 16, width := 16, acc := .ro, view := true }
  | .epoSrc => { off := 0x114 * 8, width := 1, acc := .rwl }
  | .epoWarnExp => { off := 0x114 * 8 + 8, width := 5, acc := .rw, reset := 24, legal := .range 16 28 }
  | .epoPeer => { off := 0x114 * 8 + 16, width := 12, acc := .rwl }
  | .epoAdvResult => { off := 0x118 * 8, width := 4, acc := .ro }
  | .epoAdvRefused => { off := 0x118 * 8 + 16, width := 16, acc := .rc }
  | .epoVcRegion => { off := 0x120 * 8, width := 6, acc := .rw }
  | .epoVcSlot => { off := 0x120 * 8 + 6, width := 2, acc := .rw }
  | .epoVcOp => { off := 0x120 * 8 + 8, width := 3, acc := .rw, legal := .elseNop 4 }
  | .epoVcResult => { off := 0x120 * 8 + 16, width := 4, acc := .ro }
  | .epoVcGo => { off := 0x120 * 8 + 31, width := 1, acc := .w1s }
  | .epoVcmdStart => { off := 0x124 * 8, width := 32, acc := .rw }
  | .epoVcmdEnd => { off := 0x128 * 8, width := 32, acc := .rw }
  | .epoVcmdBase => { off := 0x130 * 8 + 21, width := 31, acc := .rw }
  | .epoVsState => { off := 0x138 * 8, width := 3, acc := .ro }
  | .epoVsGen => { off := 0x138 * 8 + 8, width := 8, acc := .ro }
  | .epoVsEpoch => { off := 0x13C * 8, width := 32, acc := .ro }
  | .epoLdgSel => { off := 0x140 * 8, width := 14, acc := .rw }
  | .epoLdgBase => { off := 0x148 * 8, width := 64, acc := .rw, sel := some .epoLdgSel }
  | .epoLdgSize => { off := 0x150 * 8, width := 5, acc := .rw, reset := 8, sel := some .epoLdgSel, legal := .range 8 20 }
  | .epoLdgGen => { off := 0x150 * 8 + 30, width := 1, acc := .ro, sel := some .epoLdgSel }
  | .epoLdgEn => { off := 0x150 * 8 + 31, width := 1, acc := .rw, sel := some .epoLdgSel }
  | .epoLdgWptr => { off := 0x154 * 8, width := 24, acc := .ro, sel := some .epoLdgSel }
  | .epoLdgRptr => { off := 0x158 * 8, width := 24, acc := .rw, sel := some .epoLdgSel }
  | .epoLdgDropped => { off := 0x15C * 8, width := 32, acc := .rc, sel := some .epoLdgSel }
  | .seraiHopIndex => { off := 0x100 * 8, width := 12, acc := .rw }
  | .seraiHopKind => { off := 0x100 * 8 + 12, width := 2, acc := .rw, legal := .range 0 2 }
  | .seraiHopOp => { off := 0x100 * 8 + 16, width := 4, acc := .rw, legal := .range 0 8 }
  | .seraiHopStatus => { off := 0x100 * 8 + 24, width := 4, acc := .ro }
  | .seraiHopGo => { off := 0x100 * 8 + 31, width := 1, acc := .w1s }
  | .seraiHopArg => { off := 0x104 * 8, width := 32, acc := .rw }
  | .seraiHopResult0 => { off := 0x108 * 8, width := 32, acc := .ro }
  | .seraiHopResult1 => { off := 0x10C * 8, width := 32, acc := .ro }
  | .seraiHwinBase => { off := 0x110 * 8, width := 12, acc := .rwl, count := 3, stride := 32 }
  | .seraiHwinCount => { off := 0x110 * 8 + 16, width := 13, acc := .rwl, count := 3, stride := 32 }
  | .seraiRwinBase => { off := 0x120 * 8, width := 12, acc := .rwl, count := 2, stride := 32 }
  | .seraiRwinCount => { off := 0x120 * 8 + 16, width := 13, acc := .rwl, count := 2, stride := 32 }
  | .seraiWdogTimeout => { off := 0x130 * 8, width := 16, acc := .rw, reset := 200, legal := .range 1 65535 }
  | .seraiWdogAction => { off := 0x130 * 8 + 16, width := 2, acc := .rw, legal := .range 0 1 }
  | .seraiWdogEn => { off := 0x130 * 8 + 31, width := 1, acc := .rw, reset := 1 }
  | .seraiWdogFires => { off := 0x134 * 8, width := 16, acc := .rc }
  | .seraiHeldNow => { off := 0x138 * 8, width := 9, acc := .ro, view := true }
  | .seraiHeldPeak => { off := 0x138 * 8 + 16, width := 9, acc := .rc }
  | .seraiRemoteRejected => { off := 0x13C * 8, width := 32, acc := .rc }
  | .engEngState => { off := 0x100 * 8, width := 3, acc := .ro, view := true }
  | .engActiveCtx => { off := 0x100 * 8 + 8, width := 2, acc := .ro, view := true }
  | .engDescDone => { off := 0x104 * 8, width := 32, acc := .rc }
  | .engExcNv => { off := 0x108 * 8, width := 32, acc := .rc }
  | .engExcOf => { off := 0x10C * 8, width := 32, acc := .rc }
  | .engExcUf => { off := 0x110 * 8, width := 32, acc := .rc }
  | .engExcNl => { off := 0x114 * 8, width := 32, acc := .rc }
  | .engExcSc => { off := 0x118 * 8, width := 32, acc := .rc }
  | .engBusyCycles => { off := 0x120 * 8, width := 64, acc := .rc }
  | .engStallLine => { off := 0x128 * 8, width := 64, acc := .rc }
  | .engLsetActive => { off := 0x600 * 8, width := 1, acc := .ro, view := true }
  | .spdSbUsed => { off := 0x100 * 8, width := 7, acc := .ro, view := true }
  | .spdSbPeak => { off := 0x100 * 8 + 8, width := 7, acc := .rc }
  | .spdSbClaims => { off := 0x100 * 8 + 16, width := 4, acc := .ro, view := true }
  | .spdSbConflictCyc => { off := 0x104 * 8, width := 32, acc := .rc }
  | .spdSbFullCyc => { off := 0x108 * 8, width := 32, acc := .rc }
  | .spdSlotEngine => { off := 0x110 * 8, width := 64, acc := .rc }
  | .spdSlotTmv => { off := 0x118 * 8, width := 64, acc := .rc }
  | .spdSlotNarrow => { off := 0x120 * 8, width := 64, acc := .rc }
  | .spdSlotIdle => { off := 0x128 * 8, width := 64, acc := .rc }
  | .spdNbHits => { off := 0x130 * 8, width := 32, acc := .rc }
  | .spdNbMisses => { off := 0x134 * 8, width := 32, acc := .rc }
  | .spdDbgHazard => { off := 0x138 * 8, width := 16, acc := .rc }
  | .spdSpBase => { off := 0x140 * 8 + 11, width := 14, acc := .ro, count := 4, stride := 32, view := true }
  | .spdSpNeed => { off := 0x150 * 8, width := 25, acc := .ro, count := 4, stride := 32, view := true }
  | .tmvStateLd => { off := 0x100 * 8, width := 3, acc := .ro, view := true }
  | .tmvStateSt => { off := 0x100 * 8 + 4, width := 3, acc := .ro, view := true }
  | .tmvStateGt => { off := 0x100 * 8 + 8, width := 3, acc := .ro, view := true }
  | .tmvDescDone => { off := 0x104 * 8, width := 32, acc := .rc }
  | .tmvBytesRead => { off := 0x108 * 8, width := 64, acc := .rc }
  | .tmvBytesWritten => { off := 0x110 * 8, width := 64, acc := .rc }
  | .tmvClampUnits => { off := 0x118 * 8, width := 64, acc := .rc }
  | .tmvPadUnits => { off := 0x120 * 8, width := 64, acc := .rc }
  | .tmvCoalesced => { off := 0x128 * 8, width := 32, acc := .rc }
  | .tmvRetries => { off := 0x12C * 8, width := 32, acc := .rc }
  | .tmvTlbMisses => { off := 0x130 * 8, width := 32, acc := .rc }
  | .tmvFaults => { off := 0x134 * 8, width := 32, acc := .rc }
  | .tmvReqStall => { off := 0x138 * 8, width := 64, acc := .rc }
  | .tmvLsetActive => { off := 0xA00 * 8, width := 3, acc := .ro, view := true }
  | .bkcEngState => { off := 0x100 * 8, width := 3, acc := .ro, view := true }
  | .bkcDescDone => { off := 0x104 * 8, width := 32, acc := .rc }
  | .bkcUploadBytes => { off := 0x108 * 8, width := 64, acc := .rc }
  | .bkcRecordBytes => { off := 0x110 * 8, width := 64, acc := .rc }
  | .bkcAdmitWait => { off := 0x118 * 8, width := 64, acc := .rc }
  | .bkcFaults => { off := 0x120 * 8, width := 32, acc := .rc }
  | .bkcLsetActive => { off := 0x600 * 8, width := 1, acc := .ro, view := true }
  | .bkuHmState => { off := 0x100 * 8, width := 32, acc := .ro, view := true }
  | .bkuHmReq => { off := 0x104 * 8, width := 32, acc := .rw }
  | .bkuHmIdleUs => { off := 0x108 * 8, width := 16, acc := .rw, reset := 10, legal := .range 1 65535 }
  | .bkuHostGang => { off := 0x10C * 8, width := 32, acc := .rw }
  | .bkuAbChan => { off := 0x110 * 8, width := 5, acc := .rw }
  | .bkuAbBank => { off := 0x110 * 8 + 5, width := 5, acc := .rw }
  | .bkuAbAllCh => { off := 0x110 * 8 + 14, width := 1, acc := .rw }
  | .bkuAbAllBank => { off := 0x110 * 8 + 15, width := 1, acc := .rw }
  | .bkuAbTag => { off := 0x110 * 8 + 16, width := 16, acc := .rw }
  | .bkuAbTagEn => { off := 0x114 * 8, width := 1, acc := .rw }
  | .bkuAbGo => { off := 0x114 * 8 + 31, width := 1, acc := .w1s }
  | .bkuAbAborted => { off := 0x118 * 8, width := 11, acc := .ro }
  | .bkuAbNta => { off := 0x118 * 8 + 16, width := 11, acc := .ro }
  | .bkuSeqDone => { off := 0x120 * 8, width := 32, acc := .rc }
  | .bkuSeqAborted => { off := 0x124 * 8, width := 32, acc := .rc }
  | .bkuSteps => { off := 0x128 * 8, width := 64, acc := .rc }
  | .bkuWaitSteps => { off := 0x130 * 8, width := 64, acc := .rc }
  | .bkuGapNs => { off := 0x138 * 8, width := 64, acc := .rc }
  | .bkuOpbufUsed => { off := 0x140 * 8, width := 6, acc := .ro, view := true }
  | .bkuHostDiscard => { off := 0x144 * 8, width := 16, acc := .rc }
  | .bkuBuSelChan => { off := 0x148 * 8, width := 5, acc := .rw }
  | .bkuBuSelBank => { off := 0x148 * 8 + 5, width := 5, acc := .rw }
  | .bkuBuView => { off := 0x14C * 8, width := 32, acc := .ro, view := true }
  | .mcsQosMode => { off := 0x100 * 8, width := 1, acc := .rw, set := true }
  | .mcsAgeCapNs => { off := 0x104 * 8, width := 16, acc := .rw, reset := 4000, legal := .range 100 65535, set := true }
  | .mcsRecalMs => { off := 0x108 * 8, width := 16, acc := .rw, reset := 100, legal := .range 1 10000 }
  | .mcsFrzAutoUs => { off := 0x10C * 8, width := 16, acc := .rw, reset := 20 }
  | .mcsFrozen => { off := 0x110 * 8, width := 32, acc := .ro, view := true }
  | .mcsFrzRelease => { off := 0x114 * 8, width := 32, acc := .w1s }
  | .mcsFrzForce => { off := 0x118 * 8, width := 32, acc := .wo }
  | .mcsFailed => { off := 0x11C * 8, width := 32, acc := .ro, view := true }
  | .mcsQosSum => { off := 0x120 * 8, width := 17, acc := .ro, view := true }
  | .mcsQosCap => { off := 0x124 * 8 + 16, width := 12, acc := .ro, reset := 1843, view := true }
  | .mcsRef2x => { off := 0x124 * 8, width := 1, acc := .ro }
  | .mcsLatMiss => { off := 0x128 * 8, width := 64, acc := .rc }
  | .mcsRefForced => { off := 0x130 * 8, width := 64, acc := .rc }
  | .mcsLegWaits => { off := 0x138 * 8, width := 64, acc := .rc }
  | .mcsIdleCycleReads => { off := 0x140 * 8, width := 64, acc := .rc }
  | .mcsFreezes => { off := 0x148 * 8, width := 32, acc := .rc }
  | .mcsLinMap => { off := 0x300 * 8, width := 64, acc := .rwl }
  | .mcsBmpMap => { off := 0x308 * 8, width := 64, acc := .rwl }
  | .mcsPlaceResult => { off := 0x310 * 8, width := 2, acc := .ro }
  | .mcsSideWrites => { off := 0x314 * 8, width := 16, acc := .rc }
  | .mcsVetFails => { off := 0x318 * 8, width := 32, acc := .rc }
  | .mcsRowops => { off := 0x320 * 8, width := 64, acc := .rc }
  | .mcsEntrySkips => { off := 0x328 * 8, width := 32, acc := .rc }
  | .mcsLatTarget => { off := 0x1000 * 8, width := 16, acc := .rw, reset := 1000, count := 48, stride := 128, legal := .range 50 65535, set := true }
  | .mcsRate => { off := 0x1004 * 8, width := 12, acc := .rw, count := 48, stride := 128, legal := .range 0 2048, set := true }
  | .mcsBurstKib => { off := 0x1004 * 8 + 16, width := 11, acc := .rw, reset := 64, count := 48, stride := 128, legal := .range 1 1024, set := true }
  | .mcsHard => { off := 0x1004 * 8 + 31, width := 1, acc := .rw, count := 48, stride := 128, set := true }
  | .mcsTokens => { off := 0x1008 * 8, width := 32, acc := .ro, count := 48, stride := 128 }
  | .mcsServedKib => { off := 0x100C * 8, width := 32, acc := .rc, count := 48, stride := 128 }
  | .mcsFrzValid => { off := 0x2000 * 8, width := 1, acc := .w1c }
  | .mcsFrzChan => { off := 0x2000 * 8 + 4, width := 5, acc := .ro }
  | .mcsFrzCause => { off := 0x2000 * 8 + 12, width := 4, acc := .ro }
  | .mcsFrzCount => { off := 0x2000 * 8 + 16, width := 16, acc := .ro }
  | .mcsErrBank => { off := 0x2004 * 8, width := 5, acc := .ro }
  | .mcsErrRow => { off := 0x2004 * 8 + 5, width := 16, acc := .ro }
  | .mcsErrCol => { off := 0x2004 * 8 + 21, width := 5, acc := .ro }
  | .mcsErrDpa => { off := 0x2008 * 8, width := 64, acc := .ro }
  | .mcsSyndrome => { off := 0x2010 * 8, width := 64, acc := .ro }
  | .mcsFrzEpoch => { off := 0x2018 * 8, width := 32, acc := .ro }
  | .mcsHeldRd => { off := 0x201C * 8, width := 7, acc := .ro }
  | .mcsHeldWr => { off := 0x201C * 8 + 16, width := 6, acc := .ro }
  | .mcsFrzRc => { off := 0x2020 * 8, width := 5, acc := .ro }
  | .mcsFrzHm => { off := 0x2020 * 8 + 8, width := 2, acc := .ro }
  | .mcsFrzGang => { off := 0x2024 * 8, width := 32, acc := .ro }
  | .mcsCmdHist => { off := 0x2100 * 8, width := 64, acc := .ro, count := 32, stride := 64 }
  | .mcsMr => { off := 0x2200 * 8, width := 32, acc := .ro, count := 16, stride := 32 }
  | .mcsChState => { off := 0x3000 * 8, width := 2, acc := .ro, count := 32, stride := 128, view := true }
  | .mcsRecal => { off := 0x3000 * 8 + 2, width := 1, acc := .ro, count := 32, stride := 128, view := true }
  | .mcsChRc => { off := 0x3000 * 8 + 8, width := 5, acc := .ro, count := 32, stride := 128, view := true }
  | .mcsRdQ => { off := 0x3000 * 8 + 16, width := 7, acc := .ro, count := 32, stride := 128, view := true }
  | .mcsWrQ => { off := 0x3000 * 8 + 24, width := 6, acc := .ro, count := 32, stride := 128, view := true }
  | .mcsFreezes1s => { off := 0x3004 * 8, width := 8, acc := .ro, count := 32, stride := 128, view := true }
  | .mcsRefreshes => { off := 0x3008 * 8, width := 32, acc := .rc, count := 32, stride := 128 }
  | .mcsRecals => { off := 0x300C * 8, width := 32, acc := .rc, count := 32, stride := 128 }
  | .drvSegOp => { off := 0x100 * 8, width := 3, acc := .rw }
  | .drvSegGo => { off := 0x100 * 8 + 31, width := 1, acc := .w1s }
  | .drvSegId => { off := 0x104 * 8, width := 14, acc := .rw }
  | .drvSegResult => { off := 0x104 * 8 + 16, width := 4, acc := .ro }
  | .drvSegState => { off := 0x104 * 8 + 24, width := 2, acc := .ro }
  | .drvSegBase => { off := 0x108 * 8, width := 14, acc := .rw }
  | .drvSegBaseEn => { off := 0x108 * 8 + 16, width := 1, acc := .rw }
  | .drvSegRec => { off := 0x10C * 8, width := 15, acc := .rw }
  | .drvSegPages => { off := 0x110 * 8, width := 30, acc := .rw }
  | .drvSegFirst => { off := 0x114 * 8, width := 29, acc := .rw }
  | .drvSegHeat => { off := 0x114 * 8 + 29, width := 2, acc := .rw }
  | .drvSegCount => { off := 0x118 * 8, width := 16, acc := .rw }
  | .drvSegSrcDpa => { off := 0x120 * 8, width := 64, acc := .rw }
  | .drvCatRegion => { off := 0x128 * 8, width := 6, acc := .rw }
  | .drvCatSlot => { off := 0x128 * 8 + 6, width := 2, acc := .rw }
  | .drvCatGen => { off := 0x128 * 8 + 8, width := 8, acc := .rw }
  | .drvPoolSel => { off := 0x130 * 8, width := 4, acc := .rw }
  | .drvPoolBase => { off := 0x138 * 8 + 21, width := 31, acc := .rwl, sel := some .drvPoolSel }
  | .drvPoolFrames => { off := 0x140 * 8, width := 21, acc := .rwl, sel := some .drvPoolSel, legal := .range 0 1048576 }
  | .drvPoolEn => { off := 0x140 * 8 + 31, width := 1, acc := .rw, sel := some .drvPoolSel }
  | .drvHits => { off := 0x148 * 8, width := 64, acc := .rc, sel := some .drvPoolSel }
  | .drvMisses => { off := 0x150 * 8, width := 64, acc := .rc, sel := some .drvPoolSel }
  | .drvPromoted => { off := 0x158 * 8, width := 64, acc := .rc, sel := some .drvPoolSel }
  | .drvBypass => { off := 0x160 * 8, width := 64, acc := .rc, sel := some .drvPoolSel }
  | .drvEvicted => { off := 0x168 * 8, width := 64, acc := .rc, sel := some .drvPoolSel }
  | .drvFreePages => { off := 0x170 * 8, width := 64, acc := .ro, view := true }
  | .blkBlkState => { off := 0x100 * 8, width := 2, acc := .ro }
  | .blkPeAvg => { off := 0x104 * 8, width := 16, acc := .ro }
  | .blkPeMax => { off := 0x104 * 8 + 16, width := 16, acc := .ro }
  | .blkLifeUsed => { off := 0x108 * 8, width := 8, acc := .ro }
  | .blkDiesRetired => { off := 0x108 * 8 + 8, width := 5, acc := .ro }
  | .blkHostBytes => { off := 0x110 * 8, width := 64, acc := .ro }
  | .blkMediaBytes => { off := 0x118 * 8, width := 64, acc := .ro }
  | .blkReadRetries => { off := 0x120 * 8, width := 32, acc := .rc }
  | .blkReadPoisoned => { off := 0x124 * 8, width := 32, acc := .rc }
  | .fltPartState => { off := 0x100 * 8, width := 3, acc := .ro, count := 4, stride := 4 }
  | .fltDevService => { off := 0x104 * 8, width := 2, acc := .ro }
  | .fltResetGo => { off := 0x108 * 8, width := 4, acc := .w1s }
  | .fltReadmit => { off := 0x108 * 8 + 8, width := 4, acc := .w1s }
  | .fltAutoReset => { off := 0x10C * 8, width := 1, acc := .rwl, reset := 1 }
  | .fltDrainNs => { off := 0x110 * 8, width := 12, acc := .rwl, reset := 2000, legal := .range 0 4000 }
  | .fltResetsWin => { off := 0x114 * 8, width := 8, acc := .ro, count := 4, stride := 8 }
  | .fltEscLimit => { off := 0x118 * 8, width := 4, acc := .rwl, reset := 3, legal := .range 2 15 }
  | .fltEscWindowS => { off := 0x118 * 8 + 8, width := 8, acc := .rwl, reset := 60, legal := .range 1 255 }
  | .fltLastSrc => { off := 0x120 * 8, width := 14, acc := .ro }
  | .fltLastCode => { off := 0x120 * 8 + 16, width := 8, acc := .ro }
  | .fltLastEpoch => { off := 0x124 * 8, width := 32, acc := .ro }
  | .fltLastRecoveryNs => { off := 0x128 * 8, width := 32, acc := .ro }
  | .fltReplayed => { off := 0x12C * 8, width := 32, acc := .rc }
  | .fltNotReplayed => { off := 0x130 * 8, width := 32, acc := .rc }
  | .fltSpineMismatch => { off := 0x134 * 8, width := 32, acc := .rc }
  | .fltSpineResync => { off := 0x138 * 8, width := 1, acc := .ro }
  | .fltJoined => { off := 0x13C * 8, width := 16, acc := .rc }
  | .fltJrnSel => { off := 0x140 * 8, width := 10, acc := .rw, legal := .range 0 639 }
  | .fltJrnState => { off := 0x144 * 8, width := 2, acc := .ro, view := true }
  | .fltJrnSnap => { off := 0x148 * 8, width := 32, acc := .ro, view := true }
  | .fltJrnSess => { off := 0x14C * 8, width := 6, acc := .ro, view := true }
  | .fltJrnTag => { off := 0x150 * 8, width := 32, acc := .ro, view := true }
  | .fltFltPend => { off := 0x158 * 8, width := 5, acc := .w1c }
  | .fltIntSel => { off := 0x1000 * 8, width := 14, acc := .rw }
  | .fltCeOde => { off := 0x1008 * 8, width := 64, acc := .rc, sel := some .fltIntSel }
  | .fltCeSym => { off := 0x1010 * 8, width := 64, acc := .rc, sel := some .fltIntSel }
  | .fltUe => { off := 0x1018 * 8, width := 32, acc := .rc, sel := some .fltIntSel }
  | .fltPoisonReads => { off := 0x101C * 8, width := 32, acc := .rc, sel := some .fltIntSel }
  | .fltMerges => { off := 0x1020 * 8, width := 32, acc := .rc, sel := some .fltIntSel }
  | .fltCeThresh => { off := 0x1024 * 8, width := 16, acc := .rw, reset := 1000, sel := some .fltIntSel, legal := .range 1 65535 }
  | .fltCeWindowS => { off := 0x1024 * 8 + 16, width := 16, acc := .rw, reset := 60, sel := some .fltIntSel, legal := .range 1 65535 }
  | .fltRowCeThresh => { off := 0x1028 * 8, width := 8, acc := .rw, reset := 4, sel := some .fltIntSel, legal := .range 1 255 }
  | .fltRepairAuto => { off := 0x1028 * 8 + 8, width := 1, acc := .rw, reset := 1, sel := some .fltIntSel }
  | .fltRepairs => { off := 0x102C * 8, width := 16, acc := .ro, sel := some .fltIntSel }
  | .fltRepairPending => { off := 0x102C * 8 + 16, width := 16, acc := .ro, sel := some .fltIntSel, view := true }
  | .fltScrubPasses => { off := 0x1030 * 8, width := 32, acc := .rc, sel := some .fltIntSel }
  | .fltReqChan => { off := 0x1034 * 8, width := 5, acc := .rw, sel := some .fltIntSel }
  | .fltReqBank => { off := 0x1034 * 8 + 5, width := 5, acc := .rw, sel := some .fltIntSel }
  | .fltReqRow => { off := 0x1034 * 8 + 10, width := 16, acc := .rw, sel := some .fltIntSel }
  | .fltRepairGo => { off := 0x1034 * 8 + 31, width := 1, acc := .w1s, sel := some .fltIntSel }
  | .fltTestMode => { off := 0x1100 * 8, width := 2, acc := .rw, sel := some .fltIntSel }
  | .fltTestChan => { off := 0x1100 * 8 + 8, width := 5, acc := .rw, sel := some .fltIntSel }
  | .fltTestResult => { off := 0x1100 * 8 + 28, width := 3, acc := .ro, sel := some .fltIntSel }
  | .fltTestChk => { off := 0x1108 * 8, width := 56, acc := .rw, sel := some .fltIntSel }
  | .fltRawChk => { off := 0x1110 * 8, width := 56, acc := .ro, sel := some .fltIntSel }
  | .fltRawSyn => { off := 0x1118 * 8, width := 64, acc := .ro, sel := some .fltIntSel }
  | .evlPortState => { off := 0x100 * 8, width := 3, acc := .ro }
  | .evlWidth => { off := 0x100 * 8 + 4, width := 2, acc := .ro, reset := 3 }
  | .evlLanesOk => { off := 0x100 * 8 + 8, width := 4, acc := .ro }
  | .evlDownCause => { off := 0x100 * 8 + 12, width := 3, acc := .ro }
  | .evlPortEn => { off := 0x104 * 8, width := 1, acc := .rw }
  | .evlRetrain => { off := 0x104 * 8 + 1, width := 1, acc := .w1s }
  | .evlMbrEn => { off := 0x104 * 8 + 2, width := 1, acc := .rwl, dev := true }
  | .evlMbrLeave => { off := 0x104 * 8 + 3, width := 1, acc := .w1s, dev := true }
  | .evlEpochTx => { off := 0x104 * 8 + 4, width := 1, acc := .rwl, dev := true }
  | .evlSelfAddr => { off := 0x108 * 8, width := 12, acc := .rwl, dev := true }
  | .evlSelfValid => { off := 0x108 * 8 + 31, width := 1, acc := .ro, dev := true }
  | .evlPartnerAddr => { off := 0x10C * 8, width := 12, acc := .ro }
  | .evlPartnerFwd => { off := 0x10C * 8 + 16, width := 1, acc := .ro }
  | .evlPartnerId => { off := 0x110 * 8, width := 64, acc := .ro }
  | .evlTxCrData => { off := 0x118 * 8, width := 12, acc := .ro }
  | .evlTxCrSig => { off := 0x118 * 8 + 16, width := 12, acc := .ro }
  | .evlTxCrResp => { off := 0x11C * 8, width := 12, acc := .ro }
  | .evlTxCrMgmt => { off := 0x11C * 8 + 16, width := 12, acc := .ro }
  | .evlDseqTx => { off := 0x120 * 8, width := 32, acc := .ro }
  | .evlLanded => { off := 0x124 * 8, width := 32, acc := .ro }
  | .evlRttNs => { off := 0x128 * 8, width := 12, acc := .ro }
  | .evlBerThresh => { off := 0x12C * 8, width := 32, acc := .rw, reset := 1000000, legal := .range 1 4294967295 }
  | .evlFlitsTx => { off := 0x130 * 8, width := 64, acc := .rc }
  | .evlFlitsRx => { off := 0x138 * 8, width := 64, acc := .rc }
  | .evlFecCorr => { off := 0x140 * 8, width := 64, acc := .rc }
  | .evlFecUncorr => { off := 0x148 * 8, width := 32, acc := .rc }
  | .evlReplays => { off := 0x14C * 8, width := 32, acc := .rc }
  | .evlRespTimeoutUs => { off := 0x150 * 8, width := 16, acc := .rw, reset := 4000, legal := .range 100 65535 }
  | .evlPresentUs => { off := 0x154 * 8, width := 16, acc := .rw, reset := 1000, legal := .range 100 65535, dev := true }
  | .evlDeadCount => { off := 0x154 * 8 + 16, width := 8, acc := .rw, reset := 8, legal := .range 2 255, dev := true }
  | .evlBseqTx => { off := 0x158 * 8, width := 16, acc := .ro, dev := true }
  | .evlMgen => { off := 0x15C * 8, width := 16, acc := .ro, dev := true }
  | .evlExpRoot => { off := 0x160 * 8 + 12, width := 40, acc := .rwl, count := 4, stride := 64 }
  | .evlMbrSel => { off := 0x180 * 8, width := 12, acc := .rw }
  | .evlMbrState => { off := 0x184 * 8, width := 2, acc := .ro, view := true }
  | .evlReachHere => { off := 0x184 * 8 + 2, width := 1, acc := .ro, view := true }
  | .evlMbrClear => { off := 0x184 * 8 + 31, width := 1, acc := .w1s }
  | .evlMbrId => { off := 0x188 * 8, width := 64, acc := .ro, view := true }
  | .evlMisrouted => { off := 0x190 * 8, width := 32, acc := .rc }
  | .evlBadFrame => { off := 0x194 * 8, width := 32, acc := .rc }
  | .evlDupBcast => { off := 0x198 * 8, width := 32, acc := .rc }
  | .evlOutstanding => { off := 0x19C * 8, width := 16, acc := .ro, view := true }
  | .evlReach => { off := 0x800 * 8, width := 32, acc := .ro, count := 128, stride := 32, view := true }
  | .optFeed0Bay => { off := 0x100 * 8, width := 2, acc := .ro, view := true }
  | .optFeed1Bay => { off := 0x100 * 8 + 2, width := 2, acc := .ro, view := true }
  | .optFeed0Ok => { off := 0x100 * 8 + 4, width := 1, acc := .ro }
  | .optFeed1Ok => { off := 0x100 * 8 + 5, width := 1, acc := .ro }
  | .optFeed0Uw => { off := 0x104 * 8, width := 16, acc := .ro }
  | .optFeed1Uw => { off := 0x104 * 8 + 16, width := 16, acc := .ro }
  | .optLaneFault => { off := 0x108 * 8, width := 16, acc := .ro }
  | .optSparesUsed => { off := 0x108 * 8 + 16, width := 2, acc := .ro }
  | .optLane => { off := 0x110 * 8, width := 32, acc := .ro, count := 16, stride := 32 }
  | .bayCartState => { off := 0x100 * 8, width := 3, acc := .ro }
  | .bayPresent => { off := 0x100 * 8 + 3, width := 1, acc := .ro }
  | .bayLatchClosed => { off := 0x100 * 8 + 4, width := 1, acc := .ro }
  | .bayPrepare => { off := 0x104 * 8, width := 1, acc := .w1s }
  | .bayForce => { off := 0x104 * 8 + 1, width := 1, acc := .rw }
  | .bayCancel => { off := 0x104 * 8 + 2, width := 1, acc := .w1s }
  | .bayBayEn => { off := 0x104 * 8 + 3, width := 1, acc := .rw, reset := 1 }
  | .bayPower => { off := 0x108 * 8, width := 16, acc := .ro, count := 4, stride := 16 }
  | .bayCaseC => { off := 0x110 * 8, width := 8, acc := .ro }
  | .bayHeaterOn => { off := 0x110 * 8 + 8, width := 1, acc := .ro }
  | .bayHours => { off := 0x114 * 8, width := 32, acc := .ro }
  | .bayCartId => { off := 0x118 * 8, width := 64, acc := .ro }
  | .bayFedMask => { off := 0x120 * 8, width := 8, acc := .ro, view := true }
  | .hifSessSel => { off := 0x100 * 8, width := 6, acc := .rw }
  | .hifSessOp => { off := 0x104 * 8, width := 2, acc := .rw, sel := some .hifSessSel, legal := .range 0 2 }
  | .hifSessResult => { off := 0x104 * 8 + 8, width := 4, acc := .ro, sel := some .hifSessSel }
  | .hifSessGo => { off := 0x104 * 8 + 31, width := 1, acc := .w1s, sel := some .hifSessSel }
  | .hifSessState => { off := 0x108 * 8, width := 2, acc := .ro, sel := some .hifSessSel }
  | .hifSessLink => { off := 0x10C * 8, width := 1, acc := .rw, sel := some .hifSessSel }
  | .hifSqLog2 => { off := 0x10C * 8 + 8, width := 4, acc := .rw, reset := 4, sel := some .hifSessSel }
  | .hifCqLog2 => { off := 0x10C * 8 + 16, width := 4, acc := .rw, reset := 6, sel := some .hifSessSel }
  | .hifSqBase => { off := 0x110 * 8, width := 64, acc := .rw, sel := some .hifSessSel }
  | .hifCqBase => { off := 0x118 * 8, width := 64, acc := .rw, sel := some .hifSessSel }
  | .hifCqTailAddr => { off := 0x120 * 8, width := 64, acc := .rw, sel := some .hifSessSel }
  | .hifFlagBase => { off := 0x128 * 8, width := 64, acc := .rw, sel := some .hifSessSel }
  | .hifFlagIrq => { off := 0x130 * 8, width := 64, acc := .rw, sel := some .hifSessSel }
  | .hifSflagBase => { off := 0x138 * 8, width := 12, acc := .rw, sel := some .hifSessSel }
  | .hifSqHead => { off := 0x13C * 8, width := 16, acc := .ro, sel := some .hifSessSel }
  | .hifCqTail => { off := 0x13C * 8 + 16, width := 16, acc := .ro, sel := some .hifSessSel }
  | .hifIrqvSel => { off := 0x140 * 8, width := 14, acc := .rw }
  | .hifIrqvVec => { off := 0x144 * 8, width := 8, acc := .rw, reset := 64, sel := some .hifIrqvSel, legal := .range 64 255 }
  | .hifLinkState => { off := 0x148 * 8, width := 2, acc := .ro, count := 2, stride := 2 }
  | .hifLinkWidth => { off := 0x148 * 8 + 4, width := 4, acc := .ro, count := 2, stride := 4 }
  | .hifCtxsCore => { off := 0x150 * 8, width := 14, acc := .rw }
  | .hifCtxsCtx => { off := 0x150 * 8 + 16, width := 2, acc := .rw }
  | .hifCtxsState => { off := 0x154 * 8, width := 3, acc := .ro, view := true }
  | .hifCtxsSess => { off := 0x154 * 8 + 8, width := 6, acc := .ro, view := true }
  | .hifDbDiscard => { off := 0x158 * 8, width := 32, acc := .rc }
  | .secLcState => { off := 0x100 * 8, width := 3, acc := .ro }
  | .secDbgLevel => { off := 0x100 * 8 + 4, width := 2, acc := .ro }
  | .secKeyValid => { off := 0x104 * 8, width := 16, acc := .ro, view := true }
  | .secPskValid => { off := 0x104 * 8 + 16, width := 3, acc := .ro, view := true }
  | .secSpdmSessions => { off := 0x108 * 8, width := 3, acc := .ro, view := true }
  | .secMeasGen => { off := 0x10C * 8, width := 32, acc := .ro }
  | .secUnlockAll => { off := 0x110 * 8, width := 1, acc := .w1s }
  | .secDenied => { off := 0x114 * 8, width := 16, acc := .rc }
  | .pwrPstate => { off := 0x100 * 8, width := 3, acc := .ro }
  | .pwrPstateTgt => { off := 0x100 * 8 + 4, width := 3, acc := .ro }
  | .pwrPstateReq => { off := 0x104 * 8, width := 3, acc := .rw, legal := .range 0 3 }
  | .pwrPsGo => { off := 0x104 * 8 + 31, width := 1, acc := .w1s }
  | .pwrPsResult => { off := 0x108 * 8, width := 2, acc := .ro }
  | .pwrOosEn => { off := 0x10C * 8, width := 1, acc := .rwl }
  | .pwrPartOos => { off := 0x10C * 8 + 8, width := 4, acc := .w1s }
  | .pwrExitUs => { off := 0x110 * 8, width := 32, acc := .ro }
  | .pwrHostStep => { off := 0x120 * 8, width := 4, acc := .rw }
  | .pwrMgmtStep => { off := 0x120 * 8 + 8, width := 4, acc := .ro }
  | .pwrThermStep => { off := 0x120 * 8 + 16, width := 4, acc := .ro }
  | .pwrSupplyStep => { off := 0x120 * 8 + 24, width := 4, acc := .ro }
  | .pwrEffStep => { off := 0x124 * 8, width := 4, acc := .ro }
  | .pwrTargetStep => { off := 0x124 * 8 + 8, width := 4, acc := .ro, view := true }
  | .pwrLimitW => { off := 0x128 * 8, width := 16, acc := .ro, reset := 3600, view := true }
  | .pwrInputW => { off := 0x12C * 8, width := 16, acc := .ro }
  | .pwrInputMv => { off := 0x130 * 8, width := 16, acc := .ro }
  | .pwrInputCa => { off := 0x130 * 8 + 16, width := 16, acc := .ro }
  | .pwrDuty => { off := 0x134 * 8, width := 4, acc := .ro, reset := 8 }
  | .pwrBuGap => { off := 0x134 * 8 + 8, width := 7, acc := .ro }
  | .pwrSubW => { off := 0x138 * 8, width := 16, acc := .ro, count := 9, stride := 32 }
  | .pwrEnergyMj => { off := 0x160 * 8, width := 64, acc := .rc }
  | .thmSensSel => { off := 0x100 * 8, width := 9, acc := .rw }
  | .thmTemp => { off := 0x104 * 8, width := 12, acc := .ro, view := true }
  | .thmSensState => { off := 0x104 * 8 + 12, width := 3, acc := .ro, view := true }
  | .thmRaw => { off := 0x104 * 8 + 16, width := 12, acc := .ro, view := true }
  | .thmNbr => { off := 0x108 * 8, width := 9, acc := .ro, count := 4, stride := 16, view := true }
  | .thmSensClear => { off := 0x110 * 8, width := 1, acc := .w1s }
  | .thmPartSel => { off := 0x114 * 8, width := 6, acc := .rw, legal := .range 0 37 }
  | .thmPartMax => { off := 0x118 * 8, width := 12, acc := .ro, view := true }
  | .thmPartState => { off := 0x118 * 8 + 12, width := 3, acc := .ro, view := true }
  | .thmPartBroken => { off := 0x118 * 8 + 16, width := 8, acc := .ro, view := true }
  | .thmThmAdj => { off := 0x11C * 8, width := 4, acc := .rwl, legal := .range 0 10 }
  | .thmTrips => { off := 0x120 * 8, width := 32, acc := .rc }
  | .thmTemps => { off := 0x1000 * 8, width := 32, acc := .ro, count := 476, stride := 32, view := true }
  | .clkCoreStep => { off := 0x100 * 8, width := 4, acc := .ro, reset := 12, count := 4, stride := 32 }
  | .clkCoreTgt => { off := 0x100 * 8 + 8, width := 4, acc := .ro, reset := 12, count := 4, stride := 32 }
  | .clkClkMax => { off := 0x110 * 8, width := 4, acc := .rwl, reset := 12 }
  | .clkRefOk => { off := 0x114 * 8, width := 4, acc := .ro }
  | .clkTcxoComp => { off := 0x118 * 8, width := 16, acc := .ro }
  | .clkPllRecals => { off := 0x11C * 8, width := 32, acc := .rc }
  | .mgtBootStage => { off := 0x100 * 8, width := 4, acc := .ro }
  | .mgtBootResult => { off := 0x100 * 8 + 8, width := 4, acc := .ro }
  | .mgtStPartFail => { off := 0x104 * 8, width := 4, acc := .ro }
  | .mgtStBulkFail => { off := 0x104 * 8 + 8, width := 8, acc := .ro }
  | .mgtStCartFail => { off := 0x104 * 8 + 16, width := 4, acc := .ro }
  | .mgtBootMs => { off := 0x108 * 8, width := 32, acc := .ro }
  | .mgtFwBank => { off := 0x110 * 8, width := 6, acc := .ro, set := true }
  | .mgtFwRun => { off := 0x110 * 8 + 8, width := 6, acc := .ro }
  | .mgtFwFallback => { off := 0x110 * 8 + 16, width := 6, acc := .ro }
  | .mgtFwSel => { off := 0x114 * 8, width := 3, acc := .rw, legal := .range 0 5 }
  | .mgtFwVerA => { off := 0x118 * 8, width := 32, acc := .ro, sel := some .mgtFwSel }
  | .mgtFwVerB => { off := 0x11C * 8, width := 32, acc := .ro, sel := some .mgtFwSel }
  | .mgtRepairLogUsed => { off := 0x120 * 8, width := 15, acc := .ro, view := true }
  | .mgtRepairLogFull => { off := 0x120 * 8 + 16, width := 1, acc := .ro, view := true }
  | .mgtRetStack => { off := 0x124 * 8, width := 3, acc := .rwl }
  | .mgtRetDie => { off := 0x124 * 8 + 4, width := 4, acc := .rwl }
  | .mgtRetGo => { off := 0x124 * 8 + 31, width := 1, acc := .w1s }

/-- The header fields, on every unit's first page (R29). -/
def headerFlds : List Fld :=
  [.hdrCtrlSync, .hdrCtrlFence, .hdrCtrlUnfence, .hdrCtrlReset, .hdrFenced, .hdrOutOfService, .hdrErrPending,
   .hdrCfgStaged, .hdrResult, .hdrSkippedPart, .hdrResetting, .hdrIrqStat, .hdrIrqEn, .hdrIrqForce, .hdrLocked,
   .hdrLockViolation, .hdrBadWrite, .hdrActiveBank, .hdrPrevValid, .hdrStaged, .hdrActiveGen, .hdrRollback,
   .hdrErrValid, .hdrErrOverflow, .hdrErrSeverity, .hdrErrCode, .hdrErrCount, .hdrErrEpoch, .hdrErrDetail,
   .hdrMsEpoch, .hdrMsAction, .hdrMsArg, .hdrMsState, .hdrMsDisarm, .hdrMsArm]

/-- The block-specific fields of a page, in rising order of offset. -/
def Block.flds : Block → List Fld
  | .epo =>
    [.epoEpochNow, .epoEpochEra, .epoEpochAdvance, .epoEpochFloor, .epoFloorKind, .epoFloorId, .epoSrc, .epoWarnExp,
     .epoPeer, .epoAdvResult, .epoAdvRefused, .epoVcRegion, .epoVcSlot, .epoVcOp, .epoVcResult, .epoVcGo,
     .epoVcmdStart, .epoVcmdEnd, .epoVcmdBase, .epoVsState, .epoVsGen, .epoVsEpoch, .epoLdgSel, .epoLdgBase,
     .epoLdgSize, .epoLdgGen, .epoLdgEn, .epoLdgWptr, .epoLdgRptr, .epoLdgDropped]
  | .serai =>
    [.seraiHopIndex, .seraiHopKind, .seraiHopOp, .seraiHopStatus, .seraiHopGo, .seraiHopArg, .seraiHopResult0,
     .seraiHopResult1, .seraiHwinBase, .seraiHwinCount, .seraiRwinBase, .seraiRwinCount, .seraiWdogTimeout,
     .seraiWdogAction, .seraiWdogEn, .seraiWdogFires, .seraiHeldNow, .seraiHeldPeak, .seraiRemoteRejected]
  | .mxe | .vxe =>
    [.engEngState, .engActiveCtx, .engDescDone, .engExcNv, .engExcOf, .engExcUf, .engExcNl, .engExcSc,
     .engBusyCycles, .engStallLine, .engLsetActive]
  | .spd =>
    [.spdSbUsed, .spdSbPeak, .spdSbClaims, .spdSbConflictCyc, .spdSbFullCyc, .spdSlotEngine, .spdSlotTmv,
     .spdSlotNarrow, .spdSlotIdle, .spdNbHits, .spdNbMisses, .spdDbgHazard, .spdSpBase, .spdSpNeed]
  | .tmv =>
    [.tmvStateLd, .tmvStateSt, .tmvStateGt, .tmvDescDone, .tmvBytesRead, .tmvBytesWritten, .tmvClampUnits,
     .tmvPadUnits, .tmvCoalesced, .tmvRetries, .tmvTlbMisses, .tmvFaults, .tmvReqStall, .tmvLsetActive]
  | .bkc =>
    [.bkcEngState, .bkcDescDone, .bkcUploadBytes, .bkcRecordBytes, .bkcAdmitWait, .bkcFaults, .bkcLsetActive]
  | .bku =>
    [.bkuHmState, .bkuHmReq, .bkuHmIdleUs, .bkuHostGang, .bkuAbChan, .bkuAbBank, .bkuAbAllCh, .bkuAbAllBank,
     .bkuAbTag, .bkuAbTagEn, .bkuAbGo, .bkuAbAborted, .bkuAbNta, .bkuSeqDone, .bkuSeqAborted, .bkuSteps,
     .bkuWaitSteps, .bkuGapNs, .bkuOpbufUsed, .bkuHostDiscard, .bkuBuSelChan, .bkuBuSelBank, .bkuBuView]
  | .mcs =>
    [.mcsQosMode, .mcsAgeCapNs, .mcsRecalMs, .mcsFrzAutoUs, .mcsFrozen, .mcsFrzRelease, .mcsFrzForce, .mcsFailed,
     .mcsQosSum, .mcsRef2x, .mcsQosCap, .mcsLatMiss, .mcsRefForced, .mcsLegWaits, .mcsIdleCycleReads, .mcsFreezes,
     .mcsLinMap, .mcsBmpMap, .mcsPlaceResult, .mcsSideWrites, .mcsVetFails, .mcsRowops, .mcsEntrySkips,
     .mcsLatTarget, .mcsRate, .mcsBurstKib, .mcsHard, .mcsTokens, .mcsServedKib, .mcsFrzValid, .mcsFrzChan,
     .mcsFrzCause, .mcsFrzCount, .mcsErrBank, .mcsErrRow, .mcsErrCol, .mcsErrDpa, .mcsSyndrome, .mcsFrzEpoch,
     .mcsHeldRd, .mcsHeldWr, .mcsFrzRc, .mcsFrzHm, .mcsFrzGang, .mcsCmdHist, .mcsMr, .mcsChState, .mcsRecal,
     .mcsChRc, .mcsRdQ, .mcsWrQ, .mcsFreezes1s, .mcsRefreshes, .mcsRecals]
  | .drv =>
    [.drvSegOp, .drvSegGo, .drvSegId, .drvSegResult, .drvSegState, .drvSegBase, .drvSegBaseEn, .drvSegRec,
     .drvSegPages, .drvSegFirst, .drvSegHeat, .drvSegCount, .drvSegSrcDpa, .drvCatRegion, .drvCatSlot, .drvCatGen,
     .drvPoolSel, .drvPoolBase, .drvPoolFrames, .drvPoolEn, .drvHits, .drvMisses, .drvPromoted, .drvBypass,
     .drvEvicted, .drvFreePages]
  | .blk =>
    [.blkBlkState, .blkPeAvg, .blkPeMax, .blkLifeUsed, .blkDiesRetired, .blkHostBytes, .blkMediaBytes,
     .blkReadRetries, .blkReadPoisoned]
  | .flt =>
    [.fltPartState, .fltDevService, .fltResetGo, .fltReadmit, .fltAutoReset, .fltDrainNs, .fltResetsWin,
     .fltEscLimit, .fltEscWindowS, .fltLastSrc, .fltLastCode, .fltLastEpoch, .fltLastRecoveryNs, .fltReplayed,
     .fltNotReplayed, .fltSpineMismatch, .fltSpineResync, .fltJoined, .fltJrnSel, .fltJrnState, .fltJrnSnap,
     .fltJrnSess, .fltJrnTag, .fltFltPend, .fltIntSel, .fltCeOde, .fltCeSym, .fltUe, .fltPoisonReads, .fltMerges,
     .fltCeThresh, .fltCeWindowS, .fltRowCeThresh, .fltRepairAuto, .fltRepairs, .fltRepairPending, .fltScrubPasses,
     .fltReqChan, .fltReqBank, .fltReqRow, .fltRepairGo, .fltTestMode, .fltTestChan, .fltTestResult, .fltTestChk,
     .fltRawChk, .fltRawSyn]
  | .evl =>
    [.evlPortState, .evlWidth, .evlLanesOk, .evlDownCause, .evlPortEn, .evlRetrain, .evlMbrEn, .evlMbrLeave,
     .evlEpochTx, .evlSelfAddr, .evlSelfValid, .evlPartnerAddr, .evlPartnerFwd, .evlPartnerId, .evlTxCrData,
     .evlTxCrSig, .evlTxCrResp, .evlTxCrMgmt, .evlDseqTx, .evlLanded, .evlRttNs, .evlBerThresh, .evlFlitsTx,
     .evlFlitsRx, .evlFecCorr, .evlFecUncorr, .evlReplays, .evlRespTimeoutUs, .evlPresentUs, .evlDeadCount,
     .evlBseqTx, .evlMgen, .evlExpRoot, .evlMbrSel, .evlMbrState, .evlReachHere, .evlMbrClear, .evlMbrId,
     .evlMisrouted, .evlBadFrame, .evlDupBcast, .evlOutstanding, .evlReach]
  | .opt =>
    [.optFeed0Bay, .optFeed1Bay, .optFeed0Ok, .optFeed1Ok, .optFeed0Uw, .optFeed1Uw, .optLaneFault, .optSparesUsed,
     .optLane]
  | .bay =>
    [.bayCartState, .bayPresent, .bayLatchClosed, .bayPrepare, .bayForce, .bayCancel, .bayBayEn, .bayPower,
     .bayCaseC, .bayHeaterOn, .bayHours, .bayCartId, .bayFedMask]
  | .hif =>
    [.hifSessSel, .hifSessOp, .hifSessResult, .hifSessGo, .hifSessState, .hifSessLink, .hifSqLog2, .hifCqLog2,
     .hifSqBase, .hifCqBase, .hifCqTailAddr, .hifFlagBase, .hifFlagIrq, .hifSflagBase, .hifSqHead, .hifCqTail,
     .hifIrqvSel, .hifIrqvVec, .hifLinkState, .hifLinkWidth, .hifCtxsCore, .hifCtxsCtx, .hifCtxsState, .hifCtxsSess,
     .hifDbDiscard]
  | .sec =>
    [.secLcState, .secDbgLevel, .secKeyValid, .secPskValid, .secSpdmSessions, .secMeasGen, .secUnlockAll, .secDenied]
  | .pwr =>
    [.pwrPstate, .pwrPstateTgt, .pwrPstateReq, .pwrPsGo, .pwrPsResult, .pwrOosEn, .pwrPartOos, .pwrExitUs,
     .pwrHostStep, .pwrMgmtStep, .pwrThermStep, .pwrSupplyStep, .pwrEffStep, .pwrTargetStep, .pwrLimitW, .pwrInputW,
     .pwrInputMv, .pwrInputCa, .pwrDuty, .pwrBuGap, .pwrSubW, .pwrEnergyMj]
  | .thm =>
    [.thmSensSel, .thmTemp, .thmSensState, .thmRaw, .thmNbr, .thmSensClear, .thmPartSel, .thmPartMax, .thmPartState,
     .thmPartBroken, .thmThmAdj, .thmTrips, .thmTemps]
  | .clk =>
    [.clkCoreStep, .clkCoreTgt, .clkClkMax, .clkRefOk, .clkTcxoComp, .clkPllRecals]
  | .mgt =>
    [.mgtBootStage, .mgtBootResult, .mgtStPartFail, .mgtStBulkFail, .mgtStCartFail, .mgtBootMs, .mgtFwBank,
     .mgtFwRun, .mgtFwFallback, .mgtFwSel, .mgtFwVerA, .mgtFwVerB, .mgtRepairLogUsed, .mgtRepairLogFull,
     .mgtRetStack, .mgtRetDie, .mgtRetGo]
  | .headerOnly => []

/-- The defined interrupt causes of a page (R37): bits 3:0 are common, the block's own start at 16. -/
def Block.irqMask : Block → Nat
  | .hif => 0x3000F | .epo => 0xF000F | .serai => 0xF000F | .spd => 0x1000F | .tmv => 0x1000F | .bkc => 0x1000F
  | .bku => 0x3000F | .mcs => 0x3F000F | .drv => 0x1000F | .blk => 0x3000F | .evl => 0xF000F | .opt => 0x1000F
  | .bay => 0x3000F | .flt => 0x7F000F | .sec => 0x3000F | .pwr => 0x1F000F | .thm => 0xF000F | .clk => 0x1000F
  | .mgt => 0x3000F | .mxe | .vxe | .headerOnly => 0xF

/-- The reset value of field `f`, instance `i`, on the unit with first page `page` (the Reset columns). -/
def regReset (page : Nat) (f : Fld) (i : Nat) : Nat :=
  match f with
  | .mcsLatTarget => if i = 5 then 2000 else if i = 6 then 4000 else if i = 7 then 1500 else 1000
  | .hifIrqvVec => 64 + i / 2048
  | .seraiWdogTimeout => if page = 0x2020 then 0 else 200
  | .seraiWdogEn => if page = 0x2020 then 0 else 1
  | _ => f.row.reset

/-- The key under which field `f`, instance `i`, of the unit with first page `page` is held. -/
def regKey (page : Nat) (f : Fld) (i : Nat) : Nat := (page * 1024 + f.ctorIdx) * 16384 + i % 16384

end Sys2Proof.Machine
end

