-- ==== Sys2Proof/Machine/Data.lean ====
section
/-!
DEFINITION. The pieces of state that are no register field: version slots, contexts and runs, the Serai, the loader, the
scratchpad's scoreboard and narrow view, channels with their queues and sequences, bank units, and the records of the
model's output. Each structure names the rule that gives the machine that state; every field's default is its reset value.
-/

namespace Sys2Proof.Machine

/-- States of a version slot, in the order of their codes (R63). -/
inductive VState where
  | free | open | closed | held | retired
deriving DecidableEq, Repr

/-- One slot of the version table (R61). Fields other than the state have no reset value in the spec: 0, log entry 5. -/
structure VSlot where
  st : VState := .free
  start : Nat := 0
  fin : Nat := 0
  base : Nat := 0
  gen : Nat := 0
deriving DecidableEq, Repr

/-- What the device sends out, oldest first: the model's own record of its outputs (log entry 11). -/
inductive Msg where
  /-- the answer to a register read: page index, byte offset, value -/
  | regData (page off value : Nat)
  /-- the answer to a doorbell-page read -/
  | doorbellData (sess value : Nat)
  /-- the answer to a memory read: the bytes and the poison indication (R369, R444) -/
  | memData (bytes : List Byte) (poison : Bool)
  /-- Unsupported Request (R48, R257) -/
  | unsupported
  /-- a read request to host memory that fetches an SQ entry (R428), on a link (R431) -/
  | hostRead (link sess addr : Nat)
  /-- a write of host memory on a link: WrCur or Memory Write (R431) -/
  | hostWrite (link sess addr : Nat) (bytes : List Byte)
  /-- an MSI-X message on a link (R422, R423) -/
  | msix (link vec : Nat)
  /-- the HDM decoder of a link reports a commit error (R421) -/
  | commitError (link : Nat)
  /-- a back-invalidation of a 64-byte host line (R439) -/
  | backInvalidate (line : Nat)
  /-- RspI to a snoop (R419) -/
  | rspI
  /-- an SPDM answer: a code of R472 and its payload -/
  | spdm (code : Nat) (payload : List Byte)
  /-- a PLDM answer: completion code and value (R514, R522) -/
  | pldm (code : Nat) (value : Int)
  /-- a flit that a port sends (R391) -/
  | flit (port : Nat) (bytes : List Byte)
deriving DecidableEq, Repr

/-- States of a hardware context, in the order of CTXS_STATE (R120, R426). -/
inductive CtxState where
  | free | binding | running | halted
deriving DecidableEq, Repr

/-- Completion status codes of R118. -/
inductive DStat where
  | ok | fault | aborted | poisoned
deriving DecidableEq, Repr

/-- A descriptor copied into a layer register set, not yet started: its run-relative waybill and image (R110). -/
structure Desc where
  k : Nat := 0
  img : List Byte := []
deriving DecidableEq, Repr

/-- A started descriptor that has not completed (R111): what it has done so far. `stat` is `none` while it still works.
`began` says its operation has acted; `rdRel` that a READ entry was released, `wrote` that output was written, `added`
that an addition was issued (R460), `again` how many requests were answered RETRY last (R244), `slotHeld` that a completion slot is reserved for its record (R430), `cut` that a
partition-fatal fault of its unit has ended it (R450). -/
structure Work where
  k : Nat := 0
  img : List Byte := []
  stat : Option DStat := none
  exc : Nat := 0
  detail : Nat := 0
  began : Bool := false
  rdRel : Bool := false
  wrote : Bool := false
  added : Bool := false
  bad : Bool := false
  retry : Bool := false
  again : Nat := 0
  slotHeld : Bool := false
  cut : Bool := false
deriving DecidableEq, Repr

/-- One stream of a context (R111): how many descriptors were loaded, the loaded one, the started ones in order. -/
structure QState where
  loaded : Nat := 0
  idle : Option Desc := none
  live : List Work := []
deriving DecidableEq, Repr

/-- A bind entry (R435). -/
structure Bind where
  remote : Bool := false
  part : Nat := 0
  peer : Nat := 0
  dva : Nat := 0
deriving DecidableEq, Repr

/-- A recorded split arrival (R135): which descriptor made it, on which barrier, in which generation, and whether that
generation has completed or met a muster skew (R137); `withdrawn` is R150's. -/
structure SplitGen where
  k : Nat := 0
  device : Bool := false
  idx : Nat := 0
  gen : Nat := 0
  done : Bool := false
  skew : Bool := false
  withdrawn : Bool := false
deriving DecidableEq, Repr

/-- Arrivals at one barrier-table entry (R117): passes completed, and the queues that have arrived at the next pass. -/
structure XBar where
  entry : Nat := 0
  passes : Nat := 0
  arrived : List Nat := []
deriving DecidableEq, Repr

/-- The first descriptor that ended FAULT or ABORTED in a run (R121). -/
structure FirstFault where
  stat : DStat := .fault
  ctx : Nat := 0
  q : Nat := 0
  wb : Nat := 0
  detail : Nat := 0
deriving DecidableEq, Repr

/-- A hardware context (R113, R120, R205, R433, R457). Its journal is this record together with `journal` (0 NONE,
1 LIVE, 2 AWAITING_REPLAY): the spine keeps every value from which the context is restarted. `sy` is the last Q_SY operation
applied on the context's behalf with the counter's old value (R459), `noReplay` the reason of R460 that refuses its replay (0
none) and `intr` the interrupted descriptor that R460 names (queue, waybill). `slots` are the completion slots reserved
for interrupted descriptors, as (queue, descriptor) (R458). `regionBase` holds the region resolutions of R241, `leaves2` and `leaves1` the context's entries of the translation cache. -/
structure Ctx where
  st : CtxState := .free
  run : Nat := 0
  vcore : Nat := 0
  vctx : Nat := 0
  slot : Nat := 0
  prio : Nat := 0
  snap : Nat := 0
  bound : Bool := false
  spBase : Nat := 0
  spNeed : Nat := 0
  wbDone : List Nat := [0, 0, 0, 0, 0, 0, 0, 0]
  wbBase : List Nat := [0, 0, 0, 0, 0, 0, 0, 0]
  qs : List QState := [{}, {}, {}, {}, {}, {}, {}, {}]
  bars : List XBar := []
  gens : List SplitGen := []
  journal : Nat := 0
  bindRefused : Bool := false
  sy : Option (Nat × Nat) := none
  noReplay : Nat := 0
  intr : Option (Nat × Nat) := none
  slots : List (Nat × Nat) := []
  regionBase : List (Nat × Nat) := []
  leaves2 : List (Nat × Nat) := []
  leaves1 : List (Nat × Nat) := []
deriving DecidableEq, Repr

/-- A run (R433, R436): the values read from the run block at run start, the manifest it runs (its slot is not rewritten while
it fetches, R124), and its status so far. -/
structure Run where
  sess : Nat := 0
  tag : Nat := 0
  noirq : Bool := false
  loadId : Nat := 0
  slot : Nat := 0
  image : List Byte := []
  profile : Bool := false
  root : Nat := 0
  params : List Nat := []
  grants : List (Nat × Nat) := []
  binds : List Bind := []
  regions : List (Nat × Nat) := []
  ctxs : List Nat := []
  aborted : Bool := false
  notReplay : Option Nat := none
  first : Option FirstFault := none
deriving DecidableEq, Repr

/-- A program-memory slot's states, in the order of PM_STATE (R125). -/
inductive PmState where
  | empty | loading | ready | active | draining
deriving DecidableEq, Repr

/-- A program-memory slot of a core (R123, R125): the manifest image whose streams it holds, which virtual core is placed
here, and the scratch need of that core (R205). -/
structure PmSlot where
  st : PmState := .empty
  loadId : Nat := 0
  image : List Byte := []
  vcore : Nat := 0
deriving DecidableEq, Repr

/-- A layer register set as the pages show it: the descriptor image and the context number (R110, R198, R246, R284). -/
structure LSet where
  img : List Byte := []
  ctx : Nat := 0
deriving DecidableEq, Repr

/-- The two layer register sets of one queue of one core, which is active, and whether the active one is still taken
by a descriptor whose work items are not all accepted (R110): `owner`, its context and place in the stream. `last` is the context
served last and `passed` holds for each context the descriptors of higher priority served while it was ready (R122). -/
structure QEngine where
  set0 : LSet := {}
  set1 : LSet := {}
  active : Nat := 0
  busy : Bool := false
  owner : Nat × Nat := (0, 0)
  last : Nat := 3
  passed : List Nat := [0, 0, 0, 0]
deriving DecidableEq, Repr

/-- Kinds of a scoreboard entry, in the order of KIND in R217 (FREE is the absence of an entry). -/
inductive SbKind where
  | read | write | claimRead | claimWrite
deriving DecidableEq, Repr

/-- A scoreboard entry or claim (R206, R212, R217). Spans are in 32-byte sectors, `hi` exclusive; `slot` is its place in SB_DUMP. -/
structure SbEntry where
  lo : Nat := 0
  hi : Nat := 0
  kind : SbKind := .read
  q : Nat := 0
  ctx : Nat := 0
  wb : Nat := 0
  slot : Nat := 0
deriving DecidableEq, Repr

/-- A dirty word of a line buffer (R203, R371): its place in the line, the bytes written as a mask, the bytes, and whether
what was written is poisoned. -/
structure NWord where
  word : Nat := 0
  mask : Nat := 0
  data : Nat := 0
  poison : Bool := false
deriving DecidableEq, Repr

/-- A line buffer of the narrow view (R203): its line, the mask of its 256 valid words, and its dirty words. The list of
buffers of a core is ordered least recently used first. -/
structure NBuf where
  line : Nat := 0
  valid : Nat := 0
  dirty : List NWord := []
deriving DecidableEq, Repr

/-- The scoreboard and narrow view of one core (R203, R206, R208). `marks` are POISON marks not yet written (R366);
`scrub` is the scrubber's line (R374); `dump` is the place of SB_DUMP that is being read, with the entry that its first read found there (R217). -/
structure Spad where
  sb : List SbEntry := []
  lastAdmit : Nat := 7
  nbufs : List NBuf := []
  marks : List Nat := []
  scrub : Nat := 0
  dump : Option (Nat × Option SbEntry) := none
deriving DecidableEq, Repr

/-- A flag, counter or barrier waiter, or a barrier's contents (R133): N = 0 is UNINIT. `arr` lists who arrived in the
current generation: a context number and the waybill, or none for the host. -/
structure Bar where
  n : Nat := 0
  muster : Bool := false
  prod : Nat := 0
  cons : Nat := 0
  count : Nat := 0
  gen : Nat := 0
  arr : List (Option (Nat × Nat)) := []
deriving DecidableEq, Repr

/-- A held remote signal (R144, R406): the sender's address, its stream (core, context, queue) as one number, the waybill of the
named data, the DSEQ it waits for (none when DW = 0), the port it came on, and the operation on the target object. -/
structure Held where
  src : Nat := 0
  stream : Nat := 0
  wb : Nat := 0
  port : Nat := 0
  wait : Option Nat := none
  counter : Bool := false
  idx : Nat := 0
  op : Nat := 0
  operand : Nat := 0
deriving DecidableEq, Repr

/-- One Serai (R127): its objects and held signals. -/
structure Serai where
  flags : SMap Bool := []
  ctrs : SMap Nat := []
  bars : SMap Bar := []
  held : List Held := []
deriving DecidableEq, Repr

/-- A queued load command (R153): its body of R154 and the session and tag that it answers to. -/
structure LoadCmd where
  sess : Nat := 0
  tag : Nat := 0
  noirq : Bool := false
  body : List Byte := []
deriving DecidableEq, Repr

/-- The load in stage SLOTS (R156): the verified image, its placement (virtual core v on core number), the slots it
reserved with the state each had, and whether it has begun to write them. -/
structure Loading where
  cmd : LoadCmd := {}
  image : List Byte := []
  cores : List Nat := []
  target : Nat := 0
  writing : Bool := false
deriving DecidableEq, Repr

/-- A write of host memory whose GO has not arrived (R431): a completion record with its interrupt request, or a host flag
with its vector request and the HOST_NOTIFY descriptor (core, context, waybill) that completes at its GO (R442). -/
inductive SentWrite where
  | record (irq : Bool)
  | flag (irq : Bool) (core ctx k : Nat)
deriving DecidableEq, Repr

/-- A session's queues and doorbell state beyond its register fields (R427, R430, R431, R441, R442): tail and head
doorbells, reserved completion slots, the entry being handled, writes without GO, the interrupt requests of records whose
GO came, tokens of pending fences and the last completed one, and the write counts of its host flags. -/
structure Sess where
  sqTail : Nat := 0
  cqHead : Nat := 0
  reserved : Nat := 0
  fetched : Option (List Byte) := none
  sent : List SentWrite := []
  acked : List Bool := []
  fences : List Nat := []
  fenceDone : Nat := 0
  flagCount : SMap Nat := []
deriving DecidableEq, Repr

/-- An ABORT command that waits for its runs to complete (R437). -/
structure AbortWait where
  sess : Nat := 0
  tag : Nat := 0
  noirq : Bool := false
  runs : List Nat := []
deriving DecidableEq, Repr

/-- The common operations of CTRL (R34). -/
inductive CtrlKind where
  | sync | fence | unfence | reset
deriving DecidableEq, Repr

/-- A CTRL operation that has not completed (R13, R34): the addressed unit's page, the descriptors and sequences whose
completion it waits for, the worst result met, the partitions skipped, those it still waits for (R16), those whose commanded
reset it waits for (R16, R462), and the members whose running operation of the same kind it waits for (R13). -/
structure CtrlOp where
  page : Nat := 0
  kind : CtrlKind := .sync
  work : List (Nat × Nat × Nat) := []
  worst : Nat := 0
  skipped : Nat := 0
  waiting : List Nat := []
  resets : List Nat := []
  deps : List Nat := []
deriving DecidableEq, Repr

/-- States of a channel, in the order of CH_STATE (R350). -/
inductive ChState where
  | training | normal | frozen | failed
deriving DecidableEq, Repr

/-- Harness states of a channel, in the order of R254 and FRZ_HM. -/
inductive HarnessState where
  | off | entering | on | exiting
deriving DecidableEq, Repr

/-- The quality-of-service set that a request was queued under (R67): QOS_MODE and AGE_CAP_NS, and LAT_TARGET, RATE and HARD of its
port (R343-R345, R355). -/
structure QosSet where
  full : Bool := false
  ageCap : Nat := 4000
  target : Nat := 1000
  rate : Nat := 0
  hard : Bool := false
deriving DecidableEq, Repr

/-- A queued read (R335): its columns with their addresses, the bytes wanted of them, the port, its place in the order of arrival, its
set, its age in ns as last crossed and its urgency (R344, R345); `scrub` marks the scrubber's (R372). -/
structure RdReq where
  cols : List (Nat × Nat) := []
  off : Nat := 0
  len : Nat := 0
  port : Nat := 0
  stamp : Nat := 0
  qos : QosSet := {}
  age : Nat := 0
  urgency : Nat := 0
  scrub : Bool := false
deriving DecidableEq, Repr

/-- A queued write (R335): the column, the written bytes by their place in it, and whether they carry poison; port, order of arrival,
set, age and urgency as of a read. An entry that does not cover the column holds a merge entry (R370); `mate` marks the second column of
a 64-byte pair, which is of one entry with the first while that stands before it. -/
structure WrReq where
  col : Nat := 0
  port : Nat := 0
  data : SMap Byte := []
  poison : Bool := false
  scrub : Bool := false
  mate : Bool := false
  stamp : Nat := 0
  qos : QosSet := {}
  age : Nat := 0
  urgency : Nat := 0
deriving DecidableEq, Repr

/-- A request that has found no room in its queue and is not accepted yet (R335, R349): its DPA, the bytes of a write, the length of a
read, and its port. -/
structure LateReq where
  dpa : Nat := 0
  len : Nat := 0
  port : Nat := 0
  data : Option (List Byte) := none
  poison : Bool := false
deriving DecidableEq, Repr

/-- An access that a running leg holds back, as LEG_WAITS has counted it (R337): its 64-byte pair, its port, and the descriptor (core,
context, queue, place) that tries it again. -/
structure LegWait where
  pair : Nat := 0
  port : Nat := 0
  who : Option (Nat × Nat × Nat × Nat) := none
deriving DecidableEq, Repr

/-- An open CE window of an integrity source (R378): the corrections counted in it and whether CE_THRESH was captured. -/
structure CeWin where
  opened : Bool := false
  count : Nat := 0
  hit : Bool := false
deriving DecidableEq, Repr

/-- A row in the suspect table (R376): bank × 65,536 + row, and its corrections. -/
structure Suspect where
  row : Nat := 0
  count : Nat := 0
deriving DecidableEq, Repr

/-- States of a bank-unit sequence (R269). -/
inductive SeqState where
  | queued | running | gap | wait | draining
deriving DecidableEq, Repr

/-- A sequence of one channel's gang (R266, R269): its owning descriptor (`host` for a host command), its banks, command word
(OP, FLAGS, TAG), control word, register stream (for MVS vector 0 first) and its poison, SAT and FTZ of the descriptor; the
items done and the emissions so far; `phase` says that the next ROWLIST piece is the SEAL of item `pos` (R302), and `part` how much of
its first piece is done: VETs, then its operation (R303); `ended` are the
banks whose last step or abort has been taken, `gone` those that have drained; `ends` is each bank's share end (R262). -/
structure Seq where
  core : Nat := 0
  ctx : Nat := 0
  k : Nat := 0
  host : Bool := false
  banks : List Nat := []
  op : Nat := 0
  flags : Nat := 0
  tag : Nat := 0
  cw : Nat := 0
  stream : List Byte := []
  streamBad : Bool := false
  sat : Bool := false
  ftz : Bool := false
  st : SeqState := .queued
  pos : Nat := 0
  emits : Nat := 0
  phase : Bool := false
  part : Nat := 0
  ended : List Nat := []
  gone : List Nat := []
  ends : SMap Nat := []
deriving DecidableEq, Repr

/-- A channel engine (R252, R254, R269, R335, R341, R348, R350, R366, R372, R376). `rows` are the open rows of its banks, as bank ×
65,536 + row, oldest first: one of a bank, or two that a bank unit holds (R247); `stamp` counts its requests in order of arrival,
`late` those without room, and `waits` are the accesses that the present leg holds back. -/
structure Chan where
  st : ChState := .training
  rc : Int := 0
  refpb : List Nat := []
  recal : Bool := false
  recalDue : Bool := false
  recalForced : Bool := false
  recalTemp : Int := 0
  freezes1s : Nat := 0
  storm : Bool := false
  rdq : List RdReq := []
  wrq : List WrReq := []
  stamp : Nat := 0
  late : List LateReq := []
  waits : List LegWait := []
  rows : List Nat := []
  owed : List Nat := []
  hm : HarnessState := .off
  gang : Nat := 0
  seqs : List Seq := []
  slots : SMap (List Byte) := []
  hist : List Nat := []
  scrub : Nat := 0
  scrubBack : List WrReq := []
  suspects : List Suspect := []
  repairs : List Nat := []
  repairHold : Bool := false
  fwHold : Bool := false
deriving DecidableEq, Repr

/-- Codebook latch of a bank unit (R247, R256). -/
structure Latch where
  book : Nat := 0
  scale : Nat := 0
deriving DecidableEq, Repr

/-- A bank unit (R247, R257). Accumulators are 16 words of 32 bits; the spec gives no reset value and clears them at a
partition reset (R250): 0. `ovf` has a bit for each of the 32 accumulators that overflowed to an infinity (R92); `pend` are
candidates that find the FIFO's 32 entries full, for which the gang waits (R266); `sa0`, `sa1`, `scount` are the result
shadow; `poison`, `steps`, `pushed`, `exc`, `mask` (the PQSCAN mask column), `lastEmit`, `sealDue`, `vetBad` (a source of the present entry failed VET, R298) and
`accBad` (a poisoned column entered the accumulators) are of the sequence in progress; `vetted` and `produced` are the sets of R297, `skip` the first skipped entry (R306), `marks` the POISON marks owed
(R366), `out` the emitted records that have not left the collector slot (R272). -/
structure BankUnit where
  v : List Nat := [0, 0, 0, 0, 0, 0, 0, 0]
  a0 : List Nat := List.replicate 16 0
  a1 : List Nat := List.replicate 16 0
  ovf : Nat := 0
  cw : Nat := 0
  latch : Latch := {}
  fifo : List Nat := []
  pend : List Nat := []
  count : Nat := 0
  sa0 : List Nat := List.replicate 16 0
  sa1 : List Nat := List.replicate 16 0
  scount : Nat := 0
  last : Nat := 0
  lastPoison : Bool := false
  badCmd : Bool := false
  lastOp : Nat := 0
  tag : Nat := 0
  lastSteps : Nat := 0
  poison : Bool := false
  steps : Nat := 0
  pushed : Nat := 0
  exc : Nat := 0
  mask : Nat := 0
  lastEmit : Option (List Nat × List Nat) := none
  sealDue : Bool := false
  vetBad : Bool := false
  accBad : Bool := false
  vetted : List Nat := []
  produced : List Nat := []
  skip : Option Nat := none
  marks : List Nat := []
  out : List (List Byte × Bool) := []
deriving DecidableEq, Repr

/-- What one bank unit reported for a descriptor (R280, R281): the unit, 1 COMPLETED, 2 ABORTED or 3 REFUSED, its POISON bit
and its exception flags. -/
structure UnitReport where
  unit : Nat := 0
  kind : Nat := 1
  poison : Bool := false
  exc : Nat := 0
deriving DecidableEq, Repr

/-- A record on its way to the engine that holds one credit (R273): its unit, its scratchpad address, its bytes. -/
structure BkRec where
  unit : Nat := 0
  dst : Nat := 0
  data : List Byte := []
  poison : Bool := false
deriving DecidableEq, Repr

/-- A bank-command descriptor in flight (R277): its stack, channels and banks, the reserved operand buffer in 2 KiB units, each
channel's control word, each unit's share end, the register stream once uploaded, the channels commanded, the units' reports,
the records that wait to be written and, per unit, the record bytes that have left its slot. -/
structure BkFlight where
  core : Nat := 0
  ctx : Nat := 0
  k : Nat := 0
  stack : Nat := 0
  chans : List Nat := []
  banks : List Nat := []
  type : Nat := 0
  cws : SMap Nat := []
  ends : SMap Nat := []
  kib2 : Nat := 0
  granted : Bool := false
  uploaded : Bool := false
  stream : List Byte := []
  streamBad : Bool := false
  commanded : List Nat := []
  reports : List UnitReport := []
  arrived : List BkRec := []
  cur : SMap Nat := []
  outBase : Option Nat := none
  statBase : Option Nat := none
  region : Nat := 0
deriving DecidableEq, Repr

/-- A value of a set field: in the staging buffer or in the previous bank (R66). -/
structure SetVal where
  page : Nat
  fld : Fld
  idx : Nat
  val : Nat
deriving DecidableEq, Repr

/-- A flash page of a segment (R312-R314, R318): its physical page, heat class, poison mark and bytes. -/
structure FlashPage where
  id : Nat := 0
  heat : Nat := 0
  poison : Bool := false
  data : SMap Byte := []
deriving DecidableEq, Repr

/-- States of a segment, in the order of SEG_STATE (R312). -/
inductive SegState where
  | free | writing | sealed | deleting
deriving DecidableEq, Repr

/-- A segment (R312-R314): state, size in pages, record size, base and the pages that are not all zeros. -/
structure Segment where
  st : SegState := .free
  pages : Nat := 0
  recBytes : Nat := 0
  base : Option Nat := none
  map : SMap (Option FlashPage) := []
deriving DecidableEq, Repr

/-- A catalog entry (R316): the GEN it was bound for and the segment. -/
structure CatEntry where
  gen : Nat := 0
  seg : Nat := 0
deriving DecidableEq, Repr

/-- A frame of a pool (R317): its tag, reference bit, pins by context, whether its fill is in flight, and whether it is to
be freed when the fill lands (R321). -/
structure Frame where
  region : Nat := 0
  slot : Nat := 0
  gen : Nat := 0
  page : Nat := 0
  endAt : Option Nat := none
  heat : Nat := 0
  refd : Bool := false
  pins : List Nat := []
  filling : Bool := false
  doomed : Bool := false
deriving DecidableEq, Repr

/-- A staging pool beyond its register fields (R317-R322): frames by number, the miss filter (oldest first), the clock hand
and a pending disable. -/
structure Pool where
  frames : SMap (Option Frame) := []
  filter : List Nat := []
  hand : Nat := 0
  disabling : Bool := false
deriving DecidableEq, Repr

/-- A bulk page read of the drover (R310, R318): segment and page (page i lies on stack B(2n + (i mod 2)), R311), the pool
frames that keep it, as (pool, frame), the descriptor that asked for it first (core, context, place), and whether it is outstanding at
its stack or still waits for one of the 512 places (R326). -/
structure BulkRead where
  seg : Nat := 0
  page : Nat := 0
  frames : List (Nat × Nat) := []
  who : Nat × Nat × Nat := (0, 0, 0)
  out : Bool := true
deriving DecidableEq, Repr

/-- A drover descriptor in flight (R323): the pages it still waits for, each with the pieces of records that it serves as
(offset in the page, DPA, bytes), and whether anything came poisoned. -/
structure DrWork where
  core : Nat := 0
  ctx : Nat := 0
  k : Nat := 0
  pool : Nat := 0
  seg : Nat := 0
  waits : List (Nat × List (Nat × Nat × Nat)) := []
  poison : Bool := false
deriving DecidableEq, Repr

/-- A drover beyond its register fields (R312-R326): segments, catalog (region × 4 + slot), pools, reads in order, the turns of its
descriptors as (stack parity, descriptor), the one served last at the end (R326),
descriptors in flight, and the segment command in progress as (SEG_OP, segment): 10 for a WRITE that has copied nothing
yet. -/
structure Drover where
  segs : SMap Segment := []
  catalog : SMap (Option CatEntry) := []
  pools : SMap Pool := []
  reads : List BulkRead := []
  served : List (Nat × Nat × Nat × Nat) := []
  works : List DrWork := []
  nextPage : Nat := 0
  cmd : Option (Nat × Nat) := none
deriving DecidableEq, Repr

/-- A remote request without its final response (R400-R405): tag, peer, target partition, frame type, sender stream and
descriptor, DVA and 32-byte units, DSEQ, whether it was answered RETRY and waits to be reissued, whether it has not been sent yet since it collides
with an earlier one of its descriptor (R244), and its frame. -/
structure RemoteReq where
  tag : Nat := 0
  peer : Nat := 0
  type : Nat := 0
  core : Nat := 0
  ctx : Nat := 0
  q : Nat := 0
  k : Nat := 0
  dva : Nat := 0
  len : Nat := 0
  dseq : Nat := 0
  retry : Bool := false
  held : Bool := false
  frame : List Byte := []
deriving DecidableEq, Repr

/-- An Elviasyn port beyond its register fields (R387-R406): transmit queues by VC with the rest of the frame being sent,
the VC sent last and the frames since MGMT, the replay buffer and the point to replay from, the receiver's expected FSEQ and
NAK, the bytes of a frame not yet complete, received frames by VC, credits to return, requests outstanding, DATA frames
landed ahead of LANDED, the streams and waybills of failed frames, REACH, and the failed training attempts. -/
structure Port where
  tx : List (List (List Byte)) := [[], [], [], []]
  cur : List Byte := []
  lastVc : Nat := 3
  sinceMgmt : Nat := 7
  fseq : Nat := 0
  replay : List (Nat × List Byte) := []
  replayAt : Option Nat := none
  rxNext : Nat := 0
  nak : Bool := false
  rxBuf : List Byte := []
  rx : List (List (List Byte)) := [[], [], [], []]
  ret : List Nat := [0, 0, 0, 0]
  lastRet : Nat := 3
  out : List RemoteReq := []
  nextTag : Nat := 0
  landed : List Nat := []
  failed : List (Nat × Nat) := []
  reach : SMap Bool := []
  attempts : Nat := 0
  hello : Bool := false
deriving DecidableEq, Repr

/-- An address of the fabric (R409): state 0 ABSENT, 1 PRESENT, 2 CONFLICT, 3 SELF, and the DEV_ID held. -/
structure Member where
  st : Nat := 0
  id : Nat := 0
deriving DecidableEq, Repr

/-- A temperature sensor (R497, R498): its raw reading in 0.25 °C, whether it has been sampled since reset, its judgement, and
the consecutive samples that differed from the neighbours' median by more than 15 °C. -/
structure Sens where
  raw : Int := 0
  seen : Bool := false
  broken : Bool := false
  far : Nat := 0
deriving DecidableEq, Repr

/-- A recovery, commanded reset or re-admission of a partition in progress (R446, R450-R454, R462, R465): the source page and code,
the epoch, whether it waits for RESET_GO, is commanded, ends out of service with a cause, its scratchpads are sampled and which
channels are restored. -/
structure Recov where
  src : Nat := 0
  code : Nat := 0
  waitGo : Bool := false
  commanded : Bool := false
  oos : Option Nat := none
  sampled : Bool := false
  restored : List Nat := []
deriving DecidableEq, Repr

/-- An SPDM session (R472): its role, 0 OWNER, 1 OPERATOR, 2 ATTEST, and whether PSK_FINISH has completed it. -/
structure SpdmSess where
  role : Nat := 0
  finished : Bool := false
deriving DecidableEq, Repr

/-- A committed HDM decoder (R419, R421). -/
structure Hdm where
  base : Nat := 0
  size : Nat := 0
  ways : Nat := 1
  gran : Nat := 0
deriving DecidableEq, Repr

/-- A firmware update in progress (R514): the components declared, the one being transferred and whether its transfer is over, and
the verified ones. -/
structure FwUpdate where
  comps : List Nat := []
  cur : Option Nat := none
  xfer : Bool := false
  verified : List Nat := []
deriving DecidableEq, Repr

/-- The last DATA frame that a descriptor sent (R403, R406): its stream, absolute waybill, peer, port and DSEQ. -/
structure LastFrame where
  stream : Nat := 0
  wb : Nat := 0
  peer : Nat := 0
  port : Nat := 0
  dseq : Nat := 0
deriving DecidableEq, Repr

end Sys2Proof.Machine
end

