-- ==== Sys2Proof/Syntax.lean ====
section
/-!
DEFINITION. The commands the device takes, one constructor per row of the spec's table of operations and events. What
reaches the device from outside (data of a host write, a frame, a sensor reading, an entry read from host memory) is an
operand; which unit an event happens at is an operand too.
-/

namespace Sys2Proof

/-- A freeze cause that arrives at a channel (R349): its code, the failing place, and a decoder syndrome. -/
structure FreezeCause where
  chan : Nat
  cause : Nat
  bank : Nat
  row : Nat
  col : Nat
  syndrome : Nat
deriving DecidableEq, Repr

/-- A command or event. -/
inductive Instr where
  /-- R25: A host write to a register field that has no row of its own stores or ignores each field according to its
  access code. -/
  | regWrite (page off width value : Nat)
  /-- R25: A host read of an RC field returns its value and clears the field. -/
  | readClear (page off width : Nat)
  /-- R34: CTRL.SYNC completes once all work that the unit accepted before the write has completed. -/
  | sync (page : Nat)
  /-- R449: CTRL.FENCE makes the unit refuse new work and drain or error its outstanding work, according to its
  class. -/
  | fence (page : Nat)
  /-- R34: CTRL.UNFENCE lifts a fence, or completes at once with OK on a unit that is not fenced. -/
  | unfence (page : Nat)
  /-- R34: CTRL.RESET resets the unit and all its members; on a partition header it is a commanded reset, and on dev
  a device reset. -/
  | reset (page : Nat)
  /-- R13: A CTRL operation completes when every member has completed it, and reports the worst member status with
  OP_DONE. -/
  | ctrlOpComplete (page kind : Nat)
  /-- R38: Writing PAGE_LOCK.LOCKED makes the RWL fields of all the unit's pages, and of every group member,
  read-only. -/
  | pageLockSet (page : Nat)
  /-- R37: Writing IRQ_FORCE sets IRQ_STAT bits as if their causes had occurred. -/
  | irqForce (page mask : Nat)
  /-- R39: CFG_SET.ROLLBACK cancels any staged set and its CFG_ACTIVATE milestones, then returns the unit to its
  previous configuration set. -/
  | rollback (page : Nat)
  /-- R66: A write to a set field goes to the staging buffer; the first such write copies the active set there and
  sets STAGED. -/
  | cfgSetFieldWrite (page off width value : Nat)
  /-- R41: ARM stores the slot's EPOCH, ACTION and ARG, then arms the slot, or refuses it for an unaccepted action or
  an epoch out of bound. -/
  | milestoneArm (page slot : Nat) (epoch : Option Nat) (action arg : Nat)
  /-- R41: DISARM returns an ARMED milestone slot to IDLE and abandons its action. -/
  | milestoneDisarm (page slot : Nat)
  /-- R55: A host write of EPOCH_ADVANCE is accepted, refused or a no-op, moves EPOCH_NOW, and reevaluates
  milestones, EPOCH_WAIT and the floor warning. -/
  | epochAdvance (target : Nat)
  /-- R411: An arriving EPOCH frame is discarded as a duplicate or passed to the epoch unit, which treats it as an
  advance under SRC and PEER. -/
  | epochBroadcast (port : Nat)
  /-- R62: VCMD INSTALL writes a version slot with START and BASE, sets END_OPEN and closes the region's open slot. -/
  | install (region slot : Nat)
  /-- R62: VCMD CLOSE sets END on an OPEN version slot. -/
  | close (region slot : Nat)
  /-- R62: VCMD QUERY returns a version slot's state, GEN, START and END. -/
  | query (region slot : Nat)
  /-- R62: VCMD FREE returns a RETIRED version slot to FREE unless the drover still holds staged pages of it. -/
  | free (region slot : Nat)
  /-- R70: A host write of LDG_RPTR is kept only if it does not move backward; if it frees a slot of a full ring, a
  LOST record is written. -/
  | ldgRptrWrite (value : Nat)
  /-- R428: A write of the doorbell SQ_TAIL makes the device fetch submission entries up to the new tail, or is
  discarded and counted. -/
  | sqTail (sess value : Nat)
  /-- R428: A write of the doorbell CQ_HEAD frees completion-queue slots, or is discarded and counted if illegal. -/
  | cqHead (sess value : Nat)
  /-- R430: The device fetches the next submission entry once the completion queue has room for its completion
  record. -/
  | sqFetch (sess : Nat) (entry : List Byte) (poison : Bool)
  /-- R429: The NOP command completes at once. -/
  | sqNop (sess : Nat)
  /-- R154: The LOAD command queues a manifest load for the loader, or completes at once with LOADER_FULL. -/
  | sqLoad (sess : Nat)
  /-- R155: The loader takes the next load command, checks its body, then copies and verifies the image stage by
  stage up to PLACEMENT. -/
  | loaderDequeue (elapsedUs : Nat)
  /-- R124: Once every reserved program-memory slot is free, the loader writes the slots in parallel. -/
  | loadSlots
  /-- R156: When every slot has been written, the target slots become READY together, and the report and the
  completion with a LOAD_ID are written. -/
  | loadComplete (elapsedUs : Nat)
  /-- R126: LOAD_WAIT expires with a reserved slot still busy; the load is rejected with SLOT_BUSY and its
  reservations are released. -/
  | loadWaitExpire (elapsedUs : Nat)
  /-- R167: The LOAD_QUERY command writes the program-memory state record of one core. -/
  | loadQuery (sess : Nat)
  /-- R436: The RUN command checks the run block, slot, placement, grants, capabilities and regions, then places
  every context in BINDING, or refuses the run. -/
  | run (sess : Nat)
  /-- R437: The ABORT command halts every run of the session whose CMD_TAG matches, or completes at once with DETAIL
  = 1. -/
  | abort (sess : Nat)
  /-- R120: When every stream's END has completed, or a halted context has drained, the context returns to FREE and
  the run completion is written. -/
  | runComplete (run : Nat)
  /-- R425: SESS_OP OPEN opens a FREE session with its rings, or returns BAD_STATE or BAD_ARG. -/
  | sessOpen (sess : Nat)
  /-- R425: SESS_OP CLOSE stops the doorbells, fails queued loads and aborts the session's runs. -/
  | sessClose (sess : Nat)
  /-- R424: A CLOSING session returns to FREE once its runs have ended and its last record is written. -/
  | sessionClosed (sess : Nat)
  /-- R441: A doorbell FENCE_REQ write starts a memory fence over all earlier CXL.mem and memory BAR writes. -/
  | fenceReq (sess token : Nat)
  /-- R441: A memory fence completes once its writes are accepted at their coherent points, and FENCE_DONE reads its
  token. -/
  | memFenceDone (sess : Nat)
  /-- R443: A doorbell HSIG write with bit 0 = 0 sets a device Serai flag as a HOP operation. -/
  | hsigSet (sess idx : Nat)
  /-- R443: A doorbell HSIG write with bit 0 = 1 clears a device Serai flag as a HOP operation. -/
  | hsigClear (sess idx : Nat)
  /-- R110: A queue's sequencer copies the next descriptor from program memory into the idle layer register set. -/
  | descLoad (core ctx q : Nat)
  /-- R110: A loaded descriptor whose waits are met and whose ranges the scoreboard admits becomes active and starts. -/
  | descStart (core ctx q : Nat)
  /-- R111: A descriptor completes in stream order, publishes its waybill, writes its record and halts the context on
  FAULT or ABORTED. -/
  | descComplete (core ctx q cycles : Nat)
  /-- R109: The NOP descriptor completes when its waits are met. -/
  | nop (core ctx q : Nat)
  /-- R109: The WAIT descriptor completes when all ten of its waits are met. -/
  | wait (core ctx q : Nat)
  /-- R117: A BARRIER descriptor arrives at its cross-queue barrier pass; the last arrival completes every
  participant. -/
  | barrier (core ctx q : Nat)
  /-- R109: The END descriptor completes once its waits are met and every earlier descriptor of its queue has
  completed. -/
  | endDesc (core ctx q : Nat)
  /-- R109: The CTX_BIND descriptor binds the context's snapshot, or ends the run with BIND_REFUSED. -/
  | ctxBind (core ctx : Nat)
  /-- R109: The EPOCH_WAIT descriptor completes when TARGET is at or before EPOCH_NOW, waits, or faults with
  BAD_EPOCH. -/
  | epochWait (core ctx : Nat)
  /-- R130: FLAG_OP SET sets a Serai flag. -/
  | flagSet (core ctx : Nat)
  /-- R130: FLAG_OP CLEAR clears a Serai flag. -/
  | flagClear (core ctx : Nat)
  /-- R130: FLAG_OP TOGGLE inverts a Serai flag. -/
  | flagToggle (core ctx : Nat)
  /-- R130: FLAG_WAIT completes when the flag holds the awaited value, clearing it if it consumes. -/
  | flagWait (core ctx : Nat)
  /-- R131: CTR_OP ADD adds a signed delta to a counter modulo 2^32, with an optional return of the old value. -/
  | ctrAdd (core ctx : Nat)
  /-- R131: CTR_OP SET writes a counter value, with an optional return of the old value. -/
  | ctrSet (core ctx : Nat)
  /-- R131: CTR_WAIT completes when the counter meets AT_OR_AFTER, EQ or NE against TARGET. -/
  | ctrWait (core ctx : Nat)
  /-- R134: BAR_INIT opens a barrier with N and its muster counters, or faults with BAR_BUSY. -/
  | barInit (core ctx : Nat)
  /-- R135: BAR_ARRIVE counts an arrival, completing the generation at N, or faults with BAR_UNINIT. -/
  | barArrive (core ctx : Nat)
  /-- R135: BAR_WAIT completes when the generation recorded by its split arrival has completed. -/
  | barWait (core ctx : Nat)
  /-- R406: REMOTE_SIGNAL passes a SIGNAL frame to the Elviasyn port, with its data wait when a data word is present. -/
  | remoteSignal (core ctx : Nat)
  /-- R442: HOST_NOTIFY writes a value and count to a host flag, and raises the session vector if enabled. -/
  | hostNotify (core ctx : Nat)
  /-- R151: HOP_OP READ returns a Serai object's value into HOP_RESULT. -/
  | hopRead (sy kind idx : Nat)
  /-- R143: The host sets a flag through HOP_GO, subject to the window and precedence checks. -/
  | hopFlagSet (sy kind idx : Nat)
  /-- R143: The host clears a flag through HOP_GO. -/
  | hopFlagClear (sy kind idx : Nat)
  /-- R143: The host adds to a counter through HOP_GO. -/
  | hopCtrAdd (sy kind idx : Nat)
  /-- R143: The host sets a counter through HOP_GO. -/
  | hopCtrSet (sy kind idx : Nat)
  /-- R143: The host initialises a barrier through HOP_GO. -/
  | hopBarInit (sy kind idx : Nat)
  /-- R143: The host makes a barrier arrival through HOP_GO, counted like a descriptor's. -/
  | hopBarArrive (sy kind idx : Nat)
  /-- R147: At debug level intervene, DBG_RELEASE completes a barrier's current generation without a muster step. -/
  | dbgRelease (sy kind idx : Nat)
  /-- R147: At debug level intervene, DBG_WITHDRAW lowers a barrier's COUNT by 1. -/
  | dbgWithdraw (sy kind idx : Nat)
  /-- R144: A held remote signal is applied once its named waybill has landed and no earlier signal of its stream is
  held. -/
  | heldSignalApply (sy pos : Nat)
  /-- R149: A blocked context's progress timer reaches WDOG_TIMEOUT; HANG records are written and the context is
  reported or halted. -/
  | wdogFire (core ctx : Nat)
  /-- R172: The MATMUL descriptor multiplies A by B with FP32 or INT32 accumulation and drains to C. -/
  | matmul (core ctx : Nat)
  /-- R185: VX_MAP applies a chain of up to six micro-operations to each element. -/
  | vxMap (core ctx : Nat)
  /-- R187: VX_REDUCE reduces each row in the fixed order. -/
  | vxReduce (core ctx : Nat)
  /-- R188: VX_SOFTMAX computes a masked, optionally causal, softmax or log-softmax per row. -/
  | vxSoftmax (core ctx : Nat)
  /-- R189: VX_NORM computes layer or RMS normalization per row. -/
  | vxNorm (core ctx : Nat)
  /-- R190: VX_SORT sorts each row stably with a bitonic network. -/
  | vxSort (core ctx : Nat)
  /-- R191: VX_TOPK writes the K largest or smallest elements of each row with their indices or ids. -/
  | vxTopk (core ctx : Nat)
  /-- R193: VX_SAMPLE draws one token per row under TEMP, TOP_K and TOP_P with Philox randomness. -/
  | vxSample (core ctx : Nat)
  /-- R194: VX_CONVERT converts, encodes or decodes formats elementwise. -/
  | vxConvert (core ctx : Nat)
  /-- R192: VX_SELECT writes the indices of elements that meet COND and the total match count. -/
  | vxSelect (core ctx : Nat)
  /-- R212: A descriptor refused for 256 consecutive cycles places a scoreboard claim. -/
  | sbClaim (core ctx q : Nat)
  /-- R209: A scoreboard entry is released when its last read or write is done; release of the last WRITE entry is
  the visibility event. -/
  | sbRelease (core ctx q k entry : Nat)
  /-- R204: A dirty narrow buffer idle for 64 cycles writes itself back in the next free line slot. -/
  | narrowWriteback (core line : Nat)
  /-- R214: A host access to a scratchpad debug window reads or writes whole words through the narrow view, counting
  DBG_HAZARD, or is denied. -/
  | debugWindowAccess (dpa len : Nat) (write : Bool) (data : List Byte) (poison : Bool)
  /-- R366: A pending POISON mark is written into an uncorrectable scratchpad word in the next idle line slot. -/
  | spadPoisonMark (core : Nat)
  /-- R222: The LOAD descriptor moves memory units into the scratchpad with clamp, pad and optional transposition. -/
  | load (core ctx : Nat)
  /-- R222: The STORE descriptor moves scratchpad units to memory, dropping units out of extent. -/
  | store (core ctx : Nat)
  /-- R228: The GATHER descriptor reads one indexed slice per index into the scratchpad. -/
  | gather (core ctx : Nat)
  /-- R231: The SCATTER descriptor writes or adds indexed slices into memory, resolving collisions. -/
  | scatter (core ctx : Nat)
  /-- R244: A memory request answered RETRY is reissued every 2 µs until it is accepted or its target goes out of
  service. -/
  | retryReissue (core ctx q : Nat)
  /-- R277: The BK_MVS descriptor runs matrix-vector strips on a stack's bank units. -/
  | bkMvs (core ctx : Nat)
  /-- R277: The BK_DOT descriptor runs dot products on a stack's bank units. -/
  | bkDot (core ctx : Nat)
  /-- R278: The BK_GRED descriptor runs gather-reduce on a stack's bank units. -/
  | bkGred (core ctx : Nat)
  /-- R277: The BK_PQSCAN descriptor runs a masked PQ4 scan on a stack's bank units. -/
  | bkPqscan (core ctx : Nat)
  /-- R304: The BK_ROWOP descriptor runs a ROWLIST of row operations on bitmap-block banks. -/
  | bkRowop (core ctx : Nat)
  /-- R277: A bank-command descriptor's reservation of operand buffer and channel queue entries is granted when it
  fits. -/
  | bkReservation (core ctx k : Nat)
  /-- R277: The register operand upload into the controller's operand buffer completes. -/
  | bkUploadDone (core ctx k : Nat)
  /-- R277: When a gang's banks are IDLE, the channel engine writes GANG, CBL, the control word, the first chunks and
  the command by broadcast. -/
  | gangCommand (core ctx k chan : Nat)
  /-- R252: A channel begins harness entry with a precharge-all and an HMR write. -/
  | harnessEntry (stack chan : Nat)
  /-- R252: tMOD is met and the channel's harness mode becomes ON. -/
  | harnessOn (stack chan : Nat)
  /-- R253: After HM_IDLE_US of idleness with HM_REQ clear, the channel begins harness exit. -/
  | harnessExit (stack chan : Nat)
  /-- R253: Harness exit completes and the channel is OFF. -/
  | harnessOff (stack chan : Nat)
  /-- R252: Setting an HM_REQ bit starts harness entry of that channel; clearing it allows exit. -/
  | hmReqWrite (stack mask : Nat)
  /-- R256: A special-column write loads bank-unit register V0–V7, unicast or broadcast. -/
  | vRegisterWrite (dpa : Nat) (data : List Byte)
  /-- R256: A special-column write loads the bank-unit control word. -/
  | cwWrite (dpa : Nat) (data : List Byte)
  /-- R256: A special-column write loads the CB2 codebook latch. -/
  | cblWrite (dpa : Nat) (data : List Byte)
  /-- R256: A read of FIFO_POP returns and removes up to four candidate entries. -/
  | fifoPop (dpa : Nat)
  /-- R264: Command CLEAR zeroes A0, A1 and the count, and empties the FIFO. -/
  | clear (dpa flags tag : Nat)
  /-- R260: Command MVS starts a matrix-vector strip sequence on a bank unit. -/
  | mvs (dpa flags tag : Nat)
  /-- R261: Command DOT starts a dot-product sequence on a bank unit. -/
  | dot (dpa flags tag : Nat)
  /-- R262: Command GRED starts a gather-reduce sequence on a bank unit. -/
  | gred (dpa flags tag : Nat)
  /-- R263: Command PQSCAN starts a PQ4 scan sequence on a bank unit. -/
  | pqscan (dpa flags tag : Nat)
  /-- R264: Command COPY_OUT writes the accumulators to the bank at OUT_START. -/
  | copyOut (dpa flags tag : Nat)
  /-- R302: Command ROWLIST starts a list of row operations on a bitmap block. -/
  | rowlist (dpa flags tag : Nat)
  /-- R295: Command VET checks one source row's columns and CRC. -/
  | vet (dpa flags tag : Nat)
  /-- R296: Command BURNISH reseals one row's check bits and writes its CRC entry. -/
  | burnish (dpa flags tag : Nat)
  /-- R302: The next atomic piece of a ROWLIST entry runs, its VETs and operation or its SEAL, if it fits the current
  leg. -/
  | rowlistPiece (stack chan bank parts : Nat)
  /-- R267: A leg ends after 512 column-step times; the gang enters GAP. -/
  | legEnd (stack chan bank items steps : Nat)
  /-- R338: After serving the gap's accesses, refresh and BU_GAP, the channel engine resumes the gang, beginning the
  next leg. -/
  | gangResume (stack chan bank gapNs : Nat)
  /-- R266: A waiting gang resumes when its collector slot, FIFO or stream chunk becomes available. -/
  | gangWaitEnd (stack chan bank waitSteps : Nat)
  /-- R269: A sequence takes its last column step, reports COMPLETED and updates the result shadow. -/
  | seqLastStep (stack chan bank steps : Nat)
  /-- R269: Every emitted record has left the slot and the bank unit returns to IDLE. -/
  | seqDrained (stack chan bank : Nat)
  /-- R273: A collector slot that holds a credit sends its record toward the bank-command engine. -/
  | collectorSend (stack chan bank : Nat)
  /-- R273: The bank-command engine writes a record at its reserved offset and returns the credit. -/
  | recordWrite (core ctx k chan bank : Nat)
  /-- R270: A host abort through the BKU page aborts the selected bank units' sequences, or reports NOTHING_TO_ABORT. -/
  | abGo (stack : Nat)
  /-- R288: A write of LIN_MAP changes block kinds once earlier accesses complete, or is discarded as BUSY or
  BAD_COMBINATION. -/
  | linMapWrite (stack half value : Nat)
  /-- R288: A write of BMP_MAP marks bitmap blocks, or is discarded as BUSY or BAD_COMBINATION. -/
  | bmpMapWrite (stack half value : Nat)
  /-- R313: SEG_OP CREATE creates a WRITING segment with its size, REC_BYTES and optional base. -/
  | segCreate (dr : Nat)
  /-- R314: SEG_OP WRITE copies pages from PIM DRAM into a WRITING segment. -/
  | segWrite (dr : Nat)
  /-- R312: SEG_OP SEAL makes a WRITING segment SEALED and durable. -/
  | segSeal (dr : Nat)
  /-- R315: SEG_OP DELETE begins deleting an unreferenced segment. -/
  | segDelete (dr : Nat)
  /-- R329: SEG_OP QUERY returns a segment's state, record size and pages. -/
  | segQuery (dr : Nat)
  /-- R316: SEG_OP BIND binds a catalog entry to a SEALED segment. -/
  | segBind (dr : Nat)
  /-- R315: SEG_OP UNBIND unbinds a catalog entry, or is refused IN_USE. -/
  | segUnbind (dr : Nat)
  /-- R312: A segment command that took time completes: WRITE copied, SEAL durable, or DELETE's pages released. -/
  | segDone (dr : Nat)
  /-- R322: A POOL_EN write enables a pool or starts disabling it. -/
  | poolEnWrite (dr pool value : Nat)
  /-- R322: Once the pool's fetches in flight have landed, the pool is disabled and its frames and pins are dropped. -/
  | poolDisabled (dr pool : Nat)
  /-- R323: The DR_FETCH descriptor copies indexed bulk records into DRAM via pool hits or bulk reads. -/
  | drFetch (core ctx : Nat)
  /-- R323: The DR_PROMOTE descriptor makes pages resident in a pool, optionally pinned. -/
  | drPromote (core ctx : Nat)
  /-- R323: The DR_UNPIN descriptor drops the context's pins in a pool. -/
  | drUnpin (core ctx : Nat)
  /-- R310: A bulk page read completes after decode, retries or rebuild, and fills its frame or destination, poisoned
  if it failed. -/
  | bulkPageLand (stack pos attempts : Nat) (poisoned : Bool)
  /-- R328: The stack's patrol reads pages and relocates those that need two or more retries. -/
  | bulkPatrol (stack relocated : Nat)
  /-- R519: The host names a bulk die for retirement. -/
  | retGo
  /-- R519: A bulk die is retired after failing or exceeding its rebuild limit; its pages are relocated. -/
  | dieRetire (stack die : Nat)
  /-- R335: A read request enters a channel's read queue and is served, waiting for a leg boundary if its bank is in
  a gang. -/
  | memReadRequest (dpa len port : Nat)
  /-- R335: A write enters the write queue or a merge entry and is accepted at the coherent point, waiting if there
  is no room. -/
  | memWriteRequest (dpa : Nat) (data : List Byte) (port : Nat) (poison : Bool)
  /-- R370: The channel reads a partially written column, merges the bytes and writes it back. -/
  | partialMerge (stack chan : Nat)
  /-- R341: A tREFI interval elapses and the channel's refresh credit rises by one. -/
  | refreshInterval (stack chan expired : Nat)
  /-- R340: The channel issues REFab or REFpb, lowering its refresh credit. -/
  | refresh (stack chan : Nat) (bank : Option Nat)
  /-- R348: A channel's recalibration falls due after RECAL_MS. -/
  | recalDue (stack chan : Nat)
  /-- R348: A recalibration postponed for 1 ms is forced like a refresh. -/
  | recalForced (stack chan : Nat)
  /-- R348: A 500 ns recalibration completes. -/
  | recalDone (stack chan : Nat)
  /-- R345: Every 16 ns each port's tollgate gains RATE × 16 bytes, up to BURST. -/
  | tollgateRefill (stack : Nat)
  /-- R344: A request's age crosses an urgency threshold of its port; urgency 3 counts LAT_MISS. -/
  | requestUrgency (stack chan : Nat) (write : Bool) (pos age : Nat)
  /-- R349: The stack reports a command-address parity error and the channel freezes. -/
  | caParity (stack chan bank row col : Nat)
  /-- R349: A write fails its link CRC on four successive retries and the channel freezes. -/
  | wcrcExhausted (stack chan bank row col : Nat)
  /-- R349: At debug level intervene, FRZ_FORCE freezes the channel with cause FORCED. -/
  | frzForce (stack mask : Nat)
  /-- R352: The host releases a frozen channel; the POISON mark is written first, then the held requests are served. -/
  | frzRelease (stack mask : Nat) (again : List FreezeCause)
  /-- R352: FRZ_AUTO_US after a freeze, the channel is released unless a freeze storm holds it. -/
  | freezeAutoRelease (stack chan : Nat) (again : Option FreezeCause)
  /-- R372: The patrol scrubber reads the next 64-byte pair and writes back corrected columns. -/
  | scrubRead (stack chan : Nat)
  /-- R372: A scrub read that has waited 64 µs is promoted into request scheduling. -/
  | scrubAgeLimit (stack chan : Nat)
  /-- R373: A scrub write-back enters the write queue, or is dropped after an intervening ordinary write. -/
  | scrubWriteback (stack chan : Nat)
  /-- R376: The host queues a row repair. -/
  | repairGo
  /-- R377: When no sequence is queued or running on the channel, the row is remapped to its subarray's spare. -/
  | rowRepair (stack chan : Nat)
  /-- R377: A repair that has waited 100 ms makes the channel admit no new sequence until it runs. -/
  | repairWaitExpire (stack chan : Nat)
  /-- R378: A source's corrected-error window of CE_WINDOW_S closes. -/
  | ceWindowExpire (page : Nat)
  /-- R381: TEST_MODE OFF ends check-bit testing and serves the held requests. -/
  | testModeOff
  /-- R381: TEST_MODE DATA_ONLY makes writes store data and keep the check segment. -/
  | dataOnly
  /-- R381: TEST_MODE CHK_ONLY makes writes store TEST_CHK as the check segment. -/
  | chkOnly
  /-- R381: TEST_MODE RAW_READ makes reads return uncorrected data and latch RAW_CHK and RAW_SYN. -/
  | rawRead
  /-- R387: Setting PORT_EN starts port training; clearing it takes the port OFF. -/
  | portEnWrite (port value : Nat)
  /-- R390: Writing RETRAIN starts a full training of the port. -/
  | retrain (port : Nat)
  /-- R387: A training attempt not ended in 50 ms is repeated, or after three failures the port goes DOWN. -/
  | trainAttemptTimeout (port : Nat)
  /-- R387: Training completes; the port is UP or DEGRADED and its credits are initialised. -/
  | portUp (port lanes rtt : Nat)
  /-- R389: An FEC threshold or replay stall starts a 2 ms fast retrain. -/
  | fastRetrain (port : Nat)
  /-- R389: A fast retrain ends and frames resume, or it fails into full training. -/
  | fastRetrainDone (port : Nat) (ok : Bool)
  /-- R390: A port loses its flit stream, fails its outstanding requests UNREACHABLE and orphans held signals. -/
  | portDown (port cause : Nat)
  /-- R393: A flit arrives; a bad flit is discarded with a NAK, and a good one delivers frames, acknowledgements and
  credits. -/
  | flitReceive (port : Nat) (flit : List Byte) (corrected : Nat) (uncorrectable : Bool)
  /-- R400: A peer RD_REQ frame is translated and served with an RD_RESP. -/
  | rdReq (port : Nat)
  /-- R400: A peer WR frame is translated and written, and answered with a WR_ACK. -/
  | wr (port : Nat)
  /-- R400: A peer ACC frame adds elements atomically per column and is answered with an ACC_ACK. -/
  | acc (port : Nat)
  /-- R402: A read response completes its request, or triggers a retry or a REMOTE fault. -/
  | rdResp (port : Nat)
  /-- R402: A write acknowledgement completes its remote write, or triggers a retry or a REMOTE fault. -/
  | wrAck (port : Nat)
  /-- R402: An accumulate acknowledgement completes its remote addition, or triggers a retry or a REMOTE fault. -/
  | accAck (port : Nat)
  /-- R144: An arriving SIGNAL frame is held or applied by the receiving Serai, or discarded outside the remote
  windows. -/
  | signal (port : Nat)
  /-- R402: A remote request without a response for RESP_TIMEOUT_US completes UNREACHABLE. -/
  | remoteTimeout (port tag : Nat)
  /-- R387: An arriving HELLO frame exchanges address, identity, partner kind and RTT during training. -/
  | hello (port : Nat)
  /-- R408: An arriving JOIN frame sets REACH and admits the address, answered with PRESENT within 10 µs. -/
  | join (port : Nat)
  /-- R408: An arriving PRESENT frame sets REACH and keeps the address PRESENT, or marks a CONFLICT. -/
  | present (port : Nat)
  /-- R408: An arriving LEAVE frame clears REACH for its sender. -/
  | leave (port : Nat)
  /-- R408: Every PRESENT_US the device broadcasts PRESENT on every working port. -/
  | presentTimer
  /-- R408: DEAD_COUNT × PRESENT_US pass without JOIN or PRESENT from an address, and its REACH bit clears. -/
  | reachTimeout (port addr : Nat)
  /-- R408: Writing MBR_LEAVE broadcasts LEAVE and stops PRESENT. -/
  | mbrLeave
  /-- R409: Writing SELF_ADDR assigns the device's own address. -/
  | selfAddrWrite (port value : Nat)
  /-- R409: MBR_CLEAR returns a CONFLICT address to ABSENT. -/
  | mbrClear (port : Nat)
  /-- R386: PREPARE starts a prepared cartridge removal, or is refused with DARKEN unless FORCE is set. -/
  | prepare (bay : Nat)
  /-- R385: Every fed engine draws full light from its other feed; the bay is SAFE with its lasers off. -/
  | prepareDone (bay : Nat)
  /-- R385: CANCEL takes a SAFE bay back to LOCKING. -/
  | cancel (bay : Nat)
  /-- R385: A cartridge is inserted and latched with BAY_EN = 1, and starts WARMING. -/
  | cartInsert (bay id hours : Nat)
  /-- R384: A cartridge is withdrawn or unlatched; a surprise removal raises the other feeds within 50 µs. -/
  | cartRemove (bay : Nat)
  /-- R385: The cartridge case reaches 10 °C and LOCKING begins. -/
  | warmingDone (bay : Nat)
  /-- R385: All four wavelengths are on grid and at power; the cartridge is ACTIVE. -/
  | lockDone (bay : Nat)
  /-- R385: LOCKING is not done within 2 s and the cartridge enters FAULT. -/
  | lockTimeout (bay : Nat)
  /-- R385: A cartridge overheats, loses lock or power and enters FAULT with its lasers off. -/
  | cartFault (bay cause : Nat)
  /-- R420: A host link trains, as CXL or as PCIe only. -/
  | linkUp (link : Nat) (cxl : Bool) (width : Nat)
  /-- R421: A host link is lost; the device continues on the other link and sets IRQ_STAT.LINK. -/
  | linkDown (link : Nat)
  /-- R510: The host deasserts PERST# and the host link trains once the PHY is enabled. -/
  | perstDeassert (link : Nat)
  /-- R421: An HDM decoder commits, or reports a commit error on a mismatch between the functions. -/
  | hdmCommit (link base size ways gran : Nat)
  /-- R439: A host CXL.mem read of PIM DRAM is served, with data poison where a column is poisoned. -/
  | cxlMemRead (link dpa : Nat) (keeps : Bool)
  /-- R439: A host CXL.mem write is accepted, marking POISON columns if it carries poison. -/
  | cxlMemWrite (link dpa : Nat) (data : List Byte) (poison keeps : Bool)
  /-- R438: An uncached memory BAR read is served once, or completes with Unsupported Request for a reserved range. -/
  | membarRead (dpa len : Nat)
  /-- R438: An uncached memory BAR write is served once, or discarded and logged for a reserved range. -/
  | membarWrite (dpa : Nat) (data : List Byte) (poison : Bool)
  /-- R419: An H2D snoop is answered RspI. -/
  | cxlSnoop (link : Nat)
  /-- R446: A severity-2 fault in a partition records LAST_SRC and starts its recovery, or only fences it, or joins a
  recovery in progress. -/
  | partitionFatal (page code detail : Nat)
  /-- R445: A bulk stack controller fails and the stack goes OFFLINE without a partition reset. -/
  | bulkFatal (stack code detail : Nat)
  /-- R445: An Elviasyn port's logic fails and the port goes DOWN without a partition reset. -/
  | portFatal (port code detail : Nat)
  /-- R446: The host starts a recovery of the partition. -/
  | resetGo (n : Nat)
  /-- R450: FENCING ends when all started descriptors complete or DRAIN_NS elapses; journals await replay and
  RESETTING begins. -/
  | drainEnd (n : Nat)
  /-- R453: Scratchpad sampling of the resetting partition completes. -/
  | scratchpadSamplingDone (n : Nat)
  /-- R454: A channel's restored training passes its check, or the partition goes out of service. -/
  | channelRestoreDone (stack chan : Nat) (pass : Bool)
  /-- R452: Channels and Serai are restored, RESETTING ends and REPLAYING begins. -/
  | partResetDone (n : Nat)
  /-- R458: An awaiting context is restarted from its journal, or ended NOT_REPLAYABLE. -/
  | ctxReplayed (core ctx : Nat)
  /-- R521: Writing READMIT starts the re-admission of an out-of-service partition. -/
  | readmit (n : Nat)
  /-- R521: Re-admission ends with the partition IN_SERVICE, or OUT_OF_SERVICE again. -/
  | readmitDone (n : Nat) (selfTest : Bool) (failChans : List Nat)
  /-- R463: A single spine fault is masked on the good copy or comparator, and resync starts. -/
  | spineSingleFault (comparator : Bool) (cycle : Nat)
  /-- R463: The faulty spine copy is resynchronised and lockstep resumes. -/
  | spineResyncDone
  /-- R464: An uncorrectable spine storage error ends a journal's run or is DEVICE_FATAL. -/
  | spineStorageError (journal : Option Nat)
  /-- R467: A device reset resets the spine and all partitions and restarts bring-up at 120 ms. -/
  | deviceReset
  /-- R472: The SPDM GET_VERSION request is answered. -/
  | getVersion
  /-- R472: The SPDM GET_CAPABILITIES request is answered. -/
  | getCapabilities
  /-- R472: The SPDM NEGOTIATE_ALGORITHMS request is answered. -/
  | negotiateAlgorithms
  /-- R472: The SPDM PSK_EXCHANGE request begins a session for the hinted role, or is refused. -/
  | pskExchange (hint : Nat)
  /-- R472: The SPDM PSK_FINISH request completes a session, or counts a failure toward the lockout. -/
  | pskFinish (sess : Nat) (ok : Bool)
  /-- R472: The SPDM KEY_UPDATE request updates session keys. -/
  | keyUpdate (sess : Nat)
  /-- R472: The SPDM HEARTBEAT request keeps a session alive. -/
  | heartbeat (sess : Nat)
  /-- R472: A session's heartbeat lapses and the session ends. -/
  | heartbeatLapse (sess : Nat)
  /-- R472: The 60 s refusal of PSK_EXCHANGE for a role ends. -/
  | pskLockoutEnd (role : Nat)
  /-- R472: The SPDM END_SESSION request ends a session. -/
  | endSession (sess : Nat)
  /-- R474: The SPDM GET_MEASUREMENTS request returns the measurement blocks inside a session. -/
  | getMeasurements (sess index : Nat)
  /-- R472: An unsupported SPDM request is answered ERROR UnsupportedRequest. -/
  | spdmUnsupported
  /-- R470: The vendor command KEY_SET writes a manifest key slot, after any AUTH using that slot has ended. -/
  | keySet (sess slot : Nat) (key : List Byte)
  /-- R470: The vendor command KEY_CLEAR empties a manifest key slot. -/
  | keyClear (sess slot : Nat)
  /-- R473: The vendor command PSK_SET sets the OWNER, OPERATOR or ATTEST pre-shared key. -/
  | pskSet (sess which : Nat) (key : List Byte)
  /-- R476: The vendor command DBG_SET changes the debug level at once. -/
  | dbgSet (sess level : Nat)
  /-- R469: The vendor command LC_ADVANCE moves the life cycle forward, erases per its transition, ends sessions and
  resets the device. -/
  | lcAdvance (sess target devid : Nat)
  /-- R473: The vendor command PART_OOS takes a partition out of service with cause 2. -/
  | spdmPartOos (sess n : Nat)
  /-- R480: The vendor command PSTATE requests a power state, including P4. -/
  | spdmPstate (sess target : Nat)
  /-- R477: At debug level intervene, UNLOCK_ALL clears PAGE_LOCK.LOCKED on every in-service unit; otherwise it is
  denied. -/
  | unlockAll
  /-- R480: PS_GO requests PSTATE_REQ, or completes BUSY if work is active. -/
  | psGo
  /-- R480: PCIe D3hot on both functions requests P3. -/
  | d3hot (link : Nat)
  /-- R480: PCIe D0 on either function requests P0. -/
  | d0 (link : Nat)
  /-- R478: A power-state transition completes, including exit to P0 after its exit time. -/
  | pstateDone
  /-- R486: PWR PART_OOS with OOS_EN = 1 takes a partition out of service with cause 2. -/
  | pwrPartOos (n : Nat)
  /-- R487: Input below 42 V for 1 ms raises SUPPLY_STEP to 15. -/
  | supplyUndervoltage
  /-- R487: Input at or above 43 V for 10 ms releases SUPPLY_STEP. -/
  | supplyRecovered (mv : Nat)
  /-- R487: Input below 38 V takes the thermal-shutdown path. -/
  | supplyCollapse
  /-- R487: Input above 60 V opens the input switch and the module loses power. -/
  | overvoltage
  /-- R491: Input current above 80 A divides every non-resetting partition's core clock to at most 0.6 GHz within 5
  µs. -/
  | fastClamp
  /-- R491: Current at most 76 A with EFF_STEP moved once releases the clamp. -/
  | fastClampRelease
  /-- R488: A rail outside ±5 % for 100 µs is DEVICE_FATAL. -/
  | railFault
  /-- R490: A host write of HOST_STEP changes TARGET_STEP. -/
  | hostStepWrite (value : Nat)
  /-- R490: EFF_STEP moves one step toward TARGET_STEP once 10 ms have passed since its last move. -/
  | stepMove
  /-- R491: Every 1 ms PWR compares input with the limit and lowers or raises one setting. -/
  | powerEnforce (inputW mv ca : Nat) (subs : List Nat) (energy : Nat)
  /-- R493: Input stays above the limit for 100 ms at the lowest settings, and LIMIT_UNMET is set. -/
  | limitUnmet
  /-- R495: A partition's idle PLL relocks and the partition switches to it at a cycle boundary. -/
  | pllRelockDone (n : Nat)
  /-- R497: Every 1 ms every sensor is sampled, judged and acted on against its part's limits. -/
  | sensorSample (raws : List Int)
  /-- R502: A thermal or stack hold lasting 1 s becomes a thermal shutdown. -/
  | holdTimeout
  /-- R501: THERM_STEP rises by one every 10 ms while any part is at or above its throttle threshold. -/
  | thermStepRaise
  /-- R501: THERM_STEP falls by one every 100 ms while every part is 5 °C below its threshold. -/
  | thermStepLower
  /-- R498: SENS_CLEAR returns the selected sensor to OK to be judged again. -/
  | sensClear
  /-- R496: A reference clock is lost: its host link goes down, or a TCXO loss is DEVICE_FATAL. -/
  | refLoss (which : Nat)
  /-- R509: Input reaches 42 V and bring-up runs through its stages and self-tests. -/
  | powerOn (rail spine : Bool) (fwBad : Nat) (failParts failBulk failChans failRows : List Nat)
  /-- R509: The last bulk stack mounts and BOOT_STAGE becomes READY. -/
  | bootReady
  /-- R529: PWR_DIS held high for 1 ms turns off every rail. -/
  | pwrDisAssert
  /-- R529: PWR_DIS falls and bring-up starts from t = 0. -/
  | pwrDisDeassert
  /-- R526: PRESENT breaks first and the input switch opens, as a loss of power. -/
  | moduleWithdraw
  /-- R514: The PLDM RequestUpdate command enters update mode, or answers ALREADY_IN_UPDATE_MODE. -/
  | requestUpdate (sess : Option Nat)
  /-- R514: The PLDM PassComponentTable command declares the components to update. -/
  | passComponentTable (comps : List Nat)
  /-- R514: The PLDM UpdateComponent command writes a component's inactive bank and discards the previous set of
  sp0.mgt. -/
  | updateComponent (comp : Nat)
  /-- R514: The PLDM TransferComplete command ends an image transfer. -/
  | transferComplete
  /-- R514: The PLDM VerifyComplete command verifies the image, marking the bank empty on failure. -/
  | verifyComplete (ok : Bool) (version : Nat)
  /-- R515: The PLDM ActivateFirmware command stages the bank selectors and activates them at once if self-contained. -/
  | activateFirmware (selfContained : Bool)
  /-- R513: A component starts running its newly selected bank when its switching condition holds. -/
  | fwSwitch (comp unit : Nat)
  /-- R513: After 100 ms of waiting for microcode switching, new reservations on the channel wait for the switch. -/
  | fwSwitchWaitExpire (stack chan : Nat)
  /-- R522: PLDM state effecter 1 requests a power state, as PSTATE. -/
  | pldmPowerEffecter (sess : Option Nat) (target : Nat)
  /-- R522: PLDM state effecter 2 takes a partition out of service, as PART_OOS. -/
  | pldmOosEffecter (sess : Option Nat) (n : Nat)
  /-- R522: A PLDM numeric sensor read returns a temperature or INPUT_W. -/
  | pldmSensorRead (sess : Option Nat) (idx : Nat)
  /-- R374: In a line slot that no requester claims, the scratchpad scrubber reads one line, corrects each
  correctable word and writes it back. -/
  | scratchpadScrub (core : Nat)
  /-- R465: A partition's escalation window of ESC_WINDOW_S seconds closes, so that the next recovery opens a new
  count. -/
  | escWindowExpire (n : Nat)
  /-- R431: The host's GO for a device WrCur arrives, after which the tail shadow, host flags and session vector may
  follow and HOST_NOTIFY completes. -/
  | go (sess : Nat)
  /-- R439: The host answers a back-invalidation, and the waiting device access enters its controller queue or the
  snoop-filter entry is freed. -/
  | backInvalidateDone (line : Nat)
  /-- R336: The channel engine issues queued writes to the array at a write drain, freeing write-queue entries for
  writes that wait for room. -/
  | writeDrain (stack chan : Nat)
  /-- R398: At each frame boundary the port's transmitter picks the next frame by VC and credit, or pad words, and
  sends the flit with its acknowledgements and credit returns. -/
  | flitTransmit (port : Nat)
  /-- R496: A lost reference clock returns, its REF_OK bit rises, and the host link it feeds can train again. -/
  | refRestored (which : Nat)
deriving DecidableEq, Repr

end Sys2Proof
end

