-- ==== Sys2Proof/Machine/State.lean ====
section
/-!
DEFINITION. The whole state of the device and what it is right after reset. Register fields are one sparse table
(`regs`, by `regKey`): a field that is not listed holds its reset value. Memories are sparse lists of cells.
-/

namespace Sys2Proof.Machine

/-- Why a step stops with a fault. No command of this device stops so: every wrong access or command of the spec is
discarded, answered or recorded in state. -/
inductive Fault where
  /-- Raised by nothing. A fault would be safe: a run stops. -/
  | none
deriving DecidableEq, Repr

/-- Why a step is refused. -/
inductive Refusal where
  /-- A command that has no meaning yet, by its mnemonic; raised by `exec` alone. Safe: the run stops. -/
  | notModelled (mnemonic : String)
deriving DecidableEq, Repr

/-- The state of the device. -/
structure State where
  /-- commands that wait, first in first out: the model's own -/
  pending : List Instr := []
  /-- what the device sent out, oldest first: the model's own -/
  outbox : List Msg := []
  /-- the counter that fresh free values are drawn with: the model's own -/
  freeCtr : Nat := 0
  /-- the ordering code (R1, R2) -/
  variant : Variant := .m768
  /-- register fields (chapters' register tables), by `regKey` -/
  regs : SMap Nat := []
  /-- staged values of set fields, while STAGED = 1 (R66) -/
  staging : List SetVal := []
  /-- values of set fields in the previous bank (R66) -/
  prevSet : List SetVal := []
  /-- CTRL operations in progress (R13, R34) -/
  ops : List CtrlOp := []
  /-- version table, region × 4 + slot (R61) -/
  vslots : SMap VSlot := []
  /-- the distance from EPOCH_FLOOR is at or above the warning margin (R54) -/
  floorAbove : Bool := false
  /-- the designated peer has left, and the host has chosen no new source since (R57) -/
  sourceLost : Bool := false
  /-- next ledger SEQ per source page (R68) -/
  ldgSeq : SMap Nat := []
  /-- ledger records dropped since the last LOST record, per source page (R70) -/
  ldgLost : SMap Nat := []
  /-- hardware contexts, 4g + ctx (R120); each is its own journal (R457) -/
  ctxs : SMap Ctx := []
  /-- runs in progress, by a number the model counts (R436) -/
  runs : SMap (Option Run) := []
  nextRun : Nat := 1
  /-- program-memory slots, 2g + slot (R123) -/
  pms : SMap PmSlot := []
  /-- layer register sets and arbitration, 8g + queue (R110, R122) -/
  engines : SMap QEngine := []
  /-- scoreboards and narrow views, by core g (R203, R206) -/
  spads : SMap Spad := []
  /-- scratchpad bytes, g × 2^25 + offset (R199) -/
  spad : List Host.Cell := []
  /-- check bytes of scratchpad words that are not the valid ones, g × 2^22 + word (R361, R364) -/
  spadChk : SMap (Option Nat) := []
  /-- Serai blocks: 0-3 of the partitions, 4 of the device (R127) -/
  serais : SMap Serai := []
  /-- queued load commands (R153) -/
  loadQ : List LoadCmd := []
  /-- the load in stage SLOTS (R155) -/
  loading : Option Loading := none
  /-- accepted loads, modulo 2^16 (R156) -/
  loadCount : Nat := 0
  /-- sessions beyond their register fields (R424, R427) -/
  sess : SMap Sess := []
  /-- ABORT commands that wait (R437) -/
  abortWaits : List AbortWait := []
  /-- how many events left DRAM contents undefined, by channel (stack × 32 + channel), 384 for all (R467, R521) -/
  memGens : SMap Nat := []
  /-- how many events left scratchpad contents undefined (R467, R483) -/
  spadGen : Nat := 0
  /-- PIM DRAM bytes by physical column × 32 + byte (R285-R287) -/
  dram : List Host.Cell := []
  /-- check segments of columns that are not the valid sealed ones (R360) -/
  dramChk : SMap (Option Nat) := []
  /-- channel engines, stack × 32 + channel (R335, R350) -/
  chans : SMap Chan := []
  /-- bank units, (stack × 32 + channel) × 32 + bank (R247) -/
  units : SMap BankUnit := []
  /-- bank-command descriptors in flight (R277) -/
  flights : List BkFlight := []
  /-- host-held lines that the snoop filter lists, oldest first (R439) -/
  snoop : List Nat := []
  /-- listed lines whose back-invalidation has been sent and not answered (R439) -/
  biWait : List Nat := []
  /-- the MSI-X table, by word offset in page 0x2012 (R422) -/
  msix : SMap Nat := []
  /-- the CE windows that are open, by source page (R378) -/
  ceWins : SMap CeWin := []
  /-- drovers (R312-R326), by partition -/
  drovers : SMap Drover := []
  /-- rows remapped onto their subarray's spare, ((stack × 32 + channel) × 32 + bank) × 65536 + row (R377) -/
  remaps : List Nat := []
  /-- nonvolatile log of repaired rows, by the keys of `remaps` (R377, R518) -/
  repairLog : List Nat := []
  /-- bytes served to a port, stack × 64 + port, that do not fill a KiB of SERVED_KIB yet (R355) -/
  servedBytes : SMap Nat := []
  /-- Elviasyn ports (R387-R406), by port number -/
  ports : SMap Port := []
  /-- addresses of the fabric (R409) -/
  members : SMap Member := []
  /-- last BSEQ accepted from an address (R411) -/
  bseqs : SMap (Option Nat) := []
  /-- last DATA frames of remote descriptors (R403, R406) -/
  lastFrames : List LastFrame := []
  /-- the device has sent LEAVE (R408) -/
  left : Bool := false
  /-- temperature sensors by index (R497, R498) -/
  sens : SMap Sens := []
  /-- stacks held at a die's limit (R503) -/
  stackHold : List Nat := []
  /-- partitions fenced and stopped at a region's limit (R502) -/
  partHold : List Nat := []
  /-- the condition of each part at the last sample: 1 THROTTLE, 2 LIMIT, 4 BLIND (R500, R507) -/
  partCond : SMap Nat := []
  /-- a partition's hottest reading at its last PLL recalibration (R505) -/
  pllTemp : SMap Int := []
  /-- recoveries in progress, by partition (R450) -/
  recov : SMap (Option Recov) := []
  /-- partitions whose escalation window is open (R465) -/
  winOpen : List Nat := []
  /-- one spine comparator is out until the next device reset (R463) -/
  compBad : Bool := false
  /-- manifest key slots (R470) -/
  keys : SMap (Option (List Byte)) := []
  /-- pre-shared keys: 0 OWNER, 1 OPERATOR, 2 ATTEST (R471) -/
  psks : SMap (Option (List Byte)) := []
  /-- SPDM sessions by number (R472) -/
  spdm : SMap (Option SpdmSess) := []
  /-- consecutive failed PSK_FINISH messages, by role (R472) -/
  pskFails : SMap Nat := []
  /-- roles whose PSK_EXCHANGE is refused (R472) -/
  pskLocked : List Nat := []
  /-- KEY_SET and PSK_SET commands since manufacture (R474) -/
  setCount : Nat := 0
  /-- an LC_ADVANCE left PIM DRAM to be zeroed (R469, R510) -/
  zeroDue : Bool := false
  /-- host functions in D3hot, by link (R480) -/
  d3 : List Nat := []
  /-- links whose PERST# is deasserted (R510) -/
  perst : List Nat := []
  /-- HDM decoders, by link (R421) -/
  hdm : SMap (Option Hdm) := []
  /-- the target behind P0 of a power-state request that passes through P0 (R480) -/
  psNext : Option Nat := none
  /-- the fast clamp holds; `true` once EFF_STEP has moved (R491) -/
  clamp : Option Bool := none
  /-- partitions whose core clock is divided, with the divisor (R491) -/
  divided : SMap Nat := []
  /-- the core step that the ladder holds (R491) -/
  coreSet : Nat := 12
  /-- the input has stayed below 42 V and not recovered (R487) -/
  supplyLow : Bool := false
  /-- milliseconds that the input has stayed at least 120 W below the limit (R491) -/
  lowMs : Nat := 0
  /-- both management images have failed verification: only the boot ROM runs (R512) -/
  romOnly : Bool := false
  /-- the firmware update in progress (R514) -/
  update : Option FwUpdate := none
  /-- (component, unit) pairs that run the bank FW_BANK names while FW_RUN shows the other (R513) -/
  fwDone : List (Nat × Nat) := []
  /-- milestone slots of `sp0.mgt` that wait for components 2-5 (R515) -/
  fwSlots : List Nat := []
  /-- retired dies, stack × 16 + die (R519) -/
  dies : List Nat := []
  /-- dies named for retirement (R519) -/
  retQueue : List Nat := []
deriving DecidableEq, Repr

/-- The machine right after reset: every field at the Reset column of its table, memory with nothing listed, every queue
empty. The spec covers two ordering codes (R1); the reset state stands for the ZY9-M768 (DESIGN CHOICE, log entry 76). Bring-up (POWER_ON) starts from here; log entry 4 says how the device comes to run. -/
def State.reset : State := {}

end Sys2Proof.Machine
end

