-- ==== Sys2Proof/Decode.lean ====
section
/-!
DEFINITION. The words of commands. The device takes commands as events, register accesses and messages; no row of the
spec's table gives a command word bits, so no word spells one.
-/

namespace Sys2Proof

/-- The command that a word of `nbits` bits spells by the table: none, since no row of the table gives bits. -/
def decodeTableWord (nbits w : Nat) : Option Instr := if 2 ^ nbits ≤ w then none else none

end Sys2Proof
end

