-- ==== Sys2Proof/Config.lean ====
section
/-!
DEFINITION. What an implementation fixes and the spec leaves open. Every constant here is OPAQUE: it has no body, so
nothing can be proved of its value, and every claim holds for every value it may have (the free values of the
assumption log).
-/

namespace Sys2Proof

/-- A fresh value that the spec leaves undefined; the model applies it to the plain counter `State.freeCtr`,
which it then advances. Log entry 3. -/
opaque Config.freeValue : Nat → Nat

/-- What DRAM byte `a` holds after reset number `g ≥ 1` left memory contents undefined (R467). Log entry 6. -/
opaque Config.dramByte : Nat → Nat → Byte

/-- What scratchpad byte `a` holds after reset number `g ≥ 1` left its contents undefined (R467). Log entry 6. -/
opaque Config.spadByte : Nat → Nat → Byte

/-- The FP32 word that a transcendental micro-operation (numbered as in R186) answers for an FP32 operand, where
R186 fixes only a bound. Log entry 7. -/
opaque Config.approx : Nat → Nat → Nat

/-- The sign (true for minus) of MIN (`false`) or MAX (`true`) of two zeros of opposite signs, which R85 does not state. Log
entry 29. -/
opaque Config.zeroPick : Bool → Bool

/-- A value that differs from part to part: register constants "per part", "per image", "per sensor", "per
fuses". The first argument names the field, the second the index. Log entry 8. -/
opaque Config.perPart : Nat → Nat → Nat

end Sys2Proof
end

