-- ==== Sys2Proof/Machine/Field.lean ====
section
/-!
DEFINITION. Reading and writing register fields, fresh free values, the device's outputs, interrupt requests and
partition states: the smallest operations every other one is built from.
-/

namespace Sys2Proof.Machine

/-- Page of the host interface. -/
abbrev pgHif : Nat := 0x2010

/-- The page under which a field is held: `dev` fields are held once for the device. -/
def homePage (p : Nat) (f : Fld) : Nat := if f.row.dev then 0x2000 else p

/-- Field `f`, instance `i` (below 16,384), of the unit with first page `p`. -/
def rdi (s : State) (p : Nat) (f : Fld) (i : Nat) : Nat :=
  SMap.get (fun _ => regReset (homePage p f) f (i % 16384)) s.regs (regKey (homePage p f) f i)

/-- Field `f` of the unit with first page `p`. -/
def rd (s : State) (p : Nat) (f : Fld) : Nat := rdi s p f 0

/-- Store `v`, cut to the field's width. -/
def wri (p : Nat) (f : Fld) (i v : Nat) (s : State) : State :=
  { s with regs := SMap.set (fun _ => regReset (homePage p f) f (i % 16384)) s.regs (regKey (homePage p f) f i) (v % 2 ^ f.row.width) }

/-- Store `v` in the only instance of a field. -/
def wr (p : Nat) (f : Fld) (v : Nat) (s : State) : State := wri p f 0 v s

/-- Add `k` to a counter, which stays at its largest value. -/
def counti (p : Nat) (f : Fld) (i k : Nat) (s : State) : State :=
  wri p f i (satAdd (2 ^ f.row.width - 1) (rdi s p f i) k) s

/-- Add `k` to a counter with one instance. -/
def count (p : Nat) (f : Fld) (k : Nat) (s : State) : State := counti p f 0 k s

/-- The next fresh free value (log entry 3). -/
def freshVal (s : State) : Nat := Config.freeValue s.freeCtr

/-- Use up the fresh value. -/
def freshNext (s : State) : State := { s with freeCtr := s.freeCtr + 1 }

/-- Send `m` out (log entry 11). -/
def emit (m : Msg) (s : State) : State := { s with outbox := s.outbox ++ [m] }

/-- EPOCH_NOW. -/
def epochNow (s : State) : Nat := rd s 0x2018 .epoEpochNow

/-- The unit requests an interrupt (R37). -/
def irqReq (s : State) (p : Nat) : Bool := (rd s p .hdrIrqStat &&& rd s p .hdrIrqEn) ≠ 0

/-- The link that carries MSI-X messages: H0, or H1 while H0 is down (R422). -/
def msgLink (s : State) : Nat := if rdi s pgHif .hifLinkState 0 ≤ 1 ∧ 2 ≤ rdi s pgHif .hifLinkState 1 then 1 else 0

/-- Send vector `v` (R423, R431). -/
def sendVec (v : Nat) (s : State) : State := emit (.msix (msgLink s) v) s

/-- Send the unit's vector when its request has gone from 0 to 1 (R423); `was` is the request before. -/
def irqEdge (p : Nat) (was : Bool) (s : State) : State :=
  if !was && irqReq s p then sendVec (rdi s 0x2010 .hifIrqvVec p) s else s

/-- Change IRQ_STAT to `v` (R37). -/
def putIrqStat (p v : Nat) (s : State) : State := irqEdge p (irqReq s p) (wr p .hdrIrqStat v s)

/-- Change IRQ_EN to `v` (R37). -/
def putIrqEn (p v : Nat) (s : State) : State := irqEdge p (irqReq s p) (wr p .hdrIrqEn v s)

/-- Set the IRQ_STAT bits of `m`. -/
def raiseMask (p m : Nat) (s : State) : State := putIrqStat p (rd s p .hdrIrqStat ||| m) s

/-- Set IRQ_STAT bit `b`. -/
def raise (p b : Nat) (s : State) : State := raiseMask p (2 ^ b) s

/-- The domain of a page index (R43). -/
def domainOf (p : Nat) : Nat := p / 0x800

/-- PART_STATE of partition `n` (R450): 0 IN_SERVICE, 1 FENCING, 2 RESETTING, 3 REPLAYING, 4 OUT_OF_SERVICE. -/
def partState (s : State) (n : Nat) : Nat := rdi s 0x2028 .fltPartState n

/-- Partition `n` is in service (R15, R16: REPLAYING counts). -/
def partServes (s : State) (n : Nat) : Bool := partState s n = 0 || partState s n = 3

/-- Partition `n` is in FENCING or RESETTING (R16). -/
def partBusy (s : State) (n : Nat) : Bool := partState s n = 1 || partState s n = 2

/-- PSTATE (R478). -/
def pstate (s : State) : Nat := rd s 0x2040 .pwrPstate

/-- The unit of the page has power (R478, R482). -/
def pagePowered (s : State) (p : Nat) : Bool :=
  if pstate s < 2 then true
  else if pstate s = 2 then ((unitAt p).bind UnitId.coreNum).isNone
  else domainOf p = 4

/-- The unit, and the partition that holds it, answer on their pages (R45, R479). -/
def unitReachable (s : State) (u : UnitId) : Bool :=
  match u with
  | .part _ => true
  | _ => match u.partition with
    | some n => partState s n != 2 && partState s n != 4 && pstate s < 3
    | none => true

/-- The unit lies in a powered partition that is out of service: its page reads all-ones, and its CTRL answers with an error (R15, R45). -/
def unitOos (s : State) (u : UnitId) : Bool := pstate s < 3 && u.partition.any fun n => partState s n = 4

/-- Every slot of the page's domain reads all-ones: its partition resets, is out of service or has no power (R45, R479). -/
def slotDark (s : State) (p : Nat) : Bool :=
  domainOf p < 4 && (partState s (domainOf p) = 2 || partState s (domainOf p) = 4 || 3 ≤ pstate s)

/-- A host write of a register of unit `u` does `f`; it is discarded while the unit does not answer (R45). -/
def hostWrites (u : UnitId) (f : State → State) (s : State) : State := if unitReachable s u then f s else s

/-- FLT_PEND bit of the domain, and ERR_PEND when FLT_PEND leaves 0 (R446). -/
def pendDomain (p : Nat) (s : State) : State :=
  let old := rd s 0x2028 .fltFltPend
  let s := wr 0x2028 .fltFltPend (old ||| 2 ^ domainOf p) s
  if old = 0 then raise 0x2028 22 s else s

/-- Capture an error in ERRLOG (R40) and note it in FLT_PEND (R446). -/
def logErr (p sev code detail : Nat) (s : State) : State :=
  let s1 := if rd s p .hdrErrValid = 0 then
      raise p 1 (wr p .hdrErrValid 1 (wr p .hdrErrDetail detail (wr p .hdrErrEpoch (epochNow s)
        (wr p .hdrErrCount 1 (wr p .hdrErrCode code (wr p .hdrErrSeverity sev s))))))
    else wr p .hdrErrOverflow 1 (wr p .hdrErrCount (satAdd 0xFFFF (rd s p .hdrErrCount) 1) s)
  if sev = 0 then s1 else pendDomain p s1

/-- The hardware context record. -/
def ctxAt (s : State) (id : Nat) : Ctx := SMap.get (fun _ => {}) s.ctxs id

/-- Store a context record. -/
def putCtx (id : Nat) (c : Ctx) (s : State) : State := { s with ctxs := SMap.set (fun _ => {}) s.ctxs id c }

/-- A version slot, region × 4 + slot. -/
def vslotAt (s : State) (k : Nat) : VSlot := SMap.get (fun _ => {}) s.vslots k

/-- Store a version slot. -/
def putVslot (k : Nat) (v : VSlot) (s : State) : State := { s with vslots := SMap.set (fun _ => {}) s.vslots k v }

/-- A channel engine, stack × 32 + channel. -/
def chanAt (s : State) (k : Nat) : Chan := SMap.get (fun _ => {}) s.chans k

/-- Store a channel engine. -/
def putChan (k : Nat) (c : Chan) (s : State) : State := { s with chans := SMap.set (fun _ => {}) s.chans k c }

/-- A bank unit, (stack × 32 + channel) × 32 + bank. -/
def unitState (s : State) (k : Nat) : BankUnit := SMap.get (fun _ => {}) s.units k

/-- Store a bank unit. -/
def putUnit (k : Nat) (u : BankUnit) (s : State) : State := { s with units := SMap.set (fun _ => {}) s.units k u }

/-- The scoreboard and narrow view of core `g`. -/
def spadAt (s : State) (g : Nat) : Spad := SMap.get (fun _ => {}) s.spads g

/-- Store the scoreboard and narrow view of core `g`. -/
def putSpad (g : Nat) (x : Spad) (s : State) : State := { s with spads := SMap.set (fun _ => {}) s.spads g x }

/-- A Serai: 0-3 of the partitions, 4 of the device. -/
def seraiAt (s : State) (k : Nat) : Serai := SMap.get (fun _ => {}) s.serais k

/-- Store a Serai. -/
def putSerai (k : Nat) (x : Serai) (s : State) : State := { s with serais := SMap.set (fun _ => {}) s.serais k x }

/-- A session beyond its register fields. -/
def sessAt (s : State) (k : Nat) : Sess := SMap.get (fun _ => {}) s.sess k

/-- Store a session. -/
def putSess (k : Nat) (x : Sess) (s : State) : State := { s with sess := SMap.set (fun _ => {}) s.sess k x }

/-- A run in progress. -/
def runAt (s : State) (k : Nat) : Option Run := SMap.get (fun _ => none) s.runs k

/-- Store or end a run. -/
def putRun (k : Nat) (x : Option Run) (s : State) : State := { s with runs := SMap.set (fun _ => none) s.runs k x }

/-- A program-memory slot, 2g + slot. -/
def pmAt (s : State) (k : Nat) : PmSlot := SMap.get (fun _ => {}) s.pms k

/-- Store a program-memory slot. -/
def putPm (k : Nat) (x : PmSlot) (s : State) : State := { s with pms := SMap.set (fun _ => {}) s.pms k x }

/-- A queue's layer register sets, 8g + queue. -/
def engineAt (s : State) (k : Nat) : QEngine := SMap.get (fun _ => {}) s.engines k

/-- Store a queue's layer register sets. -/
def putEngine (k : Nat) (x : QEngine) (s : State) : State := { s with engines := SMap.set (fun _ => {}) s.engines k x }

end Sys2Proof.Machine
end

