-- ==== Sys2Proof/Machine/Sensors.lean ====
section
/-!
DEFINITION. Temperature sensors and parts as read (R497-R500): which sensors exist, their neighbours, what a broken sensor reads,
and each part's hottest reading. Temperatures are in 0.25 °C.
-/

namespace Sys2Proof.Machine

/-- A sensor's record. -/
def sensAt (s : State) (i : Nat) : Sens := SMap.get (fun _ => {}) s.sens i

/-- Store a sensor's record. -/
def putSens (i : Nat) (x : Sens) (s : State) : State := { s with sens := SMap.set (fun _ => {}) s.sens i x }

/-- The sensor exists on the ordering code (R497). -/
def sensPresent (v : Variant) (i : Nat) : Bool :=
  i < 476 && (v = .m768 || !(128 ≤ i && i < 320) || (i - 128) % 16 < 8)

/-- The part a sensor belongs to (R497, R500). -/
def partOfSens (i : Nat) : Nat :=
  if i < 120 then i / 30 else if i < 128 then 4 else if i < 320 then 5 + (i - 128) / 16
  else if i < 448 then 17 + (i - 320) / 16 else if i < 456 then 25 + (i - 448) else if i < 464 then 33 + (i - 456) / 2 else 37

/-- The present sensors of a part. -/
def sensOfPart (v : Variant) (p : Nat) : List Nat :=
  let r := if p < 4 then (30 * p, 30) else if p = 4 then (120, 8) else if p < 17 then (128 + 16 * (p - 5), 16)
    else if p < 25 then (320 + 16 * (p - 17), 16) else if p < 33 then (448 + (p - 25), 1)
    else if p < 37 then (456 + 2 * (p - 33), 2) else (464, 12)
  ((List.range r.2).map (r.1 + ·)).filter (sensPresent v)

/-- NBR_k of a sensor (R498): the neighbours of a compute sensor are the part's own (log entry 8). -/
def sensNbr (v : Variant) (i k : Nat) : Nat :=
  if i < 128 then Config.perPart 3 (4 * i + k) % 2 ^ 9
  else if 128 ≤ i && i < 448 then
    let d := (i - 128) % 16
    if k = 0 then (if 0 < d then i - 1 else 0x1FF)
    else if k = 1 then (if d < 15 && sensPresent v (i + 1) then i + 1 else 0x1FF) else 0x1FF
  else 0x1FF

/-- The OK neighbours of a sensor. -/
def okNbrs (s : State) (i : Nat) : List Nat :=
  ((List.range 4).map (sensNbr s.variant i)).filter fun j => j != 0x1FF && sensPresent s.variant j && !(sensAt s j).broken

/-- The highest of a list of readings. -/
def hottest : List Int → Option Int
  | [] => none
  | x :: xs => some (xs.foldl max x)

/-- A part's throttle threshold (R500, R501). -/
def throttleAt (s : State) (p : Nat) : Int :=
  let t : Int := if p < 5 then 95 else if p < 17 then 92 else if p < 25 then 80 else if p < 33 then 85 else if p < 37 then 70 else 90
  4 * (t - rd s 0x2048 .thmThmAdj)

/-- A part's upper limit (R500); a bulk die's is the one at which programs suspend. -/
def limitAt (p : Nat) : Int :=
  4 * (if p < 5 then 105 else if p < 17 then 95 else if p < 25 then 85 else if p < 33 then 95 else if p < 37 then 75 else 100)

/-- What a sensor reads (R499). -/
def sensRead (s : State) (i : Nat) : Int :=
  if !sensPresent s.variant i then 0
  else if !(sensAt s i).broken then (sensAt s i).raw
  else
    match hottest ((okNbrs s i).map fun j => (sensAt s j).raw) with
    | some t => t + 20
    | none =>
      match hottest (((sensOfPart s.variant (partOfSens i)).filter fun j => !(sensAt s j).broken).map fun j => (sensAt s j).raw) with
      | some t => t + 20
      | none => throttleAt s (partOfSens i)

/-- BROKEN sensors of a part. -/
def partBroken (s : State) (p : Nat) : Nat := ((sensOfPart s.variant p).filter fun j => (sensAt s j).broken).length

/-- A part is BLIND (R499). -/
def partBlind (s : State) (p : Nat) : Bool :=
  let n := (sensOfPart s.variant p).length
  n < 4 * partBroken s p || partBroken s p = n

/-- A part's hottest reading (R499, R500). -/
def partHot (s : State) (p : Nat) : Int :=
  if partBlind s p then throttleAt s p
  else (hottest ((sensOfPart s.variant p).map (sensRead s))).getD 0

/-- The hottest reading of PIM stack `d`. -/
def stackHot (s : State) (d : Nat) : Int := partHot s (5 + d)

end Sys2Proof.Machine
end

