-- ==== Sys2Proof/Machine/Ecc.lean ====
section
/-!
DEFINITION. The three binary and symbol codes of R361: the scratchpad SECDED, the on-die code of a DRAM column and its
Reed-Solomon code, with the read classes of R362 and the syndrome layout of R363.
-/

namespace Sys2Proof.Machine

/-- Number of set bits among the low `n` bits of `v`. -/
def popCount (n v : Nat) : Nat := ((List.range n).map (bit v)).sum

/-- The scratchpad columns of data bits 0-55: the 8-bit values of weight 3 in rising order (R361). -/
def spdCols3 : List Nat := (List.range 256).filter fun v => popCount 8 v = 3

/-- The scratchpad columns of data bits 0-63 (R361). -/
def spdCols : List Nat := spdCols3 ++ [0x1F, 0x2F, 0x37, 0x3B, 0x3D, 0x3E, 0x4F, 0x57]

/-- The XOR of the columns whose data bit is 1. -/
def xorCols (cols : List Nat) (d : Nat) : Nat :=
  (cols.zipIdx).foldl (fun c e => if bit d e.2 = 1 then c ^^^ e.1 else c) 0

/-- The check byte of a 64-bit scratchpad word (R361). -/
def spdCheck (d : Nat) : Nat := xorCols spdCols d

/-- How a stored scratchpad word decodes (R361, R364): clean, corrected with its data, poison, or uncorrectable. -/
inductive WordClass where
  | clean | corrected (d : Nat) | poison | ue
deriving DecidableEq, Repr

/-- Decode data `d` stored with check byte `c`. -/
def spdDecode (d c : Nat) : WordClass :=
  let syn := c ^^^ spdCheck d
  if syn = 0 then .clean
  else if syn = 0xFF then .poison
  else if (List.range 8).any (fun j => syn = 2 ^ j) then .corrected d
  else match spdCols.findIdx? (· = syn) with
    | some i => .corrected (d ^^^ 2 ^ i)
    | none => .ue

/-- The 16-bit values of weight 3 in rising order: the columns of the on-die code (R361). -/
def odeCols : List Nat :=
  ((List.range 16).flatMap fun c => (List.range c).flatMap fun b => (List.range b).map fun a => 2 ^ c + 2 ^ b + 2 ^ a).take 288

/-- The 288 protected positions of a column as one number: data bytes, then the RS check bytes (R361). -/
def odeWord (data : List Byte) (rs : Nat) : Nat := leNat data + rs * 2 ^ 256

/-- The on-die check bits of a column (R361). -/
def odeCheck (data : List Byte) (rs : Nat) : Nat := xorCols odeCols (odeWord data rs)

/-- Multiplication by α in GF(2^8) modulo 0x11D (R361). -/
def gfXtime (a : Nat) : Nat := if a < 128 then 2 * a else (2 * a) ^^^ 0x11D

/-- Product in GF(2^8) modulo 0x11D (R361). -/
def gfMul (a b : Nat) : Nat :=
  ((List.range 8).foldl (fun (p : Nat × Nat) i => (if bit b i = 1 then p.1 ^^^ p.2 else p.1, gfXtime p.2)) (0, a)).1

/-- `a` to the power `n` in GF(2^8). -/
def gfPow (a : Nat) : Nat → Nat
  | 0 => 1
  | n + 1 => gfMul a (gfPow a n)

/-- The inverse of a non-zero element: a^254. -/
def gfInv (a : Nat) : Nat := gfPow a 254

/-- The four RS check bytes of 32 data bytes, byte c in bits [8c+7:8c] (R361). -/
def rsCheck (data : List Byte) : Nat :=
  let r := data.foldl (fun (r : Nat × Nat × Nat × Nat) d =>
    let f := d.toNat ^^^ r.1
    (r.2.1 ^^^ gfMul f 0x0F, r.2.2.1 ^^^ gfMul f 0x36, r.2.2.2 ^^^ gfMul f 0x78, gfMul f 0x40)) (0, 0, 0, 0)
  r.1 + r.2.1 * 2 ^ 8 + r.2.2.1 * 2 ^ 16 + r.2.2.2 * 2 ^ 24

/-- The 36 symbols of a column: data bytes 0-31, then check bytes 0-3 (R361). -/
def rsSymbols (data : List Byte) (rs : Nat) : List Nat := data.map BitVec.toNat ++ (List.range 4).map fun c => bits rs (8 * c + 7) (8 * c)

/-- Syndrome S_j: the received polynomial evaluated at α^j; symbol n is the coefficient of x^(35 - n) (R361). -/
def rsSyn (sym : List Nat) (j : Nat) : Nat :=
  let a := gfPow 2 j
  sym.foldl (fun acc s => gfMul acc a ^^^ s) 0

/-- The corrected symbols when a pattern of one or two erroneous bytes explains the syndromes (R361). -/
def rsCorrect (sym : List Nat) : Option (List Nat) :=
  let s0 := rsSyn sym 0
  let s1 := rsSyn sym 1
  let s2 := rsSyn sym 2
  let s3 := rsSyn sym 3
  let loc (n : Nat) : Nat := gfPow 2 (35 - n)
  let ok (x1 e1 x2 e2 : Nat) : Bool :=
    (gfMul e1 (gfPow x1 2) ^^^ gfMul e2 (gfPow x2 2)) = s2 && (gfMul e1 (gfPow x1 3) ^^^ gfMul e2 (gfPow x2 3)) = s3
  if s0 = 0 ∧ s1 = 0 ∧ s2 = 0 ∧ s3 = 0 then some sym
  else
    match (List.range 36).find? (fun n => let x := loc n; s0 ≠ 0 && gfMul s0 x = s1 && ok x s0 0 0) with
    | some n => some (sym.set n (sym.getD n 0 ^^^ s0))
    | none =>
      (((List.range 36).flatMap fun n => (List.range n).map fun m => (m, n)).findSome? fun p =>
        let x1 := loc p.1
        let x2 := loc p.2
        let e2 := gfMul (s1 ^^^ gfMul s0 x1) (gfInv (x1 ^^^ x2))
        let e1 := s0 ^^^ e2
        if e1 ≠ 0 && e2 ≠ 0 && ok x1 e1 x2 e2 then
          some ((sym.set p.1 (sym.getD p.1 0 ^^^ e1)).set p.2 (sym.getD p.2 0 ^^^ e2))
        else none)

/-- The classes of a DRAM read, in the order of the CLASS codes of R363. -/
inductive ColClass where
  | clean | ceOde | ceSym | ue | stale | poison
deriving DecidableEq, Repr

/-- The code of a class (R363). -/
def ColClass.code : ColClass → Nat
  | .clean => 0 | .ceOde => 1 | .ceSym => 2 | .ue => 3 | .stale => 4 | .poison => 5

/-- State bytes of a column (R360). -/
def segSealed : Nat := 0x00
/-- STALE (R360). -/
def segStale : Nat := 0xFF
/-- POISON (R360). -/
def segPoison : Nat := 0x0F

/-- The valid check segment of data with a state byte (R360): RS bytes, on-die bits, state. -/
def segOf (data : List Byte) (state : Nat) : Nat :=
  let rs := rsCheck data
  rs + odeCheck data rs * 2 ^ 32 + state * 2 ^ 48

/-- What a stored column decodes to: its class, the data delivered and the syndrome word of R363. -/
structure ColRead where
  cls : ColClass
  data : List Byte
  syn : Nat
deriving DecidableEq, Repr

/-- Decode a stored column (R361, R362). A state byte at distance 1 from a legal one is read as that one and counts as
an on-die correction (R360). -/
def colDecode (data : List Byte) (seg : Nat) : ColRead :=
  let rs := bits seg 31 0
  let state := bits seg 55 48
  let near (v : Nat) : Bool := popCount 8 (state ^^^ v) ≤ 1
  let odeSyn := bits seg 47 32 ^^^ odeCheck data rs
  let rsRaw := rsSymbols data rs
  let rsSynWord := rsSyn rsRaw 0 * 2 ^ 24 + rsSyn rsRaw 1 * 2 ^ 16 + rsSyn rsRaw 2 * 2 ^ 8 + rsSyn rsRaw 3
  let syn (c : ColClass) : Nat := odeSyn + state * 2 ^ 16 + rsSynWord * 2 ^ 24 + c.code * 2 ^ 56
  let bytesOf (sym : List Nat) : List Byte := (sym.take 32).map (BitVec.ofNat 8)
  let done (c : ColClass) (d : List Byte) : ColRead := ⟨c, d, syn c⟩
  if near segStale then done .stale data
  else if near segPoison then done .poison data
  else if !near segSealed then done .ue data
  else
    let odeBit := odeCols.findIdx? (· = odeSyn)
    let odeChk := (List.range 16).any fun j => odeSyn = 2 ^ j
    let word := match odeBit with
      | some i => odeWord data rs ^^^ 2 ^ i
      | none => odeWord data rs
    let data1 := leBytes 32 word
    let rs1 := word / 2 ^ 256
    if odeSyn = 0 ∧ rsSynWord = 0 then done (if state = segSealed then .clean else .ceOde) data
    else if odeSyn = 0 then done .ue data
    else if odeBit.isSome || odeChk then
      match rsCorrect (rsSymbols data1 rs1) with
      | some sym => if sym = rsSymbols data1 rs1 then done .ceOde data1 else done .ceSym (bytesOf sym)
      | none => done .ue data
    else if popCount 16 odeSyn % 2 = 0 then
      match rsCorrect rsRaw with
      | some sym => if sym = rsRaw then done .ue data else done .ceSym (bytesOf sym)
      | none => done .ue data
    else done .ue data

/-- One bit step of the reflected CRC-32C register (R293). -/
def crcBit (c : Nat) : Nat := if c % 2 = 1 then (c / 2) ^^^ 0x82F63B78 else c / 2

/-- CRC-32C of bytes in ascending order (R293). -/
def crc32c (bs : List Byte) : Nat :=
  bs.foldl (fun c b => (List.range 8).foldl (fun x _ => crcBit x) (c ^^^ b.toNat)) 0xFFFFFFFF ^^^ 0xFFFFFFFF

end Sys2Proof.Machine
end

