-- ==== Sys2Proof/Machine/Place.lean ====
section
/-!
DEFINITION. The device physical address map (R47-R50) and the placement of a DPA on stack, channel, bank, row and column
(R285-R287, R293).
-/

namespace Sys2Proof.Machine

/-- log2 of a stack's bytes (R285). -/
def stackBits (v : Variant) : Nat := match v with | .m768 => 36 | .m384 => 35

/-- First address above the PIM DRAM, the loader buffer included (R47). -/
def dramTop (v : Variant) : Nat := 12 * 2 ^ stackBits v

/-- First address of the loader buffer: the last 64 MiB of D11 (R47). -/
def loaderBase (v : Variant) : Nat := dramTop v - 2 ^ 26

/-- What lies at a DPA (R47). -/
inductive Region where
  | dram
  | loaderBuffer
  /-- core number and offset in its debug window (R49) -/
  | window (g off : Nat)
  /-- stack, channel and offset in the channel's 32 MiB (R50) -/
  | harness (stack chan off : Nat)
  | reserved
deriving DecidableEq, Repr

/-- The region of a DPA. -/
def regionOf (v : Variant) (a : Nat) : Region :=
  if a < loaderBase v then .dram
  else if a < dramTop v then .loaderBuffer
  else if 0x10000000000 ≤ a ∧ a < 0x10140000000 then .window ((a - 0x10000000000) / 2 ^ 25) (a % 2 ^ 25)
  else if 0x20000000000 ≤ a ∧ a < 0x20300000000 then
    .harness ((a - 0x20000000000) / 2 ^ 30) (a / 2 ^ 25 % 32) (a % 2 ^ 25)
  else .reserved

/-- A whole span lies in populated PIM DRAM. -/
def inDram (v : Variant) (a n : Nat) : Bool := a + n ≤ loaderBase v

/-- LIN_MAP bit of block `p` of stack `d` (R285). -/
def isLinear (s : State) (d p : Nat) : Bool := bit (rd s (mcOf d).page .mcsLinMap) p = 1

/-- BMP_MAP bit of block `p` of stack `d` (R293). -/
def isBitmap (s : State) (d p : Nat) : Bool := bit (rd s (mcOf d).page .mcsBmpMap) p = 1

/-- A column's number: (((stack × 32 + channel) × 32 + bank) × 65,536 + row) × 32 + column. -/
def colNo (stack chan bank row col : Nat) : Nat := (((stack * 32 + chan) * 32 + bank) * 65536 + row) * 32 + col

/-- Stack × 32 + channel of a column number. -/
def chanKey (c : Nat) : Nat := c / (32 * 65536 * 32)
/-- Stack of a column number. -/
def stackOfCol (c : Nat) : Nat := c / (32 * 32 * 65536 * 32)
/-- Channel of a column number. -/
def chanOfCol (c : Nat) : Nat := chanKey c % 32
/-- (Stack × 32 + channel) × 32 + bank of a column number. -/
def bankKey (c : Nat) : Nat := c / (65536 * 32)
/-- Bank of a column number. -/
def bankOfCol (c : Nat) : Nat := bankKey c % 32
/-- Row of a column number. -/
def rowOfCol (c : Nat) : Nat := c / 32 % 65536
/-- Column within its row. -/
def colOfCol (c : Nat) : Nat := c % 32

/-- The column that holds DRAM address `a` (R285-R287). -/
def locate (s : State) (a : Nat) : Nat :=
  let sb := stackBits s.variant
  let d := a / 2 ^ sb
  let o := a % 2 ^ sb
  let p := o / 2 ^ 30
  if isLinear s d p then
    let k := bits o 19 10
    colNo d (bits o 29 25) (bits o 24 20) (1024 * p + 512 * (k % 2) + k / 2) (bits o 9 5)
  else
    colNo d (bits o 12 8 ^^^ bits o 24 20) (bits o 17 13 ^^^ bits o 29 25) (1024 * p + bits o 29 20)
      (8 * bits o 19 18 + bits o 7 5)

/-- The first address of a column, the inverse of `locate`. -/
def dpaOfCol (s : State) (c : Nat) : Nat :=
  let d := stackOfCol c
  let p := rowOfCol c / 1024
  let r := rowOfCol c % 1024
  let ch := chanOfCol c
  let b := bankOfCol c
  let k := colOfCol c
  let o := if isLinear s d p then
      ch * 2 ^ 25 + b * 2 ^ 20 + (2 * (r % 512) + r / 512) * 2 ^ 10 + k * 32
    else r * 2 ^ 20 + (k / 8) * 2 ^ 18 + (b ^^^ bits r 9 5) * 2 ^ 13 + (ch ^^^ bits r 4 0) * 2 ^ 8 + (k % 8) * 32
  d * 2 ^ stackBits s.variant + p * 2 ^ 30 + o

/-- The DRAM row of share row `k` of block `p` (R287). -/
def rowOfShare (p k : Nat) : Nat := 1024 * p + 512 * (k % 2) + k / 2

/-- The share row of a DRAM row in its block (R287). -/
def shareOfRow (r : Nat) : Nat := 2 * (r % 512) + r % 1024 / 512

/-- The column lies in a side row of a bitmap block (R293). -/
def isSideCol (s : State) (c : Nat) : Bool :=
  510 ≤ rowOfCol c % 512 && isBitmap s (stackOfCol c) (rowOfCol c / 1024)

/-- The memory controller page of a column. -/
def mcPageOf (c : Nat) : Nat := (mcOf (stackOfCol c)).page

/-- The columns of the span of `n` bytes at `a`, in rising address order, with each column's first address. -/
def colsOf (s : State) (a n : Nat) : List (Nat × Nat) :=
  if n = 0 then [] else
  (List.range ((a + n - 1) / 32 - a / 32 + 1)).map fun i => let x := 32 * (a / 32 + i); (locate s x, x)

/-- Partition that owns stack `d`. -/
def partOfStack (d : Nat) : Nat := d / 3

/-- Port of a core at the controller of stack `d`, by the arrangement in force (R343). -/
def corePortAt (g : Nat) (s : State) (d : Nat) : Nat :=
  let full := rd s (mcOf d).page .mcsQosMode = 1
  let own := partOfStack d
  let n := g / 40
  if n = own then (if full then g % 40 else g / 8 % 5)
  else if full then 40 + (if n < own then n else n - 1) else 5

/-- Port of the host and the spine at the controller of stack `d` (R343). -/
def spinePortAt (s : State) (d : Nat) : Nat := if rd s (mcOf d).page .mcsQosMode = 1 then 44 else 7

/-- Port of the drover at the controller of stack `d` (R343). -/
def droverPortAt (s : State) (d : Nat) : Nat := if rd s (mcOf d).page .mcsQosMode = 1 then 43 else 6

end Sys2Proof.Machine
end

