-- ==== Sys2Proof/Machine/Store.lean ====
section
/-!
DEFINITION. The two memories as stored: DRAM columns with their check segments (R360) and scratchpad words with their check
bytes (R361). Every change of either memory goes through `putDram`, `putDramChk`, `putSpadByte` and `putSpadChk`.
-/

namespace Sys2Proof.Machine

/-- How many events left the channel of DRAM byte `a` undefined: its own and those of the whole memory. -/
def memGenAt (gens : SMap Nat) (a : Nat) : Nat := SMap.get (fun _ => 0) gens 384 + SMap.get (fun _ => 0) gens (a / 2 ^ 31)

/-- What a DRAM byte reads as when nothing has written it since its contents were last undefined (log entry 6). -/
def dramDefault (gens : SMap Nat) (a : Nat) : Byte := if memGenAt gens a = 0 then 0 else Config.dramByte (memGenAt gens a) a

/-- What a scratchpad byte reads as when nothing has written it since event number `gen` left it undefined (log entry 6). -/
def spadDefault (gen a : Nat) : Byte := if gen = 0 then 0 else Config.spadByte gen a

/-- One DRAM byte, by column × 32 + place. -/
def dramByteAt (s : State) (a : Nat) : Byte := SMap.get (dramDefault s.memGens) s.dram a

/-- Store one DRAM byte. -/
def putDram (a : Nat) (b : Byte) (s : State) : State := { s with dram := SMap.set (dramDefault s.memGens) s.dram a b }

/-- Store a column's check segment; `none` is the valid sealed one. -/
def putDramChk (c : Nat) (v : Option Nat) (s : State) : State := { s with dramChk := SMap.set (fun _ => none) s.dramChk c v }

/-- One scratchpad byte, by g × 2^25 + offset. -/
def spadByteAt (s : State) (a : Nat) : Byte := SMap.get (spadDefault s.spadGen) s.spad a

/-- Store one scratchpad byte. -/
def putSpadByte (a : Nat) (b : Byte) (s : State) : State := { s with spad := SMap.set (spadDefault s.spadGen) s.spad a b }

/-- Store a scratchpad word's check byte; `none` is the valid one. -/
def putSpadChk (w : Nat) (v : Option Nat) (s : State) : State := { s with spadChk := SMap.set (fun _ => none) s.spadChk w v }

/-- The DRAM memory is in canonical form. -/
abbrev dramWf (s : State) : Prop := SMap.wf (dramDefault s.memGens) s.dram

/-- The scratchpad memory is in canonical form. -/
abbrev spadWf (s : State) : Prop := SMap.wf (spadDefault s.spadGen) s.spad

/-- The stored data bytes of a column. -/
def colBytes (s : State) (c : Nat) : List Byte := (List.range 32).map fun b => dramByteAt s (c * 32 + b)

/-- The stored check segment of a column when it is not the valid sealed one. -/
def colChk (s : State) (c : Nat) : Option Nat := SMap.get (fun _ => none) s.dramChk c

/-- The check segment of a column as stored (R360). -/
def colSeg (s : State) (c : Nat) : Nat := (colChk s c).getD (segOf (colBytes s c) segSealed)

/-- A stored column read through both decoders (R362). -/
def colLook (s : State) (c : Nat) : ColRead :=
  match colChk s c with
  | none => ⟨.clean, colBytes s c, 0⟩
  | some seg => colDecode (colBytes s c) seg

/-- The state byte of a stored column is at distance 1 from the legal one that it is read as (R360). -/
def stateNear (s : State) (c : Nat) : Bool :=
  (colChk s c).any fun seg => [segSealed, segStale, segPoison].any fun v => popCount 8 (bits seg 55 48 ^^^ v) = 1

/-- Store data bytes of a column. -/
def putColData (c : Nat) (data : List Byte) (s : State) : State :=
  data.zipIdx.foldl (fun t e => putDram (c * 32 + e.2) e.1 t) s

/-- Write a whole column SEALED. -/
def sealCol (c : Nat) (data : List Byte) (s : State) : State := putDramChk c none (putColData c data s)

/-- Write a whole column with its codes and state POISON (R360, R366). -/
def poisonCol (c : Nat) (data : List Byte) (s : State) : State := putDramChk c (some (segOf data segPoison)) (putColData c data s)

/-- Mark a column STALE: the state byte alone changes (R294, log entry 24). -/
def staleCol (c : Nat) (s : State) : State := putDramChk c (some (setBits (colSeg s c) 55 48 segStale)) s

/-- Scratchpad bytes of core `g` from offset `off`. -/
def spadBytes (s : State) (g off n : Nat) : List Byte := (List.range n).map fun i => spadByteAt s (g * 2 ^ 25 + off + i)

/-- Key of word `w` of core `g`. -/
def wordKey (g w : Nat) : Nat := g * 2 ^ 22 + w

/-- A stored scratchpad word decoded (R361, R364). -/
def wordLook (s : State) (g w : Nat) : WordClass :=
  match SMap.get (fun _ => none) s.spadChk (wordKey g w) with
  | none => .clean
  | some c => spdDecode (leNat (spadBytes s g (8 * w) 8)) c

/-- Store bytes into the scratchpad cells of core `g`, leaving check bytes alone. -/
def putSpadData (g off : Nat) (data : List Byte) (s : State) : State :=
  data.zipIdx.foldl (fun t e => putSpadByte (g * 2 ^ 25 + off + e.2) e.1 t) s

/-- Write a whole word with a valid check byte. -/
def sealWord (g w : Nat) (data : List Byte) (s : State) : State :=
  putSpadChk (wordKey g w) none (putSpadData g (8 * w) data s)

/-- Mark a word POISON: its check byte is the valid one XOR 0xFF (R364). -/
def poisonWord (g w : Nat) (s : State) : State :=
  putSpadChk (wordKey g w) (some (spdCheck (leNat (spadBytes s g (8 * w) 8)) ^^^ 0xFF)) s

end Sys2Proof.Machine
end

