-- ==== Sys2Proof/Machine/Ops.lean ====
section
/-!
DEFINITION. The shared operations over memory: ordinary reads and writes of columns with their integrity effects (R335,
R362-R370, R376), the write queue, ledger records (R68-R70), aborts of bank sequences (R270, R271) and the freeze of a
channel (R349-R352).
-/

namespace Sys2Proof.Machine

/-- A write entry that covers its whole column. -/
def WrReq.full (w : WrReq) : Bool := w.data.length = 32

/-- The bytes of a column with the entry's bytes laid over `old`. -/
def WrReq.over (w : WrReq) (old : List Byte) : List Byte :=
  (List.range 32).map fun i => SMap.get (fun j => old.getD j 0) w.data i

/-- Two writes of one column in arrival order, combined (R370). -/
def WrReq.join (old new : WrReq) : WrReq :=
  { new with data := new.data.foldl (fun m e => SMap.ins e.1 e.2 m) old.data
             poison := new.poison || (old.poison && !new.full) }

/-- What the writes of column `c` that were queued before stamp `n` write, laid over one another; scrub write-backs apart (R335). -/
def queuedFor (ch : Chan) (c n : Nat) : WrReq :=
  (ch.wrq.filter fun w => w.col = c && !w.scrub && w.stamp < n).foldl WrReq.join {}

/-- A read of column `c` that arrived at or after stamp `n` waits in the queue (R335). -/
def readWaits (ch : Chan) (c n : Nat) : Bool := ch.rdq.any fun r => n ≤ r.stamp && r.cols.any fun e => e.1 = c

/-- The stamp of the queue entry that a write of column `c` joins: the last of its column, where no read has arrived since (R335). -/
def joins (ch : Chan) (c : Nat) : Option Nat :=
  ((ch.wrq.filter fun w => w.col = c && !w.scrub).getLast?.filter fun w => !readWaits ch c w.stamp).map WrReq.stamp

/-- Entries that a write queue uses (R335): the two columns of a pair that stand together use one. -/
def wrEntries (q : List WrReq) : Nat :=
  q.length - ((q.zip (q.drop 1)).filter fun e => e.2.mate && e.1.col + 1 = e.2.col).length

/-- Merge entries that a write queue uses (R370). -/
def wrMerges (q : List WrReq) : Nat := (q.filter fun w => !w.full).length

/-- The set in force for a port of a controller (R67, R343-R345). -/
def qosOf (s : State) (d port : Nat) : QosSet :=
  let p := (mcOf d).page
  { full := rd s p .mcsQosMode = 1, ageCap := rd s p .mcsAgeCapNs, target := rdi s p .mcsLatTarget port
    rate := rdi s p .mcsRate port, hard := rdi s p .mcsHard port = 1 }

/-- Queue `w`: into the entry of its column that it may join, else behind the others under the set in force (R67, R335). A scrub
write-back of the column is dropped (R373). -/
def enqueue (w : WrReq) (s : State) : State :=
  let ck := chanKey w.col
  let ch := chanAt s ck
  let q := ch.wrq.filter fun e => !(e.col = w.col && e.scrub)
  let q := match joins ch w.col with
    | some n => q.map fun e => if e.col = w.col && e.stamp = n then { e with data := (e.join w).data, poison := (e.join w).poison } else e
    | none => q ++ [{ w with stamp := ch.stamp, qos := qosOf s (stackOfCol w.col) w.port
                             mate := w.mate && q.getLast?.any fun e => e.col + 1 = w.col }]
  putChan ck { ch with wrq := q, stamp := ch.stamp + 1, scrubBack := ch.scrubBack.filter (·.col != w.col) } s

/-- Take the entries of column `c` out of the write queue; a scrub write-back of it is dropped (R373). -/
def dequeueCol (c : Nat) (s : State) : State :=
  let ck := chanKey c
  let ch := chanAt s ck
  putChan ck { ch with wrq := ch.wrq.filter (·.col != c), scrubBack := ch.scrubBack.filter (·.col != c) } s


/-- A check-bit test mode holds the channel's other requests (R381). -/
def testHolds (s : State) (ck : Nat) : Bool :=
  let p := (mcOf (ck / 32)).page
  rdi s 0x2028 .fltTestMode p != 0 && rdi s 0x2028 .fltTestChan p = ck % 32

/-- The channel serves ordinary requests: NORMAL (R350), no recalibration (R348), not entering harness mode (R252), no hold of R381 or
R503. -/
def chanServes (s : State) (ck : Nat) : Bool :=
  (chanAt s ck).st = .normal && !(chanAt s ck).recal && (chanAt s ck).hm != .entering && !testHolds s ck && !s.stackHold.contains (ck / 32)

/-- The bank's unit is in a running gang, in RUNNING or WAIT (R337). -/
def gangHolds (s : State) (bk : Nat) : Bool :=
  (chanAt s (bk / 32)).seqs.any fun q =>
    (q.st = .running || q.st = .wait) && q.banks.contains (bk % 32) && !q.ended.contains (bk % 32)

/-- The column's channel and bank serve ordinary accesses. -/
def colServes (s : State) (c : Nat) : Bool := chanServes s (chanKey c) && !gangHolds s (bankKey c)

/-- The key in `Chan.rows` of the row that holds column `c`. -/
def rowBit (c : Nat) : Nat := bankOfCol c * 65536 + rowOfCol c

/-- The column lies in a row that a running bank unit holds open (R337). -/
def unitHolds (s : State) (c : Nat) : Bool :=
  chanServes s (chanKey c) && gangHolds s (bankKey c) && (chanAt s (chanKey c)).rows.contains (rowBit c)

/-- A port that has HARD set and too few tokens holds its requests back (R345); a request for more than a full bucket asks for a full
one. -/
def portOpen (s : State) (q : QosSet) (d port n : Nat) : Bool :=
  !q.full || !q.hard || (q.rate != 0 && min n (rdi s (mcOf d).page .mcsBurstKib port * 1024) ≤ rdi s (mcOf d).page .mcsTokens port)

/-- A read of `n` bytes of the column's stack through a port goes at once (R335, R337, R345). -/
def readNow (s : State) (port n c : Nat) : Bool :=
  (colServes s c || unitHolds s c) && (chanAt s (chanKey c)).late.isEmpty &&
    portOpen s (qosOf s (stackOfCol c) port) (stackOfCol c) port n

/-- A write of the column through a port goes at once (R335, R337, R345): no older read of it waits. -/
def writeNow (s : State) (port c : Nat) : Bool :=
  colServes s c && (chanAt s (chanKey c)).late.isEmpty && !readWaits (chanAt s (chanKey c)) c 0 &&
    portOpen s (qosOf s (stackOfCol c) port) (stackOfCol c) port 32

/-- The writes of these columns, each whole or partial, that do not go at once all find room in their channels' write queues (R335,
R370). -/
def roomFor (s : State) (pt : Nat → Nat) (cols : List (Nat × Bool)) : Bool :=
  let held := cols.filter fun e => !writeNow s (pt (stackOfCol e.1)) e.1
  (held.map fun e => chanKey e.1).eraseDups.all fun ck =>
    let ch := chanAt s ck
    let new := held.filter fun e => chanKey e.1 = ck && (joins ch e.1).isNone
    ch.st != .failed && ch.late.isEmpty && wrEntries ch.wrq + (new.map fun e => e.1 / 2).eraseDups.length ≤ 32 &&
      wrMerges ch.wrq + (new.filter fun e => !e.2).length ≤ 8

/-- An ordinary write removes its row from VETTED and PRODUCED (R297). -/
def dropRowSets (c : Nat) (s : State) : State :=
  let u := unitState s (bankKey c)
  let r := rowOfCol c
  if u.vetted.contains r || u.produced.contains r then
    putUnit (bankKey c) { u with vetted := u.vetted.filter (· != r), produced := u.produced.filter (· != r) } s
  else s

/-- Note a command issued to the channel among its last 16 (R351); a code of R356. -/
def noteCmd (cmd c : Nat) (s : State) : State :=
  let ch := chanAt s (chanKey c)
  let e := cmd + bankOfCol c * 2 ^ 8 + rowOfCol c * 2 ^ 13 + colOfCol c * 2 ^ 29
  putChan (chanKey c) { ch with hist := (ch.hist ++ [e]).drop (ch.hist.length - 15) } s

/-- Precharge the listed rows of the channel of column `c`, each with a PRE. -/
def shutRows (c : Nat) (rows : List Nat) (s : State) : State :=
  let s := rows.foldl (fun t r => noteCmd 0x04 ((c / (32 * 65536 * 32) * (32 * 65536) + r) * 32) t) s
  let ch := chanAt s (chanKey c)
  if rows.isEmpty then s else putChan (chanKey c) { ch with rows := ch.rows.filter fun r => !rows.contains r } s

/-- The row of column `c` is open for a command: its bank's other rows are precharged and it is activated (R351, log entry 84). With
`two` a bank unit keeps the latest row of another subarray (R247). -/
def openRow (two : Bool) (c : Nat) (s : State) : State :=
  let ch := chanAt s (chanKey c)
  if ch.rows.contains (rowBit c) then s
  else
    let mine := ch.rows.filter fun r => r / 65536 = bankOfCol c
    let keep := mine.getLast?.filter fun r => two && r % 65536 / 512 != rowOfCol c / 512
    let s := noteCmd 0x01 c (shutRows c (mine.filter fun r => some r != keep) s)
    let ch := chanAt s (chanKey c)
    putChan (chanKey c) { ch with rows := ch.rows ++ [rowBit c] } s

/-- Every row of a channel is precharged (PREA). -/
def preAll (ck : Nat) (s : State) : State :=
  let s := noteCmd 0x05 (colNo (ck / 32) (ck % 32) 0 0 0) s
  putChan ck { chanAt s ck with rows := [] } s

/-- A read or write command of a column on the channel, its row open. -/
def access (cmd c : Nat) (s : State) : State := noteCmd cmd c (openRow false c s)

/-- A column takes ordinary data: its row leaves VETTED and PRODUCED (R297). -/
def storeCol (c : Nat) (data : List Byte) (poison : Bool) (s : State) : State :=
  let s := dropRowSets c s
  if poison then poisonCol c data s else sealCol c data s

/-- An ordinary whole-column write reaches the array. -/
def arrayWrite (c : Nat) (data : List Byte) (poison : Bool) (s : State) : State := storeCol c data poison (access 0x03 c s)

/-- `n` bytes are served to a port (R345, R355): counted, and with `full`, the request's arrangement, taken from the port's tokens. -/
def chargeAs (full : Bool) (d port n : Nat) (s : State) : State :=
  let p := (mcOf d).page
  let b := SMap.get (fun _ => 0) s.servedBytes (d * 64 + port) + n
  let s := counti p .mcsServedKib port (b / 1024) { s with servedBytes := SMap.set (fun _ => 0) s.servedBytes (d * 64 + port) (b % 1024) }
  if full then wri p .mcsTokens port (rdi s p .mcsTokens port - n) s else s

/-- `n` bytes are served to a port under the set in force. -/
def charge (d port n : Nat) (s : State) : State := chargeAs (rd s (mcOf d).page .mcsQosMode = 1) d port n s

/-- A request that finds no room waits behind the channel's others of that kind (R335, R349). -/
def putLate (ck : Nat) (r : LateReq) (s : State) : State :=
  let ch := chanAt s ck
  putChan ck { ch with late := ch.late ++ [r] } s

/-- A write enters the write queue; one that a leg holds back is counted (R337). -/
def queueWrite (w : WrReq) (s : State) : State :=
  enqueue w (if gangHolds s (bankKey w.col) && !w.mate then count (mcPageOf w.col) .mcsLegWaits 1 s else s)

/-- A write into a side row is discarded, counted and recorded (R293). -/
def sideWrite (c : Nat) (s : State) : State :=
  logErr (mcPageOf c) 1 0x03 (dpaOfCol s c) (count (mcPageOf c) .mcsSideWrites 1 s)

/-- A 32-byte write of the spine at a column's DPA (R335): it reaches the array, enters the write queue, or waits for room. -/
def writeSpine (a : Nat) (data : List Byte) (s : State) : State :=
  let c := locate s a
  let port := spinePortAt s (stackOfCol c)
  if isSideCol s c then sideWrite c s
  else if writeNow s port c then arrayWrite c data false (charge (stackOfCol c) port 32 (dequeueCol c s))
  else if roomFor s (fun _ => port) [(c, true)] then queueWrite { col := c, port := port, data := data.zipIdx.map fun e => (e.2, e.1) } s
  else putLate (chanKey c) { dpa := a, port := port, data := some data } s

/-- A ledger record as bytes (R68). -/
def ledgerBytes (s : State) (src type seq detail : Nat) : List Byte :=
  leBytes 32 (epochNow s + rd s 0x2018 .epoEpochEra * 2 ^ 32 + seq * 2 ^ 48 + src * 2 ^ 72 + type * 2 ^ 88 + detail * 2 ^ 96)

/-- Unread records of the ledger of page `src` (R70). -/
def ledgerUnread (s : State) (src : Nat) : Nat :=
  (rdi s 0x2018 .epoLdgWptr src + 2 ^ 24 - rdi s 0x2018 .epoLdgRptr src) % 2 ^ 24

/-- The ring of page `src` is full (R70). -/
def ledgerFull (s : State) (src : Nat) : Bool := 2 ^ rdi s 0x2018 .epoLdgSize src ≤ ledgerUnread s src

/-- Write one record into the ring and take the next SEQ. A host copy of the line is back-invalidated first (R439). -/
def ledgerPut (src type detail : Nat) (s : State) : State :=
  let seq := SMap.get (fun _ => 0) s.ldgSeq src
  let i := rdi s 0x2018 .epoLdgWptr src
  let a := rdi s 0x2018 .epoLdgBase src / 4096 * 4096 + 32 * (i % 2 ^ rdi s 0x2018 .epoLdgSize src)
  let bytes := ledgerBytes s src type seq detail
  let s := { s with ldgSeq := SMap.set (fun _ => 0) s.ldgSeq src ((seq + 1) % 2 ^ 24) }
  let s := wri 0x2018 .epoLdgWptr src ((i + 1) % 2 ^ 24) s
  let s := if s.snoop.contains (a / 64) then
      emit (.backInvalidate (a / 64)) { s with snoop := s.snoop.filter (· != a / 64), biWait := s.biWait.filter (· != a / 64) }
    else s
  if inDram s.variant a 32 then writeSpine a bytes s else s

/-- Raise a ledger record of the unit with page `src` (R68-R70): discarded while LDG_EN = 0, dropped and counted while
the ring is full. -/
def ledger (src type detail : Nat) (s : State) : State :=
  if rdi s 0x2018 .epoLdgEn src = 0 then s
  else if ledgerFull s src then
    let seq := SMap.get (fun _ => 0) s.ldgSeq src
    let lost := SMap.get (fun _ => 0) s.ldgLost src
    counti 0x2018 .epoLdgDropped src 1
      { s with ldgSeq := SMap.set (fun _ => 0) s.ldgSeq src ((seq + 1) % 2 ^ 24)
               ldgLost := SMap.set (fun _ => 0) s.ldgLost src (satAdd (2 ^ 32 - 1) lost 1) }
  else ledgerPut src type detail s

/-- Rank of a unit among a descriptor's selected units (R279). -/
def BkFlight.rank (f : BkFlight) (bk : Nat) : Nat := f.chans.idxOf (bk / 32 % 32) * f.banks.length + f.banks.idxOf (bk % 32)

/-- A status entry (R280, R306). -/
def statBytes (op kind : Nat) (u : BankUnit) : List Byte :=
  let n := if op = 0x05 || op = 0x04 || op = 0x10 then u.count else 0
  leBytes 16 (kind + (if u.poison then 4 else 0) + (if op = 0x10 then u.skip.getD 0xFFFF * 2 ^ 16 else 0) + n % 2 ^ 64 * 2 ^ 64)

/-- The report of bank unit `bk`, with what the unit holds of the sequence, reaches the descriptor that owns it (R269, R280,
R281). -/
def reportUnit (q : Seq) (bk kind : Nat) (u : BankUnit) (s : State) : State :=
  if q.host then s else
  { s with flights := s.flights.map fun f =>
      if f.core = q.core && f.ctx = q.ctx && f.k = q.k then
        { f with reports := f.reports ++ [⟨bk, kind, u.poison, u.exc⟩]
                 arrived := f.arrived ++ (f.statBase.toList.map fun a => ⟨bk, a + 16 * f.rank bk, statBytes q.op kind u, false⟩) }
      else f }

/-- The POISON marks that bank unit `bk` owes are written before any ordinary access to the bank (R366). -/
def payUnitMarks (bk : Nat) (s : State) : State :=
  let u := unitState s bk
  if u.marks.isEmpty then s else
  let s := u.marks.foldl (fun t c =>
    ledger (mcPageOf c) 0x86 (chanOfCol c + bankOfCol c * 2 ^ 16 + rowOfCol c * 2 ^ 21 + colOfCol c * 2 ^ 37)
      (poisonCol c (colBytes t c) t)) s
  putUnit bk { unitState s bk with marks := [] } s

/-- An abort takes effect on one bank of a sequence (R257, R270, R271); `src` is 0 host, 1 freeze, 2 reset. A queued unit
took no step and reports at once, a started one drains first. -/
def abortBank (src ck : Nat) (q : Seq) (bank : Nat) (s : State) : State :=
  let bu := (buOf (ck / 32)).page
  let bk := ck * 32 + bank
  let s := ledger bu 0x80 (ck % 32 + bank * 2 ^ 5 + src * 2 ^ 10 + q.tag * 2 ^ 16) s
  let s := raise bu 16 (count bu .bkuSeqAborted 1 s)
  if q.st = .queued then
    reportUnit q bk 2 {} (putUnit bk { unitState s bk with last := 2, lastPoison := false, lastOp := q.op, tag := q.tag, lastSteps := 0 } s)
  else
    let s := payUnitMarks bk s
    let u := unitState s bk
    putUnit bk { u with pend := [], vetted := [], produced := [], sealDue := false, vetBad := false, last := 2, lastPoison := u.poison, lastOp := q.op,
                        tag := q.tag, lastSteps := u.steps } s

/-- The banks of a sequence that have not ended. -/
def Seq.openBanks (q : Seq) : List Nat := q.banks.filter fun b => !q.ended.contains b

/-- The same sequence of a channel. -/
def Seq.same (a b : Seq) : Bool := a.core = b.core && a.ctx = b.ctx && a.k = b.k && a.host = b.host && (!a.host || a.banks = b.banks)

/-- Replace or remove a sequence of a channel. -/
def putSeq (ck : Nat) (q : Seq) (new : Option Seq) (s : State) : State :=
  let ch := chanAt s ck
  putChan ck { ch with seqs := ch.seqs.filterMap fun e => if e.same q then new else some e } s

/-- Abort the listed banks of one sequence and store what is left of it. -/
def abortSeq (src ck : Nat) (q : Seq) (banks : List Nat) (s : State) : State :=
  let hit := q.openBanks.filter banks.contains
  let s := hit.foldl (fun t b => abortBank src ck q b t) s
  if q.st = .queued then
    let left := q.banks.filter fun b => !hit.contains b
    putSeq ck q (if left.isEmpty then none else some { q with banks := left }) s
  else
    let q' := { q with ended := q.ended ++ hit }
    putSeq ck q (some (if q'.openBanks.isEmpty then { q' with st := .draining } else q')) s

/-- Abort every sequence of a channel. -/
def abortChannel (src ck : Nat) (s : State) : State :=
  (chanAt s ck).seqs.foldl (fun t q => abortSeq src ck q q.banks t) s

/-- Code of a harness state (R254, R356). -/
def HarnessState.code : HarnessState → Nat
  | .off => 0 | .entering => 1 | .on => 2 | .exiting => 3

/-- Capture the freeze record of the controller (R351, R356). -/
def freezeRecord (ck cause bank row col dpa syn : Nat) (s : State) : State :=
  let p := (mcOf (ck / 32)).page
  let ch := chanAt s ck
  let s := wr p .mcsFrzValid 1 (wr p .mcsFrzChan (ck % 32) (wr p .mcsFrzCause cause (wr p .mcsFrzCount 0 s)))
  let s := wr p .mcsErrBank bank (wr p .mcsErrRow row (wr p .mcsErrCol col (wr p .mcsErrDpa dpa s)))
  let s := wr p .mcsSyndrome syn (wr p .mcsFrzEpoch (epochNow s) (wr p .mcsHeldRd ch.rdq.length (wr p .mcsHeldWr (wrEntries ch.wrq) s)))
  let s := wr p .mcsFrzRc (ofSigned 5 ch.rc) (wr p .mcsFrzHm ch.hm.code (wr p .mcsFrzGang ch.gang s))
  let s := (List.range 16).foldl (fun t i =>
    let e := ch.hist.getD i 0
    let cyc := freshVal t % 2 ^ 32
    let t := freshNext t
    if i < ch.hist.length then
      wri p .mcsCmdHist (2 * i) (cyc + (e % 2 ^ 32) * 2 ^ 32) (wri p .mcsCmdHist (2 * i + 1) (e / 2 ^ 32) t)
    else wri p .mcsCmdHist (2 * i) 0 (wri p .mcsCmdHist (2 * i + 1) 0 t)) s
  (List.range 16).foldl (fun t i => wri p .mcsMr i (Config.perPart 1 (ck * 16 + i)) t) s

/-- A freeze cause arrives at a channel (R349-R352). -/
def freeze (ck cause bank row col dpa syn : Nat) (s : State) : State :=
  let p := (mcOf (ck / 32)).page
  let ch := chanAt s ck
  match ch.st with
  | .normal =>
    let n := min 255 (ch.freezes1s + 1)
    let s := putChan ck { ch with st := .frozen, freezes1s := n, storm := ch.storm || 4 ≤ n } s
    let s := if rd s p .mcsFrzValid = 0 then freezeRecord ck cause bank row col dpa syn s else s
    let s := abortChannel 1 ck s
    let s := raise p 16 (count p .mcsFreezes 1 s)
    let s := ledger p 0x80 (ck % 32 + cause * 2 ^ 8) (logErr p 1 0x01 (ck % 32) s)
    if 4 ≤ n then ledger p 0x82 (ck % 32) (raise p 18 s) else s
  | .frozen =>
    if rd s p .mcsFrzValid = 1 ∧ rd s p .mcsFrzChan = ck % 32 then count p .mcsFrzCount 1 s else s
  | .training | .failed => s

/-- A corrected error counts in the CE window of its source (R378). -/
def ceWindow (p : Nat) (s : State) : State :=
  let w := SMap.get (fun _ => {}) s.ceWins p
  let n := if w.opened then w.count + 1 else 1
  let fire := rdi s 0x2028 .fltCeThresh p ≤ n && !(w.opened && w.hit)
  let s := { s with ceWins := SMap.set (fun _ => {}) s.ceWins p ⟨true, n, fire || (w.opened && w.hit)⟩ }
  if fire then logErr p 0 0x20 0 s else s

/-- The spare of the row's subarray is used (R375-R377). -/
def spareUsed (s : State) (rowKey : Nat) : Bool := s.remaps.any fun r => r / 512 = rowKey / 512

/-- A row becomes a repair candidate (R376); `rowKey` is (bank key) × 65,536 + row. `host` marks REPAIR_GO. -/
def candidate (rowKey : Nat) (host : Bool) (s : State) : State :=
  let ck := rowKey / (65536 * 32)
  let p := (mcOf (ck / 32)).page
  let bank := rowKey / 65536 % 32
  let row := rowKey % 65536
  if spareUsed s rowKey then
    ledger p 0x85 (ck % 32 + bank * 2 ^ 16 + row * 2 ^ 21) (logErr p 1 0x21 (bank + (ck % 32) * 2 ^ 5 + row * 2 ^ 10) s)
  else if host || rdi s 0x2028 .fltRepairAuto p = 1 then
    let ch := chanAt s ck
    if ch.repairs.contains rowKey then s else putChan ck { ch with repairs := ch.repairs ++ [rowKey] } s
  else s

/-- A correction counts against its row in the suspect table (R376). -/
def suspect (c : Nat) (s : State) : State :=
  let ck := chanKey c
  let ch := chanAt s ck
  let key := c / 32
  let n := ((ch.suspects.find? fun e => e.row = key).map Suspect.count).getD 0 + 1
  let others := ch.suspects.filter fun e => e.row != key
  if rdi s 0x2028 .fltRowCeThresh (mcPageOf c) ≤ n then
    candidate key false (putChan ck { ch with suspects := others } s)
  else
    let low := (others.map Suspect.count).foldl min 0xFFFFFFFF
    let keep := if others.length < 16 then others else others.eraseP fun e => e.count = low
    putChan ck { ch with suspects := keep ++ [⟨key, n⟩] } s

/-- The integrity counters of a column read, its class being `cls`, through the channel's or a bank unit's decoders
(R365, R366, R378). A state byte that is read as a legal one next to it counts as an on-die correction beside any other class (R360, log
entry 92). -/
def countRead (cls : ColClass) (c : Nat) (s : State) : State :=
  let p := mcPageOf c
  let s := if stateNear s c && cls != .ceOde then suspect c (ceWindow p (counti 0x2028 .fltCeOde p 1 s)) else s
  match cls with
  | .clean => s
  | .ceOde => suspect c (ceWindow p (counti 0x2028 .fltCeOde p 1 s))
  | .ceSym => suspect c (ceWindow p (counti 0x2028 .fltCeSym p 1 s))
  | .stale | .poison => counti 0x2028 .fltPoisonReads p 1 s
  | .ue => candidate (c / 32) false (counti 0x2028 .fltUe p 1 s)

/-- An uncorrectable read by the channel: it freezes with DATA_UE and owes the column's POISON mark (R366). -/
def readUe (c syn : Nat) (s : State) : State :=
  let ch := chanAt s (chanKey c)
  let s := putChan (chanKey c) { ch with owed := if ch.owed.contains c then ch.owed else ch.owed ++ [c] } s
  freeze (chanKey c) 1 (bankOfCol c) (rowOfCol c) (colOfCol c) (dpaOfCol s c) syn s

/-- Poisoned data: the mark, and bytes of which nothing is known (R367). -/
def poisonedBytes (n : Nat) (s : State) : List Byte := leBytes n (freshVal s)

/-- An ordinary read of a column that arrived at stamp `n` (R335, R362): the bytes delivered, whether they are poisoned, and the state
after. -/
def readColAt (n c : Nat) (s : State) : (List Byte × Bool) × State :=
  let q := queuedFor (chanAt s (chanKey c)) c n
  if q.full then
    if q.poison then ((poisonedBytes 32 s, true), freshNext s) else ((q.over [], false), s)
  else
    let r := colLook s c
    let s := countRead r.cls c (access 0x02 c s)
    let s := if r.cls = .ue then readUe c r.syn s else s
    if r.cls = .ue || r.cls = .stale || r.cls = .poison || q.poison then ((poisonedBytes 32 s, true), freshNext s)
    else ((q.over r.data, false), s)

/-- An ordinary read of a column that arrives now. -/
def readCol (c : Nat) (s : State) : (List Byte × Bool) × State := readColAt (chanAt s (chanKey c)).stamp c s

/-- A partial write meets its column (R370): merged, or held in the queue while the channel freezes. -/
def mergeCol (w : WrReq) (s : State) : State :=
  let c := w.col
  let r := colLook s c
  let s := countRead r.cls c (counti 0x2028 .fltMerges (mcPageOf c) 1 (access 0x02 c s))
  match r.cls with
  | .clean | .ceOde | .ceSym => arrayWrite c (w.over r.data) w.poison s
  | .stale | .poison => arrayWrite c (w.over (colBytes s c)) true s
  | .ue => enqueue w (readUe c r.syn s)

/-- Apply a queued entry to the array. -/
def applyWrite (w : WrReq) (s : State) : State :=
  let s := if w.scrub then s else chargeAs w.qos.full (stackOfCol w.col) w.port 32 s
  if w.full then arrayWrite w.col (w.over []) w.poison s else mergeCol w s

/-- An ordinary write of bytes of one column, accepted (R335): applied at once where nothing holds it back, else queued. -/
def writeCol (w : WrReq) (s : State) : State :=
  if isSideCol s w.col then sideWrite w.col s
  else if writeNow s w.port w.col then
    let ch := chanAt s (chanKey w.col)
    applyWrite { (queuedFor ch w.col ch.stamp).join w with qos := qosOf s (stackOfCol w.col) w.port } (dequeueCol w.col s)
  else queueWrite w s

/-- The part of a write to the bytes from `a` that falls into the column at `x`. -/
def colPart (a x : Nat) (bytes : List Byte) : SMap Byte :=
  (bytes.zipIdx.filter fun e => x ≤ a + e.2 && a + e.2 < x + 32).map fun e => (a + e.2 - x, e.1)

/-- The second column of a 64-byte pair of a span from `a`, whose first column lies in the span too (R335). -/
def isMate (a : Nat) (e : Nat × Nat) : Bool := e.1 % 2 = 1 && a < e.2

/-- An ordinary write of a span of DRAM, column by column in rising order. -/
def writeSpan (a : Nat) (bytes : List Byte) (poison : Bool) (port : Nat) (s : State) : State :=
  (colsOf s a bytes.length).foldl (fun t e =>
    writeCol { col := e.1, port := port, data := colPart a e.2 bytes, poison := poison, mate := isMate a e } t) s

/-- Which port of a stack's controller a requester's accesses take (R343). -/
abbrev PortOf := State → Nat → Nat

/-- Read columns one after another, each by `one`. -/
def readCols (one : Nat → State → (List Byte × Bool) × State) : List (Nat × Nat) → State → List (List Byte × Bool) × State
  | [], s => ([], s)
  | e :: es, s =>
    let r := one e.1 s
    let t := readCols one es r.2
    (r.1 :: t.1, t.2)

/-- One 64-byte pair after another of a span's columns that bank units hold open is read in an idle column cycle (R337). -/
def noteIdle (cols : List (Nat × Nat)) (s : State) : State :=
  (cols.filter fun e => gangHolds s (bankKey e.1)).foldl (fun t e =>
    if e.1 % 2 = 1 && cols.any (fun x => x.1 + 1 = e.1) then t else count (mcPageOf e.1) .mcsIdleCycleReads 1 t) s

/-- An ordinary read of `n` bytes of DRAM at `a`: each byte with its poison mark. -/
def readSpan (pt : PortOf) (a n : Nat) (s : State) : List (Byte × Bool) × State :=
  let cols := colsOf s a n
  let r := readCols (fun c t => readCol c (charge (stackOfCol c) (pt t (stackOfCol c)) 32 t)) cols (noteIdle cols s)
  (((r.1.flatMap fun c => c.1.map fun b => (b, c.2)).drop (a % 32)).take n, r.2)

/-- Accesses that a leg holds back are counted once each (R337); `who` is the descriptor that tries them again. -/
def noteWaits (pt : PortOf) (who : Option (Nat × Nat × Nat × Nat)) (cols : List Nat) (s : State) : State :=
  cols.foldl (fun t c =>
    let ch := chanAt t (chanKey c)
    let e : LegWait := ⟨c / 2, pt t (stackOfCol c), who⟩
    if ch.waits.contains e then t
    else count (mcPageOf c) .mcsLegWaits 1 (putChan (chanKey c) { ch with waits := ch.waits ++ [e] } t)) s

/-- The columns of a span with whether a write of it covers them. -/
def spanCols (s : State) (a n : Nat) : List (Nat × Bool) := (colsOf s a n).map fun e => (e.1, a ≤ e.2 && e.2 + 32 ≤ a + n)

/-- The host lines of a span (R439). -/
def linesOf (a n : Nat) : List Nat := if n = 0 then [] else (List.range ((a + n - 1) / 64 - a / 64 + 1)).map (a / 64 + ·)

/-- Back-invalidate a line that the host holds, once (R439). -/
def backInvalidate (line : Nat) (s : State) : State :=
  if s.snoop.contains line && !s.biWait.contains line then
    emit (.backInvalidate line) { s with biWait := s.biWait ++ [line] }
  else s

/-- No host copy stands in the way of an access to the lines. -/
def snoopClear (s : State) (lines : List Nat) : Bool := lines.all fun l => !s.snoop.contains l

/-- Back-invalidate every listed line that the host holds. -/
def snoopLines (lines : List Nat) (s : State) : State := lines.foldl (fun t l => backInvalidate l t) s

end Sys2Proof.Machine
end

