-- ==== Sys2Proof/Machine/Epoch.lean ====
section
/-!
DEFINITION. The epoch unit (R52-R71): serial comparison, the holding bound, milestones and their actions, configuration
sets, version commands and advances. Ledger records are raised through `ledger`.
-/

namespace Sys2Proof.Machine

/-- Page of the epoch unit. -/
abbrev pgEpo : Nat := 0x2018

/-- The serial difference from `a` to `b` (R52). -/
def serialDiff (a b : Nat) : Nat := (b + 2 ^ 32 - a % 2 ^ 32) % 2 ^ 32

/-- `a` is before `b` (R52). -/
def epochBefore (a b : Nat) : Bool := 1 ≤ serialDiff a b && serialDiff a b ≤ 2 ^ 31 - 1

/-- `a` is at or before `b` (R52). -/
def epochAtOrBefore (a b : Nat) : Bool := serialDiff a b = 0 || epochBefore a b

/-- Within 2^30 - 1 on either side (R53). -/
def epochNear (a b : Nat) : Bool := serialDiff a b < 2 ^ 30 || serialDiff b a < 2 ^ 30

/-- The ARMED milestone slots, as (page, slot): the entries of MS_STATE that hold 1. -/
def armedSlots (s : State) : List (Nat × Nat) :=
  (s.regs.filter fun e => e.1 / 16384 % 1024 = Fld.hdrMsState.ctorIdx && e.2 = 1).map fun e => (e.1 / 16384 / 1024, e.1 % 16384)

/-- A slot of the version table that holds its epochs (R53). -/
def VSlot.live (v : VSlot) : Bool := v.st = .open || v.st = .closed || v.st = .held

/-- Every epoch held, with its FLOOR_KIND and FLOOR_ID (R53, R71). -/
def epochHolders (s : State) : List (Nat × Nat × Nat) :=
  (s.ctxs.filterMap fun e => if e.2.bound then some (if e.2.journal = 2 then 2 else 1, e.1, e.2.snap) else none)
  ++ (s.vslots.flatMap fun e => if e.2.st = .open then [(3, e.1, e.2.start)]
      else if e.2.live then [(3, e.1, e.2.start), (3, e.1, e.2.fin)] else [])
  ++ (armedSlots s).map fun e => (4, e.1 * 4 + e.2, rdi s e.1 .hdrMsEpoch e.2)

/-- The holder that sets the floor: the largest distance, then the lowest kind, then the lowest id (R54). Nothing held:
kind 0 at EPOCH_NOW. -/
def floorHolder (s : State) : Nat × Nat × Nat :=
  let now := epochNow s
  (epochHolders s).foldl (fun best h =>
    let d := serialDiff h.2.2 now
    let b := serialDiff best.2.2 now
    if d < 2 ^ 31 && (best.1 = 0 || b < d || (b = d && (h.1 < best.1 || (h.1 = best.1 && h.2.1 < best.2.1)))) then h
    else best) (0, 0, now)

/-- EPOCH_FLOOR (R53). -/
def epochFloor (s : State) : Nat := (floorHolder s).2.2

/-- FLOOR_WARN is raised when the distance rises to the margin (R54). -/
def floorCheck (s : State) : State :=
  let above : Bool := 2 ^ 30 - 2 ^ rd s pgEpo .epoWarnExp ≤ serialDiff (epochFloor s) (epochNow s)
  let s1 := if above && !s.floorAbove then raise pgEpo 16 s else s
  { s1 with floorAbove := above }

/-- Sum of RATE over ports 0-45 of the active set (R346). -/
def qosSum (s : State) (p : Nat) : Nat := ((List.range 46).map fun i => rdi s p .mcsRate i).sum

/-- QOS_CAP (R346). -/
def qosCap (s : State) (p : Nat) : Nat := if rd s p .mcsRef2x = 1 then 1638 else 1843

/-- QOS_OVERSUB is set when QOS_SUM rises above QOS_CAP (R346, R354); `was` says it was above before. -/
def qosEdge (p : Nat) (was : Bool) (s : State) : State :=
  if !was && qosCap s p < qosSum s p then raise p 20 s else s

/-- Store a set of values of one unit, returning the values they replace. -/
def swapSet (vals : List SetVal) (s : State) : List SetVal × State :=
  vals.foldl (fun r v => (r.1 ++ [{ v with val := rdi r.2 v.page v.fld v.idx }], wri v.page v.fld v.idx v.val r.2)) ([], s)

/-- The unit's bank flip that activation and rollback share: the other values become active, GEN rises (R66, R39). -/
def flipSet (p prevValid : Nat) (vals : List SetVal) (s : State) : State :=
  let was : Bool := qosCap s p < qosSum s p
  let r := swapSet vals s
  let s := r.2
  let s := { s with staging := s.staging.filter (·.page != p)
                    prevSet := s.prevSet.filter (·.page != p) ++ (if prevValid = 1 then r.1 else []) }
  let s := wr p .hdrActiveBank (1 - rd s p .hdrActiveBank) (wr p .hdrPrevValid prevValid (wr p .hdrStaged 0 s))
  let s := raise p 3 (wr p .hdrActiveGen (rd s p .hdrActiveGen + 1) s)
  match unitAt p with
  | some (.mc _ _) => qosEdge p was s
  | _ => s

/-- CFG_ACTIVATE with ARG 0 (R66): with nothing staged the ledger records NO_STAGED. -/
def cfgActivate (p slot : Nat) (s : State) : State :=
  if rd s p .hdrStaged = 0 then ledger p 0x02 (slot + rd s p .hdrActiveGen * 2 ^ 8) s
  else flipSet p 1 (s.staging.filter (·.page = p)) s

/-- Discard the staged set (R65, R39). -/
def discardStaged (p : Nat) (s : State) : State :=
  wr p .hdrStaged 0 { s with staging := s.staging.filter (·.page != p) }

/-- Copy a write of a set field into the staging buffer (R66). -/
def stageField (p : Nat) (f : Fld) (i v : Nat) (s : State) : State :=
  wr p .hdrStaged 1 { s with staging := (s.staging.filter fun e => !(e.page = p && e.fld = f && e.idx = i)) ++ [⟨p, f, i, v % 2 ^ f.row.width⟩] }

/-- A snapshot lies in the half-open range of a version slot. -/
def VSlot.covers (v : VSlot) (snap : Nat) : Bool :=
  epochAtOrBefore v.start snap && (v.st = .open || epochBefore snap v.fin)

/-- A bound context or a journal holds a snapshot in the slot's range (R64). -/
def snapshotIn (s : State) (v : VSlot) : Bool :=
  s.ctxs.any fun e => e.2.bound && v.covers e.2.snap

/-- The conditions of R64. -/
def mayRetire (s : State) (v : VSlot) : Bool := epochAtOrBefore v.fin (epochNow s) && !snapshotIn s v

/-- A drover's frames. -/
def poolAt (d : Drover) (i : Nat) : Pool := SMap.get (fun _ => {}) d.pools i

/-- A drover. -/
def droverAt (s : State) (n : Nat) : Drover := SMap.get (fun _ => {}) s.drovers n

/-- Store a drover. -/
def putDrover (n : Nat) (d : Drover) (s : State) : State := { s with drovers := SMap.set (fun _ => {}) s.drovers n d }

/-- The frame holds a page of version slot `k` (region × 4 + slot) with its GEN. -/
def Frame.isOf (f : Frame) (k gen : Nat) : Bool := f.region * 4 + f.slot = k && f.gen = gen

/-- The drover still holds staged pages of the version (R62, R315). -/
def droverHolds (s : State) (n k : Nat) : Bool :=
  let gen := (vslotAt s k).gen
  (droverAt s n).pools.any fun p => p.2.frames.any fun e => (e.2.map fun f => f.isOf k gen).getD false

/-- Free every frame of a pool that `p` selects; a frame still filling is freed when its fill lands (R321). -/
def Pool.evict (pool : Pool) (p : Frame → Bool) : Pool :=
  { pool with frames := pool.frames.filterMap fun e =>
      match e.2 with
      | some f => if p f then (if f.filling then some (e.1, some { f with doomed := true }) else none) else some e
      | none => none }

/-- DROVER_EVICT frees the frames of the version in all pools and counts them in EVICTED (R321, R329). -/
def droverEvict (n k : Nat) (s : State) : State :=
  let gen := (vslotAt s k).gen
  let d := droverAt s n
  let s := d.pools.foldl (fun t e =>
    let hit := (e.2.frames.filter fun x => (x.2.map fun f => f.isOf k gen && !f.filling).getD false).length
    counti (UnitId.dr n).page .drvEvicted e.1 hit t) s
  putDrover n { d with pools := d.pools.map fun e => (e.1, e.2.evict fun f => f.isOf k gen) } s

/-- A slot reads FIRED. -/
def msFired (p i : Nat) (s : State) : State := raise p 2 (wri p .hdrMsState i 2 s)

/-- A slot reads REFUSED. -/
def msRefused (p i : Nat) (s : State) : State := raise p 2 (wri p .hdrMsState i 3 s)

/-- VERSION_RETIRE of slot `k` by milestone (p, i) (R64). -/
def versionRetire (p i k : Nat) (s : State) : State :=
  let v := vslotAt s k
  match v.st with
  | .open | .free => msRefused p i s
  | .retired => msFired p i s
  | .closed | .held =>
    if mayRetire s v then msFired p i (putVslot k { v with st := .retired } s)
    else if v.st = .closed then
      ledger p 0x04 (k + v.gen * 2 ^ 8 + v.start * 2 ^ 16 + v.fin * 2 ^ 48) (raise pgEpo 19 (putVslot k { v with st := .held } s))
    else s

/-- Page of the management unit. -/
abbrev pgMgt : Nat := 0x2038

/-- A component 2-5 has not switched to its selected bank (R513, R515). -/
def fwPending (s : State) : Bool := (rd s pgMgt .mgtFwBank ^^^ rd s pgMgt .mgtFwRun) / 4 != 0

/-- Evaluate one milestone slot: it fires when EPOCH_NOW is at or after its EPOCH and nothing holds its action
(R65), once its unit has power (R482). -/
def milestoneEval (p i : Nat) (s : State) : State :=
  if !pagePowered s p || rdi s p .hdrMsState i != 1 || !epochAtOrBefore (rdi s p .hdrMsEpoch i) (epochNow s) then s
  else
    let arg := rdi s p .hdrMsArg i
    match rdi s p .hdrMsAction i with
    | 1 =>
      if p = pgMgt && s.fwSlots.contains i then
        if fwPending s then s else msFired p i { s with fwSlots := s.fwSlots.filter (· != i) }
      else if arg = 0 then
        let t := cfgActivate p i s
        if p = pgMgt && fwPending t then { t with fwSlots := t.fwSlots ++ [i] } else msFired p i t
      else msFired p i (discardStaged p s)
    | 2 => versionRetire p i arg s
    | 3 =>
      match unitAt p with
      | some (.dr n) =>
        if (vslotAt s arg).st != .retired then s
        else
          let s := droverEvict n arg s
          if droverHolds s n arg then s else msFired p i s
      | _ => s
    | 4 =>
      let g := 1 - rdi s pgEpo .epoLdgGen p
      msFired p i (ledger p 0x01 (i + g * 2 ^ 8) (wri pgEpo .epoLdgGen p g s))
    | _ => msFired p i s

/-- Evaluate every armed slot, and again the ones that a retirement released (R58, R65); the floor warning is evaluated after each, as each
may change EPOCH_FLOOR (R54). -/
def epochSettle (s : State) : State :=
  let pass (t : State) := (armedSlots t).foldl (fun t e => floorCheck (milestoneEval e.1 e.2 t)) t
  floorCheck (pass (pass s))

/-- The class of page `p` accepts the action with the argument (R65). R65 lists no class for ACTION 0 NONE: every unit accepts it, and
the slot fires with no effect (DESIGN CHOICE, log entry 77). -/
def actionAccepted (u : UnitId) (action arg : Nat) : Bool :=
  match action with
  | 0 => true
  | 1 => u.cfgVersioned && arg ≤ 1
  | 2 => u = .epo
  | 3 => match u with | .dr _ => true | _ => false
  | 4 => u.ownsLedger && arg = 0
  | _ => false

/-- Arm a milestone slot with its stored EPOCH, ACTION and ARG (R41, R53). -/
def milestoneArm (p i : Nat) (u : UnitId) (s : State) : State :=
  if rdi s p .hdrMsState i = 1 then s
  else if actionAccepted u (rdi s p .hdrMsAction i) (rdi s p .hdrMsArg i) && epochNear (rdi s p .hdrMsEpoch i) (epochNow s) then
    epochSettle (wri p .hdrMsState i 1 s)
  else msRefused p i s

/-- Disarm a milestone slot (R41). The spec names no way out of HELD for a version slot whose VERSION_RETIRE is abandoned (R65): it
stays HELD until another VERSION_RETIRE is armed on it (DESIGN CHOICE, log entry 77). -/
def milestoneDisarm (p i : Nat) (s : State) : State :=
  if rdi s p .hdrMsState i = 1 then
    floorCheck (wri p .hdrMsState i 0 (if p = pgMgt then { s with fwSlots := s.fwSlots.filter (· != i) } else s))
  else s

/-- The result code of an advance to `n` (R55); `refusedSource` says R56 turns it away. -/
def advanceCode (s : State) (n : Nat) (refusedSource : Bool) : Nat :=
  let d := serialDiff (epochNow s) n
  if refusedSource then 4
  else if d = 0 then 1
  else if 2 ^ 31 + 1 ≤ d then 2
  else if 2 ^ 30 ≤ serialDiff (epochFloor s) n then 3
  else 0

/-- An advance that was not accepted counts, unless it is a no-op (R71). -/
def advanceRefused (s : State) : State := raise pgEpo 17 (count pgEpo .epoAdvRefused 1 s)

/-- An accepted advance: EPOCH_NOW moves, ERA rises at wrap, the floor warning is evaluated (R54), milestones fire (R55, R58, R59). -/
def advanceAccept (n : Nat) (s : State) : State :=
  let s := if n < epochNow s then wr pgEpo .epoEpochEra (rd s pgEpo .epoEpochEra + 1) s else s
  epochSettle (floorCheck (wr pgEpo .epoEpochNow n s))

/-- One advance under R55. -/
def advance (n : Nat) (refusedSource : Bool) (s : State) : State :=
  let r := advanceCode s n refusedSource
  let s := wr pgEpo .epoAdvResult r s
  if r = 0 then advanceAccept n s else if r = 1 then s else advanceRefused s

/-- START of every OPEN, CLOSED and HELD slot of the region is before `start` (R62). -/
def startIsLast (s : State) (region start : Nat) : Bool :=
  (List.range 4).all fun i => let v := vslotAt s (region * 4 + i); !v.live || epochBefore v.start start

/-- A version gets its END (R62), and with it the tags of its staged pages (R317, R319). -/
def closeVersion (k fin : Nat) (s : State) : State :=
  let v := vslotAt s k
  let tag (f : Frame) : Frame := if f.isOf k v.gen then { f with endAt := some fin } else f
  let s := { s with drovers := s.drovers.mapv {} fun _ d => { d with pools := d.pools.mapv {} fun _ x =>
    { x with frames := x.frames.mapv none fun _ e => e.map tag } } }
  putVslot k { v with st := .closed, fin := fin } s

/-- INSTALL (R62). -/
def vcInstall (region slot : Nat) (s : State) : Nat × State :=
  let k := region * 4 + slot
  let v := vslotAt s k
  let start := rd s pgEpo .epoVcmdStart
  if v.st != .free then (1, s)
  else if !(epochBefore (epochNow s) start && epochNear start (epochNow s) && startIsLast s region start) then (2, s)
  else
    let s := (List.range 4).foldl (fun t i =>
      if (vslotAt t (region * 4 + i)).st = .open then closeVersion (region * 4 + i) start t else t) s
    (0, putVslot k { st := .open, start := start, fin := 0, base := rd s pgEpo .epoVcmdBase, gen := (v.gen + 1) % 256 } s)

/-- CLOSE (R62). -/
def vcClose (region slot : Nat) (s : State) : Nat × State :=
  let k := region * 4 + slot
  let v := vslotAt s k
  let fin := rd s pgEpo .epoVcmdEnd
  if v.st != .open then (3, s)
  else if !(epochBefore (epochNow s) fin && epochBefore v.start fin && epochNear fin (epochNow s)) then (2, s)
  else (0, closeVersion k fin s)

/-- Code of a version slot's state (R63). -/
def VState.code : VState → Nat
  | .free => 0 | .open => 1 | .closed => 2 | .held => 3 | .retired => 4

/-- QUERY (R62, R71). -/
def vcQuery (region slot : Nat) (s : State) : Nat × State :=
  let v := vslotAt s (region * 4 + slot)
  let e := if v.st = .free || v.st = .open then 0 else v.fin
  (0, wr pgEpo .epoVcmdEnd e (wr pgEpo .epoVsEpoch (if v.st = .free then 0 else v.start) (wr pgEpo .epoVsGen v.gen
    (wr pgEpo .epoVsState v.st.code s))))

/-- FREE (R62). The freed slot keeps its GEN, which counts installs (03, Versioned regions). -/
def vcFree (region slot : Nat) (s : State) : Nat × State :=
  let k := region * 4 + slot
  let v := vslotAt s k
  if v.st = .free then (0, s)
  else if v.live then (1, s)
  else if (List.range 4).any fun n => droverHolds s n k then (4, s)
  else (0, putVslot k { gen := v.gen } s)

/-- Run a version command and report VC_RESULT; VC_GO reads 0 again when it is done (R62, R71). -/
def vcmd (op region slot : Nat) (s : State) : State :=
  let r := match op with
    | 1 => vcInstall region slot s
    | 2 => vcClose region slot s
    | 3 => vcQuery region slot s
    | 4 => vcFree region slot s
    | _ => (0, s)
  floorCheck (wr pgEpo .epoVcGo 0 (wr pgEpo .epoVcResult r.1 r.2))

/-- Set VC_REGION, VC_SLOT and VC_OP as the write that carries VC_GO does, then run the command. -/
def vcmdWrite (op region slot : Nat) (s : State) : State :=
  vcmd op (region % 64) (slot % 4) (wr pgEpo .epoVcRegion region (wr pgEpo .epoVcSlot slot (wr pgEpo .epoVcOp op s)))

/-- Result of a command of this model: the next state. -/
abbrev Result := Host.Outcome State Fault Refusal

/-- INSTALL (R62). -/
def execInstall (region slot : Nat) (s : State) : Result := .next (vcmdWrite 1 region slot s)

/-- CLOSE (R62). -/
def execClose (region slot : Nat) (s : State) : Result := .next (vcmdWrite 2 region slot s)

/-- QUERY (R62). -/
def execQuery (region slot : Nat) (s : State) : Result := .next (vcmdWrite 3 region slot s)

/-- FREE (R62). -/
def execFree (region slot : Nat) (s : State) : Result := .next (vcmdWrite 4 region slot s)

end Sys2Proof.Machine
end

