-- ==== Sys2Proof/Machine/Spad.lean ====
section
/-!
DEFINITION. The core scratchpad: wide and narrow accesses (R200-R204, R364-R367, R371) and the scoreboard (R206-R213).
-/

namespace Sys2Proof.Machine

/-- Bytes of a scratchpad (R199). -/
abbrev spadSize : Nat := 0x1800000

/-- Page of the SPD unit of core `g`. -/
def spdPage (g : Nat) : Nat := (coreUnit g).page + 5

/-- An uncorrectable word is found for the first time (R366): counted, SP_UE captured, its mark pending. -/
def spadUe (g w : Nat) (s : State) : State :=
  let x := spadAt s g
  if x.marks.contains w then s
  else
    let s := logErr (spdPage g) 1 0x21 (8 * w) (counti 0x2028 .fltUe (spdPage g) 1 s)
    putSpad g { x with marks := x.marks ++ [w] } s

/-- Read one word through SECDED: its bytes and whether they are poisoned (R364, R366). -/
def readWordSp (g w : Nat) (s : State) : (List Byte × Bool) × State :=
  let raw := spadBytes s g (8 * w) 8
  match wordLook s g w with
  | .clean => ((raw, false), s)
  | .corrected d => ((leBytes 8 d, false), ceWindow (spdPage g) (counti 0x2028 .fltCeOde (spdPage g) 1 s))
  | .poison => ((leBytes 8 (freshVal s), true), freshNext (counti 0x2028 .fltPoisonReads (spdPage g) 1 s))
  | .ue =>
    let s := spadUe g w s
    ((leBytes 8 (freshVal s), true), freshNext s)

/-- Read one word as its latest write left it (R204): the bytes that a buffer holds dirty over the stored ones. -/
def readBuffered (g w : Nat) (s : State) : (List Byte × Bool) × State :=
  match ((spadAt s g).nbufs.find? (·.line = w / 256)).bind fun b => b.dirty.find? (·.word = w % 256) with
  | none => readWordSp g w s
  | some d =>
    if d.mask = 0xFF then
      if d.poison then ((leBytes 8 (freshVal s), true), freshNext s) else ((leBytes 8 d.data, false), s)
    else
      let r := readWordSp g w s
      let bytes := (List.range 8).map fun i => if bit d.mask i = 1 then (leBytes 8 d.data).getD i 0 else r.1.1.getD i 0
      ((bytes, r.1.2 || d.poison), r.2)

/-- Read words one after another. -/
def readWordsSp (g : Nat) : List Nat → State → List (List Byte × Bool) × State
  | [], s => ([], s)
  | w :: ws, s =>
    let r := readBuffered g w s
    let t := readWordsSp g ws r.2
    (r.1 :: t.1, t.2)

/-- The words of a span. -/
def wordsOf (off n : Nat) : List Nat := if n = 0 then [] else (List.range ((off + n - 1) / 8 - off / 8 + 1)).map (off / 8 + ·)

/-- The aligned 2 KiB lines that a span touches (R199). -/
def spLines (off n : Nat) : List Nat := if n = 0 then [] else (List.range ((off + n - 1) / 2048 + 1 - off / 2048)).map (off / 2048 + ·)

/-- Who takes a line slot (R200, R216): an engine, the movement engine or the narrow view. -/
inductive SlotUse where
  | engine | tmv | narrow
deriving DecidableEq, Repr

/-- The counter of the SPD page that counts the slots taken (R216). -/
def slotFld : SlotUse → Fld
  | .engine => .spdSlotEngine
  | .tmv => .spdSlotTmv
  | .narrow => .spdSlotNarrow

/-- Line slots are taken and counted (R200, R216). -/
def takeSlots (f : SlotUse) (g n : Nat) (s : State) : State := count (spdPage g) (slotFld f) n s

/-- Read `n` scratchpad bytes: each byte with its poison mark. -/
def readSp (g off n : Nat) (s : State) : List (Byte × Bool) × State :=
  let r := readWordsSp g (wordsOf off n) s
  (((r.1.flatMap fun c => c.1.map fun b => (b, c.2)).drop (off % 8)).take n, r.2)

/-- What is left of a dirty word after bytes `mask` of word `w` were written in the bank. -/
def NWord.cut (w mask : Nat) (d : NWord) : Option NWord :=
  if d.word != w then some d
  else if (d.mask &&& (0xFF - mask)) = 0 then none
  else some { d with mask := d.mask &&& (0xFF - mask) }

/-- The buffered copies of a word take a write of its array cells (R204): a dirty copy is superseded in the bytes written. -/
def updateBufs (g w mask : Nat) (s : State) : State :=
  let x := spadAt s g
  if x.nbufs.any (fun b => b.line = w / 256 && b.dirty.any fun d => d.word = w % 256) then
    putSpad g { x with nbufs := x.nbufs.map fun b =>
      if b.line = w / 256 then { b with dirty := b.dirty.filterMap (NWord.cut (w % 256) mask) } else b } s
  else s

/-- The pending mark of a word that is written whole is not written any more (R366). -/
def supersede (g w : Nat) (s : State) : State :=
  let x := spadAt s g
  if x.marks.contains w then putSpad g { x with marks := x.marks.filter (· != w) } s else s

/-- Write bytes of one word in the bank: `part` gives the new bytes by place. A whole clean word is sealed; a partial one is
merged, and a POISON or uncorrectable word stays or becomes POISON (R367, R371). -/
def writeWordSp (g w : Nat) (part : SMap Byte) (poison : Bool) (s : State) : State :=
  let whole := part.length = 8
  let look := wordLook s g w
  let base := match look with
    | .corrected d => leBytes 8 d
    | _ => spadBytes s g (8 * w) 8
  let new := (List.range 8).map fun i => SMap.get (fun j => base.getD j 0) part i
  let s := if whole then supersede g w s else s
  let s := match look with
    | .corrected _ => if whole then s else ceWindow (spdPage g) (counti 0x2028 .fltCeOde (spdPage g) 1 s)
    | .ue => if whole then s else supersede g w (spadUe g w s)
    | _ => s
  let s := sealWord g w new s
  if poison || (!whole && (look = .poison || look = .ue)) then poisonWord g w s else s

/-- The part of a write from `off` that falls into word `w`. -/
def wordPart (off w : Nat) (bytes : List Byte) : SMap Byte :=
  (bytes.zipIdx.filter fun e => (off + e.2) / 8 = w).map fun e => ((off + e.2) % 8, e.1)

/-- Write bytes that carry a mark each in the banks: buffered copies are updated, and a word is marked when any byte it receives is
poisoned (R204, R367). -/
def writeBanks (g off : Nat) (bytes : List (Byte × Bool)) (s : State) : State :=
  (wordsOf off bytes.length).foldl (fun t w =>
    let part := wordPart off w (bytes.map Prod.fst)
    let bad := (bytes.zipIdx.filter fun e => (off + e.2) / 8 = w).any fun e => e.1.2
    let mask := (part.map fun e => 2 ^ e.1).sum
    writeWordSp g w part bad (updateBufs g w mask t)) s

/-- Write back the dirty words of one buffer with one line slot (R203, R371). -/
def bufBack (g line : Nat) (s : State) : State :=
  match (spadAt s g).nbufs.find? (fun b => b.line = line && !b.dirty.isEmpty) with
  | none => s
  | some b =>
    let s := b.dirty.foldl (fun t d =>
      let part := ((leBytes 8 d.data).zipIdx.filter fun e => bit d.mask e.2 = 1).map fun e => (e.2, e.1)
      writeWordSp g (256 * line + d.word) part d.poison t) s
    let x := spadAt s g
    count (spdPage g) .spdSlotNarrow 1
      (putSpad g { x with nbufs := x.nbufs.map fun b => if b.line = line then { b with dirty := [] } else b } s)

/-- Write back every dirty buffer of a core (R204). -/
def allBufsBack (g : Nat) (s : State) : State := ((spadAt s g).nbufs.map NBuf.line).foldl (fun t l => bufBack g l t) s

/-- Make `b` the buffer used last. -/
def touchBuf (g : Nat) (b : NBuf) (s : State) : State :=
  let x := spadAt s g
  putSpad g { x with nbufs := x.nbufs.filter (·.line != b.line) ++ [b] } s

/-- The buffer of a line, allocated into the least recently used one when no buffer holds it (R203). -/
def getBuf (g line : Nat) (s : State) : NBuf × State :=
  match (spadAt s g).nbufs.find? (·.line = line) with
  | some b => (b, s)
  | none =>
    if (spadAt s g).nbufs.length < 16 then ({ line := line }, s)
    else
      let s := bufBack g (((spadAt s g).nbufs.head?.map NBuf.line).getD 0) s
      let x := spadAt s g
      ({ line := line }, putSpad g { x with nbufs := x.nbufs.drop 1 } s)

/-- Allocating a buffer for the line takes a line slot: the least recently used one holds dirty words (R203). -/
def evicts (x : Spad) (line : Nat) : Bool :=
  !(x.nbufs.any fun b => b.line = line) && 16 ≤ x.nbufs.length && x.nbufs.head?.any fun b => !b.dirty.isEmpty

/-- A narrow write of one word with a byte mask (R202, R203, R216): it needs a line slot only to evict a dirty line. -/
def narrowWrite (g w mask data : Nat) (poison : Bool) (s : State) : State :=
  let s := count (spdPage g) (if evicts (spadAt s g) (w / 256) then .spdNbMisses else .spdNbHits) 1 s
  let r := getBuf g (w / 256) s
  let old := (r.1.dirty.find? (·.word = w % 256)).getD { word := w % 256 }
  let d := (List.range 8).foldl (fun v i => if bit mask i = 1 then setBits v (8 * i + 7) (8 * i) (bits data (8 * i + 7) (8 * i)) else v) old.data
  let new : NWord := { old with mask := old.mask ||| mask, data := d, poison := poison || (old.poison && mask != 0xFF) }
  let s := if mask = 0xFF && !poison then supersede g w r.2 else r.2
  touchBuf g { r.1 with valid := setBits r.1.valid (w % 256) (w % 256) 1, dirty := r.1.dirty.filter (·.word != w % 256) ++ [new] } s

/-- A narrow read of one word (R203): a word that no buffer holds valid fills its line with one line slot. -/
def narrowRead (g w : Nat) (s : State) : (List Byte × Bool) × State :=
  let r := getBuf g (w / 256) s
  let s := if bit r.1.valid (w % 256) = 1 then touchBuf g r.1 (count (spdPage g) .spdNbHits 1 r.2)
    else touchBuf g { r.1 with valid := 2 ^ 256 - 1 } (count (spdPage g) .spdNbMisses 1 (takeSlots .narrow g 1 r.2))
  readBuffered g w s

/-- The bytes that a narrow access brings to one word: the last one given for each place. -/
def lastAt (parts : List (Nat × (Byte × Bool))) : List (Nat × (Byte × Bool)) :=
  (List.range 8).filterMap fun i => (parts.filter fun e => e.1 = i).getLast?

/-- One narrow write of the bytes given by their places in a word (R202). -/
def narrowPut (g w : Nat) (parts : List (Nat × (Byte × Bool))) (s : State) : State :=
  let l := lastAt parts
  narrowWrite g w ((l.map fun e => 2 ^ e.1).sum) ((l.map fun e => e.2.1.toNat * 256 ^ e.1).sum) (l.any fun e => e.2.2) s

/-- The marked bytes of a write from `off` that fall into word `w`, by their places. -/
def markedPart (off w : Nat) (bytes : List (Byte × Bool)) : List (Nat × (Byte × Bool)) :=
  (bytes.zipIdx.filter fun e => (off + e.2) / 8 = w).map fun e => ((off + e.2) % 8, e.1)

/-- Write bytes through the narrow view, word by word (R202). -/
def writeNarrow (g off : Nat) (bytes : List (Byte × Bool)) (s : State) : State :=
  (wordsOf off bytes.length).foldl (fun t w => narrowPut g w (markedPart off w bytes) t) s

/-- Write bytes to a scratchpad (R200): whole sectors through the wide view, a line slot for each line taken by `f`, parts of sectors
through the narrow view. -/
def writeSp (f : SlotUse) (g off : Nat) (bytes : List (Byte × Bool)) (s : State) : State :=
  let lo := min bytes.length ((32 - off % 32) % 32)
  let mid := (bytes.length - lo) / 32 * 32
  let s := writeNarrow g off (bytes.take lo) s
  let s := writeBanks g (off + lo) ((bytes.drop lo).take mid) (takeSlots f g (spLines (off + lo) mid).length s)
  writeNarrow g (off + lo + mid) (bytes.drop (lo + mid)) s

/-- Read bytes through the wide view (R200): whole sectors, a line slot for each line taken by `f`; a byte is marked with its word. -/
def readWide (f : SlotUse) (g off n : Nat) (s : State) : List (Byte × Bool) × State :=
  if n = 0 then ([], s) else
  let lo := off / 32
  let r := readSp g (32 * lo) (32 * ((off + n - 1) / 32 + 1 - lo)) (takeSlots f g (spLines off n).length s)
  ((r.1.drop (off % 32)).take n, r.2)

/-- Read bytes through the narrow view, word by word (R202). -/
def readNarrow (g off n : Nat) (s : State) : List (Byte × Bool) × State :=
  let r := (wordsOf off n).foldl (fun (acc : List (Byte × Bool) × State) w =>
    let t := narrowRead g w acc.2
    (acc.1 ++ t.1.1.map fun b => (b, t.1.2), t.2)) ([], s)
  ((r.1.drop (off % 8)).take n, r.2)

/-- Entries of a descriptor, before they are registered: kind and span in bytes, half-open (R206). -/
structure SbSpan where
  kind : SbKind
  lo : Nat
  hi : Nat
deriving DecidableEq, Repr

/-- The entry that a span registers, rounded outward to sectors (R206). -/
def SbSpan.entry (x : SbSpan) (q ctx wb : Nat) : SbEntry := ⟨x.lo / 32, (x.hi + 31) / 32, x.kind, q, ctx, wb, 0⟩

/-- A WRITE or CLAIM_WRITE entry. -/
def SbKind.writes : SbKind → Bool
  | .write | .claimWrite => true
  | _ => false

/-- A claim. -/
def SbKind.isClaim : SbKind → Bool
  | .claimRead | .claimWrite => true
  | _ => false

/-- Two entries conflict (R207). -/
def SbEntry.conflicts (a b : SbEntry) : Bool := a.lo < b.hi && b.lo < a.hi && (a.kind.writes || b.kind.writes)

/-- An entry takes the lowest free place of the scoreboard (R217). -/
def sbPut (sb : List SbEntry) (e : SbEntry) : List SbEntry :=
  sb ++ [{ e with slot := ((List.range 96).find? fun i => !sb.any fun o => o.slot = i).getD 0 }]

/-- The claim that the descriptor has placed. -/
def hasClaim (x : Spad) (q ctx wb : Nat) : Bool := x.sb.any fun e => e.kind.isClaim && e.q = q && e.ctx = ctx && e.wb = wb

/-- The entries that may refuse the descriptor: held ones, and the claims older than its own (R212). -/
def sbAgainst (x : Spad) (q ctx wb : Nat) : List SbEntry :=
  if hasClaim x q ctx wb then
    x.sb.filter (fun e => !e.kind.isClaim) ++
      (x.sb.takeWhile fun e => !(e.kind.isClaim && e.q = q && e.ctx = ctx && e.wb = wb)).filter fun e => e.kind.isClaim
  else x.sb

/-- An entry or a claim conflicts with one of the spans (R207, R212). -/
def sbConflict (x : Spad) (spans : List SbSpan) (q ctx wb : Nat) : Bool :=
  spans.any fun p => (sbAgainst x q ctx wb).any fun o => (p.entry q ctx wb).conflicts o

/-- The spans do not fit in the free entries, to which the descriptor's own claim adds (R211). -/
def sbLacks (x : Spad) (spans : List SbSpan) (q ctx wb : Nat) : Bool :=
  let own := (x.sb.filter fun e => e.kind.isClaim && e.q = q && e.ctx = ctx && e.wb = wb).length
  96 < x.sb.length - own + spans.length

/-- The scoreboard admits the spans (R207, R211, R212). -/
def sbAdmits (x : Spad) (spans : List SbSpan) (q ctx wb : Nat) : Bool := !sbConflict x spans q ctx wb && !sbLacks x spans q ctx wb

/-- Entries held, for SB_PEAK. -/
def notePeak (g : Nat) (s : State) : State :=
  let n := (spadAt s g).sb.length
  if rd s (spdPage g) .spdSbPeak < n then wr (spdPage g) .spdSbPeak n s else s

/-- Register the spans of a descriptor that starts; its claim goes and clean buffered words of the spans' lines are
invalidated (R204, R206, R212). -/
def sbRegister (g : Nat) (spans : List SbSpan) (q ctx wb : Nat) (s : State) : State :=
  if spans.isEmpty then s else
  let x := spadAt s g
  let keep := x.sb.filter fun e => !(e.kind.isClaim && e.q = q && e.ctx = ctx && e.wb = wb)
  let bufs := x.nbufs.map fun b =>
    if spans.any (fun p => p.lo / 2048 ≤ b.line && b.line * 2048 < p.hi) then
      { b with valid := (b.dirty.map fun d => 2 ^ d.word).sum } else b
  notePeak g (putSpad g { x with sb := (spans.map (·.entry q ctx wb)).foldl sbPut keep, nbufs := bufs, lastAdmit := q } s)

/-- Write back the buffers with dirty words inside a span of sectors (R204). -/
def spanBack (g : Nat) (e : SbEntry) (s : State) : State :=
  ((spadAt s g).nbufs.filter fun b => b.dirty.any fun d =>
      let w := 256 * b.line + d.word
      e.lo ≤ w / 4 && w / 4 < e.hi).foldl (fun t b => bufBack g b.line t) s

/-- Release the entries of a descriptor that `p` selects (R209, R213). -/
def sbRelease (g q ctx wb : Nat) (p : SbEntry → Bool) (s : State) : State :=
  let mine (e : SbEntry) : Bool := !e.kind.isClaim && e.q = q && e.ctx = ctx && e.wb = wb && p e
  let s := ((spadAt s g).sb.filter fun e => mine e && e.kind.writes).foldl (fun t e => spanBack g e t) s
  let x := spadAt s g
  putSpad g { x with sb := x.sb.filter fun e => !mine e } s

/-- Release one entry (R209). -/
def sbFree (g : Nat) (e : SbEntry) (s : State) : State :=
  let s := if e.kind.writes then spanBack g e s else s
  let x := spadAt s g
  putSpad g { x with sb := x.sb.erase e } s

/-- Remove the claims of a context (R212). -/
def dropClaims (g ctx : Nat) (s : State) : State :=
  let x := spadAt s g
  putSpad g { x with sb := x.sb.filter fun e => !(e.kind.isClaim && e.ctx = ctx) } s

end Sys2Proof.Machine
end

