-- ==== Sys2Proof/Machine/Ctxs.lean ====
section
/-!
DEFINITION. Hardware contexts, manifest images, streams and waybills (R99-R121), the completion ring of a session (R118,
R428-R432), and what ends a descriptor.
-/

namespace Sys2Proof.Machine

/-- Context number 4g + ctx (R457). -/
def ctxId (g c : Nat) : Nat := 4 * g + c

/-- Queue codes (R107). -/
abbrev qMx : Nat := 0
/-- Q_VX. -/
abbrev qVx : Nat := 1
/-- Q_LD. -/
abbrev qLd : Nat := 2
/-- Q_ST. -/
abbrev qSt : Nat := 3
/-- Q_GT. -/
abbrev qGt : Nat := 4
/-- Q_BK. -/
abbrev qBk : Nat := 5
/-- Q_SY. -/
abbrev qSy : Nat := 6
/-- Q_CT. -/
abbrev qCt : Nat := 7

/-- A little-endian field of an image: bits `hi` to `lo` of the word at byte `off`. -/
abbrev imgField (img : List Byte) (off hi lo : Nat) : Nat := fieldAt img off hi lo

/-- TENSOR_COUNT (R100). -/
def imgTensorCount (img : List Byte) : Nat := imgField img 0x14 15 0
/-- STREAM_COUNT (R100). -/
def imgStreamCount (img : List Byte) : Nat := imgField img 0x1C 15 0
/-- BARRIER_COUNT (R100). -/
def imgBarrierCount (img : List Byte) : Nat := imgField img 0x24 15 0
/-- EPOCH_COUNT (R100). -/
def imgEpochCount (img : List Byte) : Nat := imgField img 0x2C 15 0
/-- CAPS_COUNT (R100). -/
def imgCapsCount (img : List Byte) : Nat := imgField img 0x34 15 0
/-- VCORES (R100). -/
def imgVcores (img : List Byte) : Nat := imgField img 0x38 15 0
/-- BIND_SLOTS (R100). -/
def imgBindSlots (img : List Byte) : Nat := imgField img 0x38 23 16

/-- The tensor table entry (R102). -/
def tensorEntry (img : List Byte) (t : Nat) : List Byte := slice img (imgField img 0x10 31 0 + 64 * t) 64
/-- The stream table entry (R103). -/
def streamEntry (img : List Byte) (i : Nat) : List Byte := slice img (imgField img 0x18 31 0 + 32 * i) 32
/-- The barrier table entry (R104). -/
def barrierEntry (img : List Byte) (i : Nat) : List Byte := slice img (imgField img 0x20 31 0 + 16 * i) 16
/-- The epoch binding entry (R105). -/
def epochEntry (img : List Byte) (i : Nat) : List Byte := slice img (imgField img 0x28 31 0 + 16 * i) 16
/-- The capability entry (R106). -/
def capsEntry (img : List Byte) (i : Nat) : List Byte := slice img (imgField img 0x30 31 0 + 16 * i) 16

/-- A stream as its table entry describes it (R103). -/
structure Stream where
  vcore : Nat := 0
  vctx : Nat := 0
  q : Nat := 0
  off : Nat := 0
  slots : Nat := 0
  descs : Nat := 1
deriving DecidableEq, Repr

/-- Decode a stream table entry. -/
def streamOf (e : List Byte) : Stream :=
  ⟨fieldAt e 0 15 0, fieldAt e 0 17 16, fieldAt e 0 20 18, fieldAt e 4 31 0, fieldAt e 8 15 0, fieldAt e 8 31 16⟩

/-- The streams of an image. -/
def imgStreams (img : List Byte) : List Stream := (List.range (imgStreamCount img)).map fun i => streamOf (streamEntry img i)

/-- The stream of (virtual core, virtual context, queue), if it has one. -/
def findStream (img : List Byte) (vcore vctx q : Nat) : Option Stream :=
  (imgStreams img).find? fun t => t.vcore = vcore && t.vctx = vctx && t.q = q

/-- The descriptor `k` descriptors after the one at byte `off` (R107). -/
def descAt (img : List Byte) : Nat → Nat → List Byte
  | 0, off => slice img off (64 * (fieldAt (slice img off 64) 0 12 11 + 1))
  | k + 1, off => descAt img k (off + 64 * (fieldAt (slice img off 64) 0 12 11 + 1))

/-- A stream that its manifest does not hold behaves as one END (R103). -/
def endImage (q : Nat) : List Byte := leBytes 64 (0x04 + q * 2 ^ 8)

/-- Number of descriptors of a context's queue. -/
def streamLen (img : List Byte) (vcore vctx q : Nat) : Nat := ((findStream img vcore vctx q).map Stream.descs).getD 1

/-- The k-th descriptor (k ≥ 1) of a context's queue. -/
def streamDesc (img : List Byte) (vcore vctx q k : Nat) : List Byte :=
  match findStream img vcore vctx q with
  | some t => descAt img (k - 1) t.off
  | none => endImage q

/-- TYPE of a descriptor (R107). -/
def dType (d : List Byte) : Nat := fieldAt d 0 7 0
/-- REC. -/
def dRec (d : List Byte) : Bool := fieldAt d 0 13 13 = 1
/-- IRQ. -/
def dIrq (d : List Byte) : Bool := fieldAt d 0 14 14 = 1
/-- ARITH. -/
def dArith (d : List Byte) : Nat := fieldAt d 0 23 16
/-- TAG. -/
def dTag (d : List Byte) : Nat := fieldAt d 0xC 31 0
/-- The wait word at byte `off`. -/
def dWait (d : List Byte) (off : Nat) : Nat := fieldAt d off 31 0

/-- The manifest image a context runs from. -/
def ctxImage (s : State) (g c : Nat) : List Byte := ((runAt s (ctxAt s (ctxId g c)).run).getD {}).image

/-- The queue state of a context. -/
def Ctx.q (c : Ctx) (q : Nat) : QState := c.qs.getD q {}
/-- Replace a queue state. -/
def Ctx.putQ (c : Ctx) (q : Nat) (x : QState) : Ctx := { c with qs := setAt {} c.qs q x }

/-- A wait word is met (R114). -/
def waitMet (c : Ctx) (w : Nat) : Bool :=
  bit w 19 = 0 ||
    (let q := bits w 18 16
     let target := (c.wbBase.getD q 0 + bits w 15 0) % 2 ^ 16
     (c.wbDone.getD q 0 + 2 ^ 16 - target) % 2 ^ 16 ≤ 0x7FFF)

/-- The absolute waybill of the k-th descriptor of a queue (R113). -/
def absWb (c : Ctx) (q k : Nat) : Nat := (c.wbBase.getD q 0 + k) % 2 ^ 16

/-- Where the wait words of a descriptor stand: two in its header, and eight more for WAIT (R107, R109). -/
def waitOffs (d : List Byte) : List Nat := [4, 8] ++ (if dType d = 0x02 then (List.range 8).map fun i => 0x10 + 4 * i else [])

/-- The waits of a descriptor. -/
def descWaits (d : List Byte) : List Nat := (waitOffs d).map (dWait d)

/-- All waits of a descriptor are met. -/
def waitsMet (c : Ctx) (d : List Byte) : Bool := (descWaits d).all (waitMet c)

/-- The link that carries a session's DMA: its own, or the other while that one is down (R431). -/
def sessLink (s : State) (x : Nat) : Nat :=
  let l := rdi s pgHif .hifSessLink x
  if rdi s pgHif .hifLinkState l ≤ 1 ∧ 2 ≤ rdi s pgHif .hifLinkState (1 - l) then 1 - l else l

/-- A write of the session needs no GO: the link came up without CXL (R431). -/
def sessPosted (s : State) (x : Nat) : Bool := rdi s pgHif .hifLinkState (sessLink s x) = 2

/-- A write of host memory for the session (R431). -/
def sessWrite (x a : Nat) (bytes : List Byte) (s : State) : State := emit (.hostWrite (sessLink s x) x a bytes) s

/-- Free completion slots remain for one more reservation (R430). -/
def cqFree (s : State) (x : Nat) : Bool :=
  let e := sessAt s x
  (rdi s pgHif .hifCqTail x + e.reserved + 1) % 2 ^ rdi s pgHif .hifCqLog2 x != e.cqHead

/-- Reserve a completion slot. -/
def cqReserve (x : Nat) (s : State) : State :=
  let e := sessAt s x
  putSess x { e with reserved := e.reserved + 1 } s

/-- Give a reserved slot back. -/
def cqUnreserve (x : Nat) (s : State) : State :=
  let e := sessAt s x
  putSess x { e with reserved := e.reserved - 1 } s

/-- Every record written so far has its GO: the tail shadow follows, then the vector (R431). -/
def tailShadow (x : Nat) (s : State) : State :=
  let e := sessAt s x
  if e.acked.isEmpty || e.sent.any (fun w => match w with | .record _ => true | _ => false) then s
  else
    let s := sessWrite x (rdi s pgHif .hifCqTailAddr x) (leBytes 8 (rdi s pgHif .hifCqTail x))
      (putSess x { e with acked := [] } s)
    if e.acked.any id then sendVec x s else s

/-- The record of `bytes` is written into the CQ, its slot having been reserved (R118, R431, R432). -/
def cqWrite (x : Nat) (bytes : List Byte) (irq : Bool) (s : State) : State :=
  let t := rdi s pgHif .hifCqTail x
  let s := sessWrite x (rdi s pgHif .hifCqBase x + 32 * t) bytes s
  let s := wri pgHif .hifCqTail x ((t + 1) % 2 ^ rdi s pgHif .hifCqLog2 x) (cqUnreserve x s)
  let e := sessAt s x
  if sessPosted s x then tailShadow x (putSess x { e with acked := e.acked ++ [irq] } s)
  else putSess x { e with sent := e.sent ++ [.record irq] } s

/-- A command completion record (R432). -/
structure CmdRecord where
  tag : Nat := 0
  id : Nat := 0
  opcode : Nat := 0
  result : Nat := 0
  cstat : Nat := 0
  faultWb : Nat := 0
  faultQ : Nat := 0
  faultCtx : Nat := 0
  detail : Nat := 0
  faultDetail : Nat := 0
deriving DecidableEq, Repr

/-- The bytes of a command completion record (R432). -/
def cmdBytes (epoch : Nat) (r : CmdRecord) : List Byte :=
  leBytes 32 (r.tag % 2 ^ 32 + r.id % 2 ^ 16 * 2 ^ 32 + r.opcode * 2 ^ 48 + r.result * 2 ^ 64 + r.cstat * 2 ^ 72 + epoch * 2 ^ 96
    + r.faultWb % 2 ^ 16 * 2 ^ 128 + r.faultQ * 2 ^ 144 + r.faultCtx * 2 ^ 147 + r.detail % 2 ^ 32 * 2 ^ 160
    + r.faultDetail % 2 ^ 64 * 2 ^ 192)

/-- Write a command completion into the CQ. -/
def cmdComplete (x : Nat) (noirq : Bool) (r : CmdRecord) (s : State) : State := cqWrite x (cmdBytes (epochNow s) r) (!noirq) s

/-- Code of a descriptor's status (R118). -/
def DStat.code : DStat → Nat
  | .ok => 0 | .fault => 1 | .aborted => 2 | .poisoned => 3

/-- The record of a completed descriptor (R118). -/
def descRecord (s : State) (c : Ctx) (ctx q : Nat) (w : Work) (cycles : Nat) (profile : Bool) : List Byte :=
  let st := w.stat.getD .ok
  leBytes 32 (dTag w.img + absWb c q w.k * 2 ^ 32 + q * 2 ^ 48 + ctx * 2 ^ 51 + dType w.img * 2 ^ 56 + st.code * 2 ^ 64
    + w.exc * 2 ^ 68 + c.vcore % 2 ^ 16 * 2 ^ 80 + epochNow s * 2 ^ 96 + (if profile then cycles % 2 ^ 64 else 0) * 2 ^ 128
    + (if st = .fault then w.detail % 2 ^ 64 else 0) * 2 ^ 192)

/-- Change the started descriptor `k` of a queue. -/
def QState.mapWork (x : QState) (k : Nat) (f : Work → Work) : QState :=
  { x with live := x.live.map fun w => if w.k = k then f w else w }

/-- Change the started descriptor `k` of a context's queue. -/
def mapWork (g c q k : Nat) (f : Work → Work) (s : State) : State :=
  let x := ctxAt s (ctxId g c)
  putCtx (ctxId g c) (x.putQ q ((x.q q).mapWork k f)) s

/-- Free the active set where descriptor `k` of the context holds it: the engine has accepted its last work item (R110). -/
def engineFree (g q c k : Nat) (s : State) : State :=
  let e := engineAt s (8 * g + q)
  if q < 6 && e.owner = (c, k) then putEngine (8 * g + q) { e with busy := false } s else s

/-- A context halts (R121): nothing of it starts any more, its claims go. -/
def haltCtx (g c : Nat) (s : State) : State :=
  let x := ctxAt s (ctxId g c)
  if x.st = .running || x.st = .binding then dropClaims g c (putCtx (ctxId g c) { x with st := .halted } s) else s

/-- The context belongs to run `n` still (R120). -/
def runHolds (s : State) (n id : Nat) : Bool := (ctxAt s id).run = n && (ctxAt s id).st != .free

/-- The contexts that run `n` still holds. -/
def runCtxs (s : State) (n : Nat) (r : Run) : List Nat := r.ctxs.filter (runHolds s n)

/-- Every context that run `n` still holds halts (R121): other runs' contexts are not affected. -/
def haltRun (n : Nat) (r : Run) (s : State) : State := (runCtxs s n r).foldl (fun t id => haltCtx (id / 4) (id % 4) t) s

/-- The run notes the first descriptor that ended FAULT, or while none has, the first that ended ABORTED (R121). -/
def noteFirst (g c q k : Nat) (st : DStat) (detail : Nat) (s : State) : State :=
  let x := ctxAt s (ctxId g c)
  match runAt s x.run with
  | none => s
  | some r =>
    let f : FirstFault := { stat := st, ctx := c, q := q, wb := absWb x q k, detail := if st = .fault then detail else 0 }
    match r.first with
    | none => putRun x.run (some { r with first := some f }) s
    | some o => if o.stat = .aborted && st = .fault then putRun x.run (some { r with first := some f }) s else s

/-- A descriptor's work ends with a status. A FAULT or ABORTED one releases all its entries (R213) and halts its context
(R118, R121). -/
def endWork (g c q k : Nat) (st : DStat) (exc detail : Nat) (s : State) : State :=
  let s := mapWork g c q k (fun w => { w with stat := some st, exc := exc, detail := detail, began := true }) (engineFree g q c k s)
  if st = .fault || st = .aborted then
    haltCtx g c (noteFirst g c q k st detail (sbRelease g q c (absWb (ctxAt s (ctxId g c)) q k) (fun _ => true) s))
  else s

/-- A started descriptor still works: its work has not ended, and no fault has cut it (R450). -/
def Work.works (w : Work) : Bool := w.stat.isNone && !w.cut

/-- The oldest started descriptor of a queue that still works and has one of the types. -/
def currentWork (s : State) (g c q : Nat) (types : List Nat) : Option Work :=
  ((ctxAt s (ctxId g c)).q q).live.find? fun w => w.works && types.contains (dType w.img)

/-- The core lies in a partition, and its partition number. -/
def corePart (g : Nat) : Nat := g / 40

/-- The engine unit that serves a queue (R110). -/
def queueUnit (g q : Nat) : UnitId :=
  let n := g / 40
  let m := g / 8 % 5
  let j := g % 8
  if q = 0 then .mx n m j else if q = 1 then .vx n m j else if q ≤ 4 then .tm n m j else if q = 5 then .bc n m j else .cc n m j

/-- The core may start descriptors on the queue: its partition serves, nothing is fenced, no thermal hold (R449, R450,
R502). -/
def coreStarts (s : State) (g q : Nat) : Bool :=
  partServes s (corePart g) && !s.partHold.contains (corePart g) &&
    rd s (coreUnit g).page .hdrFenced = 0 && rd s (queueUnit g q).page .hdrFenced = 0

end Sys2Proof.Machine
end

