-- ==== Sys2Proof/Machine/Serai.lean ====
section
/-!
DEFINITION. The Serai's objects and the host's operations on them (R127-R137, R143-R147, R150-R152). The descriptors that
operate on objects are in SyncOps.lean.
-/

namespace Sys2Proof.Machine

/-- Page of Serai `k`: 0-3 of the partitions, 4 of the device (R127). -/
def seraiPage (k : Nat) : Nat := if k < 4 then (UnitId.psy k).page else 0x2020

/-- Capacity of a kind: 0 flag, 1 counter, 2 barrier (R127). -/
def seraiCap (k kind : Nat) : Nat :=
  match kind with
  | 0 => if k < 4 then 4096 else 1024
  | 1 => if k < 4 then 1024 else 256
  | _ => if k < 4 then 512 else 128

/-- Held entries of a Serai (R127). -/
def heldCap (k : Nat) : Nat := if k < 4 then 256 else 64

/-- The debug level (R475): 0 NONE, 1 OBSERVE, 2 INTERVENE. -/
def debugLevel (s : State) : Nat := rd s 0x2030 .secDbgLevel

/-- Value of a flag. -/
def flagAt (s : State) (k i : Nat) : Bool := SMap.get (fun _ => false) (seraiAt s k).flags i

/-- Value of a counter. -/
def ctrAt (s : State) (k i : Nat) : Nat := SMap.get (fun _ => 0) (seraiAt s k).ctrs i

/-- A barrier. -/
def barAt (s : State) (k i : Nat) : Bar := SMap.get (fun _ => {}) (seraiAt s k).bars i

/-- Store a flag. -/
def putFlag (k i : Nat) (v : Bool) (s : State) : State :=
  let x := seraiAt s k
  putSerai k { x with flags := SMap.set (fun _ => false) x.flags i v } s

/-- Store a counter. -/
def putCtr (k i v : Nat) (s : State) : State :=
  let x := seraiAt s k
  putSerai k { x with ctrs := SMap.set (fun _ => 0) x.ctrs i (v % 2 ^ 32) } s

/-- Store a barrier. -/
def putBar (k i : Nat) (b : Bar) (s : State) : State :=
  let x := seraiAt s k
  putSerai k { x with bars := SMap.set (fun _ => {}) x.bars i b } s

/-- DETAIL of a SERAI ledger record (R152). -/
def seraiDetail (idx kind gctx q wb v0 v1 : Nat) : Nat :=
  idx + kind * 2 ^ 12 + gctx * 2 ^ 16 + q * 2 ^ 32 + wb * 2 ^ 48 + v0 * 2 ^ 64 + v1 * 2 ^ 96

/-- The context's core belongs to the Serai: any core for the device Serai. -/
def seraiServes (k id : Nat) : Bool := k = 4 || id / 160 = k

/-- A completed generation reaches the split arrivals recorded in it (R135, R137); an arrival that waits ends its
descriptor, which starts and completes its work in the cycle. -/
def Ctx.genDone (c : Ctx) (device : Bool) (idx gen : Nat) (skew : Bool) : Ctx :=
  let hit (g : SplitGen) : Bool := g.device = device && g.idx = idx && g.gen = gen && !g.done && !g.withdrawn
  let x := c.q qSy
  match x.idle with
  | some d =>
    if dType d.img = 0x25 && fieldAt d.img 0x14 0 0 = 1 && c.gens.any (fun g => hit g && g.k = d.k) then
      let w : Work := { k := d.k, img := d.img, stat := some (if skew then .fault else .ok), detail := if skew then 0x23 else 0, began := true }
      ({ c with gens := c.gens.filterMap fun (g : SplitGen) => if g.k = d.k then none else if hit g then some { g with done := true, skew := skew } else some g }).putQ
        qSy { x with idle := none, live := x.live ++ [w] }
    else { c with gens := c.gens.map fun (g : SplitGen) => if hit g then { g with done := true, skew := skew } else g }
  | none => { c with gens := c.gens.map fun (g : SplitGen) => if hit g then { g with done := true, skew := skew } else g }

/-- The muster step of a completing generation (R137): the state after and whether the counters were skewed. -/
def musterStep (k i : Nat) (b : Bar) (s : State) : State × Bool :=
  if !b.muster then (s, false)
  else
    let p := ctrAt s k b.prod
    let c := ctrAt s k b.cons
    if epochAtOrBefore c p then (putCtr k b.cons 0 (putCtr k b.prod ((p + 2 ^ 32 - c) % 2 ^ 32) s), false)
    else (ledger (seraiPage k) 0x81 (seraiDetail i 2 0 0 0 p c) (raise (seraiPage k) 17 s), true)

/-- The context waits for the generation: its oldest unstarted Q_SY descriptor is a BAR_ARRIVE with WAIT = 1 counted in it. -/
def Ctx.waitsGen (c : Ctx) (device : Bool) (idx gen : Nat) : Option Nat :=
  match (c.q qSy).idle with
  | some d =>
    if dType d.img = 0x25 && fieldAt d.img 0x14 0 0 = 1 &&
        c.gens.any (fun g => g.k = d.k && g.device = device && g.idx = idx && g.gen = gen && !g.done && !g.withdrawn)
    then some d.k else none
  | none => none

/-- A generation completes (R133, R135): GEN rises, COUNT returns to 0, its waiters are released; those of a skewed muster
end FAULT and halt their contexts (R137). -/
def barComplete (k i : Nat) (runMuster : Bool) (s : State) : State :=
  let b := barAt s k i
  let r := if runMuster then musterStep k i b s else (s, false)
  let hit := if r.2 then r.1.ctxs.filterMap fun e => if seraiServes k e.1 then (e.2.waitsGen (k = 4) i b.gen).map fun n => (e.1, n) else none else []
  let s := putBar k i { b with count := 0, gen := (b.gen + 1) % 256, arr := [] } r.1
  let s := { s with ctxs := s.ctxs.mapv {} fun id c => if seraiServes k id then c.genDone (k = 4) i b.gen r.2 else c }
  hit.foldl (fun t e => haltCtx (e.1 / 4) (e.1 % 4) (noteFirst (e.1 / 4) (e.1 % 4) qSy e.2 .fault 0x23 t)) s

/-- One arrival, by a context with its waybill or by the host (R134, R135). The caller has checked that the barrier is OPEN. -/
def barArrive (k i : Nat) (who : Option (Nat × Nat)) (s : State) : State :=
  let b := barAt s k i
  let s := putBar k i { b with count := b.count + 1, arr := b.arr ++ [who] } s
  if b.count + 1 = b.n then barComplete k i true s else s

/-- BAR_INIT (R134): `none` when the barrier is busy. -/
def barInit (k i n : Nat) (muster : Bool) (prod cons : Nat) (s : State) : Option State :=
  let b := barAt s k i
  if 0 < b.n ∧ 0 < b.count then none
  else some (putBar k i { n := n, muster := muster, prod := prod, cons := cons, count := 0, gen := 0, arr := [] } s)

/-- An object index lies in the window (R143, R146). -/
def inWindow (base cnt i : Nat) : Bool := base ≤ i && i < base + cnt

/-- The object lies in the host windows of the page (R143). -/
def inHostWindow (s : State) (k kind i : Nat) : Bool :=
  inWindow (rdi s (seraiPage k) .seraiHwinBase kind) (rdi s (seraiPage k) .seraiHwinCount kind) i

/-- The absolute index that a handle of a context names, with the Serai (R129); `kind` 0 flag, 1 counter, 2 barrier. -/
def objectOf (s : State) (id kind handle : Nat) : Nat × Nat :=
  let r := (runAt s (ctxAt s id).run).getD {}
  let dev := bit handle 12
  let base := (r.grants.getD (3 * dev + kind) (0, 0)).1
  (if dev = 1 then 4 else id / 160, base + bits handle 11 0)

/-- Descriptors that wait on a flag or counter (R151): oldest unstarted on Q_SY, waits met, of a waiting type on it. -/
def waitersOn (s : State) (k kind i : Nat) : Nat :=
  (s.ctxs.filter fun e => e.2.st = .running &&
    match (e.2.q qSy).idle with
    | some d => dType d.img = (if kind = 0 then 0x21 else 0x23) && waitsMet e.2 d.img && objectOf s e.1 kind (fieldAt d.img 0x10 31 0) = (k, i)
    | none => false).length

/-- RESULT_0 and RESULT_1 of an object (R151). -/
def hopShow (k kind i : Nat) (s : State) : State :=
  let p := seraiPage k
  let b := barAt s k i
  let r0 := match kind with
    | 0 => if flagAt s k i then 1 else 0
    | 1 => ctrAt s k i
    | _ => b.n + b.count * 2 ^ 16
  let r1 := match kind with
    | 0 | 1 => min 0xFFFF (waitersOn s k kind i)
    | _ => b.gen + (if 0 < b.n then 2 ^ 8 else 0) + (if b.muster then 2 ^ 9 else 0) + b.prod % 2 ^ 10 * 2 ^ 10 + b.cons % 2 ^ 10 * 2 ^ 20
  wr p .seraiHopResult0 r0 (wr p .seraiHopResult1 r1 s)

/-- The value of an object that a DEBUG_FORCE record carries. -/
def objectValue (s : State) (k kind i : Nat) : Nat :=
  match kind with
  | 0 => if flagAt s k i then 1 else 0
  | 1 => ctrAt s k i
  | _ => (barAt s k i).n + (barAt s k i).count * 2 ^ 16

/-- The operation fits the kind (R143, R151). -/
def hopFits (op kind : Nat) : Bool :=
  match op with
  | 0 => kind ≤ 2
  | 1 | 2 => kind = 0
  | 3 | 4 => kind = 1
  | 5 | 6 | 7 | 8 => kind = 2
  | _ => false

/-- The first refusal of a HOP operation that does not depend on the object (R143, R449); 0 when there is none. -/
def hopRefusal (s : State) (k op kind i : Nat) : Nat :=
  let arg := rd s (seraiPage k) .seraiHopArg
  if !hopFits op kind then 6
  else if seraiCap k kind ≤ i || (op = 5 && !(2 ≤ bits arg 12 0 && bits arg 12 0 ≤ 4096)) then 1
  else if rd s (seraiPage k) .hdrFenced = 1 || (7 ≤ op && debugLevel s != 2) then 5
  else if !inHostWindow s k kind i && debugLevel s != 2 then 2
  else 0

/-- The effect of an admitted HOP operation: HOP_STATUS and the state after. PROD and CONS of a barrier that the host
initialises keep their values (log entry 28). -/
def hopEffect (k op i : Nat) (s : State) : Nat × State :=
  let arg := rd s (seraiPage k) .seraiHopArg
  let b := barAt s k i
  match op with
  | 1 => (0, putFlag k i true s)
  | 2 => (0, putFlag k i false s)
  | 3 => (0, putCtr k i (ctrAt s k i + arg) s)
  | 4 => (0, putCtr k i arg s)
  | 5 =>
    match barInit k i (bits arg 12 0) (bit arg 16 = 1) b.prod b.cons s with
    | some t => (0, t)
    | none => (3, s)
  | 6 => if b.n = 0 then (4, s) else (0, barArrive k i none s)
  | 7 => if b.n = 0 then (4, s) else (0, barComplete k i false s)
  | 8 =>
    if b.n = 0 then (4, s)
    else (0, if b.count = 0 then s else putBar k i { b with count := b.count - 1, arr := b.arr.dropLast } s)
  | _ => (0, s)

/-- One HOP operation from the write that carries HOP_GO to HOP_GO reading 0 (R143, R147, R151). -/
def hop (k op kind i : Nat) (s : State) : State :=
  let p := seraiPage k
  let r := hopRefusal s k op kind i
  if r != 0 then wr p .seraiHopGo 0 (wr p .seraiHopStatus r s)
  else
    let old := objectValue s k kind i
    let e := hopEffect k op i s
    let s := wr p .seraiHopGo 0 (wr p .seraiHopStatus e.1 e.2)
    if e.1 != 0 then s
    else
      let s := hopShow k kind i s
      let s := if op = 3 then wr p .seraiHopResult0 old s else s
      if inHostWindow s k kind i then s
      else ledger p 0x83 (seraiDetail i kind 0 0 0 old (objectValue s k kind i)) s

/-- The unit of Serai `k`. -/
def seraiUnit (k : Nat) : UnitId := if k < 4 then .psy k else .dsy

/-- The write that carries HOP_INDEX, HOP_KIND, HOP_OP and HOP_GO. -/
def hopWrite (k op kind i : Nat) (s : State) : State :=
  let p := seraiPage k
  hostWrites (seraiUnit k) (fun s => hop k op (kind % 4) (i % 4096) (wr p .seraiHopIndex i (wr p .seraiHopKind kind (wr p .seraiHopOp op s)))) s

/-- HOP READ (R151). -/
def execHopRead (sy kind idx : Nat) (s : State) : Result := .next (hopWrite sy 0 kind idx s)
/-- HOP FLAG_SET (R143). -/
def execHopFlagSet (sy kind idx : Nat) (s : State) : Result := .next (hopWrite sy 1 kind idx s)
/-- HOP FLAG_CLEAR (R143). -/
def execHopFlagClear (sy kind idx : Nat) (s : State) : Result := .next (hopWrite sy 2 kind idx s)
/-- HOP CTR_ADD (R143). -/
def execHopCtrAdd (sy kind idx : Nat) (s : State) : Result := .next (hopWrite sy 3 kind idx s)
/-- HOP CTR_SET (R143). -/
def execHopCtrSet (sy kind idx : Nat) (s : State) : Result := .next (hopWrite sy 4 kind idx s)
/-- HOP BAR_INIT (R134, R143). -/
def execHopBarInit (sy kind idx : Nat) (s : State) : Result := .next (hopWrite sy 5 kind idx s)
/-- HOP BAR_ARRIVE (R143). -/
def execHopBarArrive (sy kind idx : Nat) (s : State) : Result := .next (hopWrite sy 6 kind idx s)
/-- DBG_RELEASE (R147). -/
def execDbgRelease (sy kind idx : Nat) (s : State) : Result := .next (hopWrite sy 7 kind idx s)
/-- DBG_WITHDRAW (R147). -/
def execDbgWithdraw (sy kind idx : Nat) (s : State) : Result := .next (hopWrite sy 8 kind idx s)

/-- A remote operation on an object (R138, R144): flag SET or CLEAR, counter ADD or SET. -/
def remoteOp (k : Nat) (counter : Bool) (i op v : Nat) (s : State) : State :=
  if counter then putCtr k i (if op = 0 then ctrAt s k i + v else v) s else putFlag k i (op = 0) s

/-- The object lies in the remote windows of the page (R146). -/
def inRemoteWindow (s : State) (k : Nat) (counter : Bool) (i : Nat) : Bool :=
  let w := if counter then 1 else 0
  inWindow (rdi s (seraiPage k) .seraiRwinBase w) (rdi s (seraiPage k) .seraiRwinCount w) i

/-- A remote signal outside the remote windows is discarded (R146); `src` is the sender's device address. -/
def rejectRemote (k : Nat) (counter : Bool) (i src : Nat) (s : State) : State :=
  let p := seraiPage k
  ledger p 0x85 (i + (if counter then 1 else 0) * 2 ^ 12 + src * 2 ^ 16) (raise p 19 (count p .seraiRemoteRejected 1 s))

/-- A held or arriving signal is discarded as an orphan (R146, R150). -/
def orphanSignal (k : Nat) (counter : Bool) (i src : Nat) (s : State) : State :=
  let p := seraiPage k
  ledger p 0x82 (i + (if counter then 1 else 0) * 2 ^ 12 + src * 2 ^ 16) (raise p 18 s)

/-- Apply a remote signal, or discard it outside the windows (R144, R146). -/
def applyRemote (k : Nat) (h : Held) (s : State) : State :=
  if inRemoteWindow s k h.counter h.idx && h.idx < seraiCap k (if h.counter then 1 else 0) then remoteOp k h.counter h.idx h.op h.operand s
  else rejectRemote k h.counter h.idx h.src s

/-- The occupancy of the held entries, for HELD_PEAK (R151). -/
def noteHeld (k : Nat) (s : State) : State :=
  let n := (seraiAt s k).held.length
  if rd s (seraiPage k) .seraiHeldPeak < n then wr (seraiPage k) .seraiHeldPeak n s else s

/-- Discard the held signals that `p` selects, each as an orphan. -/
def orphanHeld (k : Nat) (p : Held → Bool) (s : State) : State :=
  let x := seraiAt s k
  (x.held.filter p).foldl (fun t h => orphanSignal k h.counter h.idx h.src t)
    (putSerai k { x with held := x.held.filter fun h => !p h } s)

end Sys2Proof.Machine
end

