-- ==== Sys2Proof/Machine/MemCtl.lean ====
section
/-!
DEFINITION. The memory controllers' own events (R335-R358): queued requests and the order they are served in, refresh,
recalibration, tollgates, freezes and releases, patrol scrub, row repair (R370-R377), the counters' windows (R378) and the
check-bit test mode (R381).
-/

namespace Sys2Proof.Machine

/-- Channel key of a stack's channel. -/
abbrev ckOf (stack chan : Nat) : Nat := stack * 32 + chan

/-- Page of the controller of a channel key. -/
def mcPage (ck : Nat) : Nat := (mcOf (ck / 32)).page

/-- Rows of a bank on the ordering code (R285). -/
def bankRows (v : Variant) : Nat := match v with | .m768 => 65536 | .m384 => 32768

/-- A queued read is served: its channel and the banks of its columns serve it. -/
def RdReq.served (s : State) (r : RdReq) : Bool := r.cols.all fun e => colServes s e.1

/-- The write-back of a column that a scrub read corrected (R373). -/
def scrubBackOf (c : Nat) (data : List Byte) : WrReq :=
  { col := c, data := data.zipIdx.map fun e => (e.2, e.1), scrub := true }

/-- One column of a scrub read (R335, R372, R373): one that a queued write covers is read from the queue, and a write-back holds what
the queue holds of its column. -/
def scrubCol (c : Nat) (s : State) : State :=
  let ch := chanAt s (chanKey c)
  let q := queuedFor ch c ch.stamp
  if q.full then s else
  let r := colLook s c
  let s := countRead r.cls c (access 0x02 c s)
  match r.cls with
  | .ceOde | .ceSym =>
    let ch := chanAt s (chanKey c)
    if q.poison then s
    else putChan (chanKey c) { ch with scrubBack := ch.scrubBack.filter (·.col != c) ++ [scrubBackOf c (q.over r.data)] } s
  | .ue => readUe c r.syn s
  | .clean | .stale | .poison => s

/-- The first column of the pair that the channel's scrubber reads next (R372). -/
def scrubCursor (s : State) (ck : Nat) : Nat :=
  let k := (chanAt s ck).scrub
  let n := bankRows s.variant * 16
  (((ck * 32 + k / n) * 65536) + k % n / 16) * 32 + 2 * (k % 16)

/-- A scrub read of the next pair, and the step to the one after it (R372). -/
def scrubStep (ck : Nat) (s : State) : State :=
  let c := scrubCursor s ck
  let s := scrubCol (c + 1) (scrubCol c s)
  let ch := chanAt s ck
  let k := ch.scrub + 1
  if k = 32 * bankRows s.variant * 16 then counti 0x2028 .fltScrubPasses (mcPage ck) 1 (putChan ck { ch with scrub := 0 } s)
  else putChan ck { ch with scrub := k } s

/-- Serve one read: its data go out with the poison indication. -/
def serveRead (ck : Nat) (r : RdReq) (s : State) : State :=
  if r.scrub then scrubStep ck s
  else
    let t := readCols (fun c u => readColAt r.stamp c (chargeAs r.qos.full (stackOfCol c) r.port 32 u)) r.cols (noteIdle r.cols s)
    emit (.memData (((t.1.flatMap Prod.fst).drop r.off).take r.len) (t.1.any Prod.snd)) t.2

/-- A request of `n` bytes through a port is eligible (R345). -/
def eligible (s : State) (ck : Nat) (q : QosSet) (port n : Nat) : Bool := n ≤ rdi s (mcPage ck) .mcsTokens port && q.rate != 0

/-- Rank of a request in rule 4 of R336, the higher first: by urgency in the Compact arrangement (R344); in the Full one an eligible
request older than AGE_CAP_NS, then eligible ones, then the others (R345). Requests of two sets compare by these numbers (log entry
82). -/
def rankOf (q : QosSet) (able : Bool) (age urgency : Nat) : Nat :=
  if !q.full then urgency else if able then (if q.ageCap < age then 2 else 1) else 0

/-- A request's score among those served next: its rank, then a row hit ahead of a row miss (R336). -/
def scoreOf (s : State) (ck col rank : Nat) : Nat := 2 * rank + (if (chanAt s ck).rows.contains (rowBit col) then 1 else 0)

/-- The score of a queued read that may be served now: its bank is free, and its port does not hold it back (R337, R345). -/
def readScore (s : State) (ck : Nat) (r : RdReq) : Option Nat :=
  if !r.served s || !(r.scrub || portOpen s r.qos (ck / 32) r.port r.len) then none
  else some (scoreOf s ck (r.cols.headD (0, 0)).1 (rankOf r.qos (r.scrub || eligible s ck r.qos r.port r.len) r.age r.urgency))

/-- The score of a queued write that may be issued now: what arrived for its column before it has been served too (R335). -/
def writeScore (s : State) (ck : Nat) (w : WrReq) : Option Nat :=
  let ch := chanAt s ck
  if !colServes s w.col || !(w.scrub || portOpen s w.qos (ck / 32) w.port 32) ||
      ch.wrq.any (fun e => e.col = w.col && e.stamp < w.stamp) || ch.rdq.any (fun r => r.stamp < w.stamp && r.cols.any fun e => e.1 = w.col) then none
  else some (scoreOf s ck w.col (rankOf w.qos (!w.scrub && eligible s ck w.qos w.port 32) w.age w.urgency))

/-- The place of the highest score, the first of several. -/
def bestOf (l : List (Option Nat)) : Option Nat :=
  (l.zipIdx.foldl (fun (b : Option (Nat × Nat)) e =>
    match e.1, b with
    | none, _ => b
    | some x, none => some (x, e.2)
    | some x, some y => if y.1 < x then some (x, e.2) else b) none).map Prod.snd

/-- Serve queued reads while one may be served; `n` bounds their number. -/
def serveReads (ck : Nat) : Nat → State → State
  | 0, s => s
  | n + 1, s =>
    match bestOf ((chanAt s ck).rdq.map (readScore s ck)) with
    | none => s
    | some i =>
      let ch := chanAt s ck
      serveReads ck n (serveRead ck (ch.rdq.getD i {}) (putChan ck { ch with rdq := ch.rdq.eraseIdx i } s))

/-- Issue the queued write at a place; a scrub write-back stores a sealed column (R373). -/
def issueWrite (ck i : Nat) (s : State) : State :=
  let ch := chanAt s ck
  let w := ch.wrq.getD i {}
  let s := putChan ck { ch with wrq := ch.wrq.eraseIdx i } s
  if w.scrub then sealCol w.col (w.over []) (access 0x03 w.col s) else applyWrite w s

/-- Issue queued writes until `keep` entries are left (R336); `n` bounds their number. -/
def drainTo (keep ck : Nat) : Nat → State → State
  | 0, s => s
  | n + 1, s =>
    let ch := chanAt s ck
    if wrEntries ch.wrq ≤ keep then s
    else match bestOf (ch.wrq.map (writeScore s ck)) with
      | none => s
      | some i => drainTo keep ck n (issueWrite ck i s)

/-- Every queued write that may be issued. -/
def drainAll (ck : Nat) (s : State) : State := drainTo 0 ck (chanAt s ck).wrq.length s

/-- A bank-unit sequence is queued or running on the channel. -/
def seqActive (ch : Chan) : Bool := ch.seqs.any fun q => q.st != .draining

/-- A gang of the channel runs, or waits in a gap. -/
def gangRuns (ch : Chan) : Bool := ch.seqs.any fun q => q.st = .running || q.st = .wait || q.st = .gap

/-- A gang of the channel computes: it is not at a leg boundary. -/
def gangInLeg (ch : Chan) : Bool := ch.seqs.any fun q => q.st = .running || q.st = .wait

/-- The partition of the channel is not being reset, so refresh goes on (R342). -/
def refreshOn (s : State) (ck : Nat) : Bool := partState s (partOfStack (ck / 32)) != 2

/-- A refresh may be issued now as far as the channel's state goes (R342, R348): not within a leg. -/
def canRefresh (s : State) (ck : Nat) : Bool := refreshOn s ck && !(chanAt s ck).recal && !gangInLeg (chanAt s ck)

/-- One interval's worth of refresh is done (R341). -/
def refreshed (ck : Nat) (s : State) : State :=
  let ch := chanAt s ck
  let s := counti (mcPage ck) .mcsRefreshes (ck % 32) 1 (putChan ck { ch with rc := ch.rc - 1 } s)
  if ch.rc = 8 then count (mcPage ck) .mcsRefForced 1 s else s

/-- REFpb of one bank, precharged first (R340). -/
def refreshBank (ck b : Nat) (s : State) : State :=
  let c := colNo (ck / 32) (ck % 32) b 0 0
  noteCmd 0x07 c (shutRows c ((chanAt s ck).rows.filter fun r => r / 65536 = b) s)

/-- One interval's worth of refresh (R340): REFab after a precharge of all banks where a gang runs, else the REFpb that the round
lacks. -/
def refreshNow (ck : Nat) (s : State) : State :=
  if gangRuns (chanAt s ck) then refreshed ck (noteCmd 0x06 (colNo (ck / 32) (ck % 32) 0 0 0) (preAll ck s))
  else
    let s := forUpto 32 (fun b t => if (chanAt t ck).refpb.contains b then t else refreshBank ck b t) s
    refreshed ck (putChan ck { chanAt s ck with refpb := [] } s)

/-- The refresh that RC = +8 forces (R336 rule 1, R341). -/
def forceRefresh (ck : Nat) (s : State) : State := if 8 ≤ (chanAt s ck).rc && canRefresh s ck then refreshNow ck s else s

/-- Every refresh that is due (R338); `n` bounds their number. -/
def dueRefresh (ck : Nat) : Nat → State → State
  | 0, s => s
  | n + 1, s => if 1 ≤ (chanAt s ck).rc && canRefresh s ck then dueRefresh ck n (refreshNow ck s) else s

/-- A read request of the channel of its first column arrives (R335, R337): served at once where nothing holds it back, from a row that
a running bank unit holds open in an idle column cycle; else it waits in the read queue, or for room there. -/
def readRequest (dpa len port : Nat) (s : State) : State :=
  let cols := colsOf s dpa len
  let c := (cols.headD (0, 0)).1
  let ck := chanKey c
  let ch := chanAt s ck
  let r : RdReq := { cols := cols, off := dpa % 32, len := len, port := port, stamp := ch.stamp, qos := qosOf s (ck / 32) port }
  if cols.all fun e => readNow s port len e.1 then serveRead ck r s
  else
    let s := if cols.any fun e => gangHolds s (bankKey e.1) then count (mcPage ck) .mcsLegWaits 1 s else s
    if ch.late.isEmpty && ch.rdq.length < 64 then putChan ck { ch with rdq := ch.rdq ++ [r], stamp := ch.stamp + 1 } s
    else putLate ck { dpa := dpa, len := len, port := port } s

/-- A write request arrives (R335, R370): accepted where it finds room. -/
def writeRequest (dpa : Nat) (data : List Byte) (port : Nat) (poison : Bool) (s : State) : State :=
  if roomFor s (fun _ => port) (spanCols s dpa data.length) then writeSpan dpa data poison port s
  else putLate (chanKey (locate s dpa)) { dpa := dpa, port := port, data := some data, poison := poison } s

/-- The channel's requests that waited for room arrive again, in order; the place of a DPA is that of now (R288, R335). -/
def serveLate (ck : Nat) (s : State) : State :=
  let ch := chanAt s ck
  if ch.late.isEmpty then s
  else ch.late.foldl (fun t r => match r.data with
    | some d => writeRequest r.dpa d r.port r.poison t
    | none => readRequest r.dpa r.len r.port t) (putChan ck { ch with late := [] } s)

/-- The channel goes on with what it holds, in the order of R336: a forced refresh; writes down to 8 entries from 24 on; reads; then
writes, which alternate with reads at a drain only; and the requests that waited for room. -/
def serveChan (ck : Nat) (s : State) : State :=
  let s := forceRefresh ck s
  let ch := chanAt s ck
  let s := if 24 ≤ wrEntries ch.wrq then drainTo 8 ck ch.wrq.length s else s
  let s := serveReads ck (chanAt s ck).rdq.length s
  serveLate ck (drainAll ck s)

/-- A port of the channel that only its own partition uses (R343). -/
def ownPort (s : State) (ck p : Nat) : Bool :=
  if rd s (mcPage ck) .mcsQosMode = 0 then p != 5 && p != 7 else !(40 ≤ p && p ≤ 42) && p != 44

/-- A new request for `dpa` is taken: not by a partition out of service (R466), and from outside not by one that is fenced or resets,
which answers RETRY (R450, R455). -/
def requestTaken (s : State) (dpa port : Nat) : Bool :=
  let c := locate s dpa
  let n := partOfStack (stackOfCol c)
  partState s n != 4 && (!partBusy s n || ownPort s (chanKey c) port)

/-- MEM_READ_REQUEST (R335, R337). -/
def execMemReadRequest (dpa len port : Nat) (s : State) : Result :=
  if !inDram s.variant dpa len || len = 0 || !requestTaken s dpa port then .next s else .next (readRequest dpa len port s)

/-- MEM_WRITE_REQUEST (R335, R370): accepted when it enters the write queue. -/
def execMemWriteRequest (dpa : Nat) (data : List Byte) (port : Nat) (poison : Bool) (s : State) : Result :=
  if !inDram s.variant dpa data.length || data.isEmpty || !requestTaken s dpa port then .next s else .next (writeRequest dpa data port poison s)

/-- PARTIAL_MERGE (R370): the first partial write of the channel that may be merged is. -/
def execPartialMerge (stack chan : Nat) (s : State) : Result :=
  let ck := ckOf stack chan
  match (chanAt s ck).wrq.zipIdx.find? fun e => !e.1.full && (writeScore s ck e.1).isSome with
  | some e => .next (issueWrite ck e.2 s)
  | none => .next s

/-- WRITE_DRAIN (R336): from 24 entries on, down to 8; below that, all of them in their turn. Requests that wait for room follow. -/
def execWriteDrain (stack chan : Nat) (s : State) : Result :=
  let ck := ckOf stack chan
  let ch := chanAt s ck
  .next (serveLate ck (drainTo (if 24 ≤ wrEntries ch.wrq then 8 else 0) ck ch.wrq.length s))

/-- REFRESH_INTERVAL (R341): one more interval is owed; at RC = +8 a refresh is forced, outside a leg at once. `expired` freezes leave
the 1 s window of R352 (log entry 23). -/
def execRefreshInterval (stack chan expired : Nat) (s : State) : Result :=
  let ck := ckOf stack chan
  let ch := chanAt s ck
  let rc : Int := if refreshOn s ck && ch.rc < 8 then ch.rc + 1 else ch.rc
  .next (forceRefresh ck (putChan ck { ch with rc := rc, freezes1s := ch.freezes1s - expired } s))

/-- The channel has nothing to serve. -/
def chanIdle (ch : Chan) : Bool := ch.rdq.isEmpty && ch.wrq.isEmpty && ch.late.isEmpty

/-- A refresh may be issued of the channel's own accord (R341): at a leg boundary one that is owed; else, while nothing waits or the
channel is frozen, also one that is pulled in. One that requests wait for is postponed. -/
def mayRefresh (s : State) (ck : Nat) : Bool :=
  let ch := chanAt s ck
  canRefresh s ck && (ch.st = .frozen || chanIdle ch) && (1 ≤ ch.rc || (-8 < ch.rc && !gangRuns ch))

/-- REFRESH (R340, R341): REFab of a channel whose gang stands at a leg boundary; or REFpb of one bank, with no running gang. -/
def execRefresh (stack chan : Nat) (bank : Option Nat) (s : State) : Result :=
  let ck := ckOf stack chan
  let ch := chanAt s ck
  if !mayRefresh s ck then .next s
  else match bank with
  | none => .next (if gangRuns ch then refreshNow ck s else s)
  | some b =>
    if gangRuns ch || ch.refpb.contains b then .next s
    else
      let s := refreshBank ck b s
      let ch := chanAt s ck
      if ch.refpb.length = 31 then .next (refreshed ck (putChan ck { ch with refpb := [] } s))
      else .next (putChan ck { ch with refpb := ch.refpb ++ [b] } s)

/-- Start a due recalibration where R348 lets it, directly after a refresh that is due: the channel is NORMAL and not within a leg, no
other channel of the stack recalibrates and none below it is due. -/
def tryRecal (ck : Nat) (s : State) : State :=
  let ch := chanAt s ck
  let others := (List.range 32).map fun i => (i, chanAt s (ck / 32 * 32 + i))
  if ch.recalDue && !ch.recal && ch.st = .normal && !gangInLeg ch && !others.any (fun e => e.2.recal || (e.1 < ck % 32 && e.2.recalDue))
  then
    let s := dueRefresh ck 8 s
    putChan ck { chanAt s ck with recal := true, recalTemp := stackHot s (ck / 32) } s
  else s

/-- Start the first due recalibration of a stack. -/
def tryRecals (stack : Nat) (s : State) : State := forUpto 32 (fun i t => tryRecal (ckOf stack i) t) s

/-- A recalibration falls due (R348). -/
def recalDue (ck : Nat) (forced : Bool) (s : State) : State :=
  let ch := chanAt s ck
  tryRecals (ck / 32) (putChan ck { ch with recalDue := true, recalForced := ch.recalForced || forced } s)

/-- RECAL_DUE (R348). -/
def execRecalDue (stack chan : Nat) (s : State) : Result :=
  if (chanAt s (ckOf stack chan)).recal then .next s else .next (recalDue (ckOf stack chan) false s)

/-- RECAL_FORCED (R348): a recalibration that has been due for 1 ms. -/
def execRecalForced (stack chan : Nat) (s : State) : Result :=
  let ch := chanAt s (ckOf stack chan)
  if ch.recalDue && !ch.recal then .next (recalDue (ckOf stack chan) true s) else .next s

/-- RECAL_DONE (R348): the channel carries commands again. -/
def execRecalDone (stack chan : Nat) (s : State) : Result :=
  let ck := ckOf stack chan
  let ch := chanAt s ck
  if !ch.recal then .next s
  else
    let s := putChan ck { ch with recal := false, recalDue := false, recalForced := false } s
    .next (tryRecals stack (serveChan ck (counti (mcPage ck) .mcsRecals chan 1 s)))

/-- A gang at a leg boundary (R338, R348): a forced recalibration, then what waits, a forced refresh ahead of it; then every refresh and
recalibration that is due. -/
def legBoundary (ck : Nat) (s : State) : State :=
  let s := if (chanAt s ck).recalForced then tryRecal ck s else s
  let s := serveChan ck s
  tryRecals (ck / 32) (dueRefresh ck 8 s)

/-- TOLLGATE_REFILL (R345). -/
def execTollgateRefill (stack : Nat) (s : State) : Result :=
  let p := (mcOf stack).page
  if rd s p .mcsQosMode = 0 then .next s
  else
    let s := forUpto 48 (fun i t =>
      wri p .mcsTokens i (min (rdi t p .mcsBurstKib i * 1024) (rdi t p .mcsTokens i + rdi t p .mcsRate i * 16)) t) s
    .next (forUpto 32 (fun c t => serveChan (ckOf stack c) t) s)

/-- Urgency of a request `age` ns old whose port's LAT_TARGET is `t` (R344). -/
def urgencyAt (t age : Nat) : Nat := if 2 * age < t then 0 else if 4 * age < 3 * t then 1 else if age < t then 2 else 3

/-- Age and urgency of a queued request that has become `age` ns old; the urgency stands still in the Full arrangement (R344). -/
def grown (q : QosSet) (old urgency age : Nat) : Nat × Nat :=
  (max old age, if q.full then urgency else max urgency (urgencyAt q.target age))

/-- The request that reaches urgency 3 counts (R344). -/
def noteMiss (ck before after : Nat) (s : State) : State :=
  if before < 3 && after = 3 then raise (mcPage ck) 21 (count (mcPage ck) .mcsLatMiss 1 s) else s

/-- REQUEST_URGENCY (R344, R345): the request at place `pos` of the read queue, or with `write` of the write queue, becomes `age` ns
old. A scrub access has no port. -/
def execRequestUrgency (stack chan : Nat) (write : Bool) (pos age : Nat) (s : State) : Result :=
  let ck := ckOf stack chan
  let ch := chanAt s ck
  if write then
    match ch.wrq[pos]? with
    | none => .next s
    | some w =>
      let x := grown w.qos w.age w.urgency age
      if w.scrub then .next s
      else .next (noteMiss ck w.urgency x.2 (putChan ck { ch with wrq := ch.wrq.set pos { w with age := x.1, urgency := x.2 } } s))
  else
    match ch.rdq[pos]? with
    | none => .next s
    | some r =>
      let x := grown r.qos r.age r.urgency age
      if r.scrub then .next s
      else .next (noteMiss ck r.urgency x.2 (putChan ck { ch with rdq := ch.rdq.set pos { r with age := x.1, urgency := x.2 } } s))

/-- CA_PARITY (R349). -/
def execCaParity (stack chan bank row col : Nat) (s : State) : Result := .next (freeze (ckOf stack chan) 2 bank row col 0 0 s)

/-- WCRC_EXHAUSTED (R349). -/
def execWcrcExhausted (stack chan bank row col : Nat) (s : State) : Result :=
  .next (freeze (ckOf stack chan) 3 bank row col (dpaOfCol s (colNo stack chan bank row col)) 0 s)

/-- FRZ_FORCE (R349, R354): discarded below debug level intervene. -/
def frzForce (stack mask : Nat) (s : State) : State :=
  if debugLevel s != 2 then s
  else forUpto 32 (fun c t => if bit mask c = 1 then freeze (ckOf stack c) 4 0 0 0 0 0 t else t) s

/-- FRZ_FORCE. -/
def execFrzForce (stack mask : Nat) (s : State) : Result := .next (hostWrites (mcOf stack) (frzForce stack mask) s)

/-- The POISON marks that the channel owes are written (R366). -/
def payOwed (ck : Nat) (s : State) : State :=
  let s := (chanAt s ck).owed.foldl (fun t c =>
    ledger (mcPage ck) 0x86 (ck % 32 + bankOfCol c * 2 ^ 16 + rowOfCol c * 2 ^ 21 + colOfCol c * 2 ^ 37)
      (poisonCol c (colBytes t c) (access 0x03 c t))) s
  putChan ck { chanAt s ck with owed := [] } s

/-- The freeze that a cause brings (R349): an uncorrectable read owes its column's mark (R366); the DPA of CA_PARITY and FORCED is 0
(R356). -/
def freezeBy (f : FreezeCause) (stack : Nat) (s : State) : State :=
  let c := colNo stack f.chan f.bank f.row f.col
  if f.cause = 1 then readUe c f.syndrome s
  else freeze (ckOf stack f.chan) f.cause f.bank f.row f.col (if f.cause = 3 then dpaOfCol s c else 0) 0 s

/-- A frozen channel is released (R352). `again` is a freeze cause of the channel in the release's own cycle: the release is taken first,
then the channel freezes anew; no mark that it owes is written between, and no held request served. -/
def release (ck : Nat) (again : Option FreezeCause) (s : State) : State :=
  let ch := chanAt s ck
  if ch.st != .frozen then s
  else
    let s := putChan ck { ch with st := .normal, storm := false } s
    let s := match again with | none => payOwed ck s | some _ => s
    let s := raise (mcPage ck) 17 (ledger (mcPage ck) 0x81 (ck % 32) s)
    match again with
    | none => serveChan ck s
    | some f => freezeBy f (ck / 32) s

/-- FRZ_RELEASE (R352): a bit reads 1 until done, which is at once. -/
def frzRelease (stack mask : Nat) (again : List FreezeCause) (s : State) : State :=
  forUpto 32 (fun c t => if bit mask c = 1 then release (ckOf stack c) (again.find? fun f => f.chan = c) t else t) s

/-- FRZ_RELEASE, with the freeze causes that arrive in its cycle. -/
def execFrzRelease (stack mask : Nat) (again : List FreezeCause) (s : State) : Result :=
  .next (hostWrites (mcOf stack) (frzRelease stack mask again) s)

/-- FREEZE_AUTO_RELEASE (R352): not while FRZ_AUTO_US is 0, and not of a channel in a freeze storm. -/
def execFreezeAutoRelease (stack chan : Nat) (again : Option FreezeCause) (s : State) : Result :=
  if rd s (mcOf stack).page .mcsFrzAutoUs = 0 || (chanAt s (ckOf stack chan)).storm then .next s
  else .next (release (ckOf stack chan) (again.filter fun f => f.chan = chan) s)

/-- SCRUB_READ (R336, R372): the next pair, where the channel and its bank are free and no request that may be served waits. -/
def execScrubRead (stack chan : Nat) (s : State) : Result :=
  let ck := ckOf stack chan
  let ch := chanAt s ck
  let busy := ch.rdq.any (fun r => (readScore s ck r).isSome) || ch.wrq.any fun w => (writeScore s ck w).isSome
  if colServes s (scrubCursor s ck) && !busy then .next (scrubStep ck s) else .next s

/-- SCRUB_AGE_LIMIT (R372): the scrub read that has waited 64 µs becomes the oldest request of the host's port. -/
def execScrubAgeLimit (stack chan : Nat) (s : State) : Result :=
  let ck := ckOf stack chan
  let ch := chanAt s ck
  if ch.rdq.any (·.scrub) then .next s
  else
    let q := qosOf s stack (spinePortAt s stack)
    let r : RdReq := { cols := [(scrubCursor s ck, 0)], len := 64, port := spinePortAt s stack, scrub := true, qos := q, age := 64000
                       urgency := urgencyAt q.target 64000 }
    .next (serveReads ck 1 (putChan ck { ch with rdq := r :: ch.rdq } s))

/-- SCRUB_WRITEBACK (R373): the oldest corrected column enters the write queue while there is room. -/
def execScrubWriteback (stack chan : Nat) (s : State) : Result :=
  let ck := ckOf stack chan
  let ch := chanAt s ck
  match ch.scrubBack with
  | [] => .next s
  | w :: ws => if 32 ≤ wrEntries ch.wrq then .next s
    else .next (putChan ck { ch with wrq := ch.wrq ++ [{ w with stamp := ch.stamp }], stamp := ch.stamp + 1, scrubBack := ws } s)

/-- The unit that INT_SEL names. -/
def intTarget (s : State) : Option UnitId := unitAt (rd s 0x2028 .fltIntSel)

/-- Stack number of a controller unit. -/
def stackOfMc : UnitId → Option Nat
  | .mc n i => some (3 * n + i)
  | _ => none

/-- The row that REQ_CHAN, REQ_BANK and REQ_ROW name queues for repair (R376, R378). -/
def repairGo (s : State) : State :=
  let p := rd s 0x2028 .fltIntSel
  match (intTarget s).bind stackOfMc with
  | none => s
  | some d =>
    let row := rdi s 0x2028 .fltReqRow p
    if bankRows s.variant ≤ row then s
    else candidate (((d * 32 + rdi s 0x2028 .fltReqChan p) * 32 + rdi s 0x2028 .fltReqBank p) * 65536 + row) true s

/-- REPAIR_GO. -/
def execRepairGo (s : State) : Result := .next (repairGo s)

/-- One column of a row that is copied to the spare, POISON and STALE as they are (R377). -/
def repairCol (c : Nat) (s : State) : State :=
  let r := colLook s c
  let s := countRead r.cls c (access 0x02 c s)
  match r.cls with
  | .clean | .ceOde | .ceSym => sealCol c r.data s
  | .stale => staleCol c s
  | .poison | .ue => poisonCol c (colBytes s c) s

/-- A repaired row enters the repair log while that has room; the entry that fills it raises LOG_FULL (R518, R523). -/
def logRepair (key : Nat) (s : State) : State :=
  if 16384 ≤ s.repairLog.length then s
  else
    let s := { s with repairLog := s.repairLog ++ [key] }
    if s.repairLog.length = 16384 then raise 0x2038 17 s else s

/-- A row is remapped onto its subarray's spare and logged (R377, R518). -/
def repairRow (key : Nat) (s : State) : State :=
  let ck := key / (65536 * 32)
  let p := mcPage ck
  let s := forUpto 32 (fun i t => repairCol (key * 32 + i) t) s
  let ch := chanAt s ck
  let s := putChan ck { ch with repairs := ch.repairs.filter (· != key), suspects := ch.suspects.filter (·.row != key), repairHold := false } s
  let s := { s with remaps := s.remaps ++ [key] }
  let s := logRepair key s
  ledger p 0x84 (ck % 32 + key / 65536 % 32 * 2 ^ 16 + key % 65536 * 2 ^ 21) (counti 0x2028 .fltRepairs p 1 s)

/-- ROW_REPAIR (R377): the oldest candidate, while no sequence is queued or running on the channel. -/
def execRowRepair (stack chan : Nat) (s : State) : Result :=
  let ck := ckOf stack chan
  let ch := chanAt s ck
  match ch.repairs with
  | [] => .next s
  | key :: rest =>
    if seqActive ch || !chanServes s ck then .next s
    else if spareUsed s key then .next (candidate key true (putChan ck { ch with repairs := rest, repairHold := false } s))
    else .next (repairRow key s)

/-- REPAIR_WAIT_EXPIRE (R377): the channel admits no new sequence until the repair has run. -/
def execRepairWaitExpire (stack chan : Nat) (s : State) : Result :=
  let ch := chanAt s (ckOf stack chan)
  if ch.repairs.isEmpty then .next s else .next (putChan (ckOf stack chan) { ch with repairHold := true } s)

/-- CE_WINDOW_EXPIRE (R378): the window of a source closes. -/
def execCeWindowExpire (page : Nat) (s : State) : Result :=
  .next { s with ceWins := SMap.set (fun _ => {}) s.ceWins page {} }

/-- A write of TEST_MODE (R381): its result. -/
def testModeResult (s : State) (m : Nat) : Nat :=
  let p := rd s 0x2028 .fltIntSel
  if debugLevel s != 2 then 2
  else if m = 0 then 0
  else match unitAt p with
  | some (.mc n i) => if seqActive (chanAt s (ckOf (3 * n + i) (rdi s 0x2028 .fltTestChan p))) then 1 else 0
  | some (.sp n m j) => if rd s (UnitId.core n m j).page .hdrFenced = 0 then 1 else 0
  | _ => 0

/-- A write of TEST_MODE for the unit that INT_SEL names (R381). -/
def testMode (m : Nat) (s : State) : State :=
  let p := rd s 0x2028 .fltIntSel
  match unitAt p with
  | some (.mc _ _) | some (.sp _ _ _) =>
    let r := testModeResult s m
    let s' := wri 0x2028 .fltTestResult p r s
    if r != 0 then s'
    else
      let s' := wri 0x2028 .fltTestMode p m s'
      match m, (unitAt p).bind stackOfMc with
      | 0, some d => serveChan (ckOf d (rdi s 0x2028 .fltTestChan p)) s'
      | _, _ => s'
  | _ => s

/-- TEST_MODE_OFF (R381). -/
def execTestModeOff (s : State) : Result := .next (testMode 0 s)
/-- DATA_ONLY (R381). -/
def execDataOnly (s : State) : Result := .next (testMode 1 s)
/-- CHK_ONLY (R381). -/
def execChkOnly (s : State) : Result := .next (testMode 2 s)
/-- RAW_READ (R381). -/
def execRawRead (s : State) : Result := .next (testMode 3 s)

end Sys2Proof.Machine
end

