-- ==== Sys2Proof/Machine/Flags.lean ====
section
/-!
DEFINITION. Number formats, rounding, conversion and the exception flags (R72-R93): every value is decoded to an exact
number, computed exactly and rounded once.
-/

namespace Sys2Proof.Machine

/-- Exception flags of R93: NV. -/
abbrev exNV : Nat := 1
/-- OF. -/
abbrev exOF : Nat := 2
/-- UF. -/
abbrev exUF : Nat := 4
/-- NL. -/
abbrev exNL : Nat := 8
/-- SC. -/
abbrev exSC : Nat := 16

/-- A decoded value: NaN, an infinity, or (−1)^neg × m × 2^e exactly. -/
inductive Num where
  | nan
  | inf (neg : Bool)
  | fin (neg : Bool) (m : Nat) (e : Int)
deriving DecidableEq, Repr

/-- What a value is converted from, for the rows of R88 that ask. -/
inductive NumClass where
  | float | int | b1
deriving DecidableEq, Repr

/-- +0. -/
abbrev Num.zero : Num := .fin false 0 0

/-- An integer as a value. -/
def Num.ofInt (i : Int) : Num := .fin (i < 0) i.natAbs 0

/-- The value is a NaN. -/
def Num.isNan : Num → Bool
  | .nan => true
  | _ => false

/-- The value is ±∞. -/
def Num.isInf : Num → Bool
  | .inf _ => true
  | _ => false

/-- The value is ±0. -/
def Num.isZero : Num → Bool
  | .fin _ m _ => m = 0
  | _ => false

/-- The sign of a value; a NaN counts as positive. -/
def Num.neg : Num → Bool
  | .nan => false
  | .inf n => n
  | .fin n _ _ => n

/-- The value with its sign replaced. -/
def Num.withSign (n : Bool) : Num → Num
  | .nan => .nan
  | .inf _ => .inf n
  | .fin _ m e => .fin n m e

/-- ARITH of a descriptor (R82). -/
structure Arith where
  round : Nat := 0
  sat : Bool := false
  ftz : Bool := false
deriving DecidableEq, Repr

/-- Decode ARITH. -/
def arithOf (b : Nat) : Arith := ⟨b % 8, bit b 3 = 1, bit b 4 = 1⟩

/-- Round `m` / 2^`sh` to an integer magnitude: the magnitude and whether it was inexact (R82, R83). -/
def roundShift (mode : Nat) (neg : Bool) (m sh : Nat) : Nat × Bool :=
  let q := m >>> sh
  let r := m % 2 ^ sh
  let half := 2 ^ (sh - 1)
  let up := match mode with
    | 0 => half < r || (r = half && q % 2 = 1)
    | 1 => false
    | 2 => neg
    | 3 => !neg
    | _ => half ≤ r
  (if r = 0 then q else if up then q + 1 else q, r != 0)

/-- A floating format (R74): exponent and mantissa bits, bias, an infinity, the canonical NaN, the encoding of the largest
finite magnitude, and whether FTZ affects it (R86). -/
structure FloatFmt where
  eb : Nat
  mb : Nat
  bias : Int
  inf : Bool
  nan : Option Nat
  max : Nat
  ftz : Bool
deriving DecidableEq, Repr

/-- FP32. -/
def fp32 : FloatFmt := ⟨8, 23, 127, true, some 0x7FC00000, 0x7F7FFFFF, true⟩

/-- The floating format of a code (R72, R74). -/
def floatFmt (code : Nat) : Option FloatFmt :=
  match code with
  | 0x01 => some fp32
  | 0x02 => some ⟨5, 10, 15, true, some 0x7E00, 0x7BFF, true⟩
  | 0x03 => some ⟨8, 7, 127, true, some 0x7FC0, 0x7F7F, true⟩
  | 0x04 => some ⟨4, 3, 7, false, some 0x7F, 0x7E, false⟩
  | 0x05 => some ⟨5, 2, 15, true, some 0x7E, 0x7B, false⟩
  | 0x06 => some ⟨3, 2, 3, false, none, 0x1F, false⟩
  | 0x07 => some ⟨2, 3, 1, false, none, 0x1F, false⟩
  | 0x08 => some ⟨2, 1, 1, false, none, 0x07, false⟩
  | _ => none

/-- Width and signedness of an integer format (R76). -/
def intFmt (code : Nat) : Option (Nat × Bool) :=
  match code with
  | 0x09 => some (32, true)
  | 0x0A => some (16, true)
  | 0x0B => some (8, true)
  | 0x0C => some (4, true)
  | 0x0D => some (8, false)
  | 0x12 => some (64, true)
  | _ => none

/-- Bits of an element or index (R72, R73). -/
def fmtBits (code : Nat) : Nat :=
  match code with
  | 0x01 | 0x09 => 32
  | 0x02 | 0x03 | 0x0A => 16
  | 0x04 | 0x05 | 0x0B | 0x0D => 8
  | 0x06 | 0x07 => 6
  | 0x08 | 0x0C | 0x0F | 0x10 => 4
  | 0x11 => 2
  | 0x0E => 1
  | 0x12 => 64
  | _ => 8

/-- Decode a floating encoding (R74, R75), a subnormal replaced by zero under FTZ (R82): the value and the flags. -/
def decFloat (f : FloatFmt) (ftz : Bool) (v : Nat) : Num × Nat :=
  let s : Bool := bit v (f.eb + f.mb) = 1
  let ex := bits v (f.eb + f.mb - 1) f.mb
  let m := v % 2 ^ f.mb
  if f.inf && ex = 2 ^ f.eb - 1 then (if m = 0 then .inf s else .nan, 0)
  else if f.nan.isSome && !f.inf && ex = 2 ^ f.eb - 1 && m = 2 ^ f.mb - 1 then (.nan, 0)
  else if ex = 0 then
    if ftz && f.ftz && m != 0 then (.fin s 0 0, exUF) else (.fin s m (if m = 0 then 0 else 1 - f.bias - f.mb), 0)
  else (.fin s (2 ^ f.mb + m) (ex - f.bias - f.mb), 0)

/-- Encoding of ∞. -/
def FloatFmt.infEnc (f : FloatFmt) : Nat := (2 ^ f.eb - 1) * 2 ^ f.mb

/-- The result of an overflow (R84). -/
def FloatFmt.overflow (f : FloatFmt) (a : Arith) (neg : Bool) : Nat :=
  let up := match a.round with
    | 1 => false
    | 2 => neg
    | 3 => !neg
    | _ => true
  if f.inf && !a.sat && up then f.infEnc else f.max

/-- Encode a finite value: rounded once, with overflow, tininess and FTZ (R83, R84, R86, R93). -/
def encFin (f : FloatFmt) (a : Arith) (neg : Bool) (m : Nat) (e : Int) : Nat × Nat :=
  let sign := if neg then 2 ^ (f.eb + f.mb) else 0
  if m = 0 then (sign, 0)
  else
    let top : Int := Nat.log2 m + e
    let q := max top (1 - f.bias) - f.mb
    let r := if q ≤ e then (m <<< (e - q).toNat, false) else roundShift a.round neg m (q - e).toNat
    let mag := (q + f.mb + f.bias).toNat * 2 ^ f.mb + r.1 - 2 ^ f.mb
    if f.max < mag then (sign + f.overflow a neg, exOF)
    else if a.ftz && f.ftz && 0 < mag && mag < 2 ^ f.mb then (sign, exUF)
    else (sign + mag, if top < 1 - f.bias && r.2 then exUF else 0)

/-- Encode a value in a floating format (R75, R84, R85). -/
def encFloat (f : FloatFmt) (a : Arith) (v : Num) : Nat × Nat :=
  match v with
  | .nan => match f.nan with
    | some c => (c, 0)
    | none => (0, exNL)
  | .inf neg =>
    let sign := if neg then 2 ^ (f.eb + f.mb) else 0
    if f.inf then (sign + f.infEnc, 0)
    else match f.nan with
      | some c => if a.sat then (sign + f.max, exNL) else (c, exNL ||| exNV)
      | none => (sign + f.max, exNL)
  | .fin neg m e => encFin f a neg m e

/-- The integer nearest to a finite value in the rounding mode. -/
def roundInt (mode : Nat) (neg : Bool) (m : Nat) (e : Int) : Int :=
  let r := if 0 ≤ e then m <<< e.toNat else (roundShift mode neg m (-e).toNat).1
  if neg then -(r : Int) else r

/-- The integer that a value is, cut toward zero; 0 for NaN and ∞. -/
def Num.toInt : Num → Int
  | .fin neg m e => roundInt 1 neg m e
  | _ => 0

/-- Encode a value in an integer format of `w` bits (R84, R85, R88). -/
def encInt (w : Nat) (signed : Bool) (a : Arith) (cls : NumClass) (v : Num) : Nat × Nat :=
  let lo : Int := if signed then -(2 ^ (w - 1)) else 0
  let hi : Int := if signed then 2 ^ (w - 1) - 1 else 2 ^ w - 1
  match v with
  | .nan => (0, exNV)
  | .inf neg => (ofSigned w (if neg then lo else hi), exNV)
  | .fin neg m e =>
    let i := roundInt a.round neg m e
    if lo ≤ i ∧ i ≤ hi then (ofSigned w i, 0)
    else if cls = .b1 then (0, exNV)
    else if cls = .int && !a.sat then (ofSigned w i, exOF)
    else (ofSigned w (if i < lo then lo else hi), exOF)

/-- Encode a value in any scalar format (R88). -/
def encode (code : Nat) (a : Arith) (cls : NumClass) (v : Num) : Nat × Nat :=
  match floatFmt code with
  | some f => encFloat f a v
  | none =>
    match intFmt code with
    | some (w, s) => encInt w s a cls v
    | none =>
      if code = 0x0E then
        match v with
        | .nan => (1, exNV)
        | w => (if w.neg && !w.isZero then 0 else 1, 0)
      else encInt 8 false a cls v

/-- The class of a format's values. -/
def codeClass (code : Nat) : NumClass :=
  if (floatFmt code).isSome || code = 0x10 || code = 0x11 then .float else if code = 0x0E then .b1 else .int

/-- Decode an element of a scalar format (R74, R76); a PQ4 code is its value (R88). -/
def decode (code : Nat) (ftz : Bool) (v : Nat) : Num × Nat :=
  match floatFmt code with
  | some f => decFloat f ftz v
  | none =>
    match intFmt code with
    | some (w, s) => (Num.ofInt (if s then toSigned w v else v), 0)
    | none => if code = 0x0E then (Num.ofInt (if v % 2 = 1 then 1 else -1), 0) else (Num.ofInt v, 0)

/-- Exact sum (R85, R87): a NaN result of non-NaN operands sets NV. -/
def addNum (mode : Nat) (x y : Num) : Num × Nat :=
  match x, y with
  | .nan, _ | _, .nan => (.nan, 0)
  | .inf a, .inf b => if a = b then (.inf a, 0) else (.nan, exNV)
  | .inf a, _ => (.inf a, 0)
  | _, .inf b => (.inf b, 0)
  | .fin a m e, .fin b n g =>
    if m = 0 && n = 0 then (.fin (if a = b then a else mode = 2) 0 0, 0)
    else if m = 0 then (y, 0)
    else if n = 0 then (x, 0)
    else
      let q := min e g
      let i : Int := (if a then -1 else 1) * ((m <<< (e - q).toNat : Nat) : Int) + (if b then -1 else 1) * ((n <<< (g - q).toNat : Nat) : Int)
      if i = 0 then (.fin (mode = 2) 0 0, 0) else (.fin (i < 0) i.natAbs q, 0)

/-- The value with its sign turned. -/
def Num.negate (x : Num) : Num := x.withSign !x.neg

/-- Exact product (R85, R87). -/
def mulNum (x y : Num) : Num × Nat :=
  match x, y with
  | .nan, _ | _, .nan => (.nan, 0)
  | .inf a, .inf b => (.inf (a != b), 0)
  | .inf a, .fin b n _ => if n = 0 then (.nan, exNV) else (.inf (a != b), 0)
  | .fin a m _, .inf b => if m = 0 then (.nan, exNV) else (.inf (a != b), 0)
  | .fin a m e, .fin b n g => (.fin (a != b) (m * n) (if m * n = 0 then 0 else e + g), 0)

/-- Bits of a quotient or root that are kept before its sticky bit: more than any format needs for one rounding. -/
abbrev extraBits : Nat := 80

/-- Quotient (R85): as many bits as any rounding needs, and a sticky bit. Division of a non-zero finite value by zero gives
±∞, as IEEE 754 has it. -/
def divNum (x y : Num) : Num × Nat :=
  match x, y with
  | .nan, _ | _, .nan => (.nan, 0)
  | .inf _, .inf _ => (.nan, exNV)
  | .inf a, .fin b _ _ => (.inf (a != b), 0)
  | .fin a _ _, .inf b => (.fin (a != b) 0 0, 0)
  | .fin a m e, .fin b n g =>
    if n = 0 then (if m = 0 then (.nan, exNV) else (.inf (a != b), 0))
    else if m = 0 then (.fin (a != b) 0 0, 0)
    else
      let k := Nat.log2 n + extraBits
      let q := (m <<< k) / n
      (.fin (a != b) (2 * q + (if (m <<< k) % n = 0 then 0 else 1)) (e - g - k - 1), 0)

/-- The bits of an integer square root, from bit `n` down. -/
def sqrtBits (m : Nat) : Nat → Nat → Nat
  | 0, r => if (r + 1) * (r + 1) ≤ m then r + 1 else r
  | n + 1, r => let t := r + 2 ^ (n + 1); sqrtBits m n (if t * t ≤ m then t else r)

/-- Square root (R85, R186). -/
def sqrtNum (x : Num) : Num × Nat :=
  match x with
  | .nan => (.nan, 0)
  | .inf neg => if neg then (.nan, exNV) else (.inf false, 0)
  | .fin neg m e =>
    if m = 0 then (.fin neg 0 0, 0)
    else if neg then (.nan, exNV)
    else
      let k := 2 * extraBits + (if (e % 2) = 0 then 0 else 1)
      let big := m <<< k
      let r := sqrtBits big (Nat.log2 big / 2 + 1) 0
      (.fin false (2 * r + (if r * r = big then 0 else 1)) ((e - k) / 2 - 1), 0)

/-- Comparison of two values; none when one is NaN (R85). −0 equals +0. -/
def cmpNum (x y : Num) : Option Ordering :=
  match x, y with
  | .nan, _ | _, .nan => none
  | .inf a, .inf b => some (if a = b then .eq else if a then .lt else .gt)
  | .inf a, _ => some (if a then .lt else .gt)
  | _, .inf b => some (if b then .gt else .lt)
  | .fin a m e, .fin b n g =>
    let q := min e g
    let i : Int := (if a then -1 else 1) * ((m <<< (e - q).toNat : Nat) : Int)
    let j : Int := (if b then -1 else 1) * ((n <<< (g - q).toNat : Nat) : Int)
    some (if i < j then .lt else if i = j then .eq else .gt)

/-- x is below y; false when unordered. -/
def Num.lt (x y : Num) : Bool := cmpNum x y = some .lt

/-- MIN and MAX return the operand that is no NaN when exactly one is (R85). Which of two zeros of opposite signs they
return is not stated (log entry 29). -/
def minNum (isMax : Bool) (x y : Num) : Num :=
  if x.isNan then y else if y.isNan then x
  else if x.isZero && y.isZero && x.neg != y.neg then .fin (Config.zeroPick isMax) 0 0
  else if isMax then (if Num.lt x y then y else x) else if Num.lt y x then y else x

/-- Round a value to FP32 and take it as a value again: the value and the flags. -/
def toF32 (a : Arith) (v : Num) : Num × Nat :=
  let r := encFloat fp32 a v
  ((decFloat fp32 false r.1).1, r.2)

/-- One addition of an exact term into an FP32 accumulator, rounded RNE (R91, R92). -/
def accF32 (acc p : Num) : Num × Nat :=
  let s := addNum 0 acc p
  let r := toF32 {} s.1
  (r.1, s.2 ||| r.2)

/-- One addition into a two's complement accumulator of `w` bits (R92). -/
def accInt (w : Nat) (sat : Bool) (acc p : Int) : Int × Nat :=
  let s := acc + p
  let hi : Int := 2 ^ (w - 1) - 1
  let lo : Int := -(2 ^ (w - 1))
  if lo ≤ s ∧ s ≤ hi then (s, 0)
  else (if sat then (if s < lo then lo else hi) else toSigned w (ofSigned w s), exOF)

/-- The value of an E8M0 scale byte (R78). -/
def scaleNum (x : Nat) : Num := if x = 0xFF then .nan else .fin false 1 ((x : Int) - 127)

/-- An MX element: its R74 value, or its value ÷ 64 for INT8, times the block scale (R78). -/
def mxNum (code elem scale : Nat) : Num :=
  let d := (decode code false elem).1
  let d := if code = 0x0B then (mulNum d (.fin false 1 (-6))).1 else d
  (mulNum d (scaleNum scale)).1

/-- emax of a block format (R90). -/
def mxEmax (code : Nat) : Int :=
  match code with
  | 0x04 => 8
  | 0x05 => 15
  | 0x06 => 4
  | 0x07 => 2
  | 0x08 => 2
  | _ => 0

/-- floor(log2) of a non-zero finite magnitude. -/
def Num.log2 : Num → Int
  | .fin _ m e => Nat.log2 m + e
  | _ => 0

/-- The largest finite magnitude of a block, none when nothing is finite or all is zero (R90). -/
def blockMax (xs : List Num) : Option Num :=
  xs.foldl (fun best x =>
    match x with
    | .fin _ 0 _ => best
    | .fin _ m e => match best with
      | some b => if Num.lt b (.fin false m e) then some (.fin false m e) else some b
      | none => some (.fin false m e)
    | _ => best) none

/-- One MX block (R90): the scale byte, the element encodings and the flags. -/
def encBlock (code : Nat) (a : Arith) (xs : List Num) : Nat × List Nat × Nat :=
  let holdsInf := code = 0x05
  if xs.any Num.isNan || (!holdsInf && xs.any Num.isInf) then (0xFF, xs.map fun _ => 0, exNL)
  else
    let raw : Option Int := (blockMax xs).map fun b => b.log2 - mxEmax code
    let e : Int := match raw with
      | some r => max (-127) (min 127 r)
      | none => -127
    let sc := match raw with
      | some r => if r = e then 0 else exSC
      | none => 0
    let enc (x : Num) : Nat × Nat :=
      let y := (mulNum x (.fin false 1 (-e))).1
      let b := { a with sat := true }
      if code = 0x0B then encInt 8 true b .float (mulNum y (.fin false 64 0)).1
      else match floatFmt code with
        | some f => encFloat f b y
        | none => (0, 0)
    let r := xs.map enc
    ((e + 127).toNat, r.map Prod.fst, r.foldl (fun k x => k ||| x.2) sc)

end Sys2Proof.Machine
end

