-- ==== Sys2Proof/Machine/Operands.lean ====
section
/-!
DEFINITION. The operands of engine descriptors: tensor table entries (R102), packed rows in the scratchpad (R73, R77-R80,
R200, R537), and the spans that a descriptor registers in the scoreboard (R162, R206, R237).
-/

namespace Sys2Proof.Machine

/-- Run a state-changing reader over a list. -/
def mapState {α β : Type} (f : α → State → β × State) : List α → State → List β × State
  | [], s => ([], s)
  | x :: xs, s =>
    let r := f x s
    let t := mapState f xs r.2
    (r.1 :: t.1, t.2)

/-- A tensor table entry (R102). -/
structure Tensor where
  fmt : Nat := 0
  rank : Nat := 0
  kind : Nat := 0
  sel : Nat := 0
  scaleTid : Nat := 0xFFFF
  offset : Nat := 0
  ext : List Nat := []
  codebook : Nat := 0
  bytes : Nat := 0
deriving DecidableEq, Repr

/-- Decode tensor table entry `t` of an image. -/
def tensorOf (img : List Byte) (t : Nat) : Tensor :=
  let e := tensorEntry img t
  { fmt := fieldAt e 0 15 0, rank := fieldAt e 0 19 16, kind := fieldAt e 0 23 20, sel := fieldAt e 0 31 24
    scaleTid := fieldAt e 4 15 0, offset := fieldAt e 8 63 0
    ext := (List.range 6).map fun i => fieldAt e (0x10 + 4 * i) 31 0
    codebook := fieldAt e 0x28 63 0, bytes := fieldAt e 0x30 63 0 }

/-- The code of a format word (R72). -/
def fmtCode (fmt : Nat) : Nat := fmt % 256

/-- The MX bit of a format word. -/
def fmtMx (fmt : Nat) : Bool := bit fmt 8 = 1

/-- Bytes of `n` packed elements (R73, R79, R80). -/
def packedBytes (code n : Nat) : Nat :=
  match code with
  | 0x10 => ceilDiv n 1024 * 544
  | 0x11 => ceilDiv n 1024 * 288
  | 0x06 | 0x07 => ceilDiv n 4 * 3
  | _ => ceilDiv (n * fmtBits code) 8

/-- The bytes of element `i` in its packed row, from-to, its codebook or scale apart. -/
def elemSpan (code i : Nat) : Nat × Nat :=
  match code with
  | 0x10 => let b := i / 1024 * 544 + 32 + i % 1024 / 2; (b, b + 1)
  | 0x11 => let b := i / 1024 * 288 + i % 1024 / 4; (b, b + 1)
  | _ => let w := fmtBits code; (i * w / 8, (i * w + w - 1) / 8 + 1)

/-- The codebook or scale bytes that element `i` of a codebook row uses. -/
def auxSpan (code i : Nat) : Nat × Nat :=
  match code with
  | 0x10 => (i / 1024 * 544, i / 1024 * 544 + 32)
  | 0x11 => let b := i / 1024 * 288 + 256 + i % 1024 / 64 * 2; (b, b + 2)
  | _ => (0, 0)

/-- Read bytes through the wide view: whole sectors, every byte of a sector with a poisoned word marked (R200, R368). -/
def readSec (g off n : Nat) (s : State) : List (Byte × Bool) × State :=
  if n = 0 then ([], s) else
  let lo := off / 32
  let hi := (off + n - 1) / 32 + 1
  let r := readSp g (32 * lo) (32 * (hi - lo)) s
  let sec := (List.range (hi - lo)).flatMap fun i =>
    let b := (r.1.drop (32 * i)).take 32
    let bad := b.any Prod.snd
    b.map fun x => (x.1, bad)
  ((sec.drop (off % 32)).take n, r.2)

/-- Some byte of a range is marked. -/
def anyBad (bs : List (Byte × Bool)) (r : Nat × Nat) : Bool := ((bs.drop r.1).take (r.2 - r.1)).any Prod.snd

/-- The encoding of element `i` of a packed row given as one little-endian number. -/
def elemBits (code row i : Nat) : Nat :=
  match code with
  | 0x10 => (row >>> (8 * (i / 1024 * 544 + 32) + 4 * (i % 1024))) % 16
  | 0x11 => (row >>> (8 * (i / 1024 * 288) + 2 * (i % 1024))) % 4
  | _ => (row >>> (fmtBits code * i)) % 2 ^ fmtBits code

/-- The value of element `i` of a packed row (R74-R80): `scale` gives the MX scale byte of a block, `book` the CB2
codebook. -/
def elemNum (fmt book : Nat) (ftz : Bool) (row : Nat) (scale : Nat → Nat) (i : Nat) : Num × Nat :=
  let code := fmtCode fmt
  let e := elemBits code row i
  if fmtMx fmt then (mxNum code e (scale (i / 32)), 0)
  else
    match code with
    | 0x10 => decode 0x03 false ((row >>> (8 * (i / 1024 * 544) + 16 * e)) % 2 ^ 16)
    | 0x11 =>
      let sc := (row >>> (8 * (i / 1024 * 288 + 256) + 16 * (i % 1024 / 64))) % 2 ^ 16
      let p := mulNum (decode 0x02 false (bits book (16 * e + 15) (16 * e))).1 (decode 0x02 false sc).1
      (p.1, p.2)
    | c => decode c ftz e

/-- An element with its poison mark. -/
abbrev Elem := Num × Bool

/-- The bytes, from-to, of the sectors that hold an element of a packed row of `n`, or its codebook or scale (R170). -/
def rowSpans (code n : Nat) : List (Nat × Nat) :=
  let left (b : Nat) : Nat := min 1024 (n - 1024 * b)
  match code with
  | 0x10 => (List.range (ceilDiv n 1024)).flatMap fun b =>
      [(544 * b, 544 * b + 32), (544 * b + 32, 544 * b + 32 + 32 * ceilDiv (ceilDiv (left b) 2) 32)]
  | 0x11 => (List.range (ceilDiv n 1024)).flatMap fun b =>
      [(288 * b, 288 * b + 32 * ceilDiv (ceilDiv (left b) 4) 32), (288 * b + 256, 288 * b + 288)]
  | _ => [(0, min (packedBytes code n) (32 * ceilDiv (ceilDiv (n * fmtBits code) 8) 32))]

/-- The lines that a read of a row takes (R200): those of its spans and of its MX scales at byte `sc`. -/
def rowLines (t : Tensor) (a sc n : Nat) : List Nat :=
  (((rowSpans (fmtCode t.fmt) n).flatMap fun p => spLines (a + p.1) (p.2 - p.1)) ++
    (if fmtMx t.fmt then spLines sc (ceilDiv n 32) else [])).eraseDups

/-- Read the spans of a row at byte `a`; the bytes between them, which are not read, count as 0. -/
def readSpans (g a : Nat) (spans : List (Nat × Nat)) (s : State) : List (Byte × Bool) × State :=
  spans.foldl (fun r p =>
    let t := readSec g (a + p.1) (p.2 - p.1) r.2
    (r.1 ++ List.replicate (p.1 - r.1.length) (0, false) ++ t.1, t.2)) ([], s)

/-- Read `n` elements of a packed row at scratchpad byte `a`, the MX scales at byte `sc` (R176, R537): the elements, the
flags of flushed or invalid inputs, and the state after. -/
def readRow (g : Nat) (t : Tensor) (a sc n : Nat) (ftz : Bool) (s : State) : (List Elem × Nat) × State :=
  let code := fmtCode t.fmt
  let r := readSpans g a (rowSpans code n) s
  let q := if fmtMx t.fmt then readSec g sc (ceilDiv n 32) r.2 else ([], r.2)
  let row := leNat (r.1.map Prod.fst)
  let scale (b : Nat) : Nat := ((q.1.getD b (0, false)).1).toNat
  let es := (List.range n).map fun i =>
    (elemNum t.fmt t.codebook ftz row scale i,
      anyBad r.1 (elemSpan code i) || anyBad r.1 (auxSpan code i) || (fmtMx t.fmt && (q.1.getD (i / 32) (0, false)).2))
  ((es.map fun e => (e.1.1, e.2), es.foldl (fun k e => k ||| e.1.2) 0), q.2)

/-- Lay encodings of `w` bits one behind the other (R73). -/
def packBits (w : Nat) : List Nat → Nat
  | [] => 0
  | x :: xs => x + 2 ^ w * packBits w xs

/-- Split a list into blocks of `n`; `fuel` bounds their number. -/
def chunks {α : Type} (n : Nat) : Nat → List α → List (List α)
  | 0, _ => []
  | f + 1, xs => if xs.isEmpty then [] else xs.take n :: chunks n f (xs.drop n)

/-- Where the bytes of an output row go: (address, first byte, length) of each run; one run, or segments (R182). -/
def rowRuns (a seg segPitch n : Nat) : List (Nat × Nat × Nat) :=
  if seg = 0 then [(a, 0, n)]
  else (List.range (ceilDiv n seg)).map fun i => (a + i * segPitch, i * seg, min seg (n - i * seg))

/-- The parts of the runs that lie in spans of the row. -/
def cutRuns (spans : List (Nat × Nat)) (runs : List (Nat × Nat × Nat)) : List (Nat × Nat × Nat) :=
  runs.flatMap fun r => spans.filterMap fun p =>
    let lo := max p.1 r.2.1
    let hi := min p.2 (r.2.1 + r.2.2)
    if lo < hi then some (r.1 + (lo - r.2.1), lo, hi - lo) else none

/-- Write the bytes of a row, given by runs; every sector that holds a byte of a marked element is marked whole (R368). -/
def putRow (g : Nat) (runs : List (Nat × Nat × Nat)) (bytes : List Byte) (bad : Nat → Bool) (s : State) : State :=
  runs.foldl (fun t r =>
    let sectors := ((List.range r.2.2).filter fun j => bad (r.2.1 + j)).map fun j => (r.1 + j) / 32
    let part := (bytes.drop r.2.1).take r.2.2
    writeSp .engine g r.1 (part.zipIdx.map fun e => (e.1, sectors.contains ((r.1 + e.2) / 32))) t) s

/-- Byte `j` of a packed row belongs to a marked element. -/
def byteBad (code : Nat) (bad : List Bool) (j : Nat) : Bool :=
  let w := fmtBits code
  (List.range ((8 * j + 7) / w - 8 * j / w + 1)).any fun k => bad.getD (8 * j / w + k) false

/-- Write a row of values in a scalar or MX format, no sector that holds none of them (R88, R90, R170, R537): the flags and the state after. -/
def writeRow (g fmt : Nat) (a : Arith) (cls : NumClass) (runs : List (Nat × Nat × Nat)) (sc : Nat) (xs : List Elem) (s : State) :
    Nat × State :=
  let code := fmtCode fmt
  let n := xs.length
  let runs := cutRuns (rowSpans code n) runs
  if fmtMx fmt then
    let bs := (chunks 32 (ceilDiv n 32) xs).map fun b => (encBlock code a (b.map Prod.fst), b.any Prod.snd)
    let bytes := leBytes (packedBytes code n) (packBits (fmtBits code) (bs.flatMap fun b => b.1.2.1))
    let bad := bs.flatMap fun b => b.1.2.1.map fun _ => b.2
    let s := putRow g runs bytes (byteBad code bad) s
    let s := writeSp .engine g sc (bs.map fun b => (BitVec.ofNat 8 b.1.1, b.2)) s
    (bs.foldl (fun k b => k ||| b.1.2.2) 0, s)
  else
    let es := xs.map fun x => encode code a cls x.1
    let bytes := leBytes (packedBytes code n) (packBits (fmtBits code) (es.map Prod.fst))
    (es.foldl (fun k e => k ||| e.2) 0, putRow g runs bytes (byteBad code (xs.map Prod.snd)) s)

/-- Status of a descriptor that met poison or not. -/
def poisonStat (bad : Bool) : DStat := if bad then .poisoned else .ok

/-- Scratchpad address of a tensor's first byte for a context (R205). -/
def spAddr (c : Ctx) (t : Tensor) : Nat := c.spBase + t.offset

/-- The body of a MATMUL (R180). -/
structure MmBody where
  a : Tensor
  b : Tensor
  c : Tensor
  scl : Option Tensor
  bias : Option Tensor
  nk : Bool
  acc : Bool
  m : Nat
  n : Nat
  k : Nat
  aOff : Nat
  aPitch : Nat
  aKpitch : Nat
  bOff : Nat
  bPitch : Nat
  cOff : Nat
  cPitch : Nat
  batch : Nat
  aBs : Nat
  bBs : Nat
  cBs : Nat
deriving DecidableEq, Repr

/-- A tensor index that may be absent. -/
def optTensor (img : List Byte) (tid : Nat) : Option Tensor := if tid = 0xFFFF then none else some (tensorOf img tid)

/-- Decode a MATMUL body. -/
def mmBody (img d : List Byte) : MmBody :=
  let f := fieldAt d
  { a := tensorOf img (f 0x10 15 0), b := tensorOf img (f 0x10 31 16), c := tensorOf img (f 0x14 15 0)
    scl := optTensor img (f 0x14 31 16), bias := optTensor img (f 0x18 15 0)
    nk := f 0x18 16 16 = 1, acc := f 0x18 17 17 = 1
    m := f 0x24 16 0, n := f 0x28 16 0, k := f 0x2C 20 0
    aOff := f 0x30 31 0, aPitch := f 0x34 31 0, aKpitch := f 0x38 31 0, bOff := f 0x3C 31 0, bPitch := f 0x40 31 0
    cOff := f 0x44 31 0, cPitch := f 0x48 31 0, batch := f 0x4C 12 0, aBs := f 0x50 31 0, bBs := f 0x54 31 0, cBs := f 0x58 31 0 }

/-- Tile depth K_t of a format; the slower operand's is the smaller (R171). -/
def tileDepth (code : Nat) : Nat :=
  match code with
  | 0x01 | 0x02 | 0x03 => 128
  | 0x08 | 0x0C | 0x10 | 0x11 => 512
  | 0x0E => 2048
  | _ => 256

/-- K_t of a MATMUL. -/
def MmBody.kt (x : MmBody) : Nat := min (tileDepth (fmtCode x.a.fmt)) (tileDepth (fmtCode x.b.fmt))

/-- The scale tensor of an MX tensor. -/
def scaleOf (img : List Byte) (t : Tensor) : Tensor := tensorOf img t.scaleTid

/-- The span of an operand, and that of its scale tensor of `n` bytes (R206, R537). -/
def tensorSpans (img : List Byte) (c : Ctx) (kind : SbKind) (t : Tensor) (off len scales : Nat) : List SbSpan :=
  ⟨kind, spAddr c t + off, spAddr c t + off + len⟩ ::
    (if fmtMx t.fmt then let u := scaleOf img t; [⟨kind, spAddr c u, spAddr c u + scales⟩] else [])

/-- The spans of a MATMUL (R162, R176). -/
def mmSpans (img d : List Byte) (c : Ctx) : List SbSpan :=
  let x := mmBody img d
  let pb (t : Tensor) (n : Nat) := packedBytes (fmtCode t.fmt) n
  let ks := ceilDiv x.k x.kt
  let kb := ceilDiv x.k 32
  tensorSpans img c .read x.a x.aOff ((x.batch - 1) * x.aBs + (x.m - 1) * x.aPitch + (ks - 1) * x.aKpitch + pb x.a (x.k - (ks - 1) * x.kt))
      (x.batch * x.m * kb)
    ++ tensorSpans img c .read x.b x.bOff ((x.batch - 1) * x.bBs + (if x.nk then (x.n - 1) * x.bPitch + pb x.b x.k else (x.k - 1) * x.bPitch + pb x.b x.n))
      ((if x.bBs = 0 then 1 else x.batch) * x.n * kb)
    ++ tensorSpans img c .write x.c x.cOff ((x.batch - 1) * x.cBs + (x.m - 1) * x.cPitch + pb x.c x.n) (x.batch * x.m * ceilDiv x.n 32)
    ++ (x.scl.toList ++ x.bias.toList).flatMap fun t => tensorSpans img c .read t 0 (4 * x.n) 0

/-- An operand of a vector descriptor: tensor, offset, pitch, and mode (0 ELEMENT, 1 ROW, 2 COLUMN, 3 SCALAR). -/
structure VxOp where
  t : Tensor
  off : Nat
  pitch : Nat
  mode : Nat := 0
deriving DecidableEq, Repr

/-- The common operand block (R182). -/
structure VxBody where
  x : Option VxOp
  y : Option VxOp
  z : Option VxOp
  o : Option VxOp
  o2 : Option VxOp
  steps : Nat
  rows : Nat
  cols : Nat
  seg : Nat
  segPitch : Nat
deriving DecidableEq, Repr

/-- Decode the operand block. -/
def vxBody (img d : List Byte) : VxBody :=
  let f := fieldAt d
  let op (tid off mode : Nat) : Option VxOp := (optTensor img tid).map fun t => ⟨t, f off 31 0, f (off + 4) 31 0, mode⟩
  { x := op (f 0x10 15 0) 0x30 0, y := op (f 0x10 31 16) 0x38 (f 0x18 17 16), z := op (f 0x14 15 0) 0x40 (f 0x18 19 18)
    o := op (f 0x14 31 16) 0x48 0, o2 := op (f 0x18 15 0) 0x50 0
    steps := f 0x24 18 16, rows := f 0x28 24 0, cols := f 0x2C 24 0, seg := f 0x58 23 0, segPitch := f 0x5C 31 0 }

/-- Elements per output row: of O and of O2 (R184). -/
def vxOutCols (d : List Byte) (x : VxBody) : Nat × Nat :=
  match dType d with
  | 0x41 => (1, 1)
  | 0x45 => (fieldAt d 0x60 12 0, fieldAt d 0x60 12 0)
  | 0x46 => (1, 1)
  | 0x47 => (if fieldAt d 0x60 1 0 = 1 && (x.o.map fun o => fmtCode o.t.fmt) = some 0x0F then fieldAt d 0x64 7 0 else x.cols, x.cols)
  | 0x48 => (fieldAt d 0x6C 24 0, 1)
  | _ => (x.cols, x.cols)

/-- Bytes that the Y operand of an ENCODE holds: CB4 codebooks by block, or PQ4 centroids (R194). -/
def encodeTableBytes (x : VxBody) : Nat :=
  match x.o.map fun o => fmtCode o.t.fmt with
  | some 0x10 => x.rows * ceilDiv x.cols 1024 * 32
  | some 0x0F => 16 * x.cols * 4
  | _ => 0

/-- The operands of a vector descriptor with their spans, inputs then outputs (R162, R182, R537). -/
def vxOpSpans (img d : List Byte) (c : Ctx) : List (VxOp × List SbSpan) :=
  let x := vxBody img d
  let pb (t : Tensor) (n : Nat) := packedBytes (fmtCode t.fmt) n
  let inp (o : VxOp) : List SbSpan :=
    let rows := if o.mode = 1 || o.mode = 3 then 1 else x.rows
    let cols := if 2 ≤ o.mode then 1 else x.cols
    tensorSpans img c .read o.t o.off ((rows - 1) * o.pitch + pb o.t cols) ((rows - 1) * ceilDiv x.cols 32 + ceilDiv cols 32)
  let table (o : VxOp) : List SbSpan := tensorSpans img c .read o.t o.off (encodeTableBytes x) 0
  let out (o : VxOp) (n : Nat) (seg : Nat) : List SbSpan :=
    let b := pb o.t n
    let len := if seg = 0 then b else (ceilDiv b seg - 1) * x.segPitch + seg
    tensorSpans img c .write o.t o.off ((x.rows - 1) * o.pitch + len) ((x.rows - 1) * ceilDiv x.cols 32 + ceilDiv n 32)
  let n := vxOutCols d x
  (x.x.toList.map fun o => (o, inp o))
    ++ (x.y.toList.map fun o => (o, if dType d = 0x47 then table o else inp o))
    ++ (x.z.toList.map fun o => (o, inp o)) ++ (x.o.toList.map fun o => (o, out o n.1 x.seg)) ++ (x.o2.toList.map fun o => (o, out o n.2 0))

/-- The spans of a vector descriptor (R162, R206). -/
def vxSpans (img d : List Byte) (c : Ctx) : List SbSpan := (vxOpSpans img d c).flatMap Prod.snd

/-- Unit bytes and elements per unit of a format (R219). -/
def unitOf (code : Nat) : Nat × Nat :=
  match code with
  | 0x12 => (8, 1)
  | 0x01 | 0x09 => (4, 1)
  | 0x02 | 0x03 | 0x0A => (2, 1)
  | 0x08 | 0x0C | 0x0F => (1, 2)
  | 0x06 | 0x07 => (3, 4)
  | 0x0E => (1, 8)
  | 0x10 => (544, 1024)
  | 0x11 => (288, 1024)
  | _ => (1, 1)

/-- The body of a movement descriptor (R221). -/
structure TmBody where
  mem : Tensor
  memTid : Nat
  sp : Tensor
  mask : Option Tensor
  transpose : Bool
  remote : Bool
  padWrite : Bool
  cntEn : Bool
  edge : List Nat
  cntOff : Nat
  padValue : Nat
  spOff : Nat
  maskOff : Nat
  cnt : List Nat
  start : List Int
  memPitch : List Nat
  spPitch : List Nat
  step : List Int
  idx : Option Tensor
  gdim : Nat
  idxNeg : Bool
  idxOor : Nat
  idxNull : Bool
  accum : Bool
  collide : Nat
  coalesce : Bool
  idxOff : Nat
deriving DecidableEq, Repr

/-- Decode a movement body; lists are by dimension 0-5. -/
def tmBody (img d : List Byte) : TmBody :=
  let f := fieldAt d
  { mem := tensorOf img (f 0x10 15 0), memTid := f 0x10 15 0, sp := tensorOf img (f 0x10 31 16), mask := optTensor img (f 0x14 15 0)
    transpose := f 0x14 16 16 = 1, remote := f 0x14 17 17 = 1, padWrite := f 0x14 18 18 = 1, cntEn := f 0x14 19 19 = 1
    edge := (List.range 6).map fun i => f 0x18 (2 * i + 1) (2 * i)
    cntOff := f 0x1C 24 0, padValue := f 0x20 63 0, spOff := f 0x28 31 0, maskOff := f 0x2C 31 0
    cnt := (List.range 6).map fun i => f (0x30 + 4 * i) 24 0
    start := (List.range 6).map fun i => toSigned 32 (f (0x48 + 4 * i) 31 0)
    memPitch := 0 :: (List.range 5).map fun i => f (0x60 + 8 * i) 47 0
    spPitch := 0 :: (List.range 5).map fun i => f (0x88 + 4 * i) 31 0
    step := 1 :: (List.range 5).map fun i => toSigned 8 (f 0x9C (8 * i + 7) (8 * i))
    idx := optTensor img (f 0xA4 15 0), gdim := f 0xA4 18 16, idxNeg := f 0xA4 19 19 = 1, idxOor := f 0xA4 21 20
    idxNull := f 0xA4 22 22 = 1, accum := f 0xA4 24 24 = 1, collide := f 0xA4 26 25, coalesce := f 0xA4 27 27 = 1
    idxOff := f 0xA8 31 0 }

/-- Unit bytes of a movement. -/
def TmBody.u (x : TmBody) : Nat := (unitOf (fmtCode x.mem.fmt)).1

/-- Iterations of a movement. -/
def TmBody.iters (x : TmBody) : Nat := x.cnt.foldl (· * ·) 1

/-- Scratch offset of iteration `n` from the tensor's first byte (R222). -/
def TmBody.spAt (x : TmBody) (n : List Nat) : Nat :=
  let hi := ((List.range 4).map fun i => x.spPitch.getD (i + 2) 0 * n.getD (i + 2) 0).sum
  x.spOff + hi + (if x.transpose then x.u * n.getD 1 0 + x.spPitch.getD 1 0 * n.getD 0 0
    else x.u * n.getD 0 0 + x.spPitch.getD 1 0 * n.getD 1 0)

/-- The spans of a movement descriptor (R237). -/
def tmSpans (img d : List Byte) (c : Ctx) : List SbSpan :=
  let x := tmBody img d
  let top := x.spAt (x.cnt.map (· - 1)) + x.u
  let base := spAddr c x.sp
  let spKind := if dType d = 0x68 || dType d = 0x71 then SbKind.read else .write
  [⟨spKind, base + x.spOff, base + top⟩]
    ++ (x.mask.toList.map fun t => ⟨.write, spAddr c t + x.maskOff, spAddr c t + x.maskOff + ceilDiv x.iters 8⟩)
    ++ (x.idx.toList.map fun t => ⟨.read, spAddr c t + x.idxOff, spAddr c t + x.idxOff + 4 * x.cnt.getD x.gdim 1⟩)
    ++ (if x.cntEn then [⟨.write, c.spBase + x.cntOff, c.spBase + x.cntOff + 16⟩] else [])

end Sys2Proof.Machine
end

