-- ==== Sys2Proof/Machine/Mxe.lean ====
section
/-!
DEFINITION. The matrix engine (R169-R180): a MATMUL reads its operands, accumulates in the order of R173 and drains.
-/

namespace Sys2Proof.Machine

/-- A row of elements with its flags; `bad` when any element lies in a poisoned sector. -/
structure MmRow where
  xs : List Num := []
  bad : Bool := false
  ex : Nat := 0
deriving DecidableEq, Repr

/-- Make a matrix row of elements read. -/
def mmRow (r : List Elem × Nat) : MmRow := ⟨r.1.map Prod.fst, r.1.any Prod.snd, r.2⟩

/-- Join the chunks of a row. -/
def MmRow.join (a b : MmRow) : MmRow := ⟨a.xs ++ b.xs, a.bad || b.bad, a.ex ||| b.ex⟩

/-- Row `m` of A in batch `b`, chunk by chunk (R176, R537). -/
def readA (g : Nat) (x : MmBody) (c : Ctx) (sc : Nat) (ftz : Bool) (b m : Nat) (s : State) : MmRow × State :=
  let kb := ceilDiv x.k 32
  (List.range (ceilDiv x.k x.kt)).foldl (fun r i =>
    let t := readRow g x.a (spAddr c x.a + x.aOff + b * x.aBs + m * x.aPitch + i * x.aKpitch)
      (sc + (b * x.m + m) * kb + i * x.kt / 32) (min x.kt (x.k - i * x.kt)) ftz r.2
    (r.1.join (mmRow t.1), t.2)) ({}, s)

/-- Columns `n0` to `n0 + nn - 1` of B in batch `b` (R176, R537): stored by n for NK, by k for KN. -/
def readB (g : Nat) (x : MmBody) (c : Ctx) (sc : Nat) (ftz : Bool) (b n0 nn : Nat) (s : State) : List MmRow × State :=
  let base := spAddr c x.b + x.bOff + b * x.bBs
  if x.nk then
    let r := mapState (fun i => readRow g x.b (base + (n0 + i) * x.bPitch) (sc + ((if x.bBs = 0 then 0 else b) * x.n + n0 + i) * ceilDiv x.k 32) x.k ftz)
      (List.range nn) s
    (r.1.map mmRow, r.2)
  else
    let r := mapState (fun k => readRow g x.b (base + k * x.bPitch + packedBytes (fmtCode x.b.fmt) n0) 0 nn ftz) (List.range x.k) s
    let ex := r.1.foldl (fun k e => k ||| e.2) 0
    ((List.range nn).map fun i =>
      let es := r.1.map fun e => e.1.getD i (.zero, false)
      ⟨es.map Prod.fst, es.any Prod.snd, ex⟩, r.2)

/-- The MATMUL accumulates in FP32: the floating and codebook classes (R91, R95). -/
def MmBody.floating (x : MmBody) : Bool := (floatFmt (fmtCode x.a.fmt)).isSome || fmtMx x.a.fmt

/-- A running accumulator: value, flags, and whether it has overflowed (R92). -/
structure MmAcc where
  v : Num
  ex : Nat := 0
  ovf : Bool := false
deriving DecidableEq, Repr

/-- Add a product to an accumulator (R91, R92, R173). -/
def MmAcc.step (fl sat : Bool) (a : MmAcc) (p : Num × Num) : MmAcc :=
  let q := mulNum p.1 p.2
  if fl then
    let r := accF32 a.v q.1
    ⟨r.1, a.ex ||| q.2 ||| r.2, a.ovf || r.2 &&& exOF != 0⟩
  else
    let r := accInt 32 sat a.v.toInt q.1.toInt
    ⟨Num.ofInt r.1, a.ex ||| r.2, a.ovf || r.2 != 0⟩

/-- The products that the accumulator of one element of C takes, in rising k: one by one, or for B1 one sum per k-step of K_t
elements (R91, R173, R175). -/
def MmBody.terms (x : MmBody) (a b : List Num) : List (Num × Num) :=
  let ps := a.zip b
  if fmtCode x.b.fmt = 0x0E then
    (chunks x.kt (ceilDiv x.k x.kt) ps).map fun q => (Num.ofInt ((q.map fun p => (mulNum p.1 p.2).1.toInt).sum), .fin false 1 0)
  else ps

/-- The value that an accumulator drains, before its one rounding (R174, R92): a × s + c, an absent scale counting as 1 and an
absent bias as 0; with its flags and its class. -/
def drainValue (fl : Bool) (cCode : Nat) (ar : Arith) (acc : MmAcc) (scl bias : Option Num) : Num × Nat × NumClass :=
  let p := mulNum acc.v (scl.getD (.fin false 1 0))
  let q := addNum ar.round p.1 (bias.getD .zero)
  let v := match floatFmt cCode with
    | some f => if acc.ovf && ar.sat && q.1.isInf then ((decFloat f false f.max).1).withSign q.1.neg else q.1
    | none => q.1
  (v, acc.ex ||| p.2 ||| q.2, if fl || scl.isSome || bias.isSome then .float else .int)

/-- One row of a C tile (R173, R174): accumulate over k and drain. `ini` holds the elements of C that the accumulator starts
from, and `at_` and `scC` are the places of the row's part in C and in its scale tensor. -/
def mmCRow (g : Nat) (x : MmBody) (at_ scC : Nat) (ar : Arith) (arow : MmRow) (cols : List MmRow) (ini : List Elem)
    (scl bias : Option (List Elem)) (s : State) : (Nat × Bool) × State :=
  let cCode := fmtCode x.c.fmt
  let car : Arith := if fmtCode x.b.fmt = 0x0E then ⟨0, ar.sat, false⟩ else ar
  let outs := cols.zipIdx.map fun col =>
    let i := ini.getD col.2 (.zero, false)
    let acc := (x.terms arow.xs col.1.xs).foldl (MmAcc.step x.floating ar.sat) ⟨i.1, 0, false⟩
    let sv := scl.map fun l => l.getD col.2 (.zero, false)
    let bv := bias.map fun l => l.getD col.2 (.zero, false)
    let d := drainValue x.floating cCode car acc (sv.map Prod.fst) (bv.map Prod.fst)
    (d, arow.bad || col.1.bad || i.2 || (sv.map Prod.snd).getD false || (bv.map Prod.snd).getD false)
  let cls := (outs.head?.map fun o => o.1.2.2).getD .float
  let w := writeRow g x.c.fmt car cls [(at_, 0, packedBytes cCode cols.length)] scC (outs.map fun o => (o.1.1, o.2)) s
  ((outs.foldl (fun k o => k ||| o.1.2.1) w.1, outs.any Prod.snd), w.2)

/-- The bytes, from-to, that elements `k0` to `k0 + n - 1` of a packed row take, with a codebook or scales that they use (R79, R80,
R176). -/
def partSpans (code k0 n : Nat) : List (Nat × Nat) :=
  match code with
  | 0x10 => let b := k0 / 1024 * 544; let i := b + 32 + k0 % 1024 / 2; [(b, b + 32), (i, i + ceilDiv n 2)]
  | 0x11 =>
    let b := k0 / 1024 * 288
    let i := b + k0 % 1024 / 4
    let j := b + 256 + k0 % 1024 / 64 * 2
    [(i, i + ceilDiv n 4), (j, j + 2 * ceilDiv n 64)]
  | _ => [(fmtBits code * k0 / 8, ceilDiv (fmtBits code * (k0 + n)) 8)]

/-- The lines of a part of a packed row at byte `a`. -/
def partLines (code a k0 n : Nat) : List Nat := (partSpans code k0 n).flatMap fun p => spLines (a + p.1) (p.2 - p.1)

/-- The distinct lines that k-step `i` of a tile reads (R178): its A chunks and its B tile, each with its scales. -/
def MmBody.stepLines (x : MmBody) (c : Ctx) (scA scB b m0 mm n0 nn i : Nat) : List Nat :=
  let k0 := i * x.kt
  let kn := min x.kt (x.k - k0)
  let kb := ceilDiv x.k 32
  let scales (t : Tensor) (row : Nat) : List Nat := if fmtMx t.fmt then spLines (row + k0 / 32) (ceilDiv kn 32) else []
  let baseB := spAddr c x.b + x.bOff + b * x.bBs
  let a := (List.range mm).flatMap fun r =>
    partLines (fmtCode x.a.fmt) (spAddr c x.a + x.aOff + b * x.aBs + (m0 + r) * x.aPitch + i * x.aKpitch) 0 kn
      ++ scales x.a (scA + (b * x.m + m0 + r) * kb)
  let w :=
    if x.nk then (List.range nn).flatMap fun r =>
      partLines (fmtCode x.b.fmt) (baseB + (n0 + r) * x.bPitch) k0 kn ++ scales x.b (scB + ((if x.bBs = 0 then 0 else b) * x.n + n0 + r) * kb)
    else (List.range kn).flatMap fun k => partLines (fmtCode x.b.fmt) (baseB + (k0 + k) * x.bPitch) n0 nn
  a.eraseDups ++ w.eraseDups

/-- One C tile of 128 × 128 elements (R172): C is loaded whole with ACCUMULATE, then the operands are read, then the tile drains
row by row. -/
def mmTile (g : Nat) (img : List Byte) (x : MmBody) (c : Ctx) (ar : Arith) (scl bias : Option (List Elem)) (b m0 n0 : Nat) (s : State) :
    (Nat × Bool) × State :=
  let sc (t : Tensor) : Nat := if fmtMx t.fmt then spAddr c (scaleOf img t) else 0
  let mm := min 128 (x.m - m0)
  let nn := min 128 (x.n - n0)
  let at_ (i : Nat) : Nat := spAddr c x.c + x.cOff + b * x.cBs + (m0 + i) * x.cPitch + packedBytes (fmtCode x.c.fmt) n0
  let steps := (List.range (ceilDiv x.k x.kt)).flatMap fun i => x.stepLines c (sc x.a) (sc x.b) b m0 mm n0 nn i
  let old := if x.acc then ((List.range mm).flatMap fun i => rowLines x.c (at_ i) 0 nn).eraseDups else []
  let s := takeSlots .engine g (steps.length + old.length) s
  let ini := if x.acc then mapState (fun i => readRow g x.c (at_ i) 0 nn ar.ftz) (List.range mm) s else ([], s)
  let cols := readB g x c (sc x.b) ar.ftz b n0 nn ini.2
  let rows := mapState (fun i => readA g x c (sc x.a) ar.ftz b (m0 + i)) (List.range mm) cols.2
  let part (v : Option (List Elem)) : Option (List Elem) := v.map fun l => l.drop n0
  let ex := (ini.1.map Prod.snd ++ cols.1.map MmRow.ex ++ rows.1.map MmRow.ex).foldl (· ||| ·) 0
  rows.1.zipIdx.foldl (fun r a =>
    let o := mmCRow g x (at_ a.2) (sc x.c + (b * x.m + m0 + a.2) * ceilDiv x.n 32 + n0 / 32) ar a.1 cols.1 ((ini.1.getD a.2 ([], 0)).1)
      (part scl) (part bias) r.2
    ((r.1.1 ||| o.1.1, r.1.2 || o.1.2), o.2)) ((ex, false), rows.2)

/-- The C tiles of a MATMUL in their order, as batch, first row and first column (R172). -/
def MmBody.tiles (x : MmBody) : List (Nat × Nat × Nat) :=
  (List.range x.batch).flatMap fun b => (List.range (ceilDiv x.m 128)).flatMap fun m => (List.range (ceilDiv x.n 128)).map fun n =>
    (b, 128 * m, 128 * n)

/-- A whole MATMUL (R172): the flags, whether anything read was poisoned, and the state after. -/
def matmul (g : Nat) (img d : List Byte) (c : Ctx) (s : State) : (Nat × Bool) × State :=
  let x := mmBody img d
  let ar := arithOf (dArith d)
  let vec (t : Option Tensor) (s : State) : Option (List Elem) × Nat × State :=
    match t with
    | some t =>
      let r := readRow g t (spAddr c t) 0 x.n ar.ftz (takeSlots .engine g (rowLines t (spAddr c t) 0 x.n).length s)
      (some r.1.1, r.1.2, r.2)
    | none => (none, 0, s)
  let sv := vec x.scl s
  let bv := vec x.bias sv.2.2
  x.tiles.foldl (fun r t =>
    let o := mmTile g img x c ar sv.1 bv.1 t.1 t.2.1 t.2.2 r.2
    ((r.1.1 ||| o.1.1, r.1.2 || o.1.2), o.2)) ((sv.2.1 ||| bv.2.1, false), bv.2.2)

/-- MATMUL (R172-R180): the oldest started MATMUL of the context runs to its last drain. -/
def execMatmul (core ctx : Nat) (s : State) : Result :=
  match currentWork s core ctx qMx [0x30] with
  | none => .next s
  | some w =>
    let r := matmul core (ctxImage s core ctx) w.img (ctxAt s (ctxId core ctx)) s
    .next (endWork core ctx qMx w.k (poisonStat r.1.2) r.1.1 0 r.2)

end Sys2Proof.Machine
end

