-- ==== Sys2Proof/Machine/Flights.lean ====
section
/-!
DEFINITION. Bank-command descriptors: their body (R276, R304), the spans they register (R277, R279, R280), and how one in flight
completes (R281).
-/

namespace Sys2Proof.Machine

/-- The body of a Q_BK descriptor (R276); a BK_ROWOP fills the fields that it shares (R304). -/
structure BkBody where
  row : Bool
  stack : Nat
  bank : Bool
  b2 : Bool
  cond : Nat
  chans : List Nat
  banks : List Nat
  st : Tensor
  reg : Tensor
  out : Option Tensor
  stat : Option Tensor
  sf : Nat
  rf : Nat
  bankOff : Nat
  n1 : Nat
  n2 : Nat
  m : Nat
  thresh : Nat
  cap : Nat
  idBase : Nat
  mask : Option Tensor
  maskOff : Nat
  outb : Option Tensor
  outbOff : Nat
  regOff : Nat
  outOff : Nat
  statOff : Nat
deriving DecidableEq, Repr

/-- The set bits of a mask, ascending. -/
def bitList (v : Nat) : List Nat := (List.range 32).filter fun i => bit v i = 1

/-- Decode a Q_BK body. -/
def bkBody (img d : List Byte) : BkBody :=
  let f := fieldAt d
  let row := dType d = 0x90
  { row := row, stack := 3 * f 0x10 1 0 + f 0x10 3 2, bank := !row && f 0x10 4 4 = 1, b2 := !row && f 0x10 5 5 = 1
    cond := if row then 0 else f 0x10 7 6, chans := bitList (f 0x14 31 0), banks := bitList (f 0x18 31 0)
    st := tensorOf img (f 0x1C 15 0), reg := tensorOf img (f 0x1C 31 16)
    out := if row then none else optTensor img (f 0x20 15 0)
    stat := optTensor img (if row then f 0x20 15 0 else f 0x20 31 16)
    sf := f 0x24 15 0, rf := f 0x24 31 16
    bankOff := if row then 0 else f 0x28 31 0, n1 := if row then f 0x24 12 0 else f 0x2C 24 0, n2 := f 0x30 15 0, m := f 0x30 23 16
    thresh := f 0x34 31 0, cap := f 0x38 24 0, idBase := f 0x3C 31 0
    mask := if row then none else optTensor img (f 0x40 15 0), maskOff := f 0x44 31 0
    outb := if row then none else optTensor img (f 0x48 15 0), outbOff := f 0x4C 31 0
    regOff := if row then f 0x28 31 0 else 0, outOff := f 0x50 31 0, statOff := if row then f 0x2C 31 0 else f 0x54 31 0 }

/-- Bytes of the register stream (R276, R304). -/
def bkRegBytes (type : Nat) (x : BkBody) : Nat :=
  let e := fmtBits (fmtCode x.rf) / 8
  match type with
  | 0x80 => x.n2 * (if x.b2 then 2 else 1) * e
  | 0x81 => x.n2 * e
  | 0x82 => 4 * x.n1
  | 0x83 => x.m * 16 * e
  | _ => 8 * x.n1

/-- Region of records per unit (R279). -/
def bkRegion (type : Nat) (x : BkBody) : Nat :=
  match type with
  | 0x80 => x.n1 * (if x.b2 then 128 else 64)
  | 0x81 => ceilDiv x.n1 32 * 128
  | 0x82 => x.n2 * 128
  | 0x83 => x.cap * 8
  | _ => 0

/-- The spans of a Q_BK descriptor (R277, R304). -/
def bkSpans (img d : List Byte) (c : Ctx) : List SbSpan :=
  let x := bkBody img d
  let n := x.chans.length * x.banks.length
  let a := spAddr c x.reg + x.regOff
  ⟨.read, a, a + bkRegBytes (dType d) x⟩ ::
    (x.out.toList.map fun t => ⟨.write, spAddr c t + x.outOff, spAddr c t + x.outOff + n * bkRegion (dType d) x⟩)
    ++ (x.stat.toList.map fun t => ⟨.write, spAddr c t + x.statOff, spAddr c t + x.statOff + 16 * n⟩)

/-- The BKC page of core `g`. -/
def bkcPage (g : Nat) : Nat := (coreUnit g).page + 4

/-- Every unit has reported and every record and status entry has been written (R281). -/
def BkFlight.isDone (f : BkFlight) : Bool := f.reports.length = f.chans.length * f.banks.length && f.arrived.isEmpty

/-- Whether a flight is the descriptor's. -/
def BkFlight.isOf (f : BkFlight) (g c k : Nat) : Bool := f.core = g && f.ctx = c && f.k = k

/-- Completion status, exceptions and DETAIL of a flight (R278, R281): the first refusing unit is the one of lowest rank. -/
def BkFlight.outcome (f : BkFlight) : DStat × Nat × Nat :=
  let exc := f.reports.foldl (fun k r => k ||| r.exc) 0
  let refused := f.reports.filter fun r => r.kind = 3
  match refused.head? with
  | some r0 =>
    let u := refused.foldl (fun b r => if f.rank r.unit < f.rank b then r.unit else b) r0.unit
    (.fault, exc, 0x13 + u / 32 % 32 * 2 ^ 16 + u % 32 * 2 ^ 21)
  | none =>
    (if f.reports.any fun r => r.kind = 2 then .aborted else if f.reports.any UnitReport.poison then .poisoned else .ok, exc, 0)

/-- A flight's descriptor ends and its reservations are released (R277, R281). -/
def endFlight (f : BkFlight) (s : State) : State :=
  let o := f.outcome
  let s := { s with flights := s.flights.filter fun e => !e.isOf f.core f.ctx f.k }
  let s := if o.1 = .fault then count (bkcPage f.core) .bkcFaults 1 s else s
  endWork f.core f.ctx qBk f.k o.1 o.2.1 o.2.2 s

/-- End every flight that is done. -/
def settleFlights (s : State) : State := (s.flights.filter BkFlight.isDone).foldl (fun t f => endFlight f t) s

/-- Q_BK descriptors of a core in flight (R277). -/
def bkInFlight (s : State) (g : Nat) : Nat :=
  ((List.range 4).map fun c => (((ctxAt s (ctxId g c)).q qBk).live.filter fun w => w.stat.isNone).length).sum

end Sys2Proof.Machine
end

