-- ==== Sys2Proof/Machine/Program.lean ====
section
/-!
DEFINITION. The path of a descriptor through its queue (R109-R122): load, readiness and choice, start, completion; the control
descriptors of R109; scoreboard claims and releases (R209, R212); the hang watchdog (R148, R149).
-/

namespace Sys2Proof.Machine

/-- The FLT page. -/
abbrev pgFlt : Nat := 0x2028

/-- The descriptor may end FAULT, so that its record slot is reserved when it starts (R118, R430). -/
def canFault (type : Nat) : Bool :=
  type = 0x11 || (0x24 ≤ type && type ≤ 0x26) || (0x60 ≤ type && type ≤ 0x77) || (0x80 ≤ type && type ≤ 0x9F)

/-- The spans that a descriptor registers with the scoreboard (R206). -/
def descSpans (img d : List Byte) (c : Ctx) : List SbSpan :=
  let t := dType d
  if t = 0x30 then mmSpans img d c
  else if 0x40 ≤ t && t ≤ 0x5F then vxSpans img d c
  else if t = 0x60 || t = 0x68 || t = 0x70 || t = 0x71 then tmSpans img d c
  else if t = 0x22 && fieldAt d 0x14 1 1 = 1 then
    [⟨.write, c.spBase + fieldAt d 0x1C 23 0, c.spBase + fieldAt d 0x1C 23 0 + 4⟩]
  else if (t = 0x64 || t = 0x65) && fieldAt d 0x10 31 16 != 0xFFFF then
    let a := spAddr c (tensorOf img (fieldAt d 0x10 31 16)) + fieldAt d 0x20 31 0
    [⟨.read, a, a + 4 * fieldAt d 0x1C 24 0⟩]
  else if 0x80 ≤ t && t ≤ 0x9F then bkSpans img d c
  else []

/-- A counter meets a condition of CTR_WAIT (R131): 0 AT_OR_AFTER, 1 EQ, 2 NE. -/
def ctrCond (cond target v : Nat) : Bool :=
  match cond with
  | 0 => epochAtOrBefore target v
  | 1 => v = target
  | _ => v != target

/-- What an EPOCH_WAIT does now (R109): 0 met, 1 waits, 2 FAULT. -/
def epochWaitCode (s : State) (d : List Byte) : Nat :=
  let x := serialDiff (epochNow s) (fieldAt d 0x10 31 0)
  if x = 0 ∨ 2 ^ 31 + 1 ≤ x then 0 else if x < 2 ^ 30 then 1 else 2

/-- The recorded generation of a descriptor, if it has made an arrival (R135). -/
def Ctx.genOf (c : Ctx) (k : Nat) : Option SplitGen := c.gens.find? fun g => g.k = k

/-- The Q_SY operation of descriptor `k` has already been applied before an interruption (R459). -/
def syApplied (c : Ctx) (k : Nat) : Bool := (c.sy.map fun e => decide (e.1 = k)).getD false

/-- The descriptor's own condition, besides its waits and the scoreboard, lets it start (R109, R117, R140). -/
def condMet (s : State) (g c : Nat) (d : Desc) : Bool :=
  let cx := ctxAt s (ctxId g c)
  let obj (kind : Nat) := objectOf s (ctxId g c) kind (fieldAt d.img 0x10 31 0)
  match dType d.img with
  | 0x03 => false
  | 0x11 => epochWaitCode s d.img != 1
  | 0x21 => syApplied cx d.k || flagAt s (obj 0).1 (obj 0).2 = (fieldAt d.img 0x14 0 0 = 1)
  | 0x23 => ctrCond (fieldAt d.img 0x14 1 0) (fieldAt d.img 0x18 31 0) (ctrAt s (obj 1).1 (obj 1).2)
  | 0x25 => fieldAt d.img 0x14 0 0 = 0 || ((cx.genOf d.k).map SplitGen.done).getD true
  | 0x26 => ((cx.genOf (fieldAt d.img 0x14 15 0)).map SplitGen.done).getD true
  | _ => true

/-- A completion slot is there for the descriptor, when it needs one (R430); an interrupted one has kept its own (R458). -/
def slotThere (s : State) (cx : Ctx) (q : Nat) (d : Desc) : Bool :=
  !(dRec d.img || canFault (dType d.img)) || cx.slots.contains (q, d.k) || cqFree s ((runAt s cx.run).getD {}).sess

/-- The oldest unstarted descriptor of a context's queue: the loaded one, else the next of the stream (R112). -/
def oldest (s : State) (g c q : Nat) : Option Desc :=
  let cx := ctxAt s (ctxId g c)
  match (cx.q q).idle with
  | some d => some d
  | none =>
    let img := ctxImage s g c
    if (cx.q q).loaded < streamLen img cx.vcore cx.vctx q then
      some ⟨(cx.q q).loaded + 1, streamDesc img cx.vcore cx.vctx q ((cx.q q).loaded + 1)⟩
    else none

/-- The context may start descriptors of a type (R109, R120): none but CTX_BIND before CTX_BIND has completed. -/
def ctxOpen (cx : Ctx) (type : Nat) : Bool :=
  (cx.st = .running || (cx.st = .binding && type = 0x10)) && cx.journal != 2

/-- The loaded descriptor of a context may start as far as the scoreboard is not concerned (R112, R122): its waits and its own condition
are met, its predecessors let it start and its record has a slot. -/
def isCandidate (s : State) (g q c : Nat) : Bool :=
  let cx := ctxAt s (ctxId g c)
  match (cx.q q).idle with
  | none => false
  | some d =>
    ctxOpen cx (dType d.img) && coreStarts s g q && waitsMet cx d.img && condMet s g c d
      && ((q < 6 && dType d.img != 0x04) || (cx.q q).live.isEmpty)
      && slotThere s cx q d

/-- The ranges that the loaded descriptor of a context registers (R206). -/
def idleSpans (s : State) (g q c : Nat) : List SbSpan :=
  let cx := ctxAt s (ctxId g c)
  match (cx.q q).idle with
  | none => []
  | some d => descSpans (ctxImage s g c) d.img cx

/-- The absolute waybill of the loaded descriptor of a context. -/
def idleWb (s : State) (g q c : Nat) : Nat :=
  let cx := ctxAt s (ctxId g c)
  absWb cx q (((cx.q q).idle.map Desc.k).getD 0)

/-- The loaded descriptor of a context is ready (R122): the scoreboard admits it too. -/
def isReady (s : State) (g q c : Nat) : Bool :=
  isCandidate s g q c && sbAdmits (spadAt s g) (idleSpans s g q c) q c (idleWb s g q c)

/-- The next context after `last` in round-robin order among those listed. -/
def nextAfter (last : Nat) (l : List Nat) : Option Nat := ((List.range 4).map fun i => (last + 1 + i) % 4).find? l.contains

/-- The context that the queue serves next among those ready (R122): one that 64 descriptors of higher priority have passed over, the
lowest priority first (log entry 78); else the highest priority, round-robin after the one served last. -/
def chosenAmong (s : State) (g q : Nat) (ready : List Nat) : Option Nat :=
  let prio (c : Nat) := (ctxAt s (ctxId g c)).prio
  let top := (ready.map prio).foldl max 0
  let e := engineAt s (8 * g + q)
  match ready.filter fun c => 64 ≤ e.passed.getD c 0 with
  | [] => nextAfter e.last (ready.filter fun c => prio c = top)
  | c :: cs =>
    let low := (cs.map prio).foldl min (prio c)
    nextAfter e.last ((c :: cs).filter fun i => prio i = low)

/-- The context that the queue serves next (R122). -/
def chosen (s : State) (g q : Nat) : Option Nat := chosenAmong s g q ((List.range 4).filter (isReady s g q))

/-- The engine of the queue can take another descriptor: its active set is free (R110), and Q_BK holds fewer than 8 (R277). -/
def engineOpen (s : State) (g q : Nat) : Bool := 6 ≤ q || (!(engineAt s (8 * g + q)).busy && (q != qBk || bkInFlight s g < 8))

/-- The descriptor that the queue would start registers entries (R208). -/
def queueAsks (s : State) (g q : Nat) : Bool := engineOpen s g q && (chosen s g q).any fun c => !(idleSpans s g q c).isEmpty

/-- It is the queue's turn at the scoreboard (R208): the first that asks, in rotating order after the one admitted last. -/
def admitTurn (s : State) (g q : Nat) : Bool :=
  ((List.range 8).map fun i => ((spadAt s g).lastAdmit + 1 + i) % 8).find? (queueAsks s g) = some q

/-- The queue starts the context's loaded descriptor next. -/
def mayStart (s : State) (g c q : Nat) : Bool :=
  engineOpen s g q && chosen s g q = some c && ((idleSpans s g q c).isEmpty || admitTurn s g q)

/-- R112 and R122 would start the context's loaded descriptor, were it admitted, and the scoreboard refuses it (R208). -/
def refused (s : State) (g c q : Nat) : Bool :=
  engineOpen s g q && isCandidate s g q c && !isReady s g q c &&
    chosenAmong s g q ((List.range 4).filter fun i => i = c || isReady s g q i) = some c

/-- A refusal counts as one cycle of its kind (R211, R216; log entry 87). -/
def noteRefused (g c q : Nat) (s : State) : State :=
  let x := spadAt s g
  let spans := idleSpans s g q c
  let wb := idleWb s g q c
  let s := if sbConflict x spans q c wb then count (spdPage g) .spdSbConflictCyc 1 s else s
  if sbLacks x spans q c wb then count (spdPage g) .spdSbFullCyc 1 s else s

/-- Copy a descriptor image into the idle layer register set of a queue (R110). -/
def loadSet (g q c : Nat) (img : List Byte) (s : State) : State :=
  let e := engineAt s (8 * g + q)
  let x : LSet := ⟨img, c⟩
  putEngine (8 * g + q) (if e.active = 0 then { e with set1 := x } else { e with set0 := x }) s

/-- The descriptor of another context that the queue's one idle set holds is displaced: its context loads it again (log
entry 15). -/
def displace (g q c : Nat) (s : State) : State :=
  (List.range 4).foldl (fun t i =>
    let x := ctxAt t (ctxId g i)
    if i = c || 6 ≤ q || (x.q q).idle.isNone then t
    else putCtx (ctxId g i) (x.putQ q { x.q q with idle := none, loaded := (x.q q).loaded - 1 }) t) s

/-- DESC_LOAD (R110): the next descriptor of the stream goes into the idle set. -/
def execDescLoad (core ctx q : Nat) (s : State) : Result :=
  let x := ctxAt s (ctxId core ctx)
  let img := ctxImage s core ctx
  let k := (x.q q).loaded + 1
  if !(x.st = .running || x.st = .binding) || x.journal = 2 || !partServes s (corePart core) || (x.q q).idle.isSome ||
      streamLen img x.vcore x.vctx q < k then .next s
  else
    let d := streamDesc img x.vcore x.vctx q k
    let s := displace core q ctx s
    let s := if q < 6 then loadSet core q ctx d s else s
    let x := ctxAt s (ctxId core ctx)
    .next (putCtx (ctxId core ctx) (x.putQ q { x.q q with idle := some ⟨k, d⟩, loaded := k }) s)

/-- The loaded descriptor starts (R110, R122, R206, R430): the idle set becomes active and the engine begins the work. -/
def startDesc (g c q : Nat) (d : Desc) (s : State) : State :=
  let x := ctxAt s (ctxId g c)
  let e := engineAt s (8 * g + q)
  let passed := (List.range 4).map fun i =>
    if i = c || !isReady s g q i then 0
    else if (ctxAt s (ctxId g i)).prio < x.prio then e.passed.getD i 0 + 1 else e.passed.getD i 0
  let e := { e with last := c, passed := passed }
  let e := if q < 6 then { e with active := 1 - e.active, busy := true, owner := (c, d.k) } else e
  let slot := dRec d.img || canFault (dType d.img)
  let s := if slot && !x.slots.contains (q, d.k) then cqReserve ((runAt s x.run).getD {}).sess s else s
  let s := sbRegister g (descSpans (ctxImage s g c) d.img x) q c (absWb x q d.k) (putEngine (8 * g + q) e s)
  let x := ctxAt s (ctxId g c)
  let w : Work := { k := d.k, img := d.img, slotHeld := slot }
  let x := { x with slots := x.slots.filter (· != (q, d.k)) }
  putCtx (ctxId g c) (x.putQ q { x.q q with idle := none, live := (x.q q).live ++ [w] }) s

/-- A type whose start is its own operation: it waits unstarted until its condition holds (R140, R148). -/
def waitType (d : List Byte) : Bool :=
  [0x03, 0x10, 0x11, 0x21, 0x23, 0x26].contains (dType d) || (dType d = 0x25 && fieldAt d 0x14 0 0 = 1)

/-- DESC_START (R110, R208): a loaded descriptor that is ready, chosen and next at the scoreboard starts; one that the scoreboard refuses
is counted. -/
def execDescStart (core ctx q : Nat) (s : State) : Result :=
  match ((ctxAt s (ctxId core ctx)).q q).idle with
  | none => .next s
  | some d =>
    if !waitType d.img && mayStart s core ctx q then .next (startDesc core ctx q d s)
    else .next (if refused s core ctx q then noteRefused core ctx q s else s)

/-- The descriptor on which a control-path command acts: one that has started, else the loaded one where it may start now. -/
def takeDesc (s : State) (g c q : Nat) (p : List Byte → Bool) : Option (Work × State) :=
  match ((ctxAt s (ctxId g c)).q q).live.find? fun w => w.works && !w.began && p w.img with
  | some w => some (w, s)
  | none =>
    match ((ctxAt s (ctxId g c)).q q).idle with
    | none => none
    | some d =>
      if p d.img && mayStart s g c q then
        some ({ k := d.k, img := d.img, slotHeld := dRec d.img || canFault (dType d.img) }, startDesc g c q d s)
      else none

/-- A descriptor whose only effect is to complete. -/
def plainDesc (type : Nat) (g c q : Nat) (s : State) : State :=
  match takeDesc s g c q fun d => dType d = type with
  | none => s
  | some (w, t) => endWork g c q w.k .ok 0 0 t

/-- NOP (R109). -/
def execNop (core ctx q : Nat) (s : State) : Result := .next (plainDesc 0x01 core ctx q s)
/-- WAIT (R109): all ten of its waits are met. -/
def execWait (core ctx q : Nat) (s : State) : Result := .next (plainDesc 0x02 core ctx q s)
/-- END (R109): its waits are met and every earlier descriptor of the queue has completed. -/
def execEnd (core ctx q : Nat) (s : State) : Result := .next (plainDesc 0x04 core ctx q s)

/-- The epoch unit accepts a binding at `snap` (R53, R60). -/
def bindAccepted (s : State) (snap : Nat) : Bool := epochAtOrBefore snap (epochNow s) && serialDiff snap (epochNow s) < 2 ^ 30

/-- A binding is refused: the run starts nothing more and ends with BIND_REFUSED (R60, R109). -/
def refuseBind (g c : Nat) (s : State) : State :=
  let x := ctxAt s (ctxId g c)
  let s := putCtx (ctxId g c) { x with bindRefused := true } s
  haltRun x.run ((runAt s x.run).getD {}) s

/-- The snapshot that CTX_BIND names (R109). -/
def bindSnap (s : State) (r : Run) (d : List Byte) : Nat :=
  match fieldAt d 0x10 1 0 with
  | 0 => fieldAt d 0x14 31 0
  | 1 => r.params.getD (fieldAt d 0x14 3 0) 0
  | _ => epochNow s

/-- CTX_BIND (R60, R109): the context is bound to the snapshot, and runs once the descriptor has completed, or it never starts and the run ends with
BIND_REFUSED. A replayed CTX_BIND whose context was bound keeps the journal's snapshot (R59). -/
def execCtxBind (core ctx : Nat) (s : State) : Result :=
  match takeDesc s core ctx qCt fun d => dType d = 0x10 with
  | none => .next s
  | some (w, t) =>
    let x := ctxAt t (ctxId core ctx)
    let snap := bindSnap t ((runAt t x.run).getD {}) w.img
    if x.bound then .next (endWork core ctx qCt w.k .ok 0 0 t)
    else if bindAccepted t snap then
      let t := putCtx (ctxId core ctx) { x with bound := true, snap := snap, prio := fieldAt w.img 0x18 1 0 } t
      .next (floorCheck (endWork core ctx qCt w.k .ok 0 0 t))
    else .next (refuseBind core ctx s)

/-- EPOCH_WAIT (R109). -/
def execEpochWait (core ctx : Nat) (s : State) : Result :=
  match takeDesc s core ctx qCt fun d => dType d = 0x11 with
  | none => .next s
  | some (w, t) =>
    match epochWaitCode t w.img with
    | 0 => .next (endWork core ctx qCt w.k .ok 0 0 t)
    | 1 => .next t
    | _ => .next (endWork core ctx qCt w.k .fault 0 0x20 t)

/-- The counters of an engine page at a descriptor's completion: DESC_DONE and one per exception of its EXC (R93). -/
def noteDone (g q : Nat) (w : Work) (s : State) : State :=
  let p := (queueUnit g q).page
  if q ≤ 1 then
    let s := count p .engDescDone 1 s
    [(exNV, Fld.engExcNv), (exOF, .engExcOf), (exUF, .engExcUf), (exNL, .engExcNl), (exSC, .engExcSc)].foldl (fun u e =>
      if w.exc &&& e.1 = 0 then u else count p e.2 1 u) s
  else if q ≤ 4 then count p .tmvDescDone 1 s
  else if q = qBk then count p .bkcDescDone 1 s
  else s

/-- The head of a queue completes (R111, R113, R115, R118): its record, its waybill. With CTX_BIND the context leaves BINDING (R109,
R120). -/
def completeHead (g c q : Nat) (w : Work) (st : DStat) (cycles : Nat) (s : State) : State :=
  let x := ctxAt s (ctxId g c)
  let r := (runAt s x.run).getD {}
  let needs := dRec w.img || st = .fault
  let rec_ := descRecord s x c q w cycles r.profile
  let done := if st = .ok || st = .poisoned then setAt 0 x.wbDone q ((x.wbDone.getD q 0 + 1) % 2 ^ 16) else x.wbDone
  let run : CtxState := if dType w.img = 0x10 && x.st = .binding then .running else x.st
  let s := putCtx (ctxId g c) ({ x with wbDone := done, st := run }.putQ q { x.q q with live := (x.q q).live.drop 1 }) s
  let s := if needs && !w.slotHeld then cqReserve r.sess s else s
  let s := if needs then cqWrite r.sess rec_ (dIrq w.img) s else if w.slotHeld then cqUnreserve r.sess s else s
  noteDone g q w s

/-- The barrier entry's state in a context (R117). -/
def Ctx.bar (c : Ctx) (e : Nat) : XBar := (c.bars.find? fun b => b.entry = e).getD { entry := e }

/-- Store a barrier entry's state. -/
def Ctx.putBar (c : Ctx) (b : XBar) : Ctx := { c with bars := (c.bars.filter fun x => x.entry != b.entry) ++ [b] }

/-- Which pass of barrier entry `e` the queue's descriptor `k` takes part in: one more than its BARRIER descriptors of the entry
before it. -/
def barOrdinal (img : List Byte) (x : Ctx) (q e k : Nat) : Nat :=
  ((List.range k).filter fun i =>
    let d := streamDesc img x.vcore x.vctx q (i + 1)
    dType d = 0x03 && fieldAt d 0x10 11 0 = e).length

/-- One participant of a completed barrier pass (R117): its loaded BARRIER starts, does its work and completes at once. A queue whose
active set or record slot is not free yet leaves it unstarted, and one whose earlier descriptors still run holds its completion
(R110, R111, R430). -/
def barrierDone (g c q : Nat) (s : State) : State :=
  let x := ctxAt s (ctxId g c)
  match (x.q q).idle with
  | none => s
  | some d =>
    if dType d.img != 0x03 || !coreStarts s g q || !engineOpen s g q || !slotThere s x q d then s
    else
      let s := endWork g c q d.k .ok 0 0 (startDesc g c q d s)
      match ((ctxAt s (ctxId g c)).q q).live with
      | [w] => completeHead g c q w .ok 0 s
      | _ => s

/-- BARRIER (R117): the queue arrives; the last participant completes the pass for all in the same step, in queue-code order. A
descriptor that runs again after its pass was reached, or had to wait for its set, completes at once (R110, R458). -/
def execBarrier (core ctx q : Nat) (s : State) : Result :=
  let x := ctxAt s (ctxId core ctx)
  match (x.q q).idle with
  | none => .next s
  | some d =>
    if dType d.img != 0x03 || !ctxOpen x 0x03 || !coreStarts s core q || !waitsMet x d.img then .next s
    else
      let e := fieldAt d.img 0x10 11 0
      let b := x.bar e
      if barOrdinal (ctxImage s core ctx) x q e d.k ≤ b.passes then .next (barrierDone core ctx q s)
      else if b.arrived.contains q then .next s
      else
        let arr := b.arrived ++ [q]
        let parts := fieldAt (barrierEntry (ctxImage s core ctx) e) 0 31 24
        let all := (List.range 8).filter fun i => bit parts i = 1
        if all.all arr.contains then
          let s := putCtx (ctxId core ctx) (x.putBar ⟨e, b.passes + 1, []⟩) s
          .next (all.foldl (fun t i => barrierDone core ctx i t) s)
        else .next (putCtx (ctxId core ctx) (x.putBar { b with arrived := arr }) s)

/-- Entries of the scoreboard that a descriptor still holds. -/
def holdsEntries (s : State) (g c q wb : Nat) : Bool :=
  (spadAt s g).sb.any fun e => !e.kind.isClaim && e.q = q && e.ctx = c && e.wb = wb

/-- DESC_COMPLETE (R111): the oldest started descriptor completes once its work has ended and its last write is visible; a
record that has no slot waits for one (R430). -/
def execDescComplete (core ctx q cycles : Nat) (s : State) : Result :=
  let s := if q = qBk then settleFlights s else s
  let x := ctxAt s (ctxId core ctx)
  match (x.q q).live with
  | [] => .next s
  | w :: _ =>
    match w.stat with
    | none => .next s
    | some st =>
      let needs := dRec w.img || st = .fault
      if holdsEntries s core ctx q (absWb x q w.k) || (needs && !w.slotHeld && !cqFree s ((runAt s x.run).getD {}).sess) ||
          partState s (corePart core) = 2 || partState s (corePart core) = 4 then .next s
      else .next (completeHead core ctx q w st cycles s)

/-- A claim of each kind (R212). -/
def SbKind.claimed : SbKind → SbKind
  | .read | .claimRead => .claimRead
  | .write | .claimWrite => .claimWrite

/-- SB_CLAIM (R212): a descriptor that the scoreboard has refused for 256 cycles places its claim, where its queue has none and the
entries are free. -/
def execSbClaim (core ctx q : Nat) (s : State) : Result :=
  let sp := spadAt s core
  let spans := idleSpans s core q ctx
  if !refused s core ctx q || sp.sb.any (fun e => e.kind.isClaim && e.q = q) || 96 < sp.sb.length + spans.length then .next s
  else
    let new := spans.map fun p => { p.entry q ctx (idleWb s core q ctx) with kind := p.kind.claimed }
    .next (notePeak core (putSpad core { sp with sb := new.foldl sbPut sp.sb } s))

/-- A started movement whose memory side is a peer (R234). -/
def movesRemote (d : List Byte) : Bool := [0x60, 0x68, 0x71].contains (dType d) && fieldAt d 0x14 17 17 = 1

/-- The condition of entry `i` of a started descriptor holds (R209): the descriptor has read its operands; it has made its last write
there: at its end, or for the mask and counts of a remote transfer when that has been issued. -/
def sbEntryDone (w : Work) (i : Nat) (kind : SbKind) : Bool :=
  w.stat.isSome || (w.began && (kind = .read || (movesRemote w.img && !(dType w.img = 0x60 && i = 0))))

/-- SB_RELEASE (R209, R213): entry `i` of a started descriptor, in the order in which it registered them, goes once its own condition
holds. -/
def execSbRelease (core ctx q k i : Nat) (s : State) : Result :=
  let s := if q = qBk then settleFlights s else s
  let x := ctxAt s (ctxId core ctx)
  match (x.q q).live.find? fun w => w.k = k with
  | none => .next s
  | some w =>
    match ((descSpans (ctxImage s core ctx) w.img x)[i]?).bind fun p =>
        (spadAt s core).sb.find? fun e => { e with slot := 0 } = p.entry q ctx (absWb x q k) with
    | none => .next s
    | some e =>
      if !sbEntryDone w i e.kind then .next s
      else .next (sbFree core e (if e.kind = .read then mapWork core ctx q k (fun w => { w with rdRel := true }) s else s))

/-- What a blocked descriptor waits on (R149): object index, kind and value of its HANG record; none when it is not blocked. A
wait word is named by queue × 2^16 + absolute waybill, a barrier by its table index, an epoch by its target. -/
def blockedOn (s : State) (g c : Nat) (d : Desc) : Option (Nat × Nat × Nat) :=
  let cx := ctxAt s (ctxId g c)
  match (descWaits d.img).find? fun w => !waitMet cx w with
  | some w => some (0, 0, bits w 18 16 * 2 ^ 16 + (cx.wbBase.getD (bits w 18 16) 0 + bits w 15 0) % 2 ^ 16)
  | none =>
    let obj (kind : Nat) := objectOf s (ctxId g c) kind (fieldAt d.img 0x10 31 0)
    let on (kind : Nat) : Option (Nat × Nat × Nat) := some ((obj kind).2, kind, objectValue s (obj kind).1 kind (obj kind).2)
    if !waitType d.img || condMet s g c d then
      if dType d.img = 0x03 then some (0, 0, fieldAt d.img 0x10 11 0) else none
    else match dType d.img with
      | 0x03 => some (0, 0, fieldAt d.img 0x10 11 0)
      | 0x11 => some (0, 0, fieldAt d.img 0x10 31 0)
      | 0x21 => on 0
      | 0x23 => on 1
      | 0x25 => on 2
      | _ =>
        match cx.genOf (fieldAt d.img 0x14 15 0) with
        | some e => some (e.idx, 2, objectValue s (if e.device then 4 else g / 40) 2 e.idx)
        | none => none

/-- The queues that the unmet wait words of a queue's oldest descriptor name. -/
def waitEdges (s : State) (g c q : Nat) : List Nat :=
  match oldest s g c q with
  | none => []
  | some d => ((descWaits d.img).filter fun w => !waitMet (ctxAt s (ctxId g c)) w).map fun w => bits w 18 16

/-- The queues that 1 to `n` wait edges lead to. -/
def waitReach (s : State) (g c : Nat) : Nat → List Nat → List Nat
  | 0, _ => []
  | n + 1, qs =>
    let next := (qs.flatMap (waitEdges s g c)).eraseDups
    next ++ waitReach s g c n next

/-- The waybill waits among the context's queues form a cycle (R149). -/
def waitCycle (s : State) (g c : Nat) : Bool := (List.range 8).any fun q => (waitReach s g c 8 [q]).contains q

/-- A blocked descriptor ends FAULT, code HANG (R149), without having started: no layer register set changes hands for it. -/
def hangDesc (g c q : Nat) (d : Desc) (s : State) : State :=
  let x := ctxAt s (ctxId g c)
  let w : Work := { k := d.k, img := d.img, began := true }
  endWork g c q d.k .fault 0 0x24 (putCtx (ctxId g c) (x.putQ q { loaded := d.k, idle := none, live := (x.q q).live ++ [w] }) s)

/-- WDOG_FIRE (R148, R149): the progress timer of a blocked context expires. -/
def execWdogFire (core ctx : Nat) (s : State) : Result :=
  let p := seraiPage (corePart core)
  let x := ctxAt s (ctxId core ctx)
  let blocked := (List.range 8).filterMap fun q => (oldest s core ctx q).bind fun d => (blockedOn s core ctx d).map fun b => (q, d, b)
  if x.st != .running || x.journal = 2 || rd s p .seraiWdogEn = 0 || !partServes s (corePart core) ||
      s.partHold.contains (corePart core) || rd s (coreUnit core).page .hdrFenced = 1 || blocked.all (fun e => dType e.2.1.img = 0x11 && waitsMet x e.2.1.img) then .next s
  else
    let cyc := if waitCycle s core ctx then 1 else 0
    let s := blocked.foldl (fun t e =>
      ledger p 0x80 (seraiDetail e.2.2.1 e.2.2.2.1 (ctxId core ctx) (e.1 + 8 * cyc) (absWb x e.1 e.2.1.k) e.2.2.2.2 0) t) s
    let s := raise p 16 (count p .seraiWdogFires 1 s)
    if rd s p .seraiWdogAction = 0 then .next s
    else .next (blocked.foldl (fun t e => hangDesc core ctx e.1 e.2.1 t) s)

end Sys2Proof.Machine
end

