-- ==== Sys2Proof/Machine/BankMath.lean ====
section
/-!
DEFINITION. What a bank unit computes (R247-R251, R258-R264, R290-R303): the control word, columns read through its own decoder,
strips, dot products, gather-reduce, PQ scans, row operations, VET and BURNISH.
-/

namespace Sys2Proof.Machine

/-- SFMT of a control word (R258). -/
def cwSf (w : Nat) : Nat := bits w 7 0
/-- RFMT; INT8 register elements are sign-extended to INT16 (R249). -/
def cwRf (w : Nat) : Nat := bits w 15 8
/-- BATCH2. -/
def cwB2 (w : Nat) : Bool := bit w 16 = 1
/-- COND. -/
def cwCond (w : Nat) : Nat := bits w 18 17
/-- MASKED. -/
def cwMasked (w : Nat) : Bool := bit w 19 = 1
/-- M. -/
def cwM (w : Nat) : Nat := bits w 31 24
/-- THRESH. -/
def cwThresh (w : Nat) : Nat := bits w 63 32
/-- START. -/
def cwStart (w : Nat) : Nat := bits w 95 64
/-- MASK_START. -/
def cwMaskStart (w : Nat) : Nat := bits w 127 96
/-- N1, 0 standing for 2^24. -/
def cwN1 (w : Nat) : Nat := if bits w 151 128 = 0 then 2 ^ 24 else bits w 151 128
/-- N2. -/
def cwN2 (w : Nat) : Nat := bits w 167 152
/-- CAP, 0 standing for 2^24. -/
def cwCap (w : Nat) : Nat := if bits w 191 168 = 0 then 2 ^ 24 else bits w 191 168
/-- ID_BASE. -/
def cwIdBase (w : Nat) : Nat := bits w 223 192
/-- OUT_START. -/
def cwOut (w : Nat) : Nat := bits w 255 224

/-- A stored format that MVS accepts (R251). -/
def isStored (c : Nat) : Bool := [0x02, 0x03, 0x04, 0x05, 0x0B, 0x0C, 0x10, 0x11].contains c

/-- The register format fits the stored format (R249). -/
def regFits (sf rf : Nat) : Bool := if (intFmt sf).isSome then rf = 0x0A || rf = 0x0B else rf = 0x02 || rf = 0x03

/-- Blocks of a bank (R285). -/
def bankBlocks (v : Variant) : Nat := bankRows v / 1024

/-- The control word keeps the operation's limits (R259-R264, R300) on stack `d`. -/
def cmdOk (s : State) (d op flags w : Nat) : Bool :=
  let sf := cwSf w
  let bmp := cwStart w / 2 ^ 20 < bankBlocks s.variant && isBitmap s d (cwStart w / 2 ^ 20)
  flags < 4 && bits w 23 20 = 0 &&
  match op with
  | 0x01 => true
  | 0x02 =>
    let m := if sf = 0x10 || sf = 0x11 then 64 else 4
    isStored sf && regFits sf (cwRf w) && cwStart w % 32 = 0 && cwN2 w != 0 && cwN2 w % m = 0 && cwN2 w ≤ (if cwB2 w then 16384 else 32768)
  | 0x03 =>
    [0x02, 0x03, 0x04, 0x05, 0x0B, 0x0C].contains sf && regFits sf (cwRf w) && cwStart w % 32 = 0 && cwN2 w != 0 && cwN2 w ≤ 128 &&
      cwN2 w * fmtBits sf % 256 = 0
  | 0x04 =>
    [0x02, 0x03, 0x04, 0x05, 0x0B].contains sf && cwStart w % 32 = 0 && cwN1 w ≤ 16384 &&
      (cwN2 w = 32 || (cwN2 w = 16 && (sf = 0x02 || sf = 0x03)))
  | 0x05 =>
    sf = 0x0F && [0x02, 0x03, 0x0A].contains (cwRf w) && cwM w % 2 = 0 && 2 ≤ cwM w && cwM w ≤ 64 && cwStart w % 32 = 0 &&
      cwMaskStart w % 32 = 0
  | 0x06 => cwOut w % 64 = 0
  | 0x10 => bmp && cwStart w % 2 ^ 20 = 0 && 1 ≤ bits w 151 128 && bits w 151 128 ≤ 8192
  | 0x11 | 0x12 => bmp && cwStart w / 1024 % 1024 < 1020
  | _ => false

/-- The column at bank-local offset `o` of bank `bk` (R258); none past the bank's end. -/
def bankCol (s : State) (bk o : Nat) : Option Nat :=
  if o / 2 ^ 20 < bankBlocks s.variant then
    some ((bk * 65536 + rowOfShare (o / 2 ^ 20) (o / 1024 % 1024)) * 32 + o / 32 % 32)
  else none

/-- The BKU page of a bank key. -/
def buPage (bk : Nat) : Nat := (buOf (bk / 1024)).page

/-- A bank unit reads a column through both decoders (R362, R366, R378): its class, its bytes (free where they are not known), and
the state with an uncorrectable column noted and counted once. -/
def unitCol (c : Nat) (s : State) : (ColClass × List Byte) × State :=
  let r := colLook s c
  let bk := bankKey c
  let u := unitState s bk
  match r.cls with
  | .clean => ((.clean, r.data), s)
  | .ceOde | .ceSym => ((r.cls, r.data), countRead r.cls c s)
  | .stale | .poison =>
    let s := countRead r.cls c s
    ((r.cls, poisonedBytes 32 s), freshNext s)
  | .ue =>
    let s := if u.marks.contains c then s else
      putUnit bk { u with marks := u.marks ++ [c], poison := true } (logErr (buPage bk) 1 0x20 (dpaOfCol s c) (countRead .ue c s))
    ((.ue, poisonedBytes 32 s), freshNext s)

/-- A column's bytes cannot be used. -/
def ColClass.bad : ColClass → Bool
  | .stale | .poison | .ue => true
  | .clean | .ceOde | .ceSym => false

/-- The column at a bank-local offset, its row opened beside the other row that the unit may hold (R247): its bytes and whether they
are poisoned. Past the bank's end its bytes are free. -/
def unitAtOff (bk o : Nat) (s : State) : (List Byte × Bool) × State :=
  match bankCol s bk o with
  | some c => let r := unitCol c (openRow true c s); ((r.1.2, r.1.1.bad), r.2)
  | none => ((leBytes 32 (freshVal s), false), freshNext s)

/-- `n` columns from a bank-local offset, one after another: all their bytes, and whether any is poisoned. -/
def unitCols (bk o n : Nat) (s : State) : (List Byte × Bool) × State :=
  (List.range n).foldl (fun r i =>
    let t := unitAtOff bk (o + 32 * i) r.2
    ((r.1.1 ++ t.1.1, r.1.2 || t.1.2), t.2)) (([], false), s)

/-- A bank unit's write through the bank's ordinary write path (R259, R264): whole columns sealed, or POISON. -/
def unitWrite (bk o : Nat) (data : List Byte) (poison : Bool) (s : State) : State :=
  (chunks 32 (ceilDiv data.length 32) data).zipIdx.foldl (fun t e =>
    match bankCol t bk (o + 32 * e.2) with
    | some c => if isSideCol t c then sideWrite c t else storeCol c e.1 poison (openRow true c t)
    | none => t) s

/-- The floating accumulators' arithmetic, or INT32's (R91, R92, R248). -/
def seqFloat (q : Seq) : Bool := !(intFmt (if q.op = 0x05 then cwRf q.cw else cwSf q.cw)).isSome

/-- An accumulator word as held: FP32 or INT32, whatever SAT and FTZ say (R91, R92). -/
def accOf (fl : Bool) (v : Nat) : Num := if fl then (decFloat fp32 false v).1 else Num.ofInt (toSigned 32 v)

/-- The word that holds an accumulator's value. -/
def accWord (fl : Bool) (v : Num) : Nat := if fl then (encFloat fp32 {} v).1 else ofSigned 32 v.toInt

/-- The word that an accumulator is drained as, with its flags (R82, R84, R92): SAT makes one that overflowed finite, FTZ flushes. -/
def drainWord (q : Seq) (fl ovf : Bool) (v : Nat) : Nat × Nat :=
  if !fl then (v, 0)
  else match accOf true v with
    | .inf neg => (if q.sat && ovf then fp32.max + (if neg then 2 ^ 31 else 0) else v, 0)
    | x => encFloat fp32 ⟨0, q.sat, q.ftz⟩ x

/-- Element `i` of the register stream (R249). -/
def regNum (q : Seq) (i : Nat) : Num × Nat :=
  let rf := if cwRf q.cw = 0x0B then 0x0A else cwRf q.cw
  decode rf q.ftz (leNat (slice q.stream (2 * i) 2))

/-- Bytes of an MVS group of 16 rows (R251, R260). -/
def groupBytes (w : Nat) : Nat := packedBytes (cwSf w) (16 * cwN2 w)

/-- Emit A0, and A1 with `two`, as they drain (R91, R92, R259, R272): into the bank with EMIT_BANK, else into the unit's collector slot;
a host sequence has none. -/
def emitRec (q : Seq) (bk : Nat) (fl two : Bool) (bad : Bool) (s : State) : State :=
  let u := unitState s bk
  let drain (l : List Nat) (i : Nat) : List (Nat × Nat) := l.zipIdx.map fun e => drainWord q fl (bit u.ovf (i + e.2) = 1) e.1
  let d0 := drain u.a0 0
  let d1 := if two then drain u.a1 16 else []
  let data := ((d0 ++ d1).map Prod.fst).flatMap (leBytes 4)
  let s := putUnit bk { u with lastEmit := some (d0.map Prod.fst, d1.map Prod.fst), poison := u.poison || bad
                               exc := (d0 ++ d1).foldl (fun k e => k ||| e.2) u.exc
                               out := if bit q.flags 1 = 1 || q.host then u.out else u.out ++ [(data, bad || q.streamBad)] } s
  if bit q.flags 1 = 1 then unitWrite bk (cwOut q.cw + q.emits * data.length) data (bad || q.streamBad) s else s

/-- Sixteen zero words. -/
abbrev zeros16 : List Nat := List.replicate 16 0

/-- A unit's accumulator `i` of the 32, as a running one. -/
def BankUnit.acc (u : BankUnit) (fl : Bool) (i : Nat) : MmAcc :=
  ⟨accOf fl (if i < 16 then u.a0.getD i 0 else u.a1.getD (i - 16) 0), 0, bit u.ovf i = 1⟩

/-- Accumulators from number `i` on take new values; their flags join the sequence's. -/
def BankUnit.putAccs (u : BankUnit) (fl : Bool) (i : Nat) (l : List MmAcc) : BankUnit :=
  let put (a : List Nat) (lo : Nat) : List Nat :=
    a.zipIdx.map fun e => if i ≤ lo + e.2 then ((l[lo + e.2 - i]?).map fun x => accWord fl x.v).getD e.1 else e.1
  { u with a0 := put u.a0 0, a1 := put u.a1 16, exc := l.foldl (fun k x => k ||| x.ex) u.exc
           ovf := (l.zipIdx.foldl (fun v x => setBits v (i + x.2) (i + x.2) (if x.1.ovf then 1 else 0)) u.ovf) }

/-- A0 is +0, and A1 with `two`. -/
def BankUnit.clearAccs (u : BankUnit) (two : Bool) : BankUnit :=
  { u with a0 := zeros16, a1 := if two then zeros16 else u.a1, ovf := if two then 0 else setBits u.ovf 15 0 0 }

/-- MVS, one group of one unit (R260). The accumulators are cleared after it, but for the first group under KEEP (log entry 81). -/
def mvsItem (q : Seq) (bk : Nat) (s : State) : State :=
  let w := q.cw
  let k := cwN2 w
  let fl := seqFloat q
  let gb := groupBytes w
  let r := unitCols bk (cwStart w + q.pos * gb) (gb / 32) s
  let row := leNat r.1.1
  let u := unitState r.2 bk
  let es := (List.range (16 * k)).map fun i => elemNum (cwSf w) u.latch.book q.ftz row (fun _ => 0) i
  let lane (v l : Nat) : MmAcc :=
    (List.range k).foldl (fun (a : MmAcc) i =>
      let e := es.getD (16 * i + l) (.zero, 0)
      let x := regNum q (v * k + i)
      let b := MmAcc.step fl q.sat a (e.1, x.1)
      { b with ex := b.ex ||| e.2 ||| x.2 }) (u.acc fl (16 * v + l))
  let accs := (List.range (if cwB2 w then 32 else 16)).map fun i => lane (i / 16) (i % 16)
  let book := if cwSf w = 0x10 then (row >>> (8 * (gb - 544))) % 2 ^ 256 else u.latch.book
  let scale := if cwSf w = 0x11 then (row >>> (8 * (gb - 32) + 240)) % 2 ^ 16 else u.latch.scale
  let s := emitRec q bk fl (cwB2 w) r.1.2 (putUnit bk { u.putAccs fl 0 accs with latch := ⟨book, scale⟩ } r.2)
  if bit q.flags 0 = 1 && q.pos = 0 then s else putUnit bk ((unitState s bk).clearAccs (cwB2 w)) s

/-- Reduce 16 partial sums pairwise (R261): lane l + 8 into l, then + 4, + 2 and + 1. -/
def pairReduce (fl sat : Bool) (xs : List MmAcc) : List MmAcc :=
  [8, 4, 2, 1].foldl (fun l h => (List.range h).map fun i =>
    let a := l.getD i ⟨.zero, 0, false⟩
    let b := l.getD (i + h) ⟨.zero, 0, false⟩
    if fl then let r := accF32 a.v b.v; ⟨r.1, a.ex ||| b.ex ||| r.2, a.ovf || b.ovf || r.2 &&& exOF != 0⟩
    else let r := accInt 32 sat a.v.toInt b.v.toInt; ⟨Num.ofInt r.1, a.ex ||| b.ex ||| r.2, false⟩) xs

/-- DOT, one vector of one unit (R261); an emission follows every 32 vectors and the last. -/
def dotItem (q : Seq) (bk : Nat) (s : State) : State :=
  let w := q.cw
  let d := cwN2 w
  let fl := seqFloat q
  let bitsE := fmtBits (cwSf w)
  let cols := d * bitsE / 256
  let g := 16 / bitsE
  let r := unitCols bk (cwStart w + q.pos * cols * 32) cols s
  let row := leNat r.1.1
  let lane (l : Nat) : MmAcc :=
    (List.range (cols * g)).foldl (fun (a : MmAcc) i =>
      let e := i / g * (16 * g) + g * l + i % g
      let x := elemNum (cwSf w) 0 q.ftz row (fun _ => 0) e
      let y := regNum q e
      let b := MmAcc.step fl q.sat a (x.1, y.1)
      { b with ex := b.ex ||| x.2 ||| y.2 }) ⟨.zero, 0, false⟩
  let sum := (pairReduce fl q.sat ((List.range 16).map lane)).headD ⟨.zero, 0, false⟩
  let u := unitState r.2 bk
  let j := q.pos % 32
  let first := j = 0
  let u := (if first then u.clearAccs true else u).putAccs fl j [sum]
  let s := putUnit bk { u with poison := u.poison || r.1.2, accBad := (!first && u.accBad) || r.1.2 } r.2
  if j = 31 || q.pos + 1 = cwN1 w then emitRec q bk fl true (unitState s bk).accBad s else s

/-- A GRED entry (R262): the row, whether it ends a bag, and 0 used / 1 skipped and counted / 2 null. -/
def gredEntry (e : Nat) : Nat × Bool × Nat :=
  if e = 0xFFFFFFFF then (0, false, 2)
  else (bits e 23 0, bit e 31 = 1, if bits e 30 24 = 0 then 0 else 1)

/-- The slice of GRED entry `e` for a unit: its bank-local offset, none where the entry is skipped or null (R262). -/
def gredSlice (q : Seq) (bk e : Nat) : Option Nat :=
  let x := gredEntry e
  let sb := cwN2 q.cw * fmtBits (cwSf q.cw) / 8
  let o := cwStart q.cw + x.1 * sb
  if x.2.2 = 0 && o + sb ≤ SMap.get (fun _ => (cwStart q.cw / 2 ^ 20 + 1) * 2 ^ 20) q.ends (bk % 32) then some o else none

/-- GRED, one entry of one unit (R262). -/
def gredItem (q : Seq) (bk : Nat) (s : State) : State :=
  let w := q.cw
  let n := cwN2 w
  let fl := seqFloat q
  let word := leNat (slice q.stream (4 * q.pos) 4)
  let e := gredEntry word
  let s := match gredSlice q bk word with
    | some o =>
      let r := unitCols bk o (n * fmtBits (cwSf w) / 8 / 32) s
      let row := leNat r.1.1
      let u := unitState r.2 bk
      let accs := (List.range n).map fun l =>
        let x := elemNum (cwSf w) 0 q.ftz row (fun _ => 0) l
        let a := MmAcc.step fl q.sat (u.acc fl l) (x.1, .fin false 1 0)
        { a with ex := a.ex ||| x.2 }
      let u := u.putAccs fl 0 accs
      putUnit bk { u with poison := u.poison || r.1.2, accBad := u.accBad || r.1.2 } r.2
    | none => if e.2.2 = 2 then s else let u := unitState s bk; putUnit bk { u with count := u.count + 1 } s
  if e.2.1 then
    let u := unitState s bk
    let s := emitRec q bk fl true u.accBad (if n ≤ 16 then putUnit bk { u with a1 := zeros16 } s else s)
    putUnit bk { (unitState s bk).clearAccs true with accBad := false } s
  else s

/-- A score meets COND against THRESH (R263). -/
def meets (cond : Nat) (x y : Num) : Bool :=
  match cmpNum x y with
  | none => false
  | some o => match cond with
    | 0 => o = .gt
    | 1 => o != .lt
    | 2 => o = .lt
    | _ => o != .gt

/-- The position of a bank in its gang (R263). -/
def gangPos (mask bank : Nat) : Nat := if bit mask bank = 1 then popCount bank mask else 0

/-- Candidates join the FIFO; those that find it full wait (R247, R266). -/
def BankUnit.push (u : BankUnit) (l : List Nat) : BankUnit :=
  let all := u.fifo ++ u.pend ++ l
  { u with fifo := all.take 32, pend := all.drop 32 }

/-- PQSCAN, one block of 32 vectors of one unit (R263, R307). -/
def pqItem (q : Seq) (bk : Nat) (s : State) : State :=
  let w := q.cw
  let m := cwM w
  let fl := seqFloat q
  let i := q.pos
  let s := if cwMasked w && i % 8 = 0 then
      let r := unitAtOff bk (cwMaskStart w + i / 8 * 32) s
      let u := unitState r.2 bk
      putUnit bk { u with mask := if r.1.2 then 0 else leNat r.1.1, poison := u.poison || r.1.2 } r.2
    else s
  let sel := if cwMasked w then bits (unitState s bk).mask (32 * (i % 8) + 31) (32 * (i % 8)) else 2 ^ 32 - 1
  let r := if sel = 0 then (([], false), s) else unitCols bk (cwStart w + i * m * 16) (m / 2) s
  let sel := if r.1.2 then 0 else sel
  let row := leNat r.1.1
  let score (v : Nat) : MmAcc :=
    (List.range m).foldl (fun (a : MmAcc) j =>
      let code := (row >>> (8 * (32 * (j / 2) + 16 * (j % 2)) + 4 * v)) % 16
      let t := regNum q (16 * j + code)
      let b := MmAcc.step fl q.sat a (t.1, .fin false 1 0)
      { b with ex := b.ex ||| t.2 }) ⟨.zero, 0, false⟩
  let res := (List.range 32).map fun v => if bit sel v = 1 then score v else ⟨.zero, 0, false⟩
  let out := res.map fun a => drainWord q fl a.ovf (accWord fl a.v)
  let th : Num × Nat := if fl then decFloat fp32 q.ftz (cwThresh w) else (accOf false (cwThresh w), 0)
  let pass := out.zipIdx.filter fun e => bit sel e.2 = 1 && meets (cwCond w) (accOf fl e.1.1) th.1
  let u := (unitState r.2 bk).putAccs fl 0 res
  let base := cwIdBase w + 32 * cwN1 w * gangPos (chanAt s (bk / 32)).gang (bk % 32) + 32 * i
  let new := (pass.take (cwCap w - u.pushed)).map fun e => (base + e.2) % 2 ^ 32 + e.1.1 * 2 ^ 32
  let u := u.push new
  putUnit bk { u with count := u.count + pass.length, pushed := u.pushed + new.length, poison := u.poison || r.1.2
                      exc := out.foldl (fun k e => k ||| e.2) (if sel = 0 then u.exc else u.exc ||| th.2) } r.2

/-- The DRAM row of share row `k` of block `p` of a bank, as a row key. -/
def rowKeyOf (bk p k : Nat) : Nat := bk * 65536 + rowOfShare p k

/-- The column of the CRC entry of a row, and its place there (R293). -/
def entryPlace (key : Nat) : Nat × Nat :=
  let i := key % 512
  ((key / 512 * 512 + 510 + i / 256) * 32 + i % 256 / 8, 4 * (i % 8))

/-- The data bytes of a row as they stand. -/
def rowBytes (s : State) (key : Nat) : List Byte := (List.range 32).flatMap fun i => colBytes s (key * 32 + i)

/-- A column that the unit overwrites whole owes no POISON mark any more. -/
def dropMark (c : Nat) (s : State) : State :=
  let u := unitState s (bankKey c)
  if u.marks.contains c then putUnit (bankKey c) { u with marks := u.marks.filter (· != c) } s else s

/-- VET of a row (R295): whether it passes. The row, then that of its CRC entry, is opened. -/
def vetRow (key : Nat) (s : State) : Bool × State :=
  let s := openRow true (key * 32) s
  let r := (List.range 32).foldl (fun (r : (Bool × List Byte) × State) i =>
    let c := key * 32 + i
    let t := unitCol c r.2
    let s := if t.1.1 = .ceOde || t.1.1 = .ceSym then sealCol c t.1.2 t.2 else t.2
    ((r.1.1 || t.1.1.bad, r.1.2 ++ t.1.2), s)) ((false, []), s)
  let e := entryPlace key
  let t := unitCol e.1 (openRow true e.1 r.2)
  let ok := !r.1.1 && leNat (slice t.1.2 e.2 4) = crc32c r.1.2
  (ok, if ok then t.2 else count (mcPageOf e.1) .mcsVetFails 1 t.2)

/-- The CRC entry of a row is written (R296): whether the side column was read POISON or uncorrectable. -/
def putEntry (key : Nat) (s : State) : Bool × State :=
  let e := entryPlace key
  let t := unitCol e.1 (openRow true e.1 s)
  let crc := leBytes 4 (crc32c (rowBytes t.2 key))
  (t.1.1 = .poison || t.1.1 = .ue, dropMark e.1 (sealCol e.1 (t.1.2.take e.2 ++ crc ++ t.1.2.drop (e.2 + 4)) t.2))

/-- BURNISH of a row (R296): whether a column was left unsealed, and whether the side column was bad. -/
def burnishRow (key : Nat) (produced : Bool) (s : State) : (Bool × Bool) × State :=
  let s := openRow true (key * 32) s
  let r := (List.range 32).foldl (fun (r : Bool × State) i =>
    let c := key * 32 + i
    if produced then (r.1, dropMark c (sealCol c (colBytes r.2 c) r.2))
    else
      let raw := colBytes r.2 c
      let t := unitCol c r.2
      match t.1.1 with
      | .clean | .ceOde | .ceSym => (r.1, sealCol c t.1.2 t.2)
      | .stale => (r.1, sealCol c raw t.2)
      | .poison | .ue => (true, t.2)) (false, s)
  let e := putEntry key r.2
  ((r.1, e.1), e.2)

/-- A column takes the result of a row operation and the stale signature (R294, log entry 24). -/
def staleWrite (c : Nat) (data : List Byte) (s : State) : State :=
  let seg := setBits (colSeg s c) 55 48 segStale
  dropMark c (putDramChk c (some seg) (putColData c data s))

/-- The result of a row operation on whole rows (R290, R292). -/
def rowResult (op a b c : Nat) : Nat :=
  let all := 2 ^ 8192 - 1
  match op with
  | 1 => a
  | 2 => all - a
  | 3 => a &&& b
  | 4 => a ||| b
  | 5 => a ^^^ b
  | _ => (a &&& b) ||| (a &&& c) ||| (b &&& c)

/-- A row operation of one bank (R292, R294): D becomes the result, stale; its activations leave the bank precharged. -/
def rowOp (op d : Nat) (srcs : List Nat) (s : State) : State :=
  let s := (srcs ++ [d]).foldl (fun t k => openRow false (k * 32) t) s
  let s := shutRows (d * 32) [rowBit (d * 32)] s
  let v (i : Nat) := ((srcs[i]?).map fun k => leNat (rowBytes s k)).getD 0
  let data := leBytes 1024 (rowResult op (v 0) (v 1) (v 2))
  count (mcPageOf (d * 32)) .mcsRowops 1
    ((List.range 32).foldl (fun t i => staleWrite (d * 32 + i) ((data.drop (32 * i)).take 32) t) s)

/-- Sources that a ROWLIST operation uses (R301). -/
def rowSources (op : Nat) : Nat := match op with
  | 1 | 2 | 8 => 1
  | 3 | 4 | 5 => 2
  | 6 => 3
  | _ => 0

/-- A decoded ROWLIST entry (R301): OP, SEAL, D and its sources as share rows. -/
structure RowEntry where
  op : Nat
  reseal : Bool
  d : Nat
  srcs : List Nat
deriving DecidableEq, Repr

/-- Decode a ROWLIST entry; none for a bad one (R301). -/
def rowEntry (e : Nat) : Option RowEntry :=
  let op := e % 16
  let srcs := ([bits e 27 18, bits e 37 28, bits e 47 38]).take (rowSources op)
  let used := if op = 8 then srcs else bits e 17 8 :: srcs
  if op = 0 || 8 < op || bits e 7 5 != 0 || bits e 63 48 != 0 || used.any (1020 ≤ ·) || used.any (fun r => r % 2 != used.headD 0 % 2) then none
  else some ⟨op, bit e 4 = 1 && op ≤ 6, bits e 17 8, srcs⟩

/-- A ROWLIST entry is skipped (R298, R301, R306). -/
def rowSkip (bk i : Nat) (poison : Bool) (s : State) : State :=
  let u := unitState s bk
  count (mcOf (bk / 1024)).page .mcsEntrySkips 1
    (putUnit bk { u with count := u.count + 1, skip := some (u.skip.getD i), poison := u.poison || poison } s)

/-- BURNISH of share row `k` within a ROWLIST (R296, R297). -/
def rowSeal (bk p k : Nat) (s : State) : State :=
  let key := rowKeyOf bk p k
  let produced := (unitState s bk).produced.contains (key % 65536)
  let r := burnishRow key produced s
  let u := unitState r.2 bk
  let vet := u.vetted.filter (· != key % 65536)
  putUnit bk { u with produced := u.produced.filter (· != key % 65536), vetted := if r.1.1 then vet else vet ++ [key % 65536]
                      poison := u.poison || r.1.1 || r.1.2, sealDue := false } r.2

/-- Vet a source, which passes at once in VETTED or PRODUCED; after a source that failed none is vetted (R297, R298). -/
def rowVet (bk p k : Nat) (s : State) : State :=
  let row := rowKeyOf bk p k % 65536
  let u := unitState s bk
  if u.vetBad || u.vetted.contains row || u.produced.contains row then s
  else
    let r := vetRow (rowKeyOf bk p k) s
    let u := unitState r.2 bk
    putUnit bk (if r.1 then { u with vetted := u.vetted ++ [row] } else { u with vetBad := true }) r.2

/-- Every column of D takes the poison mark, and D leaves both sets (R298). -/
def rowPoison (bk p d : Nat) (s : State) : State :=
  let key := rowKeyOf bk p d
  let s := (List.range 32).foldl (fun t i => let c := key * 32 + i; dropMark c (poisonCol c (colBytes t c) t)) s
  let u := unitState s bk
  putUnit bk { u with vetted := u.vetted.filter (· != key % 65536), produced := u.produced.filter (· != key % 65536) } s

/-- The ROWLIST entry that a sequence has come to (R300). -/
def Seq.entry (q : Seq) : Option RowEntry := rowEntry (leNat (slice q.stream (8 * q.pos) 8))

/-- Parts of an entry's first piece: one VET for each source, then the operation (R302, R303). -/
def Seq.parts (q : Seq) : Nat := (q.entry.map fun e => e.srcs.length).getD 0 + 1

/-- The last part of an entry's first piece on one bank: its operation, or what stands in its place (R297-R302). -/
def rowAct (q : Seq) (bk : Nat) (s : State) : State :=
  let p := cwStart q.cw / 2 ^ 20
  match q.entry with
  | none => rowSkip bk q.pos false s
  | some e =>
    let u := unitState s bk
    if e.op = 7 then rowSeal bk p e.d s
    else if u.vetBad then
      let s := putUnit bk { u with vetBad := false } s
      rowSkip bk q.pos true (if e.op = 8 then s else rowPoison bk p e.d s)
    else if e.op = 8 then s
    else
      let s := rowOp e.op (rowKeyOf bk p e.d) (e.srcs.map (rowKeyOf bk p)) s
      let row := rowKeyOf bk p e.d % 65536
      let u := unitState s bk
      putUnit bk { u with vetted := u.vetted.filter (· != row), produced := u.produced.filter (· != row) ++ [row], sealDue := e.reseal } s

/-- Part `q.part` of an entry's first piece on one bank (R303). -/
def rowPart (q : Seq) (bk : Nat) (s : State) : State :=
  match (q.entry.map RowEntry.srcs).bind fun ks => ks[q.part]? with
  | some k => rowVet bk (cwStart q.cw / 2 ^ 20) k s
  | none => rowAct q bk s

/-- The second piece of an entry: the SEAL of D where the operation ran (R302). -/
def rowSecond (q : Seq) (bk : Nat) (s : State) : State :=
  match q.entry with
  | some e => if (unitState s bk).sealDue then rowSeal bk (cwStart q.cw / 2 ^ 20) e.d s else s
  | none => s

/-- VET and BURNISH as commands (R300): COUNT 0 for a pass, 1 for a failure. -/
def rowCommand (q : Seq) (bk : Nat) (s : State) : State :=
  let o := cwStart q.cw
  let key := rowKeyOf bk (o / 2 ^ 20) (o / 1024 % 1024)
  if q.op = 0x11 then
    let r := vetRow key s
    let u := unitState r.2 bk
    putUnit bk { u with count := if r.1 then 0 else 1, poison := u.poison || !r.1 } r.2
  else
    let r := burnishRow key false s
    let u := unitState r.2 bk
    putUnit bk { u with count := if r.1.1 then 1 else 0, poison := u.poison || r.1.1 || r.1.2 } r.2

end Sys2Proof.Machine
end

