-- ==== Sys2Proof/Machine/Xlate.lean ====
section
/-!
DEFINITION. Translation of device virtual addresses (R239-R242): the walk of a three-level table, its entries and faults,
the translation cache of a core, and the region resolutions of a run (R61, R241).
-/

namespace Sys2Proof.Machine

/-- Why an access to memory does not go on: a fault with its code of R243 and the DPA of the table entry at fault, a column
that is not served now, host lines that must be back-invalidated first, or a partition that answers RETRY (R19). `held` are the
columns that a running gang holds back (R337). -/
inductive MemStop where
  | fault (code entry : Nat)
  | wait (held : List Nat)
  | snoop (lines : List Nat)
  | retry
deriving DecidableEq, Repr

/-- What holds an access to pieces of DRAM back, if anything does: all its writes must find room together, and every column that it
reads (an addition, too) is served (R238, R335, R337, R345). The answer names the columns that a gang holds. -/
def piecesWait (s : State) (pt : PortOf) (ps : List (Nat × Nat)) (reads writes : Bool) : Option (List Nat) :=
  let cols := ps.flatMap fun p => spanCols s p.1 p.2
  if (!writes || roomFor s (pt s) cols) && (!reads || cols.all fun e => readNow s (pt s (stackOfCol e.1)) (32 * cols.length) e.1) then none
  else some ((cols.map Prod.fst).filter fun c => gangHolds s (bankKey c) && (writes || !unitHolds s c))

/-- Whether an access of the device to DRAM bytes [a, a + n) goes on; `own` is the partition that asks, none for a peer, and `pt` its
ports. -/
def memGate (s : State) (own : Option Nat) (pt : PortOf) (a n : Nat) (write : Bool) : Option MemStop :=
  let part := partOfStack (a / 2 ^ stackBits s.variant)
  if partState s part = 4 then some (.fault 0x0C 0)
  else if partBusy s part && own != some part then some .retry
  else
    let held := (linesOf a n).filter s.snoop.contains
    if !held.isEmpty then some (.snoop held)
    else (piecesWait s pt [(a, n)] (!write) write).map .wait

/-- Read a table entry at a DPA (R239): the entry, or why not. -/
def readEntry (own : Option Nat) (pt : PortOf) (a : Nat) (s : State) : Except MemStop Nat × State :=
  if !inDram s.variant a 8 then (.error (.fault 0x08 a), s)
  else match memGate s own pt a 8 false with
  | some e => (.error e, s)
  | none =>
    let r := readSpan pt a 8 s
    if r.1.any Prod.snd then (.error (.fault 0x0F a), r.2) else (.ok (leNat (r.1.map Prod.fst)), r.2)

/-- The bit rules that every entry but INVALID keeps (R239). -/
def entryBits (e : Nat) : Bool :=
  let kind := bits e 1 0
  bits e 11 10 = 0 && bits e 63 52 = 0 && (kind = 3 || bits e 9 4 = 0) && (kind = 1 || bits e 20 12 = 0)

/-- The entry is illegal at its level (R239); `size` is the bytes of the next table. -/
def entryIllegal (s : State) (level e : Nat) : Bool :=
  let kind := bits e 1 0
  let addr := bits e 51 12 * 4096
  !entryBits e || (level = 0 && kind != 1) || (level = 2 && kind = 1) || (level = 1 && kind != 1 && bits e 29 21 != 0)
    || (kind = 1 && !inDram s.variant addr 4096)

/-- Go on with the value of a memory access, or stop as it stopped. -/
def andThen {α β : Type} (r : Except MemStop α × State) (f : α → State → Except MemStop β × State) : Except MemStop β × State :=
  match r.1 with
  | .error e => (.error e, r.2)
  | .ok a => f a r.2

/-- Walk the table at `root` for a DVA: the leaf entry and whether it is an L1 leaf (R239, R240). -/
def walk (own : Option Nat) (pt : PortOf) (root dva : Nat) (s : State) : Except MemStop (Nat × Bool) × State :=
  let a0 := root + 8 * (dva / 2 ^ 39)
  andThen (readEntry own pt a0 s) fun e0 t0 =>
    if bits e0 1 0 = 0 then (.error (.fault 0x01 0), t0)
    else if entryIllegal s 0 e0 then (.error (.fault 0x02 a0), t0)
    else
      let a1 := bits e0 51 12 * 4096 + 8 * bits dva 38 30
      andThen (readEntry own pt a1 t0) fun e1 t1 =>
        if bits e1 1 0 = 0 then (.error (.fault 0x01 0), t1)
        else if entryIllegal s 1 e1 then (.error (.fault 0x02 a1), t1)
        else if bits e1 1 0 != 1 then (.ok (e1, true), t1)
        else
          let a2 := bits e1 51 12 * 4096 + 8 * bits dva 29 21
          andThen (readEntry own pt a2 t1) fun e2 t2 =>
            if bits e2 1 0 = 0 then (.error (.fault 0x01 0), t2)
            else if entryIllegal s 2 e2 then (.error (.fault 0x02 a2), t2)
            else (.ok (e2, false), t2)

/-- Entries of one level that the contexts of a core hold in the translation cache. -/
def cacheUsed (s : State) (g : Nat) (big : Bool) : Nat :=
  ((List.range 4).map fun c => let x := ctxAt s (ctxId g c); (if big then x.leaves1 else x.leaves2).length).sum

/-- Drop the oldest leaf of a level that a context holds. -/
def dropLeaf (g c : Nat) (big : Bool) (s : State) : State :=
  let x := ctxAt s (ctxId g c)
  putCtx (ctxId g c) (if big then { x with leaves1 := x.leaves1.drop 1 } else { x with leaves2 := x.leaves2.drop 1 }) s

/-- The context whose oldest leaf a full level drops: the one that fetches, or where it holds none, the lowest that does (log entry 32). -/
def cacheVictim (s : State) (g c : Nat) (big : Bool) : Nat :=
  let holds (i : Nat) : Bool := let x := ctxAt s (ctxId g i); !(if big then x.leaves1 else x.leaves2).isEmpty
  if holds c then c else ((List.range 4).find? holds).getD c

/-- Put a leaf into the translation cache (R241), which holds 512 leaves of L2 and 64 of L1. -/
def cacheLeaf (g c dva leaf : Nat) (big : Bool) (s : State) : State :=
  let s := if (if big then 64 else 512) ≤ cacheUsed s g big then dropLeaf g (cacheVictim s g c big) big s else s
  let x := ctxAt s (ctxId g c)
  putCtx (ctxId g c) (if big then { x with leaves1 := x.leaves1 ++ [(dva / 2 ^ 30, leaf)] }
    else { x with leaves2 := x.leaves2 ++ [(dva / 2 ^ 21, leaf)] }) s

/-- The TMV page of core `g`. -/
def tmvPage (g : Nat) : Nat := (coreUnit g).page + 3

/-- The leaf of a DVA that a context holds in the translation cache. -/
def cachedLeaf (x : Ctx) (dva : Nat) : Option (Nat × Bool) :=
  match x.leaves2.find? (·.1 = dva / 2 ^ 21) with
  | some e => some (e.2, false)
  | none => (x.leaves1.find? (·.1 = dva / 2 ^ 30)).map fun e => (e.2, true)

/-- The leaf of a DVA for a context: from the cache, else by a walk that TLB_MISSES counts (R241). -/
def leafOf (g c dva : Nat) (s : State) : Except MemStop (Nat × Bool) × State :=
  let x := ctxAt s (ctxId g c)
  (cachedLeaf x dva).elim
    (andThen (walk (some (corePart g)) (corePortAt g) ((runAt s x.run).getD {}).root dva (count (tmvPage g) .tmvTlbMisses 1 s))
      fun l t => (.ok l, cacheLeaf g c dva l.1 l.2 t))
    fun l => (.ok l, s)

/-- The slot of a region that resolves under a snapshot (R61). Where two slots cover it (a CLOSED slot whose END lies after a later
INSTALL's START, which R62 permits), the lowest slot number resolves (DESIGN CHOICE, log entry 77). -/
def resolveRegion (s : State) (region snap : Nat) : Option Nat :=
  ((List.range 4).find? fun i => let v := vslotAt s (region * 4 + i); v.live && v.covers snap).map (region * 4 + ·)

/-- The base of a region for a context, kept for the run after its first use (R241). -/
def regionBaseOf (g c region : Nat) (s : State) : Option Nat × State :=
  let x := ctxAt s (ctxId g c)
  match x.regionBase.find? (·.1 = region) with
  | some e => (some e.2, s)
  | none =>
    match resolveRegion s region x.snap with
    | none => (none, s)
    | some k =>
      let b := (vslotAt s k).base
      (some b, putCtx (ctxId g c) { x with regionBase := x.regionBase ++ [(region, b)] } s)

/-- Offset of a DVA in its leaf. -/
def leafOff (big : Bool) (dva : Nat) : Nat := if big then dva % 2 ^ 30 else dva % 2 ^ 21

/-- Translate a DVA of a context (R240): `region` is the tensor's region for a REGION tensor. -/
def xlate (g c : Nat) (region : Option Nat) (write : Bool) (dva : Nat) (s : State) : Except MemStop Nat × State :=
  andThen (leafOf g c dva s) fun l t =>
    let (leaf, big) := l
    let kind := bits leaf 1 0
    if (region.map fun n => kind != 3 || bits leaf 9 4 != n).getD false then (.error (.fault 0x07 0), t)
    else if kind = 2 then
      if write then
        if bit leaf 3 = 0 then (.error (.fault 0x04 0), t)
        else
          let a := bits leaf 51 12 * 4096 + leafOff big dva
          (if inDram t.variant a 1 then .ok a else .error (.fault 0x08 0), t)
      else if bit leaf 2 = 0 then (.error (.fault 0x03 0), t)
      else
        let a := bits leaf 51 12 * 4096 + leafOff big dva
        (if inDram t.variant a 1 then .ok a else .error (.fault 0x08 0), t)
    else if write then (.error (.fault 0x05 0), t)
    else if bit leaf 2 = 0 then (.error (.fault 0x03 0), t)
    else
      let b := regionBaseOf g c (bits leaf 9 4) t
      match b.1 with
      | none => (.error (.fault 0x06 0), b.2)
      | some base =>
        let a := (base + bits leaf 51 21) * 2 ^ 21 + leafOff big dva
        (if inDram b.2.variant a 1 then .ok a else .error (.fault 0x08 0), b.2)

/-- The pieces of `n` bytes at a DVA that lie in one 2 MiB page each; `fuel` bounds their number. -/
def dvaPieces : Nat → Nat → Nat → List (Nat × Nat)
  | 0, _, _ => []
  | f + 1, dva, n => if n = 0 then [] else
    let m := min n (2 ^ 21 - dva % 2 ^ 21)
    (dva, m) :: dvaPieces f (dva + m) (n - m)

/-- Translate `n` bytes at a DVA and see that the memory serves them: the DRAM pieces, or why not and at which DVA. -/
def xlateSpan (g c : Nat) (pt : PortOf) (region : Option Nat) (write : Bool) (dva n : Nat) (s : State) :
    Except (MemStop × Nat) (List (Nat × Nat)) × State :=
  (dvaPieces (n / 2 ^ 21 + 2) dva n).foldl (fun r p =>
    match r.1 with
    | .error e => (.error e, r.2)
    | .ok l =>
      let t := xlate g c region write p.1 r.2
      match t.1 with
      | .error e => (.error (e, p.1), t.2)
      | .ok a =>
        match memGate t.2 (some (corePart g)) pt a p.2 write with
        | some e => (.error (e, p.1), t.2)
        | none => (.ok (l ++ [(a, p.2)]), t.2)) (.ok [], s)

/-- Translate for a peer under an exported table (R400): no snapshot, so a VERSIONED leaf is a mismatch, and the DPA lies
on the stacks of partition `part`. -/
def xlatePeer (root part : Nat) (write : Bool) (dva : Nat) (s : State) : Except MemStop Nat × State :=
  andThen (walk none spinePortAt root dva s) fun l t =>
    let (leaf, big) := l
    if bits leaf 1 0 = 3 then (.error (.fault 0x07 0), t)
    else if write && bit leaf 3 = 0 then (.error (.fault 0x04 0), t)
    else if !write && bit leaf 2 = 0 then (.error (.fault 0x03 0), t)
    else
      let a := bits leaf 51 12 * 4096 + leafOff big dva
      (if inDram t.variant a 1 && partOfStack (a / 2 ^ stackBits t.variant) = part then .ok a else .error (.fault 0x08 0), t)

end Sys2Proof.Machine
end

