-- ==== Sys2Proof/Machine/Frames.lean ====
section
/-!
DEFINITION. Elviasyn frames, ports and routing (R394-R405): the header, the transmit queues, the choice of a port for a
remote request, and how a failed request is recorded.
-/

namespace Sys2Proof.Machine

/-- The header of a frame (R394). -/
structure Hdr where
  type : Nat := 0
  bcast : Bool := false
  last : Bool := false
  dst : Nat := 0
  dpart : Nat := 0
  len : Nat := 0
  src : Nat := 0
  tag : Nat := 0
  dva : Nat := 0
  core : Nat := 0
  ctx : Nat := 0
  q : Nat := 0
  wb : Nat := 0
  poison : Nat := 0
  arith : Nat := 0
  status : Nat := 0
  dseq : Nat := 0
  first : Nat := 0
  lastSkip : Nat := 0
  fmt : Nat := 0
deriving DecidableEq, Repr

/-- The 32 bytes of a header. -/
def hdrBytes (h : Hdr) : List Byte :=
  let b (x : Bool) : Nat := if x then 1 else 0
  leBytes 4 (h.type + b h.bcast * 2 ^ 8 + b h.last * 2 ^ 9 + h.dst * 2 ^ 12 + h.dpart * 2 ^ 24 + h.len * 2 ^ 27)
    ++ leBytes 4 (h.src + h.tag * 2 ^ 16) ++ leBytes 8 h.dva
    ++ leBytes 4 (h.core + h.ctx * 2 ^ 8 + h.q * 2 ^ 10 + h.wb * 2 ^ 16)
    ++ leBytes 4 (h.poison + h.arith * 2 ^ 16 + h.status * 2 ^ 24)
    ++ leBytes 8 (h.dseq + h.first * 2 ^ 32 + h.lastSkip * 2 ^ 40 + h.fmt * 2 ^ 48)

/-- Decode a header. -/
def hdrOf (f : List Byte) : Hdr :=
  let x := fieldAt f
  { type := x 0 7 0, bcast := x 0 8 8 = 1, last := x 0 9 9 = 1, dst := x 0 23 12, dpart := x 0 26 24, len := x 0 31 27
    src := x 4 11 0, tag := x 4 31 16, dva := x 8 63 0, core := x 16 7 0, ctx := x 16 9 8, q := x 16 12 10, wb := x 16 31 16
    poison := x 20 15 0, arith := x 20 23 16, status := x 20 31 24, dseq := x 24 31 0, first := x 24 36 32
    lastSkip := x 24 44 40, fmt := x 24 55 48 }

/-- VC of a frame type (R395): 0 DATA, 1 SIG, 2 RESP, 3 MGMT; none for a reserved type. -/
def vcOf (type : Nat) : Option Nat :=
  match type with
  | 0x01 | 0x02 | 0x03 => some 0
  | 0x20 => some 1
  | 0x10 | 0x11 | 0x12 => some 2
  | 0x30 | 0x31 | 0x32 | 0x33 | 0x34 => some 3
  | _ => none

/-- Data bytes behind the header (R394, R395). -/
def frameData (h : Hdr) : Nat := if h.type = 0x01 then 0 else 32 * h.len

/-- A port. -/
def portAt (s : State) (p : Nat) : Port := SMap.get (fun _ => {}) s.ports p

/-- Store a port. -/
def putPort (p : Nat) (x : Port) (s : State) : State := { s with ports := SMap.set (fun _ => {}) s.ports p x }

/-- Register page of port `p`. -/
def portPage (p : Nat) : Nat := (portUnit p).page

/-- PORT_STATE (R390): 0 OFF, 1 DARK, 2 TRAINING, 3 UP, 4 DEGRADED, 5 RETRAIN, 6 DOWN. -/
def portState (s : State) (p : Nat) : Nat := rd s (portPage p) .evlPortState

/-- Frames flow on the port (R390). -/
def portFlows (s : State) (p : Nat) : Bool := portState s p = 3 || portState s p = 4

/-- The flit stream of the port exists: UP, DEGRADED or RETRAIN (R389, R390). -/
def portLinked (s : State) (p : Nat) : Bool := portFlows s p || portState s p = 5

/-- REACH bit of a port (R408). -/
def reachOf (s : State) (p a : Nat) : Bool := SMap.get (fun _ => false) (portAt s p).reach a

/-- Set or clear a REACH bit. -/
def putReach (p a : Nat) (v : Bool) (s : State) : State :=
  let x := portAt s p
  putPort p { x with reach := SMap.set (fun _ => false) x.reach a v } s

/-- An address of the fabric. -/
def memberAt (s : State) (a : Nat) : Member := SMap.get (fun _ => {}) s.members a

/-- The device's own address. -/
def selfAddr (s : State) : Nat := rd s (portPage 0) .evlSelfAddr

/-- Put a frame at the end of a VC's transmit queue; what exceeds the queue of R398 waits behind it in the same list. -/
def sendFrame (p vc : Nat) (f : List Byte) (s : State) : State :=
  let x := portAt s p
  putPort p { x with tx := setAt [] x.tx vc (x.tx.getD vc [] ++ [f]) } s

/-- Ports that flow and reach address `a`, among those of a partition, or all when it has none (R403). -/
def routePorts (s : State) (part a : Nat) : List Nat :=
  let ok (p : Nat) : Bool := portFlows s p && reachOf s p a
  let own := ((List.range 8).map (8 * part + ·)).filter ok
  if own.isEmpty then (List.range 32).filter ok else own

/-- The port of a frame of stream (core, ctx, queue) to peer `a` (R403); none when no port reaches it. -/
def route (s : State) (g c q a : Nat) : Option Nat :=
  if (memberAt s a).st = 2 then none
  else
    let cand := routePorts s (g / 40) a
    let kept := (List.range 32).find? fun p =>
      (portAt s p).out.any fun r => r.core = g && r.ctx = c && r.q = q && r.peer = a
    match kept with
    | some p => some p
    | none => if cand.isEmpty then none else cand[(8 * ctxId g c + q) % cand.length]?

/-- A sender stream as one number (R144, R394). -/
def streamId (g c q : Nat) : Nat := g * 32 + c * 8 + q

/-- A remote operation failed (R402, R415, R418): ledger, ERRLOG and IRQ of the port. -/
def remoteFail (p status peer dva : Nat) (s : State) : State :=
  let pg := portPage p
  ledger pg 0x80 (peer + status * 2 ^ 16 + p * 2 ^ 24 + dva * 2 ^ 44) (raise pg 19 (logErr pg 1 0x03 dva s))

/-- The first tag from `t` that no outstanding request of the port uses; `fuel` bounds the search. -/
def freeTag (out : List RemoteReq) : Nat → Nat → Nat
  | 0, t => t
  | f + 1, t => if out.any (·.tag = t) then freeTag out f ((t + 1) % 65536) else t

/-- The request with this tag goes out (R400, R405): its frame takes the next DSEQ. -/
def launch (p : Nat) (r : RemoteReq) (s : State) : State :=
  let pg := portPage p
  let dseq := (rd s pg .evlDseqTx + 1) % 2 ^ 32
  let f := r.frame.take 24 ++ leBytes 4 dseq ++ r.frame.drop 28
  let x := portAt s p
  let s := putPort p { x with out := x.out.map fun e => if e.tag = r.tag then { e with held := false, dseq := dseq, frame := f } else e } s
  let s := sendFrame p 0 f (wr pg .evlDseqTx dseq s)
  let st := streamId r.core r.ctx r.q
  let wb := absWb (ctxAt s (ctxId r.core r.ctx)) r.q r.k
  { s with lastFrames := (s.lastFrames.filter fun e => !(e.stream = st && e.wb = wb)) ++ [⟨st, wb, r.peer, p, dseq⟩] }

/-- Two requests of one descriptor that touch one 32-byte unit. -/
def RemoteReq.meets (a b : RemoteReq) : Bool :=
  a.core = b.core && a.ctx = b.ctx && a.q = b.q && a.k = b.k && a.dva < b.dva + 32 * b.len && b.dva < a.dva + 32 * a.len

/-- Requests of a descriptor that were held go out once no earlier one that they collide with is outstanding (R244). -/
def launchHeld (p g c q k : Nat) (s : State) : State :=
  ((portAt s p).out.filter fun r => r.held && r.core = g && r.ctx = c && r.q = q && r.k = k).foldl (fun t r =>
    if ((portAt t p).out.takeWhile fun e => e.tag != r.tag).any r.meets then t else launch p r t) s

/-- Issue one DATA frame on port `p` and keep its request (R400, R405). `h` gives the frame's own fields. A write or addition that collides
with an earlier one of its descriptor waits for its response, so that a RETRY cannot change their order (R244). -/
def sendReq (p g c q k : Nat) (h : Hdr) (data : List Byte) (s : State) : State :=
  let x := portAt s p
  let tag := freeTag x.out (x.out.length + 1) x.nextTag
  let wb := absWb (ctxAt s (ctxId g c)) q k
  let h := { h with src := selfAddr s, tag := tag, core := g, ctx := c, q := q, wb := wb }
  let r : RemoteReq := { tag := tag, peer := h.dst, type := h.type, core := g, ctx := c, q := q, k := k, dva := h.dva, len := h.len, held := true
                         frame := hdrBytes h ++ data }
  let s := putPort p { x with out := x.out ++ [r], nextTag := (tag + 1) % 65536 } s
  if h.type != 0x01 && x.out.any r.meets then s else launch p r s

/-- Requests of a descriptor that have no final response yet. -/
def remotePending (s : State) (g c q k : Nat) : Bool :=
  s.ports.any fun e => e.2.out.any fun r => r.core = g && r.ctx = c && r.q = q && r.k = k

/-- The frames of a run of `n` bytes at DVA `a`: (first unit's DVA, units), each at most 16 units (R394; where a run is cut is
the model's, log entry 33). -/
def cutRun (a n : Nat) : List (Nat × Nat) :=
  if n = 0 then [] else
  let lo := a / 32
  let units := (a + n - 1) / 32 + 1 - lo
  (List.range (ceilDiv units 16)).map fun i => ((lo + 16 * i) * 32, min 16 (units - 16 * i))

end Sys2Proof.Machine
end

