-- ==== Sys2Proof/Machine/Tmv.lean ====
section
/-!
DEFINITION. The tensor movement engine (R218-R244): which unit moves where, edges and indices, runs, local and remote
transfers, collisions, additions and faults.
-/

namespace Sys2Proof.Machine

/-- What one iteration does: 0 read or written, 1 padded or dropped, 2 skipped; its memory offset from the tensor's base,
its coordinates from the indexed dimension up, its scratch offset, and whether its index was poisoned. `at_` is where its bytes stand among
all that the descriptor moves; those of a unit that is not `fresh` are a copy of bytes moved before (R229, R236). -/
structure UnitMove where
  st : Nat := 0
  clamped : Bool := false
  off : Int := 0
  key : List Int := []
  pos : Nat := 0
  sp : Nat := 0
  idxBad : Bool := false
  fault : Bool := false
  fresh : Bool := true
  at_ : Nat := 0
deriving DecidableEq, Repr

/-- Extent of dimension `i` in units (R219). -/
def TmBody.extent (x : TmBody) (i : Nat) : Int :=
  let u := unitOf (fmtCode x.mem.fmt)
  if i = 0 then (if u.2 = 1024 then x.mem.bytes / u.1 else ceilDiv (x.mem.ext.getD 0 0) u.2) else x.mem.ext.getD i 0

/-- Iteration numbers n_0 to n_5 of iteration `it` in row-major order, n_0 innermost. -/
def TmBody.iterAt (x : TmBody) (it : Nat) : List Nat :=
  (x.cnt.foldl (fun (r : List Nat × Nat) c => (r.1 ++ [r.2 % max c 1], r.2 / max c 1)) ([], it)).1

/-- Clamp a coordinate to [0, e). -/
def clampTo (c e : Int) : Int := max 0 (min c (e - 1))

/-- The coordinate of one dimension: (coordinate, clamped, 0 in range / 1 padded / 2 skipped / 3 index fault) (R222, R223, R228). -/
def TmBody.coord (x : TmBody) (index : Option (Int × Bool)) (n : List Nat) (i : Nat) : Int × Bool × Nat :=
  let e := x.extent i
  match index with
  | some (v, _) =>
    let null := x.idxNull && v = -1
    let c := if null then v else if x.idxNeg && -e ≤ v && v < 0 then v + e else v + x.start.getD i 0
    if !null && 0 ≤ c && c < e then (c, false, 0)
    else match x.idxOor with
      | 0 => (c, false, 3)
      | 1 => (c, false, 1)
      | 2 => (clampTo c e, true, 0)
      | _ => (c, false, 2)
  | none =>
    let c := x.start.getD i 0 + n.getD i 0 * x.step.getD i 0
    if 0 ≤ c && c < e then (c, false, 0)
    else if x.edge.getD i 0 = 1 then (clampTo c e, true, 0) else (c, false, 1)

/-- The state of a unit by those of its coordinates (R224, R228): an index fault, else padded when any is, else skipped when any is. -/
def moveState (cs : List Nat) : Nat := if cs.contains 3 then 3 else if cs.contains 1 then 1 else if cs.contains 2 then 2 else 0

/-- What iteration `it` does (R222-R228); `idx` are the index values with their poison marks. -/
def TmBody.move (x : TmBody) (idx : List (Int × Bool)) (it : Nat) : UnitMove :=
  let n := x.iterAt it
  let ix (i : Nat) : Option (Int × Bool) := if x.idx.isSome && i = x.gdim then some (idx.getD (n.getD i 0) (0, false)) else none
  let cs := (List.range x.mem.rank).map fun i => x.coord (ix i) n i
  let st := moveState (cs.map fun c => c.2.2)
  let off : Int := (cs.zipIdx.map fun c => c.1.1 * (if c.2 = 0 then (x.u : Int) else x.memPitch.getD c.2 0)).sum
  { st := if st = 3 then 0 else st, clamped := st = 0 && cs.any fun c => c.2.1, off := off, key := (cs.drop x.gdim).map Prod.fst
    pos := n.getD x.gdim 0, sp := x.spAt n, idxBad := ((ix x.gdim).map Prod.snd).getD false, fault := st = 3 }

/-- The units of a movement with the places of their bytes: bytes moved so far, the unit moved last, the slices kept for coalescing, and
how many slices were coalesced. -/
structure UnitSrc where
  out : List UnitMove := []
  total : Nat := 0
  last : Option (Int × Nat) := none
  kept : List (List Int × List Nat) := []
  hits : Nat := 0
deriving DecidableEq, Repr

/-- One unit gets its place: a clamped unit that repeats the memory unit moved last is replicated (R236). -/
def placeUnit (u : Nat) (r : UnitSrc) (m : UnitMove) : UnitSrc :=
  if m.st != 0 then { r with out := r.out ++ [m] }
  else match r.last.filter fun l => m.clamped && l.1 = m.off with
    | some l => { r with out := r.out ++ [{ m with fresh := false, at_ := l.2 }] }
    | none => { r with total := r.total + u, last := some (m.off, r.total), out := r.out ++ [{ m with at_ := r.total }] }

/-- The units of a slice as copies of a slice kept, whose places are `ps`. -/
def copySlice : List Nat → List UnitMove → List UnitMove
  | _, [] => []
  | ps, m :: ms => if m.st != 0 then m :: copySlice ps ms else { m with fresh := false, at_ := ps.headD 0 } :: copySlice ps.tail ms

/-- One slice of a movement: with coalescing, a slice whose coordinates match one of the 64 distinct slices read last is copied (R229). -/
def placeSlice (u : Nat) (coalesce : Bool) (r : UnitSrc) (l : List UnitMove) : UnitSrc :=
  if !coalesce || l.all fun m => m.st != 0 then l.foldl (placeUnit u) r
  else
    let key := (l.head?.map UnitMove.key).getD []
    match r.kept.find? fun e => e.1 = key with
    | some e => { r with out := r.out ++ copySlice e.2 l, last := none, hits := r.hits + 1 }
    | none =>
      let t := l.foldl (placeUnit u) r
      let ps := ((t.out.drop r.out.length).filter fun m => m.st = 0).map UnitMove.at_
      { t with kept := (r.kept ++ [(key, ps)]).drop (r.kept.length - 63) }

/-- The units of a slice of a GATHER; any other movement is one slice. -/
def TmBody.perSlice (x : TmBody) (type : Nat) : Nat := if type = 0x70 then (x.cnt.take x.gdim).foldl (· * ·) 1 else x.iters

/-- Every unit of a movement with the place of its bytes (R222, R229, R236). -/
def TmBody.units (x : TmBody) (type : Nat) (idx : List (Int × Bool)) : UnitSrc :=
  let per := max 1 (x.perSlice type)
  (chunks per (ceilDiv x.iters per) ((List.range x.iters).map (x.move idx))).foldl
    (placeSlice x.u (type = 0x70 && x.coalesce && per * x.u ≤ 2048)) {}

/-- A run of units with consecutive memory and scratch addresses (R236): DVA, bytes, scratch address, units, whether its
index was poisoned, and whether its units are added. -/
structure TmRun where
  dva : Nat := 0
  len : Nat := 0
  sp : Nat := 0
  idxBad : Bool := false
  add : Bool := false
deriving DecidableEq, Repr

/-- Append a unit to the runs, joining the last one where it continues it. -/
def joinRun (u : Nat) (rs : List TmRun) (r : TmRun) : List TmRun :=
  match rs.getLast? with
  | some l =>
    if l.dva + l.len = r.dva && l.sp + l.len = r.sp && l.idxBad = r.idxBad && l.add = r.add then
      rs.dropLast ++ [{ l with len := l.len + u }]
    else rs ++ [r]
  | none => rs ++ [r]

/-- The plan of a movement: its runs up to the first unit that faults before translation, and that fault (code, detail). -/
structure TmPlan where
  runs : List TmRun := []
  seen : List (Nat × Nat) := []
  stop : Option (Nat × Nat × Nat) := none
deriving DecidableEq, Repr

/-- Add one unit to the plan: SPAN and range checks (R242), collisions of a SCATTER (R231). A copy asks nothing of memory. -/
def planUnit (x : TmBody) (type base spBase : Nat) (p : TmPlan) (m : UnitMove) : TmPlan :=
  if p.stop.isSome then p
  else if m.fault then { p with stop := some (0x0A, 2, m.pos) }
  else if m.st != 0 || !m.fresh then p
  else
    let a : Int := (base : Int) + x.mem.offset + m.off
    let low := ofSigned 52 a
    if (type = 0x70 || type = 0x71) && !(0 ≤ m.off && m.off + x.u ≤ x.mem.bytes) then { p with stop := some (0x09, 0, low) }
    else if !(0 ≤ a && a + x.u ≤ 2 ^ 52) then { p with stop := some (0x01, 0, low) }
    else
      let hit := type = 0x71 && p.seen.any fun e => e.1 < low + x.u && low < e.2
      if hit && !x.accum && x.collide = 2 then { p with stop := some (0x0B, 2, m.pos) }
      else
        let r : TmRun := ⟨low, x.u, spBase + m.sp, m.idxBad && type = 0x71, type = 0x71 && (x.accum || (hit && x.collide = 1))⟩
        { p with runs := joinRun x.u p.runs r
                 seen := if type = 0x71 then p.seen ++ [(low, low + x.u)] else [] }

/-- Base of the memory tensor: its bind, or the region's DVA (R222). -/
def memBase (r : Run) (t : Tensor) : Nat :=
  if t.kind = 2 then ((r.regions.find? fun e => e.1 = t.sel).map Prod.snd).getD 0 else (r.binds.getD t.sel {}).dva

/-- The bind of a BOUND tensor. -/
def memBind (r : Run) (t : Tensor) : Bind := if t.kind = 2 then {} else r.binds.getD t.sel {}

/-- Read the index values of a GATHER or SCATTER (R228). -/
def readIdx (g : Nat) (c : Ctx) (x : TmBody) (s : State) : List (Int × Bool) × State :=
  match x.idx with
  | none => ([], s)
  | some t =>
    let n := x.cnt.getD x.gdim 0
    let at_ := spAddr c t + x.idxOff
    let r := readSec g at_ (4 * n) (takeSlots .tmv g (spLines at_ (4 * n)).length s)
    ((List.range n).map fun i =>
      let b := (r.1.drop (4 * i)).take 4
      (toSigned 32 (leNat (b.map Prod.fst)), b.any Prod.snd), r.2)

/-- Translate every run in order (R240): the DRAM pieces of each, or the first stop with its DVA. -/
def xlateRuns (g c : Nat) (region : Option Nat) (write : Bool) : List TmRun → State → Except (MemStop × Nat) (List (List (Nat × Nat))) × State
  | [], s => (.ok [], s)
  | r :: rs, s =>
    let t := xlateSpan g c (corePortAt g) region write r.dva r.len s
    match t.1 with
    | .error e => (.error e, t.2)
    | .ok l =>
      let u := xlateRuns g c region write rs t.2
      (u.1.map (l :: ·), u.2)

/-- Read DRAM pieces: each byte with its mark. -/
def readPieces (pt : PortOf) (ps : List (Nat × Nat)) (s : State) : List (Byte × Bool) × State :=
  ps.foldl (fun r p => let t := readSpan pt p.1 p.2 r.2; (r.1 ++ t.1, t.2)) ([], s)

/-- Mark every unit of `u` bytes that holds a marked byte. -/
def markUnits (u : Nat) (all : Bool) (bs : List (Byte × Bool)) : List (Byte × Bool) :=
  (chunks u (ceilDiv bs.length u) bs).flatMap fun b => let bad := all || b.any Prod.snd; b.map fun x => (x.1, bad)

/-- Write marked bytes of core `g` to DRAM at `a`: a column that receives a marked byte is written POISON (R367, R368). -/
def writeMarked (a : Nat) (bytes : List (Byte × Bool)) (g : Nat) (s : State) : State :=
  (colsOf s a bytes.length).foldl (fun t e =>
    let bad := (bytes.zipIdx.filter fun b => e.2 ≤ a + b.2 && a + b.2 < e.2 + 32).any fun b => b.1.2
    writeCol { col := e.1, port := corePortAt g t (stackOfCol e.1), data := colPart a e.2 (bytes.map Prod.fst), poison := bad,
               mate := isMate a e } t) s

/-- Write marked bytes to DRAM pieces. -/
def writePieces (ps : List (Nat × Nat)) (bytes : List (Byte × Bool)) (g : Nat) (s : State) : State :=
  (ps.foldl (fun (r : Nat × State) p => (r.1 + p.2, writeMarked p.1 ((bytes.drop r.1).take p.2) g r.2)) (0, s)).2

/-- v + s in a format of R232: the encoding and the flags. -/
def addElem (fmt : Nat) (a : Arith) (v u : Nat) : Nat × Nat :=
  let x := decode fmt a.ftz v
  let y := decode fmt a.ftz u
  let r := addNum a.round x.1 y.1
  let e := encode fmt a (codeClass fmt) r.1
  (e.1, x.2 ||| y.2 ||| r.2 ||| e.2)

/-- Add the units of `bytes` to the memory value read there: the bytes to write, the flags (none for a poisoned one, R238). -/
def addUnits (fmt u : Nat) (a : Arith) (old new : List (Byte × Bool)) : List (Byte × Bool) × Nat :=
  let r := ((chunks u (ceilDiv new.length u) old).zip (chunks u (ceilDiv new.length u) new)).map fun p =>
    let bad := p.1.any Prod.snd || p.2.any Prod.snd
    let e := addElem fmt a (leNat (p.1.map Prod.fst)) (leNat (p.2.map Prod.fst))
    ((leBytes u e.1).map fun b => (b, bad), if bad then 0 else e.2)
  (r.flatMap Prod.fst, r.foldl (fun k e => k ||| e.2) 0)

/-- How the scratch side of a movement is reached (R227, R230, R236): by lines of the wide view and parts of sectors, by 8-byte words of
the narrow view formed over the two innermost dimensions, or by units of the narrow view. -/
inductive SpWay where
  | lines
  | words
  | units
deriving DecidableEq, Repr

/-- The way of a movement. -/
def TmBody.way (x : TmBody) (type : Nat) : SpWay :=
  if x.transpose then .words else if (type = 0x70 || type = 0x71) && x.gdim = 0 && x.u < 32 then .units else .lines

/-- A unit on the scratch side: the plane of the two innermost dimensions that it lies in, its address and its marked bytes. -/
structure SpUnit where
  plane : Nat := 0
  sp : Nat := 0
  bytes : List (Byte × Bool) := []
deriving DecidableEq, Repr

/-- Append a unit to the scratch runs, joining the last one where it continues it (R236). -/
def joinSp (rs : List (Nat × List (Byte × Bool))) (x : SpUnit) : List (Nat × List (Byte × Bool)) :=
  match rs.getLast? with
  | some l => if l.1 + l.2.length = x.sp then rs.dropLast ++ [(l.1, l.2 ++ x.bytes)] else rs ++ [(x.sp, x.bytes)]
  | none => [(x.sp, x.bytes)]

/-- The units of each plane, in order. -/
def planesOf (us : List SpUnit) : List (List SpUnit) := (us.map SpUnit.plane).eraseDups.map fun p => us.filter fun x => x.plane = p

/-- The words that the units of a plane touch, each once (R227). -/
def planeWords (us : List SpUnit) : List Nat := (us.flatMap fun x => wordsOf x.sp x.bytes.length).eraseDups

/-- Write units to the scratchpad of core `g` in iteration order (R222, R227, R230, R236). -/
def putUnits (way : SpWay) (g : Nat) (us : List SpUnit) (s : State) : State :=
  match way with
  | .lines => (us.foldl joinSp []).foldl (fun t e => writeSp .tmv g e.1 e.2 t) s
  | .units => us.foldl (fun t x => writeNarrow g x.sp x.bytes t) s
  | .words => (planesOf us).foldl (fun t p =>
      (planeWords p).foldl (fun v w => narrowPut g w (p.flatMap fun x => markedPart x.sp w x.bytes) v) t) s

/-- Read the words of a plane through the narrow view: each with its marked bytes. -/
def readPlane (g : Nat) (us : List SpUnit) (s : State) : List (Nat × List (Byte × Bool)) × State :=
  (planeWords us).foldl (fun r w =>
    let t := narrowRead g w r.2
    (r.1 ++ [(w, t.1.1.map fun b => (b, t.1.2))], t.2)) ([], s)

/-- The bytes of the units of a movement's source, one behind the other; `us` give the addresses, their bytes count only by number. -/
def readUnits (way : SpWay) (g : Nat) (us : List SpUnit) (s : State) : List (Byte × Bool) × State :=
  match way with
  | .lines => (us.foldl joinSp []).foldl (fun r e => let t := readWide .tmv g e.1 e.2.length r.2; (r.1 ++ t.1, t.2)) ([], s)
  | .units => us.foldl (fun r x => let t := readNarrow g x.sp x.bytes.length r.2; (r.1 ++ t.1, t.2)) ([], s)
  | .words => (planesOf us).foldl (fun r p =>
      let t := readPlane g p r.2
      let at_ (a : Nat) : Byte × Bool := (((t.1.find? fun e => e.1 = a / 8).map Prod.snd).getD []).getD (a % 8) (0, false)
      (r.1 ++ p.flatMap fun x => (List.range x.bytes.length).map fun i => at_ (x.sp + i), t.2)) ([], s)

/-- The iteration writes its unit's bytes or its pad value (R224). -/
def TmBody.writes (x : TmBody) (m : UnitMove) : Bool := m.st = 0 || (m.st = 1 && x.padWrite)

/-- The bytes that a unit brings to a LOAD's or GATHER's destination: its own of those read, or the pad value. -/
def TmBody.unitBytes (x : TmBody) (buf : List (Byte × Bool)) (m : UnitMove) : List (Byte × Bool) :=
  if m.st = 0 then markUnits x.u m.idxBad ((buf.drop m.at_).take x.u) else (leBytes x.u x.padValue).map fun b => (b, false)

/-- An iteration on the scratch side. -/
def TmBody.spUnit (x : TmBody) (c : Ctx) (e : UnitMove × Nat) (bytes : List (Byte × Bool)) : SpUnit :=
  { plane := e.2 / max 1 (x.cnt.getD 0 1 * x.cnt.getD 1 1), sp := spAddr c x.sp + e.1.sp, bytes := bytes }

/-- The iterations that write, with their numbers; with `last`, only those whose place no later one writes. -/
def TmBody.writers (x : TmBody) (last : Bool) (ms : List UnitMove) : List (UnitMove × Nat) :=
  let ws := ms.zipIdx.filter fun e => x.writes e.1
  if !last then ws
  else (ws.foldr (fun e (r : List Nat × List (UnitMove × Nat)) => if r.1.contains e.1.sp then r else (e.1.sp :: r.1, e :: r.2)) ([], [])).2

/-- The units that a STORE or SCATTER moves, on the scratch side. -/
def TmBody.sources (x : TmBody) (c : Ctx) (ms : List UnitMove) : List SpUnit :=
  (ms.zipIdx.filter fun e => e.1.st = 0).map fun e => x.spUnit c e (List.replicate x.u (0, false))

/-- Read a STORE's or SCATTER's units, a unit of a poisoned index or with a poisoned word marked whole (R368). -/
def readSource (g : Nat) (c : Ctx) (x : TmBody) (type : Nat) (ms : List UnitMove) (s : State) : List (Byte × Bool) × State :=
  let r := readUnits (x.way type) g (x.sources c ms) s
  ((ms.filter fun m => m.st = 0).flatMap fun m => markUnits x.u m.idxBad ((r.1.drop m.at_).take x.u), r.2)

/-- The mask and count record of a movement (R224, R226), and the page's counters. -/
def finishUnits (g : Nat) (c : Ctx) (x : TmBody) (src : UnitSrc) (s : State) : State :=
  let put (a : Nat) (bs : List Byte) (t : State) : State := writeSp .tmv g a (bs.map fun b => (b, false)) t
  let ms := src.out
  let s := match x.mask with
    | some t => put (spAddr c t + x.maskOff) (leBytes (ceilDiv ms.length 8) (packBits 1 (ms.map fun m => if m.st = 0 then 1 else 0))) s
    | none => s
  let cl := (ms.filter fun m => m.clamped).length
  let pd := (ms.filter fun m => m.st != 0).length
  let s := if x.cntEn then put (c.spBase + x.cntOff) (leBytes 8 cl ++ leBytes 8 pd) s else s
  let p := tmvPage g
  count p .tmvCoalesced src.hits (count p .tmvClampUnits cl (count p .tmvPadUnits pd s))

/-- Fresh free bytes, none of them marked: `n` of them. -/
def freeBytes (n : Nat) (s : State) : List (Byte × Bool) × State := ((leBytes n (freshVal s)).map fun b => (b, false), freshNext s)

/-- The lowest and highest byte address of a STORE's or SCATTER's units that lie in range (R242). -/
def destDvas (x : TmBody) (type base : Nat) (ms : List UnitMove) : Option (Nat × Nat) :=
  let l := ms.filterMap fun m =>
    let a : Int := (base : Int) + x.mem.offset + m.off
    if m.st = 0 && !m.fault && decide (0 ≤ a ∧ a + (x.u : Int) ≤ 2 ^ 52) && (type = 0x68 || decide (0 ≤ m.off ∧ m.off + (x.u : Int) ≤ (x.mem.bytes : Int))) then some a.toNat else none
  l.head?.map fun a => (l.foldl min a, l.foldl max a + x.u)

/-- After a FAULT the bytes of the destination span are undefined (R243): the scratchpad span of a LOAD or GATHER; of a local STORE or
SCATTER, from its lowest to its highest byte, what its context may write (log entry 34). -/
def undefineDest (g c : Nat) (x : TmBody) (cx : Ctx) (type : Nat) (bind : Bind) (base : Nat) (ms : List UnitMove) (s : State) : State :=
  if type = 0x60 || type = 0x70 then
    let lo := spAddr cx x.sp + x.spOff
    let b := freeBytes (spAddr cx x.sp + x.spAt (x.cnt.map (· - 1)) + x.u - lo) s
    writeBanks g lo b.1 b.2
  else if bind.remote then s
  else match destDvas x type base ms with
    | none => s
    | some (lo, hi) => (dvaPieces ((hi - lo) / 2 ^ 21 + 2) lo (hi - lo)).foldl (fun t p =>
        match (xlateSpan g c (corePortAt g) none true p.1 p.2 t).1 with
        | .ok ps => let b := freeBytes p.2 t; writePieces ps b.1 g b.2
        | .error _ => t) s

/-- A movement descriptor ends FAULT (R243, R246). -/
def tmFault (g c q k code operand info entry : Nat) (s : State) : State :=
  let p := tmvPage g
  let s := count p .tmvFaults 1 s
  let s := if (code = 0x02 || code = 0x0F) && rd s p .hdrErrValid = 0 then raise p 16 (logErr p 1 0x01 entry s)
    else if code = 0x02 || code = 0x0F then logErr p 1 0x01 entry s else s
  endWork g c q k .fault 0 (code + operand * 2 ^ 8 + info * 2 ^ 12) s

/-- A local LOAD or GATHER, its runs translated to `ps`, moves (R222, R224, R229, R230): whether poison was met, and the state after. -/
def moveIn (g type : Nat) (x : TmBody) (c : Ctx) (ms : List UnitMove) (ps : List (Nat × Nat)) (s : State) : Bool × State :=
  let m := readPieces (corePortAt g) ps s
  let us := (x.writers false ms).map fun e => x.spUnit c e (x.unitBytes m.1 e.1)
  (us.any fun u => u.bytes.any Prod.snd, putUnits (x.way type) g us m.2)

/-- The runs of a local STORE or SCATTER, each with its bytes and its DRAM pieces, move (R231-R233, R238): the flags, poison, and the state
after. -/
def moveOut (g : Nat) (x : TmBody) (a : Arith) (rs : List (TmRun × List (Byte × Bool) × List (Nat × Nat))) (s : State) : (Nat × Bool) × State :=
  rs.foldl (fun acc e =>
    let b := e.2.1
    if e.1.add then
      let old := readPieces (corePortAt g) e.2.2 acc.2
      let z := addUnits (fmtCode x.mem.fmt) x.u a old.1 b
      ((acc.1.1 ||| z.2, acc.1.2 || z.1.any Prod.snd), writePieces e.2.2 z.1 g old.2)
    else ((acc.1.1, acc.1.2 || b.any Prod.snd), writePieces e.2.2 b g acc.2)) ((0, false), s)

/-- Runs with their parts of the source's bytes. -/
def withBytes (bytes : List (Byte × Bool)) (rs : List TmRun) : List (TmRun × List (Byte × Bool)) :=
  (rs.foldl (fun (r : Nat × List (TmRun × List (Byte × Bool))) x =>
    (r.1 + x.len, r.2 ++ [(x, (bytes.drop r.1).take x.len)])) (0, [])).2

/-- The frames of a remote run: header and data (R234, R400). -/
def runFrames (x : TmBody) (type arith : Nat) (bind : Bind) (r : TmRun) (bytes : List (Byte × Bool)) : List (Hdr × List Byte) :=
  (cutRun r.dva r.len).map fun f =>
    let first := r.dva - f.1
    let endAt := f.1 + 32 * f.2
    let last := endAt - (r.dva + r.len)
    let at_ (i : Nat) : Byte × Bool := if r.dva ≤ f.1 + i then bytes.getD (f.1 + i - r.dva) (0, false) else (0, false)
    let h : Hdr := { dst := bind.peer, dpart := bind.part, len := f.2, dva := f.1 }
    if type = 0x60 then ({ h with type := 0x01 }, [])
    else
      let data := (List.range (32 * f.2)).map at_
      let poison := ((List.range f.2).map fun i => if ((data.drop (32 * i)).take 32).any Prod.snd then 2 ^ i else 0).sum
      ({ h with type := if r.add then 0x03 else 0x02, poison := poison, first := first, lastSkip := last
                arith := if r.add then arith else 0, fmt := if r.add then fmtCode x.mem.fmt else 0 }, data.map Prod.fst)

/-- Issue the frames of a remote transfer (R234, R403): none when a peer cannot be reached. -/
def issueFrames (g c q k : Nat) : List (Hdr × List Byte) → State → Option State
  | [], s => some s
  | f :: fs, s =>
    match route s g c q f.1.dst with
    | none => none
    | some p => issueFrames g c q k fs (sendReq p g c q k { f.1 with last := fs.isEmpty } f.2 s)

/-- A movement descriptor as it stands: what its plan rests on. -/
structure TmMove where
  x : TmBody
  bind : Bind
  base : Nat
  idx : List (Int × Bool)
  src : UnitSrc
  plan : TmPlan
deriving DecidableEq, Repr

/-- Read the indices of a movement descriptor and plan it (R222, R228, R231, R242). -/
def tmPlan (s : State) (g c : Nat) (w : Work) : TmMove × State :=
  let cx := ctxAt s (ctxId g c)
  let run := (runAt s cx.run).getD {}
  let x := tmBody (ctxImage s g c) w.img
  let ix := readIdx g cx x s
  let src := x.units (dType w.img) ix.1
  let base := memBase run x.mem
  (⟨x, memBind run x.mem, base, ix.1, src, src.out.foldl (planUnit x (dType w.img) base (spAddr cx x.sp)) {}⟩, ix.2)

/-- The region of a REGION tensor. -/
def TmBody.region (x : TmBody) : Option Nat := if x.mem.kind = 2 then some x.mem.sel else none

/-- The type writes memory. -/
def tmWrites (type : Nat) : Bool := type = 0x68 || type = 0x71

/-- A remote transfer of a started descriptor begins (R234): its frames go out; of a LOAD, the pad values are written that no later unit
replaces. -/
def tmRemote (g c q : Nat) (w : Work) (m : TmMove) (s : State) : State :=
  let cx := ctxAt s (ctxId g c)
  let type := dType w.img
  let x := m.x
  let lost (t : State) : State := undefineDest g c x cx type m.bind m.base m.src.out t
  match m.plan.stop with
  | some f => tmFault g c q w.k f.1 f.2.1 f.2.2 0 (lost s)
  | none =>
    let r := if type = 0x60 then ([], s) else readSource g cx x type m.src.out s
    let frames := (withBytes r.1 m.plan.runs).flatMap fun e => runFrames x type (dArith w.img) m.bind e.1 e.2
    match issueFrames g c q w.k frames r.2 with
    | none =>
      tmFault g c q w.k 0x0D 0 0 0 (remoteFail (8 * corePart g) 0x22 m.bind.peer ((m.plan.runs.head?.map TmRun.dva).getD 0) (lost s))
    | some t =>
      let pads := ((x.writers true m.src.out).filter fun e => e.1.st != 0).map fun e => x.spUnit cx e (x.unitBytes [] e.1)
      let t := if type = 0x60 then putUnits (x.way type) g pads t else t
      let t := finishUnits g cx x m.src t
      let bad := r.1.any Prod.snd || m.idx.any Prod.snd
      let t := count (tmvPage g) (if type = 0x60 then .tmvBytesRead else .tmvBytesWritten) ((m.plan.runs.map TmRun.len).sum) t
      let t := mapWork g c q w.k (fun w => { w with began := true, bad := bad, added := w.added || m.plan.runs.any TmRun.add }) t
      if remotePending t g c q w.k then engineFree g q c w.k t else endWork g c q w.k (poisonStat bad) 0 0 t

/-- The 64-byte requests of a run (R235, R236). -/
def TmRun.requests (r : TmRun) : Nat := (r.dva % 64 + r.len + 63) / 64

/-- The requests of a movement that their target partition answers RETRY now (R244). -/
def retried (s : State) (g c : Nat) (w : Work) : Nat :=
  let p := tmPlan s g c w
  ((p.1.plan.runs.filter fun r =>
    match (xlateSpan g c (corePortAt g) p.1.x.region (tmWrites (dType w.img)) r.dva r.len p.2).1 with
    | .error (.retry, _) => true
    | _ => false).map TmRun.requests).sum

/-- One movement descriptor acts (R222-R244): all of a local transfer, or the issue of a remote one. A transfer that meets a
column that is not served, a host copy or a resetting partition leaves everything as it was and is tried again. -/
def tmAct (g c q : Nat) (w : Work) (s : State) : State :=
  let cx := ctxAt s (ctxId g c)
  let type := dType w.img
  let p := tmPlan s g c w
  let m := p.1
  let x := m.x
  let lost (t : State) : State := undefineDest g c x cx type m.bind m.base m.src.out t
  if x.mem.kind = 0 && x.remote != m.bind.remote then tmFault g c q w.k 0x0E 0 0 0 (lost s)
  else if x.remote then tmRemote g c q w m p.2
  else
    let write := tmWrites type
    let t := xlateRuns g c x.region write m.plan.runs p.2
    match t.1 with
    | .error (.wait held, _) => noteWaits (corePortAt g) (some (g, c, q, w.k)) held s
    | .error (.snoop ls, _) => snoopLines ls s
    | .error (.retry, _) => mapWork g c q w.k (fun v => { v with retry := true, again := retried s g c w }) s
    | .error (.fault code entry, dva) => tmFault g c q w.k code 0 dva entry (lost t.2)
    | .ok ps =>
      let adds := ((m.plan.runs.zip ps).filter fun r => r.1.add).flatMap Prod.snd
      match m.plan.stop, (piecesWait t.2 (corePortAt g) ps.flatten false write).orElse fun _ => piecesWait t.2 (corePortAt g) adds true false with
      | some f, _ => tmFault g c q w.k f.1 f.2.1 f.2.2 0 (lost t.2)
      | none, some held => noteWaits (corePortAt g) (some (g, c, q, w.k)) held s
      | none, none =>
        let r : (Nat × Bool) × State :=
          if write then
            let d := readSource g cx x type m.src.out t.2
            moveOut g x (arithOf (dArith w.img)) (((withBytes d.1 m.plan.runs).zip ps).map fun e => (e.1.1, e.1.2, e.2)) d.2
          else let d := moveIn g type x cx m.src.out ps.flatten t.2; ((0, d.1), d.2)
        let s := finishUnits g cx x m.src r.2
        let s := count (tmvPage g) (if write then .tmvBytesWritten else .tmvBytesRead) ((m.plan.runs.map TmRun.len).sum) s
        endWork g c q w.k (poisonStat (r.1.2 || m.idx.any Prod.snd)) r.1.1 0
          (mapWork g c q w.k (fun w => { w with added := w.added || m.plan.runs.any TmRun.add, retry := false }) s)

/-- The oldest started movement descriptor of a queue that has not begun. -/
def tmRun (g c q : Nat) (types : List Nat) (s : State) : State :=
  match currentWork s g c q types with
  | some w => if w.began then s else tmAct g c q w s
  | none => s

/-- LOAD (R218, R222). -/
def execLoad (core ctx : Nat) (s : State) : Result := .next (tmRun core ctx qLd [0x60] s)
/-- STORE (R218, R222). -/
def execStore (core ctx : Nat) (s : State) : Result := .next (tmRun core ctx qSt [0x68] s)
/-- GATHER (R228-R230). -/
def execGather (core ctx : Nat) (s : State) : Result := .next (tmRun core ctx qGt [0x70] s)
/-- SCATTER (R231, R232). -/
def execScatter (core ctx : Nat) (s : State) : Result := .next (tmRun core ctx qGt [0x71] s)

/-- Send again, with its DSEQ, every frame of a descriptor that was answered RETRY (R402). -/
def reissueFrames (g c q k : Nat) (s : State) : State :=
  (List.range 32).foldl (fun t p =>
    ((portAt t p).out.filter fun r => r.core = g && r.ctx = c && r.q = q && r.k = k && r.retry).foldl (fun t r =>
      let x := portAt t p
      let t := putPort p { x with out := x.out.map fun e => if e.tag = r.tag then { e with retry := false } else e } t
      count (tmvPage g) .tmvRetries 1 (sendFrame p 0 r.frame t)) t) s

/-- RETRY_REISSUE (R244): requests that were answered RETRY are issued again, each counted. -/
def execRetryReissue (core ctx q : Nat) (s : State) : Result :=
  match ((ctxAt s (ctxId core ctx)).q q).live.find? fun w => w.works && [0x60, 0x68, 0x70, 0x71].contains (dType w.img) with
  | none => .next s
  | some w =>
    if w.retry then .next (tmAct core ctx q w (count (tmvPage core) .tmvRetries w.again s))
    else .next (reissueFrames core ctx q w.k s)

end Sys2Proof.Machine
end

