-- ==== Sys2Proof/Machine/BankCmd.lean ====
section
/-!
DEFINITION. The bank-command engine (R275-R281, R304-R306): translation and bank shares, reservations, uploads, gang commands,
records and credits.
-/

namespace Sys2Proof.Machine

/-- Why a bank-command descriptor does not go on: memory that stops it (with the DVA), or a code of R278. -/
inductive BkStop where
  | mem (e : MemStop) (dva : Nat)
  | code (c : Nat)
deriving DecidableEq, Repr

/-- A piece of a bank's share: the unit (channel × 32 + bank), its first bank-local offset, its length (R289). -/
structure Share where
  unit : Nat
  off : Nat
  len : Nat
deriving DecidableEq, Repr

/-- Cut `n` bytes of DRAM at `a` into shares of 1 MiB (R287); none where a byte lies in no linear block of stack `d`. -/
def dramShares (s : State) (d a n : Nat) : Option (List Share) :=
  let o := a % 2 ^ stackBits s.variant
  if a / 2 ^ stackBits s.variant != d || !isLinear s d (o / 2 ^ 30) then none
  else
    let first := min n (2 ^ 20 - a % 2 ^ 20)
    let one (o n : Nat) : Share := ⟨o / 2 ^ 20 % 1024, o / 2 ^ 30 * 2 ^ 20 + o % 2 ^ 20, n⟩
    let rest := (List.range (ceilDiv (n - first) (2 ^ 20))).map fun i =>
      one (o + first + i * 2 ^ 20) (min (2 ^ 20) (n - first - i * 2 ^ 20))
    some (one o first :: rest)

/-- Translate a tensor and cut it into shares on stack `d` (R277, R278, R289). -/
def tensorShares (g c d : Nat) (t : Tensor) (write : Bool) (s : State) : Except BkStop (List Share) × State :=
  let run := (runAt s (ctxAt s (ctxId g c)).run).getD {}
  let base := memBase run t + t.offset
  (dvaPieces (t.bytes / 2 ^ 21 + 2) base t.bytes).foldl (fun r p =>
    match r.1 with
    | .error e => (.error e, r.2)
    | .ok l =>
      let x := xlate g c (if t.kind = 2 then some t.sel else none) write p.1 r.2
      match x.1 with
      | .error e => (.error (.mem e p.1), x.2)
      | .ok a =>
        match dramShares x.2 d a p.2 with
        | none => (.error (.code 0x10), x.2)
        | some ps => (.ok (l ++ ps), x.2)) (.ok [], s)

/-- One unit's share, runs of adjacent offsets joined: (first share byte, bank-local offset, length). -/
def unitShare (l : List Share) (u : Nat) : List (Nat × Nat × Nat) :=
  (l.filter (·.unit = u)).foldl (fun r p =>
    match r.getLast? with
    | some x => if x.2.1 + x.2.2 = p.off then r.dropLast ++ [(x.1, x.2.1, x.2.2 + p.len)] else r ++ [(x.1 + x.2.2, p.off, p.len)]
    | none => [(0, p.off, p.len)]) []

/-- Where `n` bytes at share byte `x` of a unit lie: the bank-local offset and its share's end, or the code (R278). -/
def shareAt (l : List Share) (u x n : Nat) : Except Nat (Nat × Nat) :=
  let ps := unitShare l u
  if (ps.map fun p => p.2.2).sum < x + n then .error 0x11
  else match ps.find? fun p => p.1 ≤ x && x + n ≤ p.1 + p.2.2 with
    | some p => .ok (p.2.1 + (x - p.1), p.2.1 + p.2.2)
    | none => .error 0x10

/-- The same bytes for every selected unit of every channel: each channel's bank-local offset and each unit's share end. -/
def sharesAt (l : List Share) (x : BkBody) (off n : Nat) : Except Nat (List (Nat × Nat) × List (Nat × Nat)) :=
  x.chans.foldl (fun r c =>
    match r with
    | .error e => .error e
    | .ok acc =>
      let us := x.banks.map fun b => (c * 32 + b, shareAt l (c * 32 + b) off n)
      match us.findSome? fun u => match u.2 with | .error e => some e | .ok _ => none with
      | some e => .error e
      | none =>
        let oks := us.filterMap fun u => match u.2 with | .ok v => some (u.1, v) | .error _ => none
        let o := (oks.head?.map fun u => u.2.1).getD 0
        if oks.all fun u => u.2.1 = o then .ok (acc.1 ++ [(c, o)], acc.2 ++ oks.map fun u => (u.1, u.2.2)) else .error 0x10)
    (.ok ([], []))

/-- Bytes of the stored operand that each unit reads (R260-R263); a GRED slice past the share is skipped, not an error. -/
def bkStored (type : Nat) (x : BkBody) : Nat :=
  match type with
  | 0x80 => x.n1 * packedBytes (fmtCode x.sf) (16 * x.n2)
  | 0x81 => x.n1 * (x.n2 * fmtBits (fmtCode x.sf) / 8)
  | 0x82 => 1
  | _ => x.n1 * 16 * x.m

/-- The control word of a channel (R258, R277, R278). -/
def bkCw (type : Nat) (x : BkBody) (st mask out rank : Nat) : Nat :=
  if x.row then st * 2 ^ 64 + x.n1 * 2 ^ 128
  else
    fmtCode x.sf + fmtCode x.rf * 2 ^ 8 + (if x.b2 then 2 ^ 16 else 0) + x.cond * 2 ^ 17 + (if x.mask.isSome then 2 ^ 19 else 0)
      + x.m * 2 ^ 24 + x.thresh * 2 ^ 32 + st % 2 ^ 32 * 2 ^ 64 + mask % 2 ^ 32 * 2 ^ 96 + x.n1 % 2 ^ 24 * 2 ^ 128
      + (if type = 0x82 then x.st.ext.getD 0 0 else x.n2) % 2 ^ 16 * 2 ^ 152 + x.cap % 2 ^ 24 * 2 ^ 168
      + (x.idBase + rank * 32 * x.n1) % 2 ^ 32 * 2 ^ 192 + out % 2 ^ 32 * 2 ^ 224

/-- A translated operand of a descriptor: its number of R278, its tensor, offset, bytes per unit, and whether it is written. -/
def bkOperands (type : Nat) (x : BkBody) : List (Nat × Tensor × Nat × Nat × Bool) :=
  (0, x.st, x.bankOff, bkStored type x, false)
    :: (x.mask.toList.map fun t => (3, t, x.maskOff, 32 * ceilDiv x.n1 8, false))
    ++ (x.outb.toList.map fun t => (4, t, x.outbOff, bkRegion type x, true))

/-- Translate the operands in order: per operand its number and its places, or the stop and the operand it concerns. -/
def bkPlaces (g c : Nat) (x : BkBody) : List (Nat × Tensor × Nat × Nat × Bool) → State →
    Except (BkStop × Nat) (List (Nat × List (Nat × Nat) × List (Nat × Nat))) × State
  | [], s => (.ok [], s)
  | o :: os, s =>
    let t := tensorShares g c x.stack o.2.1 o.2.2.2.2 s
    match t.1 with
    | .error e => (.error (e, o.1), t.2)
    | .ok l =>
      match sharesAt l x o.2.2.1 o.2.2.2.1 with
      | .error e => (.error (.code e, o.1), t.2)
      | .ok pl =>
        let u := bkPlaces g c x os t.2
        (u.1.map ((o.1, pl) :: ·), u.2)

/-- The block that a BK_ROWOP works in (R305), or NOT_BANK_LINEAR. -/
def rowopBlock (s : State) (x : BkBody) (l : List Share) : Except BkStop Nat :=
  let p := (l.head?.map fun e => e.off / 2 ^ 20).getD 0
  let units := x.chans.flatMap fun c => x.banks.map fun b => c * 32 + b
  let whole := (l.map Share.unit).all fun u => match unitShare l u with
    | [e] => e.2.1 = p * 2 ^ 20 && e.2.2 = 2 ^ 20
    | _ => false
  if whole && !l.isEmpty && isBitmap s x.stack p && units.all fun u => l.any fun e => e.unit = u then .ok p else .error (.code 0x10)

/-- Each channel's control word and each unit's share end (R277, R305), or why the descriptor stops. Row operations write their bitmap,
so that its translation is a write's (R240, R333). -/
def bkPrepare (g c type : Nat) (x : BkBody) (s : State) : Except (BkStop × Nat) (List (Nat × Nat) × List (Nat × Nat)) × State :=
  if x.row then
    let t := tensorShares g c x.stack x.st true s
    match t.1 with
    | .error e => (.error (e, 0), t.2)
    | .ok l =>
      match rowopBlock t.2 x l with
      | .error e => (.error (e, 0), t.2)
      | .ok p => (.ok (x.chans.map fun ch => (ch, bkCw type x (p * 2 ^ 20) 0 0 0), []), t.2)
  else
    let t := bkPlaces g c x (bkOperands type x) s
    match t.1 with
    | .error e => (.error e, t.2)
    | .ok ps =>
      let at_ (n ch : Nat) : Nat := (((ps.find? (·.1 = n)).bind fun p => p.2.1.find? (·.1 = ch)).map Prod.snd).getD 0
      (.ok (x.chans.map fun ch => (ch, bkCw type x (at_ 0 ch) (at_ 3 ch) (at_ 4 ch) (x.chans.idxOf ch * x.banks.length)),
        ((ps.head?.map fun p => p.2.2).getD [])), t.2)

/-- A bank-command descriptor ends FAULT before bank work (R278, R284). -/
def bkFault (g c k code operand info entry : Nat) (s : State) : State :=
  let p := bkcPage g
  let s := count p .bkcFaults 1 s
  let s := if code = 0x02 || code = 0x0F then
      (if rd s p .hdrErrValid = 0 then raise p 16 (logErr p 1 0x01 entry s) else logErr p 1 0x01 entry s) else s
  endWork g c qBk k .fault 0 (code + operand * 2 ^ 8 + info * 2 ^ 12) s

/-- The operands that a REMOTE bind slot forbids, in order (R278). -/
def remoteOperand (run : Run) (x : BkBody) : Option Nat :=
  ((0, some x.st) :: (3, x.mask) :: [(4, x.outb)]).findSome? fun o =>
    match o.2 with
    | some t => if t.kind = 0 && (memBind run t).remote then some o.1 else none
    | none => none

/-- A bank-command descriptor translates its operands and asks for its reservation (R277). A walk that must wait leaves everything
as it was. -/
def bkAct (g c : Nat) (w : Work) (s : State) : State :=
  let cx := ctxAt s (ctxId g c)
  let type := dType w.img
  let x := bkBody (ctxImage s g c) w.img
  if s.flights.any (·.isOf g c w.k) then s
  else match remoteOperand ((runAt s cx.run).getD {}) x with
  | some o => bkFault g c w.k 0x0E o 0 0 s
  | none =>
    if partState s (partOfStack x.stack) = 4 then bkFault g c w.k 0x0C 0 0 0 s
    else
      let t := bkPrepare g c type x s
      match t.1 with
      | .error (.mem (.fault code entry) dva, o) => bkFault g c w.k code o dva entry t.2
      | .error (.mem (.snoop ls) _, _) => snoopLines ls s
      | .error (.mem (.wait held) _, _) => noteWaits (corePortAt g) (some (g, c, qBk, w.k)) held s
      | .error (.mem .retry _, _) => s
      | .error (.code code, o) => bkFault g c w.k code o 0 0 t.2
      | .ok (cws, ends) =>
        let f : BkFlight :=
          { core := g, ctx := c, k := w.k, stack := x.stack, chans := x.chans, banks := x.banks, type := type, cws := cws, ends := ends
            kib2 := ceilDiv (bkRegBytes type x) 2048, region := bkRegion type x
            outBase := x.out.map fun o => spAddr cx o + x.outOff, statBase := x.stat.map fun o => spAddr cx o + x.statOff }
        { t.2 with flights := t.2.flights ++ [f] }

/-- The oldest started bank-command descriptor of a type that has not been prepared. -/
def bkRun (g c type : Nat) (s : State) : State :=
  match ((ctxAt s (ctxId g c)).q qBk).live.find? fun w =>
      w.works && !w.began && dType w.img = type && !s.flights.any (·.isOf g c w.k) with
  | some w => bkAct g c w s
  | none => s

/-- BK_MVS (R260, R277). -/
def execBkMvs (core ctx : Nat) (s : State) : Result := .next (bkRun core ctx 0x80 s)
/-- BK_DOT (R261, R277). -/
def execBkDot (core ctx : Nat) (s : State) : Result := .next (bkRun core ctx 0x81 s)
/-- BK_GRED (R262, R277). -/
def execBkGred (core ctx : Nat) (s : State) : Result := .next (bkRun core ctx 0x82 s)
/-- BK_PQSCAN (R263, R277). -/
def execBkPqscan (core ctx : Nat) (s : State) : Result := .next (bkRun core ctx 0x83 s)
/-- BK_ROWOP (R304). -/
def execBkRowop (core ctx : Nat) (s : State) : Result := .next (bkRun core ctx 0x90 s)

/-- Change one flight. -/
def mapFlight (g c k : Nat) (h : BkFlight → BkFlight) (s : State) : State :=
  { s with flights := s.flights.map fun f => if f.isOf g c k then h f else f }

/-- The flight of a descriptor. -/
def flightOf (s : State) (g c k : Nat) : Option BkFlight := s.flights.find? (·.isOf g c k)

/-- Reserved operand buffer of a stack, in 2 KiB units (R277, R283). -/
def opbufUsed (s : State) (d : Nat) : Nat := ((s.flights.filter fun f => f.stack = d && f.granted).map BkFlight.kib2).sum

/-- Queue entries in use on a channel of a stack (R277). -/
def queueUsed (s : State) (d c : Nat) : Nat := (s.flights.filter fun f => f.stack = d && f.granted && f.chans.contains c).length

/-- A unit or one of its groups is fenced. -/
def isFenced (s : State) (u : UnitId) : Bool := rd s u.page .hdrFenced = 1

/-- New reservations of a flight are let through (R277, R377, R381, R449, R450, R503): it is the oldest request of its controller and
it fits. -/
def mayReserve (s : State) (f : BkFlight) : Bool :=
  let d := f.stack
  partServes s (partOfStack d) && !isFenced s (buOf d) && !isFenced s (mcOf d) && !s.stackHold.contains d
    && f.chans.all (fun c => queueUsed s d c < 4 && !(chanAt s (ckOf d c)).repairHold && !(chanAt s (ckOf d c)).fwHold && !testHolds s (ckOf d c))
    && opbufUsed s d + f.kib2 ≤ 32
    && ((s.flights.find? fun e => e.stack = d && !e.granted).map fun e => e.isOf f.core f.ctx f.k).getD false

/-- The port that harness traffic takes at stack `d` (R339, R343): that of the bank commands of core `g`; the host's own is the spine's. -/
def harnessPort (s : State) (d : Nat) (g : Option Nat) : Nat :=
  match g with
  | none => spinePortAt s d
  | some g => if rd s (mcOf d).page .mcsQosMode = 1 then 45 else corePortAt g s d

/-- Harness traffic of `n` bytes is not held back by its port (R339, R345). -/
def harnessOpen (s : State) (d : Nat) (g : Option Nat) (n : Nat) : Bool :=
  portOpen s (qosOf s d (harnessPort s d g)) d (harnessPort s d g) n

/-- Harness traffic of `n` bytes is charged to its port (R339). -/
def harnessCharge (d : Nat) (g : Option Nat) (n : Nat) (s : State) : State := charge d (harnessPort s d g) n s

/-- Who issues a sequence: the core of its descriptor, or none for the host. -/
def Seq.issuer (q : Seq) : Option Nat := if q.host then none else some q.core

/-- A harness read or write (0x09, 0x0A) of a special column is noted (R351). -/
def noteHarness (cmd bk sc : Nat) (s : State) : State := noteCmd cmd ((bk * 65536) * 32 + sc) s

/-- A write of HMR, of 32 bytes on the bus (R252, R339, log entry 85). -/
def writeHmr (ck : Nat) (g : Option Nat) (s : State) : State :=
  noteCmd 0x08 (colNo (ck / 32) (ck % 32) 0 0 0) (harnessCharge (ck / 32) g 32 s)

/-- A channel begins harness entry (R252): a precharge of all banks, then HMR takes the mask of the first gang, or HOST_GANG. -/
def enterHarness (ck : Nat) (s : State) : State :=
  let ch := chanAt s ck
  let q := ch.seqs.find? fun q => q.st = .queued
  let g := q.bind Seq.issuer
  let mask := match q with
    | some q => (q.banks.map (2 ^ ·)).sum
    | none => rd s (buOf (ck / 32)).page .bkuHostGang
  if ch.hm = .off && ch.st = .normal && !ch.recal && harnessOpen s (ck / 32) g 32 then
    let s := writeHmr ck g (preAll ck s)
    putChan ck { chanAt s ck with hm := .entering, gang := mask } s
  else s

/-- The queued sequence of a flight on one of its channels. -/
def flightSeq (x : BkBody) (f : BkFlight) (w : Work) (c : Nat) : Seq :=
  { core := f.core, ctx := f.ctx, k := f.k, banks := f.banks
    op := if f.type = 0x90 then 0x10 else f.type - 0x80 + 2, flags := if x.bank then 2 else 0, tag := dTag w.img % 2 ^ 16
    cw := ((f.cws.find? (·.1 = c)).map Prod.snd).getD 0, sat := (arithOf (dArith w.img)).sat, ftz := (arithOf (dArith w.img)).ftz
    ends := f.banks.map fun b => (b, ((f.ends.find? (·.1 = c * 32 + b)).map Prod.snd).getD 0) }

/-- BK_RESERVATION (R252, R277): the request is granted; its sequences are queued and their channels enter harness mode. -/
def execBkReservation (core ctx k : Nat) (s : State) : Result :=
  match flightOf s core ctx k, ((ctxAt s (ctxId core ctx)).q qBk).live.find? fun w => w.k = k with
  | some f, some w =>
    if f.granted || !mayReserve s f then .next s
    else
      let x := bkBody (ctxImage s core ctx) w.img
      let s := mapFlight core ctx k (fun f => { f with granted := true }) s
      .next (f.chans.foldl (fun t c =>
        let ck := ckOf f.stack c
        let ch := chanAt t ck
        enterHarness ck (putChan ck { ch with seqs := ch.seqs ++ [flightSeq x f w c] } t)) s)
  | _, _ => .next s

/-- Bag ends of a GRED list, and whether its last entry that is not null ends a bag (R278). -/
def bagEnds (stream : List Byte) (n : Nat) : Nat × Bool :=
  (List.range n).foldl (fun r i =>
    let e := gredEntry (leNat (slice stream (4 * i) 4))
    if e.2.2 = 2 then r else (if e.2.1 then r.1 + 1 else r.1, e.2.1)) (0, false)

/-- Sign-extend the INT8 elements of a stream into 16 bits (R249). -/
def widen (bs : List Byte) : List Byte := bs.flatMap fun b => leBytes 2 (ofSigned 16 (toSigned 8 b.toNat))

/-- A flight is withdrawn before any bank work: its queued sequences and reservations go. -/
def dropFlight (f : BkFlight) (s : State) : State :=
  let s := f.chans.foldl (fun t c =>
    let ck := ckOf f.stack c
    let ch := chanAt t ck
    putChan ck { ch with seqs := ch.seqs.filter fun q => q.host || !(q.core = f.core && q.ctx = f.ctx && q.k = f.k) } t) s
  { s with flights := s.flights.filter fun e => !e.isOf f.core f.ctx f.k }

/-- BK_UPLOAD_DONE (R277, R278): the register stream is in the operand buffer; a GRED list whose bags do not fit ends the
descriptor. -/
def execBkUploadDone (core ctx k : Nat) (s : State) : Result :=
  match flightOf s core ctx k, ((ctxAt s (ctxId core ctx)).q qBk).live.find? fun w => w.k = k with
  | some f, some w =>
    if !f.granted || f.uploaded then .next s
    else
      let cx := ctxAt s (ctxId core ctx)
      let x := bkBody (ctxImage s core ctx) w.img
      let n := bkRegBytes f.type x
      let at_ := spAddr cx x.reg + x.regOff
      let r := readSec core at_ n (takeSlots .tmv core (spLines at_ n).length s)
      let raw := r.1.map Prod.fst
      let s := count (bkcPage core) .bkcUploadBytes n (mapWork core ctx qBk k (fun w => { w with began := true }) r.2)
      if f.type = 0x82 && bagEnds raw x.n1 != (x.n2, true) then .next (bkFault core ctx k 0x12 1 0 0 (dropFlight f s))
      else
        let st := if !x.row && fmtCode x.rf = 0x0B then widen raw else raw
        .next (mapFlight core ctx k (fun f => { f with uploaded := true, stream := st, streamBad := r.1.any Prod.snd }) s)
  | _, _ => .next s

/-- Bytes of stream chunk `c` (R260): four registers. -/
def streamChunk (q : Seq) (c : Nat) : List Byte :=
  if q.op = 0x02 && cwB2 q.cw then slice q.stream (64 * c) 64 ++ slice q.stream (2 * cwN2 q.cw + 64 * c) 64
  else slice q.stream (128 * c) 128

/-- Stream chunks of a sequence. -/
def chunkCount (q : Seq) : Nat :=
  if q.op = 0x02 && cwB2 q.cw then ceilDiv (2 * cwN2 q.cw) 64 else ceilDiv q.stream.length 128

/-- Chunks of the stream that item `pos` takes after the two that the command brings (R260, R263): MVS and PQSCAN run through the whole
stream for every group or block, GRED takes 32 entries of a chunk and ROWLIST 16. -/
def itemChunks (q : Seq) : Nat :=
  if q.host || chunkCount q ≤ 2 then 0 else
  match q.op with
  | 0x02 | 0x05 => if q.pos = 0 then chunkCount q - 2 else chunkCount q
  | 0x04 => if q.pos % 32 = 0 && 64 ≤ q.pos then 1 else 0
  | 0x10 => if q.pos % 16 = 0 && 32 ≤ q.pos && !q.phase && q.part = 0 then 1 else 0
  | _ => 0

/-- Chunk `c` is broadcast into its half of V0-V7 (R260). -/
def loadChunk (q : Seq) (bk c : Nat) (s : State) : State :=
  if q.host || chunkCount q ≤ c then s else
  let u := unitState s bk
  let d := streamChunk q c
  putUnit bk { u with v := u.v.zipIdx.map fun e => if e.2 / 4 = c % 2 then leNat (slice d (32 * (e.2 % 4)) 32) else e.1 } s

/-- A unit accepts a command (R257, R259, R297, R300). -/
def beginUnit (q : Seq) (bk : Nat) (s : State) : State :=
  let u := unitState s bk
  let acc := 0x02 ≤ q.op && q.op ≤ 0x05
  let clr := (acc && bit q.flags 0 = 0) || q.op = 0x01
  let u := if clr then u.clearAccs true else u
  let u := { u with badCmd := false, poison := q.streamBad, steps := 0, pushed := 0, exc := 0, lastEmit := none, sealDue := false, vetBad := false
                    accBad := false, vetted := [], produced := [], skip := none
                    count := if clr || 0x10 ≤ q.op then 0 else u.count
                    fifo := if q.op = 0x01 then [] else u.fifo, pend := if q.op = 0x01 then [] else u.pend }
  let s := putUnit bk u s
  let s := if q.op = 0x06 then
      unitWrite bk (cwOut q.cw) ((if cwB2 q.cw then u.a0 ++ u.a1 else u.a0).flatMap (leBytes 4)) false s
    else if q.op = 0x11 || q.op = 0x12 then rowCommand q bk s else s
  loadChunk q bk 1 (loadChunk q bk 0 s)

/-- DPA of special column `sc` of a bank unit (R255). -/
def harnessDpa (bk sc : Nat) : Nat :=
  0x20000000000 + bk / 1024 * 2 ^ 30 + bk / 32 % 32 * 2 ^ 25 + bk % 32 * 2 ^ 10 + sc * 2 ^ 5

/-- A unit refuses a command (R259). -/
def refuseUnit (bk : Nat) (s : State) : State :=
  logErr (buPage bk) 1 0x03 (harnessDpa bk 9) (putUnit bk { unitState s bk with badCmd := true } s)

/-- Columns steps that all units of a gang take (R283). -/
def addSteps (ck : Nat) (q : Seq) (n : Nat) (s : State) : State :=
  let s := q.openBanks.foldl (fun t b => let u := unitState t (ck * 32 + b); putUnit (ck * 32 + b) { u with steps := u.steps + n } t) s
  count (buOf (ck / 32)).page .bkuSteps (n * q.openBanks.length) s

/-- Items of a sequence: groups, vectors, entries or blocks (R260-R263); the operations of one step have none. -/
def seqItems (q : Seq) : Nat :=
  match q.op with
  | 0x02 | 0x03 | 0x04 | 0x05 => cwN1 q.cw
  | 0x10 => bits q.cw 151 128
  | _ => 0

/-- The register operands of a host sequence are all in V0-V7 (R260); a later chunk never arrives. -/
def seqFits (q : Seq) : Bool :=
  !q.host || match q.op with
    | 0x02 => cwN2 q.cw ≤ (if cwB2 q.cw then 64 else 128)
    | 0x04 => cwN1 q.cw ≤ 64
    | 0x05 => cwM q.cw ≤ 8
    | 0x10 => bits q.cw 151 128 ≤ 32
    | _ => true

/-- The item at `pos` ends in an emission. -/
def emitsNow (q : Seq) : Bool :=
  match q.op with
  | 0x02 => true
  | 0x03 => q.pos % 32 = 31 || q.pos + 1 = cwN1 q.cw
  | 0x04 => (gredEntry (leNat (slice q.stream (4 * q.pos) 4))).2.1
  | _ => false

/-- A member of the gang must wait (R266, R339): candidates find its FIFO full, its slot is full, or a stream chunk does not come or is
held back by its port. -/
def seqStalled (s : State) (ck : Nat) (q : Seq) : Bool :=
  !seqFits q || (itemChunks q != 0 && !harnessOpen s (ck / 32) q.issuer (128 * itemChunks q)) || q.openBanks.any fun b =>
    let u := unitState s (ck * 32 + b)
    !u.pend.isEmpty || (emitsNow q && !q.host && bit q.flags 1 = 0 && !u.out.isEmpty)

/-- Column steps of a GRED entry (R265): those of the slice, at least 4 where a unit opens a row for it. -/
def gredSteps (s : State) (ck : Nat) (q : Seq) : Nat :=
  let n := cwN2 q.cw * fmtBits (cwSf q.cw) / 256
  q.openBanks.foldl (fun k b =>
    match gredSlice q (ck * 32 + b) (leNat (slice q.stream (4 * q.pos) 4)) with
    | none => k
    | some o =>
      let shut := (List.range n).any fun i =>
        (bankCol s (ck * 32 + b) (o + 32 * i)).any fun c => !(chanAt s ck).rows.contains (rowBit c)
      max k (if shut then max 4 n else n)) 0

/-- Column steps of an item (R265), from the state before it and the state after; those of row operations are the events' own. -/
def itemSteps (before s : State) (ck : Nat) (q : Seq) : Nat :=
  let w := q.cw
  match q.op with
  | 0x04 => gredSteps before ck q
  | 0x02 =>
    if cwSf w = 0x10 then 17 * cwN2 w / 64 else if cwSf w = 0x11 then (if cwB2 w then 17 else 9) * cwN2 w / 64
    else cwN2 w * fmtBits (cwSf w) / 16
  | 0x03 => cwN2 w * fmtBits (cwSf w) / 256
  | 0x05 =>
    let idle := cwMasked w && cwM w ≤ 8 && q.openBanks.all fun b =>
      bits (unitState s (ck * 32 + b)).mask (32 * (q.pos % 8) + 31) (32 * (q.pos % 8)) = 0
    (if cwMasked w && q.pos % 8 = 0 then 1 else 0) + (if idle then 0 else cwM w / 2)
  | _ => 0

/-- One item of one unit. -/
def unitItem (q : Seq) (bk : Nat) (s : State) : State :=
  match q.op with
  | 0x02 => mvsItem q bk s
  | 0x03 => dotItem q bk s
  | 0x04 => gredItem q bk s
  | 0x05 => pqItem q bk s
  | _ => s

/-- The stream chunks that an item takes are broadcast: four registers each (R260, R339, R351). -/
def chargeChunks (ck : Nat) (q : Seq) (s : State) : State :=
  if itemChunks q = 0 then s
  else forUpto (4 * itemChunks q) (fun i t => noteHarness 0x0A (ck * 32) (i % 8) t) (harnessCharge (ck / 32) q.issuer (128 * itemChunks q) s)

/-- The gang does up to `n` items; it stops where a member must wait. -/
def runItems (ck : Nat) : Nat → Seq → State → Seq × State
  | 0, q, s => (q, s)
  | n + 1, q, s =>
    if q.op = 0x10 || seqItems q ≤ q.pos then (q, s)
    else if seqStalled s ck q then ({ q with st := .wait }, s)
    else
      let before := s
      let s := chargeChunks ck q s
      let s := q.openBanks.foldl (fun t b => unitItem q (ck * 32 + b) t) s
      let s := addSteps ck q (itemSteps before s ck q) s
      runItems ck n { q with pos := q.pos + 1, emits := if emitsNow q then q.emits + 1 else q.emits } s

/-- The sequence of the channel in which a bank has not ended and whose state is one of the listed. -/
def seqOf (s : State) (ck bank : Nat) (sts : List SeqState) : Option Seq :=
  (chanAt s ck).seqs.find? fun q => q.openBanks.contains bank && sts.contains q.st

/-- GANG_COMMAND (R257, R259, R277): the gang's banks being IDLE, the channel engine broadcasts its control word, chunks and
command. HARD can hold its port back (R339). -/
def execGangCommand (core ctx k chan : Nat) (s : State) : Result :=
  match flightOf s core ctx k, ((ctxAt s (ctxId core ctx)).q qBk).live.find? fun w => w.k = k with
  | some f, some w =>
    let ck := ckOf f.stack chan
    let ch := chanAt s ck
    match ch.seqs.find? fun q => q.st = .queued with
    | none => .next s
    | some q =>
      let cbl := fmtCode (bkBody (ctxImage s core ctx) w.img).sf = 0x11 && q.op != 0x10
      let mask := (q.banks.map (2 ^ ·)).sum
      let cols := (if cbl then [10] else []) ++ [8] ++ List.range (min 8 (ceilDiv f.stream.length 32)) ++ [9]
      if !harnessOpen s f.stack (some core) (32 * cols.length) then .next s
      else if !(q.core = core && q.ctx = ctx && q.k = k) || !f.uploaded || ch.hm != .on || !chanServes s ck ||
          ch.seqs.any (fun e => e.st != .queued && (!e.host || e.banks.any q.banks.contains) && (e.st != .draining || e.banks.any fun b =>
            q.banks.contains b && !e.gone.contains b)) then .next s
      else
        let x := bkBody (ctxImage s core ctx) w.img
        let q' := { q with stream := f.stream, streamBad := f.streamBad, st := .running }
        let s := if ch.gang = mask then s else writeHmr ck (some core) s
        let s := cols.foldl (fun t c => noteHarness 0x0A (ck * 32) c t) (harnessCharge f.stack (some core) (32 * cols.length) s)
        let s := putChan ck { chanAt s ck with gang := mask, waits := [] } s
        let s := q.banks.foldl (fun t b =>
          let u := unitState t (ck * 32 + b)
          let u := { u with cw := q.cw }
          putUnit (ck * 32 + b) (if cbl then { u with latch := { u.latch with book := x.st.codebook } } else u) t) s
        let s := mapFlight core ctx k (fun f => { f with commanded := f.commanded ++ [chan] }) s
        let s := if cmdOk s f.stack q.op q.flags q.cw then
            putSeq ck q (some q') (q.banks.foldl (fun t b => beginUnit q' (ck * 32 + b) t) s)
          else q.banks.foldl (fun t b => reportUnit q (ck * 32 + b) 3 {} (refuseUnit (ck * 32 + b) t)) (putSeq ck q none s)
        let left := f.chans.any fun c => (chanAt s (ckOf f.stack c)).seqs.any fun e =>
          e.st = .queued && !e.host && e.core = core && e.ctx = ctx && e.k = k
        .next (settleFlights (if left then s else engineFree core qBk ctx k s))
  | _, _ => .next s

/-- Up to `n` parts of the present piece of a ROWLIST, on every bank of the gang (R302, R303). -/
def rowParts (ck : Nat) : Nat → Seq → State → Seq × State
  | 0, q, s => (q, s)
  | n + 1, q, s =>
    if q.phase then
      ({ q with phase := false, pos := q.pos + 1 }, q.openBanks.foldl (fun t b => rowSecond q (ck * 32 + b) t) s)
    else
      let s := q.openBanks.foldl (fun t b => rowPart q (ck * 32 + b) t) s
      if q.part + 1 < q.parts then rowParts ck n { q with part := q.part + 1 } s
      else if q.openBanks.any fun b => (unitState s (ck * 32 + b)).sealDue then ({ q with phase := true, part := 0 }, s)
      else ({ q with part := 0, pos := q.pos + 1 }, s)

/-- ROWLIST_PIECE (R302): up to `parts` parts of the next piece of a running ROWLIST, on every bank of the gang. Four are the whole of
any piece; a piece that stops between its parts goes on at the next ROWLIST_PIECE, unless an abort comes first (R303). -/
def execRowlistPiece (stack chan bank parts : Nat) (s : State) : Result :=
  let ck := ckOf stack chan
  match seqOf s ck bank [.running] with
  | none => .next s
  | some q =>
    if q.op != 0x10 || seqItems q ≤ q.pos then .next s
    else if seqStalled s ck q then .next (putSeq ck q (some { q with st := .wait }) s)
    else
      let r := rowParts ck parts q (if parts = 0 then s else chargeChunks ck q s)
      .next (putSeq ck q (some r.1) r.2)

/-- LEG_END (R267, R338): the gang has done `items` more items, of a row operation in `steps` column steps, and enters GAP; the channel
serves what waited and issues what is due. A piece of a ROWLIST is not cut (R302). -/
def execLegEnd (stack chan bank items steps : Nat) (s : State) : Result :=
  let ck := ckOf stack chan
  match seqOf s ck bank [.running, .wait] with
  | none => .next s
  | some q =>
    if q.part != 0 then .next s else
    let r := if q.st = .running then runItems ck (min items (seqItems q)) q s else (q, s)
    let s := addSteps ck q (if 0x10 ≤ q.op then steps else 0) r.2
    .next (legBoundary ck (putSeq ck q (some { r.1 with st := .gap }) s))

/-- The descriptor still waits to try an access again. -/
def waitLives (s : State) (w : LegWait) : Bool :=
  w.who.any fun d => ((ctxAt s (ctxId d.1 d.2.1)).q d.2.2.1).live.any fun x => x.k = d.2.2.2 && x.works && !x.began

/-- What the gap is still for (R338): an access to a bank of the gang waits, or a refresh or a forced recalibration is due. -/
def gapBusy (s : State) (ck : Nat) (q : Seq) : Bool :=
  let ch := chanAt s ck
  let mine (c : Nat) : Bool := chanKey c = ck && q.openBanks.contains (bankOfCol c)
  ch.rdq.any (fun r => (readScore s ck r).isSome && r.cols.any fun e => mine e.1) ||
    ch.wrq.any (fun w => (writeScore s ck w).isSome && mine w.col) || ch.waits.any (fun w => mine (2 * w.pair) && waitLives s w) ||
    (refreshOn s ck && decide (1 ≤ ch.rc)) || ch.recalForced

/-- GANG_RESUME (R338): the gap has lasted `gapNs`, at least BU_GAP, and the next leg begins. -/
def execGangResume (stack chan bank gapNs : Nat) (s : State) : Result :=
  let ck := ckOf stack chan
  match seqOf s ck bank [.gap] with
  | none => .next s
  | some q =>
    if gapNs < 100 * rd s 0x2040 .pwrBuGap || !chanServes s ck || gapBusy s ck q then .next s
    else
      let s := count (buOf stack).page .bkuGapNs gapNs (putChan ck { chanAt s ck with waits := [] } s)
      .next (putSeq ck q (some { q with st := if seqItems q ≤ q.pos || !seqStalled s ck q then .running else .wait }) s)

/-- GANG_WAIT_END (R266): what the gang waited for is there. -/
def execGangWaitEnd (stack chan bank waitSteps : Nat) (s : State) : Result :=
  let ck := ckOf stack chan
  match seqOf s ck bank [.wait] with
  | none => .next s
  | some q =>
    if seqStalled s ck q then .next s
    else .next (putSeq ck q (some { q with st := .running }) (count (buOf stack).page .bkuWaitSteps waitSteps s))

/-- A unit reports COMPLETED: marks, shadow and status (R257, R268, R366). -/
def completeUnit (q : Seq) (bk : Nat) (s : State) : State :=
  let s := payUnitMarks bk (loadChunk q bk (chunkCount q - 1) (if 2 ≤ chunkCount q then loadChunk q bk (chunkCount q - 2) s else s))
  let u := unitState s bk
  let e := u.lastEmit.getD (u.a0, u.a1)
  let pad (l : List Nat) : List Nat := l ++ List.replicate (16 - l.length) 0
  count (buPage bk) .bkuSeqDone 1
    (putUnit bk { u with sa0 := pad e.1, sa1 := pad e.2, scount := u.count, last := 1, lastPoison := u.poison, lastOp := q.op
                         tag := q.tag, lastSteps := u.steps } s)

/-- Steps of an operation that does its work in one go (R265). -/
def oneShotSteps (q : Seq) : Nat :=
  match q.op with
  | 0x01 => 1
  | 0x06 => if cwB2 q.cw then 4 else 2
  | _ => 0

/-- SEQ_LAST_STEP (R268-R270): the gang does what is left, and every unit reports COMPLETED. -/
def execSeqLastStep (stack chan bank steps : Nat) (s : State) : Result :=
  let ck := ckOf stack chan
  match seqOf s ck bank [.running] with
  | none => .next s
  | some q =>
    let r := runItems ck (seqItems q - q.pos) q s
    if r.1.pos < seqItems q || r.1.phase || r.1.part != 0 then .next (putSeq ck q (some r.1) r.2)
    else if q.openBanks.any fun b => !(unitState r.2 (ck * 32 + b)).pend.isEmpty then .next (putSeq ck q (some { r.1 with st := .wait }) r.2)
    else
      let s := addSteps ck q ((if 0x10 ≤ q.op then steps else 0) + oneShotSteps q) r.2
      let s := q.openBanks.foldl (fun t b => completeUnit r.1 (ck * 32 + b) t) s
      .next (serveChan ck (putSeq ck q (some { r.1 with st := .draining, ended := q.banks }) s))

/-- SEQ_DRAINED (R269): a unit's last record has left the slot; it is IDLE and its report reaches the descriptor. -/
def execSeqDrained (stack chan bank : Nat) (s : State) : Result :=
  let ck := ckOf stack chan
  let bk := ck * 32 + bank
  match (chanAt s ck).seqs.find? fun q => q.ended.contains bank && !q.gone.contains bank with
  | none => .next s
  | some q =>
    let u := unitState s bk
    if !u.out.isEmpty || (!q.host && q.op = 0x05 && !u.fifo.isEmpty) then .next s
    else
      let q' := { q with gone := q.gone ++ [bank] }
      let s := putSeq ck q (if q.banks.all q'.gone.contains then none else some q') (reportUnit q bk u.last u s)
      .next (settleFlights s)

/-- Credits of an engine at a controller that records hold (R273). -/
def creditsUsed (s : State) (g d : Nat) : Nat := ((s.flights.filter fun f => f.core = g && f.stack = d).map fun f => f.arrived.length).sum

/-- A record leaves the unit's slot for its place in the destination (R273, R279, R339). -/
def sendRecord (q : Seq) (bk : Nat) (data : List Byte) (poison : Bool) (s : State) : State :=
  let s := noteHarness 0x09 bk 0 (harnessCharge (bk / 1024) q.issuer data.length s)
  mapFlight q.core q.ctx q.k (fun f =>
    let off := SMap.get (fun _ => 0) f.cur bk
    let n := min data.length (f.region - off)
    let rec_ : List BkRec := match f.outBase with
      | some a => if n = 0 then [] else [⟨bk, a + f.rank bk * f.region + off, data.take n, poison⟩]
      | none => []
    { f with arrived := f.arrived ++ rec_, cur := SMap.set (fun _ => 0) f.cur bk (off + data.length) }) s

/-- Candidates leave the FIFO, and those that waited enter it (R256, R266, R272). -/
def BankUnit.pop (n : Nat) (u : BankUnit) : BankUnit := { u with fifo := u.fifo.drop n, pend := [] }.push u.pend

/-- Send what stands in the unit's slot, else up to 16 candidates of its FIFO (R272). -/
def sendFromUnit (q : Seq) (bk : Nat) (s : State) : State :=
  let u := unitState s bk
  match u.out with
  | r :: rs => sendRecord q bk r.1 r.2 (putUnit bk { u with out := rs } s)
  | [] =>
    if q.op != 0x05 || u.fifo.isEmpty then s
    else sendRecord q bk ((u.fifo.take 16).flatMap (leBytes 8)) q.streamBad (putUnit bk (u.pop 16) s)

/-- COLLECTOR_SEND (R272-R274): a slot that holds a credit sends its record, where its port lets it (R339). A gang that is still short
of that record has run on to it. -/
def execCollectorSend (stack chan bank : Nat) (s : State) : Result :=
  let ck := ckOf stack chan
  let bk := ck * 32 + bank
  match (chanAt s ck).seqs.find? fun q => q.st != .queued && !q.host && q.banks.contains bank && !q.gone.contains bank with
  | none => .next s
  | some q =>
    let n := ((unitState s bk).out.headD ([], false)).1.length
    if 64 ≤ creditsUsed s q.core stack || !harnessOpen s stack (some q.core) (max n 32) then .next s
    else
      let u := unitState s bk
      if u.out.isEmpty && (q.op != 0x05 || u.fifo.isEmpty) && q.st = .running && q.openBanks.contains bank then
        let r := runItems ck 1 q s
        .next (sendFromUnit q bk (putSeq ck q (some r.1) r.2))
      else .next (sendFromUnit q bk s)

/-- RECORD_WRITE (R273): the engine writes a unit's oldest record and returns its credit. -/
def execRecordWrite (core ctx k chan bank : Nat) (s : State) : Result :=
  match flightOf s core ctx k with
  | none => .next s
  | some f =>
    match f.arrived.find? fun r => r.unit = ckOf f.stack chan * 32 + bank with
    | none => .next s
    | some r =>
      let s := mapFlight core ctx k (fun f => { f with arrived := f.arrived.erase r }) s
      .next (settleFlights (count (bkcPage core) .bkcRecordBytes r.data.length (writeSp .tmv core r.dst (r.data.map fun b => (b, r.poison)) s)))

end Sys2Proof.Machine
end

