-- ==== Sys2Proof/Machine/Header.lean ====
section
/-!
DEFINITION. Host accesses to unit pages (R24-R28, R44, R45): which fields an access covers and what each access code does.
The fields that do more than their access code says are handled by an `Act` that the caller supplies (Registers.lean).
-/

namespace Sys2Proof.Machine

/-- What a field write carries: unit, field, instance, the written bits that are 1, the value the field would hold, the 32 bits
written to the register that holds the field's lowest bit, and whether the access covers the field whole. -/
structure FieldWrite where
  unit : UnitId
  fld : Fld
  idx : Nat
  ones : Nat
  val : Nat
  word : Nat
  whole : Bool
deriving DecidableEq, Repr

/-- A field's own behaviour; `none` leaves the write to its access code. -/
abbrev Act := FieldWrite → State → Option State

/-- A discarded wrong access, recorded in ERRLOG_0 of `sp0.hif` (R24); `code` 1 BAD_ACCESS, 2 RESERVED_RANGE (R48). The spec states
no DETAIL for these codes: the model stores the register BAR offset or the DPA (DESIGN CHOICE, log entry 75). -/
def badAccess (code a : Nat) (s : State) : State := logErr pgHif 1 code a s

/-- Page numbers of a unit that are reserved slots (R44, R151, R329, R330, R422). -/
def reservedPage (u : UnitId) (j : Nat) : Bool :=
  match u.block with
  | .serai | .drv | .blk => 0 < j
  | .hif => j = 1
  | _ => false

/-- The fields of a unit's pages. -/
def unitFlds (u : UnitId) : List Fld := headerFlds ++ u.block.flds

/-- A field of `off` bits position, width and instance that an access to the bits [lo, lo + n) covers in part. -/
structure Touch where
  fld : Fld
  idx : Nat
  off : Nat
deriving DecidableEq, Repr

/-- The fields that an access to the unit bits [lo, lo + n) covers, in rising order of position. -/
def touches (u : UnitId) (lo n : Nat) : List Touch :=
  (unitFlds u).flatMap fun f =>
    let r := f.row
    if r.count ≤ 1 then if r.off < lo + n ∧ lo < r.off + r.width then [⟨f, 0, r.off⟩] else []
    else
      let first := if lo < r.off + r.stride then 0 else (lo - r.off) / r.stride - 1
      (List.range (n / r.stride + 3)).filterMap fun j =>
        let i := first + j
        let o := r.off + i * r.stride
        if i < r.count ∧ o < lo + n ∧ lo < o + r.width then some ⟨f, i, o⟩ else none

/-- Insert a touch behind those of the same or a lower position. -/
def insertTouch (x : Touch) : List Touch → List Touch
  | [] => [x]
  | y :: ys => if x.off < y.off then x :: y :: ys else y :: insertTouch x ys

/-- The touches sorted by position. -/
def sortedTouches (u : UnitId) (lo n : Nat) : List Touch := (touches u lo n).foldl (fun l x => insertTouch x l) []

/-- The instance that an access reaches: the selected one, or the array index. -/
def instOf (s : State) (u : UnitId) (f : Fld) (i : Nat) : Nat :=
  match f.row.sel with
  | some g => rd s u.page g
  | none => i

/-- A set field of a unit that holds configuration sets (R66). -/
def isSetField (u : UnitId) (f : Fld) : Bool := f.row.set && u.cfgVersioned

/-- Store a legal value, in the staging buffer for a set field (R66). -/
def storeField (w : FieldWrite) (v : Nat) (s : State) : State :=
  if isSetField w.unit w.fld then stageField w.unit.page w.fld w.idx v s else wri w.unit.page w.fld w.idx v s

/-- A write of an RW field: an illegal value keeps the old one and sets BAD_WRITE (R26). -/
def writeRw (w : FieldWrite) (s : State) : State :=
  match w.fld.row.legal with
  | .any => storeField w w.val s
  | .range lo hi => if lo ≤ w.val ∧ w.val ≤ hi then storeField w w.val s else wr w.unit.page .hdrBadWrite 1 s
  | .elseNop hi => if w.val ≤ hi then storeField w w.val s else wr w.unit.page .hdrBadWrite 1 (storeField w 0 s)

/-- A write of an RWL field (R25). -/
def writeRwl (w : FieldWrite) (s : State) : State :=
  if rd s w.unit.page .hdrLocked = 1 then
    if w.val = rdi s w.unit.page w.fld w.idx then s else wr w.unit.page .hdrLockViolation 1 s
  else writeRw w s

/-- What the access code alone makes of a write (R25). -/
def writeByCode (w : FieldWrite) (s : State) : State :=
  match w.fld.row.acc with
  | .ro | .rc | .wo => s
  | .rw => writeRw w s
  | .rwl => writeRwl w s
  | .w1c => wri w.unit.page w.fld w.idx (rdi s w.unit.page w.fld w.idx - (rdi s w.unit.page w.fld w.idx &&& w.ones)) s
  | .w1s => wri w.unit.page w.fld w.idx (rdi s w.unit.page w.fld w.idx ||| w.ones) s

/-- The part of the access [lo, lo + n) with value `v` that falls into a field. -/
def fieldWrite (s : State) (u : UnitId) (lo n v : Nat) (t : Touch) : FieldWrite :=
  let r := t.fld.row
  let i := instOf s u t.fld t.idx
  let a := max t.off lo
  let b := min (t.off + r.width) (lo + n)
  let part := bits v (b - 1 - lo) (a - lo)
  { unit := u, fld := t.fld, idx := i, ones := part <<< (a - t.off)
    val := setBits (rdi s u.page t.fld i) (b - 1 - t.off) (a - t.off) part
    word := bits v (t.off / 32 * 32 - lo + 31) (t.off / 32 * 32 - lo)
    whole := b - a = r.width }

/-- Write the fields of an access one after another, lower positions first (R24). -/
def writeFields (act : Act) (u : UnitId) (lo n v : Nat) (s : State) : State :=
  (sortedTouches u lo n).foldl (fun t x =>
    let w := fieldWrite t u lo n v x
    (act w t).getD (writeByCode w t)) s

/-- A write of a MILESTONE register (R41): `lo`, `n` are bit positions inside the 64-bit register. -/
def milestoneWrite (u : UnitId) (i lo n v : Nat) (s : State) : State :=
  let p := u.page
  let up := if lo = 0 then v else v <<< 32
  let arm := if lo + n = 64 then bit up 63 else 0
  let disarm := if lo + n = 64 then bit up 62 else 0
  let low (t : State) : State := if lo = 0 then wri p .hdrMsEpoch i (bits up 31 0) t else t
  let high (t : State) : State :=
    if lo + n = 64 then wri p .hdrMsAction i (bits up 35 32) (wri p .hdrMsArg i (bits up 47 40) t) else t
  let armed := rdi s p .hdrMsState i = 1
  if arm = 1 ∧ disarm = 1 then s
  else if disarm = 1 then milestoneDisarm p i s
  else if arm = 1 then
    if armed then s else milestoneArm p i u (if n = 64 then high (low s) else s)
  else if armed then
    let same := (lo = 0 → bits up 31 0 = rdi s p .hdrMsEpoch i) ∧
      (lo + n = 64 → bits up 35 32 = rdi s p .hdrMsAction i ∧ bits up 47 40 = rdi s p .hdrMsArg i)
    if same then s else wr p .hdrLockViolation 1 s
  else high (low s)

/-- The page index lies on the `p`n header, which stays accessible (R45). -/
def isPartHeader (u : UnitId) : Bool := match u with | .part _ => true | _ => false

/-- A write that covers CTRL of a unit in a partition out of service: CTRL alone takes it (R15). -/
def oosCtrlWrite (act : Act) (u : UnitId) (off width v : Nat) (s : State) : State :=
  if off ≤ 0x40 ∧ 0x40 < off + width then
    (act (fieldWrite s u (off * 8) (8 * width) v ⟨.hdrCtrlSync, 0, 0x40 * 8⟩) s).getD s
  else s

/-- A write of a register page with an aligned offset and a width of 4 or 8 bytes. -/
def pageWrite (act : Act) (page off width v : Nat) (s : State) : State :=
  match unitOfPage page with
  | none => if slotDark s page then s else badAccess 1 (page * 4096 + off) s
  | some (u, j) =>
    let v := v % 2 ^ (8 * width)
    if !unitReachable s u then (if unitOos s u && j = 0 then oosCtrlWrite act u off width v s else s)
    else if reservedPage u j then badAccess 1 (page * 4096 + off) s
    else if u = .hif ∧ j = 2 then
      { s with msix := (List.range (width / 4)).foldl (fun m k => SMap.set (fun _ => 0) m (off / 4 + k) (bits v (32 * k + 31) (32 * k))) s.msix }
    else if u = .hif ∧ j = 3 then s
    else if isPartHeader u && (pstate s = 3 || (u.partition.map (partState s ·)).getD 0 = 2) && off != 0x40 then s
    else if j = 0 ∧ 0x70 ≤ off ∧ off < 0x90 then
      milestoneWrite u ((off - 0x70) / 8) (8 * ((off - 0x70) % 8)) (8 * width) v s
    else writeFields act u ((j * 4096 + off) * 8) (8 * width) v s

/-- A host write of the register BAR (R24). -/
def regWrite (act : Act) (page off width v : Nat) (s : State) : State :=
  if (width = 4 ∨ width = 8) ∧ off % width = 0 ∧ off + width ≤ 4096 then pageWrite act page off width v s
  else badAccess 1 (page * 4096 + off) s

/-- A computed value: a `view` field, or a byte of a window that no field table lists (layer register sets, SB_DUMP). -/
structure Views where
  fld : State → UnitId → Fld → Nat → Nat
  raw : State → UnitId → Nat → Nat

/-- The value a read of a field returns. -/
def readField (vw : Views) (s : State) (u : UnitId) (f : Fld) (i : Nat) : Nat :=
  let r := f.row
  if r.acc = .wo then 0 else if r.view then vw.fld s u f i % 2 ^ r.width else rdi s u.page f i

/-- The 32 bits at word offset `lo` bits of a unit's pages. -/
def readWord (vw : Views) (s : State) (u : UnitId) (lo : Nat) : Nat :=
  match (if lo < 0x40 * 8 then u.constWord s.variant (lo / 8) else none) with
  | some c => c
  | none =>
    (touches u lo 32).foldl (fun acc t =>
      let v := readField vw s u t.fld (instOf s u t.fld t.idx)
      acc ||| (if lo ≤ t.off then (v <<< (t.off - lo)) % 2 ^ 32 else (v >>> (lo - t.off)) % 2 ^ 32)) (vw.raw s u (lo / 8) % 2 ^ 32)

/-- Clear the RC fields of an access that has returned them (R25, log entry 19). -/
def clearRc (u : UnitId) (lo n : Nat) (s : State) : State :=
  (touches u lo n).foldl (fun t x =>
    if x.fld.row.acc = .rc then wri u.page x.fld (instOf s u x.fld x.idx) 0 t else t) s

/-- The value of a read of `n` 32-bit words of a page, whatever clears. -/
def pageRead (vw : Views) (s : State) (page off n : Nat) : Nat :=
  match unitOfPage page with
  | none => if slotDark s page then 2 ^ (32 * n) - 1 else 0
  | some (u, j) =>
    if !unitReachable s u then 2 ^ (32 * n) - 1
    else if reservedPage u j then 0
    else if u = .hif ∧ j = 2 then ((List.range n).map fun k => SMap.get (fun _ => 0) s.msix (off / 4 + k) * 2 ^ (32 * k)).sum
    else if u = .hif ∧ j = 3 then 0
    else ((List.range n).map fun k => readWord vw s u ((j * 4096 + off) * 8 + 32 * k) * 2 ^ (32 * k)).sum

/-- A host read of the register BAR: the value goes out and RC fields clear (R24, R25). -/
def regRead (vw : Views) (page off width : Nat) (s : State) : State :=
  let ok := (width = 4 ∨ width = 8) ∧ off % width = 0
  let o := if ok then off % 4096 else off % 4096 / 4 * 4
  let n := if ok then width / 4 else 1
  let v := pageRead vw s page o n
  let s1 := match unitOfPage page with
    | some (u, j) => if unitReachable s u then clearRc u ((j * 4096 + o) * 8) (32 * n) s else s
    | none => s
  emit (.regData page off v) s1

end Sys2Proof.Machine
end

