-- ==== Sys2Proof/Machine/Harness.lean ====
section
/-!
DEFINITION. Harness mode of a channel (R252-R254), the host's accesses to special columns (R255-R259), commands that the host
starts, aborts of bank units through the BKU page (R270, R271) and the writes of LIN_MAP and BMP_MAP (R288).
-/

namespace Sys2Proof.Machine

/-- HM_REQ holds the channel in harness mode (R252). -/
def hmReq (s : State) (ck : Nat) : Bool := bit (rd s (buOf (ck / 32)).page .bkuHmReq) (ck % 32) = 1

/-- The channel is asked to be in harness mode (R252). -/
def wantsHarness (s : State) (ck : Nat) : Bool := hmReq s ck || seqActive (chanAt s ck)

/-- HARNESS_ENTRY (R252). -/
def execHarnessEntry (stack chan : Nat) (s : State) : Result :=
  if wantsHarness s (ckOf stack chan) then .next (enterHarness (ckOf stack chan) s) else .next s

/-- HARNESS_ON (R252): tMOD is met, and what waited for the end of entry is served. -/
def execHarnessOn (stack chan : Nat) (s : State) : Result :=
  let ck := ckOf stack chan
  let ch := chanAt s ck
  .next (if ch.hm = .entering then serveChan ck (putChan ck { ch with hm := .on } s) else s)

/-- HARNESS_EXIT (R253): its conditions have held for HM_IDLE_US. -/
def execHarnessExit (stack chan : Nat) (s : State) : Result :=
  let ck := ckOf stack chan
  let ch := chanAt s ck
  if ch.hm != .on || wantsHarness s ck || !chanServes s ck || !harnessOpen s stack none 32 then .next s
  else
    let s := writeHmr ck none (preAll ck s)
    .next (putChan ck { chanAt s ck with hm := .exiting } s)

/-- HARNESS_OFF (R253): exit completes; a channel that is asked for again re-enters. -/
def execHarnessOff (stack chan : Nat) (s : State) : Result :=
  let ck := ckOf stack chan
  let ch := chanAt s ck
  if ch.hm != .exiting then .next s
  else
    let s := putChan ck { ch with hm := .off, gang := 0 } s
    .next (if wantsHarness s ck then enterHarness ck s else s)

/-- A write of HM_REQ (R252): channels that it asks for begin entry. -/
def hmReqWrite (d mask : Nat) (s : State) : State :=
  let s := wr (buOf d).page .bkuHmReq mask s
  forUpto 32 (fun c t => if hmReq t (ckOf d c) then enterHarness (ckOf d c) t else t) s

/-- HM_REQ_WRITE. -/
def execHmReqWrite (stack mask : Nat) (s : State) : Result := .next (hostWrites (buOf stack) (hmReqWrite stack mask) s)

/-- Between host sequences the GANG mask is HOST_GANG (R252, R283): while no sequence of the channel is active, an HMR write changes
it. -/
def hostGang (ck : Nat) (s : State) : State :=
  let ch := chanAt s ck
  let mask := rd s (buOf (ck / 32)).page .bkuHostGang
  if ch.hm = .on && hmReq s ck && !seqActive ch && ch.gang != mask then
    let s := writeHmr ck none s
    putChan ck { chanAt s ck with gang := mask } s
  else s

/-- A write of HOST_GANG. -/
def hostGangWrite (d mask : Nat) (s : State) : State :=
  forUpto 32 (fun c t => hostGang (ckOf d c) t) (wr (buOf d).page .bkuHostGang mask s)

/-- A harness-window access, decoded (R255). -/
structure HarnessAddr where
  ck : Nat
  bcast : Bool
  bank : Nat
  sc : Nat
  ok : Bool
deriving DecidableEq, Repr

/-- Decode an offset in a channel's 32 MiB; `ok` is false for a reserved offset or special column (R255, R256). -/
def harnessAddr (stack chan off : Nat) (write : Bool) : HarnessAddr :=
  let sc := bits off 9 5
  let bcast := bit off 15 = 1
  ⟨ckOf stack chan, bcast, bits off 14 10, sc, bits off 24 16 = 0 && sc != 11 && sc < 18 && (write || !bcast)⟩

/-- A refused harness access in ERRLOG of the BKU page (R257, R283). -/
def harnessErr (code dpa ck : Nat) (s : State) : State := logErr (buOf (ck / 32)).page 1 code dpa s

/-- The unit belongs to a sequence that is admitted or has not drained (R257). -/
def unitBusy (s : State) (bk : Nat) : Bool :=
  (chanAt s (bk / 32)).seqs.any fun q => q.banks.contains (bk % 32) && !q.gone.contains (bk % 32)

/-- BU_STATE (R257). -/
def buStateCode (s : State) (bk : Nat) : Nat :=
  match (chanAt s (bk / 32)).seqs.find? fun q => q.st != .queued && q.banks.contains (bk % 32) && !q.gone.contains (bk % 32) with
  | none => 0
  | some q => if q.ended.contains (bk % 32) then 4 else
    match q.st with
    | .gap => 2 | .wait => 3 | .draining => 4 | .queued | .running => 1

/-- The status word (R257). -/
def statusWord (s : State) (bk : Nat) : Nat :=
  let u := unitState s bk
  buStateCode s bk + u.last * 2 ^ 4 + (if u.lastPoison then 2 ^ 6 else 0) + (if u.badCmd then 2 ^ 7 else 0) + u.lastOp * 2 ^ 8
    + u.tag * 2 ^ 16 + u.scount % 2 ^ 64 * 2 ^ 64 + u.lastSteps % 2 ^ 32 * 2 ^ 128 + u.fifo.length * 2 ^ 160

/-- What a special column reads (R256). -/
def specialRead (s : State) (bk sc : Nat) : List Byte :=
  let u := unitState s bk
  let lanes (l : List Nat) (i : Nat) : List Byte := ((l.drop (8 * i)).take 8).flatMap (leBytes 4)
  if sc < 8 then leBytes 32 (u.v.getD sc 0)
  else if sc = 8 then leBytes 32 u.cw
  else if sc = 10 then leBytes 32 u.latch.book
  else if sc = 12 || sc = 13 then lanes u.sa0 (sc - 12)
  else if sc = 14 || sc = 15 then lanes u.sa1 (sc - 14)
  else if sc = 16 then leBytes 32 (statusWord s bk)
  else if sc = 17 then ((u.fifo.take 4) ++ List.replicate (4 - u.fifo.length) (2 ^ 64 - 1)).flatMap (leBytes 8)
  else List.replicate 32 0

/-- A host read of one special column: its 32 bytes, or none for Unsupported Request (R257). -/
def harnessRead (stack chan off dpa : Nat) (s : State) : Option (List Byte) × State :=
  let a := harnessAddr stack chan off false
  if !a.ok then (none, harnessErr 0x02 dpa a.ck s)
  else if (chanAt s a.ck).hm != .on then (none, harnessErr 0x01 dpa a.ck s)
  else
    let bk := a.ck * 32 + a.bank
    let s' := noteHarness 0x09 bk a.sc (harnessCharge stack none 32 s)
    (some (specialRead s bk a.sc), if a.sc = 17 then putUnit bk ((unitState s bk).pop 4) s' else s')

/-- The register stream that a host command finds in V0-V7 (R260-R263). -/
def hostStream (op cw : Nat) (v : List Nat) : List Byte :=
  let r := v.flatMap (leBytes 32)
  if op = 0x02 && cwB2 cw then
    let n := 2 * cwN2 cw
    (slice r 0 64 ++ slice r 128 64).take n ++ (slice r 64 64 ++ slice r 192 64).take n
  else r

/-- A command write reaches idle units of a channel (R259, R266): those whose control words keep the limits start together, one sequence
for the units with the same control word and registers; the others refuse it. -/
def hostCommand (op flags tag ck : Nat) (bks : List Nat) (s : State) : State :=
  let ok := bks.filter fun bk => cmdOk s (ck / 32) op flags (unitState s bk).cw
  let s := (bks.filter fun bk => !ok.contains bk).foldl (fun t bk => refuseUnit bk t) s
  let like (bk : Nat) : Nat × List Nat := ((unitState s bk).cw, (unitState s bk).v)
  (ok.map like).eraseDups.foldl (fun t k =>
    let gang := ok.filter fun bk => like bk = k
    let q : Seq := { host := true, banks := gang.map (· % 32), op := op, flags := flags, tag := tag, cw := k.1
                     stream := hostStream op k.1 k.2, st := .running }
    let ch := chanAt t ck
    gang.foldl (fun t bk => beginUnit q bk t) (putChan ck { ch with seqs := ch.seqs ++ [q] } t)) s

/-- A whole special-column write other than CMD reaches one unit (R256). -/
def specialWrite (sc : Nat) (data : List Byte) (bk : Nat) (s : State) : State :=
  let u := unitState s bk
  let x := leNat data
  if sc < 8 then putUnit bk { u with v := setAt 0 u.v sc x } s
  else if sc = 8 then putUnit bk { u with cw := x } s
  else if sc = 10 then putUnit bk { u with latch := { u.latch with book := setBits u.latch.book 63 0 (x % 2 ^ 64) } } s
  else s

/-- A host write of one special column (R255-R257). A broadcast that meets a busy unit is discarded whole (log entry 35). -/
def harnessWrite (stack chan off dpa : Nat) (data : List Byte) (s : State) : State :=
  let a := harnessAddr stack chan off true
  if !a.ok || data.length != 32 || off % 32 != 0 then harnessErr 0x02 dpa a.ck s
  else if (chanAt s a.ck).hm != .on then harnessErr 0x01 dpa a.ck s
  else
    let s := if a.bcast then hostGang a.ck s else s
    let units := if a.bcast then (bitList (chanAt s a.ck).gang).map (a.ck * 32 + ·) else [a.ck * 32 + a.bank]
    let p := (buOf stack).page
    if units.any (unitBusy s) then harnessErr 0x04 dpa a.ck (raise p 17 (count p .bkuHostDiscard 1 s))
    else
      let s := noteHarness 0x0A (a.ck * 32 + (if a.bcast then 0 else a.bank)) a.sc (harnessCharge stack none 32 s)
      let x := leNat data
      if a.sc = 9 then hostCommand (bits x 7 0) (bits x 15 8) (bits x 31 16) a.ck units s
      else units.foldl (fun t bk => specialWrite a.sc data bk t) s

/-- The channel takes no command, or the host's port holds its harness traffic back: the access is held (R339, R345, R352). -/
def harnessHeld (s : State) (ck : Nat) : Bool :=
  (chanAt s ck).hm = .on && (!chanServes s ck || !harnessOpen s (ck / 32) none 32) || partState s (partOfStack (ck / 32)) = 2

/-- Go on with the stack, the channel and the offset of a place in the harness window (R50). -/
def inHarness (r : Region) (f : Nat → Nat → Nat → State) (s : State) : State :=
  match r with
  | .harness d c off => f d c off
  | _ => s

/-- A host write to the harness window, one column after another (R255, R455). -/
def harnessStore (dpa : Nat) (data : List Byte) (s : State) : State :=
  inHarness (regionOf s.variant dpa) (s := s) fun d c off =>
    if harnessHeld s (ckOf d c) then s
    else if partState s (partOfStack d) = 4 then badAccess 1 dpa s
    else if off % 32 = 0 && data.length % 32 = 0 then
      (chunks 32 (data.length / 32) data).zipIdx.foldl (fun t e => harnessWrite d c (off + 32 * e.2) (dpa + 32 * e.2) e.1 t) s
    else harnessWrite d c off dpa data s

/-- Read special columns one after another; none when one is refused. -/
def harnessCols (d c off dpa : Nat) : Nat → State → Option (List Byte) × State
  | 0, s => (some [], s)
  | n + 1, s =>
    let r := harnessRead d c off dpa s
    let t := harnessCols d c (off + 32) (dpa + 32) n r.2
    (r.1.bind fun a => t.1.map fun b => a ++ b, t.2)

/-- A host read of the harness window (R255, R257, R455). -/
def harnessLoad (dpa len : Nat) (s : State) : State :=
  inHarness (regionOf s.variant dpa) (s := s) fun d c off =>
    if harnessHeld s (ckOf d c) || len = 0 then s
    else if partState s (partOfStack d) = 4 then emit (.memData (leBytes len (freshVal s)) true) (freshNext s)
    else
      let r := harnessCols d c (off / 32 * 32) (dpa / 32 * 32) (ceilDiv (off % 32 + len) 32) s
      match r.1 with
      | some bs => emit (.memData (slice bs (off % 32) len) false) r.2
      | none => emit .unsupported r.2

/-- The special column that a harness DPA names. -/
def scOfDpa (s : State) (dpa : Nat) : Option Nat :=
  match regionOf s.variant dpa with
  | .harness _ _ off => some (bits off 9 5)
  | _ => none

/-- V_REGISTER_WRITE (R256). -/
def execVRegisterWrite (dpa : Nat) (data : List Byte) (s : State) : Result :=
  .next (if (scOfDpa s dpa).any (· < 8) then harnessStore dpa data s else s)

/-- CW_WRITE (R256, R258). -/
def execCwWrite (dpa : Nat) (data : List Byte) (s : State) : Result :=
  .next (if scOfDpa s dpa = some 8 then harnessStore dpa data s else s)

/-- CBL_WRITE (R256). -/
def execCblWrite (dpa : Nat) (data : List Byte) (s : State) : Result :=
  .next (if scOfDpa s dpa = some 10 then harnessStore dpa data s else s)

/-- FIFO_POP (R256). -/
def execFifoPop (dpa : Nat) (s : State) : Result :=
  .next (if scOfDpa s dpa = some 17 then harnessLoad dpa 32 s else s)

/-- A host write of special column CMD (R259). -/
def cmdWrite (op dpa flags tag : Nat) (s : State) : State :=
  if scOfDpa s dpa = some 9 then harnessStore dpa (leBytes 32 (op + flags % 2 ^ 8 * 2 ^ 8 + tag % 2 ^ 16 * 2 ^ 16)) s else s

/-- CLEAR (R264). -/
def execClear (dpa flags tag : Nat) (s : State) : Result := .next (cmdWrite 0x01 dpa flags tag s)
/-- MVS (R260). -/
def execMvs (dpa flags tag : Nat) (s : State) : Result := .next (cmdWrite 0x02 dpa flags tag s)
/-- DOT (R261). -/
def execDot (dpa flags tag : Nat) (s : State) : Result := .next (cmdWrite 0x03 dpa flags tag s)
/-- GRED (R262). -/
def execGred (dpa flags tag : Nat) (s : State) : Result := .next (cmdWrite 0x04 dpa flags tag s)
/-- PQSCAN (R263). -/
def execPqscan (dpa flags tag : Nat) (s : State) : Result := .next (cmdWrite 0x05 dpa flags tag s)
/-- COPY_OUT (R264). -/
def execCopyOut (dpa flags tag : Nat) (s : State) : Result := .next (cmdWrite 0x06 dpa flags tag s)
/-- ROWLIST (R300). -/
def execRowlist (dpa flags tag : Nat) (s : State) : Result := .next (cmdWrite 0x10 dpa flags tag s)
/-- VET (R300). -/
def execVet (dpa flags tag : Nat) (s : State) : Result := .next (cmdWrite 0x11 dpa flags tag s)
/-- BURNISH (R300). -/
def execBurnish (dpa flags tag : Nat) (s : State) : Result := .next (cmdWrite 0x12 dpa flags tag s)

/-- A host abort of a run: every context of it halts (R121, R437). -/
def abortRun (r : Nat) (s : State) : State :=
  match runAt s r with
  | none => s
  | some x => haltRun r x (putRun r (some { x with aborted := true }) s)

/-- The sequences of a channel that an abort of one bank meets (R270). -/
def abortable (s : State) (ck bank : Nat) (tag : Option Nat) : List Seq :=
  (chanAt s ck).seqs.filter fun q => q.st != .draining && q.openBanks.contains bank && (tag.map (· == q.tag)).getD true

/-- A host abort of one bank unit (R270, R271). -/
def abortUnit (ck bank : Nat) (tag : Option Nat) (s : State) : State :=
  let qs := abortable s ck bank tag
  let s := qs.foldl (fun t q => abortSeq 0 ck q [bank] t) s
  qs.foldl (fun t q => if q.host then t else abortRun (ctxAt s (ctxId q.core q.ctx)).run t) s

/-- AB_GO (R270, R271, R283): every selected unit answers at once. -/
def abGo (d : Nat) (s : State) : State :=
  let p := (buOf d).page
  let all (f : Fld) (one : Nat) : List Nat := if rd s p f = 1 then List.range 32 else [one]
  let units := (all .bkuAbAllCh (rd s p .bkuAbChan)).flatMap fun c => (all .bkuAbAllBank (rd s p .bkuAbBank)).map fun b => (ckOf d c, b)
  let tag := if rd s p .bkuAbTagEn = 1 then some (rd s p .bkuAbTag) else none
  let hit := (units.filter fun u => !(abortable s u.1 u.2 tag).isEmpty).length
  let s := units.foldl (fun t u => abortUnit u.1 u.2 tag t) s
  settleFlights (wr p .bkuAbGo 0 (wr p .bkuAbAborted hit (wr p .bkuAbNta (units.length - hit) s)))

/-- AB_GO. -/
def execAbGo (stack : Nat) (s : State) : Result := .next (hostWrites (buOf stack) (abGo stack) s)

/-- The block of stack `d` that holds the loader buffer (R288). -/
def loaderBlock (s : State) (d : Nat) : Option Nat :=
  if d = 11 then some (2 ^ (stackBits s.variant - 30) - 1) else none

/-- PLACE_RESULT of a write that would give the maps these values (R288). -/
def placeResult (s : State) (d lin bmp : Nat) : Nat :=
  if (List.range 32).any fun c => seqActive (chanAt s (ckOf d c)) then 1
  else if (List.range 64).any fun p => bit bmp p = 1 && bit lin p = 0 then 2
  else if (loaderBlock s d).any fun p => bit bmp p = 1 then 2
  else 0

/-- A write that would give LIN_MAP or BMP_MAP of stack `d` the value `v` (R25, R288). -/
def mapWrite (d : Nat) (bmp : Bool) (v : Nat) (s : State) : State :=
  let p := (mcOf d).page
  let f : Fld := if bmp then .mcsBmpMap else .mcsLinMap
  let old := rd s p f
  let v := v % 2 ^ 2 ^ (stackBits s.variant - 30)
  if v = old then wr p .mcsPlaceResult 0 s
  else if rd s p .hdrLocked = 1 then wr p .hdrLockViolation 1 s
  else
    let r := if bmp then placeResult s d (rd s p .mcsLinMap) v else placeResult s d v (rd s p .mcsBmpMap)
    let s := wr p .mcsPlaceResult r s
    if r = 0 then wr p f v s else s

/-- The value of a 64-bit map after a write of its low word (half 0) or its high word. -/
def halfOver (old half value : Nat) : Nat := if half = 0 then setBits old 31 0 value else setBits old 63 32 value

/-- A write of one 32-bit half of a map, 0 the low one. -/
def mapHalf (d : Nat) (bmp : Bool) (half v : Nat) (s : State) : State :=
  mapWrite d bmp (halfOver (rd s (mcOf d).page (if bmp then .mcsBmpMap else .mcsLinMap)) half v) s

/-- A write of a map: of one half, or of both, which are two separate writes, the low half first (R24, R308). -/
def mapWords (d : Nat) (bmp : Bool) (half v : Nat) (s : State) : State :=
  if half < 2 then mapHalf d bmp half v s else mapHalf d bmp 1 (v / 2 ^ 32) (mapHalf d bmp 0 (v % 2 ^ 32) s)

/-- LIN_MAP_WRITE (R288): half 0 or 1, or 2 for both. -/
def execLinMapWrite (stack half value : Nat) (s : State) : Result :=
  .next (hostWrites (mcOf stack) (mapWords stack false half value) s)

/-- BMP_MAP_WRITE (R288): half 0 or 1, or 2 for both. -/
def execBmpMapWrite (stack half value : Nat) (s : State) : Result :=
  .next (hostWrites (mcOf stack) (mapWords stack true half value) s)

end Sys2Proof.Machine
end

