-- ==== Sys2Proof/Machine/Approx.lean ====
section
/-!
DEFINITION. The transcendental operations of R186: the function's value to several hundred bits in fixed point, and the FP32 values
that lie within the operation's error bound of it, of which Pelran's approximation is one (log entry 7).
-/

namespace Sys2Proof.Machine

/-- Fraction bits of the fixed-point values here, more than any result of an FP32 operand needs. -/
abbrev fxBits : Nat := 700

/-- One in fixed point. -/
abbrev fxOne : Int := 2 ^ 700

/-- Fixed-point product. -/
def fxMul (a b : Int) : Int := a * b / fxOne

/-- Fixed-point quotient. -/
def fxDiv (a b : Int) : Int := a * fxOne / b

/-- A finite value in fixed point. -/
def fxOf (neg : Bool) (m : Nat) (e : Int) : Int :=
  let v : Nat := if 0 ≤ e + fxBits then m <<< (e + fxBits).toNat else m >>> (-(e + fxBits)).toNat
  if neg then -v else v

/-- A fixed-point value times 2^`k`. -/
def fxNum (v k : Int) : Num := .fin (v < 0) v.natAbs (k - fxBits)

/-- The sum of a series whose first term is `t` and whose term `k + 1` is `next k` of term `k`. -/
def fxSeries (n : Nat) (next : Nat → Int → Int) (t : Int) : Int :=
  ((List.range n).foldl (fun (p : Int × Int) k => let u := next k p.1; (u, p.2 + u)) (t, t)).2

/-- e^r for 0 ≤ r < 1. -/
def fxExpSmall (r : Int) : Int := fxSeries 160 (fun k t => fxMul t r / (k + 1)) fxOne

/-- The powers of z whose quotients by odd numbers make up atanh z, summed; |z| ≤ 1/3. -/
def fxAtanh (z : Int) : Int :=
  ((List.range 232).foldl (fun (p : Int × Int) (k : Nat) => (fxMul (fxMul p.1 z) z, p.2 + p.1 / (2 * k + 1))) (z, 0)).2

/-- ln 2. -/
def fxLn2 : Int := 2 * fxAtanh (fxOne / 3)

/-- atan(1/n) for a whole n above 4. -/
def fxAtanInv (n : Nat) : Int :=
  ((List.range 160).foldl (fun (p : Int × Int) (k : Nat) =>
    (p.1 / (n * n), p.2 + (if k % 2 = 0 then 1 else -1) * (p.1 / (2 * k + 1)))) (fxOne / n, 0)).2

/-- π, by Machin's sum. -/
def fxPi : Int := 16 * fxAtanInv 5 - 4 * fxAtanInv 239

/-- e^x as (m, k): m × 2^k in fixed point. -/
def fxExp (x : Int) : Int × Int :=
  let k := x / fxLn2
  (fxExpSmall (x - k * fxLn2), k)

/-- e^x in fixed point for x ≤ 0, never below the last bit. -/
def fxExpNeg (x : Int) : Int :=
  let p := fxExp x
  max 1 (p.1 / 2 ^ (-p.2).toNat)

/-- ln of m / 2^⌊log2 m⌋. -/
def fxLnMant (m : Nat) : Int :=
  let one : Int := ((2 ^ Nat.log2 m : Nat) : Int)
  2 * fxAtanh (fxDiv (m - one) (m + one))

/-- The logistic function as (m, k): m × 2^k in fixed point. -/
def fxSigmoid (x : Int) : Int × Int :=
  if 0 ≤ x then (fxDiv fxOne (fxOne + fxExpNeg (-x)), 0)
  else
    let p := fxExp x
    (fxDiv p.1 (fxOne + fxExpNeg x), p.2)

/-- Φ, the normal distribution function, of x for |x| ≤ 15. -/
def fxPhi (x : Int) : Int :=
  let sq := fxMul x x
  let sum := fxSeries 720 (fun k t => fxMul t sq / (2 * k + 3)) x
  let root : Int := sqrtBits (2 * fxPi * fxOne).toNat 702 0
  fxOne / 2 + fxMul (fxDiv (fxExpNeg (-(sq / 2))) root) sum

/-- sin (`odd`) or cos of |r| < 1. -/
def fxSinCos (odd : Bool) (r : Int) : Int :=
  let sq := fxMul r r
  let d : Nat := if odd then 2 else 1
  fxSeries 100 (fun k t => -(fxMul t sq) / ((2 * k + d) * (2 * k + d + 1))) (if odd then r else fxOne)

/-- sin or cos of x, by the nearest multiple of π/2. -/
def fxTurn (isSin : Bool) (x : Int) : Int :=
  let h := fxPi / 2
  let k := (x + h / 2) / h
  let r := x - k * h
  let q := (k + if isSin then 0 else 1) % 4
  let v := fxSinCos (q % 2 = 0) r
  if 2 ≤ q then -v else v

/-- The value of a transcendental function at a finite operand where R186 gives its bound, to far more bits than FP32 holds. -/
def approxTrue (op : Nat) (neg : Bool) (m : Nat) (e : Int) : Num :=
  let x := fxOf neg m e
  let v : Num := .fin neg m e
  let big (n : Nat) : Bool := Num.lt (.fin false n 0) (.fin false m e)
  match op with
  | 0x0C => (divNum (.fin false 1 0) (sqrtNum v).1).1
  | 0x0E | 0x0F =>
    if big 400 then .fin false 1 (if neg then -400 else 400)
    else
      let p := if op = 0x0E then fxExp x else (fxExpSmall (fxMul (x % fxOne) fxLn2), x / fxOne)
      fxNum p.1 p.2
  | 0x10 => fxNum ((Nat.log2 m + e) * fxLn2 + fxLnMant m) 0
  | 0x11 => fxNum ((Nat.log2 m + e) * fxOne + fxDiv (fxLnMant m) fxLn2) 0
  | 0x12 =>
    let a : Int := if big 400 then 1 else fxExpNeg (-2 * fxOf false m e)
    (fxNum (fxDiv (fxOne - a) (fxOne + a)) 0).withSign neg
  | 0x13 =>
    if big 400 then (if neg then .fin false 1 (-400) else .fin false (2 ^ fxBits - 1) (-fxBits))
    else let p := fxSigmoid x; fxNum p.1 p.2
  | 0x14 =>
    if big 15 then (if neg then .fin true 1 (-200) else (mulNum v (.fin false (2 ^ fxBits - 1) (-fxBits))).1)
    else (mulNum v (fxNum (fxPhi x) 0)).1
  | 0x15 =>
    if big 400 then (if neg then .fin true 1 (-200) else (mulNum v (.fin false (2 ^ fxBits - 1) (-fxBits))).1)
    else let p := fxSigmoid x; (mulNum v (fxNum p.1 p.2)).1
  | 0x16 => if m = 0 then v else fxNum (fxTurn true x) 0
  | _ => fxNum (fxTurn false x) 0

/-- Error bound in ulp (R186). -/
def approxUlp (op : Nat) : Nat := if op = 0x0C then 1 else if op ≤ 0x11 then 2 else 4

/-- Exponent of an FP32 ulp at a value. -/
def ulpExp (m : Nat) (e : Int) : Int := if m = 0 then -149 else max (Nat.log2 m + e) (-126) - 23

/-- Place of a magnitude among the FP32 magnitudes, counted on past the largest, rounded down or `up`. -/
def ordMag (up : Bool) (m : Nat) (e : Int) : Int :=
  let q := ulpExp m e
  let r := if q ≤ e then m <<< (e - q).toNat else if up then (m + 2 ^ (q - e).toNat - 1) >>> (q - e).toNat else m >>> (q - e).toNat
  (q + 149) * 2 ^ 23 + r

/-- Place of a value among the FP32 values, rounded down or `up`. -/
def ordNum (up : Bool) (v : Num) : Int :=
  match v with
  | .fin neg m e => if neg then -(ordMag (!up) m e) else ordMag up m e
  | _ => 0

/-- The value at a place; a zero takes the sign given. -/
def numOfOrd (neg : Bool) (i : Int) : Num :=
  let a := i.natAbs
  if a = 0 then .fin neg 0 0
  else if a < 2 ^ 23 then .fin (i < 0) a (-149)
  else .fin (i < 0) (2 ^ 23 + a % 2 ^ 23) (a / 2 ^ 23 - 150)

/-- The FP32 value within `b` ulp of `v` that `sel` picks, inside the limits `lo` and `hi` of places. -/
def ulpPick (b sel : Nat) (lo hi : Int) (v : Num) : Num :=
  match v with
  | .fin neg m e =>
    let d : Num := .fin false b (ulpExp m e)
    let l := max lo (ordNum true (addNum 0 v d.negate).1)
    let h := min hi (ordNum false (addNum 0 v d).1)
    numOfOrd neg (l + (sel : Int) % (h - l + 1))
  | _ => v

/-- A NaN that came of operands that are none sets NV. -/
def nvIf (b : Bool) : Nat := if b then exNV else 0

/-- The spec's fixed edges of a transcendental operation (R186); none where only the bound is stated. -/
def approxEdge (op : Nat) (x : Num) : Option Num :=
  match x with
  | .nan => some .nan
  | .inf neg =>
    match op with
    | 0x0C => some (if neg then .nan else .zero)
    | 0x0E | 0x0F => some (if neg then .zero else .inf false)
    | 0x10 | 0x11 => some (if neg then .nan else .inf false)
    | 0x12 => some (.fin neg 1 0)
    | 0x13 => some (if neg then .zero else .fin false 1 0)
    | 0x16 | 0x17 => some .nan
    | _ => none
  | .fin neg m e =>
    match op with
    | 0x0C => if m = 0 then some (.inf neg) else if neg then some .nan else none
    | 0x10 | 0x11 => if m = 0 then some (.inf true) else if neg then some .nan else none
    | 0x16 | 0x17 => if Num.lt (.fin false 1 20) (.fin false m e) then some .nan else none
    | _ => none

/-- A transcendental operation (R186): its edges, else Pelran's fixed approximation, an FP32 value within the bound (log entry 7),
with the flags that follow from operand and result (R93). TANH and SIGMOID stay inside their limits. -/
def approx (op : Nat) (x : Num) : Num × Nat :=
  match approxEdge op x with
  | some v => (v, nvIf (v.isNan && !x.isNan))
  | none =>
    let sel := Config.approx op (encFloat fp32 {} x).1
    match x with
    | .fin neg m e =>
      let t := approxTrue op neg m e
      let one : Int := 0x3F800000
      let lim : Int × Int := if op = 0x12 then (-one, one) else if op = 0x13 then (0, one) else (-2 ^ 60, 2 ^ 60)
      let v := ulpPick (approxUlp op) sel lim.1 lim.2 t
      (v, if !t.isZero && decide (t.log2 < -126) && cmpNum v t != some .eq then exUF else 0)
    | _ =>
      let v := (decFloat fp32 false (sel % 2 ^ 32)).1
      (v, nvIf v.isNan)

end Sys2Proof.Machine
end

