-- ==== Sys2Proof/Machine/Vxe.lean ====
section
/-!
DEFINITION. The vector engine (R181-R195): operand rows, micro-operations, reductions, softmax, normalization, sort,
top-k, selection, sampling and conversion.
-/

namespace Sys2Proof.Machine

/-- The type of a lane value; an immediate takes the type its use asks for (log entry 30). -/
inductive LaneTy where
  | f32 | i32 | i64 | b1 | imm
deriving DecidableEq, Repr

/-- A lane value. An immediate holds its 32 bits as an integer value, a B1 lane the word of 32 elements that holds its element
(R181; log entry 80). -/
structure Lane where
  ty : LaneTy := .f32
  v : Num := .zero
deriving DecidableEq, Repr

/-- Lane type of a format word (R181). -/
def laneTy (fmt : Nat) : LaneTy :=
  let code := fmtCode fmt
  if fmtMx fmt || codeClass code = .float then .f32 else if code = 0x0E then .b1 else if code = 0x12 then .i64 else .i32

/-- The class of a lane type for conversion. -/
def LaneTy.cls : LaneTy → NumClass
  | .f32 | .imm => .float
  | .i32 | .i64 => .int
  | .b1 => .b1

/-- Read row `r` of an operand: `cols` lane values with their marks, and the flags (R182, R537; for MX elements outside the FP32
range, log entry 79). -/
def vxRow (g : Nat) (img : List Byte) (c : Ctx) (o : VxOp) (cols r : Nat) (ar : Arith) (s : State) : (List Elem × Nat) × State :=
  let row := if o.mode = 1 || o.mode = 3 then 0 else r
  let n := if 2 ≤ o.mode then 1 else cols
  let sc := if fmtMx o.t.fmt then spAddr c (scaleOf img o.t) + row * ceilDiv cols 32 else 0
  let at_ := spAddr c o.t + o.off + row * o.pitch
  let t := readRow g o.t at_ sc n ar.ftz (takeSlots .engine g (rowLines o.t at_ sc n).length s)
  let conv (e : Elem) : Elem × Nat := if fmtMx o.t.fmt then let x := toF32 ar e.1; ((x.1, e.2), x.2) else (e, 0)
  let es := t.1.1.map conv
  let xs := es.map Prod.fst
  let all := if 2 ≤ o.mode then List.replicate cols (xs.head?.getD (.zero, false)) else xs
  ((all, es.foldl (fun k e => k ||| e.2) t.1.2), t.2)

/-- Write output row `r` of a descriptor whose rows have `cols` elements (R182, R537). -/
def vxPut (g : Nat) (img : List Byte) (c : Ctx) (o : VxOp) (cols seg segPitch r : Nat) (ar : Arith) (cls : NumClass) (xs : List Elem)
    (s : State) : Nat × State :=
  let n := xs.length
  let sc := if fmtMx o.t.fmt then spAddr c (scaleOf img o.t) + r * ceilDiv cols 32 else 0
  writeRow g o.t.fmt ar cls (rowRuns (spAddr c o.t + o.off + r * o.pitch) seg segPitch (packedBytes (fmtCode o.t.fmt) n)) sc xs s

/-- Result of one vector descriptor so far: flags and whether poison was met. -/
abbrev VxOut := Nat × Bool

/-- Bits of an integer lane or immediate; a B1 lane is a word. -/
def Lane.width (a : Lane) : Nat := if a.ty = .i64 then 64 else 32

/-- Two's complement bits of an integer, B1 or immediate lane. -/
def Lane.bitsOf (a : Lane) : Nat := ofSigned a.width a.v.toInt

/-- An integer lane of type `ty` from bits, or a B1 word of `nb` elements. -/
def laneOfBits (nb : Nat) (ty : LaneTy) (v : Nat) : Lane :=
  match ty with
  | .b1 => ⟨.b1, Num.ofInt ((v % 2 ^ nb : Nat) : Int)⟩
  | .i64 => ⟨.i64, Num.ofInt (toSigned 64 v)⟩
  | _ => ⟨.i32, Num.ofInt (toSigned 32 v)⟩

/-- A lane as an operation takes it: an immediate becomes a value of the type `ty`, a subnormal FP32 one zero under FTZ (R82). -/
def Lane.as (ar : Arith) (nb : Nat) (ty : LaneTy) (a : Lane) : Lane :=
  if a.ty != .imm then a
  else match ty with
    | .imm => a
    | .f32 => ⟨.f32, (decFloat fp32 ar.ftz (ofSigned 32 a.v.toInt)).1⟩
    | t => laneOfBits nb t (ofSigned 32 a.v.toInt)

/-- The flags of taking a lane so: an immediate flushed by FTZ sets UF (R93). -/
def Lane.flush (ar : Arith) (ty : LaneTy) (a : Lane) : Nat :=
  if a.ty = .imm && ty = .f32 then (decFloat fp32 ar.ftz (ofSigned 32 a.v.toInt)).2 else 0

/-- The type that the typed ones of some operands have; FP32 when all are immediates (log entry 30). -/
def commonTy (ls : List Lane) : LaneTy := ((ls.find? fun l => l.ty != .imm).map Lane.ty).getD .f32

/-- An FP32 result. -/
def laneF (ar : Arith) (r : Num × Nat) : Lane × Nat :=
  let x := toF32 ar r.1
  (⟨.f32, x.1⟩, r.2 ||| x.2)

/-- An integer result of type `ty` (R84). -/
def laneI (ar : Arith) (ty : LaneTy) (i : Int) : Lane × Nat :=
  let w := if ty = .i64 then 64 else 32
  let x := encInt w true ar .int (Num.ofInt i)
  (laneOfBits 32 ty x.1, x.2)

/-- A comparison result. -/
def laneB (b : Bool) : Lane × Nat := (⟨.i32, Num.ofInt (if b then 1 else 0)⟩, 0)

/-- The types in which a micro-operation takes its operands (R186); an empty list for MOV, which takes its operand as it is. -/
def mapTake (op : Nat) (a b c : Lane) : List LaneTy :=
  let int (t : LaneTy) : LaneTy := if t = .f32 then .i32 else t
  let ab := commonTy [a, b]
  let bc := commonTy [b, c]
  match op with
  | 0x02 | 0x03 | 0x04 | 0x06 => [.f32, .f32]
  | 0x05 => [.f32, .f32, .f32]
  | 0x07 | 0x08 | 0x18 | 0x19 | 0x1A | 0x1B => [ab, ab]
  | 0x09 | 0x0A => [commonTy [a]]
  | 0x1C => [commonTy [a], bc, bc]
  | 0x1D | 0x1E | 0x1F | 0x25 => [int ab, int ab]
  | 0x20 | 0x24 | 0x27 => [int (commonTy [a])]
  | 0x21 | 0x22 | 0x23 | 0x26 => [.i32, .i32]
  | 0x29 => let t := commonTy [a, b, c]; [t, t, t]
  | 0x01 => []
  | _ => [.f32]

/-- One micro-operation on operands in their types (R186); `nb` elements of a B1 word lie in the row. -/
def mapApply (nb op : Nat) (ar : Arith) (a b c : Lane) : Lane × Nat :=
  match op with
  | 0x01 => (a, 0)
  | 0x02 => laneF ar (addNum ar.round a.v b.v)
  | 0x03 => laneF ar (addNum ar.round a.v b.v.negate)
  | 0x04 => laneF ar (mulNum a.v b.v)
  | 0x05 =>
    let p := mulNum a.v b.v
    let r := addNum ar.round p.1 c.v
    laneF ar (r.1, p.2 ||| r.2)
  | 0x06 => laneF ar (divNum a.v b.v)
  | 0x07 => (⟨a.ty, minNum false a.v b.v⟩, 0)
  | 0x08 => (⟨a.ty, minNum true a.v b.v⟩, 0)
  | 0x09 => if a.ty = .f32 then (⟨.f32, a.v.withSign false⟩, 0) else laneI ar a.ty a.v.toInt.natAbs
  | 0x0A => if a.ty = .f32 then (⟨.f32, a.v.negate⟩, 0) else laneI ar a.ty (-a.v.toInt)
  | 0x0B => laneF ar (sqrtNum a.v)
  | 0x0D => laneF ar (divNum (.fin false 1 0) a.v)
  | 0x0C | 0x0E | 0x0F | 0x10 | 0x11 | 0x12 | 0x13 | 0x14 | 0x15 | 0x16 | 0x17 =>
    laneF ar (approx op a.v)
  | 0x18 => laneB (cmpNum a.v b.v = some .lt)
  | 0x19 => laneB (cmpNum a.v b.v = some .lt || cmpNum a.v b.v = some .eq)
  | 0x1A => laneB (cmpNum a.v b.v = some .eq)
  | 0x1B => laneB (cmpNum a.v b.v != some .eq)
  | 0x1C => (if a.v.isZero then c else b, 0)
  | 0x1D => (laneOfBits nb a.ty (a.bitsOf &&& b.bitsOf), 0)
  | 0x1E => (laneOfBits nb a.ty (a.bitsOf ||| b.bitsOf), 0)
  | 0x1F => (laneOfBits nb a.ty (a.bitsOf ^^^ b.bitsOf), 0)
  | 0x20 => (laneOfBits nb a.ty (2 ^ a.width - 1 - a.bitsOf), 0)
  | 0x21 => (laneOfBits nb .i32 (a.bitsOf <<< (b.bitsOf % 32) % 2 ^ 32), 0)
  | 0x22 => (⟨.i32, Num.ofInt (a.v.toInt / 2 ^ (b.bitsOf % 32))⟩, 0)
  | 0x23 => (laneOfBits nb .i32 (a.bitsOf >>> (b.bitsOf % 32)), 0)
  | 0x24 => (⟨.i32, Num.ofInt (popCount a.width a.bitsOf)⟩, 0)
  | 0x25 => laneI ar a.ty (a.v.toInt + b.v.toInt)
  | 0x26 => laneI ar .i32 (a.v.toInt * b.v.toInt)
  | 0x27 => laneF ar (a.v, 0)
  | 0x28 => let r := encInt 32 true ar .float a.v; (laneOfBits nb .i32 r.1, r.2)
  | _ => (⟨a.ty, minNum false (minNum true a.v b.v) c.v⟩, 0)

/-- One micro-operation (R186): its operands taken in their types, then its result, with the flags of both. -/
def mapOp (nb op : Nat) (ar : Arith) (a b c : Lane) : Lane × Nat :=
  let ts := mapTake op a b c
  let ty (i : Nat) : LaneTy := ts.getD i .imm
  let r := mapApply nb op ar (a.as ar nb (ty 0)) (b.as ar nb (ty 1)) (c.as ar nb (ty 2))
  (r.1, r.2 ||| a.flush ar (ty 0) ||| b.flush ar (ty 1) ||| c.flush ar (ty 2))

/-- What a VX_MAP chain has written for one element: lane registers, outputs and flags. -/
structure MapState where
  l : List Lane := [{}, {}, {}, {}]
  o : Option Lane := none
  o2 : Option Lane := none
  ex : Nat := 0
deriving DecidableEq, Repr

/-- One step word of a chain (R185). -/
def mapStep (nb : Nat) (ar : Arith) (x y z i0 i1 : Lane) (st : MapState) (w : Nat) : MapState :=
  let src (c : Nat) : Lane :=
    match c with
    | 0 => x | 1 => y | 2 => z | 7 => i0 | 8 => i1
    | k => st.l.getD (k - 3) {}
  let r := mapOp nb (bits w 5 0) ar (src (bits w 12 9)) (src (bits w 16 13)) (src (bits w 20 17))
  let st := { st with ex := st.ex ||| r.2 }
  match bits w 8 6 with
  | 4 => { st with o := some r.1 }
  | 5 => { st with o2 := some r.1 }
  | d => { st with l := st.l.set d r.1 }

/-- The value, class and flags with which the lane of element `j` is converted into a format; a B1 lane gives the element's bit. -/
def Lane.out (ar : Arith) (fmt j : Nat) (a : Lane) : (Num × NumClass) × Nat :=
  let b := a.as ar 32 (laneTy fmt)
  let v := if b.ty = .b1 then Num.ofInt (if bit b.bitsOf (j % 32) = 1 then 1 else -1) else b.v
  ((v, b.ty.cls), a.flush ar (laneTy fmt))

/-- Convert lanes into values of one output row, with the flags; all have one class. -/
def laneRow (ar : Arith) (fmt : Nat) (ls : List (Lane × Bool)) : (List Elem × NumClass) × Nat :=
  let os := ls.zipIdx.map fun l => (l.1.1.out ar fmt l.2, l.1.2)
  ((os.map (fun o => (o.1.1.1, o.2)), (os.head?.map fun o => o.1.1.2).getD .float), os.foldl (fun k o => k ||| o.1.2) 0)

/-- The lane of element `j` of a row: its value, or for B1 the word of 32 elements that holds it (R181). -/
def laneAt (ty : LaneTy) (es : List Elem) (j : Nat) : Lane :=
  let e (i : Nat) : Num := (es.getD i (.zero, false)).1
  if ty = .b1 then
    let j0 := 32 * (j / 32)
    ⟨.b1, Num.ofInt ((packBits 1 ((List.range (min 32 (es.length - j0))).map fun i => if (e (j0 + i)).neg then 0 else 1) : Nat) : Int)⟩
  else ⟨ty, e j⟩

/-- Read an optional operand row; absent lanes read as zero. -/
def vxOptRow (g : Nat) (img : List Byte) (c : Ctx) (o : Option VxOp) (cols r : Nat) (ar : Arith) (s : State) : (List Elem × Nat) × State :=
  match o with
  | some o => vxRow g img c o cols r ar s
  | none => (([], 0), s)

/-- The lane type of an optional operand. -/
def optTy (o : Option VxOp) : LaneTy := (o.map fun o => laneTy o.t.fmt).getD .f32

/-- Write an optional output row. -/
def vxOptPut (g : Nat) (img : List Byte) (c : Ctx) (o : Option VxOp) (cols seg segPitch r : Nat) (ar : Arith) (xs : List Elem) (cls : NumClass)
    (s : State) : Nat × State :=
  match o with
  | some o => vxPut g img c o cols seg segPitch r ar cls xs s
  | none => (0, s)

/-- Run a vector descriptor row by row in ascending order (R181). -/
def vxRows (x : VxBody) (f : Nat → State → VxOut × State) (s : State) : VxOut × State :=
  (List.range x.rows).foldl (fun r i => let t := f i r.2; ((r.1.1 ||| t.1.1, r.1.2 || t.1.2), t.2)) ((0, false), s)

/-- VX_MAP (R185, R186). -/
def vxMap (g : Nat) (img d : List Byte) (c : Ctx) (s : State) : VxOut × State :=
  let x := vxBody img d
  let ar := arithOf (dArith d)
  let imm (off : Nat) : Lane := ⟨.imm, Num.ofInt (toSigned 32 (fieldAt d off 31 0))⟩
  let steps := (List.range x.steps).map fun i => fieldAt d (0x60 + 4 * i) 31 0
  vxRows x (fun r s =>
    let a := vxOptRow g img c x.x x.cols r ar s
    let b := vxOptRow g img c x.y x.cols r ar a.2
    let z := vxOptRow g img c x.z x.cols r ar b.2
    let els : List (MapState × Bool) := (List.range x.cols).map fun j =>
      let lane (o : Option VxOp) (t : (List Elem × Nat) × State) : Lane := laneAt (optTy o) t.1.1 j
      let bad (t : (List Elem × Nat) × State) : Bool := (t.1.1.getD j (.zero, false)).2
      let nb := min 32 (x.cols - 32 * (j / 32))
      let m := steps.foldl (mapStep nb ar (lane x.x a) (lane x.y b) (lane x.z z) (imm 0x78) (imm 0x7C)) {}
      (m, bad a || bad b || bad z)
    let row (fmt : Option VxOp) (p : MapState → Option Lane) : (List Elem × NumClass) × Nat :=
      match fmt with
      | some o => laneRow ar o.t.fmt (els.map fun e => ((p e.1).getD {}, e.2))
      | none => (([], .float), 0)
    let o := row x.o MapState.o
    let o2 := row x.o2 MapState.o2
    let w := vxOptPut g img c x.o x.cols x.seg x.segPitch r ar o.1.1 o.1.2 z.2
    let w2 := vxOptPut g img c x.o2 x.cols 0 0 r ar o2.1.1 o2.1.2 w.2
    ((els.foldl (fun k e => k ||| e.1.ex) (a.1.2 ||| b.1.2 ||| z.1.2 ||| o.2 ||| o2.2 ||| w.1 ||| w2.1), els.any Prod.snd), w2.2)) s

/-- A value with the flags so far. -/
abbrev Flagged := Num × Nat

/-- FP32 sum of two flagged values. -/
def fAdd (ar : Arith) (a b : Flagged) : Flagged :=
  let s := addNum ar.round a.1 b.1
  let r := toF32 ar s.1
  (r.1, a.2 ||| b.2 ||| s.2 ||| r.2)

/-- FP32 product. -/
def fMul (ar : Arith) (a b : Flagged) : Flagged :=
  let s := mulNum a.1 b.1
  let r := toF32 ar s.1
  (r.1, a.2 ||| b.2 ||| s.2 ||| r.2)

/-- FP32 quotient. -/
def fDiv (ar : Arith) (a b : Flagged) : Flagged :=
  let s := divNum a.1 b.1
  let r := toF32 ar s.1
  (r.1, a.2 ||| b.2 ||| s.2 ||| r.2)

/-- FP32 difference. -/
def fSub (ar : Arith) (a b : Flagged) : Flagged := fAdd ar a (b.1.negate, b.2)

/-- A transcendental of a flagged value. -/
def fApprox (op : Nat) (ar : Arith) (a : Flagged) : Flagged :=
  let r := approx op a.1
  let x := toF32 ar r.1
  (x.1, a.2 ||| r.2 ||| x.2)

/-- Combine two lanes of which one may hold no value. -/
def laneComb {α : Type} (op : α → α → α) (a b : Option α) : Option α :=
  match a, b with
  | some x, some y => some (op x y)
  | some x, none => some x
  | none, y => y

/-- The tree step of R187 from lanes of `2 ^ n` positions. -/
def treeFold {α : Type} (op : α → α → α) : Nat → List (Option α) → Option α
  | 0, p => p.head?.join
  | n + 1, p => treeFold op n ((List.range (2 ^ n)).map fun i => laneComb op (p.getD i none) (p.getD (i + 2 ^ n) none))

/-- A row reduction in the order of R187: 256 strided partials, then the tree. Positions without a value take no part. -/
def rowReduce {α : Type} (op : α → α → α) (v : List (Option α)) : Option α :=
  treeFold op 8 ((List.range 256).map fun i =>
    ((List.range (ceilDiv (v.length - i) 256)).map fun t => v.getD (i + 256 * t) none).foldl (laneComb op) none)

/-- Integer sum in INT64 (R187, R92). -/
def iAdd64 (ar : Arith) (a b : Flagged) : Flagged :=
  let r := accInt 64 ar.sat a.1.toInt b.1.toInt
  (Num.ofInt r.1, a.2 ||| b.2 ||| r.2)

/-- MAX or MIN of flagged values. -/
def fMinMax (isMax : Bool) (a b : Flagged) : Flagged := (minNum isMax a.1 b.1, a.2 ||| b.2)

/-- The lowest index of the extreme, NaN ignored (R187): index and value. -/
def argExt (isMax : Bool) (xs : List Num) : Nat × Num :=
  xs.zipIdx.foldl (fun best e =>
    if e.1.isNan then best
    else if best.2.isNan || (if isMax then Num.lt best.2 e.1 else Num.lt e.1 best.2) then (e.2, e.1) else best) (0, .nan)

/-- The value of one VX_REDUCE row, before its conversion to O, its index, and the flags (R187). -/
def reduceRow (rop : Nat) (ar : Arith) (isInt : Bool) (xs : List Flagged) : Flagged × Nat :=
  let n := Num.ofInt xs.length
  let add := if isInt then iAdd64 ar else fAdd ar
  let red (op : Flagged → Flagged → Flagged) (l : List Flagged) : Flagged := (rowReduce op (l.map some)).getD (.zero, 0)
  match rop with
  | 0 => (red add xs, 0)
  | 1 => (red add (xs.map fun x => if isInt then iAdd64 ar (.zero, 0) ((mulNum x.1 x.1).1, x.2) else fMul ar x x), 0)
  | 2 => (red (fMinMax true) xs, 0)
  | 3 => (red (fMinMax false) xs, 0)
  | 4 => let r := argExt true (xs.map Prod.fst); ((r.2, xs.foldl (fun k x => k ||| x.2) 0), r.1)
  | 5 => let r := argExt false (xs.map Prod.fst); ((r.2, xs.foldl (fun k x => k ||| x.2) 0), r.1)
  | 6 =>
    let s := red add xs
    let q := divNum s.1 n
    ((q.1, s.2 ||| q.2), 0)
  | _ =>
    let m := red (fMinMax true) xs
    let s := red (fAdd ar) (xs.map fun x => fApprox 0x0E ar (fSub ar x m))
    (fAdd ar m (fApprox 0x10 ar s), 0)

/-- VX_REDUCE (R187). -/
def vxReduce (g : Nat) (img d : List Byte) (c : Ctx) (s : State) : VxOut × State :=
  let x := vxBody img d
  let ar := arithOf (dArith d)
  let rop := fieldAt d 0x60 3 0
  let isInt := optTy x.x != .f32
  let scale : Flagged := decFloat fp32 ar.ftz (fieldAt d 0x64 31 0)
  vxRows x (fun r s =>
    let a := vxOptRow g img c x.x x.cols r ar s
    let bad := a.1.1.any Prod.snd
    let xs : List Flagged := a.1.1.map fun e => if isInt then (e.1, 0) else fMul ar (e.1, 0) scale
    let v := reduceRow rop ar isInt xs
    let cls := if isInt && rop != 6 && rop != 7 then NumClass.int else .float
    let w := vxOptPut g img c x.o x.cols x.seg x.segPitch r ar [(v.1.1, bad)] cls a.2
    let w2 := vxOptPut g img c x.o2 x.cols 0 0 r ar [(Num.ofInt v.2, bad)] .int w.2
    ((a.1.2 ||| v.1.2 ||| w.1 ||| w2.1, bad), w2.2)) s

/-- VX_SOFTMAX of one row: values before conversion, with flags; no flags where no element is kept (R188). -/
def softmaxRow (ar : Arith) (log causal : Bool) (off : Int) (scale : Flagged) (r : Nat) (xs : List Num) (keep : List Bool) :
    List Num × Option Nat :=
  let kept (j : Nat) : Bool := keep.getD j true && (!causal || (j : Int) ≤ r + off)
  let empty : Num := if log then .inf true else .zero
  let v : List (Option Flagged) := xs.zipIdx.map fun e => if kept e.2 then some (fMul ar (e.1, 0) scale) else none
  match rowReduce (fMinMax true) v with
  | none => (xs.map fun _ => empty, none)
  | some m =>
    let sub := v.map fun o => o.map fun x => fSub ar x m
    let es := sub.map fun o => o.map (fApprox 0x0E ar)
    let sum := (rowReduce (fAdd ar) es).getD (.zero, 0)
    let lg := fApprox 0x10 ar sum
    let outs : List Flagged := (sub.zip es).map fun p =>
      match p.1, p.2 with
      | some a, some e =>
        let q := if log then addNum ar.round a.1 lg.1.negate else divNum e.1 sum.1
        (q.1, q.2 ||| (if log then lg.2 ||| a.2 else sum.2 ||| e.2))
      | _, _ => (empty, 0)
    (outs.map Prod.fst, some (outs.foldl (fun k o => k ||| o.2) 0))

/-- VX_SOFTMAX (R188). -/
def vxSoftmax (g : Nat) (img d : List Byte) (c : Ctx) (s : State) : VxOut × State :=
  let x := vxBody img d
  let ar := arithOf (dArith d)
  vxRows x (fun r s =>
    let a := vxOptRow g img c x.x x.cols r ar s
    let y := vxOptRow g img c x.y x.cols r ar a.2
    let bad := a.1.1.any Prod.snd || y.1.1.any Prod.snd
    let v := softmaxRow ar (fieldAt d 0x64 1 1 = 1) (fieldAt d 0x64 0 0 = 1) (toSigned 32 (fieldAt d 0x68 31 0))
      (decFloat fp32 ar.ftz (fieldAt d 0x60 31 0)) r (a.1.1.map Prod.fst) (y.1.1.map fun e => !e.1.neg)
    let w := vxOptPut g img c x.o x.cols x.seg x.segPitch r ar (v.1.map fun n => (n, bad)) .float y.2
    ((v.2.elim 0 fun ex => a.1.2 ||| y.1.2 ||| ex ||| w.1, bad), w.2)) s

/-- VX_NORM of one row (R189). -/
def normRow (ar : Arith) (rms : Bool) (eps : Flagged) (xs gamma beta : List Num) : List Num × Nat :=
  let n : Flagged := (Num.ofInt xs.length, 0)
  let sum (l : List Flagged) : Flagged := (rowReduce (fAdd ar) (l.map some)).getD (.zero, 0)
  let v : List Flagged := xs.map fun x => (x, 0)
  let mu := if rms then (Num.zero, 0) else fDiv ar (sum v) n
  let ds := v.map fun x => fSub ar x mu
  let var := fDiv ar (sum (ds.map fun x => fMul ar x x)) n
  let rs := fApprox 0x0C ar (fAdd ar var eps)
  let outs : List Flagged := ds.zipIdx.map fun e =>
    let t := fMul ar (fMul ar e.1 rs) (gamma.getD e.2 (.fin false 1 0), 0)
    let q := addNum ar.round t.1 (beta.getD e.2 .zero)
    (q.1, t.2 ||| q.2)
  (outs.map Prod.fst, outs.foldl (fun k o => k ||| o.2) rs.2)

/-- VX_NORM (R189). -/
def vxNorm (g : Nat) (img d : List Byte) (c : Ctx) (s : State) : VxOut × State :=
  let x := vxBody img d
  let ar := arithOf (dArith d)
  vxRows x (fun r s =>
    let a := vxOptRow g img c x.x x.cols r ar s
    let y := vxOptRow g img c x.y x.cols r ar a.2
    let z := vxOptRow g img c x.z x.cols r ar y.2
    let bad := (a.1.1 ++ y.1.1 ++ z.1.1).any Prod.snd
    let v := normRow ar (fieldAt d 0x60 0 0 = 1) (decFloat fp32 ar.ftz (fieldAt d 0x64 31 0)) (a.1.1.map Prod.fst)
      (y.1.1.map Prod.fst) (z.1.1.map Prod.fst)
    let w := vxOptPut g img c x.o x.cols x.seg x.segPitch r ar (v.1.map fun n => (n, bad)) .float z.2
    ((a.1.2 ||| y.1.2 ||| z.1.2 ||| v.2 ||| w.1, bad), w.2)) s

/-- The sort order of R85: NaN above +∞, −0 equal to +0; `x` strictly below `y`. -/
def sortLt (x y : Num) : Bool := if y.isNan then !x.isNan else if x.isNan then false else Num.lt x y

/-- Put an element behind those that it is not strictly before. -/
def sortIns {α : Type} (before : α → α → Bool) (x : α) : List α → List α
  | [] => [x]
  | y :: ys => if before x y then x :: y :: ys else y :: sortIns before x ys

/-- Stable sort. -/
def sortStable {α : Type} (before : α → α → Bool) (xs : List α) : List α := xs.foldl (fun l x => sortIns before x l) []

/-- A row ranked by R190: values with their source index, ascending or descending, ties by index. -/
def ranked (desc : Bool) (xs : List Num) : List (Num × Nat) :=
  sortStable (fun a b => if desc then sortLt b.1 a.1 else sortLt a.1 b.1) xs.zipIdx

/-- VX_SORT (R190). -/
def vxSort (g : Nat) (img d : List Byte) (c : Ctx) (s : State) : VxOut × State :=
  let x := vxBody img d
  let ar := arithOf (dArith d)
  vxRows x (fun r s =>
    let a := vxOptRow g img c x.x x.cols r ar s
    let bad := a.1.1.any Prod.snd
    let v := ranked (fieldAt d 0x60 0 0 = 1) (a.1.1.map Prod.fst)
    let w := vxOptPut g img c x.o x.cols x.seg x.segPitch r ar (v.map fun e => (e.1, bad)) (optTy x.x).cls a.2
    let w2 := vxOptPut g img c x.o2 x.cols 0 0 r ar (v.map fun e => (Num.ofInt e.2, bad)) .int w.2
    ((a.1.2 ||| w.1 ||| w2.1, bad), w2.2)) s

/-- The value that pads an output of a format: the canonical NaN, or 0 where there is none (R191). -/
def padNum (fmt : Nat) : Num :=
  match floatFmt (fmtCode fmt) with
  | some f => if f.nan.isSome || fmtMx fmt then .nan else .zero
  | none => .zero

/-- The first `k` of the ranked row, the rest padded (R191). -/
def topkRow (k : Nat) (smallest noNan : Bool) (xs : List Num) : List (Option (Num × Nat)) :=
  let r := (ranked (!smallest) xs).filter fun e => !(noNan && e.1.isNan)
  (List.range k).map fun i => r[i]?

/-- The index, or the id at it (R191, R192). -/
def idOf (ids : List Num) (i : Nat) : Num := if ids.isEmpty then Num.ofInt i else ids.getD i .zero

/-- VX_TOPK (R191). -/
def vxTopk (g : Nat) (img d : List Byte) (c : Ctx) (s : State) : VxOut × State :=
  let x := vxBody img d
  let ar := arithOf (dArith d)
  let pad := (x.o.map fun o => padNum o.t.fmt).getD .zero
  vxRows x (fun r s =>
    let a := vxOptRow g img c x.x x.cols r ar s
    let y := vxOptRow g img c x.y x.cols r ar a.2
    let bad := (a.1.1 ++ y.1.1).any Prod.snd
    let v := topkRow (fieldAt d 0x60 12 0) (fieldAt d 0x60 16 16 = 1) (fieldAt d 0x60 17 17 = 1) (a.1.1.map Prod.fst)
    let w := vxOptPut g img c x.o x.cols x.seg x.segPitch r ar (v.map fun e => ((e.map Prod.fst).getD pad, bad)) (optTy x.x).cls y.2
    let ids := y.1.1.map Prod.fst
    let w2 := vxOptPut g img c x.o2 x.cols 0 0 r ar (v.map fun e => ((e.map fun p => idOf ids p.2).getD (Num.ofInt (-1)), bad)) .int w.2
    ((a.1.2 ||| y.1.2 ||| w.1 ||| w2.1, bad), w2.2)) s

/-- A value meets the condition against the threshold (R192). -/
def selCond (cond : Nat) (x t : Num) : Bool :=
  match cond, cmpNum x t with
  | 0, some .gt => true
  | 1, some .gt | 1, some .eq => true
  | 2, some .lt => true
  | 3, some .lt | 3, some .eq => true
  | _, _ => false

/-- VX_SELECT (R192). -/
def vxSelect (g : Nat) (img d : List Byte) (c : Ctx) (s : State) : VxOut × State :=
  let x := vxBody img d
  let ar := arithOf (dArith d)
  let th : Flagged := if optTy x.x = .f32 then decFloat fp32 ar.ftz (fieldAt d 0x64 31 0) else (Num.ofInt (toSigned 64 (fieldAt d 0x64 63 0)), 0)
  vxRows x (fun r s =>
    let a := vxOptRow g img c x.x x.cols r ar s
    let y := vxOptRow g img c x.y x.cols r ar a.2
    let bad := (a.1.1 ++ y.1.1).any Prod.snd
    let hit := (a.1.1.zipIdx.filter fun e => selCond (fieldAt d 0x60 2 0) e.1.1 th.1).map fun e => idOf (y.1.1.map Prod.fst) e.2
    let w := vxOptPut g img c x.o x.cols x.seg x.segPitch r ar ((hit.take (fieldAt d 0x6C 24 0)).map fun e => (e, bad)) .int y.2
    let w2 := vxOptPut g img c x.o2 x.cols 0 0 r ar [(Num.ofInt hit.length, bad)] .int w.2
    ((th.2 ||| a.1.2 ||| y.1.2 ||| w.1 ||| w2.1, bad), w2.2)) s

/-- One round of Philox4x32 on (counter words, key words). -/
def philoxRound (x : List Nat × Nat × Nat) : List Nat × Nat × Nat :=
  let p0 := 0xD2511F53 * x.1.getD 0 0
  let p1 := 0xCD9E8D57 * x.1.getD 2 0
  ([(p1 / 2 ^ 32) ^^^ x.1.getD 1 0 ^^^ x.2.1, p1 % 2 ^ 32, (p0 / 2 ^ 32) ^^^ x.1.getD 3 0 ^^^ x.2.2, p0 % 2 ^ 32],
    (x.2.1 + 0x9E3779B9) % 2 ^ 32, (x.2.2 + 0xBB67AE85) % 2 ^ 32)

/-- Word 0 of Philox4x32-10 with key (`seed`, 0) and counter (`ctr`, 0, 0, 0) (R193). -/
def philox (seed ctr : Nat) : Nat :=
  ((List.range 10).foldl (fun x _ => philoxRound x) ([ctr, 0, 0, 0], seed, 0)).1.getD 0 0

/-- Running FP32 sums of a list. -/
def runSums (ar : Arith) : Flagged → List Flagged → List Flagged
  | _, [] => []
  | a, x :: xs => let t := fAdd ar a x; t :: runSums ar t xs

/-- The draw of one row (R193): the token index, or none when the row has no candidate; the second is false when the
draw finds no candidate (log entry 31). -/
def sampleRow (ar : Arith) (temp topP : Flagged) (topK seed ctr : Nat) (xs : List Num) : (Option Nat × Bool) × Nat :=
  let cand : List (Num × Nat) :=
    if topK = 0 then xs.zipIdx.filter fun e => !e.1.isNan
    else (topkRow topK false true xs).filterMap id
  match cand with
  | [] => ((none, true), exNV)
  | first :: _ =>
    let top := cand.foldl (fun b e => if Num.lt b.1 e.1 then e else b) first
    if temp.1.isZero then ((some top.2, true), temp.2)
    else
      let ws : List Flagged := cand.map fun e => fApprox 0x0E ar (fDiv ar (fSub ar (e.1, 0) (top.1, 0)) temp)
      let sums := runSums ar (.zero, 0) ws
      let total := (sums.getLast?).getD (.zero, 0)
      let lim := fMul ar topP total
      let cut := (sums.takeWhile fun t => Num.lt t.1 lim.1).length + 1
      let kept := sums.take cut
      let sum := (kept.getLast?).getD (.zero, 0)
      let u : Num := .fin false (philox seed ctr / 2 ^ 8) (-24)
      let goal := fMul ar (u, 0) sum
      let ex := ws.foldl (fun k w => k ||| w.2) (total.2 ||| lim.2 ||| goal.2)
      match (kept.zip cand).find? fun p => Num.lt goal.1 p.1.1 with
      | some p => ((some p.2.2, true), ex)
      | none => ((none, false), ex)

/-- VX_SAMPLE (R193). -/
def vxSample (g : Nat) (img d : List Byte) (c : Ctx) (s : State) : VxOut × State :=
  let x := vxBody img d
  let ar := arithOf (dArith d)
  let f (off : Nat) : Flagged := decFloat fp32 ar.ftz (fieldAt d off 31 0)
  vxRows x (fun r s =>
    let a := vxOptRow g img c x.x x.cols r ar s
    let bad := a.1.1.any Prod.snd
    let v := sampleRow ar (f 0x60) (f 0x64) (fieldAt d 0x68 12 0) (fieldAt d 0x6C 31 0) ((fieldAt d 0x70 31 0 + r) % 2 ^ 32) (a.1.1.map Prod.fst)
    let free := toSigned 32 (freshVal a.2)
    let s := if v.1.2 then a.2 else freshNext a.2
    let tok : Int := if v.1.2 then (v.1.1.map Int.ofNat).getD (-1) else free
    let w := vxOptPut g img c x.o x.cols x.seg x.segPitch r ar [(Num.ofInt tok, bad)] .int s
    ((a.1.2 ||| v.2 ||| w.1, bad), w.2)) s

/-- The magnitude of a − b; none when it is no number. -/
def distNum (a b : Num) : Num := ((addNum 0 a b.negate).1).withSign false

/-- The lowest index of the least distance (R89). -/
def nearest (ds : List Num) : Nat :=
  (ds.zipIdx.foldl (fun best e => if best.1.isNan || Num.lt e.1 best.1 then e else best) (ds.headD .nan, 0)).2

/-- One CB4 block: its codebook bytes and the indices of its elements (R89). A NaN element's index is not stated: free. -/
def encCb4 (book : List (Byte × Bool)) (xs : List Num) (s : State) : (List Nat × Nat) × State :=
  let es := (List.range 16).map fun i => (decode 0x03 false (leNat ((book.map Prod.fst |>.drop (2 * i)).take 2))).1
  xs.foldl (fun r x =>
    if x.isNan then ((r.1.1 ++ [freshVal r.2 % 16], r.1.2 ||| exNL), freshNext r.2)
    else ((r.1.1 ++ [nearest (es.map (distNum x))], r.1.2 ||| (if x.isInf then exNL else 0)), r.2)) (([], 0), s)

/-- One CB2 row of 64 elements: its FP16 scale, indices and flags (R89). -/
def encCb2 (book : Nat) (xs : List Num) : Nat × List Nat × Nat :=
  let es := (List.range 4).map fun i => (decode 0x02 false (bits book (16 * i + 15) (16 * i))).1
  if xs.any Num.isNan then (0x7E00, xs.map fun _ => 0, exNL)
  else
    let top (l : List Num) : Num := l.foldl (fun b x => if Num.lt b (x.withSign false) then x.withSign false else b) .zero
    let q := divNum (top xs) (top es)
    let sc := (floatFmt 0x02).elim (0, 0) fun f => encFloat f {} q.1
    let sv := (decode 0x02 false sc.1).1
    if sv.isZero then (sc.1, xs.map fun _ => 0, q.2 ||| sc.2)
    else (sc.1, xs.map fun x => nearest (es.map fun e => distNum x (mulNum e sv).1), q.2 ||| sc.2)

/-- Squared Euclidean distance in FP32, in rising order (R89). -/
def sqDist (xs : List Num) (cs : List Flagged) : Flagged :=
  (xs.zip cs).foldl (fun acc p => let d := fSub {} (p.1, 0) p.2; fAdd {} acc (fMul {} d d)) (.zero, 0)

/-- Bytes of the table that operand Y holds: the block codebooks, or the centroids (R194). -/
def encTab (g : Nat) (c : Ctx) (x : VxBody) (off n : Nat) (s : State) : List (Byte × Bool) × State :=
  match x.y with
  | some o =>
    let at_ := spAddr c o.t + o.off + off
    readSec g at_ n (takeSlots .engine g (spLines at_ n).length s)
  | none => ([], s)

/-- VX_CONVERT ENCODE of one row into a codebook or code format (R89, R194): the packed bytes, the marks of elements, and
the flags. -/
def encodeRow (g : Nat) (d : List Byte) (c : Ctx) (x : VxBody) (code book r : Nat) (ftz : Bool) (xs : List Elem) (s : State) :
    (List Byte × Bool × Nat) × State :=
  let ns := xs.map Prod.fst
  match code with
  | 0x10 =>
    let per := ceilDiv x.cols 1024
    (chunks 1024 per ns).zipIdx.foldl (fun acc b =>
      let y := encTab g c x ((r * per + b.2) * 32) 32 acc.2
      let e := encCb4 y.1 b.1 y.2
      ((acc.1.1 ++ y.1.map Prod.fst ++ leBytes 512 (packBits 4 e.1.1), acc.1.2.1 || y.1.any Prod.snd, acc.1.2.2 ||| e.1.2), e.2))
      (([], false, 0), s)
  | 0x11 =>
    let rows := (chunks 64 (ceilDiv x.cols 64) ns).map (encCb2 book)
    let bytes := (chunks 16 (ceilDiv rows.length 16) rows).flatMap fun t =>
      leBytes 256 (packBits 2 (t.flatMap fun e => e.2.1 ++ List.replicate (64 - e.2.1.length) 0)) ++ leBytes 32 (packBits 16 (t.map Prod.fst))
    ((bytes, false, rows.foldl (fun k e => k ||| e.2.2) 0), s)
  | _ =>
    let m := fieldAt d 0x64 7 0
    let dim := x.cols / m
    let y := encTab g c x 0 (16 * x.cols * 4) s
    let cent (i : Nat) : Flagged := decFloat fp32 ftz (leNat (((y.1.map Prod.fst).drop (4 * i)).take 4))
    let codes := (List.range m).map fun k =>
      let ds := (List.range 16).map fun q => sqDist ((ns.drop (k * dim)).take dim) ((List.range dim).map fun t => cent ((k * 16 + q) * dim + t))
      (nearest (ds.map Prod.fst), ds.foldl (fun e q => e ||| q.2) 0)
    ((leBytes (packedBytes 0x0F m) (packBits 4 (codes.map Prod.fst)), y.1.any Prod.snd, codes.foldl (fun e q => e ||| q.2) 0), y.2)

/-- VX_CONVERT (R194). The marks of an encoded row cover all of it: a codebook's elements share their block. -/
def vxConvert (g : Nat) (img d : List Byte) (c : Ctx) (s : State) : VxOut × State :=
  let x := vxBody img d
  let ar := arithOf (dArith d)
  vxRows x (fun r s =>
    let a := vxOptRow g img c x.x x.cols r ar s
    if fieldAt d 0x60 1 0 = 1 then
      match x.o with
      | none => ((a.1.2, false), a.2)
      | some o =>
        let code := fmtCode o.t.fmt
        let e := encodeRow g d c x code o.t.codebook r ar.ftz a.1.1 a.2
        let spans := rowSpans code (if code = 0x0F then fieldAt d 0x64 7 0 else x.cols)
        let bad := a.1.1.any Prod.snd || e.1.2.1
        ((a.1.2 ||| e.1.2.2, bad),
          putRow g (cutRuns spans (rowRuns (spAddr c o.t + o.off + r * o.pitch) x.seg x.segPitch e.1.1.length)) e.1.1 (fun _ => bad) e.2)
    else
      let w := vxOptPut g img c x.o x.cols x.seg x.segPitch r ar a.1.1 (optTy x.x).cls a.2
      ((a.1.2 ||| w.1, a.1.1.any Prod.snd), w.2)) s

/-- Run the oldest started vector descriptor of one type (R181, R195). -/
def vxRun (core ctx type : Nat) (f : Nat → List Byte → List Byte → Ctx → State → VxOut × State) (s : State) : State :=
  match currentWork s core ctx qVx [type] with
  | none => s
  | some w =>
    let r := f core (ctxImage s core ctx) w.img (ctxAt s (ctxId core ctx)) s
    endWork core ctx qVx w.k (poisonStat r.1.2) r.1.1 0 r.2

/-- VX_MAP. -/
def execVxMap (core ctx : Nat) (s : State) : Result := .next (vxRun core ctx 0x40 vxMap s)
/-- VX_REDUCE. -/
def execVxReduce (core ctx : Nat) (s : State) : Result := .next (vxRun core ctx 0x41 vxReduce s)
/-- VX_SOFTMAX. -/
def execVxSoftmax (core ctx : Nat) (s : State) : Result := .next (vxRun core ctx 0x42 vxSoftmax s)
/-- VX_NORM. -/
def execVxNorm (core ctx : Nat) (s : State) : Result := .next (vxRun core ctx 0x43 vxNorm s)
/-- VX_SORT. -/
def execVxSort (core ctx : Nat) (s : State) : Result := .next (vxRun core ctx 0x44 vxSort s)
/-- VX_TOPK. -/
def execVxTopk (core ctx : Nat) (s : State) : Result := .next (vxRun core ctx 0x45 vxTopk s)
/-- VX_SAMPLE. -/
def execVxSample (core ctx : Nat) (s : State) : Result := .next (vxRun core ctx 0x46 vxSample s)
/-- VX_CONVERT. -/
def execVxConvert (core ctx : Nat) (s : State) : Result := .next (vxRun core ctx 0x47 vxConvert s)
/-- VX_SELECT. -/
def execVxSelect (core ctx : Nat) (s : State) : Result := .next (vxRun core ctx 0x48 vxSelect s)

end Sys2Proof.Machine
end

