-- ==== Sys2Proof/Machine/Manifest.lean ====
section
/-!
DEFINITION. A manifest image as the verifier sees it (R99-R108): its findings' layout (R166), its descriptors in their places, the
types of R108, the bits that each body uses, the accesses whose spans follow from descriptor fields (R162), and the needs that the
loader records for run start (R129, R205).
-/

namespace Sys2Proof.Machine

/-- A finding (R166): CODE, TABLE, CYCLE, INDEX, IMAGE_OFF, QUEUE, VCTX, WAYBILL, ARG_0 and ARG_1. -/
structure Finding where
  code : Nat := 0
  table : Nat := 0
  cycle : Bool := false
  index : Nat := 0
  off : Nat := 0xFFFFFFFF
  queue : Nat := 0
  vctx : Nat := 0
  wb : Nat := 0
  arg0 : Nat := 0
  arg1 : Nat := 0
deriving DecidableEq, Repr

/-- The 32 bytes of a finding (R166). -/
def Finding.toBytes (f : Finding) : List Byte :=
  leBytes 4 (f.code + f.table * 2 ^ 8 + (if f.cycle then 2 ^ 12 else 0) + f.index % 2 ^ 16 * 2 ^ 16)
    ++ leBytes 4 f.off ++ leBytes 4 (f.queue + f.vctx * 2 ^ 3 + f.wb % 2 ^ 16 * 2 ^ 16) ++ leBytes 4 f.arg0 ++ leBytes 4 f.arg1
    ++ leBytes 12 0

/-- A finding when a check fails. -/
def unless_ (ok : Bool) (f : Finding) : List Finding := if ok then [] else [f]

/-- The bits of a 32-bit word outside `used`. -/
def unusedBits (v used : Nat) : Nat := v - (v &&& used)

/-- RESERVED_NONZERO findings of a table entry at `off`, one per word with a reserved bit set; `words` lists (word, used bits). -/
def reservedIn (table index off : Nat) (e : List Byte) (words : List (Nat × Nat)) : List Finding :=
  words.flatMap fun w =>
    let v := unusedBits (fieldAt e w.1 31 0) w.2
    unless_ (v = 0) { code := 0x08, table := table, index := index, off := off + w.1, arg0 := v }

/-- All bits of a word. -/
abbrev allBits : Nat := 0xFFFFFFFF

/-- A format word that R72 allows. -/
def fmtLegal (fmt : Nat) : Bool :=
  1 ≤ fmt % 256 && fmt % 256 ≤ 0x12 && fmt / 512 = 0 && (!fmtMx fmt || [0x04, 0x05, 0x06, 0x07, 0x08, 0x0B].contains (fmt % 256))

/-- A descriptor in its place: its virtual core, context and queue, its run-relative waybill, its image offset and its bytes. -/
structure Placed where
  vcore : Nat := 0
  vctx : Nat := 0
  q : Nat := 0
  k : Nat := 0
  off : Nat := 0
  img : List Byte := []
deriving DecidableEq, Repr

/-- Slots of the descriptor (R107). -/
def dSlots (d : List Byte) : Nat := fieldAt d 0 12 11 + 1

/-- `n` descriptors from byte `off`, the first being the k-th. -/
def placedFrom (img : List Byte) (t : Stream) : Nat → Nat → Nat → List Placed
  | 0, _, _ => []
  | n + 1, k, off =>
    let d := slice img off (64 * dSlots (slice img off 64))
    ⟨t.vcore, t.vctx, t.q, k, off, d⟩ :: placedFrom img t n (k + 1) (off + d.length)

/-- The descriptors of a stream. -/
def streamPlaced (img : List Byte) (t : Stream) : List Placed := placedFrom img t t.descs 1 t.off

/-- The descriptors of the image. -/
def imgPlaced (img : List Byte) : List Placed := (imgStreams img).flatMap (streamPlaced img)

/-- A finding about field [hi:lo] of the word at byte `o` of the descriptor, whose value is `v`. -/
def Placed.fnd (d : Placed) (code o lo v : Nat) : Finding :=
  { code := code, table := 6, index := d.vcore, off := d.off + o + lo / 8, queue := d.q, vctx := d.vctx, wb := d.k, arg0 := v % 2 ^ 32 }

/-- A finding about the descriptor as a whole. -/
def Placed.whole (d : Placed) (code arg0 arg1 : Nat) : Finding :=
  { code := code, table := 6, index := d.vcore, queue := d.q, vctx := d.vctx, wb := d.k, arg0 := arg0, arg1 := min arg1 0xFFFFFFFF }

/-- A field of the descriptor. -/
abbrev Placed.f (d : Placed) (o hi lo : Nat) : Nat := fieldAt d.img o hi lo

/-- DESC_FIELD unless the field's value passes. -/
def Placed.chk (d : Placed) (o hi lo : Nat) (ok : Nat → Bool) : List Finding :=
  unless_ (ok (d.f o hi lo)) (d.fnd 0x0E o lo (d.f o hi lo))

/-- FORMAT_ROLE unless the field's value passes. -/
def Placed.role (d : Placed) (o hi lo : Nat) (ok : Nat → Bool) : List Finding :=
  unless_ (ok (d.f o hi lo)) (d.fnd 0x0A o lo (d.f o hi lo))

/-- The queue of a type (8: any) and its SIZE; none when reserved (R108, R109, R138, R180, R182, R218, R275, R304, R323). -/
def typeOf (t : Nat) : Option (Nat × Nat) :=
  if 0x01 ≤ t && t ≤ 0x04 then some (8, 0)
  else if t = 0x10 || t = 0x11 then some (7, 0)
  else if 0x20 ≤ t && t ≤ 0x28 then some (6, 0)
  else if t = 0x30 then some (0, 1)
  else if 0x40 ≤ t && t ≤ 0x48 then some (1, 1)
  else if t = 0x60 then some (2, 2)
  else if 0x64 ≤ t && t ≤ 0x66 then some (2, 1)
  else if t = 0x68 then some (3, 2)
  else if t = 0x70 || t = 0x71 then some (4, 2)
  else if (0x80 ≤ t && t ≤ 0x83) || t = 0x90 then some (5, 1)
  else none

/-- Whole words from byte `a` up to byte `b`. -/
def wholeWords (a b : Nat) : List (Nat × Nat) := (List.range ((b - a) / 4)).map fun i => (a + 4 * i, allBits)

/-- The body bits that a type uses, by word: every other body bit is reserved (R109, R138, R180, R182, R184, R221, R276, R304,
R324). The 0x14 word of CTX_BIND is used as its SRC says. -/
def bodyUsed (d : List Byte) : List (Nat × Nat) :=
  let vx := wholeWords 0x10 0x18 ++ [(0x18, 0xFFFFF)] ++ wholeWords 0x1C 0x24 ++ [(0x24, 0x7FFFF), (0x28, 0x1FFFFFF), (0x2C, 0x1FFFFFF)]
    ++ wholeWords 0x30 0x58 ++ [(0x58, 0xFFFFFF), (0x5C, allBits)]
  let t := dType d
  match t with
  | 0x02 => (wholeWords 0x10 0x30).map fun w => (w.1, 0xFFFFF)
  | 0x03 => [(0x10, 0xFFF)]
  | 0x10 => [(0x10, 3), (0x14, if fieldAt d 0x10 1 0 = 1 then 0xF else allBits), (0x18, 3)]
  | 0x11 => [(0x10, allBits)]
  | 0x20 | 0x21 => [(0x10, 0x1FFF), (0x14, 3)]
  | 0x22 => [(0x10, 0x1FFF), (0x14, 3), (0x18, allBits), (0x1C, 0xFFFFFF)]
  | 0x23 => [(0x10, 0x1FFF), (0x14, 3), (0x18, allBits)]
  | 0x24 => [(0x10, 0x1FFF), (0x14, 0x11FFF), (0x18, 0x0FFF0FFF)]
  | 0x25 => [(0x10, 0x1FFF), (0x14, 1)]
  | 0x26 => [(0x10, 0x1FFF), (0x14, 0xFFFF)]
  | 0x27 => [(0x10, 0x7FFF), (0x14, 0x7FFF), (0x18, allBits), (0x1C, 0xFFFFF)]
  | 0x28 => [(0x10, 0x3F), (0x14, allBits)]
  | 0x30 => wholeWords 0x10 0x18 ++ [(0x18, 0x3FFFF), (0x1C, allBits), (0x20, 0xFFFF), (0x24, 0x1FFFF), (0x28, 0x1FFFF), (0x2C, 0x1FFFFF)]
      ++ wholeWords 0x30 0x4C ++ [(0x4C, 0x1FFF)] ++ wholeWords 0x50 0x5C
  | 0x40 => vx ++ (wholeWords 0x60 0x78).map (fun w => (w.1, 0x1FFFFF)) ++ wholeWords 0x78 0x80
  | 0x41 => vx ++ [(0x60, 0xF), (0x64, allBits)]
  | 0x42 => vx ++ [(0x60, allBits), (0x64, 3), (0x68, allBits)]
  | 0x43 => vx ++ [(0x60, 1), (0x64, allBits)]
  | 0x44 => vx ++ [(0x60, 1)]
  | 0x45 => vx ++ [(0x60, 0x31FFF)]
  | 0x46 => vx ++ [(0x60, allBits), (0x64, allBits), (0x68, 0x1FFF), (0x6C, allBits), (0x70, allBits)]
  | 0x47 => vx ++ [(0x60, 3), (0x64, 0xFF)]
  | 0x48 => vx ++ [(0x60, 7), (0x64, allBits), (0x68, allBits), (0x6C, 0x1FFFFFF)]
  | 0x60 | 0x68 | 0x70 | 0x71 => [(0x10, allBits), (0x14, 0xFFFFF), (0x18, 0xFFF), (0x1C, 0x1FFFFFF)] ++ wholeWords 0x20 0x30
      ++ (wholeWords 0x30 0x48).map (fun w => (w.1, 0x1FFFFFF)) ++ wholeWords 0x48 0x60
      ++ (wholeWords 0x60 0x88).map (fun w => (w.1, if w.1 % 8 = 0 then allBits else 0xFFFF))
      ++ wholeWords 0x88 0xA0 ++ [(0xA0, 0xFF), (0xA4, 0x0F7FFFFF), (0xA8, allBits)]
  | 0x64 | 0x65 | 0x66 => [(0x10, allBits), (0x14, 0x1FFFFFF), (0x18, 0x7FFF), (0x1C, 0x1FFFFFF), (0x20, allBits), (0x24, allBits),
      (0x28, 0x1FFFFFFF)]
  | 0x80 | 0x81 | 0x82 | 0x83 => [(0x10, 0xFF)] ++ wholeWords 0x14 0x2C ++ [(0x2C, 0x1FFFFFF), (0x30, 0xFFFFFF), (0x34, allBits),
      (0x38, 0x1FFFFFF), (0x3C, allBits), (0x40, 0xFFFF), (0x44, allBits), (0x48, 0xFFFF)] ++ wholeWords 0x4C 0x58
  | 0x90 => [(0x10, 0xF)] ++ wholeWords 0x14 0x20 ++ [(0x20, 0xFFFF), (0x24, 0x1FFF), (0x28, allBits), (0x2C, allBits)]
  | _ => []

/-- The used bits of one word. -/
def usedAt (words : List (Nat × Nat)) (o : Nat) : Nat := ((words.find? fun w => w.1 = o).map Prod.snd).getD 0

/-- RESERVED_NONZERO findings of a descriptor: of its header words and of its body (R107, R158). -/
def reservedDesc (d : Placed) : List Finding :=
  let words := [(0, 0x00FF7FFF), (4, 0xFFFFF), (8, 0xFFFFF), (0xC, allBits)] ++ bodyUsed d.img
  (List.range (d.img.length / 4)).flatMap fun i =>
    let v := unusedBits (d.f (4 * i) 31 0) (usedAt words (4 * i))
    unless_ (v = 0) (d.fnd 0x08 (4 * i) 0 v)

/-- The tensor of an index, if the table holds it. -/
def tensorAt (img : List Byte) (tid : Nat) : Option Tensor := if tid < imgTensorCount img then some (tensorOf img tid) else none

/-- VCORE of a tensor table entry (R102). -/
def tensorVcore (img : List Byte) (tid : Nat) : Nat := fieldAt (tensorEntry img tid) 4 31 16

/-- The index names a SCRATCH tensor of the virtual core (R169). -/
def scratchOf (img : List Byte) (vcore tid : Nat) : Bool := ((tensorAt img tid).any fun t => t.kind = 1) && tensorVcore img tid = vcore

/-- An access of a descriptor to bytes [lo, hi) of a tensor, counted from the tensor's OFFSET (R162). -/
structure SpanAcc where
  tid : Nat
  write : Bool
  lo : Nat
  hi : Nat
deriving DecidableEq, Repr

/-- An access, and that to the scale tensor of an MX tensor (R537). -/
def spanAccs (img : List Byte) (tid : Nat) (write : Bool) (off len scales : Nat) : List SpanAcc :=
  ⟨tid, write, off, off + len⟩ ::
    (if fmtMx (tensorOf img tid).fmt then [⟨(tensorOf img tid).scaleTid, write, 0, scales⟩] else [])

/-- The accesses of a MATMUL (R176). -/
def mmAccs (img d : List Byte) : List SpanAcc :=
  let x := mmBody img d
  let f := fieldAt d
  let pb (t : Tensor) (n : Nat) := packedBytes (fmtCode t.fmt) n
  let ks := ceilDiv x.k x.kt
  let kb := ceilDiv x.k 32
  spanAccs img (f 0x10 15 0) false x.aOff
      ((x.batch - 1) * x.aBs + (x.m - 1) * x.aPitch + (ks - 1) * x.aKpitch + pb x.a (x.k - (ks - 1) * x.kt)) (x.batch * x.m * kb)
    ++ spanAccs img (f 0x10 31 16) false x.bOff
      ((x.batch - 1) * x.bBs + (if x.nk then (x.n - 1) * x.bPitch + pb x.b x.k else (x.k - 1) * x.bPitch + pb x.b x.n))
      ((if x.bBs = 0 then 1 else x.batch) * x.n * kb)
    ++ ([f 0x14 31 16, f 0x18 15 0].filter (· != 0xFFFF)).flatMap (fun t => spanAccs img t false 0 (4 * x.n) 0)
    ++ spanAccs img (f 0x14 15 0) true x.cOff ((x.batch - 1) * x.cBs + (x.m - 1) * x.cPitch + pb x.c x.n) (x.batch * x.m * ceilDiv x.n 32)

/-- The accesses of a vector descriptor (R182, R537): inputs, then outputs. -/
def vxAccs (img d : List Byte) : List SpanAcc :=
  let x := vxBody img d
  let f := fieldAt d
  let pb (t : Tensor) (n : Nat) := packedBytes (fmtCode t.fmt) n
  let inp (tid : Nat) (o : VxOp) : List SpanAcc :=
    let rows := if o.mode = 1 || o.mode = 3 then 1 else x.rows
    let cols := if 2 ≤ o.mode then 1 else x.cols
    spanAccs img tid false o.off ((rows - 1) * o.pitch + pb o.t cols) ((rows - 1) * ceilDiv x.cols 32 + ceilDiv cols 32)
  let out (tid : Nat) (o : VxOp) (n seg : Nat) : List SpanAcc :=
    let b := pb o.t n
    let len := if seg = 0 then b else (ceilDiv b seg - 1) * x.segPitch + seg
    spanAccs img tid true o.off ((x.rows - 1) * o.pitch + len) ((x.rows - 1) * ceilDiv x.cols 32 + ceilDiv n 32)
  let n := vxOutCols d x
  x.x.toList.flatMap (inp (f 0x10 15 0))
    ++ x.y.toList.flatMap (fun o => if dType d = 0x47 then spanAccs img (f 0x10 31 16) false o.off (encodeTableBytes x) 0 else inp (f 0x10 31 16) o)
    ++ x.z.toList.flatMap (inp (f 0x14 15 0))
    ++ x.o.toList.flatMap (fun o => out (f 0x14 31 16) o n.1 x.seg) ++ x.o2.toList.flatMap (fun o => out (f 0x18 15 0) o n.2 0)

/-- Lowest and highest coordinate of a dimension over the iteration, before its edge (R222). -/
def TmBody.coordRange (x : TmBody) (i : Nat) : Int × Int :=
  let a := x.start.getD i 0
  let b := a + ((x.cnt.getD i 1 : Int) - 1) * x.step.getD i 1
  (min a b, max a b)

/-- Lowest and highest coordinate that a dimension accesses, none where every coordinate is padded or dropped (R223, R224). -/
def TmBody.touched (x : TmBody) (i : Nat) : Option (Nat × Nat) :=
  if x.mem.rank ≤ i then some (0, 0) else
  let e : Int := x.extent i
  let r := x.coordRange i
  match x.edge.getD i 0 with
  | 2 =>
    let st := (x.step.getD i 1).natAbs
    let lo : Int := if 0 ≤ r.1 then r.1 else if st = 0 then r.1 else r.1 + (ceilDiv (-r.1).toNat st * st : Nat)
    let hi : Int := if r.2 < e then r.2 else if st = 0 then r.2 else r.2 - (ceilDiv (r.2 - e + 1).toNat st * st : Nat)
    if 0 ≤ lo ∧ lo ≤ hi ∧ hi < e then some (lo.toNat, hi.toNat) else none
  | 1 => some ((min (max r.1 0) (e - 1)).toNat, (min (max r.2 0) (e - 1)).toNat)
  | _ => some (r.1.toNat, r.2.toNat)

/-- The memory side's access, where its span follows from descriptor fields (R162): not on an indexed dimension. -/
def tmMemAcc (img d : List Byte) : List SpanAcc :=
  let x := tmBody img d
  if dType d = 0x70 || dType d = 0x71 then []
  else
    let dims := (List.range 6).map x.touched
    if dims.any Option.isNone then []
    else
      let pitch (i : Nat) := if i = 0 then x.u else x.memPitch.getD i 0
      let at_ (p : Nat × Nat → Nat) := ((List.range 6).map fun i => pitch i * p ((dims.getD i none).getD (0, 0))).sum
      [⟨fieldAt d 0x10 15 0, dType d = 0x68, at_ Prod.fst, at_ Prod.snd + x.u⟩]

/-- The accesses of a movement descriptor (R222, R226). -/
def tmAccs (img d : List Byte) : List SpanAcc :=
  let x := tmBody img d
  let f := fieldAt d
  let src := dType d = 0x68 || dType d = 0x71
  tmMemAcc img d ++ [⟨f 0x10 31 16, !src, x.spOff, x.spAt (x.cnt.map (· - 1)) + x.u⟩]
    ++ x.mask.toList.map (fun _ => ⟨f 0x14 15 0, true, x.maskOff, x.maskOff + ceilDiv x.iters 8⟩)
    ++ x.idx.toList.map (fun _ => ⟨f 0xA4 15 0, false, x.idxOff, x.idxOff + 4 * x.cnt.getD x.gdim 1⟩)

/-- The accesses of a drover descriptor (R324). -/
def drAccs (d : List Byte) : List SpanAcc :=
  let f := fieldAt d
  (if f 0x10 31 16 = 0xFFFF then [] else [⟨f 0x10 31 16, false, f 0x20 31 0, f 0x20 31 0 + 4 * f 0x1C 24 0⟩])
    ++ (if f 0x14 15 0 = 0xFFFF then [] else [⟨f 0x14 15 0, true, f 0x24 31 0, f 0x24 31 0 + f 0x1C 24 0 * f 0x18 14 0⟩])

/-- The accesses of a Q_BK descriptor (R276, R279, R280, R304); what a bank's share holds of ST_TID is found at run time. -/
def bkAccs (img d : List Byte) : List SpanAcc :=
  let x := bkBody img d
  let n := x.chans.length * x.banks.length
  ⟨fieldAt d 0x1C 31 16, false, x.regOff, x.regOff + bkRegBytes (dType d) x⟩ ::
    (x.out.toList.map fun _ => ⟨fieldAt d 0x20 15 0, true, x.outOff, x.outOff + n * bkRegion (dType d) x⟩)
    ++ (x.stat.toList.map fun _ => ⟨if x.row then fieldAt d 0x20 15 0 else fieldAt d 0x20 31 16, true, x.statOff, x.statOff + 16 * n⟩)

/-- The accesses of a descriptor whose spans follow from its fields (R162). -/
def descAccs (img d : List Byte) : List SpanAcc :=
  let t := dType d
  if t = 0x30 then mmAccs img d
  else if 0x40 ≤ t && t ≤ 0x48 then vxAccs img d
  else if t = 0x60 || t = 0x68 || t = 0x70 || t = 0x71 then tmAccs img d
  else if 0x64 ≤ t && t ≤ 0x66 then drAccs d
  else if (0x80 ≤ t && t ≤ 0x83) || t = 0x90 then bkAccs img d
  else []

/-- A CTR_OP with RET, or a movement with CNT_EN: the end of what it writes in the context's window (R132, R237). -/
def windowEnd (d : List Byte) : Nat :=
  let t := dType d
  if t = 0x22 && fieldAt d 0x14 1 1 = 1 then fieldAt d 0x1C 23 0 + 4
  else if (t = 0x60 || t = 0x68 || t = 0x70 || t = 0x71) && fieldAt d 0x14 19 19 = 1 then fieldAt d 0x1C 24 0 + 16
  else 0

/-- The scratch need of a virtual core (R205). -/
def scratchNeed (img : List Byte) (vcore : Nat) : Nat :=
  let ts := ((List.range (imgTensorCount img)).filter (scratchOf img vcore)).map fun t => (tensorOf img t).offset + (tensorOf img t).bytes
  let ws := ((imgPlaced img).filter fun d => d.vcore = vcore).map fun d => windowEnd d.img
  (ts ++ ws).foldl max 0

/-- The Serai handles that a Q_SY descriptor names: (3 × scope + kind, REL); kind 0 flag, 1 counter, 2 barrier (R129, R137). -/
def handlesOf (d : List Byte) : List (Nat × Nat) :=
  let h := fieldAt d 0x10 31 0
  let dev := bit h 12
  match dType d with
  | 0x20 | 0x21 => [(3 * dev, bits h 11 0)]
  | 0x22 | 0x23 => [(3 * dev + 1, bits h 11 0)]
  | 0x24 => (3 * dev + 2, bits h 11 0) ::
      (if fieldAt d 0x14 16 16 = 1 then [(3 * dev + 1, fieldAt d 0x18 11 0), (3 * dev + 1, fieldAt d 0x18 27 16)] else [])
  | 0x25 | 0x26 => [(3 * dev + 2, bits h 11 0)]
  | _ => []

/-- How many objects of a kind and scope the manifest needs: its highest REL plus 1, or 0 (R129). -/
def relNeed (img : List Byte) (ks : Nat) : Nat :=
  (((imgPlaced img).flatMap fun d => handlesOf d.img).filter fun h => h.1 = ks).foldl (fun m h => max m (h.2 + 1)) 0

end Sys2Proof.Machine
end

