-- ==== Sys2Proof/Machine/VerifyTables.lean ====
section
/-!
DEFINITION. Stages AUTH, HEADER and TABLES of the verifier (R97, R99-R106, R155, R158).
-/

namespace Sys2Proof.Machine

/-- Stage AUTH (R101): the tag over all but the last 64 bytes, with the key that header byte 0x40 names. -/
def authFindings (key : Option (List Byte)) (img : List Byte) : List Finding :=
  let n := img.length
  match key with
  | none => [{ code := 0x02, table := 7, off := 0x40, arg0 := fieldAt img 0x40 7 0 }]
  | some k => unless_ (slice img (n - 64) 48 = hmac384 k (img.take (n - 64))) { code := 0x01, table := 7, off := n - 64 }

/-- A header finding. -/
def headerField (img : List Byte) (code o hi lo : Nat) (ok : Nat → Bool) : List Finding :=
  unless_ (ok (fieldAt img o hi lo)) { code := code, table := 0, off := o + lo / 8, arg0 := fieldAt img o hi lo % 2 ^ 32 }

/-- Stage HEADER (R97, R100, R101); the device implements Leruf 1.0. -/
def headerFindings (img : List Byte) : List Finding :=
  let n := img.length
  let h := headerField img
  h 0x05 0x00 31 0 (· = 0x3146524C) ++ h 0x04 0x04 15 0 (· = 0x0100) ++ h 0x05 0x04 31 16 (· = 128) ++ h 0x05 0x08 31 0 (· = n)
    ++ h 0x05 0x14 15 0 (· ≤ 4096) ++ h 0x05 0x1C 15 0 (fun v => 1 ≤ v && v ≤ 16384) ++ h 0x05 0x24 15 0 (· ≤ 4096)
    ++ h 0x05 0x2C 15 0 (fun v => 1 ≤ v && v ≤ 16448) ++ h 0x05 0x34 15 0 (· ≤ 256) ++ h 0x05 0x38 15 0 (fun v => 1 ≤ v && v ≤ 4096)
    ++ h 0x05 0x38 23 16 (· ≤ 64) ++ h 0x05 0x3C 31 0 (· = n - 64) ++ h 0x05 0x40 7 0 (· ≤ 15) ++ h 0x05 0x40 15 8 (· = 1)
    ++ reservedIn 0 0 0 img ([(0x0C, 1), (0x14, 0xFFFF), (0x1C, 0xFFFF), (0x24, 0xFFFF), (0x2C, 0xFFFF), (0x34, 0xFFFF),
        (0x38, 0xFFFFFF), (0x40, 0xFFFF)] ++ (List.range 7).map fun i => (0x44 + 4 * i, 0))
    ++ (List.range 4).flatMap fun i =>
        unless_ (fieldAt img (n - 16 + 4 * i) 31 0 = 0)
          { code := 0x08, table := 7, off := n - 16 + 4 * i, arg0 := fieldAt img (n - 16 + 4 * i) 31 0 }

/-- A table or stream that occupies image bytes (R99), with the finding that speaks of it. -/
structure Extent where
  start : Nat
  len : Nat
  f : Finding
deriving DecidableEq, Repr

/-- The tables with entries, then the streams. -/
def imgExtents (img : List Byte) : List Extent :=
  let tab (o cnt size : Nat) : List Extent :=
    if cnt = 0 then [] else [⟨imgField img o 31 0, cnt * size, { code := 0x06, table := 0, off := o, arg0 := imgField img o 31 0 }⟩]
  tab 0x10 (imgTensorCount img) 64 ++ tab 0x18 (imgStreamCount img) 32 ++ tab 0x20 (imgBarrierCount img) 16
    ++ tab 0x28 (imgEpochCount img) 16 ++ tab 0x30 (imgCapsCount img) 16
    ++ (List.range (imgStreamCount img)).map fun i =>
        let t := streamOf (streamEntry img i)
        ⟨t.off, 64 * t.slots, { code := 0x06, table := 2, index := i, off := imgField img 0x18 31 0 + 32 * i + 4, arg0 := t.off }⟩

/-- LAYOUT findings (R99): of two that overlap, the later listed one is reported. -/
def layoutFindings (tagOff : Nat) : List Extent → List Extent → List Finding
  | _, [] => []
  | seen, e :: es =>
    unless_ (e.start % 64 = 0 && 128 ≤ e.start && e.start + e.len ≤ tagOff
        && seen.all fun o => o.start + o.len ≤ e.start || e.start + e.len ≤ o.start) e.f
      ++ layoutFindings tagOff (seen ++ [e]) es

/-- A table whose count is 0 has an offset of 0 (R99). -/
def emptyTables (img : List Byte) : List Finding :=
  [(0x10, imgTensorCount img), (0x20, imgBarrierCount img), (0x30, imgCapsCount img)].flatMap fun e =>
    unless_ (e.2 != 0 || imgField img e.1 31 0 = 0) { code := 0x06, table := 0, off := e.1, arg0 := imgField img e.1 31 0 }

/-- A table finding. -/
def tabField (table index off : Nat) (e : List Byte) (code o hi lo : Nat) (ok : Nat → Bool) : List Finding :=
  unless_ (ok (fieldAt e o hi lo)) { code := code, table := table, index := index, off := off + o + lo / 8, arg0 := fieldAt e o hi lo % 2 ^ 32 }

/-- The regions that the epoch binding table declares. -/
def declaredRegions (img : List Byte) : List Nat :=
  (List.range (imgEpochCount img)).filterMap fun i =>
    let e := epochEntry img i
    if fieldAt e 0 3 0 = 2 then some (fieldAt e 4 5 0) else none

/-- The elements of a tensor. -/
def Tensor.elems (t : Tensor) : Nat := (t.ext.take t.rank).foldl (· * ·) 1

/-- The entry that SCALE_TID names is shaped per R77. -/
def scaleShaped (img : List Byte) (t : Tensor) : Bool :=
  (tensorAt img t.scaleTid).any fun u =>
    u.fmt = 0x0D && u.rank = t.rank && u.ext.getD 0 0 = ceilDiv (t.ext.getD 0 0) 32 && u.ext.drop 1 = t.ext.drop 1

/-- Findings of one tensor table entry (R72, R80, R102). -/
def tensorFindings (img : List Byte) (i : Nat) : List Finding :=
  let e := tensorEntry img i
  let t := tensorOf img i
  let off := imgField img 0x10 31 0 + 64 * i
  let c := tabField 1 i off e
  let rankOk : Bool := 1 ≤ t.rank && t.rank ≤ 6
  let exts := (List.range 6).flatMap fun k =>
    c 0x07 (0x10 + 4 * k) 31 0 fun v => if k < t.rank then 1 ≤ v && v ≤ 2 ^ 31 else v = 0
  let sel : List Finding := match t.kind with
    | 0 => c 0x07 0 31 24 (· < imgBindSlots img)
    | 1 => c 0x07 0 31 24 (· = 0)
    | 2 => c 0x17 0 31 24 (declaredRegions img).contains
    | _ => []
  c 0x09 0 15 0 fmtLegal ++ c 0x07 0 19 16 (fun v => 1 ≤ v && v ≤ 6) ++ c 0x07 0 23 20 (· ≤ 2) ++ sel
    ++ c 0x07 4 15 0 (fun v => if fmtMx t.fmt then scaleShaped img t else v = 0xFFFF)
    ++ c 0x07 4 31 16 (fun v => if t.kind = 1 then v < imgVcores img else v = 0)
    ++ c 0x07 8 63 0 (fun v => t.kind != 1 || v + t.bytes ≤ spadSize)
    ++ (if rankOk then exts else [])
    ++ c 0x0B 0x10 31 0 (fun v => t.fmt % 256 != 0x11 || v % 64 = 0)
    ++ c 0x07 0x28 63 0 (fun v => t.fmt % 256 = 0x11 || v = 0)
    ++ (if fmtLegal t.fmt && rankOk && exts.isEmpty then c 0x07 0x30 63 0 (packedBytes (fmtCode t.fmt) t.elems ≤ ·) else [])
    ++ reservedIn 1 i off e [(0x38, 0), (0x3C, 0)]

/-- Slots of the streams of a virtual core among the first `i` entries (R103). -/
def slotsBefore (img : List Byte) (vcore i : Nat) : Nat :=
  ((((imgStreams img).take i).filter fun t => t.vcore = vcore).map Stream.slots).sum

/-- Findings of one stream table entry (R103). -/
def streamFindings (img : List Byte) (i : Nat) : List Finding :=
  let e := streamEntry img i
  let t := streamOf e
  let off := imgField img 0x18 31 0 + 32 * i
  let c := tabField 2 i off e
  let shape (o v : Nat) : Finding := { code := 0x0F, table := 2, index := i, off := off + o, arg0 := v }
  let legal : Bool := 1 ≤ t.slots && t.slots ≤ 8192 && 1 ≤ t.descs && t.descs ≤ t.slots
  let was := slotsBefore img t.vcore i
  c 0x07 0 15 0 (· < imgVcores img) ++ c 0x07 8 15 0 (fun v => 1 ≤ v && v ≤ 8192) ++ c 0x07 8 31 16 (fun v => 1 ≤ v && v ≤ t.slots)
    ++ unless_ (!legal || ((streamPlaced img t).map fun d => dSlots d.img).sum = t.slots) (shape 8 t.slots)
    ++ unless_ (((imgStreams img).take i).all fun u => !(u.vcore = t.vcore && u.vctx = t.vctx && u.q = t.q)) (shape 0 t.q)
    ++ unless_ (!(was ≤ 8192 && 8192 < was + t.slots)) (shape 8 (was + t.slots))
    ++ reservedIn 2 i off e ((0, 0x1FFFFF) :: (List.range 5).map fun k => (0x0C + 4 * k, 0))

/-- Findings of one barrier table entry (R104). -/
def barrierFindings (img : List Byte) (i : Nat) : List Finding :=
  let e := barrierEntry img i
  let off := imgField img 0x20 31 0 + 16 * i
  let c := tabField 3 i off e
  let same := ((List.range i).filter fun j => fieldAt (barrierEntry img j) 0 17 0 = fieldAt e 0 17 0).length
  c 0x07 0 15 0 (· < imgVcores img) ++ unless_ (same < 16) { code := 0x07, table := 3, index := i, off := off, arg0 := fieldAt e 0 15 0 }
    ++ c 0x07 0 31 24 (fun v => 2 ≤ (bitList v).length) ++ c 0x07 4 15 0 (fun v => 1 ≤ v && v ≤ 8191)
    ++ reservedIn 3 i off e [(0, 0xFF03FFFF), (4, 0xFFFF), (8, 0), (0xC, 0)]

/-- The context or region that an epoch binding entry speaks of: (KIND, its key). -/
def epochKey (e : List Byte) : Nat × Nat := (fieldAt e 0 3 0, if fieldAt e 0 3 0 = 1 then fieldAt e 4 17 0 else fieldAt e 4 5 0)

/-- Findings of one epoch binding entry (R105). -/
def epochFindings (img : List Byte) (i : Nat) : List Finding :=
  let e := epochEntry img i
  let off := imgField img 0x28 31 0 + 16 * i
  let c := tabField 4 i off e
  let kind := fieldAt e 0 3 0
  let double := (List.range i).any fun j => epochKey (epochEntry img j) = epochKey e
  if kind = 1 then
    c 0x07 4 15 0 (· < imgVcores img) ++ c 0x07 8 1 0 (· ≤ 1)
      ++ unless_ (!double) { code := 0x16, table := 4, index := i, off := off + 4, arg0 := fieldAt e 4 17 0 }
      ++ reservedIn 4 i off e [(0, 0xF), (4, 0x3FFFF), (8, 3), (0xC, 0)]
  else if kind = 2 then
    unless_ (!double) { code := 0x16, table := 4, index := i, off := off + 4, arg0 := fieldAt e 4 5 0 }
      ++ reservedIn 4 i off e [(0, 0xF), (4, 0x13F), (8, 0), (0xC, 0)]
  else c 0x07 0 3 0 fun _ => false

/-- The SNAPSHOT entry of a virtual context. -/
def snapshotEntry (img : List Byte) (vcore vctx : Nat) : Option Nat :=
  (List.range (imgEpochCount img)).find? fun i => epochKey (epochEntry img i) = (1, vcore + vctx * 2 ^ 16)

/-- A virtual context that has a stream has a SNAPSHOT entry (R105): reported at its first stream. -/
def snapshotMissing (img : List Byte) (i : Nat) : List Finding :=
  let t := streamOf (streamEntry img i)
  unless_ ((snapshotEntry img t.vcore t.vctx).isSome || ((imgStreams img).take i).any fun u => u.vcore = t.vcore && u.vctx = t.vctx)
    { code := 0x16, table := 2, index := i, off := imgField img 0x18 31 0 + 32 * i, arg0 := t.vcore }

/-- Findings of one capability entry (R106). -/
def capsFindings (img : List Byte) (i : Nat) : List Finding :=
  let e := capsEntry img i
  let off := imgField img 0x30 31 0 + 16 * i
  let c := tabField 5 i off e
  c 0x07 0 7 0 (fun v => 1 ≤ v && v ≤ 0x1A) ++ c 0x07 8 31 0 (fun v => unusedBits v (fieldAt e 4 31 0) = 0)
    ++ reservedIn 5 i off e [(0, 0x3FF), (0xC, 0)]

/-- Stage TABLES. -/
def tableFindings (img : List Byte) : List Finding :=
  emptyTables img ++ layoutFindings (imgField img 0x3C 31 0) [] (imgExtents img)
    ++ (List.range (imgTensorCount img)).flatMap (tensorFindings img)
    ++ (List.range (imgStreamCount img)).flatMap (streamFindings img)
    ++ (List.range (imgBarrierCount img)).flatMap (barrierFindings img)
    ++ (List.range (imgEpochCount img)).flatMap (epochFindings img)
    ++ (List.range (imgStreamCount img)).flatMap (snapshotMissing img)
    ++ (List.range (imgCapsCount img)).flatMap (capsFindings img)

end Sys2Proof.Machine
end

