-- ==== Sys2Proof/Machine/VerifyDesc.lean ====
section
/-!
DEFINITION. Stage DESCRIPTORS of the verifier: every descriptor on its own (R82, R94, R95, R107-R109, R130, R132, R138, R169-R194,
R218-R232, R249, R251, R260-R263, R276, R304, R324).
-/

namespace Sys2Proof.Machine

/-- A value in a range. -/
def inRange (lo hi v : Nat) : Bool := lo ≤ v && v ≤ hi

/-- Fields that must be multiples of 32 (R170). -/
def mult32 (d : Placed) (os : List Nat) : List Finding := os.flatMap fun o => d.chk o 31 0 (· % 32 = 0)

/-- A tensor index field that must name a SCRATCH tensor of the descriptor's virtual core (R169). -/
def scratchField (img : List Byte) (d : Placed) (o lo : Nat) : List Finding :=
  d.chk o (lo + 15) lo (scratchOf img d.vcore)

/-- The field names a SCRATCH tensor of the descriptor's virtual core or is 0xFFFF. -/
def scratchOrNone (img : List Byte) (d : Placed) (o lo : Nat) : List Finding :=
  d.chk o (lo + 15) lo fun v => v = 0xFFFF || scratchOf img d.vcore v

/-- FORMAT of the tensor that an index names. -/
def fmtOfTid (img : List Byte) (tid : Nat) : Nat := (tensorOf img tid).fmt

/-- A format word of a descriptor: legal under R72 and equal to its tensor's FORMAT (`code` when not). -/
def fmtField (img : List Byte) (d : Placed) (o lo tid code : Nat) : List Finding :=
  let v := d.f o (lo + 15) lo
  if fmtLegal v then unless_ ((tensorAt img tid).isNone || fmtOfTid img tid = v) (d.fnd code o lo v) else [d.fnd 0x09 o lo v]

/-- FORMAT_ROLE unless a legal format word passes (R94, R95). -/
def fmtRole (d : Placed) (o lo : Nat) (ok : Nat → Bool) : List Finding := d.role o (lo + 15) lo fun v => !fmtLegal v || ok v

/-- Two span lists intersect. -/
def spansMeet (a b : List SbSpan) : Bool := a.any fun x => b.any fun y => x.lo < y.hi && y.lo < x.hi

/-- ARITH of R82: a mode of 0 to 4 and no reserved bit. -/
def arithLegal (v : Nat) : Bool := v % 8 ≤ 4 && v / 32 = 0

/-- The descriptor adds into memory (R221, R231). -/
def scatterAdds (d : Placed) : Bool := dType d.img = 0x71 && (d.f 0xA4 24 24 = 1 || d.f 0xA4 26 25 = 1)

/-- ARITH findings (R82, R107, R221, R276, R304, R324). -/
def arithFindings (d : Placed) : List Finding :=
  let t := dType d.img
  let v := dArith d.img
  let ok :=
    if t < 0x20 || t = 0x90 || (0x64 ≤ t && t ≤ 0x66) then v = 0
    else if t = 0x60 || t = 0x68 || t = 0x70 || t = 0x71 then if scatterAdds d then arithLegal v else v = 0
    else if 0x80 ≤ t then v % 8 = 0 && v / 32 = 0
    else arithLegal v
  unless_ ok (d.fnd 0x0C 0 16 v)

/-- Findings of a wait word on its own (R107). -/
def waitFindings (d : Placed) (o : Nat) : List Finding := d.chk o 15 0 fun v => d.f o 19 19 = 1 || v = 0

/-- A REMOTE_SIGNAL's data word names a remote STORE or SCATTER of the context (R138). -/
def dataWordOk (img : List Byte) (d : Placed) : Bool :=
  let w := d.f 0x1C 31 0
  let q := bits w 18 16
  if bit w 19 = 0 then bits w 15 0 = 0
  else (q = qSt || q = qGt) && ((findStream img d.vcore d.vctx q).any fun t =>
    inRange 1 t.descs (bits w 15 0) &&
      (let p := streamDesc img d.vcore d.vctx q (bits w 15 0)
       (dType p = 0x68 || dType p = 0x71) && fieldAt p 0x14 17 17 = 1))

/-- Field findings of the control and Q_SY types (R109, R130, R132, R138). -/
def controlFindings (img : List Byte) (d : Placed) : List Finding :=
  match dType d.img with
  | 0x02 => (List.range 8).flatMap fun i => waitFindings d (0x10 + 4 * i)
  | 0x03 => d.chk 0x10 11 0 fun i =>
      let e := barrierEntry img i
      i < imgBarrierCount img && fieldAt e 0 15 0 = d.vcore && fieldAt e 0 17 16 = d.vctx && bit (fieldAt e 0 31 24) d.q = 1
  | 0x10 => d.chk 0x10 1 0 (· ≤ 2)
  | 0x20 => d.chk 0x14 1 0 (· ≤ 2)
  | 0x21 => d.chk 0x14 1 1 fun v => v = 0 || d.f 0x14 0 0 = 1
  | 0x22 => d.chk 0x1C 23 0 fun v => d.f 0x14 1 1 = 0 || (v % 4 = 0 && v < spadSize)
  | 0x23 => d.chk 0x14 1 0 (· ≤ 2)
  | 0x24 => d.chk 0x14 12 0 (inRange 2 4096) ++ d.chk 0x18 27 16 fun v => d.f 0x14 16 16 = 0 || v != d.f 0x18 11 0
  | 0x27 => d.chk 0x10 14 12 (· ≤ 4) ++ d.chk 0x14 14 13 (· ≤ 1) ++ d.chk 0x1C 31 0 fun _ => dataWordOk img d
  | _ => []

/-- Class of a matrix operand format: 0 floating, 1 integer, 2 binary, 3 codebook, 4 none (R94, R95). -/
def mmClass (fmt : Nat) : Nat :=
  let c := fmtCode fmt
  if inRange 1 8 c || (c = 0x0B && fmtMx fmt) then 0 else if c = 0x0B || c = 0x0C || c = 0x0D then 1
  else if c = 0x0E then 2 else if c = 0x10 || c = 0x11 then 3 else 4

/-- The pair is of one class; a codebook B meets a floating A other than FP32 (R95). -/
def mmPairOk (a b : Nat) : Bool :=
  mmClass a ≤ 2 && (mmClass b = mmClass a || (mmClass b = 3 && mmClass a = 0 && fmtCode a != 0x01))

/-- The matrix output column of R94. -/
def mmOutOk (fmt : Nat) : Bool :=
  [0x01, 0x02, 0x03, 0x04, 0x05, 0x09, 0x0A, 0x0B].contains (fmtCode fmt) && (!fmtMx fmt || fmtCode fmt = 0x04 || fmtCode fmt = 0x05)

/-- Field findings of a MATMUL (R169, R170, R175, R177, R180). -/
def mmFindings (img : List Byte) (d : Placed) : List Finding :=
  let a := d.f 0x1C 15 0
  let b := d.f 0x1C 31 16
  let c := d.f 0x20 15 0
  let k := d.f 0x2C 20 0
  let book := mmClass b = 3
  let blk := if fmtCode b = 0x10 then 544 else 288
  let vec (o lo : Nat) := d.chk o (lo + 15) lo fun v => v = 0xFFFF ||
    (scratchOf img d.vcore v && fmtOfTid img v = 0x01 && d.f 0x28 16 0 ≤ (tensorOf img v).elems && mmClass b != 2)
  let kt := min (tileDepth (fmtCode a)) (tileDepth (fmtCode b))
  let fields := scratchField img d 0x10 0 ++ scratchField img d 0x10 16 ++ scratchField img d 0x14 0 ++ vec 0x14 16 ++ vec 0x18 0
    ++ fmtField img d 0x1C 0 (d.f 0x10 15 0) 0x0E ++ fmtField img d 0x1C 16 (d.f 0x10 31 16) 0x0E
    ++ fmtField img d 0x20 0 (d.f 0x14 15 0) 0x0E
    ++ fmtRole d 0x1C 0 (mmClass · ≤ 2) ++ fmtRole d 0x1C 16 (fun v => mmClass v ≤ 3 && (3 ≤ mmClass a || mmPairOk a v)) ++ fmtRole d 0x20 0 mmOutOk
    ++ d.chk 0x20 15 0 (fun v => mmClass a != 2 || v = 0x09)
    ++ d.chk 0x18 16 16 (fun v => v = 1 || !(book || fmtMx b))
    ++ d.chk 0x18 17 17 (fun v => v = 0 || c = (if mmClass a = 0 then 0x01 else 0x09))
    ++ d.chk 0x24 16 0 (inRange 1 65536) ++ d.chk 0x28 16 0 (inRange 1 65536)
    ++ d.chk 0x2C 20 0 (fun v => inRange 1 1048576 v && (!book || v % 1024 = 0))
    ++ mult32 d [0x30, 0x34, 0x38, 0x3C, 0x40, 0x44, 0x48, 0x50, 0x54, 0x58]
    ++ d.chk 0x38 31 0 (kt * fmtBits (fmtCode a) / 8 ≤ ·)
    ++ d.chk 0x3C 31 0 (fun v => !book || v % blk = 0) ++ d.chk 0x40 31 0 (fun v => !book || d.f 0x28 16 0 ≤ 1 || v % blk = 0)
    ++ d.chk 0x4C 12 0 (inRange 1 4096) ++ d.chk 0x58 31 0 (fun v => v != 0 || d.f 0x4C 12 0 ≤ 1)
  if !fields.isEmpty || k = 0 then fields
  else
    let sp := mmSpans img d.img {}
    unless_ (!spansMeet (sp.filter fun x => x.kind = .write) (sp.filter fun x => x.kind = .read)) (d.whole 0x0E 0 0)

/-- A source's type in a VX_MAP (R185): registers by the types written so far. -/
def mapSrcTy (img : List Byte) (d : Placed) (regs : List (Option LaneTy)) (src : Nat) : Option LaneTy :=
  let ty (o lo : Nat) : Option LaneTy := (tensorAt img (d.f o (lo + 15) lo)).map fun t => laneTy t.fmt
  if src = 0 then ty 0x10 0 else if src = 1 then ty 0x10 16 else if src = 2 then ty 0x14 0
  else if src ≤ 6 then regs.getD (src - 3) none else if src ≤ 8 then some .imm else none

/-- A lane type an integer operand may have. -/
def isIntTy (t : LaneTy) : Bool := t = .i32 || t = .i64 || t = .imm

/-- Operands of one type, immediates apart. -/
def oneTy (l : List LaneTy) : Bool := l.all fun a => l.all fun b => a = b || a = .imm || b = .imm

/-- The type that the typed ones of some operands have. -/
def joinTy (l : List LaneTy) : LaneTy := (l.find? (· != .imm)).getD .f32

/-- Operands of an operation (R186). -/
def mapArity (op : Nat) : Nat :=
  if [0x05, 0x1C, 0x29].contains op then 3
  else if [0x02, 0x03, 0x04, 0x06, 0x07, 0x08, 0x18, 0x19, 0x1A, 0x1B, 0x1D, 0x1E, 0x1F, 0x21, 0x22, 0x23, 0x25, 0x26].contains op then 2 else 1

/-- The type of an operation's result, none where an operand's type is not accepted (R186); INT64 is not multiplied (R76). -/
def mapResTy (op : Nat) (l : List LaneTy) : Option LaneTy :=
  let flt := l.all fun t => t = .f32 || t = .imm
  let int := l.all isIntTy && oneTy l
  let num := (flt || int) && oneTy l
  let i32 := l.all fun t => t = .i32 || t = .imm
  let give (b : Bool) (t : LaneTy) : Option LaneTy := if b then some t else none
  if op = 0x01 then l.head?
  else if inRange 0x02 0x06 op || inRange 0x0B 0x17 op then give flt .f32
  else if inRange 0x07 0x0A op || op = 0x29 then give num (joinTy l)
  else if inRange 0x18 0x1B op then give num .i32
  else if op = 0x1C then give (l.headD .b1 != .b1 && oneTy (l.drop 1)) (joinTy (l.drop 1))
  else if inRange 0x1D 0x20 op then give ((int || l.all fun t => t = .b1 || t = .imm) && oneTy l) (joinTy l)
  else if inRange 0x21 0x23 op then give i32 .i32
  else if op = 0x24 then give (l.all fun t => isIntTy t || t = .b1) .i32
  else if op = 0x25 then give int (if joinTy l = .i64 then .i64 else .i32)
  else if op = 0x26 then give i32 .i32
  else if op = 0x27 then give int .f32
  else if op = 0x28 then give flt .i32
  else none

/-- What the steps of a VX_MAP come to: register types, inputs read, outputs written, and the findings. -/
structure MapCheck where
  regs : List (Option LaneTy) := [none, none, none, none]
  reads : List Nat := []
  writes : List Nat := []
  fs : List Finding := []
deriving DecidableEq, Repr

/-- One step word (R185, R186). -/
def mapCheckStep (img : List Byte) (d : Placed) (m : MapCheck) (i : Nat) : MapCheck :=
  let o := 0x60 + 4 * i
  let op := d.f o 5 0
  let dst := d.f o 8 6
  let all := (List.range 3).map fun j => d.f o (12 + 4 * j) (9 + 4 * j)
  let srcs := all.take (mapArity op)
  let tys := srcs.map (mapSrcTy img d m.regs)
  let m := { m with reads := m.reads ++ srcs, writes := if dst = 4 || dst = 5 then m.writes ++ [dst] else m.writes }
  let bad (lo v : Nat) : MapCheck := { m with fs := m.fs ++ [d.fnd 0x0E o lo v] }
  if !inRange 1 0x29 op then bad 0 op
  else if 6 ≤ dst then bad 6 dst
  else if all.any (9 ≤ ·) || tys.any Option.isNone then bad 9 (d.f o 20 9)
  else
    match mapResTy op (tys.filterMap id) with
    | none => bad 9 (d.f o 20 9)
    | some t => if dst ≤ 3 then { m with regs := m.regs.set dst (some t) } else m

/-- The steps of a VX_MAP. -/
def mapCheck (img : List Byte) (d : Placed) : MapCheck := (List.range (d.f 0x24 18 16)).foldl (mapCheckStep img d) {}

/-- Which operands a vector type uses, of X, Y, Z, O, O2: 0 unused, 1 required, 2 optional (R184, R185, R194). -/
def vxUses (img : List Byte) (d : Placed) : List Nat :=
  let has (b : Bool) : Nat := if b then 1 else 0
  match dType d.img with
  | 0x40 =>
    let m := mapCheck img d
    [has (m.reads.contains 0), has (m.reads.contains 1), has (m.reads.contains 2), has (m.writes.contains 4), has (m.writes.contains 5)]
  | 0x41 => [1, 0, 0, 1, has (d.f 0x60 3 0 = 4 || d.f 0x60 3 0 = 5)]
  | 0x42 => [1, 2, 0, 1, 0]
  | 0x43 => [1, 1, 2, 1, 0]
  | 0x44 => [1, 0, 0, 1, 2]
  | 0x45 => [1, 2, 0, 1, 1]
  | 0x46 => [1, 0, 0, 1, 0]
  | 0x47 => [1, has (d.f 0x60 1 0 = 1 && fmtCode (d.f 0x20 31 16) != 0x11), 0, 1, 0]
  | _ => [1, 2, 0, 1, 1]

/-- The places of the five operands: TID word and low bit, format word and low bit, offset. -/
def vxPlaces : List (Nat × Nat × Nat × Nat × Nat) :=
  [(0x10, 0, 0x1C, 0, 0x30), (0x10, 16, 0x1C, 16, 0x38), (0x14, 0, 0x20, 0, 0x40), (0x14, 16, 0x20, 16, 0x48), (0x18, 0, 0x24, 0, 0x50)]

/-- The formats that the vector column of R94, with R76 and R88, allows operand `i` of a type. -/
def vxRoleOk (d : Placed) (i fmt : Nat) : Bool :=
  let c := fmtCode fmt
  let t := dType d.img
  let mode := d.f 0x60 1 0
  let book := c = 0x10 || c = 0x11
  let lane := !book && c != 0x0E
  if i ≤ 2 then
    match t, i with
    | 0x40, _ => !book
    | 0x42, 1 => !book
    | 0x42, _ | 0x43, _ => lane && c != 0x12
    | 0x41, _ => lane && !(c = 0x12 && d.f 0x60 3 0 = 1)
    | 0x47, 0 => if mode = 0 then !book else if mode = 1 then lane && c != 0x0F && c != 0x12 else true
    | _, _ => lane
  else
    let coded := book || c = 0x0F
    match t with
    | 0x40 => !coded
    | 0x42 | 0x43 => lane && !coded && c != 0x12
    | 0x47 =>
      if mode = 1 then true
      else !coded && (fmtCode (d.f 0x1C 15 0) != 0x0F || [0x09, 0x0A, 0x0B, 0x0D, 0x12].contains fmt)
    | _ => lane && !coded

/-- The formats that operand `i` of a vector type may have by the type's own rule (R184, R188, R190-R194). -/
def vxFmtOk (d : Placed) (i fmt : Nat) : Bool :=
  let coded (f : Nat) : Bool := fmtCode f = 0x0F || fmtCode f = 0x10 || fmtCode f = 0x11
  let x := d.f 0x1C 15 0
  let mode := d.f 0x60 1 0
  match dType d.img, i with
  | 0x42, 1 => fmt = 0x0E
  | 0x41, 4 | 0x44, 4 | 0x45, 4 | 0x45, 1 | 0x46, 3 | 0x48, 1 | 0x48, 3 => fmt = 0x09
  | 0x44, 3 | 0x45, 3 => fmt = x
  | 0x48, 4 => fmt = 0x12
  | 0x47, 0 => mode != 2 || coded x
  | 0x47, 1 => fmt = (if fmtCode (d.f 0x20 31 16) = 0x10 then 0x03 else 0x01)
  | 0x47, 3 => if mode = 1 then coded fmt else mode != 2 || fmtCode x = 0x0F || inRange 1 8 (fmtCode fmt)
  | _, _ => true

/-- Findings of operand `i` of a vector descriptor (R169, R170, R182). -/
def vxOperand (img : List Byte) (d : Placed) (i use : Nat) : List Finding :=
  let p := vxPlaces.getD i (0x10, 0, 0x1C, 0, 0x30)
  let tid := d.f p.1 (p.2.1 + 15) p.2.1
  let fo := p.2.2.1
  let fl := p.2.2.2.1
  let off := p.2.2.2.2
  if use = 0 || (use = 2 && tid = 0xFFFF) then
    d.chk p.1 (p.2.1 + 15) p.2.1 (· = 0xFFFF) ++ d.chk fo (fl + 15) fl (· = 0) ++ d.chk off 31 0 (· = 0) ++ d.chk (off + 4) 31 0 (· = 0)
  else
    scratchField img d p.1 p.2.1 ++ fmtField img d fo fl tid 0x0E ++ fmtRole d fo fl (vxRoleOk d i)
      ++ d.chk fo (fl + 15) fl (fun v => !fmtLegal v || !vxRoleOk d i v || vxFmtOk d i v) ++ mult32 d [off, off + 4]

/-- An FP32 encoding that is a number and not below zero. -/
def fpNonNeg (v : Nat) : Bool := match (decFloat fp32 false v).1 with
  | .nan => false
  | x => !(x.neg && !x.isZero)

/-- Findings of a vector type's own body (R184, R187, R191-R194). -/
def vxTypeFindings (d : Placed) : List Finding :=
  let intX := laneTy (d.f 0x1C 15 0) != .f32
  match dType d.img with
  | 0x41 => d.chk 0x60 3 0 (· ≤ 7) ++ d.chk 0x64 31 0 fun v => !intX || v = 0x3F800000
  | 0x43 => d.chk 0x64 31 0 fpNonNeg ++ d.chk 0x18 17 16 (· = 1) ++ d.chk 0x18 19 18 fun v => v = 1 || d.f 0x14 15 0 = 0xFFFF
  | 0x44 => d.chk 0x2C 24 0 (· ≤ 4096)
  | 0x45 => d.chk 0x60 12 0 (inRange 1 4096) ++ d.chk 0x18 17 16 fun v => v ≤ 1 || d.f 0x10 31 16 = 0xFFFF
  | 0x46 => d.chk 0x60 31 0 fpNonNeg
      ++ d.chk 0x64 31 0 (fun v => fpNonNeg v && !(decFloat fp32 false v).1.isZero && !Num.lt (.fin false 1 0) (decFloat fp32 false v).1)
      ++ d.chk 0x68 12 0 (· ≤ 4096)
  | 0x47 =>
    let pq : Bool := d.f 0x60 1 0 = 1 && fmtCode (d.f 0x20 31 16) = 0x0F
    d.chk 0x60 1 0 (· ≤ 2) ++ d.chk 0x64 7 0 fun v => if pq then v != 0 && v % 2 = 0 && d.f 0x2C 24 0 % v = 0 else v = 0
  | 0x48 => d.chk 0x60 2 0 (· ≤ 3) ++ d.chk 0x6C 24 0 (inRange 1 (2 ^ 24))
  | _ => []

/-- An output span that may equal an input span exactly (R183). -/
def vxInPlace (d : Placed) : Bool :=
  let t := dType d.img
  t = 0x40 || t = 0x47 || ((t = 0x42 || t = 0x43) && d.f 0x2C 24 0 ≤ 16384)

/-- An input and an output agree in tensor, offset, pitch and element size (R183). -/
def vxSame (a b : VxOp) : Bool :=
  a.t.offset = b.t.offset && a.off = b.off && a.pitch = b.pitch && fmtBits (fmtCode a.t.fmt) = fmtBits (fmtCode b.t.fmt)

/-- An output's spans, data then scales, meet an input's other than by being the same spans, where `same` allows that. -/
def spanClash (same : Bool) (w r : List SbSpan) : Bool :=
  w.zipIdx.any fun p => r.zipIdx.any fun q =>
    p.1.lo < q.1.hi && q.1.lo < p.1.hi && !(same && p.2 = q.2 && p.1.lo = q.1.lo && p.1.hi = q.1.hi)

/-- Every output's spans keep off every input's but for the exact overlaps of R183. -/
def vxOverlap (img : List Byte) (d : Placed) : List Finding :=
  let ops := vxOpSpans img d.img {}
  let of (k : SbKind) := ops.filter fun o => o.2.any fun p => p.kind = k
  let clash := (of .write).any fun w => (of .read).any fun r => spanClash (vxInPlace d && vxSame r.1 w.1) w.2 r.2
  unless_ (!clash) (d.whole 0x0E 0 0)

/-- Field findings of a vector descriptor (R169, R170, R182-R194). -/
def vxFindings (img : List Byte) (d : Placed) : List Finding :=
  let uses := vxUses img d
  let m := mapCheck img d
  let outBytes := (vxBody img d.img).o.map fun o => packedBytes (fmtCode o.t.fmt) (vxOutCols d.img (vxBody img d.img)).1
  let fields := (List.range 5).flatMap (fun i => vxOperand img d i (uses.getD i 0))
    ++ d.chk 0x24 18 16 (fun v => if dType d.img = 0x40 then inRange 1 6 v else v = 0)
    ++ (if dType d.img = 0x40 then m.fs ++ unless_ (!m.writes.isEmpty && m.writes.Nodup) (d.whole 0x0E 0 0) else [])
    ++ d.chk 0x28 24 0 (inRange 1 (2 ^ 24)) ++ d.chk 0x2C 24 0 (inRange 1 (2 ^ 24))
    ++ d.chk 0x58 23 0 (fun v => v = 0 || (v % 32 = 0 && outBytes.any (· % v = 0)))
    ++ d.chk 0x5C 31 0 (fun v => v % 32 = 0 && (v = 0 || d.f 0x58 23 0 != 0))
    ++ vxTypeFindings d
  if fields.isEmpty then vxOverlap img d else fields

/-- Field findings of a movement descriptor (R218-R223, R226, R232). -/
def tmFindings (img : List Byte) (d : Placed) : List Finding :=
  let t := dType d.img
  let x := tmBody img d.img
  let ld : Bool := t = 0x60 || t = 0x70
  let ix : Bool := t = 0x70 || t = 0x71
  let u := x.u
  let book := (unitOf (fmtCode x.mem.fmt)).2 = 1024
  let sc := t = 0x71
  let dims : List Finding := (List.range 6).flatMap fun i =>
    d.chk 0x18 (2 * i + 1) (2 * i) (fun v => (if ld then v ≤ 2 else v = 0 || v = 2) && (i != 0 || !book || v = 0)
        && (v != 0 || x.mem.rank ≤ i || (ix && i = x.gdim) || (0 ≤ (x.coordRange i).1 && (x.coordRange i).2 < x.extent i)))
      ++ d.chk (0x30 + 4 * i) 24 0 (fun v => inRange 1 (2 ^ 24) v && (v = 1 || (i < x.mem.rank && (i = 0 || !book))))
      ++ d.chk (0x48 + 4 * i) 31 0 (fun v => v = 0 || (i < x.mem.rank && (i = 0 || !book)))
  let pitches : List Finding := (List.range 5).flatMap fun i =>
    d.chk (0x60 + 8 * i) 47 0 (· % u = 0) ++ d.chk (0x88 + 4 * i) 31 0 (· % u = 0)
      ++ d.chk 0x9C (8 * i + 7) (8 * i) (fun v => ld || v != 0)
  d.chk 0x10 15 0 (fun v => (tensorAt img v).any fun m => m.kind = 0 || (m.kind = 2 && ld))
    ++ scratchField img d 0x10 16
    ++ d.role 0x10 31 16 (fun v => !(scratchOf img d.vcore v && (tensorAt img x.memTid).isSome) || fmtOfTid img v = x.mem.fmt)
    ++ d.chk 0x14 15 0 (fun v => v = 0xFFFF || (ld && scratchOf img d.vcore v && fmtOfTid img v = 0x0E))
    ++ d.chk 0x14 16 16 (fun v => v = 0 || (!ix && [1, 2, 4, 8].contains u))
    ++ d.chk 0x14 17 17 (fun v => v = 0 || (t != 0x70 && x.mem.kind = 0))
    ++ d.chk 0x14 18 18 (fun v => v = 0 || ld)
    ++ d.chk 0x1C 24 0 (fun v => v % 16 = 0 && v + 16 ≤ spadSize)
    ++ d.chk 0x20 63 0 (fun v => 8 ≤ u || v < 2 ^ (8 * u))
    ++ d.chk 0x28 31 0 (· % u = 0) ++ d.chk 0x2C 31 0 (· % 32 = 0) ++ dims ++ pitches
    ++ d.chk 0xA4 15 0 (fun v => if ix then scratchOf img d.vcore v && fmtOfTid img v = 0x09 else v = 0xFFFF)
    ++ d.chk 0xA4 18 16 (fun v => if ix then v < x.mem.rank && x.edge.getD v 0 = 0 && (v = 0 || x.step.getD v 0 = 1) else v = 0)
    ++ d.chk 0xA4 19 19 (fun v => v = 0 || ix) ++ d.chk 0xA4 21 20 (fun v => v = 0 || t = 0x70 || (sc && v = 3))
    ++ d.chk 0xA4 22 22 (fun v => v = 0 || ix) ++ d.chk 0xA4 24 24 (fun v => v = 0 || sc)
    ++ d.chk 0xA4 26 25 (fun v => v = 0 || (sc && v ≤ 2 && !x.accum)) ++ d.chk 0xA4 27 27 (fun v => v = 0 || t = 0x70)
    ++ d.chk 0xA8 31 0 (· % 4 = 0)
    ++ (if scatterAdds d then d.role 0x10 15 0 fun v => (tensorAt img v).isNone || [0x01, 0x02, 0x03, 0x09, 0x12].contains (fmtOfTid img v) else [])

/-- Field findings of a drover descriptor (R324). -/
def drFindings (img : List Byte) (d : Placed) : List Finding :=
  let fetch := dType d.img = 0x64
  let promote := dType d.img = 0x65
  let idx := fetch || (promote && d.f 0x14 21 21 = 1)
  d.chk 0x10 15 0 (fun v => if fetch || promote then (tensorAt img v).any fun t => t.kind = 2 else v = 0xFFFF)
    ++ d.chk 0x10 31 16 (fun v => if idx then scratchOf img d.vcore v && fmtOfTid img v = 0x09 else v = 0xFFFF)
    ++ d.chk 0x14 15 0 (fun v => if fetch then (tensorAt img v).any fun t => t.kind = 0 else v = 0xFFFF)
    ++ d.chk 0x14 20 20 (fun v => v = 0 || promote) ++ d.chk 0x14 21 21 (fun v => v = 0 || promote)
    ++ d.chk 0x14 23 22 (fun v => v = 0 || fetch)
    ++ d.chk 0x18 14 0 (fun v => v % 32 = 0 && inRange 32 16384 v)
    ++ d.chk 0x1C 24 0 (fun v => if fetch || promote then inRange 1 (2 ^ 24) v else v = 0)
    ++ d.chk 0x20 31 0 (· % 4 = 0) ++ d.chk 0x24 31 0 (· % 32 = 0)
    ++ d.chk 0x28 28 0 (fun v => v = 0 || (promote && d.f 0x14 21 21 = 0))

/-- Stored formats of an operation (R251, R261-R263); none carries MX (R78). -/
def bkStoredFmt (type fmt : Nat) : Bool :=
  (match type with
   | 0x80 => [0x02, 0x03, 0x04, 0x05, 0x0B, 0x0C, 0x10, 0x11]
   | 0x81 => [0x02, 0x03, 0x04, 0x05, 0x0B, 0x0C]
   | 0x82 => [0x02, 0x03, 0x04, 0x05, 0x0B]
   | _ => [0x0F]).contains fmt

/-- Register formats (R249, R263, R276). -/
def bkRegister (type sf fmt : Nat) : Bool :=
  match type with
  | 0x82 => fmt = 0x09
  | 0x83 => fmt = 0x02 || fmt = 0x03 || fmt = 0x0A
  | _ => if sf = 0x0B || sf = 0x0C then fmt = 0x0A || fmt = 0x0B else fmt = 0x02 || fmt = 0x03

/-- A field that names an MX tensor in a bank-command descriptor (R78). -/
def noMx (img : List Byte) (d : Placed) (o lo : Nat) : List Finding :=
  d.role o (lo + 15) lo fun v => v = 0xFFFF || (tensorAt img v).all fun t => !fmtMx t.fmt

/-- Field findings of a bank-command descriptor (R78, R249, R251, R260-R263, R276, R278). -/
def bkFindings (img : List Byte) (d : Placed) : List Finding :=
  let t := dType d.img
  let sf := d.f 0x24 15 0
  let pq := t = 0x83
  let b2 := d.f 0x10 5 5
  let mem (v : Nat) : Bool := (tensorAt img v).any fun x => x.kind = 0 || x.kind = 2
  let n2 (v : Nat) : Bool :=
    match t with
    | 0x80 => v != 0 && v % (if sf = 0x10 || sf = 0x11 then 64 else 4) = 0 && v * (1 + b2) ≤ 32768
    | 0x81 => inRange 1 128 v && v * fmtBits (fmtCode sf) % 256 = 0
    | 0x82 => inRange 1 16384 v
    | _ => v = 0
  let slice_ (st : Tensor) : Bool :=
    let e := st.ext.getD 0 0
    if sf = 0x02 || sf = 0x03 then e = 16 || e = 32 else e = 32
  d.chk 0x10 3 2 (· ≤ 2) ++ d.chk 0x10 4 4 (fun v => v = 0 || !pq) ++ d.chk 0x10 5 5 (fun v => v = 0 || t = 0x80)
    ++ d.chk 0x10 7 6 (fun v => v = 0 || pq) ++ d.chk 0x14 31 0 (· != 0) ++ d.chk 0x18 31 0 (· != 0)
    ++ d.chk 0x1C 15 0 (fun v => mem v && (t != 0x82 || slice_ (tensorOf img v))) ++ scratchField img d 0x1C 16
    ++ d.chk 0x20 15 0 (fun v => if d.f 0x10 4 4 = 0 then scratchOf img d.vcore v else v = 0xFFFF)
    ++ scratchOrNone img d 0x20 16
    ++ fmtField img d 0x24 0 (d.f 0x1C 15 0) 0x0A ++ fmtField img d 0x24 16 (d.f 0x1C 31 16) 0x0A
    ++ fmtRole d 0x24 0 (bkStoredFmt t) ++ fmtRole d 0x24 16 (bkRegister t sf)
    ++ d.chk 0x28 31 0 (· % 32 = 0)
    ++ d.chk 0x2C 24 0 (fun v => inRange 1 (if t = 0x82 then 16384 else 2 ^ 24) v)
    ++ d.chk 0x30 15 0 n2 ++ d.chk 0x30 23 16 (fun v => if pq then v % 2 = 0 && inRange 2 64 v else v = 0)
    ++ d.chk 0x38 24 0 (fun v => if pq then inRange 1 (2 ^ 24) v else v = 0)
    ++ d.chk 0x40 15 0 (fun v => v = 0xFFFF || (pq && mem v))
    ++ d.role 0x40 15 0 (fun v => v = 0xFFFF || (tensorAt img v).isNone || fmtOfTid img v = 0x0E) ++ d.chk 0x44 31 0 (· % 32 = 0)
    ++ d.chk 0x48 15 0 (fun v => if d.f 0x10 4 4 = 1 then (tensorAt img v).any fun x => x.kind = 0 else v = 0xFFFF)
    ++ d.chk 0x4C 31 0 (· % 64 = 0) ++ d.chk 0x50 31 0 (· % 32 = 0) ++ d.chk 0x54 31 0 (· % 16 = 0)
    ++ noMx img d 0x20 0 ++ noMx img d 0x20 16 ++ noMx img d 0x48 0

/-- Field findings of a BK_ROWOP (R78, R304). -/
def rowopFindings (img : List Byte) (d : Placed) : List Finding :=
  d.chk 0x10 3 2 (· ≤ 2) ++ d.chk 0x14 31 0 (· != 0) ++ d.chk 0x18 31 0 (· != 0)
    ++ d.chk 0x1C 15 0 (fun v => (tensorAt img v).any fun x => x.kind = 0 && x.fmt = 0x0E)
    ++ d.chk 0x1C 31 16 (fun v => scratchOf img d.vcore v && fmtOfTid img v = 0x12)
    ++ scratchOrNone img d 0x20 0 ++ noMx img d 0x20 0 ++ d.chk 0x24 12 0 (inRange 1 8192) ++ d.chk 0x28 31 0 (· % 8 = 0) ++ d.chk 0x2C 31 0 (· % 16 = 0)

/-- Field findings of a descriptor of a known type and SIZE. -/
def bodyFindings (img : List Byte) (d : Placed) : List Finding :=
  let t := dType d.img
  if t = 0x30 then mmFindings img d
  else if 0x40 ≤ t && t ≤ 0x48 then vxFindings img d
  else if t = 0x60 || t = 0x68 || t = 0x70 || t = 0x71 then tmFindings img d
  else if 0x64 ≤ t && t ≤ 0x66 then drFindings img d
  else if 0x80 ≤ t && t ≤ 0x83 then bkFindings img d
  else if t = 0x90 then rowopFindings img d
  else controlFindings img d

/-- Findings of one descriptor (R107, R108): a reserved type, or one on the wrong queue, is reported alone. -/
def descFindings (img : List Byte) (d : Placed) : List Finding :=
  match typeOf (dType d.img) with
  | none => [d.fnd 0x0D 0 0 (dType d.img)]
  | some (q, size) =>
    if q != 8 && q != d.q then [d.fnd 0x0D 0 0 (dType d.img)]
    else
      let head := d.chk 0 10 8 (· = d.q) ++ d.chk 0 12 11 (· = size) ++ d.chk 0 14 14 (fun v => v = 0 || dRec d.img)
        ++ waitFindings d 4 ++ waitFindings d 8
      head ++ (if dSlots d.img = size + 1 then reservedDesc d ++ arithFindings d ++ bodyFindings img d else [])

/-- Stage DESCRIPTORS. -/
def descriptorFindings (img : List Byte) : List Finding := (imgPlaced img).flatMap (descFindings img)

end Sys2Proof.Machine
end

