-- ==== Sys2Proof/Machine/Verify.lean ====
section
/-!
DEFINITION. Stages STREAMS and PLACEMENT of the verifier, and the verifier as a whole (R18, R104-R106, R109, R116, R135, R155,
R159-R164, R434).
-/

namespace Sys2Proof.Machine

/-- The descriptors of a virtual context, by queue and waybill. -/
def contextDescs (img : List Byte) (vcore vctx : Nat) : List Placed :=
  (List.range 8).flatMap fun q => ((findStream img vcore vctx q).map (streamPlaced img)).getD []

/-- The node of a descriptor's start; its completion is the next number (R160). -/
def startNode (ds : List Placed) (q k : Nat) : Option Nat := (ds.findIdx? fun d => d.q = q && d.k = k).map (2 * ·)

/-- The waits in force of a descriptor. -/
def forcedWaits (d : List Byte) : List (Nat × Nat) :=
  (descWaits d).filterMap fun w => if bit w 19 = 1 then some (bits w 18 16, bits w 15 0) else none

/-- A BARRIER's entry and pass: how many BARRIERs of its queue up to it name the entry (R160). -/
def barrierPass (ds : List Placed) (d : Placed) : Nat × Nat :=
  let e := d.f 0x10 11 0
  (e, (ds.filter fun x => x.q = d.q && x.k ≤ d.k && dType x.img = 0x03 && x.f 0x10 11 0 = e).length)

/-- The edges X → Y of R160. -/
def graphEdges (ds : List Placed) : List (Nat × Nat) :=
  let bind := ds.findIdx? fun d => dType d.img = 0x10 && d.q = qCt
  (ds.zipIdx).flatMap fun (d, i) =>
    [(2 * i, 2 * i + 1)]
      ++ (if d.k ≤ 1 then [] else [(2 * i - 2, 2 * i), (2 * i - 1, 2 * i + 1)])
      ++ ((forcedWaits d.img).filterMap fun w => (startNode ds w.1 w.2).map fun p => (p + 1, 2 * i))
      ++ (if d.q = qCt then [] else (bind.map fun b => (2 * b + 1, 2 * i)).toList)
      ++ (if dType d.img != 0x03 then [] else
          (ds.zipIdx).filterMap fun (b, j) =>
            if j != i && dType b.img = 0x03 && barrierPass ds b = barrierPass ds d then some (2 * j, 2 * i + 1) else none)

/-- The nodes that Kahn's algorithm sorts, in order: at each step the lowest node whose predecessors are all sorted. -/
def kahn (edges : List (Nat × Nat)) (n : Nat) : Nat → List Nat → List Nat
  | 0, done => done
  | fuel + 1, done =>
    match (List.range n).find? fun x => !done.contains x && edges.all fun e => e.2 != x || done.contains e.1 with
    | some x => kahn edges n fuel (done ++ [x])
    | none => done

/-- Elementwise maximum. -/
def maxVec (a b : List Nat) : List Nat := (List.range 8).map fun i => max (a.getD i 0) (b.getD i 0)

/-- K of every sorted node (R160). -/
def kTable (ds : List Placed) (edges : List (Nat × Nat)) (order : List Nat) : SMap (List Nat) :=
  order.foldl (fun t x =>
    let v := edges.foldl (fun v e => if e.2 = x then maxVec v (SMap.get (fun _ => []) t e.1) else v) [0, 0, 0, 0, 0, 0, 0, 0]
    let v := if x % 2 = 1 then (match ds[x / 2]? with
      | some d => v.set d.q (max (v.getD d.q 0) d.k)
      | none => v) else v
    SMap.ins x v t) []

/-- Shortest path back to `target` along edges that stay among unsorted nodes: paths are held newest node first. -/
def cyclePath (edges : List (Nat × Nat)) (target : Nat) : Nat → List (List Nat) → List Nat → Option (List Nat)
  | 0, _, _ => none
  | fuel + 1, front, seen =>
    match front.find? fun p => edges.contains (p.headD 0, target) with
    | some p => some p.reverse
    | none =>
      let r := front.foldl (fun (acc : List (List Nat) × List Nat) p =>
        edges.foldl (fun acc e => if e.1 = p.headD 0 && !acc.2.contains e.2 then (acc.1 ++ [e.2 :: p], acc.2 ++ [e.2]) else acc) acc)
        ([], seen)
      if r.1.isEmpty then none else cyclePath edges target fuel r.1 r.2

/-- Consecutive equal entries once. -/
def dedupNext : List Nat → List Nat
  | [] => []
  | x :: xs => if xs.head? = some x then dedupNext xs else x :: dedupNext xs

/-- The members of one cycle, by descriptor index, from the lowest descriptor that lies on a cycle (R160). -/
def cycleMembers (edges : List (Nat × Nat)) (n : Nat) (done : List Nat) : List Nat :=
  let left := (List.range n).filter fun x => !done.contains x
  let inner := edges.filter fun e => left.contains e.1 && left.contains e.2
  let paths := left.filterMap fun x => cyclePath inner x n [[x]] [x]
  let ms := dedupNext ((paths.headD []).map (· / 2))
  if 1 < ms.length && ms.head? = ms.getLast? then ms.dropLast else ms

/-- DEADLOCK findings of a context. -/
def deadlockFindings (ds : List Placed) (edges : List (Nat × Nat)) (done : List Nat) : List Finding :=
  if done.length = 2 * ds.length then []
  else
    let ms := cycleMembers edges (2 * ds.length) done
    let nexts := ms.drop 1 ++ ms.take 1
    (ms.zip nexts).filterMap fun (a, b) =>
      match ds[a]?, ds[b]? with
      | some d, some e => some { d.whole 0x13 (e.q * 2 ^ 16 + e.k) 0 with cycle := true }
      | _, _ => none

/-- WB_UNREACHABLE findings (R116, R166): each is about one wait word. -/
def reachFindings (img : List Byte) (d : Placed) : List Finding :=
  (waitOffs d.img).flatMap fun o =>
    let w := dWait d.img o
    let q := bits w 18 16
    let k := bits w 15 0
    unless_ (bit w 19 = 0 || (((findStream img d.vcore d.vctx q).any fun t => inRange 1 t.descs k) && !(q = d.q && d.k ≤ k)))
      (d.fnd 0x12 o 0 w)

/-- END last and unique in a stream (R109). -/
def endFindings (img : List Byte) (i : Nat) : List Finding :=
  let t := streamOf (streamEntry img i)
  let ds := streamPlaced img t
  unless_ ((ds.filter fun d => dType d.img = 0x04).length = 1 && (ds.getLast?.any fun d => dType d.img = 0x04))
    { code := 0x0F, table := 2, index := i, off := imgField img 0x18 31 0 + 32 * i }

/-- EPOCH_BINDING findings of a context: where CTX_BIND stands (R105, R109). -/
def bindFindings (img : List Byte) (vcore vctx : Nat) (ds : List Placed) : List Finding :=
  let first := ds.any fun d => dType d.img = 0x10 && d.q = qCt && d.k = 1
  ds.flatMap (fun d => unless_ (dType d.img != 0x10 || (d.q = qCt && d.k = 1)) (d.whole 0x16 0 0))
    ++ (snapshotEntry img vcore vctx).toList.flatMap fun i =>
        let src := fieldAt (epochEntry img i) 8 1 0
        unless_ ((src = 1) = first) { code := 0x16, table := 4, index := i, off := imgField img 0x28 31 0 + 16 * i + 8, arg0 := src }

/-- BARRIER_COUNT findings of one barrier entry (R104). -/
def passFindings (img : List Byte) (i : Nat) : List Finding :=
  let e := barrierEntry img i
  let ds := contextDescs img (fieldAt e 0 15 0) (fieldAt e 0 17 16)
  (List.range 8).flatMap fun q =>
    let n := (ds.filter fun d => d.q = q && dType d.img = 0x03 && d.f 0x10 11 0 = i).length
    unless_ (n = if bit (fieldAt e 0 31 24) q = 1 then fieldAt e 4 15 0 else 0)
      { code := 0x14, table := 3, index := i, off := imgField img 0x20 31 0 + 16 * i, queue := q, vctx := fieldAt e 0 17 16, arg0 := n }

/-- A BAR_ARRIVE with WAIT = 0. -/
def splitArrive (d : Placed) : Bool := dType d.img = 0x25 && d.f 0x14 0 0 = 0

/-- WAIT = 0 arrivals outstanding after descriptor `k` of a Q_SY stream (R135). -/
def outstanding (ds : List Placed) (k : Nat) : Nat :=
  (ds.filter fun d => splitArrive d && d.k ≤ k && !ds.any fun w => dType w.img = 0x26 && w.k ≤ k && w.f 0x14 15 0 = d.k).length

/-- SPLIT_ARRIVE findings of a context (R135). -/
def splitFindings (ds : List Placed) : List Finding :=
  let sy := ds.filter fun d => d.q = qSy
  sy.flatMap fun d =>
    if splitArrive d then unless_ (outstanding sy d.k ≤ 16) (d.whole 0x15 0 0)
    else if dType d.img = 0x26 then
      unless_ (sy.any fun a => splitArrive a && a.k < d.k && a.k = d.f 0x14 15 0) (d.fnd 0x15 0x14 0 (d.f 0x14 15 0))
    else []

/-- TENSOR_BOUNDS findings of a descriptor (R162, R276, R537). -/
def boundsFindings (img : List Byte) (d : Placed) : List Finding :=
  (descAccs img d.img).flatMap (fun a =>
      let n := (tensorOf img a.tid).bytes
      unless_ (a.hi ≤ n) (d.whole 0x10 a.tid (a.hi - max a.lo n)))
    ++ (if 0x80 ≤ dType d.img && dType d.img ≤ 0x83 then
          let r := bkRegBytes (dType d.img) (bkBody img d.img)
          unless_ (r ≤ 65536) (d.whole 0x10 (d.f 0x1C 31 16) (r - 65536))
        else [])

/-- The static writes of a descriptor to BOUND or REGION tensors: base, and bytes from it (R161). -/
def dramWrites (img : List Byte) (d : Placed) : List (Nat × (Nat × Nat) × Nat × Nat) :=
  (descAccs img d.img).filterMap fun a =>
    let t := tensorOf img a.tid
    if a.write && t.kind != 1 && a.lo < a.hi then some (a.tid, (t.kind, t.sel), t.offset + a.lo, t.offset + a.hi) else none

/-- OVERLAP_WRITE findings of a context (R161): each unordered pair once, at the later in (queue, waybill) order. -/
def overlapFindings (img : List Byte) (ds : List Placed) (k : SMap (List Nat)) : List Finding :=
  let ws := (ds.zipIdx).flatMap fun (d, i) => (dramWrites img d).map fun w => (i, d, w)
  let kAt (i q : Nat) : Nat := (SMap.get (fun _ => []) k (2 * i)).getD q 0
  ws.flatMap fun (j, b, wb) => ws.flatMap fun (i, a, wa) =>
    unless_ (!(i < j && wa.2.1 = wb.2.1 && wa.2.2.1 < wb.2.2.2 && wb.2.2.1 < wa.2.2.2 && kAt j a.q < a.k && kAt i b.q < b.k))
      (b.whole 0x11 (a.q * 2 ^ 16 + a.k) wb.1)

/-- The virtual contexts that have a stream, in stream-table order. -/
def imgContexts (img : List Byte) : List (Nat × Nat) := ((imgStreams img).map fun t => (t.vcore, t.vctx)).eraseDups

/-- Findings of the graph of one context (R160, R161). -/
def graphFindings (img : List Byte) (ds : List Placed) : List Finding :=
  let edges := graphEdges ds
  let order := kahn edges (2 * ds.length) (2 * ds.length) []
  if order.length = 2 * ds.length then overlapFindings img ds (kTable ds edges order) else deadlockFindings ds edges order

/-- Stage STREAMS. -/
def streamStage (img : List Byte) : List Finding :=
  (List.range (imgStreamCount img)).flatMap (endFindings img)
    ++ (List.range (imgBarrierCount img)).flatMap (passFindings img)
    ++ (imgContexts img).flatMap fun x =>
        let ds := contextDescs img x.1 x.2
        bindFindings img x.1 x.2 ds ++ ds.flatMap (reachFindings img) ++ splitFindings ds ++ graphFindings img ds
          ++ ds.flatMap (boundsFindings img)

/-- An entry of a placement (R434): the core, the contexts used, their hardware contexts and their SP_BASE in bytes. -/
structure PlaceEntry where
  page : Nat := 0
  en : Nat := 0
  hw : List Nat := []
  sp : List Nat := []
  reserved : Bool := false
deriving DecidableEq, Repr

/-- Decode entry `v` of a placement. -/
def placeEntry (bytes : List Byte) (v : Nat) : PlaceEntry :=
  let f := fieldAt (slice bytes (16 * v) 16)
  { page := f 0 13 0, en := f 0 19 16, hw := (List.range 4).map fun i => f 0 (25 + 2 * i) (24 + 2 * i)
    sp := [f 4 13 0, f 4 29 16, f 8 13 0, f 8 29 16].map (· * 2048)
    reserved := f 0 15 14 != 0 || f 0 23 20 != 0 || f 4 15 14 != 0 || f 4 31 30 != 0 || f 8 15 14 != 0 || f 8 31 30 != 0 || f 0xC 31 0 != 0 }

/-- The core that a placement entry names, if its page is the first of a CORE unit. -/
def PlaceEntry.core (e : PlaceEntry) : Option Nat :=
  match unitOfPage e.page with
  | some (.core n m j, 0) => some (coreNo n m j)
  | _ => none

/-- The virtual contexts that a placement entry uses. -/
def PlaceEntry.ctxs (e : PlaceEntry) : List Nat := (List.range 4).filter fun i => bit e.en i = 1

/-- A placement entry keeps the legal values of R434. -/
def PlaceEntry.legal (e : PlaceEntry) (img : List Byte) (v : Nat) : Bool :=
  let hw := e.ctxs.map fun i => e.hw.getD i 0
  !e.reserved && ((imgStreams img).all fun t => t.vcore != v || bit e.en t.vctx = 1) && hw.Nodup && e.sp.all (· ≤ 12287 * 2048)

/-- PLACEMENT findings of virtual core `v` (R163, R434). -/
def placeFindings (s : State) (img bytes : List Byte) (v : Nat) : List Finding :=
  let e := placeEntry bytes v
  let f : Finding := { code := 0x19, table := 8, index := v, off := 0xFFFFFFFF, arg0 := fieldAt (slice bytes (16 * v) 16) 0 31 0 }
  match e.core with
  | none => [f]
  | some g => unless_ (e.legal img v && unitReachable s (coreUnit g) && (List.range v).all fun u => (placeEntry bytes u).core != some g) f

/-- FOREIGN_STACK findings of a virtual core (R18, R163). -/
def foreignFindings (img bytes : List Byte) (v : Nat) : List Finding :=
  match (placeEntry bytes v).core with
  | none => []
  | some g => ((imgPlaced img).filter fun d => d.vcore = v && d.q = qBk && 0x80 ≤ dType d.img).flatMap fun d =>
      unless_ (d.f 0x10 1 0 = corePart g) (d.fnd 0x1A 0x10 0 (d.f 0x10 1 0))

/-- The units that a placement uses (R106): each placed core's header and engines, the controllers that its descriptors name,
and `dev`. -/
def usedUnits (img : List Byte) (cores : List Nat) : List UnitId :=
  .dev :: (cores.flatMap fun g => (coreUnit g).all)
    ++ ((imgPlaced img).filter fun d => d.q = qBk && 0x80 ≤ dType d.img).map fun d => UnitId.mc (d.f 0x10 1 0) (d.f 0x10 3 2)

/-- Capability entry `i` holds for every used unit of its class (R106). -/
def capsHold (s : State) (img : List Byte) (cores : List Nat) (i : Nat) : Bool :=
  let e := capsEntry img i
  (usedUnits img cores).all fun u =>
    u.classCode != fieldAt e 0 7 0 ||
      ((u.constWord s.variant (0x30 + 4 * fieldAt e 0 9 8)).getD 0 &&& fieldAt e 4 31 0) = fieldAt e 8 31 0

/-- CAPABILITY findings. -/
def capabilityFindings (s : State) (img : List Byte) (cores : List Nat) : List Finding :=
  (List.range (imgCapsCount img)).flatMap fun i =>
    unless_ (capsHold s img cores i) { code := 0x18, table := 5, index := i, off := imgField img 0x30 31 0 + 16 * i }

/-- The core number of each virtual core of a placement. -/
def placedCores (img bytes : List Byte) : List Nat := (List.range (imgVcores img)).map fun v => ((placeEntry bytes v).core).getD 0

/-- Stage PLACEMENT. -/
def placementStage (s : State) (img bytes : List Byte) : List Finding :=
  let vs := List.range (imgVcores img)
  vs.flatMap (placeFindings s img bytes) ++ vs.flatMap (foreignFindings img bytes)
    ++ capabilityFindings s img (vs.filterMap fun v => (placeEntry bytes v).core)

/-- Stages AUTH to STREAMS: the first stage with a finding, by its code of R155, and its findings; none when all pass. -/
def verifyImage (key : Option (List Byte)) (img : List Byte) : Option (Nat × List Finding) :=
  let a := authFindings key img
  if !a.isEmpty then some (0, a) else
  let h := headerFindings img
  if !h.isEmpty then some (1, h) else
  let t := tableFindings img
  if !t.isEmpty then some (2, t) else
  let d := descriptorFindings img
  if !d.isEmpty then some (3, d) else
  let x := streamStage img
  if !x.isEmpty then some (4, x) else none

end Sys2Proof.Machine
end

