-- ==== Sys2Proof/Machine/Loader.lean ====
section
/-!
DEFINITION. The loader (R123-R126, R153-R158, R163, R165, R166, R168): its queue, the check of a load command, the stages in
order, the slots of stage SLOTS, and the report and completion of every load.
-/

namespace Sys2Proof.Machine

/-- The pieces of a span that lie on one stack each. -/
def stackPieces (v : Variant) : Nat → Nat → Nat → List (Nat × Nat)
  | 0, _, _ => []
  | f + 1, a, n => if n = 0 then [] else
    let m := min n (2 ^ stackBits v - a % 2 ^ stackBits v)
    (a, m) :: stackPieces v f (a + m) (n - m)

/-- What stops an access of the spine to a span of DRAM. -/
def spineGate (s : State) (a n : Nat) (write : Bool) : Option MemStop :=
  (stackPieces s.variant 3 a n).findSome? fun p => memGate s none spinePortAt p.1 p.2 write

/-- A read of the spine: `none` where the span is not readable (R466), the bytes with their poison marks otherwise. -/
def spineRead (a n : Nat) (s : State) : Option (List (Byte × Bool)) × State :=
  if !inDram s.variant a n then (none, s)
  else if (spineGate s a n false).isSome then (none, s)
  else
    let r := readSpan spinePortAt a n s
    (some r.1, r.2)

/-- The span is held up now: the state in which the access waits, host copies being asked back (R439). -/
def spineHeld (a n : Nat) (write : Bool) (s : State) : Option State :=
  if !inDram s.variant a n then none
  else match spineGate s a n write with
    | some (.snoop ls) => some (snoopLines ls s)
    | some (.wait held) => some (noteWaits spinePortAt none held s)
    | some .retry => some s
    | _ => none

/-- The partition that holds the span is out of service (R466). -/
def spanGone (s : State) (a n : Nat) : Bool :=
  (stackPieces s.variant 3 a n).any fun p => partState s (partOfStack (p.1 / 2 ^ stackBits s.variant)) = 4

/-- A write of the spine. -/
def spineWrite (a : Nat) (bytes : List Byte) (s : State) : State :=
  writeSpan a bytes false (spinePortAt s (stackOfCol (locate s a))) s

/-- IMAGE_DPA (R154). -/
def ldImage (b : List Byte) : Nat := fieldAt b 0x00 63 0
/-- IMAGE_LEN. -/
def ldLen (b : List Byte) : Nat := fieldAt b 0x08 31 0
/-- TARGET. -/
def ldTarget (b : List Byte) : Nat := fieldAt b 0x0C 0 0
/-- PLACE_DPA. -/
def ldPlace (b : List Byte) : Nat := fieldAt b 0x10 63 0
/-- REPORT_DPA. -/
def ldReport (b : List Byte) : Nat := fieldAt b 0x18 63 0
/-- REPORT_LEN. -/
def ldReportLen (b : List Byte) : Nat := fieldAt b 0x20 15 0

/-- IMAGE_LEN is legal. -/
def ldLenOk (b : List Byte) : Bool := 256 ≤ ldLen b && ldLen b ≤ 0x04000000 && ldLen b % 64 = 0
/-- REPORT_LEN is legal. -/
def ldReportLenOk (b : List Byte) : Bool := 64 ≤ ldReportLen b && ldReportLen b ≤ 1088 && ldReportLen b % 32 = 0
/-- REPORT_DPA is legal. -/
def ldReportOk (v : Variant) (b : List Byte) : Bool :=
  ldReport b % 64 = 0 && inDram v (ldReport b) (if ldReportLenOk b then ldReportLen b else 1)

/-- Findings of the command's own fields (R154). -/
def commandFindings (v : Variant) (b : List Byte) : List Finding :=
  let bad (off arg : Nat) : Finding := { code := 0x05, table := 9, off := off, arg0 := arg % 2 ^ 32 }
  unless_ (ldImage b % 64 = 0 && inDram v (ldImage b) (if ldLenOk b then ldLen b else 1)) (bad 0x00 (ldImage b))
    ++ unless_ (ldLenOk b) (bad 0x08 (ldLen b))
    ++ unless_ (fieldAt b 0x0C 31 1 = 0) (bad 0x0C (fieldAt b 0x0C 31 1))
    ++ unless_ (ldPlace b % 64 = 0 && inDram v (ldPlace b) 1) (bad 0x10 (ldPlace b))
    ++ unless_ (ldReportOk v b) (bad 0x18 (ldReport b))
    ++ unless_ (ldReportLenOk b) (bad 0x20 (ldReportLen b))
    ++ unless_ (fieldAt b 0x20 31 16 ≤ 10000) (bad 0x22 (fieldAt b 0x20 31 16))

/-- What a load ends with. -/
structure LoadEnd where
  result : Nat := 0
  stage : Nat := 0
  findings : List Finding := []
  size : Nat := 0
  id : Nat := 0
  us : Nat := 0
deriving DecidableEq, Repr

/-- Findings that the report holds: as many as REPORT_LEN has room for, at most 32 (R155, R165). -/
def LoadEnd.fit (e : LoadEnd) (b : List Byte) : List Finding :=
  e.findings.take (if ldReportLenOk b then min 32 ((ldReportLen b - 64) / 32) else 32)

/-- The bytes of a report (R165, R166). -/
def reportBytes (s : State) (e : LoadEnd) (b : List Byte) : List Byte :=
  let fs := e.fit b
  leBytes 4 (e.result + e.stage * 2 ^ 8 + fs.length * 2 ^ 16 + (if fs.length < e.findings.length then 2 ^ 22 else 0))
    ++ leBytes 4 e.id ++ leBytes 4 e.size ++ leBytes 4 (epochNow s) ++ leBytes 4 (min e.us 0xFFFFFFFF) ++ leBytes 44 0
    ++ fs.flatMap Finding.toBytes

/-- A report of this command can be written. -/
def reportable (s : State) (b : List Byte) : Bool :=
  ldReportOk s.variant b && ldReportLenOk b && !spanGone s (ldReport b) (ldReportLen b)

/-- The write of the report is held up. -/
def reportHeld (s : State) (b : List Byte) : Option State :=
  if ldReportOk s.variant b && ldReportLenOk b then spineHeld (ldReport b) (ldReportLen b) true s else none

/-- A load ends: report, then completion (R165, R432). A report that cannot be written where its fields are legal turns a
rejection into REPORT_READ (R158). -/
def endLoad (c : LoadCmd) (e : LoadEnd) (s : State) : State :=
  let legal := ldReportOk s.variant c.body && ldReportLenOk c.body
  let lost := legal && !reportable s c.body
  let s := if reportable s c.body then spineWrite (ldReport c.body) (reportBytes s e c.body) s else s
  let result := if lost && e.result != 0 then 0x1E else e.result
  cmdComplete c.sess c.noirq { tag := c.tag, id := e.id, opcode := 2, result := result, cstat := if result = 0 then 0 else 4
                               detail := (e.fit c.body).length } s

/-- A run uses a slot of a core: it runs from the slot's content and has a context there (R123). -/
def runUses (s : State) (g slot : Nat) (e : Nat × Option Run) : Bool :=
  (e.2.map fun r => r.slot == slot && r.loadId == (pmAt s (2 * g + slot)).loadId && r.ctxs.any fun c => c / 4 == g).getD false

/-- Runs that use the slot (R167). -/
def slotRuns (s : State) (g slot : Nat) : Nat := (s.runs.filter (runUses s g slot)).length

/-- A context has loaded every stream of its manifest, or fetches nothing any more (R124, R126). -/
def ctxFetched (r : Run) (c : Ctx) : Bool :=
  (c.st = .halted || c.st = .free) ||
    (List.range 8).all fun q =>
      (findStream r.image c.vcore c.vctx q).isNone || (c.q q).loaded = streamLen r.image c.vcore c.vctx q

/-- The slot is free: every context that runs from it has loaded its streams (R124). -/
def slotFree (s : State) (g slot : Nat) : Bool :=
  s.runs.all fun e => !runUses s g slot e ||
    (e.2.map fun r => ((runCtxs s e.1 r).filter fun c => c / 4 = g).all fun c => ctxFetched r (ctxAt s c)).getD true

/-- The state of a slot: DRAINING becomes LOADING as soon as the slot is free (R125). -/
def pmShown (s : State) (g slot : Nat) : PmState :=
  let st := (pmAt s (2 * g + slot)).st
  if st = .draining && slotFree s g slot then .loading else st

/-- The state that a reserved slot returns to (R126, R168): READY, also where it held nothing. -/
def slotBack (s : State) (g slot : Nat) : PmState := if 0 < slotRuns s g slot then .active else .ready

/-- Give back the slots that a load reserved: emptied where it has begun to write them (R126, R168). -/
def releaseSlots (l : Loading) (s : State) : State :=
  l.cores.foldl (fun t g =>
    let k := 2 * g + l.target
    putPm k (if l.writing then {} else { pmAt t k with st := slotBack t g l.target }) t) { s with loading := none }

/-- A load in stage SLOTS is interrupted (R168); how long it has taken is free (log entry 86). -/
def interruptLoad (s : State) : State :=
  match s.loading with
  | none => s
  | some l => endLoad l.cmd { result := 0x1D, stage := 6, size := l.image.length, us := freshVal s } (releaseSlots l (freshNext s))

/-- A reset or a loss of partition `n` ends a load that it concerns (R168). -/
def interruptLoadOn (n : Nat) (s : State) : State :=
  match s.loading with
  | none => s
  | some l => if n = 3 || l.cores.any (fun g => corePart g = n) then interruptLoad s else s

/-- The SLOT_BUSY finding of a virtual core. -/
def slotBusy (v : Nat) : Finding := { code := 0x1B, table := 8, index := v }

/-- Stage SLOTS begins: the target slot of every placed core is reserved, or the load is refused (R124, R126). -/
def reserveSlots (c : LoadCmd) (img : List Byte) (cores : List Nat) (us : Nat) (s : State) : State :=
  let target := ldTarget c.body
  let st (g : Nat) := (pmAt s (2 * g + target)).st
  let busy := (cores.zipIdx).filter fun e => st e.1 = .loading || st e.1 = .draining
  if !busy.isEmpty then
    endLoad c { result := 0x1B, stage := 6, findings := busy.map fun e => slotBusy e.2, size := img.length, us := us } s
  else
    let s := { s with loading := some { cmd := c, image := img, cores := cores, target := target } }
    cores.foldl (fun t g =>
      let k := 2 * g + target
      putPm k { pmAt t k with st := if slotFree t g target then .loading else .draining } t) s

/-- The image has been verified to stage STREAMS: stage PLACEMENT, then SLOTS (R155, R163). -/
def placeLoad (c : LoadCmd) (img : List Byte) (us : Nat) (s : State) : State :=
  let r := spineRead (ldPlace c.body) (16 * imgVcores img) s
  let bytes := (r.1.getD []).map Prod.fst
  let unread := (r.1.map fun l => l.any Prod.snd).getD true
  let fs := if unread then [{ code := 0x19, table := 8 }] else placementStage r.2 img bytes
  match fs with
  | f :: _ => endLoad c { result := f.code, stage := 5, findings := fs, size := img.length, us := us } r.2
  | [] => reserveSlots c img (placedCores img bytes) us r.2

/-- Stages COPY to PLACEMENT of a load whose command is legal (R155). -/
def runLoad (c : LoadCmd) (us : Nat) (s : State) : State :=
  let r := spineRead (ldImage c.body) (ldLen c.body) s
  match r.1 with
  | none => endLoad c { result := 0x03, findings := [{ code := 0x03 }], us := us } r.2
  | some l =>
    if l.any Prod.snd then endLoad c { result := 0x03, findings := [{ code := 0x03 }], us := us } r.2
    else
      let img := l.map Prod.fst
      let s := spineWrite (loaderBase r.2.variant) img r.2
      match verifyImage (SMap.get (fun _ => none) s.keys (fieldAt img 0x40 7 0)) img with
      | some (stage, fs) =>
        endLoad c { result := (fs.headD {}).code, stage := stage, findings := fs
                    size := if stage = 0 then 0 else fieldAt img 8 31 0, us := us } s
      | none => placeLoad c img us s

/-- The load's accesses that are held up at dequeue, in order: image, placement, report. -/
def loadHeld (b : List Byte) (s : State) : Option State :=
  (spineHeld (ldImage b) (ldLen b) false s).orElse fun _ =>
    let img := ((spineRead (ldImage b) 64 s).1.getD []).map Prod.fst
    (spineHeld (ldPlace b) (16 * imgVcores img) false s).orElse fun _ => reportHeld s b

/-- The loader takes its oldest command (R153-R155, R466). A held access leaves the command waiting. -/
def loaderDequeue (us : Nat) (s : State) : State :=
  match s.loading, s.loadQ with
  | none, c :: rest =>
    let fs := commandFindings s.variant c.body
    let t := { s with loadQ := rest }
    if !fs.isEmpty then
      match reportHeld s c.body with
      | some w => w
      | none => endLoad c { result := 0x05, stage := 1, findings := fs, us := us } t
    else if partState s 3 = 4 then
      match reportHeld s c.body with
      | some w => w
      | none => endLoad c { result := 0x1D, us := us } t
    else match loadHeld c.body s with
      | some w => w
      | none => if partState s 3 != 0 && partState s 3 != 3 then s else runLoad c us t
  | _, _ => s

/-- LOADER_DEQUEUE (R154, R155). -/
def execLoaderDequeue (elapsedUs : Nat) (s : State) : Result := .next (loaderDequeue elapsedUs s)

/-- LOAD_SLOTS (R124-R126): every reserved slot is free, and the loader begins to write. -/
def execLoadSlots (s : State) : Result :=
  match s.loading with
  | none => .next s
  | some l =>
    if l.writing || !l.cores.all (fun g => slotFree s g l.target) then .next s
    else
      let s := l.cores.foldl (fun t g => putPm (2 * g + l.target) { pmAt t (2 * g + l.target) with st := .loading } t) s
      .next { s with loading := some { l with writing := true } }

/-- The next LOAD_ID (R156): the first from `n` on that is not 0 and that no slot holds; `fuel` bounds the search. -/
def nextLoadId (pms : SMap PmSlot) : Nat → Nat → Nat
  | 0, n => n
  | f + 1, n => if n = 0 || pms.any fun e => e.2.loadId = n then nextLoadId pms f ((n + 1) % 65536) else n

/-- LOAD_COMPLETE (R156): every target slot is READY at once and the load completes OK. -/
def execLoadComplete (elapsedUs : Nat) (s : State) : Result :=
  match s.loading with
  | none => .next s
  | some l =>
    if !l.writing then .next s
    else match reportHeld s l.cmd.body with
      | some w => .next w
      | none =>
        let id := nextLoadId s.pms 1024 ((s.loadCount + 1) % 65536)
        let s := (l.cores.zipIdx).foldl (fun t e =>
          putPm (2 * e.1 + l.target) { st := .ready, loadId := id, image := l.image, vcore := e.2 } t) { s with loading := none, loadCount := id }
        .next (endLoad l.cmd { stage := 6, size := l.image.length, id := id, us := elapsedUs } s)

/-- LOAD_WAIT_EXPIRE (R126): a load whose slots are not all free is refused; one whose last slot has just become free goes on. -/
def execLoadWaitExpire (elapsedUs : Nat) (s : State) : Result :=
  match s.loading with
  | none => .next s
  | some l =>
    let busy := (l.cores.zipIdx).filter fun e => !slotFree s e.1 l.target
    if l.writing || busy.isEmpty then .next s
    else match reportHeld s l.cmd.body with
      | some w => .next w
      | none =>
        .next (endLoad l.cmd { result := 0x1B, stage := 6, findings := busy.map fun e => slotBusy e.2, size := l.image.length, us := elapsedUs }
          (releaseSlots l s))

end Sys2Proof.Machine
end

