-- ==== Sys2Proof/Machine/SyncOps.lean ====
section
/-!
DEFINITION. The Q_SY descriptors (R130-R139): operations on flags, counters and barriers, remote signals and host flags; and
the application of held remote signals (R144, R406).
-/

namespace Sys2Proof.Machine

/-- Note the Q_SY operation that was applied last on a context's behalf (R459). -/
def noteSy (g c k old : Nat) (s : State) : State := putCtx (ctxId g c) { ctxAt s (ctxId g c) with sy := some (k, old) } s

/-- A Q_SY descriptor that applies one operation and completes: `f` gives the state after it and the counter's old value. One
whose operation was applied before an interruption is not issued again (R459). -/
def syRun (g c : Nat) (p : List Byte → Bool) (f : Work → State → Nat × State) (s : State) : State :=
  match takeDesc s g c qSy p with
  | none => s
  | some (w, t) =>
    if syApplied (ctxAt t (ctxId g c)) w.k then endWork g c qSy w.k .ok 0 0 t
    else
      let r := f w t
      endWork g c qSy w.k .ok 0 0 (noteSy g c w.k r.1 r.2)

/-- The object that a descriptor's handle names: the Serai and the absolute index (R129). -/
def descObject (s : State) (g c kind : Nat) (d : List Byte) : Nat × Nat := objectOf s (ctxId g c) kind (fieldAt d 0x10 31 0)

/-- FLAG_OP with operation `op`; `v` gives the new value (R130). -/
def flagOp (g c op : Nat) (v : Bool → Bool) (s : State) : State :=
  syRun g c (fun d => dType d = 0x20 && fieldAt d 0x14 1 0 = op) (fun w t =>
    let o := descObject t g c 0 w.img
    (0, putFlag o.1 o.2 (v (flagAt t o.1 o.2)) t)) s

/-- FLAG_OP SET (R130). -/
def execFlagSet (core ctx : Nat) (s : State) : Result := .next (flagOp core ctx 0 (fun _ => true) s)
/-- FLAG_OP CLEAR (R130). -/
def execFlagClear (core ctx : Nat) (s : State) : Result := .next (flagOp core ctx 1 (fun _ => false) s)
/-- FLAG_OP TOGGLE (R130). -/
def execFlagToggle (core ctx : Nat) (s : State) : Result := .next (flagOp core ctx 2 (fun b => !b) s)

/-- The context's loaded descriptor is a non-consuming FLAG_WAIT on the flag that is met now. -/
def flagWaiter (s : State) (o : Nat × Nat) (id : Nat) : Option Desc :=
  ((ctxAt s id).q qSy).idle.filter fun d => dType d.img = 0x21 && fieldAt d.img 0x14 1 1 = 0 &&
    objectOf s id 0 (fieldAt d.img 0x10 31 0) = o && isReady s (id / 4) qSy (id % 4)

/-- Every non-consuming wait that the flag meets is released, before a consuming wait clears it (R130). -/
def releaseWaits (o : Nat × Nat) (s : State) : State :=
  s.ctxs.foldl (fun t e =>
    match flagWaiter t o e.1 with
    | none => t
    | some d =>
      let g := e.1 / 4
      let c := e.1 % 4
      endWork g c qSy d.k .ok 0 0 (noteSy g c d.k 0 (startDesc g c qSy d t))) s

/-- FLAG_WAIT (R130): the flag holds the awaited value; a consuming wait clears it. -/
def execFlagWait (core ctx : Nat) (s : State) : Result :=
  .next (syRun core ctx (fun d => dType d = 0x21) (fun w t =>
    let o := descObject t core ctx 0 w.img
    (0, if fieldAt w.img 0x14 1 1 = 1 then putFlag o.1 o.2 false (releaseWaits o t) else t)) s)

/-- The old value that a CTR_OP with RET = 1 returns is written to the scratchpad (R132). -/
def retWrite (g c : Nat) (d : List Byte) (old : Nat) (s : State) : State :=
  if fieldAt d 0x14 1 1 = 1 then
    writeNarrow g ((ctxAt s (ctxId g c)).spBase + fieldAt d 0x1C 23 0) ((leBytes 4 old).map fun b => (b, false)) s
  else s

/-- CTR_OP with operation `op`: 0 ADD, 1 SET (R131, R132). A repeated one returns the journalled old value (R459). -/
def ctrOp (g c op : Nat) (s : State) : State :=
  match takeDesc s g c qSy fun d => dType d = 0x22 && fieldAt d 0x14 0 0 = op with
  | none => s
  | some (w, t) =>
    let cx := ctxAt t (ctxId g c)
    if syApplied cx w.k then endWork g c qSy w.k .ok 0 0 (retWrite g c w.img ((cx.sy.map Prod.snd).getD 0) t)
    else
      let o := descObject t g c 1 w.img
      let old := ctrAt t o.1 o.2
      let v := fieldAt w.img 0x18 31 0
      let t := noteSy g c w.k old (putCtr o.1 o.2 (if op = 0 then old + v else v) t)
      endWork g c qSy w.k .ok 0 0 (retWrite g c w.img old t)

/-- CTR_OP ADD (R131). -/
def execCtrAdd (core ctx : Nat) (s : State) : Result := .next (ctrOp core ctx 0 s)
/-- CTR_OP SET (R131). -/
def execCtrSet (core ctx : Nat) (s : State) : Result := .next (ctrOp core ctx 1 s)

/-- CTR_WAIT (R131). -/
def execCtrWait (core ctx : Nat) (s : State) : Result :=
  .next (syRun core ctx (fun d => dType d = 0x23) (fun _ t => (0, t)) s)

/-- BAR_INIT (R134, R137). PROD and CONS are handles in the barrier's own scope. -/
def execBarInit (core ctx : Nat) (s : State) : Result :=
  match takeDesc s core ctx qSy fun d => dType d = 0x24 with
  | none => .next s
  | some (w, t) =>
    if syApplied (ctxAt t (ctxId core ctx)) w.k then .next (endWork core ctx qSy w.k .ok 0 0 t)
    else
      let o := descObject t core ctx 2 w.img
      let dev := fieldAt w.img 0x10 12 12 * 2 ^ 12
      let ctr (rel : Nat) := (objectOf t (ctxId core ctx) 1 (dev + rel)).2
      match barInit o.1 o.2 (fieldAt w.img 0x14 12 0) (fieldAt w.img 0x14 16 16 = 1) (ctr (fieldAt w.img 0x18 11 0))
          (ctr (fieldAt w.img 0x18 27 16)) t with
      | none => .next (endWork core ctx qSy w.k .fault 0 0x22 t)
      | some u => .next (endWork core ctx qSy w.k .ok 0 0 (noteSy core ctx w.k 0 u))

/-- Record the arrival of descriptor `k` in the current generation of a barrier, then count it (R134, R135). -/
def recordArrival (g c k : Nat) (o : Nat × Nat) (s : State) : State :=
  let cx := ctxAt s (ctxId g c)
  let e : SplitGen := { k := k, device := o.1 = 4, idx := o.2, gen := (barAt s o.1 o.2).gen }
  let s := putCtx (ctxId g c) { cx with gens := (cx.gens.filter fun x => x.k != k) ++ [e], sy := some (k, 0) } s
  barArrive o.1 o.2 (some (ctxId g c, absWb cx qSy k)) s

/-- BAR_ARRIVE (R134, R135): one whose generation completed before it was loaded again after a reset is done (R459). With WAIT = 1 the descriptor stays unstarted until its generation completes; with WAIT = 0 it
completes at arrival. -/
def execBarArrive (core ctx : Nat) (s : State) : Result :=
  match takeDesc s core ctx qSy fun d => dType d = 0x25 with
  | none => .next s
  | some (w, t) =>
    let o := descObject s core ctx 2 w.img
    let past := (ctxAt s (ctxId core ctx)).gens.find? fun x => x.k = w.k && x.done && fieldAt w.img 0x14 0 0 = 1
    if past.isSome then
      let cx := ctxAt t (ctxId core ctx)
      let t := putCtx (ctxId core ctx) { cx with gens := cx.gens.filter fun x => x.k != w.k } t
      .next (if (past.map SplitGen.skew).getD false then endWork core ctx qSy w.k .fault 0 0x23 t else endWork core ctx qSy w.k .ok 0 0 t)
    else if syApplied (ctxAt t (ctxId core ctx)) w.k then .next (endWork core ctx qSy w.k .ok 0 0 t)
    else if (barAt s o.1 o.2).n = 0 then .next (endWork core ctx qSy w.k .fault 0 0x21 t)
    else if fieldAt w.img 0x14 0 0 = 1 then .next (recordArrival core ctx w.k o s)
    else .next (endWork core ctx qSy w.k .ok 0 0 (recordArrival core ctx w.k o t))

/-- BAR_WAIT (R135, R137): the recorded generation has completed; FAULT when its muster was skewed. -/
def execBarWait (core ctx : Nat) (s : State) : Result :=
  match takeDesc s core ctx qSy fun d => dType d = 0x26 with
  | none => .next s
  | some (w, t) =>
    let cx := ctxAt t (ctxId core ctx)
    let k := fieldAt w.img 0x14 15 0
    let skew := ((cx.genOf k).map SplitGen.skew).getD false
    let t := putCtx (ctxId core ctx) { cx with gens := cx.gens.filter fun x => x.k != k } t
    .next (if skew then endWork core ctx qSy w.k .fault 0 0x23 t else endWork core ctx qSy w.k .ok 0 0 t)

/-- The named data of a REMOTE_SIGNAL: the queue and absolute waybill of its data word, when it has one (R138). -/
def signalData (cx : Ctx) (d : List Byte) : Option (Nat × Nat) :=
  let w := fieldAt d 0x1C 31 0
  if bit w 19 = 0 then none else some (bits w 18 16, absWb cx (bits w 18 16) (bits w 15 0))

/-- The last DATA frame of the named data, once it has been issued. -/
def lastFrameOf (s : State) (g c : Nat) (n : Nat × Nat) : Option LastFrame :=
  s.lastFrames.find? fun e => e.stream = streamId g c n.1 && e.wb = n.2

/-- Pass a SIGNAL frame to port `p` (R394, R406). -/
def sendSignal (p g c : Nat) (d : List Byte) (peer q wb : Nat) (dseq : Option Nat) (s : State) : State :=
  let b := fieldAt d
  let op : Nat := b 0x14 11 0 + b 0x14 12 12 * 2 ^ 12 + b 0x14 14 13 * 2 ^ 13 + (if dseq.isSome then 2 ^ 15 else 0)
    + b 0x18 31 0 * 2 ^ 32
  let h : Hdr := { type := 0x20, dst := peer, dpart := b 0x10 14 12, src := selfAddr s, dva := op, core := g, ctx := c, q := q
                   wb := wb, dseq := dseq.getD 0 }
  sendFrame p 1 (hdrBytes h) s

/-- REMOTE_SIGNAL (R403, R406): the frame goes to the port of the named data's last frame, or by the routing rule. -/
def execRemoteSignal (core ctx : Nat) (s : State) : Result :=
  let cx := ctxAt s (ctxId core ctx)
  match takeDesc s core ctx qSy fun d => dType d = 0x27 with
  | none => .next s
  | some (w, t) =>
    let peer := fieldAt w.img 0x10 11 0
    let own := absWb cx qSy w.k
    let plain : State :=
      match route t core ctx qSy peer with
      | none => endWork core ctx qSy w.k .fault 0 0x0D (remoteFail (8 * corePart core) 0x22 peer 0 t)
      | some p => endWork core ctx qSy w.k .ok 0 0 (noteSy core ctx w.k 0 (sendSignal p core ctx w.img peer qSy own none t))
    if syApplied cx w.k then .next (endWork core ctx qSy w.k .ok 0 0 t)
    else match signalData cx w.img with
    | none => .next plain
    | some n =>
      match lastFrameOf t core ctx n with
      | none => if waitMet cx (fieldAt w.img 0x1C 31 0) then .next plain else .next s
      | some f =>
        if f.peer != peer then
          .next (endWork core ctx qSy w.k .fault 0 0x0D
            (ledger (portPage f.port) 0x84 (peer + f.port * 2 ^ 24) t))
        else if (memberAt t peer).st = 2 || !portLinked t f.port then
          .next (endWork core ctx qSy w.k .fault 0 0x0D (remoteFail f.port 0x22 peer 0 t))
        else
          .next (endWork core ctx qSy w.k .ok 0 0
            (noteSy core ctx w.k 0 (sendSignal f.port core ctx w.img peer n.1 n.2 (some f.dseq) t)))

/-- HOST_NOTIFY (R442): value and count go to the host flag; the descriptor completes at the write's GO. -/
def execHostNotify (core ctx : Nat) (s : State) : Result :=
  match takeDesc s core ctx qSy fun d => dType d = 0x28 with
  | none => .next s
  | some (w, t) =>
    let cx := ctxAt t (ctxId core ctx)
    if syApplied cx w.k then .next (endWork core ctx qSy w.k .ok 0 0 t)
    else
      let x := ((runAt t cx.run).getD {}).sess
      let i := fieldAt w.img 0x10 5 0
      let e := sessAt t x
      let n := (SMap.get (fun _ => 0) e.flagCount i + 1) % 2 ^ 32
      let irq := bit (rdi t pgHif .hifFlagIrq x) i = 1
      let t := sessWrite x (rdi t pgHif .hifFlagBase x + 8 * i) (leBytes 4 (fieldAt w.img 0x14 31 0) ++ leBytes 4 n) t
      let t := noteSy core ctx w.k 0 (putSess x { e with flagCount := SMap.set (fun _ => 0) e.flagCount i n } t)
      if sessPosted t x then .next (endWork core ctx qSy w.k .ok 0 0 (if irq then sendVec x t else t))
      else
        let e := sessAt t x
        .next (mapWork core ctx qSy w.k (fun w => { w with began := true })
          (putSess x { e with sent := e.sent ++ [.flag irq core ctx w.k] } t))

/-- Nothing older of the same sender stream is held, and the awaited data has landed (R144, R406). -/
def heldReady (s : State) (before : List Held) (h : Held) : Bool :=
  before.all (fun e => !(e.src = h.src && e.stream = h.stream)) &&
    (h.wait.map fun d => epochAtOrBefore d (rd s (portPage h.port) .evlLanded)).getD true

/-- The port has recorded the signal's stream and waybill as failed (R406). -/
def heldFailed (s : State) (h : Held) : Bool :=
  h.wait.isSome && (portAt s h.port).failed.any fun e => e = (h.src * 2 ^ 16 + h.stream, h.wb)

/-- Take the held signal at position `i` out of a Serai. -/
def dropHeld (k i : Nat) (s : State) : State :=
  let x := seraiAt s k
  putSerai k { x with held := x.held.eraseIdx i } s

/-- HELD_SIGNAL_APPLY (R144, R406): the held signal at a position is applied, or discarded when its data failed at the port. -/
def execHeldSignalApply (sy pos : Nat) (s : State) : Result :=
  match (seraiAt s sy).held[pos]? with
  | none => .next s
  | some h =>
    if heldFailed s h then .next (rejectRemote sy h.counter h.idx h.src (dropHeld sy pos s))
    else if heldReady s ((seraiAt s sy).held.take pos) h then .next (applyRemote sy h (dropHeld sy pos s))
    else .next s

end Sys2Proof.Machine
end

