-- ==== Sys2Proof/Machine/Sessions.lean ====
section
/-!
DEFINITION. Host sessions (R424-R432, R437, R441-R443): doorbells, the fetch of submission entries, the commands that start no run,
the opening and closing of a session, fences, and the GO of a device write.
-/

namespace Sys2Proof.Machine

/-- SESS_STATE (R424): 0 FREE, 1 OPEN, 2 CLOSING. -/
def sessState (s : State) (x : Nat) : Nat := rdi s pgHif .hifSessState x

/-- A doorbell write is discarded and counted (R428). -/
def doorbellDiscard (s : State) : State := raise pgHif 17 (count pgHif .hifDbDiscard 1 s)

/-- The doorbell page of the session takes writes (R428, R479). -/
def doorbellLive (s : State) (x : Nat) : Bool := sessState s x = 1 && pstate s != 3

/-- SQ_TAIL (R428). -/
def execSqTail (sess value : Nat) (s : State) : Result :=
  let v := value % 2 ^ 16
  if !doorbellLive s sess || 2 ^ rdi s pgHif .hifSqLog2 sess ≤ v then .next (doorbellDiscard s)
  else .next (putSess sess { sessAt s sess with sqTail := v } s)

/-- CQ_HEAD (R428): refused when it lies beyond CQ_TAIL. -/
def execCqHead (sess value : Nat) (s : State) : Result :=
  let v := value % 2 ^ 16
  let n := 2 ^ rdi s pgHif .hifCqLog2 sess
  let e := sessAt s sess
  let t := rdi s pgHif .hifCqTail sess
  if !doorbellLive s sess || n ≤ v || (t + n - e.cqHead) % n < (t + n - v) % n then .next (doorbellDiscard s)
  else .next (putSess sess { e with cqHead := v } s)

/-- FENCE_REQ (R441). -/
def execFenceReq (sess token : Nat) (s : State) : Result :=
  if !doorbellLive s sess then .next (doorbellDiscard s)
  else
    let e := sessAt s sess
    .next (putSess sess { e with fences := e.fences ++ [token % 2 ^ 32] } s)

/-- MEM_FENCE_DONE (R441): every write has been accepted; the pending fences of the session complete. -/
def execMemFenceDone (sess : Nat) (s : State) : Result :=
  let e := sessAt s sess
  if e.fences.isEmpty || s.chans.any (fun c => c.2.late.any fun r => r.data.isSome) then .next s
  else .next (putSess sess { e with fences := [], fenceDone := e.fences.getLast?.getD 0 } s)

/-- A write of HSIG (R443): a HOP operation on device Serai flag SFLAG_BASE + i. -/
def hsig (x i : Nat) (v : Bool) (s : State) : State :=
  let f := rdi s pgHif .hifSflagBase x + i
  let ok := f < seraiCap 4 0 && rd s (seraiPage 4) .hdrFenced = 0 && (inHostWindow s 4 0 f || debugLevel s = 2)
  if !doorbellLive s x || !ok then doorbellDiscard s
  else
    let old := objectValue s 4 0 f
    let t := putFlag 4 f v s
    if inHostWindow s 4 0 f then t
    else ledger (seraiPage 4) 0x83 (seraiDetail f 0 0 0 0 old (objectValue t 4 0 f)) t

/-- HSIG SET (R443). -/
def execHsigSet (sess idx : Nat) (s : State) : Result := .next (hsig sess idx true s)
/-- HSIG CLEAR (R443). -/
def execHsigClear (sess idx : Nat) (s : State) : Result := .next (hsig sess idx false s)

/-- The bits of an SQ entry that its command uses, by byte (R429). -/
def entryUsed (op : Nat) : List Nat :=
  let body (l : List (Nat × Nat)) : List Nat := (List.range 56).map fun i => SMap.get (fun _ => 0) l (8 + i)
  [0xFF, 1, 0, 0, 0xFF, 0xFF, 0xFF, 0xFF] ++
    match op with
    | 0x02 => body ((List.range 36).map fun i => (8 + i, 0xFF))
    | 0x03 => body ([(8, 0xFF), (9, 0x3F)] ++ (List.range 8).map fun i => (0x10 + i, 0xFF))
    | 0x04 => body ((List.range 8).map fun i => (8 + i, 0xFF))
    | 0x05 => body ((List.range 4).map fun i => (8 + i, 0xFF))
    | _ => body []

/-- Byte offset of the first field of an entry that makes it BAD_COMMAND (R429, R432); `none` for a good one. -/
def entryBad (v : Variant) (e : List Byte) : Option Nat :=
  let op := fieldAt e 0 7 0
  if op = 0 || 5 < op then some 0
  else match (e.zip (entryUsed op)).findIdx? fun b => b.1.toNat &&& b.2 != b.1.toNat with
    | some i => some i
    | none =>
      if op = 0x03 then
        match unitOfPage (fieldAt e 8 13 0) with
        | some (.core _ _ _, 0) => if fieldAt e 0x10 63 0 % 32 = 0 && inDram v (fieldAt e 0x10 63 0) 32 then none else some 0x10
        | _ => some 8
      else if op = 0x04 then
        if fieldAt e 8 63 0 % 64 = 0 && inDram v (fieldAt e 8 63 0) 0x80 then none else some 8
      else none

/-- The command completion of an entry: its tag, opcode and NOIRQ. -/
def entryDone (x : Nat) (e : List Byte) (r : CmdRecord) (s : State) : State :=
  cmdComplete x (fieldAt e 1 0 0 = 1) { r with tag := fieldAt e 4 31 0, opcode := fieldAt e 0 7 0 } s

/-- An entry completes with BAD_COMMAND and the offset of the field at fault (R429, R432). -/
def badCommand (x : Nat) (e : List Byte) (off : Nat) (s : State) : State := entryDone x e { cstat := 5, detail := off } s

/-- The device takes the next entry of a session (R428, R430). -/
def mayFetch (s : State) (x : Nat) : Bool :=
  sessState s x = 1 && (sessAt s x).fetched.isNone && (sessAt s x).sqTail != rdi s pgHif .hifSqHead x && cqFree s x &&
    2 ≤ rdi s pgHif .hifLinkState (sessLink s x)

/-- SQ_FETCH (R428-R431): the entry that host memory answers, and whether it is poisoned (R426). Of a poisoned entry nothing is
known: tag and opcode of its completion are free. -/
def execSqFetch (sess : Nat) (entry : List Byte) (poison : Bool) (s : State) : Result :=
  if !mayFetch s sess then .next s
  else
    let h := rdi s pgHif .hifSqHead sess
    let a := rdi s pgHif .hifSqBase sess + 64 * h
    let s := cqReserve sess (emit (.hostRead (sessLink s sess) sess a) (wri pgHif .hifSqHead sess ((h + 1) % 2 ^ rdi s pgHif .hifSqLog2 sess) s))
    let e := slice entry 0 64
    if poison then
      let v := freshVal s
      .next (cmdComplete sess (bit v 40 = 1) { tag := v % 2 ^ 32, opcode := bits v 39 32, cstat := 5 }
        (logErr pgHif 1 0x03 a (freshNext s)))
    else match entryBad s.variant e with
      | some off => .next (badCommand sess e off s)
      | none => .next (putSess sess { sessAt s sess with fetched := some e } s)

/-- The fetched entry of a session when it holds the command. -/
def fetchedOp (s : State) (x op : Nat) : Option (List Byte) := (sessAt s x).fetched.filter fun e => fieldAt e 0 7 0 = op

/-- The fetched entry has been taken. -/
def takeEntry (x : Nat) (s : State) : State := putSess x { sessAt s x with fetched := none } s

/-- NOP (R429). -/
def execSqNop (sess : Nat) (s : State) : Result :=
  match fetchedOp s sess 1 with
  | none => .next s
  | some e => .next (entryDone sess e {} (takeEntry sess s))

/-- LOAD (R153, R425, R429, R466, R481): queued, or refused at once; interrupted while its session is CLOSING (log entry 90). -/
def execSqLoad (sess : Nat) (s : State) : Result :=
  match fetchedOp s sess 2 with
  | none => .next s
  | some e =>
    let c : LoadCmd := { sess := sess, tag := fieldAt e 4 31 0, noirq := fieldAt e 1 0 0 = 1, body := slice e 8 36 }
    let refused : Option LoadEnd :=
      if sessState s sess = 2 then some { result := 0x1D }
      else if rd s 0x2028 .fltDevService = 2 || pstate s = 2 || pstate s = 3 then some { result := 0x19, stage := 5 }
      else if 16 ≤ s.loadQ.length then some { result := 0x1C, stage := 7 }
      else none
    match refused with
    | none => .next { takeEntry sess s with loadQ := s.loadQ ++ [c] }
    | some r =>
      match reportHeld s c.body with
      | some w => .next w
      | none => .next (endLoad c r (takeEntry sess s))

/-- Code of a slot's state (R125, R167). -/
def PmState.code : PmState → Nat
  | .empty => 0 | .loading => 1 | .ready => 2 | .active => 3 | .draining => 4

/-- The record of a load query (R167). -/
def queryBytes (s : State) (g : Nat) : List Byte :=
  let a := pmAt s (2 * g)
  let b := pmAt s (2 * g + 1)
  leBytes 4 ((pmShown s g 0).code + (pmShown s g 1).code * 2 ^ 8 + slotRuns s g 0 * 2 ^ 16 + slotRuns s g 1 * 2 ^ 20)
    ++ leBytes 4 (a.loadId + b.loadId * 2 ^ 16) ++ leBytes 4 (2 + 512 * 2 ^ 16) ++ leBytes 4 (8192 + 16 * 2 ^ 16)
    ++ leBytes 16 s.loadQ.length

/-- The core that has the page. -/
def coreOfPage (p : Nat) : Option Nat :=
  match unitOfPage p with
  | some (.core n m j, _) => some (coreNo n m j)
  | _ => none

/-- LOAD_QUERY writes the slot states of a core, once the block is served (R167). -/
def loadQuery (sess : Nat) (e : List Byte) (s : State) : State :=
  (coreOfPage (fieldAt e 8 13 0)).elim (badCommand sess e 8 (takeEntry sess s)) fun g =>
    let a := fieldAt e 0x10 63 0
    match spineHeld a 32 true s with
    | some w => w
    | none =>
      let s := takeEntry sess s
      if spanGone s a 32 then badCommand sess e 0x10 s
      else entryDone sess e {} (spineWrite a (queryBytes s g) s)

/-- LOAD_QUERY (R167, R429). A record whose partition is out of service cannot be written: BAD_COMMAND names RESULT_DPA. -/
def execLoadQuery (sess : Nat) (s : State) : Result :=
  .next (match fetchedOp s sess 3 with
    | none => s
    | some e => loadQuery sess e s)

/-- Every stream of a context has completed (R120). -/
def ctxEnded (r : Run) (c : Ctx) : Bool :=
  (List.range 8).all fun q => (c.wbDone.getD q 0 + 2 ^ 16 - c.wbBase.getD q 0) % 2 ^ 16 = streamLen r.image c.vcore c.vctx q

/-- Nothing of a context is left to do for its run: every END has completed, or it has halted and what it had started has completed
(R120, R121). -/
def ctxDone (r : Run) (c : Ctx) : Bool :=
  (c.st = .running && ctxEnded r c) || (c.st = .halted && c.qs.all fun q => q.live.isEmpty) || c.st = .free

/-- Run `n` has not completed its last END. -/
def runOpen (s : State) (n : Nat) (r : Run) : Bool := !(runCtxs s n r).all fun id => ctxDone r (ctxAt s id)

/-- Runs of a session with a tag that an ABORT still meets (R437). -/
def abortTargets (s : State) (x tag : Nat) : List Nat :=
  (s.runs.filter fun e => (e.2.map fun r => r.sess == x && r.tag == tag && runOpen s e.1 r).getD false).map Prod.fst

/-- ABORT (R437). -/
def execAbort (sess : Nat) (s : State) : Result :=
  match fetchedOp s sess 5 with
  | none => .next s
  | some e =>
    let s := takeEntry sess s
    let rs := abortTargets s sess (fieldAt e 8 31 0)
    if rs.isEmpty then .next (entryDone sess e { detail := 1 } s)
    else
      let s := rs.foldl (fun t r => abortRun r t) s
      .next { s with abortWaits := s.abortWaits ++ [⟨sess, fieldAt e 4 31 0, fieldAt e 1 0 0 = 1, rs⟩] }

/-- The addresses and sizes of a session are as R426 states. -/
def sessArgsOk (s : State) (x : Nat) : Bool :=
  let f (g : Fld) : Nat := rdi s pgHif g x
  f .hifSqBase % 4096 = 0 && f .hifCqBase % 4096 = 0 && f .hifCqTailAddr % 8 = 0 && f .hifFlagBase % 512 = 0 &&
    4 ≤ f .hifSqLog2 && f .hifSqLog2 ≤ 12 && 4 ≤ f .hifCqLog2 && f .hifCqLog2 ≤ 16

/-- SESS_RESULT and SESS_GO = 0 of a session. -/
def sessResult (x r : Nat) (s : State) : State := wri pgHif .hifSessGo x 0 (wri pgHif .hifSessResult x r s)

/-- OPEN (R424, R425). The rings start empty (log entry 36). -/
def sessOpen (x : Nat) (s : State) : State :=
  if sessState s x != 0 then sessResult x 1 s
  else if !sessArgsOk s x then sessResult x 2 s
  else sessResult x 0 (wri pgHif .hifSqHead x 0 (wri pgHif .hifCqTail x 0 (wri pgHif .hifSessState x 1 (putSess x {} s))))

/-- SESS_OPEN (R425). -/
def execSessOpen (sess : Nat) (s : State) : Result := .next (sessOpen sess (wri pgHif .hifSessOp sess 1 s))

/-- Queued loads of a session complete with LOADER_INTERRUPTED (R425). -/
def dropLoads (x : Nat) (s : State) : State :=
  (s.loadQ.filter fun c => c.sess = x).foldl (fun t c => endLoad c { result := 0x1D } t)
    { s with loadQ := s.loadQ.filter fun c => c.sess != x }

/-- CLOSE (R425): SESS_GO reads 0 once the session is FREE. -/
def sessClose (x : Nat) (s : State) : State :=
  if sessState s x != 1 then sessResult x 1 s
  else
    let s := dropLoads x (wri pgHif .hifSessGo x 1 (wri pgHif .hifSessState x 2 s))
    (s.runs.filter fun e => (e.2.map fun r => r.sess == x && runOpen s e.1 r).getD false).foldl (fun t e => abortRun e.1 t) s

/-- SESS_CLOSE (R425). -/
def execSessClose (sess : Nat) (s : State) : Result := .next (sessClose sess (wri pgHif .hifSessOp sess 2 s))

/-- Nothing of a closing session is left (R424). -/
def sessQuiet (s : State) (x : Nat) : Bool :=
  let e := sessAt s x
  e.fetched.isNone && e.sent.isEmpty && e.acked.isEmpty && e.reserved = 0 && !(s.runs.any fun r => (r.2.map fun q => q.sess == x).getD false)
    && !(s.loading.any fun l => l.cmd.sess = x) && !(s.loadQ.any fun c => c.sess = x) && !(s.abortWaits.any fun w => w.sess = x)

/-- SESSION_CLOSED (R424, R425). -/
def execSessionClosed (sess : Nat) (s : State) : Result :=
  if sessState s sess != 2 || !sessQuiet s sess then .next s
  else .next (sessResult sess 0 (wri pgHif .hifSessState sess 0 (putSess sess {} s)))

/-- The HOST_NOTIFY whose write received its GO completes its work (R442). -/
def notifyDone (x : Nat) (irq : Bool) (g c k : Nat) (s : State) : State :=
  let s := if irq then sendVec x s else s
  if ((ctxAt s (ctxId g c)).q qSy).live.any fun w => w.k = k && w.works && dType w.img = 0x28 then endWork g c qSy k .ok 0 0 s else s

/-- GO (R431, R442): the oldest device write of the session without a GO receives it. -/
def execGo (sess : Nat) (s : State) : Result :=
  let e := sessAt s sess
  match e.sent with
  | [] => .next s
  | .record irq :: rest => .next (tailShadow sess (putSess sess { e with sent := rest, acked := e.acked ++ [irq] } s))
  | .flag irq g c k :: rest => .next (notifyDone sess irq g c k (tailShadow sess (putSess sess { e with sent := rest } s)))

end Sys2Proof.Machine
end

