-- ==== Sys2Proof/Machine/Runs.lean ====
section
/-!
DEFINITION. Runs (R105, R106, R113, R120, R121, R125, R129, R205, R433-R437, R481): the run block and its checks, the start of a run
and its end.
-/

namespace Sys2Proof.Machine

/-- A run block as it was read (R433): its first 128 bytes and its entries behind them. -/
abbrev RunBlock := List Byte

/-- LOAD_ID (R433). -/
def rbLoad (b : RunBlock) : Nat := fieldAt b 0 15 0
/-- SLOT. -/
def rbSlot (b : RunBlock) : Nat := fieldAt b 0 16 16
/-- XLAT_ROOT. -/
def rbRoot (b : RunBlock) : Nat := fieldAt b 8 63 0
/-- PLACE_DPA. -/
def rbPlace (b : RunBlock) : Nat := fieldAt b 0x10 63 0
/-- BIND_COUNT. -/
def rbBinds (b : RunBlock) : Nat := fieldAt b 0x18 7 0
/-- REGION_COUNT. -/
def rbRegions (b : RunBlock) : Nat := fieldAt b 0x18 15 8
/-- BASE and COUNT of Serai grant `i`: partition flags, counters, barriers, then the device's (R129). -/
def rbGrant (b : RunBlock) (i : Nat) : Nat × Nat := (fieldAt b (0x20 + 4 * i) 11 0, fieldAt b (0x20 + 4 * i) 28 16)
/-- Entry `i` behind the block. -/
def rbEntry (b : RunBlock) (i : Nat) : List Byte := slice b (0x80 + 16 * i) 16
/-- The snapshot of SESSION contexts (R433). -/
def rbSnap (s : State) (b : RunBlock) : Nat := if fieldAt b 0 19 19 = 1 then epochNow s else fieldAt b 4 31 0

/-- The manifest that holds a LOAD_ID: of any slot (R156). -/
def loadedImage (s : State) (id : Nat) : Option (List Byte) :=
  if id = 0 then none else (s.pms.find? fun e => e.2.loadId = id).map fun e => e.2.image

/-- Bind entry `e` keeps R435, or the offset in it that does not. -/
def bindBad (e : List Byte) : Option Nat :=
  let w := fieldAt e 0 31 0
  let used := if fieldAt e 0 0 0 = 1 then 0x0FFF0071 else 1
  if unusedBits w used != 0 || (fieldAt e 0 0 0 = 1 && 3 < fieldAt e 0 6 4) || fieldAt e 4 31 0 != 0 then some 0
  else if fieldAt e 8 63 52 != 0 || fieldAt e 8 51 0 % 32 != 0 then some 8
  else none

/-- Region entry `e` keeps R435, or the offset in it that does not. -/
def regionBad (e : List Byte) : Option Nat :=
  if fieldAt e 0 31 6 != 0 || fieldAt e 4 31 0 != 0 then some 0
  else if fieldAt e 8 63 52 != 0 || fieldAt e 8 51 0 % 2 ^ 21 != 0 then some 8
  else none

/-- Byte offset of the first field of a run block that is not legal (R433, R435, R436); unlisted bits are reserved. -/
def runBlockBad (s : State) (b : RunBlock) : Option Nat :=
  let f := fieldAt b
  let binds := (loadedImage s (rbLoad b)).map imgBindSlots
  let fixed : List (Nat × Bool) :=
    [(0x00, rbLoad b != 0 && f 0 31 20 = 0), (0x08, rbRoot b % 2 ^ 16 = 0 && inDram s.variant (rbRoot b) (2 ^ 16))
     , (0x10, rbPlace b % 16 = 0 && inDram s.variant (rbPlace b) 16), (0x18, (binds.map fun n => n == rbBinds b).getD true)
     , (0x19, rbRegions b ≤ 64), (0x1A, f 0x18 31 16 = 0), (0x1C, f 0x1C 31 0 = 0)]
      ++ (List.range 6).map (fun i => (0x20 + 4 * i, (f (0x20 + 4 * i) 15 12 = 0 && f (0x20 + 4 * i) 31 29 = 0 &&
            (rbGrant b i).1 + (rbGrant b i).2 ≤ seraiCap (if i < 3 then 0 else 4) (i % 3) : Bool)))
      ++ [(0x38, (f 0x38 31 0 = 0 : Bool)), (0x3C, (f 0x3C 31 0 = 0 : Bool))]
  match fixed.find? fun c => !c.2 with
  | some c => some c.1
  | none => (List.range (rbBinds b + rbRegions b)).findSome? fun i =>
      ((if i < rbBinds b then bindBad (rbEntry b i) else regionBad (rbEntry b i))).map (0x80 + 16 * i + ·)

/-- The placement entries of a run: one for each virtual core, or the first where no slot holds its LOAD_ID. -/
def runEntries (img : Option (List Byte)) (bytes : List Byte) : List PlaceEntry :=
  (List.range ((img.map imgVcores).getD 1)).map (placeEntry bytes)

/-- Refusal for the state or the content of a placed core's slot (R126, R436). -/
def slotRefusal (s : State) (b : RunBlock) (cores : List Nat) : Option Nat :=
  let pm (g : Nat) := pmAt s (2 * g + rbSlot b)
  let st (g : Nat) := pmShown s g (rbSlot b)
  match cores.find? fun g => st g = .draining || st g = .empty || st g = .loading with
  | some g => some (if st g = .draining then 0x20 else 0x25)
  | none => if cores.any fun g => (pm g).loadId != rbLoad b then some 0x27 else none

/-- One placement entry is as R434 states, on the core of the load, with its contexts free and room for its scratch need (R163, R205,
R436). -/
def entryPlaced (s : State) (b : RunBlock) (img : List Byte) (v : Nat) (e : PlaceEntry) : Bool :=
  match e.core with
  | none => false
  | some g => e.legal img v && unitReachable s (coreUnit g) && (pmAt s (2 * g + rbSlot b)).vcore = v &&
      e.ctxs.all fun i => (ctxAt s (ctxId g (e.hw.getD i 0))).st = .free && e.sp.getD i 0 + scratchNeed img v ≤ spadSize

/-- The regions that a manifest requires (R105). -/
def requiredRegions (img : List Byte) : List Nat :=
  (List.range (imgEpochCount img)).filterMap fun i =>
    let e := epochEntry img i
    if fieldAt e 0 3 0 = 2 && fieldAt e 4 8 8 = 1 then some (fieldAt e 4 5 0) else none

/-- The context is bound by the session (R105). -/
def sessionBound (img : List Byte) (v c : Nat) : Bool :=
  ((snapshotEntry img v c).map fun i => fieldAt (epochEntry img i) 8 1 0 == 0).getD true

/-- The snapshot that a context would run under if it were bound now (R105): the session's, or the one that its CTX_BIND names with the run's
parameter words. -/
def blockSnap (s : State) (b : RunBlock) (img : List Byte) (v c : Nat) : Nat :=
  if sessionBound img v c then rbSnap s b
  else bindSnap s { params := (List.range 16).map fun i => fieldAt b (0x40 + 4 * i) 31 0 } (streamDesc img v c qCt 1)

/-- The virtual contexts that a run places: core, hardware context, virtual core, virtual context, SP_BASE. -/
def placedCtxs (es : List PlaceEntry) : List (Nat × Nat × Nat × Nat × Nat) :=
  (es.zipIdx).flatMap fun (e, v) => match e.core with
    | none => []
    | some g => e.ctxs.map fun i => (g, e.hw.getD i 0, v, i, e.sp.getD i 0)

/-- The first refusal of a run after its block fields, in the order of R436; `none` lets it start. -/
def runRefusal (s : State) (b : RunBlock) (bytes : Option (List Byte)) : Option Nat :=
  let img := loadedImage s (rbLoad b)
  let es := (bytes.map (runEntries img)).getD []
  let cores := es.filterMap PlaceEntry.core
  match slotRefusal s b cores with
  | some c => some c
  | none =>
    match img, bytes with
    | some m, some _ =>
      if !((es.zipIdx).all fun (e, v) => entryPlaced s b m v e) || rd s 0x2028 .fltDevService = 2 then some 0x24
      else if (List.range 6).any fun i => (rbGrant b i).2 < relNeed m i then some 0x22
      else if !((List.range (imgCapsCount m)).all (capsHold s m cores)) then some 0x23
      else if (placedCtxs es).any fun p =>
          (requiredRegions m).any fun r => (resolveRegion s r (blockSnap s b m p.2.2.1 p.2.2.2.1)).isNone then some 0x21
      else none
    | _, _ => some 0x24

/-- The run that a block describes (R433, R435, R436). -/
def runOf (x : Nat) (e : List Byte) (b : RunBlock) (img : List Byte) (es : List PlaceEntry) : Run :=
  let f := fieldAt b
  { sess := x, tag := fieldAt e 4 31 0, noirq := fieldAt e 1 0 0 = 1, loadId := rbLoad b, slot := rbSlot b, image := img
    profile := imgField img 0x0C 0 0 = 1, root := rbRoot b, params := (List.range 16).map fun i => f (0x40 + 4 * i) 31 0
    grants := (List.range 6).map (rbGrant b)
    binds := (List.range (rbBinds b)).map fun i =>
      let n := rbEntry b i
      ⟨fieldAt n 0 0 0 = 1, fieldAt n 0 6 4, fieldAt n 0 27 16, fieldAt n 8 51 0⟩
    regions := (List.range (rbRegions b)).map fun i =>
      let n := rbEntry b (rbBinds b + i)
      (fieldAt n 0 5 0, fieldAt n 8 51 0)
    ctxs := (placedCtxs es).map fun p => ctxId p.1 p.2.1 }

/-- A context is placed (R113, R120): BINDING, its waybill bases latched. -/
def placeCtx (r : Nat) (b : RunBlock) (img : List Byte) (p : Nat × Nat × Nat × Nat × Nat) (s : State) : State :=
  let id := ctxId p.1 p.2.1
  let done := (ctxAt s id).wbDone
  putCtx id { st := .binding, run := r, vcore := p.2.2.1, vctx := p.2.2.2.1, slot := rbSlot b, prio := fieldAt b 0 18 17
              spBase := p.2.2.2.2, spNeed := scratchNeed img p.2.2.1, wbDone := done, wbBase := done, journal := 1 } s

/-- A context with SOURCE = SESSION is bound to the run's snapshot, or the run is refused (R60, R105). -/
def bindSession (snap id : Nat) (s : State) : State :=
  let x := ctxAt s id
  if x.st != .binding then s
  else if bindAccepted s snap then putCtx id { x with st := .running, bound := true, snap := snap } s
  else refuseBind (id / 4) (id % 4) s

/-- The run starts: every placed context enters BINDING at once, the slots become ACTIVE (R125, R436). -/
def startRun (x : Nat) (e : List Byte) (b : RunBlock) (img : List Byte) (es : List PlaceEntry) (s : State) : State :=
  let r := s.nextRun
  let ps := placedCtxs es
  let s := putRun r (some (runOf x e b img es)) { s with nextRun := r + 1 }
  let s := ps.foldl (fun t p => placeCtx r b img p t) s
  let s := (es.filterMap PlaceEntry.core).foldl (fun t g => putPm (2 * g + rbSlot b) { pmAt t (2 * g + rbSlot b) with st := .active } t) s
  let snap := rbSnap s b
  floorCheck ((ps.filter fun p => sessionBound img p.2.2.1 p.2.2.2.1).foldl (fun t p => bindSession snap (ctxId p.1 p.2.1) t) s)

/-- A power-state transition is in progress: to the target, or through P0 to `psNext` (R480). -/
def psMoving (s : State) : Bool := rd s 0x2040 .pwrPstateTgt != pstate s || s.psNext.isSome

/-- Start a power-state transition to `t`, through P0 where R480 says so. -/
def psStart (t : Nat) (s : State) : State :=
  if pstate s = t then s
  else if pstate s = 0 || t = 0 then wr 0x2040 .pwrPstateTgt t s
  else wr 0x2040 .pwrPstateTgt 0 { s with psNext := some t }

/-- The bytes of a span that was read, and the offset of the first poisoned one. -/
def spanBytes (l : List (Byte × Bool)) : List Byte × Option Nat := (l.map Prod.fst, l.findIdx? Prod.snd)

/-- The run block has been read: the checks of R436, then the start; a run of a CLOSING session is aborted at once (R425, log entry 90). -/
def runChecked (x : Nat) (e : List Byte) (b : RunBlock) (s : State) : State :=
  match runBlockBad s b with
  | some off => badCommand x e off s
  | none =>
    let img := loadedImage s (rbLoad b)
    let r := spineRead (rbPlace b) (16 * (img.map imgVcores).getD 1) s
    let bytes := r.1.bind fun l => if l.any Prod.snd then none else some (l.map Prod.fst)
    match runRefusal r.2 b bytes with
    | some c => entryDone x e { cstat := 4, result := c } r.2
    | none =>
      let t := startRun x e b (img.getD []) (runEntries img (bytes.getD [])) r.2
      if sessState t x = 2 then abortRun r.2.nextRun t else t

/-- The run block has been read as `r`, from state `s` (R433, R436, R437). -/
def runBlockRead (x : Nat) (e : List Byte) (a : Nat) (s : State) (r : Option (List (Byte × Bool)) × State) : State :=
  match r.1.map spanBytes with
  | none => badCommand x e 8 (takeEntry x r.2)
  | some (_, some off) => badCommand x e off (logErr pgHif 1 0x03 a (takeEntry x r.2))
  | some (b, none) =>
    let vc := ((loadedImage r.2 (rbLoad b)).map imgVcores).getD 1
    let go := runChecked x e b (takeEntry x r.2)
    if (runBlockBad r.2 b).isNone then (spineHeld (rbPlace b) (16 * vc) false s).getD go else go

/-- RUN (R433, R436, R466, R481). In P1 it first brings the device back to P0. -/
def runCommand (x : Nat) (e : List Byte) (s : State) : State :=
  if pstate s = 2 || pstate s = 3 then entryDone x e { cstat := 4, result := 0x24 } (takeEntry x s)
  else if psMoving s then s
  else if pstate s = 1 then psStart 0 s
  else
    let a := fieldAt e 8 63 0
    let head := ((spineRead a 0x80 s).1.getD []).map Prod.fst
    let n := 0x80 + 16 * (rbBinds head + rbRegions head)
    ((spineHeld a 0x80 false s).orElse fun _ => spineHeld a n false s).getD (runBlockRead x e a s (spineRead a n s))

/-- RUN. -/
def execRun (sess : Nat) (s : State) : Result :=
  match fetchedOp s sess 4 with
  | none => .next s
  | some e => .next (runCommand sess e s)

/-- Drop a context's pins in a pool (R320). -/
def Pool.unpin (x : Pool) (id : Nat) : Pool :=
  { x with frames := x.frames.map fun e => (e.1, e.2.map fun f => { f with pins := f.pins.filter (· != id) }) }

/-- Drop a context's pins in its drover's pools (R320). -/
def dropPins (id : Nat) (s : State) : State :=
  let n := corePart (id / 4)
  let d := droverAt s n
  putDrover n { d with pools := d.pools.map fun e => (e.1, e.2.unpin id) } s

/-- A context leaves its run (R120): FREE, its snapshot, journal and pins released, its waybill counts kept (R113). -/
def freeCtx (id : Nat) (s : State) : State := dropPins id (putCtx id { wbDone := (ctxAt s id).wbDone } s)

/-- How a run ended (R121, R158, R432, R437, R460): CSTAT, RESULT and the fields of a fault. An aborted run names the first descriptor that
ended FAULT or ABORTED too (log entry 78). -/
def runRecord (r : Run) (refused : Bool) : CmdRecord :=
  let base : CmdRecord := { tag := r.tag, opcode := 4 }
  let f := r.first.getD {}
  let named : CmdRecord := { base with faultWb := f.wb, faultQ := f.q, faultCtx := f.ctx }
  if refused then { base with cstat := 3 }
  else if r.aborted then
    { (if r.first.isSome then named else base) with cstat := 2, faultDetail := if f.stat = .fault then f.detail else 0 }
  else match r.notReplay with
    | some d => { named with cstat := 1, faultDetail := d }
    | none => match r.first with
      | none => base
      | some f => if f.stat = .fault then { named with cstat := 1, faultDetail := f.detail } else { named with cstat := 2 }

/-- An ABORT command that waits for a run hears of its end (R437). -/
def abortHears (r : Nat) (s : State) : State :=
  s.abortWaits.foldl (fun t w =>
    if w.runs.contains r then
      let left := w.runs.filter (· != r)
      let t := { t with abortWaits := t.abortWaits.map fun v => if v = w then { v with runs := left } else v }
      if left.isEmpty then
        cmdComplete w.sess w.noirq { tag := w.tag, opcode := 5 } { t with abortWaits := t.abortWaits.filter fun v => !v.runs.isEmpty }
      else t
    else t) s

/-- The slot of a core whose last run has ended is READY again (R125). -/
def slotQuiet (k : Nat) (s : State) : State :=
  if (pmAt s k).st = .active && slotRuns s (k / 2) (k % 2) = 0 then putPm k { pmAt s k with st := .ready } s else s

/-- The last context of run `n` has ended: its completion, its slots, its waiters (R120, R121, R125, R436). -/
def endRun (n : Nat) (r : Run) (refused : Bool) (s : State) : State :=
  let s := putRun n none s
  let s := ((r.ctxs.map fun id => 2 * (id / 4) + r.slot).eraseDups).foldl (fun t k => slotQuiet k t) s
  epochSettle (abortHears n (cmdComplete r.sess r.noirq (runRecord r refused) s))

/-- RUN_COMPLETE (R120, R121, R436): contexts of the run that are done leave it, which may end a hold (R65); the run completes with
the last. -/
def runComplete (n : Nat) (s : State) : State :=
  match runAt s n with
  | none => s
  | some r =>
    let mine (t : State) (id : Nat) : Bool := runHolds t n id
    let refused := r.ctxs.any fun id => mine s id && (ctxAt s id).bindRefused
    if r.ctxs.all fun id => !mine s id || ctxDone r (ctxAt s id) then
      endRun n r refused (r.ctxs.foldl (fun t id => if mine t id then freeCtx id t else t) s)
    else if refused then s
    else epochSettle (r.ctxs.foldl (fun t id => if mine t id && ctxDone r (ctxAt t id) then freeCtx id t else t) s)

/-- RUN_COMPLETE. -/
def execRunComplete (run : Nat) (s : State) : Result := .next (runComplete run s)

end Sys2Proof.Machine
end

