-- ==== Sys2Proof/Machine/Segments.lean ====
section
/-!
DEFINITION. Bulk stacks, segments and the catalog (R310-R316, R327-R330, R519, R520): free space, the segment commands and their
refusals, wear and retired dies.
-/

namespace Sys2Proof.Machine

/-- The DRV page of partition `n`. -/
def drvPage (n : Nat) : Nat := (UnitId.dr n).page

/-- The BLK page of stack B`b`. -/
def blkPage (b : Nat) : Nat := (bulkUnit b).page

/-- A segment of a drover. -/
def segAt (d : Drover) (k : Nat) : Segment := SMap.get (fun _ => {}) d.segs k

/-- Store a segment. -/
def Drover.putSeg (d : Drover) (k : Nat) (x : Segment) : Drover := { d with segs := SMap.set (fun _ => {}) d.segs k x }

/-- A page of a segment; none where it is neither written nor inherited (R314). -/
def Segment.pageAt (x : Segment) (i : Nat) : Option FlashPage := SMap.get (fun _ => none) x.map i

/-- A page of flash as bytes: 16 KiB, zeros where nothing is held. -/
def flashBytes (p : Option FlashPage) (off n : Nat) : List Byte :=
  (List.range n).map fun i => SMap.get (fun _ => 0) ((p.map FlashPage.data).getD []) (off + i)

/-- The physical pages that a drover's segments reference on stack parity `par`, each once (R311, R314). -/
def liveIds (d : Drover) (par : Nat) : List Nat :=
  (d.segs.flatMap fun e => e.2.map.filterMap fun p => if p.1 % 2 = par then p.2.map FlashPage.id else none).eraseDups

/-- Pages of one bulk die (R310, R519). -/
def diePages (v : Variant) : Nat := match v with | .m768 => 2 ^ 24 | .m384 => 2 ^ 23

/-- Retired dies of a stack. -/
def retiredDies (s : State) (b : Nat) : Nat := (s.dies.filter fun k => k / 16 = b).length

/-- User capacity of a stack in pages (R310, R519). -/
def stackPages (s : State) (b : Nat) : Nat := (16 - retiredDies s b) * diePages s.variant

/-- FREE_PAGES (R329). -/
def freePages (s : State) (n : Nat) : Nat :=
  let d := droverAt s n
  stackPages s (2 * n) + stackPages s (2 * n + 1) - ((liveIds d 0).length + (liveIds d 1).length)

/-- Pages that a WRITING segment holds for itself alone. -/
def ownPages (d : Drover) (x : Segment) : Nat :=
  let base := (x.base.map fun b => (segAt d b).map).getD []
  (x.map.filter fun e => e.2 != SMap.get (fun _ => none) base e.1).length

/-- Pages that the WRITING segments may still write (R315). -/
def promisedPages (d : Drover) : Nat :=
  ((d.segs.filter fun e => e.2.st = .writing).map fun e => e.2.pages - ownPages d e.2).sum

/-- BLK_STATE (R330): 0 ONLINE, 1 READ_ONLY, 2 DEGRADED, 3 OFFLINE. -/
def blkState (s : State) (b : Nat) : Nat := rd s (blkPage b) .blkBlkState

/-- BLK_STATE and the wear report follow the bytes written and the dies (R327, R519, R520): the average wear is the bytes written to media
over the stack's rated capacity. -/
def blkSettle (b : Nat) (s : State) : State :=
  let p := blkPage b
  let avg := min 0xFFFF (rd s p .blkMediaBytes / (16 * 16384 * diePages s.variant))
  let oldMax := rd s p .blkPeMax
  let moved := rd s p .blkPeAvg != avg
  let top := min 0xFFFF (max oldMax (avg + freshVal s % 201))
  let s := if moved then wr p .blkPeMax top (freshNext s) else s
  let life := min 100 (avg * 100 / 3000)
  let s := if life ≥ 90 && rd s p .blkLifeUsed < 90 then raise p 16 s else s
  let s := wr p .blkDiesRetired (retiredDies s b) (wr p .blkLifeUsed life (wr p .blkPeAvg avg s))
  let full : Bool := stackPages s b < (liveIds (droverAt s (b / 2)) (b % 2)).length
  let st := if blkState s b = 3 || 4 < retiredDies s b then 3 else if 3000 ≤ avg || full then 1
    else if 0 < retiredDies s b then 2 else 0
  let s := if st = 1 && blkState s b != 1 then raise p 17 s else s
  wr p .blkBlkState st s

/-- `n` pages are written to the media of a stack, by a command or by relocation (R327). -/
def mediaWrite (b n : Nat) (host : Bool) (s : State) : State :=
  let p := blkPage b
  let s := if host then count p .blkHostBytes (16384 * n) s else s
  blkSettle b (count p .blkMediaBytes (16384 * n) s)

/-- The stack reclaims blocks, relocating live pages to keep its wear within the limit: how many the spec leaves open (R327, log entry
89). -/
def reclaim (b : Nat) (s : State) : State := mediaWrite b (freshVal s) false (freshNext s)

/-- Relocation of `n` pages suspends at a die's limit (R500) and stops while the stack is READ_ONLY or OFFLINE. -/
def relocate (b n : Nat) (s : State) : State :=
  if SMap.get (fun _ => 0) s.partCond (17 + b) / 2 % 2 = 1 || blkState s b = 1 || blkState s b = 3 then s else mediaWrite b n false s

/-- Programs of a stack wait: a die below 0 °C, or above the limit at which they suspend (R315, R500). -/
def bulkWaits (s : State) (b : Nat) : Bool :=
  SMap.get (fun _ => 0) s.partCond (17 + b) / 2 % 2 = 1 ||
    (sensOfPart s.variant (17 + b)).any fun i => !(sensAt s i).broken && (sensAt s i).raw < 0

/-- Programs wait on either stack of partition `n`. -/
def segWaits (s : State) (n : Nat) : Bool := bulkWaits s (2 * n) || bulkWaits s (2 * n + 1)

/-- Either stack of the partition is READ_ONLY (R315). -/
def segReadOnly (s : State) (n : Nat) : Bool := blkState s (2 * n) = 1 || blkState s (2 * n + 1) = 1

/-- A segment command is done: its result, SEG_GO 0 and SEG_DONE (R329). -/
def segDone (n result : Nat) (s : State) : State :=
  raise (drvPage n) 16 (wr (drvPage n) .drvSegGo 0 (wr (drvPage n) .drvSegResult result s))

/-- A segment command that takes time has been accepted: SEG_GO reads 1 until SEG_DONE. -/
def segPending (n op k : Nat) (s : State) : State :=
  putDrover n { droverAt s n with cmd := some (op, k) } (wr (drvPage n) .drvSegGo 1 s)

/-- The base that CREATE names (R314). -/
def createBase (s : State) (n : Nat) : Option Nat :=
  if rd s (drvPage n) .drvSegBaseEn = 1 then some (rd s (drvPage n) .drvSegBase) else none

/-- CREATE (R313-R315). -/
def segCreate (n : Nat) (s : State) : State :=
  let p := drvPage n
  let d := droverAt s n
  let k := rd s p .drvSegId
  let pages := rd s p .drvSegPages
  let recB := rd s p .drvSegRec
  let base := createBase s n
  let baseOk := (base.map fun b =>
    (segAt d b).st == .sealed && (segAt d b).pages == pages && (segAt d b).recBytes == recB).getD true
  if (segAt d k).st != .free then segDone n 2 s
  else if pages = 0 || 2 ^ 29 < pages || recB % 32 != 0 || recB = 0 || 16384 < recB || !baseOk then segDone n 4 s
  else if freePages s n < promisedPages d + pages then segDone n 1 s
  else
    let x : Segment := { st := .writing, pages := pages, recBytes := recB, base := base
                         map := (base.map fun b => (segAt d b).map).getD [] }
    segDone n 0 (putDrover n (d.putSeg k x) s)

/-- Store one page of a WRITING segment: new flash, so that a base keeps its own (R314). -/
def putPage (n k i heat : Nat) (bytes : List (Byte × Bool)) (s : State) : State :=
  let d := droverAt s n
  let x := segAt d k
  let data := (bytes.zipIdx.filter fun e => e.1.1 != 0).map fun e => (e.2, e.1.1)
  let f : FlashPage := { id := d.nextPage, heat := heat, poison := bytes.any Prod.snd, data := data }
  let d := d.putSeg k { x with map := SMap.set (fun _ => none) x.map i (some f) }
  mediaWrite (2 * n + i % 2) 1 true (putDrover n { d with nextPage := d.nextPage + 1 } s)

/-- Copy `c` pages from DRAM at `a` into pages `i`, `i + 1`, … of segment `k` (R314, R329). -/
def copyPages (n k heat : Nat) : Nat → Nat → Nat → State → State
  | 0, _, _, s => s
  | c + 1, i, a, s =>
    let r := readSpan droverPortAt a 16384 s
    copyPages n k heat c (i + 1) (a + 16384) (putPage n k i heat r.1 r.2)

/-- WRITE copies its pages, unless the source is not served now (R315). -/
def segCopy (n : Nat) (s : State) : State :=
  let p := drvPage n
  let k := rd s p .drvSegId
  let a := rd s p .drvSegSrcDpa
  let c := rd s p .drvSegCount
  match memGate s (some n) droverPortAt a (16384 * c) false with
  | some (.fault _ _) => segDone n 4 (putDrover n { droverAt s n with cmd := none } s)
  | some (.snoop ls) => snoopLines ls s
  | some (.wait held) => noteWaits droverPortAt none held s
  | some _ => s
  | none => segPending n 2 k (copyPages n k (rd s p .drvSegHeat) c (rd s p .drvSegFirst) a (reclaim (2 * n + 1) (reclaim (2 * n) s)))

/-- WRITE (R314, R315). -/
def segWrite (n : Nat) (s : State) : State :=
  let p := drvPage n
  let x := segAt (droverAt s n) (rd s p .drvSegId)
  let a := rd s p .drvSegSrcDpa
  let c := rd s p .drvSegCount
  if x.st != .writing then segDone n 2 s
  else if c = 0 || x.pages < rd s p .drvSegFirst + c || a % 16384 != 0 || !inDram s.variant a (16384 * c) then segDone n 4 s
  else if segReadOnly s n then segDone n 5 s
  else if segWaits s n then segPending n 10 (rd s p .drvSegId) s
  else segCopy n s

/-- SEAL (R312, R315). -/
def segSeal (n : Nat) (s : State) : State :=
  let k := rd s (drvPage n) .drvSegId
  if (segAt (droverAt s n) k).st != .writing then segDone n 2 s
  else if segReadOnly s n then segDone n 5 s
  else segPending n 3 k s

/-- DELETE (R312, R315). -/
def segDelete (n : Nat) (s : State) : State :=
  let d := droverAt s n
  let k := rd s (drvPage n) .drvSegId
  let used := d.catalog.any (fun e => (e.2.map fun c => c.seg == k).getD false)
    || d.segs.any fun e => e.2.st = .writing && e.2.base = some k
  if (segAt d k).st != .sealed then segDone n 2 s
  else if used then segDone n 3 s
  else segPending n 4 k (putDrover n (d.putSeg k { segAt d k with st := .deleting }) s)

/-- Code of a segment's state (R312). -/
def SegState.code : SegState → Nat
  | .free => 0 | .writing => 1 | .sealed => 2 | .deleting => 3

/-- QUERY (R329). -/
def segQuery (n : Nat) (s : State) : State :=
  let p := drvPage n
  let x := segAt (droverAt s n) (rd s p .drvSegId)
  segDone n 0 (wr p .drvSegState x.st.code (wr p .drvSegRec x.recBytes (wr p .drvSegPages x.pages s)))

/-- The catalog entry that CAT_REGION and CAT_SLOT name (R316). -/
def catKey (s : State) (n : Nat) : Nat := rd s (drvPage n) .drvCatRegion * 4 + rd s (drvPage n) .drvCatSlot

/-- A catalog entry. -/
def catAt (d : Drover) (k : Nat) : Option CatEntry := SMap.get (fun _ => none) d.catalog k

/-- BIND (R315, R316). -/
def segBind (n : Nat) (s : State) : State :=
  let d := droverAt s n
  let k := rd s (drvPage n) .drvSegId
  if (segAt d k).st != .sealed then segDone n 2 s
  else if (catAt d (catKey s n)).isSome then segDone n 3 s
  else
    let e : CatEntry := ⟨rd s (drvPage n) .drvCatGen, k⟩
    segDone n 0 (putDrover n { d with catalog := SMap.set (fun _ => none) d.catalog (catKey s n) (some e) } s)

/-- Frames of version slot `k` with a GEN remain in the drover's pools (R315). -/
def staged (d : Drover) (k gen : Nat) : Bool :=
  d.pools.any fun p => p.2.frames.any fun e => (e.2.map fun f => f.isOf k gen).getD false

/-- UNBIND (R315). -/
def segUnbind (n : Nat) (s : State) : State :=
  let d := droverAt s n
  let k := catKey s n
  match catAt d k with
  | none => segDone n 0 s
  | some c =>
    if staged d k c.gen || ((vslotAt s k).gen = c.gen && (vslotAt s k).live) then segDone n 3 s
    else segDone n 0 (putDrover n { d with catalog := SMap.set (fun _ => none) d.catalog k none } s)

/-- SEG_GO runs SEG_OP (R329); a NOP is done at once. -/
def segGo (n op : Nat) (s : State) : State :=
  match op with
  | 1 => segCreate n s
  | 2 => segWrite n s
  | 3 => segSeal n s
  | 4 => segDelete n s
  | 5 => segQuery n s
  | 6 => segBind n s
  | 7 => segUnbind n s
  | _ => segDone n 0 s

/-- A write of SEG_OP with SEG_GO: discarded while a command runs (R329). -/
def segCommand (n op : Nat) (s : State) : State :=
  if !unitReachable s (.dr n) || (droverAt s n).cmd.isSome then s else segGo n op (wr (drvPage n) .drvSegOp op s)

/-- SEG_CREATE (R313-R315). -/
def execSegCreate (dr : Nat) (s : State) : Result := .next (segCommand dr 1 s)
/-- SEG_WRITE (R314, R315). -/
def execSegWrite (dr : Nat) (s : State) : Result := .next (segCommand dr 2 s)
/-- SEG_SEAL (R312, R315). -/
def execSegSeal (dr : Nat) (s : State) : Result := .next (segCommand dr 3 s)
/-- SEG_DELETE (R312, R315). -/
def execSegDelete (dr : Nat) (s : State) : Result := .next (segCommand dr 4 s)
/-- SEG_QUERY (R329). -/
def execSegQuery (dr : Nat) (s : State) : Result := .next (segCommand dr 5 s)
/-- SEG_BIND (R316). -/
def execSegBind (dr : Nat) (s : State) : Result := .next (segCommand dr 6 s)
/-- SEG_UNBIND (R315). -/
def execSegUnbind (dr : Nat) (s : State) : Result := .next (segCommand dr 7 s)

/-- The command in progress of a drover completes (R312, R314, R315, R519). -/
def segFinish (n : Nat) (s : State) : State :=
  let d := droverAt s n
  let idle := { d with cmd := none }
  match d.cmd with
  | none => s
  | some (10, _) => if segWaits s n then s else segCopy n s
  | some (3, k) =>
    if segWaits s n then s
    else segDone n 0 (putDrover n (idle.putSeg k { segAt d k with st := .sealed, base := none }) s)
  | some (4, k) => segDone n 0 (reclaim (2 * n) (reclaim (2 * n + 1) (putDrover n (idle.putSeg k {}) s)))
  | some _ => segDone n 0 (putDrover n idle s)

/-- SEG_DONE (R312). -/
def execSegDone (dr : Nat) (s : State) : Result := .next (segFinish dr s)

/-- BULK_PATROL (R328): pages that needed two or more retries are relocated, `relocated` of them. -/
def execBulkPatrol (stack relocated : Nat) (s : State) : Result := .next (relocate stack relocated s)

/-- A die leaves the stack (R519): its pages are relocated where they have room, the capacity falls. -/
def dieRetire (b die : Nat) (s : State) : State :=
  if s.dies.contains (16 * b + die) then s
  else
    let live := (liveIds (droverAt s (b / 2)) (b % 2)).length / (16 - retiredDies s b)
    let s := { s with dies := s.dies ++ [16 * b + die], retQueue := s.retQueue.filter (· != 16 * b + die) }
    let s := blkSettle b s
    if blkState s b = 1 || blkState s b = 3 then s else mediaWrite b live false s

/-- DIE_RETIRE (R519, R520): a die that failed, passed its rebuild limit or was named by RET_GO is retired. -/
def execDieRetire (stack die : Nat) (s : State) : Result := .next (dieRetire stack die s)

/-- RET_GO names a die for retirement (R519, R523). -/
def retGo (s : State) : State :=
  let k := 16 * rd s 0x2038 .mgtRetStack + rd s 0x2038 .mgtRetDie
  if s.dies.contains k || s.retQueue.contains k then s else { s with retQueue := s.retQueue ++ [k] }

/-- RET_GO. -/
def execRetGo (s : State) : Result := .next (retGo s)

end Sys2Proof.Machine
end

