-- ==== Sys2Proof/Machine/Drover.lean ====
section
/-!
DEFINITION. Staging pools and drover descriptors (R317-R326): frames and their choice, the miss filter, pins, DR_FETCH, DR_PROMOTE and
DR_UNPIN, bulk reads in flight and their landing, enabling and disabling a pool.
-/

namespace Sys2Proof.Machine

/-- Store a pool of a drover. -/
def Drover.putPool (d : Drover) (i : Nat) (x : Pool) : Drover := { d with pools := SMap.set (fun _ => {}) d.pools i x }

/-- Store a pool. -/
def putPool (n i : Nat) (x : Pool) (s : State) : State := putDrover n ((droverAt s n).putPool i x) s

/-- First DPA of a pool's frame (R317). -/
def frameDpa (s : State) (n i f : Nat) : Nat := rdi s (drvPage n) .drvPoolBase i * 2 ^ 21 + 16384 * f

/-- The pool takes descriptors: enabled and not disabling (R322). -/
def poolOn (s : State) (n i : Nat) : Bool := rdi s (drvPage n) .drvPoolEn i = 1 && !(poolAt (droverAt s n) i).disabling

/-- DRAM bytes [a, a + k) lie in interleaved blocks of partition `n`'s stacks (R317). -/
def stageable (s : State) (n a k : Nat) : Bool :=
  inDram s.variant a k && (List.range (ceilDiv (a % 2 ^ 30 + k) (2 ^ 30))).all fun j =>
    let x := a / 2 ^ 30 * 2 ^ 30 + j * 2 ^ 30
    let d := x / 2 ^ stackBits s.variant
    partOfStack d = n && !isLinear s d (x % 2 ^ stackBits s.variant / 2 ^ 30)

/-- A frame of the pool that holds a page of a version. -/
def Pool.find (x : Pool) (k gen page : Nat) : Option (Nat × Frame) :=
  x.frames.findSome? fun e => match e.2 with
    | some f => if f.isOf k gen && f.page = page && !f.doomed then some (e.1, f) else none
    | none => none

/-- Store a frame of a pool. -/
def Pool.putFrame (x : Pool) (f : Nat) (v : Option Frame) : Pool := { x with frames := SMap.set (fun _ => none) x.frames f v }

/-- Frames of a pool that may be replaced: landed and unpinned. -/
def Pool.loose (x : Pool) : List (Nat × Frame) :=
  x.frames.filterMap fun e => match e.2 with
    | some f => if f.pins.isEmpty && !f.filling then some (e.1, f) else none
    | none => none

/-- One turn of the clock over candidates in order: the first without its reference bit, and the pool with the bits of those passed
cleared; a whole turn clears all and takes the first (R319). -/
def clockTurn : List (Nat × Frame) → Pool → Option Nat × Pool
  | [], x => (none, x)
  | e :: es, x => if e.2.refd then clockTurn es (x.putFrame e.1 (some { e.2 with refd := false })) else (some e.1, x)

/-- The frame that an allocation takes, and the pool after the choice (R319): none when no frame qualifies. -/
def chooseFrame (s : State) (n i : Nat) (x : Pool) : Option Nat × Pool :=
  let total := rdi s (drvPage n) .drvPoolFrames i
  match (List.range total).find? fun f => (SMap.get (fun _ => none) x.frames f).isNone with
  | some f => (some f, x)
  | none =>
    match x.loose.find? fun e => (e.2.endAt.map fun t => epochAtOrBefore t (epochNow s)).getD false with
    | some e => (some e.1, x)
    | none =>
      let low := (x.loose.map fun e => e.2.heat).foldl min 3
      let cand := x.loose.filter fun e => e.2.heat = low
      let turn := cand.filter (fun e => x.hand ≤ e.1) ++ cand.filter fun e => e.1 < x.hand
      let r := clockTurn turn x
      let pick := r.1.or (turn.head?.map Prod.fst)
      (pick, match pick with
        | some f => { r.2 with hand := (f + 1) % max total 1 }
        | none => r.2)

/-- The version whose pages a descriptor reads: the EPO slot, its GEN and END tag, and the segment (R316). -/
structure DrSource where
  key : Nat := 0
  gen : Nat := 0
  endAt : Option Nat := none
  seg : Nat := 0
deriving DecidableEq, Repr

/-- The class under which a miss to a page counts (R318). -/
def missHeat (d : Drover) (src : DrSource) (page heatMin : Nat) : Nat :=
  max ((((segAt d src.seg).pageAt page).map FlashPage.heat).getD 0) heatMin

/-- Take a frame of pool `i` for a page, its fill in flight; none when no frame qualifies, which counts BYPASS (R319). -/
def allocFrame (n i : Nat) (src : DrSource) (page heat : Nat) (s : State) : Option Nat × State :=
  let r := chooseFrame s n i (poolAt (droverAt s n) i)
  match r.1 with
  | none => (none, counti (drvPage n) .drvBypass i 1 (putPool n i r.2 s))
  | some f =>
    let s := if (SMap.get (fun _ => none) r.2.frames f).isSome then counti (drvPage n) .drvEvicted i 1 s else s
    let x : Frame := { region := src.key / 4, slot := src.key % 4, gen := src.gen, page := page, endAt := src.endAt, heat := heat
                       refd := true, filling := true }
    (some f, putPool n i (r.2.putFrame f (some x)) s)

/-- A bulk read of the page is asked for. -/
def readOf (d : Drover) (seg page : Nat) : Option BulkRead := d.reads.find? fun r => r.seg = seg && r.page = page

/-- The descriptor whose waiting read of stack parity `par` is issued next: descriptors take turns, one that has had none first
(R326). -/
def nextTurn (d : Drover) (par : Nat) : Option (Nat × Nat × Nat) :=
  let ws := (d.reads.filter fun r => !r.out && r.page % 2 = par).map BulkRead.who
  (ws.find? fun w => !d.served.contains (par, w)).or ((d.served.find? fun e => e.1 = par && ws.contains e.2).map Prod.snd)

/-- A place among the 512 of a stack is free: the next read in turn becomes outstanding (R310, R326). -/
def issueTurn (par : Nat) (d : Drover) : Drover :=
  if 512 ≤ (d.reads.filter fun r => r.out && r.page % 2 = par).length then d
  else match nextTurn d par with
    | none => d
    | some w =>
      match d.reads.find? fun r => !r.out && r.page % 2 = par && r.who = w with
      | none => d
      | some r =>
        { d with reads := d.reads.map fun e => if e = r then { e with out := true } else e
                 served := (d.served.filter fun e => e != (par, w) && d.reads.any fun r => r.who = e.2) ++ [(par, w)] }

/-- Ask for a bulk read on behalf of a descriptor, or join the one that is asked for (R318), keeping the page in a frame when one is
given. -/
def issueRead (n : Nat) (who : Nat × Nat × Nat) (seg page : Nat) (frame : Option (Nat × Nat)) (s : State) : State :=
  let d := droverAt s n
  if (readOf d seg page).isSome then
    putDrover n { d with reads := d.reads.map fun r =>
      if r.seg = seg && r.page = page then { r with frames := r.frames ++ frame.toList } else r } s
  else putDrover n (issueTurn (page % 2) { d with reads := d.reads ++ [⟨seg, page, frame.toList, who, false⟩] }) s

/-- Mark a resident frame referenced. -/
def touchFrame (n i f : Nat) (s : State) : State :=
  let x := poolAt (droverAt s n) i
  putPool n i (x.putFrame f ((SMap.get (fun _ => none) x.frames f).map fun v => { v with refd := true })) s

/-- Pins of a pool. -/
def Pool.pinned (x : Pool) : Nat := (x.frames.map fun e => ((e.2.map Frame.pins).getD []).length).sum

/-- Pin a frame for a context while half of the pool's frames are not pinned yet (R320). -/
def pinFrame (n i f id : Nat) (s : State) : State :=
  let x := poolAt (droverAt s n) i
  match SMap.get (fun _ => none) x.frames f with
  | none => s
  | some v =>
    if v.pins.contains id || rdi s (drvPage n) .drvPoolFrames i < 2 * (x.pinned + 1) then s
    else putPool n i (x.putFrame f (some { v with pins := v.pins ++ [id] })) s

/-- A record to copy: its page and offset in it, where it goes, and whether its index was poisoned. -/
structure DrRec where
  page : Nat := 0
  off : Nat := 0
  pieces : List (Nat × Nat) := []
  idxBad : Bool := false
deriving DecidableEq, Repr

/-- The body of a drover descriptor (R324). -/
structure DrBody where
  src : Tensor
  idx : Option Tensor
  dst : Option Tensor
  pool : Nat
  pin : Bool
  byIndex : Bool
  heatMin : Nat
  idxNull : Bool
  recBytes : Nat
  count : Nat
  idxOff : Nat
  dstOff : Nat
  first : Nat

/-- Decode the body. -/
def drBody (img d : List Byte) : DrBody :=
  let f := fieldAt d
  { src := tensorOf img (f 0x10 15 0), idx := optTensor img (f 0x10 31 16), dst := optTensor img (f 0x14 15 0)
    pool := f 0x14 19 16, pin := f 0x14 20 20 = 1, byIndex := f 0x14 21 21 = 1, heatMin := f 0x14 23 22
    idxNull := f 0x14 24 24 = 1, recBytes := f 0x18 14 0, count := f 0x1C 24 0, idxOff := f 0x20 31 0
    dstOff := f 0x24 31 0, first := f 0x28 28 0 }

/-- The index values of a drover descriptor with their poison marks (R324). -/
def drIndices (g : Nat) (c : Ctx) (x : DrBody) (s : State) : List (Nat × Bool) × State :=
  match x.idx with
  | none => ([], s)
  | some t =>
    let at_ := spAddr c t + x.idxOff
    let r := readSec g at_ (4 * x.count) (takeSlots .tmv g (spLines at_ (4 * x.count)).length s)
    ((List.range x.count).map fun i =>
      let b := (r.1.drop (4 * i)).take 4
      (leNat (b.map Prod.fst), b.any Prod.snd), r.2)

/-- The version and segment that the descriptor's REGION tensor resolves to, or its fault: no version, NOT_BULK, REC_MISMATCH
(R316, R325). -/
def drSource (s : State) (g c : Nat) (x : DrBody) : Except Nat DrSource :=
  let n := corePart g
  match resolveRegion s x.src.sel (ctxAt s (ctxId g c)).snap with
  | none => .error 0x06
  | some k =>
    let v := vslotAt s k
    match catAt (droverAt s n) k with
    | none => .error 0x18
    | some e =>
      if e.gen != v.gen then .error 0x18
      else if (segAt (droverAt s n) e.seg).recBytes != x.recBytes then .error 0x19
      else .ok ⟨k, v.gen, if v.st = .open then none else some v.fin, e.seg⟩

/-- Records that fit in a page (R313). -/
def recsPerPage (recB : Nat) : Nat := 16384 / max recB 1

/-- Where record `i` of a fetch goes: its DRAM pieces, or why it stops with operand and information (R325). -/
def recPieces (g c : Nat) (x : DrBody) (run : Run) (t : Tensor) (i : Nat) (s : State) :
    Except (MemStop × Nat) (List (Nat × Nat)) × State :=
  let dva := memBase run t + t.offset + x.dstOff + i * x.recBytes
  let r := xlateSpan g c droverPortAt none true dva x.recBytes s
  match r.1 with
  | .error e => (.error e, r.2)
  | .ok ps =>
    if ps.all fun p => stageable r.2 (corePart g) p.1 p.2 then (.ok ps, r.2) else (.error (.fault 0x1A 0, dva), r.2)

/-- Why a plan stops: memory, or a record out of range at a position (R325). -/
inductive DrStop where
  | mem (e : MemStop) (dva : Nat)
  | range (pos : Nat)
deriving DecidableEq, Repr

/-- The records of a fetch in order, up to the first stop (R324, R325). -/
def planRecs (g c : Nat) (x : DrBody) (run : Run) (t : Tensor) (seg : Segment) :
    List ((Nat × Bool) × Nat) → List DrRec → State → (List DrRec × Option DrStop) × State
  | [], acc, s => ((acc.reverse, none), s)
  | (e, i) :: es, acc, s =>
    if x.idxNull && e.1 = 0xFFFFFFFF && !e.2 then planRecs g c x run t seg es acc s
    else
      let page := e.1 / recsPerPage x.recBytes
      if !e.2 && seg.pages ≤ page then ((acc.reverse, some (.range i)), s)
      else
        let r := recPieces g c x run t i s
        match r.1 with
        | .error m => ((acc.reverse, some (.mem m.1 m.2)), r.2)
        | .ok ps => planRecs g c x run t seg es (⟨page, e.1 % recsPerPage x.recBytes * x.recBytes, ps, e.2⟩ :: acc) r.2

/-- Write bytes of a record to its DRAM pieces through the drover's port. -/
def drWrite (ps : List (Nat × Nat)) (bytes : List Byte) (bad : Bool) (s : State) : State :=
  (ps.foldl (fun (r : Nat × State) p =>
    (r.1 + p.2, writeSpan p.1 ((bytes.drop r.1).take p.2) bad (droverPortAt r.2 (p.1 / 2 ^ stackBits r.2.variant)) r.2)) (0, s)).2

/-- The pieces of a record as a page landing serves them. -/
def recWaits (r : DrRec) : List (Nat × Nat × Nat) :=
  (r.pieces.foldl (fun (a : List (Nat × Nat × Nat) × Nat) p => (a.1 ++ [(a.2, p.1, p.2)], a.2 + p.2)) ([], r.off)).1

/-- The descriptor waits for a page. -/
def DrWork.await (w : DrWork) (page : Nat) (ps : List (Nat × Nat × Nat)) : DrWork :=
  if w.waits.any fun e => e.1 = page then { w with waits := w.waits.map fun e => if e.1 = page then (page, e.2 ++ ps) else e }
  else { w with waits := w.waits ++ [(page, ps)] }

/-- The descriptor as its reads name it. -/
def DrWork.who (w : DrWork) : Nat × Nat × Nat := (w.core, w.ctx, w.k)

/-- A miss of DR_FETCH (R318): whether it takes a frame, and the miss filter after it. -/
def missTakes (x : Pool) (seg page heat : Nat) : Bool × Pool :=
  let key := seg * 2 ^ 29 + page
  if 2 ≤ heat then (true, x)
  else if heat = 0 then (false, x)
  else if x.filter.contains key then (true, { x with filter := x.filter.filter (· != key) })
  else (false, { x with filter := (x.filter ++ [key]).drop (x.filter.length - 4095) })

/-- A DR_FETCH misses a page (R318); a page whose frame is filling is served from its read. -/
def drMiss (n i : Nat) (who : Nat × Nat × Nat) (src : DrSource) (page heatMin : Nat) (s : State) : State :=
  let s := counti (drvPage n) .drvMisses i 1 s
  let d := droverAt s n
  if ((poolAt d i).find src.key src.gen page).isSome then issueRead n who src.seg page none s
  else
    let heat := missHeat d src page heatMin
    let t := missTakes (poolAt d i) src.seg page heat
    let s := putPool n i t.2 s
    if t.1 then
      let a := allocFrame n i src page heat s
      issueRead n who src.seg page (a.1.map fun f => (i, f)) a.2
    else issueRead n who src.seg page none (counti (drvPage n) .drvBypass i 1 s)

/-- Serve one record of a fetch (R318, R325): written from a frame, or it waits for its page; none when a frame's memory does not
answer now. -/
def serveRec (n i : Nat) (src : DrSource) (recB heatMin : Nat) (r : DrRec) (acc : DrWork × State) : Except MemStop (DrWork × State) :=
  let w := acc.1
  let s := acc.2
  if r.idxBad then
    let b := (leBytes recB (freshVal s), freshNext s)
    .ok ({ w with poison := true }, drWrite r.pieces b.1 true b.2)
  else
    match (poolAt (droverAt s n) i).find src.key src.gen r.page with
    | some (f, v) =>
      if v.filling then .ok (w.await r.page (recWaits r), drMiss n i w.who src r.page heatMin s)
      else
        let a := frameDpa s n i f + r.off
        match memGate s (some n) droverPortAt a recB false with
        | some e => .error e
        | none =>
          let m := readSpan droverPortAt a recB (touchFrame n i f (counti (drvPage n) .drvHits i 1 s))
          let bad := m.1.any Prod.snd
          .ok ({ w with poison := w.poison || bad }, drWrite r.pieces (m.1.map Prod.fst) bad m.2)
    | none => .ok (w.await r.page (recWaits r), drMiss n i w.who src r.page heatMin s)

/-- Serve the records in order. -/
def serveRecs (n i : Nat) (src : DrSource) (recB heatMin : Nat) : List DrRec → DrWork × State → Except MemStop (DrWork × State)
  | [], acc => .ok acc
  | r :: rs, acc =>
    match serveRec n i src recB heatMin r acc with
    | .error e => .error e
    | .ok a => serveRecs n i src recB heatMin rs a

/-- The descriptor's record after its pages were looked up: ended, or in flight until its pages land (R323). -/
def drStarted (g c : Nat) (w : Work) (n : Nat) (x : DrWork) (s : State) : State :=
  if x.waits.isEmpty then endWork g c qLd w.k (poisonStat x.poison) 0 0 s
  else
    putDrover n { droverAt s n with works := (droverAt s n).works ++ [x] }
      (mapWork g c qLd w.k (fun v => { v with began := true }) (engineFree g qLd c w.k s))

/-- A stop that leaves the command to be tried again, by the descriptor `who`. -/
def drAgain (who : Option (Nat × Nat × Nat × Nat)) (e : MemStop) (s : State) : State :=
  match e with
  | .snoop ls => snoopLines ls s
  | .wait held => noteWaits droverPortAt who held s
  | _ => s

/-- The destination bytes planned so far are undefined after a FAULT (R243, log entry 34). -/
def drUndefine (recs : List DrRec) (s : State) : State :=
  recs.foldl (fun t r =>
    let n := (r.pieces.map Prod.snd).sum
    let b := freeBytes n t
    drWrite r.pieces (b.1.map Prod.fst) false b.2) s

/-- The index entry of a descriptor is released once its last index has been read (R324). -/
def idxRelease (g c : Nat) (w : Work) (s : State) : State :=
  sbRelease g qLd c (absWb (ctxAt s (ctxId g c)) qLd w.k) (fun e => e.kind = .read)
    (mapWork g c qLd w.k (fun v => { v with rdRel := true }) s)

/-- DR_FETCH acts (R318, R323-R325). -/
def drFetch (g c : Nat) (w : Work) (s : State) : State :=
  let n := corePart g
  let cx := ctxAt s (ctxId g c)
  let x := drBody (ctxImage s g c) w.img
  let run := (runAt s cx.run).getD {}
  let dst := x.dst.getD {}
  let fault (code operand info entry : Nat) (t : State) : State := tmFault g c qLd w.k code operand info entry t
  if (memBind run dst).remote then fault 0x0E 0 0 0 s
  else if !poolOn s n x.pool then fault 0x1B 0 0 0 s
  else match drSource s g c x with
    | .error code => fault code 0 0 0 s
    | .ok src =>
      let ix := drIndices g cx x s
      let p := planRecs g c x run dst (segAt (droverAt s n) src.seg) ix.1.zipIdx [] ix.2
      match p.1.2 with
      | some (.mem (.fault code entry) dva) => fault code 0 dva entry (drUndefine p.1.1 p.2)
      | some (.range pos) => fault 0x1C 2 pos 0 (drUndefine p.1.1 p.2)
      | some (.mem e _) => drAgain (some (g, c, qLd, w.k)) e s
      | none =>
        match piecesWait p.2 droverPortAt (p.1.1.flatMap DrRec.pieces) false true with
        | some held => drAgain (some (g, c, qLd, w.k)) (.wait held) s
        | none =>
        match serveRecs n x.pool src x.recBytes x.heatMin p.1.1 ({ core := g, ctx := c, k := w.k, pool := x.pool, seg := src.seg }, p.2) with
        | .error e => drAgain (some (g, c, qLd, w.k)) e s
        | .ok r => drStarted g c w n r.1 (idxRelease g c w r.2)

/-- DR_PROMOTE of one page (R318-R320): found, taken, or bypassed. -/
def promotePage (n i id : Nat) (src : DrSource) (pin : Bool) (page : Nat) (acc : DrWork × State) : DrWork × State :=
  let w := acc.1
  let s := acc.2
  let pinIf (f : Nat) (t : State) : State := if pin then pinFrame n i f id t else t
  match (poolAt (droverAt s n) i).find src.key src.gen page with
  | some (f, v) =>
    let s := pinIf f (touchFrame n i f s)
    if v.filling then (w.await page [], s) else (w, s)
  | none =>
    let a := allocFrame n i src page (missHeat (droverAt s n) src page 0) s
    match a.1 with
    | none => (w, a.2)
    | some f =>
      (w.await page [], issueRead n w.who src.seg page (some (i, f)) (pinIf f (counti (drvPage n) .drvPromoted i 1 a.2)))

/-- The pages that a DR_PROMOTE names with their positions: its range, or those of its records; poisoned indices name none. -/
def promotePages (x : DrBody) (ix : List (Nat × Bool)) : List (Nat × Nat) :=
  if x.byIndex then
    (ix.zipIdx.filter fun e => !e.1.2 && !(x.idxNull && e.1.1 = 0xFFFFFFFF)).map fun e => (e.1.1 / recsPerPage x.recBytes, e.2)
  else (List.range x.count).map fun i => (x.first + i, i)

/-- DR_PROMOTE acts (R318-R320, R323-R325). -/
def drPromote (g c : Nat) (w : Work) (s : State) : State :=
  let n := corePart g
  let cx := ctxAt s (ctxId g c)
  let x := drBody (ctxImage s g c) w.img
  let fault (code operand info : Nat) (t : State) : State := tmFault g c qLd w.k code operand info 0 t
  if !poolOn s n x.pool then fault 0x1B 0 0 s
  else match drSource s g c x with
    | .error code => fault code 0 0 s
    | .ok src =>
      let ix := drIndices g cx x s
      let pages := promotePages x ix.1
      match pages.find? fun e => (segAt (droverAt s n) src.seg).pages ≤ e.1 with
      | some e => fault 0x1C 2 e.2 ix.2
      | none =>
        let w0 : DrWork := { core := g, ctx := c, k := w.k, pool := x.pool, seg := src.seg, poison := ix.1.any Prod.snd }
        let r := pages.foldl (fun a e => promotePage n x.pool (ctxId g c) src x.pin e.1 a) (w0, ix.2)
        drStarted g c w n r.1 (idxRelease g c w r.2)

/-- DR_UNPIN acts (R320, R323). -/
def drUnpin (g c : Nat) (w : Work) (s : State) : State :=
  let n := corePart g
  let i := (drBody (ctxImage s g c) w.img).pool
  if !poolOn s n i then tmFault g c qLd w.k 0x1B 0 0 0 s
  else endWork g c qLd w.k .ok 0 0 (putPool n i ((poolAt (droverAt s n) i).unpin (ctxId g c)) s)

/-- The oldest started drover descriptor of a context that has not acted; the drover takes no new one while it is fenced (R449). -/
def drRun (g c type : Nat) (act : Work → State → State) (s : State) : State :=
  match ((ctxAt s (ctxId g c)).q qLd).live.find? fun w => w.works && !w.began && dType w.img = type with
  | none => s
  | some w => if rd s (drvPage (corePart g)) .hdrFenced = 1 then s else act w s

/-- DR_FETCH (R323). -/
def execDrFetch (core ctx : Nat) (s : State) : Result := .next (drRun core ctx 0x64 (drFetch core ctx) s)
/-- DR_PROMOTE (R323). -/
def execDrPromote (core ctx : Nat) (s : State) : Result := .next (drRun core ctx 0x65 (drPromote core ctx) s)
/-- DR_UNPIN (R323). -/
def execDrUnpin (core ctx : Nat) (s : State) : Result := .next (drRun core ctx 0x66 (drUnpin core ctx) s)

/-- Where a landed page is written: into its frames that are still wanted, and to the records that wait for it, as (offset in
the page, DPA, bytes). -/
def landSpans (s : State) (n : Nat) (r : BulkRead) (bad : Bool) : List (Nat × Nat × Nat) :=
  let d := droverAt s n
  let kept := r.frames.filter fun e =>
    !bad && ((SMap.get (fun _ => none) (poolAt d e.1).frames e.2).map fun f => !f.doomed).getD false
  kept.map (fun e => (0, frameDpa s n e.1 e.2, 16384)) ++
    d.works.flatMap fun w => if w.seg = r.seg then (w.waits.filter fun e => e.1 = r.page).flatMap Prod.snd else []

/-- A frame whose fill has landed: kept, or freed when the page is poisoned or the frame no longer wanted (R321, R325). -/
def landFrame (n : Nat) (bad : Bool) (e : Nat × Nat) (s : State) : State :=
  let x := poolAt (droverAt s n) e.1
  match SMap.get (fun _ => none) x.frames e.2 with
  | none => s
  | some f =>
    if bad || f.doomed then
      putPool n e.1 (x.putFrame e.2 none) (if f.doomed then counti (drvPage n) .drvEvicted e.1 1 s else s)
    else putPool n e.1 (x.putFrame e.2 (some { f with filling := false })) s

/-- A descriptor hears that a page it waits for has landed; it ends when it waits for nothing more. -/
def landWork (n : Nat) (r : BulkRead) (bad : Bool) (w : DrWork) (s : State) : State :=
  if w.seg != r.seg || !(w.waits.any fun e => e.1 = r.page) then s
  else
    let v := { w with waits := w.waits.filter (fun e => e.1 != r.page), poison := w.poison || bad }
    let d := droverAt s n
    if v.waits.isEmpty then
      endWork w.core w.ctx qLd w.k (poisonStat v.poison) 0 0 (putDrover n { d with works := d.works.filter (· != w) } s)
    else putDrover n { d with works := d.works.map fun u => if u = w then v else u } s

/-- The page read number `pos` of stack `b` among those that are outstanding, at most 512 (R310). -/
def landing (s : State) (b pos : Nat) : Option BulkRead := ((droverAt s (b / 2)).reads.filter fun r => r.out && r.page % 2 = b % 2)[pos]?

/-- A bulk page read lands (R310, R321, R325, R366, R520): after `attempts` attempts to decode it, at most five; 6 stands for five that
failed and the rebuild from die parity, which alone can leave the page poisoned and otherwise relocates it. -/
def bulkLand (b pos attempts : Nat) (poisoned : Bool) (s : State) : State :=
  let n := b / 2
  match landing s b pos with
  | none => s
  | some r =>
    let page := (segAt (droverAt s n) r.seg).pageAt r.page
    let bad := (poisoned && 5 < attempts) || blkState s b = 3 || (page.map FlashPage.poison).getD false
    let spans := landSpans s n r bad
    let open_ := spans.filter fun e => partState s (partOfStack (e.2.1 / 2 ^ stackBits s.variant)) != 4
    let stop := (spans.filterMap fun e => memGate s (some n) droverPortAt e.2.1 e.2.2 true).find? fun e => match e with | .fault _ _ => false | _ => true
    match stop.orElse fun _ => (piecesWait s droverPortAt (open_.map Prod.snd) false true).map .wait with
    | some e => drAgain none e s
    | none =>
      let s := if 1 < attempts then count (blkPage b) .blkReadRetries 1 s else s
      let s := if 5 < attempts && !bad then relocate b 1 s else s
      let s := if bad then count (blkPage b) .blkReadPoisoned 1 s else s
      let s := spans.foldl (fun t e =>
        writeSpan e.2.1 (flashBytes page e.1 e.2.2) bad (droverPortAt t (e.2.1 / 2 ^ stackBits t.variant)) t) s
      let works := (droverAt s n).works
      let s := putDrover n (issueTurn (b % 2) { droverAt s n with reads := (droverAt s n).reads.filter (· != r) }) s
      let s := r.frames.foldl (fun t e => landFrame n bad e t) s
      epochSettle (works.foldl (fun t w => landWork n r bad w t) s)

/-- BULK_PAGE_LAND. -/
def execBulkPageLand (stack pos attempts : Nat) (poisoned : Bool) (s : State) : Result :=
  .next (bulkLand stack pos attempts poisoned s)

/-- Fetches of a pool are in flight (R322). -/
def poolBusy (d : Drover) (i : Nat) : Bool := d.works.any (fun w => w.pool = i) || d.reads.any fun r => r.frames.any fun e => e.1 = i

/-- The pool is disabled: its frames and pins go (R322). -/
def poolOff (n i : Nat) (s : State) : State := epochSettle (putPool n i {} (wri (drvPage n) .drvPoolEn i 0 s))

/-- A write of POOL_EN (R317, R322, R329). -/
def poolEnable (n i v : Nat) (s : State) : State :=
  let p := drvPage n
  let on := rdi s p .drvPoolEn i = 1
  if v = 1 then
    if on then s
    else if stageable s n (rdi s p .drvPoolBase i * 2 ^ 21) (16384 * rdi s p .drvPoolFrames i) then wri p .drvPoolEn i 1 s
    else wr p .hdrBadWrite 1 s
  else if !on then s
  else if poolBusy (droverAt s n) i then putPool n i { poolAt (droverAt s n) i with disabling := true } s
  else poolOff n i s

/-- POOL_EN_WRITE (R322): POOL_SEL names the pool. -/
def execPoolEnWrite (dr pool value : Nat) (s : State) : Result :=
  if !unitReachable s (.dr dr) then .next s
  else .next (poolEnable dr (pool % 16) (value % 2) (wr (drvPage dr) .drvPoolSel pool s))

/-- POOL_DISABLED (R322). -/
def execPoolDisabled (dr pool : Nat) (s : State) : Result :=
  let d := droverAt s dr
  if (poolAt d pool).disabling && !poolBusy d pool then .next (poolOff dr pool s) else .next s

/-- A partition reset of the drover (R322, R452): nothing is in flight, every frame is free; segments, catalog and configuration stay. A
disable that waited is done. -/
def droverReset (n : Nat) (s : State) : State :=
  let d := droverAt s n
  let off := (d.pools.filter fun e => e.2.disabling).map Prod.fst
  off.foldl (fun t i => wri (drvPage n) .drvPoolEn i 0 t) (putDrover n { d with pools := [], reads := [], served := [], works := [] } s)

end Sys2Proof.Machine
end

