-- ==== Sys2Proof/Machine/SpadCmds.lean ====
section
/-!
DEFINITION. Events of a scratchpad that no descriptor drives: write-backs of narrow buffers (R204), pending POISON marks (R366),
the scrubber (R374) and host accesses to a debug window (R49, R214, R475).
-/

namespace Sys2Proof.Machine

/-- The scratchpad of a core works: its partition is not being reset and is in service. -/
def spadWorks (s : State) (g : Nat) : Bool := partServes s (corePart g) || partState s (corePart g) = 1

/-- NARROW_WRITEBACK (R204): a dirty buffer writes itself back. -/
def execNarrowWriteback (core line : Nat) (s : State) : Result :=
  if spadWorks s core then .next (bufBack core line s) else .next s

/-- SPAD_POISON_MARK (R366): the oldest pending mark is written. -/
def execSpadPoisonMark (core : Nat) (s : State) : Result :=
  let x := spadAt s core
  match x.marks with
  | [] => .next s
  | w :: ws => .next (poisonWord core w (putSpad core { x with marks := ws } s))

/-- The scrubber meets one word (R374): a correctable one is written back corrected, an uncorrectable one is handled under
R366. -/
def scrubWord (g w : Nat) (s : State) : State :=
  match wordLook s g w with
  | .clean | .poison => s
  | .corrected d => sealWord g w (leBytes 8 d) (ceWindow (spdPage g) (counti 0x2028 .fltCeOde (spdPage g) 1 s))
  | .ue => spadUe g w s

/-- SCRATCHPAD_SCRUB (R374): one line in an idle line slot. -/
def execScratchpadScrub (core : Nat) (s : State) : Result :=
  if !spadWorks s core then .next s
  else
    let l := (spadAt s core).scrub
    let s := forUpto 256 (fun i t => scrubWord core (256 * l + i) t) (count (spdPage core) .spdSlotIdle 1 s)
    let s := putSpad core { spadAt s core with scrub := (l + 1) % 12288 } s
    .next (if l + 1 = 12288 then counti 0x2028 .fltScrubPasses (spdPage core) 1 s else s)

/-- A host word that intersects a held READ or WRITE entry is counted (R214). -/
def noteHazard (g w : Nat) (s : State) : State :=
  if (spadAt s g).sb.any fun e => !e.kind.isClaim && e.lo ≤ w / 4 && w / 4 < e.hi then
    raise (spdPage g) 16 (count (spdPage g) .spdDbgHazard 1 s)
  else s

/-- An access that the debug level refuses is logged with its offset in the window as DETAIL, the model's choice (R49, R475; log entry 75). -/
def windowDenied (g off : Nat) (s : State) : State := logErr (spdPage g) 1 0x01 off s

/-- TEST_MODE of a core's scratchpad (R381). -/
def spadMode (s : State) (g : Nat) : Nat := rdi s 0x2028 .fltTestMode (spdPage g)

/-- The buffer of a word's line is written back and dropped, so that a test mode meets the stored word. -/
def dropBuf (g w : Nat) (s : State) : State :=
  let s := bufBack g (w / 256) s
  let x := spadAt s g
  putSpad g { x with nbufs := x.nbufs.filter (·.line != w / 256) } s

/-- The check byte of a word as stored. -/
def wordChk (s : State) (g w : Nat) : Nat :=
  (SMap.get (fun _ => none) s.spadChk (wordKey g w)).getD (spdCheck (leNat (spadBytes s g (8 * w) 8)))

/-- Store a check byte of a word, none where it is the valid one. -/
def putWordChk (g w c : Nat) (s : State) : State :=
  putSpadChk (wordKey g w) (if c = spdCheck (leNat (spadBytes s g (8 * w) 8)) then none else some c) s

/-- RAW_READ of a word (R381): the stored data, RAW_CHK and RAW_SYN latched. -/
def rawWord (g w : Nat) (s : State) : (List Byte × Bool) × State :=
  let s := dropBuf g w s
  let d := spadBytes s g (8 * w) 8
  let c := wordChk s g w
  ((d, false), wri 0x2028 .fltRawChk (spdPage g) c (wri 0x2028 .fltRawSyn (spdPage g) (c ^^^ spdCheck (leNat d)) s))

/-- A write of a word under DATA_ONLY or CHK_ONLY (R381). -/
def testWord (g w mode mask data : Nat) (s : State) : State :=
  let s := dropBuf g w s
  if mode = 2 then putWordChk g w (bits (rdi s 0x2028 .fltTestChk (spdPage g)) 7 0) s
  else if mask = 0xFF then
    let c := wordChk s g w
    putWordChk g w c (putSpadData g (8 * w) (leBytes 8 data) s)
  else s

/-- Read words of a debug window through the narrow view. -/
def windowWords (g : Nat) : List Nat → State → List (List Byte × Bool) × State
  | [], s => ([], s)
  | w :: ws, s =>
    let r := if spadMode s g = 3 then rawWord g w (noteHazard g w s) else narrowRead g w (noteHazard g w s)
    let t := windowWords g ws r.2
    (r.1 :: t.1, t.2)

/-- A host read of a debug window: the bytes and the poison indication (R49, R214, R444). -/
def windowRead (g off n : Nat) (s : State) : (List Byte × Bool) × State :=
  if debugLevel s = 0 then ((List.replicate n 0, false), windowDenied g off s)
  else
    let ws := (wordsOf off n).filter (· < spadSize / 8)
    let r := windowWords g ws s
    let bytes := (r.1.flatMap Prod.fst).drop (off % 8)
    ((slice bytes 0 n, r.1.any Prod.snd), r.2)

/-- A host write of a debug window (R49, R214, R369). -/
def windowWrite (g off : Nat) (data : List Byte) (poison : Bool) (s : State) : State :=
  if debugLevel s != 2 then windowDenied g off s
  else
    ((wordsOf off data.length).filter (· < spadSize / 8)).foldl (fun t w =>
      let part := wordPart off w data
      let mask := (part.map fun e => 2 ^ e.1).sum
      let v := (part.map fun e => e.2.toNat * 256 ^ e.1).sum
      let t := noteHazard g w t
      if spadMode t g = 1 || spadMode t g = 2 then testWord g w (spadMode t g) mask v t else narrowWrite g w mask v poison t) s

/-- A host access to the debug window of core `g` (R49, R214, R455, R466). -/
def windowAccess (g off len : Nat) (write : Bool) (data : List Byte) (poison : Bool) (s : State) : State :=
  if partState s (corePart g) = 2 then s
  else if partState s (corePart g) = 4 then
    if write then badAccess 1 (0x10000000000 + g * 2 ^ 25 + off) s
    else emit (.memData (leBytes len (freshVal s)) true) (freshNext s)
  else if write then windowWrite g off data poison s
  else
    let r := windowRead g off len s
    emit (.memData r.1.1 r.1.2) r.2

/-- Go on with the core and the offset of a place in a debug window (R49). -/
def inDebug (r : Region) (f : Nat → Nat → State) (s : State) : State :=
  match r with
  | .window g off => f g off
  | _ => s

/-- DEBUG_WINDOW_ACCESS (R49, R214). -/
def execDebugWindowAccess (dpa len : Nat) (write : Bool) (data : List Byte) (poison : Bool) (s : State) : Result :=
  .next (inDebug (regionOf s.variant dpa) (fun g off => windowAccess g off len write data poison s) s)

end Sys2Proof.Machine
end

