-- ==== Sys2Proof/Machine/HostMem.lean ====
section
/-!
DEFINITION. Host links and host memory accesses (R48, R369, R381, R419-R421, R438, R439, R441, R444, R455, R466, R479, R510): link
state, HDM decoders, CXL.mem, the memory BAR, and the snoop filter.
-/

namespace Sys2Proof.Machine

/-- LINK_STATE (R426): 0 DOWN, 1 TRAINING, 2 UP with PCIe only, 3 UP with CXL. -/
def linkState (s : State) (l : Nat) : Nat := rdi s pgHif .hifLinkState l

/-- A link changes state; IRQ_STAT.LINK is set (R426). -/
def putLink (l st width : Nat) (s : State) : State :=
  if linkState s l = st then s else raise pgHif 16 (wri pgHif .hifLinkState l st (wri pgHif .hifLinkWidth l width s))

/-- BOOT_STAGE (R523). -/
def bootStage (s : State) : Nat := rd s 0x2038 .mgtBootStage

/-- The host PHY is enabled (R509, R510). -/
def phyOn (s : State) : Bool := 5 ≤ bootStage s && bootStage s ≤ 10

/-- PERST_DEASSERT (R510): the link trains now, or when the PHY is enabled. -/
def execPerstDeassert (link : Nat) (s : State) : Result :=
  let s := if s.perst.contains link then s else { s with perst := s.perst ++ [link] }
  .next (if phyOn s && linkState s link = 0 then putLink link 1 0 s else s)

/-- LINK_UP (R419, R420): a training link comes up, as CXL or as PCIe only; the width is encoded as log2 + 1. -/
def execLinkUp (link : Nat) (cxl : Bool) (width : Nat) (s : State) : Result :=
  .next (if linkState s link = 1 then putLink link (if cxl then 3 else 2) width s else s)

/-- Writes without GO of a session whose link now needs none (R431). -/
def settleSent (x : Nat) : Nat → State → State
  | 0, s => s
  | n + 1, s => match execGo x s with
    | .next t => settleSent x n t
    | _ => s

/-- LINK_DOWN (R421): the device goes on with the other link. -/
def execLinkDown (link : Nat) (s : State) : Result :=
  if linkState s link = 0 then .next s
  else
    let s := putLink link 0 0 { s with hdm := SMap.set (fun _ => none) s.hdm link none }
    .next (s.sess.foldl (fun t e => if sessPosted t e.1 then settleSent e.1 (e.2.sent.length) t else t) s)

/-- The HDM decoder of a link. -/
def hdmAt (s : State) (l : Nat) : Option Hdm := SMap.get (fun _ => none) s.hdm l

/-- HDM_COMMIT (R419, R421): a decoder that the link offers and that agrees with the other one decodes; another one does not. -/
def execHdmCommit (link base size ways gran : Nat) (s : State) : Result :=
  let h : Hdm := { base := base, size := size, ways := ways, gran := gran }
  let legal := linkState s link = 3 && (ways = 1 || ways = 2) && 256 ≤ gran && gran ≤ 16384 && gran = 2 ^ Nat.log2 gran
  let ok := legal && ((hdmAt s (1 - link)).map fun o => o == h).getD true
  let t := { s with hdm := SMap.set (fun _ => none) s.hdm link (if ok then some h else none) }
  .next (if ok then t else emit (.commitError link) t)

/-- A test mode serves the memory BAR's accesses of the column and holds only the others back (R381). -/
def testServes (s : State) (bar : Bool) (c : Nat) : Bool :=
  bar && testHolds s (chanKey c) && (chanAt s (chanKey c)).st = .normal && !(chanAt s (chanKey c)).recal && !gangHolds s (bankKey c)

/-- A host access of `n` bytes goes at once as far as the column is concerned. -/
def hostNow (s : State) (bar write : Bool) (n c : Nat) : Bool :=
  testServes s bar c || (if write then writeNow s (spinePortAt s (stackOfCol c)) c else readNow s (spinePortAt s (stackOfCol c)) n c)

/-- What a host access to DRAM meets first: it goes at once, or enters its channels' queues, or is held outside the controllers. -/
inductive HostGate where
  | go
  | queue
  | held
  | gone
  | snoop (lines : List Nat)
deriving DecidableEq, Repr

/-- The gate of a host access to a span of DRAM (R381, R439, R455, R466); `bar` for the memory BAR. -/
def hostGate (s : State) (bar : Bool) (a n : Nat) (write : Bool) : HostGate :=
  let parts := (stackPieces s.variant 3 a n).map fun p => partOfStack (p.1 / 2 ^ stackBits s.variant)
  if parts.any fun n => partState s n = 4 then .gone
  else if parts.any (partBusy s) then .held
  else
    let held := if bar then (linesOf a n).filter s.snoop.contains else []
    if !held.isEmpty then .snoop held
    else if (colsOf s a n).all fun e => hostNow s bar write n e.1 then .go else .queue

/-- TEST_MODE in force for a column, 0 for none (R381). -/
def colMode (s : State) (c : Nat) : Nat :=
  if testHolds s (chanKey c) then rdi s 0x2028 .fltTestMode (mcPageOf c) else 0

/-- A memory BAR read of one column, with the test mode in force (R381). -/
def hostReadCol (c : Nat) (s : State) : (List Byte × Bool) × State :=
  let s := charge (stackOfCol c) (spinePortAt s (stackOfCol c)) 32 s
  if colMode s c = 3 then
    let p := mcPageOf c
    ((colBytes s c, false),
      wri 0x2028 .fltRawChk p (colSeg s c) (wri 0x2028 .fltRawSyn p (colDecode (colBytes s c) (colSeg s c)).syn s))
  else readCol c s

/-- Store a check segment of a column, none where it is the valid sealed one. -/
def putColSeg (c seg : Nat) (s : State) : State :=
  putDramChk c (if seg = segOf (colBytes s c) segSealed then none else some seg) s

/-- A host write to one column, with the test mode in force (R381). -/
def hostWriteCol (w : WrReq) (s : State) : State :=
  let c := w.col
  match colMode s c with
  | 0 => writeCol w s
  | 1 =>
    if isSideCol s c then sideWrite c s
    else if w.full then
      let seg := colSeg s c
      putColSeg c seg (putColData c (w.over []) (dropRowSets c s))
    else s
  | 2 => if isSideCol s c then sideWrite c s else putColSeg c (rdi s 0x2028 .fltTestChk (mcPageOf c)) (dropRowSets c s)
  | _ => if isSideCol s c then sideWrite c s else applyWrite w s

/-- The bytes and the poison indication of a host read of DRAM. -/
def hostRead (a n : Nat) (s : State) : (List Byte × Bool) × State :=
  let r := readCols hostReadCol (colsOf s a n) (noteIdle (colsOf s a n) s)
  ((((r.1.flatMap Prod.fst).drop (a % 32)).take n, r.1.any Prod.snd), r.2)

/-- A host write of DRAM. -/
def hostStore (a : Nat) (data : List Byte) (poison : Bool) (s : State) : State :=
  (colsOf s a data.length).foldl (fun t e =>
    hostWriteCol { col := e.1, port := spinePortAt t (stackOfCol e.1), data := colPart a e.2 data, poison := poison,
                    mate := isMate a e } t) s

/-- A host read whose columns are not all served enters the read queues, one request a 64-byte line; each is answered when it is served
(R335, R349, log entry 83). -/
def queueRead (a n : Nat) (s : State) : State :=
  (linesOf a n).foldl (fun t l =>
    let lo := max a (64 * l)
    readRequest lo (min (a + n) (64 * l + 64) - lo) (spinePortAt t (stackOfCol (locate t lo))) t) s

/-- A host write whose columns do not all go at once: one request a 64-byte line, accepted where it finds room (R335, R349). -/
def queueStore (a : Nat) (data : List Byte) (poison : Bool) (s : State) : State :=
  (linesOf a data.length).foldl (fun t l =>
    let lo := max a (64 * l)
    writeRequest lo ((data.drop (lo - a)).take (64 * l + 64 - lo)) (spinePortAt t (stackOfCol (locate t lo))) poison t) s

/-- A read that answers with data poison, nothing being known of its bytes (R444, R455, R479). -/
def poisonedAnswer (n : Nat) (s : State) : State := emit (.memData (leBytes n (freshVal s)) true) (freshNext s)

/-- MEMBAR_READ of DRAM (R369, R438, R439, R444, R455). -/
def dramLoad (a n : Nat) (s : State) : State :=
  match hostGate s true a n false with
  | .gone => poisonedAnswer n s
  | .queue => queueRead a n s
  | .held => s
  | .snoop ls => snoopLines ls s
  | .go =>
    let r := hostRead a n s
    emit (.memData r.1.1 r.1.2) r.2

/-- MEMBAR_WRITE of DRAM. -/
def dramStore (a : Nat) (data : List Byte) (poison : Bool) (s : State) : State :=
  match hostGate s true a data.length true with
  | .gone => badAccess 1 a s
  | .queue => queueStore a data poison s
  | .held => s
  | .snoop ls => snoopLines ls s
  | .go => hostStore a data poison s

/-- A host read of memory, by the region it falls into (R48-R50). -/
def memLoad (r : Region) (dpa len : Nat) (s : State) : State :=
  match r with
  | .dram => if inDram s.variant dpa len then dramLoad dpa len s else emit .unsupported s
  | .window g off => windowAccess g off len false [] false s
  | .harness _ _ _ => harnessLoad dpa len s
  | .loaderBuffer | .reserved => emit .unsupported s

/-- MEMBAR_READ (R48-R50, R438, R444, R479). -/
def execMembarRead (dpa len : Nat) (s : State) : Result :=
  .next (if pstate s = 3 then emit .unsupported s else memLoad (regionOf s.variant dpa) dpa len s)

/-- A host write of memory, by the region it falls into (R48-R50). -/
def memStore (r : Region) (dpa : Nat) (data : List Byte) (poison : Bool) (s : State) : State :=
  match r with
  | .dram => if inDram s.variant dpa data.length then dramStore dpa data poison s else badAccess 2 dpa s
  | .window g off => windowAccess g off data.length true data poison s
  | .harness _ _ _ => harnessStore dpa data s
  | .loaderBuffer | .reserved => badAccess 2 dpa s

/-- MEMBAR_WRITE (R48-R50, R369, R438, R444, R479). -/
def execMembarWrite (dpa : Nat) (data : List Byte) (poison : Bool) (s : State) : Result :=
  .next (if pstate s = 3 then badAccess 1 dpa s else memStore (regionOf s.variant dpa) dpa data poison s)

/-- The link's decoder takes the line (R421). -/
def hdmDecodes (s : State) (link line : Nat) : Bool :=
  linkState s link = 3 && (hdmAt s link).any fun h => decide (64 * line + 64 ≤ h.size)

/-- The link's decoder reaches the line, which lies in host-visible DRAM (R48, R421). -/
def hdmReaches (s : State) (link line : Nat) : Bool := hdmDecodes s link line && inDram s.variant (64 * line) 64

/-- The snoop filter notes that the host holds the line (R439). -/
def snoopAdd (line : Nat) (s : State) : State := if s.snoop.contains line then s else { s with snoop := s.snoop ++ [line] }

/-- The filter has no entry for one more line: its oldest is asked back first (R439). -/
def snoopFull (s : State) (line : Nat) : Bool := !s.snoop.contains line && 2 ^ 24 ≤ s.snoop.length

/-- CXL_MEM_READ (R48, R369, R439, R444, R455, R479) of the 64-byte line that holds `dpa`. -/
def execCxlMemRead (link dpa : Nat) (keeps : Bool) (s : State) : Result :=
  let line := dpa / 64
  if !hdmDecodes s link line then .next s
  else if !hdmReaches s link line then .next (emit .unsupported s)
  else if pstate s = 3 then .next (poisonedAnswer 64 s)
  else if keeps && snoopFull s line then .next (snoopLines (s.snoop.take 1) s)
  else match hostGate s false (64 * line) 64 false with
    | .gone => .next (poisonedAnswer 64 s)
    | .queue => .next (queueRead (64 * line) 64 (if keeps then snoopAdd line s else s))
    | .held => .next s
    | .snoop ls => .next (snoopLines ls s)
    | .go =>
      let r := hostRead (64 * line) 64 (if keeps then snoopAdd line s else s)
      .next (emit (.memData r.1.1 r.1.2) r.2)

/-- CXL_MEM_WRITE (R24, R48, R369, R439, R444, R455, R479) of a whole 64-byte line. -/
def execCxlMemWrite (link dpa : Nat) (data : List Byte) (poison keeps : Bool) (s : State) : Result :=
  let line := dpa / 64
  let a := 64 * line
  if !hdmDecodes s link line then .next s
  else if !hdmReaches s link line then .next (badAccess 2 a s)
  else if pstate s = 3 then .next (badAccess 1 a s)
  else match hostGate s false a 64 true with
    | .gone => .next (badAccess 1 a s)
    | .held => .next s
    | .snoop ls => .next (snoopLines ls s)
    | .go | .queue =>
      let s := if hostGate s false a 64 true = .go then hostStore a (slice data 0 64) poison s else queueStore a (slice data 0 64) poison s
      .next (if keeps then snoopAdd line s
        else if s.biWait.contains line then s else { s with snoop := s.snoop.filter (· != line) })

/-- BACK_INVALIDATE_DONE (R439): the host holds the line no more. -/
def execBackInvalidateDone (line : Nat) (s : State) : Result :=
  .next (if s.biWait.contains line then
      { s with snoop := s.snoop.filter (· != line), biWait := s.biWait.filter (· != line) }
    else s)

/-- CXL_SNOOP (R419): no line is held. -/
def execCxlSnoop (link : Nat) (s : State) : Result := .next (if linkState s link = 3 then emit .rspI s else s)

end Sys2Proof.Machine
end

