-- ==== Sys2Proof/Machine/Recovery.lean ====
section
/-!
DEFINITION. What a partition loses and keeps when it resets (R150, R168, R451-R454, R457-R460), its way out of service (R465,
R466), a device reset and a loss of power (R467, R483, R510).
-/

namespace Sys2Proof.Machine

/-- A partition's core numbers. -/
def coresOf (n : Nat) : List Nat := (List.range 40).map (40 * n + ·)

/-- A partition's context and journal numbers (R457). -/
def ctxsOf (n : Nat) : List Nat := (List.range 160).map (160 * n + ·)

/-- A partition's channels. -/
def chansOf (n : Nat) : List Nat := (List.range 96).map (96 * n + ·)

/-- Change PART_STATE (R450). -/
def putPartState (n v : Nat) (s : State) : State := wri pgFlt .fltPartState n v s

/-- The recovery in progress of a partition. -/
def recovAt (s : State) (n : Nat) : Option Recov := SMap.get (fun _ => none) s.recov n

/-- Store or end a recovery. -/
def putRecov (n : Nat) (r : Option Recov) (s : State) : State := { s with recov := SMap.set (fun _ => none) s.recov n r }

/-- A row list writes a row that one of its entries reads (R460). -/
def listInPlace (list : List Nat) : Bool :=
  let es := list.filterMap rowEntry
  es.any fun e => e.op != 8 && es.any fun o => o.srcs.contains e.d

/-- A started descriptor of the context has overwritten its own input (R460, reason 3). -/
def inPlace (s : State) (g c q : Nat) (x : Ctx) (w : Work) : Bool :=
  let img := ctxImage s g c
  if q = qVx then
    let sp := vxSpans img w.img x
    (w.wrote || w.stat.isSome) &&
      sp.any fun a => a.kind.writes && sp.any fun b => !b.kind.writes && b.lo = a.lo && b.hi = a.hi
  else if q = qBk && dType w.img = 0x90 then
    let b := bkBody img w.img
    let list := (chunks 8 b.n1 (spadBytes s g (spAddr x b.reg + b.regOff) (8 * b.n1))).map leNat
    (w.stat.isSome || s.flights.any fun f => f.isOf g c w.k && !f.commanded.isEmpty) && listInPlace list
  else false

/-- The first reason of R460 that an interrupted context's started descriptors give, 0 for none. -/
def replayReason (s : State) (g c : Nat) (x : Ctx) : Nat :=
  let all := (List.range 8).flatMap fun q => (x.q q).live.map fun w => (q, w)
  if all.any fun e => e.2.rdRel then 2
  else if all.any fun e => inPlace s g c e.1 x e.2 then 3
  else if all.any fun e => e.2.added then 4
  else 0

/-- A queue after an interruption: its first descriptor not completed comes next (R458). -/
def QState.resume (q : QState) : QState :=
  { loaded := match q.live, q.idle with
      | w :: _, _ => w.k - 1
      | [], some d => d.k - 1
      | [], none => q.loaded }

/-- Completion slots that a context's started descriptors hold, as (queue, descriptor). -/
def heldSlots (x : Ctx) : List (Nat × Nat) :=
  x.slots ++ (List.range 8).flatMap fun q => ((x.q q).live.filter (·.slotHeld)).map fun w => (q, w.k)

/-- Give the context's carried completion slots back. -/
def dropSlots (id : Nat) (s : State) : State :=
  let x := ctxAt s id
  let sess := ((runAt s x.run).getD {}).sess
  x.slots.foldl (fun t _ => cqUnreserve sess t) (putCtx id { x with slots := [] } s)

/-- A context's journal ends (R457, R460). -/
def dropJournal (id : Nat) (s : State) : State :=
  let s := dropSlots id s
  putCtx id { ctxAt s id with journal := 0, noReplay := 0, intr := none } s

/-- The end of FENCING for one context (R450, R457): what it has started is interrupted, and its journal awaits replay; a HALTED
context keeps none. -/
def interruptCtx (id : Nat) (s : State) : State :=
  let x := ctxAt s id
  let qs := x.qs.map QState.resume
  match x.st with
  | .free => s
  | .halted => dropJournal id (putCtx id { x with qs := qs, slots := heldSlots x } s)
  | .running | .binding =>
    let new := (List.range 8).findSome? fun q => (x.q q).live.head?.map fun w => (q, absWb x q w.k)
    let why := if x.noReplay = 0 then replayReason s (id / 4) (id % 4) x else x.noReplay
    putCtx id { x with qs := qs, slots := heldSlots x, journal := 2, noReplay := why, intr := new.orElse fun _ => x.intr
                       bars := x.bars.map fun b => { b with arrived := [] }, regionBase := [], leaves2 := [], leaves1 := [] } s

/-- An arrival of a context at a device barrier that is not complete is withdrawn (R150). One that its descriptor has completed is made
again on replay (R458); any other counts as not applied (R459). -/
def withdraw (id : Nat) (a : SplitGen) (s : State) : State :=
  let b := barAt s 4 a.idx
  if !a.device || a.done || a.withdrawn || b.gen != a.gen then s
  else
    let x := ctxAt s id
    let s := putBar 4 a.idx { b with count := b.count - 1, arr := b.arr.erase (some (id, absWb x qSy a.k)) } s
    let s := ledger (seraiPage 4) 0x84 (seraiDetail a.idx 2 id qSy (absWb x qSy a.k) 0 0) s
    if a.k ≤ (x.q qSy).loaded then
      putCtx id { x with gens := x.gens.map fun (g : SplitGen) => if g.k = a.k then { g with withdrawn := true } else g } s
    else putCtx id { x with gens := x.gens.filter fun (g : SplitGen) => g.k != a.k, sy := x.sy.filter fun e => e.1 != a.k } s

/-- An arrival whose run has ended before the barrier's generation completes is withdrawn (R150). -/
def withdrawEnded (n i : Nat) (s : State) : State :=
  (barAt s 4 i).arr.foldl (fun t a =>
    match a with
    | some (id, wb) =>
      if id / 160 != n then t
      else
        let b := barAt t 4 i
        ledger (seraiPage 4) 0x84 (seraiDetail i 2 id qSy wb 0 0) (putBar 4 i { b with count := b.count - 1, arr := b.arr.erase a } t)
    | none => t) s

/-- Every arrival of a context that R150 withdraws. -/
def withdrawAll (id : Nat) (s : State) : State := (ctxAt s id).gens.foldl (fun t a => withdraw id a t) s

/-- Write one accepted entry into the array. -/
def landWrite (w : WrReq) (s : State) : State :=
  if w.scrub then sealCol w.col (w.over []) s else applyWrite w s

/-- A channel on entry to RESETTING (R350, R451): its POISON marks, then its accepted writes reach the array, a merge that meets an
uncorrectable column after that column's mark; reads and unaccepted requests of its own ports go, those of others wait;
refresh is caught up; training starts. Repairs that wait and the scrubber's place stay. -/
def stopChannel (ck : Nat) (s : State) : State :=
  let s := payOwed ck s
  let ch := chanAt s ck
  let reads := ch.rdq.filter fun r => !ownPort s ck r.port && !r.scrub
  let late := ch.late.filter fun r => !ownPort s ck r.port
  let st : ChState := if ch.st = .failed then .failed else .training
  let s := ch.wrq.foldl (fun t w => landWrite w t) (putChan ck { ch with st := st, wrq := [] } s)
  let s := payOwed ck s
  let again := (chanAt s ck).wrq
  let s := again.foldl (fun t w => landWrite w t) (putChan ck { chanAt s ck with wrq := [] } s)
  putChan ck { st := st, rc := min ch.rc 0, rdq := reads, stamp := ch.stamp, late := late, repairs := ch.repairs, scrub := ch.scrub, recalTemp := ch.recalTemp } s

/-- A core on entry to RESETTING (R366, R451): its narrow buffers are written back and its pending marks written; then its scoreboard
is clear. -/
def stopCore (g : Nat) (s : State) : State :=
  if (s.spads.any fun e => e.1 = g) then
    let s := allBufsBack g s
    putSpad g {} ((spadAt s g).marks.foldl (fun t w => poisonWord g w t) s)
  else s

/-- The slots of a partition's cores that run or drain are READY again (R451). -/
def slotsReady (n : Nat) (s : State) : State :=
  forUpto 80 (fun i t =>
    let x := pmAt t (80 * n + i)
    if x.st = .active || x.st = .draining then putPm (80 * n + i) { x with st := .ready } t else t) s

/-- Requests of a partition's own descriptors to peers are forgotten (R413). -/
def forgetRequests (n : Nat) (s : State) : State :=
  forUpto 32 (fun p t =>
    let x := portAt t p
    if x.out.any fun r => corePart r.core = n then putPort p { x with out := x.out.filter fun r => corePart r.core != n } t else t) s

/-- The partition stops (R450, R451, R455): everything in it is interrupted, its accepted writes reach the array, and its logic is reset.
Its Serai's values are those of the mirror (R459); held signals are orphaned. -/
def stopPartition (n : Nat) (s : State) : State :=
  let s := (ctxsOf n).foldl (fun t id => interruptCtx id t) s
  let s := (ctxsOf n).foldl (fun t id => withdrawAll id t) s
  let s := (seraiAt s 4).bars.foldl (fun t e => withdrawEnded n e.1 t) s
  let s := (chansOf n).foldl (fun t ck => abortChannel 2 ck t) s
  let s := s.units.foldl (fun t e => if e.1 / 3072 = n then payUnitMarks e.1 t else t) s
  let s := { s with units := s.units.filter fun e => e.1 / 3072 != n, flights := s.flights.filter fun f => corePart f.core != n }
  let s := (chansOf n).foldl (fun t ck => stopChannel ck t) s
  let s := (coresOf n).foldl (fun t g => stopCore g t) s
  let s := slotsReady n (interruptLoadOn n s)
  let s := orphanHeld n (fun _ => true) (droverReset n (forgetRequests n s))
  floorCheck { s with engines := s.engines.filter fun e => e.1 / 320 != n
                      servedBytes := s.servedBytes.filter fun e => e.1 / 192 != n }

/-- A read-only field that a partition reset keeps: it shows a value that the reset does not touch, of the unit's configuration set, its
milestones, a segment command, the refresh rate, and the ports, optics and bulk stacks, which are not reset (R312, R322, R413,
R445). -/
def resetKeeps (u : UnitId) (f : Fld) : Bool :=
  f.row.set || [Fld.hdrLocked, .hdrActiveBank, .hdrPrevValid, .hdrStaged, .hdrActiveGen, .hdrMsState, .drvSegGo, .mcsRef2x].contains f ||
    match f.row.acc with
    | .rw | .rwl => true
    | .ro => (u.block = .evl || u.block = .opt || u.block = .blk) && !headerFlds.contains f
    | _ => false

/-- The register with this key keeps its value over a reset of partition `n` (R451). -/
def keyKept (n k : Nat) : Bool :=
  let p := k / 16384 / 1024
  p / 0x800 != n ||
    match unitAt p with
    | none => true
    | some u => ((unitFlds u).find? fun f => f.ctorIdx = k / 16384 % 1024).any (resetKeeps u)

/-- Status fields, counters, IRQ_STAT and ERRLOG of a partition's units return to their reset values (R451). -/
def resetFields (n : Nat) (s : State) : State := { s with regs := s.regs.filter fun e => keyKept n e.1 }

/-- A context that is not replayed is counted and recorded (R447, R448, R460). -/
def noteNotReplayed (id reason : Nat) (s : State) : State :=
  let r := (runAt s (ctxAt s id).run).getD {}
  raise pgFlt 21 (ledger pgFlt 0x82 (id + reason * 2 ^ 12 + r.sess * 2 ^ 16 + r.tag * 2 ^ 32) (count pgFlt .fltNotReplayed 1 s))

/-- The run of a context that is not replayed ends (R460, R461): no context of it runs on, and it completes when what its others have
started has. -/
def endNotReplayed (id reason : Nat) (s : State) : State :=
  let x := ctxAt s id
  match runAt s x.run with
  | none => dropJournal id s
  | some r =>
    let code := if reason = 5 then 0x29 else 0x28
    let i := x.intr.getD (0, 0)
    let f : FirstFault := { ctx := id % 4, q := i.1, wb := i.2 }
    let s := if r.notReplay.isSome then s else putRun x.run (some { r with notReplay := some (code + reason * 2 ^ 12), first := some f }) s
    let s := (runCtxs s x.run r).foldl (fun t c =>
      let t := haltCtx (c / 4) (c % 4) t
      if (ctxAt t c).journal = 2 then dropJournal c t else t) s
    runComplete x.run s

/-- Contexts of a partition that await replay. -/
def awaiting (s : State) (n : Nat) : List Nat := (ctxsOf n).filter fun id => (ctxAt s id).journal = 2 && (ctxAt s id).st != .free

/-- DEV_SERVICE follows the partitions out of service (R466). -/
def serviceLevel (s : State) : State :=
  let out := ((List.range 4).filter fun n => partState s n = 4).length
  let v := min out 2
  if rd s pgFlt .fltDevService = v then s else raise pgFlt 19 (wr pgFlt .fltDevService v s)

/-- RESET_GO bit `n` reads `v`. -/
def putResetGo (n v : Nat) (s : State) : State := wr pgFlt .fltResetGo (setBits (rd s pgFlt .fltResetGo) n n v) s

/-- CTRL operations that wait for a partition skip it (R15, R16). -/
def skipInOps (n : Nat) (s : State) : State :=
  { s with ops := s.ops.map fun o =>
      if o.waiting.contains n || o.resets.contains n then
        { o with waiting := o.waiting.filter (· != n), resets := o.resets.filter (· != n), worst := max o.worst 1
                 skipped := o.skipped ||| 2 ^ n }
      else o }

/-- The channels of a partition that trained take requests again (R350, R454): refresh resumes at RC = 0 (R342). -/
def channelsUp (n : Nat) (s : State) : State :=
  (chansOf n).foldl (fun t ck =>
    let ch := chanAt t ck
    if ch.st = .failed then t else putChan ck { ch with st := .normal, rc := 0 } t) s

/-- Every channel of a partition serves what it holds. -/
def serveChannels (n : Nat) (s : State) : State := (chansOf n).foldl (fun t ck => serveChan ck t) s

/-- Requests held at a channel end when its partition goes out of service (R455): a host read answers with data poison, a host write is
discarded and logged. -/
def endHeld (ck : Nat) (s : State) : State :=
  let ch := chanAt s ck
  let host := spinePortAt s (ck / 32)
  let s := putChan ck { ch with rdq := [], late := [] } s
  let s := ch.rdq.foldl (fun t r => if r.port = host then poisonedAnswer r.len t else t) s
  ch.late.foldl (fun t r => if r.port != host then t else if r.data.isSome then badAccess 1 r.dpa t else poisonedAnswer r.len t) s

/-- The stopped partition goes out of service (R465, R466): its journals end under reason 5; `cause` is that of R448 and R512. -/
def goOos (n cause : Nat) (s : State) : State :=
  let s := putResetGo n 0 (putRecov n none (putPartState n 4 s))
  let s := serviceLevel (ledger pgFlt 0x83 (n + cause * 4) (raise pgFlt 18 s))
  let ids := awaiting s n
  let s := ids.foldl (fun t id => noteNotReplayed id 5 t) s
  let s := ids.foldl (fun t id => if (ctxAt t id).journal = 2 then endNotReplayed id 5 t else t) s
  skipInOps n ((chansOf n).foldl (fun t ck => endHeld ck t) (channelsUp n (interruptLoadOn n s)))

/-- The host takes a partition out of service (R465), cause 2: it is reset as R451 resets it. -/
def hostOos (n : Nat) (s : State) : State := if partState s n = 4 then s else goOos n 2 (resetFields n (stopPartition n s))

/-- Fields that a device reset keeps: fuses and nonvolatile records, what the bays hold, and the reference clocks (R312, R467, R468, R476,
R513, R519, R520). -/
def deviceKeeps : List Fld :=
  [.secLcState, .secDbgLevel, .blkPeAvg, .blkPeMax, .blkLifeUsed, .blkDiesRetired, .blkHostBytes, .blkMediaBytes, .mgtFwBank
   , .mgtFwRun, .mgtFwVerA, .mgtFwVerB, .mgtFwFallback, .bayPresent, .bayLatchClosed, .bayHours, .bayCartId, .bayCaseC, .clkRefOk]

/-- What a device reset leaves of a drover: its segments and catalog (R312, R483). -/
def Drover.kept (d : Drover) : Drover := { segs := d.segs, catalog := d.catalog, nextPage := d.nextPage }

/-- BOOT_STAGE reads `v` (R523). -/
def putStage (v : Nat) (s : State) : State := wr pgMgt .mgtBootStage v s

/-- Component `c` runs the bank that FW_BANK names (R513). -/
def fwRunNew (c : Nat) (s : State) : State :=
  wr pgMgt .mgtFwRun (setBits (rd s pgMgt .mgtFwRun) c c (bit (rd s pgMgt .mgtFwBank) c)) s

/-- Contents of DRAM and scratchpads are undefined from here on (R467). -/
def memoryLost (s : State) : State :=
  { s with dram := [], dramChk := [], spad := [], spadChk := [], spadGen := s.spadGen + 1
           memGens := SMap.set (fun _ => 0) s.memGens 384 (SMap.get (fun _ => 0) s.memGens 384 + 1) }

/-- A device reset (R467): everything returns to reset but what outlives it. Bring-up then runs from the point of R509. -/
def deviceReset (s : State) : State :=
  let kept := deviceKeeps.map Fld.ctorIdx
  let t : State :=
    { State.reset with
      pending := s.pending, outbox := s.outbox, freeCtr := s.freeCtr, variant := s.variant
      regs := s.regs.filter fun e => kept.contains (e.1 / 16384 % 1024)
      memGens := s.memGens, spadGen := s.spadGen
      keys := s.keys, psks := s.psks, spdm := s.spdm, pskFails := s.pskFails, pskLocked := s.pskLocked, setCount := s.setCount
      zeroDue := s.zeroDue, remaps := s.remaps, repairLog := s.repairLog, dies := s.dies, retQueue := s.retQueue
      drovers := s.drovers.mapv {} fun _ d => d.kept
      update := s.update, perst := s.perst }
  let t := wr 0x2030 .secDbgLevel (if rd s 0x2030 .secLcState = 2 then 2 else 0) (memoryLost t)
  putStage 2 (fwRunNew 1 t)

/-- The module loses its supply (R504, R510): besides a device reset, SPDM sessions, an update in progress and remaps that the log does
not hold are gone. A component written but not verified stays unusable. -/
def powerLoss (s : State) : State :=
  let s := deviceReset s
  putStage 0 { s with spdm := [], pskFails := [], pskLocked := [], update := none, remaps := [] }

end Sys2Proof.Machine
end

