-- ==== Sys2Proof/Machine/Control.lean ====
section
/-!
DEFINITION. The common unit operations of CTRL (R13-R16, R34, R35, R449, R462): SYNC, FENCE, UNFENCE and RESET, on a unit or on a group.
-/

namespace Sys2Proof.Machine

/-- Started descriptors of a core on some of its queues, each named by its queue, run and place. -/
def descWork (s : State) (g : Nat) (qs : List Nat) : List (Nat × Nat × Nat) :=
  (List.range 4).flatMap fun c =>
    let x := ctxAt s (ctxId g c)
    qs.flatMap fun q => (x.q q).live.map fun w => (8 * ctxId g c + q, x.run, w.k)

/-- Requests that a controller has accepted and not served. -/
def queueWork (s : State) (ck : Nat) : List (Nat × Nat × Nat) :=
  let ch := chanAt s ck
  (ch.rdq.map fun r => (2 ^ 20 + ck, (r.cols.headD (0, 0)).1, r.len)) ++ ch.wrq.map fun w => (2 ^ 21 + ck, w.col, 0)

/-- Sequences of a channel that have not drained. -/
def seqWork (s : State) (ck : Nat) : List (Nat × Nat × Nat) :=
  (chanAt s ck).seqs.map fun q => (2 ^ 22 + ck, if q.host then 2 ^ 20 + q.banks.headD 0 else ctxId q.core q.ctx, q.k)

/-- Work in flight in a drover. -/
def droverWork (s : State) (n : Nat) : List (Nat × Nat × Nat) :=
  let d := droverAt s n
  (d.reads.map fun r => (2 ^ 23 + n, r.seg, r.page)) ++ (d.works.map fun w => (2 ^ 24 + n, ctxId w.core w.ctx, w.k))
    ++ d.cmd.toList.map fun c => (2 ^ 25 + n, c.1, c.2)

/-- The work that a unit has accepted and not completed. -/
def unitWork (s : State) (u : UnitId) : List (Nat × Nat × Nat) :=
  match u with
  | .mx n m j => descWork s (coreNo n m j) [0]
  | .vx n m j => descWork s (coreNo n m j) [1]
  | .tm n m j => descWork s (coreNo n m j) [2, 3, 4]
  | .bc n m j => descWork s (coreNo n m j) [5]
  | .cc n m j => descWork s (coreNo n m j) [6, 7]
  | .mc n k => (List.range 32).flatMap fun c => queueWork s (ckOf (3 * n + k) c)
  | .bu n k => (List.range 32).flatMap fun c => seqWork s (ckOf (3 * n + k) c)
  | .dr n => droverWork s n
  | .hif =>
    (s.sess.flatMap fun e => (e.2.fetched.toList.map fun _ => (2 ^ 27 + e.1, rdi s pgHif .hifSqHead e.1, 0)) ++ e.2.fences.map fun f => (2 ^ 28 + e.1, f, 0))
      ++ (s.loadQ.map fun c => (2 ^ 29, c.sess, c.tag)) ++ (s.loading.toList.map fun l => (2 ^ 29, l.cmd.sess, l.cmd.tag))
      ++ s.abortWaits.map fun a => (2 ^ 30, a.sess, a.tag)
  | .pt n e q => (portAt s (8 * n + 4 * e + q)).out.map fun r => (2 ^ 26 + 8 * n + 4 * e + q, r.tag, r.k)
  | _ => []

/-- The operation of that kind runs on the page. -/
def opRuns (s : State) (page : Nat) (kind : CtrlKind) : Bool := s.ops.any fun o => o.page = page && o.kind = kind

/-- Everything that an operation waits for is over (R13, R16, R34). -/
def opDone (s : State) (o : CtrlOp) : Bool :=
  o.waiting.isEmpty && o.resets.isEmpty && o.deps.all (fun p => !opRuns s p o.kind) &&
    (o.work.isEmpty ||
      let now := (((unitAt o.page).map UnitId.all).getD []).flatMap (unitWork s)
      o.work.all fun w => !now.contains w)

/-- An operation completes: RESULT, SKIPPED_PART and OP_DONE of the addressed unit (R13, R36, R37). RESET of `dev` is the device
reset, once no partition holds it (R16, R467). -/
def opFinish (o : CtrlOp) (s : State) : State :=
  if o.page = 0x2000 && o.kind = .reset then deviceReset s else
  let s := { s with ops := s.ops.filter fun x => !(x.page = o.page && x.kind = o.kind) }
  raise o.page 0 (wr o.page .hdrResult o.worst (if o.page = 0x2000 then wr o.page .hdrSkippedPart o.skipped s else s))

/-- An operation completes at once where it waits for nothing. -/
def opSettle (o : CtrlOp) (s : State) : State := if opDone s o then opFinish o s else s

/-- Replace the running operation of a page and kind. -/
def putOp (o : CtrlOp) (s : State) : State :=
  { s with ops := (s.ops.filter fun x => !(x.page = o.page && x.kind = o.kind)) ++ [o] }

/-- Fields that a reset of a unit smaller than a partition returns to reset values: those of R451 for a unit of a partition, counters
and the header's status for a unit of the spine; LOCKED (R38); not RESULT, which a member keeps (R13; log entry 14). -/
def unitResetFld (u : UnitId) (f : Fld) : Bool :=
  f != .hdrResult &&
    (f.row.acc = .rc || (u.partition.isSome && !resetKeeps u f) ||
      [Fld.hdrIrqStat, .hdrErrValid, .hdrErrOverflow, .hdrErrSeverity, .hdrErrCode, .hdrErrCount, .hdrErrEpoch
        , .hdrErrDetail, .hdrLocked, .hdrLockViolation, .hdrBadWrite, .hdrFenced].contains f)

/-- RESET of one unit below a partition, or of the spine's (R14, R34, R38; log entry 14). A member of the addressed group keeps its
OP_DONE (R13). A Serai's objects and held signals return to reset (R127). -/
def resetUnit (member : Bool) (u : UnitId) (s : State) : State :=
  let hit := ((unitFlds u).filter (unitResetFld u)).map Fld.ctorIdx
  let done := if member then bit (rd s u.page .hdrIrqStat) 0 else 0
  let s := { s with regs := s.regs.filter fun e => e.1 / 16384 / 1024 != u.page || !hit.contains (e.1 / 16384 % 1024) }
  let s := wr u.page .hdrIrqStat done s
  match u with
  | .psy n => putSerai n {} s
  | .dsy => putSerai 4 {} s
  | _ => s

/-- Set or clear FENCED on units. -/
def putFenced (v : Nat) (us : List UnitId) (s : State) : State := us.foldl (fun t u => wr u.page .hdrFenced v t) s

/-- A commanded reset of a partition in service starts (R462): its runs are aborted, its journals end, its locks clear. -/
def commandReset (n : Nat) (s : State) : State :=
  let s := stopPartition n s
  let rs := ((ctxsOf n).filterMap fun id => if (ctxAt s id).st = .free then none else some (ctxAt s id).run).eraseDups
  let s := rs.foldl (fun t r => abortRun r t) s
  let s := (ctxsOf n).foldl (fun t id => if (ctxAt t id).st = .free then t else dropJournal id t) s
  let s := rs.foldl (fun t r => runComplete r t) s
  let s := (UnitId.part n).all.foldl (fun t u => wr u.page .hdrLocked 0 t) s
  putPartState n 2 (putRecov n (some { commanded := true }) s)

/-- The units that the operation starts on: those below a member that already runs one of the kind join that one (R13). -/
def opFresh (us : List UnitId) (o : CtrlOp) : List UnitId :=
  us.filter fun u => !o.deps.any fun p => ((unitAt p).map UnitId.all).getD [] |>.contains u

/-- The operation reaches these units: what it does at once, and the started work it then waits for (log entry 14 for RESET). -/
def opApply (us : List UnitId) (o : CtrlOp) (s : State) : State :=
  let us := opFresh us o
  let o' := { o with work := o.work ++ us.flatMap (unitWork s) }
  match o.kind with
  | .sync => putOp o' s
  | .fence => putOp o' (putFenced 1 us s)
  | .unfence => putOp o (putFenced 0 us s)
  | .reset => putOp o' (us.foldl (fun t u => resetUnit (u.page != o.page) u t) s)

/-- The partition holds operations on its units: FENCING, RESETTING, or without power (R16, R45, R479). -/
def partHolds (s : State) (n : Nat) : Bool := partState s n != 4 && (partBusy s n || pstate s = 3)

/-- An operation reaches a partition whole: a RESET is a commanded reset (R462). -/
def opPartition (n : Nat) (o : CtrlOp) (s : State) : State :=
  if o.kind = .reset then commandReset n (putOp { o with resets := o.resets ++ [n] } s) else opApply (UnitId.part n).all o s

/-- An operation on a partition header. -/
def opOnPart (n : Nat) (o : CtrlOp) (s : State) : State :=
  if partHolds s n then putOp { o with waiting := [n] } s else opPartition n o s

/-- An operation on `dev` other than RESET (R13-R16). -/
def opOnDev (o : CtrlOp) (s : State) : State :=
  let out := (List.range 4).filter fun n => partState s n = 4
  let wait := (List.range 4).filter (partHolds s)
  let us := UnitId.dev.all.filter fun u => !(u.partition.any fun n => out.contains n || wait.contains n)
  opApply us { o with waiting := wait, worst := if out.isEmpty then 0 else 1, skipped := (out.map fun n => 2 ^ n).sum } s

/-- RESET of `dev` waits for each partition in FENCING or RESETTING to end its recovery (R16). -/
def opResetDev (o : CtrlOp) (s : State) : State := putOp { o with waiting := (List.range 4).filter (partBusy s) } s

/-- An operation starts on a unit (R13-R16, R34, R35). -/
def opStart (u : UnitId) (kind : CtrlKind) (s : State) : State :=
  if opRuns s u.page kind then s
  else
    let deps := ((u.all.drop 1).map UnitId.page).filter fun p => opRuns s p kind
    let o : CtrlOp := { page := u.page, kind := kind, deps := deps }
    if u.partition.any fun n => partState s n = 4 then opFinish { o with worst := 4 } s
    else
      let t := match u with
        | .dev => if kind = .reset then opResetDev { o with deps := [] } s else opOnDev o s
        | .part n => opOnPart n o s
        | _ => opApply u.all o s
      match t.ops.find? fun x => x.page = o.page && x.kind = o.kind with
      | some x => opSettle x t
      | none => t

/-- A write of CTRL (R35): `v` holds the bits written. -/
def ctrlWrite (u : UnitId) (v : Nat) (s : State) : State :=
  if (!unitReachable s u && !unitOos s u) || opRuns s u.page .reset then s
  else if bit v 3 = 1 then opStart u .reset s
  else if bit v 1 = 1 && bit v 2 = 1 then wr u.page .hdrResult 3 s
  else
    let s := if bit v 0 = 1 then opStart u .sync s else s
    let s := if bit v 1 = 1 then opStart u .fence s else s
    if bit v 2 = 1 then opStart u .unfence s else s

/-- A host write of one bit of a page's CTRL. -/
def ctrlBit (page b : Nat) (s : State) : State :=
  match unitOfPage page with
  | some (u, 0) => ctrlWrite u (2 ^ b) s
  | _ => s

/-- SYNC (R34). -/
def execSync (page : Nat) (s : State) : Result := .next (ctrlBit page 0 s)
/-- FENCE (R34, R449). -/
def execFence (page : Nat) (s : State) : Result := .next (ctrlBit page 1 s)
/-- UNFENCE (R34). -/
def execUnfence (page : Nat) (s : State) : Result := .next (ctrlBit page 2 s)
/-- RESET (R34, R462, R467). -/
def execReset (page : Nat) (s : State) : Result := .next (ctrlBit page 3 s)

/-- The operation kind that a number names. -/
def ctrlKindOf (k : Nat) : CtrlKind := match k with | 0 => .sync | 1 => .fence | 2 => .unfence | _ => .reset

/-- CTRL_OP_COMPLETE (R13, R34): a running operation whose work is over completes. -/
def execCtrlOpComplete (page kind : Nat) (s : State) : Result :=
  match s.ops.find? fun o => o.page = page && o.kind = ctrlKindOf kind with
  | some o => .next (opSettle o s)
  | none => .next s

/-- A partition takes operations again: those that waited for it reach it (R16). A RESET waits for the end of the recovery; `ended`
says that it has come. -/
def opsResume (n : Nat) (ended : Bool) (s : State) : State :=
  (s.ops.filter fun o => o.waiting.contains n && (ended || o.kind != .reset)).foldl (fun t o =>
    if partHolds t n then t
    else
      let o' := { o with waiting := o.waiting.filter (· != n) }
      if o.page = 0x2000 && o.kind = .reset then putOp o' t else opPartition n o' t) s

/-- A commanded reset of a partition is over for the operations that asked for it. -/
def opsReset (n : Nat) (s : State) : State := { s with ops := s.ops.map fun o => { o with resets := o.resets.filter (· != n) } }

end Sys2Proof.Machine
end

