-- ==== Sys2Proof/Machine/Fabric.lean ====
section
/-!
DEFINITION. The Elviasyn fabric (R382-R418): cartridges and feeds, port training and states, flits, transmit and receive,
the serving of remote requests, responses, signals, membership and epoch broadcasts.
-/

namespace Sys2Proof.Machine

/-- A measured quantity that the spec gives no value for: a fresh free value (log entry 3). -/
def measure (p : Nat) (f : Fld) (i : Nat) (s : State) : State := freshNext (wri p f i (freshVal s) s)

/-- The device's DEV_ID, per part (log entry 8). -/
def devId : Nat := Config.perPart 2 0 % 2 ^ 64

/-- The two bays of an engine (R20): FEED0 and FEED1. -/
def feedBays (e : Nat) : Nat × Nat :=
  match e with
  | 0 | 6 => (0, 1)
  | 1 | 7 => (2, 3)
  | 2 => (0, 2)
  | 3 => (1, 3)
  | 4 => (0, 3)
  | _ => (1, 2)

/-- Page of laser bay `b`. -/
def bayPage (b : Nat) : Nat := (UnitId.lb b).page

/-- CART_STATE (R385): 0 EMPTY, 1 WARMING, 2 LOCKING, 3 ACTIVE, 4 PREPARING, 5 SAFE, 6 FAULT. -/
def cartState (s : State) (b : Nat) : Nat := rd s (bayPage b) .bayCartState

/-- A feed of the engine is ACTIVE (R387). -/
def engineLit (s : State) (e : Nat) : Bool := cartState s (feedBays e).1 = 3 || cartState s (feedBays e).2 = 3

/-- The engine of a port. -/
def engineOf (p : Nat) : Nat := p / 4

/-- Change a port's state, with its interrupt and ledger record, which names the partner as the peer (R390, R418; log entry 92). -/
def setPortState (p st : Nat) (s : State) : State :=
  if portState s p = st then s
  else ledger (portPage p) 0x81 (rd s (portPage p) .evlPartnerAddr + st * 2 ^ 16 + p * 2 ^ 24) (raise (portPage p) 16 (wr (portPage p) .evlPortState st s))

/-- A member frame of types 0x30 to 0x33 (R395). The RTT probe of a HELLO is a free value. -/
def memberFrame (type dst : Nat) (bcast : Bool) (s : State) : List Byte :=
  hdrBytes { type := type, bcast := bcast, dst := dst, len := 1, src := selfAddr s }
    ++ leBytes 32 (devId + selfAddr s * 2 ^ 64 + (if type = 0x30 then freshVal s % 2 ^ 32 * 2 ^ 96 else 0))

/-- Queue a member frame on a port. -/
def sendMember (p type dst : Nat) (bcast : Bool) (s : State) : State :=
  let s' := sendFrame p 3 (memberFrame type dst bcast s) s
  if type = 0x30 then freshNext s' else s'

/-- A remote request ends with a status that is neither OK nor RETRY (R402): its descriptor ends FAULT REMOTE. -/
def reqFail (p : Nat) (r : RemoteReq) (status : Nat) (s : State) : State :=
  let x := portAt s p
  let s := putPort p { x with out := x.out.filter fun e => e.tag != r.tag && !(e.held && e.core = r.core && e.ctx = r.ctx && e.q = r.q && e.k = r.k) } s
  let s := remoteFail p status r.peer r.dva s
  match ((ctxAt s (ctxId r.core r.ctx)).q r.q).live.find? fun w => w.k = r.k && w.works with
  | none => s
  | some w =>
    let cx := ctxAt s (ctxId r.core r.ctx)
    let s := if dType w.img = 0x60 then undefineDest r.core r.ctx (tmBody (ctxImage s r.core r.ctx) w.img) cx 0x60 {} 0 [] s else s
    tmFault r.core r.ctx r.q r.k 0x0D 0 0 0 s

/-- Every outstanding request that `f` selects completes UNREACHABLE. -/
def failRequests (p : Nat) (f : RemoteReq → Bool) (s : State) : State :=
  ((portAt s p).out.filter f).foldl (fun t r => reqFail p r 0x22 t) s

/-- The flit stream of a port ends (R390, R406): requests complete UNREACHABLE, the replay buffer and everything queued go,
held signals of the port are orphaned. -/
def endStream (p : Nat) (s : State) : State :=
  let s := failRequests p (fun _ => true) s
  let s := putPort p { reach := (portAt s p).reach, nextTag := (portAt s p).nextTag } s
  forUpto 5 (fun k t => orphanHeld k (fun h => h.port = p) t) s

/-- A port leaves its stream for state `st` (R390). -/
def leaveStream (p st : Nat) (s : State) : State :=
  let s := if portLinked s p then endStream p s else s
  setPortState p st (wr (portPage p) .evlWidth 3 (wr (portPage p) .evlLanesOk 0 s))

/-- Training starts (R387): numbering restarts and a HELLO waits to be sent. -/
def startTraining (p : Nat) (attempts : Nat) (s : State) : State :=
  let s := leaveStream p 2 s
  let x := portAt s p
  sendMember p 0x30 0 false (putPort p { reach := x.reach, nextTag := x.nextTag, attempts := attempts } s)

/-- A port goes DOWN with a cause (R390, R415). -/
def portDown (p cause : Nat) (s : State) : State :=
  let pg := portPage p
  logErr pg 1 0x01 0 (wr pg .evlRetrain 0 (wr pg .evlDownCause cause (leaveStream p 6 s)))

/-- A port trains or waits in the dark (R387, R390). -/
def trainOrDark (p : Nat) (s : State) : State := if engineLit s (engineOf p) then startTraining p 0 s else leaveStream p 1 s

/-- A write of PORT_EN (R387): setting it starts training, clearing it takes the port OFF. -/
def portEnWrite (port v : Nat) (s : State) : State :=
  let pg := portPage port
  if v = rd s pg .evlPortEn then s
  else
    let s := wr pg .evlPortEn v s
    if v = 1 then trainOrDark port s else wr pg .evlRetrain 0 (leaveStream port 0 s)

/-- PORT_EN_WRITE. -/
def execPortEnWrite (port value : Nat) (s : State) : Result := .next (hostWrites (portUnit port) (portEnWrite port (value % 2)) s)

/-- RETRAIN set (R390): a full training of an enabled, lit port. -/
def retrain (port : Nat) (s : State) : State :=
  if rd s (portPage port) .evlPortEn = 0 || !engineLit s (engineOf port) then s
  else startTraining port 0 (wr (portPage port) .evlDownCause 0 (wr (portPage port) .evlRetrain 1 s))

/-- RETRAIN. -/
def execRetrain (port : Nat) (s : State) : Result := .next (hostWrites (portUnit port) (retrain port) s)

/-- TRAIN_ATTEMPT_TIMEOUT (R387): the attempt is repeated; the third failure takes the port DOWN with cause TRAIN. -/
def execTrainAttemptTimeout (port : Nat) (s : State) : Result :=
  if portState s port != 2 then .next s
  else
    let n := (portAt s port).attempts + 1
    .next (if 3 ≤ n then portDown port 1 s else startTraining port n s)

/-- WIDTH code of a set of working lanes (R388): 0 x4, 1 x2, 2 x1. -/
def widthOf (lanes : Nat) : Nat :=
  let n := ((List.range 4).map (bit lanes)).sum
  if n = 4 then 0 else if 2 ≤ n then 1 else 2

/-- The device speaks to its members: MBR_EN = 1, SELF_ADDR written, no LEAVE sent (R408). -/
def speaks (s : State) : Bool := rd s (portPage 0) .evlMbrEn = 1 && rd s (portPage 0) .evlSelfValid = 1 && !s.left

/-- LANE_l of an optical engine (R416) as `v` measures it: power, SNR, SerDes index. -/
def laneWord (v : Nat) : Nat := bits v 11 0 + bits v 23 16 * 2 ^ 16 + bits v 31 24 % 18 * 2 ^ 24

/-- Training measures the port's four optical lanes and the spares in use of its engine; the values are free (R388, R416, log entry 63). -/
def measureLanes (port : Nat) (s : State) : State :=
  let e := (oeUnit (engineOf port)).page
  let s := forUpto 4 (fun l t => wri e .optLane (4 * (port % 4) + l) (laneWord (freshVal t)) (freshNext t)) s
  wr e .optSparesUsed (freshVal s % 3) (freshNext s)

/-- PORT_UP (R383, R387, R388, R397, R416): training ends. `lanes` are the port's working optical lanes, `rtt` the measured round
trip in ns. -/
def execPortUp (port lanes rtt : Nat) (s : State) : Result :=
  let pg := portPage port
  if portState s port != 2 || !(portAt s port).hello then .next s
  else
    let e := (oeUnit (engineOf port)).page
    let lost := rd s e .optLaneFault
    let s := wr e .optLaneFault (setBits lost (4 * (port % 4) + 3) (4 * (port % 4)) (15 - lanes % 16)) (measureLanes port s)
    let s := wr pg .evlRttNs (min 4095 rtt) s
    if lanes % 16 = 0 then .next (portDown port 3 s)
    else if 1200 < rtt then .next (portDown port 2 s)
    else
      let s := wr pg .evlWidth (widthOf lanes) (wr pg .evlLanesOk (lanes % 16) (wr pg .evlRetrain 0 s))
      let s := wr pg .evlTxCrData 3584 (wr pg .evlTxCrSig 640 (wr pg .evlTxCrResp 3584 (wr pg .evlTxCrMgmt 384 s)))
      let s := wr pg .evlDseqTx 0 (wr pg .evlLanded 0 s)
      let x := portAt s port
      let s := putPort port { reach := x.reach, nextTag := x.nextTag } s
      let s := setPortState port (if widthOf lanes = 0 then 3 else 4) s
      .next (if speaks s then sendMember port 0x31 (rd s pg .evlPartnerAddr) false s else s)

/-- FAST_RETRAIN (R389). -/
def execFastRetrain (port : Nat) (s : State) : Result :=
  if portFlows s port then .next (setPortState port 5 s) else .next s

/-- FAST_RETRAIN_DONE (R389): frames resume, or the port trains in full. -/
def execFastRetrainDone (port : Nat) (ok : Bool) (s : State) : Result :=
  if portState s port != 5 then .next s
  else if ok then .next (setPortState port (if rd s (portPage port) .evlWidth = 0 then 3 else 4) s)
  else .next (trainOrDark port s)

/-- PORT_DOWN (R390): the port loses its flit stream. -/
def execPortDown (port cause : Nat) (s : State) : Result :=
  if portState s port = 0 || portState s port = 1 || portState s port = 6 then .next s
  else .next (portDown port (cause % 4) s)

/-- PORT_FATAL (R445): the port's logic fails and it goes DOWN. -/
def execPortFatal (port code detail : Nat) (s : State) : Result :=
  let s := logErr (portPage port) 2 (code % 256) detail s
  if portState s port = 0 then .next s
  else .next (wr (portPage port) .evlRetrain 0 (wr (portPage port) .evlDownCause 0 (leaveStream port 6 s)))

/-- Cartridge state changes (R385): feeds follow, darkened and lit ports follow (R384, R386, R387, R390). -/
def setCart (b st : Nat) (s : State) : State :=
  let pg := bayPage b
  let was := cartState s b
  if was = st then s
  else
    let s := ledger pg 0x81 (b + st * 2 ^ 8) (raise pg 16 (wr pg .bayCartState st s))
    let s := forUpto 8 (fun e t =>
      let f := feedBays e
      if (f.1 = b || f.2 = b) && decide (was = 3) != decide (st = 3) then
        let o := (oeUnit e).page
        let ok := if st = 3 then 1 else 0
        let t := if f.1 = b then measure o .optFeed0Uw 0 (wr o .optFeed0Ok ok t) else measure o .optFeed1Uw 0 (wr o .optFeed1Ok ok t)
        ledger o 0x80 (b + st * 2 ^ 8) (raise o 16 t)
      else t) s
    forUpto 32 (fun p t =>
      let lit := engineLit t (engineOf p)
      if portState t p = 1 && lit then startTraining p 0 t
      else if portState t p != 0 && portState t p != 1 && portState t p != 6 && !lit then leaveStream p 1 t
      else t) s

/-- PREPARE set (R385, R386). -/
def prepare (bay : Nat) (s : State) : State :=
  let pg := bayPage bay
  if cartState s bay != 3 then wr pg .hdrBadWrite 1 s
  else
    let dark := (List.range 8).any fun e =>
      let f := feedBays e
      (f.1 = bay && cartState s f.2 != 3) || (f.2 = bay && cartState s f.1 != 3)
    if dark && rd s pg .bayForce = 0 then logErr pg 1 0x01 0 s
    else setCart bay 4 s

/-- PREPARE. -/
def execPrepare (bay : Nat) (s : State) : Result := .next (prepare bay s)

/-- PREPARE_DONE (R385): the bay is SAFE, its lasers off. -/
def execPrepareDone (bay : Nat) (s : State) : Result :=
  if cartState s bay != 4 then .next s
  else .next (raise (bayPage bay) 17 (setCart bay 5 (forUpto 4 (fun i t => wri (bayPage bay) .bayPower i 0 t) s)))

/-- CANCEL set (R385). -/
def cancelPrepare (bay : Nat) (s : State) : State := if cartState s bay = 5 then setCart bay 2 s else s

/-- CANCEL. -/
def execCancel (bay : Nat) (s : State) : Result := .next (cancelPrepare bay s)

/-- A seated cartridge starts WARMING (R385). -/
def startWarming (bay : Nat) (s : State) : State :=
  setCart bay 1 (wr (bayPage bay) .bayHeaterOn 1 (measure (bayPage bay) .bayCaseC 0 s))

/-- CART_INSERT (R385): a cartridge is seated and latched; it starts WARMING with BAY_EN = 1. -/
def execCartInsert (bay id hours : Nat) (s : State) : Result :=
  let pg := bayPage bay
  if rd s pg .bayPresent = 1 then .next s
  else
    let s := wr pg .bayPresent 1 (wr pg .bayLatchClosed 1 (wr pg .bayCartId id (wr pg .bayHours hours s)))
    if rd s pg .bayBayEn = 1 then .next (startWarming bay s) else .next s

/-- CART_REMOVE (R384, R385). -/
def execCartRemove (bay : Nat) (s : State) : Result :=
  let pg := bayPage bay
  let s := wr pg .bayPresent 0 (wr pg .bayLatchClosed 0 (wr pg .bayCartId 0 (wr pg .bayHours 0 (wr pg .bayHeaterOn 0 s))))
  .next (setCart bay 0 (forUpto 4 (fun i t => wri pg .bayPower i 0 t) s))

/-- WARMING_DONE (R385). -/
def execWarmingDone (bay : Nat) (s : State) : Result :=
  if cartState s bay = 1 then .next (setCart bay 2 (measure (bayPage bay) .bayCaseC 0 (wr (bayPage bay) .bayHeaterOn 0 s))) else .next s

/-- LOCK_DONE (R385): the cartridge is ACTIVE. -/
def execLockDone (bay : Nat) (s : State) : Result :=
  if cartState s bay = 2 then .next (setCart bay 3 (forUpto 4 (fun i t => measure (bayPage bay) .bayPower i t) s)) else .next s

/-- A cartridge enters FAULT with its cause (R385, R417): 1 TEMP, 2 LOCK, 3 POWER, 4 TIMEOUT. -/
def cartFault (bay cause : Nat) (s : State) : State :=
  setCart bay 6 (logErr (bayPage bay) 1 0x02 cause (forUpto 4 (fun i t => wri (bayPage bay) .bayPower i 0 t) s))

/-- LOCK_TIMEOUT (R385). -/
def execLockTimeout (bay : Nat) (s : State) : Result := if cartState s bay = 2 then .next (cartFault bay 4 s) else .next s

/-- CART_FAULT (R385). -/
def execCartFault (bay cause : Nat) (s : State) : Result :=
  if 1 ≤ cartState s bay && cartState s bay ≤ 5 then .next (cartFault bay cause s) else .next s

/-- Credits returned for a frame of `n` bytes on a VC when its buffer is freed (R397). -/
def returnCredits (p vc n : Nat) (s : State) : State :=
  let x := portAt s p
  putPort p { x with ret := setAt 0 x.ret vc (x.ret.getD vc 0 + n / 32) } s

/-- The fields of a frame lie in their legal ranges (R394, R395). -/
def frameLegal (h : Hdr) : Bool :=
  match vcOf h.type with
  | none => false
  | some 0 => h.dpart ≤ 3 && 1 ≤ h.len && h.len ≤ 16 && h.dva % 32 = 0 && h.dva < 2 ^ 52 && !h.bcast &&
      (h.type != 0x03 || [0x01, 0x02, 0x03, 0x09, 0x12].contains h.fmt)
  | some 1 => h.dpart ≤ 4 && h.len = 0 && !h.bcast && bits h.dva 14 13 ≤ 1
  | some 2 => h.len ≤ (if h.type = 0x10 then 16 else 0) && !h.bcast
  | some _ => h.len = (if h.type = 0x34 then 0 else 1)

/-- Deliver one received frame (R395, R407): discarded with its credits returned when bad or misrouted, else buffered. -/
def deliver (p : Nat) (f : List Byte) (training : Bool) (s : State) : State :=
  let pg := portPage p
  let h := hdrOf f
  match vcOf h.type with
  | none => logErr pg 1 0x02 0 (count pg .evlBadFrame 1 s)
  | some vc =>
    if !frameLegal h then logErr pg 1 0x02 0 (returnCredits p vc f.length (count pg .evlBadFrame 1 s))
    else if training && h.type != 0x30 then s
    else if h.type != 0x30 && !h.bcast && h.dst != selfAddr s then returnCredits p vc f.length (count pg .evlMisrouted 1 s)
    else
      let x := portAt s p
      putPort p { x with rx := setAt [] x.rx vc (x.rx.getD vc [] ++ [f]) } s

/-- Take whole frames and pad words off the received stream (R394); `fuel` bounds their number. -/
def parseStream (p : Nat) (training : Bool) : Nat → State → State
  | 0, s => s
  | n + 1, s =>
    let x := portAt s p
    match x.rxBuf with
    | [] => s
    | b :: _ =>
      if b = 0 then parseStream p training n (putPort p { x with rxBuf := x.rxBuf.drop 8 } s)
      else
        let h := hdrOf x.rxBuf
        let len := 32 + frameData h
        if x.rxBuf.length < 32 || x.rxBuf.length < len then s
        else parseStream p training n (deliver p (x.rxBuf.take len) training (putPort p { x with rxBuf := x.rxBuf.drop len } s))

/-- Transmit credit fields by VC. -/
def txCredit (vc : Nat) : Fld := match vc with | 0 => .evlTxCrData | 1 => .evlTxCrSig | 2 => .evlTxCrResp | _ => .evlTxCrMgmt

/-- Credits at UP by VC (R396). -/
def vcCredits (vc : Nat) : Nat := match vc with | 0 => 3584 | 1 => 640 | 2 => 3584 | _ => 384

/-- The acknowledgement of a flit (R392, R393): the replay buffer drops what was received, a NAK starts a replay. -/
def takeAck (p ack nak : Nat) (s : State) : State :=
  let x := portAt s p
  let rest := match x.replay.findIdx? fun e => e.1 = ack with
    | some i => x.replay.drop (i + 1)
    | none => x.replay
  let x := { x with replay := rest, replayAt := if nak = 1 && !rest.isEmpty then some 0 else
      if rest.isEmpty then none else x.replayAt.map fun i => i - (x.replay.length - rest.length) }
  let s := putPort p x s
  if nak = 1 && !rest.isEmpty then count (portPage p) .evlReplays 1 s else s

/-- FLIT_RECEIVE (R392, R393): `corrected` symbols were corrected by FEC; `uncorrectable` says a codeword of the flit was. -/
def execFlitReceive (port : Nat) (flit : List Byte) (corrected : Nat) (uncorrectable : Bool) (s : State) : Result :=
  let pg := portPage port
  let training : Bool := portState s port = 2
  if !portFlows s port && !training then .next s
  else
    let s := count pg .evlFlitsRx 1 (count pg .evlFecCorr corrected s)
    let s := if uncorrectable then count pg .evlFecUncorr 1 s else s
    let t := fieldAt flit 1016
    if uncorrectable || crc32c (flit.take 1020) != t 63 32 then .next (putPort port { portAt s port with nak := true } s)
    else
      let s := takeAck port (t 19 10) (t 20 20) s
      let x := portAt s port
      if t 9 0 != x.rxNext then .next s
      else
        let vc := t 23 22
        let cr := rd s pg (txCredit vc)
        let s := wr pg (txCredit vc) (if training then cr else min (vcCredits vc) (cr + t 31 24)) s
        let s := putPort port { x with rxNext := (x.rxNext + 1) % 1024, nak := false, rxBuf := x.rxBuf ++ flit.take 1016 } s
        .next (parseStream port training 200 s)

/-- The frame at the head of a VC's transmit queue may leave (R397, R405). -/
def canSend (s : State) (p vc : Nat) : Bool :=
  let x := portAt s p
  match x.tx.getD vc [] with
  | [] => false
  | f :: _ =>
    f.length / 32 ≤ rd s (portPage p) (txCredit vc) &&
      (vc != 0 || x.out.all fun r => r.held || (let d := ((hdrOf f).dseq + 2 ^ 32 - r.dseq) % 2 ^ 32; d < 4096 || 2 ^ 31 ≤ d))

/-- The VC that sends next at a frame boundary (R398); MGMT also goes when nothing else is ready. -/
def pickVc (s : State) (p : Nat) : Option Nat :=
  let x := portAt s p
  if canSend s p 3 && 7 ≤ x.sinceMgmt then some 3
  else
    let order := match x.lastVc with
      | 1 => [2, 0, 1]
      | 2 => [0, 1, 2]
      | _ => [1, 2, 0]
    match order.find? fun v => canSend s p v with
    | some v => some v
    | none => if canSend s p 3 then some 3 else none

/-- Take the next frame of a VC for sending. -/
def popFrame (p vc : Nat) (s : State) : List Byte × State :=
  let x := portAt s p
  match x.tx.getD vc [] with
  | [] => ([], s)
  | f :: fs =>
    let s := wr (portPage p) (txCredit vc) (rd s (portPage p) (txCredit vc) - f.length / 32) s
    (f, putPort p { x with tx := setAt [] x.tx vc fs, lastVc := if vc = 3 then x.lastVc else vc
                           sinceMgmt := if vc = 3 then 0 else x.sinceMgmt + 1 } s)

/-- Fill a frame area (R394, R398): `fuel` bounds the frames. -/
def fillArea (p : Nat) : Nat → List Byte → State → List Byte × State
  | 0, a, s => (a, s)
  | n + 1, a, s =>
    if 1016 ≤ a.length then (a, s)
    else
      match pickVc s p with
      | none => (a ++ List.replicate (1016 - a.length) 0, s)
      | some v => let r := popFrame p v s; fillArea p n (a ++ r.1) r.2

/-- The frame area of the next flit: the rest of the frame being sent, then further frames; a training port sends its HELLO. -/
def nextArea (p : Nat) (s : State) : List Byte × State :=
  let x := portAt s p
  if portState s p = 2 then
    let hello := (x.tx.getD 3 []).filter fun f => (hdrOf f).type = 0x30
    let a := hello.flatten
    (a ++ List.replicate (1016 - a.length) 0, putPort p { x with tx := x.tx.set 3 [] } s)
  else
    let r := fillArea p 40 x.cur (putPort p { x with cur := [] } s)
    (r.1.take 1016, putPort p { portAt r.2 p with cur := r.1.drop 1016 } r.2)

/-- All held entries of some Serai are occupied: signal credits are withheld on every port (R145). -/
def signalsHeld (s : State) : Bool := (List.range 5).any fun k => heldCap k ≤ (seraiAt s k).held.length

/-- The VC whose credits the next flit returns (R145, R397). -/
def creditVc (s : State) (x : Port) : Option Nat :=
  ((List.range 4).map fun i => (x.lastRet + 1 + i) % 4).find? fun v => x.ret.getD v 0 != 0 && !(v = 1 && signalsHeld s)

/-- Send a flit with its trailer (R392). -/
def sendFlit (p fseq vc units : Nat) (area : List Byte) (s : State) : State :=
  let x := portAt s p
  let ack := (x.rxNext + 1023) % 1024
  let head := area ++ leBytes 4 (fseq + ack * 2 ^ 10 + (if x.nak then 2 ^ 20 else 0) + vc * 2 ^ 22 + units * 2 ^ 24)
  emit (.flit p (head ++ leBytes 4 (crc32c head))) (count (portPage p) .evlFlitsTx 1 s)

/-- FLIT_TRANSMIT (R393, R397, R398): the next flit leaves, a replayed one first. The replay buffer holds the frame area with
its credit return; the acknowledgement is that of the moment. -/
def execFlitTransmit (port : Nat) (s : State) : Result :=
  let x := portAt s port
  if !portFlows s port && portState s port != 2 then .next s
  else match x.replayAt.bind fun i => x.replay[i]?.map fun e => (i, e) with
  | some (i, e) =>
    let s := putPort port { x with replayAt := if i + 1 < x.replay.length then some (i + 1) else none } s
    .next (sendFlit port e.1 ((e.2.getD 1016 0).toNat) ((e.2.getD 1017 0).toNat) (e.2.take 1016) s)
  | none =>
    if 256 ≤ x.replay.length then .next s
    else
      let vc := creditVc s x
      let units := (vc.map fun v => min 255 (x.ret.getD v 0)).getD 0
      let s := match vc with
        | some v => putPort port { x with ret := setAt 0 x.ret v (x.ret.getD v 0 - units), lastRet := v } s
        | none => s
      let r := nextArea port s
      let y := portAt r.2 port
      let kept := r.1 ++ [BitVec.ofNat 8 (vc.getD 0), BitVec.ofNat 8 units]
      let s := putPort port { y with fseq := (y.fseq + 1) % 1024, replay := y.replay ++ [(y.fseq, kept)] } r.2
      .next (sendFlit port y.fseq (vc.getD 0) units r.1 s)

/-- Advance LANDED when DATA frame `dseq` lands (R405). -/
def advanceLanded (p : Nat) : Nat → State → State
  | 0, s => s
  | n + 1, s =>
    let x := portAt s p
    let d := (rd s (portPage p) .evlLanded + 1) % 2 ^ 32
    if x.landed.contains d then
      advanceLanded p n (wr (portPage p) .evlLanded d (putPort p { x with landed := x.landed.filter (· != d) } s))
    else s

/-- A DATA frame lands (R405). -/
def land (p dseq : Nat) (s : State) : State :=
  let x := portAt s p
  advanceLanded p (x.landed.length + 1) (putPort p { x with landed := x.landed ++ [dseq] } s)

/-- Take the oldest frame off a VC's receive buffer, returning its credits. -/
def consume (p vc : Nat) (f : List Byte) (s : State) : State :=
  let x := portAt s p
  returnCredits p vc f.length (putPort p { x with rx := setAt [] x.rx vc ((x.rx.getD vc []).drop 1) } s)

/-- Answer a DATA frame (R400, R401, R405, R406): the response leaves, the frame lands unless it is to be retried, and a
failure is recorded. -/
def answer (p : Nat) (f : List Byte) (status poison : Nat) (data : List Byte) (s : State) : State :=
  let h := hdrOf f
  let r : Hdr := { type := if h.type = 0x01 then 0x10 else if h.type = 0x02 then 0x11 else 0x12, dst := h.src, src := selfAddr s
                   tag := h.tag, status := status, len := data.length / 32, poison := poison }
  let s := sendFrame p 2 (hdrBytes r ++ data) (consume p 0 f s)
  let s := if status = 0x20 then s else land p h.dseq s
  if status = 0 || status = 0x20 then s
  else
    let x := portAt s p
    putPort p { x with failed := (x.failed ++ [(h.src * 2 ^ 16 + streamId h.core h.ctx h.q, h.wb)]).drop (x.failed.length - 63) } s

/-- The status that a request meets before translation (R400, R408, R413, R449). -/
def serveGate (s : State) (p : Nat) (h : Hdr) : Nat :=
  if partBusy s (p / 8) || partBusy s h.dpart || rd s (portPage p) .hdrFenced = 1 then 0x20
  else if s.left || rdi s (portPage p) .evlExpRoot h.dpart = 0 then 0x21
  else if partState s h.dpart = 4 then 0x0C
  else 0

/-- Translate the bytes of a request for a peer: DRAM pieces, or why not. -/
def peerSpan (root part : Nat) (write : Bool) (dva n : Nat) (s : State) : Except MemStop (List (Nat × Nat)) × State :=
  (dvaPieces (n / 2 ^ 21 + 2) dva n).foldl (fun r q =>
    andThen r fun l t =>
      andThen (xlatePeer root part write q.1 t) fun a t =>
        match memGate t none spinePortAt a q.2 write with
        | some e => (.error e, t)
        | none => (.ok (l ++ [(a, q.2)]), t)) (.ok [], s)

/-- Poison bits of data bytes in units of 32 (R394). -/
def poisonBits (bs : List (Byte × Bool)) : Nat :=
  ((chunks 32 (ceilDiv bs.length 32) bs).zipIdx.map fun c => if c.1.any Prod.snd then 2 ^ c.2 else 0).sum

/-- The data bytes of a WR or ACC frame with their marks, the skipped ones left out. -/
def frameBytes (h : Hdr) (f : List Byte) : List (Byte × Bool) :=
  let all := (f.drop 32).zipIdx.map fun b => (b.1, decide (bit h.poison (b.2 / 32) = 1))
  ((all.take (all.length - h.lastSkip)).drop h.first)

/-- Serve the oldest DATA frame when it has the type (R400). A frame that the memory does not take yet stays. -/
def serve (p type : Nat) (s : State) : State :=
  match (portAt s p).rx.getD 0 [] with
  | [] => s
  | f :: _ =>
    let h := hdrOf f
    if h.type != type || !portFlows s p then s
    else
      let st := serveGate s p h
      if st != 0 then answer p f st 0 [] s
      else
        let write := type != 0x01
        let lo := if write then h.dva + h.first else h.dva
        let n := if write then 32 * h.len - h.first - h.lastSkip else 32 * h.len
        let t := peerSpan (rdi s (portPage p) .evlExpRoot h.dpart * 4096) h.dpart write lo n s
        match t.1 with
        | .error (.fault code _) => answer p f code 0 [] t.2
        | .error (.snoop ls) => snoopLines ls s
        | .error (.wait held) => noteWaits spinePortAt none held s
        | .error .retry => answer p f 0x20 0 [] t.2
        | .ok ps =>
          match piecesWait t.2 spinePortAt ps (type = 0x03) write with
          | some held => noteWaits spinePortAt none held s
          | none =>
          if type = 0x01 then
            let r := readPieces spinePortAt ps t.2
            answer p f 0 (poisonBits r.1) (r.1.map Prod.fst) r.2
          else
            let bytes := frameBytes h f
            let put (bs : List (Byte × Bool)) (u : State) : State :=
              (ps.foldl (fun (r : Nat × State) q =>
                let part := (bs.drop r.1).take q.2
                (r.1 + q.2, (colsOf r.2 q.1 q.2).foldl (fun v e =>
                  let bad := (part.zipIdx.filter fun b => e.2 ≤ q.1 + b.2 && q.1 + b.2 < e.2 + 32).any fun b => b.1.2
                  writeCol { col := e.1, port := spinePortAt v (stackOfCol e.1), data := colPart q.1 e.2 (part.map Prod.fst), poison := bad,
                             mate := isMate q.1 e } v) r.2)) (0, u)).2
            if type = 0x02 then answer p f 0 0 [] (put bytes t.2)
            else
              let old := readPieces spinePortAt ps t.2
              let z := addUnits h.fmt (unitOf h.fmt).1 (arithOf h.arith) old.1 bytes
              answer p f 0 0 [] (put z.1 old.2)

/-- RD_REQ (R400). -/
def execRdReq (port : Nat) (s : State) : Result := .next (serve port 0x01 s)
/-- WR (R400). -/
def execWr (port : Nat) (s : State) : Result := .next (serve port 0x02 s)
/-- ACC (R400). -/
def execAcc (port : Nat) (s : State) : Result := .next (serve port 0x03 s)

/-- The bytes of a read response go to the places in the scratchpad that the LOAD's units give them, where no later unit is written (R222,
R234, R238). -/
def landRead (r : RemoteReq) (w : Work) (bytes : List (Byte × Bool)) (s : State) : State :=
  let cx := ctxAt s (ctxId r.core r.ctx)
  let m := (tmPlan s r.core r.ctx w).1
  let us := ((m.x.writers true m.src.out).filter fun e => e.1.st = 0).filterMap fun e =>
    let a := ofSigned 52 ((m.base : Int) + m.x.mem.offset + e.1.off)
    let lo := max a r.dva
    let hi := min (a + m.x.u) (r.dva + 32 * r.len)
    let u := m.x.spUnit cx e ((bytes.drop (lo - r.dva)).take (hi - lo))
    if hi ≤ lo then none else some { u with sp := u.sp + (lo - a) }
  putUnits (m.x.way 0x60) r.core us s

/-- Handle the oldest response when it has the type (R402): matched by its TAG. -/
def respond (p type : Nat) (s : State) : State :=
  match (portAt s p).rx.getD 2 [] with
  | [] => s
  | f :: _ =>
    let h := hdrOf f
    if h.type != type then s
    else
      let s := consume p 2 f s
      match (portAt s p).out.find? fun r => r.tag = h.tag && r.type + 0x0F = h.type with
      | none => s
      | some r =>
        let x := portAt s p
        if partState s (corePart r.core) = 2 then putPort p { x with out := x.out.filter fun e => e.tag != r.tag } s
        else if h.status = 0x20 then
          putPort p { x with out := x.out.map fun e => if e.tag = r.tag then { e with retry := true } else e } s
        else if h.status != 0 then reqFail p r h.status s
        else
          let s := launchHeld p r.core r.ctx r.q r.k (putPort p { x with out := x.out.filter fun e => e.tag != r.tag } s)
          match ((ctxAt s (ctxId r.core r.ctx)).q r.q).live.find? fun w => w.k = r.k && w.works with
          | none => s
          | some w =>
            let bytes := (f.drop 32).zipIdx.map fun b => (b.1, decide (bit h.poison (b.2 / 32) = 1))
            let s := if type = 0x10 then landRead r w bytes s else s
            let bad := w.bad || h.poison != 0
            let s := mapWork r.core r.ctx r.q r.k (fun w => { w with bad := bad, wrote := true }) s
            if remotePending s r.core r.ctx r.q r.k then s else endWork r.core r.ctx r.q r.k (poisonStat bad) 0 0 s

/-- RD_RESP (R402). -/
def execRdResp (port : Nat) (s : State) : Result := .next (respond port 0x10 s)
/-- WR_ACK (R402). -/
def execWrAck (port : Nat) (s : State) : Result := .next (respond port 0x11 s)
/-- ACC_ACK (R402). -/
def execAccAck (port : Nat) (s : State) : Result := .next (respond port 0x12 s)

/-- REMOTE_TIMEOUT (R402): a request has had no response for RESP_TIMEOUT_US. -/
def execRemoteTimeout (port tag : Nat) (s : State) : Result :=
  match (portAt s port).out.find? fun r => r.tag = tag && !r.retry && !r.held with
  | none => .next s
  | some r => .next (reqFail port r 0x22 s)

/-- SIGNAL (R144-R146, R406, R413): the frame takes a held entry, is applied when nothing holds it, or is discarded. -/
def execSignal (port : Nat) (s : State) : Result :=
  match (portAt s port).rx.getD 1 [] with
  | [] => .next s
  | f :: _ =>
    let h := hdrOf f
    let k := h.dpart
    let e : Held := { src := h.src, stream := streamId h.core h.ctx h.q, wb := h.wb, port := port
                      wait := if bit h.dva 15 = 1 then some h.dseq else none, counter := bit h.dva 12 = 1, idx := bits h.dva 11 0
                      op := bits h.dva 14 13, operand := bits h.dva 63 32 }
    if partBusy s (port / 8) || (k < 4 && !partServes s k) then .next (orphanSignal k e.counter e.idx e.src (consume port 1 f s))
    else if !(inRemoteWindow s k e.counter e.idx && e.idx < seraiCap k (if e.counter then 1 else 0)) then
      .next (rejectRemote k e.counter e.idx e.src (consume port 1 f s))
    else if heldCap k ≤ (seraiAt s k).held.length then .next s
    else
      let s := consume port 1 f s
      if e.wait.isNone && heldReady s (seraiAt s k).held e then .next (applyRemote k e s)
      else
        let x := seraiAt s k
        .next (noteHeld k (putSerai k { x with held := x.held ++ [e] } s))

/-- The oldest MGMT frame of a port, when it has the type. -/
def mgmtFrame (s : State) (p type : Nat) : Option (List Byte) :=
  match (portAt s p).rx.getD 3 [] with
  | [] => none
  | f :: _ => if (hdrOf f).type = type then some f else none

/-- The HELLO of a port in training, wherever it stands among the MGMT frames. -/
def execHello (port : Nat) (s : State) : Result :=
  match mgmtFrame s port 0x30 with
  | none => .next s
  | some f =>
    let pg := portPage port
    let s := consume port 3 f s
    if portState s port != 2 then .next s
    else
      let d := fieldAt f 32
      let s := wr pg .evlPartnerId (d 63 0) (wr pg .evlPartnerAddr (d 75 64) (wr pg .evlPartnerFwd (d 80 80) s))
      .next (putPort port { portAt s port with hello := true } s)

/-- An address leaves PRESENT (R410). -/
def leavePresent (a : Nat) (s : State) : State :=
  let s := forUpto 32 (fun p t => failRequests p (fun r => r.peer = a) t) s
  let s := forUpto 5 (fun k t => orphanHeld k (fun h => h.src = a) t) s
  if rd s pgEpo .epoPeer = a then raise pgEpo 18 { s with sourceLost := s.sourceLost || rd s pgEpo .epoSrc = 1 } else s

/-- Change an address's state (R409): MGEN rises, a ledger record and the interrupt follow. -/
def setMember (p a st id : Nat) (s : State) : State :=
  let was := (memberAt s a).st
  let s := { s with members := SMap.set (fun _ => {}) s.members a { st := st, id := id } }
  if was = st then s
  else
    let pg := portPage p
    let s := wr pg .evlMgen (rd s pg .evlMgen + 1) s
    let s := ledger pg (if st = 2 then 0x83 else 0x82) (a + st * 2 ^ 16 + p * 2 ^ 24) s
    let s := if st = 2 then raise pg 18 s else s
    let s := if st = 1 || was = 1 then raise pg 17 s else s
    if was = 1 then leavePresent a s else s

/-- The address holds a REACH bit on some port. -/
def reached (s : State) (a : Nat) : Bool := (List.range 32).any fun p => reachOf s p a

/-- JOIN or PRESENT of address `a` with identity `id` arrives on a port (R408, R409). -/
def memberSeen (p a id : Nat) (s : State) : State :=
  let s := putReach p a true s
  let m := memberAt s a
  if rd s (portPage 0) .evlSelfValid = 1 && a = selfAddr s then setMember p a 2 m.id s
  else match m.st with
  | 0 => setMember p a 1 id s
  | 1 => if m.id = id then s else setMember p a 2 m.id s
  | _ => s

/-- JOIN (R408): answered with a PRESENT directed to the new member. -/
def execJoin (port : Nat) (s : State) : Result :=
  match mgmtFrame s port 0x31 with
  | none => .next s
  | some f =>
    let a := fieldAt f 32 75 64
    let s := memberSeen port a (fieldAt f 32 63 0) (consume port 3 f s)
    .next (if speaks s && (memberAt s a).st = 1 then sendMember port 0x32 a false s else s)

/-- PRESENT (R408). -/
def execPresent (port : Nat) (s : State) : Result :=
  match mgmtFrame s port 0x32 with
  | none => .next s
  | some f => .next (memberSeen port (fieldAt f 32 75 64) (fieldAt f 32 63 0) (consume port 3 f s))

/-- LEAVE (R408, R409). -/
def execLeave (port : Nat) (s : State) : Result :=
  match mgmtFrame s port 0x33 with
  | none => .next s
  | some f =>
    let a := fieldAt f 32 75 64
    let s := putReach port a false (consume port 3 f s)
    .next (if (memberAt s a).st = 1 || (memberAt s a).st = 2 then setMember port a 0 0 s else s)

/-- Send a broadcast member frame on every working port. -/
def sendAll (type : Nat) (s : State) : State :=
  forUpto 32 (fun p t => if portFlows t p then sendMember p type 0 true t else t) s

/-- PRESENT_TIMER (R408). -/
def execPresentTimer (s : State) : Result := .next (if speaks s then sendAll 0x32 s else s)

/-- REACH_TIMEOUT (R408, R409). -/
def execReachTimeout (port addr : Nat) (s : State) : Result :=
  let s := putReach port addr false s
  .next (if (memberAt s addr).st = 1 && !reached s addr then setMember port addr 0 0 s else s)

/-- MBR_LEAVE set (R408). -/
def mbrLeave (s : State) : State := if speaks s then { sendAll 0x33 s with left := true } else s

/-- MBR_LEAVE (R408). -/
def execMbrLeave (s : State) : Result := .next (mbrLeave s)

/-- A write of SELF_ADDR (R409) through the page of `port`, which may be locked (R25). -/
def selfAddrWrite (port v : Nat) (s : State) : State :=
  let pg := portPage port
  let old := selfAddr s
  let valid := rd s pg .evlSelfValid = 1
  if rd s pg .hdrLocked = 1 then (if v = old then s else wr pg .hdrLockViolation 1 s)
  else
    let s := if valid && old != v && (memberAt s old).st = 3 then setMember port old 0 0 s else s
    setMember port v 3 devId (wr pg .evlSelfAddr v (wr pg .evlSelfValid 1 s))

/-- SELF_ADDR_WRITE. -/
def execSelfAddrWrite (port value : Nat) (s : State) : Result := .next (hostWrites (portUnit port) (selfAddrWrite port (value % 4096)) s)

/-- MBR_CLEAR set (R409): the address of MBR_SEL leaves CONFLICT. -/
def mbrClear (port : Nat) (s : State) : State :=
  let a := rd s (portPage port) .evlMbrSel
  if (memberAt s a).st = 2 then setMember port a 0 0 s else s

/-- MBR_CLEAR. -/
def execMbrClear (port : Nat) (s : State) : Result := .next (hostWrites (portUnit port) (mbrClear port) s)

/-- After an accepted advance, EPOCH frames go out on every working port (R411). -/
def sendEpochs (s : State) : State :=
  if rd s (portPage 0) .evlEpochTx = 0 then s
  else
    let b := (rd s (portPage 0) .evlBseqTx + 1) % 2 ^ 16
    let s := wr (portPage 0) .evlBseqTx b s
    let f := hdrBytes { type := 0x34, bcast := true, src := selfAddr s, dva := epochNow s + b * 2 ^ 32 }
    forUpto 32 (fun p t => if portFlows t p then sendFrame p 3 f t else t) s

/-- An advance with its broadcast. -/
def advanceTx (n : Nat) (refused : Bool) (s : State) : State :=
  let ok := advanceCode s n refused = 0
  let s := advance n refused s
  if ok then sendEpochs s else s

/-- EPOCH_ADVANCE (R55, R56): a host write. -/
def execEpochAdvance (target : Nat) (s : State) : Result := .next (advanceTx (target % 2 ^ 32) (rd s pgEpo .epoSrc = 1) s)

/-- Keep the broadcast number of the last EPOCH frame of a member. -/
def putBseq (src b : Nat) (s : State) : State := { s with bseqs := SMap.set (fun _ => none) s.bseqs src (some b) }

/-- An EPOCH frame of member `src` with broadcast number `b` and epoch `n` has been taken from the port (R56, R411); once the designated
peer has left, EPOCH_NOW holds (R57). -/
def epochTaken (port n b src : Nat) (s : State) : State :=
  if ((SMap.get (fun _ => none) s.bseqs src).map fun l => decide ((l + 2 ^ 16 - b) % 2 ^ 16 < 2 ^ 15)).getD false then
    count (portPage port) .evlDupBcast 1 s
  else
    let s := putBseq src b s
    if rd s pgEpo .epoSrc = 1 && rd s pgEpo .epoPeer = src && !s.sourceLost then advanceTx n false s else count pgEpo .epoAdvRefused 1 s

/-- EPOCH_BROADCAST (R56, R411): the oldest MGMT frame of the port is an EPOCH frame. -/
def execEpochBroadcast (port : Nat) (s : State) : Result :=
  match mgmtFrame s port 0x34 with
  | none => .next s
  | some f =>
    let h := hdrOf f
    .next (epochTaken port (bits h.dva 31 0) (bits h.dva 47 32) h.src (consume port 3 f s))

end Sys2Proof.Machine
end

