-- ==== Sys2Proof/Machine/Faults.lean ====
section
/-!
DEFINITION. The fault unit (R445-R466, R521): partition-fatal faults, recoveries and their replay, escalation, re-admission, and the faults
of the lockstep spine.
-/

namespace Sys2Proof.Machine

/-- An entry to a power state is abandoned (R481): the device stays in, or returns to, P0 and the request completes BUSY. -/
def psAbandon (s : State) : State :=
  if s.psNext.isSome || (rd s 0x2040 .pwrPstateTgt != pstate s && rd s 0x2040 .pwrPstateTgt != 0) then
    wr 0x2040 .pwrPsGo 0 (wr 0x2040 .pwrPsResult 1 (wr 0x2040 .pwrPstateTgt 0 { s with psNext := none }))
  else s

/-- A recovery starts (R446, R450, R465): the partition is fenced and the recovery counts in its window, which it opens where none is
open. -/
def startRecovery (n src code : Nat) (waitGo : Bool) (s : State) : State :=
  let s := psAbandon s
  let s := wri pgFlt .fltResetsWin n (min 255 (rdi s pgFlt .fltResetsWin n + 1)) s
  let s := { s with winOpen := if s.winOpen.contains n then s.winOpen else s.winOpen ++ [n] }
  let s := putRecov n (some { src := src, code := code, waitGo := waitGo }) (putPartState n 1 s)
  putFenced 1 (UnitId.part n).all (raise pgFlt 16 s)

/-- Started descriptors of a queue end at once (R450); they are interrupted with the others. -/
def cutQueue (g q : Nat) (s : State) : State :=
  let s := if q = qBk then { s with flights := s.flights.filter fun f => f.core != g } else s
  forUpto 4 (fun c t =>
    let x := ctxAt t (ctxId g c)
    if x.st = .free then t
    else putCtx (ctxId g c) (x.putQ q { x.q q with live := (x.q q).live.map fun w => if w.stat.isNone then { w with cut := true } else w }) t) s

/-- Descriptors on the source unit of a partition-fatal fault end at once (R450). -/
def cutUnit (n : Nat) (u : UnitId) (s : State) : State :=
  let us := u.all
  (coresOf n).foldl (fun t g => forUpto 8 (fun q t => if us.contains (queueUnit g q) then cutQueue g q t else t) t) s

/-- Q_BK descriptors on a frozen channel of a fenced partition end at once (R450). -/
def cutFrozen (n : Nat) (s : State) : State :=
  let hit (f : BkFlight) : Bool := corePart f.core = n && f.chans.any fun c => (chanAt s (ckOf f.stack c)).st = .frozen
  (s.flights.filter hit).foldl (fun t f =>
    mapWork f.core f.ctx qBk f.k (fun w => { w with cut := true })
      { t with flights := t.flights.filter fun e => !e.isOf f.core f.ctx f.k }) s

/-- A partition-fatal fault of a unit of partition `n` (R445, R446). -/
def partitionFatal (n : Nat) (u : UnitId) (code detail : Nat) (s : State) : State :=
  let p := u.page
  let s := logErr p 2 code detail s
  let s := wr pgFlt .fltLastSrc p (wr pgFlt .fltLastCode code (wr pgFlt .fltLastEpoch (epochNow s) s))
  let s := logErr pgFlt 2 0x01 p s
  if partBusy s n then count pgFlt .fltJoined 1 s
  else cutFrozen n (cutUnit n u (startRecovery n p code (rd s pgFlt .fltAutoReset = 0) s))

/-- PARTITION_FATAL (R445, R446): from a unit of a partition that answers, other than a bulk controller or a port. -/
def execPartitionFatal (page code detail : Nat) (s : State) : Result :=
  match unitAt page with
  | none => .next s
  | some u =>
    match u.partition with
    | none => .next s
    | some n =>
      if u.block = .blk || u.block = .evl || partState s n = 4 || pstate s = 3 then .next s
      else .next (partitionFatal n u (code % 256) detail s)

/-- BULK_FATAL (R330, R445): the stack goes OFFLINE; the partition is not reset. -/
def execBulkFatal (stack code detail : Nat) (s : State) : Result :=
  .next (wr (blkPage stack) .blkBlkState 3 (logErr (blkPage stack) 2 (code % 256) detail s))

/-- FENCING ends (R450-R453): the partition stops and is reset; its scratchpads are sampled at no less than 1.5 GHz (R492). -/
def enterResetting (n : Nat) (s : State) : State :=
  let s := putPartState n 2 (stopPartition n s)
  wri 0x2050 .clkCoreStep n (max 9 (rdi s 0x2050 .clkCoreStep n)) { s with divided := s.divided.filter fun e => e.1 != n }

/-- RESET_GO bit `n` (R446, R447, R450). -/
def resetGo (n : Nat) (s : State) : State :=
  match partState s n with
  | 0 | 3 => putResetGo n 1 (startRecovery n pgFlt 0 false s)
  | 1 =>
    let r := (recovAt s n).getD {}
    let s := putResetGo n 1 s
    if r.waitGo then enterResetting n (putRecov n (some { r with waitGo := false }) s) else s
  | 2 => putResetGo n 1 s
  | _ => s

/-- RESET_GO. -/
def execResetGo (n : Nat) (s : State) : Result := .next (resetGo n s)

/-- DRAIN_END (R450): every started descriptor has completed, or DRAIN_NS has elapsed. -/
def execDrainEnd (n : Nat) (s : State) : Result :=
  if partState s n = 1 && !((recovAt s n).getD {}).waitGo then .next (enterResetting n s) else .next s

/-- Sampling meets one word of a scratchpad (R453): corrected and written back, or marked POISON. -/
def sampleWord (g w : Nat) (s : State) : State :=
  match wordLook s g w with
  | .ue => supersede g w (poisonWord g w (scrubWord g w s))
  | _ => scrubWord g w s

/-- Every word of a core's scratchpad is written POISON (R453). -/
def poisonSpad (g : Nat) (s : State) : State :=
  { s with spadChk := (s.spadChk.filter fun e => e.1 < wordKey g 0)
      ++ (List.range (spadSize / 8)).map (fun w => (wordKey g w, some (spdCheck (leNat (spadBytes s g (8 * w) 8)) ^^^ 0xFF)))
      ++ s.spadChk.filter fun e => wordKey (g + 1) 0 ≤ e.1 }

/-- The core whose scratchpad unit is the source of the recovery (R453). -/
def lostSpad (s : State) (n : Nat) : Option Nat :=
  match (recovAt s n).bind fun r => unitAt r.src with
  | some (.sp a m j) => if a = n then some (coreNo a m j) else none
  | _ => none

/-- The scratchpads of a partition have been sampled (R453, R460), and its logic is reset (R451). -/
def samplingDone (n : Nat) (s : State) : State :=
  let s := s.spadChk.foldl (fun t e =>
    let g := e.1 / 2 ^ 22
    if corePart g = n && lostSpad s n != some g then sampleWord g (e.1 % 2 ^ 22) t else t) s
  let s := match lostSpad s n with
    | none => s
    | some g => forUpto 4 (fun c t =>
        let x := ctxAt t (ctxId g c)
        if x.journal = 2 then putCtx (ctxId g c) { x with noReplay := 1 } t else t) (poisonSpad g s)
  putRecov n ((recovAt s n).map fun r => { r with sampled := true }) (resetFields n s)

/-- SCRATCHPAD_SAMPLING_DONE. -/
def execScratchpadSamplingDone (n : Nat) (s : State) : Result :=
  if partState s n = 2 && (recovAt s n).any fun r => !r.sampled then .next (samplingDone n s) else .next s

/-- A channel cannot be trained (R347, R350). -/
def trainFail (ck : Nat) (s : State) : State :=
  let p := mcPage ck
  let s := putChan ck { chanAt s ck with st := .failed } s
  ledger p 0x83 (ck % 32) (raise p 19 (logErr p 1 0x02 (ck % 32) s))

/-- CHANNEL_RESTORE_DONE (R454): the training values hold, or full training has passed or failed. -/
def execChannelRestoreDone (stack chan : Nat) (pass : Bool) (s : State) : Result :=
  let n := partOfStack stack
  let ck := ckOf stack chan
  match recovAt s n with
  | none => .next s
  | some r =>
    if partState s n != 2 || !r.sampled || r.restored.contains ck then .next s
    else
      let s := putRecov n (some { r with restored := r.restored ++ [ck], oos := if pass then r.oos else some 1 }) s
      .next (if pass then s else logErr pgFlt 1 0x03 stack (trainFail ck s))

/-- Everything that RESETTING waits for has come (R452, R454). -/
def resetReady (s : State) (n : Nat) : Bool :=
  partState s n = 2 &&
    (recovAt s n).any fun r => r.sampled && (chansOf n).all fun ck => r.restored.contains ck || (chanAt s ck).st = .failed

/-- The core clock of a partition goes to the setting that the others hold (R491, R492). -/
def resumeClock (n : Nat) (s : State) : State :=
  wri 0x2050 .clkCoreTgt n (if s.clamp.isSome then 0 else min s.coreSet (rd s 0x2050 .clkClkMax)) s

/-- A recovery ends (R447, R448, R450): how long it took is free. -/
def recoveryEnd (n : Nat) (s : State) : State :=
  let r := (recovAt s n).getD {}
  let d := freshVal s % 2 ^ 32
  let s := wr pgFlt .fltLastRecoveryNs d (putResetGo n 0 (putRecov n none (putPartState n 0 (freshNext s))))
  ledger pgFlt 0x80 (n + r.src * 2 ^ 2 + r.code * 2 ^ 16 + d * 2 ^ 32) s

/-- RESETTING ends (R452, R454, R462, R465): replay starts, or the partition goes out of service. -/
def resetDone (n : Nat) (s : State) : State :=
  let r := (recovAt s n).getD {}
  let spent : Bool := rd s pgFlt .fltEscLimit ≤ rdi s pgFlt .fltResetsWin n
  match r.oos with
  | some cause => goOos n cause s
  | none =>
    let s := raise pgFlt 17 (resumeClock n (channelsUp n s))
    if r.commanded then
      serveChannels n (opsResume n true (opsReset n (putResetGo n 0 (putRecov n none (putPartState n 0 s)))))
    else if spent then goOos n 0 s
    else
      let s := putPartState n 3 s
      serveChannels n (if (awaiting s n).isEmpty then opsResume n true (recoveryEnd n s) else opsResume n false s)

/-- PART_RESET_DONE. -/
def execPartResetDone (n : Nat) (s : State) : Result := if resetReady s n then .next (resetDone n s) else .next s

/-- A device arrival that was withdrawn is made again (R458), where the barrier is still initialised. -/
def rejoin (id : Nat) (a : SplitGen) (s : State) : State :=
  if !a.withdrawn then s
  else
    let x := ctxAt s id
    let b := barAt s 4 a.idx
    let others := x.gens.filter fun (g : SplitGen) => g.k != a.k
    if b.n = 0 then putCtx id { x with gens := others } s
    else
      let y : SplitGen := { a with gen := b.gen, withdrawn := false }
      barArrive 4 a.idx (some (id, absWb x qSy a.k)) (putCtx id { x with gens := others ++ [y] } s)

/-- A context is replayed (R448, R451, R458). -/
def replayCtx (id : Nat) (s : State) : State :=
  let s := (ctxAt s id).gens.foldl (fun t a => rejoin id a t) s
  let x := ctxAt s id
  let r := (runAt s x.run).getD {}
  let k := 2 * (id / 4) + x.slot
  let s := if (pmAt s k).st = .ready then putPm k { pmAt s k with st := .active } s else s
  let s := putCtx id { x with journal := 1, noReplay := 0, intr := none } s
  ledger pgFlt 0x81 (id + r.sess * 2 ^ 16 + r.tag * 2 ^ 32) (count pgFlt .fltReplayed 1 s)

/-- The replay of one context is decided (R458, R460). -/
def replayOne (id : Nat) (s : State) : State :=
  let x := ctxAt s id
  if x.st = .halted || x.st = .free then dropJournal id s
  else if x.noReplay != 0 then endNotReplayed id x.noReplay (noteNotReplayed id x.noReplay s)
  else replayCtx id s

/-- CTX_REPLAYED (R458, R460): the last one ends the recovery (R450). -/
def execCtxReplayed (core ctx : Nat) (s : State) : Result :=
  let n := corePart core
  let id := ctxId core ctx
  if partState s n != 3 || (ctxAt s id).journal != 2 then .next s
  else
    let s := replayOne id s
    .next (if (awaiting s n).isEmpty then opsResume n true (recoveryEnd n s) else s)

/-- READMIT bit `n` (R447, R521): it acts only on a partition out of service. -/
def readmit (n : Nat) (s : State) : State :=
  if partState s n = 4 then wr pgFlt .fltReadmit (setBits (rd s pgFlt .fltReadmit) n n 1) s else s

/-- READMIT. -/
def execReadmit (n : Nat) (s : State) : Result := .next (readmit n s)

/-- The contents of a channel's DRAM are undefined from here on (R521). -/
def channelLost (ck : Nat) (s : State) : State :=
  if 384 ≤ ck then s else
  { s with memGens := SMap.set (fun _ => 0) s.memGens ck (SMap.get (fun _ => 0) s.memGens ck + 1)
           dram := s.dram.filter fun e => chanKey (e.1 / 32) != ck, dramChk := s.dramChk.filter fun e => chanKey e.1 != ck }

/-- The rows of two lists, those of both listed once. -/
def mergeRows (a b : List Nat) : List Nat := a ++ b.filter fun r => !a.contains r

/-- Repairs of the log that `p` selects are made again, and REPAIRS of every stack counts the rows that are remapped (R377, R378, R518). -/
def reapply (p : Nat → Bool) (s : State) : State :=
  forUpto 12 (fun d t => wri pgFlt .fltRepairs (mcOf d).page (t.remaps.filter fun r => r / 2 ^ 26 = d).length t)
    { s with remaps := mergeRows s.remaps (s.repairLog.filter p) }

/-- The channels of a partition train at its re-admission (R347, R350, R521): `bad` lists those that do not. One that was FAILED holds
undefined contents. -/
def trainAgain (n : Nat) (bad : List Nat) (s : State) : State :=
  (chansOf n).foldl (fun t ck =>
    if bad.contains ck then trainFail ck t
    else if (chanAt t ck).st = .failed then putChan ck { chanAt t ck with st := .normal } (channelLost ck t)
    else t) s

/-- A partition is re-admitted (R521). -/
def readmitted (n : Nat) (s : State) : State :=
  let s := reapply (fun r => r / 65536 / 32 / 96 = n) s
  let s := (ctxsOf n).foldl (fun t id => if (ctxAt t id).st = .free then t else dropJournal id t) (putSerai n {} (channelsUp n s))
  let s := wri pgFlt .fltResetsWin n 0 (resumeClock n (putPartState n 0 s))
  serveChannels n (serviceLevel s)

/-- READMIT_DONE (R347, R521): `selfTest` is true where the memory and core self-test passes, and `failChans` lists the channels of the
partition that do not train. A training failure is cause 1, a failed self-test cause 3. -/
def execReadmitDone (n : Nat) (selfTest : Bool) (failChans : List Nat) (s : State) : Result :=
  if partState s n != 4 || bit (rd s pgFlt .fltReadmit) n = 0 then .next s
  else
    let bad := failChans.filter fun ck => ck / 96 = n
    let s := trainAgain n bad (wr pgFlt .fltReadmit (setBits (rd s pgFlt .fltReadmit) n n 0) s)
    .next (if !bad.isEmpty then ledger pgFlt 0x83 (n + 1 * 4) s else if selfTest then readmitted n s else ledger pgFlt 0x83 (n + 3 * 4) s)

/-- A masked spine fault (R447, R448, R463). -/
def spineMasked (cycle : Nat) (s : State) : State :=
  ledger pgFlt 0x84 (cycle % 2 ^ 32) (raise pgFlt 20 (logErr pgFlt 0 0x02 0 (count pgFlt .fltSpineMismatch 1 s)))

/-- SPINE_SINGLE_FAULT (R463): of a comparator or of one copy. A further one during a resync, and the loss of the second comparator, are
fatal to the device. -/
def execSpineSingleFault (comparator : Bool) (cycle : Nat) (s : State) : Result :=
  if rd s pgFlt .fltSpineResync = 1 || (comparator && s.compBad) then .next (deviceReset s)
  else if comparator then .next { spineMasked cycle s with compBad := true }
  else .next (wr pgFlt .fltSpineResync 1 (spineMasked cycle s))

/-- SPINE_RESYNC_DONE (R463). -/
def execSpineResyncDone (s : State) : Result := .next (wr pgFlt .fltSpineResync 0 s)

/-- SPINE_STORAGE_ERROR (R464): an uncorrectable error in a journal ends its run, any other resets the device. -/
def execSpineStorageError (journal : Option Nat) (s : State) : Result :=
  match journal with
  | none => .next (deviceReset s)
  | some id =>
    let x := ctxAt s id
    if 640 ≤ id || x.st = .free || x.journal = 0 then .next s
    else
      let i := x.intr.orElse fun _ => (List.range 8).findSome? fun q => (x.q q).live.head?.map fun w => (q, absWb x q w.k)
      let n := corePart (id / 4)
      let s := endNotReplayed id 1 (noteNotReplayed id 1 (putCtx id { x with intr := i } s))
      .next (if partState s n = 3 && (awaiting s n).isEmpty then opsResume n true (recoveryEnd n s) else s)

/-- DEVICE_RESET (R467): a fault fatal to the device. -/
def execDeviceReset (s : State) : Result := .next (deviceReset s)

/-- ESC_WINDOW_EXPIRE (R465). -/
def execEscWindowExpire (n : Nat) (s : State) : Result :=
  if s.winOpen.contains n then .next (wri pgFlt .fltResetsWin n 0 { s with winOpen := s.winOpen.filter (· != n) }) else .next s

end Sys2Proof.Machine
end

