-- ==== Sys2Proof/Machine/Power.lean ====
section
/-!
DEFINITION. Power states (R478-R483), the input, the limit ladder and the fast clamp (R487-R493), clocks (R494-R496), temperature
sensing and its limits (R497-R505).
-/

namespace Sys2Proof.Machine

/-- Page of the power unit. -/
abbrev pgPwr : Nat := 0x2040
/-- Page of the thermal unit. -/
abbrev pgThm : Nat := 0x2048
/-- Page of the clock unit. -/
abbrev pgClk : Nat := 0x2050

/-- What an entry to P1-P4 requires (R480). -/
def psEntryOk (s : State) : Bool :=
  s.ctxs.all (fun e => e.2.st = .free) && s.loadQ.isEmpty && s.loading.isNone &&
    (List.range 4).all fun n => partState s n = 0 || partState s n = 4

/-- A transition to `t` begins; the entry to P3 sends LEAVE on every port (R479). -/
def psBegin (t : Nat) (s : State) : State :=
  let s := if t = 3 && speaks s then sendAll 0x33 s else s
  psStart t s

/-- A request is over with a result; PS_GO reads 0 (R486). -/
def psResult (r : Nat) (s : State) : State := wr pgPwr .pwrPsGo 0 (wr pgPwr .pwrPsResult r s)

/-- A power-state request (R480): 0 accepted, 4 BUSY. A refused one leaves the PS_GO of a transition in progress. -/
def psRequest (t : Nat) (s : State) : Nat × State :=
  if psMoving s || (t != 0 && t != pstate s && !psEntryOk s) then (4, wr pgPwr .pwrPsResult 1 s)
  else if pstate s = t then (0, psResult 0 s)
  else if pstate s = 4 then (0, putStage 2 (psStart t s))
  else (0, psBegin t s)

/-- PS_GO (R480, R486). -/
def psGo (s : State) : State :=
  let r := psRequest (rd s pgPwr .pwrPstateReq) (wr pgPwr .pwrPsGo 1 s)
  if r.1 = 0 then r.2 else wr pgPwr .pwrPsGo 0 r.2

/-- PS_GO. -/
def execPsGo (s : State) : Result := .next (if rd s pgPwr .pwrPsGo = 1 then s else psGo s)

/-- D3HOT (R480): both functions in D3hot request P3. -/
def execD3hot (link : Nat) (s : State) : Result :=
  let s := { s with d3 := if s.d3.contains link then s.d3 else s.d3 ++ [link] }
  .next (if s.d3.contains 0 && s.d3.contains 1 then (psRequest 3 s).2 else s)

/-- D0 (R480): either function requests P0. -/
def execD0 (link : Nat) (s : State) : Result :=
  let s := { s with d3 := s.d3.filter (· != link) }
  .next (if pstate s = 0 then s else (psRequest 0 s).2)

/-- The cores, their engines and scratchpads lose power (R478, R483). -/
def coresOff (s : State) : State :=
  { s with spad := [], spadChk := [], spadGen := s.spadGen + 1, spads := [], pms := [], engines := [] }

/-- The partitions lose power, and lasers and ports go dark (R479, R483). -/
def partsOff (s : State) : State :=
  let s := forUpto 4 (fun n t => putSerai n {} (droverReset n t)) (coresOff s)
  let s := forUpto 4 (fun b t => if cartState t b = 3 then setCart b 2 t else t) s
  forUpto 32 (fun p t => if portState t p = 0 || portState t p = 1 || portState t p = 6 then t else leaveStream p 1 t) s

/-- The device ends in P4 (R483, R504): a device reset after which only the management controller has power. -/
def enterP4 (s : State) : State :=
  let s := { deviceReset s with remaps := [] }
  raise pgPwr 16 (putStage 1 (wr pgPwr .pwrPstate 4 (wr pgPwr .pwrPstateTgt 4 s)))

/-- The device is in power state `t` (R478, R483). -/
def psEnter (t : Nat) (s : State) : State :=
  match t with
  | 4 => enterP4 s
  | 3 => raise pgPwr 16 (wr pgPwr .pwrPstate 3 (partsOff s))
  | 2 => raise pgPwr 16 (wr pgPwr .pwrPstate 2 (coresOff s))
  | _ => raise pgPwr 16 (wr pgPwr .pwrPstate t s)

/-- The device is back in P0 (R480, R482, R486): a request that passes through P0 goes on. -/
def psExit (s : State) : State :=
  let s := measure pgPwr .pwrExitUs 0 (psEnter 0 s)
  let s := forUpto 4 (fun n t => opsResume n (partState t n != 3) t) (epochSettle s)
  match s.psNext with
  | none => psResult 0 s
  | some t =>
    let s := { s with psNext := none }
    if psEntryOk s then psBegin t s else psResult 1 s

/-- PSTATE_DONE (R478-R483): a transition ends; from P4 not before the device is ready. -/
def execPstateDone (s : State) : Result :=
  let t := rd s pgPwr .pwrPstateTgt
  if t = pstate s then .next s
  else if t != 0 then .next (psResult 0 (psEnter t s))
  else if pstate s = 4 && bootStage s != 9 then .next s
  else .next (psExit s)

/-- PWR PART_OOS bit `n` (R465, R486): discarded while OOS_EN = 0. -/
def pwrPartOos (n : Nat) (s : State) : State := if rd s pgPwr .pwrOosEn = 1 then hostOos n s else s

/-- PART_OOS of the PWR page. -/
def execPwrPartOos (n : Nat) (s : State) : Result := .next (pwrPartOos n s)

/-- The limit of step `k` in watts (R490). -/
def stepWatts (k : Nat) : Nat := 3600 - 180 * k

/-- The lowest step whose limit does not exceed what 80 A carry at `mv` (R487). -/
def supplyStep (mv : Nat) : Nat := ((List.range 16).find? fun k => stepWatts k * 1000 ≤ mv * 80).getD 15

/-- TARGET_STEP (R490). -/
def targetStep (s : State) : Nat :=
  [Fld.pwrHostStep, .pwrMgmtStep, .pwrThermStep, .pwrSupplyStep].foldl (fun m f => max m (rd s pgPwr f)) 0

/-- A shutdown of the thermal path is over: what it captured is there to be read, and it counts as a trip (R504, R507; log entry 37). -/
def thermalShutdown (supply : Bool) (s : State) : State :=
  let s := enterP4 s
  count pgThm .thmTrips 1 (if supply then logErr pgPwr 2 0x01 0 s else logErr pgThm 2 0x03 0 s)

/-- SUPPLY_UNDERVOLTAGE (R487). -/
def execSupplyUndervoltage (s : State) : Result :=
  .next (raise pgPwr 18 (wr pgPwr .pwrSupplyStep 15 { s with supplyLow := true }))

/-- SUPPLY_RECOVERED (R487). -/
def execSupplyRecovered (mv : Nat) (s : State) : Result :=
  if s.supplyLow then .next (wr pgPwr .pwrSupplyStep (supplyStep mv) { s with supplyLow := false }) else .next s

/-- SUPPLY_COLLAPSE (R487, R504). -/
def execSupplyCollapse (s : State) : Result := .next (thermalShutdown true s)

/-- OVERVOLTAGE (R487): the module loses power. -/
def execOvervoltage (s : State) : Result := .next (powerLoss s)

/-- Partitions that enforcement moves: in service, not resetting, not held (R491, R492, R502). -/
def clocked (s : State) (n : Nat) : Bool := partState s n != 2 && partState s n != 4 && !s.partHold.contains n

/-- FAST_CLAMP (R491): every such core clock is divided to 0.6 GHz or less, and heads for 0.6 GHz undivided. -/
def execFastClamp (s : State) : Result :=
  if s.clamp.isSome then .next s
  else
    let s := forUpto 4 (fun n t =>
      if partState t n = 2 then t
      else
        let d := (rdi t pgClk .clkCoreStep n + 11) / 6
        wri pgClk .clkCoreTgt n 0 { t with divided := SMap.set (fun _ => 0) t.divided n (if d = 1 then 0 else d) }) s
    .next (raise pgPwr 19 { s with clamp := some false })

/-- FAST_CLAMP_RELEASE (R491): the current is at most 76 A, and EFF_STEP has moved once. -/
def execFastClampRelease (s : State) : Result := .next (if s.clamp = some true then { s with clamp := none } else s)

/-- RAIL_FAULT (R467, R488). -/
def execRailFault (s : State) : Result := .next (deviceReset s)

/-- HOST_STEP_WRITE (R490). -/
def execHostStepWrite (value : Nat) (s : State) : Result := .next (wr pgPwr .pwrHostStep value s)

/-- STEP_MOVE (R490, R491): EFF_STEP moves one step toward TARGET_STEP. -/
def execStepMove (s : State) : Result :=
  let e := rd s pgPwr .pwrEffStep
  let t := targetStep s
  if pstate s != 0 || e = t then .next s
  else .next (raise pgPwr 20 (wr pgPwr .pwrEffStep (if e < t then e + 1 else e - 1) { s with clamp := s.clamp.map fun _ => true }))

/-- One setting lower, in the order of R491. -/
def ladderDown (s : State) : State :=
  if 0 < s.coreSet then { s with coreSet := s.coreSet - 1 }
  else if 1 < rd s pgPwr .pwrDuty then wr pgPwr .pwrDuty (rd s pgPwr .pwrDuty - 1) s
  else if rd s pgPwr .pwrBuGap < 70 then wr pgPwr .pwrBuGap (rd s pgPwr .pwrBuGap + 1) s
  else s

/-- One setting higher, in the reverse order, up to CLK_MAX (R491). -/
def ladderUp (s : State) : State :=
  if 0 < rd s pgPwr .pwrBuGap then wr pgPwr .pwrBuGap (rd s pgPwr .pwrBuGap - 1) s
  else if rd s pgPwr .pwrDuty < 8 then wr pgPwr .pwrDuty (rd s pgPwr .pwrDuty + 1) s
  else if s.coreSet < rd s pgClk .clkClkMax then { s with coreSet := s.coreSet + 1 }
  else s

/-- The comparison of one millisecond (R491). -/
def ladder (watts : Nat) (s : State) : State :=
  let limit := stepWatts (rd s pgPwr .pwrEffStep)
  let s := { s with coreSet := min s.coreSet (rd s pgClk .clkClkMax) }
  if limit < watts then ladderDown { s with lowMs := 0 }
  else if watts + 120 ≤ limit then
    if 4 ≤ s.lowMs then ladderUp { s with lowMs := 5 } else { s with lowMs := s.lowMs + 1 }
  else { s with lowMs := 0 }

/-- Core clocks follow the ladder, upward one step at a time (R491, R495). -/
def clocksFollow (s : State) : State :=
  forUpto 4 (fun n t =>
    if clocked t n then
      wri pgClk .clkCoreTgt n (if t.clamp.isSome then 0 else min t.coreSet (rdi t pgClk .clkCoreTgt n + 1)) t
    else t) s

/-- POWER_ENFORCE (R487, R489, R491): the averages of one millisecond, then the ladder, in P0. -/
def execPowerEnforce (inputW mv ca : Nat) (subs : List Nat) (energy : Nat) (s : State) : Result :=
  let eight := (List.range 8).map fun i => subs.getD i 0
  let s := wr pgPwr .pwrInputW inputW (wr pgPwr .pwrInputMv mv (wr pgPwr .pwrInputCa ca (count pgPwr .pwrEnergyMj energy s)))
  let s := (eight ++ [inputW - eight.sum]).zipIdx.foldl (fun t e => wri pgPwr .pwrSubW e.2 e.1 t) s
  let s := wr pgPwr .pwrSupplyStep (if s.supplyLow then 15 else supplyStep mv) s
  .next (if pstate s = 0 then clocksFollow (ladder inputW s) else s)

/-- LIMIT_UNMET (R493): the lowest settings have not been enough for 100 ms. -/
def execLimitUnmet (s : State) : Result :=
  if pstate s = 0 && s.coreSet = 0 && rd s pgPwr .pwrDuty = 1 && rd s pgPwr .pwrBuGap = 70 &&
      stepWatts (rd s pgPwr .pwrEffStep) < rd s pgPwr .pwrInputW then .next (raise pgPwr 17 s) else .next s

/-- PLL_RELOCK_DONE (R491, R495): the partition switches to its relocked PLL. -/
def execPllRelockDone (n : Nat) (s : State) : Result :=
  if s.divided.any fun e => e.1 = n then
    .next (wri pgClk .clkCoreStep n 0 { s with divided := s.divided.filter fun e => e.1 != n })
  else if partState s n = 2 then .next s
  else .next (wri pgClk .clkCoreStep n (rdi s pgClk .clkCoreTgt n) s)

/-- Insert a reading into a rising list. -/
def insertInt (x : Int) : List Int → List Int
  | [] => [x]
  | y :: ys => if x ≤ y then x :: y :: ys else y :: insertInt x ys

/-- Twice the median of readings (log entry 38); none without any. -/
def median2 (l : List Int) : Option Int :=
  let t := l.foldl (fun m x => insertInt x m) []
  if t.isEmpty then none else some (t.getD ((t.length - 1) / 2) 0 + t.getD (t.length / 2) 0)

/-- A BROKEN sensor is found (R498): captured, and recorded under a TYPE that the spec does not give (log entry 38). -/
def sensBroken (i : Nat) (s : State) : State :=
  let s := putSens i { sensAt s i with broken := true } s
  let ty := 0x80 + freshVal s % 128
  raise pgThm 18 (ledger pgThm ty i (freshNext (logErr pgThm 1 0x01 i s)))

/-- One sensor takes its raw reading (R498): out of range, or a step of more than 10 °C, is BROKEN. -/
def sensTake (i : Nat) (raw : Int) (s : State) : State :=
  let x := sensAt s i
  let bad : Bool := raw < -160 || 600 < raw || (x.seen && (40 < raw - x.raw || 40 < x.raw - raw))
  let s := putSens i { x with raw := raw, seen := true } s
  if bad && !x.broken then sensBroken i s else s

/-- One sensor is compared with its OK neighbours (R498). -/
def sensCompare (i : Nat) (s : State) : State :=
  let x := sensAt s i
  if x.broken then s
  else
    match median2 ((okNbrs s i).map fun j => (sensAt s j).raw) with
    | none => putSens i { x with far := 0 } s
    | some m =>
      let off := 2 * x.raw - m
      if 120 < off || off < -120 then
        let s := putSens i { x with far := x.far + 1 } s
        if x.far + 1 = 64 then sensBroken i s else s
      else putSens i { x with far := 0 } s

/-- The hottest and the coldest OK reading of a part: what limit actions rest on (R499). -/
def partOk (s : State) (p : Nat) : Option (Int × Int) :=
  match ((sensOfPart s.variant p).filter fun i => !(sensAt s i).broken).map fun i => (sensAt s i).raw with
  | [] => none
  | x :: xs => some (xs.foldl max x, xs.foldl min x)

/-- The reading below which a part's limit action ends (R500). -/
def releaseAt (p : Nat) : Int := 4 * (if p < 4 then 95 else if 5 ≤ p && p < 17 then 90 else if 17 ≤ p && p < 25 then 80 else 0)

/-- A part is at its limit (R500): above it, or still above the reading that releases it. -/
def atLimit (s : State) (p : Nat) (was : Bool) : Bool :=
  match partOk s p with
  | none => was
  | some (hot, _) => limitAt p ≤ hot || (was && 0 < releaseAt p && releaseAt p < hot)

/-- A part's new condition, with the interrupts and records of what it has entered (R500, R507). -/
def partJudge (p : Nat) (s : State) : State :=
  let old := SMap.get (fun _ => 0) s.partCond p
  let thr : Bool := throttleAt s p ≤ partHot s p
  let lim := atLimit s p (bit old 1 = 1)
  let bl := partBlind s p
  let s := { s with partCond := SMap.set (fun _ => 0) s.partCond p ((if thr then 1 else 0) + (if lim then 2 else 0) + (if bl then 4 else 0)) }
  let s := if thr && bit old 0 = 0 then raise pgThm 16 s else s
  let s := if lim && bit old 1 = 0 then raise pgThm 17 (logErr pgThm 1 0x02 p s) else s
  if bl && bit old 2 = 0 then raise pgThm 19 s else s

/-- A thermal hold of a partition begins or ends (R502): on release its clock restarts at 0.6 GHz. -/
def partLimit (n : Nat) (s : State) : State :=
  let hot := bit (SMap.get (fun _ => 0) s.partCond n) 1 = 1
  if hot && !s.partHold.contains n then count pgThm .thmTrips 1 { s with partHold := s.partHold ++ [n] }
  else if !hot && s.partHold.contains n then
    resumeClock n (wri pgClk .clkCoreStep n 0 { s with partHold := s.partHold.filter (· != n) })
  else s

/-- A stack hold begins or ends (R500, R503): on release the held requests are served. -/
def stackLimit (d : Nat) (s : State) : State :=
  let hot : Bool := bit (SMap.get (fun _ => 0) s.partCond (5 + d)) 1 = 1
  let cold : Int := ((partOk s (5 + d)).map Prod.snd).getD 8
  if (hot || cold < 0) && !s.stackHold.contains d then count pgThm .thmTrips 1 { s with stackHold := s.stackHold ++ [d] }
  else if !hot && 8 ≤ cold && s.stackHold.contains d then
    forUpto 32 (fun c t => serveChan (ckOf d c) t) { s with stackHold := s.stackHold.filter (· != d) }
  else s

/-- The refresh rate of a stack follows its dies (R340, R346, R499), and a move of 8 °C makes its channels due for recalibration (R348). -/
def stackRates (d : Nat) (s : State) : State :=
  let p := (mcOf d).page
  let hot := (hottest ((sensOfPart s.variant (5 + d)).map (sensRead s))).getD 0
  let was : Bool := qosCap s p < qosSum s p
  let s := if 340 < hot || partBlind s (5 + d) then qosEdge p was (wr p .mcsRef2x 1 s) else if hot < 332 then wr p .mcsRef2x 0 s else s
  forUpto 32 (fun c t =>
    let ch := chanAt t (ckOf d c)
    let off := stackHot t d - ch.recalTemp
    if ch.st = .normal && !ch.recalDue && !ch.recal && (32 ≤ off || off ≤ -32) then recalDue (ckOf d c) false t else t) s

/-- A partition's PLLs recalibrate on a move of 20 °C (R505). -/
def pllCheck (n : Nat) (s : State) : State :=
  let t := partHot s n
  let last := SMap.get (fun _ => -1000000) s.pllTemp n
  let keep (u : State) : State := { u with pllTemp := SMap.set (fun _ => -1000000) u.pllTemp n t }
  if last = -1000000 then keep s
  else if 80 ≤ t - last || 80 ≤ last - t then count pgClk .clkPllRecals 1 (keep s) else s

/-- A cartridge's case temperature (R385, R500). -/
def bayTemp (b : Nat) (s : State) : State :=
  let i := 456 + 2 * b
  let s := if rd s (bayPage b) .bayPresent = 1 then wr (bayPage b) .bayCaseC (ofSigned 8 ((sensAt s i).raw / 4)) s else s
  let st := cartState s b
  if !(sensAt s i).broken && 300 ≤ (sensAt s i).raw && st != 0 && st != 6 then cartFault b 1 s else s

/-- A part is at a limit whose action is a thermal shutdown (R500). -/
def mustShut (s : State) : Bool :=
  let hot (p : Nat) (lim : Int) : Bool := (partOk s p).any fun r => 4 * lim ≤ r.1
  hot 4 105 || hot 37 100 || (List.range 8).any fun b => hot (17 + b) 95 || hot (25 + b) 95

/-- SENSOR_SAMPLE (R497-R505): every present sensor takes the reading given for it, then parts are judged and their limits act. -/
def execSensorSample (raws : List Int) (s : State) : Result :=
  let is := (List.range 476).filter (sensPresent s.variant)
  let board := (sensAt s 470).raw
  let s := is.foldl (fun t i => sensTake i (raws.getD i (sensAt t i).raw) t) s
  let s := is.foldl (fun t i => sensCompare i t) s
  let s := if (sensAt s 470).raw = board then s else measure pgClk .clkTcxoComp 0 s
  let s := forUpto 38 partJudge s
  if mustShut s && pstate s != 4 then .next (thermalShutdown false s)
  else
    let s := forUpto 4 partLimit s
    let s := forUpto 12 (fun d t => stackRates d (stackLimit d t)) s
    .next (forUpto 4 bayTemp (forUpto 4 pllCheck s))

/-- HOLD_TIMEOUT (R502, R503): a hold has lasted 1 s. -/
def execHoldTimeout (s : State) : Result :=
  if s.partHold.isEmpty && s.stackHold.isEmpty then .next s else .next (thermalShutdown false s)

/-- THERM_STEP_RAISE (R501). -/
def execThermStepRaise (s : State) : Result :=
  let k := rd s pgPwr .pwrThermStep
  if k < 15 && (List.range 38).any fun p => decide (throttleAt s p ≤ partHot s p) then .next (wr pgPwr .pwrThermStep (k + 1) s)
  else .next s

/-- THERM_STEP_LOWER (R501). -/
def execThermStepLower (s : State) : Result :=
  let k := rd s pgPwr .pwrThermStep
  if 0 < k && (List.range 38).all fun p => decide (partHot s p ≤ throttleAt s p - 20) then .next (wr pgPwr .pwrThermStep (k - 1) s)
  else .next s

/-- SENS_CLEAR (R498, R507): the selected sensor is OK and is judged again. -/
def sensClear (s : State) : State :=
  let i := rd s pgThm .thmSensSel
  if sensPresent s.variant i then putSens i { raw := (sensAt s i).raw } s else s

/-- SENS_CLEAR. -/
def execSensClear (s : State) : Result := .next (sensClear s)

/-- REF_LOSS (R496, R508): a host reference takes its link down, the loss of the TCXO is fatal to the device. -/
def execRefLoss (which : Nat) (s : State) : Result :=
  let r := rd s pgClk .clkRefOk
  let s := if bit r which = 1 then raise pgClk 16 (wr pgClk .clkRefOk (setBits r which which 0) s) else s
  if which < 2 then execLinkDown which s else if which = 2 then .next (deviceReset s) else .next s

/-- REF_RESTORED (R496, R508): a host link whose reference is back trains again. -/
def execRefRestored (which : Nat) (s : State) : Result :=
  let s := wr pgClk .clkRefOk (setBits (rd s pgClk .clkRefOk) which which 1) s
  .next (if which < 2 && s.perst.contains which && phyOn s && linkState s which = 0 then putLink which 1 0 s else s)

end Sys2Proof.Machine
end

