-- ==== Sys2Proof/Machine/Security.lean ====
section
/-!
DEFINITION. The security engine and its SPDM responder (R468-R477, R485): sessions, keys, debug levels, life-cycle transitions,
measurements and UNLOCK_ALL. An answer leaves as `Msg.spdm`, code 0 for a response and 0xFF for ERROR (log entry 39).
-/

namespace Sys2Proof.Machine

/-- Page of the security engine. -/
abbrev pgSec : Nat := 0x2030

/-- LC_STATE (R468): 0 BLANK, 1 SECURED, 2 RMA, 3 DECOMMISSIONED. -/
def lcState (s : State) : Nat := rd s pgSec .secLcState

/-- The management firmware runs (R509, R512). -/
def mgmtUp (s : State) : Bool := bootStage s != 0 && !s.romOnly

/-- A response. -/
def spdmAnswer (payload : List Byte) (s : State) : State := emit (.spdm 0 payload) s

/-- ERROR. -/
def spdmError (s : State) : State := emit (.spdm 0xFF []) s

/-- A session by number. -/
def spdmAt (s : State) (k : Nat) : Option SpdmSess := SMap.get (fun _ => none) s.spdm k

/-- Store or end a session. -/
def putSpdm (k : Nat) (x : Option SpdmSess) (s : State) : State := { s with spdm := SMap.set (fun _ => none) s.spdm k x }

/-- A completed session. -/
def spdmOpen (s : State) (k : Nat) : Option SpdmSess := (spdmAt s k).filter SpdmSess.finished

/-- The key of a role: 0 OWNER, 1 OPERATOR, 2 ATTEST. -/
def pskAt (s : State) (r : Nat) : Option (List Byte) := SMap.get (fun _ => none) s.psks r

/-- The key of a manifest slot. -/
def keyAt (s : State) (k : Nat) : Option (List Byte) := SMap.get (fun _ => none) s.keys k

/-- A key opens sessions of the role (R471): in BLANK, the TRANSPORT key opens OWNER's. -/
def rolePsk (s : State) (r : Nat) : Bool := (lcState s = 0 && r = 0) || (pskAt s r).isSome

/-- Consecutive failures of a role. -/
def failsOf (s : State) (r : Nat) : Nat := SMap.get (fun _ => 0) s.pskFails r

/-- Store them. -/
def putFails (r n : Nat) (s : State) : State := { s with pskFails := SMap.set (fun _ => 0) s.pskFails r n }

/-- A measured block changes (R474). -/
def measChange (s : State) : State := wr pgSec .secMeasGen (rd s pgSec .secMeasGen + 1) s

/-- GET_VERSION (R472): 1.3 only. -/
def execGetVersion (s : State) : Result := .next (if mgmtUp s then spdmAnswer [0x13] s else s)
/-- GET_CAPABILITIES (R472). -/
def execGetCapabilities (s : State) : Result := .next (if mgmtUp s then spdmAnswer [] s else s)
/-- NEGOTIATE_ALGORITHMS (R472). -/
def execNegotiateAlgorithms (s : State) : Result := .next (if mgmtUp s then spdmAnswer [] s else s)
/-- SPDM_UNSUPPORTED (R472): ERROR UnsupportedRequest. -/
def execSpdmUnsupported (s : State) : Result := .next (if mgmtUp s then emit (.spdm 0xFF [0x07]) s else s)

/-- PSK_EXCHANGE (R472): the hint names the role; the lowest free session number opens. -/
def execPskExchange (hint : Nat) (s : State) : Result :=
  let r := hint - 1
  if !mgmtUp s then .next s
  else if hint = 0 || 3 < hint || s.pskLocked.contains r || !rolePsk s r then .next (spdmError s)
  else match (List.range 4).find? fun k => (spdmAt s k).isNone with
  | none => .next (spdmError s)
  | some k => .next (spdmAnswer [BitVec.ofNat 8 k] (putSpdm k (some { role := r }) s))

/-- A PSK_FINISH that fails (R472): the eighth in a row locks the role. -/
def pskFailed (r : Nat) (s : State) : State :=
  let s := logErr pgSec 1 0x02 r s
  if 8 ≤ failsOf s r + 1 then putFails r 0 { s with pskLocked := if s.pskLocked.contains r then s.pskLocked else s.pskLocked ++ [r] }
  else putFails r (failsOf s r + 1) s

/-- PSK_FINISH (R472). -/
def execPskFinish (sess : Nat) (ok : Bool) (s : State) : Result :=
  match (spdmAt s sess).filter fun x => !x.finished with
  | none => .next (if mgmtUp s then spdmError s else s)
  | some x =>
    if ok then .next (spdmAnswer [] (putFails x.role 0 (putSpdm sess (some { x with finished := true }) s)))
    else .next (spdmError (pskFailed x.role (putSpdm sess none s)))

/-- A request whose only effect is its answer inside a session. -/
def spdmInside (sess : Nat) (s : State) : State :=
  if !mgmtUp s then s else if (spdmOpen s sess).isSome then spdmAnswer [] s else spdmError s

/-- KEY_UPDATE (R472). -/
def execKeyUpdate (sess : Nat) (s : State) : Result := .next (spdmInside sess s)
/-- HEARTBEAT (R472). -/
def execHeartbeat (sess : Nat) (s : State) : Result := .next (spdmInside sess s)
/-- HEARTBEAT_LAPSE (R472): the session ends. -/
def execHeartbeatLapse (sess : Nat) (s : State) : Result := .next (if (spdmOpen s sess).isSome then putSpdm sess none s else s)
/-- PSK_LOCKOUT_END (R472): 60 s have passed. -/
def execPskLockoutEnd (role : Nat) (s : State) : Result := .next { s with pskLocked := s.pskLocked.filter (· != role) }
/-- END_SESSION (R472). -/
def execEndSession (sess : Nat) (s : State) : Result :=
  .next (if (spdmOpen s sess).isSome then putSpdm sess none (spdmInside sess s) else spdmInside sess s)

/-- GET_MEASUREMENTS (R472, R474): inside a session; the digests' values are free. -/
def execGetMeasurements (sess index : Nat) (s : State) : Result :=
  if !mgmtUp s then .next s
  else if (spdmOpen s sess).isSome && 1 ≤ index && index ≤ 9 then
    .next (spdmAnswer (leBytes 48 (freshVal s)) (freshNext s))
  else .next (spdmError s)

/-- Answer of a vendor command (R473): 0 OK, 1 ROLE, 2 STATE, 3 BAD_ARG, 4 BUSY. -/
def vendorAnswer (r : Nat) (s : State) : State := spdmAnswer [BitVec.ofNat 8 r] s

/-- A vendor command (R473): inside a session, refused by role, then state, then argument; a refused one changes nothing. -/
def vendor (sess : Nat) (roles states : List Nat) (argOk : Bool) (act : State → State) (s : State) : State :=
  if !mgmtUp s then s
  else match spdmOpen s sess with
  | none => spdmError s
  | some x =>
    if !roles.contains x.role then vendorAnswer 1 s
    else if !states.contains (lcState s) then vendorAnswer 2 s
    else if !argOk then vendorAnswer 3 s
    else act s

/-- KEY_VALID or PSK_VALID changes where `changed` (R485); the measured state does in any case that `counts` (R474). -/
def keyChange (changed counts : Bool) (s : State) : State :=
  let s := if changed || counts then measChange s else s
  if changed then raise pgSec 17 s else s

/-- KEY_SET (R470, R473). -/
def execKeySet (sess slot : Nat) (key : List Byte) (s : State) : Result :=
  .next (vendor sess [0] [0, 1] (slot < 16 && key.length = 48) (fun s =>
    vendorAnswer 0 (keyChange (keyAt s slot).isNone true
      { s with keys := SMap.set (fun _ => none) s.keys slot (some key), setCount := s.setCount + 1 })) s)

/-- KEY_CLEAR (R470, R473). -/
def execKeyClear (sess slot : Nat) (s : State) : Result :=
  .next (vendor sess [0] [0, 1] (slot < 16) (fun s =>
    vendorAnswer 0 (keyChange (keyAt s slot).isSome false { s with keys := SMap.set (fun _ => none) s.keys slot none })) s)

/-- PSK_SET (R471, R473). -/
def execPskSet (sess which : Nat) (key : List Byte) (s : State) : Result :=
  .next (vendor sess [0] [0, 1] (which < 3 && key.length = 48) (fun s =>
    vendorAnswer 0 (keyChange (pskAt s which).isNone true
      { s with psks := SMap.set (fun _ => none) s.psks which (some key), setCount := s.setCount + 1 })) s)

/-- TEST_MODE of a unit returns to OFF, and the requests it held are served (R381, R476). -/
def testOff (page : Nat) (s : State) : State :=
  let s := wri pgFlt .fltTestMode page 0 s
  match (unitAt page).bind stackOfMc with
  | some d => serveChan (ckOf d (rdi s pgFlt .fltTestChan page)) s
  | none => s

/-- Units in a test mode. -/
def testUnits (s : State) : List Nat :=
  (s.regs.filter fun e => e.1 / 16384 = pgFlt * 1024 + Fld.fltTestMode.ctorIdx && e.2 != 0).map fun e => e.1 % 16384

/-- The debug level becomes `level` (R476, R485). -/
def setDebug (level : Nat) (s : State) : State :=
  let old := debugLevel s
  if old = level then s
  else
    let s := raise pgSec 16 (measChange (wr pgSec .secDbgLevel level s))
    if old = 2 then (testUnits s).foldl (fun t p => testOff p t) s else s

/-- DBG_SET (R473, R476). -/
def execDbgSet (sess level : Nat) (s : State) : Result :=
  .next (vendor sess [0] [0, 1] (level < 3) (fun s => vendorAnswer 0 (setDebug level s)) s)

/-- The transition is one of R468; to SECURED only while the OWNER key is set. -/
def lcAllowed (s : State) (target : Nat) : Bool :=
  match lcState s, target with
  | 0, 1 => (pskAt s 0).isSome
  | 0, 3 | 1, 2 | 1, 3 | 2, 3 => true
  | _, _ => false

/-- What a transition erases (R469): leaving SECURED or BLANK for RMA or DECOMMISSIONED, the keys, the segments, PIM DRAM and the
scratchpads. -/
def lcErase (target : Nat) (s : State) : State :=
  if target < 2 then s
  else
    { s with keys := [], psks := s.psks.filter fun e => e.1 = 2, zeroDue := true
             drovers := s.drovers.mapv {} fun _ d => { d with segs := [] } }

/-- An accepted LC_ADVANCE (R468, R469): every SPDM session ends, then the device resets. -/
def lcAdvance (target : Nat) (s : State) : State :=
  deviceReset { wr pgSec .secLcState target (lcErase target (vendorAnswer 0 s)) with spdm := [] }

/-- LC_ADVANCE (R468, R469, R473): DEV_ID confirms it. -/
def execLcAdvance (sess target devid : Nat) (s : State) : Result :=
  .next (vendor sess [0] [0, 1, 2] true (fun s =>
    if target ≤ 3 && !lcAllowed s target then vendorAnswer 2 s
    else if 3 < target || devid != devId then vendorAnswer 3 s
    else lcAdvance target s) s)

/-- SPDM PART_OOS (R465, R473). -/
def execSpdmPartOos (sess n : Nat) (s : State) : Result :=
  .next (vendor sess [0, 1] [0, 1, 2] (n < 4) (fun s => vendorAnswer 0 (hostOos n s)) s)

/-- The device came to P4 by a shutdown: what that captured is still there (R504). -/
def wasShut (s : State) : Bool :=
  (rd s pgThm .hdrErrValid = 1 && rd s pgThm .hdrErrCode = 3) || (rd s pgPwr .hdrErrValid = 1 && rd s pgPwr .hdrErrCode = 1)

/-- Every sensor reads at least 10 °C below its part's limit (R504). -/
def coolEnough (s : State) : Bool :=
  ((List.range 476).filter (sensPresent s.variant)).all fun i => decide (sensRead s i ≤ limitAt (partOfSens i) - 40)

/-- A power-state request of the management controller (R480, R504): 0 accepted, 4 BUSY. -/
def mgmtPstate (t : Nat) (s : State) : Nat × State :=
  if pstate s = 4 && wasShut s && !coolEnough s then (4, s) else psRequest t s

/-- SPDM PSTATE (R473, R480). -/
def execSpdmPstate (sess target : Nat) (s : State) : Result :=
  .next (vendor sess [0, 1] [0, 1, 2, 3] (target < 5) (fun s => let r := mgmtPstate target s; vendorAnswer r.1 r.2) s)

/-- The page lies in a domain that is in service (R477). -/
def domainServes (s : State) (p : Nat) : Bool := 4 ≤ domainOf p || partState s (domainOf p) != 4

/-- UNLOCK_ALL (R477, R485). -/
def unlockAll (s : State) : State :=
  if debugLevel s = 2 then
    { s with regs := s.regs.filter fun e =>
        !(e.1 / 16384 % 1024 = Fld.hdrLocked.ctorIdx && domainServes s (e.1 / 16384 / 1024)) }
  else logErr pgSec 1 0x01 0 (count pgSec .secDenied 1 s)

/-- UNLOCK_ALL. -/
def execUnlockAll (s : State) : Result := .next (unlockAll s)

end Sys2Proof.Machine
end

