-- ==== Sys2Proof/Machine/Service.lean ====
section
/-!
DEFINITION. Bring-up (R509-R512, R526, R529), firmware update and switching (R513-R515), and the management controls of R522. An answer
leaves as `Msg.pldm`: 0 success, 1 error, 0x80 not in update mode, 0x81 already in update mode (log entry 39).
-/

namespace Sys2Proof.Machine

/-- DRAM reads zero when LC_ADVANCE asked for it (R469, R512). -/
def zeroMemory (s : State) : State := if s.zeroDue then { s with dram := [], dramChk := [], memGens := [], zeroDue := false } else s

/-- The part of bring-up that restores the units of the partitions (R347, R375-R377, R510, R512): channels train, the repair log is
reapplied, a zero fill that is due runs. -/
def bringMemory (failChans failRows : List Nat) (s : State) : State :=
  let s := zeroMemory s
  let s := { reapply (fun _ => true) s with pllTemp := [] }
  let s := forUpto 384 (fun ck t =>
    let x : Chan := { chanAt t ck with st := .normal, recalTemp := stackHot t (ck / 32) }
    putChan ck x t) s
  let s := failChans.foldl (fun t ck => if ck < 384 then trainFail ck t else t) s
  failRows.foldl (fun t r => candidate r false t) s

/-- Partitions that fail training or self-test go out of service (R512): cause 1 or 3. -/
def bringParts (failChans failParts : List Nat) (s : State) : State :=
  forUpto 4 (fun n t =>
    let train := failChans.any fun ck => ck / 96 = n
    if train || failParts.contains n then
      goOos n (if train then 1 else 3) (wr pgMgt .mgtStPartFail (rd t pgMgt .mgtStPartFail ||| 2 ^ n) t)
    else t) s

/-- Bulk stacks mount (R312, R512): WRITING segments are FREE again, a stack that fails is OFFLINE. -/
def bringBulk (failBulk : List Nat) (s : State) : State :=
  let s := { s with drovers := s.drovers.mapv {} fun _ d => { d with segs := d.segs.filter fun x => x.2.st = .sealed } }
  let s := forUpto 8 blkSettle s
  failBulk.foldl (fun t b =>
    if b < 8 then wr pgMgt .mgtStBulkFail (rd t pgMgt .mgtStBulkFail ||| 2 ^ b) (wr (blkPage b) .blkBlkState 3 t) else t) s

/-- Components start their banks (R513, R515): the selected one, or the other where that fails verification. -/
def bringFirmware (cold : Bool) (bad : Nat) (s : State) : State :=
  forUpto 6 (fun c t =>
    if c = 0 && !cold then t
    else if bit bad c = 1 then
      let t := wr pgMgt .mgtFwRun (setBits (rd t pgMgt .mgtFwRun) c c (1 - bit (rd t pgMgt .mgtFwBank) c)) t
      ledger pgMgt 0x80 c (wr pgMgt .mgtFwFallback (setBits (rd t pgMgt .mgtFwFallback) c c 1) t)
    else fwRunNew c (wr pgMgt .mgtFwFallback (setBits (rd t pgMgt .mgtFwFallback) c c 0) t)) s

/-- Laser bays that hold a cartridge begin to warm, unless they have begun in a pass before (R385), and the host links train (R510). -/
def bringLinks (s : State) : State :=
  let s := forUpto 4 (fun b t =>
    let p := bayPage b
    if cartState t b = 0 && rd t p .bayPresent = 1 && rd t p .bayLatchClosed = 1 && rd t p .bayBayEn = 1 then startWarming b t else t) s
  forUpto 2 (fun l t => if t.perst.contains l && linkState t l = 0 then putLink l 1 0 t else t) s

/-- Bring-up may start or go on (R509): without power until now, after PWR_DIS, after a device reset or from P4, or waiting for a
temperature; not where only the boot ROM runs (R512). -/
def mayBring (s : State) : Bool :=
  bootStage s = 0 || (bootStage s = 1 && pstate s = 0 && !s.romOnly) || bootStage s = 2 || bootStage s = 10

/-- A PIM die reads below 0 °C (R500, R510). -/
def coldDie (s : State) : Bool :=
  ((List.range 192).map (128 + ·)).any fun i => sensPresent s.variant i && !(sensAt s i).broken && decide ((sensAt s i).raw < 0)

/-- POWER_ON (R509-R512): one pass of bring-up; `rail` and `spine` are true where those tests pass. Bit c of `fwBad` says that the
selected bank of component c fails verification, bit 6 that the other management image does too: then only the boot ROM runs. A
pass that goes on from WAIT_TEMP has its firmware. -/
def execPowerOn (rail spine : Bool) (fwBad : Nat) (failParts failBulk failChans failRows : List Nat) (s : State) : Result :=
  if !mayBring s then .next s
  else
    let cold := bootStage s ≤ 1
    if cold && bit fwBad 0 = 1 && bit fwBad 6 = 1 then .next (putStage 1 { s with romOnly := true })
    else
    let s := if bootStage s = 10 then s else bringFirmware cold fwBad { s with fwDone := [], fwSlots := [] }
    if !rail then .next (putStage 11 (wr pgMgt .mgtBootResult 3 s))
    else
      let s := wr pgClk .clkRefOk 0xF s
      if !spine then .next (putStage 11 (wr pgMgt .mgtBootResult 2 s))
      else if coldDie s then .next (putStage 10 (bringLinks s))
      else
        let s := bringBulk failBulk (bringParts failChans failParts (bringMemory failChans failRows s))
        let out := (List.range 4).any fun n => partState s n = 4
        .next (putStage 8 (bringLinks (wr pgMgt .mgtBootResult (if out then 1 else 0) s)))

/-- BOOT_READY (R509, R523). -/
def execBootReady (s : State) : Result :=
  if bootStage s != 8 then .next s
  else
    let bad := ((List.range 4).filter fun b => cartState s b = 6).map fun b => 2 ^ b
    .next (raise pgMgt 16 (putStage 9 (wr pgMgt .mgtStCartFail bad.sum (measure pgMgt .mgtBootMs 0 s))))

/-- The inactive bank of component `c`. -/
def otherBank (s : State) (c : Nat) : Nat := 1 - bit (rd s pgMgt .mgtFwBank) c

/-- The version field of a bank. -/
def verFld (bank : Nat) : Fld := if bank = 0 then .mgtFwVerA else .mgtFwVerB

/-- The bank that an update writes is empty (R514, R523). -/
def emptyBank (c : Nat) (s : State) : State := wri pgMgt (verFld (otherBank s c)) c 0 s

/-- PWR_DIS_ASSERT (R529): every rail is off, and what an update has written is empty. -/
def execPwrDisAssert (s : State) : Result :=
  let cs := (s.update.map fun u => u.verified ++ u.cur.toList).getD []
  .next (powerLoss (cs.foldl (fun t c => emptyBank c t) s))

/-- PWR_DIS_DEASSERT (R529): bring-up starts from t = 0. -/
def execPwrDisDeassert (s : State) : Result := .next (if bootStage s = 0 then putStage 1 s else s)

/-- MODULE_WITHDRAW (R526). -/
def execModuleWithdraw (s : State) : Result := .next (powerLoss s)

/-- A PLDM answer. -/
def pldmAnswer (code : Nat) (s : State) : State := emit (.pldm code 0) s

/-- PLDM is accepted (R514, R522): inside a session of role OWNER or OPERATOR in BLANK and SECURED, without one in RMA. -/
def pldmOk (s : State) (sess : Option Nat) : Bool :=
  mgmtUp s && match lcState s with
    | 0 | 1 => (sess.bind (spdmOpen s)).any fun x => x.role < 2
    | 2 => sess.isNone
    | _ => false

/-- The management controller answers firmware-update messages: its firmware, or its boot ROM alone (R512). -/
def fwAnswers (s : State) : Bool := mgmtUp s || s.romOnly

/-- PLDM for Firmware Update is accepted (R512, R514): by the boot ROM on the sideband alone. -/
def fwOk (s : State) (sess : Option Nat) : Bool := if s.romOnly then sess.isNone else pldmOk s sess

/-- REQUEST_UPDATE (R514). -/
def execRequestUpdate (sess : Option Nat) (s : State) : Result :=
  if !fwAnswers s then .next s
  else if !fwOk s sess then .next (pldmAnswer 1 s)
  else if rd s pgMgt .hdrStaged = 1 || s.update.isSome then .next (pldmAnswer 0x81 s)
  else .next (pldmAnswer 0 { s with update := some {} })

/-- A message of an update in progress. -/
def inUpdate (act : FwUpdate → State → State) (s : State) : State :=
  match s.update with
  | none => if fwAnswers s then pldmAnswer 0x80 s else s
  | some u => act u s

/-- PASS_COMPONENT_TABLE (R513, R514). -/
def execPassComponentTable (comps : List Nat) (s : State) : Result :=
  .next (inUpdate (fun u s =>
    if comps.all (· < 6) then pldmAnswer 0 { s with update := some { u with comps := comps } } else pldmAnswer 1 s) s)

/-- UPDATE_COMPONENT (R514): the inactive bank is written, and `sp0.mgt` loses its previous set. -/
def execUpdateComponent (comp : Nat) (s : State) : Result :=
  .next (inUpdate (fun u s =>
    if !u.comps.contains comp || u.cur.isSome || (!s.romOnly && bit (rd s pgMgt .mgtFwRun) comp = otherBank s comp) then pldmAnswer 1 s
    else
      let s := emptyBank comp (wr pgMgt .hdrPrevValid 0 { s with prevSet := s.prevSet.filter fun v => v.page != pgMgt })
      pldmAnswer 0 { s with update := some { u with cur := some comp, xfer := false, verified := u.verified.filter (· != comp) } }) s)

/-- TRANSFER_COMPLETE (R514). -/
def execTransferComplete (s : State) : Result :=
  .next (inUpdate (fun u s =>
    if u.cur.isSome then pldmAnswer 0 { s with update := some { u with xfer := true } } else pldmAnswer 1 s) s)

/-- VERIFY_COMPLETE (R514): the image's version shows, or its bank is empty. -/
def execVerifyComplete (ok : Bool) (version : Nat) (s : State) : Result :=
  .next (inUpdate (fun u s =>
    match u.cur.filter fun _ => u.xfer with
    | none => pldmAnswer 1 s
    | some c =>
      let v : FwUpdate := { u with cur := none, xfer := false, verified := if ok then u.verified ++ [c] else u.verified }
      let s := if ok then wri pgMgt (verFld (otherBank s c)) c version s else emptyBank c s
      pldmAnswer (if ok then 0 else 1) { s with update := some v }) s)

/-- ACTIVATE_FIRMWARE (R515): the new selectors are staged, and active at once where the request says so. -/
def execActivateFirmware (selfContained : Bool) (s : State) : Result :=
  .next (inUpdate (fun u s =>
    if u.cur.isSome || u.verified.isEmpty then pldmAnswer 1 s
    else
      let v := u.verified.foldl (fun v c => setBits v c c (otherBank s c)) (rd s pgMgt .mgtFwBank)
      let s := stageField pgMgt .mgtFwBank 0 v { s with update := none }
      pldmAnswer 0 (if selfContained then epochSettle (cfgActivate pgMgt 0 s) else s)) s)

/-- Units that switch a component (R513): queues, channels, bulk stacks, optical engines. -/
def fwUnits (comp : Nat) : Nat := match comp with | 2 => 1280 | 3 => 384 | _ => 8

/-- The partition of a unit that switches a component. -/
def fwPart (comp unit : Nat) : Nat := unit / (fwUnits comp / 4)

/-- The component's bank is selected and does not run yet. -/
def fwSwitching (s : State) (comp : Nat) : Bool := bit (rd s pgMgt .mgtFwBank) comp != bit (rd s pgMgt .mgtFwRun) comp

/-- The unit may switch now (R513): a channel when no bank sequence is queued or running and it is not frozen. -/
def fwMaySwitch (s : State) (comp unit : Nat) : Bool :=
  comp != 3 || (!seqActive (chanAt s unit) && (chanAt s unit).st != .frozen)

/-- A component has switched everywhere (R513, R515). -/
def fwFinish (comp : Nat) (s : State) : State :=
  let bank := bit (rd s pgMgt .mgtFwBank) comp
  let s := fwRunNew comp { s with fwDone := s.fwDone.filter fun e => e.1 != comp }
  epochSettle (measChange (ledger pgMgt 0x81 (comp + bank * 2 ^ 8) s))

/-- FW_SWITCH (R513, R515): one unit starts the new bank; units of partitions out of service do not wait. -/
def execFwSwitch (comp unit : Nat) (s : State) : Result :=
  if comp < 2 || 5 < comp || fwUnits comp ≤ unit || !fwSwitching s comp || !fwMaySwitch s comp unit then .next s
  else
    let s := { s with fwDone := if s.fwDone.contains (comp, unit) then s.fwDone else s.fwDone ++ [(comp, unit)] }
    let s := if comp = 3 then putChan unit { chanAt s unit with fwHold := false } s else s
    let s := if comp = 5 then forUpto 4 (fun q t => if portFlows t (4 * unit + q) then setPortState (4 * unit + q) 5 t else t) s else s
    .next (if (List.range (fwUnits comp)).all fun i => s.fwDone.contains (comp, i) || partState s (fwPart comp i) = 4
      then fwFinish comp s else s)

/-- FW_SWITCH_WAIT_EXPIRE (R513): after 100 ms the channel takes no new reservation before it has switched. -/
def execFwSwitchWaitExpire (stack chan : Nat) (s : State) : Result :=
  let ck := ckOf stack chan
  if fwSwitching s 3 && !s.fwDone.contains (3, ck) then .next (putChan ck { chanAt s ck with fwHold := true } s) else .next s

/-- PLDM state effecter 1 (R480, R522): the power state. -/
def execPldmPowerEffecter (sess : Option Nat) (target : Nat) (s : State) : Result :=
  if !mgmtUp s then .next s
  else if !pldmOk s sess || 4 < target then .next (pldmAnswer 1 s)
  else
    let r := mgmtPstate target s
    .next (pldmAnswer (if r.1 = 0 then 0 else 1) r.2)

/-- PLDM state effecter 2 (R465, R522): a partition out of service. -/
def execPldmOosEffecter (sess : Option Nat) (n : Nat) (s : State) : Result :=
  if !mgmtUp s then .next s
  else if !pldmOk s sess || 3 < n then .next (pldmAnswer 1 s)
  else .next (pldmAnswer 0 (hostOos n s))

/-- PLDM numeric sensors (R522): the temperatures in 0.25 °C, and INPUT_W as number 476. -/
def execPldmSensorRead (sess : Option Nat) (idx : Nat) (s : State) : Result :=
  if !mgmtUp s then .next s
  else if !pldmOk s sess || 476 < idx || (idx < 476 && !sensPresent s.variant idx) then .next (pldmAnswer 1 s)
  else .next (emit (.pldm 0 (if idx = 476 then rd s pgPwr .pwrInputW else sensRead s idx)) s)

end Sys2Proof.Machine
end

