-- ==== Sys2Proof/Machine/Views.lean ====
section
/-!
DEFINITION. What the computed fields of the unit pages read as: fields that no register holds (`view` rows of the tables), the
layer register sets (R198, R246, R284) and the scoreboard dump (R217).
-/

namespace Sys2Proof.Machine

/-- A condition as a field bit. -/
def flagBit (b : Bool) : Nat := if b then 1 else 0

/-- The bits `f 0` to `f (n - 1)` as one number. -/
def maskOf (n : Nat) (f : Nat → Bool) : Nat := ((List.range n).map fun i => if f i then 2 ^ i else 0).sum

/-- CTXS_STATE (R120, R426). -/
def CtxState.code : CtxState → Nat
  | .free => 0 | .binding => 1 | .running => 2 | .halted => 3

/-- CH_STATE (R350). -/
def ChState.code : ChState → Nat
  | .training => 0 | .normal => 1 | .frozen => 2 | .failed => 3

/-- KIND of a scoreboard entry (R217). -/
def SbKind.code : SbKind → Nat
  | .read => 1 | .write => 2 | .claimRead => 3 | .claimWrite => 4

/-- STATUS.RESETTING (R36): on a partition header only, the partition is in RESETTING, or loses its power in P3. -/
def resettingView (s : State) (u : UnitId) : Bool :=
  match u with
  | .part n => partState s n = 2 || (pstate s = 3 && partState s n != 4)
  | _ => false

/-- Header fields (R34, R36). -/
def headerView (s : State) (u : UnitId) (f : Fld) : Nat :=
  match f with
  | .hdrCtrlSync => flagBit (opRuns s u.page .sync)
  | .hdrCtrlFence => flagBit (opRuns s u.page .fence)
  | .hdrCtrlUnfence => flagBit (opRuns s u.page .unfence)
  | .hdrCtrlReset => flagBit (opRuns s u.page .reset)
  | .hdrOutOfService => flagBit (u.partition.any fun n => decide (partState s n = 4))
  | .hdrErrPending => rd s u.page .hdrErrValid
  | .hdrCfgStaged => rd s u.page .hdrStaged
  | .hdrResetting => flagBit (resettingView s u)
  | _ => 0

/-- The started descriptors of queue `q` of core `g` that have not completed. -/
def queueLive (s : State) (g q : Nat) : List Work := (List.range 4).flatMap fun c => ((ctxAt s (ctxId g c)).q q).live

/-- ENG_STATE of one queue (R122, R198): RUNNING while its active set is taken, DRAINING while only a tail is in flight, SPINNING
while contexts are placed and none is ready. -/
def queueState (s : State) (g q : Nat) : Nat :=
  if !(queueLive s g q).isEmpty then (if (engineAt s (8 * g + q)).busy then 1 else 3)
  else if (List.range 4).any fun c => (ctxAt s (ctxId g c)).st != .free then 2 else 0

/-- State of a tensor movement queue (R244, R246): RETRYING while a request waits to be reissued. -/
def tmvState (s : State) (g q : Nat) : Nat := if ((queueLive s g q).any fun w => w.retry) || s.ports.any fun e => e.2.out.any fun r => r.retry && r.core = g && r.q = q then 4
  else queueState s g q

/-- State of the bank-command engine (R284): ADMIT_WAIT while a descriptor waits for its reservation. -/
def bkcState (s : State) (g : Nat) : Nat :=
  if s.flights.any fun f => f.core = g && !f.granted then 4 else queueState s g qBk

/-- The active layer register set. -/
def QEngine.activeSet (e : QEngine) : LSet := if e.active = 0 then e.set0 else e.set1

/-- Matrix and vector engine pages (R198). -/
def engView (s : State) (g q : Nat) (f : Fld) : Nat :=
  match f with
  | .engEngState => queueState s g q
  | .engActiveCtx => (engineAt s (8 * g + q)).activeSet.ctx
  | .engLsetActive => (engineAt s (8 * g + q)).active
  | _ => 0

/-- Tensor movement page (R246). -/
def tmvView (s : State) (g : Nat) (f : Fld) : Nat :=
  match f with
  | .tmvStateLd => tmvState s g qLd
  | .tmvStateSt => tmvState s g qSt
  | .tmvStateGt => tmvState s g qGt
  | .tmvLsetActive => maskOf 3 fun i => (engineAt s (8 * g + qLd + i)).active = 1
  | _ => 0

/-- Bank-command page (R284). -/
def bkcView (s : State) (g : Nat) (f : Fld) : Nat :=
  match f with
  | .bkcEngState => bkcState s g
  | .bkcLsetActive => (engineAt s (8 * g + qBk)).active
  | _ => 0

/-- Scratchpad page (R216). -/
def spdView (s : State) (g : Nat) (f : Fld) (i : Nat) : Nat :=
  match f with
  | .spdSbUsed => (spadAt s g).sb.length
  | .spdSbClaims => (((spadAt s g).sb.filter fun e => e.kind.isClaim).map SbEntry.q).eraseDups.length
  | .spdSpBase => (ctxAt s (ctxId g i)).spBase / 2048
  | .spdSpNeed => (ctxAt s (ctxId g i)).spNeed
  | _ => 0

/-- Epoch page (R53, R71). -/
def epoView (s : State) (f : Fld) : Nat :=
  match f with
  | .epoEpochFloor => epochFloor s
  | .epoFloorKind => (floorHolder s).1
  | .epoFloorId => (floorHolder s).2.1
  | _ => 0

/-- Bank-unit page of stack `d` (R283). -/
def bkuView (s : State) (d : Nat) (f : Fld) : Nat :=
  let p := (buOf d).page
  match f with
  | .bkuHmState => maskOf 32 fun c => (chanAt s (ckOf d c)).hm = .on || (chanAt s (ckOf d c)).hm = .exiting
  | .bkuOpbufUsed => opbufUsed s d
  | .bkuBuView => statusWord s (ckOf d (rd s p .bkuBuSelChan) * 32 + rd s p .bkuBuSelBank)
  | _ => 0

/-- Memory controller pages of stack `d` (R354-R357). -/
def mcsView (s : State) (d : Nat) (f : Fld) (i : Nat) : Nat :=
  let p := (mcOf d).page
  let ch := chanAt s (ckOf d i)
  match f with
  | .mcsFrozen => maskOf 32 fun c => (chanAt s (ckOf d c)).st = .frozen
  | .mcsFailed => maskOf 32 fun c => (chanAt s (ckOf d c)).st = .failed
  | .mcsQosSum => qosSum s p
  | .mcsQosCap => qosCap s p
  | .mcsChState => ch.st.code
  | .mcsRecal => flagBit ch.recal
  | .mcsChRc => ofSigned 5 ch.rc
  | .mcsRdQ => ch.rdq.length
  | .mcsWrQ => wrEntries ch.wrq
  | .mcsFreezes1s => ch.freezes1s
  | _ => 0

/-- Fault page (R447, R457, R378). -/
def fltView (s : State) (f : Fld) (i : Nat) : Nat :=
  let id := rd s pgFlt .fltJrnSel
  let x := ctxAt s id
  let r := (runAt s x.run).getD {}
  let held (v : Nat) : Nat := if x.journal = 0 then 0 else v
  match f with
  | .fltJrnState => x.journal
  | .fltJrnSnap => held x.snap
  | .fltJrnSess => held r.sess
  | .fltJrnTag => held r.tag
  | .fltRepairPending =>
    match (unitAt i).bind stackOfMc with
    | some d => ((List.range 32).map fun c => (chanAt s (ckOf d c)).repairs.length).sum
    | none => 0
  | _ => 0

/-- Port page (R409, R415). -/
def evlView (s : State) (p : Nat) (f : Fld) (i : Nat) : Nat :=
  let a := rd s (portPage p) .evlMbrSel
  match f with
  | .evlMbrState => (memberAt s a).st
  | .evlReachHere => flagBit (reachOf s p a)
  | .evlMbrId => (memberAt s a).id
  | .evlOutstanding => (portAt s p).out.length
  | .evlReach => maskOf 32 fun b => reachOf s p (32 * i + b)
  | _ => 0

/-- Session and link page (R426). -/
def hifView (s : State) (f : Fld) : Nat :=
  match unitAt (rd s pgHif .hifCtxsCore) with
  | some (.core n m j) =>
    let x := ctxAt s (ctxId (coreNo n m j) (rd s pgHif .hifCtxsCtx))
    match f with
    | .hifCtxsState => x.st.code
    | .hifCtxsSess => ((runAt s x.run).map Run.sess).getD 0
    | _ => 0
  | _ => 0

/-- Security page (R485). -/
def secView (s : State) (f : Fld) : Nat :=
  match f with
  | .secKeyValid => maskOf 16 fun k => (keyAt s k).isSome
  | .secPskValid => maskOf 3 fun k => (pskAt s k).isSome
  | .secSpdmSessions => ((List.range 4).filter fun k => (spdmOpen s k).isSome).length
  | _ => 0

/-- SENS_STATE (R507): 0 ABSENT, 1 OK, 2 BROKEN. -/
def sensCode (s : State) (i : Nat) : Nat := if !sensPresent s.variant i then 0 else if (sensAt s i).broken then 2 else 1

/-- The part is below its lower limit (R500). -/
def partLow (s : State) (p : Nat) : Bool :=
  let limit : Option Int := if 5 ≤ p && p < 25 then some 0 else if 33 ≤ p && p < 37 then some 40 else none
  match limit, partOk s p with
  | some t, some (_, cold) => decide (cold < t)
  | _, _ => false

/-- PART_STATE (R507): a part that is in several conditions shows BLIND before LIMIT, LOW and THROTTLE (log entry 40). -/
def partCode (s : State) (p : Nat) : Nat :=
  let c := SMap.get (fun _ => 0) s.partCond p
  if bit c 2 = 1 then 3 else if bit c 1 = 1 then 2 else if partLow s p then 4 else bit c 0

/-- Thermal page (R498, R499, R507). -/
def thmView (s : State) (f : Fld) (i : Nat) : Nat :=
  let k := rd s pgThm .thmSensSel
  let p := rd s pgThm .thmPartSel
  match f with
  | .thmTemp => ofSigned 12 (sensRead s k)
  | .thmSensState => sensCode s k
  | .thmRaw => ofSigned 12 (sensAt s k).raw
  | .thmNbr => if sensPresent s.variant k then sensNbr s.variant k i else 0x1FF
  | .thmPartMax => ofSigned 12 (partHot s p)
  | .thmPartState => partCode s p
  | .thmPartBroken => partBroken s p
  | .thmTemps => ofSigned 12 (sensRead s i) + sensCode s i * 2 ^ 12
  | _ => 0

/-- Optical engine and bay pages (R384, R416). -/
def optView (s : State) (u : UnitId) (f : Fld) : Nat :=
  match u, f with
  | .oe n e, .optFeed0Bay => (feedBays (2 * n + e)).1
  | .oe n e, .optFeed1Bay => (feedBays (2 * n + e)).2
  | .lb a, .bayFedMask => maskOf 8 fun e => (feedBays e).1 = a || (feedBays e).2 = a
  | _, _ => match f with
    | .pwrTargetStep => targetStep s
    | .pwrLimitW => stepWatts (rd s pgPwr .pwrEffStep)
    | .mgtRepairLogUsed => s.repairLog.length
    | .mgtRepairLogFull => flagBit (16384 ≤ s.repairLog.length)
    | _ => 0

/-- The value of a computed field of a unit. -/
def viewField (s : State) (u : UnitId) (f : Fld) (i : Nat) : Nat :=
  if headerFlds.contains f then headerView s u f
  else match u with
  | .mx n m j => engView s (coreNo n m j) qMx f
  | .vx n m j => engView s (coreNo n m j) qVx f
  | .tm n m j => tmvView s (coreNo n m j) f
  | .bc n m j => bkcView s (coreNo n m j) f
  | .sp n m j => spdView s (coreNo n m j) f i
  | .epo => epoView s f
  | .psy n => if f = .seraiHeldNow then (seraiAt s n).held.length else 0
  | .dsy => if f = .seraiHeldNow then (seraiAt s 4).held.length else 0
  | .bu n k => bkuView s (3 * n + k) f
  | .mc n k => mcsView s (3 * n + k) f i
  | .dr n => if f = .drvFreePages then freePages s n else 0
  | .flt => fltView s f i
  | .pt n e q => evlView s (8 * n + 4 * e + q) f i
  | .hif => hifView s f
  | .sec => secView s f
  | .thm => thmView s f i
  | _ => optView s u f

/-- The word at byte `o` of a layer register set with an image of `n` bytes (R198, R246, R284). -/
def lsetWord (n : Nat) (x : LSet) (o : Nat) : Nat := if o < n then fieldAt x.img o 31 0 else if o = n then x.ctx else 0

/-- The word at byte `o` of the two layer register sets of a queue, 256 bytes each. -/
def lsetPair (s : State) (g q n o : Nat) : Nat :=
  let e := engineAt s (8 * g + q)
  lsetWord n (if o < 256 then e.set0 else e.set1) (o % 256)

/-- The entry that place `i` of SB_DUMP shows: the one held for the reads of that place (R217). -/
def dumpEntry (x : Spad) (i : Nat) : Option SbEntry :=
  match x.dump.filter fun d => d.1 = i with
  | some d => d.2
  | none => x.sb.find? fun e => e.slot = i

/-- A read of SB_DUMP that begins an entry, or turns to another, holds the entry for the reads of its other words (R217; log entry 87). -/
def holdDump (page off : Nat) (s : State) : State :=
  match unitOfPage page with
  | some (.sp n m j, 0) =>
    let g := coreNo n m j
    let i := (off - 0x400) / 16
    let x := spadAt s g
    if off < 0x400 || 0xA00 ≤ off || (off % 16 != 0 && x.dump.any fun d => d.1 = i) then s
    else putSpad g { x with dump := some (i, x.sb.find? fun e => e.slot = i) } s
  | _ => s

/-- The word at byte `o` of SB_DUMP (R217). -/
def sbDump (s : State) (g o : Nat) : Nat :=
  match dumpEntry (spadAt s g) (o / 16) with
  | none => 0
  | some e =>
    match o % 16 / 4 with
    | 0 => e.lo
    | 1 => e.hi
    | 2 => e.kind.code + e.q * 2 ^ 4 + e.ctx * 2 ^ 8
    | _ => e.wb

/-- The words of a unit's pages that no field table lists. -/
def viewWord (s : State) (u : UnitId) (o : Nat) : Nat :=
  match u with
  | .mx n m j => if 0x400 ≤ o && o < 0x600 then lsetPair s (coreNo n m j) qMx 0x80 (o - 0x400) else 0
  | .vx n m j => if 0x400 ≤ o && o < 0x600 then lsetPair s (coreNo n m j) qVx 0x80 (o - 0x400) else 0
  | .bc n m j => if 0x400 ≤ o && o < 0x600 then lsetPair s (coreNo n m j) qBk 0x80 (o - 0x400) else 0
  | .tm n m j => if 0x400 ≤ o && o < 0xA00 then lsetPair s (coreNo n m j) (qLd + (o - 0x400) / 512) 0xC0 ((o - 0x400) % 512) else 0
  | .sp n m j => if 0x400 ≤ o && o < 0xA00 then sbDump s (coreNo n m j) (o - 0x400) else 0
  | _ => 0

/-- Everything the pages show that registers do not hold. -/
def views : Views := { fld := viewField, raw := viewWord }

end Sys2Proof.Machine
end

