-- ==== Sys2Proof/Machine/Registers.lean ====
section
/-!
DEFINITION. The register BAR (R24-R41): what a host write of each field does beyond its access code, and the commands that read and
write unit pages.
-/

namespace Sys2Proof.Machine

/-- LOCKED of a unit and of every unit nested in it (R38): the lock of a group reaches every member, also one whose page does not
answer. -/
def lockAll (u : UnitId) (s : State) : State := u.all.foldl (fun t v => wr v.page .hdrLocked 1 t) s

/-- The ARMED slots of a unit whose action is CFG_ACTIVATE return to IDLE (R39). -/
def dropActivations (p : Nat) (s : State) : State :=
  let s := forUpto 4 (fun i t => if rdi t p .hdrMsState i = 1 && rdi t p .hdrMsAction i = 1 then wri p .hdrMsState i 0 t else t) s
  floorCheck (if p = pgMgt then { s with fwSlots := [] } else s)

/-- One unit returns to its previous set (R39, R67); after it PREV_VALID is 0. Its firmware units run the bank that the selectors
name again under R513 (R515). -/
def rollbackUnit (p : Nat) (s : State) : State :=
  let s := if rd s p .hdrStaged = 1 then dropActivations p (discardStaged p s) else s
  let s := if p = pgMgt then { s with fwDone := [] } else s
  flipSet p 0 (s.prevSet.filter (·.page = p)) s

/-- The members of a group that hold configuration sets; CFG_SET of any other unit ignores writes and reports nothing (R39). -/
def versionedMembers (u : UnitId) : List UnitId := (u.all.drop 1).filter UnitId.cfgVersioned

/-- CFG_SET.ROLLBACK of a unit that holds configuration sets (R39): of a group, each member with a previous set rolls back with it, and
one without makes the group's RESULT ERROR (R13). -/
def rollback (u : UnitId) (s : State) : State :=
  let p := u.page
  if !u.cfgVersioned then s
  else if rd s p .hdrPrevValid = 0 then wr p .hdrResult 3 s
  else
    let ms := versionedMembers u
    let bad := ms.any fun v => rd s v.page .hdrPrevValid = 0
    let t := (ms.filter fun v => rd s v.page .hdrPrevValid = 1).foldl (fun t v => rollbackUnit v.page t) (rollbackUnit p s)
    if bad then wr p .hdrResult 3 t else t

/-- A write of W1C ERRLOG_0.VALID (R40). -/
def clearErr (p : Nat) (s : State) : State := wr p .hdrErrValid 0 (wr p .hdrErrOverflow 0 (wr p .hdrErrCount 0 s))

/-- The header fields that do more than their access code (R34-R40). -/
def headerAct (w : FieldWrite) (s : State) : Option State :=
  let p := w.unit.page
  match w.fld with
  | .hdrCtrlSync => some (ctrlWrite w.unit (w.word % 16) s)
  | .hdrCtrlFence | .hdrCtrlUnfence | .hdrCtrlReset => some s
  | .hdrIrqStat => some (putIrqStat p (rd s p .hdrIrqStat - (rd s p .hdrIrqStat &&& w.ones)) s)
  | .hdrIrqEn => some (putIrqEn p (w.val &&& w.unit.block.irqMask) s)
  | .hdrIrqForce => some (raiseMask p (w.ones &&& w.unit.block.irqMask) s)
  | .hdrLocked => some (if w.ones = 0 then s else lockAll w.unit s)
  | .hdrRollback => some (if w.ones = 0 then s else rollback w.unit s)
  | .hdrErrValid => some (if w.ones = 0 then s else clearErr p s)
  | _ => none

/-- A write of LDG_RPTR (R70): kept only when it does not step back; the first free slot takes the LOST record. -/
def ldgRptr (src new : Nat) (s : State) : State :=
  let wp := rdi s pgEpo .epoLdgWptr src
  let old := rdi s pgEpo .epoLdgRptr src
  if (wp + 2 ^ 24 - old) % 2 ^ 24 < (wp + 2 ^ 24 - new) % 2 ^ 24 then wr pgEpo .hdrBadWrite 1 s
  else
    let s := wri pgEpo .epoLdgRptr src new s
    let lost := SMap.get (fun _ => 0) s.ldgLost src
    if lost = 0 || ledgerFull s src || rdi s pgEpo .epoLdgEn src = 0 then s
    else ledgerPut src 0x03 lost { s with ldgLost := SMap.set (fun _ => 0) s.ldgLost src 0 }

/-- A write of SRC or PEER (R57): SRC = HOST, or a new peer, ends the loss of the source. -/
def chooseSource (w : FieldWrite) (s : State) : State :=
  let t := writeRwl w s
  if rd t pgEpo .epoSrc = 0 || rd t pgEpo .epoPeer != rd s pgEpo .epoPeer then { t with sourceLost := false } else t

/-- Epoch page (R55, R57, R62, R70, R71). -/
def epoAct (w : FieldWrite) (s : State) : Option State :=
  match w.fld with
  | .epoEpochAdvance => some (advanceTx w.val (rd s pgEpo .epoSrc = 1) s)
  | .epoVcGo => some (if w.ones = 0 then s else vcmd (rd s pgEpo .epoVcOp) (rd s pgEpo .epoVcRegion) (rd s pgEpo .epoVcSlot) s)
  | .epoSrc | .epoPeer => some (chooseSource w s)
  | .epoWarnExp => some (floorCheck (writeRw w s))
  | .epoLdgBase | .epoLdgSize => if rdi s pgEpo .epoLdgEn w.idx = 1 then some s else none
  | .epoLdgRptr => some (ldgRptr w.idx w.val s)
  | _ => none

/-- A write of a window register of Serai `k` (R25, R151): base and size are taken together. -/
def winWrite (k kind : Nat) (base cnt : Fld) (w : FieldWrite) (s : State) : State :=
  let p := seraiPage k
  let b := bits w.word 11 0
  let c := bits w.word 28 16
  if rd s p .hdrLocked = 1 then
    if b = rdi s p base w.idx && c = rdi s p cnt w.idx then s else wr p .hdrLockViolation 1 s
  else if seraiCap k kind < b + c then wr p .hdrBadWrite 1 s
  else wri p base w.idx b (wri p cnt w.idx c s)

/-- Serai page of Serai `k` (R143, R151). -/
def seraiAct (k : Nat) (w : FieldWrite) (s : State) : Option State :=
  let p := seraiPage k
  match w.fld with
  | .seraiHopGo => some (if w.ones = 0 then s else hop k (rd s p .seraiHopOp) (rd s p .seraiHopKind) (rd s p .seraiHopIndex) s)
  | .seraiHwinBase => some (winWrite k w.idx .seraiHwinBase .seraiHwinCount w s)
  | .seraiRwinBase => some (winWrite k w.idx .seraiRwinBase .seraiRwinCount w s)
  | .seraiHwinCount | .seraiRwinCount => some s
  | .seraiWdogTimeout | .seraiWdogEn => if k = 4 then some s else none
  | _ => none

/-- Bank-unit page of stack `d` (R252, R270, R283). -/
def bkuAct (d : Nat) (w : FieldWrite) (s : State) : Option State :=
  match w.fld with
  | .bkuHmReq => some (hmReqWrite d w.val s)
  | .bkuHostGang => some (hostGangWrite d w.val s)
  | .bkuAbGo => some (if w.ones = 0 then s else abGo d s)
  | _ => none

/-- Every field of a freeze record (R356). -/
def freezeFlds : List Fld :=
  [.mcsFrzValid, .mcsFrzChan, .mcsFrzCause, .mcsFrzCount, .mcsErrBank, .mcsErrRow, .mcsErrCol, .mcsErrDpa, .mcsSyndrome, .mcsFrzEpoch,
    .mcsHeldRd, .mcsHeldWr, .mcsFrzRc, .mcsFrzHm, .mcsFrzGang, .mcsCmdHist, .mcsMr]

/-- The freeze record is freed and reads 0 (R356). -/
def clearFreeze (p : Nat) (s : State) : State :=
  freezeFlds.foldl (fun t f => forUpto f.row.count (fun i t => wri p f i 0 t) t) s

/-- Memory controller pages of stack `d` (R288, R352, R354, R356). -/
def mcsAct (d : Nat) (w : FieldWrite) (s : State) : Option State :=
  match w.fld with
  | .mcsFrzRelease => some (frzRelease d w.ones [] s)
  | .mcsFrzForce => some (frzForce d w.ones s)
  | .mcsLinMap => some (if w.whole then mapWords d false 2 w.val s else mapWrite d false w.val s)
  | .mcsBmpMap => some (if w.whole then mapWords d true 2 w.val s else mapWrite d true w.val s)
  | .mcsFrzValid => some (if w.ones = 0 then s else clearFreeze (mcOf d).page s)
  | _ => none

/-- Drover page (R322, R329). -/
def drvAct (n : Nat) (w : FieldWrite) (s : State) : Option State :=
  let on := rdi s (drvPage n) .drvPoolEn w.idx = 1
  if w.fld.row.off < 8 * 0x130 && 8 * 0x100 ≤ w.fld.row.off && (droverAt s n).cmd.isSome then some s
  else match w.fld with
  | .drvSegGo => some (if w.ones = 0 then s else segGo n (rd s (drvPage n) .drvSegOp) s)
  | .drvPoolBase | .drvPoolFrames => if on then some s else none
  | .drvPoolEn => some (poolEnable n w.idx w.val s)
  | _ => none

/-- The partitions whose bits are set in a 4-bit field. -/
def eachPart (m : Nat) (f : Nat → State → State) (s : State) : State := forUpto 4 (fun n t => if bit m n = 1 then f n t else t) s

/-- A page index that INT_SEL may name (R378). -/
def intSelOk (v : Nat) : Bool :=
  match unitOfPage v with
  | some (.mc _ _, 0) | some (.sp _ _ _, 0) => true
  | _ => false

/-- TEST_MODE with the TEST_CHAN that the same write carries: a mode starts on the new channel and ends on the old one. -/
def testModeWrite (w : FieldWrite) (s : State) : State :=
  let m := bits w.word 1 0
  let chan (t : State) : State := wri pgFlt .fltTestChan w.idx (bits w.word 12 8) t
  if m = 0 then chan (testMode m s) else testMode m (chan s)

/-- Fault pages (R376, R378, R381, R447). -/
def fltAct (w : FieldWrite) (s : State) : Option State :=
  match w.fld with
  | .fltResetGo => some (eachPart w.ones resetGo s)
  | .fltReadmit => some (eachPart w.ones readmit s)
  | .fltIntSel => some (if intSelOk w.val then wr pgFlt .fltIntSel w.val s else wr pgFlt .hdrBadWrite 1 s)
  | .fltRepairGo => some (if w.ones = 0 then s else repairGo s)
  | .fltTestMode => some (testModeWrite w s)
  | .fltTestChan => some s
  | _ => none

/-- Port page (R387, R390, R408, R409). -/
def evlAct (p : Nat) (w : FieldWrite) (s : State) : Option State :=
  match w.fld with
  | .evlPortEn => some (portEnWrite p w.val s)
  | .evlRetrain => some (if w.ones = 0 then s else retrain p s)
  | .evlMbrLeave => some (if w.ones = 0 then s else mbrLeave s)
  | .evlSelfAddr => some (selfAddrWrite p w.val s)
  | .evlMbrClear => some (if w.ones = 0 then s else mbrClear p s)
  | _ => none

/-- Laser bay page (R385, R386): PREPARE sees the FORCE of the same write, and BAY_EN starts a cartridge that is seated. -/
def bayAct (b : Nat) (w : FieldWrite) (s : State) : Option State :=
  let pg := bayPage b
  match w.fld with
  | .bayPrepare => some (if w.ones = 0 then s else prepare b (wr pg .bayForce (bit w.word 1) s))
  | .bayCancel => some (if w.ones = 0 then s else cancelPrepare b s)
  | .bayBayEn =>
    let s := wr pg .bayBayEn w.val s
    some (if w.val = 1 && cartState s b = 0 && rd s pg .bayPresent = 1 then startWarming b s else s)
  | _ => none

/-- Host interface page (R425, R426). -/
def hifAct (w : FieldWrite) (s : State) : Option State :=
  if 8 * 0x10C ≤ w.fld.row.off && w.fld.row.off < 8 * 0x13C && sessState s w.idx != 0 then some (wr pgHif .hdrBadWrite 1 s)
  else match w.fld with
  | .hifSessGo =>
    some (if w.ones = 0 then s else
      match rdi s pgHif .hifSessOp w.idx with
      | 1 => sessOpen w.idx s
      | 2 => sessClose w.idx s
      | _ => sessResult w.idx 0 s)
  | _ => none

/-- What a host write of a field does beyond its access code. -/
def regAct (w : FieldWrite) (s : State) : Option State :=
  if headerFlds.contains w.fld then headerAct w s
  else match w.unit with
  | .epo => epoAct w s
  | .psy n => seraiAct n w s
  | .dsy => seraiAct 4 w s
  | .bu n k => bkuAct (3 * n + k) w s
  | .mc n k => mcsAct (3 * n + k) w s
  | .dr n => drvAct n w s
  | .flt => fltAct w s
  | .pt n e q => evlAct (8 * n + 4 * e + q) w s
  | .lb b => bayAct b w s
  | .hif => hifAct w s
  | _ => match w.fld with
    | .secUnlockAll => some (if w.ones = 0 then s else unlockAll s)
    | .pwrPsGo => some (if w.ones = 0 || rd s pgPwr .pwrPsGo = 1 then s else psGo s)
    | .pwrPartOos => some (eachPart w.ones pwrPartOos s)
    | .thmSensClear => some (if w.ones = 0 then s else sensClear s)
    | .mgtRetGo => some (if w.ones = 0 then s else retGo s)
    | _ => none

/-- A host write of the register BAR. -/
def hostRegWrite (page off width v : Nat) (s : State) : State := regWrite regAct page off width v s

/-- The access covers a set field of a unit that holds configuration sets (R66). -/
def coversSet (page off width : Nat) : Bool :=
  match unitOfPage page with
  | some (u, j) => (touches u ((j * 4096 + off) * 8) (8 * width)).any fun t => isSetField u t.fld
  | none => false

/-- REG_WRITE (R24). -/
def execRegWrite (page off width value : Nat) (s : State) : Result := .next (hostRegWrite page off width value s)

/-- READ_CLEAR (R24, R25): a host read of the register BAR. -/
def execReadClear (page off width : Nat) (s : State) : Result := .next (regRead views page off width (holdDump page (off % 4096 / 4 * 4) s))

/-- PAGE_LOCK_SET (R38). -/
def execPageLockSet (page : Nat) (s : State) : Result := .next (hostRegWrite page 0x54 4 1 s)

/-- IRQ_FORCE (R37). -/
def execIrqForce (page mask : Nat) (s : State) : Result := .next (hostRegWrite page 0x50 4 mask s)

/-- ROLLBACK (R39). -/
def execRollback (page : Nat) (s : State) : Result := .next (hostRegWrite page 0x58 4 (2 ^ 16) s)

/-- CFG_SET_FIELD_WRITE (R66): a register write that covers a set field. -/
def execCfgSetFieldWrite (page off width value : Nat) (s : State) : Result :=
  .next (if coversSet page off width then hostRegWrite page off width value s else s)

/-- MILESTONE_ARM (R41): one 64-bit write that stores EPOCH, ACTION and ARG, or a 32-bit write that arms with the stored ones. -/
def execMilestoneArm (page slot : Nat) (epoch : Option Nat) (action arg : Nat) (s : State) : Result :=
  match epoch with
  | some e => .next (hostRegWrite page (0x70 + 8 * slot) 8 (e % 2 ^ 32 + action % 16 * 2 ^ 32 + arg % 256 * 2 ^ 40 + 2 ^ 63) s)
  | none => .next (hostRegWrite page (0x74 + 8 * slot) 4 (2 ^ 31) s)

/-- MILESTONE_DISARM (R41). -/
def execMilestoneDisarm (page slot : Nat) (s : State) : Result := .next (hostRegWrite page (0x74 + 8 * slot) 4 (2 ^ 30) s)

/-- LDG_RPTR_WRITE (R70): the ledger is LDG_SEL's. -/
def execLdgRptrWrite (value : Nat) (s : State) : Result := .next (hostRegWrite pgEpo 0x158 4 value s)

end Sys2Proof.Machine
end

