-- ==== Sys2Proof/Machine/Dispatch.lean ====
section
/-!
DEFINITION. Which meaning each command has: one arm per constructor, each one direct call of that command's meaning.
-/

namespace Sys2Proof.Machine

def exec (i : Instr) (s : State) : Host.Outcome State Fault Refusal :=
  match i with
  | .regWrite page off width value => Sys2Proof.Machine.execRegWrite page off width value s
  | .readClear page off width => Sys2Proof.Machine.execReadClear page off width s
  | .sync page => Sys2Proof.Machine.execSync page s
  | .fence page => Sys2Proof.Machine.execFence page s
  | .unfence page => Sys2Proof.Machine.execUnfence page s
  | .reset page => Sys2Proof.Machine.execReset page s
  | .ctrlOpComplete page kind => Sys2Proof.Machine.execCtrlOpComplete page kind s
  | .pageLockSet page => Sys2Proof.Machine.execPageLockSet page s
  | .irqForce page mask => Sys2Proof.Machine.execIrqForce page mask s
  | .rollback page => Sys2Proof.Machine.execRollback page s
  | .cfgSetFieldWrite page off width value => Sys2Proof.Machine.execCfgSetFieldWrite page off width value s
  | .milestoneArm page slot epoch action arg => Sys2Proof.Machine.execMilestoneArm page slot epoch action arg s
  | .milestoneDisarm page slot => Sys2Proof.Machine.execMilestoneDisarm page slot s
  | .epochAdvance target => Sys2Proof.Machine.execEpochAdvance target s
  | .epochBroadcast port => Sys2Proof.Machine.execEpochBroadcast port s
  | .install region slot => Sys2Proof.Machine.execInstall region slot s
  | .close region slot => Sys2Proof.Machine.execClose region slot s
  | .query region slot => Sys2Proof.Machine.execQuery region slot s
  | .free region slot => Sys2Proof.Machine.execFree region slot s
  | .ldgRptrWrite value => Sys2Proof.Machine.execLdgRptrWrite value s
  | .sqTail sess value => Sys2Proof.Machine.execSqTail sess value s
  | .cqHead sess value => Sys2Proof.Machine.execCqHead sess value s
  | .sqFetch sess entry poison => Sys2Proof.Machine.execSqFetch sess entry poison s
  | .sqNop sess => Sys2Proof.Machine.execSqNop sess s
  | .sqLoad sess => Sys2Proof.Machine.execSqLoad sess s
  | .loaderDequeue elapsedUs => Sys2Proof.Machine.execLoaderDequeue elapsedUs s
  | .loadSlots => Sys2Proof.Machine.execLoadSlots s
  | .loadComplete elapsedUs => Sys2Proof.Machine.execLoadComplete elapsedUs s
  | .loadWaitExpire elapsedUs => Sys2Proof.Machine.execLoadWaitExpire elapsedUs s
  | .loadQuery sess => Sys2Proof.Machine.execLoadQuery sess s
  | .run sess => Sys2Proof.Machine.execRun sess s
  | .abort sess => Sys2Proof.Machine.execAbort sess s
  | .runComplete run => Sys2Proof.Machine.execRunComplete run s
  | .sessOpen sess => Sys2Proof.Machine.execSessOpen sess s
  | .sessClose sess => Sys2Proof.Machine.execSessClose sess s
  | .sessionClosed sess => Sys2Proof.Machine.execSessionClosed sess s
  | .fenceReq sess token => Sys2Proof.Machine.execFenceReq sess token s
  | .memFenceDone sess => Sys2Proof.Machine.execMemFenceDone sess s
  | .hsigSet sess idx => Sys2Proof.Machine.execHsigSet sess idx s
  | .hsigClear sess idx => Sys2Proof.Machine.execHsigClear sess idx s
  | .descLoad core ctx q => Sys2Proof.Machine.execDescLoad core ctx q s
  | .descStart core ctx q => Sys2Proof.Machine.execDescStart core ctx q s
  | .descComplete core ctx q cycles => Sys2Proof.Machine.execDescComplete core ctx q cycles s
  | .nop core ctx q => Sys2Proof.Machine.execNop core ctx q s
  | .wait core ctx q => Sys2Proof.Machine.execWait core ctx q s
  | .barrier core ctx q => Sys2Proof.Machine.execBarrier core ctx q s
  | .endDesc core ctx q => Sys2Proof.Machine.execEnd core ctx q s
  | .ctxBind core ctx => Sys2Proof.Machine.execCtxBind core ctx s
  | .epochWait core ctx => Sys2Proof.Machine.execEpochWait core ctx s
  | .flagSet core ctx => Sys2Proof.Machine.execFlagSet core ctx s
  | .flagClear core ctx => Sys2Proof.Machine.execFlagClear core ctx s
  | .flagToggle core ctx => Sys2Proof.Machine.execFlagToggle core ctx s
  | .flagWait core ctx => Sys2Proof.Machine.execFlagWait core ctx s
  | .ctrAdd core ctx => Sys2Proof.Machine.execCtrAdd core ctx s
  | .ctrSet core ctx => Sys2Proof.Machine.execCtrSet core ctx s
  | .ctrWait core ctx => Sys2Proof.Machine.execCtrWait core ctx s
  | .barInit core ctx => Sys2Proof.Machine.execBarInit core ctx s
  | .barArrive core ctx => Sys2Proof.Machine.execBarArrive core ctx s
  | .barWait core ctx => Sys2Proof.Machine.execBarWait core ctx s
  | .remoteSignal core ctx => Sys2Proof.Machine.execRemoteSignal core ctx s
  | .hostNotify core ctx => Sys2Proof.Machine.execHostNotify core ctx s
  | .hopRead sy kind idx => Sys2Proof.Machine.execHopRead sy kind idx s
  | .hopFlagSet sy kind idx => Sys2Proof.Machine.execHopFlagSet sy kind idx s
  | .hopFlagClear sy kind idx => Sys2Proof.Machine.execHopFlagClear sy kind idx s
  | .hopCtrAdd sy kind idx => Sys2Proof.Machine.execHopCtrAdd sy kind idx s
  | .hopCtrSet sy kind idx => Sys2Proof.Machine.execHopCtrSet sy kind idx s
  | .hopBarInit sy kind idx => Sys2Proof.Machine.execHopBarInit sy kind idx s
  | .hopBarArrive sy kind idx => Sys2Proof.Machine.execHopBarArrive sy kind idx s
  | .dbgRelease sy kind idx => Sys2Proof.Machine.execDbgRelease sy kind idx s
  | .dbgWithdraw sy kind idx => Sys2Proof.Machine.execDbgWithdraw sy kind idx s
  | .heldSignalApply sy pos => Sys2Proof.Machine.execHeldSignalApply sy pos s
  | .wdogFire core ctx => Sys2Proof.Machine.execWdogFire core ctx s
  | .matmul core ctx => Sys2Proof.Machine.execMatmul core ctx s
  | .vxMap core ctx => Sys2Proof.Machine.execVxMap core ctx s
  | .vxReduce core ctx => Sys2Proof.Machine.execVxReduce core ctx s
  | .vxSoftmax core ctx => Sys2Proof.Machine.execVxSoftmax core ctx s
  | .vxNorm core ctx => Sys2Proof.Machine.execVxNorm core ctx s
  | .vxSort core ctx => Sys2Proof.Machine.execVxSort core ctx s
  | .vxTopk core ctx => Sys2Proof.Machine.execVxTopk core ctx s
  | .vxSample core ctx => Sys2Proof.Machine.execVxSample core ctx s
  | .vxConvert core ctx => Sys2Proof.Machine.execVxConvert core ctx s
  | .vxSelect core ctx => Sys2Proof.Machine.execVxSelect core ctx s
  | .sbClaim core ctx q => Sys2Proof.Machine.execSbClaim core ctx q s
  | .sbRelease core ctx q k entry => Sys2Proof.Machine.execSbRelease core ctx q k entry s
  | .narrowWriteback core line => Sys2Proof.Machine.execNarrowWriteback core line s
  | .debugWindowAccess dpa len write data poison => Sys2Proof.Machine.execDebugWindowAccess dpa len write data poison s
  | .spadPoisonMark core => Sys2Proof.Machine.execSpadPoisonMark core s
  | .load core ctx => Sys2Proof.Machine.execLoad core ctx s
  | .store core ctx => Sys2Proof.Machine.execStore core ctx s
  | .gather core ctx => Sys2Proof.Machine.execGather core ctx s
  | .scatter core ctx => Sys2Proof.Machine.execScatter core ctx s
  | .retryReissue core ctx q => Sys2Proof.Machine.execRetryReissue core ctx q s
  | .bkMvs core ctx => Sys2Proof.Machine.execBkMvs core ctx s
  | .bkDot core ctx => Sys2Proof.Machine.execBkDot core ctx s
  | .bkGred core ctx => Sys2Proof.Machine.execBkGred core ctx s
  | .bkPqscan core ctx => Sys2Proof.Machine.execBkPqscan core ctx s
  | .bkRowop core ctx => Sys2Proof.Machine.execBkRowop core ctx s
  | .bkReservation core ctx k => Sys2Proof.Machine.execBkReservation core ctx k s
  | .bkUploadDone core ctx k => Sys2Proof.Machine.execBkUploadDone core ctx k s
  | .gangCommand core ctx k chan => Sys2Proof.Machine.execGangCommand core ctx k chan s
  | .harnessEntry stack chan => Sys2Proof.Machine.execHarnessEntry stack chan s
  | .harnessOn stack chan => Sys2Proof.Machine.execHarnessOn stack chan s
  | .harnessExit stack chan => Sys2Proof.Machine.execHarnessExit stack chan s
  | .harnessOff stack chan => Sys2Proof.Machine.execHarnessOff stack chan s
  | .hmReqWrite stack mask => Sys2Proof.Machine.execHmReqWrite stack mask s
  | .vRegisterWrite dpa data => Sys2Proof.Machine.execVRegisterWrite dpa data s
  | .cwWrite dpa data => Sys2Proof.Machine.execCwWrite dpa data s
  | .cblWrite dpa data => Sys2Proof.Machine.execCblWrite dpa data s
  | .fifoPop dpa => Sys2Proof.Machine.execFifoPop dpa s
  | .clear dpa flags tag => Sys2Proof.Machine.execClear dpa flags tag s
  | .mvs dpa flags tag => Sys2Proof.Machine.execMvs dpa flags tag s
  | .dot dpa flags tag => Sys2Proof.Machine.execDot dpa flags tag s
  | .gred dpa flags tag => Sys2Proof.Machine.execGred dpa flags tag s
  | .pqscan dpa flags tag => Sys2Proof.Machine.execPqscan dpa flags tag s
  | .copyOut dpa flags tag => Sys2Proof.Machine.execCopyOut dpa flags tag s
  | .rowlist dpa flags tag => Sys2Proof.Machine.execRowlist dpa flags tag s
  | .vet dpa flags tag => Sys2Proof.Machine.execVet dpa flags tag s
  | .burnish dpa flags tag => Sys2Proof.Machine.execBurnish dpa flags tag s
  | .rowlistPiece stack chan bank parts => Sys2Proof.Machine.execRowlistPiece stack chan bank parts s
  | .legEnd stack chan bank items steps => Sys2Proof.Machine.execLegEnd stack chan bank items steps s
  | .gangResume stack chan bank gapNs => Sys2Proof.Machine.execGangResume stack chan bank gapNs s
  | .gangWaitEnd stack chan bank waitSteps => Sys2Proof.Machine.execGangWaitEnd stack chan bank waitSteps s
  | .seqLastStep stack chan bank steps => Sys2Proof.Machine.execSeqLastStep stack chan bank steps s
  | .seqDrained stack chan bank => Sys2Proof.Machine.execSeqDrained stack chan bank s
  | .collectorSend stack chan bank => Sys2Proof.Machine.execCollectorSend stack chan bank s
  | .recordWrite core ctx k chan bank => Sys2Proof.Machine.execRecordWrite core ctx k chan bank s
  | .abGo stack => Sys2Proof.Machine.execAbGo stack s
  | .linMapWrite stack half value => Sys2Proof.Machine.execLinMapWrite stack half value s
  | .bmpMapWrite stack half value => Sys2Proof.Machine.execBmpMapWrite stack half value s
  | .segCreate dr => Sys2Proof.Machine.execSegCreate dr s
  | .segWrite dr => Sys2Proof.Machine.execSegWrite dr s
  | .segSeal dr => Sys2Proof.Machine.execSegSeal dr s
  | .segDelete dr => Sys2Proof.Machine.execSegDelete dr s
  | .segQuery dr => Sys2Proof.Machine.execSegQuery dr s
  | .segBind dr => Sys2Proof.Machine.execSegBind dr s
  | .segUnbind dr => Sys2Proof.Machine.execSegUnbind dr s
  | .segDone dr => Sys2Proof.Machine.execSegDone dr s
  | .poolEnWrite dr pool value => Sys2Proof.Machine.execPoolEnWrite dr pool value s
  | .poolDisabled dr pool => Sys2Proof.Machine.execPoolDisabled dr pool s
  | .drFetch core ctx => Sys2Proof.Machine.execDrFetch core ctx s
  | .drPromote core ctx => Sys2Proof.Machine.execDrPromote core ctx s
  | .drUnpin core ctx => Sys2Proof.Machine.execDrUnpin core ctx s
  | .bulkPageLand stack pos attempts poisoned => Sys2Proof.Machine.execBulkPageLand stack pos attempts poisoned s
  | .bulkPatrol stack relocated => Sys2Proof.Machine.execBulkPatrol stack relocated s
  | .retGo => Sys2Proof.Machine.execRetGo s
  | .dieRetire stack die => Sys2Proof.Machine.execDieRetire stack die s
  | .memReadRequest dpa len port => Sys2Proof.Machine.execMemReadRequest dpa len port s
  | .memWriteRequest dpa data port poison => Sys2Proof.Machine.execMemWriteRequest dpa data port poison s
  | .partialMerge stack chan => Sys2Proof.Machine.execPartialMerge stack chan s
  | .refreshInterval stack chan expired => Sys2Proof.Machine.execRefreshInterval stack chan expired s
  | .refresh stack chan bank => Sys2Proof.Machine.execRefresh stack chan bank s
  | .recalDue stack chan => Sys2Proof.Machine.execRecalDue stack chan s
  | .recalForced stack chan => Sys2Proof.Machine.execRecalForced stack chan s
  | .recalDone stack chan => Sys2Proof.Machine.execRecalDone stack chan s
  | .tollgateRefill stack => Sys2Proof.Machine.execTollgateRefill stack s
  | .requestUrgency stack chan write pos age => Sys2Proof.Machine.execRequestUrgency stack chan write pos age s
  | .caParity stack chan bank row col => Sys2Proof.Machine.execCaParity stack chan bank row col s
  | .wcrcExhausted stack chan bank row col => Sys2Proof.Machine.execWcrcExhausted stack chan bank row col s
  | .frzForce stack mask => Sys2Proof.Machine.execFrzForce stack mask s
  | .frzRelease stack mask again => Sys2Proof.Machine.execFrzRelease stack mask again s
  | .freezeAutoRelease stack chan again => Sys2Proof.Machine.execFreezeAutoRelease stack chan again s
  | .scrubRead stack chan => Sys2Proof.Machine.execScrubRead stack chan s
  | .scrubAgeLimit stack chan => Sys2Proof.Machine.execScrubAgeLimit stack chan s
  | .scrubWriteback stack chan => Sys2Proof.Machine.execScrubWriteback stack chan s
  | .repairGo => Sys2Proof.Machine.execRepairGo s
  | .rowRepair stack chan => Sys2Proof.Machine.execRowRepair stack chan s
  | .repairWaitExpire stack chan => Sys2Proof.Machine.execRepairWaitExpire stack chan s
  | .ceWindowExpire page => Sys2Proof.Machine.execCeWindowExpire page s
  | .testModeOff => Sys2Proof.Machine.execTestModeOff s
  | .dataOnly => Sys2Proof.Machine.execDataOnly s
  | .chkOnly => Sys2Proof.Machine.execChkOnly s
  | .rawRead => Sys2Proof.Machine.execRawRead s
  | .portEnWrite port value => Sys2Proof.Machine.execPortEnWrite port value s
  | .retrain port => Sys2Proof.Machine.execRetrain port s
  | .trainAttemptTimeout port => Sys2Proof.Machine.execTrainAttemptTimeout port s
  | .portUp port lanes rtt => Sys2Proof.Machine.execPortUp port lanes rtt s
  | .fastRetrain port => Sys2Proof.Machine.execFastRetrain port s
  | .fastRetrainDone port ok => Sys2Proof.Machine.execFastRetrainDone port ok s
  | .portDown port cause => Sys2Proof.Machine.execPortDown port cause s
  | .flitReceive port flit corrected uncorrectable => Sys2Proof.Machine.execFlitReceive port flit corrected uncorrectable s
  | .rdReq port => Sys2Proof.Machine.execRdReq port s
  | .wr port => Sys2Proof.Machine.execWr port s
  | .acc port => Sys2Proof.Machine.execAcc port s
  | .rdResp port => Sys2Proof.Machine.execRdResp port s
  | .wrAck port => Sys2Proof.Machine.execWrAck port s
  | .accAck port => Sys2Proof.Machine.execAccAck port s
  | .signal port => Sys2Proof.Machine.execSignal port s
  | .remoteTimeout port tag => Sys2Proof.Machine.execRemoteTimeout port tag s
  | .hello port => Sys2Proof.Machine.execHello port s
  | .join port => Sys2Proof.Machine.execJoin port s
  | .present port => Sys2Proof.Machine.execPresent port s
  | .leave port => Sys2Proof.Machine.execLeave port s
  | .presentTimer => Sys2Proof.Machine.execPresentTimer s
  | .reachTimeout port addr => Sys2Proof.Machine.execReachTimeout port addr s
  | .mbrLeave => Sys2Proof.Machine.execMbrLeave s
  | .selfAddrWrite port value => Sys2Proof.Machine.execSelfAddrWrite port value s
  | .mbrClear port => Sys2Proof.Machine.execMbrClear port s
  | .prepare bay => Sys2Proof.Machine.execPrepare bay s
  | .prepareDone bay => Sys2Proof.Machine.execPrepareDone bay s
  | .cancel bay => Sys2Proof.Machine.execCancel bay s
  | .cartInsert bay id hours => Sys2Proof.Machine.execCartInsert bay id hours s
  | .cartRemove bay => Sys2Proof.Machine.execCartRemove bay s
  | .warmingDone bay => Sys2Proof.Machine.execWarmingDone bay s
  | .lockDone bay => Sys2Proof.Machine.execLockDone bay s
  | .lockTimeout bay => Sys2Proof.Machine.execLockTimeout bay s
  | .cartFault bay cause => Sys2Proof.Machine.execCartFault bay cause s
  | .linkUp link cxl width => Sys2Proof.Machine.execLinkUp link cxl width s
  | .linkDown link => Sys2Proof.Machine.execLinkDown link s
  | .perstDeassert link => Sys2Proof.Machine.execPerstDeassert link s
  | .hdmCommit link base size ways gran => Sys2Proof.Machine.execHdmCommit link base size ways gran s
  | .cxlMemRead link dpa keeps => Sys2Proof.Machine.execCxlMemRead link dpa keeps s
  | .cxlMemWrite link dpa data poison keeps => Sys2Proof.Machine.execCxlMemWrite link dpa data poison keeps s
  | .membarRead dpa len => Sys2Proof.Machine.execMembarRead dpa len s
  | .membarWrite dpa data poison => Sys2Proof.Machine.execMembarWrite dpa data poison s
  | .cxlSnoop link => Sys2Proof.Machine.execCxlSnoop link s
  | .partitionFatal page code detail => Sys2Proof.Machine.execPartitionFatal page code detail s
  | .bulkFatal stack code detail => Sys2Proof.Machine.execBulkFatal stack code detail s
  | .portFatal port code detail => Sys2Proof.Machine.execPortFatal port code detail s
  | .resetGo n => Sys2Proof.Machine.execResetGo n s
  | .drainEnd n => Sys2Proof.Machine.execDrainEnd n s
  | .scratchpadSamplingDone n => Sys2Proof.Machine.execScratchpadSamplingDone n s
  | .channelRestoreDone stack chan pass => Sys2Proof.Machine.execChannelRestoreDone stack chan pass s
  | .partResetDone n => Sys2Proof.Machine.execPartResetDone n s
  | .ctxReplayed core ctx => Sys2Proof.Machine.execCtxReplayed core ctx s
  | .readmit n => Sys2Proof.Machine.execReadmit n s
  | .readmitDone n selfTest failChans => Sys2Proof.Machine.execReadmitDone n selfTest failChans s
  | .spineSingleFault comparator cycle => Sys2Proof.Machine.execSpineSingleFault comparator cycle s
  | .spineResyncDone => Sys2Proof.Machine.execSpineResyncDone s
  | .spineStorageError journal => Sys2Proof.Machine.execSpineStorageError journal s
  | .deviceReset => Sys2Proof.Machine.execDeviceReset s
  | .getVersion => Sys2Proof.Machine.execGetVersion s
  | .getCapabilities => Sys2Proof.Machine.execGetCapabilities s
  | .negotiateAlgorithms => Sys2Proof.Machine.execNegotiateAlgorithms s
  | .pskExchange hint => Sys2Proof.Machine.execPskExchange hint s
  | .pskFinish sess ok => Sys2Proof.Machine.execPskFinish sess ok s
  | .keyUpdate sess => Sys2Proof.Machine.execKeyUpdate sess s
  | .heartbeat sess => Sys2Proof.Machine.execHeartbeat sess s
  | .heartbeatLapse sess => Sys2Proof.Machine.execHeartbeatLapse sess s
  | .pskLockoutEnd role => Sys2Proof.Machine.execPskLockoutEnd role s
  | .endSession sess => Sys2Proof.Machine.execEndSession sess s
  | .getMeasurements sess index => Sys2Proof.Machine.execGetMeasurements sess index s
  | .spdmUnsupported => Sys2Proof.Machine.execSpdmUnsupported s
  | .keySet sess slot key => Sys2Proof.Machine.execKeySet sess slot key s
  | .keyClear sess slot => Sys2Proof.Machine.execKeyClear sess slot s
  | .pskSet sess which key => Sys2Proof.Machine.execPskSet sess which key s
  | .dbgSet sess level => Sys2Proof.Machine.execDbgSet sess level s
  | .lcAdvance sess target devid => Sys2Proof.Machine.execLcAdvance sess target devid s
  | .spdmPartOos sess n => Sys2Proof.Machine.execSpdmPartOos sess n s
  | .spdmPstate sess target => Sys2Proof.Machine.execSpdmPstate sess target s
  | .unlockAll => Sys2Proof.Machine.execUnlockAll s
  | .psGo => Sys2Proof.Machine.execPsGo s
  | .d3hot link => Sys2Proof.Machine.execD3hot link s
  | .d0 link => Sys2Proof.Machine.execD0 link s
  | .pstateDone => Sys2Proof.Machine.execPstateDone s
  | .pwrPartOos n => Sys2Proof.Machine.execPwrPartOos n s
  | .supplyUndervoltage => Sys2Proof.Machine.execSupplyUndervoltage s
  | .supplyRecovered mv => Sys2Proof.Machine.execSupplyRecovered mv s
  | .supplyCollapse => Sys2Proof.Machine.execSupplyCollapse s
  | .overvoltage => Sys2Proof.Machine.execOvervoltage s
  | .fastClamp => Sys2Proof.Machine.execFastClamp s
  | .fastClampRelease => Sys2Proof.Machine.execFastClampRelease s
  | .railFault => Sys2Proof.Machine.execRailFault s
  | .hostStepWrite value => Sys2Proof.Machine.execHostStepWrite value s
  | .stepMove => Sys2Proof.Machine.execStepMove s
  | .powerEnforce inputW mv ca subs energy => Sys2Proof.Machine.execPowerEnforce inputW mv ca subs energy s
  | .limitUnmet => Sys2Proof.Machine.execLimitUnmet s
  | .pllRelockDone n => Sys2Proof.Machine.execPllRelockDone n s
  | .sensorSample raws => Sys2Proof.Machine.execSensorSample raws s
  | .holdTimeout => Sys2Proof.Machine.execHoldTimeout s
  | .thermStepRaise => Sys2Proof.Machine.execThermStepRaise s
  | .thermStepLower => Sys2Proof.Machine.execThermStepLower s
  | .sensClear => Sys2Proof.Machine.execSensClear s
  | .refLoss which => Sys2Proof.Machine.execRefLoss which s
  | .powerOn rail spine fwBad failParts failBulk failChans failRows => Sys2Proof.Machine.execPowerOn rail spine fwBad failParts failBulk failChans failRows s
  | .bootReady => Sys2Proof.Machine.execBootReady s
  | .pwrDisAssert => Sys2Proof.Machine.execPwrDisAssert s
  | .pwrDisDeassert => Sys2Proof.Machine.execPwrDisDeassert s
  | .moduleWithdraw => Sys2Proof.Machine.execModuleWithdraw s
  | .requestUpdate sess => Sys2Proof.Machine.execRequestUpdate sess s
  | .passComponentTable comps => Sys2Proof.Machine.execPassComponentTable comps s
  | .updateComponent comp => Sys2Proof.Machine.execUpdateComponent comp s
  | .transferComplete => Sys2Proof.Machine.execTransferComplete s
  | .verifyComplete ok version => Sys2Proof.Machine.execVerifyComplete ok version s
  | .activateFirmware selfContained => Sys2Proof.Machine.execActivateFirmware selfContained s
  | .fwSwitch comp unit => Sys2Proof.Machine.execFwSwitch comp unit s
  | .fwSwitchWaitExpire stack chan => Sys2Proof.Machine.execFwSwitchWaitExpire stack chan s
  | .pldmPowerEffecter sess target => Sys2Proof.Machine.execPldmPowerEffecter sess target s
  | .pldmOosEffecter sess n => Sys2Proof.Machine.execPldmOosEffecter sess n s
  | .pldmSensorRead sess idx => Sys2Proof.Machine.execPldmSensorRead sess idx s
  | .scratchpadScrub core => Sys2Proof.Machine.execScratchpadScrub core s
  | .escWindowExpire n => Sys2Proof.Machine.execEscWindowExpire n s
  | .go sess => Sys2Proof.Machine.execGo sess s
  | .backInvalidateDone line => Sys2Proof.Machine.execBackInvalidateDone line s
  | .writeDrain stack chan => Sys2Proof.Machine.execWriteDrain stack chan s
  | .flitTransmit port => Sys2Proof.Machine.execFlitTransmit port s
  | .refRestored which => Sys2Proof.Machine.execRefRestored which s

end Sys2Proof.Machine
end

