-- ==== Sys2Proof/Safety.lean ====
section
/-!
DEFINITION. What counts as a safe run, in the terms claims use: a step that answers a next state, and a state whose tables and
memories are in their canonical form and whose register fields hold values of their widths.
-/

namespace Sys2Proof.Machine

/-- The step answers a next state. -/
def Advances (s : State) : Prop := ∃ t, step s = .next t

/-- The field that a register key names. -/
def regFld (k : Nat) : Fld := Fld.ofNat (k / 16384 % 1024)

/-- What an unlisted register key reads as: the field's reset value. -/
def regDefault (k : Nat) : Nat := regReset (k / 16384 / 1024) (regFld k) (k % 16384)

/-- Every register field holds a value of its width. -/
def regsFit (m : SMap Nat) : Prop := ∀ e ∈ m, e.2 < 2 ^ (regFld e.1).row.width

/-- Every table and memory of the state is in canonical form (keys strictly rising, nothing listed that an unlisted key reads as),
and every register field holds a value of its width. -/
structure State.Ok (s : State) : Prop where
  regs : SMap.wf regDefault s.regs
  fit : regsFit s.regs
  dram : dramWf s
  spad : spadWf s
  dramChk : SMap.wf (fun _ => none) s.dramChk
  spadChk : SMap.wf (fun _ => none) s.spadChk
  vslots : SMap.wf (fun _ => {}) s.vslots
  ldgSeq : SMap.wf (fun _ => 0) s.ldgSeq
  ldgLost : SMap.wf (fun _ => 0) s.ldgLost
  ctxs : SMap.wf (fun _ => {}) s.ctxs
  runs : SMap.wf (fun _ => none) s.runs
  pms : SMap.wf (fun _ => {}) s.pms
  engines : SMap.wf (fun _ => {}) s.engines
  spads : SMap.wf (fun _ => {}) s.spads
  serais : SMap.wf (fun _ => {}) s.serais
  sess : SMap.wf (fun _ => {}) s.sess
  memGens : SMap.wf (fun _ => 0) s.memGens
  chans : SMap.wf (fun _ => {}) s.chans
  units : SMap.wf (fun _ => {}) s.units
  msix : SMap.wf (fun _ => 0) s.msix
  ceWins : SMap.wf (fun _ => {}) s.ceWins
  drovers : SMap.wf (fun _ => {}) s.drovers
  servedBytes : SMap.wf (fun _ => 0) s.servedBytes
  ports : SMap.wf (fun _ => {}) s.ports
  members : SMap.wf (fun _ => {}) s.members
  bseqs : SMap.wf (fun _ => none) s.bseqs
  sens : SMap.wf (fun _ => {}) s.sens
  partCond : SMap.wf (fun _ => 0) s.partCond
  pllTemp : SMap.wf (fun _ => -1000000) s.pllTemp
  recov : SMap.wf (fun _ => none) s.recov
  keys : SMap.wf (fun _ => none) s.keys
  psks : SMap.wf (fun _ => none) s.psks
  spdm : SMap.wf (fun _ => none) s.spdm
  pskFails : SMap.wf (fun _ => 0) s.pskFails
  hdm : SMap.wf (fun _ => none) s.hdm
  divided : SMap.wf (fun _ => 0) s.divided

/-- The parts of the state: the groups of register fields (the common header's by register, the others by page), and every other field. -/
inductive Part where
  | pending | outbox | freeCtr | variant | regCtl | regIrq | regLock | regSet | regErr | regMs | regEpo | regLdg | regSerai
  | regEng | regSpd | regTmv | regBkc | regBku | regMcs | regDrv | regBlk | regRcv | regFlt | regEvl | regOpt | regBay
  | regSes | regRng | regHif | regSec | regPwr | regThm | regClk | regMgt | staging | prevSet | ops | vslots | floorAbove | sourceLost | ldgSeq
  | ldgLost | ctxs | runs | nextRun | pms | engines | spads | spad | spadChk | serais | loadQ | loading | loadCount
  | sess | abortWaits | memGens | spadGen | dram | dramChk | chans | units | flights | snoop | biWait | msix | ceWins
  | drovers | remaps | repairLog | servedBytes | ports | members | bseqs | lastFrames | left | sens | stackHold
  | partHold | partCond | pllTemp | recov | winOpen | compBad | keys | psks | spdm | pskFails | pskLocked | setCount
  | zeroDue | d3 | perst | hdm | psNext | clamp | divided | coreSet | supplyLow | lowMs | romOnly | update | fwDone | fwSlots
  | dies | retQueue
deriving DecidableEq, Repr

/-- The last field of each register group, in the order of the fields. -/
def groupEnds : List (Fld × Part) :=
  [(.hdrResetting, .regCtl), (.hdrIrqForce, .regIrq), (.hdrBadWrite, .regLock), (.hdrRollback, .regSet),
   (.hdrErrDetail, .regErr), (.hdrMsArm, .regMs), (.epoVsEpoch, .regEpo), (.epoLdgDropped, .regLdg), (.seraiRemoteRejected, .regSerai),
   (.engLsetActive, .regEng), (.spdSpNeed, .regSpd), (.tmvLsetActive, .regTmv), (.bkcLsetActive, .regBkc),
   (.bkuBuView, .regBku), (.mcsRecals, .regMcs), (.drvFreePages, .regDrv), (.blkReadPoisoned, .regBlk),
   (.fltJrnTag, .regRcv), (.fltRawSyn, .regFlt), (.evlReach, .regEvl), (.optLane, .regOpt), (.bayFedMask, .regBay),
   (.hifSflagBase, .regSes), (.hifCqTail, .regRng), (.hifDbDiscard, .regHif), (.secDenied, .regSec), (.pwrEnergyMj, .regPwr), (.thmTemps, .regThm),
   (.clkPllRecals, .regClk), (.mgtRetGo, .regMgt)]

/-- The group of a register field. -/
def Fld.part (f : Fld) : Part := ((groupEnds.find? fun e => f.ctorIdx ≤ e.1.ctorIdx).map Prod.snd).getD .regMgt

/-- The register fields of a group are the same in both states. -/
def SameRegs (g : Part) (s t : State) : Prop := ∀ p f i, f.part = g → rdi t p f i = rdi s p f i

/-- The part is the same in both states. -/
def Same (p : Part) (s t : State) : Prop :=
  match p with
  | .pending => t.pending = s.pending
  | .outbox => t.outbox = s.outbox
  | .freeCtr => t.freeCtr = s.freeCtr
  | .variant => t.variant = s.variant
  | .regCtl => SameRegs .regCtl s t
  | .regIrq => SameRegs .regIrq s t
  | .regLock => SameRegs .regLock s t
  | .regSet => SameRegs .regSet s t
  | .regErr => SameRegs .regErr s t
  | .regMs => SameRegs .regMs s t
  | .regEpo => SameRegs .regEpo s t
  | .regLdg => SameRegs .regLdg s t
  | .regSerai => SameRegs .regSerai s t
  | .regEng => SameRegs .regEng s t
  | .regSpd => SameRegs .regSpd s t
  | .regTmv => SameRegs .regTmv s t
  | .regBkc => SameRegs .regBkc s t
  | .regBku => SameRegs .regBku s t
  | .regMcs => SameRegs .regMcs s t
  | .regDrv => SameRegs .regDrv s t
  | .regBlk => SameRegs .regBlk s t
  | .regRcv => SameRegs .regRcv s t
  | .regFlt => SameRegs .regFlt s t
  | .regEvl => SameRegs .regEvl s t
  | .regOpt => SameRegs .regOpt s t
  | .regBay => SameRegs .regBay s t
  | .regSes => SameRegs .regSes s t
  | .regRng => SameRegs .regRng s t
  | .regHif => SameRegs .regHif s t
  | .regSec => SameRegs .regSec s t
  | .regPwr => SameRegs .regPwr s t
  | .regThm => SameRegs .regThm s t
  | .regClk => SameRegs .regClk s t
  | .regMgt => SameRegs .regMgt s t
  | .staging => t.staging = s.staging
  | .prevSet => t.prevSet = s.prevSet
  | .ops => t.ops = s.ops
  | .vslots => t.vslots = s.vslots
  | .floorAbove => t.floorAbove = s.floorAbove
  | .sourceLost => t.sourceLost = s.sourceLost
  | .ldgSeq => t.ldgSeq = s.ldgSeq
  | .ldgLost => t.ldgLost = s.ldgLost
  | .ctxs => t.ctxs = s.ctxs
  | .runs => t.runs = s.runs
  | .nextRun => t.nextRun = s.nextRun
  | .pms => t.pms = s.pms
  | .engines => t.engines = s.engines
  | .spads => t.spads = s.spads
  | .spad => t.spad = s.spad
  | .spadChk => t.spadChk = s.spadChk
  | .serais => t.serais = s.serais
  | .loadQ => t.loadQ = s.loadQ
  | .loading => t.loading = s.loading
  | .loadCount => t.loadCount = s.loadCount
  | .sess => t.sess = s.sess
  | .abortWaits => t.abortWaits = s.abortWaits
  | .memGens => t.memGens = s.memGens
  | .spadGen => t.spadGen = s.spadGen
  | .dram => t.dram = s.dram
  | .dramChk => t.dramChk = s.dramChk
  | .chans => t.chans = s.chans
  | .units => t.units = s.units
  | .flights => t.flights = s.flights
  | .snoop => t.snoop = s.snoop
  | .biWait => t.biWait = s.biWait
  | .msix => t.msix = s.msix
  | .ceWins => t.ceWins = s.ceWins
  | .drovers => t.drovers = s.drovers
  | .remaps => t.remaps = s.remaps
  | .repairLog => t.repairLog = s.repairLog
  | .servedBytes => t.servedBytes = s.servedBytes
  | .ports => t.ports = s.ports
  | .members => t.members = s.members
  | .bseqs => t.bseqs = s.bseqs
  | .lastFrames => t.lastFrames = s.lastFrames
  | .left => t.left = s.left
  | .sens => t.sens = s.sens
  | .stackHold => t.stackHold = s.stackHold
  | .partHold => t.partHold = s.partHold
  | .partCond => t.partCond = s.partCond
  | .pllTemp => t.pllTemp = s.pllTemp
  | .recov => t.recov = s.recov
  | .winOpen => t.winOpen = s.winOpen
  | .compBad => t.compBad = s.compBad
  | .keys => t.keys = s.keys
  | .psks => t.psks = s.psks
  | .spdm => t.spdm = s.spdm
  | .pskFails => t.pskFails = s.pskFails
  | .pskLocked => t.pskLocked = s.pskLocked
  | .setCount => t.setCount = s.setCount
  | .zeroDue => t.zeroDue = s.zeroDue
  | .d3 => t.d3 = s.d3
  | .perst => t.perst = s.perst
  | .hdm => t.hdm = s.hdm
  | .psNext => t.psNext = s.psNext
  | .clamp => t.clamp = s.clamp
  | .divided => t.divided = s.divided
  | .coreSet => t.coreSet = s.coreSet
  | .supplyLow => t.supplyLow = s.supplyLow
  | .lowMs => t.lowMs = s.lowMs
  | .romOnly => t.romOnly = s.romOnly
  | .update => t.update = s.update
  | .fwDone => t.fwDone = s.fwDone
  | .fwSlots => t.fwSlots = s.fwSlots
  | .dies => t.dies = s.dies
  | .retQueue => t.retQueue = s.retQueue

/-- Only the listed parts of the state may differ. -/
def Only (m : List Part) (s t : State) : Prop := ∀ p, m.contains p = false → Same p s t

/-- Only the listed register fields, each by page, field and instance, may differ. -/
def RegsBut (l : List (Nat × Fld × Nat)) (s t : State) : Prop :=
  ∀ p f i, (homePage p f, f, i % 16384) ∉ l → rdi t p f i = rdi s p f i

/-- The unit takes register writes on its page: it answers, and a partition header is neither in RESETTING nor without power (R45, R479). -/
def takesWrites (s : State) (u : UnitId) : Bool :=
  unitReachable s u && !(isPartHeader u && (pstate s = 3 || (u.partition.map (partState s ·)).getD 0 = 2))

/-- The CTRL operation may start on unit `u`, other than the whole device: the unit answers, it and its nested units run no operation of the
kind and no RESET, and its partition is in service and holds no operations (R13-R16, R34, R35). -/
def ctrlFree (s : State) (u : UnitId) (kind : CtrlKind) : Prop :=
  u ≠ .dev ∧ unitReachable s u = true ∧ (∀ v, v ∈ u.all → opRuns s v.page kind = false) ∧ opRuns s u.page .reset = false ∧
    ∀ n, u.partition = some n → partState s n ≠ 4 ∧ partHolds s n = false

/-- Only set fields are staged or kept as a previous set (R66). -/
def setsOnly (s : State) : Prop :=
  (∀ v, v ∈ s.staging → v.fld.row.set = true) ∧ ∀ v, v ∈ s.prevSet → v.fld.row.set = true

/-- The message has been sent since state `s`. -/
def Sent (m : Msg) (s t : State) : Prop := m ∈ t.outbox.drop s.outbox.length

/-- The command completion `r` has been written into the next slot of session `x`'s completion ring, whose tail moves on (R431, R432). -/
def Completed (x : Nat) (r : CmdRecord) (s t : State) : Prop :=
  Sent (.hostWrite (sessLink s x) x (rdi s pgHif .hifCqBase x + 32 * rdi s pgHif .hifCqTail x) (cmdBytes (epochNow s) r)) s t ∧
    rdi t pgHif .hifCqTail x = (rdi s pgHif .hifCqTail x + 1) % 2 ^ rdi s pgHif .hifCqLog2 x

/-- The work of the started descriptor `k` of a queue has ended with status `st`. -/
def Ended (g c q k : Nat) (st : DStat) (t : State) : Prop :=
  ∃ w, w ∈ ((ctxAt t (ctxId g c)).q q).live ∧ w.k = k ∧ w.stat = some st

/-- A movement descriptor whose memory is local, as it stands: its body, its plan of runs, and the translation of the runs (R222-R242). -/
def localMove (s : State) (g c : Nat) (w : Work) : TmBody × TmPlan × Except (MemStop × Nat) (List (List (Nat × Nat))) :=
  let p := tmPlan s g c w
  (p.1.x, p.1.plan, (xlateRuns g c p.1.x.region (tmWrites (dType w.img)) p.1.plan.runs p.2).1)

/-- What holds a local movement back, all at once (R238): a column that its translation or its transfer reads is not served, or its writes
find no room together. The columns named are those that a running gang holds. -/
def localWait (s : State) (g c : Nat) (w : Work) : Option (List Nat) :=
  let p := tmPlan s g c w
  let t := xlateRuns g c p.1.x.region (tmWrites (dType w.img)) p.1.plan.runs p.2
  match t.1 with
  | .error (.wait held, _) => some held
  | .error _ => none
  | .ok ps =>
    if p.1.plan.stop.isSome then none
    else (piecesWait t.2 (corePortAt g) ps.flatten false (tmWrites (dType w.img))).orElse fun _ =>
      piecesWait t.2 (corePortAt g) (((p.1.plan.runs.zip ps).filter fun r => r.1.add).flatMap Prod.snd) true false

/-- A host access of special column `sc` of bank unit `bk` that the harness window takes: the channel is in harness mode and answers,
and the offset is a whole column of one bank (R255, R257). -/
def harnessTakes (s : State) (dpa d c bank sc : Nat) (write : Bool) : Prop :=
  ∃ off, regionOf s.variant dpa = .harness d c off ∧ harnessAddr d c off write = ⟨ckOf d c, false, bank, sc, true⟩ ∧ off % 32 = 0 ∧
    (chanAt s (ckOf d c)).hm = .on ∧ harnessHeld s (ckOf d c) = false ∧ partState s (partOfStack d) ≠ 4

/-- A column that is served at once and holds nothing but its sealed data: no request waits at its channel, no port is held back, and its
stored check segment is the valid one (R335, R337, R345, R360). -/
structure memQuiet (s : State) (c : Nat) : Prop where
  serves : colServes s c = true
  reads : (chanAt s (chanKey c)).rdq = []
  writes : (chanAt s (chanKey c)).wrq = []
  late : (chanAt s (chanKey c)).late = []
  sealed : colChk s c = none
  plain : isSideCol s c = false
  compact : rd s (mcPageOf c) .mcsQosMode = 0

/-- What may change with ending a descriptor: its context, run, scoreboard entries and the pending writes of its scratchpad. -/
def endParts : List Part :=
  [.outbox, .regIrq, .regErr, .regSpd, .regFlt, .ctxs, .runs, .engines, .spads, .spad, .spadChk, .ceWins]

/-- What may change with raising a ledger record, which is a write of PIM DRAM. -/
def ledgerParts : List Part :=
  [.outbox, .regIrq, .regErr, .regLdg, .regMcs, .regFlt, .ldgSeq, .ldgLost, .dram, .dramChk, .chans, .units, .snoop, .biWait,
   .servedBytes]

/-- What may change with an access to PIM DRAM: besides the columns, the channels that freeze, the bank sequences they abort, the ledger and the error logs. -/
def memoryParts : List Part :=
  [.outbox, .freeCtr, .regIrq, .regErr, .regLdg, .regBku, .regMcs, .regFlt, .ldgSeq, .ldgLost, .dram, .dramChk, .chans, .units,
   .flights, .snoop, .biWait, .ceWins, .servedBytes]

/-- What may change with every register group. -/
def regParts : List Part :=
  [.regCtl, .regIrq, .regLock, .regSet, .regErr, .regMs, .regEpo, .regLdg, .regSerai, .regEng, .regSpd, .regTmv, .regBkc, .regBku,
   .regMcs, .regDrv, .regBlk, .regRcv, .regFlt, .regEvl, .regOpt, .regBay, .regSes, .regRng, .regHif, .regSec, .regPwr, .regThm,
   .regClk, .regMgt]

/-- What may change with milestones that fire: configuration sets, the version table, the drovers. -/
def settleParts : List Part :=
  [.outbox, .regCtl, .regIrq, .regLock, .regSet, .regErr, .regMs, .regEpo, .regLdg, .regSerai, .regEng, .regSpd, .regTmv, .regBkc,
   .regBku, .regMcs, .regDrv, .regBlk, .regRcv, .regFlt, .regEvl, .regOpt, .regBay, .regSes, .regRng, .regHif, .regSec, .regPwr,
   .regThm, .regClk, .regMgt, .staging, .prevSet, .vslots, .floorAbove, .ldgSeq, .ldgLost, .dram, .dramChk, .chans, .units, .snoop,
   .biWait, .drovers, .servedBytes, .fwSlots]

/-- Every part but the queue of commands and the ordering code. -/
def deviceParts : List Part :=
  regParts ++ [.outbox, .freeCtr, .staging, .prevSet, .ops, .vslots, .floorAbove, .sourceLost, .ldgSeq, .ldgLost, .ctxs, .runs, .nextRun, .pms,
   .engines, .spads, .spad, .spadChk, .serais, .loadQ, .loading, .loadCount, .sess, .abortWaits, .memGens, .spadGen, .dram,
   .dramChk, .chans, .units, .flights, .snoop, .biWait, .msix, .ceWins, .drovers, .remaps, .repairLog, .servedBytes, .ports,
   .members, .bseqs, .lastFrames, .left, .sens, .stackHold, .partHold, .partCond, .pllTemp, .recov, .winOpen, .compBad, .keys,
   .psks, .spdm, .pskFails, .pskLocked, .setCount, .zeroDue, .d3, .perst, .hdm, .psNext, .clamp, .divided, .coreSet, .supplyLow,
   .lowMs, .romOnly, .update, .fwDone, .fwSlots, .dies, .retQueue]

/-- The parts of the state that a command may change. -/
def footprint : Instr → List Part
  | .regWrite _ _ _ _ | .sync _ | .fence _ | .unfence _ | .reset _ | .ctrlOpComplete _ _ | .pageLockSet _ | .irqForce _ _
  | .rollback _ | .cfgSetFieldWrite _ _ _ _ | .milestoneArm _ _ _ _ _ | .milestoneDisarm _ _ | .ldgRptrWrite _
  | .spineSingleFault _ _ | .spineStorageError _ | .deviceReset | .lcAdvance _ _ _ | .pstateDone | .supplyCollapse | .overvoltage
  | .railFault | .sensorSample _ | .holdTimeout | .refLoss _ | .pwrDisAssert | .moduleWithdraw => deviceParts
  | .readClear _ _ _ => regParts ++ [.outbox, .spads]
  | .epochAdvance _ => settleParts ++ [.ports]
  | .epochBroadcast _ => settleParts ++ [.ports, .bseqs]
  | .install _ _ | .close _ _ | .query _ _ | .free _ _ => [.outbox, .regIrq, .regEpo, .vslots, .floorAbove, .drovers]
  | .sqTail _ _ | .cqHead _ _ | .fenceReq _ _ => [.outbox, .regIrq, .regHif, .sess]
  | .sqFetch _ _ _ => [.outbox, .freeCtr, .regIrq, .regErr, .regFlt, .regRng, .sess]
  | .sqNop _ => [.outbox, .regRng, .sess]
  | .sqLoad _ => memoryParts ++ [.regRng, .loadQ, .sess]
  | .loaderDequeue _ => memoryParts ++ [.regRng, .pms, .loadQ, .loading, .sess]
  | .loadSlots => [.pms, .loading]
  | .loadComplete _ => memoryParts ++ [.regRng, .pms, .loading, .loadCount, .sess]
  | .loadWaitExpire _ => memoryParts ++ [.regRng, .pms, .loading, .sess]
  | .loadQuery _ => memoryParts ++ [.regRng, .sess]
  | .run _ => memoryParts ++ [.regRng, .regPwr, .floorAbove, .ctxs, .runs, .nextRun, .pms, .spads, .sess, .psNext]
  | .abort _ => [.outbox, .regRng, .ctxs, .runs, .spads, .sess, .abortWaits]
  | .runComplete _ => settleParts ++ [.ctxs, .runs, .pms, .sess, .abortWaits]
  | .sessOpen _ => [.regSes, .regRng, .sess]
  | .sessClose _ => memoryParts ++ [.regSes, .regRng, .ctxs, .runs, .spads, .loadQ, .sess]
  | .sessionClosed _ => [.regSes, .sess]
  | .memFenceDone _ => [.sess]
  | .hsigSet _ _ | .hsigClear _ _ => ledgerParts ++ [.regHif, .serais]
  | .descLoad _ _ _ => [.ctxs, .engines]
  | .descStart _ _ _ => [.regSpd, .ctxs, .engines, .spads, .sess]
  | .descComplete _ _ _ _ => endParts ++ [.regEng, .regTmv, .regBkc, .regRng, .sess, .flights]
  | .nop _ _ _ | .wait _ _ _ | .endDesc _ _ _ | .epochWait _ _ | .ctrWait _ _ | .barWait _ _ | .hostNotify _ _ | .go _ =>
      endParts ++ [.sess]
  | .barrier _ _ _ => endParts ++ [.regEng, .regTmv, .regBkc, .regRng, .sess]
  | .ctxBind _ _ => endParts ++ [.floorAbove, .sess]
  | .flagSet _ _ | .flagClear _ _ | .flagToggle _ _ | .flagWait _ _ | .ctrAdd _ _ | .ctrSet _ _ | .barInit _ _ =>
      endParts ++ [.serais, .sess]
  | .barArrive _ _ => ledgerParts ++ endParts ++ [.serais, .sess]
  | .remoteSignal _ _ => ledgerParts ++ endParts ++ [.sess, .ports]
  | .hopRead _ _ _ | .hopFlagSet _ _ _ | .hopFlagClear _ _ _ | .hopCtrAdd _ _ _ | .hopCtrSet _ _ _ | .hopBarInit _ _ _
  | .hopBarArrive _ _ _ | .dbgRelease _ _ _ | .dbgWithdraw _ _ _ => ledgerParts ++ [.regSerai, .ctxs, .runs, .spads, .serais]
  | .heldSignalApply _ _ => ledgerParts ++ [.regSerai, .serais]
  | .wdogFire _ _ => ledgerParts ++ endParts ++ [.regSerai]
  | .matmul _ _ | .vxMap _ _ | .vxReduce _ _ | .vxSoftmax _ _ | .vxNorm _ _ | .vxSort _ _ | .vxTopk _ _ | .vxSample _ _
  | .vxConvert _ _ | .vxSelect _ _ => endParts ++ [.freeCtr]
  | .sbClaim _ _ _ => [.regSpd, .spads]
  | .sbRelease _ _ _ _ _ | .recordWrite _ _ _ _ _ => endParts ++ [.regBkc, .flights]
  | .narrowWriteback _ _ | .scratchpadScrub _ => [.outbox, .regIrq, .regErr, .regSpd, .regFlt, .spads, .spad, .spadChk, .ceWins]
  | .debugWindowAccess _ _ _ _ _ => [.outbox, .freeCtr, .regIrq, .regErr, .regSpd, .regFlt, .spads, .spad, .spadChk, .ceWins]
  | .spadPoisonMark _ => [.spads, .spadChk]
  | .load _ _ | .store _ _ | .gather _ _ | .scatter _ _ | .retryReissue _ _ _ | .rdResp _ | .wrAck _ | .accAck _ =>
      memoryParts ++ endParts ++ [.regTmv, .regEvl, .ports, .lastFrames]
  | .bkMvs _ _ | .bkDot _ _ | .bkGred _ _ | .bkPqscan _ _ | .bkRowop _ _ => memoryParts ++ endParts ++ [.regTmv, .regBkc]
  | .bkReservation _ _ _ => [.regMcs, .chans, .flights, .servedBytes]
  | .bkUploadDone _ _ _ => endParts ++ [.freeCtr, .regBkc, .chans, .flights]
  | .gangCommand _ _ _ _ => ledgerParts ++ endParts ++ [.freeCtr, .regBkc, .flights]
  | .harnessEntry _ _ | .harnessExit _ _ | .harnessOff _ _ => [.regMcs, .chans, .servedBytes]
  | .harnessOn _ _ | .legEnd _ _ _ _ _ | .seqLastStep _ _ _ _ | .collectorSend _ _ _ | .memReadRequest _ _ _
  | .memWriteRequest _ _ _ _ | .partialMerge _ _ | .recalDone _ _ | .tollgateRefill _ | .frzRelease _ _ _
  | .freezeAutoRelease _ _ _ | .scrubRead _ _ | .scrubAgeLimit _ _ | .testModeOff | .dataOnly | .chkOnly | .rawRead
  | .cxlMemRead _ _ _ | .cxlMemWrite _ _ _ _ _ | .writeDrain _ _ => memoryParts
  | .hmReqWrite _ _ => [.regBku, .regMcs, .chans, .servedBytes]
  | .vRegisterWrite _ _ | .cwWrite _ _ | .cblWrite _ _ | .clear _ _ _ | .mvs _ _ _ | .dot _ _ _ | .gred _ _ _ | .pqscan _ _ _
  | .copyOut _ _ _ | .rowlist _ _ _ | .vet _ _ _ | .burnish _ _ _ => ledgerParts ++ [.freeCtr, .regBku, .ceWins]
  | .fifoPop _ => [.outbox, .freeCtr, .regIrq, .regErr, .regMcs, .regFlt, .chans, .units, .servedBytes]
  | .rowlistPiece _ _ _ _ => ledgerParts ++ [.freeCtr, .ceWins]
  | .gangResume _ _ _ _ | .gangWaitEnd _ _ _ _ => [.regBku, .chans]
  | .seqDrained _ _ _ => endParts ++ [.regBkc, .chans, .flights]
  | .abGo _ => ledgerParts ++ endParts ++ [.regBkc, .regBku, .flights]
  | .linMapWrite _ _ _ | .bmpMapWrite _ _ _ => [.regLock, .regMcs]
  | .segCreate _ | .segWrite _ | .segSeal _ | .segDelete _ | .segQuery _ | .segBind _ | .segUnbind _ | .segDone _ =>
      memoryParts ++ [.regDrv, .regBlk, .drovers]
  | .poolEnWrite _ _ _ | .poolDisabled _ _ => settleParts
  | .drFetch _ _ => memoryParts ++ endParts ++ [.regTmv, .regDrv, .drovers]
  | .drPromote _ _ => endParts ++ [.freeCtr, .regTmv, .regDrv, .drovers]
  | .drUnpin _ _ => endParts ++ [.regTmv, .drovers]
  | .bulkPageLand _ _ _ _ => settleParts ++ endParts ++ [.freeCtr, .flights]
  | .bulkPatrol _ _ => [.outbox, .freeCtr, .regIrq, .regBlk]
  | .retGo => [.retQueue]
  | .dieRetire _ _ => [.outbox, .freeCtr, .regIrq, .regBlk, .dies, .retQueue]
  | .refreshInterval _ _ _ | .refresh _ _ _ | .recalDue _ _ | .recalForced _ _ => [.regMcs, .chans]
  | .requestUrgency _ _ _ _ _ => [.outbox, .regIrq, .regMcs, .chans]
  | .caParity _ _ _ _ _ | .wcrcExhausted _ _ _ _ _ | .frzForce _ _ => ledgerParts ++ [.freeCtr, .regBku, .flights]
  | .scrubWriteback _ _ | .repairWaitExpire _ _ | .fwSwitchWaitExpire _ _ => [.chans]
  | .repairGo => ledgerParts
  | .rowRepair _ _ => ledgerParts ++ [.ceWins, .remaps, .repairLog]
  | .ceWindowExpire _ => [.ceWins]
  | .portEnWrite _ _ | .retrain _ | .trainAttemptTimeout _ | .fastRetrainDone _ _ | .portDown _ _ | .portFatal _ _ _ =>
      memoryParts ++ endParts ++ [.regTmv, .regEvl, .serais, .ports]
  | .portUp _ _ _ => memoryParts ++ endParts ++ [.regTmv, .regEvl, .regOpt, .serais, .ports]
  | .fastRetrain _ => ledgerParts ++ [.regEvl]
  | .flitReceive _ _ _ _ => [.outbox, .regIrq, .regErr, .regFlt, .regEvl, .ports]
  | .rdReq _ | .wr _ | .acc _ => memoryParts ++ [.regEvl, .ports]
  | .signal _ => ledgerParts ++ [.regSerai, .serais, .ports]
  | .remoteTimeout _ _ => memoryParts ++ endParts ++ [.regTmv, .ports]
  | .hello _ => [.regEvl, .ports]
  | .join _ | .present _ | .leave _ | .reachTimeout _ _ | .mbrClear _ =>
      memoryParts ++ endParts ++ [.regTmv, .regEvl, .sourceLost, .serais, .ports, .members]
  | .presentTimer => [.freeCtr, .ports]
  | .mbrLeave => [.freeCtr, .ports, .left]
  | .selfAddrWrite _ _ => memoryParts ++ endParts ++ [.regLock, .regTmv, .regEvl, .sourceLost, .serais, .ports, .members]
  | .prepare _ => memoryParts ++ endParts ++ [.regLock, .regTmv, .regEvl, .regOpt, .regBay, .serais, .ports]
  | .prepareDone _ | .cancel _ | .cartInsert _ _ _ | .cartRemove _ | .warmingDone _ | .lockDone _ | .lockTimeout _
  | .cartFault _ _ => memoryParts ++ endParts ++ [.regTmv, .regEvl, .regOpt, .regBay, .serais, .ports]
  | .linkUp _ _ _ => [.outbox, .regIrq, .regHif]
  | .linkDown _ => endParts ++ [.regHif, .sess, .hdm]
  | .perstDeassert _ => [.outbox, .regIrq, .regHif, .perst]
  | .hdmCommit _ _ _ _ _ => [.outbox, .hdm]
  | .membarRead _ _ | .membarWrite _ _ _ => memoryParts ++ [.regSpd, .spads, .spad, .spadChk]
  | .cxlSnoop _ | .getVersion | .getCapabilities | .negotiateAlgorithms | .keyUpdate _ | .heartbeat _ | .spdmUnsupported
  | .pldmSensorRead _ _ => [.outbox]
  | .partitionFatal _ _ _ =>
      [.outbox, .regCtl, .regIrq, .regErr, .regRcv, .regFlt, .regPwr, .ctxs, .flights, .recov, .winOpen, .psNext]
  | .bulkFatal _ _ _ => [.outbox, .regIrq, .regErr, .regBlk, .regFlt]
  | .resetGo _ =>
      memoryParts ++ [.regCtl, .regSpd, .regDrv, .regRcv, .regRng, .regPwr, .regClk, .floorAbove, .ctxs, .pms, .engines, .spads,
      .spad, .spadChk, .serais, .loading, .sess, .drovers, .ports, .recov, .winOpen, .psNext, .divided]
  | .drainEnd _ =>
      memoryParts ++ [.regSpd, .regDrv, .regRcv, .regRng, .regClk, .floorAbove, .ctxs, .pms, .engines, .spads, .spad, .spadChk,
      .serais, .loading, .sess, .drovers, .ports, .divided]
  | .scratchpadSamplingDone _ => regParts ++ [.outbox, .ctxs, .spads, .spad, .spadChk, .ceWins, .recov]
  | .channelRestoreDone _ _ _ => ledgerParts ++ [.recov]
  | .partResetDone _ | .ctxReplayed _ _ | .spdmPartOos _ _ | .pwrPartOos _ | .pldmOosEffecter _ _ =>
      settleParts ++ endParts ++ [.freeCtr, .ops, .pms, .serais, .loading, .sess, .abortWaits, .flights, .ports, .recov]
  | .readmit _ | .spineResyncDone => [.regRcv]
  | .readmitDone _ _ _ => memoryParts ++ [.regRcv, .regClk, .ctxs, .serais, .sess, .memGens, .remaps]
  | .pskExchange _ | .endSession _ => [.outbox, .spdm]
  | .pskFinish _ _ => [.outbox, .regIrq, .regErr, .regFlt, .spdm, .pskFails, .pskLocked]
  | .heartbeatLapse _ => [.spdm]
  | .pskLockoutEnd _ => [.pskLocked]
  | .getMeasurements _ _ => [.outbox, .freeCtr]
  | .keySet _ _ _ => [.outbox, .regIrq, .regSec, .keys, .setCount]
  | .keyClear _ _ => [.outbox, .regIrq, .regSec, .keys]
  | .pskSet _ _ _ => [.outbox, .regIrq, .regSec, .psks, .setCount]
  | .dbgSet _ _ => memoryParts ++ [.regSec]
  | .spdmPstate _ _ | .pldmPowerEffecter _ _ => [.outbox, .freeCtr, .regPwr, .regMgt, .ports, .psNext]
  | .unlockAll => regParts ++ [.outbox]
  | .psGo => [.freeCtr, .regPwr, .regMgt, .ports, .psNext]
  | .d3hot _ | .d0 _ => [.freeCtr, .regPwr, .regMgt, .ports, .d3, .psNext]
  | .supplyUndervoltage => [.outbox, .regIrq, .regPwr, .supplyLow]
  | .supplyRecovered _ => [.regPwr, .supplyLow]
  | .fastClamp => [.outbox, .regIrq, .regClk, .clamp, .divided]
  | .fastClampRelease => [.clamp]
  | .hostStepWrite _ | .thermStepRaise | .thermStepLower => [.regPwr]
  | .stepMove => [.outbox, .regIrq, .regPwr, .clamp]
  | .powerEnforce _ _ _ _ _ => [.regPwr, .regClk, .coreSet, .lowMs]
  | .limitUnmet => [.outbox, .regIrq]
  | .pllRelockDone _ => [.regClk, .divided]
  | .sensClear => [.sens]
  | .powerOn _ _ _ _ _ _ _ =>
      settleParts ++ endParts ++ [.freeCtr, .ops, .pms, .serais, .loading, .sess, .abortWaits, .memGens, .flights, .remaps, .ports,
      .pllTemp, .recov, .zeroDue, .romOnly, .fwDone]
  | .bootReady => [.outbox, .freeCtr, .regIrq, .regMgt]
  | .pwrDisDeassert => [.regMgt]
  | .requestUpdate _ | .passComponentTable _ | .transferComplete => [.outbox, .update]
  | .updateComponent _ => [.outbox, .regSet, .regMgt, .prevSet, .update]
  | .verifyComplete _ _ => [.outbox, .regMgt, .update]
  | .activateFirmware _ => settleParts ++ [.update]
  | .fwSwitch _ _ => settleParts ++ [.fwDone]
  | .escWindowExpire _ => [.regRcv, .winOpen]
  | .backInvalidateDone _ => [.snoop, .biWait]
  | .flitTransmit _ => [.outbox, .regEvl, .ports]
  | .refRestored _ => [.outbox, .regIrq, .regHif, .regClk]

end Sys2Proof.Machine
end

