-- ==== Sys2Proof/Certificates/Slice0/Obligations.lean ====
section
/-!
DEFINITION. The statements for the provers.
-/

open Sys2Proof Sys2Proof.Machine

/-- A step runs the command at the front of the queue. For every command and every state: a step with the command at the front of the
queue is that command's effect on the state with the rest of the queue; with an empty queue the step leaves the state as it is (the idle
step is the model's choice, log entry 2). -/
def Obligations.StepRunsFrontCommand : Prop :=
  (∀ (c : Instr) (rest : List Instr) (s : State), step { s with pending := c :: rest } = exec c { s with pending := rest }) ∧
  ∀ s : State, s.pending = [] → step s = .next s

/-- What reset leaves in the registers and outside them. Right after reset every register field reads its reset value, among them
EPOCH_NOW 0, WARN_EXP 24, ledger SIZE 8, WDOG_TIMEOUT 200, HM_IDLE_US 10, CE_THRESH 1000, DRAIN_NS 2000, ESC_LIMIT 3, BER_THRESH
1000000; every partition is in service; no context, run, session work, sequence or recovery exists, memory lists nothing, and no command
waits. Fields whose reset value the spec does not give hold 0 (log entry 5) and memory reads 0 (log entry 6): those values are the
model's choice and no clause names them. -/
def Obligations.ResetLeaves : Prop :=
  (∀ p f i, rdi State.reset p f i = regReset (homePage p f) f (i % 16384)) ∧
  rd State.reset 0x2018 .epoEpochNow = 0 ∧ rd State.reset 0x2018 .epoWarnExp = 24 ∧
  (∀ src, rdi State.reset 0x2018 .epoLdgSize src = 8 ∧ rdi State.reset 0x2018 .epoLdgEn src = 0) ∧
  (∀ k, rd State.reset (seraiPage k) .seraiWdogTimeout = 200) ∧ (∀ d, rd State.reset (buOf d).page .bkuHmIdleUs = 10) ∧
  (∀ p, rdi State.reset 0x2028 .fltCeThresh p = 1000) ∧ rd State.reset 0x2028 .fltDrainNs = 2000 ∧
  rd State.reset 0x2028 .fltEscLimit = 3 ∧ (∀ p, rd State.reset (portPage p) .evlBerThresh = 1000000) ∧
  (∀ n, partState State.reset n = 0) ∧ State.reset.ctxs = [] ∧ State.reset.runs = [] ∧ State.reset.pending = [] ∧
  State.reset.dram = [] ∧ State.reset.spad = [] ∧ State.reset.chans = [] ∧ State.reset.recov = [] ∧ State.reset.outbox = []

/-- The invariant of the model holds right after reset. At reset every table and memory of the state is in its canonical form and every
register field holds a value of its width. -/
def Obligations.ResetInvariant : Prop := State.reset.Ok

/-- Every step keeps the tables, memories and register fields well formed. From every state whose register table, PIM DRAM, scratchpads
and other tables are in canonical form and whose register fields hold values of their widths, a step that answers a next state answers
one that is so too. -/
def Obligations.StepKeepsInvariant : Prop := ∀ s t : State, s.Ok → step s = .next t → t.Ok

/-- What no step can do: reorder the queue, take back an output, draw a free value twice, change the ordering code. A step that answers
a next state takes exactly the front command off the queue (nothing from an empty queue), keeps the ordering code, only appends to what
was sent out, and never lowers the counter that free values are drawn with. -/
def Obligations.StepTakesOneCommand : Prop :=
  ∀ s t : State, step s = .next t →
    t.pending = s.pending.tail ∧ t.variant = s.variant ∧ s.outbox <+: t.outbox ∧ s.freeCtr ≤ t.freeCtr

/-- Only set fields are ever staged or kept as a previous set. From every state whose staged values and previous sets name only set
fields, every command that answers a next state leaves one where they name only set fields. -/
def Obligations.StagedValuesAreSetFields : Prop :=
  ∀ (c : Instr) (s t : State), setsOnly s → exec c s = .next t → setsOnly t

/-- Each command changes only the parts of the state in its footprint. For every command: whatever part of the state its footprint does
not list (each register group, PIM DRAM and its check segments, scratchpads, contexts, runs, sessions, Serai objects, channels, bank
units, drovers, ports, keys, ...) is the same after it as before. -/
def Obligations.CommandStaysInFootprint : Prop :=
  ∀ (c : Instr) (s t : State), exec c s = .next t → Only (footprint c) s t

/-- A host write stores each register field by its access code. On the epoch page a write of the RW fields VCMD_START and VCMD_END
stores the value and changes nothing else; on a port page that answers, BER_THRESH stores a legal value, and 0 keeps the old one and
sets BAD_WRITE; on the clock page the RWL field CLK_MAX stores a value while unlocked, and locked it keeps its value and a differing one
sets LOCK_VIOLATION; on the fault page the W1C field FLT_PEND loses the bits written 1; a write of the RO register STATUS of any unit
changes nothing; a write of a wrong width or alignment is recorded as BAD_ACCESS in the error log of the host interface (its DETAIL is
the model's choice, log entry 75) and changes nothing else. Whatever the page, offset, width and value, a register write completes,
keeps the state well formed and what was sent, and touches neither the queue of commands nor the ordering code. -/
def Obligations.RegisterWriteByAccessCode : Prop :=
  (∀ (v : Nat) (s : State), exec (.regWrite 0x2018 0x124 4 v) s = .next (wr 0x2018 .epoVcmdStart v s)) ∧
  (∀ (v : Nat) (s : State), exec (.regWrite 0x2018 0x128 4 v) s = .next (wr 0x2018 .epoVcmdEnd v s)) ∧
  (∀ (n e q v : Nat) (s : State), n < 4 → e < 2 → q < 4 → unitReachable s (.pt n e q) = true →
    exec (.regWrite (UnitId.pt n e q).page 0x12C 4 v) s =
      .next (if v % 2 ^ 32 = 0 then wr (UnitId.pt n e q).page .hdrBadWrite 1 s else wr (UnitId.pt n e q).page .evlBerThresh v s)) ∧
  (∀ (v : Nat) (s : State), rd s 0x2050 .hdrLocked = 0 →
    exec (.regWrite 0x2050 0x110 4 v) s = .next (wr 0x2050 .clkClkMax v s)) ∧
  (∀ (v : Nat) (s : State), s.Ok → rd s 0x2050 .hdrLocked = 1 →
    exec (.regWrite 0x2050 0x110 4 v) s =
      .next (if v % 16 = rd s 0x2050 .clkClkMax then s else wr 0x2050 .hdrLockViolation 1 s)) ∧
  (∀ (v : Nat) (s : State), s.Ok → ∃ t, exec (.regWrite 0x2028 0x158 4 v) s = .next t ∧
    (∀ b, b < 5 → bit (rd t 0x2028 .fltFltPend) b = (if bit v b = 1 then 0 else bit (rd s 0x2028 .fltFltPend) b)) ∧
    RegsBut [(0x2028, .fltFltPend, 0)] s t) ∧
  (∀ (u : UnitId) (page v : Nat) (s : State), unitOfPage page = some (u, 0) → exec (.regWrite page 0x44 4 v) s = .next s) ∧
  (∀ (page off width v : Nat) (s : State), ¬((width = 4 ∨ width = 8) ∧ off % width = 0 ∧ off + width ≤ 4096) →
    exec (.regWrite page off width v) s = .next (logErr 0x2010 1 1 (page * 4096 + off) s)) ∧
  ∀ (page off width v : Nat) (s : State), s.Ok →
    ∃ t, exec (.regWrite page off width v) s = .next t ∧ t.Ok ∧ s.outbox <+: t.outbox ∧ Only deviceParts s t

/-- A read returns the value, and an RC counter is cleared by it. A 32-bit read of the RC counters REMOTE_REJECTED of the device Serai,
WDOG_FIRES of the device Serai and ADV_REFUSED's register of the epoch unit sends the value held and leaves the RC field 0 and every
other register field as it was; a read of a register without RC fields (WARN_EXP's, with SRC and PEER) sends its fields and changes no
register. -/
def Obligations.ReadReturnsAndClears : Prop :=
  (∀ s : State, s.Ok → ∃ t, exec (.readClear 0x2020 0x13C 4) s = .next t ∧
    t.outbox = s.outbox ++ [.regData 0x2020 0x13C (rd s 0x2020 .seraiRemoteRejected)] ∧ rd t 0x2020 .seraiRemoteRejected = 0 ∧
    RegsBut [(0x2020, .seraiRemoteRejected, 0)] s t ∧ Only [.regSerai, .outbox] s t) ∧
  (∀ s : State, s.Ok → ∃ t, exec (.readClear 0x2020 0x134 4) s = .next t ∧
    t.outbox = s.outbox ++ [.regData 0x2020 0x134 (rd s 0x2020 .seraiWdogFires)] ∧ rd t 0x2020 .seraiWdogFires = 0 ∧
    RegsBut [(0x2020, .seraiWdogFires, 0)] s t ∧ Only [.regSerai, .outbox] s t) ∧
  (∀ s : State, s.Ok → ∃ t, exec (.readClear 0x2018 0x118 4) s = .next t ∧
    t.outbox = s.outbox ++ [.regData 0x2018 0x118 (rd s 0x2018 .epoAdvResult + rd s 0x2018 .epoAdvRefused * 2 ^ 16)] ∧
    rd t 0x2018 .epoAdvRefused = 0 ∧ RegsBut [(0x2018, .epoAdvRefused, 0)] s t ∧ Only [.regEpo, .outbox] s t) ∧
  ∀ s : State, s.Ok → exec (.readClear 0x2018 0x114 4) s = .next (emit (.regData 0x2018 0x114
    (rd s 0x2018 .epoSrc + rd s 0x2018 .epoWarnExp * 2 ^ 8 + rd s 0x2018 .epoPeer * 2 ^ 16)) s)

/-- IRQ_FORCE sets interrupt causes, PAGE_LOCK locks a unit and everything nested in it. IRQ_FORCE on a unit that answers sets the
written bits of IRQ_STAT that the unit's block has, leaves the others, and sends the unit's MSI-X vector exactly when the unit's request
goes from 0 to 1. PAGE_LOCK_SET on a unit that answers sets LOCKED of it and of every nested unit, also one that does not answer,
changes no other field, and nothing but registers. -/
def Obligations.ForceAndLock : Prop :=
  (∀ (u : UnitId) (page mask : Nat) (s : State), s.Ok → unitOfPage page = some (u, 0) → takesWrites s u = true →
    ∃ t, exec (.irqForce page mask) s = .next t ∧
      rd t page .hdrIrqStat = rd s page .hdrIrqStat ||| (mask % 2 ^ 32 &&& u.block.irqMask) ∧
      RegsBut [(page, .hdrIrqStat, 0)] s t ∧ Only [.regIrq, .outbox] s t ∧
      t.outbox = s.outbox ++ (if irqReq s page = false ∧ irqReq t page = true then [.msix (msgLink s) (rdi s 0x2010 .hifIrqvVec page)] else [])) ∧
  ∀ (u : UnitId) (page : Nat) (s : State), s.Ok → unitOfPage page = some (u, 0) → takesWrites s u = true →
    ∃ t, exec (.pageLockSet page) s = .next t ∧ rd t page .hdrLocked = 1 ∧
      (∀ v, v ∈ u.all → rd t v.page .hdrLocked = 1) ∧
      (∀ p f i, (f = .hdrLocked → ∀ v, v ∈ u.all → v.page ≠ p) → rdi t p f i = rdi s p f i) ∧ Only [.regLock] s t

/-- The common operations of CTRL: SYNC, FENCE, UNFENCE, RESET. On a unit other than the whole device that answers, whose partition is
in service, that runs no RESET and (with its nested units) no operation of the kind, and that has accepted no work: each operation
completes at once, with RESULT 0, OP_DONE in IRQ_STAT and the operation no longer running. After FENCE every nested unit reads FENCED 1,
after UNFENCE 0. RESET of a unit below a partition header leaves every RC counter, the error log, LOCKED and FENCED of it and its nested
units at reset values, and each nested unit keeps its RESULT and OP_DONE (which fields such a reset returns is the model's reading, log
entry 14). A unit that has work accepts SYNC, FENCE and RESET as an operation in progress, and CTRL_OP_COMPLETE completes it once that
work is over. An operation on a unit whose partition is out of service ends with RESULT 4 and OP_DONE and changes nothing else. -/
def Obligations.CtrlOperationsComplete : Prop :=
  (∀ (u : UnitId) (page : Nat) (s : State), s.Ok → unitOfPage page = some (u, 0) → ctrlFree s u .sync → u.all.flatMap (unitWork s) = [] →
    ∃ t, exec (.sync page) s = .next t ∧ rd t page .hdrResult = 0 ∧ bit (rd t page .hdrIrqStat) 0 = 1 ∧ opRuns t page .sync = false) ∧
  (∀ (u : UnitId) (page : Nat) (s : State), s.Ok → unitOfPage page = some (u, 0) → ctrlFree s u .fence → u.all.flatMap (unitWork s) = [] →
    ∃ t, exec (.fence page) s = .next t ∧ rd t page .hdrResult = 0 ∧ bit (rd t page .hdrIrqStat) 0 = 1 ∧ opRuns t page .fence = false ∧
      ∀ v, v ∈ u.all → rd t v.page .hdrFenced = 1) ∧
  (∀ (u : UnitId) (page : Nat) (s : State), s.Ok → unitOfPage page = some (u, 0) → ctrlFree s u .unfence →
    ∃ t, exec (.unfence page) s = .next t ∧ rd t page .hdrResult = 0 ∧ bit (rd t page .hdrIrqStat) 0 = 1 ∧ opRuns t page .unfence = false ∧
      ∀ v, v ∈ u.all → rd t v.page .hdrFenced = 0) ∧
  (∀ (u : UnitId) (page : Nat) (s : State), s.Ok → unitOfPage page = some (u, 0) → isPartHeader u = false → ctrlFree s u .reset →
      u.all.flatMap (unitWork s) = [] →
    ∃ t, exec (.reset page) s = .next t ∧ rd t page .hdrResult = 0 ∧ bit (rd t page .hdrIrqStat) 0 = 1 ∧ opRuns t page .reset = false ∧
      (∀ v, v ∈ u.all → rd t v.page .hdrLocked = 0 ∧ rd t v.page .hdrFenced = 0 ∧ rd t v.page .hdrErrValid = 0) ∧
      (∀ v, v ∈ u.all → v ≠ u → rd t v.page .hdrResult = rd s v.page .hdrResult ∧
        bit (rd t v.page .hdrIrqStat) 0 = bit (rd s v.page .hdrIrqStat) 0) ∧
      ∀ v f i, v ∈ u.all → f ∈ v.block.flds → f.row.acc = .rc → rdi t v.page f i = regReset v.page f (i % 16384)) ∧
  (∀ (u : UnitId) (page : Nat) (s : State), s.Ok → unitOfPage page = some (u, 0) → isPartHeader u = false → ctrlFree s u .reset →
      u.all.flatMap (unitWork s) ≠ [] → ∃ t, exec (.reset page) s = .next t ∧ opRuns t page .reset = true) ∧
  (∀ (u : UnitId) (page : Nat) (c : Instr) (s : State), s.Ok → unitOfPage page = some (u, 0) → unitOos s u = true → s.ops = [] →
    c ∈ [Instr.sync page, .fence page, .unfence page, .reset page] →
    ∃ t, exec c s = .next t ∧ rd t page .hdrResult = 4 ∧ bit (rd t page .hdrIrqStat) 0 = 1 ∧
      RegsBut [(page, .hdrResult, 0), (page, .hdrIrqStat, 0)] s t ∧ Only [.regCtl, .regIrq, .outbox] s t) ∧
  (∀ (u : UnitId) (page : Nat) (kind : CtrlKind) (s : State), unitOfPage page = some (u, 0) → kind = .sync ∨ kind = .fence → ctrlFree s u kind →
    u.all.flatMap (unitWork s) ≠ [] →
    ∃ t, exec (if kind = .sync then .sync page else .fence page) s = .next t ∧ opRuns t page kind = true ∧
      (kind = .fence → ∀ v, v ∈ u.all → rd t v.page .hdrFenced = 1)) ∧
  ∀ (o : CtrlOp) (k : Nat) (s : State), s.Ok → o.kind = ctrlKindOf k → (s.ops.find? fun x => x.page = o.page && x.kind = o.kind) = some o →
    o.waiting = [] → o.resets = [] → o.deps = [] → (o.work = [] ∨ ((unitAt o.page).map UnitId.all).getD [] = []) → o.page ≠ 0x2000 →
    ∃ t, exec (.ctrlOpComplete o.page k) s = .next t ∧ rd t o.page .hdrResult = o.worst % 16 ∧ bit (rd t o.page .hdrIrqStat) 0 = 1 ∧
      opRuns t o.page o.kind = false ∧ Only [.ops, .regCtl, .regIrq, .outbox] s t

/-- CTRL.RESET on a partition header is a commanded reset, on dev a device reset. RESET of a partition in service that runs no operation
puts the partition into RESETTING under a commanded recovery, clears LOCKED of its units, and the operation stays in progress; RESET of
dev is the device reset, whose state it is, where no partition is in FENCING or RESETTING; where one is, the operation waits and changes
nothing else. SYNC of dev with partitions out of service and no other held reports RESULT 1 and those partitions in SKIPPED_PART, when
the others have no work. -/
def Obligations.ResetOfPartitionAndDevice : Prop :=
  (∀ (n : Nat) (s : State), s.Ok → n < 4 → partState s n = 0 → pstate s = 0 → s.ops = [] →
    ∃ t, exec (.reset (UnitId.part n).page) s = .next t ∧ partState t n = 2 ∧
      (∃ r, SMap.get (fun _ => none) t.recov n = some r ∧ r.commanded = true) ∧
      (∀ v, v ∈ (UnitId.part n).all → rd t v.page .hdrLocked = 0) ∧ opRuns t (UnitId.part n).page .reset = true) ∧
  (∀ s : State, s.ops = [] → (∀ n, n < 4 → partBusy s n = false) → exec (.reset 0x2000) s = .next (deviceReset s)) ∧
  (∀ (n : Nat) (s : State), s.Ok → s.ops = [] → n < 4 → partBusy s n = true →
    ∃ t, exec (.reset 0x2000) s = .next t ∧ opRuns t 0x2000 .reset = true ∧ Only [.ops] s t) ∧
  ∀ s : State, s.Ok → s.ops = [] → (∀ n, n < 4 → partState s n = 0 ∨ partState s n = 4) → pstate s = 0 → UnitId.dev.all.flatMap (unitWork s) = [] →
    ∃ t, exec (.sync 0x2000) s = .next t ∧ opRuns t 0x2000 .sync = false ∧ bit (rd t 0x2000 .hdrIrqStat) 0 = 1 ∧
      rd t 0x2000 .hdrResult = (if (List.range 4).any fun n => decide (partState s n = 4) then 1 else 0) ∧
      ∀ n, n < 4 → (bit (rd t 0x2000 .hdrSkippedPart) n = 1 ↔ partState s n = 4)

/-- Configuration sets: a staged write, a rollback. A write of the set field AGE_CAP_NS of a memory controller that answers, with a
legal value, enters the staging buffer and sets STAGED, and the active value stays; with an illegal value it sets BAD_WRITE only.
ROLLBACK of a unit that holds configuration sets, takes writes and has PREV_VALID 1 flips ACTIVE_BANK, raises ACTIVE_GEN by one modulo
256, clears PREV_VALID and STAGED, empties the staged values of its page and makes the one value of the previous set active; with
PREV_VALID 0 it reports RESULT 3 and changes nothing else. -/
def Obligations.ConfigurationSets : Prop :=
  (∀ (n k v : Nat) (s : State), s.Ok → n < 4 → k < 3 → unitReachable s (.mc n k) = true → 100 ≤ v % 2 ^ 16 → v < 2 ^ 16 →
    ∃ t, exec (.cfgSetFieldWrite (UnitId.mc n k).page 0x104 4 v) s = .next t ∧ rd t (UnitId.mc n k).page .hdrStaged = 1 ∧
      ⟨(UnitId.mc n k).page, .mcsAgeCapNs, 0, v⟩ ∈ t.staging ∧ RegsBut [((UnitId.mc n k).page, .hdrStaged, 0)] s t ∧
      Only [.regSet, .staging] s t) ∧
  (∀ (n k v : Nat) (s : State), n < 4 → k < 3 → unitReachable s (.mc n k) = true → v < 100 →
    exec (.cfgSetFieldWrite (UnitId.mc n k).page 0x104 4 v) s = .next (wr (UnitId.mc n k).page .hdrBadWrite 1 s)) ∧
  (∀ (u : UnitId) (page : Nat) (s : State), s.Ok → unitOfPage page = some (u, 0) → u.cfgVersioned = true → takesWrites s u = true →
    rd s page .hdrPrevValid = 1 → (∀ v, v ∈ s.prevSet → v.fld.row.set = true) →
    ∃ t, exec (.rollback page) s = .next t ∧ rd t page .hdrActiveBank = 1 - rd s page .hdrActiveBank ∧ rd t page .hdrPrevValid = 0 ∧
      rd t page .hdrStaged = 0 ∧ (t.staging.filter fun e => e.page = page) = [] ∧
      rd t page .hdrActiveGen = (rd s page .hdrActiveGen + 1) % 256 ∧
      ∀ v, (s.prevSet.filter fun e => e.page = page) = [v] → rdi t page v.fld v.idx = v.val % 2 ^ v.fld.row.width) ∧
  ∀ (u : UnitId) (page : Nat) (s : State), unitOfPage page = some (u, 0) → u.cfgVersioned = true → takesWrites s u = true →
    rd s page .hdrPrevValid = 0 → exec (.rollback page) s = .next (wr page .hdrResult 3 s)

/-- Arming and disarming a milestone slot. On a unit that takes writes, with no slot armed anywhere: ARM with an action the unit's class
accepts and an epoch within 2^30 - 1 of EPOCH_NOW stores EPOCH, ACTION and ARG; with the epoch after EPOCH_NOW the slot reads ARMED (1),
and with a NOP action (0) whose epoch is at or before EPOCH_NOW it reads FIRED (2) with MS_DONE raised. With an action not accepted, or
an epoch out of the bound, the slot reads REFUSED (3) with MS_DONE raised. DISARM of an ARMED slot makes it IDLE (0), and changes no
other register field but the epoch unit's IRQ_STAT. -/
def Obligations.MilestoneSlots : Prop :=
  (∀ (u : UnitId) (page slot e action arg : Nat) (s : State), s.Ok → unitOfPage page = some (u, 0) → takesWrites s u = true → slot < 4 →
    armedSlots s = [] → e < 2 ^ 32 → action < 16 → arg < 256 → actionAccepted u action arg = true → epochNear e (epochNow s) = true →
    ∃ t, exec (.milestoneArm page slot (some e) action arg) s = .next t ∧ rdi t page .hdrMsEpoch slot = e ∧
      rdi t page .hdrMsAction slot = action ∧ rdi t page .hdrMsArg slot = arg ∧
      (epochAtOrBefore e (epochNow s) = false → rdi t page .hdrMsState slot = 1) ∧
      (epochAtOrBefore e (epochNow s) = true → action = 0 → pagePowered s page = true →
        rdi t page .hdrMsState slot = 2 ∧ bit (rd t page .hdrIrqStat) 2 = 1)) ∧
  (∀ (u : UnitId) (page slot e action arg : Nat) (s : State), s.Ok → unitOfPage page = some (u, 0) → takesWrites s u = true → slot < 4 →
    rdi s page .hdrMsState slot ≠ 1 → e < 2 ^ 32 → action < 16 → arg < 256 →
    (actionAccepted u action arg = false ∨ epochNear e (epochNow s) = false) →
    ∃ t, exec (.milestoneArm page slot (some e) action arg) s = .next t ∧ rdi t page .hdrMsState slot = 3 ∧
      bit (rd t page .hdrIrqStat) 2 = 1 ∧ Only [.regMs, .regIrq, .outbox] s t) ∧
  ∀ (u : UnitId) (page slot : Nat) (s : State), s.Ok → unitOfPage page = some (u, 0) → takesWrites s u = true → slot < 4 →
    rdi s page .hdrMsState slot = 1 →
    ∃ t, exec (.milestoneDisarm page slot) s = .next t ∧ rdi t page .hdrMsState slot = 0 ∧
      RegsBut [(page, .hdrMsState, slot), (0x2018, .hdrIrqStat, 0)] s t ∧ Only [.regMs, .regIrq, .floorAbove, .fwSlots, .outbox] s t

/-- Advancing the epoch. A host advance while SRC is 0 and no milestone is armed: to a later epoch that keeps every held epoch within
2^30 - 1, EPOCH_NOW becomes the target, ERA rises when the target is numerically lower, ADV_RESULT reads 0; to EPOCH_NOW itself,
ADV_RESULT reads 1 and nothing else changes; backward ADV_RESULT reads 2, beyond the holding bound 3, and with SRC 1 it reads 4:
EPOCH_NOW stays and ADV_REFUSED counts. An EPOCH frame that waits at a port, from the member in PEER while SRC is 1, with a broadcast
number that is not a repeat, advances to the frame's epoch in the same way while the source is not lost, and EPOCH_NOW holds while it is
lost (R57); a repeated number only counts DUP_BCAST. -/
def Obligations.EpochAdvance : Prop :=
  (∀ (target : Nat) (s : State), s.Ok → armedSlots s = [] → rd s 0x2018 .epoSrc = 0 →
    ∃ t, exec (.epochAdvance target) s = .next t ∧ rd t 0x2018 .epoAdvResult = advanceCode s (target % 2 ^ 32) false ∧
      epochNow t = (if advanceCode s (target % 2 ^ 32) false = 0 then target % 2 ^ 32 else epochNow s) ∧
      rd t 0x2018 .epoEpochEra = (if advanceCode s (target % 2 ^ 32) false = 0 ∧ target % 2 ^ 32 < epochNow s
        then (rd s 0x2018 .epoEpochEra + 1) % 2 ^ 16 else rd s 0x2018 .epoEpochEra) ∧
      rd t 0x2018 .epoAdvRefused = (if advanceCode s (target % 2 ^ 32) false ≤ 1 then rd s 0x2018 .epoAdvRefused
        else min 0xFFFF (rd s 0x2018 .epoAdvRefused + 1))) ∧
  (∀ (target : Nat) (s : State), advanceCode s (target % 2 ^ 32) false = (
    if target % 2 ^ 32 = epochNow s % 2 ^ 32 then 1
    else if epochBefore (epochNow s) (target % 2 ^ 32) = false ∧ serialDiff (epochNow s) (target % 2 ^ 32) ≠ 2 ^ 31 then 2
    else if 2 ^ 30 ≤ serialDiff (epochFloor s) (target % 2 ^ 32) then 3 else 0)) ∧
  (∀ (target : Nat) (s : State), s.Ok → rd s 0x2018 .epoSrc = 1 →
    ∃ t, exec (.epochAdvance target) s = .next t ∧ rd t 0x2018 .epoAdvResult = 4 ∧ epochNow t = epochNow s ∧
      rd t 0x2018 .epoAdvRefused = min 0xFFFF (rd s 0x2018 .epoAdvRefused + 1) ∧ bit (rd t 0x2018 .hdrIrqStat) 17 = 1 ∧
      Only [.regEpo, .regIrq, .outbox] s t) ∧
  (∀ (port : Nat) (f : List Byte) (s : State), s.Ok → armedSlots s = [] → mgmtFrame s port 0x34 = some f → rd s 0x2018 .epoSrc = 1 →
    rd s 0x2018 .epoPeer = (hdrOf f).src → SMap.get (fun _ => none) s.bseqs (hdrOf f).src = none → s.sourceLost = false →
    advanceCode s (bits (hdrOf f).dva 31 0) false = 0 →
    ∃ t, exec (.epochBroadcast port) s = .next t ∧ epochNow t = bits (hdrOf f).dva 31 0 ∧ rd t 0x2018 .epoAdvResult = 0 ∧
      SMap.get (fun _ => none) t.bseqs (hdrOf f).src = some (bits (hdrOf f).dva 47 32)) ∧
  (∀ (port : Nat) (f : List Byte) (s : State), mgmtFrame s port 0x34 = some f → s.sourceLost = true →
    ∃ t, exec (.epochBroadcast port) s = .next t ∧ epochNow t = epochNow s ∧ t.sourceLost = true) ∧
  ∀ (port b : Nat) (f : List Byte) (s : State), s.Ok → port < 32 → mgmtFrame s port 0x34 = some f →
    SMap.get (fun _ => none) s.bseqs (hdrOf f).src = some b → bits (hdrOf f).dva 47 32 = b →
    ∃ t, exec (.epochBroadcast port) s = .next t ∧ epochNow t = epochNow s ∧
      rd t (portPage port) .evlDupBcast = satAdd (2 ^ Fld.evlDupBcast.row.width - 1) (rd s (portPage port) .evlDupBcast) 1 ∧
      Only [.regEvl, .ports] s t

/-- The version commands. INSTALL of a FREE slot with START after EPOCH_NOW, within the holding bound and after every epoch start of the
region's live slots, makes it OPEN with START and BASE and the next GEN, closes the region's other OPEN slots at START, and reports 0.
CLOSE of an OPEN slot with END after EPOCH_NOW and START, within the bound, makes it CLOSED at END. QUERY shows state, GEN, START and
END and changes no slot. FREE of a RETIRED slot that no drover holds makes it FREE and keeps its GEN. Each reports VC_RESULT 0 and
leaves VC_GO 0; a slot in another state is refused with the code of the rule and no slot changes. -/
def Obligations.VersionCommands : Prop :=
  (∀ (region slot : Nat) (s : State), s.Ok → region < 64 → slot < 4 → (vslotAt s (region * 4 + slot)).st = .free →
    epochBefore (epochNow s) (rd s 0x2018 .epoVcmdStart) = true → epochNear (rd s 0x2018 .epoVcmdStart) (epochNow s) = true →
    startIsLast s region (rd s 0x2018 .epoVcmdStart) = true →
    ∃ t, exec (.install region slot) s = .next t ∧ rd t 0x2018 .epoVcResult = 0 ∧ rd t 0x2018 .epoVcGo = 0 ∧
      vslotAt t (region * 4 + slot) = { st := .open, start := rd s 0x2018 .epoVcmdStart, fin := 0, base := rd s 0x2018 .epoVcmdBase,
                                        gen := ((vslotAt s (region * 4 + slot)).gen + 1) % 256 } ∧
      (∀ i, i < 4 → i ≠ slot → vslotAt t (region * 4 + i) = if (vslotAt s (region * 4 + i)).st = .open
        then { vslotAt s (region * 4 + i) with st := .closed, fin := rd s 0x2018 .epoVcmdStart } else vslotAt s (region * 4 + i)) ∧
      ∀ k, k / 4 ≠ region → vslotAt t k = vslotAt s k) ∧
  (∀ (region slot : Nat) (s : State), s.Ok → region < 64 → slot < 4 → (vslotAt s (region * 4 + slot)).st ≠ .free →
    ∃ t, exec (.install region slot) s = .next t ∧ rd t 0x2018 .epoVcResult = 1 ∧ t.vslots = s.vslots) ∧
  (∀ (region slot : Nat) (s : State), s.Ok → region < 64 → slot < 4 → (vslotAt s (region * 4 + slot)).st = .open →
    epochBefore (epochNow s) (rd s 0x2018 .epoVcmdEnd) = true → epochNear (rd s 0x2018 .epoVcmdEnd) (epochNow s) = true →
    epochBefore (vslotAt s (region * 4 + slot)).start (rd s 0x2018 .epoVcmdEnd) = true →
    ∃ t, exec (.close region slot) s = .next t ∧ rd t 0x2018 .epoVcResult = 0 ∧
      vslotAt t (region * 4 + slot) = { vslotAt s (region * 4 + slot) with st := .closed, fin := rd s 0x2018 .epoVcmdEnd } ∧
      ∀ k, k ≠ region * 4 + slot → vslotAt t k = vslotAt s k) ∧
  (∀ (region slot : Nat) (s : State), s.Ok → region < 64 → slot < 4 →
    ∃ t, exec (.query region slot) s = .next t ∧ rd t 0x2018 .epoVcResult = 0 ∧ rd t 0x2018 .epoVsState = (vslotAt s (region * 4 + slot)).st.code ∧
      rd t 0x2018 .epoVsGen = (vslotAt s (region * 4 + slot)).gen % 256 ∧ t.vslots = s.vslots) ∧
  ∀ (region slot : Nat) (s : State), s.Ok → region < 64 → slot < 4 → (vslotAt s (region * 4 + slot)).st = .retired →
    (∀ n, n < 4 → droverHolds s n (region * 4 + slot) = false) →
    ∃ t, exec (.free region slot) s = .next t ∧ rd t 0x2018 .epoVcResult = 0 ∧
      vslotAt t (region * 4 + slot) = { gen := (vslotAt s (region * 4 + slot)).gen } ∧ ∀ k, k ≠ region * 4 + slot → vslotAt t k = vslotAt s k

/-- The read pointer of a ledger. A write of LDG_RPTR for the selected ledger that does not step back stores the pointer; a step back
keeps it and sets BAD_WRITE of the epoch unit; a step that frees a slot of the enabled ring while records were lost writes one record,
after which the lost count is 0 and LDG_WPTR has moved on by one. -/
def Obligations.LedgerReadPointer : Prop :=
  (∀ (v src : Nat) (s : State), s.Ok → v < 2 ^ 24 → src < 0x4000 → rd s 0x2018 .epoLdgSel = src →
    SMap.get (fun _ => 0) s.ldgLost src = 0 →
    (rdi s 0x2018 .epoLdgWptr src + 2 ^ 24 - v) % 2 ^ 24 ≤ (rdi s 0x2018 .epoLdgWptr src + 2 ^ 24 - rdi s 0x2018 .epoLdgRptr src) % 2 ^ 24 →
    exec (.ldgRptrWrite v) s = .next (wri 0x2018 .epoLdgRptr src v s)) ∧
  (∀ (v src : Nat) (s : State), s.Ok → v < 2 ^ 24 → src < 0x4000 → rd s 0x2018 .epoLdgSel = src →
    (rdi s 0x2018 .epoLdgWptr src + 2 ^ 24 - rdi s 0x2018 .epoLdgRptr src) % 2 ^ 24 < (rdi s 0x2018 .epoLdgWptr src + 2 ^ 24 - v) % 2 ^ 24 →
    exec (.ldgRptrWrite v) s = .next (wr 0x2018 .hdrBadWrite 1 s)) ∧
  ∀ (v src : Nat) (s : State), s.Ok → v < 2 ^ 24 → src < 0x4000 → rd s 0x2018 .epoLdgSel = src → rdi s 0x2018 .epoLdgEn src = 1 →
    SMap.get (fun _ => 0) s.ldgLost src ≠ 0 →
    (rdi s 0x2018 .epoLdgWptr src + 2 ^ 24 - v) % 2 ^ 24 ≤ (rdi s 0x2018 .epoLdgWptr src + 2 ^ 24 - rdi s 0x2018 .epoLdgRptr src) % 2 ^ 24 →
    (rdi s 0x2018 .epoLdgWptr src + 2 ^ 24 - v) % 2 ^ 24 < 2 ^ rdi s 0x2018 .epoLdgSize src →
    ∃ t, exec (.ldgRptrWrite v) s = .next t ∧ rdi t 0x2018 .epoLdgRptr src = v ∧ SMap.get (fun _ => 0) t.ldgLost src = 0 ∧
      rdi t 0x2018 .epoLdgWptr src = (rdi s 0x2018 .epoLdgWptr src + 1) % 2 ^ 24

/-- Doorbell writes and the fetch of submission entries. Of a session that is not OPEN every write of its doorbell page (SQ_TAIL,
CQ_HEAD, FENCE_REQ, HSIG) is discarded and counted in DB_DISCARD; so is, of an open one, an SQ_TAIL or CQ_HEAD of 2^LOG2 or more and a
CQ_HEAD beyond CQ_TAIL. An accepted SQ_TAIL replaces the one before, an accepted CQ_HEAD is stored. While the session is OPEN, its ring
not empty, no entry in work and the completion ring has room, the device fetches the entry at SQ_HEAD from SQ_BASE + 64 × SQ_HEAD and
moves SQ_HEAD on; at SQ_HEAD = SQ_TAIL it fetches nothing. Formalises: "The device discards and counts every write to the doorbell page
of a session that is not OPEN." -/
def Obligations.DoorbellWrites : Prop :=
  (∀ (x v : Nat) (s : State), sessState s x ≠ 1 →
    exec (.sqTail x v) s = .next (doorbellDiscard s) ∧ exec (.cqHead x v) s = .next (doorbellDiscard s) ∧
      exec (.fenceReq x v) s = .next (doorbellDiscard s) ∧ exec (.hsigSet x v) s = .next (doorbellDiscard s) ∧
      exec (.hsigClear x v) s = .next (doorbellDiscard s)) ∧
  (∀ s : State, s.Ok → rd (doorbellDiscard s) pgHif .hifDbDiscard = min (2 ^ 32 - 1) (rd s pgHif .hifDbDiscard + 1) ∧
    RegsBut [(pgHif, .hifDbDiscard, 0), (pgHif, .hdrIrqStat, 0)] s (doorbellDiscard s) ∧ Only [.regHif, .regIrq, .outbox] s (doorbellDiscard s)) ∧
  (∀ (x v : Nat) (s : State), 2 ^ rdi s pgHif .hifSqLog2 x ≤ v % 2 ^ 16 → exec (.sqTail x v) s = .next (doorbellDiscard s)) ∧
  (∀ (x v : Nat) (s : State), 2 ^ rdi s pgHif .hifCqLog2 x ≤ v % 2 ^ 16 ∨
      (rdi s pgHif .hifCqTail x + 2 ^ rdi s pgHif .hifCqLog2 x - (sessAt s x).cqHead) % 2 ^ rdi s pgHif .hifCqLog2 x <
        (rdi s pgHif .hifCqTail x + 2 ^ rdi s pgHif .hifCqLog2 x - v % 2 ^ 16) % 2 ^ rdi s pgHif .hifCqLog2 x →
    exec (.cqHead x v) s = .next (doorbellDiscard s)) ∧
  (∀ (x v : Nat) (s : State), s.Ok → sessState s x = 1 → pstate s ≠ 3 → v % 2 ^ 16 < 2 ^ rdi s pgHif .hifSqLog2 x →
    ∃ t, exec (.sqTail x v) s = .next t ∧ sessAt t x = { sessAt s x with sqTail := v % 2 ^ 16 } ∧
      (∀ y, y ≠ x → sessAt t y = sessAt s y) ∧ Only [.sess] s t) ∧
  (∀ (x v : Nat) (s : State), s.Ok → sessState s x = 1 → pstate s ≠ 3 → v % 2 ^ 16 < 2 ^ rdi s pgHif .hifCqLog2 x →
    (rdi s pgHif .hifCqTail x + 2 ^ rdi s pgHif .hifCqLog2 x - v % 2 ^ 16) % 2 ^ rdi s pgHif .hifCqLog2 x ≤
      (rdi s pgHif .hifCqTail x + 2 ^ rdi s pgHif .hifCqLog2 x - (sessAt s x).cqHead) % 2 ^ rdi s pgHif .hifCqLog2 x →
    ∃ t, exec (.cqHead x v) s = .next t ∧ sessAt t x = { sessAt s x with cqHead := v % 2 ^ 16 } ∧
      (∀ y, y ≠ x → sessAt t y = sessAt s y) ∧ Only [.sess] s t) ∧
  (∀ (x : Nat) (e : List Byte) (s : State), s.Ok → x < 64 → mayFetch s x = true → entryBad s.variant (slice e 0 64) = none →
    ∃ t, exec (.sqFetch x e false) s = .next t ∧
      t.outbox = s.outbox ++ [.hostRead (sessLink s x) x (rdi s pgHif .hifSqBase x + 64 * rdi s pgHif .hifSqHead x)] ∧
      rdi t pgHif .hifSqHead x = (rdi s pgHif .hifSqHead x + 1) % 2 ^ rdi s pgHif .hifSqLog2 x ∧
      (sessAt t x).fetched = some (slice e 0 64) ∧ (sessAt t x).reserved = (sessAt s x).reserved + 1 ∧
      RegsBut [(pgHif, .hifSqHead, x)] s t ∧ Only [.regRng, .sess, .outbox] s t) ∧
  ∀ (x : Nat) (e : List Byte) (poison : Bool) (s : State), (sessAt s x).sqTail = rdi s pgHif .hifSqHead x →
    exec (.sqFetch x e poison) s = .next s

/-- A session opens, closes and becomes free. OPEN of a FREE session whose fields are as R426 states makes it OPEN with empty rings and
reports OK; in another state it reports BAD_STATE and with fields that are not legal BAD_ARG, and changes nothing else. CLOSE of an OPEN
session makes it CLOSING, leaves SESS_GO 1 and none of its loads queued, and aborts every run of it that is still open; of a session in
another state it reports BAD_STATE. A CLOSING session of which nothing is left becomes FREE, with SESS_GO 0 and RESULT OK. -/
def Obligations.SessionLifecycle : Prop :=
  (∀ (x : Nat) (s : State), s.Ok → x < 64 → sessState s x = 0 → sessArgsOk s x = true →
    ∃ t, exec (.sessOpen x) s = .next t ∧ sessState t x = 1 ∧ rdi t pgHif .hifSessResult x = 0 ∧ rdi t pgHif .hifSessGo x = 0 ∧
      rdi t pgHif .hifSqHead x = 0 ∧ rdi t pgHif .hifCqTail x = 0 ∧ sessAt t x = {} ∧ (∀ y, y ≠ x → sessAt t y = sessAt s y) ∧
      RegsBut [(pgHif, .hifSessOp, x), (pgHif, .hifSessState, x), (pgHif, .hifSessResult, x), (pgHif, .hifSessGo, x), (pgHif, .hifSqHead, x),
        (pgHif, .hifCqTail, x)] s t ∧ Only [.regSes, .regRng, .sess] s t) ∧
  (∀ (x : Nat) (s : State), s.Ok → x < 64 → sessState s x ≠ 0 ∨ sessArgsOk s x = false →
    ∃ t, exec (.sessOpen x) s = .next t ∧ rdi t pgHif .hifSessResult x = (if sessState s x = 0 then 2 else 1) ∧ rdi t pgHif .hifSessGo x = 0 ∧
      RegsBut [(pgHif, .hifSessOp, x), (pgHif, .hifSessResult, x), (pgHif, .hifSessGo, x)] s t ∧ Only [.regSes] s t) ∧
  (∀ (x : Nat) (s : State), s.Ok → x < 64 → sessState s x = 1 →
    ∃ t, exec (.sessClose x) s = .next t ∧ sessState t x = 2 ∧ rdi t pgHif .hifSessGo x = 1 ∧
      t.loadQ = s.loadQ.filter (fun c => c.sess != x) ∧
      ∀ n r, runAt s n = some r →
        runAt t n = some (if r.sess = x ∧ runOpen s n r = true then { r with aborted := true } else r)) ∧
  (∀ (x : Nat) (s : State), s.Ok → x < 64 → sessState s x ≠ 1 →
    ∃ t, exec (.sessClose x) s = .next t ∧ rdi t pgHif .hifSessResult x = 1 ∧ rdi t pgHif .hifSessGo x = 0 ∧
      RegsBut [(pgHif, .hifSessOp, x), (pgHif, .hifSessResult, x), (pgHif, .hifSessGo, x)] s t ∧ Only [.regSes] s t) ∧
  ∀ (x : Nat) (s : State), s.Ok → x < 64 → sessState s x = 2 → sessQuiet s x = true →
    ∃ t, exec (.sessionClosed x) s = .next t ∧ sessState t x = 0 ∧ rdi t pgHif .hifSessResult x = 0 ∧ rdi t pgHif .hifSessGo x = 0 ∧
      sessAt t x = {} ∧ (∀ y, y ≠ x → sessAt t y = sessAt s y) ∧
      RegsBut [(pgHif, .hifSessState, x), (pgHif, .hifSessResult, x), (pgHif, .hifSessGo, x)] s t ∧ Only [.regSes, .sess] s t

/-- The commands of a submission entry that start no run. A fetched NOP completes OK. A fetched LOAD is queued behind the others, with
its session, tag, NOIRQ and body, while the device is in service, in P0 or P1, its session is not CLOSING and fewer than 16 wait; with
16 it completes with REFUSED and LOADER_FULL (0x1C). A fetched LOAD_QUERY writes the 32-byte record of R167 for its core into DRAM and
completes OK. A fetched ABORT whose tag no open run of the session has completes with DETAIL 1; otherwise it aborts those runs and waits
for them. A LOAD or RUN of a CLOSING session follows log entry 90. -/
def Obligations.SubmissionCommands : Prop :=
  (∀ (x : Nat) (e : List Byte) (s : State), s.Ok → x < 64 → fetchedOp s x 1 = some e →
    ∃ t, exec (.sqNop x) s = .next t ∧ Completed x { tag := fieldAt e 4 31 0, opcode := 1 } s t ∧ (sessAt t x).fetched = none ∧
      RegsBut [(pgHif, .hifCqTail, x)] s t ∧ Only [.regRng, .sess, .outbox] s t) ∧
  (∀ (x : Nat) (e : List Byte) (s : State), s.Ok → fetchedOp s x 2 = some e → sessState s x ≠ 2 → rd s 0x2028 .fltDevService ≠ 2 → pstate s ≤ 1 →
    s.loadQ.length < 16 →
    ∃ t, exec (.sqLoad x) s = .next t ∧
      t.loadQ = s.loadQ ++ [{ sess := x, tag := fieldAt e 4 31 0, noirq := fieldAt e 1 0 0 = 1, body := slice e 8 36 }] ∧
      (sessAt t x).fetched = none ∧ Only [.loadQ, .sess] s t) ∧
  (∀ (x : Nat) (e : List Byte) (s : State), s.Ok → x < 64 → fetchedOp s x 2 = some e → sessState s x ≠ 2 → rd s 0x2028 .fltDevService ≠ 2 → pstate s ≤ 1 →
    16 ≤ s.loadQ.length → reportable s (slice e 8 36) = true → reportHeld s (slice e 8 36) = none →
    ∃ t, exec (.sqLoad x) s = .next t ∧ Completed x { tag := fieldAt e 4 31 0, opcode := 2, result := 0x1C, cstat := 4 } s t ∧
      t.loadQ = s.loadQ ∧ (sessAt t x).fetched = none) ∧
  (∀ (x g : Nat) (e : List Byte) (s : State), s.Ok → x < 64 → fetchedOp s x 3 = some e → coreOfPage (fieldAt e 8 13 0) = some g →
    spineHeld (fieldAt e 0x10 63 0) 32 true s = none → spanGone s (fieldAt e 0x10 63 0) 32 = false →
    exec (.loadQuery x) s = .next (entryDone x e {} (spineWrite (fieldAt e 0x10 63 0) (queryBytes s g) (takeEntry x s))) ∧
      ∃ t, exec (.loadQuery x) s = .next t ∧ Completed x { tag := fieldAt e 4 31 0, opcode := 3 } s t ∧ (sessAt t x).fetched = none) ∧
  (∀ (x : Nat) (e : List Byte) (s : State), s.Ok → x < 64 → fetchedOp s x 5 = some e → abortTargets s x (fieldAt e 8 31 0) = [] →
    ∃ t, exec (.abort x) s = .next t ∧ Completed x { tag := fieldAt e 4 31 0, opcode := 5, detail := 1 } s t ∧ t.runs = s.runs ∧ t.ctxs = s.ctxs) ∧
  ∀ (x : Nat) (e : List Byte) (s : State), s.Ok → fetchedOp s x 5 = some e → abortTargets s x (fieldAt e 8 31 0) ≠ [] →
    ∃ t, exec (.abort x) s = .next t ∧
      t.abortWaits = s.abortWaits ++ [⟨x, fieldAt e 4 31 0, fieldAt e 1 0 0 = 1, abortTargets s x (fieldAt e 8 31 0)⟩] ∧
      (∀ n r, n ∈ abortTargets s x (fieldAt e 8 31 0) → runAt s n = some r → runAt t n = some { r with aborted := true } ∧
        ∀ id, id ∈ r.ctxs → (ctxAt s id).run = n → (ctxAt t id).st ≠ .running ∧ (ctxAt t id).st ≠ .binding) ∧
      Only [.ctxs, .runs, .spads, .sess, .abortWaits] s t

/-- The loader. While no load is in stage SLOTS, the loader takes the oldest command: one whose own fields have findings ends with
COMMAND (0x05) in stage 1 (COMMAND), and the report and completion are those of that end. When every reserved slot is free the loader
begins to write them (LOADING). When it has written them, every target slot is READY with the image, its virtual core and a LOAD_ID that
is not 0 and that no slot held, and the load completes OK with that LOAD_ID. When the wait expires with a slot not free, the load ends
with SLOT_BUSY (0x1B) and the slots are given back. What an interrupted load leaves of an empty slot is the model's reading (log entry
86). -/
def Obligations.LoaderStages : Prop :=
  (∀ (us : Nat) (c : LoadCmd) (rest : List LoadCmd) (s : State), s.loading = none → s.loadQ = c :: rest →
    commandFindings s.variant c.body ≠ [] → reportHeld s c.body = none →
    exec (.loaderDequeue us) s = .next (endLoad c { result := 0x05, stage := 1, findings := commandFindings s.variant c.body, us := us }
      { s with loadQ := rest })) ∧
  (∀ (us : Nat) (c : LoadCmd) (rest : List LoadCmd) (s : State), s.loading = none → s.loadQ = c :: rest →
    commandFindings s.variant c.body = [] → partState s 3 = 0 → loadHeld c.body s = none →
    exec (.loaderDequeue us) s = .next (runLoad c us { s with loadQ := rest })) ∧
  (∀ (c : LoadCmd) (e : LoadEnd) (s : State), s.Ok → c.sess < 64 → reportable s c.body = true →
    ∃ t, t = endLoad c e s ∧ Completed c.sess { tag := c.tag, id := e.id, opcode := 2, result := e.result,
                                                cstat := if e.result = 0 then 0 else 4, detail := (e.fit c.body).length } s t ∧
      t = cmdComplete c.sess c.noirq { tag := c.tag, id := e.id, opcode := 2, result := e.result,
                                       cstat := if e.result = 0 then 0 else 4, detail := (e.fit c.body).length } (spineWrite (ldReport c.body) (reportBytes s e c.body) s)) ∧
  (∀ (l : Loading) (s : State), s.Ok → s.loading = some l → l.writing = false → (∀ g, g ∈ l.cores → slotFree s g l.target = true) →
    ∃ t, exec .loadSlots s = .next t ∧ t.loading = some { l with writing := true } ∧
      (∀ g, g ∈ l.cores → (pmAt t (2 * g + l.target)).st = .loading) ∧ Only [.pms, .loading] s t) ∧
  (∀ (us : Nat) (l : Loading) (s : State), s.Ok → s.loading = some l → l.writing = true → l.cmd.sess < 64 → l.target < 2 →
    l.cores.eraseDups = l.cores → reportable s l.cmd.body = true → reportHeld s l.cmd.body = none →
    ∃ t id, exec (.loadComplete us) s = .next t ∧ t.loading = none ∧ t.loadCount = id ∧ id = nextLoadId s.pms 1024 ((s.loadCount + 1) % 65536) ∧
      (∀ v g, (g, v) ∈ l.cores.zipIdx → pmAt t (2 * g + l.target) = { st := .ready, loadId := id, image := l.image, vcore := v }) ∧
      (∀ k, (∀ g, g ∈ l.cores → k ≠ 2 * g + l.target) → pmAt t k = pmAt s k) ∧
      (s.pms.length ≤ 320 → id ≠ 0 ∧ ∀ k, (pmAt s k).loadId ≠ id) ∧
      Completed l.cmd.sess { tag := l.cmd.tag, id := id, opcode := 2 } s t) ∧
  ∀ (us : Nat) (l : Loading) (s : State), s.Ok → s.loading = some l → l.writing = false → (∃ g, g ∈ l.cores ∧ slotFree s g l.target = false) →
    l.cmd.sess < 64 → reportable s l.cmd.body = true → reportHeld s l.cmd.body = none →
    ∃ t n, exec (.loadWaitExpire us) s = .next t ∧ t.loading = none ∧
      (∀ g, g ∈ l.cores → (pmAt t (2 * g + l.target)).st = slotBack s g l.target) ∧
      Completed l.cmd.sess { tag := l.cmd.tag, opcode := 2, result := 0x1B, cstat := 4, detail := n } s t

/-- A run starts, ends, and a write of the device receives its GO. A fetched RUN in P0 whose block is served, has legal fields and
passes every check starts: the run is recorded under the next number with its session, tag, image and contexts; refused, it completes
with REFUSED and the first code of R436 and starts nothing; in P2 it is refused with PLACEMENT_RUN (0x24). When every context of a run
is done, the run completes on its session with the record of how it ended, its contexts are FREE and keep their waybill counts. A GO for
a record that is the last unacknowledged one brings the new tail to CQ_TAIL_ADDR. Which CSTAT a run takes that several causes end is the
model's choice (log entries 48, 78). -/
def Obligations.RunLifecycle : Prop :=
  (∀ (x : Nat) (e b img l : List Byte) (p : List (Byte × Bool)) (s : State), s.Ok → x < 64 → fetchedOp s x 4 = some e → pstate s = 0 →
    psMoving s = false →
    let a := fieldAt e 8 63 0
    let head := ((spineRead a 0x80 s).1.getD []).map Prod.fst
    let n := 0x80 + 16 * (rbBinds head + rbRegions head)
    let r := spineRead a n s
    spineHeld a 0x80 false s = none → spineHeld a n false s = none → r.1.map spanBytes = some (b, none) → runBlockBad r.2 b = none →
    loadedImage s (rbLoad b) = some img → spineHeld (rbPlace b) (16 * imgVcores img) false s = none →
    (spineRead (rbPlace b) (16 * imgVcores img) (takeEntry x r.2)).1 = some p → p.any Prod.snd = false → l = p.map Prod.fst →
    runRefusal (spineRead (rbPlace b) (16 * imgVcores img) (takeEntry x r.2)).2 b (some l) = none →
    ∃ t, exec (.run x) s = .next t ∧
      (∃ u, runAt t s.nextRun = some u ∧ u.sess = x ∧ u.tag = fieldAt e 4 31 0 ∧ u.image = img ∧
        u.ctxs = (placedCtxs (runEntries (some img) l)).map fun q => ctxId q.1 q.2.1) ∧
      t.nextRun = s.nextRun + 1 ∧ (sessAt t x).fetched = none) ∧
  (∀ (x c : Nat) (e b img l : List Byte) (p : List (Byte × Bool)) (s : State), s.Ok → x < 64 → fetchedOp s x 4 = some e → pstate s = 0 →
    psMoving s = false →
    let a := fieldAt e 8 63 0
    let head := ((spineRead a 0x80 s).1.getD []).map Prod.fst
    let n := 0x80 + 16 * (rbBinds head + rbRegions head)
    let r := spineRead a n s
    spineHeld a 0x80 false s = none → spineHeld a n false s = none → r.1.map spanBytes = some (b, none) → runBlockBad r.2 b = none →
    loadedImage s (rbLoad b) = some img → spineHeld (rbPlace b) (16 * imgVcores img) false s = none →
    (spineRead (rbPlace b) (16 * imgVcores img) (takeEntry x r.2)).1 = some p → p.any Prod.snd = false → l = p.map Prod.fst →
    runRefusal (spineRead (rbPlace b) (16 * imgVcores img) (takeEntry x r.2)).2 b (some l) = some c →
    ∃ t, exec (.run x) s = .next t ∧ Completed x { tag := fieldAt e 4 31 0, opcode := 4, result := c, cstat := 4 } s t ∧
      t.runs = s.runs ∧ t.ctxs = s.ctxs) ∧
  (∀ (x : Nat) (e : List Byte) (s : State), s.Ok → x < 64 → fetchedOp s x 4 = some e → pstate s = 2 →
    ∃ t, exec (.run x) s = .next t ∧ Completed x { tag := fieldAt e 4 31 0, opcode := 4, result := 0x24, cstat := 4 } s t ∧ t.runs = s.runs) ∧
  (∀ (n : Nat) (r : Run) (s : State), s.Ok → r.sess < 64 → runAt s n = some r →
    (∀ id, id ∈ r.ctxs → (ctxAt s id).run = n ∧ (ctxAt s id).st ≠ .free ∧ ctxDone r (ctxAt s id) = true) → r.ctxs.eraseDups = r.ctxs →
    ∃ t, exec (.runComplete n) s = .next t ∧ runAt t n = none ∧
      (∀ id, id ∈ r.ctxs → ctxAt t id = { wbDone := (ctxAt s id).wbDone }) ∧
      Sent (.hostWrite (sessLink s r.sess) r.sess (rdi s pgHif .hifCqBase r.sess + 32 * rdi s pgHif .hifCqTail r.sess)
        (cmdBytes (epochNow s) (runRecord r (r.ctxs.any fun id => (ctxAt s id).bindRefused)))) s t) ∧
  (∀ (x : Nat) (irq : Bool) (s : State), s.Ok → x < 64 → (sessAt s x).sent = [.record irq] →
    ∃ t, exec (.go x) s = .next t ∧ (sessAt t x).sent = [] ∧ (sessAt t x).acked = [] ∧
      t.outbox = s.outbox ++ [.hostWrite (sessLink s x) x (rdi s pgHif .hifCqTailAddr x) (leBytes 8 (rdi s pgHif .hifCqTail x))] ++
        (if irq = true ∨ true ∈ (sessAt s x).acked then [.msix (msgLink s) x] else []) ∧ Only [.sess, .outbox] s t) ∧
  ∀ (r : Run) (refused : Bool),
    (runRecord r refused).cstat = (if refused = true then 3 else if r.aborted = true then 2 else if r.notReplay.isSome = true then 1 else
      match r.first with
      | none => 0
      | some f => if f.stat = .fault then 1 else 2) ∧ (runRecord r refused).tag = r.tag ∧ (runRecord r refused).opcode = 4

/-- Memory fences and host signals. FENCE_REQ of an OPEN session adds its token to the pending ones; when every host write has been
accepted, FENCE_DONE reads the token of the last and none is pending. HSIG_i of an OPEN session sets or clears device Serai flag
SFLAG_BASE + i when the flag lies in the host window of the device Serai and changes no other object; outside the window (with the debug
level below INTERVENE) it is discarded and counted. -/
def Obligations.FencesAndHostSignals : Prop :=
  (∀ (x token : Nat) (s : State), s.Ok → sessState s x = 1 → pstate s ≠ 3 →
    ∃ t, exec (.fenceReq x token) s = .next t ∧
      sessAt t x = { sessAt s x with fences := (sessAt s x).fences ++ [token % 2 ^ 32] } ∧ Only [.sess] s t) ∧
  (∀ (x token : Nat) (l : List Nat) (s : State), s.Ok → (sessAt s x).fences = l ++ [token] →
    (∀ c, c ∈ s.chans → ∀ r, r ∈ c.2.late → r.data = none) →
    ∃ t, exec (.memFenceDone x) s = .next t ∧ sessAt t x = { sessAt s x with fences := [], fenceDone := token } ∧
      (∀ y, y ≠ x → sessAt t y = sessAt s y) ∧ Only [.sess] s t) ∧
  (∀ (x i : Nat) (s : State), s.Ok → sessState s x = 1 → pstate s ≠ 3 → rdi s pgHif .hifSflagBase x + i < 1024 →
    rd s 0x2020 .hdrFenced = 0 → inHostWindow s 4 0 (rdi s pgHif .hifSflagBase x + i) = true →
    ∃ t u, exec (.hsigSet x i) s = .next t ∧ exec (.hsigClear x i) s = .next u ∧
      flagAt t 4 (rdi s pgHif .hifSflagBase x + i) = true ∧ flagAt u 4 (rdi s pgHif .hifSflagBase x + i) = false ∧
      (∀ k j, (k, j) ≠ (4, rdi s pgHif .hifSflagBase x + i) → flagAt t k j = flagAt s k j ∧ flagAt u k j = flagAt s k j) ∧
      (∀ k j, ctrAt t k j = ctrAt s k j ∧ ctrAt u k j = ctrAt s k j ∧ barAt t k j = barAt s k j ∧ barAt u k j = barAt s k j) ∧
      Only [.serais] s t ∧ Only [.serais] s u) ∧
  ∀ (x i : Nat) (s : State), inHostWindow s 4 0 (rdi s pgHif .hifSflagBase x + i) = false → debugLevel s ≠ 2 →
    exec (.hsigSet x i) s = .next (doorbellDiscard s) ∧ exec (.hsigClear x i) s = .next (doorbellDiscard s)

/-- A descriptor is loaded, starts and completes. DESC_LOAD of a context that runs, with nothing loaded on the queue and a descriptor
left in its stream, loads the next one into the idle layer register set and leaves the active one; what the set held for another context
of the queue is displaced. DESC_START of a ready and chosen descriptor makes the idle set active and busy, registers its spans with the
scoreboard and adds it to the started ones. DESC_COMPLETE of the oldest started descriptor whose work has ended and whose entries are
released removes it, raises WB_DONE modulo 2^16 for OK and POISONED only, writes its record of R118 when REC = 1 or it ended FAULT, and
with CTX_BIND takes a BINDING context to RUNNING. While waits are not met nothing starts. -/
def Obligations.DescriptorPath : Prop :=
  (∀ (g c q k : Nat) (d : List Byte) (x : Ctx) (s : State), s.Ok → g < 160 → c < 4 → q < 8 → ctxAt s (ctxId g c) = x →
    x.st = .running ∨ x.st = .binding → x.journal ≠ 2 → partServes s (corePart g) = true → (x.q q).idle = none →
    k = (x.q q).loaded + 1 → k ≤ streamLen (ctxImage s g c) x.vcore x.vctx q → d = streamDesc (ctxImage s g c) x.vcore x.vctx q k →
    ∃ t, exec (.descLoad g c q) s = .next t ∧
      (ctxAt t (ctxId g c)).q q = { x.q q with idle := some ⟨k, d⟩, loaded := k } ∧
      (q < 6 → (engineAt t (8 * g + q)).activeSet = (engineAt s (8 * g + q)).activeSet ∧
        (if (engineAt s (8 * g + q)).active = 0 then (engineAt t (8 * g + q)).set1 else (engineAt t (8 * g + q)).set0) = ⟨d, c⟩ ∧
        ∀ i, i < 4 → i ≠ c → ((ctxAt t (ctxId g i)).q q).idle = none) ∧
      (6 ≤ q → t.engines = s.engines ∧ ∀ i, i ≠ ctxId g c → ctxAt t i = ctxAt s i) ∧ Only [.ctxs, .engines] s t) ∧
  (∀ (g c q : Nat) (d : Desc) (x : Ctx) (s : State), s.Ok → g < 160 → c < 4 → q < 8 → ctxAt s (ctxId g c) = x → (x.q q).idle = some d →
    waitType d.img = false → mayStart s g c q = true →
    ∃ t, exec (.descStart g c q) s = .next t ∧ ((ctxAt t (ctxId g c)).q q).idle = none ∧
      ((ctxAt t (ctxId g c)).q q).live = (x.q q).live ++ [{ k := d.k, img := d.img, slotHeld := dRec d.img || canFault (dType d.img) }] ∧
      (q < 6 → (engineAt t (8 * g + q)).active = 1 - (engineAt s (8 * g + q)).active ∧ (engineAt t (8 * g + q)).busy = true ∧
        (engineAt t (8 * g + q)).owner = (c, d.k)) ∧
      (∀ p, p ∈ descSpans (ctxImage s g c) d.img x → ∃ n, { p.entry q c (absWb x q d.k) with slot := n } ∈ (spadAt t g).sb) ∧
      (∀ i, i ≠ ctxId g c → ctxAt t i = ctxAt s i) ∧ Only [.regSpd, .ctxs, .engines, .spads, .sess] s t) ∧
  (∀ (g c q cycles : Nat) (w : Work) (ws : List Work) (st : DStat) (x : Ctx) (r : Run) (s : State), s.Ok → g < 160 → c < 4 → q < 8 →
    ctxAt s (ctxId g c) = x → runAt s x.run = some r → r.sess < 64 → (x.q q).live = w :: ws → w.stat = some st →
    s.flights.filter BkFlight.isDone = [] → holdsEntries s g c q (absWb x q w.k) = false → partServes s (corePart g) = true →
    (w.slotHeld = true ∨ cqFree s r.sess = true) →
    ∃ t, exec (.descComplete g c q cycles) s = .next t ∧ ((ctxAt t (ctxId g c)).q q).live = ws ∧
      (ctxAt t (ctxId g c)).st = (if dType w.img = 0x10 ∧ x.st = .binding then .running else x.st) ∧
      (ctxAt t (ctxId g c)).wbDone.getD q 0 =
        (if st = .ok ∨ st = .poisoned then (x.wbDone.getD q 0 + 1) % 2 ^ 16 else x.wbDone.getD q 0) ∧
      (∀ i, i ≠ q → (ctxAt t (ctxId g c)).wbDone.getD i 0 = x.wbDone.getD i 0 ∧ (ctxAt t (ctxId g c)).q i = x.q i) ∧
      (if dRec w.img = true ∨ st = .fault then
        Sent (.hostWrite (sessLink s r.sess) r.sess (rdi s pgHif .hifCqBase r.sess + 32 * rdi s pgHif .hifCqTail r.sess)
          (descRecord s x c q w cycles r.profile)) s t
       else t.outbox = s.outbox) ∧
      (∀ i, i ≠ ctxId g c → ctxAt t i = ctxAt s i) ∧
      Only [.regEng, .regTmv, .regBkc, .regRng, .ctxs, .sess, .outbox] s t) ∧
  ∀ (g c q : Nat) (d : Desc) (s : State), c < 4 → ((ctxAt s (ctxId g c)).q q).idle = some d →
    ((ctxAt s (ctxId g c)).q q).live = [] → waitsMet (ctxAt s (ctxId g c)) d.img = false →
    exec (.descStart g c q) s = .next s ∧ exec (.nop g c q) s = .next s ∧ exec (.wait g c q) s = .next s ∧
      exec (.endDesc g c q) s = .next s ∧ exec (.barrier g c q) s = .next s

/-- The control descriptors. NOP, WAIT and END complete their work as OK when they may start. A BARRIER whose queue is not the last
participant of the pass arrives; the last one's arrival counts the pass and completes the BARRIER of every participant that is loaded,
without REC, behind no other descriptor of its queue and with its set free. CTX_BIND of a context not bound yet, to a snapshot that the
epoch unit accepts, binds it to that snapshot with the descriptor's priority; otherwise the context is marked refused and every context
of the run that ran or was binding halts; of a context already bound it keeps the snapshot. EPOCH_WAIT ends OK when TARGET is at or
before EPOCH_NOW and FAULT, its context halting, when the distance lies in 2^30 to 2^31. -/
def Obligations.ControlDescriptors : Prop :=
  (∀ (g c q : Nat) (w : Work) (u s : State), s.Ok → takeDesc s g c q (fun d => dType d = 0x01) = some (w, u) →
    ∃ t, exec (.nop g c q) s = .next t ∧ Ended g c q w.k .ok t ∧ Only (endParts ++ [.sess]) s t) ∧
  (∀ (g c q : Nat) (w : Work) (u s : State), s.Ok → takeDesc s g c q (fun d => dType d = 0x02) = some (w, u) →
    ∃ t, exec (.wait g c q) s = .next t ∧ Ended g c q w.k .ok t ∧ Only (endParts ++ [.sess]) s t) ∧
  (∀ (g c q : Nat) (w : Work) (u s : State), s.Ok → takeDesc s g c q (fun d => dType d = 0x04) = some (w, u) →
    ∃ t, exec (.endDesc g c q) s = .next t ∧ Ended g c q w.k .ok t ∧ Only (endParts ++ [.sess]) s t) ∧
  (∀ (g c q e : Nat) (d : Desc) (x : Ctx) (all : List Nat) (s : State), s.Ok → ctxAt s (ctxId g c) = x → (x.q q).idle = some d →
    dType d.img = 0x03 → ctxOpen x 0x03 = true → coreStarts s g q = true → waitsMet x d.img = true → e = fieldAt d.img 0x10 11 0 →
    (x.bar e).passes < barOrdinal (ctxImage s g c) x q e d.k → q ∉ (x.bar e).arrived →
    all = (List.range 8).filter (fun i => bit (fieldAt (barrierEntry (ctxImage s g c) e) 0 31 24) i = 1) →
    ∃ t, exec (.barrier g c q) s = .next t ∧ (∀ i, i ≠ ctxId g c → ctxAt t i = ctxAt s i) ∧
      Only (endParts ++ [.regEng, .regTmv, .regBkc, .regRng, .sess]) s t ∧
      ((∃ i, i ∈ all ∧ i ≠ q ∧ i ∉ (x.bar e).arrived) → Only [.ctxs] s t ∧
        (ctxAt t (ctxId g c)).bar e = { x.bar e with arrived := (x.bar e).arrived ++ [q] } ∧ (ctxAt t (ctxId g c)).q q = x.q q) ∧
      ((∀ i, i ∈ all → i = q ∨ i ∈ (x.bar e).arrived) →
        (ctxAt t (ctxId g c)).bar e = ⟨e, (x.bar e).passes + 1, []⟩ ∧
        ∀ i d', i ∈ all → (x.q i).idle = some d' → dType d'.img = 0x03 → dRec d'.img = false → (x.q i).live = [] →
          coreStarts s g i = true → engineOpen s g i = true →
          ((ctxAt t (ctxId g c)).q i).idle = none ∧ ((ctxAt t (ctxId g c)).q i).live = [] ∧
            (ctxAt t (ctxId g c)).wbDone.getD i 0 = (x.wbDone.getD i 0 + 1) % 2 ^ 16)) ∧
  (∀ (g c snap : Nat) (w : Work) (u s : State), s.Ok → takeDesc s g c qCt (fun d => dType d = 0x10) = some (w, u) →
    snap = bindSnap s ((runAt s (ctxAt s (ctxId g c)).run).getD {}) w.img →
    ∃ t, exec (.ctxBind g c) s = .next t ∧
      ((ctxAt s (ctxId g c)).bound = true → (ctxAt t (ctxId g c)).snap = (ctxAt s (ctxId g c)).snap ∧ Ended g c qCt w.k .ok t) ∧
      ((ctxAt s (ctxId g c)).bound = false → bindAccepted s snap = true → (ctxAt t (ctxId g c)).bound = true ∧
        (ctxAt t (ctxId g c)).snap = snap ∧ (ctxAt t (ctxId g c)).prio = fieldAt w.img 0x18 1 0 ∧ Ended g c qCt w.k .ok t) ∧
      ((ctxAt s (ctxId g c)).bound = false → bindAccepted s snap = false → (ctxAt t (ctxId g c)).bindRefused = true ∧
        ∀ r id, runAt s (ctxAt s (ctxId g c)).run = some r → id ∈ r.ctxs →
          (ctxAt s id).run = (ctxAt s (ctxId g c)).run → (ctxAt t id).st ≠ .running ∧ (ctxAt t id).st ≠ .binding)) ∧
  ∀ (g c : Nat) (w : Work) (u s : State), s.Ok → takeDesc s g c qCt (fun d => dType d = 0x11) = some (w, u) →
    (epochAtOrBefore (fieldAt w.img 0x10 31 0) (epochNow s) = true →
      ∃ t, exec (.epochWait g c) s = .next t ∧ Ended g c qCt w.k .ok t ∧ Only (endParts ++ [.sess]) s t) ∧
    (2 ^ 30 ≤ serialDiff (epochNow s) (fieldAt w.img 0x10 31 0) → serialDiff (epochNow s) (fieldAt w.img 0x10 31 0) ≤ 2 ^ 31 →
      ∃ t, exec (.epochWait g c) s = .next t ∧ Ended g c qCt w.k .fault t ∧ (ctxAt t (ctxId g c)).st ≠ .running ∧
        (ctxAt t (ctxId g c)).st ≠ .binding)

/-- Flag descriptors. FLAG_OP sets, clears or toggles the flag that its handle names, FLAG_WAIT on a flag that holds the awaited value
completes and with CONSUME clears it; each ends its descriptor OK, leaves every other flag, and every counter and barrier. A FLAG_WAIT
whose flag does not hold the awaited value does nothing. -/
def Obligations.FlagDescriptors : Prop :=
  (∀ (g c : Nat) (w : Work) (u s : State), s.Ok → takeDesc s g c qSy (fun d => dType d = 0x20 && fieldAt d 0x14 1 0 = 0) = some (w, u) →
    syApplied (ctxAt s (ctxId g c)) w.k = false →
    ∃ t, exec (.flagSet g c) s = .next t ∧ Ended g c qSy w.k .ok t ∧ Only (endParts ++ [.serais, .sess]) s t ∧
      (∀ k i, flagAt t k i = if (k, i) = descObject s g c 0 w.img then true else flagAt s k i) ∧
      ∀ k i, ctrAt t k i = ctrAt s k i ∧ barAt t k i = barAt s k i) ∧
  (∀ (g c : Nat) (w : Work) (u s : State), s.Ok → takeDesc s g c qSy (fun d => dType d = 0x20 && fieldAt d 0x14 1 0 = 1) = some (w, u) →
    syApplied (ctxAt s (ctxId g c)) w.k = false →
    ∃ t, exec (.flagClear g c) s = .next t ∧ Ended g c qSy w.k .ok t ∧ Only (endParts ++ [.serais, .sess]) s t ∧
      (∀ k i, flagAt t k i = if (k, i) = descObject s g c 0 w.img then false else flagAt s k i) ∧
      ∀ k i, ctrAt t k i = ctrAt s k i ∧ barAt t k i = barAt s k i) ∧
  (∀ (g c : Nat) (w : Work) (u s : State), s.Ok → takeDesc s g c qSy (fun d => dType d = 0x20 && fieldAt d 0x14 1 0 = 2) = some (w, u) →
    syApplied (ctxAt s (ctxId g c)) w.k = false →
    ∃ t, exec (.flagToggle g c) s = .next t ∧ Ended g c qSy w.k .ok t ∧ Only (endParts ++ [.serais, .sess]) s t ∧
      (∀ k i, flagAt t k i = if (k, i) = descObject s g c 0 w.img then !flagAt s k i else flagAt s k i) ∧
      ∀ k i, ctrAt t k i = ctrAt s k i ∧ barAt t k i = barAt s k i) ∧
  (∀ (g c : Nat) (w : Work) (u s : State), s.Ok → takeDesc s g c qSy (fun d => dType d = 0x21) = some (w, u) →
    syApplied (ctxAt s (ctxId g c)) w.k = false →
    ∃ t, exec (.flagWait g c) s = .next t ∧ Ended g c qSy w.k .ok t ∧ Only (endParts ++ [.serais, .sess]) s t ∧
      (∀ k i, flagAt t k i = if (k, i) = descObject s g c 0 w.img ∧ fieldAt w.img 0x14 1 1 = 1 then false else flagAt s k i) ∧
      ∀ k i, ctrAt t k i = ctrAt s k i ∧ barAt t k i = barAt s k i) ∧
  ∀ (g c : Nat) (d : Desc) (s : State), c < 4 → ((ctxAt s (ctxId g c)).q qSy).idle = some d → dType d.img = 0x21 →
    ((ctxAt s (ctxId g c)).q qSy).live = [] → syApplied (ctxAt s (ctxId g c)) d.k = false →
    flagAt s (descObject s g c 0 d.img).1 (descObject s g c 0 d.img).2 ≠ decide (fieldAt d.img 0x14 0 0 = 1) →
    exec (.flagWait g c) s = .next s

/-- Counter descriptors. CTR_OP ADD adds its 32-bit delta modulo 2^32 and SET writes its value to the counter that the handle names, and
each leaves every other counter, flag and barrier and ends its descriptor OK. CTR_WAIT compares the counter with TARGET: AT_OR_AFTER is
met exactly when the distance from TARGET to the value is below 2^31, EQ when they are equal, NE when they differ; it ends OK when its
condition is met and does nothing while it is not. Formalises: "ADD adds a signed 32-bit delta modulo 2^32, with no flag and no
saturation." -/
def Obligations.CounterDescriptors : Prop :=
  (∀ (g c : Nat) (w : Work) (u s : State), s.Ok → takeDesc s g c qSy (fun d => dType d = 0x22 && fieldAt d 0x14 0 0 = 0) = some (w, u) →
    syApplied (ctxAt s (ctxId g c)) w.k = false →
    ∃ t, exec (.ctrAdd g c) s = .next t ∧ Ended g c qSy w.k .ok t ∧ Only (endParts ++ [.serais, .sess]) s t ∧
      (∀ k i, ctrAt t k i = if (k, i) = descObject s g c 1 w.img then (ctrAt s k i + fieldAt w.img 0x18 31 0) % 2 ^ 32 else ctrAt s k i) ∧
      ∀ k i, flagAt t k i = flagAt s k i ∧ barAt t k i = barAt s k i) ∧
  (∀ (g c : Nat) (w : Work) (u s : State), s.Ok → takeDesc s g c qSy (fun d => dType d = 0x22 && fieldAt d 0x14 0 0 = 1) = some (w, u) →
    syApplied (ctxAt s (ctxId g c)) w.k = false →
    ∃ t, exec (.ctrSet g c) s = .next t ∧ Ended g c qSy w.k .ok t ∧ Only (endParts ++ [.serais, .sess]) s t ∧
      (∀ k i, ctrAt t k i = if (k, i) = descObject s g c 1 w.img then fieldAt w.img 0x18 31 0 else ctrAt s k i) ∧
      ∀ k i, flagAt t k i = flagAt s k i ∧ barAt t k i = barAt s k i) ∧
  (∀ (g c : Nat) (w : Work) (u s : State), s.Ok → takeDesc s g c qSy (fun d => dType d = 0x23) = some (w, u) →
    ∃ t, exec (.ctrWait g c) s = .next t ∧ Ended g c qSy w.k .ok t ∧ Only (endParts ++ [.sess]) s t) ∧
  (∀ (g c : Nat) (d : Desc) (s : State), c < 4 → ((ctxAt s (ctxId g c)).q qSy).idle = some d → dType d.img = 0x23 →
    ((ctxAt s (ctxId g c)).q qSy).live = [] →
    ctrCond (fieldAt d.img 0x14 1 0) (fieldAt d.img 0x18 31 0)
      (ctrAt s (descObject s g c 1 d.img).1 (descObject s g c 1 d.img).2) = false →
    exec (.ctrWait g c) s = .next s) ∧
  ∀ target v : Nat, target < 2 ^ 32 → v < 2 ^ 32 →
    ctrCond 0 target v = decide ((v + 2 ^ 32 - target) % 2 ^ 32 < 2 ^ 31) ∧ ctrCond 1 target v = decide (v = target) ∧
      ctrCond 2 target v = decide (v ≠ target)

/-- Barrier descriptors. BAR_INIT of a barrier that is UNINIT, or OPEN with COUNT = 0, opens it with N, MUSTER, PROD and CONS, COUNT 0
and GEN 0; of one with arrivals it ends FAULT and changes nothing of it. BAR_ARRIVE with WAIT = 0 counts an arrival and ends OK; the
N-th completes the generation: COUNT 0, GEN one higher modulo 256; at an UNINIT barrier it ends FAULT. With WAIT = 1 an arrival that is
not the last leaves the descriptor unstarted and counted. BAR_WAIT for a completed generation ends OK, or FAULT when its muster was
skewed. The muster step of a completing generation takes C from P and zeroes C when C is at or before P, and leaves both when it is not. -/
def Obligations.BarrierDescriptors : Prop :=
  (∀ (g c : Nat) (o : Nat × Nat) (w : Work) (u s : State), s.Ok → takeDesc s g c qSy (fun d => dType d = 0x24) = some (w, u) →
    syApplied (ctxAt s (ctxId g c)) w.k = false → o = descObject s g c 2 w.img →
    ((barAt s o.1 o.2).n = 0 ∨ (barAt s o.1 o.2).count = 0 →
      ∃ t, exec (.barInit g c) s = .next t ∧ Ended g c qSy w.k .ok t ∧
        (barAt t o.1 o.2).n = fieldAt w.img 0x14 12 0 ∧ (barAt t o.1 o.2).muster = decide (fieldAt w.img 0x14 16 16 = 1) ∧
        (barAt t o.1 o.2).count = 0 ∧ (barAt t o.1 o.2).gen = 0 ∧
        (barAt t o.1 o.2).prod = (objectOf s (ctxId g c) 1 (fieldAt w.img 0x10 12 12 * 2 ^ 12 + fieldAt w.img 0x18 11 0)).2 ∧
        (barAt t o.1 o.2).cons = (objectOf s (ctxId g c) 1 (fieldAt w.img 0x10 12 12 * 2 ^ 12 + fieldAt w.img 0x18 27 16)).2 ∧
        (∀ k i, (k, i) ≠ o → barAt t k i = barAt s k i) ∧ ∀ k i, flagAt t k i = flagAt s k i ∧ ctrAt t k i = ctrAt s k i) ∧
    ((barAt s o.1 o.2).n ≠ 0 → (barAt s o.1 o.2).count ≠ 0 →
      ∃ t, exec (.barInit g c) s = .next t ∧ Ended g c qSy w.k .fault t ∧ t.serais = s.serais)) ∧
  (∀ (g c : Nat) (o : Nat × Nat) (w : Work) (u s : State), s.Ok → takeDesc s g c qSy (fun d => dType d = 0x25) = some (w, u) →
    syApplied (ctxAt s (ctxId g c)) w.k = false → o = descObject s g c 2 w.img → fieldAt w.img 0x14 0 0 = 0 →
    ((barAt s o.1 o.2).n = 0 → ∃ t, exec (.barArrive g c) s = .next t ∧ Ended g c qSy w.k .fault t ∧ t.serais = s.serais) ∧
    ((barAt s o.1 o.2).n ≠ 0 → (barAt s o.1 o.2).count + 1 ≠ (barAt s o.1 o.2).n →
      ∃ t, exec (.barArrive g c) s = .next t ∧ Ended g c qSy w.k .ok t ∧
        barAt t o.1 o.2 = { barAt s o.1 o.2 with count := (barAt s o.1 o.2).count + 1, arr := (barAt s o.1 o.2).arr ++ [some (ctxId g c, absWb (ctxAt s (ctxId g c)) qSy w.k)] } ∧
        (∀ k i, (k, i) ≠ o → barAt t k i = barAt s k i) ∧ ∀ k i, flagAt t k i = flagAt s k i ∧ ctrAt t k i = ctrAt s k i) ∧
    ((barAt s o.1 o.2).count + 1 = (barAt s o.1 o.2).n →
      ∃ t, exec (.barArrive g c) s = .next t ∧ Ended g c qSy w.k .ok t ∧
        barAt t o.1 o.2 = { barAt s o.1 o.2 with count := 0, gen := ((barAt s o.1 o.2).gen + 1) % 256, arr := [] } ∧
        (∀ k i, (k, i) ≠ o → barAt t k i = barAt s k i) ∧ (∀ k i, flagAt t k i = flagAt s k i) ∧
        ((barAt s o.1 o.2).muster = false → ∀ k i, ctrAt t k i = ctrAt s k i))) ∧
  (∀ (g c : Nat) (o : Nat × Nat) (w : Work) (u s : State), s.Ok → takeDesc s g c qSy (fun d => dType d = 0x25) = some (w, u) →
    syApplied (ctxAt s (ctxId g c)) w.k = false → o = descObject s g c 2 w.img → fieldAt w.img 0x14 0 0 = 1 →
    (∀ e, e ∈ (ctxAt s (ctxId g c)).gens → e.k ≠ w.k) → (barAt s o.1 o.2).n ≠ 0 → (barAt s o.1 o.2).count + 1 ≠ (barAt s o.1 o.2).n →
    ∃ t, exec (.barArrive g c) s = .next t ∧ (ctxAt t (ctxId g c)).q qSy = (ctxAt s (ctxId g c)).q qSy ∧
      (barAt t o.1 o.2).count = (barAt s o.1 o.2).count + 1 ∧ Only [.ctxs, .serais] s t) ∧
  (∀ (g c : Nat) (e : SplitGen) (w : Work) (u s : State), s.Ok → takeDesc s g c qSy (fun d => dType d = 0x26) = some (w, u) →
    (ctxAt s (ctxId g c)).genOf (fieldAt w.img 0x14 15 0) = some e → e.done = true →
    ∃ t, exec (.barWait g c) s = .next t ∧ Ended g c qSy w.k (if e.skew = true then .fault else .ok) t ∧ t.serais = s.serais ∧
      (ctxAt t (ctxId g c)).genOf (fieldAt w.img 0x14 15 0) = none) ∧
  ∀ (k i : Nat) (b : Bar) (s : State), b.muster = true → b.prod ≠ b.cons → ctrAt s k b.prod < 2 ^ 32 → ctrAt s k b.cons < 2 ^ 32 →
    ctrAt (musterStep k i b s).1 k b.prod = (if epochAtOrBefore (ctrAt s k b.cons) (ctrAt s k b.prod) = true
      then (ctrAt s k b.prod + 2 ^ 32 - ctrAt s k b.cons) % 2 ^ 32 else ctrAt s k b.prod) ∧
    ctrAt (musterStep k i b s).1 k b.cons = (if epochAtOrBefore (ctrAt s k b.cons) (ctrAt s k b.prod) = true then 0 else ctrAt s k b.cons) ∧
    (musterStep k i b s).2 = !epochAtOrBefore (ctrAt s k b.cons) (ctrAt s k b.prod)

/-- Signals to peers and to the host, and held signals. REMOTE_SIGNAL without named data appends its SIGNAL frame to the signal queue of
the port that routing gives and ends OK; with no route it ends FAULT. HOST_NOTIFY writes value and count modulo 2^32 to the flag's
address in one write; its descriptor ends at once where the link's writes are posted, and otherwise when the write receives its GO. A
held signal whose data has landed, behind no other of its stream, is applied to its object inside the remote windows, and discarded and
counted outside them; it leaves the held entries, and every other flag, counter and barrier stays. -/
def Obligations.SignalsAndHeldSignals : Prop :=
  (∀ (g c peer p : Nat) (w : Work) (u s : State), s.Ok → takeDesc s g c qSy (fun d => dType d = 0x27) = some (w, u) →
    syApplied (ctxAt s (ctxId g c)) w.k = false → signalData (ctxAt s (ctxId g c)) w.img = none → peer = fieldAt w.img 0x10 11 0 →
    route u g c qSy peer = some p →
    ∃ t, exec (.remoteSignal g c) s = .next t ∧ Ended g c qSy w.k .ok t ∧
      (portAt t p).tx.getD 1 [] = (portAt s p).tx.getD 1 [] ++ [hdrBytes { type := 0x20, dst := peer, dpart := fieldAt w.img 0x10 14 12,
                                                                           src := selfAddr s, core := g, ctx := c, q := qSy, wb := absWb (ctxAt s (ctxId g c)) qSy w.k,
                                                                           dva := fieldAt w.img 0x14 11 0 + fieldAt w.img 0x14 12 12 * 2 ^ 12 + fieldAt w.img 0x14 14 13 * 2 ^ 13 + fieldAt w.img 0x18 31 0 * 2 ^ 32 }] ∧
      (∀ v, v ≠ 1 → (portAt t p).tx.getD v [] = (portAt s p).tx.getD v []) ∧ ∀ o, o ≠ p → portAt t o = portAt s o) ∧
  (∀ (g c : Nat) (w : Work) (u s : State), s.Ok → takeDesc s g c qSy (fun d => dType d = 0x27) = some (w, u) →
    syApplied (ctxAt s (ctxId g c)) w.k = false → signalData (ctxAt s (ctxId g c)) w.img = none → route u g c qSy (fieldAt w.img 0x10 11 0) = none →
    ∃ t, exec (.remoteSignal g c) s = .next t ∧ Ended g c qSy w.k .fault t ∧ t.ports = s.ports) ∧
  (∀ (g c x i n : Nat) (w : Work) (u s : State), s.Ok → takeDesc s g c qSy (fun d => dType d = 0x28) = some (w, u) →
    syApplied (ctxAt s (ctxId g c)) w.k = false → x = ((runAt s (ctxAt s (ctxId g c)).run).getD {}).sess → i = fieldAt w.img 0x10 5 0 →
    n = (SMap.get (fun _ => 0) (sessAt s x).flagCount i + 1) % 2 ^ 32 →
    ∃ t, exec (.hostNotify g c) s = .next t ∧ SMap.get (fun _ => 0) (sessAt t x).flagCount i = n ∧
      Sent (.hostWrite (sessLink s x) x (rdi s pgHif .hifFlagBase x + 8 * i) (leBytes 4 (fieldAt w.img 0x14 31 0) ++ leBytes 4 n)) s t ∧
      (sessPosted s x = true → Ended g c qSy w.k .ok t) ∧
      (sessPosted s x = false → (sessAt t x).sent = (sessAt s x).sent ++ [.flag (bit (rdi s pgHif .hifFlagIrq x) i = 1) g c w.k])) ∧
  (∀ (x g c k : Nat) (irq : Bool) (w : Work) (s : State), s.Ok → (sessAt s x).sent = [.flag irq g c k] →
    w ∈ ((ctxAt s (ctxId g c)).q qSy).live → w.k = k → w.works = true → dType w.img = 0x28 →
    ∃ t, exec (.go x) s = .next t ∧ Ended g c qSy k .ok t ∧ (sessAt t x).sent = [] ∧ (irq = true → Sent (.msix (msgLink s) x) s t)) ∧
  (∀ (sy pos : Nat) (h : Held) (s : State), s.Ok → (seraiAt s sy).held[pos]? = some h → heldFailed s h = false →
    heldReady s ((seraiAt s sy).held.take pos) h = true → inRemoteWindow s sy h.counter h.idx = true →
    h.idx < seraiCap sy (if h.counter then 1 else 0) →
    ∃ t, exec (.heldSignalApply sy pos) s = .next t ∧ (seraiAt t sy).held = (seraiAt s sy).held.eraseIdx pos ∧
      (∀ k i, flagAt t k i = if h.counter = false ∧ (k, i) = (sy, h.idx) then decide (h.op = 0) else flagAt s k i) ∧
      (∀ k i, ctrAt t k i = if h.counter = true ∧ (k, i) = (sy, h.idx)
        then (if h.op = 0 then ctrAt s k i + h.operand else h.operand) % 2 ^ 32 else ctrAt s k i) ∧
      (∀ k i, barAt t k i = barAt s k i) ∧ Only [.serais] s t) ∧
  ∀ (sy pos : Nat) (h : Held) (s : State), s.Ok → (seraiAt s sy).held[pos]? = some h → heldFailed s h = false →
    heldReady s ((seraiAt s sy).held.take pos) h = true → inRemoteWindow s sy h.counter h.idx = false →
    ∃ t, exec (.heldSignalApply sy pos) s = .next t ∧ (seraiAt t sy).held = (seraiAt s sy).held.eraseIdx pos ∧
      (∀ k i, flagAt t k i = flagAt s k i ∧ ctrAt t k i = ctrAt s k i ∧ barAt t k i = barAt s k i) ∧
      rd t (seraiPage sy) .seraiRemoteRejected = min (2 ^ 32 - 1) (rd s (seraiPage sy) .seraiRemoteRejected + 1)

/-- Host operations on Serai objects. A HOP operation that is not refused by kind, range, debug level or window acts on its object and
reports HOP_STATUS 0 with HOP_GO 0: READ shows it and changes none, FLAG_SET and FLAG_CLEAR store the flag, CTR_ADD adds HOP_ARG modulo
2^32 and shows the old value, CTR_SET stores it, BAR_INIT opens a barrier without arrivals, BAR_ARRIVE counts one, DBG_RELEASE completes
the generation without a muster step, DBG_WITHDRAW takes one arrival back. Every other flag, counter and barrier stays. A refused
operation reports the first refusal of R143 and changes no object, BAR_INIT of a barrier with arrivals BAR_BUSY, and an arrival, release
or withdrawal at an UNINIT barrier BAR_UNINIT. -/
def Obligations.HostObjectOperations : Prop :=
  (∀ (k i : Nat) (s : State), s.Ok → k < 5 → i < 4096 → unitReachable s (seraiUnit k) = true →
    (hopRefusal s k 0 0 i = 0 → ∃ t, exec (.hopRead k 0 i) s = .next t ∧ rd t (seraiPage k) .seraiHopStatus = 0 ∧
      rd t (seraiPage k) .seraiHopGo = 0 ∧ rd t (seraiPage k) .seraiHopResult0 = (if flagAt s k i = true then 1 else 0) ∧ t.serais = s.serais) ∧
    (hopRefusal s k 0 1 i = 0 → ctrAt s k i < 2 ^ 32 → ∃ t, exec (.hopRead k 1 i) s = .next t ∧ rd t (seraiPage k) .seraiHopStatus = 0 ∧
      rd t (seraiPage k) .seraiHopResult0 = ctrAt s k i ∧ t.serais = s.serais) ∧
    (hopRefusal s k 1 0 i = 0 → ∃ t, exec (.hopFlagSet k 0 i) s = .next t ∧ rd t (seraiPage k) .seraiHopStatus = 0 ∧
      (∀ k' i', flagAt t k' i' = if (k', i') = (k, i) then true else flagAt s k' i') ∧
      ∀ k' i', ctrAt t k' i' = ctrAt s k' i' ∧ barAt t k' i' = barAt s k' i') ∧
    (hopRefusal s k 2 0 i = 0 → ∃ t, exec (.hopFlagClear k 0 i) s = .next t ∧ rd t (seraiPage k) .seraiHopStatus = 0 ∧
      (∀ k' i', flagAt t k' i' = if (k', i') = (k, i) then false else flagAt s k' i') ∧
      ∀ k' i', ctrAt t k' i' = ctrAt s k' i' ∧ barAt t k' i' = barAt s k' i') ∧
    (hopRefusal s k 3 1 i = 0 → ctrAt s k i < 2 ^ 32 →
      ∃ t, exec (.hopCtrAdd k 1 i) s = .next t ∧ rd t (seraiPage k) .seraiHopStatus = 0 ∧
      rd t (seraiPage k) .seraiHopResult0 = ctrAt s k i ∧
      (∀ k' i', ctrAt t k' i' = if (k', i') = (k, i) then (ctrAt s k i + rd s (seraiPage k) .seraiHopArg) % 2 ^ 32 else ctrAt s k' i') ∧
      ∀ k' i', flagAt t k' i' = flagAt s k' i' ∧ barAt t k' i' = barAt s k' i') ∧
    (hopRefusal s k 4 1 i = 0 → ∃ t, exec (.hopCtrSet k 1 i) s = .next t ∧ rd t (seraiPage k) .seraiHopStatus = 0 ∧
      (∀ k' i', ctrAt t k' i' = if (k', i') = (k, i) then rd s (seraiPage k) .seraiHopArg else ctrAt s k' i') ∧
      ∀ k' i', flagAt t k' i' = flagAt s k' i' ∧ barAt t k' i' = barAt s k' i') ∧
    (hopRefusal s k 5 2 i = 0 → (barAt s k i).n = 0 ∨ (barAt s k i).count = 0 →
      ∃ t, exec (.hopBarInit k 2 i) s = .next t ∧ rd t (seraiPage k) .seraiHopStatus = 0 ∧
      (barAt t k i).n = bits (rd s (seraiPage k) .seraiHopArg) 12 0 ∧
      (barAt t k i).muster = decide (bit (rd s (seraiPage k) .seraiHopArg) 16 = 1) ∧ (barAt t k i).count = 0 ∧ (barAt t k i).gen = 0 ∧
      ∀ k' i', (k', i') ≠ (k, i) → barAt t k' i' = barAt s k' i') ∧
    (hopRefusal s k 5 2 i = 0 → (barAt s k i).n ≠ 0 → (barAt s k i).count ≠ 0 →
      ∃ t, exec (.hopBarInit k 2 i) s = .next t ∧ rd t (seraiPage k) .seraiHopStatus = 3 ∧ t.serais = s.serais) ∧
    (hopRefusal s k 6 2 i = 0 → (barAt s k i).n ≠ 0 → (barAt s k i).count + 1 ≠ (barAt s k i).n →
      ∃ t, exec (.hopBarArrive k 2 i) s = .next t ∧ rd t (seraiPage k) .seraiHopStatus = 0 ∧
      barAt t k i = { barAt s k i with count := (barAt s k i).count + 1, arr := (barAt s k i).arr ++ [none] } ∧
      ∀ k' i', (k', i') ≠ (k, i) → barAt t k' i' = barAt s k' i') ∧
    (hopRefusal s k 7 2 i = 0 → (barAt s k i).n ≠ 0 →
      ∃ t, exec (.dbgRelease k 2 i) s = .next t ∧ rd t (seraiPage k) .seraiHopStatus = 0 ∧
      barAt t k i = { barAt s k i with count := 0, gen := ((barAt s k i).gen + 1) % 256, arr := [] } ∧
      (∀ k' i', (k', i') ≠ (k, i) → barAt t k' i' = barAt s k' i') ∧ ∀ k' i', ctrAt t k' i' = ctrAt s k' i') ∧
    (hopRefusal s k 8 2 i = 0 → (barAt s k i).n ≠ 0 →
      ∃ t, exec (.dbgWithdraw k 2 i) s = .next t ∧ rd t (seraiPage k) .seraiHopStatus = 0 ∧
      (barAt t k i).count = (barAt s k i).count - 1 ∧ (barAt t k i).gen = (barAt s k i).gen ∧
      ∀ k' i', (k', i') ≠ (k, i) → barAt t k' i' = barAt s k' i') ∧
    ((barAt s k i).n = 0 → (hopRefusal s k 6 2 i = 0 → ∃ t, exec (.hopBarArrive k 2 i) s = .next t ∧
        rd t (seraiPage k) .seraiHopStatus = 4 ∧ t.serais = s.serais) ∧
      (hopRefusal s k 7 2 i = 0 → ∃ t, exec (.dbgRelease k 2 i) s = .next t ∧ rd t (seraiPage k) .seraiHopStatus = 4 ∧ t.serais = s.serais) ∧
      (hopRefusal s k 8 2 i = 0 → ∃ t, exec (.dbgWithdraw k 2 i) s = .next t ∧ rd t (seraiPage k) .seraiHopStatus = 4 ∧
        t.serais = s.serais))) ∧
  (∀ (k kind i : Nat) (s : State), s.Ok → k < 5 → kind < 3 → i < 4096 → unitReachable s (seraiUnit k) = true →
    (∀ c op, (c, op) ∈ [(Instr.hopRead k kind i, 0), (.hopFlagSet k kind i, 1), (.hopFlagClear k kind i, 2), (.hopCtrAdd k kind i, 3),
        (.hopCtrSet k kind i, 4), (.hopBarInit k kind i, 5), (.hopBarArrive k kind i, 6), (.dbgRelease k kind i, 7), (.dbgWithdraw k kind i, 8)] →
      hopRefusal s k op kind i ≠ 0 →
      ∃ t, exec c s = .next t ∧ rd t (seraiPage k) .seraiHopStatus = hopRefusal s k op kind i ∧ rd t (seraiPage k) .seraiHopGo = 0 ∧
        Only [.regSerai] s t)) ∧
  ∀ (k op kind i : Nat) (s : State), op ≤ 8 → kind ≤ 2 →
    hopRefusal s k op kind i =
      (if ¬(op = 0 ∨ (kind = 0 ∧ 1 ≤ op ∧ op ≤ 2) ∨ (kind = 1 ∧ 3 ≤ op ∧ op ≤ 4) ∨ (kind = 2 ∧ 5 ≤ op)) then 6
       else if seraiCap k kind ≤ i ∨ (op = 5 ∧ ¬(2 ≤ bits (rd s (seraiPage k) .seraiHopArg) 12 0 ∧ bits (rd s (seraiPage k) .seraiHopArg) 12 0 ≤ 4096)) then 1
       else if rd s (seraiPage k) .hdrFenced = 1 ∨ (7 ≤ op ∧ debugLevel s ≠ 2) then 5
       else if inHostWindow s k kind i = false ∧ debugLevel s ≠ 2 then 2 else 0)

/-- The hang watchdog, scoreboard claims and releases. The watchdog of a RUNNING context that is blocked on a descriptor other than
EPOCH_WAIT counts WDOG_FIRES and raises HANG; with REPORT the contexts stay as they are, with HALT every blocked descriptor ends FAULT
and the context halts. A descriptor that R112 and R122 would start and the scoreboard refuses, with no claim of its queue there, places
a claim for each of its spans behind the entries; its DESC_START changes only the counters of refused cycles. A release takes the one
entry of a started descriptor off the scoreboard whose condition holds (R209), and no other; one whose condition does not hold stays.
What counts as a cycle of conflict is the model's choice (log entry 87). -/
def Obligations.WatchdogAndScoreboard : Prop :=
  (∀ (g c : Nat) (s : State), s.Ok → g < 160 → c < 4 → (ctxAt s (ctxId g c)).st = .running → (ctxAt s (ctxId g c)).journal ≠ 2 →
    rd s (seraiPage (corePart g)) .seraiWdogEn = 1 → partServes s (corePart g) = true → corePart g ∉ s.partHold →
    rd s (coreUnit g).page .hdrFenced = 0 →
    (∃ q d b, q < 8 ∧ oldest s g c q = some d ∧ blockedOn s g c d = some b ∧ dType d.img ≠ 0x11) →
    ∃ t, exec (.wdogFire g c) s = .next t ∧ bit (rd t (seraiPage (corePart g)) .hdrIrqStat) 16 = 1 ∧
      rd t (seraiPage (corePart g)) .seraiWdogFires = min (2 ^ 16 - 1) (rd s (seraiPage (corePart g)) .seraiWdogFires + 1) ∧
      (rd s (seraiPage (corePart g)) .seraiWdogAction = 0 → t.ctxs = s.ctxs ∧ t.runs = s.runs) ∧
      (rd s (seraiPage (corePart g)) .seraiWdogAction ≠ 0 → (ctxAt t (ctxId g c)).st = .halted ∧
        ∀ q d b, q < 8 → oldest s g c q = some d → blockedOn s g c d = some b → Ended g c q d.k .fault t)) ∧
  (∀ (g c q : Nat) (d : Desc) (x : Ctx) (spans : List SbSpan) (s : State), s.Ok → ctxAt s (ctxId g c) = x → (x.q q).idle = some d →
    spans = descSpans (ctxImage s g c) d.img x → refused s g c q = true → (∀ e, e ∈ (spadAt s g).sb → e.kind.isClaim = true → e.q ≠ q) →
    (spadAt s g).sb.length + spans.length ≤ 96 →
    ∃ t, exec (.sbClaim g c q) s = .next t ∧
      (spadAt t g).sb.map (fun e => { e with slot := 0 }) = (spadAt s g).sb.map (fun e => { e with slot := 0 }) ++
        spans.map (fun p => { p.entry q c (absWb x q d.k) with kind := p.kind.claimed }) ∧
      (∀ i, i ≠ g → spadAt t i = spadAt s i) ∧ Only [.regSpd, .spads] s t) ∧
  (∀ (g c q : Nat) (s : State), s.Ok → g < 160 → refused s g c q = true →
    ∃ t, exec (.descStart g c q) s = .next t ∧ Only [.regSpd] s t ∧
      rd t (spdPage g) .spdSbConflictCyc = (if sbConflict (spadAt s g) (idleSpans s g q c) q c (idleWb s g q c) = true
        then satAdd (2 ^ Fld.spdSbConflictCyc.row.width - 1) (rd s (spdPage g) .spdSbConflictCyc) 1 else rd s (spdPage g) .spdSbConflictCyc) ∧
      rd t (spdPage g) .spdSbFullCyc = (if sbLacks (spadAt s g) (idleSpans s g q c) q c (idleWb s g q c) = true
        then satAdd (2 ^ Fld.spdSbFullCyc.row.width - 1) (rd s (spdPage g) .spdSbFullCyc) 1 else rd s (spdPage g) .spdSbFullCyc)) ∧
  ∀ (g c q k i : Nat) (w : Work) (p : SbSpan) (e : SbEntry) (s : State), s.Ok → s.flights.filter BkFlight.isDone = [] →
    (((ctxAt s (ctxId g c)).q q).live.find? fun w => w.k = k) = some w →
    (descSpans (ctxImage s g c) w.img (ctxAt s (ctxId g c)))[i]? = some p →
    ((spadAt s g).sb.find? fun e => { e with slot := 0 } = p.entry q c (absWb (ctxAt s (ctxId g c)) q k)) = some e →
    (sbEntryDone w i e.kind = true →
      ∃ t, exec (.sbRelease g c q k i) s = .next t ∧ (spadAt t g).sb = (spadAt s g).sb.erase e) ∧
    (sbEntryDone w i e.kind = false → exec (.sbRelease g c q k i) s = .next s)

/-- The scratchpad's own events and the debug window. A dirty buffer of a core whose scratchpad works writes itself back and holds no
dirty word afterwards. The oldest pending POISON mark is written. The scrubber goes on by one line, wrapping after the last and then
counting a pass. A host read of a debug window below debug level OBSERVE sends zeros and logs BAD_ACCESS, a host write below INTERVENE
is logged and changes no scratchpad; at INTERVENE a whole-word write puts the word into the narrow view's buffer of its line, and a read
sends the word back. -/
def Obligations.ScratchpadEvents : Prop :=
  (∀ (g line : Nat) (s : State), s.Ok → g < 160 → spadWorks s g = true →
    ∃ t, exec (.narrowWriteback g line) s = .next t ∧ exec (.narrowWriteback g line) s = .next (bufBack g line s) ∧
      (∀ b, b ∈ (spadAt t g).nbufs → b.line = line → (∃ b', b' ∈ (spadAt s g).nbufs ∧ b'.line = line ∧ b'.dirty ≠ []) → b.dirty = [])) ∧
  (∀ (g w : Nat) (ws : List Nat) (s : State), (spadAt s g).marks = w :: ws →
    exec (.spadPoisonMark g) s = .next (poisonWord g w (putSpad g { spadAt s g with marks := ws } s))) ∧
  (∀ (g : Nat) (s : State), s.Ok → g < 160 → spadWorks s g = true →
    ∃ t, exec (.scratchpadScrub g) s = .next t ∧ (spadAt t g).scrub = ((spadAt s g).scrub + 1) % 12288 ∧
      rdi t 0x2028 .fltScrubPasses (spdPage g) = (if (spadAt s g).scrub + 1 = 12288
        then min (2 ^ Fld.fltScrubPasses.row.width - 1) (rdi s 0x2028 .fltScrubPasses (spdPage g) + 1) else rdi s 0x2028 .fltScrubPasses (spdPage g))) ∧
  (∀ (dpa g off n : Nat) (poison : Bool) (s : State), s.Ok → regionOf s.variant dpa = .window g off → partState s (corePart g) = 0 →
    debugLevel s = 0 →
    ∃ t, exec (.debugWindowAccess dpa n false [] poison) s = .next t ∧
      Sent (.memData (List.replicate n 0) false) s t ∧ Only [.regErr, .regFlt, .regIrq, .outbox] s t) ∧
  (∀ (dpa g off n : Nat) (data : List Byte) (poison : Bool) (s : State), s.Ok → regionOf s.variant dpa = .window g off →
    partState s (corePart g) = 0 → debugLevel s ≠ 2 →
    ∃ t, exec (.debugWindowAccess dpa n true data poison) s = .next t ∧ t.spads = s.spads ∧ t.spad = s.spad ∧
      Only [.regErr, .regFlt, .regIrq, .outbox] s t) ∧
  ∀ (dpa g w : Nat) (data : List Byte) (s : State), s.Ok → regionOf s.variant dpa = .window g (8 * w) → w < spadSize / 8 →
    partState s (corePart g) = 0 → debugLevel s = 2 → spadMode s g = 0 → data.length = 8 → (spadAt s g).nbufs.length < 16 →
    ∃ t u, exec (.debugWindowAccess dpa 8 true data false) s = .next t ∧ exec (.debugWindowAccess dpa 8 false [] false) t = .next u ∧
      t.spad = s.spad ∧ Sent (.memData data false) t u

/-- Decode and encode of every number format agree. In every floating format, every encoding that is no NaN decodes to a value that
encodes back to it with no exception flag, in every rounding mode, with and without SAT (FTZ off). In every integer format, every
encoding decodes to an integer that encodes back to it with no flag. No bit of an encoding is dropped. -/
def Obligations.NumberFormatsRoundTrip : Prop :=
  (∀ (code v : Nat) (f : FloatFmt) (a : Arith), floatFmt code = some f → a.ftz = false → v < 2 ^ fmtBits code →
    (decFloat f false v).1 ≠ .nan → encFloat f a (decFloat f false v).1 = (v, 0)) ∧
  ∀ (code v w : Nat) (signed ftz : Bool) (a : Arith) (cls : NumClass), intFmt code = some (w, signed) → v < 2 ^ w →
    encode code a cls (decode code ftz v).1 = (v, 0)

/-- The five rounding modes. Rounding a magnitude m ÷ 2^sh to an integer: RNE gives a nearest integer, the even one of two; RTZ the
integer part; RDN and RUP the neighbour below and above, by sign; RNA a nearest integer, the one away from zero of two. The result is
inexact exactly when 2^sh does not divide m. -/
def Obligations.RoundingModes : Prop :=
  ∀ (mode m sh q : Nat) (neg : Bool), 0 < sh → q = (roundShift mode neg m sh).1 →
    (roundShift mode neg m sh).2 = decide (m % 2 ^ sh ≠ 0) ∧
    (mode = 0 → 2 * (q * 2 ^ sh) ≤ 2 * m + 2 ^ sh ∧ 2 * m ≤ 2 * (q * 2 ^ sh) + 2 ^ sh ∧
      (2 * (q * 2 ^ sh) = 2 * m + 2 ^ sh ∨ 2 * m = 2 * (q * 2 ^ sh) + 2 ^ sh → q % 2 = 0)) ∧
    (mode = 1 ∨ (mode = 2 ∧ neg = false) ∨ (mode = 3 ∧ neg = true) → q * 2 ^ sh ≤ m ∧ m < (q + 1) * 2 ^ sh) ∧
    ((mode = 2 ∧ neg = true) ∨ (mode = 3 ∧ neg = false) → m ≤ q * 2 ^ sh ∧ q * 2 ^ sh < m + 2 ^ sh) ∧
    (mode = 4 → 2 * (q * 2 ^ sh) ≤ 2 * m + 2 ^ sh ∧ 2 * m < 2 * (q * 2 ^ sh) + 2 ^ sh)

/-- Sorting, top-k and selection of a row. A sorted row is the row's elements with their source indices in another order, in which each
element is before every later one in the chosen direction, or equal to it with a lower source index; NaN is above every other value and
-0 equals +0. TOPK takes the first K of that order, without the NaNs when they are excluded, and has no element where none remains. A
NaN meets no SELECT condition. -/
def Obligations.RankedRows : Prop :=
  (∀ (desc : Bool) (xs : List Machine.Num), (ranked desc xs).Perm xs.zipIdx ∧
    (ranked desc xs).Pairwise fun a b => (if desc then sortLt b.1 a.1 else sortLt a.1 b.1) = true ∨
      (sortLt a.1 b.1 = false ∧ sortLt b.1 a.1 = false ∧ a.2 < b.2)) ∧
  (∀ x : Machine.Num, x.isNan = false → sortLt x .nan = true ∧ sortLt .nan x = false) ∧ sortLt (.fin true 0 0) (.fin false 0 0) = false ∧
  (∀ (k : Nat) (smallest noNan : Bool) (xs : List Machine.Num) (i : Nat), i < k →
    (topkRow k smallest noNan xs)[i]? = some (((ranked (!smallest) xs).filter fun e => !(noNan && e.1.isNan))[i]?)) ∧
  ∀ (cond : Nat) (x : Machine.Num), selCond cond .nan x = false ∧ selCond cond x .nan = false

/-- Matrix and vector descriptors complete. A started MATMUL, or vector descriptor of any of the nine types, whose work has not ended
runs to its end: it is OK, or POISONED exactly when it met a poisoned operand, and carries the exception flags it raised; the engine's
active layer register set is free where the descriptor holds it. Nothing changes but the scratchpad, its integrity state, counters and
error log, the descriptor's context and engine, the counter of free values, and what was sent. -/
def Obligations.EngineDescriptors : Prop :=
  (∀ (g c : Nat) (w : Work) (r : (Nat × Bool) × State) (s : State), currentWork s g c qMx [0x30] = some w →
    r = matmul g (ctxImage s g c) w.img (ctxAt s (ctxId g c)) s →
    ∃ t, exec (.matmul g c) s = .next t ∧ Ended g c qMx w.k (poisonStat r.1.2) t ∧
      (∃ v, v ∈ ((ctxAt t (ctxId g c)).q qMx).live ∧ v.k = w.k ∧ v.exc = r.1.1) ∧ 
      (engineAt t (8 * g + qMx)).busy = (if (engineAt s (8 * g + qMx)).owner = (c, w.k) then false else (engineAt s (8 * g + qMx)).busy) ∧
      (∀ i, i ≠ ctxId g c → ctxAt t i = ctxAt s i) ∧ t.runs = s.runs ∧ Only (endParts ++ [.freeCtr]) s t) ∧
  ∀ (g c type : Nat) (i : Instr) (f : Nat → List Byte → List Byte → Ctx → State → VxOut × State) (w : Work) (r : VxOut × State) (s : State),
    (i, type, f) ∈ [(Instr.vxMap g c, 0x40, vxMap), (Instr.vxReduce g c, 0x41, vxReduce), (Instr.vxSoftmax g c, 0x42, vxSoftmax),
      (Instr.vxNorm g c, 0x43, vxNorm), (Instr.vxSort g c, 0x44, vxSort), (Instr.vxTopk g c, 0x45, vxTopk),
      (Instr.vxSample g c, 0x46, vxSample), (Instr.vxConvert g c, 0x47, vxConvert), (Instr.vxSelect g c, 0x48, vxSelect)] →
    currentWork s g c qVx [type] = some w → r = f g (ctxImage s g c) w.img (ctxAt s (ctxId g c)) s →
    ∃ t, exec i s = .next t ∧ Ended g c qVx w.k (poisonStat r.1.2) t ∧
      (∃ v, v ∈ ((ctxAt t (ctxId g c)).q qVx).live ∧ v.k = w.k ∧ v.exc = r.1.1) ∧ 
      (engineAt t (8 * g + qVx)).busy = (if (engineAt s (8 * g + qVx)).owner = (c, w.k) then false else (engineAt s (8 * g + qVx)).busy) ∧
      (∀ j, j ≠ ctxId g c → ctxAt t j = ctxAt s j) ∧ t.runs = s.runs ∧ Only (endParts ++ [.freeCtr]) s t

/-- Movement descriptors. A started LOAD, STORE, GATHER or SCATTER of local memory whose runs all translate and whose plan meets no
fault ends OK or POISONED and counts no fault; one whose plan stops at a unit, or whose translation faults, ends FAULT, counts in
FAULTS, and its context stops; one that must wait for memory changes nothing but the count of gang waits; one whose lines a host holds
asks for them back; one that memory answers RETRY is marked. RETRY_REISSUE of a marked one counts its requests in RETRIES and runs it. A
transfer whose bind is not of the descriptor's kind ends FAULT. A remote transfer with runs, none of which stops, to a peer that routing
does not reach ends FAULT. What RETRIES counts and which bytes a FAULT leaves free are the model's reading (log entries 34, 88). -/
def Obligations.MovementDescriptors : Prop :=
  (∀ (g c q type : Nat) (i : Instr) (w : Work) (s : State),
    (i, q, type) ∈ [(Instr.load g c, qLd, 0x60), (Instr.store g c, qSt, 0x68), (Instr.gather g c, qGt, 0x70), (Instr.scatter g c, qGt, 0x71)] →
    currentWork s g c q [type] = some w → w.began = false → (localMove s g c w).1.remote = false →
    ((localMove s g c w).1.mem.kind = 0 →
      (memBind ((runAt s (ctxAt s (ctxId g c)).run).getD {}) (localMove s g c w).1.mem).remote = false) →
    (∀ ps, (localMove s g c w).2.2 = .ok ps → (localMove s g c w).2.1.stop = none → localWait s g c w = none →
      ∃ t st, exec i s = .next t ∧ Ended g c q w.k st t ∧ (st = .ok ∨ st = .poisoned) ∧
        rd t (tmvPage g) .tmvFaults = rd s (tmvPage g) .tmvFaults ∧ (∀ j, j / 4 ≠ g → ctxAt t j = ctxAt s j) ∧
        (∀ j, j ≠ ctxId g c → { ctxAt t j with leaves1 := [], leaves2 := [] } = { ctxAt s j with leaves1 := [], leaves2 := [] }) ∧
        t.runs = s.runs) ∧
    (∀ ps f, (localMove s g c w).2.2 = .ok ps → (localMove s g c w).2.1.stop = some f →
      ∃ t, exec i s = .next t ∧ Ended g c q w.k .fault t ∧ (ctxAt t (ctxId g c)).st ≠ .running ∧ (ctxAt t (ctxId g c)).st ≠ .binding ∧
        rd t (tmvPage g) .tmvFaults = satAdd (2 ^ Fld.tmvFaults.row.width - 1) (rd s (tmvPage g) .tmvFaults) 1) ∧
    (∀ code entry dva, (localMove s g c w).2.2 = .error (.fault code entry, dva) →
      ∃ t, exec i s = .next t ∧ Ended g c q w.k .fault t ∧ (ctxAt t (ctxId g c)).st ≠ .running ∧ (ctxAt t (ctxId g c)).st ≠ .binding ∧
        rd t (tmvPage g) .tmvFaults = satAdd (2 ^ Fld.tmvFaults.row.width - 1) (rd s (tmvPage g) .tmvFaults) 1) ∧
    (∀ held, localWait s g c w = some held → exec i s = .next (noteWaits (corePortAt g) (some (g, c, q, w.k)) held s) ∧
      Only [.chans, .regMcs] s (noteWaits (corePortAt g) (some (g, c, q, w.k)) held s)) ∧
    (∀ ls dva, (localMove s g c w).2.2 = .error (.snoop ls, dva) → exec i s = .next (snoopLines ls s)) ∧
    (∀ dva, (localMove s g c w).2.2 = .error (.retry, dva) →
      ∃ t v, exec i s = .next t ∧ v ∈ ((ctxAt t (ctxId g c)).q q).live ∧ v.k = w.k ∧ v.retry = true ∧ v.again = retried s g c w ∧ Only [.ctxs] s t)) ∧
  (∀ (g c q type : Nat) (i : Instr) (w : Work) (s : State),
    (i, q, type) ∈ [(Instr.load g c, qLd, 0x60), (Instr.store g c, qSt, 0x68), (Instr.gather g c, qGt, 0x70), (Instr.scatter g c, qGt, 0x71)] →
    currentWork s g c q [type] = some w → w.began = false → (localMove s g c w).1.mem.kind = 0 →
    (localMove s g c w).1.remote ≠ (memBind ((runAt s (ctxAt s (ctxId g c)).run).getD {}) (localMove s g c w).1.mem).remote →
    ∃ t, exec i s = .next t ∧ Ended g c q w.k .fault t ∧ (ctxAt t (ctxId g c)).st ≠ .running ∧ (ctxAt t (ctxId g c)).st ≠ .binding ∧
      rd t (tmvPage g) .tmvFaults = satAdd (2 ^ Fld.tmvFaults.row.width - 1) (rd s (tmvPage g) .tmvFaults) 1) ∧
  (∀ (g c q : Nat) (w : Work) (ps : List (List (Nat × Nat))) (s u : State),
    (((ctxAt s (ctxId g c)).q q).live.find? fun w => w.works && [0x60, 0x68, 0x70, 0x71].contains (dType w.img)) = some w → w.retry = true →
    u = count (tmvPage g) .tmvRetries w.again s →
    (localMove u g c w).1.remote = false → (localMove u g c w).1.mem.kind ≠ 0 → (localMove u g c w).2.2 = .ok ps →
    (localMove u g c w).2.1.stop = none → localWait u g c w = none →
    ∃ t st, exec (.retryReissue g c q) s = .next t ∧ Ended g c q w.k st t ∧ (st = .ok ∨ st = .poisoned) ∧
      rd t (tmvPage g) .tmvRetries = satAdd (2 ^ Fld.tmvRetries.row.width - 1) (rd s (tmvPage g) .tmvRetries) w.again) ∧
  ∀ (g c : Nat) (w : Work) (x : TmBody) (b : Bind) (s : State), currentWork s g c qLd [0x60] = some w → w.began = false →
    x = (localMove s g c w).1 → x.remote = true → x.mem.kind = 0 → b = memBind ((runAt s (ctxAt s (ctxId g c)).run).getD {}) x.mem →
    b.remote = true → (localMove s g c w).2.1.stop = none → (∃ r, r ∈ (localMove s g c w).2.1.runs ∧ r.len ≠ 0) → route s g c qLd b.peer = none →
    ∃ t, exec (.load g c) s = .next t ∧ Ended g c qLd w.k .fault t ∧ t.ports = s.ports

/-- Bank-command descriptors. A started BK_MVS, BK_DOT, BK_GRED, BK_PQSCAN or BK_ROWOP whose operands translate to shares on its stack
asks for its reservation with its channels, banks and control words; with an operand bound REMOTE, with a stack out of service, or with
an operand that translation or R278 refuses, it ends FAULT and asks for nothing; where its translation waits for memory, only the wait
is counted. A granted reservation queues its sequence on each of its channels. BK_UPLOAD_DONE hands over the register stream.
RECORD_WRITE takes the unit's oldest record from those that arrived, counts its bytes, and a record of whole sectors stands in the
scratchpad, all of which is unchanged elsewhere. -/
def Obligations.BankDescriptors : Prop :=
  (∀ (g c type : Nat) (i : Instr) (w : Work) (x : BkBody) (s : State),
    (i, type) ∈ [(Instr.bkMvs g c, 0x80), (Instr.bkDot g c, 0x81), (Instr.bkGred g c, 0x82), (Instr.bkPqscan g c, 0x83), (Instr.bkRowop g c, 0x90)] →
    (((ctxAt s (ctxId g c)).q qBk).live.find? fun w => w.works && !w.began && dType w.img = type && !s.flights.any (·.isOf g c w.k)) = some w →
    x = bkBody (ctxImage s g c) w.img →
    (remoteOperand ((runAt s (ctxAt s (ctxId g c)).run).getD {}) x = none → partState s (partOfStack x.stack) ≠ 4 →
      (∀ p, (bkPrepare g c type x s).1 = .ok p →
        ∃ t f, exec i s = .next t ∧ flightOf t g c w.k = some f ∧ f.stack = x.stack ∧ f.chans = x.chans ∧ f.banks = x.banks ∧ f.cws = p.1 ∧
          f.granted = false ∧ ∀ j, { ctxAt t j with leaves1 := [], leaves2 := [], regionBase := [] } =
            { ctxAt s j with leaves1 := [], leaves2 := [], regionBase := [] }) ∧
      (∀ held dva o, (bkPrepare g c type x s).1 = .error (.mem (.wait held) dva, o) →
        exec i s = .next (noteWaits (corePortAt g) (some (g, c, qBk, w.k)) held s)) ∧
      (∀ code entry dva o, (bkPrepare g c type x s).1 = .error (.mem (.fault code entry) dva, o) →
        ∃ t, exec i s = .next t ∧ Ended g c qBk w.k .fault t ∧ flightOf t g c w.k = none) ∧
      (∀ code o, (bkPrepare g c type x s).1 = .error (.code code, o) →
        ∃ t, exec i s = .next t ∧ Ended g c qBk w.k .fault t ∧ flightOf t g c w.k = none)) ∧
    ((∃ o, remoteOperand ((runAt s (ctxAt s (ctxId g c)).run).getD {}) x = some o) ∨ partState s (partOfStack x.stack) = 4 →
      ∃ t, exec i s = .next t ∧ Ended g c qBk w.k .fault t ∧ t.flights = s.flights ∧
        rd t (bkcPage g) .bkcFaults = satAdd (2 ^ Fld.bkcFaults.row.width - 1) (rd s (bkcPage g) .bkcFaults) 1)) ∧
  (∀ (g c k : Nat) (f : BkFlight) (w : Work) (s : State), flightOf s g c k = some f →
    (((ctxAt s (ctxId g c)).q qBk).live.find? fun w => w.k = k) = some w → f.granted = false → mayReserve s f = true →
    f.chans.Nodup → (∀ h, h ∈ f.chans → h < 32) →
    ∃ t, exec (.bkReservation g c k) s = .next t ∧ flightOf t g c k = some { f with granted := true } ∧
      (∀ h, h ∈ f.chans → (chanAt t (ckOf f.stack h)).seqs =
        (chanAt s (ckOf f.stack h)).seqs ++ [flightSeq (bkBody (ctxImage s g c) w.img) f w h]) ∧
      (∀ h, h ∈ f.chans → (chanAt s (ckOf f.stack h)).hm = .off → (chanAt s (ckOf f.stack h)).st = .normal →
        (chanAt s (ckOf f.stack h)).recal = false → rd s (mcOf f.stack).page .mcsQosMode = 0 → (chanAt t (ckOf f.stack h)).hm = .entering) ∧
      (∀ k, (∀ h, h ∈ f.chans → k ≠ ckOf f.stack h) → chanAt t k = chanAt s k) ∧
      Only [.chans, .flights, .regMcs, .servedBytes] s t) ∧
  (∀ (g c k n a : Nat) (f : BkFlight) (w : Work) (x : BkBody) (s : State), flightOf s g c k = some f →
    (((ctxAt s (ctxId g c)).q qBk).live.find? fun w => w.k = k) = some w → f.granted = true → f.uploaded = false → f.type ≠ 0x82 →
    x = bkBody (ctxImage s g c) w.img → (x.row = true ∨ fmtCode x.rf ≠ 0x0B) → n = bkRegBytes f.type x →
    a = spAddr (ctxAt s (ctxId g c)) x.reg + x.regOff →
    ∃ t, exec (.bkUploadDone g c k) s = .next t ∧
      flightOf t g c k = some { f with uploaded := true
                                       stream := (readSec g a n (takeSlots .tmv g (spLines a n).length s)).1.map Prod.fst
                                       streamBad := (readSec g a n (takeSlots .tmv g (spLines a n).length s)).1.any Prod.snd } ∧
      rd t (bkcPage g) .bkcUploadBytes = satAdd (2 ^ Fld.bkcUploadBytes.row.width - 1) (rd s (bkcPage g) .bkcUploadBytes) n) ∧
  ∀ (g c k h b : Nat) (f : BkFlight) (r : BkRec) (s : State), flightOf s g c k = some f →
    (f.arrived.find? fun r => r.unit = ckOf f.stack h * 32 + b) = some r → s.flights.filter BkFlight.isDone = [] →
    f.reports.length ≠ f.chans.length * f.banks.length →
    ∃ t, exec (.recordWrite g c k h b) s = .next t ∧ flightOf t g c k = some { f with arrived := f.arrived.erase r } ∧
      rd t (bkcPage g) .bkcRecordBytes = satAdd (2 ^ Fld.bkcRecordBytes.row.width - 1) (rd s (bkcPage g) .bkcRecordBytes) r.data.length ∧
      (r.dst % 32 = 0 → r.data.length % 32 = 0 →
        (∀ i, i < r.data.length → spadByteAt t (g * 2 ^ 25 + r.dst + i) = r.data.getD i 0) ∧
        ∀ a, a < g * 2 ^ 25 + r.dst ∨ g * 2 ^ 25 + r.dst + r.data.length ≤ a → spadByteAt t a = spadByteAt s a) ∧
      t.ctxs = s.ctxs

/-- Harness mode of a channel, and aborts from the BKU page. A channel that is asked for and is off, NORMAL and not recalibrating begins
entry where its port does not hold the HMR write back; entry completes to on, and what waited is served, an unasked channel that serves
begins exit, and exit completes to off, or to entry again when it is asked for. HM_REQ_WRITE stores the mask and begins entry of the
channels it names. AB_GO on a bank with a running host sequence of one bank aborts it: the unit reports ABORTED, AB_ABORTED reads 1,
AB_NTA 0 and AB_GO 0; on a bank with none it reads 0 and 1. -/
def Obligations.HarnessModeAndAborts : Prop :=
  (∀ (d h : Nat) (s : State), h < 32 → wantsHarness s (ckOf d h) = true → (chanAt s (ckOf d h)).hm = .off → (chanAt s (ckOf d h)).st = .normal →
    (chanAt s (ckOf d h)).recal = false → (∀ g, harnessOpen s d g 32 = true) →
    ∃ t, exec (.harnessEntry d h) s = .next t ∧ (chanAt t (ckOf d h)).hm = .entering ∧ (∀ k, k ≠ ckOf d h → chanAt t k = chanAt s k) ∧
      Only [.chans, .regMcs, .servedBytes] s t) ∧
  (∀ (d h : Nat) (s : State), (chanAt s (ckOf d h)).hm = .entering →
    exec (.harnessOn d h) s = .next (serveChan (ckOf d h) (putChan (ckOf d h) { chanAt s (ckOf d h) with hm := .on } s))) ∧
  (∀ (d h : Nat) (s : State), h < 32 → (chanAt s (ckOf d h)).hm = .on → wantsHarness s (ckOf d h) = false → chanServes s (ckOf d h) = true →
    harnessOpen s d none 32 = true →
    ∃ t, exec (.harnessExit d h) s = .next t ∧ (chanAt t (ckOf d h)).hm = .exiting ∧ (∀ k, k ≠ ckOf d h → chanAt t k = chanAt s k) ∧
      Only [.chans, .regMcs, .servedBytes] s t) ∧
  (∀ (d h : Nat) (s : State), h < 32 → (chanAt s (ckOf d h)).hm = .exiting → (chanAt s (ckOf d h)).st = .normal →
    (chanAt s (ckOf d h)).recal = false → (∀ g, harnessOpen s d g 32 = true) →
    ∃ t, exec (.harnessOff d h) s = .next t ∧ (chanAt t (ckOf d h)).hm = (if wantsHarness s (ckOf d h) = true then .entering else .off) ∧
      (∀ k, k ≠ ckOf d h → chanAt t k = chanAt s k) ∧ Only [.chans, .regMcs, .servedBytes] s t) ∧
  (∀ (d mask : Nat) (s : State), s.Ok → d < 12 → mask < 2 ^ 32 → unitReachable s (buOf d) = true →
    ∃ t, exec (.hmReqWrite d mask) s = .next t ∧ rd t (buOf d).page .bkuHmReq = mask ∧
      (∀ h, h < 32 → bit mask h = 1 → (chanAt s (ckOf d h)).hm = .off → (chanAt s (ckOf d h)).st = .normal →
        (chanAt s (ckOf d h)).recal = false → rd s (mcOf d).page .mcsQosMode = 0 → (chanAt t (ckOf d h)).hm = .entering) ∧
      (∀ h, h < 32 → bit mask h = 0 → chanAt t (ckOf d h) = chanAt s (ckOf d h)) ∧
      (∀ p f i, f.part ≠ .regMcs → (homePage p f, f, i % 16384) ≠ ((buOf d).page, .bkuHmReq, 0) → rdi t p f i = rdi s p f i) ∧
      Only [.regBku, .chans, .regMcs, .servedBytes] s t) ∧
  (∀ (d h b p : Nat) (q : Seq) (s : State), s.Ok → d < 12 → h < 32 → b < 32 → p = (buOf d).page → unitReachable s (buOf d) = true →
    rd s p .bkuAbAllCh = 0 → rd s p .bkuAbAllBank = 0 → rd s p .bkuAbTagEn = 0 → rd s p .bkuAbChan = h → rd s p .bkuAbBank = b →
    (chanAt s (ckOf d h)).seqs = [q] → q.host = true → q.banks = [b] → q.ended = [] → q.st = .running ∨ q.st = .wait ∨ q.st = .gap →
    (unitState s (ckOf d h * 32 + b)).marks = [] → rdi s 0x2018 .epoLdgEn p = 0 → s.flights.filter BkFlight.isDone = [] →
    ∃ t, exec (.abGo d) s = .next t ∧ rd t p .bkuAbGo = 0 ∧ rd t p .bkuAbAborted = 1 ∧ rd t p .bkuAbNta = 0 ∧
      (chanAt t (ckOf d h)).seqs = [{ q with ended := [b], st := .draining }] ∧ (unitState t (ckOf d h * 32 + b)).last = 2 ∧
      rd t p .bkuSeqAborted = satAdd (2 ^ Fld.bkuSeqAborted.row.width - 1) (rd s p .bkuSeqAborted) 1 ∧ bit (rd t p .hdrIrqStat) 16 = 1) ∧
  ∀ (d h b p : Nat) (s : State), s.Ok → d < 12 → h < 32 → b < 32 → p = (buOf d).page → unitReachable s (buOf d) = true →
    rd s p .bkuAbAllCh = 0 → rd s p .bkuAbAllBank = 0 → rd s p .bkuAbTagEn = 0 → rd s p .bkuAbChan = h → rd s p .bkuAbBank = b →
    (∀ q, q ∈ (chanAt s (ckOf d h)).seqs → b ∉ q.banks) → s.flights.filter BkFlight.isDone = [] →
    ∃ t, exec (.abGo d) s = .next t ∧ rd t p .bkuAbGo = 0 ∧ rd t p .bkuAbAborted = 0 ∧ rd t p .bkuAbNta = 1 ∧
      RegsBut [(p, .bkuAbGo, 0), (p, .bkuAbAborted, 0), (p, .bkuAbNta, 0)] s t ∧ Only [.regBku] s t

/-- The host's bank commands. In a channel in harness mode, to an idle unit: a whole write of V0 to V7, of the control word or of the
codebook latch stores it and changes nothing else of the unit and no other unit, and its 32 bytes are charged to the host's port; a pop
reads the first four FIFO entries, all ones where there is none, and removes them, so that candidates that wait enter; a command write
whose control word keeps the limits of its operation starts a sequence of the unit with its opcode, flags, tag and control word, and
CLEAR zeroes accumulators, count and FIFO; one that does not sets BAD_CMD, starts nothing and is logged. A write to a busy unit is
discarded, counted in HOST_DISCARD and logged. A broadcast write reaches every unit of the gang mask. -/
def Obligations.HostBankCommands : Prop :=
  (∀ (dpa d c b sc : Nat) (data : List Byte) (s : State), harnessTakes s dpa d c b sc true → sc < 8 → unitBusy s (ckOf d c * 32 + b) = false →
    data.length = 32 →
    ∃ t, exec (.vRegisterWrite dpa data) s = .next t ∧ (unitState t (ckOf d c * 32 + b)).v.getD sc 0 = leNat data ∧
      (∀ i, i ≠ sc → (unitState t (ckOf d c * 32 + b)).v.getD i 0 = (unitState s (ckOf d c * 32 + b)).v.getD i 0) ∧
      { unitState t (ckOf d c * 32 + b) with v := (unitState s (ckOf d c * 32 + b)).v } = unitState s (ckOf d c * 32 + b) ∧
      (∀ k, k ≠ ckOf d c * 32 + b → unitState t k = unitState s k) ∧ Only [.units, .chans, .regMcs, .servedBytes] s t) ∧
  (∀ (dpa d c b : Nat) (data : List Byte) (s : State), harnessTakes s dpa d c b 8 true → unitBusy s (ckOf d c * 32 + b) = false →
    data.length = 32 → exec (.cwWrite dpa data) s =
      .next (putUnit (ckOf d c * 32 + b) { unitState s (ckOf d c * 32 + b) with cw := leNat data }
        (noteHarness 0x0A (ckOf d c * 32 + b) 8 (harnessCharge d none 32 s)))) ∧
  (∀ (dpa d c b : Nat) (data : List Byte) (s : State), harnessTakes s dpa d c b 10 true → unitBusy s (ckOf d c * 32 + b) = false →
    data.length = 32 →
    ∃ t, exec (.cblWrite dpa data) s = .next t ∧ bits (unitState t (ckOf d c * 32 + b)).latch.book 63 0 = leNat (data.take 8) ∧
      (unitState t (ckOf d c * 32 + b)).latch.scale = (unitState s (ckOf d c * 32 + b)).latch.scale ∧
      { unitState t (ckOf d c * 32 + b) with latch := (unitState s (ckOf d c * 32 + b)).latch } = unitState s (ckOf d c * 32 + b) ∧
      (∀ k, k ≠ ckOf d c * 32 + b → unitState t k = unitState s k) ∧ Only [.units, .chans, .regMcs, .servedBytes] s t) ∧
  (∀ (dpa d c b : Nat) (u : BankUnit) (s : State), harnessTakes s dpa d c b 17 false → u = unitState s (ckOf d c * 32 + b) →
    dpa % 32 = 0 →
    ∃ t, exec (.fifoPop dpa) s = .next t ∧ unitState t (ckOf d c * 32 + b) = u.pop 4 ∧
      (u.pend = [] → u.fifo.length ≤ 32 → unitState t (ckOf d c * 32 + b) = { u with fifo := u.fifo.drop 4 }) ∧
      t.outbox = s.outbox ++ [.memData ((List.range 4).flatMap fun i => leBytes 8 (u.fifo.getD i (2 ^ 64 - 1))) false] ∧
      (∀ k, k ≠ ckOf d c * 32 + b → unitState t k = unitState s k) ∧ Only [.units, .outbox, .chans, .regMcs, .servedBytes] s t) ∧
  (∀ (dpa flags tag d c b op : Nat) (i : Instr) (u : BankUnit) (s : State), harnessTakes s dpa d c b 9 true →
    unitBusy s (ckOf d c * 32 + b) = false → u = unitState s (ckOf d c * 32 + b) → flags < 256 → tag < 2 ^ 16 → b < 32 →
    (i, op) ∈ [(Instr.clear dpa flags tag, 0x01), (Instr.mvs dpa flags tag, 0x02), (Instr.dot dpa flags tag, 0x03), (Instr.gred dpa flags tag, 0x04),
      (Instr.pqscan dpa flags tag, 0x05), (Instr.copyOut dpa flags tag, 0x06), (Instr.rowlist dpa flags tag, 0x10), (Instr.vet dpa flags tag, 0x11),
      (Instr.burnish dpa flags tag, 0x12)] →
    (cmdOk s d op flags u.cw = true →
      ∃ t q, exec i s = .next t ∧ (chanAt t (ckOf d c)).seqs = (chanAt s (ckOf d c)).seqs ++ [q] ∧ q.host = true ∧ q.banks = [b] ∧ q.op = op ∧
        q.flags = flags ∧ q.tag = tag ∧ q.cw = u.cw ∧ q.st = .running ∧ (unitState t (ckOf d c * 32 + b)).badCmd = false ∧
        (unitState t (ckOf d c * 32 + b)).v = u.v ∧
        (op = 0x01 → (unitState t (ckOf d c * 32 + b)).a0 = zeros16 ∧ (unitState t (ckOf d c * 32 + b)).a1 = zeros16 ∧
          (unitState t (ckOf d c * 32 + b)).count = 0 ∧ (unitState t (ckOf d c * 32 + b)).fifo = [])) ∧
    (cmdOk s d op flags u.cw = false →
      ∃ t, exec i s = .next t ∧ (unitState t (ckOf d c * 32 + b)) = { u with badCmd := true } ∧
        (∀ k, (chanAt t k).seqs = (chanAt s k).seqs) ∧
        (rd s (buOf d).page .hdrErrValid = 0 → rd t (buOf d).page .hdrErrCode = 3))) ∧
  (∀ (dpa d c b sc : Nat) (data : List Byte) (s : State), harnessTakes s dpa d c b sc true → sc < 8 → unitBusy s (ckOf d c * 32 + b) = true →
    data.length = 32 →
    ∃ t, exec (.vRegisterWrite dpa data) s = .next t ∧ t.units = s.units ∧ bit (rd t (buOf d).page .hdrIrqStat) 17 = 1 ∧
      rd t (buOf d).page .bkuHostDiscard = satAdd (2 ^ Fld.bkuHostDiscard.row.width - 1) (rd s (buOf d).page .bkuHostDiscard) 1) ∧
  ∀ (dpa d c b sc off : Nat) (data : List Byte) (s : State), regionOf s.variant dpa = .harness d c off →
    harnessAddr d c off true = ⟨ckOf d c, true, b, sc, true⟩ → off % 32 = 0 → (chanAt s (ckOf d c)).hm = .on →
    harnessHeld s (ckOf d c) = false → partState s (partOfStack d) ≠ 4 → hmReq s (ckOf d c) = false → sc < 8 → data.length = 32 →
    (∀ n, n < 32 → unitBusy s (ckOf d c * 32 + n) = false) →
    ∃ t, exec (.vRegisterWrite dpa data) s = .next t ∧
      ∀ n, n < 32 → (bit (chanAt s (ckOf d c)).gang n = 1 → (unitState t (ckOf d c * 32 + n)).v.getD sc 0 = leNat data) ∧
        (bit (chanAt s (ckOf d c)).gang n = 0 → unitState t (ckOf d c * 32 + n) = unitState s (ckOf d c * 32 + n))

/-- A bank sequence from its command to its report. GANG_COMMAND of an uploaded descriptor whose sequence is the channel's only one
starts it: the gang mask names its banks, each unit holds the control word and has no refused command and no steps. A ROWLIST piece does
as many parts of its item as asked for; after the last it moves to the next item, or to the second phase of the same one. LEG_END brings
the gang to the gap, after which, BU_GAP having passed and nothing being left to serve or issue, it runs or waits again; a wait that is
over runs again. SEQ_LAST_STEP, when all items are done, makes every unit report COMPLETED with the sequence's operation and tag, and
the gang drains; SEQ_DRAINED of a unit with nothing left in its slot makes it IDLE, and the sequence goes with its last unit.
COLLECTOR_SEND moves the unit's oldest record to the descriptor's engine. That a ROWLIST piece is done in parts is the model's choice
(log entry 89). -/
def Obligations.BankSequences : Prop :=
  (∀ (g c k h : Nat) (f : BkFlight) (w : Work) (q : Seq) (s : State), flightOf s g c k = some f →
    (((ctxAt s (ctxId g c)).q qBk).live.find? fun w => w.k = k) = some w → f.uploaded = true → (chanAt s (ckOf f.stack h)).seqs = [q] →
    q.st = .queued → q.host = false → q.core = g → q.ctx = c → q.k = k → (chanAt s (ckOf f.stack h)).hm = .on →
    chanServes s (ckOf f.stack h) = true → cmdOk s f.stack q.op q.flags q.cw = true → 0x02 ≤ q.op → q.op ≤ 0x05 → q.banks.Nodup →
    s.flights.filter BkFlight.isDone = [] → (∀ n, harnessOpen s f.stack (some g) n = true) →
    ∃ t, exec (.gangCommand g c k h) s = .next t ∧
      (chanAt t (ckOf f.stack h)).seqs = [{ q with stream := f.stream, streamBad := f.streamBad, st := .running }] ∧
      (chanAt t (ckOf f.stack h)).gang = (q.banks.map (2 ^ ·)).sum ∧
      (∀ b, b ∈ q.banks → (unitState t (ckOf f.stack h * 32 + b)).cw = q.cw ∧ (unitState t (ckOf f.stack h * 32 + b)).badCmd = false ∧
        (unitState t (ckOf f.stack h * 32 + b)).steps = 0) ∧
      (∀ u, (∀ b, b ∈ q.banks → u ≠ ckOf f.stack h * 32 + b) → unitState t u = unitState s u)) ∧
  (∀ (d h b parts ck : Nat) (q : Seq) (s : State), ck = ckOf d h → (chanAt s ck).seqs = [q] → seqOf s ck b [.running] = some q → q.op = 0x10 →
    q.pos < seqItems q → seqStalled s ck q = false → parts ≠ 0 →
    ∃ t n, exec (.rowlistPiece d h b parts) s = .next t ∧ (chanAt t ck).seqs = [n] ∧
      (q.phase = true → n = { q with phase := false, pos := q.pos + 1 }) ∧
      (q.phase = false → q.parts ≤ q.part + parts → n = { q with phase := true, part := 0 } ∨ n = { q with part := 0, pos := q.pos + 1 }) ∧
      (q.phase = false → q.part + parts < q.parts → n = { q with part := q.part + parts })) ∧
  (∀ (d h b items steps ck : Nat) (q : Seq) (s : State), ck = ckOf d h → h < 32 → (chanAt s ck).seqs = [q] →
    seqOf s ck b [.running, .wait] = some q → q.part = 0 → chanIdle (chanAt s ck) = true →
    ∃ t n, exec (.legEnd d h b items steps) s = .next t ∧ (chanAt t ck).seqs = [n] ∧ n.st = .gap ∧ q.pos ≤ n.pos ∧ n.pos ≤ q.pos + items ∧
      n.banks = q.banks ∧ n.cw = q.cw) ∧
  (∀ (d h b gapNs ck : Nat) (q : Seq) (s : State), ck = ckOf d h → (chanAt s ck).seqs = [q] → seqOf s ck b [.gap] = some q →
    100 * rd s 0x2040 .pwrBuGap ≤ gapNs → chanServes s ck = true → gapBusy s ck q = false →
    ∃ t, exec (.gangResume d h b gapNs) s = .next t ∧
      rd t (buOf d).page .bkuGapNs = satAdd (2 ^ Fld.bkuGapNs.row.width - 1) (rd s (buOf d).page .bkuGapNs) gapNs ∧
      (∃ n, (chanAt t ck).seqs = [{ q with st := n }] ∧ (n = .running ∨ n = .wait)) ∧ RegsBut [((buOf d).page, .bkuGapNs, 0)] s t ∧
      Only [.regBku, .chans] s t) ∧
  (∀ (d h b steps ck : Nat) (q : Seq) (s : State), ck = ckOf d h → (chanAt s ck).seqs = [q] → seqOf s ck b [.wait] = some q →
    seqStalled s ck q = false →
    ∃ t, exec (.gangWaitEnd d h b steps) s = .next t ∧ (chanAt t ck).seqs = [{ q with st := .running }] ∧
      rd t (buOf d).page .bkuWaitSteps = satAdd (2 ^ Fld.bkuWaitSteps.row.width - 1) (rd s (buOf d).page .bkuWaitSteps) steps ∧
      RegsBut [((buOf d).page, .bkuWaitSteps, 0)] s t ∧ Only [.regBku, .chans] s t) ∧
  (∀ (d h b steps ck : Nat) (q : Seq) (s : State), ck = ckOf d h → h < 32 → (chanAt s ck).seqs = [q] → seqOf s ck b [.running] = some q →
    seqItems q ≤ q.pos → q.phase = false → q.part = 0 → q.banks.Nodup → chanIdle (chanAt s ck) = true →
    (∀ n, n ∈ q.openBanks → (unitState s (ck * 32 + n)).pend = []) →
    ∃ t, exec (.seqLastStep d h b steps) s = .next t ∧ (chanAt t ck).seqs = [{ q with st := .draining, ended := q.banks }] ∧
      ∀ n, n ∈ q.openBanks → (unitState t (ck * 32 + n)).last = 1 ∧ (unitState t (ck * 32 + n)).lastOp = q.op ∧
        (unitState t (ck * 32 + n)).tag = q.tag ∧ (unitState t (ck * 32 + n)).scount = (unitState s (ck * 32 + n)).count) ∧
  (∀ (d h b ck : Nat) (q : Seq) (s : State), ck = ckOf d h → (chanAt s ck).seqs = [q] → b ∈ q.ended → b ∉ q.gone →
    (unitState s (ck * 32 + b)).out = [] → (q.host = true ∨ (unitState s (ck * 32 + b)).fifo = []) →
    ∃ t, exec (.seqDrained d h b) s = .next t ∧
      (chanAt t ck).seqs = (if q.banks.all (q.gone ++ [b]).contains then [] else [{ q with gone := q.gone ++ [b] }])) ∧
  ∀ (d h b ck bk a off n : Nat) (q : Seq) (f : BkFlight) (r : List Byte × Bool) (rs : List (List Byte × Bool)) (s : State), ck = ckOf d h →
    bk = ck * 32 + b → (chanAt s ck).seqs = [q] → q.st ≠ .queued → q.host = false → b ∈ q.banks → b ∉ q.gone → creditsUsed s q.core d < 64 →
    (unitState s bk).out = r :: rs → flightOf s q.core q.ctx q.k = some f → f.outBase = some a → off = SMap.get (fun _ => 0) f.cur bk →
    n = min r.1.length (f.region - off) → n ≠ 0 →
    harnessOpen s d (some q.core) (max r.1.length 32) = true →
    ∃ t, exec (.collectorSend d h b) s = .next t ∧ (unitState t bk).out = rs ∧
      (flightOf t q.core q.ctx q.k).map BkFlight.arrived = some (f.arrived ++ [⟨bk, a + f.rank bk * f.region + off, r.1.take n, r.2⟩]) ∧
      Only [.units, .flights, .chans, .regMcs, .servedBytes] s t

/-- Placement of a DRAM address, its inverse, and the maps that select it. Every byte of an interleaved block lies in the channel, bank,
row and column that R286 gives; and of every address of the DRAM space, whatever the kind of its block, the first address of its column
is the address without its low five bits: no two columns share one. A write of LIN_MAP or BMP_MAP that changes the map, with no sequence
on the stack and no bitmap block outside a linear one, stores it with PLACE_RESULT 0; while a sequence is queued or running PLACE_RESULT
is 1, a bitmap bit without its linear bit gives 2, and the map stays. A write of both words is two writes, the low word first (R308).
Formalises: "In an interleaved block, the fields of o decode as follows: - channel = o[12:8] XOR o[24:20]; - bank = o[17:13] XOR
o[29:25]; - row = 1,024p + o[29:20]; - column = 8 × o[19:18] + o[7:5]; - byte = o[4:0]." -/
def Obligations.Placement : Prop :=
  (∀ (a o : Nat) (s : State), a < dramTop s.variant → o = a % 2 ^ stackBits s.variant →
    isLinear s (a / 2 ^ stackBits s.variant) (o / 2 ^ 30) = false →
    stackOfCol (locate s a) = a / 2 ^ stackBits s.variant ∧ chanOfCol (locate s a) = bits o 12 8 ^^^ bits o 24 20 ∧
    bankOfCol (locate s a) = bits o 17 13 ^^^ bits o 29 25 ∧ rowOfCol (locate s a) = 1024 * (o / 2 ^ 30) + bits o 29 20 ∧
    colOfCol (locate s a) = 8 * bits o 19 18 + bits o 7 5) ∧
  (∀ (a : Nat) (s : State), a < dramTop s.variant → dpaOfCol s (locate s a) = a / 32 * 32) ∧
  (∀ (d half value v p : Nat) (s : State), s.Ok → d < 12 → unitReachable s (mcOf d) = true → p = (mcOf d).page → rd s p .hdrLocked = 0 →
    half < 2 → v = halfOver (rd s p .mcsLinMap) half value % 2 ^ 2 ^ (stackBits s.variant - 30) →
    (v ≠ rd s p .mcsLinMap → (∀ c, c < 32 → seqActive (chanAt s (ckOf d c)) = false) →
      (∀ b, b < 64 → bit (rd s p .mcsBmpMap) b = 1 → bit v b = 1) → (∀ b, loaderBlock s d = some b → bit (rd s p .mcsBmpMap) b = 0) →
      ∃ t, exec (.linMapWrite d half value) s = .next t ∧ rd t p .mcsLinMap = v ∧ rd t p .mcsPlaceResult = 0 ∧
        RegsBut [(p, .mcsLinMap, 0), (p, .mcsPlaceResult, 0)] s t ∧ Only [.regMcs] s t) ∧
    (v ≠ rd s p .mcsLinMap → (∃ c, c < 32 ∧ seqActive (chanAt s (ckOf d c)) = true) →
      ∃ t, exec (.linMapWrite d half value) s = .next t ∧ rd t p .mcsPlaceResult = 1 ∧ RegsBut [(p, .mcsPlaceResult, 0)] s t) ∧
    (v = rd s p .mcsLinMap → exec (.linMapWrite d half value) s = .next (wr p .mcsPlaceResult 0 s))) ∧
  (∀ (d value : Nat) (s : State), (∃ t u, exec (.linMapWrite d 0 (value % 2 ^ 32)) s = .next t ∧ exec (.linMapWrite d 1 (value / 2 ^ 32)) t = .next u ∧
      exec (.linMapWrite d 2 value) s = .next u) ∧
    ∃ t u, exec (.bmpMapWrite d 0 (value % 2 ^ 32)) s = .next t ∧ exec (.bmpMapWrite d 1 (value / 2 ^ 32)) t = .next u ∧
      exec (.bmpMapWrite d 2 value) s = .next u) ∧
  ∀ (d half value v p : Nat) (s : State), s.Ok → d < 12 → unitReachable s (mcOf d) = true → p = (mcOf d).page → rd s p .hdrLocked = 0 →
    half < 2 → v = halfOver (rd s p .mcsBmpMap) half value % 2 ^ 2 ^ (stackBits s.variant - 30) → v ≠ rd s p .mcsBmpMap →
    (∀ c, c < 32 → seqActive (chanAt s (ckOf d c)) = false) →
    ((∀ b, b < 64 → bit v b = 1 → bit (rd s p .mcsLinMap) b = 1) → (∀ b, loaderBlock s d = some b → bit v b = 0) →
      ∃ t, exec (.bmpMapWrite d half value) s = .next t ∧ rd t p .mcsBmpMap = v ∧ rd t p .mcsPlaceResult = 0 ∧
        RegsBut [(p, .mcsBmpMap, 0), (p, .mcsPlaceResult, 0)] s t ∧ Only [.regMcs] s t) ∧
    ((∃ b, b < 64 ∧ bit v b = 1 ∧ bit (rd s p .mcsLinMap) b = 0) →
      ∃ t, exec (.bmpMapWrite d half value) s = .next t ∧ rd t p .mcsPlaceResult = 2 ∧ RegsBut [(p, .mcsPlaceResult, 0)] s t)

/-- A memory write is read back, and touches nothing else of memory. In a column whose channel serves it, holds no queued request and no
check segment but the valid one, for a request that its partition takes: a write of bytes stores them, leaves every other byte of DRAM
and every check segment, and leaves the column so; a poisoned write marks the column POISON; a read delivers exactly the stored bytes,
unmarked, and changes no byte. A write to a channel that does not serve and has not failed waits in the write queue, a read waits in the
read queue while it has room, and memory is as before. PARTIAL_MERGE and WRITE_DRAIN put a queued partial write over the column's bytes;
from 24 servable whole entries on, WRITE_DRAIN leaves 8 at most, and 8 where none is the second column of a pair. -/
def Obligations.MemoryRequests : Prop :=
  (∀ (dpa port c : Nat) (data : List Byte) (s : State), memQuiet s c → c = locate s dpa → data ≠ [] → dpa % 32 + data.length ≤ 32 →
    inDram s.variant dpa data.length = true → requestTaken s dpa port = true →
    ∃ t, exec (.memWriteRequest dpa data port false) s = .next t ∧ memQuiet t c ∧
      (∀ i, i < data.length → dramByteAt t (c * 32 + dpa % 32 + i) = data.getD i 0) ∧
      (∀ a, (a < c * 32 + dpa % 32 ∨ c * 32 + dpa % 32 + data.length ≤ a) → dramByteAt t a = dramByteAt s a) ∧
      (∀ e, colChk t e = colChk s e) ∧ (∀ a, locate t a = locate s a)) ∧
  (∀ (dpa port c : Nat) (data : List Byte) (s : State), memQuiet s c → c = locate s dpa → data ≠ [] → dpa % 32 + data.length ≤ 32 →
    inDram s.variant dpa data.length = true → requestTaken s dpa port = true →
    ∃ t, exec (.memWriteRequest dpa data port true) s = .next t ∧ colChk t c = some (segOf (colBytes t c) segPoison) ∧
      (∀ i, i < data.length → dramByteAt t (c * 32 + dpa % 32 + i) = data.getD i 0) ∧ (∀ e, e ≠ c → colChk t e = colChk s e) ∧
      ∀ a, (a < c * 32 + dpa % 32 ∨ c * 32 + dpa % 32 + data.length ≤ a) → dramByteAt t a = dramByteAt s a) ∧
  (∀ (dpa port c len : Nat) (s : State), memQuiet s c → c = locate s dpa → 0 < len → dpa % 32 + len ≤ 32 →
    inDram s.variant dpa len = true → requestTaken s dpa port = true →
    ∃ t, exec (.memReadRequest dpa len port) s = .next t ∧
      t.outbox = s.outbox ++ [.memData ((List.range len).map fun i => dramByteAt s (c * 32 + dpa % 32 + i)) false] ∧ memQuiet t c ∧
      t.dram = s.dram ∧ t.dramChk = s.dramChk) ∧
  (∀ (dpa port c : Nat) (data : List Byte) (poison : Bool) (s : State), c = locate s dpa → data ≠ [] → dpa % 32 + data.length ≤ 32 →
    inDram s.variant dpa data.length = true → requestTaken s dpa port = true → chanServes s (chanKey c) = false → isSideCol s c = false → (chanAt s (chanKey c)).wrq = [] →
    (chanAt s (chanKey c)).late = [] → (chanAt s (chanKey c)).st ≠ .failed →
    ∃ t w, exec (.memWriteRequest dpa data port poison) s = .next t ∧ (chanAt t (chanKey c)).wrq = [w] ∧ w.col = c ∧ w.poison = poison ∧
      t.dram = s.dram ∧ t.dramChk = s.dramChk ∧ t.outbox = s.outbox) ∧
  (∀ (dpa len port c : Nat) (s : State), c = locate s dpa → 0 < len → dpa % 32 + len ≤ 32 → inDram s.variant dpa len = true → requestTaken s dpa port = true →
    chanServes s (chanKey c) = false → (chanAt s (chanKey c)).late = [] → (chanAt s (chanKey c)).rdq.length < 64 →
    ∃ t r, exec (.memReadRequest dpa len port) s = .next t ∧ (chanAt t (chanKey c)).rdq = (chanAt s (chanKey c)).rdq ++ [r] ∧
      r.port = port ∧ r.len = len ∧ t.dram = s.dram ∧ t.outbox = s.outbox) ∧
  (∀ (d h : Nat) (w : WrReq) (i : Instr) (s : State), (i = Instr.partialMerge d h ∨ i = Instr.writeDrain d h) → (chanAt s (ckOf d h)).wrq = [w] →
    w.full = false → w.scrub = false → w.poison = false → chanKey w.col = ckOf d h → colServes s w.col = true → colChk s w.col = none →
    portOpen s w.qos (ckOf d h / 32) w.port 32 = true → (chanAt s (ckOf d h)).rdq = [] → (chanAt s (ckOf d h)).late = [] →
    ∃ t, exec i s = .next t ∧ (chanAt t (ckOf d h)).wrq = [] ∧
      (∀ b, b < 32 → dramByteAt t (w.col * 32 + b) = SMap.get (fun _ => dramByteAt s (w.col * 32 + b)) w.data b) ∧
      (∀ a, a / 32 ≠ w.col → dramByteAt t a = dramByteAt s a) ∧ ∀ e, colChk t e = colChk s e) ∧
  ∀ (d h : Nat) (s : State), 24 ≤ wrEntries (chanAt s (ckOf d h)).wrq →
    (∀ w, w ∈ (chanAt s (ckOf d h)).wrq → w.full = true ∧ chanKey w.col = ckOf d h ∧ colServes s w.col = true ∧ (w.scrub = true ∨ w.qos.hard = false)) →
    (chanAt s (ckOf d h)).rdq = [] → (chanAt s (ckOf d h)).late = [] →
    ∃ t, exec (.writeDrain d h) s = .next t ∧ wrEntries (chanAt t (ckOf d h)).wrq ≤ 8 ∧
      ((∀ w, w ∈ (chanAt s (ckOf d h)).wrq → w.mate = false) → (chanAt t (ckOf d h)).wrq.length = 8)

/-- Refresh, recalibration, tollgates and urgency. A refresh interval adds one owed refresh up to 8 and lets freezes leave the 1 s
window, and at 8, outside a leg, forces one refresh; REFab of a channel whose gang stands at a leg boundary, and the 32nd REFpb of a
set, take one off and count; another REFpb joins its set. A due recalibration starts when the channel is NORMAL, not within a leg, and
no other of its stack runs or is due below it; within a leg it waits, and when forced it is marked so; its end clears all three marks
and counts. A refill raises every port's tokens by RATE × 16 up to BURST. A queued request that ages under the Compact arrangement takes
the urgency of its age against its port's LAT_TARGET (R344) and never a lower one, and reaching level 3 counts LAT_MISS and raises it;
under the Full arrangement only its age changes. The age of a request is an operand (log entry 82). -/
def Obligations.RefreshAndQueues : Prop :=
  (∀ (d h n p : Nat) (rc : Int) (s : State), d < 12 → h < 32 → p = (mcOf d).page → refreshOn s (ckOf d h) = true →
    rc = (if (chanAt s (ckOf d h)).rc < 8 then (chanAt s (ckOf d h)).rc + 1 else (chanAt s (ckOf d h)).rc) →
    ∃ t, exec (.refreshInterval d h n) s = .next t ∧ (chanAt t (ckOf d h)).freezes1s = (chanAt s (ckOf d h)).freezes1s - n ∧
      (∀ k, k ≠ ckOf d h → chanAt t k = chanAt s k) ∧
      (rc < 8 ∨ canRefresh s (ckOf d h) = false → (chanAt t (ckOf d h)).rc = rc ∧ Only [.chans] s t) ∧
      (8 ≤ rc → canRefresh s (ckOf d h) = true → (chanAt t (ckOf d h)).rc = rc - 1 ∧
        rdi t p .mcsRefreshes h = satAdd (2 ^ Fld.mcsRefreshes.row.width - 1) (rdi s p .mcsRefreshes h) 1 ∧
        (rc = 8 → rd t p .mcsRefForced = satAdd (2 ^ Fld.mcsRefForced.row.width - 1) (rd s p .mcsRefForced) 1) ∧
        Only [.regMcs, .chans] s t)) ∧
  (∀ (d h p : Nat) (s : State), d < 12 → h < 32 → p = (mcOf d).page → mayRefresh s (ckOf d h) = true → gangRuns (chanAt s (ckOf d h)) = true →
    ∃ t, exec (.refresh d h none) s = .next t ∧ (chanAt t (ckOf d h)).rc = (chanAt s (ckOf d h)).rc - 1 ∧
      rdi t p .mcsRefreshes h = satAdd (2 ^ Fld.mcsRefreshes.row.width - 1) (rdi s p .mcsRefreshes h) 1 ∧
      ((chanAt s (ckOf d h)).rc = 8 → rd t p .mcsRefForced = satAdd (2 ^ Fld.mcsRefForced.row.width - 1) (rd s p .mcsRefForced) 1) ∧
      (∀ k, k ≠ ckOf d h → chanAt t k = chanAt s k) ∧ RegsBut [(p, .mcsRefreshes, h), (p, .mcsRefForced, 0)] s t) ∧
  (∀ (d h b p : Nat) (s : State), d < 12 → h < 32 → b < 32 → p = (mcOf d).page → mayRefresh s (ckOf d h) = true →
    gangRuns (chanAt s (ckOf d h)) = false → b ∉ (chanAt s (ckOf d h)).refpb →
    ∃ t, exec (.refresh d h (some b)) s = .next t ∧
      ((chanAt s (ckOf d h)).refpb.length ≠ 31 → (chanAt t (ckOf d h)).refpb = (chanAt s (ckOf d h)).refpb ++ [b] ∧
        (chanAt t (ckOf d h)).rc = (chanAt s (ckOf d h)).rc ∧ Only [.chans] s t) ∧
      ((chanAt s (ckOf d h)).refpb.length = 31 → (chanAt t (ckOf d h)).refpb = [] ∧ (chanAt t (ckOf d h)).rc = (chanAt s (ckOf d h)).rc - 1 ∧
        rdi t p .mcsRefreshes h = satAdd (2 ^ Fld.mcsRefreshes.row.width - 1) (rdi s p .mcsRefreshes h) 1)) ∧
  (∀ (d h : Nat) (i : Instr) (s : State), h < 32 → (chanAt s (ckOf d h)).recal = false →
    (i = Instr.recalDue d h ∨ (i = Instr.recalForced d h ∧ (chanAt s (ckOf d h)).recalDue = true)) →
    (∀ k, k < 32 → k ≠ h → (chanAt s (ckOf d k)).recal = false ∧ (chanAt s (ckOf d k)).recalDue = false) →
    ∃ t, exec i s = .next t ∧ (chanAt t (ckOf d h)).recalDue = true ∧
      ((chanAt s (ckOf d h)).st = .normal → gangInLeg (chanAt s (ckOf d h)) = false → (chanAt t (ckOf d h)).recal = true) ∧
      (gangInLeg (chanAt s (ckOf d h)) = true → (chanAt t (ckOf d h)).recal = false) ∧
      (i = Instr.recalForced d h → (chanAt t (ckOf d h)).recalForced = true) ∧ (∀ k, k ≠ ckOf d h → chanAt t k = chanAt s k) ∧
      Only [.regMcs, .chans] s t) ∧
  (∀ (d h p : Nat) (s : State), d < 12 → h < 32 → p = (mcOf d).page → (chanAt s (ckOf d h)).recal = true →
    ∃ t, exec (.recalDone d h) s = .next t ∧ (chanAt t (ckOf d h)).recal = false ∧ (chanAt t (ckOf d h)).recalDue = false ∧
      (chanAt t (ckOf d h)).recalForced = false ∧ rdi t p .mcsRecals h = satAdd (2 ^ Fld.mcsRecals.row.width - 1) (rdi s p .mcsRecals h) 1) ∧
  (∀ (d p : Nat) (s : State), d < 12 → p = (mcOf d).page → rd s p .mcsQosMode = 1 → 
    (∀ h, h < 32 → chanIdle (chanAt s (ckOf d h)) = true ∧ (chanAt s (ckOf d h)).rc < 8) →
    ∃ t, exec (.tollgateRefill d) s = .next t ∧
      (∀ i, i < 48 → rdi t p .mcsTokens i =
        min (rdi s p .mcsBurstKib i * 1024) (rdi s p .mcsTokens i + rdi s p .mcsRate i * 16) % 2 ^ Fld.mcsTokens.row.width) ∧
      (∀ q f i, f ≠ .mcsTokens → rdi t q f i = rdi s q f i) ∧ Only [.regMcs] s t) ∧
  (∀ (d h pos age level p : Nat) (r : RdReq) (s : State), d < 12 → h < 32 → p = (mcOf d).page → (chanAt s (ckOf d h)).rdq[pos]? = some r →
    r.scrub = false → level = (if r.qos.full = true then r.urgency else max r.urgency (
      if 2 * age < r.qos.target then 0 else if 4 * age < 3 * r.qos.target then 1 else if age < r.qos.target then 2 else 3)) →
    ∃ t, exec (.requestUrgency d h false pos age) s = .next t ∧
      chanAt t (ckOf d h) = { chanAt s (ckOf d h) with rdq := (chanAt s (ckOf d h)).rdq.set pos { r with age := max r.age age, urgency := level } } ∧
      (∀ k, k ≠ ckOf d h → chanAt t k = chanAt s k) ∧ (¬(r.urgency < 3 ∧ level = 3) → Only [.chans] s t) ∧
      (r.urgency < 3 → level = 3 → rd t p .mcsLatMiss = satAdd (2 ^ Fld.mcsLatMiss.row.width - 1) (rd s p .mcsLatMiss) 1 ∧
        bit (rd t p .hdrIrqStat) 21 = 1)) ∧
  ∀ (d h pos age level p : Nat) (w : WrReq) (s : State), d < 12 → h < 32 → p = (mcOf d).page → (chanAt s (ckOf d h)).wrq[pos]? = some w →
    w.scrub = false → level = (if w.qos.full = true then w.urgency else max w.urgency (
      if 2 * age < w.qos.target then 0 else if 4 * age < 3 * w.qos.target then 1 else if age < w.qos.target then 2 else 3)) →
    ∃ t, exec (.requestUrgency d h true pos age) s = .next t ∧
      chanAt t (ckOf d h) = { chanAt s (ckOf d h) with wrq := (chanAt s (ckOf d h)).wrq.set pos { w with age := max w.age age, urgency := level } } ∧
      (∀ k, k ≠ ckOf d h → chanAt t k = chanAt s k) ∧ (¬(w.urgency < 3 ∧ level = 3) → Only [.chans] s t) ∧
      (w.urgency < 3 → level = 3 → rd t p .mcsLatMiss = satAdd (2 ^ Fld.mcsLatMiss.row.width - 1) (rd s p .mcsLatMiss) 1 ∧
        bit (rd t p .hdrIrqStat) 21 = 1)

/-- Freezes and releases. A CA parity error or an exhausted write CRC freezes a NORMAL channel: it is FROZEN, FREEZES counts, FROZEN is
raised, and with no record held the freeze record takes channel, cause (2 or 3) and place; the fourth freeze of a second is a storm and
raised so. A further cause at a frozen channel that the record names only counts in FRZ_COUNT. FRZ_FORCE freezes the NORMAL channels of
its mask at debug level intervene and does nothing below it. A release of a frozen channel that owes and holds nothing makes it NORMAL,
ends a storm and raises RELEASED; automatic release does the same, but not with FRZ_AUTO_US 0 or in a storm. A release in whose cycle
another cause arrives is taken first and leaves the channel FROZEN, with every mark that it owed still owed. -/
def Obligations.FreezesAndReleases : Prop :=
  (∀ (d h bank row col p cause : Nat) (i : Instr) (s : State), d < 12 → h < 32 → bank < 32 → row < 65536 → col < 32 → p = (mcOf d).page →
    (i, cause) ∈ [(Instr.caParity d h bank row col, 2), (Instr.wcrcExhausted d h bank row col, 3)] →
    (chanAt s (ckOf d h)).st = .normal → (chanAt s (ckOf d h)).seqs = [] →
    ∃ t, exec i s = .next t ∧ (chanAt t (ckOf d h)).st = .frozen ∧
      (chanAt t (ckOf d h)).freezes1s = min 255 ((chanAt s (ckOf d h)).freezes1s + 1) ∧
      rd t p .mcsFreezes = satAdd (2 ^ Fld.mcsFreezes.row.width - 1) (rd s p .mcsFreezes) 1 ∧ bit (rd t p .hdrIrqStat) 16 = 1 ∧
      (rd s p .mcsFrzValid = 0 → rd t p .mcsFrzValid = 1 ∧ rd t p .mcsFrzChan = h ∧ rd t p .mcsFrzCause = cause ∧ rd t p .mcsErrBank = bank ∧
        rd t p .mcsErrRow = row ∧ rd t p .mcsErrCol = col ∧ rd t p .mcsFrzCount = 0) ∧
      (3 ≤ (chanAt s (ckOf d h)).freezes1s → (chanAt t (ckOf d h)).storm = true ∧ bit (rd t p .hdrIrqStat) 18 = 1)) ∧
  (∀ (d h bank row col p : Nat) (i : Instr) (s : State), d < 12 → h < 32 → p = (mcOf d).page →
    (i = Instr.caParity d h bank row col ∨ i = Instr.wcrcExhausted d h bank row col) → (chanAt s (ckOf d h)).st = .frozen →
    (rd s p .mcsFrzValid = 1 → rd s p .mcsFrzChan = h → exec i s = .next (count p .mcsFrzCount 1 s)) ∧
    (rd s p .mcsFrzValid = 0 → exec i s = .next s)) ∧
  (∀ (d mask : Nat) (s : State), d < 12 → unitReachable s (mcOf d) = true →
    (debugLevel s ≠ 2 → exec (.frzForce d mask) s = .next s) ∧
    (debugLevel s = 2 → ∃ t, exec (.frzForce d mask) s = .next t ∧
      (∀ h, h < 32 → bit mask h = 1 → (chanAt s (ckOf d h)).st = .normal → (chanAt t (ckOf d h)).st = .frozen) ∧
      ∀ h, h < 32 → bit mask h = 0 → (chanAt t (ckOf d h)).st = (chanAt s (ckOf d h)).st)) ∧
  (∀ (d h p : Nat) (s : State), d < 12 → h < 32 → p = (mcOf d).page → unitReachable s (mcOf d) = true → (chanAt s (ckOf d h)).st = .frozen →
    (chanAt s (ckOf d h)).owed = [] → chanIdle (chanAt s (ckOf d h)) = true →
    ∃ t, exec (.frzRelease d (2 ^ h) []) s = .next t ∧ (chanAt t (ckOf d h)).st = .normal ∧ (chanAt t (ckOf d h)).storm = false ∧
      bit (rd t p .hdrIrqStat) 17 = 1) ∧
  (∀ (d h p : Nat) (s : State), d < 12 → h < 32 → p = (mcOf d).page → (chanAt s (ckOf d h)).st = .frozen → rd s p .mcsFrzAutoUs ≠ 0 →
    (chanAt s (ckOf d h)).storm = false → (chanAt s (ckOf d h)).owed = [] → chanIdle (chanAt s (ckOf d h)) = true →
    ∃ t, exec (.freezeAutoRelease d h none) s = .next t ∧ (chanAt t (ckOf d h)).st = .normal ∧ bit (rd t p .hdrIrqStat) 17 = 1) ∧
  (∀ (d h p : Nat) (f : FreezeCause) (s : State), d < 12 → h < 32 → p = (mcOf d).page → unitReachable s (mcOf d) = true →
    (chanAt s (ckOf d h)).st = .frozen → f.chan = h → f.cause ≠ 1 →
    (∃ t, exec (.frzRelease d (2 ^ h) [f]) s = .next t ∧ (chanAt t (ckOf d h)).st = .frozen ∧ bit (rd t p .hdrIrqStat) 17 = 1 ∧
      ∀ c, c ∈ (chanAt s (ckOf d h)).owed → c ∈ (chanAt t (ckOf d h)).owed) ∧
    (rd s p .mcsFrzAutoUs ≠ 0 → (chanAt s (ckOf d h)).storm = false →
      ∃ t, exec (.freezeAutoRelease d h (some f)) s = .next t ∧ (chanAt t (ckOf d h)).st = .frozen ∧ bit (rd t p .hdrIrqStat) 17 = 1 ∧
        ∀ c, c ∈ (chanAt s (ckOf d h)).owed → c ∈ (chanAt t (ckOf d h)).owed)) ∧
  ∀ (d h : Nat) (again : Option FreezeCause) (s : State), (rd s (mcOf d).page .mcsFrzAutoUs = 0 ∨ (chanAt s (ckOf d h)).storm = true) →
    exec (.freezeAutoRelease d h again) s = .next s

/-- Patrol scrub, row repair and the check-bit test modes. A scrub read of two clean columns, with no request that may be served, moves
the channel's cursor on by one pair, wraps after the last one and counts the pass, and changes no memory. At the age limit the scrub
read stands in front of the read queue. A correction's write-back enters the write queue while there is room. REPAIR_GO queues the row
that INT_SEL and REQ_* name when its subarray's spare is free; ROW_REPAIR of a channel without an active sequence remaps the oldest
candidate, counts it and keeps every byte of a clean row; a repair that has waited holds new sequences. A CE window closes. A test mode
starts on a controller at debug level intervene when its channel runs no sequence, is refused with 1 when it does and with 2 below that
level, and ends with TEST_MODE 0. -/
def Obligations.ScrubRepairAndTestModes : Prop :=
  (∀ (d h n : Nat) (s : State), d < 12 → h < 32 → n = 32 * bankRows s.variant * 16 → (chanAt s (ckOf d h)).scrub < n →
    colServes s (scrubCursor s (ckOf d h)) = true → colChk s (scrubCursor s (ckOf d h)) = none → colChk s (scrubCursor s (ckOf d h) + 1) = none →
    (∀ r, r ∈ (chanAt s (ckOf d h)).rdq → readScore s (ckOf d h) r = none) → (∀ w, w ∈ (chanAt s (ckOf d h)).wrq → writeScore s (ckOf d h) w = none) →
    ∃ t, exec (.scrubRead d h) s = .next t ∧ (chanAt t (ckOf d h)).scrub = ((chanAt s (ckOf d h)).scrub + 1) % n ∧ t.dram = s.dram ∧
      t.dramChk = s.dramChk ∧ rdi t 0x2028 .fltScrubPasses (mcOf d).page = (if (chanAt s (ckOf d h)).scrub + 1 = n
        then satAdd (2 ^ Fld.fltScrubPasses.row.width - 1) (rdi s 0x2028 .fltScrubPasses (mcOf d).page) 1
        else rdi s 0x2028 .fltScrubPasses (mcOf d).page) ∧ Only [.regFlt, .chans] s t) ∧
  (∀ (d h : Nat) (s : State), chanServes s (ckOf d h) = false → (∀ r, r ∈ (chanAt s (ckOf d h)).rdq → r.scrub = false) →
    chanKey (scrubCursor s (ckOf d h)) = ckOf d h → (∀ r, r ∈ (chanAt s (ckOf d h)).rdq → r.cols ≠ [] ∧ ∀ e, e ∈ r.cols → chanKey e.1 = ckOf d h) →
    ∃ t r, exec (.scrubAgeLimit d h) s = .next t ∧ (chanAt t (ckOf d h)).rdq = r :: (chanAt s (ckOf d h)).rdq ∧ r.scrub = true ∧
      r.cols = [(scrubCursor s (ckOf d h), 0)] ∧ Only [.chans] s t) ∧
  (∀ (d h : Nat) (w : WrReq) (ws : List WrReq) (s : State), (chanAt s (ckOf d h)).scrubBack = w :: ws → wrEntries (chanAt s (ckOf d h)).wrq < 32 →
    exec (.scrubWriteback d h) s = .next (putChan (ckOf d h)
      { chanAt s (ckOf d h) with
        wrq := (chanAt s (ckOf d h)).wrq ++ [{ w with stamp := (chanAt s (ckOf d h)).stamp }]
        stamp := (chanAt s (ckOf d h)).stamp + 1
        scrubBack := ws } s)) ∧
  (∀ (d h b row p key : Nat) (s : State), d < 12 → h < 32 → b < 32 → row < bankRows s.variant → p = (mcOf d).page → rd s 0x2028 .fltIntSel = p →
    rdi s 0x2028 .fltReqChan p = h → rdi s 0x2028 .fltReqBank p = b → rdi s 0x2028 .fltReqRow p = row →
    key = ((d * 32 + h) * 32 + b) * 65536 + row → spareUsed s key = false → key ∉ (chanAt s (ckOf d h)).repairs →
    exec .repairGo s = .next (putChan (ckOf d h) { chanAt s (ckOf d h) with repairs := (chanAt s (ckOf d h)).repairs ++ [key] } s)) ∧
  (∀ (d h key : Nat) (rest : List Nat) (s : State), d < 12 → h < 32 → (chanAt s (ckOf d h)).repairs = key :: rest → key / (65536 * 32) = ckOf d h →
    seqActive (chanAt s (ckOf d h)) = false → chanServes s (ckOf d h) = true → spareUsed s key = false →
    (∀ i, i < 32 → colChk s (key * 32 + i) = none) → rdi s 0x2018 .epoLdgEn (mcOf d).page = 0 →
    ∃ t, exec (.rowRepair d h) s = .next t ∧ t.remaps = s.remaps ++ [key] ∧ key ∉ (chanAt t (ckOf d h)).repairs ∧
      rdi t 0x2028 .fltRepairs (mcOf d).page = satAdd (2 ^ Fld.fltRepairs.row.width - 1) (rdi s 0x2028 .fltRepairs (mcOf d).page) 1 ∧
      (s.repairLog.length < 16384 → t.repairLog = s.repairLog ++ [key]) ∧ (∀ a, dramByteAt t a = dramByteAt s a) ∧
      ∀ e, colChk t e = colChk s e) ∧
  (∀ (d h : Nat) (s : State), (chanAt s (ckOf d h)).repairs ≠ [] →
    exec (.repairWaitExpire d h) s = .next (putChan (ckOf d h) { chanAt s (ckOf d h) with repairHold := true } s)) ∧
  (∀ (page : Nat) (s : State), ∃ t, exec (.ceWindowExpire page) s = .next t ∧ SMap.get (fun _ => {}) t.ceWins page = {} ∧
    (∀ k, k ≠ page → SMap.get (fun _ => {}) t.ceWins k = SMap.get (fun _ => {}) s.ceWins k) ∧ Only [.ceWins] s t) ∧
  ∀ (d p m : Nat) (i : Instr) (s : State), d < 12 → p = (mcOf d).page → rd s 0x2028 .fltIntSel = p →
    (i, m) ∈ [(Instr.dataOnly, 1), (Instr.chkOnly, 2), (Instr.rawRead, 3)] →
    (debugLevel s = 2 → seqActive (chanAt s (ckOf d (rdi s 0x2028 .fltTestChan p))) = false →
      ∃ t, exec i s = .next t ∧ rdi t 0x2028 .fltTestMode p = m ∧ rdi t 0x2028 .fltTestResult p = 0 ∧
        RegsBut [(0x2028, .fltTestMode, p), (0x2028, .fltTestResult, p)] s t ∧ Only [.regFlt] s t) ∧
    (debugLevel s = 2 → seqActive (chanAt s (ckOf d (rdi s 0x2028 .fltTestChan p))) = true →
      exec i s = .next (wri 0x2028 .fltTestResult p 1 s)) ∧
    (debugLevel s ≠ 2 → exec i s = .next (wri 0x2028 .fltTestResult p 2 s)) ∧
    (debugLevel s = 2 → ∃ t, exec .testModeOff s = .next t ∧ rdi t 0x2028 .fltTestMode p = 0 ∧ rdi t 0x2028 .fltTestResult p = 0)

/-- The segment commands of a drover. With no command running: CREATE of a FREE segment with legal pages and record size, no base, and
room, makes it WRITING and empty with them; it reports 2 for a segment in use, 4 for bad arguments, 1 without room. WRITE of a WRITING
segment stores its pages from DRAM at the segment's places with HEAT, and SEG_GO stays 1 until SEG_DONE; it reports 2 for a segment in
another state. SEAL and DELETE stay in progress; SEG_DONE makes the segment SEALED without base, or FREE and empty, with result 0.
DELETE of a bound segment reports 3. QUERY shows the segment. BIND of a SEALED segment stores the catalog entry, UNBIND of an entry
whose version is not live and has no frames removes it. Each done command reads SEG_GO 0 and raises SEG_DONE. (The order and result
codes of some checks are the model's choice, log entry 55.) -/
def Obligations.SegmentCommands : Prop :=
  (∀ (n k pages rb p : Nat) (s : State), s.Ok → n < 4 → p = drvPage n → unitReachable s (.dr n) = true → (droverAt s n).cmd = none →
    k = rd s p .drvSegId → pages = rd s p .drvSegPages → rb = rd s p .drvSegRec →
    ((segAt (droverAt s n) k).st = .free → 0 < pages → pages ≤ 2 ^ 29 → rb % 32 = 0 → 0 < rb → rb ≤ 16384 → rd s p .drvSegBaseEn = 0 →
      promisedPages (droverAt s n) + pages ≤ freePages s n →
      ∃ t, exec (.segCreate n) s = .next t ∧ rd t p .drvSegResult = 0 ∧ rd t p .drvSegGo = 0 ∧ bit (rd t p .hdrIrqStat) 16 = 1 ∧
        segAt (droverAt t n) k = { st := .writing, pages := pages, recBytes := rb } ∧
        (∀ i, i ≠ k → segAt (droverAt t n) i = segAt (droverAt s n) i) ∧ (∀ m, m ≠ n → droverAt t m = droverAt s m)) ∧
    ((segAt (droverAt s n) k).st ≠ .free →
      ∃ t, exec (.segCreate n) s = .next t ∧ rd t p .drvSegResult = 2 ∧ rd t p .drvSegGo = 0 ∧ t.drovers = s.drovers) ∧
    ((segAt (droverAt s n) k).st = .free → (pages = 0 ∨ 2 ^ 29 < pages ∨ rb % 32 ≠ 0 ∨ rb = 0 ∨ 16384 < rb) →
      ∃ t, exec (.segCreate n) s = .next t ∧ rd t p .drvSegResult = 4 ∧ rd t p .drvSegGo = 0 ∧ t.drovers = s.drovers) ∧
    ((segAt (droverAt s n) k).st = .free → 0 < pages → pages ≤ 2 ^ 29 → rb % 32 = 0 → 0 < rb → rb ≤ 16384 → rd s p .drvSegBaseEn = 0 →
      freePages s n < promisedPages (droverAt s n) + pages →
      ∃ t, exec (.segCreate n) s = .next t ∧ rd t p .drvSegResult = 1 ∧ rd t p .drvSegGo = 0 ∧ t.drovers = s.drovers)) ∧
  (∀ (n k a c first p : Nat) (s : State), s.Ok → n < 4 → p = drvPage n → unitReachable s (.dr n) = true → (droverAt s n).cmd = none →
    k = rd s p .drvSegId → a = rd s p .drvSegSrcDpa → c = rd s p .drvSegCount → first = rd s p .drvSegFirst →
    ((segAt (droverAt s n) k).st = .writing → 0 < c → first + c ≤ (segAt (droverAt s n) k).pages → a % 16384 = 0 →
      inDram s.variant a (16384 * c) = true → segReadOnly s n = false → segWaits s n = false → memGate s (some n) droverPortAt a (16384 * c) false = none →
      ∃ t, exec (.segWrite n) s = .next t ∧ rd t p .drvSegGo = 1 ∧ (droverAt t n).cmd = some (2, k) ∧
        (segAt (droverAt t n) k).st = .writing ∧
        (∀ i, first ≤ i → i < first + c → ∃ f, (segAt (droverAt t n) k).pageAt i = some f ∧ f.heat = rd s p .drvSegHeat) ∧
        (∀ i, (i < first ∨ first + c ≤ i) → (segAt (droverAt t n) k).pageAt i = (segAt (droverAt s n) k).pageAt i) ∧
        ∀ i, i ≠ k → segAt (droverAt t n) i = segAt (droverAt s n) i) ∧
    ((segAt (droverAt s n) k).st ≠ .writing →
      ∃ t, exec (.segWrite n) s = .next t ∧ rd t p .drvSegResult = 2 ∧ rd t p .drvSegGo = 0 ∧ t.drovers = s.drovers)) ∧
  (∀ (n k p : Nat) (s : State), s.Ok → n < 4 → p = drvPage n → unitReachable s (.dr n) = true → (droverAt s n).cmd = none → k = rd s p .drvSegId →
    ((segAt (droverAt s n) k).st = .writing → segReadOnly s n = false →
      ∃ t, exec (.segSeal n) s = .next t ∧ rd t p .drvSegGo = 1 ∧ droverAt t n = { droverAt s n with cmd := some (3, k) }) ∧
    ((segAt (droverAt s n) k).st = .sealed → (∀ e c, e ∈ (droverAt s n).catalog → e.2 = some c → c.seg ≠ k) →
      (∀ e, e ∈ (droverAt s n).segs → e.2.st = .writing → e.2.base ≠ some k) →
      ∃ t, exec (.segDelete n) s = .next t ∧ rd t p .drvSegGo = 1 ∧ (droverAt t n).cmd = some (4, k) ∧
        segAt (droverAt t n) k = { segAt (droverAt s n) k with st := .deleting } ∧
        ∀ i, i ≠ k → segAt (droverAt t n) i = segAt (droverAt s n) i) ∧
    ((segAt (droverAt s n) k).st = .sealed → (∃ e c, e ∈ (droverAt s n).catalog ∧ e.2 = some c ∧ c.seg = k) →
      ∃ t, exec (.segDelete n) s = .next t ∧ rd t p .drvSegResult = 3 ∧ rd t p .drvSegGo = 0 ∧ t.drovers = s.drovers) ∧
    (∃ t, exec (.segQuery n) s = .next t ∧ rd t p .drvSegResult = 0 ∧ rd t p .drvSegGo = 0 ∧
      rd t p .drvSegState = (segAt (droverAt s n) k).st.code ∧
      rd t p .drvSegPages = (segAt (droverAt s n) k).pages % 2 ^ Fld.drvSegPages.row.width ∧
      rd t p .drvSegRec = (segAt (droverAt s n) k).recBytes % 2 ^ Fld.drvSegRec.row.width ∧ t.drovers = s.drovers) ∧
    ((segAt (droverAt s n) k).st = .sealed → catAt (droverAt s n) (catKey s n) = none →
      ∃ t, exec (.segBind n) s = .next t ∧ rd t p .drvSegResult = 0 ∧
        catAt (droverAt t n) (catKey s n) = some ⟨rd s p .drvCatGen, k⟩ ∧ (droverAt t n).segs = (droverAt s n).segs ∧
        ∀ i, i ≠ catKey s n → catAt (droverAt t n) i = catAt (droverAt s n) i) ∧
    (∀ e, catAt (droverAt s n) (catKey s n) = some e → staged (droverAt s n) (catKey s n) e.gen = false →
      ((vslotAt s (catKey s n)).gen ≠ e.gen ∨ (vslotAt s (catKey s n)).live = false) →
      ∃ t, exec (.segUnbind n) s = .next t ∧ rd t p .drvSegResult = 0 ∧ catAt (droverAt t n) (catKey s n) = none ∧
        ∀ i, i ≠ catKey s n → catAt (droverAt t n) i = catAt (droverAt s n) i)) ∧
  ∀ (n k p : Nat) (s : State), n < 4 → p = drvPage n →
    ((droverAt s n).cmd = some (3, k) → segWaits s n = false →
      ∃ t, exec (.segDone n) s = .next t ∧ rd t p .drvSegResult = 0 ∧ rd t p .drvSegGo = 0 ∧ bit (rd t p .hdrIrqStat) 16 = 1 ∧
        (droverAt t n).cmd = none ∧ segAt (droverAt t n) k = { segAt (droverAt s n) k with st := .sealed, base := none } ∧
        ∀ i, i ≠ k → segAt (droverAt t n) i = segAt (droverAt s n) i) ∧
    ((droverAt s n).cmd = some (4, k) →
      ∃ t, exec (.segDone n) s = .next t ∧ rd t p .drvSegResult = 0 ∧ rd t p .drvSegGo = 0 ∧ (droverAt t n).cmd = none ∧
        segAt (droverAt t n) k = {} ∧ ∀ i, i ≠ k → segAt (droverAt t n) i = segAt (droverAt s n) i) ∧
    ((droverAt s n).cmd = some (2, k) →
      ∃ t, exec (.segDone n) s = .next t ∧ rd t p .drvSegResult = 0 ∧ rd t p .drvSegGo = 0 ∧ droverAt t n = { droverAt s n with cmd := none })

/-- Staging pools, drover descriptors and the bulk tier. With no milestone armed: POOL_EN 1 enables a pool whose frames lie in
interleaved DRAM of its partition, and is a BAD_WRITE otherwise; POOL_EN 0 of an idle pool disables and empties it, of a busy one it
waits for POOL_DISABLED. A DR_FETCH or DR_PROMOTE at a pool that is off, or of a region that is not bulk, ends FAULT; a DR_FETCH whose
records are all staged ends at once, one that misses waits with its record among the drover's works; a DR_PROMOTE with pages in range
ends or waits the same way; DR_UNPIN takes the context's pins off every frame of the pool. A landing page leaves the reads in flight,
counts once in READ_RETRIES when it was retried, and ends the descriptor that waits for it alone, POISONED when all its attempts and its
rebuild failed. Patrol relocation counts media bytes. RET_GO queues a die, and a retired die counts in DIES_RETIRED. -/
def Obligations.PoolsAndBulk : Prop :=
  (∀ (n i p : Nat) (s : State), s.Ok → n < 4 → i < 16 → p = drvPage n → unitReachable s (.dr n) = true → armedSlots s = [] →
    (rdi s p .drvPoolEn i = 0 → stageable s n (rdi s p .drvPoolBase i * 2 ^ 21) (16384 * rdi s p .drvPoolFrames i) = true →
      ∃ t, exec (.poolEnWrite n i 1) s = .next t ∧ rdi t p .drvPoolEn i = 1 ∧ RegsBut [(p, .drvPoolEn, i), (p, .drvPoolSel, 0)] s t ∧
        Only [.regDrv] s t) ∧
    (rdi s p .drvPoolEn i = 0 → stageable s n (rdi s p .drvPoolBase i * 2 ^ 21) (16384 * rdi s p .drvPoolFrames i) = false →
      ∃ t, exec (.poolEnWrite n i 1) s = .next t ∧ rdi t p .drvPoolEn i = 0 ∧ rd t p .hdrBadWrite = 1) ∧
    (rdi s p .drvPoolEn i = 1 → poolBusy (droverAt s n) i = true →
      ∃ t, exec (.poolEnWrite n i 0) s = .next t ∧ rdi t p .drvPoolEn i = 1 ∧ (poolAt (droverAt t n) i).disabling = true ∧
        ∀ j, j ≠ i → poolAt (droverAt t n) j = poolAt (droverAt s n) j) ∧
    (rdi s p .drvPoolEn i = 1 → poolBusy (droverAt s n) i = false →
      ∃ t, exec (.poolEnWrite n i 0) s = .next t ∧ rdi t p .drvPoolEn i = 0 ∧ poolAt (droverAt t n) i = {})) ∧
  (∀ (n i : Nat) (s : State), n < 4 → i < 16 → armedSlots s = [] → (poolAt (droverAt s n) i).disabling = true → poolBusy (droverAt s n) i = false →
    ∃ t, exec (.poolDisabled n i) s = .next t ∧ rdi t (drvPage n) .drvPoolEn i = 0 ∧ poolAt (droverAt t n) i = {}) ∧
  (∀ (g c n type : Nat) (i : Instr) (w : Work) (x : DrBody) (s : State),
    (i, type) ∈ [(Instr.drFetch g c, 0x64), (Instr.drPromote g c, 0x65), (Instr.drUnpin g c, 0x66)] →
    (((ctxAt s (ctxId g c)).q qLd).live.find? fun w => w.works && !w.began && dType w.img = type) = some w → n = corePart g →
    rd s (drvPage n) .hdrFenced = 0 → x = drBody (ctxImage s g c) w.img → poolOn s n x.pool = false →
    ∃ t, exec i s = .next t ∧ Ended g c qLd w.k .fault t ∧ t.drovers = s.drovers) ∧
  (∀ (g c n type code : Nat) (i : Instr) (w : Work) (x : DrBody) (s : State),
    (i, type) ∈ [(Instr.drFetch g c, 0x64), (Instr.drPromote g c, 0x65)] →
    (((ctxAt s (ctxId g c)).q qLd).live.find? fun w => w.works && !w.began && dType w.img = type) = some w → n = corePart g →
    rd s (drvPage n) .hdrFenced = 0 → x = drBody (ctxImage s g c) w.img → poolOn s n x.pool = true → drSource s g c x = .error code →
    ∃ t, exec i s = .next t ∧ Ended g c qLd w.k .fault t ∧ t.drovers = s.drovers) ∧
  (∀ (g c n : Nat) (w : Work) (x : DrBody) (src : DrSource) (plan : (List DrRec × Option DrStop) × State) (r : DrWork × State) (s : State),
    (((ctxAt s (ctxId g c)).q qLd).live.find? fun w => w.works && !w.began && dType w.img = 0x64) = some w → n = corePart g →
    rd s (drvPage n) .hdrFenced = 0 → x = drBody (ctxImage s g c) w.img → poolOn s n x.pool = true → drSource s g c x = .ok src →
    (memBind ((runAt s (ctxAt s (ctxId g c)).run).getD {}) (x.dst.getD {})).remote = false →
    plan = planRecs g c x ((runAt s (ctxAt s (ctxId g c)).run).getD {}) (x.dst.getD {}) (segAt (droverAt s n) src.seg)
      (drIndices g (ctxAt s (ctxId g c)) x s).1.zipIdx [] (drIndices g (ctxAt s (ctxId g c)) x s).2 → plan.1.2 = none →
    piecesWait plan.2 droverPortAt (plan.1.1.flatMap DrRec.pieces) false true = none →
    serveRecs n x.pool src x.recBytes x.heatMin plan.1.1 ({ core := g, ctx := c, k := w.k, pool := x.pool, seg := src.seg }, plan.2) = .ok r →
    ∃ t, exec (.drFetch g c) s = .next t ∧ (r.1.waits = [] → Ended g c qLd w.k (poisonStat r.1.poison) t) ∧
      (r.1.waits ≠ [] → r.1 ∈ (droverAt t n).works ∧ ∃ v, v ∈ ((ctxAt t (ctxId g c)).q qLd).live ∧ v.k = w.k ∧ v.began = true)) ∧
  (∀ (g c n : Nat) (w : Work) (x : DrBody) (src : DrSource) (s : State),
    (((ctxAt s (ctxId g c)).q qLd).live.find? fun w => w.works && !w.began && dType w.img = 0x65) = some w → n = corePart g →
    rd s (drvPage n) .hdrFenced = 0 → x = drBody (ctxImage s g c) w.img → poolOn s n x.pool = true → drSource s g c x = .ok src →
    (∀ e, e ∈ promotePages x (drIndices g (ctxAt s (ctxId g c)) x s).1 → e.1 < (segAt (droverAt s n) src.seg).pages) →
    ∃ t, exec (.drPromote g c) s = .next t ∧
      ((∃ st, Ended g c qLd w.k st t ∧ (st = .ok ∨ st = .poisoned)) ∨ ∃ v, v ∈ (droverAt t n).works ∧ v.core = g ∧ v.ctx = c ∧ v.k = w.k)) ∧
  (∀ (g c n : Nat) (w : Work) (x : DrBody) (s : State),
    (((ctxAt s (ctxId g c)).q qLd).live.find? fun w => w.works && !w.began && dType w.img = 0x66) = some w → n = corePart g →
    rd s (drvPage n) .hdrFenced = 0 → x = drBody (ctxImage s g c) w.img → poolOn s n x.pool = true →
    ∃ t, exec (.drUnpin g c) s = .next t ∧ Ended g c qLd w.k .ok t ∧
      (∀ e f, e ∈ (poolAt (droverAt t n) x.pool).frames → e.2 = some f → ctxId g c ∉ f.pins) ∧
      ∀ j, j ≠ x.pool → poolAt (droverAt t n) j = poolAt (droverAt s n) j) ∧
  (∀ (b pos attempts n : Nat) (r : BulkRead) (w : DrWork) (ps spans : List (Nat × Nat × Nat)) (poisoned : Bool) (s : State), n = b / 2 → armedSlots s = [] →
    landing s b pos = some r → (∀ e, e ∈ (droverAt s n).reads → e.seg = r.seg → e.page = r.page → e = r) →
    (droverAt s n).works = [w] → w.seg = r.seg → w.waits = [(r.page, ps)] → spans = landSpans s n r ((poisoned && 5 < attempts) ||
      blkState s b = 3 || (((segAt (droverAt s n) r.seg).pageAt r.page).map FlashPage.poison).getD false) →
    (∀ e, e ∈ spans → memGate s (some n) droverPortAt e.2.1 e.2.2 true = none) →
    piecesWait s droverPortAt (spans.map Prod.snd) false true = none →
    (∃ v, v ∈ ((ctxAt s (ctxId w.core w.ctx)).q qLd).live ∧ v.k = w.k) →
    ∃ t, exec (.bulkPageLand b pos attempts poisoned) s = .next t ∧ r ∉ (droverAt t n).reads ∧ (droverAt t n).works = [] ∧
      (∃ st, Ended w.core w.ctx qLd w.k st t ∧ (st = .ok ∨ st = .poisoned) ∧ (poisoned = true → 5 < attempts → st = .poisoned)) ∧
      (1 < attempts → attempts < 6 → rd t (blkPage b) .blkReadRetries =
        satAdd (2 ^ Fld.blkReadRetries.row.width - 1) (rd s (blkPage b) .blkReadRetries) 1)) ∧
  (∀ (b k : Nat) (s : State), b < 8 → SMap.get (fun _ => 0) s.partCond (17 + b) / 2 % 2 = 0 → blkState s b ≠ 1 → blkState s b ≠ 3 →
    ∃ t, exec (.bulkPatrol b k) s = .next t ∧
      rd t (blkPage b) .blkMediaBytes = satAdd (2 ^ Fld.blkMediaBytes.row.width - 1) (rd s (blkPage b) .blkMediaBytes) (16384 * k)) ∧
  (∀ (k : Nat) (s : State), k = 16 * rd s 0x2038 .mgtRetStack + rd s 0x2038 .mgtRetDie → k ∉ s.dies → k ∉ s.retQueue →
    exec .retGo s = .next { s with retQueue := s.retQueue ++ [k] }) ∧
  ∀ (b die : Nat) (s : State), b < 8 → die < 16 → 16 * b + die ∉ s.dies → retiredDies s b < 16 →
    ∃ t, exec (.dieRetire b die) s = .next t ∧ t.dies = s.dies ++ [16 * b + die] ∧ 16 * b + die ∉ t.retQueue ∧
      rd t (blkPage b) .blkDiesRetired = (retiredDies s b + 1) % 2 ^ Fld.blkDiesRetired.row.width

/-- Port states, training, flits and timeouts. A port that answers: PORT_EN 1 starts training, or DARK without light; 0 takes it OFF.
RETRAIN starts full training with RETRAIN 1 and DOWN_CAUSE 0. A failed attempt is repeated, the third takes the port DOWN with cause 1.
Training that ends with all lanes and a short round trip brings the port UP, with fewer lanes DEGRADED, with credits 3584/640/3584/384
and DSEQ_TX and LANDED 0; no lane or more than 1,200 ns takes it DOWN with cause 3 or 2. A fast retrain and its end go through RETRAIN.
PORT_DOWN and PORT_FATAL end in DOWN. A good flit in sequence advances the receiver and clears NAK, a bad one sets NAK. A flit sent
takes the next number into the replay buffer, a replay changes neither. A request that times out is no longer outstanding and its
descriptor ends FAULT. -/
def Obligations.PortsAndFlits : Prop :=
  (∀ (p pg : Nat) (s : State), s.Ok → p < 32 → pg = portPage p → unitReachable s (portUnit p) = true →
    (rd s pg .evlPortEn = 0 → ∃ t, exec (.portEnWrite p 1) s = .next t ∧ rd t pg .evlPortEn = 1 ∧
      (engineLit s (engineOf p) = true → portState t p = 2 ∧ (portAt t p).attempts = 0 ∧ ∃ f, (portAt t p).tx.getD 3 [] = [f] ∧ (hdrOf f).type = 0x30) ∧
      (engineLit s (engineOf p) = false → portState t p = 1)) ∧
    (rd s pg .evlPortEn = 1 → ∃ t, exec (.portEnWrite p 0) s = .next t ∧ rd t pg .evlPortEn = 0 ∧ portState t p = 0 ∧ rd t pg .evlRetrain = 0) ∧
    (rd s pg .evlPortEn = 1 → engineLit s (engineOf p) = true → ∃ t, exec (.retrain p) s = .next t ∧ portState t p = 2 ∧
      rd t pg .evlRetrain = 1 ∧ rd t pg .evlDownCause = 0 ∧ (portAt t p).out = [])) ∧
  (∀ (p n : Nat) (s : State), p < 32 → portState s p = 2 → n = (portAt s p).attempts + 1 →
    ∃ t, exec (.trainAttemptTimeout p) s = .next t ∧ (n < 3 → portState t p = 2 ∧ (portAt t p).attempts = n) ∧
      (3 ≤ n → portState t p = 6 ∧ rd t (portPage p) .evlDownCause = 1)) ∧
  (∀ (p pg lanes rtt : Nat) (s : State), p < 32 → pg = portPage p → portState s p = 2 → (portAt s p).hello = true → lanes < 16 →
    ∃ t, exec (.portUp p lanes rtt) s = .next t ∧ rd t pg .evlRttNs = min 4095 rtt ∧
      (lanes = 0 → portState t p = 6 ∧ rd t pg .evlDownCause = 3) ∧ (lanes ≠ 0 → 1200 < rtt → portState t p = 6 ∧ rd t pg .evlDownCause = 2) ∧
      (lanes ≠ 0 → rtt ≤ 1200 → portState t p = (if lanes = 15 then 3 else 4) ∧ rd t pg .evlLanesOk = lanes ∧ rd t pg .evlWidth = widthOf lanes ∧
        rd t pg .evlTxCrData = 3584 ∧ rd t pg .evlTxCrSig = 640 ∧ rd t pg .evlTxCrResp = 3584 ∧ rd t pg .evlTxCrMgmt = 384 ∧
        rd t pg .evlDseqTx = 0 ∧ rd t pg .evlLanded = 0 ∧ rd t pg .evlRetrain = 0)) ∧
  (∀ (p : Nat) (s : State), p < 32 →
    (portFlows s p = true → ∃ t, exec (.fastRetrain p) s = .next t ∧ portState t p = 5 ∧ bit (rd t (portPage p) .hdrIrqStat) 16 = 1 ∧ t.ports = s.ports) ∧
    (portState s p = 5 → ∃ t, exec (.fastRetrainDone p true) s = .next t ∧ portState t p = (if rd s (portPage p) .evlWidth = 0 then 3 else 4) ∧
      t.ports = s.ports) ∧
    (portState s p = 5 → ∃ t, exec (.fastRetrainDone p false) s = .next t ∧ portState t p = (if engineLit s (engineOf p) = true then 2 else 1) ∧
      (portAt t p).out = [] ∧ (portAt t p).replay = [])) ∧
  (∀ (p cause : Nat) (s : State), p < 32 → cause < 4 → portState s p ≠ 0 → portState s p ≠ 1 → portState s p ≠ 6 →
    ∃ t, exec (.portDown p cause) s = .next t ∧ portState t p = 6 ∧ rd t (portPage p) .evlDownCause = cause ∧ rd t (portPage p) .evlRetrain = 0 ∧
      (portLinked s p = true → (portAt t p).out = [] ∧ (portAt t p).replay = [])) ∧
  (∀ (p code detail : Nat) (s : State), p < 32 → portState s p ≠ 0 →
    ∃ t, exec (.portFatal p code detail) s = .next t ∧ portState t p = 6 ∧ rd t (portPage p) .evlDownCause = 0 ∧ rd t (portPage p) .hdrErrValid = 1) ∧
  (∀ (p corr ack : Nat) (flit : List Byte) (s : State), p < 32 → portFlows s p = true → crc32c (flit.take 1020) = fieldAt flit 1016 63 32 →
    ack = fieldAt flit 1016 9 0 →
    ∃ t, exec (.flitReceive p flit corr false) s = .next t ∧
      rd t (portPage p) .evlFlitsRx = satAdd (2 ^ Fld.evlFlitsRx.row.width - 1) (rd s (portPage p) .evlFlitsRx) 1 ∧
      (ack = (portAt s p).rxNext → (portAt t p).rxNext = ((portAt s p).rxNext + 1) % 1024 ∧ (portAt t p).nak = false) ∧
      (ack ≠ (portAt s p).rxNext → (portAt t p).rxNext = (portAt s p).rxNext ∧ (portAt t p).rx = (portAt s p).rx)) ∧
  (∀ (p corr : Nat) (flit : List Byte) (u : Bool) (s : State), p < 32 → portFlows s p = true →
    (u = true ∨ crc32c (flit.take 1020) ≠ fieldAt flit 1016 63 32) →
    ∃ t, exec (.flitReceive p flit corr u) s = .next t ∧ portAt t p = { portAt s p with nak := true } ∧ (∀ o, o ≠ p → portAt t o = portAt s o)) ∧
  (∀ (p : Nat) (s : State), p < 32 → portFlows s p = true → (portAt s p).replayAt = none → (portAt s p).replay.length < 256 →
    ∃ t b, exec (.flitTransmit p) s = .next t ∧ t.outbox = s.outbox ++ [.flit p b] ∧ (portAt t p).fseq = ((portAt s p).fseq + 1) % 1024 ∧
      (portAt t p).replay.length = (portAt s p).replay.length + 1 ∧ (∀ o, o ≠ p → portAt t o = portAt s o)) ∧
  (∀ (p i : Nat) (e : Nat × List Byte) (s : State), p < 32 → portFlows s p = true → (portAt s p).replayAt = some i → (portAt s p).replay[i]? = some e →
    ∃ t b, exec (.flitTransmit p) s = .next t ∧ t.outbox = s.outbox ++ [.flit p b] ∧
      portAt t p = { portAt s p with replayAt := if i + 1 < (portAt s p).replay.length then some (i + 1) else none }) ∧
  ∀ (p tag : Nat) (r : RemoteReq) (w : Work) (s : State), p < 32 → ((portAt s p).out.find? fun r => r.tag = tag && !r.retry && !r.held) = some r →
    (((ctxAt s (ctxId r.core r.ctx)).q r.q).live.find? fun w => w.k = r.k && w.works) = some w →
    ∃ t, exec (.remoteTimeout p tag) s = .next t ∧ Ended r.core r.ctx r.q r.k .fault t ∧ (∀ e, e ∈ (portAt t p).out → e.tag ≠ tag) ∧
      bit (rd t (portPage p) .hdrIrqStat) 19 = 1

/-- Frames: remote requests, their responses, and signals. The oldest RD_REQ, WR or ACC frame of a port that flows, let in by its
partition and window, whose bytes translate, is taken and answered OK with the response of its kind to its source under its TAG; one
that is not let in is answered with the status of the rule and memory stays; one that memory does not take yet stays. A final OK
response of the only outstanding request of a descriptor ends it OK, or POISONED with poisoned data; RETRY marks the request and ends
nothing; any other status ends it FAULT. A SIGNAL in the remote windows that nothing holds is applied to its flag or counter; one whose
data has not landed takes a held entry; one outside the windows counts in REMOTE_REJECTED and changes no object. -/
def Obligations.Frames : Prop :=
  (∀ (p type rtype : Nat) (i : Instr) (f : List Byte) (fs : List (List Byte)) (h : Hdr) (s : State),
    (i, type, rtype) ∈ [(Instr.rdReq p, 0x01, 0x10), (Instr.wr p, 0x02, 0x11), (Instr.acc p, 0x03, 0x12)] →
    (portAt s p).rx.getD 0 [] = f :: fs → h = hdrOf f → h.type = type → portFlows s p = true →
    (serveGate s p h = 0 → ∀ lo n, lo = (if type = 0x01 then h.dva else h.dva + h.first) →
      n = (if type = 0x01 then 32 * h.len else 32 * h.len - h.first - h.lastSkip) →
      ∀ sp, sp = peerSpan (rdi s (portPage p) .evlExpRoot h.dpart * 4096) h.dpart (type != 0x01) lo n s →
      (∀ ps, sp.1 = .ok ps → piecesWait sp.2 spinePortAt ps (type = 0x03) (type != 0x01) = none →
        ∃ t data pb, exec i s = .next t ∧ (portAt t p).rx.getD 0 [] = fs ∧
          (portAt t p).tx.getD 2 [] = (portAt s p).tx.getD 2 [] ++ [hdrBytes { type := rtype, dst := h.src, src := selfAddr s, tag := h.tag,
                                                                               status := 0, len := data.length / 32, poison := pb } ++ data] ∧
          (type ≠ 0x01 → data = [] ∧ pb = 0) ∧ (portAt t p).ret.getD 0 0 = (portAt s p).ret.getD 0 0 + f.length / 32 ∧ t.ctxs = s.ctxs) ∧
      (∀ held, sp.1 = .error (.wait held) ∨ (∃ ps, sp.1 = .ok ps ∧ piecesWait sp.2 spinePortAt ps (type = 0x03) (type != 0x01) = some held) →
        exec i s = .next (noteWaits spinePortAt none held s) ∧ Only [.regMcs, .chans] s (noteWaits spinePortAt none held s))) ∧
    (serveGate s p h ≠ 0 →
      ∃ t, exec i s = .next t ∧ (portAt t p).rx.getD 0 [] = fs ∧
        (portAt t p).tx.getD 2 [] = (portAt s p).tx.getD 2 [] ++ [hdrBytes { type := rtype, dst := h.src, src := selfAddr s, tag := h.tag,
                                                                             status := serveGate s p h, len := 0, poison := 0 }] ∧ Only [.regEvl, .ports] s t)) ∧
  (∀ (p type : Nat) (i : Instr) (f : List Byte) (fs : List (List Byte)) (h : Hdr) (r : RemoteReq) (w : Work) (s : State), s.Ok →
    (i, type) ∈ [(Instr.rdResp p, 0x10), (Instr.wrAck p, 0x11), (Instr.accAck p, 0x12)] →
    (portAt s p).rx.getD 2 [] = f :: fs → h = hdrOf f → h.type = type →
    ((portAt s p).out.find? fun r => r.tag = h.tag && r.type + 0x0F = h.type) = some r → partState s (corePart r.core) ≠ 2 →
    (((ctxAt s (ctxId r.core r.ctx)).q r.q).live.find? fun w => w.k = r.k && w.works) = some w →
    (h.status = 0 → (∀ o e, e ∈ (portAt s o).out → e.core = r.core → e.ctx = r.ctx → e.q = r.q → e.k = r.k → o = p ∧ e.tag = r.tag) →
      ∃ t, exec i s = .next t ∧ Ended r.core r.ctx r.q r.k (poisonStat (w.bad || h.poison != 0)) t ∧ (portAt t p).rx.getD 2 [] = fs ∧
        (portAt t p).out = (portAt s p).out.filter fun e => e.tag != r.tag) ∧
    (h.status = 0x20 → ∃ t, exec i s = .next t ∧ (portAt t p).rx.getD 2 [] = fs ∧
      (portAt t p).out = ((portAt s p).out.map fun e => if e.tag = r.tag then { e with retry := true } else e) ∧ Only [.ports] s t) ∧
    (h.status ≠ 0 → h.status ≠ 0x20 → ∃ t, exec i s = .next t ∧ Ended r.core r.ctx r.q r.k .fault t ∧
      (portAt t p).out = (portAt s p).out.filter fun e =>
        e.tag != r.tag && !(e.held && e.core = r.core && e.ctx = r.ctx && e.q = r.q && e.k = r.k))) ∧
  ∀ (p k x src : Nat) (ctr : Bool) (f : List Byte) (fs : List (List Byte)) (h : Hdr) (s : State), s.Ok → (portAt s p).rx.getD 1 [] = f :: fs →
    h = hdrOf f → k = h.dpart → x = bits h.dva 11 0 → ctr = decide (bit h.dva 12 = 1) → src = h.src → partBusy s (p / 8) = false →
    (k = 4 ∨ (k < 4 ∧ partServes s k = true)) →
    (inRemoteWindow s k ctr x = true → x < seraiCap k (if ctr then 1 else 0) → (seraiAt s k).held = [] → bit h.dva 15 = 0 →
      ∃ t, exec (.signal p) s = .next t ∧ (portAt t p).rx.getD 1 [] = fs ∧
        (∀ k' i, flagAt t k' i = if ctr = false ∧ (k', i) = (k, x) then decide (bits h.dva 14 13 = 0) else flagAt s k' i) ∧
        (∀ k' i, ctrAt t k' i = if ctr = true ∧ (k', i) = (k, x)
          then (if bits h.dva 14 13 = 0 then ctrAt s k' i + bits h.dva 63 32 else bits h.dva 63 32) % 2 ^ 32 else ctrAt s k' i) ∧
        (∀ k' i, barAt t k' i = barAt s k' i) ∧ Only [.serais, .ports] s t) ∧
    (inRemoteWindow s k ctr x = true → x < seraiCap k (if ctr then 1 else 0) → (seraiAt s k).held.length < heldCap k → bit h.dva 15 = 1 →
      epochAtOrBefore h.dseq (rd s (portPage p) .evlLanded) = false →
      ∃ t e, exec (.signal p) s = .next t ∧ (portAt t p).rx.getD 1 [] = fs ∧ (seraiAt t k).held = (seraiAt s k).held ++ [e] ∧ e.src = src ∧
        e.idx = x ∧ e.counter = ctr ∧ e.wait = some h.dseq ∧ (∀ k' i, flagAt t k' i = flagAt s k' i ∧ ctrAt t k' i = ctrAt s k' i) ∧
        Only [.regSerai, .serais, .ports] s t) ∧
    (inRemoteWindow s k ctr x = false → ∃ t, exec (.signal p) s = .next t ∧ (portAt t p).rx.getD 1 [] = fs ∧ t.serais = s.serais ∧
      rd t (seraiPage k) .seraiRemoteRejected = min (2 ^ 32 - 1) (rd s (seraiPage k) .seraiRemoteRejected + 1))

/-- Membership of the fabric. A HELLO in training stores the partner's identity, address and firmware mark. JOIN or PRESENT of an
unknown address other than the device's own makes it PRESENT with its identity and reached through the port, and a JOIN is answered by
PRESENT while the device speaks; the same address with another identity becomes CONFLICT. LEAVE, or the last REACH timing out, makes it
ABSENT, and MBR_CLEAR clears a CONFLICT. The timer sends PRESENT, and MBR_LEAVE sends LEAVE and ends speaking, on every port that flows.
A write of SELF_ADDR makes that address SELF with the device's identity, unless the page is locked. -/
def Obligations.Membership : Prop :=
  (∀ (p pg : Nat) (f : List Byte) (s : State), p < 32 → pg = portPage p → mgmtFrame s p 0x30 = some f → portState s p = 2 →
    ∃ t, exec (.hello p) s = .next t ∧ (portAt t p).hello = true ∧ rd t pg .evlPartnerId = fieldAt f 32 63 0 ∧
      rd t pg .evlPartnerAddr = fieldAt f 32 75 64 ∧ rd t pg .evlPartnerFwd = fieldAt f 32 80 80 ∧
      (portAt t p).rx.getD 3 [] = ((portAt s p).rx.getD 3 []).drop 1 ∧ Only [.regEvl, .ports] s t) ∧
  (∀ (p type a id : Nat) (i : Instr) (f : List Byte) (s : State), s.Ok → p < 32 → (i, type) ∈ [(Instr.join p, 0x31), (Instr.present p, 0x32)] →
    mgmtFrame s p type = some f → a = fieldAt f 32 75 64 → id = fieldAt f 32 63 0 → (rd s (portPage 0) .evlSelfValid = 1 → a ≠ selfAddr s) →
    ((memberAt s a).st = 0 → ∃ t, exec i s = .next t ∧ memberAt t a = ⟨1, id⟩ ∧ reachOf t p a = true ∧ bit (rd t (portPage p) .hdrIrqStat) 17 = 1 ∧
      (∀ b, b ≠ a → memberAt t b = memberAt s b) ∧
      (type = 0x31 → speaks s = true → (portAt t p).tx.getD 3 [] = (portAt s p).tx.getD 3 [] ++ [memberFrame 0x32 a false s])) ∧
    ((memberAt s a).st = 1 → (memberAt s a).id = id → ∃ t, exec i s = .next t ∧ t.members = s.members ∧ reachOf t p a = true) ∧
    ((memberAt s a).st = 1 → (memberAt s a).id ≠ id → ∃ t, exec i s = .next t ∧ memberAt t a = ⟨2, (memberAt s a).id⟩ ∧
      bit (rd t (portPage p) .hdrIrqStat) 18 = 1 ∧ ∀ b, b ≠ a → memberAt t b = memberAt s b)) ∧
  (∀ (p a : Nat) (f : List Byte) (s : State), s.Ok → p < 32 → mgmtFrame s p 0x33 = some f → a = fieldAt f 32 75 64 →
    (memberAt s a).st = 1 ∨ (memberAt s a).st = 2 →
    ∃ t, exec (.leave p) s = .next t ∧ memberAt t a = ⟨0, 0⟩ ∧ reachOf t p a = false ∧ ∀ b, b ≠ a → memberAt t b = memberAt s b) ∧
  (∀ (type : Nat) (i : Instr) (s : State), (i, type) ∈ [(Instr.presentTimer, 0x32), (Instr.mbrLeave, 0x33)] →
    (speaks s = true → ∃ t, exec i s = .next t ∧ (type = 0x33 → t.left = true) ∧ (type = 0x32 → t.left = s.left) ∧
      (∀ p, p < 32 → (portAt t p).tx.getD 3 [] = (portAt s p).tx.getD 3 [] ++ (if portFlows s p = true then [memberFrame type 0 true s] else [])) ∧
      t.members = s.members) ∧
    (speaks s = false → exec i s = .next s)) ∧
  (∀ (p a : Nat) (s : State), s.Ok → p < 32 →
    ((∃ o, o < 32 ∧ o ≠ p ∧ reachOf s o a = true) → ∃ t, exec (.reachTimeout p a) s = .next t ∧ reachOf t p a = false ∧ t.members = s.members) ∧
    ((memberAt s a).st = 1 → (∀ o, o < 32 → o ≠ p → reachOf s o a = false) →
      ∃ t, exec (.reachTimeout p a) s = .next t ∧ reachOf t p a = false ∧ memberAt t a = ⟨0, 0⟩ ∧ ∀ b, b ≠ a → memberAt t b = memberAt s b)) ∧
  (∀ (p v : Nat) (s : State), s.Ok → p < 32 → v < 4096 → unitReachable s (portUnit p) = true →
    (rd s (portPage p) .hdrLocked = 0 → ∃ t, exec (.selfAddrWrite p v) s = .next t ∧ selfAddr t = v ∧ rd t (portPage 0) .evlSelfValid = 1 ∧
      memberAt t v = ⟨3, devId⟩ ∧ ∀ b, b ≠ v → b ≠ selfAddr s → memberAt t b = memberAt s b) ∧
    (rd s (portPage p) .hdrLocked = 1 → v ≠ selfAddr s → exec (.selfAddrWrite p v) s = .next (wr (portPage p) .hdrLockViolation 1 s))) ∧
  ∀ (p : Nat) (s : State), s.Ok → p < 32 → unitReachable s (portUnit p) = true → (memberAt s (rd s (portPage p) .evlMbrSel)).st = 2 →
    ∃ t, exec (.mbrClear p) s = .next t ∧ memberAt t (rd s (portPage p) .evlMbrSel) = ⟨0, 0⟩ ∧
      ∀ b, b ≠ rd s (portPage p) .evlMbrSel → memberAt t b = memberAt s b

/-- Laser bays. A cartridge goes through its states: seated with BAY_EN it is WARMING with its heater on, then LOCKING, then ACTIVE,
which lights the engines it feeds and starts training of their DARK ports; PREPARE takes an ACTIVE one to PREPARING unless that would
darken an engine and FORCE is 0, its end to SAFE, CANCEL back to LOCKING; a lock that times out or a fault ends in FAULT with the cause
logged; removal ends in EMPTY with no presence and no power. PREPARE of one that is not ACTIVE is a BAD_WRITE. -/
def Obligations.LaserBays : Prop :=
  (∀ (b pg : Nat) (s : State), s.Ok → b < 4 → pg = bayPage b →
    (cartState s b ≠ 3 → exec (.prepare b) s = .next (wr pg .hdrBadWrite 1 s)) ∧
    (cartState s b = 3 → rd s pg .bayForce = 1 → ∃ t, exec (.prepare b) s = .next t ∧ cartState t b = 4 ∧ bit (rd t pg .hdrIrqStat) 16 = 1 ∧
      (∀ o, o < 4 → o ≠ b → cartState t o = cartState s o)) ∧
    (cartState s b = 3 → rd s pg .bayForce = 0 → (∀ o, o < 4 → cartState s o = 3) → ∃ t, exec (.prepare b) s = .next t ∧ cartState t b = 4) ∧
    (cartState s b = 3 → rd s pg .bayForce = 0 → (∃ e, e < 8 ∧ (((feedBays e).1 = b ∧ cartState s (feedBays e).2 ≠ 3) ∨
        ((feedBays e).2 = b ∧ cartState s (feedBays e).1 ≠ 3))) →
      exec (.prepare b) s = .next (logErr pg 1 0x01 0 s)) ∧
    (cartState s b = 4 → ∃ t, exec (.prepareDone b) s = .next t ∧ cartState t b = 5 ∧ bit (rd t pg .hdrIrqStat) 17 = 1 ∧
      ∀ i, i < 4 → rdi t pg .bayPower i = 0) ∧
    (cartState s b = 5 → ∃ t, exec (.cancel b) s = .next t ∧ cartState t b = 2 ∧ ∀ o, o < 4 → o ≠ b → cartState t o = cartState s o) ∧
    (∀ id hours, rd s pg .bayPresent = 0 → id < 2 ^ Fld.bayCartId.row.width → hours < 2 ^ Fld.bayHours.row.width →
      ∃ t, exec (.cartInsert b id hours) s = .next t ∧ rd t pg .bayPresent = 1 ∧ rd t pg .bayLatchClosed = 1 ∧ rd t pg .bayCartId = id ∧
        rd t pg .bayHours = hours ∧ (rd s pg .bayBayEn = 1 → cartState t b = 1 ∧ rd t pg .bayHeaterOn = 1) ∧
        (rd s pg .bayBayEn = 0 → cartState t b = cartState s b)) ∧
    (∃ t, exec (.cartRemove b) s = .next t ∧ cartState t b = 0 ∧ rd t pg .bayPresent = 0 ∧ rd t pg .bayLatchClosed = 0 ∧ rd t pg .bayHeaterOn = 0 ∧
      ∀ i, i < 4 → rdi t pg .bayPower i = 0) ∧
    (cartState s b = 1 → ∃ t, exec (.warmingDone b) s = .next t ∧ cartState t b = 2 ∧ rd t pg .bayHeaterOn = 0) ∧
    (cartState s b = 2 → ∃ t, exec (.lockDone b) s = .next t ∧ cartState t b = 3 ∧
      (∀ e, e < 8 → ((feedBays e).1 = b → rd t (oeUnit e).page .optFeed0Ok = 1) ∧ ((feedBays e).2 = b → rd t (oeUnit e).page .optFeed1Ok = 1)) ∧
      ∀ p, p < 32 → portState s p = 1 → ((feedBays (engineOf p)).1 = b ∨ (feedBays (engineOf p)).2 = b) → portState t p = 2) ∧
    (cartState s b = 2 → rd s pg .hdrErrValid = 0 → ∃ t, exec (.lockTimeout b) s = .next t ∧ cartState t b = 6 ∧ rd t pg .hdrErrCode = 2) ∧
    (∀ cause, 1 ≤ cartState s b → cartState s b ≤ 5 → ∃ t, exec (.cartFault b cause) s = .next t ∧ cartState t b = 6 ∧
      rd t pg .hdrErrValid = 1 ∧ (∀ i, i < 4 → rdi t pg .bayPower i = 0) ∧
      (cartState s b = 3 → ∀ e, e < 8 → ((feedBays e).1 = b → rd t (oeUnit e).page .optFeed0Ok = 0) ∧
        ((feedBays e).2 = b → rd t (oeUnit e).page .optFeed1Ok = 0))))

/-- Host links, HDM decoders, CXL.mem, the memory BAR and the snoop filter. PERST_DEASSERT with the host PHY on starts training of a
link that is DOWN; a training link comes up as CXL or as PCIe only and sets IRQ_STAT.LINK; a link that goes down decodes nothing more.
HDM_COMMIT decodes when the link runs CXL, the interleave is legal and the other function's decoder agrees, and nothing otherwise, with
a commit error. Reads and writes through the memory BAR and CXL.mem of quiet columns deliver and store exactly the bytes; accesses that
are not served now enter the queues of their channels; the reserved space and the loader buffer answer Unsupported Request or log; a
partition that resets holds them, one out of service, or P3, answers poison or logs. A line that the host keeps enters the snoop filter;
a BAR access of it is held while it is back-invalidated, and BACK_INVALIDATE_DONE takes it out. A snoop is answered RspI. Which width
code a link reports is an operand (log entry 10). The DETAIL that a logged access stores, and how a queued read is divided, are the
model's choice (log entries 75, 83). -/
def Obligations.HostLinks : Prop :=
  (∀ (link width : Nat) (cxl : Bool) (s : State), s.Ok → link < 2 → width < 16 →
    (linkState s link = 1 → ∃ t, exec (.linkUp link cxl width) s = .next t ∧ linkState t link = (if cxl then 3 else 2) ∧
      rdi t pgHif .hifLinkWidth link = width ∧ bit (rd t pgHif .hdrIrqStat) 16 = 1 ∧
      RegsBut [(pgHif, .hifLinkState, link), (pgHif, .hifLinkWidth, link), (pgHif, .hdrIrqStat, 0)] s t ∧ Only [.outbox, .regIrq, .regHif] s t) ∧
    (linkState s link ≠ 1 → exec (.linkUp link cxl width) s = .next s) ∧
    (linkState s link ≠ 0 → ∃ t, exec (.linkDown link) s = .next t ∧ linkState t link = 0 ∧ linkState t (1 - link) = linkState s (1 - link) ∧
      hdmAt t link = none ∧ bit (rd t pgHif .hdrIrqStat) 16 = 1 ∧ (∀ l, l ≠ link → hdmAt t l = hdmAt s l) ∧
      (s.sess = [] → RegsBut [(pgHif, .hifLinkState, link), (pgHif, .hifLinkWidth, link), (pgHif, .hdrIrqStat, 0)] s t ∧
        Only [.outbox, .regIrq, .regHif, .hdm] s t)) ∧
    (linkState s link = 0 → exec (.linkDown link) s = .next s) ∧
    (phyOn s = true → linkState s link = 0 → ∃ t, exec (.perstDeassert link) s = .next t ∧ t.perst.contains link = true ∧ linkState t link = 1 ∧
      bit (rd t pgHif .hdrIrqStat) 16 = 1 ∧ Only [.outbox, .regIrq, .regHif, .perst] s t) ∧
    ((phyOn s = false ∨ linkState s link ≠ 0) → ∃ t, exec (.perstDeassert link) s = .next t ∧ t.perst.contains link = true ∧ Only [.perst] s t)) ∧
  (∀ (link base size ways gran : Nat) (h : Hdm) (s : State), s.Ok → link < 2 →
    h = { base := base, size := size, ways := ways, gran := gran } →
    (linkState s link = 3 → (ways = 1 ∨ ways = 2) → gran ∈ [256, 512, 1024, 2048, 4096, 8192, 16384] →
      (∀ o, hdmAt s (1 - link) = some o → o = h) →
      ∃ t, exec (.hdmCommit link base size ways gran) s = .next t ∧ hdmAt t link = some h ∧ hdmAt t (1 - link) = hdmAt s (1 - link) ∧ Only [.hdm] s t) ∧
    ((linkState s link ≠ 3 ∨ (ways ≠ 1 ∧ ways ≠ 2) ∨ gran ∉ [256, 512, 1024, 2048, 4096, 8192, 16384] ∨ ∃ o, hdmAt s (1 - link) = some o ∧ o ≠ h) →
      ∃ t, exec (.hdmCommit link base size ways gran) s = .next t ∧ hdmAt t link = none ∧ hdmAt t (1 - link) = hdmAt s (1 - link) ∧
        t.outbox = s.outbox ++ [.commitError link] ∧ Only [.outbox, .hdm] s t)) ∧
  (∀ (dpa len c : Nat) (s : State), s.Ok → regionOf s.variant dpa = .dram → inDram s.variant dpa len = true → pstate s ≠ 3 → c = locate s dpa →
    0 < len → dpa % 32 + len ≤ 32 →
    (hostGate s true dpa len false = .go → memQuiet s c → ∃ t, exec (.membarRead dpa len) s = .next t ∧
      t.outbox = s.outbox ++ [.memData ((List.range len).map fun i => dramByteAt s (c * 32 + dpa % 32 + i)) false] ∧ t.dram = s.dram ∧
      t.dramChk = s.dramChk ∧ t.snoop = s.snoop) ∧
    (hostGate s true dpa len false = .held → exec (.membarRead dpa len) s = .next s) ∧
    (hostGate s true dpa len false = .queue → exec (.membarRead dpa len) s = .next (queueRead dpa len s)) ∧
    (hostGate s true dpa len false = .snoop [dpa / 64] → dpa / 64 ∉ s.biWait → dpa / 64 ∈ s.snoop → exec (.membarRead dpa len) s =
      .next { s with biWait := s.biWait ++ [dpa / 64], outbox := s.outbox ++ [.backInvalidate (dpa / 64)] }) ∧
    (partState s (partOfStack (dpa / 2 ^ stackBits s.variant)) = 4 → ∃ t bs, exec (.membarRead dpa len) s = .next t ∧
      t.outbox = s.outbox ++ [.memData bs true] ∧ t.dram = s.dram ∧ RegsBut [] s t) ∧
    (partBusy s (partOfStack (dpa / 2 ^ stackBits s.variant)) = true → exec (.membarRead dpa len) s = .next s)) ∧
  (∀ (dpa c : Nat) (data : List Byte) (s : State), s.Ok → regionOf s.variant dpa = .dram → inDram s.variant dpa data.length = true → pstate s ≠ 3 →
    c = locate s dpa → data ≠ [] → dpa % 32 + data.length ≤ 32 →
    (hostGate s true dpa data.length true = .go → memQuiet s c → ∃ t, exec (.membarWrite dpa data false) s = .next t ∧
      (∀ i, i < data.length → dramByteAt t (c * 32 + dpa % 32 + i) = data.getD i 0) ∧
      (∀ a, (a < c * 32 + dpa % 32 ∨ c * 32 + dpa % 32 + data.length ≤ a) → dramByteAt t a = dramByteAt s a) ∧
      (∀ e, colChk t e = colChk s e) ∧ t.outbox = s.outbox ∧ t.snoop = s.snoop) ∧
    (hostGate s true dpa data.length true = .go → memQuiet s c → ∃ t, exec (.membarWrite dpa data true) s = .next t ∧
      colChk t c = some (segOf (colBytes t c) segPoison) ∧ (∀ e, e ≠ c → colChk t e = colChk s e) ∧
      ∀ a, (a < c * 32 + dpa % 32 ∨ c * 32 + dpa % 32 + data.length ≤ a) → dramByteAt t a = dramByteAt s a) ∧
    (∀ pb, hostGate s true dpa data.length true = .queue → exec (.membarWrite dpa data pb) s = .next (queueStore dpa data pb s)) ∧
    (∀ pb, partState s (partOfStack (dpa / 2 ^ stackBits s.variant)) = 4 → exec (.membarWrite dpa data pb) s = .next (badAccess 1 dpa s)) ∧
    (∀ pb, partBusy s (partOfStack (dpa / 2 ^ stackBits s.variant)) = true → exec (.membarWrite dpa data pb) s = .next s)) ∧
  (∀ (dpa len : Nat) (data : List Byte) (pb : Bool) (s : State), s.Ok →
    (pstate s = 3 → exec (.membarRead dpa len) s = .next { s with outbox := s.outbox ++ [.unsupported] } ∧
      exec (.membarWrite dpa data pb) s = .next (badAccess 1 dpa s)) ∧
    (pstate s ≠ 3 → (regionOf s.variant dpa = .reserved ∨ regionOf s.variant dpa = .loaderBuffer) →
      exec (.membarRead dpa len) s = .next { s with outbox := s.outbox ++ [.unsupported] } ∧
      exec (.membarWrite dpa data pb) s = .next (badAccess 2 dpa s))) ∧
  (∀ (link dpa a c d : Nat) (keeps : Bool) (s : State), s.Ok → a = 64 * (dpa / 64) → c = locate s a → d = locate s (a + 32) →
    (hdmDecodes s link (dpa / 64) = false → ∀ data pb, exec (.cxlMemRead link dpa keeps) s = .next s ∧
      exec (.cxlMemWrite link dpa data pb keeps) s = .next s) ∧
    (hdmDecodes s link (dpa / 64) = true → inDram s.variant a 64 = false → ∀ data pb,
      exec (.cxlMemRead link dpa keeps) s = .next { s with outbox := s.outbox ++ [.unsupported] } ∧
      exec (.cxlMemWrite link dpa data pb keeps) s = .next (badAccess 2 a s)) ∧
    (hdmReaches s link (dpa / 64) = true → pstate s = 3 → (∀ data pb, exec (.cxlMemWrite link dpa data pb keeps) s = .next (badAccess 1 a s)) ∧
      ∃ t bs, exec (.cxlMemRead link dpa keeps) s = .next t ∧ t.outbox = s.outbox ++ [.memData bs true] ∧ RegsBut [] s t) ∧
    (hdmReaches s link (dpa / 64) = true → pstate s ≠ 3 → memQuiet s c → memQuiet s d → (keeps = true → snoopFull s (dpa / 64) = false) →
      hostGate s false a 64 false = .go →
      ∃ t, exec (.cxlMemRead link dpa keeps) s = .next t ∧
        t.outbox = s.outbox ++ [.memData ((List.range 64).map fun i => dramByteAt s ((if i < 32 then c else d) * 32 + i % 32)) false] ∧
        t.dram = s.dram ∧ t.dramChk = s.dramChk ∧ (keeps = true → dpa / 64 ∈ t.snoop) ∧ (keeps = false → t.snoop = s.snoop) ∧
        (∀ l, l ≠ dpa / 64 → (l ∈ t.snoop ↔ l ∈ s.snoop))) ∧
    (hdmReaches s link (dpa / 64) = true → pstate s ≠ 3 → memQuiet s c → memQuiet s d → hostGate s false a 64 true = .go →
      ∀ data : List Byte, data.length = 64 → ∃ t, exec (.cxlMemWrite link dpa data false keeps) s = .next t ∧
        (∀ i, i < 64 → dramByteAt t ((if i < 32 then c else d) * 32 + i % 32) = data.getD i 0) ∧
        (∀ x, x / 32 ≠ c → x / 32 ≠ d → dramByteAt t x = dramByteAt s x) ∧ (∀ e, colChk t e = colChk s e) ∧ t.outbox = s.outbox ∧
        (keeps = true → dpa / 64 ∈ t.snoop) ∧ (keeps = false → dpa / 64 ∉ s.biWait → dpa / 64 ∉ t.snoop) ∧
        (∀ l, l ≠ dpa / 64 → (l ∈ t.snoop ↔ l ∈ s.snoop)))) ∧
  ∀ (link line : Nat) (s : State), s.Ok →
    (line ∈ s.biWait → ∃ t, exec (.backInvalidateDone line) s = .next t ∧ line ∉ t.snoop ∧ line ∉ t.biWait ∧
      (∀ l, l ≠ line → (l ∈ t.snoop ↔ l ∈ s.snoop)) ∧ Only [.snoop, .biWait] s t) ∧
    (line ∉ s.biWait → exec (.backInvalidateDone line) s = .next s) ∧
    (linkState s link = 3 → exec (.cxlSnoop link) s = .next { s with outbox := s.outbox ++ [.rspI] }) ∧
    (linkState s link ≠ 3 → exec (.cxlSnoop link) s = .next s)

/-- Faults, fences, resets, replay, escalation and re-admission. A partition-fatal fault of a unit of a partition in service takes it to
FENCING, fences its units, names the source, and counts the recovery; in FENCING or RESETTING it only joins; a bulk-fatal one takes the
stack OFFLINE. RESET_GO starts a recovery, or ends a fence that waited for it. The end of the drain interrupts every running context,
whose journal then awaits replay, and leaves no flight; the channels train. Sampling and channel restores are noted; a channel that
fails is FAILED. RESETTING ends in REPLAYING, in service with nothing to replay, or out of service after a failed restore or at
ESC_LIMIT. A replayed journal is LIVE again, one refused counts in NOT_REPLAYED; the last one ends the recovery. READMIT and its end
bring a partition back, unless a channel does not train, which is then FAILED, or the self-test fails. A window that expires counts from
0. Which self-test fails and which channels do not train are operands (log entry 57). -/
def Obligations.FaultsAndRecovery : Prop :=
  (∀ (page code detail n : Nat) (u : UnitId) (s : State), s.Ok → unitAt page = some u → u.partition = some n → n < 4 → u.block ≠ .blk → u.block ≠ .evl →
    pstate s ≠ 3 →
    (partState s n = 0 ∨ partState s n = 3 → ∃ t r, exec (.partitionFatal page code detail) s = .next t ∧ partState t n = 1 ∧
      rd t pgFlt .fltLastSrc = u.page ∧ rd t pgFlt .fltLastCode = code % 256 ∧ rd t pgFlt .fltLastEpoch = epochNow s ∧
      rdi t pgFlt .fltResetsWin n = min 255 (rdi s pgFlt .fltResetsWin n + 1) ∧ t.winOpen.contains n = true ∧ recovAt t n = some r ∧
      r.src = u.page ∧ r.code = code % 256 ∧ (r.waitGo = true ↔ rd s pgFlt .fltAutoReset = 0) ∧ bit (rd t pgFlt .hdrIrqStat) 16 = 1 ∧
      (∀ v, v ∈ (UnitId.part n).all → rd t v.page .hdrFenced = 1) ∧ rd t u.page .hdrErrValid = 1 ∧
      (rd s u.page .hdrErrValid = 0 → rd t u.page .hdrErrSeverity = 2 ∧ rd t u.page .hdrErrCode = code % 256) ∧
      (∀ m, m < 4 → m ≠ n → partState t m = partState s m) ∧ t.runs = s.runs ∧ t.dram = s.dram ∧ t.spad = s.spad) ∧
    (partBusy s n = true → ∃ t, exec (.partitionFatal page code detail) s = .next t ∧
      rd t pgFlt .fltJoined = satAdd (2 ^ Fld.fltJoined.row.width - 1) (rd s pgFlt .fltJoined) 1 ∧ (∀ m, partState t m = partState s m) ∧
      Only [.outbox, .regIrq, .regErr, .regRcv, .regFlt] s t) ∧
    (partState s n = 4 → exec (.partitionFatal page code detail) s = .next s)) ∧
  (∀ (d code detail : Nat) (s : State), s.Ok → d < 8 → ∃ t, exec (.bulkFatal d code detail) s = .next t ∧ rd t (blkPage d) .blkBlkState = 3 ∧
    rd t (blkPage d) .hdrErrValid = 1 ∧ (∀ m, partState t m = partState s m) ∧ Only [.outbox, .regIrq, .regErr, .regFlt, .regRcv, .regBlk] s t) ∧
  (∀ (n : Nat) (s : State), s.Ok → n < 4 →
    (partState s n = 0 ∨ partState s n = 3 → ∃ t r, exec (.resetGo n) s = .next t ∧ partState t n = 1 ∧ bit (rd t pgFlt .fltResetGo) n = 1 ∧
      recovAt t n = some r ∧ r.src = pgFlt ∧ r.waitGo = false ∧ r.oos = none ∧ rdi t pgFlt .fltResetsWin n = min 255 (rdi s pgFlt .fltResetsWin n + 1)) ∧
    (∀ r, partState s n = 1 → recovAt s n = some r → r.waitGo = true → ∃ t, exec (.resetGo n) s = .next t ∧ partState t n = 2) ∧
    (∀ r, partState s n = 1 → recovAt s n = some r → r.waitGo = false → ∃ t, exec (.resetGo n) s = .next t ∧ bit (rd t pgFlt .fltResetGo) n = 1 ∧
      RegsBut [(pgFlt, .fltResetGo, 0)] s t) ∧
    (partState s n = 4 → exec (.resetGo n) s = .next s) ∧
    (∀ r, partState s n = 1 → recovAt s n = some r → r.waitGo = false → ∃ t, exec (.drainEnd n) s = .next t ∧ partState t n = 2 ∧
      (∀ id, id / 160 = n → (ctxAt s id).st = .running ∨ (ctxAt s id).st = .binding →
        (ctxAt t id).journal = 2 ∧ ∀ q, q < 8 → ((ctxAt t id).q q).live = []) ∧
      (∀ f, f ∈ t.flights → corePart f.core ≠ n) ∧
      (∀ ck, ck / 96 = n → (chanAt t ck).st = (if (chanAt s ck).st = .failed then .failed else .training)) ∧
      (∀ g, g / 40 = n → spadAt t g = {}) ∧ 9 ≤ rdi t pgClk .clkCoreStep n ∧ ∀ m, m < 4 → m ≠ n → partState t m = partState s m) ∧
    (∀ r, partState s n = 1 → recovAt s n = some r → r.waitGo = true → exec (.drainEnd n) s = .next s) ∧
    (∀ r, partState s n = 2 → recovAt s n = some r → r.sampled = false → ∃ t, exec (.scratchpadSamplingDone n) s = .next t ∧
      recovAt t n = some { r with sampled := true } ∧ ∀ m, partState t m = partState s m) ∧
    (partState s n ≠ 2 → exec (.scratchpadSamplingDone n) s = .next s)) ∧
  (∀ (d c n ck : Nat) (r : Recov) (s : State), s.Ok → d < 12 → c < 32 → n = partOfStack d → ck = ckOf d c → recovAt s n = some r → partState s n = 2 →
    r.sampled = true → ck ∉ r.restored →
    (∃ t, exec (.channelRestoreDone d c true) s = .next t ∧ recovAt t n = some { r with restored := r.restored ++ [ck] } ∧ Only [.recov] s t) ∧
    ∃ t, exec (.channelRestoreDone d c false) s = .next t ∧ recovAt t n = some { r with restored := r.restored ++ [ck], oos := some 1 } ∧
      (chanAt t ck).st = .failed ∧ bit (rd t (mcPage ck) .hdrIrqStat) 19 = 1 ∧ rd t (mcPage ck) .hdrErrValid = 1 ∧ rd t pgFlt .hdrErrValid = 1 ∧
      ∀ o, o ≠ ck → (chanAt t o).st = (chanAt s o).st) ∧
  (∀ (n : Nat) (r : Recov) (s : State), s.Ok → setsOnly s → n < 4 → resetReady s n = true → recovAt s n = some r → s.ops = [] →
    (r.oos ≠ none → ∃ t, exec (.partResetDone n) s = .next t ∧ partState t n = 4 ∧ recovAt t n = none) ∧
    (r.oos = none → r.commanded = true → ∃ t, exec (.partResetDone n) s = .next t ∧ partState t n = 0 ∧ recovAt t n = none ∧
      bit (rd t pgFlt .fltResetGo) n = 0 ∧ bit (rd t pgFlt .hdrIrqStat) 17 = 1) ∧
    (r.oos = none → r.commanded = false → rd s pgFlt .fltEscLimit ≤ rdi s pgFlt .fltResetsWin n →
      ∃ t, exec (.partResetDone n) s = .next t ∧ partState t n = 4 ∧ bit (rd t pgFlt .hdrIrqStat) 18 = 1) ∧
    (r.oos = none → r.commanded = false → rdi s pgFlt .fltResetsWin n < rd s pgFlt .fltEscLimit →
      ∃ t, exec (.partResetDone n) s = .next t ∧ partState t n = (if awaiting s n = [] then 0 else 3) ∧ bit (rd t pgFlt .hdrIrqStat) 17 = 1 ∧
        (awaiting s n = [] → recovAt t n = none) ∧ ∀ m, m < 4 → m ≠ n → partState t m = partState s m)) ∧
  (∀ (n : Nat) (s : State), resetReady s n = false → exec (.partResetDone n) s = .next s) ∧
  (∀ (g c n id : Nat) (s : State), s.Ok → g < 160 → c < 4 → n = corePart g → id = ctxId g c → partState s n = 3 → (ctxAt s id).journal = 2 →
    ((ctxAt s id).st = .running ∨ (ctxAt s id).st = .binding → (ctxAt s id).noReplay = 0 → (ctxAt s id).gens = [] →
      ∃ t, exec (.ctxReplayed g c) s = .next t ∧ ctxAt t id = { ctxAt s id with journal := 1, intr := none } ∧
        (∀ o, o ≠ id → ctxAt t o = ctxAt s o) ∧
        rd t pgFlt .fltReplayed = satAdd (2 ^ Fld.fltReplayed.row.width - 1) (rd s pgFlt .fltReplayed) 1 ∧
        (awaiting s n = [id] → partState t n = 0 ∧ recovAt t n = none) ∧ ((∃ o, o ≠ id ∧ o ∈ awaiting s n) → partState t n = 3)) ∧
    (∀ r, setsOnly s → (ctxAt s id).st = .running ∨ (ctxAt s id).st = .binding → (ctxAt s id).noReplay ≠ 0 → runAt s (ctxAt s id).run = some r → id ∈ r.ctxs →
      ∃ t, exec (.ctxReplayed g c) s = .next t ∧ (ctxAt t id).journal ≠ 2 ∧ bit (rd t pgFlt .hdrIrqStat) 21 = 1 ∧
        rd t pgFlt .fltNotReplayed = satAdd (2 ^ Fld.fltNotReplayed.row.width - 1) (rd s pgFlt .fltNotReplayed) 1)) ∧
  ∀ (n : Nat) (s : State), s.Ok → n < 4 →
    (partState s n = 4 → ∃ t, exec (.readmit n) s = .next t ∧ bit (rd t pgFlt .fltReadmit) n = 1 ∧ RegsBut [(pgFlt, .fltReadmit, 0)] s t) ∧
    (partState s n ≠ 4 → exec (.readmit n) s = .next s ∧ ∀ ok bad, exec (.readmitDone n ok bad) s = .next s) ∧
    (∀ bad : List Nat, partState s n = 4 → bit (rd s pgFlt .fltReadmit) n = 1 → (∀ ck, ck ∈ bad → ck / 96 ≠ n) →
      ∃ t, exec (.readmitDone n true bad) s = .next t ∧ partState t n = 0 ∧
      bit (rd t pgFlt .fltReadmit) n = 0 ∧ rdi t pgFlt .fltResetsWin n = 0 ∧
      rd t pgFlt .fltDevService = min 2 ((List.range 4).filter fun m => partState t m = 4).length ∧ ∀ m, m < 4 → m ≠ n → partState t m = partState s m) ∧
    (∀ ok (bad : List Nat), partState s n = 4 → bit (rd s pgFlt .fltReadmit) n = 1 → (ok = false ∨ ∃ ck, ck ∈ bad ∧ ck / 96 = n) →
      ∃ t, exec (.readmitDone n ok bad) s = .next t ∧ partState t n = 4 ∧ bit (rd t pgFlt .fltReadmit) n = 0 ∧
        ∀ ck, ck ∈ bad → ck / 96 = n → (chanAt t ck).st = .failed) ∧
    (n ∈ s.winOpen → ∃ t, exec (.escWindowExpire n) s = .next t ∧ rdi t pgFlt .fltResetsWin n = 0 ∧ n ∉ t.winOpen ∧
      RegsBut [(pgFlt, .fltResetsWin, n)] s t ∧ Only [.regRcv, .winOpen] s t) ∧
    (n ∉ s.winOpen → exec (.escWindowExpire n) s = .next s)

/-- The spine, the device reset and the power states. A masked spine fault counts in SPINE_MISMATCH and starts a resync, or leaves one
comparator; a second one during the resync resets the device. A device reset ends every session, run and context, loses the memories,
keeps the SPDM sessions, keys, sealed segments and the fields that outlive it, and returns every other register to its reset value.
PS_GO, D3hot, D0 and SPDM PSTATE request a power state: BUSY while a transition runs or, for P1 to P3, while contexts or loads exist;
done at once in the state itself; started otherwise. PSTATE_DONE enters the target; a request that passes through P0 goes on. PART_OOS
of PWR and SPDM take a partition out of service, where they are enabled and allowed. Which fields outlive a device reset is partly read
from the spec by inference (log entry 56). -/
def Obligations.SpineAndPowerStates : Prop :=
  (∀ (cycle : Nat) (comparator : Bool) (s : State), s.Ok →
    ((rd s pgFlt .fltSpineResync = 1 ∨ (comparator = true ∧ s.compBad = true)) → exec (.spineSingleFault comparator cycle) s = exec .deviceReset s) ∧
    (rd s pgFlt .fltSpineResync = 0 → (comparator = true → s.compBad = false) → ∃ t, exec (.spineSingleFault comparator cycle) s = .next t ∧
      rd t pgFlt .fltSpineResync = (if comparator then 0 else 1) ∧ t.compBad = (comparator || s.compBad) ∧
      rd t pgFlt .fltSpineMismatch = satAdd (2 ^ Fld.fltSpineMismatch.row.width - 1) (rd s pgFlt .fltSpineMismatch) 1 ∧
      bit (rd t pgFlt .hdrIrqStat) 20 = 1 ∧ (∀ m, partState t m = partState s m) ∧ t.ctxs = s.ctxs ∧ t.runs = s.runs)) ∧
  (∀ (s : State), s.Ok → ∃ t, exec .spineResyncDone s = .next t ∧ rd t pgFlt .fltSpineResync = 0 ∧ RegsBut [(pgFlt, .fltSpineResync, 0)] s t) ∧
  (∀ (id : Nat) (s : State), s.Ok → exec (.spineStorageError none) s = exec .deviceReset s ∧
    (setsOnly s → id < 640 → (ctxAt s id).st ≠ .free → (ctxAt s id).journal ≠ 0 → ∃ t, exec (.spineStorageError (some id)) s = .next t ∧
      rd t pgFlt .fltNotReplayed = satAdd (2 ^ Fld.fltNotReplayed.row.width - 1) (rd s pgFlt .fltNotReplayed) 1 ∧
      ∀ r, runAt t (ctxAt s id).run = some r → r.notReplay ≠ none) ∧
    ((640 ≤ id ∨ (ctxAt s id).st = .free ∨ (ctxAt s id).journal = 0) → exec (.spineStorageError (some id)) s = .next s)) ∧
  (∀ (s : State), s.Ok → ∃ t, exec .deviceReset s = .next t ∧ t.pending = s.pending ∧ t.outbox = s.outbox ∧ t.variant = s.variant ∧ t.ctxs = [] ∧
    t.runs = [] ∧ t.sess = [] ∧ t.loadQ = [] ∧ t.loading = none ∧ t.dram = [] ∧ t.spad = [] ∧ t.chans = [] ∧ t.serais = [] ∧ t.ops = [] ∧
    t.spdm = s.spdm ∧ t.keys = s.keys ∧ t.psks = s.psks ∧ t.update = s.update ∧ (∀ n, (droverAt t n).segs = (droverAt s n).segs) ∧
    bootStage t = 2 ∧ debugLevel t = (if lcState s = 2 then 2 else 0) ∧
    bit (rd t pgMgt .mgtFwRun) 1 = bit (rd s pgMgt .mgtFwBank) 1 ∧
    (∀ p f i, f ∈ deviceKeeps → f ≠ .secDbgLevel → f ≠ .mgtFwRun → rdi t p f i = rdi s p f i) ∧
    ∀ p f i, f ∉ deviceKeeps → f ≠ .mgtBootStage → rdi t p f i = regReset (homePage p f) f (i % 16384)) ∧
  (∀ (q : Nat) (s : State), s.Ok → q = rd s pgPwr .pwrPstateReq → rd s pgPwr .pwrPsGo = 0 →
    ((psMoving s = true ∨ (q ≠ 0 ∧ q ≠ pstate s ∧ psEntryOk s = false)) → ∃ t, exec .psGo s = .next t ∧ rd t pgPwr .pwrPsResult = 1 ∧
      rd t pgPwr .pwrPsGo = 0 ∧ RegsBut [(pgPwr, .pwrPsResult, 0), (pgPwr, .pwrPsGo, 0)] s t ∧ Only [.regPwr] s t) ∧
    (psMoving s = false → q = pstate s → ∃ t, exec .psGo s = .next t ∧ rd t pgPwr .pwrPsResult = 0 ∧ rd t pgPwr .pwrPsGo = 0 ∧ Only [.regPwr] s t) ∧
    (psMoving s = false → q ≠ pstate s → (q = 0 ∨ psEntryOk s = true) → ∃ t, exec .psGo s = .next t ∧ pstate t = pstate s ∧ rd t pgPwr .pwrPsGo = 1 ∧
      (pstate s = 0 ∨ q = 0 → rd t pgPwr .pwrPstateTgt = q ∧ t.psNext = none) ∧
      (pstate s ≠ 0 → q ≠ 0 → rd t pgPwr .pwrPstateTgt = 0 ∧ t.psNext = some q))) ∧
  (∀ (s : State), rd s pgPwr .pwrPsGo = 1 → exec .psGo s = .next s) ∧
  (∀ (link : Nat) (s : State), s.Ok → link < 2 →
    (1 - link ∈ s.d3 → pstate s = 0 → psMoving s = false → psEntryOk s = true → ∃ t, exec (.d3hot link) s = .next t ∧ link ∈ t.d3 ∧
      rd t pgPwr .pwrPstateTgt = 3 ∧ pstate t = 0) ∧
    (1 - link ∉ s.d3 → ∃ t, exec (.d3hot link) s = .next t ∧ link ∈ t.d3 ∧ Only [.d3] s t) ∧
    (pstate s = 0 → ∃ t, exec (.d0 link) s = .next t ∧ link ∉ t.d3 ∧ Only [.d3] s t) ∧
    (pstate s ≠ 0 → psMoving s = false → ∃ t, exec (.d0 link) s = .next t ∧ link ∉ t.d3 ∧ rd t pgPwr .pwrPstateTgt = 0 ∧ pstate t = pstate s)) ∧
  (∀ (q : Nat) (s : State), s.Ok → q = rd s pgPwr .pwrPstateTgt →
    (q = pstate s → exec .pstateDone s = .next s) ∧
    (q ≠ pstate s → 1 ≤ q → q ≤ 4 → ∃ t, exec .pstateDone s = .next t ∧ pstate t = q ∧ rd t pgPwr .pwrPsGo = 0 ∧ rd t pgPwr .pwrPsResult = 0 ∧
      bit (rd t pgPwr .hdrIrqStat) 16 = 1 ∧ (q = 2 ∨ q = 4 → t.spad = [] ∧ t.spads = [] ∧ t.engines = []) ∧
      (q = 3 → ∀ b, b < 4 → cartState t b ≠ 3) ∧ (q = 4 → bootStage t = 1 ∧ t.dram = [] ∧ t.sess = [])) ∧
    (setsOnly s → q ≠ pstate s → q = 0 → (pstate s ≠ 4 ∨ bootStage s = 9) → s.ops = [] →
      (s.psNext = none → ∃ t, exec .pstateDone s = .next t ∧ pstate t = 0 ∧ rd t pgPwr .pwrPsGo = 0 ∧ rd t pgPwr .pwrPsResult = 0) ∧
      (∀ a, s.psNext = some a → a < 8 → psEntryOk s = true → ∃ t, exec .pstateDone s = .next t ∧ pstate t = 0 ∧ t.psNext = none ∧
        rd t pgPwr .pwrPstateTgt = a) ∧
      (∀ a, s.psNext = some a → psEntryOk s = false → ∃ t, exec .pstateDone s = .next t ∧ pstate t = 0 ∧ t.psNext = none ∧
        rd t pgPwr .pwrPsResult = 1 ∧ rd t pgPwr .pwrPsGo = 0)) ∧
    (q = 0 → pstate s = 4 → bootStage s ≠ 9 → exec .pstateDone s = .next s)) ∧
  (∀ (n : Nat) (s : State), s.Ok → setsOnly s → n < 4 →
    (rd s pgPwr .pwrOosEn = 1 → partState s n ≠ 4 → ∃ t, exec (.pwrPartOos n) s = .next t ∧ partState t n = 4 ∧ recovAt t n = none ∧
      bit (rd t pgFlt .hdrIrqStat) 18 = 1 ∧ (∀ m, m < 4 → m ≠ n → partState t m = partState s m) ∧
      rd t pgFlt .fltDevService = min 2 ((List.range 4).filter fun m => partState t m = 4).length) ∧
    ((rd s pgPwr .pwrOosEn = 0 ∨ partState s n = 4) → exec (.pwrPartOos n) s = .next s)) ∧
  ∀ (k n : Nat) (x : SpdmSess) (s : State), s.Ok → setsOnly s → mgmtUp s = true → spdmOpen s k = some x →
    (x.role < 2 → lcState s < 3 → n < 4 → partState s n ≠ 4 → ∃ t, exec (.spdmPartOos k n) s = .next t ∧ partState t n = 4 ∧ Sent (.spdm 0 [0]) s t) ∧
    (x.role < 2 → lcState s < 3 → 4 ≤ n → exec (.spdmPartOos k n) s = .next { s with outbox := s.outbox ++ [.spdm 0 [3]] }) ∧
    (x.role < 2 → lcState s = 3 → exec (.spdmPartOos k n) s = .next { s with outbox := s.outbox ++ [.spdm 0 [2]] }) ∧
    (x.role = 2 → exec (.spdmPartOos k n) s = .next { s with outbox := s.outbox ++ [.spdm 0 [1]] } ∧
      exec (.spdmPstate k n) s = .next { s with outbox := s.outbox ++ [.spdm 0 [1]] }) ∧
    (x.role < 2 → lcState s < 4 → 5 ≤ n → exec (.spdmPstate k n) s = .next { s with outbox := s.outbox ++ [.spdm 0 [3]] }) ∧
    (x.role < 2 → lcState s < 4 → n < 5 → pstate s ≠ 4 → psMoving s = false → n ≠ pstate s → (n = 0 ∨ psEntryOk s = true) →
      ∃ t, exec (.spdmPstate k n) s = .next t ∧ pstate t = pstate s ∧ Sent (.spdm 0 [0]) s t ∧
        (pstate s = 0 ∨ n = 0 → rd t pgPwr .pwrPstateTgt = n) ∧ (pstate s ≠ 0 → n ≠ 0 → t.psNext = some n)) ∧
    (x.role < 2 → lcState s < 4 → n < 5 → pstate s ≠ 4 → (psMoving s = true ∨ (n ≠ 0 ∧ n ≠ pstate s ∧ psEntryOk s = false)) →
      ∃ t, exec (.spdmPstate k n) s = .next t ∧ rd t pgPwr .pwrPsResult = 1 ∧ Sent (.spdm 0 [4]) s t ∧ Only [.outbox, .regPwr] s t)

/-- SPDM requests and sessions. While the management controller runs: GET_VERSION answers 1.3, GET_CAPABILITIES and NEGOTIATE_ALGORITHMS
answer, anything unsupported is an ERROR UnsupportedRequest. PSK_EXCHANGE with the hint of a role that has a key and is not locked opens
the lowest free of four sessions, any other is an ERROR. A good PSK_FINISH completes the session and clears the role's failures; a bad
one ends it, logs it, and the eighth in a row locks the role until the lockout ends. KEY_UPDATE, HEARTBEAT, END_SESSION and
GET_MEASUREMENTS answer inside a completed session only; a heartbeat that lapses, or END_SESSION, ends it. The codes of the answers are
the model's choice (log entry 39), and the digests are free values. -/
def Obligations.SpdmSessions : Prop :=
  (∀ (i : Instr) (m : Msg) (s : State), (i, m) ∈ [(Instr.getVersion, Msg.spdm 0 [0x13]), (Instr.getCapabilities, .spdm 0 []),
      (Instr.negotiateAlgorithms, .spdm 0 []), (Instr.spdmUnsupported, .spdm 0xFF [0x07])] →
    (mgmtUp s = true → exec i s = .next { s with outbox := s.outbox ++ [m] }) ∧ (mgmtUp s = false → exec i s = .next s)) ∧
  (∀ (hint k r : Nat) (s : State), s.Ok → mgmtUp s = true → r = hint - 1 →
    (1 ≤ hint → hint ≤ 3 → r ∉ s.pskLocked → rolePsk s r = true → k < 4 → spdmAt s k = none → (∀ j, j < k → spdmAt s j ≠ none) →
      ∃ t, exec (.pskExchange hint) s = .next t ∧ spdmAt t k = some { role := r } ∧ (∀ j, j ≠ k → spdmAt t j = spdmAt s j) ∧
        t.outbox = s.outbox ++ [.spdm 0 [BitVec.ofNat 8 k]] ∧ Only [.outbox, .spdm] s t) ∧
    ((hint = 0 ∨ 3 < hint ∨ r ∈ s.pskLocked ∨ rolePsk s r = false ∨ ∀ j, j < 4 → spdmAt s j ≠ none) →
      exec (.pskExchange hint) s = .next { s with outbox := s.outbox ++ [.spdm 0xFF []] })) ∧
  (∀ (k : Nat) (x : SpdmSess) (s : State), s.Ok → spdmAt s k = some x → x.finished = false →
    (∃ t, exec (.pskFinish k true) s = .next t ∧ spdmAt t k = some { x with finished := true } ∧ failsOf t x.role = 0 ∧
      (∀ j, j ≠ k → spdmAt t j = spdmAt s j) ∧ t.outbox = s.outbox ++ [.spdm 0 []] ∧ Only [.outbox, .spdm, .pskFails] s t) ∧
    ∃ t, exec (.pskFinish k false) s = .next t ∧ spdmAt t k = none ∧ (∀ j, j ≠ k → spdmAt t j = spdmAt s j) ∧ Sent (.spdm 0xFF []) s t ∧
      rd t pgSec .hdrErrValid = 1 ∧ (failsOf s x.role < 7 → failsOf t x.role = failsOf s x.role + 1 ∧ t.pskLocked = s.pskLocked) ∧
      (7 ≤ failsOf s x.role → failsOf t x.role = 0 ∧ x.role ∈ t.pskLocked ∧ ∀ r, r ≠ x.role → (r ∈ t.pskLocked ↔ r ∈ s.pskLocked))) ∧
  (∀ (k : Nat) (ok : Bool) (s : State), mgmtUp s = true → (∀ x, spdmAt s k = some x → x.finished = true) →
    exec (.pskFinish k ok) s = .next { s with outbox := s.outbox ++ [.spdm 0xFF []] }) ∧
  (∀ (role : Nat) (s : State), ∃ t, exec (.pskLockoutEnd role) s = .next t ∧ role ∉ t.pskLocked ∧
    (∀ r, r ≠ role → (r ∈ t.pskLocked ↔ r ∈ s.pskLocked)) ∧ Only [.pskLocked] s t) ∧
  (∀ (k : Nat) (x : SpdmSess) (s : State), s.Ok → spdmOpen s k = some x →
    (mgmtUp s = true → ∀ i, i ∈ [Instr.keyUpdate k, Instr.heartbeat k] → exec i s = .next { s with outbox := s.outbox ++ [.spdm 0 []] }) ∧
    (∃ t, exec (.heartbeatLapse k) s = .next t ∧ spdmAt t k = none ∧ (∀ j, j ≠ k → spdmAt t j = spdmAt s j) ∧ Only [.spdm] s t) ∧
    (mgmtUp s = true → ∃ t, exec (.endSession k) s = .next t ∧ spdmAt t k = none ∧ (∀ j, j ≠ k → spdmAt t j = spdmAt s j) ∧
      t.outbox = s.outbox ++ [.spdm 0 []] ∧ Only [.outbox, .spdm] s t) ∧
    (∀ index, mgmtUp s = true → 1 ≤ index → index ≤ 9 → ∃ t bs, exec (.getMeasurements k index) s = .next t ∧ bs.length = 48 ∧
      t.outbox = s.outbox ++ [.spdm 0 bs] ∧ Only [.outbox, .freeCtr] s t) ∧
    (∀ index, mgmtUp s = true → (index = 0 ∨ 9 < index) →
      exec (.getMeasurements k index) s = .next { s with outbox := s.outbox ++ [.spdm 0xFF []] })) ∧
  ∀ (k index : Nat) (s : State), spdmOpen s k = none → exec (.heartbeatLapse k) s = .next s ∧
    (mgmtUp s = true → ∀ i, i ∈ [Instr.keyUpdate k, Instr.heartbeat k, Instr.endSession k, Instr.getMeasurements k index] →
      exec i s = .next { s with outbox := s.outbox ++ [.spdm 0xFF []] })

/-- Keys, life cycle, debug levels, UNLOCK_ALL and PLDM effecters and sensors. The commands of an OWNER session in BLANK or SECURED:
KEY_SET stores a manifest key, KEY_CLEAR removes one, PSK_SET stores a role's key, DBG_SET sets the debug level, and the measured state
counts on in MEAS_GEN; leaving level 2 takes every unit out of its test mode. They are refused by role, then state, then argument, and
change nothing. LC_ADVANCE along an allowed transition, confirmed with DEV_ID, stores the state, ends every SPDM session and resets the
device; toward RMA or DECOMMISSIONED it erases keys and segments and makes a zero fill due. UNLOCK_ALL clears every lock of a domain in
service at debug level 2 and is counted as denied at a lower one. PLDM requests the power state, takes a partition out of service and
reads a sensor where it is allowed. The codes of the answers are the model's choice (log entry 39). -/
def Obligations.KeysAndLifeCycle : Prop :=
  (∀ (k slot g : Nat) (key : List Byte) (x : SpdmSess) (s : State), s.Ok → mgmtUp s = true → spdmOpen s k = some x → x.role = 0 → lcState s < 2 →
    g = (rd s pgSec .secMeasGen + 1) % 2 ^ 32 →
    (slot < 16 → key.length = 48 → ∃ t, exec (.keySet k slot key) s = .next t ∧ keyAt t slot = some key ∧
      (∀ o, o ≠ slot → keyAt t o = keyAt s o) ∧ rd t pgSec .secMeasGen = g ∧ (keyAt s slot = none → bit (rd t pgSec .hdrIrqStat) 17 = 1) ∧
      Sent (.spdm 0 [0]) s t ∧ Only [.outbox, .regIrq, .regSec, .keys, .setCount] s t) ∧
    (slot < 16 → ∃ t, exec (.keyClear k slot) s = .next t ∧ keyAt t slot = none ∧ (∀ o, o ≠ slot → keyAt t o = keyAt s o) ∧
      rd t pgSec .secMeasGen = (if keyAt s slot = none then rd s pgSec .secMeasGen else g) ∧ Sent (.spdm 0 [0]) s t ∧
      Only [.outbox, .regIrq, .regSec, .keys] s t) ∧
    (slot < 3 → key.length = 48 → ∃ t, exec (.pskSet k slot key) s = .next t ∧ pskAt t slot = some key ∧
      (∀ o, o ≠ slot → pskAt t o = pskAt s o) ∧ rd t pgSec .secMeasGen = g ∧ (pskAt s slot = none → bit (rd t pgSec .hdrIrqStat) 17 = 1) ∧
      Sent (.spdm 0 [0]) s t ∧ Only [.outbox, .regIrq, .regSec, .psks, .setCount] s t) ∧
    (slot < 3 → debugLevel s ≠ slot → ∃ t, exec (.dbgSet k slot) s = .next t ∧ debugLevel t = slot ∧ rd t pgSec .secMeasGen = g ∧
      bit (rd t pgSec .hdrIrqStat) 16 = 1 ∧ Sent (.spdm 0 [0]) s t ∧ (debugLevel s = 2 → ∀ p, p < 16384 → rdi t pgFlt .fltTestMode p = 0) ∧
      (debugLevel s ≠ 2 → Only [.outbox, .regIrq, .regSec] s t)) ∧
    (slot < 3 → debugLevel s = slot → exec (.dbgSet k slot) s = .next { s with outbox := s.outbox ++ [.spdm 0 [0]] }) ∧
    ((16 ≤ slot ∨ key.length ≠ 48) → exec (.keySet k slot key) s = .next { s with outbox := s.outbox ++ [.spdm 0 [3]] }) ∧
    (16 ≤ slot → exec (.keyClear k slot) s = .next { s with outbox := s.outbox ++ [.spdm 0 [3]] }) ∧
    ((3 ≤ slot ∨ key.length ≠ 48) → exec (.pskSet k slot key) s = .next { s with outbox := s.outbox ++ [.spdm 0 [3]] }) ∧
    (3 ≤ slot → exec (.dbgSet k slot) s = .next { s with outbox := s.outbox ++ [.spdm 0 [3]] })) ∧
  (∀ (k slot : Nat) (key : List Byte) (i : Instr) (s : State),
    i ∈ [Instr.keySet k slot key, Instr.keyClear k slot, Instr.pskSet k slot key, Instr.dbgSet k slot] → mgmtUp s = true →
    (spdmOpen s k = none → exec i s = .next { s with outbox := s.outbox ++ [.spdm 0xFF []] }) ∧
    (∀ x, spdmOpen s k = some x → x.role ≠ 0 → exec i s = .next { s with outbox := s.outbox ++ [.spdm 0 [1]] }) ∧
    (∀ x, spdmOpen s k = some x → x.role = 0 → 2 ≤ lcState s → exec i s = .next { s with outbox := s.outbox ++ [.spdm 0 [2]] })) ∧
  (∀ (k target devid : Nat) (x : SpdmSess) (s : State), s.Ok → mgmtUp s = true → spdmOpen s k = some x → x.role = 0 →
    (lcState s < 3 → target ≤ 3 → lcAllowed s target = true → devid = devId → ∃ t, exec (.lcAdvance k target devid) s = .next t ∧
      lcState t = target ∧ t.spdm = [] ∧ t.ctxs = [] ∧ t.dram = [] ∧ bootStage t = 2 ∧ Sent (.spdm 0 [0]) s t ∧
      (target = 1 → t.keys = s.keys ∧ t.psks = s.psks ∧ t.zeroDue = s.zeroDue) ∧
      (2 ≤ target → t.keys = [] ∧ pskAt t 0 = none ∧ pskAt t 1 = none ∧ pskAt t 2 = pskAt s 2 ∧ t.zeroDue = true ∧
        ∀ n, (droverAt t n).segs = [])) ∧
    (lcState s < 3 → target ≤ 3 → lcAllowed s target = false →
      exec (.lcAdvance k target devid) s = .next { s with outbox := s.outbox ++ [.spdm 0 [2]] }) ∧
    (lcState s < 3 → (3 < target ∨ (lcAllowed s target = true ∧ devid ≠ devId)) →
      exec (.lcAdvance k target devid) s = .next { s with outbox := s.outbox ++ [.spdm 0 [3]] }) ∧
    (3 ≤ lcState s → exec (.lcAdvance k target devid) s = .next { s with outbox := s.outbox ++ [.spdm 0 [2]] })) ∧
  (∀ (s : State), s.Ok →
    (debugLevel s = 2 → ∃ t, exec .unlockAll s = .next t ∧ (∀ p, domainServes s p = true → rd t p .hdrLocked = 0) ∧
      (∀ p, domainServes s p = false → rd t p .hdrLocked = rd s p .hdrLocked) ∧ (∀ p f i, f ≠ .hdrLocked → rdi t p f i = rdi s p f i)) ∧
    (debugLevel s ≠ 2 → ∃ t, exec .unlockAll s = .next t ∧ rd t pgSec .secDenied = satAdd (2 ^ Fld.secDenied.row.width - 1) (rd s pgSec .secDenied) 1 ∧
      rd t pgSec .hdrErrValid = 1 ∧ ∀ p, rd t p .hdrLocked = rd s p .hdrLocked)) ∧
  (∀ (sess : Option Nat) (n : Nat) (s : State), s.Ok → setsOnly s → mgmtUp s = true →
    (pldmOk s sess = false → ∀ i, i ∈ [Instr.pldmPowerEffecter sess n, Instr.pldmOosEffecter sess n, Instr.pldmSensorRead sess n] →
      exec i s = .next { s with outbox := s.outbox ++ [.pldm 1 0] }) ∧
    (pldmOk s sess = true → n ≤ 4 → pstate s ≠ 4 → psMoving s = false → n ≠ pstate s → (n = 0 ∨ psEntryOk s = true) →
      ∃ t, exec (.pldmPowerEffecter sess n) s = .next t ∧ pstate t = pstate s ∧ Sent (.pldm 0 0) s t ∧
        (pstate s = 0 ∨ n = 0 → rd t pgPwr .pwrPstateTgt = n) ∧ (pstate s ≠ 0 → n ≠ 0 → t.psNext = some n)) ∧
    (pldmOk s sess = true → n ≤ 4 → pstate s ≠ 4 → (psMoving s = true ∨ (n ≠ 0 ∧ n ≠ pstate s ∧ psEntryOk s = false)) →
      ∃ t, exec (.pldmPowerEffecter sess n) s = .next t ∧ rd t pgPwr .pwrPsResult = 1 ∧ Sent (.pldm 1 0) s t ∧ Only [.outbox, .regPwr] s t) ∧
    (pldmOk s sess = true → n < 4 → partState s n ≠ 4 → ∃ t, exec (.pldmOosEffecter sess n) s = .next t ∧ partState t n = 4 ∧ Sent (.pldm 0 0) s t) ∧
    (pldmOk s sess = true → n < 476 → sensPresent s.variant n = true →
      exec (.pldmSensorRead sess n) s = .next { s with outbox := s.outbox ++ [.pldm 0 (sensRead s n)] }) ∧
    (pldmOk s sess = true → n = 476 → exec (.pldmSensorRead sess n) s = .next { s with outbox := s.outbox ++ [.pldm 0 (rd s pgPwr .pwrInputW)] }) ∧
    (pldmOk s sess = true → (476 < n ∨ sensPresent s.variant n = false ∧ n < 476) →
      exec (.pldmSensorRead sess n) s = .next { s with outbox := s.outbox ++ [.pldm 1 0] })) ∧
  ∀ (i : Instr) (k n m : Nat) (key : List Byte) (o : Option Nat) (s : State), mgmtUp s = false →
    i ∈ [Instr.keySet k n key, Instr.keyClear k n, Instr.pskSet k n key, Instr.dbgSet k n, Instr.lcAdvance k n m, Instr.pldmPowerEffecter o n,
      Instr.pldmOosEffecter o n, Instr.pldmSensorRead o n] → exec i s = .next s

/-- The supply, the limit ladder, the fast clamp and the power steps. Undervoltage raises SUPPLY_STEP to 15; on recovery it is the
lowest step whose limit does not exceed what 80 A carry. A supply collapse is a thermal shutdown into P4 with its record; overvoltage
and a withdrawal lose everything but what is nonvolatile; a rail fault resets the device. The fast clamp divides every core clock
outside RESETTING to 0.6 GHz or less. EFF_STEP moves one step toward the highest of the four requests. POWER_ENFORCE stores the averages
and, in P0, lowers one setting above the limit (core clock, DUTY, BU_GAP, in that order), raises one in the reverse order after 5 ms at
120 W below it, and leaves them otherwise. LIMIT_UNMET interrupts only at the lowest settings. THERM_STEP rises while a part is at its
throttle threshold and falls while every part is 5 °C below it. -/
def Obligations.SupplyAndSteps : Prop :=
  (∀ (s : State), s.Ok → ∃ t, exec .supplyUndervoltage s = .next t ∧ rd t pgPwr .pwrSupplyStep = 15 ∧ t.supplyLow = true ∧
    bit (rd t pgPwr .hdrIrqStat) 18 = 1 ∧ RegsBut [(pgPwr, .pwrSupplyStep, 0), (pgPwr, .hdrIrqStat, 0)] s t ∧
    Only [.outbox, .regIrq, .regPwr, .supplyLow] s t) ∧
  (∀ (mv : Nat) (s : State), s.Ok →
    (s.supplyLow = true → ∃ t k, exec (.supplyRecovered mv) s = .next t ∧ rd t pgPwr .pwrSupplyStep = k ∧ t.supplyLow = false ∧
      (k = 15 ∨ (3600 - 180 * k) * 1000 ≤ mv * 80) ∧ (∀ j, j < k → mv * 80 < (3600 - 180 * j) * 1000) ∧
      RegsBut [(pgPwr, .pwrSupplyStep, 0)] s t ∧ Only [.regPwr, .supplyLow] s t) ∧
    (s.supplyLow = false → exec (.supplyRecovered mv) s = .next s)) ∧
  (∀ (s : State), s.Ok → (∃ t, exec .supplyCollapse s = .next t ∧ pstate t = 4 ∧ bootStage t = 1 ∧ rd t pgPwr .hdrErrValid = 1 ∧
      rd t pgPwr .hdrErrCode = 1 ∧ rd t pgPwr .hdrErrSeverity = 2 ∧ rd t pgThm .thmTrips = 1 ∧ t.dram = [] ∧ t.ctxs = [] ∧ t.spdm = s.spdm ∧
      t.keys = s.keys) ∧
    (∀ i, i ∈ [Instr.overvoltage, Instr.moduleWithdraw] → ∃ t, exec i s = .next t ∧ bootStage t = 0 ∧ t.spdm = [] ∧ t.update = none ∧ t.remaps = [] ∧
      t.dram = [] ∧ t.ctxs = [] ∧ t.keys = s.keys ∧ t.psks = s.psks ∧ t.repairLog = s.repairLog ∧ (∀ n, (droverAt t n).segs = (droverAt s n).segs) ∧
      rd t pgMgt .mgtFwBank = rd s pgMgt .mgtFwBank ∧ lcState t = lcState s) ∧
    (∃ t, exec .railFault s = .next t ∧ t = deviceReset s ∧ bootStage t = 2 ∧ t.ctxs = [] ∧ t.runs = [] ∧ t.sess = [] ∧ t.dram = [] ∧ t.spdm = s.spdm ∧
      t.keys = s.keys)) ∧
  (∀ (s : State), s.Ok →
    (s.clamp = none → ∃ t, exec .fastClamp s = .next t ∧ t.clamp = some false ∧ bit (rd t pgPwr .hdrIrqStat) 19 = 1 ∧
      (∀ n, n < 4 → partState s n ≠ 2 → rdi t pgClk .clkCoreTgt n = 0 ∧
        SMap.get (fun _ => 0) t.divided n = (if rdi s pgClk .clkCoreStep n = 0 then 0 else (rdi s pgClk .clkCoreStep n + 11) / 6)) ∧
      (∀ n, n < 4 → partState s n = 2 → rdi t pgClk .clkCoreTgt n = rdi s pgClk .clkCoreTgt n) ∧
      Only [.outbox, .regIrq, .regPwr, .regClk, .clamp, .divided] s t) ∧
    (s.clamp ≠ none → exec .fastClamp s = .next s) ∧
    (s.clamp = some true → ∃ t, exec .fastClampRelease s = .next t ∧ t.clamp = none ∧ Only [.clamp] s t) ∧
    (s.clamp ≠ some true → exec .fastClampRelease s = .next s)) ∧
  (∀ (v : Nat) (s : State), s.Ok → v < 16 → ∃ t, exec (.hostStepWrite v) s = .next t ∧ rd t pgPwr .pwrHostStep = v ∧
    RegsBut [(pgPwr, .pwrHostStep, 0)] s t ∧ Only [.regPwr] s t) ∧
  (∀ (e k : Nat) (s : State), s.Ok → e = rd s pgPwr .pwrEffStep →
    k = max (max (rd s pgPwr .pwrHostStep) (rd s pgPwr .pwrMgmtStep)) (max (rd s pgPwr .pwrThermStep) (rd s pgPwr .pwrSupplyStep)) →
    (pstate s = 0 → e ≠ k → ∃ t, exec .stepMove s = .next t ∧ rd t pgPwr .pwrEffStep = (if e < k then e + 1 else e - 1) ∧
      bit (rd t pgPwr .hdrIrqStat) 20 = 1 ∧ (t.clamp = none ↔ s.clamp = none) ∧ (s.clamp ≠ none → t.clamp = some true) ∧
      RegsBut [(pgPwr, .pwrEffStep, 0), (pgPwr, .hdrIrqStat, 0)] s t) ∧
    ((pstate s ≠ 0 ∨ e = k) → exec .stepMove s = .next s)) ∧
  (∀ (w mv ca energy limit top : Nat) (subs : List Nat) (s : State), s.Ok → w < 65536 → mv < 65536 → ca < 65536 → (∀ x, x ∈ subs → x < 65536) →
    limit = 3600 - 180 * rd s pgPwr .pwrEffStep → top = min s.coreSet (rd s pgClk .clkClkMax) →
    ∃ t, exec (.powerEnforce w mv ca subs energy) s = .next t ∧ rd t pgPwr .pwrInputW = w ∧ rd t pgPwr .pwrInputMv = mv ∧ rd t pgPwr .pwrInputCa = ca ∧
      rd t pgPwr .pwrEnergyMj = satAdd (2 ^ 64 - 1) (rd s pgPwr .pwrEnergyMj) energy ∧ (∀ i, i < 8 → rdi t pgPwr .pwrSubW i = subs.getD i 0) ∧
      rdi t pgPwr .pwrSubW 8 = w - ((List.range 8).map fun i => subs.getD i 0).sum ∧
      rd t pgPwr .pwrSupplyStep = (if s.supplyLow then 15 else supplyStep mv) ∧
      (pstate s ≠ 0 → t.coreSet = s.coreSet ∧ rd t pgPwr .pwrDuty = rd s pgPwr .pwrDuty ∧ rd t pgPwr .pwrBuGap = rd s pgPwr .pwrBuGap) ∧
      (pstate s = 0 → limit < w → t.lowMs = 0 ∧ t.coreSet = top - 1 ∧
        rd t pgPwr .pwrDuty = (if 0 < top ∨ rd s pgPwr .pwrDuty ≤ 1 then rd s pgPwr .pwrDuty else rd s pgPwr .pwrDuty - 1) ∧
        rd t pgPwr .pwrBuGap = (if 0 < top ∨ 1 < rd s pgPwr .pwrDuty ∨ 70 ≤ rd s pgPwr .pwrBuGap then rd s pgPwr .pwrBuGap else rd s pgPwr .pwrBuGap + 1)) ∧
      (pstate s = 0 → w + 120 ≤ limit → s.lowMs < 4 → t.lowMs = s.lowMs + 1 ∧ t.coreSet = top ∧ rd t pgPwr .pwrDuty = rd s pgPwr .pwrDuty ∧
        rd t pgPwr .pwrBuGap = rd s pgPwr .pwrBuGap) ∧
      (pstate s = 0 → w + 120 ≤ limit → 4 ≤ s.lowMs → t.lowMs = 5 ∧ rd t pgPwr .pwrBuGap = rd s pgPwr .pwrBuGap - 1 ∧
        rd t pgPwr .pwrDuty = (if rd s pgPwr .pwrBuGap = 0 ∧ rd s pgPwr .pwrDuty < 8 then rd s pgPwr .pwrDuty + 1 else rd s pgPwr .pwrDuty) ∧
        t.coreSet = (if rd s pgPwr .pwrBuGap = 0 ∧ 8 ≤ rd s pgPwr .pwrDuty then min (top + 1) (rd s pgClk .clkClkMax) else top)) ∧
      (pstate s = 0 → w ≤ limit → limit < w + 120 → t.lowMs = 0 ∧ t.coreSet = top ∧ rd t pgPwr .pwrDuty = rd s pgPwr .pwrDuty ∧
        rd t pgPwr .pwrBuGap = rd s pgPwr .pwrBuGap) ∧
      (∀ n, n < 4 → rdi t pgClk .clkCoreTgt n = (if pstate s = 0 ∧ clocked s n = true then
        (if s.clamp = none then min t.coreSet (rdi s pgClk .clkCoreTgt n + 1) % 16 else 0) else rdi s pgClk .clkCoreTgt n))) ∧
  (∀ (s : State), s.Ok →
    (pstate s = 0 → s.coreSet = 0 → rd s pgPwr .pwrDuty = 1 → rd s pgPwr .pwrBuGap = 70 → 3600 - 180 * rd s pgPwr .pwrEffStep < rd s pgPwr .pwrInputW →
      ∃ t, exec .limitUnmet s = .next t ∧ bit (rd t pgPwr .hdrIrqStat) 17 = 1 ∧ RegsBut [(pgPwr, .hdrIrqStat, 0)] s t) ∧
    ((pstate s ≠ 0 ∨ s.coreSet ≠ 0 ∨ rd s pgPwr .pwrDuty ≠ 1 ∨ rd s pgPwr .pwrBuGap ≠ 70) → exec .limitUnmet s = .next s)) ∧
  ∀ (k : Nat) (s : State), s.Ok → k = rd s pgPwr .pwrThermStep →
    (k < 15 → (∃ p, p < 38 ∧ throttleAt s p ≤ partHot s p) → ∃ t, exec .thermStepRaise s = .next t ∧ rd t pgPwr .pwrThermStep = k + 1 ∧
      RegsBut [(pgPwr, .pwrThermStep, 0)] s t) ∧
    ((k = 15 ∨ ∀ p, p < 38 → partHot s p < throttleAt s p) → exec .thermStepRaise s = .next s) ∧
    (0 < k → (∀ p, p < 38 → partHot s p + 20 ≤ throttleAt s p) → ∃ t, exec .thermStepLower s = .next t ∧ rd t pgPwr .pwrThermStep = k - 1 ∧
      RegsBut [(pgPwr, .pwrThermStep, 0)] s t) ∧
    ((k = 0 ∨ ∃ p, p < 38 ∧ throttleAt s p < partHot s p + 20) → exec .thermStepLower s = .next s)

/-- Temperatures and their limits, reference clocks, and bring-up. SENSOR_SAMPLE stores the readings; one outside its range or more than
10 °C off the last makes a sensor BROKEN; 105 °C in a partition holds it, 95 °C in a PIM stack holds the stack, 105 °C in the spine
region shuts the device down into P4 with its record, as does a hold that lasts 1 s. SENS_CLEAR takes a sensor back. A relocked PLL
gives the partition its target step. The loss of a host reference takes its link down, the loss of the TCXO resets the device, and a
restored host reference trains the link again. A pass of bring-up ends FAILED, waits for the temperature, or leaves the channels NORMAL,
the failed parts out of service, the failed stacks OFFLINE and each component on the bank that verifies; where neither management image
verifies only the boot ROM runs and bring-up stops. BOOT_READY makes it READY. PWR_DIS loses the module's power and empties the banks
that an update wrote. That BOOT_STAGE is 1 while the boot ROM runs alone is the model's choice (log entry 91). -/
def Obligations.ThermalAndBringUp : Prop :=
  (∀ (raws : List Int) (s : State), s.Ok → raws.length = 476 →
    ((∀ i, i < 476 → raws.getD i 0 < 280) → ∃ t, exec (.sensorSample raws) s = .next t ∧ pstate t = pstate s ∧
      (∀ i, i < 476 → sensPresent s.variant i = true → (sensAt t i).raw = raws.getD i 0 ∧ (sensAt t i).seen = true ∧
        ((sensAt s i).broken = true ∨ raws.getD i 0 < -160 ∨ ((sensAt s i).seen = true ∧ (40 < raws.getD i 0 - (sensAt s i).raw ∨
          40 < (sensAt s i).raw - raws.getD i 0)) → (sensAt t i).broken = true)) ∧
      (∀ i, sensPresent s.variant i = false → sensAt t i = sensAt s i) ∧
      ∀ d, d < 12 → (∃ i, i < 16 ∧ sensPresent s.variant (128 + 16 * d + i) = true ∧ (sensAt t (128 + 16 * d + i)).broken = false ∧
        raws.getD (128 + 16 * d + i) 0 < 0) → d ∈ t.stackHold) ∧
    (∀ i, i < 476 → sensPresent s.variant i = true → (sensAt s i).broken = false → (sensAt s i).far < 63 → raws.getD i 0 ≤ 600 →
      ((sensAt s i).seen = true → raws.getD i 0 ≤ (sensAt s i).raw + 40 ∧ (sensAt s i).raw ≤ raws.getD i 0 + 40) →
      (120 ≤ i → i < 128 → 420 ≤ raws.getD i 0 → pstate s ≠ 4 → ∃ t, exec (.sensorSample raws) s = .next t ∧ pstate t = 4 ∧ bootStage t = 1 ∧
        rd t pgThm .hdrErrValid = 1 ∧ rd t pgThm .hdrErrCode = 3 ∧ rd t pgThm .hdrErrSeverity = 2 ∧ rd t pgThm .thmTrips = 1 ∧ t.ctxs = []) ∧
      (i < 120 → 420 ≤ raws.getD i 0 → (∀ j, j < 476 → j ≠ i → raws.getD j 0 < 280) → ∃ t, exec (.sensorSample raws) s = .next t ∧
        i / 30 ∈ t.partHold ∧ pstate t = pstate s) ∧
      (128 ≤ i → i < 320 → 380 ≤ raws.getD i 0 → (∀ j, j < 476 → j ≠ i → raws.getD j 0 < 280) → ∃ t, exec (.sensorSample raws) s = .next t ∧
        (i - 128) / 16 ∈ t.stackHold ∧ pstate t = pstate s))) ∧
  (∀ (s : State), s.Ok →
    ((s.partHold ≠ [] ∨ s.stackHold ≠ []) → ∃ t, exec .holdTimeout s = .next t ∧ pstate t = 4 ∧ rd t pgThm .hdrErrCode = 3 ∧ rd t pgThm .thmTrips = 1) ∧
    (s.partHold = [] → s.stackHold = [] → exec .holdTimeout s = .next s) ∧
    (sensPresent s.variant (rd s pgThm .thmSensSel) = true → ∃ t, exec .sensClear s = .next t ∧
      sensAt t (rd s pgThm .thmSensSel) = { raw := (sensAt s (rd s pgThm .thmSensSel)).raw } ∧
      (∀ i, i ≠ rd s pgThm .thmSensSel → sensAt t i = sensAt s i) ∧ Only [.sens] s t) ∧
    (sensPresent s.variant (rd s pgThm .thmSensSel) = false → exec .sensClear s = .next s)) ∧
  (∀ (n : Nat) (s : State), s.Ok → n < 4 →
    ((∃ d, (n, d) ∈ s.divided) → ∃ t, exec (.pllRelockDone n) s = .next t ∧ rdi t pgClk .clkCoreStep n = 0 ∧ (∀ d, (n, d) ∉ t.divided) ∧
      RegsBut [(pgClk, .clkCoreStep, n)] s t) ∧
    ((∀ d, (n, d) ∉ s.divided) → partState s n = 2 → exec (.pllRelockDone n) s = .next s) ∧
    ((∀ d, (n, d) ∉ s.divided) → partState s n ≠ 2 → ∃ t, exec (.pllRelockDone n) s = .next t ∧
      rdi t pgClk .clkCoreStep n = rdi s pgClk .clkCoreTgt n ∧ RegsBut [(pgClk, .clkCoreStep, n)] s t ∧ Only [.regClk] s t)) ∧
  (∀ (w : Nat) (s : State), s.Ok → w < 4 →
    (w < 2 → ∃ t, exec (.refLoss w) s = .next t ∧ bit (rd t pgClk .clkRefOk) w = 0 ∧ linkState t w = 0 ∧
      (bit (rd s pgClk .clkRefOk) w = 1 → bit (rd t pgClk .hdrIrqStat) 16 = 1)) ∧
    (w = 2 → ∃ t, exec (.refLoss w) s = .next t ∧ bit (rd t pgClk .clkRefOk) 2 = 0 ∧ bootStage t = 2 ∧ t.ctxs = [] ∧ t.sess = []) ∧
    (∃ t, exec (.refRestored w) s = .next t ∧ bit (rd t pgClk .clkRefOk) w = 1 ∧
      (w < 2 → w ∈ s.perst → phyOn s = true → linkState s w = 0 → linkState t w = 1) ∧
      ((2 ≤ w ∨ w ∉ s.perst ∨ phyOn s = false ∨ linkState s w ≠ 0) → RegsBut [(pgClk, .clkRefOk, 0)] s t))) ∧
  (∀ (rail spine : Bool) (bad : Nat) (fp fb fc fr : List Nat) (s : State), s.Ok → setsOnly s →
    (mayBring s = false → exec (.powerOn rail spine bad fp fb fc fr) s = .next s) ∧
    (mayBring s = true → bootStage s ≤ 1 → bit bad 0 = 1 → bit bad 6 = 1 → ∃ t, exec (.powerOn rail spine bad fp fb fc fr) s = .next t ∧
      bootStage t = 1 ∧ t.romOnly = true ∧ mayBring t = false ∧ mgmtUp t = false ∧ RegsBut [(pgMgt, .mgtBootStage, 0)] s t) ∧
    (mayBring s = true → (bootStage s ≤ 1 → bit bad 0 = 0 ∨ bit bad 6 = 0) → ∃ t, exec (.powerOn rail spine bad fp fb fc fr) s = .next t ∧
      (bootStage s ≠ 10 → ∀ c, 1 ≤ c → c < 6 →
        bit (rd t pgMgt .mgtFwRun) c = (if bit bad c = 1 then 1 - bit (rd s pgMgt .mgtFwBank) c else bit (rd s pgMgt .mgtFwBank) c) ∧
        bit (rd t pgMgt .mgtFwFallback) c = bit bad c) ∧
      (bootStage s = 10 → rd t pgMgt .mgtFwRun = rd s pgMgt .mgtFwRun ∧ rd t pgMgt .mgtFwFallback = rd s pgMgt .mgtFwFallback) ∧
      (rail = false → bootStage t = 11 ∧ rd t pgMgt .mgtBootResult = 3) ∧
      (rail = true → spine = false → bootStage t = 11 ∧ rd t pgMgt .mgtBootResult = 2) ∧
      (rail = true → spine = true → coldDie s = true → bootStage t = 10) ∧
      (rail = true → spine = true → coldDie s = false → bootStage t = 8 ∧
        (∀ ck, ck < 384 → (chanAt t ck).st = (if ck ∈ fc then .failed else .normal)) ∧
        (∀ n, n < 4 → partState t n = (if n ∈ fp ∨ ∃ ck, ck ∈ fc ∧ ck / 96 = n then 4 else partState s n)) ∧
        (∀ n, n < 4 → (n ∈ fp ∨ ∃ ck, ck ∈ fc ∧ ck / 96 = n) → bit (rd t pgMgt .mgtStPartFail) n = 1) ∧
        (∀ b, b < 8 → b ∈ fb → rd t (blkPage b) .blkBlkState = 3 ∧ bit (rd t pgMgt .mgtStBulkFail) b = 1) ∧
        (∀ r, r ∈ s.repairLog → r ∈ t.remaps) ∧ t.zeroDue = false ∧
        rd t pgMgt .mgtBootResult = (if (List.range 4).any (fun n => partState t n = 4) then 1 else 0)))) ∧
  ∀ (s : State), s.Ok →
    (bootStage s = 8 → ∃ t, exec .bootReady s = .next t ∧ bootStage t = 9 ∧ bit (rd t pgMgt .hdrIrqStat) 16 = 1 ∧
      ∀ b, b < 4 → (bit (rd t pgMgt .mgtStCartFail) b = 1 ↔ cartState s b = 6)) ∧
    (bootStage s ≠ 8 → exec .bootReady s = .next s) ∧
    (∃ t, exec .pwrDisAssert s = .next t ∧ bootStage t = 0 ∧ t.update = none ∧ t.spdm = [] ∧ t.ctxs = [] ∧
      ∀ u c, s.update = some u → c < 6 → (c ∈ u.verified ∨ u.cur = some c) → rdi t pgMgt (verFld (otherBank s c)) c = 0) ∧
    (bootStage s = 0 → ∃ t, exec .pwrDisDeassert s = .next t ∧ bootStage t = 1 ∧ RegsBut [(pgMgt, .mgtBootStage, 0)] s t) ∧
    (bootStage s ≠ 0 → exec .pwrDisDeassert s = .next s)

/-- Firmware update, activation and switching. RequestUpdate opens an update where PLDM is accepted (by a boot ROM that runs alone, only
on the sideband), unless a set of the management unit is staged or an update runs. Inside one, PassComponentTable declares components,
UpdateComponent opens the inactive bank of a declared one, empties it and discards the previous set, TransferComplete ends the transfer,
VerifyComplete stores the version of a good image and leaves the bank of a bad one empty. ActivateFirmware stages the selectors of the
verified banks, or activates them at once. Outside an update they answer so. A switch of one unit is noted; the last one makes the
component run its selected bank and counts in MEAS_GEN. A channel that has waited 100 ms takes no new reservation before it has
switched. The codes of the answers are the model's choice (log entry 39). -/
def Obligations.FirmwareUpdate : Prop :=
  (∀ (sess : Option Nat) (s : State), s.Ok → fwAnswers s = true →
    (s.romOnly = false → fwOk s sess = pldmOk s sess) ∧ (s.romOnly = true → (fwOk s sess = true ↔ sess = none)) ∧
    (fwOk s sess = true → rd s pgMgt .hdrStaged = 0 → s.update = none → exec (.requestUpdate sess) s =
      .next { s with update := some {}, outbox := s.outbox ++ [.pldm 0 0] }) ∧
    (fwOk s sess = true → (rd s pgMgt .hdrStaged = 1 ∨ s.update ≠ none) →
      exec (.requestUpdate sess) s = .next { s with outbox := s.outbox ++ [.pldm 0x81 0] }) ∧
    (fwOk s sess = false → exec (.requestUpdate sess) s = .next { s with outbox := s.outbox ++ [.pldm 1 0] })) ∧
  (∀ (comps : List Nat) (c v : Nat) (b : Bool) (i : Instr) (s : State), s.update = none → fwAnswers s = true →
    i ∈ [Instr.passComponentTable comps, Instr.updateComponent c, Instr.transferComplete, Instr.verifyComplete b v, Instr.activateFirmware b] →
    exec i s = .next { s with outbox := s.outbox ++ [.pldm 0x80 0] }) ∧
  (∀ (comps : List Nat) (u : FwUpdate) (s : State), s.Ok → s.update = some u →
    ((∀ c, c ∈ comps → c < 6) → exec (.passComponentTable comps) s =
      .next { s with update := some { u with comps := comps }, outbox := s.outbox ++ [.pldm 0 0] }) ∧
    ((∃ c, c ∈ comps ∧ 6 ≤ c) → exec (.passComponentTable comps) s = .next { s with outbox := s.outbox ++ [.pldm 1 0] }) ∧
    (∀ c, c < 6 → c ∈ u.comps → u.cur = none → (s.romOnly = true ∨ bit (rd s pgMgt .mgtFwRun) c = bit (rd s pgMgt .mgtFwBank) c) → ∃ t x,
      exec (.updateComponent c) s = .next t ∧ t.update = some x ∧ x.cur = some c ∧ x.xfer = false ∧ c ∉ x.verified ∧ x.comps = u.comps ∧
      rdi t pgMgt (verFld (otherBank s c)) c = 0 ∧ rd t pgMgt .hdrPrevValid = 0 ∧ (∀ w, w ∈ t.prevSet → w.page ≠ pgMgt) ∧
      t.outbox = s.outbox ++ [.pldm 0 0] ∧ RegsBut [(pgMgt, verFld (otherBank s c), c), (pgMgt, .hdrPrevValid, 0)] s t) ∧
    (∀ c, c < 6 → (c ∉ u.comps ∨ u.cur ≠ none ∨ (s.romOnly = false ∧ bit (rd s pgMgt .mgtFwRun) c ≠ bit (rd s pgMgt .mgtFwBank) c)) →
      exec (.updateComponent c) s = .next { s with outbox := s.outbox ++ [.pldm 1 0] }) ∧
    (u.cur ≠ none → exec .transferComplete s = .next { s with update := some { u with xfer := true }, outbox := s.outbox ++ [.pldm 0 0] }) ∧
    (u.cur = none → exec .transferComplete s = .next { s with outbox := s.outbox ++ [.pldm 1 0] }) ∧
    (∀ c v, u.cur = some c → u.xfer = true → c < 6 → v < 2 ^ 32 → ∃ t x, exec (.verifyComplete true v) s = .next t ∧ t.update = some x ∧
      x.cur = none ∧ x.verified = u.verified ++ [c] ∧ rdi t pgMgt (verFld (otherBank s c)) c = v ∧ t.outbox = s.outbox ++ [.pldm 0 0] ∧
      RegsBut [(pgMgt, verFld (otherBank s c), c)] s t) ∧
    (∀ c v, u.cur = some c → u.xfer = true → c < 6 → ∃ t x, exec (.verifyComplete false v) s = .next t ∧ t.update = some x ∧ x.cur = none ∧
      x.verified = u.verified ∧ rdi t pgMgt (verFld (otherBank s c)) c = 0 ∧ t.outbox = s.outbox ++ [.pldm 1 0]) ∧
    (∀ ok v, (u.cur = none ∨ u.xfer = false) → exec (.verifyComplete ok v) s = .next { s with outbox := s.outbox ++ [.pldm 1 0] }) ∧
    (u.cur = none → u.verified ≠ [] → ∃ t, exec (.activateFirmware false) s = .next t ∧ t.update = none ∧ rd t pgMgt .hdrStaged = 1 ∧
      (∃ w, w ∈ t.staging ∧ w.page = pgMgt ∧ w.fld = .mgtFwBank ∧ w.idx = 0 ∧
        ∀ c, c < 6 → bit w.val c = (if c ∈ u.verified then otherBank s c else bit (rd s pgMgt .mgtFwBank) c)) ∧
      rd t pgMgt .mgtFwBank = rd s pgMgt .mgtFwBank ∧ t.outbox = s.outbox ++ [.pldm 0 0]) ∧
    (setsOnly s → u.cur = none → u.verified ≠ [] → ∃ t, exec (.activateFirmware true) s = .next t ∧ t.update = none ∧
      rd t pgMgt .hdrStaged = 0 ∧ rd t pgMgt .hdrPrevValid = 1 ∧ Sent (.pldm 0 0) s t ∧
      ∀ c, c < 6 → bit (rd t pgMgt .mgtFwBank) c = (if c ∈ u.verified then otherBank s c else bit (rd s pgMgt .mgtFwBank) c)) ∧
    (∀ b, (u.cur ≠ none ∨ u.verified = []) → exec (.activateFirmware b) s = .next { s with outbox := s.outbox ++ [.pldm 1 0] })) ∧
  (∀ (c k : Nat) (s : State), s.Ok → setsOnly s → 2 ≤ c → c ≤ 5 → k < fwUnits c → fwSwitching s c = true → fwMaySwitch s c k = true →
    ((∃ j, j < fwUnits c ∧ j ≠ k ∧ (c, j) ∉ s.fwDone ∧ partState s (fwPart c j) ≠ 4) → ∃ t, exec (.fwSwitch c k) s = .next t ∧ (c, k) ∈ t.fwDone ∧
      rd t pgMgt .mgtFwRun = rd s pgMgt .mgtFwRun ∧ (c = 3 → (chanAt t k).fwHold = false) ∧
      (c = 5 → ∀ q, q < 4 → portFlows s (4 * k + q) = true → portState t (4 * k + q) = 5)) ∧
    ((∀ j, j < fwUnits c → j ≠ k → (c, j) ∈ s.fwDone ∨ partState s (fwPart c j) = 4) → ∃ t, exec (.fwSwitch c k) s = .next t ∧
      bit (rd t pgMgt .mgtFwRun) c = bit (rd s pgMgt .mgtFwBank) c ∧ (∀ e, e ∈ t.fwDone → e.1 ≠ c) ∧
      rd t pgSec .secMeasGen = (rd s pgSec .secMeasGen + 1) % 2 ^ 32)) ∧
  (∀ (c k : Nat) (s : State), (c < 2 ∨ 5 < c ∨ fwUnits c ≤ k ∨ fwSwitching s c = false ∨ fwMaySwitch s c k = false) →
    exec (.fwSwitch c k) s = .next s) ∧
  ∀ (d h : Nat) (s : State), s.Ok →
    (fwSwitching s 3 = true → (3, ckOf d h) ∉ s.fwDone → ∃ t, exec (.fwSwitchWaitExpire d h) s = .next t ∧ (chanAt t (ckOf d h)).fwHold = true ∧
      (∀ o, o ≠ ckOf d h → chanAt t o = chanAt s o) ∧ Only [.chans] s t) ∧
    ((fwSwitching s 3 = false ∨ (3, ckOf d h) ∈ s.fwDone) → exec (.fwSwitchWaitExpire d h) s = .next s)
end

