-- ==== Sys2Proof/Laws/Maps.lean ====
section
/-!
SUPPORT. Laws of sparse data: a read after a write, writes leave other keys alone, and every operation keeps the canonical form.
-/

namespace Sys2Proof.Machine

variable {α : Type} {d : Nat → α} {m : SMap α} {k j : Nat} {v : α}

/-- Keys strictly rising. -/
abbrev SMap.rising (m : SMap α) : Prop := m.Pairwise fun a b => a.1 < b.1

theorem SMap.get_ins_same : SMap.get d (SMap.ins k v m) k = v := by
  induction m with
  | nil => simp [SMap.ins, SMap.get]
  | cons e m ih =>
    obtain ⟨i, w⟩ := e
    simp only [SMap.ins]
    split
    · simp [SMap.get]
    · split
      · simp [SMap.get]
      · next h => simpa [SMap.get, h] using ih

theorem SMap.get_ins_other (h : j ≠ k) : SMap.get d (SMap.ins k v m) j = SMap.get d m j := by
  induction m with
  | nil => simp [SMap.ins, SMap.get, Ne.symm h]
  | cons e m ih =>
    obtain ⟨i, w⟩ := e
    simp only [SMap.ins]
    split
    · simp [SMap.get, Ne.symm h]
    · split
      · next hik => subst hik; simp [SMap.get, Ne.symm h]
      · simp only [SMap.get, ih]

theorem SMap.get_del_other (h : j ≠ k) : SMap.get d (SMap.del k m) j = SMap.get d m j := by
  induction m with
  | nil => rfl
  | cons e m ih =>
    obtain ⟨i, w⟩ := e
    by_cases hik : i = k
    · subst hik
      rw [show SMap.del i ((i, w) :: m) = SMap.del i m by simp [SMap.del], ih]
      simp [SMap.get, Ne.symm h]
    · rw [show SMap.del k ((i, w) :: m) = (i, w) :: SMap.del k m by simp [SMap.del, hik]]
      simp only [SMap.get, ih]

/-- A key below every listed one reads its default. -/
theorem SMap.get_below (h : ∀ e ∈ m, k < e.1) : SMap.get d m k = d k := by
  induction m with
  | nil => rfl
  | cons e m ih =>
    obtain ⟨i, w⟩ := e
    have hi : k < i := h (i, w) (by simp)
    simp only [SMap.get, if_neg (Nat.ne_of_gt hi)]
    exact ih fun e he => h e (by simp [he])

theorem SMap.get_del_same : SMap.get d (SMap.del k m) k = d k := by
  induction m with
  | nil => rfl
  | cons e m ih =>
    obtain ⟨i, w⟩ := e
    by_cases hik : i = k
    · subst hik
      rw [show SMap.del i ((i, w) :: m) = SMap.del i m by simp [SMap.del], ih]
    · rw [show SMap.del k ((i, w) :: m) = (i, w) :: SMap.del k m by simp [SMap.del, hik]]
      simpa [SMap.get, hik] using ih

/-- A read after a write at the same key. -/
theorem SMap.get_set_same [DecidableEq α] : SMap.get d (SMap.set d m k v) k = v := by
  unfold SMap.set
  split
  · next hv => rw [SMap.get_del_same, hv]
  · exact SMap.get_ins_same

/-- A write leaves every other key alone. -/
theorem SMap.get_set_other [DecidableEq α] (h : j ≠ k) : SMap.get d (SMap.set d m k v) j = SMap.get d m j := by
  unfold SMap.set
  split
  · exact SMap.get_del_other h
  · exact SMap.get_ins_other h

theorem SMap.get_set [DecidableEq α] : SMap.get d (SMap.set d m k v) j = if j = k then v else SMap.get d m j := by
  by_cases hj : j = k
  · subst hj; simp [SMap.get_set_same]
  · simp [hj, SMap.get_set_other hj]

/-- Whatever is written, a key reads its default, a listed value or the written value. -/
theorem SMap.mem_ins {e : Nat × α} (h : e ∈ SMap.ins k v m) : e = (k, v) ∨ e ∈ m := by
  induction m with
  | nil => simpa [SMap.ins] using h
  | cons x m ih =>
    obtain ⟨i, w⟩ := x
    simp only [SMap.ins] at h
    split at h
    · simpa [or_assoc] using h
    · split at h
      · rcases List.mem_cons.1 h with h | h
        · exact .inl h
        · exact .inr (List.mem_cons_of_mem _ h)
      · rcases List.mem_cons.1 h with h | h
        · exact .inr (by simp [h])
        · exact (ih h).imp_right fun h => List.mem_cons_of_mem _ h

theorem SMap.mem_del {e : Nat × α} (h : e ∈ SMap.del k m) : e ∈ m := (List.mem_filter.1 h).1

theorem SMap.rising_ins (h : SMap.rising m) : SMap.rising (SMap.ins k v m) := by
  induction m with
  | nil => simp [SMap.ins, SMap.rising]
  | cons x m ih =>
    obtain ⟨i, w⟩ := x
    rw [SMap.rising, List.pairwise_cons] at h
    simp only [SMap.ins]
    split
    · next hk =>
      refine List.pairwise_cons.2 ⟨fun e he => ?_, List.pairwise_cons.2 h⟩
      rcases List.mem_cons.1 he with rfl | he
      · exact hk
      · exact Nat.lt_trans hk (h.1 e he)
    · split
      · next hik => subst hik; exact List.pairwise_cons.2 ⟨h.1, h.2⟩
      · next hki hik =>
        refine List.pairwise_cons.2 ⟨fun e he => ?_, ih h.2⟩
        rcases SMap.mem_ins he with rfl | he
        · exact Nat.lt_of_le_of_ne (Nat.le_of_not_lt hki) hik
        · exact h.1 e he

theorem SMap.rising_del (h : SMap.rising m) : SMap.rising (SMap.del k m) := h.sublist (List.filter_sublist ..)

/-- A write keeps the canonical form. -/
theorem SMap.wf_set [DecidableEq α] (h : SMap.wf d m) : SMap.wf d (SMap.set d m k v) := by
  unfold SMap.set
  split
  · exact ⟨SMap.rising_del h.1, fun e he => h.2 e (SMap.mem_del he)⟩
  · next hv =>
    refine ⟨SMap.rising_ins h.1, fun e he => ?_⟩
    rcases SMap.mem_ins he with rfl | he
    · exact hv
    · exact h.2 e he

/-- A write against a default that is right at its key keeps the canonical form. -/
theorem SMap.wf_set_at [DecidableEq α] {c : Nat → α} (hd : c k = d k) (h : SMap.wf d m) : SMap.wf d (SMap.set c m k v) := by
  have : SMap.set c m k v = SMap.set d m k v := by simp [SMap.set, hd]
  exact this ▸ SMap.wf_set h

theorem SMap.wf_nil : SMap.wf d ([] : SMap α) := ⟨List.Pairwise.nil, by simp⟩

theorem SMap.wf_filter {p : Nat × α → Bool} (h : SMap.wf d m) : SMap.wf d (m.filter p) :=
  ⟨h.1.filter p, fun e he => h.2 e (List.mem_filter.1 he).1⟩

theorem SMap.wf_mapv [DecidableEq α] {c : α} {f : Nat → α → α} (h : SMap.wf (fun _ => c) m) : SMap.wf (fun _ => c) (SMap.mapv c f m) := by
  unfold SMap.mapv
  constructor
  · refine h.1.filterMap _ fun a b hab x hx y hy => ?_
    simp only [Option.ite_none_left_eq_some, Option.some.injEq] at hx hy
    rw [← hx.2, ← hy.2]
    exact hab
  · intro e he
    obtain ⟨a, _, ha⟩ := List.mem_filterMap.1 he
    simp only [Option.ite_none_left_eq_some, Option.some.injEq] at ha
    rw [← ha.2]
    exact ha.1

/-- A listed key reads its entry. -/
theorem SMap.get_of_mem (h : SMap.rising m) {e : Nat × α} (he : e ∈ m) : SMap.get d m e.1 = e.2 := by
  induction m with
  | nil => simp at he
  | cons x m ih =>
    obtain ⟨i, w⟩ := x
    rw [SMap.rising, List.pairwise_cons] at h
    rcases List.mem_cons.1 he with rfl | he
    · simp [SMap.get]
    · have : i < e.1 := h.1 e he
      simp only [SMap.get, if_neg (Nat.ne_of_lt this)]
      exact ih h.2 he

/-- What a key reads is its default or a listed value. -/
theorem SMap.get_cases (d : Nat → α) (m : SMap α) (k : Nat) : SMap.get d m k = d k ∨ (k, SMap.get d m k) ∈ m := by
  induction m with
  | nil => exact .inl rfl
  | cons x m ih =>
    obtain ⟨i, w⟩ := x
    simp only [SMap.get]
    split
    · next h => subst h; exact .inr (by simp)
    · exact ih.imp_right fun h => List.mem_cons_of_mem _ h

/-- A read of a list after a write at one place. -/
theorem setAt_getD (e : α) (l : List α) (i n : Nat) (x : α) : (setAt e l i x).getD n e = if n = i then x else l.getD n e := by
  unfold setAt
  simp only [List.getD_eq_getElem?_getD, List.getElem?_set]
  by_cases h : n = i
  · subst h
    simp [show n < l.length + (n + 1 - l.length) by omega]
  · simp only [Ne.symm h, if_false, h]
    by_cases hn : n < l.length
    · rw [List.getElem?_append_left hn]
    · rw [List.getElem?_append_right (Nat.le_of_not_lt hn), List.getElem?_eq_none (Nat.le_of_not_lt hn), List.getElem?_replicate]
      split <;> rfl

end Sys2Proof.Machine
end

