-- ==== Sys2Proof/Laws/State.lean ====
section
/-!
SUPPORT. The smallest updates, field by field: each leaves every field of the state but its own as it was. `simp` uses these in
place of unfolding a record update.
-/

namespace Sys2Proof.Machine

variable (s : State)

@[simp] theorem wri_fields (p : Nat) (f : Fld) (i v : Nat) :
    (wri p f i v s).pending = s.pending ∧ (wri p f i v s).outbox = s.outbox ∧ (wri p f i v s).freeCtr = s.freeCtr ∧
    (wri p f i v s).variant = s.variant ∧ (wri p f i v s).staging = s.staging ∧ (wri p f i v s).prevSet = s.prevSet ∧
    (wri p f i v s).ops = s.ops ∧ (wri p f i v s).vslots = s.vslots ∧ (wri p f i v s).floorAbove = s.floorAbove ∧
    (wri p f i v s).sourceLost = s.sourceLost ∧ (wri p f i v s).ldgSeq = s.ldgSeq ∧ (wri p f i v s).ldgLost = s.ldgLost ∧
    (wri p f i v s).ctxs = s.ctxs ∧ (wri p f i v s).runs = s.runs ∧ (wri p f i v s).nextRun = s.nextRun ∧
    (wri p f i v s).pms = s.pms ∧ (wri p f i v s).engines = s.engines ∧ (wri p f i v s).spads = s.spads ∧
    (wri p f i v s).spad = s.spad ∧ (wri p f i v s).spadChk = s.spadChk ∧ (wri p f i v s).serais = s.serais ∧
    (wri p f i v s).loadQ = s.loadQ ∧ (wri p f i v s).loading = s.loading ∧ (wri p f i v s).loadCount = s.loadCount ∧
    (wri p f i v s).sess = s.sess ∧ (wri p f i v s).abortWaits = s.abortWaits ∧ (wri p f i v s).memGens = s.memGens ∧
    (wri p f i v s).spadGen = s.spadGen ∧ (wri p f i v s).dram = s.dram ∧ (wri p f i v s).dramChk = s.dramChk ∧
    (wri p f i v s).chans = s.chans ∧ (wri p f i v s).units = s.units ∧ (wri p f i v s).flights = s.flights ∧
    (wri p f i v s).snoop = s.snoop ∧ (wri p f i v s).biWait = s.biWait ∧ (wri p f i v s).msix = s.msix ∧
    (wri p f i v s).ceWins = s.ceWins ∧ (wri p f i v s).drovers = s.drovers ∧ (wri p f i v s).remaps = s.remaps ∧
    (wri p f i v s).repairLog = s.repairLog ∧ (wri p f i v s).servedBytes = s.servedBytes ∧
    (wri p f i v s).ports = s.ports ∧ (wri p f i v s).members = s.members ∧ (wri p f i v s).bseqs = s.bseqs ∧
    (wri p f i v s).lastFrames = s.lastFrames ∧ (wri p f i v s).left = s.left ∧ (wri p f i v s).sens = s.sens ∧
    (wri p f i v s).stackHold = s.stackHold ∧ (wri p f i v s).partHold = s.partHold ∧
    (wri p f i v s).partCond = s.partCond ∧ (wri p f i v s).pllTemp = s.pllTemp ∧ (wri p f i v s).recov = s.recov ∧
    (wri p f i v s).winOpen = s.winOpen ∧ (wri p f i v s).compBad = s.compBad ∧ (wri p f i v s).keys = s.keys ∧
    (wri p f i v s).psks = s.psks ∧ (wri p f i v s).spdm = s.spdm ∧ (wri p f i v s).pskFails = s.pskFails ∧
    (wri p f i v s).pskLocked = s.pskLocked ∧ (wri p f i v s).setCount = s.setCount ∧ (wri p f i v s).zeroDue = s.zeroDue ∧
    (wri p f i v s).d3 = s.d3 ∧ (wri p f i v s).perst = s.perst ∧ (wri p f i v s).hdm = s.hdm ∧
    (wri p f i v s).psNext = s.psNext ∧ (wri p f i v s).clamp = s.clamp ∧ (wri p f i v s).divided = s.divided ∧
    (wri p f i v s).coreSet = s.coreSet ∧ (wri p f i v s).supplyLow = s.supplyLow ∧ (wri p f i v s).lowMs = s.lowMs ∧
    (wri p f i v s).romOnly = s.romOnly ∧ (wri p f i v s).update = s.update ∧ (wri p f i v s).fwDone = s.fwDone ∧
    (wri p f i v s).fwSlots = s.fwSlots ∧ (wri p f i v s).dies = s.dies ∧ (wri p f i v s).retQueue = s.retQueue := by
  repeat' constructor

@[simp] theorem wr_fields (p : Nat) (f : Fld) (v : Nat) :
    (wr p f v s).pending = s.pending ∧ (wr p f v s).outbox = s.outbox ∧ (wr p f v s).freeCtr = s.freeCtr ∧
    (wr p f v s).variant = s.variant ∧ (wr p f v s).staging = s.staging ∧ (wr p f v s).prevSet = s.prevSet ∧
    (wr p f v s).ops = s.ops ∧ (wr p f v s).vslots = s.vslots ∧ (wr p f v s).floorAbove = s.floorAbove ∧
    (wr p f v s).sourceLost = s.sourceLost ∧ (wr p f v s).ldgSeq = s.ldgSeq ∧ (wr p f v s).ldgLost = s.ldgLost ∧
    (wr p f v s).ctxs = s.ctxs ∧ (wr p f v s).runs = s.runs ∧ (wr p f v s).nextRun = s.nextRun ∧ (wr p f v s).pms = s.pms ∧
    (wr p f v s).engines = s.engines ∧ (wr p f v s).spads = s.spads ∧ (wr p f v s).spad = s.spad ∧
    (wr p f v s).spadChk = s.spadChk ∧ (wr p f v s).serais = s.serais ∧ (wr p f v s).loadQ = s.loadQ ∧
    (wr p f v s).loading = s.loading ∧ (wr p f v s).loadCount = s.loadCount ∧ (wr p f v s).sess = s.sess ∧
    (wr p f v s).abortWaits = s.abortWaits ∧ (wr p f v s).memGens = s.memGens ∧ (wr p f v s).spadGen = s.spadGen ∧
    (wr p f v s).dram = s.dram ∧ (wr p f v s).dramChk = s.dramChk ∧ (wr p f v s).chans = s.chans ∧
    (wr p f v s).units = s.units ∧ (wr p f v s).flights = s.flights ∧ (wr p f v s).snoop = s.snoop ∧
    (wr p f v s).biWait = s.biWait ∧ (wr p f v s).msix = s.msix ∧ (wr p f v s).ceWins = s.ceWins ∧
    (wr p f v s).drovers = s.drovers ∧ (wr p f v s).remaps = s.remaps ∧ (wr p f v s).repairLog = s.repairLog ∧
    (wr p f v s).servedBytes = s.servedBytes ∧ (wr p f v s).ports = s.ports ∧ (wr p f v s).members = s.members ∧
    (wr p f v s).bseqs = s.bseqs ∧ (wr p f v s).lastFrames = s.lastFrames ∧ (wr p f v s).left = s.left ∧
    (wr p f v s).sens = s.sens ∧ (wr p f v s).stackHold = s.stackHold ∧ (wr p f v s).partHold = s.partHold ∧
    (wr p f v s).partCond = s.partCond ∧ (wr p f v s).pllTemp = s.pllTemp ∧ (wr p f v s).recov = s.recov ∧
    (wr p f v s).winOpen = s.winOpen ∧ (wr p f v s).compBad = s.compBad ∧ (wr p f v s).keys = s.keys ∧
    (wr p f v s).psks = s.psks ∧ (wr p f v s).spdm = s.spdm ∧ (wr p f v s).pskFails = s.pskFails ∧
    (wr p f v s).pskLocked = s.pskLocked ∧ (wr p f v s).setCount = s.setCount ∧ (wr p f v s).zeroDue = s.zeroDue ∧
    (wr p f v s).d3 = s.d3 ∧ (wr p f v s).perst = s.perst ∧ (wr p f v s).hdm = s.hdm ∧ (wr p f v s).psNext = s.psNext ∧
    (wr p f v s).clamp = s.clamp ∧ (wr p f v s).divided = s.divided ∧ (wr p f v s).coreSet = s.coreSet ∧
    (wr p f v s).supplyLow = s.supplyLow ∧ (wr p f v s).lowMs = s.lowMs ∧ (wr p f v s).romOnly = s.romOnly ∧
    (wr p f v s).update = s.update ∧ (wr p f v s).fwDone = s.fwDone ∧ (wr p f v s).fwSlots = s.fwSlots ∧
    (wr p f v s).dies = s.dies ∧ (wr p f v s).retQueue = s.retQueue := by
  repeat' constructor

@[simp] theorem freshNext_fields :
    (freshNext s).pending = s.pending ∧ (freshNext s).outbox = s.outbox ∧ (freshNext s).variant = s.variant ∧
    (freshNext s).regs = s.regs ∧ (freshNext s).staging = s.staging ∧ (freshNext s).prevSet = s.prevSet ∧
    (freshNext s).ops = s.ops ∧ (freshNext s).vslots = s.vslots ∧ (freshNext s).floorAbove = s.floorAbove ∧
    (freshNext s).sourceLost = s.sourceLost ∧ (freshNext s).ldgSeq = s.ldgSeq ∧ (freshNext s).ldgLost = s.ldgLost ∧
    (freshNext s).ctxs = s.ctxs ∧ (freshNext s).runs = s.runs ∧ (freshNext s).nextRun = s.nextRun ∧
    (freshNext s).pms = s.pms ∧ (freshNext s).engines = s.engines ∧ (freshNext s).spads = s.spads ∧
    (freshNext s).spad = s.spad ∧ (freshNext s).spadChk = s.spadChk ∧ (freshNext s).serais = s.serais ∧
    (freshNext s).loadQ = s.loadQ ∧ (freshNext s).loading = s.loading ∧ (freshNext s).loadCount = s.loadCount ∧
    (freshNext s).sess = s.sess ∧ (freshNext s).abortWaits = s.abortWaits ∧ (freshNext s).memGens = s.memGens ∧
    (freshNext s).spadGen = s.spadGen ∧ (freshNext s).dram = s.dram ∧ (freshNext s).dramChk = s.dramChk ∧
    (freshNext s).chans = s.chans ∧ (freshNext s).units = s.units ∧ (freshNext s).flights = s.flights ∧
    (freshNext s).snoop = s.snoop ∧ (freshNext s).biWait = s.biWait ∧ (freshNext s).msix = s.msix ∧
    (freshNext s).ceWins = s.ceWins ∧ (freshNext s).drovers = s.drovers ∧ (freshNext s).remaps = s.remaps ∧
    (freshNext s).repairLog = s.repairLog ∧ (freshNext s).servedBytes = s.servedBytes ∧ (freshNext s).ports = s.ports ∧
    (freshNext s).members = s.members ∧ (freshNext s).bseqs = s.bseqs ∧ (freshNext s).lastFrames = s.lastFrames ∧
    (freshNext s).left = s.left ∧ (freshNext s).sens = s.sens ∧ (freshNext s).stackHold = s.stackHold ∧
    (freshNext s).partHold = s.partHold ∧ (freshNext s).partCond = s.partCond ∧ (freshNext s).pllTemp = s.pllTemp ∧
    (freshNext s).recov = s.recov ∧ (freshNext s).winOpen = s.winOpen ∧ (freshNext s).compBad = s.compBad ∧
    (freshNext s).keys = s.keys ∧ (freshNext s).psks = s.psks ∧ (freshNext s).spdm = s.spdm ∧
    (freshNext s).pskFails = s.pskFails ∧ (freshNext s).pskLocked = s.pskLocked ∧ (freshNext s).setCount = s.setCount ∧
    (freshNext s).zeroDue = s.zeroDue ∧ (freshNext s).d3 = s.d3 ∧ (freshNext s).perst = s.perst ∧
    (freshNext s).hdm = s.hdm ∧ (freshNext s).psNext = s.psNext ∧ (freshNext s).clamp = s.clamp ∧
    (freshNext s).divided = s.divided ∧ (freshNext s).coreSet = s.coreSet ∧ (freshNext s).supplyLow = s.supplyLow ∧
    (freshNext s).lowMs = s.lowMs ∧ (freshNext s).romOnly = s.romOnly ∧ (freshNext s).update = s.update ∧
    (freshNext s).fwDone = s.fwDone ∧ (freshNext s).fwSlots = s.fwSlots ∧ (freshNext s).dies = s.dies ∧
    (freshNext s).retQueue = s.retQueue := by
  repeat' constructor

@[simp] theorem emit_fields (m : Msg) :
    (emit m s).pending = s.pending ∧ (emit m s).freeCtr = s.freeCtr ∧ (emit m s).variant = s.variant ∧
    (emit m s).regs = s.regs ∧ (emit m s).staging = s.staging ∧ (emit m s).prevSet = s.prevSet ∧ (emit m s).ops = s.ops ∧
    (emit m s).vslots = s.vslots ∧ (emit m s).floorAbove = s.floorAbove ∧ (emit m s).sourceLost = s.sourceLost ∧
    (emit m s).ldgSeq = s.ldgSeq ∧ (emit m s).ldgLost = s.ldgLost ∧ (emit m s).ctxs = s.ctxs ∧ (emit m s).runs = s.runs ∧
    (emit m s).nextRun = s.nextRun ∧ (emit m s).pms = s.pms ∧ (emit m s).engines = s.engines ∧ (emit m s).spads = s.spads ∧
    (emit m s).spad = s.spad ∧ (emit m s).spadChk = s.spadChk ∧ (emit m s).serais = s.serais ∧ (emit m s).loadQ = s.loadQ ∧
    (emit m s).loading = s.loading ∧ (emit m s).loadCount = s.loadCount ∧ (emit m s).sess = s.sess ∧
    (emit m s).abortWaits = s.abortWaits ∧ (emit m s).memGens = s.memGens ∧ (emit m s).spadGen = s.spadGen ∧
    (emit m s).dram = s.dram ∧ (emit m s).dramChk = s.dramChk ∧ (emit m s).chans = s.chans ∧ (emit m s).units = s.units ∧
    (emit m s).flights = s.flights ∧ (emit m s).snoop = s.snoop ∧ (emit m s).biWait = s.biWait ∧ (emit m s).msix = s.msix ∧
    (emit m s).ceWins = s.ceWins ∧ (emit m s).drovers = s.drovers ∧ (emit m s).remaps = s.remaps ∧
    (emit m s).repairLog = s.repairLog ∧ (emit m s).servedBytes = s.servedBytes ∧ (emit m s).ports = s.ports ∧
    (emit m s).members = s.members ∧ (emit m s).bseqs = s.bseqs ∧ (emit m s).lastFrames = s.lastFrames ∧
    (emit m s).left = s.left ∧ (emit m s).sens = s.sens ∧ (emit m s).stackHold = s.stackHold ∧
    (emit m s).partHold = s.partHold ∧ (emit m s).partCond = s.partCond ∧ (emit m s).pllTemp = s.pllTemp ∧
    (emit m s).recov = s.recov ∧ (emit m s).winOpen = s.winOpen ∧ (emit m s).compBad = s.compBad ∧
    (emit m s).keys = s.keys ∧ (emit m s).psks = s.psks ∧ (emit m s).spdm = s.spdm ∧ (emit m s).pskFails = s.pskFails ∧
    (emit m s).pskLocked = s.pskLocked ∧ (emit m s).setCount = s.setCount ∧ (emit m s).zeroDue = s.zeroDue ∧
    (emit m s).d3 = s.d3 ∧ (emit m s).perst = s.perst ∧ (emit m s).hdm = s.hdm ∧ (emit m s).psNext = s.psNext ∧
    (emit m s).clamp = s.clamp ∧ (emit m s).divided = s.divided ∧ (emit m s).coreSet = s.coreSet ∧
    (emit m s).supplyLow = s.supplyLow ∧ (emit m s).lowMs = s.lowMs ∧ (emit m s).romOnly = s.romOnly ∧
    (emit m s).update = s.update ∧ (emit m s).fwDone = s.fwDone ∧ (emit m s).fwSlots = s.fwSlots ∧
    (emit m s).dies = s.dies ∧ (emit m s).retQueue = s.retQueue := by
  repeat' constructor

@[simp] theorem putCtx_fields (id : Nat) (c : Ctx) :
    (putCtx id c s).pending = s.pending ∧ (putCtx id c s).outbox = s.outbox ∧ (putCtx id c s).freeCtr = s.freeCtr ∧
    (putCtx id c s).variant = s.variant ∧ (putCtx id c s).regs = s.regs ∧ (putCtx id c s).staging = s.staging ∧
    (putCtx id c s).prevSet = s.prevSet ∧ (putCtx id c s).ops = s.ops ∧ (putCtx id c s).vslots = s.vslots ∧
    (putCtx id c s).floorAbove = s.floorAbove ∧ (putCtx id c s).sourceLost = s.sourceLost ∧
    (putCtx id c s).ldgSeq = s.ldgSeq ∧ (putCtx id c s).ldgLost = s.ldgLost ∧ (putCtx id c s).runs = s.runs ∧
    (putCtx id c s).nextRun = s.nextRun ∧ (putCtx id c s).pms = s.pms ∧ (putCtx id c s).engines = s.engines ∧
    (putCtx id c s).spads = s.spads ∧ (putCtx id c s).spad = s.spad ∧ (putCtx id c s).spadChk = s.spadChk ∧
    (putCtx id c s).serais = s.serais ∧ (putCtx id c s).loadQ = s.loadQ ∧ (putCtx id c s).loading = s.loading ∧
    (putCtx id c s).loadCount = s.loadCount ∧ (putCtx id c s).sess = s.sess ∧ (putCtx id c s).abortWaits = s.abortWaits ∧
    (putCtx id c s).memGens = s.memGens ∧ (putCtx id c s).spadGen = s.spadGen ∧ (putCtx id c s).dram = s.dram ∧
    (putCtx id c s).dramChk = s.dramChk ∧ (putCtx id c s).chans = s.chans ∧ (putCtx id c s).units = s.units ∧
    (putCtx id c s).flights = s.flights ∧ (putCtx id c s).snoop = s.snoop ∧ (putCtx id c s).biWait = s.biWait ∧
    (putCtx id c s).msix = s.msix ∧ (putCtx id c s).ceWins = s.ceWins ∧ (putCtx id c s).drovers = s.drovers ∧
    (putCtx id c s).remaps = s.remaps ∧ (putCtx id c s).repairLog = s.repairLog ∧
    (putCtx id c s).servedBytes = s.servedBytes ∧ (putCtx id c s).ports = s.ports ∧ (putCtx id c s).members = s.members ∧
    (putCtx id c s).bseqs = s.bseqs ∧ (putCtx id c s).lastFrames = s.lastFrames ∧ (putCtx id c s).left = s.left ∧
    (putCtx id c s).sens = s.sens ∧ (putCtx id c s).stackHold = s.stackHold ∧ (putCtx id c s).partHold = s.partHold ∧
    (putCtx id c s).partCond = s.partCond ∧ (putCtx id c s).pllTemp = s.pllTemp ∧ (putCtx id c s).recov = s.recov ∧
    (putCtx id c s).winOpen = s.winOpen ∧ (putCtx id c s).compBad = s.compBad ∧ (putCtx id c s).keys = s.keys ∧
    (putCtx id c s).psks = s.psks ∧ (putCtx id c s).spdm = s.spdm ∧ (putCtx id c s).pskFails = s.pskFails ∧
    (putCtx id c s).pskLocked = s.pskLocked ∧ (putCtx id c s).setCount = s.setCount ∧ (putCtx id c s).zeroDue = s.zeroDue ∧
    (putCtx id c s).d3 = s.d3 ∧ (putCtx id c s).perst = s.perst ∧ (putCtx id c s).hdm = s.hdm ∧
    (putCtx id c s).psNext = s.psNext ∧ (putCtx id c s).clamp = s.clamp ∧ (putCtx id c s).divided = s.divided ∧
    (putCtx id c s).coreSet = s.coreSet ∧ (putCtx id c s).supplyLow = s.supplyLow ∧ (putCtx id c s).lowMs = s.lowMs ∧
    (putCtx id c s).romOnly = s.romOnly ∧ (putCtx id c s).update = s.update ∧ (putCtx id c s).fwDone = s.fwDone ∧
    (putCtx id c s).fwSlots = s.fwSlots ∧ (putCtx id c s).dies = s.dies ∧ (putCtx id c s).retQueue = s.retQueue := by
  repeat' constructor

@[simp] theorem putVslot_fields (k : Nat) (v : VSlot) :
    (putVslot k v s).pending = s.pending ∧ (putVslot k v s).outbox = s.outbox ∧ (putVslot k v s).freeCtr = s.freeCtr ∧
    (putVslot k v s).variant = s.variant ∧ (putVslot k v s).regs = s.regs ∧ (putVslot k v s).staging = s.staging ∧
    (putVslot k v s).prevSet = s.prevSet ∧ (putVslot k v s).ops = s.ops ∧ (putVslot k v s).floorAbove = s.floorAbove ∧
    (putVslot k v s).sourceLost = s.sourceLost ∧ (putVslot k v s).ldgSeq = s.ldgSeq ∧
    (putVslot k v s).ldgLost = s.ldgLost ∧ (putVslot k v s).ctxs = s.ctxs ∧ (putVslot k v s).runs = s.runs ∧
    (putVslot k v s).nextRun = s.nextRun ∧ (putVslot k v s).pms = s.pms ∧ (putVslot k v s).engines = s.engines ∧
    (putVslot k v s).spads = s.spads ∧ (putVslot k v s).spad = s.spad ∧ (putVslot k v s).spadChk = s.spadChk ∧
    (putVslot k v s).serais = s.serais ∧ (putVslot k v s).loadQ = s.loadQ ∧ (putVslot k v s).loading = s.loading ∧
    (putVslot k v s).loadCount = s.loadCount ∧ (putVslot k v s).sess = s.sess ∧
    (putVslot k v s).abortWaits = s.abortWaits ∧ (putVslot k v s).memGens = s.memGens ∧
    (putVslot k v s).spadGen = s.spadGen ∧ (putVslot k v s).dram = s.dram ∧ (putVslot k v s).dramChk = s.dramChk ∧
    (putVslot k v s).chans = s.chans ∧ (putVslot k v s).units = s.units ∧ (putVslot k v s).flights = s.flights ∧
    (putVslot k v s).snoop = s.snoop ∧ (putVslot k v s).biWait = s.biWait ∧ (putVslot k v s).msix = s.msix ∧
    (putVslot k v s).ceWins = s.ceWins ∧ (putVslot k v s).drovers = s.drovers ∧ (putVslot k v s).remaps = s.remaps ∧
    (putVslot k v s).repairLog = s.repairLog ∧ (putVslot k v s).servedBytes = s.servedBytes ∧
    (putVslot k v s).ports = s.ports ∧ (putVslot k v s).members = s.members ∧ (putVslot k v s).bseqs = s.bseqs ∧
    (putVslot k v s).lastFrames = s.lastFrames ∧ (putVslot k v s).left = s.left ∧ (putVslot k v s).sens = s.sens ∧
    (putVslot k v s).stackHold = s.stackHold ∧ (putVslot k v s).partHold = s.partHold ∧
    (putVslot k v s).partCond = s.partCond ∧ (putVslot k v s).pllTemp = s.pllTemp ∧ (putVslot k v s).recov = s.recov ∧
    (putVslot k v s).winOpen = s.winOpen ∧ (putVslot k v s).compBad = s.compBad ∧ (putVslot k v s).keys = s.keys ∧
    (putVslot k v s).psks = s.psks ∧ (putVslot k v s).spdm = s.spdm ∧ (putVslot k v s).pskFails = s.pskFails ∧
    (putVslot k v s).pskLocked = s.pskLocked ∧ (putVslot k v s).setCount = s.setCount ∧
    (putVslot k v s).zeroDue = s.zeroDue ∧ (putVslot k v s).d3 = s.d3 ∧ (putVslot k v s).perst = s.perst ∧
    (putVslot k v s).hdm = s.hdm ∧ (putVslot k v s).psNext = s.psNext ∧ (putVslot k v s).clamp = s.clamp ∧
    (putVslot k v s).divided = s.divided ∧ (putVslot k v s).coreSet = s.coreSet ∧
    (putVslot k v s).supplyLow = s.supplyLow ∧ (putVslot k v s).lowMs = s.lowMs ∧ (putVslot k v s).romOnly = s.romOnly ∧
    (putVslot k v s).update = s.update ∧ (putVslot k v s).fwDone = s.fwDone ∧ (putVslot k v s).fwSlots = s.fwSlots ∧
    (putVslot k v s).dies = s.dies ∧ (putVslot k v s).retQueue = s.retQueue := by
  repeat' constructor

@[simp] theorem putChan_fields (k : Nat) (c : Chan) :
    (putChan k c s).pending = s.pending ∧ (putChan k c s).outbox = s.outbox ∧ (putChan k c s).freeCtr = s.freeCtr ∧
    (putChan k c s).variant = s.variant ∧ (putChan k c s).regs = s.regs ∧ (putChan k c s).staging = s.staging ∧
    (putChan k c s).prevSet = s.prevSet ∧ (putChan k c s).ops = s.ops ∧ (putChan k c s).vslots = s.vslots ∧
    (putChan k c s).floorAbove = s.floorAbove ∧ (putChan k c s).sourceLost = s.sourceLost ∧
    (putChan k c s).ldgSeq = s.ldgSeq ∧ (putChan k c s).ldgLost = s.ldgLost ∧ (putChan k c s).ctxs = s.ctxs ∧
    (putChan k c s).runs = s.runs ∧ (putChan k c s).nextRun = s.nextRun ∧ (putChan k c s).pms = s.pms ∧
    (putChan k c s).engines = s.engines ∧ (putChan k c s).spads = s.spads ∧ (putChan k c s).spad = s.spad ∧
    (putChan k c s).spadChk = s.spadChk ∧ (putChan k c s).serais = s.serais ∧ (putChan k c s).loadQ = s.loadQ ∧
    (putChan k c s).loading = s.loading ∧ (putChan k c s).loadCount = s.loadCount ∧ (putChan k c s).sess = s.sess ∧
    (putChan k c s).abortWaits = s.abortWaits ∧ (putChan k c s).memGens = s.memGens ∧ (putChan k c s).spadGen = s.spadGen ∧
    (putChan k c s).dram = s.dram ∧ (putChan k c s).dramChk = s.dramChk ∧ (putChan k c s).units = s.units ∧
    (putChan k c s).flights = s.flights ∧ (putChan k c s).snoop = s.snoop ∧ (putChan k c s).biWait = s.biWait ∧
    (putChan k c s).msix = s.msix ∧ (putChan k c s).ceWins = s.ceWins ∧ (putChan k c s).drovers = s.drovers ∧
    (putChan k c s).remaps = s.remaps ∧ (putChan k c s).repairLog = s.repairLog ∧
    (putChan k c s).servedBytes = s.servedBytes ∧ (putChan k c s).ports = s.ports ∧ (putChan k c s).members = s.members ∧
    (putChan k c s).bseqs = s.bseqs ∧ (putChan k c s).lastFrames = s.lastFrames ∧ (putChan k c s).left = s.left ∧
    (putChan k c s).sens = s.sens ∧ (putChan k c s).stackHold = s.stackHold ∧ (putChan k c s).partHold = s.partHold ∧
    (putChan k c s).partCond = s.partCond ∧ (putChan k c s).pllTemp = s.pllTemp ∧ (putChan k c s).recov = s.recov ∧
    (putChan k c s).winOpen = s.winOpen ∧ (putChan k c s).compBad = s.compBad ∧ (putChan k c s).keys = s.keys ∧
    (putChan k c s).psks = s.psks ∧ (putChan k c s).spdm = s.spdm ∧ (putChan k c s).pskFails = s.pskFails ∧
    (putChan k c s).pskLocked = s.pskLocked ∧ (putChan k c s).setCount = s.setCount ∧ (putChan k c s).zeroDue = s.zeroDue ∧
    (putChan k c s).d3 = s.d3 ∧ (putChan k c s).perst = s.perst ∧ (putChan k c s).hdm = s.hdm ∧
    (putChan k c s).psNext = s.psNext ∧ (putChan k c s).clamp = s.clamp ∧ (putChan k c s).divided = s.divided ∧
    (putChan k c s).coreSet = s.coreSet ∧ (putChan k c s).supplyLow = s.supplyLow ∧ (putChan k c s).lowMs = s.lowMs ∧
    (putChan k c s).romOnly = s.romOnly ∧ (putChan k c s).update = s.update ∧ (putChan k c s).fwDone = s.fwDone ∧
    (putChan k c s).fwSlots = s.fwSlots ∧ (putChan k c s).dies = s.dies ∧ (putChan k c s).retQueue = s.retQueue := by
  repeat' constructor

@[simp] theorem putUnit_fields (k : Nat) (u : BankUnit) :
    (putUnit k u s).pending = s.pending ∧ (putUnit k u s).outbox = s.outbox ∧ (putUnit k u s).freeCtr = s.freeCtr ∧
    (putUnit k u s).variant = s.variant ∧ (putUnit k u s).regs = s.regs ∧ (putUnit k u s).staging = s.staging ∧
    (putUnit k u s).prevSet = s.prevSet ∧ (putUnit k u s).ops = s.ops ∧ (putUnit k u s).vslots = s.vslots ∧
    (putUnit k u s).floorAbove = s.floorAbove ∧ (putUnit k u s).sourceLost = s.sourceLost ∧
    (putUnit k u s).ldgSeq = s.ldgSeq ∧ (putUnit k u s).ldgLost = s.ldgLost ∧ (putUnit k u s).ctxs = s.ctxs ∧
    (putUnit k u s).runs = s.runs ∧ (putUnit k u s).nextRun = s.nextRun ∧ (putUnit k u s).pms = s.pms ∧
    (putUnit k u s).engines = s.engines ∧ (putUnit k u s).spads = s.spads ∧ (putUnit k u s).spad = s.spad ∧
    (putUnit k u s).spadChk = s.spadChk ∧ (putUnit k u s).serais = s.serais ∧ (putUnit k u s).loadQ = s.loadQ ∧
    (putUnit k u s).loading = s.loading ∧ (putUnit k u s).loadCount = s.loadCount ∧ (putUnit k u s).sess = s.sess ∧
    (putUnit k u s).abortWaits = s.abortWaits ∧ (putUnit k u s).memGens = s.memGens ∧ (putUnit k u s).spadGen = s.spadGen ∧
    (putUnit k u s).dram = s.dram ∧ (putUnit k u s).dramChk = s.dramChk ∧ (putUnit k u s).chans = s.chans ∧
    (putUnit k u s).flights = s.flights ∧ (putUnit k u s).snoop = s.snoop ∧ (putUnit k u s).biWait = s.biWait ∧
    (putUnit k u s).msix = s.msix ∧ (putUnit k u s).ceWins = s.ceWins ∧ (putUnit k u s).drovers = s.drovers ∧
    (putUnit k u s).remaps = s.remaps ∧ (putUnit k u s).repairLog = s.repairLog ∧
    (putUnit k u s).servedBytes = s.servedBytes ∧ (putUnit k u s).ports = s.ports ∧ (putUnit k u s).members = s.members ∧
    (putUnit k u s).bseqs = s.bseqs ∧ (putUnit k u s).lastFrames = s.lastFrames ∧ (putUnit k u s).left = s.left ∧
    (putUnit k u s).sens = s.sens ∧ (putUnit k u s).stackHold = s.stackHold ∧ (putUnit k u s).partHold = s.partHold ∧
    (putUnit k u s).partCond = s.partCond ∧ (putUnit k u s).pllTemp = s.pllTemp ∧ (putUnit k u s).recov = s.recov ∧
    (putUnit k u s).winOpen = s.winOpen ∧ (putUnit k u s).compBad = s.compBad ∧ (putUnit k u s).keys = s.keys ∧
    (putUnit k u s).psks = s.psks ∧ (putUnit k u s).spdm = s.spdm ∧ (putUnit k u s).pskFails = s.pskFails ∧
    (putUnit k u s).pskLocked = s.pskLocked ∧ (putUnit k u s).setCount = s.setCount ∧ (putUnit k u s).zeroDue = s.zeroDue ∧
    (putUnit k u s).d3 = s.d3 ∧ (putUnit k u s).perst = s.perst ∧ (putUnit k u s).hdm = s.hdm ∧
    (putUnit k u s).psNext = s.psNext ∧ (putUnit k u s).clamp = s.clamp ∧ (putUnit k u s).divided = s.divided ∧
    (putUnit k u s).coreSet = s.coreSet ∧ (putUnit k u s).supplyLow = s.supplyLow ∧ (putUnit k u s).lowMs = s.lowMs ∧
    (putUnit k u s).romOnly = s.romOnly ∧ (putUnit k u s).update = s.update ∧ (putUnit k u s).fwDone = s.fwDone ∧
    (putUnit k u s).fwSlots = s.fwSlots ∧ (putUnit k u s).dies = s.dies ∧ (putUnit k u s).retQueue = s.retQueue := by
  repeat' constructor

@[simp] theorem putSpad_fields (g : Nat) (x : Spad) :
    (putSpad g x s).pending = s.pending ∧ (putSpad g x s).outbox = s.outbox ∧ (putSpad g x s).freeCtr = s.freeCtr ∧
    (putSpad g x s).variant = s.variant ∧ (putSpad g x s).regs = s.regs ∧ (putSpad g x s).staging = s.staging ∧
    (putSpad g x s).prevSet = s.prevSet ∧ (putSpad g x s).ops = s.ops ∧ (putSpad g x s).vslots = s.vslots ∧
    (putSpad g x s).floorAbove = s.floorAbove ∧ (putSpad g x s).sourceLost = s.sourceLost ∧
    (putSpad g x s).ldgSeq = s.ldgSeq ∧ (putSpad g x s).ldgLost = s.ldgLost ∧ (putSpad g x s).ctxs = s.ctxs ∧
    (putSpad g x s).runs = s.runs ∧ (putSpad g x s).nextRun = s.nextRun ∧ (putSpad g x s).pms = s.pms ∧
    (putSpad g x s).engines = s.engines ∧ (putSpad g x s).spad = s.spad ∧ (putSpad g x s).spadChk = s.spadChk ∧
    (putSpad g x s).serais = s.serais ∧ (putSpad g x s).loadQ = s.loadQ ∧ (putSpad g x s).loading = s.loading ∧
    (putSpad g x s).loadCount = s.loadCount ∧ (putSpad g x s).sess = s.sess ∧ (putSpad g x s).abortWaits = s.abortWaits ∧
    (putSpad g x s).memGens = s.memGens ∧ (putSpad g x s).spadGen = s.spadGen ∧ (putSpad g x s).dram = s.dram ∧
    (putSpad g x s).dramChk = s.dramChk ∧ (putSpad g x s).chans = s.chans ∧ (putSpad g x s).units = s.units ∧
    (putSpad g x s).flights = s.flights ∧ (putSpad g x s).snoop = s.snoop ∧ (putSpad g x s).biWait = s.biWait ∧
    (putSpad g x s).msix = s.msix ∧ (putSpad g x s).ceWins = s.ceWins ∧ (putSpad g x s).drovers = s.drovers ∧
    (putSpad g x s).remaps = s.remaps ∧ (putSpad g x s).repairLog = s.repairLog ∧
    (putSpad g x s).servedBytes = s.servedBytes ∧ (putSpad g x s).ports = s.ports ∧ (putSpad g x s).members = s.members ∧
    (putSpad g x s).bseqs = s.bseqs ∧ (putSpad g x s).lastFrames = s.lastFrames ∧ (putSpad g x s).left = s.left ∧
    (putSpad g x s).sens = s.sens ∧ (putSpad g x s).stackHold = s.stackHold ∧ (putSpad g x s).partHold = s.partHold ∧
    (putSpad g x s).partCond = s.partCond ∧ (putSpad g x s).pllTemp = s.pllTemp ∧ (putSpad g x s).recov = s.recov ∧
    (putSpad g x s).winOpen = s.winOpen ∧ (putSpad g x s).compBad = s.compBad ∧ (putSpad g x s).keys = s.keys ∧
    (putSpad g x s).psks = s.psks ∧ (putSpad g x s).spdm = s.spdm ∧ (putSpad g x s).pskFails = s.pskFails ∧
    (putSpad g x s).pskLocked = s.pskLocked ∧ (putSpad g x s).setCount = s.setCount ∧ (putSpad g x s).zeroDue = s.zeroDue ∧
    (putSpad g x s).d3 = s.d3 ∧ (putSpad g x s).perst = s.perst ∧ (putSpad g x s).hdm = s.hdm ∧
    (putSpad g x s).psNext = s.psNext ∧ (putSpad g x s).clamp = s.clamp ∧ (putSpad g x s).divided = s.divided ∧
    (putSpad g x s).coreSet = s.coreSet ∧ (putSpad g x s).supplyLow = s.supplyLow ∧ (putSpad g x s).lowMs = s.lowMs ∧
    (putSpad g x s).romOnly = s.romOnly ∧ (putSpad g x s).update = s.update ∧ (putSpad g x s).fwDone = s.fwDone ∧
    (putSpad g x s).fwSlots = s.fwSlots ∧ (putSpad g x s).dies = s.dies ∧ (putSpad g x s).retQueue = s.retQueue := by
  repeat' constructor

@[simp] theorem putSerai_fields (k : Nat) (x : Serai) :
    (putSerai k x s).pending = s.pending ∧ (putSerai k x s).outbox = s.outbox ∧ (putSerai k x s).freeCtr = s.freeCtr ∧
    (putSerai k x s).variant = s.variant ∧ (putSerai k x s).regs = s.regs ∧ (putSerai k x s).staging = s.staging ∧
    (putSerai k x s).prevSet = s.prevSet ∧ (putSerai k x s).ops = s.ops ∧ (putSerai k x s).vslots = s.vslots ∧
    (putSerai k x s).floorAbove = s.floorAbove ∧ (putSerai k x s).sourceLost = s.sourceLost ∧
    (putSerai k x s).ldgSeq = s.ldgSeq ∧ (putSerai k x s).ldgLost = s.ldgLost ∧ (putSerai k x s).ctxs = s.ctxs ∧
    (putSerai k x s).runs = s.runs ∧ (putSerai k x s).nextRun = s.nextRun ∧ (putSerai k x s).pms = s.pms ∧
    (putSerai k x s).engines = s.engines ∧ (putSerai k x s).spads = s.spads ∧ (putSerai k x s).spad = s.spad ∧
    (putSerai k x s).spadChk = s.spadChk ∧ (putSerai k x s).loadQ = s.loadQ ∧ (putSerai k x s).loading = s.loading ∧
    (putSerai k x s).loadCount = s.loadCount ∧ (putSerai k x s).sess = s.sess ∧
    (putSerai k x s).abortWaits = s.abortWaits ∧ (putSerai k x s).memGens = s.memGens ∧
    (putSerai k x s).spadGen = s.spadGen ∧ (putSerai k x s).dram = s.dram ∧ (putSerai k x s).dramChk = s.dramChk ∧
    (putSerai k x s).chans = s.chans ∧ (putSerai k x s).units = s.units ∧ (putSerai k x s).flights = s.flights ∧
    (putSerai k x s).snoop = s.snoop ∧ (putSerai k x s).biWait = s.biWait ∧ (putSerai k x s).msix = s.msix ∧
    (putSerai k x s).ceWins = s.ceWins ∧ (putSerai k x s).drovers = s.drovers ∧ (putSerai k x s).remaps = s.remaps ∧
    (putSerai k x s).repairLog = s.repairLog ∧ (putSerai k x s).servedBytes = s.servedBytes ∧
    (putSerai k x s).ports = s.ports ∧ (putSerai k x s).members = s.members ∧ (putSerai k x s).bseqs = s.bseqs ∧
    (putSerai k x s).lastFrames = s.lastFrames ∧ (putSerai k x s).left = s.left ∧ (putSerai k x s).sens = s.sens ∧
    (putSerai k x s).stackHold = s.stackHold ∧ (putSerai k x s).partHold = s.partHold ∧
    (putSerai k x s).partCond = s.partCond ∧ (putSerai k x s).pllTemp = s.pllTemp ∧ (putSerai k x s).recov = s.recov ∧
    (putSerai k x s).winOpen = s.winOpen ∧ (putSerai k x s).compBad = s.compBad ∧ (putSerai k x s).keys = s.keys ∧
    (putSerai k x s).psks = s.psks ∧ (putSerai k x s).spdm = s.spdm ∧ (putSerai k x s).pskFails = s.pskFails ∧
    (putSerai k x s).pskLocked = s.pskLocked ∧ (putSerai k x s).setCount = s.setCount ∧
    (putSerai k x s).zeroDue = s.zeroDue ∧ (putSerai k x s).d3 = s.d3 ∧ (putSerai k x s).perst = s.perst ∧
    (putSerai k x s).hdm = s.hdm ∧ (putSerai k x s).psNext = s.psNext ∧ (putSerai k x s).clamp = s.clamp ∧
    (putSerai k x s).divided = s.divided ∧ (putSerai k x s).coreSet = s.coreSet ∧
    (putSerai k x s).supplyLow = s.supplyLow ∧ (putSerai k x s).lowMs = s.lowMs ∧ (putSerai k x s).romOnly = s.romOnly ∧
    (putSerai k x s).update = s.update ∧ (putSerai k x s).fwDone = s.fwDone ∧ (putSerai k x s).fwSlots = s.fwSlots ∧
    (putSerai k x s).dies = s.dies ∧ (putSerai k x s).retQueue = s.retQueue := by
  repeat' constructor

@[simp] theorem putSess_fields (k : Nat) (x : Sess) :
    (putSess k x s).pending = s.pending ∧ (putSess k x s).outbox = s.outbox ∧ (putSess k x s).freeCtr = s.freeCtr ∧
    (putSess k x s).variant = s.variant ∧ (putSess k x s).regs = s.regs ∧ (putSess k x s).staging = s.staging ∧
    (putSess k x s).prevSet = s.prevSet ∧ (putSess k x s).ops = s.ops ∧ (putSess k x s).vslots = s.vslots ∧
    (putSess k x s).floorAbove = s.floorAbove ∧ (putSess k x s).sourceLost = s.sourceLost ∧
    (putSess k x s).ldgSeq = s.ldgSeq ∧ (putSess k x s).ldgLost = s.ldgLost ∧ (putSess k x s).ctxs = s.ctxs ∧
    (putSess k x s).runs = s.runs ∧ (putSess k x s).nextRun = s.nextRun ∧ (putSess k x s).pms = s.pms ∧
    (putSess k x s).engines = s.engines ∧ (putSess k x s).spads = s.spads ∧ (putSess k x s).spad = s.spad ∧
    (putSess k x s).spadChk = s.spadChk ∧ (putSess k x s).serais = s.serais ∧ (putSess k x s).loadQ = s.loadQ ∧
    (putSess k x s).loading = s.loading ∧ (putSess k x s).loadCount = s.loadCount ∧
    (putSess k x s).abortWaits = s.abortWaits ∧ (putSess k x s).memGens = s.memGens ∧ (putSess k x s).spadGen = s.spadGen ∧
    (putSess k x s).dram = s.dram ∧ (putSess k x s).dramChk = s.dramChk ∧ (putSess k x s).chans = s.chans ∧
    (putSess k x s).units = s.units ∧ (putSess k x s).flights = s.flights ∧ (putSess k x s).snoop = s.snoop ∧
    (putSess k x s).biWait = s.biWait ∧ (putSess k x s).msix = s.msix ∧ (putSess k x s).ceWins = s.ceWins ∧
    (putSess k x s).drovers = s.drovers ∧ (putSess k x s).remaps = s.remaps ∧ (putSess k x s).repairLog = s.repairLog ∧
    (putSess k x s).servedBytes = s.servedBytes ∧ (putSess k x s).ports = s.ports ∧ (putSess k x s).members = s.members ∧
    (putSess k x s).bseqs = s.bseqs ∧ (putSess k x s).lastFrames = s.lastFrames ∧ (putSess k x s).left = s.left ∧
    (putSess k x s).sens = s.sens ∧ (putSess k x s).stackHold = s.stackHold ∧ (putSess k x s).partHold = s.partHold ∧
    (putSess k x s).partCond = s.partCond ∧ (putSess k x s).pllTemp = s.pllTemp ∧ (putSess k x s).recov = s.recov ∧
    (putSess k x s).winOpen = s.winOpen ∧ (putSess k x s).compBad = s.compBad ∧ (putSess k x s).keys = s.keys ∧
    (putSess k x s).psks = s.psks ∧ (putSess k x s).spdm = s.spdm ∧ (putSess k x s).pskFails = s.pskFails ∧
    (putSess k x s).pskLocked = s.pskLocked ∧ (putSess k x s).setCount = s.setCount ∧ (putSess k x s).zeroDue = s.zeroDue ∧
    (putSess k x s).d3 = s.d3 ∧ (putSess k x s).perst = s.perst ∧ (putSess k x s).hdm = s.hdm ∧
    (putSess k x s).psNext = s.psNext ∧ (putSess k x s).clamp = s.clamp ∧ (putSess k x s).divided = s.divided ∧
    (putSess k x s).coreSet = s.coreSet ∧ (putSess k x s).supplyLow = s.supplyLow ∧ (putSess k x s).lowMs = s.lowMs ∧
    (putSess k x s).romOnly = s.romOnly ∧ (putSess k x s).update = s.update ∧ (putSess k x s).fwDone = s.fwDone ∧
    (putSess k x s).fwSlots = s.fwSlots ∧ (putSess k x s).dies = s.dies ∧ (putSess k x s).retQueue = s.retQueue := by
  repeat' constructor

@[simp] theorem putRun_fields (k : Nat) (x : Option Run) :
    (putRun k x s).pending = s.pending ∧ (putRun k x s).outbox = s.outbox ∧ (putRun k x s).freeCtr = s.freeCtr ∧
    (putRun k x s).variant = s.variant ∧ (putRun k x s).regs = s.regs ∧ (putRun k x s).staging = s.staging ∧
    (putRun k x s).prevSet = s.prevSet ∧ (putRun k x s).ops = s.ops ∧ (putRun k x s).vslots = s.vslots ∧
    (putRun k x s).floorAbove = s.floorAbove ∧ (putRun k x s).sourceLost = s.sourceLost ∧
    (putRun k x s).ldgSeq = s.ldgSeq ∧ (putRun k x s).ldgLost = s.ldgLost ∧ (putRun k x s).ctxs = s.ctxs ∧
    (putRun k x s).nextRun = s.nextRun ∧ (putRun k x s).pms = s.pms ∧ (putRun k x s).engines = s.engines ∧
    (putRun k x s).spads = s.spads ∧ (putRun k x s).spad = s.spad ∧ (putRun k x s).spadChk = s.spadChk ∧
    (putRun k x s).serais = s.serais ∧ (putRun k x s).loadQ = s.loadQ ∧ (putRun k x s).loading = s.loading ∧
    (putRun k x s).loadCount = s.loadCount ∧ (putRun k x s).sess = s.sess ∧ (putRun k x s).abortWaits = s.abortWaits ∧
    (putRun k x s).memGens = s.memGens ∧ (putRun k x s).spadGen = s.spadGen ∧ (putRun k x s).dram = s.dram ∧
    (putRun k x s).dramChk = s.dramChk ∧ (putRun k x s).chans = s.chans ∧ (putRun k x s).units = s.units ∧
    (putRun k x s).flights = s.flights ∧ (putRun k x s).snoop = s.snoop ∧ (putRun k x s).biWait = s.biWait ∧
    (putRun k x s).msix = s.msix ∧ (putRun k x s).ceWins = s.ceWins ∧ (putRun k x s).drovers = s.drovers ∧
    (putRun k x s).remaps = s.remaps ∧ (putRun k x s).repairLog = s.repairLog ∧
    (putRun k x s).servedBytes = s.servedBytes ∧ (putRun k x s).ports = s.ports ∧ (putRun k x s).members = s.members ∧
    (putRun k x s).bseqs = s.bseqs ∧ (putRun k x s).lastFrames = s.lastFrames ∧ (putRun k x s).left = s.left ∧
    (putRun k x s).sens = s.sens ∧ (putRun k x s).stackHold = s.stackHold ∧ (putRun k x s).partHold = s.partHold ∧
    (putRun k x s).partCond = s.partCond ∧ (putRun k x s).pllTemp = s.pllTemp ∧ (putRun k x s).recov = s.recov ∧
    (putRun k x s).winOpen = s.winOpen ∧ (putRun k x s).compBad = s.compBad ∧ (putRun k x s).keys = s.keys ∧
    (putRun k x s).psks = s.psks ∧ (putRun k x s).spdm = s.spdm ∧ (putRun k x s).pskFails = s.pskFails ∧
    (putRun k x s).pskLocked = s.pskLocked ∧ (putRun k x s).setCount = s.setCount ∧ (putRun k x s).zeroDue = s.zeroDue ∧
    (putRun k x s).d3 = s.d3 ∧ (putRun k x s).perst = s.perst ∧ (putRun k x s).hdm = s.hdm ∧
    (putRun k x s).psNext = s.psNext ∧ (putRun k x s).clamp = s.clamp ∧ (putRun k x s).divided = s.divided ∧
    (putRun k x s).coreSet = s.coreSet ∧ (putRun k x s).supplyLow = s.supplyLow ∧ (putRun k x s).lowMs = s.lowMs ∧
    (putRun k x s).romOnly = s.romOnly ∧ (putRun k x s).update = s.update ∧ (putRun k x s).fwDone = s.fwDone ∧
    (putRun k x s).fwSlots = s.fwSlots ∧ (putRun k x s).dies = s.dies ∧ (putRun k x s).retQueue = s.retQueue := by
  repeat' constructor

@[simp] theorem putPm_fields (k : Nat) (x : PmSlot) :
    (putPm k x s).pending = s.pending ∧ (putPm k x s).outbox = s.outbox ∧ (putPm k x s).freeCtr = s.freeCtr ∧
    (putPm k x s).variant = s.variant ∧ (putPm k x s).regs = s.regs ∧ (putPm k x s).staging = s.staging ∧
    (putPm k x s).prevSet = s.prevSet ∧ (putPm k x s).ops = s.ops ∧ (putPm k x s).vslots = s.vslots ∧
    (putPm k x s).floorAbove = s.floorAbove ∧ (putPm k x s).sourceLost = s.sourceLost ∧ (putPm k x s).ldgSeq = s.ldgSeq ∧
    (putPm k x s).ldgLost = s.ldgLost ∧ (putPm k x s).ctxs = s.ctxs ∧ (putPm k x s).runs = s.runs ∧
    (putPm k x s).nextRun = s.nextRun ∧ (putPm k x s).engines = s.engines ∧ (putPm k x s).spads = s.spads ∧
    (putPm k x s).spad = s.spad ∧ (putPm k x s).spadChk = s.spadChk ∧ (putPm k x s).serais = s.serais ∧
    (putPm k x s).loadQ = s.loadQ ∧ (putPm k x s).loading = s.loading ∧ (putPm k x s).loadCount = s.loadCount ∧
    (putPm k x s).sess = s.sess ∧ (putPm k x s).abortWaits = s.abortWaits ∧ (putPm k x s).memGens = s.memGens ∧
    (putPm k x s).spadGen = s.spadGen ∧ (putPm k x s).dram = s.dram ∧ (putPm k x s).dramChk = s.dramChk ∧
    (putPm k x s).chans = s.chans ∧ (putPm k x s).units = s.units ∧ (putPm k x s).flights = s.flights ∧
    (putPm k x s).snoop = s.snoop ∧ (putPm k x s).biWait = s.biWait ∧ (putPm k x s).msix = s.msix ∧
    (putPm k x s).ceWins = s.ceWins ∧ (putPm k x s).drovers = s.drovers ∧ (putPm k x s).remaps = s.remaps ∧
    (putPm k x s).repairLog = s.repairLog ∧ (putPm k x s).servedBytes = s.servedBytes ∧ (putPm k x s).ports = s.ports ∧
    (putPm k x s).members = s.members ∧ (putPm k x s).bseqs = s.bseqs ∧ (putPm k x s).lastFrames = s.lastFrames ∧
    (putPm k x s).left = s.left ∧ (putPm k x s).sens = s.sens ∧ (putPm k x s).stackHold = s.stackHold ∧
    (putPm k x s).partHold = s.partHold ∧ (putPm k x s).partCond = s.partCond ∧ (putPm k x s).pllTemp = s.pllTemp ∧
    (putPm k x s).recov = s.recov ∧ (putPm k x s).winOpen = s.winOpen ∧ (putPm k x s).compBad = s.compBad ∧
    (putPm k x s).keys = s.keys ∧ (putPm k x s).psks = s.psks ∧ (putPm k x s).spdm = s.spdm ∧
    (putPm k x s).pskFails = s.pskFails ∧ (putPm k x s).pskLocked = s.pskLocked ∧ (putPm k x s).setCount = s.setCount ∧
    (putPm k x s).zeroDue = s.zeroDue ∧ (putPm k x s).d3 = s.d3 ∧ (putPm k x s).perst = s.perst ∧
    (putPm k x s).hdm = s.hdm ∧ (putPm k x s).psNext = s.psNext ∧ (putPm k x s).clamp = s.clamp ∧
    (putPm k x s).divided = s.divided ∧ (putPm k x s).coreSet = s.coreSet ∧ (putPm k x s).supplyLow = s.supplyLow ∧
    (putPm k x s).lowMs = s.lowMs ∧ (putPm k x s).romOnly = s.romOnly ∧ (putPm k x s).update = s.update ∧
    (putPm k x s).fwDone = s.fwDone ∧ (putPm k x s).fwSlots = s.fwSlots ∧ (putPm k x s).dies = s.dies ∧
    (putPm k x s).retQueue = s.retQueue := by
  repeat' constructor

@[simp] theorem putEngine_fields (k : Nat) (x : QEngine) :
    (putEngine k x s).pending = s.pending ∧ (putEngine k x s).outbox = s.outbox ∧ (putEngine k x s).freeCtr = s.freeCtr ∧
    (putEngine k x s).variant = s.variant ∧ (putEngine k x s).regs = s.regs ∧ (putEngine k x s).staging = s.staging ∧
    (putEngine k x s).prevSet = s.prevSet ∧ (putEngine k x s).ops = s.ops ∧ (putEngine k x s).vslots = s.vslots ∧
    (putEngine k x s).floorAbove = s.floorAbove ∧ (putEngine k x s).sourceLost = s.sourceLost ∧
    (putEngine k x s).ldgSeq = s.ldgSeq ∧ (putEngine k x s).ldgLost = s.ldgLost ∧ (putEngine k x s).ctxs = s.ctxs ∧
    (putEngine k x s).runs = s.runs ∧ (putEngine k x s).nextRun = s.nextRun ∧ (putEngine k x s).pms = s.pms ∧
    (putEngine k x s).spads = s.spads ∧ (putEngine k x s).spad = s.spad ∧ (putEngine k x s).spadChk = s.spadChk ∧
    (putEngine k x s).serais = s.serais ∧ (putEngine k x s).loadQ = s.loadQ ∧ (putEngine k x s).loading = s.loading ∧
    (putEngine k x s).loadCount = s.loadCount ∧ (putEngine k x s).sess = s.sess ∧
    (putEngine k x s).abortWaits = s.abortWaits ∧ (putEngine k x s).memGens = s.memGens ∧
    (putEngine k x s).spadGen = s.spadGen ∧ (putEngine k x s).dram = s.dram ∧ (putEngine k x s).dramChk = s.dramChk ∧
    (putEngine k x s).chans = s.chans ∧ (putEngine k x s).units = s.units ∧ (putEngine k x s).flights = s.flights ∧
    (putEngine k x s).snoop = s.snoop ∧ (putEngine k x s).biWait = s.biWait ∧ (putEngine k x s).msix = s.msix ∧
    (putEngine k x s).ceWins = s.ceWins ∧ (putEngine k x s).drovers = s.drovers ∧ (putEngine k x s).remaps = s.remaps ∧
    (putEngine k x s).repairLog = s.repairLog ∧ (putEngine k x s).servedBytes = s.servedBytes ∧
    (putEngine k x s).ports = s.ports ∧ (putEngine k x s).members = s.members ∧ (putEngine k x s).bseqs = s.bseqs ∧
    (putEngine k x s).lastFrames = s.lastFrames ∧ (putEngine k x s).left = s.left ∧ (putEngine k x s).sens = s.sens ∧
    (putEngine k x s).stackHold = s.stackHold ∧ (putEngine k x s).partHold = s.partHold ∧
    (putEngine k x s).partCond = s.partCond ∧ (putEngine k x s).pllTemp = s.pllTemp ∧ (putEngine k x s).recov = s.recov ∧
    (putEngine k x s).winOpen = s.winOpen ∧ (putEngine k x s).compBad = s.compBad ∧ (putEngine k x s).keys = s.keys ∧
    (putEngine k x s).psks = s.psks ∧ (putEngine k x s).spdm = s.spdm ∧ (putEngine k x s).pskFails = s.pskFails ∧
    (putEngine k x s).pskLocked = s.pskLocked ∧ (putEngine k x s).setCount = s.setCount ∧
    (putEngine k x s).zeroDue = s.zeroDue ∧ (putEngine k x s).d3 = s.d3 ∧ (putEngine k x s).perst = s.perst ∧
    (putEngine k x s).hdm = s.hdm ∧ (putEngine k x s).psNext = s.psNext ∧ (putEngine k x s).clamp = s.clamp ∧
    (putEngine k x s).divided = s.divided ∧ (putEngine k x s).coreSet = s.coreSet ∧
    (putEngine k x s).supplyLow = s.supplyLow ∧ (putEngine k x s).lowMs = s.lowMs ∧ (putEngine k x s).romOnly = s.romOnly ∧
    (putEngine k x s).update = s.update ∧ (putEngine k x s).fwDone = s.fwDone ∧ (putEngine k x s).fwSlots = s.fwSlots ∧
    (putEngine k x s).dies = s.dies ∧ (putEngine k x s).retQueue = s.retQueue := by
  repeat' constructor

@[simp] theorem putDram_fields (a : Nat) (b : Byte) :
    (putDram a b s).pending = s.pending ∧ (putDram a b s).outbox = s.outbox ∧ (putDram a b s).freeCtr = s.freeCtr ∧
    (putDram a b s).variant = s.variant ∧ (putDram a b s).regs = s.regs ∧ (putDram a b s).staging = s.staging ∧
    (putDram a b s).prevSet = s.prevSet ∧ (putDram a b s).ops = s.ops ∧ (putDram a b s).vslots = s.vslots ∧
    (putDram a b s).floorAbove = s.floorAbove ∧ (putDram a b s).sourceLost = s.sourceLost ∧
    (putDram a b s).ldgSeq = s.ldgSeq ∧ (putDram a b s).ldgLost = s.ldgLost ∧ (putDram a b s).ctxs = s.ctxs ∧
    (putDram a b s).runs = s.runs ∧ (putDram a b s).nextRun = s.nextRun ∧ (putDram a b s).pms = s.pms ∧
    (putDram a b s).engines = s.engines ∧ (putDram a b s).spads = s.spads ∧ (putDram a b s).spad = s.spad ∧
    (putDram a b s).spadChk = s.spadChk ∧ (putDram a b s).serais = s.serais ∧ (putDram a b s).loadQ = s.loadQ ∧
    (putDram a b s).loading = s.loading ∧ (putDram a b s).loadCount = s.loadCount ∧ (putDram a b s).sess = s.sess ∧
    (putDram a b s).abortWaits = s.abortWaits ∧ (putDram a b s).memGens = s.memGens ∧ (putDram a b s).spadGen = s.spadGen ∧
    (putDram a b s).dramChk = s.dramChk ∧ (putDram a b s).chans = s.chans ∧ (putDram a b s).units = s.units ∧
    (putDram a b s).flights = s.flights ∧ (putDram a b s).snoop = s.snoop ∧ (putDram a b s).biWait = s.biWait ∧
    (putDram a b s).msix = s.msix ∧ (putDram a b s).ceWins = s.ceWins ∧ (putDram a b s).drovers = s.drovers ∧
    (putDram a b s).remaps = s.remaps ∧ (putDram a b s).repairLog = s.repairLog ∧
    (putDram a b s).servedBytes = s.servedBytes ∧ (putDram a b s).ports = s.ports ∧ (putDram a b s).members = s.members ∧
    (putDram a b s).bseqs = s.bseqs ∧ (putDram a b s).lastFrames = s.lastFrames ∧ (putDram a b s).left = s.left ∧
    (putDram a b s).sens = s.sens ∧ (putDram a b s).stackHold = s.stackHold ∧ (putDram a b s).partHold = s.partHold ∧
    (putDram a b s).partCond = s.partCond ∧ (putDram a b s).pllTemp = s.pllTemp ∧ (putDram a b s).recov = s.recov ∧
    (putDram a b s).winOpen = s.winOpen ∧ (putDram a b s).compBad = s.compBad ∧ (putDram a b s).keys = s.keys ∧
    (putDram a b s).psks = s.psks ∧ (putDram a b s).spdm = s.spdm ∧ (putDram a b s).pskFails = s.pskFails ∧
    (putDram a b s).pskLocked = s.pskLocked ∧ (putDram a b s).setCount = s.setCount ∧ (putDram a b s).zeroDue = s.zeroDue ∧
    (putDram a b s).d3 = s.d3 ∧ (putDram a b s).perst = s.perst ∧ (putDram a b s).hdm = s.hdm ∧
    (putDram a b s).psNext = s.psNext ∧ (putDram a b s).clamp = s.clamp ∧ (putDram a b s).divided = s.divided ∧
    (putDram a b s).coreSet = s.coreSet ∧ (putDram a b s).supplyLow = s.supplyLow ∧ (putDram a b s).lowMs = s.lowMs ∧
    (putDram a b s).romOnly = s.romOnly ∧ (putDram a b s).update = s.update ∧ (putDram a b s).fwDone = s.fwDone ∧
    (putDram a b s).fwSlots = s.fwSlots ∧ (putDram a b s).dies = s.dies ∧ (putDram a b s).retQueue = s.retQueue := by
  repeat' constructor

@[simp] theorem putDramChk_fields (c : Nat) (v : Option Nat) :
    (putDramChk c v s).pending = s.pending ∧ (putDramChk c v s).outbox = s.outbox ∧
    (putDramChk c v s).freeCtr = s.freeCtr ∧ (putDramChk c v s).variant = s.variant ∧ (putDramChk c v s).regs = s.regs ∧
    (putDramChk c v s).staging = s.staging ∧ (putDramChk c v s).prevSet = s.prevSet ∧ (putDramChk c v s).ops = s.ops ∧
    (putDramChk c v s).vslots = s.vslots ∧ (putDramChk c v s).floorAbove = s.floorAbove ∧
    (putDramChk c v s).sourceLost = s.sourceLost ∧ (putDramChk c v s).ldgSeq = s.ldgSeq ∧
    (putDramChk c v s).ldgLost = s.ldgLost ∧ (putDramChk c v s).ctxs = s.ctxs ∧ (putDramChk c v s).runs = s.runs ∧
    (putDramChk c v s).nextRun = s.nextRun ∧ (putDramChk c v s).pms = s.pms ∧ (putDramChk c v s).engines = s.engines ∧
    (putDramChk c v s).spads = s.spads ∧ (putDramChk c v s).spad = s.spad ∧ (putDramChk c v s).spadChk = s.spadChk ∧
    (putDramChk c v s).serais = s.serais ∧ (putDramChk c v s).loadQ = s.loadQ ∧ (putDramChk c v s).loading = s.loading ∧
    (putDramChk c v s).loadCount = s.loadCount ∧ (putDramChk c v s).sess = s.sess ∧
    (putDramChk c v s).abortWaits = s.abortWaits ∧ (putDramChk c v s).memGens = s.memGens ∧
    (putDramChk c v s).spadGen = s.spadGen ∧ (putDramChk c v s).dram = s.dram ∧ (putDramChk c v s).chans = s.chans ∧
    (putDramChk c v s).units = s.units ∧ (putDramChk c v s).flights = s.flights ∧ (putDramChk c v s).snoop = s.snoop ∧
    (putDramChk c v s).biWait = s.biWait ∧ (putDramChk c v s).msix = s.msix ∧ (putDramChk c v s).ceWins = s.ceWins ∧
    (putDramChk c v s).drovers = s.drovers ∧ (putDramChk c v s).remaps = s.remaps ∧
    (putDramChk c v s).repairLog = s.repairLog ∧ (putDramChk c v s).servedBytes = s.servedBytes ∧
    (putDramChk c v s).ports = s.ports ∧ (putDramChk c v s).members = s.members ∧ (putDramChk c v s).bseqs = s.bseqs ∧
    (putDramChk c v s).lastFrames = s.lastFrames ∧ (putDramChk c v s).left = s.left ∧ (putDramChk c v s).sens = s.sens ∧
    (putDramChk c v s).stackHold = s.stackHold ∧ (putDramChk c v s).partHold = s.partHold ∧
    (putDramChk c v s).partCond = s.partCond ∧ (putDramChk c v s).pllTemp = s.pllTemp ∧
    (putDramChk c v s).recov = s.recov ∧ (putDramChk c v s).winOpen = s.winOpen ∧ (putDramChk c v s).compBad = s.compBad ∧
    (putDramChk c v s).keys = s.keys ∧ (putDramChk c v s).psks = s.psks ∧ (putDramChk c v s).spdm = s.spdm ∧
    (putDramChk c v s).pskFails = s.pskFails ∧ (putDramChk c v s).pskLocked = s.pskLocked ∧
    (putDramChk c v s).setCount = s.setCount ∧ (putDramChk c v s).zeroDue = s.zeroDue ∧ (putDramChk c v s).d3 = s.d3 ∧
    (putDramChk c v s).perst = s.perst ∧ (putDramChk c v s).hdm = s.hdm ∧ (putDramChk c v s).psNext = s.psNext ∧
    (putDramChk c v s).clamp = s.clamp ∧ (putDramChk c v s).divided = s.divided ∧ (putDramChk c v s).coreSet = s.coreSet ∧
    (putDramChk c v s).supplyLow = s.supplyLow ∧ (putDramChk c v s).lowMs = s.lowMs ∧
    (putDramChk c v s).romOnly = s.romOnly ∧ (putDramChk c v s).update = s.update ∧ (putDramChk c v s).fwDone = s.fwDone ∧
    (putDramChk c v s).fwSlots = s.fwSlots ∧ (putDramChk c v s).dies = s.dies ∧ (putDramChk c v s).retQueue = s.retQueue := by
  repeat' constructor

@[simp] theorem putSpadByte_fields (a : Nat) (b : Byte) :
    (putSpadByte a b s).pending = s.pending ∧ (putSpadByte a b s).outbox = s.outbox ∧
    (putSpadByte a b s).freeCtr = s.freeCtr ∧ (putSpadByte a b s).variant = s.variant ∧ (putSpadByte a b s).regs = s.regs ∧
    (putSpadByte a b s).staging = s.staging ∧ (putSpadByte a b s).prevSet = s.prevSet ∧ (putSpadByte a b s).ops = s.ops ∧
    (putSpadByte a b s).vslots = s.vslots ∧ (putSpadByte a b s).floorAbove = s.floorAbove ∧
    (putSpadByte a b s).sourceLost = s.sourceLost ∧ (putSpadByte a b s).ldgSeq = s.ldgSeq ∧
    (putSpadByte a b s).ldgLost = s.ldgLost ∧ (putSpadByte a b s).ctxs = s.ctxs ∧ (putSpadByte a b s).runs = s.runs ∧
    (putSpadByte a b s).nextRun = s.nextRun ∧ (putSpadByte a b s).pms = s.pms ∧ (putSpadByte a b s).engines = s.engines ∧
    (putSpadByte a b s).spads = s.spads ∧ (putSpadByte a b s).spadChk = s.spadChk ∧ (putSpadByte a b s).serais = s.serais ∧
    (putSpadByte a b s).loadQ = s.loadQ ∧ (putSpadByte a b s).loading = s.loading ∧
    (putSpadByte a b s).loadCount = s.loadCount ∧ (putSpadByte a b s).sess = s.sess ∧
    (putSpadByte a b s).abortWaits = s.abortWaits ∧ (putSpadByte a b s).memGens = s.memGens ∧
    (putSpadByte a b s).spadGen = s.spadGen ∧ (putSpadByte a b s).dram = s.dram ∧ (putSpadByte a b s).dramChk = s.dramChk ∧
    (putSpadByte a b s).chans = s.chans ∧ (putSpadByte a b s).units = s.units ∧ (putSpadByte a b s).flights = s.flights ∧
    (putSpadByte a b s).snoop = s.snoop ∧ (putSpadByte a b s).biWait = s.biWait ∧ (putSpadByte a b s).msix = s.msix ∧
    (putSpadByte a b s).ceWins = s.ceWins ∧ (putSpadByte a b s).drovers = s.drovers ∧
    (putSpadByte a b s).remaps = s.remaps ∧ (putSpadByte a b s).repairLog = s.repairLog ∧
    (putSpadByte a b s).servedBytes = s.servedBytes ∧ (putSpadByte a b s).ports = s.ports ∧
    (putSpadByte a b s).members = s.members ∧ (putSpadByte a b s).bseqs = s.bseqs ∧
    (putSpadByte a b s).lastFrames = s.lastFrames ∧ (putSpadByte a b s).left = s.left ∧ (putSpadByte a b s).sens = s.sens ∧
    (putSpadByte a b s).stackHold = s.stackHold ∧ (putSpadByte a b s).partHold = s.partHold ∧
    (putSpadByte a b s).partCond = s.partCond ∧ (putSpadByte a b s).pllTemp = s.pllTemp ∧
    (putSpadByte a b s).recov = s.recov ∧ (putSpadByte a b s).winOpen = s.winOpen ∧
    (putSpadByte a b s).compBad = s.compBad ∧ (putSpadByte a b s).keys = s.keys ∧ (putSpadByte a b s).psks = s.psks ∧
    (putSpadByte a b s).spdm = s.spdm ∧ (putSpadByte a b s).pskFails = s.pskFails ∧
    (putSpadByte a b s).pskLocked = s.pskLocked ∧ (putSpadByte a b s).setCount = s.setCount ∧
    (putSpadByte a b s).zeroDue = s.zeroDue ∧ (putSpadByte a b s).d3 = s.d3 ∧ (putSpadByte a b s).perst = s.perst ∧
    (putSpadByte a b s).hdm = s.hdm ∧ (putSpadByte a b s).psNext = s.psNext ∧ (putSpadByte a b s).clamp = s.clamp ∧
    (putSpadByte a b s).divided = s.divided ∧ (putSpadByte a b s).coreSet = s.coreSet ∧
    (putSpadByte a b s).supplyLow = s.supplyLow ∧ (putSpadByte a b s).lowMs = s.lowMs ∧
    (putSpadByte a b s).romOnly = s.romOnly ∧ (putSpadByte a b s).update = s.update ∧
    (putSpadByte a b s).fwDone = s.fwDone ∧ (putSpadByte a b s).fwSlots = s.fwSlots ∧ (putSpadByte a b s).dies = s.dies ∧
    (putSpadByte a b s).retQueue = s.retQueue := by
  repeat' constructor

@[simp] theorem putSpadChk_fields (w : Nat) (v : Option Nat) :
    (putSpadChk w v s).pending = s.pending ∧ (putSpadChk w v s).outbox = s.outbox ∧
    (putSpadChk w v s).freeCtr = s.freeCtr ∧ (putSpadChk w v s).variant = s.variant ∧ (putSpadChk w v s).regs = s.regs ∧
    (putSpadChk w v s).staging = s.staging ∧ (putSpadChk w v s).prevSet = s.prevSet ∧ (putSpadChk w v s).ops = s.ops ∧
    (putSpadChk w v s).vslots = s.vslots ∧ (putSpadChk w v s).floorAbove = s.floorAbove ∧
    (putSpadChk w v s).sourceLost = s.sourceLost ∧ (putSpadChk w v s).ldgSeq = s.ldgSeq ∧
    (putSpadChk w v s).ldgLost = s.ldgLost ∧ (putSpadChk w v s).ctxs = s.ctxs ∧ (putSpadChk w v s).runs = s.runs ∧
    (putSpadChk w v s).nextRun = s.nextRun ∧ (putSpadChk w v s).pms = s.pms ∧ (putSpadChk w v s).engines = s.engines ∧
    (putSpadChk w v s).spads = s.spads ∧ (putSpadChk w v s).spad = s.spad ∧ (putSpadChk w v s).serais = s.serais ∧
    (putSpadChk w v s).loadQ = s.loadQ ∧ (putSpadChk w v s).loading = s.loading ∧
    (putSpadChk w v s).loadCount = s.loadCount ∧ (putSpadChk w v s).sess = s.sess ∧
    (putSpadChk w v s).abortWaits = s.abortWaits ∧ (putSpadChk w v s).memGens = s.memGens ∧
    (putSpadChk w v s).spadGen = s.spadGen ∧ (putSpadChk w v s).dram = s.dram ∧ (putSpadChk w v s).dramChk = s.dramChk ∧
    (putSpadChk w v s).chans = s.chans ∧ (putSpadChk w v s).units = s.units ∧ (putSpadChk w v s).flights = s.flights ∧
    (putSpadChk w v s).snoop = s.snoop ∧ (putSpadChk w v s).biWait = s.biWait ∧ (putSpadChk w v s).msix = s.msix ∧
    (putSpadChk w v s).ceWins = s.ceWins ∧ (putSpadChk w v s).drovers = s.drovers ∧ (putSpadChk w v s).remaps = s.remaps ∧
    (putSpadChk w v s).repairLog = s.repairLog ∧ (putSpadChk w v s).servedBytes = s.servedBytes ∧
    (putSpadChk w v s).ports = s.ports ∧ (putSpadChk w v s).members = s.members ∧ (putSpadChk w v s).bseqs = s.bseqs ∧
    (putSpadChk w v s).lastFrames = s.lastFrames ∧ (putSpadChk w v s).left = s.left ∧ (putSpadChk w v s).sens = s.sens ∧
    (putSpadChk w v s).stackHold = s.stackHold ∧ (putSpadChk w v s).partHold = s.partHold ∧
    (putSpadChk w v s).partCond = s.partCond ∧ (putSpadChk w v s).pllTemp = s.pllTemp ∧
    (putSpadChk w v s).recov = s.recov ∧ (putSpadChk w v s).winOpen = s.winOpen ∧ (putSpadChk w v s).compBad = s.compBad ∧
    (putSpadChk w v s).keys = s.keys ∧ (putSpadChk w v s).psks = s.psks ∧ (putSpadChk w v s).spdm = s.spdm ∧
    (putSpadChk w v s).pskFails = s.pskFails ∧ (putSpadChk w v s).pskLocked = s.pskLocked ∧
    (putSpadChk w v s).setCount = s.setCount ∧ (putSpadChk w v s).zeroDue = s.zeroDue ∧ (putSpadChk w v s).d3 = s.d3 ∧
    (putSpadChk w v s).perst = s.perst ∧ (putSpadChk w v s).hdm = s.hdm ∧ (putSpadChk w v s).psNext = s.psNext ∧
    (putSpadChk w v s).clamp = s.clamp ∧ (putSpadChk w v s).divided = s.divided ∧ (putSpadChk w v s).coreSet = s.coreSet ∧
    (putSpadChk w v s).supplyLow = s.supplyLow ∧ (putSpadChk w v s).lowMs = s.lowMs ∧
    (putSpadChk w v s).romOnly = s.romOnly ∧ (putSpadChk w v s).update = s.update ∧ (putSpadChk w v s).fwDone = s.fwDone ∧
    (putSpadChk w v s).fwSlots = s.fwSlots ∧ (putSpadChk w v s).dies = s.dies ∧ (putSpadChk w v s).retQueue = s.retQueue := by
  repeat' constructor

@[simp] theorem putPort_fields (p : Nat) (x : Port) :
    (putPort p x s).pending = s.pending ∧ (putPort p x s).outbox = s.outbox ∧ (putPort p x s).freeCtr = s.freeCtr ∧
    (putPort p x s).variant = s.variant ∧ (putPort p x s).regs = s.regs ∧ (putPort p x s).staging = s.staging ∧
    (putPort p x s).prevSet = s.prevSet ∧ (putPort p x s).ops = s.ops ∧ (putPort p x s).vslots = s.vslots ∧
    (putPort p x s).floorAbove = s.floorAbove ∧ (putPort p x s).sourceLost = s.sourceLost ∧
    (putPort p x s).ldgSeq = s.ldgSeq ∧ (putPort p x s).ldgLost = s.ldgLost ∧ (putPort p x s).ctxs = s.ctxs ∧
    (putPort p x s).runs = s.runs ∧ (putPort p x s).nextRun = s.nextRun ∧ (putPort p x s).pms = s.pms ∧
    (putPort p x s).engines = s.engines ∧ (putPort p x s).spads = s.spads ∧ (putPort p x s).spad = s.spad ∧
    (putPort p x s).spadChk = s.spadChk ∧ (putPort p x s).serais = s.serais ∧ (putPort p x s).loadQ = s.loadQ ∧
    (putPort p x s).loading = s.loading ∧ (putPort p x s).loadCount = s.loadCount ∧ (putPort p x s).sess = s.sess ∧
    (putPort p x s).abortWaits = s.abortWaits ∧ (putPort p x s).memGens = s.memGens ∧ (putPort p x s).spadGen = s.spadGen ∧
    (putPort p x s).dram = s.dram ∧ (putPort p x s).dramChk = s.dramChk ∧ (putPort p x s).chans = s.chans ∧
    (putPort p x s).units = s.units ∧ (putPort p x s).flights = s.flights ∧ (putPort p x s).snoop = s.snoop ∧
    (putPort p x s).biWait = s.biWait ∧ (putPort p x s).msix = s.msix ∧ (putPort p x s).ceWins = s.ceWins ∧
    (putPort p x s).drovers = s.drovers ∧ (putPort p x s).remaps = s.remaps ∧ (putPort p x s).repairLog = s.repairLog ∧
    (putPort p x s).servedBytes = s.servedBytes ∧ (putPort p x s).members = s.members ∧ (putPort p x s).bseqs = s.bseqs ∧
    (putPort p x s).lastFrames = s.lastFrames ∧ (putPort p x s).left = s.left ∧ (putPort p x s).sens = s.sens ∧
    (putPort p x s).stackHold = s.stackHold ∧ (putPort p x s).partHold = s.partHold ∧
    (putPort p x s).partCond = s.partCond ∧ (putPort p x s).pllTemp = s.pllTemp ∧ (putPort p x s).recov = s.recov ∧
    (putPort p x s).winOpen = s.winOpen ∧ (putPort p x s).compBad = s.compBad ∧ (putPort p x s).keys = s.keys ∧
    (putPort p x s).psks = s.psks ∧ (putPort p x s).spdm = s.spdm ∧ (putPort p x s).pskFails = s.pskFails ∧
    (putPort p x s).pskLocked = s.pskLocked ∧ (putPort p x s).setCount = s.setCount ∧ (putPort p x s).zeroDue = s.zeroDue ∧
    (putPort p x s).d3 = s.d3 ∧ (putPort p x s).perst = s.perst ∧ (putPort p x s).hdm = s.hdm ∧
    (putPort p x s).psNext = s.psNext ∧ (putPort p x s).clamp = s.clamp ∧ (putPort p x s).divided = s.divided ∧
    (putPort p x s).coreSet = s.coreSet ∧ (putPort p x s).supplyLow = s.supplyLow ∧ (putPort p x s).lowMs = s.lowMs ∧
    (putPort p x s).romOnly = s.romOnly ∧ (putPort p x s).update = s.update ∧ (putPort p x s).fwDone = s.fwDone ∧
    (putPort p x s).fwSlots = s.fwSlots ∧ (putPort p x s).dies = s.dies ∧ (putPort p x s).retQueue = s.retQueue := by
  repeat' constructor

@[simp] theorem putDrover_fields (n : Nat) (d : Drover) :
    (putDrover n d s).pending = s.pending ∧ (putDrover n d s).outbox = s.outbox ∧ (putDrover n d s).freeCtr = s.freeCtr ∧
    (putDrover n d s).variant = s.variant ∧ (putDrover n d s).regs = s.regs ∧ (putDrover n d s).staging = s.staging ∧
    (putDrover n d s).prevSet = s.prevSet ∧ (putDrover n d s).ops = s.ops ∧ (putDrover n d s).vslots = s.vslots ∧
    (putDrover n d s).floorAbove = s.floorAbove ∧ (putDrover n d s).sourceLost = s.sourceLost ∧
    (putDrover n d s).ldgSeq = s.ldgSeq ∧ (putDrover n d s).ldgLost = s.ldgLost ∧ (putDrover n d s).ctxs = s.ctxs ∧
    (putDrover n d s).runs = s.runs ∧ (putDrover n d s).nextRun = s.nextRun ∧ (putDrover n d s).pms = s.pms ∧
    (putDrover n d s).engines = s.engines ∧ (putDrover n d s).spads = s.spads ∧ (putDrover n d s).spad = s.spad ∧
    (putDrover n d s).spadChk = s.spadChk ∧ (putDrover n d s).serais = s.serais ∧ (putDrover n d s).loadQ = s.loadQ ∧
    (putDrover n d s).loading = s.loading ∧ (putDrover n d s).loadCount = s.loadCount ∧ (putDrover n d s).sess = s.sess ∧
    (putDrover n d s).abortWaits = s.abortWaits ∧ (putDrover n d s).memGens = s.memGens ∧
    (putDrover n d s).spadGen = s.spadGen ∧ (putDrover n d s).dram = s.dram ∧ (putDrover n d s).dramChk = s.dramChk ∧
    (putDrover n d s).chans = s.chans ∧ (putDrover n d s).units = s.units ∧ (putDrover n d s).flights = s.flights ∧
    (putDrover n d s).snoop = s.snoop ∧ (putDrover n d s).biWait = s.biWait ∧ (putDrover n d s).msix = s.msix ∧
    (putDrover n d s).ceWins = s.ceWins ∧ (putDrover n d s).remaps = s.remaps ∧ (putDrover n d s).repairLog = s.repairLog ∧
    (putDrover n d s).servedBytes = s.servedBytes ∧ (putDrover n d s).ports = s.ports ∧
    (putDrover n d s).members = s.members ∧ (putDrover n d s).bseqs = s.bseqs ∧
    (putDrover n d s).lastFrames = s.lastFrames ∧ (putDrover n d s).left = s.left ∧ (putDrover n d s).sens = s.sens ∧
    (putDrover n d s).stackHold = s.stackHold ∧ (putDrover n d s).partHold = s.partHold ∧
    (putDrover n d s).partCond = s.partCond ∧ (putDrover n d s).pllTemp = s.pllTemp ∧ (putDrover n d s).recov = s.recov ∧
    (putDrover n d s).winOpen = s.winOpen ∧ (putDrover n d s).compBad = s.compBad ∧ (putDrover n d s).keys = s.keys ∧
    (putDrover n d s).psks = s.psks ∧ (putDrover n d s).spdm = s.spdm ∧ (putDrover n d s).pskFails = s.pskFails ∧
    (putDrover n d s).pskLocked = s.pskLocked ∧ (putDrover n d s).setCount = s.setCount ∧
    (putDrover n d s).zeroDue = s.zeroDue ∧ (putDrover n d s).d3 = s.d3 ∧ (putDrover n d s).perst = s.perst ∧
    (putDrover n d s).hdm = s.hdm ∧ (putDrover n d s).psNext = s.psNext ∧ (putDrover n d s).clamp = s.clamp ∧
    (putDrover n d s).divided = s.divided ∧ (putDrover n d s).coreSet = s.coreSet ∧
    (putDrover n d s).supplyLow = s.supplyLow ∧ (putDrover n d s).lowMs = s.lowMs ∧ (putDrover n d s).romOnly = s.romOnly ∧
    (putDrover n d s).update = s.update ∧ (putDrover n d s).fwDone = s.fwDone ∧ (putDrover n d s).fwSlots = s.fwSlots ∧
    (putDrover n d s).dies = s.dies ∧ (putDrover n d s).retQueue = s.retQueue := by
  repeat' constructor

@[simp] theorem putRecov_fields (n : Nat) (r : Option Recov) :
    (putRecov n r s).pending = s.pending ∧ (putRecov n r s).outbox = s.outbox ∧ (putRecov n r s).freeCtr = s.freeCtr ∧
    (putRecov n r s).variant = s.variant ∧ (putRecov n r s).regs = s.regs ∧ (putRecov n r s).staging = s.staging ∧
    (putRecov n r s).prevSet = s.prevSet ∧ (putRecov n r s).ops = s.ops ∧ (putRecov n r s).vslots = s.vslots ∧
    (putRecov n r s).floorAbove = s.floorAbove ∧ (putRecov n r s).sourceLost = s.sourceLost ∧
    (putRecov n r s).ldgSeq = s.ldgSeq ∧ (putRecov n r s).ldgLost = s.ldgLost ∧ (putRecov n r s).ctxs = s.ctxs ∧
    (putRecov n r s).runs = s.runs ∧ (putRecov n r s).nextRun = s.nextRun ∧ (putRecov n r s).pms = s.pms ∧
    (putRecov n r s).engines = s.engines ∧ (putRecov n r s).spads = s.spads ∧ (putRecov n r s).spad = s.spad ∧
    (putRecov n r s).spadChk = s.spadChk ∧ (putRecov n r s).serais = s.serais ∧ (putRecov n r s).loadQ = s.loadQ ∧
    (putRecov n r s).loading = s.loading ∧ (putRecov n r s).loadCount = s.loadCount ∧ (putRecov n r s).sess = s.sess ∧
    (putRecov n r s).abortWaits = s.abortWaits ∧ (putRecov n r s).memGens = s.memGens ∧
    (putRecov n r s).spadGen = s.spadGen ∧ (putRecov n r s).dram = s.dram ∧ (putRecov n r s).dramChk = s.dramChk ∧
    (putRecov n r s).chans = s.chans ∧ (putRecov n r s).units = s.units ∧ (putRecov n r s).flights = s.flights ∧
    (putRecov n r s).snoop = s.snoop ∧ (putRecov n r s).biWait = s.biWait ∧ (putRecov n r s).msix = s.msix ∧
    (putRecov n r s).ceWins = s.ceWins ∧ (putRecov n r s).drovers = s.drovers ∧ (putRecov n r s).remaps = s.remaps ∧
    (putRecov n r s).repairLog = s.repairLog ∧ (putRecov n r s).servedBytes = s.servedBytes ∧
    (putRecov n r s).ports = s.ports ∧ (putRecov n r s).members = s.members ∧ (putRecov n r s).bseqs = s.bseqs ∧
    (putRecov n r s).lastFrames = s.lastFrames ∧ (putRecov n r s).left = s.left ∧ (putRecov n r s).sens = s.sens ∧
    (putRecov n r s).stackHold = s.stackHold ∧ (putRecov n r s).partHold = s.partHold ∧
    (putRecov n r s).partCond = s.partCond ∧ (putRecov n r s).pllTemp = s.pllTemp ∧ (putRecov n r s).winOpen = s.winOpen ∧
    (putRecov n r s).compBad = s.compBad ∧ (putRecov n r s).keys = s.keys ∧ (putRecov n r s).psks = s.psks ∧
    (putRecov n r s).spdm = s.spdm ∧ (putRecov n r s).pskFails = s.pskFails ∧ (putRecov n r s).pskLocked = s.pskLocked ∧
    (putRecov n r s).setCount = s.setCount ∧ (putRecov n r s).zeroDue = s.zeroDue ∧ (putRecov n r s).d3 = s.d3 ∧
    (putRecov n r s).perst = s.perst ∧ (putRecov n r s).hdm = s.hdm ∧ (putRecov n r s).psNext = s.psNext ∧
    (putRecov n r s).clamp = s.clamp ∧ (putRecov n r s).divided = s.divided ∧ (putRecov n r s).coreSet = s.coreSet ∧
    (putRecov n r s).supplyLow = s.supplyLow ∧ (putRecov n r s).lowMs = s.lowMs ∧ (putRecov n r s).romOnly = s.romOnly ∧
    (putRecov n r s).update = s.update ∧ (putRecov n r s).fwDone = s.fwDone ∧ (putRecov n r s).fwSlots = s.fwSlots ∧
    (putRecov n r s).dies = s.dies ∧ (putRecov n r s).retQueue = s.retQueue := by
  repeat' constructor

@[simp] theorem putSpdm_fields (k : Nat) (x : Option SpdmSess) :
    (putSpdm k x s).pending = s.pending ∧ (putSpdm k x s).outbox = s.outbox ∧ (putSpdm k x s).freeCtr = s.freeCtr ∧
    (putSpdm k x s).variant = s.variant ∧ (putSpdm k x s).regs = s.regs ∧ (putSpdm k x s).staging = s.staging ∧
    (putSpdm k x s).prevSet = s.prevSet ∧ (putSpdm k x s).ops = s.ops ∧ (putSpdm k x s).vslots = s.vslots ∧
    (putSpdm k x s).floorAbove = s.floorAbove ∧ (putSpdm k x s).sourceLost = s.sourceLost ∧
    (putSpdm k x s).ldgSeq = s.ldgSeq ∧ (putSpdm k x s).ldgLost = s.ldgLost ∧ (putSpdm k x s).ctxs = s.ctxs ∧
    (putSpdm k x s).runs = s.runs ∧ (putSpdm k x s).nextRun = s.nextRun ∧ (putSpdm k x s).pms = s.pms ∧
    (putSpdm k x s).engines = s.engines ∧ (putSpdm k x s).spads = s.spads ∧ (putSpdm k x s).spad = s.spad ∧
    (putSpdm k x s).spadChk = s.spadChk ∧ (putSpdm k x s).serais = s.serais ∧ (putSpdm k x s).loadQ = s.loadQ ∧
    (putSpdm k x s).loading = s.loading ∧ (putSpdm k x s).loadCount = s.loadCount ∧ (putSpdm k x s).sess = s.sess ∧
    (putSpdm k x s).abortWaits = s.abortWaits ∧ (putSpdm k x s).memGens = s.memGens ∧ (putSpdm k x s).spadGen = s.spadGen ∧
    (putSpdm k x s).dram = s.dram ∧ (putSpdm k x s).dramChk = s.dramChk ∧ (putSpdm k x s).chans = s.chans ∧
    (putSpdm k x s).units = s.units ∧ (putSpdm k x s).flights = s.flights ∧ (putSpdm k x s).snoop = s.snoop ∧
    (putSpdm k x s).biWait = s.biWait ∧ (putSpdm k x s).msix = s.msix ∧ (putSpdm k x s).ceWins = s.ceWins ∧
    (putSpdm k x s).drovers = s.drovers ∧ (putSpdm k x s).remaps = s.remaps ∧ (putSpdm k x s).repairLog = s.repairLog ∧
    (putSpdm k x s).servedBytes = s.servedBytes ∧ (putSpdm k x s).ports = s.ports ∧ (putSpdm k x s).members = s.members ∧
    (putSpdm k x s).bseqs = s.bseqs ∧ (putSpdm k x s).lastFrames = s.lastFrames ∧ (putSpdm k x s).left = s.left ∧
    (putSpdm k x s).sens = s.sens ∧ (putSpdm k x s).stackHold = s.stackHold ∧ (putSpdm k x s).partHold = s.partHold ∧
    (putSpdm k x s).partCond = s.partCond ∧ (putSpdm k x s).pllTemp = s.pllTemp ∧ (putSpdm k x s).recov = s.recov ∧
    (putSpdm k x s).winOpen = s.winOpen ∧ (putSpdm k x s).compBad = s.compBad ∧ (putSpdm k x s).keys = s.keys ∧
    (putSpdm k x s).psks = s.psks ∧ (putSpdm k x s).pskFails = s.pskFails ∧ (putSpdm k x s).pskLocked = s.pskLocked ∧
    (putSpdm k x s).setCount = s.setCount ∧ (putSpdm k x s).zeroDue = s.zeroDue ∧ (putSpdm k x s).d3 = s.d3 ∧
    (putSpdm k x s).perst = s.perst ∧ (putSpdm k x s).hdm = s.hdm ∧ (putSpdm k x s).psNext = s.psNext ∧
    (putSpdm k x s).clamp = s.clamp ∧ (putSpdm k x s).divided = s.divided ∧ (putSpdm k x s).coreSet = s.coreSet ∧
    (putSpdm k x s).supplyLow = s.supplyLow ∧ (putSpdm k x s).lowMs = s.lowMs ∧ (putSpdm k x s).romOnly = s.romOnly ∧
    (putSpdm k x s).update = s.update ∧ (putSpdm k x s).fwDone = s.fwDone ∧ (putSpdm k x s).fwSlots = s.fwSlots ∧
    (putSpdm k x s).dies = s.dies ∧ (putSpdm k x s).retQueue = s.retQueue := by
  repeat' constructor

@[simp] theorem putSens_fields (i : Nat) (x : Sens) :
    (putSens i x s).pending = s.pending ∧ (putSens i x s).outbox = s.outbox ∧ (putSens i x s).freeCtr = s.freeCtr ∧
    (putSens i x s).variant = s.variant ∧ (putSens i x s).regs = s.regs ∧ (putSens i x s).staging = s.staging ∧
    (putSens i x s).prevSet = s.prevSet ∧ (putSens i x s).ops = s.ops ∧ (putSens i x s).vslots = s.vslots ∧
    (putSens i x s).floorAbove = s.floorAbove ∧ (putSens i x s).sourceLost = s.sourceLost ∧
    (putSens i x s).ldgSeq = s.ldgSeq ∧ (putSens i x s).ldgLost = s.ldgLost ∧ (putSens i x s).ctxs = s.ctxs ∧
    (putSens i x s).runs = s.runs ∧ (putSens i x s).nextRun = s.nextRun ∧ (putSens i x s).pms = s.pms ∧
    (putSens i x s).engines = s.engines ∧ (putSens i x s).spads = s.spads ∧ (putSens i x s).spad = s.spad ∧
    (putSens i x s).spadChk = s.spadChk ∧ (putSens i x s).serais = s.serais ∧ (putSens i x s).loadQ = s.loadQ ∧
    (putSens i x s).loading = s.loading ∧ (putSens i x s).loadCount = s.loadCount ∧ (putSens i x s).sess = s.sess ∧
    (putSens i x s).abortWaits = s.abortWaits ∧ (putSens i x s).memGens = s.memGens ∧ (putSens i x s).spadGen = s.spadGen ∧
    (putSens i x s).dram = s.dram ∧ (putSens i x s).dramChk = s.dramChk ∧ (putSens i x s).chans = s.chans ∧
    (putSens i x s).units = s.units ∧ (putSens i x s).flights = s.flights ∧ (putSens i x s).snoop = s.snoop ∧
    (putSens i x s).biWait = s.biWait ∧ (putSens i x s).msix = s.msix ∧ (putSens i x s).ceWins = s.ceWins ∧
    (putSens i x s).drovers = s.drovers ∧ (putSens i x s).remaps = s.remaps ∧ (putSens i x s).repairLog = s.repairLog ∧
    (putSens i x s).servedBytes = s.servedBytes ∧ (putSens i x s).ports = s.ports ∧ (putSens i x s).members = s.members ∧
    (putSens i x s).bseqs = s.bseqs ∧ (putSens i x s).lastFrames = s.lastFrames ∧ (putSens i x s).left = s.left ∧
    (putSens i x s).stackHold = s.stackHold ∧ (putSens i x s).partHold = s.partHold ∧
    (putSens i x s).partCond = s.partCond ∧ (putSens i x s).pllTemp = s.pllTemp ∧ (putSens i x s).recov = s.recov ∧
    (putSens i x s).winOpen = s.winOpen ∧ (putSens i x s).compBad = s.compBad ∧ (putSens i x s).keys = s.keys ∧
    (putSens i x s).psks = s.psks ∧ (putSens i x s).spdm = s.spdm ∧ (putSens i x s).pskFails = s.pskFails ∧
    (putSens i x s).pskLocked = s.pskLocked ∧ (putSens i x s).setCount = s.setCount ∧ (putSens i x s).zeroDue = s.zeroDue ∧
    (putSens i x s).d3 = s.d3 ∧ (putSens i x s).perst = s.perst ∧ (putSens i x s).hdm = s.hdm ∧
    (putSens i x s).psNext = s.psNext ∧ (putSens i x s).clamp = s.clamp ∧ (putSens i x s).divided = s.divided ∧
    (putSens i x s).coreSet = s.coreSet ∧ (putSens i x s).supplyLow = s.supplyLow ∧ (putSens i x s).lowMs = s.lowMs ∧
    (putSens i x s).romOnly = s.romOnly ∧ (putSens i x s).update = s.update ∧ (putSens i x s).fwDone = s.fwDone ∧
    (putSens i x s).fwSlots = s.fwSlots ∧ (putSens i x s).dies = s.dies ∧ (putSens i x s).retQueue = s.retQueue := by
  repeat' constructor

@[simp] theorem putFails_fields (r n : Nat) :
    (putFails r n s).pending = s.pending ∧ (putFails r n s).outbox = s.outbox ∧ (putFails r n s).freeCtr = s.freeCtr ∧
    (putFails r n s).variant = s.variant ∧ (putFails r n s).regs = s.regs ∧ (putFails r n s).staging = s.staging ∧
    (putFails r n s).prevSet = s.prevSet ∧ (putFails r n s).ops = s.ops ∧ (putFails r n s).vslots = s.vslots ∧
    (putFails r n s).floorAbove = s.floorAbove ∧ (putFails r n s).sourceLost = s.sourceLost ∧
    (putFails r n s).ldgSeq = s.ldgSeq ∧ (putFails r n s).ldgLost = s.ldgLost ∧ (putFails r n s).ctxs = s.ctxs ∧
    (putFails r n s).runs = s.runs ∧ (putFails r n s).nextRun = s.nextRun ∧ (putFails r n s).pms = s.pms ∧
    (putFails r n s).engines = s.engines ∧ (putFails r n s).spads = s.spads ∧ (putFails r n s).spad = s.spad ∧
    (putFails r n s).spadChk = s.spadChk ∧ (putFails r n s).serais = s.serais ∧ (putFails r n s).loadQ = s.loadQ ∧
    (putFails r n s).loading = s.loading ∧ (putFails r n s).loadCount = s.loadCount ∧ (putFails r n s).sess = s.sess ∧
    (putFails r n s).abortWaits = s.abortWaits ∧ (putFails r n s).memGens = s.memGens ∧
    (putFails r n s).spadGen = s.spadGen ∧ (putFails r n s).dram = s.dram ∧ (putFails r n s).dramChk = s.dramChk ∧
    (putFails r n s).chans = s.chans ∧ (putFails r n s).units = s.units ∧ (putFails r n s).flights = s.flights ∧
    (putFails r n s).snoop = s.snoop ∧ (putFails r n s).biWait = s.biWait ∧ (putFails r n s).msix = s.msix ∧
    (putFails r n s).ceWins = s.ceWins ∧ (putFails r n s).drovers = s.drovers ∧ (putFails r n s).remaps = s.remaps ∧
    (putFails r n s).repairLog = s.repairLog ∧ (putFails r n s).servedBytes = s.servedBytes ∧
    (putFails r n s).ports = s.ports ∧ (putFails r n s).members = s.members ∧ (putFails r n s).bseqs = s.bseqs ∧
    (putFails r n s).lastFrames = s.lastFrames ∧ (putFails r n s).left = s.left ∧ (putFails r n s).sens = s.sens ∧
    (putFails r n s).stackHold = s.stackHold ∧ (putFails r n s).partHold = s.partHold ∧
    (putFails r n s).partCond = s.partCond ∧ (putFails r n s).pllTemp = s.pllTemp ∧ (putFails r n s).recov = s.recov ∧
    (putFails r n s).winOpen = s.winOpen ∧ (putFails r n s).compBad = s.compBad ∧ (putFails r n s).keys = s.keys ∧
    (putFails r n s).psks = s.psks ∧ (putFails r n s).spdm = s.spdm ∧ (putFails r n s).pskLocked = s.pskLocked ∧
    (putFails r n s).setCount = s.setCount ∧ (putFails r n s).zeroDue = s.zeroDue ∧ (putFails r n s).d3 = s.d3 ∧
    (putFails r n s).perst = s.perst ∧ (putFails r n s).hdm = s.hdm ∧ (putFails r n s).psNext = s.psNext ∧
    (putFails r n s).clamp = s.clamp ∧ (putFails r n s).divided = s.divided ∧ (putFails r n s).coreSet = s.coreSet ∧
    (putFails r n s).supplyLow = s.supplyLow ∧ (putFails r n s).lowMs = s.lowMs ∧ (putFails r n s).romOnly = s.romOnly ∧
    (putFails r n s).update = s.update ∧ (putFails r n s).fwDone = s.fwDone ∧ (putFails r n s).fwSlots = s.fwSlots ∧
    (putFails r n s).dies = s.dies ∧ (putFails r n s).retQueue = s.retQueue := by
  repeat' constructor

end Sys2Proof.Machine
end

