-- ==== Sys2Proof/Laws/Upd.lean ====
section
/-!
SUPPORT. `Upd m a b` says once everything that an operation from `a` to `b` can do: only the parts of the state listed in `m` change,
what was sent out stays sent, fresh values are not drawn twice, and a state in canonical form stays in it. Every operation of the model has
one such lemma, named after it with the suffix _upd.
-/

namespace Sys2Proof.Machine

/-- A list of parts as a number with one bit for each. -/
def bitsOf : List Part → Nat
  | [] => 0
  | p :: l => Nat.lor (Nat.shiftLeft 1 p.ctorIdx) (bitsOf l)

/-- Every part of `x` is one of `y`. -/
def within (x y : List Part) : Bool := Nat.beq (Nat.land (bitsOf x) (bitsOf y)) (bitsOf x)

theorem Part.idx_inj {p q : Part} (h : p.ctorIdx = q.ctorIdx) : p = q := by
  have := congrArg Part.ofNat h
  rwa [Part.ofNat_ctorIdx, Part.ofNat_ctorIdx] at this

theorem bitsOf_mem (l : List Part) (p : Part) : (bitsOf l).testBit p.ctorIdx = l.contains p := by
  induction l with
  | nil => simp [bitsOf]
  | cons q l ih =>
    have h1 : (Nat.shiftLeft 1 q.ctorIdx).testBit p.ctorIdx = decide (p = q) := by
      rw [show Nat.shiftLeft 1 q.ctorIdx = 2 ^ q.ctorIdx from Nat.one_shiftLeft _, Nat.testBit_two_pow]
      by_cases h : p = q
      · simp [h]
      · have : ¬q.ctorIdx = p.ctorIdx := fun e => h (Part.idx_inj e.symm)
        simp [h, this]
    show (Nat.lor (Nat.shiftLeft 1 q.ctorIdx) (bitsOf l)).testBit p.ctorIdx = _
    rw [show Nat.lor (Nat.shiftLeft 1 q.ctorIdx) (bitsOf l) = Nat.shiftLeft 1 q.ctorIdx ||| bitsOf l from rfl, Nat.testBit_or, ih, h1,
      List.contains_cons]
    rfl

theorem within_mem {x y : List Part} (h : within x y = true) {p : Part} (hp : p ∈ x) : y.contains p = true := by
  have e : bitsOf x &&& bitsOf y = bitsOf x := Nat.eq_of_beq_eq_true h
  have h1 : (bitsOf x).testBit p.ctorIdx = true := (bitsOf_mem x p).trans (List.contains_iff_mem.2 hp)
  have h2 := congrArg (Nat.testBit · p.ctorIdx) e
  simp only [Nat.testBit_and, h1, Bool.true_and] at h2
  exact (bitsOf_mem y p).symm.trans h2

theorem within_of_mem {x y : List Part} (h : ∀ p ∈ x, y.contains p = true) : within x y = true := by
  have e : bitsOf x &&& bitsOf y = bitsOf x := by
    have key : bitsOf x ||| bitsOf y = bitsOf y := by
      induction x with
      | nil => exact Nat.zero_or _
      | cons q l ih =>
        have hq := h q (List.mem_cons_self ..)
        have : Nat.shiftLeft 1 q.ctorIdx ||| bitsOf y = bitsOf y := by
          refine Nat.eq_of_testBit_eq fun i => ?_
          rw [show Nat.shiftLeft 1 q.ctorIdx = 2 ^ q.ctorIdx from Nat.one_shiftLeft _, Nat.testBit_or, Nat.testBit_two_pow]
          by_cases hi : q.ctorIdx = i
          · subst hi
            rw [bitsOf_mem, hq]
            simp
          · simp [hi]
        show (Nat.shiftLeft 1 q.ctorIdx ||| bitsOf l) ||| bitsOf y = bitsOf y
        rw [Nat.or_assoc, ih fun p hp => h p (List.mem_cons_of_mem _ hp), this]
    rw [← key, Nat.and_or_distrib_left, Nat.and_self]
    refine Nat.eq_of_testBit_eq fun i => ?_
    simp only [Nat.testBit_or, Nat.testBit_and]
    cases (bitsOf x).testBit i <;> simp
  exact Nat.beq_eq.mpr e

theorem within_cons (p : Part) (l : List Part) : within l (p :: l) = true :=
  within_of_mem fun _ hq => List.contains_iff_mem.2 (List.mem_cons_of_mem _ hq)

theorem within_head (p : Part) (l : List Part) : within [p] (p :: l) = true :=
  within_of_mem fun _ hq => List.contains_iff_mem.2 (List.mem_cons.2 (.inl (List.mem_singleton.1 hq)))

theorem within_trans {x y z : List Part} (h : within x y = true) (h' : within y z = true) : within x z = true :=
  within_of_mem fun _ hp => within_mem h' (List.contains_iff_mem.1 (within_mem h hp))

/-- What an operation that leads from `a` to `b` can do. -/
structure Upd (m : List Part) (a b : State) : Prop where
  same : ∀ p, m.contains p = false → Same p a b
  out : a.outbox <+: b.outbox
  ctr : a.freeCtr ≤ b.freeCtr
  ok : a.Ok → b.Ok

theorem SameRegs.refl (g : Part) (a : State) : SameRegs g a a := fun _ _ _ _ => rfl

theorem Same.refl (p : Part) (a : State) : Same p a a := by cases p <;> first | rfl | exact SameRegs.refl _ a

theorem Same.trans {p : Part} {a b c : State} (h : Same p a b) (h' : Same p b c) : Same p a c := by
  cases p <;> first | exact Eq.trans h' h | exact fun p f i hf => (h' p f i hf).trans (h p f i hf)

theorem Upd.refl {m : List Part} (a : State) : Upd m a a := ⟨fun p _ => Same.refl p a, List.prefix_refl _, Nat.le_refl _, id⟩

/-- One more operation. -/
theorem Upd.step {m n : List Part} {a b c : State} (h : Upd m a b) (hn : within n m = true) (h' : Upd n b c) : Upd m a c where
  same p hp := (h.same p hp).trans (h'.same p (by
    cases hq : n.contains p with
    | false => rfl
    | true =>
      have := within_mem hn (List.contains_iff_mem.1 hq)
      rw [hp] at this
      exact absurd this (by decide)))
  out := h.out.trans h'.out
  ctr := Nat.le_trans h.ctr h'.ctr
  ok := fun k => h'.ok (h.ok k)

theorem Upd.mono {m n : List Part} {a b : State} (hn : within n m = true) (h : Upd n a b) : Upd m a b := (Upd.refl a).step hn h

theorem Upd.trans {m : List Part} {a b c : State} (h : Upd m a b) (h' : Upd m b c) : Upd m a c :=
  ⟨fun p hp => (h.same p hp).trans (h'.same p hp), h.out.trans h'.out, Nat.le_trans h.ctr h'.ctr, fun k => h'.ok (h.ok k)⟩

section Control

variable {m : List Part} {a b : State}

/-- A step between states that agree on what is not listed, on what was sent and drawn, and keep the canonical form. -/
theorem Upd.put {t : State} (h : Upd m a b) (hs : ∀ p, m.contains p = false → Same p b t) (ho : t.outbox = b.outbox)
    (hc : t.freeCtr = b.freeCtr) (hk : b.Ok → t.Ok) : Upd m a t :=
  h.trans ⟨hs, ho ▸ List.prefix_refl _, Nat.le_of_eq hc.symm, hk⟩

theorem Upd.ite {c : Prop} [Decidable c] {x y : State} (hx : c → Upd m a x) (hy : ¬c → Upd m a y) : Upd m a (if c then x else y) := by
  split
  · exact hx ‹_›
  · exact hy ‹_›

theorem Upd.cut (x : State) {t : State} (hx : Upd m a x) (ht : Upd m a x → Upd m a t) : Upd m a t := ht hx

theorem Upd.foldl {α : Type} {l : List α} {f : State → α → State} (hb : Upd m a b) (hf : ∀ t x, Upd m a t → Upd m a (f t x)) :
    Upd m a (l.foldl f b) := by
  induction l generalizing b with
  | nil => exact hb
  | cons x l ih => exact ih (hf b x hb)

theorem Upd.forUpto {n : Nat} {f : Nat → State → State} (hb : Upd m a b) (hf : ∀ i t, Upd m a t → Upd m a (f i t)) :
    Upd m a (forUpto n f b) := by
  unfold Machine.forUpto
  exact Upd.foldl hb fun t i ht => hf i t ht

end Control

/-- What an outcome's next state, if it is one, can differ in. -/
structure UpdR (m : List Part) (a : State) (r : Result) : Prop where
  of : ∀ b, r = .next b → Upd m a b

theorem UpdR.next {m : List Part} {a b : State} (h : Upd m a b) : UpdR m a (.next b) := by
  refine ⟨fun c hc => ?_⟩
  cases hc
  exact h

theorem UpdR.ite {m : List Part} {a : State} {c : Prop} [Decidable c] {x y : Result} (hx : c → UpdR m a x) (hy : ¬c → UpdR m a y) :
    UpdR m a (if c then x else y) := by
  split
  · exact hx ‹_›
  · exact hy ‹_›

/-- The same for an operation that answers a value beside the state. -/
def UpdS {α : Type} (m : List Part) (a : State) (x : α × State) : Prop := Upd m a x.2

/-- The same for an operation that answers the state first. -/
def UpdF {α : Type} (m : List Part) (a : State) (x : State × α) : Prop := Upd m a x.1

/-- The same for an operation that may answer none. -/
structure UpdO (m : List Part) (a : State) (x : Option State) : Prop where
  of : ∀ b, x = some b → Upd m a b

/-- The same for an operation that may answer none, or a value beside the state. -/
structure UpdOS {α : Type} (m : List Part) (a : State) (x : Option (α × State)) : Prop where
  of : ∀ y, x = some y → Upd m a y.2

/-- The same for an operation that may stop. -/
structure UpdE {ε α : Type} (m : List Part) (a : State) (x : Except ε (α × State)) : Prop where
  of : ∀ y, x = .ok y → UpdS m a y

section Forms

variable {α β : Type} {m n : List Part} {a b c : State}

theorem Upd.go (h' : Upd n b c) (h : Upd m a b) (hn : within n m = true) : Upd m a c := h.step hn h'

theorem Upd.goS {x : α × State} (h' : UpdS n b x) (h : Upd m a b) (hn : within n m = true) : Upd m a x.2 := h.step hn h'

theorem Upd.goF {x : State × α} (h' : UpdF n b x) (h : Upd m a b) (hn : within n m = true) : Upd m a x.1 := h.step hn h'

theorem UpdS.snd {x : α × State} (h : UpdS m a x) : Upd m a x.2 := h

theorem UpdF.fst {x : State × α} (h : UpdF m a x) : Upd m a x.1 := h

theorem UpdR.go {r : Result} (h' : UpdR n b r) (h : Upd m a b) (hn : within n m = true) : UpdR m a r :=
  ⟨fun c hc => h.step hn (h'.of c hc)⟩

theorem UpdO.go {x : Option State} (h' : UpdO n b x) (h : Upd m a b) (hn : within n m = true) : UpdO m a x :=
  ⟨fun c hc => h.step hn (h'.of c hc)⟩

theorem UpdS.go {x : α × State} (h' : UpdS n b x) (h : Upd m a b) (hn : within n m = true) : UpdS m a x := Upd.goS h' h hn

theorem UpdF.go {x : State × α} (h' : UpdF n b x) (h : Upd m a b) (hn : within n m = true) : UpdF m a x := Upd.goF h' h hn

theorem UpdOS.go {x : Option (α × State)} (h' : UpdOS n b x) (h : Upd m a b) (hn : within n m = true) : UpdOS m a x :=
  ⟨fun c hc => h.step hn (h'.of c hc)⟩

theorem UpdS.mk {y : α} (h : Upd m a b) : UpdS m a (y, b) := h

theorem UpdF.mk {y : α} (h : Upd m a b) : UpdF m a (b, y) := h

theorem UpdO.none : UpdO m a .none := ⟨fun _ hc => absurd hc (by simp)⟩

theorem UpdO.some (h : Upd m a b) : UpdO m a (.some b) := by
  refine ⟨fun c hc => ?_⟩
  rw [← Option.some.inj hc]
  exact h

theorem UpdOS.none : UpdOS m a (.none : Option (α × State)) := ⟨fun _ hc => absurd hc (by simp)⟩

theorem UpdOS.some {y : α} (h : Upd m a b) : UpdOS m a (.some (y, b)) := by
  refine ⟨fun c hc => ?_⟩
  rw [← Option.some.inj hc]
  exact h

theorem UpdS.of_eq {x : α × State} {y : α} (e : x = (y, b)) (h : UpdS m a x) : Upd m a b := by
  subst e
  exact h

theorem UpdF.of_eq {x : State × α} {y : α} (e : x = (b, y)) (h : UpdF m a x) : Upd m a b := by
  subst e
  exact h

theorem UpdR.of_eq {x : Result} (e : x = .next b) (h : UpdR m a x) : Upd m a b := h.of b e

theorem UpdO.of_eq {x : Option State} (e : x = .some b) (h : UpdO m a x) : Upd m a b := h.of b e

theorem UpdOS.of_eq {x : Option (α × State)} {y : α} (e : x = .some (y, b)) (h : UpdOS m a x) : Upd m a b := h.of _ e

theorem UpdS.ite {p : Prop} [Decidable p] {x y : α × State} (hx : p → UpdS m a x) (hy : ¬p → UpdS m a y) :
    UpdS m a (if p then x else y) := by
  split
  · exact hx ‹_›
  · exact hy ‹_›

theorem UpdF.ite {p : Prop} [Decidable p] {x y : State × α} (hx : p → UpdF m a x) (hy : ¬p → UpdF m a y) :
    UpdF m a (if p then x else y) := by
  split
  · exact hx ‹_›
  · exact hy ‹_›

theorem UpdO.ite {p : Prop} [Decidable p] {x y : Option State} (hx : p → UpdO m a x) (hy : ¬p → UpdO m a y) :
    UpdO m a (if p then x else y) := by
  split
  · exact hx ‹_›
  · exact hy ‹_›

theorem UpdOS.ite {p : Prop} [Decidable p] {x y : Option (α × State)} (hx : p → UpdOS m a x) (hy : ¬p → UpdOS m a y) :
    UpdOS m a (if p then x else y) := by
  split
  · exact hx ‹_›
  · exact hy ‹_›

theorem Upd.cutO (x : Option State) {t : State} (hx : UpdO m a x) (ht : UpdO m a x → Upd m a t) : Upd m a t := ht hx

theorem UpdR.cut (x : State) {t : Result} (hx : Upd m a x) (ht : Upd m a x → UpdR m a t) : UpdR m a t := ht hx

theorem UpdR.cutSnd (x : α × State) {t : Result} (hx : UpdS m a x) (ht : UpdS m a x → UpdR m a t) : UpdR m a t := ht hx

theorem UpdR.cutFst (x : State × α) {t : Result} (hx : UpdF m a x) (ht : UpdF m a x → UpdR m a t) : UpdR m a t := ht hx

theorem UpdR.cutO (x : Option State) {t : Result} (hx : UpdO m a x) (ht : UpdO m a x → UpdR m a t) : UpdR m a t := ht hx

theorem UpdS.cut (x : State) {t : β × State} (hx : Upd m a x) (ht : Upd m a x → UpdS m a t) : UpdS m a t := ht hx

theorem UpdS.cutSnd (x : α × State) {t : β × State} (hx : UpdS m a x) (ht : UpdS m a x → UpdS m a t) : UpdS m a t := ht hx

theorem UpdS.cutFst (x : State × α) {t : β × State} (hx : UpdF m a x) (ht : UpdF m a x → UpdS m a t) : UpdS m a t := ht hx

theorem UpdS.cutO (x : Option State) {t : β × State} (hx : UpdO m a x) (ht : UpdO m a x → UpdS m a t) : UpdS m a t := ht hx

theorem UpdF.cut (x : State) {t : State × β} (hx : Upd m a x) (ht : Upd m a x → UpdF m a t) : UpdF m a t := ht hx

theorem UpdF.cutSnd (x : α × State) {t : State × β} (hx : UpdS m a x) (ht : UpdS m a x → UpdF m a t) : UpdF m a t := ht hx

theorem UpdF.cutFst (x : State × α) {t : State × β} (hx : UpdF m a x) (ht : UpdF m a x → UpdF m a t) : UpdF m a t := ht hx

theorem UpdF.cutO (x : Option State) {t : State × β} (hx : UpdO m a x) (ht : UpdO m a x → UpdF m a t) : UpdF m a t := ht hx

theorem UpdO.cut (x : State) {t : Option State} (hx : Upd m a x) (ht : Upd m a x → UpdO m a t) : UpdO m a t := ht hx

theorem UpdO.cutSnd (x : α × State) {t : Option State} (hx : UpdS m a x) (ht : UpdS m a x → UpdO m a t) : UpdO m a t := ht hx

theorem UpdO.cutFst (x : State × α) {t : Option State} (hx : UpdF m a x) (ht : UpdF m a x → UpdO m a t) : UpdO m a t := ht hx

theorem UpdO.cutO (x : Option State) {t : Option State} (hx : UpdO m a x) (ht : UpdO m a x → UpdO m a t) : UpdO m a t := ht hx

theorem UpdOS.cut (x : State) {t : Option (β × State)} (hx : Upd m a x) (ht : Upd m a x → UpdOS m a t) : UpdOS m a t := ht hx

theorem UpdOS.cutSnd (x : α × State) {t : Option (β × State)} (hx : UpdS m a x) (ht : UpdS m a x → UpdOS m a t) : UpdOS m a t := ht hx

theorem UpdOS.cutFst (x : State × α) {t : Option (β × State)} (hx : UpdF m a x) (ht : UpdF m a x → UpdOS m a t) : UpdOS m a t := ht hx

theorem UpdOS.cutO (x : Option State) {t : Option (β × State)} (hx : UpdO m a x) (ht : UpdO m a x → UpdOS m a t) : UpdOS m a t := ht hx

theorem Upd.cutSnd (x : α × State) {t : State} (hx : UpdS m a x) (ht : UpdS m a x → Upd m a t) : Upd m a t := ht hx

theorem Upd.cutFst (x : State × α) {t : State} (hx : UpdF m a x) (ht : UpdF m a x → Upd m a t) : Upd m a t := ht hx

/-- What every step of a fold keeps, the fold keeps. -/
theorem foldl_keeps {σ : Type} {Q : σ → Prop} {l : List β} {f : σ → β → σ} {x : σ} (hx : Q x) (hf : ∀ t y, Q t → Q (f t y)) :
    Q (l.foldl f x) := by
  induction l generalizing x with
  | nil => exact hx
  | cons y l ih => exact ih (hf x y hx)

theorem Upd.elim {o : Option α} {x : State} {f : α → State} (hx : Upd m a x) (hf : ∀ y, Upd m a (f y)) : Upd m a (o.elim x f) := by
  cases o with
  | none => exact hx
  | some y => exact hf y

theorem Upd.getD {o : Option State} {x : State} (ho : UpdO m a o) (hx : Upd m a x) : Upd m a (o.getD x) := by
  cases o with
  | none => exact hx
  | some y => exact ho.of y rfl

theorem isFn {σ τ : Type} (_ : σ → τ) {P : Prop} (h : P) : P := h

theorem UpdE.error {ε : Type} {e : ε} : UpdE m a (.error e : Except ε (α × State)) := ⟨fun _ hc => by cases hc⟩

theorem UpdE.ok {ε : Type} {y : α × State} (h : UpdS m a y) : UpdE m a (.ok y : Except ε (α × State)) := by
  refine ⟨fun c hc => ?_⟩
  cases hc
  exact h

theorem UpdO.orElse {x : Option State} {f : Unit → Option State} (hx : UpdO m a x) (hf : UpdO m a (f ())) : UpdO m a (x.orElse f) := by
  cases x with
  | none => exact hf
  | some y => exact hx

theorem UpdS.foldl {l : List β} {f : α × State → β → α × State} {x : α × State} (hb : UpdS m a x)
    (hf : ∀ t y, UpdS m a t → UpdS m a (f t y)) : UpdS m a (l.foldl f x) := by
  induction l generalizing x with
  | nil => exact hb
  | cons y l ih => exact ih (hf x y hb)

theorem UpdS.mapState {f : α → State → β × State} {l : List α} (hb : Upd m a b)
    (hf : ∀ x t, Upd m a t → UpdS m a (f x t)) : UpdS m a (mapState f l b) := by
  induction l generalizing b with
  | nil => exact hb
  | cons x l ih => exact ih (hf x b hb)

end Forms

/-- Every part but the queue of commands and the variant, which no command changes. -/
def busy : List Part :=
  [.outbox, .freeCtr, .regCtl, .regIrq, .regLock, .regSet, .regErr, .regMs, .regEpo, .regLdg, .regSerai, .regEng, .regSpd,
   .regTmv, .regBkc, .regBku, .regMcs, .regDrv, .regBlk, .regRcv, .regFlt, .regEvl, .regOpt, .regBay, .regSes, .regRng, .regHif, .regSec,
   .regPwr, .regThm, .regClk, .regMgt, .staging, .prevSet, .ops, .vslots, .floorAbove, .sourceLost, .ldgSeq, .ldgLost, .ctxs,
   .runs, .nextRun, .pms, .engines, .spads, .spad, .spadChk, .serais, .loadQ, .loading, .loadCount, .sess,
   .abortWaits, .memGens, .spadGen, .dram, .dramChk, .chans, .units, .flights, .snoop, .biWait, .msix, .ceWins,
   .drovers, .remaps, .repairLog, .servedBytes, .ports, .members, .bseqs, .lastFrames, .left, .sens, .stackHold,
   .partHold, .partCond, .pllTemp, .recov, .winOpen, .compBad, .keys, .psks, .spdm, .pskFails, .pskLocked, .setCount,
   .zeroDue, .d3, .perst, .hdm, .psNext, .clamp, .divided, .coreSet, .supplyLow, .lowMs, .romOnly, .update, .fwDone, .fwSlots,
   .dies, .retQueue]

/-- A field number is that of its field. -/
theorem Fld.idx_lt (f : Fld) : f.ctorIdx < 1024 := by cases f <;> decide

theorem regFld_key (p : Nat) (f : Fld) (i : Nat) : regFld (regKey p f i) = f := by
  have h := f.idx_lt
  have : (p * 1024 + f.ctorIdx) * 16384 + i % 16384 = ((p * 1024 + f.ctorIdx) * 16384 + i % 16384) := rfl
  have e : regKey p f i / 16384 % 1024 = f.ctorIdx := by unfold regKey; omega
  rw [regFld, e]
  exact Fld.ofNat_ctorIdx f

theorem regDefault_key (p : Nat) (f : Fld) (i : Nat) : regDefault (regKey p f i) = regReset p f (i % 16384) := by
  have h := f.idx_lt
  have e1 : regKey p f i / 16384 / 1024 = p := by unfold regKey; omega
  have e2 : regKey p f i % 16384 = i % 16384 := by unfold regKey; omega
  rw [regDefault, regFld_key, e1, e2]

/-- All register groups. -/
def allRegs : List Part :=
  [.regCtl, .regIrq, .regLock, .regSet, .regErr, .regMs, .regEpo, .regLdg, .regSerai, .regEng, .regSpd, .regTmv, .regBkc,
   .regBku, .regMcs, .regDrv, .regBlk, .regRcv, .regFlt, .regEvl, .regOpt, .regBay, .regSes, .regRng, .regHif, .regSec, .regPwr, .regThm,
   .regClk, .regMgt]

theorem Fld.part_allRegs (f : Fld) : f.part ∈ allRegs := by
  unfold Fld.part
  cases h : groupEnds.find? fun e => f.ctorIdx ≤ e.1.ctorIdx with
  | none => decide
  | some e =>
    have hm := List.mem_of_find?_eq_some h
    clear h
    show e.2 ∈ allRegs
    revert e
    decide

theorem within_part (f : Fld) : within [f.part] allRegs = true :=
  within_of_mem fun _ hq => List.mem_singleton.1 hq ▸ List.contains_iff_mem.2 f.part_allRegs

theorem Upd.set_regs {m : List Part} {a b : State} {v : SMap Nat} (h : Upd m a b) (hm : within allRegs m = true)
    (hv : b.Ok → SMap.wf regDefault v) (hf : b.Ok → regsFit v) : Upd m a { b with regs := v } :=
  h.put (fun p hp => by
    have hg : ∀ f : Fld, f.part ≠ p := fun f hf => by
      have := within_mem hm f.part_allRegs
      rw [hf, hp] at this
      exact absurd this (by decide)
    cases p <;> first | rfl | exact fun _ f _ hf => absurd hf (hg f)) rfl rfl fun k => { k with regs := hv k, fit := hf k }

theorem Upd.filter_regs {m : List Part} {a b : State} {q : Nat × Nat → Bool} (h : Upd m a b) (hm : within allRegs m = true) :
    Upd m a { b with regs := b.regs.filter q } :=
  h.set_regs hm (fun k => SMap.wf_filter k.regs) fun k e he => k.fit e (List.mem_filter.1 he).1

theorem Upd.set_pending {m : List Part} {a b : State} {v} (h : Upd m a b) (hm : m.contains .pending = true) : Upd m a { b with pending := v } :=
  h.put (fun p hp => by cases p <;> first | rfl | exact fun _ _ _ _ => rfl | exact absurd (hm.symm.trans hp) (by decide)) rfl rfl fun k => { k with }

theorem Upd.set_variant {m : List Part} {a b : State} {v} (h : Upd m a b) (hm : m.contains .variant = true) : Upd m a { b with variant := v } :=
  h.put (fun p hp => by cases p <;> first | rfl | exact fun _ _ _ _ => rfl | exact absurd (hm.symm.trans hp) (by decide)) rfl rfl fun k => { k with }

theorem Upd.set_staging {m : List Part} {a b : State} {v} (h : Upd m a b) (hm : m.contains .staging = true) : Upd m a { b with staging := v } :=
  h.put (fun p hp => by cases p <;> first | rfl | exact fun _ _ _ _ => rfl | exact absurd (hm.symm.trans hp) (by decide)) rfl rfl fun k => { k with }

theorem Upd.set_prevSet {m : List Part} {a b : State} {v} (h : Upd m a b) (hm : m.contains .prevSet = true) : Upd m a { b with prevSet := v } :=
  h.put (fun p hp => by cases p <;> first | rfl | exact fun _ _ _ _ => rfl | exact absurd (hm.symm.trans hp) (by decide)) rfl rfl fun k => { k with }

theorem Upd.set_ops {m : List Part} {a b : State} {v} (h : Upd m a b) (hm : m.contains .ops = true) : Upd m a { b with ops := v } :=
  h.put (fun p hp => by cases p <;> first | rfl | exact fun _ _ _ _ => rfl | exact absurd (hm.symm.trans hp) (by decide)) rfl rfl fun k => { k with }

theorem Upd.set_vslots {m : List Part} {a b : State} {v} (h : Upd m a b) (hm : m.contains .vslots = true)
    (hv : b.Ok → SMap.wf (fun _ => {}) v) : Upd m a { b with vslots := v } :=
  h.put (fun p hp => by cases p <;> first | rfl | exact fun _ _ _ _ => rfl | exact absurd (hm.symm.trans hp) (by decide)) rfl rfl fun k => { k with vslots := hv k }

theorem Upd.set_floorAbove {m : List Part} {a b : State} {v} (h : Upd m a b) (hm : m.contains .floorAbove = true) : Upd m a { b with floorAbove := v } :=
  h.put (fun p hp => by cases p <;> first | rfl | exact fun _ _ _ _ => rfl | exact absurd (hm.symm.trans hp) (by decide)) rfl rfl fun k => { k with }

theorem Upd.set_sourceLost {m : List Part} {a b : State} {v} (h : Upd m a b) (hm : m.contains .sourceLost = true) : Upd m a { b with sourceLost := v } :=
  h.put (fun p hp => by cases p <;> first | rfl | exact fun _ _ _ _ => rfl | exact absurd (hm.symm.trans hp) (by decide)) rfl rfl fun k => { k with }

theorem Upd.set_ldgSeq {m : List Part} {a b : State} {v} (h : Upd m a b) (hm : m.contains .ldgSeq = true)
    (hv : b.Ok → SMap.wf (fun _ => 0) v) : Upd m a { b with ldgSeq := v } :=
  h.put (fun p hp => by cases p <;> first | rfl | exact fun _ _ _ _ => rfl | exact absurd (hm.symm.trans hp) (by decide)) rfl rfl fun k => { k with ldgSeq := hv k }

theorem Upd.set_ldgLost {m : List Part} {a b : State} {v} (h : Upd m a b) (hm : m.contains .ldgLost = true)
    (hv : b.Ok → SMap.wf (fun _ => 0) v) : Upd m a { b with ldgLost := v } :=
  h.put (fun p hp => by cases p <;> first | rfl | exact fun _ _ _ _ => rfl | exact absurd (hm.symm.trans hp) (by decide)) rfl rfl fun k => { k with ldgLost := hv k }

theorem Upd.set_ctxs {m : List Part} {a b : State} {v} (h : Upd m a b) (hm : m.contains .ctxs = true)
    (hv : b.Ok → SMap.wf (fun _ => {}) v) : Upd m a { b with ctxs := v } :=
  h.put (fun p hp => by cases p <;> first | rfl | exact fun _ _ _ _ => rfl | exact absurd (hm.symm.trans hp) (by decide)) rfl rfl fun k => { k with ctxs := hv k }

theorem Upd.set_runs {m : List Part} {a b : State} {v} (h : Upd m a b) (hm : m.contains .runs = true)
    (hv : b.Ok → SMap.wf (fun _ => none) v) : Upd m a { b with runs := v } :=
  h.put (fun p hp => by cases p <;> first | rfl | exact fun _ _ _ _ => rfl | exact absurd (hm.symm.trans hp) (by decide)) rfl rfl fun k => { k with runs := hv k }

theorem Upd.set_nextRun {m : List Part} {a b : State} {v} (h : Upd m a b) (hm : m.contains .nextRun = true) : Upd m a { b with nextRun := v } :=
  h.put (fun p hp => by cases p <;> first | rfl | exact fun _ _ _ _ => rfl | exact absurd (hm.symm.trans hp) (by decide)) rfl rfl fun k => { k with }

theorem Upd.set_pms {m : List Part} {a b : State} {v} (h : Upd m a b) (hm : m.contains .pms = true)
    (hv : b.Ok → SMap.wf (fun _ => {}) v) : Upd m a { b with pms := v } :=
  h.put (fun p hp => by cases p <;> first | rfl | exact fun _ _ _ _ => rfl | exact absurd (hm.symm.trans hp) (by decide)) rfl rfl fun k => { k with pms := hv k }

theorem Upd.set_engines {m : List Part} {a b : State} {v} (h : Upd m a b) (hm : m.contains .engines = true)
    (hv : b.Ok → SMap.wf (fun _ => {}) v) : Upd m a { b with engines := v } :=
  h.put (fun p hp => by cases p <;> first | rfl | exact fun _ _ _ _ => rfl | exact absurd (hm.symm.trans hp) (by decide)) rfl rfl fun k => { k with engines := hv k }

theorem Upd.set_spads {m : List Part} {a b : State} {v} (h : Upd m a b) (hm : m.contains .spads = true)
    (hv : b.Ok → SMap.wf (fun _ => {}) v) : Upd m a { b with spads := v } :=
  h.put (fun p hp => by cases p <;> first | rfl | exact fun _ _ _ _ => rfl | exact absurd (hm.symm.trans hp) (by decide)) rfl rfl fun k => { k with spads := hv k }

theorem Upd.set_spadChk {m : List Part} {a b : State} {v} (h : Upd m a b) (hm : m.contains .spadChk = true)
    (hv : b.Ok → SMap.wf (fun _ => none) v) : Upd m a { b with spadChk := v } :=
  h.put (fun p hp => by cases p <;> first | rfl | exact fun _ _ _ _ => rfl | exact absurd (hm.symm.trans hp) (by decide)) rfl rfl fun k => { k with spadChk := hv k }

theorem Upd.set_serais {m : List Part} {a b : State} {v} (h : Upd m a b) (hm : m.contains .serais = true)
    (hv : b.Ok → SMap.wf (fun _ => {}) v) : Upd m a { b with serais := v } :=
  h.put (fun p hp => by cases p <;> first | rfl | exact fun _ _ _ _ => rfl | exact absurd (hm.symm.trans hp) (by decide)) rfl rfl fun k => { k with serais := hv k }

theorem Upd.set_loadQ {m : List Part} {a b : State} {v} (h : Upd m a b) (hm : m.contains .loadQ = true) : Upd m a { b with loadQ := v } :=
  h.put (fun p hp => by cases p <;> first | rfl | exact fun _ _ _ _ => rfl | exact absurd (hm.symm.trans hp) (by decide)) rfl rfl fun k => { k with }

theorem Upd.set_loading {m : List Part} {a b : State} {v} (h : Upd m a b) (hm : m.contains .loading = true) : Upd m a { b with loading := v } :=
  h.put (fun p hp => by cases p <;> first | rfl | exact fun _ _ _ _ => rfl | exact absurd (hm.symm.trans hp) (by decide)) rfl rfl fun k => { k with }

theorem Upd.set_loadCount {m : List Part} {a b : State} {v} (h : Upd m a b) (hm : m.contains .loadCount = true) : Upd m a { b with loadCount := v } :=
  h.put (fun p hp => by cases p <;> first | rfl | exact fun _ _ _ _ => rfl | exact absurd (hm.symm.trans hp) (by decide)) rfl rfl fun k => { k with }

theorem Upd.set_sess {m : List Part} {a b : State} {v} (h : Upd m a b) (hm : m.contains .sess = true)
    (hv : b.Ok → SMap.wf (fun _ => {}) v) : Upd m a { b with sess := v } :=
  h.put (fun p hp => by cases p <;> first | rfl | exact fun _ _ _ _ => rfl | exact absurd (hm.symm.trans hp) (by decide)) rfl rfl fun k => { k with sess := hv k }

theorem Upd.set_abortWaits {m : List Part} {a b : State} {v} (h : Upd m a b) (hm : m.contains .abortWaits = true) : Upd m a { b with abortWaits := v } :=
  h.put (fun p hp => by cases p <;> first | rfl | exact fun _ _ _ _ => rfl | exact absurd (hm.symm.trans hp) (by decide)) rfl rfl fun k => { k with }

theorem Upd.set_dramChk {m : List Part} {a b : State} {v} (h : Upd m a b) (hm : m.contains .dramChk = true)
    (hv : b.Ok → SMap.wf (fun _ => none) v) : Upd m a { b with dramChk := v } :=
  h.put (fun p hp => by cases p <;> first | rfl | exact fun _ _ _ _ => rfl | exact absurd (hm.symm.trans hp) (by decide)) rfl rfl fun k => { k with dramChk := hv k }

theorem Upd.set_chans {m : List Part} {a b : State} {v} (h : Upd m a b) (hm : m.contains .chans = true)
    (hv : b.Ok → SMap.wf (fun _ => {}) v) : Upd m a { b with chans := v } :=
  h.put (fun p hp => by cases p <;> first | rfl | exact fun _ _ _ _ => rfl | exact absurd (hm.symm.trans hp) (by decide)) rfl rfl fun k => { k with chans := hv k }

theorem Upd.set_units {m : List Part} {a b : State} {v} (h : Upd m a b) (hm : m.contains .units = true)
    (hv : b.Ok → SMap.wf (fun _ => {}) v) : Upd m a { b with units := v } :=
  h.put (fun p hp => by cases p <;> first | rfl | exact fun _ _ _ _ => rfl | exact absurd (hm.symm.trans hp) (by decide)) rfl rfl fun k => { k with units := hv k }

theorem Upd.set_flights {m : List Part} {a b : State} {v} (h : Upd m a b) (hm : m.contains .flights = true) : Upd m a { b with flights := v } :=
  h.put (fun p hp => by cases p <;> first | rfl | exact fun _ _ _ _ => rfl | exact absurd (hm.symm.trans hp) (by decide)) rfl rfl fun k => { k with }

theorem Upd.set_snoop {m : List Part} {a b : State} {v} (h : Upd m a b) (hm : m.contains .snoop = true) : Upd m a { b with snoop := v } :=
  h.put (fun p hp => by cases p <;> first | rfl | exact fun _ _ _ _ => rfl | exact absurd (hm.symm.trans hp) (by decide)) rfl rfl fun k => { k with }

theorem Upd.set_biWait {m : List Part} {a b : State} {v} (h : Upd m a b) (hm : m.contains .biWait = true) : Upd m a { b with biWait := v } :=
  h.put (fun p hp => by cases p <;> first | rfl | exact fun _ _ _ _ => rfl | exact absurd (hm.symm.trans hp) (by decide)) rfl rfl fun k => { k with }

theorem Upd.set_msix {m : List Part} {a b : State} {v} (h : Upd m a b) (hm : m.contains .msix = true)
    (hv : b.Ok → SMap.wf (fun _ => 0) v) : Upd m a { b with msix := v } :=
  h.put (fun p hp => by cases p <;> first | rfl | exact fun _ _ _ _ => rfl | exact absurd (hm.symm.trans hp) (by decide)) rfl rfl fun k => { k with msix := hv k }

theorem Upd.set_ceWins {m : List Part} {a b : State} {v} (h : Upd m a b) (hm : m.contains .ceWins = true)
    (hv : b.Ok → SMap.wf (fun _ => {}) v) : Upd m a { b with ceWins := v } :=
  h.put (fun p hp => by cases p <;> first | rfl | exact fun _ _ _ _ => rfl | exact absurd (hm.symm.trans hp) (by decide)) rfl rfl fun k => { k with ceWins := hv k }

theorem Upd.set_drovers {m : List Part} {a b : State} {v} (h : Upd m a b) (hm : m.contains .drovers = true)
    (hv : b.Ok → SMap.wf (fun _ => {}) v) : Upd m a { b with drovers := v } :=
  h.put (fun p hp => by cases p <;> first | rfl | exact fun _ _ _ _ => rfl | exact absurd (hm.symm.trans hp) (by decide)) rfl rfl fun k => { k with drovers := hv k }

theorem Upd.set_remaps {m : List Part} {a b : State} {v} (h : Upd m a b) (hm : m.contains .remaps = true) : Upd m a { b with remaps := v } :=
  h.put (fun p hp => by cases p <;> first | rfl | exact fun _ _ _ _ => rfl | exact absurd (hm.symm.trans hp) (by decide)) rfl rfl fun k => { k with }

theorem Upd.set_repairLog {m : List Part} {a b : State} {v} (h : Upd m a b) (hm : m.contains .repairLog = true) : Upd m a { b with repairLog := v } :=
  h.put (fun p hp => by cases p <;> first | rfl | exact fun _ _ _ _ => rfl | exact absurd (hm.symm.trans hp) (by decide)) rfl rfl fun k => { k with }

theorem Upd.set_servedBytes {m : List Part} {a b : State} {v} (h : Upd m a b) (hm : m.contains .servedBytes = true)
    (hv : b.Ok → SMap.wf (fun _ => 0) v) : Upd m a { b with servedBytes := v } :=
  h.put (fun p hp => by cases p <;> first | rfl | exact fun _ _ _ _ => rfl | exact absurd (hm.symm.trans hp) (by decide)) rfl rfl fun k => { k with servedBytes := hv k }

theorem Upd.set_ports {m : List Part} {a b : State} {v} (h : Upd m a b) (hm : m.contains .ports = true)
    (hv : b.Ok → SMap.wf (fun _ => {}) v) : Upd m a { b with ports := v } :=
  h.put (fun p hp => by cases p <;> first | rfl | exact fun _ _ _ _ => rfl | exact absurd (hm.symm.trans hp) (by decide)) rfl rfl fun k => { k with ports := hv k }

theorem Upd.set_members {m : List Part} {a b : State} {v} (h : Upd m a b) (hm : m.contains .members = true)
    (hv : b.Ok → SMap.wf (fun _ => {}) v) : Upd m a { b with members := v } :=
  h.put (fun p hp => by cases p <;> first | rfl | exact fun _ _ _ _ => rfl | exact absurd (hm.symm.trans hp) (by decide)) rfl rfl fun k => { k with members := hv k }

theorem Upd.set_bseqs {m : List Part} {a b : State} {v} (h : Upd m a b) (hm : m.contains .bseqs = true)
    (hv : b.Ok → SMap.wf (fun _ => none) v) : Upd m a { b with bseqs := v } :=
  h.put (fun p hp => by cases p <;> first | rfl | exact fun _ _ _ _ => rfl | exact absurd (hm.symm.trans hp) (by decide)) rfl rfl fun k => { k with bseqs := hv k }

theorem Upd.set_lastFrames {m : List Part} {a b : State} {v} (h : Upd m a b) (hm : m.contains .lastFrames = true) : Upd m a { b with lastFrames := v } :=
  h.put (fun p hp => by cases p <;> first | rfl | exact fun _ _ _ _ => rfl | exact absurd (hm.symm.trans hp) (by decide)) rfl rfl fun k => { k with }

theorem Upd.set_left {m : List Part} {a b : State} {v} (h : Upd m a b) (hm : m.contains .left = true) : Upd m a { b with left := v } :=
  h.put (fun p hp => by cases p <;> first | rfl | exact fun _ _ _ _ => rfl | exact absurd (hm.symm.trans hp) (by decide)) rfl rfl fun k => { k with }

theorem Upd.set_sens {m : List Part} {a b : State} {v} (h : Upd m a b) (hm : m.contains .sens = true)
    (hv : b.Ok → SMap.wf (fun _ => {}) v) : Upd m a { b with sens := v } :=
  h.put (fun p hp => by cases p <;> first | rfl | exact fun _ _ _ _ => rfl | exact absurd (hm.symm.trans hp) (by decide)) rfl rfl fun k => { k with sens := hv k }

theorem Upd.set_stackHold {m : List Part} {a b : State} {v} (h : Upd m a b) (hm : m.contains .stackHold = true) : Upd m a { b with stackHold := v } :=
  h.put (fun p hp => by cases p <;> first | rfl | exact fun _ _ _ _ => rfl | exact absurd (hm.symm.trans hp) (by decide)) rfl rfl fun k => { k with }

theorem Upd.set_partHold {m : List Part} {a b : State} {v} (h : Upd m a b) (hm : m.contains .partHold = true) : Upd m a { b with partHold := v } :=
  h.put (fun p hp => by cases p <;> first | rfl | exact fun _ _ _ _ => rfl | exact absurd (hm.symm.trans hp) (by decide)) rfl rfl fun k => { k with }

theorem Upd.set_partCond {m : List Part} {a b : State} {v} (h : Upd m a b) (hm : m.contains .partCond = true)
    (hv : b.Ok → SMap.wf (fun _ => 0) v) : Upd m a { b with partCond := v } :=
  h.put (fun p hp => by cases p <;> first | rfl | exact fun _ _ _ _ => rfl | exact absurd (hm.symm.trans hp) (by decide)) rfl rfl fun k => { k with partCond := hv k }

theorem Upd.set_pllTemp {m : List Part} {a b : State} {v} (h : Upd m a b) (hm : m.contains .pllTemp = true)
    (hv : b.Ok → SMap.wf (fun _ => -1000000) v) : Upd m a { b with pllTemp := v } :=
  h.put (fun p hp => by cases p <;> first | rfl | exact fun _ _ _ _ => rfl | exact absurd (hm.symm.trans hp) (by decide)) rfl rfl fun k => { k with pllTemp := hv k }

theorem Upd.set_recov {m : List Part} {a b : State} {v} (h : Upd m a b) (hm : m.contains .recov = true)
    (hv : b.Ok → SMap.wf (fun _ => none) v) : Upd m a { b with recov := v } :=
  h.put (fun p hp => by cases p <;> first | rfl | exact fun _ _ _ _ => rfl | exact absurd (hm.symm.trans hp) (by decide)) rfl rfl fun k => { k with recov := hv k }

theorem Upd.set_winOpen {m : List Part} {a b : State} {v} (h : Upd m a b) (hm : m.contains .winOpen = true) : Upd m a { b with winOpen := v } :=
  h.put (fun p hp => by cases p <;> first | rfl | exact fun _ _ _ _ => rfl | exact absurd (hm.symm.trans hp) (by decide)) rfl rfl fun k => { k with }

theorem Upd.set_compBad {m : List Part} {a b : State} {v} (h : Upd m a b) (hm : m.contains .compBad = true) : Upd m a { b with compBad := v } :=
  h.put (fun p hp => by cases p <;> first | rfl | exact fun _ _ _ _ => rfl | exact absurd (hm.symm.trans hp) (by decide)) rfl rfl fun k => { k with }

theorem Upd.set_keys {m : List Part} {a b : State} {v} (h : Upd m a b) (hm : m.contains .keys = true)
    (hv : b.Ok → SMap.wf (fun _ => none) v) : Upd m a { b with keys := v } :=
  h.put (fun p hp => by cases p <;> first | rfl | exact fun _ _ _ _ => rfl | exact absurd (hm.symm.trans hp) (by decide)) rfl rfl fun k => { k with keys := hv k }

theorem Upd.set_psks {m : List Part} {a b : State} {v} (h : Upd m a b) (hm : m.contains .psks = true)
    (hv : b.Ok → SMap.wf (fun _ => none) v) : Upd m a { b with psks := v } :=
  h.put (fun p hp => by cases p <;> first | rfl | exact fun _ _ _ _ => rfl | exact absurd (hm.symm.trans hp) (by decide)) rfl rfl fun k => { k with psks := hv k }

theorem Upd.set_spdm {m : List Part} {a b : State} {v} (h : Upd m a b) (hm : m.contains .spdm = true)
    (hv : b.Ok → SMap.wf (fun _ => none) v) : Upd m a { b with spdm := v } :=
  h.put (fun p hp => by cases p <;> first | rfl | exact fun _ _ _ _ => rfl | exact absurd (hm.symm.trans hp) (by decide)) rfl rfl fun k => { k with spdm := hv k }

theorem Upd.set_pskFails {m : List Part} {a b : State} {v} (h : Upd m a b) (hm : m.contains .pskFails = true)
    (hv : b.Ok → SMap.wf (fun _ => 0) v) : Upd m a { b with pskFails := v } :=
  h.put (fun p hp => by cases p <;> first | rfl | exact fun _ _ _ _ => rfl | exact absurd (hm.symm.trans hp) (by decide)) rfl rfl fun k => { k with pskFails := hv k }

theorem Upd.set_pskLocked {m : List Part} {a b : State} {v} (h : Upd m a b) (hm : m.contains .pskLocked = true) : Upd m a { b with pskLocked := v } :=
  h.put (fun p hp => by cases p <;> first | rfl | exact fun _ _ _ _ => rfl | exact absurd (hm.symm.trans hp) (by decide)) rfl rfl fun k => { k with }

theorem Upd.set_setCount {m : List Part} {a b : State} {v} (h : Upd m a b) (hm : m.contains .setCount = true) : Upd m a { b with setCount := v } :=
  h.put (fun p hp => by cases p <;> first | rfl | exact fun _ _ _ _ => rfl | exact absurd (hm.symm.trans hp) (by decide)) rfl rfl fun k => { k with }

theorem Upd.set_zeroDue {m : List Part} {a b : State} {v} (h : Upd m a b) (hm : m.contains .zeroDue = true) : Upd m a { b with zeroDue := v } :=
  h.put (fun p hp => by cases p <;> first | rfl | exact fun _ _ _ _ => rfl | exact absurd (hm.symm.trans hp) (by decide)) rfl rfl fun k => { k with }

theorem Upd.set_d3 {m : List Part} {a b : State} {v} (h : Upd m a b) (hm : m.contains .d3 = true) : Upd m a { b with d3 := v } :=
  h.put (fun p hp => by cases p <;> first | rfl | exact fun _ _ _ _ => rfl | exact absurd (hm.symm.trans hp) (by decide)) rfl rfl fun k => { k with }

theorem Upd.set_perst {m : List Part} {a b : State} {v} (h : Upd m a b) (hm : m.contains .perst = true) : Upd m a { b with perst := v } :=
  h.put (fun p hp => by cases p <;> first | rfl | exact fun _ _ _ _ => rfl | exact absurd (hm.symm.trans hp) (by decide)) rfl rfl fun k => { k with }

theorem Upd.set_hdm {m : List Part} {a b : State} {v} (h : Upd m a b) (hm : m.contains .hdm = true)
    (hv : b.Ok → SMap.wf (fun _ => none) v) : Upd m a { b with hdm := v } :=
  h.put (fun p hp => by cases p <;> first | rfl | exact fun _ _ _ _ => rfl | exact absurd (hm.symm.trans hp) (by decide)) rfl rfl fun k => { k with hdm := hv k }

theorem Upd.set_psNext {m : List Part} {a b : State} {v} (h : Upd m a b) (hm : m.contains .psNext = true) : Upd m a { b with psNext := v } :=
  h.put (fun p hp => by cases p <;> first | rfl | exact fun _ _ _ _ => rfl | exact absurd (hm.symm.trans hp) (by decide)) rfl rfl fun k => { k with }

theorem Upd.set_clamp {m : List Part} {a b : State} {v} (h : Upd m a b) (hm : m.contains .clamp = true) : Upd m a { b with clamp := v } :=
  h.put (fun p hp => by cases p <;> first | rfl | exact fun _ _ _ _ => rfl | exact absurd (hm.symm.trans hp) (by decide)) rfl rfl fun k => { k with }

theorem Upd.set_divided {m : List Part} {a b : State} {v} (h : Upd m a b) (hm : m.contains .divided = true)
    (hv : b.Ok → SMap.wf (fun _ => 0) v) : Upd m a { b with divided := v } :=
  h.put (fun p hp => by cases p <;> first | rfl | exact fun _ _ _ _ => rfl | exact absurd (hm.symm.trans hp) (by decide)) rfl rfl fun k => { k with divided := hv k }

theorem Upd.set_coreSet {m : List Part} {a b : State} {v} (h : Upd m a b) (hm : m.contains .coreSet = true) : Upd m a { b with coreSet := v } :=
  h.put (fun p hp => by cases p <;> first | rfl | exact fun _ _ _ _ => rfl | exact absurd (hm.symm.trans hp) (by decide)) rfl rfl fun k => { k with }

theorem Upd.set_supplyLow {m : List Part} {a b : State} {v} (h : Upd m a b) (hm : m.contains .supplyLow = true) : Upd m a { b with supplyLow := v } :=
  h.put (fun p hp => by cases p <;> first | rfl | exact fun _ _ _ _ => rfl | exact absurd (hm.symm.trans hp) (by decide)) rfl rfl fun k => { k with }

theorem Upd.set_lowMs {m : List Part} {a b : State} {v} (h : Upd m a b) (hm : m.contains .lowMs = true) : Upd m a { b with lowMs := v } :=
  h.put (fun p hp => by cases p <;> first | rfl | exact fun _ _ _ _ => rfl | exact absurd (hm.symm.trans hp) (by decide)) rfl rfl fun k => { k with }

theorem Upd.set_romOnly {m : List Part} {a b : State} {v} (h : Upd m a b) (hm : m.contains .romOnly = true) : Upd m a { b with romOnly := v } :=
  h.put (fun p hp => by cases p <;> first | rfl | exact fun _ _ _ _ => rfl | exact absurd (hm.symm.trans hp) (by decide)) rfl rfl fun k => { k with }

theorem Upd.set_update {m : List Part} {a b : State} {v} (h : Upd m a b) (hm : m.contains .update = true) : Upd m a { b with update := v } :=
  h.put (fun p hp => by cases p <;> first | rfl | exact fun _ _ _ _ => rfl | exact absurd (hm.symm.trans hp) (by decide)) rfl rfl fun k => { k with }

theorem Upd.set_fwDone {m : List Part} {a b : State} {v} (h : Upd m a b) (hm : m.contains .fwDone = true) : Upd m a { b with fwDone := v } :=
  h.put (fun p hp => by cases p <;> first | rfl | exact fun _ _ _ _ => rfl | exact absurd (hm.symm.trans hp) (by decide)) rfl rfl fun k => { k with }

theorem Upd.set_fwSlots {m : List Part} {a b : State} {v} (h : Upd m a b) (hm : m.contains .fwSlots = true) : Upd m a { b with fwSlots := v } :=
  h.put (fun p hp => by cases p <;> first | rfl | exact fun _ _ _ _ => rfl | exact absurd (hm.symm.trans hp) (by decide)) rfl rfl fun k => { k with }

theorem Upd.set_dies {m : List Part} {a b : State} {v} (h : Upd m a b) (hm : m.contains .dies = true) : Upd m a { b with dies := v } :=
  h.put (fun p hp => by cases p <;> first | rfl | exact fun _ _ _ _ => rfl | exact absurd (hm.symm.trans hp) (by decide)) rfl rfl fun k => { k with }

theorem Upd.set_retQueue {m : List Part} {a b : State} {v} (h : Upd m a b) (hm : m.contains .retQueue = true) : Upd m a { b with retQueue := v } :=
  h.put (fun p hp => by cases p <;> first | rfl | exact fun _ _ _ _ => rfl | exact absurd (hm.symm.trans hp) (by decide)) rfl rfl fun k => { k with }

end Sys2Proof.Machine
end

