-- ==== Sys2Proof/Laws/UpdField.lean ====
section
/-!
SUPPORT. What each operation of Machine/Field can change, and that it keeps the canonical form.
-/

namespace Sys2Proof.Machine

set_option maxRecDepth 4000
set_option linter.all false

theorem regKey_inj {p q : Nat} {f g : Fld} {i j : Nat} (h : regKey p f i = regKey q g j) : f = g := by
  rw [← regFld_key p f i, h, regFld_key]

theorem wri_upd (p : Nat) (f : Fld) (i v : Nat) (s : State) : Upd [f.part] s (wri p f i v s) := by
  have hs : ∀ q f' i', f' ≠ f → rdi (wri p f i v s) q f' i' = rdi s q f' i' := by
    intro q f' i' hf
    have hk : regKey (homePage q f') f' i' ≠ regKey (homePage p f) f i := fun e => hf (regKey_inj e)
    unfold rdi wri SMap.set
    split
    · exact SMap.get_del_other hk
    · exact SMap.get_ins_other hk
  refine (Upd.refl s).put (fun q hq => ?_) rfl rfl fun h => { h with regs := ?_, fit := ?_ }
  · have hne : ∀ f' : Fld, f'.part = q → f' ≠ f := by
      intro f' h1 h2
      rw [h2] at h1
      rw [h1] at hq
      cases q <;> exact absurd hq (by decide)
    cases q <;> first | rfl | exact fun q f' i' hf => hs q f' i' (hne f' hf)
  · exact SMap.wf_set_at (c := fun _ => regReset (homePage p f) f (i % 16384)) (regDefault_key (homePage p f) f i).symm h.regs
  · intro e he
    have : e = (regKey (homePage p f) f i, v % 2 ^ f.row.width) ∨ e ∈ s.regs := by
      unfold wri SMap.set at he
      split at he
      · exact .inr (SMap.mem_del he)
      · exact SMap.mem_ins he
    rcases this with rfl | h'
    · simp only [regFld_key]
      exact Nat.mod_lt _ (Nat.two_pow_pos _)
    · exact h.fit e h'

theorem wr_upd (p : Nat) (f : Fld) (v : Nat) (s : State) : Upd [f.part] s (wr p f v s) := wri_upd p f 0 v s

theorem counti_upd (p : Nat) (f : Fld) (i k : Nat) (s : State) : Upd [f.part] s (counti p f i k s) := wri_upd p f i _ s

theorem count_upd (p : Nat) (f : Fld) (k : Nat) (s : State) : Upd [f.part] s (count p f k s) := counti_upd p f 0 k s

theorem freshNext_upd (s : State) : Upd [.freeCtr] s (freshNext s) :=
  ⟨fun q hq => by cases q <;> first | rfl | exact fun _ _ _ _ => rfl | exact absurd hq (by decide), List.prefix_refl _, Nat.le_succ _, fun h => { h with }⟩

theorem emit_upd (m : Msg) (s : State) : Upd [.outbox] s (emit m s) :=
  ⟨fun q hq => by cases q <;> first | rfl | exact fun _ _ _ _ => rfl | exact absurd hq (by decide), ⟨[m], rfl⟩, Nat.le_refl _, fun h => { h with }⟩

theorem sendVec_upd (v : Nat) (s : State) : Upd [.outbox] s (sendVec v s) := by
  unfold sendVec
  repeat' first
    | intro _
    | with_reducible assumption
    | with_reducible exact Upd.refl _
    | ((with_reducible apply Upd.go (emit_upd _ _)); rotate_left; exact rfl)

theorem irqEdge_upd (p : Nat) (was : Bool) (s : State) : Upd [.outbox] s (irqEdge p was s) := by
  unfold irqEdge
  repeat' first
    | intro _
    | with_reducible assumption
    | with_reducible exact Upd.refl _
    | with_reducible apply Upd.ite <;> intro _
    | ((with_reducible apply Upd.go (sendVec_upd _ _)); rotate_left; exact rfl)

theorem putIrqStat_upd (p : Nat) (v : Nat) (s : State) : Upd [.outbox, .regIrq] s (putIrqStat p v s) := by
  unfold putIrqStat
  repeat' first
    | intro _
    | with_reducible assumption
    | with_reducible exact Upd.refl _
    | ((with_reducible apply Upd.go (wr_upd _ _ _ _)); rotate_left; exact rfl)
    | ((with_reducible apply Upd.go (irqEdge_upd _ _ _)); rotate_left; exact rfl)

theorem putIrqEn_upd (p : Nat) (v : Nat) (s : State) : Upd [.outbox, .regIrq] s (putIrqEn p v s) := by
  unfold putIrqEn
  repeat' first
    | intro _
    | with_reducible assumption
    | with_reducible exact Upd.refl _
    | ((with_reducible apply Upd.go (wr_upd _ _ _ _)); rotate_left; exact rfl)
    | ((with_reducible apply Upd.go (irqEdge_upd _ _ _)); rotate_left; exact rfl)

theorem raiseMask_upd (p : Nat) (m : Nat) (s : State) : Upd [.outbox, .regIrq] s (raiseMask p m s) := by
  unfold raiseMask
  repeat' first
    | intro _
    | with_reducible assumption
    | with_reducible exact Upd.refl _
    | ((with_reducible apply Upd.go (putIrqStat_upd _ _ _)); rotate_left; exact rfl)
    | split

theorem raise_upd (p : Nat) (b : Nat) (s : State) : Upd [.outbox, .regIrq] s (raise p b s) := by
  unfold raise
  repeat' first
    | intro _
    | with_reducible assumption
    | with_reducible exact Upd.refl _
    | ((with_reducible apply Upd.go (raiseMask_upd _ _ _)); rotate_left; exact rfl)

theorem hostWrites_upd {m : List Part} {a s : State} {u : UnitId} {f : State → State} (h : Upd m a s)
    (hf : ∀ t, Upd m a t → Upd m a (f t)) : Upd m a (hostWrites u f s) := by
  unfold hostWrites
  exact Upd.ite (fun _ => hf s h) fun _ => h

theorem pendDomain_upd (p : Nat) (s : State) : Upd [.outbox, .regIrq, .regFlt] s (pendDomain p s) := by
  unfold pendDomain
  repeat' first
    | intro _
    | with_reducible assumption
    | with_reducible exact Upd.refl _
    | (extract_lets -underBinder +onlyGivenNames x; (with_reducible refine Upd.cut x ?_ ?_); rotate_left; (clear_value x; revert x; intro _ _); rotate_right; subst x)
    | (extract_lets -underBinder +onlyGivenNames x; clear_value x; revert x; intro _)
    | with_reducible apply Upd.ite <;> intro _
    | ((with_reducible apply Upd.go (wr_upd _ _ _ _)); rotate_left; exact rfl)
    | ((with_reducible apply Upd.go (raise_upd _ _ _)); rotate_left; exact rfl)
    | split

theorem logErr_upd (p : Nat) (sev : Nat) (code : Nat) (detail : Nat) (s : State) : Upd [.outbox, .regIrq, .regErr, .regFlt] s (logErr p
    sev code detail s) := by
  unfold logErr
  repeat' first
    | intro _
    | with_reducible assumption
    | with_reducible exact Upd.refl _
    | (extract_lets -underBinder +onlyGivenNames x; (with_reducible refine Upd.cut x ?_ ?_); rotate_left; (clear_value x; revert x; intro _ _); rotate_right; subst x)
    | (extract_lets -underBinder +onlyGivenNames x; clear_value x; revert x; intro _)
    | with_reducible apply Upd.ite <;> intro _
    | ((with_reducible apply Upd.go (wr_upd _ _ _ _)); rotate_left; exact rfl)
    | ((with_reducible apply Upd.go (raise_upd _ _ _)); rotate_left; exact rfl)
    | ((with_reducible apply Upd.go (pendDomain_upd _ _)); rotate_left; exact rfl)

theorem putCtx_upd (id : Nat) (c : Ctx) (s : State) : Upd [.ctxs] s (putCtx id c s) := by
  unfold putCtx
  repeat' first
    | intro _
    | with_reducible assumption
    | with_reducible exact Upd.refl _
    | (extract_lets -underBinder +onlyGivenNames x; (with_reducible refine Upd.cut x ?_ ?_); rotate_left; (clear_value x; revert x; intro _ _); rotate_right; subst x)
    | (extract_lets -underBinder +onlyGivenNames x; clear_value x; revert x; intro _)
    | with_reducible apply SMap.wf_set
    | with_reducible apply SMap.wf_mapv
    | with_reducible apply SMap.wf_filter
    | with_reducible exact SMap.wf_nil
    | (first | with_reducible exact State.Ok.ctxs (by assumption))
    | ((with_reducible apply Upd.set_ctxs); rotate_left; exact rfl)

theorem putVslot_upd (k : Nat) (v : VSlot) (s : State) : Upd [.vslots] s (putVslot k v s) := by
  unfold putVslot
  repeat' first
    | intro _
    | with_reducible assumption
    | with_reducible exact Upd.refl _
    | (extract_lets -underBinder +onlyGivenNames x; (with_reducible refine Upd.cut x ?_ ?_); rotate_left; (clear_value x; revert x; intro _ _); rotate_right; subst x)
    | (extract_lets -underBinder +onlyGivenNames x; clear_value x; revert x; intro _)
    | with_reducible apply SMap.wf_set
    | with_reducible apply SMap.wf_mapv
    | with_reducible apply SMap.wf_filter
    | with_reducible exact SMap.wf_nil
    | (first | with_reducible exact State.Ok.vslots (by assumption))
    | ((with_reducible apply Upd.set_vslots); rotate_left; exact rfl)

theorem putChan_upd (k : Nat) (c : Chan) (s : State) : Upd [.chans] s (putChan k c s) := by
  unfold putChan
  repeat' first
    | intro _
    | with_reducible assumption
    | with_reducible exact Upd.refl _
    | (extract_lets -underBinder +onlyGivenNames x; (with_reducible refine Upd.cut x ?_ ?_); rotate_left; (clear_value x; revert x; intro _ _); rotate_right; subst x)
    | (extract_lets -underBinder +onlyGivenNames x; clear_value x; revert x; intro _)
    | with_reducible apply SMap.wf_set
    | with_reducible apply SMap.wf_mapv
    | with_reducible apply SMap.wf_filter
    | with_reducible exact SMap.wf_nil
    | (first | with_reducible exact State.Ok.chans (by assumption))
    | ((with_reducible apply Upd.set_chans); rotate_left; exact rfl)

theorem putUnit_upd (k : Nat) (u : BankUnit) (s : State) : Upd [.units] s (putUnit k u s) := by
  unfold putUnit
  repeat' first
    | intro _
    | with_reducible assumption
    | with_reducible exact Upd.refl _
    | (extract_lets -underBinder +onlyGivenNames x; (with_reducible refine Upd.cut x ?_ ?_); rotate_left; (clear_value x; revert x; intro _ _); rotate_right; subst x)
    | (extract_lets -underBinder +onlyGivenNames x; clear_value x; revert x; intro _)
    | with_reducible apply SMap.wf_set
    | with_reducible apply SMap.wf_mapv
    | with_reducible apply SMap.wf_filter
    | with_reducible exact SMap.wf_nil
    | (first | with_reducible exact State.Ok.units (by assumption))
    | ((with_reducible apply Upd.set_units); rotate_left; exact rfl)

theorem putSpad_upd (g : Nat) (x : Spad) (s : State) : Upd [.spads] s (putSpad g x s) := by
  unfold putSpad
  repeat' first
    | intro _
    | with_reducible assumption
    | with_reducible exact Upd.refl _
    | (extract_lets -underBinder +onlyGivenNames x; (with_reducible refine Upd.cut x ?_ ?_); rotate_left; (clear_value x; revert x; intro _ _); rotate_right; subst x)
    | (extract_lets -underBinder +onlyGivenNames x; clear_value x; revert x; intro _)
    | with_reducible apply SMap.wf_set
    | with_reducible apply SMap.wf_mapv
    | with_reducible apply SMap.wf_filter
    | with_reducible exact SMap.wf_nil
    | (first | with_reducible exact State.Ok.spads (by assumption))
    | ((with_reducible apply Upd.set_spads); rotate_left; exact rfl)

theorem putSerai_upd (k : Nat) (x : Serai) (s : State) : Upd [.serais] s (putSerai k x s) := by
  unfold putSerai
  repeat' first
    | intro _
    | with_reducible assumption
    | with_reducible exact Upd.refl _
    | (extract_lets -underBinder +onlyGivenNames x; (with_reducible refine Upd.cut x ?_ ?_); rotate_left; (clear_value x; revert x; intro _ _); rotate_right; subst x)
    | (extract_lets -underBinder +onlyGivenNames x; clear_value x; revert x; intro _)
    | with_reducible apply SMap.wf_set
    | with_reducible apply SMap.wf_mapv
    | with_reducible apply SMap.wf_filter
    | with_reducible exact SMap.wf_nil
    | (first | with_reducible exact State.Ok.serais (by assumption))
    | ((with_reducible apply Upd.set_serais); rotate_left; exact rfl)

theorem putSess_upd (k : Nat) (x : Sess) (s : State) : Upd [.sess] s (putSess k x s) := by
  unfold putSess
  repeat' first
    | intro _
    | with_reducible assumption
    | with_reducible exact Upd.refl _
    | (extract_lets -underBinder +onlyGivenNames x; (with_reducible refine Upd.cut x ?_ ?_); rotate_left; (clear_value x; revert x; intro _ _); rotate_right; subst x)
    | (extract_lets -underBinder +onlyGivenNames x; clear_value x; revert x; intro _)
    | with_reducible apply SMap.wf_set
    | with_reducible apply SMap.wf_mapv
    | with_reducible apply SMap.wf_filter
    | with_reducible exact SMap.wf_nil
    | (first | with_reducible exact State.Ok.sess (by assumption))
    | ((with_reducible apply Upd.set_sess); rotate_left; exact rfl)

theorem putRun_upd (k : Nat) (x : Option Run) (s : State) : Upd [.runs] s (putRun k x s) := by
  unfold putRun
  repeat' first
    | intro _
    | with_reducible assumption
    | with_reducible exact Upd.refl _
    | (extract_lets -underBinder +onlyGivenNames x; (with_reducible refine Upd.cut x ?_ ?_); rotate_left; (clear_value x; revert x; intro _ _); rotate_right; subst x)
    | (extract_lets -underBinder +onlyGivenNames x; clear_value x; revert x; intro _)
    | with_reducible apply SMap.wf_set
    | with_reducible apply SMap.wf_mapv
    | with_reducible apply SMap.wf_filter
    | with_reducible exact SMap.wf_nil
    | (first | with_reducible exact State.Ok.runs (by assumption))
    | ((with_reducible apply Upd.set_runs); rotate_left; exact rfl)

theorem putPm_upd (k : Nat) (x : PmSlot) (s : State) : Upd [.pms] s (putPm k x s) := by
  unfold putPm
  repeat' first
    | intro _
    | with_reducible assumption
    | with_reducible exact Upd.refl _
    | (extract_lets -underBinder +onlyGivenNames x; (with_reducible refine Upd.cut x ?_ ?_); rotate_left; (clear_value x; revert x; intro _ _); rotate_right; subst x)
    | (extract_lets -underBinder +onlyGivenNames x; clear_value x; revert x; intro _)
    | with_reducible apply SMap.wf_set
    | with_reducible apply SMap.wf_mapv
    | with_reducible apply SMap.wf_filter
    | with_reducible exact SMap.wf_nil
    | (first | with_reducible exact State.Ok.pms (by assumption))
    | ((with_reducible apply Upd.set_pms); rotate_left; exact rfl)

theorem putEngine_upd (k : Nat) (x : QEngine) (s : State) : Upd [.engines] s (putEngine k x s) := by
  unfold putEngine
  repeat' first
    | intro _
    | with_reducible assumption
    | with_reducible exact Upd.refl _
    | (extract_lets -underBinder +onlyGivenNames x; (with_reducible refine Upd.cut x ?_ ?_); rotate_left; (clear_value x; revert x; intro _ _); rotate_right; subst x)
    | (extract_lets -underBinder +onlyGivenNames x; clear_value x; revert x; intro _)
    | with_reducible apply SMap.wf_set
    | with_reducible apply SMap.wf_mapv
    | with_reducible apply SMap.wf_filter
    | with_reducible exact SMap.wf_nil
    | (first | with_reducible exact State.Ok.engines (by assumption))
    | ((with_reducible apply Upd.set_engines); rotate_left; exact rfl)

end Sys2Proof.Machine
end

