-- ==== Sys2Proof/Laws/UpdStore.lean ====
section
/-!
SUPPORT. What each operation of Machine/Store can change, and that it keeps the canonical form.
-/

namespace Sys2Proof.Machine

set_option maxRecDepth 4000
set_option linter.all false

theorem putDram_upd (a : Nat) (b : Byte) (s : State) : Upd [.dram] s (putDram a b s) :=
  (Upd.refl s).put (fun q hq => by cases q <;> first | rfl | exact fun _ _ _ _ => rfl | exact absurd hq (by decide)) rfl rfl fun h =>
    { h with dram := SMap.wf_set h.dram }

theorem putDramChk_upd (c : Nat) (v : Option Nat) (s : State) : Upd [.dramChk] s (putDramChk c v s) := by
  unfold putDramChk
  repeat' first
    | intro _
    | with_reducible assumption
    | with_reducible exact Upd.refl _
    | (extract_lets -underBinder +onlyGivenNames x; (with_reducible refine Upd.cut x ?_ ?_); rotate_left; (clear_value x; revert x; intro _ _); rotate_right; subst x)
    | (extract_lets -underBinder +onlyGivenNames x; clear_value x; revert x; intro _)
    | with_reducible apply SMap.wf_set
    | with_reducible apply SMap.wf_mapv
    | with_reducible apply SMap.wf_filter
    | with_reducible exact SMap.wf_nil
    | (first | with_reducible exact State.Ok.dramChk (by assumption))
    | ((with_reducible apply Upd.set_dramChk); rotate_left; exact rfl)

theorem putSpadByte_upd (a : Nat) (b : Byte) (s : State) : Upd [.spad] s (putSpadByte a b s) :=
  (Upd.refl s).put (fun q hq => by cases q <;> first | rfl | exact fun _ _ _ _ => rfl | exact absurd hq (by decide)) rfl rfl fun h =>
    { h with spad := SMap.wf_set h.spad }

theorem putSpadChk_upd (w : Nat) (v : Option Nat) (s : State) : Upd [.spadChk] s (putSpadChk w v s) := by
  unfold putSpadChk
  repeat' first
    | intro _
    | with_reducible assumption
    | with_reducible exact Upd.refl _
    | (extract_lets -underBinder +onlyGivenNames x; (with_reducible refine Upd.cut x ?_ ?_); rotate_left; (clear_value x; revert x; intro _ _); rotate_right; subst x)
    | (extract_lets -underBinder +onlyGivenNames x; clear_value x; revert x; intro _)
    | with_reducible apply SMap.wf_set
    | with_reducible apply SMap.wf_mapv
    | with_reducible apply SMap.wf_filter
    | with_reducible exact SMap.wf_nil
    | (first | with_reducible exact State.Ok.spadChk (by assumption))
    | ((with_reducible apply Upd.set_spadChk); rotate_left; exact rfl)

theorem putColData_upd (c : Nat) (data : List Byte) (s : State) : Upd [.dram] s (putColData c data s) := by
  unfold putColData
  repeat' first
    | intro _
    | with_reducible assumption
    | with_reducible exact Upd.refl _
    | ((with_reducible apply UpdS.snd); with_reducible assumption)
    | with_reducible apply Upd.foldl
    | with_reducible apply UpdS.foldl
    | ((with_reducible apply UpdS.snd); with_reducible apply UpdS.foldl)
    | ((with_reducible apply Upd.go (putDram_upd _ _ _)); rotate_left; exact rfl)
    | with_reducible apply UpdS.mk
    | dsimp only

theorem sealCol_upd (c : Nat) (data : List Byte) (s : State) : Upd [.dram, .dramChk] s (sealCol c data s) := by
  unfold sealCol
  repeat' first
    | intro _
    | with_reducible assumption
    | with_reducible exact Upd.refl _
    | ((with_reducible apply Upd.go (putDramChk_upd _ _ _)); rotate_left; exact rfl)
    | ((with_reducible apply Upd.go (putColData_upd _ _ _)); rotate_left; exact rfl)

theorem poisonCol_upd (c : Nat) (data : List Byte) (s : State) : Upd [.dram, .dramChk] s (poisonCol c data s) := by
  unfold poisonCol
  repeat' first
    | intro _
    | with_reducible assumption
    | with_reducible exact Upd.refl _
    | ((with_reducible apply Upd.go (putDramChk_upd _ _ _)); rotate_left; exact rfl)
    | ((with_reducible apply Upd.go (putColData_upd _ _ _)); rotate_left; exact rfl)

theorem staleCol_upd (c : Nat) (s : State) : Upd [.dramChk] s (staleCol c s) := by
  unfold staleCol
  repeat' first
    | intro _
    | with_reducible assumption
    | with_reducible exact Upd.refl _
    | ((with_reducible apply Upd.go (putDramChk_upd _ _ _)); rotate_left; exact rfl)

theorem putSpadData_upd (g : Nat) (off : Nat) (data : List Byte) (s : State) : Upd [.spad] s (putSpadData g off data s) := by
  unfold putSpadData
  repeat' first
    | intro _
    | with_reducible assumption
    | with_reducible exact Upd.refl _
    | ((with_reducible apply UpdS.snd); with_reducible assumption)
    | with_reducible apply Upd.foldl
    | with_reducible apply UpdS.foldl
    | ((with_reducible apply UpdS.snd); with_reducible apply UpdS.foldl)
    | ((with_reducible apply Upd.go (putSpadByte_upd _ _ _)); rotate_left; exact rfl)
    | with_reducible apply UpdS.mk
    | dsimp only

theorem sealWord_upd (g : Nat) (w : Nat) (data : List Byte) (s : State) : Upd [.spad, .spadChk] s (sealWord g w data s) := by
  unfold sealWord
  repeat' first
    | intro _
    | with_reducible assumption
    | with_reducible exact Upd.refl _
    | ((with_reducible apply Upd.go (putSpadChk_upd _ _ _)); rotate_left; exact rfl)
    | ((with_reducible apply Upd.go (putSpadData_upd _ _ _ _)); rotate_left; exact rfl)

theorem poisonWord_upd (g : Nat) (w : Nat) (s : State) : Upd [.spadChk] s (poisonWord g w s) := by
  unfold poisonWord
  repeat' first
    | intro _
    | with_reducible assumption
    | with_reducible exact Upd.refl _
    | ((with_reducible apply Upd.go (putSpadChk_upd _ _ _)); rotate_left; exact rfl)

end Sys2Proof.Machine
end

