-- ==== Sys2Proof/Laws/UpdOps.lean ====
section
/-!
SUPPORT. What each operation of Machine/Ops can change, and that it keeps the canonical form.
-/

namespace Sys2Proof.Machine

set_option maxRecDepth 4000
set_option linter.all false

theorem enqueue_upd (w : WrReq) (s : State) : Upd [.chans] s (enqueue w s) := by
  unfold enqueue
  repeat' first
    | intro _
    | with_reducible assumption
    | with_reducible exact Upd.refl _
    | (extract_lets -underBinder +onlyGivenNames x; (with_reducible refine Upd.cut x ?_ ?_); rotate_left; (clear_value x; revert x; intro _ _); rotate_right; subst x)
    | (extract_lets -underBinder +onlyGivenNames x; clear_value x; revert x; intro _)
    | with_reducible apply Upd.ite <;> intro _
    | ((with_reducible apply Upd.go (putChan_upd _ _ _)); rotate_left; exact rfl)
    | split

theorem dequeueCol_upd (c : Nat) (s : State) : Upd [.chans] s (dequeueCol c s) := by
  unfold dequeueCol
  repeat' first
    | intro _
    | with_reducible assumption
    | with_reducible exact Upd.refl _
    | (extract_lets -underBinder +onlyGivenNames x; (with_reducible refine Upd.cut x ?_ ?_); rotate_left; (clear_value x; revert x; intro _ _); rotate_right; subst x)
    | (extract_lets -underBinder +onlyGivenNames x; clear_value x; revert x; intro _)
    | ((with_reducible apply Upd.go (putChan_upd _ _ _)); rotate_left; exact rfl)

theorem dropRowSets_upd (c : Nat) (s : State) : Upd [.units] s (dropRowSets c s) := by
  unfold dropRowSets
  repeat' first
    | intro _
    | with_reducible assumption
    | with_reducible exact Upd.refl _
    | (extract_lets -underBinder +onlyGivenNames x; (with_reducible refine Upd.cut x ?_ ?_); rotate_left; (clear_value x; revert x; intro _ _); rotate_right; subst x)
    | (extract_lets -underBinder +onlyGivenNames x; clear_value x; revert x; intro _)
    | with_reducible apply Upd.ite <;> intro _
    | ((with_reducible apply Upd.go (putUnit_upd _ _ _)); rotate_left; exact rfl)
    | split

theorem noteCmd_upd (cmd : Nat) (c : Nat) (s : State) : Upd [.chans] s (noteCmd cmd c s) := by
  unfold noteCmd
  repeat' first
    | intro _
    | with_reducible assumption
    | with_reducible exact Upd.refl _
    | (extract_lets -underBinder +onlyGivenNames x; (with_reducible refine Upd.cut x ?_ ?_); rotate_left; (clear_value x; revert x; intro _ _); rotate_right; subst x)
    | (extract_lets -underBinder +onlyGivenNames x; clear_value x; revert x; intro _)
    | ((with_reducible apply Upd.go (putChan_upd _ _ _)); rotate_left; exact rfl)

theorem shutRows_upd (c : Nat) (rows : List Nat) (s : State) : Upd [.chans] s (shutRows c rows s) := by
  unfold shutRows
  repeat' first
    | intro _
    | with_reducible assumption
    | with_reducible exact Upd.refl _
    | ((with_reducible apply UpdS.snd); with_reducible assumption)
    | (extract_lets -underBinder +onlyGivenNames x; (with_reducible refine Upd.cut x ?_ ?_); rotate_left; (clear_value x; revert x; intro _ _); rotate_right; subst x)
    | (extract_lets -underBinder +onlyGivenNames x; clear_value x; revert x; intro _)
    | with_reducible apply Upd.ite <;> intro _
    | with_reducible apply Upd.foldl
    | with_reducible apply UpdS.foldl
    | ((with_reducible apply UpdS.snd); with_reducible apply UpdS.foldl)
    | ((with_reducible apply Upd.go (putChan_upd _ _ _)); rotate_left; exact rfl)
    | ((with_reducible apply Upd.go (noteCmd_upd _ _ _)); rotate_left; exact rfl)
    | with_reducible apply UpdS.mk
    | dsimp only

theorem openRow_upd (two : Bool) (c : Nat) (s : State) : Upd [.chans] s (openRow two c s) := by
  unfold openRow
  repeat' first
    | intro _
    | with_reducible assumption
    | with_reducible exact Upd.refl _
    | (extract_lets -underBinder +onlyGivenNames x; (with_reducible refine Upd.cut x ?_ ?_); rotate_left; (clear_value x; revert x; intro _ _); rotate_right; subst x)
    | (extract_lets -underBinder +onlyGivenNames x; clear_value x; revert x; intro _)
    | with_reducible apply Upd.ite <;> intro _
    | ((with_reducible apply Upd.go (putChan_upd _ _ _)); rotate_left; exact rfl)
    | ((with_reducible apply Upd.go (noteCmd_upd _ _ _)); rotate_left; exact rfl)
    | ((with_reducible apply Upd.go (shutRows_upd _ _ _)); rotate_left; exact rfl)

theorem preAll_upd (ck : Nat) (s : State) : Upd [.chans] s (preAll ck s) := by
  unfold preAll
  repeat' first
    | intro _
    | with_reducible assumption
    | with_reducible exact Upd.refl _
    | (extract_lets -underBinder +onlyGivenNames x; (with_reducible refine Upd.cut x ?_ ?_); rotate_left; (clear_value x; revert x; intro _ _); rotate_right; subst x)
    | (extract_lets -underBinder +onlyGivenNames x; clear_value x; revert x; intro _)
    | ((with_reducible apply Upd.go (putChan_upd _ _ _)); rotate_left; exact rfl)
    | ((with_reducible apply Upd.go (noteCmd_upd _ _ _)); rotate_left; exact rfl)

theorem access_upd (cmd : Nat) (c : Nat) (s : State) : Upd [.chans] s (access cmd c s) := by
  unfold access
  repeat' first
    | intro _
    | with_reducible assumption
    | with_reducible exact Upd.refl _
    | ((with_reducible apply Upd.go (noteCmd_upd _ _ _)); rotate_left; exact rfl)
    | ((with_reducible apply Upd.go (openRow_upd _ _ _)); rotate_left; exact rfl)

theorem storeCol_upd (c : Nat) (data : List Byte) (poison : Bool) (s : State) : Upd [.dram, .dramChk, .units] s (storeCol c data poison s)
    := by
  unfold storeCol
  repeat' first
    | intro _
    | with_reducible assumption
    | with_reducible exact Upd.refl _
    | (extract_lets -underBinder +onlyGivenNames x; (with_reducible refine Upd.cut x ?_ ?_); rotate_left; (clear_value x; revert x; intro _ _); rotate_right; subst x)
    | (extract_lets -underBinder +onlyGivenNames x; clear_value x; revert x; intro _)
    | with_reducible apply Upd.ite <;> intro _
    | ((with_reducible apply Upd.go (sealCol_upd _ _ _)); rotate_left; exact rfl)
    | ((with_reducible apply Upd.go (poisonCol_upd _ _ _)); rotate_left; exact rfl)
    | ((with_reducible apply Upd.go (dropRowSets_upd _ _)); rotate_left; exact rfl)

theorem arrayWrite_upd (c : Nat) (data : List Byte) (poison : Bool) (s : State) : Upd [.dram, .dramChk, .chans, .units] s (arrayWrite c
    data poison s) := by
  unfold arrayWrite
  repeat' first
    | intro _
    | with_reducible assumption
    | with_reducible exact Upd.refl _
    | ((with_reducible apply Upd.go (access_upd _ _ _)); rotate_left; exact rfl)
    | ((with_reducible apply Upd.go (storeCol_upd _ _ _ _)); rotate_left; exact rfl)

theorem chargeAs_upd (full : Bool) (d : Nat) (port : Nat) (n : Nat) (s : State) : Upd [.regMcs, .servedBytes] s (chargeAs full d port n s)
    := by
  unfold chargeAs
  repeat' first
    | intro _
    | with_reducible assumption
    | with_reducible exact Upd.refl _
    | (extract_lets -underBinder +onlyGivenNames x; (with_reducible refine Upd.cut x ?_ ?_); rotate_left; (clear_value x; revert x; intro _ _); rotate_right; subst x)
    | (extract_lets -underBinder +onlyGivenNames x; clear_value x; revert x; intro _)
    | with_reducible apply Upd.ite <;> intro _
    | ((with_reducible apply Upd.go (wri_upd _ _ _ _ _)); rotate_left; exact rfl)
    | ((with_reducible apply Upd.go (counti_upd _ _ _ _ _)); rotate_left; exact rfl)
    | with_reducible apply SMap.wf_set
    | with_reducible apply SMap.wf_mapv
    | with_reducible apply SMap.wf_filter
    | with_reducible exact SMap.wf_nil
    | (first | with_reducible exact State.Ok.servedBytes (by assumption))
    | ((with_reducible apply Upd.set_servedBytes); rotate_left; exact rfl)

theorem charge_upd (d : Nat) (port : Nat) (n : Nat) (s : State) : Upd [.regMcs, .servedBytes] s (charge d port n s) := by
  unfold charge
  repeat' first
    | intro _
    | with_reducible assumption
    | with_reducible exact Upd.refl _
    | ((with_reducible apply Upd.go (chargeAs_upd _ _ _ _ _)); rotate_left; exact rfl)

theorem putLate_upd (ck : Nat) (r : LateReq) (s : State) : Upd [.chans] s (putLate ck r s) := by
  unfold putLate
  repeat' first
    | intro _
    | with_reducible assumption
    | with_reducible exact Upd.refl _
    | (extract_lets -underBinder +onlyGivenNames x; (with_reducible refine Upd.cut x ?_ ?_); rotate_left; (clear_value x; revert x; intro _ _); rotate_right; subst x)
    | (extract_lets -underBinder +onlyGivenNames x; clear_value x; revert x; intro _)
    | ((with_reducible apply Upd.go (putChan_upd _ _ _)); rotate_left; exact rfl)

theorem queueWrite_upd (w : WrReq) (s : State) : Upd [.regMcs, .chans] s (queueWrite w s) := by
  unfold queueWrite
  repeat' first
    | intro _
    | with_reducible assumption
    | with_reducible exact Upd.refl _
    | with_reducible apply Upd.ite <;> intro _
    | ((with_reducible apply Upd.go (count_upd _ _ _ _)); rotate_left; exact rfl)
    | ((with_reducible apply Upd.go (enqueue_upd _ _)); rotate_left; exact rfl)

theorem sideWrite_upd (c : Nat) (s : State) : Upd [.outbox, .regIrq, .regErr, .regMcs, .regFlt] s (sideWrite c s) := by
  unfold sideWrite
  repeat' first
    | intro _
    | with_reducible assumption
    | with_reducible exact Upd.refl _
    | ((with_reducible apply Upd.go (count_upd _ _ _ _)); rotate_left; exact rfl)
    | ((with_reducible apply Upd.go (logErr_upd _ _ _ _ _)); rotate_left; exact rfl)

theorem writeSpine_upd (a : Nat) (data : List Byte) (s : State) : Upd [.outbox, .regIrq, .regErr, .regMcs, .regFlt, .dram, .dramChk,
    .chans, .units, .servedBytes] s (writeSpine a data s) := by
  unfold writeSpine
  repeat' first
    | intro _
    | with_reducible assumption
    | with_reducible exact Upd.refl _
    | (extract_lets -underBinder +onlyGivenNames x; (with_reducible refine Upd.cut x ?_ ?_); rotate_left; (clear_value x; revert x; intro _ _); rotate_right; subst x)
    | (extract_lets -underBinder +onlyGivenNames x; clear_value x; revert x; intro _)
    | with_reducible apply Upd.ite <;> intro _
    | ((with_reducible apply Upd.go (dequeueCol_upd _ _)); rotate_left; exact rfl)
    | ((with_reducible apply Upd.go (arrayWrite_upd _ _ _ _)); rotate_left; exact rfl)
    | ((with_reducible apply Upd.go (charge_upd _ _ _ _)); rotate_left; exact rfl)
    | ((with_reducible apply Upd.go (putLate_upd _ _ _)); rotate_left; exact rfl)
    | ((with_reducible apply Upd.go (queueWrite_upd _ _)); rotate_left; exact rfl)
    | ((with_reducible apply Upd.go (sideWrite_upd _ _)); rotate_left; exact rfl)

theorem Upd.set_snoop_biWait {m : List Part} {a b : State} {vsnoop vbiWait} (h : Upd m a b)
    (hm : within [.snoop, .biWait] m = true) :
    Upd m a { b with snoop := vsnoop, biWait := vbiWait } :=
  h.put (fun p hp => by
    have : [.snoop, .biWait].contains p = false := by
      cases hc : [.snoop, .biWait].contains p with
      | false => rfl
      | true => exact absurd ((within_mem hm (List.contains_iff_mem.1 hc)).symm.trans hp) (by decide)
    cases p <;> first | rfl | exact fun _ _ _ _ => rfl | exact absurd this (by decide)) rfl rfl fun k => { k with  }

theorem ledgerPut_upd (src : Nat) (type : Nat) (detail : Nat) (s : State) : Upd [.outbox, .regIrq, .regErr, .regLdg, .regMcs, .regFlt,
    .ldgSeq, .dram, .dramChk, .chans, .units, .snoop, .biWait, .servedBytes] s (ledgerPut src type detail s) := by
  unfold ledgerPut
  repeat' first
    | intro _
    | with_reducible assumption
    | with_reducible exact Upd.refl _
    | (extract_lets -underBinder +onlyGivenNames x; (with_reducible refine Upd.cut x ?_ ?_); rotate_left; (clear_value x; revert x; intro _ _); rotate_right; subst x)
    | (extract_lets -underBinder +onlyGivenNames x; clear_value x; revert x; intro _)
    | with_reducible apply Upd.ite <;> intro _
    | ((with_reducible apply Upd.go (wri_upd _ _ _ _ _)); rotate_left; exact rfl)
    | ((with_reducible apply Upd.go (emit_upd _ _)); rotate_left; exact rfl)
    | ((with_reducible apply Upd.go (writeSpine_upd _ _ _)); rotate_left; exact rfl)
    | with_reducible apply SMap.wf_set
    | with_reducible apply SMap.wf_mapv
    | with_reducible apply SMap.wf_filter
    | with_reducible exact SMap.wf_nil
    | (first | with_reducible exact State.Ok.ldgSeq (by assumption))
    | ((with_reducible apply Upd.set_snoop_biWait); rotate_left; exact rfl)
    | ((with_reducible apply Upd.set_ldgSeq); rotate_left; exact rfl)

theorem Upd.set_ldgSeq_ldgLost {m : List Part} {a b : State} {vldgSeq vldgLost} (h : Upd m a b)
    (hm : within [.ldgSeq, .ldgLost] m = true)
    (hldgSeq : b.Ok → SMap.wf (fun _ => 0) vldgSeq)
    (hldgLost : b.Ok → SMap.wf (fun _ => 0) vldgLost) :
    Upd m a { b with ldgSeq := vldgSeq, ldgLost := vldgLost } :=
  h.put (fun p hp => by
    have : [.ldgSeq, .ldgLost].contains p = false := by
      cases hc : [.ldgSeq, .ldgLost].contains p with
      | false => rfl
      | true => exact absurd ((within_mem hm (List.contains_iff_mem.1 hc)).symm.trans hp) (by decide)
    cases p <;> first | rfl | exact fun _ _ _ _ => rfl | exact absurd this (by decide)) rfl rfl fun k => { k with ldgSeq := hldgSeq k, ldgLost := hldgLost k }

theorem ledger_upd (src : Nat) (type : Nat) (detail : Nat) (s : State) : Upd [.outbox, .regIrq, .regErr, .regLdg, .regMcs, .regFlt,
    .ldgSeq, .ldgLost, .dram, .dramChk, .chans, .units, .snoop, .biWait, .servedBytes] s (ledger src type detail s) := by
  unfold ledger
  repeat' first
    | intro _
    | with_reducible assumption
    | with_reducible exact Upd.refl _
    | (extract_lets -underBinder +onlyGivenNames x; (with_reducible refine Upd.cut x ?_ ?_); rotate_left; (clear_value x; revert x; intro _ _); rotate_right; subst x)
    | (extract_lets -underBinder +onlyGivenNames x; clear_value x; revert x; intro _)
    | with_reducible apply Upd.ite <;> intro _
    | ((with_reducible apply Upd.go (counti_upd _ _ _ _ _)); rotate_left; exact rfl)
    | ((with_reducible apply Upd.go (ledgerPut_upd _ _ _ _)); rotate_left; exact rfl)
    | with_reducible apply SMap.wf_set
    | with_reducible apply SMap.wf_mapv
    | with_reducible apply SMap.wf_filter
    | with_reducible exact SMap.wf_nil
    | (first | with_reducible exact State.Ok.ldgSeq (by assumption) | with_reducible exact State.Ok.ldgLost (by assumption))
    | ((with_reducible apply Upd.set_ldgSeq_ldgLost); rotate_left; exact rfl)

theorem reportUnit_upd (q : Seq) (bk : Nat) (kind : Nat) (u : BankUnit) (s : State) : Upd [.flights] s (reportUnit q bk kind u s) := by
  unfold reportUnit
  repeat' first
    | intro _
    | with_reducible assumption
    | with_reducible exact Upd.refl _
    | (extract_lets -underBinder +onlyGivenNames x; (with_reducible refine Upd.cut x ?_ ?_); rotate_left; (clear_value x; revert x; intro _ _); rotate_right; subst x)
    | (extract_lets -underBinder +onlyGivenNames x; clear_value x; revert x; intro _)
    | with_reducible apply Upd.ite <;> intro _
    | ((with_reducible apply Upd.set_flights); rotate_left; exact rfl)

theorem payUnitMarks_upd (bk : Nat) (s : State) : Upd [.outbox, .regIrq, .regErr, .regLdg, .regMcs, .regFlt, .ldgSeq, .ldgLost, .dram,
    .dramChk, .chans, .units, .snoop, .biWait, .servedBytes] s (payUnitMarks bk s) := by
  unfold payUnitMarks
  repeat' first
    | intro _
    | with_reducible assumption
    | with_reducible exact Upd.refl _
    | ((with_reducible apply UpdS.snd); with_reducible assumption)
    | (extract_lets -underBinder +onlyGivenNames x; (with_reducible refine Upd.cut x ?_ ?_); rotate_left; (clear_value x; revert x; intro _ _); rotate_right; subst x)
    | (extract_lets -underBinder +onlyGivenNames x; clear_value x; revert x; intro _)
    | with_reducible apply Upd.ite <;> intro _
    | with_reducible apply Upd.foldl
    | with_reducible apply UpdS.foldl
    | ((with_reducible apply UpdS.snd); with_reducible apply UpdS.foldl)
    | ((with_reducible apply Upd.go (putUnit_upd _ _ _)); rotate_left; exact rfl)
    | ((with_reducible apply Upd.go (poisonCol_upd _ _ _)); rotate_left; exact rfl)
    | ((with_reducible apply Upd.go (ledger_upd _ _ _ _)); rotate_left; exact rfl)
    | with_reducible apply UpdS.mk
    | dsimp only

theorem abortBank_upd (src : Nat) (ck : Nat) (q : Seq) (bank : Nat) (s : State) : Upd [.outbox, .regIrq, .regErr, .regLdg, .regBku,
    .regMcs, .regFlt, .ldgSeq, .ldgLost, .dram, .dramChk, .chans, .units, .flights, .snoop, .biWait, .servedBytes] s (abortBank src ck q
    bank s) := by
  unfold abortBank
  repeat' first
    | intro _
    | with_reducible assumption
    | with_reducible exact Upd.refl _
    | (extract_lets -underBinder +onlyGivenNames x; (with_reducible refine Upd.cut x ?_ ?_); rotate_left; (clear_value x; revert x; intro _ _); rotate_right; subst x)
    | (extract_lets -underBinder +onlyGivenNames x; clear_value x; revert x; intro _)
    | with_reducible apply Upd.ite <;> intro _
    | ((with_reducible apply Upd.go (count_upd _ _ _ _)); rotate_left; exact rfl)
    | ((with_reducible apply Upd.go (raise_upd _ _ _)); rotate_left; exact rfl)
    | ((with_reducible apply Upd.go (putUnit_upd _ _ _)); rotate_left; exact rfl)
    | ((with_reducible apply Upd.go (ledger_upd _ _ _ _)); rotate_left; exact rfl)
    | ((with_reducible apply Upd.go (reportUnit_upd _ _ _ _ _)); rotate_left; exact rfl)
    | ((with_reducible apply Upd.go (payUnitMarks_upd _ _)); rotate_left; exact rfl)

theorem putSeq_upd (ck : Nat) (q : Seq) (new : Option Seq) (s : State) : Upd [.chans] s (putSeq ck q new s) := by
  unfold putSeq
  repeat' first
    | intro _
    | with_reducible assumption
    | with_reducible exact Upd.refl _
    | (extract_lets -underBinder +onlyGivenNames x; (with_reducible refine Upd.cut x ?_ ?_); rotate_left; (clear_value x; revert x; intro _ _); rotate_right; subst x)
    | (extract_lets -underBinder +onlyGivenNames x; clear_value x; revert x; intro _)
    | with_reducible apply Upd.ite <;> intro _
    | ((with_reducible apply Upd.go (putChan_upd _ _ _)); rotate_left; exact rfl)

theorem abortSeq_upd (src : Nat) (ck : Nat) (q : Seq) (banks : List Nat) (s : State) : Upd [.outbox, .regIrq, .regErr, .regLdg, .regBku,
    .regMcs, .regFlt, .ldgSeq, .ldgLost, .dram, .dramChk, .chans, .units, .flights, .snoop, .biWait, .servedBytes] s (abortSeq src ck q
    banks s) := by
  unfold abortSeq
  repeat' first
    | intro _
    | with_reducible assumption
    | with_reducible exact Upd.refl _
    | ((with_reducible apply UpdS.snd); with_reducible assumption)
    | (extract_lets -underBinder +onlyGivenNames x; (with_reducible refine Upd.cut x ?_ ?_); rotate_left; (clear_value x; revert x; intro _ _); rotate_right; subst x)
    | (extract_lets -underBinder +onlyGivenNames x; clear_value x; revert x; intro _)
    | with_reducible apply Upd.ite <;> intro _
    | with_reducible apply Upd.foldl
    | with_reducible apply UpdS.foldl
    | ((with_reducible apply UpdS.snd); with_reducible apply UpdS.foldl)
    | ((with_reducible apply Upd.go (abortBank_upd _ _ _ _ _)); rotate_left; exact rfl)
    | ((with_reducible apply Upd.go (putSeq_upd _ _ _ _)); rotate_left; exact rfl)
    | with_reducible apply UpdS.mk
    | dsimp only

theorem abortChannel_upd (src : Nat) (ck : Nat) (s : State) : Upd [.outbox, .regIrq, .regErr, .regLdg, .regBku, .regMcs, .regFlt, .ldgSeq,
    .ldgLost, .dram, .dramChk, .chans, .units, .flights, .snoop, .biWait, .servedBytes] s (abortChannel src ck s) := by
  unfold abortChannel
  repeat' first
    | intro _
    | with_reducible assumption
    | with_reducible exact Upd.refl _
    | ((with_reducible apply UpdS.snd); with_reducible assumption)
    | with_reducible apply Upd.foldl
    | with_reducible apply UpdS.foldl
    | ((with_reducible apply UpdS.snd); with_reducible apply UpdS.foldl)
    | ((with_reducible apply Upd.go (abortSeq_upd _ _ _ _ _)); rotate_left; exact rfl)
    | with_reducible apply UpdS.mk
    | dsimp only

theorem freezeRecord_upd (ck : Nat) (cause : Nat) (bank : Nat) (row : Nat) (col : Nat) (dpa : Nat) (syn : Nat) (s : State) : Upd
    [.freeCtr, .regMcs] s (freezeRecord ck cause bank row col dpa syn s) := by
  unfold freezeRecord
  repeat' first
    | intro _
    | with_reducible assumption
    | with_reducible exact Upd.refl _
    | ((with_reducible apply UpdS.snd); with_reducible assumption)
    | (extract_lets -underBinder +onlyGivenNames x; (with_reducible refine Upd.cut x ?_ ?_); rotate_left; (clear_value x; revert x; intro _ _); rotate_right; subst x)
    | (extract_lets -underBinder +onlyGivenNames x; clear_value x; revert x; intro _)
    | with_reducible apply Upd.ite <;> intro _
    | with_reducible apply Upd.foldl
    | with_reducible apply UpdS.foldl
    | ((with_reducible apply UpdS.snd); with_reducible apply UpdS.foldl)
    | with_reducible apply Upd.getD
    | ((with_reducible apply Upd.go (wri_upd _ _ _ _ _)); rotate_left; exact rfl)
    | ((with_reducible apply Upd.go (wr_upd _ _ _ _)); rotate_left; exact rfl)
    | ((with_reducible apply Upd.go (freshNext_upd _)); rotate_left; exact rfl)
    | with_reducible apply UpdS.mk
    | dsimp only

theorem freeze_upd (ck : Nat) (cause : Nat) (bank : Nat) (row : Nat) (col : Nat) (dpa : Nat) (syn : Nat) (s : State) : Upd [.outbox,
    .freeCtr, .regIrq, .regErr, .regLdg, .regBku, .regMcs, .regFlt, .ldgSeq, .ldgLost, .dram, .dramChk, .chans, .units, .flights, .snoop,
    .biWait, .servedBytes] s (freeze ck cause bank row col dpa syn s) := by
  unfold freeze
  repeat' first
    | intro _
    | with_reducible assumption
    | with_reducible exact Upd.refl _
    | (extract_lets -underBinder +onlyGivenNames x; (with_reducible refine Upd.cut x ?_ ?_); rotate_left; (clear_value x; revert x; intro _ _); rotate_right; subst x)
    | (extract_lets -underBinder +onlyGivenNames x; clear_value x; revert x; intro _)
    | with_reducible apply Upd.ite <;> intro _
    | ((with_reducible apply Upd.go (count_upd _ _ _ _)); rotate_left; exact rfl)
    | ((with_reducible apply Upd.go (raise_upd _ _ _)); rotate_left; exact rfl)
    | ((with_reducible apply Upd.go (logErr_upd _ _ _ _ _)); rotate_left; exact rfl)
    | ((with_reducible apply Upd.go (putChan_upd _ _ _)); rotate_left; exact rfl)
    | ((with_reducible apply Upd.go (ledger_upd _ _ _ _)); rotate_left; exact rfl)
    | ((with_reducible apply Upd.go (abortChannel_upd _ _ _)); rotate_left; exact rfl)
    | ((with_reducible apply Upd.go (freezeRecord_upd _ _ _ _ _ _ _ _)); rotate_left; exact rfl)
    | split

theorem ceWindow_upd (p : Nat) (s : State) : Upd [.outbox, .regIrq, .regErr, .regFlt, .ceWins] s (ceWindow p s) := by
  unfold ceWindow
  repeat' first
    | intro _
    | with_reducible assumption
    | with_reducible exact Upd.refl _
    | (extract_lets -underBinder +onlyGivenNames x; (with_reducible refine Upd.cut x ?_ ?_); rotate_left; (clear_value x; revert x; intro _ _); rotate_right; subst x)
    | (extract_lets -underBinder +onlyGivenNames x; clear_value x; revert x; intro _)
    | with_reducible apply Upd.ite <;> intro _
    | ((with_reducible apply Upd.go (logErr_upd _ _ _ _ _)); rotate_left; exact rfl)
    | with_reducible apply SMap.wf_set
    | with_reducible apply SMap.wf_mapv
    | with_reducible apply SMap.wf_filter
    | with_reducible exact SMap.wf_nil
    | (first | with_reducible exact State.Ok.ceWins (by assumption))
    | split
    | ((with_reducible apply Upd.set_ceWins); rotate_left; exact rfl)

theorem candidate_upd (rowKey : Nat) (host : Bool) (s : State) : Upd [.outbox, .regIrq, .regErr, .regLdg, .regMcs, .regFlt, .ldgSeq,
    .ldgLost, .dram, .dramChk, .chans, .units, .snoop, .biWait, .servedBytes] s (candidate rowKey host s) := by
  unfold candidate
  repeat' first
    | intro _
    | with_reducible assumption
    | with_reducible exact Upd.refl _
    | (extract_lets -underBinder +onlyGivenNames x; (with_reducible refine Upd.cut x ?_ ?_); rotate_left; (clear_value x; revert x; intro _ _); rotate_right; subst x)
    | (extract_lets -underBinder +onlyGivenNames x; clear_value x; revert x; intro _)
    | with_reducible apply Upd.ite <;> intro _
    | ((with_reducible apply Upd.go (logErr_upd _ _ _ _ _)); rotate_left; exact rfl)
    | ((with_reducible apply Upd.go (putChan_upd _ _ _)); rotate_left; exact rfl)
    | ((with_reducible apply Upd.go (ledger_upd _ _ _ _)); rotate_left; exact rfl)
    | split

theorem suspect_upd (c : Nat) (s : State) : Upd [.outbox, .regIrq, .regErr, .regLdg, .regMcs, .regFlt, .ldgSeq, .ldgLost, .dram, .dramChk,
    .chans, .units, .snoop, .biWait, .servedBytes] s (suspect c s) := by
  unfold suspect
  repeat' first
    | intro _
    | with_reducible assumption
    | with_reducible exact Upd.refl _
    | ((with_reducible apply UpdS.snd); with_reducible assumption)
    | (extract_lets -underBinder +onlyGivenNames x; (with_reducible refine Upd.cut x ?_ ?_); rotate_left; (clear_value x; revert x; intro _ _); rotate_right; subst x)
    | (extract_lets -underBinder +onlyGivenNames x; clear_value x; revert x; intro _)
    | with_reducible apply Upd.ite <;> intro _
    | with_reducible apply Upd.foldl
    | with_reducible apply UpdS.foldl
    | ((with_reducible apply UpdS.snd); with_reducible apply UpdS.foldl)
    | with_reducible apply Upd.getD
    | ((with_reducible apply Upd.go (putChan_upd _ _ _)); rotate_left; exact rfl)
    | ((with_reducible apply Upd.go (candidate_upd _ _ _)); rotate_left; exact rfl)
    | with_reducible apply UpdS.mk
    | dsimp only

theorem countRead_upd (cls : ColClass) (c : Nat) (s : State) : Upd [.outbox, .regIrq, .regErr, .regLdg, .regMcs, .regFlt, .ldgSeq,
    .ldgLost, .dram, .dramChk, .chans, .units, .snoop, .biWait, .ceWins, .servedBytes] s (countRead cls c s) := by
  unfold countRead
  repeat' first
    | intro _
    | with_reducible assumption
    | with_reducible exact Upd.refl _
    | (extract_lets -underBinder +onlyGivenNames x; (with_reducible refine Upd.cut x ?_ ?_); rotate_left; (clear_value x; revert x; intro _ _); rotate_right; subst x)
    | (extract_lets -underBinder +onlyGivenNames x; clear_value x; revert x; intro _)
    | with_reducible apply Upd.ite <;> intro _
    | ((with_reducible apply Upd.go (counti_upd _ _ _ _ _)); rotate_left; exact rfl)
    | ((with_reducible apply Upd.go (ceWindow_upd _ _)); rotate_left; exact rfl)
    | ((with_reducible apply Upd.go (candidate_upd _ _ _)); rotate_left; exact rfl)
    | ((with_reducible apply Upd.go (suspect_upd _ _)); rotate_left; exact rfl)
    | split

theorem readUe_upd (c : Nat) (syn : Nat) (s : State) : Upd [.outbox, .freeCtr, .regIrq, .regErr, .regLdg, .regBku, .regMcs, .regFlt,
    .ldgSeq, .ldgLost, .dram, .dramChk, .chans, .units, .flights, .snoop, .biWait, .servedBytes] s (readUe c syn s) := by
  unfold readUe
  repeat' first
    | intro _
    | with_reducible assumption
    | with_reducible exact Upd.refl _
    | (extract_lets -underBinder +onlyGivenNames x; (with_reducible refine Upd.cut x ?_ ?_); rotate_left; (clear_value x; revert x; intro _ _); rotate_right; subst x)
    | (extract_lets -underBinder +onlyGivenNames x; clear_value x; revert x; intro _)
    | with_reducible apply Upd.ite <;> intro _
    | ((with_reducible apply Upd.go (putChan_upd _ _ _)); rotate_left; exact rfl)
    | ((with_reducible apply Upd.go (freeze_upd _ _ _ _ _ _ _ _)); rotate_left; exact rfl)

theorem readColAt_upd (n : Nat) (c : Nat) (s : State) : UpdS [.outbox, .freeCtr, .regIrq, .regErr, .regLdg, .regBku, .regMcs, .regFlt,
    .ldgSeq, .ldgLost, .dram, .dramChk, .chans, .units, .flights, .snoop, .biWait, .ceWins, .servedBytes] s (readColAt n c s) := by
  unfold readColAt
  repeat' first
    | intro _
    | with_reducible assumption
    | with_reducible exact Upd.refl _
    | ((with_reducible apply UpdS.snd); with_reducible assumption)
    | (extract_lets -underBinder +onlyGivenNames x; (with_reducible refine UpdS.cut x ?_ ?_); rotate_left; (clear_value x; revert x; intro _ _); rotate_right; subst x)
    | (extract_lets -underBinder +onlyGivenNames x; (with_reducible refine Upd.cut x ?_ ?_); rotate_left; (clear_value x; revert x; intro _ _); rotate_right; subst x)
    | (extract_lets -underBinder +onlyGivenNames x; clear_value x; revert x; intro _)
    | with_reducible apply Upd.ite <;> intro _
    | with_reducible apply UpdS.ite <;> intro _
    | ((with_reducible apply Upd.go (freshNext_upd _)); rotate_left; exact rfl)
    | ((with_reducible apply Upd.go (access_upd _ _ _)); rotate_left; exact rfl)
    | ((with_reducible apply Upd.go (countRead_upd _ _ _)); rotate_left; exact rfl)
    | ((with_reducible apply Upd.go (readUe_upd _ _ _)); rotate_left; exact rfl)
    | with_reducible apply UpdS.mk
    | dsimp only
    | split

theorem readCol_upd (c : Nat) (s : State) : UpdS [.outbox, .freeCtr, .regIrq, .regErr, .regLdg, .regBku, .regMcs, .regFlt, .ldgSeq,
    .ldgLost, .dram, .dramChk, .chans, .units, .flights, .snoop, .biWait, .ceWins, .servedBytes] s (readCol c s) := by
  unfold readCol
  repeat' first
    | intro _
    | with_reducible assumption
    | with_reducible exact Upd.refl _
    | ((with_reducible apply UpdS.snd); with_reducible assumption)
    | ((with_reducible apply Upd.goS (readColAt_upd _ _ _)); rotate_left; exact rfl)
    | ((with_reducible apply UpdS.go (readColAt_upd _ _ _)); rotate_left; exact rfl)
    | with_reducible apply UpdS.mk
    | dsimp only

theorem mergeCol_upd (w : WrReq) (s : State) : Upd [.outbox, .freeCtr, .regIrq, .regErr, .regLdg, .regBku, .regMcs, .regFlt, .ldgSeq,
    .ldgLost, .dram, .dramChk, .chans, .units, .flights, .snoop, .biWait, .ceWins, .servedBytes] s (mergeCol w s) := by
  unfold mergeCol
  repeat' first
    | intro _
    | with_reducible assumption
    | with_reducible exact Upd.refl _
    | (extract_lets -underBinder +onlyGivenNames x; (with_reducible refine Upd.cut x ?_ ?_); rotate_left; (clear_value x; revert x; intro _ _); rotate_right; subst x)
    | (extract_lets -underBinder +onlyGivenNames x; clear_value x; revert x; intro _)
    | ((with_reducible apply Upd.go (counti_upd _ _ _ _ _)); rotate_left; exact rfl)
    | ((with_reducible apply Upd.go (enqueue_upd _ _)); rotate_left; exact rfl)
    | ((with_reducible apply Upd.go (access_upd _ _ _)); rotate_left; exact rfl)
    | ((with_reducible apply Upd.go (arrayWrite_upd _ _ _ _)); rotate_left; exact rfl)
    | ((with_reducible apply Upd.go (countRead_upd _ _ _)); rotate_left; exact rfl)
    | ((with_reducible apply Upd.go (readUe_upd _ _ _)); rotate_left; exact rfl)
    | split

theorem applyWrite_upd (w : WrReq) (s : State) : Upd [.outbox, .freeCtr, .regIrq, .regErr, .regLdg, .regBku, .regMcs, .regFlt, .ldgSeq,
    .ldgLost, .dram, .dramChk, .chans, .units, .flights, .snoop, .biWait, .ceWins, .servedBytes] s (applyWrite w s) := by
  unfold applyWrite
  repeat' first
    | intro _
    | with_reducible assumption
    | with_reducible exact Upd.refl _
    | (extract_lets -underBinder +onlyGivenNames x; (with_reducible refine Upd.cut x ?_ ?_); rotate_left; (clear_value x; revert x; intro _ _); rotate_right; subst x)
    | (extract_lets -underBinder +onlyGivenNames x; clear_value x; revert x; intro _)
    | with_reducible apply Upd.ite <;> intro _
    | ((with_reducible apply Upd.go (arrayWrite_upd _ _ _ _)); rotate_left; exact rfl)
    | ((with_reducible apply Upd.go (chargeAs_upd _ _ _ _ _)); rotate_left; exact rfl)
    | ((with_reducible apply Upd.go (mergeCol_upd _ _)); rotate_left; exact rfl)

theorem writeCol_upd (w : WrReq) (s : State) : Upd [.outbox, .freeCtr, .regIrq, .regErr, .regLdg, .regBku, .regMcs, .regFlt, .ldgSeq,
    .ldgLost, .dram, .dramChk, .chans, .units, .flights, .snoop, .biWait, .ceWins, .servedBytes] s (writeCol w s) := by
  unfold writeCol
  repeat' first
    | intro _
    | with_reducible assumption
    | with_reducible exact Upd.refl _
    | (extract_lets -underBinder +onlyGivenNames x; (with_reducible refine Upd.cut x ?_ ?_); rotate_left; (clear_value x; revert x; intro _ _); rotate_right; subst x)
    | (extract_lets -underBinder +onlyGivenNames x; clear_value x; revert x; intro _)
    | with_reducible apply Upd.ite <;> intro _
    | ((with_reducible apply Upd.go (dequeueCol_upd _ _)); rotate_left; exact rfl)
    | ((with_reducible apply Upd.go (queueWrite_upd _ _)); rotate_left; exact rfl)
    | ((with_reducible apply Upd.go (sideWrite_upd _ _)); rotate_left; exact rfl)
    | ((with_reducible apply Upd.go (applyWrite_upd _ _)); rotate_left; exact rfl)

theorem writeSpan_upd (a : Nat) (bytes : List Byte) (poison : Bool) (port : Nat) (s : State) : Upd [.outbox, .freeCtr, .regIrq, .regErr,
    .regLdg, .regBku, .regMcs, .regFlt, .ldgSeq, .ldgLost, .dram, .dramChk, .chans, .units, .flights, .snoop, .biWait, .ceWins,
    .servedBytes] s (writeSpan a bytes poison port s) := by
  unfold writeSpan
  repeat' first
    | intro _
    | with_reducible assumption
    | with_reducible exact Upd.refl _
    | ((with_reducible apply UpdS.snd); with_reducible assumption)
    | with_reducible apply Upd.foldl
    | with_reducible apply UpdS.foldl
    | ((with_reducible apply UpdS.snd); with_reducible apply UpdS.foldl)
    | ((with_reducible apply Upd.go (writeCol_upd _ _)); rotate_left; exact rfl)
    | with_reducible apply UpdS.mk
    | dsimp only

theorem readCols_upd {m : List Part} {a s : State} {one : Nat → State → (List Byte × Bool) × State} {cols : List (Nat × Nat)}
    (h : Upd m a s) (hf : ∀ c t, Upd m a t → UpdS m a (one c t)) : UpdS m a (readCols one cols s) := by
  induction cols generalizing s with
  | nil => exact UpdS.mk h
  | cons e es ih => exact UpdS.mk (ih (hf _ _ h).snd).snd

theorem noteIdle_upd (cols : List (Nat × Nat)) (s : State) : Upd [.regMcs] s (noteIdle cols s) := by
  unfold noteIdle
  repeat' first
    | intro _
    | with_reducible assumption
    | with_reducible exact Upd.refl _
    | ((with_reducible apply UpdS.snd); with_reducible assumption)
    | with_reducible apply Upd.ite <;> intro _
    | with_reducible apply Upd.foldl
    | with_reducible apply UpdS.foldl
    | ((with_reducible apply UpdS.snd); with_reducible apply UpdS.foldl)
    | ((with_reducible apply Upd.go (count_upd _ _ _ _)); rotate_left; exact rfl)
    | with_reducible apply UpdS.mk
    | dsimp only

theorem readSpan_upd (pt : PortOf) (a : Nat) (n : Nat) (s : State) : UpdS [.outbox, .freeCtr, .regIrq, .regErr, .regLdg, .regBku, .regMcs,
    .regFlt, .ldgSeq, .ldgLost, .dram, .dramChk, .chans, .units, .flights, .snoop, .biWait, .ceWins, .servedBytes] s (readSpan pt a n s)
    := by
  unfold readSpan
  repeat' first
    | intro _
    | with_reducible assumption
    | with_reducible exact Upd.refl _
    | ((with_reducible apply UpdS.snd); with_reducible assumption)
    | (extract_lets -underBinder +onlyGivenNames x; (with_reducible refine UpdS.cut x ?_ ?_); rotate_left; (clear_value x; revert x; intro _ _); rotate_right; subst x)
    | (extract_lets -underBinder +onlyGivenNames x; (with_reducible refine Upd.cut x ?_ ?_); rotate_left; (clear_value x; revert x; intro _ _); rotate_right; subst x)
    | (extract_lets -underBinder +onlyGivenNames x; (with_reducible refine UpdS.cutSnd x ?_ ?_); rotate_left; (clear_value x; revert x; intro _ _); rotate_right; subst x)
    | (extract_lets -underBinder +onlyGivenNames x; (with_reducible refine Upd.cutSnd x ?_ ?_); rotate_left; (clear_value x; revert x; intro _ _); rotate_right; subst x)
    | (extract_lets -underBinder +onlyGivenNames x; clear_value x; revert x; intro _)
    | ((with_reducible apply Upd.go (charge_upd _ _ _ _)); rotate_left; exact rfl)
    | ((with_reducible apply Upd.goS (readCol_upd _ _)); rotate_left; exact rfl)
    | ((with_reducible apply UpdS.go (readCol_upd _ _)); rotate_left; exact rfl)
    | with_reducible apply readCols_upd
    | ((with_reducible apply Upd.go (noteIdle_upd _ _)); rotate_left; exact rfl)
    | with_reducible apply UpdS.mk
    | dsimp only

theorem noteWaits_upd (pt : PortOf) (who : Option (Nat × Nat × Nat × Nat)) (cols : List Nat) (s : State) : Upd [.regMcs, .chans] s
    (noteWaits pt who cols s) := by
  unfold noteWaits
  repeat' first
    | intro _
    | with_reducible assumption
    | with_reducible exact Upd.refl _
    | ((with_reducible apply UpdS.snd); with_reducible assumption)
    | (extract_lets -underBinder +onlyGivenNames x; (with_reducible refine Upd.cut x ?_ ?_); rotate_left; (clear_value x; revert x; intro _ _); rotate_right; subst x)
    | (extract_lets -underBinder +onlyGivenNames x; clear_value x; revert x; intro _)
    | with_reducible apply Upd.ite <;> intro _
    | with_reducible apply Upd.foldl
    | with_reducible apply UpdS.foldl
    | ((with_reducible apply UpdS.snd); with_reducible apply UpdS.foldl)
    | ((with_reducible apply Upd.go (count_upd _ _ _ _)); rotate_left; exact rfl)
    | ((with_reducible apply Upd.go (putChan_upd _ _ _)); rotate_left; exact rfl)
    | with_reducible apply UpdS.mk
    | dsimp only

theorem backInvalidate_upd (line : Nat) (s : State) : Upd [.outbox, .biWait] s (backInvalidate line s) := by
  unfold backInvalidate
  repeat' first
    | intro _
    | with_reducible assumption
    | with_reducible exact Upd.refl _
    | (extract_lets -underBinder +onlyGivenNames x; (with_reducible refine Upd.cut x ?_ ?_); rotate_left; (clear_value x; revert x; intro _ _); rotate_right; subst x)
    | (extract_lets -underBinder +onlyGivenNames x; clear_value x; revert x; intro _)
    | with_reducible apply Upd.ite <;> intro _
    | ((with_reducible apply Upd.go (emit_upd _ _)); rotate_left; exact rfl)
    | ((with_reducible apply Upd.set_biWait); rotate_left; exact rfl)

theorem snoopLines_upd (lines : List Nat) (s : State) : Upd [.outbox, .biWait] s (snoopLines lines s) := by
  unfold snoopLines
  repeat' first
    | intro _
    | with_reducible assumption
    | with_reducible exact Upd.refl _
    | ((with_reducible apply UpdS.snd); with_reducible assumption)
    | with_reducible apply Upd.foldl
    | with_reducible apply UpdS.foldl
    | ((with_reducible apply UpdS.snd); with_reducible apply UpdS.foldl)
    | ((with_reducible apply Upd.go (backInvalidate_upd _ _)); rotate_left; exact rfl)
    | with_reducible apply UpdS.mk
    | dsimp only

end Sys2Proof.Machine
end

