-- ==== Sys2Proof/Laws/UpdSpad.lean ====
section
/-!
SUPPORT. What each operation of Machine/Spad can change, and that it keeps the canonical form.
-/

namespace Sys2Proof.Machine

set_option maxRecDepth 4000
set_option linter.all false

theorem spadUe_upd (g : Nat) (w : Nat) (s : State) : Upd [.outbox, .regIrq, .regErr, .regFlt, .spads] s (spadUe g w s) := by
  unfold spadUe
  repeat' first
    | intro _
    | with_reducible assumption
    | with_reducible exact Upd.refl _
    | (extract_lets -underBinder +onlyGivenNames x; (with_reducible refine Upd.cut x ?_ ?_); rotate_left; (clear_value x; revert x; intro _ _); rotate_right; subst x)
    | (extract_lets -underBinder +onlyGivenNames x; clear_value x; revert x; intro _)
    | with_reducible apply Upd.ite <;> intro _
    | ((with_reducible apply Upd.go (counti_upd _ _ _ _ _)); rotate_left; exact rfl)
    | ((with_reducible apply Upd.go (logErr_upd _ _ _ _ _)); rotate_left; exact rfl)
    | ((with_reducible apply Upd.go (putSpad_upd _ _ _)); rotate_left; exact rfl)

theorem readWordSp_upd (g : Nat) (w : Nat) (s : State) : UpdS [.outbox, .freeCtr, .regIrq, .regErr, .regFlt, .spads, .ceWins] s
    (readWordSp g w s) := by
  unfold readWordSp
  repeat' first
    | intro _
    | with_reducible assumption
    | with_reducible exact Upd.refl _
    | ((with_reducible apply UpdS.snd); with_reducible assumption)
    | (extract_lets -underBinder +onlyGivenNames x; (with_reducible refine UpdS.cut x ?_ ?_); rotate_left; (clear_value x; revert x; intro _ _); rotate_right; subst x)
    | (extract_lets -underBinder +onlyGivenNames x; (with_reducible refine Upd.cut x ?_ ?_); rotate_left; (clear_value x; revert x; intro _ _); rotate_right; subst x)
    | (extract_lets -underBinder +onlyGivenNames x; clear_value x; revert x; intro _)
    | ((with_reducible apply Upd.go (counti_upd _ _ _ _ _)); rotate_left; exact rfl)
    | ((with_reducible apply Upd.go (freshNext_upd _)); rotate_left; exact rfl)
    | ((with_reducible apply Upd.go (ceWindow_upd _ _)); rotate_left; exact rfl)
    | ((with_reducible apply Upd.go (spadUe_upd _ _ _)); rotate_left; exact rfl)
    | with_reducible apply UpdS.mk
    | dsimp only
    | split

theorem readBuffered_upd (g : Nat) (w : Nat) (s : State) : UpdS [.outbox, .freeCtr, .regIrq, .regErr, .regFlt, .spads, .ceWins] s
    (readBuffered g w s) := by
  unfold readBuffered
  repeat' first
    | intro _
    | with_reducible assumption
    | with_reducible exact Upd.refl _
    | ((with_reducible apply UpdS.snd); with_reducible assumption)
    | (extract_lets -underBinder +onlyGivenNames x; (with_reducible refine UpdS.cut x ?_ ?_); rotate_left; (clear_value x; revert x; intro _ _); rotate_right; subst x)
    | (extract_lets -underBinder +onlyGivenNames x; (with_reducible refine Upd.cut x ?_ ?_); rotate_left; (clear_value x; revert x; intro _ _); rotate_right; subst x)
    | (extract_lets -underBinder +onlyGivenNames x; (with_reducible refine UpdS.cutSnd x ?_ ?_); rotate_left; (clear_value x; revert x; intro _ _); rotate_right; subst x)
    | (extract_lets -underBinder +onlyGivenNames x; (with_reducible refine Upd.cutSnd x ?_ ?_); rotate_left; (clear_value x; revert x; intro _ _); rotate_right; subst x)
    | (extract_lets -underBinder +onlyGivenNames x; clear_value x; revert x; intro _)
    | with_reducible apply Upd.ite <;> intro _
    | with_reducible apply UpdS.ite <;> intro _
    | with_reducible apply Upd.getD
    | ((with_reducible apply Upd.go (freshNext_upd _)); rotate_left; exact rfl)
    | ((with_reducible apply Upd.goS (readWordSp_upd _ _ _)); rotate_left; exact rfl)
    | ((with_reducible apply UpdS.go (readWordSp_upd _ _ _)); rotate_left; exact rfl)
    | with_reducible apply UpdS.mk
    | dsimp only
    | ((with_reducible apply UpdS.of_eq); with_reducible assumption)
    | split

theorem readWordsSp_upd (g : Nat) (ax : List Nat) (s : State) : UpdS [.outbox, .freeCtr, .regIrq, .regErr, .regFlt, .spads, .ceWins] s
    (readWordsSp g ax s) := by
  induction ax generalizing s with
  | nil =>
    unfold readWordsSp
    exact Upd.refl _
  | cons e es ih =>
  unfold readWordsSp
  repeat' first
    | intro _
    | with_reducible assumption
    | ((with_reducible apply UpdS.go (ih _)); rotate_left; exact rfl)
    | ((with_reducible apply UpdS.snd); with_reducible assumption)
    | ((with_reducible apply Upd.goS (ih _)); rotate_left; exact rfl)
    | with_reducible exact Upd.refl _
    | (extract_lets -underBinder +onlyGivenNames x; (with_reducible refine UpdS.cut x ?_ ?_); rotate_left; (clear_value x; revert x; intro _ _); rotate_right; subst x)
    | (extract_lets -underBinder +onlyGivenNames x; (with_reducible refine Upd.cut x ?_ ?_); rotate_left; (clear_value x; revert x; intro _ _); rotate_right; subst x)
    | (extract_lets -underBinder +onlyGivenNames x; (with_reducible refine UpdS.cutSnd x ?_ ?_); rotate_left; (clear_value x; revert x; intro _ _); rotate_right; subst x)
    | (extract_lets -underBinder +onlyGivenNames x; (with_reducible refine Upd.cutSnd x ?_ ?_); rotate_left; (clear_value x; revert x; intro _ _); rotate_right; subst x)
    | (extract_lets -underBinder +onlyGivenNames x; clear_value x; revert x; intro _)
    | ((with_reducible apply Upd.goS (readBuffered_upd _ _ _)); rotate_left; exact rfl)
    | ((with_reducible apply UpdS.go (readBuffered_upd _ _ _)); rotate_left; exact rfl)
    | with_reducible apply UpdS.mk
    | dsimp only
    | split

theorem takeSlots_upd (f : SlotUse) (g n : Nat) (s : State) : Upd [.regSpd] s (takeSlots f g n s) := by
  cases f <;> exact (count_upd (spdPage g) _ n s).mono rfl

theorem readSp_upd (g : Nat) (off : Nat) (n : Nat) (s : State) : UpdS [.outbox, .freeCtr, .regIrq, .regErr, .regFlt, .spads, .ceWins] s
    (readSp g off n s) := by
  unfold readSp
  repeat' first
    | intro _
    | with_reducible assumption
    | with_reducible exact Upd.refl _
    | ((with_reducible apply UpdS.snd); with_reducible assumption)
    | (extract_lets -underBinder +onlyGivenNames x; (with_reducible refine UpdS.cut x ?_ ?_); rotate_left; (clear_value x; revert x; intro _ _); rotate_right; subst x)
    | (extract_lets -underBinder +onlyGivenNames x; (with_reducible refine Upd.cut x ?_ ?_); rotate_left; (clear_value x; revert x; intro _ _); rotate_right; subst x)
    | (extract_lets -underBinder +onlyGivenNames x; (with_reducible refine UpdS.cutSnd x ?_ ?_); rotate_left; (clear_value x; revert x; intro _ _); rotate_right; subst x)
    | (extract_lets -underBinder +onlyGivenNames x; (with_reducible refine Upd.cutSnd x ?_ ?_); rotate_left; (clear_value x; revert x; intro _ _); rotate_right; subst x)
    | (extract_lets -underBinder +onlyGivenNames x; clear_value x; revert x; intro _)
    | ((with_reducible apply Upd.goS (readWordsSp_upd _ _ _)); rotate_left; exact rfl)
    | ((with_reducible apply UpdS.go (readWordsSp_upd _ _ _)); rotate_left; exact rfl)
    | with_reducible apply UpdS.mk
    | dsimp only

theorem updateBufs_upd (g : Nat) (w : Nat) (mask : Nat) (s : State) : Upd [.spads] s (updateBufs g w mask s) := by
  unfold updateBufs
  repeat' first
    | intro _
    | with_reducible assumption
    | with_reducible exact Upd.refl _
    | (extract_lets -underBinder +onlyGivenNames x; (with_reducible refine Upd.cut x ?_ ?_); rotate_left; (clear_value x; revert x; intro _ _); rotate_right; subst x)
    | (extract_lets -underBinder +onlyGivenNames x; clear_value x; revert x; intro _)
    | with_reducible apply Upd.ite <;> intro _
    | ((with_reducible apply Upd.go (putSpad_upd _ _ _)); rotate_left; exact rfl)

theorem supersede_upd (g : Nat) (w : Nat) (s : State) : Upd [.spads] s (supersede g w s) := by
  unfold supersede
  repeat' first
    | intro _
    | with_reducible assumption
    | with_reducible exact Upd.refl _
    | (extract_lets -underBinder +onlyGivenNames x; (with_reducible refine Upd.cut x ?_ ?_); rotate_left; (clear_value x; revert x; intro _ _); rotate_right; subst x)
    | (extract_lets -underBinder +onlyGivenNames x; clear_value x; revert x; intro _)
    | with_reducible apply Upd.ite <;> intro _
    | ((with_reducible apply Upd.go (putSpad_upd _ _ _)); rotate_left; exact rfl)

theorem writeWordSp_upd (g : Nat) (w : Nat) (part : SMap Byte) (poison : Bool) (s : State) : Upd [.outbox, .regIrq, .regErr, .regFlt,
    .spads, .spad, .spadChk, .ceWins] s (writeWordSp g w part poison s) := by
  unfold writeWordSp
  repeat' first
    | intro _
    | with_reducible assumption
    | with_reducible exact Upd.refl _
    | (extract_lets -underBinder +onlyGivenNames x; (with_reducible refine Upd.cut x ?_ ?_); rotate_left; (clear_value x; revert x; intro _ _); rotate_right; subst x)
    | (extract_lets -underBinder +onlyGivenNames x; clear_value x; revert x; intro _)
    | with_reducible apply Upd.ite <;> intro _
    | with_reducible apply Upd.getD
    | ((with_reducible apply Upd.go (counti_upd _ _ _ _ _)); rotate_left; exact rfl)
    | ((with_reducible apply Upd.go (sealWord_upd _ _ _ _)); rotate_left; exact rfl)
    | ((with_reducible apply Upd.go (poisonWord_upd _ _ _)); rotate_left; exact rfl)
    | ((with_reducible apply Upd.go (ceWindow_upd _ _)); rotate_left; exact rfl)
    | ((with_reducible apply Upd.go (spadUe_upd _ _ _)); rotate_left; exact rfl)
    | ((with_reducible apply Upd.go (supersede_upd _ _ _)); rotate_left; exact rfl)
    | split

theorem writeBanks_upd (g : Nat) (off : Nat) (bytes : List (Byte × Bool)) (s : State) : Upd [.outbox, .regIrq, .regErr, .regFlt, .spads,
    .spad, .spadChk, .ceWins] s (writeBanks g off bytes s) := by
  unfold writeBanks
  repeat' first
    | intro _
    | with_reducible assumption
    | with_reducible exact Upd.refl _
    | ((with_reducible apply UpdS.snd); with_reducible assumption)
    | (extract_lets -underBinder +onlyGivenNames x; (with_reducible refine Upd.cut x ?_ ?_); rotate_left; (clear_value x; revert x; intro _ _); rotate_right; subst x)
    | (extract_lets -underBinder +onlyGivenNames x; clear_value x; revert x; intro _)
    | with_reducible apply Upd.foldl
    | with_reducible apply UpdS.foldl
    | ((with_reducible apply UpdS.snd); with_reducible apply UpdS.foldl)
    | ((with_reducible apply Upd.go (updateBufs_upd _ _ _ _)); rotate_left; exact rfl)
    | ((with_reducible apply Upd.go (writeWordSp_upd _ _ _ _ _)); rotate_left; exact rfl)
    | with_reducible apply UpdS.mk
    | dsimp only

theorem bufBack_upd (g : Nat) (line : Nat) (s : State) : Upd [.outbox, .regIrq, .regErr, .regSpd, .regFlt, .spads, .spad, .spadChk,
    .ceWins] s (bufBack g line s) := by
  unfold bufBack
  repeat' first
    | intro _
    | with_reducible assumption
    | with_reducible exact Upd.refl _
    | ((with_reducible apply UpdS.snd); with_reducible assumption)
    | (extract_lets -underBinder +onlyGivenNames x; (with_reducible refine Upd.cut x ?_ ?_); rotate_left; (clear_value x; revert x; intro _ _); rotate_right; subst x)
    | (extract_lets -underBinder +onlyGivenNames x; clear_value x; revert x; intro _)
    | with_reducible apply Upd.ite <;> intro _
    | with_reducible apply Upd.foldl
    | with_reducible apply UpdS.foldl
    | ((with_reducible apply UpdS.snd); with_reducible apply UpdS.foldl)
    | ((with_reducible apply Upd.go (count_upd _ _ _ _)); rotate_left; exact rfl)
    | ((with_reducible apply Upd.go (putSpad_upd _ _ _)); rotate_left; exact rfl)
    | ((with_reducible apply Upd.go (writeWordSp_upd _ _ _ _ _)); rotate_left; exact rfl)
    | with_reducible apply UpdS.mk
    | dsimp only
    | split

theorem allBufsBack_upd (g : Nat) (s : State) : Upd [.outbox, .regIrq, .regErr, .regSpd, .regFlt, .spads, .spad, .spadChk, .ceWins] s
    (allBufsBack g s) := by
  unfold allBufsBack
  repeat' first
    | intro _
    | with_reducible assumption
    | with_reducible exact Upd.refl _
    | ((with_reducible apply UpdS.snd); with_reducible assumption)
    | with_reducible apply Upd.foldl
    | with_reducible apply UpdS.foldl
    | ((with_reducible apply UpdS.snd); with_reducible apply UpdS.foldl)
    | ((with_reducible apply Upd.go (bufBack_upd _ _ _)); rotate_left; exact rfl)
    | with_reducible apply UpdS.mk
    | dsimp only

theorem touchBuf_upd (g : Nat) (b : NBuf) (s : State) : Upd [.spads] s (touchBuf g b s) := by
  unfold touchBuf
  repeat' first
    | intro _
    | with_reducible assumption
    | with_reducible exact Upd.refl _
    | (extract_lets -underBinder +onlyGivenNames x; (with_reducible refine Upd.cut x ?_ ?_); rotate_left; (clear_value x; revert x; intro _ _); rotate_right; subst x)
    | (extract_lets -underBinder +onlyGivenNames x; clear_value x; revert x; intro _)
    | ((with_reducible apply Upd.go (putSpad_upd _ _ _)); rotate_left; exact rfl)

theorem getBuf_upd (g : Nat) (line : Nat) (s : State) : UpdS [.outbox, .regIrq, .regErr, .regSpd, .regFlt, .spads, .spad, .spadChk,
    .ceWins] s (getBuf g line s) := by
  unfold getBuf
  repeat' first
    | intro _
    | with_reducible assumption
    | with_reducible exact Upd.refl _
    | ((with_reducible apply UpdS.snd); with_reducible assumption)
    | (extract_lets -underBinder +onlyGivenNames x; (with_reducible refine UpdS.cut x ?_ ?_); rotate_left; (clear_value x; revert x; intro _ _); rotate_right; subst x)
    | (extract_lets -underBinder +onlyGivenNames x; (with_reducible refine Upd.cut x ?_ ?_); rotate_left; (clear_value x; revert x; intro _ _); rotate_right; subst x)
    | (extract_lets -underBinder +onlyGivenNames x; clear_value x; revert x; intro _)
    | with_reducible apply Upd.ite <;> intro _
    | with_reducible apply UpdS.ite <;> intro _
    | with_reducible apply Upd.getD
    | ((with_reducible apply Upd.go (putSpad_upd _ _ _)); rotate_left; exact rfl)
    | ((with_reducible apply Upd.go (bufBack_upd _ _ _)); rotate_left; exact rfl)
    | with_reducible apply UpdS.mk
    | dsimp only
    | split

theorem narrowWrite_upd (g : Nat) (w : Nat) (mask : Nat) (data : Nat) (poison : Bool) (s : State) : Upd [.outbox, .regIrq, .regErr,
    .regSpd, .regFlt, .spads, .spad, .spadChk, .ceWins] s (narrowWrite g w mask data poison s) := by
  unfold narrowWrite
  repeat' first
    | intro _
    | with_reducible assumption
    | with_reducible exact Upd.refl _
    | ((with_reducible apply UpdS.snd); with_reducible assumption)
    | (extract_lets -underBinder +onlyGivenNames x; (with_reducible refine Upd.cut x ?_ ?_); rotate_left; (clear_value x; revert x; intro _ _); rotate_right; subst x)
    | (extract_lets -underBinder +onlyGivenNames x; (with_reducible refine Upd.cutSnd x ?_ ?_); rotate_left; (clear_value x; revert x; intro _ _); rotate_right; subst x)
    | (extract_lets -underBinder +onlyGivenNames x; clear_value x; revert x; intro _)
    | with_reducible apply Upd.ite <;> intro _
    | with_reducible apply UpdS.ite <;> intro _
    | with_reducible apply Upd.foldl
    | with_reducible apply UpdS.foldl
    | ((with_reducible apply UpdS.snd); with_reducible apply UpdS.foldl)
    | with_reducible apply Upd.getD
    | ((with_reducible apply Upd.go (count_upd _ _ _ _)); rotate_left; exact rfl)
    | ((with_reducible apply Upd.go (supersede_upd _ _ _)); rotate_left; exact rfl)
    | ((with_reducible apply Upd.go (touchBuf_upd _ _ _)); rotate_left; exact rfl)
    | ((with_reducible apply Upd.goS (getBuf_upd _ _ _)); rotate_left; exact rfl)
    | ((with_reducible apply UpdS.go (getBuf_upd _ _ _)); rotate_left; exact rfl)
    | with_reducible apply UpdS.mk
    | dsimp only
    | split

theorem narrowRead_upd (g : Nat) (w : Nat) (s : State) : UpdS [.outbox, .freeCtr, .regIrq, .regErr, .regSpd, .regFlt, .spads, .spad,
    .spadChk, .ceWins] s (narrowRead g w s) := by
  unfold narrowRead
  repeat' first
    | intro _
    | with_reducible assumption
    | with_reducible exact Upd.refl _
    | ((with_reducible apply UpdS.snd); with_reducible assumption)
    | (extract_lets -underBinder +onlyGivenNames x; (with_reducible refine UpdS.cut x ?_ ?_); rotate_left; (clear_value x; revert x; intro _ _); rotate_right; subst x)
    | (extract_lets -underBinder +onlyGivenNames x; (with_reducible refine Upd.cut x ?_ ?_); rotate_left; (clear_value x; revert x; intro _ _); rotate_right; subst x)
    | (extract_lets -underBinder +onlyGivenNames x; (with_reducible refine UpdS.cutSnd x ?_ ?_); rotate_left; (clear_value x; revert x; intro _ _); rotate_right; subst x)
    | (extract_lets -underBinder +onlyGivenNames x; (with_reducible refine Upd.cutSnd x ?_ ?_); rotate_left; (clear_value x; revert x; intro _ _); rotate_right; subst x)
    | (extract_lets -underBinder +onlyGivenNames x; clear_value x; revert x; intro _)
    | with_reducible apply Upd.ite <;> intro _
    | with_reducible apply UpdS.ite <;> intro _
    | ((with_reducible apply Upd.go (count_upd _ _ _ _)); rotate_left; exact rfl)
    | ((with_reducible apply Upd.goS (readBuffered_upd _ _ _)); rotate_left; exact rfl)
    | ((with_reducible apply UpdS.go (readBuffered_upd _ _ _)); rotate_left; exact rfl)
    | ((with_reducible apply Upd.go (takeSlots_upd _ _ _ _)); rotate_left; exact rfl)
    | ((with_reducible apply Upd.go (touchBuf_upd _ _ _)); rotate_left; exact rfl)
    | ((with_reducible apply Upd.goS (getBuf_upd _ _ _)); rotate_left; exact rfl)
    | ((with_reducible apply UpdS.go (getBuf_upd _ _ _)); rotate_left; exact rfl)
    | with_reducible apply UpdS.mk
    | dsimp only

theorem narrowPut_upd (g : Nat) (w : Nat) (parts : List (Nat × (Byte × Bool))) (s : State) : Upd [.outbox, .regIrq, .regErr, .regSpd,
    .regFlt, .spads, .spad, .spadChk, .ceWins] s (narrowPut g w parts s) := by
  unfold narrowPut
  repeat' first
    | intro _
    | with_reducible assumption
    | with_reducible exact Upd.refl _
    | (extract_lets -underBinder +onlyGivenNames x; (with_reducible refine Upd.cut x ?_ ?_); rotate_left; (clear_value x; revert x; intro _ _); rotate_right; subst x)
    | (extract_lets -underBinder +onlyGivenNames x; clear_value x; revert x; intro _)
    | ((with_reducible apply Upd.go (narrowWrite_upd _ _ _ _ _ _)); rotate_left; exact rfl)

theorem writeNarrow_upd (g : Nat) (off : Nat) (bytes : List (Byte × Bool)) (s : State) : Upd [.outbox, .regIrq, .regErr, .regSpd, .regFlt,
    .spads, .spad, .spadChk, .ceWins] s (writeNarrow g off bytes s) := by
  unfold writeNarrow
  repeat' first
    | intro _
    | with_reducible assumption
    | with_reducible exact Upd.refl _
    | ((with_reducible apply UpdS.snd); with_reducible assumption)
    | with_reducible apply Upd.foldl
    | with_reducible apply UpdS.foldl
    | ((with_reducible apply UpdS.snd); with_reducible apply UpdS.foldl)
    | ((with_reducible apply Upd.go (narrowPut_upd _ _ _ _)); rotate_left; exact rfl)
    | with_reducible apply UpdS.mk
    | dsimp only

theorem writeSp_upd (f : SlotUse) (g : Nat) (off : Nat) (bytes : List (Byte × Bool)) (s : State) : Upd [.outbox, .regIrq, .regErr,
    .regSpd, .regFlt, .spads, .spad, .spadChk, .ceWins] s (writeSp f g off bytes s) := by
  unfold writeSp
  repeat' first
    | intro _
    | with_reducible assumption
    | with_reducible exact Upd.refl _
    | (extract_lets -underBinder +onlyGivenNames x; (with_reducible refine Upd.cut x ?_ ?_); rotate_left; (clear_value x; revert x; intro _ _); rotate_right; subst x)
    | (extract_lets -underBinder +onlyGivenNames x; clear_value x; revert x; intro _)
    | ((with_reducible apply Upd.go (takeSlots_upd _ _ _ _)); rotate_left; exact rfl)
    | ((with_reducible apply Upd.go (writeBanks_upd _ _ _ _)); rotate_left; exact rfl)
    | ((with_reducible apply Upd.go (writeNarrow_upd _ _ _ _)); rotate_left; exact rfl)

theorem readWide_upd (f : SlotUse) (g : Nat) (off : Nat) (n : Nat) (s : State) : UpdS [.outbox, .freeCtr, .regIrq, .regErr, .regSpd,
    .regFlt, .spads, .ceWins] s (readWide f g off n s) := by
  unfold readWide
  repeat' first
    | intro _
    | with_reducible assumption
    | with_reducible exact Upd.refl _
    | ((with_reducible apply UpdS.snd); with_reducible assumption)
    | (extract_lets -underBinder +onlyGivenNames x; (with_reducible refine UpdS.cut x ?_ ?_); rotate_left; (clear_value x; revert x; intro _ _); rotate_right; subst x)
    | (extract_lets -underBinder +onlyGivenNames x; (with_reducible refine Upd.cut x ?_ ?_); rotate_left; (clear_value x; revert x; intro _ _); rotate_right; subst x)
    | (extract_lets -underBinder +onlyGivenNames x; (with_reducible refine UpdS.cutSnd x ?_ ?_); rotate_left; (clear_value x; revert x; intro _ _); rotate_right; subst x)
    | (extract_lets -underBinder +onlyGivenNames x; (with_reducible refine Upd.cutSnd x ?_ ?_); rotate_left; (clear_value x; revert x; intro _ _); rotate_right; subst x)
    | (extract_lets -underBinder +onlyGivenNames x; clear_value x; revert x; intro _)
    | with_reducible apply Upd.ite <;> intro _
    | with_reducible apply UpdS.ite <;> intro _
    | ((with_reducible apply Upd.go (takeSlots_upd _ _ _ _)); rotate_left; exact rfl)
    | ((with_reducible apply Upd.goS (readSp_upd _ _ _ _)); rotate_left; exact rfl)
    | ((with_reducible apply UpdS.go (readSp_upd _ _ _ _)); rotate_left; exact rfl)
    | with_reducible apply UpdS.mk
    | dsimp only

theorem readNarrow_upd (g : Nat) (off : Nat) (n : Nat) (s : State) : UpdS [.outbox, .freeCtr, .regIrq, .regErr, .regSpd, .regFlt, .spads,
    .spad, .spadChk, .ceWins] s (readNarrow g off n s) := by
  unfold readNarrow
  repeat' first
    | intro _
    | with_reducible assumption
    | with_reducible exact Upd.refl _
    | ((with_reducible apply UpdS.snd); with_reducible assumption)
    | (extract_lets -underBinder +onlyGivenNames x; (with_reducible refine UpdS.cut x ?_ ?_); rotate_left; (clear_value x; revert x; intro _ _); rotate_right; subst x)
    | (extract_lets -underBinder +onlyGivenNames x; (with_reducible refine Upd.cut x ?_ ?_); rotate_left; (clear_value x; revert x; intro _ _); rotate_right; subst x)
    | (extract_lets -underBinder +onlyGivenNames x; (with_reducible refine UpdS.cutSnd x ?_ ?_); rotate_left; (clear_value x; revert x; intro _ _); rotate_right; subst x)
    | (extract_lets -underBinder +onlyGivenNames x; (with_reducible refine Upd.cutSnd x ?_ ?_); rotate_left; (clear_value x; revert x; intro _ _); rotate_right; subst x)
    | (extract_lets -underBinder +onlyGivenNames x; clear_value x; revert x; intro _)
    | with_reducible apply Upd.foldl
    | with_reducible apply UpdS.foldl
    | ((with_reducible apply UpdS.snd); with_reducible apply UpdS.foldl)
    | ((with_reducible apply Upd.goS (narrowRead_upd _ _ _)); rotate_left; exact rfl)
    | ((with_reducible apply UpdS.go (narrowRead_upd _ _ _)); rotate_left; exact rfl)
    | with_reducible apply UpdS.mk
    | dsimp only

theorem notePeak_upd (g : Nat) (s : State) : Upd [.regSpd] s (notePeak g s) := by
  unfold notePeak
  repeat' first
    | intro _
    | with_reducible assumption
    | with_reducible exact Upd.refl _
    | (extract_lets -underBinder +onlyGivenNames x; (with_reducible refine Upd.cut x ?_ ?_); rotate_left; (clear_value x; revert x; intro _ _); rotate_right; subst x)
    | (extract_lets -underBinder +onlyGivenNames x; clear_value x; revert x; intro _)
    | with_reducible apply Upd.ite <;> intro _
    | ((with_reducible apply Upd.go (wr_upd _ _ _ _)); rotate_left; exact rfl)

theorem sbRegister_upd (g : Nat) (spans : List SbSpan) (q : Nat) (ctx : Nat) (wb : Nat) (s : State) : Upd [.regSpd, .spads] s (sbRegister
    g spans q ctx wb s) := by
  unfold sbRegister
  repeat' first
    | intro _
    | with_reducible assumption
    | with_reducible exact Upd.refl _
    | ((with_reducible apply UpdS.snd); with_reducible assumption)
    | (extract_lets -underBinder +onlyGivenNames x; (with_reducible refine Upd.cut x ?_ ?_); rotate_left; (clear_value x; revert x; intro _ _); rotate_right; subst x)
    | (extract_lets -underBinder +onlyGivenNames x; clear_value x; revert x; intro _)
    | with_reducible apply Upd.ite <;> intro _
    | with_reducible apply Upd.foldl
    | with_reducible apply UpdS.foldl
    | ((with_reducible apply UpdS.snd); with_reducible apply UpdS.foldl)
    | ((with_reducible apply Upd.go (putSpad_upd _ _ _)); rotate_left; exact rfl)
    | ((with_reducible apply Upd.go (notePeak_upd _ _)); rotate_left; exact rfl)
    | with_reducible apply UpdS.mk
    | dsimp only

theorem spanBack_upd (g : Nat) (e : SbEntry) (s : State) : Upd [.outbox, .regIrq, .regErr, .regSpd, .regFlt, .spads, .spad, .spadChk,
    .ceWins] s (spanBack g e s) := by
  unfold spanBack
  repeat' first
    | intro _
    | with_reducible assumption
    | with_reducible exact Upd.refl _
    | ((with_reducible apply UpdS.snd); with_reducible assumption)
    | (extract_lets -underBinder +onlyGivenNames x; (with_reducible refine Upd.cut x ?_ ?_); rotate_left; (clear_value x; revert x; intro _ _); rotate_right; subst x)
    | (extract_lets -underBinder +onlyGivenNames x; clear_value x; revert x; intro _)
    | with_reducible apply Upd.foldl
    | with_reducible apply UpdS.foldl
    | ((with_reducible apply UpdS.snd); with_reducible apply UpdS.foldl)
    | ((with_reducible apply Upd.go (bufBack_upd _ _ _)); rotate_left; exact rfl)
    | with_reducible apply UpdS.mk
    | dsimp only

theorem sbRelease_upd (g : Nat) (q : Nat) (ctx : Nat) (wb : Nat) (p : SbEntry → Bool) (s : State) : Upd [.outbox, .regIrq, .regErr,
    .regSpd, .regFlt, .spads, .spad, .spadChk, .ceWins] s (sbRelease g q ctx wb p s) := by
  unfold sbRelease
  repeat' first
    | intro _
    | with_reducible assumption
    | with_reducible exact Upd.refl _
    | ((with_reducible apply UpdS.snd); with_reducible assumption)
    | (extract_lets -underBinder +onlyGivenNames x; (with_reducible refine Upd.cut x ?_ ?_); rotate_left; (clear_value x; revert x; intro _ _); rotate_right; subst x)
    | (extract_lets -underBinder +onlyGivenNames x; (with_reducible refine isFn x ?_); subst x)
    | (extract_lets -underBinder +onlyGivenNames x; clear_value x; revert x; intro _)
    | with_reducible apply Upd.foldl
    | with_reducible apply UpdS.foldl
    | ((with_reducible apply UpdS.snd); with_reducible apply UpdS.foldl)
    | ((with_reducible apply Upd.go (putSpad_upd _ _ _)); rotate_left; exact rfl)
    | ((with_reducible apply Upd.go (spanBack_upd _ _ _)); rotate_left; exact rfl)
    | with_reducible apply UpdS.mk
    | dsimp only

theorem sbFree_upd (g : Nat) (e : SbEntry) (s : State) : Upd [.outbox, .regIrq, .regErr, .regSpd, .regFlt, .spads, .spad, .spadChk,
    .ceWins] s (sbFree g e s) := by
  unfold sbFree
  repeat' first
    | intro _
    | with_reducible assumption
    | with_reducible exact Upd.refl _
    | (extract_lets -underBinder +onlyGivenNames x; (with_reducible refine Upd.cut x ?_ ?_); rotate_left; (clear_value x; revert x; intro _ _); rotate_right; subst x)
    | (extract_lets -underBinder +onlyGivenNames x; clear_value x; revert x; intro _)
    | with_reducible apply Upd.ite <;> intro _
    | ((with_reducible apply Upd.go (putSpad_upd _ _ _)); rotate_left; exact rfl)
    | ((with_reducible apply Upd.go (spanBack_upd _ _ _)); rotate_left; exact rfl)

theorem dropClaims_upd (g : Nat) (ctx : Nat) (s : State) : Upd [.spads] s (dropClaims g ctx s) := by
  unfold dropClaims
  repeat' first
    | intro _
    | with_reducible assumption
    | with_reducible exact Upd.refl _
    | (extract_lets -underBinder +onlyGivenNames x; (with_reducible refine Upd.cut x ?_ ?_); rotate_left; (clear_value x; revert x; intro _ _); rotate_right; subst x)
    | (extract_lets -underBinder +onlyGivenNames x; clear_value x; revert x; intro _)
    | ((with_reducible apply Upd.go (putSpad_upd _ _ _)); rotate_left; exact rfl)

end Sys2Proof.Machine
end

