-- ==== Sys2Proof/Laws/UpdEpoch.lean ====
section
/-!
SUPPORT. What each operation of Machine/Epoch can change, and that it keeps the canonical form.
-/

namespace Sys2Proof.Machine

set_option maxRecDepth 4000
set_option linter.all false

theorem floorCheck_upd (s : State) : Upd [.outbox, .regIrq, .floorAbove] s (floorCheck s) := by
  unfold floorCheck
  repeat' first
    | intro _
    | with_reducible assumption
    | with_reducible exact Upd.refl _
    | (extract_lets -underBinder +onlyGivenNames x; (with_reducible refine Upd.cut x ?_ ?_); rotate_left; (clear_value x; revert x; intro _ _); rotate_right; subst x)
    | (extract_lets -underBinder +onlyGivenNames x; clear_value x; revert x; intro _)
    | with_reducible apply Upd.ite <;> intro _
    | ((with_reducible apply Upd.go (raise_upd _ _ _)); rotate_left; exact rfl)
    | ((with_reducible apply Upd.set_floorAbove); rotate_left; exact rfl)

theorem qosEdge_upd (p : Nat) (was : Bool) (s : State) : Upd [.outbox, .regIrq] s (qosEdge p was s) := by
  unfold qosEdge
  repeat' first
    | intro _
    | with_reducible assumption
    | with_reducible exact Upd.refl _
    | with_reducible apply Upd.ite <;> intro _
    | ((with_reducible apply Upd.go (raise_upd _ _ _)); rotate_left; exact rfl)

/-- What `swapSet` may change. -/
def swapSet_parts : List Part :=
  [.regCtl, .regIrq, .regLock, .regSet, .regErr, .regMs, .regEpo, .regLdg, .regSerai, .regEng, .regSpd, .regTmv, .regBkc, .regBku, .regMcs,
   .regDrv, .regBlk, .regRcv, .regFlt, .regEvl, .regOpt, .regBay, .regSes, .regRng, .regHif, .regSec, .regPwr, .regThm, .regClk, .regMgt]

theorem swapSet_upd (vals : List SetVal) (s : State) : UpdS swapSet_parts s (swapSet vals s) := by
  unfold swapSet
  repeat' first
    | intro _
    | with_reducible assumption
    | with_reducible exact Upd.refl _
    | ((with_reducible apply UpdS.snd); with_reducible assumption)
    | (extract_lets -underBinder +onlyGivenNames x; (with_reducible refine UpdS.cut x ?_ ?_); rotate_left; (clear_value x; revert x; intro _ _); rotate_right; subst x)
    | (extract_lets -underBinder +onlyGivenNames x; (with_reducible refine Upd.cut x ?_ ?_); rotate_left; (clear_value x; revert x; intro _ _); rotate_right; subst x)
    | (extract_lets -underBinder +onlyGivenNames x; clear_value x; revert x; intro _)
    | with_reducible apply Upd.foldl
    | with_reducible apply UpdS.foldl
    | ((with_reducible apply UpdS.snd); with_reducible apply UpdS.foldl)
    | ((with_reducible apply Upd.go (wri_upd _ _ _ _ _)); rotate_left; first | exact rfl | exact within_trans (within_part _) rfl)
    | with_reducible apply UpdS.mk
    | dsimp only

theorem Upd.set_staging_prevSet {m : List Part} {a b : State} {vstaging vprevSet} (h : Upd m a b)
    (hm : within [.staging, .prevSet] m = true) :
    Upd m a { b with staging := vstaging, prevSet := vprevSet } :=
  h.put (fun p hp => by
    have : [.staging, .prevSet].contains p = false := by
      cases hc : [.staging, .prevSet].contains p with
      | false => rfl
      | true => exact absurd ((within_mem hm (List.contains_iff_mem.1 hc)).symm.trans hp) (by decide)
    cases p <;> first | rfl | exact fun _ _ _ _ => rfl | exact absurd this (by decide)) rfl rfl fun k => { k with  }

/-- What `flipSet` may change. -/
def flipSet_parts : List Part :=
  [.outbox, .regCtl, .regIrq, .regLock, .regSet, .regErr, .regMs, .regEpo, .regLdg, .regSerai, .regEng, .regSpd, .regTmv, .regBkc, .regBku,
   .regMcs, .regDrv, .regBlk, .regRcv, .regFlt, .regEvl, .regOpt, .regBay, .regSes, .regRng, .regHif, .regSec, .regPwr, .regThm, .regClk,
   .regMgt, .staging, .prevSet]

theorem flipSet_upd (p : Nat) (prevValid : Nat) (vals : List SetVal) (s : State) : Upd flipSet_parts s (flipSet p prevValid vals s) := by
  unfold flipSet
  repeat' first
    | intro _
    | with_reducible assumption
    | with_reducible exact Upd.refl _
    | ((with_reducible apply UpdS.snd); with_reducible assumption)
    | (extract_lets -underBinder +onlyGivenNames x; (with_reducible refine Upd.cut x ?_ ?_); rotate_left; (clear_value x; revert x; intro _ _); rotate_right; subst x)
    | (extract_lets -underBinder +onlyGivenNames x; (with_reducible refine Upd.cutSnd x ?_ ?_); rotate_left; (clear_value x; revert x; intro _ _); rotate_right; subst x)
    | (extract_lets -underBinder +onlyGivenNames x; clear_value x; revert x; intro _)
    | with_reducible apply Upd.ite <;> intro _
    | with_reducible apply UpdS.ite <;> intro _
    | ((with_reducible apply Upd.go (wr_upd _ _ _ _)); rotate_left; exact rfl)
    | ((with_reducible apply Upd.go (raise_upd _ _ _)); rotate_left; exact rfl)
    | ((with_reducible apply Upd.go (qosEdge_upd _ _ _)); rotate_left; exact rfl)
    | ((with_reducible apply Upd.goS (swapSet_upd _ _)); rotate_left; exact rfl)
    | ((with_reducible apply UpdS.go (swapSet_upd _ _)); rotate_left; exact rfl)
    | with_reducible apply UpdS.mk
    | ((with_reducible apply UpdS.of_eq); with_reducible assumption)
    | (generalize unitAt _ = u; split)
    | split
    | ((with_reducible apply Upd.set_staging_prevSet); rotate_left; exact rfl)

/-- What `cfgActivate` may change. -/
def cfgActivate_parts : List Part :=
  [.outbox, .regCtl, .regIrq, .regLock, .regSet, .regErr, .regMs, .regEpo, .regLdg, .regSerai, .regEng, .regSpd, .regTmv, .regBkc, .regBku,
   .regMcs, .regDrv, .regBlk, .regRcv, .regFlt, .regEvl, .regOpt, .regBay, .regSes, .regRng, .regHif, .regSec, .regPwr, .regThm, .regClk,
   .regMgt, .staging, .prevSet, .ldgSeq, .ldgLost, .dram, .dramChk, .chans, .units, .snoop, .biWait, .servedBytes]

theorem cfgActivate_upd (p : Nat) (slot : Nat) (s : State) : Upd cfgActivate_parts s (cfgActivate p slot s) := by
  unfold cfgActivate
  repeat' first
    | intro _
    | with_reducible assumption
    | with_reducible exact Upd.refl _
    | with_reducible apply Upd.ite <;> intro _
    | ((with_reducible apply Upd.go (ledger_upd _ _ _ _)); rotate_left; exact rfl)
    | ((with_reducible apply Upd.go (flipSet_upd _ _ _ _)); rotate_left; exact rfl)

theorem discardStaged_upd (p : Nat) (s : State) : Upd [.regSet, .staging] s (discardStaged p s) := by
  unfold discardStaged
  repeat' first
    | intro _
    | with_reducible assumption
    | with_reducible exact Upd.refl _
    | (extract_lets -underBinder +onlyGivenNames x; (with_reducible refine Upd.cut x ?_ ?_); rotate_left; (clear_value x; revert x; intro _ _); rotate_right; subst x)
    | (extract_lets -underBinder +onlyGivenNames x; clear_value x; revert x; intro _)
    | ((with_reducible apply Upd.go (wr_upd _ _ _ _)); rotate_left; exact rfl)
    | ((with_reducible apply Upd.set_staging); rotate_left; exact rfl)

theorem stageField_upd (p : Nat) (f : Fld) (i : Nat) (v : Nat) (s : State) : Upd [.regSet, .staging] s (stageField p f i v s) := by
  unfold stageField
  repeat' first
    | intro _
    | with_reducible assumption
    | with_reducible exact Upd.refl _
    | (extract_lets -underBinder +onlyGivenNames x; (with_reducible refine Upd.cut x ?_ ?_); rotate_left; (clear_value x; revert x; intro _ _); rotate_right; subst x)
    | (extract_lets -underBinder +onlyGivenNames x; clear_value x; revert x; intro _)
    | ((with_reducible apply Upd.go (wr_upd _ _ _ _)); rotate_left; exact rfl)
    | ((with_reducible apply Upd.set_staging); rotate_left; exact rfl)

theorem putDrover_upd (n : Nat) (d : Drover) (s : State) : Upd [.drovers] s (putDrover n d s) := by
  unfold putDrover
  repeat' first
    | intro _
    | with_reducible assumption
    | with_reducible exact Upd.refl _
    | (extract_lets -underBinder +onlyGivenNames x; (with_reducible refine Upd.cut x ?_ ?_); rotate_left; (clear_value x; revert x; intro _ _); rotate_right; subst x)
    | (extract_lets -underBinder +onlyGivenNames x; clear_value x; revert x; intro _)
    | with_reducible apply SMap.wf_set
    | with_reducible apply SMap.wf_mapv
    | with_reducible apply SMap.wf_filter
    | with_reducible exact SMap.wf_nil
    | (first | with_reducible exact State.Ok.drovers (by assumption))
    | ((with_reducible apply Upd.set_drovers); rotate_left; exact rfl)

theorem droverEvict_upd (n : Nat) (k : Nat) (s : State) : Upd [.regDrv, .drovers] s (droverEvict n k s) := by
  unfold droverEvict
  repeat' first
    | intro _
    | with_reducible assumption
    | with_reducible exact Upd.refl _
    | ((with_reducible apply UpdS.snd); with_reducible assumption)
    | (extract_lets -underBinder +onlyGivenNames x; (with_reducible refine Upd.cut x ?_ ?_); rotate_left; (clear_value x; revert x; intro _ _); rotate_right; subst x)
    | (extract_lets -underBinder +onlyGivenNames x; clear_value x; revert x; intro _)
    | with_reducible apply Upd.foldl
    | with_reducible apply UpdS.foldl
    | ((with_reducible apply UpdS.snd); with_reducible apply UpdS.foldl)
    | with_reducible apply Upd.getD
    | ((with_reducible apply Upd.go (counti_upd _ _ _ _ _)); rotate_left; exact rfl)
    | ((with_reducible apply Upd.go (putDrover_upd _ _ _)); rotate_left; exact rfl)
    | with_reducible apply UpdS.mk
    | dsimp only

theorem msFired_upd (p : Nat) (i : Nat) (s : State) : Upd [.outbox, .regIrq, .regMs] s (msFired p i s) := by
  unfold msFired
  repeat' first
    | intro _
    | with_reducible assumption
    | with_reducible exact Upd.refl _
    | ((with_reducible apply Upd.go (wri_upd _ _ _ _ _)); rotate_left; exact rfl)
    | ((with_reducible apply Upd.go (raise_upd _ _ _)); rotate_left; exact rfl)

theorem msRefused_upd (p : Nat) (i : Nat) (s : State) : Upd [.outbox, .regIrq, .regMs] s (msRefused p i s) := by
  unfold msRefused
  repeat' first
    | intro _
    | with_reducible assumption
    | with_reducible exact Upd.refl _
    | ((with_reducible apply Upd.go (wri_upd _ _ _ _ _)); rotate_left; exact rfl)
    | ((with_reducible apply Upd.go (raise_upd _ _ _)); rotate_left; exact rfl)

theorem versionRetire_upd (p : Nat) (i : Nat) (k : Nat) (s : State) : Upd [.outbox, .regIrq, .regErr, .regMs, .regLdg, .regMcs, .regFlt,
    .vslots, .ldgSeq, .ldgLost, .dram, .dramChk, .chans, .units, .snoop, .biWait, .servedBytes] s (versionRetire p i k s) := by
  unfold versionRetire
  repeat' first
    | intro _
    | with_reducible assumption
    | with_reducible exact Upd.refl _
    | (extract_lets -underBinder +onlyGivenNames x; (with_reducible refine Upd.cut x ?_ ?_); rotate_left; (clear_value x; revert x; intro _ _); rotate_right; subst x)
    | (extract_lets -underBinder +onlyGivenNames x; clear_value x; revert x; intro _)
    | with_reducible apply Upd.ite <;> intro _
    | ((with_reducible apply Upd.go (raise_upd _ _ _)); rotate_left; exact rfl)
    | ((with_reducible apply Upd.go (putVslot_upd _ _ _)); rotate_left; exact rfl)
    | ((with_reducible apply Upd.go (ledger_upd _ _ _ _)); rotate_left; exact rfl)
    | ((with_reducible apply Upd.go (msFired_upd _ _ _)); rotate_left; exact rfl)
    | ((with_reducible apply Upd.go (msRefused_upd _ _ _)); rotate_left; exact rfl)
    | split

/-- What `milestoneEval` may change. -/
def milestoneEval_parts : List Part :=
  [.outbox, .regCtl, .regIrq, .regLock, .regSet, .regErr, .regMs, .regEpo, .regLdg, .regSerai, .regEng, .regSpd, .regTmv, .regBkc, .regBku,
   .regMcs, .regDrv, .regBlk, .regRcv, .regFlt, .regEvl, .regOpt, .regBay, .regSes, .regRng, .regHif, .regSec, .regPwr, .regThm, .regClk,
   .regMgt, .staging, .prevSet, .vslots, .ldgSeq, .ldgLost, .dram, .dramChk, .chans, .units, .snoop, .biWait, .drovers, .servedBytes,
   .fwSlots]

theorem milestoneEval_upd (p : Nat) (i : Nat) (s : State) : Upd milestoneEval_parts s (milestoneEval p i s) := by
  unfold milestoneEval
  repeat' first
    | intro _
    | with_reducible assumption
    | with_reducible exact Upd.refl _
    | (extract_lets -underBinder +onlyGivenNames x; (with_reducible refine Upd.cut x ?_ ?_); rotate_left; (clear_value x; revert x; intro _ _); rotate_right; subst x)
    | (extract_lets -underBinder +onlyGivenNames x; clear_value x; revert x; intro _)
    | with_reducible apply Upd.ite <;> intro _
    | ((with_reducible apply Upd.go (wri_upd _ _ _ _ _)); rotate_left; exact rfl)
    | ((with_reducible apply Upd.go (ledger_upd _ _ _ _)); rotate_left; exact rfl)
    | ((with_reducible apply Upd.go (cfgActivate_upd _ _ _)); rotate_left; exact rfl)
    | ((with_reducible apply Upd.go (discardStaged_upd _ _)); rotate_left; exact rfl)
    | ((with_reducible apply Upd.go (droverEvict_upd _ _ _)); rotate_left; exact rfl)
    | ((with_reducible apply Upd.go (msFired_upd _ _ _)); rotate_left; exact rfl)
    | ((with_reducible apply Upd.go (versionRetire_upd _ _ _ _)); rotate_left; exact rfl)
    | (generalize unitAt _ = u; split)
    | split
    | ((with_reducible apply Upd.set_fwSlots); rotate_left; exact rfl)

/-- What `epochSettle` may change. -/
def epochSettle_parts : List Part :=
  [.outbox, .regCtl, .regIrq, .regLock, .regSet, .regErr, .regMs, .regEpo, .regLdg, .regSerai, .regEng, .regSpd, .regTmv, .regBkc, .regBku,
   .regMcs, .regDrv, .regBlk, .regRcv, .regFlt, .regEvl, .regOpt, .regBay, .regSes, .regRng, .regHif, .regSec, .regPwr, .regThm, .regClk,
   .regMgt, .staging, .prevSet, .vslots, .floorAbove, .ldgSeq, .ldgLost, .dram, .dramChk, .chans, .units, .snoop, .biWait, .drovers,
   .servedBytes, .fwSlots]

theorem epochSettle_upd (s : State) : Upd epochSettle_parts s (epochSettle s) := by
  unfold epochSettle
  have hp : ∀ t, Upd epochSettle_parts s t → Upd epochSettle_parts s ((armedSlots t).foldl (fun t e => floorCheck (milestoneEval e.1 e.2 t)) t) := by
    intro t ht
    exact Upd.foldl ht fun t e ht => Upd.go (floorCheck_upd _) (Upd.go (milestoneEval_upd _ _ _) ht rfl) rfl
  exact Upd.go (floorCheck_upd _) (hp _ (hp _ (Upd.refl s))) rfl

theorem milestoneArm_upd (p : Nat) (i : Nat) (u : UnitId) (s : State) : Upd epochSettle_parts s (milestoneArm p i u s) := by
  unfold milestoneArm
  repeat' first
    | intro _
    | with_reducible assumption
    | with_reducible exact Upd.refl _
    | with_reducible apply Upd.ite <;> intro _
    | ((with_reducible apply Upd.go (wri_upd _ _ _ _ _)); rotate_left; exact rfl)
    | ((with_reducible apply Upd.go (msRefused_upd _ _ _)); rotate_left; exact rfl)
    | ((with_reducible apply Upd.go (epochSettle_upd _)); rotate_left; exact rfl)

theorem milestoneDisarm_upd (p : Nat) (i : Nat) (s : State) : Upd [.outbox, .regIrq, .regMs, .floorAbove, .fwSlots] s (milestoneDisarm p i
    s) := by
  unfold milestoneDisarm
  repeat' first
    | intro _
    | with_reducible assumption
    | with_reducible exact Upd.refl _
    | (extract_lets -underBinder +onlyGivenNames x; (with_reducible refine Upd.cut x ?_ ?_); rotate_left; (clear_value x; revert x; intro _ _); rotate_right; subst x)
    | (extract_lets -underBinder +onlyGivenNames x; clear_value x; revert x; intro _)
    | with_reducible apply Upd.ite <;> intro _
    | ((with_reducible apply Upd.go (wri_upd _ _ _ _ _)); rotate_left; exact rfl)
    | ((with_reducible apply Upd.go (floorCheck_upd _)); rotate_left; exact rfl)
    | ((with_reducible apply Upd.set_fwSlots); rotate_left; exact rfl)

theorem advanceRefused_upd (s : State) : Upd [.outbox, .regIrq, .regEpo] s (advanceRefused s) := by
  unfold advanceRefused
  repeat' first
    | intro _
    | with_reducible assumption
    | with_reducible exact Upd.refl _
    | ((with_reducible apply Upd.go (count_upd _ _ _ _)); rotate_left; exact rfl)
    | ((with_reducible apply Upd.go (raise_upd _ _ _)); rotate_left; exact rfl)

theorem advanceAccept_upd (n : Nat) (s : State) : Upd epochSettle_parts s (advanceAccept n s) := by
  unfold advanceAccept
  repeat' first
    | intro _
    | with_reducible assumption
    | with_reducible exact Upd.refl _
    | (extract_lets -underBinder +onlyGivenNames x; (with_reducible refine Upd.cut x ?_ ?_); rotate_left; (clear_value x; revert x; intro _ _); rotate_right; subst x)
    | (extract_lets -underBinder +onlyGivenNames x; clear_value x; revert x; intro _)
    | with_reducible apply Upd.ite <;> intro _
    | ((with_reducible apply Upd.go (wr_upd _ _ _ _)); rotate_left; exact rfl)
    | ((with_reducible apply Upd.go (floorCheck_upd _)); rotate_left; exact rfl)
    | ((with_reducible apply Upd.go (epochSettle_upd _)); rotate_left; exact rfl)

theorem advance_upd (n : Nat) (refusedSource : Bool) (s : State) : Upd epochSettle_parts s (advance n refusedSource s) := by
  unfold advance
  repeat' first
    | intro _
    | with_reducible assumption
    | with_reducible exact Upd.refl _
    | (extract_lets -underBinder +onlyGivenNames x; (with_reducible refine Upd.cut x ?_ ?_); rotate_left; (clear_value x; revert x; intro _ _); rotate_right; subst x)
    | (extract_lets -underBinder +onlyGivenNames x; clear_value x; revert x; intro _)
    | with_reducible apply Upd.ite <;> intro _
    | ((with_reducible apply Upd.go (wr_upd _ _ _ _)); rotate_left; exact rfl)
    | ((with_reducible apply Upd.go (advanceRefused_upd _)); rotate_left; exact rfl)
    | ((with_reducible apply Upd.go (advanceAccept_upd _ _)); rotate_left; exact rfl)

theorem closeVersion_upd (k : Nat) (fin : Nat) (s : State) : Upd [.vslots, .drovers] s (closeVersion k fin s) := by
  unfold closeVersion
  repeat' first
    | intro _
    | with_reducible assumption
    | with_reducible exact Upd.refl _
    | (extract_lets -underBinder +onlyGivenNames x; (with_reducible refine Upd.cut x ?_ ?_); rotate_left; (clear_value x; revert x; intro _ _); rotate_right; subst x)
    | (extract_lets -underBinder +onlyGivenNames x; (with_reducible refine isFn x ?_); subst x)
    | (extract_lets -underBinder +onlyGivenNames x; clear_value x; revert x; intro _)
    | with_reducible apply Upd.ite <;> intro _
    | ((with_reducible apply Upd.go (putVslot_upd _ _ _)); rotate_left; exact rfl)
    | with_reducible apply SMap.wf_set
    | with_reducible apply SMap.wf_mapv
    | with_reducible apply SMap.wf_filter
    | with_reducible exact SMap.wf_nil
    | (first | with_reducible exact State.Ok.drovers (by assumption))
    | ((with_reducible apply Upd.set_drovers); rotate_left; exact rfl)

theorem vcInstall_upd (region : Nat) (slot : Nat) (s : State) : UpdS [.vslots, .drovers] s (vcInstall region slot s) := by
  unfold vcInstall
  repeat' first
    | intro _
    | with_reducible assumption
    | with_reducible exact Upd.refl _
    | ((with_reducible apply UpdS.snd); with_reducible assumption)
    | (extract_lets -underBinder +onlyGivenNames x; (with_reducible refine UpdS.cut x ?_ ?_); rotate_left; (clear_value x; revert x; intro _ _); rotate_right; subst x)
    | (extract_lets -underBinder +onlyGivenNames x; (with_reducible refine Upd.cut x ?_ ?_); rotate_left; (clear_value x; revert x; intro _ _); rotate_right; subst x)
    | (extract_lets -underBinder +onlyGivenNames x; clear_value x; revert x; intro _)
    | with_reducible apply Upd.ite <;> intro _
    | with_reducible apply UpdS.ite <;> intro _
    | with_reducible apply Upd.foldl
    | with_reducible apply UpdS.foldl
    | ((with_reducible apply UpdS.snd); with_reducible apply UpdS.foldl)
    | ((with_reducible apply Upd.go (putVslot_upd _ _ _)); rotate_left; exact rfl)
    | ((with_reducible apply Upd.go (closeVersion_upd _ _ _)); rotate_left; exact rfl)
    | with_reducible apply UpdS.mk
    | dsimp only

theorem vcClose_upd (region : Nat) (slot : Nat) (s : State) : UpdS [.vslots, .drovers] s (vcClose region slot s) := by
  unfold vcClose
  repeat' first
    | intro _
    | with_reducible assumption
    | with_reducible exact Upd.refl _
    | ((with_reducible apply UpdS.snd); with_reducible assumption)
    | (extract_lets -underBinder +onlyGivenNames x; (with_reducible refine UpdS.cut x ?_ ?_); rotate_left; (clear_value x; revert x; intro _ _); rotate_right; subst x)
    | (extract_lets -underBinder +onlyGivenNames x; (with_reducible refine Upd.cut x ?_ ?_); rotate_left; (clear_value x; revert x; intro _ _); rotate_right; subst x)
    | (extract_lets -underBinder +onlyGivenNames x; clear_value x; revert x; intro _)
    | with_reducible apply Upd.ite <;> intro _
    | with_reducible apply UpdS.ite <;> intro _
    | ((with_reducible apply Upd.go (closeVersion_upd _ _ _)); rotate_left; exact rfl)
    | with_reducible apply UpdS.mk
    | dsimp only

theorem vcQuery_upd (region : Nat) (slot : Nat) (s : State) : UpdS [.regEpo] s (vcQuery region slot s) := by
  unfold vcQuery
  repeat' first
    | intro _
    | with_reducible assumption
    | with_reducible exact Upd.refl _
    | ((with_reducible apply UpdS.snd); with_reducible assumption)
    | (extract_lets -underBinder +onlyGivenNames x; (with_reducible refine UpdS.cut x ?_ ?_); rotate_left; (clear_value x; revert x; intro _ _); rotate_right; subst x)
    | (extract_lets -underBinder +onlyGivenNames x; (with_reducible refine Upd.cut x ?_ ?_); rotate_left; (clear_value x; revert x; intro _ _); rotate_right; subst x)
    | (extract_lets -underBinder +onlyGivenNames x; clear_value x; revert x; intro _)
    | with_reducible apply Upd.ite <;> intro _
    | with_reducible apply UpdS.ite <;> intro _
    | ((with_reducible apply Upd.go (wr_upd _ _ _ _)); rotate_left; exact rfl)
    | with_reducible apply UpdS.mk
    | dsimp only
    | split

theorem vcFree_upd (region : Nat) (slot : Nat) (s : State) : UpdS [.vslots] s (vcFree region slot s) := by
  unfold vcFree
  repeat' first
    | intro _
    | with_reducible assumption
    | with_reducible exact Upd.refl _
    | ((with_reducible apply UpdS.snd); with_reducible assumption)
    | (extract_lets -underBinder +onlyGivenNames x; (with_reducible refine UpdS.cut x ?_ ?_); rotate_left; (clear_value x; revert x; intro _ _); rotate_right; subst x)
    | (extract_lets -underBinder +onlyGivenNames x; (with_reducible refine Upd.cut x ?_ ?_); rotate_left; (clear_value x; revert x; intro _ _); rotate_right; subst x)
    | (extract_lets -underBinder +onlyGivenNames x; clear_value x; revert x; intro _)
    | with_reducible apply Upd.ite <;> intro _
    | with_reducible apply UpdS.ite <;> intro _
    | ((with_reducible apply Upd.go (putVslot_upd _ _ _)); rotate_left; exact rfl)
    | with_reducible apply UpdS.mk
    | dsimp only

theorem vcmd_upd (op : Nat) (region : Nat) (slot : Nat) (s : State) : Upd [.outbox, .regIrq, .regEpo, .vslots, .floorAbove, .drovers] s
    (vcmd op region slot s) := by
  unfold vcmd
  repeat' first
    | intro _
    | with_reducible assumption
    | with_reducible exact Upd.refl _
    | ((with_reducible apply UpdS.snd); with_reducible assumption)
    | (extract_lets -underBinder +onlyGivenNames x; (with_reducible refine Upd.cut x ?_ ?_); rotate_left; (clear_value x; revert x; intro _ _); rotate_right; subst x)
    | (extract_lets -underBinder +onlyGivenNames x; (with_reducible refine Upd.cutSnd x ?_ ?_); rotate_left; (clear_value x; revert x; intro _ _); rotate_right; subst x)
    | (extract_lets -underBinder +onlyGivenNames x; clear_value x; revert x; intro _)
    | ((with_reducible apply Upd.go (wr_upd _ _ _ _)); rotate_left; exact rfl)
    | ((with_reducible apply Upd.go (floorCheck_upd _)); rotate_left; exact rfl)
    | ((with_reducible apply Upd.goS (vcInstall_upd _ _ _)); rotate_left; exact rfl)
    | ((with_reducible apply UpdS.go (vcInstall_upd _ _ _)); rotate_left; exact rfl)
    | ((with_reducible apply Upd.goS (vcClose_upd _ _ _)); rotate_left; exact rfl)
    | ((with_reducible apply UpdS.go (vcClose_upd _ _ _)); rotate_left; exact rfl)
    | ((with_reducible apply Upd.goS (vcQuery_upd _ _ _)); rotate_left; exact rfl)
    | ((with_reducible apply UpdS.go (vcQuery_upd _ _ _)); rotate_left; exact rfl)
    | ((with_reducible apply Upd.goS (vcFree_upd _ _ _)); rotate_left; exact rfl)
    | ((with_reducible apply UpdS.go (vcFree_upd _ _ _)); rotate_left; exact rfl)
    | with_reducible apply UpdS.mk
    | ((with_reducible apply UpdS.of_eq); with_reducible assumption)
    | split

theorem vcmdWrite_upd (op : Nat) (region : Nat) (slot : Nat) (s : State) : Upd [.outbox, .regIrq, .regEpo, .vslots, .floorAbove, .drovers]
    s (vcmdWrite op region slot s) := by
  unfold vcmdWrite
  repeat' first
    | intro _
    | with_reducible assumption
    | with_reducible exact Upd.refl _
    | ((with_reducible apply Upd.go (wr_upd _ _ _ _)); rotate_left; exact rfl)
    | ((with_reducible apply Upd.go (vcmd_upd _ _ _ _)); rotate_left; exact rfl)

theorem execInstall_upd (region : Nat) (slot : Nat) (s : State) : UpdR [.outbox, .regIrq, .regEpo, .vslots, .floorAbove, .drovers] s
    (execInstall region slot s) := by
  unfold execInstall
  repeat' first
    | intro _
    | with_reducible assumption
    | with_reducible exact Upd.refl _
    | with_reducible apply UpdR.next
    | ((with_reducible apply Upd.go (vcmdWrite_upd _ _ _ _)); rotate_left; exact rfl)

theorem execClose_upd (region : Nat) (slot : Nat) (s : State) : UpdR [.outbox, .regIrq, .regEpo, .vslots, .floorAbove, .drovers] s
    (execClose region slot s) := by
  unfold execClose
  repeat' first
    | intro _
    | with_reducible assumption
    | with_reducible exact Upd.refl _
    | with_reducible apply UpdR.next
    | ((with_reducible apply Upd.go (vcmdWrite_upd _ _ _ _)); rotate_left; exact rfl)

theorem execQuery_upd (region : Nat) (slot : Nat) (s : State) : UpdR [.outbox, .regIrq, .regEpo, .vslots, .floorAbove, .drovers] s
    (execQuery region slot s) := by
  unfold execQuery
  repeat' first
    | intro _
    | with_reducible assumption
    | with_reducible exact Upd.refl _
    | with_reducible apply UpdR.next
    | ((with_reducible apply Upd.go (vcmdWrite_upd _ _ _ _)); rotate_left; exact rfl)

theorem execFree_upd (region : Nat) (slot : Nat) (s : State) : UpdR [.outbox, .regIrq, .regEpo, .vslots, .floorAbove, .drovers] s
    (execFree region slot s) := by
  unfold execFree
  repeat' first
    | intro _
    | with_reducible assumption
    | with_reducible exact Upd.refl _
    | with_reducible apply UpdR.next
    | ((with_reducible apply Upd.go (vcmdWrite_upd _ _ _ _)); rotate_left; exact rfl)

end Sys2Proof.Machine
end

