-- ==== Sys2Proof/Laws/UpdCtxs.lean ====
section
/-!
SUPPORT. What each operation of Machine/Ctxs can change, and that it keeps the canonical form.
-/

namespace Sys2Proof.Machine

set_option maxRecDepth 4000
set_option linter.all false

theorem sessWrite_upd (x : Nat) (a : Nat) (bytes : List Byte) (s : State) : Upd [.outbox] s (sessWrite x a bytes s) := by
  unfold sessWrite
  repeat' first
    | intro _
    | with_reducible assumption
    | with_reducible exact Upd.refl _
    | ((with_reducible apply Upd.go (emit_upd _ _)); rotate_left; exact rfl)

theorem cqReserve_upd (x : Nat) (s : State) : Upd [.sess] s (cqReserve x s) := by
  unfold cqReserve
  repeat' first
    | intro _
    | with_reducible assumption
    | with_reducible exact Upd.refl _
    | (extract_lets -underBinder +onlyGivenNames x; (with_reducible refine Upd.cut x ?_ ?_); rotate_left; (clear_value x; revert x; intro _ _); rotate_right; subst x)
    | (extract_lets -underBinder +onlyGivenNames x; clear_value x; revert x; intro _)
    | ((with_reducible apply Upd.go (putSess_upd _ _ _)); rotate_left; exact rfl)

theorem cqUnreserve_upd (x : Nat) (s : State) : Upd [.sess] s (cqUnreserve x s) := by
  unfold cqUnreserve
  repeat' first
    | intro _
    | with_reducible assumption
    | with_reducible exact Upd.refl _
    | (extract_lets -underBinder +onlyGivenNames x; (with_reducible refine Upd.cut x ?_ ?_); rotate_left; (clear_value x; revert x; intro _ _); rotate_right; subst x)
    | (extract_lets -underBinder +onlyGivenNames x; clear_value x; revert x; intro _)
    | ((with_reducible apply Upd.go (putSess_upd _ _ _)); rotate_left; exact rfl)

theorem tailShadow_upd (x : Nat) (s : State) : Upd [.outbox, .sess] s (tailShadow x s) := by
  unfold tailShadow
  repeat' first
    | intro _
    | with_reducible assumption
    | with_reducible exact Upd.refl _
    | (extract_lets -underBinder +onlyGivenNames x; (with_reducible refine Upd.cut x ?_ ?_); rotate_left; (clear_value x; revert x; intro _ _); rotate_right; subst x)
    | (extract_lets -underBinder +onlyGivenNames x; clear_value x; revert x; intro _)
    | with_reducible apply Upd.ite <;> intro _
    | ((with_reducible apply Upd.go (sendVec_upd _ _)); rotate_left; exact rfl)
    | ((with_reducible apply Upd.go (putSess_upd _ _ _)); rotate_left; exact rfl)
    | ((with_reducible apply Upd.go (sessWrite_upd _ _ _ _)); rotate_left; exact rfl)
    | split

theorem cqWrite_upd (x : Nat) (bytes : List Byte) (irq : Bool) (s : State) : Upd [.outbox, .regRng, .sess] s (cqWrite x bytes irq s) :=
    by
  unfold cqWrite
  repeat' first
    | intro _
    | with_reducible assumption
    | with_reducible exact Upd.refl _
    | (extract_lets -underBinder +onlyGivenNames x; (with_reducible refine Upd.cut x ?_ ?_); rotate_left; (clear_value x; revert x; intro _ _); rotate_right; subst x)
    | (extract_lets -underBinder +onlyGivenNames x; clear_value x; revert x; intro _)
    | with_reducible apply Upd.ite <;> intro _
    | ((with_reducible apply Upd.go (wri_upd _ _ _ _ _)); rotate_left; exact rfl)
    | ((with_reducible apply Upd.go (putSess_upd _ _ _)); rotate_left; exact rfl)
    | ((with_reducible apply Upd.go (sessWrite_upd _ _ _ _)); rotate_left; exact rfl)
    | ((with_reducible apply Upd.go (cqUnreserve_upd _ _)); rotate_left; exact rfl)
    | ((with_reducible apply Upd.go (tailShadow_upd _ _)); rotate_left; exact rfl)

theorem cmdComplete_upd (x : Nat) (noirq : Bool) (r : CmdRecord) (s : State) : Upd [.outbox, .regRng, .sess] s (cmdComplete x noirq r s)
    := by
  unfold cmdComplete
  repeat' first
    | intro _
    | with_reducible assumption
    | with_reducible exact Upd.refl _
    | ((with_reducible apply Upd.go (cqWrite_upd _ _ _ _)); rotate_left; exact rfl)

theorem mapWork_upd (g : Nat) (c : Nat) (q : Nat) (k : Nat) (f : Work → Work) (s : State) : Upd [.ctxs] s (mapWork g c q k f s) := by
  unfold mapWork
  repeat' first
    | intro _
    | with_reducible assumption
    | with_reducible exact Upd.refl _
    | (extract_lets -underBinder +onlyGivenNames x; (with_reducible refine Upd.cut x ?_ ?_); rotate_left; (clear_value x; revert x; intro _ _); rotate_right; subst x)
    | (extract_lets -underBinder +onlyGivenNames x; clear_value x; revert x; intro _)
    | ((with_reducible apply Upd.go (putCtx_upd _ _ _)); rotate_left; exact rfl)

theorem engineFree_upd (g : Nat) (q : Nat) (c : Nat) (k : Nat) (s : State) : Upd [.engines] s (engineFree g q c k s) := by
  unfold engineFree
  repeat' first
    | intro _
    | with_reducible assumption
    | with_reducible exact Upd.refl _
    | (extract_lets -underBinder +onlyGivenNames x; (with_reducible refine Upd.cut x ?_ ?_); rotate_left; (clear_value x; revert x; intro _ _); rotate_right; subst x)
    | (extract_lets -underBinder +onlyGivenNames x; clear_value x; revert x; intro _)
    | with_reducible apply Upd.ite <;> intro _
    | ((with_reducible apply Upd.go (putEngine_upd _ _ _)); rotate_left; exact rfl)

theorem haltCtx_upd (g : Nat) (c : Nat) (s : State) : Upd [.ctxs, .spads] s (haltCtx g c s) := by
  unfold haltCtx
  repeat' first
    | intro _
    | with_reducible assumption
    | with_reducible exact Upd.refl _
    | (extract_lets -underBinder +onlyGivenNames x; (with_reducible refine Upd.cut x ?_ ?_); rotate_left; (clear_value x; revert x; intro _ _); rotate_right; subst x)
    | (extract_lets -underBinder +onlyGivenNames x; clear_value x; revert x; intro _)
    | with_reducible apply Upd.ite <;> intro _
    | ((with_reducible apply Upd.go (putCtx_upd _ _ _)); rotate_left; exact rfl)
    | ((with_reducible apply Upd.go (dropClaims_upd _ _ _)); rotate_left; exact rfl)
    | split

theorem haltRun_upd (n : Nat) (r : Run) (s : State) : Upd [.ctxs, .spads] s (haltRun n r s) := by
  unfold haltRun
  repeat' first
    | intro _
    | with_reducible assumption
    | with_reducible exact Upd.refl _
    | ((with_reducible apply UpdS.snd); with_reducible assumption)
    | with_reducible apply Upd.foldl
    | with_reducible apply UpdS.foldl
    | ((with_reducible apply UpdS.snd); with_reducible apply UpdS.foldl)
    | ((with_reducible apply Upd.go (haltCtx_upd _ _ _)); rotate_left; exact rfl)
    | with_reducible apply UpdS.mk
    | dsimp only

theorem noteFirst_upd (g : Nat) (c : Nat) (q : Nat) (k : Nat) (st : DStat) (detail : Nat) (s : State) : Upd [.runs] s (noteFirst g c q k
    st detail s) := by
  unfold noteFirst
  repeat' first
    | intro _
    | with_reducible assumption
    | with_reducible exact Upd.refl _
    | (extract_lets -underBinder +onlyGivenNames x; (with_reducible refine Upd.cut x ?_ ?_); rotate_left; (clear_value x; revert x; intro _ _); rotate_right; subst x)
    | (extract_lets -underBinder +onlyGivenNames x; clear_value x; revert x; intro _)
    | with_reducible apply Upd.ite <;> intro _
    | ((with_reducible apply Upd.go (putRun_upd _ _ _)); rotate_left; exact rfl)
    | split

theorem endWork_upd (g : Nat) (c : Nat) (q : Nat) (k : Nat) (st : DStat) (exc : Nat) (detail : Nat) (s : State) : Upd [.outbox, .regIrq,
    .regErr, .regSpd, .regFlt, .ctxs, .runs, .engines, .spads, .spad, .spadChk, .ceWins] s (endWork g c q k st exc detail s) := by
  unfold endWork
  repeat' first
    | intro _
    | with_reducible assumption
    | with_reducible exact Upd.refl _
    | (extract_lets -underBinder +onlyGivenNames x; (with_reducible refine Upd.cut x ?_ ?_); rotate_left; (clear_value x; revert x; intro _ _); rotate_right; subst x)
    | (extract_lets -underBinder +onlyGivenNames x; clear_value x; revert x; intro _)
    | with_reducible apply Upd.ite <;> intro _
    | ((with_reducible apply Upd.go (sbRelease_upd _ _ _ _ _ _)); rotate_left; exact rfl)
    | ((with_reducible apply Upd.go (mapWork_upd _ _ _ _ _ _)); rotate_left; exact rfl)
    | ((with_reducible apply Upd.go (engineFree_upd _ _ _ _ _)); rotate_left; exact rfl)
    | ((with_reducible apply Upd.go (haltCtx_upd _ _ _)); rotate_left; exact rfl)
    | ((with_reducible apply Upd.go (noteFirst_upd _ _ _ _ _ _ _)); rotate_left; exact rfl)
    | split

end Sys2Proof.Machine
end

