-- ==== Sys2Proof/Laws/UpdSerai.lean ====
section
/-!
SUPPORT. What each operation of Machine/Serai can change, and that it keeps the canonical form.
-/

namespace Sys2Proof.Machine

set_option maxRecDepth 4000
set_option linter.all false

theorem putFlag_upd (k : Nat) (i : Nat) (v : Bool) (s : State) : Upd [.serais] s (putFlag k i v s) := by
  unfold putFlag
  repeat' first
    | intro _
    | with_reducible assumption
    | with_reducible exact Upd.refl _
    | (extract_lets -underBinder +onlyGivenNames x; (with_reducible refine Upd.cut x ?_ ?_); rotate_left; (clear_value x; revert x; intro _ _); rotate_right; subst x)
    | (extract_lets -underBinder +onlyGivenNames x; clear_value x; revert x; intro _)
    | ((with_reducible apply Upd.go (putSerai_upd _ _ _)); rotate_left; exact rfl)

theorem putCtr_upd (k : Nat) (i : Nat) (v : Nat) (s : State) : Upd [.serais] s (putCtr k i v s) := by
  unfold putCtr
  repeat' first
    | intro _
    | with_reducible assumption
    | with_reducible exact Upd.refl _
    | (extract_lets -underBinder +onlyGivenNames x; (with_reducible refine Upd.cut x ?_ ?_); rotate_left; (clear_value x; revert x; intro _ _); rotate_right; subst x)
    | (extract_lets -underBinder +onlyGivenNames x; clear_value x; revert x; intro _)
    | ((with_reducible apply Upd.go (putSerai_upd _ _ _)); rotate_left; exact rfl)

theorem putBar_upd (k : Nat) (i : Nat) (b : Bar) (s : State) : Upd [.serais] s (putBar k i b s) := by
  unfold putBar
  repeat' first
    | intro _
    | with_reducible assumption
    | with_reducible exact Upd.refl _
    | (extract_lets -underBinder +onlyGivenNames x; (with_reducible refine Upd.cut x ?_ ?_); rotate_left; (clear_value x; revert x; intro _ _); rotate_right; subst x)
    | (extract_lets -underBinder +onlyGivenNames x; clear_value x; revert x; intro _)
    | ((with_reducible apply Upd.go (putSerai_upd _ _ _)); rotate_left; exact rfl)

theorem musterStep_upd (k : Nat) (i : Nat) (b : Bar) (s : State) : UpdF [.outbox, .regIrq, .regErr, .regLdg, .regMcs, .regFlt, .ldgSeq,
    .ldgLost, .serais, .dram, .dramChk, .chans, .units, .snoop, .biWait, .servedBytes] s (musterStep k i b s) := by
  unfold musterStep
  repeat' first
    | intro _
    | with_reducible assumption
    | with_reducible exact Upd.refl _
    | (extract_lets -underBinder +onlyGivenNames x; (with_reducible refine UpdF.cut x ?_ ?_); rotate_left; (clear_value x; revert x; intro _ _); rotate_right; subst x)
    | (extract_lets -underBinder +onlyGivenNames x; (with_reducible refine Upd.cut x ?_ ?_); rotate_left; (clear_value x; revert x; intro _ _); rotate_right; subst x)
    | (extract_lets -underBinder +onlyGivenNames x; clear_value x; revert x; intro _)
    | with_reducible apply Upd.ite <;> intro _
    | with_reducible apply UpdF.ite <;> intro _
    | ((with_reducible apply Upd.go (raise_upd _ _ _)); rotate_left; exact rfl)
    | ((with_reducible apply Upd.go (ledger_upd _ _ _ _)); rotate_left; exact rfl)
    | ((with_reducible apply Upd.go (putCtr_upd _ _ _ _)); rotate_left; exact rfl)
    | with_reducible apply UpdF.mk
    | dsimp only

theorem barComplete_upd (k : Nat) (i : Nat) (runMuster : Bool) (s : State) : Upd [.outbox, .regIrq, .regErr, .regLdg, .regMcs, .regFlt,
    .ldgSeq, .ldgLost, .ctxs, .runs, .spads, .serais, .dram, .dramChk, .chans, .units, .snoop, .biWait, .servedBytes] s (barComplete k i
    runMuster s) := by
  unfold barComplete
  repeat' first
    | intro _
    | with_reducible assumption
    | with_reducible exact Upd.refl _
    | ((with_reducible apply UpdF.fst); with_reducible assumption)
    | ((with_reducible apply UpdS.snd); with_reducible assumption)
    | (extract_lets -underBinder +onlyGivenNames x; (with_reducible refine Upd.cut x ?_ ?_); rotate_left; (clear_value x; revert x; intro _ _); rotate_right; subst x)
    | (extract_lets -underBinder +onlyGivenNames x; (with_reducible refine Upd.cutFst x ?_ ?_); rotate_left; (clear_value x; revert x; intro _ _); rotate_right; subst x)
    | (extract_lets -underBinder +onlyGivenNames x; clear_value x; revert x; intro _)
    | with_reducible apply Upd.ite <;> intro _
    | with_reducible apply UpdF.ite <;> intro _
    | with_reducible apply Upd.foldl
    | with_reducible apply UpdS.foldl
    | ((with_reducible apply UpdS.snd); with_reducible apply UpdS.foldl)
    | ((with_reducible apply Upd.go (count_upd _ _ _ _)); rotate_left; exact rfl)
    | ((with_reducible apply Upd.go (haltCtx_upd _ _ _)); rotate_left; exact rfl)
    | ((with_reducible apply Upd.go (noteFirst_upd _ _ _ _ _ _ _)); rotate_left; exact rfl)
    | ((with_reducible apply Upd.go (putBar_upd _ _ _ _)); rotate_left; exact rfl)
    | ((with_reducible apply Upd.goF (musterStep_upd _ _ _ _)); rotate_left; exact rfl)
    | ((with_reducible apply UpdF.go (musterStep_upd _ _ _ _)); rotate_left; exact rfl)
    | with_reducible apply UpdS.mk
    | with_reducible apply UpdF.mk
    | dsimp only
    | with_reducible apply SMap.wf_set
    | with_reducible apply SMap.wf_mapv
    | with_reducible apply SMap.wf_filter
    | with_reducible exact SMap.wf_nil
    | (first | with_reducible exact State.Ok.ctxs (by assumption))
    | ((with_reducible apply Upd.set_ctxs); rotate_left; exact rfl)

theorem barArrive_upd (k : Nat) (i : Nat) (who : Option (Nat × Nat)) (s : State) : Upd [.outbox, .regIrq, .regErr, .regLdg, .regMcs,
    .regFlt, .ldgSeq, .ldgLost, .ctxs, .runs, .spads, .serais, .dram, .dramChk, .chans, .units, .snoop, .biWait, .servedBytes] s
    (barArrive k i who s) := by
  unfold barArrive
  repeat' first
    | intro _
    | with_reducible assumption
    | with_reducible exact Upd.refl _
    | (extract_lets -underBinder +onlyGivenNames x; (with_reducible refine Upd.cut x ?_ ?_); rotate_left; (clear_value x; revert x; intro _ _); rotate_right; subst x)
    | (extract_lets -underBinder +onlyGivenNames x; clear_value x; revert x; intro _)
    | with_reducible apply Upd.ite <;> intro _
    | ((with_reducible apply Upd.go (count_upd _ _ _ _)); rotate_left; exact rfl)
    | ((with_reducible apply Upd.go (putBar_upd _ _ _ _)); rotate_left; exact rfl)
    | ((with_reducible apply Upd.go (barComplete_upd _ _ _ _)); rotate_left; exact rfl)

theorem barInit_upd (k : Nat) (i : Nat) (n : Nat) (muster : Bool) (prod : Nat) (cons : Nat) (s : State) : UpdO [.serais] s (barInit k i n
    muster prod cons s) := by
  unfold barInit
  repeat' first
    | intro _
    | with_reducible assumption
    | with_reducible exact Upd.refl _
    | (extract_lets -underBinder +onlyGivenNames x; (with_reducible refine UpdO.cut x ?_ ?_); rotate_left; (clear_value x; revert x; intro _ _); rotate_right; subst x)
    | (extract_lets -underBinder +onlyGivenNames x; (with_reducible refine Upd.cut x ?_ ?_); rotate_left; (clear_value x; revert x; intro _ _); rotate_right; subst x)
    | (extract_lets -underBinder +onlyGivenNames x; clear_value x; revert x; intro _)
    | with_reducible apply Upd.ite <;> intro _
    | with_reducible apply UpdO.ite <;> intro _
    | ((with_reducible apply Upd.go (count_upd _ _ _ _)); rotate_left; exact rfl)
    | ((with_reducible apply Upd.go (putBar_upd _ _ _ _)); rotate_left; exact rfl)
    | with_reducible exact UpdO.none
    | with_reducible apply UpdO.some

theorem hopShow_upd (k : Nat) (kind : Nat) (i : Nat) (s : State) : Upd [.regSerai] s (hopShow k kind i s) := by
  unfold hopShow
  repeat' first
    | intro _
    | with_reducible assumption
    | with_reducible exact Upd.refl _
    | (extract_lets -underBinder +onlyGivenNames x; (with_reducible refine Upd.cut x ?_ ?_); rotate_left; (clear_value x; revert x; intro _ _); rotate_right; subst x)
    | (extract_lets -underBinder +onlyGivenNames x; clear_value x; revert x; intro _)
    | with_reducible apply Upd.ite <;> intro _
    | ((with_reducible apply Upd.go (wr_upd _ _ _ _)); rotate_left; exact rfl)
    | split

theorem hopEffect_upd (k : Nat) (op : Nat) (i : Nat) (s : State) : UpdS [.outbox, .regIrq, .regErr, .regLdg, .regMcs, .regFlt, .ldgSeq,
    .ldgLost, .ctxs, .runs, .spads, .serais, .dram, .dramChk, .chans, .units, .snoop, .biWait, .servedBytes] s (hopEffect k op i s) := by
  unfold hopEffect
  repeat' first
    | intro _
    | with_reducible assumption
    | with_reducible exact Upd.refl _
    | ((with_reducible apply UpdS.snd); with_reducible assumption)
    | (extract_lets -underBinder +onlyGivenNames x; (with_reducible refine UpdS.cut x ?_ ?_); rotate_left; (clear_value x; revert x; intro _ _); rotate_right; subst x)
    | (extract_lets -underBinder +onlyGivenNames x; (with_reducible refine Upd.cut x ?_ ?_); rotate_left; (clear_value x; revert x; intro _ _); rotate_right; subst x)
    | (extract_lets -underBinder +onlyGivenNames x; (with_reducible refine UpdS.cutO x ?_ ?_); rotate_left; (clear_value x; revert x; intro _ _); rotate_right; subst x)
    | (extract_lets -underBinder +onlyGivenNames x; (with_reducible refine Upd.cutO x ?_ ?_); rotate_left; (clear_value x; revert x; intro _ _); rotate_right; subst x)
    | (extract_lets -underBinder +onlyGivenNames x; clear_value x; revert x; intro _)
    | with_reducible apply Upd.ite <;> intro _
    | with_reducible apply UpdO.ite <;> intro _
    | with_reducible apply UpdS.ite <;> intro _
    | ((with_reducible apply Upd.go (count_upd _ _ _ _)); rotate_left; exact rfl)
    | ((with_reducible apply Upd.go (putFlag_upd _ _ _ _)); rotate_left; exact rfl)
    | ((with_reducible apply Upd.go (putCtr_upd _ _ _ _)); rotate_left; exact rfl)
    | ((with_reducible apply Upd.go (putBar_upd _ _ _ _)); rotate_left; exact rfl)
    | ((with_reducible apply Upd.go (barComplete_upd _ _ _ _)); rotate_left; exact rfl)
    | ((with_reducible apply Upd.go (barArrive_upd _ _ _ _)); rotate_left; exact rfl)
    | ((with_reducible apply UpdO.go (barInit_upd _ _ _ _ _ _ _)); rotate_left; exact rfl)
    | with_reducible apply UpdS.mk
    | with_reducible exact UpdO.none
    | with_reducible apply UpdO.some
    | dsimp only
    | ((with_reducible apply UpdO.of_eq); with_reducible assumption)
    | split

theorem hop_upd (k : Nat) (op : Nat) (kind : Nat) (i : Nat) (s : State) : Upd [.outbox, .regIrq, .regErr, .regLdg, .regSerai, .regMcs,
    .regFlt, .ldgSeq, .ldgLost, .ctxs, .runs, .spads, .serais, .dram, .dramChk, .chans, .units, .snoop, .biWait, .servedBytes] s (hop k op
    kind i s) := by
  unfold hop
  repeat' first
    | intro _
    | with_reducible assumption
    | with_reducible exact Upd.refl _
    | ((with_reducible apply UpdS.snd); with_reducible assumption)
    | (extract_lets -underBinder +onlyGivenNames x; (with_reducible refine Upd.cut x ?_ ?_); rotate_left; (clear_value x; revert x; intro _ _); rotate_right; subst x)
    | (extract_lets -underBinder +onlyGivenNames x; (with_reducible refine Upd.cutSnd x ?_ ?_); rotate_left; (clear_value x; revert x; intro _ _); rotate_right; subst x)
    | (extract_lets -underBinder +onlyGivenNames x; clear_value x; revert x; intro _)
    | with_reducible apply Upd.ite <;> intro _
    | with_reducible apply UpdS.ite <;> intro _
    | ((with_reducible apply Upd.go (wr_upd _ _ _ _)); rotate_left; exact rfl)
    | ((with_reducible apply Upd.go (ledger_upd _ _ _ _)); rotate_left; exact rfl)
    | ((with_reducible apply Upd.go (hopShow_upd _ _ _ _)); rotate_left; exact rfl)
    | ((with_reducible apply Upd.goS (hopEffect_upd _ _ _ _)); rotate_left; exact rfl)
    | ((with_reducible apply UpdS.go (hopEffect_upd _ _ _ _)); rotate_left; exact rfl)
    | with_reducible apply UpdS.mk

theorem hopWrite_upd (k : Nat) (op : Nat) (kind : Nat) (i : Nat) (s : State) : Upd [.outbox, .regIrq, .regErr, .regLdg, .regSerai,
    .regMcs, .regFlt, .ldgSeq, .ldgLost, .ctxs, .runs, .spads, .serais, .dram, .dramChk, .chans, .units, .snoop, .biWait, .servedBytes] s
    (hopWrite k op kind i s) := by
  unfold hopWrite
  repeat' first
    | intro _
    | with_reducible assumption
    | with_reducible exact Upd.refl _
    | (extract_lets -underBinder +onlyGivenNames x; (with_reducible refine Upd.cut x ?_ ?_); rotate_left; (clear_value x; revert x; intro _ _); rotate_right; subst x)
    | (extract_lets -underBinder +onlyGivenNames x; clear_value x; revert x; intro _)
    | ((with_reducible apply Upd.go (wr_upd _ _ _ _)); rotate_left; exact rfl)
    | with_reducible apply hostWrites_upd
    | ((with_reducible apply Upd.go (hop_upd _ _ _ _ _)); rotate_left; exact rfl)

theorem execHopRead_upd (sy : Nat) (kind : Nat) (idx : Nat) (s : State) : UpdR [.outbox, .regIrq, .regErr, .regLdg, .regSerai, .regMcs,
    .regFlt, .ldgSeq, .ldgLost, .ctxs, .runs, .spads, .serais, .dram, .dramChk, .chans, .units, .snoop, .biWait, .servedBytes] s
    (execHopRead sy kind idx s) := by
  unfold execHopRead
  repeat' first
    | intro _
    | with_reducible assumption
    | with_reducible exact Upd.refl _
    | with_reducible apply UpdR.next
    | ((with_reducible apply Upd.go (hopWrite_upd _ _ _ _ _)); rotate_left; exact rfl)

theorem execHopFlagSet_upd (sy : Nat) (kind : Nat) (idx : Nat) (s : State) : UpdR [.outbox, .regIrq, .regErr, .regLdg, .regSerai, .regMcs,
    .regFlt, .ldgSeq, .ldgLost, .ctxs, .runs, .spads, .serais, .dram, .dramChk, .chans, .units, .snoop, .biWait, .servedBytes] s
    (execHopFlagSet sy kind idx s) := by
  unfold execHopFlagSet
  repeat' first
    | intro _
    | with_reducible assumption
    | with_reducible exact Upd.refl _
    | with_reducible apply UpdR.next
    | ((with_reducible apply Upd.go (hopWrite_upd _ _ _ _ _)); rotate_left; exact rfl)

theorem execHopFlagClear_upd (sy : Nat) (kind : Nat) (idx : Nat) (s : State) : UpdR [.outbox, .regIrq, .regErr, .regLdg, .regSerai,
    .regMcs, .regFlt, .ldgSeq, .ldgLost, .ctxs, .runs, .spads, .serais, .dram, .dramChk, .chans, .units, .snoop, .biWait, .servedBytes] s
    (execHopFlagClear sy kind idx s) := by
  unfold execHopFlagClear
  repeat' first
    | intro _
    | with_reducible assumption
    | with_reducible exact Upd.refl _
    | with_reducible apply UpdR.next
    | ((with_reducible apply Upd.go (hopWrite_upd _ _ _ _ _)); rotate_left; exact rfl)

theorem execHopCtrAdd_upd (sy : Nat) (kind : Nat) (idx : Nat) (s : State) : UpdR [.outbox, .regIrq, .regErr, .regLdg, .regSerai, .regMcs,
    .regFlt, .ldgSeq, .ldgLost, .ctxs, .runs, .spads, .serais, .dram, .dramChk, .chans, .units, .snoop, .biWait, .servedBytes] s
    (execHopCtrAdd sy kind idx s) := by
  unfold execHopCtrAdd
  repeat' first
    | intro _
    | with_reducible assumption
    | with_reducible exact Upd.refl _
    | with_reducible apply UpdR.next
    | ((with_reducible apply Upd.go (hopWrite_upd _ _ _ _ _)); rotate_left; exact rfl)

theorem execHopCtrSet_upd (sy : Nat) (kind : Nat) (idx : Nat) (s : State) : UpdR [.outbox, .regIrq, .regErr, .regLdg, .regSerai, .regMcs,
    .regFlt, .ldgSeq, .ldgLost, .ctxs, .runs, .spads, .serais, .dram, .dramChk, .chans, .units, .snoop, .biWait, .servedBytes] s
    (execHopCtrSet sy kind idx s) := by
  unfold execHopCtrSet
  repeat' first
    | intro _
    | with_reducible assumption
    | with_reducible exact Upd.refl _
    | with_reducible apply UpdR.next
    | ((with_reducible apply Upd.go (hopWrite_upd _ _ _ _ _)); rotate_left; exact rfl)

theorem execHopBarInit_upd (sy : Nat) (kind : Nat) (idx : Nat) (s : State) : UpdR [.outbox, .regIrq, .regErr, .regLdg, .regSerai, .regMcs,
    .regFlt, .ldgSeq, .ldgLost, .ctxs, .runs, .spads, .serais, .dram, .dramChk, .chans, .units, .snoop, .biWait, .servedBytes] s
    (execHopBarInit sy kind idx s) := by
  unfold execHopBarInit
  repeat' first
    | intro _
    | with_reducible assumption
    | with_reducible exact Upd.refl _
    | with_reducible apply UpdR.next
    | ((with_reducible apply Upd.go (hopWrite_upd _ _ _ _ _)); rotate_left; exact rfl)

theorem execHopBarArrive_upd (sy : Nat) (kind : Nat) (idx : Nat) (s : State) : UpdR [.outbox, .regIrq, .regErr, .regLdg, .regSerai,
    .regMcs, .regFlt, .ldgSeq, .ldgLost, .ctxs, .runs, .spads, .serais, .dram, .dramChk, .chans, .units, .snoop, .biWait, .servedBytes] s
    (execHopBarArrive sy kind idx s) := by
  unfold execHopBarArrive
  repeat' first
    | intro _
    | with_reducible assumption
    | with_reducible exact Upd.refl _
    | with_reducible apply UpdR.next
    | ((with_reducible apply Upd.go (hopWrite_upd _ _ _ _ _)); rotate_left; exact rfl)

theorem execDbgRelease_upd (sy : Nat) (kind : Nat) (idx : Nat) (s : State) : UpdR [.outbox, .regIrq, .regErr, .regLdg, .regSerai, .regMcs,
    .regFlt, .ldgSeq, .ldgLost, .ctxs, .runs, .spads, .serais, .dram, .dramChk, .chans, .units, .snoop, .biWait, .servedBytes] s
    (execDbgRelease sy kind idx s) := by
  unfold execDbgRelease
  repeat' first
    | intro _
    | with_reducible assumption
    | with_reducible exact Upd.refl _
    | with_reducible apply UpdR.next
    | ((with_reducible apply Upd.go (hopWrite_upd _ _ _ _ _)); rotate_left; exact rfl)

theorem execDbgWithdraw_upd (sy : Nat) (kind : Nat) (idx : Nat) (s : State) : UpdR [.outbox, .regIrq, .regErr, .regLdg, .regSerai,
    .regMcs, .regFlt, .ldgSeq, .ldgLost, .ctxs, .runs, .spads, .serais, .dram, .dramChk, .chans, .units, .snoop, .biWait, .servedBytes] s
    (execDbgWithdraw sy kind idx s) := by
  unfold execDbgWithdraw
  repeat' first
    | intro _
    | with_reducible assumption
    | with_reducible exact Upd.refl _
    | with_reducible apply UpdR.next
    | ((with_reducible apply Upd.go (hopWrite_upd _ _ _ _ _)); rotate_left; exact rfl)

theorem remoteOp_upd (k : Nat) (counter : Bool) (i : Nat) (op : Nat) (v : Nat) (s : State) : Upd [.serais] s (remoteOp k counter i op v s)
    := by
  unfold remoteOp
  repeat' first
    | intro _
    | with_reducible assumption
    | with_reducible exact Upd.refl _
    | with_reducible apply Upd.ite <;> intro _
    | ((with_reducible apply Upd.go (putFlag_upd _ _ _ _)); rotate_left; exact rfl)
    | ((with_reducible apply Upd.go (putCtr_upd _ _ _ _)); rotate_left; exact rfl)

theorem rejectRemote_upd (k : Nat) (counter : Bool) (i : Nat) (src : Nat) (s : State) : Upd [.outbox, .regIrq, .regErr, .regLdg,
    .regSerai, .regMcs, .regFlt, .ldgSeq, .ldgLost, .dram, .dramChk, .chans, .units, .snoop, .biWait, .servedBytes] s (rejectRemote k
    counter i src s) := by
  unfold rejectRemote
  repeat' first
    | intro _
    | with_reducible assumption
    | with_reducible exact Upd.refl _
    | (extract_lets -underBinder +onlyGivenNames x; (with_reducible refine Upd.cut x ?_ ?_); rotate_left; (clear_value x; revert x; intro _ _); rotate_right; subst x)
    | (extract_lets -underBinder +onlyGivenNames x; clear_value x; revert x; intro _)
    | with_reducible apply Upd.ite <;> intro _
    | ((with_reducible apply Upd.go (count_upd _ _ _ _)); rotate_left; exact rfl)
    | ((with_reducible apply Upd.go (raise_upd _ _ _)); rotate_left; exact rfl)
    | ((with_reducible apply Upd.go (ledger_upd _ _ _ _)); rotate_left; exact rfl)

theorem orphanSignal_upd (k : Nat) (counter : Bool) (i : Nat) (src : Nat) (s : State) : Upd [.outbox, .regIrq, .regErr, .regLdg, .regMcs,
    .regFlt, .ldgSeq, .ldgLost, .dram, .dramChk, .chans, .units, .snoop, .biWait, .servedBytes] s (orphanSignal k counter i src s) := by
  unfold orphanSignal
  repeat' first
    | intro _
    | with_reducible assumption
    | with_reducible exact Upd.refl _
    | (extract_lets -underBinder +onlyGivenNames x; (with_reducible refine Upd.cut x ?_ ?_); rotate_left; (clear_value x; revert x; intro _ _); rotate_right; subst x)
    | (extract_lets -underBinder +onlyGivenNames x; clear_value x; revert x; intro _)
    | with_reducible apply Upd.ite <;> intro _
    | ((with_reducible apply Upd.go (raise_upd _ _ _)); rotate_left; exact rfl)
    | ((with_reducible apply Upd.go (ledger_upd _ _ _ _)); rotate_left; exact rfl)

theorem applyRemote_upd (k : Nat) (h : Held) (s : State) : Upd [.outbox, .regIrq, .regErr, .regLdg, .regSerai, .regMcs, .regFlt, .ldgSeq,
    .ldgLost, .serais, .dram, .dramChk, .chans, .units, .snoop, .biWait, .servedBytes] s (applyRemote k h s) := by
  unfold applyRemote
  repeat' first
    | intro _
    | with_reducible assumption
    | with_reducible exact Upd.refl _
    | with_reducible apply Upd.ite <;> intro _
    | ((with_reducible apply Upd.go (remoteOp_upd _ _ _ _ _ _)); rotate_left; exact rfl)
    | ((with_reducible apply Upd.go (rejectRemote_upd _ _ _ _ _)); rotate_left; exact rfl)

theorem noteHeld_upd (k : Nat) (s : State) : Upd [.regSerai] s (noteHeld k s) := by
  unfold noteHeld
  repeat' first
    | intro _
    | with_reducible assumption
    | with_reducible exact Upd.refl _
    | (extract_lets -underBinder +onlyGivenNames x; (with_reducible refine Upd.cut x ?_ ?_); rotate_left; (clear_value x; revert x; intro _ _); rotate_right; subst x)
    | (extract_lets -underBinder +onlyGivenNames x; clear_value x; revert x; intro _)
    | with_reducible apply Upd.ite <;> intro _
    | ((with_reducible apply Upd.go (wr_upd _ _ _ _)); rotate_left; exact rfl)

theorem orphanHeld_upd (k : Nat) (p : Held → Bool) (s : State) : Upd [.outbox, .regIrq, .regErr, .regLdg, .regMcs, .regFlt, .ldgSeq,
    .ldgLost, .serais, .dram, .dramChk, .chans, .units, .snoop, .biWait, .servedBytes] s (orphanHeld k p s) := by
  unfold orphanHeld
  repeat' first
    | intro _
    | with_reducible assumption
    | with_reducible exact Upd.refl _
    | ((with_reducible apply UpdS.snd); with_reducible assumption)
    | (extract_lets -underBinder +onlyGivenNames x; (with_reducible refine Upd.cut x ?_ ?_); rotate_left; (clear_value x; revert x; intro _ _); rotate_right; subst x)
    | (extract_lets -underBinder +onlyGivenNames x; clear_value x; revert x; intro _)
    | with_reducible apply Upd.foldl
    | with_reducible apply UpdS.foldl
    | ((with_reducible apply UpdS.snd); with_reducible apply UpdS.foldl)
    | ((with_reducible apply Upd.go (putSerai_upd _ _ _)); rotate_left; exact rfl)
    | ((with_reducible apply Upd.go (orphanSignal_upd _ _ _ _ _)); rotate_left; exact rfl)
    | with_reducible apply UpdS.mk
    | dsimp only

end Sys2Proof.Machine
end

