-- ==== Sys2Proof/Laws/UpdOperands.lean ====
section
/-!
SUPPORT. What each operation of Machine/Operands can change, and that it keeps the canonical form.
-/

namespace Sys2Proof.Machine

set_option maxRecDepth 4000
set_option linter.all false



theorem readSec_upd (g : Nat) (off : Nat) (n : Nat) (s : State) : UpdS [.outbox, .freeCtr, .regIrq, .regErr, .regFlt, .spads, .ceWins] s
    (readSec g off n s) := by
  unfold readSec
  repeat' first
    | intro _
    | with_reducible assumption
    | with_reducible exact Upd.refl _
    | ((with_reducible apply UpdS.snd); with_reducible assumption)
    | (extract_lets -underBinder +onlyGivenNames x; (with_reducible refine UpdS.cut x ?_ ?_); rotate_left; (clear_value x; revert x; intro _ _); rotate_right; subst x)
    | (extract_lets -underBinder +onlyGivenNames x; (with_reducible refine Upd.cut x ?_ ?_); rotate_left; (clear_value x; revert x; intro _ _); rotate_right; subst x)
    | (extract_lets -underBinder +onlyGivenNames x; (with_reducible refine UpdS.cutSnd x ?_ ?_); rotate_left; (clear_value x; revert x; intro _ _); rotate_right; subst x)
    | (extract_lets -underBinder +onlyGivenNames x; (with_reducible refine Upd.cutSnd x ?_ ?_); rotate_left; (clear_value x; revert x; intro _ _); rotate_right; subst x)
    | (extract_lets -underBinder +onlyGivenNames x; clear_value x; revert x; intro _)
    | with_reducible apply Upd.ite <;> intro _
    | with_reducible apply UpdS.ite <;> intro _
    | ((with_reducible apply Upd.goS (readSp_upd _ _ _ _)); rotate_left; exact rfl)
    | ((with_reducible apply UpdS.go (readSp_upd _ _ _ _)); rotate_left; exact rfl)
    | with_reducible apply UpdS.mk
    | dsimp only

theorem readSpans_upd (g : Nat) (a : Nat) (spans : List (Nat × Nat)) (s : State) : UpdS [.outbox, .freeCtr, .regIrq, .regErr, .regFlt,
    .spads, .ceWins] s (readSpans g a spans s) := by
  unfold readSpans
  repeat' first
    | intro _
    | with_reducible assumption
    | with_reducible exact Upd.refl _
    | ((with_reducible apply UpdS.snd); with_reducible assumption)
    | (extract_lets -underBinder +onlyGivenNames x; (with_reducible refine UpdS.cut x ?_ ?_); rotate_left; (clear_value x; revert x; intro _ _); rotate_right; subst x)
    | (extract_lets -underBinder +onlyGivenNames x; (with_reducible refine Upd.cut x ?_ ?_); rotate_left; (clear_value x; revert x; intro _ _); rotate_right; subst x)
    | (extract_lets -underBinder +onlyGivenNames x; (with_reducible refine UpdS.cutSnd x ?_ ?_); rotate_left; (clear_value x; revert x; intro _ _); rotate_right; subst x)
    | (extract_lets -underBinder +onlyGivenNames x; (with_reducible refine Upd.cutSnd x ?_ ?_); rotate_left; (clear_value x; revert x; intro _ _); rotate_right; subst x)
    | (extract_lets -underBinder +onlyGivenNames x; clear_value x; revert x; intro _)
    | with_reducible apply Upd.foldl
    | with_reducible apply UpdS.foldl
    | ((with_reducible apply UpdS.snd); with_reducible apply UpdS.foldl)
    | ((with_reducible apply Upd.goS (readSec_upd _ _ _ _)); rotate_left; exact rfl)
    | ((with_reducible apply UpdS.go (readSec_upd _ _ _ _)); rotate_left; exact rfl)
    | with_reducible apply UpdS.mk
    | dsimp only

theorem readRow_upd (g : Nat) (t : Tensor) (a : Nat) (sc : Nat) (n : Nat) (ftz : Bool) (s : State) : UpdS [.outbox, .freeCtr, .regIrq,
    .regErr, .regFlt, .spads, .ceWins] s (readRow g t a sc n ftz s) := by
  unfold readRow
  repeat' first
    | intro _
    | with_reducible assumption
    | with_reducible exact Upd.refl _
    | ((with_reducible apply UpdS.snd); with_reducible assumption)
    | (extract_lets -underBinder +onlyGivenNames x; (with_reducible refine UpdS.cut x ?_ ?_); rotate_left; (clear_value x; revert x; intro _ _); rotate_right; subst x)
    | (extract_lets -underBinder +onlyGivenNames x; (with_reducible refine Upd.cut x ?_ ?_); rotate_left; (clear_value x; revert x; intro _ _); rotate_right; subst x)
    | (extract_lets -underBinder +onlyGivenNames x; (with_reducible refine UpdS.cutSnd x ?_ ?_); rotate_left; (clear_value x; revert x; intro _ _); rotate_right; subst x)
    | (extract_lets -underBinder +onlyGivenNames x; (with_reducible refine Upd.cutSnd x ?_ ?_); rotate_left; (clear_value x; revert x; intro _ _); rotate_right; subst x)
    | (extract_lets -underBinder +onlyGivenNames x; (with_reducible refine isFn x ?_); subst x)
    | (extract_lets -underBinder +onlyGivenNames x; clear_value x; revert x; intro _)
    | with_reducible apply Upd.ite <;> intro _
    | with_reducible apply UpdS.ite <;> intro _
    | with_reducible apply Upd.foldl
    | with_reducible apply UpdS.foldl
    | ((with_reducible apply UpdS.snd); with_reducible apply UpdS.foldl)
    | with_reducible apply Upd.getD
    | ((with_reducible apply Upd.goS (readSec_upd _ _ _ _)); rotate_left; exact rfl)
    | ((with_reducible apply UpdS.go (readSec_upd _ _ _ _)); rotate_left; exact rfl)
    | ((with_reducible apply Upd.goS (readSpans_upd _ _ _ _)); rotate_left; exact rfl)
    | ((with_reducible apply UpdS.go (readSpans_upd _ _ _ _)); rotate_left; exact rfl)
    | with_reducible apply UpdS.mk
    | dsimp only
    | split

theorem putRow_upd (g : Nat) (runs : List (Nat × Nat × Nat)) (bytes : List Byte) (bad : Nat → Bool) (s : State) : Upd [.outbox, .regIrq,
    .regErr, .regSpd, .regFlt, .spads, .spad, .spadChk, .ceWins] s (putRow g runs bytes bad s) := by
  unfold putRow
  repeat' first
    | intro _
    | with_reducible assumption
    | with_reducible exact Upd.refl _
    | ((with_reducible apply UpdS.snd); with_reducible assumption)
    | (extract_lets -underBinder +onlyGivenNames x; (with_reducible refine Upd.cut x ?_ ?_); rotate_left; (clear_value x; revert x; intro _ _); rotate_right; subst x)
    | (extract_lets -underBinder +onlyGivenNames x; clear_value x; revert x; intro _)
    | with_reducible apply Upd.foldl
    | with_reducible apply UpdS.foldl
    | ((with_reducible apply UpdS.snd); with_reducible apply UpdS.foldl)
    | ((with_reducible apply Upd.go (writeSp_upd _ _ _ _ _)); rotate_left; exact rfl)
    | with_reducible apply UpdS.mk
    | dsimp only

theorem writeRow_upd (g : Nat) (fmt : Nat) (a : Arith) (cls : NumClass) (runs : List (Nat × Nat × Nat)) (sc : Nat) (xs : List Elem) (s :
    State) : UpdS [.outbox, .regIrq, .regErr, .regSpd, .regFlt, .spads, .spad, .spadChk, .ceWins] s (writeRow g fmt a cls runs sc xs s) :=
    by
  unfold writeRow
  repeat' first
    | intro _
    | with_reducible assumption
    | with_reducible exact Upd.refl _
    | ((with_reducible apply UpdS.snd); with_reducible assumption)
    | (extract_lets -underBinder +onlyGivenNames x; (with_reducible refine UpdS.cut x ?_ ?_); rotate_left; (clear_value x; revert x; intro _ _); rotate_right; subst x)
    | (extract_lets -underBinder +onlyGivenNames x; (with_reducible refine Upd.cut x ?_ ?_); rotate_left; (clear_value x; revert x; intro _ _); rotate_right; subst x)
    | (extract_lets -underBinder +onlyGivenNames x; clear_value x; revert x; intro _)
    | with_reducible apply Upd.ite <;> intro _
    | with_reducible apply UpdS.ite <;> intro _
    | with_reducible apply Upd.foldl
    | with_reducible apply UpdS.foldl
    | ((with_reducible apply UpdS.snd); with_reducible apply UpdS.foldl)
    | ((with_reducible apply Upd.go (writeSp_upd _ _ _ _ _)); rotate_left; exact rfl)
    | ((with_reducible apply Upd.go (putRow_upd _ _ _ _ _)); rotate_left; exact rfl)
    | with_reducible apply UpdS.mk
    | dsimp only
    | split

end Sys2Proof.Machine
end

