-- ==== Sys2Proof/Laws/UpdFlights.lean ====
section
/-!
SUPPORT. What each operation of Machine/Flights can change, and that it keeps the canonical form.
-/

namespace Sys2Proof.Machine

set_option maxRecDepth 4000
set_option linter.all false

theorem endFlight_upd (f : BkFlight) (s : State) : Upd [.outbox, .regIrq, .regErr, .regSpd, .regBkc, .regFlt, .ctxs, .runs, .engines,
    .spads, .spad, .spadChk, .flights, .ceWins] s (endFlight f s) := by
  unfold endFlight
  repeat' first
    | intro _
    | with_reducible assumption
    | with_reducible exact Upd.refl _
    | (extract_lets -underBinder +onlyGivenNames x; (with_reducible refine Upd.cut x ?_ ?_); rotate_left; (clear_value x; revert x; intro _ _); rotate_right; subst x)
    | (extract_lets -underBinder +onlyGivenNames x; clear_value x; revert x; intro _)
    | with_reducible apply Upd.ite <;> intro _
    | ((with_reducible apply Upd.go (count_upd _ _ _ _)); rotate_left; exact rfl)
    | ((with_reducible apply Upd.go (endWork_upd _ _ _ _ _ _ _ _)); rotate_left; exact rfl)
    | ((with_reducible apply Upd.set_flights); rotate_left; exact rfl)

theorem settleFlights_upd (s : State) : Upd [.outbox, .regIrq, .regErr, .regSpd, .regBkc, .regFlt, .ctxs, .runs, .engines, .spads, .spad,
    .spadChk, .flights, .ceWins] s (settleFlights s) := by
  unfold settleFlights
  repeat' first
    | intro _
    | with_reducible assumption
    | with_reducible exact Upd.refl _
    | ((with_reducible apply UpdS.snd); with_reducible assumption)
    | with_reducible apply Upd.foldl
    | with_reducible apply UpdS.foldl
    | ((with_reducible apply UpdS.snd); with_reducible apply UpdS.foldl)
    | ((with_reducible apply Upd.go (endFlight_upd _ _)); rotate_left; exact rfl)
    | with_reducible apply UpdS.mk
    | dsimp only

end Sys2Proof.Machine
end

