-- ==== Sys2Proof/Laws/UpdProgram.lean ====
section
/-!
SUPPORT. What each operation of Machine/Program can change, and that it keeps the canonical form.
-/

namespace Sys2Proof.Machine

set_option maxRecDepth 4000
set_option linter.all false

theorem noteRefused_upd (g : Nat) (c : Nat) (q : Nat) (s : State) : Upd [.regSpd] s (noteRefused g c q s) := by
  unfold noteRefused
  repeat' first
    | intro _
    | with_reducible assumption
    | with_reducible exact Upd.refl _
    | (extract_lets -underBinder +onlyGivenNames x; (with_reducible refine Upd.cut x ?_ ?_); rotate_left; (clear_value x; revert x; intro _ _); rotate_right; subst x)
    | (extract_lets -underBinder +onlyGivenNames x; clear_value x; revert x; intro _)
    | with_reducible apply Upd.ite <;> intro _
    | ((with_reducible apply Upd.go (count_upd _ _ _ _)); rotate_left; exact rfl)

theorem loadSet_upd (g : Nat) (q : Nat) (c : Nat) (img : List Byte) (s : State) : Upd [.engines] s (loadSet g q c img s) := by
  unfold loadSet
  repeat' first
    | intro _
    | with_reducible assumption
    | with_reducible exact Upd.refl _
    | (extract_lets -underBinder +onlyGivenNames x; (with_reducible refine Upd.cut x ?_ ?_); rotate_left; (clear_value x; revert x; intro _ _); rotate_right; subst x)
    | (extract_lets -underBinder +onlyGivenNames x; clear_value x; revert x; intro _)
    | with_reducible apply Upd.ite <;> intro _
    | ((with_reducible apply Upd.go (putEngine_upd _ _ _)); rotate_left; exact rfl)

theorem displace_upd (g : Nat) (q : Nat) (c : Nat) (s : State) : Upd [.ctxs] s (displace g q c s) := by
  unfold displace
  repeat' first
    | intro _
    | with_reducible assumption
    | with_reducible exact Upd.refl _
    | ((with_reducible apply UpdS.snd); with_reducible assumption)
    | (extract_lets -underBinder +onlyGivenNames x; (with_reducible refine Upd.cut x ?_ ?_); rotate_left; (clear_value x; revert x; intro _ _); rotate_right; subst x)
    | (extract_lets -underBinder +onlyGivenNames x; clear_value x; revert x; intro _)
    | with_reducible apply Upd.ite <;> intro _
    | with_reducible apply Upd.foldl
    | with_reducible apply UpdS.foldl
    | ((with_reducible apply UpdS.snd); with_reducible apply UpdS.foldl)
    | ((with_reducible apply Upd.go (putCtx_upd _ _ _)); rotate_left; exact rfl)
    | with_reducible apply UpdS.mk
    | dsimp only
    | split

theorem execDescLoad_upd (core : Nat) (ctx : Nat) (q : Nat) (s : State) : UpdR [.ctxs, .engines] s (execDescLoad core ctx q s) := by
  unfold execDescLoad
  repeat' first
    | intro _
    | with_reducible assumption
    | with_reducible exact Upd.refl _
    | (extract_lets -underBinder +onlyGivenNames x; (with_reducible refine UpdR.cut x ?_ ?_); rotate_left; (clear_value x; revert x; intro _ _); rotate_right; subst x)
    | (extract_lets -underBinder +onlyGivenNames x; (with_reducible refine Upd.cut x ?_ ?_); rotate_left; (clear_value x; revert x; intro _ _); rotate_right; subst x)
    | (extract_lets -underBinder +onlyGivenNames x; clear_value x; revert x; intro _)
    | with_reducible apply Upd.ite <;> intro _
    | with_reducible apply UpdR.ite <;> intro _
    | with_reducible apply UpdR.next
    | ((with_reducible apply Upd.go (putCtx_upd _ _ _)); rotate_left; exact rfl)
    | ((with_reducible apply Upd.go (loadSet_upd _ _ _ _ _)); rotate_left; exact rfl)
    | ((with_reducible apply Upd.go (displace_upd _ _ _ _)); rotate_left; exact rfl)
    | split

theorem startDesc_upd (g : Nat) (c : Nat) (q : Nat) (d : Desc) (s : State) : Upd [.regSpd, .ctxs, .engines, .spads, .sess] s (startDesc g
    c q d s) := by
  unfold startDesc
  repeat' first
    | intro _
    | with_reducible assumption
    | with_reducible exact Upd.refl _
    | (extract_lets -underBinder +onlyGivenNames x; (with_reducible refine Upd.cut x ?_ ?_); rotate_left; (clear_value x; revert x; intro _ _); rotate_right; subst x)
    | (extract_lets -underBinder +onlyGivenNames x; clear_value x; revert x; intro _)
    | with_reducible apply Upd.ite <;> intro _
    | with_reducible apply Upd.getD
    | ((with_reducible apply Upd.go (putCtx_upd _ _ _)); rotate_left; exact rfl)
    | ((with_reducible apply Upd.go (putEngine_upd _ _ _)); rotate_left; exact rfl)
    | ((with_reducible apply Upd.go (sbRegister_upd _ _ _ _ _ _)); rotate_left; exact rfl)
    | ((with_reducible apply Upd.go (cqReserve_upd _ _)); rotate_left; exact rfl)
    | split

theorem execDescStart_upd (core : Nat) (ctx : Nat) (q : Nat) (s : State) : UpdR [.regSpd, .ctxs, .engines, .spads, .sess] s (execDescStart
    core ctx q s) := by
  unfold execDescStart
  repeat' first
    | intro _
    | with_reducible assumption
    | with_reducible exact Upd.refl _
    | (extract_lets -underBinder +onlyGivenNames x; (with_reducible refine UpdR.cut x ?_ ?_); rotate_left; (clear_value x; revert x; intro _ _); rotate_right; subst x)
    | (extract_lets -underBinder +onlyGivenNames x; (with_reducible refine Upd.cut x ?_ ?_); rotate_left; (clear_value x; revert x; intro _ _); rotate_right; subst x)
    | (extract_lets -underBinder +onlyGivenNames x; clear_value x; revert x; intro _)
    | with_reducible apply Upd.ite <;> intro _
    | with_reducible apply UpdR.ite <;> intro _
    | with_reducible apply UpdR.next
    | ((with_reducible apply Upd.go (noteRefused_upd _ _ _ _)); rotate_left; exact rfl)
    | ((with_reducible apply Upd.go (startDesc_upd _ _ _ _ _)); rotate_left; exact rfl)
    | split

theorem takeDesc_upd (s : State) (g : Nat) (c : Nat) (q : Nat) (p : List Byte → Bool) : UpdOS [.regSpd, .ctxs, .engines, .spads, .sess] s
    (takeDesc s g c q p) := by
  unfold takeDesc
  repeat' first
    | intro _
    | with_reducible assumption
    | with_reducible exact Upd.refl _
    | (extract_lets -underBinder +onlyGivenNames x; (with_reducible refine UpdOS.cut x ?_ ?_); rotate_left; (clear_value x; revert x; intro _ _); rotate_right; subst x)
    | (extract_lets -underBinder +onlyGivenNames x; (with_reducible refine Upd.cut x ?_ ?_); rotate_left; (clear_value x; revert x; intro _ _); rotate_right; subst x)
    | (extract_lets -underBinder +onlyGivenNames x; clear_value x; revert x; intro _)
    | with_reducible apply Upd.ite <;> intro _
    | with_reducible apply UpdOS.ite <;> intro _
    | ((with_reducible apply Upd.go (startDesc_upd _ _ _ _ _)); rotate_left; exact rfl)
    | with_reducible exact UpdOS.none
    | with_reducible apply UpdOS.some
    | split

theorem plainDesc_upd (type : Nat) (g : Nat) (c : Nat) (q : Nat) (s : State) : Upd [.outbox, .regIrq, .regErr, .regSpd, .regFlt, .ctxs,
    .runs, .engines, .spads, .spad, .spadChk, .sess, .ceWins] s (plainDesc type g c q s) := by
  unfold plainDesc
  repeat' first
    | intro _
    | with_reducible assumption
    | with_reducible exact Upd.refl _
    | (extract_lets -underBinder +onlyGivenNames x; (with_reducible refine Upd.cut x ?_ ?_); rotate_left; (clear_value x; revert x; intro _ _); rotate_right; subst x)
    | (extract_lets -underBinder +onlyGivenNames x; clear_value x; revert x; intro _)
    | ((with_reducible apply Upd.go (endWork_upd _ _ _ _ _ _ _ _)); rotate_left; exact rfl)
    | ((with_reducible apply UpdOS.go (takeDesc_upd _ _ _ _ _)); rotate_left; exact rfl)
    | with_reducible exact UpdOS.none
    | with_reducible apply UpdOS.some
    | ((with_reducible apply UpdOS.of_eq); with_reducible assumption)
    | split

theorem execNop_upd (core : Nat) (ctx : Nat) (q : Nat) (s : State) : UpdR [.outbox, .regIrq, .regErr, .regSpd, .regFlt, .ctxs, .runs,
    .engines, .spads, .spad, .spadChk, .sess, .ceWins] s (execNop core ctx q s) := by
  unfold execNop
  repeat' first
    | intro _
    | with_reducible assumption
    | with_reducible exact Upd.refl _
    | with_reducible apply UpdR.next
    | ((with_reducible apply Upd.go (plainDesc_upd _ _ _ _ _)); rotate_left; exact rfl)

theorem execWait_upd (core : Nat) (ctx : Nat) (q : Nat) (s : State) : UpdR [.outbox, .regIrq, .regErr, .regSpd, .regFlt, .ctxs, .runs,
    .engines, .spads, .spad, .spadChk, .sess, .ceWins] s (execWait core ctx q s) := by
  unfold execWait
  repeat' first
    | intro _
    | with_reducible assumption
    | with_reducible exact Upd.refl _
    | with_reducible apply UpdR.next
    | ((with_reducible apply Upd.go (plainDesc_upd _ _ _ _ _)); rotate_left; exact rfl)

theorem execEnd_upd (core : Nat) (ctx : Nat) (q : Nat) (s : State) : UpdR [.outbox, .regIrq, .regErr, .regSpd, .regFlt, .ctxs, .runs,
    .engines, .spads, .spad, .spadChk, .sess, .ceWins] s (execEnd core ctx q s) := by
  unfold execEnd
  repeat' first
    | intro _
    | with_reducible assumption
    | with_reducible exact Upd.refl _
    | with_reducible apply UpdR.next
    | ((with_reducible apply Upd.go (plainDesc_upd _ _ _ _ _)); rotate_left; exact rfl)

theorem refuseBind_upd (g : Nat) (c : Nat) (s : State) : Upd [.ctxs, .spads] s (refuseBind g c s) := by
  unfold refuseBind
  repeat' first
    | intro _
    | with_reducible assumption
    | with_reducible exact Upd.refl _
    | (extract_lets -underBinder +onlyGivenNames x; (with_reducible refine Upd.cut x ?_ ?_); rotate_left; (clear_value x; revert x; intro _ _); rotate_right; subst x)
    | (extract_lets -underBinder +onlyGivenNames x; clear_value x; revert x; intro _)
    | with_reducible apply Upd.getD
    | ((with_reducible apply Upd.go (putCtx_upd _ _ _)); rotate_left; exact rfl)
    | ((with_reducible apply Upd.go (haltRun_upd _ _ _)); rotate_left; exact rfl)

theorem execCtxBind_upd (core : Nat) (ctx : Nat) (s : State) : UpdR [.outbox, .regIrq, .regErr, .regSpd, .regFlt, .floorAbove, .ctxs,
    .runs, .engines, .spads, .spad, .spadChk, .sess, .ceWins] s (execCtxBind core ctx s) := by
  unfold execCtxBind
  repeat' first
    | intro _
    | with_reducible assumption
    | with_reducible exact Upd.refl _
    | (extract_lets -underBinder +onlyGivenNames x; (with_reducible refine UpdR.cut x ?_ ?_); rotate_left; (clear_value x; revert x; intro _ _); rotate_right; subst x)
    | (extract_lets -underBinder +onlyGivenNames x; (with_reducible refine Upd.cut x ?_ ?_); rotate_left; (clear_value x; revert x; intro _ _); rotate_right; subst x)
    | (extract_lets -underBinder +onlyGivenNames x; clear_value x; revert x; intro _)
    | with_reducible apply Upd.ite <;> intro _
    | with_reducible apply UpdOS.ite <;> intro _
    | with_reducible apply UpdR.ite <;> intro _
    | with_reducible apply UpdR.next
    | with_reducible apply Upd.getD
    | ((with_reducible apply Upd.go (putCtx_upd _ _ _)); rotate_left; exact rfl)
    | ((with_reducible apply Upd.go (floorCheck_upd _)); rotate_left; exact rfl)
    | ((with_reducible apply Upd.go (endWork_upd _ _ _ _ _ _ _ _)); rotate_left; exact rfl)
    | ((with_reducible apply UpdOS.go (takeDesc_upd _ _ _ _ _)); rotate_left; exact rfl)
    | ((with_reducible apply Upd.go (refuseBind_upd _ _ _)); rotate_left; exact rfl)
    | with_reducible exact UpdOS.none
    | with_reducible apply UpdOS.some
    | ((with_reducible apply UpdOS.of_eq); with_reducible assumption)
    | split

theorem execEpochWait_upd (core : Nat) (ctx : Nat) (s : State) : UpdR [.outbox, .regIrq, .regErr, .regSpd, .regFlt, .ctxs, .runs,
    .engines, .spads, .spad, .spadChk, .sess, .ceWins] s (execEpochWait core ctx s) := by
  unfold execEpochWait
  repeat' first
    | intro _
    | with_reducible assumption
    | with_reducible exact Upd.refl _
    | (extract_lets -underBinder +onlyGivenNames x; (with_reducible refine UpdR.cut x ?_ ?_); rotate_left; (clear_value x; revert x; intro _ _); rotate_right; subst x)
    | (extract_lets -underBinder +onlyGivenNames x; (with_reducible refine Upd.cut x ?_ ?_); rotate_left; (clear_value x; revert x; intro _ _); rotate_right; subst x)
    | (extract_lets -underBinder +onlyGivenNames x; clear_value x; revert x; intro _)
    | with_reducible apply UpdR.next
    | ((with_reducible apply Upd.go (endWork_upd _ _ _ _ _ _ _ _)); rotate_left; exact rfl)
    | ((with_reducible apply UpdOS.go (takeDesc_upd _ _ _ _ _)); rotate_left; exact rfl)
    | with_reducible exact UpdOS.none
    | with_reducible apply UpdOS.some
    | ((with_reducible apply UpdOS.of_eq); with_reducible assumption)
    | split

theorem noteDone_upd (g : Nat) (q : Nat) (w : Work) (s : State) : Upd [.regEng, .regTmv, .regBkc] s (noteDone g q w s) := by
  unfold noteDone
  extract_lets p t
  refine Upd.ite (fun _ => ?_) fun _ => Upd.ite (fun _ => ?_) fun _ => Upd.ite (fun _ => ?_) fun _ => Upd.refl s
  · have h1 : Upd [.regEng, .regTmv, .regBkc] s (count p .engDescDone 1 s) := Upd.go (count_upd _ _ _ _) (Upd.refl s) rfl
    have hp : ∀ e ∈ [(exNV, Fld.engExcNv), (exOF, .engExcOf), (exUF, .engExcUf), (exNL, .engExcNl), (exSC, .engExcSc)],
        within [e.2.part] [.regEng, .regTmv, .regBkc] = true := by decide
    exact List.foldlRecOn _ _ h1 fun t ht e he => Upd.ite (fun _ => ht) fun _ => Upd.go (count_upd _ _ _ _) ht (hp e he)
  all_goals exact Upd.go (count_upd _ _ _ _) (Upd.refl s) rfl

theorem completeHead_upd (g : Nat) (c : Nat) (q : Nat) (w : Work) (st : DStat) (cycles : Nat) (s : State) : Upd [.outbox, .regEng,
    .regTmv, .regBkc, .regRng, .ctxs, .sess] s (completeHead g c q w st cycles s) := by
  unfold completeHead
  repeat' first
    | intro _
    | with_reducible assumption
    | with_reducible exact Upd.refl _
    | (extract_lets -underBinder +onlyGivenNames x; (with_reducible refine Upd.cut x ?_ ?_); rotate_left; (clear_value x; revert x; intro _ _); rotate_right; subst x)
    | (extract_lets -underBinder +onlyGivenNames x; clear_value x; revert x; intro _)
    | with_reducible apply Upd.ite <;> intro _
    | with_reducible apply Upd.getD
    | ((with_reducible apply Upd.go (putCtx_upd _ _ _)); rotate_left; exact rfl)
    | ((with_reducible apply Upd.go (cqReserve_upd _ _)); rotate_left; exact rfl)
    | ((with_reducible apply Upd.go (cqUnreserve_upd _ _)); rotate_left; exact rfl)
    | ((with_reducible apply Upd.go (cqWrite_upd _ _ _ _)); rotate_left; exact rfl)
    | ((with_reducible apply Upd.go (noteDone_upd _ _ _ _)); rotate_left; exact rfl)
    | split

theorem barrierDone_upd (g : Nat) (c : Nat) (q : Nat) (s : State) : Upd [.outbox, .regIrq, .regErr, .regEng, .regSpd, .regTmv, .regBkc,
    .regFlt, .regRng, .ctxs, .runs, .engines, .spads, .spad, .spadChk, .sess, .ceWins] s (barrierDone g c q s) := by
  unfold barrierDone
  repeat' first
    | intro _
    | with_reducible assumption
    | with_reducible exact Upd.refl _
    | (extract_lets -underBinder +onlyGivenNames x; (with_reducible refine Upd.cut x ?_ ?_); rotate_left; (clear_value x; revert x; intro _ _); rotate_right; subst x)
    | (extract_lets -underBinder +onlyGivenNames x; clear_value x; revert x; intro _)
    | with_reducible apply Upd.ite <;> intro _
    | ((with_reducible apply Upd.go (endWork_upd _ _ _ _ _ _ _ _)); rotate_left; exact rfl)
    | ((with_reducible apply Upd.go (startDesc_upd _ _ _ _ _)); rotate_left; exact rfl)
    | ((with_reducible apply Upd.go (completeHead_upd _ _ _ _ _ _ _)); rotate_left; exact rfl)
    | split

theorem execBarrier_upd (core : Nat) (ctx : Nat) (q : Nat) (s : State) : UpdR [.outbox, .regIrq, .regErr, .regEng, .regSpd, .regTmv,
    .regBkc, .regFlt, .regRng, .ctxs, .runs, .engines, .spads, .spad, .spadChk, .sess, .ceWins] s (execBarrier core ctx q s) := by
  unfold execBarrier
  repeat' first
    | intro _
    | with_reducible assumption
    | with_reducible exact Upd.refl _
    | ((with_reducible apply UpdS.snd); with_reducible assumption)
    | (extract_lets -underBinder +onlyGivenNames x; (with_reducible refine UpdR.cut x ?_ ?_); rotate_left; (clear_value x; revert x; intro _ _); rotate_right; subst x)
    | (extract_lets -underBinder +onlyGivenNames x; (with_reducible refine Upd.cut x ?_ ?_); rotate_left; (clear_value x; revert x; intro _ _); rotate_right; subst x)
    | (extract_lets -underBinder +onlyGivenNames x; clear_value x; revert x; intro _)
    | with_reducible apply Upd.ite <;> intro _
    | with_reducible apply UpdR.ite <;> intro _
    | with_reducible apply UpdR.next
    | with_reducible apply Upd.foldl
    | with_reducible apply UpdS.foldl
    | ((with_reducible apply UpdS.snd); with_reducible apply UpdS.foldl)
    | ((with_reducible apply Upd.go (putCtx_upd _ _ _)); rotate_left; exact rfl)
    | ((with_reducible apply Upd.go (barrierDone_upd _ _ _ _)); rotate_left; exact rfl)
    | with_reducible apply UpdS.mk
    | dsimp only
    | split

theorem execDescComplete_upd (core : Nat) (ctx : Nat) (q : Nat) (cycles : Nat) (s : State) : UpdR [.outbox, .regIrq, .regErr, .regEng,
    .regSpd, .regTmv, .regBkc, .regFlt, .regRng, .ctxs, .runs, .engines, .spads, .spad, .spadChk, .sess, .flights, .ceWins] s
    (execDescComplete core ctx q cycles s) := by
  unfold execDescComplete
  repeat' first
    | intro _
    | with_reducible assumption
    | with_reducible exact Upd.refl _
    | (extract_lets -underBinder +onlyGivenNames x; (with_reducible refine UpdR.cut x ?_ ?_); rotate_left; (clear_value x; revert x; intro _ _); rotate_right; subst x)
    | (extract_lets -underBinder +onlyGivenNames x; (with_reducible refine Upd.cut x ?_ ?_); rotate_left; (clear_value x; revert x; intro _ _); rotate_right; subst x)
    | (extract_lets -underBinder +onlyGivenNames x; clear_value x; revert x; intro _)
    | with_reducible apply Upd.ite <;> intro _
    | with_reducible apply UpdR.ite <;> intro _
    | with_reducible apply UpdR.next
    | with_reducible apply Upd.getD
    | ((with_reducible apply Upd.go (settleFlights_upd _)); rotate_left; exact rfl)
    | ((with_reducible apply Upd.go (completeHead_upd _ _ _ _ _ _ _)); rotate_left; exact rfl)
    | split

theorem execSbClaim_upd (core : Nat) (ctx : Nat) (q : Nat) (s : State) : UpdR [.regSpd, .spads] s (execSbClaim core ctx q s) := by
  unfold execSbClaim
  repeat' first
    | intro _
    | with_reducible assumption
    | with_reducible exact Upd.refl _
    | ((with_reducible apply UpdS.snd); with_reducible assumption)
    | (extract_lets -underBinder +onlyGivenNames x; (with_reducible refine UpdR.cut x ?_ ?_); rotate_left; (clear_value x; revert x; intro _ _); rotate_right; subst x)
    | (extract_lets -underBinder +onlyGivenNames x; (with_reducible refine Upd.cut x ?_ ?_); rotate_left; (clear_value x; revert x; intro _ _); rotate_right; subst x)
    | (extract_lets -underBinder +onlyGivenNames x; clear_value x; revert x; intro _)
    | with_reducible apply Upd.ite <;> intro _
    | with_reducible apply UpdR.ite <;> intro _
    | with_reducible apply UpdR.next
    | with_reducible apply Upd.foldl
    | with_reducible apply UpdS.foldl
    | ((with_reducible apply UpdS.snd); with_reducible apply UpdS.foldl)
    | ((with_reducible apply Upd.go (putSpad_upd _ _ _)); rotate_left; exact rfl)
    | ((with_reducible apply Upd.go (notePeak_upd _ _)); rotate_left; exact rfl)
    | with_reducible apply UpdS.mk
    | dsimp only
    | split

theorem execSbRelease_upd (core : Nat) (ctx : Nat) (q : Nat) (k : Nat) (i : Nat) (s : State) : UpdR [.outbox, .regIrq, .regErr, .regSpd,
    .regBkc, .regFlt, .ctxs, .runs, .engines, .spads, .spad, .spadChk, .flights, .ceWins] s (execSbRelease core ctx q k i s) := by
  unfold execSbRelease
  repeat' first
    | intro _
    | with_reducible assumption
    | with_reducible exact Upd.refl _
    | (extract_lets -underBinder +onlyGivenNames x; (with_reducible refine UpdR.cut x ?_ ?_); rotate_left; (clear_value x; revert x; intro _ _); rotate_right; subst x)
    | (extract_lets -underBinder +onlyGivenNames x; (with_reducible refine Upd.cut x ?_ ?_); rotate_left; (clear_value x; revert x; intro _ _); rotate_right; subst x)
    | (extract_lets -underBinder +onlyGivenNames x; clear_value x; revert x; intro _)
    | with_reducible apply Upd.ite <;> intro _
    | with_reducible apply UpdR.ite <;> intro _
    | with_reducible apply UpdR.next
    | ((with_reducible apply Upd.go (sbFree_upd _ _ _)); rotate_left; exact rfl)
    | ((with_reducible apply Upd.go (mapWork_upd _ _ _ _ _ _)); rotate_left; exact rfl)
    | ((with_reducible apply Upd.go (settleFlights_upd _)); rotate_left; exact rfl)
    | split

theorem hangDesc_upd (g : Nat) (c : Nat) (q : Nat) (d : Desc) (s : State) : Upd [.outbox, .regIrq, .regErr, .regSpd, .regFlt, .ctxs,
    .runs, .engines, .spads, .spad, .spadChk, .ceWins] s (hangDesc g c q d s) := by
  unfold hangDesc
  repeat' first
    | intro _
    | with_reducible assumption
    | with_reducible exact Upd.refl _
    | (extract_lets -underBinder +onlyGivenNames x; (with_reducible refine Upd.cut x ?_ ?_); rotate_left; (clear_value x; revert x; intro _ _); rotate_right; subst x)
    | (extract_lets -underBinder +onlyGivenNames x; clear_value x; revert x; intro _)
    | ((with_reducible apply Upd.go (putCtx_upd _ _ _)); rotate_left; exact rfl)
    | ((with_reducible apply Upd.go (endWork_upd _ _ _ _ _ _ _ _)); rotate_left; exact rfl)

theorem execWdogFire_upd (core : Nat) (ctx : Nat) (s : State) : UpdR [.outbox, .regIrq, .regErr, .regLdg, .regSerai, .regSpd, .regMcs,
    .regFlt, .ldgSeq, .ldgLost, .ctxs, .runs, .engines, .spads, .spad, .spadChk, .dram, .dramChk, .chans, .units, .snoop, .biWait,
    .ceWins, .servedBytes] s (execWdogFire core ctx s) := by
  unfold execWdogFire
  repeat' first
    | intro _
    | with_reducible assumption
    | with_reducible exact Upd.refl _
    | ((with_reducible apply UpdS.snd); with_reducible assumption)
    | (extract_lets -underBinder +onlyGivenNames x; (with_reducible refine UpdR.cut x ?_ ?_); rotate_left; (clear_value x; revert x; intro _ _); rotate_right; subst x)
    | (extract_lets -underBinder +onlyGivenNames x; (with_reducible refine Upd.cut x ?_ ?_); rotate_left; (clear_value x; revert x; intro _ _); rotate_right; subst x)
    | (extract_lets -underBinder +onlyGivenNames x; clear_value x; revert x; intro _)
    | with_reducible apply Upd.ite <;> intro _
    | with_reducible apply UpdR.ite <;> intro _
    | with_reducible apply UpdR.next
    | with_reducible apply Upd.foldl
    | with_reducible apply UpdS.foldl
    | ((with_reducible apply UpdS.snd); with_reducible apply UpdS.foldl)
    | ((with_reducible apply Upd.go (count_upd _ _ _ _)); rotate_left; exact rfl)
    | ((with_reducible apply Upd.go (raise_upd _ _ _)); rotate_left; exact rfl)
    | ((with_reducible apply Upd.go (ledger_upd _ _ _ _)); rotate_left; exact rfl)
    | ((with_reducible apply Upd.go (hangDesc_upd _ _ _ _ _)); rotate_left; exact rfl)
    | with_reducible apply UpdS.mk
    | dsimp only
    | split

end Sys2Proof.Machine
end

