-- ==== Sys2Proof/Laws/UpdSensors.lean ====
section
/-!
SUPPORT. What each operation of Machine/Sensors can change, and that it keeps the canonical form.
-/

namespace Sys2Proof.Machine

set_option maxRecDepth 4000
set_option linter.all false

theorem putSens_upd (i : Nat) (x : Sens) (s : State) : Upd [.sens] s (putSens i x s) := by
  unfold putSens
  repeat' first
    | intro _
    | with_reducible assumption
    | with_reducible exact Upd.refl _
    | (extract_lets -underBinder +onlyGivenNames x; (with_reducible refine Upd.cut x ?_ ?_); rotate_left; (clear_value x; revert x; intro _ _); rotate_right; subst x)
    | (extract_lets -underBinder +onlyGivenNames x; clear_value x; revert x; intro _)
    | with_reducible apply SMap.wf_set
    | with_reducible apply SMap.wf_mapv
    | with_reducible apply SMap.wf_filter
    | with_reducible exact SMap.wf_nil
    | (first | with_reducible exact State.Ok.sens (by assumption))
    | ((with_reducible apply Upd.set_sens); rotate_left; exact rfl)

end Sys2Proof.Machine
end

