-- ==== Sys2Proof/Laws/UpdMemCtl.lean ====
section
/-!
SUPPORT. What each operation of Machine/MemCtl can change, and that it keeps the canonical form.
-/

namespace Sys2Proof.Machine

set_option maxRecDepth 4000
set_option linter.all false

theorem scrubCol_upd (c : Nat) (s : State) : Upd [.outbox, .freeCtr, .regIrq, .regErr, .regLdg, .regBku, .regMcs, .regFlt, .ldgSeq,
    .ldgLost, .dram, .dramChk, .chans, .units, .flights, .snoop, .biWait, .ceWins, .servedBytes] s (scrubCol c s) := by
  unfold scrubCol
  repeat' first
    | intro _
    | with_reducible assumption
    | with_reducible exact Upd.refl _
    | (extract_lets -underBinder +onlyGivenNames x; (with_reducible refine Upd.cut x ?_ ?_); rotate_left; (clear_value x; revert x; intro _ _); rotate_right; subst x)
    | (extract_lets -underBinder +onlyGivenNames x; clear_value x; revert x; intro _)
    | with_reducible apply Upd.ite <;> intro _
    | ((with_reducible apply Upd.go (putChan_upd _ _ _)); rotate_left; exact rfl)
    | ((with_reducible apply Upd.go (access_upd _ _ _)); rotate_left; exact rfl)
    | ((with_reducible apply Upd.go (countRead_upd _ _ _)); rotate_left; exact rfl)
    | ((with_reducible apply Upd.go (readUe_upd _ _ _)); rotate_left; exact rfl)
    | split

theorem scrubStep_upd (ck : Nat) (s : State) : Upd [.outbox, .freeCtr, .regIrq, .regErr, .regLdg, .regBku, .regMcs, .regFlt, .ldgSeq,
    .ldgLost, .dram, .dramChk, .chans, .units, .flights, .snoop, .biWait, .ceWins, .servedBytes] s (scrubStep ck s) := by
  unfold scrubStep
  repeat' first
    | intro _
    | with_reducible assumption
    | with_reducible exact Upd.refl _
    | (extract_lets -underBinder +onlyGivenNames x; (with_reducible refine Upd.cut x ?_ ?_); rotate_left; (clear_value x; revert x; intro _ _); rotate_right; subst x)
    | (extract_lets -underBinder +onlyGivenNames x; clear_value x; revert x; intro _)
    | with_reducible apply Upd.ite <;> intro _
    | ((with_reducible apply Upd.go (counti_upd _ _ _ _ _)); rotate_left; exact rfl)
    | ((with_reducible apply Upd.go (putChan_upd _ _ _)); rotate_left; exact rfl)
    | ((with_reducible apply Upd.go (scrubCol_upd _ _)); rotate_left; exact rfl)

theorem serveRead_upd (ck : Nat) (r : RdReq) (s : State) : Upd [.outbox, .freeCtr, .regIrq, .regErr, .regLdg, .regBku, .regMcs, .regFlt,
    .ldgSeq, .ldgLost, .dram, .dramChk, .chans, .units, .flights, .snoop, .biWait, .ceWins, .servedBytes] s (serveRead ck r s) := by
  unfold serveRead
  repeat' first
    | intro _
    | with_reducible assumption
    | with_reducible exact Upd.refl _
    | ((with_reducible apply UpdS.snd); with_reducible assumption)
    | (extract_lets -underBinder +onlyGivenNames x; (with_reducible refine Upd.cut x ?_ ?_); rotate_left; (clear_value x; revert x; intro _ _); rotate_right; subst x)
    | (extract_lets -underBinder +onlyGivenNames x; (with_reducible refine Upd.cutSnd x ?_ ?_); rotate_left; (clear_value x; revert x; intro _ _); rotate_right; subst x)
    | (extract_lets -underBinder +onlyGivenNames x; clear_value x; revert x; intro _)
    | with_reducible apply Upd.ite <;> intro _
    | with_reducible apply UpdS.ite <;> intro _
    | ((with_reducible apply Upd.go (emit_upd _ _)); rotate_left; exact rfl)
    | ((with_reducible apply Upd.go (chargeAs_upd _ _ _ _ _)); rotate_left; exact rfl)
    | ((with_reducible apply Upd.goS (readColAt_upd _ _ _)); rotate_left; exact rfl)
    | ((with_reducible apply UpdS.go (readColAt_upd _ _ _)); rotate_left; exact rfl)
    | with_reducible apply readCols_upd
    | ((with_reducible apply Upd.go (noteIdle_upd _ _)); rotate_left; exact rfl)
    | ((with_reducible apply Upd.go (scrubStep_upd _ _)); rotate_left; exact rfl)
    | with_reducible apply UpdS.mk

theorem serveReads_upd (ck : Nat) (ax : Nat) (s : State) : Upd [.outbox, .freeCtr, .regIrq, .regErr, .regLdg, .regBku, .regMcs, .regFlt,
    .ldgSeq, .ldgLost, .dram, .dramChk, .chans, .units, .flights, .snoop, .biWait, .ceWins, .servedBytes] s (serveReads ck ax s) := by
  induction ax generalizing s with
  | zero =>
    unfold serveReads
    exact Upd.refl _
  | succ n ih =>
  unfold serveReads
  repeat' first
    | intro _
    | with_reducible assumption
    | ((with_reducible apply Upd.go (ih _)); rotate_left; exact rfl)
    | with_reducible exact Upd.refl _
    | (extract_lets -underBinder +onlyGivenNames x; (with_reducible refine Upd.cut x ?_ ?_); rotate_left; (clear_value x; revert x; intro _ _); rotate_right; subst x)
    | (extract_lets -underBinder +onlyGivenNames x; clear_value x; revert x; intro _)
    | with_reducible apply Upd.getD
    | ((with_reducible apply Upd.go (putChan_upd _ _ _)); rotate_left; exact rfl)
    | ((with_reducible apply Upd.go (serveRead_upd _ _ _)); rotate_left; exact rfl)
    | split

theorem issueWrite_upd (ck : Nat) (i : Nat) (s : State) : Upd [.outbox, .freeCtr, .regIrq, .regErr, .regLdg, .regBku, .regMcs, .regFlt,
    .ldgSeq, .ldgLost, .dram, .dramChk, .chans, .units, .flights, .snoop, .biWait, .ceWins, .servedBytes] s (issueWrite ck i s) := by
  unfold issueWrite
  repeat' first
    | intro _
    | with_reducible assumption
    | with_reducible exact Upd.refl _
    | (extract_lets -underBinder +onlyGivenNames x; (with_reducible refine Upd.cut x ?_ ?_); rotate_left; (clear_value x; revert x; intro _ _); rotate_right; subst x)
    | (extract_lets -underBinder +onlyGivenNames x; clear_value x; revert x; intro _)
    | with_reducible apply Upd.ite <;> intro _
    | with_reducible apply Upd.getD
    | ((with_reducible apply Upd.go (putChan_upd _ _ _)); rotate_left; exact rfl)
    | ((with_reducible apply Upd.go (sealCol_upd _ _ _)); rotate_left; exact rfl)
    | ((with_reducible apply Upd.go (access_upd _ _ _)); rotate_left; exact rfl)
    | ((with_reducible apply Upd.go (applyWrite_upd _ _)); rotate_left; exact rfl)

theorem drainTo_upd (keep : Nat) (ck : Nat) (ax : Nat) (s : State) : Upd [.outbox, .freeCtr, .regIrq, .regErr, .regLdg, .regBku, .regMcs,
    .regFlt, .ldgSeq, .ldgLost, .dram, .dramChk, .chans, .units, .flights, .snoop, .biWait, .ceWins, .servedBytes] s (drainTo keep ck ax
    s) := by
  induction ax generalizing s with
  | zero =>
    unfold drainTo
    exact Upd.refl _
  | succ n ih =>
  unfold drainTo
  repeat' first
    | intro _
    | with_reducible assumption
    | ((with_reducible apply Upd.go (ih _)); rotate_left; exact rfl)
    | with_reducible exact Upd.refl _
    | (extract_lets -underBinder +onlyGivenNames x; (with_reducible refine Upd.cut x ?_ ?_); rotate_left; (clear_value x; revert x; intro _ _); rotate_right; subst x)
    | (extract_lets -underBinder +onlyGivenNames x; clear_value x; revert x; intro _)
    | with_reducible apply Upd.ite <;> intro _
    | ((with_reducible apply Upd.go (issueWrite_upd _ _ _)); rotate_left; exact rfl)
    | split

theorem drainAll_upd (ck : Nat) (s : State) : Upd [.outbox, .freeCtr, .regIrq, .regErr, .regLdg, .regBku, .regMcs, .regFlt, .ldgSeq,
    .ldgLost, .dram, .dramChk, .chans, .units, .flights, .snoop, .biWait, .ceWins, .servedBytes] s (drainAll ck s) := by
  unfold drainAll
  repeat' first
    | intro _
    | with_reducible assumption
    | with_reducible exact Upd.refl _
    | ((with_reducible apply Upd.go (drainTo_upd _ _ _ _)); rotate_left; exact rfl)

theorem refreshed_upd (ck : Nat) (s : State) : Upd [.regMcs, .chans] s (refreshed ck s) := by
  unfold refreshed
  repeat' first
    | intro _
    | with_reducible assumption
    | with_reducible exact Upd.refl _
    | (extract_lets -underBinder +onlyGivenNames x; (with_reducible refine Upd.cut x ?_ ?_); rotate_left; (clear_value x; revert x; intro _ _); rotate_right; subst x)
    | (extract_lets -underBinder +onlyGivenNames x; clear_value x; revert x; intro _)
    | with_reducible apply Upd.ite <;> intro _
    | ((with_reducible apply Upd.go (counti_upd _ _ _ _ _)); rotate_left; exact rfl)
    | ((with_reducible apply Upd.go (count_upd _ _ _ _)); rotate_left; exact rfl)
    | ((with_reducible apply Upd.go (putChan_upd _ _ _)); rotate_left; exact rfl)

theorem refreshBank_upd (ck : Nat) (b : Nat) (s : State) : Upd [.chans] s (refreshBank ck b s) := by
  unfold refreshBank
  repeat' first
    | intro _
    | with_reducible assumption
    | with_reducible exact Upd.refl _
    | (extract_lets -underBinder +onlyGivenNames x; (with_reducible refine Upd.cut x ?_ ?_); rotate_left; (clear_value x; revert x; intro _ _); rotate_right; subst x)
    | (extract_lets -underBinder +onlyGivenNames x; clear_value x; revert x; intro _)
    | ((with_reducible apply Upd.go (noteCmd_upd _ _ _)); rotate_left; exact rfl)
    | ((with_reducible apply Upd.go (shutRows_upd _ _ _)); rotate_left; exact rfl)

theorem refreshNow_upd (ck : Nat) (s : State) : Upd [.regMcs, .chans] s (refreshNow ck s) := by
  unfold refreshNow
  repeat' first
    | intro _
    | with_reducible assumption
    | with_reducible exact Upd.refl _
    | (extract_lets -underBinder +onlyGivenNames x; (with_reducible refine Upd.cut x ?_ ?_); rotate_left; (clear_value x; revert x; intro _ _); rotate_right; subst x)
    | (extract_lets -underBinder +onlyGivenNames x; clear_value x; revert x; intro _)
    | with_reducible apply Upd.ite <;> intro _
    | with_reducible apply Upd.forUpto
    | ((with_reducible apply Upd.go (putChan_upd _ _ _)); rotate_left; exact rfl)
    | ((with_reducible apply Upd.go (noteCmd_upd _ _ _)); rotate_left; exact rfl)
    | ((with_reducible apply Upd.go (preAll_upd _ _)); rotate_left; exact rfl)
    | ((with_reducible apply Upd.go (refreshed_upd _ _)); rotate_left; exact rfl)
    | ((with_reducible apply Upd.go (refreshBank_upd _ _ _)); rotate_left; exact rfl)

theorem forceRefresh_upd (ck : Nat) (s : State) : Upd [.regMcs, .chans] s (forceRefresh ck s) := by
  unfold forceRefresh
  repeat' first
    | intro _
    | with_reducible assumption
    | with_reducible exact Upd.refl _
    | with_reducible apply Upd.ite <;> intro _
    | ((with_reducible apply Upd.go (refreshNow_upd _ _)); rotate_left; exact rfl)

theorem dueRefresh_upd (ck : Nat) (ax : Nat) (s : State) : Upd [.regMcs, .chans] s (dueRefresh ck ax s) := by
  induction ax generalizing s with
  | zero =>
    unfold dueRefresh
    exact Upd.refl _
  | succ n ih =>
  unfold dueRefresh
  repeat' first
    | intro _
    | with_reducible assumption
    | ((with_reducible apply Upd.go (ih _)); rotate_left; exact rfl)
    | with_reducible exact Upd.refl _
    | with_reducible apply Upd.ite <;> intro _
    | ((with_reducible apply Upd.go (refreshNow_upd _ _)); rotate_left; exact rfl)
    | split

theorem readRequest_upd (dpa : Nat) (len : Nat) (port : Nat) (s : State) : Upd [.outbox, .freeCtr, .regIrq, .regErr, .regLdg, .regBku,
    .regMcs, .regFlt, .ldgSeq, .ldgLost, .dram, .dramChk, .chans, .units, .flights, .snoop, .biWait, .ceWins, .servedBytes] s (readRequest
    dpa len port s) := by
  unfold readRequest
  repeat' first
    | intro _
    | with_reducible assumption
    | with_reducible exact Upd.refl _
    | (extract_lets -underBinder +onlyGivenNames x; (with_reducible refine Upd.cut x ?_ ?_); rotate_left; (clear_value x; revert x; intro _ _); rotate_right; subst x)
    | (extract_lets -underBinder +onlyGivenNames x; clear_value x; revert x; intro _)
    | with_reducible apply Upd.ite <;> intro _
    | ((with_reducible apply Upd.go (count_upd _ _ _ _)); rotate_left; exact rfl)
    | ((with_reducible apply Upd.go (putChan_upd _ _ _)); rotate_left; exact rfl)
    | ((with_reducible apply Upd.go (putLate_upd _ _ _)); rotate_left; exact rfl)
    | ((with_reducible apply Upd.go (serveRead_upd _ _ _)); rotate_left; exact rfl)

theorem writeRequest_upd (dpa : Nat) (data : List Byte) (port : Nat) (poison : Bool) (s : State) : Upd [.outbox, .freeCtr, .regIrq,
    .regErr, .regLdg, .regBku, .regMcs, .regFlt, .ldgSeq, .ldgLost, .dram, .dramChk, .chans, .units, .flights, .snoop, .biWait, .ceWins,
    .servedBytes] s (writeRequest dpa data port poison s) := by
  unfold writeRequest
  repeat' first
    | intro _
    | with_reducible assumption
    | with_reducible exact Upd.refl _
    | with_reducible apply Upd.ite <;> intro _
    | ((with_reducible apply Upd.go (putLate_upd _ _ _)); rotate_left; exact rfl)
    | ((with_reducible apply Upd.go (writeSpan_upd _ _ _ _ _)); rotate_left; exact rfl)

theorem serveLate_upd (ck : Nat) (s : State) : Upd [.outbox, .freeCtr, .regIrq, .regErr, .regLdg, .regBku, .regMcs, .regFlt, .ldgSeq,
    .ldgLost, .dram, .dramChk, .chans, .units, .flights, .snoop, .biWait, .ceWins, .servedBytes] s (serveLate ck s) := by
  unfold serveLate
  repeat' first
    | intro _
    | with_reducible assumption
    | with_reducible exact Upd.refl _
    | ((with_reducible apply UpdS.snd); with_reducible assumption)
    | (extract_lets -underBinder +onlyGivenNames x; (with_reducible refine Upd.cut x ?_ ?_); rotate_left; (clear_value x; revert x; intro _ _); rotate_right; subst x)
    | (extract_lets -underBinder +onlyGivenNames x; clear_value x; revert x; intro _)
    | with_reducible apply Upd.ite <;> intro _
    | with_reducible apply Upd.foldl
    | with_reducible apply UpdS.foldl
    | ((with_reducible apply UpdS.snd); with_reducible apply UpdS.foldl)
    | ((with_reducible apply Upd.go (putChan_upd _ _ _)); rotate_left; exact rfl)
    | ((with_reducible apply Upd.go (readRequest_upd _ _ _ _)); rotate_left; exact rfl)
    | ((with_reducible apply Upd.go (writeRequest_upd _ _ _ _ _)); rotate_left; exact rfl)
    | with_reducible apply UpdS.mk
    | dsimp only
    | split

theorem serveChan_upd (ck : Nat) (s : State) : Upd [.outbox, .freeCtr, .regIrq, .regErr, .regLdg, .regBku, .regMcs, .regFlt, .ldgSeq,
    .ldgLost, .dram, .dramChk, .chans, .units, .flights, .snoop, .biWait, .ceWins, .servedBytes] s (serveChan ck s) := by
  unfold serveChan
  repeat' first
    | intro _
    | with_reducible assumption
    | with_reducible exact Upd.refl _
    | (extract_lets -underBinder +onlyGivenNames x; (with_reducible refine Upd.cut x ?_ ?_); rotate_left; (clear_value x; revert x; intro _ _); rotate_right; subst x)
    | (extract_lets -underBinder +onlyGivenNames x; clear_value x; revert x; intro _)
    | with_reducible apply Upd.ite <;> intro _
    | ((with_reducible apply Upd.go (serveReads_upd _ _ _)); rotate_left; exact rfl)
    | ((with_reducible apply Upd.go (drainTo_upd _ _ _ _)); rotate_left; exact rfl)
    | ((with_reducible apply Upd.go (drainAll_upd _ _)); rotate_left; exact rfl)
    | ((with_reducible apply Upd.go (forceRefresh_upd _ _)); rotate_left; exact rfl)
    | ((with_reducible apply Upd.go (serveLate_upd _ _)); rotate_left; exact rfl)

theorem execMemReadRequest_upd (dpa : Nat) (len : Nat) (port : Nat) (s : State) : UpdR [.outbox, .freeCtr, .regIrq, .regErr, .regLdg,
    .regBku, .regMcs, .regFlt, .ldgSeq, .ldgLost, .dram, .dramChk, .chans, .units, .flights, .snoop, .biWait, .ceWins, .servedBytes] s
    (execMemReadRequest dpa len port s) := by
  unfold execMemReadRequest
  repeat' first
    | intro _
    | with_reducible assumption
    | with_reducible exact Upd.refl _
    | with_reducible apply Upd.ite <;> intro _
    | with_reducible apply UpdR.ite <;> intro _
    | with_reducible apply UpdR.next
    | ((with_reducible apply Upd.go (readRequest_upd _ _ _ _)); rotate_left; exact rfl)
    | split

theorem execMemWriteRequest_upd (dpa : Nat) (data : List Byte) (port : Nat) (poison : Bool) (s : State) : UpdR [.outbox, .freeCtr,
    .regIrq, .regErr, .regLdg, .regBku, .regMcs, .regFlt, .ldgSeq, .ldgLost, .dram, .dramChk, .chans, .units, .flights, .snoop, .biWait,
    .ceWins, .servedBytes] s (execMemWriteRequest dpa data port poison s) := by
  unfold execMemWriteRequest
  repeat' first
    | intro _
    | with_reducible assumption
    | with_reducible exact Upd.refl _
    | with_reducible apply Upd.ite <;> intro _
    | with_reducible apply UpdR.ite <;> intro _
    | with_reducible apply UpdR.next
    | ((with_reducible apply Upd.go (writeRequest_upd _ _ _ _ _)); rotate_left; exact rfl)
    | split

theorem execPartialMerge_upd (stack : Nat) (chan : Nat) (s : State) : UpdR [.outbox, .freeCtr, .regIrq, .regErr, .regLdg, .regBku,
    .regMcs, .regFlt, .ldgSeq, .ldgLost, .dram, .dramChk, .chans, .units, .flights, .snoop, .biWait, .ceWins, .servedBytes] s
    (execPartialMerge stack chan s) := by
  unfold execPartialMerge
  repeat' first
    | intro _
    | with_reducible assumption
    | with_reducible exact Upd.refl _
    | (extract_lets -underBinder +onlyGivenNames x; (with_reducible refine UpdR.cut x ?_ ?_); rotate_left; (clear_value x; revert x; intro _ _); rotate_right; subst x)
    | (extract_lets -underBinder +onlyGivenNames x; (with_reducible refine Upd.cut x ?_ ?_); rotate_left; (clear_value x; revert x; intro _ _); rotate_right; subst x)
    | (extract_lets -underBinder +onlyGivenNames x; clear_value x; revert x; intro _)
    | with_reducible apply UpdR.next
    | ((with_reducible apply Upd.go (issueWrite_upd _ _ _)); rotate_left; exact rfl)
    | split

theorem execWriteDrain_upd (stack : Nat) (chan : Nat) (s : State) : UpdR [.outbox, .freeCtr, .regIrq, .regErr, .regLdg, .regBku, .regMcs,
    .regFlt, .ldgSeq, .ldgLost, .dram, .dramChk, .chans, .units, .flights, .snoop, .biWait, .ceWins, .servedBytes] s (execWriteDrain stack
    chan s) := by
  unfold execWriteDrain
  repeat' first
    | intro _
    | with_reducible assumption
    | with_reducible exact Upd.refl _
    | (extract_lets -underBinder +onlyGivenNames x; (with_reducible refine UpdR.cut x ?_ ?_); rotate_left; (clear_value x; revert x; intro _ _); rotate_right; subst x)
    | (extract_lets -underBinder +onlyGivenNames x; (with_reducible refine Upd.cut x ?_ ?_); rotate_left; (clear_value x; revert x; intro _ _); rotate_right; subst x)
    | (extract_lets -underBinder +onlyGivenNames x; clear_value x; revert x; intro _)
    | with_reducible apply Upd.ite <;> intro _
    | with_reducible apply UpdR.ite <;> intro _
    | with_reducible apply UpdR.next
    | ((with_reducible apply Upd.go (drainTo_upd _ _ _ _)); rotate_left; exact rfl)
    | ((with_reducible apply Upd.go (serveLate_upd _ _)); rotate_left; exact rfl)

theorem execRefreshInterval_upd (stack : Nat) (chan : Nat) (expired : Nat) (s : State) : UpdR [.regMcs, .chans] s (execRefreshInterval
    stack chan expired s) := by
  unfold execRefreshInterval
  repeat' first
    | intro _
    | with_reducible assumption
    | with_reducible exact Upd.refl _
    | (extract_lets -underBinder +onlyGivenNames x; (with_reducible refine UpdR.cut x ?_ ?_); rotate_left; (clear_value x; revert x; intro _ _); rotate_right; subst x)
    | (extract_lets -underBinder +onlyGivenNames x; (with_reducible refine Upd.cut x ?_ ?_); rotate_left; (clear_value x; revert x; intro _ _); rotate_right; subst x)
    | (extract_lets -underBinder +onlyGivenNames x; clear_value x; revert x; intro _)
    | with_reducible apply Upd.ite <;> intro _
    | with_reducible apply UpdR.ite <;> intro _
    | with_reducible apply UpdR.next
    | ((with_reducible apply Upd.go (putChan_upd _ _ _)); rotate_left; exact rfl)
    | ((with_reducible apply Upd.go (forceRefresh_upd _ _)); rotate_left; exact rfl)

theorem execRefresh_upd (stack : Nat) (chan : Nat) (bank : Option Nat) (s : State) : UpdR [.regMcs, .chans] s (execRefresh stack chan bank
    s) := by
  unfold execRefresh
  repeat' first
    | intro _
    | with_reducible assumption
    | with_reducible exact Upd.refl _
    | (extract_lets -underBinder +onlyGivenNames x; (with_reducible refine UpdR.cut x ?_ ?_); rotate_left; (clear_value x; revert x; intro _ _); rotate_right; subst x)
    | (extract_lets -underBinder +onlyGivenNames x; (with_reducible refine Upd.cut x ?_ ?_); rotate_left; (clear_value x; revert x; intro _ _); rotate_right; subst x)
    | (extract_lets -underBinder +onlyGivenNames x; clear_value x; revert x; intro _)
    | with_reducible apply Upd.ite <;> intro _
    | with_reducible apply UpdR.ite <;> intro _
    | with_reducible apply UpdR.next
    | ((with_reducible apply Upd.go (putChan_upd _ _ _)); rotate_left; exact rfl)
    | ((with_reducible apply Upd.go (refreshed_upd _ _)); rotate_left; exact rfl)
    | ((with_reducible apply Upd.go (refreshBank_upd _ _ _)); rotate_left; exact rfl)
    | ((with_reducible apply Upd.go (refreshNow_upd _ _)); rotate_left; exact rfl)
    | split

theorem tryRecal_upd (ck : Nat) (s : State) : Upd [.regMcs, .chans] s (tryRecal ck s) := by
  unfold tryRecal
  repeat' first
    | intro _
    | with_reducible assumption
    | with_reducible exact Upd.refl _
    | (extract_lets -underBinder +onlyGivenNames x; (with_reducible refine Upd.cut x ?_ ?_); rotate_left; (clear_value x; revert x; intro _ _); rotate_right; subst x)
    | (extract_lets -underBinder +onlyGivenNames x; clear_value x; revert x; intro _)
    | with_reducible apply Upd.ite <;> intro _
    | ((with_reducible apply Upd.go (putChan_upd _ _ _)); rotate_left; exact rfl)
    | ((with_reducible apply Upd.go (dueRefresh_upd _ _ _)); rotate_left; exact rfl)
    | split

theorem tryRecals_upd (stack : Nat) (s : State) : Upd [.regMcs, .chans] s (tryRecals stack s) := by
  unfold tryRecals
  repeat' first
    | intro _
    | with_reducible assumption
    | with_reducible exact Upd.refl _
    | with_reducible apply Upd.forUpto
    | ((with_reducible apply Upd.go (tryRecal_upd _ _)); rotate_left; exact rfl)

theorem recalDue_upd (ck : Nat) (forced : Bool) (s : State) : Upd [.regMcs, .chans] s (recalDue ck forced s) := by
  unfold recalDue
  repeat' first
    | intro _
    | with_reducible assumption
    | with_reducible exact Upd.refl _
    | (extract_lets -underBinder +onlyGivenNames x; (with_reducible refine Upd.cut x ?_ ?_); rotate_left; (clear_value x; revert x; intro _ _); rotate_right; subst x)
    | (extract_lets -underBinder +onlyGivenNames x; clear_value x; revert x; intro _)
    | ((with_reducible apply Upd.go (putChan_upd _ _ _)); rotate_left; exact rfl)
    | ((with_reducible apply Upd.go (tryRecals_upd _ _)); rotate_left; exact rfl)
    | split

theorem execRecalDue_upd (stack : Nat) (chan : Nat) (s : State) : UpdR [.regMcs, .chans] s (execRecalDue stack chan s) := by
  unfold execRecalDue
  repeat' first
    | intro _
    | with_reducible assumption
    | with_reducible exact Upd.refl _
    | with_reducible apply Upd.ite <;> intro _
    | with_reducible apply UpdR.ite <;> intro _
    | with_reducible apply UpdR.next
    | ((with_reducible apply Upd.go (recalDue_upd _ _ _)); rotate_left; exact rfl)

theorem execRecalForced_upd (stack : Nat) (chan : Nat) (s : State) : UpdR [.regMcs, .chans] s (execRecalForced stack chan s) := by
  unfold execRecalForced
  repeat' first
    | intro _
    | with_reducible assumption
    | with_reducible exact Upd.refl _
    | (extract_lets -underBinder +onlyGivenNames x; (with_reducible refine UpdR.cut x ?_ ?_); rotate_left; (clear_value x; revert x; intro _ _); rotate_right; subst x)
    | (extract_lets -underBinder +onlyGivenNames x; (with_reducible refine Upd.cut x ?_ ?_); rotate_left; (clear_value x; revert x; intro _ _); rotate_right; subst x)
    | (extract_lets -underBinder +onlyGivenNames x; clear_value x; revert x; intro _)
    | with_reducible apply Upd.ite <;> intro _
    | with_reducible apply UpdR.ite <;> intro _
    | with_reducible apply UpdR.next
    | ((with_reducible apply Upd.go (recalDue_upd _ _ _)); rotate_left; exact rfl)

theorem execRecalDone_upd (stack : Nat) (chan : Nat) (s : State) : UpdR [.outbox, .freeCtr, .regIrq, .regErr, .regLdg, .regBku, .regMcs,
    .regFlt, .ldgSeq, .ldgLost, .dram, .dramChk, .chans, .units, .flights, .snoop, .biWait, .ceWins, .servedBytes] s (execRecalDone stack
    chan s) := by
  unfold execRecalDone
  repeat' first
    | intro _
    | with_reducible assumption
    | with_reducible exact Upd.refl _
    | (extract_lets -underBinder +onlyGivenNames x; (with_reducible refine UpdR.cut x ?_ ?_); rotate_left; (clear_value x; revert x; intro _ _); rotate_right; subst x)
    | (extract_lets -underBinder +onlyGivenNames x; (with_reducible refine Upd.cut x ?_ ?_); rotate_left; (clear_value x; revert x; intro _ _); rotate_right; subst x)
    | (extract_lets -underBinder +onlyGivenNames x; clear_value x; revert x; intro _)
    | with_reducible apply Upd.ite <;> intro _
    | with_reducible apply UpdR.ite <;> intro _
    | with_reducible apply UpdR.next
    | ((with_reducible apply Upd.go (counti_upd _ _ _ _ _)); rotate_left; exact rfl)
    | ((with_reducible apply Upd.go (putChan_upd _ _ _)); rotate_left; exact rfl)
    | ((with_reducible apply Upd.go (serveChan_upd _ _)); rotate_left; exact rfl)
    | ((with_reducible apply Upd.go (tryRecals_upd _ _)); rotate_left; exact rfl)
    | ((with_reducible apply Upd.go (recalDue_upd _ _ _)); rotate_left; exact rfl)

theorem legBoundary_upd (ck : Nat) (s : State) : Upd [.outbox, .freeCtr, .regIrq, .regErr, .regLdg, .regBku, .regMcs, .regFlt, .ldgSeq,
    .ldgLost, .dram, .dramChk, .chans, .units, .flights, .snoop, .biWait, .ceWins, .servedBytes] s (legBoundary ck s) := by
  unfold legBoundary
  repeat' first
    | intro _
    | with_reducible assumption
    | with_reducible exact Upd.refl _
    | (extract_lets -underBinder +onlyGivenNames x; (with_reducible refine Upd.cut x ?_ ?_); rotate_left; (clear_value x; revert x; intro _ _); rotate_right; subst x)
    | (extract_lets -underBinder +onlyGivenNames x; clear_value x; revert x; intro _)
    | with_reducible apply Upd.ite <;> intro _
    | ((with_reducible apply Upd.go (dueRefresh_upd _ _ _)); rotate_left; exact rfl)
    | ((with_reducible apply Upd.go (serveChan_upd _ _)); rotate_left; exact rfl)
    | ((with_reducible apply Upd.go (tryRecal_upd _ _)); rotate_left; exact rfl)
    | ((with_reducible apply Upd.go (tryRecals_upd _ _)); rotate_left; exact rfl)

theorem execTollgateRefill_upd (stack : Nat) (s : State) : UpdR [.outbox, .freeCtr, .regIrq, .regErr, .regLdg, .regBku, .regMcs, .regFlt,
    .ldgSeq, .ldgLost, .dram, .dramChk, .chans, .units, .flights, .snoop, .biWait, .ceWins, .servedBytes] s (execTollgateRefill stack s)
    := by
  unfold execTollgateRefill
  repeat' first
    | intro _
    | with_reducible assumption
    | with_reducible exact Upd.refl _
    | (extract_lets -underBinder +onlyGivenNames x; (with_reducible refine UpdR.cut x ?_ ?_); rotate_left; (clear_value x; revert x; intro _ _); rotate_right; subst x)
    | (extract_lets -underBinder +onlyGivenNames x; (with_reducible refine Upd.cut x ?_ ?_); rotate_left; (clear_value x; revert x; intro _ _); rotate_right; subst x)
    | (extract_lets -underBinder +onlyGivenNames x; clear_value x; revert x; intro _)
    | with_reducible apply Upd.ite <;> intro _
    | with_reducible apply UpdR.ite <;> intro _
    | with_reducible apply UpdR.next
    | with_reducible apply Upd.forUpto
    | ((with_reducible apply Upd.go (wri_upd _ _ _ _ _)); rotate_left; exact rfl)
    | ((with_reducible apply Upd.go (serveChan_upd _ _)); rotate_left; exact rfl)

theorem noteMiss_upd (ck : Nat) (before : Nat) (after : Nat) (s : State) : Upd [.outbox, .regIrq, .regMcs] s (noteMiss ck before after s)
    := by
  unfold noteMiss
  repeat' first
    | intro _
    | with_reducible assumption
    | with_reducible exact Upd.refl _
    | with_reducible apply Upd.ite <;> intro _
    | ((with_reducible apply Upd.go (count_upd _ _ _ _)); rotate_left; exact rfl)
    | ((with_reducible apply Upd.go (raise_upd _ _ _)); rotate_left; exact rfl)

theorem execRequestUrgency_upd (stack : Nat) (chan : Nat) (write : Bool) (pos : Nat) (age : Nat) (s : State) : UpdR [.outbox, .regIrq,
    .regMcs, .chans] s (execRequestUrgency stack chan write pos age s) := by
  unfold execRequestUrgency
  repeat' first
    | intro _
    | with_reducible assumption
    | with_reducible exact Upd.refl _
    | (extract_lets -underBinder +onlyGivenNames x; (with_reducible refine UpdR.cut x ?_ ?_); rotate_left; (clear_value x; revert x; intro _ _); rotate_right; subst x)
    | (extract_lets -underBinder +onlyGivenNames x; (with_reducible refine Upd.cut x ?_ ?_); rotate_left; (clear_value x; revert x; intro _ _); rotate_right; subst x)
    | (extract_lets -underBinder +onlyGivenNames x; clear_value x; revert x; intro _)
    | with_reducible apply Upd.ite <;> intro _
    | with_reducible apply UpdR.ite <;> intro _
    | with_reducible apply UpdR.next
    | ((with_reducible apply Upd.go (putChan_upd _ _ _)); rotate_left; exact rfl)
    | ((with_reducible apply Upd.go (noteMiss_upd _ _ _ _)); rotate_left; exact rfl)
    | split

theorem execCaParity_upd (stack : Nat) (chan : Nat) (bank : Nat) (row : Nat) (col : Nat) (s : State) : UpdR [.outbox, .freeCtr, .regIrq,
    .regErr, .regLdg, .regBku, .regMcs, .regFlt, .ldgSeq, .ldgLost, .dram, .dramChk, .chans, .units, .flights, .snoop, .biWait,
    .servedBytes] s (execCaParity stack chan bank row col s) := by
  unfold execCaParity
  repeat' first
    | intro _
    | with_reducible assumption
    | with_reducible exact Upd.refl _
    | with_reducible apply UpdR.next
    | ((with_reducible apply Upd.go (freeze_upd _ _ _ _ _ _ _ _)); rotate_left; exact rfl)

theorem execWcrcExhausted_upd (stack : Nat) (chan : Nat) (bank : Nat) (row : Nat) (col : Nat) (s : State) : UpdR [.outbox, .freeCtr,
    .regIrq, .regErr, .regLdg, .regBku, .regMcs, .regFlt, .ldgSeq, .ldgLost, .dram, .dramChk, .chans, .units, .flights, .snoop, .biWait,
    .servedBytes] s (execWcrcExhausted stack chan bank row col s) := by
  unfold execWcrcExhausted
  repeat' first
    | intro _
    | with_reducible assumption
    | with_reducible exact Upd.refl _
    | with_reducible apply UpdR.next
    | ((with_reducible apply Upd.go (freeze_upd _ _ _ _ _ _ _ _)); rotate_left; exact rfl)

theorem frzForce_upd (stack : Nat) (mask : Nat) (s : State) : Upd [.outbox, .freeCtr, .regIrq, .regErr, .regLdg, .regBku, .regMcs,
    .regFlt, .ldgSeq, .ldgLost, .dram, .dramChk, .chans, .units, .flights, .snoop, .biWait, .servedBytes] s (frzForce stack mask s) := by
  unfold frzForce
  repeat' first
    | intro _
    | with_reducible assumption
    | with_reducible exact Upd.refl _
    | with_reducible apply Upd.ite <;> intro _
    | with_reducible apply Upd.forUpto
    | ((with_reducible apply Upd.go (freeze_upd _ _ _ _ _ _ _ _)); rotate_left; exact rfl)

theorem execFrzForce_upd (stack : Nat) (mask : Nat) (s : State) : UpdR [.outbox, .freeCtr, .regIrq, .regErr, .regLdg, .regBku, .regMcs,
    .regFlt, .ldgSeq, .ldgLost, .dram, .dramChk, .chans, .units, .flights, .snoop, .biWait, .servedBytes] s (execFrzForce stack mask s) :=
    by
  unfold execFrzForce
  repeat' first
    | intro _
    | with_reducible assumption
    | with_reducible exact Upd.refl _
    | with_reducible apply UpdR.next
    | with_reducible apply hostWrites_upd
    | ((with_reducible apply Upd.go (frzForce_upd _ _ _)); rotate_left; exact rfl)

theorem payOwed_upd (ck : Nat) (s : State) : Upd [.outbox, .regIrq, .regErr, .regLdg, .regMcs, .regFlt, .ldgSeq, .ldgLost, .dram,
    .dramChk, .chans, .units, .snoop, .biWait, .servedBytes] s (payOwed ck s) := by
  unfold payOwed
  repeat' first
    | intro _
    | with_reducible assumption
    | with_reducible exact Upd.refl _
    | ((with_reducible apply UpdS.snd); with_reducible assumption)
    | (extract_lets -underBinder +onlyGivenNames x; (with_reducible refine Upd.cut x ?_ ?_); rotate_left; (clear_value x; revert x; intro _ _); rotate_right; subst x)
    | (extract_lets -underBinder +onlyGivenNames x; clear_value x; revert x; intro _)
    | with_reducible apply Upd.foldl
    | with_reducible apply UpdS.foldl
    | ((with_reducible apply UpdS.snd); with_reducible apply UpdS.foldl)
    | ((with_reducible apply Upd.go (putChan_upd _ _ _)); rotate_left; exact rfl)
    | ((with_reducible apply Upd.go (poisonCol_upd _ _ _)); rotate_left; exact rfl)
    | ((with_reducible apply Upd.go (access_upd _ _ _)); rotate_left; exact rfl)
    | ((with_reducible apply Upd.go (ledger_upd _ _ _ _)); rotate_left; exact rfl)
    | with_reducible apply UpdS.mk
    | dsimp only

theorem freezeBy_upd (f : FreezeCause) (stack : Nat) (s : State) : Upd [.outbox, .freeCtr, .regIrq, .regErr, .regLdg, .regBku, .regMcs,
    .regFlt, .ldgSeq, .ldgLost, .dram, .dramChk, .chans, .units, .flights, .snoop, .biWait, .servedBytes] s (freezeBy f stack s) := by
  unfold freezeBy
  repeat' first
    | intro _
    | with_reducible assumption
    | with_reducible exact Upd.refl _
    | (extract_lets -underBinder +onlyGivenNames x; (with_reducible refine Upd.cut x ?_ ?_); rotate_left; (clear_value x; revert x; intro _ _); rotate_right; subst x)
    | (extract_lets -underBinder +onlyGivenNames x; clear_value x; revert x; intro _)
    | with_reducible apply Upd.ite <;> intro _
    | ((with_reducible apply Upd.go (freeze_upd _ _ _ _ _ _ _ _)); rotate_left; exact rfl)
    | ((with_reducible apply Upd.go (readUe_upd _ _ _)); rotate_left; exact rfl)

theorem release_upd (ck : Nat) (again : Option FreezeCause) (s : State) : Upd [.outbox, .freeCtr, .regIrq, .regErr, .regLdg, .regBku,
    .regMcs, .regFlt, .ldgSeq, .ldgLost, .dram, .dramChk, .chans, .units, .flights, .snoop, .biWait, .ceWins, .servedBytes] s (release ck
    again s) := by
  unfold release
  repeat' first
    | intro _
    | with_reducible assumption
    | with_reducible exact Upd.refl _
    | (extract_lets -underBinder +onlyGivenNames x; (with_reducible refine Upd.cut x ?_ ?_); rotate_left; (clear_value x; revert x; intro _ _); rotate_right; subst x)
    | (extract_lets -underBinder +onlyGivenNames x; clear_value x; revert x; intro _)
    | with_reducible apply Upd.ite <;> intro _
    | ((with_reducible apply Upd.go (raise_upd _ _ _)); rotate_left; exact rfl)
    | ((with_reducible apply Upd.go (putChan_upd _ _ _)); rotate_left; exact rfl)
    | ((with_reducible apply Upd.go (ledger_upd _ _ _ _)); rotate_left; exact rfl)
    | ((with_reducible apply Upd.go (serveChan_upd _ _)); rotate_left; exact rfl)
    | ((with_reducible apply Upd.go (payOwed_upd _ _)); rotate_left; exact rfl)
    | ((with_reducible apply Upd.go (freezeBy_upd _ _ _)); rotate_left; exact rfl)
    | split

theorem frzRelease_upd (stack : Nat) (mask : Nat) (again : List FreezeCause) (s : State) : Upd [.outbox, .freeCtr, .regIrq, .regErr,
    .regLdg, .regBku, .regMcs, .regFlt, .ldgSeq, .ldgLost, .dram, .dramChk, .chans, .units, .flights, .snoop, .biWait, .ceWins,
    .servedBytes] s (frzRelease stack mask again s) := by
  unfold frzRelease
  repeat' first
    | intro _
    | with_reducible assumption
    | with_reducible exact Upd.refl _
    | with_reducible apply Upd.ite <;> intro _
    | with_reducible apply Upd.forUpto
    | ((with_reducible apply Upd.go (release_upd _ _ _)); rotate_left; exact rfl)

theorem execFrzRelease_upd (stack : Nat) (mask : Nat) (again : List FreezeCause) (s : State) : UpdR [.outbox, .freeCtr, .regIrq, .regErr,
    .regLdg, .regBku, .regMcs, .regFlt, .ldgSeq, .ldgLost, .dram, .dramChk, .chans, .units, .flights, .snoop, .biWait, .ceWins,
    .servedBytes] s (execFrzRelease stack mask again s) := by
  unfold execFrzRelease
  repeat' first
    | intro _
    | with_reducible assumption
    | with_reducible exact Upd.refl _
    | with_reducible apply UpdR.next
    | with_reducible apply hostWrites_upd
    | ((with_reducible apply Upd.go (frzRelease_upd _ _ _ _)); rotate_left; exact rfl)

theorem execFreezeAutoRelease_upd (stack : Nat) (chan : Nat) (again : Option FreezeCause) (s : State) : UpdR [.outbox, .freeCtr, .regIrq,
    .regErr, .regLdg, .regBku, .regMcs, .regFlt, .ldgSeq, .ldgLost, .dram, .dramChk, .chans, .units, .flights, .snoop, .biWait, .ceWins,
    .servedBytes] s (execFreezeAutoRelease stack chan again s) := by
  unfold execFreezeAutoRelease
  repeat' first
    | intro _
    | with_reducible assumption
    | with_reducible exact Upd.refl _
    | with_reducible apply Upd.ite <;> intro _
    | with_reducible apply UpdR.ite <;> intro _
    | with_reducible apply UpdR.next
    | ((with_reducible apply Upd.go (release_upd _ _ _)); rotate_left; exact rfl)
    | split

theorem execScrubRead_upd (stack : Nat) (chan : Nat) (s : State) : UpdR [.outbox, .freeCtr, .regIrq, .regErr, .regLdg, .regBku, .regMcs,
    .regFlt, .ldgSeq, .ldgLost, .dram, .dramChk, .chans, .units, .flights, .snoop, .biWait, .ceWins, .servedBytes] s (execScrubRead stack
    chan s) := by
  unfold execScrubRead
  repeat' first
    | intro _
    | with_reducible assumption
    | with_reducible exact Upd.refl _
    | (extract_lets -underBinder +onlyGivenNames x; (with_reducible refine UpdR.cut x ?_ ?_); rotate_left; (clear_value x; revert x; intro _ _); rotate_right; subst x)
    | (extract_lets -underBinder +onlyGivenNames x; (with_reducible refine Upd.cut x ?_ ?_); rotate_left; (clear_value x; revert x; intro _ _); rotate_right; subst x)
    | (extract_lets -underBinder +onlyGivenNames x; clear_value x; revert x; intro _)
    | with_reducible apply Upd.ite <;> intro _
    | with_reducible apply UpdR.ite <;> intro _
    | with_reducible apply UpdR.next
    | ((with_reducible apply Upd.go (scrubStep_upd _ _)); rotate_left; exact rfl)
    | split

theorem execScrubAgeLimit_upd (stack : Nat) (chan : Nat) (s : State) : UpdR [.outbox, .freeCtr, .regIrq, .regErr, .regLdg, .regBku,
    .regMcs, .regFlt, .ldgSeq, .ldgLost, .dram, .dramChk, .chans, .units, .flights, .snoop, .biWait, .ceWins, .servedBytes] s
    (execScrubAgeLimit stack chan s) := by
  unfold execScrubAgeLimit
  repeat' first
    | intro _
    | with_reducible assumption
    | with_reducible exact Upd.refl _
    | (extract_lets -underBinder +onlyGivenNames x; (with_reducible refine UpdR.cut x ?_ ?_); rotate_left; (clear_value x; revert x; intro _ _); rotate_right; subst x)
    | (extract_lets -underBinder +onlyGivenNames x; (with_reducible refine Upd.cut x ?_ ?_); rotate_left; (clear_value x; revert x; intro _ _); rotate_right; subst x)
    | (extract_lets -underBinder +onlyGivenNames x; clear_value x; revert x; intro _)
    | with_reducible apply Upd.ite <;> intro _
    | with_reducible apply UpdR.ite <;> intro _
    | with_reducible apply UpdR.next
    | ((with_reducible apply Upd.go (putChan_upd _ _ _)); rotate_left; exact rfl)
    | ((with_reducible apply Upd.go (serveReads_upd _ _ _)); rotate_left; exact rfl)

theorem execScrubWriteback_upd (stack : Nat) (chan : Nat) (s : State) : UpdR [.chans] s (execScrubWriteback stack chan s) := by
  unfold execScrubWriteback
  repeat' first
    | intro _
    | with_reducible assumption
    | with_reducible exact Upd.refl _
    | (extract_lets -underBinder +onlyGivenNames x; (with_reducible refine UpdR.cut x ?_ ?_); rotate_left; (clear_value x; revert x; intro _ _); rotate_right; subst x)
    | (extract_lets -underBinder +onlyGivenNames x; (with_reducible refine Upd.cut x ?_ ?_); rotate_left; (clear_value x; revert x; intro _ _); rotate_right; subst x)
    | (extract_lets -underBinder +onlyGivenNames x; clear_value x; revert x; intro _)
    | with_reducible apply Upd.ite <;> intro _
    | with_reducible apply UpdR.ite <;> intro _
    | with_reducible apply UpdR.next
    | ((with_reducible apply Upd.go (putChan_upd _ _ _)); rotate_left; exact rfl)
    | split

theorem repairGo_upd (s : State) : Upd [.outbox, .regIrq, .regErr, .regLdg, .regMcs, .regFlt, .ldgSeq, .ldgLost, .dram, .dramChk, .chans,
    .units, .snoop, .biWait, .servedBytes] s (repairGo s) := by
  unfold repairGo
  repeat' first
    | intro _
    | with_reducible assumption
    | with_reducible exact Upd.refl _
    | (extract_lets -underBinder +onlyGivenNames x; (with_reducible refine Upd.cut x ?_ ?_); rotate_left; (clear_value x; revert x; intro _ _); rotate_right; subst x)
    | (extract_lets -underBinder +onlyGivenNames x; clear_value x; revert x; intro _)
    | with_reducible apply Upd.ite <;> intro _
    | ((with_reducible apply Upd.go (candidate_upd _ _ _)); rotate_left; exact rfl)
    | split

theorem execRepairGo_upd (s : State) : UpdR [.outbox, .regIrq, .regErr, .regLdg, .regMcs, .regFlt, .ldgSeq, .ldgLost, .dram, .dramChk,
    .chans, .units, .snoop, .biWait, .servedBytes] s (execRepairGo s) := by
  unfold execRepairGo
  repeat' first
    | intro _
    | with_reducible assumption
    | with_reducible exact Upd.refl _
    | with_reducible apply UpdR.next
    | ((with_reducible apply Upd.go (repairGo_upd _)); rotate_left; exact rfl)

theorem repairCol_upd (c : Nat) (s : State) : Upd [.outbox, .regIrq, .regErr, .regLdg, .regMcs, .regFlt, .ldgSeq, .ldgLost, .dram,
    .dramChk, .chans, .units, .snoop, .biWait, .ceWins, .servedBytes] s (repairCol c s) := by
  unfold repairCol
  repeat' first
    | intro _
    | with_reducible assumption
    | with_reducible exact Upd.refl _
    | (extract_lets -underBinder +onlyGivenNames x; (with_reducible refine Upd.cut x ?_ ?_); rotate_left; (clear_value x; revert x; intro _ _); rotate_right; subst x)
    | (extract_lets -underBinder +onlyGivenNames x; clear_value x; revert x; intro _)
    | ((with_reducible apply Upd.go (sealCol_upd _ _ _)); rotate_left; exact rfl)
    | ((with_reducible apply Upd.go (poisonCol_upd _ _ _)); rotate_left; exact rfl)
    | ((with_reducible apply Upd.go (staleCol_upd _ _)); rotate_left; exact rfl)
    | ((with_reducible apply Upd.go (access_upd _ _ _)); rotate_left; exact rfl)
    | ((with_reducible apply Upd.go (countRead_upd _ _ _)); rotate_left; exact rfl)
    | split

theorem logRepair_upd (key : Nat) (s : State) : Upd [.outbox, .regIrq, .repairLog] s (logRepair key s) := by
  unfold logRepair
  repeat' first
    | intro _
    | with_reducible assumption
    | with_reducible exact Upd.refl _
    | (extract_lets -underBinder +onlyGivenNames x; (with_reducible refine Upd.cut x ?_ ?_); rotate_left; (clear_value x; revert x; intro _ _); rotate_right; subst x)
    | (extract_lets -underBinder +onlyGivenNames x; clear_value x; revert x; intro _)
    | with_reducible apply Upd.ite <;> intro _
    | ((with_reducible apply Upd.go (raise_upd _ _ _)); rotate_left; exact rfl)
    | ((with_reducible apply Upd.set_repairLog); rotate_left; exact rfl)

theorem repairRow_upd (key : Nat) (s : State) : Upd [.outbox, .regIrq, .regErr, .regLdg, .regMcs, .regFlt, .ldgSeq, .ldgLost, .dram,
    .dramChk, .chans, .units, .snoop, .biWait, .ceWins, .remaps, .repairLog, .servedBytes] s (repairRow key s) := by
  unfold repairRow
  repeat' first
    | intro _
    | with_reducible assumption
    | with_reducible exact Upd.refl _
    | (extract_lets -underBinder +onlyGivenNames x; (with_reducible refine Upd.cut x ?_ ?_); rotate_left; (clear_value x; revert x; intro _ _); rotate_right; subst x)
    | (extract_lets -underBinder +onlyGivenNames x; clear_value x; revert x; intro _)
    | with_reducible apply Upd.forUpto
    | ((with_reducible apply Upd.go (counti_upd _ _ _ _ _)); rotate_left; exact rfl)
    | ((with_reducible apply Upd.go (putChan_upd _ _ _)); rotate_left; exact rfl)
    | ((with_reducible apply Upd.go (ledger_upd _ _ _ _)); rotate_left; exact rfl)
    | ((with_reducible apply Upd.go (repairCol_upd _ _)); rotate_left; exact rfl)
    | ((with_reducible apply Upd.go (logRepair_upd _ _)); rotate_left; exact rfl)
    | ((with_reducible apply Upd.set_remaps); rotate_left; exact rfl)

theorem execRowRepair_upd (stack : Nat) (chan : Nat) (s : State) : UpdR [.outbox, .regIrq, .regErr, .regLdg, .regMcs, .regFlt, .ldgSeq,
    .ldgLost, .dram, .dramChk, .chans, .units, .snoop, .biWait, .ceWins, .remaps, .repairLog, .servedBytes] s (execRowRepair stack chan s)
    := by
  unfold execRowRepair
  repeat' first
    | intro _
    | with_reducible assumption
    | with_reducible exact Upd.refl _
    | (extract_lets -underBinder +onlyGivenNames x; (with_reducible refine UpdR.cut x ?_ ?_); rotate_left; (clear_value x; revert x; intro _ _); rotate_right; subst x)
    | (extract_lets -underBinder +onlyGivenNames x; (with_reducible refine Upd.cut x ?_ ?_); rotate_left; (clear_value x; revert x; intro _ _); rotate_right; subst x)
    | (extract_lets -underBinder +onlyGivenNames x; clear_value x; revert x; intro _)
    | with_reducible apply Upd.ite <;> intro _
    | with_reducible apply UpdR.ite <;> intro _
    | with_reducible apply UpdR.next
    | ((with_reducible apply Upd.go (putChan_upd _ _ _)); rotate_left; exact rfl)
    | ((with_reducible apply Upd.go (candidate_upd _ _ _)); rotate_left; exact rfl)
    | ((with_reducible apply Upd.go (repairRow_upd _ _)); rotate_left; exact rfl)
    | split

theorem execRepairWaitExpire_upd (stack : Nat) (chan : Nat) (s : State) : UpdR [.chans] s (execRepairWaitExpire stack chan s) := by
  unfold execRepairWaitExpire
  repeat' first
    | intro _
    | with_reducible assumption
    | with_reducible exact Upd.refl _
    | (extract_lets -underBinder +onlyGivenNames x; (with_reducible refine UpdR.cut x ?_ ?_); rotate_left; (clear_value x; revert x; intro _ _); rotate_right; subst x)
    | (extract_lets -underBinder +onlyGivenNames x; (with_reducible refine Upd.cut x ?_ ?_); rotate_left; (clear_value x; revert x; intro _ _); rotate_right; subst x)
    | (extract_lets -underBinder +onlyGivenNames x; clear_value x; revert x; intro _)
    | with_reducible apply Upd.ite <;> intro _
    | with_reducible apply UpdR.ite <;> intro _
    | with_reducible apply UpdR.next
    | ((with_reducible apply Upd.go (putChan_upd _ _ _)); rotate_left; exact rfl)

theorem execCeWindowExpire_upd (page : Nat) (s : State) : UpdR [.ceWins] s (execCeWindowExpire page s) := by
  unfold execCeWindowExpire
  repeat' first
    | intro _
    | with_reducible assumption
    | with_reducible exact Upd.refl _
    | (extract_lets -underBinder +onlyGivenNames x; (with_reducible refine UpdR.cut x ?_ ?_); rotate_left; (clear_value x; revert x; intro _ _); rotate_right; subst x)
    | (extract_lets -underBinder +onlyGivenNames x; (with_reducible refine Upd.cut x ?_ ?_); rotate_left; (clear_value x; revert x; intro _ _); rotate_right; subst x)
    | (extract_lets -underBinder +onlyGivenNames x; clear_value x; revert x; intro _)
    | with_reducible apply UpdR.next
    | with_reducible apply SMap.wf_set
    | with_reducible apply SMap.wf_mapv
    | with_reducible apply SMap.wf_filter
    | with_reducible exact SMap.wf_nil
    | (first | with_reducible exact State.Ok.ceWins (by assumption))
    | ((with_reducible apply Upd.set_ceWins); rotate_left; exact rfl)

theorem testMode_upd (m : Nat) (s : State) : Upd [.outbox, .freeCtr, .regIrq, .regErr, .regLdg, .regBku, .regMcs, .regFlt, .ldgSeq,
    .ldgLost, .dram, .dramChk, .chans, .units, .flights, .snoop, .biWait, .ceWins, .servedBytes] s (testMode m s) := by
  unfold testMode
  repeat' first
    | intro _
    | with_reducible assumption
    | with_reducible exact Upd.refl _
    | (extract_lets -underBinder +onlyGivenNames x; (with_reducible refine Upd.cut x ?_ ?_); rotate_left; (clear_value x; revert x; intro _ _); rotate_right; subst x)
    | (extract_lets -underBinder +onlyGivenNames x; clear_value x; revert x; intro _)
    | with_reducible apply Upd.ite <;> intro _
    | ((with_reducible apply Upd.go (wri_upd _ _ _ _ _)); rotate_left; exact rfl)
    | ((with_reducible apply Upd.go (serveChan_upd _ _)); rotate_left; exact rfl)
    | (generalize unitAt _ = u; split)
    | split

theorem execTestModeOff_upd (s : State) : UpdR [.outbox, .freeCtr, .regIrq, .regErr, .regLdg, .regBku, .regMcs, .regFlt, .ldgSeq,
    .ldgLost, .dram, .dramChk, .chans, .units, .flights, .snoop, .biWait, .ceWins, .servedBytes] s (execTestModeOff s) := by
  unfold execTestModeOff
  repeat' first
    | intro _
    | with_reducible assumption
    | with_reducible exact Upd.refl _
    | with_reducible apply UpdR.next
    | ((with_reducible apply Upd.go (testMode_upd _ _)); rotate_left; exact rfl)

theorem execDataOnly_upd (s : State) : UpdR [.outbox, .freeCtr, .regIrq, .regErr, .regLdg, .regBku, .regMcs, .regFlt, .ldgSeq, .ldgLost,
    .dram, .dramChk, .chans, .units, .flights, .snoop, .biWait, .ceWins, .servedBytes] s (execDataOnly s) := by
  unfold execDataOnly
  repeat' first
    | intro _
    | with_reducible assumption
    | with_reducible exact Upd.refl _
    | with_reducible apply UpdR.next
    | ((with_reducible apply Upd.go (testMode_upd _ _)); rotate_left; exact rfl)

theorem execChkOnly_upd (s : State) : UpdR [.outbox, .freeCtr, .regIrq, .regErr, .regLdg, .regBku, .regMcs, .regFlt, .ldgSeq, .ldgLost,
    .dram, .dramChk, .chans, .units, .flights, .snoop, .biWait, .ceWins, .servedBytes] s (execChkOnly s) := by
  unfold execChkOnly
  repeat' first
    | intro _
    | with_reducible assumption
    | with_reducible exact Upd.refl _
    | with_reducible apply UpdR.next
    | ((with_reducible apply Upd.go (testMode_upd _ _)); rotate_left; exact rfl)

theorem execRawRead_upd (s : State) : UpdR [.outbox, .freeCtr, .regIrq, .regErr, .regLdg, .regBku, .regMcs, .regFlt, .ldgSeq, .ldgLost,
    .dram, .dramChk, .chans, .units, .flights, .snoop, .biWait, .ceWins, .servedBytes] s (execRawRead s) := by
  unfold execRawRead
  repeat' first
    | intro _
    | with_reducible assumption
    | with_reducible exact Upd.refl _
    | with_reducible apply UpdR.next
    | ((with_reducible apply Upd.go (testMode_upd _ _)); rotate_left; exact rfl)

end Sys2Proof.Machine
end

