-- ==== Sys2Proof/Laws/UpdMxe.lean ====
section
/-!
SUPPORT. What each operation of Machine/Mxe can change, and that it keeps the canonical form.
-/

namespace Sys2Proof.Machine

set_option maxRecDepth 4000
set_option linter.all false

theorem readA_upd (g : Nat) (x : MmBody) (c : Ctx) (sc : Nat) (ftz : Bool) (b : Nat) (m : Nat) (s : State) : UpdS [.outbox, .freeCtr,
    .regIrq, .regErr, .regFlt, .spads, .ceWins] s (readA g x c sc ftz b m s) := by
  unfold readA
  repeat' first
    | intro _
    | with_reducible assumption
    | with_reducible exact Upd.refl _
    | ((with_reducible apply UpdS.snd); with_reducible assumption)
    | (extract_lets -underBinder +onlyGivenNames x; (with_reducible refine UpdS.cut x ?_ ?_); rotate_left; (clear_value x; revert x; intro _ _); rotate_right; subst x)
    | (extract_lets -underBinder +onlyGivenNames x; (with_reducible refine Upd.cut x ?_ ?_); rotate_left; (clear_value x; revert x; intro _ _); rotate_right; subst x)
    | (extract_lets -underBinder +onlyGivenNames x; (with_reducible refine UpdS.cutSnd x ?_ ?_); rotate_left; (clear_value x; revert x; intro _ _); rotate_right; subst x)
    | (extract_lets -underBinder +onlyGivenNames x; (with_reducible refine Upd.cutSnd x ?_ ?_); rotate_left; (clear_value x; revert x; intro _ _); rotate_right; subst x)
    | (extract_lets -underBinder +onlyGivenNames x; clear_value x; revert x; intro _)
    | with_reducible apply Upd.foldl
    | with_reducible apply UpdS.foldl
    | ((with_reducible apply UpdS.snd); with_reducible apply UpdS.foldl)
    | ((with_reducible apply Upd.goS (readRow_upd _ _ _ _ _ _ _)); rotate_left; exact rfl)
    | ((with_reducible apply UpdS.go (readRow_upd _ _ _ _ _ _ _)); rotate_left; exact rfl)
    | with_reducible apply UpdS.mk
    | dsimp only

theorem readB_upd (g : Nat) (x : MmBody) (c : Ctx) (sc : Nat) (ftz : Bool) (b : Nat) (n0 : Nat) (nn : Nat) (s : State) : UpdS [.outbox,
    .freeCtr, .regIrq, .regErr, .regFlt, .spads, .ceWins] s (readB g x c sc ftz b n0 nn s) := by
  unfold readB
  repeat' first
    | intro _
    | with_reducible assumption
    | with_reducible exact Upd.refl _
    | ((with_reducible apply UpdS.snd); with_reducible assumption)
    | (extract_lets -underBinder +onlyGivenNames x; (with_reducible refine UpdS.cut x ?_ ?_); rotate_left; (clear_value x; revert x; intro _ _); rotate_right; subst x)
    | (extract_lets -underBinder +onlyGivenNames x; (with_reducible refine Upd.cut x ?_ ?_); rotate_left; (clear_value x; revert x; intro _ _); rotate_right; subst x)
    | (extract_lets -underBinder +onlyGivenNames x; (with_reducible refine UpdS.cutSnd x ?_ ?_); rotate_left; (clear_value x; revert x; intro _ _); rotate_right; subst x)
    | (extract_lets -underBinder +onlyGivenNames x; (with_reducible refine Upd.cutSnd x ?_ ?_); rotate_left; (clear_value x; revert x; intro _ _); rotate_right; subst x)
    | (extract_lets -underBinder +onlyGivenNames x; clear_value x; revert x; intro _)
    | with_reducible apply Upd.ite <;> intro _
    | with_reducible apply UpdS.ite <;> intro _
    | with_reducible apply Upd.foldl
    | with_reducible apply UpdS.foldl
    | ((with_reducible apply UpdS.snd); with_reducible apply UpdS.foldl)
    | with_reducible apply Upd.getD
    | with_reducible apply UpdS.mapState
    | ((with_reducible apply Upd.goS (readRow_upd _ _ _ _ _ _ _)); rotate_left; exact rfl)
    | ((with_reducible apply UpdS.go (readRow_upd _ _ _ _ _ _ _)); rotate_left; exact rfl)
    | with_reducible apply UpdS.mk
    | dsimp only
    | split

theorem mmCRow_upd (g : Nat) (x : MmBody) (at_ : Nat) (scC : Nat) (ar : Arith) (arow : MmRow) (cols : List MmRow) (ini : List Elem) (scl :
    Option (List Elem)) (bias : Option (List Elem)) (s : State) : UpdS [.outbox, .regIrq, .regErr, .regSpd, .regFlt, .spads, .spad,
    .spadChk, .ceWins] s (mmCRow g x at_ scC ar arow cols ini scl bias s) := by
  unfold mmCRow
  repeat' first
    | intro _
    | with_reducible assumption
    | with_reducible exact Upd.refl _
    | ((with_reducible apply UpdS.snd); with_reducible assumption)
    | (extract_lets -underBinder +onlyGivenNames x; (with_reducible refine UpdS.cut x ?_ ?_); rotate_left; (clear_value x; revert x; intro _ _); rotate_right; subst x)
    | (extract_lets -underBinder +onlyGivenNames x; (with_reducible refine Upd.cut x ?_ ?_); rotate_left; (clear_value x; revert x; intro _ _); rotate_right; subst x)
    | (extract_lets -underBinder +onlyGivenNames x; (with_reducible refine UpdS.cutSnd x ?_ ?_); rotate_left; (clear_value x; revert x; intro _ _); rotate_right; subst x)
    | (extract_lets -underBinder +onlyGivenNames x; (with_reducible refine Upd.cutSnd x ?_ ?_); rotate_left; (clear_value x; revert x; intro _ _); rotate_right; subst x)
    | (extract_lets -underBinder +onlyGivenNames x; clear_value x; revert x; intro _)
    | with_reducible apply Upd.ite <;> intro _
    | with_reducible apply UpdS.ite <;> intro _
    | with_reducible apply Upd.foldl
    | with_reducible apply UpdS.foldl
    | ((with_reducible apply UpdS.snd); with_reducible apply UpdS.foldl)
    | with_reducible apply Upd.getD
    | ((with_reducible apply Upd.goS (writeRow_upd _ _ _ _ _ _ _ _)); rotate_left; exact rfl)
    | ((with_reducible apply UpdS.go (writeRow_upd _ _ _ _ _ _ _ _)); rotate_left; exact rfl)
    | with_reducible apply UpdS.mk
    | dsimp only
    | split

theorem mmTile_upd (g : Nat) (img : List Byte) (x : MmBody) (c : Ctx) (ar : Arith) (scl : Option (List Elem)) (bias : Option (List Elem))
    (b : Nat) (m0 : Nat) (n0 : Nat) (s : State) : UpdS [.outbox, .freeCtr, .regIrq, .regErr, .regSpd, .regFlt, .spads, .spad, .spadChk,
    .ceWins] s (mmTile g img x c ar scl bias b m0 n0 s) := by
  unfold mmTile
  repeat' first
    | intro _
    | with_reducible assumption
    | with_reducible exact Upd.refl _
    | ((with_reducible apply UpdS.snd); with_reducible assumption)
    | (extract_lets -underBinder +onlyGivenNames x; (with_reducible refine UpdS.cut x ?_ ?_); rotate_left; (clear_value x; revert x; intro _ _); rotate_right; subst x)
    | (extract_lets -underBinder +onlyGivenNames x; (with_reducible refine Upd.cut x ?_ ?_); rotate_left; (clear_value x; revert x; intro _ _); rotate_right; subst x)
    | (extract_lets -underBinder +onlyGivenNames x; (with_reducible refine UpdS.cutSnd x ?_ ?_); rotate_left; (clear_value x; revert x; intro _ _); rotate_right; subst x)
    | (extract_lets -underBinder +onlyGivenNames x; (with_reducible refine Upd.cutSnd x ?_ ?_); rotate_left; (clear_value x; revert x; intro _ _); rotate_right; subst x)
    | (extract_lets -underBinder +onlyGivenNames x; (with_reducible refine isFn x ?_); subst x)
    | (extract_lets -underBinder +onlyGivenNames x; clear_value x; revert x; intro _)
    | with_reducible apply Upd.ite <;> intro _
    | with_reducible apply UpdS.ite <;> intro _
    | with_reducible apply Upd.foldl
    | with_reducible apply UpdS.foldl
    | ((with_reducible apply UpdS.snd); with_reducible apply UpdS.foldl)
    | with_reducible apply Upd.getD
    | ((with_reducible apply Upd.go (takeSlots_upd _ _ _ _)); rotate_left; exact rfl)
    | with_reducible apply UpdS.mapState
    | ((with_reducible apply Upd.goS (readRow_upd _ _ _ _ _ _ _)); rotate_left; exact rfl)
    | ((with_reducible apply UpdS.go (readRow_upd _ _ _ _ _ _ _)); rotate_left; exact rfl)
    | ((with_reducible apply Upd.goS (readA_upd _ _ _ _ _ _ _ _)); rotate_left; exact rfl)
    | ((with_reducible apply UpdS.go (readA_upd _ _ _ _ _ _ _ _)); rotate_left; exact rfl)
    | ((with_reducible apply Upd.goS (readB_upd _ _ _ _ _ _ _ _ _)); rotate_left; exact rfl)
    | ((with_reducible apply UpdS.go (readB_upd _ _ _ _ _ _ _ _ _)); rotate_left; exact rfl)
    | ((with_reducible apply Upd.goS (mmCRow_upd _ _ _ _ _ _ _ _ _ _ _)); rotate_left; exact rfl)
    | ((with_reducible apply UpdS.go (mmCRow_upd _ _ _ _ _ _ _ _ _ _ _)); rotate_left; exact rfl)
    | with_reducible apply UpdS.mk
    | dsimp only
    | split

theorem matmul_upd (g : Nat) (img : List Byte) (d : List Byte) (c : Ctx) (s : State) : UpdS [.outbox, .freeCtr, .regIrq, .regErr, .regSpd,
    .regFlt, .spads, .spad, .spadChk, .ceWins] s (matmul g img d c s) := by
  unfold matmul
  extract_lets x ar vec sv bv
  have hvec : ∀ t b, Upd [.outbox, .freeCtr, .regIrq, .regErr, .regSpd, .regFlt, .spads, .spad, .spadChk, .ceWins] s b →
      Upd [.outbox, .freeCtr, .regIrq, .regErr, .regSpd, .regFlt, .spads, .spad, .spadChk, .ceWins] s (vec t b).2.2 := by
    intro t b hb
    cases t with
    | none => exact hb
    | some t => exact Upd.goS (readRow_upd g t (spAddr c t) 0 x.n ar.ftz _) (Upd.go (takeSlots_upd _ _ _ _) hb rfl) rfl
  exact UpdS.foldl (UpdS.mk (hvec _ _ (hvec _ _ (Upd.refl s)))) fun r t hr => UpdS.mk (Upd.goS (mmTile_upd g img x c ar sv.1 bv.1 t.1 t.2.1 t.2.2 r.2) hr.snd rfl)

theorem execMatmul_upd (core : Nat) (ctx : Nat) (s : State) : UpdR [.outbox, .freeCtr, .regIrq, .regErr, .regSpd, .regFlt, .ctxs, .runs,
    .engines, .spads, .spad, .spadChk, .ceWins] s (execMatmul core ctx s) := by
  unfold execMatmul
  repeat' first
    | intro _
    | with_reducible assumption
    | with_reducible exact Upd.refl _
    | ((with_reducible apply UpdS.snd); with_reducible assumption)
    | (extract_lets -underBinder +onlyGivenNames x; (with_reducible refine UpdR.cut x ?_ ?_); rotate_left; (clear_value x; revert x; intro _ _); rotate_right; subst x)
    | (extract_lets -underBinder +onlyGivenNames x; (with_reducible refine Upd.cut x ?_ ?_); rotate_left; (clear_value x; revert x; intro _ _); rotate_right; subst x)
    | (extract_lets -underBinder +onlyGivenNames x; (with_reducible refine UpdR.cutSnd x ?_ ?_); rotate_left; (clear_value x; revert x; intro _ _); rotate_right; subst x)
    | (extract_lets -underBinder +onlyGivenNames x; (with_reducible refine Upd.cutSnd x ?_ ?_); rotate_left; (clear_value x; revert x; intro _ _); rotate_right; subst x)
    | (extract_lets -underBinder +onlyGivenNames x; clear_value x; revert x; intro _)
    | with_reducible apply UpdR.next
    | ((with_reducible apply Upd.go (endWork_upd _ _ _ _ _ _ _ _)); rotate_left; exact rfl)
    | ((with_reducible apply Upd.goS (matmul_upd _ _ _ _ _)); rotate_left; exact rfl)
    | ((with_reducible apply UpdS.go (matmul_upd _ _ _ _ _)); rotate_left; exact rfl)
    | with_reducible apply UpdS.mk
    | ((with_reducible apply UpdS.of_eq); with_reducible assumption)
    | split

end Sys2Proof.Machine
end

