-- ==== Sys2Proof/Laws/UpdBankMath.lean ====
section
/-!
SUPPORT. What each operation of Machine/BankMath can change, and that it keeps the canonical form.
-/

namespace Sys2Proof.Machine

set_option maxRecDepth 4000
set_option linter.all false

theorem unitCol_upd (c : Nat) (s : State) : UpdS [.outbox, .freeCtr, .regIrq, .regErr, .regLdg, .regMcs, .regFlt, .ldgSeq, .ldgLost,
    .dram, .dramChk, .chans, .units, .snoop, .biWait, .ceWins, .servedBytes] s (unitCol c s) := by
  unfold unitCol
  repeat' first
    | intro _
    | with_reducible assumption
    | with_reducible exact Upd.refl _
    | ((with_reducible apply UpdS.snd); with_reducible assumption)
    | (extract_lets -underBinder +onlyGivenNames x; (with_reducible refine UpdS.cut x ?_ ?_); rotate_left; (clear_value x; revert x; intro _ _); rotate_right; subst x)
    | (extract_lets -underBinder +onlyGivenNames x; (with_reducible refine Upd.cut x ?_ ?_); rotate_left; (clear_value x; revert x; intro _ _); rotate_right; subst x)
    | (extract_lets -underBinder +onlyGivenNames x; clear_value x; revert x; intro _)
    | with_reducible apply Upd.ite <;> intro _
    | with_reducible apply UpdS.ite <;> intro _
    | ((with_reducible apply Upd.go (freshNext_upd _)); rotate_left; exact rfl)
    | ((with_reducible apply Upd.go (logErr_upd _ _ _ _ _)); rotate_left; exact rfl)
    | ((with_reducible apply Upd.go (putUnit_upd _ _ _)); rotate_left; exact rfl)
    | ((with_reducible apply Upd.go (countRead_upd _ _ _)); rotate_left; exact rfl)
    | with_reducible apply UpdS.mk
    | dsimp only
    | split

theorem unitAtOff_upd (bk : Nat) (o : Nat) (s : State) : UpdS [.outbox, .freeCtr, .regIrq, .regErr, .regLdg, .regMcs, .regFlt, .ldgSeq,
    .ldgLost, .dram, .dramChk, .chans, .units, .snoop, .biWait, .ceWins, .servedBytes] s (unitAtOff bk o s) := by
  unfold unitAtOff
  repeat' first
    | intro _
    | with_reducible assumption
    | with_reducible exact Upd.refl _
    | ((with_reducible apply UpdS.snd); with_reducible assumption)
    | (extract_lets -underBinder +onlyGivenNames x; (with_reducible refine UpdS.cut x ?_ ?_); rotate_left; (clear_value x; revert x; intro _ _); rotate_right; subst x)
    | (extract_lets -underBinder +onlyGivenNames x; (with_reducible refine Upd.cut x ?_ ?_); rotate_left; (clear_value x; revert x; intro _ _); rotate_right; subst x)
    | (extract_lets -underBinder +onlyGivenNames x; (with_reducible refine UpdS.cutSnd x ?_ ?_); rotate_left; (clear_value x; revert x; intro _ _); rotate_right; subst x)
    | (extract_lets -underBinder +onlyGivenNames x; (with_reducible refine Upd.cutSnd x ?_ ?_); rotate_left; (clear_value x; revert x; intro _ _); rotate_right; subst x)
    | (extract_lets -underBinder +onlyGivenNames x; clear_value x; revert x; intro _)
    | ((with_reducible apply Upd.go (freshNext_upd _)); rotate_left; exact rfl)
    | ((with_reducible apply Upd.go (openRow_upd _ _ _)); rotate_left; exact rfl)
    | ((with_reducible apply Upd.goS (unitCol_upd _ _)); rotate_left; exact rfl)
    | ((with_reducible apply UpdS.go (unitCol_upd _ _)); rotate_left; exact rfl)
    | with_reducible apply UpdS.mk
    | dsimp only
    | ((with_reducible apply UpdS.of_eq); with_reducible assumption)
    | split

theorem unitCols_upd (bk : Nat) (o : Nat) (n : Nat) (s : State) : UpdS [.outbox, .freeCtr, .regIrq, .regErr, .regLdg, .regMcs, .regFlt,
    .ldgSeq, .ldgLost, .dram, .dramChk, .chans, .units, .snoop, .biWait, .ceWins, .servedBytes] s (unitCols bk o n s) := by
  unfold unitCols
  repeat' first
    | intro _
    | with_reducible assumption
    | with_reducible exact Upd.refl _
    | ((with_reducible apply UpdS.snd); with_reducible assumption)
    | (extract_lets -underBinder +onlyGivenNames x; (with_reducible refine UpdS.cut x ?_ ?_); rotate_left; (clear_value x; revert x; intro _ _); rotate_right; subst x)
    | (extract_lets -underBinder +onlyGivenNames x; (with_reducible refine Upd.cut x ?_ ?_); rotate_left; (clear_value x; revert x; intro _ _); rotate_right; subst x)
    | (extract_lets -underBinder +onlyGivenNames x; (with_reducible refine UpdS.cutSnd x ?_ ?_); rotate_left; (clear_value x; revert x; intro _ _); rotate_right; subst x)
    | (extract_lets -underBinder +onlyGivenNames x; (with_reducible refine Upd.cutSnd x ?_ ?_); rotate_left; (clear_value x; revert x; intro _ _); rotate_right; subst x)
    | (extract_lets -underBinder +onlyGivenNames x; clear_value x; revert x; intro _)
    | with_reducible apply Upd.foldl
    | with_reducible apply UpdS.foldl
    | ((with_reducible apply UpdS.snd); with_reducible apply UpdS.foldl)
    | ((with_reducible apply Upd.goS (unitAtOff_upd _ _ _)); rotate_left; exact rfl)
    | ((with_reducible apply UpdS.go (unitAtOff_upd _ _ _)); rotate_left; exact rfl)
    | with_reducible apply UpdS.mk
    | dsimp only
    | split

theorem unitWrite_upd (bk : Nat) (o : Nat) (data : List Byte) (poison : Bool) (s : State) : Upd [.outbox, .regIrq, .regErr, .regMcs,
    .regFlt, .dram, .dramChk, .chans, .units] s (unitWrite bk o data poison s) := by
  unfold unitWrite
  repeat' first
    | intro _
    | with_reducible assumption
    | with_reducible exact Upd.refl _
    | ((with_reducible apply UpdS.snd); with_reducible assumption)
    | (extract_lets -underBinder +onlyGivenNames x; (with_reducible refine Upd.cut x ?_ ?_); rotate_left; (clear_value x; revert x; intro _ _); rotate_right; subst x)
    | (extract_lets -underBinder +onlyGivenNames x; clear_value x; revert x; intro _)
    | with_reducible apply Upd.ite <;> intro _
    | with_reducible apply Upd.foldl
    | with_reducible apply UpdS.foldl
    | ((with_reducible apply UpdS.snd); with_reducible apply UpdS.foldl)
    | ((with_reducible apply Upd.go (openRow_upd _ _ _)); rotate_left; exact rfl)
    | ((with_reducible apply Upd.go (storeCol_upd _ _ _ _)); rotate_left; exact rfl)
    | ((with_reducible apply Upd.go (sideWrite_upd _ _)); rotate_left; exact rfl)
    | with_reducible apply UpdS.mk
    | dsimp only
    | split

theorem emitRec_upd (q : Seq) (bk : Nat) (fl : Bool) (two : Bool) (bad : Bool) (s : State) : Upd [.outbox, .regIrq, .regErr, .regMcs,
    .regFlt, .dram, .dramChk, .chans, .units] s (emitRec q bk fl two bad s) := by
  unfold emitRec
  repeat' first
    | intro _
    | with_reducible assumption
    | with_reducible exact Upd.refl _
    | ((with_reducible apply UpdS.snd); with_reducible assumption)
    | (extract_lets -underBinder +onlyGivenNames x; (with_reducible refine Upd.cut x ?_ ?_); rotate_left; (clear_value x; revert x; intro _ _); rotate_right; subst x)
    | (extract_lets -underBinder +onlyGivenNames x; (with_reducible refine isFn x ?_); subst x)
    | (extract_lets -underBinder +onlyGivenNames x; clear_value x; revert x; intro _)
    | with_reducible apply Upd.ite <;> intro _
    | with_reducible apply Upd.foldl
    | with_reducible apply UpdS.foldl
    | ((with_reducible apply UpdS.snd); with_reducible apply UpdS.foldl)
    | ((with_reducible apply Upd.go (putUnit_upd _ _ _)); rotate_left; exact rfl)
    | ((with_reducible apply Upd.go (unitWrite_upd _ _ _ _ _)); rotate_left; exact rfl)
    | with_reducible apply UpdS.mk
    | dsimp only
    | split

theorem mvsItem_upd (q : Seq) (bk : Nat) (s : State) : Upd [.outbox, .freeCtr, .regIrq, .regErr, .regLdg, .regMcs, .regFlt, .ldgSeq,
    .ldgLost, .dram, .dramChk, .chans, .units, .snoop, .biWait, .ceWins, .servedBytes] s (mvsItem q bk s) := by
  unfold mvsItem
  repeat' first
    | intro _
    | with_reducible assumption
    | with_reducible exact Upd.refl _
    | ((with_reducible apply UpdS.snd); with_reducible assumption)
    | (extract_lets -underBinder +onlyGivenNames x; (with_reducible refine Upd.cut x ?_ ?_); rotate_left; (clear_value x; revert x; intro _ _); rotate_right; subst x)
    | (extract_lets -underBinder +onlyGivenNames x; (with_reducible refine Upd.cutSnd x ?_ ?_); rotate_left; (clear_value x; revert x; intro _ _); rotate_right; subst x)
    | (extract_lets -underBinder +onlyGivenNames x; (with_reducible refine isFn x ?_); subst x)
    | (extract_lets -underBinder +onlyGivenNames x; clear_value x; revert x; intro _)
    | with_reducible apply Upd.ite <;> intro _
    | with_reducible apply UpdS.ite <;> intro _
    | with_reducible apply Upd.foldl
    | with_reducible apply UpdS.foldl
    | ((with_reducible apply UpdS.snd); with_reducible apply UpdS.foldl)
    | with_reducible apply Upd.getD
    | ((with_reducible apply Upd.go (putUnit_upd _ _ _)); rotate_left; exact rfl)
    | ((with_reducible apply Upd.goS (unitCols_upd _ _ _ _)); rotate_left; exact rfl)
    | ((with_reducible apply UpdS.go (unitCols_upd _ _ _ _)); rotate_left; exact rfl)
    | ((with_reducible apply Upd.go (emitRec_upd _ _ _ _ _ _)); rotate_left; exact rfl)
    | with_reducible apply UpdS.mk
    | dsimp only
    | split

theorem dotItem_upd (q : Seq) (bk : Nat) (s : State) : Upd [.outbox, .freeCtr, .regIrq, .regErr, .regLdg, .regMcs, .regFlt, .ldgSeq,
    .ldgLost, .dram, .dramChk, .chans, .units, .snoop, .biWait, .ceWins, .servedBytes] s (dotItem q bk s) := by
  unfold dotItem
  repeat' first
    | intro _
    | with_reducible assumption
    | with_reducible exact Upd.refl _
    | ((with_reducible apply UpdS.snd); with_reducible assumption)
    | (extract_lets -underBinder +onlyGivenNames x; (with_reducible refine Upd.cut x ?_ ?_); rotate_left; (clear_value x; revert x; intro _ _); rotate_right; subst x)
    | (extract_lets -underBinder +onlyGivenNames x; (with_reducible refine Upd.cutSnd x ?_ ?_); rotate_left; (clear_value x; revert x; intro _ _); rotate_right; subst x)
    | (extract_lets -underBinder +onlyGivenNames x; (with_reducible refine isFn x ?_); subst x)
    | (extract_lets -underBinder +onlyGivenNames x; clear_value x; revert x; intro _)
    | with_reducible apply Upd.ite <;> intro _
    | with_reducible apply UpdS.ite <;> intro _
    | with_reducible apply Upd.foldl
    | with_reducible apply UpdS.foldl
    | ((with_reducible apply UpdS.snd); with_reducible apply UpdS.foldl)
    | ((with_reducible apply Upd.go (putUnit_upd _ _ _)); rotate_left; exact rfl)
    | ((with_reducible apply Upd.goS (unitCols_upd _ _ _ _)); rotate_left; exact rfl)
    | ((with_reducible apply UpdS.go (unitCols_upd _ _ _ _)); rotate_left; exact rfl)
    | ((with_reducible apply Upd.go (emitRec_upd _ _ _ _ _ _)); rotate_left; exact rfl)
    | with_reducible apply UpdS.mk
    | dsimp only
    | split

theorem gredItem_upd (q : Seq) (bk : Nat) (s : State) : Upd [.outbox, .freeCtr, .regIrq, .regErr, .regLdg, .regMcs, .regFlt, .ldgSeq,
    .ldgLost, .dram, .dramChk, .chans, .units, .snoop, .biWait, .ceWins, .servedBytes] s (gredItem q bk s) := by
  unfold gredItem
  repeat' first
    | intro _
    | with_reducible assumption
    | with_reducible exact Upd.refl _
    | ((with_reducible apply UpdS.snd); with_reducible assumption)
    | (extract_lets -underBinder +onlyGivenNames x; (with_reducible refine Upd.cut x ?_ ?_); rotate_left; (clear_value x; revert x; intro _ _); rotate_right; subst x)
    | (extract_lets -underBinder +onlyGivenNames x; (with_reducible refine Upd.cutSnd x ?_ ?_); rotate_left; (clear_value x; revert x; intro _ _); rotate_right; subst x)
    | (extract_lets -underBinder +onlyGivenNames x; clear_value x; revert x; intro _)
    | with_reducible apply Upd.ite <;> intro _
    | with_reducible apply UpdS.ite <;> intro _
    | ((with_reducible apply Upd.go (count_upd _ _ _ _)); rotate_left; exact rfl)
    | ((with_reducible apply Upd.go (putUnit_upd _ _ _)); rotate_left; exact rfl)
    | ((with_reducible apply Upd.goS (unitCols_upd _ _ _ _)); rotate_left; exact rfl)
    | ((with_reducible apply UpdS.go (unitCols_upd _ _ _ _)); rotate_left; exact rfl)
    | ((with_reducible apply Upd.go (emitRec_upd _ _ _ _ _ _)); rotate_left; exact rfl)
    | with_reducible apply UpdS.mk
    | ((with_reducible apply UpdS.of_eq); with_reducible assumption)
    | split

theorem pqItem_upd (q : Seq) (bk : Nat) (s : State) : Upd [.outbox, .freeCtr, .regIrq, .regErr, .regLdg, .regMcs, .regFlt, .ldgSeq,
    .ldgLost, .dram, .dramChk, .chans, .units, .snoop, .biWait, .ceWins, .servedBytes] s (pqItem q bk s) := by
  unfold pqItem
  repeat' first
    | intro _
    | with_reducible assumption
    | with_reducible exact Upd.refl _
    | ((with_reducible apply UpdS.snd); with_reducible assumption)
    | (extract_lets -underBinder +onlyGivenNames x; (with_reducible refine Upd.cut x ?_ ?_); rotate_left; (clear_value x; revert x; intro _ _); rotate_right; subst x)
    | (extract_lets -underBinder +onlyGivenNames x; (with_reducible refine Upd.cutSnd x ?_ ?_); rotate_left; (clear_value x; revert x; intro _ _); rotate_right; subst x)
    | (extract_lets -underBinder +onlyGivenNames x; (with_reducible refine isFn x ?_); subst x)
    | (extract_lets -underBinder +onlyGivenNames x; clear_value x; revert x; intro _)
    | with_reducible apply Upd.ite <;> intro _
    | with_reducible apply UpdS.ite <;> intro _
    | with_reducible apply Upd.foldl
    | with_reducible apply UpdS.foldl
    | ((with_reducible apply UpdS.snd); with_reducible apply UpdS.foldl)
    | ((with_reducible apply Upd.go (count_upd _ _ _ _)); rotate_left; exact rfl)
    | ((with_reducible apply Upd.go (putUnit_upd _ _ _)); rotate_left; exact rfl)
    | ((with_reducible apply Upd.goS (unitAtOff_upd _ _ _)); rotate_left; exact rfl)
    | ((with_reducible apply UpdS.go (unitAtOff_upd _ _ _)); rotate_left; exact rfl)
    | ((with_reducible apply Upd.goS (unitCols_upd _ _ _ _)); rotate_left; exact rfl)
    | ((with_reducible apply UpdS.go (unitCols_upd _ _ _ _)); rotate_left; exact rfl)
    | with_reducible apply UpdS.mk
    | dsimp only
    | split

theorem dropMark_upd (c : Nat) (s : State) : Upd [.units] s (dropMark c s) := by
  unfold dropMark
  repeat' first
    | intro _
    | with_reducible assumption
    | with_reducible exact Upd.refl _
    | (extract_lets -underBinder +onlyGivenNames x; (with_reducible refine Upd.cut x ?_ ?_); rotate_left; (clear_value x; revert x; intro _ _); rotate_right; subst x)
    | (extract_lets -underBinder +onlyGivenNames x; clear_value x; revert x; intro _)
    | with_reducible apply Upd.ite <;> intro _
    | ((with_reducible apply Upd.go (putUnit_upd _ _ _)); rotate_left; exact rfl)

theorem vetRow_upd (key : Nat) (s : State) : UpdS [.outbox, .freeCtr, .regIrq, .regErr, .regLdg, .regMcs, .regFlt, .ldgSeq, .ldgLost,
    .dram, .dramChk, .chans, .units, .snoop, .biWait, .ceWins, .servedBytes] s (vetRow key s) := by
  unfold vetRow
  repeat' first
    | intro _
    | with_reducible assumption
    | with_reducible exact Upd.refl _
    | ((with_reducible apply UpdS.snd); with_reducible assumption)
    | (extract_lets -underBinder +onlyGivenNames x; (with_reducible refine UpdS.cut x ?_ ?_); rotate_left; (clear_value x; revert x; intro _ _); rotate_right; subst x)
    | (extract_lets -underBinder +onlyGivenNames x; (with_reducible refine Upd.cut x ?_ ?_); rotate_left; (clear_value x; revert x; intro _ _); rotate_right; subst x)
    | (extract_lets -underBinder +onlyGivenNames x; (with_reducible refine UpdS.cutSnd x ?_ ?_); rotate_left; (clear_value x; revert x; intro _ _); rotate_right; subst x)
    | (extract_lets -underBinder +onlyGivenNames x; (with_reducible refine Upd.cutSnd x ?_ ?_); rotate_left; (clear_value x; revert x; intro _ _); rotate_right; subst x)
    | (extract_lets -underBinder +onlyGivenNames x; clear_value x; revert x; intro _)
    | with_reducible apply Upd.ite <;> intro _
    | with_reducible apply UpdS.ite <;> intro _
    | with_reducible apply Upd.foldl
    | with_reducible apply UpdS.foldl
    | ((with_reducible apply UpdS.snd); with_reducible apply UpdS.foldl)
    | ((with_reducible apply Upd.go (count_upd _ _ _ _)); rotate_left; exact rfl)
    | ((with_reducible apply Upd.go (sealCol_upd _ _ _)); rotate_left; exact rfl)
    | ((with_reducible apply Upd.go (openRow_upd _ _ _)); rotate_left; exact rfl)
    | ((with_reducible apply Upd.goS (unitCol_upd _ _)); rotate_left; exact rfl)
    | ((with_reducible apply UpdS.go (unitCol_upd _ _)); rotate_left; exact rfl)
    | with_reducible apply UpdS.mk
    | dsimp only
    | split

theorem putEntry_upd (key : Nat) (s : State) : UpdS [.outbox, .freeCtr, .regIrq, .regErr, .regLdg, .regMcs, .regFlt, .ldgSeq, .ldgLost,
    .dram, .dramChk, .chans, .units, .snoop, .biWait, .ceWins, .servedBytes] s (putEntry key s) := by
  unfold putEntry
  repeat' first
    | intro _
    | with_reducible assumption
    | with_reducible exact Upd.refl _
    | ((with_reducible apply UpdS.snd); with_reducible assumption)
    | (extract_lets -underBinder +onlyGivenNames x; (with_reducible refine UpdS.cut x ?_ ?_); rotate_left; (clear_value x; revert x; intro _ _); rotate_right; subst x)
    | (extract_lets -underBinder +onlyGivenNames x; (with_reducible refine Upd.cut x ?_ ?_); rotate_left; (clear_value x; revert x; intro _ _); rotate_right; subst x)
    | (extract_lets -underBinder +onlyGivenNames x; (with_reducible refine UpdS.cutSnd x ?_ ?_); rotate_left; (clear_value x; revert x; intro _ _); rotate_right; subst x)
    | (extract_lets -underBinder +onlyGivenNames x; (with_reducible refine Upd.cutSnd x ?_ ?_); rotate_left; (clear_value x; revert x; intro _ _); rotate_right; subst x)
    | (extract_lets -underBinder +onlyGivenNames x; clear_value x; revert x; intro _)
    | ((with_reducible apply Upd.go (sealCol_upd _ _ _)); rotate_left; exact rfl)
    | ((with_reducible apply Upd.go (openRow_upd _ _ _)); rotate_left; exact rfl)
    | ((with_reducible apply Upd.goS (unitCol_upd _ _)); rotate_left; exact rfl)
    | ((with_reducible apply UpdS.go (unitCol_upd _ _)); rotate_left; exact rfl)
    | ((with_reducible apply Upd.go (dropMark_upd _ _)); rotate_left; exact rfl)
    | with_reducible apply UpdS.mk
    | dsimp only
    | split

theorem burnishRow_upd (key : Nat) (produced : Bool) (s : State) : UpdS [.outbox, .freeCtr, .regIrq, .regErr, .regLdg, .regMcs, .regFlt,
    .ldgSeq, .ldgLost, .dram, .dramChk, .chans, .units, .snoop, .biWait, .ceWins, .servedBytes] s (burnishRow key produced s) := by
  unfold burnishRow
  repeat' first
    | intro _
    | with_reducible assumption
    | with_reducible exact Upd.refl _
    | ((with_reducible apply UpdS.snd); with_reducible assumption)
    | (extract_lets -underBinder +onlyGivenNames x; (with_reducible refine UpdS.cut x ?_ ?_); rotate_left; (clear_value x; revert x; intro _ _); rotate_right; subst x)
    | (extract_lets -underBinder +onlyGivenNames x; (with_reducible refine Upd.cut x ?_ ?_); rotate_left; (clear_value x; revert x; intro _ _); rotate_right; subst x)
    | (extract_lets -underBinder +onlyGivenNames x; (with_reducible refine UpdS.cutSnd x ?_ ?_); rotate_left; (clear_value x; revert x; intro _ _); rotate_right; subst x)
    | (extract_lets -underBinder +onlyGivenNames x; (with_reducible refine Upd.cutSnd x ?_ ?_); rotate_left; (clear_value x; revert x; intro _ _); rotate_right; subst x)
    | (extract_lets -underBinder +onlyGivenNames x; clear_value x; revert x; intro _)
    | with_reducible apply Upd.ite <;> intro _
    | with_reducible apply UpdS.ite <;> intro _
    | with_reducible apply Upd.foldl
    | with_reducible apply UpdS.foldl
    | ((with_reducible apply UpdS.snd); with_reducible apply UpdS.foldl)
    | ((with_reducible apply Upd.go (sealCol_upd _ _ _)); rotate_left; exact rfl)
    | ((with_reducible apply Upd.go (openRow_upd _ _ _)); rotate_left; exact rfl)
    | ((with_reducible apply Upd.goS (unitCol_upd _ _)); rotate_left; exact rfl)
    | ((with_reducible apply UpdS.go (unitCol_upd _ _)); rotate_left; exact rfl)
    | ((with_reducible apply Upd.go (dropMark_upd _ _)); rotate_left; exact rfl)
    | ((with_reducible apply Upd.goS (putEntry_upd _ _)); rotate_left; exact rfl)
    | ((with_reducible apply UpdS.go (putEntry_upd _ _)); rotate_left; exact rfl)
    | with_reducible apply UpdS.mk
    | dsimp only
    | ((with_reducible apply UpdS.of_eq); with_reducible assumption)
    | split

theorem staleWrite_upd (c : Nat) (data : List Byte) (s : State) : Upd [.dram, .dramChk, .units] s (staleWrite c data s) := by
  unfold staleWrite
  repeat' first
    | intro _
    | with_reducible assumption
    | with_reducible exact Upd.refl _
    | (extract_lets -underBinder +onlyGivenNames x; (with_reducible refine Upd.cut x ?_ ?_); rotate_left; (clear_value x; revert x; intro _ _); rotate_right; subst x)
    | (extract_lets -underBinder +onlyGivenNames x; clear_value x; revert x; intro _)
    | ((with_reducible apply Upd.go (putDramChk_upd _ _ _)); rotate_left; exact rfl)
    | ((with_reducible apply Upd.go (putColData_upd _ _ _)); rotate_left; exact rfl)
    | ((with_reducible apply Upd.go (dropMark_upd _ _)); rotate_left; exact rfl)

theorem rowOp_upd (op : Nat) (d : Nat) (srcs : List Nat) (s : State) : Upd [.regMcs, .dram, .dramChk, .chans, .units] s (rowOp op d srcs
    s) := by
  unfold rowOp
  repeat' first
    | intro _
    | with_reducible assumption
    | with_reducible exact Upd.refl _
    | ((with_reducible apply UpdS.snd); with_reducible assumption)
    | (extract_lets -underBinder +onlyGivenNames x; (with_reducible refine Upd.cut x ?_ ?_); rotate_left; (clear_value x; revert x; intro _ _); rotate_right; subst x)
    | (extract_lets -underBinder +onlyGivenNames x; (with_reducible refine isFn x ?_); subst x)
    | (extract_lets -underBinder +onlyGivenNames x; clear_value x; revert x; intro _)
    | with_reducible apply Upd.foldl
    | with_reducible apply UpdS.foldl
    | ((with_reducible apply UpdS.snd); with_reducible apply UpdS.foldl)
    | with_reducible apply Upd.getD
    | ((with_reducible apply Upd.go (count_upd _ _ _ _)); rotate_left; exact rfl)
    | ((with_reducible apply Upd.go (shutRows_upd _ _ _)); rotate_left; exact rfl)
    | ((with_reducible apply Upd.go (openRow_upd _ _ _)); rotate_left; exact rfl)
    | ((with_reducible apply Upd.go (staleWrite_upd _ _ _)); rotate_left; exact rfl)
    | with_reducible apply UpdS.mk
    | dsimp only

theorem rowSkip_upd (bk : Nat) (i : Nat) (poison : Bool) (s : State) : Upd [.regMcs, .units] s (rowSkip bk i poison s) := by
  unfold rowSkip
  repeat' first
    | intro _
    | with_reducible assumption
    | with_reducible exact Upd.refl _
    | (extract_lets -underBinder +onlyGivenNames x; (with_reducible refine Upd.cut x ?_ ?_); rotate_left; (clear_value x; revert x; intro _ _); rotate_right; subst x)
    | (extract_lets -underBinder +onlyGivenNames x; clear_value x; revert x; intro _)
    | with_reducible apply Upd.getD
    | ((with_reducible apply Upd.go (count_upd _ _ _ _)); rotate_left; exact rfl)
    | ((with_reducible apply Upd.go (putUnit_upd _ _ _)); rotate_left; exact rfl)
    | split

theorem rowSeal_upd (bk : Nat) (p : Nat) (k : Nat) (s : State) : Upd [.outbox, .freeCtr, .regIrq, .regErr, .regLdg, .regMcs, .regFlt,
    .ldgSeq, .ldgLost, .dram, .dramChk, .chans, .units, .snoop, .biWait, .ceWins, .servedBytes] s (rowSeal bk p k s) := by
  unfold rowSeal
  repeat' first
    | intro _
    | with_reducible assumption
    | with_reducible exact Upd.refl _
    | ((with_reducible apply UpdS.snd); with_reducible assumption)
    | (extract_lets -underBinder +onlyGivenNames x; (with_reducible refine Upd.cut x ?_ ?_); rotate_left; (clear_value x; revert x; intro _ _); rotate_right; subst x)
    | (extract_lets -underBinder +onlyGivenNames x; (with_reducible refine Upd.cutSnd x ?_ ?_); rotate_left; (clear_value x; revert x; intro _ _); rotate_right; subst x)
    | (extract_lets -underBinder +onlyGivenNames x; clear_value x; revert x; intro _)
    | with_reducible apply Upd.ite <;> intro _
    | with_reducible apply UpdS.ite <;> intro _
    | ((with_reducible apply Upd.go (putUnit_upd _ _ _)); rotate_left; exact rfl)
    | ((with_reducible apply Upd.goS (burnishRow_upd _ _ _)); rotate_left; exact rfl)
    | ((with_reducible apply UpdS.go (burnishRow_upd _ _ _)); rotate_left; exact rfl)
    | with_reducible apply UpdS.mk
    | split

theorem rowVet_upd (bk : Nat) (p : Nat) (k : Nat) (s : State) : Upd [.outbox, .freeCtr, .regIrq, .regErr, .regLdg, .regMcs, .regFlt,
    .ldgSeq, .ldgLost, .dram, .dramChk, .chans, .units, .snoop, .biWait, .ceWins, .servedBytes] s (rowVet bk p k s) := by
  unfold rowVet
  repeat' first
    | intro _
    | with_reducible assumption
    | with_reducible exact Upd.refl _
    | ((with_reducible apply UpdS.snd); with_reducible assumption)
    | (extract_lets -underBinder +onlyGivenNames x; (with_reducible refine Upd.cut x ?_ ?_); rotate_left; (clear_value x; revert x; intro _ _); rotate_right; subst x)
    | (extract_lets -underBinder +onlyGivenNames x; (with_reducible refine Upd.cutSnd x ?_ ?_); rotate_left; (clear_value x; revert x; intro _ _); rotate_right; subst x)
    | (extract_lets -underBinder +onlyGivenNames x; clear_value x; revert x; intro _)
    | with_reducible apply Upd.ite <;> intro _
    | with_reducible apply UpdS.ite <;> intro _
    | ((with_reducible apply Upd.go (putUnit_upd _ _ _)); rotate_left; exact rfl)
    | ((with_reducible apply Upd.goS (vetRow_upd _ _)); rotate_left; exact rfl)
    | ((with_reducible apply UpdS.go (vetRow_upd _ _)); rotate_left; exact rfl)
    | with_reducible apply UpdS.mk
    | split

theorem rowPoison_upd (bk : Nat) (p : Nat) (d : Nat) (s : State) : Upd [.dram, .dramChk, .units] s (rowPoison bk p d s) := by
  unfold rowPoison
  repeat' first
    | intro _
    | with_reducible assumption
    | with_reducible exact Upd.refl _
    | ((with_reducible apply UpdS.snd); with_reducible assumption)
    | (extract_lets -underBinder +onlyGivenNames x; (with_reducible refine Upd.cut x ?_ ?_); rotate_left; (clear_value x; revert x; intro _ _); rotate_right; subst x)
    | (extract_lets -underBinder +onlyGivenNames x; clear_value x; revert x; intro _)
    | with_reducible apply Upd.foldl
    | with_reducible apply UpdS.foldl
    | ((with_reducible apply UpdS.snd); with_reducible apply UpdS.foldl)
    | ((with_reducible apply Upd.go (putUnit_upd _ _ _)); rotate_left; exact rfl)
    | ((with_reducible apply Upd.go (poisonCol_upd _ _ _)); rotate_left; exact rfl)
    | ((with_reducible apply Upd.go (dropMark_upd _ _)); rotate_left; exact rfl)
    | with_reducible apply UpdS.mk
    | dsimp only

theorem rowAct_upd (q : Seq) (bk : Nat) (s : State) : Upd [.outbox, .freeCtr, .regIrq, .regErr, .regLdg, .regMcs, .regFlt, .ldgSeq,
    .ldgLost, .dram, .dramChk, .chans, .units, .snoop, .biWait, .ceWins, .servedBytes] s (rowAct q bk s) := by
  unfold rowAct
  repeat' first
    | intro _
    | with_reducible assumption
    | with_reducible exact Upd.refl _
    | (extract_lets -underBinder +onlyGivenNames x; (with_reducible refine Upd.cut x ?_ ?_); rotate_left; (clear_value x; revert x; intro _ _); rotate_right; subst x)
    | (extract_lets -underBinder +onlyGivenNames x; clear_value x; revert x; intro _)
    | with_reducible apply Upd.ite <;> intro _
    | ((with_reducible apply Upd.go (putUnit_upd _ _ _)); rotate_left; exact rfl)
    | ((with_reducible apply Upd.go (rowOp_upd _ _ _ _)); rotate_left; exact rfl)
    | ((with_reducible apply Upd.go (rowSkip_upd _ _ _ _)); rotate_left; exact rfl)
    | ((with_reducible apply Upd.go (rowSeal_upd _ _ _ _)); rotate_left; exact rfl)
    | ((with_reducible apply Upd.go (rowPoison_upd _ _ _ _)); rotate_left; exact rfl)
    | split

theorem rowPart_upd (q : Seq) (bk : Nat) (s : State) : Upd [.outbox, .freeCtr, .regIrq, .regErr, .regLdg, .regMcs, .regFlt, .ldgSeq,
    .ldgLost, .dram, .dramChk, .chans, .units, .snoop, .biWait, .ceWins, .servedBytes] s (rowPart q bk s) := by
  unfold rowPart
  repeat' first
    | intro _
    | with_reducible assumption
    | with_reducible exact Upd.refl _
    | (extract_lets -underBinder +onlyGivenNames x; (with_reducible refine Upd.cut x ?_ ?_); rotate_left; (clear_value x; revert x; intro _ _); rotate_right; subst x)
    | (extract_lets -underBinder +onlyGivenNames x; clear_value x; revert x; intro _)
    | ((with_reducible apply Upd.go (rowVet_upd _ _ _ _)); rotate_left; exact rfl)
    | ((with_reducible apply Upd.go (rowAct_upd _ _ _)); rotate_left; exact rfl)
    | split

theorem rowSecond_upd (q : Seq) (bk : Nat) (s : State) : Upd [.outbox, .freeCtr, .regIrq, .regErr, .regLdg, .regMcs, .regFlt, .ldgSeq,
    .ldgLost, .dram, .dramChk, .chans, .units, .snoop, .biWait, .ceWins, .servedBytes] s (rowSecond q bk s) := by
  unfold rowSecond
  repeat' first
    | intro _
    | with_reducible assumption
    | with_reducible exact Upd.refl _
    | (extract_lets -underBinder +onlyGivenNames x; (with_reducible refine Upd.cut x ?_ ?_); rotate_left; (clear_value x; revert x; intro _ _); rotate_right; subst x)
    | (extract_lets -underBinder +onlyGivenNames x; clear_value x; revert x; intro _)
    | with_reducible apply Upd.ite <;> intro _
    | ((with_reducible apply Upd.go (rowSeal_upd _ _ _ _)); rotate_left; exact rfl)
    | split

theorem rowCommand_upd (q : Seq) (bk : Nat) (s : State) : Upd [.outbox, .freeCtr, .regIrq, .regErr, .regLdg, .regMcs, .regFlt, .ldgSeq,
    .ldgLost, .dram, .dramChk, .chans, .units, .snoop, .biWait, .ceWins, .servedBytes] s (rowCommand q bk s) := by
  unfold rowCommand
  repeat' first
    | intro _
    | with_reducible assumption
    | with_reducible exact Upd.refl _
    | ((with_reducible apply UpdS.snd); with_reducible assumption)
    | (extract_lets -underBinder +onlyGivenNames x; (with_reducible refine Upd.cut x ?_ ?_); rotate_left; (clear_value x; revert x; intro _ _); rotate_right; subst x)
    | (extract_lets -underBinder +onlyGivenNames x; (with_reducible refine Upd.cutSnd x ?_ ?_); rotate_left; (clear_value x; revert x; intro _ _); rotate_right; subst x)
    | (extract_lets -underBinder +onlyGivenNames x; clear_value x; revert x; intro _)
    | with_reducible apply Upd.ite <;> intro _
    | with_reducible apply UpdS.ite <;> intro _
    | ((with_reducible apply Upd.go (count_upd _ _ _ _)); rotate_left; exact rfl)
    | ((with_reducible apply Upd.go (putUnit_upd _ _ _)); rotate_left; exact rfl)
    | ((with_reducible apply Upd.goS (vetRow_upd _ _)); rotate_left; exact rfl)
    | ((with_reducible apply UpdS.go (vetRow_upd _ _)); rotate_left; exact rfl)
    | ((with_reducible apply Upd.goS (burnishRow_upd _ _ _)); rotate_left; exact rfl)
    | ((with_reducible apply UpdS.go (burnishRow_upd _ _ _)); rotate_left; exact rfl)
    | with_reducible apply UpdS.mk
    | split

end Sys2Proof.Machine
end

