-- ==== Sys2Proof/Laws/UpdXlate.lean ====
section
/-!
SUPPORT. What each operation of Machine/Xlate can change, and that it keeps the canonical form.
-/

namespace Sys2Proof.Machine

set_option maxRecDepth 4000
set_option linter.all false

theorem readEntry_upd (own : Option Nat) (pt : PortOf) (a : Nat) (s : State) : UpdS [.outbox, .freeCtr, .regIrq, .regErr, .regLdg,
    .regBku, .regMcs, .regFlt, .ldgSeq, .ldgLost, .dram, .dramChk, .chans, .units, .flights, .snoop, .biWait, .ceWins, .servedBytes] s
    (readEntry own pt a s) := by
  unfold readEntry
  repeat' first
    | intro _
    | with_reducible assumption
    | with_reducible exact Upd.refl _
    | ((with_reducible apply UpdS.snd); with_reducible assumption)
    | (extract_lets -underBinder +onlyGivenNames x; (with_reducible refine UpdS.cut x ?_ ?_); rotate_left; (clear_value x; revert x; intro _ _); rotate_right; subst x)
    | (extract_lets -underBinder +onlyGivenNames x; (with_reducible refine Upd.cut x ?_ ?_); rotate_left; (clear_value x; revert x; intro _ _); rotate_right; subst x)
    | (extract_lets -underBinder +onlyGivenNames x; (with_reducible refine UpdS.cutSnd x ?_ ?_); rotate_left; (clear_value x; revert x; intro _ _); rotate_right; subst x)
    | (extract_lets -underBinder +onlyGivenNames x; (with_reducible refine Upd.cutSnd x ?_ ?_); rotate_left; (clear_value x; revert x; intro _ _); rotate_right; subst x)
    | (extract_lets -underBinder +onlyGivenNames x; clear_value x; revert x; intro _)
    | with_reducible apply Upd.ite <;> intro _
    | with_reducible apply UpdS.ite <;> intro _
    | ((with_reducible apply Upd.goS (readSpan_upd _ _ _ _)); rotate_left; exact rfl)
    | ((with_reducible apply UpdS.go (readSpan_upd _ _ _ _)); rotate_left; exact rfl)
    | with_reducible apply UpdS.mk
    | dsimp only
    | ((with_reducible apply UpdS.of_eq); with_reducible assumption)
    | split

theorem UpdS.elim {α β : Type} {m : List Part} {a : State} {o : Option α} {x : β × State} {f : α → β × State}
    (hx : UpdS m a x) (hf : ∀ y, UpdS m a (f y)) : UpdS m a (o.elim x f) := by
  cases o with
  | none => exact hx
  | some y => exact hf y

theorem UpdS.andThen {α β : Type} {m : List Part} {a : State} {r : Except MemStop α × State}
    {f : α → State → Except MemStop β × State} (hr : UpdS m a r) (hf : ∀ y t, Upd m a t → UpdS m a (f y t)) :
    UpdS m a (andThen r f) := by
  unfold Machine.andThen
  split
  · exact hr
  · exact hf _ _ hr

theorem walk_upd (own : Option Nat) (pt : PortOf) (root : Nat) (dva : Nat) (s : State) : UpdS [.outbox, .freeCtr, .regIrq, .regErr,
    .regLdg, .regBku, .regMcs, .regFlt, .ldgSeq, .ldgLost, .dram, .dramChk, .chans, .units, .flights, .snoop, .biWait, .ceWins,
    .servedBytes] s (walk own pt root dva s) := by
  unfold walk
  repeat' first
    | intro _
    | with_reducible assumption
    | with_reducible exact Upd.refl _
    | ((with_reducible apply UpdS.snd); with_reducible assumption)
    | (extract_lets -underBinder +onlyGivenNames x; (with_reducible refine UpdS.cut x ?_ ?_); rotate_left; (clear_value x; revert x; intro _ _); rotate_right; subst x)
    | (extract_lets -underBinder +onlyGivenNames x; (with_reducible refine Upd.cut x ?_ ?_); rotate_left; (clear_value x; revert x; intro _ _); rotate_right; subst x)
    | (extract_lets -underBinder +onlyGivenNames x; (with_reducible refine UpdS.cutSnd x ?_ ?_); rotate_left; (clear_value x; revert x; intro _ _); rotate_right; subst x)
    | (extract_lets -underBinder +onlyGivenNames x; (with_reducible refine Upd.cutSnd x ?_ ?_); rotate_left; (clear_value x; revert x; intro _ _); rotate_right; subst x)
    | (extract_lets -underBinder +onlyGivenNames x; clear_value x; revert x; intro _)
    | with_reducible apply Upd.ite <;> intro _
    | with_reducible apply UpdS.ite <;> intro _
    | ((with_reducible apply Upd.goS (readEntry_upd _ _ _ _)); rotate_left; exact rfl)
    | ((with_reducible apply UpdS.go (readEntry_upd _ _ _ _)); rotate_left; exact rfl)
    | with_reducible apply UpdS.andThen
    | with_reducible apply UpdS.mk
    | dsimp only

theorem dropLeaf_upd (g : Nat) (c : Nat) (big : Bool) (s : State) : Upd [.ctxs] s (dropLeaf g c big s) := by
  unfold dropLeaf
  repeat' first
    | intro _
    | with_reducible assumption
    | with_reducible exact Upd.refl _
    | (extract_lets -underBinder +onlyGivenNames x; (with_reducible refine Upd.cut x ?_ ?_); rotate_left; (clear_value x; revert x; intro _ _); rotate_right; subst x)
    | (extract_lets -underBinder +onlyGivenNames x; clear_value x; revert x; intro _)
    | with_reducible apply Upd.ite <;> intro _
    | ((with_reducible apply Upd.go (putCtx_upd _ _ _)); rotate_left; exact rfl)

theorem cacheLeaf_upd (g : Nat) (c : Nat) (dva : Nat) (leaf : Nat) (big : Bool) (s : State) : Upd [.ctxs] s (cacheLeaf g c dva leaf big s)
    := by
  unfold cacheLeaf
  repeat' first
    | intro _
    | with_reducible assumption
    | with_reducible exact Upd.refl _
    | (extract_lets -underBinder +onlyGivenNames x; (with_reducible refine Upd.cut x ?_ ?_); rotate_left; (clear_value x; revert x; intro _ _); rotate_right; subst x)
    | (extract_lets -underBinder +onlyGivenNames x; clear_value x; revert x; intro _)
    | with_reducible apply Upd.ite <;> intro _
    | ((with_reducible apply Upd.go (putCtx_upd _ _ _)); rotate_left; exact rfl)
    | ((with_reducible apply Upd.go (dropLeaf_upd _ _ _ _)); rotate_left; exact rfl)

theorem leafOf_upd (g : Nat) (c : Nat) (dva : Nat) (s : State) : UpdS [.outbox, .freeCtr, .regIrq, .regErr, .regLdg, .regTmv, .regBku,
    .regMcs, .regFlt, .ldgSeq, .ldgLost, .ctxs, .dram, .dramChk, .chans, .units, .flights, .snoop, .biWait, .ceWins, .servedBytes] s
    (leafOf g c dva s) := by
  unfold leafOf
  repeat' first
    | intro _
    | with_reducible assumption
    | with_reducible exact Upd.refl _
    | ((with_reducible apply UpdS.snd); with_reducible assumption)
    | (extract_lets -underBinder +onlyGivenNames x; (with_reducible refine UpdS.cut x ?_ ?_); rotate_left; (clear_value x; revert x; intro _ _); rotate_right; subst x)
    | (extract_lets -underBinder +onlyGivenNames x; (with_reducible refine Upd.cut x ?_ ?_); rotate_left; (clear_value x; revert x; intro _ _); rotate_right; subst x)
    | (extract_lets -underBinder +onlyGivenNames x; (with_reducible refine UpdS.cutSnd x ?_ ?_); rotate_left; (clear_value x; revert x; intro _ _); rotate_right; subst x)
    | (extract_lets -underBinder +onlyGivenNames x; (with_reducible refine Upd.cutSnd x ?_ ?_); rotate_left; (clear_value x; revert x; intro _ _); rotate_right; subst x)
    | (extract_lets -underBinder +onlyGivenNames x; clear_value x; revert x; intro _)
    | with_reducible apply UpdS.elim
    | with_reducible apply Upd.getD
    | with_reducible apply Upd.elim
    | ((with_reducible apply Upd.go (count_upd _ _ _ _)); rotate_left; exact rfl)
    | with_reducible apply UpdS.andThen
    | ((with_reducible apply Upd.goS (walk_upd _ _ _ _ _)); rotate_left; exact rfl)
    | ((with_reducible apply UpdS.go (walk_upd _ _ _ _ _)); rotate_left; exact rfl)
    | ((with_reducible apply Upd.go (cacheLeaf_upd _ _ _ _ _ _)); rotate_left; exact rfl)
    | with_reducible apply UpdS.mk
    | dsimp only

theorem regionBaseOf_upd (g : Nat) (c : Nat) (region : Nat) (s : State) : UpdS [.ctxs] s (regionBaseOf g c region s) := by
  unfold regionBaseOf
  repeat' first
    | intro _
    | with_reducible assumption
    | with_reducible exact Upd.refl _
    | ((with_reducible apply UpdS.snd); with_reducible assumption)
    | (extract_lets -underBinder +onlyGivenNames x; (with_reducible refine UpdS.cut x ?_ ?_); rotate_left; (clear_value x; revert x; intro _ _); rotate_right; subst x)
    | (extract_lets -underBinder +onlyGivenNames x; (with_reducible refine Upd.cut x ?_ ?_); rotate_left; (clear_value x; revert x; intro _ _); rotate_right; subst x)
    | (extract_lets -underBinder +onlyGivenNames x; clear_value x; revert x; intro _)
    | ((with_reducible apply Upd.go (putCtx_upd _ _ _)); rotate_left; exact rfl)
    | with_reducible apply UpdS.mk
    | dsimp only
    | split

theorem xlate_upd (g : Nat) (c : Nat) (region : Option Nat) (write : Bool) (dva : Nat) (s : State) : UpdS [.outbox, .freeCtr, .regIrq,
    .regErr, .regLdg, .regTmv, .regBku, .regMcs, .regFlt, .ldgSeq, .ldgLost, .ctxs, .dram, .dramChk, .chans, .units, .flights, .snoop,
    .biWait, .ceWins, .servedBytes] s (xlate g c region write dva s) := by
  unfold xlate
  repeat' first
    | intro _
    | with_reducible assumption
    | with_reducible exact Upd.refl _
    | ((with_reducible apply UpdS.snd); with_reducible assumption)
    | (extract_lets -underBinder +onlyGivenNames x; (with_reducible refine UpdS.cut x ?_ ?_); rotate_left; (clear_value x; revert x; intro _ _); rotate_right; subst x)
    | (extract_lets -underBinder +onlyGivenNames x; (with_reducible refine Upd.cut x ?_ ?_); rotate_left; (clear_value x; revert x; intro _ _); rotate_right; subst x)
    | (extract_lets -underBinder +onlyGivenNames x; (with_reducible refine UpdS.cutSnd x ?_ ?_); rotate_left; (clear_value x; revert x; intro _ _); rotate_right; subst x)
    | (extract_lets -underBinder +onlyGivenNames x; (with_reducible refine Upd.cutSnd x ?_ ?_); rotate_left; (clear_value x; revert x; intro _ _); rotate_right; subst x)
    | (extract_lets -underBinder +onlyGivenNames x; clear_value x; revert x; intro _)
    | with_reducible apply Upd.ite <;> intro _
    | with_reducible apply UpdS.ite <;> intro _
    | with_reducible apply Upd.getD
    | with_reducible apply UpdS.andThen
    | ((with_reducible apply Upd.goS (leafOf_upd _ _ _ _)); rotate_left; exact rfl)
    | ((with_reducible apply UpdS.go (leafOf_upd _ _ _ _)); rotate_left; exact rfl)
    | ((with_reducible apply Upd.goS (regionBaseOf_upd _ _ _ _)); rotate_left; exact rfl)
    | ((with_reducible apply UpdS.go (regionBaseOf_upd _ _ _ _)); rotate_left; exact rfl)
    | with_reducible apply UpdS.mk
    | dsimp only
    | ((with_reducible apply UpdS.of_eq); with_reducible assumption)
    | split

theorem xlateSpan_upd (g : Nat) (c : Nat) (pt : PortOf) (region : Option Nat) (write : Bool) (dva : Nat) (n : Nat) (s : State) : UpdS
    [.outbox, .freeCtr, .regIrq, .regErr, .regLdg, .regTmv, .regBku, .regMcs, .regFlt, .ldgSeq, .ldgLost, .ctxs, .dram, .dramChk, .chans,
    .units, .flights, .snoop, .biWait, .ceWins, .servedBytes] s (xlateSpan g c pt region write dva n s) := by
  unfold xlateSpan
  repeat' first
    | intro _
    | with_reducible assumption
    | with_reducible exact Upd.refl _
    | ((with_reducible apply UpdS.snd); with_reducible assumption)
    | (extract_lets -underBinder +onlyGivenNames x; (with_reducible refine UpdS.cut x ?_ ?_); rotate_left; (clear_value x; revert x; intro _ _); rotate_right; subst x)
    | (extract_lets -underBinder +onlyGivenNames x; (with_reducible refine Upd.cut x ?_ ?_); rotate_left; (clear_value x; revert x; intro _ _); rotate_right; subst x)
    | (extract_lets -underBinder +onlyGivenNames x; (with_reducible refine UpdS.cutSnd x ?_ ?_); rotate_left; (clear_value x; revert x; intro _ _); rotate_right; subst x)
    | (extract_lets -underBinder +onlyGivenNames x; (with_reducible refine Upd.cutSnd x ?_ ?_); rotate_left; (clear_value x; revert x; intro _ _); rotate_right; subst x)
    | (extract_lets -underBinder +onlyGivenNames x; clear_value x; revert x; intro _)
    | with_reducible apply Upd.foldl
    | with_reducible apply UpdS.foldl
    | ((with_reducible apply UpdS.snd); with_reducible apply UpdS.foldl)
    | ((with_reducible apply Upd.goS (xlate_upd _ _ _ _ _ _)); rotate_left; exact rfl)
    | ((with_reducible apply UpdS.go (xlate_upd _ _ _ _ _ _)); rotate_left; exact rfl)
    | with_reducible apply UpdS.mk
    | dsimp only
    | ((with_reducible apply UpdS.of_eq); with_reducible assumption)
    | split

theorem xlatePeer_upd (root : Nat) (part : Nat) (write : Bool) (dva : Nat) (s : State) : UpdS [.outbox, .freeCtr, .regIrq, .regErr,
    .regLdg, .regBku, .regMcs, .regFlt, .ldgSeq, .ldgLost, .dram, .dramChk, .chans, .units, .flights, .snoop, .biWait, .ceWins,
    .servedBytes] s (xlatePeer root part write dva s) := by
  unfold xlatePeer
  repeat' first
    | intro _
    | with_reducible assumption
    | with_reducible exact Upd.refl _
    | ((with_reducible apply UpdS.snd); with_reducible assumption)
    | (extract_lets -underBinder +onlyGivenNames x; (with_reducible refine UpdS.cut x ?_ ?_); rotate_left; (clear_value x; revert x; intro _ _); rotate_right; subst x)
    | (extract_lets -underBinder +onlyGivenNames x; (with_reducible refine Upd.cut x ?_ ?_); rotate_left; (clear_value x; revert x; intro _ _); rotate_right; subst x)
    | (extract_lets -underBinder +onlyGivenNames x; (with_reducible refine UpdS.cutSnd x ?_ ?_); rotate_left; (clear_value x; revert x; intro _ _); rotate_right; subst x)
    | (extract_lets -underBinder +onlyGivenNames x; (with_reducible refine Upd.cutSnd x ?_ ?_); rotate_left; (clear_value x; revert x; intro _ _); rotate_right; subst x)
    | (extract_lets -underBinder +onlyGivenNames x; clear_value x; revert x; intro _)
    | with_reducible apply Upd.ite <;> intro _
    | with_reducible apply UpdS.ite <;> intro _
    | with_reducible apply UpdS.andThen
    | ((with_reducible apply Upd.goS (walk_upd _ _ _ _ _)); rotate_left; exact rfl)
    | ((with_reducible apply UpdS.go (walk_upd _ _ _ _ _)); rotate_left; exact rfl)
    | with_reducible apply UpdS.mk
    | dsimp only
    | ((with_reducible apply UpdS.of_eq); with_reducible assumption)
    | split

end Sys2Proof.Machine
end

