-- ==== Sys2Proof/Laws/UpdFrames.lean ====
section
/-!
SUPPORT. What each operation of Machine/Frames can change, and that it keeps the canonical form.
-/

namespace Sys2Proof.Machine

set_option maxRecDepth 4000
set_option linter.all false

theorem putPort_upd (p : Nat) (x : Port) (s : State) : Upd [.ports] s (putPort p x s) := by
  unfold putPort
  repeat' first
    | intro _
    | with_reducible assumption
    | with_reducible exact Upd.refl _
    | (extract_lets -underBinder +onlyGivenNames x; (with_reducible refine Upd.cut x ?_ ?_); rotate_left; (clear_value x; revert x; intro _ _); rotate_right; subst x)
    | (extract_lets -underBinder +onlyGivenNames x; clear_value x; revert x; intro _)
    | with_reducible apply SMap.wf_set
    | with_reducible apply SMap.wf_mapv
    | with_reducible apply SMap.wf_filter
    | with_reducible exact SMap.wf_nil
    | (first | with_reducible exact State.Ok.ports (by assumption))
    | ((with_reducible apply Upd.set_ports); rotate_left; exact rfl)

theorem putReach_upd (p : Nat) (a : Nat) (v : Bool) (s : State) : Upd [.ports] s (putReach p a v s) := by
  unfold putReach
  repeat' first
    | intro _
    | with_reducible assumption
    | with_reducible exact Upd.refl _
    | (extract_lets -underBinder +onlyGivenNames x; (with_reducible refine Upd.cut x ?_ ?_); rotate_left; (clear_value x; revert x; intro _ _); rotate_right; subst x)
    | (extract_lets -underBinder +onlyGivenNames x; clear_value x; revert x; intro _)
    | ((with_reducible apply Upd.go (putPort_upd _ _ _)); rotate_left; exact rfl)

theorem sendFrame_upd (p : Nat) (vc : Nat) (f : List Byte) (s : State) : Upd [.ports] s (sendFrame p vc f s) := by
  unfold sendFrame
  repeat' first
    | intro _
    | with_reducible assumption
    | with_reducible exact Upd.refl _
    | (extract_lets -underBinder +onlyGivenNames x; (with_reducible refine Upd.cut x ?_ ?_); rotate_left; (clear_value x; revert x; intro _ _); rotate_right; subst x)
    | (extract_lets -underBinder +onlyGivenNames x; clear_value x; revert x; intro _)
    | with_reducible apply Upd.getD
    | ((with_reducible apply Upd.go (putPort_upd _ _ _)); rotate_left; exact rfl)

theorem remoteFail_upd (p : Nat) (status : Nat) (peer : Nat) (dva : Nat) (s : State) : Upd [.outbox, .regIrq, .regErr, .regLdg, .regMcs,
    .regFlt, .ldgSeq, .ldgLost, .dram, .dramChk, .chans, .units, .snoop, .biWait, .servedBytes] s (remoteFail p status peer dva s) := by
  unfold remoteFail
  repeat' first
    | intro _
    | with_reducible assumption
    | with_reducible exact Upd.refl _
    | (extract_lets -underBinder +onlyGivenNames x; (with_reducible refine Upd.cut x ?_ ?_); rotate_left; (clear_value x; revert x; intro _ _); rotate_right; subst x)
    | (extract_lets -underBinder +onlyGivenNames x; clear_value x; revert x; intro _)
    | ((with_reducible apply Upd.go (raise_upd _ _ _)); rotate_left; exact rfl)
    | ((with_reducible apply Upd.go (logErr_upd _ _ _ _ _)); rotate_left; exact rfl)
    | ((with_reducible apply Upd.go (ledger_upd _ _ _ _)); rotate_left; exact rfl)

theorem launch_upd (p : Nat) (r : RemoteReq) (s : State) : Upd [.regEvl, .ports, .lastFrames] s (launch p r s) := by
  unfold launch
  repeat' first
    | intro _
    | with_reducible assumption
    | with_reducible exact Upd.refl _
    | (extract_lets -underBinder +onlyGivenNames x; (with_reducible refine Upd.cut x ?_ ?_); rotate_left; (clear_value x; revert x; intro _ _); rotate_right; subst x)
    | (extract_lets -underBinder +onlyGivenNames x; clear_value x; revert x; intro _)
    | with_reducible apply Upd.ite <;> intro _
    | ((with_reducible apply Upd.go (wr_upd _ _ _ _)); rotate_left; exact rfl)
    | ((with_reducible apply Upd.go (putPort_upd _ _ _)); rotate_left; exact rfl)
    | ((with_reducible apply Upd.go (sendFrame_upd _ _ _ _)); rotate_left; exact rfl)
    | ((with_reducible apply Upd.set_lastFrames); rotate_left; exact rfl)

theorem launchHeld_upd (p : Nat) (g : Nat) (c : Nat) (q : Nat) (k : Nat) (s : State) : Upd [.regEvl, .ports, .lastFrames] s (launchHeld p
    g c q k s) := by
  unfold launchHeld
  repeat' first
    | intro _
    | with_reducible assumption
    | with_reducible exact Upd.refl _
    | ((with_reducible apply UpdS.snd); with_reducible assumption)
    | with_reducible apply Upd.ite <;> intro _
    | with_reducible apply Upd.foldl
    | with_reducible apply UpdS.foldl
    | ((with_reducible apply UpdS.snd); with_reducible apply UpdS.foldl)
    | ((with_reducible apply Upd.go (launch_upd _ _ _)); rotate_left; exact rfl)
    | with_reducible apply UpdS.mk
    | dsimp only

theorem sendReq_upd (p : Nat) (g : Nat) (c : Nat) (q : Nat) (k : Nat) (h : Hdr) (data : List Byte) (s : State) : Upd [.regEvl, .ports,
    .lastFrames] s (sendReq p g c q k h data s) := by
  unfold sendReq
  repeat' first
    | intro _
    | with_reducible assumption
    | with_reducible exact Upd.refl _
    | (extract_lets -underBinder +onlyGivenNames x; (with_reducible refine Upd.cut x ?_ ?_); rotate_left; (clear_value x; revert x; intro _ _); rotate_right; subst x)
    | (extract_lets -underBinder +onlyGivenNames x; clear_value x; revert x; intro _)
    | with_reducible apply Upd.ite <;> intro _
    | ((with_reducible apply Upd.go (putPort_upd _ _ _)); rotate_left; exact rfl)
    | ((with_reducible apply Upd.go (launch_upd _ _ _)); rotate_left; exact rfl)

end Sys2Proof.Machine
end

