-- ==== Sys2Proof/Laws/UpdTmv.lean ====
section
/-!
SUPPORT. What each operation of Machine/Tmv can change, and that it keeps the canonical form.
-/

namespace Sys2Proof.Machine

set_option maxRecDepth 4000
set_option linter.all false

theorem readIdx_upd (g : Nat) (c : Ctx) (x : TmBody) (s : State) : UpdS [.outbox, .freeCtr, .regIrq, .regErr, .regSpd, .regFlt, .spads,
    .ceWins] s (readIdx g c x s) := by
  unfold readIdx
  repeat' first
    | intro _
    | with_reducible assumption
    | with_reducible exact Upd.refl _
    | ((with_reducible apply UpdS.snd); with_reducible assumption)
    | (extract_lets -underBinder +onlyGivenNames x; (with_reducible refine UpdS.cut x ?_ ?_); rotate_left; (clear_value x; revert x; intro _ _); rotate_right; subst x)
    | (extract_lets -underBinder +onlyGivenNames x; (with_reducible refine Upd.cut x ?_ ?_); rotate_left; (clear_value x; revert x; intro _ _); rotate_right; subst x)
    | (extract_lets -underBinder +onlyGivenNames x; (with_reducible refine UpdS.cutSnd x ?_ ?_); rotate_left; (clear_value x; revert x; intro _ _); rotate_right; subst x)
    | (extract_lets -underBinder +onlyGivenNames x; (with_reducible refine Upd.cutSnd x ?_ ?_); rotate_left; (clear_value x; revert x; intro _ _); rotate_right; subst x)
    | (extract_lets -underBinder +onlyGivenNames x; clear_value x; revert x; intro _)
    | with_reducible apply Upd.getD
    | ((with_reducible apply Upd.go (takeSlots_upd _ _ _ _)); rotate_left; exact rfl)
    | ((with_reducible apply Upd.goS (readSec_upd _ _ _ _)); rotate_left; exact rfl)
    | ((with_reducible apply UpdS.go (readSec_upd _ _ _ _)); rotate_left; exact rfl)
    | with_reducible apply UpdS.mk
    | dsimp only
    | ((with_reducible apply UpdS.of_eq); with_reducible assumption)
    | split

theorem xlateRuns_upd (g : Nat) (c : Nat) (region : Option Nat) (write : Bool) (ax : List TmRun) (s : State) : UpdS [.outbox, .freeCtr,
    .regIrq, .regErr, .regLdg, .regTmv, .regBku, .regMcs, .regFlt, .ldgSeq, .ldgLost, .ctxs, .dram, .dramChk, .chans, .units, .flights,
    .snoop, .biWait, .ceWins, .servedBytes] s (xlateRuns g c region write ax s) := by
  induction ax generalizing s with
  | nil =>
    unfold xlateRuns
    exact Upd.refl _
  | cons e es ih =>
  unfold xlateRuns
  repeat' first
    | intro _
    | with_reducible assumption
    | ((with_reducible apply UpdS.go (ih _)); rotate_left; exact rfl)
    | ((with_reducible apply UpdS.snd); with_reducible assumption)
    | ((with_reducible apply Upd.goS (ih _)); rotate_left; exact rfl)
    | with_reducible exact Upd.refl _
    | (extract_lets -underBinder +onlyGivenNames x; (with_reducible refine UpdS.cut x ?_ ?_); rotate_left; (clear_value x; revert x; intro _ _); rotate_right; subst x)
    | (extract_lets -underBinder +onlyGivenNames x; (with_reducible refine Upd.cut x ?_ ?_); rotate_left; (clear_value x; revert x; intro _ _); rotate_right; subst x)
    | (extract_lets -underBinder +onlyGivenNames x; (with_reducible refine UpdS.cutSnd x ?_ ?_); rotate_left; (clear_value x; revert x; intro _ _); rotate_right; subst x)
    | (extract_lets -underBinder +onlyGivenNames x; (with_reducible refine Upd.cutSnd x ?_ ?_); rotate_left; (clear_value x; revert x; intro _ _); rotate_right; subst x)
    | (extract_lets -underBinder +onlyGivenNames x; clear_value x; revert x; intro _)
    | ((with_reducible apply Upd.goS (xlateSpan_upd _ _ _ _ _ _ _ _)); rotate_left; exact rfl)
    | ((with_reducible apply UpdS.go (xlateSpan_upd _ _ _ _ _ _ _ _)); rotate_left; exact rfl)
    | with_reducible apply UpdS.mk
    | dsimp only
    | ((with_reducible apply UpdS.of_eq); with_reducible assumption)
    | split

theorem readPieces_upd (pt : PortOf) (ps : List (Nat × Nat)) (s : State) : UpdS [.outbox, .freeCtr, .regIrq, .regErr, .regLdg, .regBku,
    .regMcs, .regFlt, .ldgSeq, .ldgLost, .dram, .dramChk, .chans, .units, .flights, .snoop, .biWait, .ceWins, .servedBytes] s (readPieces
    pt ps s) := by
  unfold readPieces
  repeat' first
    | intro _
    | with_reducible assumption
    | with_reducible exact Upd.refl _
    | ((with_reducible apply UpdS.snd); with_reducible assumption)
    | (extract_lets -underBinder +onlyGivenNames x; (with_reducible refine UpdS.cut x ?_ ?_); rotate_left; (clear_value x; revert x; intro _ _); rotate_right; subst x)
    | (extract_lets -underBinder +onlyGivenNames x; (with_reducible refine Upd.cut x ?_ ?_); rotate_left; (clear_value x; revert x; intro _ _); rotate_right; subst x)
    | (extract_lets -underBinder +onlyGivenNames x; (with_reducible refine UpdS.cutSnd x ?_ ?_); rotate_left; (clear_value x; revert x; intro _ _); rotate_right; subst x)
    | (extract_lets -underBinder +onlyGivenNames x; (with_reducible refine Upd.cutSnd x ?_ ?_); rotate_left; (clear_value x; revert x; intro _ _); rotate_right; subst x)
    | (extract_lets -underBinder +onlyGivenNames x; clear_value x; revert x; intro _)
    | with_reducible apply Upd.foldl
    | with_reducible apply UpdS.foldl
    | ((with_reducible apply UpdS.snd); with_reducible apply UpdS.foldl)
    | ((with_reducible apply Upd.goS (readSpan_upd _ _ _ _)); rotate_left; exact rfl)
    | ((with_reducible apply UpdS.go (readSpan_upd _ _ _ _)); rotate_left; exact rfl)
    | with_reducible apply UpdS.mk
    | dsimp only

theorem writeMarked_upd (a : Nat) (bytes : List (Byte × Bool)) (g : Nat) (s : State) : Upd [.outbox, .freeCtr, .regIrq, .regErr, .regLdg,
    .regBku, .regMcs, .regFlt, .ldgSeq, .ldgLost, .dram, .dramChk, .chans, .units, .flights, .snoop, .biWait, .ceWins, .servedBytes] s
    (writeMarked a bytes g s) := by
  unfold writeMarked
  repeat' first
    | intro _
    | with_reducible assumption
    | with_reducible exact Upd.refl _
    | ((with_reducible apply UpdS.snd); with_reducible assumption)
    | (extract_lets -underBinder +onlyGivenNames x; (with_reducible refine Upd.cut x ?_ ?_); rotate_left; (clear_value x; revert x; intro _ _); rotate_right; subst x)
    | (extract_lets -underBinder +onlyGivenNames x; clear_value x; revert x; intro _)
    | with_reducible apply Upd.foldl
    | with_reducible apply UpdS.foldl
    | ((with_reducible apply UpdS.snd); with_reducible apply UpdS.foldl)
    | ((with_reducible apply Upd.go (writeCol_upd _ _)); rotate_left; exact rfl)
    | with_reducible apply UpdS.mk
    | dsimp only

theorem writePieces_upd (ps : List (Nat × Nat)) (bytes : List (Byte × Bool)) (g : Nat) (s : State) : Upd [.outbox, .freeCtr, .regIrq,
    .regErr, .regLdg, .regBku, .regMcs, .regFlt, .ldgSeq, .ldgLost, .dram, .dramChk, .chans, .units, .flights, .snoop, .biWait, .ceWins,
    .servedBytes] s (writePieces ps bytes g s) := by
  unfold writePieces
  repeat' first
    | intro _
    | with_reducible assumption
    | with_reducible exact Upd.refl _
    | ((with_reducible apply UpdS.snd); with_reducible assumption)
    | with_reducible apply Upd.foldl
    | with_reducible apply UpdS.foldl
    | ((with_reducible apply UpdS.snd); with_reducible apply UpdS.foldl)
    | ((with_reducible apply Upd.go (writeMarked_upd _ _ _ _)); rotate_left; exact rfl)
    | with_reducible apply UpdS.mk
    | dsimp only

theorem putUnits_upd (way : SpWay) (g : Nat) (us : List SpUnit) (s : State) : Upd [.outbox, .regIrq, .regErr, .regSpd, .regFlt, .spads,
    .spad, .spadChk, .ceWins] s (putUnits way g us s) := by
  unfold putUnits
  repeat' first
    | intro _
    | with_reducible assumption
    | with_reducible exact Upd.refl _
    | ((with_reducible apply UpdS.snd); with_reducible assumption)
    | (extract_lets -underBinder +onlyGivenNames x; (with_reducible refine Upd.cut x ?_ ?_); rotate_left; (clear_value x; revert x; intro _ _); rotate_right; subst x)
    | (extract_lets -underBinder +onlyGivenNames x; clear_value x; revert x; intro _)
    | with_reducible apply Upd.foldl
    | with_reducible apply UpdS.foldl
    | ((with_reducible apply UpdS.snd); with_reducible apply UpdS.foldl)
    | ((with_reducible apply Upd.go (narrowPut_upd _ _ _ _)); rotate_left; exact rfl)
    | ((with_reducible apply Upd.go (writeNarrow_upd _ _ _ _)); rotate_left; exact rfl)
    | ((with_reducible apply Upd.go (writeSp_upd _ _ _ _ _)); rotate_left; exact rfl)
    | with_reducible apply UpdS.mk
    | dsimp only
    | split

theorem readPlane_upd (g : Nat) (us : List SpUnit) (s : State) : UpdS [.outbox, .freeCtr, .regIrq, .regErr, .regSpd, .regFlt, .spads,
    .spad, .spadChk, .ceWins] s (readPlane g us s) := by
  unfold readPlane
  repeat' first
    | intro _
    | with_reducible assumption
    | with_reducible exact Upd.refl _
    | ((with_reducible apply UpdS.snd); with_reducible assumption)
    | (extract_lets -underBinder +onlyGivenNames x; (with_reducible refine UpdS.cut x ?_ ?_); rotate_left; (clear_value x; revert x; intro _ _); rotate_right; subst x)
    | (extract_lets -underBinder +onlyGivenNames x; (with_reducible refine Upd.cut x ?_ ?_); rotate_left; (clear_value x; revert x; intro _ _); rotate_right; subst x)
    | (extract_lets -underBinder +onlyGivenNames x; (with_reducible refine UpdS.cutSnd x ?_ ?_); rotate_left; (clear_value x; revert x; intro _ _); rotate_right; subst x)
    | (extract_lets -underBinder +onlyGivenNames x; (with_reducible refine Upd.cutSnd x ?_ ?_); rotate_left; (clear_value x; revert x; intro _ _); rotate_right; subst x)
    | (extract_lets -underBinder +onlyGivenNames x; clear_value x; revert x; intro _)
    | with_reducible apply Upd.foldl
    | with_reducible apply UpdS.foldl
    | ((with_reducible apply UpdS.snd); with_reducible apply UpdS.foldl)
    | ((with_reducible apply Upd.goS (narrowRead_upd _ _ _)); rotate_left; exact rfl)
    | ((with_reducible apply UpdS.go (narrowRead_upd _ _ _)); rotate_left; exact rfl)
    | with_reducible apply UpdS.mk
    | dsimp only

theorem readUnits_upd (way : SpWay) (g : Nat) (us : List SpUnit) (s : State) : UpdS [.outbox, .freeCtr, .regIrq, .regErr, .regSpd,
    .regFlt, .spads, .spad, .spadChk, .ceWins] s (readUnits way g us s) := by
  unfold readUnits
  repeat' first
    | intro _
    | with_reducible assumption
    | with_reducible exact Upd.refl _
    | ((with_reducible apply UpdS.snd); with_reducible assumption)
    | (extract_lets -underBinder +onlyGivenNames x; (with_reducible refine UpdS.cut x ?_ ?_); rotate_left; (clear_value x; revert x; intro _ _); rotate_right; subst x)
    | (extract_lets -underBinder +onlyGivenNames x; (with_reducible refine Upd.cut x ?_ ?_); rotate_left; (clear_value x; revert x; intro _ _); rotate_right; subst x)
    | (extract_lets -underBinder +onlyGivenNames x; (with_reducible refine UpdS.cutSnd x ?_ ?_); rotate_left; (clear_value x; revert x; intro _ _); rotate_right; subst x)
    | (extract_lets -underBinder +onlyGivenNames x; (with_reducible refine Upd.cutSnd x ?_ ?_); rotate_left; (clear_value x; revert x; intro _ _); rotate_right; subst x)
    | (extract_lets -underBinder +onlyGivenNames x; (with_reducible refine isFn x ?_); subst x)
    | (extract_lets -underBinder +onlyGivenNames x; clear_value x; revert x; intro _)
    | with_reducible apply Upd.foldl
    | with_reducible apply UpdS.foldl
    | ((with_reducible apply UpdS.snd); with_reducible apply UpdS.foldl)
    | with_reducible apply Upd.getD
    | ((with_reducible apply Upd.goS (readWide_upd _ _ _ _ _)); rotate_left; exact rfl)
    | ((with_reducible apply UpdS.go (readWide_upd _ _ _ _ _)); rotate_left; exact rfl)
    | ((with_reducible apply Upd.goS (readNarrow_upd _ _ _ _)); rotate_left; exact rfl)
    | ((with_reducible apply UpdS.go (readNarrow_upd _ _ _ _)); rotate_left; exact rfl)
    | ((with_reducible apply Upd.goS (readPlane_upd _ _ _)); rotate_left; exact rfl)
    | ((with_reducible apply UpdS.go (readPlane_upd _ _ _)); rotate_left; exact rfl)
    | with_reducible apply UpdS.mk
    | dsimp only
    | ((with_reducible apply UpdS.of_eq); with_reducible assumption)
    | split

theorem readSource_upd (g : Nat) (c : Ctx) (x : TmBody) (type : Nat) (ms : List UnitMove) (s : State) : UpdS [.outbox, .freeCtr, .regIrq,
    .regErr, .regSpd, .regFlt, .spads, .spad, .spadChk, .ceWins] s (readSource g c x type ms s) := by
  unfold readSource
  repeat' first
    | intro _
    | with_reducible assumption
    | with_reducible exact Upd.refl _
    | ((with_reducible apply UpdS.snd); with_reducible assumption)
    | (extract_lets -underBinder +onlyGivenNames x; (with_reducible refine UpdS.cut x ?_ ?_); rotate_left; (clear_value x; revert x; intro _ _); rotate_right; subst x)
    | (extract_lets -underBinder +onlyGivenNames x; (with_reducible refine Upd.cut x ?_ ?_); rotate_left; (clear_value x; revert x; intro _ _); rotate_right; subst x)
    | (extract_lets -underBinder +onlyGivenNames x; (with_reducible refine UpdS.cutSnd x ?_ ?_); rotate_left; (clear_value x; revert x; intro _ _); rotate_right; subst x)
    | (extract_lets -underBinder +onlyGivenNames x; (with_reducible refine Upd.cutSnd x ?_ ?_); rotate_left; (clear_value x; revert x; intro _ _); rotate_right; subst x)
    | (extract_lets -underBinder +onlyGivenNames x; clear_value x; revert x; intro _)
    | ((with_reducible apply Upd.goS (readUnits_upd _ _ _ _)); rotate_left; exact rfl)
    | ((with_reducible apply UpdS.go (readUnits_upd _ _ _ _)); rotate_left; exact rfl)
    | with_reducible apply UpdS.mk
    | dsimp only

theorem finishUnits_upd (g : Nat) (c : Ctx) (x : TmBody) (src : UnitSrc) (s : State) : Upd [.outbox, .regIrq, .regErr, .regSpd, .regTmv,
    .regFlt, .spads, .spad, .spadChk, .ceWins] s (finishUnits g c x src s) := by
  unfold finishUnits
  repeat' first
    | intro _
    | with_reducible assumption
    | with_reducible exact Upd.refl _
    | (extract_lets -underBinder +onlyGivenNames x; (with_reducible refine Upd.cut x ?_ ?_); rotate_left; (clear_value x; revert x; intro _ _); rotate_right; subst x)
    | (extract_lets -underBinder +onlyGivenNames x; (with_reducible refine isFn x ?_); subst x)
    | (extract_lets -underBinder +onlyGivenNames x; clear_value x; revert x; intro _)
    | with_reducible apply Upd.ite <;> intro _
    | ((with_reducible apply Upd.go (count_upd _ _ _ _)); rotate_left; exact rfl)
    | ((with_reducible apply Upd.go (writeSp_upd _ _ _ _ _)); rotate_left; exact rfl)
    | split

theorem freeBytes_upd (n : Nat) (s : State) : UpdS [.freeCtr] s (freeBytes n s) := by
  unfold freeBytes
  repeat' first
    | intro _
    | with_reducible assumption
    | with_reducible exact Upd.refl _
    | ((with_reducible apply UpdS.snd); with_reducible assumption)
    | ((with_reducible apply Upd.go (freshNext_upd _)); rotate_left; exact rfl)
    | with_reducible apply UpdS.mk
    | dsimp only

theorem undefineDest_upd (g : Nat) (c : Nat) (x : TmBody) (cx : Ctx) (type : Nat) (bind : Bind) (base : Nat) (ms : List UnitMove) (s :
    State) : Upd [.outbox, .freeCtr, .regIrq, .regErr, .regLdg, .regTmv, .regBku, .regMcs, .regFlt, .ldgSeq, .ldgLost, .ctxs, .spads,
    .spad, .spadChk, .dram, .dramChk, .chans, .units, .flights, .snoop, .biWait, .ceWins, .servedBytes] s (undefineDest g c x cx type bind
    base ms s) := by
  unfold undefineDest
  repeat' first
    | intro _
    | with_reducible assumption
    | with_reducible exact Upd.refl _
    | ((with_reducible apply UpdS.snd); with_reducible assumption)
    | (extract_lets -underBinder +onlyGivenNames x; (with_reducible refine Upd.cut x ?_ ?_); rotate_left; (clear_value x; revert x; intro _ _); rotate_right; subst x)
    | (extract_lets -underBinder +onlyGivenNames x; (with_reducible refine Upd.cutSnd x ?_ ?_); rotate_left; (clear_value x; revert x; intro _ _); rotate_right; subst x)
    | (extract_lets -underBinder +onlyGivenNames x; clear_value x; revert x; intro _)
    | with_reducible apply Upd.ite <;> intro _
    | with_reducible apply UpdS.ite <;> intro _
    | with_reducible apply Upd.foldl
    | with_reducible apply UpdS.foldl
    | ((with_reducible apply UpdS.snd); with_reducible apply UpdS.foldl)
    | ((with_reducible apply Upd.go (writeBanks_upd _ _ _ _)); rotate_left; exact rfl)
    | ((with_reducible apply Upd.goS (xlateSpan_upd _ _ _ _ _ _ _ _)); rotate_left; exact rfl)
    | ((with_reducible apply UpdS.go (xlateSpan_upd _ _ _ _ _ _ _ _)); rotate_left; exact rfl)
    | ((with_reducible apply Upd.go (writePieces_upd _ _ _ _)); rotate_left; exact rfl)
    | ((with_reducible apply Upd.goS (freeBytes_upd _ _)); rotate_left; exact rfl)
    | ((with_reducible apply UpdS.go (freeBytes_upd _ _)); rotate_left; exact rfl)
    | with_reducible apply UpdS.mk
    | dsimp only
    | ((with_reducible apply UpdS.of_eq); with_reducible assumption)
    | split

theorem tmFault_upd (g : Nat) (c : Nat) (q : Nat) (k : Nat) (code : Nat) (operand : Nat) (info : Nat) (entry : Nat) (s : State) : Upd
    [.outbox, .regIrq, .regErr, .regSpd, .regTmv, .regFlt, .ctxs, .runs, .engines, .spads, .spad, .spadChk, .ceWins] s (tmFault g c q k
    code operand info entry s) := by
  unfold tmFault
  repeat' first
    | intro _
    | with_reducible assumption
    | with_reducible exact Upd.refl _
    | (extract_lets -underBinder +onlyGivenNames x; (with_reducible refine Upd.cut x ?_ ?_); rotate_left; (clear_value x; revert x; intro _ _); rotate_right; subst x)
    | (extract_lets -underBinder +onlyGivenNames x; clear_value x; revert x; intro _)
    | with_reducible apply Upd.ite <;> intro _
    | ((with_reducible apply Upd.go (count_upd _ _ _ _)); rotate_left; exact rfl)
    | ((with_reducible apply Upd.go (raise_upd _ _ _)); rotate_left; exact rfl)
    | ((with_reducible apply Upd.go (logErr_upd _ _ _ _ _)); rotate_left; exact rfl)
    | ((with_reducible apply Upd.go (endWork_upd _ _ _ _ _ _ _ _)); rotate_left; exact rfl)
    | split

theorem moveIn_upd (g : Nat) (type : Nat) (x : TmBody) (c : Ctx) (ms : List UnitMove) (ps : List (Nat × Nat)) (s : State) : UpdS [.outbox,
    .freeCtr, .regIrq, .regErr, .regLdg, .regSpd, .regBku, .regMcs, .regFlt, .ldgSeq, .ldgLost, .spads, .spad, .spadChk, .dram, .dramChk,
    .chans, .units, .flights, .snoop, .biWait, .ceWins, .servedBytes] s (moveIn g type x c ms ps s) := by
  unfold moveIn
  repeat' first
    | intro _
    | with_reducible assumption
    | with_reducible exact Upd.refl _
    | ((with_reducible apply UpdS.snd); with_reducible assumption)
    | (extract_lets -underBinder +onlyGivenNames x; (with_reducible refine UpdS.cut x ?_ ?_); rotate_left; (clear_value x; revert x; intro _ _); rotate_right; subst x)
    | (extract_lets -underBinder +onlyGivenNames x; (with_reducible refine Upd.cut x ?_ ?_); rotate_left; (clear_value x; revert x; intro _ _); rotate_right; subst x)
    | (extract_lets -underBinder +onlyGivenNames x; (with_reducible refine UpdS.cutSnd x ?_ ?_); rotate_left; (clear_value x; revert x; intro _ _); rotate_right; subst x)
    | (extract_lets -underBinder +onlyGivenNames x; (with_reducible refine Upd.cutSnd x ?_ ?_); rotate_left; (clear_value x; revert x; intro _ _); rotate_right; subst x)
    | (extract_lets -underBinder +onlyGivenNames x; clear_value x; revert x; intro _)
    | ((with_reducible apply Upd.goS (readPieces_upd _ _ _)); rotate_left; exact rfl)
    | ((with_reducible apply UpdS.go (readPieces_upd _ _ _)); rotate_left; exact rfl)
    | ((with_reducible apply Upd.go (putUnits_upd _ _ _ _)); rotate_left; exact rfl)
    | with_reducible apply UpdS.mk
    | dsimp only

theorem moveOut_upd (g : Nat) (x : TmBody) (a : Arith) (rs : List (TmRun × List (Byte × Bool) × List (Nat × Nat))) (s : State) : UpdS
    [.outbox, .freeCtr, .regIrq, .regErr, .regLdg, .regBku, .regMcs, .regFlt, .ldgSeq, .ldgLost, .dram, .dramChk, .chans, .units,
    .flights, .snoop, .biWait, .ceWins, .servedBytes] s (moveOut g x a rs s) := by
  unfold moveOut
  repeat' first
    | intro _
    | with_reducible assumption
    | with_reducible exact Upd.refl _
    | ((with_reducible apply UpdS.snd); with_reducible assumption)
    | (extract_lets -underBinder +onlyGivenNames x; (with_reducible refine UpdS.cut x ?_ ?_); rotate_left; (clear_value x; revert x; intro _ _); rotate_right; subst x)
    | (extract_lets -underBinder +onlyGivenNames x; (with_reducible refine Upd.cut x ?_ ?_); rotate_left; (clear_value x; revert x; intro _ _); rotate_right; subst x)
    | (extract_lets -underBinder +onlyGivenNames x; (with_reducible refine UpdS.cutSnd x ?_ ?_); rotate_left; (clear_value x; revert x; intro _ _); rotate_right; subst x)
    | (extract_lets -underBinder +onlyGivenNames x; (with_reducible refine Upd.cutSnd x ?_ ?_); rotate_left; (clear_value x; revert x; intro _ _); rotate_right; subst x)
    | (extract_lets -underBinder +onlyGivenNames x; clear_value x; revert x; intro _)
    | with_reducible apply Upd.ite <;> intro _
    | with_reducible apply UpdS.ite <;> intro _
    | with_reducible apply Upd.foldl
    | with_reducible apply UpdS.foldl
    | ((with_reducible apply UpdS.snd); with_reducible apply UpdS.foldl)
    | ((with_reducible apply Upd.goS (readPieces_upd _ _ _)); rotate_left; exact rfl)
    | ((with_reducible apply UpdS.go (readPieces_upd _ _ _)); rotate_left; exact rfl)
    | ((with_reducible apply Upd.go (writePieces_upd _ _ _ _)); rotate_left; exact rfl)
    | with_reducible apply UpdS.mk
    | dsimp only
    | split

theorem issueFrames_upd (g : Nat) (c : Nat) (q : Nat) (k : Nat) (ax : List (Hdr × List Byte)) (s : State) : UpdO [.regEvl, .ports,
    .lastFrames] s (issueFrames g c q k ax s) := by
  induction ax generalizing s with
  | nil =>
    unfold issueFrames
    exact UpdO.some (Upd.refl _)
  | cons e es ih =>
  unfold issueFrames
  repeat' first
    | intro _
    | with_reducible assumption
    | ((with_reducible apply UpdO.go (ih _)); rotate_left; exact rfl)
    | ((with_reducible apply Upd.go (ih _)); rotate_left; exact rfl)
    | with_reducible exact Upd.refl _
    | (extract_lets -underBinder +onlyGivenNames x; (with_reducible refine UpdO.cut x ?_ ?_); rotate_left; (clear_value x; revert x; intro _ _); rotate_right; subst x)
    | (extract_lets -underBinder +onlyGivenNames x; (with_reducible refine Upd.cut x ?_ ?_); rotate_left; (clear_value x; revert x; intro _ _); rotate_right; subst x)
    | (extract_lets -underBinder +onlyGivenNames x; clear_value x; revert x; intro _)
    | ((with_reducible apply Upd.go (sendReq_upd _ _ _ _ _ _ _ _)); rotate_left; exact rfl)
    | with_reducible exact UpdO.none
    | with_reducible apply UpdO.some
    | split

theorem tmPlan_upd (s : State) (g : Nat) (c : Nat) (w : Work) : UpdS [.outbox, .freeCtr, .regIrq, .regErr, .regSpd, .regFlt, .spads,
    .ceWins] s (tmPlan s g c w) := by
  unfold tmPlan
  repeat' first
    | intro _
    | with_reducible assumption
    | with_reducible exact Upd.refl _
    | ((with_reducible apply UpdS.snd); with_reducible assumption)
    | (extract_lets -underBinder +onlyGivenNames x; (with_reducible refine UpdS.cut x ?_ ?_); rotate_left; (clear_value x; revert x; intro _ _); rotate_right; subst x)
    | (extract_lets -underBinder +onlyGivenNames x; (with_reducible refine Upd.cut x ?_ ?_); rotate_left; (clear_value x; revert x; intro _ _); rotate_right; subst x)
    | (extract_lets -underBinder +onlyGivenNames x; (with_reducible refine UpdS.cutSnd x ?_ ?_); rotate_left; (clear_value x; revert x; intro _ _); rotate_right; subst x)
    | (extract_lets -underBinder +onlyGivenNames x; (with_reducible refine Upd.cutSnd x ?_ ?_); rotate_left; (clear_value x; revert x; intro _ _); rotate_right; subst x)
    | (extract_lets -underBinder +onlyGivenNames x; clear_value x; revert x; intro _)
    | with_reducible apply Upd.foldl
    | with_reducible apply UpdS.foldl
    | ((with_reducible apply UpdS.snd); with_reducible apply UpdS.foldl)
    | with_reducible apply Upd.getD
    | ((with_reducible apply Upd.goS (readIdx_upd _ _ _ _)); rotate_left; exact rfl)
    | ((with_reducible apply UpdS.go (readIdx_upd _ _ _ _)); rotate_left; exact rfl)
    | with_reducible apply UpdS.mk
    | dsimp only

/-- What `tmRemote` may change. -/
def tmRemote_parts : List Part :=
  [.outbox, .freeCtr, .regIrq, .regErr, .regLdg, .regSpd, .regTmv, .regBku, .regMcs, .regFlt, .regEvl, .ldgSeq, .ldgLost, .ctxs, .runs,
   .engines, .spads, .spad, .spadChk, .dram, .dramChk, .chans, .units, .flights, .snoop, .biWait, .ceWins, .servedBytes, .ports,
   .lastFrames]

theorem tmRemote_upd (g : Nat) (c : Nat) (q : Nat) (w : Work) (m : TmMove) (s : State) : Upd tmRemote_parts s (tmRemote g c q w m s) :=
    by
  unfold tmRemote
  repeat' first
    | intro _
    | with_reducible assumption
    | with_reducible exact Upd.refl _
    | ((with_reducible apply UpdS.snd); with_reducible assumption)
    | (extract_lets -underBinder +onlyGivenNames x; (with_reducible refine Upd.cut x ?_ ?_); rotate_left; (clear_value x; revert x; intro _ _); rotate_right; subst x)
    | (extract_lets -underBinder +onlyGivenNames x; (with_reducible refine UpdS.cut x ?_ ?_); rotate_left; (clear_value x; revert x; intro _ _); rotate_right; subst x)
    | (extract_lets -underBinder +onlyGivenNames x; (with_reducible refine Upd.cutSnd x ?_ ?_); rotate_left; (clear_value x; revert x; intro _ _); rotate_right; subst x)
    | (extract_lets -underBinder +onlyGivenNames x; (with_reducible refine UpdS.cutSnd x ?_ ?_); rotate_left; (clear_value x; revert x; intro _ _); rotate_right; subst x)
    | (extract_lets -underBinder +onlyGivenNames x; (with_reducible refine Upd.cutO x ?_ ?_); rotate_left; (clear_value x; revert x; intro _ _); rotate_right; subst x)
    | (extract_lets -underBinder +onlyGivenNames x; (with_reducible refine UpdS.cutO x ?_ ?_); rotate_left; (clear_value x; revert x; intro _ _); rotate_right; subst x)
    | (extract_lets -underBinder +onlyGivenNames x; (with_reducible refine isFn x ?_); subst x)
    | (extract_lets -underBinder +onlyGivenNames x; clear_value x; revert x; intro _)
    | with_reducible apply Upd.ite <;> intro _
    | with_reducible apply UpdO.ite <;> intro _
    | with_reducible apply UpdS.ite <;> intro _
    | with_reducible apply Upd.getD
    | ((with_reducible apply Upd.go (count_upd _ _ _ _)); rotate_left; first | exact rfl | (split <;> rfl))
    | ((with_reducible apply Upd.go (mapWork_upd _ _ _ _ _ _)); rotate_left; exact rfl)
    | ((with_reducible apply Upd.go (engineFree_upd _ _ _ _ _)); rotate_left; exact rfl)
    | ((with_reducible apply Upd.go (endWork_upd _ _ _ _ _ _ _ _)); rotate_left; exact rfl)
    | ((with_reducible apply Upd.go (remoteFail_upd _ _ _ _ _)); rotate_left; exact rfl)
    | ((with_reducible apply Upd.go (putUnits_upd _ _ _ _)); rotate_left; exact rfl)
    | ((with_reducible apply Upd.goS (readSource_upd _ _ _ _ _ _)); rotate_left; exact rfl)
    | ((with_reducible apply UpdS.go (readSource_upd _ _ _ _ _ _)); rotate_left; exact rfl)
    | ((with_reducible apply Upd.go (finishUnits_upd _ _ _ _ _)); rotate_left; exact rfl)
    | ((with_reducible apply Upd.go (undefineDest_upd _ _ _ _ _ _ _ _ _)); rotate_left; exact rfl)
    | ((with_reducible apply Upd.go (tmFault_upd _ _ _ _ _ _ _ _ _)); rotate_left; exact rfl)
    | ((with_reducible apply UpdO.go (issueFrames_upd _ _ _ _ _ _)); rotate_left; exact rfl)
    | with_reducible apply UpdS.mk
    | with_reducible exact UpdO.none
    | with_reducible apply UpdO.some
    | ((with_reducible apply UpdS.of_eq); with_reducible assumption)
    | ((with_reducible apply UpdO.of_eq); with_reducible assumption)
    | split

theorem tmAct_upd (g : Nat) (c : Nat) (q : Nat) (w : Work) (s : State) : Upd tmRemote_parts s (tmAct g c q w s) := by
  unfold tmAct
  repeat' first
    | intro _
    | with_reducible assumption
    | with_reducible exact Upd.refl _
    | ((with_reducible apply UpdS.snd); with_reducible assumption)
    | (extract_lets -underBinder +onlyGivenNames x; (with_reducible refine Upd.cut x ?_ ?_); rotate_left; (clear_value x; revert x; intro _ _); rotate_right; subst x)
    | (extract_lets -underBinder +onlyGivenNames x; (with_reducible refine Upd.cutSnd x ?_ ?_); rotate_left; (clear_value x; revert x; intro _ _); rotate_right; subst x)
    | (extract_lets -underBinder +onlyGivenNames x; (with_reducible refine isFn x ?_); subst x)
    | (extract_lets -underBinder +onlyGivenNames x; clear_value x; revert x; intro _)
    | with_reducible apply Upd.ite <;> intro _
    | with_reducible apply UpdS.ite <;> intro _
    | with_reducible apply UpdO.orElse
    | ((with_reducible apply Upd.go (count_upd _ _ _ _)); rotate_left; first | exact rfl | (split <;> rfl))
    | ((with_reducible apply Upd.go (noteWaits_upd _ _ _ _)); rotate_left; exact rfl)
    | ((with_reducible apply Upd.go (snoopLines_upd _ _)); rotate_left; exact rfl)
    | ((with_reducible apply Upd.go (mapWork_upd _ _ _ _ _ _)); rotate_left; exact rfl)
    | ((with_reducible apply Upd.go (endWork_upd _ _ _ _ _ _ _ _)); rotate_left; exact rfl)
    | ((with_reducible apply Upd.goS (xlateRuns_upd _ _ _ _ _ _)); rotate_left; exact rfl)
    | ((with_reducible apply UpdS.go (xlateRuns_upd _ _ _ _ _ _)); rotate_left; exact rfl)
    | ((with_reducible apply Upd.goS (readSource_upd _ _ _ _ _ _)); rotate_left; exact rfl)
    | ((with_reducible apply UpdS.go (readSource_upd _ _ _ _ _ _)); rotate_left; exact rfl)
    | ((with_reducible apply Upd.go (finishUnits_upd _ _ _ _ _)); rotate_left; exact rfl)
    | ((with_reducible apply Upd.go (undefineDest_upd _ _ _ _ _ _ _ _ _)); rotate_left; exact rfl)
    | ((with_reducible apply Upd.go (tmFault_upd _ _ _ _ _ _ _ _ _)); rotate_left; exact rfl)
    | ((with_reducible apply Upd.goS (moveIn_upd _ _ _ _ _ _ _)); rotate_left; exact rfl)
    | ((with_reducible apply UpdS.go (moveIn_upd _ _ _ _ _ _ _)); rotate_left; exact rfl)
    | ((with_reducible apply Upd.goS (moveOut_upd _ _ _ _ _)); rotate_left; exact rfl)
    | ((with_reducible apply UpdS.go (moveOut_upd _ _ _ _ _)); rotate_left; exact rfl)
    | ((with_reducible apply Upd.goS (tmPlan_upd _ _ _ _)); rotate_left; exact rfl)
    | ((with_reducible apply UpdS.go (tmPlan_upd _ _ _ _)); rotate_left; exact rfl)
    | ((with_reducible apply Upd.go (tmRemote_upd _ _ _ _ _ _)); rotate_left; exact rfl)
    | with_reducible apply UpdS.mk
    | ((with_reducible apply UpdS.of_eq); with_reducible assumption)
    | split

theorem tmRun_upd (g : Nat) (c : Nat) (q : Nat) (types : List Nat) (s : State) : Upd tmRemote_parts s (tmRun g c q types s) := by
  unfold tmRun
  repeat' first
    | intro _
    | with_reducible assumption
    | with_reducible exact Upd.refl _
    | (extract_lets -underBinder +onlyGivenNames x; (with_reducible refine Upd.cut x ?_ ?_); rotate_left; (clear_value x; revert x; intro _ _); rotate_right; subst x)
    | (extract_lets -underBinder +onlyGivenNames x; clear_value x; revert x; intro _)
    | with_reducible apply Upd.ite <;> intro _
    | ((with_reducible apply Upd.go (tmAct_upd _ _ _ _ _)); rotate_left; exact rfl)
    | split

theorem execLoad_upd (core : Nat) (ctx : Nat) (s : State) : UpdR tmRemote_parts s (execLoad core ctx s) := by
  unfold execLoad
  repeat' first
    | intro _
    | with_reducible assumption
    | with_reducible exact Upd.refl _
    | with_reducible apply UpdR.next
    | ((with_reducible apply Upd.go (tmRun_upd _ _ _ _ _)); rotate_left; exact rfl)

theorem execStore_upd (core : Nat) (ctx : Nat) (s : State) : UpdR tmRemote_parts s (execStore core ctx s) := by
  unfold execStore
  repeat' first
    | intro _
    | with_reducible assumption
    | with_reducible exact Upd.refl _
    | with_reducible apply UpdR.next
    | ((with_reducible apply Upd.go (tmRun_upd _ _ _ _ _)); rotate_left; exact rfl)

theorem execGather_upd (core : Nat) (ctx : Nat) (s : State) : UpdR tmRemote_parts s (execGather core ctx s) := by
  unfold execGather
  repeat' first
    | intro _
    | with_reducible assumption
    | with_reducible exact Upd.refl _
    | with_reducible apply UpdR.next
    | ((with_reducible apply Upd.go (tmRun_upd _ _ _ _ _)); rotate_left; exact rfl)

theorem execScatter_upd (core : Nat) (ctx : Nat) (s : State) : UpdR tmRemote_parts s (execScatter core ctx s) := by
  unfold execScatter
  repeat' first
    | intro _
    | with_reducible assumption
    | with_reducible exact Upd.refl _
    | with_reducible apply UpdR.next
    | ((with_reducible apply Upd.go (tmRun_upd _ _ _ _ _)); rotate_left; exact rfl)

theorem reissueFrames_upd (g : Nat) (c : Nat) (q : Nat) (k : Nat) (s : State) : Upd [.regTmv, .ports] s (reissueFrames g c q k s) := by
  unfold reissueFrames
  repeat' first
    | intro _
    | with_reducible assumption
    | with_reducible exact Upd.refl _
    | ((with_reducible apply UpdS.snd); with_reducible assumption)
    | (extract_lets -underBinder +onlyGivenNames x; (with_reducible refine Upd.cut x ?_ ?_); rotate_left; (clear_value x; revert x; intro _ _); rotate_right; subst x)
    | (extract_lets -underBinder +onlyGivenNames x; clear_value x; revert x; intro _)
    | with_reducible apply Upd.ite <;> intro _
    | with_reducible apply Upd.foldl
    | with_reducible apply UpdS.foldl
    | ((with_reducible apply UpdS.snd); with_reducible apply UpdS.foldl)
    | ((with_reducible apply Upd.go (count_upd _ _ _ _)); rotate_left; exact rfl)
    | ((with_reducible apply Upd.go (putPort_upd _ _ _)); rotate_left; exact rfl)
    | ((with_reducible apply Upd.go (sendFrame_upd _ _ _ _)); rotate_left; exact rfl)
    | with_reducible apply UpdS.mk
    | dsimp only

theorem execRetryReissue_upd (core : Nat) (ctx : Nat) (q : Nat) (s : State) : UpdR tmRemote_parts s (execRetryReissue core ctx q s) := by
  unfold execRetryReissue
  repeat' first
    | intro _
    | with_reducible assumption
    | with_reducible exact Upd.refl _
    | (extract_lets -underBinder +onlyGivenNames x; (with_reducible refine UpdR.cut x ?_ ?_); rotate_left; (clear_value x; revert x; intro _ _); rotate_right; subst x)
    | (extract_lets -underBinder +onlyGivenNames x; (with_reducible refine Upd.cut x ?_ ?_); rotate_left; (clear_value x; revert x; intro _ _); rotate_right; subst x)
    | (extract_lets -underBinder +onlyGivenNames x; clear_value x; revert x; intro _)
    | with_reducible apply Upd.ite <;> intro _
    | with_reducible apply UpdR.ite <;> intro _
    | with_reducible apply UpdR.next
    | ((with_reducible apply Upd.go (count_upd _ _ _ _)); rotate_left; exact rfl)
    | ((with_reducible apply Upd.go (tmAct_upd _ _ _ _ _)); rotate_left; exact rfl)
    | ((with_reducible apply Upd.go (reissueFrames_upd _ _ _ _ _)); rotate_left; exact rfl)
    | split

end Sys2Proof.Machine
end

