-- ==== Sys2Proof/Laws/UpdBankCmd.lean ====
section
/-!
SUPPORT. What each operation of Machine/BankCmd can change, and that it keeps the canonical form.
-/

namespace Sys2Proof.Machine

set_option maxRecDepth 4000
set_option linter.all false

theorem tensorShares_upd (g : Nat) (c : Nat) (d : Nat) (t : Tensor) (write : Bool) (s : State) : UpdS [.outbox, .freeCtr, .regIrq,
    .regErr, .regLdg, .regTmv, .regBku, .regMcs, .regFlt, .ldgSeq, .ldgLost, .ctxs, .dram, .dramChk, .chans, .units, .flights, .snoop,
    .biWait, .ceWins, .servedBytes] s (tensorShares g c d t write s) := by
  unfold tensorShares
  repeat' first
    | intro _
    | with_reducible assumption
    | with_reducible exact Upd.refl _
    | ((with_reducible apply UpdS.snd); with_reducible assumption)
    | (extract_lets -underBinder +onlyGivenNames x; (with_reducible refine UpdS.cut x ?_ ?_); rotate_left; (clear_value x; revert x; intro _ _); rotate_right; subst x)
    | (extract_lets -underBinder +onlyGivenNames x; (with_reducible refine Upd.cut x ?_ ?_); rotate_left; (clear_value x; revert x; intro _ _); rotate_right; subst x)
    | (extract_lets -underBinder +onlyGivenNames x; (with_reducible refine UpdS.cutSnd x ?_ ?_); rotate_left; (clear_value x; revert x; intro _ _); rotate_right; subst x)
    | (extract_lets -underBinder +onlyGivenNames x; (with_reducible refine Upd.cutSnd x ?_ ?_); rotate_left; (clear_value x; revert x; intro _ _); rotate_right; subst x)
    | (extract_lets -underBinder +onlyGivenNames x; clear_value x; revert x; intro _)
    | with_reducible apply Upd.ite <;> intro _
    | with_reducible apply UpdS.ite <;> intro _
    | with_reducible apply Upd.foldl
    | with_reducible apply UpdS.foldl
    | ((with_reducible apply UpdS.snd); with_reducible apply UpdS.foldl)
    | with_reducible apply Upd.getD
    | ((with_reducible apply Upd.goS (xlate_upd _ _ _ _ _ _)); rotate_left; exact rfl)
    | ((with_reducible apply UpdS.go (xlate_upd _ _ _ _ _ _)); rotate_left; exact rfl)
    | with_reducible apply UpdS.mk
    | dsimp only
    | ((with_reducible apply UpdS.of_eq); with_reducible assumption)
    | split

theorem bkPlaces_upd (g : Nat) (c : Nat) (x : BkBody) (ax : List (Nat × Tensor × Nat × Nat × Bool)) (s : State) : UpdS [.outbox, .freeCtr,
    .regIrq, .regErr, .regLdg, .regTmv, .regBku, .regMcs, .regFlt, .ldgSeq, .ldgLost, .ctxs, .dram, .dramChk, .chans, .units, .flights,
    .snoop, .biWait, .ceWins, .servedBytes] s (bkPlaces g c x ax s) := by
  induction ax generalizing s with
  | nil =>
    unfold bkPlaces
    exact Upd.refl _
  | cons e es ih =>
  unfold bkPlaces
  repeat' first
    | intro _
    | with_reducible assumption
    | ((with_reducible apply UpdS.go (ih _)); rotate_left; exact rfl)
    | ((with_reducible apply UpdS.snd); with_reducible assumption)
    | ((with_reducible apply Upd.goS (ih _)); rotate_left; exact rfl)
    | with_reducible exact Upd.refl _
    | (extract_lets -underBinder +onlyGivenNames x; (with_reducible refine UpdS.cut x ?_ ?_); rotate_left; (clear_value x; revert x; intro _ _); rotate_right; subst x)
    | (extract_lets -underBinder +onlyGivenNames x; (with_reducible refine Upd.cut x ?_ ?_); rotate_left; (clear_value x; revert x; intro _ _); rotate_right; subst x)
    | (extract_lets -underBinder +onlyGivenNames x; (with_reducible refine UpdS.cutSnd x ?_ ?_); rotate_left; (clear_value x; revert x; intro _ _); rotate_right; subst x)
    | (extract_lets -underBinder +onlyGivenNames x; (with_reducible refine Upd.cutSnd x ?_ ?_); rotate_left; (clear_value x; revert x; intro _ _); rotate_right; subst x)
    | (extract_lets -underBinder +onlyGivenNames x; clear_value x; revert x; intro _)
    | ((with_reducible apply Upd.goS (tensorShares_upd _ _ _ _ _ _)); rotate_left; exact rfl)
    | ((with_reducible apply UpdS.go (tensorShares_upd _ _ _ _ _ _)); rotate_left; exact rfl)
    | with_reducible apply UpdS.mk
    | dsimp only
    | ((with_reducible apply UpdS.of_eq); with_reducible assumption)
    | split

theorem bkPrepare_upd (g : Nat) (c : Nat) (type : Nat) (x : BkBody) (s : State) : UpdS [.outbox, .freeCtr, .regIrq, .regErr, .regLdg,
    .regTmv, .regBku, .regMcs, .regFlt, .ldgSeq, .ldgLost, .ctxs, .dram, .dramChk, .chans, .units, .flights, .snoop, .biWait, .ceWins,
    .servedBytes] s (bkPrepare g c type x s) := by
  unfold bkPrepare
  repeat' first
    | intro _
    | with_reducible assumption
    | with_reducible exact Upd.refl _
    | ((with_reducible apply UpdS.snd); with_reducible assumption)
    | (extract_lets -underBinder +onlyGivenNames x; (with_reducible refine UpdS.cut x ?_ ?_); rotate_left; (clear_value x; revert x; intro _ _); rotate_right; subst x)
    | (extract_lets -underBinder +onlyGivenNames x; (with_reducible refine Upd.cut x ?_ ?_); rotate_left; (clear_value x; revert x; intro _ _); rotate_right; subst x)
    | (extract_lets -underBinder +onlyGivenNames x; (with_reducible refine UpdS.cutSnd x ?_ ?_); rotate_left; (clear_value x; revert x; intro _ _); rotate_right; subst x)
    | (extract_lets -underBinder +onlyGivenNames x; (with_reducible refine Upd.cutSnd x ?_ ?_); rotate_left; (clear_value x; revert x; intro _ _); rotate_right; subst x)
    | (extract_lets -underBinder +onlyGivenNames x; (with_reducible refine isFn x ?_); subst x)
    | (extract_lets -underBinder +onlyGivenNames x; clear_value x; revert x; intro _)
    | with_reducible apply Upd.ite <;> intro _
    | with_reducible apply UpdS.ite <;> intro _
    | with_reducible apply Upd.getD
    | ((with_reducible apply Upd.goS (tensorShares_upd _ _ _ _ _ _)); rotate_left; exact rfl)
    | ((with_reducible apply UpdS.go (tensorShares_upd _ _ _ _ _ _)); rotate_left; exact rfl)
    | ((with_reducible apply Upd.goS (bkPlaces_upd _ _ _ _ _)); rotate_left; exact rfl)
    | ((with_reducible apply UpdS.go (bkPlaces_upd _ _ _ _ _)); rotate_left; exact rfl)
    | with_reducible apply UpdS.mk
    | dsimp only
    | ((with_reducible apply UpdS.of_eq); with_reducible assumption)
    | split

theorem bkFault_upd (g : Nat) (c : Nat) (k : Nat) (code : Nat) (operand : Nat) (info : Nat) (entry : Nat) (s : State) : Upd [.outbox,
    .regIrq, .regErr, .regSpd, .regBkc, .regFlt, .ctxs, .runs, .engines, .spads, .spad, .spadChk, .ceWins] s (bkFault g c k code operand
    info entry s) := by
  unfold bkFault
  repeat' first
    | intro _
    | with_reducible assumption
    | with_reducible exact Upd.refl _
    | (extract_lets -underBinder +onlyGivenNames x; (with_reducible refine Upd.cut x ?_ ?_); rotate_left; (clear_value x; revert x; intro _ _); rotate_right; subst x)
    | (extract_lets -underBinder +onlyGivenNames x; clear_value x; revert x; intro _)
    | with_reducible apply Upd.ite <;> intro _
    | ((with_reducible apply Upd.go (count_upd _ _ _ _)); rotate_left; exact rfl)
    | ((with_reducible apply Upd.go (raise_upd _ _ _)); rotate_left; exact rfl)
    | ((with_reducible apply Upd.go (logErr_upd _ _ _ _ _)); rotate_left; exact rfl)
    | ((with_reducible apply Upd.go (endWork_upd _ _ _ _ _ _ _ _)); rotate_left; exact rfl)
    | split

/-- What `bkAct` may change. -/
def bkAct_parts : List Part :=
  [.outbox, .freeCtr, .regIrq, .regErr, .regLdg, .regSpd, .regTmv, .regBkc, .regBku, .regMcs, .regFlt, .ldgSeq, .ldgLost, .ctxs, .runs,
   .engines, .spads, .spad, .spadChk, .dram, .dramChk, .chans, .units, .flights, .snoop, .biWait, .ceWins, .servedBytes]

theorem bkAct_upd (g : Nat) (c : Nat) (w : Work) (s : State) : Upd bkAct_parts s (bkAct g c w s) := by
  unfold bkAct
  repeat' first
    | intro _
    | with_reducible assumption
    | with_reducible exact Upd.refl _
    | ((with_reducible apply UpdS.snd); with_reducible assumption)
    | (extract_lets -underBinder +onlyGivenNames x; (with_reducible refine Upd.cut x ?_ ?_); rotate_left; (clear_value x; revert x; intro _ _); rotate_right; subst x)
    | (extract_lets -underBinder +onlyGivenNames x; (with_reducible refine Upd.cutSnd x ?_ ?_); rotate_left; (clear_value x; revert x; intro _ _); rotate_right; subst x)
    | (extract_lets -underBinder +onlyGivenNames x; clear_value x; revert x; intro _)
    | with_reducible apply Upd.ite <;> intro _
    | with_reducible apply UpdS.ite <;> intro _
    | with_reducible apply Upd.getD
    | ((with_reducible apply Upd.go (noteWaits_upd _ _ _ _)); rotate_left; exact rfl)
    | ((with_reducible apply Upd.go (snoopLines_upd _ _)); rotate_left; exact rfl)
    | ((with_reducible apply Upd.goS (bkPrepare_upd _ _ _ _ _)); rotate_left; exact rfl)
    | ((with_reducible apply UpdS.go (bkPrepare_upd _ _ _ _ _)); rotate_left; exact rfl)
    | ((with_reducible apply Upd.go (bkFault_upd _ _ _ _ _ _ _ _)); rotate_left; exact rfl)
    | with_reducible apply UpdS.mk
    | ((with_reducible apply UpdS.of_eq); with_reducible assumption)
    | split
    | ((with_reducible apply Upd.set_flights); rotate_left; exact rfl)

theorem bkRun_upd (g : Nat) (c : Nat) (type : Nat) (s : State) : Upd bkAct_parts s (bkRun g c type s) := by
  unfold bkRun
  repeat' first
    | intro _
    | with_reducible assumption
    | with_reducible exact Upd.refl _
    | (extract_lets -underBinder +onlyGivenNames x; (with_reducible refine Upd.cut x ?_ ?_); rotate_left; (clear_value x; revert x; intro _ _); rotate_right; subst x)
    | (extract_lets -underBinder +onlyGivenNames x; clear_value x; revert x; intro _)
    | ((with_reducible apply Upd.go (bkAct_upd _ _ _ _)); rotate_left; exact rfl)
    | split

theorem execBkMvs_upd (core : Nat) (ctx : Nat) (s : State) : UpdR bkAct_parts s (execBkMvs core ctx s) := by
  unfold execBkMvs
  repeat' first
    | intro _
    | with_reducible assumption
    | with_reducible exact Upd.refl _
    | with_reducible apply UpdR.next
    | ((with_reducible apply Upd.go (bkRun_upd _ _ _ _)); rotate_left; exact rfl)

theorem execBkDot_upd (core : Nat) (ctx : Nat) (s : State) : UpdR bkAct_parts s (execBkDot core ctx s) := by
  unfold execBkDot
  repeat' first
    | intro _
    | with_reducible assumption
    | with_reducible exact Upd.refl _
    | with_reducible apply UpdR.next
    | ((with_reducible apply Upd.go (bkRun_upd _ _ _ _)); rotate_left; exact rfl)

theorem execBkGred_upd (core : Nat) (ctx : Nat) (s : State) : UpdR bkAct_parts s (execBkGred core ctx s) := by
  unfold execBkGred
  repeat' first
    | intro _
    | with_reducible assumption
    | with_reducible exact Upd.refl _
    | with_reducible apply UpdR.next
    | ((with_reducible apply Upd.go (bkRun_upd _ _ _ _)); rotate_left; exact rfl)

theorem execBkPqscan_upd (core : Nat) (ctx : Nat) (s : State) : UpdR bkAct_parts s (execBkPqscan core ctx s) := by
  unfold execBkPqscan
  repeat' first
    | intro _
    | with_reducible assumption
    | with_reducible exact Upd.refl _
    | with_reducible apply UpdR.next
    | ((with_reducible apply Upd.go (bkRun_upd _ _ _ _)); rotate_left; exact rfl)

theorem execBkRowop_upd (core : Nat) (ctx : Nat) (s : State) : UpdR bkAct_parts s (execBkRowop core ctx s) := by
  unfold execBkRowop
  repeat' first
    | intro _
    | with_reducible assumption
    | with_reducible exact Upd.refl _
    | with_reducible apply UpdR.next
    | ((with_reducible apply Upd.go (bkRun_upd _ _ _ _)); rotate_left; exact rfl)

theorem mapFlight_upd (g : Nat) (c : Nat) (k : Nat) (h : BkFlight → BkFlight) (s : State) : Upd [.flights] s (mapFlight g c k h s) := by
  unfold mapFlight
  repeat' first
    | intro _
    | with_reducible assumption
    | with_reducible exact Upd.refl _
    | (extract_lets -underBinder +onlyGivenNames x; (with_reducible refine Upd.cut x ?_ ?_); rotate_left; (clear_value x; revert x; intro _ _); rotate_right; subst x)
    | (extract_lets -underBinder +onlyGivenNames x; clear_value x; revert x; intro _)
    | with_reducible apply Upd.ite <;> intro _
    | ((with_reducible apply Upd.set_flights); rotate_left; exact rfl)

theorem harnessCharge_upd (d : Nat) (g : Option Nat) (n : Nat) (s : State) : Upd [.regMcs, .servedBytes] s (harnessCharge d g n s) := by
  unfold harnessCharge
  repeat' first
    | intro _
    | with_reducible assumption
    | with_reducible exact Upd.refl _
    | ((with_reducible apply Upd.go (charge_upd _ _ _ _)); rotate_left; exact rfl)

theorem noteHarness_upd (cmd : Nat) (bk : Nat) (sc : Nat) (s : State) : Upd [.chans] s (noteHarness cmd bk sc s) := by
  unfold noteHarness
  repeat' first
    | intro _
    | with_reducible assumption
    | with_reducible exact Upd.refl _
    | ((with_reducible apply Upd.go (noteCmd_upd _ _ _)); rotate_left; exact rfl)

theorem writeHmr_upd (ck : Nat) (g : Option Nat) (s : State) : Upd [.regMcs, .chans, .servedBytes] s (writeHmr ck g s) := by
  unfold writeHmr
  repeat' first
    | intro _
    | with_reducible assumption
    | with_reducible exact Upd.refl _
    | ((with_reducible apply Upd.go (noteCmd_upd _ _ _)); rotate_left; exact rfl)
    | ((with_reducible apply Upd.go (harnessCharge_upd _ _ _ _)); rotate_left; exact rfl)

theorem enterHarness_upd (ck : Nat) (s : State) : Upd [.regMcs, .chans, .servedBytes] s (enterHarness ck s) := by
  unfold enterHarness
  repeat' first
    | intro _
    | with_reducible assumption
    | with_reducible exact Upd.refl _
    | (extract_lets -underBinder +onlyGivenNames x; (with_reducible refine Upd.cut x ?_ ?_); rotate_left; (clear_value x; revert x; intro _ _); rotate_right; subst x)
    | (extract_lets -underBinder +onlyGivenNames x; clear_value x; revert x; intro _)
    | with_reducible apply Upd.ite <;> intro _
    | ((with_reducible apply Upd.go (putChan_upd _ _ _)); rotate_left; exact rfl)
    | ((with_reducible apply Upd.go (preAll_upd _ _)); rotate_left; exact rfl)
    | ((with_reducible apply Upd.go (writeHmr_upd _ _ _)); rotate_left; exact rfl)
    | split

theorem execBkReservation_upd (core : Nat) (ctx : Nat) (k : Nat) (s : State) : UpdR [.regMcs, .chans, .flights, .servedBytes] s
    (execBkReservation core ctx k s) := by
  unfold execBkReservation
  repeat' first
    | intro _
    | with_reducible assumption
    | with_reducible exact Upd.refl _
    | ((with_reducible apply UpdS.snd); with_reducible assumption)
    | (extract_lets -underBinder +onlyGivenNames x; (with_reducible refine UpdR.cut x ?_ ?_); rotate_left; (clear_value x; revert x; intro _ _); rotate_right; subst x)
    | (extract_lets -underBinder +onlyGivenNames x; (with_reducible refine Upd.cut x ?_ ?_); rotate_left; (clear_value x; revert x; intro _ _); rotate_right; subst x)
    | (extract_lets -underBinder +onlyGivenNames x; clear_value x; revert x; intro _)
    | with_reducible apply Upd.ite <;> intro _
    | with_reducible apply UpdR.ite <;> intro _
    | with_reducible apply UpdR.next
    | with_reducible apply Upd.foldl
    | with_reducible apply UpdS.foldl
    | ((with_reducible apply UpdS.snd); with_reducible apply UpdS.foldl)
    | ((with_reducible apply Upd.go (putChan_upd _ _ _)); rotate_left; exact rfl)
    | ((with_reducible apply Upd.go (mapFlight_upd _ _ _ _ _)); rotate_left; exact rfl)
    | ((with_reducible apply Upd.go (enterHarness_upd _ _)); rotate_left; exact rfl)
    | with_reducible apply UpdS.mk
    | dsimp only
    | split

theorem dropFlight_upd (f : BkFlight) (s : State) : Upd [.chans, .flights] s (dropFlight f s) := by
  unfold dropFlight
  repeat' first
    | intro _
    | with_reducible assumption
    | with_reducible exact Upd.refl _
    | ((with_reducible apply UpdS.snd); with_reducible assumption)
    | (extract_lets -underBinder +onlyGivenNames x; (with_reducible refine Upd.cut x ?_ ?_); rotate_left; (clear_value x; revert x; intro _ _); rotate_right; subst x)
    | (extract_lets -underBinder +onlyGivenNames x; clear_value x; revert x; intro _)
    | with_reducible apply Upd.foldl
    | with_reducible apply UpdS.foldl
    | ((with_reducible apply UpdS.snd); with_reducible apply UpdS.foldl)
    | ((with_reducible apply Upd.go (putChan_upd _ _ _)); rotate_left; exact rfl)
    | with_reducible apply UpdS.mk
    | dsimp only
    | split
    | ((with_reducible apply Upd.set_flights); rotate_left; exact rfl)

theorem execBkUploadDone_upd (core : Nat) (ctx : Nat) (k : Nat) (s : State) : UpdR [.outbox, .freeCtr, .regIrq, .regErr, .regSpd, .regBkc,
    .regFlt, .ctxs, .runs, .engines, .spads, .spad, .spadChk, .chans, .flights, .ceWins] s (execBkUploadDone core ctx k s) := by
  unfold execBkUploadDone
  repeat' first
    | intro _
    | with_reducible assumption
    | with_reducible exact Upd.refl _
    | ((with_reducible apply UpdS.snd); with_reducible assumption)
    | (extract_lets -underBinder +onlyGivenNames x; (with_reducible refine UpdR.cut x ?_ ?_); rotate_left; (clear_value x; revert x; intro _ _); rotate_right; subst x)
    | (extract_lets -underBinder +onlyGivenNames x; (with_reducible refine Upd.cut x ?_ ?_); rotate_left; (clear_value x; revert x; intro _ _); rotate_right; subst x)
    | (extract_lets -underBinder +onlyGivenNames x; (with_reducible refine UpdR.cutSnd x ?_ ?_); rotate_left; (clear_value x; revert x; intro _ _); rotate_right; subst x)
    | (extract_lets -underBinder +onlyGivenNames x; (with_reducible refine Upd.cutSnd x ?_ ?_); rotate_left; (clear_value x; revert x; intro _ _); rotate_right; subst x)
    | (extract_lets -underBinder +onlyGivenNames x; clear_value x; revert x; intro _)
    | with_reducible apply Upd.ite <;> intro _
    | with_reducible apply UpdR.ite <;> intro _
    | with_reducible apply UpdS.ite <;> intro _
    | with_reducible apply UpdR.next
    | ((with_reducible apply Upd.go (count_upd _ _ _ _)); rotate_left; exact rfl)
    | ((with_reducible apply Upd.go (takeSlots_upd _ _ _ _)); rotate_left; exact rfl)
    | ((with_reducible apply Upd.go (mapWork_upd _ _ _ _ _ _)); rotate_left; exact rfl)
    | ((with_reducible apply Upd.goS (readSec_upd _ _ _ _)); rotate_left; exact rfl)
    | ((with_reducible apply UpdS.go (readSec_upd _ _ _ _)); rotate_left; exact rfl)
    | ((with_reducible apply Upd.go (bkFault_upd _ _ _ _ _ _ _ _)); rotate_left; exact rfl)
    | ((with_reducible apply Upd.go (mapFlight_upd _ _ _ _ _)); rotate_left; exact rfl)
    | ((with_reducible apply Upd.go (dropFlight_upd _ _)); rotate_left; exact rfl)
    | with_reducible apply UpdS.mk
    | ((with_reducible apply UpdS.of_eq); with_reducible assumption)
    | split

theorem loadChunk_upd (q : Seq) (bk : Nat) (c : Nat) (s : State) : Upd [.units] s (loadChunk q bk c s) := by
  unfold loadChunk
  repeat' first
    | intro _
    | with_reducible assumption
    | with_reducible exact Upd.refl _
    | (extract_lets -underBinder +onlyGivenNames x; (with_reducible refine Upd.cut x ?_ ?_); rotate_left; (clear_value x; revert x; intro _ _); rotate_right; subst x)
    | (extract_lets -underBinder +onlyGivenNames x; clear_value x; revert x; intro _)
    | with_reducible apply Upd.ite <;> intro _
    | ((with_reducible apply Upd.go (putUnit_upd _ _ _)); rotate_left; exact rfl)
    | split

theorem beginUnit_upd (q : Seq) (bk : Nat) (s : State) : Upd [.outbox, .freeCtr, .regIrq, .regErr, .regLdg, .regMcs, .regFlt, .ldgSeq,
    .ldgLost, .dram, .dramChk, .chans, .units, .snoop, .biWait, .ceWins, .servedBytes] s (beginUnit q bk s) := by
  unfold beginUnit
  repeat' first
    | intro _
    | with_reducible assumption
    | with_reducible exact Upd.refl _
    | (extract_lets -underBinder +onlyGivenNames x; (with_reducible refine Upd.cut x ?_ ?_); rotate_left; (clear_value x; revert x; intro _ _); rotate_right; subst x)
    | (extract_lets -underBinder +onlyGivenNames x; clear_value x; revert x; intro _)
    | with_reducible apply Upd.ite <;> intro _
    | ((with_reducible apply Upd.go (count_upd _ _ _ _)); rotate_left; exact rfl)
    | ((with_reducible apply Upd.go (putUnit_upd _ _ _)); rotate_left; exact rfl)
    | ((with_reducible apply Upd.go (unitWrite_upd _ _ _ _ _)); rotate_left; exact rfl)
    | ((with_reducible apply Upd.go (rowCommand_upd _ _ _)); rotate_left; exact rfl)
    | ((with_reducible apply Upd.go (loadChunk_upd _ _ _ _)); rotate_left; exact rfl)
    | split

theorem refuseUnit_upd (bk : Nat) (s : State) : Upd [.outbox, .regIrq, .regErr, .regFlt, .units] s (refuseUnit bk s) := by
  unfold refuseUnit
  repeat' first
    | intro _
    | with_reducible assumption
    | with_reducible exact Upd.refl _
    | (extract_lets -underBinder +onlyGivenNames x; (with_reducible refine Upd.cut x ?_ ?_); rotate_left; (clear_value x; revert x; intro _ _); rotate_right; subst x)
    | (extract_lets -underBinder +onlyGivenNames x; clear_value x; revert x; intro _)
    | ((with_reducible apply Upd.go (logErr_upd _ _ _ _ _)); rotate_left; exact rfl)
    | ((with_reducible apply Upd.go (putUnit_upd _ _ _)); rotate_left; exact rfl)

theorem addSteps_upd (ck : Nat) (q : Seq) (n : Nat) (s : State) : Upd [.regBku, .units] s (addSteps ck q n s) := by
  unfold addSteps
  repeat' first
    | intro _
    | with_reducible assumption
    | with_reducible exact Upd.refl _
    | ((with_reducible apply UpdS.snd); with_reducible assumption)
    | (extract_lets -underBinder +onlyGivenNames x; (with_reducible refine Upd.cut x ?_ ?_); rotate_left; (clear_value x; revert x; intro _ _); rotate_right; subst x)
    | (extract_lets -underBinder +onlyGivenNames x; clear_value x; revert x; intro _)
    | with_reducible apply Upd.foldl
    | with_reducible apply UpdS.foldl
    | ((with_reducible apply UpdS.snd); with_reducible apply UpdS.foldl)
    | ((with_reducible apply Upd.go (count_upd _ _ _ _)); rotate_left; exact rfl)
    | ((with_reducible apply Upd.go (putUnit_upd _ _ _)); rotate_left; exact rfl)
    | with_reducible apply UpdS.mk
    | dsimp only

theorem unitItem_upd (q : Seq) (bk : Nat) (s : State) : Upd [.outbox, .freeCtr, .regIrq, .regErr, .regLdg, .regMcs, .regFlt, .ldgSeq,
    .ldgLost, .dram, .dramChk, .chans, .units, .snoop, .biWait, .ceWins, .servedBytes] s (unitItem q bk s) := by
  unfold unitItem
  repeat' first
    | intro _
    | with_reducible assumption
    | with_reducible exact Upd.refl _
    | (extract_lets -underBinder +onlyGivenNames x; (with_reducible refine Upd.cut x ?_ ?_); rotate_left; (clear_value x; revert x; intro _ _); rotate_right; subst x)
    | (extract_lets -underBinder +onlyGivenNames x; clear_value x; revert x; intro _)
    | ((with_reducible apply Upd.go (mvsItem_upd _ _ _)); rotate_left; exact rfl)
    | ((with_reducible apply Upd.go (dotItem_upd _ _ _)); rotate_left; exact rfl)
    | ((with_reducible apply Upd.go (gredItem_upd _ _ _)); rotate_left; exact rfl)
    | ((with_reducible apply Upd.go (pqItem_upd _ _ _)); rotate_left; exact rfl)
    | split

theorem chargeChunks_upd (ck : Nat) (q : Seq) (s : State) : Upd [.regMcs, .chans, .servedBytes] s (chargeChunks ck q s) := by
  unfold chargeChunks
  repeat' first
    | intro _
    | with_reducible assumption
    | with_reducible exact Upd.refl _
    | with_reducible apply Upd.ite <;> intro _
    | with_reducible apply Upd.forUpto
    | ((with_reducible apply Upd.go (harnessCharge_upd _ _ _ _)); rotate_left; exact rfl)
    | ((with_reducible apply Upd.go (noteHarness_upd _ _ _ _)); rotate_left; exact rfl)

theorem runItems_upd (ck : Nat) (ax : Nat) (bx : Seq) (s : State) : UpdS [.outbox, .freeCtr, .regIrq, .regErr, .regLdg, .regBku, .regMcs,
    .regFlt, .ldgSeq, .ldgLost, .dram, .dramChk, .chans, .units, .snoop, .biWait, .ceWins, .servedBytes] s (runItems ck ax bx s) := by
  induction ax generalizing bx s with
  | zero =>
    unfold runItems
    exact Upd.refl _
  | succ n ih =>
  unfold runItems
  repeat' first
    | intro _
    | with_reducible assumption
    | ((with_reducible apply UpdS.go (ih _ _)); rotate_left; exact rfl)
    | ((with_reducible apply UpdS.snd); with_reducible assumption)
    | ((with_reducible apply Upd.goS (ih _ _)); rotate_left; exact rfl)
    | with_reducible exact Upd.refl _
    | (extract_lets -underBinder +onlyGivenNames x; (with_reducible refine UpdS.cut x ?_ ?_); rotate_left; (clear_value x; revert x; intro _ _); rotate_right; subst x)
    | (extract_lets -underBinder +onlyGivenNames x; (with_reducible refine Upd.cut x ?_ ?_); rotate_left; (clear_value x; revert x; intro _ _); rotate_right; subst x)
    | (extract_lets -underBinder +onlyGivenNames x; clear_value x; revert x; intro _)
    | with_reducible apply Upd.ite <;> intro _
    | with_reducible apply UpdS.ite <;> intro _
    | with_reducible apply Upd.foldl
    | with_reducible apply UpdS.foldl
    | ((with_reducible apply UpdS.snd); with_reducible apply UpdS.foldl)
    | ((with_reducible apply Upd.go (addSteps_upd _ _ _ _)); rotate_left; exact rfl)
    | ((with_reducible apply Upd.go (unitItem_upd _ _ _)); rotate_left; exact rfl)
    | ((with_reducible apply Upd.go (chargeChunks_upd _ _ _)); rotate_left; exact rfl)
    | with_reducible apply UpdS.mk
    | dsimp only
    | split

/-- What `execGangCommand` may change. -/
def execGangCommand_parts : List Part :=
  [.outbox, .freeCtr, .regIrq, .regErr, .regLdg, .regSpd, .regBkc, .regMcs, .regFlt, .ldgSeq, .ldgLost, .ctxs, .runs, .engines, .spads,
   .spad, .spadChk, .dram, .dramChk, .chans, .units, .flights, .snoop, .biWait, .ceWins, .servedBytes]

theorem execGangCommand_upd (core : Nat) (ctx : Nat) (k : Nat) (chan : Nat) (s : State) : UpdR execGangCommand_parts s (execGangCommand
    core ctx k chan s) := by
  unfold execGangCommand
  repeat' first
    | intro _
    | with_reducible assumption
    | with_reducible exact Upd.refl _
    | ((with_reducible apply UpdS.snd); with_reducible assumption)
    | (extract_lets -underBinder +onlyGivenNames x; (with_reducible refine UpdR.cut x ?_ ?_); rotate_left; (clear_value x; revert x; intro _ _); rotate_right; subst x)
    | (extract_lets -underBinder +onlyGivenNames x; (with_reducible refine Upd.cut x ?_ ?_); rotate_left; (clear_value x; revert x; intro _ _); rotate_right; subst x)
    | (extract_lets -underBinder +onlyGivenNames x; clear_value x; revert x; intro _)
    | with_reducible apply Upd.ite <;> intro _
    | with_reducible apply UpdR.ite <;> intro _
    | with_reducible apply UpdR.next
    | with_reducible apply Upd.foldl
    | with_reducible apply UpdS.foldl
    | ((with_reducible apply UpdS.snd); with_reducible apply UpdS.foldl)
    | ((with_reducible apply Upd.go (putChan_upd _ _ _)); rotate_left; exact rfl)
    | ((with_reducible apply Upd.go (putUnit_upd _ _ _)); rotate_left; exact rfl)
    | ((with_reducible apply Upd.go (reportUnit_upd _ _ _ _ _)); rotate_left; exact rfl)
    | ((with_reducible apply Upd.go (putSeq_upd _ _ _ _)); rotate_left; exact rfl)
    | ((with_reducible apply Upd.go (engineFree_upd _ _ _ _ _)); rotate_left; exact rfl)
    | ((with_reducible apply Upd.go (settleFlights_upd _)); rotate_left; exact rfl)
    | ((with_reducible apply Upd.go (mapFlight_upd _ _ _ _ _)); rotate_left; exact rfl)
    | ((with_reducible apply Upd.go (harnessCharge_upd _ _ _ _)); rotate_left; exact rfl)
    | ((with_reducible apply Upd.go (noteHarness_upd _ _ _ _)); rotate_left; exact rfl)
    | ((with_reducible apply Upd.go (writeHmr_upd _ _ _)); rotate_left; exact rfl)
    | ((with_reducible apply Upd.go (beginUnit_upd _ _ _)); rotate_left; exact rfl)
    | ((with_reducible apply Upd.go (refuseUnit_upd _ _)); rotate_left; exact rfl)
    | with_reducible apply UpdS.mk
    | dsimp only
    | split

theorem rowParts_upd (ck : Nat) (ax : Nat) (bx : Seq) (s : State) : UpdS [.outbox, .freeCtr, .regIrq, .regErr, .regLdg, .regMcs, .regFlt,
    .ldgSeq, .ldgLost, .dram, .dramChk, .chans, .units, .snoop, .biWait, .ceWins, .servedBytes] s (rowParts ck ax bx s) := by
  induction ax generalizing bx s with
  | zero =>
    unfold rowParts
    exact Upd.refl _
  | succ n ih =>
  unfold rowParts
  repeat' first
    | intro _
    | with_reducible assumption
    | ((with_reducible apply UpdS.go (ih _ _)); rotate_left; exact rfl)
    | ((with_reducible apply UpdS.snd); with_reducible assumption)
    | ((with_reducible apply Upd.goS (ih _ _)); rotate_left; exact rfl)
    | with_reducible exact Upd.refl _
    | (extract_lets -underBinder +onlyGivenNames x; (with_reducible refine UpdS.cut x ?_ ?_); rotate_left; (clear_value x; revert x; intro _ _); rotate_right; subst x)
    | (extract_lets -underBinder +onlyGivenNames x; (with_reducible refine Upd.cut x ?_ ?_); rotate_left; (clear_value x; revert x; intro _ _); rotate_right; subst x)
    | (extract_lets -underBinder +onlyGivenNames x; clear_value x; revert x; intro _)
    | with_reducible apply Upd.ite <;> intro _
    | with_reducible apply UpdS.ite <;> intro _
    | with_reducible apply Upd.foldl
    | with_reducible apply UpdS.foldl
    | ((with_reducible apply UpdS.snd); with_reducible apply UpdS.foldl)
    | ((with_reducible apply Upd.go (rowPart_upd _ _ _)); rotate_left; exact rfl)
    | ((with_reducible apply Upd.go (rowSecond_upd _ _ _)); rotate_left; exact rfl)
    | with_reducible apply UpdS.mk
    | dsimp only
    | split

theorem execRowlistPiece_upd (stack : Nat) (chan : Nat) (bank : Nat) (parts : Nat) (s : State) : UpdR [.outbox, .freeCtr, .regIrq,
    .regErr, .regLdg, .regMcs, .regFlt, .ldgSeq, .ldgLost, .dram, .dramChk, .chans, .units, .snoop, .biWait, .ceWins, .servedBytes] s
    (execRowlistPiece stack chan bank parts s) := by
  unfold execRowlistPiece
  repeat' first
    | intro _
    | with_reducible assumption
    | with_reducible exact Upd.refl _
    | ((with_reducible apply UpdS.snd); with_reducible assumption)
    | (extract_lets -underBinder +onlyGivenNames x; (with_reducible refine UpdR.cut x ?_ ?_); rotate_left; (clear_value x; revert x; intro _ _); rotate_right; subst x)
    | (extract_lets -underBinder +onlyGivenNames x; (with_reducible refine Upd.cut x ?_ ?_); rotate_left; (clear_value x; revert x; intro _ _); rotate_right; subst x)
    | (extract_lets -underBinder +onlyGivenNames x; (with_reducible refine UpdR.cutSnd x ?_ ?_); rotate_left; (clear_value x; revert x; intro _ _); rotate_right; subst x)
    | (extract_lets -underBinder +onlyGivenNames x; (with_reducible refine Upd.cutSnd x ?_ ?_); rotate_left; (clear_value x; revert x; intro _ _); rotate_right; subst x)
    | (extract_lets -underBinder +onlyGivenNames x; clear_value x; revert x; intro _)
    | with_reducible apply Upd.ite <;> intro _
    | with_reducible apply UpdR.ite <;> intro _
    | with_reducible apply UpdS.ite <;> intro _
    | with_reducible apply UpdR.next
    | ((with_reducible apply Upd.go (putSeq_upd _ _ _ _)); rotate_left; exact rfl)
    | ((with_reducible apply Upd.go (chargeChunks_upd _ _ _)); rotate_left; exact rfl)
    | ((with_reducible apply Upd.goS (rowParts_upd _ _ _ _)); rotate_left; exact rfl)
    | ((with_reducible apply UpdS.go (rowParts_upd _ _ _ _)); rotate_left; exact rfl)
    | with_reducible apply UpdS.mk
    | ((with_reducible apply UpdS.of_eq); with_reducible assumption)
    | split

theorem execLegEnd_upd (stack : Nat) (chan : Nat) (bank : Nat) (items : Nat) (steps : Nat) (s : State) : UpdR [.outbox, .freeCtr, .regIrq,
    .regErr, .regLdg, .regBku, .regMcs, .regFlt, .ldgSeq, .ldgLost, .dram, .dramChk, .chans, .units, .flights, .snoop, .biWait, .ceWins,
    .servedBytes] s (execLegEnd stack chan bank items steps s) := by
  unfold execLegEnd
  repeat' first
    | intro _
    | with_reducible assumption
    | with_reducible exact Upd.refl _
    | ((with_reducible apply UpdS.snd); with_reducible assumption)
    | (extract_lets -underBinder +onlyGivenNames x; (with_reducible refine UpdR.cut x ?_ ?_); rotate_left; (clear_value x; revert x; intro _ _); rotate_right; subst x)
    | (extract_lets -underBinder +onlyGivenNames x; (with_reducible refine Upd.cut x ?_ ?_); rotate_left; (clear_value x; revert x; intro _ _); rotate_right; subst x)
    | (extract_lets -underBinder +onlyGivenNames x; (with_reducible refine UpdR.cutSnd x ?_ ?_); rotate_left; (clear_value x; revert x; intro _ _); rotate_right; subst x)
    | (extract_lets -underBinder +onlyGivenNames x; (with_reducible refine Upd.cutSnd x ?_ ?_); rotate_left; (clear_value x; revert x; intro _ _); rotate_right; subst x)
    | (extract_lets -underBinder +onlyGivenNames x; clear_value x; revert x; intro _)
    | with_reducible apply Upd.ite <;> intro _
    | with_reducible apply UpdR.ite <;> intro _
    | with_reducible apply UpdS.ite <;> intro _
    | with_reducible apply UpdR.next
    | ((with_reducible apply Upd.go (putSeq_upd _ _ _ _)); rotate_left; exact rfl)
    | ((with_reducible apply Upd.go (legBoundary_upd _ _)); rotate_left; exact rfl)
    | ((with_reducible apply Upd.go (addSteps_upd _ _ _ _)); rotate_left; exact rfl)
    | ((with_reducible apply Upd.goS (runItems_upd _ _ _ _)); rotate_left; exact rfl)
    | ((with_reducible apply UpdS.go (runItems_upd _ _ _ _)); rotate_left; exact rfl)
    | with_reducible apply UpdS.mk
    | ((with_reducible apply UpdS.of_eq); with_reducible assumption)
    | split

theorem execGangResume_upd (stack : Nat) (chan : Nat) (bank : Nat) (gapNs : Nat) (s : State) : UpdR [.regBku, .chans] s (execGangResume
    stack chan bank gapNs s) := by
  unfold execGangResume
  repeat' first
    | intro _
    | with_reducible assumption
    | with_reducible exact Upd.refl _
    | (extract_lets -underBinder +onlyGivenNames x; (with_reducible refine UpdR.cut x ?_ ?_); rotate_left; (clear_value x; revert x; intro _ _); rotate_right; subst x)
    | (extract_lets -underBinder +onlyGivenNames x; (with_reducible refine Upd.cut x ?_ ?_); rotate_left; (clear_value x; revert x; intro _ _); rotate_right; subst x)
    | (extract_lets -underBinder +onlyGivenNames x; clear_value x; revert x; intro _)
    | with_reducible apply Upd.ite <;> intro _
    | with_reducible apply UpdR.ite <;> intro _
    | with_reducible apply UpdR.next
    | ((with_reducible apply Upd.go (count_upd _ _ _ _)); rotate_left; exact rfl)
    | ((with_reducible apply Upd.go (putChan_upd _ _ _)); rotate_left; exact rfl)
    | ((with_reducible apply Upd.go (putSeq_upd _ _ _ _)); rotate_left; exact rfl)
    | split

theorem execGangWaitEnd_upd (stack : Nat) (chan : Nat) (bank : Nat) (waitSteps : Nat) (s : State) : UpdR [.regBku, .chans] s
    (execGangWaitEnd stack chan bank waitSteps s) := by
  unfold execGangWaitEnd
  repeat' first
    | intro _
    | with_reducible assumption
    | with_reducible exact Upd.refl _
    | (extract_lets -underBinder +onlyGivenNames x; (with_reducible refine UpdR.cut x ?_ ?_); rotate_left; (clear_value x; revert x; intro _ _); rotate_right; subst x)
    | (extract_lets -underBinder +onlyGivenNames x; (with_reducible refine Upd.cut x ?_ ?_); rotate_left; (clear_value x; revert x; intro _ _); rotate_right; subst x)
    | (extract_lets -underBinder +onlyGivenNames x; clear_value x; revert x; intro _)
    | with_reducible apply Upd.ite <;> intro _
    | with_reducible apply UpdR.ite <;> intro _
    | with_reducible apply UpdR.next
    | ((with_reducible apply Upd.go (count_upd _ _ _ _)); rotate_left; exact rfl)
    | ((with_reducible apply Upd.go (putSeq_upd _ _ _ _)); rotate_left; exact rfl)
    | split

theorem completeUnit_upd (q : Seq) (bk : Nat) (s : State) : Upd [.outbox, .regIrq, .regErr, .regLdg, .regBku, .regMcs, .regFlt, .ldgSeq,
    .ldgLost, .dram, .dramChk, .chans, .units, .snoop, .biWait, .servedBytes] s (completeUnit q bk s) := by
  unfold completeUnit
  repeat' first
    | intro _
    | with_reducible assumption
    | with_reducible exact Upd.refl _
    | (extract_lets -underBinder +onlyGivenNames x; (with_reducible refine Upd.cut x ?_ ?_); rotate_left; (clear_value x; revert x; intro _ _); rotate_right; subst x)
    | (extract_lets -underBinder +onlyGivenNames x; (with_reducible refine isFn x ?_); subst x)
    | (extract_lets -underBinder +onlyGivenNames x; clear_value x; revert x; intro _)
    | with_reducible apply Upd.ite <;> intro _
    | with_reducible apply Upd.getD
    | ((with_reducible apply Upd.go (count_upd _ _ _ _)); rotate_left; exact rfl)
    | ((with_reducible apply Upd.go (putUnit_upd _ _ _)); rotate_left; exact rfl)
    | ((with_reducible apply Upd.go (payUnitMarks_upd _ _)); rotate_left; exact rfl)
    | ((with_reducible apply Upd.go (loadChunk_upd _ _ _ _)); rotate_left; exact rfl)

theorem execSeqLastStep_upd (stack : Nat) (chan : Nat) (bank : Nat) (steps : Nat) (s : State) : UpdR [.outbox, .freeCtr, .regIrq, .regErr,
    .regLdg, .regBku, .regMcs, .regFlt, .ldgSeq, .ldgLost, .dram, .dramChk, .chans, .units, .flights, .snoop, .biWait, .ceWins,
    .servedBytes] s (execSeqLastStep stack chan bank steps s) := by
  unfold execSeqLastStep
  repeat' first
    | intro _
    | with_reducible assumption
    | with_reducible exact Upd.refl _
    | ((with_reducible apply UpdS.snd); with_reducible assumption)
    | (extract_lets -underBinder +onlyGivenNames x; (with_reducible refine UpdR.cut x ?_ ?_); rotate_left; (clear_value x; revert x; intro _ _); rotate_right; subst x)
    | (extract_lets -underBinder +onlyGivenNames x; (with_reducible refine Upd.cut x ?_ ?_); rotate_left; (clear_value x; revert x; intro _ _); rotate_right; subst x)
    | (extract_lets -underBinder +onlyGivenNames x; (with_reducible refine UpdR.cutSnd x ?_ ?_); rotate_left; (clear_value x; revert x; intro _ _); rotate_right; subst x)
    | (extract_lets -underBinder +onlyGivenNames x; (with_reducible refine Upd.cutSnd x ?_ ?_); rotate_left; (clear_value x; revert x; intro _ _); rotate_right; subst x)
    | (extract_lets -underBinder +onlyGivenNames x; clear_value x; revert x; intro _)
    | with_reducible apply Upd.ite <;> intro _
    | with_reducible apply UpdR.ite <;> intro _
    | with_reducible apply UpdS.ite <;> intro _
    | with_reducible apply UpdR.next
    | with_reducible apply Upd.foldl
    | with_reducible apply UpdS.foldl
    | ((with_reducible apply UpdS.snd); with_reducible apply UpdS.foldl)
    | ((with_reducible apply Upd.go (putSeq_upd _ _ _ _)); rotate_left; exact rfl)
    | ((with_reducible apply Upd.go (serveChan_upd _ _)); rotate_left; exact rfl)
    | ((with_reducible apply Upd.go (addSteps_upd _ _ _ _)); rotate_left; exact rfl)
    | ((with_reducible apply Upd.goS (runItems_upd _ _ _ _)); rotate_left; exact rfl)
    | ((with_reducible apply UpdS.go (runItems_upd _ _ _ _)); rotate_left; exact rfl)
    | ((with_reducible apply Upd.go (completeUnit_upd _ _ _)); rotate_left; exact rfl)
    | with_reducible apply UpdS.mk
    | dsimp only
    | ((with_reducible apply UpdS.of_eq); with_reducible assumption)
    | split

theorem execSeqDrained_upd (stack : Nat) (chan : Nat) (bank : Nat) (s : State) : UpdR [.outbox, .regIrq, .regErr, .regSpd, .regBkc,
    .regFlt, .ctxs, .runs, .engines, .spads, .spad, .spadChk, .chans, .flights, .ceWins] s (execSeqDrained stack chan bank s) := by
  unfold execSeqDrained
  repeat' first
    | intro _
    | with_reducible assumption
    | with_reducible exact Upd.refl _
    | (extract_lets -underBinder +onlyGivenNames x; (with_reducible refine UpdR.cut x ?_ ?_); rotate_left; (clear_value x; revert x; intro _ _); rotate_right; subst x)
    | (extract_lets -underBinder +onlyGivenNames x; (with_reducible refine Upd.cut x ?_ ?_); rotate_left; (clear_value x; revert x; intro _ _); rotate_right; subst x)
    | (extract_lets -underBinder +onlyGivenNames x; clear_value x; revert x; intro _)
    | with_reducible apply Upd.ite <;> intro _
    | with_reducible apply UpdR.ite <;> intro _
    | with_reducible apply UpdR.next
    | ((with_reducible apply Upd.go (reportUnit_upd _ _ _ _ _)); rotate_left; exact rfl)
    | ((with_reducible apply Upd.go (putSeq_upd _ _ _ _)); rotate_left; exact rfl)
    | ((with_reducible apply Upd.go (settleFlights_upd _)); rotate_left; exact rfl)
    | split

theorem sendRecord_upd (q : Seq) (bk : Nat) (data : List Byte) (poison : Bool) (s : State) : Upd [.regMcs, .chans, .flights, .servedBytes]
    s (sendRecord q bk data poison s) := by
  unfold sendRecord
  repeat' first
    | intro _
    | with_reducible assumption
    | with_reducible exact Upd.refl _
    | (extract_lets -underBinder +onlyGivenNames x; (with_reducible refine Upd.cut x ?_ ?_); rotate_left; (clear_value x; revert x; intro _ _); rotate_right; subst x)
    | (extract_lets -underBinder +onlyGivenNames x; clear_value x; revert x; intro _)
    | with_reducible apply Upd.ite <;> intro _
    | ((with_reducible apply Upd.go (mapFlight_upd _ _ _ _ _)); rotate_left; exact rfl)
    | ((with_reducible apply Upd.go (harnessCharge_upd _ _ _ _)); rotate_left; exact rfl)
    | ((with_reducible apply Upd.go (noteHarness_upd _ _ _ _)); rotate_left; exact rfl)
    | split

theorem sendFromUnit_upd (q : Seq) (bk : Nat) (s : State) : Upd [.regMcs, .chans, .units, .flights, .servedBytes] s (sendFromUnit q bk s)
    := by
  unfold sendFromUnit
  repeat' first
    | intro _
    | with_reducible assumption
    | with_reducible exact Upd.refl _
    | (extract_lets -underBinder +onlyGivenNames x; (with_reducible refine Upd.cut x ?_ ?_); rotate_left; (clear_value x; revert x; intro _ _); rotate_right; subst x)
    | (extract_lets -underBinder +onlyGivenNames x; clear_value x; revert x; intro _)
    | with_reducible apply Upd.ite <;> intro _
    | ((with_reducible apply Upd.go (putUnit_upd _ _ _)); rotate_left; exact rfl)
    | ((with_reducible apply Upd.go (sendRecord_upd _ _ _ _ _)); rotate_left; exact rfl)
    | split

theorem execCollectorSend_upd (stack : Nat) (chan : Nat) (bank : Nat) (s : State) : UpdR [.outbox, .freeCtr, .regIrq, .regErr, .regLdg,
    .regBku, .regMcs, .regFlt, .ldgSeq, .ldgLost, .dram, .dramChk, .chans, .units, .flights, .snoop, .biWait, .ceWins, .servedBytes] s
    (execCollectorSend stack chan bank s) := by
  unfold execCollectorSend
  repeat' first
    | intro _
    | with_reducible assumption
    | with_reducible exact Upd.refl _
    | ((with_reducible apply UpdS.snd); with_reducible assumption)
    | (extract_lets -underBinder +onlyGivenNames x; (with_reducible refine UpdR.cut x ?_ ?_); rotate_left; (clear_value x; revert x; intro _ _); rotate_right; subst x)
    | (extract_lets -underBinder +onlyGivenNames x; (with_reducible refine Upd.cut x ?_ ?_); rotate_left; (clear_value x; revert x; intro _ _); rotate_right; subst x)
    | (extract_lets -underBinder +onlyGivenNames x; (with_reducible refine UpdR.cutSnd x ?_ ?_); rotate_left; (clear_value x; revert x; intro _ _); rotate_right; subst x)
    | (extract_lets -underBinder +onlyGivenNames x; (with_reducible refine Upd.cutSnd x ?_ ?_); rotate_left; (clear_value x; revert x; intro _ _); rotate_right; subst x)
    | (extract_lets -underBinder +onlyGivenNames x; clear_value x; revert x; intro _)
    | with_reducible apply Upd.ite <;> intro _
    | with_reducible apply UpdR.ite <;> intro _
    | with_reducible apply UpdS.ite <;> intro _
    | with_reducible apply UpdR.next
    | ((with_reducible apply Upd.go (putSeq_upd _ _ _ _)); rotate_left; exact rfl)
    | ((with_reducible apply Upd.goS (runItems_upd _ _ _ _)); rotate_left; exact rfl)
    | ((with_reducible apply UpdS.go (runItems_upd _ _ _ _)); rotate_left; exact rfl)
    | ((with_reducible apply Upd.go (sendFromUnit_upd _ _ _)); rotate_left; exact rfl)
    | with_reducible apply UpdS.mk
    | ((with_reducible apply UpdS.of_eq); with_reducible assumption)
    | split

theorem execRecordWrite_upd (core : Nat) (ctx : Nat) (k : Nat) (chan : Nat) (bank : Nat) (s : State) : UpdR [.outbox, .regIrq, .regErr,
    .regSpd, .regBkc, .regFlt, .ctxs, .runs, .engines, .spads, .spad, .spadChk, .flights, .ceWins] s (execRecordWrite core ctx k chan bank
    s) := by
  unfold execRecordWrite
  repeat' first
    | intro _
    | with_reducible assumption
    | with_reducible exact Upd.refl _
    | (extract_lets -underBinder +onlyGivenNames x; (with_reducible refine UpdR.cut x ?_ ?_); rotate_left; (clear_value x; revert x; intro _ _); rotate_right; subst x)
    | (extract_lets -underBinder +onlyGivenNames x; (with_reducible refine Upd.cut x ?_ ?_); rotate_left; (clear_value x; revert x; intro _ _); rotate_right; subst x)
    | (extract_lets -underBinder +onlyGivenNames x; clear_value x; revert x; intro _)
    | with_reducible apply UpdR.next
    | ((with_reducible apply Upd.go (count_upd _ _ _ _)); rotate_left; exact rfl)
    | ((with_reducible apply Upd.go (writeSp_upd _ _ _ _ _)); rotate_left; exact rfl)
    | ((with_reducible apply Upd.go (settleFlights_upd _)); rotate_left; exact rfl)
    | ((with_reducible apply Upd.go (mapFlight_upd _ _ _ _ _)); rotate_left; exact rfl)
    | split

end Sys2Proof.Machine
end

