-- ==== Sys2Proof/Laws/UpdVxe.lean ====
section
/-!
SUPPORT. What each operation of Machine/Vxe can change, and that it keeps the canonical form.
-/

namespace Sys2Proof.Machine

set_option maxRecDepth 4000
set_option linter.all false

theorem vxRow_upd (g : Nat) (img : List Byte) (c : Ctx) (o : VxOp) (cols : Nat) (r : Nat) (ar : Arith) (s : State) : UpdS [.outbox,
    .freeCtr, .regIrq, .regErr, .regSpd, .regFlt, .spads, .ceWins] s (vxRow g img c o cols r ar s) := by
  unfold vxRow
  repeat' first
    | intro _
    | with_reducible assumption
    | with_reducible exact Upd.refl _
    | ((with_reducible apply UpdS.snd); with_reducible assumption)
    | (extract_lets -underBinder +onlyGivenNames x; (with_reducible refine UpdS.cut x ?_ ?_); rotate_left; (clear_value x; revert x; intro _ _); rotate_right; subst x)
    | (extract_lets -underBinder +onlyGivenNames x; (with_reducible refine Upd.cut x ?_ ?_); rotate_left; (clear_value x; revert x; intro _ _); rotate_right; subst x)
    | (extract_lets -underBinder +onlyGivenNames x; (with_reducible refine UpdS.cutSnd x ?_ ?_); rotate_left; (clear_value x; revert x; intro _ _); rotate_right; subst x)
    | (extract_lets -underBinder +onlyGivenNames x; (with_reducible refine Upd.cutSnd x ?_ ?_); rotate_left; (clear_value x; revert x; intro _ _); rotate_right; subst x)
    | (extract_lets -underBinder +onlyGivenNames x; (with_reducible refine isFn x ?_); subst x)
    | (extract_lets -underBinder +onlyGivenNames x; clear_value x; revert x; intro _)
    | with_reducible apply Upd.ite <;> intro _
    | with_reducible apply UpdS.ite <;> intro _
    | with_reducible apply Upd.foldl
    | with_reducible apply UpdS.foldl
    | ((with_reducible apply UpdS.snd); with_reducible apply UpdS.foldl)
    | with_reducible apply Upd.getD
    | ((with_reducible apply Upd.go (takeSlots_upd _ _ _ _)); rotate_left; exact rfl)
    | ((with_reducible apply Upd.goS (readRow_upd _ _ _ _ _ _ _)); rotate_left; exact rfl)
    | ((with_reducible apply UpdS.go (readRow_upd _ _ _ _ _ _ _)); rotate_left; exact rfl)
    | with_reducible apply UpdS.mk
    | dsimp only
    | split

theorem vxPut_upd (g : Nat) (img : List Byte) (c : Ctx) (o : VxOp) (cols : Nat) (seg : Nat) (segPitch : Nat) (r : Nat) (ar : Arith) (cls :
    NumClass) (xs : List Elem) (s : State) : UpdS [.outbox, .regIrq, .regErr, .regSpd, .regFlt, .spads, .spad, .spadChk, .ceWins] s (vxPut
    g img c o cols seg segPitch r ar cls xs s) := by
  unfold vxPut
  repeat' first
    | intro _
    | with_reducible assumption
    | with_reducible exact Upd.refl _
    | ((with_reducible apply UpdS.snd); with_reducible assumption)
    | (extract_lets -underBinder +onlyGivenNames x; (with_reducible refine UpdS.cut x ?_ ?_); rotate_left; (clear_value x; revert x; intro _ _); rotate_right; subst x)
    | (extract_lets -underBinder +onlyGivenNames x; (with_reducible refine Upd.cut x ?_ ?_); rotate_left; (clear_value x; revert x; intro _ _); rotate_right; subst x)
    | (extract_lets -underBinder +onlyGivenNames x; (with_reducible refine UpdS.cutSnd x ?_ ?_); rotate_left; (clear_value x; revert x; intro _ _); rotate_right; subst x)
    | (extract_lets -underBinder +onlyGivenNames x; (with_reducible refine Upd.cutSnd x ?_ ?_); rotate_left; (clear_value x; revert x; intro _ _); rotate_right; subst x)
    | (extract_lets -underBinder +onlyGivenNames x; clear_value x; revert x; intro _)
    | with_reducible apply Upd.ite <;> intro _
    | with_reducible apply UpdS.ite <;> intro _
    | ((with_reducible apply Upd.goS (writeRow_upd _ _ _ _ _ _ _ _)); rotate_left; exact rfl)
    | ((with_reducible apply UpdS.go (writeRow_upd _ _ _ _ _ _ _ _)); rotate_left; exact rfl)
    | with_reducible apply UpdS.mk
    | dsimp only

theorem vxOptRow_upd (g : Nat) (img : List Byte) (c : Ctx) (o : Option VxOp) (cols : Nat) (r : Nat) (ar : Arith) (s : State) : UpdS
    [.outbox, .freeCtr, .regIrq, .regErr, .regSpd, .regFlt, .spads, .ceWins] s (vxOptRow g img c o cols r ar s) := by
  unfold vxOptRow
  repeat' first
    | intro _
    | with_reducible assumption
    | with_reducible exact Upd.refl _
    | ((with_reducible apply UpdS.snd); with_reducible assumption)
    | (extract_lets -underBinder +onlyGivenNames x; (with_reducible refine UpdS.cut x ?_ ?_); rotate_left; (clear_value x; revert x; intro _ _); rotate_right; subst x)
    | (extract_lets -underBinder +onlyGivenNames x; (with_reducible refine Upd.cut x ?_ ?_); rotate_left; (clear_value x; revert x; intro _ _); rotate_right; subst x)
    | (extract_lets -underBinder +onlyGivenNames x; (with_reducible refine UpdS.cutSnd x ?_ ?_); rotate_left; (clear_value x; revert x; intro _ _); rotate_right; subst x)
    | (extract_lets -underBinder +onlyGivenNames x; (with_reducible refine Upd.cutSnd x ?_ ?_); rotate_left; (clear_value x; revert x; intro _ _); rotate_right; subst x)
    | (extract_lets -underBinder +onlyGivenNames x; clear_value x; revert x; intro _)
    | ((with_reducible apply Upd.goS (vxRow_upd _ _ _ _ _ _ _ _)); rotate_left; exact rfl)
    | ((with_reducible apply UpdS.go (vxRow_upd _ _ _ _ _ _ _ _)); rotate_left; exact rfl)
    | with_reducible apply UpdS.mk
    | dsimp only
    | ((with_reducible apply UpdS.of_eq); with_reducible assumption)
    | split

theorem vxOptPut_upd (g : Nat) (img : List Byte) (c : Ctx) (o : Option VxOp) (cols : Nat) (seg : Nat) (segPitch : Nat) (r : Nat) (ar :
    Arith) (xs : List Elem) (cls : NumClass) (s : State) : UpdS [.outbox, .regIrq, .regErr, .regSpd, .regFlt, .spads, .spad, .spadChk,
    .ceWins] s (vxOptPut g img c o cols seg segPitch r ar xs cls s) := by
  unfold vxOptPut
  repeat' first
    | intro _
    | with_reducible assumption
    | with_reducible exact Upd.refl _
    | ((with_reducible apply UpdS.snd); with_reducible assumption)
    | (extract_lets -underBinder +onlyGivenNames x; (with_reducible refine UpdS.cut x ?_ ?_); rotate_left; (clear_value x; revert x; intro _ _); rotate_right; subst x)
    | (extract_lets -underBinder +onlyGivenNames x; (with_reducible refine Upd.cut x ?_ ?_); rotate_left; (clear_value x; revert x; intro _ _); rotate_right; subst x)
    | (extract_lets -underBinder +onlyGivenNames x; (with_reducible refine UpdS.cutSnd x ?_ ?_); rotate_left; (clear_value x; revert x; intro _ _); rotate_right; subst x)
    | (extract_lets -underBinder +onlyGivenNames x; (with_reducible refine Upd.cutSnd x ?_ ?_); rotate_left; (clear_value x; revert x; intro _ _); rotate_right; subst x)
    | (extract_lets -underBinder +onlyGivenNames x; clear_value x; revert x; intro _)
    | ((with_reducible apply Upd.goS (vxPut_upd _ _ _ _ _ _ _ _ _ _ _ _)); rotate_left; exact rfl)
    | ((with_reducible apply UpdS.go (vxPut_upd _ _ _ _ _ _ _ _ _ _ _ _)); rotate_left; exact rfl)
    | with_reducible apply UpdS.mk
    | dsimp only
    | ((with_reducible apply UpdS.of_eq); with_reducible assumption)
    | split

theorem vxRows_upd {m : List Part} {a s : State} {x : VxBody} {f : Nat → State → VxOut × State} (h : Upd m a s)
    (hf : ∀ i t, Upd m a t → UpdS m a (f i t)) : UpdS m a (vxRows x f s) := by
  unfold vxRows
  exact UpdS.foldl (UpdS.mk h) fun t i ht => UpdS.mk (hf i _ ht.snd).snd

theorem vxMap_upd (g : Nat) (img : List Byte) (d : List Byte) (c : Ctx) (s : State) : UpdS [.outbox, .freeCtr, .regIrq, .regErr, .regSpd,
    .regFlt, .spads, .spad, .spadChk, .ceWins] s (vxMap g img d c s) := by
  unfold vxMap
  repeat' first
    | intro _
    | with_reducible assumption
    | with_reducible exact Upd.refl _
    | ((with_reducible apply UpdS.snd); with_reducible assumption)
    | (extract_lets -underBinder +onlyGivenNames x; (with_reducible refine UpdS.cut x ?_ ?_); rotate_left; (clear_value x; revert x; intro _ _); rotate_right; subst x)
    | (extract_lets -underBinder +onlyGivenNames x; (with_reducible refine Upd.cut x ?_ ?_); rotate_left; (clear_value x; revert x; intro _ _); rotate_right; subst x)
    | (extract_lets -underBinder +onlyGivenNames x; (with_reducible refine UpdS.cutSnd x ?_ ?_); rotate_left; (clear_value x; revert x; intro _ _); rotate_right; subst x)
    | (extract_lets -underBinder +onlyGivenNames x; (with_reducible refine Upd.cutSnd x ?_ ?_); rotate_left; (clear_value x; revert x; intro _ _); rotate_right; subst x)
    | (extract_lets -underBinder +onlyGivenNames x; (with_reducible refine isFn x ?_); subst x)
    | (extract_lets -underBinder +onlyGivenNames x; clear_value x; revert x; intro _)
    | with_reducible apply Upd.foldl
    | with_reducible apply UpdS.foldl
    | ((with_reducible apply UpdS.snd); with_reducible apply UpdS.foldl)
    | with_reducible apply Upd.getD
    | ((with_reducible apply Upd.goS (vxOptRow_upd _ _ _ _ _ _ _ _)); rotate_left; exact rfl)
    | ((with_reducible apply UpdS.go (vxOptRow_upd _ _ _ _ _ _ _ _)); rotate_left; exact rfl)
    | ((with_reducible apply Upd.goS (vxOptPut_upd _ _ _ _ _ _ _ _ _ _ _ _)); rotate_left; exact rfl)
    | ((with_reducible apply UpdS.go (vxOptPut_upd _ _ _ _ _ _ _ _ _ _ _ _)); rotate_left; exact rfl)
    | with_reducible apply vxRows_upd
    | with_reducible apply UpdS.mk
    | dsimp only
    | ((with_reducible apply UpdS.of_eq); with_reducible assumption)
    | split

theorem vxReduce_upd (g : Nat) (img : List Byte) (d : List Byte) (c : Ctx) (s : State) : UpdS [.outbox, .freeCtr, .regIrq, .regErr,
    .regSpd, .regFlt, .spads, .spad, .spadChk, .ceWins] s (vxReduce g img d c s) := by
  unfold vxReduce
  repeat' first
    | intro _
    | with_reducible assumption
    | with_reducible exact Upd.refl _
    | ((with_reducible apply UpdS.snd); with_reducible assumption)
    | (extract_lets -underBinder +onlyGivenNames x; (with_reducible refine UpdS.cut x ?_ ?_); rotate_left; (clear_value x; revert x; intro _ _); rotate_right; subst x)
    | (extract_lets -underBinder +onlyGivenNames x; (with_reducible refine Upd.cut x ?_ ?_); rotate_left; (clear_value x; revert x; intro _ _); rotate_right; subst x)
    | (extract_lets -underBinder +onlyGivenNames x; (with_reducible refine UpdS.cutSnd x ?_ ?_); rotate_left; (clear_value x; revert x; intro _ _); rotate_right; subst x)
    | (extract_lets -underBinder +onlyGivenNames x; (with_reducible refine Upd.cutSnd x ?_ ?_); rotate_left; (clear_value x; revert x; intro _ _); rotate_right; subst x)
    | (extract_lets -underBinder +onlyGivenNames x; clear_value x; revert x; intro _)
    | with_reducible apply Upd.ite <;> intro _
    | with_reducible apply UpdS.ite <;> intro _
    | ((with_reducible apply Upd.goS (vxOptRow_upd _ _ _ _ _ _ _ _)); rotate_left; exact rfl)
    | ((with_reducible apply UpdS.go (vxOptRow_upd _ _ _ _ _ _ _ _)); rotate_left; exact rfl)
    | ((with_reducible apply Upd.goS (vxOptPut_upd _ _ _ _ _ _ _ _ _ _ _ _)); rotate_left; exact rfl)
    | ((with_reducible apply UpdS.go (vxOptPut_upd _ _ _ _ _ _ _ _ _ _ _ _)); rotate_left; exact rfl)
    | with_reducible apply vxRows_upd
    | with_reducible apply UpdS.mk
    | dsimp only
    | split

theorem vxSoftmax_upd (g : Nat) (img : List Byte) (d : List Byte) (c : Ctx) (s : State) : UpdS [.outbox, .freeCtr, .regIrq, .regErr,
    .regSpd, .regFlt, .spads, .spad, .spadChk, .ceWins] s (vxSoftmax g img d c s) := by
  unfold vxSoftmax
  repeat' first
    | intro _
    | with_reducible assumption
    | with_reducible exact Upd.refl _
    | ((with_reducible apply UpdS.snd); with_reducible assumption)
    | (extract_lets -underBinder +onlyGivenNames x; (with_reducible refine UpdS.cut x ?_ ?_); rotate_left; (clear_value x; revert x; intro _ _); rotate_right; subst x)
    | (extract_lets -underBinder +onlyGivenNames x; (with_reducible refine Upd.cut x ?_ ?_); rotate_left; (clear_value x; revert x; intro _ _); rotate_right; subst x)
    | (extract_lets -underBinder +onlyGivenNames x; (with_reducible refine UpdS.cutSnd x ?_ ?_); rotate_left; (clear_value x; revert x; intro _ _); rotate_right; subst x)
    | (extract_lets -underBinder +onlyGivenNames x; (with_reducible refine Upd.cutSnd x ?_ ?_); rotate_left; (clear_value x; revert x; intro _ _); rotate_right; subst x)
    | (extract_lets -underBinder +onlyGivenNames x; clear_value x; revert x; intro _)
    | with_reducible apply Upd.elim
    | ((with_reducible apply Upd.goS (vxOptRow_upd _ _ _ _ _ _ _ _)); rotate_left; exact rfl)
    | ((with_reducible apply UpdS.go (vxOptRow_upd _ _ _ _ _ _ _ _)); rotate_left; exact rfl)
    | ((with_reducible apply Upd.goS (vxOptPut_upd _ _ _ _ _ _ _ _ _ _ _ _)); rotate_left; exact rfl)
    | ((with_reducible apply UpdS.go (vxOptPut_upd _ _ _ _ _ _ _ _ _ _ _ _)); rotate_left; exact rfl)
    | with_reducible apply vxRows_upd
    | with_reducible apply UpdS.mk
    | dsimp only
    | split

theorem vxNorm_upd (g : Nat) (img : List Byte) (d : List Byte) (c : Ctx) (s : State) : UpdS [.outbox, .freeCtr, .regIrq, .regErr, .regSpd,
    .regFlt, .spads, .spad, .spadChk, .ceWins] s (vxNorm g img d c s) := by
  unfold vxNorm
  repeat' first
    | intro _
    | with_reducible assumption
    | with_reducible exact Upd.refl _
    | ((with_reducible apply UpdS.snd); with_reducible assumption)
    | (extract_lets -underBinder +onlyGivenNames x; (with_reducible refine UpdS.cut x ?_ ?_); rotate_left; (clear_value x; revert x; intro _ _); rotate_right; subst x)
    | (extract_lets -underBinder +onlyGivenNames x; (with_reducible refine Upd.cut x ?_ ?_); rotate_left; (clear_value x; revert x; intro _ _); rotate_right; subst x)
    | (extract_lets -underBinder +onlyGivenNames x; (with_reducible refine UpdS.cutSnd x ?_ ?_); rotate_left; (clear_value x; revert x; intro _ _); rotate_right; subst x)
    | (extract_lets -underBinder +onlyGivenNames x; (with_reducible refine Upd.cutSnd x ?_ ?_); rotate_left; (clear_value x; revert x; intro _ _); rotate_right; subst x)
    | (extract_lets -underBinder +onlyGivenNames x; clear_value x; revert x; intro _)
    | ((with_reducible apply Upd.goS (vxOptRow_upd _ _ _ _ _ _ _ _)); rotate_left; exact rfl)
    | ((with_reducible apply UpdS.go (vxOptRow_upd _ _ _ _ _ _ _ _)); rotate_left; exact rfl)
    | ((with_reducible apply Upd.goS (vxOptPut_upd _ _ _ _ _ _ _ _ _ _ _ _)); rotate_left; exact rfl)
    | ((with_reducible apply UpdS.go (vxOptPut_upd _ _ _ _ _ _ _ _ _ _ _ _)); rotate_left; exact rfl)
    | with_reducible apply vxRows_upd
    | with_reducible apply UpdS.mk
    | dsimp only
    | split

theorem vxSort_upd (g : Nat) (img : List Byte) (d : List Byte) (c : Ctx) (s : State) : UpdS [.outbox, .freeCtr, .regIrq, .regErr, .regSpd,
    .regFlt, .spads, .spad, .spadChk, .ceWins] s (vxSort g img d c s) := by
  unfold vxSort
  repeat' first
    | intro _
    | with_reducible assumption
    | with_reducible exact Upd.refl _
    | ((with_reducible apply UpdS.snd); with_reducible assumption)
    | (extract_lets -underBinder +onlyGivenNames x; (with_reducible refine UpdS.cut x ?_ ?_); rotate_left; (clear_value x; revert x; intro _ _); rotate_right; subst x)
    | (extract_lets -underBinder +onlyGivenNames x; (with_reducible refine Upd.cut x ?_ ?_); rotate_left; (clear_value x; revert x; intro _ _); rotate_right; subst x)
    | (extract_lets -underBinder +onlyGivenNames x; (with_reducible refine UpdS.cutSnd x ?_ ?_); rotate_left; (clear_value x; revert x; intro _ _); rotate_right; subst x)
    | (extract_lets -underBinder +onlyGivenNames x; (with_reducible refine Upd.cutSnd x ?_ ?_); rotate_left; (clear_value x; revert x; intro _ _); rotate_right; subst x)
    | (extract_lets -underBinder +onlyGivenNames x; clear_value x; revert x; intro _)
    | ((with_reducible apply Upd.goS (vxOptRow_upd _ _ _ _ _ _ _ _)); rotate_left; exact rfl)
    | ((with_reducible apply UpdS.go (vxOptRow_upd _ _ _ _ _ _ _ _)); rotate_left; exact rfl)
    | ((with_reducible apply Upd.goS (vxOptPut_upd _ _ _ _ _ _ _ _ _ _ _ _)); rotate_left; exact rfl)
    | ((with_reducible apply UpdS.go (vxOptPut_upd _ _ _ _ _ _ _ _ _ _ _ _)); rotate_left; exact rfl)
    | with_reducible apply vxRows_upd
    | with_reducible apply UpdS.mk
    | dsimp only
    | split

theorem vxTopk_upd (g : Nat) (img : List Byte) (d : List Byte) (c : Ctx) (s : State) : UpdS [.outbox, .freeCtr, .regIrq, .regErr, .regSpd,
    .regFlt, .spads, .spad, .spadChk, .ceWins] s (vxTopk g img d c s) := by
  unfold vxTopk
  repeat' first
    | intro _
    | with_reducible assumption
    | with_reducible exact Upd.refl _
    | ((with_reducible apply UpdS.snd); with_reducible assumption)
    | (extract_lets -underBinder +onlyGivenNames x; (with_reducible refine UpdS.cut x ?_ ?_); rotate_left; (clear_value x; revert x; intro _ _); rotate_right; subst x)
    | (extract_lets -underBinder +onlyGivenNames x; (with_reducible refine Upd.cut x ?_ ?_); rotate_left; (clear_value x; revert x; intro _ _); rotate_right; subst x)
    | (extract_lets -underBinder +onlyGivenNames x; (with_reducible refine UpdS.cutSnd x ?_ ?_); rotate_left; (clear_value x; revert x; intro _ _); rotate_right; subst x)
    | (extract_lets -underBinder +onlyGivenNames x; (with_reducible refine Upd.cutSnd x ?_ ?_); rotate_left; (clear_value x; revert x; intro _ _); rotate_right; subst x)
    | (extract_lets -underBinder +onlyGivenNames x; clear_value x; revert x; intro _)
    | with_reducible apply Upd.getD
    | ((with_reducible apply Upd.goS (vxOptRow_upd _ _ _ _ _ _ _ _)); rotate_left; exact rfl)
    | ((with_reducible apply UpdS.go (vxOptRow_upd _ _ _ _ _ _ _ _)); rotate_left; exact rfl)
    | ((with_reducible apply Upd.goS (vxOptPut_upd _ _ _ _ _ _ _ _ _ _ _ _)); rotate_left; exact rfl)
    | ((with_reducible apply UpdS.go (vxOptPut_upd _ _ _ _ _ _ _ _ _ _ _ _)); rotate_left; exact rfl)
    | with_reducible apply vxRows_upd
    | with_reducible apply UpdS.mk
    | dsimp only
    | split

theorem vxSelect_upd (g : Nat) (img : List Byte) (d : List Byte) (c : Ctx) (s : State) : UpdS [.outbox, .freeCtr, .regIrq, .regErr,
    .regSpd, .regFlt, .spads, .spad, .spadChk, .ceWins] s (vxSelect g img d c s) := by
  unfold vxSelect
  repeat' first
    | intro _
    | with_reducible assumption
    | with_reducible exact Upd.refl _
    | ((with_reducible apply UpdS.snd); with_reducible assumption)
    | (extract_lets -underBinder +onlyGivenNames x; (with_reducible refine UpdS.cut x ?_ ?_); rotate_left; (clear_value x; revert x; intro _ _); rotate_right; subst x)
    | (extract_lets -underBinder +onlyGivenNames x; (with_reducible refine Upd.cut x ?_ ?_); rotate_left; (clear_value x; revert x; intro _ _); rotate_right; subst x)
    | (extract_lets -underBinder +onlyGivenNames x; (with_reducible refine UpdS.cutSnd x ?_ ?_); rotate_left; (clear_value x; revert x; intro _ _); rotate_right; subst x)
    | (extract_lets -underBinder +onlyGivenNames x; (with_reducible refine Upd.cutSnd x ?_ ?_); rotate_left; (clear_value x; revert x; intro _ _); rotate_right; subst x)
    | (extract_lets -underBinder +onlyGivenNames x; clear_value x; revert x; intro _)
    | with_reducible apply Upd.ite <;> intro _
    | with_reducible apply UpdS.ite <;> intro _
    | ((with_reducible apply Upd.goS (vxOptRow_upd _ _ _ _ _ _ _ _)); rotate_left; exact rfl)
    | ((with_reducible apply UpdS.go (vxOptRow_upd _ _ _ _ _ _ _ _)); rotate_left; exact rfl)
    | ((with_reducible apply Upd.goS (vxOptPut_upd _ _ _ _ _ _ _ _ _ _ _ _)); rotate_left; exact rfl)
    | ((with_reducible apply UpdS.go (vxOptPut_upd _ _ _ _ _ _ _ _ _ _ _ _)); rotate_left; exact rfl)
    | with_reducible apply vxRows_upd
    | with_reducible apply UpdS.mk
    | dsimp only
    | split

theorem vxSample_upd (g : Nat) (img : List Byte) (d : List Byte) (c : Ctx) (s : State) : UpdS [.outbox, .freeCtr, .regIrq, .regErr,
    .regSpd, .regFlt, .spads, .spad, .spadChk, .ceWins] s (vxSample g img d c s) := by
  unfold vxSample
  repeat' first
    | intro _
    | with_reducible assumption
    | with_reducible exact Upd.refl _
    | ((with_reducible apply UpdS.snd); with_reducible assumption)
    | (extract_lets -underBinder +onlyGivenNames x; (with_reducible refine UpdS.cut x ?_ ?_); rotate_left; (clear_value x; revert x; intro _ _); rotate_right; subst x)
    | (extract_lets -underBinder +onlyGivenNames x; (with_reducible refine Upd.cut x ?_ ?_); rotate_left; (clear_value x; revert x; intro _ _); rotate_right; subst x)
    | (extract_lets -underBinder +onlyGivenNames x; (with_reducible refine UpdS.cutSnd x ?_ ?_); rotate_left; (clear_value x; revert x; intro _ _); rotate_right; subst x)
    | (extract_lets -underBinder +onlyGivenNames x; (with_reducible refine Upd.cutSnd x ?_ ?_); rotate_left; (clear_value x; revert x; intro _ _); rotate_right; subst x)
    | (extract_lets -underBinder +onlyGivenNames x; (with_reducible refine isFn x ?_); subst x)
    | (extract_lets -underBinder +onlyGivenNames x; clear_value x; revert x; intro _)
    | with_reducible apply Upd.ite <;> intro _
    | with_reducible apply UpdS.ite <;> intro _
    | with_reducible apply Upd.getD
    | ((with_reducible apply Upd.go (freshNext_upd _)); rotate_left; exact rfl)
    | ((with_reducible apply Upd.goS (vxOptRow_upd _ _ _ _ _ _ _ _)); rotate_left; exact rfl)
    | ((with_reducible apply UpdS.go (vxOptRow_upd _ _ _ _ _ _ _ _)); rotate_left; exact rfl)
    | ((with_reducible apply Upd.goS (vxOptPut_upd _ _ _ _ _ _ _ _ _ _ _ _)); rotate_left; exact rfl)
    | ((with_reducible apply UpdS.go (vxOptPut_upd _ _ _ _ _ _ _ _ _ _ _ _)); rotate_left; exact rfl)
    | with_reducible apply vxRows_upd
    | with_reducible apply UpdS.mk
    | dsimp only
    | split

theorem encCb4_upd (book : List (Byte × Bool)) (xs : List Num) (s : State) : UpdS [.freeCtr] s (encCb4 book xs s) := by
  unfold encCb4
  repeat' first
    | intro _
    | with_reducible assumption
    | with_reducible exact Upd.refl _
    | ((with_reducible apply UpdS.snd); with_reducible assumption)
    | (extract_lets -underBinder +onlyGivenNames x; (with_reducible refine UpdS.cut x ?_ ?_); rotate_left; (clear_value x; revert x; intro _ _); rotate_right; subst x)
    | (extract_lets -underBinder +onlyGivenNames x; (with_reducible refine Upd.cut x ?_ ?_); rotate_left; (clear_value x; revert x; intro _ _); rotate_right; subst x)
    | (extract_lets -underBinder +onlyGivenNames x; clear_value x; revert x; intro _)
    | with_reducible apply Upd.ite <;> intro _
    | with_reducible apply UpdS.ite <;> intro _
    | with_reducible apply Upd.foldl
    | with_reducible apply UpdS.foldl
    | ((with_reducible apply UpdS.snd); with_reducible apply UpdS.foldl)
    | ((with_reducible apply Upd.go (freshNext_upd _)); rotate_left; exact rfl)
    | with_reducible apply UpdS.mk
    | dsimp only
    | split

theorem encTab_upd (g : Nat) (c : Ctx) (x : VxBody) (off : Nat) (n : Nat) (s : State) : UpdS [.outbox, .freeCtr, .regIrq, .regErr,
    .regSpd, .regFlt, .spads, .ceWins] s (encTab g c x off n s) := by
  unfold encTab
  repeat' first
    | intro _
    | with_reducible assumption
    | with_reducible exact Upd.refl _
    | ((with_reducible apply UpdS.snd); with_reducible assumption)
    | (extract_lets -underBinder +onlyGivenNames x; (with_reducible refine UpdS.cut x ?_ ?_); rotate_left; (clear_value x; revert x; intro _ _); rotate_right; subst x)
    | (extract_lets -underBinder +onlyGivenNames x; (with_reducible refine Upd.cut x ?_ ?_); rotate_left; (clear_value x; revert x; intro _ _); rotate_right; subst x)
    | (extract_lets -underBinder +onlyGivenNames x; (with_reducible refine UpdS.cutSnd x ?_ ?_); rotate_left; (clear_value x; revert x; intro _ _); rotate_right; subst x)
    | (extract_lets -underBinder +onlyGivenNames x; (with_reducible refine Upd.cutSnd x ?_ ?_); rotate_left; (clear_value x; revert x; intro _ _); rotate_right; subst x)
    | (extract_lets -underBinder +onlyGivenNames x; clear_value x; revert x; intro _)
    | ((with_reducible apply Upd.go (takeSlots_upd _ _ _ _)); rotate_left; exact rfl)
    | ((with_reducible apply Upd.goS (readSec_upd _ _ _ _)); rotate_left; exact rfl)
    | ((with_reducible apply UpdS.go (readSec_upd _ _ _ _)); rotate_left; exact rfl)
    | with_reducible apply UpdS.mk
    | dsimp only
    | ((with_reducible apply UpdS.of_eq); with_reducible assumption)
    | split

theorem encodeRow_upd (g : Nat) (d : List Byte) (c : Ctx) (x : VxBody) (code : Nat) (book : Nat) (r : Nat) (ftz : Bool) (xs : List Elem)
    (s : State) : UpdS [.outbox, .freeCtr, .regIrq, .regErr, .regSpd, .regFlt, .spads, .ceWins] s (encodeRow g d c x code book r ftz xs s)
    := by
  unfold encodeRow
  repeat' first
    | intro _
    | with_reducible assumption
    | with_reducible exact Upd.refl _
    | ((with_reducible apply UpdS.snd); with_reducible assumption)
    | (extract_lets -underBinder +onlyGivenNames x; (with_reducible refine UpdS.cut x ?_ ?_); rotate_left; (clear_value x; revert x; intro _ _); rotate_right; subst x)
    | (extract_lets -underBinder +onlyGivenNames x; (with_reducible refine Upd.cut x ?_ ?_); rotate_left; (clear_value x; revert x; intro _ _); rotate_right; subst x)
    | (extract_lets -underBinder +onlyGivenNames x; (with_reducible refine UpdS.cutSnd x ?_ ?_); rotate_left; (clear_value x; revert x; intro _ _); rotate_right; subst x)
    | (extract_lets -underBinder +onlyGivenNames x; (with_reducible refine Upd.cutSnd x ?_ ?_); rotate_left; (clear_value x; revert x; intro _ _); rotate_right; subst x)
    | (extract_lets -underBinder +onlyGivenNames x; (with_reducible refine isFn x ?_); subst x)
    | (extract_lets -underBinder +onlyGivenNames x; clear_value x; revert x; intro _)
    | with_reducible apply Upd.foldl
    | with_reducible apply UpdS.foldl
    | ((with_reducible apply UpdS.snd); with_reducible apply UpdS.foldl)
    | ((with_reducible apply Upd.goS (encCb4_upd _ _ _)); rotate_left; exact rfl)
    | ((with_reducible apply UpdS.go (encCb4_upd _ _ _)); rotate_left; exact rfl)
    | ((with_reducible apply Upd.goS (encTab_upd _ _ _ _ _ _)); rotate_left; exact rfl)
    | ((with_reducible apply UpdS.go (encTab_upd _ _ _ _ _ _)); rotate_left; exact rfl)
    | with_reducible apply UpdS.mk
    | dsimp only
    | ((with_reducible apply UpdS.of_eq); with_reducible assumption)
    | split

theorem vxConvert_upd (g : Nat) (img : List Byte) (d : List Byte) (c : Ctx) (s : State) : UpdS [.outbox, .freeCtr, .regIrq, .regErr,
    .regSpd, .regFlt, .spads, .spad, .spadChk, .ceWins] s (vxConvert g img d c s) := by
  unfold vxConvert
  repeat' first
    | intro _
    | with_reducible assumption
    | with_reducible exact Upd.refl _
    | ((with_reducible apply UpdS.snd); with_reducible assumption)
    | (extract_lets -underBinder +onlyGivenNames x; (with_reducible refine UpdS.cut x ?_ ?_); rotate_left; (clear_value x; revert x; intro _ _); rotate_right; subst x)
    | (extract_lets -underBinder +onlyGivenNames x; (with_reducible refine Upd.cut x ?_ ?_); rotate_left; (clear_value x; revert x; intro _ _); rotate_right; subst x)
    | (extract_lets -underBinder +onlyGivenNames x; (with_reducible refine UpdS.cutSnd x ?_ ?_); rotate_left; (clear_value x; revert x; intro _ _); rotate_right; subst x)
    | (extract_lets -underBinder +onlyGivenNames x; (with_reducible refine Upd.cutSnd x ?_ ?_); rotate_left; (clear_value x; revert x; intro _ _); rotate_right; subst x)
    | (extract_lets -underBinder +onlyGivenNames x; clear_value x; revert x; intro _)
    | with_reducible apply Upd.ite <;> intro _
    | with_reducible apply UpdS.ite <;> intro _
    | ((with_reducible apply Upd.go (putRow_upd _ _ _ _ _)); rotate_left; exact rfl)
    | ((with_reducible apply Upd.goS (vxOptRow_upd _ _ _ _ _ _ _ _)); rotate_left; exact rfl)
    | ((with_reducible apply UpdS.go (vxOptRow_upd _ _ _ _ _ _ _ _)); rotate_left; exact rfl)
    | ((with_reducible apply Upd.goS (vxOptPut_upd _ _ _ _ _ _ _ _ _ _ _ _)); rotate_left; exact rfl)
    | ((with_reducible apply UpdS.go (vxOptPut_upd _ _ _ _ _ _ _ _ _ _ _ _)); rotate_left; exact rfl)
    | with_reducible apply vxRows_upd
    | ((with_reducible apply Upd.goS (encodeRow_upd _ _ _ _ _ _ _ _ _ _)); rotate_left; exact rfl)
    | ((with_reducible apply UpdS.go (encodeRow_upd _ _ _ _ _ _ _ _ _ _)); rotate_left; exact rfl)
    | with_reducible apply UpdS.mk
    | dsimp only
    | ((with_reducible apply UpdS.of_eq); with_reducible assumption)
    | split

theorem vxRun_upd {m : List Part} {a s : State} {core ctx type : Nat}
    {f : Nat → List Byte → List Byte → Ctx → State → VxOut × State} (h : Upd m a s)
    (hm : within [.outbox, .regIrq, .regErr, .regSpd, .regFlt, .ctxs, .runs, .engines, .spads, .spad, .spadChk, .ceWins] m = true)
    (hf : ∀ g img d c t, Upd m a t → UpdS m a (f g img d c t)) : Upd m a (vxRun core ctx type f s) := by
  unfold vxRun
  split
  · exact h
  · exact Upd.go (endWork_upd _ _ _ _ _ _ _ _) (hf _ _ _ _ _ h).snd hm

theorem execVxMap_upd (core : Nat) (ctx : Nat) (s : State) : UpdR [.outbox, .freeCtr, .regIrq, .regErr, .regSpd, .regFlt, .ctxs, .runs,
    .engines, .spads, .spad, .spadChk, .ceWins] s (execVxMap core ctx s) := by
  unfold execVxMap
  repeat' first
    | intro _
    | with_reducible assumption
    | with_reducible exact Upd.refl _
    | ((with_reducible apply UpdS.snd); with_reducible assumption)
    | with_reducible apply UpdR.next
    | ((with_reducible apply Upd.goS (vxMap_upd _ _ _ _ _)); rotate_left; exact rfl)
    | ((with_reducible apply UpdS.go (vxMap_upd _ _ _ _ _)); rotate_left; exact rfl)
    | ((with_reducible apply vxRun_upd); rotate_left; exact rfl)
    | with_reducible apply UpdS.mk

theorem execVxReduce_upd (core : Nat) (ctx : Nat) (s : State) : UpdR [.outbox, .freeCtr, .regIrq, .regErr, .regSpd, .regFlt, .ctxs, .runs,
    .engines, .spads, .spad, .spadChk, .ceWins] s (execVxReduce core ctx s) := by
  unfold execVxReduce
  repeat' first
    | intro _
    | with_reducible assumption
    | with_reducible exact Upd.refl _
    | ((with_reducible apply UpdS.snd); with_reducible assumption)
    | with_reducible apply UpdR.next
    | ((with_reducible apply Upd.goS (vxReduce_upd _ _ _ _ _)); rotate_left; exact rfl)
    | ((with_reducible apply UpdS.go (vxReduce_upd _ _ _ _ _)); rotate_left; exact rfl)
    | ((with_reducible apply vxRun_upd); rotate_left; exact rfl)
    | with_reducible apply UpdS.mk

theorem execVxSoftmax_upd (core : Nat) (ctx : Nat) (s : State) : UpdR [.outbox, .freeCtr, .regIrq, .regErr, .regSpd, .regFlt, .ctxs,
    .runs, .engines, .spads, .spad, .spadChk, .ceWins] s (execVxSoftmax core ctx s) := by
  unfold execVxSoftmax
  repeat' first
    | intro _
    | with_reducible assumption
    | with_reducible exact Upd.refl _
    | ((with_reducible apply UpdS.snd); with_reducible assumption)
    | with_reducible apply UpdR.next
    | ((with_reducible apply Upd.goS (vxSoftmax_upd _ _ _ _ _)); rotate_left; exact rfl)
    | ((with_reducible apply UpdS.go (vxSoftmax_upd _ _ _ _ _)); rotate_left; exact rfl)
    | ((with_reducible apply vxRun_upd); rotate_left; exact rfl)
    | with_reducible apply UpdS.mk

theorem execVxNorm_upd (core : Nat) (ctx : Nat) (s : State) : UpdR [.outbox, .freeCtr, .regIrq, .regErr, .regSpd, .regFlt, .ctxs, .runs,
    .engines, .spads, .spad, .spadChk, .ceWins] s (execVxNorm core ctx s) := by
  unfold execVxNorm
  repeat' first
    | intro _
    | with_reducible assumption
    | with_reducible exact Upd.refl _
    | ((with_reducible apply UpdS.snd); with_reducible assumption)
    | with_reducible apply UpdR.next
    | ((with_reducible apply Upd.goS (vxNorm_upd _ _ _ _ _)); rotate_left; exact rfl)
    | ((with_reducible apply UpdS.go (vxNorm_upd _ _ _ _ _)); rotate_left; exact rfl)
    | ((with_reducible apply vxRun_upd); rotate_left; exact rfl)
    | with_reducible apply UpdS.mk

theorem execVxSort_upd (core : Nat) (ctx : Nat) (s : State) : UpdR [.outbox, .freeCtr, .regIrq, .regErr, .regSpd, .regFlt, .ctxs, .runs,
    .engines, .spads, .spad, .spadChk, .ceWins] s (execVxSort core ctx s) := by
  unfold execVxSort
  repeat' first
    | intro _
    | with_reducible assumption
    | with_reducible exact Upd.refl _
    | ((with_reducible apply UpdS.snd); with_reducible assumption)
    | with_reducible apply UpdR.next
    | ((with_reducible apply Upd.goS (vxSort_upd _ _ _ _ _)); rotate_left; exact rfl)
    | ((with_reducible apply UpdS.go (vxSort_upd _ _ _ _ _)); rotate_left; exact rfl)
    | ((with_reducible apply vxRun_upd); rotate_left; exact rfl)
    | with_reducible apply UpdS.mk

theorem execVxTopk_upd (core : Nat) (ctx : Nat) (s : State) : UpdR [.outbox, .freeCtr, .regIrq, .regErr, .regSpd, .regFlt, .ctxs, .runs,
    .engines, .spads, .spad, .spadChk, .ceWins] s (execVxTopk core ctx s) := by
  unfold execVxTopk
  repeat' first
    | intro _
    | with_reducible assumption
    | with_reducible exact Upd.refl _
    | ((with_reducible apply UpdS.snd); with_reducible assumption)
    | with_reducible apply UpdR.next
    | ((with_reducible apply Upd.goS (vxTopk_upd _ _ _ _ _)); rotate_left; exact rfl)
    | ((with_reducible apply UpdS.go (vxTopk_upd _ _ _ _ _)); rotate_left; exact rfl)
    | ((with_reducible apply vxRun_upd); rotate_left; exact rfl)
    | with_reducible apply UpdS.mk

theorem execVxSample_upd (core : Nat) (ctx : Nat) (s : State) : UpdR [.outbox, .freeCtr, .regIrq, .regErr, .regSpd, .regFlt, .ctxs, .runs,
    .engines, .spads, .spad, .spadChk, .ceWins] s (execVxSample core ctx s) := by
  unfold execVxSample
  repeat' first
    | intro _
    | with_reducible assumption
    | with_reducible exact Upd.refl _
    | ((with_reducible apply UpdS.snd); with_reducible assumption)
    | with_reducible apply UpdR.next
    | ((with_reducible apply Upd.goS (vxSample_upd _ _ _ _ _)); rotate_left; exact rfl)
    | ((with_reducible apply UpdS.go (vxSample_upd _ _ _ _ _)); rotate_left; exact rfl)
    | ((with_reducible apply vxRun_upd); rotate_left; exact rfl)
    | with_reducible apply UpdS.mk

theorem execVxConvert_upd (core : Nat) (ctx : Nat) (s : State) : UpdR [.outbox, .freeCtr, .regIrq, .regErr, .regSpd, .regFlt, .ctxs,
    .runs, .engines, .spads, .spad, .spadChk, .ceWins] s (execVxConvert core ctx s) := by
  unfold execVxConvert
  repeat' first
    | intro _
    | with_reducible assumption
    | with_reducible exact Upd.refl _
    | ((with_reducible apply UpdS.snd); with_reducible assumption)
    | with_reducible apply UpdR.next
    | ((with_reducible apply Upd.goS (vxConvert_upd _ _ _ _ _)); rotate_left; exact rfl)
    | ((with_reducible apply UpdS.go (vxConvert_upd _ _ _ _ _)); rotate_left; exact rfl)
    | ((with_reducible apply vxRun_upd); rotate_left; exact rfl)
    | with_reducible apply UpdS.mk

theorem execVxSelect_upd (core : Nat) (ctx : Nat) (s : State) : UpdR [.outbox, .freeCtr, .regIrq, .regErr, .regSpd, .regFlt, .ctxs, .runs,
    .engines, .spads, .spad, .spadChk, .ceWins] s (execVxSelect core ctx s) := by
  unfold execVxSelect
  repeat' first
    | intro _
    | with_reducible assumption
    | with_reducible exact Upd.refl _
    | ((with_reducible apply UpdS.snd); with_reducible assumption)
    | with_reducible apply UpdR.next
    | ((with_reducible apply Upd.goS (vxSelect_upd _ _ _ _ _)); rotate_left; exact rfl)
    | ((with_reducible apply UpdS.go (vxSelect_upd _ _ _ _ _)); rotate_left; exact rfl)
    | ((with_reducible apply vxRun_upd); rotate_left; exact rfl)
    | with_reducible apply UpdS.mk

end Sys2Proof.Machine
end

