-- ==== Sys2Proof/Laws/UpdLoader.lean ====
section
/-!
SUPPORT. What each operation of Machine/Loader can change, and that it keeps the canonical form.
-/

namespace Sys2Proof.Machine

set_option maxRecDepth 4000
set_option linter.all false

theorem spineRead_upd (a : Nat) (n : Nat) (s : State) : UpdS [.outbox, .freeCtr, .regIrq, .regErr, .regLdg, .regBku, .regMcs, .regFlt,
    .ldgSeq, .ldgLost, .dram, .dramChk, .chans, .units, .flights, .snoop, .biWait, .ceWins, .servedBytes] s (spineRead a n s) := by
  unfold spineRead
  repeat' first
    | intro _
    | with_reducible assumption
    | with_reducible exact Upd.refl _
    | ((with_reducible apply UpdS.snd); with_reducible assumption)
    | (extract_lets -underBinder +onlyGivenNames x; (with_reducible refine UpdS.cut x ?_ ?_); rotate_left; (clear_value x; revert x; intro _ _); rotate_right; subst x)
    | (extract_lets -underBinder +onlyGivenNames x; (with_reducible refine Upd.cut x ?_ ?_); rotate_left; (clear_value x; revert x; intro _ _); rotate_right; subst x)
    | (extract_lets -underBinder +onlyGivenNames x; (with_reducible refine UpdS.cutSnd x ?_ ?_); rotate_left; (clear_value x; revert x; intro _ _); rotate_right; subst x)
    | (extract_lets -underBinder +onlyGivenNames x; (with_reducible refine Upd.cutSnd x ?_ ?_); rotate_left; (clear_value x; revert x; intro _ _); rotate_right; subst x)
    | (extract_lets -underBinder +onlyGivenNames x; clear_value x; revert x; intro _)
    | with_reducible apply Upd.ite <;> intro _
    | with_reducible apply UpdS.ite <;> intro _
    | ((with_reducible apply Upd.goS (readSpan_upd _ _ _ _)); rotate_left; exact rfl)
    | ((with_reducible apply UpdS.go (readSpan_upd _ _ _ _)); rotate_left; exact rfl)
    | with_reducible apply UpdS.mk
    | dsimp only

theorem spineHeld_upd (a : Nat) (n : Nat) (write : Bool) (s : State) : UpdO [.outbox, .regMcs, .chans, .biWait] s (spineHeld a n write s)
    := by
  unfold spineHeld
  repeat' first
    | intro _
    | with_reducible assumption
    | with_reducible exact Upd.refl _
    | (extract_lets -underBinder +onlyGivenNames x; (with_reducible refine UpdO.cut x ?_ ?_); rotate_left; (clear_value x; revert x; intro _ _); rotate_right; subst x)
    | (extract_lets -underBinder +onlyGivenNames x; (with_reducible refine Upd.cut x ?_ ?_); rotate_left; (clear_value x; revert x; intro _ _); rotate_right; subst x)
    | (extract_lets -underBinder +onlyGivenNames x; clear_value x; revert x; intro _)
    | with_reducible apply Upd.ite <;> intro _
    | with_reducible apply UpdO.ite <;> intro _
    | ((with_reducible apply Upd.go (noteWaits_upd _ _ _ _)); rotate_left; exact rfl)
    | ((with_reducible apply Upd.go (snoopLines_upd _ _)); rotate_left; exact rfl)
    | with_reducible exact UpdO.none
    | with_reducible apply UpdO.some
    | split

theorem spineWrite_upd (a : Nat) (bytes : List Byte) (s : State) : Upd [.outbox, .freeCtr, .regIrq, .regErr, .regLdg, .regBku, .regMcs,
    .regFlt, .ldgSeq, .ldgLost, .dram, .dramChk, .chans, .units, .flights, .snoop, .biWait, .ceWins, .servedBytes] s (spineWrite a bytes
    s) := by
  unfold spineWrite
  repeat' first
    | intro _
    | with_reducible assumption
    | with_reducible exact Upd.refl _
    | ((with_reducible apply Upd.go (writeSpan_upd _ _ _ _ _)); rotate_left; exact rfl)

theorem reportHeld_upd (s : State) (b : List Byte) : UpdO [.outbox, .regMcs, .chans, .biWait] s (reportHeld s b) := by
  unfold reportHeld
  repeat' first
    | intro _
    | with_reducible assumption
    | with_reducible exact Upd.refl _
    | with_reducible apply Upd.ite <;> intro _
    | with_reducible apply UpdO.ite <;> intro _
    | ((with_reducible apply UpdO.go (spineHeld_upd _ _ _ _)); rotate_left; exact rfl)
    | with_reducible exact UpdO.none
    | with_reducible apply UpdO.some

theorem endLoad_upd (c : LoadCmd) (e : LoadEnd) (s : State) : Upd [.outbox, .freeCtr, .regIrq, .regErr, .regLdg, .regBku, .regMcs,
    .regFlt, .regRng, .ldgSeq, .ldgLost, .sess, .dram, .dramChk, .chans, .units, .flights, .snoop, .biWait, .ceWins, .servedBytes] s
    (endLoad c e s) := by
  unfold endLoad
  repeat' first
    | intro _
    | with_reducible assumption
    | with_reducible exact Upd.refl _
    | (extract_lets -underBinder +onlyGivenNames x; (with_reducible refine Upd.cut x ?_ ?_); rotate_left; (clear_value x; revert x; intro _ _); rotate_right; subst x)
    | (extract_lets -underBinder +onlyGivenNames x; clear_value x; revert x; intro _)
    | with_reducible apply Upd.ite <;> intro _
    | ((with_reducible apply Upd.go (cmdComplete_upd _ _ _ _)); rotate_left; exact rfl)
    | ((with_reducible apply Upd.go (spineWrite_upd _ _ _)); rotate_left; exact rfl)

theorem releaseSlots_upd (l : Loading) (s : State) : Upd [.pms, .loading] s (releaseSlots l s) := by
  unfold releaseSlots
  repeat' first
    | intro _
    | with_reducible assumption
    | with_reducible exact Upd.refl _
    | ((with_reducible apply UpdS.snd); with_reducible assumption)
    | (extract_lets -underBinder +onlyGivenNames x; (with_reducible refine Upd.cut x ?_ ?_); rotate_left; (clear_value x; revert x; intro _ _); rotate_right; subst x)
    | (extract_lets -underBinder +onlyGivenNames x; clear_value x; revert x; intro _)
    | with_reducible apply Upd.ite <;> intro _
    | with_reducible apply Upd.foldl
    | with_reducible apply UpdS.foldl
    | ((with_reducible apply UpdS.snd); with_reducible apply UpdS.foldl)
    | ((with_reducible apply Upd.go (putPm_upd _ _ _)); rotate_left; exact rfl)
    | with_reducible apply UpdS.mk
    | dsimp only
    | ((with_reducible apply Upd.set_loading); rotate_left; exact rfl)

theorem interruptLoad_upd (s : State) : Upd [.outbox, .freeCtr, .regIrq, .regErr, .regLdg, .regBku, .regMcs, .regFlt, .regRng, .ldgSeq,
    .ldgLost, .pms, .loading, .sess, .dram, .dramChk, .chans, .units, .flights, .snoop, .biWait, .ceWins, .servedBytes] s (interruptLoad
    s) := by
  unfold interruptLoad
  repeat' first
    | intro _
    | with_reducible assumption
    | with_reducible exact Upd.refl _
    | (extract_lets -underBinder +onlyGivenNames x; (with_reducible refine Upd.cut x ?_ ?_); rotate_left; (clear_value x; revert x; intro _ _); rotate_right; subst x)
    | (extract_lets -underBinder +onlyGivenNames x; clear_value x; revert x; intro _)
    | ((with_reducible apply Upd.go (freshNext_upd _)); rotate_left; exact rfl)
    | ((with_reducible apply Upd.go (endLoad_upd _ _ _)); rotate_left; exact rfl)
    | ((with_reducible apply Upd.go (releaseSlots_upd _ _)); rotate_left; exact rfl)
    | split

theorem interruptLoadOn_upd (n : Nat) (s : State) : Upd [.outbox, .freeCtr, .regIrq, .regErr, .regLdg, .regBku, .regMcs, .regFlt, .regRng,
    .ldgSeq, .ldgLost, .pms, .loading, .sess, .dram, .dramChk, .chans, .units, .flights, .snoop, .biWait, .ceWins, .servedBytes] s
    (interruptLoadOn n s) := by
  unfold interruptLoadOn
  repeat' first
    | intro _
    | with_reducible assumption
    | with_reducible exact Upd.refl _
    | (extract_lets -underBinder +onlyGivenNames x; (with_reducible refine Upd.cut x ?_ ?_); rotate_left; (clear_value x; revert x; intro _ _); rotate_right; subst x)
    | (extract_lets -underBinder +onlyGivenNames x; clear_value x; revert x; intro _)
    | with_reducible apply Upd.ite <;> intro _
    | ((with_reducible apply Upd.go (interruptLoad_upd _)); rotate_left; exact rfl)
    | split

theorem reserveSlots_upd (c : LoadCmd) (img : List Byte) (cores : List Nat) (us : Nat) (s : State) : Upd [.outbox, .freeCtr, .regIrq,
    .regErr, .regLdg, .regBku, .regMcs, .regFlt, .regRng, .ldgSeq, .ldgLost, .pms, .loading, .sess, .dram, .dramChk, .chans, .units,
    .flights, .snoop, .biWait, .ceWins, .servedBytes] s (reserveSlots c img cores us s) := by
  unfold reserveSlots
  repeat' first
    | intro _
    | with_reducible assumption
    | with_reducible exact Upd.refl _
    | ((with_reducible apply UpdS.snd); with_reducible assumption)
    | (extract_lets -underBinder +onlyGivenNames x; (with_reducible refine Upd.cut x ?_ ?_); rotate_left; (clear_value x; revert x; intro _ _); rotate_right; subst x)
    | (extract_lets -underBinder +onlyGivenNames x; (with_reducible refine isFn x ?_); subst x)
    | (extract_lets -underBinder +onlyGivenNames x; clear_value x; revert x; intro _)
    | with_reducible apply Upd.ite <;> intro _
    | with_reducible apply Upd.foldl
    | with_reducible apply UpdS.foldl
    | ((with_reducible apply UpdS.snd); with_reducible apply UpdS.foldl)
    | ((with_reducible apply Upd.go (putPm_upd _ _ _)); rotate_left; exact rfl)
    | ((with_reducible apply Upd.go (endLoad_upd _ _ _)); rotate_left; exact rfl)
    | with_reducible apply UpdS.mk
    | dsimp only
    | split
    | ((with_reducible apply Upd.set_loading); rotate_left; exact rfl)

theorem placeLoad_upd (c : LoadCmd) (img : List Byte) (us : Nat) (s : State) : Upd [.outbox, .freeCtr, .regIrq, .regErr, .regLdg, .regBku,
    .regMcs, .regFlt, .regRng, .ldgSeq, .ldgLost, .pms, .loading, .sess, .dram, .dramChk, .chans, .units, .flights, .snoop, .biWait,
    .ceWins, .servedBytes] s (placeLoad c img us s) := by
  unfold placeLoad
  repeat' first
    | intro _
    | with_reducible assumption
    | with_reducible exact Upd.refl _
    | ((with_reducible apply UpdS.snd); with_reducible assumption)
    | (extract_lets -underBinder +onlyGivenNames x; (with_reducible refine Upd.cut x ?_ ?_); rotate_left; (clear_value x; revert x; intro _ _); rotate_right; subst x)
    | (extract_lets -underBinder +onlyGivenNames x; (with_reducible refine Upd.cutSnd x ?_ ?_); rotate_left; (clear_value x; revert x; intro _ _); rotate_right; subst x)
    | (extract_lets -underBinder +onlyGivenNames x; clear_value x; revert x; intro _)
    | with_reducible apply Upd.ite <;> intro _
    | with_reducible apply UpdS.ite <;> intro _
    | with_reducible apply Upd.getD
    | ((with_reducible apply Upd.goS (spineRead_upd _ _ _)); rotate_left; exact rfl)
    | ((with_reducible apply UpdS.go (spineRead_upd _ _ _)); rotate_left; exact rfl)
    | ((with_reducible apply Upd.go (endLoad_upd _ _ _)); rotate_left; exact rfl)
    | ((with_reducible apply Upd.go (reserveSlots_upd _ _ _ _ _)); rotate_left; exact rfl)
    | with_reducible apply UpdS.mk
    | ((with_reducible apply UpdS.of_eq); with_reducible assumption)
    | split

theorem runLoad_upd (c : LoadCmd) (us : Nat) (s : State) : Upd [.outbox, .freeCtr, .regIrq, .regErr, .regLdg, .regBku, .regMcs, .regFlt,
    .regRng, .ldgSeq, .ldgLost, .pms, .loading, .sess, .dram, .dramChk, .chans, .units, .flights, .snoop, .biWait, .ceWins, .servedBytes]
    s (runLoad c us s) := by
  unfold runLoad
  repeat' first
    | intro _
    | with_reducible assumption
    | with_reducible exact Upd.refl _
    | ((with_reducible apply UpdS.snd); with_reducible assumption)
    | (extract_lets -underBinder +onlyGivenNames x; (with_reducible refine Upd.cut x ?_ ?_); rotate_left; (clear_value x; revert x; intro _ _); rotate_right; subst x)
    | (extract_lets -underBinder +onlyGivenNames x; (with_reducible refine Upd.cutSnd x ?_ ?_); rotate_left; (clear_value x; revert x; intro _ _); rotate_right; subst x)
    | (extract_lets -underBinder +onlyGivenNames x; clear_value x; revert x; intro _)
    | with_reducible apply Upd.ite <;> intro _
    | with_reducible apply UpdS.ite <;> intro _
    | ((with_reducible apply Upd.goS (spineRead_upd _ _ _)); rotate_left; exact rfl)
    | ((with_reducible apply UpdS.go (spineRead_upd _ _ _)); rotate_left; exact rfl)
    | ((with_reducible apply Upd.go (spineWrite_upd _ _ _)); rotate_left; exact rfl)
    | ((with_reducible apply Upd.go (endLoad_upd _ _ _)); rotate_left; exact rfl)
    | ((with_reducible apply Upd.go (placeLoad_upd _ _ _ _)); rotate_left; exact rfl)
    | with_reducible apply UpdS.mk
    | ((with_reducible apply UpdS.of_eq); with_reducible assumption)
    | split

theorem loadHeld_upd (b : List Byte) (s : State) : UpdO [.outbox, .freeCtr, .regIrq, .regErr, .regLdg, .regBku, .regMcs, .regFlt, .ldgSeq,
    .ldgLost, .dram, .dramChk, .chans, .units, .flights, .snoop, .biWait, .ceWins, .servedBytes] s (loadHeld b s) := by
  unfold loadHeld
  repeat' first
    | intro _
    | with_reducible assumption
    | with_reducible exact Upd.refl _
    | ((with_reducible apply UpdS.snd); with_reducible assumption)
    | (extract_lets -underBinder +onlyGivenNames x; (with_reducible refine UpdO.cut x ?_ ?_); rotate_left; (clear_value x; revert x; intro _ _); rotate_right; subst x)
    | (extract_lets -underBinder +onlyGivenNames x; (with_reducible refine Upd.cut x ?_ ?_); rotate_left; (clear_value x; revert x; intro _ _); rotate_right; subst x)
    | (extract_lets -underBinder +onlyGivenNames x; (with_reducible refine UpdO.cutSnd x ?_ ?_); rotate_left; (clear_value x; revert x; intro _ _); rotate_right; subst x)
    | (extract_lets -underBinder +onlyGivenNames x; (with_reducible refine Upd.cutSnd x ?_ ?_); rotate_left; (clear_value x; revert x; intro _ _); rotate_right; subst x)
    | (extract_lets -underBinder +onlyGivenNames x; (with_reducible refine UpdO.cutO x ?_ ?_); rotate_left; (clear_value x; revert x; intro _ _); rotate_right; subst x)
    | (extract_lets -underBinder +onlyGivenNames x; (with_reducible refine Upd.cutO x ?_ ?_); rotate_left; (clear_value x; revert x; intro _ _); rotate_right; subst x)
    | (extract_lets -underBinder +onlyGivenNames x; clear_value x; revert x; intro _)
    | with_reducible apply UpdO.orElse
    | with_reducible apply Upd.getD
    | ((with_reducible apply Upd.goS (spineRead_upd _ _ _)); rotate_left; exact rfl)
    | ((with_reducible apply UpdS.go (spineRead_upd _ _ _)); rotate_left; exact rfl)
    | ((with_reducible apply UpdO.go (spineHeld_upd _ _ _ _)); rotate_left; exact rfl)
    | ((with_reducible apply UpdO.go (reportHeld_upd _ _)); rotate_left; exact rfl)
    | with_reducible apply UpdS.mk
    | with_reducible exact UpdO.none
    | with_reducible apply UpdO.some

theorem loaderDequeue_upd (us : Nat) (s : State) : Upd [.outbox, .freeCtr, .regIrq, .regErr, .regLdg, .regBku, .regMcs, .regFlt, .regRng,
    .ldgSeq, .ldgLost, .pms, .loadQ, .loading, .sess, .dram, .dramChk, .chans, .units, .flights, .snoop, .biWait, .ceWins, .servedBytes] s
    (loaderDequeue us s) := by
  unfold loaderDequeue
  repeat' first
    | intro _
    | with_reducible assumption
    | with_reducible exact Upd.refl _
    | (extract_lets -underBinder +onlyGivenNames x; (with_reducible refine Upd.cut x ?_ ?_); rotate_left; (clear_value x; revert x; intro _ _); rotate_right; subst x)
    | (extract_lets -underBinder +onlyGivenNames x; (with_reducible refine Upd.cutO x ?_ ?_); rotate_left; (clear_value x; revert x; intro _ _); rotate_right; subst x)
    | (extract_lets -underBinder +onlyGivenNames x; clear_value x; revert x; intro _)
    | with_reducible apply Upd.ite <;> intro _
    | with_reducible apply UpdO.ite <;> intro _
    | ((with_reducible apply UpdO.go (reportHeld_upd _ _)); rotate_left; exact rfl)
    | ((with_reducible apply Upd.go (endLoad_upd _ _ _)); rotate_left; exact rfl)
    | ((with_reducible apply Upd.go (runLoad_upd _ _ _)); rotate_left; exact rfl)
    | ((with_reducible apply UpdO.go (loadHeld_upd _ _)); rotate_left; exact rfl)
    | with_reducible exact UpdO.none
    | with_reducible apply UpdO.some
    | ((with_reducible apply UpdO.of_eq); with_reducible assumption)
    | split
    | ((with_reducible apply Upd.set_loadQ); rotate_left; exact rfl)

theorem execLoaderDequeue_upd (elapsedUs : Nat) (s : State) : UpdR [.outbox, .freeCtr, .regIrq, .regErr, .regLdg, .regBku, .regMcs,
    .regFlt, .regRng, .ldgSeq, .ldgLost, .pms, .loadQ, .loading, .sess, .dram, .dramChk, .chans, .units, .flights, .snoop, .biWait,
    .ceWins, .servedBytes] s (execLoaderDequeue elapsedUs s) := by
  unfold execLoaderDequeue
  repeat' first
    | intro _
    | with_reducible assumption
    | with_reducible exact Upd.refl _
    | with_reducible apply UpdR.next
    | ((with_reducible apply Upd.go (loaderDequeue_upd _ _)); rotate_left; exact rfl)

theorem execLoadSlots_upd (s : State) : UpdR [.pms, .loading] s (execLoadSlots s) := by
  unfold execLoadSlots
  repeat' first
    | intro _
    | with_reducible assumption
    | with_reducible exact Upd.refl _
    | ((with_reducible apply UpdS.snd); with_reducible assumption)
    | (extract_lets -underBinder +onlyGivenNames x; (with_reducible refine UpdR.cut x ?_ ?_); rotate_left; (clear_value x; revert x; intro _ _); rotate_right; subst x)
    | (extract_lets -underBinder +onlyGivenNames x; (with_reducible refine Upd.cut x ?_ ?_); rotate_left; (clear_value x; revert x; intro _ _); rotate_right; subst x)
    | (extract_lets -underBinder +onlyGivenNames x; clear_value x; revert x; intro _)
    | with_reducible apply Upd.ite <;> intro _
    | with_reducible apply UpdR.ite <;> intro _
    | with_reducible apply UpdR.next
    | with_reducible apply Upd.foldl
    | with_reducible apply UpdS.foldl
    | ((with_reducible apply UpdS.snd); with_reducible apply UpdS.foldl)
    | ((with_reducible apply Upd.go (putPm_upd _ _ _)); rotate_left; exact rfl)
    | with_reducible apply UpdS.mk
    | dsimp only
    | split
    | ((with_reducible apply Upd.set_loading); rotate_left; exact rfl)

theorem Upd.set_loading_loadCount {m : List Part} {a b : State} {vloading vloadCount} (h : Upd m a b)
    (hm : within [.loading, .loadCount] m = true) :
    Upd m a { b with loading := vloading, loadCount := vloadCount } :=
  h.put (fun p hp => by
    have : [.loading, .loadCount].contains p = false := by
      cases hc : [.loading, .loadCount].contains p with
      | false => rfl
      | true => exact absurd ((within_mem hm (List.contains_iff_mem.1 hc)).symm.trans hp) (by decide)
    cases p <;> first | rfl | exact fun _ _ _ _ => rfl | exact absurd this (by decide)) rfl rfl fun k => { k with  }

theorem execLoadComplete_upd (elapsedUs : Nat) (s : State) : UpdR [.outbox, .freeCtr, .regIrq, .regErr, .regLdg, .regBku, .regMcs,
    .regFlt, .regRng, .ldgSeq, .ldgLost, .pms, .loading, .loadCount, .sess, .dram, .dramChk, .chans, .units, .flights, .snoop, .biWait,
    .ceWins, .servedBytes] s (execLoadComplete elapsedUs s) := by
  unfold execLoadComplete
  repeat' first
    | intro _
    | with_reducible assumption
    | with_reducible exact Upd.refl _
    | ((with_reducible apply UpdS.snd); with_reducible assumption)
    | (extract_lets -underBinder +onlyGivenNames x; (with_reducible refine UpdR.cut x ?_ ?_); rotate_left; (clear_value x; revert x; intro _ _); rotate_right; subst x)
    | (extract_lets -underBinder +onlyGivenNames x; (with_reducible refine Upd.cut x ?_ ?_); rotate_left; (clear_value x; revert x; intro _ _); rotate_right; subst x)
    | (extract_lets -underBinder +onlyGivenNames x; (with_reducible refine UpdR.cutO x ?_ ?_); rotate_left; (clear_value x; revert x; intro _ _); rotate_right; subst x)
    | (extract_lets -underBinder +onlyGivenNames x; (with_reducible refine Upd.cutO x ?_ ?_); rotate_left; (clear_value x; revert x; intro _ _); rotate_right; subst x)
    | (extract_lets -underBinder +onlyGivenNames x; clear_value x; revert x; intro _)
    | with_reducible apply Upd.ite <;> intro _
    | with_reducible apply UpdO.ite <;> intro _
    | with_reducible apply UpdR.ite <;> intro _
    | with_reducible apply UpdR.next
    | with_reducible apply Upd.foldl
    | with_reducible apply UpdS.foldl
    | ((with_reducible apply UpdS.snd); with_reducible apply UpdS.foldl)
    | ((with_reducible apply Upd.go (putPm_upd _ _ _)); rotate_left; exact rfl)
    | ((with_reducible apply UpdO.go (reportHeld_upd _ _)); rotate_left; exact rfl)
    | ((with_reducible apply Upd.go (endLoad_upd _ _ _)); rotate_left; exact rfl)
    | with_reducible apply UpdS.mk
    | with_reducible exact UpdO.none
    | with_reducible apply UpdO.some
    | dsimp only
    | ((with_reducible apply UpdO.of_eq); with_reducible assumption)
    | split
    | ((with_reducible apply Upd.set_loading_loadCount); rotate_left; exact rfl)

theorem execLoadWaitExpire_upd (elapsedUs : Nat) (s : State) : UpdR [.outbox, .freeCtr, .regIrq, .regErr, .regLdg, .regBku, .regMcs,
    .regFlt, .regRng, .ldgSeq, .ldgLost, .pms, .loading, .sess, .dram, .dramChk, .chans, .units, .flights, .snoop, .biWait, .ceWins,
    .servedBytes] s (execLoadWaitExpire elapsedUs s) := by
  unfold execLoadWaitExpire
  repeat' first
    | intro _
    | with_reducible assumption
    | with_reducible exact Upd.refl _
    | (extract_lets -underBinder +onlyGivenNames x; (with_reducible refine UpdR.cut x ?_ ?_); rotate_left; (clear_value x; revert x; intro _ _); rotate_right; subst x)
    | (extract_lets -underBinder +onlyGivenNames x; (with_reducible refine Upd.cut x ?_ ?_); rotate_left; (clear_value x; revert x; intro _ _); rotate_right; subst x)
    | (extract_lets -underBinder +onlyGivenNames x; (with_reducible refine UpdR.cutO x ?_ ?_); rotate_left; (clear_value x; revert x; intro _ _); rotate_right; subst x)
    | (extract_lets -underBinder +onlyGivenNames x; (with_reducible refine Upd.cutO x ?_ ?_); rotate_left; (clear_value x; revert x; intro _ _); rotate_right; subst x)
    | (extract_lets -underBinder +onlyGivenNames x; clear_value x; revert x; intro _)
    | with_reducible apply Upd.ite <;> intro _
    | with_reducible apply UpdO.ite <;> intro _
    | with_reducible apply UpdR.ite <;> intro _
    | with_reducible apply UpdR.next
    | ((with_reducible apply UpdO.go (reportHeld_upd _ _)); rotate_left; exact rfl)
    | ((with_reducible apply Upd.go (endLoad_upd _ _ _)); rotate_left; exact rfl)
    | ((with_reducible apply Upd.go (releaseSlots_upd _ _)); rotate_left; exact rfl)
    | with_reducible exact UpdO.none
    | with_reducible apply UpdO.some
    | ((with_reducible apply UpdO.of_eq); with_reducible assumption)
    | split

end Sys2Proof.Machine
end

