-- ==== Sys2Proof/Laws/UpdSyncOps.lean ====
section
/-!
SUPPORT. What each operation of Machine/SyncOps can change, and that it keeps the canonical form.
-/

namespace Sys2Proof.Machine

set_option maxRecDepth 4000
set_option linter.all false

theorem noteSy_upd (g : Nat) (c : Nat) (k : Nat) (old : Nat) (s : State) : Upd [.ctxs] s (noteSy g c k old s) := by
  unfold noteSy
  repeat' first
    | intro _
    | with_reducible assumption
    | with_reducible exact Upd.refl _
    | (extract_lets -underBinder +onlyGivenNames x; (with_reducible refine Upd.cut x ?_ ?_); rotate_left; (clear_value x; revert x; intro _ _); rotate_right; subst x)
    | (extract_lets -underBinder +onlyGivenNames x; clear_value x; revert x; intro _)
    | ((with_reducible apply Upd.go (putCtx_upd _ _ _)); rotate_left; exact rfl)

theorem syRun_upd {m : List Part} {a s : State} {g c : Nat} {p : List Byte → Bool} {f : Work → State → Nat × State} (h : Upd m a s)
    (hm : within [.outbox, .regIrq, .regErr, .regSpd, .regFlt, .ctxs, .runs, .engines, .spads, .spad, .spadChk, .sess, .ceWins] m = true)
    (hf : ∀ w t, Upd m a t → UpdS m a (f w t)) : Upd m a (syRun g c p f s) := by
  unfold syRun
  split
  · exact h
  · next w t he =>
    have ht : Upd m a t := UpdOS.of_eq he (UpdOS.go (takeDesc_upd _ _ _ _ _) h (within_trans rfl hm))
    refine Upd.ite (fun _ => Upd.go (endWork_upd _ _ _ _ _ _ _ _) ht (within_trans rfl hm)) fun _ => ?_
    exact Upd.go (endWork_upd _ _ _ _ _ _ _ _) (Upd.go (noteSy_upd _ _ _ _ _) (hf w t ht).snd (within_trans rfl hm)) (within_trans rfl hm)

theorem flagOp_upd (g : Nat) (c : Nat) (op : Nat) (v : Bool → Bool) (s : State) : Upd [.outbox, .regIrq, .regErr, .regSpd, .regFlt, .ctxs,
    .runs, .engines, .spads, .spad, .spadChk, .serais, .sess, .ceWins] s (flagOp g c op v s) := by
  unfold flagOp
  repeat' first
    | intro _
    | with_reducible assumption
    | with_reducible exact Upd.refl _
    | (extract_lets -underBinder +onlyGivenNames x; (with_reducible refine Upd.cut x ?_ ?_); rotate_left; (clear_value x; revert x; intro _ _); rotate_right; subst x)
    | (extract_lets -underBinder +onlyGivenNames x; clear_value x; revert x; intro _)
    | ((with_reducible apply Upd.go (putFlag_upd _ _ _ _)); rotate_left; exact rfl)
    | ((with_reducible apply syRun_upd); rotate_left; exact rfl)
    | with_reducible apply UpdS.mk

theorem execFlagSet_upd (core : Nat) (ctx : Nat) (s : State) : UpdR [.outbox, .regIrq, .regErr, .regSpd, .regFlt, .ctxs, .runs, .engines,
    .spads, .spad, .spadChk, .serais, .sess, .ceWins] s (execFlagSet core ctx s) := by
  unfold execFlagSet
  repeat' first
    | intro _
    | with_reducible assumption
    | with_reducible exact Upd.refl _
    | with_reducible apply UpdR.next
    | ((with_reducible apply Upd.go (flagOp_upd _ _ _ _ _)); rotate_left; exact rfl)

theorem execFlagClear_upd (core : Nat) (ctx : Nat) (s : State) : UpdR [.outbox, .regIrq, .regErr, .regSpd, .regFlt, .ctxs, .runs,
    .engines, .spads, .spad, .spadChk, .serais, .sess, .ceWins] s (execFlagClear core ctx s) := by
  unfold execFlagClear
  repeat' first
    | intro _
    | with_reducible assumption
    | with_reducible exact Upd.refl _
    | with_reducible apply UpdR.next
    | ((with_reducible apply Upd.go (flagOp_upd _ _ _ _ _)); rotate_left; exact rfl)

theorem execFlagToggle_upd (core : Nat) (ctx : Nat) (s : State) : UpdR [.outbox, .regIrq, .regErr, .regSpd, .regFlt, .ctxs, .runs,
    .engines, .spads, .spad, .spadChk, .serais, .sess, .ceWins] s (execFlagToggle core ctx s) := by
  unfold execFlagToggle
  repeat' first
    | intro _
    | with_reducible assumption
    | with_reducible exact Upd.refl _
    | with_reducible apply UpdR.next
    | ((with_reducible apply Upd.go (flagOp_upd _ _ _ _ _)); rotate_left; exact rfl)

theorem releaseWaits_upd (o : Nat × Nat) (s : State) : Upd [.outbox, .regIrq, .regErr, .regSpd, .regFlt, .ctxs, .runs, .engines, .spads,
    .spad, .spadChk, .sess, .ceWins] s (releaseWaits o s) := by
  unfold releaseWaits
  repeat' first
    | intro _
    | with_reducible assumption
    | with_reducible exact Upd.refl _
    | ((with_reducible apply UpdS.snd); with_reducible assumption)
    | (extract_lets -underBinder +onlyGivenNames x; (with_reducible refine Upd.cut x ?_ ?_); rotate_left; (clear_value x; revert x; intro _ _); rotate_right; subst x)
    | (extract_lets -underBinder +onlyGivenNames x; clear_value x; revert x; intro _)
    | with_reducible apply Upd.foldl
    | with_reducible apply UpdS.foldl
    | ((with_reducible apply UpdS.snd); with_reducible apply UpdS.foldl)
    | ((with_reducible apply Upd.go (endWork_upd _ _ _ _ _ _ _ _)); rotate_left; exact rfl)
    | ((with_reducible apply Upd.go (startDesc_upd _ _ _ _ _)); rotate_left; exact rfl)
    | ((with_reducible apply Upd.go (noteSy_upd _ _ _ _ _)); rotate_left; exact rfl)
    | with_reducible apply UpdS.mk
    | dsimp only
    | split

theorem execFlagWait_upd (core : Nat) (ctx : Nat) (s : State) : UpdR [.outbox, .regIrq, .regErr, .regSpd, .regFlt, .ctxs, .runs, .engines,
    .spads, .spad, .spadChk, .serais, .sess, .ceWins] s (execFlagWait core ctx s) := by
  unfold execFlagWait
  repeat' first
    | intro _
    | with_reducible assumption
    | with_reducible exact Upd.refl _
    | (extract_lets -underBinder +onlyGivenNames x; (with_reducible refine UpdR.cut x ?_ ?_); rotate_left; (clear_value x; revert x; intro _ _); rotate_right; subst x)
    | (extract_lets -underBinder +onlyGivenNames x; (with_reducible refine Upd.cut x ?_ ?_); rotate_left; (clear_value x; revert x; intro _ _); rotate_right; subst x)
    | (extract_lets -underBinder +onlyGivenNames x; clear_value x; revert x; intro _)
    | with_reducible apply Upd.ite <;> intro _
    | with_reducible apply UpdR.ite <;> intro _
    | with_reducible apply UpdR.next
    | ((with_reducible apply Upd.go (putFlag_upd _ _ _ _)); rotate_left; exact rfl)
    | ((with_reducible apply syRun_upd); rotate_left; exact rfl)
    | ((with_reducible apply Upd.go (releaseWaits_upd _ _)); rotate_left; exact rfl)
    | with_reducible apply UpdS.mk

theorem retWrite_upd (g : Nat) (c : Nat) (d : List Byte) (old : Nat) (s : State) : Upd [.outbox, .regIrq, .regErr, .regSpd, .regFlt,
    .spads, .spad, .spadChk, .ceWins] s (retWrite g c d old s) := by
  unfold retWrite
  repeat' first
    | intro _
    | with_reducible assumption
    | with_reducible exact Upd.refl _
    | with_reducible apply Upd.ite <;> intro _
    | ((with_reducible apply Upd.go (writeNarrow_upd _ _ _ _)); rotate_left; exact rfl)

theorem ctrOp_upd (g : Nat) (c : Nat) (op : Nat) (s : State) : Upd [.outbox, .regIrq, .regErr, .regSpd, .regFlt, .ctxs, .runs, .engines,
    .spads, .spad, .spadChk, .serais, .sess, .ceWins] s (ctrOp g c op s) := by
  unfold ctrOp
  repeat' first
    | intro _
    | with_reducible assumption
    | with_reducible exact Upd.refl _
    | (extract_lets -underBinder +onlyGivenNames x; (with_reducible refine Upd.cut x ?_ ?_); rotate_left; (clear_value x; revert x; intro _ _); rotate_right; subst x)
    | (extract_lets -underBinder +onlyGivenNames x; clear_value x; revert x; intro _)
    | with_reducible apply Upd.ite <;> intro _
    | with_reducible apply UpdOS.ite <;> intro _
    | with_reducible apply Upd.getD
    | ((with_reducible apply Upd.go (endWork_upd _ _ _ _ _ _ _ _)); rotate_left; exact rfl)
    | ((with_reducible apply Upd.go (putCtr_upd _ _ _ _)); rotate_left; exact rfl)
    | ((with_reducible apply UpdOS.go (takeDesc_upd _ _ _ _ _)); rotate_left; exact rfl)
    | ((with_reducible apply Upd.go (noteSy_upd _ _ _ _ _)); rotate_left; exact rfl)
    | ((with_reducible apply Upd.go (retWrite_upd _ _ _ _ _)); rotate_left; exact rfl)
    | with_reducible exact UpdOS.none
    | with_reducible apply UpdOS.some
    | ((with_reducible apply UpdOS.of_eq); with_reducible assumption)
    | split

theorem execCtrAdd_upd (core : Nat) (ctx : Nat) (s : State) : UpdR [.outbox, .regIrq, .regErr, .regSpd, .regFlt, .ctxs, .runs, .engines,
    .spads, .spad, .spadChk, .serais, .sess, .ceWins] s (execCtrAdd core ctx s) := by
  unfold execCtrAdd
  repeat' first
    | intro _
    | with_reducible assumption
    | with_reducible exact Upd.refl _
    | with_reducible apply UpdR.next
    | ((with_reducible apply Upd.go (ctrOp_upd _ _ _ _)); rotate_left; exact rfl)

theorem execCtrSet_upd (core : Nat) (ctx : Nat) (s : State) : UpdR [.outbox, .regIrq, .regErr, .regSpd, .regFlt, .ctxs, .runs, .engines,
    .spads, .spad, .spadChk, .serais, .sess, .ceWins] s (execCtrSet core ctx s) := by
  unfold execCtrSet
  repeat' first
    | intro _
    | with_reducible assumption
    | with_reducible exact Upd.refl _
    | with_reducible apply UpdR.next
    | ((with_reducible apply Upd.go (ctrOp_upd _ _ _ _)); rotate_left; exact rfl)

theorem execCtrWait_upd (core : Nat) (ctx : Nat) (s : State) : UpdR [.outbox, .regIrq, .regErr, .regSpd, .regFlt, .ctxs, .runs, .engines,
    .spads, .spad, .spadChk, .sess, .ceWins] s (execCtrWait core ctx s) := by
  unfold execCtrWait
  repeat' first
    | intro _
    | with_reducible assumption
    | with_reducible exact Upd.refl _
    | with_reducible apply UpdR.next
    | ((with_reducible apply syRun_upd); rotate_left; exact rfl)
    | with_reducible apply UpdS.mk

theorem execBarInit_upd (core : Nat) (ctx : Nat) (s : State) : UpdR [.outbox, .regIrq, .regErr, .regSpd, .regFlt, .ctxs, .runs, .engines,
    .spads, .spad, .spadChk, .serais, .sess, .ceWins] s (execBarInit core ctx s) := by
  unfold execBarInit
  repeat' first
    | intro _
    | with_reducible assumption
    | with_reducible exact Upd.refl _
    | (extract_lets -underBinder +onlyGivenNames x; (with_reducible refine UpdR.cut x ?_ ?_); rotate_left; (clear_value x; revert x; intro _ _); rotate_right; subst x)
    | (extract_lets -underBinder +onlyGivenNames x; (with_reducible refine Upd.cut x ?_ ?_); rotate_left; (clear_value x; revert x; intro _ _); rotate_right; subst x)
    | (extract_lets -underBinder +onlyGivenNames x; (with_reducible refine UpdR.cutO x ?_ ?_); rotate_left; (clear_value x; revert x; intro _ _); rotate_right; subst x)
    | (extract_lets -underBinder +onlyGivenNames x; (with_reducible refine Upd.cutO x ?_ ?_); rotate_left; (clear_value x; revert x; intro _ _); rotate_right; subst x)
    | (extract_lets -underBinder +onlyGivenNames x; (with_reducible refine isFn x ?_); subst x)
    | (extract_lets -underBinder +onlyGivenNames x; clear_value x; revert x; intro _)
    | with_reducible apply Upd.ite <;> intro _
    | with_reducible apply UpdO.ite <;> intro _
    | with_reducible apply UpdOS.ite <;> intro _
    | with_reducible apply UpdR.ite <;> intro _
    | with_reducible apply UpdR.next
    | ((with_reducible apply Upd.go (endWork_upd _ _ _ _ _ _ _ _)); rotate_left; exact rfl)
    | ((with_reducible apply UpdO.go (barInit_upd _ _ _ _ _ _ _)); rotate_left; exact rfl)
    | ((with_reducible apply UpdOS.go (takeDesc_upd _ _ _ _ _)); rotate_left; exact rfl)
    | ((with_reducible apply Upd.go (noteSy_upd _ _ _ _ _)); rotate_left; exact rfl)
    | with_reducible exact UpdO.none
    | with_reducible apply UpdO.some
    | with_reducible exact UpdOS.none
    | with_reducible apply UpdOS.some
    | ((with_reducible apply UpdO.of_eq); with_reducible assumption)
    | ((with_reducible apply UpdOS.of_eq); with_reducible assumption)
    | split

theorem recordArrival_upd (g : Nat) (c : Nat) (k : Nat) (o : Nat × Nat) (s : State) : Upd [.outbox, .regIrq, .regErr, .regLdg, .regMcs,
    .regFlt, .ldgSeq, .ldgLost, .ctxs, .runs, .spads, .serais, .dram, .dramChk, .chans, .units, .snoop, .biWait, .servedBytes] s
    (recordArrival g c k o s) := by
  unfold recordArrival
  repeat' first
    | intro _
    | with_reducible assumption
    | with_reducible exact Upd.refl _
    | (extract_lets -underBinder +onlyGivenNames x; (with_reducible refine Upd.cut x ?_ ?_); rotate_left; (clear_value x; revert x; intro _ _); rotate_right; subst x)
    | (extract_lets -underBinder +onlyGivenNames x; clear_value x; revert x; intro _)
    | ((with_reducible apply Upd.go (putCtx_upd _ _ _)); rotate_left; exact rfl)
    | ((with_reducible apply Upd.go (barArrive_upd _ _ _ _)); rotate_left; exact rfl)

/-- What `execBarArrive` may change. -/
def execBarArrive_parts : List Part :=
  [.outbox, .regIrq, .regErr, .regLdg, .regSpd, .regMcs, .regFlt, .ldgSeq, .ldgLost, .ctxs, .runs, .engines, .spads, .spad, .spadChk,
   .serais, .sess, .dram, .dramChk, .chans, .units, .snoop, .biWait, .ceWins, .servedBytes]

theorem execBarArrive_upd (core : Nat) (ctx : Nat) (s : State) : UpdR execBarArrive_parts s (execBarArrive core ctx s) := by
  unfold execBarArrive
  repeat' first
    | intro _
    | with_reducible assumption
    | with_reducible exact Upd.refl _
    | (extract_lets -underBinder +onlyGivenNames x; (with_reducible refine UpdR.cut x ?_ ?_); rotate_left; (clear_value x; revert x; intro _ _); rotate_right; subst x)
    | (extract_lets -underBinder +onlyGivenNames x; (with_reducible refine Upd.cut x ?_ ?_); rotate_left; (clear_value x; revert x; intro _ _); rotate_right; subst x)
    | (extract_lets -underBinder +onlyGivenNames x; clear_value x; revert x; intro _)
    | with_reducible apply Upd.ite <;> intro _
    | with_reducible apply UpdOS.ite <;> intro _
    | with_reducible apply UpdR.ite <;> intro _
    | with_reducible apply UpdR.next
    | with_reducible apply Upd.getD
    | ((with_reducible apply Upd.go (putCtx_upd _ _ _)); rotate_left; exact rfl)
    | ((with_reducible apply Upd.go (endWork_upd _ _ _ _ _ _ _ _)); rotate_left; exact rfl)
    | ((with_reducible apply UpdOS.go (takeDesc_upd _ _ _ _ _)); rotate_left; exact rfl)
    | ((with_reducible apply Upd.go (recordArrival_upd _ _ _ _ _)); rotate_left; exact rfl)
    | with_reducible exact UpdOS.none
    | with_reducible apply UpdOS.some
    | ((with_reducible apply UpdOS.of_eq); with_reducible assumption)
    | split

theorem execBarWait_upd (core : Nat) (ctx : Nat) (s : State) : UpdR [.outbox, .regIrq, .regErr, .regSpd, .regFlt, .ctxs, .runs, .engines,
    .spads, .spad, .spadChk, .sess, .ceWins] s (execBarWait core ctx s) := by
  unfold execBarWait
  repeat' first
    | intro _
    | with_reducible assumption
    | with_reducible exact Upd.refl _
    | (extract_lets -underBinder +onlyGivenNames x; (with_reducible refine UpdR.cut x ?_ ?_); rotate_left; (clear_value x; revert x; intro _ _); rotate_right; subst x)
    | (extract_lets -underBinder +onlyGivenNames x; (with_reducible refine Upd.cut x ?_ ?_); rotate_left; (clear_value x; revert x; intro _ _); rotate_right; subst x)
    | (extract_lets -underBinder +onlyGivenNames x; clear_value x; revert x; intro _)
    | with_reducible apply Upd.ite <;> intro _
    | with_reducible apply UpdOS.ite <;> intro _
    | with_reducible apply UpdR.ite <;> intro _
    | with_reducible apply UpdR.next
    | with_reducible apply Upd.getD
    | ((with_reducible apply Upd.go (putCtx_upd _ _ _)); rotate_left; exact rfl)
    | ((with_reducible apply Upd.go (endWork_upd _ _ _ _ _ _ _ _)); rotate_left; exact rfl)
    | ((with_reducible apply UpdOS.go (takeDesc_upd _ _ _ _ _)); rotate_left; exact rfl)
    | with_reducible exact UpdOS.none
    | with_reducible apply UpdOS.some
    | ((with_reducible apply UpdOS.of_eq); with_reducible assumption)
    | split

theorem sendSignal_upd (p : Nat) (g : Nat) (c : Nat) (d : List Byte) (peer : Nat) (q : Nat) (wb : Nat) (dseq : Option Nat) (s : State) :
    Upd [.ports] s (sendSignal p g c d peer q wb dseq s) := by
  unfold sendSignal
  repeat' first
    | intro _
    | with_reducible assumption
    | with_reducible exact Upd.refl _
    | (extract_lets -underBinder +onlyGivenNames x; (with_reducible refine Upd.cut x ?_ ?_); rotate_left; (clear_value x; revert x; intro _ _); rotate_right; subst x)
    | (extract_lets -underBinder +onlyGivenNames x; clear_value x; revert x; intro _)
    | with_reducible apply Upd.ite <;> intro _
    | with_reducible apply Upd.getD
    | ((with_reducible apply Upd.go (sendFrame_upd _ _ _ _)); rotate_left; exact rfl)

/-- What `execRemoteSignal` may change. -/
def execRemoteSignal_parts : List Part :=
  [.outbox, .regIrq, .regErr, .regLdg, .regSpd, .regMcs, .regFlt, .ldgSeq, .ldgLost, .ctxs, .runs, .engines, .spads, .spad, .spadChk, .sess,
   .dram, .dramChk, .chans, .units, .snoop, .biWait, .ceWins, .servedBytes, .ports]

theorem execRemoteSignal_upd (core : Nat) (ctx : Nat) (s : State) : UpdR execRemoteSignal_parts s (execRemoteSignal core ctx s) := by
  unfold execRemoteSignal
  repeat' first
    | intro _
    | with_reducible assumption
    | with_reducible exact Upd.refl _
    | (extract_lets -underBinder +onlyGivenNames x; (with_reducible refine UpdR.cut x ?_ ?_); rotate_left; (clear_value x; revert x; intro _ _); rotate_right; subst x)
    | (extract_lets -underBinder +onlyGivenNames x; (with_reducible refine Upd.cut x ?_ ?_); rotate_left; (clear_value x; revert x; intro _ _); rotate_right; subst x)
    | (extract_lets -underBinder +onlyGivenNames x; clear_value x; revert x; intro _)
    | with_reducible apply Upd.ite <;> intro _
    | with_reducible apply UpdOS.ite <;> intro _
    | with_reducible apply UpdR.ite <;> intro _
    | with_reducible apply UpdR.next
    | ((with_reducible apply Upd.go (ledger_upd _ _ _ _)); rotate_left; exact rfl)
    | ((with_reducible apply Upd.go (endWork_upd _ _ _ _ _ _ _ _)); rotate_left; exact rfl)
    | ((with_reducible apply UpdOS.go (takeDesc_upd _ _ _ _ _)); rotate_left; exact rfl)
    | ((with_reducible apply Upd.go (remoteFail_upd _ _ _ _ _)); rotate_left; exact rfl)
    | ((with_reducible apply Upd.go (noteSy_upd _ _ _ _ _)); rotate_left; exact rfl)
    | ((with_reducible apply Upd.go (sendSignal_upd _ _ _ _ _ _ _ _ _)); rotate_left; exact rfl)
    | with_reducible exact UpdOS.none
    | with_reducible apply UpdOS.some
    | ((with_reducible apply UpdOS.of_eq); with_reducible assumption)
    | split

theorem execHostNotify_upd (core : Nat) (ctx : Nat) (s : State) : UpdR [.outbox, .regIrq, .regErr, .regSpd, .regFlt, .ctxs, .runs,
    .engines, .spads, .spad, .spadChk, .sess, .ceWins] s (execHostNotify core ctx s) := by
  unfold execHostNotify
  repeat' first
    | intro _
    | with_reducible assumption
    | with_reducible exact Upd.refl _
    | (extract_lets -underBinder +onlyGivenNames x; (with_reducible refine UpdR.cut x ?_ ?_); rotate_left; (clear_value x; revert x; intro _ _); rotate_right; subst x)
    | (extract_lets -underBinder +onlyGivenNames x; (with_reducible refine Upd.cut x ?_ ?_); rotate_left; (clear_value x; revert x; intro _ _); rotate_right; subst x)
    | (extract_lets -underBinder +onlyGivenNames x; clear_value x; revert x; intro _)
    | with_reducible apply Upd.ite <;> intro _
    | with_reducible apply UpdOS.ite <;> intro _
    | with_reducible apply UpdR.ite <;> intro _
    | with_reducible apply UpdR.next
    | with_reducible apply Upd.getD
    | ((with_reducible apply Upd.go (sendVec_upd _ _)); rotate_left; exact rfl)
    | ((with_reducible apply Upd.go (putSess_upd _ _ _)); rotate_left; exact rfl)
    | ((with_reducible apply Upd.go (sessWrite_upd _ _ _ _)); rotate_left; exact rfl)
    | ((with_reducible apply Upd.go (mapWork_upd _ _ _ _ _ _)); rotate_left; exact rfl)
    | ((with_reducible apply Upd.go (endWork_upd _ _ _ _ _ _ _ _)); rotate_left; exact rfl)
    | ((with_reducible apply UpdOS.go (takeDesc_upd _ _ _ _ _)); rotate_left; exact rfl)
    | ((with_reducible apply Upd.go (noteSy_upd _ _ _ _ _)); rotate_left; exact rfl)
    | with_reducible exact UpdOS.none
    | with_reducible apply UpdOS.some
    | ((with_reducible apply UpdOS.of_eq); with_reducible assumption)
    | split

theorem dropHeld_upd (k : Nat) (i : Nat) (s : State) : Upd [.serais] s (dropHeld k i s) := by
  unfold dropHeld
  repeat' first
    | intro _
    | with_reducible assumption
    | with_reducible exact Upd.refl _
    | (extract_lets -underBinder +onlyGivenNames x; (with_reducible refine Upd.cut x ?_ ?_); rotate_left; (clear_value x; revert x; intro _ _); rotate_right; subst x)
    | (extract_lets -underBinder +onlyGivenNames x; clear_value x; revert x; intro _)
    | ((with_reducible apply Upd.go (putSerai_upd _ _ _)); rotate_left; exact rfl)

theorem execHeldSignalApply_upd (sy : Nat) (pos : Nat) (s : State) : UpdR [.outbox, .regIrq, .regErr, .regLdg, .regSerai, .regMcs,
    .regFlt, .ldgSeq, .ldgLost, .serais, .dram, .dramChk, .chans, .units, .snoop, .biWait, .servedBytes] s (execHeldSignalApply sy pos s)
    := by
  unfold execHeldSignalApply
  repeat' first
    | intro _
    | with_reducible assumption
    | with_reducible exact Upd.refl _
    | (extract_lets -underBinder +onlyGivenNames x; (with_reducible refine UpdR.cut x ?_ ?_); rotate_left; (clear_value x; revert x; intro _ _); rotate_right; subst x)
    | (extract_lets -underBinder +onlyGivenNames x; (with_reducible refine Upd.cut x ?_ ?_); rotate_left; (clear_value x; revert x; intro _ _); rotate_right; subst x)
    | (extract_lets -underBinder +onlyGivenNames x; clear_value x; revert x; intro _)
    | with_reducible apply Upd.ite <;> intro _
    | with_reducible apply UpdR.ite <;> intro _
    | with_reducible apply UpdR.next
    | ((with_reducible apply Upd.go (rejectRemote_upd _ _ _ _ _)); rotate_left; exact rfl)
    | ((with_reducible apply Upd.go (applyRemote_upd _ _ _)); rotate_left; exact rfl)
    | ((with_reducible apply Upd.go (dropHeld_upd _ _ _)); rotate_left; exact rfl)
    | split

end Sys2Proof.Machine
end

