-- ==== Sys2Proof/Laws/UpdHeader.lean ====
section
/-!
SUPPORT. What each operation of Machine/Header can change, and that it keeps the canonical form.
-/

namespace Sys2Proof.Machine

set_option maxRecDepth 4000
set_option linter.all false

theorem badAccess_upd (code : Nat) (a : Nat) (s : State) : Upd [.outbox, .regIrq, .regErr, .regFlt] s (badAccess code a s) := by
  unfold badAccess
  repeat' first
    | intro _
    | with_reducible assumption
    | with_reducible exact Upd.refl _
    | ((with_reducible apply Upd.go (logErr_upd _ _ _ _ _)); rotate_left; exact rfl)

/-- What `storeField` may change. -/
def storeField_parts : List Part :=
  [.regCtl, .regIrq, .regLock, .regSet, .regErr, .regMs, .regEpo, .regLdg, .regSerai, .regEng, .regSpd, .regTmv, .regBkc, .regBku, .regMcs,
   .regDrv, .regBlk, .regRcv, .regFlt, .regEvl, .regOpt, .regBay, .regSes, .regRng, .regHif, .regSec, .regPwr, .regThm, .regClk, .regMgt,
   .staging]

theorem storeField_upd (w : FieldWrite) (v : Nat) (s : State) : Upd storeField_parts s (storeField w v s) := by
  unfold storeField
  repeat' first
    | intro _
    | with_reducible assumption
    | with_reducible exact Upd.refl _
    | with_reducible apply Upd.ite <;> intro _
    | ((with_reducible apply Upd.go (wri_upd _ _ _ _ _)); rotate_left; first | exact rfl | exact within_trans (within_part _) rfl)
    | ((with_reducible apply Upd.go (stageField_upd _ _ _ _ _)); rotate_left; exact rfl)

theorem writeRw_upd (w : FieldWrite) (s : State) : Upd storeField_parts s (writeRw w s) := by
  unfold writeRw
  repeat' first
    | intro _
    | with_reducible assumption
    | with_reducible exact Upd.refl _
    | (extract_lets -underBinder +onlyGivenNames x; (with_reducible refine Upd.cut x ?_ ?_); rotate_left; (clear_value x; revert x; intro _ _); rotate_right; subst x)
    | (extract_lets -underBinder +onlyGivenNames x; clear_value x; revert x; intro _)
    | with_reducible apply Upd.ite <;> intro _
    | ((with_reducible apply Upd.go (wr_upd _ _ _ _)); rotate_left; exact rfl)
    | ((with_reducible apply Upd.go (storeField_upd _ _ _)); rotate_left; exact rfl)
    | split

theorem writeRwl_upd (w : FieldWrite) (s : State) : Upd storeField_parts s (writeRwl w s) := by
  unfold writeRwl
  repeat' first
    | intro _
    | with_reducible assumption
    | with_reducible exact Upd.refl _
    | with_reducible apply Upd.ite <;> intro _
    | ((with_reducible apply Upd.go (wr_upd _ _ _ _)); rotate_left; exact rfl)
    | ((with_reducible apply Upd.go (writeRw_upd _ _)); rotate_left; exact rfl)

theorem writeByCode_upd (w : FieldWrite) (s : State) : Upd storeField_parts s (writeByCode w s) := by
  unfold writeByCode
  repeat' first
    | intro _
    | with_reducible assumption
    | with_reducible exact Upd.refl _
    | (extract_lets -underBinder +onlyGivenNames x; (with_reducible refine Upd.cut x ?_ ?_); rotate_left; (clear_value x; revert x; intro _ _); rotate_right; subst x)
    | (extract_lets -underBinder +onlyGivenNames x; clear_value x; revert x; intro _)
    | ((with_reducible apply Upd.go (wri_upd _ _ _ _ _)); rotate_left; first | exact rfl | exact within_trans (within_part _) rfl)
    | ((with_reducible apply Upd.go (writeRw_upd _ _)); rotate_left; exact rfl)
    | ((with_reducible apply Upd.go (writeRwl_upd _ _)); rotate_left; exact rfl)
    | split

theorem writeFields_upd {m : List Part} {a s : State} {act : Act} {u : UnitId} {lo n v : Nat} (h : Upd m a s)
    (hm : within storeField_parts m = true) (hact : ∀ w t, Upd m a t → UpdO m a (act w t)) : Upd m a (writeFields act u lo n v s) := by
  unfold writeFields
  refine Upd.foldl h fun t x ht => ?_
  extract_lets w
  cases he : act w t with
  | none => exact Upd.go (writeByCode_upd _ _) ht hm
  | some t' => exact (hact w t ht).of t' he

theorem milestoneWrite_upd (u : UnitId) (i : Nat) (lo : Nat) (n : Nat) (v : Nat) (s : State) : Upd epochSettle_parts s (milestoneWrite u i
    lo n v s) := by
  unfold milestoneWrite
  extract_lets p up arm disarm low high armed same
  have hl : ∀ t, Upd epochSettle_parts s t → Upd epochSettle_parts s (low t) := fun t ht =>
    Upd.ite (fun _ => Upd.go (wri_upd _ _ _ _ _) ht rfl) fun _ => ht
  have hh : ∀ t, Upd epochSettle_parts s t → Upd epochSettle_parts s (high t) := fun t ht =>
    Upd.ite (fun _ => Upd.go (wri_upd _ _ _ _ _) (Upd.go (wri_upd _ _ _ _ _) ht rfl) rfl) fun _ => ht
  have h0 := Upd.refl (m := epochSettle_parts) s
  refine Upd.ite (fun _ => h0) fun _ => Upd.ite (fun _ => Upd.go (milestoneDisarm_upd _ _ _) h0 rfl) fun _ => ?_
  refine Upd.ite (fun _ => Upd.ite (fun _ => h0) fun _ => ?_) fun _ => ?_
  · exact Upd.go (milestoneArm_upd _ _ _ _) (Upd.ite (fun _ => hh _ (hl _ h0)) fun _ => h0) rfl
  · refine Upd.ite (fun _ => Upd.ite (fun _ => h0) fun _ => Upd.go (wr_upd _ _ _ _) h0 rfl) fun _ => hh _ (hl _ h0)

theorem oosCtrlWrite_upd {m : List Part} {a s : State} {act : Act} {u : UnitId} {off width v : Nat} (h : Upd m a s)
    (hact : ∀ w t, Upd m a t → UpdO m a (act w t)) : Upd m a (oosCtrlWrite act u off width v s) := by
  unfold oosCtrlWrite
  exact Upd.ite (fun _ => Upd.getD (hact _ s h) h) fun _ => h

/-- What `pageWrite` may change. -/
def pageWrite_parts : List Part :=
  [.outbox, .regCtl, .regIrq, .regLock, .regSet, .regErr, .regMs, .regEpo, .regLdg, .regSerai, .regEng, .regSpd, .regTmv, .regBkc, .regBku,
   .regMcs, .regDrv, .regBlk, .regRcv, .regFlt, .regEvl, .regOpt, .regBay, .regSes, .regRng, .regHif, .regSec, .regPwr, .regThm, .regClk,
   .regMgt, .staging, .prevSet, .vslots, .floorAbove, .ldgSeq, .ldgLost, .dram, .dramChk, .chans, .units, .snoop, .biWait, .msix,
   .drovers, .servedBytes, .fwSlots]

theorem pageWrite_upd {m : List Part} {a s : State} {act : Act} {page off width v : Nat} (h : Upd m a s)
    (hm : within pageWrite_parts m = true) (hact : ∀ w t, Upd m a t → UpdO m a (act w t)) : Upd m a (pageWrite act page off width v s) := by
  unfold pageWrite
  have bad : Upd m a (badAccess 1 (page * 4096 + off) s) := Upd.go (badAccess_upd _ _ _) h (within_trans rfl hm)
  split
  · exact Upd.ite (fun _ => h) fun _ => bad
  · extract_lets v
    refine Upd.ite (fun _ => Upd.ite (fun _ => oosCtrlWrite_upd h hact) fun _ => h) fun _ => Upd.ite (fun _ => bad) fun _ =>
      Upd.ite (fun _ => ?_) fun _ => ?_
    · refine h.set_msix (List.contains_iff_mem.2 ?_) fun k => foldl_keeps k.msix fun t x ht => SMap.wf_set ht
      exact List.contains_iff_mem.1 (within_mem hm (by decide))
    · refine Upd.ite (fun _ => h) fun _ => Upd.ite (fun _ => h) fun _ => Upd.ite (fun _ => ?_) fun _ => ?_
      · exact Upd.go (milestoneWrite_upd _ _ _ _ _ _) h (within_trans rfl hm)
      · exact writeFields_upd h (within_trans rfl hm) hact

theorem regWrite_upd {m : List Part} {a s : State} {act : Act} {page off width v : Nat} (h : Upd m a s)
    (hm : within pageWrite_parts m = true) (hact : ∀ w t, Upd m a t → UpdO m a (act w t)) : Upd m a (regWrite act page off width v s) := by
  unfold regWrite
  exact Upd.ite (fun _ => pageWrite_upd h hm hact) fun _ => Upd.go (badAccess_upd _ _ _) h (within_trans rfl hm)

theorem clearRc_upd (u : UnitId) (lo : Nat) (n : Nat) (s : State) : Upd swapSet_parts s (clearRc u lo n s) := by
  unfold clearRc
  repeat' first
    | intro _
    | with_reducible assumption
    | with_reducible exact Upd.refl _
    | ((with_reducible apply UpdS.snd); with_reducible assumption)
    | with_reducible apply Upd.ite <;> intro _
    | with_reducible apply Upd.foldl
    | with_reducible apply UpdS.foldl
    | ((with_reducible apply UpdS.snd); with_reducible apply UpdS.foldl)
    | ((with_reducible apply Upd.go (wri_upd _ _ _ _ _)); rotate_left; first | exact rfl | exact within_trans (within_part _) rfl)
    | with_reducible apply UpdS.mk
    | dsimp only

/-- What `regRead` may change. -/
def regRead_parts : List Part :=
  [.outbox, .regCtl, .regIrq, .regLock, .regSet, .regErr, .regMs, .regEpo, .regLdg, .regSerai, .regEng, .regSpd, .regTmv, .regBkc, .regBku,
   .regMcs, .regDrv, .regBlk, .regRcv, .regFlt, .regEvl, .regOpt, .regBay, .regSes, .regRng, .regHif, .regSec, .regPwr, .regThm, .regClk,
   .regMgt]

theorem regRead_upd (vw : Views) (page : Nat) (off : Nat) (width : Nat) (s : State) : Upd regRead_parts s (regRead vw page off width s) :=
    by
  unfold regRead
  repeat' first
    | intro _
    | with_reducible assumption
    | with_reducible exact Upd.refl _
    | (extract_lets -underBinder +onlyGivenNames x; (with_reducible refine Upd.cut x ?_ ?_); rotate_left; (clear_value x; revert x; intro _ _); rotate_right; subst x)
    | (extract_lets -underBinder +onlyGivenNames x; clear_value x; revert x; intro _)
    | with_reducible apply Upd.ite <;> intro _
    | ((with_reducible apply Upd.go (emit_upd _ _)); rotate_left; exact rfl)
    | ((with_reducible apply Upd.go (clearRc_upd _ _ _ _)); rotate_left; exact rfl)
    | (generalize unitOfPage _ = u; split)
    | split

end Sys2Proof.Machine
end

