-- ==== Sys2Proof/Laws/UpdHarness.lean ====
section
/-!
SUPPORT. What each operation of Machine/Harness can change, and that it keeps the canonical form.
-/

namespace Sys2Proof.Machine

set_option maxRecDepth 4000
set_option linter.all false

theorem execHarnessEntry_upd (stack : Nat) (chan : Nat) (s : State) : UpdR [.regMcs, .chans, .servedBytes] s (execHarnessEntry stack chan
    s) := by
  unfold execHarnessEntry
  repeat' first
    | intro _
    | with_reducible assumption
    | with_reducible exact Upd.refl _
    | with_reducible apply Upd.ite <;> intro _
    | with_reducible apply UpdR.ite <;> intro _
    | with_reducible apply UpdR.next
    | ((with_reducible apply Upd.go (enterHarness_upd _ _)); rotate_left; exact rfl)

theorem execHarnessOn_upd (stack : Nat) (chan : Nat) (s : State) : UpdR [.outbox, .freeCtr, .regIrq, .regErr, .regLdg, .regBku, .regMcs,
    .regFlt, .ldgSeq, .ldgLost, .dram, .dramChk, .chans, .units, .flights, .snoop, .biWait, .ceWins, .servedBytes] s (execHarnessOn stack
    chan s) := by
  unfold execHarnessOn
  repeat' first
    | intro _
    | with_reducible assumption
    | with_reducible exact Upd.refl _
    | (extract_lets -underBinder +onlyGivenNames x; (with_reducible refine UpdR.cut x ?_ ?_); rotate_left; (clear_value x; revert x; intro _ _); rotate_right; subst x)
    | (extract_lets -underBinder +onlyGivenNames x; (with_reducible refine Upd.cut x ?_ ?_); rotate_left; (clear_value x; revert x; intro _ _); rotate_right; subst x)
    | (extract_lets -underBinder +onlyGivenNames x; clear_value x; revert x; intro _)
    | with_reducible apply Upd.ite <;> intro _
    | with_reducible apply UpdR.ite <;> intro _
    | with_reducible apply UpdR.next
    | ((with_reducible apply Upd.go (putChan_upd _ _ _)); rotate_left; exact rfl)
    | ((with_reducible apply Upd.go (serveChan_upd _ _)); rotate_left; exact rfl)

theorem execHarnessExit_upd (stack : Nat) (chan : Nat) (s : State) : UpdR [.regMcs, .chans, .servedBytes] s (execHarnessExit stack chan s)
    := by
  unfold execHarnessExit
  repeat' first
    | intro _
    | with_reducible assumption
    | with_reducible exact Upd.refl _
    | (extract_lets -underBinder +onlyGivenNames x; (with_reducible refine UpdR.cut x ?_ ?_); rotate_left; (clear_value x; revert x; intro _ _); rotate_right; subst x)
    | (extract_lets -underBinder +onlyGivenNames x; (with_reducible refine Upd.cut x ?_ ?_); rotate_left; (clear_value x; revert x; intro _ _); rotate_right; subst x)
    | (extract_lets -underBinder +onlyGivenNames x; clear_value x; revert x; intro _)
    | with_reducible apply Upd.ite <;> intro _
    | with_reducible apply UpdR.ite <;> intro _
    | with_reducible apply UpdR.next
    | ((with_reducible apply Upd.go (putChan_upd _ _ _)); rotate_left; exact rfl)
    | ((with_reducible apply Upd.go (preAll_upd _ _)); rotate_left; exact rfl)
    | ((with_reducible apply Upd.go (writeHmr_upd _ _ _)); rotate_left; exact rfl)
    | split

theorem execHarnessOff_upd (stack : Nat) (chan : Nat) (s : State) : UpdR [.regMcs, .chans, .servedBytes] s (execHarnessOff stack chan s)
    := by
  unfold execHarnessOff
  repeat' first
    | intro _
    | with_reducible assumption
    | with_reducible exact Upd.refl _
    | (extract_lets -underBinder +onlyGivenNames x; (with_reducible refine UpdR.cut x ?_ ?_); rotate_left; (clear_value x; revert x; intro _ _); rotate_right; subst x)
    | (extract_lets -underBinder +onlyGivenNames x; (with_reducible refine Upd.cut x ?_ ?_); rotate_left; (clear_value x; revert x; intro _ _); rotate_right; subst x)
    | (extract_lets -underBinder +onlyGivenNames x; clear_value x; revert x; intro _)
    | with_reducible apply Upd.ite <;> intro _
    | with_reducible apply UpdR.ite <;> intro _
    | with_reducible apply UpdR.next
    | ((with_reducible apply Upd.go (putChan_upd _ _ _)); rotate_left; exact rfl)
    | ((with_reducible apply Upd.go (enterHarness_upd _ _)); rotate_left; exact rfl)

theorem hmReqWrite_upd (d : Nat) (mask : Nat) (s : State) : Upd [.regBku, .regMcs, .chans, .servedBytes] s (hmReqWrite d mask s) := by
  unfold hmReqWrite
  repeat' first
    | intro _
    | with_reducible assumption
    | with_reducible exact Upd.refl _
    | (extract_lets -underBinder +onlyGivenNames x; (with_reducible refine Upd.cut x ?_ ?_); rotate_left; (clear_value x; revert x; intro _ _); rotate_right; subst x)
    | (extract_lets -underBinder +onlyGivenNames x; clear_value x; revert x; intro _)
    | with_reducible apply Upd.ite <;> intro _
    | with_reducible apply Upd.forUpto
    | ((with_reducible apply Upd.go (wr_upd _ _ _ _)); rotate_left; exact rfl)
    | ((with_reducible apply Upd.go (enterHarness_upd _ _)); rotate_left; exact rfl)

theorem execHmReqWrite_upd (stack : Nat) (mask : Nat) (s : State) : UpdR [.regBku, .regMcs, .chans, .servedBytes] s (execHmReqWrite stack
    mask s) := by
  unfold execHmReqWrite
  repeat' first
    | intro _
    | with_reducible assumption
    | with_reducible exact Upd.refl _
    | with_reducible apply UpdR.next
    | with_reducible apply hostWrites_upd
    | ((with_reducible apply Upd.go (hmReqWrite_upd _ _ _)); rotate_left; exact rfl)

theorem hostGang_upd (ck : Nat) (s : State) : Upd [.regMcs, .chans, .servedBytes] s (hostGang ck s) := by
  unfold hostGang
  repeat' first
    | intro _
    | with_reducible assumption
    | with_reducible exact Upd.refl _
    | (extract_lets -underBinder +onlyGivenNames x; (with_reducible refine Upd.cut x ?_ ?_); rotate_left; (clear_value x; revert x; intro _ _); rotate_right; subst x)
    | (extract_lets -underBinder +onlyGivenNames x; clear_value x; revert x; intro _)
    | with_reducible apply Upd.ite <;> intro _
    | ((with_reducible apply Upd.go (putChan_upd _ _ _)); rotate_left; exact rfl)
    | ((with_reducible apply Upd.go (writeHmr_upd _ _ _)); rotate_left; exact rfl)

theorem hostGangWrite_upd (d : Nat) (mask : Nat) (s : State) : Upd [.regBku, .regMcs, .chans, .servedBytes] s (hostGangWrite d mask s) :=
    by
  unfold hostGangWrite
  repeat' first
    | intro _
    | with_reducible assumption
    | with_reducible exact Upd.refl _
    | with_reducible apply Upd.forUpto
    | ((with_reducible apply Upd.go (wr_upd _ _ _ _)); rotate_left; exact rfl)
    | ((with_reducible apply Upd.go (hostGang_upd _ _)); rotate_left; exact rfl)

theorem harnessErr_upd (code : Nat) (dpa : Nat) (ck : Nat) (s : State) : Upd [.outbox, .regIrq, .regErr, .regFlt] s (harnessErr code dpa
    ck s) := by
  unfold harnessErr
  repeat' first
    | intro _
    | with_reducible assumption
    | with_reducible exact Upd.refl _
    | ((with_reducible apply Upd.go (logErr_upd _ _ _ _ _)); rotate_left; exact rfl)

theorem harnessRead_upd (stack : Nat) (chan : Nat) (off : Nat) (dpa : Nat) (s : State) : UpdS [.outbox, .regIrq, .regErr, .regMcs,
    .regFlt, .chans, .units, .servedBytes] s (harnessRead stack chan off dpa s) := by
  unfold harnessRead
  repeat' first
    | intro _
    | with_reducible assumption
    | with_reducible exact Upd.refl _
    | ((with_reducible apply UpdS.snd); with_reducible assumption)
    | (extract_lets -underBinder +onlyGivenNames x; (with_reducible refine UpdS.cut x ?_ ?_); rotate_left; (clear_value x; revert x; intro _ _); rotate_right; subst x)
    | (extract_lets -underBinder +onlyGivenNames x; (with_reducible refine Upd.cut x ?_ ?_); rotate_left; (clear_value x; revert x; intro _ _); rotate_right; subst x)
    | (extract_lets -underBinder +onlyGivenNames x; clear_value x; revert x; intro _)
    | with_reducible apply Upd.ite <;> intro _
    | with_reducible apply UpdS.ite <;> intro _
    | ((with_reducible apply Upd.go (putUnit_upd _ _ _)); rotate_left; exact rfl)
    | ((with_reducible apply Upd.go (harnessCharge_upd _ _ _ _)); rotate_left; exact rfl)
    | ((with_reducible apply Upd.go (noteHarness_upd _ _ _ _)); rotate_left; exact rfl)
    | ((with_reducible apply Upd.go (harnessErr_upd _ _ _ _)); rotate_left; exact rfl)
    | with_reducible apply UpdS.mk
    | dsimp only

theorem hostCommand_upd (op : Nat) (flags : Nat) (tag : Nat) (ck : Nat) (bks : List Nat) (s : State) : Upd [.outbox, .freeCtr, .regIrq,
    .regErr, .regLdg, .regMcs, .regFlt, .ldgSeq, .ldgLost, .dram, .dramChk, .chans, .units, .snoop, .biWait, .ceWins, .servedBytes] s
    (hostCommand op flags tag ck bks s) := by
  unfold hostCommand
  repeat' first
    | intro _
    | with_reducible assumption
    | with_reducible exact Upd.refl _
    | ((with_reducible apply UpdS.snd); with_reducible assumption)
    | (extract_lets -underBinder +onlyGivenNames x; (with_reducible refine Upd.cut x ?_ ?_); rotate_left; (clear_value x; revert x; intro _ _); rotate_right; subst x)
    | (extract_lets -underBinder +onlyGivenNames x; (with_reducible refine isFn x ?_); subst x)
    | (extract_lets -underBinder +onlyGivenNames x; clear_value x; revert x; intro _)
    | with_reducible apply Upd.foldl
    | with_reducible apply UpdS.foldl
    | ((with_reducible apply UpdS.snd); with_reducible apply UpdS.foldl)
    | ((with_reducible apply Upd.go (putChan_upd _ _ _)); rotate_left; exact rfl)
    | ((with_reducible apply Upd.go (beginUnit_upd _ _ _)); rotate_left; exact rfl)
    | ((with_reducible apply Upd.go (refuseUnit_upd _ _)); rotate_left; exact rfl)
    | with_reducible apply UpdS.mk
    | dsimp only

theorem specialWrite_upd (sc : Nat) (data : List Byte) (bk : Nat) (s : State) : Upd [.units] s (specialWrite sc data bk s) := by
  unfold specialWrite
  repeat' first
    | intro _
    | with_reducible assumption
    | with_reducible exact Upd.refl _
    | (extract_lets -underBinder +onlyGivenNames x; (with_reducible refine Upd.cut x ?_ ?_); rotate_left; (clear_value x; revert x; intro _ _); rotate_right; subst x)
    | (extract_lets -underBinder +onlyGivenNames x; clear_value x; revert x; intro _)
    | with_reducible apply Upd.ite <;> intro _
    | ((with_reducible apply Upd.go (putUnit_upd _ _ _)); rotate_left; exact rfl)

theorem harnessWrite_upd (stack : Nat) (chan : Nat) (off : Nat) (dpa : Nat) (data : List Byte) (s : State) : Upd [.outbox, .freeCtr,
    .regIrq, .regErr, .regLdg, .regBku, .regMcs, .regFlt, .ldgSeq, .ldgLost, .dram, .dramChk, .chans, .units, .snoop, .biWait, .ceWins,
    .servedBytes] s (harnessWrite stack chan off dpa data s) := by
  unfold harnessWrite
  repeat' first
    | intro _
    | with_reducible assumption
    | with_reducible exact Upd.refl _
    | ((with_reducible apply UpdS.snd); with_reducible assumption)
    | (extract_lets -underBinder +onlyGivenNames x; (with_reducible refine Upd.cut x ?_ ?_); rotate_left; (clear_value x; revert x; intro _ _); rotate_right; subst x)
    | (extract_lets -underBinder +onlyGivenNames x; clear_value x; revert x; intro _)
    | with_reducible apply Upd.ite <;> intro _
    | with_reducible apply Upd.foldl
    | with_reducible apply UpdS.foldl
    | ((with_reducible apply UpdS.snd); with_reducible apply UpdS.foldl)
    | ((with_reducible apply Upd.go (count_upd _ _ _ _)); rotate_left; exact rfl)
    | ((with_reducible apply Upd.go (raise_upd _ _ _)); rotate_left; exact rfl)
    | ((with_reducible apply Upd.go (harnessCharge_upd _ _ _ _)); rotate_left; exact rfl)
    | ((with_reducible apply Upd.go (noteHarness_upd _ _ _ _)); rotate_left; exact rfl)
    | ((with_reducible apply Upd.go (hostGang_upd _ _)); rotate_left; exact rfl)
    | ((with_reducible apply Upd.go (harnessErr_upd _ _ _ _)); rotate_left; exact rfl)
    | ((with_reducible apply Upd.go (hostCommand_upd _ _ _ _ _ _)); rotate_left; exact rfl)
    | ((with_reducible apply Upd.go (specialWrite_upd _ _ _ _)); rotate_left; exact rfl)
    | with_reducible apply UpdS.mk
    | dsimp only
    | split

theorem inHarness_upd {m : List Part} {a s : State} {r : Region} {f : Nat → Nat → Nat → State} (h : Upd m a s)
    (hf : ∀ d c off, Upd m a (f d c off)) : Upd m a (inHarness r f s) := by
  cases r with
  | harness d c off => exact hf d c off
  | _ => exact h

theorem harnessStore_upd (dpa : Nat) (data : List Byte) (s : State) : Upd [.outbox, .freeCtr, .regIrq, .regErr, .regLdg, .regBku, .regMcs,
    .regFlt, .ldgSeq, .ldgLost, .dram, .dramChk, .chans, .units, .snoop, .biWait, .ceWins, .servedBytes] s (harnessStore dpa data s) :=
    by
  unfold harnessStore
  repeat' first
    | intro _
    | with_reducible assumption
    | with_reducible exact Upd.refl _
    | ((with_reducible apply UpdS.snd); with_reducible assumption)
    | with_reducible apply Upd.ite <;> intro _
    | with_reducible apply Upd.foldl
    | with_reducible apply UpdS.foldl
    | ((with_reducible apply UpdS.snd); with_reducible apply UpdS.foldl)
    | ((with_reducible apply Upd.go (badAccess_upd _ _ _)); rotate_left; exact rfl)
    | ((with_reducible apply Upd.go (harnessWrite_upd _ _ _ _ _ _)); rotate_left; exact rfl)
    | with_reducible apply inHarness_upd
    | with_reducible apply UpdS.mk
    | dsimp only

theorem harnessCols_upd (d c off dpa ax : Nat) (s : State) : UpdS [.outbox, .regIrq, .regErr, .regMcs, .regFlt, .chans, .units, .servedBytes] s (harnessCols d c off dpa ax s) := by
  induction ax generalizing off dpa s with
  | zero => exact UpdS.mk (Upd.refl _)
  | succ n ih => exact UpdS.mk (Upd.goS (ih _ _ _) (Upd.goS (harnessRead_upd _ _ _ _ _) (Upd.refl _) rfl) rfl)

theorem harnessLoad_upd (dpa : Nat) (len : Nat) (s : State) : Upd [.outbox, .freeCtr, .regIrq, .regErr, .regMcs, .regFlt, .chans, .units,
    .servedBytes] s (harnessLoad dpa len s) := by
  unfold harnessLoad
  repeat' first
    | intro _
    | with_reducible assumption
    | with_reducible exact Upd.refl _
    | ((with_reducible apply UpdS.snd); with_reducible assumption)
    | (extract_lets -underBinder +onlyGivenNames x; (with_reducible refine Upd.cut x ?_ ?_); rotate_left; (clear_value x; revert x; intro _ _); rotate_right; subst x)
    | (extract_lets -underBinder +onlyGivenNames x; (with_reducible refine Upd.cutSnd x ?_ ?_); rotate_left; (clear_value x; revert x; intro _ _); rotate_right; subst x)
    | (extract_lets -underBinder +onlyGivenNames x; clear_value x; revert x; intro _)
    | with_reducible apply Upd.ite <;> intro _
    | with_reducible apply UpdS.ite <;> intro _
    | ((with_reducible apply Upd.go (freshNext_upd _)); rotate_left; exact rfl)
    | ((with_reducible apply Upd.go (emit_upd _ _)); rotate_left; exact rfl)
    | with_reducible apply inHarness_upd
    | ((with_reducible apply Upd.goS (harnessCols_upd _ _ _ _ _ _)); rotate_left; exact rfl)
    | ((with_reducible apply UpdS.go (harnessCols_upd _ _ _ _ _ _)); rotate_left; exact rfl)
    | with_reducible apply UpdS.mk
    | ((with_reducible apply UpdS.of_eq); with_reducible assumption)
    | split

theorem execVRegisterWrite_upd (dpa : Nat) (data : List Byte) (s : State) : UpdR [.outbox, .freeCtr, .regIrq, .regErr, .regLdg, .regBku,
    .regMcs, .regFlt, .ldgSeq, .ldgLost, .dram, .dramChk, .chans, .units, .snoop, .biWait, .ceWins, .servedBytes] s (execVRegisterWrite
    dpa data s) := by
  unfold execVRegisterWrite
  repeat' first
    | intro _
    | with_reducible assumption
    | with_reducible exact Upd.refl _
    | with_reducible apply Upd.ite <;> intro _
    | with_reducible apply UpdR.ite <;> intro _
    | with_reducible apply UpdR.next
    | ((with_reducible apply Upd.go (harnessStore_upd _ _ _)); rotate_left; exact rfl)

theorem execCwWrite_upd (dpa : Nat) (data : List Byte) (s : State) : UpdR [.outbox, .freeCtr, .regIrq, .regErr, .regLdg, .regBku, .regMcs,
    .regFlt, .ldgSeq, .ldgLost, .dram, .dramChk, .chans, .units, .snoop, .biWait, .ceWins, .servedBytes] s (execCwWrite dpa data s) := by
  unfold execCwWrite
  repeat' first
    | intro _
    | with_reducible assumption
    | with_reducible exact Upd.refl _
    | with_reducible apply Upd.ite <;> intro _
    | with_reducible apply UpdR.ite <;> intro _
    | with_reducible apply UpdR.next
    | ((with_reducible apply Upd.go (harnessStore_upd _ _ _)); rotate_left; exact rfl)

theorem execCblWrite_upd (dpa : Nat) (data : List Byte) (s : State) : UpdR [.outbox, .freeCtr, .regIrq, .regErr, .regLdg, .regBku,
    .regMcs, .regFlt, .ldgSeq, .ldgLost, .dram, .dramChk, .chans, .units, .snoop, .biWait, .ceWins, .servedBytes] s (execCblWrite dpa data
    s) := by
  unfold execCblWrite
  repeat' first
    | intro _
    | with_reducible assumption
    | with_reducible exact Upd.refl _
    | with_reducible apply Upd.ite <;> intro _
    | with_reducible apply UpdR.ite <;> intro _
    | with_reducible apply UpdR.next
    | ((with_reducible apply Upd.go (harnessStore_upd _ _ _)); rotate_left; exact rfl)

theorem execFifoPop_upd (dpa : Nat) (s : State) : UpdR [.outbox, .freeCtr, .regIrq, .regErr, .regMcs, .regFlt, .chans, .units,
    .servedBytes] s (execFifoPop dpa s) := by
  unfold execFifoPop
  repeat' first
    | intro _
    | with_reducible assumption
    | with_reducible exact Upd.refl _
    | with_reducible apply Upd.ite <;> intro _
    | with_reducible apply UpdR.ite <;> intro _
    | with_reducible apply UpdR.next
    | ((with_reducible apply Upd.go (harnessLoad_upd _ _ _)); rotate_left; exact rfl)

theorem cmdWrite_upd (op : Nat) (dpa : Nat) (flags : Nat) (tag : Nat) (s : State) : Upd [.outbox, .freeCtr, .regIrq, .regErr, .regLdg,
    .regBku, .regMcs, .regFlt, .ldgSeq, .ldgLost, .dram, .dramChk, .chans, .units, .snoop, .biWait, .ceWins, .servedBytes] s (cmdWrite op
    dpa flags tag s) := by
  unfold cmdWrite
  repeat' first
    | intro _
    | with_reducible assumption
    | with_reducible exact Upd.refl _
    | with_reducible apply Upd.ite <;> intro _
    | ((with_reducible apply Upd.go (harnessStore_upd _ _ _)); rotate_left; exact rfl)

theorem execClear_upd (dpa : Nat) (flags : Nat) (tag : Nat) (s : State) : UpdR [.outbox, .freeCtr, .regIrq, .regErr, .regLdg, .regBku,
    .regMcs, .regFlt, .ldgSeq, .ldgLost, .dram, .dramChk, .chans, .units, .snoop, .biWait, .ceWins, .servedBytes] s (execClear dpa flags
    tag s) := by
  unfold execClear
  repeat' first
    | intro _
    | with_reducible assumption
    | with_reducible exact Upd.refl _
    | with_reducible apply UpdR.next
    | ((with_reducible apply Upd.go (cmdWrite_upd _ _ _ _ _)); rotate_left; exact rfl)

theorem execMvs_upd (dpa : Nat) (flags : Nat) (tag : Nat) (s : State) : UpdR [.outbox, .freeCtr, .regIrq, .regErr, .regLdg, .regBku,
    .regMcs, .regFlt, .ldgSeq, .ldgLost, .dram, .dramChk, .chans, .units, .snoop, .biWait, .ceWins, .servedBytes] s (execMvs dpa flags tag
    s) := by
  unfold execMvs
  repeat' first
    | intro _
    | with_reducible assumption
    | with_reducible exact Upd.refl _
    | with_reducible apply UpdR.next
    | ((with_reducible apply Upd.go (cmdWrite_upd _ _ _ _ _)); rotate_left; exact rfl)

theorem execDot_upd (dpa : Nat) (flags : Nat) (tag : Nat) (s : State) : UpdR [.outbox, .freeCtr, .regIrq, .regErr, .regLdg, .regBku,
    .regMcs, .regFlt, .ldgSeq, .ldgLost, .dram, .dramChk, .chans, .units, .snoop, .biWait, .ceWins, .servedBytes] s (execDot dpa flags tag
    s) := by
  unfold execDot
  repeat' first
    | intro _
    | with_reducible assumption
    | with_reducible exact Upd.refl _
    | with_reducible apply UpdR.next
    | ((with_reducible apply Upd.go (cmdWrite_upd _ _ _ _ _)); rotate_left; exact rfl)

theorem execGred_upd (dpa : Nat) (flags : Nat) (tag : Nat) (s : State) : UpdR [.outbox, .freeCtr, .regIrq, .regErr, .regLdg, .regBku,
    .regMcs, .regFlt, .ldgSeq, .ldgLost, .dram, .dramChk, .chans, .units, .snoop, .biWait, .ceWins, .servedBytes] s (execGred dpa flags
    tag s) := by
  unfold execGred
  repeat' first
    | intro _
    | with_reducible assumption
    | with_reducible exact Upd.refl _
    | with_reducible apply UpdR.next
    | ((with_reducible apply Upd.go (cmdWrite_upd _ _ _ _ _)); rotate_left; exact rfl)

theorem execPqscan_upd (dpa : Nat) (flags : Nat) (tag : Nat) (s : State) : UpdR [.outbox, .freeCtr, .regIrq, .regErr, .regLdg, .regBku,
    .regMcs, .regFlt, .ldgSeq, .ldgLost, .dram, .dramChk, .chans, .units, .snoop, .biWait, .ceWins, .servedBytes] s (execPqscan dpa flags
    tag s) := by
  unfold execPqscan
  repeat' first
    | intro _
    | with_reducible assumption
    | with_reducible exact Upd.refl _
    | with_reducible apply UpdR.next
    | ((with_reducible apply Upd.go (cmdWrite_upd _ _ _ _ _)); rotate_left; exact rfl)

theorem execCopyOut_upd (dpa : Nat) (flags : Nat) (tag : Nat) (s : State) : UpdR [.outbox, .freeCtr, .regIrq, .regErr, .regLdg, .regBku,
    .regMcs, .regFlt, .ldgSeq, .ldgLost, .dram, .dramChk, .chans, .units, .snoop, .biWait, .ceWins, .servedBytes] s (execCopyOut dpa flags
    tag s) := by
  unfold execCopyOut
  repeat' first
    | intro _
    | with_reducible assumption
    | with_reducible exact Upd.refl _
    | with_reducible apply UpdR.next
    | ((with_reducible apply Upd.go (cmdWrite_upd _ _ _ _ _)); rotate_left; exact rfl)

theorem execRowlist_upd (dpa : Nat) (flags : Nat) (tag : Nat) (s : State) : UpdR [.outbox, .freeCtr, .regIrq, .regErr, .regLdg, .regBku,
    .regMcs, .regFlt, .ldgSeq, .ldgLost, .dram, .dramChk, .chans, .units, .snoop, .biWait, .ceWins, .servedBytes] s (execRowlist dpa flags
    tag s) := by
  unfold execRowlist
  repeat' first
    | intro _
    | with_reducible assumption
    | with_reducible exact Upd.refl _
    | with_reducible apply UpdR.next
    | ((with_reducible apply Upd.go (cmdWrite_upd _ _ _ _ _)); rotate_left; exact rfl)

theorem execVet_upd (dpa : Nat) (flags : Nat) (tag : Nat) (s : State) : UpdR [.outbox, .freeCtr, .regIrq, .regErr, .regLdg, .regBku,
    .regMcs, .regFlt, .ldgSeq, .ldgLost, .dram, .dramChk, .chans, .units, .snoop, .biWait, .ceWins, .servedBytes] s (execVet dpa flags tag
    s) := by
  unfold execVet
  repeat' first
    | intro _
    | with_reducible assumption
    | with_reducible exact Upd.refl _
    | with_reducible apply UpdR.next
    | ((with_reducible apply Upd.go (cmdWrite_upd _ _ _ _ _)); rotate_left; exact rfl)

theorem execBurnish_upd (dpa : Nat) (flags : Nat) (tag : Nat) (s : State) : UpdR [.outbox, .freeCtr, .regIrq, .regErr, .regLdg, .regBku,
    .regMcs, .regFlt, .ldgSeq, .ldgLost, .dram, .dramChk, .chans, .units, .snoop, .biWait, .ceWins, .servedBytes] s (execBurnish dpa flags
    tag s) := by
  unfold execBurnish
  repeat' first
    | intro _
    | with_reducible assumption
    | with_reducible exact Upd.refl _
    | with_reducible apply UpdR.next
    | ((with_reducible apply Upd.go (cmdWrite_upd _ _ _ _ _)); rotate_left; exact rfl)

theorem abortRun_upd (r : Nat) (s : State) : Upd [.ctxs, .runs, .spads] s (abortRun r s) := by
  unfold abortRun
  repeat' first
    | intro _
    | with_reducible assumption
    | with_reducible exact Upd.refl _
    | (extract_lets -underBinder +onlyGivenNames x; (with_reducible refine Upd.cut x ?_ ?_); rotate_left; (clear_value x; revert x; intro _ _); rotate_right; subst x)
    | (extract_lets -underBinder +onlyGivenNames x; clear_value x; revert x; intro _)
    | ((with_reducible apply Upd.go (putRun_upd _ _ _)); rotate_left; exact rfl)
    | ((with_reducible apply Upd.go (haltRun_upd _ _ _)); rotate_left; exact rfl)
    | split

theorem abortUnit_upd (ck : Nat) (bank : Nat) (tag : Option Nat) (s : State) : Upd [.outbox, .regIrq, .regErr, .regLdg, .regBku, .regMcs,
    .regFlt, .ldgSeq, .ldgLost, .ctxs, .runs, .spads, .dram, .dramChk, .chans, .units, .flights, .snoop, .biWait, .servedBytes] s
    (abortUnit ck bank tag s) := by
  unfold abortUnit
  repeat' first
    | intro _
    | with_reducible assumption
    | with_reducible exact Upd.refl _
    | ((with_reducible apply UpdS.snd); with_reducible assumption)
    | (extract_lets -underBinder +onlyGivenNames x; (with_reducible refine Upd.cut x ?_ ?_); rotate_left; (clear_value x; revert x; intro _ _); rotate_right; subst x)
    | (extract_lets -underBinder +onlyGivenNames x; clear_value x; revert x; intro _)
    | with_reducible apply Upd.ite <;> intro _
    | with_reducible apply Upd.foldl
    | with_reducible apply UpdS.foldl
    | ((with_reducible apply UpdS.snd); with_reducible apply UpdS.foldl)
    | ((with_reducible apply Upd.go (abortSeq_upd _ _ _ _ _)); rotate_left; exact rfl)
    | ((with_reducible apply Upd.go (abortRun_upd _ _)); rotate_left; exact rfl)
    | with_reducible apply UpdS.mk
    | dsimp only

/-- What `abGo` may change. -/
def abGo_parts : List Part :=
  [.outbox, .regIrq, .regErr, .regLdg, .regSpd, .regBkc, .regBku, .regMcs, .regFlt, .ldgSeq, .ldgLost, .ctxs, .runs, .engines, .spads, .spad,
   .spadChk, .dram, .dramChk, .chans, .units, .flights, .snoop, .biWait, .ceWins, .servedBytes]

theorem abGo_upd (d : Nat) (s : State) : Upd abGo_parts s (abGo d s) := by
  unfold abGo
  repeat' first
    | intro _
    | with_reducible assumption
    | with_reducible exact Upd.refl _
    | ((with_reducible apply UpdS.snd); with_reducible assumption)
    | (extract_lets -underBinder +onlyGivenNames x; (with_reducible refine Upd.cut x ?_ ?_); rotate_left; (clear_value x; revert x; intro _ _); rotate_right; subst x)
    | (extract_lets -underBinder +onlyGivenNames x; (with_reducible refine isFn x ?_); subst x)
    | (extract_lets -underBinder +onlyGivenNames x; clear_value x; revert x; intro _)
    | with_reducible apply Upd.ite <;> intro _
    | with_reducible apply Upd.foldl
    | with_reducible apply UpdS.foldl
    | ((with_reducible apply UpdS.snd); with_reducible apply UpdS.foldl)
    | ((with_reducible apply Upd.go (wr_upd _ _ _ _)); rotate_left; exact rfl)
    | ((with_reducible apply Upd.go (settleFlights_upd _)); rotate_left; exact rfl)
    | ((with_reducible apply Upd.go (abortUnit_upd _ _ _ _)); rotate_left; exact rfl)
    | with_reducible apply UpdS.mk
    | dsimp only

theorem execAbGo_upd (stack : Nat) (s : State) : UpdR abGo_parts s (execAbGo stack s) := by
  unfold execAbGo
  repeat' first
    | intro _
    | with_reducible assumption
    | with_reducible exact Upd.refl _
    | with_reducible apply UpdR.next
    | with_reducible apply hostWrites_upd
    | ((with_reducible apply Upd.go (abGo_upd _ _)); rotate_left; exact rfl)

theorem mapWrite_upd (d : Nat) (bmp : Bool) (v : Nat) (s : State) : Upd [.regLock, .regMcs] s (mapWrite d bmp v s) := by
  have hf : within [(if bmp then Fld.mcsBmpMap else .mcsLinMap).part] [.regLock, .regMcs] = true := by cases bmp <;> rfl
  unfold mapWrite
  extract_lets p f old v r t
  have ht : Upd [.regLock, .regMcs] s t := Upd.go (wr_upd _ _ _ _) (Upd.refl s) rfl
  refine Upd.ite (fun _ => Upd.go (wr_upd _ _ _ _) (Upd.refl s) rfl) fun _ => ?_
  refine Upd.ite (fun _ => Upd.go (wr_upd _ _ _ _) (Upd.refl s) rfl) fun _ => ?_
  exact Upd.ite (fun _ => Upd.go (wr_upd _ _ _ _) ht hf) fun _ => ht

theorem mapHalf_upd (d : Nat) (bmp : Bool) (half : Nat) (v : Nat) (s : State) : Upd [.regLock, .regMcs] s (mapHalf d bmp half v s) := by
  unfold mapHalf
  repeat' first
    | intro _
    | with_reducible assumption
    | with_reducible exact Upd.refl _
    | with_reducible apply Upd.ite <;> intro _
    | ((with_reducible apply Upd.go (mapWrite_upd _ _ _ _)); rotate_left; exact rfl)

theorem mapWords_upd (d : Nat) (bmp : Bool) (half : Nat) (v : Nat) (s : State) : Upd [.regLock, .regMcs] s (mapWords d bmp half v s) :=
    by
  unfold mapWords
  repeat' first
    | intro _
    | with_reducible assumption
    | with_reducible exact Upd.refl _
    | with_reducible apply Upd.ite <;> intro _
    | ((with_reducible apply Upd.go (mapHalf_upd _ _ _ _ _)); rotate_left; exact rfl)

theorem execLinMapWrite_upd (stack : Nat) (half : Nat) (value : Nat) (s : State) : UpdR [.regLock, .regMcs] s (execLinMapWrite stack half
    value s) := by
  unfold execLinMapWrite
  repeat' first
    | intro _
    | with_reducible assumption
    | with_reducible exact Upd.refl _
    | with_reducible apply UpdR.next
    | with_reducible apply hostWrites_upd
    | ((with_reducible apply Upd.go (mapWords_upd _ _ _ _ _)); rotate_left; exact rfl)

theorem execBmpMapWrite_upd (stack : Nat) (half : Nat) (value : Nat) (s : State) : UpdR [.regLock, .regMcs] s (execBmpMapWrite stack half
    value s) := by
  unfold execBmpMapWrite
  repeat' first
    | intro _
    | with_reducible assumption
    | with_reducible exact Upd.refl _
    | with_reducible apply UpdR.next
    | with_reducible apply hostWrites_upd
    | ((with_reducible apply Upd.go (mapWords_upd _ _ _ _ _)); rotate_left; exact rfl)

end Sys2Proof.Machine
end

