-- ==== Sys2Proof/Laws/UpdSessions.lean ====
section
/-!
SUPPORT. What each operation of Machine/Sessions can change, and that it keeps the canonical form.
-/

namespace Sys2Proof.Machine

set_option maxRecDepth 4000
set_option linter.all false

theorem doorbellDiscard_upd (s : State) : Upd [.outbox, .regIrq, .regHif] s (doorbellDiscard s) := by
  unfold doorbellDiscard
  repeat' first
    | intro _
    | with_reducible assumption
    | with_reducible exact Upd.refl _
    | ((with_reducible apply Upd.go (count_upd _ _ _ _)); rotate_left; exact rfl)
    | ((with_reducible apply Upd.go (raise_upd _ _ _)); rotate_left; exact rfl)

theorem execSqTail_upd (sess : Nat) (value : Nat) (s : State) : UpdR [.outbox, .regIrq, .regHif, .sess] s (execSqTail sess value s) := by
  unfold execSqTail
  repeat' first
    | intro _
    | with_reducible assumption
    | with_reducible exact Upd.refl _
    | (extract_lets -underBinder +onlyGivenNames x; (with_reducible refine UpdR.cut x ?_ ?_); rotate_left; (clear_value x; revert x; intro _ _); rotate_right; subst x)
    | (extract_lets -underBinder +onlyGivenNames x; (with_reducible refine Upd.cut x ?_ ?_); rotate_left; (clear_value x; revert x; intro _ _); rotate_right; subst x)
    | (extract_lets -underBinder +onlyGivenNames x; clear_value x; revert x; intro _)
    | with_reducible apply Upd.ite <;> intro _
    | with_reducible apply UpdR.ite <;> intro _
    | with_reducible apply UpdR.next
    | ((with_reducible apply Upd.go (putSess_upd _ _ _)); rotate_left; exact rfl)
    | ((with_reducible apply Upd.go (doorbellDiscard_upd _)); rotate_left; exact rfl)
    | split

theorem execCqHead_upd (sess : Nat) (value : Nat) (s : State) : UpdR [.outbox, .regIrq, .regHif, .sess] s (execCqHead sess value s) := by
  unfold execCqHead
  repeat' first
    | intro _
    | with_reducible assumption
    | with_reducible exact Upd.refl _
    | (extract_lets -underBinder +onlyGivenNames x; (with_reducible refine UpdR.cut x ?_ ?_); rotate_left; (clear_value x; revert x; intro _ _); rotate_right; subst x)
    | (extract_lets -underBinder +onlyGivenNames x; (with_reducible refine Upd.cut x ?_ ?_); rotate_left; (clear_value x; revert x; intro _ _); rotate_right; subst x)
    | (extract_lets -underBinder +onlyGivenNames x; clear_value x; revert x; intro _)
    | with_reducible apply Upd.ite <;> intro _
    | with_reducible apply UpdR.ite <;> intro _
    | with_reducible apply UpdR.next
    | ((with_reducible apply Upd.go (putSess_upd _ _ _)); rotate_left; exact rfl)
    | ((with_reducible apply Upd.go (doorbellDiscard_upd _)); rotate_left; exact rfl)
    | split

theorem execFenceReq_upd (sess : Nat) (token : Nat) (s : State) : UpdR [.outbox, .regIrq, .regHif, .sess] s (execFenceReq sess token s) :=
    by
  unfold execFenceReq
  repeat' first
    | intro _
    | with_reducible assumption
    | with_reducible exact Upd.refl _
    | (extract_lets -underBinder +onlyGivenNames x; (with_reducible refine UpdR.cut x ?_ ?_); rotate_left; (clear_value x; revert x; intro _ _); rotate_right; subst x)
    | (extract_lets -underBinder +onlyGivenNames x; (with_reducible refine Upd.cut x ?_ ?_); rotate_left; (clear_value x; revert x; intro _ _); rotate_right; subst x)
    | (extract_lets -underBinder +onlyGivenNames x; clear_value x; revert x; intro _)
    | with_reducible apply Upd.ite <;> intro _
    | with_reducible apply UpdR.ite <;> intro _
    | with_reducible apply UpdR.next
    | ((with_reducible apply Upd.go (putSess_upd _ _ _)); rotate_left; exact rfl)
    | ((with_reducible apply Upd.go (doorbellDiscard_upd _)); rotate_left; exact rfl)

theorem execMemFenceDone_upd (sess : Nat) (s : State) : UpdR [.sess] s (execMemFenceDone sess s) := by
  unfold execMemFenceDone
  repeat' first
    | intro _
    | with_reducible assumption
    | with_reducible exact Upd.refl _
    | (extract_lets -underBinder +onlyGivenNames x; (with_reducible refine UpdR.cut x ?_ ?_); rotate_left; (clear_value x; revert x; intro _ _); rotate_right; subst x)
    | (extract_lets -underBinder +onlyGivenNames x; (with_reducible refine Upd.cut x ?_ ?_); rotate_left; (clear_value x; revert x; intro _ _); rotate_right; subst x)
    | (extract_lets -underBinder +onlyGivenNames x; clear_value x; revert x; intro _)
    | with_reducible apply Upd.ite <;> intro _
    | with_reducible apply UpdR.ite <;> intro _
    | with_reducible apply UpdR.next
    | with_reducible apply Upd.getD
    | ((with_reducible apply Upd.go (putSess_upd _ _ _)); rotate_left; exact rfl)
    | split

theorem hsig_upd (x : Nat) (i : Nat) (v : Bool) (s : State) : Upd [.outbox, .regIrq, .regErr, .regLdg, .regMcs, .regFlt, .regHif, .ldgSeq,
    .ldgLost, .serais, .dram, .dramChk, .chans, .units, .snoop, .biWait, .servedBytes] s (hsig x i v s) := by
  unfold hsig
  repeat' first
    | intro _
    | with_reducible assumption
    | with_reducible exact Upd.refl _
    | (extract_lets -underBinder +onlyGivenNames x; (with_reducible refine Upd.cut x ?_ ?_); rotate_left; (clear_value x; revert x; intro _ _); rotate_right; subst x)
    | (extract_lets -underBinder +onlyGivenNames x; clear_value x; revert x; intro _)
    | with_reducible apply Upd.ite <;> intro _
    | ((with_reducible apply Upd.go (ledger_upd _ _ _ _)); rotate_left; exact rfl)
    | ((with_reducible apply Upd.go (putFlag_upd _ _ _ _)); rotate_left; exact rfl)
    | ((with_reducible apply Upd.go (doorbellDiscard_upd _)); rotate_left; exact rfl)
    | split

theorem execHsigSet_upd (sess : Nat) (idx : Nat) (s : State) : UpdR [.outbox, .regIrq, .regErr, .regLdg, .regMcs, .regFlt, .regHif,
    .ldgSeq, .ldgLost, .serais, .dram, .dramChk, .chans, .units, .snoop, .biWait, .servedBytes] s (execHsigSet sess idx s) := by
  unfold execHsigSet
  repeat' first
    | intro _
    | with_reducible assumption
    | with_reducible exact Upd.refl _
    | with_reducible apply UpdR.next
    | ((with_reducible apply Upd.go (hsig_upd _ _ _ _)); rotate_left; exact rfl)

theorem execHsigClear_upd (sess : Nat) (idx : Nat) (s : State) : UpdR [.outbox, .regIrq, .regErr, .regLdg, .regMcs, .regFlt, .regHif,
    .ldgSeq, .ldgLost, .serais, .dram, .dramChk, .chans, .units, .snoop, .biWait, .servedBytes] s (execHsigClear sess idx s) := by
  unfold execHsigClear
  repeat' first
    | intro _
    | with_reducible assumption
    | with_reducible exact Upd.refl _
    | with_reducible apply UpdR.next
    | ((with_reducible apply Upd.go (hsig_upd _ _ _ _)); rotate_left; exact rfl)

theorem entryDone_upd (x : Nat) (e : List Byte) (r : CmdRecord) (s : State) : Upd [.outbox, .regRng, .sess] s (entryDone x e r s) := by
  unfold entryDone
  repeat' first
    | intro _
    | with_reducible assumption
    | with_reducible exact Upd.refl _
    | (extract_lets -underBinder +onlyGivenNames x; (with_reducible refine Upd.cut x ?_ ?_); rotate_left; (clear_value x; revert x; intro _ _); rotate_right; subst x)
    | (extract_lets -underBinder +onlyGivenNames x; clear_value x; revert x; intro _)
    | ((with_reducible apply Upd.go (cmdComplete_upd _ _ _ _)); rotate_left; exact rfl)

theorem badCommand_upd (x : Nat) (e : List Byte) (off : Nat) (s : State) : Upd [.outbox, .regRng, .sess] s (badCommand x e off s) := by
  unfold badCommand
  repeat' first
    | intro _
    | with_reducible assumption
    | with_reducible exact Upd.refl _
    | ((with_reducible apply Upd.go (entryDone_upd _ _ _ _)); rotate_left; exact rfl)

theorem execSqFetch_upd (sess : Nat) (entry : List Byte) (poison : Bool) (s : State) : UpdR [.outbox, .freeCtr, .regIrq, .regErr, .regFlt,
    .regRng, .sess] s (execSqFetch sess entry poison s) := by
  unfold execSqFetch
  repeat' first
    | intro _
    | with_reducible assumption
    | with_reducible exact Upd.refl _
    | (extract_lets -underBinder +onlyGivenNames x; (with_reducible refine UpdR.cut x ?_ ?_); rotate_left; (clear_value x; revert x; intro _ _); rotate_right; subst x)
    | (extract_lets -underBinder +onlyGivenNames x; (with_reducible refine Upd.cut x ?_ ?_); rotate_left; (clear_value x; revert x; intro _ _); rotate_right; subst x)
    | (extract_lets -underBinder +onlyGivenNames x; clear_value x; revert x; intro _)
    | with_reducible apply Upd.ite <;> intro _
    | with_reducible apply UpdR.ite <;> intro _
    | with_reducible apply UpdR.next
    | ((with_reducible apply Upd.go (wri_upd _ _ _ _ _)); rotate_left; exact rfl)
    | ((with_reducible apply Upd.go (freshNext_upd _)); rotate_left; exact rfl)
    | ((with_reducible apply Upd.go (emit_upd _ _)); rotate_left; exact rfl)
    | ((with_reducible apply Upd.go (logErr_upd _ _ _ _ _)); rotate_left; exact rfl)
    | ((with_reducible apply Upd.go (putSess_upd _ _ _)); rotate_left; exact rfl)
    | ((with_reducible apply Upd.go (cqReserve_upd _ _)); rotate_left; exact rfl)
    | ((with_reducible apply Upd.go (cmdComplete_upd _ _ _ _)); rotate_left; exact rfl)
    | ((with_reducible apply Upd.go (badCommand_upd _ _ _ _)); rotate_left; exact rfl)
    | split

theorem takeEntry_upd (x : Nat) (s : State) : Upd [.sess] s (takeEntry x s) := by
  unfold takeEntry
  repeat' first
    | intro _
    | with_reducible assumption
    | with_reducible exact Upd.refl _
    | (extract_lets -underBinder +onlyGivenNames x; (with_reducible refine Upd.cut x ?_ ?_); rotate_left; (clear_value x; revert x; intro _ _); rotate_right; subst x)
    | (extract_lets -underBinder +onlyGivenNames x; clear_value x; revert x; intro _)
    | ((with_reducible apply Upd.go (putSess_upd _ _ _)); rotate_left; exact rfl)

theorem execSqNop_upd (sess : Nat) (s : State) : UpdR [.outbox, .regRng, .sess] s (execSqNop sess s) := by
  unfold execSqNop
  repeat' first
    | intro _
    | with_reducible assumption
    | with_reducible exact Upd.refl _
    | (extract_lets -underBinder +onlyGivenNames x; (with_reducible refine UpdR.cut x ?_ ?_); rotate_left; (clear_value x; revert x; intro _ _); rotate_right; subst x)
    | (extract_lets -underBinder +onlyGivenNames x; (with_reducible refine Upd.cut x ?_ ?_); rotate_left; (clear_value x; revert x; intro _ _); rotate_right; subst x)
    | (extract_lets -underBinder +onlyGivenNames x; clear_value x; revert x; intro _)
    | with_reducible apply UpdR.next
    | ((with_reducible apply Upd.go (entryDone_upd _ _ _ _)); rotate_left; exact rfl)
    | ((with_reducible apply Upd.go (takeEntry_upd _ _)); rotate_left; exact rfl)
    | split

theorem execSqLoad_upd (sess : Nat) (s : State) : UpdR [.outbox, .freeCtr, .regIrq, .regErr, .regLdg, .regBku, .regMcs, .regFlt, .regRng,
    .ldgSeq, .ldgLost, .loadQ, .sess, .dram, .dramChk, .chans, .units, .flights, .snoop, .biWait, .ceWins, .servedBytes] s (execSqLoad
    sess s) := by
  unfold execSqLoad
  repeat' first
    | intro _
    | with_reducible assumption
    | with_reducible exact Upd.refl _
    | (extract_lets -underBinder +onlyGivenNames x; (with_reducible refine UpdR.cut x ?_ ?_); rotate_left; (clear_value x; revert x; intro _ _); rotate_right; subst x)
    | (extract_lets -underBinder +onlyGivenNames x; (with_reducible refine Upd.cut x ?_ ?_); rotate_left; (clear_value x; revert x; intro _ _); rotate_right; subst x)
    | (extract_lets -underBinder +onlyGivenNames x; (with_reducible refine UpdR.cutO x ?_ ?_); rotate_left; (clear_value x; revert x; intro _ _); rotate_right; subst x)
    | (extract_lets -underBinder +onlyGivenNames x; (with_reducible refine Upd.cutO x ?_ ?_); rotate_left; (clear_value x; revert x; intro _ _); rotate_right; subst x)
    | (extract_lets -underBinder +onlyGivenNames x; clear_value x; revert x; intro _)
    | with_reducible apply Upd.ite <;> intro _
    | with_reducible apply UpdO.ite <;> intro _
    | with_reducible apply UpdR.ite <;> intro _
    | with_reducible apply UpdR.next
    | ((with_reducible apply UpdO.go (reportHeld_upd _ _)); rotate_left; exact rfl)
    | ((with_reducible apply Upd.go (endLoad_upd _ _ _)); rotate_left; exact rfl)
    | ((with_reducible apply Upd.go (takeEntry_upd _ _)); rotate_left; exact rfl)
    | with_reducible exact UpdO.none
    | with_reducible apply UpdO.some
    | ((with_reducible apply UpdO.of_eq); with_reducible assumption)
    | split
    | ((with_reducible apply Upd.set_loadQ); rotate_left; exact rfl)

theorem loadQuery_upd (sess : Nat) (e : List Byte) (s : State) : Upd [.outbox, .freeCtr, .regIrq, .regErr, .regLdg, .regBku, .regMcs,
    .regFlt, .regRng, .ldgSeq, .ldgLost, .sess, .dram, .dramChk, .chans, .units, .flights, .snoop, .biWait, .ceWins, .servedBytes] s
    (loadQuery sess e s) := by
  unfold loadQuery
  repeat' first
    | intro _
    | with_reducible assumption
    | with_reducible exact Upd.refl _
    | (extract_lets -underBinder +onlyGivenNames x; (with_reducible refine Upd.cut x ?_ ?_); rotate_left; (clear_value x; revert x; intro _ _); rotate_right; subst x)
    | (extract_lets -underBinder +onlyGivenNames x; (with_reducible refine Upd.cutO x ?_ ?_); rotate_left; (clear_value x; revert x; intro _ _); rotate_right; subst x)
    | (extract_lets -underBinder +onlyGivenNames x; clear_value x; revert x; intro _)
    | with_reducible apply Upd.ite <;> intro _
    | with_reducible apply UpdO.ite <;> intro _
    | with_reducible apply Upd.elim
    | ((with_reducible apply UpdO.go (spineHeld_upd _ _ _ _)); rotate_left; exact rfl)
    | ((with_reducible apply Upd.go (spineWrite_upd _ _ _)); rotate_left; exact rfl)
    | ((with_reducible apply Upd.go (entryDone_upd _ _ _ _)); rotate_left; exact rfl)
    | ((with_reducible apply Upd.go (badCommand_upd _ _ _ _)); rotate_left; exact rfl)
    | ((with_reducible apply Upd.go (takeEntry_upd _ _)); rotate_left; exact rfl)
    | with_reducible exact UpdO.none
    | with_reducible apply UpdO.some
    | ((with_reducible apply UpdO.of_eq); with_reducible assumption)
    | split

theorem execLoadQuery_upd (sess : Nat) (s : State) : UpdR [.outbox, .freeCtr, .regIrq, .regErr, .regLdg, .regBku, .regMcs, .regFlt,
    .regRng, .ldgSeq, .ldgLost, .sess, .dram, .dramChk, .chans, .units, .flights, .snoop, .biWait, .ceWins, .servedBytes] s (execLoadQuery
    sess s) := by
  unfold execLoadQuery
  repeat' first
    | intro _
    | with_reducible assumption
    | with_reducible exact Upd.refl _
    | (extract_lets -underBinder +onlyGivenNames x; (with_reducible refine UpdR.cut x ?_ ?_); rotate_left; (clear_value x; revert x; intro _ _); rotate_right; subst x)
    | (extract_lets -underBinder +onlyGivenNames x; (with_reducible refine Upd.cut x ?_ ?_); rotate_left; (clear_value x; revert x; intro _ _); rotate_right; subst x)
    | (extract_lets -underBinder +onlyGivenNames x; clear_value x; revert x; intro _)
    | with_reducible apply UpdR.next
    | ((with_reducible apply Upd.go (loadQuery_upd _ _ _)); rotate_left; exact rfl)
    | split

theorem execAbort_upd (sess : Nat) (s : State) : UpdR [.outbox, .regRng, .ctxs, .runs, .spads, .sess, .abortWaits] s (execAbort sess s) :=
    by
  unfold execAbort
  repeat' first
    | intro _
    | with_reducible assumption
    | with_reducible exact Upd.refl _
    | ((with_reducible apply UpdS.snd); with_reducible assumption)
    | (extract_lets -underBinder +onlyGivenNames x; (with_reducible refine UpdR.cut x ?_ ?_); rotate_left; (clear_value x; revert x; intro _ _); rotate_right; subst x)
    | (extract_lets -underBinder +onlyGivenNames x; (with_reducible refine Upd.cut x ?_ ?_); rotate_left; (clear_value x; revert x; intro _ _); rotate_right; subst x)
    | (extract_lets -underBinder +onlyGivenNames x; clear_value x; revert x; intro _)
    | with_reducible apply Upd.ite <;> intro _
    | with_reducible apply UpdR.ite <;> intro _
    | with_reducible apply UpdR.next
    | with_reducible apply Upd.foldl
    | with_reducible apply UpdS.foldl
    | ((with_reducible apply UpdS.snd); with_reducible apply UpdS.foldl)
    | ((with_reducible apply Upd.go (abortRun_upd _ _)); rotate_left; exact rfl)
    | ((with_reducible apply Upd.go (entryDone_upd _ _ _ _)); rotate_left; exact rfl)
    | ((with_reducible apply Upd.go (takeEntry_upd _ _)); rotate_left; exact rfl)
    | with_reducible apply UpdS.mk
    | dsimp only
    | split
    | ((with_reducible apply Upd.set_abortWaits); rotate_left; exact rfl)

theorem sessResult_upd (x : Nat) (r : Nat) (s : State) : Upd [.regSes] s (sessResult x r s) := by
  unfold sessResult
  repeat' first
    | intro _
    | with_reducible assumption
    | with_reducible exact Upd.refl _
    | ((with_reducible apply Upd.go (wri_upd _ _ _ _ _)); rotate_left; exact rfl)

theorem sessOpen_upd (x : Nat) (s : State) : Upd [.regSes, .regRng, .sess] s (sessOpen x s) := by
  unfold sessOpen
  repeat' first
    | intro _
    | with_reducible assumption
    | with_reducible exact Upd.refl _
    | with_reducible apply Upd.ite <;> intro _
    | ((with_reducible apply Upd.go (wri_upd _ _ _ _ _)); rotate_left; exact rfl)
    | ((with_reducible apply Upd.go (putSess_upd _ _ _)); rotate_left; exact rfl)
    | ((with_reducible apply Upd.go (sessResult_upd _ _ _)); rotate_left; exact rfl)

theorem execSessOpen_upd (sess : Nat) (s : State) : UpdR [.regSes, .regRng, .sess] s (execSessOpen sess s) := by
  unfold execSessOpen
  repeat' first
    | intro _
    | with_reducible assumption
    | with_reducible exact Upd.refl _
    | with_reducible apply UpdR.next
    | ((with_reducible apply Upd.go (wri_upd _ _ _ _ _)); rotate_left; exact rfl)
    | ((with_reducible apply Upd.go (sessOpen_upd _ _)); rotate_left; exact rfl)

theorem dropLoads_upd (x : Nat) (s : State) : Upd [.outbox, .freeCtr, .regIrq, .regErr, .regLdg, .regBku, .regMcs, .regFlt, .regRng,
    .ldgSeq, .ldgLost, .loadQ, .sess, .dram, .dramChk, .chans, .units, .flights, .snoop, .biWait, .ceWins, .servedBytes] s (dropLoads x s)
    := by
  unfold dropLoads
  repeat' first
    | intro _
    | with_reducible assumption
    | with_reducible exact Upd.refl _
    | ((with_reducible apply UpdS.snd); with_reducible assumption)
    | (extract_lets -underBinder +onlyGivenNames x; (with_reducible refine Upd.cut x ?_ ?_); rotate_left; (clear_value x; revert x; intro _ _); rotate_right; subst x)
    | (extract_lets -underBinder +onlyGivenNames x; clear_value x; revert x; intro _)
    | with_reducible apply Upd.foldl
    | with_reducible apply UpdS.foldl
    | ((with_reducible apply UpdS.snd); with_reducible apply UpdS.foldl)
    | ((with_reducible apply Upd.go (endLoad_upd _ _ _)); rotate_left; exact rfl)
    | with_reducible apply UpdS.mk
    | dsimp only
    | ((with_reducible apply Upd.set_loadQ); rotate_left; exact rfl)

/-- What `sessClose` may change. -/
def sessClose_parts : List Part :=
  [.outbox, .freeCtr, .regIrq, .regErr, .regLdg, .regBku, .regMcs, .regFlt, .regSes, .regRng, .ldgSeq, .ldgLost, .ctxs, .runs, .spads,
   .loadQ, .sess, .dram, .dramChk, .chans, .units, .flights, .snoop, .biWait, .ceWins, .servedBytes]

theorem sessClose_upd (x : Nat) (s : State) : Upd sessClose_parts s (sessClose x s) := by
  unfold sessClose
  repeat' first
    | intro _
    | with_reducible assumption
    | with_reducible exact Upd.refl _
    | ((with_reducible apply UpdS.snd); with_reducible assumption)
    | (extract_lets -underBinder +onlyGivenNames x; (with_reducible refine Upd.cut x ?_ ?_); rotate_left; (clear_value x; revert x; intro _ _); rotate_right; subst x)
    | (extract_lets -underBinder +onlyGivenNames x; clear_value x; revert x; intro _)
    | with_reducible apply Upd.ite <;> intro _
    | with_reducible apply Upd.foldl
    | with_reducible apply UpdS.foldl
    | ((with_reducible apply UpdS.snd); with_reducible apply UpdS.foldl)
    | with_reducible apply Upd.getD
    | ((with_reducible apply Upd.go (wri_upd _ _ _ _ _)); rotate_left; exact rfl)
    | ((with_reducible apply Upd.go (abortRun_upd _ _)); rotate_left; exact rfl)
    | ((with_reducible apply Upd.go (sessResult_upd _ _ _)); rotate_left; exact rfl)
    | ((with_reducible apply Upd.go (dropLoads_upd _ _)); rotate_left; exact rfl)
    | with_reducible apply UpdS.mk
    | dsimp only

theorem execSessClose_upd (sess : Nat) (s : State) : UpdR sessClose_parts s (execSessClose sess s) := by
  unfold execSessClose
  repeat' first
    | intro _
    | with_reducible assumption
    | with_reducible exact Upd.refl _
    | with_reducible apply UpdR.next
    | ((with_reducible apply Upd.go (wri_upd _ _ _ _ _)); rotate_left; exact rfl)
    | ((with_reducible apply Upd.go (sessClose_upd _ _)); rotate_left; exact rfl)

theorem execSessionClosed_upd (sess : Nat) (s : State) : UpdR [.regSes, .sess] s (execSessionClosed sess s) := by
  unfold execSessionClosed
  repeat' first
    | intro _
    | with_reducible assumption
    | with_reducible exact Upd.refl _
    | with_reducible apply Upd.ite <;> intro _
    | with_reducible apply UpdR.ite <;> intro _
    | with_reducible apply UpdR.next
    | ((with_reducible apply Upd.go (wri_upd _ _ _ _ _)); rotate_left; exact rfl)
    | ((with_reducible apply Upd.go (putSess_upd _ _ _)); rotate_left; exact rfl)
    | ((with_reducible apply Upd.go (sessResult_upd _ _ _)); rotate_left; exact rfl)
    | split

theorem notifyDone_upd (x : Nat) (irq : Bool) (g : Nat) (c : Nat) (k : Nat) (s : State) : Upd [.outbox, .regIrq, .regErr, .regSpd,
    .regFlt, .ctxs, .runs, .engines, .spads, .spad, .spadChk, .ceWins] s (notifyDone x irq g c k s) := by
  unfold notifyDone
  repeat' first
    | intro _
    | with_reducible assumption
    | with_reducible exact Upd.refl _
    | (extract_lets -underBinder +onlyGivenNames x; (with_reducible refine Upd.cut x ?_ ?_); rotate_left; (clear_value x; revert x; intro _ _); rotate_right; subst x)
    | (extract_lets -underBinder +onlyGivenNames x; clear_value x; revert x; intro _)
    | with_reducible apply Upd.ite <;> intro _
    | ((with_reducible apply Upd.go (sendVec_upd _ _)); rotate_left; exact rfl)
    | ((with_reducible apply Upd.go (endWork_upd _ _ _ _ _ _ _ _)); rotate_left; exact rfl)

theorem execGo_upd (sess : Nat) (s : State) : UpdR [.outbox, .regIrq, .regErr, .regSpd, .regFlt, .ctxs, .runs, .engines, .spads, .spad,
    .spadChk, .sess, .ceWins] s (execGo sess s) := by
  unfold execGo
  repeat' first
    | intro _
    | with_reducible assumption
    | with_reducible exact Upd.refl _
    | (extract_lets -underBinder +onlyGivenNames x; (with_reducible refine UpdR.cut x ?_ ?_); rotate_left; (clear_value x; revert x; intro _ _); rotate_right; subst x)
    | (extract_lets -underBinder +onlyGivenNames x; (with_reducible refine Upd.cut x ?_ ?_); rotate_left; (clear_value x; revert x; intro _ _); rotate_right; subst x)
    | (extract_lets -underBinder +onlyGivenNames x; clear_value x; revert x; intro _)
    | with_reducible apply UpdR.next
    | ((with_reducible apply Upd.go (putSess_upd _ _ _)); rotate_left; exact rfl)
    | ((with_reducible apply Upd.go (tailShadow_upd _ _)); rotate_left; exact rfl)
    | ((with_reducible apply Upd.go (notifyDone_upd _ _ _ _ _ _)); rotate_left; exact rfl)
    | split

end Sys2Proof.Machine
end

