-- ==== Sys2Proof/Laws/UpdRuns.lean ====
section
/-!
SUPPORT. What each operation of Machine/Runs can change, and that it keeps the canonical form.
-/

namespace Sys2Proof.Machine

set_option maxRecDepth 4000
set_option linter.all false

theorem placeCtx_upd (r : Nat) (b : RunBlock) (img : List Byte) (p : Nat × Nat × Nat × Nat × Nat) (s : State) : Upd [.ctxs] s (placeCtx r
    b img p s) := by
  unfold placeCtx
  repeat' first
    | intro _
    | with_reducible assumption
    | with_reducible exact Upd.refl _
    | (extract_lets -underBinder +onlyGivenNames x; (with_reducible refine Upd.cut x ?_ ?_); rotate_left; (clear_value x; revert x; intro _ _); rotate_right; subst x)
    | (extract_lets -underBinder +onlyGivenNames x; clear_value x; revert x; intro _)
    | ((with_reducible apply Upd.go (putCtx_upd _ _ _)); rotate_left; exact rfl)

theorem bindSession_upd (snap : Nat) (id : Nat) (s : State) : Upd [.ctxs, .spads] s (bindSession snap id s) := by
  unfold bindSession
  repeat' first
    | intro _
    | with_reducible assumption
    | with_reducible exact Upd.refl _
    | (extract_lets -underBinder +onlyGivenNames x; (with_reducible refine Upd.cut x ?_ ?_); rotate_left; (clear_value x; revert x; intro _ _); rotate_right; subst x)
    | (extract_lets -underBinder +onlyGivenNames x; clear_value x; revert x; intro _)
    | with_reducible apply Upd.ite <;> intro _
    | ((with_reducible apply Upd.go (putCtx_upd _ _ _)); rotate_left; exact rfl)
    | ((with_reducible apply Upd.go (refuseBind_upd _ _ _)); rotate_left; exact rfl)

theorem startRun_upd (x : Nat) (e : List Byte) (b : RunBlock) (img : List Byte) (es : List PlaceEntry) (s : State) : Upd [.outbox,
    .regIrq, .floorAbove, .ctxs, .runs, .nextRun, .pms, .spads] s (startRun x e b img es s) := by
  unfold startRun
  repeat' first
    | intro _
    | with_reducible assumption
    | with_reducible exact Upd.refl _
    | ((with_reducible apply UpdS.snd); with_reducible assumption)
    | (extract_lets -underBinder +onlyGivenNames x; (with_reducible refine Upd.cut x ?_ ?_); rotate_left; (clear_value x; revert x; intro _ _); rotate_right; subst x)
    | (extract_lets -underBinder +onlyGivenNames x; clear_value x; revert x; intro _)
    | with_reducible apply Upd.foldl
    | with_reducible apply UpdS.foldl
    | ((with_reducible apply UpdS.snd); with_reducible apply UpdS.foldl)
    | ((with_reducible apply Upd.go (putRun_upd _ _ _)); rotate_left; exact rfl)
    | ((with_reducible apply Upd.go (putPm_upd _ _ _)); rotate_left; exact rfl)
    | ((with_reducible apply Upd.go (floorCheck_upd _)); rotate_left; exact rfl)
    | ((with_reducible apply Upd.go (placeCtx_upd _ _ _ _ _)); rotate_left; exact rfl)
    | ((with_reducible apply Upd.go (bindSession_upd _ _ _)); rotate_left; exact rfl)
    | with_reducible apply UpdS.mk
    | dsimp only
    | ((with_reducible apply Upd.set_nextRun); rotate_left; exact rfl)

theorem psStart_upd (t : Nat) (s : State) : Upd [.regPwr, .psNext] s (psStart t s) := by
  unfold psStart
  repeat' first
    | intro _
    | with_reducible assumption
    | with_reducible exact Upd.refl _
    | (extract_lets -underBinder +onlyGivenNames x; (with_reducible refine Upd.cut x ?_ ?_); rotate_left; (clear_value x; revert x; intro _ _); rotate_right; subst x)
    | (extract_lets -underBinder +onlyGivenNames x; clear_value x; revert x; intro _)
    | with_reducible apply Upd.ite <;> intro _
    | ((with_reducible apply Upd.go (wr_upd _ _ _ _)); rotate_left; exact rfl)
    | split
    | ((with_reducible apply Upd.set_psNext); rotate_left; exact rfl)

/-- What `runChecked` may change. -/
def runChecked_parts : List Part :=
  [.outbox, .freeCtr, .regIrq, .regErr, .regLdg, .regBku, .regMcs, .regFlt, .regRng, .floorAbove, .ldgSeq, .ldgLost, .ctxs, .runs, .nextRun,
   .pms, .spads, .sess, .dram, .dramChk, .chans, .units, .flights, .snoop, .biWait, .ceWins, .servedBytes]

theorem runChecked_upd (x : Nat) (e : List Byte) (b : RunBlock) (s : State) : Upd runChecked_parts s (runChecked x e b s) := by
  unfold runChecked
  repeat' first
    | intro _
    | with_reducible assumption
    | with_reducible exact Upd.refl _
    | ((with_reducible apply UpdS.snd); with_reducible assumption)
    | (extract_lets -underBinder +onlyGivenNames x; (with_reducible refine Upd.cut x ?_ ?_); rotate_left; (clear_value x; revert x; intro _ _); rotate_right; subst x)
    | (extract_lets -underBinder +onlyGivenNames x; (with_reducible refine Upd.cutSnd x ?_ ?_); rotate_left; (clear_value x; revert x; intro _ _); rotate_right; subst x)
    | (extract_lets -underBinder +onlyGivenNames x; clear_value x; revert x; intro _)
    | with_reducible apply Upd.ite <;> intro _
    | with_reducible apply UpdS.ite <;> intro _
    | with_reducible apply Upd.getD
    | ((with_reducible apply Upd.goS (spineRead_upd _ _ _)); rotate_left; exact rfl)
    | ((with_reducible apply UpdS.go (spineRead_upd _ _ _)); rotate_left; exact rfl)
    | ((with_reducible apply Upd.go (abortRun_upd _ _)); rotate_left; exact rfl)
    | ((with_reducible apply Upd.go (entryDone_upd _ _ _ _)); rotate_left; exact rfl)
    | ((with_reducible apply Upd.go (badCommand_upd _ _ _ _)); rotate_left; exact rfl)
    | ((with_reducible apply Upd.go (startRun_upd _ _ _ _ _ _)); rotate_left; exact rfl)
    | with_reducible apply UpdS.mk
    | ((with_reducible apply UpdS.of_eq); with_reducible assumption)
    | split

theorem runBlockRead_upd {m : List Part} {o s : State} {x : Nat} {e : List Byte} {a : Nat} {r : Option (List (Byte × Bool)) × State}
    (h : Upd m o s) (hr : UpdS m o r)
    (hm : within runChecked_parts m = true) : Upd m o (runBlockRead x e a s r) := by
  unfold runBlockRead
  split
  · exact Upd.go (badCommand_upd _ _ _ _) (Upd.go (takeEntry_upd _ _) hr.snd (within_trans rfl hm)) (within_trans rfl hm)
  · exact Upd.go (badCommand_upd _ _ _ _) (Upd.go (logErr_upd _ _ _ _ _) (Upd.go (takeEntry_upd _ _) hr.snd (within_trans rfl hm))
      (within_trans rfl hm)) (within_trans rfl hm)
  · extract_lets vc go
    have hgo : Upd m o go := Upd.go (runChecked_upd _ _ _ _) (Upd.go (takeEntry_upd _ _) hr.snd (within_trans rfl hm)) (within_trans rfl hm)
    exact Upd.ite (fun _ => Upd.getD (UpdO.go (spineHeld_upd _ _ _ _) h (within_trans rfl hm)) hgo) fun _ => hgo

/-- What `runCommand` may change. -/
def runCommand_parts : List Part :=
  [.outbox, .freeCtr, .regIrq, .regErr, .regLdg, .regBku, .regMcs, .regFlt, .regRng, .regPwr, .floorAbove, .ldgSeq, .ldgLost, .ctxs, .runs,
   .nextRun, .pms, .spads, .sess, .dram, .dramChk, .chans, .units, .flights, .snoop, .biWait, .ceWins, .servedBytes, .psNext]

theorem runCommand_upd (x : Nat) (e : List Byte) (s : State) : Upd runCommand_parts s (runCommand x e s) := by
  unfold runCommand
  repeat' first
    | intro _
    | with_reducible assumption
    | with_reducible exact Upd.refl _
    | ((with_reducible apply UpdS.snd); with_reducible assumption)
    | (extract_lets -underBinder +onlyGivenNames x; (with_reducible refine Upd.cut x ?_ ?_); rotate_left; (clear_value x; revert x; intro _ _); rotate_right; subst x)
    | (extract_lets -underBinder +onlyGivenNames x; (with_reducible refine Upd.cutSnd x ?_ ?_); rotate_left; (clear_value x; revert x; intro _ _); rotate_right; subst x)
    | (extract_lets -underBinder +onlyGivenNames x; (with_reducible refine Upd.cutO x ?_ ?_); rotate_left; (clear_value x; revert x; intro _ _); rotate_right; subst x)
    | (extract_lets -underBinder +onlyGivenNames x; clear_value x; revert x; intro _)
    | with_reducible apply Upd.ite <;> intro _
    | with_reducible apply UpdO.ite <;> intro _
    | with_reducible apply UpdS.ite <;> intro _
    | with_reducible apply UpdO.orElse
    | with_reducible apply Upd.getD
    | ((with_reducible apply Upd.goS (spineRead_upd _ _ _)); rotate_left; exact rfl)
    | ((with_reducible apply UpdS.go (spineRead_upd _ _ _)); rotate_left; exact rfl)
    | ((with_reducible apply UpdO.go (spineHeld_upd _ _ _ _)); rotate_left; exact rfl)
    | ((with_reducible apply Upd.go (entryDone_upd _ _ _ _)); rotate_left; exact rfl)
    | ((with_reducible apply Upd.go (takeEntry_upd _ _)); rotate_left; exact rfl)
    | ((with_reducible apply Upd.go (psStart_upd _ _)); rotate_left; exact rfl)
    | ((with_reducible apply runBlockRead_upd); rotate_left; rotate_left; exact rfl)
    | with_reducible apply UpdS.mk
    | with_reducible exact UpdO.none
    | with_reducible apply UpdO.some
    | split

theorem execRun_upd (sess : Nat) (s : State) : UpdR runCommand_parts s (execRun sess s) := by
  unfold execRun
  repeat' first
    | intro _
    | with_reducible assumption
    | with_reducible exact Upd.refl _
    | (extract_lets -underBinder +onlyGivenNames x; (with_reducible refine UpdR.cut x ?_ ?_); rotate_left; (clear_value x; revert x; intro _ _); rotate_right; subst x)
    | (extract_lets -underBinder +onlyGivenNames x; (with_reducible refine Upd.cut x ?_ ?_); rotate_left; (clear_value x; revert x; intro _ _); rotate_right; subst x)
    | (extract_lets -underBinder +onlyGivenNames x; clear_value x; revert x; intro _)
    | with_reducible apply UpdR.next
    | ((with_reducible apply Upd.go (runCommand_upd _ _ _)); rotate_left; exact rfl)
    | split

theorem dropPins_upd (id : Nat) (s : State) : Upd [.drovers] s (dropPins id s) := by
  unfold dropPins
  repeat' first
    | intro _
    | with_reducible assumption
    | with_reducible exact Upd.refl _
    | (extract_lets -underBinder +onlyGivenNames x; (with_reducible refine Upd.cut x ?_ ?_); rotate_left; (clear_value x; revert x; intro _ _); rotate_right; subst x)
    | (extract_lets -underBinder +onlyGivenNames x; clear_value x; revert x; intro _)
    | ((with_reducible apply Upd.go (putDrover_upd _ _ _)); rotate_left; exact rfl)

theorem freeCtx_upd (id : Nat) (s : State) : Upd [.ctxs, .drovers] s (freeCtx id s) := by
  unfold freeCtx
  repeat' first
    | intro _
    | with_reducible assumption
    | with_reducible exact Upd.refl _
    | ((with_reducible apply Upd.go (putCtx_upd _ _ _)); rotate_left; exact rfl)
    | ((with_reducible apply Upd.go (dropPins_upd _ _)); rotate_left; exact rfl)

theorem abortHears_upd (r : Nat) (s : State) : Upd [.outbox, .regRng, .runs, .sess, .abortWaits] s (abortHears r s) := by
  unfold abortHears
  repeat' first
    | intro _
    | with_reducible assumption
    | with_reducible exact Upd.refl _
    | ((with_reducible apply UpdS.snd); with_reducible assumption)
    | (extract_lets -underBinder +onlyGivenNames x; (with_reducible refine Upd.cut x ?_ ?_); rotate_left; (clear_value x; revert x; intro _ _); rotate_right; subst x)
    | (extract_lets -underBinder +onlyGivenNames x; clear_value x; revert x; intro _)
    | with_reducible apply Upd.ite <;> intro _
    | with_reducible apply Upd.foldl
    | with_reducible apply UpdS.foldl
    | ((with_reducible apply UpdS.snd); with_reducible apply UpdS.foldl)
    | ((with_reducible apply Upd.go (cmdComplete_upd _ _ _ _)); rotate_left; exact rfl)
    | with_reducible apply UpdS.mk
    | dsimp only
    | with_reducible apply SMap.wf_set
    | with_reducible apply SMap.wf_mapv
    | with_reducible apply SMap.wf_filter
    | with_reducible exact SMap.wf_nil
    | (first | with_reducible exact State.Ok.runs (by assumption))
    | ((with_reducible apply Upd.set_abortWaits); rotate_left; exact rfl)
    | ((with_reducible apply Upd.set_runs); rotate_left; exact rfl)

theorem slotQuiet_upd (k : Nat) (s : State) : Upd [.pms] s (slotQuiet k s) := by
  unfold slotQuiet
  repeat' first
    | intro _
    | with_reducible assumption
    | with_reducible exact Upd.refl _
    | (extract_lets -underBinder +onlyGivenNames x; (with_reducible refine Upd.cut x ?_ ?_); rotate_left; (clear_value x; revert x; intro _ _); rotate_right; subst x)
    | (extract_lets -underBinder +onlyGivenNames x; clear_value x; revert x; intro _)
    | with_reducible apply Upd.ite <;> intro _
    | ((with_reducible apply Upd.go (putPm_upd _ _ _)); rotate_left; exact rfl)

/-- What `endRun` may change. -/
def endRun_parts : List Part :=
  [.outbox, .regCtl, .regIrq, .regLock, .regSet, .regErr, .regMs, .regEpo, .regLdg, .regSerai, .regEng, .regSpd, .regTmv, .regBkc, .regBku,
   .regMcs, .regDrv, .regBlk, .regRcv, .regFlt, .regEvl, .regOpt, .regBay, .regSes, .regRng, .regHif, .regSec, .regPwr, .regThm, .regClk,
   .regMgt, .staging, .prevSet, .vslots, .floorAbove, .ldgSeq, .ldgLost, .runs, .pms, .sess, .abortWaits, .dram, .dramChk, .chans, .units,
   .snoop, .biWait, .drovers, .servedBytes, .fwSlots]

theorem endRun_upd (n : Nat) (r : Run) (refused : Bool) (s : State) : Upd endRun_parts s (endRun n r refused s) := by
  unfold endRun
  repeat' first
    | intro _
    | with_reducible assumption
    | with_reducible exact Upd.refl _
    | ((with_reducible apply UpdS.snd); with_reducible assumption)
    | (extract_lets -underBinder +onlyGivenNames x; (with_reducible refine Upd.cut x ?_ ?_); rotate_left; (clear_value x; revert x; intro _ _); rotate_right; subst x)
    | (extract_lets -underBinder +onlyGivenNames x; clear_value x; revert x; intro _)
    | with_reducible apply Upd.foldl
    | with_reducible apply UpdS.foldl
    | ((with_reducible apply UpdS.snd); with_reducible apply UpdS.foldl)
    | ((with_reducible apply Upd.go (putRun_upd _ _ _)); rotate_left; exact rfl)
    | ((with_reducible apply Upd.go (epochSettle_upd _)); rotate_left; exact rfl)
    | ((with_reducible apply Upd.go (cmdComplete_upd _ _ _ _)); rotate_left; exact rfl)
    | ((with_reducible apply Upd.go (abortHears_upd _ _)); rotate_left; exact rfl)
    | ((with_reducible apply Upd.go (slotQuiet_upd _ _)); rotate_left; exact rfl)
    | with_reducible apply UpdS.mk
    | dsimp only

/-- What `runComplete` may change. -/
def runComplete_parts : List Part :=
  [.outbox, .regCtl, .regIrq, .regLock, .regSet, .regErr, .regMs, .regEpo, .regLdg, .regSerai, .regEng, .regSpd, .regTmv, .regBkc, .regBku,
   .regMcs, .regDrv, .regBlk, .regRcv, .regFlt, .regEvl, .regOpt, .regBay, .regSes, .regRng, .regHif, .regSec, .regPwr, .regThm, .regClk,
   .regMgt, .staging, .prevSet, .vslots, .floorAbove, .ldgSeq, .ldgLost, .ctxs, .runs, .pms, .sess, .abortWaits, .dram, .dramChk, .chans,
   .units, .snoop, .biWait, .drovers, .servedBytes, .fwSlots]

theorem runComplete_upd (n : Nat) (s : State) : Upd runComplete_parts s (runComplete n s) := by
  unfold runComplete
  repeat' first
    | intro _
    | with_reducible assumption
    | with_reducible exact Upd.refl _
    | ((with_reducible apply UpdS.snd); with_reducible assumption)
    | (extract_lets -underBinder +onlyGivenNames x; (with_reducible refine Upd.cut x ?_ ?_); rotate_left; (clear_value x; revert x; intro _ _); rotate_right; subst x)
    | (extract_lets -underBinder +onlyGivenNames x; (with_reducible refine isFn x ?_); subst x)
    | (extract_lets -underBinder +onlyGivenNames x; clear_value x; revert x; intro _)
    | with_reducible apply Upd.ite <;> intro _
    | with_reducible apply Upd.foldl
    | with_reducible apply UpdS.foldl
    | ((with_reducible apply UpdS.snd); with_reducible apply UpdS.foldl)
    | ((with_reducible apply Upd.go (epochSettle_upd _)); rotate_left; exact rfl)
    | ((with_reducible apply Upd.go (freeCtx_upd _ _)); rotate_left; exact rfl)
    | ((with_reducible apply Upd.go (endRun_upd _ _ _ _)); rotate_left; exact rfl)
    | with_reducible apply UpdS.mk
    | dsimp only
    | split

theorem execRunComplete_upd (run : Nat) (s : State) : UpdR runComplete_parts s (execRunComplete run s) := by
  unfold execRunComplete
  repeat' first
    | intro _
    | with_reducible assumption
    | with_reducible exact Upd.refl _
    | with_reducible apply UpdR.next
    | ((with_reducible apply Upd.go (runComplete_upd _ _)); rotate_left; exact rfl)

end Sys2Proof.Machine
end

