-- ==== Sys2Proof/Laws/UpdSpadCmds.lean ====
section
/-!
SUPPORT. What each operation of Machine/SpadCmds can change, and that it keeps the canonical form.
-/

namespace Sys2Proof.Machine

set_option maxRecDepth 4000
set_option linter.all false

theorem execNarrowWriteback_upd (core : Nat) (line : Nat) (s : State) : UpdR [.outbox, .regIrq, .regErr, .regSpd, .regFlt, .spads, .spad,
    .spadChk, .ceWins] s (execNarrowWriteback core line s) := by
  unfold execNarrowWriteback
  repeat' first
    | intro _
    | with_reducible assumption
    | with_reducible exact Upd.refl _
    | with_reducible apply Upd.ite <;> intro _
    | with_reducible apply UpdR.ite <;> intro _
    | with_reducible apply UpdR.next
    | ((with_reducible apply Upd.go (bufBack_upd _ _ _)); rotate_left; exact rfl)

theorem execSpadPoisonMark_upd (core : Nat) (s : State) : UpdR [.spads, .spadChk] s (execSpadPoisonMark core s) := by
  unfold execSpadPoisonMark
  repeat' first
    | intro _
    | with_reducible assumption
    | with_reducible exact Upd.refl _
    | (extract_lets -underBinder +onlyGivenNames x; (with_reducible refine UpdR.cut x ?_ ?_); rotate_left; (clear_value x; revert x; intro _ _); rotate_right; subst x)
    | (extract_lets -underBinder +onlyGivenNames x; (with_reducible refine Upd.cut x ?_ ?_); rotate_left; (clear_value x; revert x; intro _ _); rotate_right; subst x)
    | (extract_lets -underBinder +onlyGivenNames x; clear_value x; revert x; intro _)
    | with_reducible apply UpdR.next
    | ((with_reducible apply Upd.go (putSpad_upd _ _ _)); rotate_left; exact rfl)
    | ((with_reducible apply Upd.go (poisonWord_upd _ _ _)); rotate_left; exact rfl)
    | split

theorem scrubWord_upd (g : Nat) (w : Nat) (s : State) : Upd [.outbox, .regIrq, .regErr, .regFlt, .spads, .spad, .spadChk, .ceWins] s
    (scrubWord g w s) := by
  unfold scrubWord
  repeat' first
    | intro _
    | with_reducible assumption
    | with_reducible exact Upd.refl _
    | (extract_lets -underBinder +onlyGivenNames x; (with_reducible refine Upd.cut x ?_ ?_); rotate_left; (clear_value x; revert x; intro _ _); rotate_right; subst x)
    | (extract_lets -underBinder +onlyGivenNames x; clear_value x; revert x; intro _)
    | ((with_reducible apply Upd.go (counti_upd _ _ _ _ _)); rotate_left; exact rfl)
    | ((with_reducible apply Upd.go (sealWord_upd _ _ _ _)); rotate_left; exact rfl)
    | ((with_reducible apply Upd.go (ceWindow_upd _ _)); rotate_left; exact rfl)
    | ((with_reducible apply Upd.go (spadUe_upd _ _ _)); rotate_left; exact rfl)
    | split

theorem execScratchpadScrub_upd (core : Nat) (s : State) : UpdR [.outbox, .regIrq, .regErr, .regSpd, .regFlt, .spads, .spad, .spadChk,
    .ceWins] s (execScratchpadScrub core s) := by
  unfold execScratchpadScrub
  repeat' first
    | intro _
    | with_reducible assumption
    | with_reducible exact Upd.refl _
    | (extract_lets -underBinder +onlyGivenNames x; (with_reducible refine UpdR.cut x ?_ ?_); rotate_left; (clear_value x; revert x; intro _ _); rotate_right; subst x)
    | (extract_lets -underBinder +onlyGivenNames x; (with_reducible refine Upd.cut x ?_ ?_); rotate_left; (clear_value x; revert x; intro _ _); rotate_right; subst x)
    | (extract_lets -underBinder +onlyGivenNames x; clear_value x; revert x; intro _)
    | with_reducible apply Upd.ite <;> intro _
    | with_reducible apply UpdR.ite <;> intro _
    | with_reducible apply UpdR.next
    | with_reducible apply Upd.forUpto
    | ((with_reducible apply Upd.go (counti_upd _ _ _ _ _)); rotate_left; exact rfl)
    | ((with_reducible apply Upd.go (count_upd _ _ _ _)); rotate_left; exact rfl)
    | ((with_reducible apply Upd.go (putSpad_upd _ _ _)); rotate_left; exact rfl)
    | ((with_reducible apply Upd.go (scrubWord_upd _ _ _)); rotate_left; exact rfl)

theorem noteHazard_upd (g : Nat) (w : Nat) (s : State) : Upd [.outbox, .regIrq, .regSpd] s (noteHazard g w s) := by
  unfold noteHazard
  repeat' first
    | intro _
    | with_reducible assumption
    | with_reducible exact Upd.refl _
    | with_reducible apply Upd.ite <;> intro _
    | ((with_reducible apply Upd.go (count_upd _ _ _ _)); rotate_left; exact rfl)
    | ((with_reducible apply Upd.go (raise_upd _ _ _)); rotate_left; exact rfl)

theorem windowDenied_upd (g : Nat) (off : Nat) (s : State) : Upd [.outbox, .regIrq, .regErr, .regFlt] s (windowDenied g off s) := by
  unfold windowDenied
  repeat' first
    | intro _
    | with_reducible assumption
    | with_reducible exact Upd.refl _
    | ((with_reducible apply Upd.go (logErr_upd _ _ _ _ _)); rotate_left; exact rfl)

theorem dropBuf_upd (g : Nat) (w : Nat) (s : State) : Upd [.outbox, .regIrq, .regErr, .regSpd, .regFlt, .spads, .spad, .spadChk, .ceWins]
    s (dropBuf g w s) := by
  unfold dropBuf
  repeat' first
    | intro _
    | with_reducible assumption
    | with_reducible exact Upd.refl _
    | (extract_lets -underBinder +onlyGivenNames x; (with_reducible refine Upd.cut x ?_ ?_); rotate_left; (clear_value x; revert x; intro _ _); rotate_right; subst x)
    | (extract_lets -underBinder +onlyGivenNames x; clear_value x; revert x; intro _)
    | ((with_reducible apply Upd.go (putSpad_upd _ _ _)); rotate_left; exact rfl)
    | ((with_reducible apply Upd.go (bufBack_upd _ _ _)); rotate_left; exact rfl)

theorem putWordChk_upd (g : Nat) (w : Nat) (c : Nat) (s : State) : Upd [.spadChk] s (putWordChk g w c s) := by
  unfold putWordChk
  repeat' first
    | intro _
    | with_reducible assumption
    | with_reducible exact Upd.refl _
    | with_reducible apply Upd.ite <;> intro _
    | ((with_reducible apply Upd.go (putSpadChk_upd _ _ _)); rotate_left; exact rfl)

theorem rawWord_upd (g : Nat) (w : Nat) (s : State) : UpdS [.outbox, .regIrq, .regErr, .regSpd, .regFlt, .spads, .spad, .spadChk, .ceWins]
    s (rawWord g w s) := by
  unfold rawWord
  repeat' first
    | intro _
    | with_reducible assumption
    | with_reducible exact Upd.refl _
    | ((with_reducible apply UpdS.snd); with_reducible assumption)
    | (extract_lets -underBinder +onlyGivenNames x; (with_reducible refine UpdS.cut x ?_ ?_); rotate_left; (clear_value x; revert x; intro _ _); rotate_right; subst x)
    | (extract_lets -underBinder +onlyGivenNames x; (with_reducible refine Upd.cut x ?_ ?_); rotate_left; (clear_value x; revert x; intro _ _); rotate_right; subst x)
    | (extract_lets -underBinder +onlyGivenNames x; clear_value x; revert x; intro _)
    | ((with_reducible apply Upd.go (wri_upd _ _ _ _ _)); rotate_left; exact rfl)
    | ((with_reducible apply Upd.go (dropBuf_upd _ _ _)); rotate_left; exact rfl)
    | with_reducible apply UpdS.mk
    | dsimp only

theorem testWord_upd (g : Nat) (w : Nat) (mode : Nat) (mask : Nat) (data : Nat) (s : State) : Upd [.outbox, .regIrq, .regErr, .regSpd,
    .regFlt, .spads, .spad, .spadChk, .ceWins] s (testWord g w mode mask data s) := by
  unfold testWord
  repeat' first
    | intro _
    | with_reducible assumption
    | with_reducible exact Upd.refl _
    | (extract_lets -underBinder +onlyGivenNames x; (with_reducible refine Upd.cut x ?_ ?_); rotate_left; (clear_value x; revert x; intro _ _); rotate_right; subst x)
    | (extract_lets -underBinder +onlyGivenNames x; clear_value x; revert x; intro _)
    | with_reducible apply Upd.ite <;> intro _
    | ((with_reducible apply Upd.go (putSpadData_upd _ _ _ _)); rotate_left; exact rfl)
    | ((with_reducible apply Upd.go (dropBuf_upd _ _ _)); rotate_left; exact rfl)
    | ((with_reducible apply Upd.go (putWordChk_upd _ _ _ _)); rotate_left; exact rfl)

theorem windowWords_upd (g : Nat) (ax : List Nat) (s : State) : UpdS [.outbox, .freeCtr, .regIrq, .regErr, .regSpd, .regFlt, .spads,
    .spad, .spadChk, .ceWins] s (windowWords g ax s) := by
  induction ax generalizing s with
  | nil =>
    unfold windowWords
    exact Upd.refl _
  | cons e es ih =>
  unfold windowWords
  repeat' first
    | intro _
    | with_reducible assumption
    | ((with_reducible apply UpdS.go (ih _)); rotate_left; exact rfl)
    | ((with_reducible apply UpdS.snd); with_reducible assumption)
    | ((with_reducible apply Upd.goS (ih _)); rotate_left; exact rfl)
    | with_reducible exact Upd.refl _
    | (extract_lets -underBinder +onlyGivenNames x; (with_reducible refine UpdS.cut x ?_ ?_); rotate_left; (clear_value x; revert x; intro _ _); rotate_right; subst x)
    | (extract_lets -underBinder +onlyGivenNames x; (with_reducible refine Upd.cut x ?_ ?_); rotate_left; (clear_value x; revert x; intro _ _); rotate_right; subst x)
    | (extract_lets -underBinder +onlyGivenNames x; (with_reducible refine UpdS.cutSnd x ?_ ?_); rotate_left; (clear_value x; revert x; intro _ _); rotate_right; subst x)
    | (extract_lets -underBinder +onlyGivenNames x; (with_reducible refine Upd.cutSnd x ?_ ?_); rotate_left; (clear_value x; revert x; intro _ _); rotate_right; subst x)
    | (extract_lets -underBinder +onlyGivenNames x; clear_value x; revert x; intro _)
    | with_reducible apply Upd.ite <;> intro _
    | with_reducible apply UpdS.ite <;> intro _
    | ((with_reducible apply Upd.goS (narrowRead_upd _ _ _)); rotate_left; exact rfl)
    | ((with_reducible apply UpdS.go (narrowRead_upd _ _ _)); rotate_left; exact rfl)
    | ((with_reducible apply Upd.go (noteHazard_upd _ _ _)); rotate_left; exact rfl)
    | ((with_reducible apply Upd.goS (rawWord_upd _ _ _)); rotate_left; exact rfl)
    | ((with_reducible apply UpdS.go (rawWord_upd _ _ _)); rotate_left; exact rfl)
    | with_reducible apply UpdS.mk
    | dsimp only
    | split

theorem windowRead_upd (g : Nat) (off : Nat) (n : Nat) (s : State) : UpdS [.outbox, .freeCtr, .regIrq, .regErr, .regSpd, .regFlt, .spads,
    .spad, .spadChk, .ceWins] s (windowRead g off n s) := by
  unfold windowRead
  repeat' first
    | intro _
    | with_reducible assumption
    | with_reducible exact Upd.refl _
    | ((with_reducible apply UpdS.snd); with_reducible assumption)
    | (extract_lets -underBinder +onlyGivenNames x; (with_reducible refine UpdS.cut x ?_ ?_); rotate_left; (clear_value x; revert x; intro _ _); rotate_right; subst x)
    | (extract_lets -underBinder +onlyGivenNames x; (with_reducible refine Upd.cut x ?_ ?_); rotate_left; (clear_value x; revert x; intro _ _); rotate_right; subst x)
    | (extract_lets -underBinder +onlyGivenNames x; (with_reducible refine UpdS.cutSnd x ?_ ?_); rotate_left; (clear_value x; revert x; intro _ _); rotate_right; subst x)
    | (extract_lets -underBinder +onlyGivenNames x; (with_reducible refine Upd.cutSnd x ?_ ?_); rotate_left; (clear_value x; revert x; intro _ _); rotate_right; subst x)
    | (extract_lets -underBinder +onlyGivenNames x; clear_value x; revert x; intro _)
    | with_reducible apply Upd.ite <;> intro _
    | with_reducible apply UpdS.ite <;> intro _
    | ((with_reducible apply Upd.go (windowDenied_upd _ _ _)); rotate_left; exact rfl)
    | ((with_reducible apply Upd.goS (windowWords_upd _ _ _)); rotate_left; exact rfl)
    | ((with_reducible apply UpdS.go (windowWords_upd _ _ _)); rotate_left; exact rfl)
    | with_reducible apply UpdS.mk
    | dsimp only

theorem windowWrite_upd (g : Nat) (off : Nat) (data : List Byte) (poison : Bool) (s : State) : Upd [.outbox, .regIrq, .regErr, .regSpd,
    .regFlt, .spads, .spad, .spadChk, .ceWins] s (windowWrite g off data poison s) := by
  unfold windowWrite
  repeat' first
    | intro _
    | with_reducible assumption
    | with_reducible exact Upd.refl _
    | ((with_reducible apply UpdS.snd); with_reducible assumption)
    | (extract_lets -underBinder +onlyGivenNames x; (with_reducible refine Upd.cut x ?_ ?_); rotate_left; (clear_value x; revert x; intro _ _); rotate_right; subst x)
    | (extract_lets -underBinder +onlyGivenNames x; clear_value x; revert x; intro _)
    | with_reducible apply Upd.ite <;> intro _
    | with_reducible apply Upd.foldl
    | with_reducible apply UpdS.foldl
    | ((with_reducible apply UpdS.snd); with_reducible apply UpdS.foldl)
    | ((with_reducible apply Upd.go (narrowWrite_upd _ _ _ _ _ _)); rotate_left; exact rfl)
    | ((with_reducible apply Upd.go (noteHazard_upd _ _ _)); rotate_left; exact rfl)
    | ((with_reducible apply Upd.go (windowDenied_upd _ _ _)); rotate_left; exact rfl)
    | ((with_reducible apply Upd.go (testWord_upd _ _ _ _ _ _)); rotate_left; exact rfl)
    | with_reducible apply UpdS.mk
    | dsimp only
    | split

theorem windowAccess_upd (g : Nat) (off : Nat) (len : Nat) (write : Bool) (data : List Byte) (poison : Bool) (s : State) : Upd [.outbox,
    .freeCtr, .regIrq, .regErr, .regSpd, .regFlt, .spads, .spad, .spadChk, .ceWins] s (windowAccess g off len write data poison s) := by
  unfold windowAccess
  repeat' first
    | intro _
    | with_reducible assumption
    | with_reducible exact Upd.refl _
    | ((with_reducible apply UpdS.snd); with_reducible assumption)
    | (extract_lets -underBinder +onlyGivenNames x; (with_reducible refine Upd.cut x ?_ ?_); rotate_left; (clear_value x; revert x; intro _ _); rotate_right; subst x)
    | (extract_lets -underBinder +onlyGivenNames x; (with_reducible refine Upd.cutSnd x ?_ ?_); rotate_left; (clear_value x; revert x; intro _ _); rotate_right; subst x)
    | (extract_lets -underBinder +onlyGivenNames x; clear_value x; revert x; intro _)
    | with_reducible apply Upd.ite <;> intro _
    | with_reducible apply UpdS.ite <;> intro _
    | ((with_reducible apply Upd.go (freshNext_upd _)); rotate_left; exact rfl)
    | ((with_reducible apply Upd.go (emit_upd _ _)); rotate_left; exact rfl)
    | ((with_reducible apply Upd.go (badAccess_upd _ _ _)); rotate_left; exact rfl)
    | ((with_reducible apply Upd.goS (windowRead_upd _ _ _ _)); rotate_left; exact rfl)
    | ((with_reducible apply UpdS.go (windowRead_upd _ _ _ _)); rotate_left; exact rfl)
    | ((with_reducible apply Upd.go (windowWrite_upd _ _ _ _ _)); rotate_left; exact rfl)
    | with_reducible apply UpdS.mk

theorem inDebug_upd {m : List Part} {a s : State} {r : Region} {f : Nat → Nat → State} (h : Upd m a s)
    (hf : ∀ g off, Upd m a (f g off)) : Upd m a (inDebug r f s) := by
  cases r with
  | window g off => exact hf g off
  | _ => exact h

theorem execDebugWindowAccess_upd (dpa : Nat) (len : Nat) (write : Bool) (data : List Byte) (poison : Bool) (s : State) : UpdR [.outbox,
    .freeCtr, .regIrq, .regErr, .regSpd, .regFlt, .spads, .spad, .spadChk, .ceWins] s (execDebugWindowAccess dpa len write data poison s)
    := by
  unfold execDebugWindowAccess
  repeat' first
    | intro _
    | with_reducible assumption
    | with_reducible exact Upd.refl _
    | with_reducible apply UpdR.next
    | ((with_reducible apply Upd.go (windowAccess_upd _ _ _ _ _ _ _)); rotate_left; exact rfl)
    | with_reducible apply inDebug_upd

end Sys2Proof.Machine
end

