-- ==== Sys2Proof/Laws/UpdHostMem.lean ====
section
/-!
SUPPORT. What each operation of Machine/HostMem can change, and that it keeps the canonical form.
-/

namespace Sys2Proof.Machine

set_option maxRecDepth 4000
set_option linter.all false

theorem putLink_upd (l : Nat) (st : Nat) (width : Nat) (s : State) : Upd [.outbox, .regIrq, .regHif] s (putLink l st width s) := by
  unfold putLink
  repeat' first
    | intro _
    | with_reducible assumption
    | with_reducible exact Upd.refl _
    | with_reducible apply Upd.ite <;> intro _
    | ((with_reducible apply Upd.go (wri_upd _ _ _ _ _)); rotate_left; exact rfl)
    | ((with_reducible apply Upd.go (raise_upd _ _ _)); rotate_left; exact rfl)

theorem execPerstDeassert_upd (link : Nat) (s : State) : UpdR [.outbox, .regIrq, .regHif, .perst] s (execPerstDeassert link s) := by
  unfold execPerstDeassert
  repeat' first
    | intro _
    | with_reducible assumption
    | with_reducible exact Upd.refl _
    | (extract_lets -underBinder +onlyGivenNames x; (with_reducible refine UpdR.cut x ?_ ?_); rotate_left; (clear_value x; revert x; intro _ _); rotate_right; subst x)
    | (extract_lets -underBinder +onlyGivenNames x; (with_reducible refine Upd.cut x ?_ ?_); rotate_left; (clear_value x; revert x; intro _ _); rotate_right; subst x)
    | (extract_lets -underBinder +onlyGivenNames x; clear_value x; revert x; intro _)
    | with_reducible apply Upd.ite <;> intro _
    | with_reducible apply UpdR.ite <;> intro _
    | with_reducible apply UpdR.next
    | ((with_reducible apply Upd.go (putLink_upd _ _ _ _)); rotate_left; exact rfl)
    | ((with_reducible apply Upd.set_perst); rotate_left; exact rfl)

theorem execLinkUp_upd (link : Nat) (cxl : Bool) (width : Nat) (s : State) : UpdR [.outbox, .regIrq, .regHif] s (execLinkUp link cxl width
    s) := by
  unfold execLinkUp
  repeat' first
    | intro _
    | with_reducible assumption
    | with_reducible exact Upd.refl _
    | with_reducible apply Upd.ite <;> intro _
    | with_reducible apply UpdR.ite <;> intro _
    | with_reducible apply UpdR.next
    | ((with_reducible apply Upd.go (putLink_upd _ _ _ _)); rotate_left; exact rfl)

theorem settleSent_upd (x : Nat) (ax : Nat) (s : State) : Upd [.outbox, .regIrq, .regErr, .regSpd, .regFlt, .ctxs, .runs, .engines,
    .spads, .spad, .spadChk, .sess, .ceWins] s (settleSent x ax s) := by
  induction ax generalizing s with
  | zero =>
    unfold settleSent
    exact Upd.refl _
  | succ n ih =>
  unfold settleSent
  repeat' first
    | intro _
    | with_reducible assumption
    | ((with_reducible apply Upd.go (ih _)); rotate_left; exact rfl)
    | with_reducible exact Upd.refl _
    | (extract_lets -underBinder +onlyGivenNames x; (with_reducible refine Upd.cut x ?_ ?_); rotate_left; (clear_value x; revert x; intro _ _); rotate_right; subst x)
    | (extract_lets -underBinder +onlyGivenNames x; clear_value x; revert x; intro _)
    | ((with_reducible apply UpdR.go (execGo_upd _ _)); rotate_left; exact rfl)
    | ((with_reducible apply UpdR.of_eq); with_reducible assumption)
    | split

theorem execLinkDown_upd (link : Nat) (s : State) : UpdR [.outbox, .regIrq, .regErr, .regSpd, .regFlt, .regHif, .ctxs, .runs, .engines,
    .spads, .spad, .spadChk, .sess, .ceWins, .hdm] s (execLinkDown link s) := by
  unfold execLinkDown
  repeat' first
    | intro _
    | with_reducible assumption
    | with_reducible exact Upd.refl _
    | ((with_reducible apply UpdS.snd); with_reducible assumption)
    | (extract_lets -underBinder +onlyGivenNames x; (with_reducible refine UpdR.cut x ?_ ?_); rotate_left; (clear_value x; revert x; intro _ _); rotate_right; subst x)
    | (extract_lets -underBinder +onlyGivenNames x; (with_reducible refine Upd.cut x ?_ ?_); rotate_left; (clear_value x; revert x; intro _ _); rotate_right; subst x)
    | (extract_lets -underBinder +onlyGivenNames x; clear_value x; revert x; intro _)
    | with_reducible apply Upd.ite <;> intro _
    | with_reducible apply UpdR.ite <;> intro _
    | with_reducible apply UpdR.next
    | with_reducible apply Upd.foldl
    | with_reducible apply UpdS.foldl
    | ((with_reducible apply UpdS.snd); with_reducible apply UpdS.foldl)
    | ((with_reducible apply Upd.go (putLink_upd _ _ _ _)); rotate_left; exact rfl)
    | ((with_reducible apply Upd.go (settleSent_upd _ _ _)); rotate_left; exact rfl)
    | with_reducible apply UpdS.mk
    | dsimp only
    | with_reducible apply SMap.wf_set
    | with_reducible apply SMap.wf_mapv
    | with_reducible apply SMap.wf_filter
    | with_reducible exact SMap.wf_nil
    | (first | with_reducible exact State.Ok.hdm (by assumption))
    | ((with_reducible apply Upd.set_hdm); rotate_left; exact rfl)

theorem execHdmCommit_upd (link : Nat) (base : Nat) (size : Nat) (ways : Nat) (gran : Nat) (s : State) : UpdR [.outbox, .hdm] s
    (execHdmCommit link base size ways gran s) := by
  unfold execHdmCommit
  repeat' first
    | intro _
    | with_reducible assumption
    | with_reducible exact Upd.refl _
    | (extract_lets -underBinder +onlyGivenNames x; (with_reducible refine UpdR.cut x ?_ ?_); rotate_left; (clear_value x; revert x; intro _ _); rotate_right; subst x)
    | (extract_lets -underBinder +onlyGivenNames x; (with_reducible refine Upd.cut x ?_ ?_); rotate_left; (clear_value x; revert x; intro _ _); rotate_right; subst x)
    | (extract_lets -underBinder +onlyGivenNames x; clear_value x; revert x; intro _)
    | with_reducible apply Upd.ite <;> intro _
    | with_reducible apply UpdR.ite <;> intro _
    | with_reducible apply UpdR.next
    | with_reducible apply Upd.getD
    | ((with_reducible apply Upd.go (emit_upd _ _)); rotate_left; exact rfl)
    | with_reducible apply SMap.wf_set
    | with_reducible apply SMap.wf_mapv
    | with_reducible apply SMap.wf_filter
    | with_reducible exact SMap.wf_nil
    | (first | with_reducible exact State.Ok.hdm (by assumption))
    | split
    | ((with_reducible apply Upd.set_hdm); rotate_left; exact rfl)

theorem hostReadCol_upd (c : Nat) (s : State) : UpdS [.outbox, .freeCtr, .regIrq, .regErr, .regLdg, .regBku, .regMcs, .regFlt, .ldgSeq,
    .ldgLost, .dram, .dramChk, .chans, .units, .flights, .snoop, .biWait, .ceWins, .servedBytes] s (hostReadCol c s) := by
  unfold hostReadCol
  repeat' first
    | intro _
    | with_reducible assumption
    | with_reducible exact Upd.refl _
    | ((with_reducible apply UpdS.snd); with_reducible assumption)
    | (extract_lets -underBinder +onlyGivenNames x; (with_reducible refine UpdS.cut x ?_ ?_); rotate_left; (clear_value x; revert x; intro _ _); rotate_right; subst x)
    | (extract_lets -underBinder +onlyGivenNames x; (with_reducible refine Upd.cut x ?_ ?_); rotate_left; (clear_value x; revert x; intro _ _); rotate_right; subst x)
    | (extract_lets -underBinder +onlyGivenNames x; (with_reducible refine UpdS.cutSnd x ?_ ?_); rotate_left; (clear_value x; revert x; intro _ _); rotate_right; subst x)
    | (extract_lets -underBinder +onlyGivenNames x; (with_reducible refine Upd.cutSnd x ?_ ?_); rotate_left; (clear_value x; revert x; intro _ _); rotate_right; subst x)
    | (extract_lets -underBinder +onlyGivenNames x; clear_value x; revert x; intro _)
    | with_reducible apply Upd.ite <;> intro _
    | with_reducible apply UpdS.ite <;> intro _
    | ((with_reducible apply Upd.go (wri_upd _ _ _ _ _)); rotate_left; exact rfl)
    | ((with_reducible apply Upd.go (charge_upd _ _ _ _)); rotate_left; exact rfl)
    | ((with_reducible apply Upd.goS (readCol_upd _ _)); rotate_left; exact rfl)
    | ((with_reducible apply UpdS.go (readCol_upd _ _)); rotate_left; exact rfl)
    | with_reducible apply UpdS.mk
    | dsimp only

theorem putColSeg_upd (c : Nat) (seg : Nat) (s : State) : Upd [.dramChk] s (putColSeg c seg s) := by
  unfold putColSeg
  repeat' first
    | intro _
    | with_reducible assumption
    | with_reducible exact Upd.refl _
    | with_reducible apply Upd.ite <;> intro _
    | ((with_reducible apply Upd.go (putDramChk_upd _ _ _)); rotate_left; exact rfl)

theorem hostWriteCol_upd (w : WrReq) (s : State) : Upd [.outbox, .freeCtr, .regIrq, .regErr, .regLdg, .regBku, .regMcs, .regFlt, .ldgSeq,
    .ldgLost, .dram, .dramChk, .chans, .units, .flights, .snoop, .biWait, .ceWins, .servedBytes] s (hostWriteCol w s) := by
  unfold hostWriteCol
  repeat' first
    | intro _
    | with_reducible assumption
    | with_reducible exact Upd.refl _
    | (extract_lets -underBinder +onlyGivenNames x; (with_reducible refine Upd.cut x ?_ ?_); rotate_left; (clear_value x; revert x; intro _ _); rotate_right; subst x)
    | (extract_lets -underBinder +onlyGivenNames x; clear_value x; revert x; intro _)
    | with_reducible apply Upd.ite <;> intro _
    | ((with_reducible apply Upd.go (putColData_upd _ _ _)); rotate_left; exact rfl)
    | ((with_reducible apply Upd.go (dropRowSets_upd _ _)); rotate_left; exact rfl)
    | ((with_reducible apply Upd.go (sideWrite_upd _ _)); rotate_left; exact rfl)
    | ((with_reducible apply Upd.go (applyWrite_upd _ _)); rotate_left; exact rfl)
    | ((with_reducible apply Upd.go (writeCol_upd _ _)); rotate_left; exact rfl)
    | ((with_reducible apply Upd.go (putColSeg_upd _ _ _)); rotate_left; exact rfl)
    | split

theorem hostRead_upd (a : Nat) (n : Nat) (s : State) : UpdS [.outbox, .freeCtr, .regIrq, .regErr, .regLdg, .regBku, .regMcs, .regFlt,
    .ldgSeq, .ldgLost, .dram, .dramChk, .chans, .units, .flights, .snoop, .biWait, .ceWins, .servedBytes] s (hostRead a n s) := by
  unfold hostRead
  repeat' first
    | intro _
    | with_reducible assumption
    | with_reducible exact Upd.refl _
    | ((with_reducible apply UpdS.snd); with_reducible assumption)
    | (extract_lets -underBinder +onlyGivenNames x; (with_reducible refine UpdS.cut x ?_ ?_); rotate_left; (clear_value x; revert x; intro _ _); rotate_right; subst x)
    | (extract_lets -underBinder +onlyGivenNames x; (with_reducible refine Upd.cut x ?_ ?_); rotate_left; (clear_value x; revert x; intro _ _); rotate_right; subst x)
    | (extract_lets -underBinder +onlyGivenNames x; (with_reducible refine UpdS.cutSnd x ?_ ?_); rotate_left; (clear_value x; revert x; intro _ _); rotate_right; subst x)
    | (extract_lets -underBinder +onlyGivenNames x; (with_reducible refine Upd.cutSnd x ?_ ?_); rotate_left; (clear_value x; revert x; intro _ _); rotate_right; subst x)
    | (extract_lets -underBinder +onlyGivenNames x; clear_value x; revert x; intro _)
    | with_reducible apply readCols_upd
    | ((with_reducible apply Upd.go (noteIdle_upd _ _)); rotate_left; exact rfl)
    | ((with_reducible apply Upd.goS (hostReadCol_upd _ _)); rotate_left; exact rfl)
    | ((with_reducible apply UpdS.go (hostReadCol_upd _ _)); rotate_left; exact rfl)
    | with_reducible apply UpdS.mk
    | dsimp only

theorem hostStore_upd (a : Nat) (data : List Byte) (poison : Bool) (s : State) : Upd [.outbox, .freeCtr, .regIrq, .regErr, .regLdg,
    .regBku, .regMcs, .regFlt, .ldgSeq, .ldgLost, .dram, .dramChk, .chans, .units, .flights, .snoop, .biWait, .ceWins, .servedBytes] s
    (hostStore a data poison s) := by
  unfold hostStore
  repeat' first
    | intro _
    | with_reducible assumption
    | with_reducible exact Upd.refl _
    | ((with_reducible apply UpdS.snd); with_reducible assumption)
    | with_reducible apply Upd.foldl
    | with_reducible apply UpdS.foldl
    | ((with_reducible apply UpdS.snd); with_reducible apply UpdS.foldl)
    | ((with_reducible apply Upd.go (hostWriteCol_upd _ _)); rotate_left; exact rfl)
    | with_reducible apply UpdS.mk
    | dsimp only

theorem queueRead_upd (a : Nat) (n : Nat) (s : State) : Upd [.outbox, .freeCtr, .regIrq, .regErr, .regLdg, .regBku, .regMcs, .regFlt,
    .ldgSeq, .ldgLost, .dram, .dramChk, .chans, .units, .flights, .snoop, .biWait, .ceWins, .servedBytes] s (queueRead a n s) := by
  unfold queueRead
  repeat' first
    | intro _
    | with_reducible assumption
    | with_reducible exact Upd.refl _
    | ((with_reducible apply UpdS.snd); with_reducible assumption)
    | (extract_lets -underBinder +onlyGivenNames x; (with_reducible refine Upd.cut x ?_ ?_); rotate_left; (clear_value x; revert x; intro _ _); rotate_right; subst x)
    | (extract_lets -underBinder +onlyGivenNames x; clear_value x; revert x; intro _)
    | with_reducible apply Upd.foldl
    | with_reducible apply UpdS.foldl
    | ((with_reducible apply UpdS.snd); with_reducible apply UpdS.foldl)
    | ((with_reducible apply Upd.go (readRequest_upd _ _ _ _)); rotate_left; exact rfl)
    | with_reducible apply UpdS.mk
    | dsimp only

theorem queueStore_upd (a : Nat) (data : List Byte) (poison : Bool) (s : State) : Upd [.outbox, .freeCtr, .regIrq, .regErr, .regLdg,
    .regBku, .regMcs, .regFlt, .ldgSeq, .ldgLost, .dram, .dramChk, .chans, .units, .flights, .snoop, .biWait, .ceWins, .servedBytes] s
    (queueStore a data poison s) := by
  unfold queueStore
  repeat' first
    | intro _
    | with_reducible assumption
    | with_reducible exact Upd.refl _
    | ((with_reducible apply UpdS.snd); with_reducible assumption)
    | (extract_lets -underBinder +onlyGivenNames x; (with_reducible refine Upd.cut x ?_ ?_); rotate_left; (clear_value x; revert x; intro _ _); rotate_right; subst x)
    | (extract_lets -underBinder +onlyGivenNames x; clear_value x; revert x; intro _)
    | with_reducible apply Upd.foldl
    | with_reducible apply UpdS.foldl
    | ((with_reducible apply UpdS.snd); with_reducible apply UpdS.foldl)
    | ((with_reducible apply Upd.go (writeRequest_upd _ _ _ _ _)); rotate_left; exact rfl)
    | with_reducible apply UpdS.mk
    | dsimp only

theorem poisonedAnswer_upd (n : Nat) (s : State) : Upd [.outbox, .freeCtr] s (poisonedAnswer n s) := by
  unfold poisonedAnswer
  repeat' first
    | intro _
    | with_reducible assumption
    | with_reducible exact Upd.refl _
    | ((with_reducible apply Upd.go (freshNext_upd _)); rotate_left; exact rfl)
    | ((with_reducible apply Upd.go (emit_upd _ _)); rotate_left; exact rfl)

theorem dramLoad_upd (a : Nat) (n : Nat) (s : State) : Upd [.outbox, .freeCtr, .regIrq, .regErr, .regLdg, .regBku, .regMcs, .regFlt,
    .ldgSeq, .ldgLost, .dram, .dramChk, .chans, .units, .flights, .snoop, .biWait, .ceWins, .servedBytes] s (dramLoad a n s) := by
  unfold dramLoad
  repeat' first
    | intro _
    | with_reducible assumption
    | with_reducible exact Upd.refl _
    | ((with_reducible apply UpdS.snd); with_reducible assumption)
    | (extract_lets -underBinder +onlyGivenNames x; (with_reducible refine Upd.cut x ?_ ?_); rotate_left; (clear_value x; revert x; intro _ _); rotate_right; subst x)
    | (extract_lets -underBinder +onlyGivenNames x; (with_reducible refine Upd.cutSnd x ?_ ?_); rotate_left; (clear_value x; revert x; intro _ _); rotate_right; subst x)
    | (extract_lets -underBinder +onlyGivenNames x; clear_value x; revert x; intro _)
    | ((with_reducible apply Upd.go (emit_upd _ _)); rotate_left; exact rfl)
    | ((with_reducible apply Upd.go (snoopLines_upd _ _)); rotate_left; exact rfl)
    | ((with_reducible apply Upd.goS (hostRead_upd _ _ _)); rotate_left; exact rfl)
    | ((with_reducible apply UpdS.go (hostRead_upd _ _ _)); rotate_left; exact rfl)
    | ((with_reducible apply Upd.go (queueRead_upd _ _ _)); rotate_left; exact rfl)
    | ((with_reducible apply Upd.go (poisonedAnswer_upd _ _)); rotate_left; exact rfl)
    | with_reducible apply UpdS.mk
    | ((with_reducible apply UpdS.of_eq); with_reducible assumption)
    | split

theorem dramStore_upd (a : Nat) (data : List Byte) (poison : Bool) (s : State) : Upd [.outbox, .freeCtr, .regIrq, .regErr, .regLdg,
    .regBku, .regMcs, .regFlt, .ldgSeq, .ldgLost, .dram, .dramChk, .chans, .units, .flights, .snoop, .biWait, .ceWins, .servedBytes] s
    (dramStore a data poison s) := by
  unfold dramStore
  repeat' first
    | intro _
    | with_reducible assumption
    | with_reducible exact Upd.refl _
    | (extract_lets -underBinder +onlyGivenNames x; (with_reducible refine Upd.cut x ?_ ?_); rotate_left; (clear_value x; revert x; intro _ _); rotate_right; subst x)
    | (extract_lets -underBinder +onlyGivenNames x; clear_value x; revert x; intro _)
    | ((with_reducible apply Upd.go (snoopLines_upd _ _)); rotate_left; exact rfl)
    | ((with_reducible apply Upd.go (badAccess_upd _ _ _)); rotate_left; exact rfl)
    | ((with_reducible apply Upd.go (hostStore_upd _ _ _ _)); rotate_left; exact rfl)
    | ((with_reducible apply Upd.go (queueStore_upd _ _ _ _)); rotate_left; exact rfl)
    | split

theorem memLoad_upd (r : Region) (dpa : Nat) (len : Nat) (s : State) : Upd [.outbox, .freeCtr, .regIrq, .regErr, .regLdg, .regSpd,
    .regBku, .regMcs, .regFlt, .ldgSeq, .ldgLost, .spads, .spad, .spadChk, .dram, .dramChk, .chans, .units, .flights, .snoop, .biWait,
    .ceWins, .servedBytes] s (memLoad r dpa len s) := by
  unfold memLoad
  repeat' first
    | intro _
    | with_reducible assumption
    | with_reducible exact Upd.refl _
    | (extract_lets -underBinder +onlyGivenNames x; (with_reducible refine Upd.cut x ?_ ?_); rotate_left; (clear_value x; revert x; intro _ _); rotate_right; subst x)
    | (extract_lets -underBinder +onlyGivenNames x; clear_value x; revert x; intro _)
    | with_reducible apply Upd.ite <;> intro _
    | ((with_reducible apply Upd.go (emit_upd _ _)); rotate_left; exact rfl)
    | ((with_reducible apply Upd.go (harnessLoad_upd _ _ _)); rotate_left; exact rfl)
    | ((with_reducible apply Upd.go (windowAccess_upd _ _ _ _ _ _ _)); rotate_left; exact rfl)
    | ((with_reducible apply Upd.go (dramLoad_upd _ _ _)); rotate_left; exact rfl)
    | split

theorem execMembarRead_upd (dpa : Nat) (len : Nat) (s : State) : UpdR [.outbox, .freeCtr, .regIrq, .regErr, .regLdg, .regSpd, .regBku,
    .regMcs, .regFlt, .ldgSeq, .ldgLost, .spads, .spad, .spadChk, .dram, .dramChk, .chans, .units, .flights, .snoop, .biWait, .ceWins,
    .servedBytes] s (execMembarRead dpa len s) := by
  unfold execMembarRead
  repeat' first
    | intro _
    | with_reducible assumption
    | with_reducible exact Upd.refl _
    | with_reducible apply Upd.ite <;> intro _
    | with_reducible apply UpdR.ite <;> intro _
    | with_reducible apply UpdR.next
    | ((with_reducible apply Upd.go (emit_upd _ _)); rotate_left; exact rfl)
    | ((with_reducible apply Upd.go (memLoad_upd _ _ _ _)); rotate_left; exact rfl)

theorem memStore_upd (r : Region) (dpa : Nat) (data : List Byte) (poison : Bool) (s : State) : Upd [.outbox, .freeCtr, .regIrq, .regErr,
    .regLdg, .regSpd, .regBku, .regMcs, .regFlt, .ldgSeq, .ldgLost, .spads, .spad, .spadChk, .dram, .dramChk, .chans, .units, .flights,
    .snoop, .biWait, .ceWins, .servedBytes] s (memStore r dpa data poison s) := by
  unfold memStore
  repeat' first
    | intro _
    | with_reducible assumption
    | with_reducible exact Upd.refl _
    | (extract_lets -underBinder +onlyGivenNames x; (with_reducible refine Upd.cut x ?_ ?_); rotate_left; (clear_value x; revert x; intro _ _); rotate_right; subst x)
    | (extract_lets -underBinder +onlyGivenNames x; clear_value x; revert x; intro _)
    | with_reducible apply Upd.ite <;> intro _
    | ((with_reducible apply Upd.go (badAccess_upd _ _ _)); rotate_left; exact rfl)
    | ((with_reducible apply Upd.go (harnessStore_upd _ _ _)); rotate_left; exact rfl)
    | ((with_reducible apply Upd.go (windowAccess_upd _ _ _ _ _ _ _)); rotate_left; exact rfl)
    | ((with_reducible apply Upd.go (dramStore_upd _ _ _ _)); rotate_left; exact rfl)
    | split

theorem execMembarWrite_upd (dpa : Nat) (data : List Byte) (poison : Bool) (s : State) : UpdR [.outbox, .freeCtr, .regIrq, .regErr,
    .regLdg, .regSpd, .regBku, .regMcs, .regFlt, .ldgSeq, .ldgLost, .spads, .spad, .spadChk, .dram, .dramChk, .chans, .units, .flights,
    .snoop, .biWait, .ceWins, .servedBytes] s (execMembarWrite dpa data poison s) := by
  unfold execMembarWrite
  repeat' first
    | intro _
    | with_reducible assumption
    | with_reducible exact Upd.refl _
    | with_reducible apply Upd.ite <;> intro _
    | with_reducible apply UpdR.ite <;> intro _
    | with_reducible apply UpdR.next
    | ((with_reducible apply Upd.go (badAccess_upd _ _ _)); rotate_left; exact rfl)
    | ((with_reducible apply Upd.go (memStore_upd _ _ _ _ _)); rotate_left; exact rfl)

theorem snoopAdd_upd (line : Nat) (s : State) : Upd [.snoop] s (snoopAdd line s) := by
  unfold snoopAdd
  repeat' first
    | intro _
    | with_reducible assumption
    | with_reducible exact Upd.refl _
    | (extract_lets -underBinder +onlyGivenNames x; (with_reducible refine Upd.cut x ?_ ?_); rotate_left; (clear_value x; revert x; intro _ _); rotate_right; subst x)
    | (extract_lets -underBinder +onlyGivenNames x; clear_value x; revert x; intro _)
    | with_reducible apply Upd.ite <;> intro _
    | ((with_reducible apply Upd.set_snoop); rotate_left; exact rfl)

theorem execCxlMemRead_upd (link : Nat) (dpa : Nat) (keeps : Bool) (s : State) : UpdR [.outbox, .freeCtr, .regIrq, .regErr, .regLdg,
    .regBku, .regMcs, .regFlt, .ldgSeq, .ldgLost, .dram, .dramChk, .chans, .units, .flights, .snoop, .biWait, .ceWins, .servedBytes] s
    (execCxlMemRead link dpa keeps s) := by
  unfold execCxlMemRead
  repeat' first
    | intro _
    | with_reducible assumption
    | with_reducible exact Upd.refl _
    | ((with_reducible apply UpdS.snd); with_reducible assumption)
    | (extract_lets -underBinder +onlyGivenNames x; (with_reducible refine UpdR.cut x ?_ ?_); rotate_left; (clear_value x; revert x; intro _ _); rotate_right; subst x)
    | (extract_lets -underBinder +onlyGivenNames x; (with_reducible refine Upd.cut x ?_ ?_); rotate_left; (clear_value x; revert x; intro _ _); rotate_right; subst x)
    | (extract_lets -underBinder +onlyGivenNames x; (with_reducible refine UpdR.cutSnd x ?_ ?_); rotate_left; (clear_value x; revert x; intro _ _); rotate_right; subst x)
    | (extract_lets -underBinder +onlyGivenNames x; (with_reducible refine Upd.cutSnd x ?_ ?_); rotate_left; (clear_value x; revert x; intro _ _); rotate_right; subst x)
    | (extract_lets -underBinder +onlyGivenNames x; clear_value x; revert x; intro _)
    | with_reducible apply Upd.ite <;> intro _
    | with_reducible apply UpdR.ite <;> intro _
    | with_reducible apply UpdS.ite <;> intro _
    | with_reducible apply UpdR.next
    | ((with_reducible apply Upd.go (emit_upd _ _)); rotate_left; exact rfl)
    | ((with_reducible apply Upd.go (snoopLines_upd _ _)); rotate_left; exact rfl)
    | ((with_reducible apply Upd.goS (hostRead_upd _ _ _)); rotate_left; exact rfl)
    | ((with_reducible apply UpdS.go (hostRead_upd _ _ _)); rotate_left; exact rfl)
    | ((with_reducible apply Upd.go (queueRead_upd _ _ _)); rotate_left; exact rfl)
    | ((with_reducible apply Upd.go (poisonedAnswer_upd _ _)); rotate_left; exact rfl)
    | ((with_reducible apply Upd.go (snoopAdd_upd _ _)); rotate_left; exact rfl)
    | with_reducible apply UpdS.mk
    | ((with_reducible apply UpdS.of_eq); with_reducible assumption)
    | split

theorem execCxlMemWrite_upd (link : Nat) (dpa : Nat) (data : List Byte) (poison : Bool) (keeps : Bool) (s : State) : UpdR [.outbox,
    .freeCtr, .regIrq, .regErr, .regLdg, .regBku, .regMcs, .regFlt, .ldgSeq, .ldgLost, .dram, .dramChk, .chans, .units, .flights, .snoop,
    .biWait, .ceWins, .servedBytes] s (execCxlMemWrite link dpa data poison keeps s) := by
  unfold execCxlMemWrite
  repeat' first
    | intro _
    | with_reducible assumption
    | with_reducible exact Upd.refl _
    | (extract_lets -underBinder +onlyGivenNames x; (with_reducible refine UpdR.cut x ?_ ?_); rotate_left; (clear_value x; revert x; intro _ _); rotate_right; subst x)
    | (extract_lets -underBinder +onlyGivenNames x; (with_reducible refine Upd.cut x ?_ ?_); rotate_left; (clear_value x; revert x; intro _ _); rotate_right; subst x)
    | (extract_lets -underBinder +onlyGivenNames x; clear_value x; revert x; intro _)
    | with_reducible apply Upd.ite <;> intro _
    | with_reducible apply UpdR.ite <;> intro _
    | with_reducible apply UpdR.next
    | ((with_reducible apply Upd.go (snoopLines_upd _ _)); rotate_left; exact rfl)
    | ((with_reducible apply Upd.go (badAccess_upd _ _ _)); rotate_left; exact rfl)
    | ((with_reducible apply Upd.go (hostStore_upd _ _ _ _)); rotate_left; exact rfl)
    | ((with_reducible apply Upd.go (queueStore_upd _ _ _ _)); rotate_left; exact rfl)
    | ((with_reducible apply Upd.go (snoopAdd_upd _ _)); rotate_left; exact rfl)
    | split
    | ((with_reducible apply Upd.set_snoop); rotate_left; exact rfl)

theorem execBackInvalidateDone_upd (line : Nat) (s : State) : UpdR [.snoop, .biWait] s (execBackInvalidateDone line s) := by
  unfold execBackInvalidateDone
  repeat' first
    | intro _
    | with_reducible assumption
    | with_reducible exact Upd.refl _
    | (extract_lets -underBinder +onlyGivenNames x; (with_reducible refine UpdR.cut x ?_ ?_); rotate_left; (clear_value x; revert x; intro _ _); rotate_right; subst x)
    | (extract_lets -underBinder +onlyGivenNames x; (with_reducible refine Upd.cut x ?_ ?_); rotate_left; (clear_value x; revert x; intro _ _); rotate_right; subst x)
    | (extract_lets -underBinder +onlyGivenNames x; clear_value x; revert x; intro _)
    | with_reducible apply Upd.ite <;> intro _
    | with_reducible apply UpdR.ite <;> intro _
    | with_reducible apply UpdR.next
    | ((with_reducible apply Upd.set_snoop_biWait); rotate_left; exact rfl)

theorem execCxlSnoop_upd (link : Nat) (s : State) : UpdR [.outbox] s (execCxlSnoop link s) := by
  unfold execCxlSnoop
  repeat' first
    | intro _
    | with_reducible assumption
    | with_reducible exact Upd.refl _
    | with_reducible apply Upd.ite <;> intro _
    | with_reducible apply UpdR.ite <;> intro _
    | with_reducible apply UpdR.next
    | ((with_reducible apply Upd.go (emit_upd _ _)); rotate_left; exact rfl)

end Sys2Proof.Machine
end

