-- ==== Sys2Proof/Laws/UpdSegments.lean ====
section
/-!
SUPPORT. What each operation of Machine/Segments can change, and that it keeps the canonical form.
-/

namespace Sys2Proof.Machine

set_option maxRecDepth 4000
set_option linter.all false

theorem blkSettle_upd (b : Nat) (s : State) : Upd [.outbox, .freeCtr, .regIrq, .regBlk] s (blkSettle b s) := by
  unfold blkSettle
  repeat' first
    | intro _
    | with_reducible assumption
    | with_reducible exact Upd.refl _
    | (extract_lets -underBinder +onlyGivenNames x; (with_reducible refine Upd.cut x ?_ ?_); rotate_left; (clear_value x; revert x; intro _ _); rotate_right; subst x)
    | (extract_lets -underBinder +onlyGivenNames x; clear_value x; revert x; intro _)
    | with_reducible apply Upd.ite <;> intro _
    | ((with_reducible apply Upd.go (wr_upd _ _ _ _)); rotate_left; exact rfl)
    | ((with_reducible apply Upd.go (freshNext_upd _)); rotate_left; exact rfl)
    | ((with_reducible apply Upd.go (raise_upd _ _ _)); rotate_left; exact rfl)
    | split

theorem mediaWrite_upd (b : Nat) (n : Nat) (host : Bool) (s : State) : Upd [.outbox, .freeCtr, .regIrq, .regBlk] s (mediaWrite b n host s)
    := by
  unfold mediaWrite
  repeat' first
    | intro _
    | with_reducible assumption
    | with_reducible exact Upd.refl _
    | (extract_lets -underBinder +onlyGivenNames x; (with_reducible refine Upd.cut x ?_ ?_); rotate_left; (clear_value x; revert x; intro _ _); rotate_right; subst x)
    | (extract_lets -underBinder +onlyGivenNames x; clear_value x; revert x; intro _)
    | with_reducible apply Upd.ite <;> intro _
    | ((with_reducible apply Upd.go (count_upd _ _ _ _)); rotate_left; exact rfl)
    | ((with_reducible apply Upd.go (blkSettle_upd _ _)); rotate_left; exact rfl)

theorem reclaim_upd (b : Nat) (s : State) : Upd [.outbox, .freeCtr, .regIrq, .regBlk] s (reclaim b s) := by
  unfold reclaim
  repeat' first
    | intro _
    | with_reducible assumption
    | with_reducible exact Upd.refl _
    | ((with_reducible apply Upd.go (freshNext_upd _)); rotate_left; exact rfl)
    | ((with_reducible apply Upd.go (mediaWrite_upd _ _ _ _)); rotate_left; exact rfl)

theorem relocate_upd (b : Nat) (n : Nat) (s : State) : Upd [.outbox, .freeCtr, .regIrq, .regBlk] s (relocate b n s) := by
  unfold relocate
  repeat' first
    | intro _
    | with_reducible assumption
    | with_reducible exact Upd.refl _
    | with_reducible apply Upd.ite <;> intro _
    | ((with_reducible apply Upd.go (mediaWrite_upd _ _ _ _)); rotate_left; exact rfl)
    | split

theorem segDone_upd (n : Nat) (result : Nat) (s : State) : Upd [.outbox, .regIrq, .regDrv] s (segDone n result s) := by
  unfold segDone
  repeat' first
    | intro _
    | with_reducible assumption
    | with_reducible exact Upd.refl _
    | ((with_reducible apply Upd.go (wr_upd _ _ _ _)); rotate_left; exact rfl)
    | ((with_reducible apply Upd.go (raise_upd _ _ _)); rotate_left; exact rfl)

theorem segPending_upd (n : Nat) (op : Nat) (k : Nat) (s : State) : Upd [.regDrv, .drovers] s (segPending n op k s) := by
  unfold segPending
  repeat' first
    | intro _
    | with_reducible assumption
    | with_reducible exact Upd.refl _
    | (extract_lets -underBinder +onlyGivenNames x; (with_reducible refine Upd.cut x ?_ ?_); rotate_left; (clear_value x; revert x; intro _ _); rotate_right; subst x)
    | (extract_lets -underBinder +onlyGivenNames x; clear_value x; revert x; intro _)
    | ((with_reducible apply Upd.go (wr_upd _ _ _ _)); rotate_left; exact rfl)
    | ((with_reducible apply Upd.go (putDrover_upd _ _ _)); rotate_left; exact rfl)

theorem segCreate_upd (n : Nat) (s : State) : Upd [.outbox, .regIrq, .regDrv, .drovers] s (segCreate n s) := by
  unfold segCreate
  repeat' first
    | intro _
    | with_reducible assumption
    | with_reducible exact Upd.refl _
    | (extract_lets -underBinder +onlyGivenNames x; (with_reducible refine Upd.cut x ?_ ?_); rotate_left; (clear_value x; revert x; intro _ _); rotate_right; subst x)
    | (extract_lets -underBinder +onlyGivenNames x; clear_value x; revert x; intro _)
    | with_reducible apply Upd.ite <;> intro _
    | with_reducible apply Upd.getD
    | ((with_reducible apply Upd.go (putDrover_upd _ _ _)); rotate_left; exact rfl)
    | ((with_reducible apply Upd.go (segDone_upd _ _ _)); rotate_left; exact rfl)
    | split

theorem putPage_upd (n : Nat) (k : Nat) (i : Nat) (heat : Nat) (bytes : List (Byte × Bool)) (s : State) : Upd [.outbox, .freeCtr, .regIrq,
    .regBlk, .drovers] s (putPage n k i heat bytes s) := by
  unfold putPage
  repeat' first
    | intro _
    | with_reducible assumption
    | with_reducible exact Upd.refl _
    | (extract_lets -underBinder +onlyGivenNames x; (with_reducible refine Upd.cut x ?_ ?_); rotate_left; (clear_value x; revert x; intro _ _); rotate_right; subst x)
    | (extract_lets -underBinder +onlyGivenNames x; clear_value x; revert x; intro _)
    | ((with_reducible apply Upd.go (putDrover_upd _ _ _)); rotate_left; exact rfl)
    | ((with_reducible apply Upd.go (mediaWrite_upd _ _ _ _)); rotate_left; exact rfl)

theorem copyPages_upd (n : Nat) (k : Nat) (heat : Nat) (ax : Nat) (bx : Nat) (cx : Nat) (s : State) : Upd [.outbox, .freeCtr, .regIrq,
    .regErr, .regLdg, .regBku, .regMcs, .regBlk, .regFlt, .ldgSeq, .ldgLost, .dram, .dramChk, .chans, .units, .flights, .snoop, .biWait,
    .ceWins, .drovers, .servedBytes] s (copyPages n k heat ax bx cx s) := by
  induction ax generalizing bx cx s with
  | zero =>
    unfold copyPages
    exact Upd.refl _
  | succ n ih =>
  unfold copyPages
  repeat' first
    | intro _
    | with_reducible assumption
    | ((with_reducible apply Upd.go (ih _ _ _)); rotate_left; exact rfl)
    | ((with_reducible apply UpdS.snd); with_reducible assumption)
    | with_reducible exact Upd.refl _
    | (extract_lets -underBinder +onlyGivenNames x; (with_reducible refine Upd.cut x ?_ ?_); rotate_left; (clear_value x; revert x; intro _ _); rotate_right; subst x)
    | (extract_lets -underBinder +onlyGivenNames x; (with_reducible refine Upd.cutSnd x ?_ ?_); rotate_left; (clear_value x; revert x; intro _ _); rotate_right; subst x)
    | (extract_lets -underBinder +onlyGivenNames x; clear_value x; revert x; intro _)
    | ((with_reducible apply Upd.goS (readSpan_upd _ _ _ _)); rotate_left; exact rfl)
    | ((with_reducible apply UpdS.go (readSpan_upd _ _ _ _)); rotate_left; exact rfl)
    | ((with_reducible apply Upd.go (putPage_upd _ _ _ _ _ _)); rotate_left; exact rfl)
    | with_reducible apply UpdS.mk
    | split

theorem segCopy_upd (n : Nat) (s : State) : Upd [.outbox, .freeCtr, .regIrq, .regErr, .regLdg, .regBku, .regMcs, .regDrv, .regBlk,
    .regFlt, .ldgSeq, .ldgLost, .dram, .dramChk, .chans, .units, .flights, .snoop, .biWait, .ceWins, .drovers, .servedBytes] s (segCopy n
    s) := by
  unfold segCopy
  repeat' first
    | intro _
    | with_reducible assumption
    | with_reducible exact Upd.refl _
    | (extract_lets -underBinder +onlyGivenNames x; (with_reducible refine Upd.cut x ?_ ?_); rotate_left; (clear_value x; revert x; intro _ _); rotate_right; subst x)
    | (extract_lets -underBinder +onlyGivenNames x; clear_value x; revert x; intro _)
    | ((with_reducible apply Upd.go (noteWaits_upd _ _ _ _)); rotate_left; exact rfl)
    | ((with_reducible apply Upd.go (snoopLines_upd _ _)); rotate_left; exact rfl)
    | ((with_reducible apply Upd.go (putDrover_upd _ _ _)); rotate_left; exact rfl)
    | ((with_reducible apply Upd.go (reclaim_upd _ _)); rotate_left; exact rfl)
    | ((with_reducible apply Upd.go (segDone_upd _ _ _)); rotate_left; exact rfl)
    | ((with_reducible apply Upd.go (segPending_upd _ _ _ _)); rotate_left; exact rfl)
    | ((with_reducible apply Upd.go (copyPages_upd _ _ _ _ _ _ _)); rotate_left; exact rfl)
    | split

theorem segWrite_upd (n : Nat) (s : State) : Upd [.outbox, .freeCtr, .regIrq, .regErr, .regLdg, .regBku, .regMcs, .regDrv, .regBlk,
    .regFlt, .ldgSeq, .ldgLost, .dram, .dramChk, .chans, .units, .flights, .snoop, .biWait, .ceWins, .drovers, .servedBytes] s (segWrite n
    s) := by
  unfold segWrite
  repeat' first
    | intro _
    | with_reducible assumption
    | with_reducible exact Upd.refl _
    | (extract_lets -underBinder +onlyGivenNames x; (with_reducible refine Upd.cut x ?_ ?_); rotate_left; (clear_value x; revert x; intro _ _); rotate_right; subst x)
    | (extract_lets -underBinder +onlyGivenNames x; clear_value x; revert x; intro _)
    | with_reducible apply Upd.ite <;> intro _
    | ((with_reducible apply Upd.go (segDone_upd _ _ _)); rotate_left; exact rfl)
    | ((with_reducible apply Upd.go (segPending_upd _ _ _ _)); rotate_left; exact rfl)
    | ((with_reducible apply Upd.go (segCopy_upd _ _)); rotate_left; exact rfl)
    | split

theorem segSeal_upd (n : Nat) (s : State) : Upd [.outbox, .regIrq, .regDrv, .drovers] s (segSeal n s) := by
  unfold segSeal
  repeat' first
    | intro _
    | with_reducible assumption
    | with_reducible exact Upd.refl _
    | (extract_lets -underBinder +onlyGivenNames x; (with_reducible refine Upd.cut x ?_ ?_); rotate_left; (clear_value x; revert x; intro _ _); rotate_right; subst x)
    | (extract_lets -underBinder +onlyGivenNames x; clear_value x; revert x; intro _)
    | with_reducible apply Upd.ite <;> intro _
    | ((with_reducible apply Upd.go (segDone_upd _ _ _)); rotate_left; exact rfl)
    | ((with_reducible apply Upd.go (segPending_upd _ _ _ _)); rotate_left; exact rfl)

theorem segDelete_upd (n : Nat) (s : State) : Upd [.outbox, .regIrq, .regDrv, .drovers] s (segDelete n s) := by
  unfold segDelete
  repeat' first
    | intro _
    | with_reducible assumption
    | with_reducible exact Upd.refl _
    | (extract_lets -underBinder +onlyGivenNames x; (with_reducible refine Upd.cut x ?_ ?_); rotate_left; (clear_value x; revert x; intro _ _); rotate_right; subst x)
    | (extract_lets -underBinder +onlyGivenNames x; clear_value x; revert x; intro _)
    | with_reducible apply Upd.ite <;> intro _
    | with_reducible apply Upd.getD
    | ((with_reducible apply Upd.go (putDrover_upd _ _ _)); rotate_left; exact rfl)
    | ((with_reducible apply Upd.go (segDone_upd _ _ _)); rotate_left; exact rfl)
    | ((with_reducible apply Upd.go (segPending_upd _ _ _ _)); rotate_left; exact rfl)
    | split

theorem segQuery_upd (n : Nat) (s : State) : Upd [.outbox, .regIrq, .regDrv] s (segQuery n s) := by
  unfold segQuery
  repeat' first
    | intro _
    | with_reducible assumption
    | with_reducible exact Upd.refl _
    | (extract_lets -underBinder +onlyGivenNames x; (with_reducible refine Upd.cut x ?_ ?_); rotate_left; (clear_value x; revert x; intro _ _); rotate_right; subst x)
    | (extract_lets -underBinder +onlyGivenNames x; clear_value x; revert x; intro _)
    | ((with_reducible apply Upd.go (wr_upd _ _ _ _)); rotate_left; exact rfl)
    | ((with_reducible apply Upd.go (segDone_upd _ _ _)); rotate_left; exact rfl)

theorem segBind_upd (n : Nat) (s : State) : Upd [.outbox, .regIrq, .regDrv, .drovers] s (segBind n s) := by
  unfold segBind
  repeat' first
    | intro _
    | with_reducible assumption
    | with_reducible exact Upd.refl _
    | (extract_lets -underBinder +onlyGivenNames x; (with_reducible refine Upd.cut x ?_ ?_); rotate_left; (clear_value x; revert x; intro _ _); rotate_right; subst x)
    | (extract_lets -underBinder +onlyGivenNames x; clear_value x; revert x; intro _)
    | with_reducible apply Upd.ite <;> intro _
    | ((with_reducible apply Upd.go (putDrover_upd _ _ _)); rotate_left; exact rfl)
    | ((with_reducible apply Upd.go (segDone_upd _ _ _)); rotate_left; exact rfl)

theorem segUnbind_upd (n : Nat) (s : State) : Upd [.outbox, .regIrq, .regDrv, .drovers] s (segUnbind n s) := by
  unfold segUnbind
  repeat' first
    | intro _
    | with_reducible assumption
    | with_reducible exact Upd.refl _
    | (extract_lets -underBinder +onlyGivenNames x; (with_reducible refine Upd.cut x ?_ ?_); rotate_left; (clear_value x; revert x; intro _ _); rotate_right; subst x)
    | (extract_lets -underBinder +onlyGivenNames x; clear_value x; revert x; intro _)
    | with_reducible apply Upd.ite <;> intro _
    | ((with_reducible apply Upd.go (putDrover_upd _ _ _)); rotate_left; exact rfl)
    | ((with_reducible apply Upd.go (segDone_upd _ _ _)); rotate_left; exact rfl)
    | split

theorem segGo_upd (n : Nat) (op : Nat) (s : State) : Upd [.outbox, .freeCtr, .regIrq, .regErr, .regLdg, .regBku, .regMcs, .regDrv,
    .regBlk, .regFlt, .ldgSeq, .ldgLost, .dram, .dramChk, .chans, .units, .flights, .snoop, .biWait, .ceWins, .drovers, .servedBytes] s
    (segGo n op s) := by
  unfold segGo
  repeat' first
    | intro _
    | with_reducible assumption
    | with_reducible exact Upd.refl _
    | (extract_lets -underBinder +onlyGivenNames x; (with_reducible refine Upd.cut x ?_ ?_); rotate_left; (clear_value x; revert x; intro _ _); rotate_right; subst x)
    | (extract_lets -underBinder +onlyGivenNames x; clear_value x; revert x; intro _)
    | ((with_reducible apply Upd.go (segDone_upd _ _ _)); rotate_left; exact rfl)
    | ((with_reducible apply Upd.go (segCreate_upd _ _)); rotate_left; exact rfl)
    | ((with_reducible apply Upd.go (segWrite_upd _ _)); rotate_left; exact rfl)
    | ((with_reducible apply Upd.go (segSeal_upd _ _)); rotate_left; exact rfl)
    | ((with_reducible apply Upd.go (segDelete_upd _ _)); rotate_left; exact rfl)
    | ((with_reducible apply Upd.go (segQuery_upd _ _)); rotate_left; exact rfl)
    | ((with_reducible apply Upd.go (segBind_upd _ _)); rotate_left; exact rfl)
    | ((with_reducible apply Upd.go (segUnbind_upd _ _)); rotate_left; exact rfl)
    | split

theorem segCommand_upd (n : Nat) (op : Nat) (s : State) : Upd [.outbox, .freeCtr, .regIrq, .regErr, .regLdg, .regBku, .regMcs, .regDrv,
    .regBlk, .regFlt, .ldgSeq, .ldgLost, .dram, .dramChk, .chans, .units, .flights, .snoop, .biWait, .ceWins, .drovers, .servedBytes] s
    (segCommand n op s) := by
  unfold segCommand
  repeat' first
    | intro _
    | with_reducible assumption
    | with_reducible exact Upd.refl _
    | with_reducible apply Upd.ite <;> intro _
    | ((with_reducible apply Upd.go (wr_upd _ _ _ _)); rotate_left; exact rfl)
    | ((with_reducible apply Upd.go (segGo_upd _ _ _)); rotate_left; exact rfl)
    | split

theorem execSegCreate_upd (dr : Nat) (s : State) : UpdR [.outbox, .freeCtr, .regIrq, .regErr, .regLdg, .regBku, .regMcs, .regDrv, .regBlk,
    .regFlt, .ldgSeq, .ldgLost, .dram, .dramChk, .chans, .units, .flights, .snoop, .biWait, .ceWins, .drovers, .servedBytes] s
    (execSegCreate dr s) := by
  unfold execSegCreate
  repeat' first
    | intro _
    | with_reducible assumption
    | with_reducible exact Upd.refl _
    | with_reducible apply UpdR.next
    | ((with_reducible apply Upd.go (segCommand_upd _ _ _)); rotate_left; exact rfl)

theorem execSegWrite_upd (dr : Nat) (s : State) : UpdR [.outbox, .freeCtr, .regIrq, .regErr, .regLdg, .regBku, .regMcs, .regDrv, .regBlk,
    .regFlt, .ldgSeq, .ldgLost, .dram, .dramChk, .chans, .units, .flights, .snoop, .biWait, .ceWins, .drovers, .servedBytes] s
    (execSegWrite dr s) := by
  unfold execSegWrite
  repeat' first
    | intro _
    | with_reducible assumption
    | with_reducible exact Upd.refl _
    | with_reducible apply UpdR.next
    | ((with_reducible apply Upd.go (segCommand_upd _ _ _)); rotate_left; exact rfl)

theorem execSegSeal_upd (dr : Nat) (s : State) : UpdR [.outbox, .freeCtr, .regIrq, .regErr, .regLdg, .regBku, .regMcs, .regDrv, .regBlk,
    .regFlt, .ldgSeq, .ldgLost, .dram, .dramChk, .chans, .units, .flights, .snoop, .biWait, .ceWins, .drovers, .servedBytes] s
    (execSegSeal dr s) := by
  unfold execSegSeal
  repeat' first
    | intro _
    | with_reducible assumption
    | with_reducible exact Upd.refl _
    | with_reducible apply UpdR.next
    | ((with_reducible apply Upd.go (segCommand_upd _ _ _)); rotate_left; exact rfl)

theorem execSegDelete_upd (dr : Nat) (s : State) : UpdR [.outbox, .freeCtr, .regIrq, .regErr, .regLdg, .regBku, .regMcs, .regDrv, .regBlk,
    .regFlt, .ldgSeq, .ldgLost, .dram, .dramChk, .chans, .units, .flights, .snoop, .biWait, .ceWins, .drovers, .servedBytes] s
    (execSegDelete dr s) := by
  unfold execSegDelete
  repeat' first
    | intro _
    | with_reducible assumption
    | with_reducible exact Upd.refl _
    | with_reducible apply UpdR.next
    | ((with_reducible apply Upd.go (segCommand_upd _ _ _)); rotate_left; exact rfl)

theorem execSegQuery_upd (dr : Nat) (s : State) : UpdR [.outbox, .freeCtr, .regIrq, .regErr, .regLdg, .regBku, .regMcs, .regDrv, .regBlk,
    .regFlt, .ldgSeq, .ldgLost, .dram, .dramChk, .chans, .units, .flights, .snoop, .biWait, .ceWins, .drovers, .servedBytes] s
    (execSegQuery dr s) := by
  unfold execSegQuery
  repeat' first
    | intro _
    | with_reducible assumption
    | with_reducible exact Upd.refl _
    | with_reducible apply UpdR.next
    | ((with_reducible apply Upd.go (segCommand_upd _ _ _)); rotate_left; exact rfl)

theorem execSegBind_upd (dr : Nat) (s : State) : UpdR [.outbox, .freeCtr, .regIrq, .regErr, .regLdg, .regBku, .regMcs, .regDrv, .regBlk,
    .regFlt, .ldgSeq, .ldgLost, .dram, .dramChk, .chans, .units, .flights, .snoop, .biWait, .ceWins, .drovers, .servedBytes] s
    (execSegBind dr s) := by
  unfold execSegBind
  repeat' first
    | intro _
    | with_reducible assumption
    | with_reducible exact Upd.refl _
    | with_reducible apply UpdR.next
    | ((with_reducible apply Upd.go (segCommand_upd _ _ _)); rotate_left; exact rfl)

theorem execSegUnbind_upd (dr : Nat) (s : State) : UpdR [.outbox, .freeCtr, .regIrq, .regErr, .regLdg, .regBku, .regMcs, .regDrv, .regBlk,
    .regFlt, .ldgSeq, .ldgLost, .dram, .dramChk, .chans, .units, .flights, .snoop, .biWait, .ceWins, .drovers, .servedBytes] s
    (execSegUnbind dr s) := by
  unfold execSegUnbind
  repeat' first
    | intro _
    | with_reducible assumption
    | with_reducible exact Upd.refl _
    | with_reducible apply UpdR.next
    | ((with_reducible apply Upd.go (segCommand_upd _ _ _)); rotate_left; exact rfl)

theorem segFinish_upd (n : Nat) (s : State) : Upd [.outbox, .freeCtr, .regIrq, .regErr, .regLdg, .regBku, .regMcs, .regDrv, .regBlk,
    .regFlt, .ldgSeq, .ldgLost, .dram, .dramChk, .chans, .units, .flights, .snoop, .biWait, .ceWins, .drovers, .servedBytes] s (segFinish
    n s) := by
  unfold segFinish
  repeat' first
    | intro _
    | with_reducible assumption
    | with_reducible exact Upd.refl _
    | (extract_lets -underBinder +onlyGivenNames x; (with_reducible refine Upd.cut x ?_ ?_); rotate_left; (clear_value x; revert x; intro _ _); rotate_right; subst x)
    | (extract_lets -underBinder +onlyGivenNames x; clear_value x; revert x; intro _)
    | with_reducible apply Upd.ite <;> intro _
    | ((with_reducible apply Upd.go (putDrover_upd _ _ _)); rotate_left; exact rfl)
    | ((with_reducible apply Upd.go (reclaim_upd _ _)); rotate_left; exact rfl)
    | ((with_reducible apply Upd.go (segDone_upd _ _ _)); rotate_left; exact rfl)
    | ((with_reducible apply Upd.go (segCopy_upd _ _)); rotate_left; exact rfl)
    | split

theorem execSegDone_upd (dr : Nat) (s : State) : UpdR [.outbox, .freeCtr, .regIrq, .regErr, .regLdg, .regBku, .regMcs, .regDrv, .regBlk,
    .regFlt, .ldgSeq, .ldgLost, .dram, .dramChk, .chans, .units, .flights, .snoop, .biWait, .ceWins, .drovers, .servedBytes] s
    (execSegDone dr s) := by
  unfold execSegDone
  repeat' first
    | intro _
    | with_reducible assumption
    | with_reducible exact Upd.refl _
    | with_reducible apply UpdR.next
    | ((with_reducible apply Upd.go (segFinish_upd _ _)); rotate_left; exact rfl)

theorem execBulkPatrol_upd (stack : Nat) (relocated : Nat) (s : State) : UpdR [.outbox, .freeCtr, .regIrq, .regBlk] s (execBulkPatrol
    stack relocated s) := by
  unfold execBulkPatrol
  repeat' first
    | intro _
    | with_reducible assumption
    | with_reducible exact Upd.refl _
    | with_reducible apply UpdR.next
    | ((with_reducible apply Upd.go (relocate_upd _ _ _)); rotate_left; exact rfl)

theorem Upd.set_dies_retQueue {m : List Part} {a b : State} {vdies vretQueue} (h : Upd m a b)
    (hm : within [.dies, .retQueue] m = true) :
    Upd m a { b with dies := vdies, retQueue := vretQueue } :=
  h.put (fun p hp => by
    have : [.dies, .retQueue].contains p = false := by
      cases hc : [.dies, .retQueue].contains p with
      | false => rfl
      | true => exact absurd ((within_mem hm (List.contains_iff_mem.1 hc)).symm.trans hp) (by decide)
    cases p <;> first | rfl | exact fun _ _ _ _ => rfl | exact absurd this (by decide)) rfl rfl fun k => { k with  }

theorem dieRetire_upd (b : Nat) (die : Nat) (s : State) : Upd [.outbox, .freeCtr, .regIrq, .regBlk, .dies, .retQueue] s (dieRetire b die
    s) := by
  unfold dieRetire
  repeat' first
    | intro _
    | with_reducible assumption
    | with_reducible exact Upd.refl _
    | (extract_lets -underBinder +onlyGivenNames x; (with_reducible refine Upd.cut x ?_ ?_); rotate_left; (clear_value x; revert x; intro _ _); rotate_right; subst x)
    | (extract_lets -underBinder +onlyGivenNames x; clear_value x; revert x; intro _)
    | with_reducible apply Upd.ite <;> intro _
    | ((with_reducible apply Upd.go (blkSettle_upd _ _)); rotate_left; exact rfl)
    | ((with_reducible apply Upd.go (mediaWrite_upd _ _ _ _)); rotate_left; exact rfl)
    | split
    | ((with_reducible apply Upd.set_dies_retQueue); rotate_left; exact rfl)

theorem execDieRetire_upd (stack : Nat) (die : Nat) (s : State) : UpdR [.outbox, .freeCtr, .regIrq, .regBlk, .dies, .retQueue] s
    (execDieRetire stack die s) := by
  unfold execDieRetire
  repeat' first
    | intro _
    | with_reducible assumption
    | with_reducible exact Upd.refl _
    | with_reducible apply UpdR.next
    | ((with_reducible apply Upd.go (dieRetire_upd _ _ _)); rotate_left; exact rfl)

theorem retGo_upd (s : State) : Upd [.retQueue] s (retGo s) := by
  unfold retGo
  repeat' first
    | intro _
    | with_reducible assumption
    | with_reducible exact Upd.refl _
    | (extract_lets -underBinder +onlyGivenNames x; (with_reducible refine Upd.cut x ?_ ?_); rotate_left; (clear_value x; revert x; intro _ _); rotate_right; subst x)
    | (extract_lets -underBinder +onlyGivenNames x; clear_value x; revert x; intro _)
    | with_reducible apply Upd.ite <;> intro _
    | split
    | ((with_reducible apply Upd.set_retQueue); rotate_left; exact rfl)

theorem execRetGo_upd (s : State) : UpdR [.retQueue] s (execRetGo s) := by
  unfold execRetGo
  repeat' first
    | intro _
    | with_reducible assumption
    | with_reducible exact Upd.refl _
    | with_reducible apply UpdR.next
    | ((with_reducible apply Upd.go (retGo_upd _)); rotate_left; exact rfl)

end Sys2Proof.Machine
end

