-- ==== Sys2Proof/Laws/UpdDrover.lean ====
section
/-!
SUPPORT. What each operation of Machine/Drover can change, and that it keeps the canonical form.
-/

namespace Sys2Proof.Machine

set_option maxRecDepth 4000
set_option linter.all false

theorem putPool_upd (n : Nat) (i : Nat) (x : Pool) (s : State) : Upd [.drovers] s (putPool n i x s) := by
  unfold putPool
  repeat' first
    | intro _
    | with_reducible assumption
    | with_reducible exact Upd.refl _
    | ((with_reducible apply Upd.go (putDrover_upd _ _ _)); rotate_left; exact rfl)

theorem allocFrame_upd (n : Nat) (i : Nat) (src : DrSource) (page : Nat) (heat : Nat) (s : State) : UpdS [.regDrv, .drovers] s (allocFrame
    n i src page heat s) := by
  unfold allocFrame
  repeat' first
    | intro _
    | with_reducible assumption
    | with_reducible exact Upd.refl _
    | ((with_reducible apply UpdS.snd); with_reducible assumption)
    | (extract_lets -underBinder +onlyGivenNames x; (with_reducible refine UpdS.cut x ?_ ?_); rotate_left; (clear_value x; revert x; intro _ _); rotate_right; subst x)
    | (extract_lets -underBinder +onlyGivenNames x; (with_reducible refine Upd.cut x ?_ ?_); rotate_left; (clear_value x; revert x; intro _ _); rotate_right; subst x)
    | (extract_lets -underBinder +onlyGivenNames x; clear_value x; revert x; intro _)
    | with_reducible apply Upd.ite <;> intro _
    | with_reducible apply UpdS.ite <;> intro _
    | ((with_reducible apply Upd.go (counti_upd _ _ _ _ _)); rotate_left; exact rfl)
    | ((with_reducible apply Upd.go (putPool_upd _ _ _ _)); rotate_left; exact rfl)
    | with_reducible apply UpdS.mk
    | dsimp only
    | split

theorem issueRead_upd (n : Nat) (who : Nat × Nat × Nat) (seg : Nat) (page : Nat) (frame : Option (Nat × Nat)) (s : State) : Upd [.drovers]
    s (issueRead n who seg page frame s) := by
  unfold issueRead
  repeat' first
    | intro _
    | with_reducible assumption
    | with_reducible exact Upd.refl _
    | (extract_lets -underBinder +onlyGivenNames x; (with_reducible refine Upd.cut x ?_ ?_); rotate_left; (clear_value x; revert x; intro _ _); rotate_right; subst x)
    | (extract_lets -underBinder +onlyGivenNames x; clear_value x; revert x; intro _)
    | with_reducible apply Upd.ite <;> intro _
    | ((with_reducible apply Upd.go (putDrover_upd _ _ _)); rotate_left; exact rfl)

theorem touchFrame_upd (n : Nat) (i : Nat) (f : Nat) (s : State) : Upd [.drovers] s (touchFrame n i f s) := by
  unfold touchFrame
  repeat' first
    | intro _
    | with_reducible assumption
    | with_reducible exact Upd.refl _
    | (extract_lets -underBinder +onlyGivenNames x; (with_reducible refine Upd.cut x ?_ ?_); rotate_left; (clear_value x; revert x; intro _ _); rotate_right; subst x)
    | (extract_lets -underBinder +onlyGivenNames x; clear_value x; revert x; intro _)
    | ((with_reducible apply Upd.go (putPool_upd _ _ _ _)); rotate_left; exact rfl)

theorem pinFrame_upd (n : Nat) (i : Nat) (f : Nat) (id : Nat) (s : State) : Upd [.drovers] s (pinFrame n i f id s) := by
  unfold pinFrame
  repeat' first
    | intro _
    | with_reducible assumption
    | with_reducible exact Upd.refl _
    | (extract_lets -underBinder +onlyGivenNames x; (with_reducible refine Upd.cut x ?_ ?_); rotate_left; (clear_value x; revert x; intro _ _); rotate_right; subst x)
    | (extract_lets -underBinder +onlyGivenNames x; clear_value x; revert x; intro _)
    | with_reducible apply Upd.ite <;> intro _
    | ((with_reducible apply Upd.go (putPool_upd _ _ _ _)); rotate_left; exact rfl)
    | split

theorem drIndices_upd (g : Nat) (c : Ctx) (x : DrBody) (s : State) : UpdS [.outbox, .freeCtr, .regIrq, .regErr, .regSpd, .regFlt, .spads,
    .ceWins] s (drIndices g c x s) := by
  unfold drIndices
  repeat' first
    | intro _
    | with_reducible assumption
    | with_reducible exact Upd.refl _
    | ((with_reducible apply UpdS.snd); with_reducible assumption)
    | (extract_lets -underBinder +onlyGivenNames x; (with_reducible refine UpdS.cut x ?_ ?_); rotate_left; (clear_value x; revert x; intro _ _); rotate_right; subst x)
    | (extract_lets -underBinder +onlyGivenNames x; (with_reducible refine Upd.cut x ?_ ?_); rotate_left; (clear_value x; revert x; intro _ _); rotate_right; subst x)
    | (extract_lets -underBinder +onlyGivenNames x; (with_reducible refine UpdS.cutSnd x ?_ ?_); rotate_left; (clear_value x; revert x; intro _ _); rotate_right; subst x)
    | (extract_lets -underBinder +onlyGivenNames x; (with_reducible refine Upd.cutSnd x ?_ ?_); rotate_left; (clear_value x; revert x; intro _ _); rotate_right; subst x)
    | (extract_lets -underBinder +onlyGivenNames x; clear_value x; revert x; intro _)
    | ((with_reducible apply Upd.go (takeSlots_upd _ _ _ _)); rotate_left; exact rfl)
    | ((with_reducible apply Upd.goS (readSec_upd _ _ _ _)); rotate_left; exact rfl)
    | ((with_reducible apply UpdS.go (readSec_upd _ _ _ _)); rotate_left; exact rfl)
    | with_reducible apply UpdS.mk
    | dsimp only
    | ((with_reducible apply UpdS.of_eq); with_reducible assumption)
    | split

theorem recPieces_upd (g : Nat) (c : Nat) (x : DrBody) (run : Run) (t : Tensor) (i : Nat) (s : State) : UpdS [.outbox, .freeCtr, .regIrq,
    .regErr, .regLdg, .regTmv, .regBku, .regMcs, .regFlt, .ldgSeq, .ldgLost, .ctxs, .dram, .dramChk, .chans, .units, .flights, .snoop,
    .biWait, .ceWins, .servedBytes] s (recPieces g c x run t i s) := by
  unfold recPieces
  repeat' first
    | intro _
    | with_reducible assumption
    | with_reducible exact Upd.refl _
    | ((with_reducible apply UpdS.snd); with_reducible assumption)
    | (extract_lets -underBinder +onlyGivenNames x; (with_reducible refine UpdS.cut x ?_ ?_); rotate_left; (clear_value x; revert x; intro _ _); rotate_right; subst x)
    | (extract_lets -underBinder +onlyGivenNames x; (with_reducible refine Upd.cut x ?_ ?_); rotate_left; (clear_value x; revert x; intro _ _); rotate_right; subst x)
    | (extract_lets -underBinder +onlyGivenNames x; (with_reducible refine UpdS.cutSnd x ?_ ?_); rotate_left; (clear_value x; revert x; intro _ _); rotate_right; subst x)
    | (extract_lets -underBinder +onlyGivenNames x; (with_reducible refine Upd.cutSnd x ?_ ?_); rotate_left; (clear_value x; revert x; intro _ _); rotate_right; subst x)
    | (extract_lets -underBinder +onlyGivenNames x; clear_value x; revert x; intro _)
    | with_reducible apply Upd.ite <;> intro _
    | with_reducible apply UpdS.ite <;> intro _
    | ((with_reducible apply Upd.goS (xlateSpan_upd _ _ _ _ _ _ _ _)); rotate_left; exact rfl)
    | ((with_reducible apply UpdS.go (xlateSpan_upd _ _ _ _ _ _ _ _)); rotate_left; exact rfl)
    | with_reducible apply UpdS.mk
    | dsimp only
    | ((with_reducible apply UpdS.of_eq); with_reducible assumption)
    | split

theorem planRecs_upd (g : Nat) (c : Nat) (x : DrBody) (run : Run) (t : Tensor) (seg : Segment) (ax : List ((Nat × Bool) × Nat)) (bx : List
    DrRec) (s : State) : UpdS [.outbox, .freeCtr, .regIrq, .regErr, .regLdg, .regTmv, .regBku, .regMcs, .regFlt, .ldgSeq, .ldgLost, .ctxs,
    .dram, .dramChk, .chans, .units, .flights, .snoop, .biWait, .ceWins, .servedBytes] s (planRecs g c x run t seg ax bx s) := by
  induction ax generalizing bx s with
  | nil =>
    unfold planRecs
    exact Upd.refl _
  | cons e es ih =>
  unfold planRecs
  repeat' first
    | intro _
    | with_reducible assumption
    | ((with_reducible apply UpdS.go (ih _ _)); rotate_left; exact rfl)
    | ((with_reducible apply UpdS.snd); with_reducible assumption)
    | ((with_reducible apply Upd.goS (ih _ _)); rotate_left; exact rfl)
    | with_reducible exact Upd.refl _
    | (extract_lets -underBinder +onlyGivenNames x; (with_reducible refine UpdS.cut x ?_ ?_); rotate_left; (clear_value x; revert x; intro _ _); rotate_right; subst x)
    | (extract_lets -underBinder +onlyGivenNames x; (with_reducible refine Upd.cut x ?_ ?_); rotate_left; (clear_value x; revert x; intro _ _); rotate_right; subst x)
    | (extract_lets -underBinder +onlyGivenNames x; (with_reducible refine UpdS.cutSnd x ?_ ?_); rotate_left; (clear_value x; revert x; intro _ _); rotate_right; subst x)
    | (extract_lets -underBinder +onlyGivenNames x; (with_reducible refine Upd.cutSnd x ?_ ?_); rotate_left; (clear_value x; revert x; intro _ _); rotate_right; subst x)
    | (extract_lets -underBinder +onlyGivenNames x; clear_value x; revert x; intro _)
    | with_reducible apply Upd.ite <;> intro _
    | with_reducible apply UpdS.ite <;> intro _
    | ((with_reducible apply Upd.goS (recPieces_upd _ _ _ _ _ _ _)); rotate_left; exact rfl)
    | ((with_reducible apply UpdS.go (recPieces_upd _ _ _ _ _ _ _)); rotate_left; exact rfl)
    | with_reducible apply UpdS.mk
    | dsimp only
    | ((with_reducible apply UpdS.of_eq); with_reducible assumption)
    | split

theorem drWrite_upd (ps : List (Nat × Nat)) (bytes : List Byte) (bad : Bool) (s : State) : Upd [.outbox, .freeCtr, .regIrq, .regErr,
    .regLdg, .regBku, .regMcs, .regFlt, .ldgSeq, .ldgLost, .dram, .dramChk, .chans, .units, .flights, .snoop, .biWait, .ceWins,
    .servedBytes] s (drWrite ps bytes bad s) := by
  unfold drWrite
  repeat' first
    | intro _
    | with_reducible assumption
    | with_reducible exact Upd.refl _
    | ((with_reducible apply UpdS.snd); with_reducible assumption)
    | with_reducible apply Upd.foldl
    | with_reducible apply UpdS.foldl
    | ((with_reducible apply UpdS.snd); with_reducible apply UpdS.foldl)
    | ((with_reducible apply Upd.go (writeSpan_upd _ _ _ _ _)); rotate_left; exact rfl)
    | with_reducible apply UpdS.mk
    | dsimp only

theorem drMiss_upd (n : Nat) (i : Nat) (who : Nat × Nat × Nat) (src : DrSource) (page : Nat) (heatMin : Nat) (s : State) : Upd [.regDrv,
    .drovers] s (drMiss n i who src page heatMin s) := by
  unfold drMiss
  repeat' first
    | intro _
    | with_reducible assumption
    | with_reducible exact Upd.refl _
    | ((with_reducible apply UpdS.snd); with_reducible assumption)
    | (extract_lets -underBinder +onlyGivenNames x; (with_reducible refine Upd.cut x ?_ ?_); rotate_left; (clear_value x; revert x; intro _ _); rotate_right; subst x)
    | (extract_lets -underBinder +onlyGivenNames x; (with_reducible refine Upd.cutSnd x ?_ ?_); rotate_left; (clear_value x; revert x; intro _ _); rotate_right; subst x)
    | (extract_lets -underBinder +onlyGivenNames x; clear_value x; revert x; intro _)
    | with_reducible apply Upd.ite <;> intro _
    | with_reducible apply UpdS.ite <;> intro _
    | ((with_reducible apply Upd.go (counti_upd _ _ _ _ _)); rotate_left; exact rfl)
    | ((with_reducible apply Upd.go (putPool_upd _ _ _ _)); rotate_left; exact rfl)
    | ((with_reducible apply Upd.goS (allocFrame_upd _ _ _ _ _ _)); rotate_left; exact rfl)
    | ((with_reducible apply UpdS.go (allocFrame_upd _ _ _ _ _ _)); rotate_left; exact rfl)
    | ((with_reducible apply Upd.go (issueRead_upd _ _ _ _ _ _)); rotate_left; exact rfl)
    | with_reducible apply UpdS.mk

theorem serveRec_upd {m : List Part} {o : State} {n i : Nat} {src : DrSource} {recB heatMin : Nat} {r : DrRec} {acc : DrWork × State}
    (h : UpdS m o acc) (hm : within [.outbox, .freeCtr, .regIrq, .regErr, .regLdg, .regBku, .regMcs, .regDrv, .regFlt, .ldgSeq, .ldgLost, .dram, .dramChk, .chans, .units, .flights, .snoop, .biWait, .ceWins, .drovers, .servedBytes] m = true) : UpdE m o (serveRec n i src recB heatMin r acc) := by
  unfold serveRec
  extract_lets -underBinder w s
  have hs : Upd m o s := h
  split
  · exact UpdE.ok (UpdS.mk (Upd.go (drWrite_upd _ _ _ _) (Upd.go (freshNext_upd _) hs (within_trans rfl hm)) (within_trans rfl hm)))
  · split
    · next f v he =>
      split
      · exact UpdE.ok (UpdS.mk (Upd.go (drMiss_upd _ _ _ _ _ _ _) hs (within_trans rfl hm)))
      · extract_lets -underBinder ad
        split
        · exact UpdE.error
        · have hr : UpdS m o (readSpan droverPortAt ad recB (touchFrame n i f (counti (drvPage n) .drvHits i 1 s))) :=
            UpdS.go (readSpan_upd _ _ _ _) (Upd.go (touchFrame_upd _ _ _ _) (Upd.go (counti_upd _ _ _ _ _) hs (within_trans rfl hm))
              (within_trans rfl hm)) (within_trans rfl hm)
          exact UpdE.ok (UpdS.mk (Upd.go (drWrite_upd _ _ _ _) hr.snd (within_trans rfl hm)))
    · exact UpdE.ok (UpdS.mk (Upd.go (drMiss_upd _ _ _ _ _ _ _) hs (within_trans rfl hm)))

theorem serveRecs_upd {m : List Part} {o : State} {n i : Nat} {src : DrSource} {recB heatMin : Nat} {l : List DrRec} {acc : DrWork × State}
    (h : UpdS m o acc) (hm : within [.outbox, .freeCtr, .regIrq, .regErr, .regLdg, .regBku, .regMcs, .regDrv, .regFlt, .ldgSeq, .ldgLost, .dram, .dramChk, .chans, .units, .flights, .snoop, .biWait, .ceWins, .drovers, .servedBytes] m = true) : UpdE m o (serveRecs n i src recB heatMin l acc) := by
  induction l generalizing acc with
  | nil => exact UpdE.ok h
  | cons r rs ih =>
    unfold serveRecs
    split
    · exact UpdE.error
    · exact ih ((serveRec_upd h hm).of _ ‹_›)

theorem drStarted_upd (g : Nat) (c : Nat) (w : Work) (n : Nat) (x : DrWork) (s : State) : Upd [.outbox, .regIrq, .regErr, .regSpd,
    .regFlt, .ctxs, .runs, .engines, .spads, .spad, .spadChk, .ceWins, .drovers] s (drStarted g c w n x s) := by
  unfold drStarted
  repeat' first
    | intro _
    | with_reducible assumption
    | with_reducible exact Upd.refl _
    | (extract_lets -underBinder +onlyGivenNames x; (with_reducible refine Upd.cut x ?_ ?_); rotate_left; (clear_value x; revert x; intro _ _); rotate_right; subst x)
    | (extract_lets -underBinder +onlyGivenNames x; clear_value x; revert x; intro _)
    | with_reducible apply Upd.ite <;> intro _
    | ((with_reducible apply Upd.go (putDrover_upd _ _ _)); rotate_left; exact rfl)
    | ((with_reducible apply Upd.go (mapWork_upd _ _ _ _ _ _)); rotate_left; exact rfl)
    | ((with_reducible apply Upd.go (engineFree_upd _ _ _ _ _)); rotate_left; exact rfl)
    | ((with_reducible apply Upd.go (endWork_upd _ _ _ _ _ _ _ _)); rotate_left; exact rfl)

theorem drAgain_upd (who : Option (Nat × Nat × Nat × Nat)) (e : MemStop) (s : State) : Upd [.outbox, .regMcs, .chans, .biWait] s (drAgain
    who e s) := by
  unfold drAgain
  repeat' first
    | intro _
    | with_reducible assumption
    | with_reducible exact Upd.refl _
    | (extract_lets -underBinder +onlyGivenNames x; (with_reducible refine Upd.cut x ?_ ?_); rotate_left; (clear_value x; revert x; intro _ _); rotate_right; subst x)
    | (extract_lets -underBinder +onlyGivenNames x; clear_value x; revert x; intro _)
    | ((with_reducible apply Upd.go (noteWaits_upd _ _ _ _)); rotate_left; exact rfl)
    | ((with_reducible apply Upd.go (snoopLines_upd _ _)); rotate_left; exact rfl)
    | split

theorem drUndefine_upd (recs : List DrRec) (s : State) : Upd [.outbox, .freeCtr, .regIrq, .regErr, .regLdg, .regBku, .regMcs, .regFlt,
    .ldgSeq, .ldgLost, .dram, .dramChk, .chans, .units, .flights, .snoop, .biWait, .ceWins, .servedBytes] s (drUndefine recs s) := by
  unfold drUndefine
  repeat' first
    | intro _
    | with_reducible assumption
    | with_reducible exact Upd.refl _
    | ((with_reducible apply UpdS.snd); with_reducible assumption)
    | (extract_lets -underBinder +onlyGivenNames x; (with_reducible refine Upd.cut x ?_ ?_); rotate_left; (clear_value x; revert x; intro _ _); rotate_right; subst x)
    | (extract_lets -underBinder +onlyGivenNames x; (with_reducible refine Upd.cutSnd x ?_ ?_); rotate_left; (clear_value x; revert x; intro _ _); rotate_right; subst x)
    | (extract_lets -underBinder +onlyGivenNames x; clear_value x; revert x; intro _)
    | with_reducible apply Upd.foldl
    | with_reducible apply UpdS.foldl
    | ((with_reducible apply UpdS.snd); with_reducible apply UpdS.foldl)
    | ((with_reducible apply Upd.goS (freeBytes_upd _ _)); rotate_left; exact rfl)
    | ((with_reducible apply UpdS.go (freeBytes_upd _ _)); rotate_left; exact rfl)
    | ((with_reducible apply Upd.go (drWrite_upd _ _ _ _)); rotate_left; exact rfl)
    | with_reducible apply UpdS.mk
    | dsimp only

theorem idxRelease_upd (g : Nat) (c : Nat) (w : Work) (s : State) : Upd [.outbox, .regIrq, .regErr, .regSpd, .regFlt, .ctxs, .spads,
    .spad, .spadChk, .ceWins] s (idxRelease g c w s) := by
  unfold idxRelease
  repeat' first
    | intro _
    | with_reducible assumption
    | with_reducible exact Upd.refl _
    | (extract_lets -underBinder +onlyGivenNames x; (with_reducible refine Upd.cut x ?_ ?_); rotate_left; (clear_value x; revert x; intro _ _); rotate_right; subst x)
    | (extract_lets -underBinder +onlyGivenNames x; clear_value x; revert x; intro _)
    | ((with_reducible apply Upd.go (sbRelease_upd _ _ _ _ _ _)); rotate_left; exact rfl)
    | ((with_reducible apply Upd.go (mapWork_upd _ _ _ _ _ _)); rotate_left; exact rfl)

/-- What `drFetch` may change. -/
def drFetch_parts : List Part :=
  [.outbox, .freeCtr, .regIrq, .regErr, .regLdg, .regSpd, .regTmv, .regBku, .regMcs, .regDrv, .regFlt, .ldgSeq, .ldgLost, .ctxs, .runs,
   .engines, .spads, .spad, .spadChk, .dram, .dramChk, .chans, .units, .flights, .snoop, .biWait, .ceWins, .drovers, .servedBytes]

theorem drFetch_upd (g : Nat) (c : Nat) (w : Work) (s : State) : Upd drFetch_parts s (drFetch g c w s) := by
  unfold drFetch
  extract_lets -underBinder n cx x run dst fault
  have h0 := Upd.refl (m := drFetch_parts) s
  have hf : ∀ code operand info entry t, Upd drFetch_parts s t → Upd drFetch_parts s (fault code operand info entry t) :=
    fun _ _ _ _ _ ht => Upd.go (tmFault_upd _ _ _ _ _ _ _ _ _) ht rfl
  refine Upd.ite (fun _ => hf _ _ _ _ _ h0) fun _ => Upd.ite (fun _ => hf _ _ _ _ _ h0) fun _ => ?_
  split
  · exact hf _ _ _ _ _ h0
  · extract_lets -underBinder ix p
    have hi : UpdS drFetch_parts s ix := UpdS.go (drIndices_upd _ _ _ _) h0 rfl
    have hp : UpdS drFetch_parts s p := UpdS.go (planRecs_upd _ _ _ _ _ _ _ _ _) hi.snd rfl
    split
    · exact hf _ _ _ _ _ (Upd.go (drUndefine_upd _ _) hp.snd rfl)
    · exact hf _ _ _ _ _ (Upd.go (drUndefine_upd _ _) hp.snd rfl)
    · exact Upd.go (drAgain_upd _ _ _) h0 rfl
    · split
      · exact Upd.go (drAgain_upd _ _ _) h0 rfl
      · split
        · exact Upd.go (drAgain_upd _ _ _) h0 rfl
        · exact Upd.go (drStarted_upd _ _ _ _ _ _) (Upd.go (idxRelease_upd _ _ _ _)
          ((serveRecs_upd (m := drFetch_parts) (UpdS.mk hp.snd) rfl).of _ ‹_›) rfl) rfl

theorem promotePage_upd {m : List Part} {o : State} {n i id : Nat} {src : DrSource} {pin : Bool} {page : Nat} {acc : DrWork × State}
    (h : UpdS m o acc) (hm : within [.regDrv, .drovers] m = true) : UpdS m o (promotePage n i id src pin page acc) := by
  unfold promotePage
  extract_lets -underBinder w s pinIf
  have hs : Upd m o s := h
  have hp : ∀ f t, Upd m o t → Upd m o (pinIf f t) := fun f t ht =>
    Upd.ite (fun _ => Upd.go (pinFrame_upd _ _ _ _ _) ht (within_trans rfl hm)) fun _ => ht
  split
  · next f v he =>
    have h1 : Upd m o (touchFrame n i f s) := Upd.go (touchFrame_upd _ _ _ _) hs (within_trans rfl hm)
    exact UpdS.ite (fun _ => UpdS.mk (hp _ _ h1)) fun _ => UpdS.mk (hp _ _ h1)
  · extract_lets al
    have ha : UpdS m o al := UpdS.go (allocFrame_upd _ _ _ _ _ _) hs (within_trans rfl hm)
    split
    · exact UpdS.mk ha.snd
    · exact UpdS.mk (Upd.go (issueRead_upd _ _ _ _ _ _) (hp _ _ (Upd.go (counti_upd _ _ _ _ _) ha.snd (within_trans rfl hm))) (within_trans rfl hm))

theorem drPromote_upd (g : Nat) (c : Nat) (w : Work) (s : State) : Upd [.outbox, .freeCtr, .regIrq, .regErr, .regSpd, .regTmv, .regDrv,
    .regFlt, .ctxs, .runs, .engines, .spads, .spad, .spadChk, .ceWins, .drovers] s (drPromote g c w s) := by
  unfold drPromote
  extract_lets -underBinder n cx x fault
  have h0 := Upd.refl (m := [.outbox, .freeCtr, .regIrq, .regErr, .regSpd, .regTmv, .regDrv, .regFlt, .ctxs, .runs, .engines, .spads, .spad, .spadChk, .ceWins, .drovers]) s
  have hf : ∀ code operand info t, Upd [.outbox, .freeCtr, .regIrq, .regErr, .regSpd, .regTmv, .regDrv, .regFlt, .ctxs, .runs, .engines, .spads, .spad, .spadChk, .ceWins, .drovers] s t → Upd [.outbox, .freeCtr, .regIrq, .regErr, .regSpd, .regTmv, .regDrv, .regFlt, .ctxs, .runs, .engines, .spads, .spad, .spadChk, .ceWins, .drovers] s (fault code operand info t) :=
    fun _ _ _ _ ht => Upd.go (tmFault_upd _ _ _ _ _ _ _ _ _) ht rfl
  refine Upd.ite (fun _ => hf _ _ _ _ h0) fun _ => ?_
  split
  · exact hf _ _ _ _ h0
  · extract_lets -underBinder ix pages
    have hi : UpdS [.outbox, .freeCtr, .regIrq, .regErr, .regSpd, .regTmv, .regDrv, .regFlt, .ctxs, .runs, .engines, .spads, .spad, .spadChk, .ceWins, .drovers] s ix := UpdS.go (drIndices_upd _ _ _ _) h0 rfl
    split
    · exact hf _ _ _ _ hi.snd
    · exact Upd.go (drStarted_upd _ _ _ _ _ _) (Upd.go (idxRelease_upd _ _ _ _)
        (UpdS.snd (m := [.outbox, .freeCtr, .regIrq, .regErr, .regSpd, .regTmv, .regDrv, .regFlt, .ctxs, .runs, .engines, .spads, .spad, .spadChk, .ceWins, .drovers]) (UpdS.foldl (UpdS.mk hi.snd) fun a e ha => promotePage_upd ha rfl)) rfl) rfl

theorem drUnpin_upd (g : Nat) (c : Nat) (w : Work) (s : State) : Upd [.outbox, .regIrq, .regErr, .regSpd, .regTmv, .regFlt, .ctxs, .runs,
    .engines, .spads, .spad, .spadChk, .ceWins, .drovers] s (drUnpin g c w s) := by
  unfold drUnpin
  repeat' first
    | intro _
    | with_reducible assumption
    | with_reducible exact Upd.refl _
    | (extract_lets -underBinder +onlyGivenNames x; (with_reducible refine Upd.cut x ?_ ?_); rotate_left; (clear_value x; revert x; intro _ _); rotate_right; subst x)
    | (extract_lets -underBinder +onlyGivenNames x; clear_value x; revert x; intro _)
    | with_reducible apply Upd.ite <;> intro _
    | ((with_reducible apply Upd.go (endWork_upd _ _ _ _ _ _ _ _)); rotate_left; exact rfl)
    | ((with_reducible apply Upd.go (tmFault_upd _ _ _ _ _ _ _ _ _)); rotate_left; exact rfl)
    | ((with_reducible apply Upd.go (putPool_upd _ _ _ _)); rotate_left; exact rfl)

theorem drRun_upd {m : List Part} {a s : State} {g c type : Nat} {act : Work → State → State} (h : Upd m a s)
    (hf : ∀ w t, Upd m a t → Upd m a (act w t)) : Upd m a (drRun g c type act s) := by
  unfold drRun
  split
  · exact h
  · exact Upd.ite (fun _ => h) fun _ => hf _ _ h

theorem execDrFetch_upd (core : Nat) (ctx : Nat) (s : State) : UpdR drFetch_parts s (execDrFetch core ctx s) := by
  unfold execDrFetch
  repeat' first
    | intro _
    | with_reducible assumption
    | with_reducible exact Upd.refl _
    | with_reducible apply UpdR.next
    | ((with_reducible apply Upd.go (drFetch_upd _ _ _ _)); rotate_left; exact rfl)
    | with_reducible apply drRun_upd

theorem execDrPromote_upd (core : Nat) (ctx : Nat) (s : State) : UpdR [.outbox, .freeCtr, .regIrq, .regErr, .regSpd, .regTmv, .regDrv,
    .regFlt, .ctxs, .runs, .engines, .spads, .spad, .spadChk, .ceWins, .drovers] s (execDrPromote core ctx s) := by
  unfold execDrPromote
  repeat' first
    | intro _
    | with_reducible assumption
    | with_reducible exact Upd.refl _
    | with_reducible apply UpdR.next
    | ((with_reducible apply Upd.go (drPromote_upd _ _ _ _)); rotate_left; exact rfl)
    | with_reducible apply drRun_upd

theorem execDrUnpin_upd (core : Nat) (ctx : Nat) (s : State) : UpdR [.outbox, .regIrq, .regErr, .regSpd, .regTmv, .regFlt, .ctxs, .runs,
    .engines, .spads, .spad, .spadChk, .ceWins, .drovers] s (execDrUnpin core ctx s) := by
  unfold execDrUnpin
  repeat' first
    | intro _
    | with_reducible assumption
    | with_reducible exact Upd.refl _
    | with_reducible apply UpdR.next
    | ((with_reducible apply Upd.go (drUnpin_upd _ _ _ _)); rotate_left; exact rfl)
    | with_reducible apply drRun_upd

theorem landFrame_upd (n : Nat) (bad : Bool) (e : Nat × Nat) (s : State) : Upd [.regDrv, .drovers] s (landFrame n bad e s) := by
  unfold landFrame
  repeat' first
    | intro _
    | with_reducible assumption
    | with_reducible exact Upd.refl _
    | (extract_lets -underBinder +onlyGivenNames x; (with_reducible refine Upd.cut x ?_ ?_); rotate_left; (clear_value x; revert x; intro _ _); rotate_right; subst x)
    | (extract_lets -underBinder +onlyGivenNames x; clear_value x; revert x; intro _)
    | with_reducible apply Upd.ite <;> intro _
    | ((with_reducible apply Upd.go (counti_upd _ _ _ _ _)); rotate_left; exact rfl)
    | ((with_reducible apply Upd.go (putPool_upd _ _ _ _)); rotate_left; exact rfl)
    | split

theorem landWork_upd (n : Nat) (r : BulkRead) (bad : Bool) (w : DrWork) (s : State) : Upd [.outbox, .regIrq, .regErr, .regSpd, .regFlt,
    .ctxs, .runs, .engines, .spads, .spad, .spadChk, .ceWins, .drovers] s (landWork n r bad w s) := by
  unfold landWork
  repeat' first
    | intro _
    | with_reducible assumption
    | with_reducible exact Upd.refl _
    | (extract_lets -underBinder +onlyGivenNames x; (with_reducible refine Upd.cut x ?_ ?_); rotate_left; (clear_value x; revert x; intro _ _); rotate_right; subst x)
    | (extract_lets -underBinder +onlyGivenNames x; clear_value x; revert x; intro _)
    | with_reducible apply Upd.ite <;> intro _
    | ((with_reducible apply Upd.go (putDrover_upd _ _ _)); rotate_left; exact rfl)
    | ((with_reducible apply Upd.go (endWork_upd _ _ _ _ _ _ _ _)); rotate_left; exact rfl)
    | split

/-- What `bulkLand` may change. -/
def bulkLand_parts : List Part :=
  [.outbox, .freeCtr, .regCtl, .regIrq, .regLock, .regSet, .regErr, .regMs, .regEpo, .regLdg, .regSerai, .regEng, .regSpd, .regTmv, .regBkc,
   .regBku, .regMcs, .regDrv, .regBlk, .regRcv, .regFlt, .regEvl, .regOpt, .regBay, .regSes, .regRng, .regHif, .regSec, .regPwr, .regThm,
   .regClk, .regMgt, .staging, .prevSet, .vslots, .floorAbove, .ldgSeq, .ldgLost, .ctxs, .runs, .engines, .spads, .spad, .spadChk, .dram,
   .dramChk, .chans, .units, .flights, .snoop, .biWait, .ceWins, .drovers, .servedBytes, .fwSlots]

theorem bulkLand_upd (b : Nat) (pos : Nat) (attempts : Nat) (poisoned : Bool) (s : State) : Upd bulkLand_parts s (bulkLand b pos attempts
    poisoned s) := by
  unfold bulkLand
  repeat' first
    | intro _
    | with_reducible assumption
    | with_reducible exact Upd.refl _
    | ((with_reducible apply UpdS.snd); with_reducible assumption)
    | (extract_lets -underBinder +onlyGivenNames x; (with_reducible refine Upd.cut x ?_ ?_); rotate_left; (clear_value x; revert x; intro _ _); rotate_right; subst x)
    | (extract_lets -underBinder +onlyGivenNames x; clear_value x; revert x; intro _)
    | with_reducible apply Upd.ite <;> intro _
    | with_reducible apply Upd.foldl
    | with_reducible apply UpdS.foldl
    | ((with_reducible apply UpdS.snd); with_reducible apply UpdS.foldl)
    | with_reducible apply UpdO.orElse
    | with_reducible apply Upd.getD
    | ((with_reducible apply Upd.go (count_upd _ _ _ _)); rotate_left; exact rfl)
    | ((with_reducible apply Upd.go (writeSpan_upd _ _ _ _ _)); rotate_left; exact rfl)
    | ((with_reducible apply Upd.go (putDrover_upd _ _ _)); rotate_left; exact rfl)
    | ((with_reducible apply Upd.go (epochSettle_upd _)); rotate_left; exact rfl)
    | ((with_reducible apply Upd.go (relocate_upd _ _ _)); rotate_left; exact rfl)
    | ((with_reducible apply Upd.go (drAgain_upd _ _ _)); rotate_left; exact rfl)
    | ((with_reducible apply Upd.go (landFrame_upd _ _ _ _)); rotate_left; exact rfl)
    | ((with_reducible apply Upd.go (landWork_upd _ _ _ _ _)); rotate_left; exact rfl)
    | with_reducible apply UpdS.mk
    | dsimp only
    | split

theorem execBulkPageLand_upd (stack : Nat) (pos : Nat) (attempts : Nat) (poisoned : Bool) (s : State) : UpdR bulkLand_parts s
    (execBulkPageLand stack pos attempts poisoned s) := by
  unfold execBulkPageLand
  repeat' first
    | intro _
    | with_reducible assumption
    | with_reducible exact Upd.refl _
    | with_reducible apply UpdR.next
    | ((with_reducible apply Upd.go (bulkLand_upd _ _ _ _ _)); rotate_left; exact rfl)

theorem poolOff_upd (n : Nat) (i : Nat) (s : State) : Upd epochSettle_parts s (poolOff n i s) := by
  unfold poolOff
  repeat' first
    | intro _
    | with_reducible assumption
    | with_reducible exact Upd.refl _
    | ((with_reducible apply Upd.go (wri_upd _ _ _ _ _)); rotate_left; exact rfl)
    | ((with_reducible apply Upd.go (epochSettle_upd _)); rotate_left; exact rfl)
    | ((with_reducible apply Upd.go (putPool_upd _ _ _ _)); rotate_left; exact rfl)

theorem poolEnable_upd (n : Nat) (i : Nat) (v : Nat) (s : State) : Upd epochSettle_parts s (poolEnable n i v s) := by
  unfold poolEnable
  repeat' first
    | intro _
    | with_reducible assumption
    | with_reducible exact Upd.refl _
    | (extract_lets -underBinder +onlyGivenNames x; (with_reducible refine Upd.cut x ?_ ?_); rotate_left; (clear_value x; revert x; intro _ _); rotate_right; subst x)
    | (extract_lets -underBinder +onlyGivenNames x; clear_value x; revert x; intro _)
    | with_reducible apply Upd.ite <;> intro _
    | ((with_reducible apply Upd.go (wri_upd _ _ _ _ _)); rotate_left; exact rfl)
    | ((with_reducible apply Upd.go (wr_upd _ _ _ _)); rotate_left; exact rfl)
    | ((with_reducible apply Upd.go (putPool_upd _ _ _ _)); rotate_left; exact rfl)
    | ((with_reducible apply Upd.go (poolOff_upd _ _ _)); rotate_left; exact rfl)

theorem execPoolEnWrite_upd (dr : Nat) (pool : Nat) (value : Nat) (s : State) : UpdR epochSettle_parts s (execPoolEnWrite dr pool value s)
    := by
  unfold execPoolEnWrite
  repeat' first
    | intro _
    | with_reducible assumption
    | with_reducible exact Upd.refl _
    | with_reducible apply Upd.ite <;> intro _
    | with_reducible apply UpdR.ite <;> intro _
    | with_reducible apply UpdR.next
    | ((with_reducible apply Upd.go (wr_upd _ _ _ _)); rotate_left; exact rfl)
    | ((with_reducible apply Upd.go (poolEnable_upd _ _ _ _)); rotate_left; exact rfl)

theorem execPoolDisabled_upd (dr : Nat) (pool : Nat) (s : State) : UpdR epochSettle_parts s (execPoolDisabled dr pool s) := by
  unfold execPoolDisabled
  repeat' first
    | intro _
    | with_reducible assumption
    | with_reducible exact Upd.refl _
    | (extract_lets -underBinder +onlyGivenNames x; (with_reducible refine UpdR.cut x ?_ ?_); rotate_left; (clear_value x; revert x; intro _ _); rotate_right; subst x)
    | (extract_lets -underBinder +onlyGivenNames x; (with_reducible refine Upd.cut x ?_ ?_); rotate_left; (clear_value x; revert x; intro _ _); rotate_right; subst x)
    | (extract_lets -underBinder +onlyGivenNames x; clear_value x; revert x; intro _)
    | with_reducible apply Upd.ite <;> intro _
    | with_reducible apply UpdR.ite <;> intro _
    | with_reducible apply UpdR.next
    | ((with_reducible apply Upd.go (poolOff_upd _ _ _)); rotate_left; exact rfl)

theorem droverReset_upd (n : Nat) (s : State) : Upd [.regDrv, .drovers] s (droverReset n s) := by
  unfold droverReset
  repeat' first
    | intro _
    | with_reducible assumption
    | with_reducible exact Upd.refl _
    | ((with_reducible apply UpdS.snd); with_reducible assumption)
    | (extract_lets -underBinder +onlyGivenNames x; (with_reducible refine Upd.cut x ?_ ?_); rotate_left; (clear_value x; revert x; intro _ _); rotate_right; subst x)
    | (extract_lets -underBinder +onlyGivenNames x; clear_value x; revert x; intro _)
    | with_reducible apply Upd.foldl
    | with_reducible apply UpdS.foldl
    | ((with_reducible apply UpdS.snd); with_reducible apply UpdS.foldl)
    | ((with_reducible apply Upd.go (wri_upd _ _ _ _ _)); rotate_left; exact rfl)
    | ((with_reducible apply Upd.go (putDrover_upd _ _ _)); rotate_left; exact rfl)
    | with_reducible apply UpdS.mk
    | dsimp only

end Sys2Proof.Machine
end

