-- ==== Sys2Proof/Laws/UpdRecovery.lean ====
section
/-!
SUPPORT. What each operation of Machine/Recovery can change, and that it keeps the canonical form.
-/

namespace Sys2Proof.Machine

set_option maxRecDepth 4000
set_option linter.all false

theorem putPartState_upd (n : Nat) (v : Nat) (s : State) : Upd [.regRcv] s (putPartState n v s) := by
  unfold putPartState
  repeat' first
    | intro _
    | with_reducible assumption
    | with_reducible exact Upd.refl _
    | ((with_reducible apply Upd.go (wri_upd _ _ _ _ _)); rotate_left; exact rfl)

theorem putRecov_upd (n : Nat) (r : Option Recov) (s : State) : Upd [.recov] s (putRecov n r s) := by
  unfold putRecov
  repeat' first
    | intro _
    | with_reducible assumption
    | with_reducible exact Upd.refl _
    | (extract_lets -underBinder +onlyGivenNames x; (with_reducible refine Upd.cut x ?_ ?_); rotate_left; (clear_value x; revert x; intro _ _); rotate_right; subst x)
    | (extract_lets -underBinder +onlyGivenNames x; clear_value x; revert x; intro _)
    | with_reducible apply SMap.wf_set
    | with_reducible apply SMap.wf_mapv
    | with_reducible apply SMap.wf_filter
    | with_reducible exact SMap.wf_nil
    | (first | with_reducible exact State.Ok.recov (by assumption))
    | ((with_reducible apply Upd.set_recov); rotate_left; exact rfl)

theorem dropSlots_upd (id : Nat) (s : State) : Upd [.ctxs, .sess] s (dropSlots id s) := by
  unfold dropSlots
  repeat' first
    | intro _
    | with_reducible assumption
    | with_reducible exact Upd.refl _
    | ((with_reducible apply UpdS.snd); with_reducible assumption)
    | (extract_lets -underBinder +onlyGivenNames x; (with_reducible refine Upd.cut x ?_ ?_); rotate_left; (clear_value x; revert x; intro _ _); rotate_right; subst x)
    | (extract_lets -underBinder +onlyGivenNames x; clear_value x; revert x; intro _)
    | with_reducible apply Upd.foldl
    | with_reducible apply UpdS.foldl
    | ((with_reducible apply UpdS.snd); with_reducible apply UpdS.foldl)
    | with_reducible apply Upd.getD
    | ((with_reducible apply Upd.go (putCtx_upd _ _ _)); rotate_left; exact rfl)
    | ((with_reducible apply Upd.go (cqUnreserve_upd _ _)); rotate_left; exact rfl)
    | with_reducible apply UpdS.mk
    | dsimp only

theorem dropJournal_upd (id : Nat) (s : State) : Upd [.ctxs, .sess] s (dropJournal id s) := by
  unfold dropJournal
  repeat' first
    | intro _
    | with_reducible assumption
    | with_reducible exact Upd.refl _
    | (extract_lets -underBinder +onlyGivenNames x; (with_reducible refine Upd.cut x ?_ ?_); rotate_left; (clear_value x; revert x; intro _ _); rotate_right; subst x)
    | (extract_lets -underBinder +onlyGivenNames x; clear_value x; revert x; intro _)
    | ((with_reducible apply Upd.go (putCtx_upd _ _ _)); rotate_left; exact rfl)
    | ((with_reducible apply Upd.go (dropSlots_upd _ _)); rotate_left; exact rfl)

theorem interruptCtx_upd (id : Nat) (s : State) : Upd [.ctxs, .sess] s (interruptCtx id s) := by
  unfold interruptCtx
  repeat' first
    | intro _
    | with_reducible assumption
    | with_reducible exact Upd.refl _
    | (extract_lets -underBinder +onlyGivenNames x; (with_reducible refine Upd.cut x ?_ ?_); rotate_left; (clear_value x; revert x; intro _ _); rotate_right; subst x)
    | (extract_lets -underBinder +onlyGivenNames x; clear_value x; revert x; intro _)
    | with_reducible apply Upd.ite <;> intro _
    | with_reducible apply UpdO.orElse
    | ((with_reducible apply Upd.go (putCtx_upd _ _ _)); rotate_left; exact rfl)
    | ((with_reducible apply Upd.go (dropJournal_upd _ _)); rotate_left; exact rfl)
    | split

theorem withdraw_upd (id : Nat) (a : SplitGen) (s : State) : Upd [.outbox, .regIrq, .regErr, .regLdg, .regMcs, .regFlt, .ldgSeq, .ldgLost,
    .ctxs, .serais, .dram, .dramChk, .chans, .units, .snoop, .biWait, .servedBytes] s (withdraw id a s) := by
  unfold withdraw
  repeat' first
    | intro _
    | with_reducible assumption
    | with_reducible exact Upd.refl _
    | (extract_lets -underBinder +onlyGivenNames x; (with_reducible refine Upd.cut x ?_ ?_); rotate_left; (clear_value x; revert x; intro _ _); rotate_right; subst x)
    | (extract_lets -underBinder +onlyGivenNames x; clear_value x; revert x; intro _)
    | with_reducible apply Upd.ite <;> intro _
    | ((with_reducible apply Upd.go (count_upd _ _ _ _)); rotate_left; exact rfl)
    | ((with_reducible apply Upd.go (putCtx_upd _ _ _)); rotate_left; exact rfl)
    | ((with_reducible apply Upd.go (ledger_upd _ _ _ _)); rotate_left; exact rfl)
    | ((with_reducible apply Upd.go (putBar_upd _ _ _ _)); rotate_left; exact rfl)
    | split

theorem withdrawEnded_upd (n : Nat) (i : Nat) (s : State) : Upd [.outbox, .regIrq, .regErr, .regLdg, .regMcs, .regFlt, .ldgSeq, .ldgLost,
    .serais, .dram, .dramChk, .chans, .units, .snoop, .biWait, .servedBytes] s (withdrawEnded n i s) := by
  unfold withdrawEnded
  repeat' first
    | intro _
    | with_reducible assumption
    | with_reducible exact Upd.refl _
    | ((with_reducible apply UpdS.snd); with_reducible assumption)
    | (extract_lets -underBinder +onlyGivenNames x; (with_reducible refine Upd.cut x ?_ ?_); rotate_left; (clear_value x; revert x; intro _ _); rotate_right; subst x)
    | (extract_lets -underBinder +onlyGivenNames x; clear_value x; revert x; intro _)
    | with_reducible apply Upd.ite <;> intro _
    | with_reducible apply Upd.foldl
    | with_reducible apply UpdS.foldl
    | ((with_reducible apply UpdS.snd); with_reducible apply UpdS.foldl)
    | ((with_reducible apply Upd.go (count_upd _ _ _ _)); rotate_left; exact rfl)
    | ((with_reducible apply Upd.go (ledger_upd _ _ _ _)); rotate_left; exact rfl)
    | ((with_reducible apply Upd.go (putBar_upd _ _ _ _)); rotate_left; exact rfl)
    | with_reducible apply UpdS.mk
    | dsimp only
    | split

theorem withdrawAll_upd (id : Nat) (s : State) : Upd [.outbox, .regIrq, .regErr, .regLdg, .regMcs, .regFlt, .ldgSeq, .ldgLost, .ctxs,
    .serais, .dram, .dramChk, .chans, .units, .snoop, .biWait, .servedBytes] s (withdrawAll id s) := by
  unfold withdrawAll
  repeat' first
    | intro _
    | with_reducible assumption
    | with_reducible exact Upd.refl _
    | ((with_reducible apply UpdS.snd); with_reducible assumption)
    | (extract_lets -underBinder +onlyGivenNames x; (with_reducible refine Upd.cut x ?_ ?_); rotate_left; (clear_value x; revert x; intro _ _); rotate_right; subst x)
    | (extract_lets -underBinder +onlyGivenNames x; clear_value x; revert x; intro _)
    | with_reducible apply Upd.foldl
    | with_reducible apply UpdS.foldl
    | ((with_reducible apply UpdS.snd); with_reducible apply UpdS.foldl)
    | ((with_reducible apply Upd.go (withdraw_upd _ _ _)); rotate_left; exact rfl)
    | with_reducible apply UpdS.mk
    | dsimp only

theorem landWrite_upd (w : WrReq) (s : State) : Upd [.outbox, .freeCtr, .regIrq, .regErr, .regLdg, .regBku, .regMcs, .regFlt, .ldgSeq,
    .ldgLost, .dram, .dramChk, .chans, .units, .flights, .snoop, .biWait, .ceWins, .servedBytes] s (landWrite w s) := by
  unfold landWrite
  repeat' first
    | intro _
    | with_reducible assumption
    | with_reducible exact Upd.refl _
    | with_reducible apply Upd.ite <;> intro _
    | ((with_reducible apply Upd.go (sealCol_upd _ _ _)); rotate_left; exact rfl)
    | ((with_reducible apply Upd.go (applyWrite_upd _ _)); rotate_left; exact rfl)

theorem stopChannel_upd (ck : Nat) (s : State) : Upd [.outbox, .freeCtr, .regIrq, .regErr, .regLdg, .regBku, .regMcs, .regFlt, .ldgSeq,
    .ldgLost, .dram, .dramChk, .chans, .units, .flights, .snoop, .biWait, .ceWins, .servedBytes] s (stopChannel ck s) := by
  unfold stopChannel
  repeat' first
    | intro _
    | with_reducible assumption
    | with_reducible exact Upd.refl _
    | ((with_reducible apply UpdS.snd); with_reducible assumption)
    | (extract_lets -underBinder +onlyGivenNames x; (with_reducible refine Upd.cut x ?_ ?_); rotate_left; (clear_value x; revert x; intro _ _); rotate_right; subst x)
    | (extract_lets -underBinder +onlyGivenNames x; clear_value x; revert x; intro _)
    | with_reducible apply Upd.ite <;> intro _
    | with_reducible apply Upd.foldl
    | with_reducible apply UpdS.foldl
    | ((with_reducible apply UpdS.snd); with_reducible apply UpdS.foldl)
    | ((with_reducible apply Upd.go (putChan_upd _ _ _)); rotate_left; exact rfl)
    | ((with_reducible apply Upd.go (payOwed_upd _ _)); rotate_left; exact rfl)
    | ((with_reducible apply Upd.go (landWrite_upd _ _)); rotate_left; exact rfl)
    | with_reducible apply UpdS.mk
    | dsimp only

theorem stopCore_upd (g : Nat) (s : State) : Upd [.outbox, .regIrq, .regErr, .regSpd, .regFlt, .spads, .spad, .spadChk, .ceWins] s
    (stopCore g s) := by
  unfold stopCore
  repeat' first
    | intro _
    | with_reducible assumption
    | with_reducible exact Upd.refl _
    | ((with_reducible apply UpdS.snd); with_reducible assumption)
    | (extract_lets -underBinder +onlyGivenNames x; (with_reducible refine Upd.cut x ?_ ?_); rotate_left; (clear_value x; revert x; intro _ _); rotate_right; subst x)
    | (extract_lets -underBinder +onlyGivenNames x; clear_value x; revert x; intro _)
    | with_reducible apply Upd.ite <;> intro _
    | with_reducible apply Upd.foldl
    | with_reducible apply UpdS.foldl
    | ((with_reducible apply UpdS.snd); with_reducible apply UpdS.foldl)
    | ((with_reducible apply Upd.go (putSpad_upd _ _ _)); rotate_left; exact rfl)
    | ((with_reducible apply Upd.go (poisonWord_upd _ _ _)); rotate_left; exact rfl)
    | ((with_reducible apply Upd.go (allBufsBack_upd _ _)); rotate_left; exact rfl)
    | with_reducible apply UpdS.mk
    | dsimp only

theorem slotsReady_upd (n : Nat) (s : State) : Upd [.pms] s (slotsReady n s) := by
  unfold slotsReady
  repeat' first
    | intro _
    | with_reducible assumption
    | with_reducible exact Upd.refl _
    | (extract_lets -underBinder +onlyGivenNames x; (with_reducible refine Upd.cut x ?_ ?_); rotate_left; (clear_value x; revert x; intro _ _); rotate_right; subst x)
    | (extract_lets -underBinder +onlyGivenNames x; clear_value x; revert x; intro _)
    | with_reducible apply Upd.ite <;> intro _
    | with_reducible apply Upd.forUpto
    | ((with_reducible apply Upd.go (putPm_upd _ _ _)); rotate_left; exact rfl)
    | split

theorem forgetRequests_upd (n : Nat) (s : State) : Upd [.ports] s (forgetRequests n s) := by
  unfold forgetRequests
  repeat' first
    | intro _
    | with_reducible assumption
    | with_reducible exact Upd.refl _
    | (extract_lets -underBinder +onlyGivenNames x; (with_reducible refine Upd.cut x ?_ ?_); rotate_left; (clear_value x; revert x; intro _ _); rotate_right; subst x)
    | (extract_lets -underBinder +onlyGivenNames x; clear_value x; revert x; intro _)
    | with_reducible apply Upd.ite <;> intro _
    | with_reducible apply Upd.forUpto
    | ((with_reducible apply Upd.go (putPort_upd _ _ _)); rotate_left; exact rfl)

theorem Upd.set_units_flights {m : List Part} {a b : State} {vunits vflights} (h : Upd m a b)
    (hm : within [.units, .flights] m = true)
    (hunits : b.Ok → SMap.wf (fun _ => {}) vunits) :
    Upd m a { b with units := vunits, flights := vflights } :=
  h.put (fun p hp => by
    have : [.units, .flights].contains p = false := by
      cases hc : [.units, .flights].contains p with
      | false => rfl
      | true => exact absurd ((within_mem hm (List.contains_iff_mem.1 hc)).symm.trans hp) (by decide)
    cases p <;> first | rfl | exact fun _ _ _ _ => rfl | exact absurd this (by decide)) rfl rfl fun k => { k with units := hunits k }

theorem Upd.set_engines_servedBytes {m : List Part} {a b : State} {vengines vservedBytes} (h : Upd m a b)
    (hm : within [.engines, .servedBytes] m = true)
    (hengines : b.Ok → SMap.wf (fun _ => {}) vengines)
    (hservedBytes : b.Ok → SMap.wf (fun _ => 0) vservedBytes) :
    Upd m a { b with engines := vengines, servedBytes := vservedBytes } :=
  h.put (fun p hp => by
    have : [.engines, .servedBytes].contains p = false := by
      cases hc : [.engines, .servedBytes].contains p with
      | false => rfl
      | true => exact absurd ((within_mem hm (List.contains_iff_mem.1 hc)).symm.trans hp) (by decide)
    cases p <;> first | rfl | exact fun _ _ _ _ => rfl | exact absurd this (by decide)) rfl rfl fun k => { k with engines := hengines k, servedBytes := hservedBytes k }

/-- What `stopPartition` may change. -/
def stopPartition_parts : List Part :=
  [.outbox, .freeCtr, .regIrq, .regErr, .regLdg, .regSpd, .regBku, .regMcs, .regDrv, .regFlt, .regRng, .floorAbove, .ldgSeq, .ldgLost, .ctxs,
   .pms, .engines, .spads, .spad, .spadChk, .serais, .loading, .sess, .dram, .dramChk, .chans, .units, .flights, .snoop, .biWait, .ceWins,
   .drovers, .servedBytes, .ports]

theorem stopPartition_upd (n : Nat) (s : State) : Upd stopPartition_parts s (stopPartition n s) := by
  unfold stopPartition
  repeat' first
    | intro _
    | with_reducible assumption
    | with_reducible exact Upd.refl _
    | ((with_reducible apply UpdS.snd); with_reducible assumption)
    | (extract_lets -underBinder +onlyGivenNames x; (with_reducible refine Upd.cut x ?_ ?_); rotate_left; (clear_value x; revert x; intro _ _); rotate_right; subst x)
    | (extract_lets -underBinder +onlyGivenNames x; clear_value x; revert x; intro _)
    | with_reducible apply Upd.ite <;> intro _
    | with_reducible apply Upd.foldl
    | with_reducible apply UpdS.foldl
    | ((with_reducible apply UpdS.snd); with_reducible apply UpdS.foldl)
    | ((with_reducible apply Upd.go (payUnitMarks_upd _ _)); rotate_left; exact rfl)
    | ((with_reducible apply Upd.go (abortChannel_upd _ _ _)); rotate_left; exact rfl)
    | ((with_reducible apply Upd.go (floorCheck_upd _)); rotate_left; exact rfl)
    | ((with_reducible apply Upd.go (orphanHeld_upd _ _ _)); rotate_left; exact rfl)
    | ((with_reducible apply Upd.go (interruptLoadOn_upd _ _)); rotate_left; exact rfl)
    | ((with_reducible apply Upd.go (droverReset_upd _ _)); rotate_left; exact rfl)
    | ((with_reducible apply Upd.go (interruptCtx_upd _ _)); rotate_left; exact rfl)
    | ((with_reducible apply Upd.go (withdrawEnded_upd _ _ _)); rotate_left; exact rfl)
    | ((with_reducible apply Upd.go (withdrawAll_upd _ _)); rotate_left; exact rfl)
    | ((with_reducible apply Upd.go (stopChannel_upd _ _)); rotate_left; exact rfl)
    | ((with_reducible apply Upd.go (stopCore_upd _ _)); rotate_left; exact rfl)
    | ((with_reducible apply Upd.go (slotsReady_upd _ _)); rotate_left; exact rfl)
    | ((with_reducible apply Upd.go (forgetRequests_upd _ _)); rotate_left; exact rfl)
    | with_reducible apply UpdS.mk
    | dsimp only
    | with_reducible apply SMap.wf_set
    | with_reducible apply SMap.wf_mapv
    | with_reducible apply SMap.wf_filter
    | with_reducible exact SMap.wf_nil
    | (first | with_reducible exact State.Ok.units (by assumption) | with_reducible exact State.Ok.engines (by assumption) | with_reducible exact State.Ok.servedBytes (by assumption))
    | ((with_reducible apply Upd.set_units_flights); rotate_left; exact rfl)
    | ((with_reducible apply Upd.set_engines_servedBytes); rotate_left; exact rfl)

theorem resetFields_upd (n : Nat) (s : State) : Upd swapSet_parts s (resetFields n s) := by
  exact (Upd.refl s).filter_regs rfl

theorem noteNotReplayed_upd (id : Nat) (reason : Nat) (s : State) : Upd [.outbox, .regIrq, .regErr, .regLdg, .regMcs, .regRcv, .regFlt,
    .ldgSeq, .ldgLost, .dram, .dramChk, .chans, .units, .snoop, .biWait, .servedBytes] s (noteNotReplayed id reason s) := by
  unfold noteNotReplayed
  repeat' first
    | intro _
    | with_reducible assumption
    | with_reducible exact Upd.refl _
    | (extract_lets -underBinder +onlyGivenNames x; (with_reducible refine Upd.cut x ?_ ?_); rotate_left; (clear_value x; revert x; intro _ _); rotate_right; subst x)
    | (extract_lets -underBinder +onlyGivenNames x; clear_value x; revert x; intro _)
    | with_reducible apply Upd.getD
    | ((with_reducible apply Upd.go (count_upd _ _ _ _)); rotate_left; exact rfl)
    | ((with_reducible apply Upd.go (raise_upd _ _ _)); rotate_left; exact rfl)
    | ((with_reducible apply Upd.go (ledger_upd _ _ _ _)); rotate_left; exact rfl)

/-- What `endNotReplayed` may change. -/
def endNotReplayed_parts : List Part :=
  [.outbox, .regCtl, .regIrq, .regLock, .regSet, .regErr, .regMs, .regEpo, .regLdg, .regSerai, .regEng, .regSpd, .regTmv, .regBkc, .regBku,
   .regMcs, .regDrv, .regBlk, .regRcv, .regFlt, .regEvl, .regOpt, .regBay, .regSes, .regRng, .regHif, .regSec, .regPwr, .regThm, .regClk,
   .regMgt, .staging, .prevSet, .vslots, .floorAbove, .ldgSeq, .ldgLost, .ctxs, .runs, .pms, .spads, .sess, .abortWaits, .dram, .dramChk,
   .chans, .units, .snoop, .biWait, .drovers, .servedBytes, .fwSlots]

theorem endNotReplayed_upd (id : Nat) (reason : Nat) (s : State) : Upd endNotReplayed_parts s (endNotReplayed id reason s) := by
  unfold endNotReplayed
  repeat' first
    | intro _
    | with_reducible assumption
    | with_reducible exact Upd.refl _
    | ((with_reducible apply UpdS.snd); with_reducible assumption)
    | (extract_lets -underBinder +onlyGivenNames x; (with_reducible refine Upd.cut x ?_ ?_); rotate_left; (clear_value x; revert x; intro _ _); rotate_right; subst x)
    | (extract_lets -underBinder +onlyGivenNames x; clear_value x; revert x; intro _)
    | with_reducible apply Upd.ite <;> intro _
    | with_reducible apply Upd.foldl
    | with_reducible apply UpdS.foldl
    | ((with_reducible apply UpdS.snd); with_reducible apply UpdS.foldl)
    | with_reducible apply Upd.getD
    | ((with_reducible apply Upd.go (putRun_upd _ _ _)); rotate_left; exact rfl)
    | ((with_reducible apply Upd.go (haltCtx_upd _ _ _)); rotate_left; exact rfl)
    | ((with_reducible apply Upd.go (runComplete_upd _ _)); rotate_left; exact rfl)
    | ((with_reducible apply Upd.go (dropJournal_upd _ _)); rotate_left; exact rfl)
    | with_reducible apply UpdS.mk
    | dsimp only
    | split

theorem serviceLevel_upd (s : State) : Upd [.outbox, .regIrq, .regRcv] s (serviceLevel s) := by
  unfold serviceLevel
  repeat' first
    | intro _
    | with_reducible assumption
    | with_reducible exact Upd.refl _
    | (extract_lets -underBinder +onlyGivenNames x; (with_reducible refine Upd.cut x ?_ ?_); rotate_left; (clear_value x; revert x; intro _ _); rotate_right; subst x)
    | (extract_lets -underBinder +onlyGivenNames x; clear_value x; revert x; intro _)
    | with_reducible apply Upd.ite <;> intro _
    | ((with_reducible apply Upd.go (wr_upd _ _ _ _)); rotate_left; exact rfl)
    | ((with_reducible apply Upd.go (raise_upd _ _ _)); rotate_left; exact rfl)

theorem putResetGo_upd (n : Nat) (v : Nat) (s : State) : Upd [.regRcv] s (putResetGo n v s) := by
  unfold putResetGo
  repeat' first
    | intro _
    | with_reducible assumption
    | with_reducible exact Upd.refl _
    | ((with_reducible apply Upd.go (wr_upd _ _ _ _)); rotate_left; exact rfl)

theorem skipInOps_upd (n : Nat) (s : State) : Upd [.ops] s (skipInOps n s) := by
  unfold skipInOps
  repeat' first
    | intro _
    | with_reducible assumption
    | with_reducible exact Upd.refl _
    | (extract_lets -underBinder +onlyGivenNames x; (with_reducible refine Upd.cut x ?_ ?_); rotate_left; (clear_value x; revert x; intro _ _); rotate_right; subst x)
    | (extract_lets -underBinder +onlyGivenNames x; clear_value x; revert x; intro _)
    | with_reducible apply Upd.ite <;> intro _
    | split
    | ((with_reducible apply Upd.set_ops); rotate_left; exact rfl)

theorem channelsUp_upd (n : Nat) (s : State) : Upd [.chans] s (channelsUp n s) := by
  unfold channelsUp
  repeat' first
    | intro _
    | with_reducible assumption
    | with_reducible exact Upd.refl _
    | ((with_reducible apply UpdS.snd); with_reducible assumption)
    | (extract_lets -underBinder +onlyGivenNames x; (with_reducible refine Upd.cut x ?_ ?_); rotate_left; (clear_value x; revert x; intro _ _); rotate_right; subst x)
    | (extract_lets -underBinder +onlyGivenNames x; clear_value x; revert x; intro _)
    | with_reducible apply Upd.ite <;> intro _
    | with_reducible apply Upd.foldl
    | with_reducible apply UpdS.foldl
    | ((with_reducible apply UpdS.snd); with_reducible apply UpdS.foldl)
    | ((with_reducible apply Upd.go (putChan_upd _ _ _)); rotate_left; exact rfl)
    | with_reducible apply UpdS.mk
    | dsimp only

theorem serveChannels_upd (n : Nat) (s : State) : Upd [.outbox, .freeCtr, .regIrq, .regErr, .regLdg, .regBku, .regMcs, .regFlt, .ldgSeq,
    .ldgLost, .dram, .dramChk, .chans, .units, .flights, .snoop, .biWait, .ceWins, .servedBytes] s (serveChannels n s) := by
  unfold serveChannels
  repeat' first
    | intro _
    | with_reducible assumption
    | with_reducible exact Upd.refl _
    | ((with_reducible apply UpdS.snd); with_reducible assumption)
    | with_reducible apply Upd.foldl
    | with_reducible apply UpdS.foldl
    | ((with_reducible apply UpdS.snd); with_reducible apply UpdS.foldl)
    | ((with_reducible apply Upd.go (serveChan_upd _ _)); rotate_left; exact rfl)
    | with_reducible apply UpdS.mk
    | dsimp only

theorem endHeld_upd (ck : Nat) (s : State) : Upd [.outbox, .freeCtr, .regIrq, .regErr, .regFlt, .chans] s (endHeld ck s) := by
  unfold endHeld
  repeat' first
    | intro _
    | with_reducible assumption
    | with_reducible exact Upd.refl _
    | ((with_reducible apply UpdS.snd); with_reducible assumption)
    | (extract_lets -underBinder +onlyGivenNames x; (with_reducible refine Upd.cut x ?_ ?_); rotate_left; (clear_value x; revert x; intro _ _); rotate_right; subst x)
    | (extract_lets -underBinder +onlyGivenNames x; clear_value x; revert x; intro _)
    | with_reducible apply Upd.ite <;> intro _
    | with_reducible apply Upd.foldl
    | with_reducible apply UpdS.foldl
    | ((with_reducible apply UpdS.snd); with_reducible apply UpdS.foldl)
    | ((with_reducible apply Upd.go (putChan_upd _ _ _)); rotate_left; exact rfl)
    | ((with_reducible apply Upd.go (badAccess_upd _ _ _)); rotate_left; exact rfl)
    | ((with_reducible apply Upd.go (poisonedAnswer_upd _ _)); rotate_left; exact rfl)
    | with_reducible apply UpdS.mk
    | dsimp only

/-- What `goOos` may change. -/
def goOos_parts : List Part :=
  [.outbox, .freeCtr, .regCtl, .regIrq, .regLock, .regSet, .regErr, .regMs, .regEpo, .regLdg, .regSerai, .regEng, .regSpd, .regTmv, .regBkc,
   .regBku, .regMcs, .regDrv, .regBlk, .regRcv, .regFlt, .regEvl, .regOpt, .regBay, .regSes, .regRng, .regHif, .regSec, .regPwr, .regThm,
   .regClk, .regMgt, .staging, .prevSet, .ops, .vslots, .floorAbove, .ldgSeq, .ldgLost, .ctxs, .runs, .pms, .spads, .loading, .sess,
   .abortWaits, .dram, .dramChk, .chans, .units, .flights, .snoop, .biWait, .ceWins, .drovers, .servedBytes, .recov, .fwSlots]

theorem goOos_upd (n : Nat) (cause : Nat) (s : State) : Upd goOos_parts s (goOos n cause s) := by
  unfold goOos
  repeat' first
    | intro _
    | with_reducible assumption
    | with_reducible exact Upd.refl _
    | ((with_reducible apply UpdS.snd); with_reducible assumption)
    | (extract_lets -underBinder +onlyGivenNames x; (with_reducible refine Upd.cut x ?_ ?_); rotate_left; (clear_value x; revert x; intro _ _); rotate_right; subst x)
    | (extract_lets -underBinder +onlyGivenNames x; clear_value x; revert x; intro _)
    | with_reducible apply Upd.ite <;> intro _
    | with_reducible apply Upd.foldl
    | with_reducible apply UpdS.foldl
    | ((with_reducible apply UpdS.snd); with_reducible apply UpdS.foldl)
    | ((with_reducible apply Upd.go (raise_upd _ _ _)); rotate_left; exact rfl)
    | ((with_reducible apply Upd.go (ledger_upd _ _ _ _)); rotate_left; exact rfl)
    | ((with_reducible apply Upd.go (interruptLoadOn_upd _ _)); rotate_left; exact rfl)
    | ((with_reducible apply Upd.go (putPartState_upd _ _ _)); rotate_left; exact rfl)
    | ((with_reducible apply Upd.go (putRecov_upd _ _ _)); rotate_left; exact rfl)
    | ((with_reducible apply Upd.go (noteNotReplayed_upd _ _ _)); rotate_left; exact rfl)
    | ((with_reducible apply Upd.go (endNotReplayed_upd _ _ _)); rotate_left; exact rfl)
    | ((with_reducible apply Upd.go (serviceLevel_upd _)); rotate_left; exact rfl)
    | ((with_reducible apply Upd.go (putResetGo_upd _ _ _)); rotate_left; exact rfl)
    | ((with_reducible apply Upd.go (skipInOps_upd _ _)); rotate_left; exact rfl)
    | ((with_reducible apply Upd.go (channelsUp_upd _ _)); rotate_left; exact rfl)
    | ((with_reducible apply Upd.go (endHeld_upd _ _)); rotate_left; exact rfl)
    | with_reducible apply UpdS.mk
    | dsimp only

/-- What `hostOos` may change. -/
def hostOos_parts : List Part :=
  [.outbox, .freeCtr, .regCtl, .regIrq, .regLock, .regSet, .regErr, .regMs, .regEpo, .regLdg, .regSerai, .regEng, .regSpd, .regTmv, .regBkc,
   .regBku, .regMcs, .regDrv, .regBlk, .regRcv, .regFlt, .regEvl, .regOpt, .regBay, .regSes, .regRng, .regHif, .regSec, .regPwr, .regThm,
   .regClk, .regMgt, .staging, .prevSet, .ops, .vslots, .floorAbove, .ldgSeq, .ldgLost, .ctxs, .runs, .pms, .engines, .spads, .spad,
   .spadChk, .serais, .loading, .sess, .abortWaits, .dram, .dramChk, .chans, .units, .flights, .snoop, .biWait, .ceWins, .drovers,
   .servedBytes, .ports, .recov, .fwSlots]

theorem hostOos_upd (n : Nat) (s : State) : Upd hostOos_parts s (hostOos n s) := by
  unfold hostOos
  repeat' first
    | intro _
    | with_reducible assumption
    | with_reducible exact Upd.refl _
    | with_reducible apply Upd.ite <;> intro _
    | ((with_reducible apply Upd.go (stopPartition_upd _ _)); rotate_left; exact rfl)
    | ((with_reducible apply Upd.go (resetFields_upd _ _)); rotate_left; exact rfl)
    | ((with_reducible apply Upd.go (goOos_upd _ _ _)); rotate_left; exact rfl)

theorem putStage_upd (v : Nat) (s : State) : Upd [.regMgt] s (putStage v s) := by
  unfold putStage
  repeat' first
    | intro _
    | with_reducible assumption
    | with_reducible exact Upd.refl _
    | ((with_reducible apply Upd.go (wr_upd _ _ _ _)); rotate_left; exact rfl)

theorem fwRunNew_upd (c : Nat) (s : State) : Upd [.regMgt] s (fwRunNew c s) := by
  unfold fwRunNew
  repeat' first
    | intro _
    | with_reducible assumption
    | with_reducible exact Upd.refl _
    | ((with_reducible apply Upd.go (wr_upd _ _ _ _)); rotate_left; exact rfl)

theorem memoryLost_upd (s : State) : Upd [.spad, .spadChk, .memGens, .spadGen, .dram, .dramChk] s (memoryLost s) := by
  unfold memoryLost
  have hg (h : SMap.wf (fun _ => 0) s.memGens) :
      SMap.wf (fun _ => 0) (SMap.set (fun _ => 0) s.memGens 384 (SMap.get (fun _ => 0) s.memGens 384 + 1)) := SMap.wf_set h
  refine (Upd.refl s).put (fun q hq => by cases q <;> first | rfl | exact fun _ _ _ _ => rfl | exact absurd hq (by decide)) rfl rfl fun k =>
    { k with dram := SMap.wf_nil, dramChk := SMap.wf_nil, spad := SMap.wf_nil, spadChk := SMap.wf_nil
             memGens := hg k.memGens }

theorem deviceReset_upd (s : State) : Upd busy s (deviceReset s) := by
  unfold deviceReset
  have hd (h : SMap.wf (fun _ => {}) s.drovers) : SMap.wf (fun _ => {}) (s.drovers.mapv {} fun _ d => d.kept) := SMap.wf_mapv h
  extract_lets kept t0 t t'
  have ht : Upd busy s t := by
    clear t'
    subst t
    refine (Upd.refl s).put (fun q hq => by cases q <;> first | rfl | exact fun _ _ _ _ => rfl | exact absurd hq (by decide)) rfl rfl fun k => ?_
    constructor <;> first
      | exact SMap.wf_nil
      | exact SMap.wf_filter k.regs
      | exact fun e he => k.fit e (List.mem_filter.1 he).1
      | exact hd k.drovers
      | exact k.memGens
      | exact k.keys
      | exact k.psks
      | exact k.spdm
      | exact k.pskFails
  exact Upd.go (putStage_upd _ _) (Upd.go (fwRunNew_upd _ _) (Upd.go (wr_upd _ _ _ _) (Upd.go (memoryLost_upd _) ht rfl) rfl) rfl) rfl

theorem Upd.set_remaps_spdm_pskFails_pskLocked_update {m : List Part} {a b : State} {vremaps vspdm vpskFails vpskLocked vupdate} (h : Upd m a b)
    (hm : within [.remaps, .spdm, .pskFails, .pskLocked, .update] m = true)
    (hspdm : b.Ok → SMap.wf (fun _ => none) vspdm)
    (hpskFails : b.Ok → SMap.wf (fun _ => 0) vpskFails) :
    Upd m a { b with remaps := vremaps, spdm := vspdm, pskFails := vpskFails, pskLocked := vpskLocked, update := vupdate } :=
  h.put (fun p hp => by
    have : [.remaps, .spdm, .pskFails, .pskLocked, .update].contains p = false := by
      cases hc : [.remaps, .spdm, .pskFails, .pskLocked, .update].contains p with
      | false => rfl
      | true => exact absurd ((within_mem hm (List.contains_iff_mem.1 hc)).symm.trans hp) (by decide)
    cases p <;> first | rfl | exact fun _ _ _ _ => rfl | exact absurd this (by decide)) rfl rfl fun k => { k with spdm := hspdm k, pskFails := hpskFails k }

theorem powerLoss_upd (s : State) : Upd busy s (powerLoss s) := by
  unfold powerLoss
  repeat' first
    | intro _
    | with_reducible assumption
    | with_reducible exact Upd.refl _
    | (extract_lets -underBinder +onlyGivenNames x; (with_reducible refine Upd.cut x ?_ ?_); rotate_left; (clear_value x; revert x; intro _ _); rotate_right; subst x)
    | (extract_lets -underBinder +onlyGivenNames x; clear_value x; revert x; intro _)
    | ((with_reducible apply Upd.go (putStage_upd _ _)); rotate_left; exact rfl)
    | ((with_reducible apply Upd.go (deviceReset_upd _)); rotate_left; exact rfl)
    | with_reducible apply SMap.wf_set
    | with_reducible apply SMap.wf_mapv
    | with_reducible apply SMap.wf_filter
    | with_reducible exact SMap.wf_nil
    | (first | with_reducible exact State.Ok.spdm (by assumption) | with_reducible exact State.Ok.pskFails (by assumption))
    | ((with_reducible apply Upd.set_remaps_spdm_pskFails_pskLocked_update); rotate_left; exact rfl)

end Sys2Proof.Machine
end

