-- ==== Sys2Proof/Laws/UpdControl.lean ====
section
/-!
SUPPORT. What each operation of Machine/Control can change, and that it keeps the canonical form.
-/

namespace Sys2Proof.Machine

set_option maxRecDepth 4000
set_option linter.all false

theorem opFinish_upd (o : CtrlOp) (s : State) : Upd busy s (opFinish o s) := by
  unfold opFinish
  repeat' first
    | intro _
    | with_reducible assumption
    | with_reducible exact Upd.refl _
    | (extract_lets -underBinder +onlyGivenNames x; (with_reducible refine Upd.cut x ?_ ?_); rotate_left; (clear_value x; revert x; intro _ _); rotate_right; subst x)
    | (extract_lets -underBinder +onlyGivenNames x; clear_value x; revert x; intro _)
    | with_reducible apply Upd.ite <;> intro _
    | ((with_reducible apply Upd.go (wr_upd _ _ _ _)); rotate_left; exact rfl)
    | ((with_reducible apply Upd.go (raise_upd _ _ _)); rotate_left; exact rfl)
    | ((with_reducible apply Upd.go (deviceReset_upd _)); rotate_left; exact rfl)
    | ((with_reducible apply Upd.set_ops); rotate_left; exact rfl)

theorem opSettle_upd (o : CtrlOp) (s : State) : Upd busy s (opSettle o s) := by
  unfold opSettle
  repeat' first
    | intro _
    | with_reducible assumption
    | with_reducible exact Upd.refl _
    | with_reducible apply Upd.ite <;> intro _
    | ((with_reducible apply Upd.go (opFinish_upd _ _)); rotate_left; exact rfl)

theorem putOp_upd (o : CtrlOp) (s : State) : Upd [.ops] s (putOp o s) := by
  unfold putOp
  repeat' first
    | intro _
    | with_reducible assumption
    | with_reducible exact Upd.refl _
    | (extract_lets -underBinder +onlyGivenNames x; (with_reducible refine Upd.cut x ?_ ?_); rotate_left; (clear_value x; revert x; intro _ _); rotate_right; subst x)
    | (extract_lets -underBinder +onlyGivenNames x; clear_value x; revert x; intro _)
    | ((with_reducible apply Upd.set_ops); rotate_left; exact rfl)

/-- What `resetUnit` may change. -/
def resetUnit_parts : List Part :=
  [.regCtl, .regIrq, .regLock, .regSet, .regErr, .regMs, .regEpo, .regLdg, .regSerai, .regEng, .regSpd, .regTmv, .regBkc, .regBku, .regMcs,
   .regDrv, .regBlk, .regRcv, .regFlt, .regEvl, .regOpt, .regBay, .regSes, .regRng, .regHif, .regSec, .regPwr, .regThm, .regClk, .regMgt,
   .serais]

theorem resetUnit_upd (member : Bool) (u : UnitId) (s : State) : Upd resetUnit_parts s (resetUnit member u s) := by
  unfold resetUnit
  extract_lets hit done t t'
  have h1 : Upd resetUnit_parts s t := (Upd.refl s).filter_regs rfl
  have h2 : Upd resetUnit_parts s t' := Upd.go (wr_upd _ _ _ _) h1 rfl
  split
  · exact Upd.go (putSerai_upd _ _ _) h2 rfl
  · exact Upd.go (putSerai_upd _ _ _) h2 rfl
  · exact h2

theorem putFenced_upd (v : Nat) (us : List UnitId) (s : State) : Upd [.regCtl] s (putFenced v us s) := by
  unfold putFenced
  repeat' first
    | intro _
    | with_reducible assumption
    | with_reducible exact Upd.refl _
    | ((with_reducible apply UpdS.snd); with_reducible assumption)
    | with_reducible apply Upd.foldl
    | with_reducible apply UpdS.foldl
    | ((with_reducible apply UpdS.snd); with_reducible apply UpdS.foldl)
    | ((with_reducible apply Upd.go (wr_upd _ _ _ _)); rotate_left; exact rfl)
    | with_reducible apply UpdS.mk
    | dsimp only

/-- What `commandReset` may change. -/
def commandReset_parts : List Part :=
  [.outbox, .freeCtr, .regCtl, .regIrq, .regLock, .regSet, .regErr, .regMs, .regEpo, .regLdg, .regSerai, .regEng, .regSpd, .regTmv, .regBkc,
   .regBku, .regMcs, .regDrv, .regBlk, .regRcv, .regFlt, .regEvl, .regOpt, .regBay, .regSes, .regRng, .regHif, .regSec, .regPwr, .regThm,
   .regClk, .regMgt, .staging, .prevSet, .vslots, .floorAbove, .ldgSeq, .ldgLost, .ctxs, .runs, .pms, .engines, .spads, .spad, .spadChk,
   .serais, .loading, .sess, .abortWaits, .dram, .dramChk, .chans, .units, .flights, .snoop, .biWait, .ceWins, .drovers, .servedBytes,
   .ports, .recov, .fwSlots]

theorem commandReset_upd (n : Nat) (s : State) : Upd commandReset_parts s (commandReset n s) := by
  unfold commandReset
  repeat' first
    | intro _
    | with_reducible assumption
    | with_reducible exact Upd.refl _
    | ((with_reducible apply UpdS.snd); with_reducible assumption)
    | (extract_lets -underBinder +onlyGivenNames x; (with_reducible refine Upd.cut x ?_ ?_); rotate_left; (clear_value x; revert x; intro _ _); rotate_right; subst x)
    | (extract_lets -underBinder +onlyGivenNames x; clear_value x; revert x; intro _)
    | with_reducible apply Upd.ite <;> intro _
    | with_reducible apply Upd.foldl
    | with_reducible apply UpdS.foldl
    | ((with_reducible apply UpdS.snd); with_reducible apply UpdS.foldl)
    | ((with_reducible apply Upd.go (wr_upd _ _ _ _)); rotate_left; exact rfl)
    | ((with_reducible apply Upd.go (abortRun_upd _ _)); rotate_left; exact rfl)
    | ((with_reducible apply Upd.go (runComplete_upd _ _)); rotate_left; exact rfl)
    | ((with_reducible apply Upd.go (putPartState_upd _ _ _)); rotate_left; exact rfl)
    | ((with_reducible apply Upd.go (putRecov_upd _ _ _)); rotate_left; exact rfl)
    | ((with_reducible apply Upd.go (dropJournal_upd _ _)); rotate_left; exact rfl)
    | ((with_reducible apply Upd.go (stopPartition_upd _ _)); rotate_left; exact rfl)
    | with_reducible apply UpdS.mk
    | dsimp only

/-- What `opApply` may change. -/
def opApply_parts : List Part :=
  [.regCtl, .regIrq, .regLock, .regSet, .regErr, .regMs, .regEpo, .regLdg, .regSerai, .regEng, .regSpd, .regTmv, .regBkc, .regBku, .regMcs,
   .regDrv, .regBlk, .regRcv, .regFlt, .regEvl, .regOpt, .regBay, .regSes, .regRng, .regHif, .regSec, .regPwr, .regThm, .regClk, .regMgt,
   .ops, .serais]

theorem opApply_upd (us : List UnitId) (o : CtrlOp) (s : State) : Upd opApply_parts s (opApply us o s) := by
  unfold opApply
  repeat' first
    | intro _
    | with_reducible assumption
    | with_reducible exact Upd.refl _
    | ((with_reducible apply UpdS.snd); with_reducible assumption)
    | (extract_lets -underBinder +onlyGivenNames x; (with_reducible refine Upd.cut x ?_ ?_); rotate_left; (clear_value x; revert x; intro _ _); rotate_right; subst x)
    | (extract_lets -underBinder +onlyGivenNames x; clear_value x; revert x; intro _)
    | with_reducible apply Upd.foldl
    | with_reducible apply UpdS.foldl
    | ((with_reducible apply UpdS.snd); with_reducible apply UpdS.foldl)
    | ((with_reducible apply Upd.go (putOp_upd _ _)); rotate_left; exact rfl)
    | ((with_reducible apply Upd.go (resetUnit_upd _ _ _)); rotate_left; exact rfl)
    | ((with_reducible apply Upd.go (putFenced_upd _ _ _)); rotate_left; exact rfl)
    | with_reducible apply UpdS.mk
    | dsimp only
    | split

theorem opPartition_upd (n : Nat) (o : CtrlOp) (s : State) : Upd hostOos_parts s (opPartition n o s) := by
  unfold opPartition
  repeat' first
    | intro _
    | with_reducible assumption
    | with_reducible exact Upd.refl _
    | (extract_lets -underBinder +onlyGivenNames x; (with_reducible refine Upd.cut x ?_ ?_); rotate_left; (clear_value x; revert x; intro _ _); rotate_right; subst x)
    | (extract_lets -underBinder +onlyGivenNames x; clear_value x; revert x; intro _)
    | with_reducible apply Upd.ite <;> intro _
    | ((with_reducible apply Upd.go (putOp_upd _ _)); rotate_left; exact rfl)
    | ((with_reducible apply Upd.go (commandReset_upd _ _)); rotate_left; exact rfl)
    | ((with_reducible apply Upd.go (opApply_upd _ _ _)); rotate_left; exact rfl)

theorem opOnPart_upd (n : Nat) (o : CtrlOp) (s : State) : Upd hostOos_parts s (opOnPart n o s) := by
  unfold opOnPart
  repeat' first
    | intro _
    | with_reducible assumption
    | with_reducible exact Upd.refl _
    | (extract_lets -underBinder +onlyGivenNames x; (with_reducible refine Upd.cut x ?_ ?_); rotate_left; (clear_value x; revert x; intro _ _); rotate_right; subst x)
    | (extract_lets -underBinder +onlyGivenNames x; clear_value x; revert x; intro _)
    | with_reducible apply Upd.ite <;> intro _
    | ((with_reducible apply Upd.go (putOp_upd _ _)); rotate_left; exact rfl)
    | ((with_reducible apply Upd.go (opPartition_upd _ _ _)); rotate_left; exact rfl)

theorem opOnDev_upd (o : CtrlOp) (s : State) : Upd opApply_parts s (opOnDev o s) := by
  unfold opOnDev
  repeat' first
    | intro _
    | with_reducible assumption
    | with_reducible exact Upd.refl _
    | (extract_lets -underBinder +onlyGivenNames x; (with_reducible refine Upd.cut x ?_ ?_); rotate_left; (clear_value x; revert x; intro _ _); rotate_right; subst x)
    | (extract_lets -underBinder +onlyGivenNames x; clear_value x; revert x; intro _)
    | with_reducible apply Upd.ite <;> intro _
    | ((with_reducible apply Upd.go (opApply_upd _ _ _)); rotate_left; exact rfl)
    | split

theorem opResetDev_upd (o : CtrlOp) (s : State) : Upd [.ops] s (opResetDev o s) := by
  unfold opResetDev
  repeat' first
    | intro _
    | with_reducible assumption
    | with_reducible exact Upd.refl _
    | (extract_lets -underBinder +onlyGivenNames x; (with_reducible refine Upd.cut x ?_ ?_); rotate_left; (clear_value x; revert x; intro _ _); rotate_right; subst x)
    | (extract_lets -underBinder +onlyGivenNames x; clear_value x; revert x; intro _)
    | ((with_reducible apply Upd.go (putOp_upd _ _)); rotate_left; exact rfl)

theorem opStart_upd (u : UnitId) (kind : CtrlKind) (s : State) : Upd busy s (opStart u kind s) := by
  unfold opStart
  repeat' first
    | intro _
    | with_reducible assumption
    | with_reducible exact Upd.refl _
    | (extract_lets -underBinder +onlyGivenNames x; (with_reducible refine Upd.cut x ?_ ?_); rotate_left; (clear_value x; revert x; intro _ _); rotate_right; subst x)
    | (extract_lets -underBinder +onlyGivenNames x; clear_value x; revert x; intro _)
    | with_reducible apply Upd.ite <;> intro _
    | ((with_reducible apply Upd.go (opFinish_upd _ _)); rotate_left; exact rfl)
    | ((with_reducible apply Upd.go (opSettle_upd _ _)); rotate_left; exact rfl)
    | ((with_reducible apply Upd.go (opApply_upd _ _ _)); rotate_left; exact rfl)
    | ((with_reducible apply Upd.go (opOnPart_upd _ _ _)); rotate_left; exact rfl)
    | ((with_reducible apply Upd.go (opOnDev_upd _ _)); rotate_left; exact rfl)
    | ((with_reducible apply Upd.go (opResetDev_upd _ _)); rotate_left; exact rfl)
    | split

theorem ctrlWrite_upd (u : UnitId) (v : Nat) (s : State) : Upd busy s (ctrlWrite u v s) := by
  unfold ctrlWrite
  repeat' first
    | intro _
    | with_reducible assumption
    | with_reducible exact Upd.refl _
    | (extract_lets -underBinder +onlyGivenNames x; (with_reducible refine Upd.cut x ?_ ?_); rotate_left; (clear_value x; revert x; intro _ _); rotate_right; subst x)
    | (extract_lets -underBinder +onlyGivenNames x; clear_value x; revert x; intro _)
    | with_reducible apply Upd.ite <;> intro _
    | ((with_reducible apply Upd.go (wr_upd _ _ _ _)); rotate_left; exact rfl)
    | ((with_reducible apply Upd.go (opStart_upd _ _ _)); rotate_left; exact rfl)
    | split

theorem ctrlBit_upd (page : Nat) (b : Nat) (s : State) : Upd busy s (ctrlBit page b s) := by
  unfold ctrlBit
  repeat' first
    | intro _
    | with_reducible assumption
    | with_reducible exact Upd.refl _
    | (extract_lets -underBinder +onlyGivenNames x; (with_reducible refine Upd.cut x ?_ ?_); rotate_left; (clear_value x; revert x; intro _ _); rotate_right; subst x)
    | (extract_lets -underBinder +onlyGivenNames x; clear_value x; revert x; intro _)
    | ((with_reducible apply Upd.go (ctrlWrite_upd _ _ _)); rotate_left; exact rfl)
    | (generalize unitOfPage _ = u; split)
    | split

theorem execSync_upd (page : Nat) (s : State) : UpdR busy s (execSync page s) := by
  unfold execSync
  repeat' first
    | intro _
    | with_reducible assumption
    | with_reducible exact Upd.refl _
    | with_reducible apply UpdR.next
    | ((with_reducible apply Upd.go (ctrlBit_upd _ _ _)); rotate_left; exact rfl)

theorem execFence_upd (page : Nat) (s : State) : UpdR busy s (execFence page s) := by
  unfold execFence
  repeat' first
    | intro _
    | with_reducible assumption
    | with_reducible exact Upd.refl _
    | with_reducible apply UpdR.next
    | ((with_reducible apply Upd.go (ctrlBit_upd _ _ _)); rotate_left; exact rfl)

theorem execUnfence_upd (page : Nat) (s : State) : UpdR busy s (execUnfence page s) := by
  unfold execUnfence
  repeat' first
    | intro _
    | with_reducible assumption
    | with_reducible exact Upd.refl _
    | with_reducible apply UpdR.next
    | ((with_reducible apply Upd.go (ctrlBit_upd _ _ _)); rotate_left; exact rfl)

theorem execReset_upd (page : Nat) (s : State) : UpdR busy s (execReset page s) := by
  unfold execReset
  repeat' first
    | intro _
    | with_reducible assumption
    | with_reducible exact Upd.refl _
    | with_reducible apply UpdR.next
    | ((with_reducible apply Upd.go (ctrlBit_upd _ _ _)); rotate_left; exact rfl)

theorem execCtrlOpComplete_upd (page : Nat) (kind : Nat) (s : State) : UpdR busy s (execCtrlOpComplete page kind s) := by
  unfold execCtrlOpComplete
  repeat' first
    | intro _
    | with_reducible assumption
    | with_reducible exact Upd.refl _
    | (extract_lets -underBinder +onlyGivenNames x; (with_reducible refine UpdR.cut x ?_ ?_); rotate_left; (clear_value x; revert x; intro _ _); rotate_right; subst x)
    | (extract_lets -underBinder +onlyGivenNames x; (with_reducible refine Upd.cut x ?_ ?_); rotate_left; (clear_value x; revert x; intro _ _); rotate_right; subst x)
    | (extract_lets -underBinder +onlyGivenNames x; clear_value x; revert x; intro _)
    | with_reducible apply UpdR.next
    | ((with_reducible apply Upd.go (opSettle_upd _ _)); rotate_left; exact rfl)
    | split

theorem opsResume_upd (n : Nat) (ended : Bool) (s : State) : Upd hostOos_parts s (opsResume n ended s) := by
  unfold opsResume
  repeat' first
    | intro _
    | with_reducible assumption
    | with_reducible exact Upd.refl _
    | ((with_reducible apply UpdS.snd); with_reducible assumption)
    | (extract_lets -underBinder +onlyGivenNames x; (with_reducible refine Upd.cut x ?_ ?_); rotate_left; (clear_value x; revert x; intro _ _); rotate_right; subst x)
    | (extract_lets -underBinder +onlyGivenNames x; clear_value x; revert x; intro _)
    | with_reducible apply Upd.ite <;> intro _
    | with_reducible apply Upd.foldl
    | with_reducible apply UpdS.foldl
    | ((with_reducible apply UpdS.snd); with_reducible apply UpdS.foldl)
    | ((with_reducible apply Upd.go (putOp_upd _ _)); rotate_left; exact rfl)
    | ((with_reducible apply Upd.go (opPartition_upd _ _ _)); rotate_left; exact rfl)
    | with_reducible apply UpdS.mk
    | dsimp only
    | split

theorem opsReset_upd (n : Nat) (s : State) : Upd [.ops] s (opsReset n s) := by
  unfold opsReset
  repeat' first
    | intro _
    | with_reducible assumption
    | with_reducible exact Upd.refl _
    | (extract_lets -underBinder +onlyGivenNames x; (with_reducible refine Upd.cut x ?_ ?_); rotate_left; (clear_value x; revert x; intro _ _); rotate_right; subst x)
    | (extract_lets -underBinder +onlyGivenNames x; clear_value x; revert x; intro _)
    | ((with_reducible apply Upd.set_ops); rotate_left; exact rfl)

end Sys2Proof.Machine
end

