-- ==== Sys2Proof/Laws/UpdFabric.lean ====
section
/-!
SUPPORT. What each operation of Machine/Fabric can change, and that it keeps the canonical form.
-/

namespace Sys2Proof.Machine

set_option maxRecDepth 4000
set_option linter.all false

theorem measure_upd (p : Nat) (f : Fld) (i : Nat) (s : State) : Upd [f.part, .freeCtr] s (measure p f i s) := by
  unfold measure
  refine Upd.go (freshNext_upd _) ((wri_upd p f i _ s).mono ?_) ?_
  · exact within_of_mem fun _ hq => List.contains_iff_mem.2 (List.mem_cons.2 (.inl (List.mem_singleton.1 hq)))
  · exact within_cons f.part [.freeCtr]

theorem setPortState_upd (p : Nat) (st : Nat) (s : State) : Upd [.outbox, .regIrq, .regErr, .regLdg, .regMcs, .regFlt, .regEvl, .ldgSeq,
    .ldgLost, .dram, .dramChk, .chans, .units, .snoop, .biWait, .servedBytes] s (setPortState p st s) := by
  unfold setPortState
  repeat' first
    | intro _
    | with_reducible assumption
    | with_reducible exact Upd.refl _
    | with_reducible apply Upd.ite <;> intro _
    | ((with_reducible apply Upd.go (wr_upd _ _ _ _)); rotate_left; exact rfl)
    | ((with_reducible apply Upd.go (raise_upd _ _ _)); rotate_left; exact rfl)
    | ((with_reducible apply Upd.go (ledger_upd _ _ _ _)); rotate_left; exact rfl)

theorem sendMember_upd (p : Nat) (type : Nat) (dst : Nat) (bcast : Bool) (s : State) : Upd [.freeCtr, .ports] s (sendMember p type dst
    bcast s) := by
  unfold sendMember
  repeat' first
    | intro _
    | with_reducible assumption
    | with_reducible exact Upd.refl _
    | (extract_lets -underBinder +onlyGivenNames x; (with_reducible refine Upd.cut x ?_ ?_); rotate_left; (clear_value x; revert x; intro _ _); rotate_right; subst x)
    | (extract_lets -underBinder +onlyGivenNames x; clear_value x; revert x; intro _)
    | with_reducible apply Upd.ite <;> intro _
    | ((with_reducible apply Upd.go (freshNext_upd _)); rotate_left; exact rfl)
    | ((with_reducible apply Upd.go (sendFrame_upd _ _ _ _)); rotate_left; exact rfl)

/-- What `reqFail` may change. -/
def reqFail_parts : List Part :=
  [.outbox, .freeCtr, .regIrq, .regErr, .regLdg, .regSpd, .regTmv, .regBku, .regMcs, .regFlt, .ldgSeq, .ldgLost, .ctxs, .runs, .engines,
   .spads, .spad, .spadChk, .dram, .dramChk, .chans, .units, .flights, .snoop, .biWait, .ceWins, .servedBytes, .ports]

theorem reqFail_upd (p : Nat) (r : RemoteReq) (status : Nat) (s : State) : Upd reqFail_parts s (reqFail p r status s) := by
  unfold reqFail
  repeat' first
    | intro _
    | with_reducible assumption
    | with_reducible exact Upd.refl _
    | (extract_lets -underBinder +onlyGivenNames x; (with_reducible refine Upd.cut x ?_ ?_); rotate_left; (clear_value x; revert x; intro _ _); rotate_right; subst x)
    | (extract_lets -underBinder +onlyGivenNames x; clear_value x; revert x; intro _)
    | with_reducible apply Upd.ite <;> intro _
    | ((with_reducible apply Upd.go (putPort_upd _ _ _)); rotate_left; exact rfl)
    | ((with_reducible apply Upd.go (remoteFail_upd _ _ _ _ _)); rotate_left; exact rfl)
    | ((with_reducible apply Upd.go (undefineDest_upd _ _ _ _ _ _ _ _ _)); rotate_left; exact rfl)
    | ((with_reducible apply Upd.go (tmFault_upd _ _ _ _ _ _ _ _ _)); rotate_left; exact rfl)
    | split

theorem failRequests_upd (p : Nat) (f : RemoteReq → Bool) (s : State) : Upd reqFail_parts s (failRequests p f s) := by
  unfold failRequests
  repeat' first
    | intro _
    | with_reducible assumption
    | with_reducible exact Upd.refl _
    | ((with_reducible apply UpdS.snd); with_reducible assumption)
    | with_reducible apply Upd.foldl
    | with_reducible apply UpdS.foldl
    | ((with_reducible apply UpdS.snd); with_reducible apply UpdS.foldl)
    | ((with_reducible apply Upd.go (reqFail_upd _ _ _ _)); rotate_left; exact rfl)
    | with_reducible apply UpdS.mk
    | dsimp only

/-- What `endStream` may change. -/
def endStream_parts : List Part :=
  [.outbox, .freeCtr, .regIrq, .regErr, .regLdg, .regSpd, .regTmv, .regBku, .regMcs, .regFlt, .ldgSeq, .ldgLost, .ctxs, .runs, .engines,
   .spads, .spad, .spadChk, .serais, .dram, .dramChk, .chans, .units, .flights, .snoop, .biWait, .ceWins, .servedBytes, .ports]

theorem endStream_upd (p : Nat) (s : State) : Upd endStream_parts s (endStream p s) := by
  unfold endStream
  repeat' first
    | intro _
    | with_reducible assumption
    | with_reducible exact Upd.refl _
    | (extract_lets -underBinder +onlyGivenNames x; (with_reducible refine Upd.cut x ?_ ?_); rotate_left; (clear_value x; revert x; intro _ _); rotate_right; subst x)
    | (extract_lets -underBinder +onlyGivenNames x; clear_value x; revert x; intro _)
    | with_reducible apply Upd.forUpto
    | ((with_reducible apply Upd.go (orphanHeld_upd _ _ _)); rotate_left; exact rfl)
    | ((with_reducible apply Upd.go (putPort_upd _ _ _)); rotate_left; exact rfl)
    | ((with_reducible apply Upd.go (failRequests_upd _ _ _)); rotate_left; exact rfl)

/-- What `leaveStream` may change. -/
def leaveStream_parts : List Part :=
  [.outbox, .freeCtr, .regIrq, .regErr, .regLdg, .regSpd, .regTmv, .regBku, .regMcs, .regFlt, .regEvl, .ldgSeq, .ldgLost, .ctxs, .runs,
   .engines, .spads, .spad, .spadChk, .serais, .dram, .dramChk, .chans, .units, .flights, .snoop, .biWait, .ceWins, .servedBytes, .ports]

theorem leaveStream_upd (p : Nat) (st : Nat) (s : State) : Upd leaveStream_parts s (leaveStream p st s) := by
  unfold leaveStream
  repeat' first
    | intro _
    | with_reducible assumption
    | with_reducible exact Upd.refl _
    | (extract_lets -underBinder +onlyGivenNames x; (with_reducible refine Upd.cut x ?_ ?_); rotate_left; (clear_value x; revert x; intro _ _); rotate_right; subst x)
    | (extract_lets -underBinder +onlyGivenNames x; clear_value x; revert x; intro _)
    | with_reducible apply Upd.ite <;> intro _
    | ((with_reducible apply Upd.go (wr_upd _ _ _ _)); rotate_left; exact rfl)
    | ((with_reducible apply Upd.go (setPortState_upd _ _ _)); rotate_left; exact rfl)
    | ((with_reducible apply Upd.go (endStream_upd _ _)); rotate_left; exact rfl)

theorem startTraining_upd (p : Nat) (attempts : Nat) (s : State) : Upd leaveStream_parts s (startTraining p attempts s) := by
  unfold startTraining
  repeat' first
    | intro _
    | with_reducible assumption
    | with_reducible exact Upd.refl _
    | (extract_lets -underBinder +onlyGivenNames x; (with_reducible refine Upd.cut x ?_ ?_); rotate_left; (clear_value x; revert x; intro _ _); rotate_right; subst x)
    | (extract_lets -underBinder +onlyGivenNames x; clear_value x; revert x; intro _)
    | ((with_reducible apply Upd.go (putPort_upd _ _ _)); rotate_left; exact rfl)
    | ((with_reducible apply Upd.go (sendMember_upd _ _ _ _ _)); rotate_left; exact rfl)
    | ((with_reducible apply Upd.go (leaveStream_upd _ _ _)); rotate_left; exact rfl)

theorem portDown_upd (p : Nat) (cause : Nat) (s : State) : Upd leaveStream_parts s (portDown p cause s) := by
  unfold portDown
  repeat' first
    | intro _
    | with_reducible assumption
    | with_reducible exact Upd.refl _
    | (extract_lets -underBinder +onlyGivenNames x; (with_reducible refine Upd.cut x ?_ ?_); rotate_left; (clear_value x; revert x; intro _ _); rotate_right; subst x)
    | (extract_lets -underBinder +onlyGivenNames x; clear_value x; revert x; intro _)
    | ((with_reducible apply Upd.go (wr_upd _ _ _ _)); rotate_left; exact rfl)
    | ((with_reducible apply Upd.go (logErr_upd _ _ _ _ _)); rotate_left; exact rfl)
    | ((with_reducible apply Upd.go (leaveStream_upd _ _ _)); rotate_left; exact rfl)

theorem trainOrDark_upd (p : Nat) (s : State) : Upd leaveStream_parts s (trainOrDark p s) := by
  unfold trainOrDark
  repeat' first
    | intro _
    | with_reducible assumption
    | with_reducible exact Upd.refl _
    | with_reducible apply Upd.ite <;> intro _
    | ((with_reducible apply Upd.go (leaveStream_upd _ _ _)); rotate_left; exact rfl)
    | ((with_reducible apply Upd.go (startTraining_upd _ _ _)); rotate_left; exact rfl)

theorem portEnWrite_upd (port : Nat) (v : Nat) (s : State) : Upd leaveStream_parts s (portEnWrite port v s) := by
  unfold portEnWrite
  repeat' first
    | intro _
    | with_reducible assumption
    | with_reducible exact Upd.refl _
    | (extract_lets -underBinder +onlyGivenNames x; (with_reducible refine Upd.cut x ?_ ?_); rotate_left; (clear_value x; revert x; intro _ _); rotate_right; subst x)
    | (extract_lets -underBinder +onlyGivenNames x; clear_value x; revert x; intro _)
    | with_reducible apply Upd.ite <;> intro _
    | ((with_reducible apply Upd.go (wr_upd _ _ _ _)); rotate_left; exact rfl)
    | ((with_reducible apply Upd.go (leaveStream_upd _ _ _)); rotate_left; exact rfl)
    | ((with_reducible apply Upd.go (trainOrDark_upd _ _)); rotate_left; exact rfl)

theorem execPortEnWrite_upd (port : Nat) (value : Nat) (s : State) : UpdR leaveStream_parts s (execPortEnWrite port value s) := by
  unfold execPortEnWrite
  repeat' first
    | intro _
    | with_reducible assumption
    | with_reducible exact Upd.refl _
    | with_reducible apply UpdR.next
    | with_reducible apply hostWrites_upd
    | ((with_reducible apply Upd.go (portEnWrite_upd _ _ _)); rotate_left; exact rfl)

theorem retrain_upd (port : Nat) (s : State) : Upd leaveStream_parts s (retrain port s) := by
  unfold retrain
  repeat' first
    | intro _
    | with_reducible assumption
    | with_reducible exact Upd.refl _
    | with_reducible apply Upd.ite <;> intro _
    | ((with_reducible apply Upd.go (wr_upd _ _ _ _)); rotate_left; exact rfl)
    | ((with_reducible apply Upd.go (startTraining_upd _ _ _)); rotate_left; exact rfl)
    | split

theorem execRetrain_upd (port : Nat) (s : State) : UpdR leaveStream_parts s (execRetrain port s) := by
  unfold execRetrain
  repeat' first
    | intro _
    | with_reducible assumption
    | with_reducible exact Upd.refl _
    | with_reducible apply UpdR.next
    | with_reducible apply hostWrites_upd
    | ((with_reducible apply Upd.go (retrain_upd _ _)); rotate_left; exact rfl)

theorem execTrainAttemptTimeout_upd (port : Nat) (s : State) : UpdR leaveStream_parts s (execTrainAttemptTimeout port s) := by
  unfold execTrainAttemptTimeout
  repeat' first
    | intro _
    | with_reducible assumption
    | with_reducible exact Upd.refl _
    | (extract_lets -underBinder +onlyGivenNames x; (with_reducible refine UpdR.cut x ?_ ?_); rotate_left; (clear_value x; revert x; intro _ _); rotate_right; subst x)
    | (extract_lets -underBinder +onlyGivenNames x; (with_reducible refine Upd.cut x ?_ ?_); rotate_left; (clear_value x; revert x; intro _ _); rotate_right; subst x)
    | (extract_lets -underBinder +onlyGivenNames x; clear_value x; revert x; intro _)
    | with_reducible apply Upd.ite <;> intro _
    | with_reducible apply UpdR.ite <;> intro _
    | with_reducible apply UpdR.next
    | ((with_reducible apply Upd.go (startTraining_upd _ _ _)); rotate_left; exact rfl)
    | ((with_reducible apply Upd.go (portDown_upd _ _ _)); rotate_left; exact rfl)

theorem measureLanes_upd (port : Nat) (s : State) : Upd [.freeCtr, .regOpt] s (measureLanes port s) := by
  unfold measureLanes
  repeat' first
    | intro _
    | with_reducible assumption
    | with_reducible exact Upd.refl _
    | (extract_lets -underBinder +onlyGivenNames x; (with_reducible refine Upd.cut x ?_ ?_); rotate_left; (clear_value x; revert x; intro _ _); rotate_right; subst x)
    | (extract_lets -underBinder +onlyGivenNames x; clear_value x; revert x; intro _)
    | with_reducible apply Upd.forUpto
    | ((with_reducible apply Upd.go (wri_upd _ _ _ _ _)); rotate_left; exact rfl)
    | ((with_reducible apply Upd.go (wr_upd _ _ _ _)); rotate_left; exact rfl)
    | ((with_reducible apply Upd.go (freshNext_upd _)); rotate_left; exact rfl)

/-- What `execPortUp` may change. -/
def execPortUp_parts : List Part :=
  [.outbox, .freeCtr, .regIrq, .regErr, .regLdg, .regSpd, .regTmv, .regBku, .regMcs, .regFlt, .regEvl, .regOpt, .ldgSeq, .ldgLost, .ctxs,
   .runs, .engines, .spads, .spad, .spadChk, .serais, .dram, .dramChk, .chans, .units, .flights, .snoop, .biWait, .ceWins, .servedBytes,
   .ports]

theorem execPortUp_upd (port : Nat) (lanes : Nat) (rtt : Nat) (s : State) : UpdR execPortUp_parts s (execPortUp port lanes rtt s) := by
  unfold execPortUp
  repeat' first
    | intro _
    | with_reducible assumption
    | with_reducible exact Upd.refl _
    | (extract_lets -underBinder +onlyGivenNames x; (with_reducible refine UpdR.cut x ?_ ?_); rotate_left; (clear_value x; revert x; intro _ _); rotate_right; subst x)
    | (extract_lets -underBinder +onlyGivenNames x; (with_reducible refine Upd.cut x ?_ ?_); rotate_left; (clear_value x; revert x; intro _ _); rotate_right; subst x)
    | (extract_lets -underBinder +onlyGivenNames x; clear_value x; revert x; intro _)
    | with_reducible apply Upd.ite <;> intro _
    | with_reducible apply UpdR.ite <;> intro _
    | with_reducible apply UpdR.next
    | ((with_reducible apply Upd.go (wr_upd _ _ _ _)); rotate_left; exact rfl)
    | ((with_reducible apply Upd.go (putPort_upd _ _ _)); rotate_left; exact rfl)
    | ((with_reducible apply Upd.go (setPortState_upd _ _ _)); rotate_left; exact rfl)
    | ((with_reducible apply Upd.go (sendMember_upd _ _ _ _ _)); rotate_left; exact rfl)
    | ((with_reducible apply Upd.go (portDown_upd _ _ _)); rotate_left; exact rfl)
    | ((with_reducible apply Upd.go (measureLanes_upd _ _)); rotate_left; exact rfl)
    | split

theorem execFastRetrain_upd (port : Nat) (s : State) : UpdR [.outbox, .regIrq, .regErr, .regLdg, .regMcs, .regFlt, .regEvl, .ldgSeq,
    .ldgLost, .dram, .dramChk, .chans, .units, .snoop, .biWait, .servedBytes] s (execFastRetrain port s) := by
  unfold execFastRetrain
  repeat' first
    | intro _
    | with_reducible assumption
    | with_reducible exact Upd.refl _
    | with_reducible apply Upd.ite <;> intro _
    | with_reducible apply UpdR.ite <;> intro _
    | with_reducible apply UpdR.next
    | ((with_reducible apply Upd.go (setPortState_upd _ _ _)); rotate_left; exact rfl)

theorem execFastRetrainDone_upd (port : Nat) (ok : Bool) (s : State) : UpdR leaveStream_parts s (execFastRetrainDone port ok s) := by
  unfold execFastRetrainDone
  repeat' first
    | intro _
    | with_reducible assumption
    | with_reducible exact Upd.refl _
    | with_reducible apply Upd.ite <;> intro _
    | with_reducible apply UpdR.ite <;> intro _
    | with_reducible apply UpdR.next
    | ((with_reducible apply Upd.go (setPortState_upd _ _ _)); rotate_left; exact rfl)
    | ((with_reducible apply Upd.go (trainOrDark_upd _ _)); rotate_left; exact rfl)

theorem execPortDown_upd (port : Nat) (cause : Nat) (s : State) : UpdR leaveStream_parts s (execPortDown port cause s) := by
  unfold execPortDown
  repeat' first
    | intro _
    | with_reducible assumption
    | with_reducible exact Upd.refl _
    | with_reducible apply Upd.ite <;> intro _
    | with_reducible apply UpdR.ite <;> intro _
    | with_reducible apply UpdR.next
    | ((with_reducible apply Upd.go (portDown_upd _ _ _)); rotate_left; exact rfl)
    | split

theorem execPortFatal_upd (port : Nat) (code : Nat) (detail : Nat) (s : State) : UpdR leaveStream_parts s (execPortFatal port code detail
    s) := by
  unfold execPortFatal
  repeat' first
    | intro _
    | with_reducible assumption
    | with_reducible exact Upd.refl _
    | (extract_lets -underBinder +onlyGivenNames x; (with_reducible refine UpdR.cut x ?_ ?_); rotate_left; (clear_value x; revert x; intro _ _); rotate_right; subst x)
    | (extract_lets -underBinder +onlyGivenNames x; (with_reducible refine Upd.cut x ?_ ?_); rotate_left; (clear_value x; revert x; intro _ _); rotate_right; subst x)
    | (extract_lets -underBinder +onlyGivenNames x; clear_value x; revert x; intro _)
    | with_reducible apply Upd.ite <;> intro _
    | with_reducible apply UpdR.ite <;> intro _
    | with_reducible apply UpdR.next
    | ((with_reducible apply Upd.go (wr_upd _ _ _ _)); rotate_left; exact rfl)
    | ((with_reducible apply Upd.go (logErr_upd _ _ _ _ _)); rotate_left; exact rfl)
    | ((with_reducible apply Upd.go (leaveStream_upd _ _ _)); rotate_left; exact rfl)

/-- What `setCart` may change. -/
def setCart_parts : List Part :=
  [.outbox, .freeCtr, .regIrq, .regErr, .regLdg, .regSpd, .regTmv, .regBku, .regMcs, .regFlt, .regEvl, .regOpt, .regBay, .ldgSeq, .ldgLost,
   .ctxs, .runs, .engines, .spads, .spad, .spadChk, .serais, .dram, .dramChk, .chans, .units, .flights, .snoop, .biWait, .ceWins,
   .servedBytes, .ports]

theorem setCart_upd (b : Nat) (st : Nat) (s : State) : Upd setCart_parts s (setCart b st s) := by
  unfold setCart
  repeat' first
    | intro _
    | with_reducible assumption
    | with_reducible exact Upd.refl _
    | (extract_lets -underBinder +onlyGivenNames x; (with_reducible refine Upd.cut x ?_ ?_); rotate_left; (clear_value x; revert x; intro _ _); rotate_right; subst x)
    | (extract_lets -underBinder +onlyGivenNames x; clear_value x; revert x; intro _)
    | with_reducible apply Upd.ite <;> intro _
    | with_reducible apply Upd.forUpto
    | ((with_reducible apply Upd.go (wr_upd _ _ _ _)); rotate_left; exact rfl)
    | ((with_reducible apply Upd.go (raise_upd _ _ _)); rotate_left; exact rfl)
    | ((with_reducible apply Upd.go (ledger_upd _ _ _ _)); rotate_left; exact rfl)
    | ((with_reducible apply Upd.go (measure_upd _ _ _ _)); rotate_left; exact rfl)
    | ((with_reducible apply Upd.go (leaveStream_upd _ _ _)); rotate_left; exact rfl)
    | ((with_reducible apply Upd.go (startTraining_upd _ _ _)); rotate_left; exact rfl)
    | split

/-- What `prepare` may change. -/
def prepare_parts : List Part :=
  [.outbox, .freeCtr, .regIrq, .regLock, .regErr, .regLdg, .regSpd, .regTmv, .regBku, .regMcs, .regFlt, .regEvl, .regOpt, .regBay, .ldgSeq,
   .ldgLost, .ctxs, .runs, .engines, .spads, .spad, .spadChk, .serais, .dram, .dramChk, .chans, .units, .flights, .snoop, .biWait,
   .ceWins, .servedBytes, .ports]

theorem prepare_upd (bay : Nat) (s : State) : Upd prepare_parts s (prepare bay s) := by
  unfold prepare
  repeat' first
    | intro _
    | with_reducible assumption
    | with_reducible exact Upd.refl _
    | (extract_lets -underBinder +onlyGivenNames x; (with_reducible refine Upd.cut x ?_ ?_); rotate_left; (clear_value x; revert x; intro _ _); rotate_right; subst x)
    | (extract_lets -underBinder +onlyGivenNames x; clear_value x; revert x; intro _)
    | with_reducible apply Upd.ite <;> intro _
    | ((with_reducible apply Upd.go (wr_upd _ _ _ _)); rotate_left; exact rfl)
    | ((with_reducible apply Upd.go (logErr_upd _ _ _ _ _)); rotate_left; exact rfl)
    | ((with_reducible apply Upd.go (setCart_upd _ _ _)); rotate_left; exact rfl)
    | split

theorem execPrepare_upd (bay : Nat) (s : State) : UpdR prepare_parts s (execPrepare bay s) := by
  unfold execPrepare
  repeat' first
    | intro _
    | with_reducible assumption
    | with_reducible exact Upd.refl _
    | with_reducible apply UpdR.next
    | ((with_reducible apply Upd.go (prepare_upd _ _)); rotate_left; exact rfl)

theorem execPrepareDone_upd (bay : Nat) (s : State) : UpdR setCart_parts s (execPrepareDone bay s) := by
  unfold execPrepareDone
  repeat' first
    | intro _
    | with_reducible assumption
    | with_reducible exact Upd.refl _
    | with_reducible apply Upd.ite <;> intro _
    | with_reducible apply UpdR.ite <;> intro _
    | with_reducible apply UpdR.next
    | with_reducible apply Upd.forUpto
    | ((with_reducible apply Upd.go (wri_upd _ _ _ _ _)); rotate_left; exact rfl)
    | ((with_reducible apply Upd.go (raise_upd _ _ _)); rotate_left; exact rfl)
    | ((with_reducible apply Upd.go (setCart_upd _ _ _)); rotate_left; exact rfl)

theorem cancelPrepare_upd (bay : Nat) (s : State) : Upd setCart_parts s (cancelPrepare bay s) := by
  unfold cancelPrepare
  repeat' first
    | intro _
    | with_reducible assumption
    | with_reducible exact Upd.refl _
    | with_reducible apply Upd.ite <;> intro _
    | ((with_reducible apply Upd.go (setCart_upd _ _ _)); rotate_left; exact rfl)

theorem execCancel_upd (bay : Nat) (s : State) : UpdR setCart_parts s (execCancel bay s) := by
  unfold execCancel
  repeat' first
    | intro _
    | with_reducible assumption
    | with_reducible exact Upd.refl _
    | with_reducible apply UpdR.next
    | ((with_reducible apply Upd.go (cancelPrepare_upd _ _)); rotate_left; exact rfl)

theorem startWarming_upd (bay : Nat) (s : State) : Upd setCart_parts s (startWarming bay s) := by
  unfold startWarming
  repeat' first
    | intro _
    | with_reducible assumption
    | with_reducible exact Upd.refl _
    | ((with_reducible apply Upd.go (wr_upd _ _ _ _)); rotate_left; exact rfl)
    | ((with_reducible apply Upd.go (measure_upd _ _ _ _)); rotate_left; exact rfl)
    | ((with_reducible apply Upd.go (setCart_upd _ _ _)); rotate_left; exact rfl)

theorem execCartInsert_upd (bay : Nat) (id : Nat) (hours : Nat) (s : State) : UpdR setCart_parts s (execCartInsert bay id hours s) := by
  unfold execCartInsert
  repeat' first
    | intro _
    | with_reducible assumption
    | with_reducible exact Upd.refl _
    | (extract_lets -underBinder +onlyGivenNames x; (with_reducible refine UpdR.cut x ?_ ?_); rotate_left; (clear_value x; revert x; intro _ _); rotate_right; subst x)
    | (extract_lets -underBinder +onlyGivenNames x; (with_reducible refine Upd.cut x ?_ ?_); rotate_left; (clear_value x; revert x; intro _ _); rotate_right; subst x)
    | (extract_lets -underBinder +onlyGivenNames x; clear_value x; revert x; intro _)
    | with_reducible apply Upd.ite <;> intro _
    | with_reducible apply UpdR.ite <;> intro _
    | with_reducible apply UpdR.next
    | ((with_reducible apply Upd.go (wr_upd _ _ _ _)); rotate_left; exact rfl)
    | ((with_reducible apply Upd.go (startWarming_upd _ _)); rotate_left; exact rfl)

theorem execCartRemove_upd (bay : Nat) (s : State) : UpdR setCart_parts s (execCartRemove bay s) := by
  unfold execCartRemove
  repeat' first
    | intro _
    | with_reducible assumption
    | with_reducible exact Upd.refl _
    | (extract_lets -underBinder +onlyGivenNames x; (with_reducible refine UpdR.cut x ?_ ?_); rotate_left; (clear_value x; revert x; intro _ _); rotate_right; subst x)
    | (extract_lets -underBinder +onlyGivenNames x; (with_reducible refine Upd.cut x ?_ ?_); rotate_left; (clear_value x; revert x; intro _ _); rotate_right; subst x)
    | (extract_lets -underBinder +onlyGivenNames x; clear_value x; revert x; intro _)
    | with_reducible apply UpdR.next
    | with_reducible apply Upd.forUpto
    | ((with_reducible apply Upd.go (wri_upd _ _ _ _ _)); rotate_left; exact rfl)
    | ((with_reducible apply Upd.go (wr_upd _ _ _ _)); rotate_left; exact rfl)
    | ((with_reducible apply Upd.go (setCart_upd _ _ _)); rotate_left; exact rfl)

theorem execWarmingDone_upd (bay : Nat) (s : State) : UpdR setCart_parts s (execWarmingDone bay s) := by
  unfold execWarmingDone
  repeat' first
    | intro _
    | with_reducible assumption
    | with_reducible exact Upd.refl _
    | with_reducible apply Upd.ite <;> intro _
    | with_reducible apply UpdR.ite <;> intro _
    | with_reducible apply UpdR.next
    | ((with_reducible apply Upd.go (wr_upd _ _ _ _)); rotate_left; exact rfl)
    | ((with_reducible apply Upd.go (measure_upd _ _ _ _)); rotate_left; exact rfl)
    | ((with_reducible apply Upd.go (setCart_upd _ _ _)); rotate_left; exact rfl)

theorem execLockDone_upd (bay : Nat) (s : State) : UpdR setCart_parts s (execLockDone bay s) := by
  unfold execLockDone
  repeat' first
    | intro _
    | with_reducible assumption
    | with_reducible exact Upd.refl _
    | with_reducible apply Upd.ite <;> intro _
    | with_reducible apply UpdR.ite <;> intro _
    | with_reducible apply UpdR.next
    | with_reducible apply Upd.forUpto
    | ((with_reducible apply Upd.go (measure_upd _ _ _ _)); rotate_left; exact rfl)
    | ((with_reducible apply Upd.go (setCart_upd _ _ _)); rotate_left; exact rfl)

theorem cartFault_upd (bay : Nat) (cause : Nat) (s : State) : Upd setCart_parts s (cartFault bay cause s) := by
  unfold cartFault
  repeat' first
    | intro _
    | with_reducible assumption
    | with_reducible exact Upd.refl _
    | with_reducible apply Upd.forUpto
    | ((with_reducible apply Upd.go (wri_upd _ _ _ _ _)); rotate_left; exact rfl)
    | ((with_reducible apply Upd.go (logErr_upd _ _ _ _ _)); rotate_left; exact rfl)
    | ((with_reducible apply Upd.go (setCart_upd _ _ _)); rotate_left; exact rfl)

theorem execLockTimeout_upd (bay : Nat) (s : State) : UpdR setCart_parts s (execLockTimeout bay s) := by
  unfold execLockTimeout
  repeat' first
    | intro _
    | with_reducible assumption
    | with_reducible exact Upd.refl _
    | with_reducible apply Upd.ite <;> intro _
    | with_reducible apply UpdR.ite <;> intro _
    | with_reducible apply UpdR.next
    | ((with_reducible apply Upd.go (cartFault_upd _ _ _)); rotate_left; exact rfl)

theorem execCartFault_upd (bay : Nat) (cause : Nat) (s : State) : UpdR setCart_parts s (execCartFault bay cause s) := by
  unfold execCartFault
  repeat' first
    | intro _
    | with_reducible assumption
    | with_reducible exact Upd.refl _
    | with_reducible apply Upd.ite <;> intro _
    | with_reducible apply UpdR.ite <;> intro _
    | with_reducible apply UpdR.next
    | ((with_reducible apply Upd.go (cartFault_upd _ _ _)); rotate_left; exact rfl)

theorem returnCredits_upd (p : Nat) (vc : Nat) (n : Nat) (s : State) : Upd [.ports] s (returnCredits p vc n s) := by
  unfold returnCredits
  repeat' first
    | intro _
    | with_reducible assumption
    | with_reducible exact Upd.refl _
    | (extract_lets -underBinder +onlyGivenNames x; (with_reducible refine Upd.cut x ?_ ?_); rotate_left; (clear_value x; revert x; intro _ _); rotate_right; subst x)
    | (extract_lets -underBinder +onlyGivenNames x; clear_value x; revert x; intro _)
    | with_reducible apply Upd.getD
    | ((with_reducible apply Upd.go (putPort_upd _ _ _)); rotate_left; exact rfl)

theorem deliver_upd (p : Nat) (f : List Byte) (training : Bool) (s : State) : Upd [.outbox, .regIrq, .regErr, .regFlt, .regEvl, .ports] s
    (deliver p f training s) := by
  unfold deliver
  repeat' first
    | intro _
    | with_reducible assumption
    | with_reducible exact Upd.refl _
    | (extract_lets -underBinder +onlyGivenNames x; (with_reducible refine Upd.cut x ?_ ?_); rotate_left; (clear_value x; revert x; intro _ _); rotate_right; subst x)
    | (extract_lets -underBinder +onlyGivenNames x; clear_value x; revert x; intro _)
    | with_reducible apply Upd.ite <;> intro _
    | with_reducible apply Upd.getD
    | ((with_reducible apply Upd.go (count_upd _ _ _ _)); rotate_left; exact rfl)
    | ((with_reducible apply Upd.go (logErr_upd _ _ _ _ _)); rotate_left; exact rfl)
    | ((with_reducible apply Upd.go (putPort_upd _ _ _)); rotate_left; exact rfl)
    | ((with_reducible apply Upd.go (returnCredits_upd _ _ _ _)); rotate_left; exact rfl)
    | split

theorem parseStream_upd (p : Nat) (training : Bool) (ax : Nat) (s : State) : Upd [.outbox, .regIrq, .regErr, .regFlt, .regEvl, .ports] s
    (parseStream p training ax s) := by
  induction ax generalizing s with
  | zero =>
    unfold parseStream
    exact Upd.refl _
  | succ n ih =>
  unfold parseStream
  repeat' first
    | intro _
    | with_reducible assumption
    | ((with_reducible apply Upd.go (ih _)); rotate_left; exact rfl)
    | with_reducible exact Upd.refl _
    | (extract_lets -underBinder +onlyGivenNames x; (with_reducible refine Upd.cut x ?_ ?_); rotate_left; (clear_value x; revert x; intro _ _); rotate_right; subst x)
    | (extract_lets -underBinder +onlyGivenNames x; clear_value x; revert x; intro _)
    | with_reducible apply Upd.ite <;> intro _
    | ((with_reducible apply Upd.go (putPort_upd _ _ _)); rotate_left; exact rfl)
    | ((with_reducible apply Upd.go (deliver_upd _ _ _ _)); rotate_left; exact rfl)
    | split

theorem takeAck_upd (p : Nat) (ack : Nat) (nak : Nat) (s : State) : Upd [.regEvl, .ports] s (takeAck p ack nak s) := by
  unfold takeAck
  repeat' first
    | intro _
    | with_reducible assumption
    | with_reducible exact Upd.refl _
    | (extract_lets -underBinder +onlyGivenNames x; (with_reducible refine Upd.cut x ?_ ?_); rotate_left; (clear_value x; revert x; intro _ _); rotate_right; subst x)
    | (extract_lets -underBinder +onlyGivenNames x; clear_value x; revert x; intro _)
    | with_reducible apply Upd.ite <;> intro _
    | ((with_reducible apply Upd.go (count_upd _ _ _ _)); rotate_left; exact rfl)
    | ((with_reducible apply Upd.go (putPort_upd _ _ _)); rotate_left; exact rfl)
    | split

theorem execFlitReceive_upd (port : Nat) (flit : List Byte) (corrected : Nat) (uncorrectable : Bool) (s : State) : UpdR [.outbox, .regIrq,
    .regErr, .regFlt, .regEvl, .ports] s (execFlitReceive port flit corrected uncorrectable s) := by
  unfold execFlitReceive
  repeat' first
    | intro _
    | with_reducible assumption
    | with_reducible exact Upd.refl _
    | (extract_lets -underBinder +onlyGivenNames x; (with_reducible refine UpdR.cut x ?_ ?_); rotate_left; (clear_value x; revert x; intro _ _); rotate_right; subst x)
    | (extract_lets -underBinder +onlyGivenNames x; (with_reducible refine Upd.cut x ?_ ?_); rotate_left; (clear_value x; revert x; intro _ _); rotate_right; subst x)
    | (extract_lets -underBinder +onlyGivenNames x; clear_value x; revert x; intro _)
    | with_reducible apply Upd.ite <;> intro _
    | with_reducible apply UpdR.ite <;> intro _
    | with_reducible apply UpdR.next
    | ((with_reducible apply Upd.go (wr_upd _ _ _ _)); rotate_left; first | exact rfl | (unfold txCredit; split <;> rfl))
    | ((with_reducible apply Upd.go (count_upd _ _ _ _)); rotate_left; first | exact rfl | (unfold txCredit; split <;> rfl))
    | ((with_reducible apply Upd.go (putPort_upd _ _ _)); rotate_left; exact rfl)
    | ((with_reducible apply Upd.go (parseStream_upd _ _ _ _)); rotate_left; exact rfl)
    | ((with_reducible apply Upd.go (takeAck_upd _ _ _ _)); rotate_left; exact rfl)
    | split

theorem popFrame_upd (p : Nat) (vc : Nat) (s : State) : UpdS [.regEvl, .ports] s (popFrame p vc s) := by
  unfold popFrame
  repeat' first
    | intro _
    | with_reducible assumption
    | with_reducible exact Upd.refl _
    | ((with_reducible apply UpdS.snd); with_reducible assumption)
    | (extract_lets -underBinder +onlyGivenNames x; (with_reducible refine UpdS.cut x ?_ ?_); rotate_left; (clear_value x; revert x; intro _ _); rotate_right; subst x)
    | (extract_lets -underBinder +onlyGivenNames x; (with_reducible refine Upd.cut x ?_ ?_); rotate_left; (clear_value x; revert x; intro _ _); rotate_right; subst x)
    | (extract_lets -underBinder +onlyGivenNames x; clear_value x; revert x; intro _)
    | with_reducible apply Upd.ite <;> intro _
    | with_reducible apply UpdS.ite <;> intro _
    | with_reducible apply Upd.getD
    | ((with_reducible apply Upd.go (wr_upd _ _ _ _)); rotate_left; first | exact rfl | (unfold txCredit; split <;> rfl))
    | ((with_reducible apply Upd.go (putPort_upd _ _ _)); rotate_left; exact rfl)
    | with_reducible apply UpdS.mk
    | dsimp only
    | split

theorem fillArea_upd (p : Nat) (ax : Nat) (bx : List Byte) (s : State) : UpdS [.regEvl, .ports] s (fillArea p ax bx s) := by
  induction ax generalizing bx s with
  | zero =>
    unfold fillArea
    exact Upd.refl _
  | succ n ih =>
  unfold fillArea
  repeat' first
    | intro _
    | with_reducible assumption
    | ((with_reducible apply UpdS.go (ih _ _)); rotate_left; exact rfl)
    | ((with_reducible apply UpdS.snd); with_reducible assumption)
    | ((with_reducible apply Upd.goS (ih _ _)); rotate_left; exact rfl)
    | with_reducible exact Upd.refl _
    | (extract_lets -underBinder +onlyGivenNames x; (with_reducible refine UpdS.cut x ?_ ?_); rotate_left; (clear_value x; revert x; intro _ _); rotate_right; subst x)
    | (extract_lets -underBinder +onlyGivenNames x; (with_reducible refine Upd.cut x ?_ ?_); rotate_left; (clear_value x; revert x; intro _ _); rotate_right; subst x)
    | (extract_lets -underBinder +onlyGivenNames x; (with_reducible refine UpdS.cutSnd x ?_ ?_); rotate_left; (clear_value x; revert x; intro _ _); rotate_right; subst x)
    | (extract_lets -underBinder +onlyGivenNames x; (with_reducible refine Upd.cutSnd x ?_ ?_); rotate_left; (clear_value x; revert x; intro _ _); rotate_right; subst x)
    | (extract_lets -underBinder +onlyGivenNames x; clear_value x; revert x; intro _)
    | with_reducible apply Upd.ite <;> intro _
    | with_reducible apply UpdS.ite <;> intro _
    | ((with_reducible apply Upd.goS (popFrame_upd _ _ _)); rotate_left; exact rfl)
    | ((with_reducible apply UpdS.go (popFrame_upd _ _ _)); rotate_left; exact rfl)
    | with_reducible apply UpdS.mk
    | dsimp only
    | ((with_reducible apply UpdS.of_eq); with_reducible assumption)
    | split

theorem nextArea_upd (p : Nat) (s : State) : UpdS [.regEvl, .ports] s (nextArea p s) := by
  unfold nextArea
  repeat' first
    | intro _
    | with_reducible assumption
    | with_reducible exact Upd.refl _
    | ((with_reducible apply UpdS.snd); with_reducible assumption)
    | (extract_lets -underBinder +onlyGivenNames x; (with_reducible refine UpdS.cut x ?_ ?_); rotate_left; (clear_value x; revert x; intro _ _); rotate_right; subst x)
    | (extract_lets -underBinder +onlyGivenNames x; (with_reducible refine Upd.cut x ?_ ?_); rotate_left; (clear_value x; revert x; intro _ _); rotate_right; subst x)
    | (extract_lets -underBinder +onlyGivenNames x; (with_reducible refine UpdS.cutSnd x ?_ ?_); rotate_left; (clear_value x; revert x; intro _ _); rotate_right; subst x)
    | (extract_lets -underBinder +onlyGivenNames x; (with_reducible refine Upd.cutSnd x ?_ ?_); rotate_left; (clear_value x; revert x; intro _ _); rotate_right; subst x)
    | (extract_lets -underBinder +onlyGivenNames x; clear_value x; revert x; intro _)
    | with_reducible apply Upd.ite <;> intro _
    | with_reducible apply UpdS.ite <;> intro _
    | with_reducible apply Upd.getD
    | ((with_reducible apply Upd.go (putPort_upd _ _ _)); rotate_left; exact rfl)
    | ((with_reducible apply Upd.goS (fillArea_upd _ _ _ _)); rotate_left; exact rfl)
    | ((with_reducible apply UpdS.go (fillArea_upd _ _ _ _)); rotate_left; exact rfl)
    | with_reducible apply UpdS.mk
    | dsimp only

theorem sendFlit_upd (p : Nat) (fseq : Nat) (vc : Nat) (units : Nat) (area : List Byte) (s : State) : Upd [.outbox, .regEvl] s (sendFlit p
    fseq vc units area s) := by
  unfold sendFlit
  repeat' first
    | intro _
    | with_reducible assumption
    | with_reducible exact Upd.refl _
    | (extract_lets -underBinder +onlyGivenNames x; (with_reducible refine Upd.cut x ?_ ?_); rotate_left; (clear_value x; revert x; intro _ _); rotate_right; subst x)
    | (extract_lets -underBinder +onlyGivenNames x; clear_value x; revert x; intro _)
    | with_reducible apply Upd.ite <;> intro _
    | ((with_reducible apply Upd.go (count_upd _ _ _ _)); rotate_left; exact rfl)
    | ((with_reducible apply Upd.go (emit_upd _ _)); rotate_left; exact rfl)

theorem execFlitTransmit_upd (port : Nat) (s : State) : UpdR [.outbox, .regEvl, .ports] s (execFlitTransmit port s) := by
  unfold execFlitTransmit
  repeat' first
    | intro _
    | with_reducible assumption
    | with_reducible exact Upd.refl _
    | ((with_reducible apply UpdS.snd); with_reducible assumption)
    | (extract_lets -underBinder +onlyGivenNames x; (with_reducible refine UpdR.cut x ?_ ?_); rotate_left; (clear_value x; revert x; intro _ _); rotate_right; subst x)
    | (extract_lets -underBinder +onlyGivenNames x; (with_reducible refine Upd.cut x ?_ ?_); rotate_left; (clear_value x; revert x; intro _ _); rotate_right; subst x)
    | (extract_lets -underBinder +onlyGivenNames x; (with_reducible refine UpdR.cutSnd x ?_ ?_); rotate_left; (clear_value x; revert x; intro _ _); rotate_right; subst x)
    | (extract_lets -underBinder +onlyGivenNames x; (with_reducible refine Upd.cutSnd x ?_ ?_); rotate_left; (clear_value x; revert x; intro _ _); rotate_right; subst x)
    | (extract_lets -underBinder +onlyGivenNames x; clear_value x; revert x; intro _)
    | with_reducible apply Upd.ite <;> intro _
    | with_reducible apply UpdR.ite <;> intro _
    | with_reducible apply UpdS.ite <;> intro _
    | with_reducible apply UpdR.next
    | with_reducible apply Upd.getD
    | ((with_reducible apply Upd.go (putPort_upd _ _ _)); rotate_left; exact rfl)
    | ((with_reducible apply Upd.goS (nextArea_upd _ _)); rotate_left; exact rfl)
    | ((with_reducible apply UpdS.go (nextArea_upd _ _)); rotate_left; exact rfl)
    | ((with_reducible apply Upd.go (sendFlit_upd _ _ _ _ _ _)); rotate_left; exact rfl)
    | with_reducible apply UpdS.mk
    | ((with_reducible apply UpdS.of_eq); with_reducible assumption)
    | split

theorem advanceLanded_upd (p : Nat) (ax : Nat) (s : State) : Upd [.regEvl, .ports] s (advanceLanded p ax s) := by
  induction ax generalizing s with
  | zero =>
    unfold advanceLanded
    exact Upd.refl _
  | succ n ih =>
  unfold advanceLanded
  repeat' first
    | intro _
    | with_reducible assumption
    | ((with_reducible apply Upd.go (ih _)); rotate_left; exact rfl)
    | with_reducible exact Upd.refl _
    | (extract_lets -underBinder +onlyGivenNames x; (with_reducible refine Upd.cut x ?_ ?_); rotate_left; (clear_value x; revert x; intro _ _); rotate_right; subst x)
    | (extract_lets -underBinder +onlyGivenNames x; clear_value x; revert x; intro _)
    | with_reducible apply Upd.ite <;> intro _
    | ((with_reducible apply Upd.go (wr_upd _ _ _ _)); rotate_left; exact rfl)
    | ((with_reducible apply Upd.go (putPort_upd _ _ _)); rotate_left; exact rfl)
    | split

theorem land_upd (p : Nat) (dseq : Nat) (s : State) : Upd [.regEvl, .ports] s (land p dseq s) := by
  unfold land
  repeat' first
    | intro _
    | with_reducible assumption
    | with_reducible exact Upd.refl _
    | (extract_lets -underBinder +onlyGivenNames x; (with_reducible refine Upd.cut x ?_ ?_); rotate_left; (clear_value x; revert x; intro _ _); rotate_right; subst x)
    | (extract_lets -underBinder +onlyGivenNames x; clear_value x; revert x; intro _)
    | ((with_reducible apply Upd.go (putPort_upd _ _ _)); rotate_left; exact rfl)
    | ((with_reducible apply Upd.go (advanceLanded_upd _ _ _)); rotate_left; exact rfl)

theorem consume_upd (p : Nat) (vc : Nat) (f : List Byte) (s : State) : Upd [.ports] s (consume p vc f s) := by
  unfold consume
  repeat' first
    | intro _
    | with_reducible assumption
    | with_reducible exact Upd.refl _
    | (extract_lets -underBinder +onlyGivenNames x; (with_reducible refine Upd.cut x ?_ ?_); rotate_left; (clear_value x; revert x; intro _ _); rotate_right; subst x)
    | (extract_lets -underBinder +onlyGivenNames x; clear_value x; revert x; intro _)
    | with_reducible apply Upd.getD
    | ((with_reducible apply Upd.go (putPort_upd _ _ _)); rotate_left; exact rfl)
    | ((with_reducible apply Upd.go (returnCredits_upd _ _ _ _)); rotate_left; exact rfl)

theorem answer_upd (p : Nat) (f : List Byte) (status : Nat) (poison : Nat) (data : List Byte) (s : State) : Upd [.regEvl, .ports] s
    (answer p f status poison data s) := by
  unfold answer
  repeat' first
    | intro _
    | with_reducible assumption
    | with_reducible exact Upd.refl _
    | (extract_lets -underBinder +onlyGivenNames x; (with_reducible refine Upd.cut x ?_ ?_); rotate_left; (clear_value x; revert x; intro _ _); rotate_right; subst x)
    | (extract_lets -underBinder +onlyGivenNames x; clear_value x; revert x; intro _)
    | with_reducible apply Upd.ite <;> intro _
    | ((with_reducible apply Upd.go (putPort_upd _ _ _)); rotate_left; exact rfl)
    | ((with_reducible apply Upd.go (sendFrame_upd _ _ _ _)); rotate_left; exact rfl)
    | ((with_reducible apply Upd.go (land_upd _ _ _)); rotate_left; exact rfl)
    | ((with_reducible apply Upd.go (consume_upd _ _ _ _)); rotate_left; exact rfl)
    | split

theorem peerSpan_upd (root : Nat) (part : Nat) (write : Bool) (dva : Nat) (n : Nat) (s : State) : UpdS [.outbox, .freeCtr, .regIrq,
    .regErr, .regLdg, .regBku, .regMcs, .regFlt, .ldgSeq, .ldgLost, .dram, .dramChk, .chans, .units, .flights, .snoop, .biWait, .ceWins,
    .servedBytes] s (peerSpan root part write dva n s) := by
  unfold peerSpan
  repeat' first
    | intro _
    | with_reducible assumption
    | with_reducible exact Upd.refl _
    | ((with_reducible apply UpdS.snd); with_reducible assumption)
    | (extract_lets -underBinder +onlyGivenNames x; (with_reducible refine UpdS.cut x ?_ ?_); rotate_left; (clear_value x; revert x; intro _ _); rotate_right; subst x)
    | (extract_lets -underBinder +onlyGivenNames x; (with_reducible refine Upd.cut x ?_ ?_); rotate_left; (clear_value x; revert x; intro _ _); rotate_right; subst x)
    | (extract_lets -underBinder +onlyGivenNames x; (with_reducible refine UpdS.cutSnd x ?_ ?_); rotate_left; (clear_value x; revert x; intro _ _); rotate_right; subst x)
    | (extract_lets -underBinder +onlyGivenNames x; (with_reducible refine Upd.cutSnd x ?_ ?_); rotate_left; (clear_value x; revert x; intro _ _); rotate_right; subst x)
    | (extract_lets -underBinder +onlyGivenNames x; clear_value x; revert x; intro _)
    | with_reducible apply Upd.foldl
    | with_reducible apply UpdS.foldl
    | ((with_reducible apply UpdS.snd); with_reducible apply UpdS.foldl)
    | with_reducible apply UpdS.andThen
    | ((with_reducible apply Upd.goS (xlatePeer_upd _ _ _ _ _)); rotate_left; exact rfl)
    | ((with_reducible apply UpdS.go (xlatePeer_upd _ _ _ _ _)); rotate_left; exact rfl)
    | with_reducible apply UpdS.mk
    | dsimp only
    | ((with_reducible apply UpdS.of_eq); with_reducible assumption)
    | split

theorem serve_upd (p : Nat) (type : Nat) (s : State) : Upd [.outbox, .freeCtr, .regIrq, .regErr, .regLdg, .regBku, .regMcs, .regFlt,
    .regEvl, .ldgSeq, .ldgLost, .dram, .dramChk, .chans, .units, .flights, .snoop, .biWait, .ceWins, .servedBytes, .ports] s (serve p type
    s) := by
  unfold serve
  repeat' first
    | intro _
    | with_reducible assumption
    | with_reducible exact Upd.refl _
    | ((with_reducible apply UpdS.snd); with_reducible assumption)
    | (extract_lets -underBinder +onlyGivenNames x; (with_reducible refine Upd.cut x ?_ ?_); rotate_left; (clear_value x; revert x; intro _ _); rotate_right; subst x)
    | (extract_lets -underBinder +onlyGivenNames x; (with_reducible refine Upd.cutSnd x ?_ ?_); rotate_left; (clear_value x; revert x; intro _ _); rotate_right; subst x)
    | (extract_lets -underBinder +onlyGivenNames x; (with_reducible refine isFn x ?_); subst x)
    | (extract_lets -underBinder +onlyGivenNames x; clear_value x; revert x; intro _)
    | with_reducible apply Upd.ite <;> intro _
    | with_reducible apply UpdS.ite <;> intro _
    | with_reducible apply Upd.foldl
    | with_reducible apply UpdS.foldl
    | ((with_reducible apply UpdS.snd); with_reducible apply UpdS.foldl)
    | with_reducible apply Upd.getD
    | ((with_reducible apply Upd.go (writeCol_upd _ _)); rotate_left; exact rfl)
    | ((with_reducible apply Upd.go (noteWaits_upd _ _ _ _)); rotate_left; exact rfl)
    | ((with_reducible apply Upd.go (snoopLines_upd _ _)); rotate_left; exact rfl)
    | ((with_reducible apply Upd.goS (readPieces_upd _ _ _)); rotate_left; exact rfl)
    | ((with_reducible apply UpdS.go (readPieces_upd _ _ _)); rotate_left; exact rfl)
    | ((with_reducible apply Upd.go (answer_upd _ _ _ _ _ _)); rotate_left; exact rfl)
    | ((with_reducible apply Upd.goS (peerSpan_upd _ _ _ _ _ _)); rotate_left; exact rfl)
    | ((with_reducible apply UpdS.go (peerSpan_upd _ _ _ _ _ _)); rotate_left; exact rfl)
    | with_reducible apply UpdS.mk
    | dsimp only
    | ((with_reducible apply UpdS.of_eq); with_reducible assumption)
    | split

theorem execRdReq_upd (port : Nat) (s : State) : UpdR [.outbox, .freeCtr, .regIrq, .regErr, .regLdg, .regBku, .regMcs, .regFlt, .regEvl,
    .ldgSeq, .ldgLost, .dram, .dramChk, .chans, .units, .flights, .snoop, .biWait, .ceWins, .servedBytes, .ports] s (execRdReq port s) :=
    by
  unfold execRdReq
  repeat' first
    | intro _
    | with_reducible assumption
    | with_reducible exact Upd.refl _
    | with_reducible apply UpdR.next
    | ((with_reducible apply Upd.go (serve_upd _ _ _)); rotate_left; exact rfl)

theorem execWr_upd (port : Nat) (s : State) : UpdR [.outbox, .freeCtr, .regIrq, .regErr, .regLdg, .regBku, .regMcs, .regFlt, .regEvl,
    .ldgSeq, .ldgLost, .dram, .dramChk, .chans, .units, .flights, .snoop, .biWait, .ceWins, .servedBytes, .ports] s (execWr port s) := by
  unfold execWr
  repeat' first
    | intro _
    | with_reducible assumption
    | with_reducible exact Upd.refl _
    | with_reducible apply UpdR.next
    | ((with_reducible apply Upd.go (serve_upd _ _ _)); rotate_left; exact rfl)

theorem execAcc_upd (port : Nat) (s : State) : UpdR [.outbox, .freeCtr, .regIrq, .regErr, .regLdg, .regBku, .regMcs, .regFlt, .regEvl,
    .ldgSeq, .ldgLost, .dram, .dramChk, .chans, .units, .flights, .snoop, .biWait, .ceWins, .servedBytes, .ports] s (execAcc port s) :=
    by
  unfold execAcc
  repeat' first
    | intro _
    | with_reducible assumption
    | with_reducible exact Upd.refl _
    | with_reducible apply UpdR.next
    | ((with_reducible apply Upd.go (serve_upd _ _ _)); rotate_left; exact rfl)

theorem landRead_upd (r : RemoteReq) (w : Work) (bytes : List (Byte × Bool)) (s : State) : Upd [.outbox, .freeCtr, .regIrq, .regErr,
    .regSpd, .regFlt, .spads, .spad, .spadChk, .ceWins] s (landRead r w bytes s) := by
  unfold landRead
  repeat' first
    | intro _
    | with_reducible assumption
    | with_reducible exact Upd.refl _
    | ((with_reducible apply UpdS.snd); with_reducible assumption)
    | (extract_lets -underBinder +onlyGivenNames x; (with_reducible refine Upd.cut x ?_ ?_); rotate_left; (clear_value x; revert x; intro _ _); rotate_right; subst x)
    | (extract_lets -underBinder +onlyGivenNames x; (with_reducible refine Upd.cutSnd x ?_ ?_); rotate_left; (clear_value x; revert x; intro _ _); rotate_right; subst x)
    | (extract_lets -underBinder +onlyGivenNames x; clear_value x; revert x; intro _)
    | with_reducible apply Upd.ite <;> intro _
    | with_reducible apply UpdS.ite <;> intro _
    | ((with_reducible apply Upd.go (putUnits_upd _ _ _ _)); rotate_left; exact rfl)
    | ((with_reducible apply Upd.goS (tmPlan_upd _ _ _ _)); rotate_left; exact rfl)
    | ((with_reducible apply UpdS.go (tmPlan_upd _ _ _ _)); rotate_left; exact rfl)
    | with_reducible apply UpdS.mk

theorem respond_upd (p : Nat) (type : Nat) (s : State) : Upd tmRemote_parts s (respond p type s) := by
  unfold respond
  repeat' first
    | intro _
    | with_reducible assumption
    | with_reducible exact Upd.refl _
    | (extract_lets -underBinder +onlyGivenNames x; (with_reducible refine Upd.cut x ?_ ?_); rotate_left; (clear_value x; revert x; intro _ _); rotate_right; subst x)
    | (extract_lets -underBinder +onlyGivenNames x; clear_value x; revert x; intro _)
    | with_reducible apply Upd.ite <;> intro _
    | with_reducible apply Upd.getD
    | ((with_reducible apply Upd.go (mapWork_upd _ _ _ _ _ _)); rotate_left; exact rfl)
    | ((with_reducible apply Upd.go (endWork_upd _ _ _ _ _ _ _ _)); rotate_left; exact rfl)
    | ((with_reducible apply Upd.go (putPort_upd _ _ _)); rotate_left; exact rfl)
    | ((with_reducible apply Upd.go (launchHeld_upd _ _ _ _ _ _)); rotate_left; exact rfl)
    | ((with_reducible apply Upd.go (reqFail_upd _ _ _ _)); rotate_left; exact rfl)
    | ((with_reducible apply Upd.go (consume_upd _ _ _ _)); rotate_left; exact rfl)
    | ((with_reducible apply Upd.go (landRead_upd _ _ _ _)); rotate_left; exact rfl)
    | split

theorem execRdResp_upd (port : Nat) (s : State) : UpdR tmRemote_parts s (execRdResp port s) := by
  unfold execRdResp
  repeat' first
    | intro _
    | with_reducible assumption
    | with_reducible exact Upd.refl _
    | with_reducible apply UpdR.next
    | ((with_reducible apply Upd.go (respond_upd _ _ _)); rotate_left; exact rfl)

theorem execWrAck_upd (port : Nat) (s : State) : UpdR tmRemote_parts s (execWrAck port s) := by
  unfold execWrAck
  repeat' first
    | intro _
    | with_reducible assumption
    | with_reducible exact Upd.refl _
    | with_reducible apply UpdR.next
    | ((with_reducible apply Upd.go (respond_upd _ _ _)); rotate_left; exact rfl)

theorem execAccAck_upd (port : Nat) (s : State) : UpdR tmRemote_parts s (execAccAck port s) := by
  unfold execAccAck
  repeat' first
    | intro _
    | with_reducible assumption
    | with_reducible exact Upd.refl _
    | with_reducible apply UpdR.next
    | ((with_reducible apply Upd.go (respond_upd _ _ _)); rotate_left; exact rfl)

theorem execRemoteTimeout_upd (port : Nat) (tag : Nat) (s : State) : UpdR reqFail_parts s (execRemoteTimeout port tag s) := by
  unfold execRemoteTimeout
  repeat' first
    | intro _
    | with_reducible assumption
    | with_reducible exact Upd.refl _
    | (extract_lets -underBinder +onlyGivenNames x; (with_reducible refine UpdR.cut x ?_ ?_); rotate_left; (clear_value x; revert x; intro _ _); rotate_right; subst x)
    | (extract_lets -underBinder +onlyGivenNames x; (with_reducible refine Upd.cut x ?_ ?_); rotate_left; (clear_value x; revert x; intro _ _); rotate_right; subst x)
    | (extract_lets -underBinder +onlyGivenNames x; clear_value x; revert x; intro _)
    | with_reducible apply UpdR.next
    | ((with_reducible apply Upd.go (reqFail_upd _ _ _ _)); rotate_left; exact rfl)
    | split

theorem execSignal_upd (port : Nat) (s : State) : UpdR [.outbox, .regIrq, .regErr, .regLdg, .regSerai, .regMcs, .regFlt, .ldgSeq,
    .ldgLost, .serais, .dram, .dramChk, .chans, .units, .snoop, .biWait, .servedBytes, .ports] s (execSignal port s) := by
  unfold execSignal
  repeat' first
    | intro _
    | with_reducible assumption
    | with_reducible exact Upd.refl _
    | (extract_lets -underBinder +onlyGivenNames x; (with_reducible refine UpdR.cut x ?_ ?_); rotate_left; (clear_value x; revert x; intro _ _); rotate_right; subst x)
    | (extract_lets -underBinder +onlyGivenNames x; (with_reducible refine Upd.cut x ?_ ?_); rotate_left; (clear_value x; revert x; intro _ _); rotate_right; subst x)
    | (extract_lets -underBinder +onlyGivenNames x; clear_value x; revert x; intro _)
    | with_reducible apply Upd.ite <;> intro _
    | with_reducible apply UpdR.ite <;> intro _
    | with_reducible apply UpdR.next
    | with_reducible apply Upd.getD
    | ((with_reducible apply Upd.go (putSerai_upd _ _ _)); rotate_left; exact rfl)
    | ((with_reducible apply Upd.go (rejectRemote_upd _ _ _ _ _)); rotate_left; exact rfl)
    | ((with_reducible apply Upd.go (orphanSignal_upd _ _ _ _ _)); rotate_left; exact rfl)
    | ((with_reducible apply Upd.go (applyRemote_upd _ _ _)); rotate_left; exact rfl)
    | ((with_reducible apply Upd.go (noteHeld_upd _ _)); rotate_left; exact rfl)
    | ((with_reducible apply Upd.go (consume_upd _ _ _ _)); rotate_left; exact rfl)
    | split

theorem execHello_upd (port : Nat) (s : State) : UpdR [.regEvl, .ports] s (execHello port s) := by
  unfold execHello
  repeat' first
    | intro _
    | with_reducible assumption
    | with_reducible exact Upd.refl _
    | (extract_lets -underBinder +onlyGivenNames x; (with_reducible refine UpdR.cut x ?_ ?_); rotate_left; (clear_value x; revert x; intro _ _); rotate_right; subst x)
    | (extract_lets -underBinder +onlyGivenNames x; (with_reducible refine Upd.cut x ?_ ?_); rotate_left; (clear_value x; revert x; intro _ _); rotate_right; subst x)
    | (extract_lets -underBinder +onlyGivenNames x; clear_value x; revert x; intro _)
    | with_reducible apply Upd.ite <;> intro _
    | with_reducible apply UpdR.ite <;> intro _
    | with_reducible apply UpdR.next
    | ((with_reducible apply Upd.go (wr_upd _ _ _ _)); rotate_left; exact rfl)
    | ((with_reducible apply Upd.go (putPort_upd _ _ _)); rotate_left; exact rfl)
    | ((with_reducible apply Upd.go (consume_upd _ _ _ _)); rotate_left; exact rfl)
    | split

/-- What `leavePresent` may change. -/
def leavePresent_parts : List Part :=
  [.outbox, .freeCtr, .regIrq, .regErr, .regLdg, .regSpd, .regTmv, .regBku, .regMcs, .regFlt, .sourceLost, .ldgSeq, .ldgLost, .ctxs, .runs,
   .engines, .spads, .spad, .spadChk, .serais, .dram, .dramChk, .chans, .units, .flights, .snoop, .biWait, .ceWins, .servedBytes, .ports]

theorem leavePresent_upd (a : Nat) (s : State) : Upd leavePresent_parts s (leavePresent a s) := by
  unfold leavePresent
  repeat' first
    | intro _
    | with_reducible assumption
    | with_reducible exact Upd.refl _
    | (extract_lets -underBinder +onlyGivenNames x; (with_reducible refine Upd.cut x ?_ ?_); rotate_left; (clear_value x; revert x; intro _ _); rotate_right; subst x)
    | (extract_lets -underBinder +onlyGivenNames x; clear_value x; revert x; intro _)
    | with_reducible apply Upd.ite <;> intro _
    | with_reducible apply Upd.forUpto
    | ((with_reducible apply Upd.go (raise_upd _ _ _)); rotate_left; exact rfl)
    | ((with_reducible apply Upd.go (orphanHeld_upd _ _ _)); rotate_left; exact rfl)
    | ((with_reducible apply Upd.go (failRequests_upd _ _ _)); rotate_left; exact rfl)
    | split
    | ((with_reducible apply Upd.set_sourceLost); rotate_left; exact rfl)

/-- What `setMember` may change. -/
def setMember_parts : List Part :=
  [.outbox, .freeCtr, .regIrq, .regErr, .regLdg, .regSpd, .regTmv, .regBku, .regMcs, .regFlt, .regEvl, .sourceLost, .ldgSeq, .ldgLost, .ctxs,
   .runs, .engines, .spads, .spad, .spadChk, .serais, .dram, .dramChk, .chans, .units, .flights, .snoop, .biWait, .ceWins, .servedBytes,
   .ports, .members]

theorem setMember_upd (p : Nat) (a : Nat) (st : Nat) (id : Nat) (s : State) : Upd setMember_parts s (setMember p a st id s) := by
  unfold setMember
  repeat' first
    | intro _
    | with_reducible assumption
    | with_reducible exact Upd.refl _
    | (extract_lets -underBinder +onlyGivenNames x; (with_reducible refine Upd.cut x ?_ ?_); rotate_left; (clear_value x; revert x; intro _ _); rotate_right; subst x)
    | (extract_lets -underBinder +onlyGivenNames x; clear_value x; revert x; intro _)
    | with_reducible apply Upd.ite <;> intro _
    | ((with_reducible apply Upd.go (wr_upd _ _ _ _)); rotate_left; exact rfl)
    | ((with_reducible apply Upd.go (raise_upd _ _ _)); rotate_left; exact rfl)
    | ((with_reducible apply Upd.go (ledger_upd _ _ _ _)); rotate_left; exact rfl)
    | ((with_reducible apply Upd.go (leavePresent_upd _ _)); rotate_left; exact rfl)
    | with_reducible apply SMap.wf_set
    | with_reducible apply SMap.wf_mapv
    | with_reducible apply SMap.wf_filter
    | with_reducible exact SMap.wf_nil
    | (first | with_reducible exact State.Ok.members (by assumption))
    | split
    | ((with_reducible apply Upd.set_members); rotate_left; exact rfl)

theorem memberSeen_upd (p : Nat) (a : Nat) (id : Nat) (s : State) : Upd setMember_parts s (memberSeen p a id s) := by
  unfold memberSeen
  repeat' first
    | intro _
    | with_reducible assumption
    | with_reducible exact Upd.refl _
    | (extract_lets -underBinder +onlyGivenNames x; (with_reducible refine Upd.cut x ?_ ?_); rotate_left; (clear_value x; revert x; intro _ _); rotate_right; subst x)
    | (extract_lets -underBinder +onlyGivenNames x; clear_value x; revert x; intro _)
    | with_reducible apply Upd.ite <;> intro _
    | ((with_reducible apply Upd.go (putReach_upd _ _ _ _)); rotate_left; exact rfl)
    | ((with_reducible apply Upd.go (setMember_upd _ _ _ _ _)); rotate_left; exact rfl)
    | split

theorem execJoin_upd (port : Nat) (s : State) : UpdR setMember_parts s (execJoin port s) := by
  unfold execJoin
  repeat' first
    | intro _
    | with_reducible assumption
    | with_reducible exact Upd.refl _
    | (extract_lets -underBinder +onlyGivenNames x; (with_reducible refine UpdR.cut x ?_ ?_); rotate_left; (clear_value x; revert x; intro _ _); rotate_right; subst x)
    | (extract_lets -underBinder +onlyGivenNames x; (with_reducible refine Upd.cut x ?_ ?_); rotate_left; (clear_value x; revert x; intro _ _); rotate_right; subst x)
    | (extract_lets -underBinder +onlyGivenNames x; clear_value x; revert x; intro _)
    | with_reducible apply Upd.ite <;> intro _
    | with_reducible apply UpdR.ite <;> intro _
    | with_reducible apply UpdR.next
    | ((with_reducible apply Upd.go (sendMember_upd _ _ _ _ _)); rotate_left; exact rfl)
    | ((with_reducible apply Upd.go (consume_upd _ _ _ _)); rotate_left; exact rfl)
    | ((with_reducible apply Upd.go (memberSeen_upd _ _ _ _)); rotate_left; exact rfl)
    | split

theorem execPresent_upd (port : Nat) (s : State) : UpdR setMember_parts s (execPresent port s) := by
  unfold execPresent
  repeat' first
    | intro _
    | with_reducible assumption
    | with_reducible exact Upd.refl _
    | (extract_lets -underBinder +onlyGivenNames x; (with_reducible refine UpdR.cut x ?_ ?_); rotate_left; (clear_value x; revert x; intro _ _); rotate_right; subst x)
    | (extract_lets -underBinder +onlyGivenNames x; (with_reducible refine Upd.cut x ?_ ?_); rotate_left; (clear_value x; revert x; intro _ _); rotate_right; subst x)
    | (extract_lets -underBinder +onlyGivenNames x; clear_value x; revert x; intro _)
    | with_reducible apply UpdR.next
    | ((with_reducible apply Upd.go (consume_upd _ _ _ _)); rotate_left; exact rfl)
    | ((with_reducible apply Upd.go (memberSeen_upd _ _ _ _)); rotate_left; exact rfl)
    | split

theorem execLeave_upd (port : Nat) (s : State) : UpdR setMember_parts s (execLeave port s) := by
  unfold execLeave
  repeat' first
    | intro _
    | with_reducible assumption
    | with_reducible exact Upd.refl _
    | (extract_lets -underBinder +onlyGivenNames x; (with_reducible refine UpdR.cut x ?_ ?_); rotate_left; (clear_value x; revert x; intro _ _); rotate_right; subst x)
    | (extract_lets -underBinder +onlyGivenNames x; (with_reducible refine Upd.cut x ?_ ?_); rotate_left; (clear_value x; revert x; intro _ _); rotate_right; subst x)
    | (extract_lets -underBinder +onlyGivenNames x; clear_value x; revert x; intro _)
    | with_reducible apply Upd.ite <;> intro _
    | with_reducible apply UpdR.ite <;> intro _
    | with_reducible apply UpdR.next
    | ((with_reducible apply Upd.go (putReach_upd _ _ _ _)); rotate_left; exact rfl)
    | ((with_reducible apply Upd.go (consume_upd _ _ _ _)); rotate_left; exact rfl)
    | ((with_reducible apply Upd.go (setMember_upd _ _ _ _ _)); rotate_left; exact rfl)
    | split

theorem sendAll_upd (type : Nat) (s : State) : Upd [.freeCtr, .ports] s (sendAll type s) := by
  unfold sendAll
  repeat' first
    | intro _
    | with_reducible assumption
    | with_reducible exact Upd.refl _
    | with_reducible apply Upd.ite <;> intro _
    | with_reducible apply Upd.forUpto
    | ((with_reducible apply Upd.go (sendMember_upd _ _ _ _ _)); rotate_left; exact rfl)

theorem execPresentTimer_upd (s : State) : UpdR [.freeCtr, .ports] s (execPresentTimer s) := by
  unfold execPresentTimer
  repeat' first
    | intro _
    | with_reducible assumption
    | with_reducible exact Upd.refl _
    | with_reducible apply Upd.ite <;> intro _
    | with_reducible apply UpdR.ite <;> intro _
    | with_reducible apply UpdR.next
    | ((with_reducible apply Upd.go (sendAll_upd _ _)); rotate_left; exact rfl)

theorem execReachTimeout_upd (port : Nat) (addr : Nat) (s : State) : UpdR setMember_parts s (execReachTimeout port addr s) := by
  unfold execReachTimeout
  repeat' first
    | intro _
    | with_reducible assumption
    | with_reducible exact Upd.refl _
    | (extract_lets -underBinder +onlyGivenNames x; (with_reducible refine UpdR.cut x ?_ ?_); rotate_left; (clear_value x; revert x; intro _ _); rotate_right; subst x)
    | (extract_lets -underBinder +onlyGivenNames x; (with_reducible refine Upd.cut x ?_ ?_); rotate_left; (clear_value x; revert x; intro _ _); rotate_right; subst x)
    | (extract_lets -underBinder +onlyGivenNames x; clear_value x; revert x; intro _)
    | with_reducible apply Upd.ite <;> intro _
    | with_reducible apply UpdR.ite <;> intro _
    | with_reducible apply UpdR.next
    | ((with_reducible apply Upd.go (putReach_upd _ _ _ _)); rotate_left; exact rfl)
    | ((with_reducible apply Upd.go (setMember_upd _ _ _ _ _)); rotate_left; exact rfl)

theorem mbrLeave_upd (s : State) : Upd [.freeCtr, .ports, .left] s (mbrLeave s) := by
  unfold mbrLeave
  repeat' first
    | intro _
    | with_reducible assumption
    | with_reducible exact Upd.refl _
    | (extract_lets -underBinder +onlyGivenNames x; (with_reducible refine Upd.cut x ?_ ?_); rotate_left; (clear_value x; revert x; intro _ _); rotate_right; subst x)
    | (extract_lets -underBinder +onlyGivenNames x; clear_value x; revert x; intro _)
    | with_reducible apply Upd.ite <;> intro _
    | ((with_reducible apply Upd.go (sendAll_upd _ _)); rotate_left; exact rfl)
    | ((with_reducible apply Upd.set_left); rotate_left; exact rfl)

theorem execMbrLeave_upd (s : State) : UpdR [.freeCtr, .ports, .left] s (execMbrLeave s) := by
  unfold execMbrLeave
  repeat' first
    | intro _
    | with_reducible assumption
    | with_reducible exact Upd.refl _
    | with_reducible apply UpdR.next
    | ((with_reducible apply Upd.go (mbrLeave_upd _)); rotate_left; exact rfl)

/-- What `selfAddrWrite` may change. -/
def selfAddrWrite_parts : List Part :=
  [.outbox, .freeCtr, .regIrq, .regLock, .regErr, .regLdg, .regSpd, .regTmv, .regBku, .regMcs, .regFlt, .regEvl, .sourceLost, .ldgSeq,
   .ldgLost, .ctxs, .runs, .engines, .spads, .spad, .spadChk, .serais, .dram, .dramChk, .chans, .units, .flights, .snoop, .biWait,
   .ceWins, .servedBytes, .ports, .members]

theorem selfAddrWrite_upd (port : Nat) (v : Nat) (s : State) : Upd selfAddrWrite_parts s (selfAddrWrite port v s) := by
  unfold selfAddrWrite
  repeat' first
    | intro _
    | with_reducible assumption
    | with_reducible exact Upd.refl _
    | (extract_lets -underBinder +onlyGivenNames x; (with_reducible refine Upd.cut x ?_ ?_); rotate_left; (clear_value x; revert x; intro _ _); rotate_right; subst x)
    | (extract_lets -underBinder +onlyGivenNames x; clear_value x; revert x; intro _)
    | with_reducible apply Upd.ite <;> intro _
    | ((with_reducible apply Upd.go (wr_upd _ _ _ _)); rotate_left; exact rfl)
    | ((with_reducible apply Upd.go (setMember_upd _ _ _ _ _)); rotate_left; exact rfl)

theorem execSelfAddrWrite_upd (port : Nat) (value : Nat) (s : State) : UpdR selfAddrWrite_parts s (execSelfAddrWrite port value s) := by
  unfold execSelfAddrWrite
  repeat' first
    | intro _
    | with_reducible assumption
    | with_reducible exact Upd.refl _
    | with_reducible apply UpdR.next
    | with_reducible apply hostWrites_upd
    | ((with_reducible apply Upd.go (selfAddrWrite_upd _ _ _)); rotate_left; exact rfl)

theorem mbrClear_upd (port : Nat) (s : State) : Upd setMember_parts s (mbrClear port s) := by
  unfold mbrClear
  repeat' first
    | intro _
    | with_reducible assumption
    | with_reducible exact Upd.refl _
    | (extract_lets -underBinder +onlyGivenNames x; (with_reducible refine Upd.cut x ?_ ?_); rotate_left; (clear_value x; revert x; intro _ _); rotate_right; subst x)
    | (extract_lets -underBinder +onlyGivenNames x; clear_value x; revert x; intro _)
    | with_reducible apply Upd.ite <;> intro _
    | ((with_reducible apply Upd.go (setMember_upd _ _ _ _ _)); rotate_left; exact rfl)

theorem execMbrClear_upd (port : Nat) (s : State) : UpdR setMember_parts s (execMbrClear port s) := by
  unfold execMbrClear
  repeat' first
    | intro _
    | with_reducible assumption
    | with_reducible exact Upd.refl _
    | with_reducible apply UpdR.next
    | with_reducible apply hostWrites_upd
    | ((with_reducible apply Upd.go (mbrClear_upd _ _)); rotate_left; exact rfl)

theorem sendEpochs_upd (s : State) : Upd [.regEvl, .ports] s (sendEpochs s) := by
  unfold sendEpochs
  repeat' first
    | intro _
    | with_reducible assumption
    | with_reducible exact Upd.refl _
    | (extract_lets -underBinder +onlyGivenNames x; (with_reducible refine Upd.cut x ?_ ?_); rotate_left; (clear_value x; revert x; intro _ _); rotate_right; subst x)
    | (extract_lets -underBinder +onlyGivenNames x; clear_value x; revert x; intro _)
    | with_reducible apply Upd.ite <;> intro _
    | with_reducible apply Upd.forUpto
    | ((with_reducible apply Upd.go (wr_upd _ _ _ _)); rotate_left; exact rfl)
    | ((with_reducible apply Upd.go (sendFrame_upd _ _ _ _)); rotate_left; exact rfl)

/-- What `advanceTx` may change. -/
def advanceTx_parts : List Part :=
  [.outbox, .regCtl, .regIrq, .regLock, .regSet, .regErr, .regMs, .regEpo, .regLdg, .regSerai, .regEng, .regSpd, .regTmv, .regBkc, .regBku,
   .regMcs, .regDrv, .regBlk, .regRcv, .regFlt, .regEvl, .regOpt, .regBay, .regSes, .regRng, .regHif, .regSec, .regPwr, .regThm, .regClk,
   .regMgt, .staging, .prevSet, .vslots, .floorAbove, .ldgSeq, .ldgLost, .dram, .dramChk, .chans, .units, .snoop, .biWait, .drovers,
   .servedBytes, .ports, .fwSlots]

theorem advanceTx_upd (n : Nat) (refused : Bool) (s : State) : Upd advanceTx_parts s (advanceTx n refused s) := by
  unfold advanceTx
  repeat' first
    | intro _
    | with_reducible assumption
    | with_reducible exact Upd.refl _
    | (extract_lets -underBinder +onlyGivenNames x; (with_reducible refine Upd.cut x ?_ ?_); rotate_left; (clear_value x; revert x; intro _ _); rotate_right; subst x)
    | (extract_lets -underBinder +onlyGivenNames x; clear_value x; revert x; intro _)
    | with_reducible apply Upd.ite <;> intro _
    | ((with_reducible apply Upd.go (advance_upd _ _ _)); rotate_left; exact rfl)
    | ((with_reducible apply Upd.go (sendEpochs_upd _)); rotate_left; exact rfl)

theorem execEpochAdvance_upd (target : Nat) (s : State) : UpdR advanceTx_parts s (execEpochAdvance target s) := by
  unfold execEpochAdvance
  repeat' first
    | intro _
    | with_reducible assumption
    | with_reducible exact Upd.refl _
    | with_reducible apply UpdR.next
    | ((with_reducible apply Upd.go (advanceTx_upd _ _ _)); rotate_left; exact rfl)

theorem putBseq_upd (src : Nat) (b : Nat) (s : State) : Upd [.bseqs] s (putBseq src b s) := by
  unfold putBseq
  repeat' first
    | intro _
    | with_reducible assumption
    | with_reducible exact Upd.refl _
    | (extract_lets -underBinder +onlyGivenNames x; (with_reducible refine Upd.cut x ?_ ?_); rotate_left; (clear_value x; revert x; intro _ _); rotate_right; subst x)
    | (extract_lets -underBinder +onlyGivenNames x; clear_value x; revert x; intro _)
    | with_reducible apply SMap.wf_set
    | with_reducible apply SMap.wf_mapv
    | with_reducible apply SMap.wf_filter
    | with_reducible exact SMap.wf_nil
    | (first | with_reducible exact State.Ok.bseqs (by assumption))
    | ((with_reducible apply Upd.set_bseqs); rotate_left; exact rfl)

/-- What `epochTaken` may change. -/
def epochTaken_parts : List Part :=
  [.outbox, .regCtl, .regIrq, .regLock, .regSet, .regErr, .regMs, .regEpo, .regLdg, .regSerai, .regEng, .regSpd, .regTmv, .regBkc, .regBku,
   .regMcs, .regDrv, .regBlk, .regRcv, .regFlt, .regEvl, .regOpt, .regBay, .regSes, .regRng, .regHif, .regSec, .regPwr, .regThm, .regClk,
   .regMgt, .staging, .prevSet, .vslots, .floorAbove, .ldgSeq, .ldgLost, .dram, .dramChk, .chans, .units, .snoop, .biWait, .drovers,
   .servedBytes, .ports, .bseqs, .fwSlots]

theorem epochTaken_upd (port : Nat) (n : Nat) (b : Nat) (src : Nat) (s : State) : Upd epochTaken_parts s (epochTaken port n b src s) :=
    by
  unfold epochTaken
  repeat' first
    | intro _
    | with_reducible assumption
    | with_reducible exact Upd.refl _
    | (extract_lets -underBinder +onlyGivenNames x; (with_reducible refine Upd.cut x ?_ ?_); rotate_left; (clear_value x; revert x; intro _ _); rotate_right; subst x)
    | (extract_lets -underBinder +onlyGivenNames x; clear_value x; revert x; intro _)
    | with_reducible apply Upd.ite <;> intro _
    | with_reducible apply Upd.getD
    | ((with_reducible apply Upd.go (count_upd _ _ _ _)); rotate_left; exact rfl)
    | ((with_reducible apply Upd.go (advanceTx_upd _ _ _)); rotate_left; exact rfl)
    | ((with_reducible apply Upd.go (putBseq_upd _ _ _)); rotate_left; exact rfl)

theorem execEpochBroadcast_upd (port : Nat) (s : State) : UpdR epochTaken_parts s (execEpochBroadcast port s) := by
  unfold execEpochBroadcast
  repeat' first
    | intro _
    | with_reducible assumption
    | with_reducible exact Upd.refl _
    | (extract_lets -underBinder +onlyGivenNames x; (with_reducible refine UpdR.cut x ?_ ?_); rotate_left; (clear_value x; revert x; intro _ _); rotate_right; subst x)
    | (extract_lets -underBinder +onlyGivenNames x; (with_reducible refine Upd.cut x ?_ ?_); rotate_left; (clear_value x; revert x; intro _ _); rotate_right; subst x)
    | (extract_lets -underBinder +onlyGivenNames x; clear_value x; revert x; intro _)
    | with_reducible apply UpdR.next
    | ((with_reducible apply Upd.go (consume_upd _ _ _ _)); rotate_left; exact rfl)
    | ((with_reducible apply Upd.go (epochTaken_upd _ _ _ _ _)); rotate_left; exact rfl)
    | split

end Sys2Proof.Machine
end

