-- ==== Sys2Proof/Laws/UpdFaults.lean ====
section
/-!
SUPPORT. What each operation of Machine/Faults can change, and that it keeps the canonical form.
-/

namespace Sys2Proof.Machine

set_option maxRecDepth 4000
set_option linter.all false

theorem psAbandon_upd (s : State) : Upd [.regPwr, .psNext] s (psAbandon s) := by
  unfold psAbandon
  repeat' first
    | intro _
    | with_reducible assumption
    | with_reducible exact Upd.refl _
    | (extract_lets -underBinder +onlyGivenNames x; (with_reducible refine Upd.cut x ?_ ?_); rotate_left; (clear_value x; revert x; intro _ _); rotate_right; subst x)
    | (extract_lets -underBinder +onlyGivenNames x; clear_value x; revert x; intro _)
    | with_reducible apply Upd.ite <;> intro _
    | ((with_reducible apply Upd.go (wr_upd _ _ _ _)); rotate_left; exact rfl)
    | split
    | ((with_reducible apply Upd.set_psNext); rotate_left; exact rfl)

theorem startRecovery_upd (n : Nat) (src : Nat) (code : Nat) (waitGo : Bool) (s : State) : Upd [.outbox, .regCtl, .regIrq, .regRcv,
    .regPwr, .recov, .winOpen, .psNext] s (startRecovery n src code waitGo s) := by
  unfold startRecovery
  repeat' first
    | intro _
    | with_reducible assumption
    | with_reducible exact Upd.refl _
    | (extract_lets -underBinder +onlyGivenNames x; (with_reducible refine Upd.cut x ?_ ?_); rotate_left; (clear_value x; revert x; intro _ _); rotate_right; subst x)
    | (extract_lets -underBinder +onlyGivenNames x; clear_value x; revert x; intro _)
    | with_reducible apply Upd.ite <;> intro _
    | ((with_reducible apply Upd.go (wri_upd _ _ _ _ _)); rotate_left; exact rfl)
    | ((with_reducible apply Upd.go (raise_upd _ _ _)); rotate_left; exact rfl)
    | ((with_reducible apply Upd.go (putPartState_upd _ _ _)); rotate_left; exact rfl)
    | ((with_reducible apply Upd.go (putRecov_upd _ _ _)); rotate_left; exact rfl)
    | ((with_reducible apply Upd.go (putFenced_upd _ _ _)); rotate_left; exact rfl)
    | ((with_reducible apply Upd.go (psAbandon_upd _)); rotate_left; exact rfl)
    | ((with_reducible apply Upd.set_winOpen); rotate_left; exact rfl)

theorem cutQueue_upd (g : Nat) (q : Nat) (s : State) : Upd [.ctxs, .flights] s (cutQueue g q s) := by
  unfold cutQueue
  repeat' first
    | intro _
    | with_reducible assumption
    | with_reducible exact Upd.refl _
    | (extract_lets -underBinder +onlyGivenNames x; (with_reducible refine Upd.cut x ?_ ?_); rotate_left; (clear_value x; revert x; intro _ _); rotate_right; subst x)
    | (extract_lets -underBinder +onlyGivenNames x; clear_value x; revert x; intro _)
    | with_reducible apply Upd.ite <;> intro _
    | with_reducible apply Upd.forUpto
    | ((with_reducible apply Upd.go (putCtx_upd _ _ _)); rotate_left; exact rfl)
    | ((with_reducible apply Upd.set_flights); rotate_left; exact rfl)

theorem cutUnit_upd (n : Nat) (u : UnitId) (s : State) : Upd [.ctxs, .flights] s (cutUnit n u s) := by
  unfold cutUnit
  repeat' first
    | intro _
    | with_reducible assumption
    | with_reducible exact Upd.refl _
    | ((with_reducible apply UpdS.snd); with_reducible assumption)
    | (extract_lets -underBinder +onlyGivenNames x; (with_reducible refine Upd.cut x ?_ ?_); rotate_left; (clear_value x; revert x; intro _ _); rotate_right; subst x)
    | (extract_lets -underBinder +onlyGivenNames x; clear_value x; revert x; intro _)
    | with_reducible apply Upd.ite <;> intro _
    | with_reducible apply Upd.foldl
    | with_reducible apply UpdS.foldl
    | ((with_reducible apply UpdS.snd); with_reducible apply UpdS.foldl)
    | with_reducible apply Upd.forUpto
    | ((with_reducible apply Upd.go (cutQueue_upd _ _ _)); rotate_left; exact rfl)
    | with_reducible apply UpdS.mk
    | dsimp only

theorem cutFrozen_upd (n : Nat) (s : State) : Upd [.ctxs, .flights] s (cutFrozen n s) := by
  unfold cutFrozen
  repeat' first
    | intro _
    | with_reducible assumption
    | with_reducible exact Upd.refl _
    | ((with_reducible apply UpdS.snd); with_reducible assumption)
    | (extract_lets -underBinder +onlyGivenNames x; (with_reducible refine Upd.cut x ?_ ?_); rotate_left; (clear_value x; revert x; intro _ _); rotate_right; subst x)
    | (extract_lets -underBinder +onlyGivenNames x; (with_reducible refine isFn x ?_); subst x)
    | (extract_lets -underBinder +onlyGivenNames x; clear_value x; revert x; intro _)
    | with_reducible apply Upd.foldl
    | with_reducible apply UpdS.foldl
    | ((with_reducible apply UpdS.snd); with_reducible apply UpdS.foldl)
    | ((with_reducible apply Upd.go (mapWork_upd _ _ _ _ _ _)); rotate_left; exact rfl)
    | with_reducible apply UpdS.mk
    | dsimp only
    | ((with_reducible apply Upd.set_flights); rotate_left; exact rfl)

theorem partitionFatal_upd (n : Nat) (u : UnitId) (code : Nat) (detail : Nat) (s : State) : Upd [.outbox, .regCtl, .regIrq, .regErr,
    .regRcv, .regFlt, .regPwr, .ctxs, .flights, .recov, .winOpen, .psNext] s (partitionFatal n u code detail s) := by
  unfold partitionFatal
  repeat' first
    | intro _
    | with_reducible assumption
    | with_reducible exact Upd.refl _
    | (extract_lets -underBinder +onlyGivenNames x; (with_reducible refine Upd.cut x ?_ ?_); rotate_left; (clear_value x; revert x; intro _ _); rotate_right; subst x)
    | (extract_lets -underBinder +onlyGivenNames x; clear_value x; revert x; intro _)
    | with_reducible apply Upd.ite <;> intro _
    | ((with_reducible apply Upd.go (wr_upd _ _ _ _)); rotate_left; exact rfl)
    | ((with_reducible apply Upd.go (count_upd _ _ _ _)); rotate_left; exact rfl)
    | ((with_reducible apply Upd.go (logErr_upd _ _ _ _ _)); rotate_left; exact rfl)
    | ((with_reducible apply Upd.go (startRecovery_upd _ _ _ _ _)); rotate_left; exact rfl)
    | ((with_reducible apply Upd.go (cutUnit_upd _ _ _)); rotate_left; exact rfl)
    | ((with_reducible apply Upd.go (cutFrozen_upd _ _)); rotate_left; exact rfl)

theorem execPartitionFatal_upd (page : Nat) (code : Nat) (detail : Nat) (s : State) : UpdR [.outbox, .regCtl, .regIrq, .regErr, .regRcv,
    .regFlt, .regPwr, .ctxs, .flights, .recov, .winOpen, .psNext] s (execPartitionFatal page code detail s) := by
  unfold execPartitionFatal
  repeat' first
    | intro _
    | with_reducible assumption
    | with_reducible exact Upd.refl _
    | (extract_lets -underBinder +onlyGivenNames x; (with_reducible refine UpdR.cut x ?_ ?_); rotate_left; (clear_value x; revert x; intro _ _); rotate_right; subst x)
    | (extract_lets -underBinder +onlyGivenNames x; (with_reducible refine Upd.cut x ?_ ?_); rotate_left; (clear_value x; revert x; intro _ _); rotate_right; subst x)
    | (extract_lets -underBinder +onlyGivenNames x; clear_value x; revert x; intro _)
    | with_reducible apply Upd.ite <;> intro _
    | with_reducible apply UpdR.ite <;> intro _
    | with_reducible apply UpdR.next
    | ((with_reducible apply Upd.go (partitionFatal_upd _ _ _ _ _)); rotate_left; exact rfl)
    | (generalize unitAt _ = u; split)
    | split

theorem execBulkFatal_upd (stack : Nat) (code : Nat) (detail : Nat) (s : State) : UpdR [.outbox, .regIrq, .regErr, .regBlk, .regFlt] s
    (execBulkFatal stack code detail s) := by
  unfold execBulkFatal
  repeat' first
    | intro _
    | with_reducible assumption
    | with_reducible exact Upd.refl _
    | with_reducible apply UpdR.next
    | ((with_reducible apply Upd.go (wr_upd _ _ _ _)); rotate_left; exact rfl)
    | ((with_reducible apply Upd.go (logErr_upd _ _ _ _ _)); rotate_left; exact rfl)

/-- What `enterResetting` may change. -/
def enterResetting_parts : List Part :=
  [.outbox, .freeCtr, .regIrq, .regErr, .regLdg, .regSpd, .regBku, .regMcs, .regDrv, .regRcv, .regFlt, .regRng, .regClk, .floorAbove,
   .ldgSeq, .ldgLost, .ctxs, .pms, .engines, .spads, .spad, .spadChk, .serais, .loading, .sess, .dram, .dramChk, .chans, .units, .flights,
   .snoop, .biWait, .ceWins, .drovers, .servedBytes, .ports, .divided]

theorem enterResetting_upd (n : Nat) (s : State) : Upd enterResetting_parts s (enterResetting n s) := by
  unfold enterResetting
  repeat' first
    | intro _
    | with_reducible assumption
    | with_reducible exact Upd.refl _
    | (extract_lets -underBinder +onlyGivenNames x; (with_reducible refine Upd.cut x ?_ ?_); rotate_left; (clear_value x; revert x; intro _ _); rotate_right; subst x)
    | (extract_lets -underBinder +onlyGivenNames x; clear_value x; revert x; intro _)
    | ((with_reducible apply Upd.go (wri_upd _ _ _ _ _)); rotate_left; exact rfl)
    | ((with_reducible apply Upd.go (putPartState_upd _ _ _)); rotate_left; exact rfl)
    | ((with_reducible apply Upd.go (stopPartition_upd _ _)); rotate_left; exact rfl)
    | with_reducible apply SMap.wf_set
    | with_reducible apply SMap.wf_mapv
    | with_reducible apply SMap.wf_filter
    | with_reducible exact SMap.wf_nil
    | (first | with_reducible exact State.Ok.divided (by assumption))
    | ((with_reducible apply Upd.set_divided); rotate_left; exact rfl)

/-- What `resetGo` may change. -/
def resetGo_parts : List Part :=
  [.outbox, .freeCtr, .regCtl, .regIrq, .regErr, .regLdg, .regSpd, .regBku, .regMcs, .regDrv, .regRcv, .regFlt, .regRng, .regPwr, .regClk,
   .floorAbove, .ldgSeq, .ldgLost, .ctxs, .pms, .engines, .spads, .spad, .spadChk, .serais, .loading, .sess, .dram, .dramChk, .chans,
   .units, .flights, .snoop, .biWait, .ceWins, .drovers, .servedBytes, .ports, .recov, .winOpen, .psNext, .divided]

theorem resetGo_upd (n : Nat) (s : State) : Upd resetGo_parts s (resetGo n s) := by
  unfold resetGo
  repeat' first
    | intro _
    | with_reducible assumption
    | with_reducible exact Upd.refl _
    | (extract_lets -underBinder +onlyGivenNames x; (with_reducible refine Upd.cut x ?_ ?_); rotate_left; (clear_value x; revert x; intro _ _); rotate_right; subst x)
    | (extract_lets -underBinder +onlyGivenNames x; clear_value x; revert x; intro _)
    | with_reducible apply Upd.ite <;> intro _
    | with_reducible apply Upd.getD
    | ((with_reducible apply Upd.go (putRecov_upd _ _ _)); rotate_left; exact rfl)
    | ((with_reducible apply Upd.go (putResetGo_upd _ _ _)); rotate_left; exact rfl)
    | ((with_reducible apply Upd.go (startRecovery_upd _ _ _ _ _)); rotate_left; exact rfl)
    | ((with_reducible apply Upd.go (enterResetting_upd _ _)); rotate_left; exact rfl)
    | split

theorem execResetGo_upd (n : Nat) (s : State) : UpdR resetGo_parts s (execResetGo n s) := by
  unfold execResetGo
  repeat' first
    | intro _
    | with_reducible assumption
    | with_reducible exact Upd.refl _
    | with_reducible apply UpdR.next
    | ((with_reducible apply Upd.go (resetGo_upd _ _)); rotate_left; exact rfl)

theorem execDrainEnd_upd (n : Nat) (s : State) : UpdR enterResetting_parts s (execDrainEnd n s) := by
  unfold execDrainEnd
  repeat' first
    | intro _
    | with_reducible assumption
    | with_reducible exact Upd.refl _
    | with_reducible apply Upd.ite <;> intro _
    | with_reducible apply UpdR.ite <;> intro _
    | with_reducible apply UpdR.next
    | with_reducible apply Upd.getD
    | ((with_reducible apply Upd.go (enterResetting_upd _ _)); rotate_left; exact rfl)

theorem sampleWord_upd (g : Nat) (w : Nat) (s : State) : Upd [.outbox, .regIrq, .regErr, .regFlt, .spads, .spad, .spadChk, .ceWins] s
    (sampleWord g w s) := by
  unfold sampleWord
  repeat' first
    | intro _
    | with_reducible assumption
    | with_reducible exact Upd.refl _
    | (extract_lets -underBinder +onlyGivenNames x; (with_reducible refine Upd.cut x ?_ ?_); rotate_left; (clear_value x; revert x; intro _ _); rotate_right; subst x)
    | (extract_lets -underBinder +onlyGivenNames x; clear_value x; revert x; intro _)
    | ((with_reducible apply Upd.go (poisonWord_upd _ _ _)); rotate_left; exact rfl)
    | ((with_reducible apply Upd.go (supersede_upd _ _ _)); rotate_left; exact rfl)
    | ((with_reducible apply Upd.go (scrubWord_upd _ _ _)); rotate_left; exact rfl)
    | split

theorem poisonSpad_upd (g : Nat) (s : State) : Upd [.spadChk] s (poisonSpad g s) := by
  have hw (h : SMap.wf (fun _ => none) s.spadChk) : SMap.wf (fun _ => none) (poisonSpad g s).spadChk := by
    have key : ∀ x w, wordKey x w = x * 4194304 + w := fun _ _ => rfl
    have size : spadSize / 8 ≤ 4194304 := by decide
    have mid : ∀ e ∈ (List.range (spadSize / 8)).map (fun w => (wordKey g w, some (spdCheck (leNat (spadBytes s g (8 * w) 8)) ^^^ 0xFF))),
        g * 4194304 ≤ e.1 ∧ e.1 < g * 4194304 + 4194304 ∧ e.2 ≠ none := by
      intro e he
      obtain ⟨w, hw, rfl⟩ := List.mem_map.1 he
      have := List.mem_range.1 hw
      refine ⟨?_, ?_, by simp⟩ <;> simp only [key] <;> omega
    refine ⟨?_, ?_⟩
    · refine List.pairwise_append.2 ⟨List.pairwise_append.2 ⟨h.1.filter _, ?_, ?_⟩, h.1.filter _, ?_⟩
      · refine List.pairwise_map.2 (List.pairwise_lt_range.imp ?_)
        intro a b hab
        simp only [key]
        omega
      · intro a ha b hb
        have h1 := of_decide_eq_true (List.mem_filter.1 ha).2
        have h2 := mid b hb
        rw [key] at h1
        omega
      · intro a ha b hb
        have h1 := of_decide_eq_true (List.mem_filter.1 hb).2
        rw [key] at h1
        rcases List.mem_append.1 ha with h2 | h2
        · have h3 := of_decide_eq_true (List.mem_filter.1 h2).2
          rw [key] at h3
          omega
        · have h3 := mid a h2
          omega
    · intro e he
      rcases List.mem_append.1 he with h1 | h1
      · rcases List.mem_append.1 h1 with h2 | h2
        · exact h.2 e (List.mem_filter.1 h2).1
        · exact (mid e h2).2.2
      · exact h.2 e (List.mem_filter.1 h1).1
  exact (Upd.refl s).set_spadChk rfl fun k => hw k.spadChk

/-- What `samplingDone` may change. -/
def samplingDone_parts : List Part :=
  [.outbox, .regCtl, .regIrq, .regLock, .regSet, .regErr, .regMs, .regEpo, .regLdg, .regSerai, .regEng, .regSpd, .regTmv, .regBkc, .regBku,
   .regMcs, .regDrv, .regBlk, .regRcv, .regFlt, .regEvl, .regOpt, .regBay, .regSes, .regRng, .regHif, .regSec, .regPwr, .regThm, .regClk,
   .regMgt, .ctxs, .spads, .spad, .spadChk, .ceWins, .recov]

theorem samplingDone_upd (n : Nat) (s : State) : Upd samplingDone_parts s (samplingDone n s) := by
  unfold samplingDone
  repeat' first
    | intro _
    | with_reducible assumption
    | with_reducible exact Upd.refl _
    | ((with_reducible apply UpdS.snd); with_reducible assumption)
    | (extract_lets -underBinder +onlyGivenNames x; (with_reducible refine Upd.cut x ?_ ?_); rotate_left; (clear_value x; revert x; intro _ _); rotate_right; subst x)
    | (extract_lets -underBinder +onlyGivenNames x; clear_value x; revert x; intro _)
    | with_reducible apply Upd.ite <;> intro _
    | with_reducible apply Upd.foldl
    | with_reducible apply UpdS.foldl
    | ((with_reducible apply UpdS.snd); with_reducible apply UpdS.foldl)
    | with_reducible apply Upd.forUpto
    | ((with_reducible apply Upd.go (putCtx_upd _ _ _)); rotate_left; exact rfl)
    | ((with_reducible apply Upd.go (putRecov_upd _ _ _)); rotate_left; exact rfl)
    | ((with_reducible apply Upd.go (resetFields_upd _ _)); rotate_left; exact rfl)
    | ((with_reducible apply Upd.go (sampleWord_upd _ _ _)); rotate_left; exact rfl)
    | ((with_reducible apply Upd.go (poisonSpad_upd _ _)); rotate_left; exact rfl)
    | with_reducible apply UpdS.mk
    | dsimp only
    | split

theorem execScratchpadSamplingDone_upd (n : Nat) (s : State) : UpdR samplingDone_parts s (execScratchpadSamplingDone n s) := by
  unfold execScratchpadSamplingDone
  repeat' first
    | intro _
    | with_reducible assumption
    | with_reducible exact Upd.refl _
    | with_reducible apply Upd.ite <;> intro _
    | with_reducible apply UpdR.ite <;> intro _
    | with_reducible apply UpdR.next
    | ((with_reducible apply Upd.go (samplingDone_upd _ _)); rotate_left; exact rfl)

theorem trainFail_upd (ck : Nat) (s : State) : Upd [.outbox, .regIrq, .regErr, .regLdg, .regMcs, .regFlt, .ldgSeq, .ldgLost, .dram,
    .dramChk, .chans, .units, .snoop, .biWait, .servedBytes] s (trainFail ck s) := by
  unfold trainFail
  repeat' first
    | intro _
    | with_reducible assumption
    | with_reducible exact Upd.refl _
    | (extract_lets -underBinder +onlyGivenNames x; (with_reducible refine Upd.cut x ?_ ?_); rotate_left; (clear_value x; revert x; intro _ _); rotate_right; subst x)
    | (extract_lets -underBinder +onlyGivenNames x; clear_value x; revert x; intro _)
    | ((with_reducible apply Upd.go (raise_upd _ _ _)); rotate_left; exact rfl)
    | ((with_reducible apply Upd.go (logErr_upd _ _ _ _ _)); rotate_left; exact rfl)
    | ((with_reducible apply Upd.go (putChan_upd _ _ _)); rotate_left; exact rfl)
    | ((with_reducible apply Upd.go (ledger_upd _ _ _ _)); rotate_left; exact rfl)

theorem execChannelRestoreDone_upd (stack : Nat) (chan : Nat) (pass : Bool) (s : State) : UpdR [.outbox, .regIrq, .regErr, .regLdg,
    .regMcs, .regFlt, .ldgSeq, .ldgLost, .dram, .dramChk, .chans, .units, .snoop, .biWait, .servedBytes, .recov] s (execChannelRestoreDone
    stack chan pass s) := by
  unfold execChannelRestoreDone
  repeat' first
    | intro _
    | with_reducible assumption
    | with_reducible exact Upd.refl _
    | (extract_lets -underBinder +onlyGivenNames x; (with_reducible refine UpdR.cut x ?_ ?_); rotate_left; (clear_value x; revert x; intro _ _); rotate_right; subst x)
    | (extract_lets -underBinder +onlyGivenNames x; (with_reducible refine Upd.cut x ?_ ?_); rotate_left; (clear_value x; revert x; intro _ _); rotate_right; subst x)
    | (extract_lets -underBinder +onlyGivenNames x; clear_value x; revert x; intro _)
    | with_reducible apply Upd.ite <;> intro _
    | with_reducible apply UpdR.ite <;> intro _
    | with_reducible apply UpdR.next
    | ((with_reducible apply Upd.go (logErr_upd _ _ _ _ _)); rotate_left; exact rfl)
    | ((with_reducible apply Upd.go (putRecov_upd _ _ _)); rotate_left; exact rfl)
    | ((with_reducible apply Upd.go (trainFail_upd _ _)); rotate_left; exact rfl)
    | split

theorem resumeClock_upd (n : Nat) (s : State) : Upd [.regClk] s (resumeClock n s) := by
  unfold resumeClock
  repeat' first
    | intro _
    | with_reducible assumption
    | with_reducible exact Upd.refl _
    | with_reducible apply Upd.ite <;> intro _
    | ((with_reducible apply Upd.go (wri_upd _ _ _ _ _)); rotate_left; exact rfl)

theorem recoveryEnd_upd (n : Nat) (s : State) : Upd [.outbox, .freeCtr, .regIrq, .regErr, .regLdg, .regMcs, .regRcv, .regFlt, .ldgSeq,
    .ldgLost, .dram, .dramChk, .chans, .units, .snoop, .biWait, .servedBytes, .recov] s (recoveryEnd n s) := by
  unfold recoveryEnd
  repeat' first
    | intro _
    | with_reducible assumption
    | with_reducible exact Upd.refl _
    | (extract_lets -underBinder +onlyGivenNames x; (with_reducible refine Upd.cut x ?_ ?_); rotate_left; (clear_value x; revert x; intro _ _); rotate_right; subst x)
    | (extract_lets -underBinder +onlyGivenNames x; clear_value x; revert x; intro _)
    | with_reducible apply Upd.getD
    | ((with_reducible apply Upd.go (wr_upd _ _ _ _)); rotate_left; exact rfl)
    | ((with_reducible apply Upd.go (freshNext_upd _)); rotate_left; exact rfl)
    | ((with_reducible apply Upd.go (ledger_upd _ _ _ _)); rotate_left; exact rfl)
    | ((with_reducible apply Upd.go (putPartState_upd _ _ _)); rotate_left; exact rfl)
    | ((with_reducible apply Upd.go (putRecov_upd _ _ _)); rotate_left; exact rfl)
    | ((with_reducible apply Upd.go (putResetGo_upd _ _ _)); rotate_left; exact rfl)

theorem resetDone_upd (n : Nat) (s : State) : Upd hostOos_parts s (resetDone n s) := by
  unfold resetDone
  repeat' first
    | intro _
    | with_reducible assumption
    | with_reducible exact Upd.refl _
    | (extract_lets -underBinder +onlyGivenNames x; (with_reducible refine Upd.cut x ?_ ?_); rotate_left; (clear_value x; revert x; intro _ _); rotate_right; subst x)
    | (extract_lets -underBinder +onlyGivenNames x; clear_value x; revert x; intro _)
    | with_reducible apply Upd.ite <;> intro _
    | with_reducible apply Upd.getD
    | ((with_reducible apply Upd.go (raise_upd _ _ _)); rotate_left; exact rfl)
    | ((with_reducible apply Upd.go (putPartState_upd _ _ _)); rotate_left; exact rfl)
    | ((with_reducible apply Upd.go (putRecov_upd _ _ _)); rotate_left; exact rfl)
    | ((with_reducible apply Upd.go (putResetGo_upd _ _ _)); rotate_left; exact rfl)
    | ((with_reducible apply Upd.go (channelsUp_upd _ _)); rotate_left; exact rfl)
    | ((with_reducible apply Upd.go (serveChannels_upd _ _)); rotate_left; exact rfl)
    | ((with_reducible apply Upd.go (goOos_upd _ _ _)); rotate_left; exact rfl)
    | ((with_reducible apply Upd.go (opsResume_upd _ _ _)); rotate_left; exact rfl)
    | ((with_reducible apply Upd.go (opsReset_upd _ _)); rotate_left; exact rfl)
    | ((with_reducible apply Upd.go (resumeClock_upd _ _)); rotate_left; exact rfl)
    | ((with_reducible apply Upd.go (recoveryEnd_upd _ _)); rotate_left; exact rfl)
    | split

theorem execPartResetDone_upd (n : Nat) (s : State) : UpdR hostOos_parts s (execPartResetDone n s) := by
  unfold execPartResetDone
  repeat' first
    | intro _
    | with_reducible assumption
    | with_reducible exact Upd.refl _
    | with_reducible apply Upd.ite <;> intro _
    | with_reducible apply UpdR.ite <;> intro _
    | with_reducible apply UpdR.next
    | ((with_reducible apply Upd.go (resetDone_upd _ _)); rotate_left; exact rfl)

theorem rejoin_upd (id : Nat) (a : SplitGen) (s : State) : Upd [.outbox, .regIrq, .regErr, .regLdg, .regMcs, .regFlt, .ldgSeq, .ldgLost,
    .ctxs, .runs, .spads, .serais, .dram, .dramChk, .chans, .units, .snoop, .biWait, .servedBytes] s (rejoin id a s) := by
  unfold rejoin
  repeat' first
    | intro _
    | with_reducible assumption
    | with_reducible exact Upd.refl _
    | (extract_lets -underBinder +onlyGivenNames x; (with_reducible refine Upd.cut x ?_ ?_); rotate_left; (clear_value x; revert x; intro _ _); rotate_right; subst x)
    | (extract_lets -underBinder +onlyGivenNames x; clear_value x; revert x; intro _)
    | with_reducible apply Upd.ite <;> intro _
    | ((with_reducible apply Upd.go (putCtx_upd _ _ _)); rotate_left; exact rfl)
    | ((with_reducible apply Upd.go (barArrive_upd _ _ _ _)); rotate_left; exact rfl)

theorem replayCtx_upd (id : Nat) (s : State) : Upd [.outbox, .regIrq, .regErr, .regLdg, .regMcs, .regRcv, .regFlt, .ldgSeq, .ldgLost,
    .ctxs, .runs, .pms, .spads, .serais, .dram, .dramChk, .chans, .units, .snoop, .biWait, .servedBytes] s (replayCtx id s) := by
  unfold replayCtx
  repeat' first
    | intro _
    | with_reducible assumption
    | with_reducible exact Upd.refl _
    | ((with_reducible apply UpdS.snd); with_reducible assumption)
    | (extract_lets -underBinder +onlyGivenNames x; (with_reducible refine Upd.cut x ?_ ?_); rotate_left; (clear_value x; revert x; intro _ _); rotate_right; subst x)
    | (extract_lets -underBinder +onlyGivenNames x; clear_value x; revert x; intro _)
    | with_reducible apply Upd.ite <;> intro _
    | with_reducible apply Upd.foldl
    | with_reducible apply UpdS.foldl
    | ((with_reducible apply UpdS.snd); with_reducible apply UpdS.foldl)
    | with_reducible apply Upd.getD
    | ((with_reducible apply Upd.go (count_upd _ _ _ _)); rotate_left; exact rfl)
    | ((with_reducible apply Upd.go (putCtx_upd _ _ _)); rotate_left; exact rfl)
    | ((with_reducible apply Upd.go (putPm_upd _ _ _)); rotate_left; exact rfl)
    | ((with_reducible apply Upd.go (ledger_upd _ _ _ _)); rotate_left; exact rfl)
    | ((with_reducible apply Upd.go (rejoin_upd _ _ _)); rotate_left; exact rfl)
    | with_reducible apply UpdS.mk
    | dsimp only

/-- What `replayOne` may change. -/
def replayOne_parts : List Part :=
  [.outbox, .regCtl, .regIrq, .regLock, .regSet, .regErr, .regMs, .regEpo, .regLdg, .regSerai, .regEng, .regSpd, .regTmv, .regBkc, .regBku,
   .regMcs, .regDrv, .regBlk, .regRcv, .regFlt, .regEvl, .regOpt, .regBay, .regSes, .regRng, .regHif, .regSec, .regPwr, .regThm, .regClk,
   .regMgt, .staging, .prevSet, .vslots, .floorAbove, .ldgSeq, .ldgLost, .ctxs, .runs, .pms, .spads, .serais, .sess, .abortWaits, .dram,
   .dramChk, .chans, .units, .snoop, .biWait, .drovers, .servedBytes, .fwSlots]

theorem replayOne_upd (id : Nat) (s : State) : Upd replayOne_parts s (replayOne id s) := by
  unfold replayOne
  repeat' first
    | intro _
    | with_reducible assumption
    | with_reducible exact Upd.refl _
    | (extract_lets -underBinder +onlyGivenNames x; (with_reducible refine Upd.cut x ?_ ?_); rotate_left; (clear_value x; revert x; intro _ _); rotate_right; subst x)
    | (extract_lets -underBinder +onlyGivenNames x; clear_value x; revert x; intro _)
    | with_reducible apply Upd.ite <;> intro _
    | ((with_reducible apply Upd.go (dropJournal_upd _ _)); rotate_left; exact rfl)
    | ((with_reducible apply Upd.go (noteNotReplayed_upd _ _ _)); rotate_left; exact rfl)
    | ((with_reducible apply Upd.go (endNotReplayed_upd _ _ _)); rotate_left; exact rfl)
    | ((with_reducible apply Upd.go (replayCtx_upd _ _)); rotate_left; exact rfl)
    | split

theorem execCtxReplayed_upd (core : Nat) (ctx : Nat) (s : State) : UpdR hostOos_parts s (execCtxReplayed core ctx s) := by
  unfold execCtxReplayed
  repeat' first
    | intro _
    | with_reducible assumption
    | with_reducible exact Upd.refl _
    | (extract_lets -underBinder +onlyGivenNames x; (with_reducible refine UpdR.cut x ?_ ?_); rotate_left; (clear_value x; revert x; intro _ _); rotate_right; subst x)
    | (extract_lets -underBinder +onlyGivenNames x; (with_reducible refine Upd.cut x ?_ ?_); rotate_left; (clear_value x; revert x; intro _ _); rotate_right; subst x)
    | (extract_lets -underBinder +onlyGivenNames x; clear_value x; revert x; intro _)
    | with_reducible apply Upd.ite <;> intro _
    | with_reducible apply UpdR.ite <;> intro _
    | with_reducible apply UpdR.next
    | ((with_reducible apply Upd.go (opsResume_upd _ _ _)); rotate_left; exact rfl)
    | ((with_reducible apply Upd.go (recoveryEnd_upd _ _)); rotate_left; exact rfl)
    | ((with_reducible apply Upd.go (replayOne_upd _ _)); rotate_left; exact rfl)
    | split

theorem readmit_upd (n : Nat) (s : State) : Upd [.regRcv] s (readmit n s) := by
  unfold readmit
  repeat' first
    | intro _
    | with_reducible assumption
    | with_reducible exact Upd.refl _
    | with_reducible apply Upd.ite <;> intro _
    | ((with_reducible apply Upd.go (wr_upd _ _ _ _)); rotate_left; exact rfl)

theorem execReadmit_upd (n : Nat) (s : State) : UpdR [.regRcv] s (execReadmit n s) := by
  unfold execReadmit
  repeat' first
    | intro _
    | with_reducible assumption
    | with_reducible exact Upd.refl _
    | with_reducible apply UpdR.next
    | ((with_reducible apply Upd.go (readmit_upd _ _)); rotate_left; exact rfl)

theorem channelLost_upd (ck : Nat) (s : State) : Upd [.memGens, .dram, .dramChk] s (channelLost ck s) := by
  unfold channelLost
  refine Upd.ite (fun _ => Upd.refl s) fun hck => ?_
  have hg (h : SMap.wf (fun _ => 0) s.memGens) :
      SMap.wf (fun _ => 0) (SMap.set (fun _ => 0) s.memGens ck (SMap.get (fun _ => 0) s.memGens ck + 1)) := SMap.wf_set h
  have hd (h : dramWf s) : SMap.wf (dramDefault (SMap.set (fun _ => 0) s.memGens ck (SMap.get (fun _ => 0) s.memGens ck + 1)))
      (s.dram.filter fun e => chanKey (e.1 / 32) != ck) := by
    refine ⟨h.1.filter _, fun e he => ?_⟩
    have h1 := (List.mem_filter.1 he).2
    have h2 : e.1 / 2 ^ 31 ≠ ck := by
      have h3 : chanKey (e.1 / 32) ≠ ck := by simpa using h1
      unfold chanKey at h3
      omega
    have h4 : dramDefault (SMap.set (fun _ => 0) s.memGens ck (SMap.get (fun _ => 0) s.memGens ck + 1)) e.1 = dramDefault s.memGens e.1 := by
      unfold dramDefault memGenAt
      rw [SMap.get_set_other h2, SMap.get_set_other (by omega)]
    rw [h4]
    exact h.2 e (List.mem_filter.1 he).1
  refine (Upd.refl s).put (fun q hq => by cases q <;> first | rfl | exact fun _ _ _ _ => rfl | exact absurd hq (by decide)) rfl rfl fun k =>
    { k with memGens := hg k.memGens, dram := hd k.dram, dramChk := SMap.wf_filter k.dramChk }

theorem reapply_upd (p : Nat → Bool) (s : State) : Upd [.regFlt, .remaps] s (reapply p s) := by
  unfold reapply
  repeat' first
    | intro _
    | with_reducible assumption
    | with_reducible exact Upd.refl _
    | (extract_lets -underBinder +onlyGivenNames x; (with_reducible refine Upd.cut x ?_ ?_); rotate_left; (clear_value x; revert x; intro _ _); rotate_right; subst x)
    | (extract_lets -underBinder +onlyGivenNames x; clear_value x; revert x; intro _)
    | with_reducible apply Upd.forUpto
    | ((with_reducible apply Upd.go (wri_upd _ _ _ _ _)); rotate_left; exact rfl)
    | ((with_reducible apply Upd.set_remaps); rotate_left; exact rfl)

theorem trainAgain_upd (n : Nat) (bad : List Nat) (s : State) : Upd [.outbox, .regIrq, .regErr, .regLdg, .regMcs, .regFlt, .ldgSeq,
    .ldgLost, .memGens, .dram, .dramChk, .chans, .units, .snoop, .biWait, .servedBytes] s (trainAgain n bad s) := by
  unfold trainAgain
  repeat' first
    | intro _
    | with_reducible assumption
    | with_reducible exact Upd.refl _
    | ((with_reducible apply UpdS.snd); with_reducible assumption)
    | (extract_lets -underBinder +onlyGivenNames x; (with_reducible refine Upd.cut x ?_ ?_); rotate_left; (clear_value x; revert x; intro _ _); rotate_right; subst x)
    | (extract_lets -underBinder +onlyGivenNames x; clear_value x; revert x; intro _)
    | with_reducible apply Upd.ite <;> intro _
    | with_reducible apply Upd.foldl
    | with_reducible apply UpdS.foldl
    | ((with_reducible apply UpdS.snd); with_reducible apply UpdS.foldl)
    | ((with_reducible apply Upd.go (putChan_upd _ _ _)); rotate_left; exact rfl)
    | ((with_reducible apply Upd.go (trainFail_upd _ _)); rotate_left; exact rfl)
    | ((with_reducible apply Upd.go (channelLost_upd _ _)); rotate_left; exact rfl)
    | with_reducible apply UpdS.mk
    | dsimp only

/-- What `readmitted` may change. -/
def readmitted_parts : List Part :=
  [.outbox, .freeCtr, .regIrq, .regErr, .regLdg, .regBku, .regMcs, .regRcv, .regFlt, .regClk, .ldgSeq, .ldgLost, .ctxs, .serais, .sess,
   .dram, .dramChk, .chans, .units, .flights, .snoop, .biWait, .ceWins, .remaps, .servedBytes]

theorem readmitted_upd (n : Nat) (s : State) : Upd readmitted_parts s (readmitted n s) := by
  unfold readmitted
  repeat' first
    | intro _
    | with_reducible assumption
    | with_reducible exact Upd.refl _
    | ((with_reducible apply UpdS.snd); with_reducible assumption)
    | (extract_lets -underBinder +onlyGivenNames x; (with_reducible refine Upd.cut x ?_ ?_); rotate_left; (clear_value x; revert x; intro _ _); rotate_right; subst x)
    | (extract_lets -underBinder +onlyGivenNames x; clear_value x; revert x; intro _)
    | with_reducible apply Upd.ite <;> intro _
    | with_reducible apply Upd.foldl
    | with_reducible apply UpdS.foldl
    | ((with_reducible apply UpdS.snd); with_reducible apply UpdS.foldl)
    | ((with_reducible apply Upd.go (wri_upd _ _ _ _ _)); rotate_left; exact rfl)
    | ((with_reducible apply Upd.go (putSerai_upd _ _ _)); rotate_left; exact rfl)
    | ((with_reducible apply Upd.go (putPartState_upd _ _ _)); rotate_left; exact rfl)
    | ((with_reducible apply Upd.go (dropJournal_upd _ _)); rotate_left; exact rfl)
    | ((with_reducible apply Upd.go (serviceLevel_upd _)); rotate_left; exact rfl)
    | ((with_reducible apply Upd.go (channelsUp_upd _ _)); rotate_left; exact rfl)
    | ((with_reducible apply Upd.go (serveChannels_upd _ _)); rotate_left; exact rfl)
    | ((with_reducible apply Upd.go (resumeClock_upd _ _)); rotate_left; exact rfl)
    | ((with_reducible apply Upd.go (reapply_upd _ _)); rotate_left; exact rfl)
    | with_reducible apply UpdS.mk
    | dsimp only

/-- What `execReadmitDone` may change. -/
def execReadmitDone_parts : List Part :=
  [.outbox, .freeCtr, .regIrq, .regErr, .regLdg, .regBku, .regMcs, .regRcv, .regFlt, .regClk, .ldgSeq, .ldgLost, .ctxs, .serais, .sess,
   .memGens, .dram, .dramChk, .chans, .units, .flights, .snoop, .biWait, .ceWins, .remaps, .servedBytes]

theorem execReadmitDone_upd (n : Nat) (selfTest : Bool) (failChans : List Nat) (s : State) : UpdR execReadmitDone_parts s (execReadmitDone
    n selfTest failChans s) := by
  unfold execReadmitDone
  repeat' first
    | intro _
    | with_reducible assumption
    | with_reducible exact Upd.refl _
    | (extract_lets -underBinder +onlyGivenNames x; (with_reducible refine UpdR.cut x ?_ ?_); rotate_left; (clear_value x; revert x; intro _ _); rotate_right; subst x)
    | (extract_lets -underBinder +onlyGivenNames x; (with_reducible refine Upd.cut x ?_ ?_); rotate_left; (clear_value x; revert x; intro _ _); rotate_right; subst x)
    | (extract_lets -underBinder +onlyGivenNames x; clear_value x; revert x; intro _)
    | with_reducible apply Upd.ite <;> intro _
    | with_reducible apply UpdR.ite <;> intro _
    | with_reducible apply UpdR.next
    | ((with_reducible apply Upd.go (wr_upd _ _ _ _)); rotate_left; exact rfl)
    | ((with_reducible apply Upd.go (ledger_upd _ _ _ _)); rotate_left; exact rfl)
    | ((with_reducible apply Upd.go (trainAgain_upd _ _ _)); rotate_left; exact rfl)
    | ((with_reducible apply Upd.go (readmitted_upd _ _)); rotate_left; exact rfl)
    | split

theorem spineMasked_upd (cycle : Nat) (s : State) : Upd [.outbox, .regIrq, .regErr, .regLdg, .regMcs, .regRcv, .regFlt, .ldgSeq, .ldgLost,
    .dram, .dramChk, .chans, .units, .snoop, .biWait, .servedBytes] s (spineMasked cycle s) := by
  unfold spineMasked
  repeat' first
    | intro _
    | with_reducible assumption
    | with_reducible exact Upd.refl _
    | ((with_reducible apply Upd.go (count_upd _ _ _ _)); rotate_left; exact rfl)
    | ((with_reducible apply Upd.go (raise_upd _ _ _)); rotate_left; exact rfl)
    | ((with_reducible apply Upd.go (logErr_upd _ _ _ _ _)); rotate_left; exact rfl)
    | ((with_reducible apply Upd.go (ledger_upd _ _ _ _)); rotate_left; exact rfl)
    | split

theorem execSpineSingleFault_upd (comparator : Bool) (cycle : Nat) (s : State) : UpdR busy s (execSpineSingleFault comparator cycle s) :=
    by
  unfold execSpineSingleFault
  repeat' first
    | intro _
    | with_reducible assumption
    | with_reducible exact Upd.refl _
    | (extract_lets -underBinder +onlyGivenNames x; (with_reducible refine UpdR.cut x ?_ ?_); rotate_left; (clear_value x; revert x; intro _ _); rotate_right; subst x)
    | (extract_lets -underBinder +onlyGivenNames x; (with_reducible refine Upd.cut x ?_ ?_); rotate_left; (clear_value x; revert x; intro _ _); rotate_right; subst x)
    | (extract_lets -underBinder +onlyGivenNames x; clear_value x; revert x; intro _)
    | with_reducible apply Upd.ite <;> intro _
    | with_reducible apply UpdR.ite <;> intro _
    | with_reducible apply UpdR.next
    | ((with_reducible apply Upd.go (wr_upd _ _ _ _)); rotate_left; exact rfl)
    | ((with_reducible apply Upd.go (deviceReset_upd _)); rotate_left; exact rfl)
    | ((with_reducible apply Upd.go (spineMasked_upd _ _)); rotate_left; exact rfl)
    | split
    | ((with_reducible apply Upd.set_compBad); rotate_left; exact rfl)

theorem execSpineResyncDone_upd (s : State) : UpdR [.regRcv] s (execSpineResyncDone s) := by
  unfold execSpineResyncDone
  repeat' first
    | intro _
    | with_reducible assumption
    | with_reducible exact Upd.refl _
    | with_reducible apply UpdR.next
    | ((with_reducible apply Upd.go (wr_upd _ _ _ _)); rotate_left; exact rfl)

theorem execSpineStorageError_upd (journal : Option Nat) (s : State) : UpdR busy s (execSpineStorageError journal s) := by
  unfold execSpineStorageError
  repeat' first
    | intro _
    | with_reducible assumption
    | with_reducible exact Upd.refl _
    | (extract_lets -underBinder +onlyGivenNames x; (with_reducible refine UpdR.cut x ?_ ?_); rotate_left; (clear_value x; revert x; intro _ _); rotate_right; subst x)
    | (extract_lets -underBinder +onlyGivenNames x; (with_reducible refine Upd.cut x ?_ ?_); rotate_left; (clear_value x; revert x; intro _ _); rotate_right; subst x)
    | (extract_lets -underBinder +onlyGivenNames x; clear_value x; revert x; intro _)
    | with_reducible apply Upd.ite <;> intro _
    | with_reducible apply UpdR.ite <;> intro _
    | with_reducible apply UpdR.next
    | with_reducible apply UpdO.orElse
    | ((with_reducible apply Upd.go (putCtx_upd _ _ _)); rotate_left; exact rfl)
    | ((with_reducible apply Upd.go (noteNotReplayed_upd _ _ _)); rotate_left; exact rfl)
    | ((with_reducible apply Upd.go (endNotReplayed_upd _ _ _)); rotate_left; exact rfl)
    | ((with_reducible apply Upd.go (deviceReset_upd _)); rotate_left; exact rfl)
    | ((with_reducible apply Upd.go (opsResume_upd _ _ _)); rotate_left; exact rfl)
    | ((with_reducible apply Upd.go (recoveryEnd_upd _ _)); rotate_left; exact rfl)
    | split

theorem execDeviceReset_upd (s : State) : UpdR busy s (execDeviceReset s) := by
  unfold execDeviceReset
  repeat' first
    | intro _
    | with_reducible assumption
    | with_reducible exact Upd.refl _
    | with_reducible apply UpdR.next
    | ((with_reducible apply Upd.go (deviceReset_upd _)); rotate_left; exact rfl)

theorem execEscWindowExpire_upd (n : Nat) (s : State) : UpdR [.regRcv, .winOpen] s (execEscWindowExpire n s) := by
  unfold execEscWindowExpire
  repeat' first
    | intro _
    | with_reducible assumption
    | with_reducible exact Upd.refl _
    | (extract_lets -underBinder +onlyGivenNames x; (with_reducible refine UpdR.cut x ?_ ?_); rotate_left; (clear_value x; revert x; intro _ _); rotate_right; subst x)
    | (extract_lets -underBinder +onlyGivenNames x; (with_reducible refine Upd.cut x ?_ ?_); rotate_left; (clear_value x; revert x; intro _ _); rotate_right; subst x)
    | (extract_lets -underBinder +onlyGivenNames x; clear_value x; revert x; intro _)
    | with_reducible apply Upd.ite <;> intro _
    | with_reducible apply UpdR.ite <;> intro _
    | with_reducible apply UpdR.next
    | ((with_reducible apply Upd.go (wri_upd _ _ _ _ _)); rotate_left; exact rfl)
    | ((with_reducible apply Upd.set_winOpen); rotate_left; exact rfl)

end Sys2Proof.Machine
end

