-- ==== Sys2Proof/Laws/UpdPower.lean ====
section
/-!
SUPPORT. What each operation of Machine/Power can change, and that it keeps the canonical form.
-/

namespace Sys2Proof.Machine

set_option maxRecDepth 4000
set_option linter.all false

theorem psBegin_upd (t : Nat) (s : State) : Upd [.freeCtr, .regPwr, .ports, .psNext] s (psBegin t s) := by
  unfold psBegin
  repeat' first
    | intro _
    | with_reducible assumption
    | with_reducible exact Upd.refl _
    | (extract_lets -underBinder +onlyGivenNames x; (with_reducible refine Upd.cut x ?_ ?_); rotate_left; (clear_value x; revert x; intro _ _); rotate_right; subst x)
    | (extract_lets -underBinder +onlyGivenNames x; clear_value x; revert x; intro _)
    | with_reducible apply Upd.ite <;> intro _
    | ((with_reducible apply Upd.go (psStart_upd _ _)); rotate_left; exact rfl)
    | ((with_reducible apply Upd.go (sendAll_upd _ _)); rotate_left; exact rfl)

theorem psResult_upd (r : Nat) (s : State) : Upd [.regPwr] s (psResult r s) := by
  unfold psResult
  repeat' first
    | intro _
    | with_reducible assumption
    | with_reducible exact Upd.refl _
    | ((with_reducible apply Upd.go (wr_upd _ _ _ _)); rotate_left; exact rfl)

theorem psRequest_upd (t : Nat) (s : State) : UpdS [.freeCtr, .regPwr, .regMgt, .ports, .psNext] s (psRequest t s) := by
  unfold psRequest
  repeat' first
    | intro _
    | with_reducible assumption
    | with_reducible exact Upd.refl _
    | ((with_reducible apply UpdS.snd); with_reducible assumption)
    | with_reducible apply Upd.ite <;> intro _
    | with_reducible apply UpdS.ite <;> intro _
    | ((with_reducible apply Upd.go (wr_upd _ _ _ _)); rotate_left; exact rfl)
    | ((with_reducible apply Upd.go (psStart_upd _ _)); rotate_left; exact rfl)
    | ((with_reducible apply Upd.go (putStage_upd _ _)); rotate_left; exact rfl)
    | ((with_reducible apply Upd.go (psBegin_upd _ _)); rotate_left; exact rfl)
    | ((with_reducible apply Upd.go (psResult_upd _ _)); rotate_left; exact rfl)
    | with_reducible apply UpdS.mk
    | dsimp only
    | split

theorem psGo_upd (s : State) : Upd [.freeCtr, .regPwr, .regMgt, .ports, .psNext] s (psGo s) := by
  unfold psGo
  repeat' first
    | intro _
    | with_reducible assumption
    | with_reducible exact Upd.refl _
    | ((with_reducible apply UpdS.snd); with_reducible assumption)
    | (extract_lets -underBinder +onlyGivenNames x; (with_reducible refine Upd.cut x ?_ ?_); rotate_left; (clear_value x; revert x; intro _ _); rotate_right; subst x)
    | (extract_lets -underBinder +onlyGivenNames x; (with_reducible refine Upd.cutSnd x ?_ ?_); rotate_left; (clear_value x; revert x; intro _ _); rotate_right; subst x)
    | (extract_lets -underBinder +onlyGivenNames x; clear_value x; revert x; intro _)
    | with_reducible apply Upd.ite <;> intro _
    | with_reducible apply UpdS.ite <;> intro _
    | ((with_reducible apply Upd.go (wr_upd _ _ _ _)); rotate_left; exact rfl)
    | ((with_reducible apply Upd.goS (psRequest_upd _ _)); rotate_left; exact rfl)
    | ((with_reducible apply UpdS.go (psRequest_upd _ _)); rotate_left; exact rfl)
    | with_reducible apply UpdS.mk

theorem execPsGo_upd (s : State) : UpdR [.freeCtr, .regPwr, .regMgt, .ports, .psNext] s (execPsGo s) := by
  unfold execPsGo
  repeat' first
    | intro _
    | with_reducible assumption
    | with_reducible exact Upd.refl _
    | with_reducible apply Upd.ite <;> intro _
    | with_reducible apply UpdR.ite <;> intro _
    | with_reducible apply UpdR.next
    | ((with_reducible apply Upd.go (psGo_upd _)); rotate_left; exact rfl)

theorem execD3hot_upd (link : Nat) (s : State) : UpdR [.freeCtr, .regPwr, .regMgt, .ports, .d3, .psNext] s (execD3hot link s) := by
  unfold execD3hot
  repeat' first
    | intro _
    | with_reducible assumption
    | with_reducible exact Upd.refl _
    | ((with_reducible apply UpdS.snd); with_reducible assumption)
    | (extract_lets -underBinder +onlyGivenNames x; (with_reducible refine UpdR.cut x ?_ ?_); rotate_left; (clear_value x; revert x; intro _ _); rotate_right; subst x)
    | (extract_lets -underBinder +onlyGivenNames x; (with_reducible refine Upd.cut x ?_ ?_); rotate_left; (clear_value x; revert x; intro _ _); rotate_right; subst x)
    | (extract_lets -underBinder +onlyGivenNames x; (with_reducible refine UpdR.cutSnd x ?_ ?_); rotate_left; (clear_value x; revert x; intro _ _); rotate_right; subst x)
    | (extract_lets -underBinder +onlyGivenNames x; (with_reducible refine Upd.cutSnd x ?_ ?_); rotate_left; (clear_value x; revert x; intro _ _); rotate_right; subst x)
    | (extract_lets -underBinder +onlyGivenNames x; clear_value x; revert x; intro _)
    | with_reducible apply Upd.ite <;> intro _
    | with_reducible apply UpdR.ite <;> intro _
    | with_reducible apply UpdS.ite <;> intro _
    | with_reducible apply UpdR.next
    | ((with_reducible apply Upd.goS (psRequest_upd _ _)); rotate_left; exact rfl)
    | ((with_reducible apply UpdS.go (psRequest_upd _ _)); rotate_left; exact rfl)
    | with_reducible apply UpdS.mk
    | ((with_reducible apply Upd.set_d3); rotate_left; exact rfl)

theorem execD0_upd (link : Nat) (s : State) : UpdR [.freeCtr, .regPwr, .regMgt, .ports, .d3, .psNext] s (execD0 link s) := by
  unfold execD0
  repeat' first
    | intro _
    | with_reducible assumption
    | with_reducible exact Upd.refl _
    | ((with_reducible apply UpdS.snd); with_reducible assumption)
    | (extract_lets -underBinder +onlyGivenNames x; (with_reducible refine UpdR.cut x ?_ ?_); rotate_left; (clear_value x; revert x; intro _ _); rotate_right; subst x)
    | (extract_lets -underBinder +onlyGivenNames x; (with_reducible refine Upd.cut x ?_ ?_); rotate_left; (clear_value x; revert x; intro _ _); rotate_right; subst x)
    | (extract_lets -underBinder +onlyGivenNames x; (with_reducible refine UpdR.cutSnd x ?_ ?_); rotate_left; (clear_value x; revert x; intro _ _); rotate_right; subst x)
    | (extract_lets -underBinder +onlyGivenNames x; (with_reducible refine Upd.cutSnd x ?_ ?_); rotate_left; (clear_value x; revert x; intro _ _); rotate_right; subst x)
    | (extract_lets -underBinder +onlyGivenNames x; clear_value x; revert x; intro _)
    | with_reducible apply Upd.ite <;> intro _
    | with_reducible apply UpdR.ite <;> intro _
    | with_reducible apply UpdS.ite <;> intro _
    | with_reducible apply UpdR.next
    | ((with_reducible apply Upd.goS (psRequest_upd _ _)); rotate_left; exact rfl)
    | ((with_reducible apply UpdS.go (psRequest_upd _ _)); rotate_left; exact rfl)
    | with_reducible apply UpdS.mk
    | ((with_reducible apply Upd.set_d3); rotate_left; exact rfl)

theorem coresOff_upd (s : State) : Upd [.pms, .engines, .spads, .spad, .spadChk, .spadGen] s (coresOff s) := by
  unfold coresOff
  refine (Upd.refl s).put (fun q hq => by cases q <;> first | rfl | exact fun _ _ _ _ => rfl | exact absurd hq (by decide)) rfl rfl fun k =>
    { k with spad := SMap.wf_nil, spadChk := SMap.wf_nil, spads := SMap.wf_nil, pms := SMap.wf_nil, engines := SMap.wf_nil }

/-- What `partsOff` may change. -/
def partsOff_parts : List Part :=
  [.outbox, .freeCtr, .regIrq, .regErr, .regLdg, .regSpd, .regTmv, .regBku, .regMcs, .regDrv, .regFlt, .regEvl, .regOpt, .regBay, .ldgSeq,
   .ldgLost, .ctxs, .runs, .pms, .engines, .spads, .spad, .spadChk, .serais, .spadGen, .dram, .dramChk, .chans, .units, .flights, .snoop,
   .biWait, .ceWins, .drovers, .servedBytes, .ports]

theorem partsOff_upd (s : State) : Upd partsOff_parts s (partsOff s) := by
  unfold partsOff
  repeat' first
    | intro _
    | with_reducible assumption
    | with_reducible exact Upd.refl _
    | (extract_lets -underBinder +onlyGivenNames x; (with_reducible refine Upd.cut x ?_ ?_); rotate_left; (clear_value x; revert x; intro _ _); rotate_right; subst x)
    | (extract_lets -underBinder +onlyGivenNames x; clear_value x; revert x; intro _)
    | with_reducible apply Upd.ite <;> intro _
    | with_reducible apply Upd.forUpto
    | ((with_reducible apply Upd.go (putSerai_upd _ _ _)); rotate_left; exact rfl)
    | ((with_reducible apply Upd.go (droverReset_upd _ _)); rotate_left; exact rfl)
    | ((with_reducible apply Upd.go (leaveStream_upd _ _ _)); rotate_left; exact rfl)
    | ((with_reducible apply Upd.go (setCart_upd _ _ _)); rotate_left; exact rfl)
    | ((with_reducible apply Upd.go (coresOff_upd _)); rotate_left; exact rfl)
    | split

theorem enterP4_upd (s : State) : Upd busy s (enterP4 s) := by
  unfold enterP4
  repeat' first
    | intro _
    | with_reducible assumption
    | with_reducible exact Upd.refl _
    | (extract_lets -underBinder +onlyGivenNames x; (with_reducible refine Upd.cut x ?_ ?_); rotate_left; (clear_value x; revert x; intro _ _); rotate_right; subst x)
    | (extract_lets -underBinder +onlyGivenNames x; clear_value x; revert x; intro _)
    | ((with_reducible apply Upd.go (wr_upd _ _ _ _)); rotate_left; exact rfl)
    | ((with_reducible apply Upd.go (raise_upd _ _ _)); rotate_left; exact rfl)
    | ((with_reducible apply Upd.go (putStage_upd _ _)); rotate_left; exact rfl)
    | ((with_reducible apply Upd.go (deviceReset_upd _)); rotate_left; exact rfl)
    | ((with_reducible apply Upd.set_remaps); rotate_left; exact rfl)

theorem psEnter_upd (t : Nat) (s : State) : Upd busy s (psEnter t s) := by
  unfold psEnter
  repeat' first
    | intro _
    | with_reducible assumption
    | with_reducible exact Upd.refl _
    | (extract_lets -underBinder +onlyGivenNames x; (with_reducible refine Upd.cut x ?_ ?_); rotate_left; (clear_value x; revert x; intro _ _); rotate_right; subst x)
    | (extract_lets -underBinder +onlyGivenNames x; clear_value x; revert x; intro _)
    | ((with_reducible apply Upd.go (wr_upd _ _ _ _)); rotate_left; exact rfl)
    | ((with_reducible apply Upd.go (raise_upd _ _ _)); rotate_left; exact rfl)
    | ((with_reducible apply Upd.go (coresOff_upd _)); rotate_left; exact rfl)
    | ((with_reducible apply Upd.go (partsOff_upd _)); rotate_left; exact rfl)
    | ((with_reducible apply Upd.go (enterP4_upd _)); rotate_left; exact rfl)
    | split

theorem psExit_upd (s : State) : Upd busy s (psExit s) := by
  unfold psExit
  repeat' first
    | intro _
    | with_reducible assumption
    | with_reducible exact Upd.refl _
    | (extract_lets -underBinder +onlyGivenNames x; (with_reducible refine Upd.cut x ?_ ?_); rotate_left; (clear_value x; revert x; intro _ _); rotate_right; subst x)
    | (extract_lets -underBinder +onlyGivenNames x; clear_value x; revert x; intro _)
    | with_reducible apply Upd.ite <;> intro _
    | with_reducible apply Upd.forUpto
    | ((with_reducible apply Upd.go (epochSettle_upd _)); rotate_left; exact rfl)
    | ((with_reducible apply Upd.go (opsResume_upd _ _ _)); rotate_left; exact rfl)
    | ((with_reducible apply Upd.go (measure_upd _ _ _ _)); rotate_left; exact rfl)
    | ((with_reducible apply Upd.go (psBegin_upd _ _)); rotate_left; exact rfl)
    | ((with_reducible apply Upd.go (psResult_upd _ _)); rotate_left; exact rfl)
    | ((with_reducible apply Upd.go (psEnter_upd _ _)); rotate_left; exact rfl)
    | split
    | ((with_reducible apply Upd.set_psNext); rotate_left; exact rfl)

theorem execPstateDone_upd (s : State) : UpdR busy s (execPstateDone s) := by
  unfold execPstateDone
  repeat' first
    | intro _
    | with_reducible assumption
    | with_reducible exact Upd.refl _
    | (extract_lets -underBinder +onlyGivenNames x; (with_reducible refine UpdR.cut x ?_ ?_); rotate_left; (clear_value x; revert x; intro _ _); rotate_right; subst x)
    | (extract_lets -underBinder +onlyGivenNames x; (with_reducible refine Upd.cut x ?_ ?_); rotate_left; (clear_value x; revert x; intro _ _); rotate_right; subst x)
    | (extract_lets -underBinder +onlyGivenNames x; clear_value x; revert x; intro _)
    | with_reducible apply Upd.ite <;> intro _
    | with_reducible apply UpdR.ite <;> intro _
    | with_reducible apply UpdR.next
    | ((with_reducible apply Upd.go (psResult_upd _ _)); rotate_left; exact rfl)
    | ((with_reducible apply Upd.go (psEnter_upd _ _)); rotate_left; exact rfl)
    | ((with_reducible apply Upd.go (psExit_upd _)); rotate_left; exact rfl)

theorem pwrPartOos_upd (n : Nat) (s : State) : Upd hostOos_parts s (pwrPartOos n s) := by
  unfold pwrPartOos
  repeat' first
    | intro _
    | with_reducible assumption
    | with_reducible exact Upd.refl _
    | with_reducible apply Upd.ite <;> intro _
    | ((with_reducible apply Upd.go (hostOos_upd _ _)); rotate_left; exact rfl)

theorem execPwrPartOos_upd (n : Nat) (s : State) : UpdR hostOos_parts s (execPwrPartOos n s) := by
  unfold execPwrPartOos
  repeat' first
    | intro _
    | with_reducible assumption
    | with_reducible exact Upd.refl _
    | with_reducible apply UpdR.next
    | ((with_reducible apply Upd.go (pwrPartOos_upd _ _)); rotate_left; exact rfl)

theorem thermalShutdown_upd (supply : Bool) (s : State) : Upd busy s (thermalShutdown supply s) := by
  unfold thermalShutdown
  repeat' first
    | intro _
    | with_reducible assumption
    | with_reducible exact Upd.refl _
    | (extract_lets -underBinder +onlyGivenNames x; (with_reducible refine Upd.cut x ?_ ?_); rotate_left; (clear_value x; revert x; intro _ _); rotate_right; subst x)
    | (extract_lets -underBinder +onlyGivenNames x; clear_value x; revert x; intro _)
    | with_reducible apply Upd.ite <;> intro _
    | ((with_reducible apply Upd.go (count_upd _ _ _ _)); rotate_left; exact rfl)
    | ((with_reducible apply Upd.go (logErr_upd _ _ _ _ _)); rotate_left; exact rfl)
    | ((with_reducible apply Upd.go (enterP4_upd _)); rotate_left; exact rfl)

theorem execSupplyUndervoltage_upd (s : State) : UpdR [.outbox, .regIrq, .regPwr, .supplyLow] s (execSupplyUndervoltage s) := by
  unfold execSupplyUndervoltage
  repeat' first
    | intro _
    | with_reducible assumption
    | with_reducible exact Upd.refl _
    | (extract_lets -underBinder +onlyGivenNames x; (with_reducible refine UpdR.cut x ?_ ?_); rotate_left; (clear_value x; revert x; intro _ _); rotate_right; subst x)
    | (extract_lets -underBinder +onlyGivenNames x; (with_reducible refine Upd.cut x ?_ ?_); rotate_left; (clear_value x; revert x; intro _ _); rotate_right; subst x)
    | (extract_lets -underBinder +onlyGivenNames x; clear_value x; revert x; intro _)
    | with_reducible apply UpdR.next
    | ((with_reducible apply Upd.go (wr_upd _ _ _ _)); rotate_left; exact rfl)
    | ((with_reducible apply Upd.go (raise_upd _ _ _)); rotate_left; exact rfl)
    | ((with_reducible apply Upd.set_supplyLow); rotate_left; exact rfl)

theorem execSupplyRecovered_upd (mv : Nat) (s : State) : UpdR [.regPwr, .supplyLow] s (execSupplyRecovered mv s) := by
  unfold execSupplyRecovered
  repeat' first
    | intro _
    | with_reducible assumption
    | with_reducible exact Upd.refl _
    | (extract_lets -underBinder +onlyGivenNames x; (with_reducible refine UpdR.cut x ?_ ?_); rotate_left; (clear_value x; revert x; intro _ _); rotate_right; subst x)
    | (extract_lets -underBinder +onlyGivenNames x; (with_reducible refine Upd.cut x ?_ ?_); rotate_left; (clear_value x; revert x; intro _ _); rotate_right; subst x)
    | (extract_lets -underBinder +onlyGivenNames x; clear_value x; revert x; intro _)
    | with_reducible apply Upd.ite <;> intro _
    | with_reducible apply UpdR.ite <;> intro _
    | with_reducible apply UpdR.next
    | ((with_reducible apply Upd.go (wr_upd _ _ _ _)); rotate_left; exact rfl)
    | ((with_reducible apply Upd.set_supplyLow); rotate_left; exact rfl)

theorem execSupplyCollapse_upd (s : State) : UpdR busy s (execSupplyCollapse s) := by
  unfold execSupplyCollapse
  repeat' first
    | intro _
    | with_reducible assumption
    | with_reducible exact Upd.refl _
    | with_reducible apply UpdR.next
    | ((with_reducible apply Upd.go (thermalShutdown_upd _ _)); rotate_left; exact rfl)

theorem execOvervoltage_upd (s : State) : UpdR busy s (execOvervoltage s) := by
  unfold execOvervoltage
  repeat' first
    | intro _
    | with_reducible assumption
    | with_reducible exact Upd.refl _
    | with_reducible apply UpdR.next
    | ((with_reducible apply Upd.go (powerLoss_upd _)); rotate_left; exact rfl)

theorem execFastClamp_upd (s : State) : UpdR [.outbox, .regIrq, .regClk, .clamp, .divided] s (execFastClamp s) := by
  unfold execFastClamp
  repeat' first
    | intro _
    | with_reducible assumption
    | with_reducible exact Upd.refl _
    | (extract_lets -underBinder +onlyGivenNames x; (with_reducible refine UpdR.cut x ?_ ?_); rotate_left; (clear_value x; revert x; intro _ _); rotate_right; subst x)
    | (extract_lets -underBinder +onlyGivenNames x; (with_reducible refine Upd.cut x ?_ ?_); rotate_left; (clear_value x; revert x; intro _ _); rotate_right; subst x)
    | (extract_lets -underBinder +onlyGivenNames x; clear_value x; revert x; intro _)
    | with_reducible apply Upd.ite <;> intro _
    | with_reducible apply UpdR.ite <;> intro _
    | with_reducible apply UpdR.next
    | with_reducible apply Upd.forUpto
    | ((with_reducible apply Upd.go (wri_upd _ _ _ _ _)); rotate_left; exact rfl)
    | ((with_reducible apply Upd.go (raise_upd _ _ _)); rotate_left; exact rfl)
    | with_reducible apply SMap.wf_set
    | with_reducible apply SMap.wf_mapv
    | with_reducible apply SMap.wf_filter
    | with_reducible exact SMap.wf_nil
    | (first | with_reducible exact State.Ok.divided (by assumption))
    | ((with_reducible apply Upd.set_divided); rotate_left; exact rfl)
    | ((with_reducible apply Upd.set_clamp); rotate_left; exact rfl)

theorem execFastClampRelease_upd (s : State) : UpdR [.clamp] s (execFastClampRelease s) := by
  unfold execFastClampRelease
  repeat' first
    | intro _
    | with_reducible assumption
    | with_reducible exact Upd.refl _
    | (extract_lets -underBinder +onlyGivenNames x; (with_reducible refine UpdR.cut x ?_ ?_); rotate_left; (clear_value x; revert x; intro _ _); rotate_right; subst x)
    | (extract_lets -underBinder +onlyGivenNames x; (with_reducible refine Upd.cut x ?_ ?_); rotate_left; (clear_value x; revert x; intro _ _); rotate_right; subst x)
    | (extract_lets -underBinder +onlyGivenNames x; clear_value x; revert x; intro _)
    | with_reducible apply Upd.ite <;> intro _
    | with_reducible apply UpdR.ite <;> intro _
    | with_reducible apply UpdR.next
    | ((with_reducible apply Upd.set_clamp); rotate_left; exact rfl)

theorem execRailFault_upd (s : State) : UpdR busy s (execRailFault s) := by
  unfold execRailFault
  repeat' first
    | intro _
    | with_reducible assumption
    | with_reducible exact Upd.refl _
    | with_reducible apply UpdR.next
    | ((with_reducible apply Upd.go (deviceReset_upd _)); rotate_left; exact rfl)

theorem execHostStepWrite_upd (value : Nat) (s : State) : UpdR [.regPwr] s (execHostStepWrite value s) := by
  unfold execHostStepWrite
  repeat' first
    | intro _
    | with_reducible assumption
    | with_reducible exact Upd.refl _
    | with_reducible apply UpdR.next
    | ((with_reducible apply Upd.go (wr_upd _ _ _ _)); rotate_left; exact rfl)

theorem execStepMove_upd (s : State) : UpdR [.outbox, .regIrq, .regPwr, .clamp] s (execStepMove s) := by
  unfold execStepMove
  repeat' first
    | intro _
    | with_reducible assumption
    | with_reducible exact Upd.refl _
    | (extract_lets -underBinder +onlyGivenNames x; (with_reducible refine UpdR.cut x ?_ ?_); rotate_left; (clear_value x; revert x; intro _ _); rotate_right; subst x)
    | (extract_lets -underBinder +onlyGivenNames x; (with_reducible refine Upd.cut x ?_ ?_); rotate_left; (clear_value x; revert x; intro _ _); rotate_right; subst x)
    | (extract_lets -underBinder +onlyGivenNames x; clear_value x; revert x; intro _)
    | with_reducible apply Upd.ite <;> intro _
    | with_reducible apply UpdR.ite <;> intro _
    | with_reducible apply UpdR.next
    | ((with_reducible apply Upd.go (wr_upd _ _ _ _)); rotate_left; exact rfl)
    | ((with_reducible apply Upd.go (raise_upd _ _ _)); rotate_left; exact rfl)
    | split
    | ((with_reducible apply Upd.set_clamp); rotate_left; exact rfl)

theorem ladderDown_upd (s : State) : Upd [.regPwr, .coreSet] s (ladderDown s) := by
  unfold ladderDown
  repeat' first
    | intro _
    | with_reducible assumption
    | with_reducible exact Upd.refl _
    | (extract_lets -underBinder +onlyGivenNames x; (with_reducible refine Upd.cut x ?_ ?_); rotate_left; (clear_value x; revert x; intro _ _); rotate_right; subst x)
    | (extract_lets -underBinder +onlyGivenNames x; clear_value x; revert x; intro _)
    | with_reducible apply Upd.ite <;> intro _
    | ((with_reducible apply Upd.go (wr_upd _ _ _ _)); rotate_left; exact rfl)
    | ((with_reducible apply Upd.set_coreSet); rotate_left; exact rfl)

theorem ladderUp_upd (s : State) : Upd [.regPwr, .coreSet] s (ladderUp s) := by
  unfold ladderUp
  repeat' first
    | intro _
    | with_reducible assumption
    | with_reducible exact Upd.refl _
    | (extract_lets -underBinder +onlyGivenNames x; (with_reducible refine Upd.cut x ?_ ?_); rotate_left; (clear_value x; revert x; intro _ _); rotate_right; subst x)
    | (extract_lets -underBinder +onlyGivenNames x; clear_value x; revert x; intro _)
    | with_reducible apply Upd.ite <;> intro _
    | ((with_reducible apply Upd.go (wr_upd _ _ _ _)); rotate_left; exact rfl)
    | ((with_reducible apply Upd.set_coreSet); rotate_left; exact rfl)

theorem ladder_upd (watts : Nat) (s : State) : Upd [.regPwr, .coreSet, .lowMs] s (ladder watts s) := by
  unfold ladder
  repeat' first
    | intro _
    | with_reducible assumption
    | with_reducible exact Upd.refl _
    | (extract_lets -underBinder +onlyGivenNames x; (with_reducible refine Upd.cut x ?_ ?_); rotate_left; (clear_value x; revert x; intro _ _); rotate_right; subst x)
    | (extract_lets -underBinder +onlyGivenNames x; clear_value x; revert x; intro _)
    | with_reducible apply Upd.ite <;> intro _
    | ((with_reducible apply Upd.go (ladderDown_upd _)); rotate_left; exact rfl)
    | ((with_reducible apply Upd.go (ladderUp_upd _)); rotate_left; exact rfl)
    | ((with_reducible apply Upd.set_coreSet); rotate_left; exact rfl)
    | ((with_reducible apply Upd.set_lowMs); rotate_left; exact rfl)

theorem clocksFollow_upd (s : State) : Upd [.regClk] s (clocksFollow s) := by
  unfold clocksFollow
  repeat' first
    | intro _
    | with_reducible assumption
    | with_reducible exact Upd.refl _
    | with_reducible apply Upd.ite <;> intro _
    | with_reducible apply Upd.forUpto
    | ((with_reducible apply Upd.go (wri_upd _ _ _ _ _)); rotate_left; exact rfl)

theorem execPowerEnforce_upd (inputW : Nat) (mv : Nat) (ca : Nat) (subs : List Nat) (energy : Nat) (s : State) : UpdR [.regPwr, .regClk,
    .coreSet, .lowMs] s (execPowerEnforce inputW mv ca subs energy s) := by
  unfold execPowerEnforce
  repeat' first
    | intro _
    | with_reducible assumption
    | with_reducible exact Upd.refl _
    | ((with_reducible apply UpdS.snd); with_reducible assumption)
    | (extract_lets -underBinder +onlyGivenNames x; (with_reducible refine UpdR.cut x ?_ ?_); rotate_left; (clear_value x; revert x; intro _ _); rotate_right; subst x)
    | (extract_lets -underBinder +onlyGivenNames x; (with_reducible refine Upd.cut x ?_ ?_); rotate_left; (clear_value x; revert x; intro _ _); rotate_right; subst x)
    | (extract_lets -underBinder +onlyGivenNames x; clear_value x; revert x; intro _)
    | with_reducible apply Upd.ite <;> intro _
    | with_reducible apply UpdR.ite <;> intro _
    | with_reducible apply UpdR.next
    | with_reducible apply Upd.foldl
    | with_reducible apply UpdS.foldl
    | ((with_reducible apply UpdS.snd); with_reducible apply UpdS.foldl)
    | with_reducible apply Upd.getD
    | ((with_reducible apply Upd.go (wri_upd _ _ _ _ _)); rotate_left; exact rfl)
    | ((with_reducible apply Upd.go (wr_upd _ _ _ _)); rotate_left; exact rfl)
    | ((with_reducible apply Upd.go (count_upd _ _ _ _)); rotate_left; exact rfl)
    | ((with_reducible apply Upd.go (ladder_upd _ _)); rotate_left; exact rfl)
    | ((with_reducible apply Upd.go (clocksFollow_upd _)); rotate_left; exact rfl)
    | with_reducible apply UpdS.mk
    | dsimp only

theorem execLimitUnmet_upd (s : State) : UpdR [.outbox, .regIrq] s (execLimitUnmet s) := by
  unfold execLimitUnmet
  repeat' first
    | intro _
    | with_reducible assumption
    | with_reducible exact Upd.refl _
    | with_reducible apply Upd.ite <;> intro _
    | with_reducible apply UpdR.ite <;> intro _
    | with_reducible apply UpdR.next
    | ((with_reducible apply Upd.go (raise_upd _ _ _)); rotate_left; exact rfl)

theorem execPllRelockDone_upd (n : Nat) (s : State) : UpdR [.regClk, .divided] s (execPllRelockDone n s) := by
  unfold execPllRelockDone
  repeat' first
    | intro _
    | with_reducible assumption
    | with_reducible exact Upd.refl _
    | (extract_lets -underBinder +onlyGivenNames x; (with_reducible refine UpdR.cut x ?_ ?_); rotate_left; (clear_value x; revert x; intro _ _); rotate_right; subst x)
    | (extract_lets -underBinder +onlyGivenNames x; (with_reducible refine Upd.cut x ?_ ?_); rotate_left; (clear_value x; revert x; intro _ _); rotate_right; subst x)
    | (extract_lets -underBinder +onlyGivenNames x; clear_value x; revert x; intro _)
    | with_reducible apply Upd.ite <;> intro _
    | with_reducible apply UpdR.ite <;> intro _
    | with_reducible apply UpdR.next
    | ((with_reducible apply Upd.go (wri_upd _ _ _ _ _)); rotate_left; exact rfl)
    | with_reducible apply SMap.wf_set
    | with_reducible apply SMap.wf_mapv
    | with_reducible apply SMap.wf_filter
    | with_reducible exact SMap.wf_nil
    | (first | with_reducible exact State.Ok.divided (by assumption))
    | ((with_reducible apply Upd.set_divided); rotate_left; exact rfl)

theorem sensBroken_upd (i : Nat) (s : State) : Upd [.outbox, .freeCtr, .regIrq, .regErr, .regLdg, .regMcs, .regFlt, .ldgSeq, .ldgLost,
    .dram, .dramChk, .chans, .units, .snoop, .biWait, .servedBytes, .sens] s (sensBroken i s) := by
  unfold sensBroken
  repeat' first
    | intro _
    | with_reducible assumption
    | with_reducible exact Upd.refl _
    | (extract_lets -underBinder +onlyGivenNames x; (with_reducible refine Upd.cut x ?_ ?_); rotate_left; (clear_value x; revert x; intro _ _); rotate_right; subst x)
    | (extract_lets -underBinder +onlyGivenNames x; clear_value x; revert x; intro _)
    | ((with_reducible apply Upd.go (freshNext_upd _)); rotate_left; exact rfl)
    | ((with_reducible apply Upd.go (raise_upd _ _ _)); rotate_left; exact rfl)
    | ((with_reducible apply Upd.go (logErr_upd _ _ _ _ _)); rotate_left; exact rfl)
    | ((with_reducible apply Upd.go (ledger_upd _ _ _ _)); rotate_left; exact rfl)
    | ((with_reducible apply Upd.go (putSens_upd _ _ _)); rotate_left; exact rfl)

theorem sensTake_upd (i : Nat) (raw : Int) (s : State) : Upd [.outbox, .freeCtr, .regIrq, .regErr, .regLdg, .regMcs, .regFlt, .ldgSeq,
    .ldgLost, .dram, .dramChk, .chans, .units, .snoop, .biWait, .servedBytes, .sens] s (sensTake i raw s) := by
  unfold sensTake
  repeat' first
    | intro _
    | with_reducible assumption
    | with_reducible exact Upd.refl _
    | (extract_lets -underBinder +onlyGivenNames x; (with_reducible refine Upd.cut x ?_ ?_); rotate_left; (clear_value x; revert x; intro _ _); rotate_right; subst x)
    | (extract_lets -underBinder +onlyGivenNames x; clear_value x; revert x; intro _)
    | with_reducible apply Upd.ite <;> intro _
    | ((with_reducible apply Upd.go (putSens_upd _ _ _)); rotate_left; exact rfl)
    | ((with_reducible apply Upd.go (sensBroken_upd _ _)); rotate_left; exact rfl)
    | split

theorem sensCompare_upd (i : Nat) (s : State) : Upd [.outbox, .freeCtr, .regIrq, .regErr, .regLdg, .regMcs, .regFlt, .ldgSeq, .ldgLost,
    .dram, .dramChk, .chans, .units, .snoop, .biWait, .servedBytes, .sens] s (sensCompare i s) := by
  unfold sensCompare
  repeat' first
    | intro _
    | with_reducible assumption
    | with_reducible exact Upd.refl _
    | (extract_lets -underBinder +onlyGivenNames x; (with_reducible refine Upd.cut x ?_ ?_); rotate_left; (clear_value x; revert x; intro _ _); rotate_right; subst x)
    | (extract_lets -underBinder +onlyGivenNames x; clear_value x; revert x; intro _)
    | with_reducible apply Upd.ite <;> intro _
    | ((with_reducible apply Upd.go (putSens_upd _ _ _)); rotate_left; exact rfl)
    | ((with_reducible apply Upd.go (sensBroken_upd _ _)); rotate_left; exact rfl)
    | split

theorem partJudge_upd (p : Nat) (s : State) : Upd [.outbox, .regIrq, .regErr, .regFlt, .partCond] s (partJudge p s) := by
  unfold partJudge
  repeat' first
    | intro _
    | with_reducible assumption
    | with_reducible exact Upd.refl _
    | (extract_lets -underBinder +onlyGivenNames x; (with_reducible refine Upd.cut x ?_ ?_); rotate_left; (clear_value x; revert x; intro _ _); rotate_right; subst x)
    | (extract_lets -underBinder +onlyGivenNames x; clear_value x; revert x; intro _)
    | with_reducible apply Upd.ite <;> intro _
    | ((with_reducible apply Upd.go (raise_upd _ _ _)); rotate_left; exact rfl)
    | ((with_reducible apply Upd.go (logErr_upd _ _ _ _ _)); rotate_left; exact rfl)
    | with_reducible apply SMap.wf_set
    | with_reducible apply SMap.wf_mapv
    | with_reducible apply SMap.wf_filter
    | with_reducible exact SMap.wf_nil
    | (first | with_reducible exact State.Ok.partCond (by assumption))
    | ((with_reducible apply Upd.set_partCond); rotate_left; exact rfl)

theorem partLimit_upd (n : Nat) (s : State) : Upd [.regThm, .regClk, .partHold] s (partLimit n s) := by
  unfold partLimit
  repeat' first
    | intro _
    | with_reducible assumption
    | with_reducible exact Upd.refl _
    | (extract_lets -underBinder +onlyGivenNames x; (with_reducible refine Upd.cut x ?_ ?_); rotate_left; (clear_value x; revert x; intro _ _); rotate_right; subst x)
    | (extract_lets -underBinder +onlyGivenNames x; clear_value x; revert x; intro _)
    | with_reducible apply Upd.ite <;> intro _
    | ((with_reducible apply Upd.go (wri_upd _ _ _ _ _)); rotate_left; exact rfl)
    | ((with_reducible apply Upd.go (count_upd _ _ _ _)); rotate_left; exact rfl)
    | ((with_reducible apply Upd.go (resumeClock_upd _ _)); rotate_left; exact rfl)
    | ((with_reducible apply Upd.set_partHold); rotate_left; exact rfl)

theorem stackLimit_upd (d : Nat) (s : State) : Upd [.outbox, .freeCtr, .regIrq, .regErr, .regLdg, .regBku, .regMcs, .regFlt, .regThm,
    .ldgSeq, .ldgLost, .dram, .dramChk, .chans, .units, .flights, .snoop, .biWait, .ceWins, .servedBytes, .stackHold] s (stackLimit d s)
    := by
  unfold stackLimit
  repeat' first
    | intro _
    | with_reducible assumption
    | with_reducible exact Upd.refl _
    | (extract_lets -underBinder +onlyGivenNames x; (with_reducible refine Upd.cut x ?_ ?_); rotate_left; (clear_value x; revert x; intro _ _); rotate_right; subst x)
    | (extract_lets -underBinder +onlyGivenNames x; clear_value x; revert x; intro _)
    | with_reducible apply Upd.ite <;> intro _
    | with_reducible apply Upd.getD
    | with_reducible apply Upd.forUpto
    | ((with_reducible apply Upd.go (count_upd _ _ _ _)); rotate_left; exact rfl)
    | ((with_reducible apply Upd.go (serveChan_upd _ _)); rotate_left; exact rfl)
    | split
    | ((with_reducible apply Upd.set_stackHold); rotate_left; exact rfl)

theorem stackRates_upd (d : Nat) (s : State) : Upd [.outbox, .regIrq, .regMcs, .chans] s (stackRates d s) := by
  unfold stackRates
  repeat' first
    | intro _
    | with_reducible assumption
    | with_reducible exact Upd.refl _
    | (extract_lets -underBinder +onlyGivenNames x; (with_reducible refine Upd.cut x ?_ ?_); rotate_left; (clear_value x; revert x; intro _ _); rotate_right; subst x)
    | (extract_lets -underBinder +onlyGivenNames x; clear_value x; revert x; intro _)
    | with_reducible apply Upd.ite <;> intro _
    | with_reducible apply Upd.getD
    | with_reducible apply Upd.forUpto
    | ((with_reducible apply Upd.go (wr_upd _ _ _ _)); rotate_left; exact rfl)
    | ((with_reducible apply Upd.go (qosEdge_upd _ _ _)); rotate_left; exact rfl)
    | ((with_reducible apply Upd.go (recalDue_upd _ _ _)); rotate_left; exact rfl)
    | split

theorem pllCheck_upd (n : Nat) (s : State) : Upd [.regClk, .pllTemp] s (pllCheck n s) := by
  unfold pllCheck
  repeat' first
    | intro _
    | with_reducible assumption
    | with_reducible exact Upd.refl _
    | (extract_lets -underBinder +onlyGivenNames x; (with_reducible refine Upd.cut x ?_ ?_); rotate_left; (clear_value x; revert x; intro _ _); rotate_right; subst x)
    | (extract_lets -underBinder +onlyGivenNames x; (with_reducible refine isFn x ?_); subst x)
    | (extract_lets -underBinder +onlyGivenNames x; clear_value x; revert x; intro _)
    | with_reducible apply Upd.ite <;> intro _
    | ((with_reducible apply Upd.go (count_upd _ _ _ _)); rotate_left; exact rfl)
    | with_reducible apply SMap.wf_set
    | with_reducible apply SMap.wf_mapv
    | with_reducible apply SMap.wf_filter
    | with_reducible exact SMap.wf_nil
    | (first | with_reducible exact State.Ok.pllTemp (by assumption))
    | split
    | ((with_reducible apply Upd.set_pllTemp); rotate_left; exact rfl)

theorem bayTemp_upd (b : Nat) (s : State) : Upd setCart_parts s (bayTemp b s) := by
  unfold bayTemp
  repeat' first
    | intro _
    | with_reducible assumption
    | with_reducible exact Upd.refl _
    | (extract_lets -underBinder +onlyGivenNames x; (with_reducible refine Upd.cut x ?_ ?_); rotate_left; (clear_value x; revert x; intro _ _); rotate_right; subst x)
    | (extract_lets -underBinder +onlyGivenNames x; clear_value x; revert x; intro _)
    | with_reducible apply Upd.ite <;> intro _
    | ((with_reducible apply Upd.go (wr_upd _ _ _ _)); rotate_left; exact rfl)
    | ((with_reducible apply Upd.go (cartFault_upd _ _ _)); rotate_left; exact rfl)

theorem execSensorSample_upd (raws : List Int) (s : State) : UpdR busy s (execSensorSample raws s) := by
  unfold execSensorSample
  repeat' first
    | intro _
    | with_reducible assumption
    | with_reducible exact Upd.refl _
    | ((with_reducible apply UpdS.snd); with_reducible assumption)
    | (extract_lets -underBinder +onlyGivenNames x; (with_reducible refine UpdR.cut x ?_ ?_); rotate_left; (clear_value x; revert x; intro _ _); rotate_right; subst x)
    | (extract_lets -underBinder +onlyGivenNames x; (with_reducible refine Upd.cut x ?_ ?_); rotate_left; (clear_value x; revert x; intro _ _); rotate_right; subst x)
    | (extract_lets -underBinder +onlyGivenNames x; clear_value x; revert x; intro _)
    | with_reducible apply Upd.ite <;> intro _
    | with_reducible apply UpdR.ite <;> intro _
    | with_reducible apply UpdR.next
    | with_reducible apply Upd.foldl
    | with_reducible apply UpdS.foldl
    | ((with_reducible apply UpdS.snd); with_reducible apply UpdS.foldl)
    | with_reducible apply Upd.getD
    | with_reducible apply Upd.forUpto
    | ((with_reducible apply Upd.go (measure_upd _ _ _ _)); rotate_left; exact rfl)
    | ((with_reducible apply Upd.go (thermalShutdown_upd _ _)); rotate_left; exact rfl)
    | ((with_reducible apply Upd.go (sensTake_upd _ _ _)); rotate_left; exact rfl)
    | ((with_reducible apply Upd.go (sensCompare_upd _ _)); rotate_left; exact rfl)
    | ((with_reducible apply Upd.go (partJudge_upd _ _)); rotate_left; exact rfl)
    | ((with_reducible apply Upd.go (partLimit_upd _ _)); rotate_left; exact rfl)
    | ((with_reducible apply Upd.go (stackLimit_upd _ _)); rotate_left; exact rfl)
    | ((with_reducible apply Upd.go (stackRates_upd _ _)); rotate_left; exact rfl)
    | ((with_reducible apply Upd.go (pllCheck_upd _ _)); rotate_left; exact rfl)
    | ((with_reducible apply Upd.go (bayTemp_upd _ _)); rotate_left; exact rfl)
    | with_reducible apply UpdS.mk
    | dsimp only

theorem execHoldTimeout_upd (s : State) : UpdR busy s (execHoldTimeout s) := by
  unfold execHoldTimeout
  repeat' first
    | intro _
    | with_reducible assumption
    | with_reducible exact Upd.refl _
    | with_reducible apply Upd.ite <;> intro _
    | with_reducible apply UpdR.ite <;> intro _
    | with_reducible apply UpdR.next
    | ((with_reducible apply Upd.go (thermalShutdown_upd _ _)); rotate_left; exact rfl)

theorem execThermStepRaise_upd (s : State) : UpdR [.regPwr] s (execThermStepRaise s) := by
  unfold execThermStepRaise
  repeat' first
    | intro _
    | with_reducible assumption
    | with_reducible exact Upd.refl _
    | (extract_lets -underBinder +onlyGivenNames x; (with_reducible refine UpdR.cut x ?_ ?_); rotate_left; (clear_value x; revert x; intro _ _); rotate_right; subst x)
    | (extract_lets -underBinder +onlyGivenNames x; (with_reducible refine Upd.cut x ?_ ?_); rotate_left; (clear_value x; revert x; intro _ _); rotate_right; subst x)
    | (extract_lets -underBinder +onlyGivenNames x; clear_value x; revert x; intro _)
    | with_reducible apply Upd.ite <;> intro _
    | with_reducible apply UpdR.ite <;> intro _
    | with_reducible apply UpdR.next
    | ((with_reducible apply Upd.go (wr_upd _ _ _ _)); rotate_left; exact rfl)

theorem execThermStepLower_upd (s : State) : UpdR [.regPwr] s (execThermStepLower s) := by
  unfold execThermStepLower
  repeat' first
    | intro _
    | with_reducible assumption
    | with_reducible exact Upd.refl _
    | (extract_lets -underBinder +onlyGivenNames x; (with_reducible refine UpdR.cut x ?_ ?_); rotate_left; (clear_value x; revert x; intro _ _); rotate_right; subst x)
    | (extract_lets -underBinder +onlyGivenNames x; (with_reducible refine Upd.cut x ?_ ?_); rotate_left; (clear_value x; revert x; intro _ _); rotate_right; subst x)
    | (extract_lets -underBinder +onlyGivenNames x; clear_value x; revert x; intro _)
    | with_reducible apply Upd.ite <;> intro _
    | with_reducible apply UpdR.ite <;> intro _
    | with_reducible apply UpdR.next
    | ((with_reducible apply Upd.go (wr_upd _ _ _ _)); rotate_left; exact rfl)

theorem sensClear_upd (s : State) : Upd [.sens] s (sensClear s) := by
  unfold sensClear
  repeat' first
    | intro _
    | with_reducible assumption
    | with_reducible exact Upd.refl _
    | (extract_lets -underBinder +onlyGivenNames x; (with_reducible refine Upd.cut x ?_ ?_); rotate_left; (clear_value x; revert x; intro _ _); rotate_right; subst x)
    | (extract_lets -underBinder +onlyGivenNames x; clear_value x; revert x; intro _)
    | with_reducible apply Upd.ite <;> intro _
    | ((with_reducible apply Upd.go (putSens_upd _ _ _)); rotate_left; exact rfl)

theorem execSensClear_upd (s : State) : UpdR [.sens] s (execSensClear s) := by
  unfold execSensClear
  repeat' first
    | intro _
    | with_reducible assumption
    | with_reducible exact Upd.refl _
    | with_reducible apply UpdR.next
    | ((with_reducible apply Upd.go (sensClear_upd _)); rotate_left; exact rfl)

theorem execRefLoss_upd (which : Nat) (s : State) : UpdR busy s (execRefLoss which s) := by
  unfold execRefLoss
  repeat' first
    | intro _
    | with_reducible assumption
    | with_reducible exact Upd.refl _
    | (extract_lets -underBinder +onlyGivenNames x; (with_reducible refine UpdR.cut x ?_ ?_); rotate_left; (clear_value x; revert x; intro _ _); rotate_right; subst x)
    | (extract_lets -underBinder +onlyGivenNames x; (with_reducible refine Upd.cut x ?_ ?_); rotate_left; (clear_value x; revert x; intro _ _); rotate_right; subst x)
    | (extract_lets -underBinder +onlyGivenNames x; clear_value x; revert x; intro _)
    | with_reducible apply Upd.ite <;> intro _
    | with_reducible apply UpdR.ite <;> intro _
    | with_reducible apply UpdR.next
    | ((with_reducible apply Upd.go (wr_upd _ _ _ _)); rotate_left; exact rfl)
    | ((with_reducible apply Upd.go (raise_upd _ _ _)); rotate_left; exact rfl)
    | ((with_reducible apply UpdR.go (execLinkDown_upd _ _)); rotate_left; exact rfl)
    | ((with_reducible apply Upd.go (deviceReset_upd _)); rotate_left; exact rfl)

theorem execRefRestored_upd (which : Nat) (s : State) : UpdR [.outbox, .regIrq, .regHif, .regClk] s (execRefRestored which s) := by
  unfold execRefRestored
  repeat' first
    | intro _
    | with_reducible assumption
    | with_reducible exact Upd.refl _
    | (extract_lets -underBinder +onlyGivenNames x; (with_reducible refine UpdR.cut x ?_ ?_); rotate_left; (clear_value x; revert x; intro _ _); rotate_right; subst x)
    | (extract_lets -underBinder +onlyGivenNames x; (with_reducible refine Upd.cut x ?_ ?_); rotate_left; (clear_value x; revert x; intro _ _); rotate_right; subst x)
    | (extract_lets -underBinder +onlyGivenNames x; clear_value x; revert x; intro _)
    | with_reducible apply Upd.ite <;> intro _
    | with_reducible apply UpdR.ite <;> intro _
    | with_reducible apply UpdR.next
    | ((with_reducible apply Upd.go (wr_upd _ _ _ _)); rotate_left; exact rfl)
    | ((with_reducible apply Upd.go (putLink_upd _ _ _ _)); rotate_left; exact rfl)

end Sys2Proof.Machine
end

