-- ==== Sys2Proof/Laws/UpdSecurity.lean ====
section
/-!
SUPPORT. What each operation of Machine/Security can change, and that it keeps the canonical form.
-/

namespace Sys2Proof.Machine

set_option maxRecDepth 4000
set_option linter.all false

theorem spdmAnswer_upd (payload : List Byte) (s : State) : Upd [.outbox] s (spdmAnswer payload s) := by
  unfold spdmAnswer
  repeat' first
    | intro _
    | with_reducible assumption
    | with_reducible exact Upd.refl _
    | ((with_reducible apply Upd.go (emit_upd _ _)); rotate_left; exact rfl)

theorem spdmError_upd (s : State) : Upd [.outbox] s (spdmError s) := by
  unfold spdmError
  repeat' first
    | intro _
    | with_reducible assumption
    | with_reducible exact Upd.refl _
    | ((with_reducible apply Upd.go (emit_upd _ _)); rotate_left; exact rfl)

theorem putSpdm_upd (k : Nat) (x : Option SpdmSess) (s : State) : Upd [.spdm] s (putSpdm k x s) := by
  unfold putSpdm
  repeat' first
    | intro _
    | with_reducible assumption
    | with_reducible exact Upd.refl _
    | (extract_lets -underBinder +onlyGivenNames x; (with_reducible refine Upd.cut x ?_ ?_); rotate_left; (clear_value x; revert x; intro _ _); rotate_right; subst x)
    | (extract_lets -underBinder +onlyGivenNames x; clear_value x; revert x; intro _)
    | with_reducible apply SMap.wf_set
    | with_reducible apply SMap.wf_mapv
    | with_reducible apply SMap.wf_filter
    | with_reducible exact SMap.wf_nil
    | (first | with_reducible exact State.Ok.spdm (by assumption))
    | ((with_reducible apply Upd.set_spdm); rotate_left; exact rfl)

theorem putFails_upd (r : Nat) (n : Nat) (s : State) : Upd [.pskFails] s (putFails r n s) := by
  unfold putFails
  repeat' first
    | intro _
    | with_reducible assumption
    | with_reducible exact Upd.refl _
    | (extract_lets -underBinder +onlyGivenNames x; (with_reducible refine Upd.cut x ?_ ?_); rotate_left; (clear_value x; revert x; intro _ _); rotate_right; subst x)
    | (extract_lets -underBinder +onlyGivenNames x; clear_value x; revert x; intro _)
    | with_reducible apply SMap.wf_set
    | with_reducible apply SMap.wf_mapv
    | with_reducible apply SMap.wf_filter
    | with_reducible exact SMap.wf_nil
    | (first | with_reducible exact State.Ok.pskFails (by assumption))
    | ((with_reducible apply Upd.set_pskFails); rotate_left; exact rfl)

theorem measChange_upd (s : State) : Upd [.regSec] s (measChange s) := by
  unfold measChange
  repeat' first
    | intro _
    | with_reducible assumption
    | with_reducible exact Upd.refl _
    | ((with_reducible apply Upd.go (wr_upd _ _ _ _)); rotate_left; exact rfl)

theorem execGetVersion_upd (s : State) : UpdR [.outbox] s (execGetVersion s) := by
  unfold execGetVersion
  repeat' first
    | intro _
    | with_reducible assumption
    | with_reducible exact Upd.refl _
    | with_reducible apply Upd.ite <;> intro _
    | with_reducible apply UpdR.ite <;> intro _
    | with_reducible apply UpdR.next
    | ((with_reducible apply Upd.go (spdmAnswer_upd _ _)); rotate_left; exact rfl)

theorem execGetCapabilities_upd (s : State) : UpdR [.outbox] s (execGetCapabilities s) := by
  unfold execGetCapabilities
  repeat' first
    | intro _
    | with_reducible assumption
    | with_reducible exact Upd.refl _
    | with_reducible apply Upd.ite <;> intro _
    | with_reducible apply UpdR.ite <;> intro _
    | with_reducible apply UpdR.next
    | ((with_reducible apply Upd.go (spdmAnswer_upd _ _)); rotate_left; exact rfl)

theorem execNegotiateAlgorithms_upd (s : State) : UpdR [.outbox] s (execNegotiateAlgorithms s) := by
  unfold execNegotiateAlgorithms
  repeat' first
    | intro _
    | with_reducible assumption
    | with_reducible exact Upd.refl _
    | with_reducible apply Upd.ite <;> intro _
    | with_reducible apply UpdR.ite <;> intro _
    | with_reducible apply UpdR.next
    | ((with_reducible apply Upd.go (spdmAnswer_upd _ _)); rotate_left; exact rfl)

theorem execSpdmUnsupported_upd (s : State) : UpdR [.outbox] s (execSpdmUnsupported s) := by
  unfold execSpdmUnsupported
  repeat' first
    | intro _
    | with_reducible assumption
    | with_reducible exact Upd.refl _
    | with_reducible apply Upd.ite <;> intro _
    | with_reducible apply UpdR.ite <;> intro _
    | with_reducible apply UpdR.next
    | ((with_reducible apply Upd.go (emit_upd _ _)); rotate_left; exact rfl)

theorem execPskExchange_upd (hint : Nat) (s : State) : UpdR [.outbox, .spdm] s (execPskExchange hint s) := by
  unfold execPskExchange
  repeat' first
    | intro _
    | with_reducible assumption
    | with_reducible exact Upd.refl _
    | (extract_lets -underBinder +onlyGivenNames x; (with_reducible refine UpdR.cut x ?_ ?_); rotate_left; (clear_value x; revert x; intro _ _); rotate_right; subst x)
    | (extract_lets -underBinder +onlyGivenNames x; (with_reducible refine Upd.cut x ?_ ?_); rotate_left; (clear_value x; revert x; intro _ _); rotate_right; subst x)
    | (extract_lets -underBinder +onlyGivenNames x; clear_value x; revert x; intro _)
    | with_reducible apply Upd.ite <;> intro _
    | with_reducible apply UpdR.ite <;> intro _
    | with_reducible apply UpdR.next
    | ((with_reducible apply Upd.go (spdmAnswer_upd _ _)); rotate_left; exact rfl)
    | ((with_reducible apply Upd.go (spdmError_upd _)); rotate_left; exact rfl)
    | ((with_reducible apply Upd.go (putSpdm_upd _ _ _)); rotate_left; exact rfl)
    | split

theorem pskFailed_upd (r : Nat) (s : State) : Upd [.outbox, .regIrq, .regErr, .regFlt, .pskFails, .pskLocked] s (pskFailed r s) := by
  unfold pskFailed
  repeat' first
    | intro _
    | with_reducible assumption
    | with_reducible exact Upd.refl _
    | (extract_lets -underBinder +onlyGivenNames x; (with_reducible refine Upd.cut x ?_ ?_); rotate_left; (clear_value x; revert x; intro _ _); rotate_right; subst x)
    | (extract_lets -underBinder +onlyGivenNames x; clear_value x; revert x; intro _)
    | with_reducible apply Upd.ite <;> intro _
    | ((with_reducible apply Upd.go (logErr_upd _ _ _ _ _)); rotate_left; exact rfl)
    | ((with_reducible apply Upd.go (putFails_upd _ _ _)); rotate_left; exact rfl)
    | ((with_reducible apply Upd.set_pskLocked); rotate_left; exact rfl)

theorem execPskFinish_upd (sess : Nat) (ok : Bool) (s : State) : UpdR [.outbox, .regIrq, .regErr, .regFlt, .spdm, .pskFails, .pskLocked] s
    (execPskFinish sess ok s) := by
  unfold execPskFinish
  repeat' first
    | intro _
    | with_reducible assumption
    | with_reducible exact Upd.refl _
    | (extract_lets -underBinder +onlyGivenNames x; (with_reducible refine UpdR.cut x ?_ ?_); rotate_left; (clear_value x; revert x; intro _ _); rotate_right; subst x)
    | (extract_lets -underBinder +onlyGivenNames x; (with_reducible refine Upd.cut x ?_ ?_); rotate_left; (clear_value x; revert x; intro _ _); rotate_right; subst x)
    | (extract_lets -underBinder +onlyGivenNames x; clear_value x; revert x; intro _)
    | with_reducible apply Upd.ite <;> intro _
    | with_reducible apply UpdR.ite <;> intro _
    | with_reducible apply UpdR.next
    | ((with_reducible apply Upd.go (spdmAnswer_upd _ _)); rotate_left; exact rfl)
    | ((with_reducible apply Upd.go (spdmError_upd _)); rotate_left; exact rfl)
    | ((with_reducible apply Upd.go (putSpdm_upd _ _ _)); rotate_left; exact rfl)
    | ((with_reducible apply Upd.go (putFails_upd _ _ _)); rotate_left; exact rfl)
    | ((with_reducible apply Upd.go (pskFailed_upd _ _)); rotate_left; exact rfl)
    | split

theorem spdmInside_upd (sess : Nat) (s : State) : Upd [.outbox] s (spdmInside sess s) := by
  unfold spdmInside
  repeat' first
    | intro _
    | with_reducible assumption
    | with_reducible exact Upd.refl _
    | with_reducible apply Upd.ite <;> intro _
    | ((with_reducible apply Upd.go (spdmAnswer_upd _ _)); rotate_left; exact rfl)
    | ((with_reducible apply Upd.go (spdmError_upd _)); rotate_left; exact rfl)

theorem execKeyUpdate_upd (sess : Nat) (s : State) : UpdR [.outbox] s (execKeyUpdate sess s) := by
  unfold execKeyUpdate
  repeat' first
    | intro _
    | with_reducible assumption
    | with_reducible exact Upd.refl _
    | with_reducible apply UpdR.next
    | ((with_reducible apply Upd.go (spdmInside_upd _ _)); rotate_left; exact rfl)

theorem execHeartbeat_upd (sess : Nat) (s : State) : UpdR [.outbox] s (execHeartbeat sess s) := by
  unfold execHeartbeat
  repeat' first
    | intro _
    | with_reducible assumption
    | with_reducible exact Upd.refl _
    | with_reducible apply UpdR.next
    | ((with_reducible apply Upd.go (spdmInside_upd _ _)); rotate_left; exact rfl)

theorem execHeartbeatLapse_upd (sess : Nat) (s : State) : UpdR [.spdm] s (execHeartbeatLapse sess s) := by
  unfold execHeartbeatLapse
  repeat' first
    | intro _
    | with_reducible assumption
    | with_reducible exact Upd.refl _
    | with_reducible apply Upd.ite <;> intro _
    | with_reducible apply UpdR.ite <;> intro _
    | with_reducible apply UpdR.next
    | ((with_reducible apply Upd.go (putSpdm_upd _ _ _)); rotate_left; exact rfl)

theorem execPskLockoutEnd_upd (role : Nat) (s : State) : UpdR [.pskLocked] s (execPskLockoutEnd role s) := by
  unfold execPskLockoutEnd
  repeat' first
    | intro _
    | with_reducible assumption
    | with_reducible exact Upd.refl _
    | (extract_lets -underBinder +onlyGivenNames x; (with_reducible refine UpdR.cut x ?_ ?_); rotate_left; (clear_value x; revert x; intro _ _); rotate_right; subst x)
    | (extract_lets -underBinder +onlyGivenNames x; (with_reducible refine Upd.cut x ?_ ?_); rotate_left; (clear_value x; revert x; intro _ _); rotate_right; subst x)
    | (extract_lets -underBinder +onlyGivenNames x; clear_value x; revert x; intro _)
    | with_reducible apply UpdR.next
    | ((with_reducible apply Upd.set_pskLocked); rotate_left; exact rfl)

theorem execEndSession_upd (sess : Nat) (s : State) : UpdR [.outbox, .spdm] s (execEndSession sess s) := by
  unfold execEndSession
  repeat' first
    | intro _
    | with_reducible assumption
    | with_reducible exact Upd.refl _
    | with_reducible apply Upd.ite <;> intro _
    | with_reducible apply UpdR.ite <;> intro _
    | with_reducible apply UpdR.next
    | ((with_reducible apply Upd.go (putSpdm_upd _ _ _)); rotate_left; exact rfl)
    | ((with_reducible apply Upd.go (spdmInside_upd _ _)); rotate_left; exact rfl)

theorem execGetMeasurements_upd (sess : Nat) (index : Nat) (s : State) : UpdR [.outbox, .freeCtr] s (execGetMeasurements sess index s) :=
    by
  unfold execGetMeasurements
  repeat' first
    | intro _
    | with_reducible assumption
    | with_reducible exact Upd.refl _
    | with_reducible apply Upd.ite <;> intro _
    | with_reducible apply UpdR.ite <;> intro _
    | with_reducible apply UpdR.next
    | ((with_reducible apply Upd.go (freshNext_upd _)); rotate_left; exact rfl)
    | ((with_reducible apply Upd.go (spdmAnswer_upd _ _)); rotate_left; exact rfl)
    | ((with_reducible apply Upd.go (spdmError_upd _)); rotate_left; exact rfl)

theorem vendorAnswer_upd (r : Nat) (s : State) : Upd [.outbox] s (vendorAnswer r s) := by
  unfold vendorAnswer
  repeat' first
    | intro _
    | with_reducible assumption
    | with_reducible exact Upd.refl _
    | ((with_reducible apply Upd.go (spdmAnswer_upd _ _)); rotate_left; exact rfl)

theorem vendor_upd {m : List Part} {a s : State} {sess : Nat} {roles states : List Nat} {argOk : Bool} {act : State → State}
    (h : Upd m a s) (hm : within [.outbox] m = true) (hf : ∀ t, Upd m a t → Upd m a (act t)) :
    Upd m a (vendor sess roles states argOk act s) := by
  unfold vendor
  refine Upd.ite (fun _ => h) fun _ => ?_
  split
  · exact Upd.go (spdmError_upd _) h (within_trans rfl hm)
  · refine Upd.ite (fun _ => Upd.go (vendorAnswer_upd _ _) h (within_trans rfl hm)) fun _ => ?_
    refine Upd.ite (fun _ => Upd.go (vendorAnswer_upd _ _) h (within_trans rfl hm)) fun _ => ?_
    exact Upd.ite (fun _ => Upd.go (vendorAnswer_upd _ _) h (within_trans rfl hm)) fun _ => hf _ h

theorem keyChange_upd (changed : Bool) (counts : Bool) (s : State) : Upd [.outbox, .regIrq, .regSec] s (keyChange changed counts s) := by
  unfold keyChange
  repeat' first
    | intro _
    | with_reducible assumption
    | with_reducible exact Upd.refl _
    | (extract_lets -underBinder +onlyGivenNames x; (with_reducible refine Upd.cut x ?_ ?_); rotate_left; (clear_value x; revert x; intro _ _); rotate_right; subst x)
    | (extract_lets -underBinder +onlyGivenNames x; clear_value x; revert x; intro _)
    | with_reducible apply Upd.ite <;> intro _
    | ((with_reducible apply Upd.go (raise_upd _ _ _)); rotate_left; exact rfl)
    | ((with_reducible apply Upd.go (measChange_upd _)); rotate_left; exact rfl)
    | split

theorem Upd.set_keys_setCount {m : List Part} {a b : State} {vkeys vsetCount} (h : Upd m a b)
    (hm : within [.keys, .setCount] m = true)
    (hkeys : b.Ok → SMap.wf (fun _ => none) vkeys) :
    Upd m a { b with keys := vkeys, setCount := vsetCount } :=
  h.put (fun p hp => by
    have : [.keys, .setCount].contains p = false := by
      cases hc : [.keys, .setCount].contains p with
      | false => rfl
      | true => exact absurd ((within_mem hm (List.contains_iff_mem.1 hc)).symm.trans hp) (by decide)
    cases p <;> first | rfl | exact fun _ _ _ _ => rfl | exact absurd this (by decide)) rfl rfl fun k => { k with keys := hkeys k }

theorem execKeySet_upd (sess : Nat) (slot : Nat) (key : List Byte) (s : State) : UpdR [.outbox, .regIrq, .regSec, .keys, .setCount] s
    (execKeySet sess slot key s) := by
  unfold execKeySet
  repeat' first
    | intro _
    | with_reducible assumption
    | with_reducible exact Upd.refl _
    | (extract_lets -underBinder +onlyGivenNames x; (with_reducible refine UpdR.cut x ?_ ?_); rotate_left; (clear_value x; revert x; intro _ _); rotate_right; subst x)
    | (extract_lets -underBinder +onlyGivenNames x; (with_reducible refine Upd.cut x ?_ ?_); rotate_left; (clear_value x; revert x; intro _ _); rotate_right; subst x)
    | (extract_lets -underBinder +onlyGivenNames x; clear_value x; revert x; intro _)
    | with_reducible apply UpdR.next
    | ((with_reducible apply Upd.go (vendorAnswer_upd _ _)); rotate_left; exact rfl)
    | ((with_reducible apply vendor_upd); rotate_left; exact rfl)
    | ((with_reducible apply Upd.go (keyChange_upd _ _ _)); rotate_left; exact rfl)
    | with_reducible apply SMap.wf_set
    | with_reducible apply SMap.wf_mapv
    | with_reducible apply SMap.wf_filter
    | with_reducible exact SMap.wf_nil
    | (first | with_reducible exact State.Ok.keys (by assumption))
    | ((with_reducible apply Upd.set_keys_setCount); rotate_left; exact rfl)

theorem execKeyClear_upd (sess : Nat) (slot : Nat) (s : State) : UpdR [.outbox, .regIrq, .regSec, .keys] s (execKeyClear sess slot s) :=
    by
  unfold execKeyClear
  repeat' first
    | intro _
    | with_reducible assumption
    | with_reducible exact Upd.refl _
    | (extract_lets -underBinder +onlyGivenNames x; (with_reducible refine UpdR.cut x ?_ ?_); rotate_left; (clear_value x; revert x; intro _ _); rotate_right; subst x)
    | (extract_lets -underBinder +onlyGivenNames x; (with_reducible refine Upd.cut x ?_ ?_); rotate_left; (clear_value x; revert x; intro _ _); rotate_right; subst x)
    | (extract_lets -underBinder +onlyGivenNames x; clear_value x; revert x; intro _)
    | with_reducible apply UpdR.next
    | ((with_reducible apply Upd.go (vendorAnswer_upd _ _)); rotate_left; exact rfl)
    | ((with_reducible apply vendor_upd); rotate_left; exact rfl)
    | ((with_reducible apply Upd.go (keyChange_upd _ _ _)); rotate_left; exact rfl)
    | with_reducible apply SMap.wf_set
    | with_reducible apply SMap.wf_mapv
    | with_reducible apply SMap.wf_filter
    | with_reducible exact SMap.wf_nil
    | (first | with_reducible exact State.Ok.keys (by assumption))
    | ((with_reducible apply Upd.set_keys); rotate_left; exact rfl)

theorem Upd.set_psks_setCount {m : List Part} {a b : State} {vpsks vsetCount} (h : Upd m a b)
    (hm : within [.psks, .setCount] m = true)
    (hpsks : b.Ok → SMap.wf (fun _ => none) vpsks) :
    Upd m a { b with psks := vpsks, setCount := vsetCount } :=
  h.put (fun p hp => by
    have : [.psks, .setCount].contains p = false := by
      cases hc : [.psks, .setCount].contains p with
      | false => rfl
      | true => exact absurd ((within_mem hm (List.contains_iff_mem.1 hc)).symm.trans hp) (by decide)
    cases p <;> first | rfl | exact fun _ _ _ _ => rfl | exact absurd this (by decide)) rfl rfl fun k => { k with psks := hpsks k }

theorem execPskSet_upd (sess : Nat) (which : Nat) (key : List Byte) (s : State) : UpdR [.outbox, .regIrq, .regSec, .psks, .setCount] s
    (execPskSet sess which key s) := by
  unfold execPskSet
  repeat' first
    | intro _
    | with_reducible assumption
    | with_reducible exact Upd.refl _
    | (extract_lets -underBinder +onlyGivenNames x; (with_reducible refine UpdR.cut x ?_ ?_); rotate_left; (clear_value x; revert x; intro _ _); rotate_right; subst x)
    | (extract_lets -underBinder +onlyGivenNames x; (with_reducible refine Upd.cut x ?_ ?_); rotate_left; (clear_value x; revert x; intro _ _); rotate_right; subst x)
    | (extract_lets -underBinder +onlyGivenNames x; clear_value x; revert x; intro _)
    | with_reducible apply UpdR.next
    | ((with_reducible apply Upd.go (vendorAnswer_upd _ _)); rotate_left; exact rfl)
    | ((with_reducible apply vendor_upd); rotate_left; exact rfl)
    | ((with_reducible apply Upd.go (keyChange_upd _ _ _)); rotate_left; exact rfl)
    | with_reducible apply SMap.wf_set
    | with_reducible apply SMap.wf_mapv
    | with_reducible apply SMap.wf_filter
    | with_reducible exact SMap.wf_nil
    | (first | with_reducible exact State.Ok.psks (by assumption))
    | ((with_reducible apply Upd.set_psks_setCount); rotate_left; exact rfl)

theorem testOff_upd (page : Nat) (s : State) : Upd [.outbox, .freeCtr, .regIrq, .regErr, .regLdg, .regBku, .regMcs, .regFlt, .ldgSeq,
    .ldgLost, .dram, .dramChk, .chans, .units, .flights, .snoop, .biWait, .ceWins, .servedBytes] s (testOff page s) := by
  unfold testOff
  repeat' first
    | intro _
    | with_reducible assumption
    | with_reducible exact Upd.refl _
    | (extract_lets -underBinder +onlyGivenNames x; (with_reducible refine Upd.cut x ?_ ?_); rotate_left; (clear_value x; revert x; intro _ _); rotate_right; subst x)
    | (extract_lets -underBinder +onlyGivenNames x; clear_value x; revert x; intro _)
    | ((with_reducible apply Upd.go (wri_upd _ _ _ _ _)); rotate_left; exact rfl)
    | ((with_reducible apply Upd.go (serveChan_upd _ _)); rotate_left; exact rfl)
    | split

theorem setDebug_upd (level : Nat) (s : State) : Upd [.outbox, .freeCtr, .regIrq, .regErr, .regLdg, .regBku, .regMcs, .regFlt, .regSec,
    .ldgSeq, .ldgLost, .dram, .dramChk, .chans, .units, .flights, .snoop, .biWait, .ceWins, .servedBytes] s (setDebug level s) := by
  unfold setDebug
  repeat' first
    | intro _
    | with_reducible assumption
    | with_reducible exact Upd.refl _
    | ((with_reducible apply UpdS.snd); with_reducible assumption)
    | (extract_lets -underBinder +onlyGivenNames x; (with_reducible refine Upd.cut x ?_ ?_); rotate_left; (clear_value x; revert x; intro _ _); rotate_right; subst x)
    | (extract_lets -underBinder +onlyGivenNames x; clear_value x; revert x; intro _)
    | with_reducible apply Upd.ite <;> intro _
    | with_reducible apply Upd.foldl
    | with_reducible apply UpdS.foldl
    | ((with_reducible apply UpdS.snd); with_reducible apply UpdS.foldl)
    | ((with_reducible apply Upd.go (wr_upd _ _ _ _)); rotate_left; exact rfl)
    | ((with_reducible apply Upd.go (raise_upd _ _ _)); rotate_left; exact rfl)
    | ((with_reducible apply Upd.go (measChange_upd _)); rotate_left; exact rfl)
    | ((with_reducible apply Upd.go (testOff_upd _ _)); rotate_left; exact rfl)
    | with_reducible apply UpdS.mk
    | dsimp only

theorem execDbgSet_upd (sess : Nat) (level : Nat) (s : State) : UpdR [.outbox, .freeCtr, .regIrq, .regErr, .regLdg, .regBku, .regMcs,
    .regFlt, .regSec, .ldgSeq, .ldgLost, .dram, .dramChk, .chans, .units, .flights, .snoop, .biWait, .ceWins, .servedBytes] s (execDbgSet
    sess level s) := by
  unfold execDbgSet
  repeat' first
    | intro _
    | with_reducible assumption
    | with_reducible exact Upd.refl _
    | with_reducible apply UpdR.next
    | ((with_reducible apply Upd.go (vendorAnswer_upd _ _)); rotate_left; exact rfl)
    | ((with_reducible apply vendor_upd); rotate_left; exact rfl)
    | ((with_reducible apply Upd.go (setDebug_upd _ _)); rotate_left; exact rfl)

theorem Upd.set_drovers_keys_psks_zeroDue {m : List Part} {a b : State} {vdrovers vkeys vpsks vzeroDue} (h : Upd m a b)
    (hm : within [.drovers, .keys, .psks, .zeroDue] m = true)
    (hdrovers : b.Ok → SMap.wf (fun _ => {}) vdrovers)
    (hkeys : b.Ok → SMap.wf (fun _ => none) vkeys)
    (hpsks : b.Ok → SMap.wf (fun _ => none) vpsks) :
    Upd m a { b with drovers := vdrovers, keys := vkeys, psks := vpsks, zeroDue := vzeroDue } :=
  h.put (fun p hp => by
    have : [.drovers, .keys, .psks, .zeroDue].contains p = false := by
      cases hc : [.drovers, .keys, .psks, .zeroDue].contains p with
      | false => rfl
      | true => exact absurd ((within_mem hm (List.contains_iff_mem.1 hc)).symm.trans hp) (by decide)
    cases p <;> first | rfl | exact fun _ _ _ _ => rfl | exact absurd this (by decide)) rfl rfl fun k => { k with drovers := hdrovers k, keys := hkeys k, psks := hpsks k }

theorem lcErase_upd (target : Nat) (s : State) : Upd [.drovers, .keys, .psks, .zeroDue] s (lcErase target s) := by
  unfold lcErase
  repeat' first
    | intro _
    | with_reducible assumption
    | with_reducible exact Upd.refl _
    | (extract_lets -underBinder +onlyGivenNames x; (with_reducible refine Upd.cut x ?_ ?_); rotate_left; (clear_value x; revert x; intro _ _); rotate_right; subst x)
    | (extract_lets -underBinder +onlyGivenNames x; clear_value x; revert x; intro _)
    | with_reducible apply Upd.ite <;> intro _
    | with_reducible apply SMap.wf_set
    | with_reducible apply SMap.wf_mapv
    | with_reducible apply SMap.wf_filter
    | with_reducible exact SMap.wf_nil
    | (first | with_reducible exact State.Ok.keys (by assumption) | with_reducible exact State.Ok.psks (by assumption) | with_reducible exact State.Ok.drovers (by assumption))
    | ((with_reducible apply Upd.set_drovers_keys_psks_zeroDue); rotate_left; exact rfl)

theorem lcAdvance_upd (target : Nat) (s : State) : Upd busy s (lcAdvance target s) := by
  unfold lcAdvance
  repeat' first
    | intro _
    | with_reducible assumption
    | with_reducible exact Upd.refl _
    | (extract_lets -underBinder +onlyGivenNames x; (with_reducible refine Upd.cut x ?_ ?_); rotate_left; (clear_value x; revert x; intro _ _); rotate_right; subst x)
    | (extract_lets -underBinder +onlyGivenNames x; clear_value x; revert x; intro _)
    | ((with_reducible apply Upd.go (wr_upd _ _ _ _)); rotate_left; exact rfl)
    | ((with_reducible apply Upd.go (deviceReset_upd _)); rotate_left; exact rfl)
    | ((with_reducible apply Upd.go (vendorAnswer_upd _ _)); rotate_left; exact rfl)
    | ((with_reducible apply Upd.go (lcErase_upd _ _)); rotate_left; exact rfl)
    | with_reducible apply SMap.wf_set
    | with_reducible apply SMap.wf_mapv
    | with_reducible apply SMap.wf_filter
    | with_reducible exact SMap.wf_nil
    | (first | with_reducible exact State.Ok.spdm (by assumption))
    | ((with_reducible apply Upd.set_spdm); rotate_left; exact rfl)

theorem execLcAdvance_upd (sess : Nat) (target : Nat) (devid : Nat) (s : State) : UpdR busy s (execLcAdvance sess target devid s) := by
  unfold execLcAdvance
  repeat' first
    | intro _
    | with_reducible assumption
    | with_reducible exact Upd.refl _
    | with_reducible apply Upd.ite <;> intro _
    | with_reducible apply UpdR.ite <;> intro _
    | with_reducible apply UpdR.next
    | ((with_reducible apply Upd.go (vendorAnswer_upd _ _)); rotate_left; exact rfl)
    | ((with_reducible apply vendor_upd); rotate_left; exact rfl)
    | ((with_reducible apply Upd.go (lcAdvance_upd _ _)); rotate_left; exact rfl)
    | split

theorem execSpdmPartOos_upd (sess : Nat) (n : Nat) (s : State) : UpdR hostOos_parts s (execSpdmPartOos sess n s) := by
  unfold execSpdmPartOos
  repeat' first
    | intro _
    | with_reducible assumption
    | with_reducible exact Upd.refl _
    | with_reducible apply UpdR.next
    | ((with_reducible apply Upd.go (hostOos_upd _ _)); rotate_left; exact rfl)
    | ((with_reducible apply Upd.go (vendorAnswer_upd _ _)); rotate_left; exact rfl)
    | ((with_reducible apply vendor_upd); rotate_left; exact rfl)

theorem mgmtPstate_upd (t : Nat) (s : State) : UpdS [.freeCtr, .regPwr, .regMgt, .ports, .psNext] s (mgmtPstate t s) := by
  unfold mgmtPstate
  repeat' first
    | intro _
    | with_reducible assumption
    | with_reducible exact Upd.refl _
    | ((with_reducible apply UpdS.snd); with_reducible assumption)
    | with_reducible apply Upd.ite <;> intro _
    | with_reducible apply UpdS.ite <;> intro _
    | ((with_reducible apply Upd.goS (psRequest_upd _ _)); rotate_left; exact rfl)
    | ((with_reducible apply UpdS.go (psRequest_upd _ _)); rotate_left; exact rfl)
    | with_reducible apply UpdS.mk
    | dsimp only

theorem execSpdmPstate_upd (sess : Nat) (target : Nat) (s : State) : UpdR [.outbox, .freeCtr, .regPwr, .regMgt, .ports, .psNext] s
    (execSpdmPstate sess target s) := by
  unfold execSpdmPstate
  repeat' first
    | intro _
    | with_reducible assumption
    | with_reducible exact Upd.refl _
    | ((with_reducible apply UpdS.snd); with_reducible assumption)
    | (extract_lets -underBinder +onlyGivenNames x; (with_reducible refine UpdR.cut x ?_ ?_); rotate_left; (clear_value x; revert x; intro _ _); rotate_right; subst x)
    | (extract_lets -underBinder +onlyGivenNames x; (with_reducible refine Upd.cut x ?_ ?_); rotate_left; (clear_value x; revert x; intro _ _); rotate_right; subst x)
    | (extract_lets -underBinder +onlyGivenNames x; (with_reducible refine UpdR.cutSnd x ?_ ?_); rotate_left; (clear_value x; revert x; intro _ _); rotate_right; subst x)
    | (extract_lets -underBinder +onlyGivenNames x; (with_reducible refine Upd.cutSnd x ?_ ?_); rotate_left; (clear_value x; revert x; intro _ _); rotate_right; subst x)
    | (extract_lets -underBinder +onlyGivenNames x; clear_value x; revert x; intro _)
    | with_reducible apply UpdR.next
    | ((with_reducible apply Upd.go (vendorAnswer_upd _ _)); rotate_left; exact rfl)
    | ((with_reducible apply vendor_upd); rotate_left; exact rfl)
    | ((with_reducible apply Upd.goS (mgmtPstate_upd _ _)); rotate_left; exact rfl)
    | ((with_reducible apply UpdS.go (mgmtPstate_upd _ _)); rotate_left; exact rfl)
    | with_reducible apply UpdS.mk

theorem unlockAll_upd (s : State) : Upd regRead_parts s (unlockAll s) := by
  unfold unlockAll
  refine Upd.ite (fun _ => (Upd.refl s).filter_regs rfl) fun _ => ?_
  exact Upd.go (logErr_upd _ _ _ _ _) (Upd.go (count_upd _ _ _ _) (Upd.refl s) rfl) rfl

theorem execUnlockAll_upd (s : State) : UpdR regRead_parts s (execUnlockAll s) := by
  unfold execUnlockAll
  repeat' first
    | intro _
    | with_reducible assumption
    | with_reducible exact Upd.refl _
    | with_reducible apply UpdR.next
    | ((with_reducible apply Upd.go (unlockAll_upd _)); rotate_left; exact rfl)

end Sys2Proof.Machine
end

