-- ==== Sys2Proof/Laws/UpdService.lean ====
section
/-!
SUPPORT. What each operation of Machine/Service can change, and that it keeps the canonical form.
-/

namespace Sys2Proof.Machine

set_option maxRecDepth 4000
set_option linter.all false

theorem zeroMemory_upd (s : State) : Upd [.memGens, .dram, .dramChk, .zeroDue] s (zeroMemory s) := by
  unfold zeroMemory
  refine Upd.ite (fun _ => ?_) fun _ => Upd.refl s
  refine (Upd.refl s).put (fun q hq => by cases q <;> first | rfl | exact fun _ _ _ _ => rfl | exact absurd hq (by decide)) rfl rfl fun k =>
    { k with dram := SMap.wf_nil, dramChk := SMap.wf_nil, memGens := SMap.wf_nil }

theorem bringMemory_upd (failChans : List Nat) (failRows : List Nat) (s : State) : Upd [.outbox, .regIrq, .regErr, .regLdg, .regMcs,
    .regFlt, .ldgSeq, .ldgLost, .memGens, .dram, .dramChk, .chans, .units, .snoop, .biWait, .remaps, .servedBytes, .pllTemp, .zeroDue] s
    (bringMemory failChans failRows s) := by
  unfold bringMemory
  repeat' first
    | intro _
    | with_reducible assumption
    | with_reducible exact Upd.refl _
    | ((with_reducible apply UpdS.snd); with_reducible assumption)
    | (extract_lets -underBinder +onlyGivenNames x; (with_reducible refine Upd.cut x ?_ ?_); rotate_left; (clear_value x; revert x; intro _ _); rotate_right; subst x)
    | (extract_lets -underBinder +onlyGivenNames x; clear_value x; revert x; intro _)
    | with_reducible apply Upd.ite <;> intro _
    | with_reducible apply Upd.foldl
    | with_reducible apply UpdS.foldl
    | ((with_reducible apply UpdS.snd); with_reducible apply UpdS.foldl)
    | with_reducible apply Upd.forUpto
    | ((with_reducible apply Upd.go (putChan_upd _ _ _)); rotate_left; exact rfl)
    | ((with_reducible apply Upd.go (candidate_upd _ _ _)); rotate_left; exact rfl)
    | ((with_reducible apply Upd.go (trainFail_upd _ _)); rotate_left; exact rfl)
    | ((with_reducible apply Upd.go (reapply_upd _ _)); rotate_left; exact rfl)
    | ((with_reducible apply Upd.go (zeroMemory_upd _)); rotate_left; exact rfl)
    | with_reducible apply UpdS.mk
    | dsimp only
    | with_reducible apply SMap.wf_set
    | with_reducible apply SMap.wf_mapv
    | with_reducible apply SMap.wf_filter
    | with_reducible exact SMap.wf_nil
    | (first | with_reducible exact State.Ok.pllTemp (by assumption))
    | ((with_reducible apply Upd.set_pllTemp); rotate_left; exact rfl)

theorem bringParts_upd (failChans : List Nat) (failParts : List Nat) (s : State) : Upd goOos_parts s (bringParts failChans failParts s) :=
    by
  unfold bringParts
  repeat' first
    | intro _
    | with_reducible assumption
    | with_reducible exact Upd.refl _
    | (extract_lets -underBinder +onlyGivenNames x; (with_reducible refine Upd.cut x ?_ ?_); rotate_left; (clear_value x; revert x; intro _ _); rotate_right; subst x)
    | (extract_lets -underBinder +onlyGivenNames x; clear_value x; revert x; intro _)
    | with_reducible apply Upd.ite <;> intro _
    | with_reducible apply Upd.forUpto
    | ((with_reducible apply Upd.go (wr_upd _ _ _ _)); rotate_left; exact rfl)
    | ((with_reducible apply Upd.go (goOos_upd _ _ _)); rotate_left; exact rfl)
    | split

theorem bringBulk_upd (failBulk : List Nat) (s : State) : Upd [.outbox, .freeCtr, .regIrq, .regBlk, .regMgt, .drovers] s (bringBulk
    failBulk s) := by
  unfold bringBulk
  repeat' first
    | intro _
    | with_reducible assumption
    | with_reducible exact Upd.refl _
    | ((with_reducible apply UpdS.snd); with_reducible assumption)
    | (extract_lets -underBinder +onlyGivenNames x; (with_reducible refine Upd.cut x ?_ ?_); rotate_left; (clear_value x; revert x; intro _ _); rotate_right; subst x)
    | (extract_lets -underBinder +onlyGivenNames x; clear_value x; revert x; intro _)
    | with_reducible apply Upd.ite <;> intro _
    | with_reducible apply Upd.foldl
    | with_reducible apply UpdS.foldl
    | ((with_reducible apply UpdS.snd); with_reducible apply UpdS.foldl)
    | with_reducible apply Upd.forUpto
    | ((with_reducible apply Upd.go (wr_upd _ _ _ _)); rotate_left; exact rfl)
    | ((with_reducible apply Upd.go (blkSettle_upd _ _)); rotate_left; exact rfl)
    | with_reducible apply UpdS.mk
    | dsimp only
    | with_reducible apply SMap.wf_set
    | with_reducible apply SMap.wf_mapv
    | with_reducible apply SMap.wf_filter
    | with_reducible exact SMap.wf_nil
    | (first | with_reducible exact State.Ok.drovers (by assumption))
    | split
    | ((with_reducible apply Upd.set_drovers); rotate_left; exact rfl)

theorem bringFirmware_upd (cold : Bool) (bad : Nat) (s : State) : Upd [.outbox, .regIrq, .regErr, .regLdg, .regMcs, .regFlt, .regMgt,
    .ldgSeq, .ldgLost, .dram, .dramChk, .chans, .units, .snoop, .biWait, .servedBytes] s (bringFirmware cold bad s) := by
  unfold bringFirmware
  repeat' first
    | intro _
    | with_reducible assumption
    | with_reducible exact Upd.refl _
    | (extract_lets -underBinder +onlyGivenNames x; (with_reducible refine Upd.cut x ?_ ?_); rotate_left; (clear_value x; revert x; intro _ _); rotate_right; subst x)
    | (extract_lets -underBinder +onlyGivenNames x; clear_value x; revert x; intro _)
    | with_reducible apply Upd.ite <;> intro _
    | with_reducible apply Upd.forUpto
    | ((with_reducible apply Upd.go (wr_upd _ _ _ _)); rotate_left; exact rfl)
    | ((with_reducible apply Upd.go (ledger_upd _ _ _ _)); rotate_left; exact rfl)
    | ((with_reducible apply Upd.go (fwRunNew_upd _ _)); rotate_left; exact rfl)

/-- What `bringLinks` may change. -/
def bringLinks_parts : List Part :=
  [.outbox, .freeCtr, .regIrq, .regErr, .regLdg, .regSpd, .regTmv, .regBku, .regMcs, .regFlt, .regEvl, .regOpt, .regBay, .regHif, .ldgSeq,
   .ldgLost, .ctxs, .runs, .engines, .spads, .spad, .spadChk, .serais, .dram, .dramChk, .chans, .units, .flights, .snoop, .biWait,
   .ceWins, .servedBytes, .ports]

theorem bringLinks_upd (s : State) : Upd bringLinks_parts s (bringLinks s) := by
  unfold bringLinks
  repeat' first
    | intro _
    | with_reducible assumption
    | with_reducible exact Upd.refl _
    | (extract_lets -underBinder +onlyGivenNames x; (with_reducible refine Upd.cut x ?_ ?_); rotate_left; (clear_value x; revert x; intro _ _); rotate_right; subst x)
    | (extract_lets -underBinder +onlyGivenNames x; clear_value x; revert x; intro _)
    | with_reducible apply Upd.ite <;> intro _
    | with_reducible apply Upd.forUpto
    | ((with_reducible apply Upd.go (putLink_upd _ _ _ _)); rotate_left; exact rfl)
    | ((with_reducible apply Upd.go (startWarming_upd _ _)); rotate_left; exact rfl)

theorem Upd.set_fwDone_fwSlots {m : List Part} {a b : State} {vfwDone vfwSlots} (h : Upd m a b)
    (hm : within [.fwDone, .fwSlots] m = true) :
    Upd m a { b with fwDone := vfwDone, fwSlots := vfwSlots } :=
  h.put (fun p hp => by
    have : [.fwDone, .fwSlots].contains p = false := by
      cases hc : [.fwDone, .fwSlots].contains p with
      | false => rfl
      | true => exact absurd ((within_mem hm (List.contains_iff_mem.1 hc)).symm.trans hp) (by decide)
    cases p <;> first | rfl | exact fun _ _ _ _ => rfl | exact absurd this (by decide)) rfl rfl fun k => { k with  }

/-- What `execPowerOn` may change. -/
def execPowerOn_parts : List Part :=
  [.outbox, .freeCtr, .regCtl, .regIrq, .regLock, .regSet, .regErr, .regMs, .regEpo, .regLdg, .regSerai, .regEng, .regSpd, .regTmv, .regBkc,
   .regBku, .regMcs, .regDrv, .regBlk, .regRcv, .regFlt, .regEvl, .regOpt, .regBay, .regSes, .regRng, .regHif, .regSec, .regPwr, .regThm,
   .regClk, .regMgt, .staging, .prevSet, .ops, .vslots, .floorAbove, .ldgSeq, .ldgLost, .ctxs, .runs, .pms, .engines, .spads, .spad,
   .spadChk, .serais, .loading, .sess, .abortWaits, .memGens, .dram, .dramChk, .chans, .units, .flights, .snoop, .biWait, .ceWins,
   .drovers, .remaps, .servedBytes, .ports, .pllTemp, .recov, .zeroDue, .romOnly, .fwDone, .fwSlots]

theorem execPowerOn_upd (rail : Bool) (spine : Bool) (fwBad : Nat) (failParts : List Nat) (failBulk : List Nat) (failChans : List Nat)
    (failRows : List Nat) (s : State) : UpdR execPowerOn_parts s (execPowerOn rail spine fwBad failParts failBulk failChans failRows s) :=
    by
  unfold execPowerOn
  repeat' first
    | intro _
    | with_reducible assumption
    | with_reducible exact Upd.refl _
    | (extract_lets -underBinder +onlyGivenNames x; (with_reducible refine UpdR.cut x ?_ ?_); rotate_left; (clear_value x; revert x; intro _ _); rotate_right; subst x)
    | (extract_lets -underBinder +onlyGivenNames x; (with_reducible refine Upd.cut x ?_ ?_); rotate_left; (clear_value x; revert x; intro _ _); rotate_right; subst x)
    | (extract_lets -underBinder +onlyGivenNames x; clear_value x; revert x; intro _)
    | with_reducible apply Upd.ite <;> intro _
    | with_reducible apply UpdR.ite <;> intro _
    | with_reducible apply UpdR.next
    | ((with_reducible apply Upd.go (wr_upd _ _ _ _)); rotate_left; exact rfl)
    | ((with_reducible apply Upd.go (putStage_upd _ _)); rotate_left; exact rfl)
    | ((with_reducible apply Upd.go (bringMemory_upd _ _ _)); rotate_left; exact rfl)
    | ((with_reducible apply Upd.go (bringParts_upd _ _ _)); rotate_left; exact rfl)
    | ((with_reducible apply Upd.go (bringBulk_upd _ _)); rotate_left; exact rfl)
    | ((with_reducible apply Upd.go (bringFirmware_upd _ _ _)); rotate_left; exact rfl)
    | ((with_reducible apply Upd.go (bringLinks_upd _)); rotate_left; exact rfl)
    | ((with_reducible apply Upd.set_fwDone_fwSlots); rotate_left; exact rfl)
    | ((with_reducible apply Upd.set_romOnly); rotate_left; exact rfl)

theorem execBootReady_upd (s : State) : UpdR [.outbox, .freeCtr, .regIrq, .regMgt] s (execBootReady s) := by
  unfold execBootReady
  repeat' first
    | intro _
    | with_reducible assumption
    | with_reducible exact Upd.refl _
    | (extract_lets -underBinder +onlyGivenNames x; (with_reducible refine UpdR.cut x ?_ ?_); rotate_left; (clear_value x; revert x; intro _ _); rotate_right; subst x)
    | (extract_lets -underBinder +onlyGivenNames x; (with_reducible refine Upd.cut x ?_ ?_); rotate_left; (clear_value x; revert x; intro _ _); rotate_right; subst x)
    | (extract_lets -underBinder +onlyGivenNames x; clear_value x; revert x; intro _)
    | with_reducible apply Upd.ite <;> intro _
    | with_reducible apply UpdR.ite <;> intro _
    | with_reducible apply UpdR.next
    | ((with_reducible apply Upd.go (wr_upd _ _ _ _)); rotate_left; exact rfl)
    | ((with_reducible apply Upd.go (raise_upd _ _ _)); rotate_left; exact rfl)
    | ((with_reducible apply Upd.go (putStage_upd _ _)); rotate_left; exact rfl)
    | ((with_reducible apply Upd.go (measure_upd _ _ _ _)); rotate_left; exact rfl)

theorem emptyBank_upd (c : Nat) (s : State) : Upd [.regMgt] s (emptyBank c s) := by
  unfold emptyBank
  repeat' first
    | intro _
    | with_reducible assumption
    | with_reducible exact Upd.refl _
    | ((with_reducible apply Upd.go (wri_upd _ _ _ _ _)); rotate_left; unfold verFld; split <;> rfl)

theorem execPwrDisAssert_upd (s : State) : UpdR busy s (execPwrDisAssert s) := by
  unfold execPwrDisAssert
  repeat' first
    | intro _
    | with_reducible assumption
    | with_reducible exact Upd.refl _
    | ((with_reducible apply UpdS.snd); with_reducible assumption)
    | (extract_lets -underBinder +onlyGivenNames x; (with_reducible refine UpdR.cut x ?_ ?_); rotate_left; (clear_value x; revert x; intro _ _); rotate_right; subst x)
    | (extract_lets -underBinder +onlyGivenNames x; (with_reducible refine Upd.cut x ?_ ?_); rotate_left; (clear_value x; revert x; intro _ _); rotate_right; subst x)
    | (extract_lets -underBinder +onlyGivenNames x; clear_value x; revert x; intro _)
    | with_reducible apply UpdR.next
    | with_reducible apply Upd.foldl
    | with_reducible apply UpdS.foldl
    | ((with_reducible apply UpdS.snd); with_reducible apply UpdS.foldl)
    | with_reducible apply Upd.getD
    | ((with_reducible apply Upd.go (powerLoss_upd _)); rotate_left; exact rfl)
    | ((with_reducible apply Upd.go (emptyBank_upd _ _)); rotate_left; exact rfl)
    | with_reducible apply UpdS.mk
    | dsimp only

theorem execPwrDisDeassert_upd (s : State) : UpdR [.regMgt] s (execPwrDisDeassert s) := by
  unfold execPwrDisDeassert
  repeat' first
    | intro _
    | with_reducible assumption
    | with_reducible exact Upd.refl _
    | with_reducible apply Upd.ite <;> intro _
    | with_reducible apply UpdR.ite <;> intro _
    | with_reducible apply UpdR.next
    | ((with_reducible apply Upd.go (putStage_upd _ _)); rotate_left; exact rfl)

theorem execModuleWithdraw_upd (s : State) : UpdR busy s (execModuleWithdraw s) := by
  unfold execModuleWithdraw
  repeat' first
    | intro _
    | with_reducible assumption
    | with_reducible exact Upd.refl _
    | with_reducible apply UpdR.next
    | ((with_reducible apply Upd.go (powerLoss_upd _)); rotate_left; exact rfl)

theorem pldmAnswer_upd (code : Nat) (s : State) : Upd [.outbox] s (pldmAnswer code s) := by
  unfold pldmAnswer
  repeat' first
    | intro _
    | with_reducible assumption
    | with_reducible exact Upd.refl _
    | ((with_reducible apply Upd.go (emit_upd _ _)); rotate_left; exact rfl)

theorem execRequestUpdate_upd (sess : Option Nat) (s : State) : UpdR [.outbox, .update] s (execRequestUpdate sess s) := by
  unfold execRequestUpdate
  repeat' first
    | intro _
    | with_reducible assumption
    | with_reducible exact Upd.refl _
    | (extract_lets -underBinder +onlyGivenNames x; (with_reducible refine UpdR.cut x ?_ ?_); rotate_left; (clear_value x; revert x; intro _ _); rotate_right; subst x)
    | (extract_lets -underBinder +onlyGivenNames x; (with_reducible refine Upd.cut x ?_ ?_); rotate_left; (clear_value x; revert x; intro _ _); rotate_right; subst x)
    | (extract_lets -underBinder +onlyGivenNames x; clear_value x; revert x; intro _)
    | with_reducible apply Upd.ite <;> intro _
    | with_reducible apply UpdR.ite <;> intro _
    | with_reducible apply UpdR.next
    | ((with_reducible apply Upd.go (pldmAnswer_upd _ _)); rotate_left; exact rfl)
    | split
    | ((with_reducible apply Upd.set_update); rotate_left; exact rfl)

theorem inUpdate_upd {m : List Part} {a s : State} {act : FwUpdate → State → State} (h : Upd m a s)
    (hm : within [.outbox] m = true) (hf : ∀ u t, Upd m a t → Upd m a (act u t)) : Upd m a (inUpdate act s) := by
  unfold inUpdate
  split
  · exact Upd.ite (fun _ => Upd.go (pldmAnswer_upd _ _) h (within_trans rfl hm)) fun _ => h
  · exact hf _ _ h

theorem execPassComponentTable_upd (comps : List Nat) (s : State) : UpdR [.outbox, .update] s (execPassComponentTable comps s) := by
  unfold execPassComponentTable
  repeat' first
    | intro _
    | with_reducible assumption
    | with_reducible exact Upd.refl _
    | (extract_lets -underBinder +onlyGivenNames x; (with_reducible refine UpdR.cut x ?_ ?_); rotate_left; (clear_value x; revert x; intro _ _); rotate_right; subst x)
    | (extract_lets -underBinder +onlyGivenNames x; (with_reducible refine Upd.cut x ?_ ?_); rotate_left; (clear_value x; revert x; intro _ _); rotate_right; subst x)
    | (extract_lets -underBinder +onlyGivenNames x; clear_value x; revert x; intro _)
    | with_reducible apply Upd.ite <;> intro _
    | with_reducible apply UpdR.ite <;> intro _
    | with_reducible apply UpdR.next
    | ((with_reducible apply Upd.go (pldmAnswer_upd _ _)); rotate_left; exact rfl)
    | ((with_reducible apply inUpdate_upd); rotate_left; exact rfl)
    | ((with_reducible apply Upd.set_update); rotate_left; exact rfl)

theorem execUpdateComponent_upd (comp : Nat) (s : State) : UpdR [.outbox, .regSet, .regMgt, .prevSet, .update] s (execUpdateComponent comp
    s) := by
  unfold execUpdateComponent
  repeat' first
    | intro _
    | with_reducible assumption
    | with_reducible exact Upd.refl _
    | (extract_lets -underBinder +onlyGivenNames x; (with_reducible refine UpdR.cut x ?_ ?_); rotate_left; (clear_value x; revert x; intro _ _); rotate_right; subst x)
    | (extract_lets -underBinder +onlyGivenNames x; (with_reducible refine Upd.cut x ?_ ?_); rotate_left; (clear_value x; revert x; intro _ _); rotate_right; subst x)
    | (extract_lets -underBinder +onlyGivenNames x; clear_value x; revert x; intro _)
    | with_reducible apply Upd.ite <;> intro _
    | with_reducible apply UpdR.ite <;> intro _
    | with_reducible apply UpdR.next
    | ((with_reducible apply Upd.go (wr_upd _ _ _ _)); rotate_left; exact rfl)
    | ((with_reducible apply Upd.go (emptyBank_upd _ _)); rotate_left; exact rfl)
    | ((with_reducible apply Upd.go (pldmAnswer_upd _ _)); rotate_left; exact rfl)
    | ((with_reducible apply inUpdate_upd); rotate_left; exact rfl)
    | split
    | ((with_reducible apply Upd.set_prevSet); rotate_left; exact rfl)
    | ((with_reducible apply Upd.set_update); rotate_left; exact rfl)

theorem execTransferComplete_upd (s : State) : UpdR [.outbox, .update] s (execTransferComplete s) := by
  unfold execTransferComplete
  repeat' first
    | intro _
    | with_reducible assumption
    | with_reducible exact Upd.refl _
    | (extract_lets -underBinder +onlyGivenNames x; (with_reducible refine UpdR.cut x ?_ ?_); rotate_left; (clear_value x; revert x; intro _ _); rotate_right; subst x)
    | (extract_lets -underBinder +onlyGivenNames x; (with_reducible refine Upd.cut x ?_ ?_); rotate_left; (clear_value x; revert x; intro _ _); rotate_right; subst x)
    | (extract_lets -underBinder +onlyGivenNames x; clear_value x; revert x; intro _)
    | with_reducible apply Upd.ite <;> intro _
    | with_reducible apply UpdR.ite <;> intro _
    | with_reducible apply UpdR.next
    | ((with_reducible apply Upd.go (pldmAnswer_upd _ _)); rotate_left; exact rfl)
    | ((with_reducible apply inUpdate_upd); rotate_left; exact rfl)
    | ((with_reducible apply Upd.set_update); rotate_left; exact rfl)

theorem execVerifyComplete_upd (ok : Bool) (version : Nat) (s : State) : UpdR [.outbox, .regMgt, .update] s (execVerifyComplete ok version
    s) := by
  unfold execVerifyComplete
  repeat' first
    | intro _
    | with_reducible assumption
    | with_reducible exact Upd.refl _
    | (extract_lets -underBinder +onlyGivenNames x; (with_reducible refine UpdR.cut x ?_ ?_); rotate_left; (clear_value x; revert x; intro _ _); rotate_right; subst x)
    | (extract_lets -underBinder +onlyGivenNames x; (with_reducible refine Upd.cut x ?_ ?_); rotate_left; (clear_value x; revert x; intro _ _); rotate_right; subst x)
    | (extract_lets -underBinder +onlyGivenNames x; clear_value x; revert x; intro _)
    | with_reducible apply Upd.ite <;> intro _
    | with_reducible apply UpdR.ite <;> intro _
    | with_reducible apply UpdR.next
    | ((with_reducible apply Upd.go (wri_upd _ _ _ _ _)); rotate_left; first | exact rfl | (unfold verFld; split <;> rfl))
    | ((with_reducible apply Upd.go (emptyBank_upd _ _)); rotate_left; exact rfl)
    | ((with_reducible apply Upd.go (pldmAnswer_upd _ _)); rotate_left; exact rfl)
    | ((with_reducible apply inUpdate_upd); rotate_left; exact rfl)
    | split
    | ((with_reducible apply Upd.set_update); rotate_left; exact rfl)

/-- What `execActivateFirmware` may change. -/
def execActivateFirmware_parts : List Part :=
  [.outbox, .regCtl, .regIrq, .regLock, .regSet, .regErr, .regMs, .regEpo, .regLdg, .regSerai, .regEng, .regSpd, .regTmv, .regBkc, .regBku,
   .regMcs, .regDrv, .regBlk, .regRcv, .regFlt, .regEvl, .regOpt, .regBay, .regSes, .regRng, .regHif, .regSec, .regPwr, .regThm, .regClk,
   .regMgt, .staging, .prevSet, .vslots, .floorAbove, .ldgSeq, .ldgLost, .dram, .dramChk, .chans, .units, .snoop, .biWait, .drovers,
   .servedBytes, .update, .fwSlots]

theorem execActivateFirmware_upd (selfContained : Bool) (s : State) : UpdR execActivateFirmware_parts s (execActivateFirmware
    selfContained s) := by
  unfold execActivateFirmware
  repeat' first
    | intro _
    | with_reducible assumption
    | with_reducible exact Upd.refl _
    | ((with_reducible apply UpdS.snd); with_reducible assumption)
    | (extract_lets -underBinder +onlyGivenNames x; (with_reducible refine UpdR.cut x ?_ ?_); rotate_left; (clear_value x; revert x; intro _ _); rotate_right; subst x)
    | (extract_lets -underBinder +onlyGivenNames x; (with_reducible refine Upd.cut x ?_ ?_); rotate_left; (clear_value x; revert x; intro _ _); rotate_right; subst x)
    | (extract_lets -underBinder +onlyGivenNames x; clear_value x; revert x; intro _)
    | with_reducible apply Upd.ite <;> intro _
    | with_reducible apply UpdR.ite <;> intro _
    | with_reducible apply UpdR.next
    | with_reducible apply Upd.foldl
    | with_reducible apply UpdS.foldl
    | ((with_reducible apply UpdS.snd); with_reducible apply UpdS.foldl)
    | ((with_reducible apply Upd.go (cfgActivate_upd _ _ _)); rotate_left; exact rfl)
    | ((with_reducible apply Upd.go (stageField_upd _ _ _ _ _)); rotate_left; exact rfl)
    | ((with_reducible apply Upd.go (epochSettle_upd _)); rotate_left; exact rfl)
    | ((with_reducible apply Upd.go (pldmAnswer_upd _ _)); rotate_left; exact rfl)
    | ((with_reducible apply inUpdate_upd); rotate_left; exact rfl)
    | with_reducible apply UpdS.mk
    | dsimp only
    | split
    | ((with_reducible apply Upd.set_update); rotate_left; exact rfl)

/-- What `fwFinish` may change. -/
def fwFinish_parts : List Part :=
  [.outbox, .regCtl, .regIrq, .regLock, .regSet, .regErr, .regMs, .regEpo, .regLdg, .regSerai, .regEng, .regSpd, .regTmv, .regBkc, .regBku,
   .regMcs, .regDrv, .regBlk, .regRcv, .regFlt, .regEvl, .regOpt, .regBay, .regSes, .regRng, .regHif, .regSec, .regPwr, .regThm, .regClk,
   .regMgt, .staging, .prevSet, .vslots, .floorAbove, .ldgSeq, .ldgLost, .dram, .dramChk, .chans, .units, .snoop, .biWait, .drovers,
   .servedBytes, .fwDone, .fwSlots]

theorem fwFinish_upd (comp : Nat) (s : State) : Upd fwFinish_parts s (fwFinish comp s) := by
  unfold fwFinish
  repeat' first
    | intro _
    | with_reducible assumption
    | with_reducible exact Upd.refl _
    | (extract_lets -underBinder +onlyGivenNames x; (with_reducible refine Upd.cut x ?_ ?_); rotate_left; (clear_value x; revert x; intro _ _); rotate_right; subst x)
    | (extract_lets -underBinder +onlyGivenNames x; clear_value x; revert x; intro _)
    | ((with_reducible apply Upd.go (ledger_upd _ _ _ _)); rotate_left; exact rfl)
    | ((with_reducible apply Upd.go (epochSettle_upd _)); rotate_left; exact rfl)
    | ((with_reducible apply Upd.go (fwRunNew_upd _ _)); rotate_left; exact rfl)
    | ((with_reducible apply Upd.go (measChange_upd _)); rotate_left; exact rfl)
    | ((with_reducible apply Upd.set_fwDone); rotate_left; exact rfl)

theorem execFwSwitch_upd (comp : Nat) (unit : Nat) (s : State) : UpdR fwFinish_parts s (execFwSwitch comp unit s) := by
  unfold execFwSwitch
  repeat' first
    | intro _
    | with_reducible assumption
    | with_reducible exact Upd.refl _
    | (extract_lets -underBinder +onlyGivenNames x; (with_reducible refine UpdR.cut x ?_ ?_); rotate_left; (clear_value x; revert x; intro _ _); rotate_right; subst x)
    | (extract_lets -underBinder +onlyGivenNames x; (with_reducible refine Upd.cut x ?_ ?_); rotate_left; (clear_value x; revert x; intro _ _); rotate_right; subst x)
    | (extract_lets -underBinder +onlyGivenNames x; clear_value x; revert x; intro _)
    | with_reducible apply Upd.ite <;> intro _
    | with_reducible apply UpdR.ite <;> intro _
    | with_reducible apply UpdR.next
    | with_reducible apply Upd.forUpto
    | ((with_reducible apply Upd.go (putChan_upd _ _ _)); rotate_left; exact rfl)
    | ((with_reducible apply Upd.go (setPortState_upd _ _ _)); rotate_left; exact rfl)
    | ((with_reducible apply Upd.go (fwFinish_upd _ _)); rotate_left; exact rfl)
    | split
    | ((with_reducible apply Upd.set_fwDone); rotate_left; exact rfl)

theorem execFwSwitchWaitExpire_upd (stack : Nat) (chan : Nat) (s : State) : UpdR [.chans] s (execFwSwitchWaitExpire stack chan s) := by
  unfold execFwSwitchWaitExpire
  repeat' first
    | intro _
    | with_reducible assumption
    | with_reducible exact Upd.refl _
    | (extract_lets -underBinder +onlyGivenNames x; (with_reducible refine UpdR.cut x ?_ ?_); rotate_left; (clear_value x; revert x; intro _ _); rotate_right; subst x)
    | (extract_lets -underBinder +onlyGivenNames x; (with_reducible refine Upd.cut x ?_ ?_); rotate_left; (clear_value x; revert x; intro _ _); rotate_right; subst x)
    | (extract_lets -underBinder +onlyGivenNames x; clear_value x; revert x; intro _)
    | with_reducible apply Upd.ite <;> intro _
    | with_reducible apply UpdR.ite <;> intro _
    | with_reducible apply UpdR.next
    | ((with_reducible apply Upd.go (putChan_upd _ _ _)); rotate_left; exact rfl)

theorem execPldmPowerEffecter_upd (sess : Option Nat) (target : Nat) (s : State) : UpdR [.outbox, .freeCtr, .regPwr, .regMgt, .ports,
    .psNext] s (execPldmPowerEffecter sess target s) := by
  unfold execPldmPowerEffecter
  repeat' first
    | intro _
    | with_reducible assumption
    | with_reducible exact Upd.refl _
    | ((with_reducible apply UpdS.snd); with_reducible assumption)
    | (extract_lets -underBinder +onlyGivenNames x; (with_reducible refine UpdR.cut x ?_ ?_); rotate_left; (clear_value x; revert x; intro _ _); rotate_right; subst x)
    | (extract_lets -underBinder +onlyGivenNames x; (with_reducible refine Upd.cut x ?_ ?_); rotate_left; (clear_value x; revert x; intro _ _); rotate_right; subst x)
    | (extract_lets -underBinder +onlyGivenNames x; (with_reducible refine UpdR.cutSnd x ?_ ?_); rotate_left; (clear_value x; revert x; intro _ _); rotate_right; subst x)
    | (extract_lets -underBinder +onlyGivenNames x; (with_reducible refine Upd.cutSnd x ?_ ?_); rotate_left; (clear_value x; revert x; intro _ _); rotate_right; subst x)
    | (extract_lets -underBinder +onlyGivenNames x; clear_value x; revert x; intro _)
    | with_reducible apply Upd.ite <;> intro _
    | with_reducible apply UpdR.ite <;> intro _
    | with_reducible apply UpdS.ite <;> intro _
    | with_reducible apply UpdR.next
    | ((with_reducible apply Upd.goS (mgmtPstate_upd _ _)); rotate_left; exact rfl)
    | ((with_reducible apply UpdS.go (mgmtPstate_upd _ _)); rotate_left; exact rfl)
    | ((with_reducible apply Upd.go (pldmAnswer_upd _ _)); rotate_left; exact rfl)
    | with_reducible apply UpdS.mk
    | split

theorem execPldmOosEffecter_upd (sess : Option Nat) (n : Nat) (s : State) : UpdR hostOos_parts s (execPldmOosEffecter sess n s) := by
  unfold execPldmOosEffecter
  repeat' first
    | intro _
    | with_reducible assumption
    | with_reducible exact Upd.refl _
    | with_reducible apply Upd.ite <;> intro _
    | with_reducible apply UpdR.ite <;> intro _
    | with_reducible apply UpdR.next
    | ((with_reducible apply Upd.go (hostOos_upd _ _)); rotate_left; exact rfl)
    | ((with_reducible apply Upd.go (pldmAnswer_upd _ _)); rotate_left; exact rfl)
    | split

theorem execPldmSensorRead_upd (sess : Option Nat) (idx : Nat) (s : State) : UpdR [.outbox] s (execPldmSensorRead sess idx s) := by
  unfold execPldmSensorRead
  repeat' first
    | intro _
    | with_reducible assumption
    | with_reducible exact Upd.refl _
    | with_reducible apply Upd.ite <;> intro _
    | with_reducible apply UpdR.ite <;> intro _
    | with_reducible apply UpdR.next
    | ((with_reducible apply Upd.go (emit_upd _ _)); rotate_left; exact rfl)
    | ((with_reducible apply Upd.go (pldmAnswer_upd _ _)); rotate_left; exact rfl)
    | split

end Sys2Proof.Machine
end

