-- ==== Sys2Proof/Laws/UpdViews.lean ====
section
/-!
SUPPORT. What each operation of Machine/Views can change, and that it keeps the canonical form.
-/

namespace Sys2Proof.Machine

set_option maxRecDepth 4000
set_option linter.all false

theorem holdDump_upd (page : Nat) (off : Nat) (s : State) : Upd [.spads] s (holdDump page off s) := by
  unfold holdDump
  repeat' first
    | intro _
    | with_reducible assumption
    | with_reducible exact Upd.refl _
    | (extract_lets -underBinder +onlyGivenNames x; (with_reducible refine Upd.cut x ?_ ?_); rotate_left; (clear_value x; revert x; intro _ _); rotate_right; subst x)
    | (extract_lets -underBinder +onlyGivenNames x; clear_value x; revert x; intro _)
    | with_reducible apply Upd.ite <;> intro _
    | ((with_reducible apply Upd.go (putSpad_upd _ _ _)); rotate_left; exact rfl)
    | (generalize unitOfPage _ = u; split)
    | split

end Sys2Proof.Machine
end

