-- ==== Sys2Proof/Laws/UpdRegisters.lean ====
section
/-!
SUPPORT. What each operation of Machine/Registers can change, and that it keeps the canonical form.
-/

namespace Sys2Proof.Machine

set_option maxRecDepth 4000
set_option linter.all false

theorem lockAll_upd (u : UnitId) (s : State) : Upd [.regLock] s (lockAll u s) := by
  unfold lockAll
  repeat' first
    | intro _
    | with_reducible assumption
    | with_reducible exact Upd.refl _
    | ((with_reducible apply UpdS.snd); with_reducible assumption)
    | with_reducible apply Upd.foldl
    | with_reducible apply UpdS.foldl
    | ((with_reducible apply UpdS.snd); with_reducible apply UpdS.foldl)
    | ((with_reducible apply Upd.go (wr_upd _ _ _ _)); rotate_left; exact rfl)
    | with_reducible apply UpdS.mk
    | dsimp only

theorem dropActivations_upd (p : Nat) (s : State) : Upd [.outbox, .regIrq, .regMs, .floorAbove, .fwSlots] s (dropActivations p s) := by
  unfold dropActivations
  repeat' first
    | intro _
    | with_reducible assumption
    | with_reducible exact Upd.refl _
    | (extract_lets -underBinder +onlyGivenNames x; (with_reducible refine Upd.cut x ?_ ?_); rotate_left; (clear_value x; revert x; intro _ _); rotate_right; subst x)
    | (extract_lets -underBinder +onlyGivenNames x; clear_value x; revert x; intro _)
    | with_reducible apply Upd.ite <;> intro _
    | with_reducible apply Upd.forUpto
    | ((with_reducible apply Upd.go (wri_upd _ _ _ _ _)); rotate_left; exact rfl)
    | ((with_reducible apply Upd.go (floorCheck_upd _)); rotate_left; exact rfl)
    | ((with_reducible apply Upd.set_fwSlots); rotate_left; exact rfl)

/-- What `rollbackUnit` may change. -/
def rollbackUnit_parts : List Part :=
  [.outbox, .regCtl, .regIrq, .regLock, .regSet, .regErr, .regMs, .regEpo, .regLdg, .regSerai, .regEng, .regSpd, .regTmv, .regBkc, .regBku,
   .regMcs, .regDrv, .regBlk, .regRcv, .regFlt, .regEvl, .regOpt, .regBay, .regSes, .regRng, .regHif, .regSec, .regPwr, .regThm, .regClk,
   .regMgt, .staging, .prevSet, .floorAbove, .fwDone, .fwSlots]

theorem rollbackUnit_upd (p : Nat) (s : State) : Upd rollbackUnit_parts s (rollbackUnit p s) := by
  unfold rollbackUnit
  repeat' first
    | intro _
    | with_reducible assumption
    | with_reducible exact Upd.refl _
    | (extract_lets -underBinder +onlyGivenNames x; (with_reducible refine Upd.cut x ?_ ?_); rotate_left; (clear_value x; revert x; intro _ _); rotate_right; subst x)
    | (extract_lets -underBinder +onlyGivenNames x; clear_value x; revert x; intro _)
    | with_reducible apply Upd.ite <;> intro _
    | ((with_reducible apply Upd.go (flipSet_upd _ _ _ _)); rotate_left; exact rfl)
    | ((with_reducible apply Upd.go (discardStaged_upd _ _)); rotate_left; exact rfl)
    | ((with_reducible apply Upd.go (dropActivations_upd _ _)); rotate_left; exact rfl)
    | ((with_reducible apply Upd.set_fwDone); rotate_left; exact rfl)

theorem rollback_upd (u : UnitId) (s : State) : Upd rollbackUnit_parts s (rollback u s) := by
  unfold rollback
  repeat' first
    | intro _
    | with_reducible assumption
    | with_reducible exact Upd.refl _
    | ((with_reducible apply UpdS.snd); with_reducible assumption)
    | (extract_lets -underBinder +onlyGivenNames x; (with_reducible refine Upd.cut x ?_ ?_); rotate_left; (clear_value x; revert x; intro _ _); rotate_right; subst x)
    | (extract_lets -underBinder +onlyGivenNames x; clear_value x; revert x; intro _)
    | with_reducible apply Upd.ite <;> intro _
    | with_reducible apply Upd.foldl
    | with_reducible apply UpdS.foldl
    | ((with_reducible apply UpdS.snd); with_reducible apply UpdS.foldl)
    | ((with_reducible apply Upd.go (wr_upd _ _ _ _)); rotate_left; exact rfl)
    | ((with_reducible apply Upd.go (rollbackUnit_upd _ _)); rotate_left; exact rfl)
    | with_reducible apply UpdS.mk
    | dsimp only

theorem clearErr_upd (p : Nat) (s : State) : Upd [.regErr] s (clearErr p s) := by
  unfold clearErr
  repeat' first
    | intro _
    | with_reducible assumption
    | with_reducible exact Upd.refl _
    | ((with_reducible apply Upd.go (wr_upd _ _ _ _)); rotate_left; exact rfl)

theorem headerAct_upd (w : FieldWrite) (s : State) : UpdO busy s (headerAct w s) := by
  unfold headerAct
  repeat' first
    | intro _
    | with_reducible assumption
    | with_reducible exact Upd.refl _
    | (extract_lets -underBinder +onlyGivenNames x; (with_reducible refine UpdO.cut x ?_ ?_); rotate_left; (clear_value x; revert x; intro _ _); rotate_right; subst x)
    | (extract_lets -underBinder +onlyGivenNames x; (with_reducible refine Upd.cut x ?_ ?_); rotate_left; (clear_value x; revert x; intro _ _); rotate_right; subst x)
    | (extract_lets -underBinder +onlyGivenNames x; clear_value x; revert x; intro _)
    | with_reducible apply Upd.ite <;> intro _
    | with_reducible apply UpdO.ite <;> intro _
    | ((with_reducible apply Upd.go (putIrqStat_upd _ _ _)); rotate_left; exact rfl)
    | ((with_reducible apply Upd.go (putIrqEn_upd _ _ _)); rotate_left; exact rfl)
    | ((with_reducible apply Upd.go (raiseMask_upd _ _ _)); rotate_left; exact rfl)
    | ((with_reducible apply Upd.go (ctrlWrite_upd _ _ _)); rotate_left; exact rfl)
    | ((with_reducible apply Upd.go (lockAll_upd _ _)); rotate_left; exact rfl)
    | ((with_reducible apply Upd.go (rollback_upd _ _)); rotate_left; exact rfl)
    | ((with_reducible apply Upd.go (clearErr_upd _ _)); rotate_left; exact rfl)
    | with_reducible exact UpdO.none
    | with_reducible apply UpdO.some
    | split

theorem ldgRptr_upd (src : Nat) (new : Nat) (s : State) : Upd [.outbox, .regIrq, .regLock, .regErr, .regLdg, .regMcs, .regFlt, .ldgSeq,
    .ldgLost, .dram, .dramChk, .chans, .units, .snoop, .biWait, .servedBytes] s (ldgRptr src new s) := by
  unfold ldgRptr
  repeat' first
    | intro _
    | with_reducible assumption
    | with_reducible exact Upd.refl _
    | (extract_lets -underBinder +onlyGivenNames x; (with_reducible refine Upd.cut x ?_ ?_); rotate_left; (clear_value x; revert x; intro _ _); rotate_right; subst x)
    | (extract_lets -underBinder +onlyGivenNames x; clear_value x; revert x; intro _)
    | with_reducible apply Upd.ite <;> intro _
    | ((with_reducible apply Upd.go (wri_upd _ _ _ _ _)); rotate_left; exact rfl)
    | ((with_reducible apply Upd.go (wr_upd _ _ _ _)); rotate_left; exact rfl)
    | ((with_reducible apply Upd.go (ledgerPut_upd _ _ _ _)); rotate_left; exact rfl)
    | with_reducible apply SMap.wf_set
    | with_reducible apply SMap.wf_mapv
    | with_reducible apply SMap.wf_filter
    | with_reducible exact SMap.wf_nil
    | (first | with_reducible exact State.Ok.ldgLost (by assumption))
    | split
    | ((with_reducible apply Upd.set_ldgLost); rotate_left; exact rfl)

/-- What `chooseSource` may change. -/
def chooseSource_parts : List Part :=
  [.regCtl, .regIrq, .regLock, .regSet, .regErr, .regMs, .regEpo, .regLdg, .regSerai, .regEng, .regSpd, .regTmv, .regBkc, .regBku, .regMcs,
   .regDrv, .regBlk, .regRcv, .regFlt, .regEvl, .regOpt, .regBay, .regSes, .regRng, .regHif, .regSec, .regPwr, .regThm, .regClk, .regMgt,
   .staging, .sourceLost]

theorem chooseSource_upd (w : FieldWrite) (s : State) : Upd chooseSource_parts s (chooseSource w s) := by
  unfold chooseSource
  repeat' first
    | intro _
    | with_reducible assumption
    | with_reducible exact Upd.refl _
    | (extract_lets -underBinder +onlyGivenNames x; (with_reducible refine Upd.cut x ?_ ?_); rotate_left; (clear_value x; revert x; intro _ _); rotate_right; subst x)
    | (extract_lets -underBinder +onlyGivenNames x; clear_value x; revert x; intro _)
    | with_reducible apply Upd.ite <;> intro _
    | ((with_reducible apply Upd.go (writeRwl_upd _ _)); rotate_left; exact rfl)
    | split
    | ((with_reducible apply Upd.set_sourceLost); rotate_left; exact rfl)

/-- What `epoAct` may change. -/
def epoAct_parts : List Part :=
  [.outbox, .regCtl, .regIrq, .regLock, .regSet, .regErr, .regMs, .regEpo, .regLdg, .regSerai, .regEng, .regSpd, .regTmv, .regBkc, .regBku,
   .regMcs, .regDrv, .regBlk, .regRcv, .regFlt, .regEvl, .regOpt, .regBay, .regSes, .regRng, .regHif, .regSec, .regPwr, .regThm, .regClk,
   .regMgt, .staging, .prevSet, .vslots, .floorAbove, .sourceLost, .ldgSeq, .ldgLost, .dram, .dramChk, .chans, .units, .snoop, .biWait,
   .drovers, .servedBytes, .ports, .fwSlots]

theorem epoAct_upd (w : FieldWrite) (s : State) : UpdO epoAct_parts s (epoAct w s) := by
  unfold epoAct
  repeat' first
    | intro _
    | with_reducible assumption
    | with_reducible exact Upd.refl _
    | (extract_lets -underBinder +onlyGivenNames x; (with_reducible refine UpdO.cut x ?_ ?_); rotate_left; (clear_value x; revert x; intro _ _); rotate_right; subst x)
    | (extract_lets -underBinder +onlyGivenNames x; (with_reducible refine Upd.cut x ?_ ?_); rotate_left; (clear_value x; revert x; intro _ _); rotate_right; subst x)
    | (extract_lets -underBinder +onlyGivenNames x; clear_value x; revert x; intro _)
    | with_reducible apply Upd.ite <;> intro _
    | with_reducible apply UpdO.ite <;> intro _
    | ((with_reducible apply Upd.go (floorCheck_upd _)); rotate_left; exact rfl)
    | ((with_reducible apply Upd.go (vcmd_upd _ _ _ _)); rotate_left; exact rfl)
    | ((with_reducible apply Upd.go (writeRw_upd _ _)); rotate_left; exact rfl)
    | ((with_reducible apply Upd.go (advanceTx_upd _ _ _)); rotate_left; exact rfl)
    | ((with_reducible apply Upd.go (ldgRptr_upd _ _ _)); rotate_left; exact rfl)
    | ((with_reducible apply Upd.go (chooseSource_upd _ _)); rotate_left; exact rfl)
    | with_reducible exact UpdO.none
    | with_reducible apply UpdO.some
    | split

theorem winWrite_upd (k kind : Nat) (base cnt : Fld) (w : FieldWrite) (s : State) (hb : base.part = .regSerai) (hc : cnt.part = .regSerai) :
    Upd [.regLock, .regSerai] s (winWrite k kind base cnt w s) := by
  unfold winWrite
  extract_lets p b c
  refine Upd.ite (fun _ => Upd.ite (fun _ => Upd.refl s) fun _ => Upd.go (wr_upd _ _ _ _) (Upd.refl s) rfl) fun _ => ?_
  refine Upd.ite (fun _ => Upd.go (wr_upd _ _ _ _) (Upd.refl s) rfl) fun _ => ?_
  exact Upd.go (wri_upd _ _ _ _ _) (Upd.go (wri_upd _ _ _ _ _) (Upd.refl s) (by rw [hc]; rfl)) (by rw [hb]; rfl)

theorem seraiAct_upd (k : Nat) (w : FieldWrite) (s : State) : UpdO [.outbox, .regIrq, .regLock, .regErr, .regLdg, .regSerai, .regMcs,
    .regFlt, .ldgSeq, .ldgLost, .ctxs, .runs, .spads, .serais, .dram, .dramChk, .chans, .units, .snoop, .biWait, .servedBytes] s (seraiAct
    k w s) := by
  unfold seraiAct
  repeat' first
    | intro _
    | with_reducible assumption
    | with_reducible exact Upd.refl _
    | (extract_lets -underBinder +onlyGivenNames x; (with_reducible refine UpdO.cut x ?_ ?_); rotate_left; (clear_value x; revert x; intro _ _); rotate_right; subst x)
    | (extract_lets -underBinder +onlyGivenNames x; (with_reducible refine Upd.cut x ?_ ?_); rotate_left; (clear_value x; revert x; intro _ _); rotate_right; subst x)
    | (extract_lets -underBinder +onlyGivenNames x; clear_value x; revert x; intro _)
    | with_reducible apply Upd.ite <;> intro _
    | with_reducible apply UpdO.ite <;> intro _
    | ((with_reducible apply Upd.go (hop_upd _ _ _ _ _)); rotate_left; exact rfl)
    | ((with_reducible apply Upd.go (winWrite_upd _ _ _ _ _ _ rfl rfl)); rotate_left; exact rfl)
    | with_reducible exact UpdO.none
    | with_reducible apply UpdO.some
    | split

theorem bkuAct_upd (d : Nat) (w : FieldWrite) (s : State) : UpdO abGo_parts s (bkuAct d w s) := by
  unfold bkuAct
  repeat' first
    | intro _
    | with_reducible assumption
    | with_reducible exact Upd.refl _
    | (extract_lets -underBinder +onlyGivenNames x; (with_reducible refine UpdO.cut x ?_ ?_); rotate_left; (clear_value x; revert x; intro _ _); rotate_right; subst x)
    | (extract_lets -underBinder +onlyGivenNames x; (with_reducible refine Upd.cut x ?_ ?_); rotate_left; (clear_value x; revert x; intro _ _); rotate_right; subst x)
    | (extract_lets -underBinder +onlyGivenNames x; clear_value x; revert x; intro _)
    | with_reducible apply Upd.ite <;> intro _
    | with_reducible apply UpdO.ite <;> intro _
    | ((with_reducible apply Upd.go (hmReqWrite_upd _ _ _)); rotate_left; exact rfl)
    | ((with_reducible apply Upd.go (hostGangWrite_upd _ _ _)); rotate_left; exact rfl)
    | ((with_reducible apply Upd.go (abGo_upd _ _)); rotate_left; exact rfl)
    | with_reducible exact UpdO.none
    | with_reducible apply UpdO.some
    | split

theorem clearFreeze_upd (p : Nat) (s : State) : Upd [.regMcs] s (clearFreeze p s) := by
  unfold clearFreeze
  have hp : ∀ f ∈ freezeFlds, within [f.part] [.regMcs] = true := by decide
  exact List.foldlRecOn _ _ (Upd.refl s) fun t ht f hf => Upd.forUpto ht fun i u hu => Upd.go (wri_upd _ _ _ _ _) hu (hp f hf)

theorem mcsAct_upd (d : Nat) (w : FieldWrite) (s : State) : UpdO [.outbox, .freeCtr, .regIrq, .regLock, .regErr, .regLdg, .regBku,
    .regMcs, .regFlt, .ldgSeq, .ldgLost, .dram, .dramChk, .chans, .units, .flights, .snoop, .biWait, .ceWins, .servedBytes] s (mcsAct d w
    s) := by
  unfold mcsAct
  repeat' first
    | intro _
    | with_reducible assumption
    | with_reducible exact Upd.refl _
    | (extract_lets -underBinder +onlyGivenNames x; (with_reducible refine UpdO.cut x ?_ ?_); rotate_left; (clear_value x; revert x; intro _ _); rotate_right; subst x)
    | (extract_lets -underBinder +onlyGivenNames x; (with_reducible refine Upd.cut x ?_ ?_); rotate_left; (clear_value x; revert x; intro _ _); rotate_right; subst x)
    | (extract_lets -underBinder +onlyGivenNames x; clear_value x; revert x; intro _)
    | with_reducible apply Upd.ite <;> intro _
    | with_reducible apply UpdO.ite <;> intro _
    | ((with_reducible apply Upd.go (frzForce_upd _ _ _)); rotate_left; exact rfl)
    | ((with_reducible apply Upd.go (frzRelease_upd _ _ _ _)); rotate_left; exact rfl)
    | ((with_reducible apply Upd.go (mapWrite_upd _ _ _ _)); rotate_left; exact rfl)
    | ((with_reducible apply Upd.go (mapWords_upd _ _ _ _ _)); rotate_left; exact rfl)
    | ((with_reducible apply Upd.go (clearFreeze_upd _ _)); rotate_left; exact rfl)
    | with_reducible exact UpdO.none
    | with_reducible apply UpdO.some
    | split

/-- What `drvAct` may change. -/
def drvAct_parts : List Part :=
  [.outbox, .freeCtr, .regCtl, .regIrq, .regLock, .regSet, .regErr, .regMs, .regEpo, .regLdg, .regSerai, .regEng, .regSpd, .regTmv, .regBkc,
   .regBku, .regMcs, .regDrv, .regBlk, .regRcv, .regFlt, .regEvl, .regOpt, .regBay, .regSes, .regRng, .regHif, .regSec, .regPwr, .regThm,
   .regClk, .regMgt, .staging, .prevSet, .vslots, .floorAbove, .ldgSeq, .ldgLost, .dram, .dramChk, .chans, .units, .flights, .snoop,
   .biWait, .ceWins, .drovers, .servedBytes, .fwSlots]

theorem drvAct_upd (n : Nat) (w : FieldWrite) (s : State) : UpdO drvAct_parts s (drvAct n w s) := by
  unfold drvAct
  repeat' first
    | intro _
    | with_reducible assumption
    | with_reducible exact Upd.refl _
    | (extract_lets -underBinder +onlyGivenNames x; (with_reducible refine UpdO.cut x ?_ ?_); rotate_left; (clear_value x; revert x; intro _ _); rotate_right; subst x)
    | (extract_lets -underBinder +onlyGivenNames x; (with_reducible refine Upd.cut x ?_ ?_); rotate_left; (clear_value x; revert x; intro _ _); rotate_right; subst x)
    | (extract_lets -underBinder +onlyGivenNames x; clear_value x; revert x; intro _)
    | with_reducible apply Upd.ite <;> intro _
    | with_reducible apply UpdO.ite <;> intro _
    | ((with_reducible apply Upd.go (segGo_upd _ _ _)); rotate_left; exact rfl)
    | ((with_reducible apply Upd.go (poolEnable_upd _ _ _ _)); rotate_left; exact rfl)
    | with_reducible exact UpdO.none
    | with_reducible apply UpdO.some
    | split

theorem eachPart_upd {m : List Part} {a s : State} {k : Nat} {f : Nat → State → State} (h : Upd m a s)
    (hf : ∀ n t, Upd m a t → Upd m a (f n t)) : Upd m a (eachPart k f s) := by
  unfold eachPart
  exact Upd.forUpto h fun n t ht => Upd.ite (fun _ => hf n t ht) fun _ => ht

theorem testModeWrite_upd (w : FieldWrite) (s : State) : Upd [.outbox, .freeCtr, .regIrq, .regErr, .regLdg, .regBku, .regMcs, .regFlt,
    .ldgSeq, .ldgLost, .dram, .dramChk, .chans, .units, .flights, .snoop, .biWait, .ceWins, .servedBytes] s (testModeWrite w s) := by
  unfold testModeWrite
  repeat' first
    | intro _
    | with_reducible assumption
    | with_reducible exact Upd.refl _
    | (extract_lets -underBinder +onlyGivenNames x; (with_reducible refine Upd.cut x ?_ ?_); rotate_left; (clear_value x; revert x; intro _ _); rotate_right; subst x)
    | (extract_lets -underBinder +onlyGivenNames x; (with_reducible refine isFn x ?_); subst x)
    | (extract_lets -underBinder +onlyGivenNames x; clear_value x; revert x; intro _)
    | with_reducible apply Upd.ite <;> intro _
    | ((with_reducible apply Upd.go (wri_upd _ _ _ _ _)); rotate_left; exact rfl)
    | ((with_reducible apply Upd.go (testMode_upd _ _)); rotate_left; exact rfl)

/-- What `fltAct` may change. -/
def fltAct_parts : List Part :=
  [.outbox, .freeCtr, .regCtl, .regIrq, .regLock, .regErr, .regLdg, .regSpd, .regBku, .regMcs, .regDrv, .regRcv, .regFlt, .regRng, .regPwr,
   .regClk, .floorAbove, .ldgSeq, .ldgLost, .ctxs, .pms, .engines, .spads, .spad, .spadChk, .serais, .loading, .sess, .dram, .dramChk,
   .chans, .units, .flights, .snoop, .biWait, .ceWins, .drovers, .servedBytes, .ports, .recov, .winOpen, .psNext, .divided]

theorem fltAct_upd (w : FieldWrite) (s : State) : UpdO fltAct_parts s (fltAct w s) := by
  unfold fltAct
  repeat' first
    | intro _
    | with_reducible assumption
    | with_reducible exact Upd.refl _
    | (extract_lets -underBinder +onlyGivenNames x; (with_reducible refine UpdO.cut x ?_ ?_); rotate_left; (clear_value x; revert x; intro _ _); rotate_right; subst x)
    | (extract_lets -underBinder +onlyGivenNames x; (with_reducible refine Upd.cut x ?_ ?_); rotate_left; (clear_value x; revert x; intro _ _); rotate_right; subst x)
    | (extract_lets -underBinder +onlyGivenNames x; clear_value x; revert x; intro _)
    | with_reducible apply Upd.ite <;> intro _
    | with_reducible apply UpdO.ite <;> intro _
    | ((with_reducible apply Upd.go (wr_upd _ _ _ _)); rotate_left; exact rfl)
    | ((with_reducible apply Upd.go (repairGo_upd _)); rotate_left; exact rfl)
    | ((with_reducible apply Upd.go (resetGo_upd _ _)); rotate_left; exact rfl)
    | ((with_reducible apply Upd.go (readmit_upd _ _)); rotate_left; exact rfl)
    | with_reducible apply eachPart_upd
    | ((with_reducible apply Upd.go (testModeWrite_upd _ _)); rotate_left; exact rfl)
    | with_reducible exact UpdO.none
    | with_reducible apply UpdO.some
    | split

/-- What `evlAct` may change. -/
def evlAct_parts : List Part :=
  [.outbox, .freeCtr, .regIrq, .regLock, .regErr, .regLdg, .regSpd, .regTmv, .regBku, .regMcs, .regFlt, .regEvl, .sourceLost, .ldgSeq,
   .ldgLost, .ctxs, .runs, .engines, .spads, .spad, .spadChk, .serais, .dram, .dramChk, .chans, .units, .flights, .snoop, .biWait,
   .ceWins, .servedBytes, .ports, .members, .left]

theorem evlAct_upd (p : Nat) (w : FieldWrite) (s : State) : UpdO evlAct_parts s (evlAct p w s) := by
  unfold evlAct
  repeat' first
    | intro _
    | with_reducible assumption
    | with_reducible exact Upd.refl _
    | (extract_lets -underBinder +onlyGivenNames x; (with_reducible refine UpdO.cut x ?_ ?_); rotate_left; (clear_value x; revert x; intro _ _); rotate_right; subst x)
    | (extract_lets -underBinder +onlyGivenNames x; (with_reducible refine Upd.cut x ?_ ?_); rotate_left; (clear_value x; revert x; intro _ _); rotate_right; subst x)
    | (extract_lets -underBinder +onlyGivenNames x; clear_value x; revert x; intro _)
    | with_reducible apply Upd.ite <;> intro _
    | with_reducible apply UpdO.ite <;> intro _
    | ((with_reducible apply Upd.go (portEnWrite_upd _ _ _)); rotate_left; exact rfl)
    | ((with_reducible apply Upd.go (retrain_upd _ _)); rotate_left; exact rfl)
    | ((with_reducible apply Upd.go (mbrLeave_upd _)); rotate_left; exact rfl)
    | ((with_reducible apply Upd.go (selfAddrWrite_upd _ _ _)); rotate_left; exact rfl)
    | ((with_reducible apply Upd.go (mbrClear_upd _ _)); rotate_left; exact rfl)
    | with_reducible exact UpdO.none
    | with_reducible apply UpdO.some
    | split

theorem bayAct_upd (b : Nat) (w : FieldWrite) (s : State) : UpdO prepare_parts s (bayAct b w s) := by
  unfold bayAct
  repeat' first
    | intro _
    | with_reducible assumption
    | with_reducible exact Upd.refl _
    | (extract_lets -underBinder +onlyGivenNames x; (with_reducible refine UpdO.cut x ?_ ?_); rotate_left; (clear_value x; revert x; intro _ _); rotate_right; subst x)
    | (extract_lets -underBinder +onlyGivenNames x; (with_reducible refine Upd.cut x ?_ ?_); rotate_left; (clear_value x; revert x; intro _ _); rotate_right; subst x)
    | (extract_lets -underBinder +onlyGivenNames x; clear_value x; revert x; intro _)
    | with_reducible apply Upd.ite <;> intro _
    | with_reducible apply UpdO.ite <;> intro _
    | ((with_reducible apply Upd.go (wr_upd _ _ _ _)); rotate_left; exact rfl)
    | ((with_reducible apply Upd.go (prepare_upd _ _)); rotate_left; exact rfl)
    | ((with_reducible apply Upd.go (cancelPrepare_upd _ _)); rotate_left; exact rfl)
    | ((with_reducible apply Upd.go (startWarming_upd _ _)); rotate_left; exact rfl)
    | with_reducible exact UpdO.none
    | with_reducible apply UpdO.some
    | split

/-- What `hifAct` may change. -/
def hifAct_parts : List Part :=
  [.outbox, .freeCtr, .regIrq, .regLock, .regErr, .regLdg, .regBku, .regMcs, .regFlt, .regSes, .regRng, .ldgSeq, .ldgLost, .ctxs, .runs,
   .spads, .loadQ, .sess, .dram, .dramChk, .chans, .units, .flights, .snoop, .biWait, .ceWins, .servedBytes]

theorem hifAct_upd (w : FieldWrite) (s : State) : UpdO hifAct_parts s (hifAct w s) := by
  unfold hifAct
  repeat' first
    | intro _
    | with_reducible assumption
    | with_reducible exact Upd.refl _
    | (extract_lets -underBinder +onlyGivenNames x; (with_reducible refine UpdO.cut x ?_ ?_); rotate_left; (clear_value x; revert x; intro _ _); rotate_right; subst x)
    | (extract_lets -underBinder +onlyGivenNames x; (with_reducible refine Upd.cut x ?_ ?_); rotate_left; (clear_value x; revert x; intro _ _); rotate_right; subst x)
    | (extract_lets -underBinder +onlyGivenNames x; clear_value x; revert x; intro _)
    | with_reducible apply Upd.ite <;> intro _
    | with_reducible apply UpdO.ite <;> intro _
    | ((with_reducible apply Upd.go (wr_upd _ _ _ _)); rotate_left; exact rfl)
    | ((with_reducible apply Upd.go (sessResult_upd _ _ _)); rotate_left; exact rfl)
    | ((with_reducible apply Upd.go (sessOpen_upd _ _)); rotate_left; exact rfl)
    | ((with_reducible apply Upd.go (sessClose_upd _ _)); rotate_left; exact rfl)
    | with_reducible exact UpdO.none
    | with_reducible apply UpdO.some
    | split

theorem regAct_upd (w : FieldWrite) (s : State) : UpdO busy s (regAct w s) := by
  unfold regAct
  repeat' first
    | intro _
    | with_reducible assumption
    | with_reducible exact Upd.refl _
    | (extract_lets -underBinder +onlyGivenNames x; (with_reducible refine UpdO.cut x ?_ ?_); rotate_left; (clear_value x; revert x; intro _ _); rotate_right; subst x)
    | (extract_lets -underBinder +onlyGivenNames x; (with_reducible refine Upd.cut x ?_ ?_); rotate_left; (clear_value x; revert x; intro _ _); rotate_right; subst x)
    | (extract_lets -underBinder +onlyGivenNames x; (with_reducible refine UpdO.cutO x ?_ ?_); rotate_left; (clear_value x; revert x; intro _ _); rotate_right; subst x)
    | (extract_lets -underBinder +onlyGivenNames x; (with_reducible refine Upd.cutO x ?_ ?_); rotate_left; (clear_value x; revert x; intro _ _); rotate_right; subst x)
    | (extract_lets -underBinder +onlyGivenNames x; clear_value x; revert x; intro _)
    | with_reducible apply Upd.ite <;> intro _
    | with_reducible apply UpdO.ite <;> intro _
    | ((with_reducible apply Upd.go (retGo_upd _)); rotate_left; exact rfl)
    | ((with_reducible apply Upd.go (psGo_upd _)); rotate_left; exact rfl)
    | ((with_reducible apply Upd.go (pwrPartOos_upd _ _)); rotate_left; exact rfl)
    | ((with_reducible apply Upd.go (sensClear_upd _)); rotate_left; exact rfl)
    | ((with_reducible apply Upd.go (unlockAll_upd _)); rotate_left; exact rfl)
    | ((with_reducible apply UpdO.go (headerAct_upd _ _)); rotate_left; exact rfl)
    | ((with_reducible apply UpdO.go (epoAct_upd _ _)); rotate_left; exact rfl)
    | ((with_reducible apply UpdO.go (seraiAct_upd _ _ _)); rotate_left; exact rfl)
    | ((with_reducible apply UpdO.go (bkuAct_upd _ _ _)); rotate_left; exact rfl)
    | ((with_reducible apply UpdO.go (mcsAct_upd _ _ _)); rotate_left; exact rfl)
    | ((with_reducible apply UpdO.go (drvAct_upd _ _ _)); rotate_left; exact rfl)
    | with_reducible apply eachPart_upd
    | ((with_reducible apply UpdO.go (fltAct_upd _ _)); rotate_left; exact rfl)
    | ((with_reducible apply UpdO.go (evlAct_upd _ _ _)); rotate_left; exact rfl)
    | ((with_reducible apply UpdO.go (bayAct_upd _ _ _)); rotate_left; exact rfl)
    | ((with_reducible apply UpdO.go (hifAct_upd _ _)); rotate_left; exact rfl)
    | with_reducible exact UpdO.none
    | with_reducible apply UpdO.some
    | ((with_reducible apply UpdO.of_eq); with_reducible assumption)
    | split

theorem hostRegWrite_upd (page : Nat) (off : Nat) (width : Nat) (v : Nat) (s : State) : Upd busy s (hostRegWrite page off width v s) :=
    by
  unfold hostRegWrite
  repeat' first
    | intro _
    | with_reducible assumption
    | with_reducible exact Upd.refl _
    | ((with_reducible apply regWrite_upd); rotate_left; exact rfl)
    | ((with_reducible apply UpdO.go (regAct_upd _ _)); rotate_left; exact rfl)
    | with_reducible exact UpdO.none
    | with_reducible apply UpdO.some

theorem execRegWrite_upd (page : Nat) (off : Nat) (width : Nat) (value : Nat) (s : State) : UpdR busy s (execRegWrite page off width value
    s) := by
  unfold execRegWrite
  repeat' first
    | intro _
    | with_reducible assumption
    | with_reducible exact Upd.refl _
    | with_reducible apply UpdR.next
    | ((with_reducible apply Upd.go (hostRegWrite_upd _ _ _ _ _)); rotate_left; exact rfl)

/-- What `execReadClear` may change. -/
def execReadClear_parts : List Part :=
  [.outbox, .regCtl, .regIrq, .regLock, .regSet, .regErr, .regMs, .regEpo, .regLdg, .regSerai, .regEng, .regSpd, .regTmv, .regBkc, .regBku,
   .regMcs, .regDrv, .regBlk, .regRcv, .regFlt, .regEvl, .regOpt, .regBay, .regSes, .regRng, .regHif, .regSec, .regPwr, .regThm, .regClk,
   .regMgt, .spads]

theorem execReadClear_upd (page : Nat) (off : Nat) (width : Nat) (s : State) : UpdR execReadClear_parts s (execReadClear page off width s)
    := by
  unfold execReadClear
  repeat' first
    | intro _
    | with_reducible assumption
    | with_reducible exact Upd.refl _
    | with_reducible apply UpdR.next
    | ((with_reducible apply Upd.go (regRead_upd _ _ _ _ _)); rotate_left; exact rfl)
    | ((with_reducible apply Upd.go (holdDump_upd _ _ _)); rotate_left; exact rfl)

theorem execPageLockSet_upd (page : Nat) (s : State) : UpdR busy s (execPageLockSet page s) := by
  unfold execPageLockSet
  repeat' first
    | intro _
    | with_reducible assumption
    | with_reducible exact Upd.refl _
    | with_reducible apply UpdR.next
    | ((with_reducible apply Upd.go (hostRegWrite_upd _ _ _ _ _)); rotate_left; exact rfl)

theorem execIrqForce_upd (page : Nat) (mask : Nat) (s : State) : UpdR busy s (execIrqForce page mask s) := by
  unfold execIrqForce
  repeat' first
    | intro _
    | with_reducible assumption
    | with_reducible exact Upd.refl _
    | with_reducible apply UpdR.next
    | ((with_reducible apply Upd.go (hostRegWrite_upd _ _ _ _ _)); rotate_left; exact rfl)

theorem execRollback_upd (page : Nat) (s : State) : UpdR busy s (execRollback page s) := by
  unfold execRollback
  repeat' first
    | intro _
    | with_reducible assumption
    | with_reducible exact Upd.refl _
    | with_reducible apply UpdR.next
    | ((with_reducible apply Upd.go (hostRegWrite_upd _ _ _ _ _)); rotate_left; exact rfl)

theorem execCfgSetFieldWrite_upd (page : Nat) (off : Nat) (width : Nat) (value : Nat) (s : State) : UpdR busy s (execCfgSetFieldWrite page
    off width value s) := by
  unfold execCfgSetFieldWrite
  repeat' first
    | intro _
    | with_reducible assumption
    | with_reducible exact Upd.refl _
    | with_reducible apply Upd.ite <;> intro _
    | with_reducible apply UpdR.ite <;> intro _
    | with_reducible apply UpdR.next
    | ((with_reducible apply Upd.go (hostRegWrite_upd _ _ _ _ _)); rotate_left; exact rfl)

theorem execMilestoneArm_upd (page : Nat) (slot : Nat) (epoch : Option Nat) (action : Nat) (arg : Nat) (s : State) : UpdR busy s
    (execMilestoneArm page slot epoch action arg s) := by
  unfold execMilestoneArm
  repeat' first
    | intro _
    | with_reducible assumption
    | with_reducible exact Upd.refl _
    | (extract_lets -underBinder +onlyGivenNames x; (with_reducible refine UpdR.cut x ?_ ?_); rotate_left; (clear_value x; revert x; intro _ _); rotate_right; subst x)
    | (extract_lets -underBinder +onlyGivenNames x; (with_reducible refine Upd.cut x ?_ ?_); rotate_left; (clear_value x; revert x; intro _ _); rotate_right; subst x)
    | (extract_lets -underBinder +onlyGivenNames x; clear_value x; revert x; intro _)
    | with_reducible apply UpdR.next
    | ((with_reducible apply Upd.go (hostRegWrite_upd _ _ _ _ _)); rotate_left; exact rfl)
    | split

theorem execMilestoneDisarm_upd (page : Nat) (slot : Nat) (s : State) : UpdR busy s (execMilestoneDisarm page slot s) := by
  unfold execMilestoneDisarm
  repeat' first
    | intro _
    | with_reducible assumption
    | with_reducible exact Upd.refl _
    | with_reducible apply UpdR.next
    | ((with_reducible apply Upd.go (hostRegWrite_upd _ _ _ _ _)); rotate_left; exact rfl)

theorem execLdgRptrWrite_upd (value : Nat) (s : State) : UpdR busy s (execLdgRptrWrite value s) := by
  unfold execLdgRptrWrite
  repeat' first
    | intro _
    | with_reducible assumption
    | with_reducible exact Upd.refl _
    | with_reducible apply UpdR.next
    | ((with_reducible apply Upd.go (hostRegWrite_upd _ _ _ _ _)); rotate_left; exact rfl)

end Sys2Proof.Machine
end

