-- ==== Sys2Proof/Laws/UpdExec.lean ====
section
/-!
SUPPORT. No command changes the queue of commands or the variant, takes back a message, or leaves the canonical form.
-/

namespace Sys2Proof.Machine

/-- What any command can do. -/
theorem exec_upd (i : Instr) (s : State) : UpdR busy s (exec i s) :=
  match i with
  | .regWrite page off width value => UpdR.go (execRegWrite_upd page off width value s) (Upd.refl s) rfl
  | .readClear page off width => UpdR.go (execReadClear_upd page off width s) (Upd.refl s) rfl
  | .sync page => UpdR.go (execSync_upd page s) (Upd.refl s) rfl
  | .fence page => UpdR.go (execFence_upd page s) (Upd.refl s) rfl
  | .unfence page => UpdR.go (execUnfence_upd page s) (Upd.refl s) rfl
  | .reset page => UpdR.go (execReset_upd page s) (Upd.refl s) rfl
  | .ctrlOpComplete page kind => UpdR.go (execCtrlOpComplete_upd page kind s) (Upd.refl s) rfl
  | .pageLockSet page => UpdR.go (execPageLockSet_upd page s) (Upd.refl s) rfl
  | .irqForce page mask => UpdR.go (execIrqForce_upd page mask s) (Upd.refl s) rfl
  | .rollback page => UpdR.go (execRollback_upd page s) (Upd.refl s) rfl
  | .cfgSetFieldWrite page off width value => UpdR.go (execCfgSetFieldWrite_upd page off width value s) (Upd.refl s) rfl
  | .milestoneArm page slot epoch action arg => UpdR.go (execMilestoneArm_upd page slot epoch action arg s) (Upd.refl s) rfl
  | .milestoneDisarm page slot => UpdR.go (execMilestoneDisarm_upd page slot s) (Upd.refl s) rfl
  | .epochAdvance target => UpdR.go (execEpochAdvance_upd target s) (Upd.refl s) rfl
  | .epochBroadcast port => UpdR.go (execEpochBroadcast_upd port s) (Upd.refl s) rfl
  | .install region slot => UpdR.go (execInstall_upd region slot s) (Upd.refl s) rfl
  | .close region slot => UpdR.go (execClose_upd region slot s) (Upd.refl s) rfl
  | .query region slot => UpdR.go (execQuery_upd region slot s) (Upd.refl s) rfl
  | .free region slot => UpdR.go (execFree_upd region slot s) (Upd.refl s) rfl
  | .ldgRptrWrite value => UpdR.go (execLdgRptrWrite_upd value s) (Upd.refl s) rfl
  | .sqTail sess value => UpdR.go (execSqTail_upd sess value s) (Upd.refl s) rfl
  | .cqHead sess value => UpdR.go (execCqHead_upd sess value s) (Upd.refl s) rfl
  | .sqFetch sess entry poison => UpdR.go (execSqFetch_upd sess entry poison s) (Upd.refl s) rfl
  | .sqNop sess => UpdR.go (execSqNop_upd sess s) (Upd.refl s) rfl
  | .sqLoad sess => UpdR.go (execSqLoad_upd sess s) (Upd.refl s) rfl
  | .loaderDequeue elapsedUs => UpdR.go (execLoaderDequeue_upd elapsedUs s) (Upd.refl s) rfl
  | .loadSlots => UpdR.go (execLoadSlots_upd s) (Upd.refl s) rfl
  | .loadComplete elapsedUs => UpdR.go (execLoadComplete_upd elapsedUs s) (Upd.refl s) rfl
  | .loadWaitExpire elapsedUs => UpdR.go (execLoadWaitExpire_upd elapsedUs s) (Upd.refl s) rfl
  | .loadQuery sess => UpdR.go (execLoadQuery_upd sess s) (Upd.refl s) rfl
  | .run sess => UpdR.go (execRun_upd sess s) (Upd.refl s) rfl
  | .abort sess => UpdR.go (execAbort_upd sess s) (Upd.refl s) rfl
  | .runComplete run => UpdR.go (execRunComplete_upd run s) (Upd.refl s) rfl
  | .sessOpen sess => UpdR.go (execSessOpen_upd sess s) (Upd.refl s) rfl
  | .sessClose sess => UpdR.go (execSessClose_upd sess s) (Upd.refl s) rfl
  | .sessionClosed sess => UpdR.go (execSessionClosed_upd sess s) (Upd.refl s) rfl
  | .fenceReq sess token => UpdR.go (execFenceReq_upd sess token s) (Upd.refl s) rfl
  | .memFenceDone sess => UpdR.go (execMemFenceDone_upd sess s) (Upd.refl s) rfl
  | .hsigSet sess idx => UpdR.go (execHsigSet_upd sess idx s) (Upd.refl s) rfl
  | .hsigClear sess idx => UpdR.go (execHsigClear_upd sess idx s) (Upd.refl s) rfl
  | .descLoad core ctx q => UpdR.go (execDescLoad_upd core ctx q s) (Upd.refl s) rfl
  | .descStart core ctx q => UpdR.go (execDescStart_upd core ctx q s) (Upd.refl s) rfl
  | .descComplete core ctx q cycles => UpdR.go (execDescComplete_upd core ctx q cycles s) (Upd.refl s) rfl
  | .nop core ctx q => UpdR.go (execNop_upd core ctx q s) (Upd.refl s) rfl
  | .wait core ctx q => UpdR.go (execWait_upd core ctx q s) (Upd.refl s) rfl
  | .barrier core ctx q => UpdR.go (execBarrier_upd core ctx q s) (Upd.refl s) rfl
  | .endDesc core ctx q => UpdR.go (execEnd_upd core ctx q s) (Upd.refl s) rfl
  | .ctxBind core ctx => UpdR.go (execCtxBind_upd core ctx s) (Upd.refl s) rfl
  | .epochWait core ctx => UpdR.go (execEpochWait_upd core ctx s) (Upd.refl s) rfl
  | .flagSet core ctx => UpdR.go (execFlagSet_upd core ctx s) (Upd.refl s) rfl
  | .flagClear core ctx => UpdR.go (execFlagClear_upd core ctx s) (Upd.refl s) rfl
  | .flagToggle core ctx => UpdR.go (execFlagToggle_upd core ctx s) (Upd.refl s) rfl
  | .flagWait core ctx => UpdR.go (execFlagWait_upd core ctx s) (Upd.refl s) rfl
  | .ctrAdd core ctx => UpdR.go (execCtrAdd_upd core ctx s) (Upd.refl s) rfl
  | .ctrSet core ctx => UpdR.go (execCtrSet_upd core ctx s) (Upd.refl s) rfl
  | .ctrWait core ctx => UpdR.go (execCtrWait_upd core ctx s) (Upd.refl s) rfl
  | .barInit core ctx => UpdR.go (execBarInit_upd core ctx s) (Upd.refl s) rfl
  | .barArrive core ctx => UpdR.go (execBarArrive_upd core ctx s) (Upd.refl s) rfl
  | .barWait core ctx => UpdR.go (execBarWait_upd core ctx s) (Upd.refl s) rfl
  | .remoteSignal core ctx => UpdR.go (execRemoteSignal_upd core ctx s) (Upd.refl s) rfl
  | .hostNotify core ctx => UpdR.go (execHostNotify_upd core ctx s) (Upd.refl s) rfl
  | .hopRead sy kind idx => UpdR.go (execHopRead_upd sy kind idx s) (Upd.refl s) rfl
  | .hopFlagSet sy kind idx => UpdR.go (execHopFlagSet_upd sy kind idx s) (Upd.refl s) rfl
  | .hopFlagClear sy kind idx => UpdR.go (execHopFlagClear_upd sy kind idx s) (Upd.refl s) rfl
  | .hopCtrAdd sy kind idx => UpdR.go (execHopCtrAdd_upd sy kind idx s) (Upd.refl s) rfl
  | .hopCtrSet sy kind idx => UpdR.go (execHopCtrSet_upd sy kind idx s) (Upd.refl s) rfl
  | .hopBarInit sy kind idx => UpdR.go (execHopBarInit_upd sy kind idx s) (Upd.refl s) rfl
  | .hopBarArrive sy kind idx => UpdR.go (execHopBarArrive_upd sy kind idx s) (Upd.refl s) rfl
  | .dbgRelease sy kind idx => UpdR.go (execDbgRelease_upd sy kind idx s) (Upd.refl s) rfl
  | .dbgWithdraw sy kind idx => UpdR.go (execDbgWithdraw_upd sy kind idx s) (Upd.refl s) rfl
  | .heldSignalApply sy pos => UpdR.go (execHeldSignalApply_upd sy pos s) (Upd.refl s) rfl
  | .wdogFire core ctx => UpdR.go (execWdogFire_upd core ctx s) (Upd.refl s) rfl
  | .matmul core ctx => UpdR.go (execMatmul_upd core ctx s) (Upd.refl s) rfl
  | .vxMap core ctx => UpdR.go (execVxMap_upd core ctx s) (Upd.refl s) rfl
  | .vxReduce core ctx => UpdR.go (execVxReduce_upd core ctx s) (Upd.refl s) rfl
  | .vxSoftmax core ctx => UpdR.go (execVxSoftmax_upd core ctx s) (Upd.refl s) rfl
  | .vxNorm core ctx => UpdR.go (execVxNorm_upd core ctx s) (Upd.refl s) rfl
  | .vxSort core ctx => UpdR.go (execVxSort_upd core ctx s) (Upd.refl s) rfl
  | .vxTopk core ctx => UpdR.go (execVxTopk_upd core ctx s) (Upd.refl s) rfl
  | .vxSample core ctx => UpdR.go (execVxSample_upd core ctx s) (Upd.refl s) rfl
  | .vxConvert core ctx => UpdR.go (execVxConvert_upd core ctx s) (Upd.refl s) rfl
  | .vxSelect core ctx => UpdR.go (execVxSelect_upd core ctx s) (Upd.refl s) rfl
  | .sbClaim core ctx q => UpdR.go (execSbClaim_upd core ctx q s) (Upd.refl s) rfl
  | .sbRelease core ctx q k entry => UpdR.go (execSbRelease_upd core ctx q k entry s) (Upd.refl s) rfl
  | .narrowWriteback core line => UpdR.go (execNarrowWriteback_upd core line s) (Upd.refl s) rfl
  | .debugWindowAccess dpa len write data poison => UpdR.go (execDebugWindowAccess_upd dpa len write data poison s) (Upd.refl s) rfl
  | .spadPoisonMark core => UpdR.go (execSpadPoisonMark_upd core s) (Upd.refl s) rfl
  | .load core ctx => UpdR.go (execLoad_upd core ctx s) (Upd.refl s) rfl
  | .store core ctx => UpdR.go (execStore_upd core ctx s) (Upd.refl s) rfl
  | .gather core ctx => UpdR.go (execGather_upd core ctx s) (Upd.refl s) rfl
  | .scatter core ctx => UpdR.go (execScatter_upd core ctx s) (Upd.refl s) rfl
  | .retryReissue core ctx q => UpdR.go (execRetryReissue_upd core ctx q s) (Upd.refl s) rfl
  | .bkMvs core ctx => UpdR.go (execBkMvs_upd core ctx s) (Upd.refl s) rfl
  | .bkDot core ctx => UpdR.go (execBkDot_upd core ctx s) (Upd.refl s) rfl
  | .bkGred core ctx => UpdR.go (execBkGred_upd core ctx s) (Upd.refl s) rfl
  | .bkPqscan core ctx => UpdR.go (execBkPqscan_upd core ctx s) (Upd.refl s) rfl
  | .bkRowop core ctx => UpdR.go (execBkRowop_upd core ctx s) (Upd.refl s) rfl
  | .bkReservation core ctx k => UpdR.go (execBkReservation_upd core ctx k s) (Upd.refl s) rfl
  | .bkUploadDone core ctx k => UpdR.go (execBkUploadDone_upd core ctx k s) (Upd.refl s) rfl
  | .gangCommand core ctx k chan => UpdR.go (execGangCommand_upd core ctx k chan s) (Upd.refl s) rfl
  | .harnessEntry stack chan => UpdR.go (execHarnessEntry_upd stack chan s) (Upd.refl s) rfl
  | .harnessOn stack chan => UpdR.go (execHarnessOn_upd stack chan s) (Upd.refl s) rfl
  | .harnessExit stack chan => UpdR.go (execHarnessExit_upd stack chan s) (Upd.refl s) rfl
  | .harnessOff stack chan => UpdR.go (execHarnessOff_upd stack chan s) (Upd.refl s) rfl
  | .hmReqWrite stack mask => UpdR.go (execHmReqWrite_upd stack mask s) (Upd.refl s) rfl
  | .vRegisterWrite dpa data => UpdR.go (execVRegisterWrite_upd dpa data s) (Upd.refl s) rfl
  | .cwWrite dpa data => UpdR.go (execCwWrite_upd dpa data s) (Upd.refl s) rfl
  | .cblWrite dpa data => UpdR.go (execCblWrite_upd dpa data s) (Upd.refl s) rfl
  | .fifoPop dpa => UpdR.go (execFifoPop_upd dpa s) (Upd.refl s) rfl
  | .clear dpa flags tag => UpdR.go (execClear_upd dpa flags tag s) (Upd.refl s) rfl
  | .mvs dpa flags tag => UpdR.go (execMvs_upd dpa flags tag s) (Upd.refl s) rfl
  | .dot dpa flags tag => UpdR.go (execDot_upd dpa flags tag s) (Upd.refl s) rfl
  | .gred dpa flags tag => UpdR.go (execGred_upd dpa flags tag s) (Upd.refl s) rfl
  | .pqscan dpa flags tag => UpdR.go (execPqscan_upd dpa flags tag s) (Upd.refl s) rfl
  | .copyOut dpa flags tag => UpdR.go (execCopyOut_upd dpa flags tag s) (Upd.refl s) rfl
  | .rowlist dpa flags tag => UpdR.go (execRowlist_upd dpa flags tag s) (Upd.refl s) rfl
  | .vet dpa flags tag => UpdR.go (execVet_upd dpa flags tag s) (Upd.refl s) rfl
  | .burnish dpa flags tag => UpdR.go (execBurnish_upd dpa flags tag s) (Upd.refl s) rfl
  | .rowlistPiece stack chan bank parts => UpdR.go (execRowlistPiece_upd stack chan bank parts s) (Upd.refl s) rfl
  | .legEnd stack chan bank items steps => UpdR.go (execLegEnd_upd stack chan bank items steps s) (Upd.refl s) rfl
  | .gangResume stack chan bank gapNs => UpdR.go (execGangResume_upd stack chan bank gapNs s) (Upd.refl s) rfl
  | .gangWaitEnd stack chan bank waitSteps => UpdR.go (execGangWaitEnd_upd stack chan bank waitSteps s) (Upd.refl s) rfl
  | .seqLastStep stack chan bank steps => UpdR.go (execSeqLastStep_upd stack chan bank steps s) (Upd.refl s) rfl
  | .seqDrained stack chan bank => UpdR.go (execSeqDrained_upd stack chan bank s) (Upd.refl s) rfl
  | .collectorSend stack chan bank => UpdR.go (execCollectorSend_upd stack chan bank s) (Upd.refl s) rfl
  | .recordWrite core ctx k chan bank => UpdR.go (execRecordWrite_upd core ctx k chan bank s) (Upd.refl s) rfl
  | .abGo stack => UpdR.go (execAbGo_upd stack s) (Upd.refl s) rfl
  | .linMapWrite stack half value => UpdR.go (execLinMapWrite_upd stack half value s) (Upd.refl s) rfl
  | .bmpMapWrite stack half value => UpdR.go (execBmpMapWrite_upd stack half value s) (Upd.refl s) rfl
  | .segCreate dr => UpdR.go (execSegCreate_upd dr s) (Upd.refl s) rfl
  | .segWrite dr => UpdR.go (execSegWrite_upd dr s) (Upd.refl s) rfl
  | .segSeal dr => UpdR.go (execSegSeal_upd dr s) (Upd.refl s) rfl
  | .segDelete dr => UpdR.go (execSegDelete_upd dr s) (Upd.refl s) rfl
  | .segQuery dr => UpdR.go (execSegQuery_upd dr s) (Upd.refl s) rfl
  | .segBind dr => UpdR.go (execSegBind_upd dr s) (Upd.refl s) rfl
  | .segUnbind dr => UpdR.go (execSegUnbind_upd dr s) (Upd.refl s) rfl
  | .segDone dr => UpdR.go (execSegDone_upd dr s) (Upd.refl s) rfl
  | .poolEnWrite dr pool value => UpdR.go (execPoolEnWrite_upd dr pool value s) (Upd.refl s) rfl
  | .poolDisabled dr pool => UpdR.go (execPoolDisabled_upd dr pool s) (Upd.refl s) rfl
  | .drFetch core ctx => UpdR.go (execDrFetch_upd core ctx s) (Upd.refl s) rfl
  | .drPromote core ctx => UpdR.go (execDrPromote_upd core ctx s) (Upd.refl s) rfl
  | .drUnpin core ctx => UpdR.go (execDrUnpin_upd core ctx s) (Upd.refl s) rfl
  | .bulkPageLand stack pos attempts poisoned => UpdR.go (execBulkPageLand_upd stack pos attempts poisoned s) (Upd.refl s) rfl
  | .bulkPatrol stack relocated => UpdR.go (execBulkPatrol_upd stack relocated s) (Upd.refl s) rfl
  | .retGo => UpdR.go (execRetGo_upd s) (Upd.refl s) rfl
  | .dieRetire stack die => UpdR.go (execDieRetire_upd stack die s) (Upd.refl s) rfl
  | .memReadRequest dpa len port => UpdR.go (execMemReadRequest_upd dpa len port s) (Upd.refl s) rfl
  | .memWriteRequest dpa data port poison => UpdR.go (execMemWriteRequest_upd dpa data port poison s) (Upd.refl s) rfl
  | .partialMerge stack chan => UpdR.go (execPartialMerge_upd stack chan s) (Upd.refl s) rfl
  | .refreshInterval stack chan expired => UpdR.go (execRefreshInterval_upd stack chan expired s) (Upd.refl s) rfl
  | .refresh stack chan bank => UpdR.go (execRefresh_upd stack chan bank s) (Upd.refl s) rfl
  | .recalDue stack chan => UpdR.go (execRecalDue_upd stack chan s) (Upd.refl s) rfl
  | .recalForced stack chan => UpdR.go (execRecalForced_upd stack chan s) (Upd.refl s) rfl
  | .recalDone stack chan => UpdR.go (execRecalDone_upd stack chan s) (Upd.refl s) rfl
  | .tollgateRefill stack => UpdR.go (execTollgateRefill_upd stack s) (Upd.refl s) rfl
  | .requestUrgency stack chan write pos age => UpdR.go (execRequestUrgency_upd stack chan write pos age s) (Upd.refl s) rfl
  | .caParity stack chan bank row col => UpdR.go (execCaParity_upd stack chan bank row col s) (Upd.refl s) rfl
  | .wcrcExhausted stack chan bank row col => UpdR.go (execWcrcExhausted_upd stack chan bank row col s) (Upd.refl s) rfl
  | .frzForce stack mask => UpdR.go (execFrzForce_upd stack mask s) (Upd.refl s) rfl
  | .frzRelease stack mask again => UpdR.go (execFrzRelease_upd stack mask again s) (Upd.refl s) rfl
  | .freezeAutoRelease stack chan again => UpdR.go (execFreezeAutoRelease_upd stack chan again s) (Upd.refl s) rfl
  | .scrubRead stack chan => UpdR.go (execScrubRead_upd stack chan s) (Upd.refl s) rfl
  | .scrubAgeLimit stack chan => UpdR.go (execScrubAgeLimit_upd stack chan s) (Upd.refl s) rfl
  | .scrubWriteback stack chan => UpdR.go (execScrubWriteback_upd stack chan s) (Upd.refl s) rfl
  | .repairGo => UpdR.go (execRepairGo_upd s) (Upd.refl s) rfl
  | .rowRepair stack chan => UpdR.go (execRowRepair_upd stack chan s) (Upd.refl s) rfl
  | .repairWaitExpire stack chan => UpdR.go (execRepairWaitExpire_upd stack chan s) (Upd.refl s) rfl
  | .ceWindowExpire page => UpdR.go (execCeWindowExpire_upd page s) (Upd.refl s) rfl
  | .testModeOff => UpdR.go (execTestModeOff_upd s) (Upd.refl s) rfl
  | .dataOnly => UpdR.go (execDataOnly_upd s) (Upd.refl s) rfl
  | .chkOnly => UpdR.go (execChkOnly_upd s) (Upd.refl s) rfl
  | .rawRead => UpdR.go (execRawRead_upd s) (Upd.refl s) rfl
  | .portEnWrite port value => UpdR.go (execPortEnWrite_upd port value s) (Upd.refl s) rfl
  | .retrain port => UpdR.go (execRetrain_upd port s) (Upd.refl s) rfl
  | .trainAttemptTimeout port => UpdR.go (execTrainAttemptTimeout_upd port s) (Upd.refl s) rfl
  | .portUp port lanes rtt => UpdR.go (execPortUp_upd port lanes rtt s) (Upd.refl s) rfl
  | .fastRetrain port => UpdR.go (execFastRetrain_upd port s) (Upd.refl s) rfl
  | .fastRetrainDone port ok => UpdR.go (execFastRetrainDone_upd port ok s) (Upd.refl s) rfl
  | .portDown port cause => UpdR.go (execPortDown_upd port cause s) (Upd.refl s) rfl
  | .flitReceive port flit corrected uncorrectable => UpdR.go (execFlitReceive_upd port flit corrected uncorrectable s) (Upd.refl s) rfl
  | .rdReq port => UpdR.go (execRdReq_upd port s) (Upd.refl s) rfl
  | .wr port => UpdR.go (execWr_upd port s) (Upd.refl s) rfl
  | .acc port => UpdR.go (execAcc_upd port s) (Upd.refl s) rfl
  | .rdResp port => UpdR.go (execRdResp_upd port s) (Upd.refl s) rfl
  | .wrAck port => UpdR.go (execWrAck_upd port s) (Upd.refl s) rfl
  | .accAck port => UpdR.go (execAccAck_upd port s) (Upd.refl s) rfl
  | .signal port => UpdR.go (execSignal_upd port s) (Upd.refl s) rfl
  | .remoteTimeout port tag => UpdR.go (execRemoteTimeout_upd port tag s) (Upd.refl s) rfl
  | .hello port => UpdR.go (execHello_upd port s) (Upd.refl s) rfl
  | .join port => UpdR.go (execJoin_upd port s) (Upd.refl s) rfl
  | .present port => UpdR.go (execPresent_upd port s) (Upd.refl s) rfl
  | .leave port => UpdR.go (execLeave_upd port s) (Upd.refl s) rfl
  | .presentTimer => UpdR.go (execPresentTimer_upd s) (Upd.refl s) rfl
  | .reachTimeout port addr => UpdR.go (execReachTimeout_upd port addr s) (Upd.refl s) rfl
  | .mbrLeave => UpdR.go (execMbrLeave_upd s) (Upd.refl s) rfl
  | .selfAddrWrite port value => UpdR.go (execSelfAddrWrite_upd port value s) (Upd.refl s) rfl
  | .mbrClear port => UpdR.go (execMbrClear_upd port s) (Upd.refl s) rfl
  | .prepare bay => UpdR.go (execPrepare_upd bay s) (Upd.refl s) rfl
  | .prepareDone bay => UpdR.go (execPrepareDone_upd bay s) (Upd.refl s) rfl
  | .cancel bay => UpdR.go (execCancel_upd bay s) (Upd.refl s) rfl
  | .cartInsert bay id hours => UpdR.go (execCartInsert_upd bay id hours s) (Upd.refl s) rfl
  | .cartRemove bay => UpdR.go (execCartRemove_upd bay s) (Upd.refl s) rfl
  | .warmingDone bay => UpdR.go (execWarmingDone_upd bay s) (Upd.refl s) rfl
  | .lockDone bay => UpdR.go (execLockDone_upd bay s) (Upd.refl s) rfl
  | .lockTimeout bay => UpdR.go (execLockTimeout_upd bay s) (Upd.refl s) rfl
  | .cartFault bay cause => UpdR.go (execCartFault_upd bay cause s) (Upd.refl s) rfl
  | .linkUp link cxl width => UpdR.go (execLinkUp_upd link cxl width s) (Upd.refl s) rfl
  | .linkDown link => UpdR.go (execLinkDown_upd link s) (Upd.refl s) rfl
  | .perstDeassert link => UpdR.go (execPerstDeassert_upd link s) (Upd.refl s) rfl
  | .hdmCommit link base size ways gran => UpdR.go (execHdmCommit_upd link base size ways gran s) (Upd.refl s) rfl
  | .cxlMemRead link dpa keeps => UpdR.go (execCxlMemRead_upd link dpa keeps s) (Upd.refl s) rfl
  | .cxlMemWrite link dpa data poison keeps => UpdR.go (execCxlMemWrite_upd link dpa data poison keeps s) (Upd.refl s) rfl
  | .membarRead dpa len => UpdR.go (execMembarRead_upd dpa len s) (Upd.refl s) rfl
  | .membarWrite dpa data poison => UpdR.go (execMembarWrite_upd dpa data poison s) (Upd.refl s) rfl
  | .cxlSnoop link => UpdR.go (execCxlSnoop_upd link s) (Upd.refl s) rfl
  | .partitionFatal page code detail => UpdR.go (execPartitionFatal_upd page code detail s) (Upd.refl s) rfl
  | .bulkFatal stack code detail => UpdR.go (execBulkFatal_upd stack code detail s) (Upd.refl s) rfl
  | .portFatal port code detail => UpdR.go (execPortFatal_upd port code detail s) (Upd.refl s) rfl
  | .resetGo n => UpdR.go (execResetGo_upd n s) (Upd.refl s) rfl
  | .drainEnd n => UpdR.go (execDrainEnd_upd n s) (Upd.refl s) rfl
  | .scratchpadSamplingDone n => UpdR.go (execScratchpadSamplingDone_upd n s) (Upd.refl s) rfl
  | .channelRestoreDone stack chan pass => UpdR.go (execChannelRestoreDone_upd stack chan pass s) (Upd.refl s) rfl
  | .partResetDone n => UpdR.go (execPartResetDone_upd n s) (Upd.refl s) rfl
  | .ctxReplayed core ctx => UpdR.go (execCtxReplayed_upd core ctx s) (Upd.refl s) rfl
  | .readmit n => UpdR.go (execReadmit_upd n s) (Upd.refl s) rfl
  | .readmitDone n selfTest failChans => UpdR.go (execReadmitDone_upd n selfTest failChans s) (Upd.refl s) rfl
  | .spineSingleFault comparator cycle => UpdR.go (execSpineSingleFault_upd comparator cycle s) (Upd.refl s) rfl
  | .spineResyncDone => UpdR.go (execSpineResyncDone_upd s) (Upd.refl s) rfl
  | .spineStorageError journal => UpdR.go (execSpineStorageError_upd journal s) (Upd.refl s) rfl
  | .deviceReset => UpdR.go (execDeviceReset_upd s) (Upd.refl s) rfl
  | .getVersion => UpdR.go (execGetVersion_upd s) (Upd.refl s) rfl
  | .getCapabilities => UpdR.go (execGetCapabilities_upd s) (Upd.refl s) rfl
  | .negotiateAlgorithms => UpdR.go (execNegotiateAlgorithms_upd s) (Upd.refl s) rfl
  | .pskExchange hint => UpdR.go (execPskExchange_upd hint s) (Upd.refl s) rfl
  | .pskFinish sess ok => UpdR.go (execPskFinish_upd sess ok s) (Upd.refl s) rfl
  | .keyUpdate sess => UpdR.go (execKeyUpdate_upd sess s) (Upd.refl s) rfl
  | .heartbeat sess => UpdR.go (execHeartbeat_upd sess s) (Upd.refl s) rfl
  | .heartbeatLapse sess => UpdR.go (execHeartbeatLapse_upd sess s) (Upd.refl s) rfl
  | .pskLockoutEnd role => UpdR.go (execPskLockoutEnd_upd role s) (Upd.refl s) rfl
  | .endSession sess => UpdR.go (execEndSession_upd sess s) (Upd.refl s) rfl
  | .getMeasurements sess index => UpdR.go (execGetMeasurements_upd sess index s) (Upd.refl s) rfl
  | .spdmUnsupported => UpdR.go (execSpdmUnsupported_upd s) (Upd.refl s) rfl
  | .keySet sess slot key => UpdR.go (execKeySet_upd sess slot key s) (Upd.refl s) rfl
  | .keyClear sess slot => UpdR.go (execKeyClear_upd sess slot s) (Upd.refl s) rfl
  | .pskSet sess which key => UpdR.go (execPskSet_upd sess which key s) (Upd.refl s) rfl
  | .dbgSet sess level => UpdR.go (execDbgSet_upd sess level s) (Upd.refl s) rfl
  | .lcAdvance sess target devid => UpdR.go (execLcAdvance_upd sess target devid s) (Upd.refl s) rfl
  | .spdmPartOos sess n => UpdR.go (execSpdmPartOos_upd sess n s) (Upd.refl s) rfl
  | .spdmPstate sess target => UpdR.go (execSpdmPstate_upd sess target s) (Upd.refl s) rfl
  | .unlockAll => UpdR.go (execUnlockAll_upd s) (Upd.refl s) rfl
  | .psGo => UpdR.go (execPsGo_upd s) (Upd.refl s) rfl
  | .d3hot link => UpdR.go (execD3hot_upd link s) (Upd.refl s) rfl
  | .d0 link => UpdR.go (execD0_upd link s) (Upd.refl s) rfl
  | .pstateDone => UpdR.go (execPstateDone_upd s) (Upd.refl s) rfl
  | .pwrPartOos n => UpdR.go (execPwrPartOos_upd n s) (Upd.refl s) rfl
  | .supplyUndervoltage => UpdR.go (execSupplyUndervoltage_upd s) (Upd.refl s) rfl
  | .supplyRecovered mv => UpdR.go (execSupplyRecovered_upd mv s) (Upd.refl s) rfl
  | .supplyCollapse => UpdR.go (execSupplyCollapse_upd s) (Upd.refl s) rfl
  | .overvoltage => UpdR.go (execOvervoltage_upd s) (Upd.refl s) rfl
  | .fastClamp => UpdR.go (execFastClamp_upd s) (Upd.refl s) rfl
  | .fastClampRelease => UpdR.go (execFastClampRelease_upd s) (Upd.refl s) rfl
  | .railFault => UpdR.go (execRailFault_upd s) (Upd.refl s) rfl
  | .hostStepWrite value => UpdR.go (execHostStepWrite_upd value s) (Upd.refl s) rfl
  | .stepMove => UpdR.go (execStepMove_upd s) (Upd.refl s) rfl
  | .powerEnforce inputW mv ca subs energy => UpdR.go (execPowerEnforce_upd inputW mv ca subs energy s) (Upd.refl s) rfl
  | .limitUnmet => UpdR.go (execLimitUnmet_upd s) (Upd.refl s) rfl
  | .pllRelockDone n => UpdR.go (execPllRelockDone_upd n s) (Upd.refl s) rfl
  | .sensorSample raws => UpdR.go (execSensorSample_upd raws s) (Upd.refl s) rfl
  | .holdTimeout => UpdR.go (execHoldTimeout_upd s) (Upd.refl s) rfl
  | .thermStepRaise => UpdR.go (execThermStepRaise_upd s) (Upd.refl s) rfl
  | .thermStepLower => UpdR.go (execThermStepLower_upd s) (Upd.refl s) rfl
  | .sensClear => UpdR.go (execSensClear_upd s) (Upd.refl s) rfl
  | .refLoss which => UpdR.go (execRefLoss_upd which s) (Upd.refl s) rfl
  | .powerOn rail spine fwBad failParts failBulk failChans failRows => UpdR.go (execPowerOn_upd rail spine fwBad failParts failBulk failChans failRows s) (Upd.refl s) rfl
  | .bootReady => UpdR.go (execBootReady_upd s) (Upd.refl s) rfl
  | .pwrDisAssert => UpdR.go (execPwrDisAssert_upd s) (Upd.refl s) rfl
  | .pwrDisDeassert => UpdR.go (execPwrDisDeassert_upd s) (Upd.refl s) rfl
  | .moduleWithdraw => UpdR.go (execModuleWithdraw_upd s) (Upd.refl s) rfl
  | .requestUpdate sess => UpdR.go (execRequestUpdate_upd sess s) (Upd.refl s) rfl
  | .passComponentTable comps => UpdR.go (execPassComponentTable_upd comps s) (Upd.refl s) rfl
  | .updateComponent comp => UpdR.go (execUpdateComponent_upd comp s) (Upd.refl s) rfl
  | .transferComplete => UpdR.go (execTransferComplete_upd s) (Upd.refl s) rfl
  | .verifyComplete ok version => UpdR.go (execVerifyComplete_upd ok version s) (Upd.refl s) rfl
  | .activateFirmware selfContained => UpdR.go (execActivateFirmware_upd selfContained s) (Upd.refl s) rfl
  | .fwSwitch comp unit => UpdR.go (execFwSwitch_upd comp unit s) (Upd.refl s) rfl
  | .fwSwitchWaitExpire stack chan => UpdR.go (execFwSwitchWaitExpire_upd stack chan s) (Upd.refl s) rfl
  | .pldmPowerEffecter sess target => UpdR.go (execPldmPowerEffecter_upd sess target s) (Upd.refl s) rfl
  | .pldmOosEffecter sess n => UpdR.go (execPldmOosEffecter_upd sess n s) (Upd.refl s) rfl
  | .pldmSensorRead sess idx => UpdR.go (execPldmSensorRead_upd sess idx s) (Upd.refl s) rfl
  | .scratchpadScrub core => UpdR.go (execScratchpadScrub_upd core s) (Upd.refl s) rfl
  | .escWindowExpire n => UpdR.go (execEscWindowExpire_upd n s) (Upd.refl s) rfl
  | .go sess => UpdR.go (execGo_upd sess s) (Upd.refl s) rfl
  | .backInvalidateDone line => UpdR.go (execBackInvalidateDone_upd line s) (Upd.refl s) rfl
  | .writeDrain stack chan => UpdR.go (execWriteDrain_upd stack chan s) (Upd.refl s) rfl
  | .flitTransmit port => UpdR.go (execFlitTransmit_upd port s) (Upd.refl s) rfl
  | .refRestored which => UpdR.go (execRefRestored_upd which s) (Upd.refl s) rfl

end Sys2Proof.Machine
end

