-- ==== Sys2Proof/WellFormed.lean ====
section
/-!
DEFINITION. Which commands name something that exists: unit numbers inside the tree (R7-R11), page indices inside the
register BAR (R43), widths of a value that the command carries. A command that does not pass names no unit of the device.
-/

namespace Sys2Proof

/-- The cause is one that the spec gives a channel, at a place that the stack has (R285, R349). -/
def FreezeCause.ok (f : FreezeCause) : Bool :=
  f.chan < 32 && 1 ≤ f.cause && f.cause ≤ 4 && f.bank < 32 && f.row < 65536 && f.col < 32 && f.syndrome < 2 ^ 64

/-- The command names units, pages and values that exist. -/
def Instr.wf (i : Instr) : Bool :=
  match i with
  | .regWrite page off width value => page < 0x4000 && off < 4096 && width < 65 && value < 2 ^ 64
  | .readClear page off width => page < 0x4000 && off < 4096 && width < 65
  | .sync page => page < 0x4000
  | .fence page => page < 0x4000
  | .unfence page => page < 0x4000
  | .reset page => page < 0x4000
  | .ctrlOpComplete page kind => page < 0x4000 && kind < 4
  | .pageLockSet page => page < 0x4000
  | .irqForce page mask => page < 0x4000 && mask < 2 ^ 32
  | .rollback page => page < 0x4000
  | .cfgSetFieldWrite page off width value => page < 0x4000 && off < 4096 && width < 65 && value < 2 ^ 64
  | .milestoneArm page slot epoch action arg => page < 0x4000 && slot < 4 && epoch.all (· < 2 ^ 32) && action < 16 && arg < 256
  | .milestoneDisarm page slot => page < 0x4000 && slot < 4
  | .epochAdvance target => target < 2 ^ 32
  | .epochBroadcast port => port < 32
  | .install region slot => region < 64 && slot < 4
  | .close region slot => region < 64 && slot < 4
  | .query region slot => region < 64 && slot < 4
  | .free region slot => region < 64 && slot < 4
  | .ldgRptrWrite value => value < 2 ^ 64
  | .sqTail sess value => sess < 64 && value < 2 ^ 64
  | .cqHead sess value => sess < 64 && value < 2 ^ 64
  | .sqFetch sess entry _ => sess < 64 && entry.length = 64
  | .sqNop sess => sess < 64
  | .sqLoad sess => sess < 64
  | .loaderDequeue _ => true
  | .loadSlots => true
  | .loadComplete _ => true
  | .loadWaitExpire _ => true
  | .loadQuery sess => sess < 64
  | .run sess => sess < 64
  | .abort sess => sess < 64
  | .runComplete _ => true
  | .sessOpen sess => sess < 64
  | .sessClose sess => sess < 64
  | .sessionClosed sess => sess < 64
  | .fenceReq sess token => sess < 64 && token < 2 ^ 32
  | .memFenceDone sess => sess < 64
  | .hsigSet sess idx => sess < 64 && idx < 4096
  | .hsigClear sess idx => sess < 64 && idx < 4096
  | .descLoad core ctx q => core < 160 && ctx < 4 && q < 8
  | .descStart core ctx q => core < 160 && ctx < 4 && q < 8
  | .descComplete core ctx q cycles => core < 160 && ctx < 4 && q < 8 && cycles < 2 ^ 32
  | .nop core ctx q => core < 160 && ctx < 4 && q < 8
  | .wait core ctx q => core < 160 && ctx < 4 && q < 8
  | .barrier core ctx q => core < 160 && ctx < 4 && q < 8
  | .endDesc core ctx q => core < 160 && ctx < 4 && q < 8
  | .ctxBind core ctx => core < 160 && ctx < 4
  | .epochWait core ctx => core < 160 && ctx < 4
  | .flagSet core ctx => core < 160 && ctx < 4
  | .flagClear core ctx => core < 160 && ctx < 4
  | .flagToggle core ctx => core < 160 && ctx < 4
  | .flagWait core ctx => core < 160 && ctx < 4
  | .ctrAdd core ctx => core < 160 && ctx < 4
  | .ctrSet core ctx => core < 160 && ctx < 4
  | .ctrWait core ctx => core < 160 && ctx < 4
  | .barInit core ctx => core < 160 && ctx < 4
  | .barArrive core ctx => core < 160 && ctx < 4
  | .barWait core ctx => core < 160 && ctx < 4
  | .remoteSignal core ctx => core < 160 && ctx < 4
  | .hostNotify core ctx => core < 160 && ctx < 4
  | .hopRead sy kind idx => sy < 5 && kind < 3 && idx < 4096
  | .hopFlagSet sy kind idx => sy < 5 && kind < 3 && idx < 4096
  | .hopFlagClear sy kind idx => sy < 5 && kind < 3 && idx < 4096
  | .hopCtrAdd sy kind idx => sy < 5 && kind < 3 && idx < 4096
  | .hopCtrSet sy kind idx => sy < 5 && kind < 3 && idx < 4096
  | .hopBarInit sy kind idx => sy < 5 && kind < 3 && idx < 4096
  | .hopBarArrive sy kind idx => sy < 5 && kind < 3 && idx < 4096
  | .dbgRelease sy kind idx => sy < 5 && kind < 3 && idx < 4096
  | .dbgWithdraw sy kind idx => sy < 5 && kind < 3 && idx < 4096
  | .heldSignalApply sy _ => sy < 5
  | .wdogFire core ctx => core < 160 && ctx < 4
  | .matmul core ctx => core < 160 && ctx < 4
  | .vxMap core ctx => core < 160 && ctx < 4
  | .vxReduce core ctx => core < 160 && ctx < 4
  | .vxSoftmax core ctx => core < 160 && ctx < 4
  | .vxNorm core ctx => core < 160 && ctx < 4
  | .vxSort core ctx => core < 160 && ctx < 4
  | .vxTopk core ctx => core < 160 && ctx < 4
  | .vxSample core ctx => core < 160 && ctx < 4
  | .vxConvert core ctx => core < 160 && ctx < 4
  | .vxSelect core ctx => core < 160 && ctx < 4
  | .sbClaim core ctx q => core < 160 && ctx < 4 && q < 8
  | .sbRelease core ctx q k entry => core < 160 && ctx < 4 && q < 8 && k < 2 ^ 16 && entry < 12
  | .narrowWriteback core line => core < 160 && line < 2 ^ 14
  | .debugWindowAccess dpa len _ data _ => dpa < 2 ^ 64 && len < 4097 && data.length ≤ 4096
  | .spadPoisonMark core => core < 160
  | .load core ctx => core < 160 && ctx < 4
  | .store core ctx => core < 160 && ctx < 4
  | .gather core ctx => core < 160 && ctx < 4
  | .scatter core ctx => core < 160 && ctx < 4
  | .retryReissue core ctx q => core < 160 && ctx < 4 && q < 8
  | .bkMvs core ctx => core < 160 && ctx < 4
  | .bkDot core ctx => core < 160 && ctx < 4
  | .bkGred core ctx => core < 160 && ctx < 4
  | .bkPqscan core ctx => core < 160 && ctx < 4
  | .bkRowop core ctx => core < 160 && ctx < 4
  | .bkReservation core ctx k => core < 160 && ctx < 4 && k < 2 ^ 16
  | .bkUploadDone core ctx k => core < 160 && ctx < 4 && k < 2 ^ 16
  | .gangCommand core ctx k chan => core < 160 && ctx < 4 && k < 2 ^ 16 && chan < 32
  | .harnessEntry stack chan => stack < 12 && chan < 32
  | .harnessOn stack chan => stack < 12 && chan < 32
  | .harnessExit stack chan => stack < 12 && chan < 32
  | .harnessOff stack chan => stack < 12 && chan < 32
  | .hmReqWrite stack mask => stack < 12 && mask < 2 ^ 32
  | .vRegisterWrite dpa data => dpa < 2 ^ 64 && data.length ≤ 4096
  | .cwWrite dpa data => dpa < 2 ^ 64 && data.length ≤ 4096
  | .cblWrite dpa data => dpa < 2 ^ 64 && data.length ≤ 4096
  | .fifoPop dpa => dpa < 2 ^ 64
  | .clear dpa flags tag => dpa < 2 ^ 64 && flags < 256 && tag < 2 ^ 16
  | .mvs dpa flags tag => dpa < 2 ^ 64 && flags < 256 && tag < 2 ^ 16
  | .dot dpa flags tag => dpa < 2 ^ 64 && flags < 256 && tag < 2 ^ 16
  | .gred dpa flags tag => dpa < 2 ^ 64 && flags < 256 && tag < 2 ^ 16
  | .pqscan dpa flags tag => dpa < 2 ^ 64 && flags < 256 && tag < 2 ^ 16
  | .copyOut dpa flags tag => dpa < 2 ^ 64 && flags < 256 && tag < 2 ^ 16
  | .rowlist dpa flags tag => dpa < 2 ^ 64 && flags < 256 && tag < 2 ^ 16
  | .vet dpa flags tag => dpa < 2 ^ 64 && flags < 256 && tag < 2 ^ 16
  | .burnish dpa flags tag => dpa < 2 ^ 64 && flags < 256 && tag < 2 ^ 16
  | .rowlistPiece stack chan bank parts => stack < 12 && chan < 32 && bank < 32 && parts < 5
  | .legEnd stack chan bank _ _ => stack < 12 && chan < 32 && bank < 32
  | .gangResume stack chan bank _ => stack < 12 && chan < 32 && bank < 32
  | .gangWaitEnd stack chan bank _ => stack < 12 && chan < 32 && bank < 32
  | .seqLastStep stack chan bank _ => stack < 12 && chan < 32 && bank < 32
  | .seqDrained stack chan bank => stack < 12 && chan < 32 && bank < 32
  | .collectorSend stack chan bank => stack < 12 && chan < 32 && bank < 32
  | .recordWrite core ctx k chan bank => core < 160 && ctx < 4 && k < 2 ^ 16 && chan < 32 && bank < 32
  | .abGo stack => stack < 12
  | .linMapWrite stack half value => stack < 12 && half < 3 && value < 2 ^ (if half = 2 then 64 else 32)
  | .bmpMapWrite stack half value => stack < 12 && half < 3 && value < 2 ^ (if half = 2 then 64 else 32)
  | .segCreate dr => dr < 4
  | .segWrite dr => dr < 4
  | .segSeal dr => dr < 4
  | .segDelete dr => dr < 4
  | .segQuery dr => dr < 4
  | .segBind dr => dr < 4
  | .segUnbind dr => dr < 4
  | .segDone dr => dr < 4
  | .poolEnWrite dr pool value => dr < 4 && pool < 16 && value < 2 ^ 64
  | .poolDisabled dr pool => dr < 4 && pool < 16
  | .drFetch core ctx => core < 160 && ctx < 4
  | .drPromote core ctx => core < 160 && ctx < 4
  | .drUnpin core ctx => core < 160 && ctx < 4
  | .bulkPageLand stack _ attempts poisoned => stack < 8 && 0 < attempts && attempts < 7 && (!poisoned || attempts = 6)
  | .bulkPatrol stack _ => stack < 8
  | .retGo => true
  | .dieRetire stack die => stack < 8 && die < 16
  | .memReadRequest dpa len port => dpa < 2 ^ 64 && len < 4097 && port < 48
  | .memWriteRequest dpa data port _ => dpa < 2 ^ 64 && data.length ≤ 4096 && port < 48
  | .partialMerge stack chan => stack < 12 && chan < 32
  | .refreshInterval stack chan _ => stack < 12 && chan < 32
  | .refresh stack chan bank => stack < 12 && chan < 32 && bank.all (· < 32)
  | .recalDue stack chan => stack < 12 && chan < 32
  | .recalForced stack chan => stack < 12 && chan < 32
  | .recalDone stack chan => stack < 12 && chan < 32
  | .tollgateRefill stack => stack < 12
  | .requestUrgency stack chan _ _ _ => stack < 12 && chan < 32
  | .caParity stack chan bank row col => stack < 12 && chan < 32 && bank < 32 && row < 65536 && col < 32
  | .wcrcExhausted stack chan bank row col => stack < 12 && chan < 32 && bank < 32 && row < 65536 && col < 32
  | .frzForce stack mask => stack < 12 && mask < 2 ^ 32
  | .frzRelease stack mask again => stack < 12 && mask < 2 ^ 32 && again.all FreezeCause.ok
  | .freezeAutoRelease stack chan again => stack < 12 && chan < 32 && again.all FreezeCause.ok
  | .scrubRead stack chan => stack < 12 && chan < 32
  | .scrubAgeLimit stack chan => stack < 12 && chan < 32
  | .scrubWriteback stack chan => stack < 12 && chan < 32
  | .repairGo => true
  | .rowRepair stack chan => stack < 12 && chan < 32
  | .repairWaitExpire stack chan => stack < 12 && chan < 32
  | .ceWindowExpire page => page < 0x4000
  | .testModeOff => true
  | .dataOnly => true
  | .chkOnly => true
  | .rawRead => true
  | .portEnWrite port value => port < 32 && value < 2 ^ 64
  | .retrain port => port < 32
  | .trainAttemptTimeout port => port < 32
  | .portUp port lanes rtt => port < 32 && lanes < 17 && rtt < 4096
  | .fastRetrain port => port < 32
  | .fastRetrainDone port _ => port < 32
  | .portDown port cause => port < 32 && cause < 8
  | .flitReceive port flit _ _ => port < 32 && flit.length = 1024
  | .rdReq port => port < 32
  | .wr port => port < 32
  | .acc port => port < 32
  | .rdResp port => port < 32
  | .wrAck port => port < 32
  | .accAck port => port < 32
  | .signal port => port < 32
  | .remoteTimeout port tag => port < 32 && tag < 2 ^ 16
  | .hello port => port < 32
  | .join port => port < 32
  | .present port => port < 32
  | .leave port => port < 32
  | .presentTimer => true
  | .reachTimeout port addr => port < 32 && addr < 4096
  | .mbrLeave => true
  | .selfAddrWrite port value => port < 32 && value < 2 ^ 64
  | .mbrClear port => port < 32
  | .prepare bay => bay < 4
  | .prepareDone bay => bay < 4
  | .cancel bay => bay < 4
  | .cartInsert bay id hours => bay < 4 && id < 2 ^ 64 && hours < 2 ^ 32
  | .cartRemove bay => bay < 4
  | .warmingDone bay => bay < 4
  | .lockDone bay => bay < 4
  | .lockTimeout bay => bay < 4
  | .cartFault bay cause => bay < 4 && cause < 8
  | .linkUp link _ width => link < 2 && width < 65
  | .linkDown link => link < 2
  | .perstDeassert link => link < 2
  | .hdmCommit link _ _ _ _ => link < 2
  | .cxlMemRead link dpa _ => link < 2 && dpa < 2 ^ 64
  | .cxlMemWrite link dpa data _ _ => link < 2 && dpa < 2 ^ 64 && data.length ≤ 4096
  | .membarRead dpa len => dpa < 2 ^ 64 && len < 4097
  | .membarWrite dpa data _ => dpa < 2 ^ 64 && data.length ≤ 4096
  | .cxlSnoop link => link < 2
  | .partitionFatal page code detail => page < 0x4000 && code < 256 && detail < 2 ^ 64
  | .bulkFatal stack code detail => stack < 8 && code < 256 && detail < 2 ^ 64
  | .portFatal port code detail => port < 32 && code < 256 && detail < 2 ^ 64
  | .resetGo n => n < 4
  | .drainEnd n => n < 4
  | .scratchpadSamplingDone n => n < 4
  | .channelRestoreDone stack chan _ => stack < 12 && chan < 32
  | .partResetDone n => n < 4
  | .ctxReplayed core ctx => core < 160 && ctx < 4
  | .readmit n => n < 4
  | .readmitDone n _ failChans => n < 4 && failChans.all fun ck => ck < 384 && ck / 96 = n
  | .spineSingleFault _ cycle => cycle < 2 ^ 32
  | .spineResyncDone => true
  | .spineStorageError journal => journal.all (· < 640)
  | .deviceReset => true
  | .getVersion => true
  | .getCapabilities => true
  | .negotiateAlgorithms => true
  | .pskExchange hint => hint < 2 ^ 16
  | .pskFinish sess _ => sess < 64
  | .keyUpdate sess => sess < 64
  | .heartbeat sess => sess < 64
  | .heartbeatLapse sess => sess < 64
  | .pskLockoutEnd role => role < 3
  | .endSession sess => sess < 64
  | .getMeasurements sess index => sess < 64 && index < 256
  | .spdmUnsupported => true
  | .keySet sess slot _ => sess < 64 && slot < 4
  | .keyClear sess slot => sess < 64 && slot < 4
  | .pskSet sess which _ => sess < 64 && which < 4
  | .dbgSet sess level => sess < 64 && level < 4
  | .lcAdvance sess target devid => sess < 64 && target < 2 ^ 32 && devid < 2 ^ 64
  | .spdmPartOos sess n => sess < 64 && n < 4
  | .spdmPstate sess target => sess < 64 && target < 2 ^ 32
  | .unlockAll => true
  | .psGo => true
  | .d3hot link => link < 2
  | .d0 link => link < 2
  | .pstateDone => true
  | .pwrPartOos n => n < 4
  | .supplyUndervoltage => true
  | .supplyRecovered mv => mv < 2 ^ 16
  | .supplyCollapse => true
  | .overvoltage => true
  | .fastClamp => true
  | .fastClampRelease => true
  | .railFault => true
  | .hostStepWrite value => value < 2 ^ 64
  | .stepMove => true
  | .powerEnforce inputW mv ca subs energy => inputW < 2 ^ 16 && mv < 2 ^ 16 && ca < 2 ^ 16 && subs.all (· < 2 ^ 16) && energy < 2 ^ 64
  | .limitUnmet => true
  | .pllRelockDone n => n < 4
  | .sensorSample raws => raws.length = 476
  | .holdTimeout => true
  | .thermStepRaise => true
  | .thermStepLower => true
  | .sensClear => true
  | .refLoss which => which < 4
  | .powerOn _ _ fwBad failParts failBulk failChans failRows => fwBad < 128 && failParts.all (· < 4) && failBulk.all (· < 8) && failChans.all (· < 384) && failRows.all (· < 2 ^ 30)
  | .bootReady => true
  | .pwrDisAssert => true
  | .pwrDisDeassert => true
  | .moduleWithdraw => true
  | .requestUpdate sess => sess.all (· < 64)
  | .passComponentTable comps => comps.all (· < 6)
  | .updateComponent comp => comp < 6
  | .transferComplete => true
  | .verifyComplete _ version => version < 2 ^ 32
  | .activateFirmware _ => true
  | .fwSwitch comp _ => comp < 6
  | .fwSwitchWaitExpire stack chan => stack < 12 && chan < 32
  | .pldmPowerEffecter sess target => sess.all (· < 64) && target < 2 ^ 32
  | .pldmOosEffecter sess n => sess.all (· < 64) && n < 4
  | .pldmSensorRead sess idx => sess.all (· < 64) && idx < 4096
  | .scratchpadScrub core => core < 160
  | .escWindowExpire n => n < 4
  | .go sess => sess < 64
  | .backInvalidateDone line => line < 2 ^ 58
  | .writeDrain stack chan => stack < 12 && chan < 32
  | .flitTransmit port => port < 32
  | .refRestored which => which < 4

end Sys2Proof
end

