-- ==== Sys2Proof/Tests/Slice0.lean ====
section
/-!
SUPPORT. Small tests: the well-formedness check refuses an ill-formed term for each of its checks, and for every obligation small
states and operands that meet the hypotheses of its clauses together, with what the one command then does. Expected results are read
from the cited rules.
-/

namespace Sys2Proof.Tests

open Machine

set_option maxRecDepth 8000
set_option Elab.async false

/-- What the command answers holds of the next state. -/
def ran (c : Instr) (s : State) (p : State → Bool) : Bool := match exec c s with | .next t => p t | _ => false

/-- `State.Ok`, evaluated. -/
def okB (s : State) : Bool :=
  decide (SMap.wf regDefault s.regs) &&
  decide (∀ e ∈ s.regs, e.2 < 2 ^ (regFld e.1).row.width) &&
  decide (dramWf s) &&
  decide (spadWf s) &&
  decide (SMap.wf (fun _ => none) s.dramChk) &&
  decide (SMap.wf (fun _ => none) s.spadChk) &&
  decide (SMap.wf (fun _ => {}) s.vslots) &&
  decide (SMap.wf (fun _ => 0) s.ldgSeq) &&
  decide (SMap.wf (fun _ => 0) s.ldgLost) &&
  decide (SMap.wf (fun _ => {}) s.ctxs) &&
  decide (SMap.wf (fun _ => none) s.runs) &&
  decide (SMap.wf (fun _ => {}) s.pms) &&
  decide (SMap.wf (fun _ => {}) s.engines) &&
  decide (SMap.wf (fun _ => {}) s.spads) &&
  decide (SMap.wf (fun _ => {}) s.serais) &&
  decide (SMap.wf (fun _ => {}) s.sess) &&
  decide (SMap.wf (fun _ => 0) s.memGens) &&
  decide (SMap.wf (fun _ => {}) s.chans) &&
  decide (SMap.wf (fun _ => {}) s.units) &&
  decide (SMap.wf (fun _ => 0) s.msix) &&
  decide (SMap.wf (fun _ => {}) s.ceWins) &&
  decide (SMap.wf (fun _ => {}) s.drovers) &&
  decide (SMap.wf (fun _ => 0) s.servedBytes) &&
  decide (SMap.wf (fun _ => {}) s.ports) &&
  decide (SMap.wf (fun _ => {}) s.members) &&
  decide (SMap.wf (fun _ => none) s.bseqs) &&
  decide (SMap.wf (fun _ => {}) s.sens) &&
  decide (SMap.wf (fun _ => 0) s.partCond) &&
  decide (SMap.wf (fun _ => -1000000) s.pllTemp) &&
  decide (SMap.wf (fun _ => none) s.recov) &&
  decide (SMap.wf (fun _ => none) s.keys) &&
  decide (SMap.wf (fun _ => none) s.psks) &&
  decide (SMap.wf (fun _ => none) s.spdm) &&
  decide (SMap.wf (fun _ => 0) s.pskFails) &&
  decide (SMap.wf (fun _ => none) s.hdm) &&
  decide (SMap.wf (fun _ => 0) s.divided)

theorem ok_of {s : State} (h : okB s = true) : s.Ok := by
  simp only [okB, Bool.and_eq_true, decide_eq_true_eq] at h
  obtain ⟨⟨⟨⟨⟨⟨⟨⟨⟨⟨⟨⟨⟨⟨⟨⟨⟨⟨⟨⟨⟨⟨⟨⟨⟨⟨⟨⟨⟨⟨⟨⟨⟨⟨⟨h0, h1⟩, h2⟩, h3⟩, h4⟩, h5⟩, h6⟩, h7⟩, h8⟩, h9⟩, h10⟩, h11⟩, h12⟩, h13⟩, h14⟩, h15⟩, h16⟩, h17⟩, h18⟩, h19⟩, h20⟩, h21⟩, h22⟩, h23⟩, h24⟩, h25⟩, h26⟩, h27⟩, h28⟩, h29⟩, h30⟩, h31⟩, h32⟩, h33⟩, h34⟩, h35⟩ := h
  exact ⟨h0, h1, h2, h3, h4, h5, h6, h7, h8, h9, h10, h11, h12, h13, h14, h15, h16, h17, h18, h19, h20, h21, h22, h23, h24, h25, h26, h27, h28, h29, h30, h31, h32, h33, h34, h35⟩

/-- The state right after reset, for short. -/
abbrev s0 : State := State.reset

/-- An ill-formed term for each check of these commands, which the check refuses (R7-R11, R43). -/
theorem test_illFormed0 : ([
    .regWrite 0x4000 0 0 0, .regWrite 0 4096 0 0, .regWrite 0 0 65 0,
    .regWrite 0 0 0 (2 ^ 64), .readClear 0x4000 0 0, .readClear 0 4096 0,
    .readClear 0 0 65, .sync 0x4000, .fence 0x4000,
    .unfence 0x4000, .reset 0x4000, .ctrlOpComplete 0x4000 0,
    .ctrlOpComplete 0 4, .pageLockSet 0x4000, .irqForce 0x4000 0,
    .irqForce 0 (2 ^ 32), .rollback 0x4000, .cfgSetFieldWrite 0x4000 0 0 0,
    .cfgSetFieldWrite 0 4096 0 0, .cfgSetFieldWrite 0 0 65 0, .cfgSetFieldWrite 0 0 0 (2 ^ 64),
    .milestoneArm 0x4000 0 none 0 0, .milestoneArm 0 4 none 0 0, .milestoneArm 0 0 (some (2 ^ 32)) 0 0,
    .milestoneArm 0 0 none 16 0, .milestoneArm 0 0 none 0 256, .milestoneDisarm 0x4000 0,
    .milestoneDisarm 0 4, .epochAdvance (2 ^ 32), .epochBroadcast 32] : List Instr).all (fun i => !i.wf) = true := by decide +kernel

/-- An ill-formed term for each check of these commands, which the check refuses (R7-R11, R43). -/
theorem test_illFormed1 : ([
    .install 64 0, .install 0 4, .close 64 0,
    .close 0 4, .query 64 0, .query 0 4,
    .free 64 0, .free 0 4, .ldgRptrWrite (2 ^ 64),
    .sqTail 64 0, .sqTail 0 (2 ^ 64), .cqHead 64 0,
    .cqHead 0 (2 ^ 64), .sqFetch 64 (List.replicate 64 0) false, .sqFetch 0 [] false,
    .sqNop 64, .sqLoad 64, .loadQuery 64,
    .run 64, .abort 64, .sessOpen 64,
    .sessClose 64, .sessionClosed 64, .fenceReq 64 0,
    .fenceReq 0 (2 ^ 32), .memFenceDone 64, .hsigSet 64 0,
    .hsigSet 0 4096, .hsigClear 64 0, .hsigClear 0 4096] : List Instr).all (fun i => !i.wf) = true := by decide +kernel

/-- An ill-formed term for each check of these commands, which the check refuses (R7-R11, R43). -/
theorem test_illFormed2 : ([
    .descLoad 160 0 0, .descLoad 0 4 0, .descLoad 0 0 8,
    .descStart 160 0 0, .descStart 0 4 0, .descStart 0 0 8,
    .descComplete 160 0 0 0, .descComplete 0 4 0 0, .descComplete 0 0 8 0,
    .descComplete 0 0 0 (2 ^ 32), .nop 160 0 0, .nop 0 4 0,
    .nop 0 0 8, .wait 160 0 0, .wait 0 4 0,
    .wait 0 0 8, .barrier 160 0 0, .barrier 0 4 0,
    .barrier 0 0 8, .endDesc 160 0 0, .endDesc 0 4 0,
    .endDesc 0 0 8, .ctxBind 160 0, .ctxBind 0 4,
    .epochWait 160 0, .epochWait 0 4, .flagSet 160 0,
    .flagSet 0 4, .flagClear 160 0, .flagClear 0 4] : List Instr).all (fun i => !i.wf) = true := by decide +kernel

/-- An ill-formed term for each check of these commands, which the check refuses (R7-R11, R43). -/
theorem test_illFormed3 : ([
    .flagToggle 160 0, .flagToggle 0 4, .flagWait 160 0,
    .flagWait 0 4, .ctrAdd 160 0, .ctrAdd 0 4,
    .ctrSet 160 0, .ctrSet 0 4, .ctrWait 160 0,
    .ctrWait 0 4, .barInit 160 0, .barInit 0 4,
    .barArrive 160 0, .barArrive 0 4, .barWait 160 0,
    .barWait 0 4, .remoteSignal 160 0, .remoteSignal 0 4,
    .hostNotify 160 0, .hostNotify 0 4, .hopRead 5 0 0,
    .hopRead 0 3 0, .hopRead 0 0 4096, .hopFlagSet 5 0 0,
    .hopFlagSet 0 3 0, .hopFlagSet 0 0 4096, .hopFlagClear 5 0 0,
    .hopFlagClear 0 3 0, .hopFlagClear 0 0 4096, .hopCtrAdd 5 0 0] : List Instr).all (fun i => !i.wf) = true := by decide +kernel

/-- An ill-formed term for each check of these commands, which the check refuses (R7-R11, R43). -/
theorem test_illFormed4 : ([
    .hopCtrAdd 0 3 0, .hopCtrAdd 0 0 4096, .hopCtrSet 5 0 0,
    .hopCtrSet 0 3 0, .hopCtrSet 0 0 4096, .hopBarInit 5 0 0,
    .hopBarInit 0 3 0, .hopBarInit 0 0 4096, .hopBarArrive 5 0 0,
    .hopBarArrive 0 3 0, .hopBarArrive 0 0 4096, .dbgRelease 5 0 0,
    .dbgRelease 0 3 0, .dbgRelease 0 0 4096, .dbgWithdraw 5 0 0,
    .dbgWithdraw 0 3 0, .dbgWithdraw 0 0 4096, .heldSignalApply 5 0,
    .wdogFire 160 0, .wdogFire 0 4, .matmul 160 0,
    .matmul 0 4, .vxMap 160 0, .vxMap 0 4,
    .vxReduce 160 0, .vxReduce 0 4, .vxSoftmax 160 0,
    .vxSoftmax 0 4, .vxNorm 160 0, .vxNorm 0 4] : List Instr).all (fun i => !i.wf) = true := by decide +kernel

/-- An ill-formed term for each check of these commands, which the check refuses (R7-R11, R43). -/
theorem test_illFormed5 : ([
    .vxSort 160 0, .vxSort 0 4, .vxTopk 160 0,
    .vxTopk 0 4, .vxSample 160 0, .vxSample 0 4,
    .vxConvert 160 0, .vxConvert 0 4, .vxSelect 160 0,
    .vxSelect 0 4, .sbClaim 160 0 0, .sbClaim 0 4 0,
    .sbClaim 0 0 8, .sbRelease 160 0 0 0 0, .sbRelease 0 4 0 0 0,
    .sbRelease 0 0 8 0 0, .sbRelease 0 0 0 (2 ^ 16) 0, .sbRelease 0 0 0 0 12,
    .narrowWriteback 160 0, .narrowWriteback 0 (2 ^ 14), .debugWindowAccess (2 ^ 64) 0 false [] false,
    .debugWindowAccess 0 4097 false [] false, .debugWindowAccess 0 0 false (List.replicate 4097 0) false, .spadPoisonMark 160,
    .load 160 0, .load 0 4, .store 160 0,
    .store 0 4, .gather 160 0, .gather 0 4] : List Instr).all (fun i => !i.wf) = true := by decide +kernel

/-- An ill-formed term for each check of these commands, which the check refuses (R7-R11, R43). -/
theorem test_illFormed6 : ([
    .scatter 160 0, .scatter 0 4, .retryReissue 160 0 0,
    .retryReissue 0 4 0, .retryReissue 0 0 8, .bkMvs 160 0,
    .bkMvs 0 4, .bkDot 160 0, .bkDot 0 4,
    .bkGred 160 0, .bkGred 0 4, .bkPqscan 160 0,
    .bkPqscan 0 4, .bkRowop 160 0, .bkRowop 0 4,
    .bkReservation 160 0 0, .bkReservation 0 4 0, .bkReservation 0 0 (2 ^ 16),
    .bkUploadDone 160 0 0, .bkUploadDone 0 4 0, .bkUploadDone 0 0 (2 ^ 16),
    .gangCommand 160 0 0 0, .gangCommand 0 4 0 0, .gangCommand 0 0 (2 ^ 16) 0,
    .gangCommand 0 0 0 32, .harnessEntry 12 0, .harnessEntry 0 32,
    .harnessOn 12 0, .harnessOn 0 32, .harnessExit 12 0] : List Instr).all (fun i => !i.wf) = true := by decide +kernel

/-- An ill-formed term for each check of these commands, which the check refuses (R7-R11, R43). -/
theorem test_illFormed7 : ([
    .harnessExit 0 32, .harnessOff 12 0, .harnessOff 0 32,
    .hmReqWrite 12 0, .hmReqWrite 0 (2 ^ 32), .vRegisterWrite (2 ^ 64) [],
    .vRegisterWrite 0 (List.replicate 4097 0), .cwWrite (2 ^ 64) [], .cwWrite 0 (List.replicate 4097 0),
    .cblWrite (2 ^ 64) [], .cblWrite 0 (List.replicate 4097 0), .fifoPop (2 ^ 64),
    .clear (2 ^ 64) 0 0, .clear 0 256 0, .clear 0 0 (2 ^ 16),
    .mvs (2 ^ 64) 0 0, .mvs 0 256 0, .mvs 0 0 (2 ^ 16),
    .dot (2 ^ 64) 0 0, .dot 0 256 0, .dot 0 0 (2 ^ 16),
    .gred (2 ^ 64) 0 0, .gred 0 256 0, .gred 0 0 (2 ^ 16),
    .pqscan (2 ^ 64) 0 0, .pqscan 0 256 0, .pqscan 0 0 (2 ^ 16),
    .copyOut (2 ^ 64) 0 0, .copyOut 0 256 0, .copyOut 0 0 (2 ^ 16)] : List Instr).all (fun i => !i.wf) = true := by decide +kernel

/-- An ill-formed term for each check of these commands, which the check refuses (R7-R11, R43). -/
theorem test_illFormed8 : ([
    .rowlist (2 ^ 64) 0 0, .rowlist 0 256 0, .rowlist 0 0 (2 ^ 16),
    .vet (2 ^ 64) 0 0, .vet 0 256 0, .vet 0 0 (2 ^ 16),
    .burnish (2 ^ 64) 0 0, .burnish 0 256 0, .burnish 0 0 (2 ^ 16),
    .rowlistPiece 12 0 0 0, .rowlistPiece 0 32 0 0, .rowlistPiece 0 0 32 0,
    .rowlistPiece 0 0 0 5, .legEnd 12 0 0 0 0, .legEnd 0 32 0 0 0,
    .legEnd 0 0 32 0 0, .gangResume 12 0 0 0, .gangResume 0 32 0 0,
    .gangResume 0 0 32 0, .gangWaitEnd 12 0 0 0, .gangWaitEnd 0 32 0 0,
    .gangWaitEnd 0 0 32 0, .seqLastStep 12 0 0 0, .seqLastStep 0 32 0 0,
    .seqLastStep 0 0 32 0, .seqDrained 12 0 0, .seqDrained 0 32 0,
    .seqDrained 0 0 32, .collectorSend 12 0 0, .collectorSend 0 32 0] : List Instr).all (fun i => !i.wf) = true := by decide +kernel

/-- An ill-formed term for each check of these commands, which the check refuses (R7-R11, R43). -/
theorem test_illFormed9 : ([
    .collectorSend 0 0 32, .recordWrite 160 0 0 0 0, .recordWrite 0 4 0 0 0,
    .recordWrite 0 0 (2 ^ 16) 0 0, .recordWrite 0 0 0 32 0, .recordWrite 0 0 0 0 32,
    .abGo 12, .linMapWrite 12 0 0, .linMapWrite 0 3 0,
    .linMapWrite 0 0 (2 ^ 32), .bmpMapWrite 12 0 0, .bmpMapWrite 0 3 0,
    .bmpMapWrite 0 0 (2 ^ 32), .segCreate 4, .segWrite 4,
    .segSeal 4, .segDelete 4, .segQuery 4,
    .segBind 4, .segUnbind 4, .segDone 4,
    .poolEnWrite 4 0 0, .poolEnWrite 0 16 0, .poolEnWrite 0 0 (2 ^ 64),
    .poolDisabled 4 0, .poolDisabled 0 16, .drFetch 160 0,
    .drFetch 0 4, .drPromote 160 0, .drPromote 0 4] : List Instr).all (fun i => !i.wf) = true := by decide +kernel

/-- An ill-formed term for each check of these commands, which the check refuses (R7-R11, R43). -/
theorem test_illFormed10 : ([
    .drUnpin 160 0, .drUnpin 0 4, .bulkPageLand 8 0 1 false,
    .bulkPageLand 0 0 0 false, .bulkPageLand 0 0 7 false, .bulkPageLand 0 0 1 true,
    .bulkPatrol 8 0, .dieRetire 8 0, .dieRetire 0 16,
    .memReadRequest (2 ^ 64) 0 0, .memReadRequest 0 4097 0, .memReadRequest 0 0 48,
    .memWriteRequest (2 ^ 64) [] 0 false, .memWriteRequest 0 (List.replicate 4097 0) 0 false, .memWriteRequest 0 [] 48 false,
    .partialMerge 12 0, .partialMerge 0 32, .refreshInterval 12 0 0,
    .refreshInterval 0 32 0, .refresh 12 0 none, .refresh 0 32 none,
    .refresh 0 0 (some (32)), .recalDue 12 0, .recalDue 0 32,
    .recalForced 12 0, .recalForced 0 32, .recalDone 12 0,
    .recalDone 0 32, .tollgateRefill 12, .requestUrgency 12 0 false 0 0] : List Instr).all (fun i => !i.wf) = true := by decide +kernel

/-- An ill-formed term for each check of these commands, which the check refuses (R7-R11, R43). -/
theorem test_illFormed11 : ([
    .requestUrgency 0 32 false 0 0, .caParity 12 0 0 0 0, .caParity 0 32 0 0 0,
    .caParity 0 0 32 0 0, .caParity 0 0 0 65536 0, .caParity 0 0 0 0 32,
    .wcrcExhausted 12 0 0 0 0, .wcrcExhausted 0 32 0 0 0, .wcrcExhausted 0 0 32 0 0,
    .wcrcExhausted 0 0 0 65536 0, .wcrcExhausted 0 0 0 0 32, .frzForce 12 0,
    .frzForce 0 (2 ^ 32), .frzRelease 12 0 [], .frzRelease 0 (2 ^ 32) [],
    .frzRelease 0 0 [⟨32, 1, 0, 0, 0, 0⟩], .frzRelease 0 0 [⟨0, 0, 0, 0, 0, 0⟩], .frzRelease 0 0 [⟨0, 5, 0, 0, 0, 0⟩],
    .frzRelease 0 0 [⟨0, 1, 32, 0, 0, 0⟩], .frzRelease 0 0 [⟨0, 1, 0, 65536, 0, 0⟩], .frzRelease 0 0 [⟨0, 1, 0, 0, 32, 0⟩],
    .frzRelease 0 0 [⟨0, 1, 0, 0, 0, 2 ^ 64⟩], .freezeAutoRelease 12 0 none, .freezeAutoRelease 0 32 none,
    .freezeAutoRelease 0 0 (some ⟨32, 1, 0, 0, 0, 0⟩), .freezeAutoRelease 0 0 (some ⟨0, 0, 0, 0, 0, 0⟩), .freezeAutoRelease 0 0 (some ⟨0, 5, 0, 0, 0, 0⟩),
    .freezeAutoRelease 0 0 (some ⟨0, 1, 32, 0, 0, 0⟩), .freezeAutoRelease 0 0 (some ⟨0, 1, 0, 65536, 0, 0⟩), .freezeAutoRelease 0 0 (some ⟨0, 1, 0, 0, 32, 0⟩)] : List Instr).all (fun i => !i.wf) = true := by decide +kernel

/-- An ill-formed term for each check of these commands, which the check refuses (R7-R11, R43). -/
theorem test_illFormed12 : ([
    .freezeAutoRelease 0 0 (some ⟨0, 1, 0, 0, 0, 2 ^ 64⟩), .scrubRead 12 0, .scrubRead 0 32,
    .scrubAgeLimit 12 0, .scrubAgeLimit 0 32, .scrubWriteback 12 0,
    .scrubWriteback 0 32, .rowRepair 12 0, .rowRepair 0 32,
    .repairWaitExpire 12 0, .repairWaitExpire 0 32, .ceWindowExpire 0x4000,
    .portEnWrite 32 0, .portEnWrite 0 (2 ^ 64), .retrain 32,
    .trainAttemptTimeout 32, .portUp 32 0 0, .portUp 0 17 0,
    .portUp 0 0 4096, .fastRetrain 32, .fastRetrainDone 32 false,
    .portDown 32 0, .portDown 0 8, .flitReceive 32 (List.replicate 1024 0) 0 false,
    .flitReceive 0 [] 0 false, .rdReq 32, .wr 32,
    .acc 32, .rdResp 32, .wrAck 32] : List Instr).all (fun i => !i.wf) = true := by decide +kernel

/-- An ill-formed term for each check of these commands, which the check refuses (R7-R11, R43). -/
theorem test_illFormed13 : ([
    .accAck 32, .signal 32, .remoteTimeout 32 0,
    .remoteTimeout 0 (2 ^ 16), .hello 32, .join 32,
    .present 32, .leave 32, .reachTimeout 32 0,
    .reachTimeout 0 4096, .selfAddrWrite 32 0, .selfAddrWrite 0 (2 ^ 64),
    .mbrClear 32, .prepare 4, .prepareDone 4,
    .cancel 4, .cartInsert 4 0 0, .cartInsert 0 (2 ^ 64) 0,
    .cartInsert 0 0 (2 ^ 32), .cartRemove 4, .warmingDone 4,
    .lockDone 4, .lockTimeout 4, .cartFault 4 0,
    .cartFault 0 8, .linkUp 2 false 0, .linkUp 0 false 65,
    .linkDown 2, .perstDeassert 2, .hdmCommit 2 0 0 0 0] : List Instr).all (fun i => !i.wf) = true := by decide +kernel

/-- An ill-formed term for each check of these commands, which the check refuses (R7-R11, R43). -/
theorem test_illFormed14 : ([
    .cxlMemRead 2 0 false, .cxlMemRead 0 (2 ^ 64) false, .cxlMemWrite 2 0 [] false false,
    .cxlMemWrite 0 (2 ^ 64) [] false false, .cxlMemWrite 0 0 (List.replicate 4097 0) false false, .membarRead (2 ^ 64) 0,
    .membarRead 0 4097, .membarWrite (2 ^ 64) [] false, .membarWrite 0 (List.replicate 4097 0) false,
    .cxlSnoop 2, .partitionFatal 0x4000 0 0, .partitionFatal 0 256 0,
    .partitionFatal 0 0 (2 ^ 64), .bulkFatal 8 0 0, .bulkFatal 0 256 0,
    .bulkFatal 0 0 (2 ^ 64), .portFatal 32 0 0, .portFatal 0 256 0,
    .portFatal 0 0 (2 ^ 64), .resetGo 4, .drainEnd 4,
    .scratchpadSamplingDone 4, .channelRestoreDone 12 0 false, .channelRestoreDone 0 32 false,
    .partResetDone 4, .ctxReplayed 160 0, .ctxReplayed 0 4,
    .readmit 4, .readmitDone 4 false [], .readmitDone 0 false [384]] : List Instr).all (fun i => !i.wf) = true := by decide +kernel

/-- An ill-formed term for each check of these commands, which the check refuses (R7-R11, R43). -/
theorem test_illFormed15 : ([
    .readmitDone 0 false [96], .spineSingleFault false (2 ^ 32), .spineStorageError (some (640)),
    .pskExchange (2 ^ 16), .pskFinish 64 false, .keyUpdate 64,
    .heartbeat 64, .heartbeatLapse 64, .pskLockoutEnd 3,
    .endSession 64, .getMeasurements 64 0, .getMeasurements 0 256,
    .keySet 64 0 [], .keySet 0 4 [], .keyClear 64 0,
    .keyClear 0 4, .pskSet 64 0 [], .pskSet 0 4 [],
    .dbgSet 64 0, .dbgSet 0 4, .lcAdvance 64 0 0,
    .lcAdvance 0 (2 ^ 32) 0, .lcAdvance 0 0 (2 ^ 64), .spdmPartOos 64 0,
    .spdmPartOos 0 4, .spdmPstate 64 0, .spdmPstate 0 (2 ^ 32),
    .d3hot 2, .d0 2, .pwrPartOos 4] : List Instr).all (fun i => !i.wf) = true := by decide +kernel

/-- An ill-formed term for each check of these commands, which the check refuses (R7-R11, R43). -/
theorem test_illFormed16 : ([
    .supplyRecovered (2 ^ 16), .hostStepWrite (2 ^ 64), .powerEnforce (2 ^ 16) 0 0 [] 0,
    .powerEnforce 0 (2 ^ 16) 0 [] 0, .powerEnforce 0 0 (2 ^ 16) [] 0, .powerEnforce 0 0 0 [2 ^ 16] 0,
    .powerEnforce 0 0 0 [] (2 ^ 64), .pllRelockDone 4, .sensorSample [],
    .refLoss 4, .powerOn false false 128 [] [] [] [], .powerOn false false 0 [4] [] [] [],
    .powerOn false false 0 [] [8] [] [], .powerOn false false 0 [] [] [384] [], .powerOn false false 0 [] [] [] [2 ^ 30],
    .requestUpdate (some (64)), .passComponentTable [6], .updateComponent 6,
    .verifyComplete false (2 ^ 32), .fwSwitch 6 0, .fwSwitchWaitExpire 12 0,
    .fwSwitchWaitExpire 0 32, .pldmPowerEffecter (some (64)) 0, .pldmPowerEffecter none (2 ^ 32),
    .pldmOosEffecter (some (64)) 0, .pldmOosEffecter none 4, .pldmSensorRead (some (64)) 0,
    .pldmSensorRead none 4096, .scratchpadScrub 160, .escWindowExpire 4] : List Instr).all (fun i => !i.wf) = true := by decide +kernel

/-- An ill-formed term for each check of these commands, which the check refuses (R7-R11, R43). -/
theorem test_illFormed17 : ([
    .go 64, .backInvalidateDone (2 ^ 58), .writeDrain 12 0,
    .writeDrain 0 32, .flitTransmit 32, .refRestored 4] : List Instr).all (fun i => !i.wf) = true := by decide +kernel

/-- The least operands of each command pass the check. -/
theorem test_wellFormed0 : ([
    .regWrite 0 0 0 0, .readClear 0 0 0, .sync 0,
    .fence 0, .unfence 0, .reset 0,
    .ctrlOpComplete 0 0, .pageLockSet 0, .irqForce 0 0,
    .rollback 0, .cfgSetFieldWrite 0 0 0 0, .milestoneArm 0 0 none 0 0,
    .milestoneDisarm 0 0, .epochAdvance 0, .epochBroadcast 0,
    .install 0 0, .close 0 0, .query 0 0,
    .free 0 0, .ldgRptrWrite 0, .sqTail 0 0,
    .cqHead 0 0, .sqFetch 0 (List.replicate 64 0) false, .sqNop 0,
    .sqLoad 0, .loaderDequeue 0, .loadSlots,
    .loadComplete 0, .loadWaitExpire 0, .loadQuery 0] : List Instr).all Instr.wf = true := by decide +kernel

/-- The least operands of each command pass the check. -/
theorem test_wellFormed1 : ([
    .run 0, .abort 0, .runComplete 0,
    .sessOpen 0, .sessClose 0, .sessionClosed 0,
    .fenceReq 0 0, .memFenceDone 0, .hsigSet 0 0,
    .hsigClear 0 0, .descLoad 0 0 0, .descStart 0 0 0,
    .descComplete 0 0 0 0, .nop 0 0 0, .wait 0 0 0,
    .barrier 0 0 0, .endDesc 0 0 0, .ctxBind 0 0,
    .epochWait 0 0, .flagSet 0 0, .flagClear 0 0,
    .flagToggle 0 0, .flagWait 0 0, .ctrAdd 0 0,
    .ctrSet 0 0, .ctrWait 0 0, .barInit 0 0,
    .barArrive 0 0, .barWait 0 0, .remoteSignal 0 0] : List Instr).all Instr.wf = true := by decide +kernel

/-- The least operands of each command pass the check. -/
theorem test_wellFormed2 : ([
    .hostNotify 0 0, .hopRead 0 0 0, .hopFlagSet 0 0 0,
    .hopFlagClear 0 0 0, .hopCtrAdd 0 0 0, .hopCtrSet 0 0 0,
    .hopBarInit 0 0 0, .hopBarArrive 0 0 0, .dbgRelease 0 0 0,
    .dbgWithdraw 0 0 0, .heldSignalApply 0 0, .wdogFire 0 0,
    .matmul 0 0, .vxMap 0 0, .vxReduce 0 0,
    .vxSoftmax 0 0, .vxNorm 0 0, .vxSort 0 0,
    .vxTopk 0 0, .vxSample 0 0, .vxConvert 0 0,
    .vxSelect 0 0, .sbClaim 0 0 0, .sbRelease 0 0 0 0 0,
    .narrowWriteback 0 0, .debugWindowAccess 0 0 false [] false, .spadPoisonMark 0,
    .load 0 0, .store 0 0, .gather 0 0] : List Instr).all Instr.wf = true := by decide +kernel

/-- The least operands of each command pass the check. -/
theorem test_wellFormed3 : ([
    .scatter 0 0, .retryReissue 0 0 0, .bkMvs 0 0,
    .bkDot 0 0, .bkGred 0 0, .bkPqscan 0 0,
    .bkRowop 0 0, .bkReservation 0 0 0, .bkUploadDone 0 0 0,
    .gangCommand 0 0 0 0, .harnessEntry 0 0, .harnessOn 0 0,
    .harnessExit 0 0, .harnessOff 0 0, .hmReqWrite 0 0,
    .vRegisterWrite 0 [], .cwWrite 0 [], .cblWrite 0 [],
    .fifoPop 0, .clear 0 0 0, .mvs 0 0 0,
    .dot 0 0 0, .gred 0 0 0, .pqscan 0 0 0,
    .copyOut 0 0 0, .rowlist 0 0 0, .vet 0 0 0,
    .burnish 0 0 0, .rowlistPiece 0 0 0 0, .legEnd 0 0 0 0 0] : List Instr).all Instr.wf = true := by decide +kernel

/-- The least operands of each command pass the check. -/
theorem test_wellFormed4 : ([
    .gangResume 0 0 0 0, .gangWaitEnd 0 0 0 0, .seqLastStep 0 0 0 0,
    .seqDrained 0 0 0, .collectorSend 0 0 0, .recordWrite 0 0 0 0 0,
    .abGo 0, .linMapWrite 0 0 0, .bmpMapWrite 0 0 0,
    .segCreate 0, .segWrite 0, .segSeal 0,
    .segDelete 0, .segQuery 0, .segBind 0,
    .segUnbind 0, .segDone 0, .poolEnWrite 0 0 0,
    .poolDisabled 0 0, .drFetch 0 0, .drPromote 0 0,
    .drUnpin 0 0, .bulkPageLand 0 0 1 false, .bulkPatrol 0 0,
    .retGo, .dieRetire 0 0, .memReadRequest 0 0 0,
    .memWriteRequest 0 [] 0 false, .partialMerge 0 0, .refreshInterval 0 0 0] : List Instr).all Instr.wf = true := by decide +kernel

/-- The least operands of each command pass the check. -/
theorem test_wellFormed5 : ([
    .refresh 0 0 none, .recalDue 0 0, .recalForced 0 0,
    .recalDone 0 0, .tollgateRefill 0, .requestUrgency 0 0 false 0 0,
    .caParity 0 0 0 0 0, .wcrcExhausted 0 0 0 0 0, .frzForce 0 0,
    .frzRelease 0 0 [], .freezeAutoRelease 0 0 none, .scrubRead 0 0,
    .scrubAgeLimit 0 0, .scrubWriteback 0 0, .repairGo,
    .rowRepair 0 0, .repairWaitExpire 0 0, .ceWindowExpire 0,
    .testModeOff, .dataOnly, .chkOnly,
    .rawRead, .portEnWrite 0 0, .retrain 0,
    .trainAttemptTimeout 0, .portUp 0 0 0, .fastRetrain 0,
    .fastRetrainDone 0 false, .portDown 0 0, .flitReceive 0 (List.replicate 1024 0) 0 false] : List Instr).all Instr.wf = true := by decide +kernel

/-- The least operands of each command pass the check. -/
theorem test_wellFormed6 : ([
    .rdReq 0, .wr 0, .acc 0,
    .rdResp 0, .wrAck 0, .accAck 0,
    .signal 0, .remoteTimeout 0 0, .hello 0,
    .join 0, .present 0, .leave 0,
    .presentTimer, .reachTimeout 0 0, .mbrLeave,
    .selfAddrWrite 0 0, .mbrClear 0, .prepare 0,
    .prepareDone 0, .cancel 0, .cartInsert 0 0 0,
    .cartRemove 0, .warmingDone 0, .lockDone 0,
    .lockTimeout 0, .cartFault 0 0, .linkUp 0 false 0,
    .linkDown 0, .perstDeassert 0, .hdmCommit 0 0 0 0 0] : List Instr).all Instr.wf = true := by decide +kernel

/-- The least operands of each command pass the check. -/
theorem test_wellFormed7 : ([
    .cxlMemRead 0 0 false, .cxlMemWrite 0 0 [] false false, .membarRead 0 0,
    .membarWrite 0 [] false, .cxlSnoop 0, .partitionFatal 0 0 0,
    .bulkFatal 0 0 0, .portFatal 0 0 0, .resetGo 0,
    .drainEnd 0, .scratchpadSamplingDone 0, .channelRestoreDone 0 0 false,
    .partResetDone 0, .ctxReplayed 0 0, .readmit 0,
    .readmitDone 0 false [], .spineSingleFault false 0, .spineResyncDone,
    .spineStorageError none, .deviceReset, .getVersion,
    .getCapabilities, .negotiateAlgorithms, .pskExchange 0,
    .pskFinish 0 false, .keyUpdate 0, .heartbeat 0,
    .heartbeatLapse 0, .pskLockoutEnd 0, .endSession 0] : List Instr).all Instr.wf = true := by decide +kernel

/-- The least operands of each command pass the check. -/
theorem test_wellFormed8 : ([
    .getMeasurements 0 0, .spdmUnsupported, .keySet 0 0 [],
    .keyClear 0 0, .pskSet 0 0 [], .dbgSet 0 0,
    .lcAdvance 0 0 0, .spdmPartOos 0 0, .spdmPstate 0 0,
    .unlockAll, .psGo, .d3hot 0,
    .d0 0, .pstateDone, .pwrPartOos 0,
    .supplyUndervoltage, .supplyRecovered 0, .supplyCollapse,
    .overvoltage, .fastClamp, .fastClampRelease,
    .railFault, .hostStepWrite 0, .stepMove,
    .powerEnforce 0 0 0 [] 0, .limitUnmet, .pllRelockDone 0,
    .sensorSample (List.replicate 476 0), .holdTimeout, .thermStepRaise] : List Instr).all Instr.wf = true := by decide +kernel

/-- The least operands of each command pass the check. -/
theorem test_wellFormed9 : ([
    .thermStepLower, .sensClear, .refLoss 0,
    .powerOn false false 0 [] [] [] [], .bootReady, .pwrDisAssert,
    .pwrDisDeassert, .moduleWithdraw, .requestUpdate none,
    .passComponentTable [], .updateComponent 0, .transferComplete,
    .verifyComplete false 0, .activateFirmware false, .fwSwitch 0 0,
    .fwSwitchWaitExpire 0 0, .pldmPowerEffecter none 0, .pldmOosEffecter none 0,
    .pldmSensorRead none 0, .scratchpadScrub 0, .escWindowExpire 0,
    .go 0, .backInvalidateDone 0, .writeDrain 0 0,
    .flitTransmit 0, .refRestored 0] : List Instr).all Instr.wf = true := by decide +kernel
/-! The queue and the invariants. -/

theorem test_step_front : ran .sensClear { s0 with pending := [.sensClear] } (fun t => t.pending = [.sensClear]) = true ∧
    step { s0 with pending := [.sensClear, .retGo] } = exec .sensClear { s0 with pending := [.retGo] } := ⟨by decide +kernel, rfl⟩
theorem test_step_idle : s0.pending = [] ∧ step s0 = .next s0 := ⟨rfl, rfl⟩
theorem test_reset_ok : s0.Ok := ok_of (by decide +kernel)

/-- One staged value of a set field. -/
def staged1 : State := wr 0x410 .hdrStaged 1 { s0 with staging := [⟨0x410, .mcsAgeCapNs, 0, 500⟩] }

theorem test_setsOnly : setsOnly staged1 ∧ ran (.regWrite 0x2018 0x124 4 5) staged1 (fun t => t.staging = staged1.staging) = true :=
  ⟨⟨by decide +kernel, by decide +kernel⟩, by decide +kernel⟩

/-! Register accesses (R24-R48). -/

theorem test_write_rw : ran (.regWrite 0x2018 0x124 4 77) s0 (fun t => rd t 0x2018 .epoVcmdStart = 77) = true ∧
    ran (.regWrite 0x2018 0x128 4 78) s0 (fun t => rd t 0x2018 .epoVcmdEnd = 78) = true := by decide +kernel
theorem test_write_ranged : (unitReachable s0 (.pt 3 1 3) = true ∧
    ran (.regWrite (UnitId.pt 3 1 3).page 0x12C 4 9) s0 (fun t => rd t 0x1C3C .evlBerThresh = 9) = true) ∧
    ran (.regWrite (UnitId.pt 3 1 3).page 0x12C 4 0) s0 (fun t => rd t 0x1C3C .evlBerThresh = 1000000 && rd t 0x1C3C .hdrBadWrite = 1) = true := by
  decide +kernel
theorem test_write_rwl : (rd s0 0x2050 .hdrLocked = 0 ∧ ran (.regWrite 0x2050 0x110 4 5) s0 (fun t => rd t 0x2050 .clkClkMax = 5) = true) := by decide +kernel
theorem test_write_locked : (wr 0x2050 .hdrLocked 1 s0).Ok ∧ rd (wr 0x2050 .hdrLocked 1 s0) 0x2050 .hdrLocked = 1 ∧
    ran (.regWrite 0x2050 0x110 4 5) (wr 0x2050 .hdrLocked 1 s0)
      (fun t => rd t 0x2050 .clkClkMax = 12 && rd t 0x2050 .hdrLockViolation = 1) = true ∧
    ran (.regWrite 0x2050 0x110 4 12) (wr 0x2050 .hdrLocked 1 s0) (fun t => rd t 0x2050 .hdrLockViolation = 0) = true :=
  ⟨ok_of (by decide +kernel), by decide +kernel⟩
theorem test_write_w1c : (wr 0x2028 .fltFltPend 0x1F s0).Ok ∧
    ran (.regWrite 0x2028 0x158 4 0x11) (wr 0x2028 .fltFltPend 0x1F s0) (fun t => rd t 0x2028 .fltFltPend = 0xE) = true :=
  ⟨ok_of (by decide +kernel), by decide +kernel⟩
theorem test_write_ro : unitOfPage 0x2018 = some (.epo, 0) ∧ ran (.regWrite 0x2018 0x44 4 0xFFFF) s0 (fun t => t.regs = []) = true := by decide +kernel
theorem test_write_bad : ¬((4 = 4 ∨ 4 = 8) ∧ 2 % 4 = 0 ∧ 2 + 4 ≤ 4096) ∧
    ran (.regWrite 0x2018 2 4 5) s0 (fun t => rd t 0x2010 .hdrErrCode = 1 && rd t 0x2010 .hdrErrDetail = 0x2018002) = true := by decide +kernel
theorem test_read_clears : (wr 0x2018 .epoAdvRefused 7 s0).Ok ∧ ran (.readClear 0x2018 0x118 4) (wr 0x2018 .epoAdvRefused 7 s0)
    (fun t => t.outbox = [.regData 0x2018 0x118 (7 * 65536)] && rd t 0x2018 .epoAdvRefused = 0) = true := ⟨ok_of (by decide +kernel), by decide +kernel⟩
theorem test_read_serai : (wr 0x2020 .seraiRemoteRejected 3 (wr 0x2020 .seraiWdogFires 2 s0)).Ok ∧
    ran (.readClear 0x2020 0x13C 4) (wr 0x2020 .seraiRemoteRejected 3 s0) (fun t => t.outbox = [.regData 0x2020 0x13C 3]) = true ∧
    ran (.readClear 0x2020 0x134 4) (wr 0x2020 .seraiWdogFires 2 s0) (fun t => rd t 0x2020 .seraiWdogFires = 0) = true :=
  ⟨ok_of (by decide +kernel), by decide +kernel⟩
theorem test_read_plain : ran (.readClear 0x2018 0x114 4) s0 (fun t => t.outbox = [.regData 0x2018 0x114 (24 * 256)] && t.regs = []) = true := by
  decide +kernel
theorem test_irqForce : s0.Ok ∧ unitOfPage 0x2018 = some (.epo, 0) ∧ takesWrites s0 .epo = true ∧
    ran (.irqForce 0x2018 0x10002) (wr 0x2018 .hdrIrqEn 2 s0)
      (fun t => rd t 0x2018 .hdrIrqStat = 0x10002 && t.outbox = [.msix 0 (rdi s0 0x2010 .hifIrqvVec 0x2018)]) = true :=
  ⟨ok_of (by decide +kernel), by decide +kernel⟩
theorem test_pageLock : s0.Ok ∧ unitOfPage (UnitId.core 1 0 2).page = some (.core 1 0 2, 0) ∧ takesWrites s0 (.core 1 0 2) = true ∧
    ran (.pageLockSet (UnitId.core 1 0 2).page) s0
      (fun t => (UnitId.core 1 0 2).all.all (fun v => rd t v.page .hdrLocked = 1) && rd t 0x2018 .hdrLocked = 0) = true :=
  ⟨ok_of (by decide +kernel), by decide +kernel⟩

/-! CTRL operations (R13-R16, R34-R37). -/

/-- `ctrlFree` from decidable parts. -/
theorem ctrlFree_of {s : State} {u : UnitId} {kind : CtrlKind}
    (h : (u ≠ .dev ∧ unitReachable s u = true ∧ ∀ v ∈ u.all, opRuns s v.page kind = false) ∧ opRuns s u.page .reset = false ∧
      u.partition.all (fun n => partState s n != 4 && !partHolds s n) = true) : ctrlFree s u kind := by
  refine ⟨h.1.1, h.1.2.1, h.1.2.2, h.2.1, fun n hn => ?_⟩
  have := h.2.2
  rw [hn] at this
  simpa using this

/-- A context whose queue `q` has started the descriptors `live`. -/
def withWork (g c q : Nat) (live : List Work) (s : State) : State :=
  let x := ctxAt s (ctxId g c)
  putCtx (ctxId g c) { x with st := .running, qs := setAt {} x.qs q { live := live } } s

/-- One started descriptor of the MXE of core 0. -/
def oneWork : State := withWork 0 0 0 [{ k := 0 }] s0

theorem test_sync : s0.Ok ∧ unitOfPage 0x431 = some (.pt 0 0 0, 0) ∧ ctrlFree s0 (.pt 0 0 0) .sync ∧
    (UnitId.pt 0 0 0).all.flatMap (unitWork s0) = [] ∧ ran (.sync 0x431) (wr 0x431 .hdrResult 5 s0)
      (fun t => rd t 0x431 .hdrResult = 0 && bit (rd t 0x431 .hdrIrqStat) 0 = 1) = true :=
  ⟨ok_of (by decide +kernel), by decide +kernel, ctrlFree_of (by decide +kernel), by decide +kernel, by decide +kernel⟩
theorem test_fence : ctrlFree s0 (.core 0 0 0) .fence ∧ (UnitId.core 0 0 0).all.flatMap (unitWork s0) = [] ∧
    ran (.fence (UnitId.core 0 0 0).page) s0
      (fun t => (UnitId.core 0 0 0).all.all fun v => rd t v.page .hdrFenced = 1) = true := ⟨ctrlFree_of (by decide +kernel), by decide +kernel, by decide +kernel⟩
theorem test_unfence : ctrlFree (wr 0x431 .hdrFenced 1 s0) (.pt 0 0 0) .unfence ∧
    ran (.unfence 0x431) (wr 0x431 .hdrFenced 1 s0) (fun t => rd t 0x431 .hdrFenced = 0 && bit (rd t 0x431 .hdrIrqStat) 0 = 1) = true :=
  ⟨ctrlFree_of (by decide +kernel), by decide +kernel⟩
theorem test_reset : isPartHeader (.pt 0 0 0) = false ∧ ctrlFree s0 (.pt 0 0 0) .reset ∧
    ran (.reset 0x431) (wr 0x431 .hdrLocked 1 (wr 0x431 .evlDupBcast 3 s0))
      (fun t => rd t 0x431 .hdrLocked = 0 && rd t 0x431 .evlDupBcast = 0) = true := ⟨by decide +kernel, ctrlFree_of (by decide +kernel), by decide +kernel⟩
theorem test_sync_waits : unitOfPage (UnitId.mx 0 0 0).page = some (.mx 0 0 0, 0) ∧ ctrlFree oneWork (.mx 0 0 0) .sync ∧
    (UnitId.mx 0 0 0).all.flatMap (unitWork oneWork) ≠ [] ∧
    ran (.sync (UnitId.mx 0 0 0).page) oneWork (fun t => opRuns t (UnitId.mx 0 0 0).page .sync) = true ∧
    ran (.fence (UnitId.mx 0 0 0).page) oneWork
      (fun t => opRuns t (UnitId.mx 0 0 0).page .fence && rd t (UnitId.mx 0 0 0).page .hdrFenced = 1) = true :=
  ⟨by decide +kernel, ctrlFree_of (by decide +kernel), by decide +kernel⟩

/-- A SYNC of a port page that waits for nothing any more. -/
def syncOver : State := { s0 with ops := [{ page := 0x431, kind := .sync, worst := 1 }] }

theorem test_ctrlOpComplete : syncOver.Ok ∧ CtrlKind.sync = ctrlKindOf 0 ∧
    (syncOver.ops.find? fun x => x.page = 0x431 && x.kind = .sync) = some { page := 0x431, kind := .sync, worst := 1 } ∧
    ran (.ctrlOpComplete 0x431 0) syncOver (fun t => t.ops = [] && rd t 0x431 .hdrResult = 1 && bit (rd t 0x431 .hdrIrqStat) 0 = 1) = true :=
  ⟨ok_of (by decide +kernel), by decide +kernel⟩
theorem test_reset_part : s0.Ok ∧ partState s0 3 = 0 ∧ pstate s0 = 0 ∧ s0.ops = [] ∧
    ran (.reset (UnitId.part 3).page) s0 (fun t => partState t 3 = 2 && opRuns t 0x1C00 .reset) = true := ⟨ok_of (by decide +kernel), by decide +kernel⟩
theorem test_reset_dev : s0.ops = [] ∧ ran (.reset 0x2000) (wr 0x2018 .hdrLocked 1 s0) (fun t => rd t 0x2018 .hdrLocked = 0) = true := by decide +kernel

/-- Partition 2 is out of service. -/
def oneOos : State := wri 0x2028 .fltPartState 2 4 s0

theorem test_sync_dev : oneOos.Ok ∧ oneOos.ops = [] ∧ (∀ n, n < 4 → partState oneOos n = 0 ∨ partState oneOos n = 4) ∧ pstate oneOos = 0 ∧
    UnitId.dev.all.flatMap (unitWork oneOos) = [] ∧
    ran (.sync 0x2000) oneOos (fun t => rd t 0x2000 .hdrResult = 1 && rd t 0x2000 .hdrSkippedPart = 4) = true :=
  ⟨ok_of (by decide +kernel), by decide +kernel, by decide +kernel, by decide +kernel, by decide +kernel, by decide +kernel⟩

/-! Configuration sets and milestones (R39, R41, R53, R65-R67). -/

theorem test_setWrite : s0.Ok ∧ unitReachable s0 (.mc 3 2) = true ∧
    ran (.cfgSetFieldWrite (UnitId.mc 3 2).page 0x104 4 100) s0
      (fun t => rd t 0x1C20 .hdrStaged = 1 && t.staging = [⟨0x1C20, .mcsAgeCapNs, 0, 100⟩]) = true ∧
    ran (.cfgSetFieldWrite (UnitId.mc 3 2).page 0x104 4 99) s0 (fun t => rd t 0x1C20 .hdrBadWrite = 1 && t.staging = []) = true :=
  ⟨ok_of (by decide +kernel), by decide +kernel⟩

/-- A memory controller with a previous set. -/
def prev1 : State := wr 0x410 .hdrPrevValid 1 { s0 with prevSet := [⟨0x410, .mcsAgeCapNs, 0, 500⟩] }

theorem test_rollback : prev1.Ok ∧ unitOfPage 0x410 = some (.mc 0 0, 0) ∧ (UnitId.mc 0 0).cfgVersioned = true ∧
    takesWrites prev1 (.mc 0 0) = true ∧ rd prev1 0x410 .hdrPrevValid = 1 ∧ (∀ v, v ∈ prev1.prevSet → v.fld.row.set = true) ∧
    (prev1.prevSet.filter fun e => e.page = 0x410) = [⟨0x410, .mcsAgeCapNs, 0, 500⟩] ∧
    ran (.rollback 0x410) prev1 (fun t => rd t 0x410 .mcsAgeCapNs = 500 && rd t 0x410 .hdrActiveBank = 1 && rd t 0x410 .hdrPrevValid = 0) = true :=
  ⟨ok_of (by decide +kernel), by decide +kernel, by decide +kernel, by decide +kernel, by decide +kernel, by decide +kernel, by decide +kernel, by decide +kernel⟩
theorem test_rollback_none : rd s0 0x410 .hdrPrevValid = 0 ∧ ran (.rollback 0x410) s0 (fun t => rd t 0x410 .hdrResult = 3) = true := by decide +kernel
theorem test_arm : takesWrites s0 .epo = true ∧ armedSlots s0 = [] ∧ actionAccepted .epo 2 255 = true ∧ epochNear (2 ^ 30 - 1) (epochNow s0) = true ∧
    epochAtOrBefore (2 ^ 30 - 1) (epochNow s0) = false ∧
    ran (.milestoneArm 0x2018 3 (some (2 ^ 30 - 1)) 2 255) s0
      (fun t => rdi t 0x2018 .hdrMsState 3 = 1 && rdi t 0x2018 .hdrMsEpoch 3 = 2 ^ 30 - 1 && rdi t 0x2018 .hdrMsArg 3 = 255) = true := by decide +kernel
theorem test_arm_past : actionAccepted .epo 0 7 = true ∧ epochNear 0 (epochNow s0) = true ∧ epochAtOrBefore 0 (epochNow s0) = true ∧
    pagePowered s0 0x2018 = true ∧ ran (.milestoneArm 0x2018 0 (some 0) 0 7) s0
      (fun t => rdi t 0x2018 .hdrMsState 0 = 2 && bit (rd t 0x2018 .hdrIrqStat) 2 = 1) = true := by decide +kernel
theorem test_arm_refused : rdi s0 0x2018 .hdrMsState 0 ≠ 1 ∧ epochNear (2 ^ 30) (epochNow s0) = false ∧ actionAccepted .epo 5 0 = false ∧
    ran (.milestoneArm 0x2018 0 (some (2 ^ 30)) 0 0) s0 (fun t => rdi t 0x2018 .hdrMsState 0 = 3) = true ∧
    ran (.milestoneArm 0x2018 0 (some 5) 5 0) s0 (fun t => rdi t 0x2018 .hdrMsState 0 = 3 && bit (rd t 0x2018 .hdrIrqStat) 2 = 1) = true := by
  decide +kernel
theorem test_disarm : (wri 0x2018 .hdrMsState 1 1 s0).Ok ∧ rdi (wri 0x2018 .hdrMsState 1 1 s0) 0x2018 .hdrMsState 1 = 1 ∧
    ran (.milestoneDisarm 0x2018 1) (wri 0x2018 .hdrMsState 1 1 s0) (fun t => rdi t 0x2018 .hdrMsState 1 = 0) = true :=
  ⟨ok_of (by decide +kernel), by decide +kernel⟩

/-! The epoch (R52-R56, R71, R411). -/

/-- EPOCH_NOW at `n`. -/
def atEpoch (n : Nat) : State := wr 0x2018 .epoEpochNow n s0

theorem test_advance : (atEpoch (2 ^ 32 - 2)).Ok ∧ armedSlots (atEpoch (2 ^ 32 - 2)) = [] ∧ rd (atEpoch (2 ^ 32 - 2)) 0x2018 .epoSrc = 0 ∧
    ran (.epochAdvance 5) (atEpoch (2 ^ 32 - 2))
      (fun t => epochNow t = 5 && rd t 0x2018 .epoEpochEra = 1 && rd t 0x2018 .epoAdvResult = 0) = true := ⟨ok_of (by decide +kernel), by decide +kernel⟩
theorem test_advance_codes :
    ran (.epochAdvance 9) (atEpoch 9) (fun t => rd t 0x2018 .epoAdvResult = 1 && rd t 0x2018 .epoAdvRefused = 0) = true ∧
    ran (.epochAdvance 8) (atEpoch 9) (fun t => rd t 0x2018 .epoAdvResult = 2 && rd t 0x2018 .epoAdvRefused = 1) = true ∧
    ran (.epochAdvance (9 + 2 ^ 30 - 1)) (atEpoch 9) (fun t => rd t 0x2018 .epoAdvResult = 0) = true ∧
    ran (.epochAdvance (9 + 2 ^ 30)) (atEpoch 9) (fun t => rd t 0x2018 .epoAdvResult = 3) = true ∧
    ran (.epochAdvance (9 + 2 ^ 31)) (atEpoch 9) (fun t => rd t 0x2018 .epoAdvResult = 3) = true := by decide +kernel
theorem test_advance_source : (wr 0x2018 .epoSrc 1 s0).Ok ∧ rd (wr 0x2018 .epoSrc 1 s0) 0x2018 .epoSrc = 1 ∧
    ran (.epochAdvance 8) (wr 0x2018 .epoSrc 1 s0)
      (fun t => rd t 0x2018 .epoAdvResult = 4 && epochNow t = 0 && bit (rd t 0x2018 .hdrIrqStat) 17 = 1) = true := ⟨ok_of (by decide +kernel), by decide +kernel⟩

/-- Frame `f` is the oldest of VC `v` at port `p`. -/
def inRx (p v : Nat) (f : List Byte) (s : State) : State := putPort p { portAt s p with rx := setAt [] (portAt s p).rx v [f] } s

/-- An EPOCH frame of member 7: epoch 40, broadcast number 3. -/
def epochFrame : List Byte := hdrBytes { type := 0x34, src := 7, dva := 40 + 3 * 2 ^ 32 }

/-- It waits at port 31, and member 7 is the epoch's source. -/
def bcastIn : State := inRx 31 3 epochFrame (wr 0x2018 .epoSrc 1 (wr 0x2018 .epoPeer 7 s0))

theorem test_broadcast : bcastIn.Ok ∧ armedSlots bcastIn = [] ∧ mgmtFrame bcastIn 31 0x34 = some epochFrame ∧
    rd bcastIn 0x2018 .epoSrc = 1 ∧ rd bcastIn 0x2018 .epoPeer = (hdrOf epochFrame).src ∧
    SMap.get (fun _ => none) bcastIn.bseqs (hdrOf epochFrame).src = none ∧ advanceCode bcastIn (bits (hdrOf epochFrame).dva 31 0) false = 0 ∧
    ran (.epochBroadcast 31) bcastIn (fun t => epochNow t = 40 && t.bseqs = [(7, some 3)]) = true :=
  ⟨ok_of (by decide +kernel), by decide +kernel, by decide +kernel, by decide +kernel, by decide +kernel, by decide +kernel, by decide +kernel, by decide +kernel⟩
theorem test_broadcast_again : SMap.get (fun _ => none) { bcastIn with bseqs := [(7, some 3)] }.bseqs (hdrOf epochFrame).src = some 3 ∧
    bits (hdrOf epochFrame).dva 47 32 = 3 ∧ ran (.epochBroadcast 31) { bcastIn with bseqs := [(7, some 3)] }
      (fun t => epochNow t = 0 && rd t (portPage 31) .evlDupBcast = 1) = true := by decide +kernel

/-! The version table (R61-R64) and the ledgers (R68, R70). -/

/-- Commands with START 10 and END 20. -/
def vcmdIn : State := wr 0x2018 .epoVcmdStart 10 (wr 0x2018 .epoVcmdEnd 20 (wr 0x2018 .epoVcmdBase 6 s0))

theorem test_install : vcmdIn.Ok ∧ (vslotAt vcmdIn (63 * 4 + 3)).st = .free ∧ epochBefore (epochNow vcmdIn) (rd vcmdIn 0x2018 .epoVcmdStart) = true ∧
    epochNear (rd vcmdIn 0x2018 .epoVcmdStart) (epochNow vcmdIn) = true ∧ startIsLast vcmdIn 63 (rd vcmdIn 0x2018 .epoVcmdStart) = true ∧
    ran (.install 63 3) vcmdIn (fun t => rd t 0x2018 .epoVcResult = 0 && vslotAt t 255 = { st := .open, start := 10, base := 6, gen := 1 }) = true :=
  ⟨ok_of (by decide +kernel), by decide +kernel, by decide +kernel, by decide +kernel, by decide +kernel, by decide +kernel⟩
theorem test_install_closes : startIsLast (putVslot 1 { st := .open, start := 4 } vcmdIn) 0 10 = true ∧
    ran (.install 0 0) (putVslot 1 { st := .open, start := 4 } vcmdIn)
      (fun t => vslotAt t 1 = { st := .closed, start := 4, fin := 10 } && (vslotAt t 0).st = .open) = true ∧
    (vslotAt (putVslot 1 { st := .open, start := 4 } vcmdIn) 1).st ≠ .free ∧
    ran (.install 0 1) (putVslot 1 { st := .open, start := 4 } vcmdIn) (fun t => rd t 0x2018 .epoVcResult = 1) = true := by decide +kernel
theorem test_close : (vslotAt (putVslot 1 { st := .open, start := 4 } vcmdIn) 1).st = .open ∧
    epochBefore (epochNow vcmdIn) (rd vcmdIn 0x2018 .epoVcmdEnd) = true ∧ epochNear (rd vcmdIn 0x2018 .epoVcmdEnd) (epochNow vcmdIn) = true ∧
    epochBefore 4 (rd vcmdIn 0x2018 .epoVcmdEnd) = true ∧ ran (.close 0 1) (putVslot 1 { st := .open, start := 4 } vcmdIn)
      (fun t => vslotAt t 1 = { st := .closed, start := 4, fin := 20 } && rd t 0x2018 .epoVcResult = 0) = true := by decide +kernel
theorem test_query : ran (.query 0 1) (putVslot 1 { st := .open, start := 4, gen := 9 } vcmdIn)
    (fun t => rd t 0x2018 .epoVsState = 1 && rd t 0x2018 .epoVsGen = 9 && rd t 0x2018 .epoVcResult = 0) = true := by decide +kernel
theorem test_free : (putVslot 1 { st := .retired, start := 4, gen := 9 } s0).Ok ∧
    (∀ n, n < 4 → droverHolds (putVslot 1 { st := .retired, start := 4, gen := 9 } s0) n (0 * 4 + 1) = false) ∧
    ran (.free 0 1) (putVslot 1 { st := .retired, start := 4, gen := 9 } s0)
      (fun t => vslotAt t 1 = { gen := 9 } && rd t 0x2018 .epoVcResult = 0) = true := ⟨ok_of (by decide +kernel), by decide +kernel, by decide +kernel⟩

/-- Ledger of page 0x410 selected and on, two records written, one slot read, and 5 records lost. -/
def ledger1 : State :=
  wr 0x2018 .epoLdgSel 0x410 (wri 0x2018 .epoLdgEn 0x410 1 (wri 0x2018 .epoLdgWptr 0x410 2 (wri 0x2018 .epoLdgRptr 0x410 1 s0)))

theorem test_rptr : ledger1.Ok ∧ rd ledger1 0x2018 .epoLdgSel = 0x410 ∧ SMap.get (fun _ => 0) ledger1.ldgLost 0x410 = 0 ∧
    (rdi ledger1 0x2018 .epoLdgWptr 0x410 + 2 ^ 24 - 2) % 2 ^ 24 ≤
      (rdi ledger1 0x2018 .epoLdgWptr 0x410 + 2 ^ 24 - rdi ledger1 0x2018 .epoLdgRptr 0x410) % 2 ^ 24 ∧
    ran (.ldgRptrWrite 2) ledger1 (fun t => rdi t 0x2018 .epoLdgRptr 0x410 = 2) = true ∧
    ran (.ldgRptrWrite 0) ledger1 (fun t => rdi t 0x2018 .epoLdgRptr 0x410 = 1 && rd t 0x2018 .hdrBadWrite = 1) = true :=
  ⟨ok_of (by decide +kernel), by decide +kernel⟩
theorem test_rptr_lost : rdi ledger1 0x2018 .epoLdgEn 0x410 = 1 ∧ 0 < 2 ^ rdi ledger1 0x2018 .epoLdgSize 0x410 ∧
    ran (.ldgRptrWrite 2) { ledger1 with ldgLost := [(0x410, 5)] }
      (fun t => rdi t 0x2018 .epoLdgRptr 0x410 = 2 && t.ldgLost = [] && rdi t 0x2018 .epoLdgWptr 0x410 = 3) = true := by decide +kernel

/-! Sessions (R424-R431). -/

/-- Session 63 is OPEN on link 0, which is up with CXL. -/
def sessOn : State := wri pgHif .hifSessState 63 1 (wri pgHif .hifLinkState 0 3 s0)

/-- `Completed`, evaluated. -/
def completed (x : Nat) (r : CmdRecord) (s t : State) : Bool :=
  (t.outbox.drop s.outbox.length).contains
      (.hostWrite (sessLink s x) x (rdi s pgHif .hifCqBase x + 32 * rdi s pgHif .hifCqTail x) (cmdBytes (epochNow s) r)) &&
    rdi t pgHif .hifCqTail x = (rdi s pgHif .hifCqTail x + 1) % 2 ^ rdi s pgHif .hifCqLog2 x

/-- `n` bytes with values at byte offsets. -/
def bytesOf (n : Nat) (l : List (Nat × Nat)) : List Byte := leBytes n (l.map fun e => e.2 * 2 ^ (8 * e.1)).sum

/-- Entry `e` of session 63 has been fetched. -/
def fetchedIn (e : List Byte) (s : State) : State := putSess 63 { fetched := some e, reserved := 1 } s

/-- A submission entry of opcode `op` and tag 9. -/
def sqe (op : Nat) (l : List (Nat × Nat)) : List Byte := bytesOf 64 ([(0, op), (4, 9)] ++ l)

theorem test_doorbell_closed : sessState s0 63 ≠ 1 ∧
    ran (.sqTail 63 1) s0 (fun t => rd t pgHif .hifDbDiscard = 1 && bit (rd t pgHif .hdrIrqStat) 17 = 1) = true ∧
    ran (.cqHead 63 0) s0 (fun t => rd t pgHif .hifDbDiscard = 1) = true ∧ ran (.fenceReq 63 1) s0 (fun t => rd t pgHif .hifDbDiscard = 1) = true ∧
    ran (.hsigSet 63 1) s0 (fun t => rd t pgHif .hifDbDiscard = 1) = true ∧ ran (.hsigClear 63 1) s0 (fun t => rd t pgHif .hifDbDiscard = 1) = true := by
  decide +kernel
theorem test_doorbell_range : 2 ^ rdi sessOn pgHif .hifSqLog2 63 ≤ 16 % 2 ^ 16 ∧ 2 ^ rdi sessOn pgHif .hifCqLog2 63 ≤ 64 % 2 ^ 16 ∧
    ran (.sqTail 63 16) sessOn (fun t => rd t pgHif .hifDbDiscard = 1) = true ∧
    ran (.cqHead 63 64) sessOn (fun t => rd t pgHif .hifDbDiscard = 1) = true := by decide +kernel
theorem test_sqTail : sessOn.Ok ∧ sessState sessOn 63 = 1 ∧ pstate sessOn ≠ 3 ∧ 15 % 2 ^ 16 < 2 ^ rdi sessOn pgHif .hifSqLog2 63 ∧
    ran (.sqTail 63 15) sessOn (fun t => (sessAt t 63).sqTail = 15) = true := ⟨ok_of (by decide +kernel), by decide +kernel⟩
theorem test_cqHead : (rdi (wri pgHif .hifCqTail 63 5 sessOn) pgHif .hifCqTail 63 + 64 - 5) % 64 ≤
      (rdi (wri pgHif .hifCqTail 63 5 sessOn) pgHif .hifCqTail 63 + 64 - (sessAt sessOn 63).cqHead) % 64 ∧
    ran (.cqHead 63 5) (wri pgHif .hifCqTail 63 5 sessOn) (fun t => (sessAt t 63).cqHead = 5) = true ∧
    ran (.cqHead 63 6) (wri pgHif .hifCqTail 63 5 sessOn) (fun t => rd t pgHif .hifDbDiscard = 1 && (sessAt t 63).cqHead = 0) = true := by
  decide +kernel
theorem test_sqFetch : (putSess 63 { sqTail := 1 } sessOn).Ok ∧ mayFetch (putSess 63 { sqTail := 1 } sessOn) 63 = true ∧
    entryBad sessOn.variant (slice (sqe 1 []) 0 64) = none ∧
    ran (.sqFetch 63 (sqe 1 []) false) (putSess 63 { sqTail := 1 } sessOn)
      (fun t => (sessAt t 63).fetched = some (sqe 1 []) && rdi t pgHif .hifSqHead 63 = 1 && (sessAt t 63).reserved = 1 &&
        t.outbox = [.hostRead 0 63 0]) = true := ⟨ok_of (by decide +kernel), by decide +kernel⟩
theorem test_sqFetch_empty : (sessAt sessOn 63).sqTail = rdi sessOn pgHif .hifSqHead 63 ∧
    ran (.sqFetch 63 (sqe 1 []) false) sessOn (fun t => t.outbox = []) = true := by decide +kernel
theorem test_sessOpen : s0.Ok ∧ sessState s0 63 = 0 ∧ sessArgsOk s0 63 = true ∧
    ran (.sessOpen 63) s0 (fun t => sessState t 63 = 1 && rdi t pgHif .hifSessResult 63 = 0) = true := ⟨ok_of (by decide +kernel), by decide +kernel⟩
theorem test_sessOpen_not : sessState sessOn 63 ≠ 0 ∧ sessArgsOk (wri pgHif .hifSqBase 0 8 s0) 0 = false ∧
    ran (.sessOpen 63) sessOn (fun t => rdi t pgHif .hifSessResult 63 = 1 && sessState t 63 = 1) = true ∧
    ran (.sessOpen 0) (wri pgHif .hifSqBase 0 8 s0) (fun t => rdi t pgHif .hifSessResult 0 = 2 && sessState t 0 = 0) = true := by decide +kernel

/-- A load and a run of session 63 are in progress. -/
def busySess : State :=
  putCtx 8 { st := .running, run := 1 } (putRun 1 (some { sess := 63, tag := 4, ctxs := [8] }) { sessOn with loadQ := [{ sess := 63 }, { sess := 2 }] })

theorem test_sessClose : busySess.Ok ∧ sessState busySess 63 = 1 ∧ runOpen busySess 1 { sess := 63, tag := 4, ctxs := [8] } = true ∧
    ran (.sessClose 63) busySess (fun t => sessState t 63 = 2 && rdi t pgHif .hifSessGo 63 = 1 && t.loadQ = [{ sess := 2 }] &&
      (runAt t 1).any (·.aborted)) = true := ⟨ok_of (by decide +kernel), by decide +kernel⟩
theorem test_sessClose_not : sessState s0 0 ≠ 1 ∧ ran (.sessClose 0) s0 (fun t => rdi t pgHif .hifSessResult 0 = 1) = true := by decide +kernel
theorem test_sessionClosed : (wri pgHif .hifSessState 63 2 s0).Ok ∧ sessState (wri pgHif .hifSessState 63 2 s0) 63 = 2 ∧
    sessQuiet (wri pgHif .hifSessState 63 2 s0) 63 = true ∧
    ran (.sessionClosed 63) (wri pgHif .hifSessState 63 2 s0) (fun t => sessState t 63 = 0 && rdi t pgHif .hifSessGo 63 = 0) = true :=
  ⟨ok_of (by decide +kernel), by decide +kernel⟩

/-! Commands of submission entries (R153-R168, R429-R437). -/

theorem test_sqNop : (fetchedIn (sqe 1 []) sessOn).Ok ∧ fetchedOp (fetchedIn (sqe 1 []) sessOn) 63 1 = some (sqe 1 []) ∧
    ran (.sqNop 63) (fetchedIn (sqe 1 []) sessOn) (fun t => completed 63 { tag := 9, opcode := 1 } sessOn t && (sessAt t 63).fetched = none) = true :=
  ⟨ok_of (by decide +kernel), by decide +kernel⟩
theorem test_sqLoad : fetchedOp (fetchedIn (sqe 2 [(8, 64)]) sessOn) 63 2 = some (sqe 2 [(8, 64)]) ∧ rd sessOn 0x2028 .fltDevService ≠ 2 ∧
    pstate sessOn ≤ 1 ∧ sessOn.loadQ.length < 16 ∧ ran (.sqLoad 63) (fetchedIn (sqe 2 [(8, 64)]) sessOn)
      (fun t => t.loadQ.map (·.tag) = [9] && (t.loadQ.map fun c => ldImage c.body) = [64]) = true := by decide +kernel

/-- Channel 0 of stack 0 is NORMAL. -/
def chan0 (s : State) : State := putChan 0 { st := .normal } s

/-- The body of a load command: image at 0x40, placement at 0, report at 0 of 64 bytes. -/
def ldBody : List Byte := bytesOf 36 [(0x00, 0x40), (0x08, 256), (0x20, 64)]


theorem test_sqLoad_full : ({ chan0 sessOn with loadQ := List.replicate 16 {} } : State).Ok ∧
    let e := bytesOf 8 [(0, 2), (4, 9)] ++ ldBody ++ leBytes 20 0
    let s := fetchedIn e { chan0 sessOn with loadQ := List.replicate 16 {} }
    fetchedOp s 63 2 = some e ∧ 16 ≤ s.loadQ.length ∧ reportable s (slice e 8 36) = true ∧ reportHeld s (slice e 8 36) = none ∧
      ran (.sqLoad 63) s (fun t => completed 63 { tag := 9, opcode := 2, result := 0x1C, cstat := 4 } s t && t.loadQ.length = 16) = true :=
  ⟨ok_of (by decide +kernel), by decide +kernel⟩

/-- A load query of core 7, its record at 0. -/
def queryIn : State := fetchedIn (sqe 3 [(8, (coreUnit 7).page)]) (chan0 sessOn)

theorem test_loadQuery : queryIn.Ok ∧ fetchedOp queryIn 63 3 = some (sqe 3 [(8, (coreUnit 7).page)]) ∧
    coreOfPage (fieldAt (sqe 3 [(8, (coreUnit 7).page)]) 8 13 0) = some 7 ∧ spineHeld 0 32 true queryIn = none ∧ spanGone queryIn 0 32 = false ∧
    ran (.loadQuery 63) queryIn (fun t => completed 63 { tag := 9, opcode := 3 } queryIn t && t.dram != []) = true :=
  ⟨ok_of (by decide +kernel), by decide +kernel⟩
theorem test_abort_none : (fetchedIn (sqe 5 [(8, 77)]) busySess).Ok ∧ fetchedOp (fetchedIn (sqe 5 [(8, 77)]) busySess) 63 5 = some (sqe 5 [(8, 77)]) ∧
    abortTargets (fetchedIn (sqe 5 [(8, 77)]) busySess) 63 77 = [] ∧ ran (.abort 63) (fetchedIn (sqe 5 [(8, 77)]) busySess)
      (fun t => completed 63 { tag := 9, opcode := 5, detail := 1 } busySess t) = true := ⟨ok_of (by decide +kernel), by decide +kernel⟩
theorem test_abort : abortTargets (fetchedIn (sqe 5 [(8, 4)]) busySess) 63 4 = [1] ∧ ran (.abort 63) (fetchedIn (sqe 5 [(8, 4)]) busySess)
    (fun t => t.abortWaits = [⟨63, 9, false, [1]⟩] && (runAt t 1).any (·.aborted) && (ctxAt t 8).st = .halted) = true := by decide +kernel

/-- The oldest load has the body `b`. -/
def loadIn (b : List Byte) : State := { chan0 sessOn with loadQ := [{ sess := 63, tag := 9, body := b }] }

theorem test_loader_command : (loadIn (bytesOf 36 [(0x20, 64)])).loading = none ∧
    commandFindings .m768 (bytesOf 36 [(0x20, 64)]) ≠ [] ∧ reportHeld (loadIn (bytesOf 36 [(0x20, 64)])) (bytesOf 36 [(0x20, 64)]) = none ∧
    ran (.loaderDequeue 5) (loadIn (bytesOf 36 [(0x20, 64)]))
      (fun t => completed 63 { tag := 9, opcode := 2, result := 0x05, cstat := 4 } (loadIn []) t && t.loadQ = []) = true := by decide +kernel
theorem test_loader_run : commandFindings .m768 ldBody = [] ∧ partState (putChan 1 { st := .normal } (loadIn ldBody)) 3 = 0 ∧
    loadHeld ldBody (putChan 1 { st := .normal } (loadIn ldBody)) = none := by decide +kernel
theorem test_endLoad : (loadIn ldBody).Ok ∧ reportable (loadIn ldBody) ldBody = true ∧
    completed 63 { tag := 9, opcode := 2, result := 3, cstat := 4 } (loadIn ldBody)
      (endLoad { sess := 63, tag := 9, body := ldBody } { result := 3 } (loadIn ldBody)) = true := ⟨ok_of (by decide +kernel), by decide +kernel⟩

/-- The loader places an image on cores 2 and 3, slot 1; it `writing`s or waits. -/
def loadingIn (writing : Bool) : Loading :=
  { cmd := { sess := 63, tag := 9, body := ldBody }, image := [1, 2], cores := [2, 3], target := 1, writing := writing }

/-- An image of one virtual core with a stream of one NOP for queue 0. -/
def imgS : List Byte := bytesOf 0xC0 [(0x18, 0x40), (0x1C, 1), (0x38, 1), (0x44, 0x80), (0x48, 1 + 2 ^ 16), (0x80, 1)]

/-- A run uses slot 1 of core 2 and has not loaded its streams. -/
def slotUsed : State :=
  putPm 5 { st := .draining, loadId := 6 } (putCtx 8 { st := .running, run := 1 } (putRun 1 (some { sess := 63, slot := 1, loadId := 6, image := imgS, ctxs := [8] })
    { chan0 sessOn with loading := some (loadingIn false) }))

theorem test_loadSlots : ({ chan0 sessOn with loading := some (loadingIn false) } : State).Ok ∧
    (∀ g, g ∈ [2, 3] → slotFree { chan0 sessOn with loading := some (loadingIn false) } g 1 = true) ∧
    ran .loadSlots { chan0 sessOn with loading := some (loadingIn false) }
      (fun t => t.loading = some (loadingIn true) && (pmAt t 7).st = .loading) = true := ⟨ok_of (by decide +kernel), by decide +kernel, by decide +kernel⟩
theorem test_loadComplete :
    let s : State := { chan0 sessOn with loading := some (loadingIn true), loadCount := 65535 }
    [2, 3].eraseDups = [2, 3] ∧ reportable s ldBody = true ∧ reportHeld s ldBody = none ∧ s.pms.length ≤ 320 ∧
      ran (.loadComplete 5) s (fun t => pmAt t 7 = { st := .ready, loadId := 1, image := [1, 2], vcore := 1 } && t.loading = none &&
        completed 63 { tag := 9, id := 1, opcode := 2 } s t) = true := by decide +kernel
theorem test_loadWaitExpire : slotUsed.Ok ∧ slotFree slotUsed 2 1 = false ∧ reportable slotUsed ldBody = true ∧ reportHeld slotUsed ldBody = none ∧
    ran (.loadWaitExpire 5) slotUsed (fun t => t.loading = none && (pmAt t 5).st = .active && (pmAt t 7).st = .ready &&
      rdi t pgHif .hifCqTail 63 = 1) = true := ⟨ok_of (by decide +kernel), by decide +kernel⟩

/-! Runs (R433-R436), the GO of a write (R431), fences and host signals (R441, R443). -/

/-- An image of one virtual core; every stream it does not hold is one END. -/
def img1 : List Byte := bytesOf 256 [(0x38, 1)]

/-- A run block of LOAD_ID 6, its placement entry at 0x80, which places context 0 on context 3 of core 2. -/
def runBytes : List Byte := bytesOf 0x90 [(0, 6), (0x10, 0x80), (0x80, (coreUnit 2).page + 2 ^ 16 + 3 * 2 ^ 24)]

/-- The run block stands at 0, and slot 0 of core 2 holds its image. -/
def runIn : State := fetchedIn (sqe 4 []) (putPm 4 { st := .ready, loadId := 6, image := img1 } (chan0 (putColData 0 runBytes sessOn)))

theorem test_run : fetchedOp runIn 63 4 = some (sqe 4 []) ∧ pstate runIn = 0 ∧ psMoving runIn = false ∧
    spineHeld 0 0x80 false runIn = none ∧ (spineRead 0 0x80 runIn).1.map spanBytes = some (slice runBytes 0 0x80, none) ∧
    rbBinds (slice runBytes 0 0x80) + rbRegions (slice runBytes 0 0x80) = 0 ∧ runBlockBad (spineRead 0 0x80 runIn).2 (slice runBytes 0 0x80) = none ∧
    loadedImage runIn 6 = some img1 ∧ spineHeld 0x80 16 false runIn = none := by decide +kernel
theorem test_run_starts : runIn.Ok ∧
    (spineRead 0x80 16 (takeEntry 63 (spineRead 0 0x80 runIn).2)).1 = some ((slice runBytes 0x80 16).map (·, false)) ∧
    runRefusal (spineRead 0x80 16 (takeEntry 63 (spineRead 0 0x80 runIn).2)).2 (slice runBytes 0 0x80) (some (slice runBytes 0x80 16)) = none ∧
    ran (.run 63) runIn (fun t => (runAt t 1).any (fun u => u.ctxs = [11] && u.tag = 9) && t.nextRun = 2 && (ctxAt t 11).st = .running &&
      (pmAt t 4).st = .active) = true := ⟨ok_of (by decide +kernel), by decide +kernel⟩
theorem test_run_refused :
    let s := putPm 4 { st := .draining, loadId := 6, image := img1 }
      (putCtx 8 { st := .running, run := 1 } (putRun 1 (some { sess := 63, loadId := 6, image := imgS, ctxs := [8] }) runIn))
    runRefusal (spineRead 0x80 16 (takeEntry 63 (spineRead 0 0x80 s).2)).2 (slice runBytes 0 0x80) (some (slice runBytes 0x80 16)) = some 0x20 ∧
      ran (.run 63) s (fun t => completed 63 { tag := 9, opcode := 4, result := 0x20, cstat := 4 } s t && t.runs.length = 1) = true := by decide +kernel
theorem test_run_p2 : pstate (wr 0x2040 .pwrPstate 2 runIn) = 2 ∧ ran (.run 63) (wr 0x2040 .pwrPstate 2 runIn)
    (fun t => completed 63 { tag := 9, opcode := 4, result := 0x24, cstat := 4 } runIn t) = true := by decide +kernel

/-- A run of session 63 whose context has completed an END on every queue. -/
def runOver : State := putCtx 11 { st := .running, run := 1, wbDone := List.replicate 8 1 }
  (putRun 1 (some { sess := 63, tag := 4, image := img1, ctxs := [11] }) sessOn)

theorem test_runComplete : runOver.Ok ∧ ctxDone { sess := 63, tag := 4, image := img1, ctxs := [11] } (ctxAt runOver 11) = true ∧
    [11].eraseDups = [11] ∧ ran (.runComplete 1) runOver (fun t => runAt t 1 = none && (ctxAt t 11).st = .free &&
      (ctxAt t 11).wbDone = List.replicate 8 1 && completed 63 { tag := 4, opcode := 4 } runOver t) = true := ⟨ok_of (by decide +kernel), by decide +kernel⟩
theorem test_go : (putSess 63 { sent := [.record true] } sessOn).Ok ∧
    ran (.go 63) (putSess 63 { sent := [.record true] } (wri pgHif .hifCqTail 63 4 sessOn))
      (fun t => (sessAt t 63).sent = [] && t.outbox = [.hostWrite 0 63 0 (leBytes 8 4), .msix 0 63]) = true := ⟨ok_of (by decide +kernel), by decide +kernel⟩
theorem test_fenceReq : ran (.fenceReq 63 (2 ^ 32 - 1)) sessOn (fun t => (sessAt t 63).fences = [2 ^ 32 - 1]) = true ∧
    ran (.memFenceDone 63) (putSess 63 { fences := [3, 8] } sessOn) (fun t => (sessAt t 63).fences = [] && (sessAt t 63).fenceDone = 8) = true := by
  decide +kernel

/-- The host window of the device Serai's flags ends at 1023. -/
def hsigIn : State := wri 0x2020 .seraiHwinBase 0 1000 (wri 0x2020 .seraiHwinCount 0 24 (wri pgHif .hifSflagBase 63 1000 sessOn))

theorem test_hsig : hsigIn.Ok ∧ rdi hsigIn pgHif .hifSflagBase 63 + 23 < 1024 ∧ rd hsigIn 0x2020 .hdrFenced = 0 ∧
    inHostWindow hsigIn 4 0 (rdi hsigIn pgHif .hifSflagBase 63 + 23) = true ∧
    ran (.hsigSet 63 23) hsigIn (fun t => flagAt t 4 1023) = true ∧ ran (.hsigClear 63 23) (putFlag 4 1023 true hsigIn) (fun t => !flagAt t 4 1023) = true :=
  ⟨ok_of (by decide +kernel), by decide +kernel⟩
theorem test_hsig_outside : inHostWindow hsigIn 4 0 (rdi hsigIn pgHif .hifSflagBase 63 + 24) = false ∧ debugLevel hsigIn ≠ 2 ∧
    ran (.hsigSet 63 24) hsigIn (fun t => rd t pgHif .hifDbDiscard = 1) = true := by decide +kernel

/-! Descriptors (R110-R122), on context 3 of core 7. -/

/-- A descriptor image of type `ty` for queue `q`. -/
def dsc (ty q : Nat) (l : List (Nat × Nat)) : List Byte := bytesOf 64 ([(0, ty), (1, q)] ++ l)

/-- Run 1 of session 63, of image `img` and one context. -/
def run1 (img : List Byte) : Run := { sess := 63, tag := 4, image := img, ctxs := [31], grants := [(5, 8), (6, 8), (7, 8), (0, 4), (0, 4), (0, 4)] }

/-- The context `x` of the run, its session open. -/
def ctxIn (img : List Byte) (x : Ctx) : State := putCtx 31 { x with st := .running, run := 1 } (putRun 1 (some (run1 img)) sessOn)

/-- The descriptor `d` is loaded on queue `q`. -/
def idleIn (q : Nat) (d : List Byte) : State := ctxIn img1 { qs := setAt {} (List.replicate 8 {}) q { loaded := 1, idle := some ⟨1, d⟩ } }

/-- `Ended` for descriptor 1, evaluated. -/
def ended (q : Nat) (st : DStat) (t : State) : Bool := ((ctxAt t 31).q q).live.any fun w => w.k = 1 && w.stat = some st

/-- What `takeDesc` takes. -/
def takes (s : State) (q : Nat) (p : List Byte → Bool) : Option Nat := (takeDesc s 7 3 q p).map fun r => r.1.k

theorem test_descLoad : (ctxIn imgS {}).Ok ∧ partServes (ctxIn imgS {}) (corePart 7) = true ∧ ((ctxAt (ctxIn imgS {}) 31).q 0).idle = none ∧
    1 ≤ streamLen (ctxImage (ctxIn imgS {}) 7 3) 0 0 0 ∧ streamDesc imgS 0 0 0 1 = dsc 1 0 [] ∧
    ran (.descLoad 7 3 0) (ctxIn imgS {}) (fun t => (ctxAt t 31).q 0 = { loaded := 1, idle := some ⟨1, dsc 1 0 []⟩ } &&
      (engineAt t 56).set1 = ⟨dsc 1 0 [], 3⟩) = true := ⟨ok_of (by decide +kernel), by decide +kernel⟩
theorem test_descLoad_sync : ran (.descLoad 7 3 6) (ctxIn imgS {}) (fun t => ((ctxAt t 31).q 6).loaded = 1 && t.engines = []) = true := by decide +kernel
theorem test_descStart : (idleIn 0 (dsc 1 0 [])).Ok ∧ waitType (dsc 1 0 []) = false ∧ mayStart (idleIn 0 (dsc 1 0 [])) 7 3 0 = true ∧
    ran (.descStart 7 3 0) (idleIn 0 (dsc 1 0 [])) (fun t => ((ctxAt t 31).q 0).live = [{ k := 1, img := dsc 1 0 [] }] &&
      (engineAt t 56).busy && (engineAt t 56).active = 1) = true := ⟨ok_of (by decide +kernel), by decide +kernel⟩

/-- Descriptor 1 of queue 0 has ended OK; it records itself. -/
def doneIn : State := ctxIn img1 { qs := setAt {} (List.replicate 8 {}) 0 { loaded := 1, live := [{ k := 1, img := dsc 1 0x20 [], stat := some .ok }] }
                                   wbDone := [65535, 0, 0, 0, 0, 0, 0, 0] }

theorem test_descComplete : doneIn.Ok ∧ doneIn.flights.filter BkFlight.isDone = [] ∧
    holdsEntries doneIn 7 3 0 (absWb (ctxAt doneIn 31) 0 1) = false ∧ cqFree doneIn 63 = true ∧ dRec (dsc 1 0x20 []) = true ∧
    ran (.descComplete 7 3 0 50) doneIn (fun t => ((ctxAt t 31).q 0).live = [] && (ctxAt t 31).wbDone.getD 0 9 = 0 &&
      t.outbox = [.hostWrite 0 63 0 (descRecord doneIn (ctxAt doneIn 31) 3 0 { k := 1, img := dsc 1 0x20 [], stat := some .ok } 50 false)]) = true :=
  ⟨ok_of (by decide +kernel), by decide +kernel⟩

/-- A NOP whose first wait word names waybill 5 of queue 1. -/
def waiting : List Byte := dsc 1 0 [(4, 2 ^ 19 + 2 ^ 16 + 5)]

theorem test_notMet : ((ctxAt (idleIn 0 waiting) 31).q 0).idle = some ⟨1, waiting⟩ ∧ ((ctxAt (idleIn 0 waiting) 31).q 0).live = [] ∧
    waitsMet (ctxAt (idleIn 0 waiting) 31) waiting = false ∧ ran (.descStart 7 3 0) (idleIn 0 waiting) (· = idleIn 0 waiting) = true ∧
    ran (.nop 7 3 0) (idleIn 0 waiting) (· = idleIn 0 waiting) = true ∧ ran (.endDesc 7 3 0) (idleIn 0 waiting) (· = idleIn 0 waiting) = true := by
  decide +kernel
theorem test_control : (idleIn 0 (dsc 1 0 [])).Ok ∧ takes (idleIn 0 (dsc 1 0 [])) 0 (fun d => dType d = 0x01) = some 1 ∧
    ran (.nop 7 3 0) (idleIn 0 (dsc 1 0 [])) (ended 0 .ok) = true ∧ takes (idleIn 1 (dsc 2 1 [])) 1 (fun d => dType d = 0x02) = some 1 ∧
    ran (.wait 7 3 1) (idleIn 1 (dsc 2 1 [])) (ended 1 .ok) = true ∧ takes (idleIn 7 (dsc 4 7 [])) 7 (fun d => dType d = 0x04) = some 1 ∧
    ran (.endDesc 7 3 7) (idleIn 7 (dsc 4 7 [])) (ended 7 .ok) = true := ⟨ok_of (by decide +kernel), by decide +kernel⟩

/-- An image whose barrier 0 has queues 0 and 1 as participants. -/
def imgB : List Byte :=
  bytesOf 0x180 [(0x18, 0x80), (0x1C, 2), (0x20, 0x40), (0x24, 1), (0x38, 1), (0x43, 3), (0x84, 0x100), (0x88, 1 + 2 ^ 16),
    (0xA0, 2 ^ 18), (0xA4, 0x140), (0xA8, 1 + 2 ^ 16), (0x100, 3), (0x140, 3 + 2 ^ 8)]

/-- Both queues have their BARRIER loaded; `arrived` have come. -/
def barIn (arrived : List Nat) : State :=
  ctxIn imgB { qs := setAt {} (setAt {} (List.replicate 8 {}) 0 { loaded := 1, idle := some ⟨1, dsc 3 0 []⟩ }) 1 { loaded := 1, idle := some ⟨1, dsc 3 1 []⟩ }
               bars := if arrived = [] then [] else [⟨0, 0, arrived⟩] }

theorem test_barrier : (barIn [1]).Ok ∧ ctxOpen (ctxAt (barIn []) 31) 3 = true ∧ coreStarts (barIn []) 7 0 = true ∧ waitsMet (ctxAt (barIn []) 31) (dsc 3 0 []) = true ∧
    ((ctxAt (barIn [1]) 31).bar 0).passes < barOrdinal (ctxImage (barIn [1]) 7 3) (ctxAt (barIn [1]) 31) 0 0 1 ∧
    (List.range 8).filter (fun i => bit (fieldAt (barrierEntry imgB 0) 0 31 24) i = 1) = [0, 1] ∧
    ran (.barrier 7 3 0) (barIn [1]) (fun t => [0, 1].all fun i => ((ctxAt t 31).q i).idle = none && ((ctxAt t 31).q i).live = [] &&
      (ctxAt t 31).wbDone.getD i 0 = 1) = true := ⟨ok_of (by decide +kernel), by decide +kernel⟩
theorem test_barrier_first : ran (.barrier 7 3 0) (barIn []) (fun t => (ctxAt t 31).bars = [⟨0, 0, [0]⟩] && !ended 0 .ok t) = true := by decide +kernel
theorem test_ctxBind : takes (idleIn 7 (dsc 0x10 7 [(0x18, 2)])) 7 (fun d => dType d = 0x10) = some 1 ∧
    bindAccepted (idleIn 7 []) (bindSnap (idleIn 7 []) (run1 img1) (dsc 0x10 7 [(0x18, 2)])) = true ∧
    ran (.ctxBind 7 3) (idleIn 7 (dsc 0x10 7 [(0x18, 2)])) (fun t => ended 7 .ok t && (ctxAt t 31).bound && (ctxAt t 31).prio = 2) = true := by decide +kernel
theorem test_ctxBind_refused : takes (idleIn 7 (dsc 0x10 7 [(0x10, 0), (0x14, 5)])) 7 (fun d => dType d = 0x10) = some 1 ∧
    bindAccepted (idleIn 7 []) (bindSnap (idleIn 7 []) (run1 img1) (dsc 0x10 7 [(0x10, 0), (0x14, 5)])) = false ∧
    ran (.ctxBind 7 3) (idleIn 7 (dsc 0x10 7 [(0x10, 0), (0x14, 5)])) (fun t => (ctxAt t 31).bindRefused && (ctxAt t 31).st = .halted) = true := by
  decide +kernel
theorem test_epochWait : takes (idleIn 7 (dsc 0x11 7 [])) 7 (fun d => dType d = 0x11) = some 1 ∧
    epochAtOrBefore (fieldAt (dsc 0x11 7 []) 0x10 31 0) (epochNow s0) = true ∧ ran (.epochWait 7 3) (idleIn 7 (dsc 0x11 7 [])) (ended 7 .ok) = true := by decide +kernel
theorem test_epochWait_far : takes (idleIn 7 (dsc 0x11 7 [(0x10, 2 ^ 31)])) 7 (fun d => dType d = 0x11) = some 1 ∧
    2 ^ 30 ≤ serialDiff (epochNow s0) (2 ^ 31) ∧ serialDiff (epochNow s0) (2 ^ 31) ≤ 2 ^ 31 ∧
    ran (.epochWait 7 3) (idleIn 7 (dsc 0x11 7 [(0x10, 2 ^ 31)])) (fun t => ended 7 .fault t && (ctxAt t 31).st = .halted) = true := by decide +kernel

/-! Q_SY descriptors (R129-R144). Handle 2 of the partition names flag 7, counter 8 and barrier 9 of Serai 0. -/

/-- The Q_SY descriptor `d` is loaded. -/
abbrev syIn (d : List Byte) : State := idleIn 6 d

theorem test_flagSet : (syIn (dsc 0x20 6 [(0x10, 2)])).Ok ∧ takes (syIn (dsc 0x20 6 [(0x10, 2)])) 6 (fun d => dType d = 0x20 && fieldAt d 0x14 1 0 = 0) = some 1 ∧
    syApplied (ctxAt (syIn (dsc 0x20 6 [(0x10, 2)])) 31) 1 = false ∧ descObject (syIn []) 7 3 0 (dsc 0x20 6 [(0x10, 2)]) = (0, 7) ∧
    ran (.flagSet 7 3) (syIn (dsc 0x20 6 [(0x10, 2)])) (fun t => flagAt t 0 7 && ended 6 .ok t) = true := ⟨ok_of (by decide +kernel), by decide +kernel⟩
theorem test_flagClear : takes (syIn (dsc 0x20 6 [(0x10, 2), (0x14, 1)])) 6 (fun d => dType d = 0x20 && fieldAt d 0x14 1 0 = 1) = some 1 ∧
    ran (.flagClear 7 3) (putFlag 0 7 true (syIn (dsc 0x20 6 [(0x10, 2), (0x14, 1)]))) (fun t => !flagAt t 0 7 && ended 6 .ok t) = true := by decide +kernel
theorem test_flagToggle : takes (syIn (dsc 0x20 6 [(0x10, 0x1002), (0x14, 2)])) 6 (fun d => dType d = 0x20 && fieldAt d 0x14 1 0 = 2) = some 1 ∧
    ran (.flagToggle 7 3) (syIn (dsc 0x20 6 [(0x10, 0x1002), (0x14, 2)])) (fun t => flagAt t 4 2 && ended 6 .ok t) = true := by decide +kernel
theorem test_flagWait : takes (putFlag 0 7 true (syIn (dsc 0x21 6 [(0x10, 2), (0x14, 3)]))) 6 (fun d => dType d = 0x21) = some 1 ∧
    ran (.flagWait 7 3) (putFlag 0 7 true (syIn (dsc 0x21 6 [(0x10, 2), (0x14, 3)]))) (fun t => !flagAt t 0 7 && ended 6 .ok t) = true ∧
    flagAt (syIn []) 0 7 ≠ decide (fieldAt (dsc 0x21 6 [(0x10, 2), (0x14, 3)]) 0x14 0 0 = 1) ∧
    ran (.flagWait 7 3) (syIn (dsc 0x21 6 [(0x10, 2), (0x14, 3)])) (· = syIn (dsc 0x21 6 [(0x10, 2), (0x14, 3)])) = true := by decide +kernel
theorem test_ctrAdd : takes (syIn (dsc 0x22 6 [(0x10, 2), (0x18, 2 ^ 32 - 1)])) 6 (fun d => dType d = 0x22 && fieldAt d 0x14 0 0 = 0) = some 1 ∧
    descObject (syIn []) 7 3 1 (dsc 0x22 6 [(0x10, 2)]) = (0, 8) ∧
    ran (.ctrAdd 7 3) (putCtr 0 8 5 (syIn (dsc 0x22 6 [(0x10, 2), (0x18, 2 ^ 32 - 1)]))) (fun t => ctrAt t 0 8 = 4 && ended 6 .ok t) = true := by decide +kernel
theorem test_ctrSet : takes (syIn (dsc 0x22 6 [(0x10, 2), (0x14, 1), (0x18, 77)])) 6 (fun d => dType d = 0x22 && fieldAt d 0x14 0 0 = 1) = some 1 ∧
    ran (.ctrSet 7 3) (syIn (dsc 0x22 6 [(0x10, 2), (0x14, 1), (0x18, 77)])) (fun t => ctrAt t 0 8 = 77 && ended 6 .ok t) = true := by decide +kernel
theorem test_ctrWait : takes (putCtr 0 8 9 (syIn (dsc 0x23 6 [(0x10, 2), (0x18, 9)]))) 6 (fun d => dType d = 0x23) = some 1 ∧
    ran (.ctrWait 7 3) (putCtr 0 8 9 (syIn (dsc 0x23 6 [(0x10, 2), (0x18, 9)]))) (ended 6 .ok) = true ∧ ctrCond 0 9 8 = false ∧
    ran (.ctrWait 7 3) (putCtr 0 8 8 (syIn (dsc 0x23 6 [(0x10, 2), (0x18, 9)]))) (fun t => !ended 6 .ok t) = true := by decide +kernel
theorem test_ctrCond : ctrCond 0 (2 ^ 32 - 1) (2 ^ 31 - 2) = true ∧ ctrCond 0 (2 ^ 32 - 1) (2 ^ 31 - 1) = false ∧ ctrCond 1 4 4 = true ∧ ctrCond 2 4 4 = false := by
  decide +kernel
theorem test_barInit : takes (syIn (dsc 0x24 6 [(0x10, 2), (0x14, 3 + 2 ^ 16), (0x18, 1 + 2 * 2 ^ 16)])) 6 (fun d => dType d = 0x24) = some 1 ∧
    descObject (syIn []) 7 3 2 (dsc 0x24 6 [(0x10, 2)]) = (0, 9) ∧
    ran (.barInit 7 3) (syIn (dsc 0x24 6 [(0x10, 2), (0x14, 3 + 2 ^ 16), (0x18, 1 + 2 * 2 ^ 16)]))
      (fun t => barAt t 0 9 = { n := 3, muster := true, prod := 7, cons := 8 } && ended 6 .ok t) = true := by decide +kernel
theorem test_barInit_busy : ran (.barInit 7 3) (putBar 0 9 { n := 2, count := 1, arr := [none] } (syIn (dsc 0x24 6 [(0x10, 2), (0x14, 3)])))
    (fun t => (barAt t 0 9).n = 2 && ended 6 .fault t) = true := by decide +kernel
theorem test_barArrive : (putBar 0 9 { n := 2, count := 1, gen := 255, arr := [none] } (syIn (dsc 0x25 6 [(0x10, 2)]))).Ok ∧
    takes (putBar 0 9 { n := 2, count := 1, gen := 255, arr := [none] } (syIn (dsc 0x25 6 [(0x10, 2)]))) 6 (fun d => dType d = 0x25) = some 1 ∧
    ran (.barArrive 7 3) (putBar 0 9 { n := 2, count := 1, gen := 255, arr := [none] } (syIn (dsc 0x25 6 [(0x10, 2)])))
      (fun t => barAt t 0 9 = { n := 2 } && ended 6 .ok t) = true ∧ ran (.barArrive 7 3) (syIn (dsc 0x25 6 [(0x10, 2)])) (ended 6 .fault) = true :=
  ⟨ok_of (by decide +kernel), by decide +kernel⟩
theorem test_barArrive_waits : takes (putBar 0 9 { n := 3 } (syIn (dsc 0x25 6 [(0x10, 2), (0x14, 1)]))) 6 (fun d => dType d = 0x25) = some 1 ∧
    ran (.barArrive 7 3) (putBar 0 9 { n := 3 } (syIn (dsc 0x25 6 [(0x10, 2), (0x14, 1)])))
      (fun t => (barAt t 0 9).count = 1 && ((ctxAt t 31).q 6).idle.isSome) = true := by decide +kernel

/-- A BAR_WAIT for the arrival of descriptor 9, whose generation has completed. -/
def barWaitIn (skew : Bool) : State :=
  let x := ctxAt (syIn (dsc 0x26 6 [(0x14, 9)])) 31
  putCtx 31 { x with gens := [{ k := 9, idx := 9, done := true, skew := skew }] } (syIn (dsc 0x26 6 [(0x14, 9)]))

theorem test_barWait : (barWaitIn true).Ok ∧ takes (barWaitIn false) 6 (fun d => dType d = 0x26) = some 1 ∧
    ran (.barWait 7 3) (barWaitIn false) (fun t => ended 6 .ok t && (ctxAt t 31).gens = []) = true ∧
    ran (.barWait 7 3) (barWaitIn true) (ended 6 .fault) = true := ⟨ok_of (by decide +kernel), by decide +kernel⟩
theorem test_muster : ctrAt (musterStep 0 9 { n := 2, muster := true, prod := 1, cons := 2 } (putCtr 0 1 10 (putCtr 0 2 4 s0))).1 0 1 = 6 ∧
    ctrAt (musterStep 0 9 { n := 2, muster := true, prod := 1, cons := 2 } (putCtr 0 1 10 (putCtr 0 2 4 s0))).1 0 2 = 0 ∧
    (musterStep 0 9 { n := 2, muster := true, prod := 1, cons := 2 } (putCtr 0 1 4 (putCtr 0 2 10 s0))).2 = true := by decide +kernel

/-- A signal to peer 9, which port 5 reaches. -/
def signalIn : State :=
  putPort 5 { reach := [(9, true)] } (wr (portPage 5) .evlPortState 3 (syIn (dsc 0x27 6 [(0x10, 9 + 2 * 2 ^ 12), (0x14, 44), (0x18, 6)])))

theorem test_remoteSignal : signalIn.Ok ∧ takes signalIn 6 (fun d => dType d = 0x27) = some 1 ∧
    ((takeDesc signalIn 7 3 6 fun d => dType d = 0x27).bind fun r => route r.2 7 3 qSy 9) = some 5 ∧
    signalData (ctxAt signalIn 31) (dsc 0x27 6 []) = none ∧
    ran (.remoteSignal 7 3) signalIn (fun t => ended 6 .ok t && ((portAt t 5).tx.getD 1 []).map (fun f => (hdrOf f).dva) = [44 + 6 * 2 ^ 32]) = true :=
  ⟨ok_of (by decide +kernel), by decide +kernel⟩
theorem test_remoteSignal_none : ((takeDesc (syIn (dsc 0x27 6 [(0x10, 9)])) 7 3 6 fun d => dType d = 0x27).bind fun r => route r.2 7 3 qSy 9) = none ∧
    ran (.remoteSignal 7 3) (syIn (dsc 0x27 6 [(0x10, 9)])) (fun t => ended 6 .fault t && t.ports = []) = true := by decide +kernel
theorem test_hostNotify : takes (syIn (dsc 0x28 6 [(0x10, 63), (0x14, 5)])) 6 (fun d => dType d = 0x28) = some 1 ∧
    sessPosted (syIn []) 63 = false ∧ ran (.hostNotify 7 3) (syIn (dsc 0x28 6 [(0x10, 63), (0x14, 5)]))
      (fun t => t.outbox = [.hostWrite 0 63 504 (leBytes 4 5 ++ leBytes 4 1)] && (sessAt t 63).sent = [.flag false 7 3 1]) = true ∧
    sessPosted (wri pgHif .hifLinkState 0 2 (syIn [])) 63 = true ∧
    ran (.hostNotify 7 3) (wri pgHif .hifLinkState 0 2 (syIn (dsc 0x28 6 [(0x10, 63), (0x14, 5)]))) (ended 6 .ok) = true := by decide +kernel

/-- A HOST_NOTIFY waits for the GO of its write. -/
def notified : State :=
  putSess 63 { sent := [.flag true 7 3 1] } (ctxIn img1 { qs := setAt {} (List.replicate 8 {}) 6 { loaded := 1, live := [{ k := 1, img := dsc 0x28 6 [], began := true }] } })

theorem test_go_flag : notified.Ok ∧ ({ k := 1, img := dsc 0x28 6 [], began := true } : Work).works = true ∧
    ran (.go 63) notified (fun t => ended 6 .ok t && t.outbox = [.msix 0 63] && (sessAt t 63).sent = []) = true := ⟨ok_of (by decide +kernel), by decide +kernel⟩

/-- A held ADD of 5 to counter 1023 of Serai 3, whose remote window is `n` counters from 1000. -/
def heldIn (n : Nat) : State :=
  putSerai 3 { held := [{ src := 9, counter := true, idx := 1023, operand := 5 }] }
    (wri (seraiPage 3) .seraiRwinBase 1 1000 (wri (seraiPage 3) .seraiRwinCount 1 n s0))

theorem test_held : (heldIn 24).Ok ∧ heldFailed (heldIn 24) { src := 9, counter := true, idx := 1023, operand := 5 } = false ∧
    heldReady (heldIn 24) [] { src := 9, counter := true, idx := 1023, operand := 5 } = true ∧ inRemoteWindow (heldIn 24) 3 true 1023 = true ∧
    1023 < seraiCap 3 1 ∧ ran (.heldSignalApply 3 0) (heldIn 24) (fun t => ctrAt t 3 1023 = 5 && (seraiAt t 3).held = []) = true :=
  ⟨ok_of (by decide +kernel), by decide +kernel⟩
theorem test_held_outside : inRemoteWindow (heldIn 23) 3 true 1023 = false ∧
    ran (.heldSignalApply 3 0) (heldIn 23) (fun t => ctrAt t 3 1023 = 0 && rd t (seraiPage 3) .seraiRemoteRejected = 1 && (seraiAt t 3).held = []) = true := by
  decide +kernel

/-! HOP operations (R143-R151). -/

/-- The host windows of Serai 2 take in the last object of each kind; HOP_ARG is 3. -/
def hopIn : State :=
  let w (kind base : Nat) (s : State) : State := wri (seraiPage 2) .seraiHwinBase kind base (wri (seraiPage 2) .seraiHwinCount kind 1 s)
  wr (seraiPage 2) .seraiHopArg 3 (w 0 4095 (w 1 1023 (w 2 511 s0)))

theorem test_hop_flag : hopIn.Ok ∧ unitReachable hopIn (seraiUnit 2) = true ∧ hopRefusal hopIn 2 0 0 4095 = 0 ∧ hopRefusal hopIn 2 1 0 4095 = 0 ∧
    hopRefusal hopIn 2 2 0 4095 = 0 ∧ ran (.hopRead 2 0 4095) (putFlag 2 4095 true hopIn) (fun t => rd t (seraiPage 2) .seraiHopResult0 = 1) = true ∧
    ran (.hopFlagSet 2 0 4095) hopIn (fun t => flagAt t 2 4095 && rd t (seraiPage 2) .seraiHopStatus = 0) = true ∧
    ran (.hopFlagClear 2 0 4095) (putFlag 2 4095 true hopIn) (fun t => !flagAt t 2 4095) = true := ⟨ok_of (by decide +kernel), by decide +kernel⟩
theorem test_hop_ctr : hopRefusal hopIn 2 0 1 1023 = 0 ∧ hopRefusal hopIn 2 3 1 1023 = 0 ∧ hopRefusal hopIn 2 4 1 1023 = 0 ∧
    ran (.hopRead 2 1 1023) (putCtr 2 1023 8 hopIn) (fun t => rd t (seraiPage 2) .seraiHopResult0 = 8) = true ∧
    ran (.hopCtrAdd 2 1 1023) (putCtr 2 1023 8 hopIn) (fun t => ctrAt t 2 1023 = 11 && rd t (seraiPage 2) .seraiHopResult0 = 8) = true ∧
    ran (.hopCtrSet 2 1 1023) (putCtr 2 1023 8 hopIn) (fun t => ctrAt t 2 1023 = 3) = true := by decide +kernel
theorem test_hop_bar : hopRefusal hopIn 2 5 2 511 = 0 ∧ hopRefusal hopIn 2 6 2 511 = 0 ∧
    ran (.hopBarInit 2 2 511) hopIn (fun t => barAt t 2 511 = { n := 3 }) = true ∧
    ran (.hopBarInit 2 2 511) (putBar 2 511 { n := 2, count := 1, arr := [none] } hopIn) (fun t => rd t (seraiPage 2) .seraiHopStatus = 3) = true ∧
    ran (.hopBarArrive 2 2 511) (putBar 2 511 { n := 2 } hopIn) (fun t => barAt t 2 511 = { n := 2, count := 1, arr := [none] }) = true ∧
    ran (.hopBarArrive 2 2 511) hopIn (fun t => rd t (seraiPage 2) .seraiHopStatus = 4) = true := by decide +kernel
theorem test_hop_debug : hopRefusal (wr 0x2030 .secDbgLevel 2 hopIn) 2 7 2 511 = 0 ∧ hopRefusal (wr 0x2030 .secDbgLevel 2 hopIn) 2 8 2 511 = 0 ∧
    ran (.dbgRelease 2 2 511) (putBar 2 511 { n := 2, count := 1, gen := 255, arr := [none] } (wr 0x2030 .secDbgLevel 2 hopIn))
      (fun t => barAt t 2 511 = { n := 2 }) = true ∧
    ran (.dbgWithdraw 2 2 511) (putBar 2 511 { n := 2, count := 1, gen := 255, arr := [none] } (wr 0x2030 .secDbgLevel 2 hopIn))
      (fun t => barAt t 2 511 = { n := 2, gen := 255 }) = true ∧
    ran (.dbgRelease 2 2 511) (wr 0x2030 .secDbgLevel 2 hopIn) (fun t => rd t (seraiPage 2) .seraiHopStatus = 4) = true := by decide +kernel
theorem test_hop_refused : hopRefusal hopIn 2 3 0 0 = 6 ∧ hopRefusal hopIn 2 1 0 4095 = 0 ∧ hopRefusal hopIn 4 1 0 1024 = 1 ∧ hopRefusal hopIn 2 7 2 511 = 5 ∧
    hopRefusal hopIn 2 1 0 4094 = 2 ∧ ran (.hopCtrAdd 2 0 0) hopIn (fun t => rd t (seraiPage 2) .seraiHopStatus = 6) = true ∧
    ran (.hopFlagSet 2 0 4094) hopIn (fun t => rd t (seraiPage 2) .seraiHopStatus = 2 && t.serais = []) = true := by decide +kernel

/-! The watchdog, the scoreboard and the scratchpad's events (R148, R206-R213, R366, R374, R475). -/

/-- A blocked FLAG_WAIT, the watchdog on. -/
def wdogIn (action : Nat) : State :=
  wr (seraiPage 0) .seraiWdogEn 1 (wr (seraiPage 0) .seraiWdogAction action (syIn (dsc 0x21 6 [(0x10, 2), (0x14, 1)])))

theorem test_wdog : (wdogIn 1).Ok ∧ rd (wdogIn 1) (seraiPage (corePart 7)) .seraiWdogEn = 1 ∧ rd (wdogIn 1) (coreUnit 7).page .hdrFenced = 0 ∧
    (oldest (wdogIn 1) 7 3 6).any (fun d => (blockedOn (wdogIn 1) 7 3 d).isSome && dType d.img != 0x11) = true ∧
    ran (.wdogFire 7 3) (wdogIn 0) (fun t => rd t (seraiPage 0) .seraiWdogFires = 1 && (ctxAt t 31).st = .running) = true ∧
    ran (.wdogFire 7 3) (wdogIn 1) (fun t => (ctxAt t 31).st = .halted && ended 6 .fault t) = true := ⟨ok_of (by decide +kernel), by decide +kernel⟩
/-- Line 5 of core 159 has a dirty word; one mark is pending. -/
def dirtyIn : State := putSpad 159 { nbufs := [{ line := 5, valid := 0, dirty := [⟨0, 255, 7, false⟩] }], marks := [3], scrub := 12287 } s0

theorem test_narrow : dirtyIn.Ok ∧ spadWorks dirtyIn 159 = true ∧ ran (.narrowWriteback 159 5) dirtyIn (fun t => (spadAt t 159).nbufs.all (·.dirty = [])) = true ∧
    ran (.spadPoisonMark 159) dirtyIn (fun t => (spadAt t 159).marks = [] && t.spadChk != []) = true ∧
    ran (.scratchpadScrub 159) dirtyIn (fun t => (spadAt t 159).scrub = 0 && rdi t 0x2028 .fltScrubPasses (spdPage 159) = 1) = true :=
  ⟨ok_of (by decide +kernel), by decide +kernel⟩

/-- The last word of core 159's scratchpad in its debug window. -/
def winLast : Nat := 0x10000000000 + 159 * 2 ^ 25 + spadSize - 8

theorem test_window_denied : regionOf .m768 winLast = .window 159 (spadSize - 8) ∧ partState s0 (corePart 159) = 0 ∧ debugLevel s0 = 0 ∧
    ran (.debugWindowAccess winLast 8 false [] false) s0 (fun t => t.outbox.contains (.memData (List.replicate 8 0) false)) = true ∧
    ran (.debugWindowAccess winLast 8 true [1, 2, 3, 4, 5, 6, 7, 8] false) s0 (fun t => t.spads = [] && rd t (spdPage 159) .hdrErrCode = 1) = true := by
  decide +kernel
theorem test_window : (wr 0x2030 .secDbgLevel 2 s0).Ok ∧ spadSize / 8 - 1 < spadSize / 8 ∧ spadMode (wr 0x2030 .secDbgLevel 2 s0) 159 = 0 ∧
    ran (.debugWindowAccess winLast 8 true [1, 2, 3, 4, 5, 6, 7, 8] false) (wr 0x2030 .secDbgLevel 2 s0)
      (fun t => ran (.debugWindowAccess winLast 8 false [] false) t (fun u => u.outbox = [.memData [1, 2, 3, 4, 5, 6, 7, 8] false])) = true :=
  ⟨ok_of (by decide +kernel), by decide +kernel⟩

/-! Number formats, matrix and vector engines (R74-R95, R172-R195). -/

theorem test_formats : floatFmt 0x01 = some fp32 ∧ (decFloat fp32 false 0x3F800000).1 ≠ .nan ∧
    (decFloat fp32 false 0x41300000).1 = .fin false (11 * 2 ^ 20) (-20) ∧
    encFloat fp32 { ftz := false } (decFloat fp32 false 0x80000001).1 = (0x80000001, 0) ∧ intFmt 0x0B = some (8, true) ∧
    (decode 0x0B false 0x80).1 = Num.ofInt (-128) ∧ encode 0x0B {} .int (decode 0x0B false 0x80).1 = (0x80, 0) := by decide +kernel
theorem test_rounding : 0 < 2 ∧ roundShift 0 false 10 2 = (2, true) ∧ roundShift 0 false 14 2 = (4, true) ∧ roundShift 1 true 11 2 = (2, true) ∧
    roundShift 2 true 9 2 = (3, true) ∧ roundShift 3 false 9 2 = (3, true) ∧ roundShift 4 false 10 2 = (3, true) ∧ roundShift 0 false 8 2 = (2, false) := by
  decide +kernel
theorem test_ranked : ranked true [.fin false 1 0, .nan, .fin false 3 0, .fin false 1 0] = [(.nan, 1), (.fin false 3 0, 2), (.fin false 1 0, 0), (.fin false 1 0, 3)] ∧
    topkRow 3 true true [.nan, .fin false 3 0, .fin true 3 0] = [some (.fin true 3 0, 2), some (.fin false 3 0, 1), none] ∧
    (2 < 3 ∧ Num.isNan (.fin false 3 0) = false) := by decide +kernel

/-- An image of one virtual core with three scratch tensors of format `fmt` at 0, 64 and 128. -/
def imgT (fmt : Nat) : List Byte :=
  bytesOf 0x100 ([(0x10, 0x40), (0x14, 3), (0x38, 1)] ++ (List.range 3).flatMap fun t =>
    [(0x40 + 64 * t, fmt + 2 ^ 16 + 2 ^ 20), (0x44 + 64 * t, 0xFFFF), (0x48 + 64 * t, 64 * t), (0x50 + 64 * t, 4), (0x70 + 64 * t, 16)])

/-- A long descriptor of type `ty`. -/
def dsc2 (ty q n : Nat) (l : List (Nat × Nat)) : List Byte := bytesOf n ([(0, ty), (1, q)] ++ l)

/-- The started descriptor `d` of queue `q`, its engine busy. -/
def startedIn (img : List Byte) (q : Nat) (d : List Byte) : State :=
  putEngine (56 + q) { active := 1, busy := true, owner := (3, 1) } (ctxIn img { qs := setAt {} (List.replicate 8 {}) q { loaded := 1, live := [{ k := 1, img := d }] } })

/-- Scratchpad bytes of core 7, its buffers written back. -/
def seen (t : State) (off n : Nat) : List Byte := spadBytes (allBufsBack 7 t) 7 off n

/-- C = A × B with A = [1, 2] and B = [3, 4] in FP32 (C is 11). -/
def mmIn : State :=
  putSpadData 7 0 (leBytes 8 (0x3F800000 + 0x40000000 * 2 ^ 32)) (putSpadData 7 64 (leBytes 8 (0x40400000 + 0x40800000 * 2 ^ 32))
    (startedIn (imgT 1) 0 (dsc2 0x30 0 128 [(0x10, 2 ^ 16), (0x14, 2 + 0xFFFF * 2 ^ 16), (0x18, 0xFFFF + 2 ^ 16), (0x24, 1), (0x28, 1), (0x2C, 2),
      (0x34, 8), (0x40, 8), (0x48, 4), (0x4C, 1)])))

theorem test_matmul : mmIn.Ok ∧ ((currentWork mmIn 7 3 qMx [0x30]).any fun w => w.k = 1) = true ∧
    ran (.matmul 7 3) mmIn (fun t => ended 0 .ok t && seen t 128 4 = leBytes 4 0x41300000 && !(engineAt t 56).busy) = true :=
  ⟨ok_of (by decide +kernel), by decide +kernel⟩

/-- The MATMUL has ended and holds its three entries; or it has not begun. -/
def sbIn (ended_ : Bool) : State :=
  let s := if ended_ then mapWork 7 3 0 1 (fun w => { w with stat := some .ok }) mmIn else mmIn
  let x := ctxAt s 31
  putSpad 7 { spadAt s 7 with sb := (((x.q 0).live.flatMap fun w => descSpans (ctxImage s 7 3) w.img x).zipIdx.map fun p =>
    { p.1.entry 0 3 (absWb x 0 1) with slot := p.2 }) } s

theorem test_sbRelease : (sbIn true).Ok ∧ (sbIn true).flights.filter BkFlight.isDone = [] ∧ (spadAt (sbIn true) 7).sb.length = 3 ∧
    ran (.sbRelease 7 3 0 1 1) (sbIn true) (fun t => (spadAt t 7).sb.map (·.slot) = [0, 2]) = true ∧
    ran (.sbRelease 7 3 0 1 1) (sbIn false) (· = sbIn false) = true := ⟨ok_of (by decide +kernel), by decide +kernel⟩

/-- The MATMUL is loaded, and another queue of the context writes over its operand A. -/
def claimIn : State :=
  putSpad 7 { sb := [⟨0, 1, .write, 1, 3, 1, 0⟩] } (ctxIn (imgT 1) { qs := setAt {} (List.replicate 8 {}) 0 { loaded := 1, idle :=
    ((((ctxAt mmIn 31).q 0).live.head?).map fun w => ⟨1, w.img⟩) } })

theorem test_sbClaim : claimIn.Ok ∧ refused claimIn 7 3 0 = true ∧ (spadAt claimIn 7).sb.all (fun e => !e.kind.isClaim) = true ∧
    ran (.sbClaim 7 3 0) claimIn (fun t => (spadAt t 7).sb.map (fun e => (e.kind.isClaim, e.q)) = [(false, 1), (true, 0), (true, 0), (true, 0)]) = true ∧
    ran (.descStart 7 3 0) claimIn (fun t => rd t (spdPage 7) .spdSbConflictCyc = 1 && rd t (spdPage 7) .spdSbFullCyc = 0 &&
      ((ctxAt t 31).q 0).idle.isSome) = true := ⟨ok_of (by decide +kernel), by decide +kernel⟩

/-- A vector descriptor of one row of two FP32 elements [2, 1]. -/
def vxIn (ty : Nat) (l : List (Nat × Nat)) : State :=
  putSpadData 7 0 (leBytes 8 (0x40000000 + 0x3F800000 * 2 ^ 32)) (putSpadData 7 64 (leBytes 8 (0x40400000 + 0x40800000 * 2 ^ 32))
    (startedIn (imgT 1) 1 (dsc2 ty 1 128 ([(0x10, 0xFFFF * 2 ^ 16), (0x14, 0xFFFF + 2 * 2 ^ 16), (0x18, 0xFFFF), (0x28, 1), (0x2C, 2), (0x34, 8), (0x4C, 8)] ++ l))))

/-- The two FP32 values of the output. -/
def vxOut (t : State) : List Nat := [leNat (seen t 128 4), leNat (seen t 132 4)]

theorem test_vxMap : (vxIn 0x40 []).Ok ∧ ((currentWork (vxIn 0x40 [(0x26, 1), (0x60, 2 + 4 * 2 ^ 6)]) 7 3 qVx [0x40]).any fun w => w.k = 1) = true ∧
    ran (.vxMap 7 3) (vxIn 0x40 [(0x26, 1), (0x60, 2 + 4 * 2 ^ 6)]) (fun t => ended 1 .ok t && vxOut t = [0x40800000, 0x40000000]) = true :=
  ⟨ok_of (by decide +kernel), by decide +kernel⟩
theorem test_vxReduce : (currentWork (vxIn 0x41 []) 7 3 qVx [0x41]).isSome = true ∧
    ran (.vxReduce 7 3) (vxIn 0x41 [(0x64, 0x3F800000)]) (fun t => ended 1 .ok t && vxOut t = [0x40400000, 0]) = true := by decide +kernel
theorem test_vxNorm : (currentWork (vxIn 0x43 []) 7 3 qVx [0x43]).isSome = true ∧ ran (.vxNorm 7 3) (vxIn 0x43 [(0x60, 1)]) (ended 1 .ok) = true := by decide +kernel
theorem test_vxSort : (currentWork (vxIn 0x44 []) 7 3 qVx [0x44]).isSome = true ∧
    ran (.vxSort 7 3) (vxIn 0x44 []) (fun t => ended 1 .ok t && vxOut t = [0x3F800000, 0x40000000]) = true := by decide +kernel
theorem test_vxTopk : (currentWork (vxIn 0x45 []) 7 3 qVx [0x45]).isSome = true ∧
    ran (.vxTopk 7 3) (vxIn 0x45 [(0x60, 1)]) (fun t => ended 1 .ok t && vxOut t = [0x40000000, 0]) = true := by decide +kernel
theorem test_vxConvert : (currentWork (vxIn 0x47 []) 7 3 qVx [0x47]).isSome = true ∧
    ran (.vxConvert 7 3) (vxIn 0x47 []) (fun t => ended 1 .ok t && vxOut t = [0x40000000, 0x3F800000]) = true := by decide +kernel
theorem test_vxOthers : (currentWork (vxIn 0x42 []) 7 3 qVx [0x42]).isSome = true ∧ (currentWork (vxIn 0x46 []) 7 3 qVx [0x46]).isSome = true ∧
    (currentWork (vxIn 0x48 []) 7 3 qVx [0x48]).isSome = true := by decide +kernel

/-! Movement (R218-R246): FP32 tensors, memory mapped by one 1 GiB leaf at DPA 0, the bind at DVA 0x4000. -/

/-- Tensor 0 is BOUND, tensor 1 SCRATCH at 64, tensor 2 the indices at 128. -/
def imgM : List Byte :=
  bytesOf 0x100 [(0x10, 0x40), (0x14, 3), (0x38, 1), (0x40, 1 + 2 ^ 16), (0x44, 0xFFFF), (0x50, 4), (0x70, 16),
    (0x80, 1 + 2 ^ 16 + 2 ^ 20), (0x84, 0xFFFF), (0x88, 64), (0x90, 4), (0xB0, 16), (0xC0, 9 + 2 ^ 16 + 2 ^ 20), (0xC4, 0xFFFF), (0xC8, 128), (0xD0, 4), (0xF0, 16)]

/-- A movement descriptor of the first `n` elements. -/
def moveDesc (ty q n idx : Nat) (l : List (Nat × Nat)) : List Byte :=
  dsc2 ty q 192 ([(0x10, 2 ^ 16), (0x14, 0xFFFF), (0x30, n), (0x34, 1), (0x38, 1), (0x3C, 1), (0x40, 1), (0x44, 1), (0xA4, idx)] ++ l)

/-- The table of the run (R239) and the data [1, 2, 3, 4] (bytes) at DPA 0x4000 as far as channel 0 is NORMAL. -/
def moveIn (q : Nat) (d : List Byte) : State :=
  let s := startedIn imgM q d
  let s := putRun 1 (some { run1 imgM with root := 0x10000, binds := [{ dva := 0x4000 }] }) (chan0 s)
  putColData (locate s 0x4000) (leBytes 16 (1 + 2 * 2 ^ 32 + 3 * 2 ^ 64 + 4 * 2 ^ 96))
    (putColData (locate s 0x10000) (leBytes 8 (0x12000 + 1)) (putColData (locate s 0x12000) (leBytes 8 14) s))

/-- The plan and translation of descriptor 1. -/
def moveOf (s : State) (q : Nat) : Bool × Bool × Option MemStop :=
  let m := localMove s 7 3 (((ctxAt s 31).q q).live.headD {})
  (m.2.1.stop.isNone, m.1.remote, match m.2.2 with | .ok _ => none | .error e => some e.1)

theorem test_load : (moveIn 2 (moveDesc 0x60 2 4 0xFFFF [])).Ok ∧ ((currentWork (moveIn 2 (moveDesc 0x60 2 4 0xFFFF [])) 7 3 qLd [0x60]).any fun w => !w.began) = true ∧
    moveOf (moveIn 2 (moveDesc 0x60 2 4 0xFFFF [])) 2 = (true, false, none) ∧
    ran (.load 7 3) (moveIn 2 (moveDesc 0x60 2 4 0xFFFF [])) (fun t => ended 2 .ok t &&
      seen t 64 16 = leBytes 16 (1 + 2 * 2 ^ 32 + 3 * 2 ^ 64 + 4 * 2 ^ 96) && rd t (tmvPage 7) .tmvFaults = 0) = true :=
  ⟨ok_of (by decide +kernel), by decide +kernel⟩
theorem test_store : moveOf (moveIn 3 (moveDesc 0x68 3 4 0xFFFF [])) 3 = (true, false, none) ∧
    ran (.store 7 3) (putSpadData 7 64 (leBytes 16 (9 * 2 ^ 96)) (moveIn 3 (moveDesc 0x68 3 4 0xFFFF [])))
      (fun t => ended 3 .ok t && ((colBytes t (locate t 0x4000)).take 16) = leBytes 16 (9 * 2 ^ 96) || !((chanAt t 0).wrq = [])) = true := by decide +kernel

/-- A GATHER or SCATTER of two elements by the indices [i, 0]. -/
def indexIn (ty i : Nat) : State := putSpadData 7 128 (leBytes 8 i) (moveIn 4 (moveDesc ty 4 2 2 []))

theorem test_gather : moveOf (indexIn 0x70 3) 4 = (true, false, none) ∧
    ran (.gather 7 3) (indexIn 0x70 3) (fun t => ended 4 .ok t && seen t 64 8 = leBytes 8 (4 + 2 ^ 32)) = true := by decide +kernel
theorem test_scatter : moveOf (indexIn 0x71 3) 4 = (true, false, none) ∧ ran (.scatter 7 3) (indexIn 0x71 3) (ended 4 .ok) = true := by decide +kernel
theorem test_gather_range : moveOf (indexIn 0x70 4) 4 = (false, false, none) ∧
    ran (.gather 7 3) (indexIn 0x70 4) (fun t => ended 4 .fault t && rd t (tmvPage 7) .tmvFaults = 1 && (ctxAt t 31).st = .halted) = true := by decide +kernel
theorem test_move_faults :
    let unmapped := putRun 1 (some { run1 imgM with root := 0x10000, binds := [{ dva := 2 ^ 39 }] }) (moveIn 2 (moveDesc 0x60 2 4 0xFFFF []))
    moveOf unmapped 2 = (true, false, some (.fault 1 0)) ∧
      ran (.load 7 3) unmapped (fun t => ended 2 .fault t && rd t (tmvPage 7) .tmvFaults = 1 && (ctxAt t 31).st = .halted) = true := by decide +kernel

/-- The leaf leads to stack 3, whose partition is being reset. -/
def retryIn (retry : Bool) : State :=
  let s := moveIn 2 (moveDesc 0x60 2 4 0xFFFF [])
  let s := if retry then mapWork 7 3 2 1 (fun w => { w with retry := true, again := 1 }) s else wri 0x2028 .fltPartState 1 2 s
  if retry then s else putColData (locate s 0x12000) (leBytes 8 (14 + 3 * 2 ^ 36)) s

theorem test_move_retry : moveOf (retryIn false) 2 = (true, false, some .retry) ∧
    ran (.load 7 3) (retryIn false) (fun t => ((ctxAt t 31).q 2).live.all fun w => w.retry && w.again = 1 && w.stat = none) = true := by decide +kernel

/-- A marked LOAD of a REGION tensor: region 0 starts at DVA 0x4000. -/
def reissueIn : State :=
  let img := imgM.set 0x42 0x21
  let s := putRun 1 (some { run1 img with root := 0x10000, regions := [(0, 0x4000)] }) (retryIn true)
  putVslot 0 { st := .open, start := 0 } (putColData (locate s 0x12000) (leBytes 8 (3 + 4)) (putCtx 31 { ctxAt s 31 with bound := true } s))

theorem test_reissue : (((ctxAt reissueIn 31).q 2).live.any fun w => w.works && w.retry && dType w.img = 0x60) = true ∧ moveOf reissueIn 2 = (true, false, none) ∧
    (localMove reissueIn 7 3 (((ctxAt reissueIn 31).q 2).live.headD {})).1.mem.kind ≠ 0 ∧
    ran (.retryReissue 7 3 2) reissueIn (fun t => ended 2 .ok t && rd t (tmvPage 7) .tmvRetries = 1) = true := by decide +kernel

/-- A remote LOAD from peer 9, which no port reaches. -/
def remoteIn : State :=
  putRun 1 (some { run1 imgM with binds := [{ remote := true, part := 1, peer := 9, dva := 0x4000 }] }) (startedIn imgM 2 (moveDesc 0x60 2 4 0xFFFF [(0x16, 2)]))

theorem test_load_remote : moveOf remoteIn 2 = (true, true, (moveOf remoteIn 2).2.2) ∧ route remoteIn 7 3 qLd 9 = none ∧
    ((localMove remoteIn 7 3 (((ctxAt remoteIn 31).q 2).live.headD {})).2.1.runs.any fun r => r.len != 0) = true ∧
    ran (.load 7 3) remoteIn (fun t => ended 2 .fault t && t.ports = []) = true := by decide +kernel
theorem test_move_waits : moveOf (putChan 0 {} (moveIn 2 (moveDesc 0x60 2 4 0xFFFF []))) 2 = (true, false, some (.wait [])) ∧
    ran (.load 7 3) (putChan 0 {} (moveIn 2 (moveDesc 0x60 2 4 0xFFFF []))) (· = putChan 0 {} (moveIn 2 (moveDesc 0x60 2 4 0xFFFF []))) = true := by decide +kernel
/-! Bank units (R247-R284). Stack 0 channel 0 bank 0 holds DPA 0 on; block 0 is linear, and bitmapped where a test says so. -/

/-- Tensor 0 is BOUND and 1 MiB, tensor 1 the register stream at 64, tensor 2 the records at 128. -/
def imgK : List Byte :=
  bytesOf 0x100 [(0x10, 0x40), (0x14, 3), (0x38, 1), (0x40, 0x0A + 2 ^ 16), (0x44, 0xFFFF), (0x50, 2 ^ 20), (0x70, 2 ^ 20),
    (0x80, 2 + 2 ^ 16 + 2 ^ 20), (0x84, 0xFFFF), (0x88, 64), (0x90, 32), (0xB0, 64), (0xC0, 1 + 2 ^ 16 + 2 ^ 20), (0xC4, 0xFFFF), (0xC8, 128), (0xD0, 32), (0xF0, 128)]

/-- A bank-command descriptor on channel 0 bank 0 of stack 0. -/
def bkDesc (ty : Nat) (l : List (Nat × Nat)) : List Byte :=
  dsc2 ty 5 128 ([(0x14, 1), (0x18, 1), (0x1C, 2 ^ 16)] ++ l ++
    (if ty = 0x90 then [(0x20, 0xFFFF)] else [(0x20, 2 + 0xFFFF * 2 ^ 16), (0x40, 0xFFFF), (0x48, 0xFFFF)]))

/-- BK_DOT of one vector of 16 FP16 elements. -/
def dotD : List Byte := bkDesc 0x81 [(0x24, 0x02 + 0x02 * 2 ^ 16), (0x2C, 1), (0x30, 16)]

/-- The started descriptor `d` as far as translation finds its table and its operand. -/
def bkIn (d : List Byte) : State :=
  let s := wr (mcOf 0).page .mcsBmpMap 1 (wr (mcOf 0).page .mcsLinMap 1 (chan0 (startedIn imgK 5 d)))
  let s := putRun 1 (some { run1 imgK with root := 0x10000, binds := [{}] }) s
  putColData (locate s 0x10000) (leBytes 8 (0x12000 + 1)) (putColData (locate s 0x12000) (leBytes 8 14) s)

/-- What `bkPrepare` finds for it: no stop, or a code. -/
def prep (ty : Nat) (d : List Byte) : Option Nat :=
  match (bkPrepare 7 3 ty (bkBody (ctxImage (bkIn d) 7 3) d) (bkIn d)).1 with | .ok _ => some 0 | .error (.code c, _) => some c | .error _ => none

/-- Descriptor 1 is the next to prepare. -/
def bkNext (ty : Nat) (s : State) : Bool :=
  ((((ctxAt s (ctxId 7 3)).q qBk).live.find? fun w => w.works && !w.began && dType w.img = ty && !s.flights.any (·.isOf 7 3 w.k)).any fun w => w.k = 1)

/-- The request it leaves behind. -/
def asked (t : State) (cws : List (Nat × Nat)) : Bool :=
  ((flightOf t 7 3 1).any fun f => f.stack = 0 && f.chans = [0] && f.banks = [0] && f.cws = cws && !f.granted) && !(ended 5 .fault t)

theorem test_bkDot : (bkIn dotD).Ok ∧ bkNext 0x81 (bkIn dotD) = true ∧ prep 0x81 dotD = some 0 ∧
    remoteOperand ((runAt (bkIn dotD) 1).getD {}) (bkBody imgK dotD) = none ∧ partState (bkIn dotD) (partOfStack 0) ≠ 4 ∧
    ran (.bkDot 7 3) (bkIn dotD) (fun t => asked t [(0, 0x0202 + 2 ^ 128 + 16 * 2 ^ 152)]) = true :=
  ⟨ok_of (by decide +kernel), by decide +kernel⟩
theorem test_bkMvs : let d := bkDesc 0x80 [(0x24, 0x02 + 0x02 * 2 ^ 16), (0x28, 32), (0x2C, 1), (0x30, 4)]
    bkNext 0x80 (bkIn d) = true ∧ prep 0x80 d = some 0 ∧
      ran (.bkMvs 7 3) (bkIn d) (fun t => asked t [(0, 0x0202 + 32 * 2 ^ 64 + 2 ^ 128 + 4 * 2 ^ 152)]) = true := by decide +kernel
theorem test_bkGred : let d := bkDesc 0x82 [(0x24, 0x02 + 0x02 * 2 ^ 16), (0x2C, 2), (0x30, 1)]
    bkNext 0x82 (bkIn d) = true ∧ prep 0x82 d = some 0 ∧ ran (.bkGred 7 3) (bkIn d) (fun t => (flightOf t 7 3 1).isSome) = true := by decide +kernel
theorem test_bkPqscan : let d := bkDesc 0x83 [(0x24, 0x0F + 0x02 * 2 ^ 16), (0x2C, 3), (0x30, 2 * 2 ^ 16), (0x38, 5)]
    bkNext 0x83 (bkIn d) = true ∧ prep 0x83 d = some 0 ∧
      ran (.bkPqscan 7 3) (bkIn d) (fun t => asked t [(0, 0x0F + 0x0200 + 2 * 2 ^ 24 + 3 * 2 ^ 128 + 5 * 2 ^ 168)]) = true := by decide +kernel
theorem test_bkRowop : let d := bkDesc 0x90 [(0x24, 2)]
    bkNext 0x90 (bkIn d) = true ∧ prep 0x90 d = some 0 ∧ ran (.bkRowop 7 3) (bkIn d) (fun t => asked t [(0, 2 * 2 ^ 128)]) = true := by decide +kernel
theorem test_bk_short : let d := bkDesc 0x81 [(0x24, 0x02 + 0x02 * 2 ^ 16), (0x28, 2 ^ 20 - 31), (0x2C, 1), (0x30, 16)]
    bkNext 0x81 (bkIn d) = true ∧ prep 0x81 d = some 0x11 ∧
      ran (.bkDot 7 3) (bkIn d) (fun t => ended 5 .fault t && flightOf t 7 3 1 = none && rd t (bkcPage 7) .bkcFaults = 1) = true := by decide +kernel
theorem test_bk_remote : let s := putRun 1 (some { run1 imgK with root := 0x10000, binds := [{ remote := true }] }) (bkIn dotD)
    bkNext 0x81 s = true ∧ remoteOperand ((runAt s 1).getD {}) (bkBody imgK dotD) = some 0 ∧
      ran (.bkDot 7 3) s (fun t => ended 5 .fault t && t.flights = [] && rd t (bkcPage 7) .bkcFaults = 1) = true := by decide +kernel

/-- The flight of the descriptor. -/
def dotF : BkFlight :=
  { core := 7, ctx := 3, k := 1, chans := [0], banks := [0], type := 0x81, cws := [(0, 0x0202 + 2 ^ 128 + 16 * 2 ^ 152)], ends := [(0, 2 ^ 20)]
    kib2 := 1, region := 128, outBase := some 128 }

/-- The descriptor with a flight. -/
def flownIn (f : BkFlight) : State := { bkIn dotD with flights := [f] }

theorem test_bkReservation : (flownIn dotF).Ok ∧ flightOf (flownIn dotF) 7 3 1 = some dotF ∧
    (((ctxAt (flownIn dotF) (ctxId 7 3)).q qBk).live.find? fun w => w.k = 1) = some { k := 1, img := dotD } ∧ mayReserve (flownIn dotF) dotF = true ∧
    dotF.chans.Nodup ∧ (chanAt (flownIn dotF) (ckOf 0 0)).hm = .off ∧ (chanAt (flownIn dotF) (ckOf 0 0)).st = .normal ∧
    ran (.bkReservation 7 3 1) (flownIn dotF) (fun t => flightOf t 7 3 1 = some { dotF with granted := true } && (chanAt t 0).hm = .entering &&
      (chanAt t 0).seqs.map (fun q => (q.op, q.banks, q.st)) = [(3, [0], .queued)]) = true :=
  ⟨ok_of (by decide +kernel), by decide +kernel⟩
theorem test_bkUploadDone : let s := putSpadData 7 64 (leBytes 32 0x3C00) (flownIn { dotF with granted := true })
    flightOf s 7 3 1 = some { dotF with granted := true } ∧ fmtCode (bkBody (ctxImage s 7 3) dotD).rf = 2 ∧
      ran (.bkUploadDone 7 3 1) s (fun t => flightOf t 7 3 1 = some { dotF with granted := true, uploaded := true, stream := leBytes 32 0x3C00 } &&
        rd t (bkcPage 7) .bkcUploadBytes = 32) = true := by decide +kernel
theorem test_recordWrite : let f := { dotF with granted := true, uploaded := true, arrived := [⟨0, 128, leBytes 128 (7 * 2 ^ 992), false⟩] }
    (f.arrived.find? fun r => r.unit = ckOf 0 0 * 32 + 0) = some ⟨0, 128, leBytes 128 (7 * 2 ^ 992), false⟩ ∧
      (flownIn f).flights.filter BkFlight.isDone = [] ∧ f.reports.length ≠ f.chans.length * f.banks.length ∧
      ran (.recordWrite 7 3 1 0 0) (flownIn f) (fun t => flightOf t 7 3 1 = some { f with arrived := [] } && rd t (bkcPage 7) .bkcRecordBytes = 128 &&
        spadBytes t 7 248 8 = leBytes 8 (7 * 2 ^ 32) && spadBytes t 7 256 8 = leBytes 8 0) = true := by decide +kernel

/-- The last channel of the last stack, in a harness state, asked for or not. -/
def hmIn (asked : Bool) (x : HarnessState) : State :=
  wr (buOf 11).page .bkuHmReq (if asked then 2 ^ 31 else 0) (putChan (ckOf 11 31) { st := .normal, hm := x } s0)

theorem test_harnessEntry : (hmIn true .off).Ok ∧ wantsHarness (hmIn true .off) (ckOf 11 31) = true ∧
    ran (.harnessEntry 11 31) (hmIn true .off) (fun t => (chanAt t (ckOf 11 31)).hm = .entering) = true := ⟨ok_of (by decide +kernel), by decide +kernel⟩
theorem test_harnessOn : ran (.harnessOn 11 31) (hmIn true .entering) (· = hmIn true .on) = true := by decide +kernel
theorem test_harnessExit : wantsHarness (hmIn false .on) (ckOf 11 31) = false ∧ chanServes (hmIn false .on) (ckOf 11 31) = true ∧
    ran (.harnessExit 11 31) (hmIn false .on) (fun t => (chanAt t (ckOf 11 31)).hm = .exiting) = true ∧
    ran (.harnessExit 11 31) (hmIn true .on) (· = hmIn true .on) = true := by decide +kernel
theorem test_harnessOff : ran (.harnessOff 11 31) (hmIn false .exiting) (fun t => (chanAt t (ckOf 11 31)).hm = .off) = true ∧
    ran (.harnessOff 11 31) (hmIn true .exiting) (fun t => (chanAt t (ckOf 11 31)).hm = .entering) = true := by decide +kernel
theorem test_hmReqWrite : (hmIn false .off).Ok ∧ unitReachable (hmIn false .off) (buOf 11) = true ∧
    ran (.hmReqWrite 11 (2 ^ 32 - 1)) (hmIn false .off) (fun t => rd t (buOf 11).page .bkuHmReq = 2 ^ 32 - 1 &&
      (chanAt t (ckOf 11 31)).hm = .entering && chanAt t (ckOf 11 30) = {}) = true := ⟨ok_of (by decide +kernel), by decide +kernel⟩

/-- A running host sequence of the last bank of the last channel, and the unit selected in the BKU page. -/
def abIn (qs : List Seq) : State :=
  wr (buOf 11).page .bkuAbBank 31 (wr (buOf 11).page .bkuAbChan 31 (putChan (ckOf 11 31) { st := .normal, hm := .on, seqs := qs } s0))

theorem test_abGo : let q : Seq := { host := true, banks := [31], op := 3, st := .gap }
    (abIn [q]).Ok ∧ unitReachable (abIn [q]) (buOf 11) = true ∧ rd (abIn [q]) (buOf 11).page .bkuAbTagEn = 0 ∧
      rdi (abIn [q]) 0x2018 .epoLdgEn (buOf 11).page = 0 ∧ (abIn [q]).flights.filter BkFlight.isDone = [] ∧
      ran (.abGo 11) (abIn [q]) (fun t => rd t (buOf 11).page .bkuAbGo = 0 && rd t (buOf 11).page .bkuAbAborted = 1 && rd t (buOf 11).page .bkuAbNta = 0 &&
        (chanAt t (ckOf 11 31)).seqs = [{ q with ended := [31], st := .draining }] && (unitState t (ckOf 11 31 * 32 + 31)).last = 2 &&
        rd t (buOf 11).page .bkuSeqAborted = 1 && bit (rd t (buOf 11).page .hdrIrqStat) 16 = 1) = true :=
  ⟨ok_of (by decide +kernel), by decide +kernel⟩
theorem test_abGo_none : (abIn []).Ok ∧ ran (.abGo 11) (abIn []) (fun t => rd t (buOf 11).page .bkuAbGo = 0 &&
    rd t (buOf 11).page .bkuAbAborted = 0 && rd t (buOf 11).page .bkuAbNta = 1) = true := ⟨ok_of (by decide +kernel), by decide +kernel⟩

/-- Special column `sc` of bank 31 of channel 31 of stack 11, or of the gang of that channel. -/
def hdpa (sc : Nat) : Nat := 0x20000000000 + 11 * 2 ^ 30 + 31 * 2 ^ 25 + 31 * 2 ^ 10 + sc * 2 ^ 5
/-- That unit. -/
def hbk : Nat := ckOf 11 31 * 32 + 31

/-- Channel 31 of stack 11 in harness mode, the unit as given, and the sequences of the channel. -/
def hostIn (u : BankUnit) (qs : List Seq) : State := putUnit hbk u (putChan (ckOf 11 31) { st := .normal, hm := .on, seqs := qs } s0)

theorem takes_of (s : State) (dpa d c b sc : Nat) (w : Bool) (off : Nat)
    (h : regionOf s.variant dpa = .harness d c off ∧ harnessAddr d c off w = ⟨ckOf d c, false, b, sc, true⟩ ∧ off % 32 = 0 ∧
      (chanAt s (ckOf d c)).hm = .on ∧ harnessHeld s (ckOf d c) = false ∧ partState s (partOfStack d) ≠ 4) : harnessTakes s dpa d c b sc w := ⟨off, h⟩

theorem test_vRegisterWrite : harnessTakes (hostIn {} []) (hdpa 7) 11 31 31 7 true ∧ unitBusy (hostIn {} []) hbk = false ∧
    ran (.vRegisterWrite (hdpa 7) (leBytes 32 9)) (hostIn {} []) (fun t => unitState t hbk = { v := [0, 0, 0, 0, 0, 0, 0, 9] }) = true :=
  ⟨takes_of _ _ _ _ _ _ _ (31 * 2 ^ 10 + 7 * 2 ^ 5) (by decide +kernel), by decide +kernel⟩
theorem test_cwWrite : harnessTakes (hostIn {} []) (hdpa 8) 11 31 31 8 true ∧
    ran (.cwWrite (hdpa 8) (leBytes 32 (2 ^ 255))) (hostIn {} []) (fun t => t.units = (hostIn { cw := 2 ^ 255 } []).units && t.dram = []) = true :=
  ⟨takes_of _ _ _ _ _ _ _ (31 * 2 ^ 10 + 8 * 2 ^ 5) (by decide +kernel), by decide +kernel⟩
theorem test_cblWrite : harnessTakes (hostIn {} []) (hdpa 10) 11 31 31 10 true ∧
    ran (.cblWrite (hdpa 10) (leBytes 32 (5 + 2 ^ 64))) (hostIn { latch := { scale := 3 } } []) (fun t => unitState t hbk = { latch := { book := 5, scale := 3 } }) = true :=
  ⟨takes_of _ _ _ _ _ _ _ (31 * 2 ^ 10 + 10 * 2 ^ 5) (by decide +kernel), by decide +kernel⟩
theorem test_fifoPop : harnessTakes (hostIn { fifo := [1, 2, 3, 4, 5] } []) (hdpa 17) 11 31 31 17 false ∧ hdpa 17 % 32 = 0 ∧
    ran (.fifoPop (hdpa 17)) (hostIn { fifo := [1, 2, 3, 4, 5] } []) (fun t => (unitState t hbk).fifo = [5] &&
      t.outbox = [.memData ([1, 2, 3, 4].flatMap (leBytes 8)) false]) = true ∧
    ran (.fifoPop (hdpa 17)) (hostIn { fifo := [5] } []) (fun t => (unitState t hbk).fifo = [] &&
      t.outbox = [.memData (leBytes 8 5 ++ List.replicate 24 255) false]) = true :=
  ⟨takes_of _ _ _ _ _ _ _ (31 * 2 ^ 10 + 17 * 2 ^ 5) (by decide +kernel), by decide +kernel⟩

/-- The command starts a sequence of the unit with opcode `op`. -/
def started (op : Nat) (cw : Nat) (t : State) : Bool :=
  (chanAt t (ckOf 11 31)).seqs.map (fun q => (q.host, q.banks, q.op, q.flags, q.tag, q.cw)) = [(true, [31], op, 1, 5, cw)] && !(unitState t hbk).badCmd

/-- The unit with control word `cw` and bitmapped block 0. -/
def cwIn (cw : Nat) : State := wr (mcOf 11).page .mcsBmpMap 1 (hostIn { cw := cw, count := 4 } [])

theorem test_host_takes : harnessTakes (cwIn 0) (hdpa 9) 11 31 31 9 true ∧ unitBusy (cwIn 0) hbk = false :=
  ⟨takes_of _ _ _ _ _ _ _ (31 * 2 ^ 10 + 9 * 2 ^ 5) (by decide +kernel), by decide +kernel⟩
theorem test_clear : cmdOk (cwIn 0) 11 1 1 0 = true ∧ ran (.clear (hdpa 9) 1 5) (cwIn 0) (fun t => started 1 0 t && (unitState t hbk).count = 0) = true := by decide +kernel
theorem test_mvs : let w := 0x0202 + 2 ^ 128 + 4 * 2 ^ 152
    cmdOk (cwIn w) 11 2 1 w = true ∧ ran (.mvs (hdpa 9) 1 5) (cwIn w) (started 2 w) = true := by decide +kernel
theorem test_dot : let w := 0x0202 + 2 ^ 128 + 16 * 2 ^ 152
    cmdOk (cwIn w) 11 3 1 w = true ∧ ran (.dot (hdpa 9) 1 5) (cwIn w) (started 3 w) = true := by decide +kernel
theorem test_gred : let w := 0x0202 + 2 ^ 128 + 32 * 2 ^ 152
    cmdOk (cwIn w) 11 4 1 w = true ∧ ran (.gred (hdpa 9) 1 5) (cwIn w) (started 4 w) = true := by decide +kernel
theorem test_pqscan : let w := 0x020F + 2 * 2 ^ 24 + 2 ^ 128
    cmdOk (cwIn w) 11 5 1 w = true ∧ ran (.pqscan (hdpa 9) 1 5) (cwIn w) (started 5 w) = true := by decide +kernel
theorem test_copyOut : cmdOk (cwIn 0) 11 6 1 0 = true ∧ ran (.copyOut (hdpa 9) 1 5) (cwIn 0) (started 6 0) = true := by decide +kernel
theorem test_rowlist : cmdOk (cwIn (2 ^ 128)) 11 0x10 1 (2 ^ 128) = true ∧ ran (.rowlist (hdpa 9) 1 5) (cwIn (2 ^ 128)) (started 0x10 (2 ^ 128)) = true := by decide +kernel
theorem test_vet : cmdOk (cwIn 0) 11 0x11 1 0 = true ∧ ran (.vet (hdpa 9) 1 5) (cwIn 0) (started 0x11 0) = true := by decide +kernel
theorem test_burnish : cmdOk (cwIn 0) 11 0x12 1 0 = true ∧ ran (.burnish (hdpa 9) 1 5) (cwIn 0) (started 0x12 0) = true := by decide +kernel
theorem test_host_refused : cmdOk (cwIn 0) 11 3 1 0 = false ∧ rd (cwIn 0) (buOf 11).page .hdrErrValid = 0 ∧
    ran (.dot (hdpa 9) 1 5) (cwIn 0) (fun t => unitState t hbk = { cw := 0, count := 4, badCmd := true } && (chanAt t (ckOf 11 31)).seqs = [] &&
      rd t (buOf 11).page .hdrErrCode = 3) = true := by decide +kernel
theorem test_host_busy : let s := hostIn {} [{ host := true, banks := [31], st := .running }]
    harnessTakes s (hdpa 0) 11 31 31 0 true ∧ unitBusy s hbk = true ∧
      ran (.vRegisterWrite (hdpa 0) (leBytes 32 9)) s (fun t => t.units = s.units && bit (rd t (buOf 11).page .hdrIrqStat) 17 = 1 &&
        rd t (buOf 11).page .bkuHostDiscard = 1) = true :=
  ⟨takes_of _ _ _ _ _ _ _ (31 * 2 ^ 10) (by decide +kernel), by decide +kernel⟩
theorem test_host_gang : let s := putChan (ckOf 11 31) { st := .normal, hm := .on, gang := 2 ^ 31 + 1 } s0
    regionOf s.variant (hdpa 0 + 2 ^ 15) = .harness 11 31 (2 ^ 15 + 31 * 2 ^ 10) ∧
      harnessAddr 11 31 (2 ^ 15 + 31 * 2 ^ 10) true = ⟨ckOf 11 31, true, 31, 0, true⟩ ∧ harnessHeld s (ckOf 11 31) = false ∧
      partState s (partOfStack 11) ≠ 4 ∧ hmReq s (ckOf 11 31) = false ∧ (∀ n < 32, unitBusy s (ckOf 11 31 * 32 + n) = false) ∧
      ran (.vRegisterWrite (hdpa 0 + 2 ^ 15) (leBytes 32 9)) s (fun t => (unitState t hbk).v.getD 0 0 = 9 && (unitState t (hbk - 31)).v.getD 0 0 = 9 &&
        unitState t (hbk - 1) = {}) = true := by decide +kernel

/-! A gang of one channel from its command to its end. -/

/-- The queued sequence of the flight. -/
def dotQ : Seq := { core := 7, ctx := 3, k := 1, banks := [0], op := 3, cw := 0x0202 + 2 ^ 128 + 16 * 2 ^ 152, ends := [(0, 2 ^ 20)] }

/-- The flight, uploaded, and its sequence on channel 0. -/
def gangIn (q : Seq) : State :=
  putChan 0 { st := .normal, hm := .on, seqs := [q] } (flownIn { dotF with granted := true, uploaded := true, stream := leBytes 32 0x3C00 })

theorem test_gangCommand : (gangIn dotQ).Ok ∧ chanServes (gangIn dotQ) (ckOf 0 0) = true ∧ cmdOk (gangIn dotQ) 0 3 0 dotQ.cw = true ∧
    dotQ.banks.Nodup ∧ (gangIn dotQ).flights.filter BkFlight.isDone = [] ∧
    ran (.gangCommand 7 3 1 0) (gangIn dotQ) (fun t => (chanAt t 0).seqs = [{ dotQ with stream := leBytes 32 0x3C00, st := .running }] &&
      (chanAt t 0).gang = 1 && (unitState t 0).cw = dotQ.cw && (unitState t 0).v.getD 0 0 = 0x3C00) = true :=
  ⟨ok_of (by decide +kernel), by decide +kernel⟩

/-- A ROWLIST of one entry. -/
def rowQ (phase : Bool) : Seq := { dotQ with op := 0x10, cw := 2 ^ 128, stream := leBytes 8 1, st := .running, phase := phase }

theorem test_rowlistPiece : seqOf (gangIn (rowQ false)) 0 0 [.running] = some (rowQ false) ∧ seqStalled (gangIn (rowQ false)) 0 (rowQ false) = false ∧
    seqItems (rowQ false) = 1 ∧
    ran (.rowlistPiece 0 0 0 4) (gangIn (rowQ true)) (fun t => (chanAt t 0).seqs = [{ rowQ true with phase := false, pos := 1 }]) = true ∧
    ran (.rowlistPiece 0 0 0 4) (gangIn (rowQ false)) (fun t => (chanAt t 0).seqs = [{ rowQ false with pos := 1 }] || (chanAt t 0).seqs = [rowQ true]) = true ∧
    (rowQ false).parts = 2 ∧ ran (.rowlistPiece 0 0 0 1) (gangIn (rowQ false)) (fun t => (chanAt t 0).seqs = [{ rowQ false with part := 1 }]) = true := by
  decide +kernel

/-- The DOT's sequence in a state. -/
def dotQs (x : SeqState) (pos : Nat) : Seq := { dotQ with stream := leBytes 32 0x3C00, st := x, pos := pos }

theorem test_legEnd : seqOf (gangIn (dotQs .running 0)) 0 0 [.running, .wait] = some (dotQs .running 0) ∧
    ran (.legEnd 0 0 0 1 0) (gangIn (dotQs .running 0)) (fun t => (chanAt t 0).seqs.all fun n => n.st = .gap && n.pos = 1 && n.banks = [0]) = true := by decide +kernel
theorem test_gangResume : seqOf (gangIn (dotQs .gap 0)) 0 0 [.gap] = some (dotQs .gap 0) ∧
    let n := 100 * rd (gangIn (dotQs .gap 0)) 0x2040 .pwrBuGap
    ran (.gangResume 0 0 0 n) (gangIn (dotQs .gap 0)) (fun t => rd t (buOf 0).page .bkuGapNs = n && (chanAt t 0).seqs = [dotQs .running 0]) = true := by decide +kernel
theorem test_gangWaitEnd : seqOf (gangIn (dotQs .wait 0)) 0 0 [.wait] = some (dotQs .wait 0) ∧ seqStalled (gangIn (dotQs .wait 0)) 0 (dotQs .wait 0) = false ∧
    ran (.gangWaitEnd 0 0 0 7) (gangIn (dotQs .wait 0)) (fun t => rd t (buOf 0).page .bkuWaitSteps = 7 && (chanAt t 0).seqs = [dotQs .running 0]) = true := by decide +kernel
theorem test_seqLastStep : seqOf (gangIn (dotQs .running 1)) 0 0 [.running] = some (dotQs .running 1) ∧ seqItems (dotQs .running 1) = 1 ∧
    ran (.seqLastStep 0 0 0 0) (gangIn (dotQs .running 1)) (fun t => (chanAt t 0).seqs = [{ dotQs .draining 1 with ended := [0] }] &&
      (unitState t 0).last = 1 && (unitState t 0).lastOp = 3) = true := by decide +kernel
theorem test_seqDrained : let s := gangIn { dotQs .draining 1 with ended := [0] }
    (unitState s 0).out = [] ∧ (unitState s 0).fifo = [] ∧ ran (.seqDrained 0 0 0) s (fun t => (chanAt t 0).seqs = []) = true ∧
      let q := { dotQs .draining 1 with host := true, banks := [0, 1], ended := [0] }
      ran (.seqDrained 0 0 0) (gangIn q) (fun t => (chanAt t 0).seqs = [{ q with gone := [0] }]) = true := by decide +kernel
theorem test_collectorSend : let s := putUnit 0 { out := [(leBytes 128 5, false), ([1], true)] } (gangIn (dotQs .draining 1))
    creditsUsed s 7 0 = 0 ∧ (flightOf s 7 3 1).map BkFlight.outBase = some (some 128) ∧
      ran (.collectorSend 0 0 0) s (fun t => (unitState t 0).out = [([1], true)] &&
        (flightOf t 7 3 1).map BkFlight.arrived = some [⟨0, 128, leBytes 128 5, false⟩]) = true := by decide +kernel

/-! Placement and memory controllers (R285-R288, R335-R381). -/

theorem test_placement : let a := 7 * 2 ^ 36 + 63 * 2 ^ 30 + 0x3FEDCBA7
    a < dramTop s0.variant ∧ isLinear s0 7 63 = false ∧ stackOfCol (locate s0 a) = 7 ∧ chanOfCol (locate s0 a) = (0x0B ^^^ 0x1E) ∧
      bankOfCol (locate s0 a) = (0x0E ^^^ 0x1F) ∧ rowOfCol (locate s0 a) = 1024 * 63 + 0x3FE ∧ colOfCol (locate s0 a) = 8 * 3 + 5 ∧
      dpaOfCol s0 (locate s0 a) = a / 32 * 32 := by decide +kernel
theorem test_placement_ends : dpaOfCol s0 (locate s0 (dramTop s0.variant - 1)) = dramTop s0.variant - 32 ∧ dpaOfCol s0 (locate s0 0) = 0 ∧
    dpaOfCol (wr (mcOf 0).page .mcsLinMap 1 s0) (locate (wr (mcOf 0).page .mcsLinMap 1 s0) (2 ^ 30 - 1)) = 2 ^ 30 - 32 := by decide +kernel

/-- Page of the last controller. -/
def mcp : Nat := (mcOf 11).page
/-- The last channel of the last stack. -/
def lck : Nat := ckOf 11 31
/-- A queued sequence on it. -/
def seqIn (x : SeqState) : State := putChan lck { st := .normal, seqs := [{ host := true, banks := [0], st := x }] } s0

theorem test_linMapWrite : s0.Ok ∧ unitReachable s0 (mcOf 11) = true ∧ rd s0 mcp .hdrLocked = 0 ∧ loaderBlock s0 11 = some 63 ∧
    halfOver (rd s0 mcp .mcsLinMap) 1 (2 ^ 30) % 2 ^ 2 ^ (stackBits s0.variant - 30) ≠ rd s0 mcp .mcsLinMap ∧
    ran (.linMapWrite 11 1 (2 ^ 30)) s0 (fun t => bit (rd t mcp .mcsLinMap) 62 = 1 && rd t mcp .mcsPlaceResult = 0) = true ∧
    ran (.linMapWrite 11 1 (2 ^ 30)) (seqIn .queued) (fun t => rd t mcp .mcsLinMap = rd s0 mcp .mcsLinMap && rd t mcp .mcsPlaceResult = 1) = true ∧
    ran (.linMapWrite 11 2 (rd s0 mcp .mcsLinMap)) s0 (· = wr mcp .mcsPlaceResult 0 s0) = true := ⟨ok_of (by decide +kernel), by decide +kernel⟩
theorem test_bmpMapWrite : let s := wr mcp .mcsLinMap 3 s0
    s.Ok ∧ ran (.bmpMapWrite 11 0 2) s (fun t => rd t mcp .mcsBmpMap = 2 && rd t mcp .mcsPlaceResult = 0) = true ∧
      ran (.bmpMapWrite 11 0 4) s (fun t => rd t mcp .mcsBmpMap = 0 && rd t mcp .mcsPlaceResult = 2) = true := ⟨ok_of (by decide +kernel), by decide +kernel⟩

/-- Column 0 holds 32 bytes 1, 2, ... and its channel serves. -/
def colIn : State := putColData 0 ((List.range 32).map fun i => BitVec.ofNat 8 (i + 1)) (chan0 s0)

theorem test_memQuiet : memQuiet colIn 0 ∧ locate colIn 31 = 0 ∧ inDram colIn.variant 31 1 = true :=
  ⟨⟨by decide +kernel, by decide +kernel, by decide +kernel, by decide +kernel, by decide +kernel, by decide +kernel, by decide +kernel⟩, by decide +kernel⟩
theorem test_memWrite : requestTaken colIn 31 0 = true ∧ ran (.memWriteRequest 31 [9] 0 false) colIn (fun t => dramByteAt t 31 = 9 && dramByteAt t 30 = 31 && dramByteAt t 32 = 0 &&
      colChk t 0 = none && (chanAt t 0).wrq = []) = true ∧
    ran (.memWriteRequest 0 [9] 0 true) colIn (fun t => colChk t 0 = some (segOf (colBytes t 0) segPoison) && dramByteAt t 0 = 9) = true := by decide +kernel
theorem test_memRead : ran (.memReadRequest 30 2 0) colIn (fun t => t.outbox = [.memData [31, 32] false] && t.dram = colIn.dram) = true ∧
    ran (.memReadRequest 0 32 0) colIn (fun t => t.outbox = [.memData (colBytes colIn 0) false]) = true := by decide +kernel
theorem test_memHeld : chanServes (putChan 0 {} colIn) 0 = false ∧ isSideCol (putChan 0 {} colIn) 0 = false ∧ requestTaken (putChan 0 {} colIn) 31 5 = true ∧
    ran (.memWriteRequest 31 [9] 5 true) (putChan 0 {} colIn) (fun t => ((chanAt t 0).wrq.map fun w => (w.col, w.poison)) = [(0, true)] &&
      t.dram = colIn.dram && t.outbox = []) = true ∧
    ran (.memReadRequest 31 1 5) (putChan 0 {} colIn) (fun t => ((chanAt t 0).rdq.map fun r => (r.cols.map Prod.fst, r.port, r.len)) = [([0], 5, 1)] &&
      t.outbox = []) = true := by decide +kernel

/-- One write waits. -/
def wrqIn (l : List WrReq) : State := putChan 0 { st := .normal, wrq := l } colIn

theorem test_partialMerge : let w : WrReq := { data := [(3, 9)] }
    w.full = false ∧ chanKey w.col = 0 ∧ colServes (wrqIn [w]) 0 = true ∧ colChk (wrqIn [w]) 0 = none ∧ portOpen (wrqIn [w]) w.qos 0 w.port 32 = true ∧
      ran (.partialMerge 0 0) (wrqIn [w]) (fun t => dramByteAt t 3 = 9 && dramByteAt t 4 = 5 && (chanAt t 0).wrq = []) = true ∧
      ran (.writeDrain 0 0) (wrqIn [w]) (fun t => dramByteAt t 3 = 9 && dramByteAt t 2 = 3 && (chanAt t 0).wrq = []) = true := by decide +kernel
theorem test_writeDrain : let l := (List.range 24).map fun i => ({ col := i, data := (List.range 32).map fun j => (j, 1) } : WrReq)
    (∀ w ∈ l, w.full = true ∧ chanKey w.col = 0 ∧ colServes (wrqIn l) w.col = true ∧ w.qos.hard = false ∧ w.mate = false) ∧ 24 ≤ wrEntries l ∧
      ran (.writeDrain 0 0) (wrqIn l) (fun t => (chanAt t 0).wrq.length = 8) = true := by decide +kernel

/-- The last channel as given. -/
def lastIn (ch : Chan) : State := putChan lck ch s0

theorem test_refreshInterval : refreshOn s0 lck = true ∧
    ran (.refreshInterval 11 31 2) (lastIn { rc := 6, freezes1s := 1 }) (fun t => (chanAt t lck).rc = 7 && (chanAt t lck).freezes1s = 0) = true ∧
    canRefresh (lastIn { rc := 7 }) lck = true ∧ ran (.refreshInterval 11 31 0) (lastIn { rc := 7 }) (fun t => (chanAt t lck).rc = 7 &&
      rd t mcp .mcsRefForced = 1 && rdi t mcp .mcsRefreshes 31 = 1) = true ∧
    (let s := lastIn { rc := 8, seqs := [{ banks := [1], st := .running }] }
     canRefresh s lck = false ∧ ran (.refreshInterval 11 31 0) s (fun t => (chanAt t lck).rc = 8) = true) := by decide +kernel
theorem test_refresh : (let s := lastIn { rc := 8, seqs := [{ banks := [1], st := .gap }] }
      mayRefresh s lck = true ∧ gangRuns (chanAt s lck) = true ∧ ran (.refresh 11 31 none) s (fun t => (chanAt t lck).rc = 7 && rdi t mcp .mcsRefreshes 31 = 1 && rd t mcp .mcsRefForced = 1) = true) ∧
    mayRefresh (lastIn { rc := 1, refpb := List.range 31 }) lck = true ∧
    ran (.refresh 11 31 (some 31)) (lastIn { rc := 1, refpb := List.range 31 }) (fun t => (chanAt t lck).refpb = [] && (chanAt t lck).rc = 0) = true ∧
    ran (.refresh 11 31 (some 31)) (lastIn { rc := 1, refpb := List.range 30 }) (fun t => (chanAt t lck).refpb = List.range 30 ++ [31] && (chanAt t lck).rc = 1) = true := by
  decide +kernel
theorem test_recalDue : ran (.recalDue 11 31) (lastIn { st := .normal }) (fun t => (chanAt t lck).recal && (chanAt t lck).recalDue) = true ∧
    ran (.recalDue 11 31) (lastIn { st := .normal, seqs := [{ banks := [1], st := .wait }] }) (fun t => !(chanAt t lck).recal && (chanAt t lck).recalDue) = true ∧
    ran (.recalForced 11 31) (lastIn { st := .normal, recalDue := true }) (fun t => (chanAt t lck).recal && (chanAt t lck).recalForced) = true ∧
    (∀ k < 32, k ≠ 31 → (chanAt (lastIn {}) (ckOf 11 k)).recal = false ∧ (chanAt (lastIn {}) (ckOf 11 k)).recalDue = false) := by decide +kernel
theorem test_recalDone : ran (.recalDone 11 31) (lastIn { st := .normal, recal := true, recalDue := true, recalForced := true })
    (fun t => !(chanAt t lck).recal && !(chanAt t lck).recalDue && !(chanAt t lck).recalForced && rdi t mcp .mcsRecals 31 = 1) = true := by decide +kernel

/-- Full arrangement: port 47 has rate 100 and a burst of 1 KiB. -/
def qosIn : State := wri mcp .mcsBurstKib 47 1 (wri mcp .mcsRate 47 100 (wri mcp .mcsTokens 47 24 (wr mcp .mcsQosMode 1 s0)))

theorem test_tollgateRefill : rd qosIn mcp .mcsQosMode = 1 ∧ (∀ h < 32, (chanAt qosIn (ckOf 11 h)).rdq = []) ∧
    ran (.tollgateRefill 11) qosIn (fun t => rdi t mcp .mcsTokens 47 = 1024 && rdi t mcp .mcsTokens 46 = 0) = true := by decide +kernel
theorem test_requestUrgency : let r : RdReq := { cols := [(0, 0)], len := 32, urgency := 1 }
    let w : WrReq := { col := 5 }
    (chanAt (lastIn { rdq := [{}, r] }) lck).rdq[1]? = some r ∧ r.qos.target = 1000 ∧
      ran (.requestUrgency 11 31 false 1 750) (lastIn { rdq := [{}, r] }) (· = lastIn { rdq := [{}, { r with age := 750, urgency := 2 }] }) = true ∧
      ran (.requestUrgency 11 31 false 1 749) (lastIn { rdq := [{}, r] }) (· = lastIn { rdq := [{}, { r with age := 749 }] }) = true ∧
      ran (.requestUrgency 11 31 false 1 1000) (lastIn { rdq := [{}, r] }) (fun t => (chanAt t lck).rdq = [{}, { r with age := 1000, urgency := 3 }] &&
        rd t mcp .mcsLatMiss = 1 && bit (rd t mcp .hdrIrqStat) 21 = 1) = true ∧
      ran (.requestUrgency 11 31 true 0 500) (lastIn { wrq := [w] }) (· = lastIn { wrq := [{ w with age := 500, urgency := 1 }] }) = true := by decide +kernel

/-- A freeze record is held. Without one, a freeze stores mode registers, which are the part's own. -/
def frzIn (n : Nat) : State := wr mcp .mcsFrzValid 1 (lastIn { st := .normal, freezes1s := n })

theorem test_caParity : rd (lastIn { st := .normal }) mcp .mcsFrzValid = 0 ∧ (chanAt (lastIn { st := .normal }) lck).st = .normal ∧
    ran (.caParity 11 31 31 65535 31) (frzIn 3) (fun t => (chanAt t lck).st = .frozen && (chanAt t lck).freezes1s = 4 &&
      rd t mcp .mcsFreezes = 1 && bit (rd t mcp .hdrIrqStat) 16 = 1 && (chanAt t lck).storm && bit (rd t mcp .hdrIrqStat) 18 = 1) = true := by decide +kernel
theorem test_wcrcExhausted : ran (.wcrcExhausted 11 31 0 0 0) (frzIn 2) (fun t => (chanAt t lck).st = .frozen && !(chanAt t lck).storm) = true ∧
    (let s := wr mcp .mcsFrzChan 31 (wr mcp .mcsFrzValid 1 (lastIn { st := .frozen }))
     ran (.wcrcExhausted 11 31 0 0 0) s (· = count mcp .mcsFrzCount 1 s) = true) ∧
    ran (.caParity 11 31 0 0 0) (lastIn { st := .frozen }) (· = lastIn { st := .frozen }) = true := by decide +kernel
theorem test_frzForce : unitReachable s0 (mcOf 11) = true ∧ debugLevel (lastIn { st := .normal }) ≠ 2 ∧
    ran (.frzForce 11 (2 ^ 31)) (lastIn { st := .normal }) (· = lastIn { st := .normal }) = true ∧
    (let s := wr 0x2030 .secDbgLevel 2 (frzIn 0)
     debugLevel s = 2 ∧ ran (.frzForce 11 (2 ^ 31)) s (fun t => (chanAt t lck).st = .frozen) = true ∧
       ran (.frzForce 11 1) s (fun t => (chanAt t lck).st = .normal) = true) := by decide +kernel
theorem test_frzRelease : ran (.frzRelease 11 (2 ^ 31) []) (lastIn { st := .frozen, storm := true }) (fun t => (chanAt t lck).st = .normal && !(chanAt t lck).storm &&
    bit (rd t mcp .hdrIrqStat) 17 = 1) = true ∧ ran (.frzRelease 11 (2 ^ 31) [⟨31, 2, 0, 0, 0, 0⟩]) (wr mcp .mcsFrzValid 1 (lastIn { st := .frozen, owed := [7] }))
      (fun t => (chanAt t lck).st = .frozen && (chanAt t lck).owed = [7] && bit (rd t mcp .hdrIrqStat) 17 = 1) = true := by decide +kernel
theorem test_freezeAutoRelease : let s := wr mcp .mcsFrzAutoUs 1 (lastIn { st := .frozen })
    rd s mcp .mcsFrzAutoUs ≠ 0 ∧ ran (.freezeAutoRelease 11 31 none) s (fun t => (chanAt t lck).st = .normal) = true ∧
      (let s := wr mcp .mcsFrzAutoUs 0 s; ran (.freezeAutoRelease 11 31 none) s (· = s) = true) ∧
      (let s := wr mcp .mcsFrzAutoUs 1 (lastIn { st := .frozen, storm := true }); ran (.freezeAutoRelease 11 31 none) s (· = s) = true) := by decide +kernel

theorem test_scrubRead : let s := lastIn { st := .normal, scrub := 2 ^ 25 - 1 }
    32 * bankRows s.variant * 16 = 2 ^ 25 ∧ colServes s (scrubCursor s lck) = true ∧ colChk s (scrubCursor s lck) = none ∧ colChk s (scrubCursor s lck + 1) = none ∧
      ran (.scrubRead 11 31) s (fun t => (chanAt t lck).scrub = 0 && rdi t 0x2028 .fltScrubPasses mcp = 1 && t.dram = []) = true := by decide +kernel
theorem test_scrubAgeLimit : chanServes (lastIn {}) lck = false ∧ chanKey (scrubCursor (lastIn {}) lck) = lck ∧
    ran (.scrubAgeLimit 11 31) (lastIn { rdq := [{ cols := [(scrubCursor s0 lck, 0)] }] })
      (fun t => (chanAt t lck).rdq.map (fun r => (r.scrub, r.cols)) = [(true, [(scrubCursor s0 lck, 0)]), (false, [(scrubCursor s0 lck, 0)])]) = true := by decide +kernel
theorem test_scrubWriteback : ran (.scrubWriteback 11 31) (lastIn { scrubBack := [{ col := 5 }] }) (· = lastIn { wrq := [{ col := 5 }], stamp := 1 }) = true := by decide +kernel

/-- The last row of the device. -/
def lastRow : Nat := ((11 * 32 + 31) * 32 + 31) * 65536 + 65535
/-- INT_SEL and REQ_* name it. -/
def reqIn : State := wri 0x2028 .fltReqRow mcp 65535 (wri 0x2028 .fltReqBank mcp 31 (wri 0x2028 .fltReqChan mcp 31 (wr 0x2028 .fltIntSel mcp s0)))

theorem test_repairGo : rdi reqIn 0x2028 .fltReqRow mcp < bankRows reqIn.variant ∧ spareUsed reqIn lastRow = false ∧ lastRow ∉ (chanAt reqIn lck).repairs ∧
    ran .repairGo reqIn (· = putChan lck { repairs := [lastRow] } reqIn) = true := by decide +kernel
theorem test_rowRepair : let s := lastIn { st := .normal, repairs := [lastRow] }
    lastRow / (65536 * 32) = ckOf 11 31 ∧ seqActive (chanAt s lck) = false ∧ chanServes s lck = true ∧ spareUsed s lastRow = false ∧
      (∀ i < 32, colChk s (lastRow * 32 + i) = none) ∧ rdi s 0x2018 .epoLdgEn mcp = 0 ∧
      ran (.rowRepair 11 31) s (fun t => t.remaps = [lastRow] && (chanAt t lck).repairs = [] && rdi t 0x2028 .fltRepairs mcp = 1 && t.repairLog = [lastRow]) = true := by
  decide +kernel
theorem test_repairWait : ran (.repairWaitExpire 11 31) (lastIn { repairs := [lastRow] }) (· = lastIn { repairs := [lastRow], repairHold := true }) = true ∧
    ran (.ceWindowExpire mcp) { s0 with ceWins := [(mcp, { opened := true, count := 3 })] } (fun t => SMap.get (fun _ => {}) t.ceWins mcp = {}) = true := by decide +kernel

/-- A state byte of 0xFE is read as STALE and counts as an on-die correction (R360). -/
theorem test_stateNear : let s := putDramChk 0 (some (setBits 0 55 48 0xFE)) s0
    let t := countRead (colLook s 0).cls 0 s
    stateNear s 0 = true ∧ (colLook s 0).cls = .stale ∧ rdi t 0x2028 .fltCeOde (mcPageOf 0) = 1 ∧ rdi t 0x2028 .fltPoisonReads (mcPageOf 0) = 1 := by
  decide +kernel

/-- The last controller is selected at a debug level, its last channel the test channel. -/
def testIn (level : Nat) (x : SeqState) : State := wri 0x2028 .fltTestChan mcp 31 (wr 0x2028 .fltIntSel mcp (wr 0x2030 .secDbgLevel level (seqIn x)))

theorem test_testModes : seqActive (chanAt (testIn 2 .draining) (ckOf 11 (rdi (testIn 2 .draining) 0x2028 .fltTestChan mcp))) = false ∧
    ran .dataOnly (testIn 2 .draining) (fun t => rdi t 0x2028 .fltTestMode mcp = 1 && rdi t 0x2028 .fltTestResult mcp = 0) = true ∧
    ran .chkOnly (testIn 2 .draining) (fun t => rdi t 0x2028 .fltTestMode mcp = 2) = true ∧
    ran .rawRead (testIn 2 .draining) (fun t => rdi t 0x2028 .fltTestMode mcp = 3) = true ∧
    ran .rawRead (testIn 2 .queued) (· = wri 0x2028 .fltTestResult mcp 1 (testIn 2 .queued)) = true ∧
    ran .chkOnly (testIn 1 .draining) (· = wri 0x2028 .fltTestResult mcp 2 (testIn 1 .draining)) = true ∧
    ran .testModeOff (wri 0x2028 .fltTestMode mcp 3 (testIn 2 .draining)) (fun t => rdi t 0x2028 .fltTestMode mcp = 0) = true := by decide +kernel

/-! Segments, pools and drovers (R310-R330, R519-R523). -/

/-- The last drover with fields set, segment `k` as given. -/
def segIn (l : List (Fld × Nat)) (d : Drover) : State := putDrover 3 d (l.foldl (fun t e => wr (drvPage 3) e.1 e.2 t) s0)

/-- Arguments of CREATE of segment 16383. -/
def createIn (pages rb : Nat) : State := segIn [(.drvSegId, 16383), (.drvSegPages, pages), (.drvSegRec, rb)] {}

theorem test_segCreate : (createIn (2 ^ 25) 16384).Ok ∧ unitReachable (createIn (2 ^ 25) 16384) (.dr 3) = true ∧ (droverAt (createIn (2 ^ 25) 16384) 3).cmd = none ∧
    rd (createIn (2 ^ 25) 16384) (drvPage 3) .drvSegBaseEn = 0 ∧ promisedPages (droverAt s0 3) + 2 ^ 25 ≤ freePages s0 3 ∧
    ran (.segCreate 3) (createIn (2 ^ 25) 16384) (fun t => rd t (drvPage 3) .drvSegResult = 0 && bit (rd t (drvPage 3) .hdrIrqStat) 16 = 1 &&
      segAt (droverAt t 3) 16383 = { st := .writing, pages := 2 ^ 25, recBytes := 16384 }) = true ∧
    ran (.segCreate 3) (createIn (2 ^ 25) 16383) (fun t => rd t (drvPage 3) .drvSegResult = 4 && t.drovers = s0.drovers) = true := ⟨ok_of (by decide +kernel), by decide +kernel⟩
theorem test_segCreate_refused : (let d : Drover := { segs := [(16383, { st := .sealed })] }
     let s := segIn [(.drvSegId, 16383)] d
     ran (.segCreate 3) s (fun t => rd t (drvPage 3) .drvSegResult = 2 && t.drovers = s.drovers) = true) ∧
    (let d : Drover := { segs := [(0, { st := .writing, pages := freePages s0 3 })] }
     let s := segIn [(.drvSegId, 1), (.drvSegPages, 1), (.drvSegRec, 32)] d
     freePages s 3 < promisedPages d + 1 ∧ ran (.segCreate 3) s (fun t => rd t (drvPage 3) .drvSegResult = 1 && t.drovers = s.drovers) = true) := by decide +kernel

/-- WRITE of page 1 of segment 5 from DPA 0 of stack 0, in a linear block, so that one channel holds it. -/
def segWriteIn (st : SegState) : State :=
  let p := drvPage 0
  let s := wr p .drvSegHeat 2 (wr p .drvSegCount 1 (wr p .drvSegFirst 1 (wr p .drvSegId 5 (wr (mcOf 0).page .mcsLinMap 1 colIn))))
  putDrover 0 { segs := [(5, { st := st, pages := 2, recBytes := 32 })] } s

theorem test_segWrite : rd (segWriteIn .writing) (drvPage 0) .drvSegSrcDpa = 0 ∧ segReadOnly (segWriteIn .writing) 0 = false ∧
    segWaits (segWriteIn .writing) 0 = false ∧ unitReachable (segWriteIn .writing) (.dr 0) = true ∧ inDram .m768 0 16384 = true := by decide +kernel
theorem test_segWrite_gate : memGate (segWriteIn .writing) (some 0) droverPortAt 0 16384 false = none := by decide +kernel
theorem test_segWrite_refused : ran (.segWrite 0) (segWriteIn .sealed) (fun t => rd t (drvPage 0) .drvSegResult = 2 && t.drovers = (segWriteIn .sealed).drovers) = true := by
  decide +kernel

/-- Segment 5 in a state, and the catalog. -/
def drvIn (st : SegState) (c : SMap (Option CatEntry)) (cmd : Option (Nat × Nat)) : State :=
  segIn [(.drvSegId, 5), (.drvCatRegion, 63), (.drvCatSlot, 3), (.drvCatGen, 7)] { segs := [(5, { st := st, pages := 2, recBytes := 32 })], catalog := c, cmd := cmd }

theorem test_segSeal : segReadOnly (drvIn .writing [] none) 3 = false ∧
    ran (.segSeal 3) (drvIn .writing [] none) (fun t => rd t (drvPage 3) .drvSegGo = 1 && (droverAt t 3).cmd = some (3, 5)) = true ∧
    segWaits (drvIn .writing [] (some (3, 5))) 3 = false ∧
    ran (.segDone 3) (drvIn .writing [] (some (3, 5))) (fun t => rd t (drvPage 3) .drvSegGo = 0 && (droverAt t 3).cmd = none &&
      segAt (droverAt t 3) 5 = { st := .sealed, pages := 2, recBytes := 32 }) = true := by decide +kernel
theorem test_segDelete : ran (.segDelete 3) (drvIn .sealed [] none) (fun t => rd t (drvPage 3) .drvSegGo = 1 && (droverAt t 3).cmd = some (4, 5) &&
      (segAt (droverAt t 3) 5).st = .deleting) = true ∧
    ran (.segDelete 3) (drvIn .sealed [(255, some ⟨7, 5⟩)] none) (fun t => rd t (drvPage 3) .drvSegResult = 3 && (segAt (droverAt t 3) 5).st = .sealed) = true ∧
    (droverAt (drvIn .deleting [] (some (4, 5))) 3).cmd = some (4, 5) ∧
    ran (.segDone 3) (drvIn .writing [] (some (2, 5))) (fun t => rd t (drvPage 3) .drvSegGo = 0 && (droverAt t 3).cmd = none) = true := by decide +kernel
theorem test_segQuery : ran (.segQuery 3) (drvIn .sealed [] none) (fun t => rd t (drvPage 3) .drvSegState = 2 && rd t (drvPage 3) .drvSegPages = 2 &&
    rd t (drvPage 3) .drvSegRec = 32 && rd t (drvPage 3) .drvSegResult = 0) = true := by decide +kernel
theorem test_segBind : catKey (drvIn .sealed [] none) 3 = 255 ∧ catAt (droverAt (drvIn .sealed [] none) 3) 255 = none ∧
    ran (.segBind 3) (drvIn .sealed [] none) (fun t => catAt (droverAt t 3) 255 = some ⟨7, 5⟩ && rd t (drvPage 3) .drvSegResult = 0) = true ∧
    staged (droverAt (drvIn .sealed [(255, some ⟨7, 5⟩)] none) 3) 255 7 = false ∧ (vslotAt s0 255).live = false ∧
    ran (.segUnbind 3) (drvIn .sealed [(255, some ⟨7, 5⟩)] none) (fun t => catAt (droverAt t 3) 255 = none && rd t (drvPage 3) .drvSegResult = 0) = true := by decide +kernel

/-- Pool 15 of the last drover: enabled or not, at a base in 2 MiB units, one frame. -/
def poolIn (en base : Nat) (d : Drover) : State :=
  putDrover 3 d (wri (drvPage 3) .drvPoolBase 15 base (wri (drvPage 3) .drvPoolFrames 15 1 (wri (drvPage 3) .drvPoolEn 15 en s0)))

theorem test_poolEnWrite : (poolIn 0 (9 * 2 ^ 15) {}).Ok ∧ armedSlots (poolIn 0 (9 * 2 ^ 15) {}) = [] ∧ stageable (poolIn 0 (9 * 2 ^ 15) {}) 3 (9 * 2 ^ 36) 16384 = true ∧
    ran (.poolEnWrite 3 15 1) (poolIn 0 (9 * 2 ^ 15) {}) (fun t => rdi t (drvPage 3) .drvPoolEn 15 = 1) = true ∧
    stageable (poolIn 0 (9 * 2 ^ 15 - 1) {}) 3 (9 * 2 ^ 36 - 2 ^ 21) 16384 = false ∧
    ran (.poolEnWrite 3 15 1) (poolIn 0 (9 * 2 ^ 15 - 1) {}) (fun t => rdi t (drvPage 3) .drvPoolEn 15 = 0 && rd t (drvPage 3) .hdrBadWrite = 1) = true :=
  ⟨ok_of (by decide +kernel), by decide +kernel⟩
theorem test_poolOff : poolBusy { works := [{ pool := 15 }] } 15 = true ∧
    ran (.poolEnWrite 3 15 0) (poolIn 1 0 { works := [{ pool := 15 }] }) (fun t => rdi t (drvPage 3) .drvPoolEn 15 = 1 && (poolAt (droverAt t 3) 15).disabling) = true ∧
    ran (.poolEnWrite 3 15 0) (poolIn 1 0 { pools := [(15, { hand := 1 })] }) (fun t => rdi t (drvPage 3) .drvPoolEn 15 = 0 && poolAt (droverAt t 3) 15 = {}) = true ∧
    ran (.poolDisabled 3 15) (poolIn 1 0 { pools := [(15, { disabling := true })] }) (fun t => rdi t (drvPage 3) .drvPoolEn 15 = 0 && poolAt (droverAt t 3) 15 = {}) = true := by
  decide +kernel

/-- Tensor 0 is of region 0, tensor 1 the indices at 64, tensor 2 is BOUND. -/
def imgD : List Byte :=
  bytesOf 0x100 [(0x10, 0x40), (0x14, 3), (0x38, 1), (0x40, 1 + 2 ^ 16 + 2 * 2 ^ 20), (0x44, 0xFFFF), (0x50, 4), (0x70, 16),
    (0x80, 9 + 2 ^ 16 + 2 ^ 20), (0x84, 0xFFFF), (0x88, 64), (0x90, 4), (0xB0, 16), (0xC0, 1 + 2 ^ 16), (0xC4, 0xFFFF), (0xD0, 8), (0xF0, 32)]

/-- One record of 32 bytes, or one page. -/
def drD (ty : Nat) : List Byte := dsc2 ty 2 64 [(0x10, 2 ^ 16), (0x14, 2 + 2 ^ 20), (0x18, 32), (0x1C, 1)]

/-- Pool 0 is on with one frame at DPA 0; region 0 slot 0 is bound to segment 5. -/
def drIn (ty : Nat) (pool : Pool) (cat : SMap (Option CatEntry)) (on : Nat) : State :=
  let s := putColData 0 (leBytes 32 77) (chan0 (startedIn imgD 2 (drD ty)))
  let s := putRun 1 (some { run1 imgD with root := 0x10000, binds := [{ dva := 0x4000 }] }) s
  let s := putColData (locate s 0x10000) (leBytes 8 (0x12000 + 1)) (putColData (locate s 0x12000) (leBytes 8 14) s)
  putVslot 0 { st := .open, start := 0 } (wri (drvPage 0) .drvPoolFrames 0 1 (wri (drvPage 0) .drvPoolEn 0 on
    (putDrover 0 { segs := [(5, { st := .sealed, pages := 1, recBytes := 32 })], catalog := cat, pools := [(0, pool)] } s)))

/-- Page 0 of the version has landed in the frame. -/
def inFrame (pins : List Nat) : Pool := { frames := [(0, some { pins := pins })] }

/-- Descriptor 1 is the next of its type. -/
def drNext (ty : Nat) (s : State) : Bool := (((ctxAt s (ctxId 7 3)).q qLd).live.find? fun w => w.works && !w.began && dType w.img = ty).any fun w => w.k = 1

/-- Source, plan and service of a DR_FETCH. -/
def fetchOf (s : State) : Bool :=
  let x := drBody (ctxImage s 7 3) (drD 0x64)
  match drSource s 7 3 x with
  | .error _ => false
  | .ok src =>
    let p := planRecs 7 3 x ((runAt s (ctxAt s (ctxId 7 3)).run).getD {}) (x.dst.getD {}) (segAt (droverAt s 0) src.seg)
      (drIndices 7 (ctxAt s (ctxId 7 3)) x s).1.zipIdx [] (drIndices 7 (ctxAt s (ctxId 7 3)) x s).2
    p.1.2 = none && piecesWait p.2 droverPortAt (p.1.1.flatMap DrRec.pieces) false true = none && (match serveRecs 0 x.pool src x.recBytes x.heatMin p.1.1 ({ core := 7, ctx := 3, k := 1, pool := x.pool, seg := src.seg }, p.2) with
      | .ok _ => true | .error _ => false)

theorem test_drFetch : let s := drIn 0x64 (inFrame []) [(0, some ⟨0, 5⟩)] 1
    s.Ok ∧ drNext 0x64 s = true ∧ poolOn s 0 0 = true ∧ rd s (drvPage 0) .hdrFenced = 0 ∧ fetchOf s = true ∧
      ran (.drFetch 7 3) s (fun t => ended 2 .ok t && rdi t (drvPage 0) .drvHits 0 = 1 && (colBytes t (locate t 0x4000)) = leBytes 32 77) = true :=
  ⟨ok_of (by decide +kernel), by decide +kernel⟩
theorem test_drFetch_miss : let s := drIn 0x64 {} [(0, some ⟨0, 5⟩)] 1
    fetchOf s = true ∧ ran (.drFetch 7 3) s (fun t => ((droverAt t 0).works.map fun w => (w.k, w.waits.length)) = [(1, 1)] &&
      (((ctxAt t 31).q qLd).live.any fun v => v.k = 1 && v.began)) = true := by decide +kernel
theorem test_drFetch_faults : let off := drIn 0x64 {} [(0, some ⟨0, 5⟩)] 0
    let bare := drIn 0x64 {} [] 1
    poolOn off 0 0 = false ∧ ran (.drFetch 7 3) off (ended 2 .fault) = true ∧
      (match drSource bare 7 3 (drBody (ctxImage bare 7 3) (drD 0x64)) with | .error c => c | .ok _ => 0) = 0x18 ∧
      ran (.drFetch 7 3) bare (fun t => ended 2 .fault t && t.drovers = bare.drovers) = true := by decide +kernel
theorem test_drPromote : let s := drIn 0x65 {} [(0, some ⟨0, 5⟩)] 1
    drNext 0x65 s = true ∧ (match drSource s 7 3 (drBody (ctxImage s 7 3) (drD 0x65)) with | .error _ => 0 | .ok src => src.seg) = 5 ∧
      promotePages (drBody (ctxImage s 7 3) (drD 0x65)) (drIndices 7 (ctxAt s 31) (drBody (ctxImage s 7 3) (drD 0x65)) s).1 = [(0, 0)] ∧
      ran (.drPromote 7 3) s (fun t => ((droverAt t 0).works.map fun w => (w.core, w.ctx, w.k)) = [(7, 3, 1)] && rdi t (drvPage 0) .drvPromoted 0 = 1) = true := by decide +kernel
theorem test_drUnpin : let s := drIn 0x66 (inFrame [31, 30]) [] 1
    drNext 0x66 s = true ∧ ran (.drUnpin 7 3) s (fun t => ended 2 .ok t && poolAt (droverAt t 0) 0 = inFrame [30]) = true := by decide +kernel

/-- Descriptor 1 waits for page 0 alone, whose read is in flight. -/
def landIn : State :=
  let s := drIn 0x64 {} [] 1
  putDrover 0 { droverAt s 0 with reads := [⟨5, 0, [], (7, 3, 1), true⟩], works := [{ core := 7, ctx := 3, k := 1, seg := 5, waits := [(0, [(0, 0x4000, 32)])] }] } s

theorem test_bulkPageLand : landing landIn 0 0 = some ⟨5, 0, [], (7, 3, 1), true⟩ ∧ armedSlots landIn = [] ∧ landSpans landIn 0 ⟨5, 0, [], (7, 3, 1), true⟩ false = [(0, 0x4000, 32)] ∧
    memGate landIn (some 0) droverPortAt 0x4000 32 true = none ∧ piecesWait landIn droverPortAt [(0x4000, 32)] false true = none ∧
    ran (.bulkPageLand 0 0 3 false) landIn (fun t => ended 2 .ok t && (droverAt t 0).reads = [] && (droverAt t 0).works = [] &&
      rd t (blkPage 0) .blkReadRetries = 1) = true ∧
    ran (.bulkPageLand 0 0 6 true) landIn (ended 2 .poisoned) = true := by decide +kernel
theorem test_bulkPatrol : SMap.get (fun _ => 0) s0.partCond (17 + 7) / 2 % 2 = 0 ∧ blkState s0 7 = 0 ∧
    ran (.bulkPatrol 7 3) s0 (fun t => rd t (blkPage 7) .blkMediaBytes = 3 * 16384) = true := by decide +kernel
theorem test_retire : ran .retGo (wr 0x2038 .mgtRetDie 15 (wr 0x2038 .mgtRetStack 7 s0)) (fun t => t.retQueue = [127]) = true ∧
    retiredDies { s0 with retQueue := [127] } 7 < 16 ∧
    ran (.dieRetire 7 15) { s0 with retQueue := [127] } (fun t => t.dies = [127] && t.retQueue = [] && rd t (blkPage 7) .blkDiesRetired = 1) = true := by decide +kernel

/-! Elviasyn: ports, flits, frames, membership and bays (R382-R418). -/

/-- Page of the last port. -/
def p31 : Nat := portPage 31

/-- Port 31 in a state, with its parts, its engine lit from bay 3. -/
def portIn (st : Nat) (x : Port) : State := putPort 31 x (wr p31 .evlPortState st (wr p31 .evlPortEn 1 (wr (bayPage 3) .bayCartState 3 s0)))

theorem test_portEnWrite : let s := wr p31 .evlPortEn 0 (portIn 0 {})
    s.Ok ∧ unitReachable s (portUnit 31) = true ∧ engineLit s (engineOf 31) = true ∧
      ran (.portEnWrite 31 1) s (fun t => rd t p31 .evlPortEn = 1 && portState t 31 = 2 && ((portAt t 31).tx.getD 3 []).map (fun f => (hdrOf f).type) = [0x30]) = true ∧
      ran (.portEnWrite 31 1) (wr (bayPage 3) .bayCartState 0 s) (fun t => portState t 31 = 1) = true ∧
      ran (.portEnWrite 31 0) (portIn 3 {}) (fun t => rd t p31 .evlPortEn = 0 && portState t 31 = 0 && rd t p31 .evlRetrain = 0) = true :=
  ⟨ok_of (by decide +kernel), by decide +kernel⟩
theorem test_retrain : engineLit (portIn 4 {}) (engineOf 31) = true ∧
    ran (.retrain 31) (portIn 4 { out := [{}] }) (fun t => portState t 31 = 2 && rd t p31 .evlRetrain = 1 && rd t p31 .evlDownCause = 0 && (portAt t 31).out = []) = true := by
  decide +kernel
theorem test_trainAttemptTimeout : ran (.trainAttemptTimeout 31) (portIn 2 { attempts := 1 }) (fun t => portState t 31 = 2 && (portAt t 31).attempts = 2) = true ∧
    ran (.trainAttemptTimeout 31) (portIn 2 { attempts := 2 }) (fun t => portState t 31 = 6 && rd t p31 .evlDownCause = 1) = true := by decide +kernel
theorem test_portUp : portState (portIn 2 { hello := true }) 31 = 2 ∧ (portAt (portIn 2 { hello := true }) 31).hello = true ∧
    ran (.portUp 31 15 1) (portIn 2 {}) (· = portIn 2 {}) = true := by decide +kernel
theorem test_fastRetrain : portFlows (portIn 4 {}) 31 = true ∧
    ran (.fastRetrain 31) (portIn 4 {}) (fun t => portState t 31 = 5 && bit (rd t p31 .hdrIrqStat) 16 = 1) = true ∧
    ran (.fastRetrainDone 31 true) (wr p31 .evlWidth 1 (portIn 5 {})) (fun t => portState t 31 = 4) = true ∧
    ran (.fastRetrainDone 31 false) (portIn 5 { replay := [(0, [])] }) (fun t => portState t 31 = 2 && (portAt t 31).replay = []) = true := by decide +kernel
theorem test_portDown : portLinked (portIn 5 {}) 31 = true ∧
    ran (.portDown 31 3) (portIn 5 { replay := [(0, [])] }) (fun t => portState t 31 = 6 && rd t p31 .evlDownCause = 3 && (portAt t 31).replay = []) = true ∧
    ran (.portFatal 31 255 7) (portIn 1 {}) (fun t => portState t 31 = 6 && rd t p31 .hdrErrValid = 1) = true := by decide +kernel

/-- An empty flit with number `n` and its check value. -/
def flitOf (n : Nat) : List Byte := let a := List.replicate 1016 0 ++ leBytes 4 (n + 1023 * 2 ^ 10); a ++ leBytes 4 (crc32c a)

theorem test_flitReceive : (crc32c ((flitOf 5).take 1020) = fieldAt (flitOf 5) 1016 63 32 ∧ fieldAt (flitOf 5) 1016 9 0 = 5) ∧
    ran (.flitReceive 31 (flitOf 5) 2 false) (portIn 3 { rxNext := 5, nak := true }) (fun t => rd t p31 .evlFlitsRx = 1 && (portAt t 31).rxNext = 6 && !(portAt t 31).nak) = true := by
  decide +kernel
theorem test_flitReceive_other : ran (.flitReceive 31 (flitOf 6) 0 false) (portIn 3 { rxNext := 5 }) (fun t => (portAt t 31).rxNext = 5 && (portAt t 31).rx = [[], [], [], []]) = true ∧
    ran (.flitReceive 31 [] 0 true) (portIn 3 { rxNext := 5 }) (fun t => portAt t 31 = { rxNext := 5, nak := true }) = true ∧
    crc32c ([1].take 1020) ≠ fieldAt [1] 1016 63 32 := by decide +kernel
theorem test_flitTransmit : ran (.flitTransmit 31) (portIn 3 { fseq := 1023 }) (fun t => t.outbox.length = 1 && (portAt t 31).fseq = 0 &&
    (portAt t 31).replay.length = 1) = true := by decide +kernel
theorem test_flitReplay : let x : Port := { replay := [(7, List.replicate 1018 0), (8, List.replicate 1018 0)], replayAt := some 1 }
    x.replay[1]? = some (8, List.replicate 1018 0) ∧
      ran (.flitTransmit 31) (portIn 3 x) (fun t => t.outbox.length = 1 && (portAt t 31).replayAt = none && (portAt t 31).replay.length = 2) = true := by decide +kernel

/-- A request of descriptor 1 of queue `q` waits at port 31 for its response. -/
def reqIn31 (type q : Nat) (s : State) : State :=
  putPort 31 { out := [{ tag := 9, peer := 5, type := type, core := 7, ctx := 3, q := q, k := 1, dva := 0x4000, len := 1 }] } (wr p31 .evlPortState 3 s)
/-- A STORE that has gone out. -/
def storeOut (type : Nat) : State := reqIn31 type 3 (startedIn imgM 3 (moveDesc 0x68 3 4 0xFFFF []))

theorem test_remoteTimeout : (((ctxAt (storeOut 2) (ctxId 7 3)).q 3).live.find? fun w => w.k = 1 && w.works).isSome = true ∧
    ran (.remoteTimeout 31 9) (storeOut 2) (fun t => ended 3 .fault t && (portAt t 31).out = [] && bit (rd t p31 .hdrIrqStat) 19 = 1) = true := by decide +kernel

/-- A DATA frame for partition 0 from peer 5 stands at port 31; the export table is at DPA 0x10000. -/
def dataIn (root : Nat) (h : Hdr) (data : List Byte) : State :=
  let s := putColData (locate s0 0x4000) (leBytes 32 77) (chan0 (portIn 3 { rx := [[hdrBytes h ++ data], [], [], []] }))
  wri p31 .evlExpRoot 0 root (putColData (locate s 0x10000) (leBytes 8 (0x12000 + 1)) (putColData (locate s 0x12000) (leBytes 8 14) s))
/-- Its header. -/
def hData (type : Nat) : Hdr := { type := type, src := 5, tag := 300, dva := 0x4000, len := 1, fmt := 9, dseq := 1 }
/-- The translation succeeds. -/
def spanOk (s : State) (write : Bool) : Bool := match (peerSpan (rdi s p31 .evlExpRoot 0 * 4096) 0 write 0x4000 32 s).1 with | .ok _ => true | _ => false
/-- What waits to be sent as a response. -/
def sentResp (t : State) : List (Nat × Nat × Nat × Nat) := ((portAt t 31).tx.getD 2 []).map fun f => ((hdrOf f).type, (hdrOf f).dst, (hdrOf f).tag, (hdrOf f).status)

theorem test_rdReq : hdrOf (hdrBytes (hData 1)) = hData 1 ∧ serveGate (dataIn 16 (hData 1) []) 31 (hData 1) = 0 ∧ spanOk (dataIn 16 (hData 1) []) false = true ∧
    ran (.rdReq 31) (dataIn 16 (hData 1) []) (fun t => sentResp t = [(0x10, 5, 300, 0)] && ((portAt t 31).tx.getD 2 []).map (·.drop 32) = [leBytes 32 77] &&
      (portAt t 31).rx.getD 0 [] = [] && (portAt t 31).ret.getD 0 0 = 1) = true := by decide +kernel
theorem test_wr : spanOk (dataIn 16 (hData 2) (leBytes 32 5)) true = true ∧
    ran (.wr 31) (dataIn 16 (hData 2) (leBytes 32 5)) (fun t => sentResp t = [(0x11, 5, 300, 0)] && colBytes t (locate t 0x4000) = leBytes 32 5) = true := by decide +kernel
theorem test_acc : ran (.acc 31) (dataIn 16 (hData 3) (leBytes 32 5)) (fun t => sentResp t = [(0x12, 5, 300, 0)] && colBytes t (locate t 0x4000) = leBytes 32 82) = true := by
  decide +kernel
theorem test_refused_data : serveGate (dataIn 0 (hData 1) []) 31 (hData 1) = 0x21 ∧
    ran (.rdReq 31) (dataIn 0 (hData 1) []) (fun t => sentResp t = [(0x10, 5, 300, 0x21)] && (portAt t 31).rx.getD 0 [] = []) = true ∧
    (match (peerSpan 0x10000 0 false 0x4000 32 (putChan 0 {} (dataIn 16 (hData 1) []))).1 with | .error (.wait _) => true | _ => false) = true ∧
    ran (.rdReq 31) (putChan 0 {} (dataIn 16 (hData 1) [])) (· = putChan 0 {} (dataIn 16 (hData 1) [])) = true := by decide +kernel

/-- A response to that request has arrived. -/
def respIn (s : State) (type status : Nat) (data : List Byte) : State :=
  putPort 31 { portAt s 31 with rx := [[], [], [hdrBytes { type := type, src := 5, tag := 9, status := status, len := data.length / 32 } ++ data], []] } s

theorem test_resp_ok : (storeOut 2).Ok ∧ partState (storeOut 2) (corePart 7) ≠ 2 ∧
    ran (.wrAck 31) (respIn (storeOut 2) 0x11 0 []) (fun t => ended 3 .ok t && (portAt t 31).out = [] && (portAt t 31).rx.getD 2 [] = []) = true ∧
    ran (.accAck 31) (respIn (storeOut 3) 0x12 0 []) (ended 3 .ok) = true := ⟨ok_of (by decide +kernel), by decide +kernel⟩
theorem test_rdResp : ran (.rdResp 31) (respIn (reqIn31 1 2 remoteIn) 0x10 0 (leBytes 32 77)) (fun t => ended 2 .ok t && seen t 64 16 = leBytes 16 77) = true := by
  decide +kernel
theorem test_resp_not_ok : ran (.wrAck 31) (respIn (storeOut 2) 0x11 0x20 []) (fun t => ((portAt t 31).out.map fun r => r.retry) = [true] && !(ended 3 .fault t)) = true ∧
    ran (.wrAck 31) (respIn (storeOut 2) 0x11 0x21 []) (fun t => ended 3 .fault t && (portAt t 31).out = []) = true := by decide +kernel

/-- A SIGNAL of Serai 3 with its address word stands at port 31; the remote windows hold flags and counters up to the last. -/
def sigIn (dva : Nat) : State :=
  let pg := seraiPage 3
  wri pg .seraiRwinBase 0 4095 (wri pg .seraiRwinCount 0 1 (wri pg .seraiRwinBase 1 1023 (wri pg .seraiRwinCount 1 1
    (portIn 3 { rx := [[], [hdrBytes { type := 0x20, src := 5, dpart := 3, dva := dva, dseq := 3 }], [], []] }))))

theorem test_signal : (sigIn 4095).Ok ∧ partServes (sigIn 4095) 3 = true ∧ partBusy (sigIn 4095) (31 / 8) = false ∧ inRemoteWindow (sigIn 4095) 3 false 4095 = true ∧
    4095 < seraiCap 3 0 ∧ ran (.signal 31) (sigIn 4095) (fun t => flagAt t 3 4095 && (portAt t 31).rx.getD 1 [] = []) = true ∧
    ran (.signal 31) (sigIn (1023 + 2 ^ 12 + 7 * 2 ^ 32)) (fun t => ctrAt t 3 1023 = 7) = true := ⟨ok_of (by decide +kernel), by decide +kernel⟩
theorem test_signal_held : epochAtOrBefore 3 (rd (sigIn (4095 + 2 ^ 15)) p31 .evlLanded) = false ∧
    ran (.signal 31) (sigIn (4095 + 2 ^ 15)) (fun t => ((seraiAt t 3).held.map fun e => (e.src, e.idx, e.counter, e.wait)) = [(5, 4095, false, some 3)] && !(flagAt t 3 4095)) = true ∧
    inRemoteWindow (sigIn 4094) 3 false 4094 = false ∧
    ran (.signal 31) (sigIn 4094) (fun t => rd t (seraiPage 3) .seraiRemoteRejected = 1 && t.serais = s0.serais) = true := by decide +kernel

/-- A MGMT frame of member 4095 with identity 77 stands at port 31; the device may speak. -/
def mgmtIn (type : Nat) (m : SMap Member) (talk : Bool) : State :=
  let s := portIn (if type = 0x30 then 2 else 3) { rx := [[], [], [], [hdrBytes { type := type, len := 1, src := 4095 } ++ leBytes 32 (77 + 4095 * 2 ^ 64 + 2 ^ 80)]] }
  let s := { s with members := m }
  if talk then wr (portPage 0) .evlMbrEn 1 (wr (portPage 0) .evlSelfValid 1 s) else s

theorem test_hello : (mgmtFrame (mgmtIn 0x30 [] false) 31 0x30).isSome = true ∧
    ran (.hello 31) (mgmtIn 0x30 [] false) (fun t => (portAt t 31).hello && rd t p31 .evlPartnerId = 77 && rd t p31 .evlPartnerAddr = 4095 && rd t p31 .evlPartnerFwd = 1) = true := by
  decide +kernel
theorem test_join : (mgmtIn 0x31 [] true).Ok ∧ speaks (mgmtIn 0x31 [] true) = true ∧ selfAddr (mgmtIn 0x31 [] true) ≠ 4095 ∧
    ran (.join 31) (mgmtIn 0x31 [] true) (fun t => memberAt t 4095 = ⟨1, 77⟩ && reachOf t 31 4095 && bit (rd t p31 .hdrIrqStat) 17 = 1 &&
      ((portAt t 31).tx.getD 3 []).map (fun f => ((hdrOf f).type, (hdrOf f).dst)) = [(0x32, 4095)]) = true := ⟨ok_of (by decide +kernel), by decide +kernel⟩
theorem test_present : ran (.present 31) (mgmtIn 0x32 [] false) (fun t => memberAt t 4095 = ⟨1, 77⟩) = true ∧
    ran (.present 31) (mgmtIn 0x32 [(4095, ⟨1, 77⟩)] false) (fun t => t.members = [(4095, ⟨1, 77⟩)] && reachOf t 31 4095) = true ∧
    ran (.present 31) (mgmtIn 0x32 [(4095, ⟨1, 78⟩)] false) (fun t => memberAt t 4095 = ⟨2, 78⟩ && bit (rd t p31 .hdrIrqStat) 18 = 1) = true := by decide +kernel
theorem test_leave : ran (.leave 31) (mgmtIn 0x33 [(4095, ⟨2, 77⟩)] false) (fun t => memberAt t 4095 = {} && !(reachOf t 31 4095)) = true ∧
    ran (.mbrClear 31) (wr p31 .evlMbrSel 4095 (mgmtIn 0x33 [(4095, ⟨2, 77⟩)] false)) (fun t => memberAt t 4095 = {}) = true := by decide +kernel
theorem test_speaking : let s := mgmtIn 0x33 [] true
    ran .presentTimer s (fun t => ((portAt t 31).tx.getD 3 []).map (fun f => (hdrOf f).type) = [0x32] && (portAt t 30).tx = [[], [], [], []] && !t.left) = true ∧
      ran .mbrLeave s (fun t => ((portAt t 31).tx.getD 3 []).map (fun f => (hdrOf f).type) = [0x33] && t.left) = true ∧
      speaks { s with left := true } = false ∧ ran .mbrLeave { s with left := true } (· = { s with left := true }) = true := by decide +kernel
theorem test_reachTimeout : let s := putReach 30 4095 true (mgmtIn 0x33 [(4095, ⟨1, 77⟩)] false)
    ran (.reachTimeout 31 4095) s (fun t => !(reachOf t 31 4095) && t.members = s.members) = true ∧
      ran (.reachTimeout 30 4095) s (fun t => memberAt t 4095 = {}) = true := by decide +kernel
theorem test_selfAddrWrite : let s := mgmtIn 0x33 [] false
    unitReachable s (portUnit 31) = true ∧ rd s p31 .hdrLocked = 0 ∧ ran (.selfAddrWrite 31 4095) s (fun t => selfAddr t = 4095 && (memberAt t 4095).st = 3) = true ∧
      ran (.selfAddrWrite 31 4095) (wr p31 .hdrLocked 1 s) (· = wr p31 .hdrLockViolation 1 (wr p31 .hdrLocked 1 s)) = true := by decide +kernel

/-- The last bay in a state; every other bay in another. -/
def bayIn (st others : Nat) : State := [0, 1, 2].foldl (fun t b => wr (bayPage b) .bayCartState others t) (wr (bayPage 3) .bayCartState st s0)

theorem test_prepare : s0.Ok ∧ (∀ o < 4, cartState (bayIn 3 3) o = 3) ∧ rd (bayIn 3 3) (bayPage 3) .bayForce = 0 ∧
    rd (wr (bayPage 3) .bayForce 1 (bayIn 3 0)) (bayPage 3) .bayForce = 1 ∧
    ran (.prepare 3) (bayIn 2 3) (· = wr (bayPage 3) .hdrBadWrite 1 (bayIn 2 3)) = true ∧
    (∃ e, e < 8 ∧ (((feedBays e).1 = 3 ∧ cartState (bayIn 3 0) (feedBays e).2 ≠ 3) ∨ ((feedBays e).2 = 3 ∧ cartState (bayIn 3 0) (feedBays e).1 ≠ 3))) ∧
    ran (.prepare 3) (bayIn 3 0) (· = logErr (bayPage 3) 1 0x01 0 (bayIn 3 0)) = true :=
  ⟨ok_of (by decide +kernel), by decide +kernel, by decide +kernel, by decide +kernel, by decide +kernel, ⟨1, by decide +kernel⟩, by decide +kernel⟩
theorem test_prepareDone : ran (.prepareDone 3) (bayIn 4 3) (fun t => cartState t 3 = 5 && bit (rd t (bayPage 3) .hdrIrqStat) 17 = 1 && rdi t (bayPage 3) .bayPower 3 = 0) = true ∧
    ran (.cancel 3) (bayIn 5 3) (fun t => cartState t 3 = 2 && cartState t 2 = 3) = true := by decide +kernel
theorem test_cartInsert : rd (wr (bayPage 3) .bayBayEn 0 s0) (bayPage 3) .bayPresent = 0 ∧
    ran (.cartInsert 3 77 5) (wr (bayPage 3) .bayBayEn 0 s0) (fun t => rd t (bayPage 3) .bayPresent = 1 && rd t (bayPage 3) .bayLatchClosed = 1 &&
      rd t (bayPage 3) .bayCartId = 77 && rd t (bayPage 3) .bayHours = 5 && cartState t 3 = 0) = true ∧
    ran (.cartRemove 3) (bayIn 6 0) (fun t => cartState t 3 = 0 && rd t (bayPage 3) .bayPresent = 0 && rd t (bayPage 3) .bayHeaterOn = 0) = true := by decide +kernel
theorem test_lockTimeout : cartState (bayIn 1 0) 3 = 1 ∧ rd (bayIn 2 0) (bayPage 3) .hdrErrValid = 0 ∧
    ran (.lockTimeout 3) (bayIn 2 0) (fun t => cartState t 3 = 6 && rd t (bayPage 3) .hdrErrCode = 2) = true ∧
    ran (.cartFault 3 1) (bayIn 1 0) (fun t => cartState t 3 = 6 && rd t (bayPage 3) .hdrErrValid = 1) = true := by decide +kernel

/-! Host links and host memory (R48-R50, R419-R444). -/

/-- Link 1 in a state, the device ready. -/
def linkIn (st : Nat) : State := wri pgHif .hifLinkState 1 st (wr pgMgt .mgtBootStage 9 s0)

theorem test_linkUp : (linkIn 1).Ok ∧ ran (.linkUp 1 true 15) (linkIn 1) (fun t => linkState t 1 = 3 && rdi t pgHif .hifLinkWidth 1 = 15 && bit (rd t pgHif .hdrIrqStat) 16 = 1) = true ∧
    ran (.linkUp 1 false 15) (linkIn 1) (fun t => linkState t 1 = 2) = true ∧ ran (.linkUp 1 true 15) (linkIn 0) (· = linkIn 0) = true :=
  ⟨ok_of (by decide +kernel), by decide +kernel⟩
theorem test_linkDown : ran (.linkDown 1) { linkIn 3 with hdm := [(1, some { size := 64 })] } (fun t => linkState t 1 = 0 && hdmAt t 1 = none && bit (rd t pgHif .hdrIrqStat) 16 = 1) = true ∧
    ran (.linkDown 1) (linkIn 0) (· = linkIn 0) = true := by decide +kernel
theorem test_perstDeassert : phyOn (linkIn 0) = true ∧ ran (.perstDeassert 1) (linkIn 0) (fun t => t.perst = [1] && linkState t 1 = 1 && bit (rd t pgHif .hdrIrqStat) 16 = 1) = true ∧
    phyOn s0 = false ∧ ran (.perstDeassert 1) s0 (fun t => t.perst = [1] && linkState t 1 = 0) = true := by decide +kernel
theorem test_hdmCommit : ran (.hdmCommit 1 4096 64 2 16384) (linkIn 3) (fun t => hdmAt t 1 = some { base := 4096, size := 64, ways := 2, gran := 16384 }) = true ∧
    ran (.hdmCommit 1 0 64 2 300) (linkIn 3) (fun t => hdmAt t 1 = none) = true ∧ ran (.hdmCommit 1 0 64 1 256) (linkIn 2) (fun t => hdmAt t 1 = none) = true ∧
    ran (.hdmCommit 1 0 64 1 256) { linkIn 3 with hdm := [(0, some { size := 128 })] } (fun t => hdmAt t 1 = none && hdmAt t 0 = some { size := 128 }) = true := by decide +kernel

theorem test_membar : colIn.Ok ∧ regionOf colIn.variant 30 = .dram ∧ pstate colIn ≠ 3 ∧ hostGate colIn true 30 2 false = .go ∧ hostGate colIn true 30 2 true = .go ∧
    ran (.membarRead 30 2) colIn (fun t => t.outbox = [.memData [31, 32] false] && t.dram = colIn.dram) = true ∧
    ran (.membarWrite 30 [7, 8] false) colIn (fun t => dramByteAt t 30 = 7 && dramByteAt t 31 = 8 && dramByteAt t 29 = 30 && t.outbox = []) = true ∧
    ran (.membarWrite 30 [7, 8] true) colIn (fun t => colChk t 0 = some (segOf (colBytes t 0) segPoison)) = true := ⟨ok_of (by decide +kernel), by decide +kernel⟩
theorem test_membar_waits : hostGate (putChan 0 {} colIn) true 0 32 false = .queue ∧ ran (.membarRead 0 32) (putChan 0 {} colIn) (fun t => t.outbox = [] && t.dram = colIn.dram) = true ∧
    hostGate (putChan 0 {} colIn) true 0 1 true = .queue ∧ ran (.membarWrite 0 [7] false) (putChan 0 {} colIn) (fun t => t.outbox = [] && t.dram = colIn.dram) = true ∧
    hostGate { colIn with snoop := [0] } true 0 32 false = .snoop [0] ∧
    ran (.membarRead 0 32) { colIn with snoop := [0] } (· = { colIn with snoop := [0], biWait := [0], outbox := [.backInvalidate 0] }) = true := by decide +kernel

/-- Partition 0 in a state. -/
def partIn (st : Nat) (s : State) : State := wri 0x2028 .fltPartState 0 st s

theorem test_membar_gone : partState (partIn 4 colIn) (partOfStack (0 / 2 ^ stackBits .m768)) = 4 ∧
    ran (.membarRead 0 32) (partIn 4 colIn) (fun t => match t.outbox with | [.memData _ b] => b | _ => false) = true ∧
    ran (.membarWrite 0 [7] false) (partIn 4 colIn) (· = badAccess 1 0 (partIn 4 colIn)) = true ∧ partBusy (partIn 2 colIn) 0 = true ∧
    ran (.membarRead 0 32) (partIn 2 colIn) (· = partIn 2 colIn) = true := by decide +kernel
theorem test_membar_refused : regionOf .m768 (dramTop .m768) = .reserved ∧ regionOf .m768 (dramTop .m768 - 1) = .loaderBuffer ∧
    ran (.membarRead (dramTop .m768 - 1) 1) s0 (· = { s0 with outbox := [.unsupported] }) = true ∧
    ran (.membarWrite (dramTop .m768) [1] false) s0 (· = badAccess 2 (dramTop .m768) s0) = true ∧
    (let s := wr pgPwr .pwrPstate 3 s0; pstate s = 3 ∧ ran (.membarRead 0 1) s (· = { s with outbox := [.unsupported] }) = true ∧
      ran (.membarWrite 0 [1] false) s (· = badAccess 1 0 s) = true) := by decide +kernel

/-- Link 1 runs CXL and its decoder reaches the first two lines. -/
def cxlIn : State := { wri pgHif .hifLinkState 1 3 colIn with hdm := [(1, some { size := 128 })] }

theorem test_cxl_quiet : memQuiet cxlIn 0 ∧ memQuiet cxlIn (locate cxlIn 32) :=
  ⟨⟨by decide +kernel, by decide +kernel, by decide +kernel, by decide +kernel, by decide +kernel, by decide +kernel, by decide +kernel⟩,
    ⟨by decide +kernel, by decide +kernel, by decide +kernel, by decide +kernel, by decide +kernel, by decide +kernel, by decide +kernel⟩⟩
theorem test_cxlMem : locate cxlIn 0 = 0 ∧ hdmReaches cxlIn 1 0 = true ∧ snoopFull cxlIn 0 = false ∧ hostGate cxlIn false 0 64 false = .go ∧ hostGate cxlIn false 0 64 true = .go ∧
    ran (.cxlMemRead 1 63 true) cxlIn (fun t => t.outbox = [.memData (colBytes cxlIn 0 ++ List.replicate 32 0) false] && t.snoop = [0]) = true ∧
    ran (.cxlMemWrite 1 0 (List.replicate 64 9) false true) cxlIn (fun t => dramByteAt t 0 = 9 && dramByteAt t (locate t 32 * 32 + 31) = 9 && t.snoop = [0]) = true ∧
    ran (.cxlMemWrite 1 0 (List.replicate 64 9) false false) { cxlIn with snoop := [1, 0] } (fun t => t.snoop = [1]) = true := by decide +kernel
theorem test_cxl_unreached : hdmDecodes cxlIn 1 2 = false ∧ ran (.cxlMemRead 1 128 false) cxlIn (· = cxlIn) = true ∧
    (let s := { cxlIn with hdm := [(1, some { base := 0, size := 2 ^ 41 })] };
      hdmDecodes s 1 (dramTop .m768 / 64) = true ∧ inDram s.variant (dramTop .m768) 64 = false ∧
      ran (.cxlMemRead 1 (dramTop .m768) false) s (· = { s with outbox := [.unsupported] }) = true ∧
      ran (.cxlMemWrite 1 (dramTop .m768) [] false false) s (· = badAccess 2 (dramTop .m768) s) = true) ∧
    (let s := wr pgPwr .pwrPstate 3 cxlIn; ran (.cxlMemWrite 1 0 [] false false) s (· = badAccess 1 0 s) = true ∧
      ran (.cxlMemRead 1 0 false) s (fun t => match t.outbox with | [.memData _ b] => b | _ => false) = true) := by decide +kernel
theorem test_backInvalidateDone : ran (.backInvalidateDone 5) { s0 with snoop := [4, 5], biWait := [5] } (· = { s0 with snoop := [4] }) = true ∧
    ran (.backInvalidateDone 5) { s0 with snoop := [5] } (· = { s0 with snoop := [5] }) = true ∧
    ran (.cxlSnoop 1) (linkIn 3) (· = { linkIn 3 with outbox := [.rspI] }) = true ∧ ran (.cxlSnoop 1) (linkIn 2) (· = linkIn 2) = true := by decide +kernel

/-! Faults, recoveries, the device reset and power states (R445-R486, R521). -/

/-- The vector engine of the last core. -/
def lastVx : UnitId := (queueUnit 159 qVx)

/-- Partition 3 in a state, with a recovery. -/
def recIn (st : Nat) (r : Option Recov) : State := { wri pgFlt .fltPartState 3 st s0 with recov := match r with | some x => [(3, some x)] | none => [] }

theorem test_partitionFatal : s0.Ok ∧ unitAt lastVx.page = some lastVx ∧ lastVx.partition = some 3 ∧ lastVx.block ≠ .blk ∧ lastVx.block ≠ .evl ∧ pstate s0 ≠ 3 ∧
    ran (.partitionFatal lastVx.page 0x112 7) s0 (fun t => partState t 3 = 1 && rd t pgFlt .fltLastSrc = lastVx.page && rd t pgFlt .fltLastCode = 0x12 &&
      rdi t pgFlt .fltResetsWin 3 = 1 && t.winOpen = [3] && (recovAt t 3).any (fun r => r.src = lastVx.page && r.code = 0x12) && bit (rd t pgFlt .hdrIrqStat) 16 = 1 &&
      rd t lastVx.page .hdrFenced = 1 && rd t lastVx.page .hdrErrSeverity = 2 && partState t 0 = 0) = true := ⟨ok_of (by decide +kernel), by decide +kernel⟩
theorem test_partitionFatal_joined : partBusy (recIn 2 (some {})) 3 = true ∧
    ran (.partitionFatal lastVx.page 1 0) (recIn 2 (some {})) (fun t => rd t pgFlt .fltJoined = 1 && partState t 3 = 2) = true ∧
    ran (.partitionFatal lastVx.page 1 0) (recIn 4 none) (· = recIn 4 none) = true ∧
    ran (.bulkFatal 7 1 0) s0 (fun t => rd t (blkPage 7) .blkBlkState = 3 && rd t (blkPage 7) .hdrErrValid = 1 && partState t 3 = 0) = true := by decide +kernel
theorem test_resetGo : ran (.resetGo 3) (recIn 3 none) (fun t => partState t 3 = 1 && bit (rd t pgFlt .fltResetGo) 3 = 1 &&
      (recovAt t 3).any (fun r => r.src = pgFlt && !r.waitGo && r.oos = none) && rdi t pgFlt .fltResetsWin 3 = 1) = true ∧
    ran (.resetGo 3) (recIn 1 (some {})) (fun t => bit (rd t pgFlt .fltResetGo) 3 = 1 && partState t 3 = 1) = true ∧
    ran (.resetGo 3) (recIn 4 none) (· = recIn 4 none) = true := by decide +kernel
theorem test_resetGo_ends_wait : ran (.resetGo 3) (recIn 1 (some { waitGo := true })) (fun t => partState t 3 = 2) = true := by decide +kernel

/-- A running context of core 159 has started a descriptor; one channel has failed. -/
def drainIn : State :=
  putChan 383 { st := .failed } (putCtx 636 { st := .running, run := 1, qs := setAt {} (List.replicate 8 {}) 1 { loaded := 1, live := [{ k := 1, img := dsc 0x40 1 [] }] } }
    (putRun 1 (some { image := img1, ctxs := [636] }) { recIn 1 (some {}) with flights := [{ core := 159 }], spads := [(159, { scrub := 1 })] }))

theorem test_drainEnd : drainIn.Ok ∧ recovAt drainIn 3 = some {} ∧
    ran (.drainEnd 3) drainIn (fun t => partState t 3 = 2 && (ctxAt t 636).journal = 2 && ((ctxAt t 636).q 1).live = [] && t.flights = [] &&
      (chanAt t 383).st = .failed && (chanAt t 382).st = .training && spadAt t 159 = {} && 9 ≤ rdi t pgClk .clkCoreStep 3) = true := ⟨ok_of (by decide +kernel), by decide +kernel⟩
theorem test_drain_waits : ran (.drainEnd 3) (recIn 1 (some { waitGo := true })) (· = recIn 1 (some { waitGo := true })) = true ∧
    ran (.scratchpadSamplingDone 3) (recIn 2 (some {})) (fun t => recovAt t 3 = some { sampled := true }) = true ∧
    ran (.scratchpadSamplingDone 3) (recIn 1 (some {})) (· = recIn 1 (some {})) = true := by decide +kernel
theorem test_channelRestoreDone : let s := recIn 2 (some { sampled := true, restored := [382] })
    partOfStack 11 = 3 ∧ ran (.channelRestoreDone 11 31 true) s (fun t => recovAt t 3 = some { sampled := true, restored := [382, 383] }) = true ∧
      ran (.channelRestoreDone 11 31 false) s (fun t => recovAt t 3 = some { sampled := true, restored := [382, 383], oos := some 1 } && (chanAt t 383).st = .failed &&
        bit (rd t (mcPage 383) .hdrIrqStat) 19 = 1 && rd t pgFlt .hdrErrValid = 1) = true := by decide +kernel

/-- Everything that RESETTING waits for has come. -/
def readyIn (r : Recov) : State := recIn 2 (some { r with sampled := true, restored := chansOf 3 })

theorem sets_of {s : State} (h : s.staging = [] ∧ s.prevSet = []) : setsOnly s := by simp [setsOnly, h.1, h.2]

theorem test_partResetDone : (readyIn {}).Ok ∧ setsOnly (readyIn {}) ∧ resetReady (readyIn {}) 3 = true ∧ (readyIn {}).ops = [] ∧
    rdi (readyIn {}) pgFlt .fltResetsWin 3 < rd (readyIn {}) pgFlt .fltEscLimit ∧
    ran (.partResetDone 3) (readyIn { oos := some 1 }) (fun t => partState t 3 = 4 && recovAt t 3 = none) = true ∧
    ran (.partResetDone 3) (readyIn { commanded := true }) (fun t => partState t 3 = 0 && recovAt t 3 = none && bit (rd t pgFlt .hdrIrqStat) 17 = 1) = true :=
  ⟨ok_of (by decide +kernel), sets_of (by decide +kernel), by decide +kernel⟩
theorem test_partResetDone_more : (let s := wri pgFlt .fltResetsWin 3 255 (readyIn {})
     rd s pgFlt .fltEscLimit ≤ rdi s pgFlt .fltResetsWin 3 ∧ ran (.partResetDone 3) s (fun t => partState t 3 = 4 && bit (rd t pgFlt .hdrIrqStat) 18 = 1) = true) ∧
    (let s := putCtx 636 { st := .running, journal := 2 } (readyIn {})
     awaiting s 3 = [636] ∧ ran (.partResetDone 3) s (fun t => partState t 3 = 3 && bit (rd t pgFlt .hdrIrqStat) 17 = 1) = true) ∧
    ran (.partResetDone 3) (recIn 2 (some {})) (· = recIn 2 (some {})) = true := by decide +kernel

/-- Contexts 636 and 637 await replay. -/
def replayIn (why : Nat) : State :=
  putCtx 637 { st := .running, run := 1, journal := 2 } (putCtx 636 { st := .running, run := 1, journal := 2, noReplay := why }
    (putRun 1 (some { image := img1, ctxs := [636, 637] }) (recIn 3 (some {}))))

theorem test_ctxReplayed : (replayIn 0).Ok ∧ corePart 159 = 3 ∧ ctxId 159 0 = 636 ∧ awaiting (replayIn 0) 3 = [636, 637] ∧
    ran (.ctxReplayed 159 0) (replayIn 0) (fun t => ctxAt t 636 = { st := .running, run := 1, journal := 1 } && rd t pgFlt .fltReplayed = 1 && partState t 3 = 3) = true :=
  ⟨ok_of (by decide +kernel), by decide +kernel⟩
theorem test_ctxNotReplayed : setsOnly (replayIn 1) ∧ awaiting (dropJournal 637 (replayIn 0)) 3 = [636] ∧ (ctxAt (replayIn 1) 636).noReplay ≠ 0 ∧
    (runAt (replayIn 1) 1).any (fun r => r.ctxs.contains 636) = true ∧ (ctxAt (replayIn 1) 636).journal = 2 := ⟨sets_of (by decide +kernel), by decide +kernel⟩
theorem test_readmit : ran (.readmit 3) (recIn 4 none) (fun t => rd t pgFlt .fltReadmit = 8) = true ∧ ran (.readmit 3) (recIn 0 none) (· = recIn 0 none) = true ∧
    (let s := wr pgFlt .fltReadmit 8 (recIn 4 none)
     ran (.readmitDone 3 true []) s (fun t => partState t 3 = 0 && rd t pgFlt .fltReadmit = 0 && rd t pgFlt .fltDevService = 0) = true ∧
       ran (.readmitDone 3 false []) s (fun t => partState t 3 = 4 && rd t pgFlt .fltReadmit = 0) = true ∧
       ran (.readmitDone 3 true [383]) s (fun t => partState t 3 = 4 && (chanAt t 383).st = .failed && bit (rd t (mcPage 383) .hdrIrqStat) 19 = 1) = true) := by decide +kernel
theorem test_escWindowExpire : ran (.escWindowExpire 3) { wri pgFlt .fltResetsWin 3 5 s0 with winOpen := [0, 3] } (fun t => rdi t pgFlt .fltResetsWin 3 = 0 && t.winOpen = [0]) = true ∧
    ran (.escWindowExpire 3) s0 (· = s0) = true := by decide +kernel

theorem test_spineSingleFault : ran (.spineSingleFault false 9) s0 (fun t => rd t pgFlt .fltSpineResync = 1 && rd t pgFlt .fltSpineMismatch = 1 && bit (rd t pgFlt .hdrIrqStat) 20 = 1) = true ∧
    ran (.spineSingleFault true 9) s0 (fun t => t.compBad && rd t pgFlt .fltSpineResync = 0) = true ∧
    (let s := wr pgFlt .fltSpineResync 1 s0; ran (.spineSingleFault false 9) s (· = deviceReset s) = true) ∧
    ran (.spineSingleFault true 9) { s0 with compBad := true } (· = deviceReset { s0 with compBad := true }) = true := by decide +kernel
theorem test_spineOthers : ran .spineResyncDone (wr pgFlt .fltSpineResync 1 s0) (fun t => rd t pgFlt .fltSpineResync = 0) = true ∧
    (let s := replayIn 0; ran (.spineStorageError (some 636)) (putPartState 3 0 s) (fun t => rd t pgFlt .fltNotReplayed = 1) = true) ∧
    ran (.spineStorageError (some 639)) s0 (· = s0) = true := by decide +kernel
theorem test_deviceReset : let s := { putDrover 3 { segs := [(5, { st := .sealed })], pools := [(0, { hand := 1 })] } (wr 0x2030 .secLcState 2 colIn) with spdm := [(1, some {})] }
    ran .deviceReset s (fun t => t.dram = [] && t.chans = [] && bootStage t = 2 && debugLevel t = 2 && t.spdm = s.spdm && droverAt t 3 = { segs := [(5, { st := .sealed })] } && lcState t = 2) = true := by
  decide +kernel

/-- A requested power state. -/
def psIn (now req : Nat) : State := wr pgPwr .pwrPstateReq req (wr pgPwr .pwrPstateTgt now (wr pgPwr .pwrPstate now s0))

theorem test_psGo : (psIn 0 3).Ok ∧ psMoving (psIn 0 3) = false ∧ psEntryOk (psIn 0 3) = true ∧ rd (psIn 0 3) pgPwr .pwrPsGo = 0 ∧
    ran .psGo (psIn 0 3) (fun t => pstate t = 0 && rd t pgPwr .pwrPsGo = 1 && rd t pgPwr .pwrPstateTgt = 3 && t.psNext = none) = true ∧
    ran .psGo (psIn 1 2) (fun t => pstate t = 1 && rd t pgPwr .pwrPstateTgt = 0 && t.psNext = some 2) = true ∧
    ran .psGo (psIn 2 2) (fun t => rd t pgPwr .pwrPsResult = 0 && rd t pgPwr .pwrPsGo = 0) = true := ⟨ok_of (by decide +kernel), by decide +kernel⟩
theorem test_psGo_busy : (let s := putCtx 5 { st := .running } (psIn 0 1)
     psEntryOk s = false ∧ ran .psGo s (fun t => rd t pgPwr .pwrPsResult = 1 && rd t pgPwr .pwrPsGo = 0 && pstate t = 0) = true) ∧
    (let s := wr pgPwr .pwrPsGo 1 (psIn 0 1); ran .psGo s (· = s) = true) := by decide +kernel
theorem test_d3hot : ran (.d3hot 1) { psIn 0 0 with d3 := [0] } (fun t => t.d3 = [0, 1] && rd t pgPwr .pwrPstateTgt = 3 && pstate t = 0) = true ∧
    ran (.d3hot 1) (psIn 0 0) (fun t => t.d3 = [1] && rd t pgPwr .pwrPstateTgt = 0) = true ∧
    ran (.d0 1) { psIn 0 0 with d3 := [0, 1] } (fun t => t.d3 = [0]) = true ∧
    ran (.d0 1) { psIn 3 0 with d3 := [0, 1] } (fun t => t.d3 = [0] && rd t pgPwr .pwrPstateTgt = 0 && pstate t = 3) = true := by decide +kernel

/-- A transition to `t` runs. -/
def psTo (now t : Nat) : State := wr pgPwr .pwrPstateTgt t (psIn now t)

theorem test_pstateDone : ran .pstateDone (psTo 0 1) (fun t => pstate t = 1 && rd t pgPwr .pwrPsResult = 0 && bit (rd t pgPwr .hdrIrqStat) 16 = 1) = true ∧
    ran .pstateDone { psTo 0 2 with engines := [(0, { busy := true })] } (fun t => pstate t = 2 && t.engines = []) = true ∧
    ran .pstateDone (psTo 0 3) (fun t => pstate t = 3 && cartState t 0 ≠ 3) = true ∧
    ran .pstateDone (psTo 0 4) (fun t => pstate t = 4 && bootStage t = 1 && t.dram = []) = true ∧
    ran .pstateDone (psTo 1 1) (· = psTo 1 1) = true := by decide +kernel
theorem test_pstateDone_zero : setsOnly { psTo 1 0 with psNext := some 7 } ∧ psEntryOk (psTo 1 0) = true ∧ psEntryOk (putCtx 5 { st := .running } (psTo 1 0)) = false ∧
    rd (psTo 1 0) pgPwr .pwrPstateTgt = 0 ∧ pstate (psTo 1 0) = 1 ∧ (psTo 1 0).ops = [] ∧ bootStage (psTo 4 0) ≠ 9 ∧
    ran .pstateDone (psTo 4 0) (· = psTo 4 0) = true := ⟨sets_of (by decide +kernel), by decide +kernel⟩
theorem test_pwrPartOos : rd (wr pgPwr .pwrOosEn 1 s0) pgPwr .pwrOosEn = 1 ∧
    ran (.pwrPartOos 3) (wr pgPwr .pwrOosEn 1 s0) (fun t => partState t 3 = 4 && bit (rd t pgFlt .hdrIrqStat) 18 = 1 && rd t pgFlt .fltDevService = 1) = true ∧
    (let s := wr pgPwr .pwrOosEn 0 s0; ran (.pwrPartOos 3) s (· = s) = true) := by decide +kernel

/-- A completed SPDM session 3 of a role, in a life-cycle state. -/
def spdmIn (role lc : Nat) : State := { wr pgSec .secLcState lc (wr pgMgt .mgtBootStage 9 s0) with spdm := [(3, some { role := role, finished := true })] }
/-- Its answers. -/
def answers (b : Byte) (t : State) : Bool := t.outbox = [.spdm 0 [b]]

theorem test_spdmPartOos : mgmtUp (spdmIn 1 2) = true ∧ spdmOpen (spdmIn 1 2) 3 = some { role := 1, finished := true } ∧
    ran (.spdmPartOos 3 3) (spdmIn 1 2) (fun t => partState t 3 = 4 && t.outbox.contains (.spdm 0 [0])) = true ∧
    ran (.spdmPartOos 3 4) (spdmIn 1 2) (answers 3) = true ∧ ran (.spdmPartOos 3 3) (spdmIn 1 3) (answers 2) = true ∧ ran (.spdmPartOos 3 3) (spdmIn 2 1) (answers 1) = true := by decide +kernel
theorem test_spdmPstate : ran (.spdmPstate 3 4) (spdmIn 1 3) (fun t => rd t pgPwr .pwrPstateTgt = 4 && answers 0 t) = true ∧ ran (.spdmPstate 3 5) (spdmIn 1 3) (answers 3) = true ∧
    ran (.spdmPstate 3 4) (spdmIn 2 3) (answers 1) = true ∧
    ran (.spdmPstate 3 1) (putCtx 5 { st := .running } (spdmIn 0 0)) (fun t => rd t pgPwr .pwrPsResult = 1 && answers 4 t) = true ∧
    ran (.spdmPstate 3 2) (wr pgPwr .pwrPstateTgt 1 (wr pgPwr .pwrPstate 1 (spdmIn 0 0))) (fun t => t.psNext = some 2 && answers 0 t) = true := by decide +kernel

/-! SPDM, keys and the life cycle (R465-R477, R522). -/

/-- The management controller runs. -/
def upIn : State := wr pgMgt .mgtBootStage 9 s0

theorem test_spdm_plain : mgmtUp upIn = true ∧ mgmtUp s0 = false ∧ ran .getVersion upIn (· = { upIn with outbox := [.spdm 0 [0x13]] }) = true ∧
    ran .getCapabilities upIn (· = { upIn with outbox := [.spdm 0 []] }) = true ∧ ran .negotiateAlgorithms upIn (· = { upIn with outbox := [.spdm 0 []] }) = true ∧
    ran .spdmUnsupported upIn (· = { upIn with outbox := [.spdm 0xFF [0x07]] }) = true ∧ ran .getVersion s0 (· = s0) = true := by decide +kernel
theorem test_pskExchange : let s := { upIn with psks := [(2, some [])], spdm := [(0, some {})] }
    s.Ok ∧ rolePsk s 2 = true ∧ spdmAt s 1 = none ∧ (∀ j < 1, spdmAt s j ≠ none) ∧
      ran (.pskExchange 3) s (fun t => spdmAt t 1 = some { role := 2 } && t.outbox = [.spdm 0 [1]]) = true ∧
      ran (.pskExchange 4) s (· = { s with outbox := [.spdm 0xFF []] }) = true ∧ ran (.pskExchange 3) { s with pskLocked := [2] } (· = { s with pskLocked := [2], outbox := [.spdm 0xFF []] }) = true ∧
      rolePsk s 1 = false := ⟨ok_of (by decide +kernel), by decide +kernel⟩
theorem test_pskFinish : let s := { upIn with spdm := [(3, some { role := 1 })], pskFails := [(1, 7)] }
    s.Ok ∧ spdmAt s 3 = some { role := 1 } ∧ ran (.pskFinish 3 true) s (fun t => spdmAt t 3 = some { role := 1, finished := true } && failsOf t 1 = 0) = true ∧
      ran (.pskFinish 3 false) s (fun t => spdmAt t 3 = none && failsOf t 1 = 0 && t.pskLocked = [1] && rd t pgSec .hdrErrValid = 1) = true ∧
      ran (.pskFinish 3 false) { s with pskFails := [(1, 6)] } (fun t => failsOf t 1 = 7 && t.pskLocked = []) = true ∧
      ran (.pskFinish 2 true) s (· = { s with outbox := [.spdm 0xFF []] }) = true := ⟨ok_of (by decide +kernel), by decide +kernel⟩
theorem test_spdm_session : ran (.pskLockoutEnd 1) { s0 with pskLocked := [0, 1] } (· = { s0 with pskLocked := [0] }) = true ∧
    ran (.keyUpdate 3) (spdmIn 2 1) (· = { spdmIn 2 1 with outbox := [.spdm 0 []] }) = true ∧ ran (.heartbeat 3) (spdmIn 2 1) (· = { spdmIn 2 1 with outbox := [.spdm 0 []] }) = true ∧
    ran (.heartbeatLapse 3) (spdmIn 2 1) (fun t => spdmAt t 3 = none) = true ∧ ran (.endSession 3) (spdmIn 2 1) (fun t => spdmAt t 3 = none && t.outbox = [.spdm 0 []]) = true := by
  decide +kernel
theorem test_getMeasurements : ran (.getMeasurements 3 9) (spdmIn 2 1) (fun t => match t.outbox with | [.spdm 0 b] => b.length = 48 | _ => false) = true ∧
    ran (.getMeasurements 3 10) (spdmIn 2 1) (· = { spdmIn 2 1 with outbox := [.spdm 0xFF []] }) = true ∧ spdmOpen (spdmIn 2 1) 2 = none ∧
    ran (.getMeasurements 2 1) (spdmIn 2 1) (· = { spdmIn 2 1 with outbox := [.spdm 0xFF []] }) = true ∧ ran (.heartbeatLapse 2) (spdmIn 2 1) (· = spdmIn 2 1) = true := by decide +kernel

theorem test_keySet : (spdmIn 0 1).Ok ∧ spdmOpen (spdmIn 0 1) 3 = some { role := 0, finished := true } ∧
    ran (.keySet 3 15 (List.replicate 48 7)) (spdmIn 0 1) (fun t => keyAt t 15 = some (List.replicate 48 7) && rd t pgSec .secMeasGen = 1 && bit (rd t pgSec .hdrIrqStat) 17 = 1) = true ∧
    ran (.keySet 3 16 (List.replicate 48 7)) (spdmIn 0 1) (answers 3) = true ∧ ran (.keySet 3 0 []) (spdmIn 0 1) (answers 3) = true ∧
    ran (.keyClear 3 15) { spdmIn 0 1 with keys := [(15, some [])] } (fun t => keyAt t 15 = none && rd t pgSec .secMeasGen = 1) = true ∧
    ran (.keyClear 3 15) (spdmIn 0 1) (fun t => rd t pgSec .secMeasGen = 0) = true := ⟨ok_of (by decide +kernel), by decide +kernel⟩
theorem test_pskSet : ran (.pskSet 3 2 (List.replicate 48 7)) (spdmIn 0 0) (fun t => pskAt t 2 = some (List.replicate 48 7) && rd t pgSec .secMeasGen = 1) = true ∧
    ran (.pskSet 3 3 (List.replicate 48 7)) (spdmIn 0 0) (answers 3) = true ∧
    ran (.pskSet 3 2 []) (spdmIn 1 0) (answers 1) = true ∧ ran (.pskSet 3 2 []) (spdmIn 0 2) (answers 2) = true ∧
    ran (.pskSet 2 2 []) (spdmIn 0 2) (· = { spdmIn 0 2 with outbox := [.spdm 0xFF []] }) = true := by decide +kernel
theorem test_dbgSet : ran (.dbgSet 3 2) (spdmIn 0 1) (fun t => debugLevel t = 2 && rd t pgSec .secMeasGen = 1 && bit (rd t pgSec .hdrIrqStat) 16 = 1) = true ∧
    (let s := wri pgFlt .fltTestMode mcp 3 (wr pgSec .secDbgLevel 2 (spdmIn 0 1))
     ran (.dbgSet 3 0) s (fun t => debugLevel t = 0 && rdi t pgFlt .fltTestMode mcp = 0) = true ∧
       ran (.dbgSet 3 2) s (· = { s with outbox := [.spdm 0 [0]] }) = true) ∧ ran (.dbgSet 3 3) (spdmIn 0 1) (answers 3) = true := by decide +kernel
theorem test_lcAdvance : lcAllowed { spdmIn 0 0 with psks := [(0, some [])] } 1 = true ∧ lcAllowed (spdmIn 0 1) 3 = true ∧ lcAllowed (spdmIn 0 0) 1 = false ∧
    ran (.lcAdvance 3 1 0) (spdmIn 0 0) (answers 2) = true ∧ ran (.lcAdvance 3 4 0) (spdmIn 0 2) (answers 3) = true ∧ ran (.lcAdvance 3 0 0) (spdmIn 0 3) (answers 2) = true := by
  decide +kernel
theorem test_lcAdvance_confirmed : 3 ≤ 3 ∧ lcState (spdmIn 0 1) < 3 ∧ devId = devId := ⟨by decide, by decide +kernel, rfl⟩
theorem test_unlockAll : let s := wr (mcOf 11).page .hdrLocked 1 (wr pgFlt .hdrLocked 1 (wri pgFlt .fltPartState 3 4 (wr pgSec .secDbgLevel 2 s0)))
    s.Ok ∧ domainServes s pgFlt = true ∧ domainServes s mcp = false ∧ ran .unlockAll s (fun t => rd t pgFlt .hdrLocked = 0 && rd t mcp .hdrLocked = 1) = true ∧
      (let s := wr pgFlt .hdrLocked 1 s0; debugLevel s ≠ 2 ∧ ran .unlockAll s (fun t => rd t pgSec .secDenied = 1 && rd t pgSec .hdrErrValid = 1 && rd t pgFlt .hdrLocked = 1) = true) :=
  ⟨ok_of (by decide +kernel), by decide +kernel⟩
theorem test_pldm : pldmOk (spdmIn 1 1) (some 3) = true ∧ pldmOk (spdmIn 2 1) (some 3) = false ∧
    ran (.pldmSensorRead (some 3) 0) (spdmIn 2 1) (· = { spdmIn 2 1 with outbox := [.pldm 1 0] }) = true ∧
    ran (.pldmSensorRead (some 3) 476) (wr pgPwr .pwrInputW 9 (spdmIn 1 1)) (fun t => t.outbox = [.pldm 0 9]) = true ∧ sensPresent .m768 475 = true ∧
    ran (.pldmSensorRead (some 3) 475) (spdmIn 1 1) (· = { spdmIn 1 1 with outbox := [.pldm 0 (sensRead (spdmIn 1 1) 475)] }) = true ∧
    ran (.pldmSensorRead (some 3) 477) (spdmIn 1 1) (· = { spdmIn 1 1 with outbox := [.pldm 1 0] }) = true := by decide +kernel
theorem test_pldm_effecters : ran (.pldmPowerEffecter (some 3) 4) (spdmIn 1 1) (fun t => rd t pgPwr .pwrPstateTgt = 4 && t.outbox = [.pldm 0 0]) = true ∧
    ran (.pldmPowerEffecter (some 3) 1) (putCtx 5 { st := .running } (spdmIn 1 1)) (fun t => rd t pgPwr .pwrPsResult = 1 && t.outbox = [.pldm 1 0]) = true ∧
    ran (.pldmOosEffecter (some 3) 3) (spdmIn 1 1) (fun t => partState t 3 = 4 && t.outbox.contains (.pldm 0 0)) = true ∧
    ran (.pldmOosEffecter none 3) s0 (· = s0) = true := by decide +kernel

/-! Supply, clocks, temperatures, bring-up and firmware (R487-R529). -/

theorem test_supply : s0.Ok ∧ ran .supplyUndervoltage s0 (fun t => rd t pgPwr .pwrSupplyStep = 15 && t.supplyLow && bit (rd t pgPwr .hdrIrqStat) 18 = 1) = true ∧
    ran (.supplyRecovered 45000) { s0 with supplyLow := true } (fun t => rd t pgPwr .pwrSupplyStep = 0 && !t.supplyLow) = true ∧
    ran (.supplyRecovered 44999) { s0 with supplyLow := true } (fun t => rd t pgPwr .pwrSupplyStep = 1) = true ∧ ran (.supplyRecovered 45000) s0 (· = s0) = true :=
  ⟨ok_of (by decide +kernel), by decide +kernel⟩
theorem test_shutdowns : let s := { colIn with spdm := [(1, some {})], remaps := [5], repairLog := [6] }
    ran .supplyCollapse s (fun t => pstate t = 4 && bootStage t = 1 && rd t pgPwr .hdrErrCode = 1 && rd t pgPwr .hdrErrSeverity = 2 && rd t pgThm .thmTrips = 1 && t.dram = [] && t.spdm = s.spdm) = true ∧
      ran .overvoltage s (fun t => bootStage t = 0 && t.spdm = [] && t.remaps = [] && t.repairLog = [6] && t.dram = []) = true ∧
      ran .moduleWithdraw s (fun t => bootStage t = 0 && t.spdm = []) = true ∧ ran .railFault s (fun t => t = deviceReset s && bootStage t = 2 && t.dram = [] && t.spdm = s.spdm) = true := by decide +kernel
theorem test_fastClamp : let s := wri pgClk .clkCoreStep 3 12 (wri pgClk .clkCoreTgt 3 12 (wri pgClk .clkCoreStep 2 0 (wri pgFlt .fltPartState 1 2 s0)))
    ran .fastClamp s (fun t => t.clamp = some false && bit (rd t pgPwr .hdrIrqStat) 19 = 1 && rdi t pgClk .clkCoreTgt 3 = 0 && SMap.get (fun _ => 0) t.divided 3 = 3 &&
      SMap.get (fun _ => 0) t.divided 2 = 0 && SMap.get (fun _ => 0) t.divided 1 = 0) = true ∧
      ran .fastClamp { s0 with clamp := some true } (· = { s0 with clamp := some true }) = true ∧ ran .fastClampRelease { s0 with clamp := some true } (· = s0) = true ∧
      ran .fastClampRelease { s0 with clamp := some false } (· = { s0 with clamp := some false }) = true := by decide +kernel
theorem test_steps : ran (.hostStepWrite 15) s0 (fun t => rd t pgPwr .pwrHostStep = 15) = true ∧
    ran .stepMove { wr pgPwr .pwrHostStep 2 s0 with clamp := some false } (fun t => rd t pgPwr .pwrEffStep = 1 && bit (rd t pgPwr .hdrIrqStat) 20 = 1 && t.clamp = some true) = true ∧
    ran .stepMove (wr pgPwr .pwrEffStep 15 s0) (fun t => rd t pgPwr .pwrEffStep = 14) = true ∧ ran .stepMove s0 (· = s0) = true := by decide +kernel

/-- The ladder's three settings. -/
def ladderIn (core duty gap ms : Nat) : State := { wr pgPwr .pwrDuty duty (wr pgPwr .pwrBuGap gap s0) with coreSet := core, lowMs := ms }
/-- What they are afterwards. -/
def ladderIs (core duty gap ms : Nat) (t : State) : Bool := t.coreSet = core && rd t pgPwr .pwrDuty = duty && rd t pgPwr .pwrBuGap = gap && t.lowMs = ms

theorem test_powerEnforce_down : ran (.powerEnforce 3601 48000 7500 [1, 2] 9) (ladderIn 12 8 0 4) (fun t => ladderIs 11 8 0 0 t && rd t pgPwr .pwrInputW = 3601 && rd t pgPwr .pwrEnergyMj = 9 &&
      rdi t pgPwr .pwrSubW 1 = 2 && rdi t pgPwr .pwrSubW 8 = 3598) = true ∧
    ran (.powerEnforce 3601 48000 7500 [] 0) (ladderIn 0 8 0 4) (ladderIs 0 7 0 0) = true ∧ ran (.powerEnforce 3601 48000 7500 [] 0) (ladderIn 0 1 69 4) (ladderIs 0 1 70 0) = true ∧
    ran (.powerEnforce 3600 48000 7500 [] 0) (ladderIn 5 8 0 4) (ladderIs 5 8 0 0) = true := by decide +kernel
theorem test_powerEnforce_up : ran (.powerEnforce 3480 48000 7500 [] 0) (ladderIn 5 8 0 3) (ladderIs 5 8 0 4) = true ∧
    ran (.powerEnforce 3480 48000 7500 [] 0) (ladderIn 0 1 3 4) (ladderIs 0 1 2 5) = true ∧ ran (.powerEnforce 3480 48000 7500 [] 0) (ladderIn 0 7 0 4) (ladderIs 0 8 0 5) = true ∧
    ran (.powerEnforce 3480 48000 7500 [] 0) (ladderIn 5 8 0 5) (ladderIs 6 8 0 5) = true ∧ clocked s0 3 = true := by decide +kernel
theorem test_limitUnmet : ran .limitUnmet (wr pgPwr .pwrInputW 3601 (ladderIn 0 1 70 0)) (fun t => bit (rd t pgPwr .hdrIrqStat) 17 = 1) = true ∧
    ran .limitUnmet (wr pgPwr .pwrInputW 3601 (ladderIn 1 1 70 0)) (· = wr pgPwr .pwrInputW 3601 (ladderIn 1 1 70 0)) = true := by decide +kernel

/-- Sensor `i` reads `v`, unlike the others. -/
def hotIn (i : Nat) (v : Int) (s : State) : State := putSens i { raw := v, seen := true } s

theorem test_thermSteps : (37 < 38 ∧ throttleAt (hotIn 0 600 s0) 0 ≤ partHot (hotIn 0 600 s0) 0) ∧
    ran .thermStepRaise (wr pgPwr .pwrThermStep 14 (hotIn 0 600 s0)) (fun t => rd t pgPwr .pwrThermStep = 15) = true ∧
    (∀ p < 38, partHot s0 p + 20 ≤ throttleAt s0 p) ∧ ran .thermStepLower (wr pgPwr .pwrThermStep 1 s0) (fun t => rd t pgPwr .pwrThermStep = 0) = true ∧
    ran .thermStepRaise s0 (· = s0) = true ∧ ran .thermStepLower s0 (· = s0) = true := by decide +kernel

/-- Readings of 25 °C, but `v` at sensor `i`; the board's sensor stays. -/
def rawsOf (i : Nat) (v : Int) : List Int := (List.range 476).map fun j => if j = i then v else if j = 470 then (sensAt s0 470).raw else 100

theorem test_sensorSample_plain : (rawsOf 476 0).length = 476 ∧ (∀ i < 476, (rawsOf 476 0).getD i 0 < 280) ∧ (sensAt s0 0).far < 63 ∧ (sensAt s0 0).broken = false ∧
    sensPresent s0.variant 0 = true ∧ sensPresent s0.variant 319 = true ∧ sensPresent s0.variant 127 = true := by decide +kernel
theorem rawsOf_other (i : Nat) (v : Int) (j : Nat) (hj : j < 476) (h : j ≠ i) : (rawsOf i v).getD j 0 < 280 := by
  have hb : (sensAt s0 470).raw < 280 := by decide +kernel
  have hg : (rawsOf i v).getD j 0 = if j = 470 then (sensAt s0 470).raw else 100 := by simp [rawsOf, List.getD, hj, h]
  rw [hg]
  split <;> omega
/-- The single-reading clauses' hypotheses at the first trip of a mask zone, of a stack sensor and of a spine sensor. The step itself is
not evaluated: the neighbours of a compute sensor are a free value of the board. -/
theorem test_sensorSample_single : pstate s0 ≠ 4 ∧
    (∀ i ∈ [119, 319, 127], (sensAt s0 i).broken = false ∧ (sensAt s0 i).seen = false ∧ (sensAt s0 i).far < 63) ∧
    (rawsOf 119 420).getD 119 0 = 420 ∧ (rawsOf 319 380).getD 319 0 = 380 ∧ (rawsOf 127 420).getD 127 0 = 420 ∧
    (∀ j < 476, j ≠ 119 → (rawsOf 119 420).getD j 0 < 280) ∧ (∀ j < 476, j ≠ 319 → (rawsOf 319 380).getD j 0 < 280) ∧
    (∀ j < 476, j ≠ 127 → (rawsOf 127 420).getD j 0 < 280) :=
  ⟨by decide +kernel, by decide +kernel, by decide +kernel, by decide +kernel, by decide +kernel, rawsOf_other 119 420, rawsOf_other 319 380,
    rawsOf_other 127 420⟩
theorem test_holdTimeout : ran .holdTimeout { s0 with stackHold := [11] } (fun t => pstate t = 4 && rd t pgThm .hdrErrCode = 3 && rd t pgThm .thmTrips = 1) = true ∧
    ran .holdTimeout s0 (· = s0) = true ∧ rd (wr pgThm .thmSensSel 475 s0) pgThm .thmSensSel = 475 ∧
    ran .sensClear (putSens 475 { raw := 7, seen := true, broken := true, far := 3 } (wr pgThm .thmSensSel 475 s0)) (fun t => sensAt t 475 = { raw := 7 }) = true ∧
    ran .sensClear (wr pgThm .thmSensSel 511 s0) (· = wr pgThm .thmSensSel 511 s0) = true := by decide +kernel
theorem test_pllRelockDone : ran (.pllRelockDone 3) { wri pgClk .clkCoreStep 3 9 s0 with divided := [(3, 2)] } (fun t => rdi t pgClk .clkCoreStep 3 = 0 && t.divided = []) = true ∧
    ran (.pllRelockDone 3) (wri pgClk .clkCoreTgt 3 7 s0) (fun t => rdi t pgClk .clkCoreStep 3 = 7) = true ∧
    ran (.pllRelockDone 3) (recIn 2 none) (· = recIn 2 none) = true := by decide +kernel
theorem test_refs : ran (.refLoss 1) (wr pgClk .clkRefOk 15 (linkIn 3)) (fun t => rd t pgClk .clkRefOk = 13 && linkState t 1 = 0 && bit (rd t pgClk .hdrIrqStat) 16 = 1) = true ∧
    ran (.refLoss 2) (wr pgClk .clkRefOk 15 (linkIn 3)) (fun t => rd t pgClk .clkRefOk = 11 && bootStage t = 2) = true ∧
    ran (.refRestored 1) { linkIn 0 with perst := [1] } (fun t => bit (rd t pgClk .clkRefOk) 1 = 1 && linkState t 1 = 1) = true ∧
    ran (.refRestored 3) (linkIn 0) (fun t => bit (rd t pgClk .clkRefOk) 3 = 1 && linkState t 1 = 0) = true := by decide +kernel

theorem test_powerOn_fails : mayBring s0 = true ∧ setsOnly s0 ∧ ran (.powerOn false true 0 [] [] [] []) s0 (fun t => bootStage t = 11 && rd t pgMgt .mgtBootResult = 3) = true ∧
    ran (.powerOn true false 0 [] [] [] []) s0 (fun t => bootStage t = 11 && rd t pgMgt .mgtBootResult = 2) = true ∧
    coldDie (hotIn 128 (-1) s0) = true ∧ ran (.powerOn true true 0 [] [] [] []) (hotIn 128 (-1) s0) (fun t => bootStage t = 10) = true ∧
    bit 65 0 = 1 ∧ bit 65 6 = 1 ∧ ran (.powerOn true true 65 [] [] [] []) s0 (fun t => t.romOnly && bootStage t = 1 && !(mgmtUp t) && rd t pgMgt .mgtFwFallback = 0) = true ∧
    ran (.powerOn true true 64 [] [] [] []) s0 (fun t => !t.romOnly && bit (rd t pgMgt .mgtFwFallback) 0 = 0 && bootStage t = 8) = true ∧
    mayBring upIn = false ∧ ran (.powerOn true true 0 [] [] [] []) upIn (· = upIn) = true := by
  refine ⟨by decide +kernel, sets_of (by decide +kernel), by decide +kernel⟩
/-- Stack 7's tier fails, and component 5's selected bank; and the hypothesis of a partition that fails, by its last channel. -/
theorem test_powerOn : coldDie s0 = false ∧ ran (.powerOn true true 32 [] [7] [] []) { s0 with repairLog := [9] } (fun t => bootStage t = 8 && (chanAt t 383).st = .normal &&
    partState t 3 = 0 && rd t (blkPage 7) .blkBlkState = 3 && rd t pgMgt .mgtStBulkFail = 128 && rd t pgMgt .mgtStPartFail = 0 && t.remaps = [9] &&
    rd t pgMgt .mgtBootResult = 0 && bit (rd t pgMgt .mgtFwFallback) 5 = 1) = true ∧ (∃ ck, ck ∈ [383] ∧ ck / 96 = 3) := by decide +kernel
theorem test_bootReady : bootStage (wr pgMgt .mgtBootStage 8 (bayIn 6 0)) = 8 ∧ cartState (wr pgMgt .mgtBootStage 8 (bayIn 6 0)) 3 = 6 ∧ ran .bootReady s0 (· = s0) = true := by decide +kernel
theorem test_pwrDis : let s := { wri pgMgt .mgtFwVerB 5 9 (wri pgMgt .mgtFwVerB 0 8 upIn) with update := some { cur := some 5, verified := [0] } }
    verFld (otherBank s 5) = .mgtFwVerB ∧ ran .pwrDisAssert s (fun t => bootStage t = 0 && t.update = none && rdi t pgMgt .mgtFwVerB 5 = 0 && rdi t pgMgt .mgtFwVerB 0 = 0) = true ∧
      ran .pwrDisDeassert s0 (fun t => bootStage t = 1) = true ∧ ran .pwrDisDeassert upIn (· = upIn) = true := by decide +kernel

/-- An update with session 3 of role OPERATOR. -/
def updIn (u : FwUpdate) : State := { spdmIn 1 1 with update := some u }
/-- The PLDM answer. -/
def pldmSays (c : Nat) (t : State) : Bool := t.outbox = [.pldm c 0]

theorem test_requestUpdate : fwAnswers (spdmIn 1 1) = true ∧ fwOk (spdmIn 1 1) (some 3) = true ∧
    (let s := { wr pgMgt .mgtBootStage 1 (spdmIn 1 1) with romOnly := true }; fwAnswers s = true ∧ fwOk s none = true ∧ fwOk s (some 3) = false ∧
      ran (.requestUpdate none) s (fun t => t.update = some {} && pldmSays 0 t) = true ∧ ran (.requestUpdate (some 3)) s (pldmSays 1) = true) ∧
    ran (.requestUpdate (some 3)) (spdmIn 1 1) (fun t => t.update = some {} && pldmSays 0 t) = true ∧
    ran (.requestUpdate (some 3)) (updIn {}) (pldmSays 0x81) = true ∧ ran (.requestUpdate none) (spdmIn 1 1) (pldmSays 1) = true ∧
    ran (.passComponentTable []) upIn (pldmSays 0x80) = true ∧ ran (.verifyComplete true 1) upIn (pldmSays 0x80) = true := by decide +kernel
theorem test_components : (updIn {}).Ok ∧ ran (.passComponentTable [0, 5]) (updIn {}) (fun t => t.update = some { comps := [0, 5] } && pldmSays 0 t) = true ∧
    ran (.passComponentTable [6]) (updIn {}) (pldmSays 1) = true ∧
    ran (.updateComponent 5) (wri pgMgt .mgtFwVerB 5 9 (updIn { comps := [5], verified := [5] })) (fun t => t.update = some { comps := [5], cur := some 5 } && rdi t pgMgt .mgtFwVerB 5 = 0 && pldmSays 0 t) = true ∧
    ran (.updateComponent 4) (updIn { comps := [5] }) (pldmSays 1) = true := ⟨ok_of (by decide +kernel), by decide +kernel⟩
theorem test_transfer : ran .transferComplete (updIn { cur := some 5 }) (fun t => t.update = some { cur := some 5, xfer := true } && pldmSays 0 t) = true ∧
    ran .transferComplete (updIn {}) (pldmSays 1) = true ∧
    ran (.verifyComplete true (2 ^ 32 - 1)) (updIn { cur := some 5, xfer := true }) (fun t => t.update = some { verified := [5] } && rdi t pgMgt .mgtFwVerB 5 = 2 ^ 32 - 1 && pldmSays 0 t) = true ∧
    ran (.verifyComplete false 1) (updIn { cur := some 5, xfer := true }) (fun t => t.update = some {} && rdi t pgMgt .mgtFwVerB 5 = 0 && pldmSays 1 t) = true ∧
    ran (.verifyComplete true 1) (updIn { cur := some 5 }) (pldmSays 1) = true := by decide +kernel
theorem test_activate : ran (.activateFirmware false) (updIn { verified := [5] }) (fun t => t.update = none && rd t pgMgt .hdrStaged = 1 && rd t pgMgt .mgtFwBank = 0 &&
      t.staging.map (fun w => (w.fld, w.val)) = [(.mgtFwBank, 32)]) = true ∧
    ran (.activateFirmware true) (updIn { verified := [5] }) (fun t => t.update = none && rd t pgMgt .hdrStaged = 0 && rd t pgMgt .hdrPrevValid = 1 && rd t pgMgt .mgtFwBank = 32) = true ∧
    ran (.activateFirmware true) (updIn {}) (pldmSays 1) = true := by decide +kernel
theorem test_fwSwitch : let s := wr pgMgt .mgtFwBank 32 upIn
    fwSwitching s 5 = true ∧ fwMaySwitch s 5 7 = true ∧ fwUnits 5 = 8 ∧ ran (.fwSwitch 5 7) s (fun t => t.fwDone = [(5, 7)] && rd t pgMgt .mgtFwRun = 0) = true ∧
      (∀ j < 8, j ≠ 7 → (5, j) ∈ (List.range 7).map fun j => (5, j)) ∧
      ran (.fwSwitch 5 7) { s with fwDone := (List.range 7).map fun j => (5, j) } (fun t => bit (rd t pgMgt .mgtFwRun) 5 = 1 && t.fwDone = [] && rd t pgSec .secMeasGen = 1) = true ∧
      ran (.fwSwitch 5 8) s (· = s) = true ∧ ran (.fwSwitch 4 0) s (· = s) = true := by decide +kernel
theorem test_fwSwitchWait : let s := wr pgMgt .mgtFwBank 8 upIn
    fwSwitching s 3 = true ∧ ran (.fwSwitchWaitExpire 11 31) s (fun t => (chanAt t 383).fwHold) = true ∧
      ran (.fwSwitchWaitExpire 11 31) upIn (· = upIn) = true := by decide +kernel

end Sys2Proof.Tests
end

section
/-!
What every command and every step keeps of the queue of commands, the ordering code, the messages sent out (log entry 11) and the
counter of free values (log entry 3): read off `exec_upd` once per part, for every command.
-/

namespace Sys2Proof.Machine

variable {c : Instr} {s t : State}

/-- A command that answers a next state does only what `Upd` allows it. -/
theorem upd_of_exec (h : exec c s = .next t) : Upd busy s t := (exec_upd c s).of t h

/-- No command queues, drops or reorders a command. -/
theorem exec_pending (h : exec c s = .next t) : t.pending = s.pending := (upd_of_exec h).same .pending rfl

theorem exec_variant (h : exec c s = .next t) : t.variant = s.variant := (upd_of_exec h).same .variant rfl

theorem exec_outbox_prefix (h : exec c s = .next t) : s.outbox <+: t.outbox := (upd_of_exec h).out

theorem exec_freeCtr_le (h : exec c s = .next t) : s.freeCtr ≤ t.freeCtr := (upd_of_exec h).ctr

/-- An empty queue: the device idles (log entry 2). -/
theorem step_of_pending_nil (hq : s.pending = []) : step s = .next s := by
  simp [step, hq]

/-- The command at the front of the queue runs on the state that holds the rest of the queue. -/
theorem step_of_pending_cons {rest : List Instr} (hq : s.pending = c :: rest) : step s = exec c { s with pending := rest } := by
  simp [step, hq]

/-- What a step can be: idling with nothing queued, or one command with the rest of the queue left. -/
theorem step_cases (h : step s = .next t) :
    (s.pending = [] ∧ t = s) ∨ ∃ c rest, s.pending = c :: rest ∧ exec c { s with pending := rest } = .next t := by
  cases hq : s.pending with
  | nil =>
    rw [step_of_pending_nil hq] at h
    cases h
    exact .inl ⟨rfl, rfl⟩
  | cons c rest =>
    rw [step_of_pending_cons hq] at h
    exact .inr ⟨c, rest, rfl, h⟩

/-- Settles O5: an idle step keeps the state, and any other is one command, which leaves the rest of the queue and the ordering code and
takes back neither a message nor a free value. -/
theorem stepTakesOneCommand : Obligations.StepTakesOneCommand := by
  intro s t h
  obtain ⟨hq, rfl⟩ | ⟨c, rest, hq, hc⟩ := step_cases h
  · rw [hq]
    exact ⟨rfl, rfl, List.prefix_refl _, le_rfl⟩
  · rw [hq]
    have hqueue := exec_pending hc
    have hvariant := exec_variant hc
    have hout := exec_outbox_prefix hc
    have hctr := exec_freeCtr_le hc
    exact ⟨hqueue, hvariant, hout, hctr⟩

end Sys2Proof.Machine
end

section
/-!
Reads of register fields after the updates that the operations of CTRL are made of: a write, a raised interrupt, a reset of a unit's
fields.
-/

namespace Sys2Proof.Machine

theorem regKey_page (p : Nat) (f : Fld) (i : Nat) : regKey p f i / 16384 / 1024 = p := by
  have := f.idx_lt
  unfold regKey
  omega

theorem regKey_fld (p : Nat) (f : Fld) (i : Nat) : regKey p f i / 16384 % 1024 = f.ctorIdx := by
  have := f.idx_lt
  unfold regKey
  omega

theorem regKey_copy (p : Nat) (f : Fld) (i : Nat) : regKey p f i % 16384 = i % 16384 := by
  unfold regKey
  omega

/-- A register key names its page, its field and the number of the copy. -/
theorem regKey_eq_iff {p q : Nat} {f g : Fld} {i j : Nat} :
    regKey p f i = regKey q g j ↔ p = q ∧ f = g ∧ i % 16384 = j % 16384 := by
  constructor
  · intro h
    have hpage : p = q := by rw [← regKey_page p f i, h, regKey_page]
    have hcopy : i % 16384 = j % 16384 := by rw [← regKey_copy p f i, h, regKey_copy]
    exact ⟨hpage, regKey_inj h, hcopy⟩
  · rintro ⟨rfl, rfl, h⟩
    simp [regKey, h]

/-- Reads depend on the register table alone. -/
theorem rdi_of_regs {s t : State} (h : t.regs = s.regs) (p : Nat) (f : Fld) (i : Nat) : rdi t p f i = rdi s p f i := by
  simp only [rdi, h]

/-- A read after a write. -/
theorem rdi_wri (p q : Nat) (f g : Fld) (i j v : Nat) (s : State) :
    rdi (wri p f i v s) q g j =
      if homePage q g = homePage p f ∧ g = f ∧ j % 16384 = i % 16384 then v % 2 ^ f.row.width else rdi s q g j := by
  unfold rdi wri
  by_cases h : homePage q g = homePage p f ∧ g = f ∧ j % 16384 = i % 16384
  · obtain ⟨hp, rfl, hj⟩ := h
    have hk : regKey (homePage p g) g j = regKey (homePage p g) g i := regKey_eq_iff.2 ⟨rfl, rfl, hj⟩
    simp only [hp, hj, hk, and_self, if_true, SMap.get_set_same]
  · have hk : regKey (homePage q g) g j ≠ regKey (homePage p f) f i := fun e => h (regKey_eq_iff.1 e)
    rw [if_neg h]
    unfold SMap.set
    split
    · exact SMap.get_del_other hk
    · exact SMap.get_ins_other hk

theorem rd_wr_same (p : Nat) (f : Fld) (v : Nat) (s : State) : rd (wr p f v s) p f = v % 2 ^ f.row.width := by
  simp [rd, wr, rdi_wri]

theorem rdi_wr_fld {f g : Fld} (h : g ≠ f) (p q j v : Nat) (s : State) : rdi (wr p f v s) q g j = rdi s q g j := by
  simp [wr, rdi_wri, h]

theorem rdi_irqEdge (p : Nat) (was : Bool) (s : State) (q : Nat) (g : Fld) (j : Nat) :
    rdi (irqEdge p was s) q g j = rdi s q g j := by
  unfold irqEdge sendVec
  split <;> rfl

/-- An interrupt cause is a write of IRQ_STAT; the message it may send changes no register. -/
theorem rdi_raise (p b : Nat) (s : State) (q : Nat) (g : Fld) (j : Nat) :
    rdi (raise p b s) q g j = rdi (wr p .hdrIrqStat (rd s p .hdrIrqStat ||| 2 ^ b) s) q g j := rdi_irqEdge _ _ _ _ _ _

theorem rdi_raise_fld {g : Fld} (h : g ≠ .hdrIrqStat) (p b : Nat) (s : State) (q j : Nat) :
    rdi (raise p b s) q g j = rdi s q g j := by
  rw [rdi_raise, rdi_wr_fld h]

theorem raise_ops (p b : Nat) (s : State) : (raise p b s).ops = s.ops := (raise_upd p b s).same .ops rfl

theorem bit_eq_one_iff (v i : Nat) : bit v i = 1 ↔ v.testBit i = true := by
  rw [bit, Nat.shiftRight_eq_div_pow, ← Nat.toNat_testBit]
  cases v.testBit i <;> simp

/-- The raised cause reads 1. -/
theorem bit_rd_raise {b : Nat} (hb : b < 32) (p : Nat) (s : State) : bit (rd (raise p b s) p .hdrIrqStat) b = 1 := by
  have hw : rd (raise p b s) p .hdrIrqStat = (rd s p .hdrIrqStat ||| 2 ^ b) % 2 ^ 32 := by
    rw [rd, rdi_raise]
    exact rd_wr_same _ _ _ _
  rw [hw, bit_eq_one_iff, Nat.testBit_mod_two_pow, Nat.testBit_or, Nat.testBit_two_pow_self]
  simp [hb]

/-- Dropping the entries whose keys fail `keep`: those keys read their default again, the others are as they were. -/
theorem SMap.get_filter {α : Type} (d : Nat → α) (keep : Nat → Bool) (m : SMap α) (k : Nat) :
    SMap.get d (m.filter fun e => keep e.1) k = if keep k then SMap.get d m k else d k := by
  induction m with
  | nil => simp [SMap.get]
  | cons e m ih =>
    obtain ⟨i, w⟩ := e
    by_cases hik : i = k
    · subst hik
      cases hi : keep i <;> simp_all [SMap.get]
    · cases hi : keep i <;> simp [SMap.get, hi, hik, ih]

end Sys2Proof.Machine
end

section
/-!
The units of the tree that exist (R7-R11): their first pages name them (R43), and what is nested in one that exists, exists.
-/

namespace Sys2Proof.Machine

/-- The unit's numbers lie inside the tree (R7-R11). -/
def UnitId.Exists : UnitId → Prop
  | .lb a => a < 4
  | .part n | .psy n | .dr n => n < 4
  | .mc n k | .bu n k => n < 4 ∧ k < 3
  | .bk n k | .oe n k => n < 4 ∧ k < 2
  | .pt n e q => n < 4 ∧ e < 2 ∧ q < 4
  | .cluster n m => n < 4 ∧ m < 5
  | .core n m j | .mx n m j | .vx n m j | .tm n m j | .bc n m j | .sp n m j | .cc n m j => n < 4 ∧ m < 5 ∧ j < 8
  | _ => True

/-- A page that names a unit as its first page is that unit's first page, and the unit exists. -/
theorem exists_of_unitOfPage {p k : Nat} {u : UnitId} (h : unitOfPage p = some (u, k)) : u.Exists ∧ u.page + k = p := by
  have hp : p = 0x800 * (p / 0x800) + p % 0x800 := (Nat.div_add_mod p 0x800).symm
  have ho : p % 0x800 < 0x800 := Nat.mod_lt _ (by decide)
  unfold unitOfPage at h
  generalize p / 0x800 = n, p % 0x800 = o at h hp ho
  dsimp only at h
  rcases ite_eq_iff.1 h with ⟨hn, spine⟩ | ⟨_, rest⟩
  · clear h
    repeat' (rw [ite_eq_iff] at spine; rcases spine with ⟨_, spine⟩ | ⟨_, spine⟩)
    all_goals cases spine
    all_goals
      simp only [UnitId.Exists, UnitId.page, true_and]
      omega
  · rcases ite_eq_iff.1 rest with ⟨hn, part⟩ | ⟨_, none⟩
    · rcases ite_eq_iff.1 part with ⟨_, core⟩ | ⟨_, other⟩
      · clear h rest part
        split at core
        all_goals cases core
        all_goals
          simp only [UnitId.Exists, UnitId.page]
          omega
      · clear h rest part
        repeat' (rw [ite_eq_iff] at other; rcases other with ⟨_, other⟩ | ⟨_, other⟩)
        all_goals cases other
        all_goals
          simp only [UnitId.Exists, UnitId.page]
          omega
    · cases none

/-- What is directly nested in a unit that exists, exists. -/
theorem UnitId.members_exist {u v : UnitId} (h : u.Exists) (hv : v ∈ u.members) : v.Exists := by
  cases u
  all_goals
    simp only [UnitId.members, List.mem_append, List.mem_cons, List.mem_map, List.mem_range, List.not_mem_nil, or_false] at hv
  case dev | sp0 => rcases hv with rfl | rfl | rfl | rfl | rfl | rfl | rfl | rfl | rfl | rfl | rfl | rfl | rfl <;> simp [UnitId.Exists]
  case part => rcases hv with ⟨m, hm, rfl⟩ | rfl | rfl | rfl | rfl | rfl | rfl | rfl | rfl | rfl <;> simp_all [UnitId.Exists]
  case mc => exact hv ▸ h
  case oe | cluster =>
    obtain ⟨i, hi, rfl⟩ := hv
    exact ⟨h.1, h.2, hi⟩
  case core => rcases hv with rfl | rfl | rfl | rfl | rfl | rfl <;> exact h

/-- Whatever is nested in a unit that exists, exists. -/
theorem UnitId.all_exist {u v : UnitId} (h : u.Exists) (hv : v ∈ u.all) : v.Exists := by
  have key : ∀ (fuel : Nat) (u : UnitId), u.Exists → v ∈ UnitId.subtree fuel u → v.Exists := by
    intro fuel
    induction fuel with
    | zero =>
      intro u h hv
      exact List.mem_singleton.1 hv ▸ h
    | succ fuel ih =>
      intro u h hv
      rcases List.mem_cons.1 hv with rfl | hv
      · exact h
      · obtain ⟨w, hw, hv⟩ := List.mem_flatMap.1 hv
        exact ih w (UnitId.members_exist h hw) hv
  exact key 5 u h hv

theorem UnitId.self_mem_all (u : UnitId) : u ∈ u.all := List.mem_cons_self

/-- The first page of a unit that exists names it (R43): every numbering of the tree is small. -/
theorem unitOfPage_page {u : UnitId} (h : u.Exists) : unitOfPage u.page = some (u, 0) := by
  cases u with
  | dev | sp0 | hif | epo | dsy | flt | sec | mgt | pwr | thm | clk => rfl
  | lb a => exact (by decide : ∀ a < 4, unitOfPage (UnitId.lb a).page = some (.lb a, 0)) a h
  | part n => exact (by decide : ∀ n < 4, unitOfPage (UnitId.part n).page = some (.part n, 0)) n h
  | psy n => exact (by decide : ∀ n < 4, unitOfPage (UnitId.psy n).page = some (.psy n, 0)) n h
  | dr n => exact (by decide : ∀ n < 4, unitOfPage (UnitId.dr n).page = some (.dr n, 0)) n h
  | mc n k => exact (by decide : ∀ n < 4, ∀ k < 3, unitOfPage (UnitId.mc n k).page = some (.mc n k, 0)) n h.1 k h.2
  | bu n k => exact (by decide : ∀ n < 4, ∀ k < 3, unitOfPage (UnitId.bu n k).page = some (.bu n k, 0)) n h.1 k h.2
  | bk n k => exact (by decide : ∀ n < 4, ∀ k < 2, unitOfPage (UnitId.bk n k).page = some (.bk n k, 0)) n h.1 k h.2
  | oe n k => exact (by decide : ∀ n < 4, ∀ k < 2, unitOfPage (UnitId.oe n k).page = some (.oe n k, 0)) n h.1 k h.2
  | cluster n k => exact (by decide : ∀ n < 4, ∀ k < 5, unitOfPage (UnitId.cluster n k).page = some (.cluster n k, 0)) n h.1 k h.2
  | pt n e q =>
    exact (by decide : ∀ n < 4, ∀ e < 2, ∀ q < 4, unitOfPage (UnitId.pt n e q).page = some (.pt n e q, 0)) n h.1 e h.2.1 q h.2.2
  | core n m j =>
    exact (by decide : ∀ n < 4, ∀ m < 5, ∀ j < 8, unitOfPage (UnitId.core n m j).page = some (.core n m j, 0)) n h.1 m h.2.1 j h.2.2
  | mx n m j =>
    exact (by decide : ∀ n < 4, ∀ m < 5, ∀ j < 8, unitOfPage (UnitId.mx n m j).page = some (.mx n m j, 0)) n h.1 m h.2.1 j h.2.2
  | vx n m j =>
    exact (by decide : ∀ n < 4, ∀ m < 5, ∀ j < 8, unitOfPage (UnitId.vx n m j).page = some (.vx n m j, 0)) n h.1 m h.2.1 j h.2.2
  | tm n m j =>
    exact (by decide : ∀ n < 4, ∀ m < 5, ∀ j < 8, unitOfPage (UnitId.tm n m j).page = some (.tm n m j, 0)) n h.1 m h.2.1 j h.2.2
  | bc n m j =>
    exact (by decide : ∀ n < 4, ∀ m < 5, ∀ j < 8, unitOfPage (UnitId.bc n m j).page = some (.bc n m j, 0)) n h.1 m h.2.1 j h.2.2
  | sp n m j =>
    exact (by decide : ∀ n < 4, ∀ m < 5, ∀ j < 8, unitOfPage (UnitId.sp n m j).page = some (.sp n m j, 0)) n h.1 m h.2.1 j h.2.2
  | cc n m j =>
    exact (by decide : ∀ n < 4, ∀ m < 5, ∀ j < 8, unitOfPage (UnitId.cc n m j).page = some (.cc n m j, 0)) n h.1 m h.2.1 j h.2.2

/-- Two units that exist have different first pages. -/
theorem page_inj {u v : UnitId} (hu : u.Exists) (hv : v.Exists) (h : u.page = v.page) : u = v := by
  have e := unitOfPage_page hu
  rw [h, unitOfPage_page hv] at e
  cases e
  rfl

theorem page_of_unitOfPage {p : Nat} {u : UnitId} (h : unitOfPage p = some (u, 0)) : u.page = p := (exists_of_unitOfPage h).2

/-- Of the units that exist only `dev` has page 0x2000. -/
theorem page_ne_dev {u : UnitId} (h : u.Exists) (hd : u ≠ .dev) : u.page ≠ 0x2000 := fun e =>
  hd (page_inj h (v := .dev) trivial e)

theorem unitAt_page {u : UnitId} (h : u.Exists) : unitAt u.page = some u := by simp [unitAt, unitOfPage_page h]

end Sys2Proof.Machine
end

section
/-!
What the operations of CTRL do (R13-R16, R34-R37), one lemma per shared operation of Machine/Control: what a reset of a unit leaves in its
fields, how an operation starts on a unit that is free, when it is over, and what its end leaves.
-/

namespace Sys2Proof.Machine

/-- What the step of one element brings about, and every step keeps, holds after the fold. -/
theorem foldl_reaches {σ α : Type} {Q : σ → Prop} {l : List α} {f : σ → α → σ} {x : σ} {a : α} (ha : a ∈ l) (hset : ∀ t, Q (f t a))
    (hkeep : ∀ t y, Q t → Q (f t y)) : Q (l.foldl f x) := by
  induction l generalizing x with
  | nil => cases ha
  | cons y l ih =>
    rw [List.foldl_cons]
    rcases List.mem_cons.1 ha with rfl | ha
    · exact foldl_keeps (hset x) hkeep
    · exact ih ha

/-- One value written into the same field of several units is what each of them reads. -/
theorem rd_foldl_wr {f : Fld} {w : Nat} (hf : f.row.dev = false) (hw : w < 2 ^ f.row.width) {us : List UnitId} {v : UnitId} (hv : v ∈ us)
    (s : State) : rd (us.foldl (fun t u => wr u.page f w t) s) v.page f = w := by
  refine foldl_reaches (Q := fun t => rd t v.page f = w) hv (fun t => ?_) fun t u ht => ?_
  · rw [rd_wr_same, Nat.mod_eq_of_lt hw]
  · by_cases h : v.page = u.page
    · rw [h, rd_wr_same, Nat.mod_eq_of_lt hw]
    · rw [rd, wr, rdi_wri, if_neg (by simp [homePage, hf, h])]
      exact ht

theorem rd_putFenced {w : Nat} (hw : w < 2) {us : List UnitId} {v : UnitId} (hv : v ∈ us) (s : State) :
    rd (putFenced w us s) v.page .hdrFenced = w := rd_foldl_wr rfl hw hv s

theorem rdi_putFenced {g : Fld} (hg : g ≠ .hdrFenced) (w : Nat) (us : List UnitId) (s : State) (q j : Nat) :
    rdi (putFenced w us s) q g j = rdi s q g j :=
  foldl_keeps (Q := fun t => rdi t q g j = rdi s q g j) rfl fun t u ht => (rdi_wr_fld hg u.page q j w t).trans ht

/-! RESET of units below a partition, or of the spine's (log entry 14). -/

theorem ctorIdx_inj {f g : Fld} : f.ctorIdx = g.ctorIdx ↔ f = g :=
  ⟨fun h => by rw [← Fld.ofNat_ctorIdx f, h, Fld.ofNat_ctorIdx], fun h => h ▸ rfl⟩

/-- The register with this key keeps its value over a reset of unit `u`. -/
def resetSpares (u : UnitId) (k : Nat) : Bool :=
  k / 16384 / 1024 != u.page || !(((unitFlds u).filter (unitResetFld u)).map Fld.ctorIdx).contains (k / 16384 % 1024)

/-- The fields of unit `u` that its reset takes are gone from the register table. -/
def resetRegs (u : UnitId) (t : State) : State := { t with regs := t.regs.filter fun e => resetSpares u e.1 }

/-- What a reset leaves in the unit's IRQ_STAT: OP_DONE in a member of the addressed group (R13). -/
def doneLeft (member : Bool) (u : UnitId) (t : State) : Nat := if member then bit (rd t u.page .hdrIrqStat) 0 else 0

theorem resetUnit_regs (member : Bool) (u : UnitId) (t : State) :
    (resetUnit member u t).regs = (wr u.page .hdrIrqStat (doneLeft member u t) (resetRegs u t)).regs := by
  cases u <;> rfl

theorem resetSpares_key (u : UnitId) (p : Nat) (g : Fld) (j : Nat) :
    resetSpares u (regKey p g j) = false ↔ p = u.page ∧ g ∈ unitFlds u ∧ unitResetFld u g = true := by
  simp [resetSpares, regKey_page, regKey_fld, ctorIdx_inj]

theorem doneLeft_lt (member : Bool) (u : UnitId) (t : State) : doneLeft member u t < 2 := by
  unfold doneLeft bit
  split <;> omega

/-- A read after the reset of one unit: IRQ_STAT keeps OP_DONE in a member, a field that the reset takes reads its reset value, any
other is as it was. -/
theorem rdi_resetUnit (member : Bool) (u : UnitId) (t : State) (q : Nat) (g : Fld) (j : Nat) :
    rdi (resetUnit member u t) q g j =
      if homePage q g = u.page ∧ g = .hdrIrqStat ∧ j % 16384 = 0 then doneLeft member u t
      else if homePage q g = u.page ∧ g ∈ unitFlds u ∧ unitResetFld u g = true then regReset (homePage q g) g (j % 16384)
      else rdi t q g j := by
  have hdone : doneLeft member u t % 2 ^ Fld.hdrIrqStat.row.width = doneLeft member u t :=
    Nat.mod_eq_of_lt (Nat.lt_of_lt_of_le (doneLeft_lt member u t) (by decide))
  have hregs : rdi (resetRegs u t) q g j = if homePage q g = u.page ∧ g ∈ unitFlds u ∧ unitResetFld u g = true
      then regReset (homePage q g) g (j % 16384) else rdi t q g j := by
    simp only [rdi, resetRegs, SMap.get_filter, ← resetSpares_key u (homePage q g) g j]
    cases resetSpares u (regKey (homePage q g) g j) <;> simp
  rw [rdi_of_regs (resetUnit_regs member u t), wr, rdi_wri, hdone, hregs]
  rfl

/-- A field that the reset of no unit takes keeps its value. -/
theorem rdi_resetUnit_spared {g : Fld} (hg : g ≠ .hdrIrqStat) {u : UnitId} (h : g ∈ unitFlds u → unitResetFld u g = false)
    (member : Bool) (t : State) (q j : Nat) : rdi (resetUnit member u t) q g j = rdi t q g j := by
  rw [rdi_resetUnit, if_neg (by simp [hg]), if_neg]
  rintro ⟨-, hmem, htakes⟩
  exact absurd (h hmem) (by simp [htakes])

/-- What the fields that a reset takes read once their unit has been reset, and still after resets of other units. -/
theorem rdi_resetUnits {g : Fld} (hg : g ≠ .hdrIrqStat) (hd : g.row.dev = false) {us : List UnitId} {v : UnitId} (hv : v ∈ us)
    (hmem : g ∈ unitFlds v) (ht : unitResetFld v g = true) (p : Nat) (s : State) (j : Nat) :
    rdi (us.foldl (fun t u => resetUnit (u.page != p) u t) s) v.page g j = regReset v.page g (j % 16384) := by
  have hp : homePage v.page g = v.page := by simp [homePage, hd]
  refine foldl_reaches (Q := fun t => rdi t v.page g j = regReset v.page g (j % 16384)) hv (fun t => ?_) fun t u hu => ?_
  · rw [rdi_resetUnit, if_neg (by simp [hg]), if_pos ⟨hp, hmem, ht⟩, hp]
  · rw [rdi_resetUnit, if_neg (by simp [hg]), hp, hu, ite_self]

/-- No reset of a unit takes RESULT (R13). -/
theorem rd_result_resetUnits (us : List UnitId) (p : Nat) (s : State) (q : Nat) :
    rd (us.foldl (fun t u => resetUnit (u.page != p) u t) s) q .hdrResult = rd s q .hdrResult :=
  foldl_keeps (Q := fun t => rd t q .hdrResult = rd s q .hdrResult) rfl fun t u ht =>
    (rdi_resetUnit_spared (by decide) (fun _ => rfl) (u.page != p) t q 0).trans ht

/-- A member keeps its OP_DONE (R13). -/
theorem done_resetUnits {q p : Nat} (hq : q ≠ p) (us : List UnitId) (s : State) :
    bit (rd (us.foldl (fun t u => resetUnit (u.page != p) u t) s) q .hdrIrqStat) 0 = bit (rd s q .hdrIrqStat) 0 := by
  refine foldl_keeps (Q := fun t => bit (rd t q .hdrIrqStat) 0 = bit (rd s q .hdrIrqStat) 0) rfl fun t u ht => ?_
  by_cases h : q = u.page
  · have hm : (u.page != p) = true := by simp [← h, hq]
    have hb : bit (bit (rd t q .hdrIrqStat) 0) 0 = bit (rd t q .hdrIrqStat) 0 := by simp [bit]
    rw [rd, rdi_resetUnit, if_pos ⟨h, rfl, rfl⟩, hm, doneLeft, if_pos rfl, ← h, hb, ht]
  · have hh : homePage q .hdrIrqStat ≠ u.page := h
    rw [rd, rdi_resetUnit, if_neg (by simp [hh]), if_neg (by simp [hh])]
    exact ht

theorem sqHead_unitFlds {u : UnitId} (h : Fld.hifSqHead ∈ unitFlds u) : u = .hif := by
  have hb : ∀ b : Block, Fld.hifSqHead ∈ headerFlds ++ b.flds → b = .hif := by intro b; cases b <;> decide
  have hu := hb u.block h
  cases u <;> first | rfl | cases hu

/-- No reset of a unit takes a session's SQ_HEAD. -/
theorem rdi_sqHead_resetUnit (member : Bool) (u : UnitId) (t : State) (q j : Nat) :
    rdi (resetUnit member u t) q .hifSqHead j = rdi t q .hifSqHead j :=
  rdi_resetUnit_spared (by decide) (fun h => sqHead_unitFlds h ▸ rfl) member t q j

end Sys2Proof.Machine
end

section
/-!
The life of an operation of CTRL (R13, R34): how it starts on a unit that is free for it, what it then waits for, and what its end leaves.
-/

namespace Sys2Proof.Machine

theorem opRuns_of_ops {s t : State} (h : t.ops = s.ops) (p : Nat) (kind : CtrlKind) : opRuns t p kind = opRuns s p kind := by
  simp only [opRuns, h]

theorem opRuns_of_nil {s : State} (h : s.ops = []) (p : Nat) (kind : CtrlKind) : opRuns s p kind = false := by
  simp [opRuns, h]

theorem opRuns_putOp (o : CtrlOp) (s : State) : opRuns (putOp o s) o.page o.kind = true := by
  simp [opRuns, putOp]

/-- The operation that was put in is the one found. -/
theorem find_putOp (o : CtrlOp) (s : State) : ((putOp o s).ops.find? fun x => x.page = o.page && x.kind = o.kind) = some o := by
  have hnone : ((s.ops.filter fun x => !(x.page = o.page && x.kind = o.kind)).find? fun x => x.page = o.page && x.kind = o.kind) = none := by
    refine List.find?_eq_none.2 fun x hx => ?_
    simpa [imp_iff_not_or] using (List.mem_filter.1 hx).2
  simp only [putOp, List.find?_append, hnone]
  simp

/-! The end of an operation. -/

/-- The state with the operation no longer running. -/
def dropOp (o : CtrlOp) (s : State) : State := { s with ops := s.ops.filter fun x => !(x.page = o.page && x.kind = o.kind) }

/-- An operation on a unit other than `dev` ends with RESULT and OP_DONE alone. -/
theorem opFinish_unit {o : CtrlOp} (h : o.page ≠ 0x2000) (s : State) :
    opFinish o s = raise o.page 0 (wr o.page .hdrResult o.worst (dropOp o s)) := by
  simp [opFinish, dropOp, h]

/-- On `dev` it also leaves SKIPPED_PART; RESET of `dev` ends otherwise (R467). -/
theorem opFinish_dev {o : CtrlOp} (h : o.page = 0x2000) (hk : o.kind ≠ .reset) (s : State) :
    opFinish o s = raise o.page 0 (wr o.page .hdrResult o.worst (wr o.page .hdrSkippedPart o.skipped (dropOp o s))) := by
  simp [opFinish, dropOp, h, hk]

theorem opRuns_dropOp (o : CtrlOp) (s : State) : opRuns (dropOp o s) o.page o.kind = false := by
  simp only [opRuns, dropOp, List.any_eq_false]
  intro x hx
  simpa [imp_iff_not_or] using (List.mem_filter.1 hx).2

/-- RESULT is four bits wide, and OP_DONE is raised after it is stored (R36, R37). -/
theorem rd_result_raise (p v : Nat) (s : State) : rd (raise p 0 (wr p .hdrResult v s)) p .hdrResult = v % 16 := by
  rw [rd, rdi_raise_fld (by decide)]
  exact rd_wr_same p .hdrResult v s

/-- Besides RESULT and IRQ_STAT of the addressed page, the end of an operation on a unit changes no register field. -/
theorem rdi_opFinish_other {o : CtrlOp} (h : o.page ≠ 0x2000) (s : State) (q : Nat) (g : Fld) (j : Nat)
    (hr : (homePage q g, g, j % 16384) ≠ (o.page, .hdrResult, 0)) (hi : (homePage q g, g, j % 16384) ≠ (o.page, .hdrIrqStat, 0)) :
    rdi (opFinish o s) q g j = rdi s q g j := by
  rw [opFinish_unit h, rdi_raise, wr, rdi_wri, if_neg, wr, rdi_wri, if_neg]
  · rfl
  · rintro ⟨hp, rfl, hj⟩
    exact hr (by rw [hp, hj]; rfl)
  · rintro ⟨hp, rfl, hj⟩
    exact hi (by rw [hp, hj]; rfl)

/-- How an operation on a unit other than `dev` ends: RESULT, OP_DONE, no longer running. -/
theorem opFinish_ends {o : CtrlOp} (h : o.page ≠ 0x2000) (s : State) :
    rd (opFinish o s) o.page .hdrResult = o.worst % 16 ∧ bit (rd (opFinish o s) o.page .hdrIrqStat) 0 = 1 ∧
      opRuns (opFinish o s) o.page o.kind = false := by
  rw [opFinish_unit h]
  refine ⟨rd_result_raise _ _ _, bit_rd_raise (by decide) _ _, ?_⟩
  rw [opRuns_of_ops (raise_ops _ _ _), ← opRuns_dropOp o s]
  rfl

theorem opFinish_unit_upd {o : CtrlOp} (h : o.page ≠ 0x2000) (s : State) :
    Upd [.regCtl, .regIrq, .outbox] (dropOp o s) (opFinish o s) := by
  rw [opFinish_unit h]
  exact (Upd.mono rfl (wr_upd _ _ _ _)).step rfl (raise_upd _ _ _)

/-! The start of an operation. -/

/-- What an operation does at once to the units it reaches; `page` is the addressed unit's. -/
def opEffect (kind : CtrlKind) (page : Nat) (us : List UnitId) (s : State) : State :=
  match kind with
  | .sync => s
  | .fence => putFenced 1 us s
  | .unfence => putFenced 0 us s
  | .reset => us.foldl (fun t u => resetUnit (u.page != page) u t) s

/-- The work that an operation then waits for: UNFENCE waits for none. -/
def opWaits (kind : CtrlKind) (us : List UnitId) (s : State) : List (Nat × Nat × Nat) :=
  if kind = .unfence then [] else us.flatMap (unitWork s)

/-- An operation that reaches units of which none runs one of the kind. -/
theorem opApply_fresh {o : CtrlOp} (hd : o.deps = []) (hw : o.work = []) (us : List UnitId) (s : State) :
    opApply us o s = putOp { o with work := opWaits o.kind us s } (opEffect o.kind o.page us s) := by
  have hus : opFresh us o = us := by simp [opFresh, hd]
  obtain ⟨page, kind, work, worst, skipped, waiting, resets, deps⟩ := o
  subst hw
  simp only [opApply, hus]
  cases kind <;> rfl

/-- The operation as it starts on a unit that is free for it. -/
def startedOp (u : UnitId) (kind : CtrlKind) (s : State) : CtrlOp := { page := u.page, kind := kind, work := opWaits kind u.all s }

/-- The state that the start of the operation leaves before it may complete. -/
def startedState (u : UnitId) (kind : CtrlKind) (s : State) : State :=
  putOp (startedOp u kind s) (opEffect kind u.page u.all s)

theorem ctrlFree.ne_dev {s : State} {u : UnitId} {kind : CtrlKind} (hf : ctrlFree s u kind) : u ≠ .dev := hf.1

/-- An operation starts on a unit that is free for it: its effect comes at once, and it completes where it waits for nothing. -/
theorem opStart_free {u : UnitId} {kind : CtrlKind} {s : State} (hf : ctrlFree s u kind) (hk : kind = .reset → isPartHeader u = false) :
    opStart u kind s = opSettle (startedOp u kind s) (startedState u kind s) := by
  obtain ⟨hdev, -, hall, -, hpart⟩ := hf
  have hruns : opRuns s u.page kind = false := hall u u.self_mem_all
  have hdeps : (((u.all.drop 1).map UnitId.page).filter fun p => opRuns s p kind) = [] := by
    refine List.filter_eq_nil_iff.2 fun p hp => ?_
    obtain ⟨v, hv, rfl⟩ := List.mem_map.1 hp
    simp [hall v (List.mem_of_mem_drop hv)]
  have hout : (u.partition.any fun n => partState s n = 4) = false := by
    cases h : u.partition with
    | none => rfl
    | some n => simp [(hpart n h).1]
  have hfresh : opApply u.all { page := u.page, kind := kind } s = startedState u kind s := opApply_fresh rfl rfl u.all s
  have hfind : ((startedState u kind s).ops.find? fun x => x.page = u.page && x.kind = kind) = some (startedOp u kind s) :=
    find_putOp (startedOp u kind s) _
  unfold opStart
  simp only [hruns, hdeps, hout, Bool.false_eq_true, if_false]
  cases u with
  | dev => exact absurd rfl hdev
  | part n =>
    have hkind : kind ≠ .reset := fun e => by simpa [isPartHeader] using hk e
    simp only [opOnPart, opPartition, (hpart n rfl).2, Bool.false_eq_true, if_false, hkind, hfresh, hfind]
  | _ => simp only [hfresh, hfind]

/-- The bit of CTRL that starts the operation (R34). -/
def CtrlKind.bitNo : CtrlKind → Nat
  | .sync => 0 | .fence => 1 | .unfence => 2 | .reset => 3

/-- A write of one bit of CTRL on a unit that answers, or is out of service, and runs no RESET starts that operation (R35). -/
theorem ctrlBit_starts {u : UnitId} {page : Nat} {s : State} (hu : unitOfPage page = some (u, 0))
    (ha : unitReachable s u = true ∨ unitOos s u = true) (hr : opRuns s u.page .reset = false) (kind : CtrlKind) :
    ctrlBit page kind.bitNo s = opStart u kind s := by
  have hgo : ((!unitReachable s u && !unitOos s u) || opRuns s u.page .reset) = false := by
    rcases ha with h | h <;> simp [h, hr]
  cases kind <;> simp [ctrlBit, hu, ctrlWrite, hgo, CtrlKind.bitNo, bit]

end Sys2Proof.Machine
end

section
/-!
When an operation of CTRL is over (R13, R34), and with it what a write of CTRL answers on a unit that is free for the operation.
-/

namespace Sys2Proof.Machine

theorem opDone_of_nothing_left {o : CtrlOp} (hwait : o.waiting = []) (hres : o.resets = []) (hdep : o.deps = [])
    (s : State) (hwork : o.work = [] ∨ ((unitAt o.page).map UnitId.all).getD [] = []) : opDone s o = true := by
  rcases hwork with h | h <;> simp [opDone, hwait, hres, hdep, h]

theorem opDone_of_work {o : CtrlOp} {u : UnitId} (hu : unitAt o.page = some u) {s : State} {w : Nat × Nat × Nat} (hw : w ∈ o.work)
    (hnow : w ∈ u.all.flatMap (unitWork s)) : opDone s o = false := by
  have hne : o.work.isEmpty = false := List.isEmpty_eq_false_iff.2 (List.ne_nil_of_mem hw)
  have hall : (o.work.all fun x => !(u.all.flatMap (unitWork s)).contains x) = false :=
    List.all_eq_false.2 ⟨w, hw, by simpa using hnow⟩
  simp only [opDone, hne, hu, Option.map_some, Option.getD_some, hall, Bool.or_self, Bool.and_false]

/-- The parts of the state, besides SQ_HEAD, that accepted work is read from. -/
def workParts : List Part := [.ctxs, .chans, .drovers, .sess, .loadQ, .loading, .abortWaits, .ports]

/-- Accepted work is the same where the parts that it is read from are. -/
theorem unitWork_eq {s t : State} (h : ∀ p ∈ workParts, Same p s t) (hq : ∀ i, rdi t pgHif .hifSqHead i = rdi s pgHif .hifSqHead i)
    (u : UnitId) : unitWork t u = unitWork s u := by
  have hctxs : t.ctxs = s.ctxs := h .ctxs (by decide)
  have hchans : t.chans = s.chans := h .chans (by decide)
  have hdrovers : t.drovers = s.drovers := h .drovers (by decide)
  have hsess : t.sess = s.sess := h .sess (by decide)
  have hloadQ : t.loadQ = s.loadQ := h .loadQ (by decide)
  have hloading : t.loading = s.loading := h .loading (by decide)
  have haborts : t.abortWaits = s.abortWaits := h .abortWaits (by decide)
  have hports : t.ports = s.ports := h .ports (by decide)
  cases u <;>
    simp only [unitWork, descWork, queueWork, seqWork, droverWork, ctxAt, chanAt, droverAt, portAt, hctxs, hchans, hdrovers, hsess,
      hloadQ, hloading, haborts, hports, hq]

theorem opEffect_upd (kind : CtrlKind) (page : Nat) (us : List UnitId) (s : State) :
    Upd resetUnit_parts s (opEffect kind page us s) := by
  cases kind with
  | sync => exact Upd.refl s
  | fence => exact Upd.mono rfl (putFenced_upd 1 us s)
  | unfence => exact Upd.mono rfl (putFenced_upd 0 us s)
  | reset => exact Upd.foldl (Upd.refl s) fun t u ht => ht.trans (resetUnit_upd _ u t)

theorem rdi_sqHead_opEffect (kind : CtrlKind) (page : Nat) (us : List UnitId) (s : State) (q j : Nat) :
    rdi (opEffect kind page us s) q .hifSqHead j = rdi s q .hifSqHead j := by
  cases kind with
  | sync => rfl
  | fence => exact rdi_putFenced (by decide) 1 us s q j
  | unfence => exact rdi_putFenced (by decide) 0 us s q j
  | reset =>
    exact foldl_keeps (Q := fun t => rdi t q .hifSqHead j = rdi s q .hifSqHead j) rfl fun t u ht =>
      (rdi_sqHead_resetUnit _ u t q j).trans ht

/-- Starting an operation ends no accepted work. -/
theorem unitWork_startedState (u : UnitId) (kind : CtrlKind) (s : State) (v : UnitId) :
    unitWork (startedState u kind s) v = unitWork s v := by
  have hupd : Upd opApply_parts s (startedState u kind s) :=
    (Upd.mono rfl (opEffect_upd kind u.page u.all s)).step rfl (putOp_upd _ _)
  exact unitWork_eq (fun p hp => hupd.same p (by revert p; decide)) (fun i => rdi_sqHead_opEffect kind u.page u.all s pgHif i) v

/-- The command that writes one bit of a page's CTRL. -/
def ctrlInstr : CtrlKind → Nat → Instr
  | .sync => .sync | .fence => .fence | .unfence => .unfence | .reset => .reset

theorem exec_ctrlInstr (kind : CtrlKind) (page : Nat) (s : State) : exec (ctrlInstr kind page) s = .next (ctrlBit page kind.bitNo s) := by
  cases kind <;> rfl

section Free

variable {u : UnitId} {page : Nat} {s : State} {kind : CtrlKind}

theorem exec_ctrl_free (hu : unitOfPage page = some (u, 0)) (hf : ctrlFree s u kind) (hk : kind = .reset → isPartHeader u = false) :
    exec (ctrlInstr kind page) s = .next (opSettle (startedOp u kind s) (startedState u kind s)) := by
  obtain ⟨-, hreach, -, hreset, -⟩ := id hf
  rw [exec_ctrlInstr, ctrlBit_starts hu (.inl hreach) hreset, opStart_free hf hk]

/-- On a unit that is free for the operation and has no work for it to wait for, it completes at once. -/
theorem exec_ctrl_completes (hu : unitOfPage page = some (u, 0)) (hf : ctrlFree s u kind) (hk : kind = .reset → isPartHeader u = false)
    (hw : opWaits kind u.all s = []) :
    exec (ctrlInstr kind page) s = .next (opFinish (startedOp u kind s) (startedState u kind s)) := by
  rw [exec_ctrl_free hu hf hk, opSettle, opDone_of_nothing_left rfl rfl rfl _ (.inl hw), if_pos rfl]

/-- On a unit that is free for the operation and has work, it stays in progress. -/
theorem exec_ctrl_waits (hu : unitOfPage page = some (u, 0)) (hf : ctrlFree s u kind) (hk : kind = .reset → isPartHeader u = false)
    (hw : opWaits kind u.all s ≠ []) : exec (ctrlInstr kind page) s = .next (startedState u kind s) := by
  have hnow : u.all.flatMap (unitWork (startedState u kind s)) = u.all.flatMap (unitWork s) :=
    congrArg u.all.flatMap (funext (unitWork_startedState u kind s))
  obtain ⟨w, hmem⟩ := List.exists_mem_of_ne_nil _ hw
  have hall : w ∈ u.all.flatMap (unitWork s) := by
    unfold opWaits at hmem
    split at hmem
    · cases hmem
    · exact hmem
  have hat : unitAt (startedOp u kind s).page = some u := unitAt_page (exists_of_unitOfPage hu).1
  rw [exec_ctrl_free hu hf hk, opSettle, opDone_of_work hat hmem (hnow ▸ hall), if_neg Bool.false_ne_true]

theorem opWaits_of_no_work {us : List UnitId} (h : us.flatMap (unitWork s) = []) : opWaits kind us s = [] := by
  unfold opWaits
  split
  · rfl
  · exact h

theorem opWaits_of_work (hk : kind ≠ .unfence) (h : u.all.flatMap (unitWork s) ≠ []) : opWaits kind u.all s ≠ [] := by
  rwa [opWaits, if_neg hk]

/-- What the end of an operation that completes at once leaves: RESULT 0, OP_DONE, no longer running. -/
theorem startedOp_ends (hu : unitOfPage page = some (u, 0)) (hd : u ≠ .dev) :
    rd (opFinish (startedOp u kind s) (startedState u kind s)) page .hdrResult = 0 ∧
      bit (rd (opFinish (startedOp u kind s) (startedState u kind s)) page .hdrIrqStat) 0 = 1 ∧
      opRuns (opFinish (startedOp u kind s) (startedState u kind s)) page kind = false := by
  rw [← page_of_unitOfPage hu]
  exact opFinish_ends (o := startedOp u kind s) (page_ne_dev (exists_of_unitOfPage hu).1 hd) (startedState u kind s)

/-- A field other than RESULT and IRQ_STAT reads after the end what the operation's effect left in it. -/
theorem rdi_startedOp_end (hu : unitOfPage page = some (u, 0)) (hd : u ≠ .dev) {g : Fld} (hr : g ≠ .hdrResult) (hi : g ≠ .hdrIrqStat)
    (q j : Nat) :
    rdi (opFinish (startedOp u kind s) (startedState u kind s)) q g j = rdi (opEffect kind u.page u.all s) q g j :=
  rdi_opFinish_other (o := startedOp u kind s) (page_ne_dev (exists_of_unitOfPage hu).1 hd) (startedState u kind s) q g j
    (by simp [hr]) (by simp [hi])

end Free

end Sys2Proof.Machine
end

section
/-!
O11: the common operations of CTRL on a unit below `dev`, clause by clause.
-/

namespace Sys2Proof.Machine

theorem rc_not_dev {f : Fld} (h : f.row.acc = .rc) : f.row.dev = false := by
  revert h
  cases f <;> decide

/-- The header fields that the clause on RESET names are taken by every unit's reset. -/
theorem unitResetFld_header (v : UnitId) : ∀ g ∈ [Fld.hdrLocked, .hdrFenced, .hdrErrValid], g ∈ unitFlds v ∧ unitResetFld v g = true := by
  have hmem : ∀ g ∈ [Fld.hdrLocked, .hdrFenced, .hdrErrValid], g ∈ headerFlds := by decide
  intro g hg
  refine ⟨List.mem_append_left _ (hmem g hg), ?_⟩
  simp only [List.mem_cons, List.not_mem_nil, or_false] at hg
  rcases hg with rfl | rfl | rfl <;> simp [unitResetFld]

/-- Every RC counter is taken by its unit's reset. -/
theorem unitResetFld_rc (v : UnitId) {f : Fld} (h : f.row.acc = .rc) : unitResetFld v f = true := by
  have hne : f ≠ .hdrResult := fun e => absurd (e ▸ h) (by decide)
  simp [unitResetFld, h, hne]

section Clauses

variable {u : UnitId} {page : Nat} {s : State} {kind : CtrlKind}

/-- An operation on a unit out of service ends at once with RESULT 4 (R15, R36). -/
theorem exec_ctrl_oos (hu : unitOfPage page = some (u, 0)) (ho : unitOos s u = true) (hops : s.ops = []) (kind : CtrlKind) :
    exec (ctrlInstr kind page) s = .next (opFinish { page := u.page, kind := kind, worst := 4 } s) := by
  obtain ⟨-, hout⟩ : pstate s < 3 ∧ (u.partition.any fun n => partState s n = 4) = true := by simpa [unitOos] using ho
  have hruns : ∀ p, opRuns s p kind = false := fun p => opRuns_of_nil hops p kind
  rw [exec_ctrlInstr, ctrlBit_starts hu (.inr ho) (opRuns_of_nil hops _ _)]
  simp [opStart, hruns, hout]

theorem oos_ne_dev (ho : unitOos s u = true) : u ≠ .dev := by
  rintro rfl
  simp [unitOos, UnitId.partition] at ho

theorem dropOp_of_nil (hops : s.ops = []) (o : CtrlOp) : dropOp o s = s := by
  obtain ⟨⟩ := s
  subst hops
  rfl

/-- What such an end leaves, and that it changes nothing else. -/
theorem oos_ends {o : CtrlOp} (hp : o.page ≠ 0x2000) (hops : s.ops = []) (hw : o.worst = 4) :
    rd (opFinish o s) o.page .hdrResult = 4 ∧ bit (rd (opFinish o s) o.page .hdrIrqStat) 0 = 1 ∧
      RegsBut [(o.page, .hdrResult, 0), (o.page, .hdrIrqStat, 0)] s (opFinish o s) ∧
      Only [.regCtl, .regIrq, .outbox] s (opFinish o s) := by
  obtain ⟨hres, hdone, -⟩ := opFinish_ends hp s
  refine ⟨by rw [hres, hw], hdone, fun q g j hne => ?_, ?_⟩
  · simp only [List.mem_cons, List.not_mem_nil, or_false, not_or] at hne
    exact rdi_opFinish_other hp s q g j hne.1 hne.2
  · have hupd := opFinish_unit_upd hp s
    rw [dropOp_of_nil hops] at hupd
    exact hupd.same

/-- What a RESET of a unit below a partition header leaves in its units (R13, R14, R38; log entry 14). -/
theorem reset_leaves (hu : unitOfPage page = some (u, 0)) (hd : u ≠ .dev) {v : UnitId} (hv : v ∈ u.all) :
    let t := opFinish (startedOp u .reset s) (startedState u .reset s)
    (rd t v.page .hdrLocked = 0 ∧ rd t v.page .hdrFenced = 0 ∧ rd t v.page .hdrErrValid = 0) ∧
      ∀ f i, f ∈ v.block.flds → f.row.acc = .rc → rdi t v.page f i = regReset v.page f (i % 16384) := by
  intro t
  have hread : ∀ f i, f ≠ .hdrResult → f ≠ .hdrIrqStat → f.row.dev = false → f ∈ unitFlds v → unitResetFld v f = true →
      rdi t v.page f i = regReset v.page f (i % 16384) := fun f i hr hi hdev hmem ht =>
    (rdi_startedOp_end hu hd hr hi v.page i).trans (rdi_resetUnits hi hdev hv hmem ht u.page s i)
  have hhdr : ∀ g ∈ [Fld.hdrLocked, .hdrFenced, .hdrErrValid], rd t v.page g = regReset v.page g 0 := by
    intro g hg
    obtain ⟨hr, hi, hdev⟩ : g ≠ .hdrResult ∧ g ≠ .hdrIrqStat ∧ g.row.dev = false := by revert g; decide
    obtain ⟨hmem, ht⟩ := unitResetFld_header v g hg
    exact hread g 0 hr hi hdev hmem ht
  refine ⟨⟨hhdr _ (by decide), hhdr _ (by decide), hhdr _ (by decide)⟩, fun f i hf hrc => ?_⟩
  exact hread f i (fun e => absurd (e ▸ hrc) (by decide)) (fun e => absurd (e ▸ hrc) (by decide)) (rc_not_dev hrc)
    (List.mem_append_right _ hf) (unitResetFld_rc v hrc)

/-- What a member keeps over a RESET of its group: RESULT and OP_DONE (R13). -/
theorem reset_member_keeps (hu : unitOfPage page = some (u, 0)) (hd : u ≠ .dev) {v : UnitId} (hv : v ∈ u.all) (hne : v ≠ u) :
    let t := opFinish (startedOp u .reset s) (startedState u .reset s)
    rd t v.page .hdrResult = rd s v.page .hdrResult ∧ bit (rd t v.page .hdrIrqStat) 0 = bit (rd s v.page .hdrIrqStat) 0 := by
  intro t
  have hex : u.Exists := (exists_of_unitOfPage hu).1
  have hpage : v.page ≠ u.page := fun e => hne (page_inj (UnitId.all_exist hex hv) hex e)
  have hread : ∀ g : Fld, g.row.dev = false → rd t v.page g = rd (opEffect .reset u.page u.all s) v.page g := fun g hg => by
    have hhome : homePage v.page g ≠ u.page := by simpa [homePage, hg] using hpage
    exact rdi_opFinish_other (o := startedOp u .reset s) (page_ne_dev hex hd) _ _ _ _ (by simp [startedOp, hhome]) (by simp [startedOp, hhome])
  rw [hread .hdrResult rfl, hread .hdrIrqStat rfl]
  exact ⟨rd_result_resetUnits u.all u.page s v.page, done_resetUnits hpage u.all s⟩

/-- FENCE and UNFENCE leave their value in FENCED of every nested unit. -/
theorem rd_fenced_end (hu : unitOfPage page = some (u, 0)) (hd : u ≠ .dev) {w : Nat} (hw : w < 2)
    (he : opEffect kind u.page u.all s = putFenced w u.all s) {v : UnitId} (hv : v ∈ u.all) :
    rd (opFinish (startedOp u kind s) (startedState u kind s)) v.page .hdrFenced = w :=
  (rdi_startedOp_end hu hd (by decide) (by decide) _ _).trans (he ▸ rd_putFenced hw hv s)

theorem opRuns_startedState (hu : unitOfPage page = some (u, 0)) : opRuns (startedState u kind s) page kind = true := by
  rw [← page_of_unitOfPage hu]
  exact opRuns_putOp (startedOp u kind s) _

/-- SYNC and FENCE of a unit with work stay in progress; the units are FENCED at once (R34, R449). -/
theorem sync_or_fence_waits (hu : unitOfPage page = some (u, 0)) (hk : kind = .sync ∨ kind = .fence) (hf : ctrlFree s u kind)
    (hw : u.all.flatMap (unitWork s) ≠ []) :
    ∃ t, exec (if kind = .sync then .sync page else .fence page) s = .next t ∧ opRuns t page kind = true ∧
      (kind = .fence → ∀ v, v ∈ u.all → rd t v.page .hdrFenced = 1) := by
  rcases hk with rfl | rfl
  · exact ⟨_, exec_ctrl_waits hu hf nofun (opWaits_of_work nofun hw), opRuns_startedState hu, nofun⟩
  · exact ⟨_, exec_ctrl_waits hu hf nofun (opWaits_of_work nofun hw), opRuns_startedState hu, fun _ v hv => rd_putFenced (by decide) hv s⟩

theorem exec_ctrlOpComplete (p k : Nat) (s : State) : exec (.ctrlOpComplete p k) s = execCtrlOpComplete p k s := rfl

/-- CTRL_OP_COMPLETE ends a running operation that waits for nothing any more (R13, R34). -/
theorem ctrlOpComplete_ends {o : CtrlOp} {k : Nat} (hkind : o.kind = ctrlKindOf k)
    (hfind : (s.ops.find? fun x => x.page = o.page && x.kind = o.kind) = some o) (hdone : opDone s o = true) (hp : o.page ≠ 0x2000) :
    ∃ t, exec (.ctrlOpComplete o.page k) s = .next t ∧ rd t o.page .hdrResult = o.worst % 16 ∧ bit (rd t o.page .hdrIrqStat) 0 = 1 ∧
      opRuns t o.page o.kind = false ∧ Only [.ops, .regCtl, .regIrq, .outbox] s t := by
  have hexec : exec (.ctrlOpComplete o.page k) s = .next (opFinish o s) := by
    rw [exec_ctrlOpComplete, execCtrlOpComplete, ← hkind, hfind]
    simp only [opSettle, hdone, if_true]
  have hdrop : Upd [.ops, .regCtl, .regIrq, .outbox] s (dropOp o s) := Upd.set_ops (Upd.refl s) rfl
  obtain ⟨hres, hirq, hruns⟩ := opFinish_ends hp s
  exact ⟨_, hexec, hres, hirq, hruns, (hdrop.step rfl (opFinish_unit_upd hp s)).same⟩

end Clauses

/-- Settles O11: an operation on a free unit is `opSettle` of the operation it starts; where no work is left that is its end, which
leaves RESULT and OP_DONE over the operation's effect on the units, and where work is left it is the operation in progress. -/
theorem ctrlOperationsComplete : Obligations.CtrlOperationsComplete := by
  refine ⟨?sync, ?fence, ?unfence, ?reset, ?resetWaits, ?oos, ?syncFenceWaits, ?opComplete⟩
  case sync =>
    intro u page s _ hu hf hw
    exact ⟨_, exec_ctrl_completes hu hf nofun (opWaits_of_no_work hw), startedOp_ends hu hf.ne_dev⟩
  case fence =>
    intro u page s _ hu hf hw
    obtain ⟨hres, hirq, hruns⟩ := startedOp_ends (kind := .fence) (s := s) hu hf.ne_dev
    exact ⟨_, exec_ctrl_completes hu hf nofun (opWaits_of_no_work hw), hres, hirq, hruns,
      fun v hv => rd_fenced_end hu hf.ne_dev (by decide) rfl hv⟩
  case unfence =>
    intro u page s _ hu hf
    obtain ⟨hres, hirq, hruns⟩ := startedOp_ends (kind := .unfence) (s := s) hu hf.ne_dev
    exact ⟨_, exec_ctrl_completes hu hf nofun rfl, hres, hirq, hruns, fun v hv => rd_fenced_end hu hf.ne_dev (by decide) rfl hv⟩
  case reset =>
    intro u page s _ hu hp hf hw
    obtain ⟨hres, hirq, hruns⟩ := startedOp_ends (kind := .reset) (s := s) hu hf.ne_dev
    exact ⟨_, exec_ctrl_completes hu hf (fun _ => hp) (opWaits_of_no_work hw), hres, hirq, hruns,
      fun v hv => (reset_leaves hu hf.ne_dev hv).1, fun v hv hne => reset_member_keeps hu hf.ne_dev hv hne,
      fun v f i hv hf' hrc => (reset_leaves hu hf.ne_dev hv).2 f i hf' hrc⟩
  case resetWaits =>
    intro u page s _ hu hp hf hw
    exact ⟨_, exec_ctrl_waits hu hf (fun _ => hp) (opWaits_of_work nofun hw), opRuns_startedState hu⟩
  case oos =>
    intro u page c s _ hu ho hops hc
    obtain ⟨kind, rfl⟩ : ∃ kind, c = ctrlInstr kind page := by
      simp only [List.mem_cons, List.not_mem_nil, or_false] at hc
      rcases hc with rfl | rfl | rfl | rfl
      exacts [⟨.sync, rfl⟩, ⟨.fence, rfl⟩, ⟨.unfence, rfl⟩, ⟨.reset, rfl⟩]
    obtain rfl := page_of_unitOfPage hu
    exact ⟨_, exec_ctrl_oos hu ho hops kind, oos_ends (page_ne_dev (exists_of_unitOfPage hu).1 (oos_ne_dev ho)) hops rfl⟩
  case syncFenceWaits =>
    intro u page kind s hu hk hf hw
    exact sync_or_fence_waits hu hk hf hw
  case opComplete =>
    intro o k s _ hkind hfind hwait hres hdep hwork hp
    exact ctrlOpComplete_ends hkind hfind (opDone_of_nothing_left hwait hres hdep s hwork) hp

end Sys2Proof.Machine
end

section
/-!
O12: operations of CTRL on a partition header and on `dev` (R13-R16, R34, R462, R467).
-/

namespace Sys2Proof.Machine

theorem opDone_of_held {o : CtrlOp} (h : o.waiting ≠ [] ∨ o.resets ≠ []) (s : State) : opDone s o = false := by
  rcases h with h | h <;> simp [opDone, h]

section Partition

variable {n : Nat} {s : State}

/-- A commanded reset ends with LOCKED cleared in the partition's units, its recovery noted as commanded and RESETTING in PART_STATE
(R38, R450, R462), whatever it has stopped before. -/
theorem commandReset_ends (n : Nat) (s : State) : ∃ t, commandReset n s =
    putPartState n 2 (putRecov n (some { commanded := true }) ((UnitId.part n).all.foldl (fun t u => wr u.page .hdrLocked 0 t) t)) :=
  ⟨_, rfl⟩

theorem rdi_putRecov (r : Option Recov) (s : State) (q : Nat) (g : Fld) (j : Nat) : rdi (putRecov n r s) q g j = rdi s q g j := rfl

theorem recov_putPartState (v : Nat) (s : State) : (putPartState n v s).recov = s.recov := rfl

theorem recovAt_putRecov (r : Option Recov) (s : State) : SMap.get (fun _ => none) (putRecov n r s).recov n = r :=
  SMap.get_set_same (α := Option Recov)

theorem partState_commandReset (n : Nat) (s : State) : partState (commandReset n s) n = 2 := by
  obtain ⟨t, ht⟩ := commandReset_ends n s
  rw [ht, partState, putPartState, rdi_wri, if_pos ⟨rfl, rfl, rfl⟩]
  rfl

theorem recov_commandReset (n : Nat) (s : State) :
    SMap.get (fun _ => none) (commandReset n s).recov n = some { commanded := true } := by
  obtain ⟨t, ht⟩ := commandReset_ends n s
  rw [ht, recov_putPartState, recovAt_putRecov]

theorem rd_locked_commandReset {v : UnitId} (hv : v ∈ (UnitId.part n).all) (s : State) :
    rd (commandReset n s) v.page .hdrLocked = 0 := by
  obtain ⟨t, ht⟩ := commandReset_ends n s
  rw [ht, rd, putPartState, rdi_wri, if_neg (by simp), rdi_putRecov]
  exact rd_foldl_wr rfl (by decide) hv t

theorem ops_commandReset (n : Nat) (s : State) : (commandReset n s).ops = s.ops := (commandReset_upd n s).same .ops rfl

/-- RESET of a partition header: the operation waits for the commanded reset that it starts. -/
def partReset (n : Nat) : CtrlOp := { page := (UnitId.part n).page, kind := .reset, resets := [n] }

theorem partHolds_of_up (h : partState s n = 0) (hp : pstate s = 0) : partHolds s n = false := by
  simp [partHolds, partBusy, h, hp]

theorem opStart_reset_part (h : partState s n = 0) (hp : pstate s = 0) (hops : s.ops = []) :
    opStart (.part n) .reset s = commandReset n (putOp (partReset n) s) := by
  have hruns : ∀ p, opRuns s p .reset = false := fun p => opRuns_of_nil hops p .reset
  have hout : ((UnitId.part n).partition.any fun k => partState s k = 4) = false := by simp [UnitId.partition, h]
  have hfind : ((commandReset n (putOp (partReset n) s)).ops.find? fun x => x.page = (UnitId.part n).page && x.kind = .reset) =
      some (partReset n) := by
    rw [ops_commandReset]
    exact find_putOp (partReset n) s
  have hstay : opDone (commandReset n (putOp (partReset n) s)) (partReset n) = false := opDone_of_held (.inr (by simp [partReset])) _
  have hreach : opPartition n { page := (UnitId.part n).page, kind := .reset } s = commandReset n (putOp (partReset n) s) := if_pos rfl
  unfold opStart
  simp only [hruns, hout, Bool.false_eq_true, if_false, List.filter_false, opOnPart, partHolds_of_up h hp, hreach, hfind, opSettle, hstay]

theorem exec_reset_part (hn : n < 4) (h : partState s n = 0) (hp : pstate s = 0) (hops : s.ops = []) :
    exec (.reset (UnitId.part n).page) s = .next (commandReset n (putOp (partReset n) s)) := by
  have hu : unitOfPage (UnitId.part n).page = some (.part n, 0) := unitOfPage_page hn
  rw [← opStart_reset_part h hp hops, ← ctrlBit_starts hu (.inl rfl) (opRuns_of_nil hops _ _) .reset]
  rfl

theorem opRuns_reset_part (n : Nat) (s : State) : opRuns (commandReset n (putOp (partReset n) s)) (UnitId.part n).page .reset = true := by
  rw [opRuns_of_ops (ops_commandReset n _)]
  exact opRuns_putOp (partReset n) s

end Partition

section Dev

variable {s : State}

theorem unitOfPage_dev : unitOfPage 0x2000 = some (.dev, 0) := rfl

/-- An operation on `dev` while none runs: it is put in, and completes at once where it waits for nothing. -/
theorem exec_ctrl_dev (hops : s.ops = []) (kind : CtrlKind) {o : CtrlOp} {t : State} (hp : o.page = UnitId.dev.page) (hk : o.kind = kind)
    (hstart : (if kind = .reset then opResetDev { page := UnitId.dev.page, kind := kind } s
      else opOnDev { page := UnitId.dev.page, kind := kind } s) = putOp o t) :
    exec (ctrlInstr kind 0x2000) s = .next (opSettle o (putOp o t)) := by
  have hruns : ∀ p, opRuns s p kind = false := fun p => opRuns_of_nil hops p kind
  have hfind : ((putOp o t).ops.find? fun x => x.page = UnitId.dev.page && x.kind = kind) = some o := by
    rw [← hp, ← hk]
    exact find_putOp o t
  rw [exec_ctrlInstr, ctrlBit_starts unitOfPage_dev (.inl rfl) (opRuns_of_nil hops _ _)]
  unfold opStart
  simp only [hruns, UnitId.partition, Option.any_none, Bool.false_eq_true, if_false, List.filter_false, hstart, hfind]

/-- RESET of `dev`, with the partitions in FENCING or RESETTING that it waits for (R16). -/
def devReset (s : State) : CtrlOp := { page := 0x2000, kind := .reset, waiting := (List.range 4).filter (partBusy s) }

theorem exec_reset_dev (hops : s.ops = []) :
    exec (.reset 0x2000) s = .next (opSettle (devReset s) (putOp (devReset s) s)) :=
  exec_ctrl_dev hops .reset rfl rfl rfl

/-- SYNC of `dev` while no partition holds it: it reaches every unit of the partitions that are not out of service. -/
def devSync (s : State) : CtrlOp :=
  let out := (List.range 4).filter fun n => partState s n = 4
  { page := 0x2000, kind := .sync, worst := if out.isEmpty then 0 else 1, skipped := (out.map fun n => 2 ^ n).sum }

theorem opOnDev_sync (hheld : ∀ n, n < 4 → partHolds s n = false) (hw : UnitId.dev.all.flatMap (unitWork s) = []) :
    opOnDev { page := UnitId.dev.page, kind := .sync } s = putOp (devSync s) s := by
  have hwait : (List.range 4).filter (partHolds s) = [] :=
    List.filter_eq_nil_iff.2 fun n hn => by simp [hheld n (List.mem_range.1 hn)]
  have hnone : ∀ q : UnitId → Bool, (UnitId.dev.all.filter q).flatMap (unitWork s) = [] := fun q =>
    List.flatMap_eq_nil_iff.2 fun u hu => List.flatMap_eq_nil_iff.1 hw u (List.mem_filter.1 hu).1
  simp only [opOnDev, hwait]
  rw [opApply_fresh rfl rfl, opWaits_of_no_work (hnone _)]
  rfl

theorem exec_sync_dev (hops : s.ops = []) (hheld : ∀ n, n < 4 → partHolds s n = false) (hw : UnitId.dev.all.flatMap (unitWork s) = []) :
    exec (.sync 0x2000) s = .next (opFinish (devSync s) (putOp (devSync s) s)) := by
  have hgo := exec_ctrl_dev hops .sync (o := devSync s) (t := s) rfl rfl ((if_neg (by simp)).trans (opOnDev_sync hheld hw))
  rwa [opSettle, opDone_of_nothing_left rfl rfl rfl _ (.inl rfl), if_pos rfl] at hgo

/-- What the end of a SYNC of `dev` leaves: OP_DONE, RESULT and SKIPPED_PART (R16, R36). -/
theorem devSync_ends (s t : State) :
    opRuns (opFinish (devSync s) t) 0x2000 .sync = false ∧ bit (rd (opFinish (devSync s) t) 0x2000 .hdrIrqStat) 0 = 1 ∧
      rd (opFinish (devSync s) t) 0x2000 .hdrResult = (devSync s).worst % 16 ∧
      rd (opFinish (devSync s) t) 0x2000 .hdrSkippedPart = (devSync s).skipped % 16 := by
  rw [opFinish_dev (o := devSync s) rfl (by simp [devSync])]
  refine ⟨?_, bit_rd_raise (by decide) _ _, rd_result_raise _ _ _, ?_⟩
  · rw [opRuns_of_ops (raise_ops _ _ _)]
    exact opRuns_dropOp (devSync s) t
  · rw [rd, rdi_raise_fld (by decide), rdi_wr_fld (by decide)]
    exact rd_wr_same 0x2000 .hdrSkippedPart _ _

/-- A list of numbers below `w` as one number with a bit for each. -/
theorem bit_sum_two_pow {l : List Nat} (hl : l.SortedLT) {n w : Nat} (hn : n < w) :
    bit ((l.map fun k => 2 ^ k).sum % 2 ^ w) n = 1 ↔ n ∈ l := by
  rw [bit_eq_one_iff, Nat.testBit_mod_two_pow, decide_eq_true hn, Bool.true_and, ← Nat.mem_bitIndices, Nat.bitIndices_sum_map_two_pow hl]

/-- SKIPPED_PART names the partitions out of service. -/
theorem bit_devSync_skipped (s : State) {n : Nat} (hn : n < 4) : bit ((devSync s).skipped % 16) n = 1 ↔ partState s n = 4 := by
  have hsorted : ((List.range 4).filter fun k => decide (partState s k = 4)).SortedLT :=
    ((List.sortedLT_range 4).pairwise.filter _).sortedLT
  refine (bit_sum_two_pow (w := 4) hsorted hn).trans ?_
  simp [hn]

theorem devSync_worst (s : State) : (devSync s).worst % 16 = if (List.range 4).any fun n => decide (partState s n = 4) then 1 else 0 := by
  cases h : (List.range 4).any fun n => decide (partState s n = 4) with
  | true =>
    obtain ⟨n, hn, hout⟩ := List.any_eq_true.1 h
    have hne : (List.range 4).filter (fun n => partState s n = 4) ≠ [] := List.ne_nil_of_mem (List.mem_filter.2 ⟨hn, hout⟩)
    simp [devSync, hne]
  | false =>
    have hnil : (List.range 4).filter (fun n => partState s n = 4) = [] := List.filter_eq_nil_iff.2 fun n hn => by
      simpa using List.any_eq_false.1 h n hn
    simp [devSync, hnil]

end Dev

theorem partHolds_of_up_or_out {s : State} {n : Nat} (h : partState s n = 0 ∨ partState s n = 4) (hp : pstate s = 0) :
    partHolds s n = false := by
  rcases h with h | h <;> simp [partHolds, partBusy, h, hp]

/-- Settles O12: each clause is the operation as it starts on a partition header or on `dev`, followed to what `opSettle` makes of it. -/
theorem resetOfPartitionAndDevice : Obligations.ResetOfPartitionAndDevice := by
  refine ⟨?part, ?devNow, ?devWaits, ?syncDev⟩
  case part =>
    intro n s _ hn h hp hops
    exact ⟨_, exec_reset_part hn h hp hops, partState_commandReset n _, ⟨_, recov_commandReset n _, rfl⟩,
      fun v hv => rd_locked_commandReset hv _, opRuns_reset_part n s⟩
  case devNow =>
    intro s hops hbusy
    have hwait : (devReset s).waiting = [] := List.filter_eq_nil_iff.2 fun n hn => by simp [hbusy n (List.mem_range.1 hn)]
    rw [exec_reset_dev hops, opSettle, opDone_of_nothing_left hwait rfl rfl _ (.inl rfl), if_pos rfl]
    rfl
  case devWaits =>
    intro n s _ hops hn hbusy
    have hwait : (devReset s).waiting ≠ [] := List.ne_nil_of_mem (List.mem_filter.2 ⟨List.mem_range.2 hn, hbusy⟩)
    refine ⟨putOp (devReset s) s, ?_, opRuns_putOp (devReset s) s, (putOp_upd _ s).same⟩
    rw [exec_reset_dev hops, opSettle, opDone_of_held (.inl hwait), if_neg Bool.false_ne_true]
  case syncDev =>
    intro s _ hops hparts hp hw
    obtain ⟨hruns, hirq, hres, hskip⟩ := devSync_ends s (putOp (devSync s) s)
    refine ⟨_, exec_sync_dev hops (fun n hn => partHolds_of_up_or_out (hparts n hn) hp) hw, hruns, hirq,
      hres.trans (devSync_worst s), fun n hn => ?_⟩
    rw [hskip, bit_devSync_skipped s hn]

end Sys2Proof.Machine
end

section
/-!
O3, O4, O7: the canonical form of the state (R24, R199, R285) holds at reset and is kept by every step, and every command stays in its
footprint (log entry 74): both are read off the lemma that says once what each operation can do.
-/

namespace Sys2Proof.Machine

theorem UpdR.within {n m : List Part} {a : State} {r : Result} (h : UpdR n a r) (hn : within n m = true) : UpdR m a r :=
  h.go (Upd.refl a) hn

/-- Each operation changes only what the footprint of its command lists. -/
theorem exec_footprint (c : Instr) (s : State) : UpdR (footprint c) s (exec c s) := by
  cases c
  all_goals dsimp only [footprint, exec]
  case regWrite => exact (execRegWrite_upd ..).within rfl
  case readClear => exact (execReadClear_upd ..).within rfl
  case sync => exact (execSync_upd ..).within rfl
  case fence => exact (execFence_upd ..).within rfl
  case unfence => exact (execUnfence_upd ..).within rfl
  case reset => exact (execReset_upd ..).within rfl
  case ctrlOpComplete => exact (execCtrlOpComplete_upd ..).within rfl
  case pageLockSet => exact (execPageLockSet_upd ..).within rfl
  case irqForce => exact (execIrqForce_upd ..).within rfl
  case rollback => exact (execRollback_upd ..).within rfl
  case cfgSetFieldWrite => exact (execCfgSetFieldWrite_upd ..).within rfl
  case milestoneArm => exact (execMilestoneArm_upd ..).within rfl
  case milestoneDisarm => exact (execMilestoneDisarm_upd ..).within rfl
  case epochAdvance => exact (execEpochAdvance_upd ..).within rfl
  case epochBroadcast => exact (execEpochBroadcast_upd ..).within rfl
  case install => exact (execInstall_upd ..).within rfl
  case close => exact (execClose_upd ..).within rfl
  case query => exact (execQuery_upd ..).within rfl
  case free => exact (execFree_upd ..).within rfl
  case ldgRptrWrite => exact (execLdgRptrWrite_upd ..).within rfl
  case sqTail => exact (execSqTail_upd ..).within rfl
  case cqHead => exact (execCqHead_upd ..).within rfl
  case sqFetch => exact (execSqFetch_upd ..).within rfl
  case sqNop => exact (execSqNop_upd ..).within rfl
  case sqLoad => exact (execSqLoad_upd ..).within rfl
  case loaderDequeue => exact (execLoaderDequeue_upd ..).within rfl
  case loadSlots => exact (execLoadSlots_upd ..).within rfl
  case loadComplete => exact (execLoadComplete_upd ..).within rfl
  case loadWaitExpire => exact (execLoadWaitExpire_upd ..).within rfl
  case loadQuery => exact (execLoadQuery_upd ..).within rfl
  case run => exact (execRun_upd ..).within rfl
  case abort => exact (execAbort_upd ..).within rfl
  case runComplete => exact (execRunComplete_upd ..).within rfl
  case sessOpen => exact (execSessOpen_upd ..).within rfl
  case sessClose => exact (execSessClose_upd ..).within rfl
  case sessionClosed => exact (execSessionClosed_upd ..).within rfl
  case fenceReq => exact (execFenceReq_upd ..).within rfl
  case memFenceDone => exact (execMemFenceDone_upd ..).within rfl
  case hsigSet => exact (execHsigSet_upd ..).within rfl
  case hsigClear => exact (execHsigClear_upd ..).within rfl
  case descLoad => exact (execDescLoad_upd ..).within rfl
  case descStart => exact (execDescStart_upd ..).within rfl
  case descComplete => exact (execDescComplete_upd ..).within rfl
  case nop => exact (execNop_upd ..).within rfl
  case wait => exact (execWait_upd ..).within rfl
  case barrier => exact (execBarrier_upd ..).within rfl
  case endDesc => exact (execEnd_upd ..).within rfl
  case ctxBind => exact (execCtxBind_upd ..).within rfl
  case epochWait => exact (execEpochWait_upd ..).within rfl
  case flagSet => exact (execFlagSet_upd ..).within rfl
  case flagClear => exact (execFlagClear_upd ..).within rfl
  case flagToggle => exact (execFlagToggle_upd ..).within rfl
  case flagWait => exact (execFlagWait_upd ..).within rfl
  case ctrAdd => exact (execCtrAdd_upd ..).within rfl
  case ctrSet => exact (execCtrSet_upd ..).within rfl
  case ctrWait => exact (execCtrWait_upd ..).within rfl
  case barInit => exact (execBarInit_upd ..).within rfl
  case barArrive => exact (execBarArrive_upd ..).within rfl
  case barWait => exact (execBarWait_upd ..).within rfl
  case remoteSignal => exact (execRemoteSignal_upd ..).within rfl
  case hostNotify => exact (execHostNotify_upd ..).within rfl
  case hopRead => exact (execHopRead_upd ..).within rfl
  case hopFlagSet => exact (execHopFlagSet_upd ..).within rfl
  case hopFlagClear => exact (execHopFlagClear_upd ..).within rfl
  case hopCtrAdd => exact (execHopCtrAdd_upd ..).within rfl
  case hopCtrSet => exact (execHopCtrSet_upd ..).within rfl
  case hopBarInit => exact (execHopBarInit_upd ..).within rfl
  case hopBarArrive => exact (execHopBarArrive_upd ..).within rfl
  case dbgRelease => exact (execDbgRelease_upd ..).within rfl
  case dbgWithdraw => exact (execDbgWithdraw_upd ..).within rfl
  case heldSignalApply => exact (execHeldSignalApply_upd ..).within rfl
  case wdogFire => exact (execWdogFire_upd ..).within rfl
  case matmul => exact (execMatmul_upd ..).within rfl
  case vxMap => exact (execVxMap_upd ..).within rfl
  case vxReduce => exact (execVxReduce_upd ..).within rfl
  case vxSoftmax => exact (execVxSoftmax_upd ..).within rfl
  case vxNorm => exact (execVxNorm_upd ..).within rfl
  case vxSort => exact (execVxSort_upd ..).within rfl
  case vxTopk => exact (execVxTopk_upd ..).within rfl
  case vxSample => exact (execVxSample_upd ..).within rfl
  case vxConvert => exact (execVxConvert_upd ..).within rfl
  case vxSelect => exact (execVxSelect_upd ..).within rfl
  case sbClaim => exact (execSbClaim_upd ..).within rfl
  case sbRelease => exact (execSbRelease_upd ..).within rfl
  case narrowWriteback => exact (execNarrowWriteback_upd ..).within rfl
  case debugWindowAccess => exact (execDebugWindowAccess_upd ..).within rfl
  case spadPoisonMark => exact (execSpadPoisonMark_upd ..).within rfl
  case load => exact (execLoad_upd ..).within rfl
  case store => exact (execStore_upd ..).within rfl
  case gather => exact (execGather_upd ..).within rfl
  case scatter => exact (execScatter_upd ..).within rfl
  case retryReissue => exact (execRetryReissue_upd ..).within rfl
  case bkMvs => exact (execBkMvs_upd ..).within rfl
  case bkDot => exact (execBkDot_upd ..).within rfl
  case bkGred => exact (execBkGred_upd ..).within rfl
  case bkPqscan => exact (execBkPqscan_upd ..).within rfl
  case bkRowop => exact (execBkRowop_upd ..).within rfl
  case bkReservation => exact (execBkReservation_upd ..).within rfl
  case bkUploadDone => exact (execBkUploadDone_upd ..).within rfl
  case gangCommand => exact (execGangCommand_upd ..).within rfl
  case harnessEntry => exact (execHarnessEntry_upd ..).within rfl
  case harnessOn => exact (execHarnessOn_upd ..).within rfl
  case harnessExit => exact (execHarnessExit_upd ..).within rfl
  case harnessOff => exact (execHarnessOff_upd ..).within rfl
  case hmReqWrite => exact (execHmReqWrite_upd ..).within rfl
  case vRegisterWrite => exact (execVRegisterWrite_upd ..).within rfl
  case cwWrite => exact (execCwWrite_upd ..).within rfl
  case cblWrite => exact (execCblWrite_upd ..).within rfl
  case fifoPop => exact (execFifoPop_upd ..).within rfl
  case clear => exact (execClear_upd ..).within rfl
  case mvs => exact (execMvs_upd ..).within rfl
  case dot => exact (execDot_upd ..).within rfl
  case gred => exact (execGred_upd ..).within rfl
  case pqscan => exact (execPqscan_upd ..).within rfl
  case copyOut => exact (execCopyOut_upd ..).within rfl
  case rowlist => exact (execRowlist_upd ..).within rfl
  case vet => exact (execVet_upd ..).within rfl
  case burnish => exact (execBurnish_upd ..).within rfl
  case rowlistPiece => exact (execRowlistPiece_upd ..).within rfl
  case legEnd => exact (execLegEnd_upd ..).within rfl
  case gangResume => exact (execGangResume_upd ..).within rfl
  case gangWaitEnd => exact (execGangWaitEnd_upd ..).within rfl
  case seqLastStep => exact (execSeqLastStep_upd ..).within rfl
  case seqDrained => exact (execSeqDrained_upd ..).within rfl
  case collectorSend => exact (execCollectorSend_upd ..).within rfl
  case recordWrite => exact (execRecordWrite_upd ..).within rfl
  case abGo => exact (execAbGo_upd ..).within rfl
  case linMapWrite => exact (execLinMapWrite_upd ..).within rfl
  case bmpMapWrite => exact (execBmpMapWrite_upd ..).within rfl
  case segCreate => exact (execSegCreate_upd ..).within rfl
  case segWrite => exact (execSegWrite_upd ..).within rfl
  case segSeal => exact (execSegSeal_upd ..).within rfl
  case segDelete => exact (execSegDelete_upd ..).within rfl
  case segQuery => exact (execSegQuery_upd ..).within rfl
  case segBind => exact (execSegBind_upd ..).within rfl
  case segUnbind => exact (execSegUnbind_upd ..).within rfl
  case segDone => exact (execSegDone_upd ..).within rfl
  case poolEnWrite => exact (execPoolEnWrite_upd ..).within rfl
  case poolDisabled => exact (execPoolDisabled_upd ..).within rfl
  case drFetch => exact (execDrFetch_upd ..).within rfl
  case drPromote => exact (execDrPromote_upd ..).within rfl
  case drUnpin => exact (execDrUnpin_upd ..).within rfl
  case bulkPageLand => exact (execBulkPageLand_upd ..).within rfl
  case bulkPatrol => exact (execBulkPatrol_upd ..).within rfl
  case retGo => exact (execRetGo_upd ..).within rfl
  case dieRetire => exact (execDieRetire_upd ..).within rfl
  case memReadRequest => exact (execMemReadRequest_upd ..).within rfl
  case memWriteRequest => exact (execMemWriteRequest_upd ..).within rfl
  case partialMerge => exact (execPartialMerge_upd ..).within rfl
  case refreshInterval => exact (execRefreshInterval_upd ..).within rfl
  case refresh => exact (execRefresh_upd ..).within rfl
  case recalDue => exact (execRecalDue_upd ..).within rfl
  case recalForced => exact (execRecalForced_upd ..).within rfl
  case recalDone => exact (execRecalDone_upd ..).within rfl
  case tollgateRefill => exact (execTollgateRefill_upd ..).within rfl
  case requestUrgency => exact (execRequestUrgency_upd ..).within rfl
  case caParity => exact (execCaParity_upd ..).within rfl
  case wcrcExhausted => exact (execWcrcExhausted_upd ..).within rfl
  case frzForce => exact (execFrzForce_upd ..).within rfl
  case frzRelease => exact (execFrzRelease_upd ..).within rfl
  case freezeAutoRelease => exact (execFreezeAutoRelease_upd ..).within rfl
  case scrubRead => exact (execScrubRead_upd ..).within rfl
  case scrubAgeLimit => exact (execScrubAgeLimit_upd ..).within rfl
  case scrubWriteback => exact (execScrubWriteback_upd ..).within rfl
  case repairGo => exact (execRepairGo_upd ..).within rfl
  case rowRepair => exact (execRowRepair_upd ..).within rfl
  case repairWaitExpire => exact (execRepairWaitExpire_upd ..).within rfl
  case ceWindowExpire => exact (execCeWindowExpire_upd ..).within rfl
  case testModeOff => exact (execTestModeOff_upd ..).within rfl
  case dataOnly => exact (execDataOnly_upd ..).within rfl
  case chkOnly => exact (execChkOnly_upd ..).within rfl
  case rawRead => exact (execRawRead_upd ..).within rfl
  case portEnWrite => exact (execPortEnWrite_upd ..).within rfl
  case retrain => exact (execRetrain_upd ..).within rfl
  case trainAttemptTimeout => exact (execTrainAttemptTimeout_upd ..).within rfl
  case portUp => exact (execPortUp_upd ..).within rfl
  case fastRetrain => exact (execFastRetrain_upd ..).within rfl
  case fastRetrainDone => exact (execFastRetrainDone_upd ..).within rfl
  case portDown => exact (execPortDown_upd ..).within rfl
  case flitReceive => exact (execFlitReceive_upd ..).within rfl
  case rdReq => exact (execRdReq_upd ..).within rfl
  case wr => exact (execWr_upd ..).within rfl
  case acc => exact (execAcc_upd ..).within rfl
  case rdResp => exact (execRdResp_upd ..).within rfl
  case wrAck => exact (execWrAck_upd ..).within rfl
  case accAck => exact (execAccAck_upd ..).within rfl
  case signal => exact (execSignal_upd ..).within rfl
  case remoteTimeout => exact (execRemoteTimeout_upd ..).within rfl
  case hello => exact (execHello_upd ..).within rfl
  case join => exact (execJoin_upd ..).within rfl
  case present => exact (execPresent_upd ..).within rfl
  case leave => exact (execLeave_upd ..).within rfl
  case presentTimer => exact (execPresentTimer_upd ..).within rfl
  case reachTimeout => exact (execReachTimeout_upd ..).within rfl
  case mbrLeave => exact (execMbrLeave_upd ..).within rfl
  case selfAddrWrite => exact (execSelfAddrWrite_upd ..).within rfl
  case mbrClear => exact (execMbrClear_upd ..).within rfl
  case prepare => exact (execPrepare_upd ..).within rfl
  case prepareDone => exact (execPrepareDone_upd ..).within rfl
  case cancel => exact (execCancel_upd ..).within rfl
  case cartInsert => exact (execCartInsert_upd ..).within rfl
  case cartRemove => exact (execCartRemove_upd ..).within rfl
  case warmingDone => exact (execWarmingDone_upd ..).within rfl
  case lockDone => exact (execLockDone_upd ..).within rfl
  case lockTimeout => exact (execLockTimeout_upd ..).within rfl
  case cartFault => exact (execCartFault_upd ..).within rfl
  case linkUp => exact (execLinkUp_upd ..).within rfl
  case linkDown => exact (execLinkDown_upd ..).within rfl
  case perstDeassert => exact (execPerstDeassert_upd ..).within rfl
  case hdmCommit => exact (execHdmCommit_upd ..).within rfl
  case cxlMemRead => exact (execCxlMemRead_upd ..).within rfl
  case cxlMemWrite => exact (execCxlMemWrite_upd ..).within rfl
  case membarRead => exact (execMembarRead_upd ..).within rfl
  case membarWrite => exact (execMembarWrite_upd ..).within rfl
  case cxlSnoop => exact (execCxlSnoop_upd ..).within rfl
  case partitionFatal => exact (execPartitionFatal_upd ..).within rfl
  case bulkFatal => exact (execBulkFatal_upd ..).within rfl
  case portFatal => exact (execPortFatal_upd ..).within rfl
  case resetGo => exact (execResetGo_upd ..).within rfl
  case drainEnd => exact (execDrainEnd_upd ..).within rfl
  case scratchpadSamplingDone => exact (execScratchpadSamplingDone_upd ..).within rfl
  case channelRestoreDone => exact (execChannelRestoreDone_upd ..).within rfl
  case partResetDone => exact (execPartResetDone_upd ..).within rfl
  case ctxReplayed => exact (execCtxReplayed_upd ..).within rfl
  case readmit => exact (execReadmit_upd ..).within rfl
  case readmitDone => exact (execReadmitDone_upd ..).within rfl
  case spineSingleFault => exact (execSpineSingleFault_upd ..).within rfl
  case spineResyncDone => exact (execSpineResyncDone_upd ..).within rfl
  case spineStorageError => exact (execSpineStorageError_upd ..).within rfl
  case deviceReset => exact (execDeviceReset_upd ..).within rfl
  case getVersion => exact (execGetVersion_upd ..).within rfl
  case getCapabilities => exact (execGetCapabilities_upd ..).within rfl
  case negotiateAlgorithms => exact (execNegotiateAlgorithms_upd ..).within rfl
  case pskExchange => exact (execPskExchange_upd ..).within rfl
  case pskFinish => exact (execPskFinish_upd ..).within rfl
  case keyUpdate => exact (execKeyUpdate_upd ..).within rfl
  case heartbeat => exact (execHeartbeat_upd ..).within rfl
  case heartbeatLapse => exact (execHeartbeatLapse_upd ..).within rfl
  case pskLockoutEnd => exact (execPskLockoutEnd_upd ..).within rfl
  case endSession => exact (execEndSession_upd ..).within rfl
  case getMeasurements => exact (execGetMeasurements_upd ..).within rfl
  case spdmUnsupported => exact (execSpdmUnsupported_upd ..).within rfl
  case keySet => exact (execKeySet_upd ..).within rfl
  case keyClear => exact (execKeyClear_upd ..).within rfl
  case pskSet => exact (execPskSet_upd ..).within rfl
  case dbgSet => exact (execDbgSet_upd ..).within rfl
  case lcAdvance => exact (execLcAdvance_upd ..).within rfl
  case spdmPartOos => exact (execSpdmPartOos_upd ..).within rfl
  case spdmPstate => exact (execSpdmPstate_upd ..).within rfl
  case unlockAll => exact (execUnlockAll_upd ..).within rfl
  case psGo => exact (execPsGo_upd ..).within rfl
  case d3hot => exact (execD3hot_upd ..).within rfl
  case d0 => exact (execD0_upd ..).within rfl
  case pstateDone => exact (execPstateDone_upd ..).within rfl
  case pwrPartOos => exact (execPwrPartOos_upd ..).within rfl
  case supplyUndervoltage => exact (execSupplyUndervoltage_upd ..).within rfl
  case supplyRecovered => exact (execSupplyRecovered_upd ..).within rfl
  case supplyCollapse => exact (execSupplyCollapse_upd ..).within rfl
  case overvoltage => exact (execOvervoltage_upd ..).within rfl
  case fastClamp => exact (execFastClamp_upd ..).within rfl
  case fastClampRelease => exact (execFastClampRelease_upd ..).within rfl
  case railFault => exact (execRailFault_upd ..).within rfl
  case hostStepWrite => exact (execHostStepWrite_upd ..).within rfl
  case stepMove => exact (execStepMove_upd ..).within rfl
  case powerEnforce => exact (execPowerEnforce_upd ..).within rfl
  case limitUnmet => exact (execLimitUnmet_upd ..).within rfl
  case pllRelockDone => exact (execPllRelockDone_upd ..).within rfl
  case sensorSample => exact (execSensorSample_upd ..).within rfl
  case holdTimeout => exact (execHoldTimeout_upd ..).within rfl
  case thermStepRaise => exact (execThermStepRaise_upd ..).within rfl
  case thermStepLower => exact (execThermStepLower_upd ..).within rfl
  case sensClear => exact (execSensClear_upd ..).within rfl
  case refLoss => exact (execRefLoss_upd ..).within rfl
  case powerOn => exact (execPowerOn_upd ..).within rfl
  case bootReady => exact (execBootReady_upd ..).within rfl
  case pwrDisAssert => exact (execPwrDisAssert_upd ..).within rfl
  case pwrDisDeassert => exact (execPwrDisDeassert_upd ..).within rfl
  case moduleWithdraw => exact (execModuleWithdraw_upd ..).within rfl
  case requestUpdate => exact (execRequestUpdate_upd ..).within rfl
  case passComponentTable => exact (execPassComponentTable_upd ..).within rfl
  case updateComponent => exact (execUpdateComponent_upd ..).within rfl
  case transferComplete => exact (execTransferComplete_upd ..).within rfl
  case verifyComplete => exact (execVerifyComplete_upd ..).within rfl
  case activateFirmware => exact (execActivateFirmware_upd ..).within rfl
  case fwSwitch => exact (execFwSwitch_upd ..).within rfl
  case fwSwitchWaitExpire => exact (execFwSwitchWaitExpire_upd ..).within rfl
  case pldmPowerEffecter => exact (execPldmPowerEffecter_upd ..).within rfl
  case pldmOosEffecter => exact (execPldmOosEffecter_upd ..).within rfl
  case pldmSensorRead => exact (execPldmSensorRead_upd ..).within rfl
  case scratchpadScrub => exact (execScratchpadScrub_upd ..).within rfl
  case escWindowExpire => exact (execEscWindowExpire_upd ..).within rfl
  case go => exact (execGo_upd ..).within rfl
  case backInvalidateDone => exact (execBackInvalidateDone_upd ..).within rfl
  case writeDrain => exact (execWriteDrain_upd ..).within rfl
  case flitTransmit => exact (execFlitTransmit_upd ..).within rfl
  case refRestored => exact (execRefRestored_upd ..).within rfl

/-- Settles O7, by the footprint of each operation. -/
theorem commandStaysInFootprint : Obligations.CommandStaysInFootprint := by
  intro c s t h
  exact ((exec_footprint c s).of t h).same

/-- Settles O4: an idle step keeps the state, taking a command off the queue touches no table, and no command leaves the canonical form. -/
theorem stepKeepsInvariant : Obligations.StepKeepsInvariant := by
  intro s t hs h
  obtain ⟨-, rfl⟩ | ⟨c, rest, -, hc⟩ := step_cases h
  · exact hs
  · have hqueue : State.Ok { s with pending := rest } := { hs with }
    exact (upd_of_exec hc).ok hqueue

/-- Settles O3: at reset no table lists anything. -/
theorem resetInvariant : Obligations.ResetInvariant := by
  unfold Obligations.ResetInvariant
  constructor
  case fit => exact List.forall_mem_nil _
  all_goals exact SMap.wf_nil

end Sys2Proof.Machine
end

section
/-!
Accesses to register pages (R24, R25, R44): which fields of a unit an access covers, and what a host write or read of a page then is. The
frame of a write of one field, and the bounds on what a field holds.
-/

namespace Sys2Proof.Machine

theorem regReset_lt (p : Nat) (f : Fld) {i : Nat} (hi : i < 16384) : regReset p f i < 2 ^ f.row.width := by
  have hrow : ∀ f : Fld, f.row.reset < 2 ^ f.row.width := by
    intro f
    cases f <;> decide
  unfold regReset
  split
  case h_1 => split_ifs <;> decide
  case h_2 => simp only [Fld.row]; omega
  case h_3 | h_4 => split <;> decide
  case h_5 => exact hrow f

/-- In a well formed state a field holds a value of its width. -/
theorem rdi_lt {s : State} (h : s.Ok) (p : Nat) (f : Fld) (i : Nat) : rdi s p f i < 2 ^ f.row.width := by
  rcases SMap.get_cases (fun _ => regReset (homePage p f) f (i % 16384)) s.regs (regKey (homePage p f) f i) with hd | hm
  · rw [rdi, hd]
    exact regReset_lt _ f (Nat.mod_lt _ (by decide))
  · have hfit := h.fit _ hm
    rwa [regFld_key] at hfit

theorem rdi_mod {s : State} (h : s.Ok) (p : Nat) (f : Fld) (i : Nat) : rdi s p f i % 2 ^ f.row.width = rdi s p f i :=
  Nat.mod_eq_of_lt (rdi_lt h p f i)

/-! Frames of writes of single fields. -/

theorem RegsBut.refl (l : List (Nat × Fld × Nat)) (s : State) : RegsBut l s s := fun _ _ _ _ => rfl

theorem RegsBut.trans {l : List (Nat × Fld × Nat)} {s t u : State} (h : RegsBut l s t) (h' : RegsBut l t u) : RegsBut l s u :=
  fun p f i hn => (h' p f i hn).trans (h p f i hn)

theorem RegsBut.of_regs {l : List (Nat × Fld × Nat)} {s t : State} (h : t.regs = s.regs) : RegsBut l s t :=
  fun p f i _ => rdi_of_regs h p f i

theorem regsBut_wri {l : List (Nat × Fld × Nat)} {p i : Nat} {f : Fld} (h : (homePage p f, f, i % 16384) ∈ l) (v : Nat) (s : State) :
    RegsBut l s (wri p f i v s) := by
  intro q g j hn
  rw [rdi_wri, if_neg]
  rintro ⟨hp, rfl, hj⟩
  exact hn (by rwa [hp, hj])

/-! Which fields an access covers. -/

/-- The block's own fields lie behind the common header (R29, R44). -/
theorem block_flds_off (b : Block) : ∀ f ∈ b.flds, 0x800 ≤ f.row.off := by
  cases b <;> decide

/-- What an access to the unit bits [lo, lo + n) covers of one field. -/
def touchesOf (lo n : Nat) (f : Fld) : List Touch :=
  if f.row.count ≤ 1 then if f.row.off < lo + n ∧ lo < f.row.off + f.row.width then [⟨f, 0, f.row.off⟩] else []
  else
    (List.range (n / f.row.stride + 3)).filterMap fun j =>
      let i := (if lo < f.row.off + f.row.stride then 0 else (lo - f.row.off) / f.row.stride - 1) + j
      let o := f.row.off + i * f.row.stride
      if i < f.row.count ∧ o < lo + n ∧ lo < o + f.row.width then some ⟨f, i, o⟩ else none

theorem touches_eq (u : UnitId) (lo n : Nat) : touches u lo n = (unitFlds u).flatMap (touchesOf lo n) := rfl

/-- A field behind the access is not covered. -/
theorem touchesOf_behind {lo n : Nat} {f : Fld} (h : lo + n ≤ f.row.off) : touchesOf lo n f = [] := by
  unfold touchesOf
  split
  · exact if_neg (by omega)
  · refine List.filterMap_eq_nil_iff.2 fun j _ => if_neg ?_
    rintro ⟨-, hlo, -⟩
    exact absurd (Nat.lt_of_le_of_lt (Nat.le_add_right _ _) hlo) (by omega)

/-- An access within the header covers header fields alone, the same ones on every unit. -/
theorem touches_header {lo n : Nat} (h : lo + n ≤ 0x800) (u : UnitId) : touches u lo n = touches .dev lo n := by
  have hnone : u.block.flds.flatMap (touchesOf lo n) = [] :=
    List.flatMap_eq_nil_iff.2 fun f hf => touchesOf_behind (Nat.le_trans h (block_flds_off u.block f hf))
  have hdev : unitFlds .dev = headerFlds := rfl
  rw [touches_eq, touches_eq, hdev, unitFlds, List.flatMap_append, hnone, List.append_nil]

theorem sortedTouches_header {lo n : Nat} (h : lo + n ≤ 0x800) (u : UnitId) : sortedTouches u lo n = sortedTouches .dev lo n := by
  rw [sortedTouches, touches_header h, sortedTouches]

/-! Host writes and reads of a unit's first page. -/

theorem reservedPage_first (u : UnitId) : reservedPage u 0 = false := by
  unfold reservedPage
  split <;> rfl

theorem takesWrites_reachable {s : State} {u : UnitId} (h : takesWrites s u = true) : unitReachable s u = true := by
  simp only [takesWrites, Bool.and_eq_true] at h
  exact h.1

theorem takesWrites_header {s : State} {u : UnitId} (h : takesWrites s u = true) :
    (isPartHeader u && (pstate s = 3 || (u.partition.map (partState s ·)).getD 0 = 2)) = false := by
  simp only [takesWrites, Bool.and_eq_true, Bool.not_eq_true'] at h
  exact h.2

section Access

variable {page off : Nat} {u : UnitId} {s : State}

/-- An aligned write of a page that takes it reaches the page's fields, or its milestone slots. -/
theorem hostRegWrite_first {width : Nat} (hu : unitOfPage page = some (u, 0)) (ht : takesWrites s u = true)
    (hw : (width = 4 ∨ width = 8) ∧ off % width = 0 ∧ off + width ≤ 4096) (v : Nat) :
    hostRegWrite page off width v s =
      if 0x70 ≤ off ∧ off < 0x90 then
        milestoneWrite u ((off - 0x70) / 8) (8 * ((off - 0x70) % 8)) (8 * width) (v % 2 ^ (8 * width)) s
      else writeFields regAct u (off * 8) (8 * width) (v % 2 ^ (8 * width)) s := by
  have hhdr : (isPartHeader u && (decide (pstate s = 3) || decide ((u.partition.map (partState s ·)).getD 0 = 2)) && off != 0x40) = false := by
    rw [takesWrites_header ht, Bool.false_and]
  rw [hostRegWrite, regWrite, if_pos hw, pageWrite, hu]
  simp [takesWrites_reachable ht, reservedPage_first, hhdr]

theorem hostRegWrite_fields (hu : unitOfPage page = some (u, 0)) (ht : takesWrites s u = true)
    (hw : off % 4 = 0 ∧ off + 4 ≤ 4096) (ho : off < 0x70 ∨ 0x90 ≤ off) (v : Nat) :
    hostRegWrite page off 4 v s = writeFields regAct u (off * 8) 32 (v % 2 ^ 32) s := by
  rw [hostRegWrite_first hu ht ⟨.inl rfl, hw⟩, if_neg (by omega)]

/-- A 32-bit read of a register sends its word and clears its RC fields. -/
theorem exec_readClear_word (hu : unitOfPage page = some (u, 0)) (hr : unitReachable s u = true) (ho : off % 4 = 0 ∧ off < 0x400) :
    exec (.readClear page off 4) s =
      .next (emit (.regData page off (readWord views s u (off * 8))) (clearRc u (off * 8) 32 s)) := by
  have hhold : holdDump page (off % 4096 / 4 * 4) s = s := by
    unfold holdDump
    split
    · exact if_pos (by simp; omega)
    · rfl
  have hoff : off % 4096 = off := by omega
  show Host.Outcome.next (regRead views page off 4 (holdDump page (off % 4096 / 4 * 4) s)) = _
  rw [hhold]
  simp [regRead, pageRead, hoff, ho.1, hu, hr, reservedPage_first, List.range_succ]

end Access

end Sys2Proof.Machine
end

section
/-!
O9: 32-bit reads of registers with and without RC fields (R24, R25, R45).
-/

namespace Sys2Proof.Machine

/-- A field placed above the bits read so far adds its value at its place. -/
theorem or_shift_eq_add {a v k w : Nat} (ha : a < 2 ^ k) (hv : v < 2 ^ w) (hk : k + w ≤ 32) :
    a ||| (v <<< k) % 2 ^ 32 = a + v * 2 ^ k := by
  have hlt : v * 2 ^ k < 2 ^ 32 := by
    calc v * 2 ^ k < 2 ^ w * 2 ^ k := Nat.mul_lt_mul_of_pos_right hv (Nat.two_pow_pos k)
      _ = 2 ^ (k + w) := by rw [← Nat.pow_add, Nat.add_comm]
      _ ≤ 2 ^ 32 := Nat.pow_le_pow_right (by decide) hk
  rw [Nat.shiftLeft_eq, Nat.mod_eq_of_lt hlt, Nat.or_comm, ← Nat.shiftLeft_eq, ← Nat.shiftLeft_add_eq_or_of_lt ha, Nat.add_comm]

/-- The field is read from its own register: not written only, not computed, not selected by another field. -/
def Fld.plain (f : Fld) : Bool := f.row.acc != .wo && !f.row.view && f.row.sel.isNone

theorem instOf_plain {f : Fld} (h : f.plain = true) (s : State) (u : UnitId) (i : Nat) : instOf s u f i = i := by
  simp only [Fld.plain, Bool.and_eq_true, Option.isNone_iff_eq_none] at h
  simp only [instOf, h.2]

theorem readField_plain {f : Fld} (h : f.plain = true) (vw : Views) (s : State) (u : UnitId) (i : Nat) :
    readField vw s u f i = rdi s u.page f i := by
  simp only [Fld.plain, Bool.and_eq_true, bne_iff_ne, Bool.not_eq_true'] at h
  obtain ⟨⟨hacc, hview⟩, -⟩ := h
  simp [readField, hacc, hview]

/-- What one covered field adds to the word being read at bit `lo`. -/
def orTouch (s : State) (u : UnitId) (lo acc : Nat) (t : Touch) : Nat :=
  let v := readField views s u t.fld (instOf s u t.fld t.idx)
  acc ||| (if lo ≤ t.off then (v <<< (t.off - lo)) % 2 ^ 32 else (v >>> (lo - t.off)) % 2 ^ 32)

theorem readWord_eq {lo : Nat} (h : 0x200 ≤ lo) (s : State) (u : UnitId) :
    readWord views s u lo = (touches u lo 32).foldl (orTouch s u lo) (viewWord s u (lo / 8) % 2 ^ 32) := by
  unfold readWord
  rw [if_neg (by omega)]
  rfl

theorem orTouch_plain {s : State} (hs : s.Ok) (u : UnitId) {f : Fld} (hf : f.plain = true) {lo k acc : Nat} (hacc : acc < 2 ^ k)
    (hk : k + f.row.width ≤ 32) : orTouch s u lo acc ⟨f, 0, lo + k⟩ = acc + rd s u.page f * 2 ^ k := by
  simp only [orTouch, instOf_plain hf, readField_plain hf, Nat.le_add_right, if_true, Nat.add_sub_cancel_left]
  exact or_shift_eq_add hacc (rdi_lt hs u.page f 0) hk

/-- A word that holds one plain field at its lowest bit. -/
theorem readWord_single {s : State} (hs : s.Ok) {u : UnitId} {lo : Nat} {f : Fld} (ht : touches u lo 32 = [⟨f, 0, lo⟩]) (hlo : 0x200 ≤ lo)
    (hraw : viewWord s u (lo / 8) = 0) (hf : f.plain = true) (hw : f.row.width ≤ 32) : readWord views s u lo = rd s u.page f := by
  have hread := orTouch_plain hs u hf (lo := lo) (k := 0) (acc := 0) (by decide) (by omega)
  rw [readWord_eq hlo, ht, hraw, List.foldl_cons, List.foldl_nil]
  simpa using hread

/-- A read of a register whose one RC field is `f` sends the register and clears the field. -/
theorem readClear_counter {u : UnitId} {page off : Nat} {f : Fld} {s : State} (hu : unitOfPage page = some (u, 0))
    (hr : unitReachable s u = true) (ho : off % 4 = 0 ∧ off < 0x400) (hclear : clearRc u (off * 8) 32 s = wr page f 0 s)
    (hhome : homePage page f = page) :
    ∃ t, exec (.readClear page off 4) s = .next t ∧
      t.outbox = s.outbox ++ [.regData page off (readWord views s u (off * 8))] ∧ rd t page f = 0 ∧
      RegsBut [(page, f, 0)] s t ∧ Only [f.part, .outbox] s t := by
  have hupd : Upd [f.part, .outbox] s (emit (.regData page off (readWord views s u (off * 8))) (wr page f 0 s)) :=
    (Upd.mono (within_of_mem (by simp)) (wr_upd page f 0 s)).step (within_of_mem (by simp)) (emit_upd _ _)
  refine ⟨_, exec_readClear_word hu hr ho, ?_⟩
  rw [hclear]
  refine ⟨rfl, (rd_wr_same page f 0 s).trans (Nat.zero_mod _), ?_, hupd.same⟩
  exact (regsBut_wri (by simp [hhome]) 0 s).trans (RegsBut.of_regs rfl)

/-- Settles O9: each read is one register word and the clearing of the RC fields that the word covers. -/
theorem readReturnsAndClears : Obligations.ReadReturnsAndClears := by
  have hrej : touches .dsy (0x13C * 8) 32 = [⟨.seraiRemoteRejected, 0, 0x13C * 8⟩] := rfl
  have hfires : touches .dsy (0x134 * 8) 32 = [⟨.seraiWdogFires, 0, 0x134 * 8⟩] := rfl
  have hadv : touches .epo (0x118 * 8) 32 = [⟨.epoAdvResult, 0, 0x118 * 8⟩, ⟨.epoAdvRefused, 0, 0x118 * 8 + 16⟩] := rfl
  have hwarn : touches .epo (0x114 * 8) 32 =
      [⟨.epoSrc, 0, 0x114 * 8⟩, ⟨.epoWarnExp, 0, 0x114 * 8 + 8⟩, ⟨.epoPeer, 0, 0x114 * 8 + 16⟩] := rfl
  refine ⟨fun s hs => ?rejected, fun s hs => ?fires, fun s hs => ?refused, fun s hs => ?warn⟩
  case rejected =>
    have hread := readClear_counter (s := s) (u := .dsy) (page := 0x2020) (off := 0x13C) (f := .seraiRemoteRejected) rfl rfl (by decide)
      (by rw [clearRc, hrej]; rfl) rfl
    rwa [readWord_single hs hrej (by decide) rfl rfl (by decide)] at hread
  case fires =>
    have hread := readClear_counter (s := s) (u := .dsy) (page := 0x2020) (off := 0x134) (f := .seraiWdogFires) rfl rfl (by decide)
      (by rw [clearRc, hfires]; rfl) rfl
    rwa [readWord_single hs hfires (by decide) rfl rfl (by decide)] at hread
  case refused =>
    have hres : rd s 0x2018 .epoAdvResult < 2 ^ 4 := rdi_lt hs 0x2018 .epoAdvResult 0
    have hword : readWord views s .epo (0x118 * 8) = rd s 0x2018 .epoAdvResult + rd s 0x2018 .epoAdvRefused * 2 ^ 16 := by
      rw [readWord_eq (by decide), hadv, List.foldl_cons, List.foldl_cons, List.foldl_nil]
      have hfirst := orTouch_plain hs .epo (f := .epoAdvResult) (lo := 0x118 * 8) (k := 0) (acc := 0) rfl (by decide) (by decide)
      have hnext := orTouch_plain hs .epo (f := .epoAdvRefused) (lo := 0x118 * 8) (k := 16) (acc := rd s 0x2018 .epoAdvResult) rfl
        (by omega) (by decide)
      exact (congrArg (orTouch s .epo (0x118 * 8) · _) (hfirst.trans (by simp [UnitId.page]))).trans hnext
    have hread := readClear_counter (s := s) (u := .epo) (page := 0x2018) (off := 0x118) (f := .epoAdvRefused) rfl rfl (by decide)
      (by rw [clearRc, hadv]; rfl) rfl
    rwa [hword] at hread
  case warn =>
    have hsrc : rd s 0x2018 .epoSrc < 2 ^ 1 := rdi_lt hs 0x2018 .epoSrc 0
    have hexp : rd s 0x2018 .epoWarnExp < 2 ^ 5 := rdi_lt hs 0x2018 .epoWarnExp 0
    have hword : readWord views s .epo (0x114 * 8) =
        rd s 0x2018 .epoSrc + rd s 0x2018 .epoWarnExp * 2 ^ 8 + rd s 0x2018 .epoPeer * 2 ^ 16 := by
      rw [readWord_eq (by decide), hwarn, List.foldl_cons, List.foldl_cons, List.foldl_cons, List.foldl_nil]
      have h1 := orTouch_plain hs .epo (f := .epoSrc) (lo := 0x114 * 8) (k := 0) (acc := 0) rfl (by decide) (by decide)
      have h2 := orTouch_plain hs .epo (f := .epoWarnExp) (lo := 0x114 * 8) (k := 8) (acc := rd s 0x2018 .epoSrc) rfl
        (by omega) (by decide)
      have h3 := orTouch_plain hs .epo (f := .epoPeer) (lo := 0x114 * 8) (k := 16)
        (acc := rd s 0x2018 .epoSrc + rd s 0x2018 .epoWarnExp * 2 ^ 8) rfl (by omega) (by decide)
      exact (congrArg (orTouch s .epo (0x114 * 8) · _) ((congrArg (orTouch s .epo (0x114 * 8) · _)
        (h1.trans (by simp [UnitId.page]))).trans h2)).trans h3
    have hclear : clearRc .epo (0x114 * 8) 32 s = s := by rw [clearRc, hwarn]; rfl
    have hread := exec_readClear_word (s := s) (u := .epo) (page := 0x2018) (off := 0x114) rfl rfl (by decide)
    rwa [hword, hclear] at hread

end Sys2Proof.Machine
end

section
/-!
O10: IRQ_FORCE and PAGE_LOCK_SET (R37, R38, R423).
-/

namespace Sys2Proof.Machine

/-- A change of interrupt registers sends the unit's vector exactly when the request rises (R423). -/
theorem irqEdge_outbox (p : Nat) (was : Bool) (s : State) :
    (irqEdge p was s).outbox =
      s.outbox ++ (if was = false ∧ irqReq s p = true then [.msix (msgLink s) (rdi s 0x2010 .hifIrqvVec p)] else []) := by
  cases was <;> cases h : irqReq s p <;> simp [irqEdge, h, sendVec, emit]

theorem irqReq_irqEdge (p : Nat) (was : Bool) (s : State) : irqReq (irqEdge p was s) p = irqReq s p :=
  decide_eq_decide.2 (by rw [rd, rd, rdi_irqEdge, rdi_irqEdge, rd, rd])

theorem msgLink_wr {f : Fld} (h : Fld.hifLinkState ≠ f) (p v : Nat) (s : State) : msgLink (wr p f v s) = msgLink s := by
  simp only [msgLink, rdi_wr_fld h]

theorem rd_raiseMask {s : State} (hs : s.Ok) {m : Nat} (hm : m < 2 ^ 32) (p : Nat) :
    rd (raiseMask p m s) p .hdrIrqStat = rd s p .hdrIrqStat ||| m := by
  have hbound : rd s p .hdrIrqStat ||| m < 2 ^ 32 := Nat.or_lt_two_pow (rdi_lt hs p .hdrIrqStat 0) hm
  calc rd (raiseMask p m s) p .hdrIrqStat = rd (wr p .hdrIrqStat (rd s p .hdrIrqStat ||| m) s) p .hdrIrqStat := rdi_irqEdge ..
    _ = (rd s p .hdrIrqStat ||| m) % 2 ^ 32 := rd_wr_same ..
    _ = rd s p .hdrIrqStat ||| m := Nat.mod_eq_of_lt hbound

theorem regsBut_raiseMask (p m : Nat) (s : State) : RegsBut [(p, .hdrIrqStat, 0)] s (raiseMask p m s) := by
  intro q f i hn
  calc rdi (raiseMask p m s) q f i = rdi (wr p .hdrIrqStat (rd s p .hdrIrqStat ||| m) s) q f i := rdi_irqEdge ..
    _ = rdi s q f i := regsBut_wri (List.mem_singleton.2 rfl) _ s q f i hn

theorem raiseMask_outbox (p m : Nat) (s : State) :
    (raiseMask p m s).outbox = s.outbox ++
      (if irqReq s p = false ∧ irqReq (raiseMask p m s) p = true then [.msix (msgLink s) (rdi s 0x2010 .hifIrqvVec p)] else []) := by
  rw [raiseMask, putIrqStat, irqEdge_outbox, irqReq_irqEdge, msgLink_wr (by decide), rdi_wr_fld (by decide)]
  rfl

/-- IRQ_FORCE raises the written causes that the unit's block has (R37). -/
theorem exec_irqForce {u : UnitId} {page : Nat} {s : State} (hu : unitOfPage page = some (u, 0)) (ht : takesWrites s u = true) (mask : Nat) :
    exec (.irqForce page mask) s = .next (raiseMask page (mask % 2 ^ 32 &&& u.block.irqMask) s) := by
  have htouch : sortedTouches u (0x50 * 8) 32 = [⟨.hdrIrqForce, 0, 0x50 * 8⟩] := sortedTouches_header (by decide) u
  have hones : bits (mask % 2 ^ 32) 31 0 = mask % 2 ^ 32 := by simp [bits]
  show Host.Outcome.next (hostRegWrite page 0x50 4 mask s) = _
  rw [hostRegWrite_fields hu ht (by decide) (by decide), writeFields, htouch, ← page_of_unitOfPage hu]
  show Host.Outcome.next (raiseMask u.page (bits (mask % 2 ^ 32) 31 0 <<< 0 &&& u.block.irqMask) s) = _
  rw [hones, Nat.shiftLeft_zero]

theorem rdi_lockAll_other {u : UnitId} {p : Nat} {f : Fld} (h : f = .hdrLocked → ∀ v ∈ u.all, v.page ≠ p) (i : Nat) (s : State) :
    rdi (lockAll u s) p f i = rdi s p f i := by
  have key : ∀ (l : List UnitId) (t : State), (∀ v ∈ l, f = .hdrLocked → v.page ≠ p) →
      rdi (l.foldl (fun t v => wr v.page .hdrLocked 1 t) t) p f i = rdi t p f i := by
    intro l
    induction l with
    | nil => exact fun _ _ => rfl
    | cons v l ih =>
      intro t hl
      obtain ⟨hv, hl⟩ := List.forall_mem_cons.1 hl
      rw [List.foldl_cons, ih _ hl, wr, rdi_wri, if_neg]
      rintro ⟨hp, rfl, -⟩
      exact hv rfl hp.symm
  exact key u.all s fun v hv hf => h hf v hv

/-- A W1C field keeps its value where no bit of it is written. -/
theorem rdi_wri_self {s : State} (hs : s.Ok) (p : Nat) (f : Fld) (i q : Nat) (g : Fld) (j : Nat) :
    rdi (wri p f i (rdi s p f i - (rdi s p f i &&& 0)) s) q g j = rdi s q g j := by
  rw [rdi_wri, Nat.and_zero, Nat.sub_zero]
  split
  case isTrue h =>
    obtain ⟨hp, rfl, hj⟩ := h
    have hkey : regKey (homePage q g) g j = regKey (homePage p g) g i := regKey_eq_iff.2 ⟨hp, rfl, hj⟩
    rw [rdi_mod hs, rdi, rdi, hkey, hp, hj]
  case isFalse => rfl

/-- The state after PAGE_LOCK_SET: LOCKED is set throughout the unit, and LOCK_VIOLATION and BAD_WRITE are written back as they are. -/
def pageLocked (u : UnitId) (s : State) : State :=
  let keep (f : Fld) (t : State) : State := wri u.page f 0 (rdi t u.page f 0 - (rdi t u.page f 0 &&& 0)) t
  keep .hdrBadWrite (keep .hdrLockViolation (lockAll u s))

theorem exec_pageLockSet {u : UnitId} {page : Nat} {s : State} (hu : unitOfPage page = some (u, 0)) (ht : takesWrites s u = true) :
    exec (.pageLockSet page) s = .next (pageLocked u s) := by
  have htouch : sortedTouches u (0x54 * 8) 32 =
      [⟨.hdrLocked, 0, 0x54 * 8⟩, ⟨.hdrLockViolation, 0, 0x54 * 8 + 1⟩, ⟨.hdrBadWrite, 0, 0x54 * 8 + 2⟩] :=
    sortedTouches_header (by decide) u
  show Host.Outcome.next (hostRegWrite page 0x54 4 1 s) = _
  rw [hostRegWrite_fields hu ht (by decide) (by decide), writeFields, htouch]
  rfl

theorem rdi_pageLocked {s : State} (hs : s.Ok) (u : UnitId) (p : Nat) (f : Fld) (i : Nat) :
    rdi (pageLocked u s) p f i = rdi (lockAll u s) p f i := by
  have hlock := (lockAll_upd u s).ok hs
  exact (rdi_wri_self ((wri_upd _ _ _ _ _).ok hlock) ..).trans (rdi_wri_self hlock ..)

theorem pageLocked_upd (u : UnitId) (s : State) : Upd [.regLock] s (pageLocked u s) :=
  ((lockAll_upd u s).step rfl (wri_upd ..)).step rfl (wri_upd ..)

/-- Settles O10: a forced cause is a raise of the written bits, and PAGE_LOCK_SET writes LOCKED throughout the unit. -/
theorem forceAndLock : Obligations.ForceAndLock := by
  refine ⟨fun u page mask s hs hu ht => ?force, fun u page s hs hu ht => ?lock⟩
  case force =>
    have hm : mask % 2 ^ 32 &&& u.block.irqMask < 2 ^ 32 := Nat.lt_of_le_of_lt Nat.and_le_left (Nat.mod_lt _ (by decide))
    exact ⟨_, exec_irqForce hu ht mask, rd_raiseMask hs hm page, regsBut_raiseMask page _ s, (Upd.mono rfl (raiseMask_upd page _ s)).same,
      raiseMask_outbox ..⟩
  case lock =>
    have hlocked : ∀ v ∈ u.all, rd (pageLocked u s) v.page .hdrLocked = 1 := fun v hv =>
      (rdi_pageLocked hs ..).trans (rd_foldl_wr rfl (by decide) hv s)
    refine ⟨_, exec_pageLockSet hu ht, ?_, hlocked, fun p f i h => ?_, (pageLocked_upd u s).same⟩
    · rw [← page_of_unitOfPage hu]
      exact hlocked u u.self_mem_all
    · exact (rdi_pageLocked hs ..).trans (rdi_lockAll_other h i s)

end Sys2Proof.Machine
end

section
/-!
O13: configuration sets (R39, R66, R67): a staged write, and the bank flip that a rollback is.
-/

namespace Sys2Proof.Machine

/-! The bank flip. -/

theorem fld_ne_of_set {f g : Fld} (hf : f.row.set = true) (hg : g.row.set = false) : g ≠ f := by
  rintro rfl
  exact Bool.noConfusion (hf.symm.trans hg)

/-- Storing a set changes its own fields alone. -/
theorem rdi_swapSet {vals : List SetVal} {q : Nat} {g : Fld} (h : ∀ v ∈ vals, g = v.fld → homePage q g ≠ homePage v.page g) (s : State)
    (j : Nat) :
    rdi (swapSet vals s).2 q g j = rdi s q g j := by
  have key : ∀ (l : List SetVal) (r : List SetVal × State), (∀ v ∈ l, g = v.fld → homePage q g ≠ homePage v.page g) →
      rdi (l.foldl (fun r v => (r.1 ++ [{ v with val := rdi r.2 v.page v.fld v.idx }], wri v.page v.fld v.idx v.val r.2)) r).2 q g j =
        rdi r.2 q g j := by
    intro l
    induction l with
    | nil => exact fun _ _ => rfl
    | cons v l ih =>
      intro r hl
      obtain ⟨hv, hl⟩ := List.forall_mem_cons.1 hl
      rw [List.foldl_cons, ih _ hl, rdi_wri, if_neg]
      rintro ⟨hp, rfl, -⟩
      exact hv rfl hp
  exact key vals ([], s) h

/-- What a flip makes of the unit's CFG_SET register, after the values are stored. -/
def flipHeader (p prevValid : Nat) (s : State) : State :=
  wr p .hdrActiveGen (rd s p .hdrActiveGen + 1)
    (wr p .hdrActiveBank (1 - rd s p .hdrActiveBank) (wr p .hdrPrevValid prevValid (wr p .hdrStaged 0 s)))

theorem rdi_qosEdge {g : Fld} (hg : g ≠ .hdrIrqStat) (p : Nat) (was : Bool) (s : State) (q j : Nat) :
    rdi (qosEdge p was s) q g j = rdi s q g j := by
  unfold qosEdge
  split
  · exact rdi_raise_fld hg ..
  · rfl

theorem rdi_flipSet {g : Fld} (hg : g ≠ .hdrIrqStat) (p pv : Nat) (vals : List SetVal) (s : State) (q j : Nat) :
    rdi (flipSet p pv vals s) q g j = rdi (flipHeader p pv (swapSet vals s).2) q g j := by
  have hgen : ∀ t : State, rd (wr p .hdrActiveBank (1 - rd t p .hdrActiveBank) (wr p .hdrPrevValid pv (wr p .hdrStaged 0 t))) p .hdrActiveGen =
      rd t p .hdrActiveGen := fun t => by rw [rd, rdi_wr_fld (by decide), rdi_wr_fld (by decide), rdi_wr_fld (by decide), rd]
  unfold flipSet
  extract_lets was r t t1 t2 t3
  have ht3 : rdi t3 q g j = rdi (flipHeader p pv (swapSet vals s).2) q g j := by
    rw [rdi_raise_fld hg]
    unfold flipHeader
    rw [wr, rdi_wri, wr, rdi_wri, hgen]
    rfl
  split
  · rw [rdi_qosEdge hg, ht3]
  · exact ht3

theorem flipSet_staging (p pv : Nat) (vals : List SetVal) (s : State) :
    (flipSet p pv vals s).staging = s.staging.filter (·.page != p) := by
  have hswap : (swapSet vals s).2.staging = s.staging := (swapSet_upd vals s).same .staging rfl
  unfold flipSet
  extract_lets was r t t1 t2 t3
  have ht3 : t3.staging = s.staging.filter (·.page != p) := by
    rw [(raise_upd p 3 _).same .staging rfl]
    exact congrArg _ hswap
  split
  · rw [(qosEdge_upd p was t3).same .staging rfl, ht3]
  · exact ht3

section FlipSet

variable {vals : List SetVal} (hset : ∀ v ∈ vals, v.fld.row.set = true) (p pv : Nat) (s : State)

include hset

theorem rd_flipSet_bank : rd (flipSet p pv vals s) p .hdrActiveBank = (1 - rd s p .hdrActiveBank) % 2 := by
  have hswap := rdi_swapSet (q := p) (g := .hdrActiveBank) (fun v hv e => absurd e (fld_ne_of_set (hset v hv) rfl)) s 0
  rw [rd, rdi_flipSet (by decide), flipHeader, rdi_wr_fld (by decide), ← rd, rd_wr_same, rd, hswap]
  rfl

theorem rd_flipSet_gen : rd (flipSet p pv vals s) p .hdrActiveGen = (rd s p .hdrActiveGen + 1) % 256 := by
  have hswap := rdi_swapSet (q := p) (g := .hdrActiveGen) (fun v hv e => absurd e (fld_ne_of_set (hset v hv) rfl)) s 0
  rw [rd, rdi_flipSet (by decide), flipHeader, ← rd, rd_wr_same, rd, hswap]
  rfl

omit hset in
theorem rd_flipSet_prevValid : rd (flipSet p pv vals s) p .hdrPrevValid = pv % 2 := by
  rw [rd, rdi_flipSet (by decide), flipHeader, rdi_wr_fld (by decide), rdi_wr_fld (by decide)]
  exact rd_wr_same ..

omit hset in
theorem rd_flipSet_staged : rd (flipSet p pv vals s) p .hdrStaged = 0 := by
  rw [rd, rdi_flipSet (by decide), flipHeader, rdi_wr_fld (by decide), rdi_wr_fld (by decide), rdi_wr_fld (by decide)]
  exact rd_wr_same ..

omit hset in
/-- A flip changes set fields, its CFG_SET register and IRQ_STAT alone. -/
theorem rdi_flipSet_set {g : Fld} (hg : g.row.set = true) (q j : Nat) :
    rdi (flipSet p pv vals s) q g j = rdi (swapSet vals s).2 q g j := by
  rw [rdi_flipSet (fld_ne_of_set hg rfl).symm, flipHeader, rdi_wr_fld (fld_ne_of_set hg rfl).symm, rdi_wr_fld (fld_ne_of_set hg rfl).symm,
    rdi_wr_fld (fld_ne_of_set hg rfl).symm, rdi_wr_fld (fld_ne_of_set hg rfl).symm]

end FlipSet

/-! Rollback. -/

/-- What a rollback does with the unit before the flip. -/
def beforeRollback (p : Nat) (s : State) : State :=
  let s := if rd s p .hdrStaged = 1 then dropActivations p (discardStaged p s) else s
  if p = pgMgt then { s with fwDone := [] } else s

theorem rollbackUnit_eq (p : Nat) (s : State) :
    rollbackUnit p s = flipSet p 0 ((beforeRollback p s).prevSet.filter (·.page = p)) (beforeRollback p s) := by
  unfold rollbackUnit beforeRollback
  split_ifs <;> rfl

theorem beforeRollback_regSet {p : Nat} {g : Fld} (hp : g.part = .regSet) (hg : g ≠ .hdrStaged) (s : State) (q j : Nat) :
    rdi (beforeRollback p s) q g j = rdi s q g j := by
  have hdrop : rdi (dropActivations p (discardStaged p s)) q g j = rdi s q g j :=
    ((dropActivations_upd p _).same .regSet rfl q g j hp).trans (rdi_wr_fld hg ..)
  unfold beforeRollback
  dsimp only
  split_ifs
  · exact hdrop
  · rfl
  · exact hdrop
  · rfl

theorem beforeRollback_prevSet (p : Nat) (s : State) : (beforeRollback p s).prevSet = s.prevSet := by
  have hdrop : (dropActivations p (discardStaged p s)).prevSet = s.prevSet :=
    (dropActivations_upd p (discardStaged p s)).same .prevSet rfl
  unfold beforeRollback
  dsimp only
  split_ifs
  · exact hdrop
  · rfl
  · exact hdrop
  · rfl

theorem versionedMembers_eq_nil {u : UnitId} (h : u.cfgVersioned = true) : versionedMembers u = [] := by
  cases u with
  | mc | mgt => rfl
  | _ => cases h

/-- ROLLBACK of a unit of its own: with a previous set it returns to it, without one it reports RESULT 3. -/
theorem exec_rollback {u : UnitId} {page : Nat} {s : State} (hu : unitOfPage page = some (u, 0)) (hv : u.cfgVersioned = true)
    (ht : takesWrites s u = true) :
    exec (.rollback page) s = .next (if rd s page .hdrPrevValid = 0 then wr page .hdrResult 3 s else rollbackUnit page s) := by
  have htouch : sortedTouches u (0x58 * 8) 32 =
      [⟨.hdrActiveBank, 0, 0x58 * 8⟩, ⟨.hdrPrevValid, 0, 0x58 * 8 + 1⟩, ⟨.hdrStaged, 0, 0x58 * 8 + 2⟩, ⟨.hdrActiveGen, 0, 0x58 * 8 + 8⟩,
        ⟨.hdrRollback, 0, 0x58 * 8 + 16⟩] := sortedTouches_header (by decide) u
  have hroll : rollback u s = if rd s u.page .hdrPrevValid = 0 then wr u.page .hdrResult 3 s else rollbackUnit u.page s := by
    simp [rollback, hv, versionedMembers_eq_nil hv]
  show Host.Outcome.next (hostRegWrite page 0x58 4 (2 ^ 16) s) = _
  rw [hostRegWrite_fields hu ht (by decide) (by decide), writeFields, htouch, ← page_of_unitOfPage hu, ← hroll]
  rfl

theorem rdi_swapSet_singleton (v : SetVal) (s : State) : rdi (swapSet [v] s).2 v.page v.fld v.idx = v.val % 2 ^ v.fld.row.width := by
  have hone : (swapSet [v] s).2 = wri v.page v.fld v.idx v.val s := rfl
  rw [hone, rdi_wri, if_pos ⟨rfl, rfl, rfl⟩]

/-! A staged write. -/

theorem mem_staging_stageField (p : Nat) (f : Fld) (i v : Nat) (s : State) :
    ⟨p, f, i, v % 2 ^ f.row.width⟩ ∈ (stageField p f i v s).staging := List.mem_append_right _ (List.mem_singleton.2 rfl)

theorem regsBut_stageField {p : Nat} {f : Fld} (i v : Nat) (s : State) : RegsBut [(p, .hdrStaged, 0)] s (stageField p f i v s) :=
  fun q g j hn => regsBut_wri (p := p) (i := 0) (f := .hdrStaged) (List.mem_singleton.2 rfl) 1 _ q g j hn

/-- A write of a field as a whole carries the written value. -/
theorem setBits_whole {v w x : Nat} (hv : v < 2 ^ (w + 1)) (hx : x < 2 ^ (w + 1)) : setBits v w 0 x = x := by
  simp [setBits, bits, Nat.mod_eq_of_lt hv, Nat.mod_eq_of_lt hx]

/-- A write of AGE_CAP_NS stages a legal value and refuses another (R26, R66). -/
theorem exec_write_ageCap {n k v : Nat} {s : State} (hn : n < 4) (hk : k < 3) (hr : unitReachable s (.mc n k) = true) :
    exec (.cfgSetFieldWrite (UnitId.mc n k).page 0x104 4 v) s =
      .next (let w := setBits (rd s (UnitId.mc n k).page .mcsAgeCapNs) 15 0 (bits (v % 2 ^ 32) 15 0)
        if 100 ≤ w ∧ w ≤ 65535 then stageField (UnitId.mc n k).page .mcsAgeCapNs 0 w s else wr (UnitId.mc n k).page .hdrBadWrite 1 s) := by
  have hu : unitOfPage (UnitId.mc n k).page = some (.mc n k, 0) := unitOfPage_page ⟨hn, hk⟩
  have ht : takesWrites s (.mc n k) = true := by
    simp [takesWrites, hr, isPartHeader]
  have htouch : touches (.mc n k) (0x104 * 8) 32 = [⟨.mcsAgeCapNs, 0, 0x104 * 8⟩] := rfl
  have hsort : sortedTouches (.mc n k) (0x104 * 8) 32 = [⟨.mcsAgeCapNs, 0, 0x104 * 8⟩] := rfl
  have hcover : coversSet (UnitId.mc n k).page 0x104 4 = true := by
    rw [coversSet, hu]
    simp only [Nat.zero_mul, Nat.zero_add]
    rw [htouch]
    rfl
  show Host.Outcome.next (if coversSet _ 0x104 4 = true then hostRegWrite _ 0x104 4 v s else s) = _
  rw [hcover, if_pos rfl, hostRegWrite_fields hu ht (by decide) (by decide), writeFields, hsort]
  rfl

/-- Settles O13: an AGE_CAP_NS write goes to the staging buffer, and a rollback is one flip to the previous set. -/
theorem configurationSets : Obligations.ConfigurationSets := by
  refine ⟨fun n k v s hs hn hk hr hlo hhi => ?legal, fun n k v s hn hk hr hv => ?illegal, fun u page s hs hu hver ht hprev hsets => ?rollback,
    fun u page s hu hver ht hprev => ?none⟩
  case legal =>
    have hw : setBits (rd s (UnitId.mc n k).page .mcsAgeCapNs) 15 0 (bits (v % 2 ^ 32) 15 0) = v := by
      have hbits : bits (v % 2 ^ 32) 15 0 = v := by
        simp only [bits, Nat.shiftRight_zero]
        omega
      rw [hbits]
      exact setBits_whole (rdi_lt hs _ .mcsAgeCapNs 0) hhi
    have hmod : v % 2 ^ 16 = v := Nat.mod_eq_of_lt hhi
    have hmem := mem_staging_stageField (UnitId.mc n k).page .mcsAgeCapNs 0 v s
    refine ⟨stageField (UnitId.mc n k).page .mcsAgeCapNs 0 v s, ?_, ?_, ?_, regsBut_stageField 0 v s, (stageField_upd ..).same⟩
    · rw [exec_write_ageCap hn hk hr, hw]
      dsimp only
      rw [if_pos (by omega)]
    · exact rd_wr_same ..
    · rwa [show Fld.mcsAgeCapNs.row.width = 16 from rfl, hmod] at hmem
  case illegal =>
    -- Whatever the field held, the written value is no legal one: its low 16 bits are `v`.
    have hw : setBits (rd s (UnitId.mc n k).page .mcsAgeCapNs) 15 0 (bits (v % 2 ^ 32) 15 0) % 2 ^ 16 = v := by
      simp only [setBits, bits, Nat.shiftRight_zero, Nat.shiftLeft_zero]
      omega
    rw [exec_write_ageCap hn hk hr]
    dsimp only
    rw [if_neg (by omega)]
  case rollback =>
    have hfilter : (beforeRollback page s).prevSet.filter (·.page = page) = s.prevSet.filter (·.page = page) := by
      rw [beforeRollback_prevSet]
    have hset : ∀ v ∈ s.prevSet.filter (·.page = page), v.fld.row.set = true := fun v hv => hsets v (List.mem_filter.1 hv).1
    have hbank : rd s page .hdrActiveBank < 2 ^ 1 := rdi_lt hs page .hdrActiveBank 0
    refine ⟨rollbackUnit page s, ?_, ?_⟩
    · rw [exec_rollback hu hver ht, hprev]
      rfl
    rw [rollbackUnit_eq, hfilter]
    refine ⟨?_, rd_flipSet_prevValid .., rd_flipSet_staged .., ?_, ?_, fun v hv => ?_⟩
    · rw [rd_flipSet_bank hset, rd, beforeRollback_regSet rfl (by decide), ← rd]
      omega
    · rw [flipSet_staging, List.filter_filter]
      exact List.filter_eq_nil_iff.2 fun e _ => by simp
    · rw [rd_flipSet_gen hset, rd, beforeRollback_regSet rfl (by decide), ← rd]
    · have hmem : v ∈ s.prevSet.filter (·.page = page) := hv ▸ List.mem_singleton.2 rfl
      obtain ⟨-, hpage⟩ := List.mem_filter.1 hmem
      rw [hv] at hset ⊢
      rw [rdi_flipSet_set page 0 _ (hset v (List.mem_singleton.2 rfl)), ← of_decide_eq_true hpage, rdi_swapSet_singleton]
  case none => rw [exec_rollback hu hver ht, if_pos hprev]

end Sys2Proof.Machine
end

section
/-!
O14: arming a milestone slot (R41, R65, R66). An activation that is due at once stores the staged values, whatever fields they name.
-/

namespace Sys2Proof.Machine

/-- A state in which the staging buffer of a memory controller holds, in place of a set field, the EPOCH of milestone slot 0. -/
def stagedEpoch : State := wr 0x410 .hdrStaged 1 { State.reset with staging := [⟨0x410, .hdrMsEpoch, 0, 5⟩] }

theorem stagedEpoch_ok : stagedEpoch.Ok := Tests.ok_of (by decide +kernel)

/-- Armed with CFG_ACTIVATE at EPOCH_NOW = 0, the slot fires at once and the activation writes 5 to its EPOCH. -/
theorem stagedEpoch_activates :
    Tests.ran (.milestoneArm 0x410 0 (some 0) 1 0) stagedEpoch (fun t => rdi t 0x410 .hdrMsEpoch 0 = 5) = true := by decide +kernel

/-- Refutes O14: nothing in the statement confines the staging buffer to set fields (`setsOnly`). In `stagedEpoch` a CFG_ACTIVATE of
memory controller 0 of partition 0, armed with EPOCH 0, is due and overwrites EPOCH. -/
theorem not_milestoneSlots : ¬ Obligations.MilestoneSlots := by
  rintro ⟨harm, -, -⟩
  obtain ⟨t, hexec, hepoch, -⟩ := harm (.mc 0 0) 0x410 0 0 1 0 stagedEpoch stagedEpoch_ok rfl (by decide +kernel) (by decide)
    (by decide +kernel) (by decide) (by decide) (by decide) rfl (by decide +kernel)
  have hfive := stagedEpoch_activates
  rw [Tests.ran, hexec] at hfive
  have hzero : rdi t 0x410 .hdrMsEpoch 0 = 5 := of_decide_eq_true hfive
  exact absurd (hepoch.symm.trans hzero) (by decide)

end Sys2Proof.Machine
end

section
/-!
What settling the epoch (R58, R65) leaves of the management and security units: an armed slot that fires may flip a unit to its staged set,
which changes set fields alone.
-/

namespace Sys2Proof.Machine

/-- Everything staged is a set field, the fields of the management and security units that are no set fields are as in `s`, and where
nothing of the management unit is staged in `s`, nothing is in `t` and its PREV_VALID and FW_BANK are as in `s`. -/
structure SetsKept (s t : State) : Prop where
  sets : ∀ v ∈ t.staging, v.fld.row.set = true
  code : ∀ p f i, f.part = .regMgt ∨ f.part = .regSec → f.row.set = false → rdi t p f i = rdi s p f i
  idle : rd s pgMgt .hdrStaged = 0 →
    rd t pgMgt .hdrStaged = 0 ∧ rd t pgMgt .hdrPrevValid = rd s pgMgt .hdrPrevValid ∧ rd t pgMgt .mgtFwBank = rd s pgMgt .mgtFwBank

namespace SetsKept

variable {s t u : State}

theorem refl (h : ∀ v ∈ s.staging, v.fld.row.set = true) : SetsKept s s :=
  ⟨h, fun _ _ _ _ _ => rfl, fun hs => ⟨hs, rfl, rfl⟩⟩

/-- An operation on other parts of the state. -/
theorem step {m : List Part} (h : SetsKept s t) (hu : Upd m t u)
    (hm : m.contains .staging = false ∧ m.contains .regSet = false ∧ m.contains .regMgt = false ∧ m.contains .regSec = false) :
    SetsKept s u := by
  obtain ⟨hstaging, hset, hmgt, hsec⟩ := hm
  have hst : u.staging = t.staging := hu.same .staging hstaging
  have hhdr : ∀ p f i, f.part = .regSet → rdi u p f i = rdi t p f i := hu.same .regSet hset
  have hmg : ∀ p f i, f.part = .regMgt → rdi u p f i = rdi t p f i := hu.same .regMgt hmgt
  have hse : ∀ p f i, f.part = .regSec → rdi u p f i = rdi t p f i := hu.same .regSec hsec
  refine ⟨fun v hv => h.sets v (hst ▸ hv), fun p f i hf hn => ?_, fun hs => ?_⟩
  · rcases hf with hf | hf
    · exact (hmg p f i hf).trans (h.code p f i (.inl hf) hn)
    · exact (hse p f i hf).trans (h.code p f i (.inr hf) hn)
  · obtain ⟨hstaged, hprev, hbank⟩ := h.idle hs
    exact ⟨(hhdr _ _ _ rfl).trans hstaged, (hhdr _ _ _ rfl).trans hprev, (hmg _ _ _ rfl).trans hbank⟩

theorem ite {q : Prop} [Decidable q] {x y : State} (hx : q → SetsKept s x) (hy : ¬q → SetsKept s y) : SetsKept s (if q then x else y) := by
  split
  · exact hx ‹_›
  · exact hy ‹_›

end SetsKept

theorem fld_ne_of_part {f g : Fld} (h : f.part ≠ g.part) : f ≠ g := fun e => h (congrArg Fld.part e)

/-- A flip of another page leaves a page's CFG_SET register. -/
theorem rdi_flipHeader_other {p q : Nat} (h : q ≠ p) {g : Fld} (hg : g.row.dev = false) (pv : Nat) (s : State) (j : Nat) :
    rdi (flipHeader p pv s) q g j = rdi s q g j := by
  have hne : ∀ f : Fld, f.row.dev = false → ¬(homePage q g = homePage p f ∧ g = f ∧ j % 16384 = 0 % 16384) := fun f hf e =>
    h (by simpa [homePage, hf, hg] using e.1)
  simp only [flipHeader, wr, rdi_wri, if_neg (hne .hdrActiveGen rfl), if_neg (hne .hdrActiveBank rfl), if_neg (hne .hdrPrevValid rfl),
    if_neg (hne .hdrStaged rfl)]

theorem rdi_flipHeader_part {g : Fld} (hg : g.part ≠ .regSet) (p pv : Nat) (s : State) (q j : Nat) :
    rdi (flipHeader p pv s) q g j = rdi s q g j := by
  simp only [flipHeader, rdi_wr_fld (fld_ne_of_part (g := .hdrActiveGen) hg), rdi_wr_fld (fld_ne_of_part (g := .hdrActiveBank) hg),
    rdi_wr_fld (fld_ne_of_part (g := .hdrPrevValid) hg), rdi_wr_fld (fld_ne_of_part (g := .hdrStaged) hg)]

/-- A flip to the staged set of a unit that has one. -/
theorem SetsKept.flip {s t : State} (h : SetsKept s t) {p : Nat} (hp : rd t p .hdrStaged ≠ 0) (pv : Nat) :
    SetsKept s (flipSet p pv (t.staging.filter (·.page = p)) t) := by
  have hmem : ∀ v ∈ t.staging.filter (·.page = p), v.fld.row.set = true ∧ v.page = p := fun v hv =>
    ⟨h.sets v (List.mem_filter.1 hv).1, of_decide_eq_true (List.mem_filter.1 hv).2⟩
  refine ⟨fun v hv => ?_, fun q f i hf hn => ?_, fun hs => ?_⟩
  · rw [flipSet_staging] at hv
    exact h.sets v (List.mem_filter.1 hv).1
  · have hirq : f ≠ .hdrIrqStat := fld_ne_of_part (by rcases hf with hf | hf <;> rw [hf] <;> decide)
    rw [rdi_flipSet hirq, rdi_flipHeader_part (by rcases hf with hf | hf <;> rw [hf] <;> decide),
      rdi_swapSet fun v hv e => absurd e (fld_ne_of_set (hmem v hv).1 hn)]
    exact h.code q f i hf hn
  · obtain ⟨hstaged, hprev, hbank⟩ := h.idle hs
    have hother : pgMgt ≠ p := by
      rintro rfl
      exact hp hstaged
    have hkeep : ∀ g : Fld, g.row.dev = false → g ≠ .hdrIrqStat → rd (flipSet p pv (t.staging.filter (·.page = p)) t) pgMgt g = rd t pgMgt g := by
      intro g hdev hirq
      have hpage : ∀ v ∈ t.staging.filter (·.page = p), g = v.fld → homePage pgMgt g ≠ homePage v.page g := fun v hv _ => by
        simpa [homePage, hdev, (hmem v hv).2] using hother
      rw [rd, rdi_flipSet hirq, rdi_flipHeader_other hother hdev, rdi_swapSet hpage, rd]
    exact ⟨(hkeep _ rfl (by decide)).trans hstaged, (hkeep _ rfl (by decide)).trans hprev, (hkeep _ rfl (by decide)).trans hbank⟩

theorem SetsKept.activate {s t : State} (h : SetsKept s t) (p slot : Nat) : SetsKept s (cfgActivate p slot t) :=
  SetsKept.ite (fun _ => h.step (ledger_upd ..) ⟨rfl, rfl, rfl, rfl⟩) fun hp => h.flip hp 1

theorem SetsKept.discard {s t : State} (h : SetsKept s t) (p : Nat) : SetsKept s (discardStaged p t) := by
  have hne : ∀ g : Fld, g ≠ .hdrStaged → ∀ q i, rdi (discardStaged p t) q g i = rdi t q g i := fun g hg q i => rdi_wr_fld hg ..
  refine ⟨fun v hv => h.sets v (List.mem_filter.1 hv).1, fun q f i hf hn => ?_, fun hs => ?_⟩
  · exact (hne f (fld_ne_of_part (by rcases hf with hf | hf <;> rw [hf] <;> decide)) q i).trans (h.code q f i hf hn)
  · obtain ⟨hstaged, hprev, hbank⟩ := h.idle hs
    refine ⟨?_, (hne _ (by decide) _ _).trans hprev, (hne _ (by decide) _ _).trans hbank⟩
    rw [rd, discardStaged, wr, rdi_wri]
    split
    · rfl
    · exact hstaged

theorem SetsKept.fired {s t : State} (h : SetsKept s t) (p i : Nat) : SetsKept s (msFired p i t) :=
  h.step (msFired_upd p i t) ⟨rfl, rfl, rfl, rfl⟩

/-- A slot that fires keeps them, whatever its action. -/
theorem SetsKept.milestone {s t : State} (h : SetsKept s t) (p i : Nat) : SetsKept s (milestoneEval p i t) := by
  have hslots : ∀ {x : State} (l : List Nat), SetsKept s x → SetsKept s { x with fwSlots := l } := fun l hx =>
    ⟨hx.sets, hx.code, hx.idle⟩
  unfold milestoneEval
  refine SetsKept.ite (fun _ => h) fun _ => ?_
  extract_lets arg
  split
  case h_1 =>
    refine SetsKept.ite (fun _ => SetsKept.ite (fun _ => h) fun _ => (hslots _ h).fired p i) fun _ =>
      SetsKept.ite (fun _ => ?_) fun _ => (h.discard p).fired p i
    exact SetsKept.ite (fun _ => hslots _ (h.activate p i)) fun _ => (h.activate p i).fired p i
  case h_2 => exact h.step (versionRetire_upd ..) ⟨rfl, rfl, rfl, rfl⟩
  case h_3 =>
    split
    next n _ =>
      refine SetsKept.ite (fun _ => h) fun _ => ?_
      have hevict := h.step (droverEvict_upd n arg t) ⟨rfl, rfl, rfl, rfl⟩
      exact SetsKept.ite (fun _ => hevict) fun _ => hevict.fired p i
    next => exact h
  case h_4 => exact ((h.step (wri_upd ..) ⟨rfl, rfl, rfl, rfl⟩).step (ledger_upd ..) ⟨rfl, rfl, rfl, rfl⟩).fired p i
  case h_5 => exact h.fired p i

theorem SetsKept.floor {s t : State} (h : SetsKept s t) : SetsKept s (floorCheck t) :=
  h.step (floorCheck_upd t) ⟨rfl, rfl, rfl, rfl⟩

theorem SetsKept.settle {s t : State} (h : SetsKept s t) : SetsKept s (epochSettle t) := by
  have hpass : ∀ x, SetsKept s x → SetsKept s ((armedSlots x).foldl (fun t e => floorCheck (milestoneEval e.1 e.2 t)) x) := fun x hx =>
    foldl_keeps hx fun t e ht => (ht.milestone e.1 e.2).floor
  exact (hpass _ (hpass t h)).floor

end Sys2Proof.Machine
end

section
/-!
O60: firmware update, activation and switching (R513-R515).
-/

namespace Sys2Proof.Machine

theorem bit_eq_toNat (v i : Nat) : bit v i = (v.testBit i).toNat := by
  rw [bit, Nat.shiftRight_eq_div_pow, ← Nat.toNat_testBit]

/-- A bit is replaced, the others are kept. -/
theorem bit_setBits (v c x d : Nat) : bit (setBits v c c x) d = if d = c then x % 2 else bit v d := by
  have hv : v = 2 ^ c * (2 * (v / 2 ^ c / 2) + v / 2 ^ c % 2) + v % 2 ^ c := by
    rw [Nat.div_add_mod, Nat.div_add_mod]
  have hset : setBits v c c x = 2 ^ c * (2 * (v / 2 ^ c / 2) + x % 2) + v % 2 ^ c := by
    have hone : c + 1 - c = 1 := Nat.add_sub_cancel_left c 1
    rw [setBits, bits, hone, Nat.pow_one, Nat.shiftRight_eq_div_pow, Nat.shiftLeft_eq, Nat.shiftLeft_eq, Nat.mul_comm _ (2 ^ c),
      Nat.mul_comm _ (2 ^ c)]
    conv_lhs => rw [hv]
    rw [Nat.mul_add, Nat.mul_add]
    have hdiv : (2 ^ c * (2 * (v / 2 ^ c / 2)) + 2 ^ c * (v / 2 ^ c % 2) + v % 2 ^ c) / 2 ^ c % 2 = v / 2 ^ c % 2 := by
      rw [← Nat.mul_add, ← hv]
    rw [hdiv]
    omega
  have hlow : v % 2 ^ c < 2 ^ c := Nat.mod_lt _ (Nat.two_pow_pos c)
  have hhigh : ∀ b < 2, d ≠ c → c < d → (2 * (v / 2 ^ c / 2) + b).testBit (d - c) = (v / 2 ^ c / 2).testBit (d - c - 1) := by
    intro b hb _ hcd
    obtain ⟨k, hk⟩ : ∃ k, d - c = k + 1 := ⟨d - c - 1, by omega⟩
    rw [hk, Nat.testBit_succ, show (2 * (v / 2 ^ c / 2) + b) / 2 = v / 2 ^ c / 2 by omega]
    rfl
  rw [bit_eq_toNat, bit_eq_toNat, hset]
  conv_rhs => rw [hv]
  rw [Nat.testBit_two_pow_mul_add _ hlow, Nat.testBit_two_pow_mul_add _ hlow]
  rcases Nat.lt_trichotomy d c with h | rfl | h
  · rw [if_neg (Nat.ne_of_lt h), if_pos h, if_pos h]
  · have hzero : ((2 * (v / 2 ^ d / 2) + x % 2).testBit 0).toNat = x % 2 := by
      rw [Nat.toNat_testBit]
      omega
    rw [if_neg (Nat.lt_irrefl d), Nat.sub_self, hzero, if_pos rfl]
  · rw [if_neg (Nat.ne_of_gt h), if_neg (by omega), if_neg (by omega), hhigh _ (by omega) (by omega) h, hhigh _ (by omega) (by omega) h]
theorem bit_lt_two (v i : Nat) : bit v i < 2 := Nat.mod_lt _ (by decide)

theorem bit_mod_two_pow {i w : Nat} (h : i < w) (v : Nat) : bit (v % 2 ^ w) i = bit v i := by
  rw [bit_eq_toNat, Nat.testBit_mod_two_pow, decide_eq_true h, Bool.true_and, ← bit_eq_toNat]

/-- Replacing the bits of a list one after another. -/
theorem bit_foldl_setBits (f : Nat → Nat) (l : List Nat) (v d : Nat) :
    bit (l.foldl (fun v c => setBits v c c (f c)) v) d = if d ∈ l then f d % 2 else bit v d := by
  induction l generalizing v with
  | nil => simp
  | cons c l ih =>
    rw [List.foldl_cons, ih, bit_setBits]
    by_cases hl : d ∈ l
    · simp [hl]
    · by_cases hc : d = c <;> simp [hl, hc]

/-! The version field of the inactive bank. -/

theorem verFld_cases (bank : Nat) : verFld bank = .mgtFwVerA ∨ verFld bank = .mgtFwVerB := by
  unfold verFld
  split
  · exact .inl rfl
  · exact .inr rfl

theorem verFld_width (bank : Nat) : (verFld bank).row.width = 32 := by
  rcases verFld_cases bank with h | h <;> rw [h] <;> rfl

theorem homePage_verFld (p bank : Nat) : homePage p (verFld bank) = p := by
  rcases verFld_cases bank with h | h <;> rw [h] <;> rfl

/-- A version is stored in the inactive bank of component `c`. -/
def putVersion (c v : Nat) (s : State) : State := wri pgMgt (verFld (otherBank s c)) c v s

theorem rdi_putVersion (c v : Nat) (s : State) : rdi (putVersion c v s) pgMgt (verFld (otherBank s c)) c = v % 2 ^ 32 := by
  rw [putVersion, rdi_wri, if_pos ⟨rfl, rfl, rfl⟩, verFld_width]

theorem regsBut_putVersion {c : Nat} (hc : c < 6) (v : Nat) (s : State) :
    RegsBut [(pgMgt, verFld (otherBank s c), c)] s (putVersion c v s) := by
  refine regsBut_wri (List.mem_singleton.2 ?_) v s
  rw [homePage_verFld, Nat.mod_eq_of_lt (Nat.lt_trans hc (by decide))]

/-- The bit of the running bank is that of the selected one, or of the other. -/
theorem run_eq_otherBank_iff (s : State) (c : Nat) :
    bit (rd s pgMgt .mgtFwRun) c = otherBank s c ↔ bit (rd s pgMgt .mgtFwRun) c ≠ bit (rd s pgMgt .mgtFwBank) c := by
  have hrun := bit_lt_two (rd s pgMgt .mgtFwRun) c
  have hbank := bit_lt_two (rd s pgMgt .mgtFwBank) c
  unfold otherBank
  omega

/-! The messages of an update in progress. -/

theorem inUpdate_some {s : State} {u : FwUpdate} (h : s.update = some u) (act : FwUpdate → State → State) : inUpdate act s = act u s := by
  rw [inUpdate, h]

theorem inUpdate_none {s : State} (h : s.update = none) (ha : fwAnswers s = true) (act : FwUpdate → State → State) :
    inUpdate act s = pldmAnswer 0x80 s := by
  rw [inUpdate, h]
  exact if_pos ha

section Update

variable {s : State} {u : FwUpdate} (hu : s.update = some u)

include hu

theorem exec_passComponentTable (comps : List Nat) :
    exec (.passComponentTable comps) s =
      .next (if comps.all (· < 6) then pldmAnswer 0 { s with update := some { u with comps := comps } } else pldmAnswer 1 s) :=
  congrArg Host.Outcome.next (inUpdate_some hu _)

theorem exec_transferComplete :
    exec .transferComplete s =
      .next (if u.cur.isSome then pldmAnswer 0 { s with update := some { u with xfer := true } } else pldmAnswer 1 s) :=
  congrArg Host.Outcome.next (inUpdate_some hu _)

/-- What opening the inactive bank of component `c` leaves. -/
def openedBank (c : Nat) (u : FwUpdate) (s : State) : State :=
  { putVersion c 0 (wr pgMgt .hdrPrevValid 0 { s with prevSet := s.prevSet.filter fun v => v.page != pgMgt }) with
    update := some { u with cur := some c, xfer := false, verified := u.verified.filter (· != c) } }

theorem exec_updateComponent (c : Nat) :
    exec (.updateComponent c) s =
      .next (if !u.comps.contains c || u.cur.isSome || (!s.romOnly && bit (rd s pgMgt .mgtFwRun) c = otherBank s c) then pldmAnswer 1 s
        else pldmAnswer 0 (openedBank c u s)) :=
  congrArg Host.Outcome.next (inUpdate_some hu _)

theorem exec_verifyComplete (ok : Bool) (version : Nat) :
    exec (.verifyComplete ok version) s =
      .next (match u.cur.filter fun _ => u.xfer with
        | none => pldmAnswer 1 s
        | some c =>
          pldmAnswer (if ok then 0 else 1)
            { (if ok then putVersion c version s else putVersion c 0 s) with
              update := some { u with cur := none, xfer := false, verified := if ok then u.verified ++ [c] else u.verified } }) := by
  refine congrArg Host.Outcome.next ((inUpdate_some hu _).trans ?_)
  dsimp only
  cases Option.filter (fun _ => u.xfer) u.cur <;> rfl

/-- FW_BANK after an activation of the verified banks. -/
def selectedBanks (u : FwUpdate) (s : State) : Nat := u.verified.foldl (fun v c => setBits v c c (otherBank s c)) (rd s pgMgt .mgtFwBank)

omit hu in
theorem bit_selectedBanks (u : FwUpdate) (s : State) (c : Nat) :
    bit (selectedBanks u s) c = if c ∈ u.verified then otherBank s c else bit (rd s pgMgt .mgtFwBank) c := by
  have hmod : otherBank s c % 2 = otherBank s c := Nat.mod_eq_of_lt (by unfold otherBank; omega)
  rw [selectedBanks, bit_foldl_setBits, hmod]

theorem exec_activateFirmware (b : Bool) :
    exec (.activateFirmware b) s =
      .next (if u.cur.isSome || u.verified.isEmpty then pldmAnswer 1 s
        else
          let t := stageField pgMgt .mgtFwBank 0 (selectedBanks u s) { s with update := none }
          pldmAnswer 0 (if b then epochSettle (cfgActivate pgMgt 0 t) else t)) :=
  congrArg Host.Outcome.next (inUpdate_some hu _)

end Update

end Sys2Proof.Machine
end

section
/-!
O60, continued: a unit switches to the selected bank (R513, R515), and the obligation.
-/

namespace Sys2Proof.Machine

theorem forUpto_succ {σ : Type} (n : Nat) (f : Nat → σ → σ) (s : σ) : forUpto (n + 1) f s = f n (forUpto n f s) := by
  simp [forUpto, List.range_succ]

theorem portPage_inj {p q : Nat} (hp : p < 32) (hq : q < 32) (h : portPage p = portPage q) : p = q := by
  have hex : ∀ r < 32, (portUnit r).Exists := fun r hr => ⟨by omega, by omega, by omega⟩
  have hunit : UnitId.pt (p / 8) (p / 4 % 2) (p % 4) = UnitId.pt (q / 8) (q / 4 % 2) (q % 4) := page_inj (hex p hp) (hex q hq) h
  injection hunit
  omega

theorem portState_setPortState {p q st : Nat} (hp : p < 32) (hq : q < 32) (hst : st < 8) (s : State) :
    portState (setPortState p st s) q = if q = p then st else portState s q := by
  unfold setPortState
  split
  case isTrue h =>
    split
    case isTrue heq => rw [heq, h]
    case isFalse => rfl
  case isFalse =>
    rw [portState, rd, (ledger_upd ..).same .regEvl rfl _ .evlPortState 0 rfl, (raise_upd ..).same .regEvl rfl _ .evlPortState 0 rfl]
    split
    case isTrue heq =>
      rw [heq]
      exact (rd_wr_same ..).trans (Nat.mod_eq_of_lt hst)
    case isFalse hne =>
      rw [wr, rdi_wri, if_neg fun e => hne (portPage_inj hq hp e.1)]
      rfl

/-- The ports of optical engine `k` that flow begin a retrain. -/
def retrainEngine (k : Nat) (s : State) : State :=
  forUpto 4 (fun q t => if portFlows t (4 * k + q) then setPortState (4 * k + q) 5 t else t) s

theorem portState_retrainEngine {k q : Nat} (hk : k < 8) (hq : q < 4) (s : State) :
    portState (retrainEngine k s) (4 * k + q) = if portFlows s (4 * k + q) then 5 else portState s (4 * k + q) := by
  have key : ∀ n ≤ 4, ∀ q < 4,
      portState (forUpto n (fun q t => if portFlows t (4 * k + q) then setPortState (4 * k + q) 5 t else t) s) (4 * k + q) =
        if q < n ∧ portFlows s (4 * k + q) = true then 5 else portState s (4 * k + q) := by
    intro n
    induction n with
    | zero => intro _ q _; simp [forUpto]
    | succ n ih =>
      intro hn q hq
      have hprev := ih (by omega)
      have hflow : portFlows (forUpto n (fun q t => if portFlows t (4 * k + q) then setPortState (4 * k + q) 5 t else t) s) (4 * k + n) =
          portFlows s (4 * k + n) := by
        rw [portFlows, hprev n (by omega), if_neg (by omega), ← portFlows]
      rw [forUpto_succ, hflow]
      by_cases hqn : q = n
      · subst hqn
        split
        case isTrue hf => rw [portState_setPortState (by omega) (by omega) (by decide), if_pos rfl, if_pos ⟨by omega, hf⟩]
        case isFalse hf => rw [hprev q hq, if_neg (by omega), if_neg fun h => hf h.2]
      · have hlt : q < n + 1 ↔ q < n := by omega
        split
        · rw [portState_setPortState (by omega) (by omega) (by decide), if_neg (by omega), hprev q hq]
          simp only [hlt]
        · rw [hprev q hq]
          simp only [hlt]
  rw [retrainEngine, key 4 (Nat.le_refl 4) q hq]
  simp [hq]

theorem retrainEngine_upd (k : Nat) (s : State) : Upd [.outbox, .regIrq, .regErr, .regLdg, .regMcs, .regFlt, .regEvl, .ldgSeq, .ldgLost,
    .dram, .dramChk, .chans, .units, .snoop, .biWait, .servedBytes] s (retrainEngine k s) :=
  Upd.forUpto (Upd.refl s) fun _ _ ht => Upd.ite (fun _ => ht.step rfl (setPortState_upd ..)) fun _ => ht

/-- Unit `k` of component `c` runs the selected bank; the component may still wait for other units. -/
def unitSwitched (c k : Nat) (s : State) : State :=
  let s := { s with fwDone := if s.fwDone.contains (c, k) then s.fwDone else s.fwDone ++ [(c, k)] }
  let s := if c = 3 then putChan k { chanAt s k with fwHold := false } s else s
  if c = 5 then retrainEngine k s else s

theorem exec_fwSwitch (c k : Nat) (s : State) :
    exec (.fwSwitch c k) s =
      if c < 2 || 5 < c || fwUnits c ≤ k || !fwSwitching s c || !fwMaySwitch s c k then .next s
      else .next (if (List.range (fwUnits c)).all fun i =>
        (unitSwitched c k s).fwDone.contains (c, i) || partState (unitSwitched c k s) (fwPart c i) = 4
        then fwFinish c (unitSwitched c k s) else unitSwitched c k s) := rfl

/-- Switching a unit leaves the partition states and the codes of the management and security units. -/
theorem unitSwitched_upd (c k : Nat) (s : State) : Upd [.outbox, .regIrq, .regErr, .regLdg, .regMcs, .regFlt, .regEvl, .ldgSeq, .ldgLost,
    .dram, .dramChk, .chans, .units, .snoop, .biWait, .servedBytes, .fwDone] s (unitSwitched c k s) := by
  unfold unitSwitched
  extract_lets t1 ch t2
  have h1 : Upd [.outbox, .regIrq, .regErr, .regLdg, .regMcs, .regFlt, .regEvl, .ldgSeq, .ldgLost, .dram, .dramChk, .chans, .units, .snoop,
      .biWait, .servedBytes, .fwDone] s t1 := (Upd.refl s).set_fwDone rfl
  have h2 := Upd.ite (c := c = 3) (fun _ => h1.step rfl (putChan_upd k { chanAt t1 k with fwHold := false } t1)) fun _ => h1
  exact Upd.ite (fun _ => h2.step rfl (retrainEngine_upd k t2)) fun _ => h2

theorem unitSwitched_fwDone (c k : Nat) (s : State) :
    (unitSwitched c k s).fwDone = if s.fwDone.contains (c, k) then s.fwDone else s.fwDone ++ [(c, k)] := by
  unfold unitSwitched
  extract_lets t1 ch t2
  have h2 : t2.fwDone = t1.fwDone := by
    unfold t2
    split <;> rfl
  split
  · have h3 : (retrainEngine k t2).fwDone = t2.fwDone := (retrainEngine_upd k t2).same .fwDone rfl
    exact h3.trans h2
  · exact h2

theorem mem_unitSwitched_fwDone {c k : Nat} {s : State} {e : Nat × Nat} :
    e ∈ (unitSwitched c k s).fwDone ↔ e ∈ s.fwDone ∨ e = (c, k) := by
  rw [unitSwitched_fwDone]
  split
  case isTrue h =>
    have hmem : (c, k) ∈ s.fwDone := List.contains_iff_mem.1 h
    exact ⟨.inl, fun he => he.elim id fun heq => heq ▸ hmem⟩
  case isFalse => simp

theorem unitSwitched_partState (c k : Nat) (s : State) (n : Nat) : partState (unitSwitched c k s) n = partState s n :=
  (unitSwitched_upd c k s).same .regRcv rfl 0x2028 .fltPartState n rfl

theorem unitSwitched_fwHold (k : Nat) (s : State) : (chanAt (unitSwitched 3 k s) k).fwHold = false := by
  simp [unitSwitched, putChan, chanAt, SMap.get_set_same]

theorem portState_unitSwitched {k q : Nat} {s : State} (hk : k < 8) (hq : q < 4) (hf : portFlows s (4 * k + q) = true) :
    portState (unitSwitched 5 k s) (4 * k + q) = 5 := by
  unfold unitSwitched
  extract_lets t1 ch t2
  rw [if_pos rfl, portState_retrainEngine hk hq]
  exact if_pos hf

/-- The last switch of a component: it runs the selected bank, nothing of it is noted any more, and MEAS_GEN counts. -/
theorem fwFinish_spec {c : Nat} {s : State} (hs : ∀ v ∈ s.staging, v.fld.row.set = true) (hc : c < 6) :
    bit (rd (fwFinish c s) pgMgt .mgtFwRun) c = bit (rd s pgMgt .mgtFwBank) c ∧ (∀ e ∈ (fwFinish c s).fwDone, e.1 ≠ c) ∧
      rd (fwFinish c s) pgSec .secMeasGen = (rd s pgSec .secMeasGen + 1) % 2 ^ 32 := by
  unfold fwFinish
  extract_lets bank t1
  have hledger := ledger_upd pgMgt 0x81 (c + bank * 2 ^ 8) t1
  generalize hm : ledger pgMgt 0x81 (c + bank * 2 ^ 8) t1 = m at hledger
  have hstaging : (measChange m).staging = s.staging := hledger.same .staging rfl
  have hset : SetsKept (measChange m) (epochSettle (measChange m)) := (SetsKept.refl (hstaging ▸ hs)).settle
  have hrun : rd (measChange m) pgMgt .mgtFwRun = setBits (rd s pgMgt .mgtFwRun) c c (bit (rd s pgMgt .mgtFwBank) c) % 2 ^ 6 :=
    ((measChange_upd m).same .regMgt rfl _ .mgtFwRun 0 rfl).trans ((hledger.same .regMgt rfl _ .mgtFwRun 0 rfl).trans (rd_wr_same ..))
  have hgen : rd m pgSec .secMeasGen = rd s pgSec .secMeasGen :=
    (hledger.same .regSec rfl _ .secMeasGen 0 rfl).trans (rdi_wr_fld (by decide) ..)
  refine ⟨?_, fun e he => ?_, ?_⟩
  · rw [rd, hset.code _ _ _ (.inl rfl) rfl, ← rd, hrun, bit_mod_two_pow hc, bit_setBits, if_pos rfl, Nat.mod_eq_of_lt (bit_lt_two ..)]
  · have hsettle : (epochSettle (measChange m)).fwDone = m.fwDone := (epochSettle_upd (measChange m)).same .fwDone rfl
    have hdone : m.fwDone = s.fwDone.filter fun e => e.1 != c := hledger.same .fwDone rfl
    rw [hsettle, hdone] at he
    simpa using (List.mem_filter.1 he).2
  · rw [rd, hset.code _ _ _ (.inr rfl) rfl, ← hgen]
    exact rd_wr_same ..

theorem swapSet_concat (vals : List SetVal) (v : SetVal) (s : State) :
    (swapSet (vals ++ [v]) s).2 = wri v.page v.fld v.idx v.val (swapSet vals s).2 := by
  simp [swapSet, List.foldl_append]

/-- An activation of the management unit right after a value of FW_BANK was staged: the value is active and nothing is staged. -/
theorem activate_staged_fwBank {s : State} (hs : ∀ v ∈ s.staging, v.fld.row.set = true) (b : Nat) :
    let t := epochSettle (cfgActivate pgMgt 0 (stageField pgMgt .mgtFwBank 0 b s))
    rd t pgMgt .hdrStaged = 0 ∧ rd t pgMgt .hdrPrevValid = 1 ∧ rd t pgMgt .mgtFwBank = b % 2 ^ 6 := by
  generalize ht : stageField pgMgt .mgtFwBank 0 b s = t
  have hstaged : rd t pgMgt .hdrStaged = 1 := ht ▸ rd_wr_same ..
  obtain ⟨l, hl⟩ : ∃ l, t.staging.filter (·.page = pgMgt) = l ++ [⟨pgMgt, .mgtFwBank, 0, b % 2 ^ 6⟩] :=
    ⟨_, by rw [← ht]; exact List.filter_append ..⟩
  have hsets : ∀ v ∈ t.staging, v.fld.row.set = true := by
    rw [← ht]
    refine fun v hv => (List.mem_append.1 hv).elim (fun h => hs v (List.mem_filter.1 h).1) fun h => ?_
    rw [List.mem_singleton.1 h]
    rfl
  have hflip : cfgActivate pgMgt 0 t = flipSet pgMgt 1 (l ++ [⟨pgMgt, .mgtFwBank, 0, b % 2 ^ 6⟩]) t := by
    rw [cfgActivate, hstaged, hl]
    rfl
  rw [hflip]
  generalize hm : flipSet pgMgt 1 (l ++ [⟨pgMgt, .mgtFwBank, 0, b % 2 ^ 6⟩]) t = m
  have hkept : SetsKept m (epochSettle m) := by
    refine (SetsKept.refl fun v hv => ?_).settle
    rw [← hm, flipSet_staging] at hv
    exact hsets v (List.mem_filter.1 hv).1
  obtain ⟨hst, hprev, hbank⟩ := hkept.idle (hm ▸ rd_flipSet_staged ..)
  have hvalue : rd m pgMgt .mgtFwBank = b % 2 ^ 6 := by
    rw [← hm, rd, rdi_flipSet_set pgMgt 1 _ rfl, swapSet_concat, rdi_wri, if_pos ⟨rfl, rfl, rfl⟩]
    exact Nat.mod_mod ..
  exact ⟨hst, hprev.trans (hm ▸ rd_flipSet_prevValid ..), hbank.trans hvalue⟩

theorem sent_last {s t : State} (h : s.outbox <+: t.outbox) (m : Msg) : Sent m s (emit m t) := by
  show m ∈ (t.outbox ++ [m]).drop s.outbox.length
  rw [List.drop_append_of_le_length h.length_le]
  exact List.mem_append_right _ (List.mem_singleton.2 rfl)

/-- An unknown or busy component, and one that does not run its selected bank under its own firmware, is not opened. -/
theorem componentShut_iff (c : Nat) (u : FwUpdate) (s : State) :
    (!u.comps.contains c || u.cur.isSome || (!s.romOnly && bit (rd s pgMgt .mgtFwRun) c = otherBank s c)) = true ↔
      c ∉ u.comps ∨ u.cur ≠ none ∨ (s.romOnly = false ∧ bit (rd s pgMgt .mgtFwRun) c ≠ bit (rd s pgMgt .mgtFwBank) c) := by
  simp only [Bool.or_eq_true, Bool.and_eq_true, Bool.not_eq_true', decide_eq_true_eq, run_eq_otherBank_iff, or_assoc,
    Option.isSome_iff_ne_none]
  simp

/-- The selectors of the verified banks are staged, and the update is over. -/
def stagedBanks (u : FwUpdate) (s : State) : State := stageField pgMgt .mgtFwBank 0 (selectedBanks u s) { s with update := none }

section Update

variable {s : State} {u : FwUpdate} (hu : s.update = some u)

include hu

theorem updateComponent_opens {c : Nat} (hc : c < 6) (hin : c ∈ u.comps) (hcur : u.cur = none)
    (hrun : s.romOnly = true ∨ bit (rd s pgMgt .mgtFwRun) c = bit (rd s pgMgt .mgtFwBank) c) :
    ∃ t x, exec (.updateComponent c) s = .next t ∧ t.update = some x ∧ x.cur = some c ∧ x.xfer = false ∧ c ∉ x.verified ∧ x.comps = u.comps ∧
      rdi t pgMgt (verFld (otherBank s c)) c = 0 ∧ rd t pgMgt .hdrPrevValid = 0 ∧ (∀ w, w ∈ t.prevSet → w.page ≠ pgMgt) ∧
      t.outbox = s.outbox ++ [.pldm 0 0] ∧ RegsBut [(pgMgt, verFld (otherBank s c), c), (pgMgt, .hdrPrevValid, 0)] s t := by
  have hopen : ¬(!u.comps.contains c || u.cur.isSome || (!s.romOnly && bit (rd s pgMgt .mgtFwRun) c = otherBank s c)) = true := by
    rw [componentShut_iff]
    rintro (h | h | ⟨hrom, h⟩)
    · exact h hin
    · exact h hcur
    · exact hrun.elim (fun hr => Bool.noConfusion (hrom.symm.trans hr)) h
  generalize hq : wr pgMgt .hdrPrevValid 0 { s with prevSet := s.prevSet.filter fun v => v.page != pgMgt } = q
  have hbank : otherBank q c = otherBank s c := by
    have hsame : rd q pgMgt .mgtFwBank = rd s pgMgt .mgtFwBank := hq ▸ rdi_wr_fld (by decide) ..
    rw [otherBank, hsame, ← otherBank]
  have hq0 : rd q pgMgt .hdrPrevValid = 0 := hq ▸ rd_wr_same ..
  have hqreg : RegsBut [(pgMgt, .hdrPrevValid, 0)] s q := fun p f i hn =>
    hq ▸ regsBut_wri (p := pgMgt) (i := 0) (f := .hdrPrevValid) (List.mem_singleton.2 rfl) 0 _ p f i hn
  have hput := regsBut_putVersion hc 0 q
  rw [exec_updateComponent hu, if_neg hopen, openedBank, hq]
  refine ⟨_, _, rfl, rfl, rfl, rfl, ?_, rfl, ?_, ?_, ?_, ?_, fun p f i hn => ?_⟩
  · simp
  · exact hbank ▸ rdi_putVersion c 0 q
  · refine (hput _ _ _ ?_).trans hq0
    rcases verFld_cases (otherBank q c) with h | h <;> rw [h] <;> simp
  · intro w hw
    have hpw : w ∈ s.prevSet.filter fun v => v.page != pgMgt := by
      rw [← hq] at hw
      exact hw
    simpa using (List.mem_filter.1 hpw).2
  · show q.outbox ++ _ = _
    rw [← hq]
    rfl
  · have hn1 : (homePage p f, f, i % 16384) ∉ [(pgMgt, verFld (otherBank q c), c)] := fun h =>
      hn (hbank ▸ List.mem_append_left [(pgMgt, Fld.hdrPrevValid, 0)] h)
    have hn2 : (homePage p f, f, i % 16384) ∉ [(pgMgt, Fld.hdrPrevValid, 0)] := fun h => hn (List.mem_cons_of_mem _ h)
    exact (hput p f i hn1).trans (hqreg p f i hn2)

theorem verifyComplete_good {c v : Nat} (hcur : u.cur = some c) (hx : u.xfer = true) (hc : c < 6) (hv : v < 2 ^ 32) :
    ∃ t x, exec (.verifyComplete true v) s = .next t ∧ t.update = some x ∧ x.cur = none ∧ x.verified = u.verified ++ [c] ∧
      rdi t pgMgt (verFld (otherBank s c)) c = v ∧ t.outbox = s.outbox ++ [.pldm 0 0] ∧ RegsBut [(pgMgt, verFld (otherBank s c), c)] s t := by
  have hfilter : u.cur.filter (fun _ => u.xfer) = some c := by rw [hcur, hx]; rfl
  rw [exec_verifyComplete hu, hfilter]
  refine ⟨_, _, rfl, rfl, rfl, rfl, ?_, rfl, regsBut_putVersion hc v s⟩
  exact (rdi_putVersion c v s).trans (Nat.mod_eq_of_lt hv)

theorem verifyComplete_bad {c : Nat} (v : Nat) (hcur : u.cur = some c) (hx : u.xfer = true) :
    ∃ t x, exec (.verifyComplete false v) s = .next t ∧ t.update = some x ∧ x.cur = none ∧ x.verified = u.verified ∧
      rdi t pgMgt (verFld (otherBank s c)) c = 0 ∧ t.outbox = s.outbox ++ [.pldm 1 0] := by
  have hfilter : u.cur.filter (fun _ => u.xfer) = some c := by rw [hcur, hx]; rfl
  rw [exec_verifyComplete hu, hfilter]
  exact ⟨_, _, rfl, rfl, rfl, rfl, rdi_putVersion c 0 s, rfl⟩

theorem verifyComplete_none (ok : Bool) (v : Nat) (h : u.cur = none ∨ u.xfer = false) :
    exec (.verifyComplete ok v) s = .next { s with outbox := s.outbox ++ [.pldm 1 0] } := by
  have hfilter : u.cur.filter (fun _ => u.xfer) = none := by
    rcases h with h | h
    · rw [h]; rfl
    · cases hcur : u.cur <;> simp [h]
  rw [exec_verifyComplete hu, hfilter]
  rfl

omit hu in
theorem stagedBanks_upd (u : FwUpdate) (s : State) : Upd [.regSet, .staging, .update] s (stagedBanks u s) :=
  ((Upd.refl s).set_update rfl).step rfl (stageField_upd ..)

theorem exec_activateFirmware_ready (hcur : u.cur = none) (hv : u.verified ≠ []) (b : Bool) :
    exec (.activateFirmware b) s =
      .next (emit (.pldm 0 0) (if b then epochSettle (cfgActivate pgMgt 0 (stagedBanks u s)) else stagedBanks u s)) := by
  rw [exec_activateFirmware hu, if_neg (by simp [hcur, hv])]
  rfl

omit hu in
theorem bit_selectedBanks_cut {c : Nat} (hc : c < 6) :
    bit (selectedBanks u s % 2 ^ 6) c = if c ∈ u.verified then otherBank s c else bit (rd s pgMgt .mgtFwBank) c := by
  rw [bit_mod_two_pow hc, bit_selectedBanks]

theorem activateFirmware_stages (hcur : u.cur = none) (hv : u.verified ≠ []) :
    ∃ t, exec (.activateFirmware false) s = .next t ∧ t.update = none ∧ rd t pgMgt .hdrStaged = 1 ∧
      (∃ w, w ∈ t.staging ∧ w.page = pgMgt ∧ w.fld = .mgtFwBank ∧ w.idx = 0 ∧
        ∀ c, c < 6 → bit w.val c = (if c ∈ u.verified then otherBank s c else bit (rd s pgMgt .mgtFwBank) c)) ∧
      rd t pgMgt .mgtFwBank = rd s pgMgt .mgtFwBank ∧ t.outbox = s.outbox ++ [.pldm 0 0] := by
  have hstaged : rd (stagedBanks u s) pgMgt .hdrStaged = 1 := rd_wr_same ..
  have hbank : rd (stagedBanks u s) pgMgt .mgtFwBank = rd s pgMgt .mgtFwBank := rdi_wr_fld (by decide) ..
  refine ⟨emit (.pldm 0 0) (stagedBanks u s), exec_activateFirmware_ready hu hcur hv false, rfl, hstaged, ?_, hbank, rfl⟩
  exact ⟨_, mem_staging_stageField pgMgt .mgtFwBank 0 (selectedBanks u s) { s with update := none }, rfl, rfl, rfl,
    fun c hc => bit_selectedBanks_cut hc⟩

theorem activateFirmware_activates (hsets : setsOnly s) (hcur : u.cur = none) (hv : u.verified ≠ []) :
    ∃ t, exec (.activateFirmware true) s = .next t ∧ t.update = none ∧
      rd t pgMgt .hdrStaged = 0 ∧ rd t pgMgt .hdrPrevValid = 1 ∧ Sent (.pldm 0 0) s t ∧
      ∀ c, c < 6 → bit (rd t pgMgt .mgtFwBank) c = (if c ∈ u.verified then otherBank s c else bit (rd s pgMgt .mgtFwBank) c) := by
  have hexec := exec_activateFirmware_ready hu hcur hv true
  have hactive : rd _ pgMgt .hdrStaged = 0 ∧ _ := activate_staged_fwBank (s := { s with update := none }) hsets.1 (selectedBanks u s)
  have hact := cfgActivate_upd pgMgt 0 (stagedBanks u s)
  have hsettle := epochSettle_upd (cfgActivate pgMgt 0 (stagedBanks u s))
  have hupdate : (epochSettle (cfgActivate pgMgt 0 (stagedBanks u s))).update = none :=
    Eq.trans (hsettle.same .update rfl) (hact.same .update rfl)
  have hout := (stagedBanks_upd u s).out.trans (hact.out.trans hsettle.out)
  change rd (epochSettle (cfgActivate pgMgt 0 (stagedBanks u s))) _ _ = 0 ∧ rd (epochSettle (cfgActivate pgMgt 0 (stagedBanks u s))) _ _ = 1 ∧
    rd (epochSettle (cfgActivate pgMgt 0 (stagedBanks u s))) _ _ = _ at hactive
  rw [if_pos rfl] at hexec
  generalize epochSettle (cfgActivate pgMgt 0 (stagedBanks u s)) = q at hexec hactive hupdate hout
  obtain ⟨hstaged, hprev, hbank⟩ := hactive
  refine ⟨emit (.pldm 0 0) q, hexec, hupdate, hstaged, hprev, sent_last hout _, fun c hc => ?_⟩
  exact (congrArg (bit · c) hbank).trans (bit_selectedBanks_cut hc)

end Update

theorem exec_requestUpdate (sess : Option Nat) (s : State) :
    exec (.requestUpdate sess) s =
      if !fwAnswers s then .next s
      else if !fwOk s sess then .next (pldmAnswer 1 s)
      else if rd s pgMgt .hdrStaged = 1 || s.update.isSome then .next (pldmAnswer 0x81 s)
      else .next (pldmAnswer 0 { s with update := some {} }) := rfl

/-- A unit that may switch notes it, and the component is finished when no other unit is missing. -/
theorem exec_fwSwitch_starts {c k : Nat} {s : State} (h2 : 2 ≤ c) (h5 : c ≤ 5) (hk : k < fwUnits c) (hsw : fwSwitching s c = true)
    (hmay : fwMaySwitch s c k = true) :
    exec (.fwSwitch c k) s = .next (if (List.range (fwUnits c)).all fun i =>
        (unitSwitched c k s).fwDone.contains (c, i) || partState s (fwPart c i) = 4
      then fwFinish c (unitSwitched c k s) else unitSwitched c k s) := by
  have hgo : ¬(decide (c < 2) || decide (5 < c) || decide (fwUnits c ≤ k) || !fwSwitching s c || !fwMaySwitch s c k) = true := by
    simp [hsw, hmay, Nat.not_lt.2 h2, h5, hk]
  rw [exec_fwSwitch, if_neg hgo]
  simp only [unitSwitched_partState]

theorem allSwitched_iff (c k : Nat) (s : State) :
    ((List.range (fwUnits c)).all fun i => (unitSwitched c k s).fwDone.contains (c, i) || partState s (fwPart c i) = 4) = true ↔
      ∀ j < fwUnits c, j ≠ k → (c, j) ∈ s.fwDone ∨ partState s (fwPart c j) = 4 := by
  simp only [List.all_eq_true, List.mem_range, Bool.or_eq_true, List.contains_iff_mem, decide_eq_true_eq, mem_unitSwitched_fwDone,
    Prod.mk.injEq, true_and]
  exact ⟨fun h j hj hne => (h j hj).imp_left fun hd => hd.resolve_right hne,
    fun h j hj => if hjk : j = k then .inl (.inr hjk) else (h j hj hjk).imp_left .inl⟩

theorem exec_fwSwitchWaitExpire (d h : Nat) (s : State) :
    exec (.fwSwitchWaitExpire d h) s =
      if fwSwitching s 3 && !s.fwDone.contains (3, ckOf d h) then .next (putChan (ckOf d h) { chanAt s (ckOf d h) with fwHold := true } s)
      else .next s := rfl

/-- Settles O60: each message of an update is one short operation on its record, an activation is one flip of the management unit, and a
switch finishes the component when every other unit has switched or is out of service. -/
theorem firmwareUpdate : Obligations.FirmwareUpdate := by
  refine ⟨fun sess s _ ha => ⟨fun hrom => ?fwOk, fun hrom => ?romOnly, fun hok hst hup => ?opens, fun hok hbusy => ?busy, fun hok => ?refused⟩,
    fun comps c v b i s hup ha hi => ?outside,
    fun comps u s _ hu => ⟨fun hc => ?table, fun hc => ?badTable, fun c hc hin hcur hrun => updateComponent_opens hu hc hin hcur hrun,
      fun c _ hshut => ?shut, fun hcur => ?transfer, fun hcur => ?noTransfer, fun c v hcur hx hc hv => verifyComplete_good hu hcur hx hc hv,
      fun c v hcur hx _ => verifyComplete_bad hu v hcur hx, fun ok v h => verifyComplete_none hu ok v h,
      fun hcur hv => activateFirmware_stages hu hcur hv, fun hsets hcur hv => activateFirmware_activates hu hsets hcur hv,
      fun b h => ?notReady⟩,
    fun c k s _ hsets h2 h5 hk hsw hmay => ⟨fun hwait => ?oneUnit, fun hlast => ?lastUnit⟩,
    fun c k s h => ?noSwitch, fun d h s _ => ⟨fun hsw hn => ?waits, fun hno => ?waitsNot⟩⟩
  case fwOk => rw [fwOk, hrom]; rfl
  case romOnly => rw [fwOk, hrom]; exact Option.isNone_iff_eq_none
  case opens => rw [exec_requestUpdate, ha, hok, hst, hup]; rfl
  case busy =>
    have hcond : (decide (rd s pgMgt .hdrStaged = 1) || s.update.isSome) = true := by
      simpa [Option.isSome_iff_ne_none] using hbusy
    rw [exec_requestUpdate, ha, hok, hcond]
    rfl
  case refused => rw [exec_requestUpdate, ha, hok]; rfl
  case outside =>
    simp only [List.mem_cons, List.not_mem_nil, or_false] at hi
    rcases hi with rfl | rfl | rfl | rfl | rfl <;> exact congrArg Host.Outcome.next (inUpdate_none hup ha _)
  case table => rw [exec_passComponentTable hu, if_pos (by simpa using hc)]; rfl
  case badTable => rw [exec_passComponentTable hu, if_neg (by simpa using hc)]; rfl
  case shut => rw [exec_updateComponent hu, if_pos ((componentShut_iff c u s).2 hshut)]; rfl
  case transfer => rw [exec_transferComplete hu, if_pos (Option.isSome_iff_ne_none.2 hcur)]; rfl
  case noTransfer => rw [exec_transferComplete hu, hcur]; rfl
  case notReady =>
    rw [exec_activateFirmware hu, if_pos (by simpa [Option.isSome_iff_ne_none] using h)]
    rfl
  case oneUnit =>
    obtain ⟨j, hj, hne, hnd, hnp⟩ := hwait
    refine ⟨unitSwitched c k s, ?_, mem_unitSwitched_fwDone.2 (.inr rfl), (unitSwitched_upd c k s).same .regMgt rfl _ .mgtFwRun 0 rfl, ?_, ?_⟩
    · rw [exec_fwSwitch_starts h2 h5 hk hsw hmay, if_neg]
      rw [allSwitched_iff]
      exact fun hall => (hall j hj hne).elim hnd hnp
    · rintro rfl
      exact unitSwitched_fwHold k s
    · rintro rfl q hq hf
      exact portState_unitSwitched hk hq hf
  case lastUnit =>
    have hupd := unitSwitched_upd c k s
    have hstaging : (unitSwitched c k s).staging = s.staging := hupd.same .staging rfl
    have hrun : rd (unitSwitched c k s) pgMgt .mgtFwBank = rd s pgMgt .mgtFwBank := hupd.same .regMgt rfl _ .mgtFwBank 0 rfl
    have hgen : rd (unitSwitched c k s) pgSec .secMeasGen = rd s pgSec .secMeasGen := hupd.same .regSec rfl _ .secMeasGen 0 rfl
    refine ⟨fwFinish c (unitSwitched c k s), ?_, ?_⟩
    · rw [exec_fwSwitch_starts h2 h5 hk hsw hmay, if_pos ((allSwitched_iff c k s).2 hlast)]
    · rw [← hrun, ← hgen]
      exact fwFinish_spec (hstaging ▸ hsets.1) (by omega)
  case noSwitch =>
    rw [exec_fwSwitch, if_pos]
    simpa [or_assoc] using h
  case waits =>
    refine ⟨putChan (ckOf d h) { chanAt s (ckOf d h) with fwHold := true } s, ?_, ?_, fun o ho => SMap.get_set_other ho, (putChan_upd ..).same⟩
    · rw [exec_fwSwitchWaitExpire, if_pos (by simp [hsw, hn])]
    · simp [putChan, chanAt, SMap.get_set_same]
  case waitsNot => rw [exec_fwSwitchWaitExpire, if_neg (by rcases hno with h | h <;> simp [h])]

end Sys2Proof.Machine
end

section
/-!
Interrupt causes stay (R37): a cause that is set is still set after the operations by which remote requests fail, errors are captured and
ledger records are written. None of them writes IRQ_STAT but to raise a cause.
-/

namespace Sys2Proof.Machine

/-- The causes set in `a` are set in `b`. -/
structure IrqRises (a b : State) : Prop where
  keeps : ∀ p k, k < 32 → bit (rd a p .hdrIrqStat) k = 1 → bit (rd b p .hdrIrqStat) k = 1

namespace IrqRises

variable {a b c : State}

theorem refl (a : State) : IrqRises a a := ⟨fun _ _ _ h => h⟩

theorem trans (h : IrqRises a b) (h' : IrqRises b c) : IrqRises a c :=
  ⟨fun p k hk hb => h'.keeps p k hk (h.keeps p k hk hb)⟩

theorem of_upd {m : List Part} (h : Upd m a b) (hm : m.contains .regIrq = false) : IrqRises a b := by
  refine ⟨fun p k _ hb => ?_⟩
  have hsame : rd b p .hdrIrqStat = rd a p .hdrIrqStat := h.same .regIrq hm p .hdrIrqStat 0 rfl
  rwa [hsame]

theorem of_regs (h : b.regs = a.regs) : IrqRises a b :=
  ⟨fun p _ _ hb => by rwa [rd, rdi_of_regs h]⟩

theorem step {m : List Part} (h : IrqRises a b) (h' : Upd m b c) (hm : m.contains .regIrq = false) : IrqRises a c :=
  h.trans (of_upd h' hm)

theorem counti {p i k : Nat} {f : Fld} (hf : [f.part].contains .regIrq = false) (h : IrqRises a b) : IrqRises a (counti p f i k b) :=
  h.step (counti_upd p f i k b) hf

theorem ite {q : Prop} [Decidable q] {x y : State} (hx : q → IrqRises a x) (hy : ¬q → IrqRises a y) : IrqRises a (if q then x else y) := by
  split
  · exact hx ‹_›
  · exact hy ‹_›

theorem foldl {β : Type} {l : List β} {f : State → β → State} (h : IrqRises a b) (hf : ∀ t x, IrqRises t (f t x)) :
    IrqRises a (l.foldl f b) := foldl_keeps h fun t x ht => ht.trans (hf t x)

theorem forUpto {n : Nat} {f : Nat → State → State} (h : IrqRises a b) (hf : ∀ i t, IrqRises t (f i t)) :
    IrqRises a (forUpto n f b) := h.foldl fun t i => hf i t

end IrqRises

/-! Raising a cause, capturing an error. -/

theorem raiseMask_rises (p m : Nat) (s : State) : IrqRises s (raiseMask p m s) := by
  refine ⟨fun q k hk hb => ?_⟩
  have hread : rd (raiseMask p m s) q .hdrIrqStat = rd (wr p .hdrIrqStat (rd s p .hdrIrqStat ||| m) s) q .hdrIrqStat := rdi_irqEdge ..
  rw [hread]
  by_cases hq : q = p
  · subst hq
    rw [bit_eq_one_iff] at hb ⊢
    rw [rd_wr_same, show Fld.hdrIrqStat.row.width = 32 from rfl, Nat.testBit_mod_two_pow, Nat.testBit_or, hb]
    simpa using hk
  · have hne : ¬(homePage q .hdrIrqStat = homePage p .hdrIrqStat ∧ Fld.hdrIrqStat = .hdrIrqStat ∧ 0 % 16384 = 0 % 16384) := fun e => hq e.1
    rwa [rd, wr, rdi_wri, if_neg hne]

theorem raise_rises (p b : Nat) (s : State) : IrqRises s (raise p b s) := raiseMask_rises p _ s

theorem pendDomain_rises (p : Nat) (s : State) : IrqRises s (pendDomain p s) := by
  have hwr : IrqRises s (wr 0x2028 .fltFltPend (rd s 0x2028 .fltFltPend ||| 2 ^ domainOf p) s) := IrqRises.of_upd (wr_upd ..) rfl
  exact IrqRises.ite (fun _ => hwr.trans (raise_rises ..)) fun _ => hwr

theorem logErr_rises (p sev code detail : Nat) (s : State) : IrqRises s (logErr p sev code detail s) := by
  unfold logErr
  extract_lets s1
  have hlog : IrqRises s s1 := by
    refine IrqRises.ite (fun _ => ?_) fun _ => ((IrqRises.refl s).step (wr_upd ..) rfl).step (wr_upd ..) rfl
    exact ((((((IrqRises.refl s).step (wr_upd ..) rfl).step (wr_upd ..) rfl).step (wr_upd ..) rfl).step (wr_upd ..) rfl).step
      (wr_upd ..) rfl).step (wr_upd ..) rfl |>.trans (raise_rises ..)
  exact IrqRises.ite (fun _ => hlog) fun _ => hlog.trans (pendDomain_rises p s1)

/-! Ledger records. -/

theorem sideWrite_rises (c : Nat) (s : State) : IrqRises s (sideWrite c s) :=
  (IrqRises.of_upd (count_upd (mcPageOf c) .mcsSideWrites 1 s) rfl).trans (logErr_rises ..)

theorem writeSpine_rises (a : Nat) (data : List Byte) (s : State) : IrqRises s (writeSpine a data s) := by
  unfold writeSpine
  extract_lets c port
  refine IrqRises.ite (fun _ => sideWrite_rises c s) fun _ => IrqRises.ite (fun _ => ?_) fun _ => IrqRises.ite (fun _ => ?_) fun _ => ?_
  · exact ((IrqRises.of_upd (dequeueCol_upd ..) rfl).step (charge_upd ..) rfl).step (arrayWrite_upd ..) rfl
  · exact IrqRises.of_upd (queueWrite_upd ..) rfl
  · exact IrqRises.of_upd (putLate_upd ..) rfl

theorem ledgerPut_rises (src type detail : Nat) (s : State) : IrqRises s (ledgerPut src type detail s) := by
  unfold ledgerPut
  extract_lets seq i a bytes s1 s2 s3
  have h1 : IrqRises s s1 := IrqRises.of_regs rfl
  have h2 : IrqRises s s2 := h1.step (wri_upd ..) rfl
  have h3 : IrqRises s s3 := IrqRises.ite (fun _ => h2.trans (IrqRises.of_regs rfl)) fun _ => h2
  exact IrqRises.ite (fun _ => h3.trans (writeSpine_rises ..)) fun _ => h3

theorem ledger_rises (src type detail : Nat) (s : State) : IrqRises s (ledger src type detail s) := by
  unfold ledger
  refine IrqRises.ite (fun _ => IrqRises.refl s) fun _ => IrqRises.ite (fun _ => ?_) fun _ => ledgerPut_rises src type detail s
  exact IrqRises.counti (f := .epoLdgDropped) rfl (IrqRises.of_regs rfl)

/-! The scratchpad and the end of a descriptor's work. -/

theorem spadUe_rises (g w : Nat) (s : State) : IrqRises s (spadUe g w s) := by
  have hcount : IrqRises s (counti 0x2028 .fltUe (spdPage g) 1 s) := IrqRises.of_upd (counti_upd ..) rfl
  exact IrqRises.ite (fun _ => IrqRises.refl s) fun _ => (hcount.trans (logErr_rises ..)).step (putSpad_upd ..) rfl

theorem ceWindow_rises (p : Nat) (s : State) : IrqRises s (ceWindow p s) := by
  unfold ceWindow
  extract_lets w n fire s1
  have h1 : IrqRises s s1 := IrqRises.of_regs rfl
  exact IrqRises.ite (fun _ => h1.trans (logErr_rises ..)) fun _ => h1

theorem writeWordSp_rises (g w : Nat) (part : SMap Byte) (poison : Bool) (s : State) : IrqRises s (writeWordSp g w part poison s) := by
  unfold writeWordSp
  extract_lets whole look base new s1 s2 s3
  have h1 : IrqRises s s1 := IrqRises.ite (fun _ => IrqRises.of_upd (supersede_upd ..) rfl) fun _ => IrqRises.refl s
  have h2 : IrqRises s s2 := by
    have hcount : IrqRises s (counti 0x2028 .fltCeOde (spdPage g) 1 s1) := h1.step (counti_upd ..) rfl
    unfold s2
    cases look with
    | clean | poison => exact h1
    | corrected d => exact IrqRises.ite (fun _ => h1) fun _ => hcount.trans (ceWindow_rises ..)
    | ue => exact IrqRises.ite (fun _ => h1) fun _ => (h1.trans (spadUe_rises g w s1)).step (supersede_upd ..) rfl
  have h3 : IrqRises s s3 := h2.step (sealWord_upd ..) rfl
  exact IrqRises.ite (fun _ => h3.step (poisonWord_upd ..) rfl) fun _ => h3

theorem writeBanks_rises (g off : Nat) (bytes : List (Byte × Bool)) (s : State) : IrqRises s (writeBanks g off bytes s) :=
  (IrqRises.refl s).foldl fun _ _ => (IrqRises.of_upd (updateBufs_upd ..) rfl).trans (writeWordSp_rises ..)

theorem bufBack_rises (g line : Nat) (s : State) : IrqRises s (bufBack g line s) := by
  unfold bufBack
  split
  next => exact IrqRises.refl s
  next b _ =>
    extract_lets s1 x
    have h1 : IrqRises s s1 := (IrqRises.refl s).foldl fun t d => writeWordSp_rises ..
    exact (h1.step (putSpad_upd ..) rfl).step (count_upd (spdPage g) .spdSlotNarrow 1 _) rfl

theorem spanBack_rises (g : Nat) (e : SbEntry) (s : State) : IrqRises s (spanBack g e s) :=
  (IrqRises.refl s).foldl fun t b => bufBack_rises g b.line t

theorem sbRelease_rises (g q ctx wb : Nat) (p : SbEntry → Bool) (s : State) : IrqRises s (sbRelease g q ctx wb p s) :=
  ((IrqRises.refl s).foldl fun t e => spanBack_rises g e t).step (putSpad_upd ..) rfl

theorem endWork_rises (g c q k : Nat) (st : DStat) (exc detail : Nat) (s : State) : IrqRises s (endWork g c q k st exc detail s) := by
  unfold endWork
  extract_lets s1
  have h1 : IrqRises s s1 := (IrqRises.of_upd (engineFree_upd ..) rfl).step (mapWork_upd ..) rfl
  exact IrqRises.ite (fun _ => ((h1.trans (sbRelease_rises ..)).step (noteFirst_upd ..) rfl).step (haltCtx_upd ..) rfl) fun _ => h1

theorem tmFault_rises (g c q k code operand info entry : Nat) (s : State) : IrqRises s (tmFault g c q k code operand info entry s) := by
  unfold tmFault
  extract_lets p s1 s2
  have h1 : IrqRises s s1 := IrqRises.of_upd (count_upd p .tmvFaults 1 s) rfl
  have h2 : IrqRises s s2 := IrqRises.ite (fun _ => (h1.trans (logErr_rises ..)).trans (raise_rises ..)) fun _ =>
    IrqRises.ite (fun _ => h1.trans (logErr_rises ..)) fun _ => h1
  exact h2.trans (endWork_rises ..)

/-! Remote requests and held signals. -/

theorem remoteFail_rises (p status peer dva : Nat) (s : State) : IrqRises s (remoteFail p status peer dva s) :=
  ((logErr_rises ..).trans (raise_rises ..)).trans (ledger_rises ..)

/-- The scratchpad span of a LOAD is undefined: fresh bytes are written to it. -/
theorem undefineDest_load_rises (g c : Nat) (x : TmBody) (cx : Ctx) (s : State) : IrqRises s (undefineDest g c x cx 0x60 {} 0 [] s) :=
  (IrqRises.of_upd (freshNext_upd s) rfl).trans (writeBanks_rises ..)

theorem reqFail_rises (p : Nat) (r : RemoteReq) (status : Nat) (s : State) : IrqRises s (reqFail p r status s) := by
  unfold reqFail
  extract_lets x s1 s2 cx
  have h2 : IrqRises s s2 := (IrqRises.of_upd (putPort_upd p _ s) rfl).trans (remoteFail_rises ..)
  split
  next => exact h2
  next w _ =>
    extract_lets s3
    have h3 : IrqRises s s3 := IrqRises.ite (fun _ => h2.trans (undefineDest_load_rises ..)) fun _ => h2
    exact h3.trans (tmFault_rises ..)

theorem failRequests_rises (p : Nat) (f : RemoteReq → Bool) (s : State) : IrqRises s (failRequests p f s) :=
  (IrqRises.refl s).foldl fun t r => reqFail_rises p r 0x22 t

theorem orphanSignal_rises (k : Nat) (counter : Bool) (i src : Nat) (s : State) : IrqRises s (orphanSignal k counter i src s) :=
  (raise_rises ..).trans (ledger_rises ..)

theorem orphanHeld_rises (k : Nat) (p : Held → Bool) (s : State) : IrqRises s (orphanHeld k p s) :=
  (IrqRises.of_upd (putSerai_upd k _ s) rfl).foldl fun _ _ => orphanSignal_rises ..

theorem leavePresent_rises (a : Nat) (s : State) : IrqRises s (leavePresent a s) := by
  unfold leavePresent
  extract_lets s1 s2
  have h1 : IrqRises s s1 := (IrqRises.refl s).forUpto fun p t => failRequests_rises ..
  have h2 : IrqRises s s2 := h1.forUpto fun k t => orphanHeld_rises ..
  clear_value s2
  have h3 : IrqRises s { s2 with sourceLost := s2.sourceLost || rd s2 pgEpo .epoSrc = 1 } := h2.trans (IrqRises.of_regs rfl)
  exact IrqRises.ite (fun _ => h3.trans (raise_rises ..)) fun _ => h2

end Sys2Proof.Machine
end

section
/-!
Ports and members of the fabric (R397, R408-R410): what a stored port reads, what consuming and sending a frame changes, and what a change
of an address's state does.
-/

namespace Sys2Proof.Machine

/-! One rule per operation on ports and members. -/

theorem portAt_putPort (p : Nat) (x : Port) (s : State) (q : Nat) : portAt (putPort p x s) q = if q = p then x else portAt s q :=
  SMap.get_set

theorem portAt_putPort_same (p : Nat) (x : Port) (s : State) : portAt (putPort p x s) p = x := SMap.get_set_same

theorem portAt_of_ports {s t : State} (h : t.ports = s.ports) (q : Nat) : portAt t q = portAt s q := by rw [portAt, h, ← portAt]

theorem memberAt_of_members {s t : State} (h : t.members = s.members) (b : Nat) : memberAt t b = memberAt s b := by
  rw [memberAt, h, ← memberAt]

theorem reachOf_of_ports {s t : State} (h : t.ports = s.ports) (q b : Nat) : reachOf t q b = reachOf s q b := by
  rw [reachOf, portAt_of_ports h, ← reachOf]

/-- A stored port that keeps its REACH bits changes none. -/
theorem reachOf_putPort {p : Nat} {x : Port} {s : State} (h : x.reach = (portAt s p).reach) (q b : Nat) :
    reachOf (putPort p x s) q b = reachOf s q b := by
  rw [reachOf, reachOf, portAt_putPort]
  split
  case isTrue hq => rw [h, hq]
  case isFalse => rfl

theorem reachOf_putReach (p a : Nat) (v : Bool) (s : State) (q b : Nat) :
    reachOf (putReach p a v s) q b = if q = p ∧ b = a then v else reachOf s q b := by
  unfold putReach
  rw [reachOf, portAt_putPort]
  by_cases hq : q = p
  · rw [if_pos hq, SMap.get_set, hq]
    simp only [true_and]
    rfl
  · rw [if_neg hq, if_neg fun h => hq h.1]
    rfl

/-- The port after its oldest frame of a VC is taken, with its credits. -/
theorem portAt_consume (p vc : Nat) (f : List Byte) (s : State) :
    portAt (consume p vc f s) p =
      { portAt s p with rx := setAt [] (portAt s p).rx vc (((portAt s p).rx.getD vc []).drop 1)
                        ret := setAt 0 (portAt s p).ret vc ((portAt s p).ret.getD vc 0 + f.length / 32) } := by
  simp only [consume, returnCredits, portAt_putPort_same]

theorem portAt_sendFrame (p vc : Nat) (f : List Byte) (s : State) (q : Nat) :
    portAt (sendFrame p vc f s) q =
      if q = p then { portAt s p with tx := setAt [] (portAt s p).tx vc ((portAt s p).tx.getD vc [] ++ [f]) } else portAt s q :=
  portAt_putPort ..

theorem sendFrame_tx (p vc : Nat) (f : List Byte) (s : State) :
    (portAt (sendFrame p vc f s) p).tx.getD vc [] = (portAt s p).tx.getD vc [] ++ [f] := by
  rw [portAt_sendFrame, if_pos rfl, setAt_getD, if_pos rfl]

theorem reachOf_sendFrame (p vc : Nat) (f : List Byte) (s : State) (q b : Nat) : reachOf (sendFrame p vc f s) q b = reachOf s q b :=
  reachOf_putPort (by rfl) q b

theorem sendMember_answer {type : Nat} (h : type ≠ 0x30) (p dst : Nat) (bcast : Bool) (s : State) :
    sendMember p type dst bcast s = sendFrame p 3 (memberFrame type dst bcast s) s := if_neg h

/-- A member frame other than HELLO depends on the device's own address alone. -/
theorem memberFrame_congr {s t : State} {type : Nat} (h : type ≠ 0x30) (ha : selfAddr t = selfAddr s) (dst : Nat) (bcast : Bool) :
    memberFrame type dst bcast t = memberFrame type dst bcast s := by
  simp only [memberFrame, ha, if_neg h]

/-! The end of PRESENT keeps every REACH bit: a request that fails leaves its port's other fields. -/

theorem reachOf_reqFail (p : Nat) (r : RemoteReq) (status : Nat) (s : State) (q b : Nat) : reachOf (reqFail p r status s) q b = reachOf s q b := by
  unfold reqFail
  extract_lets x s1 s2 cx
  have h1 : reachOf s1 q b = reachOf s q b := reachOf_putPort (by rfl) q b
  have h2 : reachOf s2 q b = reachOf s q b := (reachOf_of_ports ((remoteFail_upd ..).same .ports rfl) q b).trans h1
  clear_value s2
  split
  next => exact h2
  next w _ =>
    extract_lets s3
    have h3 : reachOf s3 q b = reachOf s2 q b := by
      unfold s3
      split
      · exact reachOf_of_ports ((undefineDest_upd ..).same .ports rfl) q b
      · rfl
    exact (reachOf_of_ports ((tmFault_upd ..).same .ports rfl) q b).trans (h3.trans h2)

theorem reachOf_leavePresent (a : Nat) (s : State) (q b : Nat) : reachOf (leavePresent a s) q b = reachOf s q b := by
  have hfail : ∀ (p : Nat) (f : RemoteReq → Bool) (t : State), reachOf (failRequests p f t) q b = reachOf t q b := fun p f t =>
    foldl_keeps (Q := fun u => reachOf u q b = reachOf t q b) rfl fun u r hu => (reachOf_reqFail ..).trans hu
  unfold leavePresent
  extract_lets s1 s2
  have h1 : reachOf s1 q b = reachOf s q b :=
    foldl_keeps (Q := fun u => reachOf u q b = reachOf s q b) rfl fun u p hu => (hfail ..).trans hu
  have h2 : reachOf s2 q b = reachOf s q b :=
    foldl_keeps (Q := fun u => reachOf u q b = reachOf s q b) h1 fun u k hu =>
      (reachOf_of_ports ((orphanHeld_upd ..).same .ports rfl) q b).trans hu
  clear_value s2
  split
  · exact (reachOf_of_ports ((raise_upd ..).same .ports rfl) q b).trans h2
  · exact h2

/-! A change of an address's state. -/

section SetMember

variable (p a st id : Nat) (s : State)

/-- The state after the member is stored, its MGEN count, ledger record and interrupts, before what the end of PRESENT does. -/
def noteMember (p a st id : Nat) (s : State) : State :=
  let was := (memberAt s a).st
  let s := { s with members := SMap.set (fun _ => {}) s.members a { st := st, id := id } }
  let s := wr (portPage p) .evlMgen (rd s (portPage p) .evlMgen + 1) s
  let s := ledger (portPage p) (if st = 2 then 0x83 else 0x82) (a + st * 2 ^ 16 + p * 2 ^ 24) s
  let s := if st = 2 then raise (portPage p) 18 s else s
  if st = 1 || was = 1 then raise (portPage p) 17 s else s

theorem setMember_eq {p a st : Nat} {s : State} (h : (memberAt s a).st ≠ st) (id : Nat) :
    setMember p a st id s = if (memberAt s a).st = 1 then leavePresent a (noteMember p a st id s) else noteMember p a st id s :=
  if_neg h

theorem setMember_eq_same {p a st : Nat} {s : State} (h : (memberAt s a).st = st) (id : Nat) :
    setMember p a st id s = { s with members := SMap.set (fun _ => {}) s.members a { st := st, id := id } } :=
  if_pos h

theorem noteMember_upd : Upd [.outbox, .regIrq, .regErr, .regLdg, .regMcs, .regFlt, .regEvl, .ldgSeq, .ldgLost, .dram, .dramChk, .chans,
    .units, .snoop, .biWait, .servedBytes, .members] s (noteMember p a st id s) := by
  unfold noteMember
  extract_lets was s1 s2 s3 s4
  have h1 : Upd [.outbox, .regIrq, .regErr, .regLdg, .regMcs, .regFlt, .regEvl, .ldgSeq, .ldgLost, .dram, .dramChk, .chans,
      .units, .snoop, .biWait, .servedBytes, .members] s s1 := (Upd.refl s).set_members rfl fun h => SMap.wf_set h.members
  have h3 := (h1.step (n := [.regEvl]) rfl (wr_upd (portPage p) .evlMgen _ s1)).step rfl
    (ledger_upd (portPage p) (if st = 2 then 0x83 else 0x82) (a + st * 2 ^ 16 + p * 2 ^ 24) s2)
  have h4 := Upd.ite (c := st = 2) (fun _ => h3.step rfl (raise_upd (portPage p) 18 s3)) fun _ => h3
  exact Upd.ite (fun _ => h4.step rfl (raise_upd ..)) fun _ => h4

theorem memberAt_noteMember (b : Nat) : memberAt (noteMember p a st id s) b = if b = a then ⟨st, id⟩ else memberAt s b := by
  unfold noteMember
  extract_lets was s1 s2 s3 s4
  have h1 : memberAt s1 b = if b = a then ⟨st, id⟩ else memberAt s b := SMap.get_set
  have h3 : memberAt s3 b = memberAt s1 b :=
    memberAt_of_members ((ledger_upd (portPage p) (if st = 2 then 0x83 else 0x82) (a + st * 2 ^ 16 + p * 2 ^ 24) s2).same .members rfl) b
  have h4 : memberAt s4 b = memberAt s3 b := by
    unfold s4
    split
    · exact memberAt_of_members ((raise_upd ..).same .members rfl) b
    · rfl
  clear_value s4
  have h5 : memberAt s4 b = if b = a then ⟨st, id⟩ else memberAt s b := h4.trans (h3.trans h1)
  split
  · exact (memberAt_of_members ((raise_upd ..).same .members rfl) b).trans h5
  · exact h5

theorem memberAt_setMember (b : Nat) : memberAt (setMember p a st id s) b = if b = a then ⟨st, id⟩ else memberAt s b := by
  by_cases h : (memberAt s a).st = st
  · rw [setMember_eq_same h]
    exact SMap.get_set
  · rw [setMember_eq h]
    split
    · exact (memberAt_of_members ((leavePresent_upd ..).same .members rfl) b).trans (memberAt_noteMember ..)
    · exact memberAt_noteMember ..

theorem memberAt_setMember_same : memberAt (setMember p a st id s) a = ⟨st, id⟩ := (memberAt_setMember ..).trans (if_pos rfl)

theorem memberAt_setMember_other {b : Nat} (h : b ≠ a) : memberAt (setMember p a st id s) b = memberAt s b :=
  (memberAt_setMember ..).trans (if_neg h)

theorem reachOf_setMember (q b : Nat) : reachOf (setMember p a st id s) q b = reachOf s q b := by
  have hnote : reachOf (noteMember p a st id s) q b = reachOf s q b := reachOf_of_ports ((noteMember_upd p a st id s).same .ports rfl) q b
  by_cases h : (memberAt s a).st = st
  · rw [setMember_eq_same h]
    rfl
  · rw [setMember_eq h]
    split
    · exact (reachOf_leavePresent ..).trans hnote
    · exact hnote

/-- An address that was not PRESENT changes without touching the ports. -/
theorem setMember_ports {p a st : Nat} {s : State} (h : (memberAt s a).st ≠ 1) (id : Nat) : (setMember p a st id s).ports = s.ports := by
  by_cases hst : (memberAt s a).st = st
  · rw [setMember_eq_same hst]
  · rw [setMember_eq hst, if_neg h]
    exact (noteMember_upd p a st id s).same .ports rfl

/-- Of the port pages only MGEN changes. -/
theorem rdi_setMember {f : Fld} (hf : f.part = .regEvl) (hm : f ≠ .evlMgen) (q i : Nat) :
    rdi (setMember p a st id s) q f i = rdi s q f i := by
  have hnote : rdi (noteMember p a st id s) q f i = rdi s q f i := by
    unfold noteMember
    extract_lets was s1 s2 s3 s4
    have h2 : rdi s2 q f i = rdi s q f i := rdi_wr_fld hm ..
    have h3 : rdi s3 q f i = rdi s2 q f i :=
      (ledger_upd (portPage p) (if st = 2 then 0x83 else 0x82) (a + st * 2 ^ 16 + p * 2 ^ 24) s2).same .regEvl rfl q f i hf
    have h4 : rdi s4 q f i = rdi s3 q f i := by
      unfold s4
      split
      · exact (raise_upd ..).same .regEvl rfl q f i hf
      · rfl
    clear_value s4
    have h5 : rdi s4 q f i = rdi s q f i := h4.trans (h3.trans h2)
    split
    · exact ((raise_upd ..).same .regEvl rfl q f i hf).trans h5
    · exact h5
  by_cases h : (memberAt s a).st = st
  · rw [setMember_eq_same h]
    rfl
  · rw [setMember_eq h]
    split
    · exact ((leavePresent_upd ..).same .regEvl rfl q f i hf).trans hnote
    · exact hnote

/-- The causes that the change raises are still set after what follows it. -/
theorem bit_setMember {p a st : Nat} {s : State} (h : (memberAt s a).st ≠ st) (id : Nat) {k : Nat} (hk : k < 32)
    (hnote : bit (rd (noteMember p a st id s) (portPage p) .hdrIrqStat) k = 1) :
    bit (rd (setMember p a st id s) (portPage p) .hdrIrqStat) k = 1 := by
  rw [setMember_eq h]
  split
  · exact (leavePresent_rises a _).keeps _ k hk hnote
  · exact hnote

/-- A change to or from PRESENT raises the membership cause. -/
theorem bit_setMember_present {p a st : Nat} {s : State} (h : (memberAt s a).st ≠ st) (hst : st = 1 ∨ (memberAt s a).st = 1) (id : Nat) :
    bit (rd (setMember p a st id s) (portPage p) .hdrIrqStat) 17 = 1 := by
  refine bit_setMember h id (by decide) ?_
  unfold noteMember
  extract_lets was s1 s2 s3 s4
  rw [if_pos (by simpa using hst)]
  exact bit_rd_raise (by decide) _ s4

/-- A change to CONFLICT raises the conflict cause. -/
theorem bit_setMember_conflict {p a : Nat} {s : State} (h : (memberAt s a).st ≠ 2) (id : Nat) :
    bit (rd (setMember p a 2 id s) (portPage p) .hdrIrqStat) 18 = 1 := by
  refine bit_setMember h id (by decide) ?_
  unfold noteMember
  extract_lets was s1 s2 s3 s4
  have h4 : bit (rd s4 (portPage p) .hdrIrqStat) 18 = 1 := bit_rd_raise (by decide) _ s3
  clear_value s4
  split
  · exact (raise_rises ..).keeps _ _ (by decide) h4
  · exact h4

/-- The device's own address, and whether it speaks, do not change. -/
theorem selfAddr_setMember : selfAddr (setMember p a st id s) = selfAddr s := rdi_setMember _ _ _ _ _ rfl (by decide) _ _

theorem speaks_setMember : speaks (setMember p a st id s) = speaks s := by
  have hleft : (setMember p a st id s).left = s.left := (setMember_upd p a st id s).same .left rfl
  have hen : rd (setMember p a st id s) (portPage 0) .evlMbrEn = rd s (portPage 0) .evlMbrEn := rdi_setMember _ _ _ _ _ rfl (by decide) _ _
  have hvalid : rd (setMember p a st id s) (portPage 0) .evlSelfValid = rd s (portPage 0) .evlSelfValid :=
    rdi_setMember _ _ _ _ _ rfl (by decide) _ _
  rw [speaks, hen, hvalid, hleft, speaks]

end SetMember

end Sys2Proof.Machine
end

section
/-!
O51: membership of the fabric (R387, R408-R410).
-/

namespace Sys2Proof.Machine

theorem fieldAt_mod (f : List Byte) (off hi lo : Nat) : fieldAt f off hi lo % 2 ^ (hi + 1 - lo) = fieldAt f off hi lo := Nat.mod_mod ..

/-! HELLO. -/

/-- The partner's registers after its HELLO `f`. -/
def partnerKnown (p : Nat) (f : List Byte) (s : State) : State :=
  wr (portPage p) .evlPartnerId (fieldAt f 32 63 0)
    (wr (portPage p) .evlPartnerAddr (fieldAt f 32 75 64) (wr (portPage p) .evlPartnerFwd (fieldAt f 32 80 80) (consume p 3 f s)))

theorem exec_hello {p : Nat} {f : List Byte} {s : State} (hf : mgmtFrame s p 0x30 = some f) (hst : portState s p = 2) :
    exec (.hello p) s = .next (putPort p { portAt (partnerKnown p f s) p with hello := true } (partnerKnown p f s)) := by
  have hst' : portState (consume p 3 f s) p = 2 := hst
  show execHello p s = _
  unfold execHello
  rw [hf]
  dsimp only
  rw [if_neg (by rw [hst']; decide)]
  rfl

theorem hello_learns {p : Nat} {f : List Byte} {s : State} (hf : mgmtFrame s p 0x30 = some f) (hst : portState s p = 2) :
    ∃ t, exec (.hello p) s = .next t ∧ (portAt t p).hello = true ∧ rd t (portPage p) .evlPartnerId = fieldAt f 32 63 0 ∧
      rd t (portPage p) .evlPartnerAddr = fieldAt f 32 75 64 ∧ rd t (portPage p) .evlPartnerFwd = fieldAt f 32 80 80 ∧
      (portAt t p).rx.getD 3 [] = ((portAt s p).rx.getD 3 []).drop 1 ∧ Only [.regEvl, .ports] s t := by
  have hwr : Upd [.regEvl] (consume p 3 f s) (partnerKnown p f s) :=
    ((Upd.mono rfl (wr_upd ..)).step rfl (wr_upd ..)).step rfl (wr_upd ..)
  have hport : portAt (partnerKnown p f s) p = portAt (consume p 3 f s) p := portAt_of_ports (hwr.same .ports rfl) p
  have hupd : Upd [.regEvl, .ports] s (partnerKnown p f s) := (Upd.mono rfl (consume_upd p 3 f s)).step rfl hwr
  have hid : rd (partnerKnown p f s) (portPage p) .evlPartnerId = fieldAt f 32 63 0 := (rd_wr_same ..).trans (fieldAt_mod ..)
  have haddr : rd (partnerKnown p f s) (portPage p) .evlPartnerAddr = fieldAt f 32 75 64 :=
    (rdi_wr_fld (by decide) ..).trans ((rd_wr_same ..).trans (fieldAt_mod ..))
  have hfwd : rd (partnerKnown p f s) (portPage p) .evlPartnerFwd = fieldAt f 32 80 80 :=
    (rdi_wr_fld (by decide) ..).trans ((rdi_wr_fld (by decide) ..).trans ((rd_wr_same ..).trans (fieldAt_mod ..)))
  have hrx : (portAt (partnerKnown p f s) p).rx.getD 3 [] = ((portAt s p).rx.getD 3 []).drop 1 := by
    rw [hport, portAt_consume]
    exact (setAt_getD ..).trans (if_pos rfl)
  have hexec := exec_hello hf hst
  generalize partnerKnown p f s = q at hexec hport hupd hid haddr hfwd hrx
  have hregs : ∀ (x : Port) (g : Fld), rd (putPort p x q) (portPage p) g = rd q (portPage p) g := fun _ _ => rfl
  refine ⟨_, hexec, ?_, (hregs ..).trans hid, (hregs ..).trans haddr, (hregs ..).trans hfwd, ?_, (hupd.step rfl (putPort_upd ..)).same⟩
  · rw [portAt_putPort_same]
  · rw [portAt_putPort_same, hrx]

/-! JOIN and PRESENT. -/

section Seen

variable {p a : Nat} {s : State}

theorem exec_join {f : List Byte} (hf : mgmtFrame s p 0x31 = some f) :
    exec (.join p) s = .next (let t := memberSeen p (fieldAt f 32 75 64) (fieldAt f 32 63 0) (consume p 3 f s)
      if speaks t && (memberAt t (fieldAt f 32 75 64)).st = 1 then sendMember p 0x32 (fieldAt f 32 75 64) false t else t) := by
  show execJoin p s = _
  unfold execJoin
  rw [hf]

theorem exec_present {f : List Byte} (hf : mgmtFrame s p 0x32 = some f) :
    exec (.present p) s = .next (memberSeen p (fieldAt f 32 75 64) (fieldAt f 32 63 0) (consume p 3 f s)) := by
  show execPresent p s = _
  unfold execPresent
  rw [hf]

/-- What JOIN sends once its address is known. -/
def answered (p type a : Nat) (s : State) : State :=
  if type = 0x31 ∧ speaks s = true ∧ (memberAt s a).st = 1 then sendFrame p 3 (memberFrame 0x32 a false s) s else s

theorem answered_upd (p type a : Nat) (s : State) : Upd [.ports] s (answered p type a s) :=
  Upd.ite (fun _ => Upd.mono rfl (sendFrame_upd ..)) fun _ => Upd.refl s

theorem reachOf_answered (p type a : Nat) (s : State) (q b : Nat) : reachOf (answered p type a s) q b = reachOf s q b := by
  unfold answered
  split
  · exact reachOf_sendFrame ..
  · rfl

/-- JOIN and PRESENT learn the same; JOIN alone is answered. -/
theorem exec_seen {type : Nat} {i : Instr} {f : List Byte} (hi : (i, type) ∈ [(Instr.join p, 0x31), (Instr.present p, 0x32)])
    (hf : mgmtFrame s p type = some f) :
    exec i s = .next (answered p type (fieldAt f 32 75 64) (memberSeen p (fieldAt f 32 75 64) (fieldAt f 32 63 0) (consume p 3 f s))) := by
  simp only [List.mem_cons, Prod.mk.injEq, List.not_mem_nil, or_false] at hi
  rcases hi with ⟨rfl, rfl⟩ | ⟨rfl, rfl⟩
  · rw [exec_join hf]
    refine congrArg Host.Outcome.next ?_
    dsimp only
    generalize memberSeen p (fieldAt f 32 75 64) (fieldAt f 32 63 0) (consume p 3 f s) = t
    rw [sendMember_answer (by decide), answered]
    simp
  · rw [exec_present hf]
    exact congrArg Host.Outcome.next (if_neg (by simp)).symm

section Unseen

variable (hself : rd s (portPage 0) .evlSelfValid = 1 → a ≠ selfAddr s) (id : Nat)

include hself

/-- An address other than the device's own is looked up after its REACH bit is set. -/
theorem memberSeen_foreign :
    ¬(rd (putReach p a true s) (portPage 0) .evlSelfValid = 1 && a = selfAddr (putReach p a true s)) = true := by
  simp only [Bool.and_eq_true, decide_eq_true_eq]
  exact fun h => hself h.1 h.2

theorem memberSeen_unknown (hst : (memberAt s a).st = 0) : memberSeen p a id s = setMember p a 1 id (putReach p a true s) := by
  have hm : (memberAt (putReach p a true s) a).st = 0 := hst
  unfold memberSeen
  dsimp only
  rw [if_neg (memberSeen_foreign hself), hm]
  rfl

theorem memberSeen_known (hst : (memberAt s a).st = 1) :
    memberSeen p a id s =
      if (memberAt s a).id = id then putReach p a true s else setMember p a 2 (memberAt s a).id (putReach p a true s) := by
  have hm : (memberAt (putReach p a true s) a).st = 1 := hst
  unfold memberSeen
  dsimp only
  rw [if_neg (memberSeen_foreign hself), hm]
  rfl

end Unseen

theorem reached_after_seen (f : List Byte) : reachOf (putReach p a true (consume p 3 f s)) p a = true := by
  rw [reachOf_putReach, if_pos ⟨rfl, rfl⟩]

/-- Taking the frame and setting the REACH bit changes ports alone. -/
theorem seen_upd (p a : Nat) (f : List Byte) (s : State) : Upd [.ports] s (putReach p a true (consume p 3 f s)) :=
  (Upd.mono rfl (consume_upd ..)).step rfl (putReach_upd ..)

theorem speaks_congr {s t : State} (hr : ∀ p f i, f.part = .regEvl → rdi t p f i = rdi s p f i) (hl : t.left = s.left) : speaks t = speaks s := by
  rw [speaks, rd, rd, hr _ .evlMbrEn 0 rfl, hr _ .evlSelfValid 0 rfl, hl, speaks, rd, rd]

theorem seen_tx (f : List Byte) : (portAt (putReach p a true (consume p 3 f s)) p).tx = (portAt s p).tx := by
  rw [putReach, portAt_putPort_same, portAt_consume]

variable {type id : Nat} {i : Instr} {f : List Byte} (hi : (i, type) ∈ [(Instr.join p, 0x31), (Instr.present p, 0x32)])
  (hf : mgmtFrame s p type = some f) (ha : a = fieldAt f 32 75 64) (hid : id = fieldAt f 32 63 0)
  (hself : rd s (portPage 0) .evlSelfValid = 1 → a ≠ selfAddr s)

include hi hf ha hid hself

theorem seen_unknown (hst : (memberAt s a).st = 0) :
    ∃ t, exec i s = .next t ∧ memberAt t a = ⟨1, id⟩ ∧ reachOf t p a = true ∧ bit (rd t (portPage p) .hdrIrqStat) 17 = 1 ∧
      (∀ b, b ≠ a → memberAt t b = memberAt s b) ∧
      (type = 0x31 → speaks s = true → (portAt t p).tx.getD 3 [] = (portAt s p).tx.getD 3 [] ++ [memberFrame 0x32 a false s]) := by
  have hseen := memberSeen_unknown (p := p) (s := consume p 3 f s) hself id hst
  have hexec := exec_seen hi hf
  rw [← ha, ← hid, hseen] at hexec
  have hreach := reached_after_seen (p := p) (a := a) (s := s) f
  have htx := seen_tx (p := p) (a := a) (s := s) f
  have hupd := seen_upd p a f s
  generalize putReach p a true (consume p 3 f s) = q at hexec hreach htx hupd
  have hmem : ∀ b, memberAt q b = memberAt s b := memberAt_of_members (hupd.same .members rfl)
  have hspeaks : speaks q = speaks s := speaks_congr (hupd.same .regEvl rfl) (hupd.same .left rfl)
  have haddr : selfAddr q = selfAddr s := hupd.same .regEvl rfl _ .evlSelfAddr 0 rfl
  have hq0 : (memberAt q a).st = 0 := by rw [hmem, hst]
  have hports := setMember_ports (p := p) (st := 1) (show (memberAt q a).st ≠ 1 by rw [hq0]; decide) id
  have hset := memberAt_setMember_same p a 1 id q
  refine ⟨_, hexec, ?_, ?_, ?_, fun b hb => ?_, fun htype hsp => ?_⟩
  · exact (memberAt_of_members ((answered_upd ..).same .members rfl) a).trans hset
  · exact (reachOf_answered ..).trans ((reachOf_setMember ..).trans hreach)
  · have hirq := bit_setMember_present (p := p) (a := a) (st := 1) (s := q) (by rw [hq0]; decide) (.inl rfl) id
    have hsame : rd (answered p type a (setMember p a 1 id q)) (portPage p) .hdrIrqStat =
        rd (setMember p a 1 id q) (portPage p) .hdrIrqStat := (answered_upd ..).same .regIrq rfl _ _ _ rfl
    rwa [hsame]
  · exact (memberAt_of_members ((answered_upd ..).same .members rfl) b).trans ((memberAt_setMember_other _ _ _ _ _ hb).trans (hmem b))
  · rw [answered, if_pos ⟨htype, by rw [speaks_setMember, hspeaks, hsp], by rw [hset]⟩, sendFrame_tx, portAt_of_ports hports, htx,
      memberFrame_congr (by decide) ((selfAddr_setMember ..).trans haddr)]

theorem seen_again (hst : (memberAt s a).st = 1) (hsame : (memberAt s a).id = id) :
    ∃ t, exec i s = .next t ∧ t.members = s.members ∧ reachOf t p a = true := by
  have hseen := (memberSeen_known (p := p) (s := consume p 3 f s) hself id hst).trans (if_pos hsame)
  have hexec := exec_seen hi hf
  rw [← ha, ← hid, hseen] at hexec
  have hreach := reached_after_seen (p := p) (a := a) (s := s) f
  have hmem : (putReach p a true (consume p 3 f s)).members = s.members := (seen_upd p a f s).same .members rfl
  generalize putReach p a true (consume p 3 f s) = q at hexec hreach hmem
  have hans : (answered p type a q).members = q.members := (answered_upd ..).same .members rfl
  exact ⟨_, hexec, hans.trans hmem, (reachOf_answered ..).trans hreach⟩

theorem seen_conflict (hst : (memberAt s a).st = 1) (hne : (memberAt s a).id ≠ id) :
    ∃ t, exec i s = .next t ∧ memberAt t a = ⟨2, (memberAt s a).id⟩ ∧
      bit (rd t (portPage p) .hdrIrqStat) 18 = 1 ∧ ∀ b, b ≠ a → memberAt t b = memberAt s b := by
  have hseen := (memberSeen_known (p := p) (s := consume p 3 f s) hself id hst).trans (if_neg hne)
  have hexec := exec_seen hi hf
  rw [← ha, ← hid, hseen] at hexec
  have hupd := seen_upd p a f s
  have hheld : memberAt (consume p 3 f s) a = memberAt s a := memberAt_of_members ((consume_upd ..).same .members rfl) a
  rw [hheld] at hexec
  generalize putReach p a true (consume p 3 f s) = q at hexec hupd
  have hmem : ∀ b, memberAt q b = memberAt s b := memberAt_of_members (hupd.same .members rfl)
  have hirq := bit_setMember_conflict (p := p) (a := a) (s := q) (by rw [hmem, hst]; decide) (memberAt s a).id
  refine ⟨_, hexec, ?_, ?_, fun b hb => ?_⟩
  · exact (memberAt_of_members ((answered_upd ..).same .members rfl) a).trans (memberAt_setMember_same ..)
  · have hsame : rd (answered p type a (setMember p a 2 (memberAt s a).id q)) (portPage p) .hdrIrqStat =
        rd (setMember p a 2 (memberAt s a).id q) (portPage p) .hdrIrqStat := (answered_upd ..).same .regIrq rfl _ _ _ rfl
    rwa [hsame]
  · exact (memberAt_of_members ((answered_upd ..).same .members rfl) b).trans ((memberAt_setMember_other _ _ _ _ _ hb).trans (hmem b))

end Seen

end Sys2Proof.Machine
end

section
/-!
O51, continued: an address leaves, the device speaks, it takes an address of its own; and the obligation.
-/

namespace Sys2Proof.Machine

/-! LEAVE, the REACH timeout and MBR_CLEAR. -/

theorem leave_absent {p a : Nat} {f : List Byte} {s : State} (hf : mgmtFrame s p 0x33 = some f) (ha : a = fieldAt f 32 75 64)
    (hst : (memberAt s a).st = 1 ∨ (memberAt s a).st = 2) :
    ∃ t, exec (.leave p) s = .next t ∧ memberAt t a = ⟨0, 0⟩ ∧ reachOf t p a = false ∧ ∀ b, b ≠ a → memberAt t b = memberAt s b := by
  have hexec : exec (.leave p) s = .next (if (memberAt (putReach p a false (consume p 3 f s)) a).st = 1 ||
      (memberAt (putReach p a false (consume p 3 f s)) a).st = 2 then setMember p a 0 0 (putReach p a false (consume p 3 f s))
      else putReach p a false (consume p 3 f s)) := by
    show execLeave p s = _
    unfold execLeave
    rw [hf, ha]
  have hupd : Upd [.ports] s (putReach p a false (consume p 3 f s)) := (Upd.mono rfl (consume_upd ..)).step rfl (putReach_upd ..)
  have hreach : reachOf (putReach p a false (consume p 3 f s)) p a = false := (reachOf_putReach ..).trans (if_pos ⟨rfl, rfl⟩)
  generalize putReach p a false (consume p 3 f s) = q at hexec hupd hreach
  have hmem : ∀ b, memberAt q b = memberAt s b := memberAt_of_members (hupd.same .members rfl)
  rw [if_pos (by simpa [hmem] using hst)] at hexec
  exact ⟨_, hexec, memberAt_setMember_same .., (reachOf_setMember ..).trans hreach,
    fun b hb => (memberAt_setMember_other _ _ _ _ _ hb).trans (hmem b)⟩

theorem exec_reachTimeout (p a : Nat) (s : State) :
    exec (.reachTimeout p a) s = .next (if (memberAt s a).st = 1 && !reached (putReach p a false s) a then
      setMember p a 0 0 (putReach p a false s) else putReach p a false s) := rfl

theorem reached_iff (s : State) (a : Nat) : reached s a = true ↔ ∃ o < 32, reachOf s o a = true := by
  simp [reached]

theorem reachOf_timeout (p a : Nat) (s : State) (o : Nat) :
    reachOf (putReach p a false s) o a = true ↔ o ≠ p ∧ reachOf s o a = true := by
  rw [reachOf_putReach]
  by_cases h : o = p <;> simp [h]

theorem reachTimeout_kept {p a : Nat} {s : State} (h : ∃ o, o < 32 ∧ o ≠ p ∧ reachOf s o a = true) :
    ∃ t, exec (.reachTimeout p a) s = .next t ∧ reachOf t p a = false ∧ t.members = s.members := by
  obtain ⟨o, ho, hne, hr⟩ := h
  have hreached : reached (putReach p a false s) a = true := (reached_iff ..).2 ⟨o, ho, (reachOf_timeout ..).2 ⟨hne, hr⟩⟩
  refine ⟨putReach p a false s, ?_, (reachOf_putReach ..).trans (if_pos ⟨rfl, rfl⟩), rfl⟩
  rw [exec_reachTimeout, hreached, if_neg (by simp)]

theorem reachTimeout_absent {p a : Nat} {s : State} (hst : (memberAt s a).st = 1) (h : ∀ o, o < 32 → o ≠ p → reachOf s o a = false) :
    ∃ t, exec (.reachTimeout p a) s = .next t ∧ reachOf t p a = false ∧ memberAt t a = ⟨0, 0⟩ ∧ ∀ b, b ≠ a → memberAt t b = memberAt s b := by
  have hreached : reached (putReach p a false s) a = false := by
    rw [Bool.eq_false_iff, ne_eq, reached_iff]
    rintro ⟨o, ho, hr⟩
    obtain ⟨hne, hr⟩ := (reachOf_timeout ..).1 hr
    exact Bool.noConfusion (hr.symm.trans (h o ho hne))
  have hexec := exec_reachTimeout p a s
  rw [hreached, if_pos (by simpa using hst)] at hexec
  exact ⟨_, hexec, (reachOf_setMember ..).trans ((reachOf_putReach ..).trans (if_pos ⟨rfl, rfl⟩)), memberAt_setMember_same ..,
    fun b hb => memberAt_setMember_other _ _ _ _ _ hb⟩

theorem mbrClear_clears {p : Nat} {s : State} (hr : unitReachable s (portUnit p) = true)
    (hst : (memberAt s (rd s (portPage p) .evlMbrSel)).st = 2) :
    ∃ t, exec (.mbrClear p) s = .next t ∧ memberAt t (rd s (portPage p) .evlMbrSel) = ⟨0, 0⟩ ∧
      ∀ b, b ≠ rd s (portPage p) .evlMbrSel → memberAt t b = memberAt s b := by
  refine ⟨setMember p (rd s (portPage p) .evlMbrSel) 0 0 s, ?_, memberAt_setMember_same .., fun b hb => memberAt_setMember_other _ _ _ _ _ hb⟩
  show Host.Outcome.next (hostWrites (portUnit p) (mbrClear p) s) = _
  rw [hostWrites, if_pos hr, mbrClear, if_pos hst]

/-! A frame to every port that flows. -/

theorem portFlows_of_regs {s t : State} (h : t.regs = s.regs) (p : Nat) : portFlows t p = portFlows s p := by
  rw [portFlows, portState, rd, rdi_of_regs h, portFlows, portState, rd]

/-- The frame is sent on the ports of a list that flow, each once. -/
theorem sendOn_spec {type : Nat} (ht : type ≠ 0x30) (l : List Nat) (s : State) (hl : l.Nodup) :
    let t := l.foldl (fun t p => if portFlows t p then sendMember p type 0 true t else t) s
    t.regs = s.regs ∧ ∀ p, (portAt t p).tx.getD 3 [] =
      (portAt s p).tx.getD 3 [] ++ (if p ∈ l ∧ portFlows s p = true then [memberFrame type 0 true s] else []) := by
  induction l generalizing s with
  | nil => exact ⟨rfl, fun p => by simp⟩
  | cons q l ih =>
    obtain ⟨hq, hl⟩ := List.nodup_cons.1 hl
    rw [List.foldl_cons]
    generalize hu : (if portFlows s q then sendMember q type 0 true s else s) = u
    have hregs : u.regs = s.regs := by
      rw [← hu]
      split
      · rw [sendMember_answer ht]
        rfl
      · rfl
    have hframe : memberFrame type 0 true u = memberFrame type 0 true s := memberFrame_congr ht (rdi_of_regs hregs ..) 0 true
    have htx : ∀ p, (portAt u p).tx.getD 3 [] =
        (portAt s p).tx.getD 3 [] ++ (if p = q ∧ portFlows s p = true then [memberFrame type 0 true s] else []) := by
      intro p
      rw [← hu]
      by_cases hp : p = q
      · subst hp
        split
        case isTrue hf => rw [sendMember_answer ht, sendFrame_tx, if_pos ⟨rfl, hf⟩]
        case isFalse hf => rw [if_neg fun h => hf h.2, List.append_nil]
      · have hnone : (if p = q ∧ portFlows s p = true then [memberFrame type 0 true s] else []) = [] := if_neg fun h => hp h.1
        rw [hnone, List.append_nil]
        split
        · rw [sendMember_answer ht, portAt_sendFrame, if_neg hp]
        · rfl
    obtain ⟨hr, hrest⟩ := ih u hl
    refine ⟨hr.trans hregs, fun p => ?_⟩
    rw [hrest p, htx p, hframe, portFlows_of_regs hregs, List.append_assoc]
    by_cases hp : p = q
    · subst hp
      simp [hq]
    · simp [hp]

theorem sendAll_tx {type : Nat} (ht : type ≠ 0x30) {p : Nat} (hp : p < 32) (s : State) :
    (portAt (sendAll type s) p).tx.getD 3 [] =
      (portAt s p).tx.getD 3 [] ++ (if portFlows s p = true then [memberFrame type 0 true s] else []) := by
  have hspec := (sendOn_spec ht (List.range 32) s List.nodup_range).2 p
  simp only [List.mem_range, hp, true_and] at hspec
  exact hspec

theorem exec_presentTimer (s : State) : exec .presentTimer s = .next (if speaks s then sendAll 0x32 s else s) := rfl

theorem exec_mbrLeave (s : State) : exec .mbrLeave s = .next (if speaks s then { sendAll 0x33 s with left := true } else s) := rfl

theorem spoken {type : Nat} {i : Instr} {s : State} (hi : (i, type) ∈ [(Instr.presentTimer, 0x32), (Instr.mbrLeave, 0x33)])
    (hs : speaks s = true) :
    ∃ t, exec i s = .next t ∧ (type = 0x33 → t.left = true) ∧ (type = 0x32 → t.left = s.left) ∧
      (∀ p, p < 32 → (portAt t p).tx.getD 3 [] = (portAt s p).tx.getD 3 [] ++ (if portFlows s p = true then [memberFrame type 0 true s] else [])) ∧
      t.members = s.members := by
  simp only [List.mem_cons, Prod.mk.injEq, List.not_mem_nil, or_false] at hi
  rcases hi with ⟨rfl, rfl⟩ | ⟨rfl, rfl⟩
  · have hupd := sendAll_upd 0x32 s
    have htx := fun p hp => sendAll_tx (type := 0x32) (by decide) (p := p) hp s
    have hexec := (exec_presentTimer s).trans (congrArg Host.Outcome.next (if_pos hs))
    generalize sendAll 0x32 s = q at hupd htx hexec
    exact ⟨q, hexec, fun h => absurd h (by decide), fun _ => hupd.same .left rfl, htx, hupd.same .members rfl⟩
  · have hupd := sendAll_upd 0x33 s
    have htx := fun p hp => sendAll_tx (type := 0x33) (by decide) (p := p) hp s
    have hexec := (exec_mbrLeave s).trans (congrArg Host.Outcome.next (if_pos hs))
    generalize sendAll 0x33 s = q at hupd htx hexec
    exact ⟨_, hexec, fun _ => rfl, fun h => absurd h (by decide), htx, hupd.same .members rfl⟩

theorem silent {type : Nat} {i : Instr} {s : State} (hi : (i, type) ∈ [(Instr.presentTimer, 0x32), (Instr.mbrLeave, 0x33)])
    (hs : speaks s = false) : exec i s = .next s := by
  have hno : ¬speaks s = true := by simp [hs]
  simp only [List.mem_cons, Prod.mk.injEq, List.not_mem_nil, or_false] at hi
  rcases hi with ⟨rfl, -⟩ | ⟨rfl, -⟩
  · exact (exec_presentTimer s).trans (congrArg Host.Outcome.next (if_neg hno))
  · exact (exec_mbrLeave s).trans (congrArg Host.Outcome.next (if_neg hno))

/-! The device's own address. -/

theorem exec_selfAddrWrite {p v : Nat} {s : State} (hv : v < 4096) (hr : unitReachable s (portUnit p) = true) :
    exec (.selfAddrWrite p v) s = .next (selfAddrWrite p v s) := by
  show Host.Outcome.next (hostWrites (portUnit p) (selfAddrWrite p (v % 4096)) s) = _
  rw [hostWrites, if_pos hr, Nat.mod_eq_of_lt hv]

/-- The state in which the device takes address `v`: its old one, where it had it, is ABSENT. -/
def oldAddrLeft (p v : Nat) (s : State) : State :=
  if rd s (portPage p) .evlSelfValid = 1 && selfAddr s != v && (memberAt s (selfAddr s)).st = 3 then setMember p (selfAddr s) 0 0 s else s

theorem selfAddrWrite_unlocked {p : Nat} {s : State} (h : rd s (portPage p) .hdrLocked = 0) (v : Nat) :
    selfAddrWrite p v s =
      setMember p v 3 devId (wr (portPage p) .evlSelfAddr v (wr (portPage p) .evlSelfValid 1 (oldAddrLeft p v s))) :=
  if_neg (by rw [h]; decide)

theorem memberAt_oldAddrLeft {p v b : Nat} {s : State} (h : b ≠ selfAddr s) : memberAt (oldAddrLeft p v s) b = memberAt s b := by
  unfold oldAddrLeft
  split
  · exact memberAt_setMember_other _ _ _ _ _ h
  · rfl

theorem selfAddr_taken {p v : Nat} {s : State} (hv : v < 4096) (hr : unitReachable s (portUnit p) = true)
    (hlock : rd s (portPage p) .hdrLocked = 0) :
    ∃ t, exec (.selfAddrWrite p v) s = .next t ∧ selfAddr t = v ∧ rd t (portPage 0) .evlSelfValid = 1 ∧
      memberAt t v = ⟨3, devId⟩ ∧ ∀ b, b ≠ v → b ≠ selfAddr s → memberAt t b = memberAt s b := by
  have hold := fun b (hb : b ≠ selfAddr s) => memberAt_oldAddrLeft (p := p) (v := v) hb
  have hexec := (exec_selfAddrWrite hv hr).trans (congrArg Host.Outcome.next (selfAddrWrite_unlocked hlock v))
  generalize oldAddrLeft p v s = q at hexec hold
  refine ⟨_, hexec, ?_, ?_, memberAt_setMember_same .., fun b hb hs => (memberAt_setMember_other _ _ _ _ _ hb).trans (hold b hs)⟩
  · rw [selfAddr_setMember, selfAddr, rd, wr, rdi_wri, if_pos ⟨rfl, rfl, rfl⟩]
    exact Nat.mod_eq_of_lt hv
  · rw [rd, rdi_setMember _ _ _ _ _ rfl (by decide), rdi_wr_fld (by decide), wr, rdi_wri, if_pos ⟨rfl, rfl, rfl⟩]
    rfl

theorem selfAddr_locked {p v : Nat} {s : State} (hv : v < 4096) (hr : unitReachable s (portUnit p) = true)
    (hlock : rd s (portPage p) .hdrLocked = 1) (hne : v ≠ selfAddr s) :
    exec (.selfAddrWrite p v) s = .next (wr (portPage p) .hdrLockViolation 1 s) := by
  have hlocked : selfAddrWrite p v s = if v = selfAddr s then s else wr (portPage p) .hdrLockViolation 1 s := if_pos hlock
  rw [exec_selfAddrWrite hv hr, hlocked, if_neg hne]

/-- Settles O51: every clause is one change of an address's state, or of none, around the consuming and sending of member frames. -/
theorem membership : Obligations.Membership := by
  refine ⟨fun p pg f s _ hpg hf hst => ?hello, fun p type a id i f s _ _ hi hf ha hid hself => ⟨fun h0 => ?unknown, fun h1 hsame => ?again,
      fun h1 hne => ?conflict⟩, fun p a f s _ _ hf ha hst => leave_absent hf ha hst,
    fun type i s hi => ⟨fun hs => spoken hi hs, fun hs => silent hi hs⟩,
    fun p a s _ _ => ⟨fun h => reachTimeout_kept h, fun hst h => reachTimeout_absent hst h⟩,
    fun p v s _ _ hv hr => ⟨fun hlock => selfAddr_taken hv hr hlock, fun hlock hne => selfAddr_locked hv hr hlock hne⟩,
    fun p s _ _ hr hst => mbrClear_clears hr hst⟩
  case hello => exact hpg ▸ hello_learns hf hst
  case unknown => exact seen_unknown hi hf ha hid hself h0
  case again => exact seen_again hi hf ha hid hself h1 hsame
  case conflict => exact seen_conflict hi hf ha hid hself h1 hne

end Sys2Proof.Machine
end

section
/-!
Ordinary accesses of a quiet column (R335, R360, R370): the bytes that a stored column reads, what a write lays over them, and that an
access changes nothing on which serving another column depends.
-/

namespace Sys2Proof.Machine

/-! Stored bytes and check segments. -/

theorem dramByteAt_putDram (a : Nat) (b : Byte) (s : State) (x : Nat) : dramByteAt (putDram a b s) x = if x = a then b else dramByteAt s x :=
  SMap.get_set

theorem colChk_putDramChk (c : Nat) (v : Option Nat) (s : State) (e : Nat) : colChk (putDramChk c v s) e = if e = c then v else colChk s e :=
  SMap.get_set

theorem dramByteAt_of_dram {s t : State} (h : t.dram = s.dram) (hg : t.memGens = s.memGens) (x : Nat) : dramByteAt t x = dramByteAt s x := by
  rw [dramByteAt, h, hg, ← dramByteAt]

theorem colChk_of_dramChk {s t : State} (h : t.dramChk = s.dramChk) (c : Nat) : colChk t c = colChk s c := by rw [colChk, h, ← colChk]

theorem colBytes_of_dram {s t : State} (h : t.dram = s.dram) (hg : t.memGens = s.memGens) (c : Nat) : colBytes t c = colBytes s c := by
  simp only [colBytes, dramByteAt_of_dram h hg]

theorem colBytes_getD {i : Nat} (h : i < 32) (s : State) (c : Nat) (d : Byte) : (colBytes s c).getD i d = dramByteAt s (c * 32 + i) := by
  simp [colBytes, List.getD, h]

theorem dramByteAt_foldl_putDram (data : List Byte) (b k : Nat) (s : State) (x : Nat) :
    dramByteAt ((data.zipIdx k).foldl (fun t e => putDram (b + e.2) e.1 t) s) x =
      if b + k ≤ x ∧ x < b + k + data.length then data.getD (x - (b + k)) 0 else dramByteAt s x := by
  induction data generalizing k s with
  | nil => simp
  | cons v data ih =>
    rw [List.zipIdx_cons, List.foldl_cons, ih, dramByteAt_putDram]
    rcases Nat.lt_trichotomy x (b + k) with h | h | h
    · rw [if_neg (by omega), if_neg (by omega), if_neg (by omega)]
    · have hz : x - (b + k) = 0 := by omega
      rw [if_neg (by omega), if_pos h, if_pos ⟨by omega, by simp; omega⟩, hz, List.getD_cons_zero]
    · obtain ⟨n, hn⟩ : ∃ n, x - (b + k) = n + 1 := ⟨x - (b + k) - 1, by omega⟩
      have hn' : x - (b + (k + 1)) = n := by omega
      rw [hn, hn', List.getD_cons_succ, if_neg (by omega : ¬x = b + k)]
      refine if_congr ?_ rfl rfl
      simp only [List.length_cons]
      omega

/-- A column after its 32 bytes are stored. -/
theorem dramByteAt_putColData {data : List Byte} (h : data.length = 32) (c : Nat) (s : State) (x : Nat) :
    dramByteAt (putColData c data s) x = if x / 32 = c then data.getD (x % 32) 0 else dramByteAt s x := by
  have hput := dramByteAt_foldl_putDram data (c * 32) 0 s x
  rw [putColData, hput, h]
  by_cases hx : x / 32 = c
  · have hplace : x - (c * 32 + 0) = x % 32 := by omega
    rw [if_pos hx, if_pos (by omega), hplace]
  · rw [if_neg hx, if_neg (by omega)]

theorem storeCol_dram {data : List Byte} (h : data.length = 32) (c : Nat) (poison : Bool) (s : State) (x : Nat) :
    dramByteAt (storeCol c data poison s) x = if x / 32 = c then data.getD (x % 32) 0 else dramByteAt s x := by
  have hdrop := dropRowSets_upd c s
  have hbytes : ∀ x, dramByteAt (dropRowSets c s) x = dramByteAt s x := dramByteAt_of_dram (hdrop.same .dram rfl) (hdrop.same .memGens rfl)
  have hput : dramByteAt (putColData c data (dropRowSets c s)) x = if x / 32 = c then data.getD (x % 32) 0 else dramByteAt s x := by
    rw [dramByteAt_putColData h, hbytes]
  unfold storeCol
  dsimp only
  split
  · exact hput
  · exact hput

theorem storeCol_chk (c : Nat) (data : List Byte) (poison : Bool) (s : State) (e : Nat) :
    colChk (storeCol c data poison s) e = if e = c then (if poison then some (segOf data segPoison) else none) else colChk s e := by
  have hdrop := dropRowSets_upd c s
  have hput := putColData_upd c data (dropRowSets c s)
  have hchk : colChk (putColData c data (dropRowSets c s)) e = colChk s e :=
    (colChk_of_dramChk (hput.same .dramChk rfl) e).trans (colChk_of_dramChk (hdrop.same .dramChk rfl) e)
  unfold storeCol
  dsimp only
  split
  case isTrue hp => rw [poisonCol, colChk_putDramChk, hchk]
  case isFalse hp => rw [sealCol, colChk_putDramChk, hchk]

/-! An ordinary access leaves what serving depends on. -/

/-- What of a channel decides whether and when its requests are served. -/
def Chan.serving (x : Chan) : ChState × Bool × HarnessState × List Seq × List RdReq × List WrReq × List LateReq :=
  (x.st, x.recal, x.hm, x.seqs, x.rdq, x.wrq, x.late)

/-- The registers that decide where a column lies and how it is served. -/
def servingFlds : List Fld := [.fltTestMode, .fltTestChan, .mcsBmpMap, .mcsLinMap, .mcsQosMode]

/-- Serving is as before. -/
structure Calm (a b : State) : Prop where
  chan : ∀ ck, (chanAt b ck).serving = (chanAt a ck).serving
  regs : ∀ p f i, f ∈ servingFlds → rdi b p f i = rdi a p f i
  hold : b.stackHold = a.stackHold
  variant : b.variant = a.variant

namespace Calm

variable {a b c : State}

theorem refl (a : State) : Calm a a := ⟨fun _ => rfl, fun _ _ _ _ => rfl, rfl, rfl⟩

theorem trans (h : Calm a b) (h' : Calm b c) : Calm a c :=
  ⟨fun ck => (h'.chan ck).trans (h.chan ck), fun p f i hf => (h'.regs p f i hf).trans (h.regs p f i hf), h'.hold.trans h.hold,
    h'.variant.trans h.variant⟩

theorem of_upd {m : List Part} (h : Upd m a b)
    (hm : m.contains .chans = false ∧ m.contains .regFlt = false ∧ m.contains .regMcs = false ∧ m.contains .stackHold = false ∧
      m.contains .variant = false) : Calm a b := by
  obtain ⟨hchans, hflt, hmcs, hhold, hvar⟩ := hm
  have hc : b.chans = a.chans := h.same .chans hchans
  refine ⟨fun ck => by rw [chanAt, hc, ← chanAt], fun p f i hf => ?_, h.same .stackHold hhold, h.same .variant hvar⟩
  simp only [servingFlds, List.mem_cons, List.not_mem_nil, or_false] at hf
  rcases hf with rfl | rfl | rfl | rfl | rfl
  · exact h.same .regFlt hflt p _ i rfl
  · exact h.same .regFlt hflt p _ i rfl
  · exact h.same .regMcs hmcs p _ i rfl
  · exact h.same .regMcs hmcs p _ i rfl
  · exact h.same .regMcs hmcs p _ i rfl

/-- A register that serving does not depend on. -/
theorem wri {p i v : Nat} {f : Fld} (hf : f ∉ servingFlds) (h : Calm a b) : Calm a (wri p f i v b) :=
  h.trans ⟨fun _ => rfl, fun q g j hg => by
    rw [rdi_wri, if_neg]
    rintro ⟨-, rfl, -⟩
    exact hf hg, rfl, rfl⟩

theorem putChan {ck : Nat} {x : Chan} (hx : x.serving = (chanAt b ck).serving) (h : Calm a b) : Calm a (putChan ck x b) := by
  refine h.trans ⟨fun k => ?_, fun _ _ _ _ => rfl, rfl, rfl⟩
  rw [chanAt, Machine.putChan, SMap.get_set]
  split
  case isTrue hk => rw [hk, hx]
  case isFalse => rfl

theorem foldl {β : Type} {l : List β} {f : State → β → State} (h : Calm a b) (hf : ∀ t x, Calm t (f t x)) : Calm a (l.foldl f b) :=
  foldl_keeps h fun t x ht => ht.trans (hf t x)

theorem testHolds (h : Calm a b) (ck : Nat) : testHolds b ck = testHolds a ck := by
  rw [Machine.testHolds, h.regs _ .fltTestMode _ (by decide), h.regs _ .fltTestChan _ (by decide), Machine.testHolds]

theorem isSideCol (h : Calm a b) (c : Nat) : isSideCol b c = isSideCol a c := by
  rw [Machine.isSideCol, isBitmap, rd, h.regs _ .mcsBmpMap _ (by decide), ← rd, ← isBitmap, ← Machine.isSideCol]

theorem colServes (h : Calm a b) (c : Nat) : colServes b c = colServes a c := by
  have hchan := h.chan
  simp only [Chan.serving, Prod.mk.injEq] at hchan
  obtain ⟨hst, hrecal, hhm, -⟩ := hchan (chanKey c)
  obtain ⟨-, -, -, hseqs, -⟩ := hchan (bankKey c / 32)
  rw [Machine.colServes, chanServes, gangHolds, hst, hrecal, hhm, hseqs, h.hold, h.testHolds, ← gangHolds, ← chanServes, ← Machine.colServes]

end Calm

theorem memQuiet_of_calm {s t : State} {c : Nat} (h : memQuiet s c) (hc : Calm s t) (hk : colChk t c = colChk s c) : memQuiet t c := by
  have hchan := hc.chan (chanKey c)
  simp only [Chan.serving, Prod.mk.injEq] at hchan
  obtain ⟨-, -, -, -, hrdq, hwrq, hlate⟩ := hchan
  refine ⟨(hc.colServes c).trans h.serves, hrdq.trans h.reads, hwrq.trans h.writes, hlate.trans h.late, hk.trans h.sealed,
    (hc.isSideCol c).trans h.plain, ?_⟩
  rw [rd, hc.regs _ .mcsQosMode _ (by decide)]
  exact h.compact

theorem noteCmd_calm (cmd c : Nat) (s : State) : Calm s (noteCmd cmd c s) := Calm.putChan rfl (Calm.refl s)

theorem shutRows_calm (c : Nat) (rows : List Nat) (s : State) : Calm s (shutRows c rows s) := by
  unfold shutRows
  extract_lets t ch
  have ht : Calm s t := (Calm.refl s).foldl fun _ _ => noteCmd_calm ..
  split
  · exact ht
  · exact Calm.putChan rfl ht

theorem openRow_calm (two : Bool) (c : Nat) (s : State) : Calm s (openRow two c s) := by
  unfold openRow
  extract_lets ch mine keep t ch'
  split
  · exact Calm.refl s
  · exact Calm.putChan rfl ((shutRows_calm ..).trans (noteCmd_calm ..))

theorem access_calm (cmd c : Nat) (s : State) : Calm s (access cmd c s) := (openRow_calm ..).trans (noteCmd_calm ..)

theorem chargeAs_calm (full : Bool) (d port n : Nat) (s : State) : Calm s (chargeAs full d port n s) := by
  unfold chargeAs
  extract_lets p b t
  have ht : Calm s t := Calm.wri (by decide) ⟨fun _ => rfl, fun _ _ _ _ => rfl, rfl, rfl⟩
  split
  · exact Calm.wri (by decide) ht
  · exact ht

theorem storeCol_calm (c : Nat) (data : List Byte) (poison : Bool) (s : State) : Calm s (storeCol c data poison s) :=
  Calm.of_upd (storeCol_upd c data poison s) ⟨rfl, rfl, rfl, rfl, rfl⟩

theorem arrayWrite_calm (c : Nat) (data : List Byte) (poison : Bool) (s : State) : Calm s (arrayWrite c data poison s) :=
  (access_calm ..).trans (storeCol_calm ..)

/-- A channel without queued writes loses none. -/
theorem dequeueCol_calm {c : Nat} {s : State} (h : (chanAt s (chanKey c)).wrq = []) : Calm s (dequeueCol c s) := by
  refine Calm.putChan ?_ (Calm.refl s)
  simp only [Chan.serving, h, List.filter_nil]

end Sys2Proof.Machine
end

section
/-!
Reads and writes of a quiet column (R335, R360, R362, R370): a read delivers the stored bytes and changes no column, a write stores its
bytes over them.
-/

namespace Sys2Proof.Machine

/-! The bytes that a request lays over a column. -/

theorem ins_above {α : Type} {m : SMap α} {k : Nat} {v : α} (h : ∀ e ∈ m, e.1 < k) : SMap.ins k v m = m ++ [(k, v)] := by
  induction m with
  | nil => rfl
  | cons e m ih =>
    have he := h e List.mem_cons_self
    rw [SMap.ins, if_neg (by omega), if_neg (by omega), ih fun x hx => h x (List.mem_cons_of_mem _ hx), List.cons_append]

theorem foldl_ins_above {α : Type} {l m : SMap α} (hl : SMap.rising l) (h : ∀ x ∈ m, ∀ e ∈ l, x.1 < e.1) :
    l.foldl (fun m e => SMap.ins e.1 e.2 m) m = m ++ l := by
  induction l generalizing m with
  | nil => simp
  | cons e l ih =>
    obtain ⟨hhead, htail⟩ := List.pairwise_cons.1 hl
    rw [List.foldl_cons, ins_above fun x hx => h x hx e List.mem_cons_self, ih htail, List.append_assoc, List.singleton_append]
    intro x hx y hy
    rcases List.mem_append.1 hx with hx | hx
    · exact h x hx y (List.mem_cons_of_mem _ hy)
    · obtain rfl : x = (e.1, e.2) := by simpa using hx
      exact hhead y hy

/-- A map with 32 keys below 32 has them all, so what lies below it does not matter. -/
theorem get_of_full {α : Type} {m : SMap α} (hr : SMap.rising m) (hb : ∀ e ∈ m, e.1 < 32) (hlen : m.length = 32) {i : Nat} (hi : i < 32)
    (d d' : Nat → α) : SMap.get d m i = SMap.get d' m i := by
  have hsub : (m.map Prod.fst).Subperm (List.range 32) := by
    refine List.subperm_of_subset ((List.pairwise_map.2 hr).imp Nat.ne_of_lt) fun k hk => ?_
    obtain ⟨e, he, rfl⟩ := List.mem_map.1 hk
    exact List.mem_range.2 (hb e he)
  have hperm := hsub.perm_of_length_le (by simp [hlen])
  obtain ⟨e, he, rfl⟩ := List.mem_map.1 (hperm.mem_iff.2 (List.mem_range.2 hi))
  rw [SMap.get_of_mem hr he, SMap.get_of_mem hr he]

theorem mem_colPart {a x : Nat} {bytes : List Byte} {e : Nat × Byte} :
    e ∈ colPart a x bytes ↔ e.1 < 32 ∧ a ≤ x + e.1 ∧ bytes[x + e.1 - a]? = some e.2 := by
  simp only [colPart, List.mem_map, List.mem_filter, Bool.and_eq_true, decide_eq_true_eq]
  constructor
  · rintro ⟨⟨b, k⟩, ⟨hmem, hlo, hhi⟩, rfl⟩
    have hk := List.mk_mem_zipIdx_iff_getElem?.1 hmem
    have hplace : x + (a + k - x) - a = k := by omega
    exact ⟨by omega, by omega, by rw [hplace, hk]⟩
  · rintro ⟨hlt, hle, hget⟩
    exact ⟨(e.2, x + e.1 - a), ⟨List.mk_mem_zipIdx_iff_getElem?.2 hget, by omega, by omega⟩, Prod.ext (by dsimp only; omega) rfl⟩

theorem rising_colPart (a x : Nat) (bytes : List Byte) : SMap.rising (colPart a x bytes) := by
  have hidx : bytes.zipIdx.Pairwise fun e e' => e.2 < e'.2 := by
    have hrange := List.pairwise_lt_range' (s := 0) (n := bytes.length)
    rw [← List.zipIdx_map_snd, List.pairwise_map] at hrange
    exact hrange
  refine List.pairwise_map.2 ((hidx.filter _).imp_of_mem fun {e e'} he he' hlt => ?_)
  obtain ⟨-, he⟩ := List.mem_filter.1 he
  simp only [Bool.and_eq_true, decide_eq_true_eq] at he
  dsimp only
  omega

theorem get_colPart (d : Nat → Byte) (a x : Nat) (bytes : List Byte) {i : Nat} (hi : i < 32) :
    SMap.get d (colPart a x bytes) i = if a ≤ x + i ∧ x + i < a + bytes.length then bytes.getD (x + i - a) 0 else d i := by
  split
  case isTrue h =>
    obtain ⟨hlo, hhi⟩ := h
    have hlt : x + i - a < bytes.length := by omega
    have hmem : (i, bytes[x + i - a]) ∈ colPart a x bytes := mem_colPart.2 ⟨hi, hlo, List.getElem?_eq_getElem hlt⟩
    rw [SMap.get_of_mem (rising_colPart ..) hmem, List.getD_eq_getElem _ _ hlt]
  case isFalse h =>
    refine (SMap.get_cases d _ i).resolve_right fun hmem => ?_
    obtain ⟨-, hlo, hget⟩ := mem_colPart.1 hmem
    obtain ⟨hlt, -⟩ := List.getElem?_eq_some_iff.1 hget
    omega

/-! One column. -/

/-- The parts of the state that serving a quiet column touches beside the column itself. -/
def servingParts : List Part := [.regMcs, .regFlt, .chans, .servedBytes]

theorem colLook_of_sealed {s : State} {c : Nat} (h : colChk s c = none) : colLook s c = ⟨.clean, colBytes s c, 0⟩ := by rw [colLook, h]

theorem countRead_of_sealed {s : State} {c : Nat} (h : colChk s c = none) : countRead .clean c s = s := by
  rw [countRead, stateNear, h]
  rfl

theorem queuedFor_nil {ch : Chan} (h : ch.wrq = []) (c n : Nat) : queuedFor ch c n = {} := by rw [queuedFor, h]; rfl

/-- What serving touches leaves every column as it is. -/
theorem colChk_of_serving {s t : State} (h : Upd servingParts s t) (c : Nat) : colChk t c = colChk s c := colChk_of_dramChk (h.same .dramChk rfl) c

theorem dramByteAt_of_serving {s t : State} (h : Upd servingParts s t) (x : Nat) : dramByteAt t x = dramByteAt s x :=
  dramByteAt_of_dram (h.same .dram rfl) (h.same .memGens rfl) x

theorem colBytes_of_serving {s t : State} (h : Upd servingParts s t) (c : Nat) : colBytes t c = colBytes s c :=
  colBytes_of_dram (h.same .dram rfl) (h.same .memGens rfl) c

theorem memQuiet_of_serving {s t : State} {c : Nat} (h : memQuiet s c) (hc : Calm s t) (hu : Upd servingParts s t) : memQuiet t c :=
  memQuiet_of_calm h hc (colChk_of_serving hu c)

theorem access_serving (cmd c : Nat) (s : State) : Upd servingParts s (access cmd c s) :=
  (Upd.refl s).step rfl (access_upd cmd c s)

/-- A read of a quiet column delivers its bytes. -/
theorem readCol_quiet {s : State} {c : Nat} (h : memQuiet s c) : readCol c s = ((colBytes s c, false), access 0x02 c s) := by
  have hsealed : colChk (access 0x02 c s) c = none := (colChk_of_serving (access_serving ..) c).trans h.sealed
  have hover : WrReq.over {} (colBytes s c) = colBytes s c := by
    refine List.map_congr_left fun i hi => ?_
    exact colBytes_getD (List.mem_range.1 hi) s c 0
  rw [readCol, readColAt, queuedFor_nil h.writes, colLook_of_sealed h.sealed]
  simp only [WrReq.full, List.length_nil, countRead_of_sealed hsealed, hover]
  rfl

/-- A write of a quiet column that serves it reaches the array with its bytes laid over the stored ones. -/
theorem applyWrite_quiet {w : WrReq} {s : State} (hsealed : colChk s w.col = none) (hr : SMap.rising w.data) (hb : ∀ e ∈ w.data, e.1 < 32) :
    ∃ u, Calm s u ∧ Upd servingParts s u ∧ applyWrite w s = arrayWrite w.col (w.over (colBytes s w.col)) w.poison u := by
  obtain ⟨t, ht⟩ : ∃ t, t = if w.scrub then s else chargeAs w.qos.full (stackOfCol w.col) w.port 32 s := ⟨_, rfl⟩
  have hcalm : Calm s t := by
    rw [ht]
    split
    · exact Calm.refl s
    · exact chargeAs_calm ..
  have hupd : Upd servingParts s t := by
    rw [ht]
    split
    · exact Upd.refl s
    · exact (Upd.refl s).step rfl (chargeAs_upd ..)
  rw [applyWrite, ← ht]
  split
  case isTrue hfull =>
    have hover : w.over [] = w.over (colBytes s w.col) :=
      List.map_congr_left fun i hi => get_of_full hr hb (by simpa [WrReq.full] using hfull) (List.mem_range.1 hi) _ _
    exact ⟨t, hcalm, hupd, by rw [hover]⟩
  case isFalse =>
    obtain ⟨u, hu⟩ : ∃ u, u = counti 0x2028 .fltMerges (mcPageOf w.col) 1 (access 0x02 w.col t) := ⟨_, rfl⟩
    have hu' : Upd servingParts s u := by
      rw [hu]
      exact (hupd.step rfl (access_upd ..)).step rfl (counti_upd ..)
    have hcalm' : Calm s u := by
      rw [hu]
      exact Calm.wri (by decide) (hcalm.trans (access_calm ..))
    have hlook : colLook t w.col = ⟨.clean, colBytes s w.col, 0⟩ := by
      rw [colLook_of_sealed ((colChk_of_serving hupd _).trans hsealed), colBytes_of_serving hupd]
    refine ⟨u, hcalm', hu', ?_⟩
    rw [mergeCol, hlook]
    dsimp only
    rw [← hu, countRead_of_sealed ((colChk_of_serving hu' _).trans hsealed)]

theorem writeNow_quiet {s : State} {c : Nat} (h : memQuiet s c) (port : Nat) : writeNow s port c = true := by
  have hmode : rd s (mcOf (stackOfCol c)).page .mcsQosMode = 0 := h.compact
  simp [writeNow, h.serves, h.late, readWaits, h.reads, portOpen, qosOf, hmode]

theorem writeCol_quiet {w : WrReq} {s : State} (h : memQuiet s w.col) (hr : SMap.rising w.data) (hb : ∀ e ∈ w.data, e.1 < 32) :
    ∃ u, Calm s u ∧ Upd servingParts s u ∧ writeCol w s = arrayWrite w.col (w.over (colBytes s w.col)) w.poison u := by
  obtain ⟨v, hv⟩ : ∃ v, v = { w with qos := qosOf s (stackOfCol w.col) w.port } := ⟨_, rfl⟩
  have hjoin : { (WrReq.join {} w) with qos := qosOf s (stackOfCol w.col) w.port } = v := by
    rw [hv, WrReq.join, foldl_ins_above hr (by simp)]
    simp
  have hdeq : Upd servingParts s (dequeueCol w.col s) := (Upd.refl s).step rfl (dequeueCol_upd ..)
  have hcalm : Calm s (dequeueCol w.col s) := dequeueCol_calm h.writes
  have hwrite : writeCol w s = applyWrite v (dequeueCol w.col s) := by
    rw [writeCol, h.plain, writeNow_quiet h]
    dsimp only
    rw [queuedFor_nil h.writes, hjoin]
    rfl
  have hcol : v.col = w.col := by rw [hv]
  have hdata : v.data = w.data := by rw [hv]
  have hover : v.over = w.over := by rw [hv]; rfl
  have hpoison : v.poison = w.poison := by rw [hv]
  obtain ⟨u, hu, hu', heq⟩ := applyWrite_quiet (w := v) (s := dequeueCol w.col s) (by rw [hcol, colChk_of_serving hdeq, h.sealed])
    (by rw [hdata]; exact hr) (by rw [hdata]; exact hb)
  refine ⟨u, hcalm.trans hu, hdeq.step rfl hu', ?_⟩
  rw [hwrite, heq, hcol, hover, hpoison, colBytes_of_serving hdeq]

/-! The host's way to a column. -/

theorem testHolds_of_serves {s : State} {c : Nat} (h : colServes s c = true) : testHolds s (chanKey c) = false := by
  simp only [colServes, chanServes, Bool.and_eq_true, Bool.not_eq_true'] at h
  obtain ⟨⟨⟨-, hholds⟩, -⟩, -⟩ := h
  exact hholds

theorem gangHolds_of_serves {s : State} {c : Nat} (h : colServes s c = true) : gangHolds s (bankKey c) = false := by
  simp only [colServes, Bool.and_eq_true, Bool.not_eq_true'] at h
  exact h.2

theorem colMode_quiet {s : State} {c : Nat} (h : memQuiet s c) : colMode s c = 0 := by
  rw [colMode, testHolds_of_serves h.serves]
  rfl

/-- A host read of a quiet column. -/
theorem hostReadCol_quiet {s : State} {c : Nat} (h : memQuiet s c) :
    ∃ u, Calm s u ∧ Upd servingParts s u ∧ hostReadCol c s = ((colBytes s c, false), u) := by
  obtain ⟨t, ht⟩ : ∃ t, t = charge (stackOfCol c) (spinePortAt s (stackOfCol c)) 32 s := ⟨_, rfl⟩
  have hcalm : Calm s t := ht ▸ chargeAs_calm ..
  have hupd : Upd servingParts s t := ht ▸ (Upd.refl s).step rfl (charge_upd ..)
  have hq : memQuiet t c := memQuiet_of_serving h hcalm hupd
  refine ⟨access 0x02 c t, hcalm.trans (access_calm ..), hupd.step rfl (access_upd ..), ?_⟩
  rw [hostReadCol, ← ht]
  dsimp only
  rw [if_neg (by rw [colMode_quiet hq]; decide), readCol_quiet hq, colBytes_of_serving hupd]

/-- The bytes of column `e` of a host write, as its request. -/
def hostReq (a : Nat) (data : List Byte) (poison : Bool) (s : State) (e : Nat × Nat) : WrReq :=
  { col := e.1, port := spinePortAt s (stackOfCol e.1), data := colPart a e.2 data, poison := poison, mate := isMate a e }

/-- A host write of a quiet column. -/
theorem hostWriteCol_quiet {s : State} {e : Nat × Nat} (h : memQuiet s e.1) (a : Nat) (data : List Byte) (poison : Bool) :
    ∃ u, Calm s u ∧ Upd servingParts s u ∧ hostWriteCol (hostReq a data poison s e) s =
      arrayWrite e.1 ((hostReq a data poison s e).over (colBytes s e.1)) poison u := by
  have hcol : (hostReq a data poison s e).col = e.1 := rfl
  obtain ⟨u, hu, hu', heq⟩ := writeCol_quiet (w := hostReq a data poison s e) h (rising_colPart ..) fun x hx => (mem_colPart.1 hx).1
  refine ⟨u, hu, hu', ?_⟩
  rw [hostWriteCol, hcol, colMode_quiet h]
  exact heq

/-- What a host write of a column leaves: its bytes stored, the other columns as they were, and serving as before. -/
structure ColStored (s : State) (a : Nat) (data : List Byte) (poison : Bool) (e : Nat × Nat) (t : State) : Prop where
  bytes : ∀ x, dramByteAt t x = if x / 32 = e.1 ∧ a ≤ e.2 + x % 32 ∧ e.2 + x % 32 < a + data.length then data.getD (e.2 + x % 32 - a) 0
    else dramByteAt s x
  chk : ∀ k, colChk t k = if k = e.1 ∧ poison = true then some (segOf (colBytes t e.1) segPoison) else colChk s k
  calm : Calm s t
  upd : Upd [.regMcs, .regFlt, .chans, .servedBytes, .dram, .dramChk, .units] s t

theorem hostWriteCol_stored {s : State} {e : Nat × Nat} (h : memQuiet s e.1) (a : Nat) (data : List Byte) (poison : Bool) :
    ColStored s a data poison e (hostWriteCol (hostReq a data poison s e) s) := by
  obtain ⟨u, hcalm, hupd, heq⟩ := hostWriteCol_quiet h a data poison
  have hlen : ((hostReq a data poison s e).over (colBytes s e.1)).length = 32 := by simp [WrReq.over]
  have hget : ∀ i, i < 32 → ((hostReq a data poison s e).over (colBytes s e.1)).getD i 0 =
      if a ≤ e.2 + i ∧ e.2 + i < a + data.length then data.getD (e.2 + i - a) 0 else dramByteAt s (e.1 * 32 + i) := fun i hi => by
    have hbelow : (colBytes s e.1).getD i 0 = dramByteAt s (e.1 * 32 + i) := colBytes_getD hi s e.1 0
    rw [← hbelow, ← get_colPart (fun j => (colBytes s e.1).getD j 0) a e.2 data hi, WrReq.over, List.getD_eq_getElem?_getD,
      List.getElem?_map, List.getElem?_range hi]
    rfl
  have hacc := access_serving 0x03 e.1 u
  rw [heq]
  generalize (hostReq a data poison s e).over (colBytes s e.1) = new at hlen hget
  have hbytes : ∀ x, dramByteAt (arrayWrite e.1 new poison u) x = if x / 32 = e.1 then new.getD (x % 32) 0 else dramByteAt s x := fun x => by
    rw [arrayWrite, storeCol_dram hlen, dramByteAt_of_serving hacc, dramByteAt_of_serving hupd]
  have hnew : colBytes (arrayWrite e.1 new poison u) e.1 = new := by
    refine List.ext_getElem (by simp [colBytes, hlen]) fun i hi hi' => ?_
    have hplace : (e.1 * 32 + i) / 32 = e.1 ∧ (e.1 * 32 + i) % 32 = i := by omega
    rw [← List.getD_eq_getElem _ 0 hi, ← List.getD_eq_getElem _ 0 hi', colBytes_getD (by omega), hbytes, hplace.1, hplace.2, if_pos rfl]
  refine ⟨fun x => ?_, fun k => ?_, hcalm.trans (arrayWrite_calm ..), ?_⟩
  · rw [hbytes]
    by_cases hx : x / 32 = e.1
    · have hplace : e.1 * 32 + x % 32 = x := by omega
      simp only [hx, hget _ (Nat.mod_lt x (by decide : 0 < 32)), hplace, true_and, if_true]
    · rw [if_neg hx, if_neg fun hc => hx hc.1]
  · rw [hnew, arrayWrite, storeCol_chk, colChk_of_serving hacc, colChk_of_serving hupd]
    by_cases hk : k = e.1
    · subst hk
      cases poison
      · simp [h.sealed]
      · simp
    · rw [if_neg hk, if_neg fun hc => hk hc.1]
  · exact ((Upd.refl s).step rfl hupd).step rfl (arrayWrite_upd ..)

end Sys2Proof.Machine
end

section
/-!
Host accesses to spans of DRAM (R48, R285, R438, R439): the columns and the stack of a span, and what a read delivers and a write stores
where every column of the span is quiet.
-/

namespace Sys2Proof.Machine

/-! Placement. -/

theorem bits_congr {v w k hi lo : Nat} (h : v / 2 ^ k = w / 2 ^ k) (hk : k ≤ lo) : bits v hi lo = bits w hi lo := by
  obtain ⟨m, rfl⟩ := Nat.exists_eq_add_of_le hk
  rw [bits, bits, Nat.shiftRight_eq_div_pow, Nat.shiftRight_eq_div_pow, Nat.pow_add, ← Nat.div_div_eq_div_mul, h, Nat.div_div_eq_div_mul]

/-- A column holds its 32 addresses. -/
theorem locate_column (s : State) (a : Nat) : locate s (32 * (a / 32)) = locate s a := by
  have hstack : 32 * (a / 32) / 2 ^ stackBits s.variant = a / 2 ^ stackBits s.variant := by
    cases s.variant <;> simp only [stackBits] <;> omega
  have hoff : 32 * (a / 32) % 2 ^ stackBits s.variant / 2 ^ 5 = a % 2 ^ stackBits s.variant / 2 ^ 5 := by
    cases s.variant <;> simp only [stackBits] <;> omega
  have hblock : 32 * (a / 32) % 2 ^ stackBits s.variant / 2 ^ 30 = a % 2 ^ stackBits s.variant / 2 ^ 30 := by omega
  have hbits : ∀ hi lo, 5 ≤ lo → bits (32 * (a / 32) % 2 ^ stackBits s.variant) hi lo = bits (a % 2 ^ stackBits s.variant) hi lo :=
    fun hi lo h => bits_congr hoff h
  unfold locate
  simp only [hstack, hblock]
  repeat rw [hbits _ _ (by decide)]

/-- The two columns of a 64-byte line are neighbours. -/
theorem locate_next {a : Nat} (h : a % 64 = 0) (s : State) : locate s (a + 32) = locate s a + 1 := by
  have hstack : (a + 32) / 2 ^ stackBits s.variant = a / 2 ^ stackBits s.variant := by
    cases s.variant <;> simp only [stackBits] <;> omega
  have hoff : (a + 32) % 2 ^ stackBits s.variant = a % 2 ^ stackBits s.variant + 32 := by
    cases s.variant <;> simp only [stackBits] <;> omega
  have heven : a % 2 ^ stackBits s.variant % 64 = 0 := by
    cases s.variant <;> simp only [stackBits] <;> omega
  unfold locate
  simp only [hstack, hoff]
  generalize a % 2 ^ stackBits s.variant = o at heven
  have hblock : (o + 32) / 2 ^ 30 = o / 2 ^ 30 := by omega
  have hbits : ∀ hi lo, 6 ≤ lo → bits (o + 32) hi lo = bits o hi lo := fun hi lo h => bits_congr (k := 6) (by omega) h
  have hcol : ∀ hi, 5 ≤ hi → bits (o + 32) hi 5 = bits o hi 5 + 1 := fun hi h => by
    obtain ⟨n, rfl⟩ := Nat.exists_eq_add_of_le h
    have hpow : 2 ^ (5 + n + 1 - 5) = 2 * 2 ^ n := by rw [← Nat.pow_succ']; congr 1; omega
    have hdiv : (o + 32) / 2 ^ 5 = 2 * (o / 64) + 1 := by omega
    have hdiv' : o / 2 ^ 5 = 2 * (o / 64) := by omega
    have hhalf : (2 * (o / 64) + 1) / 2 = o / 64 := by omega
    have hodd : (2 * (o / 64) + 1) % 2 = 1 := by omega
    rw [bits, bits, Nat.shiftRight_eq_div_pow, Nat.shiftRight_eq_div_pow, hdiv, hdiv', hpow, Nat.mul_mod_mul_left, Nat.mod_mul, hhalf, hodd,
      Nat.add_comm]
  simp only [hblock, hcol 9 (by decide), hcol 7 (by decide), hbits 19 10 (by decide), hbits 29 25 (by decide), hbits 24 20 (by decide),
    hbits 12 8 (by decide), hbits 17 13 (by decide), hbits 29 20 (by decide), hbits 19 18 (by decide)]
  split
  · simp only [colNo]
    omega
  · simp only [colNo]
    omega

theorem Calm.locate {s t : State} (h : Calm s t) (a : Nat) : locate t a = Machine.locate s a := by
  have hlin : ∀ d p, isLinear t d p = isLinear s d p := fun d p => by rw [isLinear, rd, h.regs _ .mcsLinMap _ (by decide), ← rd, ← isLinear]
  unfold Machine.locate
  simp only [h.variant, hlin]

theorem colsOf_column {a n : Nat} (hn : 0 < n) (hfit : a % 32 + n ≤ 32) (s : State) : colsOf s a n = [(locate s a, 32 * (a / 32))] := by
  have hone : (a + n - 1) / 32 - a / 32 + 1 = 1 := by omega
  rw [colsOf, if_neg (by omega), hone]
  simp [locate_column]

theorem colsOf_line {a : Nat} (h : a % 64 = 0) (s : State) : colsOf s a 64 = [(locate s a, a), (locate s (a + 32), a + 32)] := by
  have htwo : (a + 64 - 1) / 32 - a / 32 + 1 = 2 := by omega
  have hfirst : 32 * (a / 32) = a := by omega
  have hsecond : 32 * (a / 32 + 1) = a + 32 := by omega
  rw [colsOf, if_neg (by decide), htwo]
  simp [List.range_succ, hfirst, hsecond]

/-- A span within one column or line lies on one stack. -/
theorem stackPieces_single {v : Variant} {a n : Nat} (hn : 0 < n) (hfit : a % 64 + n ≤ 64) : stackPieces v 3 a n = [(a, n)] := by
  have hmin : min n (2 ^ stackBits v - a % 2 ^ stackBits v) = n := by
    cases v <;> simp only [stackBits] <;> omega
  rw [stackPieces, if_neg (by omega)]
  simp only [hmin, Nat.sub_self]
  rfl

/-! The gate of a span on one stack. -/

theorem hostGate_gone {s : State} {a n : Nat} (hn : 0 < n) (hfit : a % 64 + n ≤ 64)
    (h : partState s (partOfStack (a / 2 ^ stackBits s.variant)) = 4) (bar write : Bool) : hostGate s bar a n write = .gone := by
  rw [hostGate, stackPieces_single hn hfit]
  simp [h]

theorem hostGate_held {s : State} {a n : Nat} (hn : 0 < n) (hfit : a % 64 + n ≤ 64)
    (h : partBusy s (partOfStack (a / 2 ^ stackBits s.variant)) = true) (bar write : Bool) : hostGate s bar a n write = .held := by
  have hstate : partState s (partOfStack (a / 2 ^ stackBits s.variant)) ≠ 4 := by
    simp only [partBusy, Bool.or_eq_true, decide_eq_true_eq] at h
    omega
  rw [hostGate, stackPieces_single hn hfit]
  simp [h, hstate]

/-! Reads of quiet columns. -/

theorem noteIdle_quiet {s : State} {cols : List (Nat × Nat)} (h : ∀ e ∈ cols, memQuiet s e.1) : noteIdle cols s = s := by
  have hnone : (cols.filter fun e => gangHolds s (bankKey e.1)) = [] :=
    List.filter_eq_nil_iff.2 fun e he => by simp [gangHolds_of_serves (h e he).serves]
  rw [noteIdle, hnone]
  rfl

theorem readCols_quiet {s : State} {cols : List (Nat × Nat)} (h : ∀ e ∈ cols, memQuiet s e.1) :
    ∃ u, Upd servingParts s u ∧ readCols hostReadCol cols s = (cols.map fun e => (colBytes s e.1, false), u) := by
  induction cols generalizing s with
  | nil => exact ⟨s, Upd.refl s, rfl⟩
  | cons e cols ih =>
    obtain ⟨t, hcalm, hupd, hread⟩ := hostReadCol_quiet (h e List.mem_cons_self)
    obtain ⟨u, hu, hrest⟩ := ih fun x hx => memQuiet_of_serving (h x (List.mem_cons_of_mem _ hx)) hcalm hupd
    refine ⟨u, hupd.step rfl hu, ?_⟩
    simp only [readCols, hread, hrest, colBytes_of_serving hupd, List.map_cons]

/-- A host read whose columns are quiet delivers their bytes, without poison, and changes no column. -/
theorem hostRead_quiet {s : State} {a n : Nat} (h : ∀ e ∈ colsOf s a n, memQuiet s e.1) :
    ∃ u, Upd servingParts s u ∧
      hostRead a n s = (((((colsOf s a n).flatMap fun e => colBytes s e.1).drop (a % 32)).take n, false), u) := by
  obtain ⟨u, hu, hread⟩ := readCols_quiet h
  refine ⟨u, hu, ?_⟩
  rw [hostRead, noteIdle_quiet h, hread]
  simp [List.flatMap_map]

theorem column_bytes {c k n : Nat} (hfit : k + n ≤ 32) (s : State) :
    ((colBytes s c).drop k).take n = (List.range n).map fun i => dramByteAt s (c * 32 + k + i) := by
  refine List.ext_getElem (by simp [colBytes]; omega) fun i hi hi' => ?_
  simp [colBytes, Nat.add_assoc]

theorem hostRead_column {s : State} {a n : Nat} (hn : 0 < n) (hfit : a % 32 + n ≤ 32) (h : memQuiet s (locate s a)) :
    ∃ u, Upd servingParts s u ∧
      hostRead a n s = (((List.range n).map fun i => dramByteAt s (locate s a * 32 + a % 32 + i), false), u) := by
  have hcols := colsOf_column hn hfit s
  obtain ⟨u, hu, hread⟩ := hostRead_quiet (s := s) (a := a) (n := n) (by rw [hcols]; simpa using h)
  refine ⟨u, hu, ?_⟩
  rw [hread, hcols, List.flatMap_singleton, column_bytes hfit]

theorem hostRead_line {s : State} {a : Nat} (ha : a % 64 = 0) (h : memQuiet s (locate s a)) (h' : memQuiet s (locate s (a + 32))) :
    ∃ u, Upd servingParts s u ∧ hostRead a 64 s =
      (((List.range 64).map fun i => dramByteAt s ((if i < 32 then locate s a else locate s (a + 32)) * 32 + i % 32), false), u) := by
  have hcols := colsOf_line ha s
  obtain ⟨u, hu, hread⟩ := hostRead_quiet (s := s) (a := a) (n := 64) (by rw [hcols]; simp [h, h'])
  have hstart : a % 32 = 0 := by omega
  refine ⟨u, hu, ?_⟩
  rw [hread, hcols, hstart]
  rfl

/-! Writes of quiet columns. -/

theorem hostStore_column {s : State} {a : Nat} {data : List Byte} (hn : data ≠ []) (hfit : a % 32 + data.length ≤ 32)
    (h : memQuiet s (locate s a)) (poison : Bool) :
    ColStored s a data poison (locate s a, 32 * (a / 32)) (hostStore a data poison s) := by
  have hcols := colsOf_column (List.length_pos_iff.2 hn) hfit s
  have hstore : hostStore a data poison s = hostWriteCol (hostReq a data poison s (locate s a, 32 * (a / 32))) s := by
    rw [hostStore, hcols]
    rfl
  rw [hstore]
  exact hostWriteCol_stored h a data poison

/-- What a column holds after a write within it. -/
theorem ColStored.stored {s t : State} {a : Nat} {data : List Byte} {poison : Bool} {c : Nat}
    (h : ColStored s a data poison (c, 32 * (a / 32)) t) (hfit : a % 32 + data.length ≤ 32) {i : Nat} (hi : i < data.length) :
    dramByteAt t (c * 32 + a % 32 + i) = data.getD i 0 := by
  have hplace : 32 * (a / 32) + (c * 32 + a % 32 + i) % 32 - a = i := by omega
  rw [h.bytes, hplace, if_pos (by dsimp only; omega)]

theorem ColStored.kept {s t : State} {a : Nat} {data : List Byte} {poison : Bool} {c : Nat}
    (h : ColStored s a data poison (c, 32 * (a / 32)) t) {x : Nat} (hx : x < c * 32 + a % 32 ∨ c * 32 + a % 32 + data.length ≤ x) :
    dramByteAt t x = dramByteAt s x := by
  rw [h.bytes, if_neg (by dsimp only; omega)]

theorem ColStored.sealed {s t : State} {a : Nat} {data : List Byte} {e : Nat × Nat} (h : ColStored s a data false e t) (k : Nat) :
    colChk t k = colChk s k := by
  rw [h.chk]
  exact if_neg fun hc => Bool.false_ne_true hc.2

/-- What a host write of a line leaves where both its columns are quiet. -/
structure LineStored (s : State) (a : Nat) (data : List Byte) (t : State) : Prop where
  bytes : ∀ i, i < 64 → dramByteAt t ((if i < 32 then locate s a else locate s (a + 32)) * 32 + i % 32) = data.getD i 0
  kept : ∀ x, x / 32 ≠ locate s a → x / 32 ≠ locate s (a + 32) → dramByteAt t x = dramByteAt s x
  chk : ∀ k, colChk t k = colChk s k
  upd : Upd [.regMcs, .regFlt, .chans, .servedBytes, .dram, .dramChk, .units] s t

theorem hostStore_line {s : State} {a : Nat} {data : List Byte} (ha : a % 64 = 0) (hlen : data.length = 64) (h : memQuiet s (locate s a))
    (h' : memQuiet s (locate s (a + 32))) : LineStored s a data (hostStore a data false s) := by
  have hnext := locate_next ha s
  have hfirst := hostWriteCol_stored h a data false (e := (locate s a, a))
  obtain ⟨t, ht⟩ : ∃ t, t = hostWriteCol (hostReq a data false s (locate s a, a)) s := ⟨_, rfl⟩
  rw [← ht] at hfirst
  have hsecond := hostWriteCol_stored (memQuiet_of_calm h' hfirst.calm (hfirst.sealed _)) a data false (e := (locate s (a + 32), a + 32))
  have hstore : hostStore a data false s = hostWriteCol (hostReq a data false t (locate s (a + 32), a + 32)) t := by
    rw [hostStore, hlen, colsOf_line ha, ht]
    rfl
  rw [hstore]
  refine ⟨fun i hi => ?_, fun x hc hd => ?_, fun k => (hsecond.sealed k).trans (hfirst.sealed k), hfirst.upd.step rfl hsecond.upd⟩
  · rw [hsecond.bytes, hfirst.bytes, hlen]
    by_cases hlow : i < 32
    · have hplace : a + (locate s a * 32 + i % 32) % 32 - a = i := by omega
      rw [if_pos hlow, if_neg (by dsimp only; omega), if_pos (by dsimp only; omega), hplace]
    · have hplace : a + 32 + (locate s (a + 32) * 32 + i % 32) % 32 - a = i := by omega
      rw [if_neg hlow, if_pos (by dsimp only; omega), hplace]
  · rw [hsecond.bytes, hfirst.bytes, if_neg fun hx => hd hx.1, if_neg fun hx => hc hx.1]

end Sys2Proof.Machine
end

section
/-!
The host's accesses (R48, R369, R438, R439, R444, R455, R479): what the memory BAR and CXL.mem answer, case by case, and the snoop
filter.
-/

namespace Sys2Proof.Machine

/-! The memory BAR, by what the access meets. -/

theorem exec_membarRead (dpa len : Nat) (s : State) : exec (.membarRead dpa len) s =
    .next (if pstate s = 3 then emit .unsupported s else memLoad (regionOf s.variant dpa) dpa len s) := rfl

theorem exec_membarWrite (dpa : Nat) (data : List Byte) (poison : Bool) (s : State) : exec (.membarWrite dpa data poison) s =
    .next (if pstate s = 3 then badAccess 1 dpa s else memStore (regionOf s.variant dpa) dpa data poison s) := rfl

/-- The memory BAR reaches DRAM: the device runs and the whole span is populated. -/
structure BarReaches (s : State) (dpa len : Nat) : Prop where
  region : regionOf s.variant dpa = .dram
  within : inDram s.variant dpa len = true
  running : pstate s ≠ 3

theorem membarRead_dram {s : State} {dpa len : Nat} (h : BarReaches s dpa len) :
    exec (.membarRead dpa len) s = .next (dramLoad dpa len s) := by
  rw [exec_membarRead, if_neg h.running, h.region, memLoad, if_pos h.within]

theorem membarWrite_dram {s : State} {dpa : Nat} {data : List Byte} (h : BarReaches s dpa data.length) (poison : Bool) :
    exec (.membarWrite dpa data poison) s = .next (dramStore dpa data poison s) := by
  rw [exec_membarWrite, if_neg h.running, h.region, memStore, if_pos h.within]

theorem membarRead_quiet {s : State} {dpa len : Nat} (h : BarReaches s dpa len) (hn : 0 < len) (hfit : dpa % 32 + len ≤ 32)
    (hgate : hostGate s true dpa len false = .go) (hq : memQuiet s (locate s dpa)) :
    ∃ t, exec (.membarRead dpa len) s = .next t ∧
      t.outbox = s.outbox ++ [.memData ((List.range len).map fun i => dramByteAt s (locate s dpa * 32 + dpa % 32 + i)) false] ∧
      t.dram = s.dram ∧ t.dramChk = s.dramChk ∧ t.snoop = s.snoop := by
  obtain ⟨u, hu, hread⟩ := hostRead_column hn hfit hq
  have hout : u.outbox = s.outbox := hu.same .outbox rfl
  refine ⟨_, (membarRead_dram h).trans (by rw [dramLoad, hgate]), ?_⟩
  rw [hread]
  exact ⟨congrArg (· ++ _) hout, hu.same .dram rfl, hu.same .dramChk rfl, hu.same .snoop rfl⟩

theorem membarWrite_quiet {s : State} {dpa : Nat} {data : List Byte} (h : BarReaches s dpa data.length) (hn : data ≠ [])
    (hfit : dpa % 32 + data.length ≤ 32) (hgate : hostGate s true dpa data.length true = .go) (hq : memQuiet s (locate s dpa))
    (poison : Bool) :
    ∃ t, exec (.membarWrite dpa data poison) s = .next t ∧ ColStored s dpa data poison (locate s dpa, 32 * (dpa / 32)) t :=
  ⟨_, (membarWrite_dram h poison).trans (by rw [dramStore, hgate]), hostStore_column hn hfit hq poison⟩

theorem snoopLines_single {s : State} {line : Nat} (h : line ∈ s.snoop) (h' : line ∉ s.biWait) :
    snoopLines [line] s = { s with biWait := s.biWait ++ [line], outbox := s.outbox ++ [.backInvalidate line] } := by
  rw [snoopLines, List.foldl_cons, List.foldl_nil, backInvalidate, if_pos (by simp [h, h'])]
  rfl

theorem poisonedAnswer_answers (n : Nat) (s : State) : ∃ bs, (poisonedAnswer n s).outbox = s.outbox ++ [.memData bs true] ∧
    (poisonedAnswer n s).dram = s.dram ∧ RegsBut [] s (poisonedAnswer n s) :=
  ⟨leBytes n (freshVal s), rfl, rfl, RegsBut.of_regs rfl⟩

/-! CXL.mem, by what the access meets. -/

theorem exec_cxlMemRead_undecoded {s : State} {link dpa : Nat} (h : hdmDecodes s link (dpa / 64) = false) (keeps : Bool) :
    exec (.cxlMemRead link dpa keeps) s = .next s := by
  change execCxlMemRead link dpa keeps s = _
  rw [execCxlMemRead, h]
  rfl

theorem exec_cxlMemWrite_undecoded {s : State} {link dpa : Nat} (h : hdmDecodes s link (dpa / 64) = false) (data : List Byte)
    (poison keeps : Bool) : exec (.cxlMemWrite link dpa data poison keeps) s = .next s := by
  change execCxlMemWrite link dpa data poison keeps s = _
  rw [execCxlMemWrite, h]
  rfl

theorem exec_cxlMemRead_outside {s : State} {link dpa : Nat} (h : hdmDecodes s link (dpa / 64) = true)
    (h' : inDram s.variant (64 * (dpa / 64)) 64 = false) (keeps : Bool) :
    exec (.cxlMemRead link dpa keeps) s = .next (emit .unsupported s) := by
  change execCxlMemRead link dpa keeps s = _
  rw [execCxlMemRead, hdmReaches, h, h']
  rfl

theorem exec_cxlMemWrite_outside {s : State} {link dpa : Nat} (h : hdmDecodes s link (dpa / 64) = true)
    (h' : inDram s.variant (64 * (dpa / 64)) 64 = false) (data : List Byte) (poison keeps : Bool) :
    exec (.cxlMemWrite link dpa data poison keeps) s = .next (badAccess 2 (64 * (dpa / 64)) s) := by
  change execCxlMemWrite link dpa data poison keeps s = _
  rw [execCxlMemWrite, hdmReaches, h, h']
  rfl

theorem hdmDecodes_of_reaches {s : State} {link line : Nat} (h : hdmReaches s link line = true) : hdmDecodes s link line = true := by
  rw [hdmReaches, Bool.and_eq_true] at h
  exact h.1

theorem exec_cxlMemRead_off {s : State} {link dpa : Nat} (h : hdmReaches s link (dpa / 64) = true) (h' : pstate s = 3) (keeps : Bool) :
    exec (.cxlMemRead link dpa keeps) s = .next (poisonedAnswer 64 s) := by
  change execCxlMemRead link dpa keeps s = _
  rw [execCxlMemRead, hdmDecodes_of_reaches h, h, if_pos h']
  rfl

theorem exec_cxlMemWrite_off {s : State} {link dpa : Nat} (h : hdmReaches s link (dpa / 64) = true) (h' : pstate s = 3) (data : List Byte)
    (poison keeps : Bool) : exec (.cxlMemWrite link dpa data poison keeps) s = .next (badAccess 1 (64 * (dpa / 64)) s) := by
  change execCxlMemWrite link dpa data poison keeps s = _
  rw [execCxlMemWrite, hdmDecodes_of_reaches h, h, if_pos h']
  rfl

theorem exec_cxlMemRead_go {s : State} {link dpa : Nat} {keeps : Bool} (h : hdmReaches s link (dpa / 64) = true) (h' : pstate s ≠ 3)
    (hroom : keeps = true → snoopFull s (dpa / 64) = false) (hgate : hostGate s false (64 * (dpa / 64)) 64 false = .go) :
    exec (.cxlMemRead link dpa keeps) s =
      (let r := hostRead (64 * (dpa / 64)) 64 (if keeps then snoopAdd (dpa / 64) s else s)
      .next (emit (.memData r.1.1 r.1.2) r.2)) := by
  change execCxlMemRead link dpa keeps s = _
  have hroom' : (keeps && snoopFull s (dpa / 64)) = false := by
    cases keeps
    · rfl
    · rw [hroom rfl]; rfl
  rw [execCxlMemRead, hdmDecodes_of_reaches h, h, if_neg h', hgate, hroom']
  rfl

/-- What a served CXL.mem write leaves of the snoop filter (R439). -/
def snoopWritten (line : Nat) (keeps : Bool) (s : State) : State :=
  if keeps then snoopAdd line s else if s.biWait.contains line then s else { s with snoop := s.snoop.filter (· != line) }

theorem exec_cxlMemWrite_go {s : State} {link dpa : Nat} {data : List Byte} (h : hdmReaches s link (dpa / 64) = true) (h' : pstate s ≠ 3)
    (hgate : hostGate s false (64 * (dpa / 64)) 64 true = .go) (hlen : data.length = 64) (keeps : Bool) :
    exec (.cxlMemWrite link dpa data false keeps) s =
      .next (snoopWritten (dpa / 64) keeps (hostStore (64 * (dpa / 64)) data false s)) := by
  have hslice : slice data 0 64 = data := by
    have htake : (data.drop 0).take 64 = data := List.take_of_length_le (by rw [List.drop_zero]; omega)
    rw [slice, htake, hlen]
    exact List.append_nil data
  change execCxlMemWrite link dpa data false keeps s = _
  rw [execCxlMemWrite, hdmDecodes_of_reaches h, h, if_neg h', hgate, hslice]
  rfl

/-! The snoop filter. -/

theorem mem_snoopAdd {line l : Nat} {s : State} : l ∈ (snoopAdd line s).snoop ↔ l ∈ s.snoop ∨ l = line := by
  unfold snoopAdd
  split
  case isTrue h =>
    refine ⟨.inl, ?_⟩
    rintro (hl | rfl)
    · exact hl
    · exact List.contains_iff_mem.1 h
  case isFalse => simp

theorem snoopWritten_fields (line : Nat) (keeps : Bool) (s : State) : (snoopWritten line keeps s).dram = s.dram ∧
    (snoopWritten line keeps s).memGens = s.memGens ∧ (snoopWritten line keeps s).dramChk = s.dramChk ∧
    (snoopWritten line keeps s).outbox = s.outbox := by
  unfold snoopWritten
  split
  · have hupd := snoopAdd_upd line s
    exact ⟨hupd.same .dram rfl, hupd.same .memGens rfl, hupd.same .dramChk rfl, hupd.same .outbox rfl⟩
  · split
    · exact ⟨rfl, rfl, rfl, rfl⟩
    · exact ⟨rfl, rfl, rfl, rfl⟩

theorem mem_snoopWritten_same {line : Nat} {s : State} : line ∈ (snoopWritten line true s).snoop := mem_snoopAdd.2 (.inr rfl)

theorem not_mem_snoopWritten {line : Nat} {s : State} (h : line ∉ s.biWait) : line ∉ (snoopWritten line false s).snoop := by
  rw [snoopWritten, if_neg (by decide), if_neg (by simpa using h)]
  simp

theorem mem_snoopWritten_other {line l : Nat} (h : l ≠ line) (keeps : Bool) (s : State) :
    l ∈ (snoopWritten line keeps s).snoop ↔ l ∈ s.snoop := by
  unfold snoopWritten
  split
  · simp [mem_snoopAdd, h]
  · split
    · rfl
    · simp [h]

theorem exec_backInvalidateDone (line : Nat) (s : State) : exec (.backInvalidateDone line) s =
    .next (if s.biWait.contains line then
      { s with snoop := s.snoop.filter (· != line), biWait := s.biWait.filter (· != line) }
    else s) := rfl

theorem exec_cxlSnoop (link : Nat) (s : State) : exec (.cxlSnoop link) s = .next (if linkState s link = 3 then emit .rspI s else s) := rfl

/-! A served access of a line. -/

theorem cxlMemRead_quiet {s : State} {link dpa : Nat} {keeps : Bool} (h : hdmReaches s link (dpa / 64) = true) (h' : pstate s ≠ 3)
    (hq : memQuiet s (locate s (64 * (dpa / 64)))) (hq' : memQuiet s (locate s (64 * (dpa / 64) + 32)))
    (hroom : keeps = true → snoopFull s (dpa / 64) = false) (hgate : hostGate s false (64 * (dpa / 64)) 64 false = .go) :
    ∃ t, exec (.cxlMemRead link dpa keeps) s = .next t ∧
      t.outbox = s.outbox ++ [.memData ((List.range 64).map fun i => dramByteAt s
        ((if i < 32 then locate s (64 * (dpa / 64)) else locate s (64 * (dpa / 64) + 32)) * 32 + i % 32)) false] ∧
      t.dram = s.dram ∧ t.dramChk = s.dramChk ∧ (keeps = true → dpa / 64 ∈ t.snoop) ∧ (keeps = false → t.snoop = s.snoop) ∧
      (∀ l, l ≠ dpa / 64 → (l ∈ t.snoop ↔ l ∈ s.snoop)) := by
  obtain ⟨v, hv⟩ : ∃ v, v = if keeps then snoopAdd (dpa / 64) s else s := ⟨_, rfl⟩
  have hupd : Upd [.snoop] s v := by
    rw [hv]
    split
    · exact snoopAdd_upd ..
    · exact Upd.refl s
  have hcalm : Calm s v := Calm.of_upd hupd ⟨rfl, rfl, rfl, rfl, rfl⟩
  have hchk : ∀ c, colChk v c = colChk s c := colChk_of_dramChk (hupd.same .dramChk rfl)
  have hbyte : ∀ x, dramByteAt v x = dramByteAt s x := dramByteAt_of_dram (hupd.same .dram rfl) (hupd.same .memGens rfl)
  obtain ⟨u, hu, hread⟩ := hostRead_line (s := v) (a := 64 * (dpa / 64)) (by omega)
    (by rw [hcalm.locate]; exact memQuiet_of_calm hq hcalm (hchk _)) (by rw [hcalm.locate]; exact memQuiet_of_calm hq' hcalm (hchk _))
  simp only [hcalm.locate, hbyte] at hread
  have hout : u.outbox = s.outbox := Eq.trans (hu.same .outbox rfl) (hupd.same .outbox rfl)
  have hdram : u.dram = s.dram := Eq.trans (hu.same .dram rfl) (hupd.same .dram rfl)
  have hseg : u.dramChk = s.dramChk := Eq.trans (hu.same .dramChk rfl) (hupd.same .dramChk rfl)
  have hsnoop : u.snoop = v.snoop := hu.same .snoop rfl
  refine ⟨_, exec_cxlMemRead_go h h' hroom hgate, ?_⟩
  rw [← hv, hread]
  refine ⟨congrArg (· ++ _) hout, hdram, hseg, fun hk => ?_, fun hk => ?_, fun l hl => ?_⟩
  · change _ ∈ u.snoop
    rw [hsnoop, hv, if_pos hk]
    exact mem_snoopAdd.2 (.inr rfl)
  · refine hsnoop.trans ?_
    rw [hv, hk]
    rfl
  · change _ ∈ u.snoop ↔ _
    rw [hsnoop, hv]
    split
    · simp [mem_snoopAdd, hl]
    · rfl

theorem cxlMemWrite_quiet {s : State} {link dpa : Nat} {data : List Byte} (h : hdmReaches s link (dpa / 64) = true) (h' : pstate s ≠ 3)
    (hq : memQuiet s (locate s (64 * (dpa / 64)))) (hq' : memQuiet s (locate s (64 * (dpa / 64) + 32)))
    (hgate : hostGate s false (64 * (dpa / 64)) 64 true = .go) (hlen : data.length = 64) (keeps : Bool) :
    ∃ t, exec (.cxlMemWrite link dpa data false keeps) s = .next t ∧
      (∀ i, i < 64 → dramByteAt t
        ((if i < 32 then locate s (64 * (dpa / 64)) else locate s (64 * (dpa / 64) + 32)) * 32 + i % 32) = data.getD i 0) ∧
      (∀ x, x / 32 ≠ locate s (64 * (dpa / 64)) → x / 32 ≠ locate s (64 * (dpa / 64) + 32) → dramByteAt t x = dramByteAt s x) ∧
      (∀ e, colChk t e = colChk s e) ∧ t.outbox = s.outbox ∧ (keeps = true → dpa / 64 ∈ t.snoop) ∧
      (keeps = false → dpa / 64 ∉ s.biWait → dpa / 64 ∉ t.snoop) ∧ (∀ l, l ≠ dpa / 64 → (l ∈ t.snoop ↔ l ∈ s.snoop)) := by
  have hline := hostStore_line (by omega) hlen hq hq'
  refine ⟨_, exec_cxlMemWrite_go h h' hgate hlen keeps, ?_⟩
  generalize hostStore (64 * (dpa / 64)) data false s = u at hline
  obtain ⟨hdram, hgens, hseg, hsent⟩ := snoopWritten_fields (dpa / 64) keeps u
  have hbyte := dramByteAt_of_dram hdram hgens
  have hchk := colChk_of_dramChk hseg
  have hout : (snoopWritten (dpa / 64) keeps u).outbox = s.outbox := hsent.trans (hline.upd.same .outbox rfl)
  have hsnoop : u.snoop = s.snoop := hline.upd.same .snoop rfl
  have hwait : u.biWait = s.biWait := hline.upd.same .biWait rfl
  refine ⟨fun i hi => (hbyte _).trans (hline.bytes i hi), fun x hc hd => (hbyte x).trans (hline.kept x hc hd),
    fun e => (hchk e).trans (hline.chk e), hout, ?_, ?_, fun l hl => ?_⟩
  · rintro rfl
    exact mem_snoopWritten_same
  · rintro rfl hl
    exact not_mem_snoopWritten (by rwa [hwait])
  · rw [mem_snoopWritten_other hl, hsnoop]

end Sys2Proof.Machine
end

section
/-!
Host links and HDM decoders (R419-R421, R426, R510): a link that changes state, what going down leaves, and when a decoder commits.
-/

namespace Sys2Proof.Machine

/-! A link changes state. -/

/-- The register fields that a change of a link's state touches. -/
def linkRegs (l : Nat) : List (Nat × Fld × Nat) := [(pgHif, .hifLinkState, l), (pgHif, .hifLinkWidth, l), (pgHif, .hdrIrqStat, 0)]

/-- A link has changed to a state. -/
structure LinkPut (l st width : Nat) (s t : State) : Prop where
  state : linkState t l = st
  width : rdi t pgHif .hifLinkWidth l = width
  irq : bit (rd t pgHif .hdrIrqStat) 16 = 1
  regs : RegsBut (linkRegs l) s t
  upd : Upd [.outbox, .regIrq, .regHif] s t

theorem putLink_put {l st width : Nat} {s : State} (h : linkState s l ≠ st) (hl : l < 2) (hst : st < 4) (hw : width < 16) :
    LinkPut l st width s (putLink l st width s) := by
  have hmod : l % 16384 = l := by omega
  have hput : putLink l st width s = raise pgHif 16 (wri pgHif .hifLinkState l st (wri pgHif .hifLinkWidth l width s)) := if_neg h
  have hraise : RegsBut (linkRegs l) (wri pgHif .hifLinkState l st (wri pgHif .hifLinkWidth l width s)) (putLink l st width s) := by
    rw [hput]
    exact fun p f i hn => regsBut_raiseMask _ _ _ p f i fun hi => hn (by rw [List.mem_singleton.1 hi]; simp [linkRegs])
  have hstate : linkState (putLink l st width s) l = st := by
    have hkept := rdi_raise_fld (g := .hifLinkState) (by decide) pgHif 16 (wri pgHif .hifLinkState l st (wri pgHif .hifLinkWidth l width s)) pgHif l
    rw [linkState, hput, hkept, rdi_wri, if_pos ⟨rfl, rfl, rfl⟩]
    exact Nat.mod_eq_of_lt hst
  have hwidth : rdi (putLink l st width s) pgHif .hifLinkWidth l = width := by
    have hkept := rdi_raise_fld (g := .hifLinkWidth) (by decide) pgHif 16 (wri pgHif .hifLinkState l st (wri pgHif .hifLinkWidth l width s)) pgHif l
    rw [hput, hkept, rdi_wri, if_neg fun e => absurd e.2.1 (by decide), rdi_wri, if_pos ⟨rfl, rfl, rfl⟩]
    exact Nat.mod_eq_of_lt hw
  refine ⟨hstate, hwidth, ?_, ?_, putLink_upd ..⟩
  · rw [hput]
    exact bit_rd_raise (by decide) ..
  · have hwidth : (pgHif, Fld.hifLinkWidth, l % 16384) ∈ linkRegs l := by
      rw [hmod]
      exact List.mem_cons_of_mem _ List.mem_cons_self
    have hstate : (pgHif, Fld.hifLinkState, l % 16384) ∈ linkRegs l := by
      rw [hmod]
      exact List.mem_cons_self
    have hfirst : RegsBut (linkRegs l) s (wri pgHif .hifLinkWidth l width s) := fun p f i => regsBut_wri hwidth width s p f i
    have hsecond : RegsBut (linkRegs l) (wri pgHif .hifLinkWidth l width s) (wri pgHif .hifLinkState l st (wri pgHif .hifLinkWidth l width s)) :=
      fun p f i => regsBut_wri hstate st _ p f i
    exact (hfirst.trans hsecond).trans hraise

theorem LinkPut.other {l st width : Nat} {s t : State} (h : LinkPut l st width s t) (hl : l < 2) : linkState t (1 - l) = linkState s (1 - l) := by
  refine h.regs pgHif .hifLinkState (1 - l) ?_
  have hne : (1 - l) % 16384 ≠ l := by omega
  simp [linkRegs, hne]

theorem exec_linkUp_training {link width : Nat} {s : State} (h : linkState s link = 1) (cxl : Bool) :
    exec (.linkUp link cxl width) s = .next (putLink link (if cxl then 3 else 2) width s) := by
  change execLinkUp link cxl width s = _
  rw [execLinkUp, if_pos h]

theorem exec_linkUp_other {link width : Nat} {s : State} (h : linkState s link ≠ 1) (cxl : Bool) :
    exec (.linkUp link cxl width) s = .next s := by
  change execLinkUp link cxl width s = _
  rw [execLinkUp, if_neg h]

/-- PERST# of a link is noted as deasserted (R510). -/
def notePerst (link : Nat) (s : State) : State := if s.perst.contains link then s else { s with perst := s.perst ++ [link] }

theorem notePerst_contains (link : Nat) (s : State) : (notePerst link s).perst.contains link = true := by
  unfold notePerst
  split
  · assumption
  · simp

theorem notePerst_regs (link : Nat) (s : State) : (notePerst link s).regs = s.regs := by
  unfold notePerst
  split
  · rfl
  · rfl

theorem notePerst_upd (link : Nat) (s : State) : Upd [.perst] s (notePerst link s) := by
  unfold notePerst
  split
  · exact Upd.refl s
  · exact (Upd.refl s).set_perst rfl

theorem linkState_of_regs {s t : State} (h : t.regs = s.regs) (l : Nat) : linkState t l = linkState s l := rdi_of_regs h ..

theorem exec_perstDeassert (link : Nat) (s : State) : exec (.perstDeassert link) s =
    .next (if phyOn s && linkState s link = 0 then putLink link 1 0 (notePerst link s) else notePerst link s) := by
  have hstage : bootStage (notePerst link s) = bootStage s := rdi_of_regs (notePerst_regs link s) ..
  have hphy : phyOn (notePerst link s) = phyOn s := by rw [phyOn, hstage, ← phyOn]
  change execPerstDeassert link s = _
  rw [← hphy, ← linkState_of_regs (notePerst_regs link s)]
  rfl

theorem perstDeassert_trains {link : Nat} {s : State} (hl : link < 2) (hphy : phyOn s = true) (hst : linkState s link = 0) :
    ∃ t, exec (.perstDeassert link) s = .next t ∧ t.perst.contains link = true ∧ linkState t link = 1 ∧
      bit (rd t pgHif .hdrIrqStat) 16 = 1 ∧ Only [.outbox, .regIrq, .regHif, .perst] s t := by
  have hsame : linkState (notePerst link s) link = 0 := (linkState_of_regs (notePerst_regs link s) link).trans hst
  have hput := putLink_put (l := link) (st := 1) (width := 0) (s := notePerst link s) (by rw [hsame]; decide) hl (by decide) (by decide)
  have hperst : (putLink link 1 0 (notePerst link s)).perst = (notePerst link s).perst := hput.upd.same .perst rfl
  refine ⟨putLink link 1 0 (notePerst link s), ?_, ?_, hput.state, hput.irq,
    (((Upd.refl s).step rfl (notePerst_upd link s)).step rfl hput.upd).same⟩
  · rw [exec_perstDeassert, if_pos (by simp [hphy, hst])]
  · rw [hperst]
    exact notePerst_contains link s

theorem perstDeassert_waits {link : Nat} {s : State} (h : phyOn s = false ∨ linkState s link ≠ 0) :
    exec (.perstDeassert link) s = .next (notePerst link s) := by
  rw [exec_perstDeassert, if_neg]
  simp only [Bool.and_eq_true, decide_eq_true_eq]
  rintro ⟨hphy, hst⟩
  exact h.elim (fun h => absurd hphy (by rw [h]; decide)) fun h => h hst

/-! A link goes down. -/

theorem notifyDone_rises (x : Nat) (irq : Bool) (g c k : Nat) (s : State) : IrqRises s (notifyDone x irq g c k s) := by
  unfold notifyDone
  extract_lets v
  have hv : IrqRises s v := IrqRises.ite (fun _ => IrqRises.of_upd (sendVec_upd ..) rfl) fun _ => IrqRises.refl s
  exact IrqRises.ite (fun _ => hv.trans (endWork_rises ..)) fun _ => hv

theorem sent_rises (x : Nat) (e : Sess) (s : State) : IrqRises s (tailShadow x (putSess x e s)) :=
  (IrqRises.of_upd (putSess_upd x e s) rfl).step (tailShadow_upd ..) rfl

theorem execGo_rises (x : Nat) {s t : State} (h : execGo x s = .next t) : IrqRises s t := by
  unfold execGo at h
  dsimp only at h
  split at h
  case h_1 =>
    cases h
    exact IrqRises.refl s
  case h_2 =>
    cases h
    exact sent_rises ..
  case h_3 g c k rest heq =>
    cases h
    exact (sent_rises ..).trans (notifyDone_rises ..)

theorem settleSent_rises (x n : Nat) (s : State) : IrqRises s (settleSent x n s) := by
  induction n generalizing s with
  | zero => exact IrqRises.refl s
  | succ n ih =>
    unfold settleSent
    split
    next t ht => exact (execGo_rises x ht).trans (ih t)
    next => exact IrqRises.refl s

/-- A link down decodes nothing and changes state; a session that it leaves without answers is settled. -/
def settleAll (l : SMap Sess) (s : State) : State :=
  l.foldl (fun t e => if sessPosted t e.1 then settleSent e.1 e.2.sent.length t else t) s

theorem settleAll_rises (l : SMap Sess) (s : State) : IrqRises s (settleAll l s) :=
  (IrqRises.refl s).foldl fun _ _ => IrqRises.ite (fun _ => settleSent_rises ..) fun _ => IrqRises.refl _

theorem settleAll_upd (l : SMap Sess) (s : State) : Upd [.outbox, .regIrq, .regErr, .regSpd, .regFlt, .ctxs, .runs, .engines,
    .spads, .spad, .spadChk, .sess, .ceWins] s (settleAll l s) :=
  foldl_keeps (Q := Upd _ s) (Upd.refl s) fun t e ht => by
    split
    · exact ht.step rfl (settleSent_upd ..)
    · exact ht

/-- The HDM decoder of a link is set. -/
def putHdm (link : Nat) (h : Option Hdm) (s : State) : State := { s with hdm := SMap.set (fun _ => none) s.hdm link h }

theorem hdmAt_putHdm (link : Nat) (h : Option Hdm) (s : State) (l : Nat) :
    hdmAt (putHdm link h s) l = if l = link then h else hdmAt s l := SMap.get_set

theorem putHdm_upd (link : Nat) (h : Option Hdm) (s : State) : Upd [.hdm] s (putHdm link h s) :=
  (Upd.refl s).set_hdm rfl fun hs => SMap.wf_set hs.hdm

theorem exec_linkDown {link : Nat} {s : State} (h : linkState s link ≠ 0) :
    exec (.linkDown link) s = .next (settleAll s.sess (putLink link 0 0 (putHdm link none s))) := by
  change execLinkDown link s = _
  rw [execLinkDown, if_neg h]
  have hsess : (putLink link 0 0 (putHdm link none s)).sess = s.sess := (putLink_upd ..).same .sess rfl
  exact congrArg (fun l => Host.Outcome.next (settleAll l (putLink link 0 0 (putHdm link none s)))) hsess

theorem exec_linkDown_down {link : Nat} {s : State} (h : linkState s link = 0) : exec (.linkDown link) s = .next s := by
  change execLinkDown link s = _
  rw [execLinkDown, if_pos h]

theorem linkDown_leaves {link : Nat} {s : State} (hl : link < 2) (h : linkState s link ≠ 0) :
    ∃ t, exec (.linkDown link) s = .next t ∧ linkState t link = 0 ∧ linkState t (1 - link) = linkState s (1 - link) ∧
      hdmAt t link = none ∧ bit (rd t pgHif .hdrIrqStat) 16 = 1 ∧ (∀ l, l ≠ link → hdmAt t l = hdmAt s l) ∧
      (s.sess = [] → RegsBut (linkRegs link) s t ∧ Only [.outbox, .regIrq, .regHif, .hdm] s t) := by
  have hput := putLink_put (s := putHdm link none s) h hl (by decide : 0 < 4) (by decide : 0 < 16)
  refine ⟨_, exec_linkDown h, ?_⟩
  generalize hv : putLink link 0 0 (putHdm link none s) = v at hput
  have hsettle := settleAll_upd s.sess v
  have hstate : ∀ l, linkState (settleAll s.sess v) l = linkState v l := fun l => hsettle.same .regHif rfl pgHif .hifLinkState l rfl
  have hdec : ∀ l, hdmAt (settleAll s.sess v) l = if l = link then none else hdmAt s l := fun l => by
    have hmap : (settleAll s.sess v).hdm = (putHdm link none s).hdm := Eq.trans (hsettle.same .hdm rfl) (hput.upd.same .hdm rfl)
    rw [hdmAt, hmap, ← hdmAt, hdmAt_putHdm]
  refine ⟨(hstate _).trans hput.state, (hstate _).trans (hput.other hl), (hdec _).trans (if_pos rfl),
    (settleAll_rises s.sess v).keeps pgHif 16 (by decide) hput.irq, fun l hne => (hdec l).trans (if_neg hne), fun hnone => ?_⟩
  rw [hnone]
  exact ⟨hput.regs, (((Upd.refl s).step rfl (putHdm_upd link none s)).step rfl hput.upd).same⟩

/-! A decoder commits. -/

/-- The interleave granularities that a decoder takes (R419). -/
theorem granularity_iff (gran : Nat) :
    (256 ≤ gran ∧ gran ≤ 16384 ∧ gran = 2 ^ Nat.log2 gran) ↔ gran ∈ [256, 512, 1024, 2048, 4096, 8192, 16384] := by
  constructor
  · rintro ⟨hlo, hhi, hpow⟩
    generalize Nat.log2 gran = k at hpow
    subst hpow
    have hk : 8 ≤ k := (Nat.pow_le_pow_iff_right (by decide : 1 < 2)).1 hlo
    have hk' : k ≤ 14 := (Nat.pow_le_pow_iff_right (by decide : 1 < 2)).1 hhi
    interval_cases k <;> decide
  · intro h
    simp only [List.mem_cons, List.not_mem_nil, or_false] at h
    rcases h with rfl | rfl | rfl | rfl | rfl | rfl | rfl <;> decide

/-- What a link's decoder must be to commit (R419, R421). -/
structure HdmLegal (link : Nat) (h : Hdm) (s : State) : Prop where
  cxl : linkState s link = 3
  ways : h.ways = 1 ∨ h.ways = 2
  gran : h.gran ∈ [256, 512, 1024, 2048, 4096, 8192, 16384]
  agrees : ∀ o, hdmAt s (1 - link) = some o → o = h

theorem not_hdmLegal {link : Nat} {h : Hdm} {s : State} (hno : linkState s link ≠ 3 ∨ (h.ways ≠ 1 ∧ h.ways ≠ 2) ∨
    h.gran ∉ [256, 512, 1024, 2048, 4096, 8192, 16384] ∨ ∃ o, hdmAt s (1 - link) = some o ∧ o ≠ h) : ¬HdmLegal link h s := by
  rintro ⟨hcxl, hways, hgran, hagree⟩
  rcases hno with hno | ⟨hone, htwo⟩ | hno | ⟨o, ho, hne⟩
  · exact hno hcxl
  · exact hways.elim hone htwo
  · exact hno hgran
  · exact hne (hagree o ho)

theorem exec_hdmCommit_legal {link : Nat} {h : Hdm} {s : State} (hl : HdmLegal link h s) :
    exec (.hdmCommit link h.base h.size h.ways h.gran) s = .next (putHdm link (some h) s) := by
  change execHdmCommit link h.base h.size h.ways h.gran s = _
  obtain ⟨hlo, hhi, hpow⟩ := (granularity_iff h.gran).2 hl.gran
  have hlegal : (linkState s link = 3 && (h.ways = 1 || h.ways = 2) && 256 ≤ h.gran && h.gran ≤ 16384 && h.gran = 2 ^ Nat.log2 h.gran) = true := by
    simp [hl.cxl, hl.ways, hlo, hhi, ← hpow]
  have hagrees : ((hdmAt s (1 - link)).map fun o => o == h).getD true = true := by
    cases hother : hdmAt s (1 - link) with
    | none => rfl
    | some o => simp [hl.agrees o hother]
  simp only [execHdmCommit, hlegal, hagrees]
  rfl

theorem exec_hdmCommit_illegal {link : Nat} {h : Hdm} {s : State} (hl : ¬HdmLegal link h s) :
    exec (.hdmCommit link h.base h.size h.ways h.gran) s = .next (emit (.commitError link) (putHdm link none s)) := by
  change execHdmCommit link h.base h.size h.ways h.gran s = _
  have hnot : ((linkState s link = 3 && (h.ways = 1 || h.ways = 2) && 256 ≤ h.gran && h.gran ≤ 16384 && h.gran = 2 ^ Nat.log2 h.gran) &&
      ((hdmAt s (1 - link)).map fun o => o == h).getD true) = false := by
    refine Bool.eq_false_iff.2 fun hall => hl ?_
    simp only [Bool.and_eq_true, Bool.or_eq_true, decide_eq_true_eq] at hall
    obtain ⟨⟨⟨⟨⟨hcxl, hways⟩, hlo⟩, hhi⟩, hpow⟩, hagrees⟩ := hall
    refine ⟨hcxl, hways, (granularity_iff _).1 ⟨hlo, hhi, hpow⟩, fun o ho => ?_⟩
    rw [ho] at hagrees
    exact eq_of_beq hagrees
  simp only [execHdmCommit, hnot]
  rfl

end Sys2Proof.Machine
end

section
/-!
The host's side of the device (R48, R419-R421, R438, R439, R444, R455, R479, R510), assembled from the links, the memory BAR, CXL.mem and
the snoop filter.
-/

namespace Sys2Proof.Machine

/-- Settles O53. -/
theorem hostLinks : Obligations.HostLinks := by
  unfold Obligations.HostLinks
  refine ⟨?links, ?decoders, ?barReads, ?barWrites, ?barRefused, ?cxl, ?snoops⟩
  case links =>
    intro link width cxl s _ hlink hwidth
    refine ⟨fun hst => ?_, fun hst => exec_linkUp_other hst cxl, linkDown_leaves hlink, exec_linkDown_down, perstDeassert_trains hlink,
      fun hno => ⟨_, perstDeassert_waits hno, notePerst_contains link s, (notePerst_upd link s).same⟩⟩
    have hput := putLink_put (l := link) (st := if cxl then 3 else 2) (width := width) (s := s) (by rw [hst]; cases cxl <;> decide) hlink
      (by cases cxl <;> decide) hwidth
    exact ⟨_, exec_linkUp_training hst cxl, hput.state, hput.width, hput.irq, hput.regs, hput.upd.same⟩
  case decoders =>
    intro link base size ways gran h s _ hlink hh
    subst hh
    have hother : 1 - link ≠ link := by omega
    refine ⟨fun hcxl hways hgran hagree => ?_, fun hno => ?_⟩
    · have hlegal : HdmLegal link { base := base, size := size, ways := ways, gran := gran } s := ⟨hcxl, hways, hgran, hagree⟩
      exact ⟨_, exec_hdmCommit_legal hlegal, (hdmAt_putHdm ..).trans (if_pos rfl), (hdmAt_putHdm ..).trans (if_neg hother),
        (putHdm_upd ..).same⟩
    · have hillegal : ¬HdmLegal link { base := base, size := size, ways := ways, gran := gran } s := not_hdmLegal hno
      refine ⟨_, exec_hdmCommit_illegal hillegal, ?_, ?_, rfl, (((Upd.refl s).step rfl (putHdm_upd ..)).step rfl (emit_upd ..)).same⟩
      · exact (hdmAt_putHdm link none s link).trans (if_pos rfl)
      · exact (hdmAt_putHdm link none s (1 - link)).trans (if_neg hother)
  case barReads =>
    rintro dpa len c s _ hregion hin hrun rfl hn hfit
    have hbar : BarReaches s dpa len := ⟨hregion, hin, hrun⟩
    have hline : dpa % 64 + len ≤ 64 := by omega
    refine ⟨membarRead_quiet hbar hn hfit, fun hgate => ?_, fun hgate => ?_, fun hgate hwait hsnoop => ?_, fun hgone => ?_, fun hbusy => ?_⟩
    · rw [membarRead_dram hbar, dramLoad, hgate]
    · rw [membarRead_dram hbar, dramLoad, hgate]
    · rw [membarRead_dram hbar, dramLoad, hgate]
      exact congrArg Host.Outcome.next (snoopLines_single hsnoop hwait)
    · obtain ⟨bs, hout, hdram, hregs⟩ := poisonedAnswer_answers len s
      refine ⟨poisonedAnswer len s, bs, ?_, hout, hdram, hregs⟩
      rw [membarRead_dram hbar, dramLoad, hostGate_gone hn hline hgone]
    · rw [membarRead_dram hbar, dramLoad, hostGate_held hn hline hbusy]
  case barWrites =>
    rintro dpa c data s _ hregion hin hrun rfl hn hfit
    have hbar : BarReaches s dpa data.length := ⟨hregion, hin, hrun⟩
    have hpos : 0 < data.length := List.length_pos_iff.2 hn
    have hline : dpa % 64 + data.length ≤ 64 := by omega
    refine ⟨fun hgate hq => ?_, fun hgate hq => ?_, fun pb hgate => ?_, fun pb hgone => ?_, fun pb hbusy => ?_⟩
    · obtain ⟨t, hexec, ht⟩ := membarWrite_quiet hbar hn hfit hgate hq false
      exact ⟨t, hexec, fun i hi => ht.stored hfit hi, fun a ha => ht.kept ha, ht.sealed, ht.upd.same .outbox rfl, ht.upd.same .snoop rfl⟩
    · obtain ⟨t, hexec, ht⟩ := membarWrite_quiet hbar hn hfit hgate hq true
      refine ⟨t, hexec, ?_, fun e he => ?_, fun a ha => ht.kept ha⟩
      · exact (ht.chk _).trans (if_pos ⟨rfl, rfl⟩)
      · exact (ht.chk e).trans (if_neg fun hc => he hc.1)
    · rw [membarWrite_dram hbar, dramStore, hgate]
    · rw [membarWrite_dram hbar, dramStore, hostGate_gone hpos hline hgone]
    · rw [membarWrite_dram hbar, dramStore, hostGate_held hpos hline hbusy]
  case barRefused =>
    intro dpa len data pb s _
    refine ⟨fun hoff => ⟨?_, ?_⟩, fun hrun hregion => ?_⟩
    · exact congrArg Host.Outcome.next (if_pos hoff)
    · exact congrArg Host.Outcome.next (if_pos hoff)
    · rw [exec_membarRead, exec_membarWrite, if_neg hrun, if_neg hrun]
      rcases hregion with hregion | hregion
      · rw [hregion]
        exact ⟨rfl, rfl⟩
      · rw [hregion]
        exact ⟨rfl, rfl⟩
  case cxl =>
    rintro link dpa a c d keeps s _ rfl rfl rfl
    refine ⟨fun hno data pb => ⟨exec_cxlMemRead_undecoded hno keeps, exec_cxlMemWrite_undecoded hno data pb keeps⟩,
      fun hdec hout data pb => ⟨exec_cxlMemRead_outside hdec hout keeps, exec_cxlMemWrite_outside hdec hout data pb keeps⟩,
      fun hreach hoff => ⟨fun data pb => exec_cxlMemWrite_off hreach hoff data pb keeps, ?_⟩,
      fun hreach hrun hq hq' hroom hgate => cxlMemRead_quiet hreach hrun hq hq' hroom hgate,
      fun hreach hrun hq hq' hgate data hlen => cxlMemWrite_quiet hreach hrun hq hq' hgate hlen keeps⟩
    obtain ⟨bs, hout, -, hregs⟩ := poisonedAnswer_answers 64 s
    exact ⟨_, bs, exec_cxlMemRead_off hreach hoff keeps, hout, hregs⟩
  case snoops =>
    intro link line s _
    refine ⟨fun hwait => ?_, fun hwait => ?_, fun hcxl => ?_, fun hcxl => ?_⟩
    · refine ⟨{ s with snoop := s.snoop.filter (· != line), biWait := s.biWait.filter (· != line) }, ?_, by simp, by simp,
        fun l hl => by simp [hl], ((Upd.refl s).set_snoop_biWait rfl).same⟩
      rw [exec_backInvalidateDone, if_pos (List.contains_iff_mem.2 hwait)]
    · rw [exec_backInvalidateDone, if_neg fun hc => hwait (List.contains_iff_mem.1 hc)]
    · rw [exec_cxlSnoop, if_pos hcxl]
      rfl
    · rw [exec_cxlSnoop, if_neg hcxl]

end Sys2Proof.Machine
end

section
/-!
O17: a write of the read pointer of the selected ledger (R68, R70).
-/

namespace Sys2Proof.Machine

theorem fieldWrite_ldgRptr (v : Nat) (s : State) : fieldWrite s .epo (0x158 * 8) 32 v ⟨.epoLdgRptr, 0, 0x158 * 8⟩ =
    { unit := .epo, fld := .epoLdgRptr, idx := rd s 0x2018 .epoLdgSel, ones := bits v 23 0,
      val := setBits (rdi s 0x2018 .epoLdgRptr (rd s 0x2018 .epoLdgSel)) 23 0 (bits v 23 0), word := bits v 31 0, whole := true } := by
  have hrow : Fld.epoLdgRptr.row = { off := 0x158 * 8, width := 24, acc := .rw, sel := some .epoLdgSel } := rfl
  have hpage : UnitId.epo.page = 0x2018 := rfl
  simp [fieldWrite, instOf, hrow, hpage]

theorem regAct_ldgRptr (src ones v word : Nat) (whole : Bool) (s : State) :
    regAct ⟨.epo, .epoLdgRptr, src, ones, v, word, whole⟩ s = some (ldgRptr src v s) := rfl

/-- A write of the register's word acts on the read pointer of the ledger that LDG_SEL names. -/
theorem writeFields_ldgRptr (v : Nat) (s : State) : writeFields regAct .epo (0x158 * 8) 32 v s =
    ldgRptr (rd s 0x2018 .epoLdgSel) (setBits (rdi s 0x2018 .epoLdgRptr (rd s 0x2018 .epoLdgSel)) 23 0 (bits v 23 0)) s := by
  have htouch : sortedTouches .epo (0x158 * 8) 32 = [⟨.epoLdgRptr, 0, 0x158 * 8⟩] := rfl
  rw [writeFields, htouch, List.foldl_cons, List.foldl_nil, fieldWrite_ldgRptr]
  dsimp only
  rw [regAct_ldgRptr, Option.getD_some]

section Ledger

variable {v src : Nat} {s : State}

theorem exec_ldgRptrWrite (hs : s.Ok) (hv : v < 2 ^ 24) (hsel : rd s 0x2018 .epoLdgSel = src) :
    exec (.ldgRptrWrite v) s = .next (ldgRptr src v s) := by
  have hwrite : exec (.ldgRptrWrite v) s = .next (hostRegWrite 0x2018 0x158 4 v s) := rfl
  have hbits : bits (v % 2 ^ 32) 23 0 = v := by
    simp only [bits, Nat.shiftRight_zero]
    omega
  have hwhole : setBits (rdi s 0x2018 .epoLdgRptr src) 23 0 v = v := setBits_whole (rdi_lt hs 0x2018 .epoLdgRptr src) hv
  rw [hwrite, hostRegWrite_fields (u := .epo) rfl rfl (by decide) (by decide), writeFields_ldgRptr, hsel, hbits, hwhole]

/-- The pointer moves on: no more records are unread with it at `v` than before. -/
def movesOn (s : State) (src v : Nat) : Prop :=
  (rdi s 0x2018 .epoLdgWptr src + 2 ^ 24 - v) % 2 ^ 24 ≤ (rdi s 0x2018 .epoLdgWptr src + 2 ^ 24 - rdi s 0x2018 .epoLdgRptr src) % 2 ^ 24

theorem ldgRptr_back (h : ¬movesOn s src v) : ldgRptr src v s = wr 0x2018 .hdrBadWrite 1 s := if_pos (Nat.lt_of_not_le h)

/-- With no record lost, or no free slot for the LOST record, the pointer is stored and nothing else happens. -/
theorem ldgRptr_stored (h : movesOn s src v) (hlost : SMap.get (fun _ => 0) s.ldgLost src = 0) :
    ldgRptr src v s = wri 0x2018 .epoLdgRptr src v s := by
  have hlost' : SMap.get (fun _ => 0) (wri 0x2018 .epoLdgRptr src v s).ldgLost src = 0 := hlost
  rw [ldgRptr]
  dsimp only
  rw [if_neg (Nat.not_lt_of_le h), hlost']
  rfl

/-- The pointer is stored and the lost records are taken off, before their LOST record is written. -/
def lostTaken (src v : Nat) (s : State) : State :=
  { wri 0x2018 .epoLdgRptr src v s with ldgLost := SMap.set (fun _ => 0) s.ldgLost src 0 }

theorem ldgRptr_lost (h : movesOn s src v) (hlost : SMap.get (fun _ => 0) s.ldgLost src ≠ 0)
    (hroom : ledgerFull (wri 0x2018 .epoLdgRptr src v s) src = false) (hen : rdi s 0x2018 .epoLdgEn src = 1) :
    ldgRptr src v s = ledgerPut src 0x03 (SMap.get (fun _ => 0) s.ldgLost src) (lostTaken src v s) := by
  have hlost' : SMap.get (fun _ => 0) (wri 0x2018 .epoLdgRptr src v s).ldgLost src ≠ 0 := hlost
  have hen' : rdi (wri 0x2018 .epoLdgRptr src v s) 0x2018 .epoLdgEn src = 1 := by
    rw [rdi_wri, if_neg (by simp), hen]
  rw [ldgRptr]
  dsimp only
  rw [if_neg (Nat.not_lt_of_le h), hroom, hen', if_neg (by simp [hlost])]
  rfl

theorem ledgerFull_stored (hv : v < 2 ^ 24)
    (hroom : (rdi s 0x2018 .epoLdgWptr src + 2 ^ 24 - v) % 2 ^ 24 < 2 ^ rdi s 0x2018 .epoLdgSize src) :
    ledgerFull (wri 0x2018 .epoLdgRptr src v s) src = false := by
  have hmod : v % 2 ^ Fld.epoLdgRptr.row.width = v := Nat.mod_eq_of_lt hv
  rw [ledgerFull, ledgerUnread, rdi_wri, rdi_wri, rdi_wri, if_neg (by simp), if_neg (by simp), if_pos ⟨rfl, rfl, rfl⟩, hmod]
  exact decide_eq_false (Nat.not_le_of_lt hroom)

/-- Of the ledger registers a written record changes LDG_WPTR alone, which moves on by one. -/
theorem rdi_ledgerPut {g : Fld} (hg : g.part = .regLdg) (type detail q j : Nat) :
    rdi (ledgerPut src type detail s) q g j = rdi (wri 0x2018 .epoLdgWptr src ((rdi s 0x2018 .epoLdgWptr src + 1) % 2 ^ 24) s) q g j := by
  unfold ledgerPut
  extract_lets seq i a bytes t1 t2 t3
  have hsnoop : rdi t3 q g j = rdi t2 q g j := by
    refine rdi_of_regs ?_ q g j
    unfold t3
    split <;> rfl
  split
  · exact ((writeSpine_upd a bytes t3).same .regLdg rfl q g j hg).trans hsnoop
  · exact hsnoop

/-- The first free slot takes the LOST record: the pointer is stored, no record counts as lost any more, LDG_WPTR moves on by one. -/
theorem lostRecord_leaves (hv : v < 2 ^ 24) (type detail : Nat) :
    rdi (ledgerPut src type detail (lostTaken src v s)) 0x2018 .epoLdgRptr src = v ∧
      SMap.get (fun _ => 0) (ledgerPut src type detail (lostTaken src v s)).ldgLost src = 0 ∧
      rdi (ledgerPut src type detail (lostTaken src v s)) 0x2018 .epoLdgWptr src = (rdi s 0x2018 .epoLdgWptr src + 1) % 2 ^ 24 := by
  have hread : ∀ f, rdi (lostTaken src v s) 0x2018 f src = rdi (wri 0x2018 .epoLdgRptr src v s) 0x2018 f src := fun _ => rfl
  have hlost : (ledgerPut src type detail (lostTaken src v s)).ldgLost = (lostTaken src v s).ldgLost :=
    (ledgerPut_upd src type detail _).same .ldgLost rfl
  refine ⟨?_, ?_, ?_⟩
  · rw [rdi_ledgerPut rfl, rdi_wri, if_neg (by simp), hread, rdi_wri, if_pos ⟨rfl, rfl, rfl⟩]
    exact Nat.mod_eq_of_lt hv
  · rw [hlost]
    exact (SMap.get_set_same : SMap.get (fun _ => 0) (SMap.set (fun _ => 0) s.ldgLost src 0) src = 0)
  · rw [rdi_ledgerPut rfl, rdi_wri, if_pos ⟨rfl, rfl, rfl⟩, hread, rdi_wri, if_neg (by simp)]
    exact Nat.mod_mod ..

end Ledger

/-- Settles O17: the write is `ldgRptr` of the selected ledger, which keeps the pointer on a step back, stores it otherwise, and writes the
LOST record where a slot is free for it. -/
theorem ledgerReadPointer : Obligations.LedgerReadPointer := by
  refine ⟨?stored, ?back, ?lost⟩
  case stored =>
    intro v src s hs hv _ hsel hlost hmove
    rw [exec_ldgRptrWrite hs hv hsel, ldgRptr_stored hmove hlost]
  case back =>
    intro v src s hs hv _ hsel hback
    rw [exec_ldgRptrWrite hs hv hsel, ldgRptr_back (Nat.not_le_of_lt hback)]
  case lost =>
    intro v src s hs hv _ hsel hen hlost hmove hroom
    have hexec := exec_ldgRptrWrite hs hv hsel
    rw [ldgRptr_lost hmove hlost (ledgerFull_stored hv hroom) hen] at hexec
    exact ⟨_, hexec, lostRecord_leaves hv ..⟩

end Sys2Proof.Machine
end

section
/-!
What an advance of the epoch leaves while no milestone is armed (R52-R56): nothing fires, so settling the epoch is one floor check.
-/

namespace Sys2Proof.Machine

/-- An entry of the register table that is an ARMED milestone slot. -/
def isArmed (e : Nat × Nat) : Bool := e.1 / 16384 % 1024 = Fld.hdrMsState.ctorIdx && e.2 = 1

theorem armedSlots_eq_nil {s : State} : armedSlots s = [] ↔ ∀ e ∈ s.regs, isArmed e = false := by
  rw [armedSlots, List.map_eq_nil_iff, List.filter_eq_nil_iff]
  exact forall₂_congr fun e _ => by rw [← isArmed, Bool.not_eq_true]

theorem armedSlots_of_regs {s t : State} (h : t.regs = s.regs) (hs : armedSlots s = []) : armedSlots t = [] := by
  rw [armedSlots_eq_nil] at hs ⊢
  rwa [h]

/-- A write of another field arms no slot. -/
theorem armedSlots_wri {f : Fld} (hf : f ≠ .hdrMsState) (p i v : Nat) {s : State} (hs : armedSlots s = []) :
    armedSlots (wri p f i v s) = [] := by
  rw [armedSlots_eq_nil] at hs ⊢
  intro e he
  have hcases : e = (regKey (homePage p f) f i, v % 2 ^ f.row.width) ∨ e ∈ s.regs := by
    unfold wri SMap.set at he
    dsimp only at he
    split at he
    · exact .inr (SMap.mem_del he)
    · exact SMap.mem_ins he
  rcases hcases with rfl | he
  · simp [isArmed, regKey_fld, ctorIdx_inj, hf]
  · exact hs e he

theorem armedSlots_raise (p b : Nat) {s : State} (hs : armedSlots s = []) : armedSlots (raise p b s) = [] := by
  have hedge : ∀ (was : Bool) (t : State), (irqEdge p was t).regs = t.regs := by
    intro was t
    unfold irqEdge sendVec
    split <;> rfl
  exact armedSlots_of_regs (hedge _ _) (armedSlots_wri (by decide) p 0 _ hs)

theorem armedSlots_floorCheck {s : State} (hs : armedSlots s = []) : armedSlots (floorCheck s) = [] := by
  unfold floorCheck
  extract_lets above t
  have ht : armedSlots t = [] := by
    unfold t
    split
    · exact armedSlots_raise _ _ hs
    · exact hs
  exact armedSlots_of_regs (t := { t with floorAbove := above }) rfl ht

theorem epochSettle_unarmed {s : State} (hs : armedSlots s = []) : epochSettle s = floorCheck s := by
  simp [epochSettle, hs]

theorem rdi_floorCheck {g : Fld} (hg : g.part = .regEpo) (s : State) (q j : Nat) : rdi (floorCheck s) q g j = rdi s q g j :=
  (floorCheck_upd s).same .regEpo rfl q g j hg

theorem rdi_counti_fld {f g : Fld} (h : g ≠ f) (p i k : Nat) (s : State) (q j : Nat) : rdi (counti p f i k s) q g j = rdi s q g j := by
  rw [counti, rdi_wri, if_neg fun hc => h hc.2.1]

theorem rd_count_same (p : Nat) (f : Fld) (k : Nat) (s : State) :
    rd (count p f k s) p f = satAdd (2 ^ f.row.width - 1) (rd s p f) k := by
  have hlt : satAdd (2 ^ f.row.width - 1) (rd s p f) k < 2 ^ f.row.width :=
    Nat.lt_of_le_of_lt (Nat.min_le_left ..) (Nat.sub_lt (Nat.two_pow_pos _) (by decide))
  rw [rd, count, counti, rdi_wri, if_pos ⟨rfl, rfl, rfl⟩]
  exact Nat.mod_eq_of_lt hlt

section Advance

variable {n : Nat} {refused : Bool} {s : State}

/-- The registers of the epoch page after an accepted advance: EPOCH_NOW moves, and ERA rises at wrap (R55). -/
def acceptedEpoch (n : Nat) (s : State) : State :=
  wr pgEpo .epoEpochNow n (if n < epochNow s then wr pgEpo .epoEpochEra (rd s pgEpo .epoEpochEra + 1) s else s)

theorem rdi_advanceAccept {g : Fld} (hg : g.part = .regEpo) (hs : armedSlots s = []) (q j : Nat) :
    rdi (advanceAccept n s) q g j = rdi (acceptedEpoch n s) q g j := by
  have hera : armedSlots (if n < epochNow s then wr pgEpo .epoEpochEra (rd s pgEpo .epoEpochEra + 1) s else s) = [] := by
    split
    · exact armedSlots_wri (by decide) _ _ _ hs
    · exact hs
  have hnow : armedSlots (acceptedEpoch n s) = [] := armedSlots_wri (by decide) _ _ _ hera
  have haccept : advanceAccept n s = epochSettle (floorCheck (acceptedEpoch n s)) := rfl
  rw [haccept, epochSettle_unarmed (armedSlots_floorCheck hnow), rdi_floorCheck hg, rdi_floorCheck hg]

theorem advanceCode_le (n : Nat) (refused : Bool) (s : State) : advanceCode s n refused ≤ 4 := by
  unfold advanceCode
  dsimp only
  split_ifs <;> omega

/-- The result is stored before anything else. -/
def advanceNoted (n : Nat) (refused : Bool) (s : State) : State := wr pgEpo .epoAdvResult (advanceCode s n refused) s

theorem rd_advanceNoted_result : rd (advanceNoted n refused s) pgEpo .epoAdvResult = advanceCode s n refused := by
  have hle := advanceCode_le n refused s
  exact (rd_wr_same ..).trans (Nat.mod_eq_of_lt (show advanceCode s n refused < 2 ^ 4 by omega))

theorem rdi_advanceNoted {g : Fld} (hg : g ≠ .epoAdvResult) (q j : Nat) : rdi (advanceNoted n refused s) q g j = rdi s q g j :=
  rdi_wr_fld hg ..

theorem advance_accepts (h : advanceCode s n refused = 0) : advance n refused s = advanceAccept n (advanceNoted n refused s) := if_pos h

theorem advance_repeats (h : advanceCode s n refused = 1) : advance n refused s = advanceNoted n refused s := by
  rw [advance]
  rw [h]
  rw [advanceNoted, h]
  rfl

theorem advance_refuses (h : 2 ≤ advanceCode s n refused) : advance n refused s = advanceRefused (advanceNoted n refused s) := by
  rw [advance]
  rw [if_neg (by omega), if_neg (by omega)]
  rfl

/-- EPOCH_NOW, ERA, ADV_RESULT and ADV_REFUSED after an advance of epoch `n` (R55, R71). -/
structure Advanced (n : Nat) (refused : Bool) (s t : State) : Prop where
  result : rd t pgEpo .epoAdvResult = advanceCode s n refused
  now : epochNow t = if advanceCode s n refused = 0 then n else epochNow s
  era : rd t pgEpo .epoEpochEra = if advanceCode s n refused = 0 ∧ n < epochNow s then (rd s pgEpo .epoEpochEra + 1) % 2 ^ 16
    else rd s pgEpo .epoEpochEra
  count : rd t pgEpo .epoAdvRefused = if advanceCode s n refused ≤ 1 then rd s pgEpo .epoAdvRefused
    else min 0xFFFF (rd s pgEpo .epoAdvRefused + 1)

theorem Advanced.of_regEpo {t u : State} (h : Advanced n refused s t) (hu : ∀ f : Fld, f.part = .regEpo → rd u pgEpo f = rd t pgEpo f) :
    Advanced n refused s u :=
  ⟨(hu _ rfl).trans h.result, (hu _ rfl).trans h.now, (hu _ rfl).trans h.era, (hu _ rfl).trans h.count⟩

theorem advance_accepted (hn : n < 2 ^ 32) (hs : armedSlots s = []) (h : advanceCode s n refused = 0) :
    Advanced n refused s (advance n refused s) := by
  have hnoted : armedSlots (advanceNoted n refused s) = [] := armedSlots_wri (by decide) _ _ _ hs
  have hread : ∀ g : Fld, g.part = .regEpo →
      rd (advance n refused s) pgEpo g = rd (acceptedEpoch n (advanceNoted n refused s)) pgEpo g := fun g hg => by
    rw [advance_accepts h, rd, rdi_advanceAccept hg hnoted, rd]
  have hold : ∀ g : Fld, g ≠ .epoEpochNow → g ≠ .epoEpochEra →
      rd (acceptedEpoch n (advanceNoted n refused s)) pgEpo g = rd (advanceNoted n refused s) pgEpo g := fun g hnow hera => by
    rw [acceptedEpoch, rd, rdi_wr_fld hnow, ← rd]
    split
    · exact rdi_wr_fld hera ..
    · rfl
  have hnow : epochNow (advanceNoted n refused s) = epochNow s := rdi_advanceNoted (by decide) ..
  have hera : rd (advanceNoted n refused s) pgEpo .epoEpochEra = rd s pgEpo .epoEpochEra := rdi_advanceNoted (by decide) ..
  refine ⟨?_, ?_, ?_, ?_⟩
  · rw [hread _ rfl, hold _ (by decide) (by decide), rd_advanceNoted_result]
  · rw [if_pos h]
    exact ((hread _ rfl).trans (rd_wr_same ..)).trans (Nat.mod_eq_of_lt hn)
  · rw [hread _ rfl, acceptedEpoch, rd, rdi_wr_fld (by decide), ← rd, hnow, hera]
    by_cases hwrap : n < epochNow s
    · rw [if_pos hwrap, if_pos ⟨h, hwrap⟩]
      exact rd_wr_same ..
    · rw [if_neg hwrap, if_neg fun hc => hwrap hc.2, hera]
  · rw [if_pos (by omega), hread _ rfl, hold _ (by decide) (by decide)]
    exact rdi_advanceNoted (by decide) ..

theorem advance_repeated (h : advanceCode s n refused = 1) : Advanced n refused s (advance n refused s) := by
  rw [advance_repeats h]
  refine ⟨rd_advanceNoted_result, ?_, ?_, ?_⟩
  · rw [if_neg (by omega)]
    exact rdi_advanceNoted (by decide) ..
  · rw [if_neg (by omega)]
    exact rdi_advanceNoted (by decide) ..
  · rw [if_pos (by omega)]
    exact rdi_advanceNoted (by decide) ..

theorem advance_refused (h : 2 ≤ advanceCode s n refused) : Advanced n refused s (advance n refused s) := by
  have hread : ∀ g : Fld, g ≠ .hdrIrqStat →
      rd (advance n refused s) pgEpo g = rd (count pgEpo .epoAdvRefused 1 (advanceNoted n refused s)) pgEpo g := fun g hg => by
    rw [advance_refuses h, advanceRefused, rd, rdi_raise_fld hg, rd]
  have hold : ∀ g : Fld, g ≠ .hdrIrqStat → g ≠ .epoAdvRefused → rd (advance n refused s) pgEpo g = rd (advanceNoted n refused s) pgEpo g :=
    fun g hirq hg => (hread g hirq).trans (rdi_counti_fld hg ..)
  have hkeep : ∀ g : Fld, g ≠ .hdrIrqStat → g ≠ .epoAdvRefused → g ≠ .epoAdvResult → rd (advance n refused s) pgEpo g = rd s pgEpo g :=
    fun g hirq hg hr => (hold g hirq hg).trans (rdi_advanceNoted hr ..)
  refine ⟨?_, ?_, ?_, ?_⟩
  · rw [hold _ (by decide) (by decide), rd_advanceNoted_result]
  · rw [if_neg (by omega)]
    exact hkeep _ (by decide) (by decide) (by decide)
  · rw [if_neg (by omega)]
    exact hkeep _ (by decide) (by decide) (by decide)
  · have hcount : rd (advanceNoted n refused s) pgEpo .epoAdvRefused = rd s pgEpo .epoAdvRefused := rdi_advanceNoted (by decide) ..
    rw [if_neg (by omega), hread _ (by decide), rd_count_same, hcount]
    rfl

/-- Any advance, with its broadcast (R411), while no milestone is armed. -/
theorem advanceTx_advanced (hn : n < 2 ^ 32) (hs : armedSlots s = []) : Advanced n refused s (advanceTx n refused s) := by
  have hadvance : Advanced n refused s (advance n refused s) := by
    rcases Nat.lt_or_ge (advanceCode s n refused) 2 with hlt | hge
    · rcases (by omega : advanceCode s n refused = 0 ∨ advanceCode s n refused = 1) with h | h
      · exact advance_accepted hn hs h
      · exact advance_repeated h
    · exact advance_refused hge
  unfold advanceTx
  dsimp only
  split
  · exact hadvance.of_regEpo fun f hf => (sendEpochs_upd _).same .regEpo rfl pgEpo f 0 hf
  · exact hadvance

/-- A refused advance broadcasts nothing. -/
theorem advanceTx_refuses (h : 2 ≤ advanceCode s n refused) : advanceTx n refused s = advanceRefused (advanceNoted n refused s) := by
  unfold advanceTx
  dsimp only
  rw [if_neg (by omega), advance_refuses h]

/-- The result code of an advance that the source does not rule out, by the serial order of epochs (R52, R55). -/
theorem advanceCode_eq {m : Nat} (hm : m < 2 ^ 32) : advanceCode s m false =
    if m = epochNow s % 2 ^ 32 then 1
    else if epochBefore (epochNow s) m = false ∧ serialDiff (epochNow s) m ≠ 2 ^ 31 then 2
    else if 2 ^ 30 ≤ serialDiff (epochFloor s) m then 3 else 0 := by
  have hzero : serialDiff (epochNow s) m = 0 ↔ m = epochNow s % 2 ^ 32 := by
    unfold serialDiff
    omega
  have hback : (epochBefore (epochNow s) m = false ∧ serialDiff (epochNow s) m ≠ 2 ^ 31) ↔
      serialDiff (epochNow s) m = 0 ∨ 2 ^ 31 + 1 ≤ serialDiff (epochNow s) m := by
    simp only [epochBefore, Bool.and_eq_false_iff, decide_eq_false_iff_not]
    omega
  rw [advanceCode, if_neg (by decide)]
  by_cases h0 : serialDiff (epochNow s) m = 0
  · rw [if_pos h0, if_pos (hzero.1 h0)]
  · rw [if_neg h0, if_neg fun e => h0 (hzero.2 e)]
    simp only [hback, h0, false_or]

end Advance

end Sys2Proof.Machine
end

section
/-!
O15: an advance by the host and by an EPOCH frame of a member (R52-R57, R411).
-/

namespace Sys2Proof.Machine

section Host

variable {target : Nat} {s : State}

theorem exec_epochAdvance (target : Nat) (s : State) :
    exec (.epochAdvance target) s = .next (advanceTx (target % 2 ^ 32) (rd s pgEpo .epoSrc = 1) s) := rfl

/-- A host advance while the host is not the source is turned away whatever its target (R56). -/
theorem advanceCode_notSource (n : Nat) (s : State) : advanceCode s n true = 4 := rfl

theorem advanceRefused_raises (s : State) : bit (rd (advanceRefused s) pgEpo .hdrIrqStat) 17 = 1 := bit_rd_raise (by decide) _ _

end Host

section Frame

variable {port : Nat} {f : List Byte} {s : State}

/-- The frame has been taken from its port. -/
def frameTaken (port : Nat) (f : List Byte) (s : State) : State := consume port 3 f s

theorem exec_epochBroadcast (hf : mgmtFrame s port 0x34 = some f) : exec (.epochBroadcast port) s =
    .next (epochTaken port (bits (hdrOf f).dva 31 0) (bits (hdrOf f).dva 47 32) (hdrOf f).src (frameTaken port f s)) := by
  show execEpochBroadcast port s = _
  rw [execEpochBroadcast, hf]
  rfl

theorem putBseq_regs (src b : Nat) (s : State) : (putBseq src b s).regs = s.regs := rfl

theorem consume_regs (p vc : Nat) (f : List Byte) (s : State) : (consume p vc f s).regs = s.regs := rfl

theorem rdi_frameTaken (p : Nat) (g : Fld) (i : Nat) : rdi (frameTaken port f s) p g i = rdi s p g i := rdi_of_regs (consume_regs ..) ..

/-- What holds epochs (R53) stands in the registers, the contexts and the version table. -/
theorem epochHolders_congr {t : State} (hregs : t.regs = s.regs) (hctxs : t.ctxs = s.ctxs) (hvslots : t.vslots = s.vslots) :
    epochHolders t = epochHolders s := by
  have harmed : armedSlots t = armedSlots s := by rw [armedSlots, hregs, armedSlots]
  have hepoch : (fun e : Nat × Nat => (4, e.1 * 4 + e.2, rdi t e.1 .hdrMsEpoch e.2)) =
      fun e => (4, e.1 * 4 + e.2, rdi s e.1 .hdrMsEpoch e.2) := funext fun e => by rw [rdi_of_regs hregs]
  rw [epochHolders, epochHolders, hctxs, hvslots, harmed, hepoch]

theorem advanceCode_congr {t : State} (hregs : t.regs = s.regs) (hctxs : t.ctxs = s.ctxs) (hvslots : t.vslots = s.vslots) (n : Nat)
    (refused : Bool) : advanceCode t n refused = advanceCode s n refused := by
  have hnow : epochNow t = epochNow s := rdi_of_regs hregs ..
  have hfloor : epochFloor t = epochFloor s := by
    rw [epochFloor, epochFloor, floorHolder, floorHolder, epochHolders_congr hregs hctxs hvslots, hnow]
  rw [advanceCode, advanceCode, hfloor, hnow]

/-- The frame has been taken and its broadcast number noted. -/
theorem noted_upd (src b : Nat) : Upd [.ports, .bseqs] s (putBseq src b (frameTaken port f s)) :=
  (Upd.mono rfl (consume_upd port 3 f s)).step rfl (putBseq_upd ..)

theorem noted_regs (src b : Nat) : (putBseq src b (frameTaken port f s)).regs = s.regs := (putBseq_regs ..).trans (consume_regs ..)

/-- Taking a frame off its port and noting its number change nothing that an advance looks at. -/
theorem advanceCode_noted (src b n : Nat) (refused : Bool) :
    advanceCode (putBseq src b (frameTaken port f s)) n refused = advanceCode s n refused := by
  have hctxs : (putBseq src b (frameTaken port f s)).ctxs = s.ctxs := (noted_upd src b).same .ctxs rfl
  have hvslots : (putBseq src b (frameTaken port f s)).vslots = s.vslots := (noted_upd src b).same .vslots rfl
  exact advanceCode_congr (noted_regs src b) hctxs hvslots n refused

theorem epochTaken_repeat {n b src : Nat} (h : SMap.get (fun _ => none) s.bseqs src = some b) :
    epochTaken port n b src s = count (portPage port) .evlDupBcast 1 s := by
  have hrepeat : (b + 2 ^ 16 - b) % 2 ^ 16 < 2 ^ 15 := by
    rw [Nat.add_sub_cancel_left]
    decide
  rw [epochTaken, h, Option.map_some, Option.getD_some, if_pos (decide_eq_true hrepeat)]

theorem epochTaken_first {n b src : Nat} (h : SMap.get (fun _ => none) s.bseqs src = none) (hsrc : rd s pgEpo .epoSrc = 1)
    (hpeer : rd s pgEpo .epoPeer = src) (hlost : s.sourceLost = false) :
    epochTaken port n b src s = advanceTx n false (putBseq src b s) := by
  have hsrc' : rd (putBseq src b s) pgEpo .epoSrc = 1 := hsrc
  have hpeer' : rd (putBseq src b s) pgEpo .epoPeer = src := hpeer
  have hlost' : (putBseq src b s).sourceLost = false := hlost
  rw [epochTaken, h, if_neg (by simp)]
  dsimp only
  rw [if_pos (by simp [hsrc', hpeer', hlost'])]

/-- While the source is lost no frame moves EPOCH_NOW (R57). -/
theorem epochTaken_lost {n b src : Nat} (h : s.sourceLost = true) :
    epochNow (epochTaken port n b src s) = epochNow s ∧ (epochTaken port n b src s).sourceLost = true := by
  have hlost : (putBseq src b s).sourceLost = true := h
  unfold epochTaken
  split
  · exact ⟨rdi_counti_fld (by decide) .., h⟩
  · dsimp only
    rw [if_neg (by simp [hlost])]
    exact ⟨rdi_counti_fld (by decide) .., h⟩

end Frame

/-- Settles O15: with no milestone armed an advance changes the epoch page as `Advanced` says; a frame of the source is such an advance
after its number is noted, and a repeated number, or any frame while the source is lost, moves no epoch. -/
theorem epochAdvance : Obligations.EpochAdvance := by
  refine ⟨?host, ?codes, ?notSource, ?frame, ?lost, ?repeated⟩
  case host =>
    intro target s _ hs hsrc
    have hhost : decide (rd s pgEpo .epoSrc = 1) = false := by simp [hsrc]
    obtain ⟨hres, hnow, hera, hcount⟩ := advanceTx_advanced (refused := false) (Nat.mod_lt target (by decide : 0 < 2 ^ 32)) hs
    refine ⟨_, exec_epochAdvance target s, ?_⟩
    rw [hhost]
    exact ⟨hres, hnow, hera, hcount⟩
  case codes =>
    intro target s
    exact advanceCode_eq (Nat.mod_lt target (by decide))
  case notSource =>
    intro target s _ hsrc
    have hpeer : decide (rd s pgEpo .epoSrc = 1) = true := by simp [hsrc]
    have hcode : 2 ≤ advanceCode s (target % 2 ^ 32) true := by
      rw [advanceCode_notSource]
      decide
    obtain ⟨hres, hnow, -, hcount⟩ := advance_refused hcode
    have hsame : advanceTx (target % 2 ^ 32) true s = advance (target % 2 ^ 32) true s :=
      (advanceTx_refuses hcode).trans (advance_refuses hcode).symm
    refine ⟨_, exec_epochAdvance target s, ?_⟩
    rw [hpeer, hsame]
    refine ⟨hres, hnow, hcount, ?_, ?_⟩
    · rw [advance_refuses hcode]
      exact advanceRefused_raises _
    · rw [advance_refuses hcode]
      exact ((Upd.mono rfl (wr_upd ..)).step rfl (advanceRefused_upd _)).same
  case frame =>
    intro port f s _ hs hf hsrc hpeer hseq hlost hcode
    have hn : bits (hdrOf f).dva 31 0 < 2 ^ 32 := Nat.mod_lt _ (by decide)
    have hbseqs : (frameTaken port f s).bseqs = s.bseqs := (consume_upd port 3 f s).same .bseqs rfl
    have hkept : (frameTaken port f s).sourceLost = s.sourceLost := (consume_upd port 3 f s).same .sourceLost rfl
    have htaken := epochTaken_first (port := port) (n := bits (hdrOf f).dva 31 0) (b := bits (hdrOf f).dva 47 32)
      (s := frameTaken port f s) (hbseqs ▸ hseq) ((rdi_frameTaken ..).trans hsrc) ((rdi_frameTaken ..).trans hpeer) (hkept.trans hlost)
    have hfree := armedSlots_of_regs (noted_regs (port := port) (f := f) (hdrOf f).src (bits (hdrOf f).dva 47 32)) hs
    obtain ⟨hres, hnow, -, -⟩ := advanceTx_advanced (refused := false) hn hfree
    rw [advanceCode_noted, hcode] at hres hnow
    refine ⟨_, exec_epochBroadcast hf, ?_⟩
    rw [htaken]
    refine ⟨hnow, hres, ?_⟩
    rw [(advanceTx_upd ..).same .bseqs rfl]
    exact SMap.get_set_same (d := fun _ => none) (m := s.bseqs) (v := some (bits (hdrOf f).dva 47 32))
  case lost =>
    intro port f s hf hlost
    have hkept : (frameTaken port f s).sourceLost = s.sourceLost := (consume_upd port 3 f s).same .sourceLost rfl
    obtain ⟨hnow, hstill⟩ := epochTaken_lost (port := port) (n := bits (hdrOf f).dva 31 0) (b := bits (hdrOf f).dva 47 32)
      (src := (hdrOf f).src) (hkept.trans hlost)
    exact ⟨_, exec_epochBroadcast hf, hnow.trans (rdi_frameTaken ..), hstill⟩
  case repeated =>
    rintro port b f s hs _ hf hseq rfl
    have htaken := epochTaken_repeat (port := port) (n := bits (hdrOf f).dva 31 0) (s := frameTaken port f s) hseq
    refine ⟨_, exec_epochBroadcast hf, ?_⟩
    rw [htaken]
    refine ⟨(rdi_counti_fld (by decide) ..).trans (rdi_frameTaken ..), ?_, ?_⟩
    · rw [rd_count_same, rd, rdi_frameTaken, rd]
    · exact ((Upd.mono rfl (consume_upd port 3 f s)).step rfl (count_upd ..)).same

end Sys2Proof.Machine
end

section
/-!
Contexts and layer register sets as read after a store, and what a descriptor's start, its end and its completion do to its context
(R110, R111, R113).
-/

namespace Sys2Proof.Machine

section Stores

@[simp] theorem ctxAt_putCtx_same (i : Nat) (x : Ctx) (s : State) : ctxAt (putCtx i x s) i = x := SMap.get_set_same

theorem ctxAt_putCtx_other {i j : Nat} (h : j ≠ i) (x : Ctx) (s : State) : ctxAt (putCtx i x s) j = ctxAt s j := SMap.get_set_other h

theorem engineAt_putEngine_other {i j : Nat} (h : j ≠ i) (x : QEngine) (s : State) : engineAt (putEngine i x s) j = engineAt s j :=
  SMap.get_set_other h

theorem ctxAt_congr {s t : State} (h : t.ctxs = s.ctxs) (i : Nat) : ctxAt t i = ctxAt s i := by rw [ctxAt, h, ← ctxAt]

theorem engineAt_congr {s t : State} (h : t.engines = s.engines) (i : Nat) : engineAt t i = engineAt s i := by
  rw [engineAt, h, ← engineAt]

theorem runAt_congr {s t : State} (h : t.runs = s.runs) (n : Nat) : runAt t n = runAt s n := by rw [runAt, h, ← runAt]

@[simp] theorem q_putQ_same (x : Ctx) (q : Nat) (y : QState) : (x.putQ q y).q q = y := (setAt_getD ..).trans (if_pos rfl)

theorem q_putQ_other {i q : Nat} (h : i ≠ q) (x : Ctx) (y : QState) : (x.putQ q y).q i = x.q i := (setAt_getD ..).trans (if_neg h)

theorem bar_putBar (x : Ctx) (b : XBar) : (x.putBar b).bar b.entry = b := by
  have hfilter : (x.bars.filter fun y => y.entry != b.entry).find? (fun y => y.entry = b.entry) = none := by
    simp
  simp [Ctx.bar, Ctx.putBar, List.find?_append, hfilter]

theorem entry_bar (x : Ctx) (e : Nat) : (x.bar e).entry = e := by
  unfold Ctx.bar
  cases h : x.bars.find? fun b => b.entry = e with
  | none => rfl
  | some b => exact of_decide_eq_true (List.find?_some (p := fun b : XBar => b.entry = e) h)

end Stores

/-- An operation replaces context `i` by `x` and no other. -/
structure CtxBecomes (i : Nat) (x : Ctx) (s t : State) : Prop where
  here : ctxAt t i = x
  other : ∀ j, j ≠ i → ctxAt t j = ctxAt s j

section Becomes

variable {i : Nat} {x y : Ctx} {s t u : State}

theorem CtxBecomes.put (i : Nat) (x : Ctx) (s : State) : CtxBecomes i x s (putCtx i x s) :=
  ⟨ctxAt_putCtx_same i x s, fun _ h => ctxAt_putCtx_other h x s⟩

/-- An earlier operation that touches no context does not matter. -/
theorem CtxBecomes.after (h : CtxBecomes i x t u) (hs : t.ctxs = s.ctxs) : CtxBecomes i x s u :=
  ⟨h.here, fun j hj => (h.other j hj).trans (ctxAt_congr hs j)⟩

theorem CtxBecomes.before (h : CtxBecomes i x s t) (hu : u.ctxs = t.ctxs) : CtxBecomes i x s u :=
  ⟨(ctxAt_congr hu i).trans h.here, fun j hj => (ctxAt_congr hu j).trans (h.other j hj)⟩

theorem CtxBecomes.trans (h : CtxBecomes i x s t) (h' : CtxBecomes i y t u) : CtxBecomes i y s u :=
  ⟨h'.here, fun j hj => (h'.other j hj).trans (h.other j hj)⟩

end Becomes

/-- The work of a descriptor as its start leaves it. -/
def startedWork (d : Desc) : Work := { k := d.k, img := d.img, slotHeld := dRec d.img || canFault (dType d.img) }

/-- A context after the start of its loaded descriptor `d` of queue `q`. -/
def Ctx.started (x : Ctx) (q : Nat) (d : Desc) : Ctx :=
  Ctx.putQ { x with slots := x.slots.filter (· != (q, d.k)) } q { x.q q with idle := none, live := (x.q q).live ++ [startedWork d] }

/-- A context after the work of descriptor `k` of queue `q` ended. -/
def Ctx.ended (x : Ctx) (q k : Nat) (st : DStat) (exc detail : Nat) : Ctx :=
  x.putQ q ((x.q q).mapWork k fun w => { w with stat := some st, exc := exc, detail := detail, began := true })

/-- A context after the head `w` of queue `q` completed. -/
def Ctx.completed (x : Ctx) (q : Nat) (w : Work) (st : DStat) : Ctx :=
  Ctx.putQ { x with
    wbDone := if st = .ok || st = .poisoned then setAt 0 x.wbDone q ((x.wbDone.getD q 0 + 1) % 2 ^ 16) else x.wbDone,
    st := if dType w.img = 0x10 && x.st = .binding then .running else x.st } q
    { x.q q with live := (x.q q).live.drop 1 }

section Steps

variable (g c q : Nat) (s : State)

theorem startDesc_ctx (d : Desc) :
    CtxBecomes (ctxId g c) ((ctxAt s (ctxId g c)).started q d) s (startDesc g c q d s) := by
  unfold startDesc
  extract_lets x e passed e1 e2 slot s1 s2 y w z
  have hs1 : Upd [.sess] s s1 := Upd.ite (fun _ => cqReserve_upd ..) fun _ => Upd.refl s
  have hs2 : Upd [.regSpd, .spads, .engines, .sess] s s2 :=
    ((Upd.mono rfl hs1).step rfl (putEngine_upd ..)).step rfl (sbRegister_upd ..)
  have hctxs : s2.ctxs = s.ctxs := hs2.same .ctxs rfl
  have hy : y = ctxAt s (ctxId g c) := ctxAt_congr hctxs _
  have hput : CtxBecomes (ctxId g c) (y.started q d) s2 (putCtx (ctxId g c) (y.started q d) s2) := CtxBecomes.put ..
  exact hy ▸ hput.after hctxs

theorem endWork_ok (k exc detail : Nat) : endWork g c q k .ok exc detail s =
    mapWork g c q k (fun w => { w with stat := some .ok, exc := exc, detail := detail, began := true }) (engineFree g q c k s) := rfl

theorem endWork_ok_upd (k exc detail : Nat) : Upd [.ctxs, .engines] s (endWork g c q k .ok exc detail s) :=
  endWork_ok .. ▸ (Upd.mono rfl (engineFree_upd ..)).step rfl (mapWork_upd ..)

theorem endWork_ok_ctx (k exc detail : Nat) :
    CtxBecomes (ctxId g c) ((ctxAt s (ctxId g c)).ended q k .ok exc detail) s (endWork g c q k .ok exc detail s) := by
  have hctxs : (engineFree g q c k s).ctxs = s.ctxs := (engineFree_upd ..).same .ctxs rfl
  have hput := (CtxBecomes.put (ctxId g c) ((ctxAt (engineFree g q c k s) (ctxId g c)).ended q k .ok exc detail)
    (engineFree g q c k s)).after hctxs
  rw [ctxAt_congr hctxs] at hput
  rwa [endWork_ok, mapWork, ctxAt_congr hctxs]

theorem completeHead_ctx (w : Work) (st : DStat) (cycles : Nat) :
    CtxBecomes (ctxId g c) ((ctxAt s (ctxId g c)).completed q w st) s (completeHead g c q w st cycles s) := by
  unfold completeHead
  extract_lets x r needs rec_ done run z s1 s2 s3
  have hs1 : CtxBecomes (ctxId g c) ((ctxAt s (ctxId g c)).completed q w st) s s1 := CtxBecomes.put ..
  have hs2 : Upd [.sess] s1 s2 := Upd.ite (fun _ => cqReserve_upd ..) fun _ => Upd.refl s1
  have hs3 : Upd [.outbox, .regRng, .sess] s2 s3 :=
    Upd.ite (fun _ => cqWrite_upd ..) fun _ => Upd.ite (fun _ => Upd.mono rfl (cqUnreserve_upd ..)) fun _ => Upd.refl s2
  have hall : Upd [.outbox, .regEng, .regTmv, .regBkc, .regRng, .sess] s1 (noteDone g q w s3) :=
    ((Upd.mono rfl hs2).step rfl hs3).step rfl (noteDone_upd ..)
  exact hs1.before (hall.same .ctxs rfl)

end Steps

end Sys2Proof.Machine
end

section
/-!
O25: a BARRIER (R117). The last arrival completes the descriptors of all participants one after another, and what happens at one
queue leaves the others as they stand.
-/

namespace Sys2Proof.Machine

/-- What the completion of one participant of a barrier may change. -/
def barrierParts : List Part := [.outbox, .regEng, .regSpd, .regTmv, .regBkc, .regRng, .ctxs, .engines, .spads, .sess]

/-- Of the context's queues and waybills only queue `q`'s have moved, and of the core only that queue's layer register sets. -/
structure QueueMoves (g c q : Nat) (s t : State) : Prop where
  parts : Upd barrierParts s t
  ctx : ∀ j, j ≠ ctxId g c → ctxAt t j = ctxAt s j
  queue : ∀ i, i ≠ q → (ctxAt t (ctxId g c)).q i = (ctxAt s (ctxId g c)).q i
  done : ∀ i, i ≠ q → (ctxAt t (ctxId g c)).wbDone.getD i 0 = (ctxAt s (ctxId g c)).wbDone.getD i 0
  engine : ∀ n, n ≠ 8 * g + q → engineAt t n = engineAt s n

/-- The barrier entries stand too. -/
structure BarrierMoves (g c q : Nat) (s t : State) : Prop extends QueueMoves g c q s t where
  bars : (ctxAt t (ctxId g c)).bars = (ctxAt s (ctxId g c)).bars

section Moves

variable {g c q : Nat} {s t u : State}

theorem BarrierMoves.refl (s : State) : BarrierMoves g c q s s :=
  ⟨⟨Upd.refl s, fun _ _ => rfl, fun _ _ => rfl, fun _ _ => rfl, fun _ _ => rfl⟩, rfl⟩

theorem BarrierMoves.trans (h : BarrierMoves g c q s t) (h' : BarrierMoves g c q t u) : BarrierMoves g c q s u where
  parts := h.parts.trans h'.parts
  ctx j hj := (h'.ctx j hj).trans (h.ctx j hj)
  queue i hi := (h'.queue i hi).trans (h.queue i hi)
  done i hi := (h'.done i hi).trans (h.done i hi)
  bars := h'.bars.trans h.bars
  engine n hn := (h'.engine n hn).trans (h.engine n hn)

theorem startDesc_engine {n : Nat} (hn : n ≠ 8 * g + q) (d : Desc) (s : State) : engineAt (startDesc g c q d s) n = engineAt s n := by
  unfold startDesc
  extract_lets x e passed e1 e2 slot s1 s2 y w z
  have hreserved : engineAt s1 n = engineAt s n :=
    engineAt_congr ((Upd.ite (fun _ => cqReserve_upd ..) fun _ => Upd.refl s : Upd [.sess] s s1).same .engines rfl) n
  have hregistered : engineAt s2 n = engineAt (putEngine (8 * g + q) e2 s1) n := engineAt_congr ((sbRegister_upd ..).same .engines rfl) n
  calc engineAt _ n = engineAt s2 n := engineAt_congr ((putCtx_upd ..).same .engines rfl) n
    _ = engineAt s1 n := hregistered.trans (engineAt_putEngine_other hn ..)
    _ = engineAt s n := hreserved

theorem engineFree_engine {n : Nat} (hn : n ≠ 8 * g + q) (k : Nat) (s : State) : engineAt (engineFree g q c k s) n = engineAt s n := by
  unfold engineFree
  dsimp only
  split
  · exact engineAt_putEngine_other hn ..
  · rfl

theorem BarrierMoves.start (d : Desc) (s : State) : BarrierMoves g c q s (startDesc g c q d s) where
  parts := Upd.mono rfl (startDesc_upd ..)
  ctx := (startDesc_ctx g c q s d).other
  queue _ hi := (startDesc_ctx g c q s d).here ▸ q_putQ_other hi ..
  done _ _ := (startDesc_ctx g c q s d).here ▸ rfl
  bars := (startDesc_ctx g c q s d).here ▸ rfl
  engine _ hn := startDesc_engine hn d s

theorem BarrierMoves.finish (k exc detail : Nat) (s : State) : BarrierMoves g c q s (endWork g c q k .ok exc detail s) where
  parts := Upd.mono rfl (endWork_ok_upd ..)
  ctx := (endWork_ok_ctx g c q s k exc detail).other
  queue _ hi := (endWork_ok_ctx g c q s k exc detail).here ▸ q_putQ_other hi ..
  done _ _ := (endWork_ok_ctx g c q s k exc detail).here ▸ rfl
  bars := (endWork_ok_ctx g c q s k exc detail).here ▸ rfl
  engine n hn := by
    rw [endWork_ok]
    exact (engineAt_congr ((mapWork_upd ..).same .engines rfl) n).trans (engineFree_engine hn k s)

theorem wbDone_completed (x : Ctx) (q i : Nat) (w : Work) : (x.completed q w .ok).wbDone.getD i 0 =
    if i = q then (x.wbDone.getD q 0 + 1) % 2 ^ 16 else x.wbDone.getD i 0 := setAt_getD ..

theorem BarrierMoves.complete (w : Work) (cycles : Nat) (s : State) : BarrierMoves g c q s (completeHead g c q w .ok cycles s) where
  parts := Upd.mono rfl (completeHead_upd ..)
  ctx := (completeHead_ctx g c q s w .ok cycles).other
  queue _ hi := (completeHead_ctx g c q s w .ok cycles).here ▸ q_putQ_other hi ..
  done _ hi := (completeHead_ctx g c q s w .ok cycles).here ▸ (wbDone_completed ..).trans (if_neg hi)
  bars := (completeHead_ctx g c q s w .ok cycles).here ▸ rfl
  engine n _ := engineAt_congr ((completeHead_upd ..).same .engines rfl) n

theorem barrierDone_moves (g c q : Nat) (s : State) : BarrierMoves g c q s (barrierDone g c q s) := by
  unfold barrierDone
  dsimp only
  split
  · exact .refl s
  · next d _ =>
    split
    · exact .refl s
    · have hended : BarrierMoves g c q s (endWork g c q d.k .ok 0 0 (startDesc g c q d s)) := (BarrierMoves.start d s).trans (.finish ..)
      split
      · exact hended.trans (.complete ..)
      · exact hended

end Moves

/-- The queue's loaded descriptor `d` is a BARRIER without REC that the queue may start and complete at once. -/
structure BarrierReady (g c q : Nat) (d : Desc) (s : State) : Prop where
  idle : ((ctxAt s (ctxId g c)).q q).idle = some d
  type : dType d.img = 0x03
  noRec : dRec d.img = false
  alone : ((ctxAt s (ctxId g c)).q q).live = []
  starts : coreStarts s g q = true
  opens : engineOpen s g q = true

/-- The queue's BARRIER has completed: nothing is loaded or started, and the waybill has moved on from `n`. -/
structure BarrierPassed (g c q n : Nat) (s : State) : Prop where
  idle : ((ctxAt s (ctxId g c)).q q).idle = none
  alone : ((ctxAt s (ctxId g c)).q q).live = []
  done : (ctxAt s (ctxId g c)).wbDone.getD q 0 = (n + 1) % 2 ^ 16

section Passes

variable {g c q i n : Nat} {d : Desc} {s t : State}

theorem coreStarts_moves (h : QueueMoves g c q s t) (i : Nat) : coreStarts t g i = coreStarts s g i := by
  have hpart (n : Nat) : partState t n = partState s n := h.parts.same .regRcv rfl _ _ _ rfl
  have hfenced (p : Nat) : rd t p .hdrFenced = rd s p .hdrFenced := h.parts.same .regCtl rfl _ _ _ rfl
  have hhold : t.partHold = s.partHold := h.parts.same .partHold rfl
  rw [coreStarts, coreStarts, partServes, partServes, hpart, hfenced, hfenced, hhold]

theorem bkInFlight_moves (h : QueueMoves g c q s t) (hq : q ≠ qBk) : bkInFlight t g = bkInFlight s g := by
  have hqueue (k : Nat) : (ctxAt t (ctxId g k)).q qBk = (ctxAt s (ctxId g k)).q qBk := by
    by_cases hk : ctxId g k = ctxId g c
    · rw [hk]
      exact h.queue qBk hq.symm
    · rw [h.ctx _ hk]
  simp only [bkInFlight, hqueue]

theorem engineOpen_moves (h : QueueMoves g c q s t) (hi : i ≠ q) : engineOpen t g i = engineOpen s g i := by
  have hengine : engineAt t (8 * g + i) = engineAt s (8 * g + i) := h.engine _ (by omega)
  rw [engineOpen, engineOpen, hengine]
  by_cases hbk : i = qBk
  · rw [bkInFlight_moves h (hbk ▸ hi.symm)]
  · rw [(bne_iff_ne.mpr hbk : (i != qBk) = true), Bool.true_or, Bool.true_or]

theorem BarrierReady.moves (hr : BarrierReady g c i d s) (h : QueueMoves g c q s t) (hi : i ≠ q) : BarrierReady g c i d t where
  idle := h.queue i hi ▸ hr.idle
  type := hr.type
  noRec := hr.noRec
  alone := h.queue i hi ▸ hr.alone
  starts := coreStarts_moves h i ▸ hr.starts
  opens := engineOpen_moves h hi ▸ hr.opens

theorem BarrierPassed.moves (hp : BarrierPassed g c i n s) (h : QueueMoves g c q s t) (hi : i ≠ q) : BarrierPassed g c i n t where
  idle := h.queue i hi ▸ hp.idle
  alone := h.queue i hi ▸ hp.alone
  done := (h.done i hi).trans hp.done

/-- A BARRIER without REC needs no record slot. -/
theorem slotThere_barrier (hr : BarrierReady g c q d s) (x : Ctx) : slotThere s x q d = true := by
  rw [slotThere, hr.noRec, hr.type]
  rfl

theorem barrierDone_passes (hr : BarrierReady g c q d s) :
    BarrierPassed g c q ((ctxAt s (ctxId g c)).wbDone.getD q 0) (barrierDone g c q s) := by
  let w : Work := { startedWork d with stat := some .ok, exc := 0, detail := 0, began := true }
  have hstart := (startDesc_ctx g c q s d).here
  have hend := (endWork_ok_ctx g c q (startDesc g c q d s) d.k 0 0).here
  rw [hstart] at hend
  have hlive : ((ctxAt (endWork g c q d.k .ok 0 0 (startDesc g c q d s)) (ctxId g c)).q q) =
      { (ctxAt s (ctxId g c)).q q with idle := none, live := [w] } := by
    rw [hend, Ctx.ended, q_putQ_same, Ctx.started, q_putQ_same, hr.alone]
    simp [QState.mapWork, startedWork, w]
  have hdone : (ctxAt (endWork g c q d.k .ok 0 0 (startDesc g c q d s)) (ctxId g c)).wbDone = (ctxAt s (ctxId g c)).wbDone := hend ▸ rfl
  have hcomplete := (completeHead_ctx g c q (endWork g c q d.k .ok 0 0 (startDesc g c q d s)) w .ok 0).here
  have heq : barrierDone g c q s = completeHead g c q w .ok 0 (endWork g c q d.k .ok 0 0 (startDesc g c q d s)) := by
    rw [barrierDone]
    dsimp only
    rw [hr.idle]
    dsimp only
    rw [if_neg (by simp [hr.type, hr.starts, hr.opens, slotThere_barrier hr]), hlive]
  rw [heq]
  refine ⟨?_, ?_, ?_⟩
  · rw [hcomplete, Ctx.completed, q_putQ_same, hlive]
  · rw [hcomplete, Ctx.completed, q_putQ_same, hlive, List.drop_one, List.tail_cons]
  · rw [hcomplete, wbDone_completed, if_pos rfl, hdone]

theorem foldl_barrierDone_keeps {l : List Nat} (hi : i ∉ l) (hp : BarrierPassed g c i n s) :
    BarrierPassed g c i n (l.foldl (fun t j => barrierDone g c j t) s) := by
  induction l generalizing s with
  | nil => exact hp
  | cons j l ih =>
    obtain ⟨hij, hi⟩ := not_or.mp (List.mem_cons.not.mp hi)
    exact ih hi (hp.moves (barrierDone_moves g c j s).toQueueMoves hij)

/-- Every participant that is ready passes; what the others do does not matter. -/
theorem foldl_barrierDone_passes {l : List Nat} (hl : l.Nodup) (hi : i ∈ l) (hr : BarrierReady g c i d s) :
    BarrierPassed g c i ((ctxAt s (ctxId g c)).wbDone.getD i 0) (l.foldl (fun t j => barrierDone g c j t) s) := by
  induction l generalizing s with
  | nil => cases hi
  | cons j l ih =>
    obtain ⟨hj, hl⟩ := List.nodup_cons.mp hl
    have hmoves := barrierDone_moves g c j s
    obtain rfl | ⟨hij, hi⟩ := List.eq_or_ne_mem_of_mem hi
    · rw [List.foldl_cons]
      exact foldl_barrierDone_keeps hj (barrierDone_passes hr)
    · rw [← hmoves.done i hij]
      exact ih hl hi (hr.moves hmoves.toQueueMoves hij)

/-- Completing the participants leaves the other contexts and the barrier entries. -/
theorem foldl_barrierDone_leaves (l : List Nat) (s : State) :
    (∀ j, j ≠ ctxId g c → ctxAt (l.foldl (fun t i => barrierDone g c i t) s) j = ctxAt s j) ∧
      (ctxAt (l.foldl (fun t i => barrierDone g c i t) s) (ctxId g c)).bars = (ctxAt s (ctxId g c)).bars := by
  refine foldl_keeps
    (Q := fun t => (∀ j, j ≠ ctxId g c → ctxAt t j = ctxAt s j) ∧ (ctxAt t (ctxId g c)).bars = (ctxAt s (ctxId g c)).bars)
    ⟨fun _ _ => rfl, rfl⟩ fun t i ⟨hctx, hbars⟩ => ?_
  have hmoves := barrierDone_moves g c i t
  exact ⟨fun j hj => (hmoves.ctx j hj).trans (hctx j hj), hmoves.bars.trans hbars⟩

end Passes

section Barrier

variable {g c q e : Nat} {d : Desc} {s : State}

/-- The participants of a barrier entry (R104, R117). -/
def participants (s : State) (g c e : Nat) : List Nat :=
  (List.range 8).filter fun i => bit (fieldAt (barrierEntry (ctxImage s g c) e) 0 31 24) i = 1

/-- A queue's BARRIER may arrive at entry `e`, whose pass it takes part in is not reached yet. -/
structure Arrives (g c q e : Nat) (d : Desc) (s : State) : Prop where
  idle : ((ctxAt s (ctxId g c)).q q).idle = some d
  type : dType d.img = 0x03
  opened : ctxOpen (ctxAt s (ctxId g c)) 0x03 = true
  starts : coreStarts s g q = true
  waits : waitsMet (ctxAt s (ctxId g c)) d.img = true
  entry : e = fieldAt d.img 0x10 11 0
  pass : ((ctxAt s (ctxId g c)).bar e).passes < barOrdinal (ctxImage s g c) (ctxAt s (ctxId g c)) q e d.k
  first : q ∉ ((ctxAt s (ctxId g c)).bar e).arrived

/-- The state in which the last arrival has counted the pass. -/
def passCounted (g c e : Nat) (s : State) : State :=
  putCtx (ctxId g c) ((ctxAt s (ctxId g c)).putBar ⟨e, ((ctxAt s (ctxId g c)).bar e).passes + 1, []⟩) s

/-- The state in which the queue has arrived and others are missing. -/
def arrived (g c q e : Nat) (s : State) : State :=
  putCtx (ctxId g c) ((ctxAt s (ctxId g c)).putBar
    { (ctxAt s (ctxId g c)).bar e with arrived := ((ctxAt s (ctxId g c)).bar e).arrived ++ [q] }) s

theorem exec_barrier (h : Arrives g c q e d s) : exec (.barrier g c q) s = .next
    (if (participants s g c e).all (((ctxAt s (ctxId g c)).bar e).arrived ++ [q]).contains then
      (participants s g c e).foldl (fun t i => barrierDone g c i t) (passCounted g c e s)
    else arrived g c q e s) := by
  obtain ⟨hidle, htype, hopen, hstarts, hwaits, rfl, hpass, hfirst⟩ := h
  show execBarrier g c q s = _
  rw [execBarrier]
  dsimp only
  rw [hidle]
  dsimp only
  rw [if_neg (by simp [htype, hopen, hstarts, hwaits]), if_neg (by omega), if_neg (by simpa using hfirst), ← apply_ite Host.Outcome.next]
  rfl

theorem participants_nodup (s : State) (g c e : Nat) : (participants s g c e).Nodup := List.nodup_range.filter _

theorem all_arrived (l m : List Nat) : l.all (m ++ [q]).contains = true ↔ ∀ i, i ∈ l → i = q ∨ i ∈ m := by
  simp [or_comm]

theorem not_all_arrived {l m : List Nat} (h : ∃ i, i ∈ l ∧ i ≠ q ∧ i ∉ m) : ¬l.all (m ++ [q]).contains = true := by
  obtain ⟨i, hi, hne, hnot⟩ := h
  rw [all_arrived]
  exact fun hall => (hall i hi).elim hne hnot

theorem arrived_bar (g c q e : Nat) (s : State) : (ctxAt (arrived g c q e s) (ctxId g c)).bar e =
    { (ctxAt s (ctxId g c)).bar e with arrived := ((ctxAt s (ctxId g c)).bar e).arrived ++ [q] } := by
  have hbar := bar_putBar (ctxAt s (ctxId g c))
    { (ctxAt s (ctxId g c)).bar e with arrived := ((ctxAt s (ctxId g c)).bar e).arrived ++ [q] }
  rw [arrived, ctxAt_putCtx_same]
  rwa [entry_bar] at hbar

theorem arrived_queue (g c q e i : Nat) (s : State) : (ctxAt (arrived g c q e s) (ctxId g c)).q i = (ctxAt s (ctxId g c)).q i := by
  rw [arrived, ctxAt_putCtx_same]
  rfl

theorem passCounted_moves (g c e k : Nat) (s : State) : QueueMoves g c k s (passCounted g c e s) where
  parts := Upd.mono rfl (putCtx_upd ..)
  ctx _ hj := ctxAt_putCtx_other hj ..
  queue _ _ := by
    rw [passCounted, ctxAt_putCtx_same]
    rfl
  done _ _ := by
    rw [passCounted, ctxAt_putCtx_same]
    rfl
  engine n _ := engineAt_congr ((putCtx_upd ..).same .engines rfl) n

theorem bar_of_bars {x y : Ctx} (h : y.bars = x.bars) (e : Nat) : y.bar e = x.bar e := by rw [Ctx.bar, h, ← Ctx.bar]

theorem passCounted_bar (g c e : Nat) (s : State) :
    (ctxAt (passCounted g c e s) (ctxId g c)).bar e = ⟨e, ((ctxAt s (ctxId g c)).bar e).passes + 1, []⟩ := by
  rw [passCounted, ctxAt_putCtx_same]
  exact bar_putBar _ ⟨e, ((ctxAt s (ctxId g c)).bar e).passes + 1, []⟩

end Barrier

end Sys2Proof.Machine
end

section
/-!
O25: the descriptors of the control path that complete, bind a context or wait for an epoch (R52, R60, R109, R121).
-/

namespace Sys2Proof.Machine

/-- A context after a halt (R121). -/
def Ctx.halted (x : Ctx) : Ctx := if x.st = .running || x.st = .binding then { x with st := .halted } else x

/-- Nothing of the context starts. -/
def Ctx.Stopped (x : Ctx) : Prop := x.st ≠ .running ∧ x.st ≠ .binding

section Halt

variable {i : Nat} {s : State}

theorem Ctx.halted_stopped (x : Ctx) : x.halted.Stopped := by
  unfold Ctx.halted
  split
  · exact ⟨CtxState.noConfusion, CtxState.noConfusion⟩
  · next h => simpa [Ctx.Stopped] using h

theorem Ctx.halted_qs (x : Ctx) : x.halted.qs = x.qs := by
  unfold Ctx.halted
  split <;> rfl

theorem Ctx.halted_bindRefused (x : Ctx) : x.halted.bindRefused = x.bindRefused := by
  unfold Ctx.halted
  split <;> rfl

theorem haltCtx_ctx (g c : Nat) (s : State) : CtxBecomes (ctxId g c) (ctxAt s (ctxId g c)).halted s (haltCtx g c s) := by
  unfold haltCtx Ctx.halted
  dsimp only
  split
  · exact (CtxBecomes.put ..).before ((dropClaims_upd ..).same .ctxs rfl)
  · exact ⟨rfl, fun _ _ => rfl⟩

/-- Whatever halts keeps every context or halts it. -/
theorem ctxAt_haltCtx (g c j : Nat) (s : State) : ctxAt (haltCtx g c s) j = ctxAt s j ∨ ctxAt (haltCtx g c s) j = (ctxAt s j).halted := by
  by_cases hj : j = ctxId g c
  · subst hj
    exact .inr (haltCtx_ctx g c s).here
  · exact .inl ((haltCtx_ctx g c s).other j hj)

theorem haltCtx_stops (id : Nat) (s : State) : (ctxAt (haltCtx (id / 4) (id % 4) s) id).Stopped := by
  have hid : ctxId (id / 4) (id % 4) = id := Nat.div_add_mod id 4
  have hhalt := (haltCtx_ctx (id / 4) (id % 4) s).here
  rw [hid] at hhalt
  exact hhalt ▸ Ctx.halted_stopped _

theorem haltCtx_keeps_stopped (g c : Nat) {j : Nat} (h : (ctxAt s j).Stopped) : (ctxAt (haltCtx g c s) j).Stopped := by
  obtain hsame | hhalted := ctxAt_haltCtx g c j s
  · exact hsame ▸ h
  · exact hhalted ▸ Ctx.halted_stopped _

theorem haltCtx_bindRefused (g c j : Nat) (s : State) : (ctxAt (haltCtx g c s) j).bindRefused = (ctxAt s j).bindRefused := by
  obtain hsame | hhalted := ctxAt_haltCtx g c j s
  · rw [hsame]
  · rw [hhalted, Ctx.halted_bindRefused]

theorem haltRun_bindRefused (n : Nat) (r : Run) (j : Nat) (s : State) :
    (ctxAt (haltRun n r s) j).bindRefused = (ctxAt s j).bindRefused :=
  foldl_keeps (Q := fun t => (ctxAt t j).bindRefused = (ctxAt s j).bindRefused) rfl fun _ _ h => (haltCtx_bindRefused ..).trans h

/-- Of the contexts of run `n` none starts anything after the run's halt. -/
theorem haltRun_stops {n id : Nat} {r : Run} (hid : id ∈ r.ctxs) (hrun : (ctxAt s id).run = n) : (ctxAt (haltRun n r s) id).Stopped := by
  by_cases hfree : (ctxAt s id).st = .free
  · exact foldl_keeps (Q := fun t => (ctxAt t id).Stopped) (by rw [Ctx.Stopped, hfree]; decide) fun _ _ h => haltCtx_keeps_stopped _ _ h
  · have hheld : id ∈ runCtxs s n r := by
      simp [runCtxs, runHolds, hid, hrun, hfree]
    exact foldl_reaches (Q := fun t => (ctxAt t id).Stopped) hheld (haltCtx_stops id) fun _ _ h => haltCtx_keeps_stopped _ _ h

end Halt

section Ends

variable {g c q k : Nat} {s : State}

theorem ended_of_queue {t u : State} (h : (ctxAt u (ctxId g c)).qs = (ctxAt t (ctxId g c)).qs) {st : DStat} (ht : Ended g c q k st t) :
    Ended g c q k st u := by
  rwa [Ended, Ctx.q, h, ← Ctx.q, ← Ended]

/-- The work of a started descriptor ends: it stands in its queue with its status. -/
theorem mapWork_ended {w : Work} (hw : w ∈ ((ctxAt s (ctxId g c)).q q).live) (hk : w.k = k) (st : DStat) (exc detail : Nat) :
    Ended g c q k st (mapWork g c q k (fun w => { w with stat := some st, exc := exc, detail := detail, began := true }) s) := by
  refine ⟨{ w with stat := some st, exc := exc, detail := detail, began := true }, ?_, hk, rfl⟩
  rw [mapWork, ctxAt_putCtx_same, q_putQ_same]
  exact List.mem_map.mpr ⟨w, hw, if_pos hk⟩

theorem endWork_ok_ended {w : Work} (hw : w ∈ ((ctxAt s (ctxId g c)).q q).live) (hk : w.k = k) (exc detail : Nat) :
    Ended g c q k .ok (endWork g c q k .ok exc detail s) := by
  have hctxs : (engineFree g q c k s).ctxs = s.ctxs := (engineFree_upd ..).same .ctxs rfl
  exact mapWork_ended (ctxAt_congr hctxs _ ▸ hw) hk ..

/-- A FAULT ends the work and halts the context (R121). -/
theorem endWork_fault_ended {w : Work} (hw : w ∈ ((ctxAt s (ctxId g c)).q q).live) (hk : w.k = k) (exc detail : Nat) :
    Ended g c q k .fault (endWork g c q k .fault exc detail s) ∧ (ctxAt (endWork g c q k .fault exc detail s) (ctxId g c)).Stopped := by
  unfold endWork
  extract_lets t
  rw [if_pos (by decide)]
  have hctxs : (engineFree g q c k s).ctxs = s.ctxs := (engineFree_upd ..).same .ctxs rfl
  have hended : Ended g c q k .fault t := mapWork_ended (ctxAt_congr hctxs _ ▸ hw) hk ..
  set u := noteFirst g c q k .fault detail (sbRelease g q c (absWb (ctxAt t (ctxId g c)) q k) (fun _ => true) t)
  have hut : Upd [.outbox, .regIrq, .regErr, .regSpd, .regFlt, .spads, .spad, .spadChk, .ceWins, .runs] t u :=
    (Upd.mono rfl (sbRelease_upd ..)).step rfl (noteFirst_upd ..)
  have hhalt := (haltCtx_ctx g c u).here
  refine ⟨ended_of_queue ?_ hended, hhalt ▸ Ctx.halted_stopped _⟩
  rw [hhalt, Ctx.halted_qs, ctxAt_congr (hut.same .ctxs rfl)]

end Ends

section Takes

variable {g c q : Nat} {w : Work} {u s : State} {p : List Byte → Bool}

/-- A taken descriptor was started before, or its start is part of the operation. -/
theorem takeDesc_cases (h : takeDesc s g c q p = some (w, u)) :
    (u = s ∧ w ∈ ((ctxAt s (ctxId g c)).q q).live) ∨ ∃ d, u = startDesc g c q d s ∧ w = startedWork d := by
  unfold takeDesc at h
  split at h
  · next v hfind =>
    obtain ⟨rfl, rfl⟩ := Prod.mk.inj (Option.some.inj h)
    exact .inl ⟨rfl, List.mem_of_find?_eq_some hfind⟩
  · split at h
    · exact absurd h (by simp)
    · next d _ =>
      split at h
      · obtain ⟨rfl, rfl⟩ := Prod.mk.inj (Option.some.inj h)
        exact .inr ⟨d, rfl, rfl⟩
      · exact absurd h (by simp)

theorem takeDesc_live (h : takeDesc s g c q p = some (w, u)) : w ∈ ((ctxAt u (ctxId g c)).q q).live := by
  obtain ⟨rfl, hw⟩ | ⟨d, rfl, rfl⟩ := takeDesc_cases h
  · exact hw
  · rw [(startDesc_ctx g c q s d).here, Ctx.started, q_putQ_same]
    exact List.mem_append_right _ (List.mem_singleton_self _)

/-- Taking a descriptor leaves what its context is bound to. -/
theorem takeDesc_binding (h : takeDesc s g c q p = some (w, u)) : (ctxAt u (ctxId g c)).bound = (ctxAt s (ctxId g c)).bound ∧
    (ctxAt u (ctxId g c)).snap = (ctxAt s (ctxId g c)).snap ∧ (ctxAt u (ctxId g c)).run = (ctxAt s (ctxId g c)).run := by
  obtain ⟨rfl, -⟩ | ⟨d, rfl, -⟩ := takeDesc_cases h
  · exact ⟨rfl, rfl, rfl⟩
  · rw [(startDesc_ctx g c q s d).here]
    exact ⟨rfl, rfl, rfl⟩

theorem takeDesc_parts (h : takeDesc s g c q p = some (w, u)) : Upd [.regSpd, .ctxs, .engines, .spads, .sess] s u :=
  (takeDesc_upd s g c q p).of_eq h

theorem takeDesc_epochNow (h : takeDesc s g c q p = some (w, u)) : epochNow u = epochNow s :=
  (takeDesc_parts h).same .regEpo rfl _ _ _ rfl

theorem plainDesc_ended {type : Nat} (h : takeDesc s g c q (fun d => dType d = type) = some (w, u)) :
    Ended g c q w.k .ok (plainDesc type g c q s) := by
  rw [plainDesc, h]
  exact endWork_ok_ended (takeDesc_live h) rfl ..

end Takes

section Bind

variable {g c snap : Nat} {w : Work} {u s : State}

theorem exec_ctxBind (h : takeDesc s g c qCt (fun d => dType d = 0x10) = some (w, u))
    (hsnap : snap = bindSnap s ((runAt s (ctxAt s (ctxId g c)).run).getD {}) w.img) : exec (.ctxBind g c) s = .next
      (if (ctxAt s (ctxId g c)).bound then endWork g c qCt w.k .ok 0 0 u
      else if bindAccepted s snap then floorCheck (endWork g c qCt w.k .ok 0 0
        (putCtx (ctxId g c) { ctxAt u (ctxId g c) with bound := true, snap := snap, prio := fieldAt w.img 0x18 1 0 } u))
      else refuseBind g c s) := by
  have hnow := takeDesc_epochNow h
  obtain ⟨hbound, -, hrun⟩ := takeDesc_binding h
  have hruns (n : Nat) : runAt u n = runAt s n := runAt_congr ((takeDesc_parts h).same .runs rfl) n
  have hnamed : bindSnap u ((runAt u (ctxAt u (ctxId g c)).run).getD {}) w.img = snap := by
    rw [hrun, hruns, bindSnap, hnow, hsnap, ← bindSnap]
  have haccepts : bindAccepted u snap = bindAccepted s snap := by rw [bindAccepted, hnow, ← bindAccepted]
  show execCtxBind g c s = _
  rw [execCtxBind, h]
  dsimp only
  rw [hnamed, hbound, haccepts, ← apply_ite Host.Outcome.next, ← apply_ite Host.Outcome.next]

theorem bind_again (h : takeDesc s g c qCt (fun d => dType d = 0x10) = some (w, u)) :
    (ctxAt (endWork g c qCt w.k .ok 0 0 u) (ctxId g c)).snap = (ctxAt s (ctxId g c)).snap ∧
      Ended g c qCt w.k .ok (endWork g c qCt w.k .ok 0 0 u) := by
  obtain ⟨-, hsnap, -⟩ := takeDesc_binding h
  refine ⟨?_, endWork_ok_ended (takeDesc_live h) rfl ..⟩
  rw [(endWork_ok_ctx g c qCt u w.k 0 0).here]
  exact hsnap

theorem bind_accepted (h : takeDesc s g c qCt (fun d => dType d = 0x10) = some (w, u)) (snap prio : Nat) (t : State)
    (ht : t = floorCheck (endWork g c qCt w.k .ok 0 0
      (putCtx (ctxId g c) { ctxAt u (ctxId g c) with bound := true, snap := snap, prio := prio } u))) :
    (ctxAt t (ctxId g c)).bound = true ∧ (ctxAt t (ctxId g c)).snap = snap ∧ (ctxAt t (ctxId g c)).prio = prio ∧
      Ended g c qCt w.k .ok t := by
  set v := putCtx (ctxId g c) { ctxAt u (ctxId g c) with bound := true, snap := snap, prio := prio } u
  have hput : ctxAt v (ctxId g c) = { ctxAt u (ctxId g c) with bound := true, snap := snap, prio := prio } := ctxAt_putCtx_same ..
  have hfloor : ctxAt t (ctxId g c) = ctxAt (endWork g c qCt w.k .ok 0 0 v) (ctxId g c) :=
    ht ▸ ctxAt_congr ((floorCheck_upd _).same .ctxs rfl) _
  have hhere := hfloor.trans (endWork_ok_ctx g c qCt v w.k 0 0).here
  have hlive : w ∈ ((ctxAt v (ctxId g c)).q qCt).live := hput ▸ takeDesc_live h
  rw [hput] at hhere
  exact ⟨hhere ▸ rfl, hhere ▸ rfl, hhere ▸ rfl, ended_of_queue (congrArg Ctx.qs hfloor) (endWork_ok_ended hlive rfl ..)⟩

theorem refuseBind_refused (g c : Nat) (s : State) : (ctxAt (refuseBind g c s) (ctxId g c)).bindRefused = true := by
  rw [refuseBind, haltRun_bindRefused, ctxAt_putCtx_same]

theorem refuseBind_stops {id : Nat} {r : Run} (hr : runAt s (ctxAt s (ctxId g c)).run = some r) (hid : id ∈ r.ctxs)
    (hrun : (ctxAt s id).run = (ctxAt s (ctxId g c)).run) : (ctxAt (refuseBind g c s) id).Stopped := by
  have hmarked : (ctxAt (putCtx (ctxId g c) { ctxAt s (ctxId g c) with bindRefused := true } s) id).run = (ctxAt s id).run := by
    by_cases h : id = ctxId g c
    · rw [h, ctxAt_putCtx_same]
    · rw [ctxAt_putCtx_other h]
  have hheld : runAt (putCtx (ctxId g c) { ctxAt s (ctxId g c) with bindRefused := true } s) (ctxAt s (ctxId g c)).run = some r := hr
  rw [refuseBind, hheld]
  exact haltRun_stops hid (hmarked.trans hrun)

end Bind

section Wait

variable {g c : Nat} {w : Work} {u s : State}

theorem epochWaitCode_met {d : List Byte} (h : epochAtOrBefore (fieldAt d 0x10 31 0) (epochNow s) = true) : epochWaitCode s d = 0 := by
  simp only [epochAtOrBefore, epochBefore, Bool.or_eq_true, Bool.and_eq_true, decide_eq_true_eq] at h
  rw [epochWaitCode, if_pos]
  unfold serialDiff at h ⊢
  omega

theorem epochWaitCode_far {d : List Byte} (h : 2 ^ 30 ≤ serialDiff (epochNow s) (fieldAt d 0x10 31 0))
    (h' : serialDiff (epochNow s) (fieldAt d 0x10 31 0) ≤ 2 ^ 31) : epochWaitCode s d = 2 := by
  rw [epochWaitCode, if_neg (by omega), if_neg (by omega)]

theorem exec_epochWait_met (h : takeDesc s g c qCt (fun d => dType d = 0x11) = some (w, u))
    (hmet : epochAtOrBefore (fieldAt w.img 0x10 31 0) (epochNow s) = true) :
    exec (.epochWait g c) s = .next (endWork g c qCt w.k .ok 0 0 u) := by
  show execEpochWait g c s = _
  rw [execEpochWait, h]
  dsimp only
  rw [epochWaitCode_met (takeDesc_epochNow h ▸ hmet)]
  rfl

theorem exec_epochWait_far (h : takeDesc s g c qCt (fun d => dType d = 0x11) = some (w, u))
    (hfar : 2 ^ 30 ≤ serialDiff (epochNow s) (fieldAt w.img 0x10 31 0))
    (hfar' : serialDiff (epochNow s) (fieldAt w.img 0x10 31 0) ≤ 2 ^ 31) :
    exec (.epochWait g c) s = .next (endWork g c qCt w.k .fault 0 0x20 u) := by
  have hnow := takeDesc_epochNow h
  show execEpochWait g c s = _
  rw [execEpochWait, h]
  dsimp only
  rw [epochWaitCode_far (hnow ▸ hfar) (hnow ▸ hfar')]
  rfl

end Wait

theorem exec_only {c : Instr} {s t : State} (h : exec c s = .next t) : Only (footprint c) s t := ((exec_footprint c s).of t h).same

/-- Settles O25: a plain descriptor's work ends, a barrier's last arrival completes the participants one after another, each of which
leaves the others' queues, and a halt stops what it halts. -/
theorem controlDescriptors : Obligations.ControlDescriptors := by
  refine ⟨?nop, ?wait, ?endDesc, ?barrier, ?bind, ?epochWait⟩
  case nop =>
    intro g c q w u s _ h
    exact ⟨_, rfl, plainDesc_ended h, exec_only (c := .nop g c q) rfl⟩
  case wait =>
    intro g c q w u s _ h
    exact ⟨_, rfl, plainDesc_ended h, exec_only (c := .wait g c q) rfl⟩
  case endDesc =>
    intro g c q w u s _ h
    exact ⟨_, rfl, plainDesc_ended h, exec_only (c := .endDesc g c q) rfl⟩
  case barrier =>
    rintro g c q e d x all s _ rfl hidle htype hopen hstarts hwaits hentry hpass hfirst hparts
    obtain rfl : all = participants s g c e := hparts
    have harrives : Arrives g c q e d s := ⟨hidle, htype, hopen, hstarts, hwaits, hentry, hpass, hfirst⟩
    refine ⟨_, exec_barrier harrives, ?_, exec_only (exec_barrier harrives), fun hmissing => ?_, fun hall => ?_⟩
    · intro j hj
      split
      · exact ((foldl_barrierDone_leaves ..).1 j hj).trans (ctxAt_putCtx_other hj ..)
      · exact ctxAt_putCtx_other hj ..
    · rw [if_neg (not_all_arrived hmissing)]
      exact ⟨(putCtx_upd ..).same, arrived_bar g c q e s, arrived_queue g c q e q s⟩
    · rw [if_pos ((all_arrived ..).mpr hall)]
      refine ⟨(bar_of_bars (foldl_barrierDone_leaves ..).2 e).trans (passCounted_bar g c e s), ?_⟩
      intro i d' hi hidle' htype' hrec hlive hstarts' hopen'
      have hready : BarrierReady g c i d' s := ⟨hidle', htype', hrec, hlive, hstarts', hopen'⟩
      have hmoves := passCounted_moves g c e (i + 1) s
      have hi' : i ≠ i + 1 := Nat.ne_of_lt (Nat.lt_succ_self i)
      obtain ⟨hnone, hempty, hdone⟩ := foldl_barrierDone_passes (participants_nodup s g c e) hi (hready.moves hmoves hi')
      rw [hmoves.done i hi'] at hdone
      exact ⟨hnone, hempty, hdone⟩
  case bind =>
    intro g c snap w u s _ h hsnap
    refine ⟨_, exec_ctxBind h hsnap, fun hbound => ?_, fun hfree hok => ?_, fun hfree hbad => ?_⟩
    · rw [if_pos hbound]
      exact bind_again h
    · rw [if_neg (by simp [hfree]), if_pos hok]
      exact bind_accepted h _ _ _ rfl
    · rw [if_neg (by simp [hfree]), if_neg (by simp [hbad])]
      exact ⟨refuseBind_refused g c s, fun r id hr hid hrun => refuseBind_stops hr hid hrun⟩
  case epochWait =>
    intro g c w u s _ h
    refine ⟨fun hmet => ?_, fun hfar hfar' => ?_⟩
    · have hexec := exec_epochWait_met h hmet
      exact ⟨_, hexec, endWork_ok_ended (takeDesc_live h) rfl .., exec_only hexec⟩
    · obtain ⟨hended, hstopped⟩ := endWork_fault_ended (takeDesc_live h) rfl 0 0x20
      exact ⟨_, exec_epochWait_far h hfar hfar', hended, hstopped⟩

end Sys2Proof.Machine
end

section
/-!
O6: only set fields are staged or kept as a previous set (R66, R39). An operation that touches neither the staging buffer nor the
previous sets keeps that by its footprint; what stages, activates, rolls back or discards is looked at one by one, from the flip of a
unit's banks up to the commands.
-/

namespace Sys2Proof.Machine

namespace setsOnly

variable {s t : State}

theorem congr (hstaging : t.staging = s.staging) (hprev : t.prevSet = s.prevSet) (h : setsOnly s) : setsOnly t := by
  rwa [setsOnly, hstaging, hprev]

/-- An operation on other parts of the state. -/
theorem upd {m : List Part} (hu : Upd m s t) (hm : (m.contains .staging || m.contains .prevSet) = false) (h : setsOnly s) : setsOnly t := by
  obtain ⟨hstaging, hprev⟩ := Bool.or_eq_false_iff.mp hm
  exact h.congr (hu.same .staging hstaging) (hu.same .prevSet hprev)

theorem ite {c : Prop} [Decidable c] {x y : State} (hx : c → setsOnly x) (hy : ¬c → setsOnly y) : setsOnly (if c then x else y) := by
  split
  · exact hx ‹_›
  · exact hy ‹_›

theorem foldl {α : Type} {l : List α} {f : State → α → State} (hf : ∀ t x, setsOnly t → setsOnly (f t x)) (h : setsOnly s) :
    setsOnly (l.foldl f s) := foldl_keeps h hf

theorem forUpto {n : Nat} {f : Nat → State → State} (hf : ∀ i t, setsOnly t → setsOnly (f i t)) (h : setsOnly s) :
    setsOnly (Machine.forUpto n f s) := foldl_keeps h fun t i ht => hf i t ht

end setsOnly

section Sets

variable {s : State}

/-- The values that a set replaces are of the same fields. -/
theorem swapSet_fields {vals : List SetVal} (hv : ∀ v ∈ vals, v.fld.row.set = true) :
    ∀ v ∈ (swapSet vals s).1, v.fld.row.set = true := by
  have key : ∀ (l : List SetVal) (r : List SetVal × State), (∀ v ∈ l, v.fld.row.set = true) → (∀ v ∈ r.1, v.fld.row.set = true) →
      ∀ v ∈ (l.foldl (fun r v => (r.1 ++ [{ v with val := rdi r.2 v.page v.fld v.idx }], wri v.page v.fld v.idx v.val r.2)) r).1,
        v.fld.row.set = true := by
    intro l
    induction l with
    | nil => exact fun _ _ hr => hr
    | cons x l ih =>
      intro r hl hr
      refine ih _ (fun v hv => hl v (List.mem_cons_of_mem _ hv)) fun v hv => ?_
      rcases List.mem_append.mp hv with hv | hv
      · exact hr v hv
      · rw [List.mem_singleton.mp hv]
        exact hl x (List.mem_cons_self ..)
  exact key vals ([], s) hv (fun _ h => nomatch h)

theorem flipSet_setsOnly {vals : List SetVal} (hv : ∀ v ∈ vals, v.fld.row.set = true) (p pv : Nat) (h : setsOnly s) :
    setsOnly (flipSet p pv vals s) := by
  have hswap := swapSet_upd vals s
  have hstaging : (swapSet vals s).2.staging = s.staging := hswap.same .staging rfl
  have hprev : (swapSet vals s).2.prevSet = s.prevSet := hswap.same .prevSet rfl
  obtain ⟨hst, hpr⟩ := h
  unfold flipSet
  extract_lets was r t t1 t2 t3
  have ht1 : setsOnly t1 := by
    refine ⟨fun v hv => hst v (hstaging ▸ (List.mem_filter.mp hv).1), fun v hv => ?_⟩
    rcases List.mem_append.mp hv with hv | hv
    · exact hpr v (hprev ▸ (List.mem_filter.mp hv).1)
    · split at hv
      · exact swapSet_fields ‹_› v hv
      · cases hv
  have ht2 : setsOnly t2 := .upd (wr_upd ..) rfl (.upd (wr_upd ..) rfl (.upd (wr_upd ..) rfl ht1))
  have ht3 : setsOnly t3 := .upd (raise_upd ..) rfl (.upd (wr_upd ..) rfl ht2)
  split
  · exact .upd (qosEdge_upd ..) rfl ht3
  · exact ht3

theorem cfgActivate_setsOnly (p slot : Nat) (h : setsOnly s) : setsOnly (cfgActivate p slot s) :=
  .ite (fun _ => .upd (ledger_upd ..) rfl h) fun _ => flipSet_setsOnly (fun v hv => h.1 v (List.mem_filter.mp hv).1) p 1 h

theorem discardStaged_setsOnly (p : Nat) (h : setsOnly s) : setsOnly (discardStaged p s) := by
  have hkept : setsOnly { s with staging := s.staging.filter (·.page != p) } := ⟨fun v hv => h.1 v (List.mem_filter.mp hv).1, h.2⟩
  exact .upd (wr_upd ..) rfl hkept

theorem stageField_setsOnly (p : Nat) {f : Fld} (hf : f.row.set = true) (i v : Nat) (h : setsOnly s) : setsOnly (stageField p f i v s) := by
  have hstaged : setsOnly { s with staging := (s.staging.filter fun e => !(e.page = p && e.fld = f && e.idx = i)) ++
      [⟨p, f, i, v % 2 ^ f.row.width⟩] } := by
    refine ⟨fun e he => ?_, h.2⟩
    rcases List.mem_append.mp he with he | he
    · exact h.1 e (List.mem_filter.mp he).1
    · rw [List.mem_singleton.mp he]
      exact hf
  exact .upd (wr_upd ..) rfl hstaged

theorem milestoneEval_setsOnly (p i : Nat) (h : setsOnly s) : setsOnly (milestoneEval p i s) := by
  have hfired : ∀ {t : State}, setsOnly t → setsOnly (msFired p i t) := fun ht => .upd (msFired_upd ..) rfl ht
  unfold milestoneEval
  refine .ite (fun _ => h) fun _ => ?_
  extract_lets arg
  split
  case h_1 =>
    have hact := cfgActivate_setsOnly p i h
    refine .ite (fun _ => .ite (fun _ => h) fun _ => hfired (h.congr rfl rfl)) fun _ => .ite (fun _ => ?_) fun _ => ?_
    · exact .ite (fun _ => hact.congr rfl rfl) fun _ => hfired hact
    · exact hfired (discardStaged_setsOnly p h)
  case h_2 => exact .upd (versionRetire_upd ..) rfl h
  case h_3 =>
    split
    next n _ =>
      have hevict : setsOnly (droverEvict n arg s) := .upd (droverEvict_upd ..) rfl h
      exact .ite (fun _ => h) fun _ => .ite (fun _ => hevict) fun _ => hfired hevict
    next => exact h
  case h_4 => exact hfired (.upd (ledger_upd ..) rfl (.upd (wri_upd ..) rfl h))
  case h_5 => exact hfired h

theorem floorCheck_setsOnly (h : setsOnly s) : setsOnly (floorCheck s) := .upd (floorCheck_upd s) rfl h

theorem epochSettle_setsOnly (h : setsOnly s) : setsOnly (epochSettle s) := by
  have hpass : ∀ t, setsOnly t → setsOnly ((armedSlots t).foldl (fun t e => floorCheck (milestoneEval e.1 e.2 t)) t) := fun t ht =>
    .foldl (fun u e hu => floorCheck_setsOnly (milestoneEval_setsOnly e.1 e.2 hu)) ht
  exact floorCheck_setsOnly (hpass _ (hpass s h))

theorem milestoneArm_setsOnly (p i : Nat) (u : UnitId) (h : setsOnly s) : setsOnly (milestoneArm p i u s) :=
  .ite (fun _ => h) fun _ => .ite (fun _ => epochSettle_setsOnly (.upd (wri_upd ..) rfl h)) fun _ => .upd (msRefused_upd ..) rfl h

theorem advance_setsOnly (n : Nat) (refused : Bool) (h : setsOnly s) : setsOnly (advance n refused s) := by
  have hresult : setsOnly (wr pgEpo .epoAdvResult (advanceCode s n refused) s) := .upd (wr_upd ..) rfl h
  refine .ite (fun _ => ?_) fun _ => .ite (fun _ => hresult) fun _ => .upd (advanceRefused_upd _) rfl hresult
  exact epochSettle_setsOnly (floorCheck_setsOnly (.upd (wr_upd ..) rfl (.ite (fun _ => .upd (wr_upd ..) rfl hresult) fun _ => hresult)))

theorem advanceTx_setsOnly (n : Nat) (refused : Bool) (h : setsOnly s) : setsOnly (advanceTx n refused s) := by
  have hadvanced := advance_setsOnly n refused h
  exact .ite (fun _ => .upd (sendEpochs_upd _) rfl hadvanced) fun _ => hadvanced

end Sets

section Registers

variable {s : State}

theorem wri_setsOnly (p : Nat) (f : Fld) (i v : Nat) (h : setsOnly s) : setsOnly (wri p f i v s) := h.congr rfl rfl

theorem storeField_setsOnly (w : FieldWrite) (v : Nat) (h : setsOnly s) : setsOnly (storeField w v s) :=
  .ite (fun hset => stageField_setsOnly _ (Bool.and_eq_true_iff.mp hset).1 _ _ h) fun _ => wri_setsOnly _ _ _ _ h

theorem writeRw_setsOnly (w : FieldWrite) (h : setsOnly s) : setsOnly (writeRw w s) := by
  have hstore (v : Nat) : setsOnly (storeField w v s) := storeField_setsOnly w v h
  unfold writeRw
  split
  · exact hstore _
  · exact .ite (fun _ => hstore _) fun _ => .upd (wr_upd ..) rfl h
  · exact .ite (fun _ => hstore _) fun _ => .upd (wr_upd ..) rfl (hstore 0)

theorem writeRwl_setsOnly (w : FieldWrite) (h : setsOnly s) : setsOnly (writeRwl w s) :=
  .ite (fun _ => .ite (fun _ => h) fun _ => .upd (wr_upd ..) rfl h) fun _ => writeRw_setsOnly w h

theorem writeByCode_setsOnly (w : FieldWrite) (h : setsOnly s) : setsOnly (writeByCode w s) := by
  unfold writeByCode
  split
  case h_4 => exact writeRw_setsOnly w h
  case h_5 => exact writeRwl_setsOnly w h
  case h_6 | h_7 => exact wri_setsOnly _ _ _ _ h
  all_goals exact h

theorem milestoneWrite_setsOnly (u : UnitId) (i lo n v : Nat) (h : setsOnly s) : setsOnly (milestoneWrite u i lo n v s) := by
  unfold milestoneWrite
  extract_lets p up arm disarm low high armed same
  have hlow : ∀ {t : State}, setsOnly t → setsOnly (low t) := fun ht => .ite (fun _ => wri_setsOnly _ _ _ _ ht) fun _ => ht
  have hhigh : ∀ {t : State}, setsOnly t → setsOnly (high t) := fun ht =>
    .ite (fun _ => wri_setsOnly _ _ _ _ (wri_setsOnly _ _ _ _ ht)) fun _ => ht
  refine .ite (fun _ => h) fun _ => .ite (fun _ => .upd (milestoneDisarm_upd ..) rfl h) fun _ => ?_
  refine .ite (fun _ => .ite (fun _ => h) fun _ => ?_) fun _ => ?_
  · exact milestoneArm_setsOnly p i u (.ite (fun _ => hhigh (hlow h)) fun _ => h)
  · exact .ite (fun _ => .ite (fun _ => h) fun _ => .upd (wr_upd ..) rfl h) fun _ => hhigh (hlow h)

/-- What the units do with a field write keeps the sets. -/
def ActKeepsSets (act : Act) : Prop := ∀ w s t, setsOnly s → act w s = some t → setsOnly t

variable {act : Act}

theorem ActKeepsSets.getD (hact : ActKeepsSets act) {w : FieldWrite} {x : State} (h : setsOnly s) (hx : setsOnly x) :
    setsOnly ((act w s).getD x) := by
  cases hw : act w s with
  | none => exact hx
  | some t => exact hact w s t h hw

theorem writeFields_setsOnly (hact : ActKeepsSets act) (u : UnitId) (lo n v : Nat) (h : setsOnly s) :
    setsOnly (writeFields act u lo n v s) :=
  .foldl (fun _ _ ht => hact.getD ht (writeByCode_setsOnly _ ht)) h

theorem pageWrite_setsOnly (hact : ActKeepsSets act) (page off width v : Nat) (h : setsOnly s) :
    setsOnly (pageWrite act page off width v s) := by
  have hbad : setsOnly (badAccess 1 (page * 4096 + off) s) := .upd (badAccess_upd ..) rfl h
  unfold pageWrite
  split
  · exact .ite (fun _ => h) fun _ => hbad
  · extract_lets v
    refine .ite (fun _ => .ite (fun _ => .ite (fun _ => hact.getD h h) fun _ => h) fun _ => h) fun _ => .ite (fun _ => hbad) fun _ => ?_
    refine .ite (fun _ => h.congr rfl rfl) fun _ => .ite (fun _ => h) fun _ => .ite (fun _ => h) fun _ => .ite (fun _ => ?_) fun _ => ?_
    · exact milestoneWrite_setsOnly _ _ _ _ _ h
    · exact writeFields_setsOnly hact _ _ _ _ h

theorem regWrite_setsOnly (hact : ActKeepsSets act) (page off width v : Nat) (h : setsOnly s) :
    setsOnly (regWrite act page off width v s) :=
  .ite (fun _ => pageWrite_setsOnly hact _ _ _ _ h) fun _ => .upd (badAccess_upd ..) rfl h

end Registers

end Sys2Proof.Machine
end

section
/-!
O6: the operations of runs, partitions, CTRL and power management keep the staged and previous sets to set fields.
-/

namespace Sys2Proof.Machine

section Runs

variable {s : State}

theorem endRun_setsOnly (n : Nat) (r : Run) (refused : Bool) (h : setsOnly s) : setsOnly (endRun n r refused s) := by
  have hslots : setsOnly (((r.ctxs.map fun id => 2 * (id / 4) + r.slot).eraseDups).foldl (fun t k => slotQuiet k t) (putRun n none s)) :=
    .foldl (fun _ _ ht => .upd (slotQuiet_upd ..) rfl ht) (.upd (putRun_upd ..) rfl h)
  exact epochSettle_setsOnly (.upd (abortHears_upd ..) rfl (.upd (cmdComplete_upd ..) rfl hslots))

theorem runComplete_setsOnly (n : Nat) (h : setsOnly s) : setsOnly (runComplete n s) := by
  unfold runComplete
  split
  · exact h
  · next r _ =>
    extract_lets mine refused
    have hfreed : ∀ p : State → Nat → Bool, setsOnly (r.ctxs.foldl (fun t id => if p t id then freeCtx id t else t) s) := fun p =>
      .foldl (fun _ _ ht => .ite (fun _ => .upd (freeCtx_upd ..) rfl ht) fun _ => ht) h
    exact .ite (fun _ => endRun_setsOnly _ _ _ (hfreed _)) fun _ => .ite (fun _ => h) fun _ => epochSettle_setsOnly (hfreed _)

theorem poolOff_setsOnly (n i : Nat) (h : setsOnly s) : setsOnly (poolOff n i s) :=
  epochSettle_setsOnly (.upd (putPool_upd ..) rfl (wri_setsOnly _ _ _ _ h))

theorem poolEnable_setsOnly (n i v : Nat) (h : setsOnly s) : setsOnly (poolEnable n i v s) := by
  unfold poolEnable
  extract_lets p on
  refine .ite (fun _ => .ite (fun _ => h) fun _ => .ite (fun _ => wri_setsOnly _ _ _ _ h) fun _ => wri_setsOnly _ _ _ _ h) fun _ => ?_
  exact .ite (fun _ => h) fun _ => .ite (fun _ => .upd (putPool_upd ..) rfl h) fun _ => poolOff_setsOnly n i h

theorem bulkLand_setsOnly (b pos attempts : Nat) (poisoned : Bool) (h : setsOnly s) : setsOnly (bulkLand b pos attempts poisoned s) := by
  unfold bulkLand
  extract_lets n s1
  split
  · exact h
  · next r _ =>
    extract_lets page bad spans open_ stop s2 s3 s4 works d s5 s6
    split
    · exact .upd (drAgain_upd ..) rfl h
    · have hs1 : setsOnly s1 := .ite (fun _ => .upd (count_upd ..) rfl h) fun _ => h
      have hs2 : setsOnly s2 := .ite (fun _ => .upd (relocate_upd ..) rfl hs1) fun _ => hs1
      have hs3 : setsOnly s3 := .ite (fun _ => .upd (count_upd ..) rfl hs2) fun _ => hs2
      have hs4 : setsOnly s4 := .foldl (fun _ _ ht => .upd (writeSpan_upd ..) rfl ht) hs3
      have hs5 : setsOnly s5 := .upd (putDrover_upd ..) rfl hs4
      have hs6 : setsOnly s6 := .foldl (fun _ _ ht => .upd (landFrame_upd ..) rfl ht) hs5
      exact epochSettle_setsOnly (.foldl (fun _ _ ht => .upd (landWork_upd ..) rfl ht) hs6)

end Runs

section Recovery

variable {s : State}

theorem endNotReplayed_setsOnly (id reason : Nat) (h : setsOnly s) : setsOnly (endNotReplayed id reason s) := by
  unfold endNotReplayed
  extract_lets x code i f
  split
  · exact .upd (dropJournal_upd ..) rfl h
  · next r _ =>
    extract_lets s1 s2
    have hs1 : setsOnly s1 := .ite (fun _ => h) fun _ => .upd (putRun_upd ..) rfl h
    refine runComplete_setsOnly _ (.foldl (fun t c ht => ?_) hs1)
    have hhalt : setsOnly (haltCtx (c / 4) (c % 4) t) := .upd (haltCtx_upd ..) rfl ht
    exact .ite (fun _ => .upd (dropJournal_upd ..) rfl hhalt) fun _ => hhalt

theorem goOos_setsOnly (n cause : Nat) (h : setsOnly s) : setsOnly (goOos n cause s) := by
  unfold goOos
  extract_lets s1 s2 ids s3 s4
  have hs1 : setsOnly s1 := .upd (putResetGo_upd ..) rfl (.upd (putRecov_upd ..) rfl (.upd (putPartState_upd ..) rfl h))
  have hs2 : setsOnly s2 := .upd (serviceLevel_upd ..) rfl (.upd (ledger_upd ..) rfl (.upd (raise_upd ..) rfl hs1))
  have hs3 : setsOnly s3 := .foldl (fun _ _ ht => .upd (noteNotReplayed_upd ..) rfl ht) hs2
  have hs4 : setsOnly s4 := .foldl (fun _ _ ht => .ite (fun _ => endNotReplayed_setsOnly _ _ ht) fun _ => ht) hs3
  refine .upd (skipInOps_upd ..) rfl (.foldl (fun _ _ ht => .upd (endHeld_upd ..) rfl ht) ?_)
  exact .upd (channelsUp_upd ..) rfl (.upd (interruptLoadOn_upd ..) rfl hs4)

theorem hostOos_setsOnly (n : Nat) (h : setsOnly s) : setsOnly (hostOos n s) :=
  .ite (fun _ => h) fun _ => goOos_setsOnly n 2 (.upd (resetFields_upd ..) rfl (.upd (stopPartition_upd ..) rfl h))

/-- A device reset leaves nothing staged and no previous set. -/
theorem deviceReset_setsOnly (s : State) : setsOnly (deviceReset s) := by
  unfold deviceReset
  extract_lets kept reset t t1
  have ht : setsOnly t := ⟨fun _ h => absurd h List.not_mem_nil, fun _ h => absurd h List.not_mem_nil⟩
  exact .upd (putStage_upd ..) rfl (.upd (fwRunNew_upd ..) rfl (.upd (wr_upd ..) rfl (.upd (memoryLost_upd ..) rfl ht)))

theorem powerLoss_setsOnly (s : State) : setsOnly (powerLoss s) := by
  have hcleared : setsOnly { deviceReset s with spdm := [], pskFails := [], pskLocked := [], update := none, remaps := [] } :=
    (deviceReset_setsOnly s).congr rfl rfl
  exact .upd (putStage_upd ..) rfl hcleared

end Recovery

section Operations

variable {s : State}

theorem opFinish_setsOnly (o : CtrlOp) (h : setsOnly s) : setsOnly (opFinish o s) := by
  refine .ite (fun _ => deviceReset_setsOnly s) fun _ => ?_
  have hdone : setsOnly { s with ops := s.ops.filter fun x => !(x.page = o.page && x.kind = o.kind) } := h.congr rfl rfl
  exact .upd (raise_upd ..) rfl (.upd (wr_upd ..) rfl (.ite (fun _ => .upd (wr_upd ..) rfl hdone) fun _ => hdone))

theorem opSettle_setsOnly (o : CtrlOp) (h : setsOnly s) : setsOnly (opSettle o s) := .ite (fun _ => opFinish_setsOnly o h) fun _ => h

theorem commandReset_setsOnly (n : Nat) (h : setsOnly s) : setsOnly (commandReset n s) := by
  unfold commandReset
  extract_lets s1 rs s2 s3 s4 s5
  have hs1 : setsOnly s1 := .upd (stopPartition_upd ..) rfl h
  have hs2 : setsOnly s2 := .foldl (fun _ _ ht => .upd (abortRun_upd ..) rfl ht) hs1
  have hs3 : setsOnly s3 := .foldl (fun _ _ ht => .ite (fun _ => ht) fun _ => .upd (dropJournal_upd ..) rfl ht) hs2
  have hs4 : setsOnly s4 := .foldl (fun _ _ ht => runComplete_setsOnly _ ht) hs3
  have hs5 : setsOnly s5 := .foldl (fun _ _ ht => .upd (wr_upd ..) rfl ht) hs4
  exact .upd (putPartState_upd ..) rfl (.upd (putRecov_upd ..) rfl hs5)

theorem opPartition_setsOnly (n : Nat) (o : CtrlOp) (h : setsOnly s) : setsOnly (opPartition n o s) :=
  .ite (fun _ => commandReset_setsOnly n (.upd (putOp_upd ..) rfl h)) fun _ => .upd (opApply_upd ..) rfl h

theorem opOnPart_setsOnly (n : Nat) (o : CtrlOp) (h : setsOnly s) : setsOnly (opOnPart n o s) :=
  .ite (fun _ => .upd (putOp_upd ..) rfl h) fun _ => opPartition_setsOnly n o h

theorem opStart_setsOnly (u : UnitId) (kind : CtrlKind) (h : setsOnly s) : setsOnly (opStart u kind s) := by
  unfold opStart
  refine .ite (fun _ => h) fun _ => ?_
  extract_lets deps o t
  refine .ite (fun _ => opFinish_setsOnly _ h) fun _ => ?_
  have ht : setsOnly t := by
    unfold t
    split
    · exact .ite (fun _ => .upd (opResetDev_upd ..) rfl h) fun _ => .upd (opOnDev_upd ..) rfl h
    · exact opOnPart_setsOnly _ _ h
    · exact .upd (opApply_upd ..) rfl h
  split
  · exact opSettle_setsOnly _ ht
  · exact ht

theorem ctrlWrite_setsOnly (u : UnitId) (v : Nat) (h : setsOnly s) : setsOnly (ctrlWrite u v s) := by
  unfold ctrlWrite
  refine .ite (fun _ => h) fun _ => .ite (fun _ => opStart_setsOnly _ _ h) fun _ => .ite (fun _ => .upd (wr_upd ..) rfl h) fun _ => ?_
  extract_lets s1 s2
  have hs1 : setsOnly s1 := .ite (fun _ => opStart_setsOnly _ _ h) fun _ => h
  have hs2 : setsOnly s2 := .ite (fun _ => opStart_setsOnly _ _ hs1) fun _ => hs1
  exact .ite (fun _ => opStart_setsOnly _ _ hs2) fun _ => hs2

theorem ctrlBit_setsOnly (page b : Nat) (h : setsOnly s) : setsOnly (ctrlBit page b s) := by
  unfold ctrlBit
  split
  · exact ctrlWrite_setsOnly _ _ h
  · exact h

theorem opsResume_setsOnly (n : Nat) (ended : Bool) (h : setsOnly s) : setsOnly (opsResume n ended s) := by
  refine .foldl (fun t o ht => .ite (fun _ => ht) fun _ => ?_) h
  exact .ite (fun _ => .upd (putOp_upd ..) rfl ht) fun _ => opPartition_setsOnly n _ ht

theorem resetDone_setsOnly (n : Nat) (h : setsOnly s) : setsOnly (resetDone n s) := by
  unfold resetDone
  extract_lets r spent s1 s2
  split
  · exact goOos_setsOnly _ _ h
  · have hs1 : setsOnly s1 := .upd (raise_upd ..) rfl (.upd (resumeClock_upd ..) rfl (.upd (channelsUp_upd ..) rfl h))
    have hs2 : setsOnly s2 := .upd (putPartState_upd ..) rfl hs1
    have hback : setsOnly (opsReset n (putResetGo n 0 (putRecov n none (putPartState n 0 s1)))) :=
      .upd (opsReset_upd ..) rfl (.upd (putResetGo_upd ..) rfl (.upd (putRecov_upd ..) rfl (.upd (putPartState_upd ..) rfl hs1)))
    refine .ite (fun _ => .upd (serveChannels_upd ..) rfl (opsResume_setsOnly _ _ hback)) fun _ =>
      .ite (fun _ => goOos_setsOnly _ _ hs1) fun _ => ?_
    refine .upd (serveChannels_upd ..) rfl (.ite (fun _ => opsResume_setsOnly _ _ ?_) fun _ => opsResume_setsOnly _ _ hs2)
    exact .upd (recoveryEnd_upd ..) rfl hs2

theorem replayOne_setsOnly (id : Nat) (h : setsOnly s) : setsOnly (replayOne id s) :=
  .ite (fun _ => .upd (dropJournal_upd ..) rfl h) fun _ =>
    .ite (fun _ => endNotReplayed_setsOnly _ _ (.upd (noteNotReplayed_upd ..) rfl h)) fun _ => .upd (replayCtx_upd ..) rfl h

/-- A replay ends when no context of the partition waits for it. -/
theorem replayEnd_setsOnly (n : Nat) {c : Prop} [Decidable c] (h : setsOnly s) :
    setsOnly (if c then opsResume n true (recoveryEnd n s) else s) :=
  .ite (fun _ => opsResume_setsOnly _ _ (.upd (recoveryEnd_upd ..) rfl h)) fun _ => h

end Operations

section Power

variable {s : State}

theorem enterP4_setsOnly (s : State) : setsOnly (enterP4 s) := by
  have hreset : setsOnly { deviceReset s with remaps := [] } := (deviceReset_setsOnly s).congr rfl rfl
  exact .upd (raise_upd ..) rfl (.upd (putStage_upd ..) rfl (.upd (wr_upd ..) rfl (.upd (wr_upd ..) rfl hreset)))

theorem psEnter_setsOnly (n : Nat) (h : setsOnly s) : setsOnly (psEnter n s) := by
  unfold psEnter
  split
  · exact enterP4_setsOnly s
  · exact .upd (raise_upd ..) rfl (.upd (wr_upd ..) rfl (.upd (partsOff_upd ..) rfl h))
  · exact .upd (raise_upd ..) rfl (.upd (wr_upd ..) rfl (.upd (coresOff_upd ..) rfl h))
  · exact .upd (raise_upd ..) rfl (.upd (wr_upd ..) rfl h)

theorem psExit_setsOnly (h : setsOnly s) : setsOnly (psExit s) := by
  unfold psExit
  extract_lets s1 s2 s3
  have hs1 : setsOnly s1 := .upd (measure_upd ..) rfl (psEnter_setsOnly 0 h)
  have hs2 : setsOnly s2 := .forUpto (fun _ _ ht => opsResume_setsOnly _ _ ht) (epochSettle_setsOnly hs1)
  clear_value s2
  split
  · exact .upd (psResult_upd ..) rfl hs2
  · next n _ =>
    have hs3 : setsOnly s3 := hs2.congr rfl rfl
    exact .ite (fun _ => .upd (psBegin_upd ..) rfl hs3) fun _ => .upd (psResult_upd ..) rfl hs3

theorem pwrPartOos_setsOnly (n : Nat) (h : setsOnly s) : setsOnly (pwrPartOos n s) := .ite (fun _ => hostOos_setsOnly n h) fun _ => h

theorem thermalShutdown_setsOnly (supply : Bool) (s : State) : setsOnly (thermalShutdown supply s) := by
  have hoff := enterP4_setsOnly s
  exact .upd (count_upd ..) rfl (.ite (fun _ => .upd (logErr_upd ..) rfl hoff) fun _ => .upd (logErr_upd ..) rfl hoff)

theorem lcAdvance_setsOnly (target : Nat) (s : State) : setsOnly (lcAdvance target s) := deviceReset_setsOnly _

theorem bringParts_setsOnly (failChans failParts : List Nat) (h : setsOnly s) : setsOnly (bringParts failChans failParts s) :=
  .forUpto (fun _ _ ht => .ite (fun _ => goOos_setsOnly _ _ (.upd (wr_upd ..) rfl ht)) fun _ => ht) h

end Power

section Firmware

variable {s : State}

theorem fwFinish_setsOnly (comp : Nat) (h : setsOnly s) : setsOnly (fwFinish comp s) := by
  have hdone : setsOnly { s with fwDone := s.fwDone.filter fun e => e.1 != comp } := h.congr rfl rfl
  exact epochSettle_setsOnly (.upd (measChange_upd ..) rfl (.upd (ledger_upd ..) rfl (.upd (fwRunNew_upd ..) rfl hdone)))

theorem rollbackUnit_setsOnly (p : Nat) (h : setsOnly s) : setsOnly (rollbackUnit p s) := by
  unfold rollbackUnit
  extract_lets s1 s2
  have hs1 : setsOnly s1 := .ite (fun _ => .upd (dropActivations_upd ..) rfl (discardStaged_setsOnly p h)) fun _ => h
  have hs2 : setsOnly s2 := .ite (fun _ => hs1.congr rfl rfl) fun _ => hs1
  exact flipSet_setsOnly (fun v hv => hs2.2 v (List.mem_filter.mp hv).1) p 0 hs2

theorem rollback_setsOnly (u : UnitId) (h : setsOnly s) : setsOnly (rollback u s) := by
  unfold rollback
  extract_lets p ms bad t
  refine .ite (fun _ => h) fun _ => .ite (fun _ => .upd (wr_upd ..) rfl h) fun _ => ?_
  have ht : setsOnly t := .foldl (fun _ _ ht => rollbackUnit_setsOnly _ ht) (rollbackUnit_setsOnly p h)
  exact .ite (fun _ => .upd (wr_upd ..) rfl ht) fun _ => ht

end Firmware

end Sys2Proof.Machine
end

section
/-!
O6: a register write, whatever it sets off, and every command keep the staged and previous sets to set fields.
-/

namespace Sys2Proof.Machine

/-- Where an operation of a unit answers a state, only set fields are staged or kept in it. -/
def SetsIfSome (x : Option State) : Prop := ∀ t, x = some t → setsOnly t

/-- Where a command answers a next state, only set fields are staged or kept in it. -/
def SetsIfNext (r : Result) : Prop := ∀ t, r = .next t → setsOnly t

section Forms

variable {s : State}

theorem SetsIfSome.some (h : setsOnly s) : SetsIfSome (some s) := fun _ ht => Option.some.inj ht ▸ h

theorem SetsIfSome.none : SetsIfSome none := fun _ ht => nomatch ht

theorem SetsIfSome.upd {m : List Part} {x : Option State} (hu : UpdO m s x) (hm : (m.contains .staging || m.contains .prevSet) = false)
    (h : setsOnly s) : SetsIfSome x := fun t ht => .upd (hu.of t ht) hm h

theorem SetsIfSome.ite {c : Prop} [Decidable c] {x y : Option State} (hx : SetsIfSome x) (hy : SetsIfSome y) :
    SetsIfSome (if c then x else y) := by
  split
  · exact hx
  · exact hy

theorem SetsIfNext.next (h : setsOnly s) : SetsIfNext (.next s) := by
  intro t ht
  cases ht
  exact h

theorem SetsIfNext.upd {m : List Part} {r : Result} (hu : UpdR m s r) (hm : (m.contains .staging || m.contains .prevSet) = false)
    (h : setsOnly s) : SetsIfNext r := fun t ht => .upd (hu.of t ht) hm h

theorem SetsIfNext.ite {c : Prop} [Decidable c] {x y : Result} (hx : c → SetsIfNext x) (hy : ¬c → SetsIfNext y) :
    SetsIfNext (if c then x else y) := by
  split
  · exact hx ‹_›
  · exact hy ‹_›

end Forms

section Acts

variable {s : State} (w : FieldWrite)

theorem headerAct_sets (h : setsOnly s) : SetsIfSome (headerAct w s) := by
  unfold headerAct
  split
  · exact .some (ctrlWrite_setsOnly _ _ h)
  · exact .some h
  · exact .some h
  · exact .some h
  · exact .some (.upd (putIrqStat_upd ..) rfl h)
  · exact .some (.upd (putIrqEn_upd ..) rfl h)
  · exact .some (.upd (raiseMask_upd ..) rfl h)
  · exact .some (.ite (fun _ => h) fun _ => .upd (lockAll_upd ..) rfl h)
  · exact .some (.ite (fun _ => h) fun _ => rollback_setsOnly _ h)
  · exact .some (.ite (fun _ => h) fun _ => .upd (clearErr_upd ..) rfl h)
  · exact .none

theorem chooseSource_setsOnly (h : setsOnly s) : setsOnly (chooseSource w s) := by
  have hstored := writeRwl_setsOnly w h
  exact .ite (fun _ => hstored.congr rfl rfl) fun _ => hstored

theorem epoAct_sets (h : setsOnly s) : SetsIfSome (epoAct w s) := by
  unfold epoAct
  split
  · exact .some (advanceTx_setsOnly _ _ h)
  · exact .some (.ite (fun _ => h) fun _ => .upd (vcmd_upd ..) rfl h)
  · exact .some (chooseSource_setsOnly w h)
  · exact .some (chooseSource_setsOnly w h)
  · exact .some (floorCheck_setsOnly (writeRw_setsOnly w h))
  · exact .ite (.some h) .none
  · exact .ite (.some h) .none
  · exact .some (.upd (ldgRptr_upd ..) rfl h)
  · exact .none

theorem drvAct_sets (n : Nat) (h : setsOnly s) : SetsIfSome (drvAct n w s) := by
  unfold drvAct
  extract_lets on
  refine .ite (.some h) ?_
  split
  · exact .some (.ite (fun _ => h) fun _ => .upd (segGo_upd ..) rfl h)
  · exact .ite (.some h) .none
  · exact .ite (.some h) .none
  · exact .some (poolEnable_setsOnly _ _ _ h)
  · exact .none

theorem regAct_sets : ActKeepsSets regAct := by
  intro w s t h
  show regAct w s = some t → setsOnly t
  suffices SetsIfSome (regAct w s) from this t
  unfold regAct
  refine .ite (headerAct_sets w h) ?_
  split
  · exact epoAct_sets w h
  · exact .upd (seraiAct_upd ..) rfl h
  · exact .upd (seraiAct_upd ..) rfl h
  · exact .upd (bkuAct_upd ..) rfl h
  · exact .upd (mcsAct_upd ..) rfl h
  · exact drvAct_sets w _ h
  · exact .upd (fltAct_upd ..) rfl h
  · exact .upd (evlAct_upd ..) rfl h
  · exact .upd (bayAct_upd ..) rfl h
  · exact .upd (hifAct_upd ..) rfl h
  · split
    · exact .some (.ite (fun _ => h) fun _ => .upd (unlockAll_upd ..) rfl h)
    · exact .some (.ite (fun _ => h) fun _ => .upd (psGo_upd ..) rfl h)
    · exact .some (.forUpto (fun _ _ ht => .ite (fun _ => pwrPartOos_setsOnly _ ht) fun _ => ht) h)
    · exact .some (.ite (fun _ => h) fun _ => .upd (sensClear_upd ..) rfl h)
    · exact .some (.ite (fun _ => h) fun _ => .upd (retGo_upd ..) rfl h)
    · exact .none

end Acts

section Commands

variable {s : State}

theorem hostRegWrite_setsOnly (page off width v : Nat) (h : setsOnly s) : setsOnly (hostRegWrite page off width v s) :=
  regWrite_setsOnly regAct_sets _ _ _ _ h

theorem execMilestoneArm_sets (page slot : Nat) (epoch : Option Nat) (action arg : Nat) (h : setsOnly s) :
    SetsIfNext (execMilestoneArm page slot epoch action arg s) := by
  unfold execMilestoneArm
  split <;> exact .next (hostRegWrite_setsOnly _ _ _ _ h)

theorem execCtrlOpComplete_sets (page kind : Nat) (h : setsOnly s) : SetsIfNext (execCtrlOpComplete page kind s) := by
  unfold execCtrlOpComplete
  split
  · exact .next (opSettle_setsOnly _ h)
  · exact .next h

theorem execSpineSingleFault_sets (comparator : Bool) (cycle : Nat) (h : setsOnly s) :
    SetsIfNext (execSpineSingleFault comparator cycle s) := by
  have hmasked : setsOnly (spineMasked cycle s) := .upd (spineMasked_upd ..) rfl h
  refine .ite (fun _ => .next (deviceReset_setsOnly s)) fun _ => .ite (fun _ => .next (hmasked.congr rfl rfl)) fun _ => .next ?_
  exact .upd (wr_upd ..) rfl hmasked

theorem execSpineStorageError_sets (journal : Option Nat) (h : setsOnly s) : SetsIfNext (execSpineStorageError journal s) := by
  unfold execSpineStorageError
  split
  · exact .next (deviceReset_setsOnly s)
  · refine .ite (fun _ => .next h) fun _ => .next (replayEnd_setsOnly _ (endNotReplayed_setsOnly _ _ ?_))
    exact .upd (noteNotReplayed_upd ..) rfl (.upd (putCtx_upd ..) rfl h)

theorem execPstateDone_sets (h : setsOnly s) : SetsIfNext (execPstateDone s) :=
  .ite (fun _ => .next h) fun _ => .ite (fun _ => .next (.upd (psResult_upd ..) rfl (psEnter_setsOnly _ h))) fun _ =>
    .ite (fun _ => .next h) fun _ => .next (psExit_setsOnly h)

theorem execHoldTimeout_sets (h : setsOnly s) : SetsIfNext (execHoldTimeout s) :=
  .ite (fun _ => .next h) fun _ => .next (thermalShutdown_setsOnly _ s)

theorem execRefLoss_sets (which : Nat) (h : setsOnly s) : SetsIfNext (execRefLoss which s) := by
  unfold execRefLoss
  extract_lets r t
  have ht : setsOnly t := .ite (fun _ => .upd (raise_upd ..) rfl (.upd (wr_upd ..) rfl h)) fun _ => h
  exact .ite (fun _ => .upd (execLinkDown_upd ..) rfl ht) fun _ => .ite (fun _ => .next (deviceReset_setsOnly t)) fun _ => .next ht

theorem execSensorSample_sets (raws : List Int) (h : setsOnly s) : SetsIfNext (execSensorSample raws s) := by
  unfold execSensorSample
  extract_lets is board s1 s2 s3 s4 s5 s6
  have hs1 : setsOnly s1 := .foldl (fun _ _ ht => .upd (sensTake_upd ..) rfl ht) h
  have hs2 : setsOnly s2 := .foldl (fun _ _ ht => .upd (sensCompare_upd ..) rfl ht) hs1
  have hs3 : setsOnly s3 := .ite (fun _ => hs2) fun _ => .upd (measure_upd ..) rfl hs2
  have hs4 : setsOnly s4 := .forUpto (fun _ _ ht => .upd (partJudge_upd ..) rfl ht) hs3
  have hs5 : setsOnly s5 := .forUpto (fun _ _ ht => .upd (partLimit_upd ..) rfl ht) hs4
  have hs6 : setsOnly s6 := .forUpto (fun _ _ ht => .upd (stackRates_upd ..) rfl (.upd (stackLimit_upd ..) rfl ht)) hs5
  refine .ite (fun _ => .next (thermalShutdown_setsOnly _ s4)) fun _ => .next ?_
  exact .forUpto (fun _ _ ht => .upd (bayTemp_upd ..) rfl ht) (.forUpto (fun _ _ ht => .upd (pllCheck_upd ..) rfl ht) hs6)

theorem epochTaken_setsOnly (port n b src : Nat) (h : setsOnly s) : setsOnly (epochTaken port n b src s) := by
  have hnoted : setsOnly (putBseq src b s) := .upd (putBseq_upd ..) rfl h
  refine .ite (fun _ => .upd (count_upd ..) rfl h) fun _ => ?_
  exact .ite (fun _ => advanceTx_setsOnly _ _ hnoted) fun _ => .upd (count_upd ..) rfl hnoted

theorem execEpochBroadcast_sets (port : Nat) (h : setsOnly s) : SetsIfNext (execEpochBroadcast port s) := by
  unfold execEpochBroadcast
  split
  · exact .next h
  · exact .next (epochTaken_setsOnly _ _ _ _ (.upd (consume_upd ..) rfl h))

theorem execPoolEnWrite_sets (dr pool value : Nat) (h : setsOnly s) : SetsIfNext (execPoolEnWrite dr pool value s) :=
  .ite (fun _ => .next h) fun _ => .next (poolEnable_setsOnly _ _ _ (.upd (wr_upd ..) rfl h))

theorem execPoolDisabled_sets (dr pool : Nat) (h : setsOnly s) : SetsIfNext (execPoolDisabled dr pool s) :=
  .ite (fun _ => .next (poolOff_setsOnly _ _ h)) fun _ => .next h

theorem execPartResetDone_sets (n : Nat) (h : setsOnly s) : SetsIfNext (execPartResetDone n s) :=
  .ite (fun _ => .next (resetDone_setsOnly n h)) fun _ => .next h

theorem execCtxReplayed_sets (core ctx : Nat) (h : setsOnly s) : SetsIfNext (execCtxReplayed core ctx s) :=
  .ite (fun _ => .next h) fun _ => .next (replayEnd_setsOnly _ (replayOne_setsOnly _ h))

theorem vendor_setsOnly {sess : Nat} {roles states : List Nat} {argOk : Bool} {act : State → State}
    (hact : ∀ t, setsOnly t → setsOnly (act t)) (h : setsOnly s) : setsOnly (vendor sess roles states argOk act s) := by
  have hanswer (code : Nat) : setsOnly (vendorAnswer code s) := .upd (vendorAnswer_upd ..) rfl h
  refine .ite (fun _ => h) fun _ => ?_
  split
  · exact .upd (spdmError_upd ..) rfl h
  · exact .ite (fun _ => hanswer 1) fun _ => .ite (fun _ => hanswer 2) fun _ => .ite (fun _ => hanswer 3) fun _ => hact s h

theorem execLcAdvance_sets (sess target devid : Nat) (h : setsOnly s) : SetsIfNext (execLcAdvance sess target devid s) := by
  refine .next (vendor_setsOnly (fun t ht => ?_) h)
  have hanswer (code : Nat) : setsOnly (vendorAnswer code t) := .upd (vendorAnswer_upd ..) rfl ht
  exact .ite (fun _ => hanswer 2) fun _ => .ite (fun _ => hanswer 3) fun _ => lcAdvance_setsOnly target t

theorem execSpdmPartOos_sets (sess n : Nat) (h : setsOnly s) : SetsIfNext (execSpdmPartOos sess n s) :=
  .next (vendor_setsOnly (fun _ ht => .upd (vendorAnswer_upd ..) rfl (hostOos_setsOnly n ht)) h)

theorem inUpdate_setsOnly {act : FwUpdate → State → State} (hact : ∀ u t, setsOnly t → setsOnly (act u t)) (h : setsOnly s) :
    setsOnly (inUpdate act s) := by
  unfold inUpdate
  split
  · exact .ite (fun _ => .upd (pldmAnswer_upd ..) rfl h) fun _ => h
  · exact hact _ _ h

theorem execPldmOosEffecter_sets (sess : Option Nat) (n : Nat) (h : setsOnly s) : SetsIfNext (execPldmOosEffecter sess n s) :=
  .ite (fun _ => .next h) fun _ => .ite (fun _ => .next (.upd (pldmAnswer_upd ..) rfl h)) fun _ =>
    .next (.upd (pldmAnswer_upd ..) rfl (hostOos_setsOnly n h))

theorem execUpdateComponent_sets (comp : Nat) (h : setsOnly s) : SetsIfNext (execUpdateComponent comp s) := by
  refine .next (inUpdate_setsOnly (fun u t ht => ?_) h)
  have hdropped : setsOnly { t with prevSet := t.prevSet.filter fun v => v.page != pgMgt } :=
    ⟨ht.1, fun v hv => ht.2 v (List.mem_filter.mp hv).1⟩
  have hempty : setsOnly (emptyBank comp (wr pgMgt .hdrPrevValid 0 { t with prevSet := t.prevSet.filter fun v => v.page != pgMgt })) :=
    .upd (emptyBank_upd ..) rfl (.upd (wr_upd ..) rfl hdropped)
  exact .ite (fun _ => .upd (pldmAnswer_upd ..) rfl ht) fun _ => .upd (pldmAnswer_upd ..) rfl (hempty.congr rfl rfl)

theorem execActivateFirmware_sets (selfContained : Bool) (h : setsOnly s) : SetsIfNext (execActivateFirmware selfContained s) := by
  refine .next (inUpdate_setsOnly (fun u t ht => ?_) h)
  refine .ite (fun _ => .upd (pldmAnswer_upd ..) rfl ht) fun _ => .upd (pldmAnswer_upd ..) rfl ?_
  have hstaged (v : Nat) : setsOnly (stageField pgMgt .mgtFwBank 0 v { t with update := none }) :=
    stageField_setsOnly _ rfl _ _ (ht.congr rfl rfl)
  exact .ite (fun _ => epochSettle_setsOnly (cfgActivate_setsOnly _ _ (hstaged _))) fun _ => hstaged _

theorem execFwSwitch_sets (comp unit : Nat) (h : setsOnly s) : SetsIfNext (execFwSwitch comp unit s) := by
  unfold execFwSwitch
  refine .ite (fun _ => .next h) fun _ => ?_
  extract_lets s1 x s2 s3
  have hs1 : setsOnly s1 := h.congr rfl rfl
  have hs2 : setsOnly s2 := .ite (fun _ => .upd (putChan_upd ..) rfl hs1) fun _ => hs1
  have hs3 : setsOnly s3 :=
    .ite (fun _ => .forUpto (fun _ _ ht => .ite (fun _ => .upd (setPortState_upd ..) rfl ht) fun _ => ht) hs2) fun _ => hs2
  exact .next (.ite (fun _ => fwFinish_setsOnly comp hs3) fun _ => hs3)

theorem execPowerOn_sets (rail spine : Bool) (fwBad : Nat) (failParts failBulk failChans failRows : List Nat) (h : setsOnly s) :
    SetsIfNext (execPowerOn rail spine fwBad failParts failBulk failChans failRows s) := by
  unfold execPowerOn
  extract_lets cold s1 s2 s3 out
  have hs1 : setsOnly s1 := .ite (fun _ => h) fun _ => .upd (bringFirmware_upd ..) rfl (h.congr rfl rfl)
  have hs2 : setsOnly s2 := .upd (wr_upd ..) rfl hs1
  have hs3 : setsOnly s3 := .upd (bringBulk_upd ..) rfl (bringParts_setsOnly _ _ (.upd (bringMemory_upd ..) rfl hs2))
  refine .ite (fun _ => .next h) fun _ => .ite (fun _ => .next (.upd (putStage_upd ..) rfl (h.congr rfl rfl))) fun _ => ?_
  refine .ite (fun _ => .next (.upd (putStage_upd ..) rfl (.upd (wr_upd ..) rfl hs1))) fun _ => ?_
  refine .ite (fun _ => .next (.upd (putStage_upd ..) rfl (.upd (wr_upd ..) rfl hs2))) fun _ => ?_
  refine .ite (fun _ => .next (.upd (putStage_upd ..) rfl (.upd (bringLinks_upd ..) rfl hs2))) fun _ => .next ?_
  exact .upd (putStage_upd ..) rfl (.upd (bringLinks_upd ..) rfl (.upd (wr_upd ..) rfl hs3))

theorem execPwrDisAssert_sets (s : State) : SetsIfNext (execPwrDisAssert s) := .next (powerLoss_setsOnly _)

/-- Every command keeps the sets: most by their footprint, those that reach a configuration set or a device reset by the lemma above. -/
theorem exec_sets (c : Instr) (h : setsOnly s) : SetsIfNext (exec c s) := by
  cases c
  case regWrite | pageLockSet | irqForce | rollback | milestoneDisarm | ldgRptrWrite => exact .next (hostRegWrite_setsOnly _ _ _ _ h)
  case cfgSetFieldWrite => exact .next (.ite (fun _ => hostRegWrite_setsOnly _ _ _ _ h) fun _ => h)
  case milestoneArm => exact execMilestoneArm_sets _ _ _ _ _ h
  case sync | fence | unfence | reset => exact .next (ctrlBit_setsOnly _ _ h)
  case ctrlOpComplete => exact execCtrlOpComplete_sets _ _ h
  case epochAdvance => exact .next (advanceTx_setsOnly _ _ h)
  case epochBroadcast => exact execEpochBroadcast_sets _ h
  case runComplete => exact .next (runComplete_setsOnly _ h)
  case poolEnWrite => exact execPoolEnWrite_sets _ _ _ h
  case poolDisabled => exact execPoolDisabled_sets _ _ h
  case bulkPageLand => exact .next (bulkLand_setsOnly _ _ _ _ h)
  case partResetDone => exact execPartResetDone_sets _ h
  case ctxReplayed => exact execCtxReplayed_sets _ _ h
  case spineSingleFault => exact execSpineSingleFault_sets _ _ h
  case spineStorageError => exact execSpineStorageError_sets _ h
  case deviceReset | railFault => exact .next (deviceReset_setsOnly s)
  case overvoltage | moduleWithdraw => exact .next (powerLoss_setsOnly s)
  case pwrDisAssert => exact execPwrDisAssert_sets s
  case supplyCollapse => exact .next (thermalShutdown_setsOnly true s)
  case holdTimeout => exact execHoldTimeout_sets h
  case refLoss => exact execRefLoss_sets _ h
  case sensorSample raws =>
    dsimp only [exec]
    exact execSensorSample_sets raws h
  case pstateDone => exact execPstateDone_sets h
  case pwrPartOos => exact .next (pwrPartOos_setsOnly _ h)
  case lcAdvance => exact execLcAdvance_sets _ _ _ h
  case spdmPartOos => exact execSpdmPartOos_sets _ _ h
  case pldmOosEffecter => exact execPldmOosEffecter_sets _ _ h
  case powerOn => exact execPowerOn_sets _ _ _ _ _ _ _ h
  case updateComponent => exact execUpdateComponent_sets _ h
  case activateFirmware => exact execActivateFirmware_sets _ h
  case fwSwitch => exact execFwSwitch_sets _ _ h
  all_goals exact .upd (exec_footprint _ s) rfl h

end Commands

/-- Settles O6, command by command: a command either leaves the staging buffer and the previous sets, or stages a set field, or moves
values between the sets of a unit. -/
theorem stagedValuesAreSetFields : Obligations.StagedValuesAreSetFields := fun c _ t hs ht => exec_sets c hs t ht

end Sys2Proof.Machine
end

section
/-!
Rounding of a magnitude to an integer (R82, R83): which neighbour each mode takes, and how far it is from the magnitude.
-/

namespace Sys2Proof.Machine

variable {mode m sh : Nat} {neg : Bool}

theorem roundShift_snd : (roundShift mode neg m sh).2 = decide (m % 2 ^ sh ≠ 0) := by
  simp [roundShift, bne, Bool.beq_eq_decide_eq]

/-- RTZ, and the directed mode that points toward zero for the sign, cut the fraction off. -/
theorem roundShift_fst_towardZero (h : mode = 1 ∨ mode = 2 ∧ neg = false ∨ mode = 3 ∧ neg = true) :
    (roundShift mode neg m sh).1 = m / 2 ^ sh := by
  obtain rfl | ⟨rfl, rfl⟩ | ⟨rfl, rfl⟩ := h <;> simp [roundShift, Nat.shiftRight_eq_div_pow]

/-- The directed mode that points away from zero for the sign goes up from every fraction. -/
theorem roundShift_fst_awayFromZero (h : mode = 2 ∧ neg = true ∨ mode = 3 ∧ neg = false) :
    (roundShift mode neg m sh).1 = m / 2 ^ sh + if m % 2 ^ sh = 0 then 0 else 1 := by
  by_cases hr : m % 2 ^ sh = 0 <;> obtain ⟨rfl, rfl⟩ | ⟨rfl, rfl⟩ := h <;> simp [roundShift, Nat.shiftRight_eq_div_pow, hr]

theorem roundShift_fst_nearestEven :
    (roundShift 0 neg m sh).1 =
      m / 2 ^ sh + if 2 ^ (sh - 1) < m % 2 ^ sh ∨ m % 2 ^ sh = 2 ^ (sh - 1) ∧ m / 2 ^ sh % 2 = 1 then 1 else 0 := by
  have hhalf : 0 < 2 ^ (sh - 1) := by positivity
  by_cases hr : m % 2 ^ sh = 0
  · simp [roundShift, Nat.shiftRight_eq_div_pow, hr, hhalf.ne]
  · simp only [roundShift, Nat.shiftRight_eq_div_pow, hr, if_false, Bool.or_eq_true, Bool.and_eq_true, decide_eq_true_eq]
    split <;> rfl

theorem roundShift_fst_nearestAway :
    (roundShift 4 neg m sh).1 = m / 2 ^ sh + if 2 ^ (sh - 1) ≤ m % 2 ^ sh then 1 else 0 := by
  by_cases hr : m % 2 ^ sh = 0
  · simp [roundShift, Nat.shiftRight_eq_div_pow, hr]
  · simp only [roundShift, Nat.shiftRight_eq_div_pow, hr, if_false, decide_eq_true_eq]
    split <;> rfl

/-- A magnitude is its integer part plus a remainder below the unit, and the unit is two halves. -/
theorem magnitude_split (m : Nat) (hsh : 0 < sh) :
    m = m / 2 ^ sh * 2 ^ sh + m % 2 ^ sh ∧ m % 2 ^ sh < 2 ^ sh ∧ 2 ^ sh = 2 * 2 ^ (sh - 1) :=
  ⟨(Nat.div_add_mod' m _).symm, Nat.mod_lt _ (by positivity), by rw [mul_comm, Nat.two_pow_pred_mul_two hsh]⟩

/-- Settles O34: each mode takes the neighbour that its lemma above names, and the remainder gives the distance. -/
theorem roundingModes : Obligations.RoundingModes := by
  rintro mode m sh q neg hsh rfl
  obtain ⟨hm, hr, hunit⟩ := magnitude_split m hsh
  refine ⟨roundShift_snd, ?nearestEven, fun h => ?towardZero, fun h => ?awayFromZero, ?nearestAway⟩
  case nearestEven =>
    rintro rfl
    rw [roundShift_fst_nearestEven]
    split
    case isTrue hup => rw [add_mul]; omega
    case isFalse hdown => rw [add_zero]; omega
  case towardZero =>
    rw [roundShift_fst_towardZero h, add_mul]
    omega
  case awayFromZero =>
    rw [roundShift_fst_awayFromZero h]
    split
    case isTrue hexact => rw [add_zero]; omega
    case isFalse hinexact => rw [add_mul]; omega
  case nearestAway =>
    rintro rfl
    rw [roundShift_fst_nearestAway]
    split
    case isTrue hup => rw [add_mul]; omega
    case isFalse hdown => rw [add_zero]; omega

end Sys2Proof.Machine
end

section
/-!
The order that rows are ranked by (R85, R190): values compare as keys of a linear order, and the stable sort by such a key leaves equal
elements in their source order.
-/

namespace Sys2Proof.Machine

/-- The rational that (−1)^neg × m × 2^e is. -/
def Num.finValue (neg : Bool) (m : Nat) (e : Int) : ℚ := ((if neg then -1 else 1) * (m : Int) : Int) * 2 ^ e

/-- A value's place in the sort order of R85: −∞, the finite values by the number that they are, +∞, NaN. -/
def Num.sortKey : Num → Nat ×ₗ ℚ
  | .inf true => toLex (0, 0)
  | .fin neg m e => toLex (1, Num.finValue neg m e)
  | .inf false => toLex (2, 0)
  | .nan => toLex (3, 0)

/-- A finite value over an exponent that is at most its own, the unit in which `cmpNum` compares. -/
theorem Num.finValue_eq_scaled (neg : Bool) (m : Nat) {q e : Int} (h : q ≤ e) :
    Num.finValue neg m e = ((if neg then -1 else 1) * ((m <<< (e - q).toNat : Nat) : Int) : Int) * 2 ^ q := by
  have hexp : (2 : ℚ) ^ e = 2 ^ (e - q).toNat * 2 ^ q := by
    rw [← zpow_natCast, Int.toNat_of_nonneg (by omega), ← zpow_add₀ two_ne_zero, sub_add_cancel]
  rw [Num.finValue, hexp, Nat.shiftLeft_eq]
  push_cast
  ring

theorem Num.lt_fin_iff (a b : Bool) (m n : Nat) (e g : Int) :
    Num.lt (.fin a m e) (.fin b n g) = true ↔ Num.finValue a m e < Num.finValue b n g := by
  rw [Num.finValue_eq_scaled a m (min_le_left e g), Num.finValue_eq_scaled b n (min_le_right e g),
    mul_lt_mul_iff_left₀ (by positivity), Int.cast_lt]
  simp only [Num.lt, cmpNum]
  split_ifs <;> simp_all

theorem Num.isNan_nan : Num.isNan .nan = true := rfl

/-- The sort order of R85 is that of the keys; a NaN or an infinity is told apart by the first part, two finite values by the second. -/
theorem sortLt_iff_sortKey_lt (x y : Num) : sortLt x y = true ↔ x.sortKey < y.sortKey := by
  match x, y with
  | .nan, y | .inf true, y | .inf false, y =>
    rcases y with _ | (_ | _) | _ <;> simp [sortLt, Num.isNan, Num.lt, cmpNum, Num.sortKey, Prod.Lex.lt_iff]
  | .fin _ _ _, .nan | .fin _ _ _, .inf true | .fin _ _ _, .inf false =>
    simp [sortLt, Num.isNan, Num.lt, cmpNum, Num.sortKey, Prod.Lex.lt_iff]
  | .fin a m e, .fin b n g => simp [sortLt, Num.isNan, Num.lt_fin_iff, Num.sortKey, Prod.Lex.lt_iff]

section Stable

variable {α : Type} {before : α → α → Bool}

theorem sortIns_eq_orderedInsert (x : α) (l : List α) : sortIns before x l = l.orderedInsert (fun a b => before a b = true) x := by
  induction l with
  | nil => rfl
  | cons y ys ih => simp only [sortIns, List.orderedInsert_cons, ih]

theorem sortIns_perm (x : α) (l : List α) : (sortIns before x l).Perm (x :: l) :=
  sortIns_eq_orderedInsert (before := before) x l ▸ List.perm_orderedInsert _ x l

theorem foldl_sortIns_perm (xs : List α) : ∀ l : List α, (xs.foldl (fun l x => sortIns before x l) l).Perm (l ++ xs) := by
  induction xs with
  | nil => intro l; simp
  | cons x xs ih =>
    intro l
    calc (xs.foldl (fun l x => sortIns before x l) (sortIns before x l)).Perm (sortIns before x l ++ xs) := ih _
      _ |>.Perm (x :: l ++ xs) := (sortIns_perm x l).append_right xs
      _ |>.Perm (l ++ x :: xs) := List.perm_middle.symm

theorem sortStable_perm (xs : List α) : (sortStable before xs).Perm xs := foldl_sortIns_perm xs []

end Stable

section Keyed

variable {α β : Type} [LinearOrder β] {key : α → β} {source : α → α → Prop} {before : α → α → Bool}

/-- Strictly before by the key, or of the same key and before in the source. -/
def StablyBefore (key : α → β) (source : α → α → Prop) (a b : α) : Prop := key a < key b ∨ key a = key b ∧ source a b

theorem StablyBefore.key_le {a b : α} (h : StablyBefore key source a b) : key a ≤ key b :=
  h.elim le_of_lt fun h => h.1.le

/-- Inserting an element that comes later in the source than all that are there keeps the order. -/
theorem sortIns_pairwise (hbefore : ∀ a b, before a b = true ↔ key a < key b) {x : α} {l : List α}
    (hl : l.Pairwise (StablyBefore key source)) (hx : ∀ y ∈ l, source y x) :
    (sortIns before x l).Pairwise (StablyBefore key source) := by
  induction l with
  | nil => exact List.pairwise_singleton _ x
  | cons y ys ih =>
    obtain ⟨hy, hys⟩ := List.pairwise_cons.mp hl
    obtain ⟨hyx, hx⟩ := List.forall_mem_cons.mp hx
    unfold sortIns
    split
    case isTrue hlt =>
      have hxy : key x < key y := (hbefore x y).mp hlt
      refine List.pairwise_cons.mpr ⟨List.forall_mem_cons.mpr ⟨.inl hxy, fun z hz => ?_⟩, hl⟩
      exact .inl (hxy.trans_le (hy z hz).key_le)
    case isFalse hnlt =>
      have hle : key y ≤ key x := not_lt.mp fun h => hnlt ((hbefore x y).mpr h)
      refine List.pairwise_cons.mpr ⟨fun z hz => ?_, ih hys hx⟩
      obtain rfl | hz := List.mem_cons.mp ((sortIns_perm x ys).mem_iff.mp hz)
      · exact hle.lt_or_eq.imp_right fun h => ⟨h, hyx⟩
      · exact hy z hz

theorem foldl_sortIns_pairwise (hbefore : ∀ a b, before a b = true ↔ key a < key b) {xs : List α} (hxs : xs.Pairwise source) :
    ∀ l : List α, l.Pairwise (StablyBefore key source) → (∀ y ∈ l, ∀ x ∈ xs, source y x) →
      (xs.foldl (fun l x => sortIns before x l) l).Pairwise (StablyBefore key source) := by
  induction xs with
  | nil => exact fun l hl _ => hl
  | cons x xs ih =>
    intro l hl hsource
    obtain ⟨hx, hxs⟩ := List.pairwise_cons.mp hxs
    refine ih hxs _ (sortIns_pairwise hbefore hl fun y hy => hsource y hy x List.mem_cons_self) fun y hy z hz => ?_
    obtain rfl | hy := List.mem_cons.mp ((sortIns_perm x l).mem_iff.mp hy)
    · exact hx z hz
    · exact hsource y hy z (List.mem_cons_of_mem x hz)

theorem sortStable_pairwise (hbefore : ∀ a b, before a b = true ↔ key a < key b) {xs : List α} (hxs : xs.Pairwise source) :
    (sortStable before xs).Pairwise (StablyBefore key source) :=
  foldl_sortIns_pairwise hbefore hxs [] .nil (by simp)

end Keyed

theorem zipIdx_pairwise_index_lt (xs : List Num) : xs.zipIdx.Pairwise fun a b => a.2 < b.2 := by
  have hindex : (xs.zipIdx.map Prod.snd).Pairwise (· < ·) := by
    rw [List.zipIdx_map_snd]
    exact List.pairwise_lt_range'
  exact List.pairwise_map.mp hindex

theorem ranked_perm (desc : Bool) (xs : List Num) : (ranked desc xs).Perm xs.zipIdx := sortStable_perm _

/-- A row ranked upward is in the order of its keys. -/
theorem ranked_false_pairwise (xs : List Num) :
    (ranked false xs).Pairwise (StablyBefore (fun e => e.1.sortKey) fun a b => a.2 < b.2) :=
  sortStable_pairwise (fun a b => by simp [sortLt_iff_sortKey_lt]) (zipIdx_pairwise_index_lt xs)

/-- A row ranked downward is in the dual order of its keys. -/
theorem ranked_true_pairwise (xs : List Num) :
    (ranked true xs).Pairwise (StablyBefore (fun e => OrderDual.toDual e.1.sortKey) fun a b => a.2 < b.2) :=
  sortStable_pairwise (fun a b => by simp [sortLt_iff_sortKey_lt]) (zipIdx_pairwise_index_lt xs)

/-- Neither value is below the other where their keys are equal. -/
theorem sortLt_eq_false_of_sortKey_eq {x y : Num} (h : x.sortKey = y.sortKey) : sortLt x y = false := by
  rw [← Bool.not_eq_true, sortLt_iff_sortKey_lt, h]
  exact lt_irrefl _

theorem ranked_pairwise (desc : Bool) (xs : List Num) :
    (ranked desc xs).Pairwise fun a b => (if desc then sortLt b.1 a.1 else sortLt a.1 b.1) = true ∨
      (sortLt a.1 b.1 = false ∧ sortLt b.1 a.1 = false ∧ a.2 < b.2) := by
  cases desc with
  | false =>
    refine (ranked_false_pairwise xs).imp fun {a b} h => h.imp (fun hlt => (sortLt_iff_sortKey_lt a.1 b.1).mpr hlt) ?_
    exact fun ⟨heq, hindex⟩ => ⟨sortLt_eq_false_of_sortKey_eq heq, sortLt_eq_false_of_sortKey_eq heq.symm, hindex⟩
  | true =>
    refine (ranked_true_pairwise xs).imp fun {a b} h => h.imp (fun hlt => (sortLt_iff_sortKey_lt b.1 a.1).mpr hlt) ?_
    exact fun ⟨heq, hindex⟩ => ⟨sortLt_eq_false_of_sortKey_eq heq, sortLt_eq_false_of_sortKey_eq heq.symm, hindex⟩

theorem topkRow_getElem? {k i : Nat} (hi : i < k) (smallest noNan : Bool) (xs : List Num) :
    (topkRow k smallest noNan xs)[i]? = some (((ranked (!smallest) xs).filter fun e => !(noNan && e.1.isNan))[i]?) := by
  simp [topkRow, hi]

theorem cmpNum_nan_left (x : Num) : cmpNum .nan x = none := rfl

theorem cmpNum_nan_right (x : Num) : cmpNum x .nan = none := by cases x <;> rfl

/-- No SELECT condition holds between unordered values. -/
theorem selCond_of_unordered {x t : Num} (h : cmpNum x t = none) (cond : Nat) : selCond cond x t = false := by
  unfold selCond
  rw [h]
  split <;> simp_all

/-- Settles O35: the ranked row is the stable sort by `Num.sortKey`, upward or downward. -/
theorem rankedRows : Obligations.RankedRows := by
  refine ⟨fun desc xs => ⟨ranked_perm desc xs, ranked_pairwise desc xs⟩, fun x hx => ?nanLast, ?zeros, ?topk, ?select⟩
  case nanLast => simp [sortLt, Num.isNan_nan, hx]
  case zeros => exact sortLt_eq_false_of_sortKey_eq (by simp [Num.sortKey, Num.finValue])
  case topk => exact fun k smallest noNan xs i hi => topkRow_getElem? hi smallest noNan xs
  case select =>
    exact fun cond x => ⟨selCond_of_unordered (cmpNum_nan_left x) cond, selCond_of_unordered (cmpNum_nan_right x) cond⟩

end Sys2Proof.Machine
end

section
/-!
Decoding and encoding of the floating and integer formats (R74-R76): an encoding is a sign, an exponent and a mantissa, and a decoded
value lies on the format's grid, so that encoding it rounds nothing.
-/

namespace Sys2Proof.Machine

/-- How the encodings of a format end (R74, R75): those above the largest finite magnitude are, with an infinity, the ones of the last
exponent; without one, the canonical NaN alone or none. -/
structure FloatFmt.Layout (f : FloatFmt) : Prop where
  eb_pos : 0 < f.eb
  max_inf : f.inf = true → f.max + 1 = (2 ^ f.eb - 1) * 2 ^ f.mb
  max_nan : f.inf = false → f.nan.isSome = true → f.max + 2 = 2 ^ f.eb * 2 ^ f.mb
  max_all : f.inf = false → f.nan.isSome = false → f.max + 1 = 2 ^ f.eb * 2 ^ f.mb

theorem floatFmt_layout {code : Nat} {f : FloatFmt} (h : floatFmt code = some f) :
    f.Layout ∧ fmtBits code = f.eb + f.mb + 1 := by
  unfold floatFmt at h
  split at h <;> cases h <;> exact ⟨⟨by decide, by decide, by decide, by decide⟩, rfl⟩

section Float

variable {f : FloatFmt} {a : Arith} {v m : Nat} {e : Int} {neg : Bool}

/-- The sign bit's share of an encoding. -/
def FloatFmt.signEnc (f : FloatFmt) (neg : Bool) : Nat := if neg then 2 ^ (f.eb + f.mb) else 0

/-- The sign of an encoding. -/
def FloatFmt.signOf (f : FloatFmt) (v : Nat) : Bool := bit v (f.eb + f.mb) = 1

/-- The exponent field of an encoding. -/
def FloatFmt.expOf (f : FloatFmt) (v : Nat) : Nat := bits v (f.eb + f.mb - 1) f.mb

/-- The mantissa field of an encoding. -/
def FloatFmt.mantOf (f : FloatFmt) (v : Nat) : Nat := v % 2 ^ f.mb

theorem FloatFmt.expOf_lt (hf : f.Layout) (v : Nat) : f.expOf v < 2 ^ f.eb := by
  have hwidth : f.eb + f.mb - 1 + 1 - f.mb = f.eb := by have := hf.eb_pos; omega
  rw [FloatFmt.expOf, bits, hwidth]
  exact Nat.mod_lt _ (by positivity)

theorem FloatFmt.mantOf_lt (f : FloatFmt) (v : Nat) : f.mantOf v < 2 ^ f.mb := Nat.mod_lt _ (by positivity)

/-- No bit of an encoding is dropped: its three fields make it up. -/
theorem FloatFmt.fields_eq (hf : f.Layout) (hv : v < 2 ^ (f.eb + f.mb + 1)) :
    f.signEnc (f.signOf v) + (f.expOf v * 2 ^ f.mb + f.mantOf v) = v := by
  have hwidth : f.eb + f.mb - 1 + 1 - f.mb = f.eb := by have := hf.eb_pos; omega
  have htop : v / 2 ^ (f.eb + f.mb) < 2 := Nat.div_lt_of_lt_mul (by rwa [← pow_succ])
  have hsign : f.signEnc (f.signOf v) = v / 2 ^ (f.eb + f.mb) * 2 ^ (f.eb + f.mb) := by
    rw [FloatFmt.signEnc, FloatFmt.signOf, bit, Nat.shiftRight_eq_div_pow, Nat.mod_eq_of_lt htop]
    obtain h | h := Nat.lt_succ_iff_lt_or_eq.mp htop
    · simp [Nat.lt_one_iff.mp h]
    · simp [h]
  have hhigh : v / 2 ^ f.mb = v / 2 ^ (f.eb + f.mb) * 2 ^ f.eb + f.expOf v := by
    rw [FloatFmt.expOf, bits, hwidth, Nat.shiftRight_eq_div_pow, add_comm f.eb, pow_add, ← Nat.div_div_eq_div_mul, Nat.div_add_mod']
  calc f.signEnc (f.signOf v) + (f.expOf v * 2 ^ f.mb + f.mantOf v)
      = v / 2 ^ f.mb * 2 ^ f.mb + f.mantOf v := by rw [hsign, hhigh, pow_add]; ring
    _ = v := Nat.div_add_mod' v _

/-- What a floating encoding decodes to without FTZ, by its fields. -/
theorem decFloat_fst (f : FloatFmt) (v : Nat) :
    (decFloat f false v).1 =
      if f.inf = true ∧ f.expOf v = 2 ^ f.eb - 1 then if f.mantOf v = 0 then .inf (f.signOf v) else .nan
      else if f.inf = false ∧ f.nan.isSome = true ∧ f.expOf v = 2 ^ f.eb - 1 ∧ f.mantOf v = 2 ^ f.mb - 1 then .nan
      else if f.expOf v = 0 then .fin (f.signOf v) (f.mantOf v) (if f.mantOf v = 0 then 0 else 1 - f.bias - f.mb)
      else .fin (f.signOf v) (2 ^ f.mb + f.mantOf v) (f.expOf v - f.bias - f.mb) := by
  rw [FloatFmt.expOf, FloatFmt.mantOf, FloatFmt.signOf]
  unfold decFloat
  cases f.inf <;> cases f.nan.isSome <;> simp [apply_ite Prod.fst]

/-- An encoding that is neither an infinity nor a NaN is at most the one of the largest finite magnitude. -/
theorem FloatFmt.finite_le_max (hf : f.Layout) (hinf : ¬(f.inf = true ∧ f.expOf v = 2 ^ f.eb - 1))
    (hnan : ¬(f.inf = false ∧ f.nan.isSome = true ∧ f.expOf v = 2 ^ f.eb - 1 ∧ f.mantOf v = 2 ^ f.mb - 1)) :
    f.expOf v * 2 ^ f.mb + f.mantOf v ≤ f.max := by
  have hexp := FloatFmt.expOf_lt hf v
  have hmant := f.mantOf_lt v
  have hrow : (f.expOf v + 1) * 2 ^ f.mb ≤ 2 ^ f.eb * 2 ^ f.mb := Nat.mul_le_mul_right _ hexp
  rw [add_mul] at hrow
  cases hi : f.inf
  case true =>
    have hlast : (f.expOf v + 1) * 2 ^ f.mb ≤ (2 ^ f.eb - 1) * 2 ^ f.mb :=
      Nat.mul_le_mul_right _ (Nat.lt_of_le_of_ne (Nat.le_sub_one_of_lt hexp) fun h => hinf ⟨hi, h⟩)
    rw [← hf.max_inf hi, add_mul] at hlast
    omega
  case false =>
    cases hn : f.nan.isSome
    case false =>
      have hmax := hf.max_all hi hn
      omega
    case true =>
      have hmax := hf.max_nan hi hn
      by_cases hlast : f.expOf v = 2 ^ f.eb - 1
      · have : f.mantOf v ≠ 2 ^ f.mb - 1 := fun h => hnan ⟨hi, hn, hlast, h⟩
        omega
      · have hnext : (f.expOf v + 2) * 2 ^ f.mb ≤ 2 ^ f.eb * 2 ^ f.mb := Nat.mul_le_mul_right _ (by omega)
        rw [add_mul] at hnext
        omega

/-- A zero encodes to its sign. -/
theorem encFin_zero : encFin f a neg 0 e = (f.signEnc neg, 0) := rfl

/-- A magnitude on the format's grid (its exponent is that of the last bit of its binade, or of the subnormals) that is at most the
largest finite one is encoded without rounding and without a flag. -/
theorem encFin_of_onGrid {mag : Nat} (ha : a.ftz = false) (hm : m ≠ 0) (hgrid : e = max (Nat.log2 m + e) (1 - f.bias) - f.mb)
    (hmag : (e + f.mb + f.bias).toNat * 2 ^ f.mb + m - 2 ^ f.mb = mag) (hmax : mag ≤ f.max) :
    encFin f a neg m e = (f.signEnc neg + mag, 0) := by
  unfold encFin
  simp only [hm, if_false, ← hgrid, le_refl, if_true, sub_self, Int.toNat_zero, Nat.shiftLeft_zero, hmag, not_lt.mpr hmax, ha,
    Bool.false_and, Bool.and_false, Bool.false_eq_true, FloatFmt.signEnc]

theorem encFin_subnormal (ha : a.ftz = false) (hm : m ≠ 0) (hlt : m < 2 ^ f.mb) (hmax : m ≤ f.max) :
    encFin f a neg m (1 - f.bias - f.mb) = (f.signEnc neg + m, 0) := by
  have hlog : m.log2 < f.mb := (Nat.log2_lt hm).mpr hlt
  have hexp : ((1 : Int) - f.bias - f.mb + f.mb + f.bias).toNat = 1 := by omega
  exact encFin_of_onGrid ha hm (by omega) (by rw [hexp]; omega) hmax

theorem log2_two_pow_add {n : Nat} (hlt : m < 2 ^ n) : (2 ^ n + m).log2 = n := by
  rw [Nat.log2_eq_iff (by positivity), pow_succ]
  omega

theorem encFin_normal {x : Nat} (ha : a.ftz = false) (hx : x ≠ 0) (hlt : m < 2 ^ f.mb) (hmax : x * 2 ^ f.mb + m ≤ f.max) :
    encFin f a neg (2 ^ f.mb + m) (x - f.bias - f.mb) = (f.signEnc neg + (x * 2 ^ f.mb + m), 0) := by
  have hlog := log2_two_pow_add hlt
  have hexp : ((x : Int) - f.bias - f.mb + f.mb + f.bias).toNat = x := by omega
  exact encFin_of_onGrid ha (by positivity) (by omega) (by rw [hexp]; omega) hmax

theorem encFloat_inf (hf : f.inf = true) : encFloat f a (.inf neg) = (f.signEnc neg + ((2 ^ f.eb - 1) * 2 ^ f.mb + 0), 0) := by
  simp [encFloat, hf, FloatFmt.signEnc, FloatFmt.infEnc]

theorem encFloat_fin : encFloat f a (.fin neg m e) = encFin f a neg m e := rfl

/-- Encoding what an encoding decodes to puts its three fields together again. -/
theorem encFloat_decFloat (hf : f.Layout) (ha : a.ftz = false) (hv : v < 2 ^ (f.eb + f.mb + 1))
    (hnan : (decFloat f false v).1 ≠ .nan) : encFloat f a (decFloat f false v).1 = (v, 0) := by
  suffices encFloat f a (decFloat f false v).1 = (f.signEnc (f.signOf v) + (f.expOf v * 2 ^ f.mb + f.mantOf v), 0) by
    rw [this, FloatFmt.fields_eq hf hv]
  have hmant := f.mantOf_lt v
  rw [decFloat_fst] at hnan ⊢
  split_ifs at hnan ⊢ with hlast hinf hcanonical hexp hzero
  · rw [encFloat_inf hlast.1, hlast.2, hinf]
  · exact absurd rfl hnan
  · exact absurd rfl hnan
  · rw [encFloat_fin, hexp, hzero, zero_mul, encFin_zero, add_zero, add_zero]
  · have hmax := FloatFmt.finite_le_max hf hlast hcanonical
    rw [hexp, zero_mul, zero_add] at hmax ⊢
    rw [encFloat_fin]
    exact encFin_subnormal ha hzero hmant hmax
  · rw [encFloat_fin]
    exact encFin_normal ha hexp hmant (FloatFmt.finite_le_max hf hlast hcanonical)

end Float

section Int

variable {w v : Nat} {a : Arith} {cls : NumClass}

/-- An integer with exponent 0 is rounded to itself in every mode. -/
theorem roundInt_ofInt (mode : Nat) (i : Int) : roundInt mode (i < 0) i.natAbs 0 = i := by
  simp only [roundInt, le_refl, if_true, Int.toNat_zero, Nat.shiftLeft_zero, decide_eq_true_eq]
  omega

theorem ofSigned_natCast (hv : v < 2 ^ w) : ofSigned w v = v := by
  have hmod : (v : Int) % 2 ^ w = v := Int.emod_eq_of_lt (by positivity) (by exact_mod_cast hv)
  rw [ofSigned, hmod, Int.toNat_natCast]

/-- The two's complement of the signed reading of `w` bits is those bits. -/
theorem ofSigned_toSigned (hv : v < 2 ^ w) : ofSigned w (toSigned w v) = v := by
  rw [toSigned, Nat.mod_eq_of_lt hv]
  split
  · exact ofSigned_natCast hv
  · rw [ofSigned, Int.sub_emod_right]
    exact ofSigned_natCast hv

theorem toSigned_range (hw : 0 < w) (v : Nat) : -(2 ^ (w - 1) : Int) ≤ toSigned w v ∧ toSigned w v ≤ 2 ^ (w - 1) - 1 := by
  have hlt : v % 2 ^ w < 2 ^ w := Nat.mod_lt _ (by positivity)
  have hhalf : 2 ^ w = 2 ^ (w - 1) * 2 := (Nat.two_pow_pred_mul_two hw).symm
  have hhalf' : (2 : Int) ^ w = 2 ^ (w - 1) * 2 := by exact_mod_cast hhalf
  have hcast : ((2 ^ (w - 1) : Nat) : Int) = 2 ^ (w - 1) := by norm_cast
  rw [toSigned]
  split <;> omega

/-- An integer in the range of its format is encoded as its two's complement, without a flag. -/
theorem encInt_ofInt {signed : Bool} {i : Int} (hlo : (if signed then -(2 ^ (w - 1)) else 0) ≤ i)
    (hhi : i ≤ if signed then 2 ^ (w - 1) - 1 else 2 ^ w - 1) : encInt w signed a cls (Num.ofInt i) = (ofSigned w i, 0) := by
  simp only [encInt, Num.ofInt, roundInt_ofInt, hlo, hhi, and_self, if_true]

theorem encInt_signed (hw : 0 < w) (hv : v < 2 ^ w) : encInt w true a cls (Num.ofInt (toSigned w v)) = (v, 0) := by
  obtain ⟨hlo, hhi⟩ := toSigned_range hw v
  rw [encInt_ofInt hlo hhi, ofSigned_toSigned hv]

theorem encInt_unsigned (hv : v < 2 ^ w) : encInt w false a cls (Num.ofInt v) = (v, 0) := by
  have hhi : (v : Int) ≤ 2 ^ w - 1 := Int.le_sub_one_of_lt (by exact_mod_cast hv)
  rw [encInt_ofInt (signed := false) (Int.natCast_nonneg v) hhi, ofSigned_natCast hv]

/-- The code of an integer format is that of no floating format, and its width is not 0. -/
theorem intFmt_some {code : Nat} {signed : Bool} (h : intFmt code = some (w, signed)) : floatFmt code = none ∧ 0 < w := by
  unfold intFmt at h
  split at h <;> cases h <;> exact ⟨rfl, by decide⟩

theorem encode_decode_int {code : Nat} {signed ftz : Bool} (h : intFmt code = some (w, signed)) (hv : v < 2 ^ w) :
    encode code a cls (decode code ftz v).1 = (v, 0) := by
  obtain ⟨hfloat, hw⟩ := intFmt_some h
  simp only [encode, decode, hfloat, h]
  cases signed with
  | true => exact encInt_signed hw hv
  | false => exact encInt_unsigned hv

end Int

/-- Settles O33: a floating encoding's fields, and an integer's two's complement, come back without rounding. -/
theorem numberFormatsRoundTrip : Obligations.NumberFormatsRoundTrip := by
  refine ⟨fun code v f a hcode ha hv hnan => ?_, fun code v w signed ftz a cls hcode hv => encode_decode_int hcode hv⟩
  obtain ⟨hlayout, hbits⟩ := floatFmt_layout hcode
  exact encFloat_decFloat hlayout ha (hbits ▸ hv) hnan

end Sys2Proof.Machine
end

section
/-!
The completion ring of a session (R118, R430-R432): what a record sends out, how the tail moves, and which operations may come before and
after it.
-/

namespace Sys2Proof.Machine

/-- What a session's records are written with is the same in both states, and nothing sent was taken back. -/
structure RingKept (s t : State) : Prop where
  ses : SameRegs .regSes s t
  rng : SameRegs .regRng s t
  hif : SameRegs .regHif s t
  epo : SameRegs .regEpo s t
  out : s.outbox <+: t.outbox

section Sent

variable {m : Msg} {s t u : State}

theorem Sent.later (h : Sent m s t) (hout : t.outbox <+: u.outbox) : Sent m s u := (hout.drop s.outbox.length).subset h

theorem Sent.earlier (h : Sent m t u) (hout : s.outbox <+: t.outbox) : Sent m s u := by
  refine List.mem_of_mem_drop (i := t.outbox.length - s.outbox.length) ?_
  rwa [List.drop_drop, Nat.add_sub_cancel' hout.length_le]

end Sent

section Ring

variable {x : Nat} {r : CmdRecord} {s t u : State}

/-- An operation whose footprint has none of the register groups that a record depends on. -/
theorem RingKept.of_upd {m : List Part} (h : Upd m s t)
    (hm : ([.regSes, .regRng, .regHif, .regEpo] : List Part).all (fun p => !m.contains p) = true) : RingKept s t := by
  have hpart (p : Part) (hp : p ∈ ([.regSes, .regRng, .regHif, .regEpo] : List Part)) : Same p s t :=
    h.same p (by simpa using List.all_eq_true.mp hm p hp)
  exact ⟨hpart .regSes (by decide), hpart .regRng (by decide), hpart .regHif (by decide), hpart .regEpo (by decide), h.out⟩

theorem RingKept.trans (h : RingKept s t) (h' : RingKept t u) : RingKept s u where
  ses p f i hf := (h'.ses p f i hf).trans (h.ses p f i hf)
  rng p f i hf := (h'.rng p f i hf).trans (h.rng p f i hf)
  hif p f i hf := (h'.hif p f i hf).trans (h.hif p f i hf)
  epo p f i hf := (h'.epo p f i hf).trans (h.epo p f i hf)
  out := h.out.trans h'.out

theorem RingKept.sessLink (h : RingKept s t) (x : Nat) : sessLink t x = sessLink s x := by
  have hown : rdi t pgHif .hifSessLink x = rdi s pgHif .hifSessLink x := h.ses _ _ _ rfl
  have hstate (i : Nat) : rdi t pgHif .hifLinkState i = rdi s pgHif .hifLinkState i := h.hif _ _ _ rfl
  simp only [Machine.sessLink, hown, hstate]

theorem RingKept.epochNow (h : RingKept s t) : epochNow t = epochNow s := h.epo _ _ _ rfl

/-- Where the next record of session `x` goes. -/
def cqSlotAddr (s : State) (x : Nat) : Nat := rdi s pgHif .hifCqBase x + 32 * rdi s pgHif .hifCqTail x

theorem RingKept.cqSlotAddr (h : RingKept s t) (x : Nat) : cqSlotAddr t x = cqSlotAddr s x := by
  have hbase : rdi t pgHif .hifCqBase x = rdi s pgHif .hifCqBase x := h.ses _ _ _ rfl
  have htail : rdi t pgHif .hifCqTail x = rdi s pgHif .hifCqTail x := h.rng _ _ _ rfl
  rw [Machine.cqSlotAddr, hbase, htail, ← Machine.cqSlotAddr]

/-- The record is written and the tail moves on; its GO is not looked at yet. -/
def cqPut (x : Nat) (bytes : List Byte) (s : State) : State :=
  wri pgHif .hifCqTail x ((rdi s pgHif .hifCqTail x + 1) % 2 ^ rdi s pgHif .hifCqLog2 x)
    (cqUnreserve x (sessWrite x (cqSlotAddr s x) bytes s))

theorem cqPut_outbox (x : Nat) (bytes : List Byte) (s : State) :
    (cqPut x bytes s).outbox = s.outbox ++ [.hostWrite (sessLink s x) x (cqSlotAddr s x) bytes] := rfl

theorem cqWrite_upd_cqPut (x : Nat) (bytes : List Byte) (irq : Bool) (s : State) :
    Upd [.outbox, .sess] (cqPut x bytes s) (cqWrite x bytes irq s) :=
  Upd.ite (fun _ => (Upd.mono rfl (putSess_upd ..)).step rfl (tailShadow_upd ..)) fun _ => Upd.mono rfl (putSess_upd ..)

theorem cqWrite_sent (x : Nat) (bytes : List Byte) (irq : Bool) (s : State) :
    Sent (.hostWrite (sessLink s x) x (cqSlotAddr s x) bytes) s (cqWrite x bytes irq s) :=
  Sent.later (t := cqPut x bytes s) (sent_last (List.prefix_refl _) _) (cqWrite_upd_cqPut x bytes irq s).out

/-- CQ_LOG2 has 4 bits, so that no tail outgrows the 16 bits of CQ_TAIL. -/
theorem cqWrite_tail (hs : s.Ok) (x : Nat) (bytes : List Byte) (irq : Bool) :
    rdi (cqWrite x bytes irq s) pgHif .hifCqTail x = (rdi s pgHif .hifCqTail x + 1) % 2 ^ rdi s pgHif .hifCqLog2 x := by
  have hkept : rdi (cqWrite x bytes irq s) pgHif .hifCqTail x = rdi (cqPut x bytes s) pgHif .hifCqTail x :=
    (cqWrite_upd_cqPut x bytes irq s).same .regRng rfl _ _ _ rfl
  have hlog : rdi s pgHif .hifCqLog2 x < 2 ^ 4 := rdi_lt hs pgHif .hifCqLog2 x
  have hring : 2 ^ rdi s pgHif .hifCqLog2 x ≤ 2 ^ 15 := Nat.pow_le_pow_right (by decide) (by omega)
  have hlt : (rdi s pgHif .hifCqTail x + 1) % 2 ^ rdi s pgHif .hifCqLog2 x < 2 ^ 16 :=
    (Nat.mod_lt _ (Nat.two_pow_pos _)).trans_le (hring.trans (by decide))
  rw [hkept, cqPut, rdi_wri, if_pos ⟨rfl, rfl, rfl⟩]
  exact Nat.mod_eq_of_lt hlt

theorem cmdComplete_completed (hs : s.Ok) (x : Nat) (noirq : Bool) (r : CmdRecord) : Completed x r s (cmdComplete x noirq r s) :=
  ⟨cqWrite_sent x _ _ s, cqWrite_tail hs x _ _⟩

theorem Sent.of_ringKept {bytes : List Byte} (h : Sent (.hostWrite (sessLink t x) x (cqSlotAddr t x) bytes) t u) (hk : RingKept s t) :
    Sent (.hostWrite (sessLink s x) x (cqSlotAddr s x) bytes) s u := by
  rw [hk.sessLink, hk.cqSlotAddr] at h
  exact h.earlier hk.out

theorem Completed.of_ringKept (h : Completed x r t u) (hk : RingKept s t) : Completed x r s u := by
  obtain ⟨hsent, htail⟩ := h
  have htail' : rdi t pgHif .hifCqTail x = rdi s pgHif .hifCqTail x := hk.rng _ _ _ rfl
  have hlog : rdi t pgHif .hifCqLog2 x = rdi s pgHif .hifCqLog2 x := hk.ses _ _ _ rfl
  rw [htail', hlog] at htail
  rw [hk.epochNow] at hsent
  exact ⟨hsent.of_ringKept hk, htail⟩

end Ring

end Sys2Proof.Machine
end

section
/-!
O21: the end of a load, the slots it writes and gives back, and its LOAD_ID (R124-R126, R154-R158, R165, R168).
-/

namespace Sys2Proof.Machine

section Pms

variable {β : Type} {k j : Nat} {s t : State}

@[simp] theorem pmAt_putPm_same (k : Nat) (x : PmSlot) (s : State) : pmAt (putPm k x s) k = x := SMap.get_set_same

theorem pmAt_putPm_other (h : j ≠ k) (x : PmSlot) (s : State) : pmAt (putPm k x s) j = pmAt s j := SMap.get_set_other h

theorem pmAt_congr (h : t.pms = s.pms) (k : Nat) : pmAt t k = pmAt s k := by rw [pmAt, h, ← pmAt]

/-- A slot that no store of the list names. -/
theorem pmAt_foldl_putPm_other {l : List β} {key : β → Nat} (v : β → PmSlot) (h : ∀ y ∈ l, k ≠ key y) (s : State) :
    pmAt (l.foldl (fun t y => putPm (key y) (v y) t) s) k = pmAt s k := by
  induction l generalizing s with
  | nil => rfl
  | cons y l ih =>
    rw [List.foldl_cons, ih fun z hz => h z (List.mem_cons_of_mem _ hz)]
    exact pmAt_putPm_other (h y List.mem_cons_self) ..

/-- Of stores into different slots each is what its slot reads. -/
theorem pmAt_foldl_putPm_mem {l : List β} {key : β → Nat} (v : β → PmSlot) (hl : (l.map key).Nodup) {y : β} (hy : y ∈ l) (s : State) :
    pmAt (l.foldl (fun t y => putPm (key y) (v y) t) s) (key y) = v y := by
  induction l generalizing s with
  | nil => cases hy
  | cons z l ih =>
    obtain ⟨hz, hl⟩ := List.nodup_cons.mp hl
    rcases List.mem_cons.mp hy with rfl | hy
    · have hother : ∀ w ∈ l, key y ≠ key w := fun w hw he => hz (he ▸ List.mem_map_of_mem hw)
      rw [List.foldl_cons, pmAt_foldl_putPm_other v hother, pmAt_putPm_same]
    · exact ih hl hy _

end Pms

section End

variable {c : LoadCmd} {e : LoadEnd} {s t : State}

/-- The completion record of a load (R432). -/
def loadRecord (c : LoadCmd) (e : LoadEnd) : CmdRecord :=
  { tag := c.tag, id := e.id, opcode := 2, result := e.result, cstat := if e.result = 0 then 0 else 4, detail := (e.fit c.body).length }

/-- A load without findings is recorded by its LOAD_ID alone. -/
theorem loadRecord_ok (c : LoadCmd) (stage size id us : Nat) :
    loadRecord c { stage := stage, size := size, id := id, us := us } = { tag := c.tag, id := id, opcode := 2 } := by
  simp [loadRecord, LoadEnd.fit]

/-- The report of a load has been written. -/
def loadReported (c : LoadCmd) (e : LoadEnd) (s : State) : State := spineWrite (ldReport c.body) (reportBytes s e c.body) s

theorem endLoad_reportable (h : reportable s c.body = true) :
    endLoad c e s = cmdComplete c.sess c.noirq (loadRecord c e) (loadReported c e s) := by
  have hlegal : (ldReportOk s.variant c.body && ldReportLenOk c.body) = true := by
    simp only [reportable, Bool.and_eq_true] at h ⊢
    exact h.1
  simp [endLoad, h, hlegal, loadRecord, loadReported]

theorem endLoad_completed (hs : s.Ok) (h : reportable s c.body = true) : Completed c.sess (loadRecord c e) s (endLoad c e s) := by
  have hupd := spineWrite_upd (ldReport c.body) (reportBytes s e c.body) s
  rw [endLoad_reportable h]
  exact (cmdComplete_completed (hupd.ok hs) ..).of_ringKept (.of_upd hupd rfl)

/-- Whether a report can be written depends neither on the slots nor on the load in progress. -/
theorem reportable_of_upd (h : Upd [.pms, .loading, .loadCount] s t) (b : List Byte) : reportable t b = reportable s b := by
  have hvariant : t.variant = s.variant := h.same .variant rfl
  have hpart (n : Nat) : partState t n = partState s n := h.same .regRcv rfl _ _ _ rfl
  simp only [reportable, spanGone, hvariant, hpart]

/-- A load that ends after its slots were changed leaves them so, and reports and completes as from the state before. -/
theorem endLoad_after (hs : s.Ok) (hr : reportable s c.body = true) (h : Upd [.pms, .loading, .loadCount] s t) :
    Completed c.sess (loadRecord c e) s (endLoad c e t) ∧ (endLoad c e t).pms = t.pms ∧ (endLoad c e t).loading = t.loading ∧
      (endLoad c e t).loadCount = t.loadCount := by
  have hend := endLoad_upd c e t
  refine ⟨?_, hend.same .pms rfl, hend.same .loading rfl, hend.same .loadCount rfl⟩
  exact (endLoad_completed (h.ok hs) ((reportable_of_upd h c.body).trans hr)).of_ringKept (.of_upd h rfl)

end End

section Dequeue

variable {us : Nat} {c : LoadCmd} {rest : List LoadCmd} {s : State}

theorem loaderDequeue_cons (hl : s.loading = none) (hq : s.loadQ = c :: rest) : loaderDequeue us s =
    if !(commandFindings s.variant c.body).isEmpty then
      (reportHeld s c.body).getD (endLoad c { result := 0x05, stage := 1, findings := commandFindings s.variant c.body, us := us }
        { s with loadQ := rest })
    else if partState s 3 = 4 then (reportHeld s c.body).getD (endLoad c { result := 0x1D, us := us } { s with loadQ := rest })
    else (loadHeld c.body s).getD (if partState s 3 != 0 && partState s 3 != 3 then s else runLoad c us { s with loadQ := rest }) := by
  rw [loaderDequeue, hl, hq]
  dsimp only
  cases reportHeld s c.body <;> cases loadHeld c.body s <;> rfl

end Dequeue

section Slots

variable {l : Loading} {s : State}

/-- Every reserved slot is LOADING. -/
def slotsLoading (l : Loading) (s : State) : State :=
  l.cores.foldl (fun t g => putPm (2 * g + l.target) { pmAt t (2 * g + l.target) with st := .loading } t) s

theorem exec_loadSlots (hl : s.loading = some l) (hw : l.writing = false) (hfree : ∀ g, g ∈ l.cores → slotFree s g l.target = true) :
    exec .loadSlots s = .next { slotsLoading l s with loading := some { l with writing := true } } := by
  have hall : l.cores.all (fun g => slotFree s g l.target) = true := List.all_eq_true.mpr hfree
  show execLoadSlots s = _
  rw [execLoadSlots, hl]
  dsimp only
  rw [hw, hall]
  rfl

theorem slotsLoading_st {g : Nat} (hg : g ∈ l.cores) : (pmAt (slotsLoading l s) (2 * g + l.target)).st = .loading := by
  refine foldl_reaches (Q := fun t => (pmAt t (2 * g + l.target)).st = .loading) hg (fun t => ?_) fun t i ht => ?_
  · rw [pmAt_putPm_same]
  · by_cases h : 2 * g + l.target = 2 * i + l.target
    · rw [h, pmAt_putPm_same]
    · rwa [pmAt_putPm_other h]

/-- Every target slot holds the image under LOAD_ID `id`, and the load is no longer in stage SLOTS. -/
def slotsWritten (l : Loading) (id : Nat) (s : State) : State :=
  l.cores.zipIdx.foldl (fun t e => putPm (2 * e.1 + l.target) { st := .ready, loadId := id, image := l.image, vcore := e.2 } t)
    { s with loading := none, loadCount := id }

theorem slotsWritten_upd (l : Loading) (id : Nat) (s : State) : Upd [.pms, .loading, .loadCount] s (slotsWritten l id s) := by
  have hids : Upd [.pms, .loading, .loadCount] s { s with loading := none, loadCount := id } :=
    ((Upd.refl s).set_loading (v := none) rfl).set_loadCount (v := id) rfl
  exact hids.foldl fun t e ht => ht.step rfl (putPm_upd ..)

theorem slotsWritten_loading (l : Loading) (id : Nat) (s : State) : (slotsWritten l id s).loading = none ∧
    (slotsWritten l id s).loadCount = id :=
  foldl_keeps (Q := fun t : State => t.loading = none ∧ t.loadCount = id) ⟨rfl, rfl⟩ fun _ _ h => h

/-- The LOAD_ID that the load in stage SLOTS gets. -/
def givenLoadId (s : State) : Nat := nextLoadId s.pms 1024 ((s.loadCount + 1) % 65536)

theorem exec_loadComplete (us : Nat) (hl : s.loading = some l) (hw : l.writing = true) (hr : reportHeld s l.cmd.body = none) :
    exec (.loadComplete us) s = .next (endLoad l.cmd { stage := 6, size := l.image.length, id := givenLoadId s, us := us }
      (slotsWritten l (givenLoadId s) s)) := by
  show execLoadComplete us s = _
  rw [execLoadComplete, hl]
  dsimp only
  rw [hw, hr]
  rfl

theorem slotKeys_nodup (hl : l.cores.Nodup) : (l.cores.zipIdx.map fun e => 2 * e.1 + l.target).Nodup := by
  have hkeys : (l.cores.zipIdx.map fun e => 2 * e.1 + l.target) = l.cores.map fun g => 2 * g + l.target := by
    conv_rhs => rw [← List.zipIdx_map_fst 0 l.cores, List.map_map]
    rfl
  rw [hkeys]
  exact hl.map fun a b h => by omega

theorem slotsWritten_slot (hl : l.cores.Nodup) {g v : Nat} (h : (g, v) ∈ l.cores.zipIdx) (id : Nat) :
    pmAt (slotsWritten l id s) (2 * g + l.target) = { st := .ready, loadId := id, image := l.image, vcore := v } :=
  pmAt_foldl_putPm_mem (key := fun e : Nat × Nat => 2 * e.1 + l.target) _ (slotKeys_nodup hl) h _

theorem slotsWritten_other {k : Nat} (h : ∀ g, g ∈ l.cores → k ≠ 2 * g + l.target) (id : Nat) :
    pmAt (slotsWritten l id s) k = pmAt s k :=
  pmAt_foldl_putPm_other (key := fun e : Nat × Nat => 2 * e.1 + l.target) _ (fun _ he => h _ (List.fst_mem_of_mem_zipIdx he)) _

end Slots

section Ids

variable {pms : SMap PmSlot} {f n : Nat}

/-- A LOAD_ID that is not given: 0, and one that a slot holds (R156). -/
def loadIdTaken (pms : SMap PmSlot) (n : Nat) : Bool := n = 0 || pms.any fun e => e.2.loadId = n

theorem nextLoadId_succ (pms : SMap PmSlot) (f n : Nat) : nextLoadId pms (f + 1) n =
    if loadIdTaken pms n then nextLoadId pms f ((n + 1) % 65536) else n := rfl

/-- A search that ends at a taken LOAD_ID has met none that is free. -/
theorem loadIdTaken_of_nextLoadId (h : loadIdTaken pms (nextLoadId pms f n) = true) (hn : n < 65536) :
    ∀ i ≤ f, loadIdTaken pms ((n + i) % 65536) = true := by
  induction f generalizing n with
  | zero =>
    intro i hi
    obtain rfl : i = 0 := Nat.le_zero.mp hi
    rwa [Nat.add_zero, Nat.mod_eq_of_lt hn]
  | succ f ih =>
    have htaken : loadIdTaken pms n = true := by
      by_contra hfree
      rw [nextLoadId_succ, if_neg hfree] at h
      exact hfree h
    rw [nextLoadId_succ, if_pos htaken] at h
    intro i hi
    match i with
    | 0 => rwa [Nat.add_zero, Nat.mod_eq_of_lt hn]
    | i + 1 =>
      have hnext := ih h (Nat.mod_lt _ (by decide)) i (Nat.le_of_succ_le_succ hi)
      rwa [Nat.mod_add_mod, Nat.add_assoc, Nat.add_comm 1 i] at hnext

/-- More LOAD_IDs are searched than can be taken. -/
theorem nextLoadId_free (hlen : pms.length < f) (hf : f < 65536) (hn : n < 65536) : loadIdTaken pms (nextLoadId pms f n) = false := by
  by_contra h
  have hall := loadIdTaken_of_nextLoadId (Bool.not_eq_false _ ▸ h) hn
  have hnodup : ((List.range (f + 1)).map fun i => (n + i) % 65536).Nodup :=
    List.nodup_range.map_on fun i hi j hj hij => by
      rw [List.mem_range] at hi hj
      omega
  have hsub : ((List.range (f + 1)).map fun i => (n + i) % 65536) ⊆ 0 :: pms.map fun e => e.2.loadId := by
    intro k hk
    obtain ⟨i, hi, rfl⟩ := List.mem_map.mp hk
    have htaken := hall i (Nat.lt_succ_iff.mp (List.mem_range.mp hi))
    simp only [loadIdTaken, Bool.or_eq_true, decide_eq_true_eq, List.any_eq_true] at htaken
    rcases htaken with hzero | ⟨e, he, hid⟩
    · exact hzero ▸ List.mem_cons_self
    · exact List.mem_cons_of_mem _ (hid ▸ List.mem_map_of_mem he)
  have hle := (List.subperm_of_subset hnodup hsub).length_le
  simp at hle
  omega

/-- A LOAD_ID that is not taken is none of a slot's. -/
theorem loadId_fresh {s : State} (h : loadIdTaken s.pms n = false) : n ≠ 0 ∧ ∀ k, (pmAt s k).loadId ≠ n := by
  simp only [loadIdTaken, Bool.or_eq_false_iff, decide_eq_false_iff_not, List.any_eq_false, decide_eq_true_eq] at h
  refine ⟨h.1, fun k => ?_⟩
  rcases SMap.get_cases (fun _ => {}) s.pms k with hd | hm
  · rw [pmAt, hd]
    exact fun h0 => h.1 h0.symm
  · exact h.2 _ hm

end Ids

section Expire

variable {l : Loading} {s t : State}

/-- A change of a slot's state alone moves no run to or from a slot. -/
theorem slotBack_putSt (k g slot : Nat) (v : PmState) (t : State) :
    slotBack (putPm k { pmAt t k with st := v } t) g slot = slotBack t g slot := by
  have hid (j : Nat) : (pmAt (putPm k { pmAt t k with st := v } t) j).loadId = (pmAt t j).loadId := by
    by_cases h : j = k
    · rw [h, pmAt_putPm_same]
    · rw [pmAt_putPm_other h]
  have huses : runUses (putPm k { pmAt t k with st := v } t) g slot = runUses t g slot := by
    funext e
    rw [runUses, hid, ← runUses]
  rw [slotBack, slotRuns, huses]
  rfl

/-- The slots of a load that has written none of them are given back. -/
theorem releaseSlots_unwritten (hw : l.writing = false) (s : State) : releaseSlots l s =
    l.cores.foldl (fun t g => putPm (2 * g + l.target) { pmAt t (2 * g + l.target) with st := slotBack t g l.target } t)
      { s with loading := none } := by
  rw [releaseSlots, hw]
  rfl

theorem releaseSlots_st (hw : l.writing = false) {g : Nat} (hg : g ∈ l.cores) :
    (pmAt (releaseSlots l s) (2 * g + l.target)).st = slotBack s g l.target := by
  rw [releaseSlots_unwritten hw]
  set back : State → Nat → State :=
    fun t g => putPm (2 * g + l.target) { pmAt t (2 * g + l.target) with st := slotBack t g l.target } t
  have hkept : slotBack (l.cores.foldl back { s with loading := none }) g l.target = slotBack s g l.target :=
    foldl_keeps (Q := fun t => slotBack t g l.target = slotBack s g l.target) rfl fun t i ht => (slotBack_putSt ..).trans ht
  rw [← hkept]
  refine foldl_reaches (Q := fun t => (pmAt t (2 * g + l.target)).st = slotBack t g l.target) hg (fun t => ?_) fun t i ht => ?_
  · rw [slotBack_putSt, pmAt_putPm_same]
  · rw [slotBack_putSt]
    by_cases h : g = i
    · rw [h, pmAt_putPm_same]
    · rwa [pmAt_putPm_other (by omega)]

theorem releaseSlots_loading (l : Loading) (s : State) : (releaseSlots l s).loading = none :=
  foldl_keeps (Q := fun t : State => t.loading = none) rfl fun _ _ h => h

/-- The findings of a load whose wait expires: one for each virtual core whose slot is not free. -/
def busyFindings (l : Loading) (s : State) : List Finding :=
  (l.cores.zipIdx.filter fun e => !slotFree s e.1 l.target).map fun e => slotBusy e.2

theorem exec_loadWaitExpire (us : Nat) (hl : s.loading = some l) (hw : l.writing = false)
    (hbusy : ∃ g, g ∈ l.cores ∧ slotFree s g l.target = false) (hr : reportHeld s l.cmd.body = none) :
    exec (.loadWaitExpire us) s = .next (endLoad l.cmd
      { result := 0x1B, stage := 6, findings := busyFindings l s, size := l.image.length, us := us } (releaseSlots l s)) := by
  have hsome : (l.cores.zipIdx.filter fun e => !slotFree s e.1 l.target).isEmpty = false := by
    obtain ⟨g, hg, hnot⟩ := hbusy
    obtain ⟨e, he, rfl⟩ : ∃ e ∈ l.cores.zipIdx, e.1 = g := List.mem_map.mp ((List.zipIdx_map_fst 0 l.cores).symm ▸ hg)
    rw [List.isEmpty_eq_false_iff_exists_mem]
    exact ⟨e, List.mem_filter.mpr ⟨he, by rw [hnot]; rfl⟩⟩
  show execLoadWaitExpire us s = _
  rw [execLoadWaitExpire, hl]
  dsimp only
  rw [hw, hsome, hr]
  rfl

end Expire

/-- No entry stands twice where duplicates are erased. -/
theorem nodup_eraseDups : ∀ l : List Nat, l.eraseDups.Nodup
  | [] => List.nodup_nil
  | a :: l => by
    rw [List.eraseDups_cons, List.nodup_cons]
    exact ⟨by simp, nodup_eraseDups _⟩
termination_by l => l.length
decreasing_by exact Nat.lt_succ_of_le (List.length_filter_le ..)

/-- Settles O21: the loader's commands by what they meet; each end of a load is a report and a completion, after which the slots stand as
the command left them. -/
theorem loaderStages : Obligations.LoaderStages := by
  refine ⟨?illegal, ?legal, ?ends, ?slots, ?complete, ?expire⟩
  case illegal =>
    intro us c rest s hl hq hfs hr
    have hsome : (!(commandFindings s.variant c.body).isEmpty) = true := by simpa using hfs
    show Host.Outcome.next (loaderDequeue us s) = _
    rw [loaderDequeue_cons hl hq, if_pos hsome, hr]
    rfl
  case legal =>
    intro us c rest s hl hq hfs hp hh
    show Host.Outcome.next (loaderDequeue us s) = _
    rw [loaderDequeue_cons hl hq, hfs, hp, hh]
    rfl
  case ends =>
    intro c e s hs _ hr
    exact ⟨_, rfl, endLoad_completed hs hr, endLoad_reportable hr⟩
  case slots =>
    intro l s _ hl hw hfree
    have hexec := exec_loadSlots hl hw hfree
    exact ⟨_, hexec, rfl, fun _ hg => slotsLoading_st hg, exec_only hexec⟩
  case complete =>
    intro us l s hs hl hw _ _ hdup hr hh
    have hcores : l.cores.Nodup := hdup ▸ nodup_eraseDups _
    obtain ⟨hloading, hcount⟩ := slotsWritten_loading l (givenLoadId s) s
    obtain ⟨hdone, hpms, hstage, hid⟩ := endLoad_after
      (e := { stage := 6, size := l.image.length, id := givenLoadId s, us := us }) hs hr (slotsWritten_upd l (givenLoadId s) s)
    refine ⟨_, givenLoadId s, exec_loadComplete us hl hw hh, hstage.trans hloading, hid.trans hcount, rfl, fun v g hg => ?_,
      fun k hk => ?_, fun hlen => ?_, loadRecord_ok l.cmd .. ▸ hdone⟩
    · exact (pmAt_congr hpms _).trans (slotsWritten_slot hcores hg _)
    · exact (pmAt_congr hpms _).trans (slotsWritten_other hk _)
    · exact loadId_fresh (nextLoadId_free (by omega) (by decide) (Nat.mod_lt _ (by decide)))
  case expire =>
    intro us l s hs hl hw hbusy _ hr hh
    have hback : Upd [.pms, .loading, .loadCount] s (releaseSlots l s) := Upd.mono rfl (releaseSlots_upd l s)
    obtain ⟨hdone, hpms, hstage, -⟩ := endLoad_after
      (e := { result := 0x1B, stage := 6, findings := busyFindings l s, size := l.image.length, us := us }) hs hr hback
    refine ⟨_, _, exec_loadWaitExpire us hl hw hbusy hh, hstage.trans (releaseSlots_loading l s), fun g hg => ?_, hdone⟩
    rw [pmAt_congr hpms]
    exact releaseSlots_st hw hg

end Sys2Proof.Machine
end

section
/-!
O24: a descriptor's load into the idle layer register set (R110).
-/

namespace Sys2Proof.Machine

section Load

variable {g c q i : Nat} {d : List Byte} {s : State}

theorem ctxId_ne (g : Nat) (h : i ≠ c) : ctxId g i ≠ ctxId g c := by
  unfold ctxId
  omega

/-- The loading context keeps what it holds. -/
theorem displace_own (g q c : Nat) (s : State) : ctxAt (displace g q c s) (ctxId g c) = ctxAt s (ctxId g c) := by
  refine foldl_keeps (Q := fun t => ctxAt t (ctxId g c) = ctxAt s (ctxId g c)) rfl fun t i ht => ?_
  dsimp only
  split
  · exact ht
  · next h =>
    simp only [Bool.or_eq_true, decide_eq_true_eq, not_or] at h
    exact (ctxAt_putCtx_other (ctxId_ne g (Ne.symm h.1.1)) ..).trans ht

/-- Each context has its own loaded descriptor on the queues without layer register sets. -/
theorem displace_wide (h : 6 ≤ q) (g c : Nat) (s : State) : displace g q c s = s := by
  refine foldl_keeps (Q := fun t => t = s) rfl fun t i ht => ?_
  dsimp only
  rw [if_pos (by simp [h])]
  exact ht

theorem displace_idle (hq : q < 6) (hi : i < 4) (hc : i ≠ c) : ((ctxAt (displace g q c s) (ctxId g i)).q q).idle = none := by
  refine foldl_reaches (Q := fun t => ((ctxAt t (ctxId g i)).q q).idle = none) (List.mem_range.mpr hi) (fun t => ?_) fun t j ht => ?_
  · dsimp only
    split
    · next h => simpa [hc, Nat.not_le.mpr hq] using h
    · rw [ctxAt_putCtx_same, q_putQ_same]
  · dsimp only
    split
    · exact ht
    · by_cases hj : i = j
      · rw [hj, ctxAt_putCtx_same, q_putQ_same]
      · rwa [ctxAt_putCtx_other (ctxId_ne g hj)]

theorem engineAt_loadSet (g q c : Nat) (img : List Byte) (s : State) : engineAt (loadSet g q c img s) (8 * g + q) =
    if (engineAt s (8 * g + q)).active = 0 then { engineAt s (8 * g + q) with set1 := ⟨img, c⟩ }
    else { engineAt s (8 * g + q) with set0 := ⟨img, c⟩ } := SMap.get_set_same

/-- The set that is not active. -/
def QEngine.idleSet (e : QEngine) : LSet := if e.active = 0 then e.set1 else e.set0

theorem loadSet_sets (g q c : Nat) (img : List Byte) (s : State) :
    (engineAt (loadSet g q c img s) (8 * g + q)).active = (engineAt s (8 * g + q)).active ∧
    (engineAt (loadSet g q c img s) (8 * g + q)).activeSet = (engineAt s (8 * g + q)).activeSet ∧
    (engineAt (loadSet g q c img s) (8 * g + q)).idleSet = ⟨img, c⟩ := by
  rw [engineAt_loadSet]
  split
  · next h => exact ⟨rfl, by simp [QEngine.activeSet, h], if_pos h⟩
  · next h => exact ⟨rfl, by simp [QEngine.activeSet, h], if_neg h⟩

/-- The idle set of a queue that has one holds the image; what it held for another context is displaced. -/
def setLoaded (g q c : Nat) (d : List Byte) (s : State) : State :=
  if q < 6 then loadSet g q c d (displace g q c s) else displace g q c s

theorem setLoaded_own (g q c : Nat) (d : List Byte) (s : State) : ctxAt (setLoaded g q c d s) (ctxId g c) = ctxAt s (ctxId g c) := by
  unfold setLoaded
  split
  · exact (ctxAt_congr ((loadSet_upd ..).same .ctxs rfl) _).trans (displace_own ..)
  · exact displace_own ..

theorem setLoaded_wide (h : 6 ≤ q) (g c : Nat) (d : List Byte) (s : State) : setLoaded g q c d s = s := by
  rw [setLoaded, if_neg (Nat.not_lt.mpr h), displace_wide h]

theorem setLoaded_sets (hq : q < 6) :
    (engineAt (setLoaded g q c d s) (8 * g + q)).active = (engineAt s (8 * g + q)).active ∧
    (engineAt (setLoaded g q c d s) (8 * g + q)).activeSet = (engineAt s (8 * g + q)).activeSet ∧
    (engineAt (setLoaded g q c d s) (8 * g + q)).idleSet = ⟨d, c⟩ := by
  have hengines : (displace g q c s).engines = s.engines := (displace_upd ..).same .engines rfl
  have hset : setLoaded g q c d s = loadSet g q c d (displace g q c s) := if_pos hq
  rw [hset, ← engineAt_congr hengines]
  exact loadSet_sets ..

theorem setLoaded_idle (hq : q < 6) (hi : i < 4) (hc : i ≠ c) : ((ctxAt (setLoaded g q c d s) (ctxId g i)).q q).idle = none := by
  rw [setLoaded, if_pos hq, ctxAt_congr ((loadSet_upd ..).same .ctxs rfl)]
  exact displace_idle hq hi hc

/-- The queue's next descriptor, number `k`, may be loaded. -/
structure Loads (g c q k : Nat) (s : State) : Prop where
  runs : (ctxAt s (ctxId g c)).st = .running ∨ (ctxAt s (ctxId g c)).st = .binding
  journal : (ctxAt s (ctxId g c)).journal ≠ 2
  serves : partServes s (corePart g) = true
  empty : ((ctxAt s (ctxId g c)).q q).idle = none
  next : k = ((ctxAt s (ctxId g c)).q q).loaded + 1
  left : k ≤ streamLen (ctxImage s g c) (ctxAt s (ctxId g c)).vcore (ctxAt s (ctxId g c)).vctx q

/-- The context after the load of descriptor `k` with image `d`. -/
def Ctx.loaded (x : Ctx) (q k : Nat) (d : List Byte) : Ctx := x.putQ q { x.q q with idle := some ⟨k, d⟩, loaded := k }

theorem exec_descLoad {k : Nat} (h : Loads g c q k s)
    (hd : d = streamDesc (ctxImage s g c) (ctxAt s (ctxId g c)).vcore (ctxAt s (ctxId g c)).vctx q k) :
    exec (.descLoad g c q) s = .next (putCtx (ctxId g c) ((ctxAt s (ctxId g c)).loaded q k d) (setLoaded g q c d s)) := by
  obtain ⟨hruns, hjournal, hserves, hempty, rfl, hleft⟩ := h
  have hgo : ¬(!(decide ((ctxAt s (ctxId g c)).st = .running) || decide ((ctxAt s (ctxId g c)).st = .binding)) ||
      decide ((ctxAt s (ctxId g c)).journal = 2) || !partServes s (corePart g) || ((ctxAt s (ctxId g c)).q q).idle.isSome ||
      decide (streamLen (ctxImage s g c) (ctxAt s (ctxId g c)).vcore (ctxAt s (ctxId g c)).vctx q <
        ((ctxAt s (ctxId g c)).q q).loaded + 1)) = true := by
    simpa [hjournal, hserves, hempty] using ⟨or_iff_not_imp_left.mp hruns, hleft⟩
  have hown := setLoaded_own g q c d s
  show execDescLoad g c q s = _
  rw [execDescLoad]
  dsimp only
  rw [if_neg hgo, ← hd]
  show Host.Outcome.next (putCtx (ctxId g c) ((ctxAt (setLoaded g q c d s) (ctxId g c)).loaded q _ d) (setLoaded g q c d s)) = _
  rw [hown]

end Load

end Sys2Proof.Machine
end

section
/-!
O24: a descriptor's start, its completion, and the wait that keeps it from starting (R110-R113, R118, R122, R206).
-/

namespace Sys2Proof.Machine

section Start

variable {g c q : Nat} {d : Desc} {s : State}

/-- The start makes the queue's idle set the active one and hands it to the descriptor. -/
theorem startDesc_sets (hq : q < 6) (d : Desc) (s : State) :
    (engineAt (startDesc g c q d s) (8 * g + q)).active = 1 - (engineAt s (8 * g + q)).active ∧
      (engineAt (startDesc g c q d s) (8 * g + q)).busy = true ∧ (engineAt (startDesc g c q d s) (8 * g + q)).owner = (c, d.k) := by
  unfold startDesc
  extract_lets x e passed e1 e2 slot s1 s2 y w z
  have hengine : engineAt (putCtx (ctxId g c) (z.putQ q { z.q q with idle := none, live := (z.q q).live ++ [w] }) s2) (8 * g + q) = e2 :=
    (engineAt_congr ((sbRegister_upd ..).same .engines rfl) _).trans SMap.get_set_same
  have hpassed : e2 = { e1 with active := 1 - e1.active, busy := true, owner := (c, d.k) } := if_pos hq
  rw [hengine, hpassed]
  exact ⟨rfl, rfl, rfl⟩

theorem mem_foldl_sbPut {e : SbEntry} {l : List SbEntry} (h : e ∈ l) (sb : List SbEntry) : ∃ n, { e with slot := n } ∈ l.foldl sbPut sb :=
  foldl_reaches (Q := fun sb => ∃ n, { e with slot := n } ∈ sb) h (fun _ => ⟨_, List.mem_append_right _ (List.mem_singleton_self _)⟩)
    fun _ _ ⟨n, hn⟩ => ⟨n, List.mem_append_left _ hn⟩

/-- Every span has its entry, in some place (R206, R217). -/
theorem sbRegister_entries {spans : List SbSpan} {p : SbSpan} (h : p ∈ spans) (g q c wb : Nat) (s : State) :
    ∃ n, { p.entry q c wb with slot := n } ∈ (spadAt (sbRegister g spans q c wb s) g).sb := by
  have hsome : ¬spans.isEmpty = true := by
    rw [List.isEmpty_iff]
    exact List.ne_nil_of_mem h
  unfold sbRegister
  rw [if_neg hsome]
  extract_lets x keep bufs
  set t := putSpad g { x with sb := (spans.map (·.entry q c wb)).foldl sbPut keep, nbufs := bufs, lastAdmit := q } s
  have hspad : spadAt (notePeak g t) g = spadAt t g := by
    rw [spadAt, (notePeak_upd g t).same .spads rfl, ← spadAt]
  have hput : (spadAt t g).sb = (spans.map (·.entry q c wb)).foldl sbPut keep := congrArg Spad.sb SMap.get_set_same
  rw [hspad, hput]
  exact mem_foldl_sbPut (List.mem_map_of_mem h) keep

theorem startDesc_entries {p : SbSpan} (h : p ∈ descSpans (ctxImage s g c) d.img (ctxAt s (ctxId g c))) :
    ∃ n, { p.entry q c (absWb (ctxAt s (ctxId g c)) q d.k) with slot := n } ∈ (spadAt (startDesc g c q d s) g).sb := by
  unfold startDesc
  extract_lets x e passed e1 e2 slot s1 s2 y w z
  have hs1 : Upd [.sess] s s1 := Upd.ite (fun _ => cqReserve_upd ..) fun _ => Upd.refl s
  have himage : ctxImage s1 g c = ctxImage s g c := by
    rw [ctxImage, ctxAt_congr (hs1.same .ctxs rfl), runAt_congr (hs1.same .runs rfl), ← ctxImage]
  exact sbRegister_entries (himage ▸ h) g q c _ _

theorem exec_descStart (hidle : ((ctxAt s (ctxId g c)).q q).idle = some d) (hwait : waitType d.img = false) (hmay : mayStart s g c q = true) :
    exec (.descStart g c q) s = .next (startDesc g c q d s) := by
  show execDescStart g c q s = _
  rw [execDescStart, hidle]
  dsimp only
  rw [hwait, hmay]
  rfl

end Start

section Complete

variable {g c q cycles : Nat} {w : Work} {st : DStat} {s : State}

theorem settleFlights_of_none (h : s.flights.filter BkFlight.isDone = []) : settleFlights s = s := by
  rw [settleFlights, h]
  rfl

/-- The run of a context. -/
def ctxRun (s : State) (g c : Nat) : Run := (runAt s (ctxAt s (ctxId g c)).run).getD {}

/-- The oldest started descriptor of a queue may complete with status `st`. -/
structure Completes (g c q : Nat) (w : Work) (st : DStat) (s : State) : Prop where
  settled : s.flights.filter BkFlight.isDone = []
  oldest : ∃ ws, ((ctxAt s (ctxId g c)).q q).live = w :: ws
  ended : w.stat = some st
  released : holdsEntries s g c q (absWb (ctxAt s (ctxId g c)) q w.k) = false
  serves : partServes s (corePart g) = true
  slot : w.slotHeld = true ∨ cqFree s (ctxRun s g c).sess = true

theorem exec_descComplete (h : Completes g c q w st s) (cycles : Nat) :
    exec (.descComplete g c q cycles) s = .next (completeHead g c q w st cycles s) := by
  obtain ⟨hsettled, ⟨ws, hlive⟩, hended, hreleased, hserves, hslot⟩ := h
  have hpart : partState s (corePart g) ≠ 2 ∧ partState s (corePart g) ≠ 4 := by
    simp only [partServes, Bool.or_eq_true, decide_eq_true_eq] at hserves
    omega
  show execDescComplete g c q cycles s = _
  rw [execDescComplete, settleFlights_of_none hsettled, ite_self]
  dsimp only
  rw [hlive]
  dsimp only
  rw [hended]
  dsimp only
  refine if_neg ?_
  rcases hslot with hheld | hfree
  · simp [hreleased, hheld, hpart]
  · rw [ctxRun] at hfree
    simp [hreleased, hfree, hpart]

theorem wbDone_completed_status (x : Ctx) (q i : Nat) (w : Work) (st : DStat) : (x.completed q w st).wbDone.getD i 0 =
    if i = q ∧ (st = .ok ∨ st = .poisoned) then (x.wbDone.getD q 0 + 1) % 2 ^ 16 else x.wbDone.getD i 0 := by
  show (if st = .ok || st = .poisoned then setAt 0 x.wbDone q ((x.wbDone.getD q 0 + 1) % 2 ^ 16) else x.wbDone).getD i 0 = _
  by_cases hst : st = .ok ∨ st = .poisoned
  · rw [if_pos (by simpa using hst), setAt_getD]
    simp only [hst, and_true]
  · rw [if_neg (by simpa using hst), if_neg fun h => hst h.2]

/-- The record of R118 goes into the completion ring of the run's session. -/
theorem completeHead_record (hneeds : dRec w.img = true ∨ st = .fault) :
    Sent (.hostWrite (sessLink s (ctxRun s g c).sess) (ctxRun s g c).sess (cqSlotAddr s (ctxRun s g c).sess)
      (descRecord s (ctxAt s (ctxId g c)) c q w cycles (ctxRun s g c).profile)) s (completeHead g c q w st cycles s) := by
  unfold completeHead
  extract_lets x u needs rec_ done run z s1 s2 s3
  have htrue : needs = true := by simpa [needs] using hneeds
  have hs2 : Upd [.ctxs, .sess] s s2 :=
    (Upd.mono rfl (putCtx_upd ..)).step rfl (Upd.ite (fun _ => cqReserve_upd ..) fun _ => Upd.refl s1 : Upd [.sess] s1 s2)
  have hs3 : s3 = cqWrite u.sess rec_ (dIrq w.img) s2 := if_pos htrue
  have hsent : Sent (.hostWrite (sessLink s2 u.sess) u.sess (cqSlotAddr s2 u.sess) rec_) s2 s3 := hs3 ▸ cqWrite_sent ..
  exact (hsent.of_ringKept (.of_upd hs2 rfl)).later (noteDone_upd ..).out

/-- A descriptor that needs no record sends nothing. -/
theorem completeHead_silent (hneeds : ¬(dRec w.img = true ∨ st = .fault)) : (completeHead g c q w st cycles s).outbox = s.outbox := by
  unfold completeHead
  extract_lets x u needs rec_ done run z s1 s2 s3
  have hfalse : needs = false := by simpa [needs] using hneeds
  have hs2 : s2 = s1 := if_neg (by simp [hfalse])
  have hs3 : Upd [.sess] s2 s3 := by
    have heq : s3 = if w.slotHeld then cqUnreserve u.sess s2 else s2 := if_neg (by simp [hfalse])
    exact heq ▸ Upd.ite (fun _ => cqUnreserve_upd ..) fun _ => Upd.refl s2
  calc (noteDone g q w s3).outbox = s3.outbox := (noteDone_upd ..).same .outbox rfl
    _ = s2.outbox := hs3.same .outbox rfl
    _ = s.outbox := hs2 ▸ rfl

end Complete

section Waits

variable {g c q : Nat} {d : Desc} {s : State}

theorem nextAfter_mem {last n : Nat} {l : List Nat} (h : nextAfter last l = some n) : n ∈ l := by
  simpa using List.find?_some h

theorem mem_of_chosenAmong {l : List Nat} (h : chosenAmong s g q l = some c) : c ∈ l := by
  unfold chosenAmong at h
  extract_lets prio top e at h
  split at h
  · exact List.mem_of_mem_filter (nextAfter_mem h)
  · next heq =>
    have hmem := List.mem_of_mem_filter (nextAfter_mem h)
    rw [← heq] at hmem
    exact List.mem_of_mem_filter hmem

/-- A context whose loaded descriptor waits is no candidate of its queue (R114, R122). -/
theorem isCandidate_of_waiting (hidle : ((ctxAt s (ctxId g c)).q q).idle = some d) (hwait : waitsMet (ctxAt s (ctxId g c)) d.img = false) :
    isCandidate s g q c = false := by
  rw [isCandidate, hidle]
  simp [hwait]

theorem mayStart_of_waiting (h : isCandidate s g q c = false) : mayStart s g c q = false := by
  by_contra hmay
  simp only [mayStart, Bool.not_eq_false, Bool.and_eq_true, decide_eq_true_eq] at hmay
  obtain ⟨⟨-, hchosen⟩, -⟩ := hmay
  have hready := (List.mem_filter.mp (mem_of_chosenAmong hchosen)).2
  simp [isReady, h] at hready

theorem refused_of_waiting (h : isCandidate s g q c = false) : refused s g c q = false := by
  simp [refused, h]

theorem takeDesc_of_waiting (hlive : ((ctxAt s (ctxId g c)).q q).live = []) (h : mayStart s g c q = false) (p : List Byte → Bool) :
    takeDesc s g c q p = none := by
  unfold takeDesc
  rw [hlive]
  split
  · next heq => exact absurd heq (by simp)
  · split
    · rfl
    · simp [h]

theorem exec_barrier_waiting (hidle : ((ctxAt s (ctxId g c)).q q).idle = some d) (hwait : waitsMet (ctxAt s (ctxId g c)) d.img = false) :
    exec (.barrier g c q) s = .next s := by
  show execBarrier g c q s = _
  rw [execBarrier]
  dsimp only
  rw [hidle]
  dsimp only
  exact if_pos (by simp [hwait])

end Waits

/-- Settles O24: what a load, a start and a completion do to the context, the layer register sets, the scoreboard and the completion ring,
each by its own lemma; a waiting descriptor is no candidate, so that no command takes it. -/
theorem descriptorPath : Obligations.DescriptorPath := by
  refine ⟨?load, ?start, ?complete, ?waits⟩
  case load =>
    rintro g c q k d x s _ _ _ _ rfl hruns hjournal hserves hempty hnext hleft hd
    have hloads : Loads g c q k s := ⟨hruns, hjournal, hserves, hempty, hnext, hleft⟩
    have hexec := exec_descLoad hloads hd
    refine ⟨_, hexec, ?_, fun hq => ?_, fun hq => ?_, exec_only hexec⟩
    · rw [ctxAt_putCtx_same, Ctx.loaded, q_putQ_same]
    · obtain ⟨hactive, hset, hidle⟩ := setLoaded_sets (g := g) (c := c) (d := d) (s := s) hq
      refine ⟨hset, ?_, fun i hi hc => ?_⟩
      · rw [QEngine.idleSet, hactive] at hidle
        exact hidle
      · rw [ctxAt_putCtx_other (ctxId_ne g hc)]
        exact setLoaded_idle hq hi hc
    · rw [setLoaded_wide hq]
      exact ⟨rfl, fun i hi => ctxAt_putCtx_other hi ..⟩
  case start =>
    rintro g c q d x s _ _ _ _ rfl hidle hwait hmay
    have hstart := startDesc_ctx g c q s d
    refine ⟨_, exec_descStart hidle hwait hmay, ?_, ?_, fun hq => startDesc_sets hq d s, fun p hp => startDesc_entries hp, hstart.other,
      (startDesc_upd ..).same⟩
    · rw [hstart.here, Ctx.started, q_putQ_same]
    · rw [hstart.here, Ctx.started, q_putQ_same]
      rfl
  case complete =>
    rintro g c q cycles w ws st x r s _ _ _ _ rfl hr _ hlive hended hsettled hreleased hserves hslot
    have hrun : ctxRun s g c = r := by
      rw [ctxRun, hr]
      rfl
    have hcompletes : Completes g c q w st s := ⟨hsettled, ⟨ws, hlive⟩, hended, hreleased, hserves, hrun ▸ hslot⟩
    have hctx := completeHead_ctx g c q s w st cycles
    refine ⟨_, exec_descComplete hcompletes cycles, ?_, ?_, ?_, fun i hi => ⟨?_, ?_⟩, ?_, hctx.other, (Upd.mono rfl (completeHead_upd ..)).same⟩
    · rw [hctx.here, Ctx.completed, q_putQ_same, hlive]
      rfl
    · rw [hctx.here]
      simp [Ctx.completed, Ctx.putQ]
    · rw [hctx.here, wbDone_completed_status]
      simp only [true_and]
    · rw [hctx.here, wbDone_completed_status, if_neg fun h => hi h.1]
    · rw [hctx.here]
      exact q_putQ_other hi ..
    · split
      · next hneeds => exact hrun ▸ completeHead_record hneeds
      · next hneeds => exact completeHead_silent hneeds
  case waits =>
    intro g c q d s _ hidle hlive hwait
    have hcand := isCandidate_of_waiting hidle hwait
    have hmay := mayStart_of_waiting hcand
    have hplain (type : Nat) : plainDesc type g c q s = s := by rw [plainDesc, takeDesc_of_waiting hlive hmay]
    refine ⟨?_, congrArg _ (hplain _), congrArg _ (hplain _), congrArg _ (hplain _), exec_barrier_waiting hidle hwait⟩
    show execDescStart g c q s = _
    rw [execDescStart, hidle]
    dsimp only
    rw [hmay, refused_of_waiting hcand, Bool.and_false]
    rfl

end Sys2Proof.Machine
end

section
/-!
O22: how a fetched RUN is read and judged, and what its start records (R113, R125, R431-R437, R481).
-/

namespace Sys2Proof.Machine

@[simp] theorem sessAt_putSess_same (k : Nat) (x : Sess) (s : State) : sessAt (putSess k x s) k = x := SMap.get_set_same

theorem sessAt_congr {s t : State} (h : t.sess = s.sess) (k : Nat) : sessAt t k = sessAt s k := by rw [sessAt, h, ← sessAt]

@[simp] theorem runAt_putRun_same (n : Nat) (r : Option Run) (s : State) : runAt (putRun n r s) n = r := SMap.get_set_same

section Entry

variable {x op : Nat} {e : List Byte} {r : CmdRecord} {s t : State}

theorem opcode_of_fetchedOp (h : fetchedOp s x op = some e) : fieldAt e 0 7 0 = op := by
  have hop := (Option.filter_eq_some_iff.mp h).2
  exact of_decide_eq_true hop

/-- The completion of an entry whose taking, and reads of memory, came before. -/
theorem entryDone_completed (hs : s.Ok) {m : List Part} (h : Upd m s t)
    (hm : ([.regSes, .regRng, .regHif, .regEpo] : List Part).all (fun p => !m.contains p) = true) (x : Nat) (e : List Byte) (r : CmdRecord) :
    Completed x { r with tag := fieldAt e 4 31 0, opcode := fieldAt e 0 7 0 } s (entryDone x e r t) :=
  (cmdComplete_completed (h.ok hs) ..).of_ringKept (.of_upd h hm)

end Entry

/-- A run starts from state `s`; one of a CLOSING session is aborted at once (R425, log entry 90). -/
def runStarted (x : Nat) (e b img : List Byte) (p : List (Byte × Bool)) (s : State) : State :=
  let t := startRun x e b img (runEntries (some img) (p.map Prod.fst)) s
  if sessState t x = 2 then abortRun s.nextRun t else t

section Read

variable {x a n : Nat} {e b img : List Byte} {p : List (Byte × Bool)} {r : Option (List (Byte × Bool)) × State} {s : State}

/-- Where the run block of a fetched RUN stands (R433). -/
def runAddr (e : List Byte) : Nat := fieldAt e 8 63 0

/-- The first bytes of its run block (R433). -/
def runHead (e : List Byte) (s : State) : List Byte := ((spineRead (runAddr e) 0x80 s).1.getD []).map Prod.fst

/-- The length of the run block with its bind and region entries (R433, R435). -/
def runSize (e : List Byte) (s : State) : Nat := 0x80 + 16 * (rbBinds (runHead e s) + rbRegions (runHead e s))

/-- The read of the run block. -/
def runRead (e : List Byte) (s : State) : Option (List (Byte × Bool)) × State := spineRead (runAddr e) (runSize e s) s

/-- The state in which the block is checked: read, and its entry taken. -/
def runTaken (x : Nat) (e : List Byte) (s : State) : State := takeEntry x (runRead e s).2

/-- The read of the placement entries (R434). -/
def runPlaces (x : Nat) (e b img : List Byte) (s : State) : Option (List (Byte × Bool)) × State :=
  spineRead (rbPlace b) (16 * imgVcores img) (runTaken x e s)

/-- What may change until a RUN's entry has been taken and its placement read. -/
def runReadParts : List Part := memoryParts ++ [.sess]

theorem runTaken_upd (x : Nat) (e : List Byte) (s : State) : Upd runReadParts s (runTaken x e s) :=
  (Upd.mono rfl (spineRead_upd ..).snd).step rfl (takeEntry_upd ..)

theorem runPlaces_upd (x : Nat) (e b img : List Byte) (s : State) : Upd runReadParts s (runPlaces x e b img s).2 :=
  (runTaken_upd x e s).step rfl (spineRead_upd ..).snd

theorem takeEntry_fetched (x : Nat) (s : State) : (sessAt (takeEntry x s) x).fetched = none := by
  rw [takeEntry, sessAt_putSess_same]

theorem runPlaces_fetched (x : Nat) (e b img : List Byte) (s : State) : (sessAt (runPlaces x e b img s).2 x).fetched = none := by
  rw [runPlaces, sessAt_congr ((spineRead_upd ..).snd.same .sess rfl), runTaken, takeEntry_fetched]

/-- A fetched RUN in P0 whose legal block, of a manifest that is loaded, and placement entries are served (R433-R436): `n` bytes at `a`,
read as `r`. -/
structure RunServed (x : Nat) (e b img : List Byte) (p : List (Byte × Bool)) (a n : Nat) (r : Option (List (Byte × Bool)) × State)
    (s : State) : Prop where
  addr : a = runAddr e
  size : n = runSize e s
  read : r = runRead e s
  fetched : fetchedOp s x 4 = some e
  awake : pstate s = 0
  still : psMoving s = false
  headServed : spineHeld a 0x80 false s = none
  blockServed : spineHeld a n false s = none
  block : r.1.map spanBytes = some (b, none)
  legal : runBlockBad r.2 b = none
  loaded : loadedImage s (rbLoad b) = some img
  placeServed : spineHeld (rbPlace b) (16 * imgVcores img) false s = none
  places : (spineRead (rbPlace b) (16 * imgVcores img) (takeEntry x r.2)).1 = some p
  clean : p.any Prod.snd = false

theorem RunServed.places_eq (h : RunServed x e b img p a n r s) :
    spineRead (rbPlace b) (16 * imgVcores img) (takeEntry x r.2) = runPlaces x e b img s := by
  rw [h.read]
  rfl

theorem loadedImage_congr {t : State} (h : t.pms = s.pms) (id : Nat) : loadedImage t id = loadedImage s id := by
  rw [loadedImage, h, ← loadedImage]

theorem runBlockBad_takeEntry (x : Nat) (b : RunBlock) (s : State) : runBlockBad (takeEntry x s) b = runBlockBad s b := rfl

/-- A block that is served and legal is checked right away. -/
theorem exec_run_checked (h : RunServed x e b img p a n r s) : exec (.run x) s = .next (runChecked x e b (runTaken x e s)) := by
  obtain ⟨rfl, rfl, rfl, hfetched, hawake, hstill, hhead, hblock, hread, hlegal, hloaded, hplaced, -, -⟩ := h
  have hcommand : runCommand x e s = runBlockRead x e (runAddr e) s (runRead e s) := by
    rw [runCommand, if_neg (by simp [hawake]), if_neg (by simp [hstill]), if_neg (by simp [hawake])]
    dsimp only
    rw [← runAddr, ← runHead, ← runSize, ← runRead, hhead, hblock, Option.orElse_none, Option.getD_none]
  have himage : loadedImage (runRead e s).2 (rbLoad b) = some img :=
    (loadedImage_congr ((spineRead_upd ..).snd.same .pms rfl) _).trans hloaded
  have hchecked : runBlockRead x e (runAddr e) s (runRead e s) = runChecked x e b (runTaken x e s) := by
    rw [runBlockRead, hread]
    dsimp only
    rw [hlegal, himage]
    simp only [Option.map_some, Option.getD_some, Option.isNone_none, if_true, hplaced, Option.getD_none, runTaken]
  show execRun x s = _
  rw [execRun, hfetched]
  dsimp only
  rw [hcommand, hchecked]

/-- The checks of a served block find it legal, its manifest loaded and its placement readable. -/
theorem RunServed.taken (h : RunServed x e b img p a n r s) : runBlockBad (runTaken x e s) b = none ∧
    loadedImage (runTaken x e s) (rbLoad b) = some img ∧
    (spineRead (rbPlace b) (16 * imgVcores img) (runTaken x e s)).1 = some p := by
  refine ⟨?_, (loadedImage_congr ((runTaken_upd x e s).same .pms rfl) _).trans h.loaded, ?_⟩
  · rw [runTaken, runBlockBad_takeEntry, ← h.read]
    exact h.legal
  · rw [runTaken, ← h.read]
    exact h.places

theorem exec_run_refused {c : Nat} (h : RunServed x e b img p a n r s)
    (hc : runRefusal (runPlaces x e b img s).2 b (some (p.map Prod.fst)) = some c) :
    exec (.run x) s = .next (entryDone x e { cstat := 4, result := c } (runPlaces x e b img s).2) := by
  obtain ⟨hlegal, hloaded, hplaces⟩ := h.taken
  rw [runPlaces] at hc ⊢
  rw [exec_run_checked h, runChecked, hlegal]
  simp only [hloaded, Option.map_some, Option.getD_some, hplaces, Option.bind_some, h.clean, Bool.false_eq_true, if_false, hc]

theorem exec_run_started (h : RunServed x e b img p a n r s)
    (hc : runRefusal (runPlaces x e b img s).2 b (some (p.map Prod.fst)) = none) :
    exec (.run x) s = .next (runStarted x e b img p (runPlaces x e b img s).2) := by
  obtain ⟨hlegal, hloaded, hplaces⟩ := h.taken
  rw [runPlaces] at hc ⊢
  rw [exec_run_checked h, runChecked, hlegal]
  simp only [hloaded, Option.map_some, Option.getD_some, hplaces, Option.bind_some, h.clean, Bool.false_eq_true, if_false, hc, runStarted]

/-- Without power a RUN is refused before its block is looked at (R481). -/
theorem exec_run_unpowered (hfetched : fetchedOp s x 4 = some e) (hp : pstate s = 2 ∨ pstate s = 3) :
    exec (.run x) s = .next (entryDone x e { cstat := 4, result := 0x24 } (takeEntry x s)) := by
  show execRun x s = _
  rw [execRun, hfetched]
  dsimp only
  rw [runCommand, if_pos (by simpa using hp)]

end Read

section Start

variable {x n : Nat} {e b img : List Byte} {es : List PlaceEntry} {r : Run} {s : State}

/-- The run has its number, and nothing of it is placed yet. -/
def runNumbered (r : Run) (s : State) : State := putRun s.nextRun (some r) { s with nextRun := s.nextRun + 1 }

/-- After its number is given a starting run is stored no more. -/
theorem startRun_upd_numbered (x : Nat) (e b img : List Byte) (es : List PlaceEntry) (s : State) :
    Upd [.outbox, .regIrq, .floorAbove, .ctxs, .pms, .spads] (runNumbered (runOf x e b img es) s) (startRun x e b img es s) := by
  unfold startRun
  extract_lets r ps s1 s2 s3 snap
  have hplaced : Upd [.outbox, .regIrq, .floorAbove, .ctxs, .pms, .spads] s1 s2 :=
    (Upd.refl s1).foldl fun _ _ ht => ht.step rfl (placeCtx_upd ..)
  have hactive : Upd [.outbox, .regIrq, .floorAbove, .ctxs, .pms, .spads] s1 s3 :=
    hplaced.foldl fun _ _ ht => ht.step rfl (putPm_upd ..)
  exact (hactive.foldl fun _ _ ht => ht.step rfl (bindSession_upd ..)).step rfl (floorCheck_upd _)

theorem startRun_recorded (x : Nat) (e b img : List Byte) (es : List PlaceEntry) (s : State) :
    runAt (startRun x e b img es s) s.nextRun = some (runOf x e b img es) ∧ (startRun x e b img es s).nextRun = s.nextRun + 1 ∧
      ∀ y, sessAt (startRun x e b img es s) y = sessAt s y := by
  have hupd := startRun_upd_numbered x e b img es s
  refine ⟨?_, hupd.same .nextRun rfl, fun y => sessAt_congr (hupd.same .sess rfl) y⟩
  rw [runAt_congr (hupd.same .runs rfl), runNumbered, runAt_putRun_same]

/-- A host abort marks the run and stores it back. -/
theorem runAt_abortRun (h : runAt s n = some r) : runAt (abortRun n s) n = some { r with aborted := true } := by
  rw [abortRun, h]
  exact (runAt_congr ((haltRun_upd ..).same .runs rfl) n).trans (runAt_putRun_same ..)

/-- Whether or not the run is aborted at once, it is recorded as its block says. -/
theorem runStarted_recorded (x : Nat) (e b img : List Byte) (p : List (Byte × Bool)) (s : State) :
    (∃ u, runAt (runStarted x e b img p s) s.nextRun = some u ∧ u.sess = x ∧ u.tag = fieldAt e 4 31 0 ∧ u.image = img ∧
      u.ctxs = (placedCtxs (runEntries (some img) (p.map Prod.fst))).map fun q => ctxId q.1 q.2.1) ∧
    (runStarted x e b img p s).nextRun = s.nextRun + 1 ∧ sessAt (runStarted x e b img p s) x = sessAt s x := by
  obtain ⟨hrun, hnext, hsess⟩ := startRun_recorded x e b img (runEntries (some img) (p.map Prod.fst)) s
  unfold runStarted
  extract_lets t
  split
  · have hkept : (abortRun s.nextRun t).nextRun = t.nextRun := (abortRun_upd s.nextRun t).same .nextRun rfl
    have hsess' : sessAt (abortRun s.nextRun t) x = sessAt t x := sessAt_congr ((abortRun_upd s.nextRun t).same .sess rfl) x
    exact ⟨⟨_, runAt_abortRun hrun, rfl, rfl, rfl, rfl⟩, hkept.trans hnext, hsess'.trans (hsess x)⟩
  · exact ⟨⟨_, hrun, rfl, rfl, rfl, rfl⟩, hnext, hsess x⟩

/-- The same from the state in which the RUN was fetched. -/
theorem runServed_recorded (x : Nat) (e b img : List Byte) (p : List (Byte × Bool)) (s : State) :
    (∃ u, runAt (runStarted x e b img p (runPlaces x e b img s).2) s.nextRun = some u ∧ u.sess = x ∧ u.tag = fieldAt e 4 31 0 ∧
      u.image = img ∧ u.ctxs = (placedCtxs (runEntries (some img) (p.map Prod.fst))).map fun q => ctxId q.1 q.2.1) ∧
    (runStarted x e b img p (runPlaces x e b img s).2).nextRun = s.nextRun + 1 ∧
    (sessAt (runStarted x e b img p (runPlaces x e b img s).2) x).fetched = none := by
  obtain ⟨hrun, hnext, hsess⟩ := runStarted_recorded x e b img p (runPlaces x e b img s).2
  have hnumber : (runPlaces x e b img s).2.nextRun = s.nextRun := (runPlaces_upd x e b img s).same .nextRun rfl
  rw [hnumber] at hrun hnext
  refine ⟨hrun, hnext, ?_⟩
  rw [hsess, runPlaces_fetched]

/-- A refused RUN completes and touches neither runs nor contexts. -/
theorem runServed_refused (hs : s.Ok) (hfetched : fetchedOp s x 4 = some e) (b img : List Byte) (c : Nat) :
    Completed x { tag := fieldAt e 4 31 0, opcode := 4, result := c, cstat := 4 } s
      (entryDone x e { cstat := 4, result := c } (runPlaces x e b img s).2) ∧
    (entryDone x e { cstat := 4, result := c } (runPlaces x e b img s).2).runs = s.runs ∧
    (entryDone x e { cstat := 4, result := c } (runPlaces x e b img s).2).ctxs = s.ctxs := by
  have hreads := runPlaces_upd x e b img s
  have hdone := entryDone_completed hs hreads rfl x e { cstat := 4, result := c }
  have hall : Upd (.regRng :: runReadParts) s (entryDone x e { cstat := 4, result := c } (runPlaces x e b img s).2) :=
    (Upd.mono rfl hreads).step rfl (entryDone_upd ..)
  rw [opcode_of_fetchedOp hfetched] at hdone
  exact ⟨hdone, hall.same .runs rfl, hall.same .ctxs rfl⟩

end Start

end Sys2Proof.Machine
end

section
/-!
O22: how a run ends, and the GO of a device write (R120, R121, R125, R431, R432).
-/

namespace Sys2Proof.Machine

section Ends

variable {n id : Nat} {r : Run} {s t : State}

theorem freeCtx_ctx (id : Nat) (s : State) : CtxBecomes id { wbDone := (ctxAt s id).wbDone } s (freeCtx id s) :=
  (CtxBecomes.put ..).before ((dropPins_upd ..).same .ctxs rfl)

/-- The contexts that run `n` holds leave it. -/
def ctxsFreed (n : Nat) (r : Run) (s : State) : State := r.ctxs.foldl (fun t id => if runHolds t n id then freeCtx id t else t) s

theorem ctxsFreed_upd (n : Nat) (r : Run) (s : State) : Upd [.ctxs, .drovers] s (ctxsFreed n r s) :=
  (Upd.refl s).foldl fun _ _ ht => Upd.ite (fun _ => ht.trans (freeCtx_upd ..)) fun _ => ht

/-- A freed context belongs to no run. -/
theorem runHolds_freeCtx (n id : Nat) (s : State) : runHolds (freeCtx id s) n id = false := by
  rw [runHolds, (freeCtx_ctx id s).here]
  exact Bool.and_false _

/-- Whatever leaves the run, a context keeps its record or is FREE with its waybill counts (R113). -/
theorem ctxsFreed_cases (n : Nat) (r : Run) (id : Nat) (s : State) :
    ctxAt (ctxsFreed n r s) id = ctxAt s id ∨ ctxAt (ctxsFreed n r s) id = { wbDone := (ctxAt s id).wbDone } := by
  refine foldl_keeps (Q := fun t => ctxAt t id = ctxAt s id ∨ ctxAt t id = { wbDone := (ctxAt s id).wbDone }) (.inl rfl) fun t j ht => ?_
  split
  · by_cases hj : id = j
    · subst hj
      have hdone : (ctxAt t id).wbDone = (ctxAt s id).wbDone := by rcases ht with h | h <;> rw [h]
      exact .inr (hdone ▸ (freeCtx_ctx id t).here)
    · rwa [(freeCtx_ctx j t).other id hj]
  · exact ht

theorem ctxsFreed_left (hid : id ∈ r.ctxs) (s : State) : runHolds (ctxsFreed n r s) n id = false := by
  refine foldl_reaches (Q := fun t => runHolds t n id = false) hid (fun t => ?_) fun t j ht => ?_
  · split
    · exact runHolds_freeCtx ..
    · next h => simpa using h
  · split
    · by_cases hj : id = j
      · exact hj ▸ runHolds_freeCtx ..
      · rwa [runHolds, (freeCtx_ctx j t).other id hj, ← runHolds]
    · exact ht

theorem ctxsFreed_ctx (hid : id ∈ r.ctxs) (hheld : runHolds s n id = true) :
    ctxAt (ctxsFreed n r s) id = { wbDone := (ctxAt s id).wbDone } := by
  refine (ctxsFreed_cases n r id s).resolve_left fun hsame => ?_
  have hleft := ctxsFreed_left (n := n) hid s
  rw [runHolds, hsame, ← runHolds, hheld] at hleft
  cases hleft

theorem abortHears_runs (n : Nat) (s : State) : (abortHears n s).runs = s.runs := by
  refine foldl_keeps (Q := fun t : State => t.runs = s.runs) rfl fun t w ht => ?_
  dsimp only
  split
  · split
    · exact Eq.trans ((cmdComplete_upd ..).same .runs rfl) ht
    · exact ht
  · exact ht

/-- Run `n` is over, and a slot that no other run uses is READY. -/
def runDropped (n : Nat) (r : Run) (s : State) : State :=
  ((r.ctxs.map fun id => 2 * (id / 4) + r.slot).eraseDups).foldl (fun t k => slotQuiet k t) (putRun n none s)

theorem runDropped_upd_put (n : Nat) (r : Run) (s : State) : Upd [.pms] (putRun n none s) (runDropped n r s) :=
  (Upd.refl _).foldl fun _ _ ht => ht.trans (slotQuiet_upd ..)

theorem runDropped_upd (n : Nat) (r : Run) (s : State) : Upd [.runs, .pms] s (runDropped n r s) :=
  (Upd.mono rfl (putRun_upd ..)).step rfl (runDropped_upd_put n r s)

theorem endRun_eq (n : Nat) (r : Run) (refused : Bool) (s : State) : endRun n r refused s =
    epochSettle (abortHears n (cmdComplete r.sess r.noirq (runRecord r refused) (runDropped n r s))) := rfl

theorem endRun_run (n : Nat) (r : Run) (refused : Bool) (s : State) : runAt (endRun n r refused s) n = none := by
  rw [endRun_eq, runAt_congr ((epochSettle_upd _).same .runs rfl), runAt_congr (abortHears_runs ..),
    runAt_congr ((cmdComplete_upd ..).same .runs rfl), runAt_congr ((runDropped_upd_put n r s).same .runs rfl), runAt_putRun_same]

theorem endRun_ctx (n : Nat) (r : Run) (refused : Bool) (s : State) (id : Nat) : ctxAt (endRun n r refused s) id = ctxAt s id := by
  rw [endRun_eq, ctxAt_congr ((epochSettle_upd _).same .ctxs rfl), ctxAt_congr ((abortHears_upd ..).same .ctxs rfl),
    ctxAt_congr ((cmdComplete_upd ..).same .ctxs rfl), ctxAt_congr ((runDropped_upd n r s).same .ctxs rfl)]

theorem endRun_sent (n : Nat) (r : Run) (refused : Bool) (s : State) :
    Sent (.hostWrite (sessLink s r.sess) r.sess (cqSlotAddr s r.sess) (cmdBytes (epochNow s) (runRecord r refused))) s
      (endRun n r refused s) := by
  have hkept : RingKept s (runDropped n r s) := .of_upd (runDropped_upd n r s) rfl
  have hsent : Sent _ (runDropped n r s) (cmdComplete r.sess r.noirq (runRecord r refused) (runDropped n r s)) := cqWrite_sent ..
  rw [hkept.epochNow] at hsent
  exact ((hsent.of_ringKept hkept).later (abortHears_upd ..).out).later (epochSettle_upd _).out

/-- All contexts of run `n` are its own, and none is left with anything to do. -/
structure RunDone (n : Nat) (r : Run) (s : State) : Prop where
  run : runAt s n = some r
  held : ∀ id, id ∈ r.ctxs → runHolds s n id = true
  done : ∀ id, id ∈ r.ctxs → ctxDone r (ctxAt s id) = true

theorem exec_runComplete (h : RunDone n r s) : exec (.runComplete n) s =
    .next (endRun n r (r.ctxs.any fun id => (ctxAt s id).bindRefused) (ctxsFreed n r s)) := by
  have hdone : (r.ctxs.all fun id => !runHolds s n id || ctxDone r (ctxAt s id)) = true :=
    List.all_eq_true.mpr fun id hid => by rw [h.done id hid, Bool.or_true]
  have hrefused : (r.ctxs.any fun id => runHolds s n id && (ctxAt s id).bindRefused) = r.ctxs.any fun id => (ctxAt s id).bindRefused := by
    rw [Bool.eq_iff_iff, List.any_eq_true, List.any_eq_true]
    exact exists_congr fun id => and_congr_right fun hid => by rw [h.held id hid, Bool.true_and]
  show Host.Outcome.next (runComplete n s) = _
  rw [runComplete, h.run]
  dsimp only
  rw [if_pos hdone, hrefused]
  rfl

end Ends

section Go

variable {x : Nat} {irq : Bool} {s : State}

/-- The new tail is on its way to CQ_TAIL_ADDR, and no acknowledged record is left to be told of (R431). -/
def tailTold (x : Nat) (s : State) : State :=
  sessWrite x (rdi s pgHif .hifCqTailAddr x) (leBytes 8 (rdi s pgHif .hifCqTail x)) (putSess x { sessAt s x with acked := [] } s)

/-- With every write of the session acknowledged the tail follows, and the vector where a record asked for it. -/
theorem tailShadow_acked (hsent : (sessAt s x).sent = []) (hacked : (sessAt s x).acked ≠ []) : tailShadow x s =
    if true ∈ (sessAt s x).acked then sendVec x (tailTold x s) else tailTold x s := by
  have hvec : ((sessAt s x).acked.any id = true) = (true ∈ (sessAt s x).acked) := by
    simp only [List.any_eq_true, id_eq, exists_eq_right]
  rw [tailShadow]
  dsimp only
  rw [if_neg (by simp [hacked, hsent])]
  simp only [hvec]
  rfl

theorem tailShadow_sess (hsent : (sessAt s x).sent = []) (hacked : (sessAt s x).acked ≠ []) :
    sessAt (tailShadow x s) x = { sessAt s x with acked := [] } := by
  have htold : sessAt (tailTold x s) x = { sessAt s x with acked := [] } := sessAt_putSess_same ..
  rw [tailShadow_acked hsent hacked]
  split
  · exact htold
  · exact htold

theorem tailShadow_outbox (hsent : (sessAt s x).sent = []) (hacked : (sessAt s x).acked ≠ []) : (tailShadow x s).outbox =
    s.outbox ++ [.hostWrite (sessLink s x) x (rdi s pgHif .hifCqTailAddr x) (leBytes 8 (rdi s pgHif .hifCqTail x))] ++
      (if true ∈ (sessAt s x).acked then [.msix (msgLink s) x] else []) := by
  rw [tailShadow_acked hsent hacked]
  split
  · rfl
  · exact (List.append_nil _).symm

/-- The session's only write without a GO, a record, has received it. -/
def recordAcked (x : Nat) (irq : Bool) (s : State) : State :=
  putSess x { sessAt s x with sent := [], acked := (sessAt s x).acked ++ [irq] } s

theorem sessAt_recordAcked (x : Nat) (irq : Bool) (s : State) :
    sessAt (recordAcked x irq s) x = { sessAt s x with sent := [], acked := (sessAt s x).acked ++ [irq] } := sessAt_putSess_same ..

theorem exec_go_record (h : (sessAt s x).sent = [.record irq]) : exec (.go x) s = .next (tailShadow x (recordAcked x irq s)) := by
  show execGo x s = _
  rw [execGo, h]
  rfl

/-- Every acknowledged record is told of, this one with them. -/
theorem go_record_leaves (x : Nat) (irq : Bool) (s : State) :
    (sessAt (tailShadow x (recordAcked x irq s)) x).sent = [] ∧ (sessAt (tailShadow x (recordAcked x irq s)) x).acked = [] ∧
      (tailShadow x (recordAcked x irq s)).outbox =
        s.outbox ++ [.hostWrite (sessLink s x) x (rdi s pgHif .hifCqTailAddr x) (leBytes 8 (rdi s pgHif .hifCqTail x))] ++
          (if irq = true ∨ true ∈ (sessAt s x).acked then [.msix (msgLink s) x] else []) := by
  have hacked := sessAt_recordAcked x irq s
  have hsent : (sessAt (recordAcked x irq s) x).sent = [] := by rw [hacked]
  have hsome : (sessAt (recordAcked x irq s) x).acked ≠ [] := by rw [hacked]; simp
  have hirq : (true ∈ (sessAt (recordAcked x irq s) x).acked) = (irq = true ∨ true ∈ (sessAt s x).acked) := by
    rw [hacked]
    simp [or_comm, eq_comm]
  have hout := tailShadow_outbox hsent hsome
  simp only [hirq] at hout
  rw [tailShadow_sess hsent hsome]
  exact ⟨hsent, rfl, hout⟩

end Go

/-- Which of the causes that end a run its record names (log entries 48, 78). -/
theorem runRecord_fields (r : Run) (refused : Bool) :
    (runRecord r refused).cstat = (if refused = true then 3 else if r.aborted = true then 2 else if r.notReplay.isSome = true then 1 else
      match r.first with
      | none => 0
      | some f => if f.stat = .fault then 1 else 2) ∧ (runRecord r refused).tag = r.tag ∧ (runRecord r refused).opcode = 4 := by
  unfold runRecord
  cases refused with
  | true => exact ⟨rfl, rfl, rfl⟩
  | false =>
    cases r.aborted with
    | true => cases r.first <;> exact ⟨rfl, rfl, rfl⟩
    | false =>
      cases r.notReplay with
      | some d => exact ⟨rfl, rfl, rfl⟩
      | none =>
        cases r.first with
        | none => exact ⟨rfl, rfl, rfl⟩
        | some f => by_cases hf : f.stat = .fault <;> simp [hf]

/-- Settles O22: a served and legal RUN is what its checks make of it; a run that is done frees its contexts and then ends, which its
completion follows; a GO of the last record brings the tail. -/
theorem runLifecycle : Obligations.RunLifecycle := by
  refine ⟨?started, ?refused, ?unpowered, ?complete, ?go, runRecord_fields⟩
  case started =>
    rintro x e b img _ p s _ _ hfetched hawake hstill a head n r hhead hblock hread hlegal hloaded hplaced hplaces hclean rfl hpass
    have hserved : RunServed x e b img p a n r s :=
      ⟨rfl, rfl, rfl, hfetched, hawake, hstill, hhead, hblock, hread, hlegal, hloaded, hplaced, hplaces, hclean⟩
    rw [hserved.places_eq] at hpass
    exact ⟨_, exec_run_started hserved hpass, runServed_recorded x e b img p s⟩
  case refused =>
    rintro x c e b img _ p s hs _ hfetched hawake hstill a head n r hhead hblock hread hlegal hloaded hplaced hplaces hclean rfl hrefused
    have hserved : RunServed x e b img p a n r s :=
      ⟨rfl, rfl, rfl, hfetched, hawake, hstill, hhead, hblock, hread, hlegal, hloaded, hplaced, hplaces, hclean⟩
    rw [hserved.places_eq] at hrefused
    exact ⟨_, exec_run_refused hserved hrefused, runServed_refused hs hfetched b img c⟩
  case unpowered =>
    intro x e s hs _ hfetched hp
    have htaken := takeEntry_upd x s
    have hdone := entryDone_completed hs htaken rfl x e { cstat := 4, result := 0x24 }
    rw [opcode_of_fetchedOp hfetched] at hdone
    refine ⟨_, exec_run_unpowered hfetched (.inl hp), hdone, ?_⟩
    exact ((Upd.mono rfl htaken).step rfl (entryDone_upd ..) : Upd [.outbox, .regRng, .sess] s _).same .runs rfl
  case complete =>
    intro n r s _ _ hrun hctxs _
    have hdone : RunDone n r s := ⟨hrun, fun id hid => by simp [runHolds, hctxs id hid], fun id hid => (hctxs id hid).2.2⟩
    have hkept : RingKept s (ctxsFreed n r s) := .of_upd (ctxsFreed_upd n r s) rfl
    have hsent := endRun_sent n r (r.ctxs.any fun id => (ctxAt s id).bindRefused) (ctxsFreed n r s)
    rw [hkept.epochNow] at hsent
    refine ⟨_, exec_runComplete hdone, endRun_run .., fun id hid => ?_, hsent.of_ringKept hkept⟩
    exact (endRun_ctx ..).trans (ctxsFreed_ctx hid (hdone.held id hid))
  case go =>
    intro x irq s _ _ hsent
    obtain ⟨hnone, hacked, hout⟩ := go_record_leaves x irq s
    have hupd : Upd [.outbox, .sess] s (tailShadow x (recordAcked x irq s)) := (Upd.mono rfl (putSess_upd ..)).step rfl (tailShadow_upd ..)
    exact ⟨_, exec_go_record hsent, hnone, hacked, hout, (Upd.mono rfl hupd : Upd [.sess, .outbox] s _).same⟩

end Sys2Proof.Machine
end

section
/-!
Serai objects as read after a store (R127), and what a taken descriptor's context keeps (R110, R459).
-/

namespace Sys2Proof.Machine

section Objects

variable {s t u : State}

theorem seraiAt_putSerai (k : Nat) (x : Serai) (s : State) (j : Nat) : seraiAt (putSerai k x s) j = if j = k then x else seraiAt s j :=
  SMap.get_set

theorem seraiAt_congr (h : t.serais = s.serais) (k : Nat) : seraiAt t k = seraiAt s k := by rw [seraiAt, h, ← seraiAt]

theorem flagAt_congr (h : t.serais = s.serais) (k i : Nat) : flagAt t k i = flagAt s k i := by rw [flagAt, seraiAt_congr h, ← flagAt]

theorem ctrAt_congr (h : t.serais = s.serais) (k i : Nat) : ctrAt t k i = ctrAt s k i := by rw [ctrAt, seraiAt_congr h, ← ctrAt]

theorem barAt_congr (h : t.serais = s.serais) (k i : Nat) : barAt t k i = barAt s k i := by rw [barAt, seraiAt_congr h, ← barAt]

/-- A key of one Serai's table, read after a write of the table of Serai `k`. -/
theorem get_putSerai {α : Type} [DecidableEq α] {d : Nat → α} {table : Serai → SMap α} {x : Serai} {k i : Nat} {v : α}
    (hx : table x = SMap.set d (table (seraiAt s k)) i v) (k' i' : Nat) :
    SMap.get d (table (seraiAt (putSerai k x s) k')) i' = if (k', i') = (k, i) then v else SMap.get d (table (seraiAt s k')) i' := by
  rw [seraiAt_putSerai]
  by_cases hk : k' = k
  · subst hk
    simp [hx, SMap.get_set]
  · simp [hk]

/-- What the write of Serai `k` keeps of it reads as before in every Serai. -/
theorem proj_putSerai {τ : Type} {f : Serai → τ} {x : Serai} {k : Nat} (hx : f x = f (seraiAt s k)) (j : Nat) :
    f (seraiAt (putSerai k x s) j) = f (seraiAt s j) := by
  rw [seraiAt_putSerai]
  split
  · next hj => rw [hx, hj]
  · rfl

variable {o : Nat × Nat}

theorem putFlag_objects {v : Bool} (hu : u.serais = s.serais) (ht : t.serais = (putFlag o.1 o.2 v u).serais) :
    (∀ k i, flagAt t k i = if (k, i) = o then v else flagAt s k i) ∧ ∀ k i, ctrAt t k i = ctrAt s k i ∧ barAt t k i = barAt s k i := by
  refine ⟨fun k i => ?_, fun k i => ⟨?_, ?_⟩⟩
  · rw [flagAt_congr ht, ← flagAt_congr hu]
    exact get_putSerai (table := Serai.flags) rfl k i
  · rw [ctrAt_congr ht, ← ctrAt_congr hu]
    exact proj_putSerai (f := fun x => SMap.get (fun _ => 0) x.ctrs i) (by rfl) k
  · rw [barAt_congr ht, ← barAt_congr hu]
    exact proj_putSerai (f := fun x => SMap.get (fun _ => ({} : Bar)) x.bars i) (by rfl) k

theorem putCtr_objects {v : Nat} (hu : u.serais = s.serais) (ht : t.serais = (putCtr o.1 o.2 v u).serais) :
    (∀ k i, ctrAt t k i = if (k, i) = o then v % 2 ^ 32 else ctrAt s k i) ∧ ∀ k i, flagAt t k i = flagAt s k i ∧ barAt t k i = barAt s k i := by
  refine ⟨fun k i => ?_, fun k i => ⟨?_, ?_⟩⟩
  · rw [ctrAt_congr ht, ← ctrAt_congr hu]
    exact get_putSerai (table := Serai.ctrs) rfl k i
  · rw [flagAt_congr ht, ← flagAt_congr hu]
    exact proj_putSerai (f := fun x => SMap.get (fun _ => false) x.flags i) (by rfl) k
  · rw [barAt_congr ht, ← barAt_congr hu]
    exact proj_putSerai (f := fun x => SMap.get (fun _ => ({} : Bar)) x.bars i) (by rfl) k

theorem putBar_objects {b : Bar} (hu : u.serais = s.serais) (ht : t.serais = (putBar o.1 o.2 b u).serais) :
    (∀ k i, barAt t k i = if (k, i) = o then b else barAt s k i) ∧ ∀ k i, flagAt t k i = flagAt s k i ∧ ctrAt t k i = ctrAt s k i := by
  refine ⟨fun k i => ?_, fun k i => ⟨?_, ?_⟩⟩
  · rw [barAt_congr ht, ← barAt_congr hu]
    exact get_putSerai (table := Serai.bars) rfl k i
  · rw [flagAt_congr ht, ← flagAt_congr hu]
    exact proj_putSerai (f := fun x => SMap.get (fun _ => false) x.flags i) (by rfl) k
  · rw [ctrAt_congr ht, ← ctrAt_congr hu]
    exact proj_putSerai (f := fun x => SMap.get (fun _ => 0) x.ctrs i) (by rfl) k

/-- The handle of a context depends on its run's grants alone (R129). -/
theorem objectOf_congr {id : Nat} (hrun : (ctxAt t id).run = (ctxAt s id).run) (hruns : t.runs = s.runs) (kind handle : Nat) :
    objectOf t id kind handle = objectOf s id kind handle := by
  rw [objectOf, hrun, runAt_congr hruns, ← objectOf]

end Objects

/-- Descriptor `k` of the queue stands among the started ones. -/
def Started (g c q k : Nat) (s : State) : Prop := ∃ w, w ∈ ((ctxAt s (ctxId g c)).q q).live ∧ w.k = k

section Started

variable {g c q k : Nat} {s t : State}

theorem Started.of_qs (h : Started g c q k s) (hqs : (ctxAt t (ctxId g c)).qs = (ctxAt s (ctxId g c)).qs) : Started g c q k t := by
  rwa [Started, Ctx.q, hqs, ← Ctx.q, ← Started]

theorem Started.of_ctxs (h : Started g c q k s) (hctxs : t.ctxs = s.ctxs) : Started g c q k t :=
  h.of_qs (congrArg Ctx.qs (ctxAt_congr hctxs _))

theorem noteSy_qs (g c k old : Nat) (s : State) : (ctxAt (noteSy g c k old s) (ctxId g c)).qs = (ctxAt s (ctxId g c)).qs := by
  rw [noteSy, ctxAt_putCtx_same]

theorem Started.noteSy (h : Started g c q k s) (n old : Nat) : Started g c q k (noteSy g c n old s) := h.of_qs (noteSy_qs ..)

theorem Started.endsOk (h : Started g c q k s) (exc detail : Nat) : Ended g c q k .ok (endWork g c q k .ok exc detail s) := by
  obtain ⟨w, hw, hk⟩ := h
  exact endWork_ok_ended hw hk ..

theorem Started.endsFault (h : Started g c q k s) (exc detail : Nat) : Ended g c q k .fault (endWork g c q k .fault exc detail s) := by
  obtain ⟨w, hw, hk⟩ := h
  exact (endWork_fault_ended hw hk ..).1

end Started

section Taken

variable {g c q : Nat} {w : Work} {u s : State} {p : List Byte → Bool}

theorem takeDesc_started (h : takeDesc s g c q p = some (w, u)) : Started g c q w.k u := ⟨w, takeDesc_live h, rfl⟩

/-- Taking a descriptor changes of its context the queues and the reserved slots alone. -/
theorem takeDesc_ctx (h : takeDesc s g c q p = some (w, u)) :
    ∃ slots qs, ctxAt u (ctxId g c) = { ctxAt s (ctxId g c) with slots := slots, qs := qs } := by
  obtain ⟨rfl, -⟩ | ⟨d, rfl, -⟩ := takeDesc_cases h
  · exact ⟨_, _, rfl⟩
  · exact ⟨_, _, (startDesc_ctx g c q s d).here⟩

theorem takeDesc_serais (h : takeDesc s g c q p = some (w, u)) : u.serais = s.serais := (takeDesc_parts h).same .serais rfl

theorem takeDesc_runs (h : takeDesc s g c q p = some (w, u)) : u.runs = s.runs := (takeDesc_parts h).same .runs rfl

theorem takeDesc_syApplied (h : takeDesc s g c q p = some (w, u)) (k : Nat) :
    syApplied (ctxAt u (ctxId g c)) k = syApplied (ctxAt s (ctxId g c)) k := by
  obtain ⟨_, _, hctx⟩ := takeDesc_ctx h
  rw [hctx]
  rfl

theorem takeDesc_objectOf (h : takeDesc s g c q p = some (w, u)) (kind handle : Nat) :
    objectOf u (ctxId g c) kind handle = objectOf s (ctxId g c) kind handle :=
  objectOf_congr (takeDesc_binding h).2.2 (takeDesc_runs h) kind handle

theorem takeDesc_descObject (h : takeDesc s g c q p = some (w, u)) (kind : Nat) (d : List Byte) :
    descObject u g c kind d = descObject s g c kind d := takeDesc_objectOf h ..

/-- A descriptor whose own condition does not hold is no candidate of its queue (R112). -/
theorem isCandidate_of_unmet {d : Desc} (hidle : ((ctxAt s (ctxId g c)).q q).idle = some d) (hcond : condMet s g c d = false) :
    isCandidate s g q c = false := by
  rw [isCandidate, hidle]
  simp [hcond]

/-- Where the loaded descriptor's condition does not hold and none has started, there is none to act on. -/
theorem takeDesc_of_unmet {d : Desc} (hidle : ((ctxAt s (ctxId g c)).q q).idle = some d) (hlive : ((ctxAt s (ctxId g c)).q q).live = [])
    (hcond : condMet s g c d = false) (p : List Byte → Bool) : takeDesc s g c q p = none :=
  takeDesc_of_waiting hlive (mayStart_of_waiting (isCandidate_of_unmet hidle hcond)) p

end Taken

section SyRun

variable {g c : Nat} {w : Work} {u s : State} {p : List Byte → Bool}

/-- A Q_SY descriptor that has not acted yet applies its operation, is noted in the journal and ends OK. -/
theorem syRun_taken (h : takeDesc s g c qSy p = some (w, u)) (hsy : syApplied (ctxAt s (ctxId g c)) w.k = false)
    (f : Work → State → Nat × State) :
    syRun g c p f s = endWork g c qSy w.k .ok 0 0 (noteSy g c w.k (f w u).1 (f w u).2) := by
  rw [syRun, h]
  dsimp only
  rw [if_neg (by simp [takeDesc_syApplied h, hsy])]

theorem syRun_untaken (h : takeDesc s g c qSy p = none) (f : Work → State → Nat × State) : syRun g c p f s = s := by rw [syRun, h]

theorem endWork_ok_serais (g c q k exc detail : Nat) (s : State) : (endWork g c q k .ok exc detail s).serais = s.serais :=
  (endWork_ok_upd ..).same .serais rfl

/-- What a noted and ended operation leaves of the Serais is what the operation itself left. -/
theorem noted_serais (g c q k old : Nat) (s : State) : (endWork g c q k .ok 0 0 (noteSy g c k old s)).serais = s.serais :=
  (endWork_ok_serais ..).trans ((noteSy_upd ..).same .serais rfl)

end SyRun

end Sys2Proof.Machine
end

section
/-!
O26: FLAG_OP and FLAG_WAIT (R130).
-/

namespace Sys2Proof.Machine

section Flags

variable {g c : Nat} {w : Work} {u s : State}

/-- A started descriptor stays started when a loaded one starts. -/
theorem Started.startDesc {q k : Nat} (h : Started g c q k s) (g' c' q' : Nat) (d : Desc) : Started g c q k (startDesc g' c' q' d s) := by
  obtain ⟨hhere, hother⟩ := startDesc_ctx g' c' q' s d
  by_cases hid : ctxId g c = ctxId g' c'
  · obtain ⟨w, hw, hk⟩ := h
    rw [hid] at hw
    refine ⟨w, ?_, hk⟩
    rw [hid, hhere]
    by_cases hq : q = q'
    · subst hq
      rw [Ctx.started, q_putQ_same]
      exact List.mem_append_left _ hw
    · rwa [Ctx.started, q_putQ_other hq]
  · exact h.of_qs (congrArg Ctx.qs (hother _ hid))

theorem Started.endWork {q k : Nat} (h : Started g c q k s) (g' c' q' n exc detail : Nat) :
    Started g c q k (endWork g' c' q' n .ok exc detail s) := by
  obtain ⟨hhere, hother⟩ := endWork_ok_ctx g' c' q' s n exc detail
  by_cases hid : ctxId g c = ctxId g' c'
  · obtain ⟨w, hw, hk⟩ := h
    rw [hid] at hw
    rw [Started, hid, hhere]
    by_cases hq : q = q'
    · subst hq
      rw [Ctx.ended, q_putQ_same]
      refine ⟨_, List.mem_map_of_mem hw, ?_⟩
      split <;> exact hk
    · rw [Ctx.ended, q_putQ_other hq]
      exact ⟨w, hw, hk⟩
  · exact h.of_qs (congrArg Ctx.qs (hother _ hid))

theorem Started.noteSy_any {q k : Nat} (h : Started g c q k s) (g' c' n old : Nat) : Started g c q k (Machine.noteSy g' c' n old s) := by
  by_cases hid : ctxId g c = ctxId g' c'
  · refine h.of_qs ?_
    rw [hid, noteSy_qs]
  · exact h.of_qs (congrArg Ctx.qs (ctxAt_putCtx_other hid ..))

/-- The release of the other waits on a flag leaves the descriptor that clears it among the started ones. -/
theorem Started.releaseWaits {q k : Nat} (h : Started g c q k s) (o : Nat × Nat) : Started g c q k (releaseWaits o s) := by
  refine foldl_keeps (Q := Started g c q k) h fun t e ht => ?_
  dsimp only
  split
  · exact ht
  · exact ((ht.startDesc ..).noteSy_any ..).endWork ..

/-- FLAG_OP stores the new value and ends OK. -/
theorem flagOp_taken {op : Nat} (v : Bool → Bool)
    (h : takeDesc s g c qSy (fun d => dType d = 0x20 && fieldAt d 0x14 1 0 = op) = some (w, u))
    (hsy : syApplied (ctxAt s (ctxId g c)) w.k = false) :
    Ended g c qSy w.k .ok (flagOp g c op v s) ∧
      (∀ k i, flagAt (flagOp g c op v s) k i = if (k, i) = descObject s g c 0 w.img then v (flagAt s k i) else flagAt s k i) ∧
      ∀ k i, ctrAt (flagOp g c op v s) k i = ctrAt s k i ∧ barAt (flagOp g c op v s) k i = barAt s k i := by
  have hflag (k i : Nat) : flagAt u k i = flagAt s k i := flagAt_congr (takeDesc_serais h) k i
  have hrun : flagOp g c op v s = endWork g c qSy w.k .ok 0 0 (noteSy g c w.k 0
      (putFlag (descObject s g c 0 w.img).1 (descObject s g c 0 w.img).2
        (v (flagAt s (descObject s g c 0 w.img).1 (descObject s g c 0 w.img).2)) u)) := by
    rw [flagOp, syRun_taken h hsy]
    dsimp only
    rw [takeDesc_descObject h, hflag]
  have hstarted : Started g c qSy w.k (putFlag (descObject s g c 0 w.img).1 (descObject s g c 0 w.img).2
      (v (flagAt s (descObject s g c 0 w.img).1 (descObject s g c 0 w.img).2)) u) :=
    (takeDesc_started h).of_ctxs ((putFlag_upd ..).same .ctxs rfl)
  obtain ⟨hflags, hrest⟩ := putFlag_objects (takeDesc_serais h) ((congrArg State.serais hrun).trans (noted_serais ..))
  refine ⟨hrun ▸ (hstarted.noteSy ..).endsOk .., fun k i => (hflags k i).trans ?_, hrest⟩
  split
  · next hki => rw [← hki]
  · rfl

/-- A FLAG_WAIT that has not acted yet ends OK; with CONSUME the flag is cleared. -/
theorem flagWait_taken (h : takeDesc s g c qSy (fun d => dType d = 0x21) = some (w, u))
    (hsy : syApplied (ctxAt s (ctxId g c)) w.k = false) :
    ∃ t, exec (.flagWait g c) s = .next t ∧ Ended g c qSy w.k .ok t ∧
      (∀ k i, flagAt t k i = if (k, i) = descObject s g c 0 w.img ∧ fieldAt w.img 0x14 1 1 = 1 then false else flagAt s k i) ∧
      ∀ k i, ctrAt t k i = ctrAt s k i ∧ barAt t k i = barAt s k i := by
  refine ⟨_, congrArg Host.Outcome.next (syRun_taken h hsy _), ?_⟩
  dsimp only
  rw [takeDesc_descObject h]
  by_cases hconsume : fieldAt w.img 0x14 1 1 = 1
  · rw [if_pos hconsume]
    set o := descObject s g c 0 w.img
    have hwaits : (releaseWaits o u).serais = s.serais := Eq.trans ((releaseWaits_upd o u).same .serais rfl) (takeDesc_serais h)
    have hstarted : Started g c qSy w.k (putFlag o.1 o.2 false (releaseWaits o u)) :=
      ((takeDesc_started h).releaseWaits o).of_ctxs ((putFlag_upd ..).same .ctxs rfl)
    obtain ⟨hflags, hrest⟩ := putFlag_objects hwaits (noted_serais g c qSy w.k 0 (putFlag o.1 o.2 false (releaseWaits o u)))
    refine ⟨(hstarted.noteSy ..).endsOk .., fun k i => (hflags k i).trans ?_, hrest⟩
    simp only [hconsume, and_true]
  · rw [if_neg hconsume]
    have hserais : (endWork g c qSy w.k .ok 0 0 (noteSy g c w.k 0 u)).serais = s.serais := (noted_serais ..).trans (takeDesc_serais h)
    refine ⟨((takeDesc_started h).noteSy ..).endsOk .., fun k i => (flagAt_congr hserais k i).trans ?_, fun k i =>
      ⟨ctrAt_congr hserais k i, barAt_congr hserais k i⟩⟩
    simp only [hconsume, and_false, if_false]

/-- A FLAG_WAIT's own condition is that its flag holds the awaited value, or that it has acted already (R130, R459). -/
theorem condMet_flagWait {d : Desc} (htype : dType d.img = 0x21) : condMet s g c d = (syApplied (ctxAt s (ctxId g c)) d.k ||
    decide ((flagAt s (descObject s g c 0 d.img).1 (descObject s g c 0 d.img).2 = true) = (fieldAt d.img 0x14 0 0 = 1))) := by
  rw [condMet]
  dsimp only
  rw [htype]
  rfl

end Flags

/-- Settles O26: a FLAG_OP and a FLAG_WAIT that may act are one store of a flag and the end of their work; an unmet FLAG_WAIT is no
candidate of its queue. -/
theorem flagDescriptors : Obligations.FlagDescriptors := by
  refine ⟨?set, ?clear, ?toggle, ?wait, ?unmet⟩
  case set =>
    intro g c w u s _ h hsy
    obtain ⟨hended, hobjects⟩ := flagOp_taken (fun _ => true) h hsy
    exact ⟨_, rfl, hended, exec_only (c := .flagSet g c) rfl, hobjects⟩
  case clear =>
    intro g c w u s _ h hsy
    obtain ⟨hended, hobjects⟩ := flagOp_taken (fun _ => false) h hsy
    exact ⟨_, rfl, hended, exec_only (c := .flagClear g c) rfl, hobjects⟩
  case toggle =>
    intro g c w u s _ h hsy
    obtain ⟨hended, hobjects⟩ := flagOp_taken (fun b => !b) h hsy
    exact ⟨_, rfl, hended, exec_only (c := .flagToggle g c) rfl, hobjects⟩
  case wait =>
    intro g c w u s _ h hsy
    obtain ⟨t, hexec, hended, hobjects⟩ := flagWait_taken h hsy
    exact ⟨t, hexec, hended, exec_only hexec, hobjects⟩
  case unmet =>
    intro g c d s _ hidle htype hlive hsy hflag
    have hcond : condMet s g c d = false := by
      rw [condMet_flagWait htype, hsy, Bool.false_or, decide_eq_false_iff_not, eq_iff_iff]
      rwa [ne_eq, Bool.eq_iff_iff, decide_eq_true_iff] at hflag
    exact congrArg Host.Outcome.next (syRun_untaken (takeDesc_of_unmet hidle hlive hcond _) _)

end Sys2Proof.Machine
end

section
/-!
O27: CTR_OP and CTR_WAIT (R131, R132).
-/

namespace Sys2Proof.Machine

section Counters

variable {g c : Nat} {w : Work} {u s : State}

theorem fieldAt_lt (d : List Byte) (off hi lo : Nat) : fieldAt d off hi lo < 2 ^ (hi + 1 - lo) := Nat.mod_lt _ (Nat.two_pow_pos _)

/-- CTR_OP stores its counter, is noted in the journal, returns the old value and ends OK. -/
theorem ctrOp_eq {op : Nat} (h : takeDesc s g c qSy (fun d => dType d = 0x22 && fieldAt d 0x14 0 0 = op) = some (w, u))
    (hsy : syApplied (ctxAt s (ctxId g c)) w.k = false) {o : Nat × Nat} (ho : descObject s g c 1 w.img = o) :
    ctrOp g c op s = endWork g c qSy w.k .ok 0 0 (retWrite g c w.img (ctrAt s o.1 o.2) (noteSy g c w.k (ctrAt s o.1 o.2)
      (putCtr o.1 o.2 (if op = 0 then ctrAt s o.1 o.2 + fieldAt w.img 0x18 31 0 else fieldAt w.img 0x18 31 0) u))) := by
  rw [ctrOp, h]
  dsimp only
  rw [if_neg (by simp [takeDesc_syApplied h, hsy]), takeDesc_descObject h, ho, ctrAt_congr (takeDesc_serais h)]

/-- CTR_OP stores the sum or the value, modulo 2^32, and ends OK. -/
theorem ctrOp_taken {op : Nat} (h : takeDesc s g c qSy (fun d => dType d = 0x22 && fieldAt d 0x14 0 0 = op) = some (w, u))
    (hsy : syApplied (ctxAt s (ctxId g c)) w.k = false) :
    Ended g c qSy w.k .ok (ctrOp g c op s) ∧
      (∀ k i, ctrAt (ctrOp g c op s) k i = if (k, i) = descObject s g c 1 w.img
        then (if op = 0 then ctrAt s k i + fieldAt w.img 0x18 31 0 else fieldAt w.img 0x18 31 0) % 2 ^ 32 else ctrAt s k i) ∧
      ∀ k i, flagAt (ctrOp g c op s) k i = flagAt s k i ∧ barAt (ctrOp g c op s) k i = barAt s k i := by
  generalize ho : descObject s g c 1 w.img = o
  rw [ctrOp_eq h hsy ho]
  set old := ctrAt s o.1 o.2
  set t := putCtr o.1 o.2 (if op = 0 then old + fieldAt w.img 0x18 31 0 else fieldAt w.img 0x18 31 0) u
  have hnoted : Started g c qSy w.k (noteSy g c w.k old t) := ((takeDesc_started h).of_ctxs ((putCtr_upd ..).same .ctxs rfl)).noteSy ..
  have hreturned : Upd _ (noteSy g c w.k old t) (retWrite g c w.img old (noteSy g c w.k old t)) := retWrite_upd ..
  have hserais : (endWork g c qSy w.k .ok 0 0 (retWrite g c w.img old (noteSy g c w.k old t))).serais = t.serais :=
    (endWork_ok_serais ..).trans (Eq.trans (hreturned.same .serais rfl) ((noteSy_upd ..).same .serais rfl))
  obtain ⟨hctrs, hrest⟩ := putCtr_objects (takeDesc_serais h) hserais
  refine ⟨(hnoted.of_ctxs (hreturned.same .ctxs rfl)).endsOk .., fun k i => (hctrs k i).trans ?_, hrest⟩
  split
  · next hki =>
    subst hki
    rfl
  · rfl

/-- CTR_WAIT ends OK; it applies nothing. -/
theorem ctrWait_taken (h : takeDesc s g c qSy (fun d => dType d = 0x23) = some (w, u)) :
    ∃ t, exec (.ctrWait g c) s = .next t ∧ Ended g c qSy w.k .ok t := by
  show ∃ t, execCtrWait g c s = .next t ∧ _
  rw [execCtrWait, syRun, h]
  dsimp only
  split
  · exact ⟨_, rfl, (takeDesc_started h).endsOk ..⟩
  · exact ⟨_, rfl, ((takeDesc_started h).noteSy ..).endsOk ..⟩

/-- CTR_WAIT's own condition compares its counter with TARGET (R131). -/
theorem condMet_ctrWait {d : Desc} (htype : dType d.img = 0x23) : condMet s g c d =
    ctrCond (fieldAt d.img 0x14 1 0) (fieldAt d.img 0x18 31 0) (ctrAt s (descObject s g c 1 d.img).1 (descObject s g c 1 d.img).2) := by
  rw [condMet]
  dsimp only
  rw [htype]
  rfl

/-- At or after is the serial order: a distance below 2^31 (R52, R131). -/
theorem epochAtOrBefore_iff {a b : Nat} (ha : a < 2 ^ 32) : epochAtOrBefore a b = decide ((b + 2 ^ 32 - a) % 2 ^ 32 < 2 ^ 31) := by
  rw [Bool.eq_iff_iff]
  simp only [epochAtOrBefore, epochBefore, serialDiff, Bool.or_eq_true, Bool.and_eq_true, decide_eq_true_eq, Nat.mod_eq_of_lt ha]
  omega

end Counters

/-- Settles O27: a CTR_OP that may act is one store of a counter and the end of its work; a CTR_WAIT only ends, and an unmet one is no
candidate of its queue. -/
theorem counterDescriptors : Obligations.CounterDescriptors := by
  refine ⟨?add, ?set, ?wait, ?unmet, ?conditions⟩
  case add =>
    intro g c w u s _ h hsy
    obtain ⟨hended, hobjects⟩ := ctrOp_taken h hsy
    exact ⟨_, rfl, hended, exec_only (c := .ctrAdd g c) rfl, hobjects⟩
  case set =>
    intro g c w u s _ h hsy
    obtain ⟨hended, hctrs, hrest⟩ := ctrOp_taken h hsy
    refine ⟨_, rfl, hended, exec_only (c := .ctrSet g c) rfl, fun k i => (hctrs k i).trans ?_, hrest⟩
    rw [if_neg (by decide : ¬(1 : Nat) = 0), Nat.mod_eq_of_lt (fieldAt_lt ..)]
  case wait =>
    intro g c w u s _ h
    obtain ⟨t, hexec, hended⟩ := ctrWait_taken h
    exact ⟨t, hexec, hended, exec_only hexec⟩
  case unmet =>
    intro g c d s _ hidle htype hlive hcond
    exact congrArg Host.Outcome.next (syRun_untaken (takeDesc_of_unmet hidle hlive ((condMet_ctrWait htype).trans hcond) _) _)
  case conditions =>
    intro target v ht _
    exact ⟨epochAtOrBefore_iff ht, rfl, by simp [ctrCond, bne, Bool.beq_eq_decide_eq]⟩

end Sys2Proof.Machine
end

section
/-!
O28: what an arrival and a completed generation do to the barrier, its counters and the contexts that wait (R133-R137).
-/

namespace Sys2Proof.Machine

/-- A map over the listed values maps every value, where the default stays. -/
theorem SMap.get_mapv {α : Type} [DecidableEq α] {c : α} {f : Nat → α → α} {m : SMap α} (hm : SMap.rising m) (hf : ∀ k, f k c = c) (k : Nat) :
    SMap.get (fun _ => c) (SMap.mapv c f m) k = f k (SMap.get (fun _ => c) m k) := by
  induction m with
  | nil => exact (hf k).symm
  | cons e m ih =>
    obtain ⟨i, w⟩ := e
    rw [SMap.rising, List.pairwise_cons] at hm
    obtain ⟨hbelow, hrising⟩ := hm
    have hrest := ih hrising
    unfold SMap.mapv at hrest ⊢
    by_cases hik : i = k
    · subst hik
      have hnone : SMap.get (fun _ => c) m i = c := SMap.get_below hbelow
      by_cases hw : f i w = c
      · simpa [SMap.get, hw, hnone, hf] using hrest
      · simp [SMap.get, hw]
    · by_cases hw : f i w = c
      · simpa [SMap.get, hw, hik] using hrest
      · simpa [SMap.get, hw, hik] using hrest

section Muster

variable {k i : Nat} {b : Bar} {s : State}

/-- The interrupt and the ledger record of a skewed muster change no object. -/
theorem skewRecord_serais (p n : Nat) (s : State) : (ledger p 0x81 n (raise p 17 s)).serais = s.serais :=
  Eq.trans ((ledger_upd ..).same .serais rfl) ((raise_upd ..).same .serais rfl)

/-- The muster step touches no flag and no barrier (R137). -/
theorem musterStep_kept (k i : Nat) (b : Bar) (s : State) (k' i' : Nat) :
    flagAt (musterStep k i b s).1 k' i' = flagAt s k' i' ∧ barAt (musterStep k i b s).1 k' i' = barAt s k' i' := by
  unfold musterStep
  dsimp only
  split
  · exact ⟨rfl, rfl⟩
  · split
    · obtain ⟨-, hlast⟩ := putCtr_objects (o := (k, b.cons)) (v := 0)
        (u := putCtr k b.prod ((ctrAt s k b.prod + 2 ^ 32 - ctrAt s k b.cons) % 2 ^ 32) s) rfl rfl
      obtain ⟨-, hfirst⟩ := putCtr_objects (o := (k, b.prod)) (v := (ctrAt s k b.prod + 2 ^ 32 - ctrAt s k b.cons) % 2 ^ 32) (u := s) rfl rfl
      exact ⟨(hlast k' i').1.trans (hfirst k' i').1, (hlast k' i').2.trans (hfirst k' i').2⟩
    · exact ⟨flagAt_congr (skewRecord_serais ..) k' i', barAt_congr (skewRecord_serais ..) k' i'⟩

theorem musterStep_off (h : b.muster = false) (k i : Nat) (s : State) : musterStep k i b s = (s, false) := by
  rw [musterStep, if_pos (by simp [h])]

/-- With C at or before P the difference goes to P, and C to 0. -/
theorem musterStep_even (hm : b.muster = true) (hne : b.prod ≠ b.cons) (h : epochAtOrBefore (ctrAt s k b.cons) (ctrAt s k b.prod) = true) :
    ctrAt (musterStep k i b s).1 k b.prod = (ctrAt s k b.prod + 2 ^ 32 - ctrAt s k b.cons) % 2 ^ 32 ∧
      ctrAt (musterStep k i b s).1 k b.cons = 0 ∧ (musterStep k i b s).2 = false := by
  have heven : musterStep k i b s =
      (putCtr k b.cons 0 (putCtr k b.prod ((ctrAt s k b.prod + 2 ^ 32 - ctrAt s k b.cons) % 2 ^ 32) s), false) := by
    rw [musterStep, if_neg (by simp [hm])]
    dsimp only
    rw [if_pos h]
  obtain ⟨hlast, -⟩ := putCtr_objects (o := (k, b.cons)) (v := 0)
    (u := putCtr k b.prod ((ctrAt s k b.prod + 2 ^ 32 - ctrAt s k b.cons) % 2 ^ 32) s) rfl rfl
  obtain ⟨hfirst, -⟩ := putCtr_objects (o := (k, b.prod)) (v := (ctrAt s k b.prod + 2 ^ 32 - ctrAt s k b.cons) % 2 ^ 32) (u := s) rfl rfl
  rw [heven]
  refine ⟨?_, ?_, rfl⟩
  · rw [hlast, if_neg (by simp [hne]), hfirst, if_pos rfl, Nat.mod_mod]
  · exact (hlast ..).trans (if_pos rfl)

/-- Otherwise the muster is skewed and both counters stay. -/
theorem musterStep_skewed (hm : b.muster = true) (h : epochAtOrBefore (ctrAt s k b.cons) (ctrAt s k b.prod) = false) :
    (∀ k' i', ctrAt (musterStep k i b s).1 k' i' = ctrAt s k' i') ∧ (musterStep k i b s).2 = true := by
  have hskewed : musterStep k i b s =
      (ledger (seraiPage k) 0x81 (seraiDetail i 2 0 0 0 (ctrAt s k b.prod) (ctrAt s k b.cons)) (raise (seraiPage k) 17 s), true) := by
    rw [musterStep, if_neg (by simp [hm])]
    dsimp only
    rw [if_neg (by simp [h])]
  rw [hskewed]
  exact ⟨ctrAt_congr (skewRecord_serais ..), rfl⟩

end Muster

section Completes

variable {k i : Nat} {m : Bool} {s : State}

/-- A barrier whose generation has completed (R133). -/
def Bar.passed (b : Bar) : Bar := { b with count := 0, gen := (b.gen + 1) % 256, arr := [] }

/-- The state in which a completed generation is stored: after the muster step, where one runs. -/
def mustered (k i : Nat) (m : Bool) (s : State) : State := (if m then musterStep k i (barAt s k i) s else (s, false)).1

theorem mustered_on (k i : Nat) (s : State) : mustered k i true s = (musterStep k i (barAt s k i) s).1 := by
  rw [mustered, if_pos rfl]

theorem mustered_off (k i : Nat) (s : State) : mustered k i false s = s := by
  rw [mustered, if_neg Bool.false_ne_true]

theorem mustered_ctxs (k i : Nat) (m : Bool) (s : State) : (mustered k i m s).ctxs = s.ctxs := by
  cases m with
  | true =>
    rw [mustered_on]
    exact (musterStep_upd k i (barAt s k i) s).fst.same .ctxs rfl
  | false => rw [mustered_off]

/-- The contexts of a Serai's partition, or all for the device Serai, hear of a completed generation. -/
def heard (k i gen : Nat) (skew : Bool) (s : State) : State :=
  { s with ctxs := s.ctxs.mapv {} fun id c => if seraiServes k id then c.genDone (k = 4) i gen skew else c }

/-- The context of descriptor `e.2` ends it FAULT and halts. -/
def skewHalt (t : State) (e : Nat × Nat) : State := haltCtx (e.1 / 4) (e.1 % 4) (noteFirst (e.1 / 4) (e.1 % 4) qSy e.2 .fault 0x23 t)

/-- A completed generation stores its barrier, is heard by the contexts, and halts those of a skewed muster. -/
theorem barComplete_eq (k i : Nat) (m : Bool) (s : State) : ∃ skew hit, barComplete k i m s =
    List.foldl skewHalt (heard k i (barAt s k i).gen skew (putBar k i (barAt s k i).passed (mustered k i m s))) hit := by
  unfold barComplete mustered heard Bar.passed skewHalt
  exact ⟨_, _, rfl⟩

theorem skewHalt_upd (t : State) (e : Nat × Nat) : Upd [.ctxs, .runs, .spads] t (skewHalt t e) :=
  (Upd.mono rfl (noteFirst_upd ..)).step rfl (haltCtx_upd ..)

theorem barComplete_serais (k i : Nat) (m : Bool) (s : State) :
    (barComplete k i m s).serais = (putBar k i (barAt s k i).passed (mustered k i m s)).serais := by
  obtain ⟨skew, hit, heq⟩ := barComplete_eq k i m s
  rw [heq]
  refine foldl_keeps (Q := fun t : State => t.serais = (putBar k i (barAt s k i).passed (mustered k i m s)).serais) rfl fun t e ht => ?_
  exact Eq.trans ((skewHalt_upd t e).same .serais rfl) ht

/-- A completed generation changes its barrier, and what the muster step takes from the counters, and no other object. -/
theorem barComplete_objects {t : State} (ht : t.serais = (barComplete k i m s).serais) :
    (∀ k' i', barAt t k' i' = if (k', i') = (k, i) then (barAt s k i).passed else barAt s k' i') ∧
      (∀ k' i', flagAt t k' i' = flagAt s k' i') ∧
      (m = false ∨ (barAt s k i).muster = false → ∀ k' i', ctrAt t k' i' = ctrAt s k' i') := by
  have hmuster (k' i' : Nat) : flagAt (mustered k i m s) k' i' = flagAt s k' i' ∧ barAt (mustered k i m s) k' i' = barAt s k' i' := by
    cases m with
    | true =>
      rw [mustered_on]
      exact musterStep_kept ..
    | false =>
      rw [mustered_off]
      exact ⟨rfl, rfl⟩
  obtain ⟨hbars, hrest⟩ := putBar_objects (o := (k, i)) (s := mustered k i m s) rfl (ht.trans (barComplete_serais k i m s))
  refine ⟨fun k' i' => ?_, fun k' i' => (hrest k' i').1.trans (hmuster k' i').1, fun hno k' i' => (hrest k' i').2.trans ?_⟩
  · rw [hbars, (hmuster k' i').2]
  · cases m with
    | true => rw [mustered_on, musterStep_off (hno.resolve_left (by decide))]
    | false => rw [mustered_off]

end Completes

section Hears

variable {g c q n : Nat} {s : State}

/-- What a context hears of a completed generation leaves its started descriptors among the started ones. -/
theorem mem_live_genDone {x : Ctx} {w : Work} (h : w ∈ (x.q q).live) (device : Bool) (idx gen : Nat) (skew : Bool) :
    w ∈ ((x.genDone device idx gen skew).q q).live := by
  unfold Ctx.genDone
  extract_lets hit y
  split
  · split
    · by_cases hq : q = qSy
      · subst hq
        rw [q_putQ_same]
        exact List.mem_append_left _ h
      · rw [q_putQ_other hq]
        exact h
    · exact h
  · exact h

theorem Started.heard (h : Started g c q n s) (hs : SMap.rising s.ctxs) (k i gen : Nat) (skew : Bool) :
    Started g c q n (heard k i gen skew s) := by
  obtain ⟨w, hw, hn⟩ := h
  refine ⟨w, ?_, hn⟩
  have hctx : ctxAt (Machine.heard k i gen skew s) (ctxId g c) =
      if seraiServes k (ctxId g c) then (ctxAt s (ctxId g c)).genDone (k = 4) i gen skew else ctxAt s (ctxId g c) :=
    SMap.get_mapv (c := ({} : Ctx)) (f := fun id (x : Ctx) => if seraiServes k id then x.genDone (k = 4) i gen skew else x) hs (fun _ => ite_self _) _
  rw [hctx]
  split
  · exact mem_live_genDone hw ..
  · exact hw

theorem Started.skewHalt (h : Started g c q n s) (e : Nat × Nat) : Started g c q n (skewHalt s e) := by
  have hnoted : Started g c q n (noteFirst (e.1 / 4) (e.1 % 4) qSy e.2 .fault 0x23 s) := h.of_ctxs ((noteFirst_upd ..).same .ctxs rfl)
  refine hnoted.of_qs ?_
  obtain hsame | hhalted := ctxAt_haltCtx (e.1 / 4) (e.1 % 4) (ctxId g c) (noteFirst (e.1 / 4) (e.1 % 4) qSy e.2 .fault 0x23 s)
  · exact congrArg Ctx.qs hsame
  · exact (congrArg Ctx.qs hhalted).trans (Ctx.halted_qs _)

theorem Started.barComplete (h : Started g c q n s) (hs : s.Ok) (k i : Nat) (m : Bool) : Started g c q n (barComplete k i m s) := by
  obtain ⟨skew, hit, heq⟩ := barComplete_eq k i m s
  rw [heq]
  refine foldl_keeps (Q := Started g c q n) (Started.heard (h.of_ctxs ?_) ?_ ..) fun t e ht => ht.skewHalt e
  · exact mustered_ctxs ..
  · rw [show (putBar k i (barAt s k i).passed (mustered k i m s)).ctxs = s.ctxs from mustered_ctxs ..]
    exact hs.ctxs.1

end Hears

section Arrives

variable {k i : Nat} {s : State}

/-- A barrier with one more arrival (R134). -/
def Bar.joined (b : Bar) (who : Option (Nat × Nat)) : Bar := { b with count := b.count + 1, arr := b.arr ++ [who] }

theorem barArrive_counts (h : (barAt s k i).count + 1 ≠ (barAt s k i).n) (who : Option (Nat × Nat)) :
    barArrive k i who s = putBar k i ((barAt s k i).joined who) s := if_neg h

theorem barArrive_completes (h : (barAt s k i).count + 1 = (barAt s k i).n) (who : Option (Nat × Nat)) :
    barArrive k i who s = barComplete k i true (putBar k i ((barAt s k i).joined who) s) := if_pos h

theorem barAt_putBar_same (k i : Nat) (b : Bar) (s : State) : barAt (putBar k i b s) k i = b :=
  ((putBar_objects (o := (k, i)) (u := s) rfl rfl).1 k i).trans (if_pos rfl)

/-- The last arrival completes the generation: the barrier passes as if the arrival had not been counted. -/
theorem barArrive_completes_objects (h : (barAt s k i).count + 1 = (barAt s k i).n) {who : Option (Nat × Nat)} {t : State}
    (ht : t.serais = (barArrive k i who s).serais) :
    (∀ k' i', barAt t k' i' = if (k', i') = (k, i) then (barAt s k i).passed else barAt s k' i') ∧
      (∀ k' i', flagAt t k' i' = flagAt s k' i') ∧ ((barAt s k i).muster = false → ∀ k' i', ctrAt t k' i' = ctrAt s k' i') := by
  rw [barArrive_completes h] at ht
  obtain ⟨hbars, hflags, hctrs⟩ := barComplete_objects ht
  obtain ⟨hput, hrest⟩ := putBar_objects (o := (k, i)) (b := (barAt s k i).joined who) (u := s) rfl rfl
  rw [barAt_putBar_same] at hbars hctrs
  refine ⟨fun k' i' => (hbars k' i').trans ?_, fun k' i' => (hflags k' i').trans (hrest k' i').1, fun hm k' i' =>
    (hctrs (.inr hm) k' i').trans (hrest k' i').2⟩
  split
  · rfl
  · next hne => exact (hput k' i').trans (if_neg hne)

end Arrives

end Sys2Proof.Machine
end

section
/-!
O28: BAR_INIT, BAR_ARRIVE and BAR_WAIT (R134, R135, R137).
-/

namespace Sys2Proof.Machine

section Faults

variable {g c q k : Nat} {s : State}

theorem ended_ctx (g c q k : Nat) (st : DStat) (exc detail : Nat) (s : State) :
    CtxBecomes (ctxId g c) ((ctxAt s (ctxId g c)).ended q k st exc detail) s
      (mapWork g c q k (fun w => { w with stat := some st, exc := exc, detail := detail, began := true }) (engineFree g q c k s)) := by
  have hctxs : (engineFree g q c k s).ctxs = s.ctxs := (engineFree_upd ..).same .ctxs rfl
  have hput := (CtxBecomes.put (ctxId g c) ((ctxAt (engineFree g q c k s) (ctxId g c)).ended q k st exc detail)
    (engineFree g q c k s)).after hctxs
  rw [ctxAt_congr hctxs] at hput
  rwa [mapWork, ctxAt_congr hctxs]

/-- The context of a descriptor that ends FAULT: its work has ended and it halts (R121). -/
theorem endWork_fault_ctx (g c q k exc detail : Nat) (s : State) :
    CtxBecomes (ctxId g c) ((ctxAt s (ctxId g c)).ended q k .fault exc detail).halted s (endWork g c q k .fault exc detail s) := by
  unfold endWork
  extract_lets t
  rw [if_pos (by decide)]
  have hended : CtxBecomes (ctxId g c) ((ctxAt s (ctxId g c)).ended q k .fault exc detail) s t := ended_ctx ..
  set u := noteFirst g c q k .fault detail (sbRelease g q c (absWb (ctxAt t (ctxId g c)) q k) (fun _ => true) t)
  have hut : Upd [.outbox, .regIrq, .regErr, .regSpd, .regFlt, .spads, .spad, .spadChk, .ceWins, .runs] t u :=
    (Upd.mono rfl (sbRelease_upd ..)).step rfl (noteFirst_upd ..)
  have hhalt := haltCtx_ctx g c u
  rw [ctxAt_congr (hut.same .ctxs rfl), hended.here] at hhalt
  exact (hended.before (hut.same .ctxs rfl)).trans hhalt

theorem Ctx.halted_gens (x : Ctx) : x.halted.gens = x.gens := by
  unfold Ctx.halted
  split <;> rfl

theorem endWork_serais (g c q k : Nat) (st : DStat) (exc detail : Nat) (s : State) : (endWork g c q k st exc detail s).serais = s.serais :=
  (endWork_upd ..).same .serais rfl

end Faults

section Init

variable {g c : Nat} {w : Work} {u s : State}

/-- The barrier as a BAR_INIT opens it: PROD and CONS are handles in its own scope (R134, R137). -/
def openedBar (s : State) (g c : Nat) (d : List Byte) : Bar :=
  { n := fieldAt d 0x14 12 0, muster := fieldAt d 0x14 16 16 = 1
    prod := (objectOf s (ctxId g c) 1 (fieldAt d 0x10 12 12 * 2 ^ 12 + fieldAt d 0x18 11 0)).2
    cons := (objectOf s (ctxId g c) 1 (fieldAt d 0x10 12 12 * 2 ^ 12 + fieldAt d 0x18 27 16)).2 }

theorem barInit_free {k i n prod cons : Nat} {muster : Bool} (h : (barAt s k i).n = 0 ∨ (barAt s k i).count = 0) :
    barInit k i n muster prod cons s = some (putBar k i { n := n, muster := muster, prod := prod, cons := cons } s) :=
  if_neg (by omega)

theorem barInit_busy {k i n prod cons : Nat} {muster : Bool} (hn : (barAt s k i).n ≠ 0) (hcount : (barAt s k i).count ≠ 0) :
    barInit k i n muster prod cons s = none :=
  if_pos (by omega)

theorem exec_barInit_free (h : takeDesc s g c qSy (fun d => dType d = 0x24) = some (w, u)) (hsy : syApplied (ctxAt s (ctxId g c)) w.k = false)
    {o : Nat × Nat} (ho : o = descObject s g c 2 w.img) (hfree : (barAt s o.1 o.2).n = 0 ∨ (barAt s o.1 o.2).count = 0) :
    exec (.barInit g c) s = .next (endWork g c qSy w.k .ok 0 0 (noteSy g c w.k 0 (putBar o.1 o.2 (openedBar s g c w.img) u))) := by
  have hsame : barAt u o.1 o.2 = barAt s o.1 o.2 := barAt_congr (takeDesc_serais h) ..
  show execBarInit g c s = _
  rw [execBarInit, h]
  dsimp only
  rw [if_neg (by simp [takeDesc_syApplied h, hsy]), takeDesc_descObject h, ← ho, barInit_free (hsame ▸ hfree), takeDesc_objectOf h,
    takeDesc_objectOf h]
  rfl

theorem exec_barInit_busy (h : takeDesc s g c qSy (fun d => dType d = 0x24) = some (w, u)) (hsy : syApplied (ctxAt s (ctxId g c)) w.k = false)
    {o : Nat × Nat} (ho : o = descObject s g c 2 w.img) (hn : (barAt s o.1 o.2).n ≠ 0) (hcount : (barAt s o.1 o.2).count ≠ 0) :
    exec (.barInit g c) s = .next (endWork g c qSy w.k .fault 0 0x22 u) := by
  have hsame : barAt u o.1 o.2 = barAt s o.1 o.2 := barAt_congr (takeDesc_serais h) ..
  show execBarInit g c s = _
  rw [execBarInit, h]
  dsimp only
  rw [if_neg (by simp [takeDesc_syApplied h, hsy]), takeDesc_descObject h, ← ho, barInit_busy (hsame ▸ hn) (hsame ▸ hcount)]

end Init

section Arrive

variable {g c k : Nat} {o : Nat × Nat} {w : Work} {u s : State}

/-- The context with the arrival of its descriptor `k` noted in the journal and recorded in the barrier's current generation. -/
def arrivalNoted (g c k : Nat) (o : Nat × Nat) (s : State) : State :=
  putCtx (ctxId g c) { ctxAt s (ctxId g c) with
    gens := ((ctxAt s (ctxId g c)).gens.filter fun x => x.k != k) ++
      [{ k := k, device := o.1 = 4, idx := o.2, gen := (barAt s o.1 o.2).gen }], sy := some (k, 0) } s

theorem recordArrival_eq (g c k : Nat) (o : Nat × Nat) (s : State) : recordArrival g c k o s =
    barArrive o.1 o.2 (some (ctxId g c, absWb (ctxAt s (ctxId g c)) qSy k)) (arrivalNoted g c k o s) := by
  unfold recordArrival arrivalNoted
  rfl

theorem arrivalNoted_qs (g c k : Nat) (o : Nat × Nat) (s : State) :
    (ctxAt (arrivalNoted g c k o s) (ctxId g c)).qs = (ctxAt s (ctxId g c)).qs := by
  rw [arrivalNoted, ctxAt_putCtx_same]

theorem arrivalNoted_serais (g c k : Nat) (o : Nat × Nat) (s : State) : (arrivalNoted g c k o s).serais = s.serais :=
  (putCtx_upd ..).same .serais rfl

theorem Started.recordArrival {q n : Nat} (h : Started g c q n s) (hs : s.Ok) (k : Nat) (o : Nat × Nat) :
    Started g c q n (recordArrival g c k o s) := by
  have hnoted : Started g c q n (arrivalNoted g c k o s) := h.of_qs (arrivalNoted_qs ..)
  have hok : (arrivalNoted g c k o s).Ok := (putCtx_upd ..).ok hs
  rw [recordArrival_eq]
  by_cases hlast : (barAt (arrivalNoted g c k o s) o.1 o.2).count + 1 = (barAt (arrivalNoted g c k o s) o.1 o.2).n
  · rw [barArrive_completes hlast]
    exact Started.barComplete (hnoted.of_ctxs ((putBar_upd ..).same .ctxs rfl)) ((putBar_upd ..).ok hok) ..
  · rw [barArrive_counts hlast]
    exact hnoted.of_ctxs ((putBar_upd ..).same .ctxs rfl)

/-- An arrival that is not the last is counted. -/
theorem recordArrival_counts (h : (barAt s o.1 o.2).count + 1 ≠ (barAt s o.1 o.2).n) :
    recordArrival g c k o s = putBar o.1 o.2 ((barAt s o.1 o.2).joined (some (ctxId g c, absWb (ctxAt s (ctxId g c)) qSy k)))
      (arrivalNoted g c k o s) := by
  have hsame : barAt (arrivalNoted g c k o s) o.1 o.2 = barAt s o.1 o.2 := barAt_congr (arrivalNoted_serais ..) ..
  rw [recordArrival_eq, barArrive_counts (hsame.symm ▸ h), hsame]

theorem recordArrival_completes (h : (barAt s o.1 o.2).count + 1 = (barAt s o.1 o.2).n) {t : State}
    (ht : t.serais = (recordArrival g c k o s).serais) :
    (∀ k' i', barAt t k' i' = if (k', i') = o then (barAt s o.1 o.2).passed else barAt s k' i') ∧
      (∀ k' i', flagAt t k' i' = flagAt s k' i') ∧ ((barAt s o.1 o.2).muster = false → ∀ k' i', ctrAt t k' i' = ctrAt s k' i') := by
  have hsame (k' i' : Nat) : barAt (arrivalNoted g c k o s) k' i' = barAt s k' i' := barAt_congr (arrivalNoted_serais ..) ..
  rw [recordArrival_eq] at ht
  obtain ⟨hbars, hflags, hctrs⟩ := barArrive_completes_objects ((hsame o.1 o.2).symm ▸ h) ht
  rw [hsame] at hbars hctrs
  refine ⟨fun k' i' => (hbars k' i').trans (by rw [hsame]), fun k' i' => (hflags k' i').trans (flagAt_congr (arrivalNoted_serais ..) k' i'),
    fun hm k' i' => (hctrs hm k' i').trans (ctrAt_congr (arrivalNoted_serais ..) k' i')⟩

/-- A BAR_ARRIVE that has no completed generation recorded and has not acted yet, at its barrier `o`. -/
structure ArrivesAt (g c : Nat) (o : Nat × Nat) (w : Work) (u s : State) : Prop where
  taken : takeDesc s g c qSy (fun d => dType d = 0x25) = some (w, u)
  fresh : syApplied (ctxAt s (ctxId g c)) w.k = false
  object : o = descObject s g c 2 w.img
  unrecorded : fieldAt w.img 0x14 0 0 = 1 → ∀ e, e ∈ (ctxAt s (ctxId g c)).gens → e.k ≠ w.k

theorem exec_barArrive (h : ArrivesAt g c o w u s) : exec (.barArrive g c) s = .next
    (if (barAt s o.1 o.2).n = 0 then endWork g c qSy w.k .fault 0 0x21 u
     else if fieldAt w.img 0x14 0 0 = 1 then recordArrival g c w.k o s else endWork g c qSy w.k .ok 0 0 (recordArrival g c w.k o u)) := by
  obtain ⟨htaken, hsy, rfl, hnone⟩ := h
  have hpast : ((ctxAt s (ctxId g c)).gens.find? fun x => x.k = w.k && x.done && fieldAt w.img 0x14 0 0 = 1).isSome = false := by
    rw [Option.isSome_eq_false_iff, Option.isNone_iff_eq_none, List.find?_eq_none]
    intro e he hsome
    simp only [Bool.and_eq_true, decide_eq_true_eq] at hsome
    obtain ⟨⟨hk, -⟩, hwait⟩ := hsome
    exact hnone hwait e he hk
  show execBarArrive g c s = _
  rw [execBarArrive, htaken]
  dsimp only
  rw [if_neg (by simp [hpast]), if_neg (by simp [takeDesc_syApplied htaken, hsy])]
  split
  · rfl
  · split <;> rfl

/-- At an UNINIT barrier an arrival is a FAULT. -/
theorem barArrive_uninit (h : ArrivesAt g c o w u s) (hn : (barAt s o.1 o.2).n = 0) :
    ∃ t, exec (.barArrive g c) s = .next t ∧ Ended g c qSy w.k .fault t ∧ t.serais = s.serais := by
  have hexec := exec_barArrive h
  rw [if_pos hn] at hexec
  exact ⟨_, hexec, (takeDesc_started h.taken).endsFault .., (endWork_serais ..).trans (takeDesc_serais h.taken)⟩

variable (hs : s.Ok) (h : ArrivesAt g c o w u s) (hwait : fieldAt w.img 0x14 0 0 = 0) (hn : (barAt s o.1 o.2).n ≠ 0)

include hs h hwait hn

/-- With WAIT = 0 the descriptor ends at its arrival. -/
theorem barArrive_ends : exec (.barArrive g c) s = .next (endWork g c qSy w.k .ok 0 0 (recordArrival g c w.k o u)) ∧
    Ended g c qSy w.k .ok (endWork g c qSy w.k .ok 0 0 (recordArrival g c w.k o u)) := by
  have hexec := exec_barArrive h
  rw [if_neg hn, if_neg (by omega)] at hexec
  exact ⟨hexec, ((takeDesc_started h.taken).recordArrival ((takeDesc_parts h.taken).ok hs) ..).endsOk ..⟩

theorem barArrive_counted (hmore : (barAt s o.1 o.2).count + 1 ≠ (barAt s o.1 o.2).n) :
    ∃ t, exec (.barArrive g c) s = .next t ∧ Ended g c qSy w.k .ok t ∧
      (∀ k i, barAt t k i = if (k, i) = o
        then (barAt s o.1 o.2).joined (some (ctxId g c, absWb (ctxAt s (ctxId g c)) qSy w.k)) else barAt s k i) ∧
      ∀ k i, flagAt t k i = flagAt s k i ∧ ctrAt t k i = ctrAt s k i := by
  obtain ⟨hexec, hended⟩ := barArrive_ends hs h hwait hn
  have hsame : barAt u o.1 o.2 = barAt s o.1 o.2 := barAt_congr (takeDesc_serais h.taken) ..
  obtain ⟨_, _, hctx⟩ := takeDesc_ctx h.taken
  have hwb : absWb (ctxAt u (ctxId g c)) qSy w.k = absWb (ctxAt s (ctxId g c)) qSy w.k := by
    rw [hctx]
    rfl
  have hcounts := recordArrival_counts (g := g) (c := c) (k := w.k) (hsame.symm ▸ hmore)
  rw [hsame, hwb] at hcounts
  exact ⟨_, hexec, hended, putBar_objects ((arrivalNoted_serais ..).trans (takeDesc_serais h.taken))
    ((endWork_ok_serais ..).trans (congrArg State.serais hcounts))⟩

theorem barArrive_completed (hlast : (barAt s o.1 o.2).count + 1 = (barAt s o.1 o.2).n) :
    ∃ t, exec (.barArrive g c) s = .next t ∧ Ended g c qSy w.k .ok t ∧
      (∀ k i, barAt t k i = if (k, i) = o then (barAt s o.1 o.2).passed else barAt s k i) ∧ (∀ k i, flagAt t k i = flagAt s k i) ∧
      ((barAt s o.1 o.2).muster = false → ∀ k i, ctrAt t k i = ctrAt s k i) := by
  obtain ⟨hexec, hended⟩ := barArrive_ends hs h hwait hn
  have hserais := takeDesc_serais h.taken
  have hsame (k i : Nat) : barAt u k i = barAt s k i := barAt_congr hserais k i
  obtain ⟨hbars, hflags, hctrs⟩ :=
    recordArrival_completes ((hsame o.1 o.2).symm ▸ hlast) (endWork_ok_serais g c qSy w.k 0 0 (recordArrival g c w.k o u))
  rw [hsame] at hbars hctrs
  exact ⟨_, hexec, hended, fun k i => (hbars k i).trans (by rw [hsame]), fun k i => (hflags k i).trans (flagAt_congr hserais k i),
    fun hm k i => (hctrs hm k i).trans (ctrAt_congr hserais k i)⟩

end Arrive

section Split

variable {g c : Nat} {o : Nat × Nat} {w : Work} {u s : State}

/-- With WAIT = 1 an arrival that is not the last is recorded and counted, and its descriptor stays loaded. -/
theorem barArrive_waits (h : ArrivesAt g c o w u s) (hwait : fieldAt w.img 0x14 0 0 = 1) (hn : (barAt s o.1 o.2).n ≠ 0)
    (hmore : (barAt s o.1 o.2).count + 1 ≠ (barAt s o.1 o.2).n) :
    ∃ t, exec (.barArrive g c) s = .next t ∧ (ctxAt t (ctxId g c)).q qSy = (ctxAt s (ctxId g c)).q qSy ∧
      (barAt t o.1 o.2).count = (barAt s o.1 o.2).count + 1 ∧ Only [.ctxs, .serais] s t := by
  have hexec := exec_barArrive h
  rw [if_neg hn, if_pos hwait, recordArrival_counts hmore] at hexec
  have hnoted : Upd [.ctxs, .serais] s (arrivalNoted g c w.k o s) := Upd.mono rfl (putCtx_upd ..)
  refine ⟨_, hexec, ?_, ?_, (hnoted.step rfl (putBar_upd ..)).same⟩
  · rw [Ctx.q, ctxAt_congr ((putBar_upd ..).same .ctxs rfl), arrivalNoted_qs, ← Ctx.q]
  · rw [barAt_putBar_same]
    rfl

/-- The record of descriptor `k`'s arrival is dropped. -/
def genDropped (g c k : Nat) (s : State) : State :=
  putCtx (ctxId g c) { ctxAt s (ctxId g c) with gens := (ctxAt s (ctxId g c)).gens.filter fun x => x.k != k } s

theorem genOf_filter (l : List SplitGen) (k : Nat) : (l.filter fun x => x.k != k).find? (fun x => x.k = k) = none := by
  simp

theorem genDropped_ctx (g c k : Nat) (s : State) : ctxAt (genDropped g c k s) (ctxId g c) =
    { ctxAt s (ctxId g c) with gens := (ctxAt s (ctxId g c)).gens.filter fun x => x.k != k } := ctxAt_putCtx_same ..

theorem exec_barWait {e : SplitGen} (h : takeDesc s g c qSy (fun d => dType d = 0x26) = some (w, u))
    (hgen : (ctxAt s (ctxId g c)).genOf (fieldAt w.img 0x14 15 0) = some e) : exec (.barWait g c) s = .next
      (endWork g c qSy w.k (if e.skew = true then .fault else .ok) 0 (if e.skew = true then 0x23 else 0)
        (genDropped g c (fieldAt w.img 0x14 15 0) u)) := by
  have hsame : (ctxAt u (ctxId g c)).genOf (fieldAt w.img 0x14 15 0) = some e := by
    obtain ⟨_, _, hctx⟩ := takeDesc_ctx h
    rw [hctx]
    exact hgen
  show execBarWait g c s = _
  rw [execBarWait, h]
  dsimp only
  rw [hsame]
  cases hskew : e.skew with
  | true => simp [hskew, genDropped]
  | false => simp [hskew, genDropped]

theorem genDropped_qs (g c k : Nat) (s : State) : (ctxAt (genDropped g c k s) (ctxId g c)).qs = (ctxAt s (ctxId g c)).qs := by
  rw [genDropped_ctx]

/-- BAR_WAIT ends as the muster of the recorded generation ended, and drops the record. -/
theorem barWait_ends {e : SplitGen} (h : takeDesc s g c qSy (fun d => dType d = 0x26) = some (w, u))
    (hgen : (ctxAt s (ctxId g c)).genOf (fieldAt w.img 0x14 15 0) = some e) :
    ∃ t, exec (.barWait g c) s = .next t ∧ Ended g c qSy w.k (if e.skew = true then .fault else .ok) t ∧ t.serais = s.serais ∧
      (ctxAt t (ctxId g c)).genOf (fieldAt w.img 0x14 15 0) = none := by
  have hctx := genDropped_ctx g c (fieldAt w.img 0x14 15 0) u
  have hstarted : Started g c qSy w.k (genDropped g c (fieldAt w.img 0x14 15 0) u) := (takeDesc_started h).of_qs (genDropped_qs ..)
  refine ⟨_, exec_barWait h hgen, ?_, ?_, ?_⟩
  · split
    · exact hstarted.endsFault ..
    · exact hstarted.endsOk ..
  · exact (endWork_serais ..).trans (Eq.trans ((putCtx_upd ..).same .serais rfl) (takeDesc_serais h))
  · rw [Ctx.genOf]
    split
    · rw [(endWork_fault_ctx ..).here, Ctx.halted_gens, hctx]
      exact genOf_filter ..
    · rw [(endWork_ok_ctx ..).here, hctx]
      exact genOf_filter ..

end Split

/-- Settles O28: a barrier's operations store the one barrier, an arrival that completes the generation after the muster step; the
descriptor's end, with a halt or without, changes no object. -/
theorem barrierDescriptors : Obligations.BarrierDescriptors := by
  refine ⟨?init, ?arrive, ?split, ?wait, ?muster⟩
  case init =>
    intro g c o w u s _ h hsy ho
    refine ⟨fun hfree => ?_, fun hn hcount => ?_⟩
    · have hexec := exec_barInit_free h hsy ho hfree
      obtain ⟨hbars, hrest⟩ := putBar_objects (takeDesc_serais h) (noted_serais g c qSy w.k 0 (putBar o.1 o.2 (openedBar s g c w.img) u))
      have hhere := (hbars o.1 o.2).trans (if_pos rfl)
      have hstarted : Started g c qSy w.k (putBar o.1 o.2 (openedBar s g c w.img) u) :=
        (takeDesc_started h).of_ctxs ((putBar_upd ..).same .ctxs rfl)
      refine ⟨_, hexec, (hstarted.noteSy ..).endsOk .., ?_, ?_, ?_, ?_, ?_, ?_, fun k i hne => (hbars k i).trans (if_neg hne), hrest⟩
      all_goals
        rw [hhere]
        rfl
    · exact ⟨_, exec_barInit_busy h hsy ho hn hcount, (takeDesc_started h).endsFault .., (endWork_serais ..).trans (takeDesc_serais h)⟩
  case arrive =>
    intro g c o w u s hs h hsy ho hwait
    have harrives : ArrivesAt g c o w u s := ⟨h, hsy, ho, fun hone => absurd hone (by omega)⟩
    refine ⟨barArrive_uninit harrives, fun hn hmore => ?_, fun hlast => ?_⟩
    · obtain ⟨t, hexec, hended, hbars, hrest⟩ := barArrive_counted hs harrives hwait hn hmore
      exact ⟨t, hexec, hended, (hbars o.1 o.2).trans (if_pos rfl), fun k i hne => (hbars k i).trans (if_neg hne), hrest⟩
    · obtain ⟨t, hexec, hended, hbars, hflags, hctrs⟩ := barArrive_completed hs harrives hwait (by omega) hlast
      exact ⟨t, hexec, hended, (hbars o.1 o.2).trans (if_pos rfl), fun k i hne => (hbars k i).trans (if_neg hne), hflags, hctrs⟩
  case split =>
    intro g c o w u s _ h hsy ho hwait hnone hn hmore
    exact barArrive_waits ⟨h, hsy, ho, fun _ => hnone⟩ hwait hn hmore
  case wait =>
    intro g c e w u s _ h hgen _
    exact barWait_ends h hgen
  case muster =>
    intro k i b s hm hne _ _
    by_cases heven : epochAtOrBefore (ctrAt s k b.cons) (ctrAt s k b.prod) = true
    · obtain ⟨hprod, hcons, hskew⟩ := musterStep_even (i := i) hm hne heven
      exact ⟨hprod.trans (if_pos heven).symm, hcons.trans (if_pos heven).symm, by rw [hskew, heven, Bool.not_true]⟩
    · rw [if_neg heven, if_neg heven]
      obtain ⟨hctrs, hskew⟩ := musterStep_skewed (i := i) hm (Bool.eq_false_iff.mpr heven)
      exact ⟨hctrs .., hctrs .., by rw [hskew, Bool.eq_false_iff.mpr heven, Bool.not_false]⟩

end Sys2Proof.Machine
end

section
/-!
O29: REMOTE_SIGNAL and HOST_NOTIFY (R138, R403, R442).
-/

namespace Sys2Proof.Machine

section Remote

variable {g c peer p : Nat} {w : Work} {u s : State}

/-- The header of a SIGNAL frame without named data (R394): the operation on the peer's object, and the signal's own stream and waybill. -/
def signalHdr (s : State) (g c peer wb : Nat) (d : List Byte) : Hdr :=
  { type := 0x20, dst := peer, dpart := fieldAt d 0x10 14 12, src := selfAddr s, core := g, ctx := c, q := qSy, wb := wb,
    dva := fieldAt d 0x14 11 0 + fieldAt d 0x14 12 12 * 2 ^ 12 + fieldAt d 0x14 14 13 * 2 ^ 13 + fieldAt d 0x18 31 0 * 2 ^ 32 }

theorem sendSignal_plain (p g c peer wb : Nat) (d : List Byte) (s : State) :
    sendSignal p g c d peer qSy wb none s = sendFrame p 1 (hdrBytes (signalHdr s g c peer wb d)) s := by
  unfold sendSignal
  simp only [Option.isSome_none, Bool.false_eq_true, if_false, Nat.add_zero, Option.getD_none]
  rfl

/-- A REMOTE_SIGNAL that names no data and has not acted yet. -/
structure SignalsPlain (g c : Nat) (w : Work) (u s : State) : Prop where
  taken : takeDesc s g c qSy (fun d => dType d = 0x27) = some (w, u)
  fresh : syApplied (ctxAt s (ctxId g c)) w.k = false
  plain : signalData (ctxAt s (ctxId g c)) w.img = none

theorem exec_remoteSignal_routed (h : SignalsPlain g c w u s) (hpeer : peer = fieldAt w.img 0x10 11 0) (hroute : route u g c qSy peer = some p) :
    exec (.remoteSignal g c) s = .next (endWork g c qSy w.k .ok 0 0 (noteSy g c w.k 0
      (sendFrame p 1 (hdrBytes (signalHdr s g c peer (absWb (ctxAt s (ctxId g c)) qSy w.k) w.img)) u))) := by
  obtain ⟨htaken, hsy, hplain⟩ := h
  subst hpeer
  have hself : selfAddr u = selfAddr s := (takeDesc_parts htaken).same .regEvl rfl _ _ _ rfl
  have hhdr : signalHdr u g c (fieldAt w.img 0x10 11 0) (absWb (ctxAt s (ctxId g c)) qSy w.k) w.img =
      signalHdr s g c (fieldAt w.img 0x10 11 0) (absWb (ctxAt s (ctxId g c)) qSy w.k) w.img := by
    rw [signalHdr, hself, ← signalHdr]
  show execRemoteSignal g c s = _
  rw [execRemoteSignal]
  dsimp only
  rw [htaken]
  dsimp only
  rw [if_neg (by simp [hsy]), hplain]
  dsimp only
  rw [hroute]
  dsimp only
  rw [sendSignal_plain, hhdr]

theorem exec_remoteSignal_unrouted (h : SignalsPlain g c w u s) (hroute : route u g c qSy (fieldAt w.img 0x10 11 0) = none) :
    exec (.remoteSignal g c) s =
      .next (endWork g c qSy w.k .fault 0 0x0D (remoteFail (8 * corePart g) 0x22 (fieldAt w.img 0x10 11 0) 0 u)) := by
  obtain ⟨htaken, hsy, hplain⟩ := h
  show execRemoteSignal g c s = _
  rw [execRemoteSignal]
  dsimp only
  rw [htaken]
  dsimp only
  rw [if_neg (by simp [hsy]), hplain]
  dsimp only
  rw [hroute]

/-- A frame goes to the end of its own queue, and every other queue stays. -/
theorem sendFrame_queues {f : List Byte} {t : State} (hu : u.ports = s.ports) (ht : t.ports = (sendFrame p 1 f u).ports) :
    (portAt t p).tx.getD 1 [] = (portAt s p).tx.getD 1 [] ++ [f] ∧ (∀ v, v ≠ 1 → (portAt t p).tx.getD v [] = (portAt s p).tx.getD v []) ∧
      ∀ o, o ≠ p → portAt t o = portAt s o := by
  refine ⟨?_, fun v hv => ?_, fun o ho => ?_⟩
  · rw [portAt_of_ports ht, sendFrame_tx, portAt_of_ports hu]
  · rw [portAt_of_ports ht, portAt_sendFrame, if_pos rfl, setAt_getD, if_neg hv, portAt_of_ports hu]
  · rw [portAt_of_ports ht, portAt_sendFrame, if_neg ho, portAt_of_ports hu]

/-- The frame of a routed signal stands in its port's signal queue, and the descriptor has ended OK. -/
theorem remoteSignal_routed (h : SignalsPlain g c w u s) (hpeer : peer = fieldAt w.img 0x10 11 0) (hroute : route u g c qSy peer = some p) :
    ∃ t, exec (.remoteSignal g c) s = .next t ∧ Ended g c qSy w.k .ok t ∧ (portAt t p).tx.getD 1 [] =
        (portAt s p).tx.getD 1 [] ++ [hdrBytes (signalHdr s g c peer (absWb (ctxAt s (ctxId g c)) qSy w.k) w.img)] ∧
      (∀ v, v ≠ 1 → (portAt t p).tx.getD v [] = (portAt s p).tx.getD v []) ∧ ∀ o, o ≠ p → portAt t o = portAt s o := by
  set f := hdrBytes (signalHdr s g c peer (absWb (ctxAt s (ctxId g c)) qSy w.k) w.img)
  have hsent : Started g c qSy w.k (sendFrame p 1 f u) := (takeDesc_started h.taken).of_ctxs ((sendFrame_upd ..).same .ctxs rfl)
  refine ⟨_, exec_remoteSignal_routed h hpeer hroute, (hsent.noteSy ..).endsOk .., sendFrame_queues ((takeDesc_parts h.taken).same .ports rfl) ?_⟩
  exact Eq.trans ((endWork_ok_upd ..).same .ports rfl) ((noteSy_upd ..).same .ports rfl)

theorem remoteSignal_unrouted (h : SignalsPlain g c w u s) (hroute : route u g c qSy (fieldAt w.img 0x10 11 0) = none) :
    ∃ t, exec (.remoteSignal g c) s = .next t ∧ Ended g c qSy w.k .fault t ∧ t.ports = s.ports := by
  have hfailed : Started g c qSy w.k (remoteFail (8 * corePart g) 0x22 (fieldAt w.img 0x10 11 0) 0 u) :=
    (takeDesc_started h.taken).of_ctxs ((remoteFail_upd ..).same .ctxs rfl)
  refine ⟨_, exec_remoteSignal_unrouted h hroute, hfailed.endsFault .., ?_⟩
  exact Eq.trans ((endWork_upd ..).same .ports rfl) (Eq.trans ((remoteFail_upd ..).same .ports rfl) ((takeDesc_parts h.taken).same .ports rfl))

end Remote

section Notify

variable {g c q x i n : Nat} {w : Work} {u s : State} {p : List Byte → Bool}

/-- A start reserves at most a completion slot of its session (R430). -/
theorem startDesc_sess (g c q : Nat) (d : Desc) (s : State) (x : Nat) :
    ∃ r, sessAt (startDesc g c q d s) x = { sessAt s x with reserved := r } := by
  unfold startDesc
  extract_lets y e passed e1 e2 slot s1 s2 z v a
  have hlater : Upd [.engines, .regSpd, .spads] s1 s2 := (Upd.mono rfl (putEngine_upd ..)).step rfl (sbRegister_upd ..)
  have hsess : sessAt (putCtx (ctxId g c) (a.putQ q { a.q q with idle := none, live := (a.q q).live ++ [v] }) s2) x = sessAt s1 x :=
    (sessAt_congr ((putCtx_upd ..).same .sess rfl) x).trans (sessAt_congr (hlater.same .sess rfl) x)
  rw [hsess]
  unfold s1
  split
  · rw [cqReserve]
    by_cases hx : x = ((runAt s y.run).getD {}).sess
    · subst hx
      exact ⟨_, sessAt_putSess_same ..⟩
    · exact ⟨(sessAt s x).reserved, SMap.get_set_other hx⟩
  · exact ⟨_, rfl⟩

theorem takeDesc_sess (h : takeDesc s g c q p = some (w, u)) (x : Nat) : ∃ r, sessAt u x = { sessAt s x with reserved := r } := by
  obtain ⟨rfl, -⟩ | ⟨d, rfl, -⟩ := takeDesc_cases h
  · exact ⟨_, rfl⟩
  · exact startDesc_sess g c q d s x

theorem RingKept.sessPosted (h : RingKept s u) (x : Nat) : sessPosted u x = sessPosted s x := by
  have hstate (l : Nat) : rdi u pgHif .hifLinkState l = rdi s pgHif .hifLinkState l := h.hif _ _ _ rfl
  rw [Machine.sessPosted, h.sessLink, hstate, ← Machine.sessPosted]

/-- Host flag `i` of session `x` is written with its new count, and the descriptor is noted in the journal (R442). -/
def flagNotified (g c k x i n : Nat) (bytes : List Byte) (u : State) : State :=
  noteSy g c k 0 (putSess x { sessAt u x with flagCount := SMap.set (fun _ => 0) (sessAt u x).flagCount i n }
    (sessWrite x (rdi u pgHif .hifFlagBase x + 8 * i) bytes u))

theorem flagNotified_upd (g c k x i n : Nat) (bytes : List Byte) (u : State) :
    Upd [.outbox, .ctxs, .sess] u (flagNotified g c k x i n bytes u) :=
  ((Upd.mono rfl (sessWrite_upd ..)).step rfl (putSess_upd ..)).step rfl (noteSy_upd ..)

theorem flagNotified_sess (g c k x i n : Nat) (bytes : List Byte) (u : State) : sessAt (flagNotified g c k x i n bytes u) x =
    { sessAt u x with flagCount := SMap.set (fun _ => 0) (sessAt u x).flagCount i n } := sessAt_putSess_same ..

theorem flagNotified_sent (g c k x i n : Nat) (bytes : List Byte) (u : State) :
    Sent (.hostWrite (sessLink u x) x (rdi u pgHif .hifFlagBase x + 8 * i) bytes) u (flagNotified g c k x i n bytes u) :=
  sent_last (List.prefix_refl _) _

theorem Started.flagNotified {k' : Nat} (h : Started g c q k' u) (k x i n : Nat) (bytes : List Byte) :
    Started g c q k' (flagNotified g c k x i n bytes u) := Started.noteSy h ..

/-- With posted writes the notification is done; otherwise its descriptor waits for the GO of its write (R431, R442). -/
def notifyEnd (g c k x : Nat) (posted irq : Bool) (v : State) : State :=
  if posted then endWork g c qSy k .ok 0 0 (if irq then sendVec x v else v)
  else mapWork g c qSy k (fun w => { w with began := true }) (putSess x { sessAt v x with sent := (sessAt v x).sent ++ [.flag irq g c k] } v)

theorem exec_hostNotify (h : takeDesc s g c qSy (fun d => dType d = 0x28) = some (w, u)) (hsy : syApplied (ctxAt s (ctxId g c)) w.k = false)
    (hx : x = ((runAt s (ctxAt s (ctxId g c)).run).getD {}).sess) (hi : i = fieldAt w.img 0x10 5 0)
    (hn : n = (SMap.get (fun _ => 0) (sessAt s x).flagCount i + 1) % 2 ^ 32) :
    exec (.hostNotify g c) s = .next (notifyEnd g c w.k x (sessPosted s x) (bit (rdi s pgHif .hifFlagIrq x) i = 1)
      (flagNotified g c w.k x i n (leBytes 4 (fieldAt w.img 0x14 31 0) ++ leBytes 4 n) u)) := by
  have hrun : runAt u (ctxAt u (ctxId g c)).run = runAt s (ctxAt s (ctxId g c)).run := by
    rw [(takeDesc_binding h).2.2, runAt_congr (takeDesc_runs h)]
  have hirq : rdi u pgHif .hifFlagIrq x = rdi s pgHif .hifFlagIrq x := (takeDesc_parts h).same .regSes rfl _ _ _ rfl
  have hcount : (SMap.get (fun _ => 0) (sessAt u x).flagCount i + 1) % 2 ^ 32 = n := by
    obtain ⟨_, hsess⟩ := takeDesc_sess h x
    rw [hsess, hn]
  have hposted (bytes : List Byte) : sessPosted (flagNotified g c w.k x i n bytes u) x = sessPosted s x :=
    ((RingKept.of_upd (takeDesc_parts h) rfl).trans (.of_upd (flagNotified_upd g c w.k x i n bytes u) rfl)).sessPosted x
  show execHostNotify g c s = _
  rw [execHostNotify, h]
  dsimp only
  rw [if_neg (by simp [takeDesc_syApplied h, hsy]), hrun, ← hx, ← hi, hcount, hirq]
  show (if sessPosted (flagNotified g c w.k x i n _ u) x then _ else _) = _
  rw [hposted, notifyEnd]
  simp only [decide_eq_true_eq]
  split <;> rfl

end Notify

section NotifyLeaves

variable {g c x i n : Nat} {w : Work} {u s : State}

/-- What a HOST_NOTIFY leaves: the flag's count, the write to the host, and the descriptor's end or its wait for the GO. -/
theorem hostNotify_leaves (h : takeDesc s g c qSy (fun d => dType d = 0x28) = some (w, u)) (irq : Bool) (bytes : List Byte) (t : State)
    (ht : t = notifyEnd g c w.k x (sessPosted s x) irq (flagNotified g c w.k x i n bytes u)) :
    SMap.get (fun _ => 0) (sessAt t x).flagCount i = n ∧
      Sent (.hostWrite (sessLink s x) x (rdi s pgHif .hifFlagBase x + 8 * i) bytes) s t ∧
      (sessPosted s x = true → Ended g c qSy w.k .ok t) ∧
      (sessPosted s x = false → (sessAt t x).sent = (sessAt s x).sent ++ [.flag irq g c w.k]) := by
  have hkept : RingKept s u := .of_upd (takeDesc_parts h) rfl
  have hbase : rdi u pgHif .hifFlagBase x = rdi s pgHif .hifFlagBase x := (takeDesc_parts h).same .regSes rfl _ _ _ rfl
  obtain ⟨_, hsess⟩ := takeDesc_sess h x
  set v := flagNotified g c w.k x i n bytes u with hv
  have hcount : SMap.get (fun _ => 0) (sessAt v x).flagCount i = n := by
    rw [hv, flagNotified_sess]
    exact SMap.get_set_same
  have hwritten : Sent (.hostWrite (sessLink s x) x (rdi s pgHif .hifFlagBase x + 8 * i) bytes) s v := by
    have hsent := flagNotified_sent g c w.k x i n bytes u
    rw [hkept.sessLink, hbase] at hsent
    exact hsent.earlier hkept.out
  cases hposted : sessPosted s x with
  | true =>
    set y := if irq then sendVec x v else v with hy
    have hvec : Upd [.outbox] v y := Upd.ite (fun _ => sendVec_upd ..) fun _ => Upd.refl v
    have hend : t = endWork g c qSy w.k .ok 0 0 y := by rw [ht, hposted, notifyEnd, if_pos rfl]
    have htail : Upd [.outbox, .ctxs, .engines] v t := hend ▸ (Upd.mono rfl hvec).step rfl (endWork_ok_upd ..)
    have hstarted : Started g c qSy w.k y := ((takeDesc_started h).flagNotified ..).of_ctxs (hvec.same .ctxs rfl)
    exact ⟨(sessAt_congr (htail.same .sess rfl) x) ▸ hcount, hwritten.later htail.out, fun _ => hend ▸ hstarted.endsOk ..,
      fun hno => absurd hno (by decide)⟩
  | false =>
    set y := putSess x { sessAt v x with sent := (sessAt v x).sent ++ [.flag irq g c w.k] } v with hy
    have hend : t = mapWork g c qSy w.k (fun w => { w with began := true }) y := by rw [ht, hposted, notifyEnd, if_neg Bool.false_ne_true]
    have hput : sessAt t x = { sessAt v x with sent := (sessAt v x).sent ++ [.flag irq g c w.k] } := by
      rw [hend, sessAt_congr ((mapWork_upd ..).same .sess rfl), hy, sessAt_putSess_same]
    have htail : Upd [.sess, .ctxs] v t := hend ▸ (Upd.mono rfl (putSess_upd ..)).step rfl (mapWork_upd ..)
    refine ⟨by rw [hput]; exact hcount, hwritten.later htail.out, fun hno => absurd hno (by decide), fun _ => ?_⟩
    rw [hput, hv, flagNotified_sess, hsess]

/-- The tail shadow leaves the session's writes that wait for a GO (R431). -/
theorem tailShadow_sent (x : Nat) (s : State) : (sessAt (tailShadow x s) x).sent = (sessAt s x).sent := by
  have htold : (sessAt (tailTold x s) x).sent = (sessAt s x).sent := by
    have hput : sessAt (tailTold x s) x = { sessAt s x with acked := [] } := sessAt_putSess_same ..
    rw [hput]
  unfold tailShadow
  dsimp only
  split
  · rfl
  · split
    · exact htold
    · exact htold

/-- The GO of a flag's write ends its HOST_NOTIFY, after the vector where the flag asks for one (R442). -/
theorem go_flag {k : Nat} {irq : Bool} (hsent : (sessAt s x).sent = [.flag irq g c k]) (hw : w ∈ ((ctxAt s (ctxId g c)).q qSy).live)
    (hk : w.k = k) (hworks : w.works = true) (htype : dType w.img = 0x28) :
    ∃ t, exec (.go x) s = .next t ∧ Ended g c qSy k .ok t ∧ (sessAt t x).sent = [] ∧ (irq = true → Sent (.msix (msgLink s) x) s t) := by
  set v := tailShadow x (putSess x { sessAt s x with sent := [] } s) with hv
  set y := if irq then sendVec x v else v with hy
  have hshadow : Upd [.outbox, .sess] s v := (Upd.mono rfl (putSess_upd ..)).step rfl (tailShadow_upd ..)
  have hvec : Upd [.outbox] v y := Upd.ite (fun _ => sendVec_upd ..) fun _ => Upd.refl v
  have hctxs : y.ctxs = s.ctxs := Eq.trans (hvec.same .ctxs rfl) (hshadow.same .ctxs rfl)
  have hstarted : Started g c qSy k y := Started.of_ctxs ⟨w, hw, hk⟩ hctxs
  have hany : (((ctxAt y (ctxId g c)).q qSy).live.any fun w => w.k = k && w.works && dType w.img = 0x28) = true := by
    rw [ctxAt_congr hctxs, List.any_eq_true]
    exact ⟨w, hw, by simp [hk, hworks, htype]⟩
  have hexec : exec (.go x) s = .next (endWork g c qSy k .ok 0 0 y) := by
    show execGo x s = _
    rw [execGo, hsent]
    dsimp only
    rw [← hv, notifyDone, ← hy, if_pos hany]
  refine ⟨_, hexec, hstarted.endsOk .., ?_, fun hirq => ?_⟩
  · have hsess : sessAt (endWork g c qSy k .ok 0 0 y) x = sessAt v x :=
      (sessAt_congr ((endWork_ok_upd ..).same .sess rfl) x).trans (sessAt_congr (hvec.same .sess rfl) x)
    rw [hsess, hv, tailShadow_sent, sessAt_putSess_same]
  · have hstate (l : Nat) : rdi v pgHif .hifLinkState l = rdi s pgHif .hifLinkState l := hshadow.same .regHif rfl _ _ _ rfl
    have hlink : msgLink v = msgLink s := by simp only [msgLink, hstate]
    have hraised : Sent (.msix (msgLink s) x) s y := by
      rw [hy, if_pos hirq, sendVec, hlink]
      exact sent_last hshadow.out _
    exact hraised.later (endWork_ok_upd ..).out

end NotifyLeaves

end Sys2Proof.Machine
end

section
/-!
O29: held signals (R144, R146, R406).
-/

namespace Sys2Proof.Machine

section Held

variable {sy pos : Nat} {h : Held} {s : State}

theorem dropHeld_held (k i j : Nat) (s : State) :
    (seraiAt (dropHeld k i s) j).held = if j = k then (seraiAt s j).held.eraseIdx i else (seraiAt s j).held := by
  rw [dropHeld, seraiAt_putSerai]
  split
  · next hj => rw [hj]
  · rfl

/-- A held signal taken out leaves every object as it is. -/
theorem dropHeld_objects (k i k' i' : Nat) (s : State) :
    flagAt (dropHeld k i s) k' i' = flagAt s k' i' ∧ ctrAt (dropHeld k i s) k' i' = ctrAt s k' i' ∧
      barAt (dropHeld k i s) k' i' = barAt s k' i' :=
  ⟨proj_putSerai (f := fun x => SMap.get (fun _ => false) x.flags i') (by rfl) k',
    proj_putSerai (f := fun x => SMap.get (fun _ => 0) x.ctrs i') (by rfl) k',
    proj_putSerai (f := fun x => SMap.get (fun _ => ({} : Bar)) x.bars i') (by rfl) k'⟩

/-- The signal that is held at `pos` may leave: it has not failed, and nothing holds it back any more (R406). -/
structure HeldDue (sy pos : Nat) (h : Held) (s : State) : Prop where
  here : (seraiAt s sy).held[pos]? = some h
  whole : heldFailed s h = false
  ready : heldReady s ((seraiAt s sy).held.take pos) h = true

theorem exec_heldSignal_due (hdue : HeldDue sy pos h s) :
    exec (.heldSignalApply sy pos) s = .next (applyRemote sy h (dropHeld sy pos s)) := by
  obtain ⟨here, whole, ready⟩ := hdue
  show execHeldSignalApply sy pos s = _
  rw [execHeldSignalApply, here]
  dsimp only
  rw [if_neg (by simp [whole]), if_pos ready]

theorem applyRemote_inside (hwin : inRemoteWindow s sy h.counter h.idx = true) (hcap : h.idx < seraiCap sy (if h.counter then 1 else 0)) :
    applyRemote sy h s = remoteOp sy h.counter h.idx h.op h.operand s := by
  rw [applyRemote, if_pos (by simp only [hwin, hcap, decide_true, Bool.and_self])]

theorem applyRemote_outside (hwin : inRemoteWindow s sy h.counter h.idx = false) :
    applyRemote sy h s = rejectRemote sy h.counter h.idx h.src s := by
  rw [applyRemote, if_neg (by simp [hwin])]

/-- A remote operation changes the one object that it names (R138). -/
theorem remoteOp_objects (k : Nat) (counter : Bool) (i op v : Nat) (s : State) :
    (∀ k' i', flagAt (remoteOp k counter i op v s) k' i' =
        if counter = false ∧ (k', i') = (k, i) then decide (op = 0) else flagAt s k' i') ∧
      (∀ k' i', ctrAt (remoteOp k counter i op v s) k' i' =
        if counter = true ∧ (k', i') = (k, i) then (if op = 0 then ctrAt s k' i' + v else v) % 2 ^ 32 else ctrAt s k' i') ∧
      ∀ k' i', barAt (remoteOp k counter i op v s) k' i' = barAt s k' i' := by
  cases counter with
  | false =>
    obtain ⟨hflag, hrest⟩ := putFlag_objects (s := s) (o := (k, i)) (v := decide (op = 0)) rfl rfl
    exact ⟨fun k' i' => (hflag k' i').trans (by simp), fun k' i' => (hrest k' i').1.trans (by simp), fun k' i' => (hrest k' i').2⟩
  | true =>
    obtain ⟨hctr, hrest⟩ := putCtr_objects (s := s) (o := (k, i)) (v := if op = 0 then ctrAt s k i + v else v) rfl rfl
    refine ⟨fun k' i' => (hrest k' i').1.trans (by simp), fun k' i' => (hctr k' i').trans ?_, fun k' i' => (hrest k' i').2⟩
    by_cases hobj : (k', i') = (k, i)
    · obtain ⟨rfl, rfl⟩ := Prod.mk.injEq .. ▸ hobj
      simp
    · simp [hobj]

theorem remoteOp_held (k : Nat) (counter : Bool) (i op v : Nat) (s : State) (j : Nat) :
    (seraiAt (remoteOp k counter i op v s) j).held = (seraiAt s j).held := by
  cases counter with
  | false => exact proj_putSerai (f := Serai.held) (by rfl) j
  | true => exact proj_putSerai (f := Serai.held) (by rfl) j

theorem heldSignal_applied (hdue : HeldDue sy pos h s) (hwin : inRemoteWindow s sy h.counter h.idx = true)
    (hcap : h.idx < seraiCap sy (if h.counter then 1 else 0)) :
    ∃ t, exec (.heldSignalApply sy pos) s = .next t ∧ (seraiAt t sy).held = (seraiAt s sy).held.eraseIdx pos ∧
      (∀ k i, flagAt t k i = if h.counter = false ∧ (k, i) = (sy, h.idx) then decide (h.op = 0) else flagAt s k i) ∧
      (∀ k i, ctrAt t k i = if h.counter = true ∧ (k, i) = (sy, h.idx)
        then (if h.op = 0 then ctrAt s k i + h.operand else h.operand) % 2 ^ 32 else ctrAt s k i) ∧
      (∀ k i, barAt t k i = barAt s k i) ∧ Only [.serais] s t := by
  have hexec := exec_heldSignal_due hdue
  rw [applyRemote_inside (s := dropHeld sy pos s) hwin hcap] at hexec
  obtain ⟨hflag, hctr, hbar⟩ := remoteOp_objects sy h.counter h.idx h.op h.operand (dropHeld sy pos s)
  refine ⟨_, hexec, ?_, fun k i => ?_, fun k i => ?_, fun k i => ?_, ((dropHeld_upd ..).step rfl (remoteOp_upd ..)).same⟩
  · rw [remoteOp_held, dropHeld_held, if_pos rfl]
  · rw [hflag, (dropHeld_objects ..).1]
  · rw [hctr, (dropHeld_objects ..).2.1]
  · rw [hbar, (dropHeld_objects ..).2.2]

/-- A signal outside the remote windows is counted, and changes no object (R146). -/
theorem rejectRemote_counts (k : Nat) (counter : Bool) (i src : Nat) (s : State) :
    rd (rejectRemote k counter i src s) (seraiPage k) .seraiRemoteRejected =
      min (2 ^ 32 - 1) (rd s (seraiPage k) .seraiRemoteRejected + 1) := by
  have hledger (u : State) (type detail : Nat) :
      rd (ledger (seraiPage k) type detail u) (seraiPage k) .seraiRemoteRejected = rd u (seraiPage k) .seraiRemoteRejected :=
    (ledger_upd ..).same .regSerai rfl _ _ _ rfl
  rw [rejectRemote, hledger, rd, rdi_raise_fld (by decide)]
  exact rd_count_same ..

theorem rejectRemote_serais (k : Nat) (counter : Bool) (i src : Nat) (s : State) :
    (rejectRemote k counter i src s).serais = s.serais := (rejectRemote_upd ..).same .serais rfl

theorem heldSignal_rejected (hdue : HeldDue sy pos h s) (hwin : inRemoteWindow s sy h.counter h.idx = false) :
    ∃ t, exec (.heldSignalApply sy pos) s = .next t ∧ (seraiAt t sy).held = (seraiAt s sy).held.eraseIdx pos ∧
      (∀ k i, flagAt t k i = flagAt s k i ∧ ctrAt t k i = ctrAt s k i ∧ barAt t k i = barAt s k i) ∧
      rd t (seraiPage sy) .seraiRemoteRejected = min (2 ^ 32 - 1) (rd s (seraiPage sy) .seraiRemoteRejected + 1) := by
  have hexec := exec_heldSignal_due hdue
  rw [applyRemote_outside (s := dropHeld sy pos s) hwin] at hexec
  have hsame := rejectRemote_serais sy h.counter h.idx h.src (dropHeld sy pos s)
  refine ⟨_, hexec, ?_, fun k i => ?_, rejectRemote_counts ..⟩
  · rw [seraiAt_congr hsame, dropHeld_held, if_pos rfl]
  · rw [flagAt_congr hsame, ctrAt_congr hsame, barAt_congr hsame]
    exact dropHeld_objects ..

end Held

/-- Settles O29: a signal's frame goes into its port's queue, a host flag's count and write go out together, and a held signal leaves by
the one object that it names. -/
theorem signalsAndHeldSignals : Obligations.SignalsAndHeldSignals := by
  refine ⟨?routed, ?unrouted, ?notify, ?go, ?applied, ?rejected⟩
  case routed =>
    intro g c peer p w u s _ htake hsy hplain hpeer hroute
    exact remoteSignal_routed ⟨htake, hsy, hplain⟩ hpeer hroute
  case unrouted =>
    intro g c w u s _ htake hsy hplain hroute
    exact remoteSignal_unrouted ⟨htake, hsy, hplain⟩ hroute
  case notify =>
    intro g c x i n w u s _ htake hsy hx hi hn
    exact ⟨_, exec_hostNotify htake hsy hx hi hn, hostNotify_leaves htake _ _ _ rfl⟩
  case go =>
    intro x g c k irq w s _ hsent hw hk hworks htype
    exact go_flag hsent hw hk hworks htype
  case applied =>
    intro sy pos h s _ hhere hwhole hready hwin hcap
    exact heldSignal_applied ⟨hhere, hwhole, hready⟩ hwin hcap
  case rejected =>
    intro sy pos h s _ hhere hwhole hready hwin
    exact heldSignal_rejected ⟨hhere, hwhole, hready⟩ hwin

end Sys2Proof.Machine
end

section
/-!
O30: host operations on Serai objects (R134, R143, R147, R151).
-/

namespace Sys2Proof.Machine

section Asked

variable {k op kind i : Nat} {s : State}

/-- The write that carries HOP_OP, HOP_KIND and HOP_INDEX has landed. -/
def hopAsked (k op kind i : Nat) (s : State) : State :=
  wr (seraiPage k) .seraiHopIndex i (wr (seraiPage k) .seraiHopKind kind (wr (seraiPage k) .seraiHopOp op s))

theorem hopAsked_upd (k op kind i : Nat) (s : State) : Upd [.regSerai] s (hopAsked k op kind i s) :=
  ((Upd.mono rfl (wr_upd ..)).step rfl (wr_upd ..)).step rfl (wr_upd ..)

theorem rdi_hopAsked {f : Fld} (hf : f ∉ [Fld.seraiHopIndex, .seraiHopKind, .seraiHopOp]) (k op kind i : Nat) (s : State) (p j : Nat) :
    rdi (hopAsked k op kind i s) p f j = rdi s p f j := by
  simp only [List.mem_cons, List.not_mem_nil, or_false, not_or] at hf
  obtain ⟨hindex, hkind, hop⟩ := hf
  rw [hopAsked, rdi_wr_fld hindex, rdi_wr_fld hkind, rdi_wr_fld hop]

theorem rd_hopAsked {f : Fld} (hf : f ∉ [Fld.seraiHopIndex, .seraiHopKind, .seraiHopOp]) (k op kind i : Nat) (s : State) (p : Nat) :
    rd (hopAsked k op kind i s) p f = rd s p f := rdi_hopAsked hf ..

/-- No refusal depends on the fields that carry the operation (R143). -/
theorem hopRefusal_hopAsked (k op kind i : Nat) (s : State) : hopRefusal (hopAsked k op kind i s) k op kind i = hopRefusal s k op kind i := by
  have hwindow : inHostWindow (hopAsked k op kind i s) k kind i = inHostWindow s k kind i := by
    rw [inHostWindow, rdi_hopAsked (by decide), rdi_hopAsked (by decide), ← inHostWindow]
  have hlevel : debugLevel (hopAsked k op kind i s) = debugLevel s := rd_hopAsked (by decide) ..
  rw [hopRefusal, rd_hopAsked (by decide), rd_hopAsked (by decide), hlevel, hwindow, ← hopRefusal]

theorem hopWrite_hop (hreach : unitReachable s (seraiUnit k) = true) (hkind : kind < 3) (hi : i < 4096) :
    hopWrite k op kind i s = hop k op kind i (hopAsked k op kind i s) := by
  rw [hopWrite, hostWrites, if_pos hreach, Nat.mod_eq_of_lt (by omega : kind < 4), Nat.mod_eq_of_lt hi, ← hopAsked]

end Asked

section Reported

variable {k op kind i r : Nat} {s t w : State}

/-- HOP_STATUS reports `r` and HOP_GO reads 0. -/
def hopReported (k r : Nat) (s : State) : State := wr (seraiPage k) .seraiHopGo 0 (wr (seraiPage k) .seraiHopStatus r s)

theorem hopReported_upd (k r : Nat) (s : State) : Upd [.regSerai] s (hopReported k r s) := (Upd.mono rfl (wr_upd ..)).step rfl (wr_upd ..)

theorem hopReported_status (hr : r < 16) (k : Nat) (s : State) : rd (hopReported k r s) (seraiPage k) .seraiHopStatus = r := by
  rw [hopReported, rd, rdi_wr_fld (by decide)]
  exact (rd_wr_same ..).trans (Nat.mod_eq_of_lt hr)

theorem hopReported_go (k r : Nat) (s : State) : rd (hopReported k r s) (seraiPage k) .seraiHopGo = 0 := rd_wr_same ..

/-- The result of an operation: the object as it is now, and of CTR_ADD the old value (R143, R151). -/
def hopResult (k op kind i old : Nat) (s : State) : State :=
  if op = 3 then wr (seraiPage k) .seraiHopResult0 old (hopShow k kind i s) else hopShow k kind i s

theorem hopResult_upd (k op kind i old : Nat) (s : State) : Upd [.regSerai] s (hopResult k op kind i old s) :=
  Upd.ite (fun _ => (Upd.mono rfl (hopShow_upd ..)).step rfl (wr_upd ..)) fun _ => Upd.mono rfl (hopShow_upd ..)

theorem hopShow_result (k kind i : Nat) (s : State) :
    rd (hopShow k kind i s) (seraiPage k) .seraiHopResult0 = objectValue s k kind i % 2 ^ 32 := rd_wr_same ..

theorem hopResult_result (k op kind i old : Nat) (s : State) :
    rd (hopResult k op kind i old s) (seraiPage k) .seraiHopResult0 = (if op = 3 then old else objectValue s k kind i) % 2 ^ 32 := by
  unfold hopResult
  split
  · exact rd_wr_same ..
  · exact hopShow_result ..

/-- Neither HOP_STATUS nor HOP_GO is a field of the result. -/
theorem rd_hopResult {f : Fld} (h0 : f ≠ .seraiHopResult0) (h1 : f ≠ .seraiHopResult1) (k op kind i old : Nat) (s : State) (p : Nat) :
    rd (hopResult k op kind i old s) p f = rd s p f := by
  have hshow : rd (hopShow k kind i s) p f = rd s p f := (rdi_wr_fld h0 ..).trans (rdi_wr_fld h1 ..)
  unfold hopResult
  split
  · exact (rdi_wr_fld h0 ..).trans hshow
  · exact hshow

theorem hop_refused (h : hopRefusal s k op kind i ≠ 0) : hop k op kind i s = hopReported k (hopRefusal s k op kind i) s :=
  if_pos (bne_iff_ne.mpr h)

theorem hop_stopped (h : hopRefusal s k op kind i = 0) (heff : hopEffect k op i s = (r, w)) (hr : r ≠ 0) :
    hop k op kind i s = hopReported k r w := by
  rw [hop]
  dsimp only
  rw [h, heff, if_neg (by decide)]
  dsimp only
  rw [if_pos (bne_iff_ne.mpr hr), ← hopReported]

/-- An operation that acts shows its result, and outside the host windows it is recorded (R143, R151). -/
theorem hop_acted (h : hopRefusal s k op kind i = 0) (heff : hopEffect k op i s = (0, w)) :
    ∃ t, t = hopResult k op kind i (objectValue s k kind i) (hopReported k 0 w) ∧
      (hop k op kind i s = t ∨ ∃ detail, hop k op kind i s = ledger (seraiPage k) 0x83 detail t) := by
  refine ⟨_, rfl, ?_⟩
  rw [hop]
  dsimp only
  rw [h, heff, if_neg (by decide)]
  dsimp only
  rw [if_neg (by decide), ← hopReported, ← hopResult]
  split
  · exact .inl rfl
  · exact .inr ⟨_, rfl⟩

end Reported

section Written

variable {k op kind i r : Nat} {s w : State}

/-- Operation `op` of the object may be written: its Serai answers the host, and the operands fit their fields. -/
structure HopWritable (k kind i : Nat) (s : State) : Prop where
  reach : unitReachable s (seraiUnit k) = true
  kind : kind < 3
  idx : i < 4096

/-- What an operation that acts leaves: the objects of its effect, HOP_STATUS, HOP_GO and RESULT_0. -/
theorem hopWrite_acted (hw : HopWritable k kind i s) (h : hopRefusal s k op kind i = 0)
    (heff : hopEffect k op i (hopAsked k op kind i s) = (0, w)) :
    (hopWrite k op kind i s).serais = w.serais ∧ rd (hopWrite k op kind i s) (seraiPage k) .seraiHopStatus = 0 ∧
      rd (hopWrite k op kind i s) (seraiPage k) .seraiHopGo = 0 ∧ rd (hopWrite k op kind i s) (seraiPage k) .seraiHopResult0 =
        (if op = 3 then objectValue s k kind i else objectValue w k kind i) % 2 ^ 32 := by
  obtain ⟨t, ht, hend⟩ := hop_acted ((hopRefusal_hopAsked ..).trans h) heff
  have hold : objectValue (hopAsked k op kind i s) k kind i = objectValue s k kind i := rfl
  have hserais : t.serais = w.serais :=
    ht ▸ Eq.trans ((hopResult_upd ..).same .serais rfl) ((hopReported_upd ..).same .serais rfl)
  have hstatus : rd t (seraiPage k) .seraiHopStatus = 0 := by
    rw [ht, rd_hopResult (by decide) (by decide), hopReported_status (by decide)]
  have hgo : rd t (seraiPage k) .seraiHopGo = 0 := by rw [ht, rd_hopResult (by decide) (by decide), hopReported_go]
  have hresult : rd t (seraiPage k) .seraiHopResult0 = (if op = 3 then objectValue s k kind i else objectValue w k kind i) % 2 ^ 32 := by
    rw [ht, hopResult_result, hold]
    rfl
  rw [hopWrite_hop hw.reach hw.kind hw.idx]
  obtain hend | ⟨detail, hend⟩ := hend
  · rw [hend]
    exact ⟨hserais, hstatus, hgo, hresult⟩
  · have hkept := ledger_upd (seraiPage k) 0x83 detail t
    have hrd (f : Fld) (hf : f.part = .regSerai) : rd (ledger (seraiPage k) 0x83 detail t) (seraiPage k) f = rd t (seraiPage k) f :=
      hkept.same .regSerai rfl _ _ _ hf
    rw [hend, hrd _ rfl, hrd _ rfl, hrd _ rfl]
    exact ⟨Eq.trans (hkept.same .serais rfl) hserais, hstatus, hgo, hresult⟩

/-- An operation that the object refuses reports the refusal and changes no object. -/
theorem hopWrite_stopped (hw : HopWritable k kind i s) (h : hopRefusal s k op kind i = 0)
    (heff : hopEffect k op i (hopAsked k op kind i s) = (r, hopAsked k op kind i s)) (h0 : r ≠ 0) (hr : r < 16) :
    rd (hopWrite k op kind i s) (seraiPage k) .seraiHopStatus = r ∧ (hopWrite k op kind i s).serais = s.serais := by
  rw [hopWrite_hop hw.reach hw.kind hw.idx, hop_stopped ((hopRefusal_hopAsked ..).trans h) heff h0]
  exact ⟨hopReported_status hr .., Eq.trans ((hopReported_upd ..).same .serais rfl) ((hopAsked_upd ..).same .serais rfl)⟩

theorem hopRefusal_lt (s : State) (k op kind i : Nat) : hopRefusal s k op kind i < 16 := by
  unfold hopRefusal
  dsimp only
  split_ifs <;> decide

/-- A refused operation reports the refusal and changes fields of the Serai pages alone. -/
theorem hopWrite_refused (hw : HopWritable k kind i s) (h : hopRefusal s k op kind i ≠ 0) :
    rd (hopWrite k op kind i s) (seraiPage k) .seraiHopStatus = hopRefusal s k op kind i ∧
      rd (hopWrite k op kind i s) (seraiPage k) .seraiHopGo = 0 ∧ Only [.regSerai] s (hopWrite k op kind i s) := by
  rw [← hopRefusal_hopAsked] at h
  rw [hopWrite_hop hw.reach hw.kind hw.idx, hop_refused h, hopRefusal_hopAsked]
  exact ⟨hopReported_status (hopRefusal_lt ..) .., hopReported_go .., ((hopAsked_upd ..).step rfl (hopReported_upd ..)).same⟩

end Written

section Refusals

/-- Which operations fit which kind of object (R143, R151). -/
theorem hopFits_iff : ∀ op, op ≤ 8 → ∀ kind, kind ≤ 2 → (hopFits op kind = true ↔
    op = 0 ∨ (kind = 0 ∧ 1 ≤ op ∧ op ≤ 2) ∨ (kind = 1 ∧ 3 ≤ op ∧ op ≤ 4) ∨ (kind = 2 ∧ 5 ≤ op)) := by
  decide

theorem hopRefusal_order {op kind : Nat} (hop : op ≤ 8) (hkind : kind ≤ 2) (s : State) (k i : Nat) :
    hopRefusal s k op kind i =
      (if ¬(op = 0 ∨ (kind = 0 ∧ 1 ≤ op ∧ op ≤ 2) ∨ (kind = 1 ∧ 3 ≤ op ∧ op ≤ 4) ∨ (kind = 2 ∧ 5 ≤ op)) then 6
       else if seraiCap k kind ≤ i ∨ (op = 5 ∧ ¬(2 ≤ bits (rd s (seraiPage k) .seraiHopArg) 12 0 ∧ bits (rd s (seraiPage k) .seraiHopArg) 12 0 ≤ 4096)) then 1
       else if rd s (seraiPage k) .hdrFenced = 1 ∨ (7 ≤ op ∧ debugLevel s ≠ 2) then 5
       else if inHostWindow s k kind i = false ∧ debugLevel s ≠ 2 then 2 else 0) := by
  simp only [hopRefusal, ← hopFits_iff op hop kind hkind, Bool.not_eq_true', Bool.not_eq_true, Bool.or_eq_true, Bool.and_eq_true,
    decide_eq_true_eq, decide_eq_false_iff_not, bne_iff_ne, Bool.and_eq_false_iff, not_and_or]

end Refusals

end Sys2Proof.Machine
end

section
/-!
O30: each host operation on its object.
-/

namespace Sys2Proof.Machine

section Operations

variable {k i : Nat} {s : State}

theorem hopRead_shows {kind : Nat} (hw : HopWritable k kind i s) (h : hopRefusal s k 0 kind i = 0) :
    ∃ t, exec (.hopRead k kind i) s = .next t ∧ rd t (seraiPage k) .seraiHopStatus = 0 ∧ rd t (seraiPage k) .seraiHopGo = 0 ∧
      rd t (seraiPage k) .seraiHopResult0 = objectValue s k kind i % 2 ^ 32 ∧ t.serais = s.serais := by
  obtain ⟨hserais, hstatus, hgo, hresult⟩ := hopWrite_acted hw h rfl
  exact ⟨_, rfl, hstatus, hgo, hresult, hserais⟩

theorem hopFlag_stores {v : Bool} {op : Nat} (hw : HopWritable k 0 i s) (h : hopRefusal s k op 0 i = 0)
    (heff : ∀ u, hopEffect k op i u = (0, putFlag k i v u)) : rd (hopWrite k op 0 i s) (seraiPage k) .seraiHopStatus = 0 ∧
      (∀ k' i', flagAt (hopWrite k op 0 i s) k' i' = if (k', i') = (k, i) then v else flagAt s k' i') ∧
      ∀ k' i', ctrAt (hopWrite k op 0 i s) k' i' = ctrAt s k' i' ∧ barAt (hopWrite k op 0 i s) k' i' = barAt s k' i' := by
  obtain ⟨hserais, hstatus, -, -⟩ := hopWrite_acted hw h (heff _)
  exact ⟨hstatus, putFlag_objects (o := (k, i)) rfl hserais⟩

theorem hopCtrAdd_adds (hw : HopWritable k 1 i s) (h : hopRefusal s k 3 1 i = 0) (hctr : ctrAt s k i < 2 ^ 32) :
    ∃ t, exec (.hopCtrAdd k 1 i) s = .next t ∧ rd t (seraiPage k) .seraiHopStatus = 0 ∧ rd t (seraiPage k) .seraiHopResult0 = ctrAt s k i ∧
      (∀ k' i', ctrAt t k' i' = if (k', i') = (k, i) then (ctrAt s k i + rd s (seraiPage k) .seraiHopArg) % 2 ^ 32 else ctrAt s k' i') ∧
      ∀ k' i', flagAt t k' i' = flagAt s k' i' ∧ barAt t k' i' = barAt s k' i' := by
  have heff : hopEffect k 3 i (hopAsked k 3 1 i s) =
      (0, putCtr k i (ctrAt s k i + rd s (seraiPage k) .seraiHopArg) (hopAsked k 3 1 i s)) := by
    rw [← rd_hopAsked (f := .seraiHopArg) (by decide) k 3 1 i s]
    rfl
  obtain ⟨hserais, hstatus, -, hresult⟩ := hopWrite_acted hw h heff
  exact ⟨_, rfl, hstatus, hresult.trans (Nat.mod_eq_of_lt hctr), putCtr_objects (o := (k, i)) rfl hserais⟩

theorem hopCtrSet_stores (hs : s.Ok) (hw : HopWritable k 1 i s) (h : hopRefusal s k 4 1 i = 0) :
    ∃ t, exec (.hopCtrSet k 1 i) s = .next t ∧ rd t (seraiPage k) .seraiHopStatus = 0 ∧
      (∀ k' i', ctrAt t k' i' = if (k', i') = (k, i) then rd s (seraiPage k) .seraiHopArg else ctrAt s k' i') ∧
      ∀ k' i', flagAt t k' i' = flagAt s k' i' ∧ barAt t k' i' = barAt s k' i' := by
  have heff : hopEffect k 4 i (hopAsked k 4 1 i s) = (0, putCtr k i (rd s (seraiPage k) .seraiHopArg) (hopAsked k 4 1 i s)) := by
    rw [← rd_hopAsked (f := .seraiHopArg) (by decide) k 4 1 i s]
    rfl
  obtain ⟨hserais, hstatus, -, -⟩ := hopWrite_acted hw h heff
  have hobjects := putCtr_objects (s := s) (o := (k, i)) rfl hserais
  have hfits : rd s (seraiPage k) .seraiHopArg < 2 ^ 32 := rdi_lt hs ..
  rw [Nat.mod_eq_of_lt hfits] at hobjects
  exact ⟨_, rfl, hstatus, hobjects⟩

/-- An operation on a barrier that stores `b` there: the barrier is `b` and every other object stays. -/
theorem hopWrite_puts {b : Bar} {op : Nat} (hw : HopWritable k 2 i s) (h : hopRefusal s k op 2 i = 0)
    (heff : hopEffect k op i (hopAsked k op 2 i s) = (0, putBar k i b (hopAsked k op 2 i s))) :
    rd (hopWrite k op 2 i s) (seraiPage k) .seraiHopStatus = 0 ∧ barAt (hopWrite k op 2 i s) k i = b ∧
      ∀ k' i', (k', i') ≠ (k, i) → barAt (hopWrite k op 2 i s) k' i' = barAt s k' i' := by
  obtain ⟨hserais, hstatus, -, -⟩ := hopWrite_acted hw h heff
  obtain ⟨hbars, -⟩ := putBar_objects (o := (k, i)) rfl hserais
  exact ⟨hstatus, (hbars k i).trans (if_pos rfl), fun k' i' hne => (hbars k' i').trans (if_neg hne)⟩

/-- The barrier that the host opens: N and MUSTER of HOP_ARG, PROD and CONS as they stand (R134). -/
def hostOpened (k i : Nat) (s : State) : Bar :=
  { n := bits (rd s (seraiPage k) .seraiHopArg) 12 0, muster := bit (rd s (seraiPage k) .seraiHopArg) 16 = 1, prod := (barAt s k i).prod
    cons := (barAt s k i).cons }

theorem hopBarInit_opens (hw : HopWritable k 2 i s) (h : hopRefusal s k 5 2 i = 0) (hfree : (barAt s k i).n = 0 ∨ (barAt s k i).count = 0) :
    ∃ t, exec (.hopBarInit k 2 i) s = .next t ∧ rd t (seraiPage k) .seraiHopStatus = 0 ∧ barAt t k i = hostOpened k i s ∧
      ∀ k' i', (k', i') ≠ (k, i) → barAt t k' i' = barAt s k' i' := by
  have heff : hopEffect k 5 i (hopAsked k 5 2 i s) = (0, putBar k i (hostOpened k i s) (hopAsked k 5 2 i s)) := by
    rw [hopEffect, barInit_free (s := hopAsked k 5 2 i s) hfree, rd_hopAsked (by decide)]
    rfl
  exact ⟨_, rfl, hopWrite_puts hw h heff⟩

theorem hopBarInit_busy (hw : HopWritable k 2 i s) (h : hopRefusal s k 5 2 i = 0) (hn : (barAt s k i).n ≠ 0) (hcount : (barAt s k i).count ≠ 0) :
    rd (hopWrite k 5 2 i s) (seraiPage k) .seraiHopStatus = 3 ∧ (hopWrite k 5 2 i s).serais = s.serais := by
  refine hopWrite_stopped hw h ?_ (by decide) (by decide)
  rw [hopEffect, barInit_busy (s := hopAsked k 5 2 i s) hn hcount]

theorem hopBarArrive_counts (hw : HopWritable k 2 i s) (h : hopRefusal s k 6 2 i = 0) (hn : (barAt s k i).n ≠ 0)
    (hlast : (barAt s k i).count + 1 ≠ (barAt s k i).n) :
    ∃ t, exec (.hopBarArrive k 2 i) s = .next t ∧ rd t (seraiPage k) .seraiHopStatus = 0 ∧ barAt t k i = (barAt s k i).joined none ∧
      ∀ k' i', (k', i') ≠ (k, i) → barAt t k' i' = barAt s k' i' := by
  have heff : hopEffect k 6 i (hopAsked k 6 2 i s) = (0, barArrive k i none (hopAsked k 6 2 i s)) := if_neg hn
  rw [barArrive_counts (s := hopAsked k 6 2 i s) hlast] at heff
  exact ⟨_, rfl, hopWrite_puts hw h heff⟩

/-- A released barrier completes its generation without a muster step (R147). -/
theorem dbgRelease_completes (hw : HopWritable k 2 i s) (h : hopRefusal s k 7 2 i = 0) (hn : (barAt s k i).n ≠ 0) :
    ∃ t, exec (.dbgRelease k 2 i) s = .next t ∧ rd t (seraiPage k) .seraiHopStatus = 0 ∧ barAt t k i = (barAt s k i).passed ∧
      (∀ k' i', (k', i') ≠ (k, i) → barAt t k' i' = barAt s k' i') ∧ ∀ k' i', ctrAt t k' i' = ctrAt s k' i' := by
  have heff : hopEffect k 7 i (hopAsked k 7 2 i s) = (0, barComplete k i false (hopAsked k 7 2 i s)) := if_neg hn
  obtain ⟨hserais, hstatus, -, -⟩ := hopWrite_acted hw h heff
  obtain ⟨hbars, -, hctrs⟩ := barComplete_objects hserais
  exact ⟨_, rfl, hstatus, (hbars k i).trans (if_pos rfl), fun k' i' hne => (hbars k' i').trans (if_neg hne), hctrs (.inl rfl)⟩

/-- Taking back an arrival of a barrier that has none changes nothing; otherwise the last recorded arrival goes (R147). -/
theorem dbgWithdraw_takes (hw : HopWritable k 2 i s) (h : hopRefusal s k 8 2 i = 0) (hn : (barAt s k i).n ≠ 0) :
    ∃ t, exec (.dbgWithdraw k 2 i) s = .next t ∧ rd t (seraiPage k) .seraiHopStatus = 0 ∧
      (barAt t k i).count = (barAt s k i).count - 1 ∧ (barAt t k i).gen = (barAt s k i).gen ∧
      ∀ k' i', (k', i') ≠ (k, i) → barAt t k' i' = barAt s k' i' := by
  by_cases hcount : (barAt s k i).count = 0
  · have heff : hopEffect k 8 i (hopAsked k 8 2 i s) = (0, hopAsked k 8 2 i s) :=
      (if_neg hn).trans (congrArg (Prod.mk 0) (if_pos hcount))
    obtain ⟨hserais, hstatus, -, -⟩ := hopWrite_acted hw h heff
    have hsame (k' i' : Nat) : barAt (hopWrite k 8 2 i s) k' i' = barAt s k' i' := barAt_congr hserais ..
    exact ⟨_, rfl, hstatus, by rw [hsame, hcount], by rw [hsame], fun k' i' _ => hsame k' i'⟩
  · have heff : hopEffect k 8 i (hopAsked k 8 2 i s) = (0, putBar k i
        { barAt s k i with count := (barAt s k i).count - 1, arr := (barAt s k i).arr.dropLast } (hopAsked k 8 2 i s)) :=
      (if_neg hn).trans (congrArg (Prod.mk 0) (if_neg hcount))
    obtain ⟨hstatus, hbar, hrest⟩ := hopWrite_puts hw h heff
    exact ⟨_, rfl, hstatus, by rw [hbar], by rw [hbar], hrest⟩

/-- An arrival, release or withdrawal at an UNINIT barrier (R143). -/
theorem hopWrite_uninit {op : Nat} (hop : op = 6 ∨ op = 7 ∨ op = 8) (hw : HopWritable k 2 i s) (h : hopRefusal s k op 2 i = 0)
    (hn : (barAt s k i).n = 0) :
    rd (hopWrite k op 2 i s) (seraiPage k) .seraiHopStatus = 4 ∧ (hopWrite k op 2 i s).serais = s.serais := by
  refine hopWrite_stopped hw h ?_ (by decide) (by decide)
  obtain rfl | rfl | rfl := hop
  · exact if_pos hn
  · exact if_pos hn
  · exact if_pos hn

/-- Every host operation is the write of its own code. -/
theorem exec_hostOperation {k kind i op : Nat} {c : Instr} (h : (c, op) ∈ [(Instr.hopRead k kind i, 0), (.hopFlagSet k kind i, 1),
      (.hopFlagClear k kind i, 2), (.hopCtrAdd k kind i, 3), (.hopCtrSet k kind i, 4), (.hopBarInit k kind i, 5), (.hopBarArrive k kind i, 6),
      (.dbgRelease k kind i, 7), (.dbgWithdraw k kind i, 8)]) (s : State) : exec c s = .next (hopWrite k op kind i s) := by
  simp only [List.mem_cons, List.not_mem_nil, or_false, Prod.mk.injEq] at h
  obtain ⟨rfl, rfl⟩ | ⟨rfl, rfl⟩ | ⟨rfl, rfl⟩ | ⟨rfl, rfl⟩ | ⟨rfl, rfl⟩ | ⟨rfl, rfl⟩ | ⟨rfl, rfl⟩ | ⟨rfl, rfl⟩ | ⟨rfl, rfl⟩ := h <;> rfl

end Operations

/-- Settles O30: an admitted operation stores what its effect stores, and its report and result change no object. -/
theorem hostObjectOperations : Obligations.HostObjectOperations := by
  refine ⟨fun k i s hs _ hi hreach => ?_, fun k kind i s _ _ hkind hi hreach c op hc href => ?_, fun k op kind i s hop hkind => ?order⟩
  · have hw {kind : Nat} (hkind : kind < 3) : HopWritable k kind i s := ⟨hreach, hkind, hi⟩
    have hflag : HopWritable k 0 i s := hw (by decide)
    have hctr : HopWritable k 1 i s := hw (by decide)
    have hbar : HopWritable k 2 i s := hw (by decide)
    refine ⟨fun h => ?readFlag, fun h hlt => ?readCtr, fun h => ⟨_, rfl, hopFlag_stores hflag h fun _ => rfl⟩,
      fun h => ⟨_, rfl, hopFlag_stores hflag h fun _ => rfl⟩, hopCtrAdd_adds hctr, hopCtrSet_stores hs hctr, fun h hfree => ?init,
      fun h hn hcount => ⟨_, rfl, hopBarInit_busy hbar h hn hcount⟩, hopBarArrive_counts hbar, dbgRelease_completes hbar,
      dbgWithdraw_takes hbar, fun hn => ⟨fun h => ⟨_, rfl, hopWrite_uninit (.inl rfl) hbar h hn⟩,
        fun h => ⟨_, rfl, hopWrite_uninit (.inr (.inl rfl)) hbar h hn⟩, fun h => ⟨_, rfl, hopWrite_uninit (.inr (.inr rfl)) hbar h hn⟩⟩⟩
    case readFlag =>
      obtain ⟨t, hexec, hstatus, hgo, hresult, hserais⟩ := hopRead_shows hflag h
      refine ⟨t, hexec, hstatus, hgo, hresult.trans ?_, hserais⟩
      rw [objectValue]
      split <;> rfl
    case readCtr =>
      obtain ⟨t, hexec, hstatus, -, hresult, hserais⟩ := hopRead_shows hctr h
      exact ⟨t, hexec, hstatus, hresult.trans (Nat.mod_eq_of_lt hlt), hserais⟩
    case init =>
      obtain ⟨t, hexec, hstatus, hopen, hrest⟩ := hopBarInit_opens hbar h hfree
      refine ⟨t, hexec, hstatus, ?_⟩
      rw [hopen]
      exact ⟨rfl, rfl, rfl, rfl, hrest⟩
  · exact ⟨_, exec_hostOperation hc s, hopWrite_refused ⟨hreach, hkind, hi⟩ href⟩
  case order => exact hopRefusal_order hop hkind s k i

end Sys2Proof.Machine
end

section
/-!
O31: claims, refused starts and releases at the scoreboard (R207-R213).
-/

namespace Sys2Proof.Machine

section SbKept

variable {g : Nat} {s t u : State}

/-- The scoreboards hold the same entries. -/
structure SbKept (s t : State) : Prop where
  entries : ∀ g, (spadAt t g).sb = (spadAt s g).sb

theorem SbKept.refl (s : State) : SbKept s s := ⟨fun _ => rfl⟩

theorem SbKept.trans (h : SbKept s t) (h' : SbKept t u) : SbKept s u := ⟨fun g => (h'.entries g).trans (h.entries g)⟩

theorem spadAt_congr (h : t.spads = s.spads) (g : Nat) : spadAt t g = spadAt s g := by rw [spadAt, h, ← spadAt]

theorem spadAt_putSpad_same (g : Nat) (x : Spad) (s : State) : spadAt (putSpad g x s) g = x := SMap.get_set_same

theorem spadAt_putSpad_other {i : Nat} (h : i ≠ g) (x : Spad) (s : State) : spadAt (putSpad g x s) i = spadAt s i := SMap.get_set_other h

theorem SbKept.step {m : List Part} (h : SbKept s t) (hu : Upd m t u) (hm : m.contains .spads = false) : SbKept s u :=
  h.trans ⟨fun g => congrArg Spad.sb (spadAt_congr (hu.same .spads hm) g)⟩

theorem SbKept.ite {p : Prop} [Decidable p] (ht : p → SbKept s t) (hu : ¬p → SbKept s u) : SbKept s (if p then t else u) := by
  split
  · exact ht ‹_›
  · exact hu ‹_›

/-- A scratchpad stored with its old entries. -/
theorem SbKept.put {x : Spad} (hx : x.sb = (spadAt s g).sb) : SbKept s (putSpad g x s) := by
  refine ⟨fun i => ?_⟩
  by_cases hi : i = g
  · subst hi
    rw [spadAt_putSpad_same, hx]
  · rw [spadAt_putSpad_other hi]

theorem supersede_sbKept (g w : Nat) (s : State) : SbKept s (supersede g w s) := SbKept.ite (fun _ => .put rfl) fun _ => .refl s

theorem spadUe_sbKept (g w : Nat) (s : State) : SbKept s (spadUe g w s) := by
  unfold spadUe
  extract_lets x s1
  have hlogged : Upd [.outbox, .regIrq, .regErr, .regFlt] s s1 := (Upd.mono rfl (counti_upd ..)).step rfl (logErr_upd ..)
  have hentries : (spadAt s1 g).sb = x.sb := ((SbKept.refl s).step hlogged rfl).entries g
  exact SbKept.ite (fun _ => .refl s) fun _ => ((SbKept.refl s).step hlogged rfl).trans (.put hentries.symm)

theorem writeWordSp_sbKept (g w : Nat) (part : SMap Byte) (poison : Bool) (s : State) : SbKept s (writeWordSp g w part poison s) := by
  unfold writeWordSp
  extract_lets whole look base new s1 s2 s3
  have h1 : SbKept s s1 := SbKept.ite (fun _ => supersede_sbKept g w s) fun _ => .refl s
  have h2 : SbKept s s2 := by
    unfold s2
    cases look with
    | corrected d => exact SbKept.ite (fun _ => h1) fun _ => (h1.step (counti_upd ..) rfl).step (ceWindow_upd ..) rfl
    | ue => exact SbKept.ite (fun _ => h1) fun _ => (h1.trans (spadUe_sbKept g w s1)).trans (supersede_sbKept ..)
    | clean => exact h1
    | poison => exact h1
  have h3 : SbKept s s3 := h2.step (sealWord_upd ..) rfl
  exact SbKept.ite (fun _ => h3.step (poisonWord_upd ..) rfl) fun _ => h3

theorem bufBack_sbKept (g line : Nat) (s : State) : SbKept s (bufBack g line s) := by
  unfold bufBack
  split
  next => exact .refl s
  next b _ =>
    extract_lets s1 x
    have h1 : SbKept s s1 := foldl_keeps (SbKept.refl s) fun t d ht => ht.trans (writeWordSp_sbKept ..)
    have h2 : SbKept s1 (putSpad g { x with nbufs := x.nbufs.map fun b => if b.line = line then { b with dirty := [] } else b } s1) := .put rfl
    exact (h1.trans h2).step (count_upd (spdPage g) .spdSlotNarrow 1 _) rfl

/-- Writing back the dirty buffers of a span leaves every entry (R204). -/
theorem spanBack_sbKept (g : Nat) (e : SbEntry) (s : State) : SbKept s (spanBack g e s) :=
  foldl_keeps (SbKept.refl s) fun t b ht => ht.trans (bufBack_sbKept g b.line t)

end SbKept

section Claims

variable {g c q : Nat} {d : Desc} {x : Ctx} {spans : List SbSpan} {s : State}

/-- An entry put on the scoreboard stands behind the others, in a place of its own. -/
theorem foldl_sbPut_unplaced (l sb : List SbEntry) :
    (l.foldl sbPut sb).map (fun e => { e with slot := 0 }) = sb.map (fun e => { e with slot := 0 }) ++ l.map fun e => { e with slot := 0 } := by
  induction l generalizing sb with
  | nil => exact (List.append_nil _).symm
  | cons e l ih =>
    rw [List.foldl_cons, ih, sbPut]
    simp

/-- The claims that a refused descriptor places, one for each span (R212). -/
def claims (spans : List SbSpan) (q c wb : Nat) : List SbEntry := spans.map fun p => { p.entry q c wb with kind := p.kind.claimed }

theorem claims_unplaced (spans : List SbSpan) (q c wb : Nat) :
    (claims spans q c wb).map (fun e => { e with slot := 0 }) = claims spans q c wb := by
  simp only [claims, SbSpan.entry, List.map_map, Function.comp_def]

theorem exec_sbClaim (hx : ctxAt s (ctxId g c) = x) (hidle : (x.q q).idle = some d) (hspans : spans = descSpans (ctxImage s g c) d.img x)
    (href : refused s g c q = true) (hnone : ∀ e, e ∈ (spadAt s g).sb → e.kind.isClaim = true → e.q ≠ q)
    (hroom : (spadAt s g).sb.length + spans.length ≤ 96) :
    exec (.sbClaim g c q) s = .next (notePeak g
      (putSpad g { spadAt s g with sb := (claims spans q c (absWb x q d.k)).foldl sbPut (spadAt s g).sb } s)) := by
  have hasked : idleSpans s g q c = spans := by
    rw [idleSpans, hx, hidle, hspans]
  have hwb : idleWb s g q c = absWb x q d.k := by
    rw [idleWb, hx, hidle]
    rfl
  have hguard : (!refused s g c q || (spadAt s g).sb.any (fun e => e.kind.isClaim && e.q = q) ||
      96 < (spadAt s g).sb.length + spans.length) = false := by
    have hany : (spadAt s g).sb.any (fun e => e.kind.isClaim && e.q = q) = false := by
      rw [List.any_eq_false]
      intro e he
      simpa using hnone e he
    simp only [href, hany, Bool.not_true, Bool.or_false, Bool.false_or, decide_eq_false_iff_not]
    omega
  show execSbClaim g c q s = _
  rw [execSbClaim]
  dsimp only
  rw [hasked, hwb, if_neg (by rw [hguard]; decide), ← claims]

theorem sbClaim_places (hx : ctxAt s (ctxId g c) = x) (hidle : (x.q q).idle = some d) (hspans : spans = descSpans (ctxImage s g c) d.img x)
    (href : refused s g c q = true) (hnone : ∀ e, e ∈ (spadAt s g).sb → e.kind.isClaim = true → e.q ≠ q)
    (hroom : (spadAt s g).sb.length + spans.length ≤ 96) :
    ∃ t, exec (.sbClaim g c q) s = .next t ∧
      (spadAt t g).sb.map (fun e => { e with slot := 0 }) =
        (spadAt s g).sb.map (fun e => { e with slot := 0 }) ++ claims spans q c (absWb x q d.k) ∧
      (∀ i, i ≠ g → spadAt t i = spadAt s i) ∧ Only [.regSpd, .spads] s t := by
  have hpeak (u : State) (i : Nat) : spadAt (notePeak g u) i = spadAt u i := spadAt_congr ((notePeak_upd g u).same .spads rfl) i
  refine ⟨_, exec_sbClaim hx hidle hspans href hnone hroom, ?_, fun i hi => ?_, ((Upd.mono rfl (putSpad_upd ..)).step rfl (notePeak_upd ..)).same⟩
  · rw [hpeak, spadAt_putSpad_same, foldl_sbPut_unplaced, claims_unplaced]
  · rw [hpeak, spadAt_putSpad_other hi]

end Claims

section Refused

variable {g c q : Nat} {s : State}

/-- A descriptor that the scoreboard refuses is a candidate, and no descriptor that may start. -/
theorem refused_waits (h : refused s g c q = true) : isCandidate s g q c = true ∧ mayStart s g c q = false := by
  simp only [refused, Bool.and_eq_true, Bool.not_eq_true', decide_eq_true_eq] at h
  obtain ⟨⟨⟨-, hcand⟩, hready⟩, -⟩ := h
  refine ⟨hcand, ?_⟩
  by_contra hmay
  simp only [mayStart, Bool.not_eq_false, Bool.and_eq_true, decide_eq_true_eq] at hmay
  obtain ⟨⟨-, hchosen⟩, -⟩ := hmay
  have hmem := (List.mem_filter.mp (mem_of_chosenAmong hchosen)).2
  rw [hready] at hmem
  exact Bool.false_ne_true hmem

theorem exec_descStart_refused (h : refused s g c q = true) : exec (.descStart g c q) s = .next (noteRefused g c q s) := by
  obtain ⟨hcand, hmay⟩ := refused_waits h
  show execDescStart g c q s = _
  rw [execDescStart]
  cases hidle : ((ctxAt s (ctxId g c)).q q).idle with
  | none =>
    rw [isCandidate, hidle] at hcand
    exact absurd hcand Bool.false_ne_true
  | some d =>
    dsimp only
    rw [if_neg (by simp [hmay]), if_pos h]

/-- A refusal counts one cycle of each of its causes (R211, R216). -/
theorem noteRefused_counts (g c q : Nat) (s : State) :
    rd (noteRefused g c q s) (spdPage g) .spdSbConflictCyc =
      (if sbConflict (spadAt s g) (idleSpans s g q c) q c (idleWb s g q c) = true
        then satAdd (2 ^ Fld.spdSbConflictCyc.row.width - 1) (rd s (spdPage g) .spdSbConflictCyc) 1 else rd s (spdPage g) .spdSbConflictCyc) ∧
    rd (noteRefused g c q s) (spdPage g) .spdSbFullCyc =
      (if sbLacks (spadAt s g) (idleSpans s g q c) q c (idleWb s g q c) = true
        then satAdd (2 ^ Fld.spdSbFullCyc.row.width - 1) (rd s (spdPage g) .spdSbFullCyc) 1 else rd s (spdPage g) .spdSbFullCyc) := by
  have hother {f h : Fld} (hne : h ≠ f) (u : State) : rd (count (spdPage g) f 1 u) (spdPage g) h = rd u (spdPage g) h := rdi_counti_fld hne ..
  unfold noteRefused
  extract_lets y spans wb s1
  have hconflict : rd s1 (spdPage g) .spdSbConflictCyc = (if sbConflict y spans q c wb = true
      then satAdd (2 ^ Fld.spdSbConflictCyc.row.width - 1) (rd s (spdPage g) .spdSbConflictCyc) 1 else rd s (spdPage g) .spdSbConflictCyc) := by
    unfold s1
    split
    · exact rd_count_same ..
    · rfl
  have hfull : rd s1 (spdPage g) .spdSbFullCyc = rd s (spdPage g) .spdSbFullCyc := by
    unfold s1
    split
    · exact hother (by decide) s
    · rfl
  refine ⟨?_, ?_⟩
  · rw [← hconflict]
    split
    · exact hother (by decide) s1
    · rfl
  · rw [← hfull]
    split
    · exact rd_count_same ..
    · rfl

end Refused

section Release

variable {g c q k i : Nat} {w : Work} {p : SbSpan} {e : SbEntry} {s : State}

/-- Entry `i` of the started descriptor `k`, as the scoreboard holds it. -/
structure SbHolds (g c q k i : Nat) (w : Work) (p : SbSpan) (e : SbEntry) (s : State) : Prop where
  settled : s.flights.filter BkFlight.isDone = []
  started : (((ctxAt s (ctxId g c)).q q).live.find? fun w => w.k = k) = some w
  span : (descSpans (ctxImage s g c) w.img (ctxAt s (ctxId g c)))[i]? = some p
  entry : ((spadAt s g).sb.find? fun e => { e with slot := 0 } = p.entry q c (absWb (ctxAt s (ctxId g c)) q k)) = some e

theorem exec_sbRelease (h : SbHolds g c q k i w p e s) : exec (.sbRelease g c q k i) s =
    if !sbEntryDone w i e.kind then .next s
    else .next (sbFree g e (if e.kind = .read then mapWork g c q k (fun w => { w with rdRel := true }) s else s)) := by
  obtain ⟨settled, started, span, entry⟩ := h
  have hsettle : (if q = qBk then settleFlights s else s) = s := by
    rw [settleFlights_of_none settled, ite_self]
  show execSbRelease g c q k i s = _
  rw [execSbRelease, hsettle, started]
  dsimp only
  rw [span, Option.bind_some, entry]

/-- A released entry leaves the scoreboard, and no other does (R209). -/
theorem sbFree_sb (g : Nat) (e : SbEntry) (s : State) : (spadAt (sbFree g e s) g).sb = (spadAt s g).sb.erase e := by
  unfold sbFree
  extract_lets s1 x
  have h1 : SbKept s s1 := SbKept.ite (fun _ => spanBack_sbKept g e s) fun _ => .refl s
  rw [spadAt_putSpad_same, ← h1.entries g]

theorem sbRelease_frees (h : SbHolds g c q k i w p e s) (hdone : sbEntryDone w i e.kind = true) :
    ∃ t, exec (.sbRelease g c q k i) s = .next t ∧ (spadAt t g).sb = (spadAt s g).sb.erase e := by
  have hread : SbKept s (if e.kind = .read then mapWork g c q k (fun w => { w with rdRel := true }) s else s) :=
    SbKept.ite (fun _ => (SbKept.refl s).step (mapWork_upd ..) rfl) fun _ => .refl s
  refine ⟨_, (exec_sbRelease h).trans (if_neg (by simp [hdone])), ?_⟩
  rw [sbFree_sb, hread.entries g]

theorem sbRelease_waits (h : SbHolds g c q k i w p e s) (hdone : sbEntryDone w i e.kind = false) :
    exec (.sbRelease g c q k i) s = .next s := (exec_sbRelease h).trans (if_pos (by simp [hdone]))

end Release

end Sys2Proof.Machine
end

section
/-!
O31: the hang watchdog (R148, R149).
-/

namespace Sys2Proof.Machine

section Noted

variable {g c : Nat} {s : State}

/-- A blocked descriptor of a context: its queue, the descriptor and what it waits on (R149). -/
abbrev Blocked := Nat × Desc × Nat × Nat × Nat

/-- The blocked descriptors of a context, one of a queue at most. -/
def blockedDescs (s : State) (g c : Nat) : List Blocked :=
  (List.range 8).filterMap fun q => (oldest s g c q).bind fun d => (blockedOn s g c d).map fun b => (q, d, b)

theorem mem_blockedDescs {q : Nat} {d : Desc} {b : Nat × Nat × Nat} (hq : q < 8) (hd : oldest s g c q = some d)
    (hb : blockedOn s g c d = some b) : (q, d, b) ∈ blockedDescs s g c := by
  refine List.mem_filterMap.mpr ⟨q, List.mem_range.mpr hq, ?_⟩
  rw [hd, Option.bind_some, hb, Option.map_some]

/-- The HANG record of one blocked descriptor. -/
def hangRecord (s : State) (g c cyc : Nat) (t : State) (e : Blocked) : State :=
  ledger (seraiPage (corePart g)) 0x80 (seraiDetail e.2.2.1 e.2.2.2.1 (ctxId g c) (e.1 + 8 * cyc)
    (absWb (ctxAt s (ctxId g c)) e.1 e.2.1.k) e.2.2.2.2 0) t

/-- The watchdog has recorded what the context is blocked on, counted its firing and raised HANG (R149). -/
def hangNoted (s : State) (g c cyc : Nat) : State :=
  raise (seraiPage (corePart g)) 16 (count (seraiPage (corePart g)) .seraiWdogFires 1 ((blockedDescs s g c).foldl (hangRecord s g c cyc) s))

theorem hangRecord_upd (s : State) (g c cyc : Nat) (t : State) (e : Blocked) : Upd ledgerParts t (hangRecord s g c cyc t e) := ledger_upd ..

theorem hangRecords_upd (s : State) (g c cyc : Nat) (l : List Blocked) : Upd ledgerParts s (l.foldl (hangRecord s g c cyc) s) :=
  Upd.foldl (Upd.refl s) fun t e ht => ht.step rfl (hangRecord_upd s g c cyc t e)

theorem hangNoted_upd (s : State) (g c cyc : Nat) : Upd (.regSerai :: ledgerParts) s (hangNoted s g c cyc) :=
  ((Upd.mono rfl (hangRecords_upd ..)).step rfl (count_upd ..)).step rfl (raise_upd ..)

theorem hangNoted_irq (s : State) (g c cyc : Nat) : bit (rd (hangNoted s g c cyc) (seraiPage (corePart g)) .hdrIrqStat) 16 = 1 :=
  bit_rd_raise (by decide) ..

theorem hangNoted_fires (s : State) (g c cyc : Nat) : rd (hangNoted s g c cyc) (seraiPage (corePart g)) .seraiWdogFires =
    min (2 ^ 16 - 1) (rd s (seraiPage (corePart g)) .seraiWdogFires + 1) := by
  have hrecords : rd ((blockedDescs s g c).foldl (hangRecord s g c cyc) s) (seraiPage (corePart g)) .seraiWdogFires =
      rd s (seraiPage (corePart g)) .seraiWdogFires := (hangRecords_upd ..).same .regSerai rfl _ _ _ rfl
  rw [hangNoted, rd, rdi_raise_fld (by decide), ← hrecords]
  exact rd_count_same ..

theorem hangNoted_action (s : State) (g c cyc : Nat) :
    rd (hangNoted s g c cyc) (seraiPage (corePart g)) .seraiWdogAction = rd s (seraiPage (corePart g)) .seraiWdogAction := by
  rw [hangNoted, rd, rdi_raise_fld (by decide), count, rdi_counti_fld (by decide)]
  exact (hangRecords_upd ..).same .regSerai rfl _ _ _ rfl

end Noted

section Halted

variable {g c q k : Nat} {d : Desc} {s : State}

/-- The context in which a blocked descriptor ends without having started: it stands among the started ones (R149). -/
def Ctx.hung (x : Ctx) (q : Nat) (d : Desc) : Ctx :=
  x.putQ q { loaded := d.k, idle := none, live := (x.q q).live ++ [{ k := d.k, img := d.img, began := true }] }

theorem hangDesc_endWork (g c q : Nat) (d : Desc) (s : State) : hangDesc g c q d s =
    endWork g c q d.k .fault 0 0x24 (putCtx (ctxId g c) ((ctxAt s (ctxId g c)).hung q d) s) := rfl

theorem hangDesc_ctx (g c q : Nat) (d : Desc) (s : State) :
    ctxAt (hangDesc g c q d s) (ctxId g c) = (((ctxAt s (ctxId g c)).hung q d).ended q d.k .fault 0 0x24).halted := by
  rw [hangDesc_endWork, (endWork_fault_ctx ..).here, ctxAt_putCtx_same]

theorem hangDesc_ended (g c q : Nat) (d : Desc) (s : State) : Ended g c q d.k .fault (hangDesc g c q d s) := by
  rw [hangDesc_endWork]
  refine Started.endsFault ⟨{ k := d.k, img := d.img, began := true }, ?_, rfl⟩ ..
  rw [ctxAt_putCtx_same, Ctx.hung, q_putQ_same]
  exact List.mem_append_right _ (List.mem_singleton_self _)

theorem Ctx.halted_st {x : Ctx} (h : x.st = .running ∨ x.st = .halted) : x.halted.st = .halted := by
  rw [Ctx.halted]
  obtain h | h := h <;> simp [h]

theorem hangDesc_halts (h : (ctxAt s (ctxId g c)).st = .running ∨ (ctxAt s (ctxId g c)).st = .halted) (q : Nat) (d : Desc) :
    (ctxAt (hangDesc g c q d s) (ctxId g c)).st = .halted := by
  rw [hangDesc_ctx]
  exact Ctx.halted_st h

/-- Work that has ended with a status keeps it where the queue's work `n` ends with the same one. -/
theorem exists_ended_mapWork {x : QState} {st : DStat} {n exc detail : Nat} (h : ∃ w, w ∈ x.live ∧ w.k = k ∧ w.stat = some st) :
    ∃ w, w ∈ (x.mapWork n fun w => { w with stat := some st, exc := exc, detail := detail, began := true }).live ∧ w.k = k ∧
      w.stat = some st := by
  obtain ⟨w, hw, hk, hstat⟩ := h
  refine ⟨_, List.mem_map_of_mem hw, ?_, ?_⟩
  · split
    · exact hk
    · exact hk
  · split
    · rfl
    · exact hstat

/-- What has ended FAULT stays so while other descriptors of the context hang. -/
theorem Ended.hangDesc (h : Ended g c q k .fault s) (i : Nat) (d : Desc) : Ended g c q k .fault (hangDesc g c i d s) := by
  rw [Ended, hangDesc_ctx, Ctx.q, Ctx.halted_qs, ← Ctx.q]
  obtain ⟨w, hw, hk, hstat⟩ := h
  by_cases hq : q = i
  · subst hq
    rw [Ctx.ended, q_putQ_same]
    refine exists_ended_mapWork ⟨w, ?_, hk, hstat⟩
    rw [Ctx.hung, q_putQ_same]
    exact List.mem_append_left _ hw
  · rw [Ctx.ended, q_putQ_other hq, Ctx.hung, q_putQ_other hq]
    exact ⟨w, hw, hk, hstat⟩

theorem hangDesc_rises (g c q : Nat) (d : Desc) (s : State) : IrqRises s (hangDesc g c q d s) := by
  have hput : IrqRises s (putCtx (ctxId g c) ((ctxAt s (ctxId g c)).hung q d) s) := .of_upd (putCtx_upd ..) rfl
  rw [hangDesc_endWork]
  exact hput.trans (endWork_rises ..)

end Halted

section Hangs

variable {g c : Nat} {l : List Blocked} {s : State}

/-- One blocked descriptor after the other ends FAULT. -/
def hangAll (g c : Nat) (l : List Blocked) (s : State) : State := l.foldl (fun t e => hangDesc g c e.1 e.2.1 t) s

theorem hangAll_ended {e : Blocked} (he : e ∈ l) (s : State) : Ended g c e.1 e.2.1.k .fault (hangAll g c l s) :=
  foldl_reaches (Q := Ended g c e.1 e.2.1.k .fault) he (fun t => hangDesc_ended g c e.1 e.2.1 t) fun _ y ht => ht.hangDesc y.1 y.2.1

theorem hangAll_halts {e : Blocked} (he : e ∈ l) (hst : (ctxAt s (ctxId g c)).st = .running) :
    (ctxAt (hangAll g c l s) (ctxId g c)).st = .halted := by
  cases l with
  | nil => cases he
  | cons y l =>
    rw [hangAll, List.foldl_cons]
    exact foldl_keeps (Q := fun t => (ctxAt t (ctxId g c)).st = .halted) (hangDesc_halts (.inl hst) y.1 y.2.1) fun t z ht =>
      hangDesc_halts (.inr ht) z.1 z.2.1

theorem hangAll_rises (g c : Nat) (l : List Blocked) (s : State) : IrqRises s (hangAll g c l s) :=
  (IrqRises.refl s).foldl fun t e => hangDesc_rises g c e.1 e.2.1 t

theorem hangAll_serai (g c : Nat) (l : List Blocked) (s : State) (p : Nat) : rd (hangAll g c l s) p .seraiWdogFires = rd s p .seraiWdogFires :=
  foldl_keeps (Q := fun t => rd t p .seraiWdogFires = rd s p .seraiWdogFires) rfl fun t e ht =>
    Eq.trans ((hangDesc_upd g c e.1 e.2.1 t).same .regSerai rfl _ _ _ rfl) ht

end Hangs

section Watchdog

variable {g c : Nat} {s : State}

/-- The watchdog of a context fires: it watches and serves, and a descriptor other than EPOCH_WAIT is blocked (R148). -/
structure WdogDue (g c : Nat) (s : State) : Prop where
  running : (ctxAt s (ctxId g c)).st = .running
  journal : (ctxAt s (ctxId g c)).journal ≠ 2
  watches : rd s (seraiPage (corePart g)) .seraiWdogEn = 1
  serves : partServes s (corePart g) = true
  free : corePart g ∉ s.partHold
  unfenced : rd s (coreUnit g).page .hdrFenced = 0
  blocked : ∃ e, e ∈ blockedDescs s g c ∧ dType e.2.1.img ≠ 0x11

theorem exec_wdogFire (h : WdogDue g c s) : ∃ cyc, exec (.wdogFire g c) s =
    if rd s (seraiPage (corePart g)) .seraiWdogAction = 0 then .next (hangNoted s g c cyc)
    else .next (hangAll g c (blockedDescs s g c) (hangNoted s g c cyc)) := by
  obtain ⟨running, journal, watches, serves, free, unfenced, e, he, htype⟩ := h
  have hall : (blockedDescs s g c).all (fun e => dType e.2.1.img = 0x11 && waitsMet (ctxAt s (ctxId g c)) e.2.1.img) = false :=
    List.all_eq_false.mpr ⟨e, he, by simp [htype]⟩
  have hguard : ((ctxAt s (ctxId g c)).st != .running || (ctxAt s (ctxId g c)).journal = 2 || rd s (seraiPage (corePart g)) .seraiWdogEn = 0 ||
      !partServes s (corePart g) || s.partHold.contains (corePart g) || rd s (coreUnit g).page .hdrFenced = 1 ||
      (blockedDescs s g c).all fun e => dType e.2.1.img = 0x11 && waitsMet (ctxAt s (ctxId g c)) e.2.1.img) = false := by
    simp [running, journal, watches, serves, free, unfenced, hall]
  refine ⟨if waitCycle s g c then 1 else 0, ?_⟩
  rw [← hangNoted_action s g c (if waitCycle s g c then 1 else 0)]
  show execWdogFire g c s = _
  rw [execWdogFire]
  exact if_neg (by rw [← blockedDescs, hguard]; decide)

/-- What a firing of the watchdog leaves: HANG and its count, and the contexts as the page's action says (R149). -/
theorem wdogFire_fires (h : WdogDue g c s) :
    ∃ t, exec (.wdogFire g c) s = .next t ∧ bit (rd t (seraiPage (corePart g)) .hdrIrqStat) 16 = 1 ∧
      rd t (seraiPage (corePart g)) .seraiWdogFires = min (2 ^ 16 - 1) (rd s (seraiPage (corePart g)) .seraiWdogFires + 1) ∧
      (rd s (seraiPage (corePart g)) .seraiWdogAction = 0 → t.ctxs = s.ctxs ∧ t.runs = s.runs) ∧
      (rd s (seraiPage (corePart g)) .seraiWdogAction ≠ 0 → (ctxAt t (ctxId g c)).st = .halted ∧
        ∀ q d b, q < 8 → oldest s g c q = some d → blockedOn s g c d = some b → Ended g c q d.k .fault t) := by
  obtain ⟨cyc, hexec⟩ := exec_wdogFire h
  have hctxs : (hangNoted s g c cyc).ctxs = s.ctxs := (hangNoted_upd ..).same .ctxs rfl
  by_cases haction : rd s (seraiPage (corePart g)) .seraiWdogAction = 0
  · rw [if_pos haction] at hexec
    exact ⟨_, hexec, hangNoted_irq .., hangNoted_fires .., fun _ => ⟨hctxs, (hangNoted_upd ..).same .runs rfl⟩,
      fun hno => absurd haction hno⟩
  · rw [if_neg haction] at hexec
    obtain ⟨e, he, -⟩ := h.blocked
    have hrunning : (ctxAt (hangNoted s g c cyc) (ctxId g c)).st = .running := by rw [ctxAt_congr hctxs, h.running]
    refine ⟨_, hexec, (hangAll_rises ..).keeps _ 16 (by decide) (hangNoted_irq ..), ?_, fun hno => absurd hno haction, fun _ =>
      ⟨hangAll_halts he hrunning, fun q d b hq hd hb => hangAll_ended (mem_blockedDescs hq hd hb) _⟩⟩
    rw [hangAll_serai, hangNoted_fires]

end Watchdog

/-- Settles O31: the watchdog notes the hang and, with HALT, ends every blocked descriptor; claims stand behind the entries, a refused
start is counted, and a release takes its own entry. -/
theorem watchdogAndScoreboard : Obligations.WatchdogAndScoreboard := by
  refine ⟨?wdog, ?claim, ?refused, ?release⟩
  case wdog =>
    intro g c s _ _ _ hrun hjournal hen hserves hhold hfenced ⟨q, d, b, hq, hd, hb, htype⟩
    exact wdogFire_fires ⟨hrun, hjournal, hen, hserves, hhold, hfenced, _, mem_blockedDescs hq hd hb, htype⟩
  case claim =>
    intro g c q d x spans s _ hx hidle hspans href hnone hroom
    exact sbClaim_places hx hidle hspans href hnone hroom
  case refused =>
    intro g c q s _ _ href
    exact ⟨_, exec_descStart_refused href, (noteRefused_upd ..).same, noteRefused_counts g c q s⟩
  case release =>
    intro g c q k i w p e s _ hsettled hstarted hspan hentry
    have holds : SbHolds g c q k i w p e s := ⟨hsettled, hstarted, hspan, hentry⟩
    exact ⟨sbRelease_frees holds, sbRelease_waits holds⟩

end Sys2Proof.Machine
end

section
/-!
O20: what a completion leaves of its session and of the registers, and what a host abort does to runs and contexts (R121, R430-R432,
R437).
-/

namespace Sys2Proof.Machine

section Completion

variable {x : Nat} {s : State}

/-- The tail shadow changes neither the session's fetched entry nor a register (R431). -/
theorem tailShadow_keeps (x : Nat) (s : State) :
    (sessAt (tailShadow x s) x).fetched = (sessAt s x).fetched ∧ (tailShadow x s).regs = s.regs := by
  have htold : (sessAt (tailTold x s) x).fetched = (sessAt s x).fetched := by
    have hput : sessAt (tailTold x s) x = { sessAt s x with acked := [] } := sessAt_putSess_same ..
    rw [hput]
  unfold tailShadow
  dsimp only
  split
  · exact ⟨rfl, rfl⟩
  · split
    · exact ⟨htold, rfl⟩
    · exact ⟨htold, rfl⟩

theorem cqPut_fetched (x : Nat) (bytes : List Byte) (s : State) : (sessAt (cqPut x bytes s) x).fetched = (sessAt s x).fetched := by
  have hput : sessAt (cqPut x bytes s) x = { sessAt s x with reserved := (sessAt s x).reserved - 1 } := sessAt_putSess_same ..
  rw [hput]

/-- A record in the ring takes no entry, and moves no register but the tail (R431). -/
theorem cqWrite_keeps (x : Nat) (bytes : List Byte) (irq : Bool) (s : State) :
    (sessAt (cqWrite x bytes irq s) x).fetched = (sessAt s x).fetched ∧ (cqWrite x bytes irq s).regs = (cqPut x bytes s).regs := by
  unfold cqWrite
  extract_lets tail sent p e
  have he : e.fetched = (sessAt s x).fetched := cqPut_fetched x bytes s
  split
  · obtain ⟨hfetched, hregs⟩ := tailShadow_keeps x (putSess x { e with acked := e.acked ++ [irq] } p)
    rw [sessAt_putSess_same] at hfetched
    exact ⟨hfetched.trans he, hregs⟩
  · rw [sessAt_putSess_same]
    exact ⟨he, rfl⟩

theorem entryDone_fetched (x : Nat) (e : List Byte) (r : CmdRecord) (s : State) :
    (sessAt (entryDone x e r s) x).fetched = (sessAt s x).fetched := (cqWrite_keeps ..).1

theorem regsBut_entryDone (hx : x < 64) (e : List Byte) (r : CmdRecord) (s : State) :
    RegsBut [(pgHif, .hifCqTail, x)] s (entryDone x e r s) := by
  have hmod : x % 16384 = x := Nat.mod_eq_of_lt (by omega)
  have hmem : (homePage pgHif .hifCqTail, Fld.hifCqTail, x % 16384) ∈ [(pgHif, Fld.hifCqTail, x)] := by
    rw [hmod]
    exact List.mem_singleton.mpr rfl
  have hput (bytes : List Byte) : RegsBut [(pgHif, .hifCqTail, x)] s (cqPut x bytes s) :=
    fun p f i hn => regsBut_wri (s := cqUnreserve x (sessWrite x (cqSlotAddr s x) bytes s)) hmem _ p f i hn
  exact (hput _).trans (RegsBut.of_regs (cqWrite_keeps ..).2)

theorem endLoad_fetched {c : LoadCmd} (e : LoadEnd) (h : reportable s c.body = true) :
    (sessAt (endLoad c e s) c.sess).fetched = (sessAt s c.sess).fetched := by
  rw [endLoad_reportable h]
  exact (cqWrite_keeps ..).1.trans (congrArg Sess.fetched (sessAt_congr ((spineWrite_upd ..).same .sess rfl) _))

end Completion

section Abort

variable {n id : Nat} {r : Run} {l : List Nat} {s : State}

/-- A host abort of every run of a list (R437). -/
def abortAll (l : List Nat) (s : State) : State := l.foldl (fun t n => abortRun n t) s

@[simp] theorem abortAll_cons (n : Nat) (l : List Nat) (s : State) : abortAll (n :: l) s = abortAll l (abortRun n s) := rfl

theorem abortAll_upd (l : List Nat) (s : State) : Upd [.ctxs, .runs, .spads] s (abortAll l s) :=
  (Upd.refl s).foldl fun _ _ ht => ht.trans (abortRun_upd ..)

theorem runAt_putRun_other {m : Nat} (h : n ≠ m) (u : Option Run) (s : State) : runAt (putRun m u s) n = runAt s n := SMap.get_set_other h

theorem runAt_abortRun_other {m : Nat} (h : n ≠ m) (s : State) : runAt (abortRun m s) n = runAt s n := by
  unfold abortRun
  split
  · rfl
  · exact (runAt_congr ((haltRun_upd ..).same .runs rfl) n).trans (runAt_putRun_other h ..)

/-- The aborts change neither a run outside the list nor one that is marked already. -/
theorem runAt_abortAll_kept (h : n ∉ l ∨ r.aborted = true) (hr : runAt s n = some r) : runAt (abortAll l s) n = some r := by
  induction l generalizing s with
  | nil => exact hr
  | cons m l ih =>
    refine ih (h.imp_left List.not_mem_of_not_mem_cons) ?_
    by_cases hm : n = m
    · subst hm
      have hmarked : ({ r with aborted := true } : Run) = r := by rw [← h.resolve_left (by simp)]
      rw [runAt_abortRun hr, hmarked]
    · rw [runAt_abortRun_other hm, hr]

theorem runAt_abortAll (hn : n ∈ l) (hr : runAt s n = some r) : runAt (abortAll l s) n = some { r with aborted := true } := by
  induction l generalizing s with
  | nil => cases hn
  | cons m l ih =>
    by_cases hm : n = m
    · subst hm
      rw [abortAll_cons]
      exact runAt_abortAll_kept (.inr rfl) (runAt_abortRun hr)
    · exact ih ((List.mem_cons.mp hn).resolve_left hm) ((runAt_abortRun_other hm s).trans hr)

theorem Ctx.halted_run (x : Ctx) : x.halted.run = x.run := by
  unfold Ctx.halted
  split <;> rfl

/-- What no halt of a context undoes, no host abort of a run undoes. -/
theorem abortRun_keeps {Q : Ctx → Prop} (hQ : ∀ y, Q y → Q y.halted) (n : Nat) (h : Q (ctxAt s id)) :
    Q (ctxAt (abortRun n s) id) := by
  unfold abortRun
  split
  · exact h
  · refine foldl_keeps (Q := fun t => Q (ctxAt t id)) h fun t j ht => ?_
    obtain hsame | hhalted := ctxAt_haltCtx (j / 4) (j % 4) id t
    · exact hsame ▸ ht
    · exact hhalted ▸ hQ _ ht

theorem abortRun_stops (hr : runAt s n = some r) (hid : id ∈ r.ctxs) (hrun : (ctxAt s id).run = n) :
    (ctxAt (abortRun n s) id).Stopped := by
  rw [abortRun, hr]
  exact haltRun_stops hid hrun

theorem abortAll_stops (hn : n ∈ l) (hr : runAt s n = some r) (hid : id ∈ r.ctxs) (hrun : (ctxAt s id).run = n) :
    (ctxAt (abortAll l s) id).Stopped := by
  induction l generalizing s with
  | nil => cases hn
  | cons m l ih =>
    by_cases hm : n = m
    · subst hm
      rw [abortAll_cons]
      have hstops := abortRun_stops hr hid hrun
      exact foldl_keeps (Q := fun t => (ctxAt t id).Stopped) hstops fun _ j ht => abortRun_keeps (fun y _ => y.halted_stopped) j ht
    · refine ih ((List.mem_cons.mp hn).resolve_left hm) ((runAt_abortRun_other hm s).trans hr) ?_
      exact abortRun_keeps (Q := fun y => y.run = n) (fun y hy => y.halted_run.trans hy) m hrun

end Abort

end Sys2Proof.Machine
end

section
/-!
O20: the commands of a submission entry that start no run (R153, R167, R429, R432, R437).
-/

namespace Sys2Proof.Machine

/-! The taken entry is no part of what an access to memory or a load query looks at. -/

theorem spanGone_takeEntry (x a n : Nat) (s : State) : spanGone (takeEntry x s) a n = spanGone s a n := by
  have hpart (k : Nat) : partState (takeEntry x s) k = partState s k := rfl
  simp only [spanGone, hpart]
  rfl

theorem reportable_takeEntry (x : Nat) (b : List Byte) (s : State) : reportable (takeEntry x s) b = reportable s b := by
  rw [reportable, spanGone_takeEntry]
  rfl

theorem queryBytes_takeEntry (x g : Nat) (s : State) : queryBytes (takeEntry x s) g = queryBytes s g := rfl

section Commands

variable {x g : Nat} {e : List Byte} {s : State}

theorem exec_sqNop (h : fetchedOp s x 1 = some e) : exec (.sqNop x) s = .next (entryDone x e {} (takeEntry x s)) := by
  show execSqNop x s = _
  rw [execSqNop, h]

/-- The load that a fetched LOAD asks for (R153). -/
def loadOf (x : Nat) (e : List Byte) : LoadCmd :=
  { sess := x, tag := fieldAt e 4 31 0, noirq := fieldAt e 1 0 0 = 1, body := slice e 8 36 }

/-- The end of a load that finds the queue full (R153). -/
def queueFull : LoadEnd := { result := 0x1C, stage := 7 }

/-- A load that is refused before its fields are looked at has no findings. -/
theorem loadRecord_queueFull (x : Nat) (e : List Byte) : loadRecord (loadOf x e) queueFull =
    { tag := fieldAt e 4 31 0, opcode := 2, result := 0x1C, cstat := 4 } := by
  simp [loadRecord, loadOf, queueFull, LoadEnd.fit]

/-- A fetched LOAD of a session that is not CLOSING, the device being in service and in P0 or P1. -/
structure LoadTaken (x : Nat) (e : List Byte) (s : State) : Prop where
  fetched : fetchedOp s x 2 = some e
  unclosed : sessState s x ≠ 2
  serves : rd s 0x2028 .fltDevService ≠ 2
  powered : pstate s ≤ 1

theorem exec_sqLoad_taken (h : LoadTaken x e s) : exec (.sqLoad x) s =
    if 16 ≤ s.loadQ.length then
      .next ((reportHeld s (slice e 8 36)).getD (endLoad (loadOf x e) queueFull (takeEntry x s)))
    else .next { takeEntry x s with loadQ := s.loadQ ++ [loadOf x e] } := by
  obtain ⟨hfetched, hopen, hserves, hpowered⟩ := h
  have hpower : ¬(decide (rd s 0x2028 .fltDevService = 2) || decide (pstate s = 2) || decide (pstate s = 3)) = true := by
    simp only [Bool.or_eq_true, decide_eq_true_eq]
    omega
  show execSqLoad x s = _
  rw [execSqLoad, hfetched]
  dsimp only
  rw [if_neg hopen, if_neg hpower]
  by_cases hfull : 16 ≤ s.loadQ.length
  · rw [if_pos hfull, if_pos hfull]
    dsimp only
    cases reportHeld s (slice e 8 36) <;> rfl
  · rw [if_neg hfull, if_neg hfull]
    rfl

theorem exec_loadQuery (h : fetchedOp s x 3 = some e) (hg : coreOfPage (fieldAt e 8 13 0) = some g)
    (hheld : spineHeld (fieldAt e 0x10 63 0) 32 true s = none) (hgone : spanGone s (fieldAt e 0x10 63 0) 32 = false) :
    exec (.loadQuery x) s = .next (entryDone x e {} (spineWrite (fieldAt e 0x10 63 0) (queryBytes s g) (takeEntry x s))) := by
  have hquery : loadQuery x e s = entryDone x e {} (spineWrite (fieldAt e 0x10 63 0) (queryBytes s g) (takeEntry x s)) := by
    simp only [loadQuery, hg, Option.elim_some, hheld, spanGone_takeEntry, hgone, Bool.false_eq_true, if_false, queryBytes_takeEntry]
  show execLoadQuery x s = _
  rw [execLoadQuery, h]
  dsimp only
  rw [hquery]

theorem exec_abort_none (h : fetchedOp s x 5 = some e) (hnone : abortTargets s x (fieldAt e 8 31 0) = []) :
    exec (.abort x) s = .next (entryDone x e { detail := 1 } (takeEntry x s)) := by
  have hempty : (abortTargets (takeEntry x s) x (fieldAt e 8 31 0)).isEmpty = true := List.isEmpty_iff.mpr hnone
  show execAbort x s = _
  rw [execAbort, h]
  dsimp only
  rw [if_pos hempty]

/-- The ABORT of entry `e` waits for the runs `l`, which have been aborted (R437). -/
def abortWaiting (x : Nat) (e : List Byte) (l : List Nat) (s : State) : State :=
  { abortAll l (takeEntry x s) with abortWaits := s.abortWaits ++ [⟨x, fieldAt e 4 31 0, fieldAt e 1 0 0 = 1, l⟩] }

theorem abortWaiting_upd (x : Nat) (e : List Byte) (l : List Nat) (s : State) :
    Upd [.ctxs, .runs, .spads, .sess, .abortWaits] s (abortWaiting x e l s) :=
  ((Upd.mono rfl (takeEntry_upd x s)).step rfl (abortAll_upd l _)).set_abortWaits rfl

theorem exec_abort_some (h : fetchedOp s x 5 = some e) (hsome : abortTargets s x (fieldAt e 8 31 0) ≠ []) :
    exec (.abort x) s = .next (abortWaiting x e (abortTargets s x (fieldAt e 8 31 0)) s) := by
  have hempty : ¬(abortTargets (takeEntry x s) x (fieldAt e 8 31 0)).isEmpty = true := fun hno => hsome (List.isEmpty_iff.mp hno)
  have hwaits (l : List Nat) : (abortAll l (takeEntry x s)).abortWaits = s.abortWaits := (abortAll_upd l _).same .abortWaits rfl
  show execAbort x s = _
  rw [execAbort, h]
  dsimp only
  rw [if_neg hempty, abortWaiting, ← hwaits]
  rfl

end Commands

/-- Settles O20: the entry is taken, and NOP, a LOAD that finds the queue full, LOAD_QUERY and an ABORT without targets complete at once;
any other LOAD is queued, and an ABORT with targets aborts each and waits. -/
theorem submissionCommands : Obligations.SubmissionCommands := by
  refine ⟨?nop, ?queued, ?full, ?query, ?abortNone, ?abortSome⟩
  case nop =>
    intro x e s hs hx hfetched
    have hdone := entryDone_completed hs (takeEntry_upd x s) rfl x e {}
    rw [opcode_of_fetchedOp hfetched] at hdone
    have hupd : Upd [.regRng, .sess, .outbox] s (entryDone x e {} (takeEntry x s)) :=
      (Upd.mono rfl (takeEntry_upd x s)).step rfl (entryDone_upd ..)
    have hregs : RegsBut [(pgHif, .hifCqTail, x)] s (takeEntry x s) := RegsBut.of_regs rfl
    exact ⟨_, exec_sqNop hfetched, hdone, (entryDone_fetched ..).trans (takeEntry_fetched x s), hregs.trans (regsBut_entryDone hx e {} _),
      hupd.same⟩
  case queued =>
    intro x e s _ hfetched hopen hserves hpowered hroom
    have hexec := exec_sqLoad_taken ⟨hfetched, hopen, hserves, hpowered⟩
    rw [if_neg (Nat.not_le_of_lt hroom)] at hexec
    have hupd : Upd [.loadQ, .sess] s { takeEntry x s with loadQ := s.loadQ ++ [loadOf x e] } :=
      (Upd.mono rfl (takeEntry_upd x s)).set_loadQ rfl
    exact ⟨_, hexec, rfl, takeEntry_fetched x s, hupd.same⟩
  case full =>
    intro x e s hs _ hfetched hopen hserves hpowered hfull hreport hheld
    have hexec := exec_sqLoad_taken ⟨hfetched, hopen, hserves, hpowered⟩
    rw [if_pos hfull, hheld, Option.getD_none] at hexec
    have hkept : RingKept s (takeEntry x s) := .of_upd (takeEntry_upd x s) rfl
    have hreport' : reportable (takeEntry x s) (loadOf x e).body = true := (reportable_takeEntry ..).trans hreport
    have hended := endLoad_completed (e := queueFull) ((takeEntry_upd x s).ok hs) hreport'
    rw [loadRecord_queueFull] at hended
    have hdone : Completed x _ s _ := hended.of_ringKept hkept
    exact ⟨_, hexec, hdone, (endLoad_upd ..).same .loadQ rfl, (endLoad_fetched _ hreport').trans (takeEntry_fetched x s)⟩
  case query =>
    intro x g e s hs _ hfetched hg hheld hgone
    have hexec := exec_loadQuery hfetched hg hheld hgone
    set t := spineWrite (fieldAt e 0x10 63 0) (queryBytes s g) (takeEntry x s)
    have hwrite := spineWrite_upd (fieldAt e 0x10 63 0) (queryBytes s g) (takeEntry x s)
    have hupd : Upd runReadParts s t := (Upd.mono rfl (takeEntry_upd x s)).step rfl hwrite
    have hdone := entryDone_completed hs hupd rfl x e {}
    rw [opcode_of_fetchedOp hfetched] at hdone
    have htaken : (sessAt t x).fetched = none := by
      rw [sessAt_congr (hwrite.same .sess rfl), takeEntry_fetched]
    exact ⟨hexec, _, hexec, hdone, (entryDone_fetched ..).trans htaken⟩
  case abortNone =>
    intro x e s hs _ hfetched hnone
    have hdone := entryDone_completed hs (takeEntry_upd x s) rfl x e { detail := 1 }
    rw [opcode_of_fetchedOp hfetched] at hdone
    have hupd : Upd [.outbox, .regRng, .sess] s (entryDone x e { detail := 1 } (takeEntry x s)) :=
      (Upd.mono rfl (takeEntry_upd x s)).step rfl (entryDone_upd ..)
    exact ⟨_, exec_abort_none hfetched hnone, hdone, hupd.same .runs rfl, hupd.same .ctxs rfl⟩
  case abortSome =>
    intro x e s _ hfetched hsome
    refine ⟨_, exec_abort_some hfetched hsome, rfl, fun n r hn hr => ?_, (abortWaiting_upd ..).same⟩
    have hr' : runAt (takeEntry x s) n = some r := hr
    exact ⟨runAt_abortAll hn hr', fun id hid hrun => abortAll_stops hn hr' hid hrun⟩

end Sys2Proof.Machine
end

section
/-!
O37: a LOAD whose context number lies past its core's four contexts (R218, R457).
-/

namespace Sys2Proof.Machine

/-- A LOAD of four elements that has started in context 3 of core 7, context 31 of the device; its memory is local and mapped. -/
def loadStarted : State := Tests.moveIn 2 (Tests.moveDesc 0x60 2 4 0xFFFF [])

/-- The started LOAD. -/
def loadWork : Work := ((ctxAt loadStarted 31).q qLd).live.headD {}

theorem loadStarted_ok : loadStarted.Ok := Tests.test_load.1

/-- Context 7 of core 6 is numbered as context 3 of core 7 is, so that a LOAD of that name finds the started descriptor. -/
theorem loadStarted_current : currentWork loadStarted 6 7 qLd [0x60] = some loadWork ∧ loadWork.began = false := by decide +kernel

/-- Moved by core 6, the LOAD is local, translates to one piece of DRAM, meets no fault and waits for nothing. -/
theorem loadStarted_moves :
    (localMove loadStarted 6 7 loadWork).1.remote = false ∧
    (memBind ((runAt loadStarted (ctxAt loadStarted (ctxId 6 7)).run).getD {}) (localMove loadStarted 6 7 loadWork).1.mem).remote = false ∧
    (localMove loadStarted 6 7 loadWork).2.2 = .ok [[(0x4000, 16)]] ∧ (localMove loadStarted 6 7 loadWork).2.1.stop = none ∧
    localWait loadStarted 6 7 loadWork = none := by decide +kernel

/-- Before the move no work of the queue has ended. -/
theorem loadStarted_unended : ∀ w ∈ ((ctxAt loadStarted (ctxId 6 7)).q qLd).live, w.stat = none := by decide +kernel

/-- Refutes O37: the clause on a movement that completes has no premise `c < 4`. In `loadStarted` the LOAD of context 7 of core 6 completes
the descriptor of context 31, which is no context of core 6 (31 / 4 = 7), and yet the clause leaves the contexts of other cores as they
were. -/
theorem not_movementDescriptors : ¬ Obligations.MovementDescriptors := by
  rintro ⟨hlocal, -, -, -⟩
  obtain ⟨hcurrent, hbegan⟩ := loadStarted_current
  obtain ⟨hremote, hbind, hruns, hstop, hwait⟩ := loadStarted_moves
  obtain ⟨hcompletes, -⟩ := hlocal 6 7 qLd 0x60 (.load 6 7) loadWork loadStarted List.mem_cons_self hcurrent hbegan hremote fun _ => hbind
  obtain ⟨t, st, -, ⟨v, hv, -, hstat⟩, -, -, hothers, -⟩ := hcompletes _ hruns hstop hwait
  have hkept : ctxAt t (ctxId 6 7) = ctxAt loadStarted (ctxId 6 7) := hothers _ (by decide)
  rw [hkept] at hv
  exact Option.some_ne_none st (hstat.symm.trans (loadStarted_unended v hv))

end Sys2Proof.Machine
end

section
/-!
O38: two flights of one bank-command descriptor, one of which its last record ends (R273, R281).
-/

namespace Sys2Proof.Machine

/-- The record that has arrived from the one unit of the flight. -/
def lastRecord : BkRec := ⟨0, 128, leBytes 128 5, false⟩

/-- The flight of a BK_DOT whose unit has not reported yet. -/
def unreportedFlight : BkFlight := { Tests.dotF with granted := true, uploaded := true, arrived := [lastRecord] }

/-- The same flight once its unit has reported COMPLETED. -/
def reportedFlight : BkFlight := { unreportedFlight with reports := [{}] }

/-- The BK_DOT with both flights: a state in canonical form. -/
def twiceFlown : State := { Tests.bkIn Tests.dotD with flights := [unreportedFlight, reportedFlight] }

theorem twiceFlown_ok : twiceFlown.Ok := ((Upd.refl _).set_flights (m := [.flights]) rfl).ok Tests.test_bkDot.1

/-- Neither flight is done, and the record has arrived for the first. -/
theorem twiceFlown_arrived : flightOf twiceFlown 7 3 1 = some unreportedFlight ∧
    (unreportedFlight.arrived.find? fun r => r.unit = ckOf 0 0 * 32 + 0) = some lastRecord ∧ twiceFlown.flights.filter BkFlight.isDone = [] ∧
    unreportedFlight.reports.length ≠ unreportedFlight.chans.length * unreportedFlight.banks.length := by decide +kernel

/-- The record is taken from both flights, which ends the second, and with it the descriptor. -/
theorem twiceFlown_ends : Tests.ran (.recordWrite 7 3 1 0 0) twiceFlown (fun t => flightOf t 7 3 1 = none) = true := by decide +kernel

/-- Refutes O38: the clause of RECORD_WRITE has no premise that a descriptor has one flight alone. In `twiceFlown` the record is the last of
the second flight of the descriptor; writing it ends that one and removes both, while the clause keeps the first. -/
theorem not_bankDescriptors : ¬ Obligations.BankDescriptors := by
  rintro ⟨-, -, -, hrecord⟩
  obtain ⟨hflight, harrived, hdone, hreports⟩ := twiceFlown_arrived
  obtain ⟨t, hexec, hkept, -⟩ := hrecord 7 3 1 0 0 unreportedFlight lastRecord twiceFlown hflight harrived hdone hreports
  have hgone := twiceFlown_ends
  rw [Tests.ran, hexec] at hgone
  exact Option.some_ne_none _ (hkept.symm.trans (of_decide_eq_true hgone))

end Sys2Proof.Machine
end

section
/-!
Rules of the channel and the unit records, and what entering and leaving harness mode leaves alone (R252, R253).
-/

namespace Sys2Proof.Machine

theorem chanAt_putChan (i k : Nat) (x : Chan) (s : State) : chanAt (putChan i x s) k = if k = i then x else chanAt s k := SMap.get_set

@[simp] theorem chanAt_putChan_same (i : Nat) (x : Chan) (s : State) : chanAt (putChan i x s) i = x := SMap.get_set_same

theorem chanAt_putChan_other {i k : Nat} (h : k ≠ i) (x : Chan) (s : State) : chanAt (putChan i x s) k = chanAt s k := SMap.get_set_other h

theorem chanAt_congr {s t : State} (h : t.chans = s.chans) (k : Nat) : chanAt t k = chanAt s k := by rw [chanAt, h, ← chanAt]

theorem unitState_putUnit (i k : Nat) (u : BankUnit) (s : State) : unitState (putUnit i u s) k = if k = i then u else unitState s k :=
  SMap.get_set

@[simp] theorem unitState_putUnit_same (i : Nat) (u : BankUnit) (s : State) : unitState (putUnit i u s) i = u := SMap.get_set_same

theorem unitState_putUnit_other {i k : Nat} (h : k ≠ i) (u : BankUnit) (s : State) : unitState (putUnit i u s) k = unitState s k :=
  SMap.get_set_other h

theorem unitState_congr {s t : State} (h : t.units = s.units) (k : Nat) : unitState t k = unitState s k := by rw [unitState, h, ← unitState]

@[simp] theorem rdi_putChan (k : Nat) (x : Chan) (s : State) (p : Nat) (f : Fld) (i : Nat) : rdi (putChan k x s) p f i = rdi s p f i :=
  rdi_of_regs rfl p f i

@[simp] theorem rdi_putUnit (k : Nat) (u : BankUnit) (s : State) (p : Nat) (f : Fld) (i : Nat) : rdi (putUnit k u s) p f i = rdi s p f i :=
  rdi_of_regs rfl p f i

/-- A register outside the parts that an operation may change reads as before. -/
theorem Upd.rdi {m : List Part} {a b : State} (h : Upd m a b) {f : Fld} (hf : m.contains f.part = false) (p i : Nat) :
    rdi b p f i = Machine.rdi a p f i := by
  have hpart := h.same f.part hf
  have hreg := f.part_allRegs
  revert hpart hreg
  generalize hg : f.part = g
  intro hpart hreg
  simp only [allRegs, List.mem_cons, List.not_mem_nil, or_false] at hreg
  rcases hreg with rfl | rfl | rfl | rfl | rfl | rfl | rfl | rfl | rfl | rfl | rfl | rfl | rfl | rfl | rfl | rfl | rfl | rfl | rfl | rfl |
    rfl | rfl | rfl | rfl | rfl | rfl | rfl | rfl | rfl | rfl
  all_goals exact hpart p f i hg

theorem ckOf_stack {h : Nat} (hh : h < 32) (d : Nat) : ckOf d h / 32 = d := by
  rw [ckOf]
  omega

theorem ckOf_chan {h : Nat} (hh : h < 32) (d : Nat) : ckOf d h % 32 = h := by
  rw [ckOf]
  omega

/-- The first column of a channel lies in it. -/
@[simp] theorem chanKey_first (ck : Nat) : chanKey (colNo (ck / 32) (ck % 32) 0 0 0) = ck := by
  unfold chanKey colNo
  omega

/-- Of the channels, only `ck` is touched, and on it nothing that decides how requests are served. -/
structure OnlyChan (ck : Nat) (a b : State) : Prop extends Calm a b where
  other : ∀ k, k ≠ ck → chanAt b k = chanAt a k

namespace OnlyChan

variable {ck : Nat} {a b c : State}

theorem trans (h : OnlyChan ck a b) (h' : OnlyChan ck b c) : OnlyChan ck a c :=
  ⟨h.toCalm.trans h'.toCalm, fun k hk => (h'.other k hk).trans (h.other k hk)⟩

/-- A channel's mode is set after it: the other channels are as before. -/
theorem putChan (h : OnlyChan ck a b) (x : Chan) (k : Nat) (hk : k ≠ ck) : chanAt (putChan ck x b) k = chanAt a k :=
  (chanAt_putChan_other hk x b).trans (h.other k hk)

end OnlyChan

theorem noteCmd_onlyChan (cmd c : Nat) (s : State) : OnlyChan (chanKey c) s (noteCmd cmd c s) :=
  ⟨noteCmd_calm cmd c s, fun _ hk => chanAt_putChan_other hk _ s⟩

theorem preAll_onlyChan (ck : Nat) (s : State) : OnlyChan ck s (preAll ck s) := by
  have hnote := noteCmd_onlyChan 0x05 (colNo (ck / 32) (ck % 32) 0 0 0) s
  rw [chanKey_first] at hnote
  exact ⟨Calm.putChan rfl hnote.toCalm, hnote.putChan _⟩

theorem harnessCharge_onlyChan (ck d : Nat) (g : Option Nat) (n : Nat) (s : State) : OnlyChan ck s (harnessCharge d g n s) :=
  ⟨chargeAs_calm .., fun k _ => chanAt_congr ((harnessCharge_upd ..).same .chans rfl) k⟩

theorem writeHmr_onlyChan (ck : Nat) (g : Option Nat) (s : State) : OnlyChan ck s (writeHmr ck g s) := by
  have hnote := noteCmd_onlyChan 0x08 (colNo (ck / 32) (ck % 32) 0 0 0) (harnessCharge (ck / 32) g 32 s)
  rw [chanKey_first] at hnote
  exact (harnessCharge_onlyChan ..).trans hnote

/-- HMR after a precharge of the channel. -/
theorem hmrWritten_onlyChan (ck : Nat) (g : Option Nat) (s : State) : OnlyChan ck s (writeHmr ck g (preAll ck s)) :=
  (preAll_onlyChan ck s).trans (writeHmr_onlyChan ..)

theorem enterHarness_other {ck k : Nat} (hk : k ≠ ck) (s : State) : chanAt (enterHarness ck s) k = chanAt s k := by
  unfold enterHarness
  extract_lets ch q g mask t
  split
  · exact (hmrWritten_onlyChan ck g s).putChan _ k hk
  · rfl

/-- A channel that is off, NORMAL and not recalibrating begins entry where its port is open (R252). -/
theorem enterHarness_entering {ck : Nat} {s : State} (hoff : (chanAt s ck).hm = .off) (hst : (chanAt s ck).st = .normal)
    (hrecal : (chanAt s ck).recal = false) (hopen : ∀ g, harnessOpen s (ck / 32) g 32 = true) :
    (chanAt (enterHarness ck s) ck).hm = .entering := by
  unfold enterHarness
  extract_lets ch q g mask t
  rw [if_pos (by simp [ch, hoff, hst, hrecal, hopen]), chanAt_putChan_same]

/-- Entering harness mode leaves the registers that decide how requests are served. -/
theorem enterHarness_regs {f : Fld} (hf : f ∈ servingFlds) (ck p i : Nat) (s : State) : rdi (enterHarness ck s) p f i = rdi s p f i := by
  unfold enterHarness
  extract_lets ch q g mask t
  split
  · exact (hmrWritten_onlyChan ck g s).regs p f i hf
  · rfl

/-- A compact controller holds nothing back (R345). -/
theorem harnessOpen_compact {d : Nat} {s : State} (h : rd s (mcOf d).page .mcsQosMode = 0) (g : Option Nat) (n : Nat) :
    harnessOpen s d g n = true := by simp [harnessOpen, portOpen, qosOf, h]

end Sys2Proof.Machine
end

section
/-!
O39: harness mode of a channel and aborts from the BKU page (R252-R254, R270, R271, R283).
-/

namespace Sys2Proof.Machine

theorem hostWrites_of_reachable {u : UnitId} {s : State} (h : unitReachable s u = true) (f : State → State) : hostWrites u f s = f s :=
  if_pos h

/-! HM_REQ_WRITE: one channel after another. -/

/-- The write of HM_REQ on the first `n` channels of stack `d`. -/
def hmAsked (d n : Nat) (s : State) : State := forUpto n (fun c t => if hmReq t (ckOf d c) then enterHarness (ckOf d c) t else t) s

theorem hmAsked_succ (d n : Nat) (s : State) :
    hmAsked d (n + 1) s = if hmReq (hmAsked d n s) (ckOf d n) then enterHarness (ckOf d n) (hmAsked d n s) else hmAsked d n s :=
  forUpto_succ ..

theorem hmReqWrite_eq (d mask : Nat) (s : State) : hmReqWrite d mask s = hmAsked d 32 (wr (buOf d).page .bkuHmReq mask s) := rfl

theorem hmAsked_upd (d n : Nat) (s : State) : Upd [.regMcs, .chans, .servedBytes] s (hmAsked d n s) :=
  (Upd.refl s).forUpto fun _ _ ht => Upd.ite (fun _ => ht.trans (enterHarness_upd ..)) fun _ => ht

theorem hmReq_hmAsked (d n ck : Nat) (s : State) : hmReq (hmAsked d n s) ck = hmReq s ck := by
  rw [hmReq, rd, (hmAsked_upd d n s).rdi rfl, ← rd, ← hmReq]

theorem hmAsked_regs {f : Fld} (hf : f ∈ servingFlds) (d n p i : Nat) (s : State) : rdi (hmAsked d n s) p f i = rdi s p f i := by
  induction n with
  | zero => rfl
  | succ n ih =>
    rw [hmAsked_succ]
    split
    · exact (enterHarness_regs hf ..).trans ih
    · exact ih

/-- A channel that is not among the first `n`, or is not asked for, is as before. -/
theorem hmAsked_other {d n k : Nat} {s : State} (h : ∀ c, c < n → hmReq s (ckOf d c) = true → k ≠ ckOf d c) :
    chanAt (hmAsked d n s) k = chanAt s k := by
  induction n with
  | zero => rfl
  | succ n ih =>
    have hbefore := ih fun c hc => h c (by omega)
    rw [hmAsked_succ, hmReq_hmAsked]
    split
    case isTrue hreq => exact (enterHarness_other (h n (by omega) hreq) _).trans hbefore
    case isFalse => exact hbefore

theorem hmAsked_entering {d n h : Nat} {s : State} (hn : h < n) (hreq : hmReq s (ckOf d h) = true) (hoff : (chanAt s (ckOf d h)).hm = .off)
    (hst : (chanAt s (ckOf d h)).st = .normal) (hrecal : (chanAt s (ckOf d h)).recal = false)
    (hmode : rd s (mcOf (ckOf d h / 32)).page .mcsQosMode = 0) : (chanAt (hmAsked d n s) (ckOf d h)).hm = .entering := by
  induction n with
  | zero => omega
  | succ n ih =>
    rw [hmAsked_succ, hmReq_hmAsked]
    rcases Nat.lt_succ_iff_lt_or_eq.mp hn with hlt | rfl
    · have hbefore := ih hlt
      split
      · rw [enterHarness_other (by unfold ckOf; omega)]
        exact hbefore
      · exact hbefore
    · have hbefore : chanAt (hmAsked d h s) (ckOf d h) = chanAt s (ckOf d h) := hmAsked_other fun c hc _ => by unfold ckOf; omega
      rw [if_pos hreq]
      refine enterHarness_entering ?_ ?_ ?_ (fun g => harnessOpen_compact ?_ g 32)
      · rw [hbefore, hoff]
      · rw [hbefore, hst]
      · rw [hbefore, hrecal]
      · rw [rd, hmAsked_regs (by decide), ← rd, hmode]

/-! AB_GO. -/

theorem ledger_of_off {src : Nat} {s : State} (h : rdi s 0x2018 .epoLdgEn src = 0) (type detail : Nat) : ledger src type detail s = s :=
  if_pos h

theorem payUnitMarks_of_none {bk : Nat} {s : State} (h : (unitState s bk).marks = []) : payUnitMarks bk s = s := by simp [payUnitMarks, h]

@[simp] theorem Seq.same_self (q : Seq) : q.same q = true := by simp [Seq.same]

theorem putSeq_of_one {ck : Nat} {q : Seq} {s : State} (h : (chanAt s ck).seqs = [q]) (new : Option Seq) :
    putSeq ck q new s = putChan ck { chanAt s ck with seqs := new.toList } s := by
  cases new <;> simp [putSeq, h]

/-- The answers of AB_GO for one selected bank of `d`. -/
def abAnswers (p hit : Nat) (s : State) : State := wr p .bkuAbGo 0 (wr p .bkuAbAborted hit (wr p .bkuAbNta (1 - hit) s))

/-- The abort registers select one bank of one channel, whatever its tag (R283). -/
structure AbSelects (s : State) (d h b : Nat) : Prop where
  allChans : rd s (buOf d).page .bkuAbAllCh = 0
  allBanks : rd s (buOf d).page .bkuAbAllBank = 0
  noTag : rd s (buOf d).page .bkuAbTagEn = 0
  chan : rd s (buOf d).page .bkuAbChan = h
  bank : rd s (buOf d).page .bkuAbBank = b

theorem abGo_of_one {d h b : Nat} {s : State} (hsel : AbSelects s d h b) :
    abGo d s = settleFlights (abAnswers (buOf d).page (if (abortable s (ckOf d h) b none).isEmpty then 0 else 1)
      (abortUnit (ckOf d h) b none s)) := by
  have hunits : ((if rd s (buOf d).page .bkuAbAllCh = 1 then List.range 32 else [rd s (buOf d).page .bkuAbChan]).flatMap fun c =>
      (if rd s (buOf d).page .bkuAbAllBank = 1 then List.range 32 else [rd s (buOf d).page .bkuAbBank]).map fun b => (ckOf d c, b)) =
      [(ckOf d h, b)] := by simp [hsel.allChans, hsel.allBanks, hsel.chan, hsel.bank]
  unfold abGo
  extract_lets p all units tag hit t
  have htags : tag = none := if_neg (by simp [p, hsel.noTag])
  have hone : units = [(ckOf d h, b)] := hunits
  have hhit : hit = if (abortable s (ckOf d h) b none).isEmpty then 0 else 1 := by
    simp only [hit, hone, htags]
    cases hnone : (abortable s (ckOf d h) b none).isEmpty <;> simp [hnone]
  have hended : t = abortUnit (ckOf d h) b none s := by
    simp only [t, hone, htags, List.foldl_cons, List.foldl_nil]
  rw [hhit, hone, hended]
  rfl

theorem abAnswers_upd (p hit : Nat) (s : State) : Upd [.regBku] s (abAnswers p hit s) :=
  ((wr_upd p .bkuAbNta _ s).trans (wr_upd p .bkuAbAborted hit _)).trans (wr_upd p .bkuAbGo 0 _)

theorem rdi_abAnswers {f : Fld} (hgo : f ≠ .bkuAbGo) (habort : f ≠ .bkuAbAborted) (hnta : f ≠ .bkuAbNta) (p hit q i : Nat) (s : State) :
    rdi (abAnswers p hit s) q f i = rdi s q f i := by
  rw [abAnswers, rdi_wr_fld hgo, rdi_wr_fld habort, rdi_wr_fld hnta]

/-- What AB_GO answers for its one bank. -/
theorem abAnswers_answers {hit : Nat} (h : hit ≤ 1) (p : Nat) (s : State) : rd (abAnswers p hit s) p .bkuAbGo = 0 ∧
    rd (abAnswers p hit s) p .bkuAbAborted = hit ∧ rd (abAnswers p hit s) p .bkuAbNta = 1 - hit := by
  have hnta : rd (abAnswers p hit s) p .bkuAbNta = 1 - hit := by
    rw [abAnswers, rd, rdi_wr_fld (by decide), rdi_wr_fld (by decide), ← rd, rd_wr_same]
    exact Nat.mod_eq_of_lt (Nat.lt_of_le_of_lt (by omega : 1 - hit ≤ 1) (by decide))
  have habort : rd (abAnswers p hit s) p .bkuAbAborted = hit := by
    rw [abAnswers, rd, rdi_wr_fld (by decide), ← rd, rd_wr_same]
    exact Nat.mod_eq_of_lt (Nat.lt_of_le_of_lt h (by decide))
  exact ⟨rd_wr_same .., habort, hnta⟩

theorem abAnswers_regsBut (p hit : Nat) (s : State) :
    RegsBut [(p, .bkuAbGo, 0), (p, .bkuAbAborted, 0), (p, .bkuAbNta, 0)] s (abAnswers p hit s) := by
  have hwr {f : Fld} (hf : (homePage p f, f, 0 % 16384) ∈ [(p, .bkuAbGo, 0), (p, .bkuAbAborted, 0), (p, .bkuAbNta, 0)]) (v : Nat) (t : State) :
      RegsBut [(p, .bkuAbGo, 0), (p, .bkuAbAborted, 0), (p, .bkuAbNta, 0)] t (wr p f v t) := regsBut_wri hf v t
  have hnta := hwr (f := .bkuAbNta) (.tail _ (.tail _ (.head _))) (1 - hit) s
  have habort := hwr (f := .bkuAbAborted) (.tail _ (.head _)) hit (wr p .bkuAbNta (1 - hit) s)
  exact (hnta.trans habort).trans (hwr (f := .bkuAbGo) (.head _) 0 _)

theorem abortable_of_none {ck b : Nat} {s : State} (h : ∀ q, q ∈ (chanAt s ck).seqs → b ∉ q.banks) (tag : Option Nat) :
    abortable s ck b tag = [] := by
  refine List.filter_eq_nil_iff.2 fun q hq => ?_
  have hopen : b ∉ q.openBanks := fun hb => h q hq (List.mem_of_mem_filter hb)
  simp [hopen]

theorem abortable_of_one {ck b : Nat} {q : Seq} {s : State} (hseqs : (chanAt s ck).seqs = [q]) (hbanks : q.banks = [b]) (hended : q.ended = [])
    (hst : q.st ≠ .draining) : abortable s ck b none = [q] := by
  simp [abortable, hseqs, Seq.openBanks, hbanks, hended, hst]

theorem abortUnit_of_none {ck b : Nat} {s : State} (h : abortable s ck b none = []) : abortUnit ck b none s = s := by
  rw [abortUnit, h]
  rfl

theorem abortUnit_of_host {ck b : Nat} {q : Seq} {s : State} (h : abortable s ck b none = [q]) (hhost : q.host = true) :
    abortUnit ck b none s = abortSeq 0 ck q [b] s := by simp [abortUnit, h, hhost]

/-- A started sequence of one bank ends with it. -/
theorem abortSeq_of_one {ck b : Nat} {q : Seq} (hbanks : q.banks = [b]) (hended : q.ended = []) (hst : q.st ≠ .queued) (src : Nat) (s : State) :
    abortSeq src ck q [b] s = putSeq ck q (some { q with ended := [b], st := .draining }) (abortBank src ck q b s) := by
  simp [abortSeq, Seq.openBanks, hbanks, hended, hst]

/-- A unit of a started sequence reports ABORTED: it is counted, raised and noted in its status (R270). -/
theorem abortBank_of_started {ck b : Nat} {q : Seq} {s : State} (hst : q.st ≠ .queued) (hmarks : (unitState s (ck * 32 + b)).marks = [])
    (hledger : rdi s 0x2018 .epoLdgEn (buOf (ck / 32)).page = 0) (src : Nat) : ∃ u : BankUnit, u.last = 2 ∧ abortBank src ck q b s =
      putUnit (ck * 32 + b) u (raise (buOf (ck / 32)).page 16 (count (buOf (ck / 32)).page .bkuSeqAborted 1 s)) := by
  have hunit (t : State) : unitState (raise (buOf (ck / 32)).page 16 (count (buOf (ck / 32)).page .bkuSeqAborted 1 t)) (ck * 32 + b) =
      unitState t (ck * 32 + b) := unitState_congr ((raise_upd ..).same .units rfl) _
  refine ⟨?u, ?last, ?eq⟩
  case eq =>
    unfold abortBank
    dsimp only
    rw [ledger_of_off hledger, if_neg hst, payUnitMarks_of_none ((congrArg BankUnit.marks (hunit s)).trans hmarks)]
  case last => rfl

/-- AB_GO on a bank with a running host sequence of that bank alone (R270): its unit has reported ABORTED, counted and raised, and the
sequence drains. -/
theorem abGo_aborts {d h b : Nat} {q : Seq} {s : State} (hh : h < 32) (hsel : AbSelects s d h b) (hseqs : (chanAt s (ckOf d h)).seqs = [q])
    (hhost : q.host = true) (hbanks : q.banks = [b]) (hended : q.ended = []) (hqueued : q.st ≠ .queued) (hdrain : q.st ≠ .draining)
    (hmarks : (unitState s (ckOf d h * 32 + b)).marks = []) (hledger : rdi s 0x2018 .epoLdgEn (buOf d).page = 0)
    (hflights : s.flights.filter BkFlight.isDone = []) : ∃ u t, u.last = 2 ∧ abGo d s = abAnswers (buOf d).page 1 t ∧
      t = putChan (ckOf d h) { chanAt s (ckOf d h) with seqs := [{ q with ended := [b], st := .draining }] }
        (putUnit (ckOf d h * 32 + b) u (raise (buOf d).page 16 (count (buOf d).page .bkuSeqAborted 1 s))) := by
  have habortable := abortable_of_one hseqs hbanks hended hdrain
  obtain ⟨u, hu, hbankEnds⟩ := abortBank_of_started (src := 0) hqueued hmarks (by rwa [ckOf_stack hh])
  rw [ckOf_stack hh] at hbankEnds
  refine ⟨u, _, hu, ?_, rfl⟩
  generalize hs1 : raise (buOf d).page 16 (count (buOf d).page .bkuSeqAborted 1 s) = s1 at hbankEnds
  have hraised : Upd [.outbox, .regIrq, .regBku] s s1 :=
    hs1 ▸ ((count_upd (buOf d).page .bkuSeqAborted 1 s).mono rfl).trans ((raise_upd ..).mono rfl)
  have hchan : chanAt (putUnit (ckOf d h * 32 + b) u s1) (ckOf d h) = chanAt s (ckOf d h) := chanAt_congr (hraised.same .chans rfl) _
  have hflightsKept : s1.flights = s.flights := hraised.same .flights rfl
  generalize ht : putChan (ckOf d h) { chanAt s (ckOf d h) with seqs := [{ q with ended := [b], st := .draining }] }
    (putUnit (ckOf d h * 32 + b) u s1) = t
  have hdone : (abAnswers (buOf d).page 1 t).flights.filter BkFlight.isDone = [] := by
    rw [show (abAnswers (buOf d).page 1 t).flights = t.flights from (abAnswers_upd ..).same .flights rfl, ← ht]
    exact (congrArg (List.filter BkFlight.isDone) hflightsKept).trans hflights
  rw [abGo_of_one hsel, habortable, abortUnit_of_host habortable hhost, abortSeq_of_one hbanks hended hqueued, hbankEnds,
    putSeq_of_one ((congrArg Chan.seqs hchan).trans hseqs), hchan, Option.toList_some, ht]
  exact settleFlights_of_none hdone

/-- Settles O39. Entry and exit write HMR and set the mode, which leaves every other channel; HM_REQ takes the channels in turn; AB_GO on
one bank aborts its one sequence, or none. -/
theorem harnessModeAndAborts : Obligations.HarnessModeAndAborts := by
  refine ⟨?entry, ?on, ?exit, ?off, ?request, ?abort, ?none⟩
  case entry =>
    intro d h s hh hwants hoff hst hrecal hopen
    have hexec : exec (.harnessEntry d h) s = .next (enterHarness (ckOf d h) s) := if_pos hwants
    refine ⟨_, hexec, enterHarness_entering hoff hst hrecal ?_, fun k hk => enterHarness_other hk s, ?_⟩
    · rwa [ckOf_stack hh]
    · exact ((enterHarness_upd (ckOf d h) s).mono rfl).same
  case on =>
    intro d h s hm
    exact congrArg Host.Outcome.next (if_pos hm)
  case exit =>
    intro d h s hh hm hwants hserves hopen
    have hhmr := hmrWritten_onlyChan (ckOf d h) none s
    refine ⟨_, (congrArg id (if_neg ?_) : exec (.harnessExit d h) s = _), congrArg Chan.hm (chanAt_putChan_same ..), hhmr.putChan _, ?_⟩
    · simp [hm, hwants, hserves, hopen]
    · exact ((((preAll_upd (ckOf d h) s).mono rfl).trans ((writeHmr_upd ..).mono rfl)).trans ((putChan_upd ..).mono rfl)).same
  case off =>
    intro d h s hh hm hst hrecal hopen
    generalize hs' : putChan (ckOf d h) { chanAt s (ckOf d h) with hm := .off, gang := 0 } s = s'
    have hself : chanAt s' (ckOf d h) = { chanAt s (ckOf d h) with hm := .off, gang := 0 } := hs' ▸ chanAt_putChan_same ..
    have hother (k : Nat) (hk : k ≠ ckOf d h) : chanAt s' k = chanAt s k := hs' ▸ chanAt_putChan_other hk _ s
    have hoff : Upd [.chans, .regMcs, .servedBytes] s s' := hs' ▸ (putChan_upd ..).mono rfl
    have hwants : wantsHarness s' (ckOf d h) = wantsHarness s (ckOf d h) := by
      rw [wantsHarness, hself, hmReq, rd, hoff.rdi rfl]
      rfl
    have hexec : exec (.harnessOff d h) s = .next (if wantsHarness s (ckOf d h) then enterHarness (ckOf d h) s' else s') := by
      rw [← hwants, ← hs']
      exact if_neg (by simp [hm])
    refine ⟨_, hexec, ?_⟩
    split
    case isTrue =>
      refine ⟨enterHarness_entering ?_ ?_ ?_ ?_, fun k hk => (enterHarness_other hk s').trans (hother k hk), ?_⟩
      · rw [hself]
      · rw [hself, hst]
      · rw [hself, hrecal]
      · rw [ckOf_stack hh, ← hs']
        exact hopen
      · exact (hoff.trans ((enterHarness_upd ..).mono rfl)).same
    case isFalse => exact ⟨congrArg Chan.hm hself, hother, hoff.same⟩
  case request =>
    intro d mask s hs hd hmask hreach
    have hexec : exec (.hmReqWrite d mask) s = .next (hmReqWrite d mask s) := congrArg Host.Outcome.next (hostWrites_of_reachable hreach _)
    have hmaskRead : rd (wr (buOf d).page .bkuHmReq mask s) (buOf d).page .bkuHmReq = mask := (rd_wr_same ..).trans (Nat.mod_eq_of_lt hmask)
    have hreq (h : Nat) (hh : h < 32) : hmReq (wr (buOf d).page .bkuHmReq mask s) (ckOf d h) = decide (bit mask h = 1) := by
      rw [hmReq, ckOf_stack hh, ckOf_chan hh, hmaskRead]
    have hupd := hmAsked_upd d 32 (wr (buOf d).page .bkuHmReq mask s)
    refine ⟨_, hexec.trans (congrArg _ (hmReqWrite_eq ..)), ?_, ?_, ?_, ?_, ?_⟩
    · exact (hupd.rdi rfl ..).trans hmaskRead
    · intro h hh hbit hoff hst hrecal hmode
      refine hmAsked_entering hh (by simp [hreq h hh, hbit]) hoff hst hrecal ?_
      rw [ckOf_stack hh, rd, rdi_wr_fld (by decide), ← rd, hmode]
    · intro h hh hbit
      refine hmAsked_other fun c hc hask heq => ?_
      have hch : h = c := by
        unfold ckOf at heq
        omega
      rw [← hch, hreq h hh, hbit] at hask
      exact absurd hask (by decide)
    · intro p f i hpart hplace
      have hmcs : ∀ g ∈ allRegs, g ≠ .regMcs → [Part.regMcs, .chans, .servedBytes].contains g = false := by decide
      have hkept := hmcs f.part f.part_allRegs hpart
      refine (hupd.rdi hkept p i).trans ?_
      rw [wr, rdi_wri, if_neg]
      rintro ⟨hpage, rfl, hi⟩
      exact hplace (by rw [hpage, hi]; rfl)
    · exact (((wr_upd (buOf d).page .bkuHmReq mask s).mono rfl).trans (hupd.mono rfl)).same
  case abort =>
    rintro d h b p q s hs hd hh hb rfl hreach hallch hallbank htag hchan hbank hseqs hhost hbanks hended hst hmarks hledger hflights
    have hqueued : q.st ≠ .queued := by rcases hst with hst | hst | hst <;> simp [hst]
    have hdrain : q.st ≠ .draining := by rcases hst with hst | hst | hst <;> simp [hst]
    obtain ⟨u, t, hu, hgo, ht⟩ := abGo_aborts hh ⟨hallch, hallbank, htag, hchan, hbank⟩ hseqs hhost hbanks hended hqueued hdrain
      hmarks hledger hflights
    have hexec : exec (.abGo d) s = .next (abAnswers (buOf d).page 1 t) :=
      congrArg Host.Outcome.next ((hostWrites_of_reachable hreach _).trans hgo)
    have hregs {f : Fld} (hgo : f ≠ .bkuAbGo) (habort : f ≠ .bkuAbAborted) (hnta : f ≠ .bkuAbNta) :
        rd (abAnswers (buOf d).page 1 t) (buOf d).page f = rd (raise (buOf d).page 16 (count (buOf d).page .bkuSeqAborted 1 s)) (buOf d).page f := by
      rw [rd, rdi_abAnswers hgo habort hnta, ht, rdi_putChan, rdi_putUnit, ← rd]
    obtain ⟨hzero, hone, hnta⟩ := abAnswers_answers (Nat.le_refl 1) (buOf d).page t
    refine ⟨_, hexec, hzero, hone, hnta, ?_, ?_, ?_, ?_⟩
    · rw [chanAt_congr ((abAnswers_upd ..).same .chans rfl), ht, chanAt_putChan_same]
    · rw [unitState_congr ((abAnswers_upd ..).same .units rfl), ht]
      exact (congrArg BankUnit.last (unitState_putUnit_same ..)).trans hu
    · rw [hregs (by decide) (by decide) (by decide), rd, rdi_raise_fld (by decide)]
      exact rd_count_same ..
    · rw [hregs (by decide) (by decide) (by decide)]
      exact bit_rd_raise (by decide) ..
  case none =>
    rintro d h b p s hs hd hh hb rfl hreach hallch hallbank htag hchan hbank hseqs hflights
    have hnone := abortable_of_none hseqs none
    have hexec : exec (.abGo d) s = .next (abAnswers (buOf d).page 0 s) := by
      refine congrArg Host.Outcome.next ((hostWrites_of_reachable hreach _).trans ?_)
      rw [abGo_of_one ⟨hallch, hallbank, htag, hchan, hbank⟩, hnone, abortUnit_of_none hnone]
      exact settleFlights_of_none hflights
    obtain ⟨hgo, haborted, hnta⟩ := abAnswers_answers (Nat.zero_le 1) (buOf d).page s
    exact ⟨_, hexec, hgo, haborted, hnta, abAnswers_regsBut _ _ _, (abAnswers_upd ..).same⟩

end Sys2Proof.Machine
end

section
/-!
What ordinary memory work leaves alone: the sequences of every channel, the places of addresses, and a chosen part of every bank unit.
A channel where whole-column writes alone wait stays so, which is why serving it never freezes it (R349, R370).
-/

namespace Sys2Proof.Machine

/-- A queued write that covers its column, and is not a scrub write-back. -/
structure WrReq.Whole (w : WrReq) : Prop where
  plain : w.scrub = false
  bytes : w.data.map Prod.fst = List.range 32

/-- A waiting request that is a write of one whole column of channel `ck`. -/
structure LateReq.Whole (s : State) (ck : Nat) (r : LateReq) : Prop where
  aligned : r.dpa % 32 = 0
  place : chanKey (locate s r.dpa) = ck
  bytes : ∃ d, r.data = some d ∧ d.length = 32

/-- What waits on channel `ck` is writes of whole columns. -/
structure WritesOnly (s : State) (ck : Nat) : Prop where
  reads : (chanAt s ck).rdq = []
  writes : ∀ w ∈ (chanAt s ck).wrq, w.Whole
  late : ∀ r ∈ (chanAt s ck).late, r.Whole s ck

theorem writesOnly_of_idle {s : State} {ck : Nat} (h : chanIdle (chanAt s ck) = true) : WritesOnly s ck := by
  simp only [chanIdle, Bool.and_eq_true, List.isEmpty_iff] at h
  obtain ⟨⟨hrdq, hwrq⟩, hlate⟩ := h
  exact ⟨hrdq, by simp [hwrq], by simp [hlate]⟩

/-- The sequences, the places of addresses, channels with whole-column writes only, and `f` of each bank unit are as before. -/
structure Kept {τ : Type} (f : BankUnit → τ) (a b : State) : Prop where
  seqs : ∀ ck, (chanAt b ck).seqs = (chanAt a ck).seqs
  variant : b.variant = a.variant
  lin : ∀ p i, rdi b p .mcsLinMap i = rdi a p .mcsLinMap i
  writes : ∀ ck, WritesOnly a ck → WritesOnly b ck
  unit : ∀ bk, f (unitState b bk) = f (unitState a bk)

/-- A bank unit without what ordinary writes to its bank take away. -/
def BankUnit.work (u : BankUnit) : BankUnit := { u with vetted := [], produced := [], marks := [] }

theorem locate_of_maps {a b : State} (hv : b.variant = a.variant) (hl : ∀ p i, rdi b p .mcsLinMap i = rdi a p .mcsLinMap i) (x : Nat) :
    locate b x = locate a x := by
  have hlin (d p : Nat) : isLinear b d p = isLinear a d p := by rw [isLinear, rd, hl, ← rd, ← isLinear]
  simp only [locate, hlin, hv]

theorem LateReq.Whole.of_maps {a b : State} {ck : Nat} {r : LateReq} (h : r.Whole a ck) (hv : b.variant = a.variant)
    (hl : ∀ p i, rdi b p .mcsLinMap i = rdi a p .mcsLinMap i) : r.Whole b ck :=
  ⟨h.aligned, by rw [locate_of_maps hv hl, h.place], h.bytes⟩

namespace Kept

variable {τ υ : Type} {f : BankUnit → τ} {g : BankUnit → υ} {a b c : State}

theorem locate (h : Kept f a b) (x : Nat) : Machine.locate b x = Machine.locate a x := locate_of_maps h.variant h.lin x

theorem refl (a : State) : Kept f a a := ⟨fun _ => rfl, rfl, fun _ _ => rfl, fun _ h => h, fun _ => rfl⟩

theorem trans (h : Kept f a b) (h' : Kept f b c) : Kept f a c :=
  ⟨fun ck => (h'.seqs ck).trans (h.seqs ck), h'.variant.trans h.variant, fun p i => (h'.lin p i).trans (h.lin p i),
    fun ck hw => h'.writes ck (h.writes ck hw), fun bk => (h'.unit bk).trans (h.unit bk)⟩

/-- What is kept of a unit keeps whatever it determines. -/
theorem map (h : Kept f a b) (k : τ → υ) (hk : ∀ u, k (f u) = g u := by intro; rfl) : Kept g a b :=
  ⟨h.seqs, h.variant, h.lin, h.writes, fun bk => by rw [← hk, h.unit, hk]⟩

theorem writesOnly_of_chans (hc : b.chans = a.chans) (hv : b.variant = a.variant) (hl : ∀ p i, rdi b p .mcsLinMap i = rdi a p .mcsLinMap i)
    (ck : Nat) (h : WritesOnly a ck) : WritesOnly b ck := by
  have hch := chanAt_congr hc ck
  exact ⟨by rw [hch, h.reads], by rw [hch]; exact h.writes, by rw [hch]; exact fun r hr => (h.late r hr).of_maps hv hl⟩

theorem of_upd {m : List Part} (h : Upd m a b)
    (hm : m.contains .chans = false ∧ m.contains .units = false ∧ m.contains .regMcs = false ∧ m.contains .variant = false) : Kept f a b := by
  obtain ⟨hchans, hunits, hmcs, hvariant⟩ := hm
  have hch : b.chans = a.chans := h.same .chans hchans
  have hv : b.variant = a.variant := h.same .variant hvariant
  have hl (p i : Nat) : rdi b p .mcsLinMap i = rdi a p .mcsLinMap i := h.rdi (f := .mcsLinMap) hmcs p i
  exact ⟨fun ck => by rw [chanAt_congr hch], hv, hl, writesOnly_of_chans hch hv hl, fun bk => by rw [unitState_congr (h.same .units hunits)]⟩

/-- Outside channels, units, registers and the memory's size nothing counts. -/
theorem rest (h : Kept f a b) (hc : c.chans = b.chans) (hu : c.units = b.units) (hr : c.regs = b.regs) (hv : c.variant = b.variant) :
    Kept f a c :=
  h.trans ⟨fun ck => by rw [chanAt_congr hc], hv, fun p i => rdi_of_regs hr p _ i,
    writesOnly_of_chans hc hv fun p i => rdi_of_regs hr p _ i, fun bk => by rw [unitState_congr hu]⟩

theorem of_calm (h : Calm a b) (hu : b.units = a.units) : Kept f a b := by
  have hl (p i : Nat) : rdi b p .mcsLinMap i = rdi a p .mcsLinMap i := h.regs p _ i (by decide)
  have hchan := h.chan
  simp only [Chan.serving, Prod.mk.injEq] at hchan
  refine ⟨fun ck => (hchan ck).2.2.2.1, h.variant, hl, fun ck hw => ?_, fun bk => by rw [unitState_congr hu]⟩
  obtain ⟨-, -, -, -, hrdq, hwrq, hlate⟩ := hchan ck
  exact ⟨hrdq.trans hw.reads, by rw [hwrq]; exact hw.writes, by rw [hlate]; exact fun r hr => (hw.late r hr).of_maps h.variant hl⟩

/-- A register other than the placement's map. -/
theorem wri {p i v : Nat} {x : Fld} (hx : x ≠ .mcsLinMap) (h : Kept f a b) : Kept f a (wri p x i v b) := by
  have hl (q j : Nat) : rdi (Machine.wri p x i v b) q .mcsLinMap j = rdi b q .mcsLinMap j := by
    rw [rdi_wri, if_neg]
    rintro ⟨-, he, -⟩
    exact hx he.symm
  exact h.trans ⟨fun _ => rfl, rfl, hl, writesOnly_of_chans rfl rfl hl, fun _ => rfl⟩

theorem count {p k : Nat} {x : Fld} (hx : x ≠ .mcsLinMap) (h : Kept f a b) : Kept f a (count p x k b) := h.wri hx

theorem putUnit {bk : Nat} {u : BankUnit} (h : Kept f a b) (hu : f u = f (unitState b bk)) : Kept f a (putUnit bk u b) := by
  refine h.trans ⟨fun _ => rfl, rfl, fun _ _ => rfl, writesOnly_of_chans rfl rfl fun _ _ => rfl, fun k => ?_⟩
  rw [unitState_putUnit]
  split
  case isTrue hk => rw [hk, hu]
  case isFalse => rfl

/-- A channel whose sequences are as before, and whose waiting writes are whole where they were. -/
theorem putChan {ck : Nat} {x : Chan} (h : Kept f a b) (hseqs : x.seqs = (chanAt b ck).seqs)
    (hwrites : WritesOnly b ck → x.rdq = [] ∧ (∀ w ∈ x.wrq, w.Whole) ∧ ∀ r ∈ x.late, r.Whole b ck) : Kept f a (putChan ck x b) := by
  refine h.trans ⟨fun k => ?_, rfl, fun _ _ => rfl, fun k hw => ?_, fun _ => rfl⟩
  · rw [chanAt_putChan]
    split
    case isTrue hk => rw [hk, hseqs]
    case isFalse => rfl
  · by_cases hk : k = ck
    · subst hk
      obtain ⟨hrdq, hwrq, hlate⟩ := hwrites hw
      exact ⟨by rw [chanAt_putChan_same, hrdq], by rw [chanAt_putChan_same]; exact hwrq,
        by rw [chanAt_putChan_same]; exact fun r hr => (hlate r hr).of_maps rfl fun _ _ => rfl⟩
    · exact ⟨by rw [chanAt_putChan_other hk, hw.reads], by rw [chanAt_putChan_other hk]; exact hw.writes,
        by rw [chanAt_putChan_other hk]; exact fun r hr => (hw.late r hr).of_maps rfl fun _ _ => rfl⟩

/-- A channel whose sequences and waiting requests are as before. -/
theorem putChan_rest {ck : Nat} {x : Chan} (h : Kept f a b)
    (hx : (x.seqs, x.rdq, x.wrq, x.late) = ((chanAt b ck).seqs, (chanAt b ck).rdq, (chanAt b ck).wrq, (chanAt b ck).late)) :
    Kept f a (Machine.putChan ck x b) := by
  simp only [Prod.mk.injEq] at hx
  obtain ⟨hseqs, hrdq, hwrq, hlate⟩ := hx
  exact h.putChan hseqs fun hw => ⟨hrdq.trans hw.reads, by rw [hwrq]; exact hw.writes, by rw [hlate]; exact hw.late⟩

theorem ite {q : Prop} [Decidable q] {x y : State} (hx : q → Kept f a x) (hy : ¬q → Kept f a y) : Kept f a (if q then x else y) := by
  split
  · exact hx ‹_›
  · exact hy ‹_›

theorem foldl {β : Type} {l : List β} {k : State → β → State} (h : Kept f a b) (hk : ∀ t x, x ∈ l → Kept f t (k t x)) :
    Kept f a (l.foldl k b) := by
  induction l generalizing b with
  | nil => exact h
  | cons x l ih => exact ih (h.trans (hk b x List.mem_cons_self)) fun t y hy => hk t y (List.mem_cons_of_mem _ hy)

theorem forUpto {n : Nat} {k : Nat → State → State} (h : Kept f a b) (hk : ∀ i t, Kept f t (k i t)) : Kept f a (forUpto n k b) :=
  h.foldl fun t i _ => hk i t

end Kept

end Sys2Proof.Machine
end

section
/-!
Each operation of ordinary memory work, what it keeps: the commands and charges of a column, storing it, queueing and ledger writes, and
the counters of a read (R297, R335, R351, R360, R366, R376).
-/

namespace Sys2Proof.Machine

theorem noteCmd_kept (cmd c : Nat) (s : State) : Kept BankUnit.work s (noteCmd cmd c s) :=
  .of_calm (noteCmd_calm ..) ((noteCmd_upd ..).same .units rfl)

theorem shutRows_kept (c : Nat) (rows : List Nat) (s : State) : Kept BankUnit.work s (shutRows c rows s) :=
  .of_calm (shutRows_calm ..) ((shutRows_upd ..).same .units rfl)

theorem openRow_kept (two : Bool) (c : Nat) (s : State) : Kept BankUnit.work s (openRow two c s) :=
  .of_calm (openRow_calm ..) ((openRow_upd ..).same .units rfl)

theorem access_kept (cmd c : Nat) (s : State) : Kept BankUnit.work s (access cmd c s) :=
  .of_calm (access_calm ..) ((access_upd ..).same .units rfl)

theorem chargeAs_kept (full : Bool) (d port n : Nat) (s : State) : Kept BankUnit.work s (chargeAs full d port n s) :=
  .of_calm (chargeAs_calm ..) ((chargeAs_upd ..).same .units rfl)

theorem harnessCharge_kept (d : Nat) (g : Option Nat) (n : Nat) (s : State) : Kept BankUnit.work s (harnessCharge d g n s) :=
  chargeAs_kept ..

theorem noteHarness_kept (cmd bk sc : Nat) (s : State) : Kept BankUnit.work s (noteHarness cmd bk sc s) := noteCmd_kept ..

theorem preAll_kept (ck : Nat) (s : State) : Kept BankUnit.work s (preAll ck s) := (noteCmd_kept ..).putChan_rest rfl

/-! A column is stored. -/

theorem dropRowSets_kept (c : Nat) (s : State) : Kept BankUnit.work s (dropRowSets c s) :=
  .ite (fun _ => (Kept.refl s).putUnit rfl) fun _ => Kept.refl s

theorem sealCol_kept (c : Nat) (data : List Byte) (s : State) : Kept BankUnit.work s (sealCol c data s) :=
  .of_upd (sealCol_upd ..) ⟨rfl, rfl, rfl, rfl⟩

theorem poisonCol_kept (c : Nat) (data : List Byte) (s : State) : Kept BankUnit.work s (poisonCol c data s) :=
  .of_upd (poisonCol_upd ..) ⟨rfl, rfl, rfl, rfl⟩

theorem storeCol_kept (c : Nat) (data : List Byte) (poison : Bool) (s : State) : Kept BankUnit.work s (storeCol c data poison s) :=
  (dropRowSets_kept c s).trans (.ite (fun _ => poisonCol_kept ..) fun _ => sealCol_kept ..)

theorem arrayWrite_kept (c : Nat) (data : List Byte) (poison : Bool) (s : State) : Kept BankUnit.work s (arrayWrite c data poison s) :=
  (access_kept ..).trans (storeCol_kept ..)

/-! Writes wait. -/

theorem WrReq.Whole.full {w : WrReq} (h : w.Whole) : w.full = true := by
  have hlen := congrArg List.length h.bytes
  simpa [WrReq.full] using hlen

theorem keys_ins {m : SMap Byte} {n k : Nat} (hk : k < n) (v : Byte) (i : Nat) (h : m.map Prod.fst = List.range' i (n - i)) (hi : i ≤ k) :
    (SMap.ins k v m).map Prod.fst = List.range' i (n - i) := by
  induction m generalizing i with
  | nil =>
    have hlen := congrArg List.length h
    simp at hlen
    omega
  | cons e m ih =>
    obtain ⟨j, w⟩ := e
    obtain ⟨r, hr⟩ : ∃ r, n - i = r + 1 := ⟨n - i - 1, by omega⟩
    rw [hr, List.range'_succ, List.map_cons, List.cons.injEq] at h
    obtain ⟨rfl, hm⟩ := h
    have hrest : r = n - (j + 1) := by omega
    rw [SMap.ins, if_neg (by omega)]
    split
    case isTrue hj => rw [List.map_cons, hm, hr, List.range'_succ, ← hj]
    case isFalse hj => rw [List.map_cons, ih (j + 1) (hrest ▸ hm) (by omega), hr, List.range'_succ, hrest]

/-- Laid over the bytes of a whole column, a column's bytes are a whole column. -/
theorem keys_foldl_ins {l m : SMap Byte} (hl : ∀ e ∈ l, e.1 < 32) (hm : m.map Prod.fst = List.range 32) :
    (l.foldl (fun m e => SMap.ins e.1 e.2 m) m).map Prod.fst = List.range 32 := by
  induction l generalizing m with
  | nil => exact hm
  | cons e l ih =>
    refine ih (fun x hx => hl x (List.mem_cons_of_mem _ hx)) ?_
    rw [List.range_eq_range'] at hm ⊢
    exact keys_ins (hl e List.mem_cons_self) e.2 0 hm (Nat.zero_le _)

theorem WrReq.Whole.lt {w : WrReq} (h : w.Whole) (e : Nat × Byte) (he : e ∈ w.data) : e.1 < 32 := by
  have hkey : e.1 ∈ w.data.map Prod.fst := List.mem_map_of_mem he
  rw [h.bytes] at hkey
  exact List.mem_range.1 hkey

theorem WrReq.Whole.join {v w : WrReq} (hv : v.data = [] ∨ v.data.map Prod.fst = List.range 32) (hw : w.Whole) : (v.join w).Whole := by
  refine ⟨hw.plain, ?_⟩
  rcases hv with hv | hv
  · have hrising : SMap.rising w.data := by
      have hlt := List.pairwise_lt_range (n := 32)
      rw [← hw.bytes, List.pairwise_map] at hlt
      exact hlt
    rw [WrReq.join, hv, foldl_ins_above hrising (by simp), List.nil_append, hw.bytes]
  · exact keys_foldl_ins hw.lt hv

theorem dequeueCol_kept (c : Nat) (s : State) : Kept BankUnit.work s (dequeueCol c s) :=
  (Kept.refl s).putChan rfl fun hw => ⟨hw.reads, fun w hm => hw.writes w (List.mem_of_mem_filter hm), hw.late⟩

theorem enqueue_kept {w : WrReq} (hw : w.Whole) (s : State) : Kept BankUnit.work s (enqueue w s) := by
  unfold enqueue
  extract_lets ck ch q q'
  refine (Kept.refl s).putChan rfl fun hck => ⟨hck.reads, fun e he => ?_, hck.late⟩
  have hq (e : WrReq) (hm : e ∈ q) : e.Whole := hck.writes e (List.mem_of_mem_filter hm)
  revert he
  change e ∈ q' → e.Whole
  simp only [q']
  split
  case h_1 n _ =>
    intro he
    obtain ⟨x, hx, rfl⟩ := List.mem_map.1 he
    split
    · exact ⟨(hq x hx).plain, (hw.join (.inr (hq x hx).bytes)).bytes⟩
    · exact hq x hx
  case h_2 =>
    intro he
    rcases List.mem_append.1 he with he | he
    · exact hq e he
    · rw [List.mem_singleton.1 he]
      exact ⟨hw.plain, hw.bytes⟩

theorem queueWrite_kept {w : WrReq} (hw : w.Whole) (s : State) : Kept BankUnit.work s (queueWrite w s) :=
  Kept.trans (.ite (fun _ => (Kept.refl s).count (by decide)) fun _ => Kept.refl s) (enqueue_kept hw _)

theorem putLate_kept {ck : Nat} {r : LateReq} {s : State} (hr : r.Whole s ck) : Kept BankUnit.work s (putLate ck r s) := by
  refine (Kept.refl s).putChan rfl fun hw => ⟨hw.reads, hw.writes, fun x hx => ?_⟩
  rcases List.mem_append.1 hx with hx | hx
  · exact hw.late x hx
  · rwa [List.mem_singleton.1 hx]

theorem logErr_kept (p sev code detail : Nat) (s : State) : Kept BankUnit.work s (logErr p sev code detail s) :=
  .of_upd (logErr_upd ..) ⟨rfl, rfl, rfl, rfl⟩

theorem sideWrite_kept (c : Nat) (s : State) : Kept BankUnit.work s (sideWrite c s) :=
  ((Kept.refl s).count (by decide)).trans (logErr_kept ..)

/-- The bytes of a whole column, as a queued write holds them. -/
theorem keys_zipIdx {data : List Byte} (h : data.length = 32) : (data.zipIdx.map fun e => (e.2, e.1)).map Prod.fst = List.range 32 := by
  rw [List.map_map, ← h, List.range_eq_range', ← List.zipIdx_map_snd 0 data]
  rfl

theorem writeSpine_kept {x : Nat} {data : List Byte} (hx : x % 32 = 0) (hlen : data.length = 32) (s : State) :
    Kept BankUnit.work s (writeSpine x data s) := by
  refine .ite (fun _ => sideWrite_kept ..) fun _ => .ite (fun _ => ?_) fun _ => .ite (fun _ => ?_) fun _ => ?_
  · exact ((dequeueCol_kept ..).trans (chargeAs_kept ..)).trans (arrayWrite_kept ..)
  · exact queueWrite_kept ⟨rfl, keys_zipIdx hlen⟩ s
  · exact putLate_kept ⟨hx, rfl, data, rfl, hlen⟩

/-! Ledger records. -/

theorem ledgerBytes_length (s : State) (src type seq detail : Nat) : (ledgerBytes s src type seq detail).length = 32 := by
  simp [ledgerBytes, leBytes]

theorem ledgerPut_kept (src type detail : Nat) (s : State) : Kept BankUnit.work s (ledgerPut src type detail s) := by
  unfold ledgerPut
  extract_lets seq i x bytes t1 t2 t3
  have h1 : Kept BankUnit.work s t1 := (Kept.refl s).rest rfl rfl rfl rfl
  have h2 : Kept BankUnit.work s t2 := h1.wri (by decide)
  have h3 : Kept BankUnit.work s t3 := h2.trans (.ite (fun _ => ?_) fun _ => Kept.refl t2)
  · refine .ite (fun _ => h3.trans (writeSpine_kept ?_ (ledgerBytes_length ..) t3)) fun _ => h3
    simp only [x]
    omega
  · exact (Kept.refl t2).rest rfl rfl rfl rfl

theorem ledger_kept (src type detail : Nat) (s : State) : Kept BankUnit.work s (ledger src type detail s) := by
  refine .ite (fun _ => Kept.refl s) fun _ => .ite (fun _ => Kept.wri (by decide) ?_) fun _ => ledgerPut_kept ..
  exact (Kept.refl s).rest rfl rfl rfl rfl

/-! A read is counted, and its row becomes a suspect or a candidate. -/

theorem ceWindow_kept (p : Nat) (s : State) : Kept BankUnit.work s (ceWindow p s) := .of_upd (ceWindow_upd ..) ⟨rfl, rfl, rfl, rfl⟩

theorem candidate_kept (rowKey : Nat) (host : Bool) (s : State) : Kept BankUnit.work s (candidate rowKey host s) := by
  refine .ite (fun _ => (logErr_kept ..).trans (ledger_kept ..)) fun _ => .ite (fun _ => .ite (fun _ => Kept.refl s) fun _ => ?_) fun _ =>
    Kept.refl s
  exact (Kept.refl s).putChan_rest rfl

theorem suspect_kept (c : Nat) (s : State) : Kept BankUnit.work s (suspect c s) := by
  unfold suspect
  extract_lets ck ch key n others low keep
  refine .ite (fun _ => Kept.trans ?_ (candidate_kept ..)) fun _ => ?_
  · exact (Kept.refl s).putChan_rest rfl
  · exact (Kept.refl s).putChan_rest rfl

theorem countRead_kept (cls : ColClass) (c : Nat) (s : State) : Kept BankUnit.work s (countRead cls c s) := by
  have hnoted (x : Fld) (hx : x ≠ .mcsLinMap) (t : State) :
      Kept BankUnit.work t (suspect c (ceWindow (mcPageOf c) (counti 0x2028 x (mcPageOf c) 1 t))) :=
    (((Kept.refl t).wri hx).trans (ceWindow_kept ..)).trans (suspect_kept ..)
  unfold countRead
  extract_lets p t
  have ht : Kept BankUnit.work s t := .ite (fun _ => hnoted _ (by decide) s) fun _ => Kept.refl s
  cases cls with
  | clean => exact ht
  | ceOde => exact ht.trans (hnoted _ (by decide) t)
  | ceSym => exact ht.trans (hnoted _ (by decide) t)
  | stale => exact ht.wri (by decide)
  | poison => exact ht.wri (by decide)
  | ue => exact (ht.wri (by decide)).trans (candidate_kept ..)

theorem payUnitMarks_kept (bk : Nat) (s : State) : Kept BankUnit.work s (payUnitMarks bk s) := by
  refine .ite (fun _ => Kept.refl s) fun _ => ?_
  exact ((Kept.refl s).foldl fun _ _ _ => (poisonCol_kept ..).trans (ledger_kept ..)).putUnit rfl

end Sys2Proof.Machine
end

section
/-!
A channel that holds writes of whole columns only serves them without a freeze: its sequences stay, and so does what its units have
(R335-R341, R348, R370).
-/

namespace Sys2Proof.Machine

theorem applyWrite_kept {w : WrReq} (hw : w.Whole) (s : State) : Kept BankUnit.work s (applyWrite w s) := by
  unfold applyWrite
  extract_lets t
  have ht : Kept BankUnit.work s t := .ite (fun _ => Kept.refl s) fun _ => chargeAs_kept ..
  rw [if_pos hw.full]
  exact ht.trans (arrayWrite_kept ..)

/-- What whole-column writes of a column that wait come to: nothing, or the whole column. -/
theorem queuedFor_keys {ch : Chan} (h : ∀ w ∈ ch.wrq, w.Whole) (c n : Nat) :
    (queuedFor ch c n).data = [] ∨ (queuedFor ch c n).data.map Prod.fst = List.range 32 := by
  have hfold (l : List WrReq) (v : WrReq) (hl : ∀ w ∈ l, w.Whole) (hv : v.data = [] ∨ v.data.map Prod.fst = List.range 32) :
      (l.foldl WrReq.join v).data = [] ∨ (l.foldl WrReq.join v).data.map Prod.fst = List.range 32 := by
    induction l generalizing v with
    | nil => exact hv
    | cons w l ih =>
      exact ih (v.join w) (fun x hx => hl x (List.mem_cons_of_mem _ hx)) (.inr ((hl w List.mem_cons_self).join hv).bytes)
  exact hfold _ {} (fun w hw => h w (List.mem_of_mem_filter hw)) (.inl rfl)

theorem WrReq.Whole.of_data {v w : WrReq} (h : w.Whole) (hs : v.scrub = w.scrub) (hd : v.data = w.data) : v.Whole :=
  ⟨hs.trans h.plain, hd ▸ h.bytes⟩

theorem writeCol_kept {w : WrReq} {s : State} (hw : w.Whole) (hck : WritesOnly s (chanKey w.col)) : Kept BankUnit.work s (writeCol w s) := by
  have hjoin := hw.join (queuedFor_keys hck.writes w.col (chanAt s (chanKey w.col)).stamp)
  unfold writeCol
  extract_lets ch
  refine .ite (fun _ => sideWrite_kept ..) fun _ => .ite (fun _ => ?_) fun _ => queueWrite_kept hw s
  refine (dequeueCol_kept w.col s).trans (applyWrite_kept ?_ _)
  exact hjoin.of_data rfl rfl

theorem colPart_column {data : List Byte} (h : data.length = 32) (a : Nat) : (colPart a a data).map Prod.fst = List.range 32 := by
  have hall : (data.zipIdx.filter fun e => a ≤ a + e.2 && a + e.2 < a + 32) = data.zipIdx := by
    refine List.filter_eq_self.2 fun e he => ?_
    have hlt := List.snd_lt_of_mem_zipIdx he
    simp
    omega
  rw [colPart, hall, ← keys_zipIdx h]
  simp

theorem writeSpan_kept {a : Nat} {data : List Byte} {s : State} (ha : a % 32 = 0) (hlen : data.length = 32)
    (hck : WritesOnly s (chanKey (locate s a))) (poison : Bool) (port : Nat) : Kept BankUnit.work s (writeSpan a data poison port s) := by
  have hfirst : 32 * (a / 32) = a := by omega
  rw [writeSpan, colsOf_column (by omega) (by omega), hfirst, List.foldl_cons, List.foldl_nil]
  exact writeCol_kept ⟨rfl, colPart_column hlen a⟩ hck

theorem writeRequest_kept {a : Nat} {data : List Byte} {s : State} (ha : a % 32 = 0) (hlen : data.length = 32)
    (hck : WritesOnly s (chanKey (locate s a))) (port : Nat) (poison : Bool) : Kept BankUnit.work s (writeRequest a data port poison s) :=
  .ite (fun _ => writeSpan_kept ha hlen hck poison port) fun _ => putLate_kept ⟨ha, rfl, data, rfl, hlen⟩

/-- A request that waited for room arrives again. -/
def lateAgain (t : State) (r : LateReq) : State :=
  match r.data with
  | some d => writeRequest r.dpa d r.port r.poison t
  | none => readRequest r.dpa r.len r.port t

theorem lateAgain_kept {ck : Nat} {r : LateReq} {s : State} (hr : r.Whole s ck) (hck : WritesOnly s ck) :
    Kept BankUnit.work s (lateAgain s r) := by
  obtain ⟨d, hd, hlen⟩ := hr.bytes
  rw [lateAgain, hd]
  exact writeRequest_kept hr.aligned hlen (by rwa [hr.place]) ..

theorem lateAgain_foldl_kept {ck : Nat} {l : List LateReq} {s : State} (hl : ∀ r ∈ l, r.Whole s ck) (hck : WritesOnly s ck) :
    Kept BankUnit.work s (l.foldl lateAgain s) := by
  induction l generalizing s with
  | nil => exact Kept.refl s
  | cons r l ih =>
    have hr := lateAgain_kept (hl r List.mem_cons_self) hck
    exact hr.trans (ih (fun x hx => (hl x (List.mem_cons_of_mem _ hx)).of_maps hr.variant hr.lin) (hr.writes ck hck))

theorem serveLate_kept {ck : Nat} {s : State} (hck : WritesOnly s ck) : Kept BankUnit.work s (serveLate ck s) := by
  have hnone : Kept BankUnit.work s (putChan ck { chanAt s ck with late := [] } s) :=
    (Kept.refl s).putChan rfl fun h => ⟨h.reads, h.writes, by simp⟩
  refine .ite (fun _ => Kept.refl s) fun _ => hnone.trans ?_
  exact lateAgain_foldl_kept (fun r hr => (hck.late r hr).of_maps hnone.variant hnone.lin) (hnone.writes ck hck)

/-- The best is one of them: each step keeps the place that it has or takes the place that it looks at. -/
theorem bestOf_lt {l : List (Option Nat)} {i : Nat} (h : bestOf l = some i) : i < l.length := by
  obtain ⟨y, hy, rfl⟩ := Option.map_eq_some_iff.1 h
  revert y
  refine List.foldlRecOn (motive := fun b : Option (Nat × Nat) => ∀ y, b = some y → bestOf l = some y.2 → y.2 < l.length) _ _ (by simp) ?_
  intro b hb e he y hy hbest
  have hlt := List.snd_lt_of_mem_zipIdx he
  grind

theorem issueWrite_kept {ck i : Nat} {s : State} (hck : WritesOnly s ck) (hi : i < (chanAt s ck).wrq.length) :
    Kept BankUnit.work s (issueWrite ck i s) := by
  have hw : ((chanAt s ck).wrq.getD i {}).Whole := by
    rw [List.getD_eq_getElem _ _ hi]
    exact hck.writes _ (List.getElem_mem hi)
  have htaken : Kept BankUnit.work s (putChan ck { chanAt s ck with wrq := (chanAt s ck).wrq.eraseIdx i } s) :=
    (Kept.refl s).putChan rfl fun h => ⟨h.reads, fun w hm => h.writes w (List.mem_of_mem_eraseIdx hm), h.late⟩
  refine .ite (fun hs => absurd hs ?_) fun _ => htaken.trans (applyWrite_kept hw _)
  rw [hw.plain]
  decide

theorem drainTo_kept {ck : Nat} {s : State} (hck : WritesOnly s ck) (keep n : Nat) : Kept BankUnit.work s (drainTo keep ck n s) := by
  induction n generalizing s with
  | zero => exact Kept.refl s
  | succ n ih =>
    rw [drainTo]
    refine .ite (fun _ => Kept.refl s) fun _ => ?_
    cases hbest : bestOf ((chanAt s ck).wrq.map (writeScore s ck)) with
    | none => exact Kept.refl s
    | some i =>
      have hissue := issueWrite_kept hck (by simpa using bestOf_lt hbest)
      exact hissue.trans (ih (hissue.writes ck hck))

theorem serveReads_of_none {ck : Nat} {s : State} (h : (chanAt s ck).rdq = []) (n : Nat) : serveReads ck n s = s := by
  cases n with
  | zero => rfl
  | succ n => simp [serveReads, h, bestOf]

/-! Refresh and recalibration. -/

theorem refreshed_kept (ck : Nat) (s : State) : Kept BankUnit.work s (refreshed ck s) := by
  have hrc : Kept BankUnit.work s (putChan ck { chanAt s ck with rc := (chanAt s ck).rc - 1 } s) := (Kept.refl s).putChan_rest rfl
  have hdone : Kept BankUnit.work s (counti (mcPage ck) .mcsRefreshes (ck % 32) 1 (putChan ck { chanAt s ck with rc := (chanAt s ck).rc - 1 } s)) :=
    hrc.wri (by decide)
  exact .ite (fun _ => hdone.count (by decide)) fun _ => hdone

theorem refreshBank_kept (ck b : Nat) (s : State) : Kept BankUnit.work s (refreshBank ck b s) := (shutRows_kept ..).trans (noteCmd_kept ..)

theorem refreshNow_kept (ck : Nat) (s : State) : Kept BankUnit.work s (refreshNow ck s) := by
  unfold refreshNow
  extract_lets t
  have ht : Kept BankUnit.work s t := (Kept.refl s).forUpto fun b t => .ite (fun _ => Kept.refl t) fun _ => refreshBank_kept ..
  clear_value t
  refine .ite (fun _ => ((preAll_kept ..).trans (noteCmd_kept ..)).trans (refreshed_kept ..)) fun _ => Kept.trans ?_ (refreshed_kept ..)
  exact ht.putChan_rest rfl

theorem forceRefresh_kept (ck : Nat) (s : State) : Kept BankUnit.work s (forceRefresh ck s) :=
  .ite (fun _ => refreshNow_kept ..) fun _ => Kept.refl s

theorem dueRefresh_kept (ck n : Nat) (s : State) : Kept BankUnit.work s (dueRefresh ck n s) := by
  induction n generalizing s with
  | zero => exact Kept.refl s
  | succ n ih => exact .ite (fun _ => (refreshNow_kept ck s).trans (ih _)) fun _ => Kept.refl s

theorem tryRecal_kept (ck : Nat) (s : State) : Kept BankUnit.work s (tryRecal ck s) :=
  .ite (fun _ => (dueRefresh_kept ck 8 s).putChan_rest rfl) fun _ => Kept.refl s

theorem tryRecals_kept (d : Nat) (s : State) : Kept BankUnit.work s (tryRecals d s) := (Kept.refl s).forUpto fun _ _ => tryRecal_kept ..

/-! The channel goes on. -/

theorem serveChan_kept {ck : Nat} {s : State} (hck : WritesOnly s ck) : Kept BankUnit.work s (serveChan ck s) := by
  unfold serveChan
  extract_lets s1 ch s2 s3
  have h1 : Kept BankUnit.work s s1 := forceRefresh_kept ck s
  have h2 : Kept BankUnit.work s s2 := h1.trans (.ite (fun _ => drainTo_kept (h1.writes ck hck) ..) fun _ => Kept.refl s1)
  have h3 : Kept BankUnit.work s s3 := by
    rw [show s3 = s2 from serveReads_of_none (h2.writes ck hck).reads _]
    exact h2
  have h4 : Kept BankUnit.work s (drainAll ck s3) := h3.trans (drainTo_kept (h3.writes ck hck) ..)
  exact h4.trans (serveLate_kept (h4.writes ck hck))

/-- At a leg boundary the channel goes on and no sequence is lost (R338). -/
theorem legBoundary_kept {ck : Nat} {s : State} (hck : WritesOnly s ck) : Kept BankUnit.work s (legBoundary ck s) := by
  unfold legBoundary
  extract_lets s1 s2
  have h1 : Kept BankUnit.work s s1 := .ite (fun _ => tryRecal_kept ..) fun _ => Kept.refl s
  have h2 : Kept BankUnit.work s s2 := h1.trans (serveChan_kept (h1.writes ck hck))
  exact (h2.trans (dueRefresh_kept ..)).trans (tryRecals_kept ..)

end Sys2Proof.Machine
end

section
/-!
What a bank unit's own work leaves alone: sequences, channels with whole-column writes, and the unit's registers V0 to V7 and BAD_CMD
(R256, R259-R264, R290-R303).
-/

namespace Sys2Proof.Machine

/-- V0 to V7 and BAD_CMD of a bank unit, which its own work does not change. -/
def BankUnit.face (u : BankUnit) : List Nat × Bool := (u.v, u.badCmd)

namespace Kept

variable {τ : Type} {f : BankUnit → τ} {a b : State}

theorem face (h : Kept BankUnit.work a b) : Kept BankUnit.face a b := h.map BankUnit.face

end Kept

/-- The same for an operation that answers a value beside the state. -/
abbrev KeptS {α : Type} (a : State) (x : α × State) : Prop := Kept BankUnit.face a x.2

theorem freshNext_kept (s : State) : Kept BankUnit.face s (freshNext s) := .of_upd (freshNext_upd s) ⟨rfl, rfl, rfl, rfl⟩

theorem unitCol_kept (c : Nat) (s : State) : KeptS s (unitCol c s) := by
  unfold unitCol
  extract_lets r bk u t1 t2
  split
  · exact Kept.refl s
  · exact (countRead_kept ..).face
  · exact (countRead_kept ..).face
  · exact (countRead_kept ..).face.trans (freshNext_kept _)
  · exact (countRead_kept ..).face.trans (freshNext_kept _)
  · refine Kept.trans (.ite (fun _ => Kept.refl s) fun _ => ?_) (freshNext_kept _)
    have hlog := ((countRead_kept .ue c s).trans (logErr_kept (buPage bk) 1 0x20 (dpaOfCol s c) _)).face
    exact hlog.putUnit (hlog.unit bk).symm

theorem unitAtOff_kept (bk o : Nat) (s : State) : KeptS s (unitAtOff bk o s) := by
  unfold unitAtOff
  split
  · exact (openRow_kept ..).face.trans (unitCol_kept ..)
  · exact freshNext_kept s

theorem unitCols_kept (bk o n : Nat) (s : State) : KeptS s (unitCols bk o n s) :=
  foldl_keeps (Q := fun r : (List Byte × Bool) × State => Kept BankUnit.face s r.2) (Kept.refl s) fun _ _ h => h.trans (unitAtOff_kept ..)

theorem unitWrite_kept (bk o : Nat) (data : List Byte) (poison : Bool) (s : State) : Kept BankUnit.face s (unitWrite bk o data poison s) := by
  refine (Kept.refl s).foldl fun t e _ => ?_
  split
  · exact .ite (fun _ => (sideWrite_kept ..).face) fun _ => ((openRow_kept ..).trans (storeCol_kept ..)).face
  · exact Kept.refl t

/-! Items. -/

theorem emitRec_kept (q : Seq) (bk : Nat) (fl two bad : Bool) (s : State) : Kept BankUnit.face s (emitRec q bk fl two bad s) := by
  unfold emitRec
  extract_lets u drain d0 d1 data t
  have ht : Kept BankUnit.face s t := (Kept.refl s).putUnit rfl
  exact .ite (fun _ => ht.trans (unitWrite_kept ..)) fun _ => ht

theorem mvsItem_kept (q : Seq) (bk : Nat) (s : State) : Kept BankUnit.face s (mvsItem q bk s) := by
  unfold mvsItem
  extract_lets w k fl gb r row u es lane accs book scale src t
  have hr : Kept BankUnit.face s r.2 := unitCols_kept ..
  have ht : Kept BankUnit.face s t := (hr.putUnit (by rfl)).trans (emitRec_kept ..)
  clear_value t
  exact .ite (fun _ => ht) fun _ => ht.putUnit rfl

theorem dotItem_kept (q : Seq) (bk : Nat) (s : State) : Kept BankUnit.face s (dotItem q bk s) := by
  unfold dotItem
  extract_lets w d fl bitsE cols g r row lane sum u j first u' t
  have hr : Kept BankUnit.face s r.2 := unitCols_kept ..
  have ht : Kept BankUnit.face s t := hr.putUnit (by
    simp only [u', u]
    split <;> rfl)
  exact .ite (fun _ => ht.trans (emitRec_kept ..)) fun _ => ht

theorem gredItem_kept (q : Seq) (bk : Nat) (s : State) : Kept BankUnit.face s (gredItem q bk s) := by
  unfold gredItem
  extract_lets -underBinder +onlyGivenNames w n fl word e t
  have ht : Kept BankUnit.face s t := by
    simp only [t]
    split
    case h_1 o _ => exact (unitCols_kept bk o (n * fmtBits (cwSf w) / 8 / 32) s).putUnit rfl
    case h_2 => exact .ite (fun _ => Kept.refl s) fun _ => (Kept.refl s).putUnit rfl
  clear_value t
  refine .ite (fun _ => ?_) fun _ => ht
  extract_lets u t'
  have hemit : Kept BankUnit.face s t' := Kept.trans (.ite (fun _ => ht.putUnit (by rfl)) fun _ => ht) (emitRec_kept ..)
  clear_value t'
  exact hemit.putUnit rfl

theorem pqItem_kept (q : Seq) (bk : Nat) (s : State) : Kept BankUnit.face s (pqItem q bk s) := by
  unfold pqItem
  extract_lets w m fl i r0 u0 t1 sel r sel' row score res out th pass u base new u'
  have h1 : Kept BankUnit.face s t1 := .ite (fun _ => (unitAtOff_kept ..).putUnit rfl) fun _ => Kept.refl s
  have hr : Kept BankUnit.face s r.2 := by
    simp only [r]
    split
    · exact h1
    · exact h1.trans (unitCols_kept ..)
  clear_value r
  exact hr.putUnit rfl

theorem unitItem_kept (q : Seq) (bk : Nat) (s : State) : Kept BankUnit.face s (unitItem q bk s) := by
  unfold unitItem
  split
  · exact mvsItem_kept ..
  · exact dotItem_kept ..
  · exact gredItem_kept ..
  · exact pqItem_kept ..
  · exact Kept.refl s

theorem chargeChunks_kept (ck : Nat) (q : Seq) (s : State) : Kept BankUnit.face s (chargeChunks ck q s) :=
  .ite (fun _ => Kept.refl s) fun _ => ((harnessCharge_kept ..).forUpto fun _ _ => noteHarness_kept ..).face

theorem addSteps_kept {τ : Type} {f : BankUnit → τ} (hf : ∀ u n, f { u with steps := n } = f u) (ck : Nat) (q : Seq) (n : Nat) (s : State) :
    Kept f s (addSteps ck q n s) :=
  ((Kept.refl s).foldl fun t _ _ => (Kept.refl t).putUnit (hf ..)).count (by decide)

/-! Rows. -/

theorem dropMark_kept (c : Nat) (s : State) : Kept BankUnit.face s (dropMark c s) :=
  .ite (fun _ => (Kept.refl s).putUnit rfl) fun _ => Kept.refl s

theorem vetRow_kept (key : Nat) (s : State) : KeptS s (vetRow key s) := by
  unfold vetRow
  extract_lets t1 r e t ok
  have h1 : Kept BankUnit.face s t1 := (openRow_kept ..).face
  have hr : Kept BankUnit.face s r.2 :=
    foldl_keeps (Q := fun r : (Bool × List Byte) × State => Kept BankUnit.face s r.2) h1 fun _ _ h =>
      (h.trans (unitCol_kept ..)).trans (.ite (fun _ => (sealCol_kept ..).face) fun _ => Kept.refl _)
  have ht : Kept BankUnit.face s t.2 := (hr.trans (openRow_kept ..).face).trans (unitCol_kept ..)
  exact .ite (fun _ => ht) fun _ => ht.count (by decide)

theorem putEntry_kept (key : Nat) (s : State) : KeptS s (putEntry key s) := by
  unfold putEntry
  extract_lets e t crc
  have ht : Kept BankUnit.face s t.2 := (openRow_kept ..).face.trans (unitCol_kept ..)
  exact (ht.trans (sealCol_kept ..).face).trans (dropMark_kept ..)

theorem burnishRow_kept (key : Nat) (produced : Bool) (s : State) : KeptS s (burnishRow key produced s) := by
  unfold burnishRow
  extract_lets t1 r e
  have h1 : Kept BankUnit.face s t1 := (openRow_kept ..).face
  have hr : Kept BankUnit.face s r.2 := by
    refine foldl_keeps (Q := fun r : Bool × State => Kept BankUnit.face s r.2) h1 fun r i h => ?_
    dsimp only
    split
    · exact (h.trans (sealCol_kept ..).face).trans (dropMark_kept ..)
    · have hcol : Kept BankUnit.face s (unitCol (key * 32 + i) r.2).2 := h.trans (unitCol_kept ..)
      split
      · exact hcol.trans (sealCol_kept ..).face
      · exact hcol.trans (sealCol_kept ..).face
      · exact hcol.trans (sealCol_kept ..).face
      · exact hcol.trans (sealCol_kept ..).face
      · exact hcol
      · exact hcol
  exact hr.trans (putEntry_kept ..)

theorem staleWrite_kept (c : Nat) (data : List Byte) (s : State) : Kept BankUnit.face s (staleWrite c data s) :=
  Kept.trans (Kept.trans (.of_upd (putColData_upd ..) ⟨rfl, rfl, rfl, rfl⟩) (.of_upd (putDramChk_upd ..) ⟨rfl, rfl, rfl, rfl⟩))
    (dropMark_kept ..)

theorem rowOp_kept (op d : Nat) (srcs : List Nat) (s : State) : Kept BankUnit.face s (rowOp op d srcs s) := by
  unfold rowOp
  extract_lets t1 t2 v data
  have h1 : Kept BankUnit.face s t1 := (Kept.refl s).foldl fun _ _ _ => (openRow_kept ..).face
  have h2 : Kept BankUnit.face s t2 := h1.trans (shutRows_kept ..).face
  exact (h2.foldl fun _ _ _ => staleWrite_kept ..).count (by decide)

theorem rowSkip_kept (bk i : Nat) (poison : Bool) (s : State) : Kept BankUnit.face s (rowSkip bk i poison s) :=
  Kept.count (by decide) ((Kept.refl s).putUnit rfl)

theorem rowSeal_kept (bk p k : Nat) (s : State) : Kept BankUnit.face s (rowSeal bk p k s) := by
  unfold rowSeal
  extract_lets key produced r u vet
  have hr : Kept BankUnit.face s r.2 := burnishRow_kept ..
  clear_value r
  exact hr.putUnit rfl

theorem rowVet_kept (bk p k : Nat) (s : State) : Kept BankUnit.face s (rowVet bk p k s) := by
  refine .ite (fun _ => Kept.refl s) fun _ => (vetRow_kept ..).putUnit ?_
  split <;> rfl

theorem rowPoison_kept (bk p d : Nat) (s : State) : Kept BankUnit.face s (rowPoison bk p d s) := by
  unfold rowPoison
  extract_lets key t u
  have ht : Kept BankUnit.face s t := (Kept.refl s).foldl fun _ _ _ => (poisonCol_kept ..).face.trans (dropMark_kept ..)
  clear_value t
  exact ht.putUnit rfl

theorem rowAct_kept (q : Seq) (bk : Nat) (s : State) : Kept BankUnit.face s (rowAct q bk s) := by
  unfold rowAct
  extract_lets p u t1
  split
  · exact rowSkip_kept ..
  case h_2 e _ =>
    extract_lets t2 row u'
    have hbad : Kept BankUnit.face s t1 := (Kept.refl s).putUnit rfl
    have hop : Kept BankUnit.face s t2 := rowOp_kept ..
    clear_value t1 t2
    refine .ite (fun _ => rowSeal_kept ..) fun _ => .ite (fun _ => Kept.trans ?_ (rowSkip_kept ..)) fun _ => .ite (fun _ => Kept.refl s) fun _ =>
      hop.putUnit rfl
    exact .ite (fun _ => hbad) fun _ => hbad.trans (rowPoison_kept ..)

theorem rowPart_kept (q : Seq) (bk : Nat) (s : State) : Kept BankUnit.face s (rowPart q bk s) := by
  unfold rowPart
  split
  · exact rowVet_kept ..
  · exact rowAct_kept ..

theorem rowSecond_kept (q : Seq) (bk : Nat) (s : State) : Kept BankUnit.face s (rowSecond q bk s) := by
  unfold rowSecond
  split
  · exact .ite (fun _ => rowSeal_kept ..) fun _ => Kept.refl s
  · exact Kept.refl s

theorem rowCommand_kept (q : Seq) (bk : Nat) (s : State) : Kept BankUnit.face s (rowCommand q bk s) := by
  unfold rowCommand
  extract_lets o key vet u burn u'
  have hvet : Kept BankUnit.face s vet.2 := vetRow_kept ..
  have hburn : Kept BankUnit.face s burn.2 := burnishRow_kept ..
  clear_value vet burn
  exact .ite (fun _ => hvet.putUnit rfl) fun _ => hburn.putUnit rfl

end Sys2Proof.Machine
end

section
/-!
What the harness window decodes to, and what one access to a special column does (R255-R257, R259).
-/

namespace Sys2Proof.Machine

/-! Little-endian numbers. -/

theorem leNat_leBytes (n v : Nat) : leNat (leBytes n v) = v % 2 ^ (8 * n) := by
  induction n generalizing v with
  | zero => simp [leBytes, leNat, Nat.mod_one]
  | succ n ih =>
    have hpow : 2 ^ (8 * (n + 1)) = 256 * 2 ^ (8 * n) := by
      rw [Nat.mul_add, Nat.pow_add]
      ring
    rw [leBytes, leNat, ih, hpow, Nat.mod_mul]
    simp [BitVec.toNat_ofNat]

theorem leNat_take (l : List Byte) (n : Nat) : leNat (l.take n) = leNat l % 2 ^ (8 * n) := by
  induction l generalizing n with
  | nil => simp [leNat]
  | cons b l ih =>
    cases n with
    | zero => simp [leNat, Nat.mod_one]
    | succ n =>
      have hpow : 2 ^ (8 * (n + 1)) = 256 * 2 ^ (8 * n) := by
        rw [Nat.mul_add, Nat.pow_add]
        ring
      have hb : b.toNat < 256 := b.isLt
      have hlow : (b.toNat + 256 * leNat l) % 256 = b.toNat := by omega
      have hhigh : (b.toNat + 256 * leNat l) / 256 = leNat l := by omega
      rw [List.take_succ_cons, leNat, leNat, ih, hpow, Nat.mod_mul, hlow, hhigh]

@[simp] theorem leBytes_length (n v : Nat) : (leBytes n v).length = n := by
  induction n generalizing v with
  | zero => rfl
  | succ n ih => simp [leBytes, ih]

/-- The low 64 bits after they are replaced. -/
theorem bits_setBits_low (v x : Nat) : bits (setBits v 63 0 x) 63 0 = x % 2 ^ 64 := by
  simp only [setBits, bits, Nat.shiftLeft_zero, Nat.shiftRight_zero]
  omega

theorem slice_whole {l : List Byte} {n : Nat} (h : l.length = n) : slice l 0 n = l := by simp [slice, ← h]

/-- The first four entries, and all ones for each that is not there. -/
theorem take_four (l : List Nat) (x : Nat) : l.take 4 ++ List.replicate (4 - l.length) x = (List.range 4).map fun i => l.getD i x := by
  rcases l with _ | ⟨a, _ | ⟨b, _ | ⟨c, _ | ⟨d, l⟩⟩⟩⟩ <;> simp [List.range_succ, List.replicate_succ]

/-! The window's decoding. -/

theorem regionOf_harness_chan {v : Variant} {x d c off : Nat} (h : regionOf v x = .harness d c off) : c < 32 := by
  have hchan : x / 2 ^ 25 % 32 < 32 := Nat.mod_lt _ (by decide)
  unfold regionOf at h
  split_ifs at h
  obtain ⟨-, rfl, -⟩ := Region.harness.injEq .. ▸ h
  exact hchan

/-- The special column of a place in the harness window. The definition is opened before its arguments are there: the kernel would
evaluate `regionOf` of them, which it cannot. -/
theorem scOfDpa_of_region {s : State} {dpa d c off : Nat} (hregion : regionOf s.variant dpa = .harness d c off) :
    scOfDpa s dpa = some (bits off 9 5) := by
  have hopen : ∀ f : State → Nat → Option Nat, scOfDpa = f → f s dpa = some (bits off 9 5) := by
    delta scOfDpa
    rintro f rfl
    beta_reduce
    rw [hregion]
  exact hopen _ rfl

theorem scOfDpa_of_harness {s : State} {dpa d c off : Nat} {w : Bool} {x : HarnessAddr} (hregion : regionOf s.variant dpa = .harness d c off)
    (haddr : harnessAddr d c off w = x) : scOfDpa s dpa = some x.sc :=
  (scOfDpa_of_region hregion).trans (congrArg (fun y => some (HarnessAddr.sc y)) haddr)

/-- A command to a special column is noted and its 32 bytes are charged to the host's port. -/
def harnessNoted (cmd d bk sc : Nat) (s : State) : State := noteHarness cmd bk sc (harnessCharge d none 32 s)

theorem harnessNoted_upd (cmd d bk sc : Nat) (s : State) : Upd [.chans, .regMcs, .servedBytes] s (harnessNoted cmd d bk sc s) :=
  ((harnessCharge_upd ..).mono rfl).trans ((noteHarness_upd ..).mono rfl)

theorem harnessNoted_kept (cmd d bk sc : Nat) (s : State) : Kept BankUnit.work s (harnessNoted cmd d bk sc s) :=
  (harnessCharge_kept ..).trans (noteHarness_kept ..)

theorem harnessNoted_calm (cmd d bk sc : Nat) (s : State) : Calm s (harnessNoted cmd d bk sc s) :=
  (chargeAs_calm ..).trans (noteCmd_calm ..)

@[simp] theorem unitState_harnessNoted (cmd d bk sc : Nat) (s : State) (k : Nat) : unitState (harnessNoted cmd d bk sc s) k = unitState s k :=
  unitState_congr ((harnessNoted_upd ..).same .units rfl) k

/-- A whole aligned column is one write. -/
theorem harnessStore_column {s : State} {dpa d c off : Nat} {data : List Byte} (hregion : regionOf s.variant dpa = .harness d c off)
    (hoff : off % 32 = 0) (hheld : harnessHeld s (ckOf d c) = false) (hpart : partState s (partOfStack d) ≠ 4) (hlen : data.length = 32) :
    harnessStore dpa data s = harnessWrite d c off dpa data s := by
  have hone : chunks 32 1 data = [data] := by
    have hne : data.isEmpty = false := by
      rw [List.isEmpty_eq_false_iff, ← List.length_pos_iff, hlen]
      decide
    simp [chunks, hne, List.take_of_length_le (Nat.le_of_eq hlen)]
  unfold harnessStore
  rw [hregion]
  simp [inHarness, hheld, hpart, hoff, hlen, hone]

section Taken

variable {s : State} {dpa d c off b sc : Nat} {data : List Byte}

/-- A write to an idle unit of a channel in harness mode. -/
theorem harnessWrite_idle (haddr : harnessAddr d c off true = ⟨ckOf d c, false, b, sc, true⟩) (hoff : off % 32 = 0)
    (hm : (chanAt s (ckOf d c)).hm = .on) (hbusy : unitBusy s (ckOf d c * 32 + b) = false) (hlen : data.length = 32) :
    harnessWrite d c off dpa data s = if sc = 9 then
        hostCommand (bits (leNat data) 7 0) (bits (leNat data) 15 8) (bits (leNat data) 31 16) (ckOf d c) [ckOf d c * 32 + b]
          (harnessNoted 0x0A d (ckOf d c * 32 + b) sc s)
      else specialWrite sc data (ckOf d c * 32 + b) (harnessNoted 0x0A d (ckOf d c * 32 + b) sc s) := by
  simp [harnessWrite, haddr, hoff, hm, hbusy, hlen, harnessNoted]

/-- A write to a busy unit is discarded, counted and logged (R257). -/
theorem harnessWrite_busy (haddr : harnessAddr d c off true = ⟨ckOf d c, false, b, sc, true⟩) (hoff : off % 32 = 0)
    (hm : (chanAt s (ckOf d c)).hm = .on) (hbusy : unitBusy s (ckOf d c * 32 + b) = true) (hlen : data.length = 32) :
    harnessWrite d c off dpa data s =
      harnessErr 0x04 dpa (ckOf d c) (raise (buOf d).page 17 (count (buOf d).page .bkuHostDiscard 1 s)) := by
  simp [harnessWrite, haddr, hoff, hm, hbusy, hlen]

/-- A broadcast that meets no busy unit reaches the units of the gang. -/
theorem harnessWrite_broadcast (haddr : harnessAddr d c off true = ⟨ckOf d c, true, b, sc, true⟩) (hoff : off % 32 = 0)
    (hm : (chanAt s (ckOf d c)).hm = .on) (hreq : hmReq s (ckOf d c) = false) (hsc : sc < 8) (hlen : data.length = 32)
    (hidle : ∀ n, n < 32 → unitBusy s (ckOf d c * 32 + n) = false) :
    harnessWrite d c off dpa data s = ((bitList (chanAt s (ckOf d c)).gang).map (ckOf d c * 32 + ·)).foldl
      (fun t bk => specialWrite sc data bk t) (harnessNoted 0x0A d (ckOf d c * 32) sc s) := by
  have hgang : hostGang (ckOf d c) s = s := by simp [hostGang, hreq]
  have hnone : ((bitList (chanAt s (ckOf d c)).gang).map (ckOf d c * 32 + ·)).any (unitBusy s) = false := by
    rw [List.any_eq_false]
    intro k hk
    obtain ⟨n, hn, rfl⟩ := List.mem_map.1 hk
    rw [hidle n (List.mem_range.1 (List.mem_of_mem_filter hn))]
    decide
  have hsc' : sc ≠ 9 := by omega
  unfold harnessWrite
  rw [haddr]
  simp only [hoff, hm, hlen, hgang, hnone, harnessNoted, hsc', Nat.add_zero, reduceIte, bne_self_eq_false, Bool.or_self, Bool.not_true,
    Bool.false_eq_true]

end Taken

/-! Whole-column writes other than commands. -/

theorem specialWrite_v {sc : Nat} (h : sc < 8) (data : List Byte) (bk : Nat) (s : State) :
    specialWrite sc data bk s = putUnit bk { unitState s bk with v := setAt 0 (unitState s bk).v sc (leNat data) } s := if_pos h

/-- What a write of one of V0 to V7 leaves in that register of a unit. -/
theorem v_specialWrite {sc : Nat} (h : sc < 8) (data : List Byte) (bk k : Nat) (s : State) :
    (unitState (specialWrite sc data bk s) k).v.getD sc 0 = if k = bk then leNat data else (unitState s k).v.getD sc 0 := by
  rw [specialWrite_v h, unitState_putUnit]
  split
  · rw [setAt_getD, if_pos rfl]
  · rfl

theorem unitState_specialWrite_other {sc : Nat} (h : sc < 8) (data : List Byte) {bk k : Nat} (hk : k ≠ bk) (s : State) :
    unitState (specialWrite sc data bk s) k = unitState s k := by
  rw [specialWrite_v h, unitState_putUnit_other hk]

/-! Commands. -/

/-- The unit as a host command finds it begun, before what the command does in one go. -/
theorem beginUnit_of_host {q : Seq} (hhost : q.host = true) (bk : Nat) (s : State) : ∃ u : BankUnit,
    u.face = ((unitState s bk).v, false) ∧ Kept BankUnit.face (putUnit bk u s) (beginUnit q bk s) ∧
      (q.op = 0x01 → beginUnit q bk s = putUnit bk u s ∧ u.a0 = zeros16 ∧ u.a1 = zeros16 ∧ u.count = 0 ∧ u.fifo = []) := by
  have hload (t : State) (i : Nat) : loadChunk q bk i t = t := if_pos (by simp [hhost])
  unfold beginUnit
  extract_lets u0 acc clr u1 u2 t t1
  refine ⟨u2, ?_, ?_, fun hop => ?_⟩
  · simp only [u2, u1]
    split <;> rfl
  · rw [hload, hload]
    have ht : Kept BankUnit.face t t := Kept.refl t
    exact .ite (fun _ => unitWrite_kept ..) fun _ => .ite (fun _ => rowCommand_kept ..) fun _ => ht
  · have hclr : clr = true := by simp [clr, hop]
    rw [hload, hload]
    refine ⟨by simp [t1, hop, t], ?_, ?_, ?_, ?_⟩ <;> simp [u2, u1, hclr, hop, BankUnit.clearAccs]

theorem cmdOk_of_calm {s t : State} (h : Calm s t) (d op flags w : Nat) : cmdOk t d op flags w = cmdOk s d op flags w := by
  have hbmp (p : Nat) : isBitmap t d p = isBitmap s d p := by rw [isBitmap, rd, h.regs _ .mcsBmpMap _ (by decide), ← rd, ← isBitmap]
  simp only [cmdOk, hbmp, h.variant]

/-- The sequence that a host command to one unit starts (R259). -/
def hostSeq (op flags tag b : Nat) (u : BankUnit) : Seq :=
  { host := true, banks := [b], op := op, flags := flags, tag := tag, cw := u.cw, stream := hostStream op u.cw u.v, st := .running }

theorem hostCommand_ok {s : State} {op flags tag ck bk : Nat} (h : cmdOk s (ck / 32) op flags (unitState s bk).cw = true) :
    hostCommand op flags tag ck [bk] s = beginUnit (hostSeq op flags tag (bk % 32) (unitState s bk)) bk
      (putChan ck { chanAt s ck with seqs := (chanAt s ck).seqs ++ [hostSeq op flags tag (bk % 32) (unitState s bk)] } s) := by
  simp [hostCommand, h, hostSeq, List.eraseDups_cons]

theorem hostCommand_refused {s : State} {op flags tag ck bk : Nat} (h : cmdOk s (ck / 32) op flags (unitState s bk).cw = false) :
    hostCommand op flags tag ck [bk] s = refuseUnit bk s := by simp [hostCommand, h]

/-- The first error of a page is captured with its code (R40). -/
theorem errCode_logErr {s : State} {p : Nat} (h : rd s p .hdrErrValid = 0) (sev code detail : Nat) :
    rd (logErr p sev code detail s) p .hdrErrCode = code % 2 ^ Fld.hdrErrCode.row.width := by
  have hpend (t : State) : rd (pendDomain p t) p .hdrErrCode = rd t p .hdrErrCode := (pendDomain_upd p t).rdi (f := .hdrErrCode) rfl p 0
  unfold logErr
  extract_lets t
  have ht : rd t p .hdrErrCode = code % 2 ^ Fld.hdrErrCode.row.width := by
    simp only [t, if_pos h]
    rw [rd, rdi_raise_fld (by decide), rdi_wr_fld (by decide), rdi_wr_fld (by decide), rdi_wr_fld (by decide), rdi_wr_fld (by decide), ← rd,
      rd_wr_same]
  split
  · exact ht
  · exact (hpend t).trans ht

end Sys2Proof.Machine
end

section
/-!
O40: the writes, the pop and the commands of one unit, and the theorem (R255-R259, R264, R283).
-/

namespace Sys2Proof.Machine

/-- The unit of a bank of a channel, its stack and its channel. -/
theorem unitOf_stack {c b : Nat} (hc : c < 32) (hb : b < 32) (d : Nat) : (ckOf d c * 32 + b) / 1024 = d := by
  unfold ckOf
  omega

section Taken

variable {s : State} {dpa d c b sc : Nat} {data : List Byte}

/-- A harness write that is taken, to an idle unit, is the write of the special column with its 32 bytes noted. -/
theorem harnessStore_special (h : harnessTakes s dpa d c b sc true) (hsc : sc ≠ 9) (hbusy : unitBusy s (ckOf d c * 32 + b) = false)
    (hlen : data.length = 32) : harnessStore dpa data s =
      specialWrite sc data (ckOf d c * 32 + b) (harnessNoted 0x0A d (ckOf d c * 32 + b) sc s) := by
  obtain ⟨off, hregion, haddr, hoff, hm, hheld, hpart⟩ := h
  rw [harnessStore_column hregion hoff hheld hpart hlen, harnessWrite_idle haddr hoff hm hbusy hlen, if_neg hsc]

theorem scOfDpa_of_takes {w : Bool} (h : harnessTakes s dpa d c b sc w) : scOfDpa s dpa = some sc := by
  obtain ⟨off, hregion, haddr, -⟩ := h
  exact scOfDpa_of_harness hregion haddr

/-- A command write that is taken, to an idle unit. -/
theorem cmdWrite_taken {op flags tag : Nat} (h : harnessTakes s dpa d c b 9 true) (hbusy : unitBusy s (ckOf d c * 32 + b) = false)
    (hop : op < 256) (hflags : flags < 256) (htag : tag < 2 ^ 16) : cmdWrite op dpa flags tag s =
      hostCommand op flags tag (ckOf d c) [ckOf d c * 32 + b] (harnessNoted 0x0A d (ckOf d c * 32 + b) 9 s) := by
  have hword : leNat (leBytes 32 (op + flags % 2 ^ 8 * 2 ^ 8 + tag % 2 ^ 16 * 2 ^ 16)) = op + flags * 2 ^ 8 + tag * 2 ^ 16 := by
    rw [leNat_leBytes, Nat.mod_eq_of_lt (show flags < 2 ^ 8 from hflags), Nat.mod_eq_of_lt htag, Nat.mod_eq_of_lt]
    exact Nat.lt_of_lt_of_le (by omega : _ < 2 ^ 32) (Nat.pow_le_pow_right (by decide) (by decide))
  have hfields : bits (op + flags * 2 ^ 8 + tag * 2 ^ 16) 7 0 = op ∧ bits (op + flags * 2 ^ 8 + tag * 2 ^ 16) 15 8 = flags ∧
      bits (op + flags * 2 ^ 8 + tag * 2 ^ 16) 31 16 = tag := by
    simp only [bits, Nat.shiftRight_eq_div_pow]
    omega
  obtain ⟨hopcode, hflag, htags⟩ := hfields
  have hsc := scOfDpa_of_takes h
  obtain ⟨off, hregion, haddr, hoff, hm, hheld, hpart⟩ := h
  rw [cmdWrite, if_pos hsc, harnessStore_column hregion hoff hheld hpart (leBytes_length ..),
    harnessWrite_idle haddr hoff hm hbusy (leBytes_length ..), if_pos rfl, hword, hopcode, hflag, htags]

end Taken

/-- A pop of a unit whose FIFO holds no more than 32 and where none waits. -/
theorem BankUnit.pop_of_none_waits {u : BankUnit} (hpend : u.pend = []) (hfifo : u.fifo.length ≤ 32) (n : Nat) :
    u.pop n = { u with fifo := u.fifo.drop n } := by
  have hle : (u.fifo.drop n).length ≤ 32 := by
    rw [List.length_drop]
    omega
  simp [BankUnit.pop, BankUnit.push, hpend, List.take_of_length_le hle, List.drop_eq_nil_of_le hle]

/-- FIFO_POP: the first four entries go out, and the unit loses them (R256). -/
theorem harnessLoad_pop {s : State} {dpa d c b : Nat} (h : harnessTakes s dpa d c b 17 false) (hdpa : dpa % 32 = 0) :
    harnessLoad dpa 32 s = emit (.memData ((List.range 4).flatMap fun i => leBytes 8 ((unitState s (ckOf d c * 32 + b)).fifo.getD i (2 ^ 64 - 1)))
      false) (putUnit (ckOf d c * 32 + b) ((unitState s (ckOf d c * 32 + b)).pop 4) (harnessNoted 0x09 d (ckOf d c * 32 + b) 17 s)) := by
  obtain ⟨off, hregion, haddr, hoff, hm, hheld, hpart⟩ := h
  have hread : specialRead s (ckOf d c * 32 + b) 17 =
      (List.range 4).flatMap fun i => leBytes 8 ((unitState s (ckOf d c * 32 + b)).fifo.getD i (2 ^ 64 - 1)) := by
    rw [← List.flatMap_map (fun i => (unitState s (ckOf d c * 32 + b)).fifo.getD i (2 ^ 64 - 1)), ← take_four]
    rfl
  have hlen : (specialRead s (ckOf d c * 32 + b) 17).length = 32 := by
    rw [hread]
    simp [List.range_succ]
  have hone : harnessRead d c off dpa s = (some (specialRead s (ckOf d c * 32 + b) 17),
      putUnit (ckOf d c * 32 + b) ((unitState s (ckOf d c * 32 + b)).pop 4) (harnessNoted 0x09 d (ckOf d c * 32 + b) 17 s)) := by
    simp [harnessRead, haddr, hm, harnessNoted]
  have hplace : off / 32 * 32 = off := by omega
  have haddress : dpa / 32 * 32 = dpa := by omega
  have hcols : ceilDiv (0 + 32) 32 = 1 := rfl
  unfold harnessLoad
  rw [hregion, ← hread]
  simp only [inHarness, hheld, hpart, hoff, hplace, haddress, hcols, harnessCols, hone]
  simp [slice_whole hlen]

/-- A command that keeps its operation's limits starts: the host's sequence joins the channel's, and its unit has begun (R259, R264). -/
theorem hostCommand_starts {s : State} {ck b op flags tag : Nat} (hb : b < 32)
    (hok : cmdOk s (ck / 32) op flags (unitState s (ck * 32 + b)).cw = true) {t : State} (ht : t = hostCommand op flags tag ck [ck * 32 + b] s) :
    (chanAt t ck).seqs = (chanAt s ck).seqs ++ [hostSeq op flags tag b (unitState s (ck * 32 + b))] ∧
      (unitState t (ck * 32 + b)).face = ((unitState s (ck * 32 + b)).v, false) ∧
      (op = 0x01 → (unitState t (ck * 32 + b)).a0 = zeros16 ∧ (unitState t (ck * 32 + b)).a1 = zeros16 ∧
        (unitState t (ck * 32 + b)).count = 0 ∧ (unitState t (ck * 32 + b)).fifo = []) := by
  have hbank : (ck * 32 + b) % 32 = b := by omega
  rw [hostCommand_ok hok, hbank] at ht
  obtain ⟨u, hface, hkept, hclear⟩ := beginUnit_of_host (q := hostSeq op flags tag b (unitState s (ck * 32 + b))) rfl (ck * 32 + b)
    (putChan ck { chanAt s ck with seqs := (chanAt s ck).seqs ++ [hostSeq op flags tag b (unitState s (ck * 32 + b))] } s)
  rw [← ht] at hkept hclear
  refine ⟨(hkept.seqs ck).trans (congrArg Chan.seqs (chanAt_putChan_same ..)), ?_, fun hop => ?_⟩
  · rw [hkept.unit, unitState_putUnit_same, hface]
    rfl
  · obtain ⟨heq, ha0, ha1, hcount, hfifo⟩ := hclear hop
    rw [heq, unitState_putUnit_same]
    exact ⟨ha0, ha1, hcount, hfifo⟩

/-- A command that does not is refused: BAD_CMD and the first error of the page say so (R259, R40). -/
theorem refuseUnit_refuses (bk : Nat) (s : State) : unitState (refuseUnit bk s) bk = { unitState s bk with badCmd := true } ∧
    (∀ k, (chanAt (refuseUnit bk s) k).seqs = (chanAt s k).seqs) ∧
    (rd s (buPage bk) .hdrErrValid = 0 → rd (refuseUnit bk s) (buPage bk) .hdrErrCode = 3) := by
  refine ⟨?_, fun k => ?_, fun hvalid => ?_⟩
  · rw [refuseUnit, unitState_congr ((logErr_upd ..).same .units rfl), unitState_putUnit_same]
  · rw [refuseUnit, chanAt_congr ((logErr_upd ..).same .chans rfl)]
    rfl
  · rw [refuseUnit, errCode_logErr]
    · rfl
    · rw [rd, rdi_putUnit]
      exact hvalid

/-- Settles O40. A taken access is noted and charged, which leaves the units; then the special column is stored, read or takes the command. -/
theorem hostBankCommands : Obligations.HostBankCommands := by
  refine ⟨?register, ?control, ?codebook, ?pop, ?command, ?busy, ?broadcast⟩
  case register =>
    intro dpa d c b sc data s htakes hsc hbusy hlen
    have hstore := (harnessStore_special htakes (by omega) hbusy hlen).trans (specialWrite_v hsc ..)
    rw [unitState_harnessNoted] at hstore
    have hexec : exec (.vRegisterWrite dpa data) s = .next (harnessStore dpa data s) := by
      have hcol : (scOfDpa s dpa).any (· < 8) = true := by simp [scOfDpa_of_takes htakes, hsc]
      exact congrArg Host.Outcome.next (if_pos hcol)
    refine ⟨_, hexec.trans (congrArg _ hstore), ?_, fun i hi => ?_, ?_, fun k hk => ?_, ?_⟩
    · rw [unitState_putUnit_same, setAt_getD, if_pos rfl]
    · rw [unitState_putUnit_same, setAt_getD, if_neg hi]
    · rw [unitState_putUnit_same]
    · rw [unitState_putUnit_other hk, unitState_harnessNoted]
    · exact (((harnessNoted_upd ..).mono rfl).trans ((putUnit_upd ..).mono rfl)).same
  case control =>
    intro dpa d c b data s htakes hbusy hlen
    have hstore := harnessStore_special htakes (by decide) hbusy hlen
    have hexec : exec (.cwWrite dpa data) s = .next (harnessStore dpa data s) :=
      congrArg Host.Outcome.next (if_pos (scOfDpa_of_takes htakes))
    refine hexec.trans (congrArg _ (hstore.trans ?_))
    rw [← harnessNoted, ← unitState_harnessNoted 0x0A d (ckOf d c * 32 + b) 8 s]
    rfl
  case codebook =>
    intro dpa d c b data s htakes hbusy hlen
    have hstore := harnessStore_special htakes (by decide) hbusy hlen
    have hexec : exec (.cblWrite dpa data) s = .next (harnessStore dpa data s) :=
      congrArg Host.Outcome.next (if_pos (scOfDpa_of_takes htakes))
    have hput : specialWrite 10 data (ckOf d c * 32 + b) (harnessNoted 0x0A d (ckOf d c * 32 + b) 10 s) = putUnit (ckOf d c * 32 + b)
        { unitState s (ckOf d c * 32 + b) with latch := { (unitState s (ckOf d c * 32 + b)).latch with
          book := setBits (unitState s (ckOf d c * 32 + b)).latch.book 63 0 (leNat data % 2 ^ 64) } }
        (harnessNoted 0x0A d (ckOf d c * 32 + b) 10 s) := by
      rw [← unitState_harnessNoted 0x0A d (ckOf d c * 32 + b) 10 s]
      rfl
    refine ⟨_, hexec.trans (congrArg _ (hstore.trans hput)), ?_, ?_, ?_, fun k hk => ?_, ?_⟩
    · rw [unitState_putUnit_same, bits_setBits_low, leNat_take, Nat.mod_mod]
    · rw [unitState_putUnit_same]
    · rw [unitState_putUnit_same]
    · rw [unitState_putUnit_other hk, unitState_harnessNoted]
    · exact (((harnessNoted_upd ..).mono rfl).trans ((putUnit_upd ..).mono rfl)).same
  case pop =>
    rintro dpa d c b u s htakes rfl hdpa
    have hexec : exec (.fifoPop dpa) s = .next (harnessLoad dpa 32 s) := congrArg Host.Outcome.next (if_pos (scOfDpa_of_takes htakes))
    have hunit : unitState (harnessLoad dpa 32 s) (ckOf d c * 32 + b) = (unitState s (ckOf d c * 32 + b)).pop 4 := by
      rw [harnessLoad_pop htakes hdpa]
      exact unitState_putUnit_same ..
    refine ⟨_, hexec, hunit, fun hpend hfifo => hunit.trans (BankUnit.pop_of_none_waits hpend hfifo 4), ?_, fun k hk => ?_, ?_⟩
    · rw [harnessLoad_pop htakes hdpa]
      exact congrArg (· ++ _) ((harnessNoted_upd 0x09 d (ckOf d c * 32 + b) 17 s).same .outbox rfl)
    · rw [harnessLoad_pop htakes hdpa]
      exact (unitState_putUnit_other hk ..).trans (unitState_harnessNoted ..)
    · rw [harnessLoad_pop htakes hdpa]
      exact ((((harnessNoted_upd ..).mono rfl).trans ((putUnit_upd ..).mono rfl)).trans ((emit_upd ..).mono rfl)).same
  case command =>
    rintro dpa flags tag d c b op i u s htakes hbusy rfl hflags htag hb hi
    have hcmd : op < 256 ∧ exec i s = .next (cmdWrite op dpa flags tag s) := by
      simp only [List.mem_cons, Prod.mk.injEq, List.not_mem_nil, or_false] at hi
      rcases hi with ⟨rfl, rfl⟩ | ⟨rfl, rfl⟩ | ⟨rfl, rfl⟩ | ⟨rfl, rfl⟩ | ⟨rfl, rfl⟩ |
        ⟨rfl, rfl⟩ | ⟨rfl, rfl⟩ | ⟨rfl, rfl⟩ | ⟨rfl, rfl⟩
      all_goals exact ⟨by decide, rfl⟩
    obtain ⟨hop, hexec⟩ := hcmd
    rw [cmdWrite_taken htakes hbusy hop hflags htag] at hexec
    have hc : c < 32 := by
      obtain ⟨off, hregion, -⟩ := htakes
      exact regionOf_harness_chan hregion
    generalize hnoted : harnessNoted 0x0A d (ckOf d c * 32 + b) 9 s = t at hexec
    have hunits (k : Nat) : unitState t k = unitState s k := hnoted ▸ unitState_harnessNoted ..
    have hseqs (k : Nat) : (chanAt t k).seqs = (chanAt s k).seqs := hnoted ▸ (harnessNoted_kept ..).seqs k
    have hcmdOk : cmdOk t (ckOf d c / 32) op flags (unitState t (ckOf d c * 32 + b)).cw =
        cmdOk s d op flags (unitState s (ckOf d c * 32 + b)).cw := by
      rw [ckOf_stack hc, cmdOk_of_calm (hnoted ▸ harnessNoted_calm ..), hunits]
    refine ⟨fun hok => ?_, fun hbad => ?_⟩
    · obtain ⟨hjoined, hface, hclear⟩ := hostCommand_starts (tag := tag) hb (hcmdOk.trans hok) rfl
      obtain ⟨hv, hbadCmd⟩ := Prod.mk.inj hface
      rw [hunits] at hjoined hv
      rw [hseqs] at hjoined
      exact ⟨_, _, hexec, hjoined, rfl, rfl, rfl, rfl, rfl, rfl, rfl, hbadCmd, hv, hclear⟩
    · obtain ⟨hunit, hkept, hcode⟩ := refuseUnit_refuses (ckOf d c * 32 + b) t
      rw [hostCommand_refused (hcmdOk.trans hbad)] at hexec
      have hpage : buPage (ckOf d c * 32 + b) = (buOf d).page := by rw [buPage, unitOf_stack hc hb]
      have hvalid : rd t (buOf d).page .hdrErrValid = rd s (buOf d).page .hdrErrValid := by
        rw [rd, ← hnoted, (harnessNoted_upd ..).rdi rfl, ← rd]
      rw [hunits] at hunit
      rw [hpage, hvalid] at hcode
      exact ⟨_, hexec, hunit, fun k => (hkept k).trans (hseqs k), hcode⟩
  case busy =>
    intro dpa d c b sc data s htakes hsc hbusy hlen
    have hcol : (scOfDpa s dpa).any (· < 8) = true := by simp [scOfDpa_of_takes htakes, hsc]
    have hexec : exec (.vRegisterWrite dpa data) s = .next (harnessStore dpa data s) := congrArg Host.Outcome.next (if_pos hcol)
    obtain ⟨off, hregion, haddr, hoff, hm, hheld, hpart⟩ := htakes
    rw [harnessStore_column hregion hoff hheld hpart hlen, harnessWrite_busy haddr hoff hm hbusy hlen, harnessErr,
      ckOf_stack (regionOf_harness_chan hregion)] at hexec
    refine ⟨_, hexec, ?_, ?_, ?_⟩
    · exact (((count_upd ..).same .units rfl).trans ((raise_upd ..).same .units rfl)).trans ((logErr_upd ..).same .units rfl)
    · exact (logErr_rises ..).keeps _ 17 (by decide) (bit_rd_raise (by decide) ..)
    · rw [rd, (logErr_upd ..).rdi rfl, rdi_raise_fld (by decide)]
      exact rd_count_same ..
  case broadcast =>
    intro dpa d c b sc off data s hregion haddr hoff hm hheld hpart hreq hsc hlen hidle
    have hcol : (scOfDpa s dpa).any (· < 8) = true := by simp [scOfDpa_of_harness hregion haddr, hsc]
    have hexec : exec (.vRegisterWrite dpa data) s = .next (harnessStore dpa data s) := congrArg Host.Outcome.next (if_pos hcol)
    rw [harnessStore_column hregion hoff hheld hpart hlen, harnessWrite_broadcast haddr hoff hm hreq hsc hlen hidle] at hexec
    refine ⟨_, hexec, fun n hn => ⟨fun hbit => ?_, fun hbit => ?_⟩⟩
    · refine foldl_reaches (Q := fun t => (unitState t (ckOf d c * 32 + n)).v.getD sc 0 = leNat data) (a := ckOf d c * 32 + n) ?_ (fun t => ?_)
        fun t y ht => ?_
      · exact List.mem_map.2 ⟨n, List.mem_filter.2 ⟨List.mem_range.2 hn, by simpa using hbit⟩, rfl⟩
      · rw [v_specialWrite hsc, if_pos rfl]
      · rw [v_specialWrite hsc, ht, ite_self]
    · rw [List.foldl_map]
      have hother : ∀ m ∈ bitList (chanAt s (ckOf d c)).gang, ckOf d c * 32 + n ≠ ckOf d c * 32 + m := by
        intro m hmem heq
        obtain rfl : n = m := by omega
        have hone := (List.mem_filter.1 hmem).2
        simp [hbit] at hone
      generalize bitList (chanAt s (ckOf d c)).gang = l at hother
      have hkeep : ∀ t : State, unitState t (ckOf d c * 32 + n) = unitState s (ckOf d c * 32 + n) →
          unitState (l.foldl (fun t m => specialWrite sc data (ckOf d c * 32 + m) t) t) (ckOf d c * 32 + n) =
            unitState s (ckOf d c * 32 + n) := by
        induction l with
        | nil => exact fun t ht => ht
        | cons m l ih =>
          intro t ht
          refine ih (fun x hx => hother x (List.mem_cons_of_mem _ hx)) _ ?_
          rw [unitState_specialWrite_other hsc data (hother m List.mem_cons_self), ht]
      exact hkeep _ (unitState_harnessNoted ..)

end Sys2Proof.Machine
end

section
/-!
The steps of a gang: items, the parts of a ROWLIST, and the reports of its units (R257, R265-R268, R302, R303).
-/

namespace Sys2Proof.Machine

/-- What a unit reports of its last sequence, and the count that it will. -/
def BankUnit.report (u : BankUnit) : Nat × Nat × Nat × Nat × Nat := (u.last, u.lastOp, u.tag, u.scount, u.count)

theorem Kept.report {a b : State} (h : Kept BankUnit.work a b) : Kept BankUnit.report a b := h.map BankUnit.report

/-- A sequence is replaced: its channel's waiting requests are as before. -/
theorem WritesOnly.putSeq {s : State} {ck : Nat} (h : WritesOnly s ck) (k : Nat) (q : Seq) (new : Option Seq) :
    WritesOnly (putSeq k q new s) ck := by
  have hlate (r : LateReq) (hr : r ∈ (chanAt s ck).late) : r.Whole (Machine.putSeq k q new s) ck := (h.late r hr).of_maps rfl fun _ _ => rfl
  have hchan : ∃ l, chanAt (Machine.putSeq k q new s) ck = { chanAt s ck with seqs := l } := by
    rw [Machine.putSeq, chanAt_putChan]
    split
    case isTrue hk => exact ⟨_, by rw [hk]⟩
    case isFalse => exact ⟨_, rfl⟩
  obtain ⟨l, hl⟩ := hchan
  exact ⟨by rw [hl, h.reads], by rw [hl]; exact h.writes, by rw [hl]; exact hlate⟩

/-- The only sequence of a channel is replaced. -/
theorem seqs_putSeq {ck : Nat} {q : Seq} {s : State} (h : (chanAt s ck).seqs = [q]) (new : Option Seq) :
    (chanAt (putSeq ck q new s) ck).seqs = new.toList := by rw [putSeq_of_one h, chanAt_putChan_same]

/-! Items. -/

theorem runItems_kept (ck n : Nat) (q : Seq) (s : State) : KeptS s (runItems ck n q s) := by
  induction n generalizing q s with
  | zero => exact Kept.refl s
  | succ n ih =>
    rw [runItems]
    split
    · exact Kept.refl s
    split
    · exact Kept.refl s
    · have hitems : Kept BankUnit.face s (q.openBanks.foldl (fun t b => unitItem q (ck * 32 + b) t) (chargeChunks ck q s)) :=
        (chargeChunks_kept ..).foldl fun _ _ _ => unitItem_kept ..
      exact (hitems.trans (addSteps_kept (fun _ _ => rfl) ..)).trans (ih ..)

/-- Up to `n` items: the place moves on by no more, the banks and the control word stay. -/
theorem runItems_seq (ck n : Nat) (q : Seq) (s : State) : q.pos ≤ (runItems ck n q s).1.pos ∧ (runItems ck n q s).1.pos ≤ q.pos + n ∧
    (runItems ck n q s).1.banks = q.banks ∧ (runItems ck n q s).1.cw = q.cw := by
  induction n generalizing q s with
  | zero => exact ⟨Nat.le_refl _, Nat.le_refl _, rfl, rfl⟩
  | succ n ih =>
    rw [runItems]
    split
    · exact ⟨Nat.le_refl _, Nat.le_add_right .., rfl, rfl⟩
    split
    · exact ⟨Nat.le_refl _, Nat.le_add_right .., rfl, rfl⟩
    · obtain ⟨hlo, hhi, hbanks, hcw⟩ := ih { q with pos := q.pos + 1, emits := if emitsNow q then q.emits + 1 else q.emits }
        (addSteps ck q (itemSteps s (q.openBanks.foldl (fun t b => unitItem q (ck * 32 + b) t) (chargeChunks ck q s)) ck q)
          (q.openBanks.foldl (fun t b => unitItem q (ck * 32 + b) t) (chargeChunks ck q s)))
      exact ⟨Nat.le_trans (Nat.le_succ _) hlo, by dsimp only at hhi ⊢; omega, hbanks, hcw⟩

/-! The parts of a ROWLIST. -/

theorem rowParts_kept (ck n : Nat) (q : Seq) (s : State) : KeptS s (rowParts ck n q s) := by
  induction n generalizing q s with
  | zero => exact Kept.refl s
  | succ n ih =>
    have hparts : Kept BankUnit.face s (q.openBanks.foldl (fun t b => rowPart q (ck * 32 + b) t) s) :=
      (Kept.refl s).foldl fun _ _ _ => rowPart_kept ..
    rw [rowParts]
    split
    · exact (Kept.refl s).foldl fun _ _ _ => rowSecond_kept ..
    dsimp only
    split
    · exact hparts.trans (ih ..)
    split
    · exact hparts
    · exact hparts

theorem rowParts_second {q : Seq} (h : q.phase = true) (ck n : Nat) (s : State) :
    (rowParts ck (n + 1) q s).1 = { q with phase := false, pos := q.pos + 1 } := by rw [rowParts, if_pos h]

/-- In the first piece: the parts asked for, or all and then the second piece or the next item (R302, R303). -/
theorem rowParts_first {q : Seq} (h : q.phase = false) (ck n : Nat) (s : State) :
    (n ≠ 0 → q.parts ≤ q.part + n → (rowParts ck n q s).1 = { q with phase := true, part := 0 } ∨
      (rowParts ck n q s).1 = { q with part := 0, pos := q.pos + 1 }) ∧
    (q.part + n < q.parts → (rowParts ck n q s).1 = { q with part := q.part + n }) := by
  induction n generalizing q s with
  | zero => exact ⟨fun h0 => absurd rfl h0, fun _ => rfl⟩
  | succ n ih =>
    rw [rowParts, if_neg (by simp [h])]
    dsimp only
    split
    case isTrue hmore =>
      obtain ⟨hall, hsome⟩ := ih (q := { q with part := q.part + 1 }) h (q.openBanks.foldl (fun t b => rowPart q (ck * 32 + b) t) s)
      refine ⟨fun _ hle => hall ?_ ?_, fun hlt => (hsome ?_).trans ?_⟩
      · rintro rfl
        omega
      · exact Nat.le_trans hle (by dsimp only; omega)
      · exact Nat.lt_of_le_of_lt (by dsimp only; omega) hlt
      · simp only [Nat.add_assoc, Nat.add_comm 1 n]
    case isFalse hlast =>
      refine ⟨fun _ _ => ?_, fun hlt => absurd hlt (by omega)⟩
      split
      · exact .inl rfl
      · exact .inr rfl

/-! Reports. -/

/-- A stream chunk changes V0 to V7 of its unit alone. -/
theorem loadChunk_kept {τ : Type} {f : BankUnit → τ} (hf : ∀ u v, f { u with v := v } = f u) (q : Seq) (bk c : Nat) (s : State) :
    Kept f s (loadChunk q bk c s) := .ite (fun _ => Kept.refl s) fun _ => (Kept.refl s).putUnit (hf ..)

/-- What a unit does before it reports: the last chunks reach it, and its POISON marks are written (R260, R366). -/
theorem settled_kept (q : Seq) (bk : Nat) (s : State) : Kept BankUnit.report s (payUnitMarks bk (loadChunk q bk (chunkCount q - 1)
    (if 2 ≤ chunkCount q then loadChunk q bk (chunkCount q - 2) s else s))) := by
  have hload (c : Nat) (t : State) : Kept BankUnit.report t (loadChunk q bk c t) := loadChunk_kept (fun _ _ => rfl) q bk c t
  exact Kept.trans (.ite (fun _ => hload ..) fun _ => Kept.refl s) ((hload ..).trans (payUnitMarks_kept ..).report)

theorem completeUnit_kept (q : Seq) (bk : Nat) (s : State) : Kept BankUnit.count s (completeUnit q bk s) := by
  unfold completeUnit
  extract_lets t u e pad
  have ht : Kept BankUnit.count s t := (settled_kept q bk s).map fun r => r.2.2.2.2
  clear_value t
  exact Kept.count (by decide) (ht.putUnit rfl)

/-- The unit's status after it reports COMPLETED (R257). -/
def BankUnit.completed (u : BankUnit) (q : Seq) : Prop := u.last = 1 ∧ u.lastOp = q.op ∧ u.tag = q.tag ∧ u.scount = u.count

theorem completeUnit_completed (q : Seq) (bk : Nat) (s : State) : (unitState (completeUnit q bk s) bk).completed q := by
  unfold completeUnit
  extract_lets t u e pad
  rw [unitState_congr ((count_upd ..).same .units rfl), unitState_putUnit_same]
  exact ⟨rfl, rfl, rfl, rfl⟩

theorem BankUnit.completed_of_report {u v : BankUnit} {q : Seq} (h : u.report = v.report) (hv : v.completed q) : u.completed q := by
  obtain ⟨hlast, hop, htag, hscount, hcount⟩ := (by simpa [BankUnit.report] using h :
    u.last = v.last ∧ u.lastOp = v.lastOp ∧ u.tag = v.tag ∧ u.scount = v.scount ∧ u.count = v.count)
  obtain ⟨h1, h2, h3, h4⟩ := hv
  exact ⟨hlast.trans h1, hop.trans h2, htag.trans h3, by rw [hscount, hcount, h4]⟩

/-- Another unit's report leaves one that has reported. -/
theorem completeUnit_keeps {q : Seq} {k : Nat} {s : State} (h : (unitState s k).completed q) (bk : Nat) :
    (unitState (completeUnit q bk s) k).completed q := by
  by_cases hk : k = bk
  · exact hk ▸ completeUnit_completed ..
  · have hreport := (settled_kept q bk s).unit k
    have hother : unitState (completeUnit q bk s) k = unitState (payUnitMarks bk (loadChunk q bk (chunkCount q - 1)
        (if 2 ≤ chunkCount q then loadChunk q bk (chunkCount q - 2) s else s))) k := by
      unfold completeUnit
      extract_lets t u e pad
      rw [unitState_congr ((count_upd ..).same .units rfl), unitState_putUnit_other hk]
    exact BankUnit.completed_of_report (hother ▸ hreport) h

end Sys2Proof.Machine
end

section
/-!
GANG_COMMAND: what its bus commands, its units and its sequence become (R257, R259, R277).
-/

namespace Sys2Proof.Machine

/-- Of the bank units, one alone is touched, and nothing else. -/
structure OneUnit (bk : Nat) (a b : State) : Prop where
  upd : Upd [.units] a b
  other : ∀ k, k ≠ bk → unitState b k = unitState a k

theorem OneUnit.trans {bk : Nat} {a b c : State} (h : OneUnit bk a b) (h' : OneUnit bk b c) : OneUnit bk a c :=
  ⟨h.upd.trans h'.upd, fun k hk => (h'.other k hk).trans (h.other k hk)⟩

theorem putUnit_oneUnit (bk : Nat) (u : BankUnit) (s : State) : OneUnit bk s (putUnit bk u s) :=
  ⟨putUnit_upd .., fun _ hk => unitState_putUnit_other hk ..⟩

theorem loadChunk_oneUnit (q : Seq) (bk c : Nat) (s : State) : OneUnit bk s (loadChunk q bk c s) := by
  refine ⟨loadChunk_upd .., fun k hk => ?_⟩
  unfold loadChunk
  split
  · rfl
  · exact unitState_putUnit_other hk ..

/-- What GANG_COMMAND sets in a unit: its control word, BAD_CMD and its steps. -/
def BankUnit.begun (u : BankUnit) : Nat × Bool × Nat := (u.cw, u.badCmd, u.steps)

/-- An arithmetic operation begins on its unit alone, whose control word stays (R257, R259). -/
theorem beginUnit_arith {q : Seq} (hlo : 0x02 ≤ q.op) (hhi : q.op ≤ 0x05) (bk : Nat) (s : State) : OneUnit bk s (beginUnit q bk s) ∧
    (unitState (beginUnit q bk s) bk).begun = ((unitState s bk).cw, false, 0) := by
  have hcopy : ¬q.op = 0x06 := by omega
  have hrow : ¬(decide (q.op = 0x11) || decide (q.op = 0x12)) = true := by
    simp
    omega
  have hload (c : Nat) (t : State) : Kept BankUnit.begun t (loadChunk q bk c t) := loadChunk_kept (fun _ _ => rfl) ..
  unfold beginUnit
  extract_lets u0 acc clr u1 u2 t t1
  have ht1 : t1 = t := by simp only [t1, if_neg hcopy, if_neg hrow]
  rw [ht1]
  refine ⟨((putUnit_oneUnit ..).trans (loadChunk_oneUnit ..)).trans (loadChunk_oneUnit ..), ?_⟩
  rw [((hload 0 t).trans (hload 1 _)).unit bk, unitState_putUnit_same]
  simp only [u2, u1, BankUnit.begun]
  split <;> rfl

/-- The banks of a gang, one after another, on channel `ck`: the units of other banks are as before. -/
theorem foldl_banks_other {ck k : Nat} {l : List Nat} {f : State → Nat → State} (hk : ∀ b ∈ l, k ≠ ck * 32 + b)
    (hf : ∀ t b, k ≠ ck * 32 + b → unitState (f t b) k = unitState t k) (s : State) : unitState (l.foldl f s) k = unitState s k := by
  induction l generalizing s with
  | nil => rfl
  | cons b l ih =>
    rw [List.foldl_cons, ih fun x hx => hk x (List.mem_cons_of_mem _ hx)]
    exact hf s b (hk b List.mem_cons_self)

theorem foldl_beginUnit_upd {q : Seq} (hlo : 0x02 ≤ q.op) (hhi : q.op ≤ 0x05) (ck : Nat) (l : List Nat) (s : State) :
    Upd [.units] s (l.foldl (fun t b => beginUnit q (ck * 32 + b) t) s) :=
  (Upd.refl s).foldl fun _ _ ht => ht.trans (beginUnit_arith hlo hhi ..).1.upd

/-- Every unit of the gang has begun, with the control word that it had. -/
theorem foldl_beginUnit_begun {q : Seq} (hlo : 0x02 ≤ q.op) (hhi : q.op ≤ 0x05) {ck b w : Nat} {l : List Nat} (hb : b ∈ l) {s : State}
    (hw : (unitState s (ck * 32 + b)).cw = w) :
    (unitState (l.foldl (fun t b => beginUnit q (ck * 32 + b) t) s) (ck * 32 + b)).begun = (w, false, 0) := by
  have hcw (t : State) (m : Nat) (ht : (unitState t (ck * 32 + b)).cw = w) : (unitState (beginUnit q (ck * 32 + m) t) (ck * 32 + b)).cw = w := by
    obtain ⟨hone, hbegun⟩ := beginUnit_arith hlo hhi (ck * 32 + m) t
    by_cases hm : ck * 32 + b = ck * 32 + m
    · rw [← hm] at hbegun
      rw [← hm]
      exact (congrArg Prod.fst hbegun).trans ht
    · rw [hone.other _ hm, ht]
  have hall := foldl_keeps (Q := fun t => (unitState t (ck * 32 + b)).cw = w) (l := l) (f := fun t m => beginUnit q (ck * 32 + m) t) hw hcw
  have hset := foldl_reaches (Q := fun t => ((unitState t (ck * 32 + b)).badCmd, (unitState t (ck * 32 + b)).steps) = (false, 0)) (x := s) hb
    (f := fun t m => beginUnit q (ck * 32 + m) t) (fun t => congrArg Prod.snd (beginUnit_arith hlo hhi ..).2) fun t m ht => by
      obtain ⟨hone, hbegun⟩ := beginUnit_arith hlo hhi (ck * 32 + m) t
      by_cases hm : ck * 32 + b = ck * 32 + m
      · rw [← hm] at hbegun ⊢
        exact congrArg Prod.snd hbegun
      · rw [hone.other _ hm, ht]
  exact Prod.ext hall hset

section Gang

variable {g c k h : Nat} {f : BkFlight} {w : Work} {q : Seq} {s : State}

/-- The units' control words, and with a codebook their latches, are written. -/
def gangWords (ck : Nat) (q : Seq) (cbl : Bool) (book : Nat) (s : State) : State :=
  q.banks.foldl (fun t b =>
    let u := unitState t (ck * 32 + b)
    let u := { u with cw := q.cw }
    putUnit (ck * 32 + b) (if cbl then { u with latch := { u.latch with book := book } } else u) t) s

theorem gangWords_upd (ck : Nat) (q : Seq) (cbl : Bool) (book : Nat) (s : State) : Upd [.units] s (gangWords ck q cbl book s) :=
  (Upd.refl s).foldl fun _ _ ht => ht.trans (putUnit_upd ..)

theorem gangWords_cw {ck b : Nat} {q : Seq} (hb : b ∈ q.banks) (cbl : Bool) (book : Nat) (s : State) :
    (unitState (gangWords ck q cbl book s) (ck * 32 + b)).cw = q.cw := by
  refine foldl_reaches (Q := fun t => (unitState t (ck * 32 + b)).cw = q.cw) hb (fun t => ?_) fun t m ht => ?_
  · rw [unitState_putUnit_same]
    split <;> rfl
  · rw [unitState_putUnit]
    split
    · split <;> rfl
    · exact ht

theorem gangWords_other {ck u : Nat} {q : Seq} (hu : ∀ b, b ∈ q.banks → u ≠ ck * 32 + b) (cbl : Bool) (book : Nat) (s : State) :
    unitState (gangWords ck q cbl book s) u = unitState s u :=
  foldl_banks_other hu (fun _ _ hb => unitState_putUnit_other hb ..) s

/-- GANG_COMMAND as the channel's bus sees it: HMR where the mask changes, then each special column of `cols`; the mask is the gang's. -/
def gangBus (ck g n mask : Nat) (cols : List Nat) (s : State) : State :=
  let t := if (chanAt s ck).gang = mask then s else writeHmr ck (some g) s
  let t := cols.foldl (fun t c => noteHarness 0x0A (ck * 32) c t) (harnessCharge n (some g) (32 * cols.length) t)
  putChan ck { chanAt t ck with gang := mask, waits := [] } t

theorem gangBus_calm (ck g n mask : Nat) (cols : List Nat) (s : State) : Calm s (gangBus ck g n mask cols s) := by
  unfold gangBus
  extract_lets t1 t2
  have h1 : Calm s t1 := by
    simp only [t1]
    split
    · exact Calm.refl s
    · exact (writeHmr_onlyChan ..).toCalm
  have h2 : Calm s t2 := (h1.trans (chargeAs_calm ..)).foldl fun _ _ => noteCmd_calm ..
  exact Calm.putChan rfl h2

theorem gangBus_upd (ck g n mask : Nat) (cols : List Nat) (s : State) : Upd [.chans, .regMcs, .servedBytes] s (gangBus ck g n mask cols s) := by
  unfold gangBus
  extract_lets t1 t2
  have h1 : Upd [.chans, .regMcs, .servedBytes] s t1 := Upd.ite (fun _ => Upd.refl s) fun _ => (writeHmr_upd ..).mono rfl
  have h2 : Upd [.chans, .regMcs, .servedBytes] s t2 :=
    (h1.trans ((harnessCharge_upd ..).mono rfl)).foldl fun _ _ ht => ht.trans ((noteHarness_upd ..).mono rfl)
  exact h2.trans ((putChan_upd ..).mono rfl)

theorem gangBus_gang (ck g n mask : Nat) (cols : List Nat) (s : State) : (chanAt (gangBus ck g n mask cols s) ck).gang = mask :=
  congrArg Chan.gang (chanAt_putChan_same ..)

/-- The channel is noted to have had its command. -/
def gangNoted (g c k h : Nat) (s : State) : State := mapFlight g c k (fun f => { f with commanded := f.commanded ++ [h] }) s

/-- The gang as it stands after its command, its sequence running. -/
def gangBegun (ck : Nat) (q q' : Seq) (s : State) : State := putSeq ck q (some q') (q.banks.foldl (fun t b => beginUnit q' (ck * 32 + b) t) s)

/-- A flight that has had a command has reported and received what it had. -/
theorem gangNoted_none_done (hdone : s.flights.filter BkFlight.isDone = []) : (gangNoted g c k h s).flights.filter BkFlight.isDone = [] := by
  rw [List.filter_eq_nil_iff] at hdone ⊢
  intro e he
  obtain ⟨x, hx, rfl⟩ := List.mem_map.1 he
  have hsame : (if x.isOf g c k then { x with commanded := x.commanded ++ [h] } else x).isDone = x.isDone := by split <;> rfl
  rw [hsame]
  exact hdone x hx

/-- After the command no flight is done where none was before. -/
theorem gangBegun_none_done {ck n mask book : Nat} {cbl : Bool} {cols : List Nat} {q' : Seq} (hlo : 0x02 ≤ q'.op) (hhi : q'.op ≤ 0x05)
    (hdone : s.flights.filter BkFlight.isDone = []) :
    (gangBegun ck q q' (gangNoted g c k h (gangWords ck q cbl book (gangBus ck g n mask cols s)))).flights.filter BkFlight.isDone = [] := by
  have hflights : (gangWords ck q cbl book (gangBus ck g n mask cols s)).flights = s.flights :=
    ((gangBus_upd ..).same .flights rfl).trans ((gangWords_upd ..).same .flights rfl)
  have hbegin : (gangBegun ck q q' (gangNoted g c k h (gangWords ck q cbl book (gangBus ck g n mask cols s)))).flights =
      (gangNoted g c k h (gangWords ck q cbl book (gangBus ck g n mask cols s))).flights := (foldl_beginUnit_upd hlo hhi ..).same .flights rfl
  rw [hbegin]
  exact gangNoted_none_done (by rw [hflights, hdone])

/-- GANG_COMMAND of an uploaded descriptor whose sequence is the channel's only one (R257, R277). -/
theorem exec_gangCommand (hflight : flightOf s g c k = some f)
    (hlive : (((ctxAt s (ctxId g c)).q qBk).live.find? fun w => w.k = k) = some w) (hup : f.uploaded = true)
    (hseqs : (chanAt s (ckOf f.stack h)).seqs = [q]) (hst : q.st = .queued) (hg : q.core = g) (hc : q.ctx = c) (hk : q.k = k)
    (hm : (chanAt s (ckOf f.stack h)).hm = .on) (hserves : chanServes s (ckOf f.stack h) = true)
    (hcmd : cmdOk s f.stack q.op q.flags q.cw = true) (hopen : ∀ n, harnessOpen s f.stack (some g) n = true) :
    ∃ (cbl : Bool) (book : Nat) (cols : List Nat) (left : Bool), exec (.gangCommand g c k h) s = .next (settleFlights
      (if left then gangBegun (ckOf f.stack h) q { q with stream := f.stream, streamBad := f.streamBad, st := .running }
          (gangNoted g c k h (gangWords (ckOf f.stack h) q cbl book (gangBus (ckOf f.stack h) g f.stack (q.banks.map (2 ^ ·)).sum cols s)))
        else engineFree g qBk c k (gangBegun (ckOf f.stack h) q { q with stream := f.stream, streamBad := f.streamBad, st := .running }
          (gangNoted g c k h (gangWords (ckOf f.stack h) q cbl book (gangBus (ckOf f.stack h) g f.stack (q.banks.map (2 ^ ·)).sum cols s)))))) := by
  have hfind : ((chanAt s (ckOf f.stack h)).seqs.find? fun q => q.st = .queued) = some q := by simp [hseqs, hst]
  have hcalm (cbl : Bool) (book : Nat) (cols : List Nat) : Calm s (gangNoted g c k h
      (gangWords (ckOf f.stack h) q cbl book (gangBus (ckOf f.stack h) g f.stack (q.banks.map (2 ^ ·)).sum cols s))) :=
    ((gangBus_calm ..).trans (.of_upd (gangWords_upd ..) ⟨rfl, rfl, rfl, rfl, rfl⟩)).trans
      (.of_upd (mapFlight_upd ..) ⟨rfl, rfl, rfl, rfl, rfl⟩)
  have hok (cbl : Bool) (book : Nat) (cols : List Nat) := (cmdOk_of_calm (hcalm cbl book cols) f.stack q.op q.flags q.cw).trans hcmd
  have hother : ¬(!(decide (q.core = g) && decide (q.ctx = c) && decide (q.k = k)) || !f.uploaded ||
      (chanAt s (ckOf f.stack h)).hm != .on || !chanServes s (ckOf f.stack h) || (chanAt s (ckOf f.stack h)).seqs.any fun e =>
        e.st != .queued && (!e.host || e.banks.any q.banks.contains) && (e.st != .draining || e.banks.any fun b =>
          q.banks.contains b && !e.gone.contains b)) = true := by simp [hseqs, hst, hg, hc, hk, hup, hm, hserves]
  generalize hr : exec (.gangCommand g c k h) s = r
  change execGangCommand g c k h s = r at hr
  unfold execGangCommand at hr
  simp -zeta only [hflight, hlive] at hr
  extract_lets -underBinder +onlyGivenNames ck ch at hr
  simp -zeta only [show ch.seqs.find? (fun q => q.st = .queued) = some q from hfind] at hr
  extract_lets -underBinder +onlyGivenNames cbl mask cols at hr
  rw [if_neg (by simp [hopen]), if_neg hother] at hr
  extract_lets -underBinder +onlyGivenNames x q' s1 s2 src s3 s4 s5 s6 left at hr
  have h5 : s5 = gangNoted g c k h (gangWords ck q cbl x.st.codebook (gangBus ck g f.stack mask cols s)) := rfl
  have h6 : s6 = gangBegun ck q q' s5 := if_pos (h5 ▸ hok ..)
  exact ⟨cbl, x.st.codebook, cols, left, by rw [← hr, h6, h5]⟩

end Gang

end Sys2Proof.Machine
end

section
/-!
The state after each event of a bank sequence that is the only one of its channel (R257, R265-R269, R272, R273, R277, R302, R338).
-/

namespace Sys2Proof.Machine

/-- GANG_COMMAND's end: the sequence that runs, the mask and the units (R257, R259). -/
theorem gangBegun_gang {ck g n : Nat} {q q' : Seq} {s t : State} (hseqs : (chanAt s ck).seqs = [q]) (hlo : 0x02 ≤ q'.op) (hhi : q'.op ≤ 0x05)
    {c k h mask book : Nat} {cbl : Bool} {cols : List Nat}
    (ht : t = gangBegun ck q q' (gangNoted g c k h (gangWords ck q cbl book (gangBus ck g n mask cols s)))) :
    (chanAt t ck).seqs = [q'] ∧ (chanAt t ck).gang = mask ∧
      (∀ b, b ∈ q.banks → (unitState t (ck * 32 + b)).begun = (q.cw, false, 0)) ∧
      ∀ u, (∀ b, b ∈ q.banks → u ≠ ck * 32 + b) → unitState t u = unitState s u := by
  generalize hbus : gangBus ck g n mask cols s = s1 at ht
  have hgang : (chanAt s1 ck).gang = mask := hbus ▸ gangBus_gang ..
  have hseqs1 : (chanAt s1 ck).seqs = [q] := by
    rw [← hbus]
    exact (congrArg (fun x => x.2.2.2.1) ((gangBus_calm ck g n mask cols s).chan ck)).trans hseqs
  have hunits1 (u : Nat) : unitState s1 u = unitState s u := hbus ▸ unitState_congr ((gangBus_upd ..).same .units rfl) u
  generalize hprep : gangNoted g c k h (gangWords ck q cbl book s1) = s2 at ht
  have hprepUpd : Upd [.units, .flights] s1 s2 := hprep ▸ ((gangWords_upd ..).mono rfl).trans ((mapFlight_upd ..).mono rfl)
  have hcw (b : Nat) (hb : b ∈ q.banks) : (unitState s2 (ck * 32 + b)).cw = q.cw := hprep ▸ gangWords_cw hb cbl book s1
  have hother (u : Nat) (hu : ∀ b, b ∈ q.banks → u ≠ ck * 32 + b) : unitState s2 u = unitState s1 u :=
    hprep ▸ gangWords_other hu cbl book s1
  have hchan : chanAt (q.banks.foldl (fun t b => beginUnit q' (ck * 32 + b) t) s2) ck = chanAt s1 ck :=
    chanAt_congr ((hprepUpd.same .chans rfl).trans ((foldl_beginUnit_upd hlo hhi ..).same .chans rfl)) ck
  have hput : t = putChan ck { chanAt s1 ck with seqs := [q'] } (q.banks.foldl (fun t b => beginUnit q' (ck * 32 + b) t) s2) := by
    rw [ht, gangBegun, putSeq_of_one ((congrArg Chan.seqs hchan).trans hseqs1), hchan, Option.toList_some]
  rw [hput, chanAt_putChan_same]
  refine ⟨rfl, hgang, fun b hb => foldl_beginUnit_begun hlo hhi hb (hcw b hb), fun u hu => ?_⟩
  refine (foldl_banks_other hu (fun t b hb => (beginUnit_arith hlo hhi (ck * 32 + b) t).1.other u hb) s2).trans ?_
  rw [hother u hu, hunits1]

/-! The other events, of the only sequence of a channel. -/

section Events

variable {d h b ck : Nat} {q : Seq} {s : State}

theorem exec_rowlistPiece {parts : Nat} (hof : seqOf s (ckOf d h) b [.running] = some q) (hop : q.op = 0x10) (hpos : q.pos < seqItems q)
    (hstall : seqStalled s (ckOf d h) q = false) (hparts : parts ≠ 0) : exec (.rowlistPiece d h b parts) s =
      .next (putSeq (ckOf d h) q (some (rowParts (ckOf d h) parts q (chargeChunks (ckOf d h) q s)).1)
        (rowParts (ckOf d h) parts q (chargeChunks (ckOf d h) q s)).2) := by
  show execRowlistPiece d h b parts s = _
  simp [execRowlistPiece, hof, hop, hpos, hstall, hparts]

/-- What a gang has done of its leg when it ends. -/
def legItems (ck items : Nat) (q : Seq) (s : State) : Seq × State :=
  if q.st = .running then runItems ck (min items (seqItems q)) q s else (q, s)

theorem legItems_kept (ck items : Nat) (q : Seq) (s : State) : KeptS s (legItems ck items q s) := by
  unfold legItems
  split
  · exact runItems_kept ..
  · exact Kept.refl s

theorem legItems_seq (ck items : Nat) (q : Seq) (s : State) : q.pos ≤ (legItems ck items q s).1.pos ∧
    (legItems ck items q s).1.pos ≤ q.pos + items ∧ (legItems ck items q s).1.banks = q.banks ∧ (legItems ck items q s).1.cw = q.cw := by
  unfold legItems
  split
  · obtain ⟨hlo, hhi, hbanks, hcw⟩ := runItems_seq ck (min items (seqItems q)) q s
    exact ⟨hlo, by omega, hbanks, hcw⟩
  · exact ⟨Nat.le_refl _, Nat.le_add_right .., rfl, rfl⟩

theorem exec_legEnd {items steps : Nat} (hof : seqOf s (ckOf d h) b [.running, .wait] = some q) (hpart : q.part = 0) :
    exec (.legEnd d h b items steps) s = .next (legBoundary (ckOf d h) (putSeq (ckOf d h) q
      (some { (legItems (ckOf d h) items q s).1 with st := .gap })
      (addSteps (ckOf d h) q (if 0x10 ≤ q.op then steps else 0) (legItems (ckOf d h) items q s).2))) := by
  show execLegEnd d h b items steps s = _
  simp [execLegEnd, hof, hpart, legItems]

theorem exec_gangResume {gapNs : Nat} (hof : seqOf s (ckOf d h) b [.gap] = some q) (hgap : 100 * rd s 0x2040 .pwrBuGap ≤ gapNs)
    (hserves : chanServes s (ckOf d h) = true) (hfree : gapBusy s (ckOf d h) q = false) (t : State)
    (ht : t = count (buOf d).page .bkuGapNs gapNs (putChan (ckOf d h) { chanAt s (ckOf d h) with waits := [] } s)) :
    exec (.gangResume d h b gapNs) s = .next (putSeq (ckOf d h) q (some { q with
      st := if seqItems q ≤ q.pos || !seqStalled t (ckOf d h) q then .running else .wait }) t) := by
  show execGangResume d h b gapNs s = _
  have hlong : ¬gapNs < 100 * rd s 0x2040 .pwrBuGap := by omega
  simp [execGangResume, hof, hlong, hserves, hfree, ht]

theorem exec_gangWaitEnd {steps : Nat} (hof : seqOf s (ckOf d h) b [.wait] = some q) (hstall : seqStalled s (ckOf d h) q = false) :
    exec (.gangWaitEnd d h b steps) s =
      .next (putSeq (ckOf d h) q (some { q with st := .running }) (count (buOf d).page .bkuWaitSteps steps s)) := by
  show execGangWaitEnd d h b steps s = _
  simp [execGangWaitEnd, hof, hstall]

/-- The units of a sequence report COMPLETED, `steps` column steps after the last leg's. -/
def gangReported (ck steps : Nat) (q : Seq) (s : State) : State :=
  q.openBanks.foldl (fun t b => completeUnit q (ck * 32 + b) t) (addSteps ck q ((if 0x10 ≤ q.op then steps else 0) + oneShotSteps q) s)

theorem gangReported_kept (ck steps : Nat) (q : Seq) (s : State) : Kept BankUnit.count s (gangReported ck steps q s) :=
  (addSteps_kept (fun _ _ => rfl) ..).foldl fun _ _ _ => completeUnit_kept ..

theorem gangReported_completed {n : Nat} (hn : n ∈ q.openBanks) (ck steps : Nat) (s : State) :
    (unitState (gangReported ck steps q s) (ck * 32 + n)).completed q :=
  foldl_reaches (Q := fun t => (unitState t (ck * 32 + n)).completed q) hn (fun t => completeUnit_completed q (ck * 32 + n) t)
    fun _ m ht => completeUnit_keeps ht (ck * 32 + m)

theorem exec_seqLastStep {steps : Nat} (hof : seqOf s (ckOf d h) b [.running] = some q) (hdone : seqItems q ≤ q.pos) (hphase : q.phase = false)
    (hpart : q.part = 0) (hpend : ∀ n, n ∈ q.openBanks → (unitState s (ckOf d h * 32 + n)).pend = []) :
    exec (.seqLastStep d h b steps) s = .next (serveChan (ckOf d h) (putSeq (ckOf d h) q
      (some { q with st := .draining, ended := q.banks }) (gangReported (ckOf d h) steps q s))) := by
  show execSeqLastStep d h b steps s = _
  have hzero : seqItems q - q.pos = 0 := by omega
  have hnone : (q.openBanks.any fun n => !(unitState s (ckOf d h * 32 + n)).pend.isEmpty) = false := by
    simp only [List.any_eq_false]
    intro n hn
    simp [hpend n hn]
  have hmore : ¬q.pos < seqItems q := by omega
  simp only [execSeqLastStep, hof, hzero, runItems, hnone, gangReported]
  simp [hmore, hphase, hpart]

theorem exec_seqDrained (hseqs : (chanAt s (ckOf d h)).seqs = [q]) (hended : b ∈ q.ended) (hgone : b ∉ q.gone)
    (hout : (unitState s (ckOf d h * 32 + b)).out = []) (hfifo : q.host = true ∨ (unitState s (ckOf d h * 32 + b)).fifo = []) :
    exec (.seqDrained d h b) s = .next (settleFlights (putSeq (ckOf d h) q
      (if q.banks.all (q.gone ++ [b]).contains then none else some { q with gone := q.gone ++ [b] })
      (reportUnit q (ckOf d h * 32 + b) (unitState s (ckOf d h * 32 + b)).last (unitState s (ckOf d h * 32 + b)) s))) := by
  show execSeqDrained d h b s = _
  have hlast : (!q.host && decide (q.op = 0x05) && !(unitState s (ckOf d h * 32 + b)).fifo.isEmpty) = false := by
    rcases hfifo with hfifo | hfifo <;> simp [hfifo]
  simp [execSeqDrained, hseqs, hended, hgone, hout, hlast]

theorem exec_collectorSend {r : List Byte × Bool} {rs : List (List Byte × Bool)} (hseqs : (chanAt s (ckOf d h)).seqs = [q]) (hst : q.st ≠ .queued)
    (hhost : q.host = false) (hb : b ∈ q.banks) (hgone : b ∉ q.gone) (hcredits : creditsUsed s q.core d < 64)
    (hout : (unitState s (ckOf d h * 32 + b)).out = r :: rs) (hopen : harnessOpen s d (some q.core) (max r.1.length 32) = true) :
    exec (.collectorSend d h b) s = .next (sendRecord q (ckOf d h * 32 + b) r.1 r.2
      (putUnit (ckOf d h * 32 + b) { unitState s (ckOf d h * 32 + b) with out := rs } s)) := by
  show execCollectorSend d h b s = _
  have hfew : ¬64 ≤ creditsUsed s q.core d := by omega
  simp [execCollectorSend, hseqs, hst, hhost, hb, hgone, hfew, hout, hopen, sendFromUnit]

end Events

/-- A descriptor's flight after its flights take `k`, which leaves whose they are. -/
theorem flightOf_mapFlight {g c k : Nat} {m : BkFlight → BkFlight} (hm : ∀ f, (m f).isOf g c k = f.isOf g c k) (s : State) :
    flightOf (mapFlight g c k m s) g c k = (flightOf s g c k).map m := by
  have hcomp : ((fun f : BkFlight => f.isOf g c k) ∘ fun f => if f.isOf g c k then m f else f) = fun f => f.isOf g c k := by
    funext f
    dsimp only [Function.comp]
    split
    · exact hm f
    · rfl
  rw [flightOf, mapFlight, List.find?_map, hcomp]
  cases hfind : s.flights.find? fun f => f.isOf g c k with
  | none => simp [flightOf, hfind]
  | some f => simp [flightOf, hfind, List.find?_some hfind]

theorem flightOf_congr {s t : State} (h : t.flights = s.flights) (g c k : Nat) : flightOf t g c k = flightOf s g c k := by
  rw [flightOf, h, ← flightOf]

/-- A record that leaves its unit's slot arrives behind the descriptor's others, cut to what is left of the unit's region (R273, R279). -/
theorem arrived_sendRecord {q : Seq} {bk a : Nat} {f : BkFlight} {data : List Byte} {s : State} (hflight : flightOf s q.core q.ctx q.k = some f)
    (hbase : f.outBase = some a) (hn : min data.length (f.region - SMap.get (fun _ => 0) f.cur bk) ≠ 0) (poison : Bool) :
    (flightOf (sendRecord q bk data poison s) q.core q.ctx q.k).map BkFlight.arrived = some (f.arrived ++
      [⟨bk, a + f.rank bk * f.region + SMap.get (fun _ => 0) f.cur bk,
        data.take (min data.length (f.region - SMap.get (fun _ => 0) f.cur bk)), poison⟩]) := by
  have hbus : Upd [.regMcs, .servedBytes, .chans] s (noteHarness 0x09 bk 0 (harnessCharge (bk / 1024) q.issuer data.length s)) :=
    ((harnessCharge_upd ..).mono rfl).trans ((noteHarness_upd ..).mono rfl)
  unfold sendRecord
  extract_lets t
  rw [flightOf_mapFlight (by exact fun _ => rfl), flightOf_congr (hbus.same .flights rfl), hflight]
  simp only [Option.map_some, hbase, if_neg hn]

/-- A counter of a page alone. -/
theorem regsBut_count {f : Fld} (hf : f.row.dev = false) (p k : Nat) (s : State) : RegsBut [(p, f, 0)] s (count p f k s) := by
  have hpage : homePage p f = p := by simp [homePage, hf]
  have hplace : (homePage p f, f, 0 % 16384) ∈ [(p, f, 0)] := by simp [hpage]
  exact regsBut_wri hplace _ s

theorem unitState_putSeq (ck : Nat) (q : Seq) (new : Option Seq) (s : State) (k : Nat) : unitState (putSeq ck q new s) k = unitState s k := rfl

theorem BankUnit.count_of_report {u v : BankUnit} (h : u.report = v.report) : u.count = v.count := by
  simp only [BankUnit.report, Prod.mk.injEq] at h
  obtain ⟨-, -, -, -, hcount⟩ := h
  exact hcount

end Sys2Proof.Machine
end

section
/-!
O41: a bank sequence from its command to its report (R257, R265-R269, R272, R273, R277, R302, R338).
-/

namespace Sys2Proof.Machine

/-- Settles O41. Each event's equation gives its end; the gang's own work keeps the channel's sequences (`Kept`), and a channel that was
idle holds whole-column writes only, so that serving it at the end keeps them too. -/
theorem bankSequences : Obligations.BankSequences := by
  refine ⟨?command, ?piece, ?leg, ?resume, ?waited, ?last, ?drained, ?send⟩
  case command =>
    intro g c k h f w q s hflight hlive hup hseqs hst hhost hg hc hk hm hserves hcmd hlo hhi hnodup hdone hopen
    obtain ⟨cbl, book, cols, left, hexec⟩ := exec_gangCommand hflight hlive hup hseqs hst hg hc hk hm hserves hcmd hopen
    generalize ht : gangBegun (ckOf f.stack h) q { q with stream := f.stream, streamBad := f.streamBad, st := .running } (gangNoted g c k h
      (gangWords (ckOf f.stack h) q cbl book (gangBus (ckOf f.stack h) g f.stack (q.banks.map (2 ^ ·)).sum cols s))) = t at hexec
    obtain ⟨hrun, hgang, hbegun, hother⟩ := gangBegun_gang hseqs (by exact hlo) (by exact hhi) ht.symm
    have hnone : t.flights.filter BkFlight.isDone = [] := by
      rw [← ht]
      exact gangBegun_none_done (by exact hlo) (by exact hhi) hdone
    have hend : Upd [.engines] t (if left then t else engineFree g qBk c k t) := Upd.ite (fun _ => Upd.refl t) fun _ => engineFree_upd ..
    have hsettled : settleFlights (if left then t else engineFree g qBk c k t) = if left then t else engineFree g qBk c k t :=
      settleFlights_of_none ((congrArg (List.filter BkFlight.isDone) (hend.same .flights rfl)).trans hnone)
    rw [hsettled] at hexec
    have hchan := chanAt_congr (hend.same .chans rfl) (ckOf f.stack h)
    have hunit (u : Nat) := unitState_congr (hend.same .units rfl) u
    refine ⟨_, hexec, ?_, ?_, fun b hb => ?_, fun u hu => ?_⟩
    · rw [hchan, hrun]
    · rw [hchan, hgang]
    · obtain ⟨hcw, hrest⟩ := Prod.mk.inj (hbegun b hb)
      obtain ⟨hbad, hsteps⟩ := Prod.mk.inj hrest
      rw [hunit]
      exact ⟨hcw, hbad, hsteps⟩
    · rw [hunit, hother u hu]
  case piece =>
    rintro d h b parts ck q s rfl hseqs hof hop hpos hstall hparts
    have hkept : KeptS s (rowParts (ckOf d h) parts q (chargeChunks (ckOf d h) q s)) := (chargeChunks_kept ..).trans (rowParts_kept ..)
    refine ⟨_, _, exec_rowlistPiece hof hop hpos hstall hparts, seqs_putSeq ((hkept.seqs _).trans hseqs) _, fun hphase => ?_,
      fun hphase => (rowParts_first hphase ..).1 hparts, fun hphase => (rowParts_first hphase ..).2⟩
    obtain ⟨n, rfl⟩ := Nat.exists_eq_succ_of_ne_zero hparts
    exact rowParts_second hphase ..
  case leg =>
    rintro d h b items steps ck q s rfl hh hseqs hof hpart hidle
    have hkept : Kept BankUnit.face s (addSteps (ckOf d h) q (if 0x10 ≤ q.op then steps else 0) (legItems (ckOf d h) items q s).2) :=
      (legItems_kept ..).trans (addSteps_kept (fun _ _ => rfl) ..)
    have hleg := legBoundary_kept ((hkept.writes _ (writesOnly_of_idle hidle)).putSeq (ckOf d h) q
      (some { (legItems (ckOf d h) items q s).1 with st := .gap }))
    obtain ⟨hlow, hhigh, hbanks, hcw⟩ := legItems_seq (ckOf d h) items q s
    exact ⟨_, _, exec_legEnd hof hpart, (hleg.seqs _).trans (seqs_putSeq ((hkept.seqs _).trans hseqs) _), rfl, hlow, hhigh, hbanks, hcw⟩
  case resume =>
    rintro d h b gapNs ck q s rfl hseqs hof hgap hserves hfree
    have hexec := exec_gangResume hof hgap hserves hfree _ rfl
    have hput : Upd [.regBku, .chans] s (count (buOf d).page .bkuGapNs gapNs (putChan (ckOf d h) { chanAt s (ckOf d h) with waits := [] } s)) :=
      ((putChan_upd ..).mono rfl).trans ((count_upd ..).mono rfl)
    have hone : (chanAt (count (buOf d).page .bkuGapNs gapNs (putChan (ckOf d h) { chanAt s (ckOf d h) with waits := [] } s))
        (ckOf d h)).seqs = [q] :=
      (congrArg Chan.seqs (chanAt_putChan_same ..)).trans hseqs
    refine ⟨_, hexec, ?_, ⟨_, seqs_putSeq hone _, ?_⟩, ?_, ?_⟩
    · rw [rd, putSeq, rdi_putChan, ← rd, rd_count_same, rd, rdi_putChan, ← rd]
    · split
      · exact .inl rfl
      · exact .inr rfl
    · intro p f i hplace
      rw [putSeq, rdi_putChan, regsBut_count rfl _ _ _ p f i hplace, rdi_putChan]
    · exact (hput.trans ((putChan_upd ..).mono rfl)).same
  case waited =>
    rintro d h b steps ck q s rfl hseqs hof hstall
    refine ⟨_, exec_gangWaitEnd hof hstall, seqs_putSeq (by exact hseqs) _, ?_, ?_, ?_⟩
    · rw [rd, putSeq, rdi_putChan, ← rd, rd_count_same]
    · intro p f i hplace
      rw [putSeq, rdi_putChan, regsBut_count rfl _ _ _ p f i hplace]
    · exact (((count_upd ..).mono rfl).trans ((putChan_upd ..).mono rfl)).same
  case last =>
    rintro d h b steps ck q s rfl hh hseqs hof hdone hphase hpart hnodup hidle hpend
    have hkept := gangReported_kept (ckOf d h) steps q s
    have hserve := serveChan_kept ((hkept.writes _ (writesOnly_of_idle hidle)).putSeq (ckOf d h) q
      (some { q with st := .draining, ended := q.banks }))
    refine ⟨_, exec_seqLastStep hof hdone hphase hpart hpend, (hserve.seqs _).trans (seqs_putSeq ((hkept.seqs _).trans hseqs) _), fun n hn => ?_⟩
    have hreport := hserve.report.unit (ckOf d h * 32 + n)
    rw [unitState_putSeq] at hreport
    obtain ⟨hlast, hop, htag, hcount⟩ := BankUnit.completed_of_report hreport (gangReported_completed hn (ckOf d h) steps s)
    exact ⟨hlast, hop, htag, hcount.trans ((BankUnit.count_of_report hreport).trans (hkept.unit _))⟩
  case drained =>
    rintro d h b ck q s rfl hseqs hended hgone hout hfifo
    refine ⟨_, exec_seqDrained hseqs hended hgone hout hfifo, ?_⟩
    have hreport := chanAt_congr ((reportUnit_upd q (ckOf d h * 32 + b) (unitState s (ckOf d h * 32 + b)).last
      (unitState s (ckOf d h * 32 + b)) s).same .chans rfl) (ckOf d h)
    rw [chanAt_congr ((settleFlights_upd ..).same .chans rfl), seqs_putSeq ((congrArg Chan.seqs hreport).trans hseqs)]
    split <;> rfl
  case send =>
    rintro d h b ck bk a off n q f r rs s rfl rfl hseqs hst hhost hb hgone hcredits hout hflight hbase rfl rfl hn hopen
    refine ⟨_, exec_collectorSend hseqs hst hhost hb hgone hcredits hout hopen, ?_, ?_, ?_⟩
    · rw [unitState_congr ((sendRecord_upd ..).same .units rfl), unitState_putUnit_same]
    · refine arrived_sendRecord ?_ hbase hn r.2
      rwa [flightOf_congr ((putUnit_upd ..).same .flights rfl)]
    · exact (((putUnit_upd ..).mono rfl).trans ((sendRecord_upd ..).mono rfl)).same

end Sys2Proof.Machine
end
